-- ==== Sys2Proof/Word.lean ====
section
/-!
DEFINITION. Words of the machine: bytes, 32-bit and 64-bit words, and sparse tables.
-/
namespace Sys2Proof

/-- A byte of memory. -/
abbrev Byte := BitVec 8

/-- A register (R5) and the usual operand width. -/
abbrev W32 := BitVec 32

/-- A scalar register (Table INS-1) and a 64-bit register (R6). -/
abbrev W64 := BitVec 64

/-- A sparse table: keys strictly rising, and no entry equal to what an unlisted key holds. -/
abbrev Tab (α : Type) := List (Nat × α)

end Sys2Proof
end

