-- ==== Sys2Proof/Syntax.lean ====
section
/-!
DEFINITION. The commands of the Octath (opcode_table.json) and the types of their operands.
A Benrov instruction carries its context and bits [55:0] of its 64-bit word (R221); the opcode byte is the constructor.
What the analogue world, a pin, a packet or the far end of a link brings to the device stands in the operands.
-/
namespace Sys2Proof

/-- A sequencer context: core and context number (R12, R184). -/
structure CtxId where
  core : Fin 32
  ctx : Fin 4
deriving DecidableEq, Repr

/-- A core (R12). -/
abbrev CoreId := Fin 32

/-- An array by its global index (R13). -/
abbrev ArrId := Fin 2048

/-- A stream (R14). -/
abbrev StreamId := Fin 64

/-- The requesters of R6: host port A, host port B, control cores 0 to 3 and the security core. -/
inductive Who where
  | portA
  | portB
  | fw (n : Fin 4)
  | sec
deriving DecidableEq, Repr

/-- Who asked for a load or an unload: firmware, or a fetched host command (R171, R453). -/
inductive LoadSrc where
  | fw
  | host (q : Fin 4) (tag : W32)
deriving DecidableEq, Repr

/-- The engines with instruction queues (R268): the twelve MOV channels, transform, vector 0 and 1, check. -/
inductive Eng where
  | mov
  | xfm
  | vec0
  | vec1
  | chk
deriving DecidableEq, Repr

/-- The reset domains of Table RCP-1. -/
inductive Dom where
  | aon
  | sec
  | nvsc
  | ctl
  | fab
  | dram
  | hst
  | hlk
  | fio
  | core (n : Fin 32)
deriving DecidableEq, Repr

/-- An Ethernet frame as the MAC delivers it. `good` holds when FCS, length, IPv4 header and checksums pass and it is an
unfragmented IPv4 UDP frame (Table TNK-2); the payload is the UDP payload. -/
structure EthFrame where
  good : Bool
  dst : BitVec 48
  udpPort : BitVec 16
  payload : List Byte
deriving DecidableEq, Repr

/-- What a milking-round test brings to its judgement beside its vectors (R299): whether the shadow image could be read, the units whose residue
check failed (R285), and the SIGMA that firmware sets. -/
structure TestOutcome where
  readable : Bool
  residues : List (Fin 8)
  sigma : W32
deriving DecidableEq, Repr

/-- An operand of a step whose arithmetic has a residue check, and where that check fails in it (R285). -/
structure Checked (α β : Type) where
  arg : α
  fails : β
deriving DecidableEq, Repr

/-- The residue mismatches of a command in its array stage (R285): the units 0 adder tree, 1 correction, 2 slice combination, 3 skim and 4 check of event
0x0D02, each as often as it mismatches, and the outputs of a direct completion whose scale multiply mismatches. -/
structure StageResidues where
  units : List (Fin 5)
  outs : List Nat
deriving DecidableEq, Repr

/-- What a milking-round unit brings: its array, and the deviations of its phases' segment sums, in LSBs (R300). -/
structure TestUnit where
  array : ArrId
  noise : List (Nat × Int)
deriving DecidableEq, Repr

/-- A chunk ack or a resend request: its frame's DST and VL, and the chunk it names (Table HRD-2, R326, R327). -/
structure ChunkReply where
  dst : BitVec 10
  vl : Bool
  cid : BitVec 16
  index : W32
deriving DecidableEq, Repr

/-- A chunk of collective data with its prefix fields, digest and POISON flag (R326), and its frame's DST and VL (Table HRD-2). -/
structure ChunkFrame where
  dst : BitVec 10
  vl : Bool
  src : BitVec 10
  cid : BitVec 16
  index : W32
  seq : W32
  poison : Bool
  payload : List Byte
  digest : W64
deriving DecidableEq, Repr

/-- A heartbeat of the peer (R331): its pair state, mode, id and number of mirror records sent. -/
structure PeerBeat where
  state : Fin 6
  lockstep : Bool
  id : BitVec 10
  records : W32
deriving DecidableEq, Repr

/-- The mirror records of R334, with their record number. `resyncBegin` and `resyncEnd` enclose a resynchronisation (R335). -/
inductive MirrorBody where
  | resyncBegin
  | config (st : StreamId) (cfg next head : W32)
  | arrival (st : StreamId) (seq : W32) (left : W64)
  | checkpoint (k : CtxId) (area : List Byte)
  | resolution (st : StreamId) (seq : W32) (entry : List Byte)
  | tail (st : StreamId) (v : W32)
  | resyncEnd
deriving DecidableEq, Repr

structure MirrorRec where
  number : W32
  body : MirrorBody
deriving DecidableEq, Repr

/-- A CAN frame (Table INS-17). -/
structure CanFrame where
  id : BitVec 29
  ide : Bool
  fdf : Bool
  brs : Bool
  dlc : BitVec 4
  rtr : Bool
  data : List Byte
deriving DecidableEq, Repr

/-- What a receiver brings: a good frame, or a frame in error, with REC after it (ISO 11898-1, R381, R384). -/
inductive CanRxResult where
  | frame (f : CanFrame) (rec : Byte)
  | error (rec : Byte)
deriving DecidableEq, Repr

/-- The voltages that a converter's post-filter delivers for an integration period, in pV against the field-bank ground: its 16 inputs, and EXCm
(R343, R346). -/
structure Volts where
  inputs : List Int
  exc : Int
deriving DecidableEq, Repr

/-- How an attempt to transmit ended (R382), with the error counters after it (ISO 11898-1, R381). -/
inductive CanTxResult where
  | sent (tec : Byte)
  | lostArbitration
  | error (tec : Byte) (busOff : Bool)
deriving DecidableEq, Repr


/-- What a clock failure brings (R415): where it cuts a page write, and the clocks lost: bit 0 SYSCLK, bits 1 to 4 the lock of PLL_CORE, PLL_CTL,
PLL_DDR and PLL_PER. -/
structure ClockLoss where
  cut : Fin 8
  lost : BitVec 5
deriving DecidableEq, Repr

/-- A write of MSR_CAL_CMD with STEP SAVE: its requester and its CONV (R364, R366). -/
structure CalSave where
  who : Who
  conv : Fin 4
deriving DecidableEq, Repr

/-- A BAR0 access: its offset, and whether it is 32 bits wide (R5, Table HST-5). -/
structure BarAddr where
  off : BitVec 25
  word : Bool
deriving DecidableEq, Repr

/-- A host write to the configuration space of a port that the device acts on (R443, R448, R456): its power state, D0 or D3hot, or MSI-X Enable and
Function Mask. -/
inductive CfgWrite where
  | power (d3 : Bool)
  | msix (enable fmask : Bool)
deriving DecidableEq, Repr

/-- The commands of the Octath: one constructor for each row of opcode_table.json, in the table's order. -/
inductive Instr where
  /-- ADD (R233): Scalar add of s[RA] and b into s[RD]. -/
  | add (k : CtxId) (w : BitVec 56)
  /-- SUB (R233): Scalar subtract of b from s[RA] into s[RD]. -/
  | sub (k : CtxId) (w : BitVec 56)
  /-- MUL (R233): Low 64 bits of s[RA] times b into s[RD]. -/
  | mul (k : CtxId) (w : BitVec 56)
  /-- MULH (R233): High 64 bits of the signed or unsigned product into s[RD]. -/
  | mulh (k : CtxId) (w : BitVec 56)
  /-- AND (R233): Bitwise AND of s[RA] and b into s[RD]. -/
  | and (k : CtxId) (w : BitVec 56)
  /-- OR (R233): Bitwise OR of s[RA] and b into s[RD]. -/
  | or (k : CtxId) (w : BitVec 56)
  /-- XOR (R233): Bitwise XOR of s[RA] and b into s[RD]. -/
  | xor (k : CtxId) (w : BitVec 56)
  /-- SHL (R233): Shift left of s[RA] by b[5:0]. -/
  | shl (k : CtxId) (w : BitVec 56)
  /-- SHR (R233): Logical shift right of s[RA] by b[5:0]. -/
  | shr (k : CtxId) (w : BitVec 56)
  /-- SRA (R233): Arithmetic shift right of s[RA] by b[5:0]. -/
  | sra (k : CtxId) (w : BitVec 56)
  /-- MIN (R233): Signed or unsigned minimum of s[RA] and b. -/
  | min (k : CtxId) (w : BitVec 56)
  /-- MAX (R233): Signed or unsigned maximum of s[RA] and b. -/
  | max (k : CtxId) (w : BitVec 56)
  /-- LI (R233): Loads an immediate into s[RD] by sign, zero or upper-half extension. -/
  | li (k : CtxId) (w : BitVec 56)
  /-- CMP (R233): Writes the outcome of a comparison of s[RA] and b to a predicate. -/
  | cmp (k : CtxId) (w : BitVec 56)
  /-- PLOG (R233): Writes a logical function of predicates to a predicate. -/
  | plog (k : CtxId) (w : BitVec 56)
  /-- B (R234): Jump or guarded branch to PC plus OFF. -/
  | b (k : CtxId) (w : BitVec 56)
  /-- JR (R234): Jump to s[RA] plus OFF. -/
  | jr (k : CtxId) (w : BitVec 56)
  /-- CALL (R234): Writes the link and jumps to PC plus OFF. -/
  | call (k : CtxId) (w : BitVec 56)
  /-- CALLR (R234): Writes the link and jumps to s[RA] plus OFF. -/
  | callr (k : CtxId) (w : BitVec 56)
  /-- LOOP (R234): Decrements s[RA] and branches while it is not zero. -/
  | loop (k : CtxId) (w : BitVec 56)
  /-- MVX (R236): Reads a layer map entry and sends a matrix-vector command to the named array's queue, or stalls or traps. -/
  | mvx (k : CtxId) (w : BitVec 56)
  /-- SKM (R237): Applies a skim list to an input row without an array and adds the sums to a tile. -/
  | skm (k : CtxId) (w : BitVec 56)
  /-- ACC_OPEN (R100): Opens a tile with its shape, format, count and chain length, or stalls for slots or a drain. -/
  | accOpen (k : CtxId) (w : BitVec 56)
  /-- ACC_CLOSE (R102): Issues the close of a tile, which completes once all its partials and merges have arrived. -/
  | accClose (k : CtxId) (w : BitVec 56)
  /-- ACC_DRAIN (R103): Passes a closed tile through the output stage to its destination and frees its slots. -/
  | accDrain (k : CtxId) (w : BitVec 56)
  /-- ACC_DRAIN_PARTIAL (R112): Writes a closed tile's slot records to the tank without the output stage. -/
  | accDrainPartial (k : CtxId) (w : BitVec 56)
  /-- ACC_SAVE (R121): Waits for the context's work and saves every tile as header and slot records. -/
  | accSave (k : CtxId) (w : BitVec 56)
  /-- ACC_REST (R122): Rebuilds tiles bit for bit from saved records, or traps. -/
  | accRest (k : CtxId) (w : BitVec 56)
  /-- ACC_REST_MERGE (R112): Merges another core's slot records into an open tile in ascending source order. -/
  | accRestMerge (k : CtxId) (w : Checked (BitVec 56) (List Nat))
  /-- OST_CFG (R118): Reads an output-stage record, and any piecewise-linear table, into the context's setting. -/
  | ostCfg (k : CtxId) (w : BitVec 56)
  /-- LD (R239): Loads SIZE bytes into a scalar register. -/
  | ld (k : CtxId) (w : BitVec 56)
  /-- ST (R239): Stores the low SIZE bytes of a scalar register. -/
  | st (k : CtxId) (w : BitVec 56)
  /-- DLD (R239): Loads a 32-byte descriptor register. -/
  | dld (k : CtxId) (w : BitVec 56)
  /-- DST (R239): Stores a 32-byte descriptor register. -/
  | dst (k : CtxId) (w : BitVec 56)
  /-- DBASE (R239): Sets or advances the BASE field of a descriptor register. -/
  | dbase (k : CtxId) (w : BitVec 56)
  /-- MOV (R239): Copies and converts a tensor on a DMA channel. -/
  | mov (k : CtxId) (w : BitVec 56)
  /-- GATH (R240): Gathers rows of a source tensor by an index tensor. -/
  | gath (k : CtxId) (w : BitVec 56)
  /-- SCAT (R240): Scatters rows of a source tensor by an index tensor. -/
  | scat (k : CtxId) (w : BitVec 56)
  /-- WARP (R240): Bilinear warp of a source image under a homography. -/
  | warp (k : CtxId) (w : BitVec 56)
  /-- VEW (R241): Element-wise vector arithmetic on a vector engine. -/
  | vew (k : CtxId) (w : BitVec 56)
  /-- VRED (R241): Per-row reduction with optional winner index. -/
  | vred (k : CtxId) (w : BitVec 56)
  /-- VSMAX (R241): Softmax along each row. -/
  | vsmax (k : CtxId) (w : BitVec 56)
  /-- VNORM (R241): Layer or RMS normalisation along each row. -/
  | vnorm (k : CtxId) (w : BitVec 56)
  /-- VFN (R241): Element-wise exp, rsqrt, reciprocal, sqrt or log. -/
  | vfn (k : CtxId) (w : BitVec 56)
  /-- VTOPK (R241): K largest elements of each row with their indices. -/
  | vtopk (k : CtxId) (w : BitVec 56)
  /-- VSORT (R241): Stable sort of each row with source indices. -/
  | vsort (k : CtxId) (w : BitVec 56)
  /-- VNMS (R242): Non-maximum suppression over boxes, writing kept indices. -/
  | vnms (k : CtxId) (w : BitVec 56)
  /-- SIG (R195): Adds an increment to a sync counter under signal-after-write. -/
  | sig (k : CtxId) (w : BitVec 56)
  /-- WAIT (R196): Waits until a sync counter reaches a target, with optional timeout. -/
  | wait (k : CtxId) (w : BitVec 56)
  /-- REL_TAKE (R200): Home context waits for and takes the oldest untaken arrival of a stream as its current result. -/
  | relTake (k : CtxId) (w : BitVec 56)
  /-- REL_JOIN (R200): A bound context makes a sequence number its current result once assigned. -/
  | relJoin (k : CtxId) (w : BitVec 56)
  /-- REL_DONE (R202): Offers a result: copies it to its output ring entry and returns ACCEPTED, LATE or POISONED. -/
  | relDone (k : CtxId) (w : BitVec 56)
  /-- CANTX (R245): Places a CAN frame record in a controller's transmit queue if it has room. -/
  | cantx (k : CtxId) (w : BitVec 56)
  /-- CANRX (R244): Removes the oldest received CAN frame and writes its record. -/
  | canrx (k : CtxId) (w : BitVec 56)
  /-- AOW (R244): Writes a code to a current output channel. -/
  | aow (k : CtxId) (w : BitVec 56)
  /-- PWMW (R378): Latches a pending duty for a PWM output. -/
  | pwmw (k : CtxId) (w : BitVec 56)
  /-- MRD (R244): Reads the latest result word of a measurement entry. -/
  | mrd (k : CtxId) (w : BitVec 56)
  /-- CRC (R247): Computes a check value over folded fields and data and writes it to the tank. -/
  | crc (k : CtxId) (w : BitVec 56)
  /-- DIG (R247): Computes a check value and compares it with a stored value into a predicate. -/
  | dig (k : CtxId) (w : BitVec 56)
  /-- FENCE (R248): Holds issue until earlier writes are visible, SIGs added and actuations taken effect. -/
  | fence (k : CtxId) (w : BitVec 56)
  /-- CHURN_REQ (R248): Requests a churn of the array behind a layer map entry with a deadline. -/
  | churnReq (k : CtxId) (w : BitVec 56)
  /-- TEST_REQ (R248): Requests a milking-round test of the array behind a layer map entry. -/
  | testReq (k : CtxId) (w : BitVec 56)
  /-- YIELD (R248): Holds issue for N core cycles. -/
  | yield (k : CtxId) (w : BitVec 56)
  /-- HALT (R187): Ends the program once all issued work has completed. -/
  | halt (k : CtxId) (w : BitVec 56)
  /-- TRAP (R248): Traps with a software cause code. -/
  | trap (k : CtxId) (w : BitVec 56)
  /-- LOAD_DATA_RETURN (R226): Data of an issued load arrives after any earlier overlapping write has landed. -/
  | loadDataReturn (k : CtxId) (i : Nat)
  /-- FENCE_COMPLETE (R248): A fence's conditions come to hold and the context resumes issue. -/
  | fenceComplete (k : CtxId)
  /-- YIELD_EXPIRY (R248): The yield's cycle count runs out and issue resumes. -/
  | yieldExpiry (k : CtxId)
  /-- STALL_RELEASE (R185): A stalled context's resource appears and its held instruction issues again. -/
  | stallRelease (k : CtxId)
  /-- ARRAY_PHASE_START (R53): A queued command's phase starts after its row load, transferring row levels. -/
  | arrayPhaseStart (a : ArrId)
  /-- ARRAY_PHASE_END (R50): A phase's convert and guard complete, codes pass to the adder tree and the next phase may start. -/
  | arrayPhaseEnd (a : ArrId) (noise : List (Nat × Int))
  /-- ADDER_TREE_SUM (R54): The adder-tree sum of an MVX becomes available after its last convert step. -/
  | adderTreeSum (a : ArrId)
  /-- SKIM_LANE_GRANT (R83): A waiting MVX with a skim list takes a free skim lane. -/
  | skimLaneGrant (c : CoreId)
  /-- SKIM_RESULT_READY (R82): A lane's skim sums are ready 12 cycles after its last slot. -/
  | skimResultReady (c : CoreId) (lane : Checked (Fin 16) Bool)
  /-- ARRAY_STAGE_COMBINE (R84): With both adder-tree sum and skim result ready, the array stage corrects, combines and checks the MVX. -/
  | arrayStageCombine (a : ArrId) (residue : StageResidues)
  /-- CHAIN_REDUCE (R106): With all P partials of a pass present, the chain network reduces them and adds one contribution to the tile. -/
  | chainReduce (k : CtxId) (tile : Fin 64) (vidx : Fin 32) (coloff : Checked (Fin 512) (List Nat))
  /-- ACC_CLOSE_COMPLETE (R102): Every partial and merge of a closed tile has arrived and element counts are checked against E. -/
  | accCloseComplete (k : CtxId) (tile : Fin 64)
  /-- ACC_DRAIN_COMPLETE (R103): A drain's last element is written and the tile's slots are freed. -/
  | accDrainComplete (k : CtxId) (tile : Checked (Fin 64) (List Nat))
  /-- ACC_SAVE_COMPLETE (R121): The context's outstanding work ends and its save records are written. -/
  | accSaveComplete (k : CtxId)
  /-- ARR_CFG_WRITE (R70): A write to ARR_CFG takes effect on an idle array or is discarded with event 0x0104. -/
  | arrCfgWrite (who : Who) (a : ArrId) (v : W32)
  /-- BIAS_UP (R69): An array in OFF enters BIAS. -/
  | biasUp (who : Who) (a : ArrId)
  /-- BIAS_SETTLED (R141): An array's bias settles and it enters READY, or CHURN when its class 1 churn is due. -/
  | biasSettled (a : ArrId)
  /-- BIASFAIL (R69): Bias has not settled within 50 µs; the array stays in BIAS with event 0x0103. -/
  | biasfail (a : ArrId)
  /-- PARK (R69): A READY array enters OFF once its queue is empty. -/
  | park (who : Who) (a : ArrId)
  /-- ARR_CLR_CNT (R72): Clears an array's clamp, re-run and skip counters and re-arms its threshold events. -/
  | arrClrCnt (who : Who) (a : ArrId)
  /-- ARR_CHK_CLR (R307): Clears the check counters of every array of the core and re-arms event 0x0D01. -/
  | arrChkClr (who : Who) (c : CoreId) (v : W32)
  /-- SKM_CONFIG_WRITE (R88): A write to SKM_CFG.EN, SKM_BASE or SKM_LIMIT takes effect when idle or is discarded. -/
  | skmConfigWrite (who : Who) (c : CoreId) (reg : Fin 3) (v : W32)
  /-- SKM_CLR_CNT (R89): Clears SKM_OVF_CNT and re-arms event 0x0106. -/
  | skmClrCnt (who : Who) (c : CoreId)
  /-- ACC_PART_WRITE (R123): A write of the context shares takes effect when no tile is held or is discarded. -/
  | accPartWrite (who : Who) (c : CoreId) (v : W32)
  /-- ACC_CLR_CNT (R124): Clears the accumulator ECC, poison and saturation counters. -/
  | accClrCnt (who : Who) (c : CoreId)
  /-- TEMP_SAMPLE (R126): Every 100 µs the core sensor is sampled and gT and the temperature trigger are updated. -/
  | tempSample (c : CoreId) (t : Option (BitVec 16))
  /-- CHURN_DUE (R140): An age, period or temperature trigger makes a churn of an array due. -/
  | churnDue (a : ArrId) (cls : Fin 7)
  /-- IDLE_WINDOW_OPEN (R141): An array has been idle for CHN_IDLE.WIN cycles and a due churn or unit starts. -/
  | idleWindowOpen (a : ArrId)
  /-- CLASS1_CHURN_START (R141): Once its probe reference exists, a programmed array's class 1 full churn starts before READY. -/
  | class1ChurnStart (a : ArrId)
  /-- LIGHT_CHURN_PROBES_END (R133): A light churn's two probe phases end and the array is released. -/
  | lightChurnProbesEnd (a : ArrId) (noise : List (Nat × Int))
  /-- LIGHT_CHURN_UPDATE (R131): ga and T_L take effect; a segment spread raises 0x0404 and makes a full churn due. -/
  | lightChurnUpdate (a : ArrId)
  /-- FULL_CHURN_UNIT_END (R139): A unit of a full churn ends and the array is released to waiting MVXs. -/
  | fullChurnUnitEnd (a : ArrId) (noise : List (Nat × Int))
  /-- FULL_CHURN_FIT (R136): The churn engine fits gain and offset per column and they take effect. -/
  | fullChurnFit (a : ArrId) (readable : Bool) (sigma : W32)
  /-- FULL_CHURN_RESTART (R139): A full churn not finished within 10 ms or 0.5 K restarts from unit 1. -/
  | fullChurnRestart (a : ArrId)
  /-- CHURN_LATE (R144): A churn due for more than 1 s or 10 s becomes late with event 0x0402. -/
  | churnLate (a : ArrId) (cls : Fin 7)
  /-- CHN_REQ (R145): Queues a light or full churn request for an array, or refuses it. -/
  | chnReq (who : Who) (c : CoreId) (v : W32)
  /-- CHURN_REQUEST_DEADLINE (R146): A churn request not started by its deadline is refused BUSY. -/
  | churnRequestDeadline (c : CoreId) (i : Nat)
  /-- CHURN_REQUEST_COMPLETE (R148): A churn request completes and reports its status code. -/
  | churnRequestComplete (c : CoreId) (i : Nat)
  /-- CHN_CLR_CNT (R152): Clears the churn refuse, restart and late counters. -/
  | chnClrCnt (who : Who) (c : CoreId)
  /-- PRESS_ARRAY_START (R163): The press takes an idle array, writes its first press record and resets its rows. -/
  | pressArrayStart (a : ArrId)
  /-- PRESS_VERIFY_READ (R157): A verify read of a row group ends and the next pulse or group follows. -/
  | pressVerifyRead (a : ArrId) (outside : List (Nat × Bool))
  /-- PRESS_ARRAY_END (R158): An array's final verify ends, its second record is written and it passes to CHURN or FAULT. -/
  | pressArrayEnd (a : ArrId)
  /-- VPROG_LOW (R161): VPROG falls below its threshold and every array in press stops as failed. -/
  | vprogLow
  /-- LOAD_PRESS (R172): Accepts a PRESS load, checks the image, allocates arrays and starts pressing. -/
  | loadPress (src : LoadSrc) (off len : W64) (alloc : List Nat)
  /-- LOAD_ATTACH (R175): Reattaches a committed image whose digest matches a slot. -/
  | loadAttach (src : LoadSrc) (off len : W64) (alloc : List Nat)
  /-- LOAD_VERIFY (R172): With presses and hashing done, the digest and signature are checked and the slot committed. -/
  | loadVerify
  /-- UNLOAD (R176): Writes a slot record empty and returns its arrays and DRAM range. -/
  | unload (src : LoadSrc) (slot : Fin 4)
  /-- PRS_CFG_WRITE (R182): Sets MAXPAR, and SPARES only while no slot is committed. -/
  | prsCfgWrite (who : Who) (v : W32)
  /-- PRS_RLD_REQ (R180): Requests a reloadable layer, or is discarded with event 0x0306. -/
  | prsRldReq (who : Who) (v : W32)
  /-- RELOAD_START (R180): Once the evicted layer's MVXs have left the pool arrays, the requested layer is pressed. -/
  | reloadStart (alloc : List Nat)
  /-- RELOAD_RATE_EXPIRY (R181): A pool array's reload rate allows a waiting reload to proceed. -/
  | reloadRateExpiry
  /-- START (R187): Clears a context's registers and starts it at SEQ_CTX_PC. -/
  | start (who : Who) (k : CtxId)
  /-- PREEMPT (R211): Stops a context at the next instruction boundary and enters SAVING. -/
  | preempt (who : Who) (k : CtxId)
  /-- PREEMPT_COMPLETE (R211): The context's issued work ends, its save area is written and it enters IDLE. -/
  | preemptComplete (k : CtxId)
  /-- RESUME (R213): Reads a save area into an idle context, or is refused. -/
  | resume (who : Who) (k : CtxId)
  /-- RESUME_COMPLETE (R213): The context is rebuilt and enters RUN at the saved PC. -/
  | resumeComplete (k : CtxId)
  /-- STOP (R216): Stops issue and lets the context's issued work complete without a save. -/
  | stop (who : Who) (k : CtxId)
  /-- STOP_COMPLETE (R216): The stopped context's work ends, its tiles are freed and it enters IDLE. -/
  | stopComplete (k : CtxId)
  /-- HALT_COMPLETE (R187): All work of a halting context completes; tiles are freed and it enters HALT. -/
  | haltComplete (k : CtxId)
  /-- SEQ_CTX_ADDR_WRITE (R216): A write to SEQ_CTX_PC or SEQ_CTX_SAVE takes effect in IDLE, HALT or TRAP, or is discarded. -/
  | seqCtxAddrWrite (who : Who) (k : CtxId) (save : Bool) (v : W64)
  /-- MAP_WRITE (R192): Replaces a layer map entry from MAP_W0 to MAP_W3, or refuses it. -/
  | mapWrite (who : Who) (c : CoreId) (v : W32)
  /-- WAIT_SATISFIED (R196): A waited counter reaches its target and WAIT completes with predicate 1. -/
  | waitSatisfied (k : CtxId)
  /-- WAIT_TIMEOUT (R196): A WAIT's timeout expires and it completes with predicate 0. -/
  | waitTimeout (k : CtxId)
  /-- SYNC_COUNTER_SET (R197): A host write sets a sync counter. -/
  | syncCounterSet (who : Who) (i : Fin 32768) (v : W32)
  /-- SYNC_COUNTER_ADD (R197): A host write adds to a sync counter. -/
  | syncCounterAdd (who : Who) (i : Fin 32768) (v : W32)
  /-- STREAM_ARRIVE (R199): A write of SEQ_STRM_ARRIVE.GO causes one arrival with the next sequence number and deadline. -/
  | streamArrive (who : Who) (st : StreamId)
  /-- REL_WAIT_COMPLETE (R200): A waiting TAKE or JOIN finds its arrival or window and completes. -/
  | relWaitComplete (k : CtxId)
  /-- DONE_ENTRY_FREE (R267): A DONE waiting for its output ring entry finds it free and makes its copy. -/
  | doneEntryFree (k : CtxId)
  /-- GATE_DEADLINE (R203): A sequence number reaches its deadline unaccepted and is closed as a gap. -/
  | gateDeadline (st : StreamId)
  /-- OUTPUT_ENTRY_WRITE (R267): A pending release or gap record is written when its output entry frees. -/
  | outputEntryWrite (st : StreamId)
  /-- STREAM_UNBIND (R204): SEQ_STRM_CFG.EN from 1 to 0 closes every unresolved number as a gap. -/
  | streamUnbind (who : Who) (st : StreamId) (v : W32)
  /-- INT_OUT_TAIL_WRITE (R267): The host frees output ring entries by writing the first unconsumed number. -/
  | intOutTailWrite (who : Who) (st : StreamId) (v : W32)
  /-- ENGINE_INSTRUCTION_START (R269): A queued engine instruction starts once earlier overlapping instructions have completed. -/
  | engineInstructionStart (e : Eng) (i : Nat)
  /-- ENGINE_INSTRUCTION_DONE (R268): A DMA, transform or vector engine instruction completes. -/
  | engineInstructionDone (e : Eng) (ch : Fin 12)
  /-- SCAN_COMPLETE (R275): A check-engine scan finishes; CRC writes its value or DIG sets its predicate. -/
  | scanComplete (u : Fin 2)
  /-- SCRUB_TICK (R255): The scrubber reads and corrects the next tank and core-buffer line. -/
  | scrubTick
  /-- DRAM_PATROL_TICK (R257): The DRAM patrol scrub reads the next line. -/
  | dramPatrolTick
  /-- TNK_CLR_CNT (R278): Clears TNK_ECC_CNT and re-arms event 0x0D82. -/
  | tnkClrCnt (who : Who)
  /-- CSI_FRAME_START (R262): A CSI-2 Frame Start opens an input on its stream's ring, or drops it. -/
  | csiFrameStart (port : Fin 4) (vc : Fin 16)
  /-- CSI_LONG_PACKET (R261): A CSI-2 line is converted into the open input, or discarded. -/
  | csiLongPacket (port : Fin 4) (vc : Fin 16) (dt : Byte) (data : List Byte) (hdrOk crcOk : Bool)
  /-- CSI_FRAME_END (R262): A CSI-2 Frame End closes the input, writes its header and causes an arrival. -/
  | csiFrameEnd (port : Fin 4) (vc : Fin 16)
  /-- ETH_FRAME (R262): An Ethernet frame is filtered and appended to its stream's input, closing it at NPKT. -/
  | ethFrame (port : Fin 2) (f : EthFrame)
  /-- INTAKE_TIMEOUT (R262): TMO passes without a packet and the open Ethernet input closes with TRUNC. -/
  | intakeTimeout (rec : Fin 64)
  /-- INTAKE_RECORD_ENABLE (R260): Setting a record's EN checks it and activates it or refuses it. -/
  | intakeRecordEnable (who : Who) (rec : Fin 64) (v : W32)
  /-- DMA_GO (R271): Starts a firmware DMA channel copy. -/
  | dmaGo (who : Who) (ch : Fin 3) (v : W32)
  /-- DMA_COPY_COMPLETE (R271): A firmware channel copy ends and optionally signals its counter. -/
  | dmaCopyComplete (ch : Fin 3)
  /-- MR_SWEEP_DUE (R301): A milking-round test of the next array becomes due in the sweep. -/
  | mrSweepDue
  /-- MR_UNIT_START (R300): An array idle for TST_MR_WIN cycles starts the next test unit. -/
  | mrUnitStart (a : ArrId)
  /-- MR_UNIT_END (R300): A test unit ends and the array is released to waiting MVXs. -/
  | mrUnitEnd (a : TestUnit)
  /-- MR_TEST_COMPLETE (R299): A test's vectors are judged; a failure is retested and a failed retest faults the array. -/
  | mrTestComplete (a : ArrId) (r : TestOutcome)
  /-- MR_TEST_EXPIRY (R300): A test not finished within 10 s starts again from unit 1. -/
  | mrTestExpiry (a : ArrId)
  /-- MR_SWEEP_LATE (R301): A sweep unfinished after 1.5 periods raises 0x0D07 and sets LATE. -/
  | mrSweepLate
  /-- TST_TREQ (R303): Queues a test request for an array, or refuses it. -/
  | tstTreq (who : Who) (v : W32)
  /-- TEST_REQUEST_DEADLINE (R303): A test request not started by its deadline is refused BUSY. -/
  | testRequestDeadline (c : CoreId) (i : Nat)
  /-- TST_HEALTH_CLEAR (R304): W1C clears health bits, which may release SERVICE_REQ_N. -/
  | tstHealthClear (who : Who) (v : W32)
  /-- TST_HOP (R306): Arms extra delay on a tank port. -/
  | tstHop (who : Who) (v : W32)
  /-- TST_BP (R306): Arms back-pressure on a tank port. -/
  | tstBp (who : Who) (v : W32)
  /-- TST_FSAT (R306): Arms forced converter saturation on an array segment. -/
  | tstFsat (who : Who) (v : W32)
  /-- TST_CINV (R306): Arms inversion of check comparison outcomes on an array. -/
  | tstCinv (who : Who) (v : W32)
  /-- TST_NVSE (R306): Arms an injected NVS read error on a group. -/
  | tstNvse (who : Who) (v : W32)
  /-- TST_DIGC (R306): Arms corruption of digests or payloads of a target. -/
  | tstDigc (who : Who) (v : W32)
  /-- TST_PRSF (R306): Arms a forced verify failure on the next press of an array. -/
  | tstPrsf (who : Who) (v : W32)
  /-- DISARM (R308): TST_CLR disarms every perturbation. -/
  | disarm (who : Who)
  /-- PORT_ENABLE (R311): Setting a herd link PEN bit starts its bring-up. -/
  | portEnable (who : Who) (v : W32)
  /-- PORT_TRAIN_TIMEOUT (R311): A bring-up step unfinished by 50 ms returns the port to step 1. -/
  | portTrainTimeout (p : Fin 8)
  /-- IDENTITY_EXCHANGE (R312): The far end's identity arrives and the port enters UP or REFUSED. -/
  | identityExchange (p : Fin 8) (farId : BitVec 10) (part : BitVec 16) (pairEn : Bool)
  /-- LINK_ACK (R314): A link acknowledgement releases frames from the replay buffer. -/
  | linkAck (p : Fin 8) (lseq : W32)
  /-- REPLAY_REQUEST (R314): A replay request resends frames from the first not received intact. -/
  | replayRequest (p : Fin 8) (lseq : W32)
  /-- REPLAY_EXHAUSTED (R314): A frame's 10 µs replay window passes and the port enters FAILED. -/
  | replayExhausted (p : Fin 8) (lseq : W32)
  /-- HLK_ID_WRITE (R315): Sets the device id while every port is DOWN, or is discarded. -/
  | hlkIdWrite (who : Who) (v : W32)
  /-- COLLECTIVE_SUBMIT (R319): Advancing HLK_CQ_TAIL hands descriptors to the engine, which checks or refuses them. -/
  | collectiveSubmit (who : Who) (v : W32)
  /-- COLLECTIVE_START (R321): GOCTR reaches GOTGT and the engine reads poison word and contribution and starts sending. -/
  | collectiveStart (i : Fin 64)
  /-- CHUNK_DATA (R327): A chunk arrives, its digest is checked and it is merged, forwarded or a resend requested. -/
  | chunkData (p : Fin 8) (f : ChunkFrame)
  /-- CHUNK_ACK (R326): The receiver's acknowledgement releases a sent chunk. -/
  | chunkAck (p : Fin 8) (r : ChunkReply)
  /-- RESEND_REQUEST (R327): A resend request makes the sender send the chunk again. -/
  | resendRequest (p : Fin 8) (r : ChunkReply)
  /-- COLLECTIVE_COMPLETE (R325): The output and completion record are written and DNCTR is signalled. -/
  | collectiveComplete (i : Fin 64)
  /-- COLLECTIVE_TIMEOUT (R324): A collective unfinished after HLK_CTMO ends with a poisoned output and STATUS 2. -/
  | collectiveTimeout (i : Fin 64)
  /-- HLK_CLR_CNT (R339): Clears the herd link counters. -/
  | hlkClrCnt (who : Who)
  /-- PEER_PRIMARY_CHANGE (R329): PEER_PRIMARY_N changes; an assertion against held authority releases PRIMARY_N. -/
  | peerPrimaryChange (asserted : Bool)
  /-- PRIMARY_ASSERT (R329): After PEER_PRIMARY_N has been deasserted 10 µs, the device asserts PRIMARY_N. -/
  | primaryAssert
  /-- CONFLICT_WINDOW_END (R329): The 2 µs window passes and authority is held, or the higher id has released. -/
  | conflictWindowEnd
  /-- CLAIM (R330): Claims authority in DISABLED under the interlock. -/
  | claim (who : Who)
  /-- RELEASE (R330): Releases PRIMARY_N. -/
  | release (who : Who)
  /-- REJOIN (R332): Moves a FENCED device to JOINING. -/
  | rejoin (who : Who)
  /-- PAIR_CFG_WRITE (R332): A write of HLK_PAIR_CFG changes EN, MODE or PEER and the pair state accordingly. -/
  | pairCfgWrite (who : Who) (v : W32)
  /-- KICK (R331): Allows the next heartbeat. -/
  | kick (who : Who)
  /-- HEARTBEAT_TICK (R331): Every 100 µs a heartbeat is sent if kicked and missed intervals are counted. -/
  | heartbeatTick
  /-- HEARTBEAT (R332): A peer heartbeat arrives and drives the pair state transitions. -/
  | heartbeat (h : PeerBeat)
  /-- PAIR_JOIN_TIMEOUT (R332): HLK_PAIR_JOIN passes in JOINING without a peer heartbeat. -/
  | pairJoinTimeout
  /-- TAKEOVER_COMPLETE (R333): Streams are bound from the mirror, contexts resume, and the device enters PRIMARY. -/
  | takeoverComplete
  /-- TAKEOVER_FENCE_TIMEOUT (R332): PEER_PRIMARY_N still asserted 1 ms after TAKEOVER sends the device to FENCED. -/
  | takeoverFenceTimeout
  /-- MIRROR_RECORD (R334): The standby records a mirror record and acknowledges it, or detects a gap. -/
  | mirrorRecord (r : MirrorRec)
  /-- MIRROR_ACK (R334): An acknowledgement lets the primary write the resolution it covers; `ask` when the standby asks for a
  resynchronisation instead. -/
  | mirrorAck (n : W32) (ask : Bool)
  /-- MIRROR_ACK_TIMEOUT (R334): No mirror ack within HLK_MACK_TMO; the primary resolves alone and sets PEER_OK 0. -/
  | mirrorAckTimeout
  /-- ARRIVAL_KEY (R336): A peer's arrival key is kept and compared, poisoning or realigning numbers. -/
  | arrivalKey (st : StreamId) (seq : W32) (key : W64)
  /-- REALIGN_NOTICE (R338): A peer's notice of a realigned number makes the local DONE return POISONED. -/
  | realignNotice (st : StreamId) (seq : W32)
  /-- LOCKSTEP_COPY (R338): The peer's result copy arrives and is compared, completing a waiting DONE. -/
  | lockstepCopy (st : StreamId) (seq : W32) (data : List Byte)
  /-- HLK_AUTHW_WRITE (R330): Enables the authority word, which is written within 1 µs. -/
  | hlkAuthwWrite (who : Who) (v : W32)
  /-- MSR_ENABLE (R353): EN from 0 to 1 starts a converter and clears LVALID. -/
  | msrEnable (who : Who) (m : Fin 4) (v : W32)
  /-- MSR_DISABLE (R354): EN from 1 to 0 stops a converter at once and discards pending triggers. -/
  | msrDisable (who : Who) (m : Fin 4)
  /-- MSR_REF_READY (R353): The reference settles and REFRDY becomes 1. -/
  | msrRefReady (m : Fin 4)
  /-- MSR_TIMER_TRIGGER (R350): The converter timer reaches TPER and triggers a pass. -/
  | msrTimerTrigger (m : Fin 4)
  /-- MSR_EDGE_TRIGGER (R350): A selected capture edge triggers a pass. -/
  | msrEdgeTrigger (m : Fin 4)
  /-- MSR_SOFT_TRIGGER (R350): MSR_m_CMD.TRIG triggers a pass. -/
  | msrSoftTrigger (who : Who) (m : Fin 4)
  /-- MSR_DELAY_END (R351): The trigger delay passes and the first integration begins. -/
  | msrDelayEnd (m : Fin 4)
  /-- MSR_RESULT (R359): An integration period ends and a result word is formed, stored and buffered. -/
  | msrResult (m : Fin 4) (v : Volts) (ovl : Bool)
  /-- MSR_URGENT (R356): Aborts any integration and runs an urgent entry, or makes it pending or discards it. -/
  | msrUrgent (who : Who) (m : Fin 4) (u : Fin 16)
  /-- MSR_CLR_CNT (R367): Clears a converter's counters and re-arms event 0x0803. -/
  | msrClrCnt (who : Who) (m : Fin 4)
  /-- MSR_RPTR_WRITE (R361): The reader frees buffer words by writing RPTR. -/
  | msrRptrWrite (who : Who) (m : Fin 4) (v : W32)
  /-- MSR_CAL_ZERO (R364): Starts a zero calibration step on a disabled converter. -/
  | msrCalZero (who : Who) (m : Fin 4)
  /-- MSR_CAL_FULL (R364): Starts a full-scale calibration step on a disabled converter. -/
  | msrCalFull (who : Who) (m : Fin 4)
  /-- MSR_CAL_SAVE (R364): Writes all working pairs as one A/B record. -/
  | msrCalSave (w : CalSave)
  /-- MSR_CAL_STEP_COMPLETE (R364): A calibration step averages 16 settled codes and sets OFS or GAIN, or is refused. -/
  | msrCalStepComplete (vs : List Volts) (ovl : Bool)
  /-- MSR_CONFIG_WRITE (R355): A configuration write takes effect while EN is 0, or is discarded. -/
  | msrConfigWrite (who : Who) (m : Fin 4) (off : BitVec 8) (v : W32)
  /-- STOP_N_ASSERT_ACCEPT (R371): STOP_N low for 250 ns sets STOPL and removes valve drive in hardware. -/
  | stopNAssertAccept
  /-- STOP_N_DEASSERT_ACCEPT (R371): STOP_N high for 250 ns is accepted as deasserted. -/
  | stopNDeassertAccept
  /-- FORCE (R498): ACT_SAFE.FORCE sets or clears a cause of the safe state. -/
  | force (who : Who) (on : Bool)
  /-- CLEAR (R372): Clears STOPL while STOP_N is deasserted. -/
  | clear (who : Who)
  /-- VFIELD_LOW (R498): VFIELD falls below its low-indication threshold, holding the safe state. -/
  | vfieldLow
  /-- VFIELD_RECOVER (R370): VFIELD rises above its threshold and that cause of the safe state ends. -/
  | vfieldRecover
  /-- AO_UPDATE_TICK (R375): At each update tick current outputs apply their pending codes. -/
  | aoUpdateTick
  /-- AO_DEGLITCH_TRANSFER (R375): 40 ns after a unary change the held output transfers the new level. -/
  | aoDeglitchTransfer (ch : Fin 8)
  /-- AO_RATE_WRITE (R375): A write of ACT_AO_RATE restarts the update ticks. -/
  | aoRateWrite (who : Who) (v : W32)
  /-- AO_LIMIT_CHANGE (R376): A current output's limit or compliance condition changes. -/
  | aoLimitChange (ch : Fin 8) (limit compl : Bool)
  /-- EXC_LIMIT (R377): An excitation output's current limit acts. -/
  | excLimit (m : Fin 4) (on : Bool)
  /-- PWM_PERIOD_START (R378): A PWM period starts and the pending duty applies. -/
  | pwmPeriodStart (ch : Fin 8)
  /-- PWM_ACTIVE_END (R378): The active part of a PWM period ends. -/
  | pwmActiveEnd (ch : Fin 8)
  /-- CAPTURE_EDGE (R380): A filtered capture edge is accepted and updates period and high time. -/
  | captureEdge (ch : Fin 8) (rising : Bool) (ticks : W32)
  /-- CAPTURE_TIMEOUT (R380): No rising edge for 2^32 ticks sets PER to 0xFFFF_FFFF. -/
  | captureTimeout (ch : Fin 8)
  /-- CAN_TX_COMPLETE (R382): A queued frame wins arbitration and is transmitted, or is retried. -/
  | canTxComplete (n : Fin 4) (r : CanTxResult)
  /-- CAN_RX_FRAME (R384): A received frame is filtered and queued, or discarded on overflow. -/
  | canRxFrame (n : Fin 4) (r : CanRxResult)
  /-- CAN_BUS_OFF_RECOVERY (R381): 128 occurrences of 11 recessive bits end bus-off. -/
  | canBusOffRecovery (n : Fin 4)
  /-- FLUSH (R389): Discards queued frames not in transmission. -/
  | flush (who : Who) (n : Fin 4)
  /-- RECOVER (R382): Starts bus-off recovery. -/
  | recover (who : Who) (n : Fin 4)
  /-- CAN_CONFIG_WRITE (R385): A CAN configuration write takes effect while disabled, or is discarded. -/
  | canConfigWrite (who : Who) (n : Fin 4) (off : BitVec 8) (v : W32)
  /-- NVS_READ (R409): Reads a page into a channel's buffer once no page write is in progress. -/
  | nvsRead (who : Who) (ch : Fin 2)
  /-- NVS_WRITE (R395): Starts a journaled page write from a channel's buffer, or refuses it. -/
  | nvsWrite (who : Who) (ch : Fin 2)
  /-- NVS_PAGE_WRITE_COMPLETE (R395): A journaled page write reaches DONE and its target takes effect. -/
  | nvsPageWriteComplete
  /-- NVS_CLR_CNT (R410): Clears NVS error and log-drop counters and re-arms event 0x0602. -/
  | nvsClrCnt (who : Who)
  /-- LOG_TOKEN_TICK (R408): A token is added to the event-log bucket every PER seconds. -/
  | logTokenTick
  /-- BROWNOUT_WARNING_ASSERT (R413): A monitored supply drops below its warning threshold, blocking NVS writes. -/
  | brownoutWarningAssert
  /-- BROWNOUT_WARNING_DEASSERT (R399): The warning ends and waiting writes may start. -/
  | brownoutWarningDeassert
  /-- POWER_ON (R412): VAON rises and every domain is reset; the start begins at step 1. -/
  | powerOn (cut : Fin 8)
  /-- BROWNOUT_AON (R412): Brown-out on VAON resets every domain. -/
  | brownoutAon (cut : Fin 8)
  /-- BROWNOUT_CORE (R412): Brown-out on VCORE or VARR resets all but AON. -/
  | brownoutCore (varr : Bool) (cut : Fin 8)
  /-- RESET_N_ASSERT (R413): RESET_N low for 1 µs resets all but AON. -/
  | resetNAssert (cut : Fin 8)
  /-- WATCHDOG_EXPIRY (R414): A missed watchdog kick causes the watchdog reset. -/
  | watchdogExpiry (cut : Fin 8)
  /-- START_TIMEOUT (R427): No START_OK within 2 s of CTL release causes the STARTTMO reset. -/
  | startTimeout (cut : Fin 8)
  /-- ALL (R441): RST_SW with key 0xA5 causes the software reset. -/
  | all (who : Who) (key : Byte) (cut : Fin 8)
  /-- CLOCK_FAILURE (R415): Loss of SYSCLK or PLL lock after first lock causes a reset. -/
  | clockFailure (loss : ClockLoss)
  /-- LOCK_UP (R415): A control-core double fault causes the lock-up reset. -/
  | lockUp (cut : Fin 8)
  /-- DEBUG_RESET (R412): A debug request resets the working domains and restarts at step 5. -/
  | debugReset
  /-- RESET_RELEASE (R423): A reset ends and the start sequence runs from its restart step. -/
  | resetRelease
  /-- FUSE_LOAD_COMPLETE (R424): Fuse rows are loaded and checked, or a failed row sends the device to recovery mode. -/
  | fuseLoadComplete (retries : List (BitVec 16 × Fin 4)) (failed : Option (BitVec 16))
  /-- JOURNAL_RESOLVE (R397): The NVS journal's last slot is replayed if VALID and READY is set. -/
  | journalResolve
  /-- PLL_LOCK (R423): The PLLs lock and FAB, DRAM and HST are released. -/
  | pllLock
  /-- SYSCLK_MISSING_TIMEOUT (R415): SYSCLK missing for 10 ms at step 5 raises event 0x0708. -/
  | sysclkMissingTimeout
  /-- BUNDLE_VERIFY (R466): The boot ROM checks the QSPI bundles and runs the first accepted, or waits for the mailbox. -/
  | bundleVerify
  /-- CORE_POWER_UP (R439): A core is released at its staggered time, restored or started and biased. -/
  | corePowerUp (c : CoreId)
  /-- OK (R429): RST_START.OK ends the start: the start record is reset and STARTED set. -/
  | ok (who : Who)
  /-- ROLLBACK_ADVANCE (R469): After START_OK, rollback fuses are blown up to the bundle's RBVER. -/
  | rollbackAdvance
  /-- WDT_KICK (R414): A write of the key to RST_WDT_KICK restarts the watchdog. -/
  | wdtKick (who : Who) (v : W32)
  /-- EXIT (R431): RST_RECOVER.EXIT with key leaves recovery mode through a software reset. -/
  | exit (who : Who) (key : Byte) (cut : Fin 8)
  /-- SET (R418): RST_FLT.SET asserts FAULT_N. -/
  | set (who : Who)
  /-- FAULT_CLEAR (R418): RST_FLT.CLEAR deasserts FAULT_N outside recovery mode. -/
  | faultClear (who : Who)
  /-- BLOCK_RESET (R419): Setting a RST_BLK or RST_CORE bit isolates the domain through its separator. -/
  | blockReset (who : Who) (d : Dom)
  /-- SEPARATOR_DRAINED (R419): Outstanding transfers drain and the domain is held in reset. -/
  | separatorDrained (d : Dom)
  /-- SEPARATOR_TIMEOUT (R419): The separator fails to drain within RST_SEP_TMO and the SEPHANG lock-up reset follows. -/
  | separatorTimeout (d : Dom) (cut : Fin 8)
  /-- BLOCK_RESET_RELEASE (R419): Clearing the bit moves the domain to RELEASE_PENDING. -/
  | blockResetRelease (who : Who) (d : Dom)
  /-- CLOCK_GOOD (R420): The domain's clock-good becomes true and it is released to RUN. -/
  | clockGood (d : Dom)
  /-- RELEASE_PENDING_TIMEOUT (R420): A domain held RELEASE_PENDING for 10 ms raises event 0x0708. -/
  | releasePendingTimeout (d : Dom)
  /-- XTAL_STOP (R433): The crystal stops and the RC oscillator runs free. -/
  | xtalStop
  /-- GO (R435): CNT_SNAP.GO latches every local count into its snapshot register. -/
  | go (who : Who)
  /-- PWR_TARGET_WRITE (R436): Requests a power state, powering cores up or down or refusing. -/
  | pwrTargetWrite (who : Who) (v : W32)
  /-- AON_ENTRY (R438): After any NVS write completes, cores and image state are saved and all but AON powered off. -/
  | aonEntry
  /-- CAN_WAKE (R439): A dominant level of 5 µs on an enabled CANnRX wakes the device from AON. -/
  | canWake (n : Fin 4)
  /-- ALARM_WAKE (R439): The AON count reaching PWR_ALARM wakes the device. -/
  | alarmWake
  /-- WAKE_PLL_LOCK (R439): PLLs lock on wake, domains are released and image state restored. -/
  | wakePllLock
  /-- THERMTRIP_ASSERT (R487): A sensor reads 120 °C and THERMTRIP_N is asserted. -/
  | thermtripAssert
  /-- THERMTRIP_DEASSERT (R487): Every sensor reads below 110 °C and THERMTRIP_N is deasserted. -/
  | thermtripDeassert
  /-- SQ_DOORBELL (R451): A submission tail write makes the device fetch and start commands. -/
  | sqDoorbell (q : Fin 4) (v : W32) (fails : Option Nat)
  /-- NOP (R453): Host command with no effect. -/
  | nop (q : Fin 4) (tag : W32)
  /-- COPY (R453): Host command copying data on a firmware DMA channel. -/
  | copy (q : Fin 4) (tag : W32)
  /-- CHURN (R453): Host command requesting a churn as CHN_REQ. -/
  | churn (q : Fin 4) (tag : W32)
  /-- TEST (R453): Host command requesting a test as TST_TREQ. -/
  | test (q : Fin 4) (tag : W32)
  /-- POWER (R453): Host command requesting a power state. -/
  | power (q : Fin 4) (tag : W32)
  /-- QUOTE (R474): Forms and signs an attestation quote and writes it to host memory; whether host memory takes it. -/
  | quote (q : Fin 4) (tag : W32) (hostOk : Bool)
  /-- PORTCFG (R444): Changes the trim entry of the port split for the next start. -/
  | portcfg (q : Fin 4) (tag : W32)
  /-- COMMAND_COMPLETION (R452): A completion entry is written when its command ends, then an MSI-X is sent. -/
  | commandCompletion (q : Fin 4)
  /-- CQ_HEAD_WRITE (R452): The host frees completion entries, letting waiting completions be written. -/
  | cqHeadWrite (q : Fin 4) (v : W32)
  /-- EQ_HEAD_WRITE (R454): The host frees event records and lost-event reporting resumes. -/
  | eqHeadWrite (port : Fin 2) (v : W32)
  /-- QUEUE_CONFIG_WRITE (R450): A queue configuration write applies while EN is 0; setting EN resets head and tail. -/
  | queueConfigWrite (port : Fin 2) (off : BitVec 12) (v : W32)
  /-- HOT_RESET (R457): A PCIe hot reset resets one port's HST state. -/
  | hotReset (port : Fin 2)
  /-- LINK_DOWN (R457): A PCIe link down resets one port's HST state. -/
  | linkDown (port : Fin 2)
  /-- FUNCTION_LEVEL_RESET (R457): A function-level reset resets one port's HST state. -/
  | functionLevelReset (port : Fin 2)
  /-- HOST_MEMORY_READ (R449): A host read of BAR2 or BAR4 returns data, poisoned data or an error. -/
  | hostMemoryRead (port : Fin 2) (bar4 : Bool) (off : BitVec 36) (len : Nat)
  /-- HOST_MEMORY_WRITE (R448): A host write to BAR2 or BAR4 lands, or is discarded by a lock or range. -/
  | hostMemoryWrite (port : Fin 2) (bar4 : Bool) (off : BitVec 36) (data : List Byte)
  /-- BOOT (R458): Mailbox command supplying a firmware bundle at step 6. -/
  | boot
  /-- RELOAD (R470): Mailbox command writing a verified bundle to QSPI in recovery mode. -/
  | reload
  /-- MAILBOX_BUNDLE_READ (R458): The bundle read from host memory completes and is verified. -/
  | mailboxBundleRead (readOk qspiOk : Bool)
  /-- REVOKE (R468): Revokes a firmware key slot, or is discarded. -/
  | revoke (who : Who) (slot : Fin 4)
  /-- MREVOKE (R478): Revokes the model key. -/
  | mrevoke (who : Who)
  /-- LOCK (R477): Sets the SEC lock on RWL fields. -/
  | lock (who : Who)
  /-- MKEY_PROG (R471): Programs the model key slot once from SEC_DBG_BUF. -/
  | mkeyProg (who : Who)
  /-- SETREQ (R471): Blows the SIGREQ fuse. -/
  | setreq (who : Who)
  /-- DEBUG_CHALLENGE (R475): A read of SEC_DBG_CHAL0 draws a fresh challenge. -/
  | debugChallenge (who : Who) (chal : BitVec 256)
  /-- SUBMIT (R475): Submits a signed debug response and grants or refuses the scope. -/
  | submit (who : Who) (scope : BitVec 2)
  /-- DEBUG_LOCK (R476): Ends every debug grant. -/
  | debugLock (who : Who)
  /-- REGISTER_WRITE (R8): A write to a register without a row of its own, under its access type. -/
  | registerWrite (who : Who) (addr : BarAddr) (v : W32)
  /-- VPROG_RECOVER (R161): VPROG rises back above its low-indication threshold, clearing PRS_STAT.VPROG_LOW and letting waiting reloads and presses proceed. -/
  | vprogRecover
  /-- LOWER_WORD_READ (R6): A read of the lower word of a 64-bit register latches that register's upper word for the reading requester, replacing its previous latch. -/
  | lowerWordRead (who : Who) (addr : BarAddr)
  /-- FRAME_CRC_FAIL (R314): A herd link frame arrives failing its CRC, or out of LSEQ order, and the receiver requests a replay from the first frame not received intact. -/
  | frameCrcFail (p : Fin 8)
  /-- INTAKE_LOCK_CHANGE (R277): A CSI-2 receiver gains or loses lane lock, or an Ethernet port gains or loses link lock, changing INT_PSTAT.LINK. -/
  | intakeLockChange (port : Fin 6) (on : Bool)
  /-- PCIE_LINK_UP (R462): A PCIe port completes link training and HST_PSTAT.LINKUP, WIDTH and SPEED take their values. -/
  | pcieLinkUp (port : Fin 2) (width : Fin 9) (speed : Fin 5)
  /-- CRYSTAL_LOCK (R433): With XTAL_EN 1, the 32.768 kHz crystal runs and the RC oscillator locks to it, setting CLK_STAT.XTAL_OK and XTAL_LOCK. -/
  | crystalLock
  /-- CORE_POWER_DOWN (R437): After its arrays are parked and its state is saved to DRAM at PWR_SAVE, a core is powered down and PWR_STAT.CORES and STATE advance towards PWR_TARGET. -/
  | corePowerDown (c : CoreId)
  /-- D3HOT_CHANGE (R448): The host moves a PCIe port between D0 and D3hot, after which BAR reads return Unsupported Request and writes are discarded, or normal access resumes. -/
  | d3hotChange (port : Fin 2) (w : CfgWrite)
deriving DecidableEq, Repr

end Sys2Proof
end

