-- ==== Sys2Proof/Machine/State.lean ====
section
/-!
DEFINITION. The state of the Octath as plain data, the reasons a step can stop, and the state after power-on.
Sparse tables (Tab) list only what differs from the value after reset. Fields named "the model's own" are not the spec's.
-/
namespace Sys2Proof.Machine

/-- Refusals of a step. -/
inductive Refusal where
  /-- No meaning yet. Raised by an arm of `exec`. Safe: the step stops. -/
  | notModelled (mnemonic : String)
deriving DecidableEq, Repr

/-- Faults of a step. -/
inductive Fault where
  /-- The spec gives the command no effect (00_scope.md, Actors: the result is undefined). Raised by no meaning at present: every
  row has an effect. Safe: the step stops. -/
  | noEffectGiven (rule : String)
deriving DecidableEq, Repr

/-- A memory: its bytes (an unlisted byte reads 0, log entry 9) and the ECC condition of its 8-byte groups (R253), true for
uncorrectable and false for correctable; an unlisted group is good. -/
structure Mem where
  cells : Tab Byte
  ecc : Tab Bool
deriving DecidableEq, Repr

/-- The memories: tank (R250), core buffers at core * 2 MiB (R256), DRAM (R257), NVS (R391), host memory over PCIe (R451), QSPI flash (R466). -/
structure Mems where
  tank : Mem
  cbuf : Mem
  dram : Mem
  nvs : Mem
  host : Mem
  qspi : Mem
deriving DecidableEq, Repr

/-- A requester's held lower word and its latched upper word, with the address of the 64-bit register (R6). -/
structure ReqSt where
  held : Option (Nat × W32)
  latch : Option (Nat × W32)
deriving DecidableEq, Repr

/-- An event (Table HST-9); `stream` 0xFF for none, `cntix` the index of the count in LCOUNT. -/
structure EvRec where
  cntix : BitVec 4
  code : BitVec 16
  sev : BitVec 2
  stream : Byte
  source : BitVec 12
  seq : W32
  lcount : BitVec 48
  payload : List Byte
deriving DecidableEq, Repr

/-- A port's event queue (R454): head, tail, phase, events lost in all and since the last 0x0A01. -/
structure EqSt where
  head : Nat
  tail : Nat
  phase : Bool
  lost : W32
  lostNow : Nat
deriving DecidableEq, Repr

/-- Events: those raised (newest first, the model's own record), the two event queues, the event-log bucket and the events
waiting to be logged, log head and sequence, drops (R408), MSI-X messages sent (port, vector; newest first, the model's own
record), the pending MSI-X bits (R456), and the events that are raised once and await their re-arming (keys: see `once`). -/
structure EvSt where
  log : List EvRec
  eqA : EqSt
  eqB : EqSt
  tokens : Nat
  logq : List EvRec
  logHead : Nat
  logSeq : W32
  logDrop : W32
  msix : List (Nat × Nat)
  pba : Tab Bool
  once : Tab Bool
deriving DecidableEq, Repr

/-- The local counts (R434, R435, Table RCP-8), and the sub-count of 10 ns steps of the microsecond counts (the model's own). -/
structure Counts where
  aon : W64
  gate : W64
  pcnt : Tab W64
  can : Tab W64
  msr : W64
  hlk : W64
  sub : Nat
deriving DecidableEq, Repr

/-- A reset domain (R411, R419): not released by a start, running, or in a block reset. -/
inductive DomSt where
  | down
  | run
  | isolating
  | inReset
  | releasePending
deriving DecidableEq, Repr

/-- Where a start or a power change stands (Table RCP-5, R430, R438, R439). -/
inductive Stage where
  /-- Domains held in reset; the start then runs from this step (Table RCP-2). -/
  | held (restart : Nat)
  /-- Step 2: fuse rows load. -/
  | fuse
  /-- Step 3: the journal is being resolved. -/
  | journal
  /-- Step 4 waits for the brown-out warning to end (R429). -/
  | blocked
  /-- Step 5: PLLs start. -/
  | pll
  /-- Step 6: the boot ROM tries QSPI. -/
  | boot
  /-- Step 6 waits for a mailbox bundle. -/
  | mailbox
  /-- Steps 7 to 9 and after: firmware runs. -/
  | run
  /-- Recovery mode (R430). -/
  | recovery
  /-- Power state AON (R438). -/
  | aon
  /-- Wake step 1 (Table RCP-10). -/
  | wake
deriving DecidableEq, Repr

/-- Reset, clocks and power beside their registers: domains (0 AON, 1 SEC, 2 NVSC, 3 CTL, 4 FAB, 5 DRAM, 6 HST, 7 HLK, 8 FIO,
9 + n core n; unlisted: down), start stage, watchdog running, AON count at the release of CTL, FAULT_N and THERMTRIP_N asserted,
brown-out warning, firmware bundle read in progress, events due at the next start (R442), a power change in progress, cores
powered, the target in force outside AON, the last wake's start, SPLIT as loaded at step 4 (R444), the AON count at the last watchdog kick, a
wake in progress, an entry to AON accepted and not yet made, the POWER commands that wait for the change to complete, an EXIT from
recovery mode that waits for its record to be written (R399, R431), the AON count at each domain's last change (R419, R420), and a start record that an
accepted START_OK still has to write once the journal is resolved (R397, R429). -/
structure Rst where
  dom : Tab DomSt
  stage : Stage
  wdt : Bool
  ctlAt : W64
  fault : Bool
  therm : Bool
  bowarn : Bool
  defer : List EvRec
  pwrBusy : Bool
  pwrGoal : W32
  cores : Nat
  wakeAt : W64
  split : Bool
  kickAt : W64
  waking : Bool
  toAon : Bool
  pwrCmds : List (Nat × W32)
  exit : Bool
  domAt : Tab W64
  okWait : Bool
deriving DecidableEq, Repr

/-- A fetched host command (Table HST-6): its tag, opcode, 64 bytes and the submission head after the fetch; `mute` when its
completion is to be discarded (R457). -/
structure HCmd where
  tag : W32
  op : Byte
  raw : List Byte
  head : Nat
  mute : Bool
deriving DecidableEq, Repr

/-- An ended command whose completion is not yet written (Table HST-7). -/
structure HDone where
  tag : W32
  op : Byte
  status : Byte
  result : W64
  head : Nat
deriving DecidableEq, Repr

/-- A queue pair of port A (R450 to R452). -/
structure HQueue where
  sqHead : Nat
  sqTail : Nat
  cqHead : Nat
  cqTail : Nat
  phase : Bool
  prog : List HCmd
  ended : List HDone
deriving DecidableEq, Repr

/-- The queue pair after reset. -/
def HQueue.empty : HQueue := ⟨0, 0, 0, 0, true, [], []⟩

/-- The part of a port's PCIe configuration space that the host writes and the device acts on beside its power state (R456): MSI-X Enable and Function
Mask of the MSI-X capability. -/
structure PortCfg where
  msix : Bool
  fmask : Bool
deriving DecidableEq, Repr

/-- Host port state beside its registers: queue pairs, AON count at the last 0x0A06 (R445), mailbox command in progress (1 BOOT,
2 RELOAD, 3 while a RELOAD writes its bundle to QSPI, R470), what the last host read answered (the model's own: data, and poisoned), and the ports'
configuration spaces. -/
structure HostSt where
  q : Tab HQueue
  wdropAt : Option W64
  mbx : Nat
  rd : Option (List Byte × Bool)
  cfg : Tab PortCfg
deriving DecidableEq, Repr

/-- Who asked for a page write (R395, R404), and so what its end does. -/
inductive JobSrc where
  | chan (c : Fin 2)
  | logRec
  | logIdx
  | record (last : Bool)
  | base
  | cal (m : Fin 4) (last : Bool)
  | press (a : Nat) (kind : Nat)
deriving DecidableEq, Repr

/-- A page write: bytes to lay over the target page from a store offset within it. -/
structure PageJob where
  off : Nat
  data : List Byte
  src : JobSrc
deriving DecidableEq, Repr

/-- A command waiting at the store: a page write, a channel's READ of a page, or a requester's read of a word of the read window (R396). -/
inductive NvsCmd where
  | page (j : PageJob)
  | read (c : Fin 2) (page : Nat)
  | win (who off : Nat)
deriving DecidableEq, Repr

/-- The NVS controller (R395 to R397): journal resolved, a slot replayed, the page write in progress, commands waiting, the last
slot used and its sequence number, and what the last read through the read window gave (the model's own: requester, store offset, word). -/
structure NvsSt where
  ready : Bool
  replayed : Bool
  cur : Option PageJob
  queue : List NvsCmd
  slot : Option Nat
  jseq : W32
  got : Option (Nat × Nat × W32)
deriving DecidableEq, Repr

/-- The running bundle (R466). -/
structure Bundle where
  loc : Nat
  keySlot : Nat
  rbver : Nat
  advance : Bool
  mkey : Option (List Byte)
  digest : BitVec 256
deriving DecidableEq, Repr

/-- Fuses and trim (R467, R469, R444, R457): values the spec leaves to the part (log entry 11). -/
structure Fuses where
  keys : List (BitVec 256)
  revoked : BitVec 4
  rollback : Nat
  mkey : Option (BitVec 256)
  mkeyRev : Bool
  sigreq : Bool
  dramSize : BitVec 4
  uid : W64
  idKey : BitVec 256
deriving DecidableEq, Repr

/-- The security core (R465 to R477) beside its registers. -/
structure SecSt where
  bundle : Option Bundle
  chal : Option (BitVec 256)
  fails : Nat
  scopes : BitVec 2
  lockout : Bool
  lock : Bool
  rb : Option Nat
deriving DecidableEq, Repr

/-- An output-stage setting (R118): the 32 bytes of its record, and its copy of a piecewise-linear table. -/
structure OstSt where
  rcd : BitVec 256
  pwl : List Byte
deriving DecidableEq, Repr

/-- An accumulator slot (R94, R95): data, tag, and its ECC condition, true for uncorrectable and false for correctable. -/
structure Slot where
  data : W64
  tag : BitVec 16
  ecc : Option Bool
deriving DecidableEq, Repr

/-- A pass of a vector still to be added to its tile (R106): vector, column offset, number, columns it covers. Passes stand in program
order (R107). -/
structure Pass where
  vidx : Nat
  coloff : Nat
  num : Nat
  width : Nat
deriving DecidableEq, Repr

/-- An issued drain (R103): its work, whether it is partial, its destinations, first row, and the setting at its issue. -/
structure DrainJob where
  id : Nat
  partial' : Bool
  dout : BitVec 256
  dx : BitVec 256
  row : Nat
  ost : OstSt
deriving DecidableEq, Repr

/-- A tile's slot set (R100 to R104): id, number of the set (the model's own), shape, format code, E, P, shadow setting, IBASE, COLBASE,
ACC.CLOSE issued, close complete, drain issued, last merged SRCCORE (0xFF for none), slots, MVXs issued by chain position, vector and
column offset, and the passes still to be added. -/
structure Tile where
  id : Nat
  gen : Nat
  n : Nat
  v : Nat
  fmt : Nat
  e : Nat
  p : Nat
  shadow : Bool
  ibase : W32
  colbase : BitVec 16
  closed : Bool
  ready : Bool
  drain : Option DrainJob
  lastCore : Nat
  slots : Tab Slot
  issued : Tab Nat
  order : List Pass
deriving DecidableEq, Repr

/-- The states of an array (Table ARR-5), in the order of their codes. -/
inductive ArrState where
  | off
  | bias
  | ready
  | press
  | churn
  | test
  | fault
  | retired
deriving DecidableEq, Repr

/-- The correction of an array (R125, R128): column gains (unlisted 1.0) and offsets (unlisted 0), ga, T_L in 1/16 °C. -/
structure Cor where
  gf : Tab W32
  off : Tab W32
  ga : W32
  tl : Int
deriving DecidableEq, Repr

/-- A command of an array's queue (R236): context and work number, tile set (none for direct completion), vector, column offset, pass,
chain position, skim list offset, OSTPTR in bytes, row index, local layer map entry, and the descriptors. -/
structure Mvx where
  ctx : Nat
  id : Nat
  gen : Option Nat
  vidx : Nat
  coloff : Nat
  pass : Nat
  chpos : Nat
  skim : Option Nat
  ost : Nat
  row : Nat
  di : BitVec 256
  dout : BitVec 256
deriving DecidableEq, Repr

/-- What the skim engine gives for a command (R80, R81, R85): poison, the sums by weight index, and the indices that saturated. -/
structure SkimOut where
  poison : Bool
  vals : Tab Int
  ovf : Tab Bool
deriving DecidableEq, Repr

/-- How a command stands with the skim engine (R83, R84). -/
inductive SkimSt where
  | none
  | waiting
  | lane
  | done (o : SkimOut)
deriving DecidableEq, Repr

/-- A direct completion's output-stage record as read at the first phase (R496): the setting, and a cause that makes it unusable. -/
structure DirOst where
  ost : OstSt
  bad : Option Nat
deriving DecidableEq, Repr

/-- A command at work on an array: phase, phases, phase in progress, re-run (R60), retry (R283), LONG, the 512 input integers, the segment
weights A_g (0 for a segment not driven), s_low, input block-scaled, INF and NAN of the blocks read, direct record, correction, gT and SIGMA
current at the first phase (R127, R282), the sums by column, the clamped columns, Rm by group, the forced saturation in force, the
skim result, the PROFILE that its phases ran under, whether the remainder store was written when they began, and a residue mismatch of the skim engine (R283). -/
structure Run where
  cmd : Mvx
  phase : Nat
  phases : Nat
  live : Bool
  rerun : Bool
  retry : Bool
  long : Bool
  inp : List Int
  segw : List Nat
  slow : Int
  bs : Bool
  inf : Bool
  nan : Bool
  dost : Option DirOst
  cor : Cor
  gt : W32
  sigma : W32
  raw : Tab Int
  clamp : Tab Bool
  rm : Tab Int
  fsat : Option W32
  skim : SkimSt
  prof : Nat
  stored : Bool
  smis : Bool
deriving DecidableEq, Repr

/-- A combined partial waiting for its chain (R106): its identity, Q.8 values, s_low and output tags. -/
structure Part where
  ctx : Nat
  id : Nat
  gen : Nat
  vidx : Nat
  coloff : Nat
  pass : Nat
  chpos : Nat
  vals : List Int
  slow : Int
  tags : List Nat
deriving DecidableEq, Repr

/-- What an array stage holds (R84, R106): a command whose phases are done, its adder-tree sum ready or not, or its partial. -/
inductive Held where
  | sum (r : Run) (ready : Bool)
  | part (p : Part)
deriving DecidableEq, Repr

/-- A churn that is due (R140, R144): class, AON count at which it fell due, late. -/
structure Due where
  cls : Nat
  at' : W64
  late : Bool
deriving DecidableEq, Repr

/-- A starter response (R131), as an exact rational. -/
structure Resp where
  num : Int
  den : Nat
deriving DecidableEq, Repr

/-- A churn in progress (R133, R138): full, class (0 a request), next unit, a unit running, raw sums by probe, the responses of its light pair by
segment * 8 + starter column (R131), AON count and temperature at the start of unit 1, and whether it waits for its update or fit only. -/
structure Churn where
  full : Bool
  cls : Nat
  unit : Nat
  live : Bool
  raws : List (Tab Int)
  resp : Tab Resp
  startAt : W64
  startT : Int
  post : Bool
deriving DecidableEq, Repr

/-- What the churn engine keeps of an array (R131, R140): AON count of the contents-valid marker (none: unknown age), last full churn and its
temperature, last churn, churns due, the churn in progress, responses rF by segment * 8 + column, failed columns, and whether a full churn has fitted
what the array holds now since it last had to leave READY for one (the class 1 churn of Table CHN-6). -/
structure ArrChn where
  born : Option W64
  lastFull : Option W64
  tF : Int
  last : Option W64
  due : List Due
  cur : Option Churn
  rF : Tab Resp
  failcol : Nat
  fit : Bool
deriving DecidableEq, Repr

/-- A milking-round test in progress (R300, R302): units done, a unit running, the retest, the AON count at the start of unit 1, whether the unit
running is one that a restart has discarded, and the vectors run, in order. -/
structure MrTest where
  unit : Nat
  live : Bool
  retest : Bool
  startAt : W64
  stale : Bool
  runs : List Run
deriving DecidableEq, Repr

/-- A converted row of outputs (R115): codes, block-scale entries, converted values as FP32, and tags before and after the stage. -/
structure CRow where
  raws : List Nat
  ents : List Nat
  vals : List W32
  before : List Nat
  after : List Nat
deriving DecidableEq, Repr

/-- A place of an image (R167): manifest entry, twin copy, array section, global array, and whether it belongs to the reload pool (R180). -/
structure Place where
  ent : Nat
  copy : Nat
  ix : Nat
  arr : Nat
  pool : Bool
deriving DecidableEq, Repr

/-- What wants an array pressed: a load, a reload, or the repair of an array (R171, R180, R296). -/
inductive PressFor where
  | load
  | reload
  | repair (failed : Nat)
deriving DecidableEq, Repr

/-- An array in press (R155 to R163): why, its place, the record's SLOT, EPOCH and ORD, DRAM offset of its image, first record written, row group
and iterations done, SET amplitude steps of the group's devices, failed columns with the first and its row, a forced failure (R306). -/
structure PressJob where
  why : PressFor
  place : Place
  slot : Nat
  epoch : Nat
  ord : Nat
  img : Nat
  ready : Bool
  grp : Nat
  it : Nat
  amp : Tab Nat
  fails : List Nat
  first : Option (Nat × Nat)
  forced : Bool
deriving DecidableEq, Repr

/-- An array: state, queue, command at work, retry waiting, sums and partials held, row codes (none listed: all 0), PARK asked for,
remainder store (R279, none until written), layer depth in rows, pooling window in its array stage (R119), times of failed retries,
AON count of the last event 0x0D01 and failures since, churn, test, bias settled while it waits in BIAS (R141), press, and whether its idle window
is open: R67 has held for CHN_IDLE.WIN cycles (R141). -/
structure Arr where
  st : ArrState
  queue : List Mvx
  cur : Option Run
  retry : Option Run
  held : List Held
  codes : List Int
  park : Bool
  rho : Option (Tab Nat)
  depth : Nat
  pool : List CRow
  fails : List W64
  d01at : Option W64
  d01n : Nat
  chn : ArrChn
  test : Option MrTest
  settled : Bool
  press : Option PressJob
  win : Bool
deriving DecidableEq, Repr

/-- An array after reset. -/
def Arr.idle : Arr :=
  ⟨.off, [], none, none, [], [], false, none, 512, [], [], none, 0, ⟨none, none, 0, none, [], none, [], 0, false⟩, none, false, none, false⟩

/-- A skim lane in use (R82): the command's context and work, its array (2048 + core for SKM), its result and the slots still to process. -/
structure Lane where
  ctx : Nat
  id : Nat
  arr : Nat
  out : SkimOut
  slots : Nat
deriving DecidableEq, Repr

/-- An SKM at work (R237): identity, list offset, input integers, the profile its header named, and whether its input is INT16. -/
structure SkmJob where
  ctx : Nat
  id : Nat
  gen : Nat
  vidx : Nat
  coloff : Nat
  pass : Nat
  list : Nat
  inp : List Int
  prof : Nat
  i16 : Bool
deriving DecidableEq, Repr

/-- Who asked for a churn or a test (R145, R303): a register write, a program (context, status offset, counter, entry), a host command. -/
inductive AskSrc where
  | reg
  | ctx (k rst ctr entry : Nat)
  | host (q : Nat) (tag : W32)
deriving DecidableEq, Repr

/-- A pending churn request (R145) or test request (R303): local array, full, source, AON count at its deadline, deadline in µs, and
whether the churn or test it waits for has started, and its code when that has ended. -/
structure Ask where
  arr : Nat
  full : Bool
  src : AskSrc
  dl : W64
  us : Nat
  started : Bool
  code : Option Nat
deriving DecidableEq, Repr

/-- What a core holds beside its contexts and arrays: skim lanes, commands waiting for a lane, SKMs, their partials, churn requests, test
requests, and the results that have left their lane and are not ready yet, by lane, oldest first (R82). -/
structure CoreSt where
  lanes : Tab Lane
  waitq : List (Nat × Nat)
  skms : List SkmJob
  parts : List Part
  churns : List Ask
  tests : List Ask
  outs : List (Nat × Lane)
deriving DecidableEq, Repr

/-- A core after reset. -/
def CoreSt.empty : CoreSt := ⟨[], [], [], [], [], [], []⟩

/-- The milking round (R294, R301): arrays whose test is due ahead of the sweep, the array of the sweep whose test is due, arrays left,
the AON count at the sweep's start, the AON counts of the device's retries that failed within 1 s (R304), and the sweeps begun (R299). -/
structure MrSt where
  urgent : List Nat
  due : Option Nat
  left : Nat
  since : W64
  cf : List W64
  sweeps : Nat
deriving DecidableEq, Repr

/-- The image of a committed slot (R171 to R180): DRAM offset and length, its places, the spares it borrowed by core, the manifest entries of its
reloadable layers that are resident, and whether it is attached. -/
structure Image where
  off : Nat
  len : Nat
  places : List Place
  borrow : Tab Nat
  res : List Nat
  att : Bool
deriving DecidableEq, Repr

/-- A load in progress (R172, R175): who asked, ATTACH, image, slot, epoch, places still to be pressed with their ORD, arrays whose first record the
load has asked for, firmware's choice of arrays not yet used, spares that repairs took by core, AON count at acceptance. -/
structure LoadJob where
  src : LoadSrc
  attach : Bool
  img : Image
  slot : Nat
  epoch : Nat
  todo : List (Place × Nat)
  begun : List Nat
  alloc : List Nat
  took : Tab Nat
  at' : W64
deriving DecidableEq, Repr

/-- A reload in progress (R180): slot, manifest entry, places still to be pressed, arrays pressed or begun, AON count at its start, and firmware's
choice of arrays not yet used (R497). -/
structure Reload where
  slot : Nat
  ent : Nat
  todo : List Place
  begun : List Nat
  at' : W64
  alloc : List Nat
deriving DecidableEq, Repr

/-- A repair of a failed array of a committed image (R296): the place it held, slot, ORD, and its substitute, with whether it was a spare. -/
structure Repair where
  place : Place
  slot : Nat
  ord : Nat
  sub : Option (Nat × Bool)
deriving DecidableEq, Repr

/-- The press (R155 to R183) beside its registers and the arrays' own jobs: load, reload, repairs, attached images by slot, the AON counts of the
presses of pool arrays within 3,600 s (R181), and by core the spares that the last start could not set aside because images held their arrays (R176,
R179). -/
structure PressSt where
  load : Option LoadJob
  rld : Option Reload
  reps : List Repair
  images : Tab Image
  hist : Tab (List W64)
  gap : Tab Nat
deriving DecidableEq, Repr

/-- The states of a context (Table EXE-1), in the order of their codes. -/
inductive CtxState where
  | idle
  | run
  | stall
  | wait
  | halt
  | trap
  | saving
  | restoring
deriving DecidableEq, Repr

/-- A byte range of a space: 0 tank, 1 core buffers (core * 2 MiB + offset), 2 DRAM. -/
structure Rng where
  sp : Nat
  lo : Nat
  len : Nat
deriving DecidableEq, Repr

/-- Where a load's data goes (R239). -/
inductive LoadDst where
  | scalar (r : Nat)
  | desc (r : Nat)
deriving DecidableEq, Repr

/-- An issued load whose data has not arrived (R226): destination (none once a later write replaced it), range, SIZE, and the
earlier works of the context it waits for. -/
structure LoadSt where
  dst : Option LoadDst
  rng : Rng
  size : Nat
  after : List Nat
deriving DecidableEq, Repr

/-- Issued work of a context that has not completed: its number (the model's own), the ranges it reads and writes, whether it
counts as a write for SIG and FENCE (R206), and whether it is a tracked engine instruction (R269). -/
structure Work where
  id : Nat
  rd : List Rng
  wr : List Rng
  write : Bool
  eng : Bool
deriving DecidableEq, Repr

/-- A SIG not yet added: counter, increment, and the works it waits for (R195, R206). -/
structure PSig where
  ctr : Nat
  inc : W32
  after : List Nat
deriving DecidableEq, Repr

/-- What a context holds or waits for. STALL keeps the instruction's opcode and word; WAIT, TAKE and JOIN wait; the others hold
issue in RUN (R185, R225). -/
inductive Hold where
  | free
  | fence
  | yield (n : Nat)
  | halt
  | dig (id : Nat)
  | save (rd : Nat) (off : Nat)
  | stall (op : Nat) (w : BitVec 56)
  | wait (ctr : Nat) (target : W32) (timeout : W32) (pd : Nat)
  | take (st : Nat) (rn : Nat)
  | join (st : Nat) (seq : W32) (rr : Nat)
  | done (st : Nat) (seq : W32) (d : BitVec 256) (rr : Nat)
  | doneCopy (st : Nat) (seq : W32) (rr : Nat) (d : BitVec 256) (data : List Byte)
  | preempt
  | stop
deriving DecidableEq, Repr

/-- A context (R184): state, registers (s0 is never listed), PC, output-stage setting, current result, poison flag, trap cause,
loads and works outstanding, SIGs waiting, what it holds for, the next work number (the model's own), the gate count at the
PREEMPT write, its tiles, oldest first, and whether a STOP is at work (Table EXE-7). -/
structure Ctx where
  st : CtxState
  s : Tab W64
  d : Tab (BitVec 256)
  p : BitVec 8
  pc : W64
  ost : OstSt
  cur : Option (Nat × W32)
  poison : Bool
  cause : Byte
  loads : List LoadSt
  works : List Work
  sigs : List PSig
  hold : Hold
  nextId : Nat
  since : W64
  tiles : List Tile
  stop : Bool
deriving DecidableEq, Repr

/-- A context after reset. -/
def Ctx.idle : Ctx := ⟨.idle, [], [], 0, 0, ⟨0, []⟩, none, false, 0, [], [], [], .free, 0, 0, [], false⟩

/-- How a sequence number of a stream stands (R202, R203): open, accepted with its length, or closed as a gap with its cause, µs late
and the gate count at closing. -/
inductive SeqState where
  | opened
  | accepted (len : Nat)
  | closed (cause : Nat) (late : Nat) (gcount : W64)
deriving DecidableEq, Repr

/-- An unresolved sequence number (R199 to R203). -/
structure SeqSt where
  seq : W32
  deadline : W64
  taken : Bool
  poison : Bool
  st : SeqState
deriving DecidableEq, Repr

/-- A resolved number whose output ring header is still to be written (R266, R267, R334). -/
structure OutRec where
  seq : W32
  header : List Byte
  gap : Bool
  mirror : Option W32
deriving DecidableEq, Repr

/-- An open input of the intake (R262, R263): record, sequence number it opened under, data bytes, lines or packets, flags, saturated
elements, the port's count at its start and its last packet. -/
structure OpenIn where
  rcd : Nat
  seq : W32
  data : List Byte
  units : Nat
  flags : Nat
  sat : Nat
  tstart : W64
  tend : W64
  raw : List (List Byte)
deriving DecidableEq, Repr

/-- A stream: unresolved numbers in ascending order, the deadline of its previous arrival, records to be written, its open input, and the resolved
numbers that were marked poisoned and those that a context had taken. -/
structure Strm where
  seqs : List SeqSt
  lastDl : Option W64
  outq : List OutRec
  inp : Option OpenIn
  marked : List W32
  took : List W32
deriving DecidableEq, Repr

/-- A stream after reset. -/
def Strm.empty : Strm := ⟨[], none, [], none, [], []⟩

/-- An armed perturbation (R306): its register value and the uses left, none when it acts until disarmed. -/
structure Pert where
  val : W32
  left : Option Nat
deriving DecidableEq, Repr

/-- A frame to the peer over HL7 (Table HRD-2). -/
inductive PairMsg where
  | heartbeat (st : Nat) (mode : Bool) (id : Nat) (records : W32)
  | mirror (r : MirrorRec)
  | mirrorAck (n : W32)
  | resync
  | key (st : Nat) (seq : W32) (key : W64)
  | notice (st : Nat) (seq : W32)
  | copy (st : Nat) (seq : W32) (data : List Byte)
deriving DecidableEq, Repr

/-- What a standby holds of a stream (R334): configuration, NEXT, HEAD, TAIL, unresolved arrivals with the time left (10 ns), the entries of
resolutions, and the numbers that a checkpoint shows as taken (R333, Table DEP-3). -/
structure MirStrm where
  cfg : W32
  next : W32
  head : W32
  tail : W32
  arr : List (W32 × W64)
  res : List (W32 × List Byte)
  took : List W32
deriving DecidableEq, Repr

/-- What lockstep keeps of a stream (R336 to R338): own keys, the peer's last 16 keys, NEXT at the last realignment, numbers the peer
has closed, and the peer's last copies. -/
structure LockStrm where
  own : List (W32 × W64)
  peer : List (W32 × W64)
  floor : Option W32
  notices : List W32
  copies : List (W32 × List Byte)
deriving DecidableEq, Repr

/-- The twin pair (R329 to R338): state code of HLK_PAIR_STAT, PEER_OK, SYNCED, a claim waiting, PRIMARY_N asserted, the conflict window
running, PEER_PRIMARY_N asserted, a kick since the last interval, kicks missed, intervals missed, a heartbeat heard in the interval,
mirror records sent, acknowledged and received, the last record of a resynchronisation under way, a resynchronisation being received, the mirror and
its checkpoints, lockstep, numbers closed by the takeover, and the link count at its start. -/
structure PairSt where
  st : Nat
  peerOk : Bool
  synced : Bool
  claim : Bool
  prim : Bool
  window : Bool
  peerPrim : Bool
  kicked : Bool
  kickMiss : Nat
  missed : Nat
  heard : Bool
  sent : W32
  acked : W32
  got : W32
  resync : Option W32
  taking : Bool
  mir : Tab MirStrm
  chk : Tab (List Byte)
  lock : Tab LockStrm
  closedNo : Nat
  since : W64
deriving DecidableEq, Repr

/-- An engine instruction (R239 to R242, R247, R268): context and work number, opcode, word, descriptors and scalars as read at its issue. -/
structure EngJob where
  ctx : Nat
  id : Nat
  op : Nat
  w : BitVec 56
  ds : List (BitVec 256)
  xs : List W64
deriving DecidableEq, Repr

/-- An engine (R268): instructions waiting, in acceptance order, and those at work by DMA channel or scan unit. -/
structure EngQ where
  queue : List EngJob
  run : Tab EngJob
deriving DecidableEq, Repr

/-- A copy of a firmware DMA channel (R271): source and destination as the registers held them at GO, length, the counter it signals, and
the host command that asked for it. -/
structure DmaJob where
  src : W64
  dst : W64
  len : Nat
  sig : Option Nat
  host : Option (Nat × W32)
deriving DecidableEq, Repr

/-- The engines and the intake beside their registers: engine queues (0 MOV, 1 transform, 2 and 3 vector, 4 check), firmware copies by channel 0 to
2, next lines of the scrubber in the tank and the core buffers and of the DRAM patrol (R255, R257), CSI frames by port * 16 + VC (listed inside a
frame; true once it carried a packet that matched no record, R259), and packets still to come of a discarded Ethernet input by record (R263). -/
structure EngSt where
  q : Tab EngQ
  dma : Tab DmaJob
  scrub : Nat
  scrubC : Nat
  patrol : Nat
  csi : Tab Bool
  skip : Tab Nat
deriving DecidableEq, Repr

/-- An AOW that waits for its channel's update tick (R375): channel, code, context, and whether the safe state held at or since its acceptance. -/
structure AoWrite where
  ch : Nat
  code : BitVec 16
  ctx : Nat
  dead : Bool
deriving DecidableEq, Repr

/-- A queued CAN frame and the context it came from (R382). -/
structure CanTx where
  src : Nat
  frame : CanFrame
deriving DecidableEq, Repr

/-- A CAN controller beside its registers (R381 to R384): transmit queue and receive queue with end times, oldest first, bus-off recovery asked
for, a receive overflow since the last bus-off or enable, and the frame in transmission. -/
structure CanSt where
  tx : List CanTx
  rx : List (CanFrame × W64)
  recov : Bool
  ovf : Bool
  bus : Option CanTx
deriving DecidableEq, Repr

/-- Actuation beside its registers (R369 to R380): STOP_N as filtered, STOPL, VFIELD low, the safe state holding, writes on their way to update
ticks, output levels by current output, PWM outputs driven since the last safe state, PWM outputs in the active part of their period, capture
inputs that have a rising edge, and the controllers. -/
structure ActSt where
  stop : Bool
  stopL : Bool
  vflow : Bool
  safe : Bool
  aoq : List AoWrite
  level : Tab (BitVec 16)
  drv : Tab Bool
  pwmOn : Tab Bool
  cap : Tab Bool
  can : Tab CanSt
deriving DecidableEq, Repr

/-- Actuation after reset: without authority the safe state holds (R370). -/
def ActSt.init : ActSt := ⟨false, false, false, true, [], [], [], [], [], []⟩

/-- A run of a measurement entry (R347 to R349): entry, results delivered, fresh, urgent, and the overloads of its last periods, newest first. -/
structure MsrRun where
  entry : Nat
  got : Nat
  fresh : Bool
  urg : Bool
  overs : List Bool
deriving DecidableEq, Repr

/-- A converter beside its registers (R350 to R358): reference ready, the run in progress, a pass running, its delay running, its delay ended during
an urgent run, the entry an urgent run interrupted, a trigger pending, an urgent entry pending, AON counts of the last events 0x0801 and 0x0802, whether event 0x0803 is spent,
and selected capture edges whose trigger has not come (R350). -/
structure MsrConv where
  refrdy : Bool
  run : Option MsrRun
  pass : Bool
  delay : Bool
  ready : Bool
  resume : Option Nat
  pend : Bool
  upend : Option Nat
  ev1 : Option W64
  ev2 : Option W64
  ev3 : Bool
  edges : Nat
deriving DecidableEq, Repr

/-- A converter after reset. -/
def MsrConv.idle : MsrConv := ⟨false, none, false, false, false, none, false, none, none, none, false, 0⟩

/-- The measurement block beside its registers: converters, calibration pairs (R363; unlisted OFS 0 and GAIN 1.0), OFS of ZERO steps not followed by
their FULL, by pair, and the calibration step in progress: converter, pair and whether it is FULL (R364). -/
structure MsrSt where
  conv : Tab MsrConv
  pairs : Tab (W32 × W32)
  zero : Tab W32
  cal : Option (Nat × Nat × Bool)
deriving DecidableEq, Repr

/-- What is sent over a port (Table HRD-2): frames to the peer, herd data, a link ack up to an LSEQ, or a request to replay from the first LSEQ not
received intact (R314). -/
inductive Wire where
  | pair (m : PairMsg)
  | chunk (f : ChunkFrame)
  | ack (r : ChunkReply)
  | resend (r : ChunkReply)
  | linkAck (lseq : W32)
  | replay (lseq : W32)
deriving DecidableEq, Repr

/-- A run of frames in a replay buffer (R313, R314): the LSEQ of its first frame, its frames, the link count at its first transmission, how often it
was replayed. -/
structure TxFrame where
  lseq : W32
  cnt : Nat
  at' : W64
  n : Nat
  wire : Wire
deriving DecidableEq, Repr

/-- A port beside its registers (R311, R314): next LSEQ to send and to receive, replay buffer, oldest first, and a failed bring-up since PEN was set. -/
structure LinkPort where
  tx : W32
  rx : W32
  buf : List TxFrame
  late : Bool
deriving DecidableEq, Repr

/-- A port after reset. -/
def LinkPort.idle : LinkPort := ⟨0, 0, [], false⟩

/-- A collective that the engine has taken (Table HRD-3), with its member list, this member's position, chunk bytes, link count at its start (none
before), contribution and its poison, chunks received by index, first payloads of chunks that await their resend, chunks that needed one, merged
chunks of this member's own segment with their poison, output chunks by number (offset, bytes, poison), chunks that came before its start, and the port
that the last chunk came on. -/
structure Coll where
  cid : BitVec 16
  op : Nat
  fin : Bool
  fout : Bool
  root : Nat
  seq : W32
  len : Nat
  src : Nat
  dst : Nat
  members : List Nat
  pos : Nat
  goCtr : Nat
  dnCtr : Nat
  goTgt : W32
  stat : Nat
  pword : Option Nat
  chunk : Nat
  start : Option W64
  data : List Byte
  pois : Bool
  got : List Nat
  wait : Tab (List Byte)
  resends : Nat
  red : Tab (List Byte × Bool)
  outs : Tab (Nat × List Byte × Bool)
  early : List (Nat × ChunkFrame)
  via : Option Nat
deriving DecidableEq, Repr

/-- A chunk kept until the receiver acknowledges it (R326), and whether it has been resent. -/
structure Kept where
  frame : ChunkFrame
  resent : Bool
deriving DecidableEq, Repr

/-- The herd links beside their registers: ports, collectives by ring entry, the next ring entry to take, chunks kept, collectives that ended by
timeout (R324), and the frames sent by port (newest first, the model's own record). -/
structure LinkSt where
  ports : Tab LinkPort
  colls : Tab Coll
  take : Nat
  kept : List Kept
  dead : List (BitVec 16 × W32)
  out : List (Nat × Wire)
deriving DecidableEq, Repr

/-- What a power-down saves of an array (R437): its remainder store with the depth it was written for, and its churn record, whose ages and times
the always-on domain counts. -/
structure ArrSave where
  rho : Option (Tab Nat)
  depth : Nat
  chn : ArrChn
deriving DecidableEq, Repr

/-- A core's part of the save area (R437): array-stage corrections and array records by local array, and the layer map by word offset. -/
structure CoreSave where
  cors : Tab Cor
  arrs : Tab ArrSave
  map : Tab W32
deriving DecidableEq, Repr

/-- What the power controller has saved to DRAM at PWR_SAVE (R437, R438): cores, and the attached images before AON. The bytes stand in DRAM in a form
the spec does not give; a restore that finds them as they were written gives back these values (log entry 23). -/
structure SaveSt where
  cores : Tab CoreSave
  images : Option (Tab Image)
deriving DecidableEq, Repr

/-- The probe reference of an array as it stands in DRAM (R134), at a place the spec does not give: DRAM offset of the array section of its shadow
image with PROFILE and depth, the RANGE_K and SEGEN it was built for, the shifts a_p, and the values e by probe * 528 + column. -/
structure ProbeRef where
  sec : Nat
  prof : Nat
  depth : Nat
  k : Nat
  seg : Nat
  shift : List Nat
  exp : Tab Int
deriving DecidableEq, Repr

/-- The state of the machine. -/
structure State where
  /-- The waiting commands, first in, first out. -/
  pending : List Instr
  /-- Register contents by BAR0 offset; an unlisted register holds its reset value (R10). -/
  regs : Tab W32
  req : Tab ReqSt
  mem : Mems
  /-- Sync counters (R194); an unlisted counter is 0. -/
  sync : Tab W32
  ev : EvSt
  cnt : Counts
  rst : Rst
  host : HostSt
  nvs : NvsSt
  fus : Fuses
  sec : SecSt
  /-- Arrays by global index (R13). -/
  arrs : Tab Arr
  /-- Corrections by global index; an unlisted array has had no full churn. -/
  cors : Tab Cor
  /-- PCM slice levels by global index, then row * 1024 + column (R39). -/
  pcm : Tab (Tab Int)
  cores : Tab CoreSt
  mr : MrSt
  /-- Reload requests not yet served, in order: image slot and layer (R180). -/
  reqs : List (Nat × Nat)
  /-- Passes of saved tiles still to be added, by the tank offset of the tile's header record (the model's own, log entry 22). -/
  saves : Tab Tile
  /-- The press and the images. -/
  prs : PressSt
  /-- Probe references by global array (R134). -/
  refs : Tab ProbeRef
  /-- Baseline gains that firmware has gathered and not yet written, by global array (R154, R406). -/
  bases : Tab W32
  /-- Contexts by core * 4 + context. -/
  ctxs : Tab Ctx
  /-- Streams (R198). -/
  strms : Tab Strm
  /-- Perturbations armed, by the offset of their register in the TST block (R306). -/
  pert : Tab Pert
  /-- The twin pair. -/
  pair : PairSt
  /-- Engines, firmware DMA channels, scrubbers and intake. -/
  eng : EngSt
  /-- The actuation block. -/
  act : ActSt
  /-- The measurement block. -/
  msr : MsrSt
  /-- The herd links and the collective engine. -/
  link : LinkSt
  /-- The save area of the power controller. -/
  psave : SaveSt
deriving DecidableEq, Repr

/-- An empty memory. -/
def Mem.empty : Mem := ⟨[], []⟩

/-- An event queue after reset. -/
def EqSt.empty : EqSt := ⟨0, 0, true, 0, 0⟩

/-- The state after power-on with step 1 of the start done (R412, R423): AON runs, SEC is powered and loads its fuses, every other domain is down, every register, count
and memory at its reset value, PCM and fuses of a new part (log entries 9 to 11). -/
def State.reset : State where
  pending := []
  regs := []
  req := []
  mem := ⟨.empty, .empty, .empty, .empty, .empty, .empty⟩
  sync := []
  ev := ⟨[], .empty, .empty, 32, [], 0, 0, 0, [], [], []⟩
  cnt := ⟨0, 0, [], [], 0, 0, 0⟩
  rst := ⟨[(0, .run), (1, .run)], .fuse, false, 0, false, false, false, [], false, 3, 0, 0, false, 0, false, false, [], false, [], false⟩
  host := ⟨[], none, 0, none, []⟩
  nvs := ⟨false, false, none, [], none, 0, none⟩
  fus := ⟨[0, 0, 0, 0], 0, 0, none, false, false, 3, 0, 0⟩
  sec := ⟨none, none, 0, 0, false, false, none⟩
  arrs := []
  cors := []
  pcm := []
  cores := []
  mr := ⟨[], none, 0, 0, [], 0⟩
  reqs := []
  saves := []
  prs := ⟨none, none, [], [], [], []⟩
  refs := []
  bases := []
  ctxs := []
  strms := []
  pert := []
  pair := ⟨0, false, false, false, false, false, false, false, 0, 0, false, 0, 0, 0, none, false, [], [], [], 0, 0⟩
  eng := ⟨[], [], 0, 0, 0, [], []⟩
  act := .init
  msr := ⟨[], [], [], none⟩
  link := ⟨[], [], 0, [], [], []⟩
  psave := ⟨[], none⟩

end Sys2Proof.Machine
end

