-- ==== Sys2Proof/Config.lean ====
section
/-!
DEFINITION. What the spec leaves open as a function of its arguments: free values without a body (log entries 5 to 7).
No proof can see what one of these answers.
-/
namespace Sys2Proof.Config

/-- Whether a Falcon-1024 signature verifies: public key, message digest, signature (R464, R472, R475). DESIGN CHOICE: free. -/
opaque falconVerify : List Byte → BitVec 256 → List Byte → Bool

/-- The bytes of a Falcon-1024 signature by an identity key over a digest (R473, R474). DESIGN CHOICE: free. -/
opaque falconSign : BitVec 256 → BitVec 256 → Nat → Byte

/-- The length of a quote's signature, by the body it is to sign with SIGLEN 0 (R474). DESIGN CHOICE: free. -/
opaque sigLen : List Byte → Nat

/-- The bytes of the public key of an identity key pair (R473). DESIGN CHOICE: free. -/
opaque idPublic : BitVec 256 → Nat → Byte

/-- The bytes of Zarhorn's signature over a GLB_UID and an identity public key, and what stands after it in SEC_CERT (R473). DESIGN CHOICE: free. -/
opaque certSign : W64 → BitVec 256 → Nat → Byte

/-- Zarhorn's vendor identifier (Table HST-1). DESIGN CHOICE: free. -/
opaque pcieVendor : BitVec 16

/-- The revision identifier of the PCIe configuration space. DESIGN CHOICE: free. -/
opaque pcieRevision : Byte

/-- The place of the port split in the payload of the trim shadow record, by bit number (R444). DESIGN CHOICE: free. -/
opaque trimBit : Nat

/-- The boot ROM digest (R474). DESIGN CHOICE: free. -/
opaque romDigest : BitVec 256

/-! FP32 results the spec does not state (log entry 19). -/

/-- (±infinity) + (∓infinity), by the sign of the first operand. DESIGN CHOICE: free. -/
opaque infSum : Bool → W32

/-- Whether an exact zero sum of operands of unlike sign is −0: whether the first operand is negative, and its magnitude. DESIGN CHOICE: free. -/
opaque zeroSumNeg : Bool → Nat → Nat → Bool

/-- Infinity times 0, by their signs. DESIGN CHOICE: free. -/
opaque infTimesZero : Bool → Bool → W32

/-- A quotient with a divisor of 0, or of two infinities. DESIGN CHOICE: free. -/
opaque divOpen : W32 → W32 → W32

/-- The square root of a negative operand, and by its highest bit the sign of the square root of −0. DESIGN CHOICE: free. -/
opaque sqrtOpen : W32 → W32

/-- How far, in steps of FP32, a result that the spec bounds in ulp lies from the correctly rounded one: function code and operand
(R242). DESIGN CHOICE: free within the bound. -/
opaque ulpOff : Nat → W32 → Int

/-- How far a monotonic result may rise within its bound, by function and place of the correctly rounded result (Table ACC-7). DESIGN CHOICE: free. -/
opaque actTop : Nat → Int → Nat

/-- The operand from which a monotonic result rises by its next step: function, place of the correctly rounded result, step. DESIGN CHOICE: free. -/
opaque actStep : Nat → Int → Nat → Int

/-- The result of a function at an operand where the spec states none: function code and operand. DESIGN CHOICE: free. -/
opaque fnOpen : Nat → W32 → W32

/-- The index that an average-pooled MAXI or MINI window writes (R119): the indices of its elements. DESIGN CHOICE: free. -/
opaque poolIndex : List W32 → W32

/-! Orders of FP32 operations that the spec leaves open: R240 and R261 name a bilinear blend, R241 a normalisation, and no order of their operations. -/

/-- The form of a bilinear blend: 0 weighted sum, 1 lerp by differences, 2 lerp by complements (R240, R261). DESIGN CHOICE: free. -/
opaque blendForm : Nat

/-- The form of a normalisation, by bits: 0 mean by reciprocal, 1 square root and division, 2 variance as E[x²] − mean², 3 gain folded into the
scale (R241). DESIGN CHOICE: free. -/
opaque normForm : Nat

/-- The pixel of a WARP whose sample point is infinite in a coordinate and NaN in none: u/w and v/w (R240). DESIGN CHOICE: free. -/
opaque warpOpen : W32 → W32 → W32

/-! Values of the arrays the spec leaves open. -/

/-- Whether a segment sum half way between two codes converts to the larger magnitude: range and sum in 1/256 unit (R46). DESIGN CHOICE: free. -/
opaque tieAway : Nat → Int → Bool

/-- What an array in FAULT delivers with POISON for an output: array and output (R295). DESIGN CHOICE: free. -/
opaque failedOut : Nat → Nat → Int

/-- The local array that an SKM's list error names (Table SLC-8, R237): core. DESIGN CHOICE: free. -/
opaque skmArray : Nat → BitVec 6

/-- The byte that the LFSR of R135 gives row r of probe p of an array, as a signed value (its polynomial and seed are not given). DESIGN CHOICE:
free. -/
opaque probeByte : Nat → Nat → Nat → BitVec 8

/-- The byte that the LFSR of R299 gives row r of LFSR vector n of an array's test in a sweep, as a signed value: array, sweep count, n, r (its
polynomial and seed are not given). DESIGN CHOICE: free. -/
opaque testByte : Nat → Nat → Nat → Nat → BitVec 8

/-- Which of the arrays that will do firmware takes when no choice of its own is given (R497). DESIGN CHOICE: free. -/
opaque fwPick : List Nat → Nat

/-- ga of a light churn whose mean response is 0 or whose reference response is 0 (R131): array and light churns before. DESIGN CHOICE: free. -/
opaque gaOpen : Nat → W32 → W32

/-! The converters, the bus and the links. -/

/-- Whether a measured value half way between two codes takes the upper one: numerator and denominator (R344). DESIGN CHOICE: free. -/
opaque rawTie : Int → Int → Bool

/-- The raw code of a measurement against an excitation output at 0 V (R344, R377): the scaled input. DESIGN CHOICE: free. -/
opaque rawOpen : Int → Int

/-- Whether the frame that a CAN controller offers has begun its transmission: controller and local count (R383). DESIGN CHOICE: free. -/
opaque canBegun : Nat → W64 → Bool

/-- Bytes that the frames of a chunk carry beside its payload, its source, CID, index and SEQ, and its digest (R326). DESIGN CHOICE: free. -/
opaque chunkOver : Nat

/-- Bytes that the frames of a long mirror record or lockstep copy carry beside its data (R334, R338). DESIGN CHOICE: free. -/
opaque pairOver : Nat

/-- The data under a group written with the poison code, as a read of it delivers it: tank offset and link count (R325). DESIGN CHOICE: free. -/
opaque poisonByte : Nat → W64 → Byte

/-! The save area at PWR_SAVE, whose layout is not given (R437, R438; log entry 23). -/

/-- The bytes in which a core's state is saved. DESIGN CHOICE: free. -/
opaque coreBytes : Machine.CoreSave → List Byte

/-- What a core's part of the save area restores when its bytes are not those that were written. DESIGN CHOICE: free. -/
opaque coreParse : List Byte → Option Machine.CoreSave

/-- The bytes in which the press's image state is saved. DESIGN CHOICE: free. -/
opaque imageBytes : Tab Machine.Image → List Byte

/-- What other bytes there restore for a slot: its image's DRAM offset and length and its resident layers when it is attached. DESIGN CHOICE: free. -/
opaque imageParse : List Byte → Nat → Option (Nat × Nat × List Nat)

end Sys2Proof.Config
end

