-- ==== Sys2Proof/Machine/Tab.lean ====
section
/-!
DEFINITION. Operations on sparse tables, bit fields and byte lists.
-/
namespace Sys2Proof.Machine

/-- The entry of a table at a key, if listed. -/
def Tab.find? {α : Type} : Tab α → Nat → Option α
  | [], _ => none
  | (k', v) :: r, k => if k = k' then some v else Tab.find? r k

/-- What a table holds at a key, with `d` for an unlisted key. -/
def Tab.getD {α : Type} (t : Tab α) (k : Nat) (d : α) : α := (Tab.find? t k).getD d

/-- Lists a value at a key, keeping the keys rising. -/
def Tab.insert {α : Type} : Tab α → Nat → α → Tab α
  | [], k, v => [(k, v)]
  | (k', v') :: r, k, v =>
    if k < k' then (k, v) :: (k', v') :: r
    else if k = k' then (k, v) :: r
    else (k', v') :: Tab.insert r k v

/-- Unlists a key. -/
def Tab.erase {α : Type} (t : Tab α) (k : Nat) : Tab α := t.filter (fun e => e.1 != k)

/-- Sets the value at a key: the value of an unlisted key is not listed. -/
def Tab.setD {α : Type} [DecidableEq α] (t : Tab α) (k : Nat) (d v : α) : Tab α :=
  if v = d then Tab.erase t k else Tab.insert t k v

/-- Keys strictly rising, all above a bound. -/
def Tab.risesFrom {α : Type} : Option Nat → Tab α → Bool
  | _, [] => true
  | lo, (k, _) :: r => (match lo with | none => true | some b => decide (b < k)) && Tab.risesFrom (some k) r

/-- The canonical form with the value `d k` at an unlisted key `k`. -/
def Tab.wf {α : Type} [DecidableEq α] (t : Tab α) (d : Nat → α) : Bool :=
  Tab.risesFrom none t && t.all (fun e => e.2 != d e.1)

/-- Keeps the entries whose key satisfies `p` (a reset drops a domain's keys). -/
def Tab.keep {α : Type} (t : Tab α) (p : Nat → Bool) : Tab α := t.filter (fun e => p e.1)

/-- Bits [hi:lo] of a word, as a number (R3). -/
def bits {n : Nat} (w : BitVec n) (hi lo : Nat) : Nat := (w.toNat >>> lo) % 2 ^ (hi + 1 - lo)

/-- Bit [i] of a word. -/
def bit {n : Nat} (w : BitVec n) (i : Nat) : Bool := (w.toNat >>> i) % 2 == 1

/-- A number's bits [hi:lo]. -/
def nbits (w hi lo : Nat) : Nat := (w >>> lo) % 2 ^ (hi + 1 - lo)

/-- 1 for true. -/
def b2n (b : Bool) : Nat := if b then 1 else 0

/-- The little-endian bytes of a number (R4). -/
def leBytes : Nat → Nat → List Byte
  | 0, _ => []
  | n + 1, v => BitVec.ofNat 8 v :: leBytes n (v / 256)

/-- The number of little-endian bytes (R4). -/
def leNat : List Byte → Nat
  | [] => 0
  | b :: r => b.toNat + 256 * leNat r

/-- The two's complement value of an n-bit number. -/
def sint (n v : Nat) : Int :=
  if 2 ^ (n - 1) ≤ v % 2 ^ n then ((v % 2 ^ n : Nat) : Int) - (2 ^ n : Nat) else ((v % 2 ^ n : Nat) : Int)

/-- An integer as an n-bit two's complement number. -/
def ofInt (n : Nat) (i : Int) : Nat := (i % ((2 ^ n : Nat) : Int)).toNat

/-- Replaces element i of a list. -/
def setAt {α : Type} (l : List α) (i : Nat) (v : α) : List α := l.set i v

/-- Whether two byte ranges overlap. -/
def overlap (a la b lb : Nat) : Bool := a < b + lb && b < a + la

/-- R14: sequence number a follows b. -/
def follows (a b : W32) : Bool := let d := (a - b).toNat; decide (1 ≤ d) && decide (d ≤ 2 ^ 31 - 1)

end Sys2Proof.Machine
end

