-- ==== Sys2Proof/Machine/Crc.lean ====
section
/-!
DEFINITION. The check polynomials of Table TNK-6, reflected in and out.
-/
namespace Sys2Proof.Machine

/-- `n` bit steps of a reflected CRC with the reflected polynomial `poly`. -/
def crcBits (poly : Nat) : Nat → Nat → Nat
  | 0, c => c
  | n + 1, c => crcBits poly n (if c % 2 = 1 then Nat.xor (c / 2) poly else c / 2)

/-- A reflected CRC over bytes from a running value. -/
def crcBytes (poly : Nat) : List Byte → Nat → Nat
  | [], c => c
  | b :: r, c => crcBytes poly r (crcBits poly 8 (Nat.xor c b.toNat))

/-- CRC-32C (POLY 0): 0x1EDC_6F41 reflected. -/
def crc32c (bs : List Byte) : Nat := Nat.xor (crcBytes 0x82F63B78 bs 0xFFFFFFFF) 0xFFFFFFFF

/-- CRC-64 with the ECMA-182 polynomial (POLY 1): 0x42F0_E1EB_A9EA_3693 reflected. -/
def crc64 (bs : List Byte) : Nat := Nat.xor (crcBytes 0xC96C5795D7870F42 bs 0xFFFFFFFFFFFFFFFF) 0xFFFFFFFFFFFFFFFF

end Sys2Proof.Machine
end

