-- ==== Sys2Proof/Machine/Regs.lean ====
section
/-!
DEFINITION. The register map of BAR0 (Tables HST-3 and HST-4): the address of every register, and one table per block
with each register's reset value and access masks (Table SCO-2, R7, R10).
-/
namespace Sys2Proof.Machine

/-- Base of the block of core n (Table HST-3). -/
def coreBase (n : Nat) : Nat := 0x01000000 + n * 0x00040000

/-- Base of block arr (Table HST-3, Table HST-4). -/
def baseArr (a : Nat) : Nat := coreBase (a / 64) + 0x10000 + (a % 64) * 0x100
/-- Base of block arc (Table HST-3, Table HST-4). -/
def baseArc (c : Nat) : Nat := coreBase c + 0x14000
/-- Base of block skm (Table HST-3, Table HST-4). -/
def baseSkm (c : Nat) : Nat := coreBase c + 0x18000
/-- Base of block acc (Table HST-3, Table HST-4). -/
def baseAcc (c : Nat) : Nat := coreBase c + 0x1C000
/-- Base of block chn (Table HST-3, Table HST-4). -/
def baseChn (c : Nat) : Nat := coreBase c + 0x20000
/-- Base of block ctx (Table HST-3, Table HST-4). -/
def baseCtx (k : Nat) : Nat := coreBase (k / 4) + 0x28000 + (k % 4) * 0x20
/-- Base of block seq (Table HST-3, Table HST-4). -/
def baseSeq (c : Nat) : Nat := coreBase c + 0x28080
/-- Base of block map (Table HST-3, Table HST-4). -/
def baseMap (c : Nat) : Nat := coreBase c + 0x2C000
/-- Base of block prs (Table HST-3, Table HST-4). -/
def basePrs  : Nat := 0x00CE0000
/-- Base of block strm (Table HST-3, Table HST-4). -/
def baseStrm (s : Nat) : Nat := 0x00CC0000 + s * 0x20
/-- Base of block tnk (Table HST-3, Table HST-4). -/
def baseTnk  : Nat := 0x00C00000
/-- Base of block int (Table HST-3, Table HST-4). -/
def baseInt  : Nat := 0x00C10000
/-- Base of block ring (Table HST-3, Table HST-4). -/
def baseRing (s : Nat) : Nat := 0x00C12000 + s * 0x20
/-- Base of block xfm (Table HST-3, Table HST-4). -/
def baseXfm  : Nat := 0x00C20000
/-- Base of block vec (Table HST-3, Table HST-4). -/
def baseVec  : Nat := 0x00C30000
/-- Base of block chk (Table HST-3, Table HST-4). -/
def baseChk  : Nat := 0x00C40000
/-- Base of block dma (Table HST-3, Table HST-4). -/
def baseDma  : Nat := 0x00C50000
/-- Base of block dmach (Table HST-3, Table HST-4). -/
def baseDmach (d : Nat) : Nat := 0x00C50040 + d * 0x40
/-- Base of block tst (Table HST-3, Table HST-4). -/
def baseTst  : Nat := 0x01F00000
/-- Base of block hlk (Table HST-3, Table HST-4). -/
def baseHlk  : Nat := 0x00A00000
/-- Base of block hlp (Table HST-3, Table HST-4). -/
def baseHlp (p : Nat) : Nat := 0x00A00100 + p * 0x20
/-- Base of block msr (Table HST-3, Table HST-4). -/
def baseMsr  : Nat := 0x00800000
/-- Base of block msc (Table HST-3, Table HST-4). -/
def baseMsc (m : Nat) : Nat := 0x00800100 + m * 0x100
/-- Base of block act (Table HST-3, Table HST-4). -/
def baseAct  : Nat := 0x00900000
/-- Base of block pwm (Table HST-3, Table HST-4). -/
def basePwm (n : Nat) : Nat := 0x00900100 + n * 0x10
/-- Base of block cap (Table HST-3, Table HST-4). -/
def baseCap (n : Nat) : Nat := 0x00900200 + n * 0x10
/-- Base of block can (Table HST-3, Table HST-4). -/
def baseCan (c : Nat) : Nat := 0x00900400 + c * 0x100
/-- Base of block nvs (Table HST-3, Table HST-4). -/
def baseNvs  : Nat := 0x00200000
/-- Base of block nvc (Table HST-3, Table HST-4). -/
def baseNvc (c : Nat) : Nat := 0x00200100 + c * 0x100
/-- Base of block rst (Table HST-3, Table HST-4). -/
def baseRst  : Nat := 0x00100000
/-- Base of block glb (Table HST-3, Table HST-4). -/
def baseGlb  : Nat := 0
/-- Base of block hst (Table HST-3, Table HST-4). -/
def baseHst (p : Nat) : Nat := 0x00400000 + p * 0x800
/-- Base of block sec (Table HST-3, Table HST-4). -/
def baseSec  : Nat := 0x00300000

/-- Address of ARR_STATE. -/
def Reg.ARR_STATE (a : Nat) : Nat := baseArr a + 0x0
/-- Address of ARR_CFG. -/
def Reg.ARR_CFG (a : Nat) : Nat := baseArr a + 0x4
/-- Address of ARR_CMD. -/
def Reg.ARR_CMD (a : Nat) : Nat := baseArr a + 0x8
/-- Address of ARR_ERR. -/
def Reg.ARR_ERR (a : Nat) : Nat := baseArr a + 0xC
/-- Address of ARR_CLAMP_CNT. -/
def Reg.ARR_CLAMP_CNT (a : Nat) : Nat := baseArr a + 0x10
/-- Address of ARR_AR_CNT. -/
def Reg.ARR_AR_CNT (a : Nat) : Nat := baseArr a + 0x14
/-- Address of ARR_CHKSKIP_CNT. -/
def Reg.ARR_CHKSKIP_CNT (a : Nat) : Nat := baseArr a + 0x18
/-- Address of ARR_MVX_CNT. -/
def Reg.ARR_MVX_CNT (a : Nat) : Nat := baseArr a + 0x1C
/-- Address of ARR_CLAMP_LAST. -/
def Reg.ARR_CLAMP_LAST (a : Nat) : Nat := baseArr a + 0x20
/-- Address of ARR_CLAMP_THR. -/
def Reg.ARR_CLAMP_THR (c : Nat) : Nat := baseArc c + 0x0
/-- Address of ARR_AR_THR. -/
def Reg.ARR_AR_THR (c : Nat) : Nat := baseArc c + 0x4
/-- Address of ARR_QSTALL_CNT. -/
def Reg.ARR_QSTALL_CNT (c : Nat) : Nat := baseArc c + 0x8
/-- Address of ARR_READY_LO. -/
def Reg.ARR_READY_LO (c : Nat) : Nat := baseArc c + 0x10
/-- Address of ARR_READY_HI. -/
def Reg.ARR_READY_HI (c : Nat) : Nat := baseArc c + 0x14
/-- Address of SKM_CFG. -/
def Reg.SKM_CFG (c : Nat) : Nat := baseSkm c + 0x0
/-- Address of SKM_BASE. -/
def Reg.SKM_BASE (c : Nat) : Nat := baseSkm c + 0x4
/-- Address of SKM_LIMIT. -/
def Reg.SKM_LIMIT (c : Nat) : Nat := baseSkm c + 0x8
/-- Address of SKM_STAT. -/
def Reg.SKM_STAT (c : Nat) : Nat := baseSkm c + 0xC
/-- Address of SKM_ERR. -/
def Reg.SKM_ERR (c : Nat) : Nat := baseSkm c + 0x10
/-- Address of SKM_SLOT_CNT. -/
def Reg.SKM_SLOT_CNT (c : Nat) : Nat := baseSkm c + 0x14
/-- Address of SKM_WAIT_CNT. -/
def Reg.SKM_WAIT_CNT (c : Nat) : Nat := baseSkm c + 0x18
/-- Address of SKM_OVF_CNT. -/
def Reg.SKM_OVF_CNT (c : Nat) : Nat := baseSkm c + 0x1C
/-- Address of SKM_OVF_THR. -/
def Reg.SKM_OVF_THR (c : Nat) : Nat := baseSkm c + 0x20
/-- Address of ACC_PART. -/
def Reg.ACC_PART (c : Nat) : Nat := baseAcc c + 0x0
/-- Address of ACC_STAT. -/
def Reg.ACC_STAT (c : Nat) : Nat := baseAcc c + 0x4
/-- Address of ACC_ERR. -/
def Reg.ACC_ERR (c : Nat) : Nat := baseAcc c + 0xC
/-- Address of ACC_USED. -/
def Reg.ACC_USED (c : Nat) : Nat := baseAcc c + 0x8
/-- Address of ACC_ECC_CNT. -/
def Reg.ACC_ECC_CNT (c : Nat) : Nat := baseAcc c + 0x10
/-- Address of ACC_ECC_THR. -/
def Reg.ACC_ECC_THR (c : Nat) : Nat := baseAcc c + 0x14
/-- Address of ACC_POISON_CNT. -/
def Reg.ACC_POISON_CNT (c : Nat) : Nat := baseAcc c + 0x18
/-- Address of ACC_SAT_CNT. -/
def Reg.ACC_SAT_CNT (c : Nat) : Nat := baseAcc c + 0x1C
/-- Address of ACC_DRAIN_CNT. -/
def Reg.ACC_DRAIN_CNT (c : Nat) : Nat := baseAcc c + 0x20
/-- Address of ACC_CMD. -/
def Reg.ACC_CMD (c : Nat) : Nat := baseAcc c + 0x24
/-- Address of CHN_CFG. -/
def Reg.CHN_CFG (c : Nat) : Nat := baseChn c + 0x0
/-- Address of CHN_LIGHT_PER. -/
def Reg.CHN_LIGHT_PER (c : Nat) : Nat := baseChn c + 0x4
/-- Address of CHN_FULL_PER. -/
def Reg.CHN_FULL_PER (c : Nat) : Nat := baseChn c + 0x8
/-- Address of CHN_TTRIG. -/
def Reg.CHN_TTRIG (c : Nat) : Nat := baseChn c + 0xC
/-- Address of CHN_IDLE. -/
def Reg.CHN_IDLE (c : Nat) : Nat := baseChn c + 0x10
/-- Address of CHN_TCOEF. -/
def Reg.CHN_TCOEF (c : Nat) : Nat := baseChn c + 0x14
/-- Address of CHN_TOL. -/
def Reg.CHN_TOL (c : Nat) : Nat := baseChn c + 0x18
/-- Address of CHN_DEADLINE. -/
def Reg.CHN_DEADLINE (c : Nat) : Nat := baseChn c + 0x1C
/-- Address of CHN_REQ. -/
def Reg.CHN_REQ (c : Nat) : Nat := baseChn c + 0x20
/-- Address of CHN_REQ_STAT. -/
def Reg.CHN_REQ_STAT (c : Nat) : Nat := baseChn c + 0x24
/-- Address of CHN_STAT. -/
def Reg.CHN_STAT (c : Nat) : Nat := baseChn c + 0x28
/-- Address of CHN_TEMP. -/
def Reg.CHN_TEMP (c : Nat) : Nat := baseChn c + 0x2C
/-- Address of CHN_CSEL. -/
def Reg.CHN_CSEL (c : Nat) : Nat := baseChn c + 0x30
/-- Address of CHN_CGAIN. -/
def Reg.CHN_CGAIN (c : Nat) : Nat := baseChn c + 0x34
/-- Address of CHN_COFS. -/
def Reg.CHN_COFS (c : Nat) : Nat := baseChn c + 0x38
/-- Address of CHN_AFAC. -/
def Reg.CHN_AFAC (c : Nat) : Nat := baseChn c + 0x3C
/-- Address of CHN_TFAC. -/
def Reg.CHN_TFAC (c : Nat) : Nat := baseChn c + 0x40
/-- Address of CHN_ASTAT. -/
def Reg.CHN_ASTAT (c : Nat) : Nat := baseChn c + 0x44
/-- Address of CHN_LIGHT_CNT. -/
def Reg.CHN_LIGHT_CNT (c : Nat) : Nat := baseChn c + 0x48
/-- Address of CHN_FULL_CNT. -/
def Reg.CHN_FULL_CNT (c : Nat) : Nat := baseChn c + 0x4C
/-- Address of CHN_REFUSE_CNT. -/
def Reg.CHN_REFUSE_CNT (c : Nat) : Nat := baseChn c + 0x50
/-- Address of CHN_RESTART_CNT. -/
def Reg.CHN_RESTART_CNT (c : Nat) : Nat := baseChn c + 0x54
/-- Address of CHN_LATE_CNT. -/
def Reg.CHN_LATE_CNT (c : Nat) : Nat := baseChn c + 0x58
/-- Address of CHN_CMD. -/
def Reg.CHN_CMD (c : Nat) : Nat := baseChn c + 0x5C
/-- Address of PRS_CFG. -/
def Reg.PRS_CFG : Nat := basePrs + 0x0
/-- Address of PRS_STAT. -/
def Reg.PRS_STAT : Nat := basePrs + 0x4
/-- Address of PRS_LOAD_STAT. -/
def Reg.PRS_LOAD_STAT : Nat := basePrs + 0x8
/-- Address of PRS_SHORT. -/
def Reg.PRS_SHORT : Nat := basePrs + 0xC
/-- Address of PRS_RESV. -/
def Reg.PRS_RESV (i : Nat) : Nat := basePrs + 0x10 + i * 0x4
/-- Address of PRS_RLD_RATE. -/
def Reg.PRS_RLD_RATE : Nat := basePrs + 0x20
/-- Address of PRS_RLD_CAP. -/
def Reg.PRS_RLD_CAP : Nat := basePrs + 0x24
/-- Address of PRS_RLD_REQ. -/
def Reg.PRS_RLD_REQ : Nat := basePrs + 0x28
/-- Address of PRS_PRESS_CNT. -/
def Reg.PRS_PRESS_CNT : Nat := basePrs + 0x2C
/-- Address of PRS_FAIL_CNT. -/
def Reg.PRS_FAIL_CNT : Nat := basePrs + 0x30
/-- Address of PRS_RELOC. -/
def Reg.PRS_RELOC : Nat := basePrs + 0x34
/-- Address of PRS_ASEL. -/
def Reg.PRS_ASEL : Nat := basePrs + 0x38
/-- Address of PRS_AREC. -/
def Reg.PRS_AREC : Nat := basePrs + 0x3C
/-- Address of SEQ_CTX_CFG. -/
def Reg.SEQ_CTX_CFG (k : Nat) : Nat := baseCtx k + 0x0
/-- Address of SEQ_CTX_STAT. -/
def Reg.SEQ_CTX_STAT (k : Nat) : Nat := baseCtx k + 0x4
/-- Address of SEQ_CTX_PC. -/
def Reg.SEQ_CTX_PC (k : Nat) : Nat := baseCtx k + 0x8
/-- Address of SEQ_CTX_CURSEQ. -/
def Reg.SEQ_CTX_CURSEQ (k : Nat) : Nat := baseCtx k + 0x10
/-- Address of SEQ_CTX_CMD. -/
def Reg.SEQ_CTX_CMD (k : Nat) : Nat := baseCtx k + 0x14
/-- Address of SEQ_CTX_SAVE. -/
def Reg.SEQ_CTX_SAVE (k : Nat) : Nat := baseCtx k + 0x18
/-- Address of SEQ_ERR. -/
def Reg.SEQ_ERR (c : Nat) : Nat := baseSeq c + 0x0
/-- Address of MAP_W. -/
def Reg.MAP_W (c : Nat) (i : Nat) : Nat := baseMap c + 0x0 + i * 0x4
/-- Address of MAP_CMD. -/
def Reg.MAP_CMD (c : Nat) : Nat := baseMap c + 0x10
/-- Address of MAP_ERR. -/
def Reg.MAP_ERR (c : Nat) : Nat := baseMap c + 0x14
/-- Address of SEQ_STRM_CFG. -/
def Reg.SEQ_STRM_CFG (s : Nat) : Nat := baseStrm s + 0x0
/-- Address of SEQ_STRM_DL. -/
def Reg.SEQ_STRM_DL (s : Nat) : Nat := baseStrm s + 0x4
/-- Address of SEQ_STRM_NEXT. -/
def Reg.SEQ_STRM_NEXT (s : Nat) : Nat := baseStrm s + 0x8
/-- Address of SEQ_STRM_HEAD. -/
def Reg.SEQ_STRM_HEAD (s : Nat) : Nat := baseStrm s + 0xC
/-- Address of SEQ_STRM_ARRIVE. -/
def Reg.SEQ_STRM_ARRIVE (s : Nat) : Nat := baseStrm s + 0x10
/-- Address of SEQ_STRM_GAPS. -/
def Reg.SEQ_STRM_GAPS (s : Nat) : Nat := baseStrm s + 0x14
/-- Address of SEQ_STRM_RELS. -/
def Reg.SEQ_STRM_RELS (s : Nat) : Nat := baseStrm s + 0x18
/-- Address of TNK_ECC_CNT. -/
def Reg.TNK_ECC_CNT : Nat := baseTnk + 0x0
/-- Address of TNK_ECC_THR. -/
def Reg.TNK_ECC_THR : Nat := baseTnk + 0x4
/-- Address of TNK_ERR. -/
def Reg.TNK_ERR : Nat := baseTnk + 0x8
/-- Address of TNK_UNC_ADDR. -/
def Reg.TNK_UNC_ADDR : Nat := baseTnk + 0x10
/-- Address of TNK_SCRUB. -/
def Reg.TNK_SCRUB : Nat := baseTnk + 0x18
/-- Address of TNK_DRAM_SIZE. -/
def Reg.TNK_DRAM_SIZE : Nat := baseTnk + 0x1C
/-- Address of TNK_CMD. -/
def Reg.TNK_CMD : Nat := baseTnk + 0x20
/-- Address of XFM_RANGE_CNT. -/
def Reg.XFM_RANGE_CNT : Nat := baseXfm + 0x0
/-- Address of XFM_SAT_CNT. -/
def Reg.XFM_SAT_CNT : Nat := baseXfm + 0x4
/-- Address of XFM_STAT. -/
def Reg.XFM_STAT : Nat := baseXfm + 0x8
/-- Address of VEC_SAT_CNT. -/
def Reg.VEC_SAT_CNT (i : Nat) : Nat := baseVec + 0x0 + i * 0x4
/-- Address of VEC_STAT. -/
def Reg.VEC_STAT : Nat := baseVec + 0x8
/-- Address of CHK_SCAN_CNT. -/
def Reg.CHK_SCAN_CNT : Nat := baseChk + 0x0
/-- Address of CHK_STAT. -/
def Reg.CHK_STAT : Nat := baseChk + 0x4
/-- Address of DMA_SAT_CNT. -/
def Reg.DMA_SAT_CNT : Nat := baseDma + 0x0
/-- Address of DMA_SRC. -/
def Reg.DMA_SRC (d : Nat) : Nat := baseDmach d + 0x0
/-- Address of DMA_DST. -/
def Reg.DMA_DST (d : Nat) : Nat := baseDmach d + 0x8
/-- Address of DMA_LEN. -/
def Reg.DMA_LEN (d : Nat) : Nat := baseDmach d + 0x10
/-- Address of DMA_CTL. -/
def Reg.DMA_CTL (d : Nat) : Nat := baseDmach d + 0x14
/-- Address of DMA_STAT. -/
def Reg.DMA_STAT (d : Nat) : Nat := baseDmach d + 0x18
/-- Address of INT_CTL. -/
def Reg.INT_CTL : Nat := baseInt + 0x0
/-- Address of INT_PSTAT. -/
def Reg.INT_PSTAT : Nat := baseInt + 0x4
/-- Address of INT_ETH_MAC. -/
def Reg.INT_ETH_MAC (i : Nat) : Nat := baseInt + 0x8 + i * 0x8
/-- Address of INT_CSI_LANES. -/
def Reg.INT_CSI_LANES : Nat := baseInt + 0x18
/-- Address of INT_PCNT. -/
def Reg.INT_PCNT (i : Nat) : Nat := baseInt + 0x20 + i * 0x8
/-- Address of INT_SAT_CNT. -/
def Reg.INT_SAT_CNT : Nat := baseInt + 0x50
/-- Address of INT_ERR_CNT. -/
def Reg.INT_ERR_CNT : Nat := baseInt + 0x54
/-- Address of INT_ERR. -/
def Reg.INT_ERR : Nat := baseInt + 0x58
/-- Address of INT_RING_BASE. -/
def Reg.INT_RING_BASE (s : Nat) : Nat := baseRing s + 0x0
/-- Address of INT_RING_GEOM. -/
def Reg.INT_RING_GEOM (s : Nat) : Nat := baseRing s + 0x4
/-- Address of INT_RING_DROP. -/
def Reg.INT_RING_DROP (s : Nat) : Nat := baseRing s + 0x8
/-- Address of INT_OUT_BASE. -/
def Reg.INT_OUT_BASE (s : Nat) : Nat := baseRing s + 0xC
/-- Address of INT_OUT_GEOM. -/
def Reg.INT_OUT_GEOM (s : Nat) : Nat := baseRing s + 0x10
/-- Address of INT_OUT_TAIL. -/
def Reg.INT_OUT_TAIL (s : Nat) : Nat := baseRing s + 0x14
/-- Address of ARR_CHK_SIGMA. -/
def Reg.ARR_CHK_SIGMA (a : Nat) : Nat := baseArr a + 0x24
/-- Address of ARR_CHKFAIL_CNT. -/
def Reg.ARR_CHKFAIL_CNT (a : Nat) : Nat := baseArr a + 0x28
/-- Address of ARR_CHKPOIS_CNT. -/
def Reg.ARR_CHKPOIS_CNT (a : Nat) : Nat := baseArr a + 0x2C
/-- Address of ARR_RES_CNT. -/
def Reg.ARR_RES_CNT (a : Nat) : Nat := baseArr a + 0x30
/-- Address of ARR_CHK_CFG. -/
def Reg.ARR_CHK_CFG (c : Nat) : Nat := baseArc c + 0x18
/-- Address of TST_MR_CFG. -/
def Reg.TST_MR_CFG : Nat := baseTst + 0x0
/-- Address of TST_MR_PER. -/
def Reg.TST_MR_PER : Nat := baseTst + 0x4
/-- Address of TST_MR_WIN. -/
def Reg.TST_MR_WIN : Nat := baseTst + 0x8
/-- Address of TST_TEST_DL. -/
def Reg.TST_TEST_DL : Nat := baseTst + 0xC
/-- Address of TST_TREQ. -/
def Reg.TST_TREQ : Nat := baseTst + 0x10
/-- Address of TST_TREQ_STAT. -/
def Reg.TST_TREQ_STAT : Nat := baseTst + 0x14
/-- Address of TST_MR_STAT. -/
def Reg.TST_MR_STAT : Nat := baseTst + 0x18
/-- Address of TST_MR_CNT. -/
def Reg.TST_MR_CNT : Nat := baseTst + 0x1C
/-- Address of TST_MR_FAIL. -/
def Reg.TST_MR_FAIL : Nat := baseTst + 0x20
/-- Address of TST_MR_TOL. -/
def Reg.TST_MR_TOL : Nat := baseTst + 0x24
/-- Address of TST_HEALTH. -/
def Reg.TST_HEALTH : Nat := baseTst + 0x40
/-- Address of TST_SRQ_EN. -/
def Reg.TST_SRQ_EN : Nat := baseTst + 0x44
/-- Address of TST_CF_THR. -/
def Reg.TST_CF_THR : Nat := baseTst + 0x48
/-- Address of TST_LOCK. -/
def Reg.TST_LOCK : Nat := baseTst + 0x80
/-- Address of TST_HOP. -/
def Reg.TST_HOP : Nat := baseTst + 0x84
/-- Address of TST_BP. -/
def Reg.TST_BP : Nat := baseTst + 0x88
/-- Address of TST_FSAT. -/
def Reg.TST_FSAT : Nat := baseTst + 0x8C
/-- Address of TST_CINV. -/
def Reg.TST_CINV : Nat := baseTst + 0x90
/-- Address of TST_NVSE. -/
def Reg.TST_NVSE : Nat := baseTst + 0x94
/-- Address of TST_DIGC. -/
def Reg.TST_DIGC : Nat := baseTst + 0x98
/-- Address of TST_PRSF. -/
def Reg.TST_PRSF : Nat := baseTst + 0x9C
/-- Address of TST_CLR. -/
def Reg.TST_CLR : Nat := baseTst + 0xA0
/-- Address of HLK_ID. -/
def Reg.HLK_ID : Nat := baseHlk + 0x0
/-- Address of HLK_CTL. -/
def Reg.HLK_CTL : Nat := baseHlk + 0x4
/-- Address of HLK_CHUNK. -/
def Reg.HLK_CHUNK : Nat := baseHlk + 0x8
/-- Address of HLK_CTMO. -/
def Reg.HLK_CTMO : Nat := baseHlk + 0xC
/-- Address of HLK_CQ_BASE. -/
def Reg.HLK_CQ_BASE : Nat := baseHlk + 0x10
/-- Address of HLK_CQ_TAIL. -/
def Reg.HLK_CQ_TAIL : Nat := baseHlk + 0x14
/-- Address of HLK_CQ_HEAD. -/
def Reg.HLK_CQ_HEAD : Nat := baseHlk + 0x18
/-- Address of HLK_DIG_CV_CNT. -/
def Reg.HLK_DIG_CV_CNT : Nat := baseHlk + 0x20
/-- Address of HLK_DIG_DATA_CNT. -/
def Reg.HLK_DIG_DATA_CNT : Nat := baseHlk + 0x24
/-- Address of HLK_DIG_UNRES_CNT. -/
def Reg.HLK_DIG_UNRES_CNT : Nat := baseHlk + 0x28
/-- Address of HLK_REPLAY_CNT. -/
def Reg.HLK_REPLAY_CNT : Nat := baseHlk + 0x2C
/-- Address of HLK_ROUTE_DROP. -/
def Reg.HLK_ROUTE_DROP : Nat := baseHlk + 0x30
/-- Address of HLK_LATE_DROP. -/
def Reg.HLK_LATE_DROP : Nat := baseHlk + 0x34
/-- Address of HLK_CMD. -/
def Reg.HLK_CMD : Nat := baseHlk + 0x38
/-- Address of HLK_PCFG. -/
def Reg.HLK_PCFG (p : Nat) : Nat := baseHlp p + 0x0
/-- Address of HLK_PSTAT. -/
def Reg.HLK_PSTAT (p : Nat) : Nat := baseHlp p + 0x4
/-- Address of HLK_PERR. -/
def Reg.HLK_PERR (p : Nat) : Nat := baseHlp p + 0x8
/-- Address of HLK_RT. -/
def Reg.HLK_RT (i : Nat) : Nat := baseHlk + 0x1000 + i * 0x4
/-- Address of HLK_PAIR_CFG. -/
def Reg.HLK_PAIR_CFG : Nat := baseHlk + 0x400
/-- Address of HLK_PAIR_STAT. -/
def Reg.HLK_PAIR_STAT : Nat := baseHlk + 0x404
/-- Address of HLK_PAIR_CMD. -/
def Reg.HLK_PAIR_CMD : Nat := baseHlk + 0x408
/-- Address of HLK_HB_KICK. -/
def Reg.HLK_HB_KICK : Nat := baseHlk + 0x40C
/-- Address of HLK_PAIR_JOIN. -/
def Reg.HLK_PAIR_JOIN : Nat := baseHlk + 0x410
/-- Address of HLK_MACK_TMO. -/
def Reg.HLK_MACK_TMO : Nat := baseHlk + 0x414
/-- Address of HLK_LC_ATOL. -/
def Reg.HLK_LC_ATOL : Nat := baseHlk + 0x418
/-- Address of HLK_LC_RTOL. -/
def Reg.HLK_LC_RTOL : Nat := baseHlk + 0x41C
/-- Address of HLK_LC_ITOL. -/
def Reg.HLK_LC_ITOL : Nat := baseHlk + 0x420
/-- Address of HLK_AUTHW. -/
def Reg.HLK_AUTHW : Nat := baseHlk + 0x424
/-- Address of HLK_FAILOVER_CNT. -/
def Reg.HLK_FAILOVER_CNT : Nat := baseHlk + 0x428
/-- Address of HLK_LC_SKIP_CNT. -/
def Reg.HLK_LC_SKIP_CNT : Nat := baseHlk + 0x42C
/-- Address of MSR_STAT. -/
def Reg.MSR_STAT : Nat := baseMsr + 0x0
/-- Address of MSR_CNT. -/
def Reg.MSR_CNT : Nat := baseMsr + 0x8
/-- Address of MSR_CAL_ENT. -/
def Reg.MSR_CAL_ENT : Nat := baseMsr + 0x10
/-- Address of MSR_CAL_FS. -/
def Reg.MSR_CAL_FS : Nat := baseMsr + 0x14
/-- Address of MSR_CAL_CMD. -/
def Reg.MSR_CAL_CMD : Nat := baseMsr + 0x18
/-- Address of MSR_CAL_STAT. -/
def Reg.MSR_CAL_STAT : Nat := baseMsr + 0x1C
/-- Address of MSR_CAL_SEL. -/
def Reg.MSR_CAL_SEL : Nat := baseMsr + 0x20
/-- Address of MSR_CAL_OFS. -/
def Reg.MSR_CAL_OFS : Nat := baseMsr + 0x24
/-- Address of MSR_CAL_GAIN. -/
def Reg.MSR_CAL_GAIN : Nat := baseMsr + 0x28
/-- Address of MSR_m_CTL. -/
def Reg.MSRC_CTL (m : Nat) : Nat := baseMsc m + 0x0
/-- Address of MSR_m_TUSER. -/
def Reg.MSRC_TUSER (m : Nat) : Nat := baseMsc m + 0x4
/-- Address of MSR_m_TPER. -/
def Reg.MSRC_TPER (m : Nat) : Nat := baseMsc m + 0x8
/-- Address of MSR_m_TDLY. -/
def Reg.MSRC_TDLY (m : Nat) : Nat := baseMsc m + 0xC
/-- Address of MSR_m_CMD. -/
def Reg.MSRC_CMD (m : Nat) : Nat := baseMsc m + 0x10
/-- Address of MSR_m_STAT. -/
def Reg.MSRC_STAT (m : Nat) : Nat := baseMsc m + 0x14
/-- Address of MSR_m_BUF_BASE. -/
def Reg.MSRC_BUF_BASE (m : Nat) : Nat := baseMsc m + 0x18
/-- Address of MSR_m_BUF_CFG. -/
def Reg.MSRC_BUF_CFG (m : Nat) : Nat := baseMsc m + 0x1C
/-- Address of MSR_m_BUF_WM. -/
def Reg.MSRC_BUF_WM (m : Nat) : Nat := baseMsc m + 0x20
/-- Address of MSR_m_BUF_SIG. -/
def Reg.MSRC_BUF_SIG (m : Nat) : Nat := baseMsc m + 0x24
/-- Address of MSR_m_WPTR. -/
def Reg.MSRC_WPTR (m : Nat) : Nat := baseMsc m + 0x28
/-- Address of MSR_m_RPTR. -/
def Reg.MSRC_RPTR (m : Nat) : Nat := baseMsc m + 0x2C
/-- Address of MSR_m_OVR_CNT. -/
def Reg.MSRC_OVR_CNT (m : Nat) : Nat := baseMsc m + 0x30
/-- Address of MSR_m_UOVR_CNT. -/
def Reg.MSRC_UOVR_CNT (m : Nat) : Nat := baseMsc m + 0x34
/-- Address of MSR_m_OR_CNT. -/
def Reg.MSRC_OR_CNT (m : Nat) : Nat := baseMsc m + 0x38
/-- Address of MSR_m_OVW_CNT. -/
def Reg.MSRC_OVW_CNT (m : Nat) : Nat := baseMsc m + 0x3C
/-- Address of MSR_m_ENTRYe. -/
def Reg.MSRC_ENTRY (m : Nat) (i : Nat) : Nat := baseMsc m + 0x40 + i * 0x4
/-- Address of MSR_m_LASTe. -/
def Reg.MSRC_LAST (m : Nat) (i : Nat) : Nat := baseMsc m + 0x80 + i * 0x4
/-- Address of MSR_m_LVALID. -/
def Reg.MSRC_LVALID (m : Nat) : Nat := baseMsc m + 0xC0
/-- Address of MSR_m_ERR. -/
def Reg.MSRC_ERR (m : Nat) : Nat := baseMsc m + 0xC4
/-- Address of ACT_SAFE. -/
def Reg.ACT_SAFE : Nat := baseAct + 0x0
/-- Address of ACT_EN. -/
def Reg.ACT_EN : Nat := baseAct + 0x4
/-- Address of ACT_AO_RATE. -/
def Reg.ACT_AO_RATE : Nat := baseAct + 0x8
/-- Address of ACT_AO_CODEn. -/
def Reg.ACT_AO_CODE (i : Nat) : Nat := baseAct + 0x10 + i * 0x4
/-- Address of ACT_AO_STAT. -/
def Reg.ACT_AO_STAT : Nat := baseAct + 0x30
/-- Address of ACT_PWM_PER. -/
def Reg.ACT_PWM_PER (n : Nat) : Nat := basePwm n + 0x0
/-- Address of ACT_PWM_CFG. -/
def Reg.ACT_PWM_CFG (n : Nat) : Nat := basePwm n + 0x4
/-- Address of ACT_PWM_DUTY. -/
def Reg.ACT_PWM_DUTY (n : Nat) : Nat := basePwm n + 0x8
/-- Address of ACT_CAP_CFG. -/
def Reg.ACT_CAP_CFG (n : Nat) : Nat := baseCap n + 0x0
/-- Address of ACT_CAP_PER. -/
def Reg.ACT_CAP_PER (n : Nat) : Nat := baseCap n + 0x4
/-- Address of ACT_CAP_HIGH. -/
def Reg.ACT_CAP_HIGH (n : Nat) : Nat := baseCap n + 0x8
/-- Address of ACT_CAP_EDGES. -/
def Reg.ACT_CAP_EDGES (n : Nat) : Nat := baseCap n + 0xC
/-- Address of CAN_CFG. -/
def Reg.CAN_CFG (c : Nat) : Nat := baseCan c + 0x0
/-- Address of CAN_NBT. -/
def Reg.CAN_NBT (c : Nat) : Nat := baseCan c + 0x4
/-- Address of CAN_DBT. -/
def Reg.CAN_DBT (c : Nat) : Nat := baseCan c + 0x8
/-- Address of CAN_STAT. -/
def Reg.CAN_STAT (c : Nat) : Nat := baseCan c + 0xC
/-- Address of CAN_RXQ. -/
def Reg.CAN_RXQ (c : Nat) : Nat := baseCan c + 0x10
/-- Address of CAN_CMD. -/
def Reg.CAN_CMD (c : Nat) : Nat := baseCan c + 0x14
/-- Address of CAN_TXDROP_CNT. -/
def Reg.CAN_TXDROP_CNT (c : Nat) : Nat := baseCan c + 0x18
/-- Address of CAN_RXOVF_CNT. -/
def Reg.CAN_RXOVF_CNT (c : Nat) : Nat := baseCan c + 0x1C
/-- Address of CAN_CNT. -/
def Reg.CAN_CNT (c : Nat) : Nat := baseCan c + 0x20
/-- Address of CAN_FLTk. -/
def Reg.CAN_FLT (c : Nat) (i : Nat) : Nat := baseCan c + 0x40 + i * 0x8
/-- Address of NVS_STAT. -/
def Reg.NVS_STAT : Nat := baseNvs + 0x0
/-- Address of NVS_ECC_CNT. -/
def Reg.NVS_ECC_CNT : Nat := baseNvs + 0x4
/-- Address of NVS_ECC_THR. -/
def Reg.NVS_ECC_THR : Nat := baseNvs + 0x8
/-- Address of NVS_UNC_CNT. -/
def Reg.NVS_UNC_CNT : Nat := baseNvs + 0xC
/-- Address of NVS_UNC_LAST. -/
def Reg.NVS_UNC_LAST : Nat := baseNvs + 0x10
/-- Address of NVS_JSEQ. -/
def Reg.NVS_JSEQ : Nat := baseNvs + 0x14
/-- Address of NVS_WCNT. -/
def Reg.NVS_WCNT : Nat := baseNvs + 0x18
/-- Address of NVS_LOG_CFG. -/
def Reg.NVS_LOG_CFG : Nat := baseNvs + 0x1C
/-- Address of NVS_LOG_DROP. -/
def Reg.NVS_LOG_DROP : Nat := baseNvs + 0x20
/-- Address of NVS_LOG_HEAD. -/
def Reg.NVS_LOG_HEAD : Nat := baseNvs + 0x24
/-- Address of NVS_CMD. -/
def Reg.NVS_CMD : Nat := baseNvs + 0x28
/-- Address of NVS_Cc_PAGE. -/
def Reg.NVSC_PAGE (c : Nat) : Nat := baseNvc c + 0x0
/-- Address of NVS_Cc_CMD. -/
def Reg.NVSC_CMD (c : Nat) : Nat := baseNvc c + 0x4
/-- Address of NVS_Cc_STAT. -/
def Reg.NVSC_STAT (c : Nat) : Nat := baseNvc c + 0x8
/-- Address of NVS_Cc_BUFw. -/
def Reg.NVSC_BUF (c : Nat) (i : Nat) : Nat := baseNvc c + 0x40 + i * 0x4
/-- Address of RST_CAUSE. -/
def Reg.RST_CAUSE : Nat := baseRst + 0x0
/-- Address of RST_STAT. -/
def Reg.RST_STAT : Nat := baseRst + 0x4
/-- Address of RST_START. -/
def Reg.RST_START : Nat := baseRst + 0x8
/-- Address of RST_FAILCNT. -/
def Reg.RST_FAILCNT : Nat := baseRst + 0xC
/-- Address of RST_SW. -/
def Reg.RST_SW : Nat := baseRst + 0x10
/-- Address of RST_BLK. -/
def Reg.RST_BLK : Nat := baseRst + 0x14
/-- Address of RST_CORE. -/
def Reg.RST_CORE : Nat := baseRst + 0x18
/-- Address of RST_BSTAT. -/
def Reg.RST_BSTAT : Nat := baseRst + 0x1C
/-- Address of RST_CSTAT. -/
def Reg.RST_CSTAT (i : Nat) : Nat := baseRst + 0x20 + i * 0x4
/-- Address of RST_SEP_TMO. -/
def Reg.RST_SEP_TMO : Nat := baseRst + 0x28
/-- Address of RST_WDT_CFG. -/
def Reg.RST_WDT_CFG : Nat := baseRst + 0x2C
/-- Address of RST_WDT_KICK. -/
def Reg.RST_WDT_KICK : Nat := baseRst + 0x30
/-- Address of RST_RECOVER. -/
def Reg.RST_RECOVER : Nat := baseRst + 0x34
/-- Address of RST_FLT. -/
def Reg.RST_FLT : Nat := baseRst + 0x38
/-- Address of CLK_STAT. -/
def Reg.CLK_STAT : Nat := baseRst + 0x100
/-- Address of CLK_CFG. -/
def Reg.CLK_CFG : Nat := baseRst + 0x104
/-- Address of CLK_AONCNT. -/
def Reg.CLK_AONCNT : Nat := baseRst + 0x108
/-- Address of PWR_TARGET. -/
def Reg.PWR_TARGET : Nat := baseRst + 0x200
/-- Address of PWR_STAT. -/
def Reg.PWR_STAT : Nat := baseRst + 0x204
/-- Address of PWR_CFG. -/
def Reg.PWR_CFG : Nat := baseRst + 0x208
/-- Address of PWR_WAKE. -/
def Reg.PWR_WAKE : Nat := baseRst + 0x20C
/-- Address of PWR_ALARM. -/
def Reg.PWR_ALARM : Nat := baseRst + 0x210
/-- Address of PWR_ERR. -/
def Reg.PWR_ERR : Nat := baseRst + 0x218
/-- Address of PWR_SAVE. -/
def Reg.PWR_SAVE : Nat := baseRst + 0x21C
/-- Address of CNT_SNAP. -/
def Reg.CNT_SNAP : Nat := baseRst + 0x300
/-- Address of CNT_SNAP_VALID. -/
def Reg.CNT_SNAP_VALID : Nat := baseRst + 0x304
/-- Address of CNT_SNAP_i. -/
def Reg.CNT_SNAPV (i : Nat) : Nat := baseRst + 0x308 + i * 0x8
/-- Address of GLB_ID. -/
def Reg.GLB_ID : Nat := baseGlb + 0x0
/-- Address of GLB_STAT. -/
def Reg.GLB_STAT : Nat := baseGlb + 0x4
/-- Address of GLB_SCRATCH. -/
def Reg.GLB_SCRATCH : Nat := baseGlb + 0x8
/-- Address of GLB_DEVID. -/
def Reg.GLB_DEVID : Nat := baseGlb + 0xC
/-- Address of GLB_CAP_PTR. -/
def Reg.GLB_CAP_PTR : Nat := baseGlb + 0x10
/-- Address of GLB_UID. -/
def Reg.GLB_UID : Nat := baseGlb + 0x18
/-- Address of HST_PSTAT. -/
def Reg.HST_PSTAT (p : Nat) : Nat := baseHst p + 0x0
/-- Address of HST_ERR. -/
def Reg.HST_ERR (p : Nat) : Nat := baseHst p + 0x4
/-- Address of HST_ERR_CNT. -/
def Reg.HST_ERR_CNT (p : Nat) : Nat := baseHst p + 0x8
/-- Address of HST_EQ_BASE. -/
def Reg.HST_EQ_BASE (p : Nat) : Nat := baseHst p + 0x10
/-- Address of HST_EQ_CFG. -/
def Reg.HST_EQ_CFG (p : Nat) : Nat := baseHst p + 0x18
/-- Address of HST_EQ_HEAD. -/
def Reg.HST_EQ_HEAD (p : Nat) : Nat := baseHst p + 0x1C
/-- Address of HST_EQ_TAIL. -/
def Reg.HST_EQ_TAIL (p : Nat) : Nat := baseHst p + 0x20
/-- Address of HST_EQ_LOST. -/
def Reg.HST_EQ_LOST (p : Nat) : Nat := baseHst p + 0x24
/-- Address of HST_SQi_BASE. -/
def Reg.HST_SQ_BASE (p : Nat) (i : Nat) : Nat := baseHst p + 0x40 + i * 0x20
/-- Address of HST_SQi_CFG. -/
def Reg.HST_SQ_CFG (p : Nat) (i : Nat) : Nat := baseHst p + 0x48 + i * 0x20
/-- Address of HST_SQi_TAIL. -/
def Reg.HST_SQ_TAIL (p : Nat) (i : Nat) : Nat := baseHst p + 0x4C + i * 0x20
/-- Address of HST_CQi_BASE. -/
def Reg.HST_CQ_BASE (p : Nat) (i : Nat) : Nat := baseHst p + 0x50 + i * 0x20
/-- Address of HST_CQi_CFG. -/
def Reg.HST_CQ_CFG (p : Nat) (i : Nat) : Nat := baseHst p + 0x58 + i * 0x20
/-- Address of HST_CQi_HEAD. -/
def Reg.HST_CQ_HEAD (p : Nat) (i : Nat) : Nat := baseHst p + 0x5C + i * 0x20
/-- Address of HST_SVECs. -/
def Reg.HST_SVEC (p : Nat) (i : Nat) : Nat := baseHst p + 0x100 + i * 0x4
/-- Address of HST_PORTCFG. -/
def Reg.HST_PORTCFG (p : Nat) : Nat := baseHst p + 0x200
/-- Address of HST_WDROP. -/
def Reg.HST_WDROP (p : Nat) : Nat := baseHst p + 0x204
/-- Address of HST_MBX_ADDR. -/
def Reg.HST_MBX_ADDR (p : Nat) : Nat := baseHst p + 0x300
/-- Address of HST_MBX_LEN. -/
def Reg.HST_MBX_LEN (p : Nat) : Nat := baseHst p + 0x308
/-- Address of HST_MBX_CMD. -/
def Reg.HST_MBX_CMD (p : Nat) : Nat := baseHst p + 0x30C
/-- Address of HST_MBX_STAT. -/
def Reg.HST_MBX_STAT (p : Nat) : Nat := baseHst p + 0x310
/-- Address of SEC_STAT. -/
def Reg.SEC_STAT : Nat := baseSec + 0x0
/-- Address of SEC_KEYREV. -/
def Reg.SEC_KEYREV : Nat := baseSec + 0x4
/-- Address of SEC_LOCK. -/
def Reg.SEC_LOCK : Nat := baseSec + 0x8
/-- Address of SEC_MKEY_PROG. -/
def Reg.SEC_MKEY_PROG : Nat := baseSec + 0xC
/-- Address of SEC_DBG_CHAL. -/
def Reg.SEC_DBG_CHAL (i : Nat) : Nat := baseSec + 0x20 + i * 0x4
/-- Address of SEC_DBG_CMD. -/
def Reg.SEC_DBG_CMD : Nat := baseSec + 0x40
/-- Address of SEC_DBG_STAT. -/
def Reg.SEC_DBG_STAT : Nat := baseSec + 0x44
/-- Address of SEC_DIG. -/
def Reg.SEC_DIG (i : Nat) : Nat := baseSec + 0x100 + i * 0x4
/-- Address of SEC_DBG_BUF. -/
def Reg.SEC_DBG_BUF (i : Nat) : Nat := baseSec + 0x1000 + i * 0x4
/-- Address of SEC_CERT. -/
def Reg.SEC_CERT (i : Nat) : Nat := baseSec + 0x2000 + i * 0x4

/-- A row of a register table: `n` registers from offset `off`, `step` apart; reset value; RW, W1C and RWL masks; whether
writes are commands of their own row (`own`); 1 or 2 for the lower or upper word of a 64-bit register (R6). -/
structure RegRow where
  off : Nat
  n : Nat
  step : Nat
  reset : Nat
  rw : Nat
  w1c : Nat
  rwl : Nat
  own : Bool
  wide : Nat
deriving DecidableEq, Repr

/-- Registers of block arr. -/
def rowsArr : List RegRow := [
  ⟨0x0, 1, 0x4, 0x0, 0x0, 0x0, 0x0, false, 0⟩,
  ⟨0x4, 1, 0x4, 0xF06, 0x3F1F, 0x0, 0x0, true, 0⟩,
  ⟨0x8, 1, 0x4, 0x0, 0x0, 0x0, 0x0, true, 0⟩,
  ⟨0xC, 1, 0x4, 0x0, 0x0, 0x3, 0x0, false, 0⟩,
  ⟨0x10, 1, 0x4, 0x0, 0x0, 0x0, 0x0, false, 0⟩,
  ⟨0x14, 1, 0x4, 0x0, 0x0, 0x0, 0x0, false, 0⟩,
  ⟨0x18, 1, 0x4, 0x0, 0x0, 0x0, 0x0, false, 0⟩,
  ⟨0x1C, 1, 0x4, 0x0, 0x0, 0x0, 0x0, false, 0⟩,
  ⟨0x20, 1, 0x4, 0x0, 0x0, 0x0, 0x0, false, 0⟩,
  ⟨0x24, 1, 0x4, 0x0, 0xFFFFFFFF, 0x0, 0x0, false, 0⟩,
  ⟨0x28, 1, 0x4, 0x0, 0x0, 0x0, 0x0, false, 0⟩,
  ⟨0x2C, 1, 0x4, 0x0, 0x0, 0x0, 0x0, false, 0⟩,
  ⟨0x30, 1, 0x4, 0x0, 0x0, 0x0, 0x0, false, 0⟩]
/-- Registers of block arc. -/
def rowsArc : List RegRow := [
  ⟨0x0, 1, 0x4, 0x1000, 0xFFFFFFFF, 0x0, 0x0, false, 0⟩,
  ⟨0x4, 1, 0x4, 0x1000, 0xFFFFFFFF, 0x0, 0x0, false, 0⟩,
  ⟨0x8, 1, 0x4, 0x0, 0x0, 0x0, 0x0, false, 0⟩,
  ⟨0x10, 1, 0x4, 0x0, 0x0, 0x0, 0x0, false, 0⟩,
  ⟨0x14, 1, 0x4, 0x0, 0x0, 0x0, 0x0, false, 0⟩,
  ⟨0x18, 1, 0x4, 0x40310, 0xF03FF, 0x0, 0x0, false, 0⟩]
/-- Registers of block skm. -/
def rowsSkm : List RegRow := [
  ⟨0x0, 1, 0x4, 0x1, 0x1, 0x0, 0x0, true, 0⟩,
  ⟨0x4, 1, 0x4, 0x0, 0x1FFFF0, 0x0, 0x0, true, 0⟩,
  ⟨0x8, 1, 0x4, 0x0, 0x3FFFF0, 0x0, 0x0, true, 0⟩,
  ⟨0xC, 1, 0x4, 0x0, 0x0, 0x0, 0x0, false, 0⟩,
  ⟨0x10, 1, 0x4, 0x0, 0x0, 0x1F, 0x0, false, 0⟩,
  ⟨0x14, 1, 0x4, 0x0, 0x0, 0x0, 0x0, false, 0⟩,
  ⟨0x18, 1, 0x4, 0x0, 0x0, 0x0, 0x0, false, 0⟩,
  ⟨0x1C, 1, 0x4, 0x0, 0x0, 0x0, 0x0, false, 0⟩,
  ⟨0x20, 1, 0x4, 0x100, 0xFFFFFFFF, 0x0, 0x0, false, 0⟩]
/-- Registers of block acc. -/
def rowsAcc : List RegRow := [
  ⟨0x0, 1, 0x4, 0x8080808, 0xFFFFFFFF, 0x0, 0x0, true, 0⟩,
  ⟨0x4, 1, 0x4, 0x0, 0x0, 0x0, 0x0, false, 0⟩,
  ⟨0xC, 1, 0x4, 0x0, 0x0, 0x7F, 0x0, false, 0⟩,
  ⟨0x8, 1, 0x4, 0x0, 0x0, 0x0, 0x0, false, 0⟩,
  ⟨0x10, 1, 0x4, 0x0, 0x0, 0x0, 0x0, false, 0⟩,
  ⟨0x14, 1, 0x4, 0x40, 0xFFFFFFFF, 0x0, 0x0, false, 0⟩,
  ⟨0x18, 1, 0x4, 0x0, 0x0, 0x0, 0x0, false, 0⟩,
  ⟨0x1C, 1, 0x4, 0x0, 0x0, 0x0, 0x0, false, 0⟩,
  ⟨0x20, 1, 0x4, 0x0, 0x0, 0x0, 0x0, false, 0⟩,
  ⟨0x24, 1, 0x4, 0x0, 0x0, 0x0, 0x0, true, 0⟩]
/-- Registers of block chn. -/
def rowsChn : List RegRow := [
  ⟨0x0, 1, 0x4, 0x4F, 0x7F, 0x0, 0x0, false, 0⟩,
  ⟨0x4, 1, 0x4, 0x1388, 0xFFFFF, 0x0, 0x0, false, 0⟩,
  ⟨0x8, 1, 0x4, 0x1D4C0, 0xFFFFFF, 0x0, 0x0, false, 0⟩,
  ⟨0xC, 1, 0x4, 0x20, 0xFFF, 0x0, 0x0, false, 0⟩,
  ⟨0x10, 1, 0x4, 0x12C0, 0xFFFF, 0x0, 0x0, false, 0⟩,
  ⟨0x14, 1, 0x4, 0x3B83126F, 0xFFFFFFFF, 0x0, 0x0, false, 0⟩,
  ⟨0x18, 1, 0x4, 0xA0020, 0xFF00FF, 0x0, 0x0, false, 0⟩,
  ⟨0x1C, 1, 0x4, 0xC350, 0xFFFFFF, 0x0, 0x0, false, 0⟩,
  ⟨0x20, 1, 0x4, 0x0, 0x0, 0x0, 0x0, true, 0⟩,
  ⟨0x24, 1, 0x4, 0x0, 0x0, 0x0, 0x0, false, 0⟩,
  ⟨0x28, 1, 0x4, 0x0, 0x0, 0x0, 0x0, false, 0⟩,
  ⟨0x2C, 1, 0x4, 0x0, 0x0, 0x0, 0x0, false, 0⟩,
  ⟨0x30, 1, 0x4, 0x0, 0x3FF003F, 0x0, 0x0, false, 0⟩,
  ⟨0x34, 1, 0x4, 0x0, 0x0, 0x0, 0x0, false, 0⟩,
  ⟨0x38, 1, 0x4, 0x0, 0x0, 0x0, 0x0, false, 0⟩,
  ⟨0x3C, 1, 0x4, 0x0, 0x0, 0x0, 0x0, false, 0⟩,
  ⟨0x40, 1, 0x4, 0x0, 0x0, 0x0, 0x0, false, 0⟩,
  ⟨0x44, 1, 0x4, 0x0, 0x0, 0x0, 0x0, false, 0⟩,
  ⟨0x48, 1, 0x4, 0x0, 0x0, 0x0, 0x0, false, 0⟩,
  ⟨0x4C, 1, 0x4, 0x0, 0x0, 0x0, 0x0, false, 0⟩,
  ⟨0x50, 1, 0x4, 0x0, 0x0, 0x0, 0x0, false, 0⟩,
  ⟨0x54, 1, 0x4, 0x0, 0x0, 0x0, 0x0, false, 0⟩,
  ⟨0x58, 1, 0x4, 0x0, 0x0, 0x0, 0x0, false, 0⟩,
  ⟨0x5C, 1, 0x4, 0x0, 0x0, 0x0, 0x0, true, 0⟩]
/-- Registers of block prs. -/
def rowsPrs : List RegRow := [
  ⟨0x0, 1, 0x4, 0x240, 0x77F, 0x0, 0x0, true, 0⟩,
  ⟨0x4, 1, 0x4, 0x0, 0x0, 0x0, 0x0, false, 0⟩,
  ⟨0x8, 1, 0x4, 0x0, 0x0, 0x0, 0x0, false, 0⟩,
  ⟨0xC, 1, 0x4, 0x0, 0x0, 0x0, 0x0, false, 0⟩,
  ⟨0x10, 4, 0x4, 0x0, 0x0, 0x0, 0x0, false, 0⟩,
  ⟨0x20, 1, 0x4, 0xC, 0xFF, 0x0, 0x0, false, 0⟩,
  ⟨0x24, 1, 0x4, 0x61A80, 0xFFFFF, 0x0, 0x0, false, 0⟩,
  ⟨0x28, 1, 0x4, 0x0, 0x0, 0x0, 0x0, true, 0⟩,
  ⟨0x2C, 1, 0x4, 0x0, 0x0, 0x0, 0x0, false, 0⟩,
  ⟨0x30, 1, 0x4, 0x0, 0x0, 0x0, 0x0, false, 0⟩,
  ⟨0x34, 1, 0x4, 0x0, 0x0, 0x0, 0x0, false, 0⟩,
  ⟨0x38, 1, 0x4, 0x0, 0x7FF, 0x0, 0x0, false, 0⟩,
  ⟨0x3C, 1, 0x8, 0x0, 0x0, 0x0, 0x0, false, 1⟩,
  ⟨0x40, 1, 0x8, 0x0, 0x0, 0x0, 0x0, false, 2⟩]
/-- Registers of block ctx. -/
def rowsCtx : List RegRow := [
  ⟨0x0, 1, 0x4, 0x0, 0x1, 0x0, 0x0, false, 0⟩,
  ⟨0x4, 1, 0x4, 0x0, 0x0, 0x0, 0x0, false, 0⟩,
  ⟨0x8, 1, 0x8, 0x0, 0xFFFFFFF8, 0x0, 0x0, true, 1⟩,
  ⟨0xC, 1, 0x8, 0x0, 0xFFFFFFFF, 0x0, 0x0, true, 2⟩,
  ⟨0x10, 1, 0x4, 0x0, 0x0, 0x0, 0x0, false, 0⟩,
  ⟨0x14, 1, 0x4, 0x0, 0x0, 0x0, 0x0, true, 0⟩,
  ⟨0x18, 1, 0x4, 0x0, 0x7FFFFC0, 0x0, 0x0, true, 0⟩]
/-- Registers of block seq. -/
def rowsSeq : List RegRow := [
  ⟨0x0, 1, 0x4, 0x0, 0x0, 0x3, 0x0, false, 0⟩]
/-- Registers of block map. -/
def rowsMap : List RegRow := [
  ⟨0x0, 4, 0x4, 0x0, 0xFFFFFFFF, 0x0, 0x0, false, 0⟩,
  ⟨0x10, 1, 0x4, 0x0, 0x0, 0x0, 0x0, true, 0⟩,
  ⟨0x14, 1, 0x4, 0x0, 0x0, 0x1, 0x0, false, 0⟩]
/-- Registers of block strm. -/
def rowsStrm : List RegRow := [
  ⟨0x0, 1, 0x4, 0x0, 0xFFF, 0x0, 0x0, false, 0⟩,
  ⟨0x4, 1, 0x4, 0x3E8, 0xFFFFF, 0x0, 0x0, false, 0⟩,
  ⟨0x8, 1, 0x4, 0x0, 0xFFFFFFFF, 0x0, 0x0, false, 0⟩,
  ⟨0xC, 1, 0x4, 0x0, 0x0, 0x0, 0x0, false, 0⟩,
  ⟨0x10, 1, 0x4, 0x0, 0x0, 0x0, 0x0, true, 0⟩,
  ⟨0x14, 1, 0x4, 0x0, 0x0, 0x0, 0x0, false, 0⟩,
  ⟨0x18, 1, 0x4, 0x0, 0x0, 0x0, 0x0, false, 0⟩]
/-- Registers of block tnk. -/
def rowsTnk : List RegRow := [
  ⟨0x0, 1, 0x4, 0x0, 0x0, 0x0, 0x0, false, 0⟩,
  ⟨0x4, 1, 0x4, 0x100, 0xFFFFFFFF, 0x0, 0x0, false, 0⟩,
  ⟨0x8, 1, 0x4, 0x0, 0x0, 0x7, 0x0, false, 0⟩,
  ⟨0x10, 1, 0x8, 0x0, 0x0, 0x0, 0x0, false, 1⟩,
  ⟨0x14, 1, 0x8, 0x0, 0x0, 0x0, 0x0, false, 2⟩,
  ⟨0x18, 1, 0x4, 0x401000, 0xFFFFFFFF, 0x0, 0x0, false, 0⟩,
  ⟨0x1C, 1, 0x4, 0x0, 0x0, 0x0, 0x0, false, 0⟩,
  ⟨0x20, 1, 0x4, 0x0, 0x0, 0x0, 0x0, true, 0⟩]
/-- Registers of block xfm. -/
def rowsXfm : List RegRow := [
  ⟨0x0, 1, 0x4, 0x0, 0x0, 0x0, 0x0, false, 0⟩,
  ⟨0x4, 1, 0x4, 0x0, 0x0, 0x0, 0x0, false, 0⟩,
  ⟨0x8, 1, 0x4, 0x0, 0x0, 0x0, 0x0, false, 0⟩]
/-- Registers of block vec. -/
def rowsVec : List RegRow := [
  ⟨0x0, 2, 0x4, 0x0, 0x0, 0x0, 0x0, false, 0⟩,
  ⟨0x8, 1, 0x4, 0x0, 0x0, 0x0, 0x0, false, 0⟩]
/-- Registers of block chk. -/
def rowsChk : List RegRow := [
  ⟨0x0, 1, 0x4, 0x0, 0x0, 0x0, 0x0, false, 0⟩,
  ⟨0x4, 1, 0x4, 0x0, 0x0, 0x0, 0x0, false, 0⟩]
/-- Registers of block dma. -/
def rowsDma : List RegRow := [
  ⟨0x0, 1, 0x4, 0x0, 0x0, 0x0, 0x0, false, 0⟩]
/-- Registers of block dmach. -/
def rowsDmach : List RegRow := [
  ⟨0x0, 1, 0x8, 0x0, 0xFFFFFFFF, 0x0, 0x0, false, 1⟩,
  ⟨0x4, 1, 0x8, 0x0, 0x7FFFFF, 0x0, 0x0, false, 2⟩,
  ⟨0x8, 1, 0x8, 0x0, 0xFFFFFFFF, 0x0, 0x0, false, 1⟩,
  ⟨0xC, 1, 0x8, 0x0, 0x7FFFFF, 0x0, 0x0, false, 2⟩,
  ⟨0x10, 1, 0x4, 0x0, 0xFFFFFFFF, 0x0, 0x0, false, 0⟩,
  ⟨0x14, 1, 0x4, 0x0, 0xFFFF0000, 0x0, 0x0, true, 0⟩,
  ⟨0x18, 1, 0x4, 0x0, 0x0, 0x6, 0x0, false, 0⟩]
/-- Registers of block int. -/
def rowsInt : List RegRow := [
  ⟨0x0, 1, 0x4, 0x0, 0x3F, 0x0, 0x0, false, 0⟩,
  ⟨0x4, 1, 0x4, 0x0, 0x0, 0x0, 0x0, false, 0⟩,
  ⟨0x8, 2, 0x8, 0x0, 0xFFFFFFFF, 0x0, 0x0, false, 1⟩,
  ⟨0xC, 2, 0x8, 0x0, 0x3FFFF, 0x0, 0x0, false, 2⟩,
  ⟨0x18, 1, 0x4, 0x0, 0xFF, 0x0, 0x0, false, 0⟩,
  ⟨0x20, 6, 0x8, 0x0, 0x0, 0x0, 0x0, false, 1⟩,
  ⟨0x24, 6, 0x8, 0x0, 0x0, 0x0, 0x0, false, 2⟩,
  ⟨0x50, 1, 0x4, 0x0, 0x0, 0x0, 0x0, false, 0⟩,
  ⟨0x54, 1, 0x4, 0x0, 0x0, 0x0, 0x0, false, 0⟩,
  ⟨0x58, 1, 0x4, 0x0, 0x0, 0x1, 0x0, false, 0⟩]
/-- Registers of block ring. -/
def rowsRing : List RegRow := [
  ⟨0x0, 1, 0x4, 0x0, 0x1FFFFF, 0x0, 0x0, false, 0⟩,
  ⟨0x4, 1, 0x4, 0x10001, 0xFFFFF, 0x0, 0x0, false, 0⟩,
  ⟨0x8, 1, 0x4, 0x0, 0x0, 0x0, 0x0, false, 0⟩,
  ⟨0xC, 1, 0x4, 0x0, 0x1FFFFF, 0x0, 0x0, false, 0⟩,
  ⟨0x10, 1, 0x4, 0x10001, 0xFFFFF, 0x0, 0x0, false, 0⟩,
  ⟨0x14, 1, 0x4, 0x0, 0xFFFFFFFF, 0x0, 0x0, true, 0⟩]
/-- Registers of block tst. -/
def rowsTst : List RegRow := [
  ⟨0x0, 1, 0x4, 0x1, 0x1, 0x0, 0x0, false, 0⟩,
  ⟨0x4, 1, 0x4, 0x258, 0xFFFF, 0x0, 0x0, false, 0⟩,
  ⟨0x8, 1, 0x4, 0x5DC0, 0xFFFF, 0x0, 0x0, false, 0⟩,
  ⟨0xC, 1, 0x4, 0xC350, 0xFFFFFF, 0x0, 0x0, false, 0⟩,
  ⟨0x10, 1, 0x4, 0x0, 0x0, 0x0, 0x0, true, 0⟩,
  ⟨0x14, 1, 0x4, 0x0, 0x0, 0x0, 0x0, false, 0⟩,
  ⟨0x18, 1, 0x4, 0x0, 0x0, 0x0, 0x0, false, 0⟩,
  ⟨0x1C, 1, 0x4, 0x0, 0x0, 0x0, 0x0, false, 0⟩,
  ⟨0x20, 1, 0x4, 0x0, 0x0, 0x0, 0x0, false, 0⟩,
  ⟨0x24, 1, 0x4, 0x18, 0xFF, 0x0, 0x0, false, 0⟩,
  ⟨0x40, 1, 0x4, 0x0, 0x0, 0x7F, 0x0, true, 0⟩,
  ⟨0x44, 1, 0x4, 0x7F, 0x7F, 0x0, 0x0, false, 0⟩,
  ⟨0x48, 1, 0x4, 0x10, 0xFFFF, 0x0, 0x0, false, 0⟩,
  ⟨0x80, 1, 0x4, 0x0, 0x0, 0x0, 0x0, false, 0⟩,
  ⟨0x84, 1, 0x4, 0x0, 0x8000FF7F, 0x0, 0x0, true, 0⟩,
  ⟨0x88, 1, 0x4, 0x0, 0x8000FF7F, 0x0, 0x0, true, 0⟩,
  ⟨0x8C, 1, 0x4, 0x0, 0x80FF9FFF, 0x0, 0x0, true, 0⟩,
  ⟨0x90, 1, 0x4, 0x0, 0x80FF07FF, 0x0, 0x0, true, 0⟩,
  ⟨0x94, 1, 0x4, 0x0, 0x80017FFF, 0x0, 0x0, true, 0⟩,
  ⟨0x98, 1, 0x4, 0x0, 0x8000FF03, 0x0, 0x0, true, 0⟩,
  ⟨0x9C, 1, 0x4, 0x0, 0x800007FF, 0x0, 0x0, true, 0⟩,
  ⟨0xA0, 1, 0x4, 0x0, 0x0, 0x0, 0x0, true, 0⟩]
/-- Registers of block hlk. -/
def rowsHlk : List RegRow := [
  ⟨0x0, 1, 0x4, 0x0, 0x3FF, 0x0, 0x0, true, 0⟩,
  ⟨0x4, 1, 0x4, 0x0, 0xFF, 0x0, 0x0, true, 0⟩,
  ⟨0x8, 1, 0x4, 0x40, 0x7F, 0x0, 0x0, false, 0⟩,
  ⟨0xC, 1, 0x4, 0x1388, 0xFFFFFF, 0x0, 0x0, false, 0⟩,
  ⟨0x10, 1, 0x4, 0x0, 0x1FFFFF, 0x0, 0x0, false, 0⟩,
  ⟨0x14, 1, 0x4, 0x0, 0x3F, 0x0, 0x0, true, 0⟩,
  ⟨0x18, 1, 0x4, 0x0, 0x0, 0x0, 0x0, false, 0⟩,
  ⟨0x20, 1, 0x4, 0x0, 0x0, 0x0, 0x0, false, 0⟩,
  ⟨0x24, 1, 0x4, 0x0, 0x0, 0x0, 0x0, false, 0⟩,
  ⟨0x28, 1, 0x4, 0x0, 0x0, 0x0, 0x0, false, 0⟩,
  ⟨0x2C, 1, 0x4, 0x0, 0x0, 0x0, 0x0, false, 0⟩,
  ⟨0x30, 1, 0x4, 0x0, 0x0, 0x0, 0x0, false, 0⟩,
  ⟨0x34, 1, 0x4, 0x0, 0x0, 0x0, 0x0, false, 0⟩,
  ⟨0x38, 1, 0x4, 0x0, 0x0, 0x0, 0x0, true, 0⟩,
  ⟨0x1000, 1024, 0x4, 0x0, 0xF, 0x0, 0x0, false, 0⟩,
  ⟨0x400, 1, 0x4, 0x0, 0xFFF, 0x0, 0x0, true, 0⟩,
  ⟨0x404, 1, 0x4, 0x0, 0x0, 0x0, 0x0, false, 0⟩,
  ⟨0x408, 1, 0x4, 0x0, 0x0, 0x0, 0x0, true, 0⟩,
  ⟨0x40C, 1, 0x4, 0x0, 0x0, 0x0, 0x0, true, 0⟩,
  ⟨0x410, 1, 0x4, 0x3E8, 0xFFFF, 0x0, 0x0, false, 0⟩,
  ⟨0x414, 1, 0x4, 0x32, 0xFFFF, 0x0, 0x0, false, 0⟩,
  ⟨0x418, 1, 0x4, 0x3A83126F, 0xFFFFFFFF, 0x0, 0x0, false, 0⟩,
  ⟨0x41C, 1, 0x4, 0x3C23D70A, 0xFFFFFFFF, 0x0, 0x0, false, 0⟩,
  ⟨0x420, 1, 0x4, 0x2, 0xFFFF, 0x0, 0x0, false, 0⟩,
  ⟨0x424, 1, 0x4, 0x0, 0x81FFFFFF, 0x0, 0x0, true, 0⟩,
  ⟨0x428, 1, 0x4, 0x0, 0x0, 0x0, 0x0, false, 0⟩,
  ⟨0x42C, 1, 0x4, 0x0, 0x0, 0x0, 0x0, false, 0⟩]
/-- Registers of block hlp. -/
def rowsHlp : List RegRow := [
  ⟨0x0, 1, 0x4, 0x0, 0xFFF, 0x0, 0x0, false, 0⟩,
  ⟨0x4, 1, 0x4, 0x0, 0x0, 0x0, 0x0, false, 0⟩,
  ⟨0x8, 1, 0x4, 0x0, 0x0, 0x7, 0x0, false, 0⟩]
/-- Registers of block msr. -/
def rowsMsr : List RegRow := [
  ⟨0x0, 1, 0x4, 0x0, 0x0, 0x0, 0x0, false, 0⟩,
  ⟨0x8, 1, 0x8, 0x0, 0x0, 0x0, 0x0, false, 1⟩,
  ⟨0xC, 1, 0x8, 0x0, 0x0, 0x0, 0x0, false, 2⟩,
  ⟨0x10, 1, 0x4, 0x0, 0xFFFFFFFF, 0x0, 0x0, false, 0⟩,
  ⟨0x14, 1, 0x4, 0x700000, 0xFFFFFF, 0x0, 0x0, false, 0⟩,
  ⟨0x18, 1, 0x4, 0x0, 0x0, 0x0, 0x0, true, 0⟩,
  ⟨0x1C, 1, 0x4, 0x0, 0x0, 0x0, 0x0, false, 0⟩,
  ⟨0x20, 1, 0x4, 0x0, 0x1FF, 0x0, 0x0, false, 0⟩,
  ⟨0x24, 1, 0x4, 0x0, 0x0, 0x0, 0x0, false, 0⟩,
  ⟨0x28, 1, 0x4, 0x3F800000, 0x0, 0x0, 0x0, false, 0⟩]
/-- Registers of block msc. -/
def rowsMsc : List RegRow := [
  ⟨0x0, 1, 0x4, 0x0, 0x1FFFF, 0x0, 0x0, true, 0⟩,
  ⟨0x4, 1, 0x4, 0x4E20, 0x3FFFF, 0x0, 0x0, true, 0⟩,
  ⟨0x8, 1, 0x4, 0x186A0, 0xFFFFFF, 0x0, 0x0, true, 0⟩,
  ⟨0xC, 1, 0x4, 0x0, 0xFFFF, 0x0, 0x0, true, 0⟩,
  ⟨0x10, 1, 0x4, 0x0, 0x0, 0x0, 0x0, true, 0⟩,
  ⟨0x14, 1, 0x4, 0x0, 0x0, 0x1000, 0x0, false, 0⟩,
  ⟨0x18, 1, 0x4, 0x0, 0x7FFFF, 0x0, 0x0, true, 0⟩,
  ⟨0x1C, 1, 0x4, 0x0, 0x1F, 0x0, 0x0, true, 0⟩,
  ⟨0x20, 1, 0x4, 0x20, 0x3FFFF, 0x0, 0x0, true, 0⟩,
  ⟨0x24, 1, 0x4, 0x0, 0x80007FFF, 0x0, 0x0, true, 0⟩,
  ⟨0x28, 1, 0x4, 0x0, 0x0, 0x0, 0x0, false, 0⟩,
  ⟨0x2C, 1, 0x4, 0x0, 0xFFFFC, 0x0, 0x0, true, 0⟩,
  ⟨0x30, 1, 0x4, 0x0, 0x0, 0x0, 0x0, false, 0⟩,
  ⟨0x34, 1, 0x4, 0x0, 0x0, 0x0, 0x0, false, 0⟩,
  ⟨0x38, 1, 0x4, 0x0, 0x0, 0x0, 0x0, false, 0⟩,
  ⟨0x3C, 1, 0x4, 0x0, 0x0, 0x0, 0x0, false, 0⟩,
  ⟨0x40, 16, 0x4, 0x0, 0xFF7FFF, 0x0, 0x0, true, 0⟩,
  ⟨0x80, 16, 0x4, 0x0, 0x0, 0x0, 0x0, false, 0⟩,
  ⟨0xC0, 1, 0x4, 0x0, 0x0, 0x0, 0x0, false, 0⟩,
  ⟨0xC4, 1, 0x4, 0x0, 0x0, 0x3, 0x0, false, 0⟩]
/-- Registers of block act. -/
def rowsAct : List RegRow := [
  ⟨0x0, 1, 0x4, 0x0, 0x20, 0x0, 0x0, true, 0⟩,
  ⟨0x4, 1, 0x4, 0x0, 0xFFFFFFFF, 0x0, 0x0, false, 0⟩,
  ⟨0x8, 1, 0x4, 0x0, 0xFF, 0x0, 0x0, true, 0⟩,
  ⟨0x10, 8, 0x4, 0x0, 0x0, 0x0, 0x0, false, 0⟩,
  ⟨0x30, 1, 0x4, 0x0, 0x0, 0x0, 0x0, false, 0⟩]
/-- Registers of block pwm. -/
def rowsPwm : List RegRow := [
  ⟨0x0, 1, 0x4, 0x2710, 0xFFFFFF, 0x0, 0x0, false, 0⟩,
  ⟨0x4, 1, 0x4, 0x1, 0x1, 0x0, 0x0, false, 0⟩,
  ⟨0x8, 1, 0x4, 0x0, 0x0, 0x0, 0x0, false, 0⟩]
/-- Registers of block cap. -/
def rowsCap : List RegRow := [
  ⟨0x0, 1, 0x4, 0xA, 0xFF, 0x0, 0x0, false, 0⟩,
  ⟨0x4, 1, 0x4, 0xFFFFFFFF, 0x0, 0x0, 0x0, false, 0⟩,
  ⟨0x8, 1, 0x4, 0x0, 0x0, 0x0, 0x0, false, 0⟩,
  ⟨0xC, 1, 0x4, 0x0, 0x0, 0x0, 0x0, false, 0⟩]
/-- Registers of block can. -/
def rowsCan : List RegRow := [
  ⟨0x0, 1, 0x4, 0x8, 0xB, 0x0, 0x0, true, 0⟩,
  ⟨0x4, 1, 0x4, 0xF9F7E00, 0x3FFFFFFF, 0x0, 0x0, true, 0⟩,
  ⟨0x8, 1, 0x4, 0x1ECCB80, 0x7FFFFFF, 0x0, 0x0, true, 0⟩,
  ⟨0xC, 1, 0x4, 0x0, 0x0, 0x0, 0x0, false, 0⟩,
  ⟨0x10, 1, 0x4, 0x0, 0x0, 0x0, 0x0, false, 0⟩,
  ⟨0x14, 1, 0x4, 0x0, 0x0, 0x0, 0x0, true, 0⟩,
  ⟨0x18, 1, 0x4, 0x0, 0x0, 0x0, 0x0, false, 0⟩,
  ⟨0x1C, 1, 0x4, 0x0, 0x0, 0x0, 0x0, false, 0⟩,
  ⟨0x20, 1, 0x8, 0x0, 0x0, 0x0, 0x0, false, 1⟩,
  ⟨0x24, 1, 0x8, 0x0, 0x0, 0x0, 0x0, false, 2⟩,
  ⟨0x40, 16, 0x8, 0x0, 0xBFFFFFFF, 0x0, 0x0, true, 1⟩,
  ⟨0x44, 16, 0x8, 0x0, 0x1FFFFFFF, 0x0, 0x0, true, 2⟩]
/-- Registers of block nvs. -/
def rowsNvs : List RegRow := [
  ⟨0x0, 1, 0x4, 0x0, 0x0, 0x0, 0x0, false, 0⟩,
  ⟨0x4, 1, 0x4, 0x0, 0x0, 0x0, 0x0, false, 0⟩,
  ⟨0x8, 1, 0x4, 0x10, 0xFFFFFFFF, 0x0, 0x0, false, 0⟩,
  ⟨0xC, 1, 0x4, 0x0, 0x0, 0x0, 0x0, false, 0⟩,
  ⟨0x10, 1, 0x4, 0x0, 0x0, 0x0, 0x0, false, 0⟩,
  ⟨0x14, 1, 0x4, 0x0, 0x0, 0x0, 0x0, false, 0⟩,
  ⟨0x18, 1, 0x4, 0x0, 0x0, 0x0, 0x0, false, 0⟩,
  ⟨0x1C, 1, 0x4, 0xA0002, 0xFF0003, 0x0, 0x0, false, 0⟩,
  ⟨0x20, 1, 0x4, 0x0, 0x0, 0x0, 0x0, false, 0⟩,
  ⟨0x24, 1, 0x4, 0x0, 0x0, 0x0, 0x0, false, 0⟩,
  ⟨0x28, 1, 0x4, 0x0, 0x0, 0x0, 0x0, true, 0⟩]
/-- Registers of block nvc. -/
def rowsNvc : List RegRow := [
  ⟨0x0, 1, 0x4, 0x0, 0xFFF, 0x0, 0x0, false, 0⟩,
  ⟨0x4, 1, 0x4, 0x0, 0x0, 0x0, 0x0, true, 0⟩,
  ⟨0x8, 1, 0x4, 0x0, 0x0, 0x0, 0x0, false, 0⟩,
  ⟨0x40, 16, 0x4, 0x0, 0xFFFFFFFF, 0x0, 0x0, false, 0⟩]
/-- Registers of block rst. -/
def rowsRst : List RegRow := [
  ⟨0x0, 1, 0x4, 0x1, 0x0, 0xFFF, 0x0, false, 0⟩,
  ⟨0x4, 1, 0x4, 0x0, 0x0, 0x0, 0x0, false, 0⟩,
  ⟨0x8, 1, 0x4, 0x0, 0x0, 0x0, 0x0, true, 0⟩,
  ⟨0xC, 1, 0x4, 0x0, 0x0, 0x0, 0x0, false, 0⟩,
  ⟨0x10, 1, 0x4, 0x0, 0x0, 0x0, 0x0, true, 0⟩,
  ⟨0x14, 1, 0x4, 0x0, 0x7F, 0x0, 0x0, true, 0⟩,
  ⟨0x18, 1, 0x4, 0x0, 0xFFFFFFFF, 0x0, 0x0, true, 0⟩,
  ⟨0x1C, 1, 0x4, 0x0, 0x0, 0x0, 0x0, false, 0⟩,
  ⟨0x20, 2, 0x4, 0x0, 0x0, 0x0, 0x0, false, 0⟩,
  ⟨0x28, 1, 0x4, 0x64, 0xFFFF, 0x0, 0x0, false, 0⟩,
  ⟨0x2C, 1, 0x4, 0x10064, 0x0, 0x0, 0x1FFFF, false, 0⟩,
  ⟨0x30, 1, 0x4, 0x0, 0x0, 0x0, 0x0, true, 0⟩,
  ⟨0x34, 1, 0x4, 0x0, 0x0, 0x0, 0x0, true, 0⟩,
  ⟨0x38, 1, 0x4, 0x0, 0x0, 0x0, 0x0, true, 0⟩,
  ⟨0x100, 1, 0x4, 0x0, 0x0, 0x0, 0x0, false, 0⟩,
  ⟨0x104, 1, 0x4, 0x0, 0x1, 0x0, 0x0, false, 0⟩,
  ⟨0x108, 1, 0x8, 0x0, 0x0, 0x0, 0x0, false, 1⟩,
  ⟨0x10C, 1, 0x8, 0x0, 0x0, 0x0, 0x0, false, 2⟩,
  ⟨0x200, 1, 0x4, 0x3, 0x3F03, 0x0, 0x0, true, 0⟩,
  ⟨0x204, 1, 0x4, 0x0, 0x0, 0x0, 0x0, false, 0⟩,
  ⟨0x208, 1, 0x4, 0x3, 0x1F3, 0x0, 0x0, false, 0⟩,
  ⟨0x20C, 1, 0x4, 0x0, 0x0, 0x1F, 0x0, false, 0⟩,
  ⟨0x210, 1, 0x8, 0x0, 0xFFFFFFFF, 0x0, 0x0, false, 1⟩,
  ⟨0x214, 1, 0x8, 0x0, 0xFFFFFFFF, 0x0, 0x0, false, 2⟩,
  ⟨0x218, 1, 0x4, 0x0, 0x0, 0x1, 0x0, false, 0⟩,
  ⟨0x21C, 1, 0x4, 0x0, 0xFFFFF, 0x0, 0x0, false, 0⟩,
  ⟨0x300, 1, 0x4, 0x0, 0x0, 0x0, 0x0, true, 0⟩,
  ⟨0x304, 1, 0x4, 0x0, 0x0, 0x0, 0x0, false, 0⟩,
  ⟨0x308, 14, 0x8, 0x0, 0x0, 0x0, 0x0, false, 1⟩,
  ⟨0x30C, 14, 0x8, 0x0, 0x0, 0x0, 0x0, false, 2⟩]
/-- Registers of block glb. -/
def rowsGlb : List RegRow := [
  ⟨0x0, 1, 0x4, 0xB08060, 0x0, 0x0, 0x0, false, 0⟩,
  ⟨0x4, 1, 0x4, 0x0, 0x0, 0x0, 0x0, false, 0⟩,
  ⟨0x8, 1, 0x4, 0x0, 0xFFFFFFFF, 0x0, 0x0, false, 0⟩,
  ⟨0xC, 1, 0x4, 0x0, 0x0, 0x0, 0x0, false, 0⟩,
  ⟨0x10, 1, 0x4, 0x100, 0x0, 0x0, 0x0, false, 0⟩,
  ⟨0x18, 1, 0x8, 0x0, 0x0, 0x0, 0x0, false, 1⟩,
  ⟨0x1C, 1, 0x8, 0x0, 0x0, 0x0, 0x0, false, 2⟩]
/-- Registers of block hst. -/
def rowsHst : List RegRow := [
  ⟨0x0, 1, 0x4, 0x0, 0x0, 0x0, 0x0, false, 0⟩,
  ⟨0x4, 1, 0x4, 0x0, 0x0, 0x3F, 0x0, false, 0⟩,
  ⟨0x8, 1, 0x4, 0x0, 0x0, 0x0, 0x0, false, 0⟩,
  ⟨0x10, 1, 0x8, 0x0, 0xFFFFFFE0, 0x0, 0x0, true, 1⟩,
  ⟨0x14, 1, 0x8, 0x0, 0xFFFFFFFF, 0x0, 0x0, true, 2⟩,
  ⟨0x18, 1, 0x4, 0x0, 0x8000000F, 0x0, 0x0, true, 0⟩,
  ⟨0x1C, 1, 0x4, 0x0, 0xFFF, 0x0, 0x0, true, 0⟩,
  ⟨0x20, 1, 0x4, 0x0, 0x0, 0x0, 0x0, false, 0⟩,
  ⟨0x24, 1, 0x4, 0x0, 0x0, 0x0, 0x0, false, 0⟩,
  ⟨0x40, 4, 0x20, 0x0, 0xFFFFFFFF, 0x0, 0x0, true, 1⟩,
  ⟨0x44, 4, 0x20, 0x0, 0xFFFFFFFF, 0x0, 0x0, true, 2⟩,
  ⟨0x48, 4, 0x20, 0x0, 0x8000000F, 0x0, 0x0, true, 0⟩,
  ⟨0x4C, 4, 0x20, 0x0, 0xFFF, 0x0, 0x0, true, 0⟩,
  ⟨0x50, 4, 0x20, 0x0, 0xFFFFFFFF, 0x0, 0x0, true, 1⟩,
  ⟨0x54, 4, 0x20, 0x0, 0xFFFFFFFF, 0x0, 0x0, true, 2⟩,
  ⟨0x58, 4, 0x20, 0x0, 0x8000000F, 0x0, 0x0, true, 0⟩,
  ⟨0x5C, 4, 0x20, 0x0, 0xFFF, 0x0, 0x0, true, 0⟩,
  ⟨0x100, 64, 0x4, 0x0, 0x8000003F, 0x0, 0x0, false, 0⟩,
  ⟨0x200, 1, 0x4, 0x0, 0x0, 0x0, 0x0, false, 0⟩,
  ⟨0x204, 1, 0x4, 0x0, 0x0, 0x0, 0x0, false, 0⟩,
  ⟨0x300, 1, 0x8, 0x0, 0xFFFFFFFF, 0x0, 0x0, false, 1⟩,
  ⟨0x304, 1, 0x8, 0x0, 0xFFFFFFFF, 0x0, 0x0, false, 2⟩,
  ⟨0x308, 1, 0x4, 0x0, 0xFFFFFFFF, 0x0, 0x0, false, 0⟩,
  ⟨0x30C, 1, 0x4, 0x0, 0x0, 0x0, 0x0, true, 0⟩,
  ⟨0x310, 1, 0x4, 0x0, 0x0, 0x0, 0x0, false, 0⟩]
/-- Registers of block sec. -/
def rowsSec : List RegRow := [
  ⟨0x0, 1, 0x4, 0x0, 0x0, 0x0, 0x0, false, 0⟩,
  ⟨0x4, 1, 0x4, 0x0, 0x0, 0x0, 0x0, true, 0⟩,
  ⟨0x8, 1, 0x4, 0x0, 0x0, 0x0, 0x0, true, 0⟩,
  ⟨0xC, 1, 0x4, 0x0, 0x0, 0x0, 0x0, true, 0⟩,
  ⟨0x20, 8, 0x4, 0x0, 0x0, 0x0, 0x0, false, 0⟩,
  ⟨0x40, 1, 0x4, 0x0, 0x0, 0x0, 0x0, true, 0⟩,
  ⟨0x44, 1, 0x4, 0x0, 0x0, 0x0, 0x0, false, 0⟩,
  ⟨0x100, 8, 0x4, 0x0, 0x0, 0x0, 0x0, false, 0⟩,
  ⟨0x1000, 1024, 0x4, 0x0, 0xFFFFFFFF, 0x0, 0x0, false, 0⟩,
  ⟨0x2000, 1024, 0x4, 0x0, 0x0, 0x0, 0x0, false, 0⟩]

/-- The words of an intake record (Table TNK-3): reserved bits are not stored, and the word with EN is a command of its own. -/
def rowsIrec : List RegRow := [
  ⟨0x0, 1, 4, 0, 0x3FFF0F87, 0, 0, true, 0⟩, ⟨0x4, 1, 4, 0, 0xFFFFFFFF, 0, 0, false, 0⟩,
  ⟨0x8, 1, 4, 0, 0xFFFFFFFF, 0, 0, false, 0⟩, ⟨0xC, 1, 4, 0, 0x000001FF, 0, 0, false, 0⟩,
  ⟨0x10, 8, 4, 0, 0xFFFFFFFF, 0, 0, false, 0⟩]

/-- Address of word w of intake record i (R277). -/
def Reg.IREC (i w : Nat) : Nat := 0x00C11000 + i * 0x40 + w * 4

/-- An MSI-X table entry and the pending bits (R456, PCI Express: vector control bit 0 masks, set at reset). PRESUMED. -/
def rowsMsix : List RegRow := [
  ⟨0x0, 64, 16, 0, 0xFFFFFFFC, 0, 0, false, 0⟩, ⟨0x4, 64, 16, 0, 0xFFFFFFFF, 0, 0, false, 0⟩,
  ⟨0x8, 64, 16, 0, 0xFFFFFFFF, 0, 0, false, 0⟩, ⟨0xC, 64, 16, 1, 1, 0, 0, false, 0⟩,
  ⟨0x800, 2, 4, 0, 0, 0, 0, false, 0⟩]

/-- Address of the vector control word of vector v of port p (R456). -/
def Reg.MSIX_CTL (p v : Nat) : Nat := 0x00404000 + p * 0x1000 + v * 16 + 12
/-- Address of word i of the pending bits of port p (R456). -/
def Reg.MSIX_PBA (p i : Nat) : Nat := 0x00404000 + p * 0x1000 + 0x800 + i * 4

/-- The row of an offset in a table. -/
def rowAt (t : List RegRow) (o : Nat) : Option RegRow :=
  t.find? (fun r => decide (r.off ≤ o) && decide ((o - r.off) % r.step = 0) && decide ((o - r.off) / r.step < r.n))

/-- The register row at a BAR0 offset in the block of a core (Table HST-4). -/
def coreRow (o : Nat) : Option RegRow :=
  if o < 0x10000 then none
  else if o < 0x14000 then rowAt rowsArr (o % 0x100)
  else if o < 0x18000 then rowAt rowsArc (o - 0x14000)
  else if o < 0x1C000 then rowAt rowsSkm (o - 0x18000)
  else if o < 0x20000 then rowAt rowsAcc (o - 0x1C000)
  else if o < 0x28000 then rowAt rowsChn (o - 0x20000)
  else if o < 0x28080 then rowAt rowsCtx (o % 0x20)
  else if o < 0x2C000 then rowAt rowsSeq (o - 0x28080)
  else if o < 0x30000 then rowAt rowsMap (o - 0x2C000)
  else none

/-- The register row at a BAR0 offset (Table HST-3); none where no register stands (R7). -/
def regRow (a : Nat) : Option RegRow :=
  if a < 0x00100000 then rowAt rowsGlb a
  else if a < 0x00200000 then rowAt rowsRst (a - 0x00100000)
  else if a < 0x00200100 then rowAt rowsNvs (a - 0x00200000)
  else if a < 0x00200300 then rowAt rowsNvc (a % 0x100)
  else if a < 0x00300000 then none
  else if a < 0x00400000 then rowAt rowsSec (a - 0x00300000)
  else if a < 0x00401000 then rowAt rowsHst (a % 0x800)
  else if a < 0x00404000 then none
  else if a < 0x00406000 then rowAt rowsMsix (a % 0x1000)
  else if a < 0x00800000 then none
  else if a < 0x00800100 then rowAt rowsMsr (a - 0x00800000)
  else if a < 0x00800500 then rowAt rowsMsc (a % 0x100)
  else if a < 0x00900000 then none
  else if a < 0x00900100 then rowAt rowsAct (a - 0x00900000)
  else if a < 0x00900180 then rowAt rowsPwm (a % 0x10)
  else if a < 0x00900200 then none
  else if a < 0x00900280 then rowAt rowsCap (a % 0x10)
  else if a < 0x00900400 then none
  else if a < 0x00900800 then rowAt rowsCan (a % 0x100)
  else if a < 0x00A00000 then none
  else if a < 0x00A00100 then rowAt rowsHlk (a - 0x00A00000)
  else if a < 0x00A00200 then rowAt rowsHlp (a % 0x20)
  else if a < 0x00A10000 then rowAt rowsHlk (a - 0x00A00000)
  else if a < 0x00C00000 then none
  else if a < 0x00C10000 then rowAt rowsTnk (a - 0x00C00000)
  else if a < 0x00C11000 then rowAt rowsInt (a - 0x00C10000)
  else if a < 0x00C12000 then rowAt rowsIrec (a % 0x40)
  else if a < 0x00C12800 then rowAt rowsRing (a % 0x20)
  else if a < 0x00C20000 then none
  else if a < 0x00C30000 then rowAt rowsXfm (a - 0x00C20000)
  else if a < 0x00C40000 then rowAt rowsVec (a - 0x00C30000)
  else if a < 0x00C50000 then rowAt rowsChk (a - 0x00C40000)
  else if a < 0x00C50040 then rowAt rowsDma (a - 0x00C50000)
  else if a < 0x00C50100 then rowAt rowsDmach (a % 0x40)
  else if a < 0x00CC0000 then none
  else if a < 0x00CC0800 then rowAt rowsStrm (a % 0x20)
  else if a < 0x00CE0000 then none
  else if a < 0x00CF0000 then rowAt rowsPrs (a - 0x00CE0000)
  else if a < 0x01000000 then none
  else if a < 0x01800000 then coreRow ((a - 0x01000000) % 0x40000)
  else if a < 0x01F00000 then none
  else if a < 0x01F10000 then rowAt rowsTst (a - 0x01F00000)
  else none

/-- The value a register holds when its domain leaves reset (R10). -/
def regReset (a : Nat) : W32 := match regRow a with
  | some r => BitVec.ofNat 32 r.reset
  | none => 0

/-- The domain of a BAR0 offset (Table HST-3): 0 AON, 1 SEC, 2 NVSC, 4 FAB, 6 HST, 7 HLK, 8 FIO, 9 + n core n. -/
def domOfAddr (a : Nat) : Nat :=
  if a < 0x00100000 then 4
  else if a < 0x00200000 then 0
  else if a < 0x00300000 then 2
  else if a < 0x00400000 then 1
  else if a < 0x00800000 then 6
  else if a < 0x00A00000 then 8
  else if a < 0x00C00000 then 7
  else if a < 0x01000000 then 4
  else if a < 0x01800000 then 9 + (a - 0x01000000) / 0x40000
  else 4

end Sys2Proof.Machine
end

