-- ==== Sys2Proof/Machine/Ops.lean ====
section
/-!
DEFINITION. The named operations over memories, registers, requesters and events.
-/
namespace Sys2Proof.Machine

/-- The outcome of a step of this machine. -/
abbrev Out := Host.Outcome State Fault Refusal

/-! ## Memories -/

/-- The byte at an address; an unlisted byte reads 0 (log entry 9). -/
def Mem.byte (m : Mem) (a : Nat) : Byte := Tab.getD m.cells a 0

/-- `n` bytes from an address. -/
def Mem.read (m : Mem) (a n : Nat) : List Byte := (List.range n).map (fun i => m.byte (a + i))

/-- The little-endian number in `n` bytes (R4). -/
def Mem.readN (m : Mem) (a n : Nat) : Nat := leNat (m.read a n)

/-- Sets one byte. -/
def Mem.setByte (m : Mem) (a : Nat) (b : Byte) : Mem := { m with cells := Tab.setD m.cells a 0 b }

/-- The cells after writing bytes in ascending address order. -/
def cellsWrite : Tab Byte → Nat → List Byte → Tab Byte
  | t, _, [] => t
  | t, a, b :: r => cellsWrite (Tab.setD t a 0 b) (a + 1) r

/-- Writes bytes, the ECC conditions of the groups untouched. -/
def Mem.writeRaw (m : Mem) (a : Nat) (bs : List Byte) : Mem := { m with cells := cellsWrite m.cells a bs }

/-- Whether a group of the range holds an uncorrectable error. -/
def Mem.unc (m : Mem) (a n : Nat) : Bool := m.ecc.any (fun e => e.2 && overlap (8 * e.1) 8 a n)

/-- The first uncorrectable group of the range. -/
def Mem.firstUnc (m : Mem) (a n : Nat) : Option Nat :=
  (m.ecc.find? (fun e => e.2 && overlap (8 * e.1) 8 a n)).map (fun e => e.1)

/-- How many groups of the range hold a correctable error. -/
def Mem.corr (m : Mem) (a n : Nat) : Nat := (m.ecc.filter (fun e => !e.2 && overlap (8 * e.1) 8 a n)).length

/-- Writing good data to the range makes its groups good. -/
def Mem.heal (m : Mem) (a n : Nat) : Mem := { m with ecc := m.ecc.filter (fun e => !overlap (8 * e.1) 8 a n) }

/-- Whether every byte of a range is 0. -/
def Mem.zeroIn (m : Mem) (a n : Nat) : Bool := !(m.cells.any (fun e => decide (a ≤ e.1) && decide (e.1 < a + n)))

/-- The canonical form of a memory: bytes and ECC conditions by rising address, no listed byte 0. -/
def Mem.wf (m : Mem) : Bool := Tab.wf m.cells (fun _ => 0) && Tab.risesFrom none m.ecc

/-! ## Registers -/

/-- The stored value of a register (R10: its reset value until something changes it). -/
def State.reg (s : State) (a : Nat) : W32 := Tab.getD s.regs a (regReset a)

/-- Sets a register's stored value. -/
def State.setReg (s : State) (a : Nat) (v : W32) : State := { s with regs := Tab.setD s.regs a (regReset a) v }

/-- Bits [hi:lo] of a register. -/
def State.fld (s : State) (a hi lo : Nat) : Nat := bits (s.reg a) hi lo

/-- A register's bit. -/
def State.rbit (s : State) (a i : Nat) : Bool := bit (s.reg a) i

/-- Writes bits [hi:lo] of a register. -/
def State.setFld (s : State) (a hi lo v : Nat) : State :=
  let w := (s.reg a).toNat
  let m := 2 ^ (hi + 1 - lo)
  s.setReg a (BitVec.ofNat 32 (w - ((w >>> lo) % m) * 2 ^ lo + (v % m) * 2 ^ lo))

/-- Sets a register's bits by a mask. -/
def State.orReg (s : State) (a m : Nat) : State := s.setReg a (s.reg a ||| BitVec.ofNat 32 m)

/-- Clears a register's bits by a mask. -/
def State.clrReg (s : State) (a m : Nat) : State := s.setReg a (s.reg a &&& ~~~(BitVec.ofNat 32 m))

/-- Adds to a count that holds at 0xFFFF_FFFF. -/
def satAdd (v : W32) (n : Nat) : W32 := if v.toNat + n ≥ 2 ^ 32 then 0xFFFFFFFF else v + BitVec.ofNat 32 n

/-- Adds to a counter register that holds at 0xFFFF_FFFF. -/
def State.incReg (s : State) (a n : Nat) : State := s.setReg a (satAdd (s.reg a) n)

/-- Adds to a counter register that wraps. -/
def State.incWrap (s : State) (a n : Nat) : State := s.setReg a (s.reg a + BitVec.ofNat 32 n)

/-- The stored value of a 64-bit register at its lower word's address. -/
def State.reg64 (s : State) (a : Nat) : Nat := (s.reg a).toNat + 2 ^ 32 * (s.reg (a + 4)).toNat

/-- Sets both words of a 64-bit register. -/
def State.setReg64 (s : State) (a v : Nat) : State :=
  (s.setReg a (BitVec.ofNat 32 v)).setReg (a + 4) (BitVec.ofNat 32 (v >>> 32))

/-! ## Domains -/

/-- Whether the trim is loaded (RST_STAT.TRIM_VALID): fields with reset entry L read 0 before (R10, R425). -/
def State.trimmed (s : State) : Bool := s.rbit Reg.RST_STAT 0

/-- SPLIT as loaded at step 4 of this start (R425, R444). -/
def State.split (s : State) : Bool := s.trimmed && s.rst.split

/-- The index of a reset domain. -/
def domIx : Dom → Nat
  | .aon => 0 | .sec => 1 | .nvsc => 2 | .ctl => 3 | .fab => 4 | .dram => 5 | .hst => 6 | .hlk => 7 | .fio => 8
  | .core n => 9 + n.val

/-- The state of a domain. -/
def State.domSt (s : State) (d : Nat) : DomSt := Tab.getD s.rst.dom d .down

/-- Whether a domain is in RUN. -/
def State.up (s : State) (d : Nat) : Bool := s.domSt d == .run

/-- Whether core c is in RUN. -/
def State.coreUp (s : State) (c : Nat) : Bool := s.up (9 + c)

/-! ## Events -/

/-- The count of Table RCP-8 with index i. -/
def Counts.at (c : Counts) (i : Nat) : W64 :=
  if i = 0 then c.aon else if i = 1 then c.gate else if i < 8 then Tab.getD c.pcnt (i - 2) 0
  else if i < 12 then Tab.getD c.can (i - 8) 0 else if i = 12 then c.msr else c.hlk

/-- The count index of a source (Table HST-10); intake events give their own. -/
def srcCount (src : Nat) : Nat :=
  if src = 0x300 then 13 else if src = 0x400 ∨ src = 0x500 ∨ src = 0x900 then 0 else if src = 0x600 then 12
  else if src = 0x700 then 8 else 1

/-- Entries of an event queue or command queue of LOG2N n: below 4 acts as 4, above 12 as 12 (Table HST-14). -/
def ringLen (n : Nat) : Nat := 2 ^ (max 4 (min 12 n))

/-- The 32 bytes of an event record (Table HST-9), with the PHASE given. -/
def EvRec.bytes (e : EvRec) (phase : Bool) : List Byte :=
  leBytes 2 e.code.toNat ++ [BitVec.ofNat 8 (e.sev.toNat + 128 * b2n phase), e.stream]
    ++ leBytes 2 (e.source.toNat + 4096 * e.cntix.toNat) ++ leBytes 4 e.seq.toNat ++ leBytes 6 e.lcount.toNat ++ e.payload

/-- What a port's configuration space holds; after reset MSI-X is not enabled (PRESUMED, log entry 152). -/
def State.portCfg (s : State) (p : Nat) : PortCfg := Tab.getD s.host.cfg p ⟨false, false⟩

/-- Sends MSI-X vector v of port p, or makes it pending while its entry or the function is masked; with MSI-X not enabled nothing is sent (R456). -/
def State.msix (s : State) (p v : Nat) : State :=
  if !(s.portCfg p).msix then s
  else if (s.portCfg p).fmask || s.rbit (Reg.MSIX_CTL p v) 0 then { s with ev := { s.ev with pba := Tab.setD s.ev.pba (p * 64 + v) false true } }
  else { s with ev := { s.ev with msix := (p, v) :: s.ev.msix } }

/-- A port's event queue. -/
def State.eq (s : State) (p : Nat) : EqSt := if p = 0 then s.ev.eqA else s.ev.eqB

/-- Replaces a port's event queue. -/
def State.setEq (s : State) (p : Nat) (q : EqSt) : State :=
  { s with ev := if p = 0 then { s.ev with eqA := q } else { s.ev with eqB := q } }

/-- Writes host memory (bus master). -/
def State.hostWrite (s : State) (a : Nat) (bs : List Byte) : State :=
  { s with mem := { s.mem with host := s.mem.host.writeRaw a bs } }

/-- The entries a queue holds when it is full: one less than its length, since equal head and tail mean empty (log entry 14). -/
def ringFull (head tail n : Nat) : Bool := (tail + 1) % n == head % n

/-- Writes a record at a port's event queue tail and sends vector 0 (R454). -/
def State.eqPut (s : State) (p : Nat) (e : EvRec) : State :=
  let q := s.eq p
  let n := ringLen (s.fld (Reg.HST_EQ_CFG p) 3 0)
  let s1 := s.hostWrite (s.reg64 (Reg.HST_EQ_BASE p) + 32 * q.tail) (e.bytes q.phase)
  let t := (q.tail + 1) % n
  (s1.setEq p { q with tail := t, phase := if t = 0 then !q.phase else q.phase }).msix p 0

/-- Whether a port's event queue is full. -/
def State.eqFull (s : State) (p : Nat) : Bool := ringFull (s.eq p).head (s.eq p).tail (ringLen (s.fld (Reg.HST_EQ_CFG p) 3 0))

/-- Delivers an event to one port's queue; it is lost when the queue is full (R454). -/
def State.deliver (s : State) (p : Nat) (e : EvRec) : State :=
  if !s.rbit (Reg.HST_EQ_CFG p) 31 then s
  else if s.eqFull p then s.setEq p { s.eq p with lost := satAdd (s.eq p).lost 1, lostNow := (s.eq p).lostNow + 1 }
  else s.eqPut p e

/-- Logs an event of enough severity while a token is available (R408). -/
def State.logEvent (s : State) (e : EvRec) : State :=
  if e.sev.toNat < s.fld Reg.NVS_LOG_CFG 1 0 then s
  else if s.ev.tokens = 0 then { s with ev := { s.ev with logDrop := satAdd s.ev.logDrop 1 } }
  else { s with ev := { s.ev with tokens := s.ev.tokens - 1, logq := s.ev.logq ++ [e] } }

/-- An event record goes to the queue of each port and to the event log (R454, R408). -/
def State.raiseRaw (s : State) (e : EvRec) : State :=
  let s1 := { s with ev := { s.ev with log := e :: s.ev.log } }
  ((s1.deliver 0 e).deliver 1 e).logEvent e

/-- The record of an event raised now. -/
def State.mkEvent (s : State) (code sev src cntix stream seq pay : Nat) : EvRec :=
  ⟨BitVec.ofNat 4 cntix, BitVec.ofNat 16 code, BitVec.ofNat 2 sev, BitVec.ofNat 8 stream, BitVec.ofNat 12 src, BitVec.ofNat 32 seq,
    (s.cnt.at cntix).truncate 48, leBytes 16 pay⟩

/-- Event 0x0A01, as every event, before the next record of a queue that has lost some and has room again (R454, R463). -/
def State.lossRec (s : State) (p : Nat) : State :=
  if s.rbit (Reg.HST_EQ_CFG p) 31 && (s.eq p).lostNow != 0 && !s.eqFull p then
    (s.setEq p { s.eq p with lostNow := 0 }).raiseRaw (s.mkEvent 0x0A01 1 (0x800 + p) 1 0xFF 0 (p + 2 ^ 32 * (s.eq p).lostNow))
  else s

/-- Raises an event record, after what the queues have to report of records lost (R454). -/
def State.raiseRec (s : State) (e : EvRec) : State := ((s.lossRec 0).lossRec 1).raiseRaw e

/-- Raises an event without a stream: code, severity, source, payload as a little-endian number. -/
def State.raise (s : State) (code sev src pay : Nat) : State :=
  s.raiseRec (s.mkEvent code sev src (srcCount src) 0xFF 0 pay)

/-- Raises an event of a stream and sequence number. -/
def State.raiseStream (s : State) (code sev src stream seq pay : Nat) : State :=
  s.raiseRec (s.mkEvent code sev src (srcCount src) stream seq pay)

/-- Raises an event of an intake port, with that port's count (Table HST-10). -/
def State.raiseIntake (s : State) (code sev port stream pay : Nat) : State :=
  s.raiseRec (s.mkEvent code sev 0x100 (2 + port) stream 0 pay)

/-- Raises an event if `b`. -/
def State.raiseIf (s : State) (b : Bool) (code sev src pay : Nat) : State := if b then s.raise code sev src pay else s

/-- Raises an event at most once until its key is re-armed. -/
def State.raiseOnce (s : State) (key code sev src pay : Nat) : State :=
  if Tab.getD s.ev.once key false then s
  else let s1 := s.raise code sev src pay
       { s1 with ev := { s1.ev with once := Tab.setD s1.ev.once key false true } }

/-- Re-arms an event raised once. -/
def State.rearm (s : State) (key : Nat) : State := { s with ev := { s.ev with once := Tab.setD s.ev.once key false false } }

/-- Sets a TST_HEALTH bit; a bit that goes from 0 to 1 raises event 0x0D08 (R304). -/
def State.health (s : State) (b : Nat) : State :=
  if s.rbit Reg.TST_HEALTH b then s
  else let s1 := s.orReg Reg.TST_HEALTH (2 ^ b)
       s1.raise 0x0D08 1 0x100 (s1.reg Reg.TST_HEALTH).toNat

/-- Raises an event once and sets a health bit with it. -/
def State.raiseOnceHealth (s : State) (key code sev src pay b : Nat) : State :=
  if Tab.getD s.ev.once key false then s else (s.raiseOnce key code sev src pay).health b

/-! ## Requesters -/

/-- Whether an access to BAR0 is a naturally aligned 32-bit word (R5). -/
def barAligned (a : BarAddr) : Bool := a.word && a.off.toNat % 4 == 0

/-- The index of a requester (R6). -/
def whoIx : Who → Nat
  | .portA => 0 | .portB => 1 | .fw n => 2 + n.val | .sec => 6

/-- The port of a host requester. -/
def whoPort : Who → Option Nat
  | .portA => some 0 | .portB => some 1 | _ => none

/-- Records a host-port error: its HST_ERR bit and HST_ERR_CNT (R448, Table HST-14). -/
def State.hstErr (s : State) (p b : Nat) : State := (s.orReg (Reg.HST_ERR p) (2 ^ b)).incReg (Reg.HST_ERR_CNT p) 1

/-- A refused access or doorbell: HST_ERR and event 0x0A03 (R448, R451). -/
def State.hstRefuse (s : State) (p b off : Nat) : State :=
  (s.hstErr p b).raise 0x0A03 1 (0x800 + p) (p + 256 * b + 2 ^ 32 * off)

/-- Whether port B may write an offset: its event queue registers, stream vectors and MSI-X table (R445). -/
def portBOwn (a : Nat) : Bool :=
  (decide (0x00400810 ≤ a) && decide (a < 0x00400828)) || (decide (0x00400900 ≤ a) && decide (a < 0x00400A00))
    || (decide (0x00405000 ≤ a) && decide (a < 0x00406000))

/-- A discarded write of port B: HST_WDROP, which each port has, counts it, and event 0x0A06 is raised at most once in any 1 s (R445, R462; log
entry 153). -/
def State.wdrop (s : State) : State :=
  let s1 := (s.incReg (Reg.HST_WDROP 0) 1).incReg (Reg.HST_WDROP 1) 1
  let due := match s.host.wdropAt with
    | none => true
    | some t => decide ((s.cnt.aon - t).toNat ≥ 1000000)
  if due then
    { (s1.raise 0x0A06 0 0x801 (2 ^ 32 * (s1.reg (Reg.HST_WDROP 0)).toNat)) with host := { s1.host with wdropAt := some s.cnt.aon } }
  else s1

/-- Whether a host port reaches an offset: the domain runs; in recovery mode the SEC block is not offered (R458). -/
def State.reach (s : State) (a : Nat) : Bool :=
  s.up (domOfAddr a) && !(s.rst.stage == .recovery && domOfAddr a == 1)

/-- The part of GLB of which HST holds a copy: GLB_ID, GLB_STAT, GLB_CAP_PTR and the capability list (R455). -/
def glbCopy (a : Nat) : Bool := a == 0 || a == 4 || a == 0x10 || (decide (0x100 ≤ a) && decide (a < 0x1C0))

/-- Whether a host port's read reaches an offset: as an access does, and the copy in HST whenever FAB is not in RUN (R447, R455, R458). -/
def State.readReach (s : State) (a : Nat) : Bool := s.reach a || (!s.up 4 && glbCopy a)

/-- A register write by a requester (R421, R445, Table HST-5): `f` when the write takes effect; a host port reaches nothing while HST does not
run. -/
def State.access (s : State) (who : Who) (a : Nat) (f : State → State) : State :=
  match whoPort who with
  | none => if s.up (domOfAddr a) then f s else s
  | some p =>
    if !s.up 6 || s.rbit (Reg.HST_PSTAT p) 10 then s
    else if !s.reach a then s.hstRefuse p 0 a
    else if p = 1 ∧ !portBOwn a then s.wdrop
    else f s

/-- A requester's held word and latch. -/
def State.reqSt (s : State) (who : Who) : ReqSt := Tab.getD s.req (whoIx who) ⟨none, none⟩

/-- Replaces a requester's held word and latch. -/
def State.setReq (s : State) (who : Who) (r : ReqSt) : State :=
  { s with req := Tab.setD s.req (whoIx who) ⟨none, none⟩ r }

/-- A write of the lower word of a 64-bit register: held for this requester (R6). -/
def State.holdLower (s : State) (who : Who) (a : Nat) (v : W32) : State :=
  s.setReq who { s.reqSt who with held := some (a, v) }

/-- The lower word that a write of the upper word takes: the held one, or the register's current one when none is held (log entry 15). -/
def State.heldOr (s : State) (who : Who) (lo : Nat) (cur : W32) : W32 :=
  match (s.reqSt who).held with
  | some (a, v) => if a = lo then v else cur
  | none => cur

/-- The lower word that a write of the upper word of a stored register takes. -/
def State.takeLower (s : State) (who : Who) (lo : Nat) : W32 := s.heldOr who lo (s.reg lo)

/-- The held word of that register is spent. -/
def State.dropHeld (s : State) (who : Who) (lo : Nat) : State :=
  match (s.reqSt who).held with
  | some (a, _) => if a = lo then s.setReq who { s.reqSt who with held := none } else s
  | none => s

/-- A write of an upper word ends the hold of its lower word for the requester, whether or not it takes effect (R6). -/
def State.endHeld (s : State) (who : Who) (a : Nat) : State :=
  match regRow a with
  | some r => if r.wide = 2 then s.dropHeld who (a - 4) else s
  | none => s

/-- A 64-bit register written whole, lower word first: the requester holds no lower word after it (R6). -/
def State.spendHeld (s : State) (who : Who) : State := s.setReq who { s.reqSt who with held := none }

/-- A register's value after a write under its access masks (Table SCO-2). -/
def maskWrite (r : RegRow) (lock : Bool) (cur v : W32) : W32 :=
  let rw := BitVec.ofNat 32 r.rw ||| (if lock then 0 else BitVec.ofNat 32 r.rwl)
  let w1c := BitVec.ofNat 32 r.w1c
  ((v &&& rw) ||| (cur &&& ~~~rw)) &&& ~~~(v &&& w1c)

/-- Writes one register word under its access masks; nothing where no register stands (R7, R8). -/
def State.putMasked (s : State) (a : Nat) (v : W32) : State :=
  match regRow a with
  | none => s
  | some r => s.setReg a (maskWrite r s.sec.lock (s.reg a) v)

/-- A write of a register word by a requester: a lower word is held, an upper word writes both words (R6). -/
def State.writeWord (s : State) (who : Who) (a : Nat) (v : W32) : State :=
  match regRow a with
  | none => s
  | some r =>
    if r.wide = 1 then s.holdLower who a v
    else if r.wide = 2 then
      ((s.putMasked (a - 4) (s.takeLower who (a - 4))).putMasked a v).dropHeld who (a - 4)
    else s.putMasked a v

/-- Microseconds of the AON count from a past value to now. -/
def State.since (s : State) (t : W64) : Nat := (s.cnt.aon - t).toNat

/-- Sets a domain's state, with the time of the change. -/
def State.setDom (s : State) (d : Nat) (x : DomSt) : State :=
  { s with rst := { s.rst with dom := Tab.setD s.rst.dom d .down x, domAt := Tab.setD s.rst.domAt d 0 s.cnt.aon } }

/-- Microseconds since a domain's last change. -/
def State.domSince (s : State) (d : Nat) : Nat := s.since (Tab.getD s.rst.domAt d 0)

/-- A command whose precondition does not hold in the state changes nothing (log entry 2). -/
def State.when (s : State) (b : Bool) (t : State) : State := if b then t else s

end Sys2Proof.Machine
end

