-- ==== Sys2Proof/Machine/Operands.lean ====
section
/-!
DEFINITION. Operand forms: the memory spaces with their ECC rules (R250 to R258), tensor descriptors (R227 to R229), and the fields of
an instruction word (R221).
-/
namespace Sys2Proof.Machine

/-! ## Spaces -/

/-- The memory of a space: 0 tank, 1 core buffers, 2 DRAM. -/
def State.memOf (s : State) (sp : Nat) : Mem := if sp = 0 then s.mem.tank else if sp = 1 then s.mem.cbuf else s.mem.dram

/-- Replaces the memory of a space. -/
def State.setMem (s : State) (sp : Nat) (m : Mem) : State :=
  { s with mem := if sp = 0 then { s.mem with tank := m } else if sp = 1 then { s.mem with cbuf := m } else { s.mem with dram := m } }

/-- Bytes of DRAM fitted (R257, TNK_DRAM_SIZE). -/
def State.dramBytes (s : State) : Nat :=
  if !s.trimmed then 0 else
  match s.fus.dramSize.toNat with
  | 0 => 0 | 1 => 2 ^ 33 | 2 => 2 ^ 34 | 3 => 2 ^ 35 | 4 => 2 ^ 36 | _ => 0

/-- The size of a space as a context sees it (R229). -/
def State.spSize (s : State) (sp : Nat) : Nat := if sp = 0 then 2 ^ 27 else if sp = 1 then 2 ^ 21 else s.dramBytes

/-- The key of a space's byte for a core: its own buffer in space 1. -/
def spAddr (core sp a : Nat) : Nat := if sp = 1 then core * 2 ^ 21 + a else a

/-- Whether a space's domain runs: the core, FAB or DRAM (R421). -/
def State.spUp (s : State) (core sp : Nat) : Bool := if sp = 0 then s.up 4 else if sp = 1 then s.coreUp core else s.up 5

/-- TNK_ECC_CNT counts corrected errors, with event 0x0D82 at its threshold (R253, R278). -/
def State.eccCount (s : State) (n : Nat) : State :=
  if n = 0 then s else
  let s1 := s.incReg Reg.TNK_ECC_CNT n
  let c := (s1.reg Reg.TNK_ECC_CNT).toNat
  let t := (s1.reg Reg.TNK_ECC_THR).toNat
  if t ≠ 0 ∧ c ≥ t then s1.raiseOnceHealth 0x0D82 0x0D82 1 0x100 c 2 else s1

/-- One uncorrectable group met: TNK_ERR, TNK_UNC_ADDR and the event of its space; `kind` is 0 read, 1 partial write, 2 scrub (R253,
R254, R256, R257). -/
def State.eccUnc (s : State) (sp g port kind : Nat) : State :=
  let a := 8 * g
  let core := if sp = 1 then a / 2 ^ 21 else 0
  let off := if sp = 1 then a % 2 ^ 21 else a
  let s1 := (s.orReg Reg.TNK_ERR (if kind = 1 then 2 else 1)).setReg64 Reg.TNK_UNC_ADDR (off + sp * 2 ^ 48 + core * 2 ^ 50)
  if sp = 0 then s1.raise 0x0D80 2 0x100 (off + port * 2 ^ 64 + kind * 2 ^ 72)
  else if sp = 1 then s1.raise 0x0D81 2 0x100 (core + off * 2 ^ 32)
  else s1.raise 0x0D83 2 0x100 off

/-- The correctable groups of the lines in which a condition meets a correctable group: each such line is written back corrected (R253). -/
def corrGroups (m : Mem) (hit : Nat × Bool → Bool) : List Nat :=
  let lines := (m.ecc.filter (fun e => !e.2 && hit e)).map (fun e => e.1 / 8)
  (m.ecc.filter (fun e => !e.2 && lines.contains (e.1 / 8))).map (fun e => e.1)

/-- Corrects the lines in which a condition meets a correctable group; each group corrected counts once (R253; log entry 128). -/
def State.correct (s : State) (sp : Nat) (hit : Nat × Bool → Bool) : State :=
  let m := s.memOf sp
  let gs := corrGroups m hit
  (s.setMem sp { m with ecc := m.ecc.filter (fun e => e.2 || !gs.contains e.1) }).eccCount gs.length

/-- The effects of reading a range: lines with a correctable error are counted and corrected, uncorrectable groups reported (R253). -/
def State.readFx (s : State) (sp a n port kind : Nat) : State :=
  let hit := fun (e : Nat × Bool) => overlap (8 * e.1) 8 a n
  ((s.memOf sp).ecc.filter (fun e => e.2 && hit e)).foldl (fun t e => t.eccUnc sp e.1 port kind) (s.correct sp hit)

/-- Whether a range holds an uncorrectable group. -/
def State.bad (s : State) (sp a n : Nat) : Bool := (s.memOf sp).unc a n

/-- Whether a write of a range covers a group only in part, and so reads it first (R254). -/
def partOf (a n g : Nat) : Bool := overlap (8 * g) 8 a n && !(decide (a ≤ 8 * g) && decide (8 * g + 8 ≤ a + n))

/-- The uncorrectable groups that a write of a range covers only in part (R254). -/
def partBad (m : Mem) (a n : Nat) : List Nat := (m.ecc.filter (fun e => e.2 && partOf a n e.1)).map (fun e => e.1)

/-- Writes bytes but those whose group is in `skip`. -/
def cellsWriteSkip (skip : List Nat) : Tab Byte → Nat → List Byte → Tab Byte
  | t, _, [] => t
  | t, a, b :: r => cellsWriteSkip skip (if skip.contains (a / 8) then t else Tab.setD t a 0 b) (a + 1) r

/-- A write of a range of a space: the groups it covers in part are read first, with their corrections; the uncorrectable ones among them keep their
bytes, every other group becomes good (R253, R254). -/
def State.writeFx (s0 : State) (sp a : Nat) (bs : List Byte) (port : Nat) : State :=
  let n := bs.length
  let s := s0.correct sp (fun e => partOf a n e.1)
  let m := s.memOf sp
  let skip := partBad m a n
  let m1 : Mem := ⟨cellsWriteSkip skip m.cells a bs, m.ecc.filter (fun e => skip.contains e.1 || !overlap (8 * e.1) 8 a n)⟩
  skip.foldl (fun t g => t.eccUnc sp g port 1) (s.setMem sp m1)

/-- Whether a write of a range meets an uncorrectable group that it covers in part. -/
def State.partBadAt (s : State) (sp a n : Nat) : Bool := !(partBad (s.memOf sp) a n).isEmpty

/-- Bytes of a space. -/
def State.bytes (s : State) (sp a n : Nat) : List Byte := (s.memOf sp).read a n

/-- The little-endian number in n bytes of a space. -/
def State.num (s : State) (sp a n : Nat) : Nat := (s.memOf sp).readN a n

/-- Writes tank bytes below the end of the tank; what lies beyond is discarded. -/
def State.tankPut (s : State) (a : Nat) (bs : List Byte) (port : Nat) : State := s.writeFx 0 a (bs.take (2 ^ 27 - a)) port

/-- Whether two ranges overlap. -/
def Rng.hits (x y : Rng) : Bool := x.sp == y.sp && overlap x.lo x.len y.lo y.len

/-- Whether two lists of ranges overlap. -/
def rngsHit (x y : List Rng) : Bool := x.any (fun a => y.any (fun b => a.hits b))

/-! ## The instruction word (Tables INS-2 and INS-3) -/

/-- Bits [hi:lo] of an instruction. -/
abbrev fw (w : BitVec 56) (hi lo : Nat) : Nat := bits w hi lo

/-- The guard of an instruction (R222): true when it executes. -/
def guardOn (w : BitVec 56) (p : BitVec 8) : Bool := !(bit w 55) || (bit p (fw w 53 51) != bit w 54)

/-- RD of formats A and M, RL of format B. -/
def fRD (w : BitVec 56) : Nat := fw w 50 46
/-- RA of formats A, M and B. -/
def fRA (w : BitVec 56) : Nat := fw w 45 41
/-- RB of format A. -/
def fRB (w : BitVec 56) : Nat := fw w 40 36
/-- I of format A. -/
def fI (w : BitVec 56) : Bool := bit w 35
/-- FN of format A. -/
def fFN (w : BitVec 56) : Nat := fw w 34 32
/-- IMM, or OFF of format B. -/
def fIMM (w : BitVec 56) : Nat := fw w 31 0

/-- A number's low 32 bits sign-extended to 64 (R221). -/
def sext32 (v : Nat) : W64 := (BitVec.ofNat 32 v).signExtend 64

/-! ## Tensor descriptors -/

/-- A descriptor's fields (Table INS-5). -/
structure Desc where
  base : Nat
  fmt : Nat
  sp : Nat
  resv : Bool
  dim0 : Nat
  dim1 : Nat
  dim2 : Nat
  dim3 : Nat
  st1 : Nat
  st2 : Nat
  st3 : Nat
  bsp : Nat
deriving DecidableEq, Repr

/-- Decodes a descriptor register. -/
def descOf (d : BitVec 256) : Desc :=
  ⟨bits d 47 0, bits d 51 48, bits d 53 52, bits d 63 54 != 0, bits d 79 64, bits d 95 80, bits d 111 96, bits d 127 112,
    bits d 159 128, bits d 191 160, bits d 223 192, bits d 255 224⟩

/-- Bits of an element (Table FMT-1). -/
def fmtBits (f : Nat) : Nat := if f = 0 then 4 else if f = 3 ∨ f = 6 then 16 else if f = 7 then 32 else 8

/-- Bytes of an element, 1 for INT4 (R228). -/
def fmtBytes (f : Nat) : Nat := if f = 3 ∨ f = 6 then 2 else if f = 7 then 4 else 1

/-- Whether a format is floating-point. -/
def fmtFloat (f : Nat) : Bool := decide (4 ≤ f) && decide (f ≤ 7)

/-- Bytes of a row (R19). -/
def Desc.rowBytes (d : Desc) : Nat := (d.dim0 * fmtBits d.fmt + 7) / 8

/-- The bytes of a row as they read: the unused upper nibble of an odd INT4 row is 0 (R19). -/
def Desc.unpad (d : Desc) (bs : List Byte) : List Byte :=
  if d.fmt = 0 ∧ d.dim0 % 2 = 1 then bs.dropLast ++ (bs.getLast?.map (fun b => b &&& 0x0F)).toList else bs

/-- Blocks of a row (R27). -/
def Desc.blocks (d : Desc) : Nat := (d.dim0 + 31) / 32

/-- Byte of row (i1, i2, i3) (R228). -/
def Desc.rowAt (d : Desc) (i1 i2 i3 : Nat) : Nat := d.base + i1 * d.st1 + i2 * d.st2 + i3 * d.st3

/-- Bytes that the elements span from BASE. -/
def Desc.span (d : Desc) : Nat := (d.dim1 - 1) * d.st1 + (d.dim2 - 1) * d.st2 + (d.dim3 - 1) * d.st3 + d.rowBytes

/-- Bytes of the block-scale table (R31). -/
def Desc.tabBytes (d : Desc) : Nat := 2 * (d.dim3 * d.dim2 * d.dim1 * d.blocks)

/-- The operand-format conditions of R228 and R229. -/
def Desc.formatBad (d : Desc) : Bool :=
  decide (d.fmt ≥ 8) || d.sp == 3 || d.resv || d.dim0 == 0 || d.dim1 == 0 || d.dim2 == 0 || d.dim3 == 0
    || d.base % fmtBytes d.fmt != 0 || d.st1 % fmtBytes d.fmt != 0 || d.st2 % fmtBytes d.fmt != 0 || d.st3 % fmtBytes d.fmt != 0
    || (d.bsp != 0 && fmtFloat d.fmt)

/-- The address conditions of R229 for all elements and the block-scale table. -/
def Desc.addressBad (d : Desc) (s : State) : Bool :=
  decide (d.base + d.span > s.spSize d.sp)
    || (d.bsp != 0 && decide (16 * d.bsp + d.tabBytes > s.spSize d.sp))

/-- A tensor of which the elements alone are read, and no block-scale entry (R229, R240). -/
def Desc.plain (d : Desc) : Desc := { d with bsp := 0 }

/-- Whether DRAM is named and none is fitted. -/
def Desc.noDram (d : Desc) (s : State) : Bool := d.sp == 2 && s.dramBytes == 0

/-- The ranges of a descriptor for a core: its elements, and its block-scale table when it has one (R269). -/
def Desc.rngs (d : Desc) (core : Nat) : List Rng :=
  ⟨d.sp, spAddr core d.sp d.base, d.span⟩ ::
    (if d.bsp = 0 then [] else [⟨d.sp, spAddr core d.sp (16 * d.bsp), d.tabBytes⟩])

/-- The rows of a tensor in order: (i1, i2, i3). -/
def Desc.rows (d : Desc) : List (Nat × Nat × Nat) :=
  (List.range d.dim3).flatMap (fun i3 => (List.range d.dim2).flatMap (fun i2 => (List.range d.dim1).map (fun i1 => (i1, i2, i3))))

/-- The raw bits of element i0 of a row that starts at a byte (R19, R228). -/
def rawAt (m : Mem) (fmt row i0 : Nat) : Nat :=
  if fmt = 0 then nbits (m.byte (row + i0 / 2)).toNat (4 * (i0 % 2) + 3) (4 * (i0 % 2))
  else m.readN (row + i0 * fmtBytes fmt) (fmtBytes fmt)

/-- Bytes of a row of raw elements: INT4 packed two to a byte, the unused nibble 0 (R19). -/
def packRow (fmt : Nat) : List Nat → List Byte
  | [] => []
  | [x] => leBytes (fmtBytes fmt) x
  | x :: y :: r => if fmt = 0 then BitVec.ofNat 8 (x % 16 + 16 * (y % 16)) :: packRow fmt r
    else leBytes (fmtBytes fmt) x ++ leBytes (fmtBytes fmt) y ++ packRow fmt r

end Sys2Proof.Machine
end

