-- ==== Sys2Proof/Machine/Gate.lean ====
section
/-!
DEFINITION. Streams and the release gate (R198 to R209, R266, R267, R290, R292), the frames a port sends (R313, R314), and with an arrival the
pair's mirror records and lockstep keys (R334, R336, R337).
-/
namespace Sys2Proof.Machine

/-- A stream. -/
def State.strm (s : State) (st : Nat) : Strm := Tab.getD s.strms st .empty

/-- Replaces a stream. -/
def State.setStrm (s : State) (st : Nat) (x : Strm) : State := { s with strms := Tab.setD s.strms st .empty x }

/-- Whether a stream is bound (SEQ_STRM_CFG.EN). -/
def State.bound (s : State) (st : Nat) : Bool := s.rbit (Reg.SEQ_STRM_CFG st) 0

/-- The home context of a stream as core * 4 + context. -/
def State.home (s : State) (st : Nat) : Nat := s.fld (Reg.SEQ_STRM_CFG st) 5 1 * 4 + s.fld (Reg.SEQ_STRM_CFG st) 7 6

/-- Taken unresolved results allowed: 1 to 15, 0 acts as 16. -/
def State.win (s : State) (st : Nat) : Nat := let n := s.fld (Reg.SEQ_STRM_CFG st) 11 8; if n = 0 then 16 else n

/-- SEQ_STRM_NEXT. -/
def State.next (s : State) (st : Nat) : W32 := s.reg (Reg.SEQ_STRM_NEXT st)

/-- SEQ_STRM_HEAD: the lowest unresolved number, NEXT when none is unresolved. -/
def State.head (s : State) (st : Nat) : W32 := match (s.strm st).seqs with
  | [] => s.next st
  | r :: _ => r.seq

/-- Whether a number has been assigned: NEXT follows it (R14, R199). -/
def State.assigned (s : State) (st : Nat) (n : W32) : Bool := follows (s.next st) n

/-- Entries of a ring of LOG2N n: 0 acts as 1, above 8 as 8 (Table TNK-9). -/
def ringEntries (n : Nat) : Nat := 2 ^ (max 1 (min 8 n))

/-- Bytes of a ring entry of ESZ n: 0 acts as 1. -/
def ringEntry (n : Nat) : Nat := 64 * (max 1 n)

/-- Tank offset of output ring entry n (R266). -/
def State.outEntry (s : State) (st : Nat) (n : W32) : Nat :=
  64 * s.fld (Reg.INT_OUT_BASE st) 20 0
    + (n.toNat % ringEntries (s.fld (Reg.INT_OUT_GEOM st) 19 16)) * ringEntry (s.fld (Reg.INT_OUT_GEOM st) 15 0)

/-- Whether output ring entry n is free (R267). -/
def State.outFree (s : State) (st : Nat) (n : W32) : Bool :=
  decide ((n - s.reg (Reg.INT_OUT_TAIL st)).toNat < ringEntries (s.fld (Reg.INT_OUT_GEOM st) 19 16))

/-- Tank offset of input ring entry n (R264). -/
def State.inEntry (s : State) (st : Nat) (n : W32) : Nat :=
  64 * s.fld (Reg.INT_RING_BASE st) 20 0
    + (n.toNat % ringEntries (s.fld (Reg.INT_RING_GEOM st) 19 16)) * ringEntry (s.fld (Reg.INT_RING_GEOM st) 15 0)

/-- Data bytes that an input ring entry holds. -/
def State.inRoom (s : State) (st : Nat) : Nat := ringEntry (s.fld (Reg.INT_RING_GEOM st) 15 0) - 64

/-! ## Frames sent -/

/-- A herd link port. -/
def State.port (s : State) (p : Nat) : LinkPort := Tab.getD s.link.ports p .idle

/-- Replaces a port. -/
def State.setPort (s : State) (p : Nat) (x : LinkPort) : State := { s with link := { s.link with ports := Tab.setD s.link.ports p .idle x } }

/-- STATE of a port (Table HRD-8). -/
def State.portSt (s : State) (p : Nat) : Nat := s.fld (Reg.HLK_PSTAT p) 2 0

/-- Whether a port carries frames. -/
def State.portUp (s : State) (p : Nat) : Bool := s.up 7 && s.portSt p == 2

/-- Frames of 236 payload bytes that data of a length needs with what else they carry. -/
def frameRun (n : Nat) : Nat := max 1 ((n + 235) / 236)

/-- Bytes of a pair message that may need more than one frame: a checkpoint, a ring entry, a result copy. -/
def PairMsg.long : PairMsg → Option Nat
  | .mirror ⟨_, .checkpoint _ area⟩ => some area.length
  | .mirror ⟨_, .resolution _ _ entry⟩ => some entry.length
  | .copy _ _ data => some data.length
  | _ => none

/-- Frames of a pair message (R313; log entry 76). -/
def PairMsg.frames (m : PairMsg) : Nat := match m.long with
  | some n => frameRun (n + Config.pairOver)
  | none => 1

/-- Frames of a chunk with n bytes of payload: source, CID, index and SEQ in the first and the digest in the last (R313, R326). -/
def chunkRun (n : Nat) : Nat := frameRun (n + 20 + Config.chunkOver)

/-- Frames in which something crosses a port (R313). -/
def Wire.frames : Wire → Nat
  | .chunk f => chunkRun f.payload.length
  | .pair m => m.frames
  | _ => 1

/-- Puts something on a port, as the model's record of what left. -/
def State.emit (s : State) (p : Nat) (w : Wire) : State := { s with link := { s.link with out := (p, w) :: s.link.out } }

/-- Sends a run of frames on a port that is UP: they take the next LSEQs and stay in the replay buffer until they are acknowledged (R313, R314). -/
def State.portSend (s : State) (p : Nat) (w : Wire) : State :=
  if s.portUp p then
    let x := s.port p
    (s.setPort p { x with tx := x.tx + BitVec.ofNat 32 w.frames, buf := x.buf ++ [⟨x.tx, w.frames, s.cnt.hlk, 0, w⟩] }).emit p w
  else s

/-- A run of n intact frames arrives in LSEQ order: the port acknowledges them (R314). -/
def State.portTake (s : State) (p n : Nat) : State :=
  let x := s.port p
  (s.setPort p { x with rx := x.rx + BitVec.ofNat 32 n }).emit p (.linkAck (x.rx + BitVec.ofNat 32 n - 1))

/-- What an intact run of n frames on a port that is UP does: it is acknowledged, and acts when a condition holds. -/
def State.onFrames (s : State) (p n : Nat) (ok : Bool) (f : State → State) : State :=
  s.when (s.portUp p) (let t := s.portTake p n; t.when ok (f t))

/-- Sends a frame to the peer over HL7. -/
def State.toPeer (s : State) (m : PairMsg) : State := s.portSend 7 (.pair m)

/-! ## The mirror -/

/-- Whether this device is the standby of a MIRROR pair, which binds no stream and runs no context (R334; log entry 130). -/
def State.mirStandby (s : State) : Bool := s.rbit Reg.HLK_PAIR_CFG 0 && !s.rbit Reg.HLK_PAIR_CFG 1 && s.pair.st == 3

/-- Whether this device sends mirror records: MIRROR, PRIMARY, and PEER_OK or a resynchronisation (R334, R335). -/
def State.mirroring (s : State) : Bool :=
  s.rbit Reg.HLK_PAIR_CFG 0 && !s.rbit Reg.HLK_PAIR_CFG 1 && s.pair.st == 2 && (s.pair.peerOk || s.pair.resync.isSome)

/-- Sends a mirror record with the next number (R334). -/
def State.mirrorSend (s : State) (b : MirrorBody) : State :=
  if s.mirroring then
    let n := s.pair.sent + 1
    { s with pair := { s.pair with sent := n } }.toPeer (.mirror ⟨n, b⟩)
  else s

/-- The stream id of a number below 64. -/
def strmId (st : Nat) : StreamId := ⟨st % 64, Nat.mod_lt _ (by decide)⟩

/-- Mirrors a stream's configuration, NEXT and HEAD (R334). -/
def State.mirrorConfig (s : State) (st : Nat) : State :=
  s.mirrorSend (.config (strmId st) (s.reg (Reg.SEQ_STRM_CFG st)) (s.next st) (s.head st))

/-! ## Resolution -/

/-- The 32-byte header of a released result (R266). -/
def releaseHeader (n : W32) (len : Nat) : List Byte := leBytes 4 n.toNat ++ leBytes 4 0 ++ leBytes 4 len ++ leBytes 20 0

/-- The 32-byte header of a gap record (R266, Table DEP-3). -/
def gapHeader (r : SeqSt) (cause late : Nat) (g : W64) : List Byte :=
  leBytes 4 r.seq.toNat ++ leBytes 4 1 ++ leBytes 8 0
    ++ leBytes 1 cause ++ leBytes 1 (b2n r.poison + 2 * b2n r.taken) ++ leBytes 2 late ++ leBytes 4 0 ++ leBytes 8 g.toNat

/-- How the lowest unresolved number resolves, if it does: header, gap, data length (R202, R203). A poison mark wins over acceptance. -/
def resolveOf (s : State) (r : SeqSt) : Option (List Byte × Bool × Nat) :=
  match r.st with
  | .opened => none
  | .accepted len => if r.poison then some (gapHeader r 2 0 s.cnt.gate, true, 0) else some (releaseHeader r.seq len, false, len)
  | .closed cause late g => some (gapHeader r cause late g, true, 0)

/-- Sends stream vector s of each port whose SVEC is enabled; a VEC below 8 acts as 8 (R456). -/
def State.streamVec (s : State) (st : Nat) : State :=
  [0, 1].foldl (fun t p => if t.rbit (Reg.HST_SVEC p st) 31 then t.msix p (max 8 (t.fld (Reg.HST_SVEC p st) 5 0)) else t) s

/-- Writes waiting headers in order, each once the peer has acknowledged it and its entry is free (R266, R267, R334). -/
def writeOut (st : Nat) : List OutRec → State → State
  | [], s => s.setStrm st { s.strm st with outq := [] }
  | r :: rest, s =>
    if r.mirror.isSome || !s.outFree st r.seq then s.setStrm st { s.strm st with outq := r :: rest }
    else writeOut st rest ((s.tankPut (s.outEntry st r.seq) r.header 0).streamVec st)

/-- A list of numbers that holds n exactly when `b` says so. -/
def noted (l : List W32) (b : Bool) (n : W32) : List W32 :=
  let r := l.filter (fun m => m != n)
  if b then n :: r else r

/-- The tank port of the pair's link, HL7 (Table TNK-1; log entry 129). -/
def pairPort : Nat := 72

/-- Resolves the leading numbers of a stream in ascending order (R207). A mirroring primary reads the entry's data for its record (R253, R334). -/
def flushSeqs (st : Nat) : List SeqSt → State → State
  | [], s => s.setStrm st { s.strm st with seqs := [] }
  | r :: rest, s =>
    match resolveOf s r with
    | none => s.setStrm st { s.strm st with seqs := r :: rest }
    | some (h, gap, len) =>
      let entry := h ++ s.bytes 0 (s.outEntry st r.seq + 32) len
      let s0 := if s.mirroring then s.readFx 0 (s.outEntry st r.seq + 32) len pairPort 0 else s
      let s1 := s0.mirrorSend (.resolution (strmId st) r.seq entry)
      let o : OutRec := ⟨r.seq, h, gap, if s.mirroring && s.pair.peerOk then some s1.pair.sent else none⟩
      let s2 := s1.setStrm st { s1.strm st with outq := (s1.strm st).outq ++ [o], marked := noted (s1.strm st).marked r.poison r.seq, took := noted (s1.strm st).took r.taken r.seq }
      flushSeqs st rest (if gap then s2.incReg (Reg.SEQ_STRM_GAPS st) 1 else s2.incWrap (Reg.SEQ_STRM_RELS st) 1)

/-- Resolves and writes what can be resolved and written of a stream. -/
def State.flush (s : State) (st : Nat) : State :=
  let s1 := flushSeqs st (s.strm st).seqs s
  writeOut st (s1.strm st).outq s1

/-- Changes one unresolved number of a stream. -/
def State.mapSeq (s : State) (st : Nat) (n : W32) (f : SeqSt → SeqSt) : State :=
  s.setStrm st { s.strm st with seqs := (s.strm st).seqs.map (fun r => if r.seq = n then f r else r) }

/-- An unresolved number of a stream. -/
def State.seqOf (s : State) (st : Nat) (n : W32) : Option SeqSt := (s.strm st).seqs.find? (fun r => r.seq == n)

/-- Whether a result is marked poisoned (R201). -/
def State.marked (s : State) (st : Nat) (n : W32) : Bool := match s.seqOf st n with
  | some r => r.poison
  | none => (s.strm st).marked.contains n

/-- Whether a number has been taken (R200). -/
def State.taken (s : State) (st : Nat) (n : W32) : Bool := match s.seqOf st n with
  | some r => r.taken
  | none => (s.strm st).took.contains n

/-- Marks a result poisoned: the mark cannot be removed, and an accepted result closes as a gap in its place (R201, R203). -/
def State.markPoison (s : State) (st : Nat) (n : W32) : State :=
  (s.mapSeq st n (fun r => { r with poison := true })).flush st

/-- µs from a deadline to closing, holding at 0xFFFF (Table DEP-3). -/
def lateUs (gate dl : W64) : Nat := min 0xFFFF ((gate.toNat - dl.toNat) / 100)

/-- Closes an open number as a gap: LATE counts for cause DEADLINE only (R203, R292). -/
def closeSeq (gate : W64) (cause : Nat) (r : SeqSt) : SeqSt :=
  match r.st with
  | .opened => { r with st := .closed cause (if cause = 1 then lateUs gate r.deadline else 0) gate }
  | _ => r

/-- Closes one number with a cause and resolves what follows. -/
def State.closeNum (s : State) (st : Nat) (n : W32) (cause : Nat) : State := (s.mapSeq st n (closeSeq s.cnt.gate cause)).flush st

/-- The deadline interval of a stream in 10 ns: values below 50 µs act as 50 (Table EXE-10). -/
def State.dlTicks (s : State) (st : Nat) : Nat := 100 * max 50 (s.fld (Reg.SEQ_STRM_DL st) 19 0)

/-- The deadline of an arrival now: the later of now plus DL and the previous arrival's deadline (R199). -/
def State.newDeadline (s : State) (st : Nat) : W64 :=
  let t := s.cnt.gate + BitVec.ofNat 64 (s.dlTicks st)
  match (s.strm st).lastDl with
  | none => t
  | some d => if d.toNat ≤ t.toNat then t else d

/-! ## Lockstep keys -/

/-- What lockstep keeps of a stream. -/
def State.lockOf (s : State) (st : Nat) : LockStrm := Tab.getD s.pair.lock st ⟨[], [], none, [], []⟩

/-- Replaces what lockstep keeps of a stream. -/
def State.setLock (s : State) (st : Nat) (x : LockStrm) : State :=
  { s with pair := { s.pair with lock := Tab.setD s.pair.lock st ⟨[], [], none, [], []⟩ x } }

/-- Whether the pair is enabled in LOCKSTEP-COMPARE. -/
def State.lockMode (s : State) : Bool := s.rbit Reg.HLK_PAIR_CFG 0 && s.rbit Reg.HLK_PAIR_CFG 1

/-- The data bytes of an arrival's ring entry: where they begin, and how many (R264). -/
def State.arrivalData (s : State) (st : Nat) (n : W32) : Nat × Nat :=
  let a := s.inEntry st n
  (a + 64, min (s.inRoom st) (s.num 0 (a + 8) 4))

/-- The key of an arrival: the CRC-64 of its ring entry's data (R336). -/
def State.arrivalKey (s : State) (st : Nat) (n : W32) : W64 :=
  let (a, k) := s.arrivalData st n
  BitVec.ofNat 64 (crc64 (s.bytes 0 a k))

/-- Two keys of one number differ: it is marked poisoned, with event 0x0507 (R336). -/
def keyDiffers (st : Nat) (n : W32) (s : State) : State :=
  (s.raiseStream 0x0507 2 0x300 st n.toNat (st + 256 + 2 ^ 32 * n.toNat)).markPoison st n

/-- Realigns a stream whose arrival n is the peer's number m: NEXT advances, the numbers passed over close with CAUSE 0x05 and the peer is told, n
and what the device numbered since are marked poisoned (R337). -/
def realign (st : Nat) (n m : W32) (s : State) : State :=
  let d := m - n
  let first := s.next st
  let skip := (List.range d.toNat).map (fun i => first + BitVec.ofNat 32 i)
  let x := s.strm st
  let old := x.seqs.map (fun r => if r.seq = n ∨ follows r.seq n then { r with poison := true } else r)
  let s1 := (s.setStrm st { x with seqs := old ++ skip.map (fun q => ⟨q, s.cnt.gate, false, false, .closed 5 0 s.cnt.gate⟩) }).setReg (Reg.SEQ_STRM_NEXT st) (first + d)
  let s2 := skip.foldl (fun t q => t.toPeer (.notice st q)) s1
  let s3 := (s2.setLock st { s2.lockOf st with floor := some (first + d) }).incReg Reg.HLK_LC_SKIP_CNT d.toNat
  (s3.raiseStream 0x0507 2 0x300 st first.toNat (st + 256 * 3 + 2 ^ 32 * first.toNat + 2 ^ 64 * d.toNat)).flush st

/-- Whether a match of own arrival n counts: n is not below NEXT as it stood at the last realignment (R337). -/
def matchOk (x : LockStrm) (n : W32) : Bool := match x.floor with
  | none => true
  | some f => !follows f n

/-- An own arrival in lockstep: its key goes to the peer, is compared with the peer's for the number, and may realign the stream (R336, R337). -/
def lockArrive (st : Nat) (n : W32) (s0 : State) : State :=
  let key := s0.arrivalKey st n
  let s := s0.readFx 0 (s0.inEntry st n) (64 + (s0.arrivalData st n).2) pairPort 0
  let x := s.lockOf st
  let s1 := (s.setLock st { x with own := ((n, key) :: x.own).take 16 }).toPeer (.key st n key)
  let s2 := if x.peer.any (fun e => e.1 == n && e.2 != key) then keyDiffers st n s1 else s1
  match x.peer.find? (fun e => follows e.1 n && e.2 == key) with
  | some e => if matchOk x n then realign st n e.1 s2 else s2
  | none => s2

/-- A peer's key: kept among the last 16, compared, and matched with own arrivals (R336, R337). -/
def peerKey (st : Nat) (seq : W32) (key : W64) (s : State) : State :=
  let x := s.lockOf st
  let s1 := s.setLock st { x with peer := ((seq, key) :: x.peer).take 16 }
  let s2 := if x.own.any (fun e => e.1 == seq && e.2 != key) then keyDiffers st seq s1 else s1
  match x.own.find? (fun e => follows seq e.1 && e.2 == key && matchOk x e.1) with
  | some e => realign st e.1 seq s2
  | none => s2

/-! ## Arrivals -/

/-- One arrival: the next sequence number and its deadline (R199). -/
def State.arrive (s : State) (st : Nat) : State :=
  let n := s.next st
  let d := s.newDeadline st
  let x := s.strm st
  let s1 := s.setStrm st { x with seqs := x.seqs ++ [⟨n, d, false, false, .opened⟩], lastDl := some d }
  let s2 := (s1.setReg (Reg.SEQ_STRM_NEXT st) (n + 1)).mirrorSend (.arrival (strmId st) n (d - s.cnt.gate))
  if s2.lockMode then lockArrive st n s2 else s2

/-- A deadline that has come: the lowest open number is closed as a gap (R203, R290). -/
def deadlineClose (st : Nat) (s : State) : State :=
  match (s.strm st).seqs.find? (fun r => r.st == .opened) with
  | none => s
  | some r => if r.deadline.toNat ≤ s.cnt.gate.toNat then s.closeNum st r.seq 1 else s

/-- GATE_DEADLINE. -/
def execGateDeadline (st : StreamId) (s : State) : Out := .next (deadlineClose st.val s)

/-- OUTPUT_ENTRY_WRITE: pending records are written as their entries free (R267). -/
def execOutputEntryWrite (st : StreamId) (s : State) : Out := .next (writeOut st.val (s.strm st.val).outq s)

/-- INT_OUT_TAIL_WRITE: the host frees entries (R267). -/
def execIntOutTailWrite (who : Who) (st : StreamId) (v : W32) (s : State) : Out :=
  .next (s.access who (Reg.INT_OUT_TAIL st.val) (fun s =>
    let s1 := (s.setReg (Reg.INT_OUT_TAIL st.val) v).mirrorSend (.tail st v)
    writeOut st.val (s1.strm st.val).outq s1))

/-- Unbinding: every unresolved number closes as a gap in ascending order, with event 0x0C07 (R204). -/
def unbind (st : Nat) (s : State) : State :=
  let open' := (s.strm st).seqs.filter (fun r => match r.st with | .closed _ _ _ => false | _ => true)
  let first := match open' with | [] => 0 | r :: _ => r.seq.toNat
  let g := s.cnt.gate
  let close := fun (r : SeqSt) => match r.st with
    | .closed _ _ _ => r
    | _ => { r with st := .closed 3 0 g }
  let s1 := s.setReg (Reg.SEQ_STRM_CFG st) (s.reg (Reg.SEQ_STRM_CFG st) &&& 0xFFFFFFFE)
  let s2 := (s1.setStrm st { s1.strm st with seqs := (s1.strm st).seqs.map close }).flush st
  (s2.raise 0x0C07 1 (s.home st / 4) (st + 2 ^ 32 * first + 2 ^ 64 * open'.length)).mirrorConfig st

end Sys2Proof.Machine
end

