-- ==== Sys2Proof/Machine/Seq.lean ====
section
/-!
DEFINITION. Sequencer contexts: registers, issue, guards, traps, holds and completions (R184 to R188, R220 to R226, R230).
-/
namespace Sys2Proof.Machine

/-- The index of a context. -/
def ctxIx (k : CtxId) : Nat := k.core.val * 4 + k.ctx.val

/-- The context of an index below 128. -/
def ctxId (i : Nat) : CtxId := ⟨⟨i / 4 % 32, Nat.mod_lt _ (by decide)⟩, ⟨i % 4, Nat.mod_lt _ (by decide)⟩⟩

/-- A context. -/
def State.ctx (s : State) (i : Nat) : Ctx := Tab.getD s.ctxs i .idle

/-- Replaces a context. -/
def State.setCtx (s : State) (i : Nat) (c : Ctx) : State := { s with ctxs := Tab.setD s.ctxs i .idle c }

/-- Changes a context. -/
def State.onCtx (s : State) (i : Nat) (f : Ctx → Ctx) : State := s.setCtx i (f (s.ctx i))

/-! ## Registers -/

/-- A scalar register: s0 reads as 0 (Table INS-1). -/
def Ctx.sreg (c : Ctx) (r : Nat) : W64 := if r = 0 then 0 else Tab.getD c.s r 0

/-- A later write to a register takes it from a load still on its way (R225). -/
def Ctx.dropLoads (c : Ctx) (d : LoadDst) : Ctx :=
  { c with loads := c.loads.map (fun l => if l.dst = some d then { l with dst := none } else l) }

/-- Writes a scalar register: writes to s0 are discarded. -/
def Ctx.setS (c : Ctx) (r : Nat) (v : W64) : Ctx :=
  if r = 0 then c else { c.dropLoads (.scalar r) with s := Tab.setD c.s r 0 v }

/-- A descriptor register. -/
def Ctx.dreg (c : Ctx) (r : Nat) : BitVec 256 := Tab.getD c.d r 0

/-- Writes a descriptor register. -/
def Ctx.setD (c : Ctx) (r : Nat) (v : BitVec 256) : Ctx := { c.dropLoads (.desc r) with d := Tab.setD c.d r 0 v }

/-- A predicate. -/
def Ctx.preg (c : Ctx) (r : Nat) : Bool := bit c.p r

/-- Writes a predicate. -/
def Ctx.setP (c : Ctx) (r : Nat) (v : Bool) : Ctx :=
  { c with p := if v then c.p ||| BitVec.ofNat 8 (2 ^ r) else c.p &&& ~~~(BitVec.ofNat 8 (2 ^ r)) }

/-- Whether a register still awaits a load (R225). -/
def Ctx.awaits (c : Ctx) (d : LoadDst) : Bool := c.loads.any (fun l => l.dst == some d)

/-! ## Work -/

/-- Works that SIG and FENCE wait for: writes not yet landed (R206). -/
def Ctx.writes (c : Ctx) : List Nat := (c.works.filter (fun w => w.write)).map (fun w => w.id)

/-- Issues a work: its number, and the context that tracks it. -/
def Ctx.addWork (c : Ctx) (rd wr : List Rng) (write eng : Bool) : Ctx :=
  { c with works := c.works ++ [⟨c.nextId, rd, wr, write, eng⟩], nextId := c.nextId + 1 }

/-- Adds to a sync counter, modulo 2^32 (R195). -/
def State.addSync (s : State) (i : Nat) (v : W32) : State :=
  { s with sync := Tab.setD s.sync i 0 (Tab.getD s.sync i 0 + v) }

/-- Adds the SIGs whose earlier writes are all visible (R206). -/
def fireSigs (i : Nat) : List PSig → State → State
  | [], s => s
  | g :: r, s => fireSigs i r (if g.after.isEmpty then s.addSync g.ctr g.inc else s)

/-- Whether earlier accesses of its context let a work write its ranges now (R205). -/
def Ctx.writeClear (c : Ctx) (id : Nat) : Bool :=
  match c.works.find? (fun w => w.id == id) with
  | none => true
  | some w => c.works.all (fun x => decide (x.id ≥ id) || !(rngsHit x.wr w.wr || rngsHit x.rd w.wr))
      && c.loads.all (fun l => l.after.contains id || !rngsHit [l.rng] w.wr)

/-- Whether earlier writes of its context let a work read its ranges now (R205). -/
def Ctx.readClear (c : Ctx) (id : Nat) : Bool :=
  match c.works.find? (fun w => w.id == id) with
  | none => true
  | some w => c.works.all (fun x => decide (x.id ≥ id) || !rngsHit x.wr w.rd)

/-- Whether the context's earlier writes let a work read ranges now (R205). -/
def Ctx.clearOf (c : Ctx) (id : Nat) (rs : List Rng) : Bool := c.works.all (fun x => decide (x.id ≥ id) || !rngsHit x.wr rs)

/-- A work completes: loads and SIGs no longer wait for it, and the SIGs that wait for nothing are added (R206, R226). -/
def State.endWork (s : State) (i id : Nat) : State :=
  let c := s.ctx i
  let sigs := c.sigs.map (fun g => { g with after := g.after.filter (fun x => x != id) })
  let c1 := { c with works := c.works.filter (fun w => w.id != id), loads := c.loads.map (fun l => { l with after := l.after.filter (fun x => x != id) }), sigs := sigs.filter (fun g => !g.after.isEmpty) }
  fireSigs i sigs (s.setCtx i c1)

/-- A SIG: added at once when no earlier write is outstanding, else when those have landed (R195, R206). -/
def State.sigNow (s : State) (i ctr : Nat) (v : W32) : State :=
  let c := s.ctx i
  if c.writes.isEmpty then s.addSync ctr v else s.setCtx i { c with sigs := c.sigs ++ [⟨ctr, v, c.writes⟩] }

/-- Sets a context's poison flag; its current result is marked in the gate (R201). -/
def State.poison (s : State) (i : Nat) : State :=
  let s1 := s.onCtx i (fun c => { c with poison := true })
  match (s.ctx i).cur with
  | none => s1
  | some (st, n) => s1.markPoison st n

/-- Sets the poison flag if `b`. -/
def State.poisonIf (s : State) (i : Nat) (b : Bool) : State := if b then s.poison i else s

/-! ## Issue -/

/-- How the body of an instruction ends: executed and on to the next word; executed with a branch to a target; trapped with a cause
(Table INS-7); holding issue with nothing changed (R225); stalled or waiting at its address with a new state. -/
inductive Res where
  | ok (s : State)
  | jump (s : State) (pc : W64)
  | trap (cause : Nat)
  | hold
  | stay (s : State)

/-- Whether an AOW of a context has not yet taken effect (R208, R375). -/
def State.aoPend (s : State) (i : Nat) : Bool := s.act.aoq.any (fun w => w.ctx == i)

/-- A trap: the context enters TRAP at the trapping instruction, nothing else changes, and event 0x0C01 is raised (R188). -/
def State.trap (s : State) (i cause : Nat) : State :=
  let c := s.ctx i
  let s1 := s.setCtx i { c with st := .trap, cause := BitVec.ofNat 8 cause, hold := .free }
  s1.raise 0x0C01 2 (i / 4) (i / 4 + 256 * (i % 4) + 2 ^ 16 * cause + 2 ^ 64 * c.pc.toNat)

/-- Whether the word at PC cannot be fetched (R224); an error response of the tank's separator counts (R421). -/
def State.fetchBad (s : State) (i : Nat) : Bool :=
  let pc := (s.ctx i).pc.toNat
  decide (pc ≥ 2 ^ 27) || s.bad 0 pc 8 || !s.up 4

/-- What the fetch itself does at the tank: errors it meets are corrected or reported (R253). -/
def State.fetchFx (s : State) (i : Nat) : State :=
  let pc := (s.ctx i).pc.toNat
  if s.mem.tank.ecc.any (fun e => overlap (8 * e.1) 8 pc 8) then s.readFx 0 pc 8 (i / 4) 0 else s

/-- Moves PC to the next instruction. -/
def State.advance (s : State) (i : Nat) : State := s.onCtx i (fun c => { c with pc := c.pc + 8 })

/-- Whether a context may issue: its core runs, it is in RUN and holds for nothing. -/
def State.canIssue (s : State) (i : Nat) : Bool :=
  s.coreUp (i / 4) && !s.mirStandby && (s.ctx i).st == .run && (s.ctx i).hold == .free

/-- A held instruction that had issued completes: the context issues on, or goes on with a pre-emption or a STOP that waited for it (R211). -/
def Ctx.freed (c : Ctx) : Ctx := { c with hold := if c.st = .saving then .preempt else if c.stop then .stop else .free }

/-- What an instruction's outcome makes of the machine. -/
def settle (i : Nat) (s : State) : Res → State
  | .ok t => t.advance i
  | .jump t pc => t.onCtx i (fun c => { c with pc := pc })
  | .trap cause => s.trap i cause
  | .hold => s
  | .stay t => t

/-- The issue of an instruction whose word has been read. -/
def issueAt (i : Nat) (w : BitVec 56) (legal : Bool) (needs : List LoadDst) (body : State → Res) (badFetch : Bool) (s : State) : State :=
  if badFetch then s.trap i 2
  else if !legal then s.trap i 1
  else if !guardOn w (s.ctx i).p then s.advance i
  else if needs.any (fun d => (s.ctx i).awaits d) then s
  else settle i s (body s)

/-- Issues an instruction (R221 to R226): fetch and illegal causes come before the guard; a guarded-off instruction is a
no-operation; then registers that await a load hold issue; then the body. -/
def issue (k : CtxId) (w : BitVec 56) (legal : Bool) (needs : List LoadDst) (body : State → Res) (s : State) : Out :=
  let i := ctxIx k
  .next (if !s.canIssue i then s
    else issueAt i w legal needs body (s.fetchBad i) (s.fetchFx i))

/-- The scalars of a list that an instruction reads. -/
def sNeeds (l : List Nat) : List LoadDst := l.map LoadDst.scalar

/-- The descriptors of a list that an instruction reads. -/
def dNeeds (l : List Nat) : List LoadDst := l.map LoadDst.desc

end Sys2Proof.Machine
end

