-- ==== Sys2Proof/Machine/Scalar.lean ====
section
/-!
DEFINITION. Scalar and branch instructions (R233, R234).
-/
namespace Sys2Proof.Machine

/-- Format A with no function select: FN 0, and RB 0 when I is 1 (R221, R233). -/
def legalA0 (w : BitVec 56) : Bool := fFN w == 0 && (!fI w || fRB w == 0)

/-- Format A with FN below a bound. -/
def legalA (n : Nat) (w : BitVec 56) : Bool := decide (fFN w < n) && (!fI w || fRB w == 0)

/-- The second operand b of format A. -/
def opB (c : Ctx) (w : BitVec 56) : W64 := if fI w then sext32 (fIMM w) else c.sreg (fRB w)

/-- The scalars a format A instruction reads. -/
def needsA (w : BitVec 56) : List LoadDst := sNeeds (fRA w :: (if fI w then [] else [fRB w]))

/-- A scalar instruction: s[RD] ← f s[RA] b. -/
def scalarOp (k : CtxId) (w : BitVec 56) (legal : Bool) (f : W64 → W64 → W64) (s : State) : Out :=
  issue k w legal (needsA w) (fun s =>
    let c := s.ctx (ctxIx k)
    .ok (s.setCtx (ctxIx k) (c.setS (fRD w) (f (c.sreg (fRA w)) (opB c w))))) s

/-- ADD. -/
def execAdd (k : CtxId) (w : BitVec 56) (s : State) : Out := scalarOp k w (legalA0 w) (fun a b => a + b) s

/-- SUB. -/
def execSub (k : CtxId) (w : BitVec 56) (s : State) : Out := scalarOp k w (legalA0 w) (fun a b => a - b) s

/-- MUL: the low 64 bits. -/
def execMul (k : CtxId) (w : BitVec 56) (s : State) : Out := scalarOp k w (legalA0 w) (fun a b => a * b) s

/-- The high 64 bits of a product, signed or unsigned. -/
def mulHigh (unsigned : Bool) (a b : W64) : W64 :=
  if unsigned then BitVec.ofNat 64 ((a.toNat * b.toNat) >>> 64) else BitVec.ofInt 64 ((a.toInt * b.toInt) / (2 ^ 64))

/-- MULH. -/
def execMulh (k : CtxId) (w : BitVec 56) (s : State) : Out := scalarOp k w (legalA 2 w) (mulHigh (fFN w == 1)) s

/-- AND. -/
def execAnd (k : CtxId) (w : BitVec 56) (s : State) : Out := scalarOp k w (legalA0 w) (fun a b => a &&& b) s

/-- OR. -/
def execOr (k : CtxId) (w : BitVec 56) (s : State) : Out := scalarOp k w (legalA0 w) (fun a b => a ||| b) s

/-- XOR. -/
def execXor (k : CtxId) (w : BitVec 56) (s : State) : Out := scalarOp k w (legalA0 w) (fun a b => a ^^^ b) s

/-- SHL by b[5:0]. -/
def execShl (k : CtxId) (w : BitVec 56) (s : State) : Out := scalarOp k w (legalA0 w) (fun a b => a <<< (b.toNat % 64)) s

/-- SHR by b[5:0]. -/
def execShr (k : CtxId) (w : BitVec 56) (s : State) : Out := scalarOp k w (legalA0 w) (fun a b => a >>> (b.toNat % 64)) s

/-- SRA by b[5:0]. -/
def execSra (k : CtxId) (w : BitVec 56) (s : State) : Out := scalarOp k w (legalA0 w) (fun a b => a.sshiftRight (b.toNat % 64)) s

/-- Whether a is below b, signed or unsigned. -/
def below (unsigned : Bool) (a b : W64) : Bool := if unsigned then a.ult b else a.slt b

/-- MIN. -/
def execMin (k : CtxId) (w : BitVec 56) (s : State) : Out :=
  scalarOp k w (legalA 2 w) (fun a b => if below (fFN w == 1) b a then b else a) s

/-- MAX. -/
def execMax (k : CtxId) (w : BitVec 56) (s : State) : Out :=
  scalarOp k w (legalA 2 w) (fun a b => if below (fFN w == 1) a b then b else a) s

/-- LI: FN 0 sign-extends, 1 zero-extends, 2 replaces the upper half. -/
def liValue (w : BitVec 56) (old : W64) : W64 :=
  if fFN w = 0 then sext32 (fIMM w) else if fFN w = 1 then BitVec.ofNat 64 (fIMM w)
  else BitVec.ofNat 64 (fIMM w * 2 ^ 32 + old.toNat % 2 ^ 32)

/-- LI. -/
def execLi (k : CtxId) (w : BitVec 56) (s : State) : Out :=
  issue k w (decide (fFN w < 3) && fRA w == 0 && fRB w == 0 && !fI w) (if fFN w = 2 then sNeeds [fRD w] else []) (fun s =>
    let c := s.ctx (ctxIx k)
    .ok (s.setCtx (ctxIx k) (c.setS (fRD w) (liValue w (c.sreg (fRD w)))))) s

/-- The outcome of a comparison (Table INS-8). -/
def cmpCond (fn : Nat) (a b : W64) : Bool :=
  match fn with
  | 0 => a == b | 1 => a != b | 2 => a.slt b | 3 => !a.slt b | 4 => a.ult b | 5 => !a.ult b
  | 6 => (a &&& b) != 0 | _ => (a &&& b) == 0

/-- CMP: bits [4:3] of RD are reserved. -/
def execCmp (k : CtxId) (w : BitVec 56) (s : State) : Out :=
  issue k w (decide (fRD w < 8) && (!fI w || fRB w == 0)) (needsA w) (fun s =>
    let c := s.ctx (ctxIx k)
    .ok (s.setCtx (ctxIx k) (c.setP (fRD w) (cmpCond (fFN w) (c.sreg (fRA w)) (opB c w))))) s

/-- The logical function of PLOG. -/
def plogFn (fn : Nat) (a b : Bool) : Bool :=
  match fn with
  | 0 => a && b | 1 => a || b | 2 => a != b | 3 => a && !b | 4 => !a | 5 => true | 6 => false | _ => a

/-- PLOG: bits [4:3] of RD, RA and RB are reserved, I and IMM are 0. -/
def execPlog (k : CtxId) (w : BitVec 56) (s : State) : Out :=
  issue k w (decide (fRD w < 8) && decide (fRA w < 8) && decide (fRB w < 8) && !fI w && fIMM w == 0) [] (fun s =>
    let c := s.ctx (ctxIx k)
    .ok (s.setCtx (ctxIx k) (c.setP (fRD w) (plogFn (fFN w) (c.preg (fRA w)) (c.preg (fRB w)))))) s

/-! ## Branches -/

/-- Format B: reserved bits 0 and OFF a multiple of 8 (R234). -/
def legalBr (w : BitVec 56) : Bool := fw w 40 32 == 0 && fIMM w % 8 == 0

/-- A branch to a target: the address cause when it is not a multiple of 8 or lies at or beyond the end of the tank (R234). -/
def branch (s : State) (target : W64) : Res :=
  if target.toNat % 8 ≠ 0 ∨ target.toNat ≥ 2 ^ 27 then .trap 3 else .jump s target

/-- B: PC ← PC + OFF. -/
def execB (k : CtxId) (w : BitVec 56) (s : State) : Out :=
  issue k w (legalBr w && fRD w == 0 && fRA w == 0) [] (fun s => branch s ((s.ctx (ctxIx k)).pc + sext32 (fIMM w))) s

/-- JR: PC ← s[RA] + OFF. -/
def execJr (k : CtxId) (w : BitVec 56) (s : State) : Out :=
  issue k w (legalBr w) (sNeeds [fRA w]) (fun s => branch s ((s.ctx (ctxIx k)).sreg (fRA w) + sext32 (fIMM w))) s

/-- Writes the link register: PC + 8. -/
def linkTo (i : Nat) (w : BitVec 56) (s : State) : State := s.onCtx i (fun c => c.setS (fRD w) (c.pc + 8))

/-- CALL: s[RL] ← PC + 8; PC ← PC + OFF. -/
def execCall (k : CtxId) (w : BitVec 56) (s : State) : Out :=
  issue k w (legalBr w && fRA w == 0) [] (fun s =>
    branch (linkTo (ctxIx k) w s) ((s.ctx (ctxIx k)).pc + sext32 (fIMM w))) s

/-- CALLR: s[RL] ← PC + 8; PC ← s[RA] + OFF. -/
def execCallr (k : CtxId) (w : BitVec 56) (s : State) : Out :=
  issue k w (legalBr w) (sNeeds [fRA w]) (fun s =>
    branch (linkTo (ctxIx k) w s) ((s.ctx (ctxIx k)).sreg (fRA w) + sext32 (fIMM w))) s

/-- LOOP: s[RA] ← s[RA] − 1; if the new value is not 0, PC ← PC + OFF. -/
def execLoop (k : CtxId) (w : BitVec 56) (s : State) : Out :=
  issue k w (legalBr w && fRD w == 0) (sNeeds [fRA w]) (fun s =>
    let c := s.ctx (ctxIx k)
    let v := c.sreg (fRA w) - 1
    let s1 := s.setCtx (ctxIx k) (c.setS (fRA w) v)
    if v = 0 then .ok s1 else branch s1 (c.pc + sext32 (fIMM w))) s

end Sys2Proof.Machine
end

