-- ==== Sys2Proof/Machine/MemIns.lean ====
section
/-!
DEFINITION. Loads, stores and DBASE (R226, R239, Table INS-12).
-/
namespace Sys2Proof.Machine

/-- SPACE of format M. -/
def fMSP (w : BitVec 56) : Nat := fw w 40 39
/-- SIZE of format M. -/
def fMSZ (w : BitVec 56) : Nat := fw w 38 36

/-- Bytes of a SIZE code. -/
def szBytes (z : Nat) : Nat := if z < 2 then 1 else if z < 4 then 2 else if z < 6 then 4 else 8

/-- Format M legal: SPACE and SIZE not reserved, bits [35:32] 0. -/
def legalM (w : BitVec 56) : Bool := fMSP w != 3 && fMSZ w != 7 && fw w 35 32 == 0

/-- Format M of DLD and DST: SIZE 0 and RD[4] 0. -/
def legalMd (w : BitVec 56) : Bool := legalM w && fMSZ w == 0 && decide (fRD w < 16)

/-- The address of a format M instruction: s[RA] + sext(IMM). -/
def memAddr (c : Ctx) (w : BitVec 56) : Nat := (c.sreg (fRA w) + sext32 (fIMM w)).toNat

/-- Whether an access of n bytes aligned to n is allowed: inside its space, and the space's domain answers (R229, R239, R421). -/
def memOk (s : State) (core sp a n : Nat) : Bool := a % n == 0 && decide (a + n ≤ s.spSize sp) && s.spUp core sp

/-- The range of an access. -/
def memRng (core sp a n : Nat) : Rng := ⟨sp, spAddr core sp a, n⟩

/-- Earlier works of a context that still have to write into a range (R226). -/
def Ctx.writers (c : Ctx) (r : Rng) : List Nat := (c.works.filter (fun x => rngsHit x.wr [r])).map (fun x => x.id)

/-- Whether an earlier access of a context that has not completed touches a range (R205). -/
def Ctx.touches (c : Ctx) (r : Rng) : Bool :=
  c.works.any (fun x => rngsHit x.wr [r] || rngsHit x.rd [r]) || c.loads.any (fun l => l.rng.hits r)

/-- Issues a load of n bytes. -/
def loadIssue (i : Nat) (dst : LoadDst) (w : BitVec 56) (n : Nat) (s : State) : Res :=
  let c := s.ctx i
  let a := memAddr c w
  if !memOk s (i / 4) (fMSP w) a n then .trap 3
  else
    let r := memRng (i / 4) (fMSP w) a n
    let c1 := c.dropLoads dst
    .ok (s.setCtx i { c1 with loads := c1.loads ++ [⟨if dst = .scalar 0 then none else some dst, r, fMSZ w, c.writers r⟩] })

/-- LD. -/
def execLd (k : CtxId) (w : BitVec 56) (s : State) : Out :=
  issue k w (legalM w) (sNeeds [fRA w]) (loadIssue (ctxIx k) (.scalar (fRD w)) w (szBytes (fMSZ w))) s

/-- DLD. -/
def execDld (k : CtxId) (w : BitVec 56) (s : State) : Out :=
  issue k w (legalMd w) (sNeeds [fRA w]) (loadIssue (ctxIx k) (.desc (fRD w)) w 32) s

/-- The value a load of SIZE code z gives: zero- or sign-extended. -/
def loadVal (z n : Nat) : W64 :=
  if z = 1 then BitVec.ofInt 64 (sint 8 n) else if z = 3 then BitVec.ofInt 64 (sint 16 n)
  else if z = 5 then BitVec.ofInt 64 (sint 32 n) else BitVec.ofNat 64 n

/-- The number of the load at index j of a list, and the list without it. -/
def takeAt {α : Type} (l : List α) (j : Nat) : Option (α × List α) :=
  match l.drop j with
  | [] => none
  | x :: r => some (x, l.take j ++ r)

/-- An error response to a load traps its context with the address cause while it runs a program (R421). -/
def State.trapLoad (s : State) (i : Nat) : State :=
  let c := s.ctx i
  if c.st = .run ∨ c.st = .stall ∨ c.st = .wait then s.trap i 3 else s

/-- The data of a load arrives, or an error response (R226, R232, R253, R421). -/
def loadReturn (i : Nat) (l : LoadSt) (rest : List LoadSt) (s : State) : State :=
  if !s.spUp (i / 4) l.rng.sp then (s.onCtx i (fun c => { c with loads := rest })).trapLoad i else
  let bad := s.bad l.rng.sp l.rng.lo l.rng.len
  let n := s.num l.rng.sp l.rng.lo l.rng.len
  let s1 := (s.readFx l.rng.sp l.rng.lo l.rng.len (i / 4) 0).onCtx i (fun c =>
    let c1 := { c with loads := rest }
    match l.dst with
    | none => c1
    | some (.scalar r) => c1.setS r (loadVal l.size n)
    | some (.desc r) => c1.setD r (BitVec.ofNat 256 n))
  s1.poisonIf i bad

/-- LOAD_DATA_RETURN: load j of the context; loads to one range arrive after every earlier write of it has landed. -/
def execLoadDataReturn (k : CtxId) (j : Nat) (s : State) : Out :=
  let i := ctxIx k
  .next (match takeAt (s.ctx i).loads j with
    | none => s
    | some (l, rest) => if l.after.isEmpty && s.coreUp (i / 4) then loadReturn i l rest s else s)

/-- A store of bytes: it waits for earlier accesses of the context to its range (R205, log entry 21). -/
def storeIssue (i : Nat) (w : BitVec 56) (n : Nat) (bs : Ctx → List Byte) (s : State) : Res :=
  let c := s.ctx i
  let a := memAddr c w
  if !memOk s (i / 4) (fMSP w) a n then .trap 3
  else
    let r := memRng (i / 4) (fMSP w) a n
    if c.touches r then .hold
    else
      let pw := s.partBadAt r.sp r.lo n
      .ok ((s.writeFx r.sp r.lo (bs c) (i / 4)).poisonIf i pw)

/-- ST: the low SIZE bytes of s[RD]. -/
def execSt (k : CtxId) (w : BitVec 56) (s : State) : Out :=
  issue k w (legalM w) (sNeeds [fRA w, fRD w])
    (storeIssue (ctxIx k) w (szBytes (fMSZ w)) (fun c => leBytes (szBytes (fMSZ w)) (c.sreg (fRD w)).toNat)) s

/-- DST. -/
def execDst (k : CtxId) (w : BitVec 56) (s : State) : Out :=
  issue k w (legalMd w) (sNeeds [fRA w] ++ dNeeds [fRD w])
    (storeIssue (ctxIx k) w 32 (fun c => leBytes 32 (c.dreg (fRD w)).toNat)) s

/-- DBASE: BASE ← s[RA] + b, or BASE + s[RA] + b, modulo 2^48. -/
def execDbase (k : CtxId) (w : BitVec 56) (s : State) : Out :=
  issue k w (legalA 2 w && decide (fRD w < 16)) (needsA w ++ dNeeds [fRD w]) (fun s =>
    let c := s.ctx (ctxIx k)
    let d := c.dreg (fRD w)
    let v := (c.sreg (fRA w)).toNat + (opB c w).toNat + (if fFN w = 1 then bits d 47 0 else 0)
    .ok (s.setCtx (ctxIx k) (c.setD (fRD w) (BitVec.ofNat 256 (d.toNat - bits d 47 0 + v % 2 ^ 48))))) s

end Sys2Proof.Machine
end

