-- ==== Sys2Proof/Machine/Num.lean ====
section
/-!
DEFINITION. Number formats, conversions, FP32 arithmetic and block scaling (02_number_formats.md), with exact rational values.
-/
namespace Sys2Proof.Machine

/-- An exact rational, not reduced; the denominator is never 0. -/
structure Fr where
  num : Int
  den : Nat
deriving DecidableEq, Repr

/-- An integer as a rational. -/
def Fr.ofInt (i : Int) : Fr := ⟨i, 1⟩

def Fr.add (a b : Fr) : Fr := ⟨a.num * b.den + b.num * a.den, a.den * b.den⟩
def Fr.neg (a : Fr) : Fr := ⟨-a.num, a.den⟩
def Fr.sub (a b : Fr) : Fr := a.add b.neg
def Fr.mul (a b : Fr) : Fr := ⟨a.num * b.num, a.den * b.den⟩

/-- The quotient; 0 for a divisor of 0, which no use of it meets. -/
def Fr.div (a b : Fr) : Fr :=
  if b.num = 0 then ⟨0, 1⟩ else if b.num < 0 then ⟨-(a.num * b.den), a.den * b.num.natAbs⟩ else ⟨a.num * b.den, a.den * b.num.natAbs⟩

def Fr.abs (a : Fr) : Fr := ⟨a.num.natAbs, a.den⟩

/-- a < b. -/
def Fr.lt (a b : Fr) : Bool := decide (a.num * b.den < b.num * a.den)

/-- 2^e. -/
def Fr.pow2 (e : Int) : Fr := if 0 ≤ e then ⟨2 ^ e.toNat, 1⟩ else ⟨1, 2 ^ (-e).toNat⟩

/-- A magnitude n/d rounded to an integer: toward zero, or to nearest even (R22). -/
def roundMag (rtz : Bool) (n d : Nat) : Nat :=
  let q := n / d
  let r := n % d
  if rtz then q else if 2 * r > d then q + 1 else if 2 * r < d then q else q + q % 2

/-- A rational rounded to an integer (R22). -/
def Fr.round (rtz : Bool) (a : Fr) : Int :=
  let m : Int := roundMag rtz a.num.natAbs a.den
  if a.num < 0 then -m else m

/-- floor(log2(n/d)) of a positive magnitude. -/
def floorLog2 (n d : Nat) : Int :=
  let k : Int := (Nat.log2 n : Int) - (Nat.log2 d : Int)
  if (if 0 ≤ k then d * 2 ^ k.toNat ≤ n else d ≤ n * 2 ^ (-k).toNat) then k else k - 1

/-- The integer square root by bits. -/
def isqrtFrom : Nat → Nat → Nat → Nat
  | 0, _, r => r
  | b + 1, n, r => let t := r + 2 ^ b; if t * t ≤ n then isqrtFrom b n t else isqrtFrom b n r

/-- floor(√n). -/
def isqrt (n : Nat) : Nat := isqrtFrom (Nat.log2 n / 2 + 1) n 0

/-- A value of a format: NaN, an infinity, a sign and a magnitude n/d (R18, R21), or a free FP32 result the spec does not state (log
entry 19). -/
inductive Val where
  | nan
  | inf (neg : Bool)
  | fin (neg : Bool) (n d : Nat)
  | free (w : W32)
deriving DecidableEq, Repr

/-- The layout of a floating-point format (Table FMT-1): mantissa bits, bias, largest finite code, canonical NaN, infinity code. -/
structure Flt where
  mb : Nat
  bias : Nat
  bits : Nat
  maxFin : Nat
  nan : Nat
  inf : Option Nat
deriving DecidableEq, Repr

/-- FP8-E4M3, FP8-E5M2, BF16, FP32. -/
def fltOf (fmt : Nat) : Flt :=
  if fmt = 4 then ⟨3, 7, 8, 0x7E, 0x7F, none⟩
  else if fmt = 5 then ⟨2, 15, 8, 0x7B, 0x7E, some 0x7C⟩
  else if fmt = 6 then ⟨7, 127, 16, 0x7F7F, 0x7FC0, some 0x7F80⟩
  else ⟨23, 127, 32, 0x7F7FFFFF, 0x7FC00000, some 0x7F800000⟩

/-- Decodes a floating-point encoding (R18, Table FMT-2). -/
def decodeF (f : Flt) (c : Nat) : Val :=
  let neg := c / 2 ^ (f.bits - 1) % 2 == 1
  let m := c % 2 ^ (f.bits - 1)
  if m > f.maxFin then (if some m = f.inf then .inf neg else .nan)
  else
    let e := m / 2 ^ f.mb
    let frac := m % 2 ^ f.mb
    let p : Int := (max e 1 : Nat) - (f.bias : Int) - (f.mb : Int)
    let v := (Fr.ofInt (if e = 0 then frac else frac + 2 ^ f.mb)).mul (Fr.pow2 p)
    .fin neg v.num.natAbs v.den

/-- The value of an element's raw bits (Table FMT-1). -/
def decode (fmt raw : Nat) : Val :=
  if fmtFloat fmt then decodeF (fltOf fmt) raw
  else let v : Int := if fmt = 2 then (raw % 256 : Nat) else sint (fmtBits fmt) raw
       .fin (decide (v < 0)) v.natAbs 1

/-- A magnitude rounded to a float: its code without sign, and whether it lies beyond the largest finite value (R22, R23). -/
def encodeMag (f : Flt) (rtz : Bool) (n d : Nat) : Nat × Bool :=
  if n = 0 then (0, false) else
  let emin : Int := 1 - (f.bias : Int)
  let e := max (floorLog2 n d) emin
  let s := Fr.pow2 (e - (f.mb : Int))
  let m := roundMag rtz (n * s.den) (d * s.num.natAbs)
  let c := (e - emin).toNat * 2 ^ f.mb + m
  (c, decide (c > f.maxFin))

/-- Adds the sign bit. -/
def withSign (f : Flt) (neg : Bool) (c : Nat) : Nat := c + (if neg then 2 ^ (f.bits - 1) else 0)

/-- Conversion to a floating-point format: the encoding, and whether the outcome is SATURATE (Table FMT-3). -/
def convF (f : Flt) (rtz : Bool) : Val → Nat × Bool
  | .nan => (f.nan, false)
  | .free _ => (f.nan, false)
  | .inf neg => match f.inf with
    | some c => (withSign f neg c, false)
    | none => (withSign f neg f.maxFin, true)
  | .fin neg n d =>
    let r := encodeMag f rtz n d
    if r.2 then (withSign f neg f.maxFin, true) else (withSign f neg r.1, false)

/-- Limits of an integer format (Table FMT-1). -/
def intLo (fmt : Nat) : Int := if fmt = 0 then -8 else if fmt = 1 then -128 else if fmt = 2 then 0 else -32768
def intHi (fmt : Nat) : Int := if fmt = 0 then 7 else if fmt = 1 then 127 else if fmt = 2 then 255 else 32767

/-- The signed integer a value rounds to. -/
def roundVal (rtz neg : Bool) (n d : Nat) : Int := if neg then -(roundMag rtz n d : Int) else roundMag rtz n d

/-- Conversion to an integer format (Table FMT-3). -/
def convI (fmt : Nat) (rtz : Bool) : Val → Nat × Bool
  | .nan => (0, true)
  | .free _ => (0, true)
  | .inf neg => (ofInt (fmtBits fmt) (if neg then intLo fmt else intHi fmt), true)
  | .fin neg n d =>
    let v := roundVal rtz neg n d
    if v < intLo fmt then (ofInt (fmtBits fmt) (intLo fmt), true)
    else if v > intHi fmt then (ofInt (fmtBits fmt) (intHi fmt), true)
    else (ofInt (fmtBits fmt) v, false)

/-- Conversion of an exact value to a format (R22, R23). -/
def conv (fmt : Nat) (rtz : Bool) (v : Val) : Nat × Bool := if fmtFloat fmt then convF (fltOf fmt) rtz v else convI fmt rtz v

/-- A value as a rational; NaN and infinities as 0, which no use of it meets. -/
def Val.fr : Val → Fr
  | .fin neg n d => ⟨if neg then -(n : Int) else n, d⟩
  | _ => ⟨0, 1⟩

/-- A rational as a value; 0 is +0. -/
def Val.ofFr (a : Fr) : Val := .fin (decide (a.num < 0)) a.num.natAbs a.den

/-- A value times 2^e. -/
def Val.scale (v : Val) (e : Int) : Val :=
  match v with
  | .fin neg n d => let p := Fr.pow2 e; .fin neg (n * p.num.natAbs) (d * p.den)
  | x => x

/-! ## FP32 -/

/-- FP32. -/
abbrev fp32 : Flt := ⟨23, 127, 32, 0x7F7FFFFF, 0x7FC00000, some 0x7F800000⟩

/-- The canonical NaN (R21). -/
abbrev f32NaN : W32 := 0x7FC00000

/-- The value of an FP32 word. -/
def f32 (x : W32) : Val := decodeF fp32 x.toNat

/-- A value rounded once to FP32 by RNE; overflow gives the infinity (R98, R115); a free NaN is canonical (R21). -/
def toF32 : Val → W32
  | .nan => f32NaN
  | .free w => if w.toNat % 2 ^ 31 > 0x7F800000 then f32NaN else w
  | .inf neg => if neg then 0xFF800000 else 0x7F800000
  | .fin neg n d =>
    let r := encodeMag fp32 false n d
    BitVec.ofNat 32 (withSign fp32 neg (if r.2 then 0x7F800000 else r.1))

/-- A source value converted to FP32 with no choice of rounding: the word, and whether the outcome is SATURATE (R22, R23, Table FMT-3). -/
def inF32 (v : Val) : W32 × Bool := let r := convF fp32 false v; (BitVec.ofNat 32 r.1, r.2)

/-- Whether an FP32 word is an infinity. -/
def f32Inf (x : W32) : Bool := x.toNat % 2 ^ 31 == 0x7F800000

/-- Whether an FP32 word is NaN. -/
def f32IsNaN (x : W32) : Bool := decide (x.toNat % 2 ^ 31 > 0x7F800000)

/-- Whether an FP32 word is finite. -/
def f32Fin (x : W32) : Bool := decide (x.toNat % 2 ^ 31 < 0x7F800000)

/-- The exact sum of two values. An exact zero sum of operands of unlike sign takes a free sign; infinity minus infinity is free (log
entry 19). -/
def Val.add : Val → Val → Val
  | .nan, _ => .nan
  | _, .nan => .nan
  | .free w, _ => .free w
  | _, .free w => .free w
  | .inf a, .inf b => if a = b then .inf a else .free (Config.infSum a)
  | .inf a, _ => .inf a
  | _, .inf b => .inf b
  | .fin a n d, .fin b m e =>
    let r := (Val.fr (.fin a n d)).add (Val.fr (.fin b m e))
    if r.num = 0 then .fin (if a = b then a else Config.zeroSumNeg a n d) 0 1 else .fin (decide (r.num < 0)) r.num.natAbs r.den

/-- The negative of a value. -/
def Val.neg : Val → Val
  | .nan => .nan
  | .free w => .free w
  | .inf a => .inf (!a)
  | .fin a n d => .fin (!a) n d

/-- The exact product of two values; 0 times infinity is free (log entry 19). -/
def Val.mul : Val → Val → Val
  | .nan, _ => .nan
  | _, .nan => .nan
  | .free w, _ => .free w
  | _, .free w => .free w
  | .inf a, .inf b => .inf (a != b)
  | .inf a, .fin b n _ => if n = 0 then .free (Config.infTimesZero a b) else .inf (a != b)
  | .fin a n _, .inf b => if n = 0 then .free (Config.infTimesZero b a) else .inf (a != b)
  | .fin a n d, .fin b m e => .fin (a != b) (n * m) (d * e)

/-- The exact quotient of two values; `open'` where the spec states none: a divisor of 0, infinity by infinity (log entry 19). -/
def Val.div (open' : W32) : Val → Val → Val
  | .nan, _ => .nan
  | _, .nan => .nan
  | .free w, _ => .free w
  | _, .free w => .free w
  | .inf _, .inf _ => .free open'
  | .inf a, .fin b m _ => if m = 0 then .free open' else .inf (a != b)
  | .fin a _ _, .inf b => .fin (a != b) 0 1
  | .fin a n d, .fin b m e => if m = 0 then .free open' else .fin (a != b) (n * e) (d * m)

/-- FP32 addition (R108). -/
def fadd (a b : W32) : W32 := toF32 ((f32 a).add (f32 b))
/-- FP32 subtraction. -/
def fsub (a b : W32) : W32 := toF32 ((f32 a).add (f32 b).neg)
/-- FP32 multiplication. -/
def fmul (a b : W32) : W32 := toF32 ((f32 a).mul (f32 b))
/-- FP32 division. -/
def fdiv (a b : W32) : W32 := toF32 ((f32 a).div (Config.divOpen a b) (f32 b))
/-- a × b + c rounded once (R115, R117). -/
def ffma (a b c : W32) : W32 := toF32 (((f32 a).mul (f32 b)).add (f32 c))

/-- The correctly rounded square root (R242): of a negative operand it is free, and of −0 it is a zero of free sign (log entry 19). -/
def fsqrt (x : W32) : W32 :=
  match f32 x with
  | .inf neg => if neg then toF32 (.free (Config.sqrtOpen x)) else x
  | .fin neg n d =>
    if n = 0 then (if neg && !(Config.sqrtOpen x).msb then 0 else x)
    else if neg then toF32 (.free (Config.sqrtOpen x)) else
    -- √(n/d) = √(n d)/d, with 64 further bits and a sticky bit
    let k := n * d * 4 ^ 64
    let r := isqrt k
    toF32 (.fin false (2 * r + b2n (r * r != k)) (d * 2 ^ 65))
  | _ => f32NaN

/-- Whether a is below b as numbers; neither is NaN. -/
def Val.lt : Val → Val → Bool
  | .inf a, .inf b => a && !b
  | .inf a, _ => a
  | _, .inf b => !b
  | .fin a n d, .fin b m e => (Val.fr (.fin a n d)).lt (Val.fr (.fin b m e))
  | _, _ => false

/-- Whether a value is zero with a sign. -/
def Val.isZero (neg : Bool) : Val → Bool
  | .fin a n _ => n == 0 && a == neg
  | _ => false

/-- Whether candidate (b, ib) replaces the held (a, ia) under Table ACC-6; `mini` selects the minimum. Of two equal zeros of one sign, which stand in
no row of the table, the lower index wins (log entry 139). -/
def wins (mini : Bool) (a : Val) (ia : Nat) (b : Val) (ib : Nat) : Bool :=
  if a = .nan then b == .nan && decide (ib < ia)
  else if b = .nan then true
  else if (if mini then b.lt a else a.lt b) then true
  else if (if mini then a.lt b else b.lt a) then false
  else if a.isZero (!mini) && b.isZero mini then true
  else if a.isZero mini && b.isZero (!mini) then false
  else decide (ib < ia)

/-! ## Integers as FP32 -/

/-- A Q.8 integer as a value. -/
def q8Val (x : Int) : Val := .fin (decide (x < 0)) x.natAbs 256

/-! ## Blocks -/

/-- A block conversion: exponent, flags, integers, and which elements are SATURATE outcomes (R28, R32). -/
structure Blk where
  sexp : Int
  zero : Bool
  inf : Bool
  nan : Bool
  q : List Int
  sat : List Bool
deriving DecidableEq, Repr

/-- An element as R28 takes it: infinities as the largest finite value of the source format, NaN as 0. -/
def blkElem (src : Flt) : Val → Val
  | .nan => .fin false 0 1
  | .inf neg => match decodeF src src.maxFin with
    | .fin _ n d => .fin neg n d
    | x => x
  | x => x

/-- Largest floor(log2 |x|) of the nonzero elements. -/
def blkEmax : List Val → Option Int
  | [] => none
  | .fin _ n d :: r =>
    if n = 0 then blkEmax r
    else match blkEmax r with
      | none => some (floorLog2 n d)
      | some e => some (max e (floorLog2 n d))
  | _ :: r => blkEmax r

/-- The offset and limits of Table FMT-6. -/
def blkOff (fmt : Nat) : Int := if fmt = 0 then 2 else if fmt = 1 then 6 else if fmt = 2 then 7 else 14
def blkLo (fmt : Nat) : Int := if fmt = 0 then -7 else if fmt = 1 then -127 else if fmt = 2 then 0 else -32767

/-- One element's integer under exponent s, and whether a negative UINT8 element saturates. -/
def blkQ (fmt : Nat) (rtz : Bool) (s : Int) (v : Val) : Int × Bool :=
  match v.scale (-s) with
  | .fin neg n d =>
    let i := roundVal rtz neg n d
    (max (blkLo fmt) (min (intHi fmt) i), decide (fmt = 2 ∧ i < 0))
  | _ => (0, false)

/-- Block conversion of values from a source format to a destination format (R28, R32). -/
def blkConv (src : Flt) (fmt : Nat) (rtz : Bool) (xs : List Val) : Blk :=
  let inf := xs.any (fun v => match v with | .inf _ => true | _ => false)
  let nan := xs.any (fun v => v == .nan)
  let odd := fun (v : Val) => match v with | .inf _ => true | .nan => true | _ => false
  let ys := xs.map (blkElem src)
  match blkEmax ys with
  | none => ⟨0, true, inf, nan, xs.map (fun _ => 0), xs.map odd⟩
  | some e =>
    let s := e - blkOff fmt
    let qs := ys.map (blkQ fmt rtz s)
    ⟨s, false, inf, nan, qs.map (fun p => p.1), (xs.zip qs).map (fun p => odd p.1 || p.2.2)⟩

/-- The 16-bit table entry of a block (Table FMT-5). -/
def Blk.entry (b : Blk) : Nat := ofInt 9 b.sexp + 2 ^ 13 * b2n b.zero + 2 ^ 14 * b2n b.inf + 2 ^ 15 * b2n b.nan

/-- SEXP of a table entry. -/
def entSexp (e : Nat) : Int := sint 9 e

/-- An element of a block of exponent sb brought to exponent sg ≥ sb (R34, R35). -/
def alignQ (q : Int) (sb sg : Int) : Int :=
  let k := (sg - sb).toNat
  if k ≥ 8 then 0 else (Fr.mk q (2 ^ k)).round false

/-- The lists of consecutive blocks of 32 elements (R27). -/
def chunks32 {α : Type} : Nat → List α → List (List α)
  | 0, _ => []
  | n + 1, l => l.take 32 :: chunks32 n (l.drop 32)

end Sys2Proof.Machine
end

