-- ==== Sys2Proof/Machine/Fn.lean ====
section
/-!
DEFINITION. FP32 functions whose results the spec bounds in ulp (Table ACC-7, R242): the correctly rounded value, moved by a free number
of FP32 steps within the bound.
-/
namespace Sys2Proof.Machine

/-- ln 2 times 2^256. -/
abbrev ln2Fix : Int := 80260960185991308862233904206310070533990667611589946606122867505419956976171

/-- Σ r^i / i! from i to i + n, all times 2^256. -/
def expTerms (r : Int) : Nat → Nat → Int → Int
  | 0, _, t => t
  | n + 1, i, t => t + expTerms r n (i + 1) (t * r / 2 ^ 256 / (i + 1 : Nat))

/-- e^x for |x| at most 400, to about 250 bits. -/
def expFr (x : Fr) : Fr :=
  let xf := x.num * 2 ^ 256 / x.den
  let k := xf / ln2Fix
  (Fr.mk (expTerms (xf - k * ln2Fix) 60 0 (2 ^ 256)) (2 ^ 256)).mul (Fr.pow2 k)

/-- A rational held between −400 and 400. -/
def Fr.held (x : Fr) : Fr := if (Fr.ofInt 400).lt x then Fr.ofInt 400 else if x.lt (Fr.ofInt (-400)) then Fr.ofInt (-400) else x

/-- Σ z^(2i+1) / (2i+1), all times 2^256. -/
def atanhTerms (z2 : Int) : Nat → Nat → Int → Int
  | 0, _, _ => 0
  | n + 1, i, p => p / (2 * i + 1 : Nat) + atanhTerms z2 n (i + 1) (p * z2 / 2 ^ 256)

/-- ln x of a positive rational n/d: k ln 2 + 2 atanh((m − 1)/(m + 1)) with x = m 2^k. -/
def lnFr (n d : Nat) : Fr :=
  let k := floorLog2 n d
  let m := (Fr.mk n d).mul (Fr.pow2 (-k))
  let z := (m.sub (Fr.ofInt 1)).div (m.add (Fr.ofInt 1))
  let zf := z.num * 2 ^ 256 / z.den
  ⟨k * ln2Fix + 2 * atanhTerms (zf * zf / 2 ^ 256) 90 0 zf, 2 ^ 256⟩

/-- An FP32 word moved by a number of steps in the order of values; finite words stay finite. -/
def ulpShift (x : W32) (off : Int) : W32 :=
  if off = 0 then x else
  let m : Int := (x.toNat % 2 ^ 31 : Nat)
  let v := (if x.toNat < 2 ^ 31 then m else -m) + off
  let c := min v.natAbs 0x7F7FFFFF
  BitVec.ofNat 32 (if v < 0 then c + 2 ^ 31 else c)

/-- A result within `b` ulp of a rational: the rounded value and a free offset (log entry 6). `neg` signs a zero. -/
def within (b code : Nat) (x : W32) (neg : Bool) (r : Fr) : W32 :=
  let v := if r.num = 0 then Val.fin neg 0 1 else Val.ofFr r
  let w := toF32 v
  if f32Inf w then w else ulpShift w (max (-(b : Int)) (min b (Config.ulpOff code x)))

/-- The place of an FP32 word in the order of values. -/
def ordOf (x : W32) : Int := let m : Int := (x.toNat % 2 ^ 31 : Nat); if x.toNat < 2 ^ 31 then m else -m

/-- The place of a result at most b steps from place r that is monotonic (R116): operands at place d of one r move up by free thresholds, and no
result is below one of a lower r. Every monotonic choice within the bound is of this form (log entry 6). -/
def monoTo (b key : Nat) (d r : Int) : Int :=
  let top := fun (q : Int) => Config.actTop key q % (2 * b + 1)
  let own : Nat := min (top r) ((List.range (2 * b)).countP (fun k => decide (Config.actStep key r k ≤ d)))
  (List.range (2 * b)).foldl (fun m j => max m (r - (j + 1 : Nat) - b + top (r - (j + 1 : Nat)))) (r - b + own)

/-- A result within 4 ulp of a rational, monotonic in the operand: falling or rising (Table ACC-7). `neg` signs a zero. -/
def smooth (code : Nat) (falls : Bool) (y : W32) (neg : Bool) (r : Fr) : W32 :=
  let w := toF32 (if r.num = 0 then Val.fin neg 0 1 else Val.ofFr r)
  if f32Inf w then w else ulpShift w (monoTo 4 (2 * code + b2n falls) (if falls then -ordOf y else ordOf y) (ordOf w) - ordOf w)

/-- 1 / (1 + e^−t). -/
def sigFr (t : Fr) : Fr := (Fr.ofInt 1).div ((Fr.ofInt 1).add (expFr t.held.neg))

/-- A free result where the spec states none, NaN canonical. -/
def openAt (code : Nat) (x : W32) : W32 := toF32 (.free (Config.fnOpen code x))

/-- Whether y σ(t) falls at y, for t with derivative t': 1 + y t' (1 − σ(t)) is negative. -/
def fallsAt (v t' g : Fr) : Bool := decide (((Fr.ofInt 1).add (v.mul (t'.mul ((Fr.ofInt 1).sub g)))).num < 0)

/-- An activation from 0x4 to 0x7 (Table ACC-7); at an infinity the limit where the formula has one, else free. -/
def smoothAct (code : Nat) (y : W32) : W32 :=
  match f32 y with
  | .fin neg n d =>
    let v := Val.fr (.fin neg n d)
    if code = 4 then
      let v2 := v.mul v
      let c := Fr.mk (2 * 797885) 1000000
      let g := sigFr (c.mul (v.add ((Fr.mk 44715 1000000).mul (v.mul v2))))
      smooth 4 (fallsAt v (c.mul ((Fr.ofInt 1).add ((Fr.mk (3 * 44715) 1000000).mul v2))) g) y neg (v.mul g)
    else if code = 5 then let g := sigFr v; smooth 5 (fallsAt v (Fr.ofInt 1) g) y neg (v.mul g)
    else if code = 6 then smooth 6 false y false (sigFr v)
    else
      let h := v.held
      let e := expFr (h.add h).held
      smooth 7 false y neg ((e.sub (Fr.ofInt 1)).div (e.add (Fr.ofInt 1)))
  | .inf neg =>
    if code = 6 then smooth 6 false y false (Fr.ofInt (if neg then 0 else 1))
    else if code = 7 then smooth 7 false y neg (Fr.ofInt (if neg then -1 else 1))
    else if neg then openAt code y else y
  | _ => f32NaN

/-- exp, log, reciprocal and reciprocal square root, within 2 ulp (R242); codes 16 to 19. Where the spec states no result it is free. -/
def fexp (x : W32) : W32 :=
  match f32 x with
  | .fin neg n d => within 2 16 x false (expFr (Val.fr (.fin neg n d)).held)
  | .inf neg => if neg then 0 else x
  | _ => f32NaN

def flog (x : W32) : W32 :=
  match f32 x with
  | .fin neg n d => if neg || n == 0 then openAt 17 x else within 2 17 x false (lnFr n d)
  | .inf neg => if neg then openAt 17 x else x
  | _ => f32NaN

def frecip (x : W32) : W32 :=
  match f32 x with
  | .fin neg n d => if n = 0 then openAt 18 x else within 2 18 x neg ⟨if neg then -(d : Int) else d, n⟩
  | .inf neg => toF32 (.fin neg 0 1)
  | _ => f32NaN

def frsqrt (x : W32) : W32 :=
  match f32 x with
  | .fin neg n d =>
    if neg || n == 0 then openAt 19 x
    else within 2 19 x false ⟨2 ^ 160 * d, isqrt (n * d * 4 ^ 160)⟩
  | .inf neg => if neg then openAt 19 x else 0
  | _ => f32NaN

end Sys2Proof.Machine
end

