-- ==== Sys2Proof/Machine/Tiles.lean ====
section
/-!
DEFINITION. Tiles, slots, contributions and their records (R94 to R122).
-/
namespace Sys2Proof.Machine

/-! ## Arrays and cores -/

/-- An array. -/
def State.arr (s : State) (a : Nat) : Arr := Tab.getD s.arrs a .idle

/-- Replaces an array. -/
def State.setArr (s : State) (a : Nat) (x : Arr) : State := { s with arrs := Tab.setD s.arrs a .idle x }

/-- A core's skim engine and requests. -/
def State.core (s : State) (c : Nat) : CoreSt := Tab.getD s.cores c .empty

/-- Replaces a core's skim engine and requests. -/
def State.setCore (s : State) (c : Nat) (x : CoreSt) : State := { s with cores := Tab.setD s.cores c .empty x }

/-! ## Shapes -/

/-- Slots of a tile (R101): two elements to a slot in FP32. -/
def slotsOf (n v fmt : Nat) : Nat := if fmt = 1 then n * v / 2 else n * v

/-- Slots of a tile's set. -/
def Tile.size (t : Tile) : Nat := slotsOf t.n t.v t.fmt

/-- Slots a tile's id takes of the share: twice with the shadow setting on. -/
def Tile.cost (t : Tile) : Nat := if t.shadow then 2 * t.size else t.size

/-- A slot without contributions (Table ACC-6, last row). -/
def slotEmpty (fmt : Nat) : Slot :=
  ⟨if fmt = 3 then 0xFFFFFFFFFF800000 else if fmt = 4 then 0xFFFFFFFF7F800000 else 0, 0, none⟩

/-- A slot of a tile. -/
def Tile.slot (t : Tile) (i : Nat) : Slot := Tab.getD t.slots i (slotEmpty t.fmt)

/-- Replaces a slot of a tile. -/
def Tile.setSlot (t : Tile) (i : Nat) (x : Slot) : Tile := { t with slots := Tab.setD t.slots i (slotEmpty t.fmt) x }

/-- The share of a context in slots (R101, ACC_PART). -/
def State.share (s : State) (i : Nat) : Nat := 1024 * s.fld (Reg.ACC_PART (i / 4)) (8 * (i % 4) + 7) (8 * (i % 4))

/-- The newest set of a tile id. -/
def Ctx.tile (c : Ctx) (id : Nat) : Option Tile := (c.tiles.reverse.find? (fun t => t.id == id))

/-- The oldest set of a tile id that satisfies `p`. -/
def Ctx.tileWhere (c : Ctx) (id : Nat) (p : Tile → Bool) : Option Tile := c.tiles.find? (fun t => t.id == id && p t)

/-- Replaces the set of a number. -/
def Ctx.putTile (c : Ctx) (t : Tile) : Ctx := { c with tiles := c.tiles.map (fun x => if x.gen = t.gen then t else x) }

/-- Slots that a context's tiles take: a tile id counts once (R101, R104). -/
def usedSlots : List Tile → Nat
  | [] => 0
  | t :: r => (if r.any (fun x => x.id == t.id) then 0 else t.cost) + usedSlots r

/-- Tile ids that hold slots in a context (ACC_STAT.OPENn). -/
def heldIds : List Tile → Nat
  | [] => 0
  | t :: r => (if r.any (fun x => x.id == t.id) then 0 else 1) + heldIds r

/-! ## Errors and counters -/

/-- Sets an ACC_ERR bit and its context. -/
def State.accErr (s : State) (i b : Nat) : State :=
  (s.orReg (Reg.ACC_ERR (i / 4)) (2 ^ b)).setFld (Reg.ACC_ERR (i / 4)) 17 16 (i % 4)

/-- Event 0x0203 (R99, R102). -/
def State.incomplete (s : State) (i : Nat) (t : Tile) (count slot : Nat) : State :=
  (s.accErr i 3).raise 0x0203 2 (i / 4) (i / 4 + 2 ^ 16 * (i % 4) + 2 ^ 24 * t.id + 2 ^ 32 * t.e + 2 ^ 40 * count + 2 ^ 48 * slot)

/-- A residue mismatch: the counter of the array, or of local array 0 for a core-wide unit, and event 0x0D02 (R285). -/
def State.residue (s : State) (a unit : Nat) : State :=
  let core := a / 64
  let k := if unit = 3 ∨ unit = 5 then 64 * core else a
  (s.incReg (Reg.ARR_RES_CNT k) 1).raise 0x0D02 2 0x100 (core + 256 * unit + 2 ^ 16 * a)

/-- n residue mismatches of a core-wide unit (R285). -/
def State.residues (s : State) (core unit n : Nat) : State := (List.range n).foldl (fun t _ => t.residue (64 * core) unit) s

/-- Key of event 0x0202 for a core. -/
def keyAccEcc (c : Nat) : Nat := 0x02020000 + c

/-- POISON in a tag. -/
abbrev tPOISON : Nat := 0x1000
/-- CHECKFAIL in a tag. -/
abbrev tCHECK : Nat := 0x800
/-- SATURATE in a tag. -/
abbrev tSAT : Nat := 0x400
/-- SKIMOVF in a tag. -/
abbrev tSKIM : Nat := 0x200
/-- CLAMP in a tag. -/
abbrev tCLAMP : Nat := 0x100

/-- ORs flags into a tag. -/
def tagOr (t : BitVec 16) (f : Nat) : BitVec 16 := t ||| BitVec.ofNat 16 f

/-- COUNT of a tag. -/
def tagCount (t : BitVec 16) : Nat := bits t 7 0

/-- Reading a slot: a corrected error is counted, an uncorrectable one poisons the slot (R94). The slot number of event 0x0201 is the slot's index within
its tile (log entry 140). -/
def State.slotRead (s : State) (i : Nat) (t : Tile) (n : Nat) : State × Slot :=
  let x := t.slot n
  let c := i / 4
  match x.ecc with
  | none => (s, x)
  | some false =>
    let s1 := s.incReg (Reg.ACC_ECC_CNT c) 1
    let k := (s1.reg (Reg.ACC_ECC_CNT c)).toNat
    let th := (s1.reg (Reg.ACC_ECC_THR c)).toNat
    (if th ≠ 0 ∧ k ≥ th then s1.raiseOnceHealth (keyAccEcc c) 0x0202 1 c (c + 2 ^ 32 * k) 2 else s1, { x with ecc := none })
  | some true =>
    ((s.accErr i 2).raise 0x0201 2 c (c + 2 ^ 16 * n + 2 ^ 32 * (i % 4) + 2 ^ 40 * t.id), { x with ecc := none, tag := tagOr x.tag tPOISON })

/-! ## Element arithmetic -/

/-- A pair (s, c) of FP32 words, with whether an addition overflowed (R98). -/
structure Pair where
  s : W32
  c : W32
  sat : Bool
deriving DecidableEq, Repr

/-- Whether a rounded sum of finite operands is an infinity. -/
def ovf (r a b : W32) : Bool := f32Inf r && f32Fin a && f32Fin b

/-- The FP32C merge of (s2, c2) into (s1, c1), and its TwoSum addition with c2 +0 (R108). A NaN sum has a NaN error (R21); under a sum that is an
infinity the error counts as +0, which R108 does not give (log entry 131). -/
def pairAdd (a b : Pair) : Pair :=
  let s := fadd a.s b.s
  let e := if f32IsNaN s then Val.nan else if f32Fin s then ((f32 a.s).add (f32 b.s)).add (f32 s).neg else .fin false 0 1
  let cc := fadd a.c b.c
  let c := toF32 ((f32 cc).add e)
  ⟨s, c, a.sat || b.sat || ovf s a.s b.s || ovf cc a.c b.c || (f32Inf c && f32Fin cc)⟩

/-- FP32 addition in a pair whose carry is unused. -/
def singleAdd (a b : Pair) : Pair := let s := fadd a.s b.s; ⟨s, 0, a.sat || b.sat || ovf s a.s b.s⟩

/-- Adjacent results added: one level of the pairwise tree (Table ACC-4). -/
def treeLevel {α : Type} (f : α → α → α) : List α → List α
  | a :: b :: r => f a b :: treeLevel f r
  | l => l

/-- The levels of a tree. -/
def treeFold {α : Type} (f : α → α → α) (d : α) : Nat → List α → α
  | _, [] => d
  | _, [a] => a
  | 0, a :: _ => a
  | n + 1, l => treeFold f d n (treeLevel f l)

/-- The sum of P partials in the order of Table ACC-4. -/
def chainSum {α : Type} (f : α → α → α) (d : α) (l : List α) : α :=
  if l.length ≤ 4 then match l with
    | [] => d
    | a :: r => r.foldl f a
  else treeFold f d 10 l

/-- A Q.8 value as FP32, times 2^s_low (R36, R98). Where that product leaves the range of FP32 it is an infinity with SATURATE above and a value rounded
by RNE below, which the spec does not state (log entry 113). -/
def q8f (x slow : Int) : Pair :=
  let y := toF32 (q8Val x)
  let z := if slow = 0 then y else toF32 ((f32 y).scale slow)
  ⟨z, 0, f32Inf z⟩

/-- One element's chain result of P partials given as (value, s_low). -/
def chainElem (fmt : Nat) (l : List (Int × Int)) : Int × Pair :=
  if fmt = 0 then ((l.map (fun p => p.1)).foldl (fun a b => a + b) 0, ⟨0, 0, false⟩)
  else (0, chainSum (if fmt = 2 then pairAdd else singleAdd) ⟨0, 0, false⟩ (l.map (fun p => q8f p.1 p.2)))

/-- The words of a slot's data. -/
def lo32 (d : W64) : W32 := BitVec.ofNat 32 d.toNat
def hi32 (d : W64) : W32 := BitVec.ofNat 32 (d.toNat / 2 ^ 32)

/-- Two words as slot data. -/
def join32 (lo hi : W32) : W64 := BitVec.ofNat 64 (lo.toNat + 2 ^ 32 * hi.toNat)

/-- The held pair after a candidate of MAXI or MINI; a winning NaN is canonical (R114, Table ACC-6). -/
def winPair (mini : Bool) (d : W64) (v idx : W32) : W64 :=
  if wins mini (f32 (lo32 d)) (hi32 d).toNat (f32 v) idx.toNat then join32 (if f32IsNaN v then f32NaN else v) idx else d

/-- The data of a slot after adding a contribution: the FX48 value, or the pairs of its one or two elements (R97, R98, R108, R114);
and whether it saturated. The contribution's number is the slot's COUNT, those of merged records included (log entry 139). -/
def addData (t : Tile) (x : Slot) (fx : Int) (a b : Pair) : W64 × Bool :=
  let d := x.data
  match t.fmt with
  | 0 => (BitVec.ofInt 64 (d.toInt + fx), false)
  | 1 => let p := singleAdd ⟨lo32 d, 0, false⟩ a
         let q := singleAdd ⟨hi32 d, 0, false⟩ b
         (join32 p.s q.s, p.sat || q.sat)
  | 2 => let p := pairAdd ⟨lo32 d, hi32 d, false⟩ a
         (join32 p.s p.c, p.sat)
  | m => (winPair (m == 4) d a.s (t.ibase + BitVec.ofNat 32 (tagCount x.tag)), a.sat)

/-- Adds one contribution to a slot, or poisons it when it holds 255 (R95, R99). -/
def slotAdd (i n flags : Nat) (fx : Int) (a b : Pair) (s : State) (t : Tile) : State × Tile :=
  let (s1, x) := s.slotRead i t n
  if tagCount x.tag = 255 then (s1.incomplete i t 255 n, t.setSlot n { x with tag := tagOr x.tag tPOISON })
  else
    let r := addData t x fx a b
    (s1, t.setSlot n { x with data := r.1, tag := tagOr (x.tag + 1) (flags + if r.2 && !(flags / tSAT % 2 == 1) then tSAT else 0) })

/-! ## Passes -/

/-- Passes that touch common elements. -/
def Pass.hits (a b : Pass) : Bool := a.vidx == b.vidx && overlap a.coloff a.width b.coloff b.width

/-- A held partial of a tile set, if the entry is one. -/
def Held.part? : Held → Option Part
  | .part p => some p
  | .sum _ _ => none

/-- The partials of a core: in array stages and in the skim engine. -/
def State.parts (s : State) (c : Nat) : List Part :=
  (List.range 64).flatMap (fun a => (s.arr (c * 64 + a)).held.filterMap Held.part?) ++ (s.core c).parts

/-- Whether a partial belongs to a pass of a tile set. -/
def Part.of (p : Part) (gen : Nat) (x : Pass) : Bool :=
  p.gen == gen && p.vidx == x.vidx && p.coloff == x.coloff && p.pass == x.num

/-- Takes the partials that satisfy `p` away from a core. -/
def State.dropParts (s : State) (c : Nat) (p : Part → Bool) : State :=
  let keep := fun (h : Held) => match h with | .part x => !p x | .sum _ _ => true
  let s1 := (List.range 64).foldl (fun s a =>
    let x := s.arr (c * 64 + a)
    if x.held.all keep then s else s.setArr (c * 64 + a) { x with held := x.held.filter keep }) s
  let k := s1.core c
  if k.parts.any p then s1.setCore c { k with parts := k.parts.filter (fun x => !p x) } else s1

/-- The partials of a pass in ascending chain position, when all P are present (R106). -/
def State.passParts (s : State) (c : Nat) (t : Tile) (x : Pass) : Option (List Part) :=
  let l := (s.parts c).filter (fun p => p.of t.gen x)
  let o := (List.range t.p).filterMap (fun i => l.find? (fun p => p.chpos == i))
  if o.length = t.p then some o else none

/-- The first pass of a tile that can be added: all its partials present, and no earlier pass left that shares an element (R106, R107). -/
def firstReady (s : State) (c : Nat) (t : Tile) : List Pass → List Pass → Option (Pass × List Part)
  | _, [] => none
  | before, x :: r =>
    match (if before.any (fun y => y.hits x) then none else s.passParts c t x) with
    | some l => some (x, l)
    | none => firstReady s c t (before ++ [x]) r

/-- Whether a tile has a pass whose partials are all present and that can be added. -/
def State.reducible (s : State) (c : Nat) (t : Tile) : Bool := (firstReady s c t [] t.order).isSome

/-! ## Freeing -/

/-- Frees the tiles of a context that satisfy a condition and drops their partials. -/
def State.freeWhere (s : State) (i : Nat) (out : Tile → Bool) : State :=
  let gens := ((s.ctx i).tiles.filter out).map (fun t => t.gen)
  let s1 := s.onCtx i (fun c => { c with tiles := c.tiles.filter (fun t => !out t) })
  if gens.isEmpty then s1 else s1.dropParts (i / 4) (fun p => gens.contains p.gen)

/-- Frees every tile of a context and drops its partials (R187, R216). -/
def State.freeTiles (s : State) (i : Nat) : State := s.freeWhere i (fun _ => true)

/-- Whether every chain position has issued its MVX of a pass. A merge waits for such a pass and comes before one that only some positions have issued,
which R107 does not order (log entry 120). -/
def passIssued (t : Tile) (x : Pass) : Bool :=
  (List.range t.p).all (fun h => decide (Tab.getD t.issued (h + 16 * (x.vidx + 32 * x.coloff)) 0 > x.num))

/-- Whether a tile has a drain issued that will complete: no pass of it lacks the MVX of a chain position (R102, log entry 118). -/
def Tile.drains (t : Tile) : Bool := t.drain.isSome && t.order.all (passIssued t)

/-- What START frees: every tile but those whose issued drain goes on to complete, since what issued before a trap completes normally; a drain that never
would is given up with its tile (R187, R188; log entry 141). -/
def State.startFree (s : State) (i : Nat) : State :=
  let lost := ((s.ctx i).tiles.filter (fun t => !t.drains)).filterMap (fun t => t.drain.map (fun j => j.id))
  lost.foldl (fun u id => u.endWork i id) (s.freeWhere i (fun t => !t.drains))

/-- Frees one set of a tile. -/
def State.freeTile (s : State) (i gen : Nat) : State :=
  (s.onCtx i (fun c => { c with tiles := c.tiles.filter (fun t => t.gen != gen) })).dropParts (i / 4) (fun p => p.gen == gen)

/-- Whether all issued work of a context has completed, chain sums included (R187, R211, R216): works, loads,
SIGs, passes that can be added, and closes that can complete. -/
def State.quiet (s : State) (i : Nat) : Bool :=
  let c := s.ctx i
  c.works.isEmpty && c.loads.isEmpty && c.sigs.isEmpty && !s.aoPend i && c.tiles.all (fun t => !s.reducible (i / 4) t && (!t.closed || t.ready || !t.order.isEmpty))

/-! ## Records -/

/-- A header record (Table ACC-9). -/
def Tile.header (t : Tile) : List Byte :=
  leBytes 2 t.n ++ leBytes 1 t.v ++ leBytes 1 t.fmt ++ leBytes 1 t.e ++ leBytes 1 t.p ++ leBytes 1 (b2n t.shadow + 2 * b2n t.closed)
    ++ leBytes 1 t.id ++ leBytes 2 t.colbase.toNat ++ leBytes 1 0x80 ++ leBytes 1 t.lastCore ++ leBytes 4 t.ibase.toNat

/-- A slot record (Table ACC-9). -/
def slotRecord (core fmt n : Nat) (x : Slot) : List Byte :=
  leBytes 8 x.data.toNat ++ leBytes 2 x.tag.toNat ++ [0] ++ leBytes 1 core ++ leBytes 2 n ++ leBytes 2 fmt

/-- Reads every slot of a tile in ascending order: records, with ECC effects. -/
def slotRecords (i : Nat) (t : Tile) : List Nat → State → State × List Byte
  | [], s => (s, [])
  | n :: r, s =>
    let (s1, x) := s.slotRead i t n
    let (s2, bs) := slotRecords i t r s1
    (s2, slotRecord (i / 4) t.fmt n x ++ bs)

/-- The records of one tile. -/
def tileRecords (i : Nat) (t : Tile) (s : State) : State × List Byte :=
  let (s1, bs) := slotRecords i t (List.range t.size) s
  (s1, t.header ++ bs)

/-- The records of a list of tiles (R121). -/
def tilesRecords (i : Nat) : List Tile → State → State × List Byte
  | [], s => (s, [])
  | t :: r, s =>
    let (s1, a) := tileRecords i t s
    let (s2, b) := tilesRecords i r s1
    (s2, a ++ b)

/-- What parsing tile records gives: the tiles, or the offset of the first bad record and its tile id (R122). -/
inductive Parsed where
  | ok (ts : List Tile) (used : Nat)
  | bad (off id : Nat)
deriving DecidableEq, Repr

/-- Byte k of a record. -/
def bAt (r : List Byte) (k : Nat) : Nat := (r.getD k 0).toNat

/-- A number in a record. -/
def nAt (r : List Byte) (k n : Nat) : Nat := leNat ((r.drop k).take n)

/-- Whether a header record is well formed (R122, Table ACC-9): shape and format of R100, reserved bits 0. -/
def headerOk (r : List Byte) : Bool :=
  bAt r 10 == 0x80 && [64, 128, 256, 512].contains (nAt r 0 2) && decide (1 ≤ bAt r 2) && decide (bAt r 2 ≤ 32) && decide (bAt r 3 < 5)
    && decide (1 ≤ bAt r 4) && decide (1 ≤ bAt r 5) && decide (bAt r 5 ≤ 16) && decide (bAt r 6 < 4) && decide (bAt r 7 < 64)

/-- Whether a slot record fits a tile of a format and size. -/
def slotOk (r : List Byte) (fmt size : Nat) : Bool :=
  bAt r 10 == 0 && decide (bAt r 11 < 32) && bAt r 14 == fmt && bAt r 15 == 0 && decide (nAt r 12 2 < size) && decide (nAt r 8 2 < 2 ^ 13)

/-- The slot of a record. -/
def slotOfRec (r : List Byte) : Slot := ⟨BitVec.ofNat 64 (nAt r 0 8), BitVec.ofNat 16 (nAt r 8 2), none⟩

/-- The tile of a header record, without slots. -/
def tileOfRec (r : List Byte) : Tile :=
  ⟨bAt r 7, 0, nAt r 0 2, bAt r 2, bAt r 3, bAt r 4, bAt r 5, bAt r 6 % 2 == 1, BitVec.ofNat 32 (nAt r 12 4), BitVec.ofNat 16 (nAt r 8 2),
    bAt r 6 / 2 == 1, bAt r 6 / 2 == 1, none, bAt r 11, [], [], []⟩

/-- Parses `k` slot records into a tile, in any order; a second record for a slot leaves another slot without one, so the count does not match
(log entry 114). -/
def parseSlots (t : Tile) : Nat → Tab Bool → Nat → List Byte → Option Nat × Tile × List Byte
  | 0, _, _, l => (none, t, l)
  | k + 1, seen, off, l =>
    let r := l.take 16
    let n := nAt r 12 2
    if slotOk r t.fmt t.size && !Tab.getD seen n false then parseSlots (t.setSlot n (slotOfRec r)) k (Tab.insert seen n true) (off + 16) (l.drop 16)
    else (some off, t, l)

/-- Bytes of the records of `k` tiles, up to and with a header that is not well formed. -/
def recLen (m : Mem) : Nat → Nat → Nat
  | 0, _ => 0
  | k + 1, a =>
    let r := m.read a 16
    if !headerOk r then 16 else let n := 16 + 16 * (tileOfRec r).size; n + recLen m k (a + n)

/-- Parses `k` tiles from records that start at an offset. -/
def parseTiles : Nat → Nat → List Byte → Parsed
  | 0, _, _ => .ok [] 0
  | k + 1, off, l =>
    let r := l.take 16
    if !headerOk r then .bad off (bAt r 7 % 64) else
    let t := tileOfRec r
    match parseSlots t t.size [] (off + 16) (l.drop 16) with
    | (some o, _, _) => .bad o t.id
    | (none, t1, rest) =>
      match parseTiles k (off + 16 + 16 * t.size) rest with
      | .bad o i => .bad o i
      | .ok ts u => .ok (t1 :: ts) (u + 16 + 16 * t.size)

end Sys2Proof.Machine
end

