-- ==== Sys2Proof/Machine/Save.lean ====
section
/-!
DEFINITION. Saving and restoring tiles and contexts (R121, R122, R211 to R213, Table EXE-5), and output-stage records (R118).
-/
namespace Sys2Proof.Machine

/-! ## Output-stage records -/

/-- Fields of an output-stage record (Table ACC-8). -/
def OstSt.act (o : OstSt) : Nat := bits o.rcd 3 0
def OstSt.rtz (o : OstSt) : Bool := bit o.rcd 4
/-- The pooling: the reserved code 3, which only a resumed setting can hold, pools nothing (log entry 142). -/
def OstSt.pool (o : OstSt) : Nat := if bits o.rcd 9 8 = 3 then 0 else bits o.rcd 9 8
def OstSt.pavg (o : OstSt) : Bool := bit o.rcd 10
def OstSt.pa (o : OstSt) : W32 := BitVec.ofNat 32 (bits o.rcd 63 32)
def OstSt.pb (o : OstSt) : W32 := BitVec.ofNat 32 (bits o.rcd 95 64)
def OstSt.sbptr (o : OstSt) : Nat := bits o.rcd 127 96
def OstSt.pwlptr (o : OstSt) : Nat := bits o.rcd 159 128

/-- Vectors of a pooling window (R119). -/
def OstSt.window (o : OstSt) : Nat := if o.pool = 1 then 4 else if o.pool = 2 then 9 else 1

/-- Whether a reserved field of a record is not 0 (Table ACC-8). -/
def ostFields (o : OstSt) : Bool := bits o.rcd 7 5 != 0 || bits o.rcd 31 11 != 0 || bits o.rcd 255 160 != 0

/-- Whether a reserved field of a record is not 0, or a reserved code is used (Table ACC-8). -/
def ostReserved (o : OstSt) : Bool := ostFields o || bits o.rcd 9 8 == 3 || decide (o.act ≥ 9)

/-- The operand-format conditions of a record (R118), the table apart. -/
def ostFormatBad (o : OstSt) : Bool :=
  ostReserved o || (o.act == 2 && (f32IsNaN o.pa || f32IsNaN o.pb || (f32 o.pb).lt (f32 o.pa)))

/-- The address conditions of a record (R118). -/
def ostAddressBad (o : OstSt) : Bool :=
  o.sbptr % 8 != 0 || (o.act == 8 && (o.pwlptr % 16 != 0 || decide (o.pwlptr + 768 > 2 ^ 21)))

/-- An FP32 word of a piecewise-linear table: k 0 start, 1 slope, 2 intercept (R117). -/
def pwlWord (t : List Byte) (i k : Nat) : W32 := BitVec.ofNat 32 (leNat ((t.drop (12 * i + 4 * k)).take 4))

/-- Whether a table's values are not NaN and its starts strictly ascending (R118). -/
def pwlOk (t : List Byte) : Bool :=
  (List.range 64).all (fun i => (List.range 3).all (fun k => !f32IsNaN (pwlWord t i k)))
    && (List.range 63).all (fun i => (f32 (pwlWord t i 0)).lt (f32 (pwlWord t (i + 1) 0)))

/-- The core-buffer key of an offset for a core. -/
def cb (core a : Nat) : Nat := core * 2 ^ 21 + a

/-- The table a record names, read from the core buffer; empty under any other activation. -/
def pwlRead (s : State) (core : Nat) (o : OstSt) : List Byte := if o.act = 8 then s.bytes 1 (cb core o.pwlptr) 768 else []

/-! ## Tiles -/

/-- Remembers what a saved tile still waits for, by its header record's offset; what an earlier save left at that offset is forgotten (log entry 22). -/
def rememberTiles : List Tile → Nat → State → State
  | [], _, s => s
  | t :: r, a, s =>
    let s1 := { s with saves := if t.order.isEmpty then Tab.erase s.saves a else Tab.insert s.saves a { t with slots := [] } }
    rememberTiles r (a + 16 + 16 * t.size) s1

/-- Gives restored tiles back what they still waited for. -/
def recallTiles : List Tile → Nat → Nat → State → State × List Tile
  | [], _, _, s => (s, [])
  | t :: r, a, gen, s =>
    let (s1, x) := match Tab.find? s.saves a with
      | none => (s, { t with gen := gen })
      | some o =>
        if o.id = t.id ∧ o.n = t.n ∧ o.v = t.v ∧ o.fmt = t.fmt ∧ o.p = t.p then
          ({ s with saves := Tab.erase s.saves a }, { t with gen := o.gen, issued := o.issued, order := o.order, ready := t.closed && o.order.isEmpty })
        else (s, { t with gen := gen })
    let (s2, l) := recallTiles r (a + 16 + 16 * t.size) (gen + 128) s1
    (s2, x :: l)

/-- The number of a context's next slot set: unlike any other set's. -/
def Ctx.gen (c : Ctx) (i : Nat) : Nat := i + 128 * c.nextId

/-- The tiles of a context that a save writes: the active set of each id (R121). -/
def Ctx.saved (c : Ctx) : List Tile := c.tiles.filter (fun t => t.drain.isNone)

/-- Writes a context's tiles at a tank offset and frees them (R121); the partials of unfinished passes stay (log entry 22). -/
def saveTiles (i a : Nat) (s : State) : State :=
  let ts := (s.ctx i).saved
  let (s1, bs) := tilesRecords i ts s
  let s2 := rememberTiles ts a (s1.tankPut a bs (i / 4))
  s2.onCtx i (fun c => { c with tiles := [] })

/-- Bytes that a save of a context's tiles writes. -/
def saveLen (c : Ctx) : Nat := (c.saved.map (fun t => 16 + 16 * t.size)).foldl (fun a b => a + b) 0

/-- Whether a restored tile does not fit beside those the context holds: its id is open, or the share has no room (R122). -/
def misfits (s : State) (i : Nat) (held : List Tile) (t : Tile) : Bool :=
  held.any (fun x => x.id == t.id) || decide (s.share i < usedSlots (held ++ [t]))

/-- Whether restored tiles fit one after the other beside those the context holds (R122). -/
def tilesFit (s : State) (i : Nat) (ts : List Tile) : Bool := go (s.ctx i).tiles ts
where
  /-- The tiles held before, and those still to fit. -/
  go : List Tile → List Tile → Bool
    | _, [] => true
    | held, t :: r => !misfits s i held t && go (held ++ [t]) r

/-- The first of k header records whose tile does not fit, as its offset and tile id; none up to a header that is not well formed (R122, R124). -/
def firstMisfit (s : State) (i : Nat) : Nat → Nat → List Byte → List Tile → Option (Nat × Nat)
  | 0, _, _, _ => none
  | k + 1, off, l, held =>
    let r := l.take 16
    if !headerOk r then none else
    let t := tileOfRec r
    let n := 16 + 16 * t.size
    if misfits s i held t then some (off, t.id) else firstMisfit s i k (off + n) (l.drop n) (held ++ [t])

/-- ACC.REST's refusal beside its trap: ACC_ERR.RESTORE and event 0x0205 (R122). -/
def restoreBad (i a id : Nat) (s : State) : State :=
  (s.accErr i 5).raise 0x0205 2 (i / 4) (i / 4 + 2 ^ 16 * (i % 4) + 2 ^ 24 * id + 2 ^ 32 * a)

/-- Adds restored tiles to a context. -/
def putTiles (i a : Nat) (ts : List Tile) (s : State) : State :=
  let (s1, l) := recallTiles ts a ((s.ctx i).gen i) s
  s1.onCtx i (fun c => { c with tiles := c.tiles ++ l, nextId := c.nextId + ts.length })

/-! ## Contexts -/

/-- The save area of a context without its accumulator records (Table EXE-5). -/
def areaHead (i : Nat) (c : Ctx) : List Byte :=
  let ts := c.saved
  let slots := (ts.map (fun t => t.size)).foldl (fun a b => a + b) 0
  leBytes 2 0x5853 ++ leBytes 1 1 ++ leBytes 1 (b2n c.cur.isSome + 2 * b2n c.poison) ++ leBytes 1 (i / 4) ++ leBytes 3 0 ++ leBytes 8 c.pc.toNat
    ++ leBytes 1 (match c.cur with | some (st, _) => st | none => 0) ++ leBytes 3 0
    ++ leBytes 4 (match c.cur with | some (_, n) => n.toNat | none => 0) ++ leBytes 4 ts.length ++ leBytes 4 slots ++ leBytes 32 0
    ++ (List.range 32).flatMap (fun r => leBytes 8 (c.sreg r).toNat) ++ (List.range 16).flatMap (fun r => leBytes 32 (c.dreg r).toNat)
    ++ leBytes 1 c.p.toNat ++ leBytes 31 0 ++ leBytes 32 c.ost.rcd.toNat

/-- The whole save area, for a checkpoint (R334): records as they stand. -/
def areaBytes (i : Nat) (c : Ctx) : List Byte :=
  areaHead i c ++ c.saved.flatMap (fun t => t.header ++ (List.range t.size).flatMap (fun n => slotRecord (i / 4) t.fmt n (t.slot n)))

/-- Writes the save area of a context at a tank offset and frees its tiles (R211, R212). -/
def saveContext (i a : Nat) (s : State) : State :=
  saveTiles i (a + 896) (s.tankPut a (areaHead i (s.ctx i)) (i / 4))

/-- What a save area gives a context: registers, PC, current result, poison, setting; none where a field is wrong (R213). -/
def areaParse (core : Nat) (l : List Byte) : Option Ctx :=
  if nAt l 0 2 != 0x5853 || bAt l 2 != 1 || decide (bAt l 3 ≥ 4) || bAt l 4 != core || nAt l 5 3 != 0 || nAt l 17 3 != 0 || nAt l 32 32 != 0 || nAt l 833 31 != 0 then none
  else
    let sr := (List.range 31).foldl (fun t r => Tab.setD t (r + 1) 0 (BitVec.ofNat 64 (nAt l (64 + 8 * (r + 1)) 8))) ([] : Tab W64)
    let dr := (List.range 16).foldl (fun t r => Tab.setD t r 0 (BitVec.ofNat 256 (nAt l (320 + 32 * r) 32))) ([] : Tab (BitVec 256))
    some { Ctx.idle with s := sr, d := dr, p := BitVec.ofNat 8 (bAt l 832), pc := BitVec.ofNat 64 (nAt l 8 8), ost := ⟨BitVec.ofNat 256 (nAt l 864 32), []⟩, cur := if bAt l 3 % 2 = 1 then some (bAt l 16, BitVec.ofNat 32 (nAt l 20 4)) else none, poison := decide (bAt l 3 / 2 = 1) }

end Sys2Proof.Machine
end

