-- ==== Sys2Proof/Machine/Ost.lean ====
section
/-!
DEFINITION. The output stage (R115 to R120): scale and bias, activation, conversion, pooling, and the writing of rows of elements.
-/
namespace Sys2Proof.Machine

/-! ## Elements -/

/-- The maximum or minimum of two FP32 words by Table ACC-6, the earlier of equals. -/
def pick (mini : Bool) (a b : W32) : W32 :=
  let r := if wins mini (f32 a) 0 (f32 b) 1 then b else a
  if f32IsNaN r then f32NaN else r

/-- The segment of a piecewise-linear table that serves an input (R117). -/
def pwlSeg (t : List Byte) (y : W32) : Nat :=
  ((List.range 64).filter (fun i => !(f32 y).lt (f32 (pwlWord t i 0)))).length - 1

/-- The activation (Table ACC-7): the value, and whether it overflowed from finite operands (R115). A reserved code, which only a resumed setting can hold,
gives a free value (log entry 142). -/
def actApply (o : OstSt) (y : W32) : W32 × Bool :=
  if f32IsNaN y then (f32NaN, false) else
  match o.act with
  | 0 => (y, false)
  | 1 => (pick false y 0, false)
  | 2 => (pick true (pick false y o.pa) o.pb, false)
  | 3 => if (f32 y).lt (.fin false 0 1) then let r := fmul o.pa y; (r, ovf r o.pa y) else (y, false)
  | 8 =>
    let i := pwlSeg o.pwl y
    let m := pwlWord o.pwl i 1
    let c := pwlWord o.pwl i 2
    let r := ffma m y c
    (r, f32Inf r && f32Fin m && f32Fin y && f32Fin c)
  | a => (if a < 8 then smoothAct a y else openAt (64 + a) y, false)

/-- Whether a value is finite. -/
def Val.isFin : Val → Bool
  | .fin _ _ _ => true
  | _ => false

/-- Steps 1 and 2 of R115 on a value with its tag. -/
def outElem (o : OstSt) (sc bi : W32) (x : Val) (t : Nat) : W32 × Nat :=
  let y := toF32 ((x.mul (f32 sc)).add (f32 bi))
  let a := actApply o y
  (a.1, t ||| (if (f32Inf y && x.isFin && f32Fin sc && f32Fin bi) || a.2 then tSAT else 0))

/-- A scale-and-bias entry: scale, bias (R116). -/
def sbEntry (s : State) (core a : Nat) : W32 × W32 :=
  (BitVec.ofNat 32 (s.num 1 (cb core a) 4), BitVec.ofNat 32 (s.num 1 (cb core (a + 4)) 4))

/-! ## Conversion -/

/-- ORs SATURATE into a tag. -/
def satIf (t : Nat) (b : Bool) : Nat := if b then t ||| tSAT else t

/-- One block of a block-scaled row (R32). -/
def convBlock (fmt : Nat) (rtz : Bool) (els : List (W32 × Nat)) : CRow :=
  let b := blkConv fp32 fmt rtz (els.map (fun e => f32 e.1))
  let val := fun (q : Int) => toF32 ((Val.ofFr (Fr.ofInt q)).scale b.sexp)
  ⟨b.q.map (ofInt (fmtBits fmt)), [b.entry], b.q.map val, [], (els.zip b.sat).map (fun p => satIf p.1.2 p.2)⟩

/-- Joins the conversions of consecutive columns. -/
def CRow.join (a b : CRow) : CRow :=
  ⟨a.raws ++ b.raws, a.ents ++ b.ents, a.vals ++ b.vals, a.before ++ b.before, a.after ++ b.after⟩

/-- No columns. -/
def CRow.empty : CRow := ⟨[], [], [], [], []⟩

/-- Step 3 of R115 on a row of (value, tag) from a column at which a block begins. -/
def convRow (d : Desc) (rtz : Bool) (before : List Nat) (els : List (W32 × Nat)) : CRow :=
  if d.bsp = 0 then
    let cs := els.map (fun e => conv d.fmt rtz (f32 e.1))
    ⟨cs.map (fun c => c.1), [], cs.map (fun c => toF32 (decode d.fmt c.1)), before, (els.zip cs).map (fun p => satIf p.1.2 p.2.2)⟩
  else { ((chunks32 ((els.length + 31) / 32) els).map (convBlock d.fmt rtz)).foldl CRow.join .empty with before := before }

/-! ## Pooling (R119) -/

/-- The FP32 values nearest 1/4 and 1/9. -/
def poolScale (k : Nat) : W32 := if k = 4 then 0x3E800000 else 0x3DE38E39

/-- The pooled value of a window, and whether its sum overflowed. An average's product is rounded to FP32 before the conversion, which R119 does not say
(log entry 144). -/
def poolVal (avg : Bool) (l : List W32) : W32 × Bool :=
  match l with
  | [] => (0, false)
  | a :: r =>
    if avg then
      let p := r.foldl singleSum (a, false)
      (fmul p.1 (poolScale l.length), p.2)
    else (r.foldl (pick false) a, false)
where
  /-- One addition of the average's sum. -/
  singleSum (p : W32 × Bool) (b : W32) : W32 × Bool := let s := fadd p.1 b; (s, p.2 || ovf s p.1 b)

/-- The pooled row of a window of converted rows; INF and NAN of a pooled block-scaled row are set when a row of its window has them set (log entry
115). -/
def poolRows (o : OstSt) (d : Desc) (rows : List CRow) : CRow :=
  let n := (rows.map (fun r => r.vals.length)).foldl min ((rows.map (fun r => r.vals.length)).headD 0)
  let tag := fun (f : CRow → List Nat) j => (rows.map (fun r => (f r).getD j 0)).foldl (fun a b => a ||| b) 0
  let els := (List.range n).map (fun j =>
    let p := poolVal o.pavg (rows.map (fun r => r.vals.getD j 0))
    (p.1, satIf (tag CRow.after j) p.2))
  let c := convRow d o.rtz ((List.range n).map (tag CRow.before)) els
  { c with ents := (List.range c.ents.length).map (fun b => rows.foldl (fun e r => e ||| (r.ents.getD b 0 / 2 ^ 14 * 2 ^ 14)) (c.ents.getD b 0)) }

/-- The index of a window's winner, and of an average (R119, log entry 24). -/
def poolIx (o : OstSt) (l : List (W32 × W32)) : W32 :=
  if o.pavg then Config.poolIndex (l.map (fun p => p.2))
  else match l with
    | [] => 0
    | a :: r => (r.foldl (fun a b => if wins false (f32 a.1) a.2.toNat (f32 b.1) b.2.toNat then b else a) a).2

/-- A list cut into runs of k. -/
def runs {α : Type} (k : Nat) : Nat → List α → List (List α)
  | 0, _ => []
  | n + 1, l => l.take k :: runs k n (l.drop k)

/-! ## Rows in memory -/

/-- Row index of (i1, i2, i3) (R31). -/
def Desc.rowIx (d : Desc) (i1 i2 i3 : Nat) : Nat := (i3 * d.dim2 + i2) * d.dim1 + i1

/-- First byte of column c of a row at a byte offset. -/
def Desc.colLo (d : Desc) (ro c : Nat) : Nat := ro + c * fmtBits d.fmt / 8

/-- The byte after columns below c of a row. -/
def Desc.colHi (d : Desc) (ro c : Nat) : Nat := ro + (c * fmtBits d.fmt + 7) / 8

/-- Byte of the block-scale entry of block b of row rk (R228). -/
def Desc.entAt (d : Desc) (rk b : Nat) : Nat := 16 * d.bsp + 2 * (rk * d.blocks + b)

/-- Whether a tensor's space cannot be used, whichever elements are addressed: DRAM that is not fitted, or BSP outside the space (R229). -/
def Desc.spaceBad (d : Desc) (s : State) : Bool := d.noDram s || (d.bsp != 0 && decide (16 * d.bsp ≥ s.spSize d.sp))

/-- Whether columns below c1 of a row, or their block-scale entries, or BSP lie outside the space (R229). -/
def Desc.rowBad (d : Desc) (s : State) (ro rk c1 : Nat) : Bool :=
  decide (d.colHi ro c1 > s.spSize d.sp)
    || (d.bsp != 0 && (decide (16 * d.bsp ≥ s.spSize d.sp) || decide (d.entAt rk ((c1 + 31) / 32) > s.spSize d.sp)))

/-- The ranges of columns c0 to c1 of n rows, a stride apart, with their block-scale entries. -/
def Desc.rowRngs (d : Desc) (core ro rk n c0 c1 : Nat) : List Rng :=
  ⟨d.sp, spAddr core d.sp (d.colLo ro c0), (n - 1) * d.st1 + (d.colHi 0 c1 - d.colLo 0 c0)⟩ ::
    (if d.bsp = 0 then [] else
      [⟨d.sp, spAddr core d.sp (d.entAt rk (c0 / 32)), d.entAt (rk + n - 1) ((c1 + 31) / 32) - d.entAt rk (c0 / 32)⟩])

/-- The bytes of elements from column c0 of a row: a nibble beside INT4 elements keeps its value, the unused last one is 0 (R19). -/
def elemBytes (s : State) (core : Nat) (d : Desc) (ro c0 : Nat) (raws : List Nat) : List Byte :=
  if d.fmt ≠ 0 then packRow d.fmt raws else
  let old := fun c => ((s.memOf d.sp).byte (spAddr core d.sp (ro + c / 2))).toNat
  let c1 := c0 + raws.length
  packRow 0 ((if c0 % 2 = 1 then [old c0 % 16] else []) ++ raws ++ (if c1 % 2 = 1 ∧ c1 < d.dim0 then [old c1 / 16] else []))

/-- Writes bytes of a space; and whether its domain answered with an error, or a partly covered uncorrectable group kept its bytes (R254, R421). -/
def State.putBytes (s : State) (core port sp a : Nat) (bs : List Byte) : State × Bool :=
  if !s.spUp core sp then (s, true)
  else (s.writeFx sp (spAddr core sp a) bs port, s.partBadAt sp (spAddr core sp a) bs.length)

/-- Writes elements from column c0 of a row, and block-scale entries from block c0 / 32. -/
def State.putRow (s : State) (core port : Nat) (d : Desc) (ro rk c0 : Nat) (raws ents : List Nat) : State × Bool :=
  let r1 := s.putBytes core port d.sp (d.colLo ro c0) (elemBytes s core d ro c0 raws)
  if d.bsp = 0 then r1 else
  let r2 := r1.1.putBytes core port d.sp (d.entAt rk (c0 / 32)) (ents.flatMap (leBytes 2))
  (r2.1, r1.2 || r2.2)

/-- Whether a tag holds a flag. -/
def hasTag (t f : Nat) : Bool := t / f % 2 == 1

/-- Writes an output row (R120): POISON elements of a floating-point destination as the canonical NaN, the counters, and the poison flag. -/
def State.putOut (s : State) (i : Nat) (d : Desc) (ro rk c0 : Nat) (r : CRow) : State :=
  let core := i / 4
  let raws := (r.raws.zip r.after).map (fun p => if hasTag p.2 tPOISON && fmtFloat d.fmt then (fltOf d.fmt).nan else p.1)
  let w := s.putRow core core d ro rk c0 raws r.ents
  let np := (r.after.filter (fun t => hasTag t tPOISON)).length
  let ns := ((r.before.zip r.after).filter (fun p => hasTag p.2 tSAT && !hasTag p.1 tSAT)).length
  ((w.1.incReg (Reg.ACC_POISON_CNT core) np).incReg (Reg.ACC_SAT_CNT core) ns).poisonIf i (decide (np > 0) || w.2)

end Sys2Proof.Machine
end

