-- ==== Sys2Proof/Machine/Acc.lean ====
section
/-!
DEFINITION. The accumulator: opening, adding, merging, closing, draining, saving and restoring tiles (R99 to R124, R238).
-/
namespace Sys2Proof.Machine

/-- TILE of the accumulator instructions. -/
def fTILE (w : BitVec 56) : Nat := fw w 50 45

/-! ## ACC.OPEN and ACC.CLOSE -/

/-- ACC.OPEN legal: FMT not reserved, bits [11:0] 0. -/
def legalOpen (w : BitVec 56) : Bool := decide (fw w 37 35 < 5) && fw w 11 0 == 0

/-- The tile that an ACC.OPEN describes. -/
def openTile (c : Ctx) (i : Nat) (w : BitVec 56) : Tile :=
  ⟨fTILE w, c.gen i, 64 * 2 ^ fw w 44 43, fw w 42 38 + 1, fw w 37 35, fw w 34 27, fw w 26 23 + 1, bit w 22,
    BitVec.ofNat 32 (c.sreg (fw w 21 17)).toNat, BitVec.ofNat 16 (c.sreg (fw w 16 12)).toNat, false, false, none, 0xFF, [], [], []⟩

/-- The operand-format conditions of ACC.OPEN (R100, R101, R119). -/
def openBad (s : State) (i : Nat) (t : Tile) : Bool :=
  t.e == 0 || decide (s.share i < t.cost) || (decide (t.p > 1) && (t.fmt == 3 || t.fmt == 4)) || t.v % (s.ctx i).ost.window != 0

/-- Stalls the context at its instruction for a reason: 1 resource, 2 layer not resident, 3 + 16 a array a out of service. -/
def stallAt (i op reason : Nat) (w : BitVec 56) (s : State) : Res :=
  .stay (s.onCtx i (fun c => { c with st := .stall, hold := .stall (op + 256 * reason) w }))

/-- The body of ACC.OPEN: a new tile, the other set of a shadowed id whose drain has been issued, or a stall (R101, R104). A shadowed id that is being
drained, opened with another shape, format or shadow setting, stalls until the drain ends, which R104 does not state (log entry 117). -/
def openBody (i : Nat) (w : BitVec 56) (s : State) : Res :=
  let c := s.ctx i
  let t := openTile c i w
  let mine := c.tiles.filter (fun x => x.id == t.id)
  if openBad s i t then .trap 4
  else if mine.any (fun x => !x.closed || x.drain.isNone) then .trap 6
  else
    let add := fun (_ : Unit) => Res.ok (s.setCtx i { c with tiles := c.tiles ++ [t], nextId := c.nextId + 1 })
    match mine with
    | [] => if usedSlots (c.tiles ++ [t]) ≤ s.share i then add () else stallAt i 0x30 1 w s
    | [x] => if x.shadow && t.shadow && x.n == t.n && x.v == t.v && x.fmt == t.fmt then add () else stallAt i 0x30 1 w s
    | _ => stallAt i 0x30 1 w s

/-- ACC_OPEN. -/
def execAccOpen (k : CtxId) (w : BitVec 56) (s : State) : Out :=
  issue k w (legalOpen w) (sNeeds [fw w 21 17, fw w 16 12]) (openBody (ctxIx k) w) s

/-- ACC_CLOSE: the tile is closed from here on (R102, R238). -/
def execAccClose (k : CtxId) (w : BitVec 56) (s : State) : Out :=
  issue k w (fw w 44 0 == 0) [] (fun s =>
    let i := ctxIx k
    match (s.ctx i).tileWhere (fTILE w) (fun t => !t.closed) with
    | none => .trap 6
    | some t => .ok (s.onCtx i (fun c => c.putTile { t with closed := true }))) s

/-- Poisons every slot whose COUNT differs from E; and the first such slot with its COUNT (R102). -/
def closeSlots (t : Tile) : List Nat → Tile × Option (Nat × Nat)
  | [] => (t, none)
  | n :: r =>
    let (t1, f) := closeSlots t r
    let x := t1.slot n
    if tagCount x.tag = t.e then (t1, f) else (t1.setSlot n { x with tag := tagOr x.tag tPOISON }, some (n, tagCount x.tag))

/-- ACC_CLOSE_COMPLETE: every pass has been added. A pass that lacks the MVX of a chain position never is, so the close of its tile never completes
(log entry 118). -/
def execAccCloseComplete (k : CtxId) (tile : Fin 64) (s : State) : Out :=
  let i := ctxIx k
  .next (match (s.ctx i).tileWhere tile.val (fun t => t.closed && !t.ready && t.order.isEmpty) with
    | none => s
    | some t =>
      let (t1, f) := closeSlots t (List.range t.size)
      let s1 := s.onCtx i (fun c => c.putTile { t1 with ready := true })
      match f with
      | none => s1
      | some (n, cnt) => s1.incomplete i t cnt n)

/-! ## Chain sums -/

/-- The chain result and tags of one column of a pass (R106). -/
def chainCol (fmt : Nat) (l : List Part) (q : Nat) : Int × Pair × Nat :=
  let r := chainElem fmt (l.map (fun p => (p.vals.getD q 0, p.slow)))
  (r.1, r.2, satIf ((l.map (fun p => p.tags.getD q 0)).foldl (fun a b => a ||| b) 0) r.2.sat)

/-- Adds a pass to its tile, slot by slot (R95, R96, R107); `res` lists the columns whose FX48 addition meets a residue mismatch, which poisons them
(R285). -/
def addPass (i : Nat) (x : Pass) (l : List Part) (res : List Nat) : List Nat → State → Tile → State × Tile
  | [], s, t => (s, t)
  | q :: r, s, t =>
    let zero : Pair := ⟨0, 0, false⟩
    let (s1, t1) :=
      if t.fmt = 1 then
        let a := chainCol 1 l (2 * q)
        let b := chainCol 1 l (2 * q + 1)
        slotAdd i ((x.vidx * t.n + x.coloff) / 2 + q) (a.2.2 ||| b.2.2) 0 { a.2.1 with sat := false } { b.2.1 with sat := false } s t
      else
        let a := chainCol t.fmt l q
        let tag := if t.fmt = 0 && res.contains q then a.2.2 ||| tPOISON else a.2.2
        slotAdd i (x.vidx * t.n + x.coloff + q) tag a.1 { a.2.1 with sat := false } zero s t
    addPass i x l res r s1 t1

/-- Slots that a pass touches. -/
def passSlots (t : Tile) (x : Pass) : List Nat := List.range (if t.fmt = 1 then x.width / 2 else x.width)

/-- The first pass left of a tile for a vector and column offset, if it can be added now (R106, R107). -/
def passReady (s : State) (c : Nat) (t : Tile) (vidx coloff : Nat) : List Pass → List Pass → Option (Pass × List Part)
  | _, [] => none
  | before, x :: r =>
    if x.vidx = vidx ∧ x.coloff = coloff then
      (if before.any (fun y => y.hits x) then none else (s.passParts c t x).map (fun l => (x, l)))
    else passReady s c t vidx coloff (before ++ [x]) r

/-- Reduces the first pass that can be added of the listed sets. -/
def reduceFirst (i vidx coloff : Nat) (res : List Nat) : List Tile → State → State
  | [], s => s
  | t :: r, s =>
    match passReady s (i / 4) t vidx coloff [] t.order with
    | none => reduceFirst i vidx coloff res r s
    | some (x, l) =>
      let n := if t.fmt = 0 then (passSlots t x).countP res.contains else 0
      let (s1, t1) := addPass i x l res (passSlots t x) (s.residues (i / 4) 5 n) t
      let s2 := s1.onCtx i (fun c => c.putTile { t1 with order := t1.order.erase x })
      s2.dropParts (i / 4) (fun p => p.of t.gen x)

/-- CHAIN_REDUCE: the core accumulator adds the chain result of a vector's pass to a tile. -/
def execChainReduce (k : CtxId) (tile : Fin 64) (vidx : Fin 32) (coloff : Checked (Fin 512) (List Nat)) (s : State) : Out :=
  let i := ctxIx k
  .next (s.when (s.coreUp (i / 4))
    (reduceFirst i vidx.val coloff.arg.val coloff.fails ((s.ctx i).tiles.filter (fun t => t.id == tile.val)) s))

/-! ## Drains -/

/-- Reads slots in ascending order. -/
def readSlots (i : Nat) (t : Tile) : List Nat → State → State × List Slot
  | [], s => (s, [])
  | n :: r, s =>
    let (s1, x) := s.slotRead i t n
    let (s2, l) := readSlots i t r s1
    (s2, x :: l)

/-- 2^47 and the 48-bit limits (R97). -/
def lim48 (x : Int) : Int := max (-(2 ^ 47)) (min (2 ^ 47 - 1) x)

/-- The value of an element of a slot with its tag (R97, R98, R108). -/
def slotVal (fmt : Nat) (second : Bool) (x : Slot) : Val × Nat :=
  let t := bits x.tag 12 8 * 256
  match fmt with
  | 0 => (q8Val (lim48 x.data.toInt), satIf t (lim48 x.data.toInt != x.data.toInt))
  | 1 => (f32 (if second then hi32 x.data else lo32 x.data), t)
  | 2 =>
    let r := fadd (lo32 x.data) (hi32 x.data)
    (f32 r, satIf t (ovf r (lo32 x.data) (hi32 x.data)))
  | _ => (f32 (lo32 x.data), t)

/-- The slot of element (v, j). -/
def elemSlot (t : Tile) (l : List Slot) (v j : Nat) : Slot :=
  let e := v * t.n + j
  l.getD (if t.fmt = 1 then e / 2 else e) (slotEmpty t.fmt)

/-- Vectors after pooling. -/
def OstSt.outRows (o : OstSt) (v : Nat) : Nat := v / o.window

/-- Tags of the elements that use an unreadable scale-and-bias entry (R116). -/
def sbPoison (s : State) (core a t : Nat) : Nat := if s.bad 1 (cb core a) 8 then t ||| tPOISON else t

/-- The core-buffer offset of the entry of a tile column (R116). -/
def sbAt (o : OstSt) (t : Tile) (j : Nat) : Nat := o.sbptr + 8 * (t.colbase.toNat + j)

/-- One vector of a tile through steps 1 to 3 of R115; `res` lists the elements whose scale multiply meets a residue mismatch, which poisons them
(R285). -/
def drainVec (s : State) (core : Nat) (o : OstSt) (d : Desc) (t : Tile) (l : List Slot) (res : List Nat) (v : Nat) : CRow :=
  let els := (List.range t.n).map (fun j =>
    let x := slotVal t.fmt (j % 2 == 1) (elemSlot t l v j)
    let e := sbEntry s core (sbAt o t j)
    let p := sbPoison s core (sbAt o t j) x.2
    (outElem o e.1 e.2 x.1 (if res.contains (v * t.n + j) then p ||| tPOISON else p), x.2))
  convRow d o.rtz (els.map (fun e => e.2)) (els.map (fun e => e.1))

/-- The rows of a drain's outputs: pooled where the setting pools. -/
def drainRows (o : OstSt) (d : Desc) (rows : List CRow) : List CRow :=
  if o.pool = 0 then rows else (runs o.window (rows.length / o.window) rows).map (poolRows o d)

/-- The index rows of a MAXI or MINI drain: the winner of each window. -/
def indexRows (o : OstSt) (t : Tile) (l : List Slot) (rows : List CRow) : List (List W32) :=
  (List.range (o.outRows t.v)).map (fun k => (List.range t.n).map (fun j =>
    poolIx o ((List.range o.window).map (fun q =>
      ((rows.getD (k * o.window + q) .empty).vals.getD j 0, hi32 (elemSlot t l (k * o.window + q) j).data)))))

/-- Writes output rows from a row index on. -/
def putRows (i : Nat) (d : Desc) : Nat → List CRow → State → State
  | _, [], s => s
  | row, r :: rest, s => putRows i d (row + 1) rest (s.putOut i d (d.rowAt row 0 0) (d.rowIx row 0 0) 0 r)

/-- Writes index rows. -/
def putIndex (i : Nat) (d : Desc) : Nat → List (List W32) → State → State
  | _, [], s => s
  | row, r :: rest, s =>
    let w := s.putRow (i / 4) (i / 4) d (d.rowAt row 0 0) (d.rowIx row 0 0) 0 (r.map (fun x => x.toNat)) []
    putIndex i d (row + 1) rest (w.1.poisonIf i w.2)

/-- A drain in mode 0 (R115, R116, R119, R120). -/
def drainOut (i : Nat) (t : Tile) (j : DrainJob) (res : List Nat) (s : State) : State :=
  let core := i / 4
  let d := descOf j.dout
  let (s0, l) := readSlots i t (List.range t.size) s
  let s1 := s0.residues core 6 ((List.range (t.v * t.n)).countP res.contains)
  let rows := (List.range t.v).map (drainVec s core j.ost d t l res)
  let s2 := s1.readFx 1 (cb core (sbAt j.ost t 0)) (8 * t.n) core 0
  let s3 := putRows i d j.row (drainRows j.ost d rows) s2
  if t.fmt < 3 then s3 else putIndex i (descOf j.dx) j.row (indexRows j.ost t l rows) s3

/-- A drain in mode 1: slot records to the tank (R112). -/
def drainPartial (i : Nat) (t : Tile) (j : DrainJob) (s : State) : State :=
  let (s1, bs) := slotRecords i t (List.range t.size) s
  let w := s1.putBytes (i / 4) (i / 4) 0 (descOf j.dout).base bs
  w.1.poisonIf i w.2

/-- ACC_DRAIN_COMPLETE: the oldest closed set with a drain issued, once its close has completed and earlier accesses of its context let it read and
write (R102, R103, R205). -/
def execAccDrainComplete (k : CtxId) (tile : Checked (Fin 64) (List Nat)) (s : State) : Out :=
  let i := ctxIx k
  .next (s.when (s.coreUp (i / 4)) (match (s.ctx i).tileWhere tile.arg.val (fun t => t.ready && t.drain.isSome) with
    | none => s
    | some t => match t.drain with
      | none => s
      | some j =>
        if !(s.ctx i).readClear j.id || !(s.ctx i).writeClear j.id then s else
        let s1 := if j.partial' then drainPartial i t j s else drainOut i t j tile.fails s
        ((s1.incWrap (Reg.ACC_DRAIN_CNT (i / 4)) 1).freeTile i t.gen).endWork i j.id))

/-- The MODE of an ACC.DRAIN. -/
def drainMode (w : BitVec 56) : Nat := fw w 44 43

/-- Whether a drain's destination for the rows does not fit (operand-format). -/
def drainFormat (t : Tile) (o : OstSt) (d : Desc) (row : Nat) : Bool :=
  d.formatBad || decide (d.dim0 < t.n) || decide (d.dim1 < row + o.outRows t.v)

/-- Whether a drain's rows lie outside their space. -/
def drainAddress (s : State) (t : Tile) (o : OstSt) (d : Desc) (row : Nat) : Bool :=
  d.spaceBad s || (List.range (o.outRows t.v)).any (fun v => d.rowBad s (d.rowAt (row + v) 0 0) (d.rowIx (row + v) 0 0) t.n)

/-- The trap of a mode 0 drain, if any (Table INS-11). -/
def drainTrap (s : State) (i : Nat) (t : Tile) (d x : Desc) (row : Nat) : Option Nat :=
  let o := (s.ctx i).ost
  if drainFormat t o d row || (decide (t.fmt ≥ 3) && (drainFormat t o x row || x.fmt != 7)) then some 4
  else if drainAddress s t o d row || (decide (t.fmt ≥ 3) && drainAddress s t o x row)
      || decide (sbAt o t t.n > 2 ^ 21) then some 3
  else none

/-- Issues a drain on a set. -/
def drainIssue (i : Nat) (t : Tile) (part : Bool) (dout dx : BitVec 256) (row : Nat) (rd wr : List Rng) (s : State) : Res :=
  let c := s.ctx i
  let c1 := (c.addWork rd wr true false).putTile { t with drain := some ⟨c.nextId, part, dout, dx, row, c.ost⟩ }
  .ok (s.setCtx i c1)

/-- The set an ACC.DRAIN names: closed with no drain issued. -/
def drainSet (c : Ctx) (id : Nat) : Option Tile := c.tileWhere id (fun t => t.closed && t.drain.isNone)

/-- The body of an ACC.DRAIN in mode 0. On a closed tile whose drain has been issued it traps with the tile-state cause, where R103 names a tile that is
not closed (log entry 119). -/
def drainBody (i : Nat) (w : BitVec 56) (s : State) : Res :=
  let c := s.ctx i
  let d := descOf (c.dreg (fw w 42 39))
  let x := descOf (c.dreg (fw w 38 35))
  let row := (c.sreg (fw w 34 30)).toNat
  match c.tile (fTILE w) with
  | none => if d.formatBad then .trap 4 else if d.spaceBad s then .trap 3 else .trap 6
  | some t0 =>
    let t := (drainSet c (fTILE w)).getD t0
    match drainTrap s i t d x row with
    | some n => .trap n
    | none =>
      if !t.closed || t.drain.isSome then .trap 6 else
      let n := c.ost.outRows t.v
      let wr := d.rowRngs (i / 4) (d.rowAt row 0 0) (d.rowIx row 0 0) n 0 t.n
      let wx := if t.fmt < 3 then [] else x.rowRngs (i / 4) (x.rowAt row 0 0) (x.rowIx row 0 0) n 0 t.n
      let rd := [⟨1, cb (i / 4) (sbAt c.ost t 0), 8 * t.n⟩]
      drainIssue i t false (c.dreg (fw w 42 39)) (c.dreg (fw w 38 35)) row rd (wr ++ wx) s

/-- The body of an ACC.DRAIN in mode 1: DO gives BASE and SPACE only (R112). -/
def partialBody (i : Nat) (w : BitVec 56) (s : State) : Res :=
  let c := s.ctx i
  let d := descOf (c.dreg (fw w 42 39))
  if d.sp ≠ 0 then .trap 4 else
  match c.tile (fTILE w) with
  | none => if d.base % 16 ≠ 0 ∨ d.base ≥ 2 ^ 27 then .trap 3 else .trap 6
  | some t0 =>
    let t := (drainSet c (fTILE w)).getD t0
    if d.base % 16 ≠ 0 ∨ d.base + 16 * t.size > 2 ^ 27 then .trap 3
    else if !t.closed || t.drain.isSome then .trap 6
    else drainIssue i t true (c.dreg (fw w 42 39)) 0 0 [] [⟨0, d.base, 16 * t.size⟩] s

/-- ACC.DRAIN legal: MODE not reserved, bits [29:0] 0. -/
def legalDrain (w : BitVec 56) : Bool := decide (drainMode w < 2) && fw w 29 0 == 0

/-- Registers that an ACC.DRAIN reads. -/
def drainNeeds (w : BitVec 56) : List LoadDst := sNeeds [fw w 34 30] ++ dNeeds [fw w 42 39, fw w 38 35]

/-- ACC_DRAIN: MODE 0, or a reserved MODE, which is illegal. -/
def execAccDrain (k : CtxId) (w : BitVec 56) (s : State) : Out :=
  if drainMode w = 1 then .next s else issue k w (legalDrain w) (drainNeeds w) (drainBody (ctxIx k) w) s

/-- ACC_DRAIN_PARTIAL: MODE 1, or a reserved MODE. -/
def execAccDrainPartial (k : CtxId) (w : BitVec 56) (s : State) : Out :=
  if drainMode w = 0 then .next s else issue k w (legalDrain w) (drainNeeds w) (partialBody (ctxIx k) w) s

/-! ## ACC.SAVE and ACC.REST -/

/-- ACC_SAVE: holds issue until every MVX, merge and drain of the context has completed (R121). -/
def execAccSave (k : CtxId) (w : BitVec 56) (s : State) : Out :=
  issue k w (fw w 40 0 == 0) (sNeeds [fRA w]) (fun s =>
    let i := ctxIx k
    let c := s.ctx i
    let a := (c.sreg (fRA w)).toNat
    if a % 16 ≠ 0 ∨ a + saveLen c > 2 ^ 27 then .trap 3
    else .ok (s.setCtx i { c with hold := .save (fRD w) a })) s

/-- ACC_SAVE_COMPLETE: the records are written, the tiles freed, s[RD] ← bytes written; a pre-emption that waited goes on (R211). -/
def execAccSaveComplete (k : CtxId) (s : State) : Out :=
  let i := ctxIx k
  .next (match (s.ctx i).hold with
    | .save rd a =>
      if s.quiet i then
        let n := saveLen (s.ctx i)
        (saveTiles i a s).onCtx i (fun c => (c.setS rd (BitVec.ofNat 64 n)).freed)
      else s
    | _ => s)

/-- A refused ACC.REST: ACC_ERR.RESTORE, event 0x0205 and the trap (R122). -/
def restRefuse (i a id : Nat) (s : State) : Res := .stay ((restoreBad i a id s).trap i 4)

/-- The body of ACC.REST in mode 0 (R122): the records are looked at once the context's own writes to them have landed (R205). More than 64 tiles never
fit, since a context has 64 ids, so the 65th header is refused at the latest. -/
def restBody (i : Nat) (w : BitVec 56) (s : State) : Res :=
  let c := s.ctx i
  let a := (c.sreg (fw w 43 39)).toNat
  let k := min 65 (c.sreg (fw w 38 34)).toNat
  if a > 2 ^ 27 then .trap 3 else
  let len := recLen s.mem.tank k a
  let bs := s.bytes 0 a len
  if !(c.writers ⟨0, a, len⟩).isEmpty then .hold else
  let refuse := fun (o id : Nat) => if a + o + 16 > 2 ^ 27 then Res.trap 3 else restRefuse i (a + o) id s
  match parseTiles k 0 bs, firstMisfit s i k 0 bs c.tiles with
  | .bad o id, none => refuse o id
  | .bad o id, some (o2, id2) => if o2 < o then refuse o2 id2 else refuse o id
  | .ok _ _, some (o2, id2) => refuse o2 id2
  | .ok ts _, none =>
    if a + len > 2 ^ 27 then .trap 3
    else
      let bad := s.bad 0 a len
      .ok ((putTiles i a ts (s.readFx 0 a len (i / 4) 0)).poisonIf i bad)

/-- Adds one record to a slot (R112). -/
def mergeSlot (i : Nat) (hit : List Nat) (r : List Byte) (s : State) (t : Tile) : State × Tile :=
  let n := nAt r 12 2
  let y := slotOfRec r
  let (s1, x) := s.slotRead i t n
  let cnt := tagCount x.tag + tagCount y.tag
  if cnt > 255 then (s1.incomplete i t (tagCount x.tag) n, t.setSlot n { x with tag := tagOr x.tag tPOISON })
  else
    let res : W64 × Bool := match t.fmt with
      | 0 => (x.data + y.data, false)
      | 1 => let p := singleAdd ⟨lo32 x.data, 0, false⟩ ⟨lo32 y.data, 0, false⟩
             let q := singleAdd ⟨hi32 x.data, 0, false⟩ ⟨hi32 y.data, 0, false⟩
             (join32 p.s q.s, p.sat || q.sat)
      | 2 => let p := pairAdd ⟨lo32 x.data, hi32 x.data, false⟩ ⟨lo32 y.data, hi32 y.data, false⟩
             (join32 p.s p.c, p.sat)
      | m => (winPair (m == 4) x.data (lo32 y.data) (hi32 y.data), false)
    let flags := satIf ((bits x.tag 12 8 * 256) ||| (bits y.tag 12 8 * 256) ||| (if hit.contains n then tPOISON else 0)) res.2
    (s1, t.setSlot n ⟨res.1, BitVec.ofNat 16 (cnt ||| flags), none⟩)

/-- Adds records in their order. -/
def mergeAll (i : Nat) (hit : List Nat) : List (List Byte) → State → Tile → State × Tile
  | [], s, t => (s, t)
  | r :: rest, s, t => let p := mergeSlot i hit r s t; mergeAll i hit rest p.1 p.2

/-- Whether a record fits the tile of a merge (R113). -/
def mergeOk (t : Tile) (r : List Byte) : Bool := slotOk r t.fmt t.size

/-- The body of ACC.REST in mode 1: it waits for the context's own writes to the records, which it then looks at, and for the passes before it in program
order (R107, R112, R113, R205); `res` lists the slots whose FX48 merge meets a residue mismatch, which poisons them (R285). -/
def mergeBody (i : Nat) (w : BitVec 56) (res : List Nat) (s : State) : Res :=
  let c := s.ctx i
  let a := (c.sreg (fw w 43 39)).toNat
  match c.tile (fTILE w) with
  | none => if a ≥ 2 ^ 27 then .trap 3 else .trap 6
  | some t =>
    let len := 16 * t.size
    if a + len > 2 ^ 27 then .trap 3 else
    if !(c.writers ⟨0, a, len⟩).isEmpty then .hold else
    let recs := runs 16 t.size (s.bytes 0 a len)
    if !recs.all (mergeOk t) then .trap 4
    else if t.closed then .trap 6
    else if recs.any (fun r => decide (bAt r 11 ≤ i / 4) || (t.lastCore != 0xFF && decide (bAt r 11 ≤ t.lastCore))) then .trap 7
    else if t.order.any (passIssued t) then .hold
    else
      let bad := s.bad 0 a len
      let hit := if t.fmt = 0 then res else []
      let p := mergeAll i hit recs ((s.readFx 0 a len (i / 4) 0).residues (i / 4) 5 ((List.range t.size).countP hit.contains)) t
      .ok ((p.1.onCtx i (fun c => c.putTile { p.2 with lastCore := (recs.map (fun r => bAt r 11)).foldl max 0 })).poisonIf i bad)

/-- ACC.REST legal: bits [33:0] 0. -/
def legalRest (w : BitVec 56) : Bool := fw w 33 0 == 0

/-- ACC_REST: MODE 0. -/
def execAccRest (k : CtxId) (w : BitVec 56) (s : State) : Out :=
  if bit w 44 then .next s else issue k w (legalRest w) (sNeeds [fw w 43 39, fw w 38 34]) (restBody (ctxIx k) w) s

/-- ACC_REST_MERGE: MODE 1. -/
def execAccRestMerge (k : CtxId) (w : Checked (BitVec 56) (List Nat)) (s : State) : Out :=
  if !bit w.arg 44 then .next s
  else issue k w.arg (legalRest w.arg) (sNeeds [fw w.arg 43 39, fw w.arg 38 34]) (mergeBody (ctxIx k) w.arg w.fails) s

/-! ## OST.CFG -/

/-- The body of OST.CFG (R118): the record, and then the table that it names, are looked at once the context's own writes to them have landed (R205). -/
def ostBody (i : Nat) (w : BitVec 56) (s : State) : Res :=
  let c := s.ctx i
  let core := i / 4
  let a := (c.sreg (fRD w) + sext32 (fIMM w)).toNat
  if a % 32 ≠ 0 ∨ a + 32 > 2 ^ 21 then .trap 3 else
  if !(c.writers ⟨1, cb core a, 32⟩).isEmpty then .hold else
  let o : OstSt := ⟨BitVec.ofNat 256 (s.num 1 (cb core a) 32), []⟩
  let tabBad := o.pwlptr % 16 != 0 || decide (o.pwlptr + 768 > 2 ^ 21)
  let pwl := o.act == 8
  if ostFormatBad o then .trap 4
  else if pwl && !tabBad && !(c.writers ⟨1, cb core o.pwlptr, 768⟩).isEmpty then .hold
  else if pwl && !tabBad && !pwlOk (pwlRead s core o) then
    .stay (((s.accErr i 4).raise 0x0204 1 core (core + 2 ^ 16 * (i % 4) + 2 ^ 32 * o.pwlptr)).trap i 4)
  else if ostAddressBad o then .trap 3
  else
    let bad := s.bad 1 (cb core a) 32 || (pwl && s.bad 1 (cb core o.pwlptr) 768)
    let s1 := s.readFx 1 (cb core a) 32 core 0
    let s2 := if pwl then s1.readFx 1 (cb core o.pwlptr) 768 core 0 else s1
    .ok ((s2.onCtx i (fun c => { c with ost := ⟨o.rcd, pwlRead s core o⟩ })).poisonIf i bad)

/-- OST_CFG. -/
def execOstCfg (k : CtxId) (w : BitVec 56) (s : State) : Out :=
  issue k w (fw w 45 32 == 0) (sNeeds [fRD w]) (ostBody (ctxIx k) w) s

/-! ## Registers -/

/-- Whether a context of the core holds a tile or is in an ACC.SAVE. -/
def accBusy (s : State) (c : Nat) : Bool :=
  [0, 1, 2, 3].any (fun n =>
    let x := s.ctx (4 * c + n)
    !x.tiles.isEmpty || (match x.hold with | .save _ _ => true | _ => false))

/-- ACC_PART_WRITE (R123). -/
def execAccPartWrite (who : Who) (c : CoreId) (v : W32) (s : State) : Out :=
  .next (s.access who (Reg.ACC_PART c.val) (fun s =>
    let ovl := decide (bits v 7 0 + bits v 15 8 + bits v 23 16 + bits v 31 24 > 32)
    if ovl || accBusy s c.val then
      (s.orReg (Reg.ACC_ERR c.val) (if ovl then 2 else 1)).raise 0x0206 1 c.val (c.val + 2 ^ 32 * v.toNat)
    else s.setReg (Reg.ACC_PART c.val) v))

/-- ACC_CLR_CNT. -/
def execAccClrCnt (who : Who) (c : CoreId) (s : State) : Out :=
  .next (s.access who (Reg.ACC_CMD c.val) (fun s =>
    (((s.setReg (Reg.ACC_ECC_CNT c.val) 0).setReg (Reg.ACC_POISON_CNT c.val) 0).setReg (Reg.ACC_SAT_CNT c.val) 0).rearm (keyAccEcc c.val)))

end Sys2Proof.Machine
end

