-- ==== Sys2Proof/Machine/Field.lean ====
section
/-!
DEFINITION. Actuation authority and what follows it (R329, R330, R383), the safe state (R369 to R373, R498), and which queued CAN frame a controller
offers (R382).
-/
namespace Sys2Proof.Machine

/-- Changes the actuation block. -/
def State.onAct (s : State) (f : ActSt → ActSt) : State := { s with act := f s.act }

/-- Whether the device holds actuation authority (R329). -/
def State.auth (s : State) : Bool := s.up 7 && s.pair.prim && !s.pair.window

/-! ## The safe state -/

/-- Whether a cause of the safe state holds (R370). -/
def State.safeCause (s : State) : Bool := s.act.stop || s.act.stopL || !s.auth || s.rbit Reg.ACT_SAFE 5 || s.act.vflow

/-- ACT_SAFE as it reads (Table ACT-3). -/
def State.actSafe (s : State) : Nat :=
  b2n s.act.safe + 2 * b2n s.act.stop + 4 * b2n s.act.stopL + 8 * b2n s.auth + 16 * b2n s.act.vflow + 32 * b2n (s.rbit Reg.ACT_SAFE 5)

/-- Every current output at 0 mA and every PWM output released: codes and duties read 0 and none is driven again before its next write (R369, R372,
R373). A code that waits for its tick is not remembered. -/
def outputsOff (s : State) : State :=
  let s1 := (List.range 8).foldl (fun t n => (t.setReg (Reg.ACT_AO_CODE n) 0).setReg (Reg.ACT_PWM_DUTY n) 0) s
  s1.onAct (fun a => { a with safe := true, level := [], drv := [], pwmOn := [], aoq := a.aoq.map (fun w => { w with dead := true }) })

/-- The safe state follows its causes: it begins with event 0x0902, or ends (R370, R372, R498). -/
def safeSync (s : State) : State :=
  if !s.up 8 then s
  else if s.safeCause && !s.act.safe then
    let s1 := outputsOff s
    s1.raise 0x0902 1 0x700 s1.actSafe
  else if !s.safeCause && s.act.safe then s.onAct (fun a => { a with safe := false })
  else s

/-! ## CAN queues -/

/-- A controller. -/
def State.can (s : State) (n : Nat) : CanSt := Tab.getD s.act.can n ⟨[], [], false, false, none⟩

/-- Replaces a controller. -/
def State.setCan (s : State) (n : Nat) (x : CanSt) : State :=
  s.onAct (fun a => { a with can := Tab.setD a.can n ⟨[], [], false, false, none⟩ x })

/-- Whether a controller is enabled. -/
def State.canOn (s : State) (n : Nat) : Bool := s.up 8 && s.rbit Reg.ACT_EN (12 + n)

/-- The arbitration field of a frame as a number, dominant bits as 0: the lower wins (R382). -/
def arbKey (f : CanFrame) : Nat :=
  if f.ide then f.id.toNat / 2 ^ 18 * 2 ^ 21 + 2 ^ 20 + 2 ^ 19 + f.id.toNat % 2 ^ 18 * 2 + b2n f.rtr
  else f.id.toNat % 2 ^ 11 * 2 ^ 21 + b2n f.rtr * 2 ^ 20

/-- The oldest frame of each source, in queue order (R382). -/
def candidates (l : List CanTx) : List CanTx :=
  (l.foldl (fun (p : List Nat × List CanTx) x => if p.1.contains x.src then p else (x.src :: p.1, x :: p.2)) ([], [])).2.reverse

/-- The candidate that would win arbitration; on a tie the one queued first. -/
def winner (l : List CanTx) : Option CanTx :=
  (candidates l).foldl (fun b x => match b with
    | none => some x
    | some y => if arbKey x.frame < arbKey y.frame then some x else some y) none

/-- Whether a controller offers frames to its bus: enabled, not listen-only, not bus-off (R381, R384). -/
def State.canOffers (s : State) (n : Nat) : Bool :=
  s.canOn n && s.fld (Reg.CAN_CFG n) 1 0 != 1 && s.fld (Reg.CAN_STAT n) 1 0 != 2

/-- The frame that a controller offers may have begun its transmission by now; it then stays on the bus until it ends (R382, R383). -/
def canBegin (n : Nat) (s : State) : State :=
  let x := s.can n
  if s.canOffers n && x.bus.isNone && Config.canBegun n (Tab.getD s.cnt.can n 0) then s.setCan n { x with bus := winner x.tx } else s

/-- Discards the queued frames of a controller that have not begun transmission, and counts them (R383, R389): the state, and how many. -/
def canDiscard (n : Nat) (s0 : State) : State × Nat :=
  let s := canBegin n s0
  let x := s.can n
  let keep := x.bus.toList
  let k := x.tx.length - keep.length
  ((s.setCan n { x with tx := keep }).incReg (Reg.CAN_TXDROP_CNT n) k, k)

/-! ## Authority -/

/-- Writes the authority word when HLK_AUTHW.EN is 1 (R330). -/
def authWord (s : State) : State :=
  if s.rbit Reg.HLK_AUTHW 31 && s.up 4 then s.tankPut (4 * s.fld Reg.HLK_AUTHW 24 0) (leBytes 4 (b2n s.auth)) pairPort else s

/-- Loss of authority at the controllers: frames not yet in transmission are discarded, with event 0x0907 (R383). -/
def dropFrames (s : State) : State :=
  (List.range 4).foldl (fun t n =>
    let (t1, k) := canDiscard n t
    t1.raiseIf (decide (0 < k)) 0x0907 1 0x700 (n + 2 ^ 16 * k)) s

/-- What follows a change of authority since a moment when it was `was`: the authority word, the CAN queues at a loss, the safe state (R330, R370,
R383). -/
def authSync (was : Bool) (s : State) : State :=
  if s.auth = was then s
  else
    let s1 := authWord s
    safeSync (if was && s1.up 8 then dropFrames s1 else s1)

end Sys2Proof.Machine
end

