-- ==== Sys2Proof/Machine/Nvs.lean ====
section
/-!
DEFINITION. The non-volatile store (chapter NVS): reads, the journal, A/B records, channels and the event log.
-/
namespace Sys2Proof.Machine

/-! ## Reads -/

/-- The perturbation armed in a register of the TST block (R306). -/
def State.pertAt (s : State) (off : Nat) : Option Pert := Tab.find? s.pert off

/-- Sets the perturbations that are armed: ARM of a register reads 0 while it is not armed, and TST_HEALTH.PERTURB clears when none is
(Tables DEP-7 and DEP-10). -/
def State.setPert (s : State) (t : Tab Pert) : State :=
  let s1 := [0x84, 0x88, 0x8C, 0x90, 0x94, 0x98, 0x9C].foldl (fun u o =>
    if (Tab.find? t o).isSome then u else u.clrReg (Reg.TST_MR_CFG + o) (2 ^ 31)) { s with pert := t }
  if t.isEmpty then s1.clrReg Reg.TST_HEALTH 64 else s1

/-- Spends one use of a perturbation: it disarms itself after its last use (R306). -/
def State.usePert (s : State) (off : Nat) : State :=
  match s.pertAt off with
  | none => s
  | some p => match p.left with
    | none => s
    | some n => if n ≤ 1 then s.setPert (Tab.erase s.pert off)
                else { s with pert := Tab.insert s.pert off { p with left := some (n - 1) } }

/-- One corrected group of a read: NVS_ECC_CNT and event 0x0602 at its threshold (R400, R410). -/
def State.nvsCorrected (s : State) : State :=
  let s1 := s.incReg Reg.NVS_ECC_CNT 1
  let c := (s1.reg Reg.NVS_ECC_CNT).toNat
  let thr := (s1.reg Reg.NVS_ECC_THR).toNat
  if thr ≠ 0 ∧ c ≥ thr then s1.raiseOnce 0x0602 0x0602 1 0x400 (2 ^ 32 * c) else s1

/-- One uncorrectable group of a read (R400). -/
def State.nvsUncorrectable (s : State) (reader g : Nat) : State :=
  (((s.incReg Reg.NVS_UNC_CNT 1).setReg Reg.NVS_UNC_LAST (BitVec.ofNat 32 (g + 2 ^ 16 * reader + 2 ^ 31))).raise 0x0601 2 0x400
    (g + 2 ^ 16 * reader))

/-- The errors a read of a range meets: group and whether uncorrectable, an armed TST_NVSE among them (R306, R400). -/
def State.nvsErrs (s : State) (off len : Nat) : List (Nat × Bool) :=
  let inj := match s.pertAt 0x94 with
    | none => []
    | some p => let g := bits p.val 14 0
      if overlap (8 * g) 8 off len then [(g, bit p.val 16)] else []
  s.mem.nvs.ecc.filter (fun e => overlap (8 * e.1) 8 off len) ++ inj

/-- The effects of reading a range of the store by a reader (0 and 1 channels, 2 window, 3 controller). -/
def State.nvsRead (s : State) (reader off len : Nat) : State :=
  let es := s.nvsErrs off len
  let s1 := match s.pertAt 0x94 with
    | none => s
    | some p => if overlap (8 * bits p.val 14 0) 8 off len then s.setPert (Tab.erase s.pert 0x94) else s
  es.foldl (fun s e => if e.2 then s.nvsUncorrectable reader e.1 else s.nvsCorrected) s1

/-- Whether a read of a range returns an uncorrectable group. -/
def State.nvsUnc (s : State) (off len : Nat) : Bool := (s.nvsErrs off len).any (fun e => e.2)

/-! ## The journal -/

/-- Programs store bytes; a group whose contents change becomes good (R393, R400). -/
def nvsProgram (m : Mem) (off : Nat) (bs : List Byte) : Mem :=
  let m1 := m.writeRaw off bs
  { m1 with ecc := m.ecc.filter (fun e => !(overlap (8 * e.1) 8 off bs.length && m.read (8 * e.1) 8 != m1.read (8 * e.1) 8)) }

/-- Offset of journal slot k (R394). -/
def slotOff (k : Nat) : Nat := 0x18000 + 128 * k

/-- STATE values of a journal slot (Table NVS-1). -/
def slotValid : Nat := 0x0F0F0F0F0F0F0F0F
/-- DONE. -/
def slotDone : Nat := 0xF0F0F0F0F0F0F0F0

/-- The data page and header of a slot: target page, sequence, STATE and the 64 new bytes (Table NVS-1). -/
def slotBytes (page seq state : Nat) (data : List Byte) : List Byte :=
  let h := leBytes 2 page ++ leBytes 2 0 ++ leBytes 4 seq
  data ++ h ++ leBytes 4 (crc32c (h ++ data)) ++ leBytes 4 0 ++ leBytes 8 state ++ leBytes 40 0

/-- The 64 new bytes of the target page of a job: the page as stored with the job's bytes laid over it. -/
def jobPage (m : Mem) (j : PageJob) : List Byte :=
  let base := 64 * (j.off / 64)
  let d := j.off % 64
  ((m.read base 64).take d ++ j.data ++ (m.read base 64).drop (d + j.data.length)).take 64

/-- The slot after the last slot used, and the first slot of a store that has used none (log entry 17). -/
def nextSlot (n : NvsSt) : Nat := match n.slot with
  | none => 0
  | some k => (k + 1) % 768

/-- Writes a slot whole, its pages programmed whether or not they change (R393). -/
def writeSlot (m : Mem) (k : Nat) (bs : List Byte) : Mem := (m.writeRaw (slotOff k) bs).heal (slotOff k) 128

/-- A page write carried through to DONE (Table NVS-2): slot, target, sequence number and NVS_WCNT. -/
def State.nvsPage (s : State) (j : PageJob) : State :=
  let k := nextSlot s.nvs
  let q := s.nvs.jseq + 1
  let d := jobPage s.mem.nvs j
  let page := j.off / 64
  let m1 := writeSlot s.mem.nvs k (slotBytes page q.toNat slotDone d)
  let s1 := { s with mem := { s.mem with nvs := nvsProgram m1 (64 * page) d }, nvs := { s.nvs with slot := some k, jseq := q } }
  s1.incWrap Reg.NVS_WCNT 1

/-- A journal slot whose JCRC is correct, over its groups as stored (R397, R400): its sequence number. An all-zero slot fails its JCRC. -/
def slotSeq (m : Mem) (k : Nat) : Option W32 :=
  let o := slotOff k
  if !(m.cells.any (fun e => decide (o ≤ e.1) && decide (e.1 < o + 128))) then none
  else if m.readN (o + 72) 4 = crc32c (m.read (o + 64) 8 ++ m.read o 64) then some (BitVec.ofNat 32 (m.readN (o + 68) 4))
  else none

/-- The last slot: among the correct ones, the highest sequence number under R14 (R397). -/
def lastSlot (m : Mem) : Option (Nat × W32) :=
  (List.range 768).foldl (fun b k => match slotSeq m k, b with
    | some q, none => some (k, q)
    | some q, some (k0, q0) => if follows q q0 then some (k, q) else some (k0, q0)
    | none, b => b) none

/-- The event log's head and last sequence: the entry after the one with the highest log sequence (R408). -/
def logPlace (m : Mem) : Nat × W32 :=
  if !(m.cells.any (fun e => decide (0xF000 ≤ e.1) && decide (e.1 < 0x10000))) then (0, 0) else
  match (List.range 1024).foldl (fun (b : Option (Nat × W32)) i =>
      let q := BitVec.ofNat 32 (m.readN (0xF000 + 4 * i) 4)
      if q = 0 then b else match b with
        | none => some (i, q)
        | some (i0, q0) => if follows q q0 then some (i, q) else some (i0, q0)) none with
  | none => (0, 0)
  | some (i, q) => ((i + 1) % 1024, q)

/-- The journal is resolved: the last slot is replayed if VALID, and READY is set (R397). A STATE whose read is uncorrectable does not read VALID; the
index of the event log is read for HEAD (R400, R408). -/
def State.nvsResolve (s : State) : State :=
  let s0 := s.nvsRead 3 0x18000 0x18000
  let m := s0.mem.nvs
  let s1 := match lastSlot m with
    | none => { s0 with nvs := { s0.nvs with slot := none, jseq := 0 } }
    | some (k, q) =>
      let s2 := { s0 with nvs := { s0.nvs with slot := some k, jseq := q } }
      let o := slotOff k
      if m.readN (o + 80) 8 = slotValid ∧ !s.nvsUnc (o + 80) 8 then
        let page := m.readN (o + 64) 2 % 4096
        let m1 := nvsProgram m (64 * page) (m.read o 64)
        let m2 := (m1.writeRaw (o + 80) (leBytes 8 slotDone)).heal (o + 80) 8
        let s3 := { s2 with mem := { s2.mem with nvs := m2 }, nvs := { s2.nvs with replayed := true } }
        s3.raise 0x0603 0 0x400 (page + 2 ^ 32 * q.toNat)
      else s2
  let p := logPlace s1.mem.nvs
  let s2 := s1.nvsRead 3 0xF000 0x1000
  { s2 with nvs := { s2.nvs with ready := true }, ev := { s2.ev with logHead := p.1, logSeq := p.2 } }

/-! ## A/B records -/

/-- A region of A/B records (Table NVS-6): offsets of the copies, MAGIC and largest payload. -/
structure AbReg where
  offA : Nat
  offB : Nat
  magic : Nat
  max : Nat

/-- The trim shadow. -/
def abTrim : AbReg := ⟨0x0, 0x400, 0x5254, 1008⟩
/-- The start record. -/
def abStart : AbReg := ⟨0x800, 0x840, 0x5453, 48⟩
/-- The record of image slot n. -/
def abSlot (n : Nat) : AbReg := ⟨0xC00 + 0x100 * n, 0xC80 + 0x100 * n, 0x4953, 112⟩
/-- The measurement calibration. -/
def abCal : AbReg := ⟨0x1000, 0x2080, 0x4143, 4096⟩

/-- Whether a copy is valid (R401), by what reads as uncorrectable. -/
def copyValid (m : Mem) (unc : Nat → Nat → Bool) (r : AbReg) (o : Nat) : Bool :=
  let len := m.readN (o + 2) 2
  m.readN o 2 == r.magic && decide (len ≤ r.max) && !unc o (16 + len)
    && m.readN (o + 8) 4 == crc32c (leBytes 4 o ++ m.read (o + 4) 4 ++ m.read (o + 16) len)

/-- How a record is read (Table NVS-5): the payload, the copy written next and its sequence, and the event. -/
structure AbRead where
  payload : Option (List Byte)
  nextOff : Nat
  nextSeq : W32
  event : Option (Nat × Nat × Nat)

/-- The copy chosen (Table NVS-5), by what reads as uncorrectable. -/
def abPick (m : Mem) (unc : Nat → Nat → Bool) (r : AbReg) : AbRead :=
  let va := copyValid m unc r r.offA
  let vb := copyValid m unc r r.offB
  let qa := BitVec.ofNat 32 (m.readN (r.offA + 4) 4)
  let qb := BitVec.ofNat 32 (m.readN (r.offB + 4) 4)
  let pa := m.read (r.offA + 16) (m.readN (r.offA + 2) 2)
  let pb := m.read (r.offB + 16) (m.readN (r.offB + 2) 2)
  match va, vb with
  | true, true =>
    if qa = qb then ⟨some pa, r.offB, qa + 1, if pa = pb then none else some (0x0610, 1, r.offA + 2 ^ 32 * qa.toNat)⟩
    else if follows qb qa then ⟨some pb, r.offA, qb + 1, none⟩ else ⟨some pa, r.offB, qa + 1, none⟩
  | true, false => ⟨some pa, r.offB, qa + 1, some (0x0606, 1, r.offA + 2 ^ 32 * r.offB)⟩
  | false, true => ⟨some pb, r.offA, qb + 1, some (0x0606, 1, r.offA + 2 ^ 32 * r.offA)⟩
  | false, false => ⟨none, r.offA, 1, some (0x0607, 2, r.offA)⟩

/-- The copy that a read chooses. -/
def State.abChoose (s : State) (r : AbReg) : AbRead := abPick s.mem.nvs s.nvsUnc r

/-- What the reader of a record knows of it without another read: an injected error acts on reads alone (R306, R400). -/
def State.abKnown (s : State) (r : AbReg) : AbRead := abPick s.mem.nvs s.mem.nvs.unc r

/-- Reads a record: its groups are read by the controller, and the choice's event is raised (R400, R402). -/
def State.abRead (s : State) (r : AbReg) : State × AbRead :=
  let a := s.abChoose r
  let s1 := (s.nvsRead 3 r.offA (16 + r.max)).nvsRead 3 r.offB (16 + r.max)
  (match a.event with
   | none => s1
   | some (c, sv, p) => s1.raise c sv 0x400 p, a)

/-- The bytes of a copy (Table NVS-4). -/
def copyBytes (r : AbReg) (o : Nat) (seq : W32) (pay : List Byte) : List Byte :=
  leBytes 2 r.magic ++ leBytes 2 pay.length ++ leBytes 4 seq.toNat
    ++ leBytes 4 (crc32c (leBytes 4 o ++ leBytes 4 seq.toNat ++ pay)) ++ leBytes 4 0 ++ pay

/-- The pages of a copy but the first, in ascending order. -/
def tailPages (src : JobSrc) : Nat → Nat → List Byte → List PageJob
  | 0, _, _ => []
  | n + 1, o, bs => if bs = [] then [] else ⟨o, bs.take 64, src⟩ :: tailPages src n (o + 64) (bs.drop 64)

/-- The page writes of a record write: pages in ascending order, the page with the header last (R403). `mid` and `fin` say what
the ends of the other pages and of the last page do. -/
def recordJobs (r : AbReg) (a : AbRead) (pay : List Byte) (mid fin : JobSrc) : List PageJob :=
  let bs := copyBytes r a.nextOff a.nextSeq pay
  tailPages mid 66 (a.nextOff + 64) (bs.drop 64) ++ [⟨a.nextOff, bs.take 64, fin⟩]

/-! ## Service -/

/-- The page write that logs an event: entry i, then its index (R408). -/
def logJob (s : State) (e : EvRec) : PageJob := ⟨0x10000 + 32 * s.ev.logHead, e.bytes false, .logRec⟩

/-- The next log sequence, never 0 (R408). -/
def nextLogSeq (q : W32) : W32 := if q + 1 = 0 then 1 else q + 1

/-- Ends a channel's command with a code (Table NVS-8). -/
def State.chanEnd (s : State) (c : Nat) (code : Nat) : State :=
  s.setReg (Reg.NVSC_STAT c) (BitVec.ofNat 32 (code * 16 + 2 ^ 31))

/-- A channel's READ: its page into its buffer (R396, R400). -/
def State.chanRead (s : State) (c page : Nat) : State :=
  let o := 64 * page
  let u := s.nvsUnc o 64
  let s1 := s.nvsRead c o 64
  let s2 := (List.range 16).foldl (fun t w => t.setReg (Reg.NVSC_BUF c w) (BitVec.ofNat 32 (s.mem.nvs.readN (o + 4 * w) 4))) s1
  s2.chanEnd c (if u then 1 else 0)

/-- A read of a word of the read window: errors of its group count as the window's (R400). -/
def State.winRead (s : State) (who off : Nat) : State :=
  let v := BitVec.ofNat 32 (s.mem.nvs.readN off 4)
  let t := s.nvsRead 2 off 4
  { t with nvs := { t.nvs with got := some (who, off, v) } }

/-- A page write that meets the brown-out warning: a channel's WRITE is refused with code 0x3 and event 0x0604, the others wait for the end of the
warning (R399). -/
def warnPage (j : PageJob) (s : State) : State × List NvsCmd := match j.src with
  | .chan c => ((s.chanEnd c.val 3).raise 0x0604 1 0x400 (c.val + 2 ^ 16 * (j.off / 64)), [])
  | _ => (s, [.page j])

/-- Serves waiting commands in order: reads at once, then one page write is started. Under the brown-out warning none starts, and reads pass those
that wait (R396, R399). -/
def nvsServe : List NvsCmd → State → State
  | [], s =>
    if s.rst.bowarn then { s with nvs := { s.nvs with queue := [] } }
    else match s.ev.logq with
      | [] => { s with nvs := { s.nvs with queue := [] } }
      | e :: _ => { s with nvs := { s.nvs with queue := [], cur := some (logJob s e) } }
  | .read c page :: r, s => nvsServe r (s.chanRead c.val page)
  | .win who off :: r, s => nvsServe r (s.winRead who off)
  | .page j :: r, s =>
    if s.rst.bowarn then
      let (s1, l) := warnPage j s
      let s2 := nvsServe r s1
      { s2 with nvs := { s2.nvs with queue := l ++ s2.nvs.queue } }
    else { s with nvs := { s.nvs with queue := r, cur := some j } }

/-- Starts what can start at the store. -/
def State.nvsGo (s : State) : State :=
  if s.up 2 ∧ s.nvs.ready ∧ s.nvs.cur = none then nvsServe s.nvs.queue s else s

/-- The store after a page write was cut off (Table NVS-3). In step 1: 0 before anything was programmed, 1 with the data page, 2 with the header too
but STATE, which stays as its last use left it. In step 2: 3 with STATE neither value, 4 with STATE VALID. In step 3: 5 with TARGET programmed. In
step 4: 6 with STATE neither value, 7 with DONE. A STATE that is neither is an uncorrectable group. -/
def cutPage (m : Mem) (k page seq : Nat) (d : List Byte) (cut : Nat) : Mem :=
  let o := slotOff k
  let head := fun (m : Mem) (st : Nat) => writeSlot m k (slotBytes page seq st d)
  let neither := fun (m : Mem) => { m with ecc := Tab.insert m.ecc ((o + 80) / 8) true }
  if cut = 0 then m
  else if cut = 1 then (m.writeRaw o d).heal o 64
  else if cut = 2 then
    let bs := slotBytes page seq 0 d
    (((m.writeRaw o (bs.take 80)).heal o 80).writeRaw (o + 88) (bs.drop 88)).heal (o + 88) 40
  else if cut = 3 then neither (head m slotValid)
  else if cut = 4 then head m slotValid
  else if cut = 5 then nvsProgram (head m slotValid) (64 * page) d
  else if cut = 6 then neither (nvsProgram (head m slotValid) (64 * page) d)
  else nvsProgram (head m slotDone) (64 * page) d

/-- A page write in progress is cut off by a loss of power or a reset of the controller (R398). -/
def State.nvsCut (s0 : State) (cut : Fin 8) : State :=
  let s := s0.nvsGo
  match s.nvs.cur with
  | none => s
  | some j => { s with mem := { s.mem with nvs := cutPage s.mem.nvs (nextSlot s.nvs) (j.off / 64) (s.nvs.jseq + 1).toNat (jobPage s.mem.nvs j) cut.val } }

/-- Puts commands in the store's queue and starts what can start. -/
def State.nvsPut (s : State) (cs : List NvsCmd) : State :=
  { s with nvs := { s.nvs with queue := s.nvs.queue ++ cs } }.nvsGo

/-- Whether channel c may write a page; the trim shadow is the security core's (R404). -/
def chanMay (sec : Bool) (c page : Nat) : Bool :=
  if c = 0 then (sec || !(decide (64 * page < 0x800))) && !(decide (0x18000 ≤ 64 * page) && decide (64 * page < 0x30000))
  else decide (0x30000 ≤ 64 * page)

/-- The code a channel's WRITE is refused with, if any (R399, R404, R409). -/
def writeRefusal (sec : Bool) (s : State) (c page : Nat) : Option Nat :=
  if s.rbit (Reg.NVSC_STAT c) 0 then some 4
  else if c = 1 ∧ s.rst.stage = .recovery then some 5
  else if !chanMay sec c page then some 2
  else if s.rst.bowarn then some 3
  else none

/-- The bytes of a channel's buffer. -/
def chanBuf (s : State) (c : Nat) : List Byte :=
  (List.range 16).flatMap (fun w => leBytes 4 (s.reg (Reg.NVSC_BUF c w)).toNat)

/-- A READ of a channel (R396, R409). -/
def nvsReadEff (ch : Nat) (s : State) : State :=
  if s.rbit (Reg.NVSC_STAT ch) 0 then s.setReg (Reg.NVSC_STAT ch) (BitVec.ofNat 32 (1 + 16 * 4 + 2 ^ 31))
  else (s.setReg (Reg.NVSC_STAT ch) (BitVec.ofNat 32 (1 + 2 ^ 31 * b2n (s.rbit (Reg.NVSC_STAT ch) 31)))).nvsPut
    [.read (if ch = 0 then 0 else 1) (s.fld (Reg.NVSC_PAGE ch) 11 0)]

/-- A WRITE of a channel (R395, R404, R409). -/
def nvsWriteEff (sec : Bool) (ch : Nat) (s : State) : State :=
  let page := s.fld (Reg.NVSC_PAGE ch) 11 0
  match writeRefusal sec s ch page with
  | some code =>
    let s1 := s.setReg (Reg.NVSC_STAT ch) (BitVec.ofNat 32 (b2n (s.rbit (Reg.NVSC_STAT ch) 0) + 16 * code + 2 ^ 31))
    if code = 3 then s1.raise 0x0604 1 0x400 (ch + 2 ^ 16 * page) else s1.raise 0x0605 1 0x400 (ch + 256 * code + 2 ^ 16 * page)
  | none =>
    (s.setReg (Reg.NVSC_STAT ch) (BitVec.ofNat 32 (1 + 2 ^ 31 * b2n (s.rbit (Reg.NVSC_STAT ch) 31)))).nvsPut
      [.page ⟨64 * page, chanBuf s ch, .chan (if ch = 0 then 0 else 1)⟩]

/-- NVS_READ. -/
def execNvsRead (who : Who) (ch : Fin 2) (s : State) : Out :=
  .next (s.access who (Reg.NVSC_CMD ch.val) (nvsReadEff ch.val))

/-- NVS_WRITE. -/
def execNvsWrite (who : Who) (ch : Fin 2) (s : State) : Out :=
  .next (s.access who (Reg.NVSC_CMD ch.val) (nvsWriteEff (who == .sec) ch.val))

/-- What the end of a page write does beyond the store (R395, R408, R364); of a press record the first write lets pulses start, and the write of
VALID 1 sets the age (R163, CHN). -/
def jobDone (j : PageJob) (s : State) : State :=
  match j.src with
  | .chan c => s.chanEnd c.val 0
  | .logRec => s
  | .logIdx => { s with ev := { s.ev with logHead := (s.ev.logHead + 1) % 1024, logSeq := nextLogSeq s.ev.logSeq, logq := s.ev.logq.drop 1 } }
  | .record _ | .base => s
  | .cal _ last => if last then (s.clrReg Reg.MSR_STAT 2).setReg Reg.MSR_CAL_STAT (BitVec.ofNat 32 (2 ^ 31)) else s
  | .press a k =>
    let x := Tab.getD s.arrs a .idle
    let more := s.nvs.queue.any (fun c => match c with | .page q => q.src == .press a 1 | _ => false)
    let y := if k = 1 then (if more then x else { x with press := x.press.map (fun j => { j with ready := true }) })
      else if k = 2 then { x with chn := { x.chn with born := some s.cnt.aon } } else x
    { s with arrs := Tab.setD s.arrs a .idle y }

/-- A block reset of NVSC written during a page write begins when it ends (Table RCP-4). -/
def nvscIsolate (s : State) : State :=
  if s.rbit Reg.RST_BLK 0 ∧ s.domSt 2 = .run ∧ s.nvs.cur = none then s.setDom 2 .isolating else s

/-- The page write in progress reaches DONE; the record of an event is followed by its index entry (R395, R408). -/
def pageDone (j : PageJob) (s : State) : State :=
  let s1 := jobDone j ({ s with nvs := { s.nvs with cur := none } }.nvsPage j)
  match j.src with
  | .logRec => { s1 with nvs := { s1.nvs with queue := .page ⟨0xF000 + 4 * s1.ev.logHead, leBytes 4 (nextLogSeq s1.ev.logSeq).toNat, .logIdx⟩ :: s1.nvs.queue } }
  | _ => s1

/-- NVS_PAGE_WRITE_COMPLETE: the page write in progress reaches DONE, and the next may start. -/
def execNvsPageWriteComplete (s0 : State) : Out :=
  let s := s0.nvsGo
  match s.nvs.cur with
  | none => .next s0
  | some j => .next (nvscIsolate (pageDone j s)).nvsGo

/-- Carries every page write that waits at the store through to DONE, in order (R396). -/
def nvsFlush : Nat → State → State
  | 0, s => s
  | n + 1, s => match s.nvs.cur with
    | none => s
    | some j => let s1 := pageDone j s; if s1.nvs.queue.isEmpty then s1 else nvsFlush n s1.nvsGo

/-- A record written within one step that waits for it: the page writes asked for before it end first (R396, R403). -/
def State.abWriteNow (s : State) (r : AbReg) (a : AbRead) (pay : List Byte) : State :=
  let s1 := nvsFlush (s.nvs.queue.length + 2) s
  (recordJobs r a pay (.record false) (.record true)).foldl (fun s j => s.nvsPage j) s1

/-! ## The trim shadow's port split -/

/-- The place of SPLIT in the trim shadow's payload (R444; log entry 151). -/
def splitAt : Nat := Config.trimBit % (8 * abTrim.max)

/-- SPLIT of a trim payload; 0 where the payload does not reach its place (R444). -/
def trimSplit (p : List Byte) : Bool := bit ((p[splitAt / 8]?).getD 0) (splitAt % 8)

/-- A trim payload with another SPLIT. -/
def setTrimSplit (p : List Byte) (v : Bool) : List Byte :=
  let q := p ++ List.replicate (abTrim.max - p.length) 0
  let b := (q[splitAt / 8]?).getD 0
  let m := BitVec.ofNat 8 (2 ^ (splitAt % 8))
  q.set (splitAt / 8) (if v then b ||| m else b &&& ~~~m)

/-- The security core writes the trim entry of the port split (R404, R444). -/
def State.writeSplit (s : State) (v : Bool) : State :=
  let r := s.abRead abTrim
  r.1.abWriteNow abTrim r.2 (setTrimSplit (r.2.payload.getD []) v)

/-- NVS_CLR_CNT. -/
def execNvsClrCnt (who : Who) (s : State) : Out :=
  .next (s.access who Reg.NVS_CMD (fun s =>
    let s1 := ((s.setReg Reg.NVS_ECC_CNT 0).setReg Reg.NVS_UNC_CNT 0).rearm 0x0602
    { s1 with ev := { s1.ev with logDrop := 0 } }))

/-- LOG_TOKEN_TICK: a token enters the bucket of 32 (R408). -/
def execLogTokenTick (s : State) : Out :=
  .next (s.when (s.up 2) { s with ev := { s.ev with tokens := min 32 (s.ev.tokens + 1) } })

end Sys2Proof.Machine
end

