-- ==== Sys2Proof/Machine/Vec.lean ====
section
/-!
DEFINITION. What the engines compute on rows of elements: reading, converting, sums, ranking, softmax, normalisation, boxes, bilinear sampling
(R239 to R242, R261).
-/
namespace Sys2Proof.Machine

/-! ## Elements -/

/-- The exact value of an element, block scale included (R31, R228); ZERO of its entry is not looked at (log entry 112). -/
def elemVal (s : State) (core : Nat) (d : Desc) (r : Nat × Nat × Nat) (i0 : Nat) : Val :=
  let m := s.memOf d.sp
  let v := decode d.fmt (rawAt m d.fmt (spAddr core d.sp (d.rowAt r.1 r.2.1 r.2.2)) i0)
  if d.bsp = 0 then v else v.scale (entSexp (m.readN (spAddr core d.sp (d.entAt (d.rowIx r.1 r.2.1 r.2.2) (i0 / 32))) 2))

/-- The values of a row. -/
def rowVals (s : State) (core : Nat) (d : Desc) (r : Nat × Nat × Nat) : List Val := (List.range d.dim0).map (elemVal s core d r)

/-- The values of a row as FP32 (R242). -/
def rowF32 (s : State) (core : Nat) (d : Desc) (r : Nat × Nat × Nat) : List W32 := (rowVals s core d r).map (fun v => (inF32 v).1)

/-- How many elements of rows saturate on their way to FP32 (R23, R24). -/
def rowsSat (s : State) (core : Nat) (d : Desc) (rs : List (Nat × Nat × Nat)) : Nat :=
  (rs.flatMap (rowVals s core d)).countP (fun v => (inF32 v).2)

/-- A converted row: raw elements, block-scale entries, saturations (R22 to R24, R32). -/
structure ConvRow where
  raws : List Nat
  ents : List Nat
  sat : Nat

/-- Converts values to a descriptor's format from column 0; a block-scaled destination takes its sources in FP32 (R32), and a source that
saturates on the way there is counted too. The last block of a row that an instruction writes only in part (VRED writes one element, VTOPK K) takes its
entry from the written elements alone, and its other elements keep their stored q (DESIGN CHOICE, log entry 157). -/
def convVals (d : Desc) (rtz : Bool) (vs : List Val) : ConvRow :=
  if d.bsp = 0 then
    let cs := vs.map (conv d.fmt rtz)
    ⟨cs.map (fun c => c.1), [], (cs.filter (fun c => c.2)).length⟩
  else
    let bs := (chunks32 ((vs.length + 31) / 32) vs).map (fun b => blkConv fp32 d.fmt rtz (b.map (fun v => f32 (inF32 v).1)))
    ⟨bs.flatMap (fun b => b.q.map (ofInt (fmtBits d.fmt))), bs.map (fun b => b.entry),
      (bs.flatMap (fun b => b.sat)).countP (fun x => x) + vs.countP (fun v => (inF32 v).2)⟩

/-! ## Sums and ranks (R242) -/

/-- Every 64th element of a list from element l. -/
def lane (xs : List W32) (l : Nat) : List W32 := (List.range ((xs.length + 63) / 64)).filterMap (fun k => xs[l + 64 * k]?)

/-- The sum of a row: 64 lane sums from +0, then a pairwise tree. -/
def rowSum (xs : List W32) : W32 := treeFold fadd 0 7 ((List.range 64).map (fun l => (lane xs l).foldl fadd 0))

/-- Whether b ranks strictly above a (Table ACC-6). -/
def above (a b : W32) : Bool := wins false (f32 a) 0 (f32 b) 0

/-- Inserts before the first element that must not come earlier; equal elements keep their order. -/
def insertBy {α : Type} (later : α → α → Bool) (x : α) : List α → List α
  | [] => [x]
  | y :: r => if later x y then y :: insertBy later x r else x :: y :: r

/-- A stable sort: `later a b` when b must come before a. -/
def sortBy {α : Type} (later : α → α → Bool) (l : List α) : List α := l.foldr (insertBy later) []

/-- Elements with their indices. -/
def indexed (xs : List W32) : List (W32 × Nat) := (List.range xs.length).map (fun i => ((xs[i]?).getD 0, i))

/-- A row in descending order with source indices. -/
def sortDesc (xs : List W32) : List (W32 × Nat) := sortBy (fun a b => above a.1 b.1) (indexed xs)

/-- A row in ascending order with source indices. -/
def sortAsc (xs : List W32) : List (W32 × Nat) := sortBy (fun a b => above b.1 a.1) (indexed xs)

/-- The highest or lowest element of a row with its index: both rank by the MAXI rules, so a NaN stands above every number; the lower index of
equals (R242, log entry 105). -/
def rowBest (mini : Bool) (xs : List W32) : W32 × Nat := match indexed xs with
  | [] => (0, 0)
  | a :: r => r.foldl (fun a b => if (if mini then above b.1 a.1 else above a.1 b.1) then b else a) a

/-- The lower of two elements under the MAXI ranking (R242, log entry 105). -/
def lower (a b : W32) : W32 := let r := if above b a then b else a; if f32IsNaN r then f32NaN else r

/-- The FP32 value of a whole number. -/
def natF (n : Nat) : W32 := toF32 (.fin false n 1)

/-! ## Rows -/

/-- VEW by FN. -/
def ewOp (fn : Nat) (a b : W32) : W32 :=
  if fn = 0 then fadd a b else if fn = 1 then fsub a b else if fn = 2 then fmul a b else if fn = 3 then pick false a b else lower a b

/-- VRED by FN: the result, and the winner's index. -/
def reduce (fn : Nat) (xs : List W32) : W32 × Nat :=
  if fn = 0 then (rowSum xs, 0) else if fn = 1 then rowBest false xs else if fn = 2 then rowBest true xs
  else (rowSum (xs.map (fun x => fmul x x)), 0)

/-- Softmax of a row. -/
def softmax (xs : List W32) : List W32 :=
  let m := (rowBest false xs).1
  let es := xs.map (fun x => fexp (fsub x m))
  let t := rowSum es
  es.map (fun e => fdiv e t)

/-- A quotient by the row length, in the form the device uses. -/
def overN (x : W32) (n : Nat) : W32 :=
  if Nat.testBit Config.normForm 0 then fmul x (fdiv 0x3F800000 (natF n)) else fdiv x (natF n)

/-- x / √v, in the form the device uses. -/
def overRoot (x v g : W32) : W32 :=
  if Nat.testBit Config.normForm 1 then fmul (fdiv x (fsqrt v)) g
  else if Nat.testBit Config.normForm 3 then fmul x (fmul (frsqrt v) g) else fmul (fmul x (frsqrt v)) g

/-- Layer normalisation (rms false) or RMS normalisation of a row. -/
def normRow (rms : Bool) (eps : W32) (xs gs bs : List W32) : List W32 :=
  let n := xs.length
  let mean := if rms then 0 else overN (rowSum xs) n
  let cs := if rms then xs else xs.map (fun x => fsub x mean)
  let v := if Nat.testBit Config.normForm 2 && !rms then fsub (overN (rowSum (xs.map (fun x => fmul x x))) n) (fmul mean mean)
    else overN (rowSum (cs.map (fun c => fmul c c))) n
  let w := fadd v eps
  (List.range n).map (fun i =>
    let y := overRoot ((cs[i]?).getD 0) w ((gs[i]?).getD 0)
    if rms then y else fadd y ((bs[i]?).getD 0))

/-- VFN by FN. -/
def fnOp (fn : Nat) (x : W32) : W32 :=
  if fn = 0 then fexp x else if fn = 1 then frsqrt x else if fn = 2 then frecip x else if fn = 3 then fsqrt x else flog x

/-! ## Boxes (R242) -/

/-- Area of a box. -/
def boxArea (b : List W32) : W32 :=
  let g := fun i => (b[i]?).getD 0
  fmul (pick false 0 (fsub (g 2) (g 0))) (pick false 0 (fsub (g 3) (g 1)))

/-- Intersection over union; 0 when the divisor is 0. -/
def iou (a b : List W32) : W32 :=
  let g := fun (l : List W32) i => (l[i]?).getD 0
  let inter := boxArea [pick false (g a 0) (g b 0), pick false (g a 1) (g b 1), lower (g a 2) (g b 2), lower (g a 3) (g b 3)]
  let div := fsub (fadd (boxArea a) (boxArea b)) inter
  if div.toNat % 2 ^ 31 = 0 then 0 else fdiv inter div

/-- The indices kept of the boxes of a list in order, at most k. -/
def nmsKeep (thr : W32) (k : Nat) : List (List W32 × Nat) → List (List W32 × Nat) → List Nat
  | [], kept => kept.map (fun p => p.2)
  | b :: r, kept =>
    if k ≤ kept.length then kept.map (fun p => p.2)
    else if kept.any (fun p => (f32 thr).lt (f32 (iou p.1 b.1))) then nmsKeep thr k r kept
    else nmsKeep thr k r (kept ++ [b])

/-- VNMS: the indices kept, in keeping order, filled to k with 0xFFFF_FFFF. -/
def nms (thr : W32) (k : Nat) (boxes : List (List W32)) : List Nat :=
  let order := sortDesc (boxes.map (fun b => (b[4]?).getD 0))
  let l := nmsKeep thr k (order.map (fun p => ((boxes[p.2]?).getD [], p.2))) []
  l ++ List.replicate (k - l.length) 0xFFFFFFFF

/-! ## Bilinear sampling (R240, R261) -/

/-- The blend of four pixels (x0,y0), (x1,y0), (x0,y1), (x1,y1) at fractions fx and fy. -/
def blend (a b c d fx fy : W32) : W32 :=
  let one : W32 := 0x3F800000
  let lerp := fun p q f => fadd p (fmul f (fsub q p))
  let mix := fun p q f => fadd (fmul p (fsub one f)) (fmul q f)
  if Config.blendForm % 3 = 0 then
    fadd (fadd (fadd (fmul (fmul (fsub one fx) (fsub one fy)) a) (fmul (fmul fx (fsub one fy)) b)) (fmul (fmul (fsub one fx) fy) c))
      (fmul (fmul fx fy) d)
  else if Config.blendForm % 3 = 1 then lerp (lerp a b fx) (lerp c d fx) fy
  else mix (mix a b fx) (mix c d fx) fy

/-- The floor of a finite FP32 value. -/
def floorF (x : W32) : Int := let v := Val.fr (f32 x); v.num / (v.den : Int)

/-- An integer as FP32. -/
def intF (i : Int) : W32 := toF32 (.fin (decide (i < 0)) i.natAbs 1)

/-- A pixel sampled at (px, py), finite: `at'` gives the source pixels. -/
def sample (at' : Int → Int → W32) (px py : W32) : W32 :=
  let x := floorF px
  let y := floorF py
  blend (at' x y) (at' (x + 1) y) (at' x (y + 1)) (at' (x + 1) (y + 1)) (fsub px (intF x)) (fsub py (intF y))

/-- The sample point of destination pixel (x, y) under a homography; none when w ≤ 0 (R240). -/
def warpPoint (h : List W32) (x y : Nat) : Option (W32 × W32) :=
  let g := fun i => (h[i]?).getD 0
  let half : W32 := 0x3F000000
  let xf := fadd (natF x) half
  let yf := fadd (natF y) half
  let dot := fun i => fadd (fadd (fmul (g i) xf) (fmul (g (i + 1)) yf)) (g (i + 2))
  let w := dot 6
  if !f32IsNaN w && !(Val.fin false 0 1).lt (f32 w) then none else some (fsub (fdiv (dot 0) w) half, fsub (fdiv (dot 3) w) half)

end Sys2Proof.Machine
end

