-- ==== Sys2Proof/Machine/Intake.lean ====
section
/-!
DEFINITION. The intake: records, CSI-2 frames, Ethernet packets, ring entries (R259 to R265, R277).
-/
namespace Sys2Proof.Machine

/-! ## Intake records (Table TNK-3) -/

/-- Byte field of intake record i: n bytes from byte b. -/
def State.irec (s : State) (i b n : Nat) : Nat := leNat (((List.range 16).flatMap (fun w => leBytes 4 (s.reg (Reg.IREC i w)).toNat)).drop b |>.take n)

/-- The fields of an intake record. -/
structure IRec where
  port : Nat
  en : Bool
  vc : Nat
  dt : Nat
  st : Nat
  inW : Nat
  inH : Nat
  outW : Nat
  outH : Nat
  fmt : Nat
  rnd : Nat
  udp : Nat
  payoff : Nat
  npkt : Nat
  tmo : Nat

/-- Intake record i. -/
def State.irecOf (s : State) (i : Nat) : IRec :=
  let f := s.irec i
  ⟨f 0 1 % 8, f 0 1 / 128 == 1, f 1 1 % 16, f 2 1, f 3 1 % 64, f 4 2, f 6 2, f 8 2, f 10 2, f 12 1, f 13 1 % 2, f 40 2, f 42 2, f 44 2, f 46 2⟩

/-- DEMOSAIC, BAYER, LAYOUT and OFMT. -/
def IRec.demosaic (r : IRec) : Bool := nbits r.fmt 0 0 == 1
def IRec.bayer (r : IRec) : Nat := nbits r.fmt 2 1
def IRec.layout (r : IRec) : Nat := nbits r.fmt 3 3
def IRec.ofmt (r : IRec) : Nat := nbits r.fmt 7 4

/-- Whether a data type is RAW. -/
def isRaw (dt : Nat) : Bool := dt == 0x2A || dt == 0x2B || dt == 0x2C || dt == 0x2E

/-- Whether two records name one source: port, VC and DT, or port and UDPPORT (R260). -/
def sameSource (a b : IRec) : Bool := a.port == b.port && (if a.port < 4 then a.vc == b.vc && a.dt == b.dt else a.udp == b.udp)

/-- Whether a record may be enabled (R260). -/
def irecOk (s : State) (i : Nat) : Bool :=
  let r := s.irecOf i
  let others := (List.range 64).filter (fun j => j != i && (s.irecOf j).en)
  (if r.port < 4 then
      (isRaw r.dt || r.dt == 0x1E || r.dt == 0x24) && decide (2 ≤ r.inW) && decide (r.inW ≤ 8192) && decide (2 ≤ r.inH) && decide (r.inH ≤ 8192)
        && decide (1 ≤ r.outW) && decide (r.outW ≤ r.inW) && decide (1 ≤ r.outH) && decide (r.outH ≤ r.inH) && (!r.demosaic || isRaw r.dt)
        && (r.ofmt == 1 || r.ofmt == 4 || r.ofmt == 5) && r.udp == 0 && r.payoff == 0 && r.npkt == 0 && r.tmo == 0
    else
      decide (r.port ≤ 5) && r.vc == 0 && r.dt == 0 && r.inW == 0 && r.inH == 0 && r.outW == 0 && r.outH == 0 && r.fmt == 0 && r.rnd == 0
        && s.irec i 16 24 == 0 && decide (1 ≤ r.npkt))
    && !others.any (fun j => sameSource r (s.irecOf j))

/-- The stream's open input, if this record opened it. -/
def State.inputOf (s : State) (i : Nat) : Option OpenIn := (s.strm (s.irecOf i).st).inp.bind (fun x => if x.rcd = i then some x else none)

/-- Replaces a stream's open input. -/
def State.setInput (s : State) (st : Nat) (x : Option OpenIn) : State := s.setStrm st { s.strm st with inp := x }

/-- INTAKE_RECORD_ENABLE: a write of a record's first word. Setting EN checks the record; while EN is 1 only EN may be cleared, and an input
that the record holds open ends without an arrival (R260). -/
def recordWrite (i : Nat) (v : W32) (s : State) : State :=
  let r := s.irecOf i
  let a := Reg.IREC i 0
  if r.en then
    if bit v 7 then s
    else (if (s.inputOf i).isSome then s.setInput r.st none else s).clrReg a 0x80
  else
    let s1 := s.setReg a (v &&& 0x3FFF0F07)
    if !bit v 7 then s1
    else if irecOk s1 i && (v &&& 0xC000F078) == 0 then s1.orReg a 0x80
    else ((s1.orReg Reg.INT_ERR 1).setFld Reg.INT_ERR 21 16 i).raise 0x0D85 1 0x100 i

/-- INTAKE_RECORD_ENABLE. -/
def execIntakeRecordEnable (who : Who) (rec : Fin 64) (v : W32) (s : State) : Out :=
  .next (s.access who (Reg.IREC rec.val 0) (recordWrite rec.val v))

/-! ## Opening and closing inputs (R263, R264) -/

/-- Whether the entry for NEXT is free (R263). -/
def State.inFree (s : State) (st : Nat) : Bool :=
  decide ((s.next st - s.head st).toNat < ringEntries (s.fld (Reg.INT_RING_GEOM st) 19 16))

/-- The local count of an intake port. -/
def State.portCount (s : State) (p : Nat) : W64 := Tab.getD s.cnt.pcnt p 0

/-- An input is discarded: INT_RING_DROP and event 0x0D84 (R263). -/
def dropInput (i st port reason : Nat) (s : State) : State :=
  (s.incReg (Reg.INT_RING_DROP st) 1).raiseIntake 0x0D84 1 port st (st + 256 * i + 2 ^ 16 * reason + 2 ^ 64 * (s.portCount port).toNat)

/-- An arrival that the intake did not bring changed NEXT: the stream's open input is discarded with reason 3 (R263). -/
def passInput (st : Nat) (s : State) : State := match (s.strm st).inp with
  | some x => dropInput x.rcd st (s.irecOf x.rcd).port 3 (s.setInput st none)
  | none => s

/-- Why an input cannot open, if it cannot (R263). -/
def openNo (s : State) (st : Nat) : Option Nat :=
  if !s.bound st then some 1 else if (s.strm st).inp.isSome then some 2 else if !s.inFree st then some 0 else none

/-- Opens an input of a record, or discards it. -/
def openInput (i : Nat) (s : State) : State :=
  let r := s.irecOf i
  match openNo s r.st with
  | some reason => dropInput i r.st r.port reason s
  | none => s.setInput r.st (some ⟨i, s.next r.st, [], 0, 0, 0, s.portCount r.port, s.portCount r.port, []⟩)

/-- The 64-byte header of a ring entry (Table TNK-4). -/
def inHeader (port : Nat) (x : OpenIn) (flags len : Nat) : List Byte :=
  leBytes 4 x.seq.toNat ++ leBytes 1 x.rcd ++ leBytes 1 port ++ leBytes 2 flags ++ leBytes 4 len ++ leBytes 4 x.units
    ++ leBytes 8 x.tstart.toNat ++ leBytes 8 x.tend.toNat ++ leBytes 4 x.sat ++ leBytes 28 0

/-- Closes an open input: its data, then its header, then the arrival; discarded when NEXT has moved or the stream is no longer bound (R262 to
R264). -/
def closeInput (i : Nat) (x : OpenIn) (data : List Byte) (s0 : State) : State :=
  let r := s0.irecOf i
  let s := s0.setInput r.st none
  if !s.bound r.st then dropInput i r.st r.port 1 s
  else if s.next r.st ≠ x.seq then dropInput i r.st r.port 3 s
  else
    let room := s.inRoom r.st
    let flags := x.flags ||| (if room < data.length then 32 else 0) ||| (if x.sat = 0 then 0 else 64)
    let bs := data.take room
    let a := s.inEntry r.st x.seq
    ((s.tankPut (a + 64) bs 48).tankPut a (inHeader r.port x flags bs.length) 48).arrive r.st

/-! ## CSI-2 -/

/-- Bytes of a line of w pixels by data type (MIPI CSI-2). -/
def lineLen (dt w : Nat) : Nat :=
  if dt = 0x2A then w else if dt = 0x2B then (10 * w + 7) / 8 else if dt = 0x2C then (12 * w + 7) / 8 else if dt = 0x24 then 3 * w else 2 * w

/-- A raw value of pixel x of a line: RAW types, or channel c of YUV422 and RGB888 (packing of MIPI CSI-2, PRESUMED, log entry 47). -/
def rawPix (dt c : Nat) (l : List Byte) (x : Nat) : Nat :=
  let b := fun i => (l.getD i 0).toNat
  if dt = 0x2A then b x
  else if dt = 0x2B then b (5 * (x / 4) + x % 4) * 4 + b (5 * (x / 4) + 4) / 4 ^ (x % 4) % 4
  else if dt = 0x2C then b (3 * (x / 2) + x % 2) * 16 + b (3 * (x / 2) + 2) / 16 ^ (x % 2) % 16
  else if dt = 0x2E then b (2 * x) * 256 + b (2 * x + 1)
  else if dt = 0x1E then (if c = 0 then b (4 * (x / 2) + 1 + 2 * (x % 2)) else if c = 1 then b (4 * (x / 2)) else b (4 * (x / 2) + 2))
  else b (3 * x + 2 - c)

/-- The colour of a pixel of the Bayer pattern: 0 R, 1 G, 2 B (Table TNK-3). -/
def bayerAt (pat x y : Nat) : Nat :=
  let k := 2 * (y % 2) + x % 2
  let at' := fun (l : List Nat) => l.getD k 1
  if pat = 0 then at' [0, 1, 1, 2] else if pat = 1 then at' [1, 0, 2, 1] else if pat = 2 then at' [1, 2, 0, 1] else at' [2, 1, 1, 0]

/-- A coordinate held in a range of n. -/
def edge (n : Nat) (x : Int) : Nat := if x < 0 then 0 else min (n - 1) x.toNat

/-- A colour at a pixel: its own, or the mean of the nearest pixels of that colour in the 3 × 3 neighbourhood with edges replicated (R261). -/
def demosaicAt (r : IRec) (raw : Nat → Nat → Nat) (c x y : Nat) : W32 :=
  if bayerAt r.bayer x y = c then natF (raw x y) else
  let at' := fun (d : Int × Int) => (edge r.inW (x + d.1), edge r.inH (y + d.2))
  let ofC := fun (l : List (Int × Int)) => (l.map at').filter (fun p => bayerAt r.bayer p.1 p.2 == c)
  let near := ofC [(0, -1), (-1, 0), (1, 0), (0, 1)]
  let l := if near.isEmpty then ofC [(-1, -1), (1, -1), (-1, 1), (1, 1)] else near
  fdiv (natF ((l.map (fun p => raw p.1 p.2)).foldl (fun a b => a + b) 0)) (natF l.length)

/-- A source sample coordinate: equal sizes copy exactly; held within the edges (R261). -/
def sampleAt (x out inp : Nat) : W32 :=
  if out = inp then natF x else
  let p := fsub (fdiv (fmul (fadd (natF x) 0x3F000000) (natF inp)) (natF out)) 0x3F000000
  if (f32 p).lt (.fin false 0 1) then 0 else if (f32 (natF (inp - 1))).lt (f32 p) then natF (inp - 1) else p

/-- Channels of a CSI source (R261). -/
def IRec.chans (r : IRec) : Nat := if isRaw r.dt && !r.demosaic then 1 else 3

/-- One converted element and whether it saturated (R261). -/
def intakeElem (s : State) (i : Nat) (r : IRec) (lines : List (List Byte)) (c x y : Nat) : Nat × Bool :=
  let raw := fun (px py : Nat) => rawPix r.dt c (lines.getD py []) px
  let px := fun (a b : Int) => let u := edge r.inW a; let v := edge r.inH b; if r.demosaic then demosaicAt r raw c u v else natF (raw u v)
  let v := sample px (sampleAt x r.outW r.inW) (sampleAt y r.outH r.inH)
  let mean := BitVec.ofNat 32 (s.irec i (16 + 4 * c) 4)
  let scale := BitVec.ofNat 32 (s.irec i (28 + 4 * c) 4)
  conv r.ofmt (r.rnd == 1) (f32 (fmul (fsub v mean) scale))

/-- The elements of a frame in the order of LAYOUT. -/
def intakeData (s : State) (i : Nat) (lines : List (List Byte)) : List (Nat × Bool) :=
  let r := s.irecOf i
  let ch := List.range r.chans
  let ys := List.range r.outH
  let xs := List.range r.outW
  if r.layout = 0 then ch.flatMap (fun c => ys.flatMap (fun y => xs.map (fun x => intakeElem s i r lines c x y)))
  else ys.flatMap (fun y => xs.flatMap (fun x => ch.map (fun c => intakeElem s i r lines c x y)))

/-- Closes a CSI input: missing lines are 0 and set SHORT (R262). -/
def closeCsi (i : Nat) (x : OpenIn) (short : Bool) (s : State) : State :=
  let r := s.irecOf i
  let els := intakeData s i x.raw
  let n := (els.filter (fun e => e.2)).length
  let fl := if short || decide (x.raw.length < r.inH) then x.flags ||| 2 else x.flags
  closeInput i { x with tend := s.portCount r.port, flags := fl, sat := n } (els.map (fun e => BitVec.ofNat 8 e.1)) (s.incReg Reg.INT_SAT_CNT n)

/-- The enabled records of a CSI port and virtual channel. -/
def State.csiRecs (s : State) (port vc : Nat) : List Nat :=
  (List.range 64).filter (fun i => let r := s.irecOf i; r.en && r.port == port && r.vc == vc)

/-- Whether an intake port is enabled and its domain runs (R265, R421). -/
def State.portOn (s : State) (p : Nat) : Bool := s.up 4 && s.rbit Reg.INT_CTL p

/-- CSI_FRAME_START. -/
def execCsiFrameStart (port : Fin 4) (vc : Fin 16) (s : State) : Out :=
  let l := s.csiRecs port vc
  let s1 := { s with eng := { s.eng with csi := Tab.insert s.eng.csi (16 * port.val + vc.val) l.isEmpty } }
  .next (s.when (s.portOn port) (l.foldl (fun t i =>
    openInput i (match t.inputOf i with
      | some x => closeCsi i x true t
      | none => t)) s1))

/-- A line for the open input of a record (R262). -/
def csiLine (i : Nat) (data : List Byte) (crcOk : Bool) (s : State) : State := match s.inputOf i with
  | none => s
  | some x =>
    let r := s.irecOf i
    let n := lineLen r.dt r.inW
    let long := decide (r.inH ≤ x.raw.length)
    let fl := x.flags ||| (if crcOk then 0 else 1) ||| (if long then 4 else 0) ||| (if data.length = n || long then 0 else 8)
    let line := (data ++ List.replicate (n - data.length) 0).take n
    s.setInput r.st (some { x with units := x.units + 1, flags := fl, raw := if long then x.raw else x.raw ++ [line] })

/-- CSI_LONG_PACKET: discarded for its header ECC, or for want of a record (R259). -/
def execCsiLongPacket (port : Fin 4) (vc : Fin 16) (dt : Byte) (data : List Byte) (hdrOk crcOk : Bool) (s : State) : Out :=
  let key := 16 * port.val + vc.val
  .next (s.when (s.portOn port) (
    if !hdrOk then s.incReg Reg.INT_ERR_CNT 1
    else match (s.csiRecs port vc).find? (fun i => (s.irecOf i).dt == dt.toNat) with
    | some i => csiLine i data crcOk s
    | none => match Tab.find? s.eng.csi key with
      | some _ => { s with eng := { s.eng with csi := Tab.insert s.eng.csi key true } }
      | none => s.incReg Reg.INT_ERR_CNT 1))

/-- CSI_FRAME_END. -/
def execCsiFrameEnd (port : Fin 4) (vc : Fin 16) (s : State) : Out :=
  let key := 16 * port.val + vc.val
  let l := s.csiRecs port vc
  let lost := match Tab.find? s.eng.csi key with
    | some b => b || l.isEmpty
    | none => false
  let s1 := { s with eng := { s.eng with csi := Tab.erase s.eng.csi key } }.incReg Reg.INT_ERR_CNT (b2n lost)
  .next (s.when (s.portOn port) (l.foldl (fun t i => match t.inputOf i with
    | some x => closeCsi i x false t
    | none => t) s1))

/-! ## Ethernet -/

/-- Whether a port's MAC filter takes a destination address; its first octet stands in bits [47:40] (R259, log entry 48). -/
def macTakes (s : State) (p : Nat) (dst : BitVec 48) : Bool :=
  let r := s.reg64 (Reg.INT_ETH_MAC p)
  if dst = 0xFFFFFFFFFFFF then nbits r 48 48 == 1
  else if bit dst 40 then nbits r 49 49 == 1
  else r % 2 ^ 48 == dst.toNat

/-- Appends a packet to the open input of a record, closing it at NPKT (R262). -/
def ethAppend (i : Nat) (x : OpenIn) (f : EthFrame) (s : State) : State :=
  let r := s.irecOf i
  let y := { x with units := x.units + 1, data := x.data ++ f.payload.drop r.payoff, tend := s.portCount r.port }
  if y.units ≥ r.npkt then closeInput i y y.data s else s.setInput r.st (some y)

/-- Packets still to come of a discarded input. -/
def State.setSkip (s : State) (i n : Nat) : State := { s with eng := { s.eng with skip := Tab.setD s.eng.skip i 0 n } }

/-- ETH_FRAME: filtered by its checks, the MAC filter and the records; the packets of an input that could not open are discarded with it (R259,
R262, R263). -/
def execEthFrame (port : Fin 2) (f : EthFrame) (s : State) : Out :=
  let p := 4 + port.val
  .next (s.when (s.portOn p) (
    match (if f.good && macTakes s port f.dst then (List.range 64).find? (fun i => let r := s.irecOf i; r.en && r.port == p && r.udp == f.udpPort.toNat) else none) with
    | none => s.incReg Reg.INT_ERR_CNT 1
    | some i =>
      let k := Tab.getD s.eng.skip i 0
      if 0 < k then s.setSkip i (k - 1)
      else match s.inputOf i with
        | some x => ethAppend i x f s
        | none =>
          let s1 := openInput i s
          match s1.inputOf i with
          | some x => ethAppend i x f s1
          | none => s1.setSkip i ((s.irecOf i).npkt - 1)))

/-- INTAKE_TIMEOUT: TMO without a packet closes the open input with TRUNC, and ends the discarding of one that could not open (R262). -/
def execIntakeTimeout (rec : Fin 64) (s : State) : Out :=
  let r := s.irecOf rec
  .next (s.when (s.up 4 && r.en && decide (4 ≤ r.port) && r.tmo != 0) (match s.inputOf rec with
    | some x => closeInput rec { x with flags := x.flags ||| 16 } x.data s
    | none => s.setSkip rec 0))

/-- INTAKE_LOCK_CHANGE (R277). -/
def execIntakeLockChange (port : Fin 6) (on : Bool) (s : State) : Out :=
  .next (s.when (s.up 4) (if on then s.orReg Reg.INT_PSTAT (2 ^ port.val) else s.clrReg Reg.INT_PSTAT (2 ^ port.val)))

end Sys2Proof.Machine
end

