-- ==== Sys2Proof/Machine/Sync.lean ====
section
/-!
DEFINITION. Sync, release and system instructions with what completes them (R194 to R204, R243, R248, R267, R338).
-/
namespace Sys2Proof.Machine

/-! ## Sync counters -/

/-- The counter an instruction names: s[RC] + CIX. -/
def ctrOf (c : Ctx) (w : BitVec 56) : Nat := (c.sreg (fw w 50 46) + BitVec.ofNat 64 (fw w 40 26)).toNat

/-- Whether a program may name a counter (R194). -/
def ctrOk (n : Nat) : Bool := decide (1024 ≤ n) && decide (n < 32768)

/-- SIG (R195, R206). -/
def execSig (k : CtxId) (w : BitVec 56) (s : State) : Out :=
  issue k w (fw w 15 0 == 0) (sNeeds [fw w 50 46, fw w 45 41]) (fun s =>
    let c := s.ctx (ctxIx k)
    let n := ctrOf c w
    if !ctrOk n then .trap 8
    else .ok (s.sigNow (ctxIx k) n (BitVec.ofNat 32 (c.sreg (fw w 45 41)).toNat + BitVec.ofNat 32 (fw w 25 16)))) s

/-- Whether a counter has reached a target (R196, R14). -/
def reached (s : State) (n : Nat) (t : W32) : Bool := decide ((Tab.getD s.sync n 0 - t).toNat < 2 ^ 31)

/-- A WAIT completes with a predicate value. -/
def waitEnd (i pd : Nat) (v : Bool) (s : State) : State :=
  s.onCtx i (fun c => { c.setP pd v with st := .run, hold := .free, pc := c.pc + 8 })

/-- WAIT (R196): complete at once when the counter has reached its target, else WAIT. -/
def execWait (k : CtxId) (w : BitVec 56) (s : State) : Out :=
  issue k w (fw w 17 0 == 0) (sNeeds [fw w 50 46, fw w 45 41, fw w 25 21]) (fun s =>
    let i := ctxIx k
    let c := s.ctx i
    let n := ctrOf c w
    let t := BitVec.ofNat 32 (c.sreg (fw w 45 41)).toNat
    if !ctrOk n then .trap 8
    else if reached s n t then .stay (waitEnd i (fw w 20 18) true s)
    else .stay (s.setCtx i { c with st := .wait, hold := .wait n t (BitVec.ofNat 32 (c.sreg (fw w 25 21)).toNat) (fw w 20 18) })) s

/-- WAIT_SATISFIED. -/
def execWaitSatisfied (k : CtxId) (s : State) : Out :=
  let i := ctxIx k
  .next (match (s.ctx i).hold with
    | .wait n t _ pd => if reached s n t then waitEnd i pd true s else s
    | _ => s)

/-- WAIT_TIMEOUT: a timeout of 0 waits without limit. -/
def execWaitTimeout (k : CtxId) (s : State) : Out :=
  let i := ctxIx k
  .next (match (s.ctx i).hold with
    | .wait _ _ tmo pd => if tmo = 0 then s else waitEnd i pd false s
    | _ => s)

/-- BAR0 offset of counter i by its set or add address (R197). -/
def ctrAddr (add : Bool) (i : Nat) : Nat := (if add then 0x00CA0000 else 0x00C80000) + 4 * i

/-- Whether a requester's counter write is discarded: host writes to counters below 1,024 (R197). -/
def ctrMine (who : Who) (i : Nat) : Bool := (whoPort who).isNone || decide (1024 ≤ i)

/-- SYNC_COUNTER_SET. -/
def execSyncCounterSet (who : Who) (i : Fin 32768) (v : W32) (s : State) : Out :=
  .next (s.access who (ctrAddr false i) (fun s => if ctrMine who i then { s with sync := Tab.setD s.sync i 0 v } else s))

/-- SYNC_COUNTER_ADD. -/
def execSyncCounterAdd (who : Who) (i : Fin 32768) (v : W32) (s : State) : Out :=
  .next (s.access who (ctrAddr true i) (fun s => if ctrMine who i then s.addSync i v else s))

/-! ## Release instructions -/

/-- The MODE of a REL word. -/
def relMode (w : BitVec 56) : Nat := fw w 50 49

/-- A REL word of a mode: the row's own, or the reserved mode 3, which is illegal (R223). -/
def relRow (m : Nat) (w : BitVec 56) : Bool := relMode w == m || relMode w == 3

/-- REL legal: MODE not reserved and bits [23:0] 0. -/
def legalRel (w : BitVec 56) : Bool := relMode w != 3 && fw w 23 0 == 0

/-- The stream a REL names: s[RS] + SIMM (R243). -/
def relStream (c : Ctx) (w : BitVec 56) : Nat := (c.sreg (fw w 48 44) + BitVec.ofNat 64 (fw w 43 38)).toNat

/-- Whether the stream exists and is bound (R243). -/
def relOk (s : State) (st : Nat) : Bool := decide (st < 64) && s.bound st

/-- BOUND of a context. -/
def State.ctxBound (s : State) (i : Nat) : Bool := s.rbit (Reg.SEQ_CTX_CFG i) 0

/-- The oldest arrival that can be taken: untaken and open, with fewer than WIN taken numbers unresolved (R200). -/
def takeReady (s : State) (st : Nat) : Option SeqSt :=
  let l := (s.strm st).seqs
  if (l.filter (fun r => r.taken)).length < s.win st then l.find? (fun r => !r.taken && r.st == .opened) else none

/-- A TAKE or JOIN completes: a set flag marks the result that was current, the new one becomes current, the flag is cleared, and the
mirror gets a checkpoint (R201, R334). With EN 1 the checkpoint is kept, for a resynchronisation sends it (R335; log entry 163). -/
def relCurrent (i st : Nat) (n : W32) (rd : Nat) (v : W64) (s : State) : State :=
  let s1 := match (s.ctx i).poison, (s.ctx i).cur with
    | true, some (a, b) => s.markPoison a b
    | _, _ => s
  let s2 := s1.onCtx i (fun c => { c.setS rd v with cur := some (st, n), poison := false, st := .run, hold := .free, pc := c.pc + 8 })
  let area := areaBytes i (s2.ctx i)
  let s3 := s2.when (s2.rbit Reg.HLK_PAIR_CFG 0) { s2 with pair := { s2.pair with chk := Tab.insert s2.pair.chk i area } }
  s3.mirrorSend (.checkpoint (ctxId i) area)

/-- TAKE takes an arrival. -/
def takeDone (i st rn : Nat) (r : SeqSt) (s : State) : State :=
  relCurrent i st r.seq rn (BitVec.ofNat 64 r.seq.toNat) (s.mapSeq st r.seq (fun x => { x with taken := true }))

/-- JOIN joins an assigned number: 0 when it is unresolved, 1 when it is resolved. -/
def joinDone (i st : Nat) (n : W32) (rr : Nat) (s : State) : State :=
  relCurrent i st n rr (if (s.seqOf st n).isSome then 0 else 1) s

/-- REL_TAKE. -/
def execRelTake (k : CtxId) (w : BitVec 56) (s : State) : Out :=
  if !relRow 0 w then .next s else
  issue k w (legalRel w) (sNeeds [fw w 48 44]) (fun s =>
    let i := ctxIx k
    let c := s.ctx i
    let st := relStream c w
    if !relOk s st || s.home st != i then .trap 9
    else match takeReady s st with
      | some r => .stay (takeDone i st (fw w 37 33) r s)
      | none => .stay (s.setCtx i { c with st := .wait, hold := .take st (fw w 37 33) })) s

/-- REL_JOIN. -/
def execRelJoin (k : CtxId) (w : BitVec 56) (s : State) : Out :=
  if !relRow 1 w then .next s else
  issue k w (legalRel w) (sNeeds [fw w 48 44, fw w 37 33]) (fun s =>
    let i := ctxIx k
    let c := s.ctx i
    let st := relStream c w
    let n := BitVec.ofNat 32 (c.sreg (fw w 37 33)).toNat
    if !relOk s st || !s.ctxBound i then .trap 9
    else if s.assigned st n then .stay (joinDone i st n (fw w 28 24) s)
    else .stay (s.setCtx i { c with st := .wait, hold := .join st n (fw w 28 24) })) s

/-- REL_WAIT_COMPLETE. -/
def execRelWaitComplete (k : CtxId) (s : State) : Out :=
  let i := ctxIx k
  .next (match (s.ctx i).hold with
    | .take st rn => match takeReady s st with
      | some r => takeDone i st rn r s
      | none => s
    | .join st n rr => if s.assigned st n then joinDone i st n rr s else s
    | _ => s)

/-! ## DONE -/

/-- Reads the rows of a tensor: the state after, the bytes in order, and whether a byte was poisoned (R228, R232). -/
def readRows (core port : Nat) (d : Desc) : List (Nat × Nat × Nat) → State → State × List Byte × Bool
  | [], s => (s, [], false)
  | (a, b, c) :: r, s =>
    let lo := spAddr core d.sp (d.rowAt a b c)
    let bad := s.bad d.sp lo d.rowBytes || !s.spUp core d.sp
    let bs := s.bytes d.sp lo d.rowBytes
    let (s1, x, y) := readRows core port d r (s.readFx d.sp lo d.rowBytes port 0)
    (s1, d.unpad bs ++ x, bad || y)

/-- Bytes a DONE copies (R202). -/
def Desc.copyLen (d : Desc) : Nat := d.dim1 * d.dim2 * d.dim3 * d.rowBytes

/-- The elements of a row of packed bytes (R19). -/
def Desc.elems (d : Desc) (bs : List Byte) : List Nat :=
  if d.fmt = 0 then (bs.flatMap (fun b => [b.toNat % 16, b.toNat / 16])).take d.dim0
  else (List.range d.dim0).map (fun i => leNat ((bs.drop (i * fmtBytes d.fmt)).take (fmtBytes d.fmt)))

/-- The elements of a copy of whole rows. -/
def Desc.copyElems (d : Desc) (bs : List Byte) : List Nat :=
  (List.range (d.dim1 * d.dim2 * d.dim3)).flatMap (fun r => d.elems ((bs.drop (r * d.rowBytes)).take d.rowBytes))

/-- |x| of an FP32 word. -/
def fabs (x : W32) : W32 := x &&& 0x7FFFFFFF

/-- The larger of two FP32 magnitudes. -/
def fmaxMag (a b : W32) : W32 := if (f32 (fabs a)).lt (f32 (fabs b)) then fabs b else fabs a

/-- Whether two elements agree (R338). -/
def agree (s : State) (fmt a b : Nat) : Bool :=
  if fmtFloat fmt then
    let x := toF32 (decode fmt a)
    let y := toF32 (decode fmt b)
    if f32IsNaN x || f32IsNaN y then f32IsNaN x && f32IsNaN y
    else
      let lim := fadd (s.reg Reg.HLK_LC_ATOL) (fmul (s.reg Reg.HLK_LC_RTOL) (fmaxMag x y))
      let d := fabs (fsub x y)
      !f32IsNaN d && !f32IsNaN lim && !(f32 lim).lt (f32 d)
  else match decode fmt a, decode fmt b with
    | .fin p n _, .fin q m _ =>
      let x : Int := if p then -(n : Int) else n
      let y : Int := if q then -(m : Int) else m
      decide ((x - y).natAbs ≤ s.fld Reg.HLK_LC_ITOL 15 0)
    | _, _ => false

/-- Whether two copies agree element by element. -/
def copiesAgree (s : State) (d : Desc) (a b : List Byte) : Bool :=
  a.length == b.length && ((d.copyElems a).zip (d.copyElems b)).all (fun p => agree s d.fmt p.1 p.2)

/-- A DONE returns a status: s[RR] is written and the current result cleared when it names it (R200, R202). -/
def doneRet (i st : Nat) (n : W32) (rr status : Nat) (s : State) : State :=
  s.onCtx i (fun c =>
    { c.setS rr (BitVec.ofNat 64 status) with cur := if c.cur = some (st, n) then none else c.cur, st := .run, hold := .free, pc := c.pc + 8 })

/-- A poisoned number is marked and closed as a gap at once (R202, R292). -/
def donePoison (i st : Nat) (n : W32) (rr : Nat) (s : State) : State :=
  doneRet i st n rr 2 (((s.mapSeq st n (fun r => { r with poison := true })).closeNum st n 2))

/-- The copy goes to the output ring entry and the result is accepted (R202, R266). -/
def doneAccept (i st : Nat) (n : W32) (rr : Nat) (data : List Byte) (s : State) : State :=
  let a := s.outEntry st n + 32
  let pw := s.partBadAt 0 a data.length
  let s1 := (s.tankPut a data (i / 4)).poisonIf i pw
  if pw then donePoison i st n rr s1
  else doneRet i st n rr 0 ((s1.mapSeq st n (fun r => { r with st := .accepted data.length })).flush st)

/-- The peer's copy of a number, if it is there. -/
def peerCopy (s : State) (st : Nat) (n : W32) : Option (List Byte) :=
  ((s.lockOf st).copies.find? (fun p => p.1 == n)).map (fun p => p.2)

/-- The comparison of a lockstep DONE with the peer's copy: accepted, or poisoned with event 0x0507 (R338). -/
def doneCompare (i st : Nat) (n : W32) (rr : Nat) (d : Desc) (data peer : List Byte) (s : State) : State :=
  if copiesAgree s d data peer then doneAccept i st n rr data s
  else donePoison i st n rr (s.raiseStream 0x0507 2 0x300 st n.toNat (st + 2 ^ 32 * n.toNat))

/-- What already decides a DONE: closed, closed by the peer's realignment, poisoned, or past its deadline (R202, R203, R267, R338). -/
def doneEarly (i st : Nat) (n : W32) (rr : Nat) (s : State) : Option State :=
  match s.seqOf st n with
  | none => some (doneRet i st n rr 1 s)
  | some r =>
    if r.st != .opened then some (doneRet i st n rr 1 s)
    else if (s.lockOf st).notices.contains n || r.poison then some (donePoison i st n rr s)
    else if r.deadline.toNat ≤ s.cnt.gate.toNat then some (doneRet i st n rr 1 (s.closeNum st n 1))
    else none

/-- A DONE attempted: decided, or its copy made once earlier writes are visible and its entry is free, or held. -/
def doneTry (i st : Nat) (n : W32) (dw : BitVec 256) (rr : Nat) (s : State) : State :=
  match doneEarly i st n rr s with
  | some t => t
  | none =>
    if !(s.ctx i).writes.isEmpty || !s.outFree st n then s.onCtx i (fun c => { c with hold := .done st n dw rr })
    else
      let d := descOf dw
      let (s1, data, bad) := readRows (i / 4) (i / 4) d d.rows s
      if bad then donePoison i st n rr (s1.poison i)
      else if s1.lockMode then
        let s2 := s1.toPeer (.copy st n data)
        match peerCopy s2 st n with
        | some p => doneCompare i st n rr d data p s2
        | none => s2.onCtx i (fun c => { c with hold := .doneCopy st n rr dw data })
      else doneAccept i st n rr data s1

/-- A DONE held for the peer's copy, attempted again (R338). -/
def doneAgain (i : Nat) (s : State) : State :=
  match (s.ctx i).hold with
  | .done st n dw rr => doneTry i st n dw rr s
  | .doneCopy st n rr dw data =>
    match doneEarly i st n rr s with
    | some t => t
    | none =>
      if !s.lockMode then doneAccept i st n rr data s
      else match peerCopy s st n with
        | some p => doneCompare i st n rr (descOf dw) data p s
        | none => s
  | _ => s

/-- Whether a DONE names a number that no context has taken (R200). -/
def untaken (s : State) (st : Nat) (n : W32) : Bool :=
  !s.assigned st n || !s.taken st n

/-- REL_DONE: it copies elements alone, so of a block-scale table only BSP is checked (R202, R229). -/
def execRelDone (k : CtxId) (w : BitVec 56) (s : State) : Out :=
  if !relRow 2 w then .next s else
  issue k w (legalRel w) (sNeeds [fw w 48 44, fw w 37 33] ++ dNeeds [fw w 32 29]) (fun s =>
    let i := ctxIx k
    let c := s.ctx i
    let st := relStream c w
    let n := BitVec.ofNat 32 (c.sreg (fw w 37 33)).toNat
    let dw := c.dreg (fw w 32 29)
    let d := descOf dw
    if !relOk s st || !s.ctxBound i || s.home st != i || untaken s st n then .trap 9
    else if d.formatBad || decide (d.copyLen > ringEntry (s.fld (Reg.INT_OUT_GEOM st) 15 0) - 32) then .trap 4
    else if d.plain.addressBad s || d.spaceBad s then .trap 3
    else .stay (doneTry i st n dw (fw w 28 24) s)) s

/-- DONE_ENTRY_FREE. -/
def execDoneEntryFree (k : CtxId) (s : State) : Out := .next (doneAgain (ctxIx k) s)

/-! ## Streams by register -/

/-- STREAM_ARRIVE: discarded while EN is 0 (Table EXE-10). The arrival changes NEXT, so an open input of the stream is discarded (R263). -/
def execStreamArrive (who : Who) (st : StreamId) (s : State) : Out :=
  .next (s.access who (Reg.SEQ_STRM_ARRIVE st) (fun s => if s.bound st then passInput st.val (s.arrive st) else s))

/-- Traps every context that waits in TAKE or JOIN on a stream (R243). -/
def trapWaiters (st : Nat) (s : State) : State :=
  (s.ctxs.map (fun e => e.1)).foldl (fun s i =>
    match (s.ctx i).hold with
    | .take x _ => if x = st then s.trap i 9 else s
    | .join x _ _ => if x = st then s.trap i 9 else s
    | _ => s) s

/-- A write of SEQ_STRM_CFG: EN from 1 to 0 unbinds (R204); any other write while EN is 1 is discarded, and while EN is 0 it takes effect, but the
standby of a MIRROR pair binds no stream (R334). -/
def strmCfgWrite (st : Nat) (v : W32) (s : State) : State :=
  if s.bound st then (if bit v 0 then s else trapWaiters st (unbind st s))
  else if bit v 0 && s.mirStandby then s
  else (s.putMasked (Reg.SEQ_STRM_CFG st) v).mirrorConfig st

/-- STREAM_UNBIND. -/
def execStreamUnbind (who : Who) (st : StreamId) (v : W32) (s : State) : Out :=
  .next (s.access who (Reg.SEQ_STRM_CFG st) (strmCfgWrite st v))

/-! ## System instructions -/

/-- Whether a FENCE's conditions hold: earlier writes visible, earlier SIGs added, earlier actuations in effect (R248). -/
def fenceDone (s : State) (i : Nat) : Bool := let c := s.ctx i; c.writes.isEmpty && c.sigs.isEmpty && !s.aoPend i

/-- FENCE: completes at once, or holds issue. -/
def execFence (k : CtxId) (w : BitVec 56) (s : State) : Out :=
  issue k w (fw w 50 0 == 0) [] (fun s =>
    let c := s.ctx (ctxIx k)
    .ok (if fenceDone s (ctxIx k) then s else s.setCtx (ctxIx k) { c with hold := .fence })) s

/-- FENCE_COMPLETE. -/
def execFenceComplete (k : CtxId) (s : State) : Out :=
  let c := s.ctx (ctxIx k)
  .next (if c.hold == .fence && fenceDone s (ctxIx k) then s.setCtx (ctxIx k) { c with hold := .free } else s)

/-- YIELD: holds issue for N core cycles, 1 when N is 0. -/
def execYield (k : CtxId) (w : BitVec 56) (s : State) : Out :=
  issue k w (fw w 50 16 == 0) [] (fun s =>
    .ok (s.onCtx (ctxIx k) (fun c => { c with hold := .yield (max 1 (fw w 15 0)) }))) s

/-- YIELD_EXPIRY. -/
def execYieldExpiry (k : CtxId) (s : State) : Out :=
  .next (match (s.ctx (ctxIx k)).hold with
    | .yield _ => s.onCtx (ctxIx k) (fun c => { c with hold := .free })
    | _ => s)

/-- TRAP: cause 0x80 + CODE. -/
def execTrap (k : CtxId) (w : BitVec 56) (s : State) : Out :=
  issue k w (fw w 50 7 == 0) [] (fun _ => .trap (0x80 + fw w 6 0)) s

/-- HALT: the context stops issuing; it enters HALT when its work has completed (R187). -/
def execHalt (k : CtxId) (w : BitVec 56) (s : State) : Out :=
  issue k w (fw w 50 0 == 0) [] (fun s => .stay (s.onCtx (ctxIx k) (fun c => { c with hold := .halt }))) s

/-- HALT_COMPLETE: tiles are freed, the context enters HALT, event 0x0C02. -/
def execHaltComplete (k : CtxId) (s : State) : Out :=
  let i := ctxIx k
  .next (if (s.ctx i).hold == .halt && s.quiet i then
    let s1 := (s.freeTiles i).onCtx i (fun c => { c with st := .halt, hold := .free })
    s1.raise 0x0C02 0 (i / 4) (i / 4 + 256 * (i % 4) + 2 ^ 64 * (s1.ctx i).pc.toNat)
  else s)

end Sys2Proof.Machine
end

