-- ==== Sys2Proof/Machine/Msr.lean ====
section
/-!
DEFINITION. The measurement block: triggers, runs, urgent requests, result words, buffers, calibration, and MRD (13_measurement_channels.md, R342 to
R368; R244).
-/
namespace Sys2Proof.Machine

/-! ## Converters -/

/-- A converter. -/
def State.msc (s : State) (m : Nat) : MsrConv := Tab.getD s.msr.conv m .idle

/-- Replaces a converter. -/
def State.setMsc (s : State) (m : Nat) (x : MsrConv) : State := { s with msr := { s.msr with conv := Tab.setD s.msr.conv m .idle x } }

/-- Whether a converter runs. -/
def State.mscOn (s : State) (m : Nat) : Bool := s.up 8 && s.rbit (Reg.MSRC_CTL m) 0

/-- TRIG of a converter (R350). -/
def State.mscTrig (s : State) (m : Nat) : Nat := s.fld (Reg.MSRC_CTL m) 2 1

/-- Entries of the sequence. -/
def State.mscLen (s : State) (m : Nat) : Nat := s.fld (Reg.MSRC_CTL m) 14 11 + 1

/-- The word of an entry. -/
def State.mscEntry (s : State) (m e : Nat) : W32 := s.reg (Reg.MSRC_ENTRY m e)

/-- Filter order of an entry. -/
def entOrder (e : W32) : Nat := bits e 13 12 + 1

/-- Settled results per run: 0 acts as 1. -/
def entCount (e : W32) : Nat := max 1 (bits e 23 16)

/-- Whether two entries have the same POS, NEG, SE, GAIN, REF and order (R347); NEG has no meaning with SE. -/
def sameEntry (a b : W32) : Bool :=
  bits a 3 0 == bits b 3 0 && bits a 14 8 == bits b 14 8 && (bit a 8 || bits a 7 4 == bits b 7 4)

/-- Starts a run of an entry; one that is not fresh keeps the overloads of the periods before it (R344, R347). -/
def runStart (m e : Nat) (fresh urg : Bool) (overs : List Bool) (s : State) : State :=
  s.setMsc m { s.msc m with run := some ⟨e, 0, fresh, urg, if fresh then [] else overs⟩ }

/-- Starts the first entry of a triggered pass, once no urgent run is in progress (R351, R357). -/
def passBegin (m : Nat) (s : State) : State :=
  let x := s.msc m
  if x.run.isSome then s.setMsc m { x with delay := false, ready := true }
  else runStart m 0 true false [] (s.setMsc m { x with delay := false, ready := false })

/-- A trigger that starts a pass, with its delay (R351). -/
def passTrigger (m : Nat) (s : State) : State :=
  let s1 := s.setMsc m { s.msc m with pass := true, delay := true }
  if s.fld (Reg.MSRC_TDLY m) 15 0 = 0 then passBegin m s1 else s1

/-- Whether 1 s has passed since an event, by the AON count. -/
def eventDue (now : W64) : Option W64 → Bool
  | none => true
  | some t => decide ((now - t).toNat ≥ 1000000)

/-- A discarded trigger: MSR_m_OVR_CNT, and event 0x0801 at most once in any 1 s (R352). -/
def trigDiscard (m : Nat) (s : State) : State :=
  let s1 := s.incReg (Reg.MSRC_OVR_CNT m) 1
  if eventDue s.cnt.aon (s.msc m).ev1 then
    (s1.setMsc m { s1.msc m with ev1 := some s.cnt.aon }).raise 0x0801 1 0x600 (m + 2 ^ 32 * (s1.reg (Reg.MSRC_OVR_CNT m)).toNat)
  else s1

/-- A trigger: it starts a pass, becomes pending, or is discarded; without the reference it is discarded uncounted (R350, R352, R353). -/
def trigger (m : Nat) (s : State) : State :=
  let x := s.msc m
  if !x.refrdy then s
  else if !x.pass then passTrigger m s
  else if s.rbit (Reg.MSRC_CTL m) 8 && !x.pend then s.setMsc m { x with pend := true }
  else trigDiscard m s

/-- MSR_TIMER_TRIGGER (R350): TPER 0 stops the timer. -/
def execMsrTimerTrigger (m : Fin 4) (s : State) : Out :=
  .next (s.when (s.mscOn m && s.mscTrig m == 1 && s.fld (Reg.MSRC_TPER m) 23 0 != 0) (trigger m s))

/-- MSR_EDGE_TRIGGER: the trigger of an accepted edge that the converter's CAPSEL and EDGE select (R350). -/
def execMsrEdgeTrigger (m : Fin 4) (s : State) : Out :=
  .next (s.when (s.mscOn m && s.mscTrig m == 2 && (s.msc m).edges != 0)
    (trigger m (s.setMsc m { s.msc m with edges := (s.msc m).edges - 1 })))

/-- MSR_SOFT_TRIGGER: no effect in mode 0 (R350). -/
def execMsrSoftTrigger (who : Who) (m : Fin 4) (s : State) : Out :=
  .next (s.access who (Reg.MSRC_CMD m) (fun s => if s.mscOn m && s.mscTrig m != 0 then trigger m s else s))

/-- MSR_DELAY_END (R351, R357). -/
def execMsrDelayEnd (m : Fin 4) (s : State) : Out := .next (s.when (s.mscOn m && (s.msc m).delay) (passBegin m s))

/-- MSR_REF_READY (R353). -/
def execMsrRefReady (m : Fin 4) (s : State) : Out :=
  .next (s.when (s.mscOn m) (s.setMsc m { s.msc m with refrdy := true }))

/-! ## Enabling and configuration -/

/-- A discarded configuration write (R355). -/
def cfgBusy (m off : Nat) (v : W32) (s : State) : State :=
  (s.orReg (Reg.MSRC_ERR m) 1).raise 0x0806 0 0x600 (m + 2 ^ 16 * off + 2 ^ 32 * v.toNat)

/-- EN from 0 to 1: LVALID clears, and in mode 0 a pass starts (R350, R360). -/
def enable (m : Nat) (v : W32) (s : State) : State :=
  let s1 := ((s.putMasked (Reg.MSRC_CTL m) v).setReg (Reg.MSRC_LVALID m) 0).setMsc m { s.msc m with refrdy := false, run := none, pass := false, delay := false, ready := false, resume := none, pend := false, upend := none, edges := 0 }
  if bits v 2 1 = 0 then runStart m 0 true false [] (s1.setMsc m { s1.msc m with pass := true }) else s1

/-- EN from 1 to 0: the converter stops at once (R354). -/
def disable (m : Nat) (s : State) : State :=
  (s.clrReg (Reg.MSRC_CTL m) 1).setMsc m { s.msc m with refrdy := false, run := none, pass := false, delay := false, ready := false, resume := none, pend := false, upend := none, edges := 0 }

/-- A write of MSR_m_CTL: clearing EN takes effect, and what the write would change beside it is discarded (R354, R355). -/
def ctlWrite (m : Nat) (v : W32) (s : State) : State :=
  if s.rbit (Reg.MSRC_CTL m) 0 then
    if bit v 0 then cfgBusy m 0 v s
    else if bits v 16 1 = s.fld (Reg.MSRC_CTL m) 16 1 then disable m s
    else disable m (cfgBusy m 0 v s)
  else if bit v 0 then enable m v s else s.putMasked (Reg.MSRC_CTL m) v

/-- MSR_ENABLE: a write of MSR_m_CTL. -/
def execMsrEnable (who : Who) (m : Fin 4) (v : W32) (s : State) : Out := .next (s.access who (Reg.MSRC_CTL m) (ctlWrite m v))

/-- MSR_DISABLE: a write of EN to 0. -/
def execMsrDisable (who : Who) (m : Fin 4) (s : State) : Out :=
  .next (s.access who (Reg.MSRC_CTL m) (fun s => if s.rbit (Reg.MSRC_CTL m) 0 then disable m s else s))

/-- Whether a register of a converter takes writes only while EN is 0 (R355). -/
def cfgOnly (off : Nat) : Bool :=
  off == 4 || (decide (0x18 ≤ off) && decide (off < 0x28)) || (decide (0x40 ≤ off) && decide (off < 0x80))

/-- MSR_CONFIG_WRITE: MSR_m_CTL, TUSER, ENTRYe and BUF_* while EN is 0, TPER and TDLY at any time (R355). -/
def execMsrConfigWrite (who : Who) (m : Fin 4) (off : BitVec 8) (v : W32) (s : State) : Out :=
  let a := Reg.MSRC_CTL m + off.toNat
  .next (s.access who a (fun s =>
    if off.toNat = 0 then ctlWrite m v s
    else if cfgOnly off.toNat then (if s.rbit (Reg.MSRC_CTL m) 0 then cfgBusy m off.toNat v s else s.putMasked a v)
    else if off.toNat = 8 ∨ off.toNat = 12 then s.putMasked a v else s))

/-! ## Urgent requests -/

/-- An urgent request: refused, pending, discarded, or run at once with the integration in progress aborted (R356, R358). -/
def urgent (m u : Nat) (s : State) : State :=
  let x := s.msc m
  if !s.rbit (Reg.MSRC_CTL m) 0 then s.orReg (Reg.MSRC_ERR m) 2
  else match x.run with
    | some r =>
      if !r.urg then runStart m u true true [] (s.setMsc m { x with resume := some r.entry })
      else if x.upend.isNone then s.setMsc m { x with upend := some u }
      else
        let s1 := s.incReg (Reg.MSRC_UOVR_CNT m) 1
        if eventDue s.cnt.aon x.ev2 then
          (s1.setMsc m { x with ev2 := some s.cnt.aon }).raise 0x0802 1 0x600 (m + 256 * u + 2 ^ 32 * (s1.reg (Reg.MSRC_UOVR_CNT m)).toNat)
        else s1
    | none => runStart m u true true [] s

/-- MSR_URGENT. -/
def execMsrUrgent (who : Who) (m : Fin 4) (u : Fin 16) (s : State) : Out := .next (s.access who (Reg.MSRC_CMD m) (urgent m u.val))

/-! ## Results -/

/-- The calibration pair of an entry: 128 × converter + 8 × input + GAIN (R363, Table MSR-5). -/
def pairIx (m : Nat) (e : W32) : Nat := 128 * m + 8 * bits e 3 0 + bits e 11 9

/-- A calibration pair. -/
def State.calPair (s : State) (p : Nat) : W32 × W32 := Tab.getD s.msr.pairs p (0, 0x3F800000)

/-- The value of a raw code: (raw − OFS) × GAIN, rounded once; clamped, with whether the clamp was needed (R344, R363). -/
def calValue (s : State) (p : Nat) (raw : Int) : Int × Bool :=
  let c := s.calPair p
  let v := ((Fr.ofInt (raw - c.1.toInt)).mul (f32 c.2).fr).round false
  if v < -8388608 then (-8388608, true) else if 8388607 < v then (8388607, true) else (v, false)

/-- Writes a word to the converter's buffer: the oldest word is overwritten when the buffer is full, and the fill reaching the watermark sets WM and
signals (R361, R362). -/
def bufWrite (m : Nat) (word : W32) (s : State) : State :=
  if !s.rbit (Reg.MSRC_BUF_CFG m) 4 then s else
  let size := 2 ^ (min 12 (s.fld (Reg.MSRC_BUF_CFG m) 3 0) + 8)
  let base := 256 * s.fld (Reg.MSRC_BUF_BASE m) 18 0
  let w := s.fld (Reg.MSRC_WPTR m) 19 0 % size
  let r := s.fld (Reg.MSRC_RPTR m) 19 0 % size
  let fill := (w + size - r) % size
  let full := fill == size - 4
  let s1 := if full then
      let t := (s.setReg (Reg.MSRC_RPTR m) (BitVec.ofNat 32 ((r + 4) % size))).incReg (Reg.MSRC_OVW_CNT m) 1
      if (t.msc m).ev3 then t
      else (t.setMsc m { t.msc m with ev3 := true }).raise 0x0803 1 0x600 (m + 2 ^ 32 * w)
    else s
  let s2 := if s.up 4 then s1.tankPut (base - base % size + w) (leBytes 4 word.toNat) 47 else s1
  let s3 := s2.setReg (Reg.MSRC_WPTR m) (BitVec.ofNat 32 ((w + 4) % size))
  let now := if full then fill / 4 else fill / 4 + 1
  let wm := s.fld (Reg.MSRC_BUF_WM m) 17 0
  if fill / 4 < wm ∧ wm ≤ now then
    let s4 := s3.orReg (Reg.MSRC_STAT m) (2 ^ 12)
    if s.rbit (Reg.MSRC_BUF_SIG m) 31 && s.up 4 then s4.addSync (s.fld (Reg.MSRC_BUF_SIG m) 14 0) 1 else s4
  else s3

/-- Delivers a result word: held for MRD and written to the buffer (R359 to R361). -/
def deliverWord (m e : Nat) (word : W32) (s : State) : State :=
  bufWrite m word ((s.setReg (Reg.MSRC_LAST m e) word).orReg (Reg.MSRC_LVALID m) (2 ^ e))

/-- A pass has ended: continuous mode starts the next without a gap, a pending trigger starts one with its delay, else the converter waits (R350,
R352). -/
def passOver (m : Nat) (r : MsrRun) (s : State) : State :=
  let x := s.msc m
  if s.mscTrig m = 0 then
    runStart m 0 (!sameEntry (s.mscEntry m r.entry) (s.mscEntry m 0)) false r.overs s
  else
    let s1 := s.setMsc m { x with run := none, pass := false, pend := false }
    if x.pend then passTrigger m s1 else s1

/-- What follows the last result of a run (R349, R356 to R358). -/
def runOver (m : Nat) (r : MsrRun) (s : State) : State :=
  let x := s.msc m
  if r.urg then
    match x.upend, x.resume with
    | some u, _ => runStart m u true true [] (s.setMsc m { x with upend := none })
    | none, some e => runStart m e true false [] (s.setMsc m { x with resume := none })
    | none, none =>
      let s1 := s.setMsc m { x with run := none }
      if x.ready then passBegin m s1 else s1
  else if r.entry + 1 < s.mscLen m then
    runStart m (r.entry + 1) (!sameEntry (s.mscEntry m r.entry) (s.mscEntry m (r.entry + 1))) false r.overs s
  else passOver m r s

/-- The code nearest to a quotient; half way between two, the one that the part takes (R344). -/
def nearCode (n d : Int) : Int :=
  let (n, d) := if d < 0 then (-n, -d) else (n, d)
  if d = 0 then Config.rawOpen n else
  let q := n.fdiv d
  let r := n - q * d
  if 2 * r < d then q else if d < 2 * r then q + 1 else if Config.rawTie n d then q + 1 else q

/-- The raw code of an entry: V(POS) − V(NEG), or V(POS) with SE, times G over the reference, 2.5 V or EXCm (R343, R344). -/
def rawCode (e : W32) (v : Volts) : Int :=
  let at' := fun k => v.inputs.getD k 0
  let x := if bit e 8 then at' (bits e 3 0) else at' (bits e 3 0) - at' (bits e 7 4)
  nearCode (x * 2 ^ (bits e 11 9 + 23)) (if bit e 14 then v.exc else 2500000000000)

/-- Whether an entry measures against an excitation output that is disabled, which overloads the modulator (R377). -/
def excOff (s : State) (m : Nat) (e : W32) : Bool := bit e 14 && !s.rbit Reg.ACT_EN (8 + m)

/-- One result of a run (R343, R344, R347, R348, R359, R377). -/
def result (m : Nat) (r : MsrRun) (volts : Volts) (ovl : Bool) (s : State) : State :=
  let e := s.mscEntry m r.entry
  let n := entOrder e
  let overs := ((ovl || excOff s m e) :: r.overs).take n
  let (v, clamp) := calValue s (pairIx m e) (rawCode e volts)
  let bad := clamp || overs.any (fun b => b)
  let settled := !(r.fresh && decide (r.got + 1 < n))
  let word := BitVec.ofNat 32 (ofInt 24 v + 2 ^ 24 * r.entry + 2 ^ 28 * m + 2 ^ 30 * b2n settled + 2 ^ 31 * b2n bad)
  let r1 : MsrRun := { r with got := r.got + 1, overs := overs }
  let s1 := (if bad then s.incReg (Reg.MSRC_OR_CNT m) 1 else s).setMsc m { s.msc m with run := some r1 }
  let s2 := if !settled && s.rbit (Reg.MSRC_CTL m) 9 then s1 else deliverWord m r.entry word s1
  if r1.got = (if r.fresh then n - 1 else 0) + entCount e then runOver m r1 s2 else s2

/-- MSR_RESULT: an integration period of the run in progress ends. -/
def execMsrResult (m : Fin 4) (v : Volts) (ovl : Bool) (s : State) : Out :=
  .next (s.when (s.mscOn m) (match (s.msc m).run with
    | some r => result m r v ovl s
    | none => s))

/-- MSR_CLR_CNT (Table MSR-6). -/
def execMsrClrCnt (who : Who) (m : Fin 4) (s : State) : Out :=
  .next (s.access who (Reg.MSRC_CMD m) (fun s =>
    let s1 := (List.range 4).foldl (fun t i => t.setReg (Reg.MSRC_OVR_CNT m + 4 * i) 0) s
    s1.setMsc m { s1.msc m with ev3 := false }))

/-- MSR_RPTR_WRITE: the reader frees words (R361). -/
def execMsrRptrWrite (who : Who) (m : Fin 4) (v : W32) (s : State) : Out :=
  .next (s.access who (Reg.MSRC_RPTR m) (fun s => s.putMasked (Reg.MSRC_RPTR m) v))

/-! ## Calibration -/

/-- A calibration step ends with a code; a refusal raises event 0x0804 (R364, Table MSR-4). -/
def calEnd (m step code pair : Nat) (s : State) : State :=
  (s.setReg Reg.MSR_CAL_STAT (BitVec.ofNat 32 (code + 2 ^ 31))).raiseIf (code != 0) 0x0804 1 0x600
    (m + 256 * step + 2 ^ 16 * code + 2 ^ 32 * pair)

/-- Whether a calibration is in progress. -/
def State.calBusy (s : State) : Bool := s.rbit Reg.MSR_STAT 1

/-- Starts a ZERO or FULL step, or refuses it (R364). -/
def calStep (m : Nat) (full : Bool) (s : State) : State :=
  let p := pairIx m (s.reg Reg.MSR_CAL_ENT)
  let step := if full then 2 else 1
  if s.calBusy then calEnd m step 6 p s
  else if s.rbit (Reg.MSRC_CTL m) 0 then calEnd m step 1 p s
  else if full && (Tab.find? s.msr.zero p).isNone then calEnd m step 4 p s
  else { s.orReg Reg.MSR_STAT 2 with msr := { s.msr with cal := some (m, p, full) } }

/-- MSR_CAL_ZERO. -/
def execMsrCalZero (who : Who) (m : Fin 4) (s : State) : Out := .next (s.access who Reg.MSR_CAL_CMD (calStep m.val false))

/-- MSR_CAL_FULL. -/
def execMsrCalFull (who : Who) (m : Fin 4) (s : State) : Out := .next (s.access who Reg.MSR_CAL_CMD (calStep m.val true))

/-- The payload of the calibration record: pair p at bytes 8p to 8p + 7 (15_nonvolatile_store.md). -/
def calPayload (s : State) : List Byte :=
  (List.range 512).flatMap (fun p => let c := s.calPair p; leBytes 4 c.1.toNat ++ leBytes 4 c.2.toNat)

/-- MSR_CAL_SAVE: every pair is written as one A/B record; a refusal names the converter of the write (R364, R368, R403). -/
def execMsrCalSave (w : CalSave) (s : State) : Out :=
  .next (s.access w.who Reg.MSR_CAL_CMD (fun s =>
    if s.calBusy then calEnd w.conv.val 3 6 0 s
    else if s.rst.bowarn then calEnd w.conv.val 3 5 0 s
    else
      let (s1, a) := s.abRead abCal
      (s1.orReg Reg.MSR_STAT 2).nvsPut ((recordJobs abCal a (calPayload s1) (.cal w.conv false) (.cal w.conv true)).map NvsCmd.page)))

/-- The mean of the settled codes, exact. -/
def codeMean (l : List Int) : Fr := (Fr.ofInt (l.foldl (fun a b => a + b) 0)).div (Fr.ofInt (max 1 l.length : Nat))

/-- The end of a step that was not OVERRANGE: ZERO keeps OFS for its FULL, FULL sets the pair (R364). -/
def calResult (m p : Nat) (full : Bool) (codes : List Int) (s : State) : State :=
  if !full then
    calEnd m 1 0 p { s with msr := { s.msr with zero := Tab.insert s.msr.zero p (BitVec.ofInt 32 ((codeMean codes).round false)) } }
  else
    let ofs := Tab.getD s.msr.zero p 0
    let d := (codeMean codes).sub (Fr.ofInt ofs.toInt)
    let g := (Fr.ofInt (sint 24 (s.fld Reg.MSR_CAL_FS 23 0))).div d
    if d.num = 0 ∨ g.lt ⟨1, 2⟩ ∨ (Fr.ofInt 2).lt g then calEnd m 2 3 p s
    else calEnd m 2 0 p { s with msr := { s.msr with zero := Tab.erase s.msr.zero p, pairs := Tab.insert s.msr.pairs p (ofs, toF32 (Val.ofFr g)) } }

/-- Whether a raw code needs a clamp: the step judges it before any calibration, since a pair is what it measures (R344, R364). DESIGN CHOICE, log entry 132. -/
def rawClamps (v : Int) : Bool := decide (v < -8388608) || decide (8388607 < v)

/-- MSR_CAL_STEP_COMPLETE: the settled codes under MSR_CAL_ENT (R364, R377). -/
def execMsrCalStepComplete (vs : List Volts) (ovl : Bool) (s : State) : Out :=
  .next (s.when (s.up 8) (match s.msr.cal with
    | some (m, p, full) =>
      let s1 := { s.clrReg Reg.MSR_STAT 2 with msr := { s.msr with cal := none } }
      let e := s.reg Reg.MSR_CAL_ENT
      let codes := vs.map (rawCode e)
      if ovl || excOff s m e || codes.any rawClamps then calEnd m (if full then 2 else 1) 2 p s1 else calResult m p full codes s1
    | none => s))

/-- The pairs load from their record at a start; with no valid copy they are the defaults, CALDEF and event 0x0805 (R363). -/
def loadCal (s : State) : State :=
  let (s1, a) := s.abRead abCal
  match a.payload with
  | some l => { s1 with msr := { s1.msr with pairs := (List.range 512).map (fun p => (p, (BitVec.ofNat 32 (leNat ((l.drop (8 * p)).take 4)), BitVec.ofNat 32 (leNat ((l.drop (8 * p + 4)).take 4))))) } }
  | none => (s1.orReg Reg.MSR_STAT 1).raise 0x0805 1 0x600 0

/-! ## MRD -/

/-- MRD: the latest result word of an entry (R244, R360). -/
def execMrd (k : CtxId) (w : BitVec 56) (s : State) : Out :=
  issue k w (fw w 36 0 == 0) [] (fun s =>
    let m := fw w 50 49
    let e := fw w 48 45
    if !s.mscOn m then .trap 0x0C
    else
      let ok := s.rbit (Reg.MSRC_LVALID m) e
      let v := if ok then (s.reg (Reg.MSRC_LAST m e)).toNat else 0
      .ok (s.onCtx (ctxIx k) (fun c => (c.setS (fw w 44 40) (BitVec.ofNat 64 v)).setP (fw w 39 37) ok))) s

end Sys2Proof.Machine
end

