-- ==== Sys2Proof/Machine/Act.lean ====
section
/-!
DEFINITION. Actuation: current, excitation and PWM outputs, capture inputs, the safe state's inputs, CAN controllers, and the instructions CANTX,
CANRX, AOW and PWMW (R244 to R246, R369 to R390).
-/
namespace Sys2Proof.Machine

/-! ## The safe state's causes -/

/-- STOP_N_ASSERT_ACCEPT: the filter accepts the level, STOPL is set and the outputs go off, with event 0x0901 (Table ACT-1). -/
def execStopNAssertAccept (s : State) : Out :=
  .next (s.when (s.up 8 && !s.act.stop)
    ((outputsOff (s.onAct (fun a => { a with stop := true, stopL := true }))).raise 0x0901 2 0x700 (Tab.getD s.cnt.can 0 0).toNat))

/-- STOP_N_DEASSERT_ACCEPT (R371, R372). -/
def execStopNDeassertAccept (s : State) : Out := .next (s.when (s.up 8) (safeSync (s.onAct (fun a => { a with stop := false }))))

/-- FORCE: a write of ACT_SAFE.FORCE (R370, R498). -/
def execForce (who : Who) (on : Bool) (s : State) : Out :=
  .next (s.access who Reg.ACT_SAFE (fun s => safeSync (s.setFld Reg.ACT_SAFE 5 5 (b2n on))))

/-- CLEAR: clears STOPL while STOP_N is deasserted (R372). -/
def execClear (who : Who) (s : State) : Out :=
  .next (s.access who Reg.ACT_SAFE (fun s => if s.act.stop then s else safeSync (s.onAct (fun a => { a with stopL := false }))))

/-- VFIELD_LOW: the monitor's level also stands while the block is in reset, and acts at its release (R370, R483, R498). -/
def execVfieldLow (s : State) : Out := .next (safeSync (s.onAct (fun a => { a with vflow := true })))

/-- VFIELD_RECOVER (R370, R483). -/
def execVfieldRecover (s : State) : Out := .next (safeSync (s.onAct (fun a => { a with vflow := false })))

/-! ## Current and excitation outputs -/

/-- The unary part of a code: CODE[15:10] (R375). -/
def unary (c : BitVec 16) : Nat := c.toNat / 1024

/-- One write takes effect at a tick: nothing in the safe state, or when that held since its acceptance; a level whose unary part does not change transfers at the tick (R372, R373, R375). -/
def aoApply (s : State) (w : AoWrite) : State :=
  if s.act.safe || w.dead then s
  else
    let old := Tab.getD s.act.level w.ch 0
    let s1 := s.setReg (Reg.ACT_AO_CODE w.ch) (BitVec.ofNat 32 w.code.toNat)
    if unary w.code = unary old then s1.onAct (fun a => { a with level := Tab.setD a.level w.ch 0 w.code }) else s1

/-- AO_UPDATE_TICK: the writes that wait take effect in the order in which they came (R208, R375). -/
def execAoUpdateTick (s : State) : Out :=
  .next (s.when (s.up 8) ((s.act.aoq.foldl aoApply s).onAct (fun a => { a with aoq := [] })))

/-- AO_DEGLITCH_TRANSFER: the held output takes the level of the code applied (R375). -/
def execAoDeglitchTransfer (ch : Fin 8) (s : State) : Out :=
  .next (s.when (s.up 8) (s.onAct (fun a => { a with level := Tab.setD a.level ch.val 0 (BitVec.ofNat 16 (s.fld (Reg.ACT_AO_CODE ch.val) 15 0)) })))

/-- AO_RATE_WRITE (R375). -/
def execAoRateWrite (who : Who) (v : W32) (s : State) : Out :=
  .next (s.access who Reg.ACT_AO_RATE (fun s => s.putMasked Reg.ACT_AO_RATE v))

/-- Sets a status bit; event when it goes from 0 to 1. -/
def statBit (b : Nat) (on : Bool) (code pay : Nat) (s : State) : State :=
  (s.setFld Reg.ACT_AO_STAT b b (b2n on)).raiseIf (on && !s.rbit Reg.ACT_AO_STAT b) code 1 0x700 pay

/-- AO_LIMIT_CHANGE: COMPL and LIMIT of an output, with event 0x0903 (R376). -/
def execAoLimitChange (ch : Fin 8) (limit compl : Bool) (s : State) : Out :=
  .next (s.when (s.up 8) (statBit (8 + ch.val) limit 0x0903 (ch.val + 256) (statBit ch.val compl 0x0903 ch.val s)))

/-- EXC_LIMIT: ILIM of an excitation output, with event 0x0904 (R377). -/
def execExcLimit (m : Fin 4) (on : Bool) (s : State) : Out := .next (s.when (s.up 8) (statBit (16 + m.val) on 0x0904 m.val s))

/-! ## PWM and capture -/

/-- PER of a PWM output: below 100 acts as 100 (Table ACT-3). -/
def State.pwmPer (s : State) (n : Nat) : Nat := max 100 (s.fld (Reg.ACT_PWM_PER n) 23 0)

/-- The level of a PWM pin, none when it is released: disabled, or not written since the last safe state (R372, R378). -/
def State.pwmPin (s : State) (n : Nat) : Option Bool :=
  if s.up 8 && s.rbit Reg.ACT_EN (16 + n) && Tab.getD s.act.drv n false then some (Tab.getD s.act.pwmOn n false != s.rbit (Reg.ACT_PWM_CFG n) 0) else none

/-- PWM_PERIOD_START: the pending duty applies (R378). -/
def execPwmPeriodStart (ch : Fin 8) (s : State) : Out :=
  let d := s.fld (Reg.ACT_PWM_DUTY ch.val) 31 16
  let on := Tab.getD s.act.drv ch.val false && decide (0 < d * s.pwmPer ch.val / 65536)
  .next (s.when (s.up 8 && s.rbit Reg.ACT_EN (16 + ch.val))
    ((s.setFld (Reg.ACT_PWM_DUTY ch.val) 15 0 d).onAct (fun a => { a with pwmOn := Tab.setD a.pwmOn ch.val false on })))

/-- PWM_ACTIVE_END (R378). -/
def execPwmActiveEnd (ch : Fin 8) (s : State) : Out :=
  .next (s.when (s.up 8) (s.onAct (fun a => { a with pwmOn := Tab.setD a.pwmOn ch.val false false })))

/-- Whether a capture input is enabled. -/
def State.capOn (s : State) (n : Nat) : Bool := s.up 8 && s.rbit Reg.ACT_EN (24 + n)

/-- An accepted edge of a capture input that converter m selects is a trigger to come (R350, R380). -/
def edgeSeen (m n : Nat) (rising : Bool) (s : State) : State :=
  let dir := s.fld (Reg.MSRC_CTL m) 7 6
  if s.mscOn m && s.mscTrig m == 2 && s.fld (Reg.MSRC_CTL m) 5 3 == n && (decide (2 ≤ dir) || (dir == 0) == rising) then
    s.setMsc m { s.msc m with edges := (s.msc m).edges + 1 }
  else s

/-- CAPTURE_EDGE: `ticks` since the last accepted rising edge give the period at a rising edge and the high time at a falling one (R380). -/
def execCaptureEdge (ch : Fin 8) (rising : Bool) (ticks : W32) (s : State) : Out :=
  let n := ch.val
  let seen := Tab.getD s.act.cap n false
  .next (s.when (s.capOn n) (
    let s1 := s.incWrap (Reg.ACT_CAP_EDGES n) 1
    let s2 := if !seen then s1 else if rising then s1.setReg (Reg.ACT_CAP_PER n) ticks else s1.setReg (Reg.ACT_CAP_HIGH n) ticks
    let s3 := if rising then s2.onAct (fun a => { a with cap := Tab.setD a.cap n false true }) else s2
    (List.range 4).foldl (fun t m => edgeSeen m n rising t) s3))

/-- CAPTURE_TIMEOUT: no rising edge for 2^32 ticks (R380). -/
def execCaptureTimeout (ch : Fin 8) (s : State) : Out :=
  .next (s.when (s.capOn ch.val)
    ((s.setReg (Reg.ACT_CAP_PER ch.val) 0xFFFFFFFF).onAct (fun a => { a with cap := Tab.setD a.cap ch.val false false })))

/-! ## CAN controllers -/

/-- Data bytes of a DLC (ISO 11898-1:2015; R245). -/
def dlcLen (d : Nat) : Nat :=
  if d ≤ 8 then d else if d ≤ 12 then 4 * (d - 6) else if d = 13 then 32 else if d = 14 then 48 else 64

/-- Data bytes of a frame: none in a remote frame, at most 8 in a classical one. -/
def frameLen (f : CanFrame) : Nat := if f.rtr then 0 else if f.fdf then dlcLen f.dlc.toNat else min 8 f.dlc.toNat

/-- Whether a filter keeps a frame (R384). -/
def filterHit (s : State) (n k : Nat) (f : CanFrame) : Bool :=
  let lo := s.reg (Reg.CAN_FLT n k)
  let mask := bits (s.reg (Reg.CAN_FLT n k + 4)) 28 0
  bit lo 31 && bit lo 29 == f.ide && (f.id.toNat ^^^ bits lo 28 0) &&& mask == 0

/-- Whether a controller keeps a frame: a filter keeps it, or no filter is enabled. -/
def keeps (s : State) (n : Nat) (f : CanFrame) : Bool :=
  (List.range 16).any (fun k => filterHit s n k f) || !(List.range 16).any (fun k => bit (s.reg (Reg.CAN_FLT n k)) 31)

/-- A frame received: kept with the local count at its end, or lost to a full queue; the first loss raises event 0x0906 (R384). -/
def canReceive (n : Nat) (f : CanFrame) (s : State) : State :=
  if !keeps s n f then s else
  let x := s.can n
  if x.rx.length < 64 then s.setCan n { x with rx := x.rx ++ [(f, Tab.getD s.cnt.can n 0)] }
  else ((s.setCan n { x with ovf := true }).incReg (Reg.CAN_RXOVF_CNT n) 1).raiseIf (!x.ovf) 0x0906 1 0x700 n

/-- Sets TEC, REC and the state; entering error-passive or bus-off raises event 0x0905 (R381). -/
def canState (n tec rec st : Nat) (s : State) : State :=
  let old := s.fld (Reg.CAN_STAT n) 1 0
  let s1 := ((s.setFld (Reg.CAN_STAT n) 15 8 tec).setFld (Reg.CAN_STAT n) 23 16 rec).setFld (Reg.CAN_STAT n) 1 0 st
  let s2 := if st = 2 ∧ old ≠ 2 then s1.setCan n { s1.can n with recov := false, ovf := false } else s1
  s2.raiseIf (decide (st ≠ old) && decide (st ≠ 0)) 0x0905 1 0x700 (n + 256 * st + 2 ^ 16 * tec)

/-- The state that error counters give short of bus-off (ISO 11898-1). -/
def passive (tec rec : Nat) : Nat := if 127 < tec ∨ 127 < rec then 1 else 0

/-- The error counters of a controller. -/
def State.canTec (s : State) (n : Nat) : Nat := s.fld (Reg.CAN_STAT n) 15 8
def State.canRec (s : State) (n : Nat) : Nat := s.fld (Reg.CAN_STAT n) 23 16

/-- CAN_TX_COMPLETE: the frame in transmission, or the one that the controller offers, was sent, or stays queued (R382, R383). In internal loopback the
controller receives it. -/
def execCanTxComplete (n : Fin 4) (r : CanTxResult) (s : State) : Out :=
  let i := n.val
  let k := s.can i
  .next (s.when (s.canOffers i) (match k.bus <|> winner k.tx with
    | none => s
    | some x =>
      let off := s.setCan i { k with bus := none }
      match r with
      | .sent tec =>
        let s1 := canState i tec.toNat (s.canRec i) (passive tec.toNat (s.canRec i)) (s.setCan i { k with tx := k.tx.erase x, bus := none })
        if s.fld (Reg.CAN_CFG i) 1 0 = 2 then canReceive i x.frame s1 else s1
      | .lostArbitration => off
      | .error tec busOff => canState i tec.toNat (s.canRec i) (if busOff then 2 else passive tec.toNat (s.canRec i)) off))

/-- CAN_RX_FRAME: a good frame is kept or lost; an error counts, and may make the controller error-passive (R381, R384). -/
def execCanRxFrame (n : Fin 4) (r : CanRxResult) (s : State) : Out :=
  let i := n.val
  let count := fun (rec : Byte) => canState i (s.canTec i) rec.toNat (passive (s.canTec i) rec.toNat) s
  .next (s.when (s.canOn i && s.fld (Reg.CAN_STAT i) 1 0 != 2) (match r with
    | .frame f rec => canReceive i f (count rec)
    | .error rec => count rec))

/-- CAN_BUS_OFF_RECOVERY: ends bus-off by itself with AUTOREC, else after RECOVER (R381, R382). -/
def execCanBusOffRecovery (n : Fin 4) (s : State) : Out :=
  let x := s.can n.val
  .next (s.when (s.canOn n.val && s.fld (Reg.CAN_STAT n.val) 1 0 == 2 && (s.rbit (Reg.CAN_CFG n.val) 3 || x.recov))
    ((s.setReg (Reg.CAN_STAT n.val) 0).setCan n.val { x with recov := false }))

/-- FLUSH: discards queued frames not in transmission (Table ACT-4). -/
def execFlush (who : Who) (n : Fin 4) (s : State) : Out :=
  .next (s.access who (Reg.CAN_CMD n.val) (fun s => (canDiscard n.val s).1))

/-- RECOVER: starts bus-off recovery (R382). -/
def execRecover (who : Who) (n : Fin 4) (s : State) : Out :=
  .next (s.access who (Reg.CAN_CMD n.val) (fun s =>
    if s.fld (Reg.CAN_STAT n.val) 1 0 = 2 then s.setCan n.val { s.can n.val with recov := true } else s))

/-- CAN_CONFIG_WRITE: CAN_CFG, CAN_NBT, CAN_DBT and the filters, while the controller is disabled; otherwise discarded with event 0x0908, the lower
word of a filter being held first (R6, R385). -/
def execCanConfigWrite (who : Who) (n : Fin 4) (off : BitVec 8) (v : W32) (s : State) : Out :=
  let a := Reg.CAN_CFG n.val + off.toNat
  .next (s.access who a (fun s =>
    let low := decide (0x40 ≤ off.toNat) && off.toNat % 8 == 0
    if s.rbit Reg.ACT_EN (12 + n.val) && !low then (s.endHeld who a).raise 0x0908 0 0x700 (n.val + 2 ^ 16 * off.toNat + 2 ^ 32 * v.toNat)
    else s.writeWord who a v))

/-! ## Instructions -/

/-- Whether a context may not actuate for poison: its flag, or its current result's mark (R201). -/
def State.poisoned (s : State) (i : Nat) : Bool :=
  (s.ctx i).poison || (match (s.ctx i).cur with
    | some (st, n) => s.marked st n
    | none => false)

/-- The first cause that turns an actuation away: authority, resource, poison (R201, R232, R244, R246). -/
def actTrap (s : State) (i : Nat) (enabled src : Bool) : Option Nat :=
  if !s.auth then some 0x0B else if !(s.up 8 && enabled) then some 0x0C else if src || s.poisoned i then some 0x0A else none

/-- AOW: the code waits for the channel's next tick; it holds while an earlier write of the channel has not taken effect (R244, R375). -/
def execAow (k : CtxId) (w : BitVec 56) (s : State) : Out :=
  issue k w (fw w 42 0 == 0) (sNeeds [fw w 47 43]) (fun s =>
    let i := ctxIx k
    let ch := fw w 50 48
    match actTrap s i (s.rbit Reg.ACT_EN ch) false with
    | some c => .trap c
    | none =>
      if s.act.aoq.any (fun x => x.ch == ch) then .hold
      else .ok (s.onAct (fun a => { a with aoq := a.aoq ++ [⟨ch, BitVec.ofNat 16 ((s.ctx i).sreg (fw w 47 43)).toNat, i, a.safe⟩] }))) s

/-- PWMW: latches the pending duty, after earlier actuations of the context; nothing in the safe state (R208, R373, R378). -/
def execPwmw (k : CtxId) (w : BitVec 56) (s : State) : Out :=
  issue k w (fw w 42 0 == 0) (sNeeds [fw w 47 43]) (fun s =>
    let i := ctxIx k
    let ch := fw w 50 48
    match actTrap s i (s.rbit Reg.ACT_EN (16 + ch)) false with
    | some c => .trap c
    | none =>
      if s.aoPend i then .hold
      else if s.act.safe then .ok s
      else .ok ((s.setFld (Reg.ACT_PWM_DUTY ch) 31 16 ((s.ctx i).sreg (fw w 47 43)).toNat).onAct (fun a => { a with drv := Tab.setD a.drv ch false true }))) s

/-- The frame of a record (Table INS-17). -/
def frameOf (l : List Byte) : CanFrame :=
  let h := leNat (l.take 4)
  let d := leNat ((l.drop 4).take 1)
  let f : CanFrame := ⟨BitVec.ofNat 29 h, nbits h 29 29 == 1, nbits h 30 30 == 1, nbits h 31 31 == 1, BitVec.ofNat 4 d, nbits d 4 4 == 1, []⟩
  { f with data := (l.drop 8).take (frameLen f) }

/-- Whether a frame record is not one that CANTX takes (R245). -/
def frameBad (l : List Byte) : Bool :=
  let f := frameOf l
  (!f.fdf && decide (8 < f.dlc.toNat)) || (f.rtr && f.fdf) || (f.brs && !f.fdf) || (!f.ide && decide (0x7FF < f.id.toNat))
    || decide (32 ≤ leNat ((l.drop 4).take 1)) || leNat ((l.drop 5).take 3) != 0

/-- The record that CANRX writes (R245). -/
def frameRecord (f : CanFrame) (time : W64) : List Byte :=
  leBytes 4 (f.id.toNat + 2 ^ 29 * b2n f.ide + 2 ^ 30 * b2n f.fdf + 2 ^ 31 * b2n f.brs) ++ leBytes 4 (f.dlc.toNat + 16 * b2n f.rtr)
    ++ (f.data.take (frameLen f) ++ List.replicate 64 0).take 64 ++ leBytes 8 time.toNat

/-- Formats of CANTX and CANRX legal: SPACE tank or core buffer, bits [38:0] 0. -/
def legalCan (w : BitVec 56) : Bool := decide (fw w 43 42 ≤ 1) && fw w 38 0 == 0

/-- Whether the record's address is a multiple of 16 inside a space that answers. -/
def canAddrOk (s : State) (i : Nat) (w : BitVec 56) (a : Nat) : Bool :=
  a % 16 == 0 && decide (a + 80 ≤ s.spSize (fw w 43 42)) && s.spUp (i / 4) (fw w 43 42)

/-- CANTX: the frame enters the transmit queue, or is refused when the queue is full, after earlier actuations of the context (R208, R244, R245). -/
def execCantx (k : CtxId) (w : BitVec 56) (s : State) : Out :=
  issue k w (legalCan w) (sNeeds [fw w 48 44]) (fun s =>
    let i := ctxIx k
    let c := s.ctx i
    let n := fw w 50 49
    let a := (c.sreg (fw w 48 44)).toNat
    let r := memRng (i / 4) (fw w 43 42) a 80
    if !canAddrOk s i w a then .trap 3
    else if !(c.writers r).isEmpty then .hold
    else
      let l := s.bytes r.sp r.lo 80
      if frameBad l then .trap 4
      else match actTrap s i (s.rbit Reg.ACT_EN (12 + n)) (s.bad r.sp r.lo 80) with
        | some cause => .stay (((if cause = 0x0A then s.readFx r.sp r.lo 80 (i / 4) 0 else s)).trap i cause)
        | none =>
          let s1 := canBegin n (s.readFx r.sp r.lo 80 (i / 4) 0)
          let x := s1.can n
          if 32 ≤ x.tx.length then .ok (s1.onCtx i (fun c => c.setP (fw w 41 39) false))
          else if s.aoPend i then .hold
          else .ok ((s1.setCan n { x with tx := x.tx ++ [⟨i, frameOf l⟩] }).onCtx i (fun c => c.setP (fw w 41 39) true))) s

/-- CANRX: the oldest received frame is removed and written as a record (R244, R245). -/
def execCanrx (k : CtxId) (w : BitVec 56) (s : State) : Out :=
  issue k w (legalCan w) (sNeeds [fw w 48 44]) (fun s =>
    let i := ctxIx k
    let c := s.ctx i
    let n := fw w 50 49
    let a := (c.sreg (fw w 48 44)).toNat
    let r := memRng (i / 4) (fw w 43 42) a 80
    if !canAddrOk s i w a then .trap 3
    else if !s.canOn n then .trap 0x0C
    else match (s.can n).rx with
      | [] => .ok (s.onCtx i (fun c => c.setP (fw w 41 39) false))
      | (f, t) :: rest =>
        if c.touches r then .hold
        else .ok (((s.writeFx r.sp r.lo (frameRecord f t) (i / 4)).setCan n { s.can n with rx := rest }).onCtx i (fun c => c.setP (fw w 41 39) true))) s

end Sys2Proof.Machine
end

