-- ==== Sys2Proof/Machine/Hostq.lean ====
section
/-!
DEFINITION. The host port: queues, completions, event queue heads, port resets (chapter HST, R443 to R458).
-/
namespace Sys2Proof.Machine

/-- A queue pair of port A. -/
def State.hq (s : State) (q : Nat) : HQueue := Tab.getD s.host.q q .empty

/-- Replaces a queue pair. -/
def State.setHq (s : State) (q : Nat) (h : HQueue) : State := { s with host := { s.host with q := Tab.setD s.host.q q .empty h } }

/-- Queues a completion of a command that has ended, unless it is to be discarded; INVALID and HOSTERR raise 0x0A05 (R452, R457, R463). -/
def State.endCmd (s : State) (q : Nat) (c : HCmd) (status : Nat) (result : Nat) : State :=
  let h := s.hq q
  let s1 := if c.mute then s else s.setHq q { h with ended := h.ended ++ [⟨c.tag, c.op, BitVec.ofNat 8 status, BitVec.ofNat 64 result, c.head⟩] }
  if status = 1 ∨ status = 4 then s1.raise 0x0A05 1 0x800 (q + 256 * c.op.toNat + 2 ^ 32 * c.tag.toNat) else s1

/-- The command in progress of a queue with a tag and opcode. -/
def State.findCmd (s : State) (q : Nat) (tag : W32) (op : Nat) : Option HCmd :=
  (s.hq q).prog.find? (fun c => c.tag == tag && c.op.toNat == op)

/-- Takes a command out of those in progress. -/
def State.dropCmd (s : State) (q : Nat) (c : HCmd) : State :=
  let h := s.hq q
  s.setHq q { h with prog := h.prog.erase c }

/-- Ends a command in progress with a status and a result. -/
def State.finish (s : State) (q : Nat) (c : HCmd) (status result : Nat) : State := (s.dropCmd q c).endCmd q c status result

/-- The operand bytes used by an opcode (Table HST-8), as a list of ranges (first, count). -/
def opBytes (op : Nat) : List (Nat × Nat) :=
  match op with
  | 1 => [(8, 17)] | 2 => [(8, 1)] | 3 => [(8, 20)] | 4 => [(8, 11)] | 5 => [(8, 10)] | 6 => [(8, 2)] | 7 => [(8, 44)] | 8 => [(8, 1)]
  | _ => []

/-- Whether a command's reserved and unused bytes are 0 and its opcode defined (Tables HST-6 and HST-8). -/
def cmdForm (raw : List Byte) : Bool :=
  let op := leNat (raw.take 1)
  let used := fun i => i == 0 || (decide (4 ≤ i) && decide (i < 8)) || (opBytes op).any (fun r => decide (r.1 ≤ i) && decide (i < r.1 + r.2))
  decide (op ≤ 8) && (List.range 64).all (fun i => used i || (raw[i]?).getD 0 == 0)

/-- Reserved bits inside the operands of an opcode: MODE, array numbers, KIND, STATE and SPLIT within their fields. -/
def cmdFields (raw : List Byte) : Bool :=
  let b := fun i n => leNat ((raw.drop i).take n)
  match leNat (raw.take 1) with
  | 1 => decide (b 24 1 ≤ 1)
  | 2 => decide (b 8 1 ≤ 3)
  | 3 => decide (b 8 8 < 2 ^ 55) && decide (b 16 8 < 2 ^ 55)
  | 4 => decide (b 8 10 < 2048) && decide (b 18 1 ≤ 1)
  | 5 => decide (b 8 10 < 2048)
  | 6 => decide (b 8 1 ≤ 3) && decide (b 9 1 < 64)
  | 8 => decide (b 8 1 ≤ 1)
  | _ => true

/-- Starts one fetched command: INVALID, UNAVAILABLE in recovery mode, a QUOTE while another is in progress, or in progress (R451,
Table HST-7, R474). -/
def State.startCmd (s : State) (q : Nat) (raw : List Byte) (head : Nat) : State :=
  let c : HCmd := ⟨BitVec.ofNat 32 (leNat ((raw.drop 4).take 4)), BitVec.ofNat 8 (leNat (raw.take 1)), raw, head, false⟩
  if !(cmdForm raw && cmdFields raw) then s.endCmd q c 1 0
  else if s.rst.stage = .recovery then s.endCmd q c 3 0
  else if c.op = 7 ∧ (List.range 4).any (fun i => (s.hq i).prog.any (fun d => d.op == 7)) then s.endCmd q c 2 2
  else let h := s.hq q
       s.setHq q { h with prog := h.prog ++ [c] }

/-- Fetches and starts up to `n` commands from the head. -/
def fetchN (q len : Nat) (base : Nat) : Nat → State → State
  | 0, s => s
  | n + 1, s =>
    let h := s.hq q
    if h.sqHead = h.sqTail then s else
    let raw := s.mem.host.read (base + 64 * h.sqHead) 64
    let hd := (h.sqHead + 1) % len
    fetchN q len base n ((s.setHq q { h with sqHead := hd }).startCmd q raw hd)

/-- A fetch fails on the host side after `n` entries, when one is still to be fetched: EN is cleared, HST_ERR.FETCH and event 0x0A03 (R451). -/
def fetchFail (q : Nat) (s : State) : State :=
  if (s.hq q).sqHead = (s.hq q).sqTail then s else (s.clrReg (Reg.HST_SQ_CFG 0 q) (2 ^ 31)).hstRefuse 0 5 q

/-- A submission doorbell: the commands between head and tail are fetched and started in ring order, all of them or `fails` of them (R451). -/
def doorbell (q : Nat) (v : W32) (fails : Option Nat) (s : State) : State :=
  if !s.rbit (Reg.HST_SQ_CFG 0 q) 31 then s else
  let len := ringLen (s.fld (Reg.HST_SQ_CFG 0 q) 3 0)
  let tail := bits v 11 0
  if len ≤ tail then s.hstRefuse 0 4 q
  else
    let go := fun n => fetchN q len (s.reg64 (Reg.HST_SQ_BASE 0 q)) n (s.setHq q { s.hq q with sqTail := tail })
    match fails with
    | none => go len
    | some k => fetchFail q (go (min k len))

/-- SQ_DOORBELL. -/
def execSqDoorbell (q : Fin 4) (v : W32) (fails : Option Nat) (s : State) : Out :=
  .next (s.access .portA (Reg.HST_SQ_TAIL 0 q.val) (doorbell q.val v fails))

/-- NOP: ends DONE (Table HST-8). -/
def execNop (q : Fin 4) (tag : W32) (s : State) : Out :=
  .next (match s.findCmd q.val tag 0 with
    | none => s
    | some c => s.finish q.val c 0 0)

/-- PORTCFG: the trim entry of the port split is written, and the command ends; it waits while the store is not ready or the brown-out warning blocks
writes (R399, R444, R453). -/
def execPortcfg (q : Fin 4) (tag : W32) (s : State) : Out :=
  .next (match s.findCmd q.val tag 8 with
    | none => s
    | some c =>
      if !(s.up 2 && s.nvs.ready) || s.rst.bowarn then s
      else (s.writeSplit (leNat ((c.raw.drop 8).take 1) == 1)).finish q.val c 0 0)

/-- The bytes of a completion entry (Table HST-7). -/
def doneBytes (q : Nat) (phase : Bool) (d : HDone) : List Byte :=
  leBytes 4 d.tag.toNat ++ [d.status, BitVec.ofNat 8 (q + 128 * b2n phase)] ++ leBytes 2 d.head ++ leBytes 8 d.result.toNat

/-- Writes the oldest waiting completion when its queue is enabled and has room, then sends vector q + 1 (R452). -/
def writeCompletion (q : Nat) (s : State) : State :=
  let h := s.hq q
  let len := ringLen (s.fld (Reg.HST_CQ_CFG 0 q) 3 0)
  match h.ended with
  | [] => s
  | d :: r =>
    if !s.rbit (Reg.HST_CQ_CFG 0 q) 31 ∨ ringFull h.cqHead h.cqTail len then s else
    let s1 := s.hostWrite (s.reg64 (Reg.HST_CQ_BASE 0 q) + 16 * h.cqTail) (doneBytes q h.phase d)
    let t := (h.cqTail + 1) % len
    (s1.setHq q { h with ended := r, cqTail := t, phase := if t = 0 then !h.phase else h.phase }).msix 0 (q + 1)

/-- COMMAND_COMPLETION. -/
def execCommandCompletion (q : Fin 4) (s : State) : Out := .next (writeCompletion q.val s)

/-- CQ_HEAD_WRITE (R452). -/
def execCqHeadWrite (q : Fin 4) (v : W32) (s : State) : Out :=
  .next (s.access .portA (Reg.HST_CQ_HEAD 0 q.val) (fun s => s.setHq q.val { s.hq q.val with cqHead := bits v 11 0 }))

/-- The requester of a host port. -/
def portWho (p : Nat) : Who := if p = 0 then .portA else .portB

/-- EQ_HEAD_WRITE: the room that returns lets what was lost be reported (R454). -/
def execEqHeadWrite (port : Fin 2) (v : W32) (s : State) : Out :=
  .next (s.access (portWho port.val) (Reg.HST_EQ_HEAD port.val) (fun s => (s.setEq port.val { s.eq port.val with head := bits v 11 0 }).lossRec port.val))

/-- The configuration register of the queue that a HST offset belongs to: EQ, SQ i or CQ i. -/
def cfgOff (off : Nat) : Option Nat :=
  if 0x10 ≤ off ∧ off < 0x1C then some 0x18
  else if 0x40 ≤ off ∧ off < 0xC0 then
    let o := off % 0x20
    if o < 0xC then some (off - o + 0x8) else if 0x10 ≤ o ∧ o < 0x1C then some (off - o + 0x18) else none
  else none

/-- What setting or clearing EN does to the queue at a configuration offset (R450, R452). -/
def queueEnable (p off : Nat) (on : Bool) (s : State) : State :=
  if off = 0x18 then
    if on then (s.setEq p { s.eq p with head := 0, tail := 0, phase := true }).lossRec p else s
  else
    let q := (off - 0x40) / 0x20
    let h := s.hq q
    if off % 0x20 = 0x8 then (if on then s.setHq q { h with sqHead := 0, sqTail := 0 } else s)
    else if on then s.setHq q { h with cqHead := 0, cqTail := 0, phase := true } else s.setHq q { h with ended := [] }

/-- A configuration write: taken while EN is 0; while EN is 1 only a write of EN 0 to the configuration register acts (R450, R452). -/
def queueConfig (p off : Nat) (who : Who) (v : W32) (s : State) : State :=
  let base := baseHst p
  match cfgOff off with
  | none => s
  | some c =>
    if off ≠ c then (if s.rbit (base + c) 31 then (s.endHeld who (base + off)).hstErr p 3 else s.writeWord who (base + off) v)
    else if s.rbit (base + c) 31 then
      (if bit v 31 then s.hstErr p 3 else queueEnable p c false (s.clrReg (base + c) (2 ^ 31)))
    else
      let s1 := s.putMasked (base + c) v
      queueEnable p c (bit v 31) s1

/-- QUEUE_CONFIG_WRITE: command queues exist on port A only (R445, R450, R462). -/
def execQueueConfigWrite (port : Fin 2) (off : BitVec 12) (v : W32) (s : State) : Out :=
  let o := off.toNat
  .next (s.access (portWho port.val) (baseHst port.val + o) (queueConfig port.val o (portWho port.val) v))

/-- Clears the EN bits of a port's queues and returns its stream vectors, MSI-X table, error bits and configuration space to reset (R457). -/
def resetPort (p : Nat) (s : State) : State :=
  let b := baseHst p
  let s1 := [0x18, 0x48, 0x58, 0x68, 0x78, 0x88, 0x98, 0xA8, 0xB8].foldl (fun t o => t.clrReg (b + o) (2 ^ 31)) s
  let gone := fun a => (decide (b + 0x100 ≤ a) && decide (a < b + 0x200)) || a == b + 4
    || (decide (0x404000 + p * 0x1000 ≤ a) && decide (a < 0x405000 + p * 0x1000))
  let s2 := { s1 with regs := Tab.keep s1.regs (fun a => !gone a), ev := { s1.ev with pba := Tab.keep s1.ev.pba (fun k => k / 64 != p) } }
  let s3 := { s2.clrReg (Reg.HST_PSTAT p) 0x400 with host := { s2.host with cfg := Tab.erase s2.host.cfg p } }
  if p = 0 then (List.range 4).foldl (fun t q => t.setHq q { t.hq q with ended := [], prog := (t.hq q).prog.map (fun c => { c with mute := true }) }) s3
  else s3

/-- A port reset and its event 0x0A02 (R457). -/
def portReset (p kind : Nat) (s : State) : State :=
  s.when (s.up 6) ((resetPort p s).raise 0x0A02 2 (0x800 + p) (p + 256 * kind))

/-- HOT_RESET. -/
def execHotReset (port : Fin 2) (s : State) : Out := .next (portReset port.val 0 s)

/-- LINK_DOWN: the link state with it. -/
def execLinkDown (port : Fin 2) (s : State) : Out :=
  .next (portReset port.val 1 (s.when (s.up 6) (s.clrReg (Reg.HST_PSTAT port.val) 0xFF)))

/-- FUNCTION_LEVEL_RESET. -/
def execFunctionLevelReset (port : Fin 2) (s : State) : Out := .next (portReset port.val 2 s)

/-! ## Configuration space -/

/-- The Device ID of a port (Table HST-1). -/
def deviceId (p : Nat) : Nat := 0x8060 + p

/-- The class code, processing accelerator (Table HST-1). -/
def classCode : Nat := 0x120000

/-- The words of a port's configuration space that identify it, where the PCI Express specification has them (R443, Table HST-1). -/
def cfgIdent (p o : Nat) : Option W32 :=
  if o = 0 then some (BitVec.ofNat 32 (Config.pcieVendor.toNat + 2 ^ 16 * deviceId p))
  else if o = 8 then some (BitVec.ofNat 32 (Config.pcieRevision.toNat + 2 ^ 8 * classCode))
  else none

/-- The lanes of a port: all 8 for port A, or 4 for each in split mode (R444, Table HST-1). -/
def State.lanes (s : State) (p : Nat) : Nat := if s.split then 4 else if p = 0 then 8 else 0

/-- PCIE_LINK_UP: LINKUP, WIDTH and SPEED, no wider than the port's lanes; port B exists only in split mode (R444, R462, Table HST-1). -/
def execPcieLinkUp (port : Fin 2) (width : Fin 9) (speed : Fin 5) (s : State) : Out :=
  .next (s.when (s.up 6 && decide (width.val ≤ s.lanes port.val) && decide (0 < s.lanes port.val))
    (s.setFld (Reg.HST_PSTAT port.val) 7 0 (1 + 2 * width.val + 32 * speed.val)))

/-- Sends a vector that is pending. -/
def sendPending (p v : Nat) (s : State) : State :=
  if Tab.getD s.ev.pba (p * 64 + v) false then
    { s with ev := { s.ev with pba := Tab.setD s.ev.pba (p * 64 + v) false false, msix := (p, v) :: s.ev.msix } }
  else s

/-- Sends the pending vectors of a port whose entries are not masked, when MSI-X is enabled and the function is not masked (R456). -/
def sendUnmasked (p : Nat) (s : State) : State :=
  if (s.portCfg p).msix && !(s.portCfg p).fmask then
    (List.range 64).foldl (fun t v => if t.rbit (Reg.MSIX_CTL p v) 0 then t else sendPending p v t) s
  else s

/-- D3HOT_CHANGE: the host writes the configuration space: the port moves between D0 and D3hot, or MSI-X is enabled and its function masked (R443,
R448, R456). -/
def execD3hotChange (port : Fin 2) (w : CfgWrite) (s : State) : Out :=
  .next (s.when (s.up 6) (match w with
    | .power d3 => s.setFld (Reg.HST_PSTAT port.val) 10 10 (b2n d3)
    | .msix e m => sendUnmasked port.val { s with host := { s.host with cfg := Tab.insert s.host.cfg port.val ⟨e, m⟩ } }))

end Sys2Proof.Machine
end

