-- ==== Sys2Proof/Machine/Skim.lean ====
section
/-!
DEFINITION. The skim engine (R78 to R89) and SKM (R237).
-/
namespace Sys2Proof.Machine

/-- Weights per array row of a profile (Table SLC-1). -/
def profWidth (p : Nat) : Nat := if p = 0 then 512 else if p = 1 then 256 else if p = 2 then 170 else 128

/-- Most skim entries of a profile (Table SLC-1). -/
def profSkim (p : Nat) : Nat := if p = 0 then 5242 else if p = 1 then 2621 else if p = 2 then 1740 else 1310

/-- Replication of a profile. -/
def profRep (p : Nat) : Nat := if p = 2 then 2 else if p = 3 then 3 else 1

/-- Key of event 0x0106 for a core. -/
def keySkim (c : Nat) : Nat := 0x01060000 + c

/-- A skim entry: row, weight index, residual (Table SLC-3). -/
structure SkimEnt where
  row : Nat
  col : Nat
  r : Int
deriving DecidableEq, Repr

/-- Decodes an entry. -/
def skimEnt (w : Nat) : SkimEnt := ⟨nbits w 8 0, nbits w 17 9, sint 14 (nbits w 31 18)⟩

/-- Whether every entry is in range and in strictly ascending order (R79, R85). -/
def skimSorted (width : Nat) : List SkimEnt → Bool
  | [] => true
  | [a] => decide (a.col < width) && a.r != 0
  | a :: b :: r =>
    decide (a.col < width) && a.r != 0 && decide (a.col * 512 + a.row < b.col * 512 + b.row) && skimSorted width (b :: r)

/-- What the engine makes of a list: its entries, or the SKM_ERR bits set and the bytes it read (R85). -/
inductive SkimList where
  | good (prof : Nat) (l : List SkimEnt)
  | bad (bits : List Nat) (n : Nat)

/-- Reads and checks the list at a core-buffer offset; `prof` the array's profile, none for SKM. Where a list has several faults (log entry 108): a
header outside the region or not on a 16-byte boundary sets RANGE alone and is not read; COUNT is judged by the header's own PROFILE; entries are
not looked at once HDR, COUNT or RANGE is found. -/
def skimRead (s : State) (c off : Nat) (prof : Option Nat) : SkimList :=
  let base := 16 * s.fld (Reg.SKM_BASE c) 20 4
  let lim := min (2 ^ 21) (16 * s.fld (Reg.SKM_LIMIT c) 21 4)
  if off < base ∨ off + 16 > lim ∨ off % 16 ≠ 0 then .bad [2] 0 else
  let h := s.bytes 1 (cb c off) 16
  let p := nAt h 2 2 % 4
  let n := nAt h 4 2
  let own := match prof with | some q => q == p | none => true
  let errs := (if nAt h 0 2 != 0x4B53 || !own then [0] else []) ++ (if n > profSkim p then [1] else [])
    ++ (if off + 16 + 4 * n > lim then [2] else [])
  if !errs.isEmpty then .bad errs 16 else
  let l := (List.range n).map (fun i => skimEnt (s.num 1 (cb c (off + 16 + 4 * i)) 4))
  if skimSorted (profWidth p) l then .good p l else .bad [3] (16 + 4 * n)

/-- Sets list-error bits; each that goes from 0 to 1 raises event 0x0105 (R89). Where one list sets several, their events come in ascending order of the
bits, each with the register as its own bit leaves it (log entry 138). -/
def skimErrs (c loc : Nat) : List Nat → State → State
  | [], s => s
  | b :: r, s =>
    let was := s.rbit (Reg.SKM_ERR c) b
    let s1 := (s.orReg (Reg.SKM_ERR c) (2 ^ b)).setFld (Reg.SKM_ERR c) 21 16 loc
    skimErrs c loc r (s1.raiseIf (!was) 0x0105 2 c (c * 64 + loc + 2 ^ 32 * (s1.reg (Reg.SKM_ERR c)).toNat))

/-- Counts the saturated sums of a list, with event 0x0106 at the threshold (R81, R89); the event carries the count after the whole list (log entry
109). -/
def skimOvf (c n : Nat) (s : State) : State :=
  if n = 0 then s else
  let s1 := s.incReg (Reg.SKM_OVF_CNT c) n
  let k := (s1.reg (Reg.SKM_OVF_CNT c)).toNat
  let th := (s1.reg (Reg.SKM_OVF_THR c)).toNat
  if th ≠ 0 ∧ k ≥ th then s1.raiseOnce (keySkim c) 0x0106 1 c (c + 2 ^ 32 * k) else s1

/-- Signed 32-bit saturation (R81). -/
def sat32 (x : Int) : Int := max (-(2 ^ 31)) (min (2 ^ 31 - 1) x)

/-- The sums T of the weights and segments, keyed weight * 4 + segment (R80). -/
def skimSums (inp : List Int) : List SkimEnt → Tab Int → Tab Int
  | [], t => t
  | e :: r, t =>
    let k := e.col * 4 + e.row / 128
    skimSums inp r (Tab.setD t k 0 (Tab.getD t k 0 + e.r * inp.getD e.row 0))

/-- The result of a list: sums in Q.8 by weight, saturated weights, and how many sums saturated (R80, R81). -/
def skimCalc (inp : List Int) (segw : List Nat) (l : List SkimEnt) : SkimOut × Nat :=
  let t := skimSums inp l []
  let ovl := t.filter (fun e => sat32 e.2 != e.2)
  let vals := t.foldl (fun v e => Tab.setD v (e.1 / 4) 0 (Tab.getD v (e.1 / 4) 0 + 256 * (segw.getD (e.1 % 4) 0) * sat32 e.2)) []
  (⟨false, vals, ovl.foldl (fun o e => Tab.insert o (e.1 / 4) true) []⟩, ovl.length)

/-- MAC slots of a list (R82). -/
def skimSlots (i16 : Bool) (l : List SkimEnt) : Nat :=
  (l.map (fun e => (if -128 ≤ e.r ∧ e.r ≤ 127 then 1 else 2) * (if i16 then 2 else 1))).foldl (fun a b => a + b) 0

/-- A result that poisons every output. -/
def SkimOut.poisoned : SkimOut := ⟨true, [], []⟩

/-- Reads a list and forms its result, with its effects: errors, counters, the poison flag of a context that met a poisoned byte. SKM_SLOT_CNT takes all
the slots of the list as the lane is taken (log entry 138). -/
def skimServe (ctx c off loc : Nat) (prof : Option Nat) (inp : List Int) (segw : List Nat) (i16 : Bool) (s : State) : State × SkimOut × Nat :=
  if !s.rbit (Reg.SKM_CFG c) 0 then (s, .poisoned, 0) else
  match skimRead s c off prof with
  | .bad errs n => ((skimErrs c loc errs (s.readFx 1 (cb c off) n c 0)).poisonIf ctx (s.bad 1 (cb c off) n), .poisoned, 0)
  | .good _ l =>
    let n := 16 + 4 * l.length
    let bad := s.bad 1 (cb c off) n
    let r := skimCalc inp segw l
    let m := skimSlots i16 l
    ((skimOvf c r.2 ((s.readFx 1 (cb c off) n c 0).incWrap (Reg.SKM_SLOT_CNT c) m)).poisonIf ctx bad, r.1, m)

/-- The array of a core whose command at work has a context and number, with that run: executing, in retry, or held. -/
def State.runOf (s : State) (c ctx id : Nat) : Option (Nat × Run) :=
  let own := fun (r : Run) => r.cmd.ctx == ctx && r.cmd.id == id
  (List.range 64).findSome? (fun l =>
    let x := s.arr (c * 64 + l)
    let runs := x.cur.toList ++ x.retry.toList ++ x.held.filterMap (fun h => match h with | .sum r _ => some r | .part _ => none)
    (runs.find? own).map (fun r => (c * 64 + l, r)))

/-- Changes the run of a context and number wherever its array keeps it. -/
def State.mapRun (s : State) (a ctx id : Nat) (f : Run → Run) : State :=
  let g := fun (r : Run) => if r.cmd.ctx = ctx ∧ r.cmd.id = id then f r else r
  let x := s.arr a
  s.setArr a { x with cur := x.cur.map g, retry := x.retry.map g, held := x.held.map (fun h => match h with | .sum r b => .sum (g r) b | .part p => .part p) }

/-- The lowest free lane of a core (R82). -/
def freeLane (k : CoreSt) : Option Nat := (List.range 16).find? (fun i => (Tab.find? k.lanes i).isNone)

/-- Whether a command's input is INT16 (R82). -/
def Run.i16 (r : Run) : Bool := r.phases == 4

/-- The lane that a command takes at once: a free one, while no command waits (R83). -/
def laneNow (k : CoreSt) : Option Nat := if k.waitq.isEmpty then freeLane k else none

/-- A command takes a lane, which reads its list: `l` gives its identity (R82, R83, R85). -/
def laneTake (c lane : Nat) (l : Lane) (off loc : Nat) (prof : Option Nat) (inp : List Int) (segw : List Nat) (i16 : Bool) (s : State) : State :=
  let p := skimServe l.ctx c off loc prof inp segw i16 s
  let k := p.1.core c
  p.1.setCore c { k with lanes := Tab.insert k.lanes lane { l with out := p.2.1, slots := p.2.2 } }

/-- The ranges of a list: its header, and the entries that the header counts, or as many as any list may have while a write that could change the header
is under way (R82, R205). -/
def skimRngs (s : State) (c off : Nat) (pending : Bool) : List Rng :=
  let n := if pending then profSkim 0 else min (profSkim 0) (s.num 1 (cb c (off + 4)) 2)
  [⟨1, cb c off, min (16 + 4 * n) (2 ^ 21 - off)⟩]

/-- The ranges of a list as an instruction of a context finds them at its issue (R205). -/
def listRngs (s : State) (i off : Nat) : List Rng := skimRngs s (i / 4) off (!((s.ctx i).writers ⟨1, cb (i / 4) off, 16⟩).isEmpty)

/-- A command waits for a lane (R83). -/
def laneWait (c : Nat) (x : Nat × Nat) (s : State) : State := let k := s.core c; s.setCore c { k with waitq := k.waitq ++ [x] }

/-- An SKM takes a lane. -/
def skmLane (c lane : Nat) (j : SkmJob) (s : State) : State :=
  laneTake c lane ⟨j.ctx, j.id, 2048 + c, .poisoned, 0⟩ j.list (Config.skmArray c).toNat none j.inp [1, 1, 1, 1] j.i16 s

/-- SKIM_LANE_GRANT: the first waiting command takes the lowest free lane, which reads its list (R82, R83, R85). -/
def execSkimLaneGrant (c : CoreId) (s : State) : Out :=
  let k := s.core c.val
  .next (match k.waitq, freeLane k with
  | (ctx, id) :: rest, some lane =>
    let s0 := s.setCore c.val { k with waitq := rest }
    match k.skms.find? (fun j => j.ctx == ctx && j.id == id) with
    | some j => skmLane c.val lane j s0
    | none => match s0.runOf c.val ctx id with
      | none => s0
      | some (a, r) =>
        (laneTake c.val lane ⟨ctx, id, a, .poisoned, 0⟩ (r.cmd.skim.getD 0) (a % 64) (some r.prof) r.inp r.segw r.i16 s0).mapRun a ctx id (fun r => { r with skim := .lane })
  | _, _ => s)

/-- A result goes to its command; an SKM's becomes its partial (R84, R237). A residue mismatch of the skim engine sends an MVX into its retry and poisons
the outputs of an SKM, which has none (R283, R285, log entry 116). -/
def skimResult (c : Nat) (l : Lane) (res : Bool) (s0 : State) : State :=
  let s := if res then s0.residue (if l.arr < 2048 then l.arr else 64 * c) 3 else s0
  let k := s.core c
  if l.arr < 2048 then s.mapRun l.arr l.ctx l.id (fun r => { r with skim := .done l.out, smis := res })
  else match k.skms.find? (fun j => j.ctx == l.ctx && j.id == l.id) with
    | none => s
    | some j =>
      let n := profWidth j.prof
      let vals := (List.range n).map (fun i => Tab.getD l.out.vals i 0)
      let tags := (List.range n).map (fun i => (if l.out.poison || res then tPOISON else 0) + (if Tab.getD l.out.ovf i false then tSKIM else 0))
      (s.setCore c { k with skms := k.skms.filter (fun x => !(x.ctx == j.ctx && x.id == j.id)), parts := k.parts ++ [⟨j.ctx, j.id, j.gen, j.vidx, j.coloff, j.pass, 0, vals, 0, tags⟩] }).endWork j.ctx j.id

/-- SKIM_RESULT_READY: the oldest result that has left the lane, or else the result of the work in it, which then leaves it (R82). -/
def execSkimResultReady (c : CoreId) (lane : Checked (Fin 16) Bool) (s : State) : Out :=
  let k := s.core c.val
  .next (match k.outs.find? (fun e => e.1 == lane.arg.val), Tab.find? k.lanes lane.arg.val with
  | some e, _ => skimResult c.val e.2 lane.fails (s.setCore c.val { k with outs := k.outs.erase e })
  | none, some l => skimResult c.val l lane.fails (s.setCore c.val { k with lanes := Tab.erase k.lanes lane.arg.val })
  | none, none => s)

/-! ## Tile contributions in program order -/

/-- The tile an MVX or SKM may add to: tile-state 6, or operand-format 4 for its VIDX, P and COLOFF (R236, R237). -/
def tileTrap (c : Ctx) (id vidx coloff p : Nat) (bs : Bool) : Option Nat :=
  match c.tile id with
  | none => some 6
  | some t =>
    if t.v ≤ vidx || t.p != p || (t.fmt == 0 && bs) || (t.fmt == 1 && coloff % 2 == 1) then some 4
    else if t.closed then some 6 else none

/-- Counts one more contribution from a chain position, and orders its pass (R106): the tile and the pass number. -/
def tileIssue (t : Tile) (vidx coloff chpos width : Nat) : Tile × Nat :=
  let k := chpos + 16 * (vidx + 32 * coloff)
  let n := Tab.getD t.issued k 0
  let x : Pass := ⟨vidx, coloff, n, min width (t.n - coloff)⟩
  ({ t with issued := Tab.setD t.issued k 0 (n + 1), order := if t.order.contains x then t.order else t.order ++ [x] }, n)

/-! ## SKM -/

/-- The integers of columns c0 to c1 of a row of an integer tensor. -/
def intsAt (m : Mem) (fmt ro c0 n : Nat) : List Int :=
  (List.range n).map (fun i => let r := rawAt m fmt ro (c0 + i); if fmt = 2 then ((r : Nat) : Int) else sint (fmtBits fmt) r)

/-- The body of SKM (R237): it reads its input row at issue, and waits for a lane. The context's own writes to the row and to the list land first (R205). -/
def skmBody (i : Nat) (w : BitVec 56) (s : State) : Res :=
  let c := s.ctx i
  let core := i / 4
  let d := descOf (c.dreg (fw w 30 27))
  let row := (c.sreg (fw w 26 22)).toNat
  let off := (c.sreg (fw w 21 17)).toNat
  let ro := d.rowAt row 0 0
  let tile := tileTrap c (fTILE w) (fw w 35 31) (fw w 44 36) 1 false
  if d.formatBad || fmtFloat d.fmt || d.bsp != 0 || decide (d.dim0 > 512) || decide (row ≥ d.dim1) || tile == some 4 then .trap 4
  else if d.noDram s || d.rowBad s ro 0 d.dim0 then .trap 3
  else match tile, c.tile (fTILE w) with
  | none, some t =>
    let rng : Rng := ⟨d.sp, spAddr core d.sp ro, d.rowBytes⟩
    let lst := listRngs s i off
    if !(c.writers rng).isEmpty || lst.any (fun r => !(c.writers r).isEmpty) then .hold else
    -- the profile named in the header gives the outputs; a list that cannot be read takes profile 0's
    let prof := match skimRead s core off none with
      | .good p _ => p
      | .bad _ _ => if off % 16 = 0 ∧ off + 16 ≤ 2 ^ 21 then s.num 1 (cb core (off + 2)) 2 % 4 else 0
    -- a header that the region shuts out is looked at for its profile alone
    let out := match skimRead s core off none with
      | .bad _ 0 => decide (off % 16 = 0) && decide (off + 16 ≤ 2 ^ 21)
      | _ => false
    let bad := s.bad d.sp rng.lo rng.len || (out && s.bad 1 (cb core off) 16)
    let s0 := if out then s.readFx 1 (cb core off) 16 core 0 else s
    let inp := intsAt (s.memOf d.sp) d.fmt (spAddr core d.sp ro) 0 d.dim0
    let p := tileIssue t (fw w 35 31) (fw w 44 36) 0 (profWidth prof)
    let s1 := (s0.readFx d.sp rng.lo rng.len core 0).onCtx i (fun c => (c.addWork lst [] false false).putTile p.1)
    let job : SkmJob := ⟨i, c.nextId, t.gen, fw w 35 31, fw w 44 36, p.2, off, inp, prof, d.fmt == 3⟩
    let k := s1.core core
    let s2 := s1.setCore core { k with skms := k.skms ++ [job] }
    .ok ((match laneNow k with
      | some lane => skmLane core lane job s2
      | none => laneWait core (i, c.nextId) s2).poisonIf i bad)
  | t, _ => .trap (t.getD 6)

/-- SKM. -/
def execSkm (k : CtxId) (w : BitVec 56) (s : State) : Out :=
  issue k w (fw w 16 0 == 0) (sNeeds [fw w 26 22, fw w 21 17] ++ dNeeds [fw w 30 27]) (skmBody (ctxIx k) w) s

/-! ## Registers -/

/-- The skim registers that wait for an idle engine. -/
def skimReg (c : Nat) (r : Nat) : Nat := if r = 0 then Reg.SKM_CFG c else if r = 1 then Reg.SKM_BASE c else Reg.SKM_LIMIT c

/-- CLR_CNT: it clears at once, also while lanes are in use (R88 has only EN wait; log entry 110). -/
def skmClear (c : Nat) (s : State) : State := (s.setReg (Reg.SKM_OVF_CNT c) 0).rearm (keySkim c)

/-- SKM_CONFIG_WRITE: SKM_CFG, SKM_BASE or SKM_LIMIT; EN, BASE and LIMIT change only while no lane is in use and none is waited for, and a 1 in
CLR_CNT clears (R88, Table SLC-5). -/
def execSkmConfigWrite (who : Who) (c : CoreId) (reg : Fin 3) (v : W32) (s : State) : Out :=
  let a := skimReg c.val reg.val
  .next (s.access who a (fun s0 =>
    let s := if reg.val = 0 && bit v 1 then skmClear c.val s0 else s0
    let k := s.core c.val
    if k.lanes.isEmpty && k.waitq.isEmpty then s.putMasked a v
    else (s.orReg (Reg.SKM_ERR c.val) 16).raise 0x0107 1 c.val (c.val + 2 ^ 16 * (4 * reg.val) + 2 ^ 32 * v.toNat)))

/-- SKM_CLR_CNT. -/
def execSkmClrCnt (who : Who) (c : CoreId) (s : State) : Out := .next (s.access who (Reg.SKM_CFG c.val) (skmClear c.val))

end Sys2Proof.Machine
end

