-- ==== Sys2Proof/Machine/PressRec.lean ====
section
/-!
DEFINITION. The layer map (R189), press records (R162 to R165, R405), image slot records (R164, R174, R404), free arrays (R497), and what the
end of a press, a reload or a repair does to entries and records (R180, R296, R297).
-/
namespace Sys2Proof.Machine

/-! ## The layer map -/

/-- Address of word w of layer map entry i of a core (Table EXE-9). -/
def entAddr (core i w : Nat) : Nat := coreBase core + 0x30000 + 16 * i + 4 * w

/-- A layer map entry as one number (Table EXE-2). -/
def State.entry (s : State) (core i : Nat) : BitVec 128 :=
  BitVec.ofNat 128 ((s.reg (entAddr core i 0)).toNat + 2 ^ 32 * (s.reg (entAddr core i 1)).toNat + 2 ^ 64 * (s.reg (entAddr core i 2)).toNat
    + 2 ^ 96 * (s.reg (entAddr core i 3)).toNat)

/-- The fields of an entry. -/
def eVALID (e : BitVec 128) : Bool := bit e 0
def eRESIDENT (e : BitVec 128) : Bool := bit e 1
def eARRAY (e : BitVec 128) : Nat := bits e 7 2
def eCHPOS (e : BitVec 128) : Nat := bits e 11 8
def eP (e : BitVec 128) : Nat := bits e 15 12 + 1
def eSLOT (e : BitVec 128) : Nat := bits e 21 20
def eLAYER (e : BitVec 128) : Nat := bits e 43 32
def eSKIM (e : BitVec 128) : Option Nat := if bit e 44 then some (16 * bits e 80 64) else none
def eOST (e : BitVec 128) : Nat := 32 * bits e 111 96

/-- Replaces a layer map entry. -/
def State.setEntry (s : State) (core i : Nat) (e : BitVec 128) : State :=
  (List.range 4).foldl (fun t w => t.setReg (entAddr core i w) (BitVec.ofNat 32 (e.toNat >>> (32 * w)))) s

/-- Changes the entries of every core that satisfy a condition. -/
def State.mapEntries (s : State) (p : Nat → BitVec 128 → Bool) (f : BitVec 128 → BitVec 128) : State :=
  (List.range 32).foldl (fun t c => (List.range 1024).foldl (fun u i =>
    let e := u.entry c i
    if eVALID e && p c e then u.setEntry c i (f e) else u) t) s

/-- Asks the press for a layer that is not resident; a layer already asked for joins that request (R180). -/
def State.askReload (s : State) (slot layer : Nat) : State :=
  if s.reqs.contains (slot, layer) then s else { s with reqs := s.reqs ++ [(slot, layer)] }

/-! ## Press records -/

/-- The NVS as it stands once every page write waiting has been made. -/
def State.nvsView (s : State) : Mem :=
  let js := s.nvs.cur.toList ++ s.nvs.queue.filterMap (fun c => match c with | .page j => some j | .read _ _ | .win _ _ => none)
  js.foldl (fun m j => m.writeRaw j.off j.data) s.mem.nvs

/-- Offset of the press record of array a (R405). -/
def recOff (m : Mem) (a : Nat) : Nat :=
  let v := m.readN (0xD000 + 2 * a) 2
  if v = 0 then 0x8000 + 8 * a else 0xC000 + 8 * (v % 1024 - 1)

/-- The press record of array a (Table PRS-2). -/
def recAt (m : Mem) (a : Nat) : W64 := BitVec.ofNat 64 (m.readN (recOff m a) 8)

/-- The stored record of an array. -/
def State.prec (s : State) (a : Nat) : W64 := recAt s.mem.nvs a

/-- The fields of a record. -/
def pCOUNT (r : W64) : Nat := bits r 27 0
def pVALID (r : W64) : Bool := bit r 28
def pSLOT (r : W64) : Nat := bits r 31 30
def pEPOCH (r : W64) : Nat := bits r 47 32
def pORD (r : W64) : Nat := bits r 63 48

/-- A record of its fields. -/
def mkRec (count : Nat) (valid failed : Bool) (slot epoch ord : Nat) : Nat :=
  count % 2 ^ 28 + 2 ^ 28 * b2n valid + 2 ^ 29 * b2n failed + 2 ^ 30 * (slot % 4) + 2 ^ 32 * (epoch % 65536) + 2 ^ 48 * (ord % 65536)

/-- Whether an array is programmed: its contents-valid marker is set (R141, R162). -/
def State.programmed (s : State) (a : Nat) : Bool := pVALID (s.prec a)

/-- The controller's reads of an array's press record and of its map entry (R400; log entry 124). -/
def State.recRead (s : State) (a : Nat) : State := (s.nvsRead 3 (recOff s.mem.nvs a) 8).nvsRead 3 (0xD000 + 2 * a) 2

/-- Queues page writes of the press. -/
def State.pressWrite (s : State) (off n v a kind : Nat) : State := s.nvsPut [.page ⟨off, leBytes n v, .press a kind⟩]

/-- Writes VALID 0 to the record of an array that holds VALID 1 (R164, R173, R296). -/
def State.unprogram (s : State) (a : Nat) : State :=
  let m := s.nvsView
  let r := recAt m a
  if pVALID r then s.pressWrite (recOff m a) 8 (r.toNat - 2 ^ 28) a 3 else s

/-- Whether a reserve group is fresh: no map entry names it and no record has been written to it; one that a later relocation left is worn (R165,
R405; log entry 123). -/
def relocFresh (m : Mem) (v : Nat) : Bool :=
  m.zeroIn (0xC000 + 8 * (v - 1)) 8 && !(m.cells.any (fun e => decide (0xD000 ≤ e.1) && decide (e.1 < 0xE000)) && (List.range 2048).any (fun a => m.readN (0xD000 + 2 * a) 2 == v))

/-- Reserve groups used (R165). -/
def relocUsed (m : Mem) : Nat := ((List.range 512).filter (fun g => !relocFresh m (g + 1))).length

/-- A fresh reserve group, as a map value. -/
def relocFree (m : Mem) : Option Nat := ((List.range 512).map (fun g => g + 1)).find? (relocFresh m)

/-- Whether an array's next press must move its record and no reserve group is left: it is worn (R165). -/
def State.worn (s : State) (a : Nat) : Bool :=
  let m := s.nvsView
  let n := pCOUNT (recAt m a)
  n != 0 && n % 400000 == 0 && (relocFree m).isNone

/-! ## Image slots -/

/-- The payload of a slot record, if one is valid, as the start tasks read it and the press has kept it since. -/
def State.slotPay (s : State) (n : Nat) : Option (List Byte) := (s.abKnown (abSlot n)).payload

/-- Whether a slot is committed. -/
def State.slotUsed (s : State) (n : Nat) : Bool := match s.slotPay n with
  | some p => leNat (p.take 1) == 1
  | none => false

/-- The EPOCH of a slot record; 0 with none valid (R174). -/
def State.slotEpoch (s : State) (n : Nat) : Nat := match s.slotPay n with
  | some p => leNat ((p.drop 2).take 2)
  | none => 0

/-- Whether an array is committed (R164). -/
def State.committed (s : State) (a : Nat) : Bool :=
  let r := s.prec a
  pVALID r && s.slotUsed (pSLOT r) && pEPOCH r == s.slotEpoch (pSLOT r)

/-- The places of the image of a slot, and of a load in progress. -/
def State.loadPlaces (s : State) : List Place := match s.prs.load with
  | some l => l.img.places
  | none => []

/-- Whether an array is in the reload pool of a slot (R180). -/
def State.inPool (s : State) (slot a : Nat) : Bool := match Tab.find? s.prs.images slot with
  | some x => x.places.any (fun p => p.pool && p.arr == a)
  | none => false

/-- Whether an array is free (R497): not in FAULT or RETIRED, not committed, in no reload pool, not allocated to a load or a repair. -/
def State.freeArr (s : State) (a : Nat) : Bool :=
  let x := s.arr a
  x.st != .fault && x.st != .retired && !s.committed a && !(List.range 4).any (fun n => s.inPool n a) && x.press.isNone
    && !s.loadPlaces.any (fun p => p.arr == a) && !s.prs.reps.any (fun r => r.sub.any (fun b => b.1 == a))

/-- How many arrays of a core are free. -/
def State.freeCount (s : State) (c : Nat) : Nat := ((List.range 64).filter (fun l => s.freeArr (c * 64 + l))).length

/-- The spare reserve of a core (PRS_RESV). -/
def State.reserve (s : State) (c : Nat) : Nat := s.fld (Reg.PRS_RESV (c / 8)) (4 * (c % 8) + 3) (4 * (c % 8))

/-- The reserves of all cores. -/
def State.reserves (s : State) : Nat := ((List.range 32).map s.reserve).foldl (fun a b => a + b) 0

/-- TST_HEALTH.SPARES0 follows the reserves: set while some core's is 0 (Table DEP-7). -/
def State.sparesHealth (s : State) : State :=
  if (List.range 32).any (fun c => s.reserve c == 0) then s.health 0 else s.clrReg Reg.TST_HEALTH 1

/-- Puts a core's reserve into PRS_RESV. -/
def State.putReserve (s : State) (c n : Nat) : State := s.setFld (Reg.PRS_RESV (c / 8)) (4 * (c % 8) + 3) (4 * (c % 8)) n

/-- Changes a core's reserve by borrowing, repair or return; when it reaches 0, event 0x0305 and SERVICE_REQ_N follow (R179), with the spares taken by
this change in byte [1] (log entry 148). -/
def State.setReserve (s : State) (c n borrowed : Nat) : State :=
  let s1 := s.putReserve c n
  (s1.raiseIf (decide (n = 0) && decide (s.reserve c ≠ 0)) 0x0305 1 0x200 (c + 256 * borrowed + 2 ^ 16 * s1.reserves)).sparesHealth

/-- Gives every core the reserve that SPARES asks for, as far as it has free arrays (Tables PRS-8 and PRS-10, R497), and keeps what it lacks. -/
def State.reservesSet (s : State) : State :=
  let n := min 4 (s.fld Reg.PRS_CFG 10 8)
  let gap := (List.range 32).filterMap (fun c => if n ≤ s.freeCount c then none else some (c, n - s.freeCount c))
  let s1 := (List.range 32).foldl (fun t c => t.putReserve c (min n (s.freeCount c))) s
  { s1 with prs := { s1.prs with gap := gap } }.sparesHealth

/-- Whether a core has a free mappable array (R497). -/
def State.hasMappable (s : State) (c : Nat) : Bool := decide (s.reserve c < s.freeCount c)

/-- Whether a core can give a substitute: a free mappable array, or a spare (R171, R296). -/
def State.hasSub (s : State) (c : Nat) : Bool := decide (0 < s.freeCount c)

/-- Takes a substitute's reserve: a spare lowers it by 1 (R171). Byte [1] of an event 0x0305 that follows counts that spare (log entry 148). -/
def State.takeSub (s : State) (c : Nat) : State × Bool :=
  if s.hasMappable c then (s, false) else (s.setReserve c (s.reserve c - 1) 1, true)

/-! ## Retired columns -/

/-- Whether an array has a column recorded as retired (R405). -/
def retiredCol (m : Mem) (a col : Nat) : Bool :=
  (List.range 1024).any (fun i => let v := m.readN (0xE000 + 4 * i) 4; nbits v 31 31 == 1 && nbits v 10 0 == a && nbits v 20 11 == col)

/-- Records a retired column; `none` when an entry is needed and all are taken (R297, R405). -/
def State.retire (s : State) (a col : Nat) : Option State :=
  let m := s.nvsView
  if retiredCol m a col then some s
  else match (List.range 1024).find? (fun i => nbits (m.readN (0xE000 + 4 * i) 4) 31 31 == 0) with
  | some i => some (s.pressWrite (0xE000 + 4 * i) 4 (a + 2 ^ 11 * col + 2 ^ 31) a 3)
  | none => none

/-- Records columns in order; true when the list was full, with event 0x0609 for each column that found no entry. -/
def retireAll (a : Nat) : List Nat → State → State × Bool
  | [], s => (s, false)
  | c :: r, s =>
    let o := s.retire a c
    let p := retireAll a r (o.getD (s.raise 0x0609 2 0x400 (a + 2 ^ 16 * c)))
    (p.1, p.2 || o.isNone)

/-! ## The manifest -/

/-- A manifest entry (Table PRS-5). -/
structure Man where
  layer : Nat
  prof : Nat
  mode : Nat
  segen : Nat
  core : Nat
  core2 : Nat
  resv7 : Nat
  kch : Nat
  nblk : Nat
  base : Nat
  base2 : Nat
  k : Nat
  n : Nat
  woff : Nat
  ooff : Nat
  olen : Nat
  odst : Nat
  epilen : Nat
  epidst : Nat

/-- Manifest entry e of the image at a DRAM offset. -/
def manAt (m : Mem) (img e : Nat) : Man :=
  let o := img + 256 + 64 * e
  let f := fun b n => m.readN (o + b) n
  ⟨f 0 2, f 2 1, f 3 1, f 4 1, f 5 1, f 6 1, f 7 1, f 8 2, f 10 2, f 12 2, f 14 2, f 16 4, f 20 4, f 24 8, f 32 8, f 40 4, f 44 4, f 48 4, f 52 4⟩

/-- Flags of MODE. -/
def Man.skim (x : Man) : Bool := nbits x.mode 5 5 == 1
def Man.reload (x : Man) : Bool := nbits x.mode 6 6 == 1
def Man.twin (x : Man) : Bool := nbits x.mode 7 7 == 1

/-- Arrays of one copy. -/
def Man.count (x : Man) : Nat := x.kch * x.nblk

/-- Copies of a layer. -/
def Man.copies (x : Man) : Nat := if x.twin then 2 else 1

/-- The core of array a of a copy (R167). -/
def Man.coreOf (x : Man) (copy a : Nat) : Nat := ((if copy = 1 then x.core2 else x.core) + a % x.kch / 16) % 32

/-- Its layer map entry. -/
def Man.entOf (x : Man) (copy a : Nat) : Nat := (if copy = 1 then x.base2 else x.base) + 16 * (a / x.kch) + a % x.kch % 16

/-- ARR_CFG of a layer's arrays (R73, R172). -/
def Man.cfg (x : Man) : Nat := x.mode % 32 + 2 ^ 8 * (x.segen % 16) + 2 ^ 12 * (x.prof % 4)

/-- Rows of an array of a layer (R168). -/
def Man.depth (x : Man) (a : Nat) : Nat := min 512 (x.k - 512 * (a % x.kch))

/-- Manifest entries of an image. -/
def imgLayers (m : Mem) (img : Nat) : Nat := m.readN (img + 12) 2

/-- DRAM offset of array section a of manifest entry e (R168). -/
def secAt (m : Mem) (img e a : Nat) : Nat := img + m.readN (img + 24) 8 + (manAt m img e).woff + 131072 * a

/-! ## Levels -/

/-- The level of weight column j of a row whose stored weights lie at a DRAM offset (R74, R168). -/
def weightLevel (m : Mem) (prof row j : Nat) : Int :=
  let hl := fun (n : Nat) (low : Bool) => let w := sint 8 (m.byte (row + n)).toNat; if low then w % 16 else w / 16
  if prof = 0 then sint 4 (nbits (m.byte (row + j / 2)).toNat (4 * (j % 2) + 3) (4 * (j % 2)))
  else if prof = 1 then hl (j / 2) (j % 2 == 1)
  else if prof = 2 then (if j ≥ 510 then 0 else hl (j / 3) (j % 3 == 2))
  else hl (j / 4) (j % 4 == 3)

/-- The level of starter column 512 + i (Table CHN-2). -/
def starter (i : Nat) : Int := if i < 4 then 15 - 4 * (i : Int) else 13 - 4 * (i : Int)

/-- The sum of the levels of a group of weight columns at a row (R279). -/
def groupSum (m : Mem) (prof row g : Nat) : Int := ((List.range 64).map (fun j => weightLevel m prof row (64 * g + j))).foldl (fun a b => a + b) 0

/-- The target level of column j at row r of an array section (R129, R156, R279). -/
def target (m : Mem) (prof sec r j : Nat) : Int :=
  let row := sec + 256 * r
  if j < 512 then weightLevel m prof row j
  else if j < 520 then starter (j - 512)
  else groupSum m prof row (j - 520) / 64

/-- The remainder store of an array section: ρ by row * 8 + group, where not 0 (R279). -/
def remainders (m : Mem) (prof sec : Nat) : Tab Nat :=
  (List.range 4096).filterMap (fun i =>
    let v := (groupSum m prof (sec + 256 * (i / 8)) (i % 8) % 64).toNat
    if v = 0 then none else some (i, v))

/-! ## Entries of an image -/

/-- The layer map entry of a place (R167, R169, R189): resident or not, with its skim list's offset. -/
def placeEntry (x : Man) (p : Place) (slot : Nat) (res : Bool) (skim : Option Nat) : BitVec 128 :=
  let c := p.ix % x.kch
  let chain := min 16 (x.kch - 16 * (c / 16))
  BitVec.ofNat 128 (1 + 2 * b2n res + 4 * (p.arr % 64) + 2 ^ 8 * (c % 16) + 2 ^ 12 * (chain - 1) + 2 ^ 16 * 15 + 2 ^ 20 * slot
    + 2 ^ 32 * (x.layer + 2 ^ 12 * b2n skim.isSome + 2 ^ 13 * p.copy) + 2 ^ 64 * (skim.getD 0 / 16) + 2 ^ 96 * (x.epidst / 32))

/-- Bytes of a skim list in DRAM: its header and COUNT entries, to the next 16-byte boundary (R169). -/
def skimLen (m : Mem) (o : Nat) : Nat := (16 + 4 * m.readN (o + 4) 2 + 15) / 16 * 16

/-- Offset within an outlier section of list a. -/
def skimAt (m : Mem) (o : Nat) : Nat → Nat
  | 0 => 0
  | a + 1 => let b := skimAt m o a; b + skimLen m (o + b)

/-- The core-buffer offset of the skim list of a place, if the layer has lists. -/
def placeSkim (m : Mem) (img e a : Nat) : Option Nat :=
  let x := manAt m img e
  if x.skim then some (x.odst + skimAt m (img + m.readN (img + 40) 8 + x.ooff) a) else none

/-- Writes the layer map entry of a place. -/
def putPlace (img slot : Nat) (res : Bool) (p : Place) (s : State) : State :=
  let x := manAt s.mem.dram img p.ent
  s.setEntry (x.coreOf p.copy p.ix) (x.entOf p.copy p.ix) (placeEntry x p slot res (placeSkim s.mem.dram img p.ent p.ix))

/-- Whether an entry belongs to a layer of a slot. -/
def ofLayer (slot layer : Nat) (e : BitVec 128) : Bool := eSLOT e == slot && eLAYER e == layer

/-- Sets or clears RESIDENT of a layer's entries (R180). -/
def State.setResident (s : State) (slot layer : Nat) (on : Bool) : State :=
  s.mapEntries (fun _ e => ofLayer slot layer e) (fun e => if on then e ||| 2#128 else e &&& ~~~2#128)

/-! ## Readiness -/

/-- Whether an array's probe reference stands in DRAM (R134, R137). -/
def State.refOk (s : State) (a : Nat) : Bool := s.up 5 && decide (0 < s.dramBytes) && (Tab.find? s.refs a).isSome

/-- Whether an array still owes its class 1 full churn: programmed, and no full churn since its core's reset, its press or the end of its attachment
(Table CHN-6, R175). -/
def State.owes (s : State) (a : Nat) : Bool := s.programmed a && !(s.arr a).chn.fit

/-- Makes a churn due, once for each class. -/
def makeDue (a cls : Nat) (s : State) : State :=
  let x := s.arr a
  if x.chn.due.any (fun d => d.cls == cls) then s
  else s.setArr a { x with chn := { x.chn with due := x.chn.due ++ [⟨cls, s.cnt.aon, false⟩] } }

/-- The class 1 churn of an array that owes one is due (Table CHN-6). -/
def firstDue (a : Nat) (s : State) : State := s.when (s.owes a) (makeDue a 1 s)

/-- Whether an array has been pressed and churned and serves. -/
def State.serving (s : State) (a : Nat) : Bool := (s.arr a).st == .ready && s.programmed a && !s.owes a

/-! ## Repairs and reloads that end -/

/-- Puts an array in a place's stead in every place that named another. -/
def swapArr (old new : Nat) (ps : List Place) : List Place := ps.map (fun p => if p.arr = old then { p with arr := new } else p)

/-- Changes the image of a slot. -/
def State.onImage (s : State) (slot : Nat) (f : Image → Image) : State := match Tab.find? s.prs.images slot with
  | some x => { s with prs := { s.prs with images := Tab.insert s.prs.images slot (f x) } }
  | none => s

/-- A repair completes: entries are repointed, the failed array's record gets VALID 0, it enters RETIRED, event 0x0D04 (Table DEP-4). -/
def finishRepair (r : Repair) (sub : Nat) (spare : Bool) (s : State) : State :=
  let f := r.place.arr
  let s1 := s.mapEntries (fun c e => c == f / 64 && eSLOT e == r.slot && eARRAY e == f % 64)
    (fun e => (e &&& ~~~0xFC#128) ||| BitVec.ofNat 128 (4 * (sub % 64)))
  let s2 := (s1.onImage r.slot (fun x => { x with places := swapArr f sub x.places })).unprogram f
  let s3 := s2.setArr f { s2.arr f with st := .retired }
  { s3 with prs := { s3.prs with reps := s3.prs.reps.filter (fun q => q.place.arr != f) } }.raise 0x0D04 1 0x100
    (f + 2 ^ 16 * sub + 2 ^ 32 * b2n spare)

/-- A reload completes: the layer's entries become resident, event 0x0304, and its request is served (R180, R183). -/
def finishReload (r : Reload) (x : Image) (s : State) : State :=
  let layer := (manAt s.mem.dram x.off r.ent).layer
  let s1 := (s.setResident r.slot layer true).onImage r.slot (fun y => { y with res := y.res ++ [r.ent] })
  { s1 with prs := { s1.prs with rld := none }, reqs := s1.reqs.filter (fun q => q != (r.slot, layer)) }.raise 0x0304 0 0x200
    (r.slot + 2 ^ 9 + 2 ^ 16 * r.begun.length + 2 ^ 64 * (s.since r.at' % 2 ^ 32))

/-- What follows when an array has been pressed and churned: its repair completes, or the reload that waited for it (R180, R296). -/
def pressedDone (a : Nat) (s : State) : State :=
  match s.prs.reps.find? (fun r => r.sub.any (fun b => b.1 == a)), s.prs.rld with
  | some r, _ => finishRepair r a (r.sub.any (fun b => b.2)) s
  | none, some r =>
    match Tab.find? s.prs.images r.slot with
    | none => s
    | some x =>
      if r.begun.contains a && r.todo.isEmpty && (x.places.filter (fun p => p.ent == r.ent)).all (fun p => s.serving p.arr) then finishReload r x s else s
  | none, none => s

/-- Makes the entries of a slot that name an array not valid, with event 0x0D05 and NOREPAIR (R296). -/
def noRepair (a slot : Nat) (s : State) : State :=
  let s1 := s.mapEntries (fun c e => c == a / 64 && eSLOT e == slot && eARRAY e == a % 64) (fun e => e &&& ~~~1#128)
  (s1.raise 0x0D05 2 0x100 a).health 5

/-- An array that a committed image uses has failed: a repair begins, or none is possible and its entries become not valid (R296). -/
def repairFor (a : Nat) (s : State) : State :=
  match s.prs.images.find? (fun e => e.2.att && e.2.places.any (fun p => p.arr == a)) with
  | none => s
  | some (slot, x) =>
    let ps := x.places.filter (fun p => p.arr == a)
    match (ps.filter (fun p => !p.pool || x.res.contains p.ent) ++ ps).head? with
    | some p =>
      if s.hasSub (a / 64) then { s with prs := { s.prs with reps := s.prs.reps ++ [⟨p, slot, pORD (s.prec a), none⟩] } }
      else noRepair a slot s
    | none => s

/-! ## The end of a load -/

/-- Reports a load's or an unload's end: PRS_LOAD_STAT, and the host command's completion (R177, R453). -/
def loadEnd (src : LoadSrc) (op code slot : Nat) (s : State) : State :=
  let s1 := if op = 1 then s.setReg Reg.PRS_LOAD_STAT (BitVec.ofNat 32 (2 ^ 8 * code + 2 ^ 12 * slot + 2 ^ 31)) else s
  match src with
  | .fw => s1
  | .host q tag => match s1.findCmd q.val tag op with
    | none => s1
    | some c => s1.finish q.val c (if code ≤ 1 then 0 else 2) (code + if op = 1 then 256 * slot else 0)

/-- Gives spares back to their cores (R173, R176). -/
def giveBack (t : Tab Nat) (s : State) : State := t.foldl (fun u e => u.setReserve e.1 (u.reserve e.1 + e.2) 0) s

/-- Changes every listed array. -/
def State.mapArrs (s : State) (p : Nat → Bool) (f : Arr → Arr) : State :=
  (s.arrs.map (fun e => e.1)).foldl (fun t a => if p a then t.setArr a (f (t.arr a)) else t) s

/-- Arrays of an image that is no longer attached keep their weights, leave READY and owe a class 1 full churn (R175). -/
def State.detachArrs (mine : Nat → Bool) (s : State) : State :=
  let s1 := s.mapArrs mine (fun y =>
    if y.st = .ready ∨ y.st = .churn ∨ y.st = .test then { y with st := .bias, settled := true, test := none, chn := { y.chn with cur := none, fit := false } } else { y with chn := { y.chn with fit := false } })
  (s1.arrs.filter (fun e => mine e.1 && e.2.settled)).foldl (fun t e => firstDue e.1 t) s1

/-- Takes an array of a refused load out of press and churn: it is a free array again (R173). -/
def dropArr (a : Nat) (s : State) : State :=
  let x := s.arr a
  (if x.st = .fault ∨ x.st = .retired ∨ x.st = .ready then s
   else s.setArr a { x with st := .off, press := none, settled := false, chn := { x.chn with cur := none } }).unprogram a

/-- The arrays that an attach keeps as they are pressed (R175). -/
def LoadJob.kept (l : LoadJob) : List Nat :=
  if l.attach then (l.img.places.filter (fun p => !p.pool && !l.begun.contains p.arr && !l.todo.any (fun t => t.1.arr == p.arr))).map (fun p => p.arr) else []

/-- LOAD_REFUSAL: a load in progress ends refused, with VALID 0 for every array it pressed or began to press, its probe references released and the
spares it took given back (R173); the arrays that an attach had kept are again those of a detached image (R175). -/
def refuseLoad (code : Nat) (s : State) : State := match s.prs.load with
  | none => s
  | some l =>
    let built := l.begun ++ l.kept
    let s1 := l.begun.foldl (fun t a => dropArr a t) { s with prs := { s.prs with load := none }, refs := Tab.keep s.refs (fun a => !built.contains a) }
    let s2 := if l.attach then s1.detachArrs l.kept.contains else s1
    loadEnd l.src 1 code l.slot (giveBack l.took (giveBack l.img.borrow s2))

/-- Firmware's choice of a free array of a core that will do: the first it named, or else any, for the device imposes no order (R497). -/
def chooseArr (alloc : List Nat) (ok : Nat → Bool) (c : Nat) : Option Nat :=
  match alloc.find? (fun a => a / 64 == c && ok a) with
  | some a => some a
  | none => let l := ((List.range 64).map (fun l => c * 64 + l)).filter ok; l[Config.fwPick l % l.length]?

/-- Whether an array's retired columns let it serve a place: each holds level 0 there; a pool array has none (R297). -/
def columnsOk (s : State) (o : Nat) (p : Place) (a : Nat) : Bool :=
  let m := s.mem.dram
  let cols := (List.range 528).filter (fun c => retiredCol s.nvsView a c)
  cols.isEmpty || (!p.pool && cols.all (fun c => (List.range 512).all (fun r => target m (manAt m o p.ent).prof (secAt m o p.ent p.ix) r c == 0)))

/-- A substitute for an array that fails in a load, on the same core; with none the load is refused with code 0x8 (R171). -/
def loadSub (a : Nat) (s : State) : State := match s.prs.load with
  | none => s
  | some l =>
    let c := a / 64
    match l.img.places.find? (fun p => p.arr == a) with
    | none => refuseLoad 8 s
    | some p => match chooseArr l.alloc (fun b => s.freeArr b && !s.worn b && columnsOk s l.img.off p b) c with
    | none => refuseLoad 8 s
    | some b =>
      let (s1, spare) := s.takeSub c
      let ord := if p.pool then 0xFFFF else (l.img.places.filter (fun q => !q.pool)).findIdx (fun q => q == p)
      let took := if spare then Tab.setD l.took c 0 (Tab.getD l.took c 0 + 1) else l.took
      let l1 := { l with img := { l.img with places := swapArr a b l.img.places }, todo := l.todo.filter (fun q => q.1.arr != a) ++ (if p.pool then [] else [({ p with arr := b }, ord)]), alloc := l.alloc.filter (fun q => q != b), took := took }
      { s1 with prs := { s1.prs with load := some l1 } }

/-- Traps every context whose stalled MVX waits for a layer (R181). -/
def trapStalled (slot layer : Nat) (s : State) : State :=
  (s.ctxs.map (fun e => e.1)).foldl (fun t i => match (t.ctx i).hold with
    | .stall op w =>
      if op % 256 = 0x20 ∧ op / 256 = 2 then
        let e := t.entry (i / 4) (((t.ctx i).sreg (fw w 16 12) + BitVec.ofNat 64 (fw w 11 2)).toNat)
        if ofLayer slot layer e then t.trap i 5 else t
      else t
    | _ => t) s

/-- A reload is refused: its request is dropped, the stalled MVXs trap, event 0x0306 and the health bit (R181). -/
def refuseReload (slot layer : Nat) (s : State) : State :=
  let s1 := { s with reqs := s.reqs.filter (fun q => q != (slot, layer)) }
  (trapStalled slot layer (s1.raise 0x0306 1 0x200 (layer + 2 ^ 16 * slot + 2 ^ 24))).health 4

/-- Whether a press lies within the last 3,600 s. -/
def inHour (s : State) (t : W64) : Bool := decide (s.since t < 3600000000)

/-- Whether a pool array has had PRS_RLD_RATE presses within 3,600 s (R181). -/
def overRate (s : State) (a : Nat) : Bool := decide (s.fld Reg.PRS_RLD_RATE 7 0 ≤ ((Tab.getD s.prs.hist a []).filter (inHour s)).length)

/-- PRS_RLD_CAP: above 450,000 acts as 450,000. -/
def rldCap (s : State) : Nat := min 450000 (s.fld Reg.PRS_RLD_CAP 19 0)

/-- Whether a free array may join a reload pool: not worn, below PRS_RLD_CAP, within its rate, and with columns that serve (R165, R181, R297). -/
def poolOk (s : State) (off ent b : Nat) : Bool :=
  s.freeArr b && !s.worn b && decide (pCOUNT (recAt s.nvsView b) < rldCap s) && !overRate s b && columnsOk s off ⟨ent, 0, 0, b, true⟩ b

/-- A substitute for a pool array that fails in a reload; with none the reload is refused (R181). -/
def reloadSub (a : Nat) (r : Reload) (s : State) : State :=
  let c := a / 64
  let off := ((Tab.find? s.prs.images r.slot).map (fun x => x.off)).getD 0
  match (if s.hasMappable c then chooseArr r.alloc (poolOk s off r.ent) c else none), Tab.find? s.prs.images r.slot with
  | some b, some x =>
    let mine := (x.places.filter (fun p => p.ent == r.ent && p.arr == a)).map (fun p => { p with arr := b })
    let s1 := s.onImage r.slot (fun y => { y with places := swapArr a b y.places })
    let s2 := { s1 with prs := { s1.prs with rld := some { r with todo := r.todo.filter (fun (p : Place) => p.arr != a) ++ mine, alloc := r.alloc.filter (fun q => q != b) } } }
    s2.mapEntries (fun k e => k == c && eSLOT e == r.slot && eARRAY e == a % 64) (fun e => (e &&& ~~~0xFC#128) ||| BitVec.ofNat 128 (4 * (b % 64)))
  | _, some x => refuseReload r.slot (manAt s.mem.dram x.off r.ent).layer { s with prs := { s.prs with rld := none } }
  | _, none => { s with prs := { s.prs with rld := none } }

/-- What a failed array asks of its user: a substitute for a load, a reload, or a repair (R171, R181, R296). -/
def failedArr (a : Nat) (s : State) : State :=
  if s.loadPlaces.any (fun p => p.arr == a) then loadSub a s
  else match s.prs.reps.find? (fun r => r.sub.any (fun b => b.1 == a)), s.prs.rld with
  | some r, _ =>
    if s.hasSub (a / 64) then { s with prs := { s.prs with reps := s.prs.reps.map (fun q => if q == r then { q with sub := none } else q) } }
    else noRepair r.place.arr r.slot { s with prs := { s.prs with reps := s.prs.reps.filter (fun q => q != r) } }
  | none, some r => if r.begun.contains a || r.todo.any (fun p => p.arr == a) then reloadSub a r s else repairFor a s
  | none, none => repairFor a s

/-- A worn array is not pressed (R165): event 0x030A, and what wanted it takes another. -/
def wornArr (a : Nat) (s : State) : State :=
  let s1 := s.raise 0x030A 2 0x200 (a + 2 ^ 32 * pCOUNT (recAt s.nvsView a))
  failedArr a { s1 with prs := { s1.prs with load := s1.prs.load.map (fun l => { l with begun := l.begun.filter (fun b => b != a) }) } }

/-! ## Firmware's start tasks -/

/-- The start tasks that precede READY (R164, R423 step 9): slot records are read, records that are not committed or have ORD 0xFFFF get VALID 0,
and PRS_RESV and PRS_RELOC are set; the records and the relocation map are read whole (R400). -/
def startTasks (s : State) : State :=
  let s1 := (((List.range 4).foldl (fun t n => (t.abRead (abSlot n)).1) s).nvsRead 3 0x8000 0x4000).nvsRead 3 0xC000 0x2000
  let s2 := (List.range 2048).foldl (fun t a =>
    let r := t.prec a
    if pVALID r && (!t.committed a || pORD r == 0xFFFF) then t.unprogram a else t) s1
  let s3 := s2.reservesSet
  s3.setReg Reg.PRS_RELOC (BitVec.ofNat 32 (512 - relocUsed s3.mem.nvs))

end Sys2Proof.Machine
end

