-- ==== Sys2Proof/Machine/Stage.lean ====
section
/-!
DEFINITION. The array stage (R75, R84, R90, R91, R281 to R287, R294, R295, R496): correction, slices, checks, delivery, failed arrays.
-/
namespace Sys2Proof.Machine

/-! ## Correction and slices -/

/-- FP32 1.0. -/
abbrev f32One : W32 := 0x3F800000

/-- The gain of a column, exact (R125). -/
def Run.gain (r : Run) (j : Nat) : Fr :=
  (((f32 (Tab.getD r.cor.gf j f32One)).fr.mul (f32 r.cor.ga).fr)).mul (f32 r.gt).fr

/-- The corrected Q.8 value of a column (R90). -/
def Run.y (r : Run) (j : Nat) : Int :=
  ((r.gain j).mul (((Fr.ofInt (Tab.getD r.raw j 0)).sub (f32 (Tab.getD r.cor.off j 0)).fr).mul (Fr.ofInt 256))).round false

/-- The high columns and the low column of a weight (Table SLC-1); in P1 the low column alone. -/
def profCols (p n : Nat) : List Nat × Nat :=
  if p = 0 then ([], n) else if p = 1 then ([2 * n], 2 * n + 1) else if p = 2 then ([3 * n, 3 * n + 1], 3 * n + 2)
  else ([4 * n, 4 * n + 1, 4 * n + 2], 4 * n + 3)

/-- The skim result of a run. -/
def Run.skimOut (r : Run) : SkimOut := match r.skim with
  | .done o => o
  | _ => ⟨false, [], []⟩

/-- The combined value of a weight (R75). -/
def Run.value (r : Run) (p n : Nat) : Int :=
  let c := profCols p n
  let rep : Int := profRep p
  16 * ((c.1.map r.y).foldl (fun a b => a + b) 0) + rep * r.y c.2 + rep * Tab.getD r.skimOut.vals n 0

/-- The tag of an output before its checks (R29, R30, R77, R85). -/
def Run.tag (r : Run) (p n : Nat) : Nat :=
  let c := profCols p n
  (if (c.2 :: c.1).any (fun j => Tab.getD r.clamp j false) then tCLAMP else 0) + (if Tab.getD r.skimOut.ovf n false then tSKIM else 0)
    + (if r.inf then tSAT else 0) + (if r.nan || r.skimOut.poison then tPOISON else 0)

/-- PROFILE of an array. -/
def State.prof (s : State) (a : Nat) : Nat := s.fld (Reg.ARR_CFG a) 13 12

/-! ## Checks -/

/-- D of a group (R281). -/
def Run.dOf (r : Run) (n : Nat) : Int :=
  ((List.range 64).map (fun j => r.y (64 * n + j))).foldl (fun a b => a + b) 0 - 64 * r.y (520 + n) - 256 * Tab.getD r.rm n 0

/-- Whether no comparison of a group is made (R59, R280, R282). -/
def checkSkipped (s : State) (a : Nat) (r : Run) (n : Nat) : Bool :=
  !r.stored || r.sigma == 0 || !s.rbit (Reg.ARR_CHK_CFG (a / 64)) 8
    || r.clamp.any (fun e => e.2 && (e.1 / 64 == n || e.1 == 520 + n) && (decide (e.1 < 512) || e.1 == 520 + n))

/-- Whether |D| is within τ (R282). -/
def withinTau (s : State) (a : Nat) (r : Run) (n : Nat) : Bool :=
  decide (4 * (r.dOf n).natAbs ≤ max 1 (s.fld (Reg.ARR_CHK_CFG (a / 64)) 7 0) * r.sigma.toNat)

/-- TST_CINV armed for an array (R306). -/
def cinvFor (s : State) (a : Nat) : Bool := match s.pertAt 0x90 with
  | some p => bits p.val 10 0 == a
  | none => false

/-- The comparisons of the groups in ascending order: the state after, and the groups that failed. -/
def checkGroups (a : Nat) (r : Run) : List Nat → State → State × List Nat
  | [], s => (s, [])
  | n :: rest, s =>
    if checkSkipped s a r n then checkGroups a r rest (s.incReg (Reg.ARR_CHKSKIP_CNT a) 1)
    else
      let ok := withinTau s a r n != cinvFor s a
      let s1 := if cinvFor s a then s.usePert 0x90 else s
      let p := checkGroups a r rest s1
      (p.1, if ok then p.2 else n :: p.2)

/-! ## Delivery -/

/-- An output-stage record in a core buffer. -/
def recordAt (s : State) (core off : Nat) : OstSt := ⟨BitVec.ofNat 256 (s.num 1 (cb core off) 32), []⟩

/-- Reads the output-stage record of a direct completion (R496). -/
def readDirect (core off : Nat) (s : State) : State × DirOst :=
  let o := recordAt s core off
  let bad0 := s.bad 1 (cb core off) 32
  let s1 := s.readFx 1 (cb core off) 32 core 0
  if bad0 then (s1, ⟨⟨0, []⟩, some 3⟩)
  else if ostFormatBad o || ostAddressBad o then (s1, ⟨⟨0, []⟩, some 0⟩)
  else if o.act ≠ 8 then (s1, ⟨o, none⟩)
  else
    let t := pwlRead s core o
    let bad1 := s.bad 1 (cb core o.pwlptr) 768
    let s2 := s1.readFx 1 (cb core o.pwlptr) 768 core 0
    (s2, if bad1 then ⟨⟨0, []⟩, some 3⟩ else if pwlOk t then ⟨⟨o.rcd, t⟩, none⟩ else ⟨⟨0, []⟩, some 1⟩)

/-- The scale-and-bias entry of a direct output: its offset's entry, or 1.0 and 0 with a cause (R496). -/
def directEntry (s : State) (core : Nat) (o : DirOst) (col : Nat) : W32 × W32 × Option Nat :=
  let a := o.ost.sbptr + 8 * col
  if o.bad.isSome then (f32One, 0, o.bad)
  else if a + 8 > 2 ^ 21 then (f32One, 0, some 2)
  else if s.bad 1 (cb core a) 8 then (f32One, 0, some 3)
  else let e := sbEntry s core a; (e.1, e.2, none)

/-- Bytes of n scale-and-bias entries from an offset on, as far as they lie in the core buffer (R496). -/
def entBytes (a n : Nat) : Nat := min (8 * n) (2 ^ 21 - a)

/-- Columns of DO that a direct completion writes: outputs with COLOFF + n below DIM0. -/
def directCount (d : Desc) (coloff width : Nat) : Nat := min width (d.dim0 - coloff)

/-- Direct completion of outputs given as Q.8 values with tags; `hit` lists the outputs whose scale multiply meets a residue mismatch, which poisons them
(R91, R119, R120, R285, R496). -/
def directOut (a : Nat) (r : Run) (hit : List Nat) (vals : List Int) (tags : List Nat) (s : State) : State :=
  let core := a / 64
  let i := r.cmd.ctx
  let d := descOf r.cmd.dout
  let (s1, o) := match r.dost with
    | some o => (s, o)
    | none => readDirect core r.cmd.ost s
  let n := directCount d r.cmd.coloff vals.length
  let ents := (List.range n).map (fun q => directEntry s1 core o (r.cmd.coloff + q))
  let cause := o.bad.or (ents.findSome? (fun e => e.2.2))
  let s2 := match cause with
    | none => s1
    | some k => (s1.accErr i 6).raise 0x0207 2 core (core + 2 ^ 16 * (i % 4) + 2 ^ 24 * (a % 64) + 2 ^ 32 * r.cmd.ost + 2 ^ 64 * k)
  let s3 := if o.bad.isSome ∨ n = 0 then s2 else s2.readFx 1 (cb core (o.ost.sbptr + 8 * r.cmd.coloff)) (entBytes (o.ost.sbptr + 8 * r.cmd.coloff) n) core 0
  let els := (List.range n).map (fun q =>
    let e := ents.getD q (f32One, 0, none)
    let t := tags.getD q 0
    outElem o.ost e.1 e.2.1 ((q8Val (vals.getD q 0)).scale r.slow) (if e.2.2.isSome || hit.contains q then t ||| tPOISON else t))
  let row := convRow d o.ost.rtz (tags.take n) els
  let put := fun (t : State) (x : CRow) => t.putOut i d (d.rowAt r.cmd.row 0 0) (d.rowIx r.cmd.row 0 0) r.cmd.coloff x
  let s4 := (List.range ((List.range n).countP hit.contains)).foldl (fun t _ => t.residue a 6) s3
  if o.ost.pool = 0 then put s4 row
  else
    let x := s4.arr a
    let l := x.pool ++ [row]
    if l.length < o.ost.window then s4.setArr a { x with pool := l }
    else put (s4.setArr a { x with pool := [] }) (poolRows o.ost d l)

/-- Delivers the values of an MVX: to DO, where `hit` lists residue mismatches, or as a partial of its tile if that tile is still held; the MVX has completed
(R91, R92). -/
def deliver (a : Nat) (r : Run) (hit : List Nat) (vals : List Int) (tags : List Nat) (s : State) : State :=
  let s0 := s.incWrap (Reg.ARR_MVX_CNT a) 1
  let s1 := match r.cmd.gen with
    | none => directOut a r hit vals tags s0
    | some g =>
      if (s0.ctx r.cmd.ctx).tiles.any (fun t => t.gen == g) then
        let x := s0.arr a
        s0.setArr a { x with held := x.held ++ [Held.part ⟨r.cmd.ctx, r.cmd.id, g, r.cmd.vidx, r.cmd.coloff, r.cmd.pass, r.cmd.chpos, vals, r.slow, tags⟩] }
      else s0
  s1.endWork r.cmd.ctx r.cmd.id

/-! ## Failed arrays -/

/-- A command that has not started, on an array of profile p. -/
def Run.blank (p : Nat) (m : Mvx) : Run :=
  ⟨m, 0, 0, false, false, false, false, [], [], 0, false, false, false, none, ⟨[], [], f32One, 0⟩, f32One, 0, [], [], [], none, .none, p, false, false⟩

/-- Delivers every output of a command with POISON, without analogue work (R295). -/
def failRun (a : Nat) (r : Run) (s : State) : State :=
  let n := profWidth r.prof
  deliver a r [] ((List.range n).map (Config.failedOut a)) (List.replicate n tPOISON) s

/-- A command that a failed array is to deliver without analogue work: it has no phases (R295). -/
def Run.dead (r : Run) : Run := { r with phases := 0, live := false, skim := .none, dost := none }

/-- Whether earlier accesses of its context let a failed command deliver now (R205). -/
def failClear (s : State) (r : Run) : Bool := let c := s.ctx r.cmd.ctx; c.readClear r.cmd.id && c.writeClear r.cmd.id

/-- The commands of a failed array deliver in arrival order; those from the first whose context has an earlier access under way wait in the array stage
(R205, R295). -/
def failRuns (a : Nat) : List Run → State → State
  | [], s => s
  | r :: rest, s =>
    if failClear s r then failRuns a rest (failRun a r s)
    else let x := s.arr a; s.setArr a { x with held := x.held ++ (r :: rest).map (fun q => Held.sum q.dead true) }

/-- Whether an AON count lies within the last 1 s. -/
def recent (now t : W64) : Bool := decide ((now - t).toNat < 1000000)

/-! ## Requests on an array -/

/-- Writes a program's status word and increases its counter under signal-after-write (R206, R248, R249; log entry 159). -/
def State.askStatus (s : State) (core k rst ctr entry kind code : Nat) : State :=
  let s1 := (s.tankPut rst (leBytes 4 (code + 16 * kind + 2 ^ 16 * entry)) core).poisonIf (core * 4 + k) (s.partBadAt 0 rst 4)
  s1.sigNow (core * 4 + k) ctr 1

/-- Changes the churn requests of a core. -/
def State.onAsks (s : State) (c : Nat) (f : List Ask → List Ask) : State := let k := s.core c; s.setCore c { k with churns := f k.churns }

/-- Changes the test requests of a core. -/
def State.onTests (s : State) (c : Nat) (f : List Ask → List Ask) : State := let k := s.core c; s.setCore c { k with tests := f k.tests }

/-- Reports the code of a test request to its source (R303, R249, R453). -/
def reportTest (core : Nat) (q : Ask) (code : Nat) (s : State) : State := match q.src with
  | .reg => s.setReg Reg.TST_TREQ_STAT (BitVec.ofNat 32 (q.arr + 2 ^ 12 * code + 2 ^ 31))
  | .ctx k rst ctr entry => s.askStatus core k rst ctr entry 0 code
  | .host n tag => match s.findCmd n tag 5 with
    | none => s
    | some c => s.finish n c (if code = 0 ∨ code = 6 then 0 else 2) code

/-- Ends the test requests of an array that satisfy a condition. -/
def endTests (a code : Nat) (p : Ask → Bool) (s : State) : State :=
  let c := a / 64
  let mine := fun (q : Ask) => q.arr == a && p q
  ((s.core c).tests.filter mine).foldl (fun t q => reportTest c q code t) (s.onTests c (fun l => l.filter (fun q => !mine q)))

/-- An array stops serving: its churn requests end with code 0x2, its test requests with a code of their own (R147, R303, Table DEP-6). -/
def stopAsks (a code : Nat) (s : State) : State :=
  endTests a code (fun _ => true)
    (s.onAsks (a / 64) (fun l => l.map (fun q => if q.arr == a && q.code.isNone then { q with started := true, code := some 2 } else q)))

/-! ## Entering FAULT -/

/-- An array enters FAULT: event 0x0D03, and its retry, its command at work and its queue resolve in arrival order; what uses it
is repaired (R294 to R296). -/
def enterFault (a cause : Nat) (s : State) : State :=
  let x := s.arr a
  let todo := x.retry.toList ++ (match x.cur with
    | some r => r :: (x.queue.drop 1).map (Run.blank (s.prof a))
    | none => x.queue.map (Run.blank (s.prof a)))
  let mine := fun (e : Nat × Nat) => todo.any (fun r => r.cmd.ctx == e.1 && r.cmd.id == e.2)
  let k := s.core (a / 64)
  let s1 := s.setArr a { x with st := .fault, queue := [], cur := none, retry := none, codes := [], park := false, test := none, chn := { x.chn with cur := none } }
  let s2 := if k.waitq.any mine then s1.setCore (a / 64) { k with waitq := k.waitq.filter (fun e => !mine e) } else s1
  failedArr a (stopAsks a 4 (failRuns a todo (s2.raise 0x0D03 2 0x100 (a + 2 ^ 16 * cause))))

/-- A retry that failed its checks: counts, event 0x0D01, a test due, and FAULT at the FAULTN-th within 1 s (R284, R294, R304, R309). -/
def retryFailed (a : Nat) (r : Run) (fails : List Nat) (s : State) : State :=
  let x := s.arr a
  let now := s.cnt.aon
  let l := now :: x.fails.filter (recent now)
  let cf := now :: s.mr.cf.filter (recent now)
  let n := x.d01n + 1
  let due := match x.d01at with
    | none => true
    | some t => !recent now t
  let mask := fails.foldl (fun m g => m + 2 ^ g) 0
  let s1 := (s.incReg (Reg.ARR_CHKPOIS_CNT a) 1).setArr a { x with fails := l, d01at := if due then some now else x.d01at, d01n := if due then 0 else n }
  let s2 := { s1 with mr := { s1.mr with cf := cf, urgent := if s1.mr.urgent.contains a then s1.mr.urgent else s1.mr.urgent ++ [a] } }
  let s3 := s2.raiseIf due 0x0D01 2 0x100 (a + 2 ^ 16 * mask + 2 ^ 32 * (n % 2 ^ 32) + 2 ^ 64 * ofInt 32 (r.dOf (fails.headD 0)))
  let s4 := if cf.length > s3.fld Reg.TST_CF_THR 15 0 then s3.health 1 else s3
  if l.length ≥ max 1 (s4.fld (Reg.ARR_CHK_CFG (a / 64)) 19 16) then
    enterFault a 3 (s4.setArr a { s4.arr a with fails := [] }) else s4

/-! ## Combination -/

/-- Takes the first sum of an array stage, with what precedes and follows it. -/
def splitSum : List Held → Option (Run × Bool × List Held)
  | [] => none
  | .sum r b :: l => some (r, b, l)
  | .part p :: l => (splitSum l).map (fun x => (x.1, x.2.1, .part p :: x.2.2))

/-- The run that a retry starts from (R283). -/
def retryRun (s : State) (a : Nat) (r : Run) : Run :=
  { r with phase := 0, live := false, rerun := false, retry := true, raw := [], clamp := [], rm := [], stored := (s.arr a).rho.isSome, smis := false, long := s.rbit (Reg.ARR_CHK_CFG (a / 64)) 9 || s.rbit (Reg.ARR_CFG a) 3 }

/-- Combines a sum: correction, slices, checks, then the retry or the delivery. Each residue mismatch counts; those of the array stage send the command into
its retry, those of a direct completion's output stage poison their outputs (R75, R90, R283 to R285, R287). -/
def combine (a : Nat) (r : Run) (rest : List Held) (res : StageResidues) (s : State) : State :=
  let p := r.prof
  let n := profWidth p
  let s0 := s.setArr a { s.arr a with held := rest }
  let (s1, fails) := checkGroups a r (List.range 8) s0
  let s2 := res.units.foldl (fun t u => t.residue a u.val) s1
  let mism := r.smis || !res.units.isEmpty
  let dead := (s2.arr a).st == .fault
  if (mism || !fails.isEmpty) && !r.retry && !dead then
    let s3 := s2.incReg (Reg.ARR_CHKFAIL_CNT a) 1
    s3.setArr a { s3.arr a with retry := some (retryRun s3 a r) }
  else
    let vals := (List.range n).map (r.value p)
    let hit := fun q => let c := profCols p q; (c.2 :: c.1).any (fun j => fails.contains (j / 64))
    let tags := (List.range n).map (fun q => r.tag p q ||| (if hit q then tCHECK + tPOISON else 0)
      ||| (if mism then tPOISON else 0))
    let s3 := deliver a r res.outs vals tags s2
    if fails.isEmpty || dead then s3 else retryFailed a r fails s3

/-- Whether a direct completion's scale-and-bias entries may be read: no earlier write of its context to them is under way (R205, R496). -/
def entsClear (s : State) (a : Nat) (r : Run) : Bool := match r.dost with
  | some o => o.bad.isSome || (s.ctx r.cmd.ctx).clearOf r.cmd.id [⟨1, cb (a / 64) (o.ost.sbptr + 8 * r.cmd.coloff),
      entBytes (o.ost.sbptr + 8 * r.cmd.coloff) (directCount (descOf r.cmd.dout) r.cmd.coloff (profWidth r.prof))⟩]
  | none => true

/-- ARRAY_STAGE_COMBINE: the oldest sum, when it and its skim result are ready, no retry is due before it, and a direct completion may
read its entries and write (R84, R205, R283). What an array that has failed still holds of its queue is delivered without analogue work (R295). -/
def execArrayStageCombine (a : ArrId) (residue : StageResidues) (s : State) : Out :=
  let x := s.arr a.val
  .next (s.when (s.coreUp (a.val / 64) && x.retry.isNone) (match splitSum x.held with
    | some (r, true, rest) =>
      if r.phases = 0 then (if failClear s r then failRun a.val r (s.setArr a.val { x with held := rest }) else s)
      else if (r.skim == .waiting) || (r.skim == .lane) || !(s.ctx r.cmd.ctx).writeClear r.cmd.id || !entsClear s a.val r then s
      else combine a.val r rest residue s
    | _ => s))

/-- Marks the first sum that is not ready. -/
def readySum : List Held → List Held
  | [] => []
  | .sum r false :: l => .sum r true :: l
  | h :: l => h :: readySum l

/-- ADDER_TREE_SUM: the sum of a finished command is available (R54). -/
def execAdderTreeSum (a : ArrId) (s : State) : Out :=
  let x := s.arr a.val
  .next (s.when (s.coreUp (a.val / 64)) (s.setArr a.val { x with held := readySum x.held }))

end Sys2Proof.Machine
end

