-- ==== Sys2Proof/Machine/Conv.lean ====
section
/-!
DEFINITION. Row codes, segment sums, converters and the adder tree (R41 to R48, R55 to R58), shared by MVXs, churn probes and test vectors.
-/
namespace Sys2Proof.Machine

/-- A segment of a row (R41). -/
def segOf (r : Nat) : Nat := r / 128

/-- The row code of an integer in phase p of n (Table FMT-4). -/
def rowCode (n p : Nat) (x : Int) : Int := let y := x / (16 ^ (n - 1 - p) : Nat); if p = 0 then y else y % 16

/-- Table FMT-4's weight of phase p of n. -/
def phaseWeight (n p : Nat) : Int := (16 ^ (n - 1 - p) : Nat)

/-- RANGE_K of an array: 7 acts as 6. -/
def State.rangeK (s : State) (a : Nat) : Nat := min 6 (s.fld (Reg.ARR_CFG a) 2 0)

/-- Segment sums by segment * 528 + column, in 1/256 unit: the levels under the row codes, and the deviations given (log entry 4). -/
def segSums (levels : Tab Int) (codes : List Int) (seg : Nat) (noise : List (Nat × Int)) : Tab Int :=
  let t := levels.foldl (fun (t : Tab Int) e =>
    let row := e.1 / 1024
    let c := codes.getD row 0
    if c = 0 ∨ nbits seg (segOf row) (segOf row) = 0 ∨ row ≥ 512 ∨ e.1 % 1024 ≥ 528 then t
    else let k := segOf row * 528 + e.1 % 1024; Tab.setD t k 0 (Tab.getD t k 0 + 256 * c * e.2)) []
  noise.foldl (fun t e => if e.1 < 2112 ∧ nbits seg (e.1 / 528) (e.1 / 528) = 1 then Tab.setD t e.1 0 (Tab.getD t e.1 0 + e.2) else t) t

/-- A converter code for a sum in 1/256 unit under range k, and whether it clamps (R46, R57); of two equally near codes it delivers either one (log
entry 26). -/
def convert (k : Nat) (x : Int) : Int × Bool :=
  let d := 256 * 2 ^ k
  let q := x.natAbs / d
  let up := if 2 * (x.natAbs % d) = d then Config.tieAway k x else decide (d < 2 * (x.natAbs % d))
  let m : Int := min (if up then q + 1 else q) 511
  (if x < 0 then -m else m, decide (2 * x.natAbs > 1023 * d))

/-- The codes of a phase with their clamps, keyed segment * 528 + column; a forced saturation replaces a segment's (R306). -/
def phaseCodes (k seg : Nat) (sums : Tab Int) (fs : Option W32) : Tab (Int × Bool) :=
  let t := sums.map (fun e => (e.1, convert k e.2))
  match fs with
  | none => t
  | some v =>
    let g := bits v 12 11
    if nbits seg g g = 0 then t else
    let c : Int := if bit v 15 then -511 else 511
    (t.filter (fun e => e.1 < g * 528)) ++ (List.range 528).map (fun j => (g * 528 + j, (c, true))) ++ (t.filter (fun e => e.1 ≥ (g + 1) * 528))

/-- Adds a phase's codes to the sums (R55). -/
def addCodes (wt : Int) (segw : List Nat) (k : Nat) (codes : Tab (Int × Bool)) (raw : Tab Int) : Tab Int :=
  codes.foldl (fun t e => let j := e.1 % 528; Tab.setD t j 0 (Tab.getD t j 0 + wt * (segw.getD (e.1 / 528) 0 : Nat) * (2 ^ k : Nat) * e.2.1)) raw

/-- Keys of the threshold events of an array (R72). -/
def keyClamp (a : Nat) : Nat := 0x01010000 + a
def keyAr (a : Nat) : Nat := 0x01020000 + a

/-- Counts clamped codes and records the last: highest column, then highest segment (R58, Table ARR-12). -/
def countClamps (a phase : Nat) (codes : Tab (Int × Bool)) (s : State) : State :=
  let l := codes.filter (fun e => e.2.2)
  match l with
  | [] => s
  | _ =>
    let col := (l.map (fun e => e.1 % 528)).foldl max 0
    let seg := ((l.filter (fun e => e.1 % 528 == col)).map (fun e => e.1 / 528)).foldl max 0
    let neg := decide ((Tab.getD codes (seg * 528 + col) (0, false)).1 < 0)
    let last := col + 2 ^ 10 * seg + 2 ^ 12 * phase + 2 ^ 14 * b2n neg + 2 ^ 15
    let s1 := (s.incReg (Reg.ARR_CLAMP_CNT a) l.length).setReg (Reg.ARR_CLAMP_LAST a) (BitVec.ofNat 32 last)
    let n := (s1.reg (Reg.ARR_CLAMP_CNT a)).toNat
    let th := (s1.reg (Reg.ARR_CLAMP_THR (a / 64))).toNat
    if th ≠ 0 ∧ n ≥ th then s1.raiseOnce (keyClamp a) 0x0101 1 (a / 64) (a + 2 ^ 32 * n + 2 ^ 64 * last) else s1

end Sys2Proof.Machine
end

