-- ==== Sys2Proof/Machine/Probe.lean ====
section
/-!
DEFINITION. Probe vectors, light pairs and probe references (R130, R131, R134, R135).
-/
namespace Sys2Proof.Machine

/-! ## Probes -/

/-- Rows and code of the light probes by range (Table CHN-3). -/
def lightProbe (k : Nat) : Nat × Int :=
  if k = 0 then (25, 1) else if k = 1 then (51, 1) else if k = 2 then (102, 1) else if k = 3 then (128, 1)
  else if k = 4 then (128, 3) else if k = 5 then (128, 6) else (128, 12)

/-- Row codes of a light probe of code c (R130). -/
def lightCodes (k seg : Nat) (c : Int) : List Int :=
  (List.range 512).map (fun r => if nbits seg (segOf r) (segOf r) = 1 ∧ r % 128 < (lightProbe k).1 then c else 0)

/-- The inputs of probe p under a shift (R135). -/
def probeInp (a p seg sh : Nat) : List Int :=
  (List.range 512).map (fun r => if nbits seg (segOf r) (segOf r) = 1 then (Config.probeByte a p r).toInt / (2 ^ sh : Nat) else 0)

/-- The two phases of an INT8 probe (Table FMT-4). -/
def probePhases (inp : List Int) : List (List Int) := [inp.map (rowCode 2 0), inp.map (rowCode 2 1)]

/-- Whether no predicted segment sum of a phase exceeds 384 × 2^k in magnitude (R135). -/
def withinLimit (levels : Tab Int) (k seg : Nat) (codes : List Int) : Bool :=
  (segSums levels codes seg []).all (fun e => decide (e.2.natAbs ≤ 256 * 384 * 2 ^ k))

/-- The shift of a probe: the smallest from 0 to 7 that keeps the limit, or 7 (R135). -/
def probeShift (levels : Tab Int) (a p k seg : Nat) : Nat :=
  ((List.range 8).find? (fun sh => (probePhases (probeInp a p seg sh)).all (withinLimit levels k seg))).getD 7

/-- The deviations of one phase of several: phase i lists segment sum n as 2112 * i + n (log entry 4). -/
def phaseNoise (i : Nat) (noise : List (Nat × Int)) : List (Nat × Int) :=
  (noise.filter (fun e => decide (2112 * i ≤ e.1) && decide (e.1 < 2112 * (i + 1)))).map (fun e => (e.1 - 2112 * i, e.2))

/-- The converter codes of a probe phase with their clamps, keyed segment * 528 + column; a probe phase is not run again under AUTORANGE (log entry
121). -/
def probeCodes (levels : Tab Int) (k seg : Nat) (codes : List Int) (noise : List (Nat × Int)) : Tab (Int × Bool) :=
  phaseCodes k seg (segSums levels codes seg noise) none

/-- The codes of the two phases of an INT8 vector; `i` is its first phase among those of the deviations. -/
def vecCodes (levels : Tab Int) (k seg : Nat) (inp : List Int) (i : Nat) (noise : List (Nat × Int)) : Tab (Int × Bool) × Tab (Int × Bool) :=
  (probeCodes levels k seg (inp.map (rowCode 2 0)) (phaseNoise i noise), probeCodes levels k seg (inp.map (rowCode 2 1)) (phaseNoise (i + 1) noise))

/-- The adder-tree sums of the two phases of a vector (R55). -/
def vecSums (k : Nat) (c : Tab (Int × Bool) × Tab (Int × Bool)) : Tab Int :=
  addCodes 1 [1, 1, 1, 1] k c.2 (addCodes 16 [1, 1, 1, 1] k c.1 [])

/-- The starter codes of a light phase by segment * 8 + starter column (R131). -/
def starterSums (codes : Tab (Int × Bool)) : Tab Int :=
  codes.filterMap (fun e => if 512 ≤ e.1 % 528 ∧ e.1 % 528 < 520 then some (e.1 / 528 * 8 + (e.1 % 528 - 512), e.2.1) else none)

/-- SEGEN of an array. -/
def State.segen (s : State) (a : Nat) : Nat := s.fld (Reg.ARR_CFG a) 11 8

/-- The levels of an array. -/
def State.levels (s : State) (a : Nat) : Tab Int := Tab.getD s.pcm a []

/-- The first sum of a light pair in units, less the second, over 2 × m × c × L_i, by segment * 8 + starter column (R131). -/
def responses (k seg : Nat) (plus minus : Tab Int) : Tab Resp :=
  let (m, c) := lightProbe k
  (List.range 32).filterMap (fun i =>
    if nbits seg (i / 8) (i / 8) = 0 then none
    else
      let r := (Fr.ofInt ((Tab.getD plus i 0 - Tab.getD minus i 0) * (2 ^ k : Nat))).div (Fr.ofInt (2 * (m : Int) * c * starter (i % 8)))
      some (i, ⟨r.num, r.den⟩))

/-- The light pair of an array whose first phase is phase i of the deviations: its responses, and the state with its clamps counted (R58, R130,
R131). -/
def lightPair (s : State) (a i : Nat) (noise : List (Nat × Int)) : Tab Resp × State :=
  let k := s.rangeK a
  let c := (lightProbe k).2
  let p := probeCodes (s.levels a) k (s.segen a) (lightCodes k (s.segen a) c) (phaseNoise i noise)
  let m := probeCodes (s.levels a) k (s.segen a) (lightCodes k (s.segen a) (-c)) (phaseNoise (i + 1) noise)
  (responses k (s.segen a) (starterSums p) (starterSums m), countClamps a 1 m (countClamps a 0 p s))

/-! ## Probe references -/

/-- The slice levels of an array section of a shadow image, by row * 1024 + column (R74, R129, R168). -/
def shadowLevels (m : Mem) (prof sec : Nat) : Tab Int :=
  (List.range (512 * 1024)).filterMap (fun i =>
    let v := if i % 1024 < 528 then target m prof sec (i / 1024) (i % 1024) else 0
    if v = 0 then none else some (i, v))

/-- The probe reference of an array for a range and enabled segments (R134, R135). -/
def mkRef (m : Mem) (a sec prof depth k seg : Nat) : ProbeRef :=
  let l := shadowLevels m prof sec
  let sh := (List.range 16).map (fun p => probeShift l a p k seg)
  ⟨sec, prof, depth, k, seg, sh, (List.range 16).flatMap (fun p =>
    let t := vecSums k (vecCodes l k seg (probeInp a p seg (sh.getD p 7)) 0 [])
    (List.range 528).map (fun j => (p * 528 + j, Tab.getD t j 0)))⟩

/-- The press or firmware reads bytes of an image in DRAM (R253, R257). -/
def imgRead (o n : Nat) (s : State) : State := s.readFx 2 o n 75 0

/-- Bytes of an array section (R168). -/
def secLen : Nat := 131072

/-- Firmware builds an array's probe reference from its shadow image, for the range and segments that ARR_CFG holds, and writes its remainder store
(R134, R280). -/
def buildRef (a sec prof depth : Nat) (s0 : State) : State :=
  let s := imgRead sec secLen s0
  let s1 := { s with refs := Tab.insert s.refs a (mkRef s.mem.dram a sec prof depth (s.rangeK a) (s.segen a)) }
  s1.setArr a { s1.arr a with depth := depth, rho := some (remainders s.mem.dram prof sec) }

/-- Before a full churn starts, firmware has rebuilt a reference whose range or segments have changed, and has written a remainder store that a reset
of the core cleared (R134, R280, R422). -/
def freshRef (a : Nat) (s : State) : State := match Tab.find? s.refs a with
  | none => s
  | some r => if r.k = s.rangeK a ∧ r.seg = s.segen a ∧ (s.arr a).rho.isSome then s else buildRef a r.sec r.prof r.depth s

end Sys2Proof.Machine
end

