-- ==== Sys2Proof/Machine/Idle.lean ====
section
/-!
DEFINITION. When an array is idle, and how churns and units of tests start on idle arrays (R67, R69, R137, R139, R141, R142, R146, R147, R300, R303).
-/
namespace Sys2Proof.Machine

/-! ## Idle arrays -/

/-- Whether an array's stage takes another sum (R84, R106). -/
def stageFree (x : Arr) : Bool := decide (x.held.length < 4)

/-- Whether a phase is in progress on an array (R69, R70): of a command, whose phases follow one another unless the array stage is full, of a retry
that has begun, or of a churn or test unit. -/
def arrBusy (x : Arr) : Bool :=
  x.cur.any (fun r => r.live || stageFree x) || x.retry.any (fun r => r.live || r.rerun || decide (0 < r.phase))
    || x.chn.cur.any (fun c => c.live) || x.test.any (fun t => t.live)

/-- Whether the press, a churn or a test may take an array: its queue is empty and no phase is in progress, nor a retry due, whose phases follow the
command's at once (R67, R283). -/
def State.idle (s : State) (a : Nat) : Bool := let x := s.arr a; x.queue.isEmpty && x.retry.isNone && !arrBusy x

/-- A parked array whose queue is empty and that runs nothing enters OFF (Table ARR-7). -/
def parkCheck (a : Nat) (s : State) : State :=
  let x := s.arr a
  if x.park && x.st == .ready && x.queue.isEmpty && x.cur.isNone && x.retry.isNone then
    s.setArr a { x with st := .off, park := false, codes := [] } else s

/-- The row codes after the last phase of a command, a retry or a unit: 0, unless another command holds a queue entry (R44). -/
def restCodes (others : List Mvx) (last : List Int) : List Int := if others.isEmpty then [] else last

/-! ## What waits -/

/-- The latest sample of a core in 1/16 °C. -/
def State.temp (s : State) (c : Nat) : Int := sint 16 (s.fld (Reg.CHN_TEMP c) 15 0)

/-- Whether an array is active: a valid layer map entry of a context with BOUND set names it (R146). -/
def State.active (s : State) (a : Nat) : Bool :=
  let c := a / 64
  let mask := (List.range 4).filter (fun k => s.rbit (Reg.SEQ_CTX_CFG (c * 4 + k)) 0)
  !mask.isEmpty && (List.range 1024).any (fun i =>
    let e := s.entry c i
    eVALID e && eARRAY e == a % 64 && mask.any (fun k => bit e (16 + k)))

/-- Arrays of a core in churn (R142). -/
def State.churning (s : State) (c : Nat) : Nat := ((List.range 64).filter (fun l => (s.arr (c * 64 + l)).chn.cur.isSome)).length

/-- MAXPAR of a core: 0 acts as 1, 5 to 7 act as 4. -/
def State.maxChurn (s : State) (c : Nat) : Nat := let n := s.fld (Reg.CHN_CFG c) 6 4; if n = 0 then 1 else min 4 n

/-- Whether a class is a light churn. -/
def lightClass (n : Nat) : Bool := n == 4 || n == 6

/-- Whether a request waits for a churn of an array of a kind. -/
def State.asked (s : State) (a : Nat) (full : Bool) : Bool :=
  (s.core (a / 64)).churns.any (fun q => q.arr == a && q.full == full && !q.started && q.code.isNone)

/-- The lowest due class of an array. -/
def minDue (l : List Due) : Option Nat := l.foldl (fun m d => match m with
  | none => some d.cls
  | some n => some (min n d.cls)) none

/-! ## Starting -/

/-- Gives a code to the started requests of an array. -/
def askEnd (a code : Nat) (s : State) : State :=
  s.onAsks (a / 64) (fun l => l.map (fun q => if q.arr == a && q.started && q.code.isNone then { q with code := some code } else q))

/-- A full churn that cannot read its probe reference is abandoned: event 0x0405; a class 1 array returns to BIAS, one released since keeps its
state (R137, R141). -/
def abandon (a : Nat) (s : State) : State :=
  let x := s.arr a
  let st := if x.st = .churn then (if s.owes a then .bias else .ready) else x.st
  let s1 := s.setArr a { x with chn := { x.chn with cur := none }, st := st, settled := if x.st = .churn then s.owes a else x.settled }
  askEnd a 5 (firstDue a (s1.raise 0x0405 2 (a / 64) (a + 2 ^ 32)))

/-- The class a churn runs under: a full churn that meets the due churn of an age runs as that one too (R142, R154). -/
def churnClass (due : List Due) (full : Bool) (cls : Nat) : Nat :=
  if full && cls != 1 && due.any (fun d => d.cls == 2) then 2 else cls

/-- Starts a churn of an array: requests of its kind or a smaller one join it, and the classes it serves are no longer due (R142, R147). -/
def beginChurn (a : Nat) (full : Bool) (cls : Nat) (s0 : State) : State :=
  let s := if full then freshRef a s0 else s0
  let x := s.arr a
  let c : Churn := ⟨full, churnClass x.chn.due full cls, 0, true, [], [], s.cnt.aon, s.temp (a / 64), false⟩
  let s1 := s.setArr a { x with st := .churn, win := false, chn := { x.chn with cur := some c, due := x.chn.due.filter (fun d => lightClass d.cls == full) } }
  let s2 := s1.onAsks (a / 64) (fun l => l.map (fun q => if q.arr == a && q.code.isNone && (full || !q.full) then { q with started := true } else q))
  if full && !s2.refOk a then abandon a s2 else s2

/-- Starts the next unit of a full churn; the churn's window runs from its first unit (R139). -/
def beginChurnUnit (a : Nat) (u : Churn) (s : State) : State :=
  let x := s.arr a
  s.setArr a { x with st := .churn, win := false, chn := { x.chn with cur := some (if u.unit = 0 then { u with live := true, startAt := s.cnt.aon, startT := s.temp (a / 64) } else { u with live := true }) } }

/-- A churn that may start now: its place in the order of classes (0 for a request), the class it runs under, when it fell due or was asked for,
array, and whether it is full. -/
structure ChurnWant where
  ord : Nat
  cls : Nat
  at' : W64
  arr : Nat
  full : Bool

/-- When a class of an array fell due. -/
def dueAt (x : Arr) (cls : Nat) : W64 := ((x.chn.due.find? (fun d => d.cls == cls)).map (fun d => d.at')).getD 0

/-- Whether the class 1 churn of an array may start: owed by an array in CHURN, or by one that waits in BIAS once its reference exists; it needs no
idle window, and commands may wait in the queue (R141). -/
def firstMay (s : State) (a : Nat) : Bool :=
  let x := s.arr a
  s.owes a && x.chn.cur.isNone && !arrBusy x && (x.st == .churn || (x.st == .bias && x.settled && s.refOk a))

/-- What may start on an array: its class 1 churn; a request, in its idle window or at once when the array is not active; else the lowest due class,
in the idle window. A light request that meets a full churn that is due or asked for joins it, and is then a cause of that churn, as a request that
waits for an array whose class 1 churn is to start is of that one (R141, R146, R147). An active array that a test's unit releases to a request takes
the churn in its next idle window (R146; log entry 145). -/
def churnWant (s : State) (a : Nat) : Option ChurnWant :=
  let x := s.arr a
  let qs := (s.core (a / 64)).churns.filter (fun q => q.arr == a && !q.started && q.code.isNone)
  let asked := fun (q : Ask) => q.dl - BitVec.ofNat 64 q.us
  if firstMay s a then some (match qs with
    | q :: _ => ⟨0, 1, asked q, a, true⟩
    | [] => ⟨1, 1, dueAt x 1, a, true⟩)
  else if !(x.st == .ready && s.idle a && x.chn.cur.isNone && s.programmed a) then none else
  match qs with
  | q :: _ =>
    if x.win || !s.active a then some ⟨0, 0, asked q, a, qs.any (fun r => r.full) || x.chn.due.any (fun d => !lightClass d.cls)⟩ else none
  | [] =>
    if !x.win then none else
    match minDue x.chn.due with
    | none => none
    | some n => some ⟨n, n, dueAt x n, a, !lightClass n⟩

/-- Whether a churn comes before another: by class, requests first, then by due time, then by array (R142). -/
def ChurnWant.before (x y : ChurnWant) : Bool :=
  decide (x.ord < y.ord) || (x.ord == y.ord && (decide (x.at'.toNat < y.at'.toNat) || (x.at' == y.at' && decide (x.arr < y.arr))))

/-- The churn of a core that comes first. -/
def firstWant (l : List ChurnWant) : Option ChurnWant := l.foldl (fun b w => match b with
  | none => some w
  | some v => if w.before v then some w else some v) none

/-- The churns that may start on a core. -/
def churnWants (s : State) (c : Nat) : List ChurnWant := (s.arrs.filter (fun e => e.1 / 64 == c)).filterMap (fun e => churnWant s e.1)

/-- Whether a churn's turn has come: MAXPAR leaves a place for it after those that come before it (R142). -/
def ChurnWant.turn (s : State) (w : ChurnWant) : Bool :=
  decide (s.churning (w.arr / 64) + ((churnWants s (w.arr / 64)).filter (fun v => v.before w)).length < s.maxChurn (w.arr / 64))

/-- Starts the churns of a core that may start, in order, while fewer than MAXPAR arrays are in churn (R142). -/
def startChurns (c : Nat) : Nat → State → State
  | 0, s => s
  | n + 1, s =>
    if decide (s.maxChurn c ≤ s.churning c) then s else
    match firstWant (churnWants s c) with
    | none => s
    | some w => startChurns c n (beginChurn w.arr w.full w.cls s)

/-- Starts what may start on the arrays of a running core; at most 64 arrays can take a churn. -/
def churnGo (c : Nat) (s : State) : State := if s.coreUp c then startChurns c 64 s else s

/-- An idle window opens on an array: a unit of its full churn starts, or the churns of its core that may start now (R139, R141, R142). -/
def openWindow (a : Nat) (s : State) : State :=
  let x := s.arr a
  if !(s.coreUp (a / 64) && x.st == .ready && s.idle a) then s else
  match x.chn.cur with
  | some u => if !u.full || u.post then s else beginChurnUnit a u s
  | none => churnGo (a / 64) (s.setArr a { x with win := true })

/-! ## Units of tests -/

/-- Changes what stands of the milking round. -/
def State.onMr (s : State) (f : MrSt → MrSt) : State := { s with mr := f s.mr }

/-- Whether a churn or a unit of one waits for an array (R142, R300). -/
def churnWaits (s : State) (a : Nat) : Bool :=
  let x := s.arr a
  match x.chn.cur with
  | some u => u.full && !u.post
  | none => s.programmed a && decide (s.churning (a / 64) < s.maxChurn (a / 64)) && (s.asked a true || s.asked a false || !x.chn.due.isEmpty)

/-- Whether an array serves MVXs between its churns and tests. -/
def State.serves (s : State) (a : Nat) : Bool := match (s.arr a).st with
  | .ready | .churn | .test => true
  | _ => false

/-- Whether an array is under test (R300). -/
def State.testing (s : State) (a : Nat) : Bool := (s.arr a).test.isSome && s.serves a

/-- Whether a request or a failed retry asks for a test of an array (R294, R303). -/
def State.wanted (s : State) (a : Nat) : Bool :=
  s.mr.urgent.contains a || (s.core (a / 64)).tests.any (fun q => q.arr == a && !q.started)

/-- Whether a unit of a test may start on an array now: idle and READY, no churn waiting, no other array of the core under test (R300). -/
def State.unitOk (s : State) (a : Nat) : Bool :=
  let c := a / 64
  s.coreUp c && s.up 4 && (s.arr a).st == .ready && s.idle a && s.programmed a && !churnWaits s a
    && !(List.range 64).any (fun l => decide (c * 64 + l ≠ a) && s.testing (c * 64 + l))

/-- Starts the next unit of a test: the first one begins the test, which the requests waiting for it join (R300, R303). -/
def beginUnit (a : Nat) (s : State) : State :=
  let x := s.arr a
  let t := x.test.getD ⟨0, false, false, 0, false, []⟩
  let t1 : MrTest := { t with live := true, startAt := if t.unit = 0 then s.cnt.aon else t.startAt }
  let s1 := (s.setArr a { x with st := .test, win := false, test := some t1 }).onMr (fun m => { m with urgent := m.urgent.filter (fun b => b != a) })
  s1.onTests (a / 64) (fun l => l.map (fun q => if q.arr == a then { q with started := true } else q))

/-- Starts the first waiting test request of a core whose array is not active and may take a unit now (R303). -/
def testGo (c : Nat) (s : State) : State :=
  match (s.core c).tests.find? (fun q => !q.started && (s.arr q.arr).test.isNone && s.unitOk q.arr && !s.active q.arr) with
  | some q => beginUnit q.arr s
  | none => s

/-- What an array that has become free lets start on its core: churns first, then tests (R142, R146, R300, R303). -/
def freeGo (c : Nat) (s : State) : State := testGo c (churnGo c s)

end Sys2Proof.Machine
end

