-- ==== Sys2Proof/Machine/Arrays.lean ====
section
/-!
DEFINITION. Crossbar arrays: MVX, phases, converters and array registers (R25 to R35, R38 to R72, R127, R190, R191, R236).
-/
namespace Sys2Proof.Machine

/-! ## MVX -/

/-- Whether MVX input is block-scaled (R236). -/
def Desc.blockIn (d : Desc) : Bool := fmtFloat d.fmt || d.bsp != 0

/-- Elements of an input row that an array receives (R236). -/
def inCount (d : Desc) (chpos : Nat) : Nat := min 512 (d.dim0 - 512 * chpos)

/-- The operand-format conditions on DI and, without a tile, on DO and PM1 (R26, R91, R236). -/
def mvxFormat (d o : Desc) (nt : Bool) (p coloff row width : Nat) : Bool :=
  d.formatBad || d.fmt == 7 || decide (row ≥ d.dim1)
    || (nt && (p != 1 || o.formatBad || decide (row ≥ o.dim1)
      || (o.bsp != 0 && (coloff % 32 != 0 || (min (coloff + width) o.dim0 % 32 != 0 && min (coloff + width) o.dim0 != o.dim0)))))

/-- The address conditions on the elements that an MVX addresses (R229). -/
def mvxAddress (s : State) (d o : Desc) (nt : Bool) (chpos coloff row width : Nat) : Bool :=
  d.spaceBad s || (inCount d chpos != 0 && d.rowBad s (d.rowAt row 0 0) (d.rowIx row 0 0) (512 * chpos + inCount d chpos))
    || (nt && (o.spaceBad s || (decide (coloff < o.dim0) && o.rowBad s (o.rowAt row 0 0) (o.rowIx row 0 0) (min (coloff + width) o.dim0))))

/-- The ranges an MVX reads: its part of the input row with its block-scale entries. -/
def mvxReads (core : Nat) (d : Desc) (row chpos : Nat) : List Rng :=
  if inCount d chpos = 0 then []
  else d.rowRngs core (d.rowAt row 0 0) (d.rowIx row 0 0) 1 (512 * chpos) (512 * chpos + inCount d chpos)

/-- The record and the table that a direct completion reads at its first phase (R496). -/
def directReads (s : State) (core off : Nat) : List Rng :=
  let o := recordAt s core off
  ⟨1, cb core off, 32⟩ :: (if o.act = 8 then [⟨1, cb core o.pwlptr, 768⟩] else [])

/-- The scale-and-bias entries that a direct completion reads (R496). -/
def directEnts (core : Nat) (o : OstSt) (d : Desc) (coloff width : Nat) : List Rng :=
  if directCount d coloff width = 0 then [] else [⟨1, cb core (o.sbptr + 8 * coloff), entBytes (o.sbptr + 8 * coloff) (directCount d coloff width)⟩]

/-- The ranges a direct completion writes. -/
def mvxWrites (core : Nat) (o : Desc) (row coloff width : Nat) : List Rng :=
  if coloff < o.dim0 then o.rowRngs core (o.rowAt row 0 0) (o.rowIx row 0 0) 1 coloff (min (coloff + width) o.dim0) else []

/-- Sends an MVX to its array's queue: the tile counts its contribution, and the context its work (R64, R106, R206). -/
def mvxSend (i a : Nat) (e : BitVec 128) (w : BitVec 56) (s : State) : State :=
  let c := s.ctx i
  let d := c.dreg (fw w 29 26)
  let o := c.dreg (fw w 25 22)
  let nt := bit w 44
  let row := (c.sreg (fw w 21 17)).toNat
  let coloff := fw w 43 35
  let width := profWidth (s.prof a)
  let t := if nt then none else (c.tile (fTILE w)).map (fun t => (t, tileIssue t (fw w 34 30) coloff (eCHPOS e) width))
  let wr := if nt then mvxWrites (i / 4) (descOf o) row coloff width else []
  let rd := if nt then directReads s (i / 4) (eOST e) ++ directEnts (i / 4) (recordAt s (i / 4) (eOST e)) (descOf o) coloff width else []
  let lst := ((eSKIM e).map (listRngs s i)).getD []
  let c1 := c.addWork (mvxReads (i / 4) (descOf d) row (eCHPOS e) ++ rd ++ lst) wr nt false
  let c2 := match t with
    | none => c1
    | some (_, t1, _) => c1.putTile t1
  let m : Mvx := ⟨i, c.nextId, t.map (fun x => x.1.gen), fw w 34 30, coloff, (t.map (fun x => x.2.2)).getD 0, eCHPOS e, eSKIM e, eOST e, row, d, o⟩
  let x := s.arr a
  (s.setCtx i c2).setArr a { x with queue := x.queue ++ [m], win := false }

/-- The body of MVX; `old` is the reason of the stall it comes from (R64, R180, R190, R191, R236). An entry that is not resident, or whose array is out
of service, stalls before the array's width or a descriptor is looked at (R67); the reason of the second names the array, so that an entry rewritten
to another such array starts a new stall with its own event. The traps come before a full queue (log entry 127). -/
def mvxBody (i old : Nat) (w : BitVec 56) (s : State) : Res :=
  let c := s.ctx i
  let core := i / 4
  let ei := (c.sreg (fw w 16 12) + BitVec.ofNat 64 (fw w 11 2)).toNat
  if ei > 1023 then .trap 5 else
  let e := s.entry core ei
  if !eVALID e || !bit e (16 + i % 4) then .trap 5 else
  let a := core * 64 + eARRAY e
  let d := descOf (c.dreg (fw w 29 26))
  let o := descOf (c.dreg (fw w 25 22))
  let nt := bit w 44
  let row := (c.sreg (fw w 21 17)).toNat
  let width := profWidth (s.prof a)
  let tile := if nt then none else tileTrap c (fTILE w) (fw w 34 30) (fw w 43 35) (eP e) d.blockIn
  let out := (s.arr a).st == .off || (s.arr a).st == .fault || (s.arr a).st == .retired
  if !eRESIDENT e then stallAt i 0x20 2 w (s.askReload (eSLOT e) (eLAYER e))
  else if out then
    stallAt i 0x20 (3 + 16 * a) w (s.raiseIf (old != 3 + 16 * a) 0x0C08 1 core (core + 256 * (i % 4) + 2 ^ 16 * ei + 2 ^ 32 * a))
  else if mvxFormat d o nt (eP e) (fw w 43 35) row width || tile == some 4 then .trap 4
  else if mvxAddress s d o nt (eCHPOS e) (fw w 43 35) row width then .trap 3
  else if tile == some 6 then .trap 6
  else if (s.arr a).queue.length ≥ 4 then stallAt i 0x20 1 w s else .ok (mvxSend i a e w s)

/-- MVX. -/
def execMvx (k : CtxId) (w : BitVec 56) (s : State) : Out :=
  issue k w (fw w 1 0 == 0) (sNeeds [fw w 21 17, fw w 16 12] ++ dNeeds [fw w 29 26, fw w 25 22]) (mvxBody (ctxIx k) 0 w) s

/-- STALL_RELEASE: a stalled MVX or ACC.OPEN is tried again; it issues, traps, or stays stalled (R64, R101, R180, R191). -/
def execStallRelease (k : CtxId) (s : State) : Out :=
  let i := ctxIx k
  .next (match (s.ctx i).hold with
    | .stall op w =>
      if !s.coreUp (i / 4) then s else
      let s1 := s.onCtx i (fun c => { c with st := .run, hold := .free })
      settle i s1 (if op % 256 = 0x20 then mvxBody i (op / 256) w s1 else openBody i w s1)
    | _ => s)

/-! ## Input -/

/-- An input as an array drives it: integers, segment weights, s_low, INF and NAN met (R25 to R35). -/
structure Input where
  inp : List Int
  segw : List Nat
  slow : Int
  inf : Bool
  nan : Bool

/-- One block of a block-scaled input: exponent (none when it counts as zero), flags, integers (R28, R31). -/
def inBlock (m : Mem) (d : Desc) (core row b : Nat) (xs : List Nat) : Option Int × Bool × Bool × List Int :=
  if fmtFloat d.fmt then
    let k := blkConv (fltOf d.fmt) 1 false (xs.map (decode d.fmt))
    (if k.zero then none else some k.sexp, k.inf, k.nan, k.q)
  else
    let e := m.readN (spAddr core d.sp (d.entAt (d.rowIx row 0 0) b)) 2
    let q := xs.map (fun r => if d.fmt = 2 then ((r : Nat) : Int) else sint (fmtBits d.fmt) r)
    (if nbits e 13 13 = 1 then none else some (entSexp e), nbits e 14 14 == 1, nbits e 15 15 == 1, q)

/-- The largest exponent of a list. -/
def maxExp : List (Option Int) → Option Int
  | [] => none
  | none :: r => maxExp r
  | some a :: r => match maxExp r with
    | none => some a
    | some b => some (max a b)

/-- The smallest exponent of a list. -/
def minExp : List (Option Int) → Option Int
  | [] => none
  | none :: r => minExp r
  | some a :: r => match minExp r with
    | none => some a
    | some b => some (min a b)

/-- Alignment of blocks to their segments (R34, R35). An entry with ZERO set drives 0 for its block, also where the stored q are not 0, while the
vector and move engines take q × 2^SEXP there (log entry 112). -/
def alignInput (blocks : List (Option Int × Bool × Bool × List Int)) (on : Nat → Bool) : Input :=
  let sg := (List.range 4).map (fun g => maxExp (((blocks.drop (4 * g)).take 4).map (fun b => b.1)))
  let tg := match maxExp sg with
    | none => sg
    | some top => sg.map (fun x => x.map (fun v => max v (top - 16)))
  let low := (minExp tg).getD 0
  let qs := (List.range 16).flatMap (fun b =>
    let k := blocks.getD b (none, false, false, [])
    let l := match k.1, tg.getD (b / 4) none with
      | some sb, some t => k.2.2.2.map (fun q => alignQ q sb t)
      | _, _ => []
    (List.range 32).map (fun j => if on (32 * b + j) then l.getD j 0 else 0))
  ⟨qs, tg.map (fun x => match x with | none => 0 | some v => 2 ^ (v - low).toNat), low, blocks.any (fun b => b.2.1), blocks.any (fun b => b.2.2.1)⟩

/-- Reads the input row of an MVX for an array (R29, R56, R236). -/
def readInput (s : State) (a : Nat) (m : Mvx) : Input :=
  let d := descOf m.di
  let core := a / 64
  let mem := s.memOf d.sp
  let ro := spAddr core d.sp (d.rowAt m.row 0 0)
  let base := 512 * m.chpos
  let n := inCount d m.chpos
  let seg := s.fld (Reg.ARR_CFG a) 11 8
  let depth := (s.arr a).depth
  let on := fun r => decide (r < depth) && nbits seg (segOf r) (segOf r) == 1
  if !d.blockIn then
    let l := intsAt mem d.fmt ro base n
    ⟨(List.range 512).map (fun r => if on r then l.getD r 0 else 0), (List.range 4).map (fun g => nbits seg g g), 0, false, false⟩
  else
    let blk := fun b =>
      if on (32 * b) && decide (32 * b < n) then
        inBlock mem d core m.row (base / 32 + b) ((List.range (min 32 (n - 32 * b))).map (fun j => rawAt mem d.fmt ro (base + 32 * b + j)))
      else (none, false, false, [])
    alignInput ((List.range 16).map blk) on

/-- Phases of an input format (Table FMT-4). -/
def inPhases (fmt : Nat) : Nat := if fmt = 0 then 1 else if fmt = 3 then 4 else 2

/-! ## Phases -/

/-- The correction of an array: before any churn gains 1.0 and offsets 0 (log entry 25). -/
def State.cor (s : State) (a : Nat) : Cor := Tab.getD s.cors a ⟨[], [], f32One, 0⟩

/-- gT of an array at the latest sample of its core (R126); 1 before a sample or a churn of the array (log entry 25). -/
def State.gT (s : State) (a : Nat) : W32 :=
  let c := a / 64
  if !s.rbit (Reg.CHN_CFG c) 3 || !s.rbit (Reg.CHN_TEMP c) 16 || (Tab.find? s.cors a).isNone then f32One else
  let al := s.reg (Reg.CHN_TCOEF c)
  let k := if f32Fin al then (f32 al).fr else ⟨0, 1⟩
  let dt : Fr := ⟨sint 16 (s.fld (Reg.CHN_TEMP c) 15 0) - (s.cor a).tl, 16⟩
  let den := (Fr.ofInt 1).add (k.mul dt)
  let h := if den.lt ⟨1, 2⟩ then ⟨1, 2⟩ else if (Fr.ofInt 2).lt den then Fr.ofInt 2 else den
  toF32 (Val.ofFr ((Fr.ofInt 1).div h))

/-- TST_FSAT armed for an array (R306). -/
def fsatFor (s : State) (a : Nat) : Option W32 := match s.pertAt 0x8C with
  | some p => if bits p.val 10 0 = a then some p.val else none
  | none => none

/-- The first phase of a command: its input, correction, SIGMA, direct record and forced saturation are fixed, and a list takes a lane or waits for
one (R83, R86, R127, R282, R306, R496). -/
def firstPhase (a : Nat) (m : Mvx) (s : State) : State × Run :=
  let core := a / 64
  let d := descOf m.di
  let inp := readInput s a m
  let rd := mvxReads core d m.row m.chpos
  let bad := rd.any (fun r => s.bad r.sp r.lo r.len) || !s.spUp core d.sp
  let s1 := (rd.foldl (fun t r => t.readFx r.sp r.lo r.len core 0) s).poisonIf m.ctx bad
  let (s2, dost) := match m.gen with
    | some _ => (s1, none)
    | none => let p := readDirect core m.ost s1; (p.1, some p.2)
  let fs := fsatFor s2 a
  let s3 := if fs.isSome then s2.usePert 0x8C else s2
  let (s4, sk) := match m.skim with
    | none => (s3, SkimSt.none)
    | some off =>
      if !s3.rbit (Reg.SKM_CFG core) 0 then (s3, .done .poisoned) else
      match laneNow (s3.core core) with
      | some lane => (laneTake core lane ⟨m.ctx, m.id, a, .poisoned, 0⟩ off (a % 64) (some (s.prof a)) inp.inp inp.segw (inPhases d.fmt == 4) s3, .lane)
      | none => (laneWait core (m.ctx, m.id) s3, .waiting)
  (s4, ⟨m, 0, inPhases d.fmt, false, false, false, s.rbit (Reg.ARR_CFG a) 3, inp.inp, inp.segw, inp.slow, d.blockIn, inp.inf, inp.nan, dost, s.cor a, s.gT a, s.reg (Reg.ARR_CHK_SIGMA a), [], [], [], fs, sk, s.prof a, (s.arr a).rho.isSome, false⟩)

/-- Whether the context's own earlier writes let a command be read now: its input, its skim list, and in direct completion its record and table (R205,
R496). -/
def firstClear (s : State) (a : Nat) (m : Mvx) : Bool :=
  let c := s.ctx m.ctx
  c.readClear m.id && m.skim.all (fun off => c.clearOf m.id (skimRngs s (a / 64) off false)) && (m.gen.isSome || c.clearOf m.id (directReads s (a / 64) m.ost))

/-- The codes a run's phase drives. -/
def Run.codes (r : Run) : List Int := r.inp.map (rowCode r.phases r.phase)

/-- Starts the next phase of an array: of the command at work, of a due retry, or the first phase of the next command (R50, R63, R84, R283). -/
def phaseStart (a : Nat) (s : State) : State :=
  let x := s.arr a
  if x.st != .ready || (x.cur.any (fun r => r.live)) || (x.retry.any (fun r => r.live)) then s else
  match x.cur, x.retry, x.queue with
  | some r, _, _ => if stageFree x then s.setArr a { x with cur := some { r with live := true }, codes := r.codes } else s
  | none, some r, _ => s.setArr a { x with retry := some { r with live := true }, codes := r.codes }
  | none, none, m :: _ =>
    if stageFree x && firstClear s a m then
      let (s1, r) := firstPhase a m s
      s1.setArr a { s1.arr a with cur := some { r with live := true }, codes := r.codes }
    else s
  | none, none, [] => s

/-- ARRAY_PHASE_START. -/
def execArrayPhaseStart (a : ArrId) (s : State) : Out := .next (s.when (s.coreUp (a.val / 64)) (phaseStart a.val s))

/-- Adds a phase's remainders (R281). -/
def addRm (wt : Int) (segw : List Nat) (codes : List Int) (rho : Option (Tab Nat)) (rm : Tab Int) : Tab Int :=
  match rho with
  | none => rm
  | some t => t.foldl (fun m e =>
      let r := e.1 / 8
      let c := codes.getD r 0
      if c = 0 then m else Tab.setD m (e.1 % 8) 0 (Tab.getD m (e.1 % 8) 0 + wt * (segw.getD (segOf r) 0 : Nat) * c * (e.2 : Nat))) rm

/-- Counts a re-run (R60). -/
def countRerun (a : Nat) (s : State) : State :=
  let s1 := s.incReg (Reg.ARR_AR_CNT a) 1
  let n := (s1.reg (Reg.ARR_AR_CNT a)).toNat
  let th := (s1.reg (Reg.ARR_AR_THR (a / 64))).toNat
  if th ≠ 0 ∧ n ≥ th then s1.raiseOnce (keyAr a) 0x0102 1 (a / 64) (a + 2 ^ 32 * n) else s1

/-- The end of a phase of a run: its run afterwards, with the counts; `rerun` when it is to run again at range 6 (R55 to R61). -/
def phaseEnd (a : Nat) (r : Run) (noise : List (Nat × Int)) (s : State) : State × Run :=
  let x := s.arr a
  let seg := s.fld (Reg.ARR_CFG a) 11 8
  let k := if r.rerun then 6 else s.rangeK a
  let codes := phaseCodes k seg (segSums (Tab.getD s.pcm a []) r.codes seg noise) r.fsat
  let any := codes.any (fun e => e.2.2)
  if any && s.rbit (Reg.ARR_CFG a) 4 && decide (k < 6) && !r.rerun then (countRerun a s, { r with live := false, rerun := true })
  else
    let w := phaseWeight r.phases r.phase
    let cl := codes.foldl (fun (t : Tab Bool) e => if e.2.2 then Tab.insert t (e.1 % 528) true else t) r.clamp
    (countClamps a r.phase codes s, { r with live := false, rerun := false, phase := r.phase + 1, raw := addCodes w r.segw k codes r.raw, clamp := cl, rm := addRm w r.segw r.codes x.rho r.rm })

/-- ARRAY_PHASE_END: conversion of the phase in progress; after its last phase a command leaves its queue entry and its sum is held (R50,
R63, R44), and a request for an inactive array may start its churn (R146). -/
def execArrayPhaseEnd (a : ArrId) (noise : List (Nat × Int)) (s : State) : Out :=
  let x := s.arr a.val
  .next (s.when (s.coreUp (a.val / 64)) (match x.cur, x.retry with
  | some r, _ =>
    if r.live then
      let (s1, r1) := phaseEnd a.val r noise s
      let y := s1.arr a.val
      if r1.phase < r.phases then s1.setArr a.val { y with cur := some r1 }
      else freeGo (a.val / 64) (parkCheck a.val (s1.setArr a.val { y with cur := none, queue := y.queue.drop 1, held := y.held ++ [.sum r1 false], codes := restCodes (y.queue.drop 1) y.codes }))
    else s
  | none, some r =>
    if r.live then
      let (s1, r1) := phaseEnd a.val r noise s
      let y := s1.arr a.val
      if r1.phase < r.phases then s1.setArr a.val { y with retry := some r1 }
      else freeGo (a.val / 64) (parkCheck a.val (s1.setArr a.val { y with retry := none, held := .sum r1 false :: y.held, codes := restCodes y.queue y.codes }))
    else s
  | none, none => s))

/-! ## Registers -/

/-- ARR_CFG_WRITE (R70). -/
def execArrCfgWrite (who : Who) (a : ArrId) (v : W32) (s : State) : Out :=
  .next (s.access who (Reg.ARR_CFG a.val) (fun s =>
    let x := s.arr a.val
    if x.queue.isEmpty && !arrBusy x then s.putMasked (Reg.ARR_CFG a.val) v
    else (s.orReg (Reg.ARR_ERR a.val) 1).raise 0x0104 1 (a.val / 64) (a.val + 2 ^ 32 * v.toNat)))

/-- BIAS_UP: OFF to BIAS. -/
def execBiasUp (who : Who) (a : ArrId) (s : State) : Out :=
  .next (s.access who (Reg.ARR_CMD a.val) (fun s =>
    let x := s.arr a.val
    if x.st = .off then s.setArr a.val { x with st := .bias, settled := false } else s))

/-- BIAS_SETTLED: READY, or CHURN when the class 1 full churn is due, which waits in BIAS for its probe reference (Tables ARR-7 and CHN-6, R141). -/
def execBiasSettled (a : ArrId) (s : State) : Out :=
  let x := s.arr a.val
  .next (s.when (s.coreUp (a.val / 64) && x.st == .bias)
    (firstDue a.val (s.setArr a.val { x with st := if !s.owes a.val then .ready else if s.refOk a.val then .churn else .bias, settled := s.owes a.val })))

/-- BIASFAIL: the array stays in BIAS (Table ARR-8). -/
def execBiasfail (a : ArrId) (s : State) : Out :=
  .next (s.when (s.coreUp (a.val / 64) && (s.arr a.val).st == .bias)
    ((s.orReg (Reg.ARR_ERR a.val) 2).raise 0x0103 2 (a.val / 64) a.val))

/-- PARK: a READY array enters OFF once its queue is empty. -/
def execPark (who : Who) (a : ArrId) (s : State) : Out :=
  .next (s.access who (Reg.ARR_CMD a.val) (fun s =>
    let x := s.arr a.val
    if x.st = .ready then parkCheck a.val (s.setArr a.val { x with park := true }) else s))

/-- ARR_CLR_CNT (Table ARR-7). -/
def execArrClrCnt (who : Who) (a : ArrId) (s : State) : Out :=
  .next (s.access who (Reg.ARR_CMD a.val) (fun s =>
    (((((s.setReg (Reg.ARR_CLAMP_CNT a.val) 0).setReg (Reg.ARR_AR_CNT a.val) 0).setReg (Reg.ARR_CHKSKIP_CNT a.val) 0).clrReg
      (Reg.ARR_CLAMP_LAST a.val) 0x8000).rearm (keyClamp a.val)).rearm (keyAr a.val)))

/-- Clears the check counters of an array and re-arms event 0x0D01 (R307). -/
def clearChecks (a : Nat) (s : State) : State :=
  let s1 := ((s.setReg (Reg.ARR_CHKFAIL_CNT a) 0).setReg (Reg.ARR_CHKPOIS_CNT a) 0).setReg (Reg.ARR_RES_CNT a) 0
  s1.setArr a { s1.arr a with d01at := none }

/-- Clears the check counters of every array of core c (R307). -/
def clearCoreChecks (c : Nat) (s : State) : State := (List.range 64).foldl (fun t l => clearChecks (c * 64 + l) t) s

/-- ARR_CHK_CLR: a write of ARR_CHK_CFG with CLR (R307). -/
def execArrChkClr (who : Who) (c : CoreId) (v : W32) (s : State) : Out :=
  .next (s.access who (Reg.ARR_CHK_CFG c.val) (fun s =>
    let s1 := s.putMasked (Reg.ARR_CHK_CFG c.val) v
    if bit v 10 then clearCoreChecks c.val s1 else s1))

end Sys2Proof.Machine
end

