-- ==== Sys2Proof/Machine/Churn.lean ====
section
/-!
DEFINITION. The churn engine: schedule, probes run, fits, requests (06_drift_and_churn.md, R126 to R154).
-/
namespace Sys2Proof.Machine

/-! ## Requests -/

/-- Reports the code of a request to its source (R148, R249, R453). -/
def reportAsk (core : Nat) (q : Ask) (code : Nat) (s : State) : State := match q.src with
  | .reg => s.setReg (Reg.CHN_REQ_STAT core) (BitVec.ofNat 32 (q.arr % 64 + 2 ^ 8 * b2n q.full + 2 ^ 12 * code + 2 ^ 31))
  | .ctx k rst ctr entry => s.askStatus core k rst ctr entry (b2n q.full) code
  | .host n tag => match s.findCmd n tag 4 with
    | none => s
    | some c => s.finish n c (if code = 0 ∨ code = 4 then 0 else 2) code

/-- IDLE_WINDOW_OPEN. -/
def execIdleWindowOpen (a : ArrId) (s : State) : Out := .next (openWindow a.val s)

/-- CLASS1_CHURN_START: a programmed array in CHURN, or one that waits in BIAS, once its reference exists, in its turn (R141, R142). -/
def execClass1ChurnStart (a : ArrId) (s : State) : Out :=
  .next (s.when (s.coreUp (a.val / 64) && firstMay s a.val && (churnWant s a.val).any (fun w => w.turn s)) (beginChurn a.val true 1 s))

/-! ## Samples and due churns -/

/-- Whether the temperature trigger holds for an array (Table CHN-6, class 3). -/
def tempDue (s : State) (a : Nat) : Bool :=
  let c := a / 64
  let x := s.arr a
  s.rbit (Reg.CHN_CFG c) 2 && s.programmed a && x.chn.lastFull.isSome && s.rbit (Reg.CHN_TEMP c) 16 && !s.rbit (Reg.CHN_TEMP c) 17
    && decide ((s.temp c - x.chn.tF).natAbs ≥ max 1 (s.fld (Reg.CHN_TTRIG c) 11 0))

/-- TEMP_SAMPLE: a sample, or the failure of the sensor with event 0x0407 (R126, R140, Table CHN-16). -/
def execTempSample (c : CoreId) (t : Option (BitVec 16)) (s : State) : Out :=
  .next (s.when (s.coreUp c.val) (match t with
    | some v =>
      let s1 := s.setReg (Reg.CHN_TEMP c.val) (BitVec.ofNat 32 (v.toNat + 2 ^ 16))
      (s1.arrs.map (fun e => e.1)).foldl (fun u a => if a / 64 = c.val ∧ tempDue u a then makeDue a 3 u else u) s1
    | none =>
      if s.rbit (Reg.CHN_TEMP c.val) 17 then s
      else (s.orReg (Reg.CHN_TEMP c.val) (2 ^ 17)).raise 0x0407 2 c.val (c.val + 2 ^ 16 * s.fld (Reg.CHN_TEMP c.val) 15 0)))

/-- The ages at which a full churn falls due, in µs (Table CHN-6, class 2). -/
def dueAges : List Nat := [1000000, 10000000, 100000000]

/-- Whether an age of class 2 has been reached that no full churn has followed yet: t, last full churn and now in µs since the marker. -/
def ageDue (full : Option Nat) (age : Nat) : Bool :=
  dueAges.any (fun n => decide (n ≤ age) && (match full with
    | none => true
    | some f => decide (f < n)))

/-- Whether class 4 holds: 20 ms since the last churn at an age below 1 s, and later 1.02 times the age at the last churn (Table CHN-6). -/
def driftDue (last age : Nat) : Bool := if age < 1000000 then decide (last + 20000 ≤ age) else decide (51 * last ≤ 50 * age)

/-- Whether a trigger of Table CHN-6 holds for an array now, its enable bit set. An array of unknown age has none of the age triggers: it is scheduled
as one older than 250 s, where the periods come first (R140, R144, R152). For the ages of what an array holds now, a churn before its marker was set
counts as none. -/
def mayDue (s : State) (a cls : Nat) : Bool :=
  let c := a / 64
  let x := s.arr a
  let after := fun (t : Option W64) (n : Nat) => t.any (fun v => decide (n ≤ s.since v))
  let sinceBorn := fun (b : W64) (t : Option W64) => (t.filter (fun v => decide (s.since v ≤ s.since b))).map (fun v => (v - b).toNat)
  match cls with
  | 1 => s.owes a
  | 2 => s.rbit (Reg.CHN_CFG c) 1 && x.chn.born.any (fun b => ageDue (sinceBorn b x.chn.lastFull) (s.since b))
  | 3 => tempDue s a
  | 4 => s.rbit (Reg.CHN_CFG c) 0 && x.chn.born.any (fun b => driftDue ((sinceBorn b x.chn.last).getD 0) (s.since b))
  | 5 => s.rbit (Reg.CHN_CFG c) 1 && after x.chn.lastFull (1000 * max 1000 (s.fld (Reg.CHN_FULL_PER c) 23 0))
  | 6 => s.rbit (Reg.CHN_CFG c) 0 && after x.chn.last (1000 * max 100 (s.fld (Reg.CHN_LIGHT_PER c) 19 0))
  | _ => false

/-- CHURN_DUE: a trigger of Table CHN-6 makes a churn of a programmed array due. -/
def execChurnDue (a : ArrId) (cls : Fin 7) (s : State) : Out :=
  .next (s.when (s.coreUp (a.val / 64) && s.programmed a.val && mayDue s a.val cls.val) (makeDue a.val cls.val s))

/-- Whether a churn has been due for more than 1 s, or 10 s when it is full (R144). -/
def Due.over (s : State) (d : Due) : Bool := decide ((if lightClass d.cls then 1000000 else 10000000) < s.since d.at')

/-- CHURN_LATE: a churn due too long raises event 0x0402 once (R144). -/
def execChurnLate (a : ArrId) (cls : Fin 7) (s : State) : Out :=
  let x := s.arr a.val
  .next (s.when (s.coreUp (a.val / 64)) (match x.chn.due.find? (fun d => d.cls == cls.val && !d.late && d.over s) with
    | none => s
    | some d =>
      let s1 := s.setArr a.val { x with chn := { x.chn with due := x.chn.due.map (fun e => if e.cls = cls.val then { e with late := true } else e) } }
      (s1.incReg (Reg.CHN_LATE_CNT (a.val / 64)) 1).raise 0x0402 1 (a.val / 64)
        (a.val + 2 ^ 16 * b2n (!lightClass cls.val) + 2 ^ 32 * (d.at'.toNat / 1000 % 2 ^ 32))))

/-! ## Light churn -/

/-- Releases an array whose phases have ended; one that owes its class 1 churn stays out of READY (R133, R141). The rows hold the codes of the last
phase while a command waits, and else 0 (R44). -/
def releaseArr (a : Nat) (last : List Int) (s : State) : State :=
  let x := s.arr a
  parkCheck a (s.setArr a { x with st := if s.owes a then .churn else .ready, codes := restCodes x.queue last })

/-- The codes of the second phase of a light pair. -/
def lightLast (s : State) (a : Nat) : List Int := lightCodes (s.rangeK a) (s.segen a) (-(lightProbe (s.rangeK a)).2)

/-- LIGHT_CHURN_PROBES_END: the two phases end and the array is released (R130, R133). -/
def execLightChurnProbesEnd (a : ArrId) (noise : List (Nat × Int)) (s : State) : Out :=
  let x := s.arr a.val
  .next (s.when (s.coreUp (a.val / 64)) (match x.chn.cur with
    | some u =>
      if u.full || !u.live then s else
      let (r, s1) := lightPair s a.val 0 noise
      freeGo (a.val / 64) (releaseArr a.val (lightLast s a.val) (s1.setArr a.val { x with chn := { x.chn with cur := some { u with live := false, post := true, resp := r } } }))
    | none => s))

/-- The ratios d of a light churn with recorded responses (R131); `none` when one of those is 0 or not recorded. -/
def ratios (rF r : Tab Resp) : Option (Tab Fr) :=
  r.foldr (fun e acc => match acc, Tab.find? rF e.1 with
    | some l, some f => if f.num = 0 then none else some ((e.1, (Fr.mk e.2.num e.2.den).div ⟨f.num, f.den⟩) :: l)
    | _, _ => none) (some [])

/-- The mean of a list of rationals. -/
def meanFr (l : List Fr) : Fr := (l.foldl Fr.add ⟨0, 1⟩).div (Fr.ofInt (l.length : Int))

/-- The ratio furthest from the mean, the first of equals. -/
def furthest (m : Fr) (ds : Tab Fr) : Option (Nat × Fr) :=
  ds.foldl (fun b e => match b with
    | none => some e
    | some d => if ((d.2.sub m).abs).lt ((e.2.sub m).abs) then some e else some d) none

/-- The ga and spread of a light churn: ga, free where the mean has no reciprocal, and the starter with its d when the spread exceeds SEGTOL (R131,
R132). -/
def lightResult (s : State) (a : Nat) (u : Churn) : W32 × Option (Nat × Fr) :=
  let free := Config.gaOpen a (s.reg (Reg.CHN_LIGHT_CNT (a / 64)))
  match ratios (s.arr a).chn.rF u.resp with
  | none => (free, none)
  | some ds =>
    let m := meanFr (ds.map (fun e => e.2))
    let tol := m.mul ⟨s.fld (Reg.CHN_TOL (a / 64)) 23 16, 1000⟩
    (if m.num = 0 then free else toF32 (Val.ofFr ((Fr.ofInt 1).div m)), (furthest m ds).filter (fun e => tol.lt ((e.2.sub m).abs)))

/-- LIGHT_CHURN_UPDATE: ga and T_L take effect; a segment spread raises 0x0404 and makes a class 3 full churn due (R128, R131, R132). -/
def execLightChurnUpdate (a : ArrId) (s : State) : Out :=
  let x := s.arr a.val
  let c := a.val / 64
  .next (s.when (s.coreUp c) (match x.chn.cur with
    | some u =>
      if u.full || !u.post then s else
      let (ga, far) := lightResult s a.val u
      let s1 := s.setArr a.val { x with chn := { x.chn with cur := none, last := some s.cnt.aon } }
      let s2 := { s1 with cors := Tab.insert s1.cors a.val { s1.cor a.val with ga := ga, tl := s.temp c } }
      let s3 := s2.incWrap (Reg.CHN_LIGHT_CNT c) 1
      let s4 := match far with
        | none => s3
        | some (i, d) => makeDue a.val 3 (s3.raise 0x0404 1 c (a.val + 2 ^ 16 * (i % 8) + 2 ^ 24 * (i / 8) + 2 ^ 32 * (toF32 (Val.ofFr d)).toNat))
      freeGo c (askEnd a.val (if far.isSome then 4 else 0) s4)
    | none => s))

/-! ## Full churn -/

/-- Discards the probes run so far: the full churn starts again from unit 1 (R139). -/
def restartChurn (a : Nat) (u : Churn) (done : Nat) (s : State) : State :=
  let x := s.arr a
  let s1 := (s.incReg (Reg.CHN_RESTART_CNT (a / 64)) 1).raise 0x0408 1 (a / 64) (a + 2 ^ 16 * done)
  s1.setArr a { x with chn := { x.chn with cur := some { u with unit := 0, raws := [], startAt := s.cnt.aon, startT := s.temp (a / 64) } } }

/-- Whether a full churn has left its 10 ms or its 0.5 K (R139). -/
def outOfWindow (s : State) (a : Nat) (u : Churn) : Bool :=
  decide (10000 < s.since u.startAt) || decide (8 < (s.temp (a / 64) - u.startT).natAbs)

/-- After a unit: an array with waiting MVXs is released unless it owes class 1; otherwise the next unit runs at once (R139). -/
def nextUnit (a : Nat) (last : List Int) (s : State) : State :=
  let x := s.arr a
  if x.queue.isEmpty || s.owes a then s
  else releaseArr a last (s.setArr a { x with chn := { x.chn with cur := x.chn.cur.map (fun u => { u with live := false }) } })

/-- The inputs of probe i of a unit, at the shift that the reference gives (R134, R135). -/
def unitInp (s : State) (a unit i : Nat) : List Int :=
  probeInp a (4 * unit + i) (s.segen a) (((Tab.find? s.refs a).map (fun r => r.shift.getD (4 * unit + i) 7)).getD 7)

/-- FULL_CHURN_UNIT_END: four probes, and in unit 4 the closing pair (R138, R139). -/
def execFullChurnUnitEnd (a : ArrId) (noise : List (Nat × Int)) (s : State) : Out :=
  let x := s.arr a.val
  .next (s.when (s.coreUp (a.val / 64)) (match x.chn.cur with
    | some u =>
      if !u.full || !u.live || u.post then s else
      let codes := (List.range 4).map (fun i => vecCodes (s.levels a.val) (s.rangeK a.val) (s.segen a.val) (unitInp s a.val u.unit i) (2 * i) noise)
      let s1 := codes.foldl (fun t c => countClamps a.val 1 c.2 (countClamps a.val 0 c.1 t)) s
      let (r, s2) := if u.unit = 3 then lightPair s1 a.val 8 noise else (u.resp, s1)
      let u1 := { u with unit := u.unit + 1, raws := u.raws ++ codes.map (vecSums (s.rangeK a.val)), resp := r }
      let last := if u.unit = 3 then lightLast s a.val else (unitInp s a.val u.unit 3).map (rowCode 2 1)
      if outOfWindow s a.val u then nextUnit a.val last (restartChurn a.val u1 u1.unit s2)
      else if u.unit = 3 then
        freeGo (a.val / 64) (releaseArr a.val last (s2.setArr a.val { x with chn := { x.chn with cur := some { u1 with live := false, post := true } } }))
      else nextUnit a.val last (s2.setArr a.val { x with chn := { x.chn with cur := some u1 } })
    | none => s))

/-- FULL_CHURN_RESTART: a full churn that has left its window starts again (R139). -/
def execFullChurnRestart (a : ArrId) (s : State) : Out :=
  .next (s.when (s.coreUp (a.val / 64)) (match (s.arr a.val).chn.cur with
    | some u => if u.full && !u.post && outOfWindow s a.val u then restartChurn a.val u u.unit s else s
    | none => s))

/-- A column's fit: A, B, the sum of squared residuals, and whether the expected values are all equal (R136). -/
def fitCol (es rs : List Int) : Fr × Fr × Fr × Bool :=
  let sum := fun (l : List Int) => l.foldl (fun a b => a + b) 0
  let n : Int := es.length
  let se := sum es
  let sr := sum rs
  let d := n * sum (es.map (fun e => e * e)) - se * se
  let av := if d = 0 then Fr.ofInt 1 else (Fr.ofInt (n * sum ((es.zip rs).map (fun p => p.1 * p.2)) - se * sr)).div (Fr.ofInt d)
  let bv := ((Fr.ofInt sr).sub (av.mul (Fr.ofInt se))).div (Fr.ofInt n)
  let res := (es.zip rs).map (fun p => ((Fr.ofInt p.2).sub (av.mul (Fr.ofInt p.1))).sub bv)
  (av, bv, (res.map (fun x => x.mul x)).foldl Fr.add ⟨0, 1⟩, d == 0)

/-- The square of the divisor that turns raw units into converter LSBs, times the 16 probes (R136). -/
def lsbSq (k seg : Nat) : Nat := 16 * 4 ^ k * 257 * ((List.range 4).filter (fun g => nbits seg g g == 1)).length

/-- Whether a fit fails (R136). -/
def fitFails (tol k seg : Nat) (f : Fr × Fr × Fr × Bool) : Bool :=
  (!f.2.2.2 && (f.1.lt ⟨1, 2⟩ || (Fr.ofInt 2).lt f.1)) || (Fr.ofInt ((tol * tol * lsbSq k seg : Nat) : Int)).lt (f.2.2.1.mul (Fr.ofInt 256))

/-- The residual RMS in 1/16 LSB, rounded down (Table CHN-19). -/
def fitRms (k seg : Nat) (f : Fr × Fr × Fr × Bool) : Nat :=
  let d := f.2.2.1.den * lsbSq k seg
  if d = 0 then 0 else min 0xFFFFFFFF (isqrt (256 * f.2.2.1.num.natAbs / d))

/-- The fits of every column of an array against its reference (R136). -/
def fits (r : ProbeRef) (u : Churn) : List (Fr × Fr × Fr × Bool) :=
  (List.range 528).map (fun j => fitCol ((List.range 16).map (fun p => Tab.getD r.exp (p * 528 + j) 0)) (u.raws.map (fun t => Tab.getD t j 0)))

/-- The mean weight-column gain of an array (R154). -/
def meanGain (c : Cor) : W32 :=
  toF32 (Val.ofFr (meanFr ((List.range 512).map (fun j => (f32 (Tab.getD c.gf j f32One)).fr))))

/-- STARTS of the start record, as the start read it (R407). -/
def startCount (s : State) : Nat := match (s.abKnown abStart).payload with
  | none => 0
  | some p => leNat ((p.drop 4).take 4)

/-- Whether a baseline entry of a committed array is still to come in this start: of an array that owes its class 1 churn, or of one newly pressed whose
churn at age 100 s is enabled and has not run (R154). -/
def basePending (s : State) (b : Nat) : Bool :=
  let x := (s.arr b).chn
  s.committed b && (match x.born with
    | none => s.owes b
    | some t => s.rbit (Reg.CHN_CFG (b / 64)) 1 && !x.lastFull.any (fun f => decide (s.since f ≤ s.since t) && decide (100000000 ≤ (f - t).toNat)))

/-- Writes the entries gathered for a page of eight in one page write (R406). -/
def writeBases (page : Nat) (s : State) : State :=
  let o := 0x4000 + 64 * page
  let mine := (List.range 8).map (fun i => 8 * page + i)
  let starts := startCount s
  let m := mine.foldl (fun (m : Mem) b => match Tab.find? s.bases b with
    | none => m
    | some v => m.writeRaw (0x4000 + 8 * b) (leBytes 8 (v.toNat + 2 ^ 32 * (starts % 65536) + 2 ^ 63))) s.nvsView
  { s with bases := Tab.keep s.bases (fun b => !mine.contains b) }.nvsPut [.page ⟨o, m.read o 64, .base⟩]

/-- Writes every page with gathered entries for which no other entry is to come (R406; log entry 122). -/
def flushBases (s : State) : State :=
  ((s.bases.map (fun e => e.1 / 8)).eraseDups.filter (fun p => !(List.range 8).any (fun i => basePending s (8 * p + i)))).foldl (fun t p => writeBases p t) s

/-- Gathers an array's baseline (R154, R406). -/
def writeBaseline (a : Nat) (g : W32) (s : State) : State := flushBases { s with bases := Tab.insert s.bases a g }

/-- The baseline after a full churn: compared and written after the class 1 churn at a start, written after the class 2 churn at age 100 s
(R153, R154); its entry is read from the store (R400). -/
def baseline (a : Nat) (u : Churn) (owed : Bool) (s0 : State) : State :=
  let g := meanGain (s0.cor a)
  let born := (s0.arr a).chn.born
  let s := if owed && born.isNone then s0.nvsRead 3 (0x4000 + 8 * a) 8 else s0
  if owed && born.isNone then
    let e := s.mem.nvs.readN (0x4000 + 8 * a) 8
    let old := BitVec.ofNat 32 e
    let ratio := ((f32 g).fr).div ((f32 old).fr)
    let far := nbits e 63 63 == 1 && f32Fin old && !((f32 old).fr.num == 0) && (Fr.mk 1 10).lt ((ratio.sub (Fr.ofInt 1)).abs)
    writeBaseline a g (s.raiseIf far 0x0406 0 (a / 64) (a + 2 ^ 32 * (toF32 (Val.ofFr ratio)).toNat))
  else match born with
    | some t => if u.cls = 2 ∧ 100000000 ≤ s.since t then writeBaseline a g s else flushBases s
    | none => flushBases s

/-- The correction after a fit: columns that succeed take 1/A and B, the others keep theirs (R128, R136). -/
def fitCor (c : Cor) (l : List (Fr × Fr × Fr × Bool)) (bad : Nat → Bool) (t : Int) : Cor :=
  let ix := (List.range l.length).zip l
  ⟨ix.foldl (fun g e => if bad e.1 then g else Tab.setD g e.1 f32One (toF32 (Val.ofFr ((Fr.ofInt 1).div e.2.1)))) c.gf,
   ix.foldl (fun o e => if bad e.1 then o else Tab.setD o e.1 0 (toF32 (Val.ofFr e.2.2.1))) c.off, f32One, t⟩

/-- The completion of a full churn with the reference it ran against (R128, R136, R137, R154): an array that owed its class 1 churn enters READY, its
rows as the closing pair left them, since no phase ends here (R44, R141). -/
def completeFull (a : Nat) (u : Churn) (r : ProbeRef) (sigma : W32) (s : State) : State :=
  let c := a / 64
  let k := r.k
  let seg := r.seg
  let l := fits r u
  let tol := s.fld (Reg.CHN_TOL c) 7 0
  let failed := (List.range 528).filter (fun j => (l.getD j (⟨1, 1⟩, ⟨0, 1⟩, ⟨0, 1⟩, true)) |> fitFails tol k seg)
  let owed := s.owes a
  let t := s.temp c
  let x := s.arr a
  let ch : ArrChn := { x.chn with lastFull := some s.cnt.aon, last := some s.cnt.aon, tF := t, due := x.chn.due.filter (fun d => !lightClass d.cls && d.cls != 1), cur := none, rF := u.resp, failcol := failed.length, fit := true }
  let s1 := { s.setArr a { x with chn := ch } with cors := Tab.insert s.cors a (fitCor (s.cor a) l (fun j => failed.contains j) t) }
  let s2 := ((s1.incWrap (Reg.CHN_FULL_CNT c) 1).incWrap (Reg.CHN_LIGHT_CNT c) 1).setReg (Reg.ARR_CHK_SIGMA a) sigma
  let s3 := failed.foldl (fun v j =>
    let f := l.getD j (⟨1, 1⟩, ⟨0, 1⟩, ⟨0, 1⟩, true)
    v.raise 0x0401 1 c (a + 2 ^ 16 * j + 2 ^ 32 * (toF32 (Val.ofFr f.1)).toNat + 2 ^ 64 * fitRms k seg f)) s2
  let weights := (failed.filter (fun j => decide (j < 512))).length
  let (s4, full) := retireAll a failed s3
  let s5 := askEnd a (if failed.isEmpty then 0 else 4) (baseline a u owed s4)
  if 8 < weights then enterFault a 1 (s5.raise 0x0405 2 c (a + 2 ^ 16 * weights))
  else if full then enterFault a 1 s5
  else if owed then pressedDone a (freeGo c (releaseArr a (s5.arr a).codes s5)) else freeGo c s5

/-- FULL_CHURN_FIT: the fits take effect, or the churn is abandoned when its reference cannot be read; SIGMA is what firmware sets from the
probes' D values (R136, R137, R282). -/
def execFullChurnFit (a : ArrId) (readable : Bool) (sigma : W32) (s : State) : Out :=
  .next (s.when (s.coreUp (a.val / 64)) (match (s.arr a.val).chn.cur with
    | some u =>
      if !u.full || !u.post then s else
      match (Tab.find? s.refs a.val).filter (fun _ => readable && s.refOk a.val) with
      | none => freeGo (a.val / 64) (abandon a.val s)
      | some r => completeFull a.val u r sigma s
    | none => s))

/-! ## Requests -/

/-- Whether an array refuses churns and tests: not programmed, or in OFF, BIAS, PRESS, FAULT or RETIRED (R147, R303). -/
def State.refuses (s : State) (a : Nat) : Bool :=
  !s.programmed a || (match (s.arr a).st with | .ready | .churn | .test => false | _ => true)

/-- Accepts, joins or refuses a churn request (R145, R147). -/
def askChurn (a : Nat) (full : Bool) (src : AskSrc) (us : Nat) (s : State) : State :=
  let c := a / 64
  let q : Ask := ⟨a, full, src, s.cnt.aon + BitVec.ofNat 64 us, us, false, none⟩
  if s.refuses a then reportAsk c q 2 s
  else if (s.core c).churns.length ≥ 16 then reportAsk c q 3 s
  else
    let join := (s.arr a).chn.cur.any (fun u => u.full || !full)
    freeGo c (s.onAsks c (fun l => l ++ [{ q with started := join }]))

/-- CHN_REQ: a write of the register. -/
def execChnReq (who : Who) (c : CoreId) (v : W32) (s : State) : Out :=
  .next (s.access who (Reg.CHN_REQ c.val) (fun s =>
    askChurn (c.val * 64 + bits v 5 0) (bit v 8) .reg (s.fld (Reg.CHN_DEADLINE c.val) 23 0) s))

/-- The entry that CHURN.REQ and TEST.REQ name: its index and the array, or a trap cause (R248). -/
def reqEntry (i : Nat) (w : BitVec 56) (s : State) : Except Nat (Nat × BitVec 128) :=
  let c := s.ctx i
  let ei := (c.sreg (fw w 40 36) + BitVec.ofNat 64 (fw w 50 41)).toNat
  let e := s.entry (i / 4) ei
  if ei > 1023 ∨ !eVALID e ∨ !bit e (16 + i % 4) then .error 5
  else if !ctrOkReq (c.sreg (fw w 24 20)).toNat then .error 8
  else if (c.sreg (fw w 29 25)).toNat % 4 ≠ 0 ∨ (c.sreg (fw w 29 25)).toNat + 4 > 2 ^ 27 then .error 3
  else .ok (ei, e)
where
  /-- Whether a program may name a counter (R194). -/
  ctrOkReq (n : Nat) : Bool := decide (1024 ≤ n) && decide (n < 32768)

/-- Scalars that CHURN.REQ and TEST.REQ read. -/
def reqNeeds (w : BitVec 56) : List LoadDst := sNeeds [fw w 40 36, fw w 34 30, fw w 29 25, fw w 24 20]

/-- The deadline field of a request. -/
def reqUs (c : Ctx) (w : BitVec 56) : Nat := (c.sreg (fw w 34 30)).toNat % 2 ^ 24

/-- CHURN_REQ: the instruction CHURN.REQ (R248). -/
def execChurnReq (k : CtxId) (w : BitVec 56) (s : State) : Out :=
  issue k w (fw w 19 0 == 0) (reqNeeds w) (fun s =>
    let i := ctxIx k
    let c := s.ctx i
    match reqEntry i w s with
    | .error n => .trap n
    | .ok (ei, e) =>
      let us := if reqUs c w = 0 then s.fld (Reg.CHN_DEADLINE (i / 4)) 23 0 else reqUs c w
      let src : AskSrc := .ctx (i % 4) (c.sreg (fw w 29 25)).toNat (c.sreg (fw w 24 20)).toNat ei
      let a := i / 4 * 64 + eARRAY e
      if eRESIDENT e then .ok (askChurn a (fw w 35 35 == 1) src us s)
      else .ok (reportAsk (i / 4) ⟨a, fw w 35 35 == 1, src, 0, us, false, none⟩ 2 s)) s

/-- The requester byte of event 0x0403: the context, or 0xFF. -/
def AskSrc.code : AskSrc → Nat
  | .ctx k _ _ _ => k
  | _ => 0xFF

/-- Whether a request's deadline has passed. -/
def Ask.passed (s : State) (q : Ask) : Bool := decide (q.us ≤ s.since (q.dl - BitVec.ofNat 64 q.us))

/-- CHURN_REQUEST_DEADLINE: a request that has not started is refused BUSY (R146). -/
def execChurnRequestDeadline (c : CoreId) (i : Nat) (s : State) : Out :=
  .next (s.when (s.coreUp c.val) (match takeAt (s.core c.val).churns i with
    | some (q, rest) =>
      if q.started || q.code.isSome || !q.passed s then s else
      let s1 := (s.onAsks c.val (fun _ => rest)).incReg (Reg.CHN_REFUSE_CNT c.val) 1
      reportAsk c.val q 1 (s1.raise 0x0403 1 c.val (q.arr + 2 ^ 16 * q.src.code + 2 ^ 32 * q.us))
    | none => s))

/-- CHURN_REQUEST_COMPLETE: a request whose churn has ended reports its code (R148). -/
def execChurnRequestComplete (c : CoreId) (i : Nat) (s : State) : Out :=
  .next (s.when (s.coreUp c.val) (match takeAt (s.core c.val).churns i with
    | some (q, rest) => match q.code with
      | some n => reportAsk c.val q n (s.onAsks c.val (fun _ => rest))
      | none => s
    | none => s))

/-- CHN_CLR_CNT (Table CHN-18). -/
def execChnClrCnt (who : Who) (c : CoreId) (s : State) : Out :=
  .next (s.access who (Reg.CHN_CMD c.val) (fun s =>
    ((s.setReg (Reg.CHN_REFUSE_CNT c.val) 0).setReg (Reg.CHN_RESTART_CNT c.val) 0).setReg (Reg.CHN_LATE_CNT c.val) 0))

end Sys2Proof.Machine
end

