-- ==== Sys2Proof/Machine/Ctl.lean ====
section
/-!
DEFINITION. Context commands: START, PREEMPT, RESUME, STOP and the writes of SEQ_CTX_PC and SEQ_CTX_SAVE (R187, R211 to R216).
-/
namespace Sys2Proof.Machine

/-- The code of a context state (Table EXE-1). -/
def CtxState.code : CtxState → Nat
  | .idle => 0 | .run => 1 | .stall => 2 | .wait => 3 | .halt => 4 | .trap => 5 | .saving => 6 | .restoring => 7

/-- A SEQ_ERR bit with its context (Table EXE-8). -/
def State.seqErr (s : State) (i b : Nat) : State :=
  (s.orReg (Reg.SEQ_ERR (i / 4)) (2 ^ b)).setFld (Reg.SEQ_ERR (i / 4)) 17 16 (i % 4)

/-- A discarded command or register write (R215, R216). -/
def State.ctxDiscard (s : State) (i v : Nat) : State :=
  (s.seqErr i 0).raise 0x0C04 1 (i / 4) (i / 4 + 256 * (i % 4) + 2 ^ 16 * (s.ctx i).st.code + 2 ^ 32 * (v % 2 ^ 32))

/-- Whether a context may be given a program or an address: IDLE, HALT or TRAP (R216). -/
def Ctx.settable (c : Ctx) : Bool := c.st == .idle || c.st == .halt || c.st == .trap

/-- Whether a context runs a program: RUN, STALL or WAIT. -/
def Ctx.active (c : Ctx) : Bool := c.st == .run || c.st == .stall || c.st == .wait

/-- START (R187): registers, current result, poison and setting cleared; loads still on their way lose their destinations, and drains still on their way
keep their tiles. A STOP at work ends (log entry 32). -/
def ctxStart (i : Nat) (s : State) : State :=
  let c := s.ctx i
  if !c.settable || s.mirStandby then s.ctxDiscard i 1
  else
    let s1 := if c.st = .idle then s else s.startFree i
    s1.onCtx i (fun c => { Ctx.idle with st := .run, pc := c.pc, loads := c.loads.map (fun l => { l with dst := none }), works := c.works, sigs := c.sigs, nextId := c.nextId, tiles := c.tiles })

/-- START. -/
def execStart (who : Who) (k : CtxId) (s : State) : Out :=
  .next (s.access who (Reg.SEQ_CTX_CMD (ctxIx k)) (ctxStart (ctxIx k)))

/-- What a context holds for once it is to issue no more: an ACC.SAVE or a DIG that has issued completes first, and what stalls, waits or holds is
withdrawn (R211, Table EXE-7). -/
def Ctx.ended (c : Ctx) (h : Hold) : Hold := match c.hold with
  | .save rd off => .save rd off
  | .dig id => .dig id
  | _ => h

/-- PREEMPT (R211); a STOP at work ends (log entry 32). -/
def ctxPreempt (i : Nat) (s : State) : State :=
  let c := s.ctx i
  if !c.active then s.ctxDiscard i 2
  else s.setCtx i { c with st := .saving, hold := c.ended .preempt, since := s.cnt.gate, stop := false }

/-- PREEMPT. -/
def execPreempt (who : Who) (k : CtxId) (s : State) : Out :=
  .next (s.access who (Reg.SEQ_CTX_CMD (ctxIx k)) (ctxPreempt (ctxIx k)))

/-- Tank offset of a context's save area (Table EXE-7). -/
def State.saveAt (s : State) (i : Nat) : Nat := 64 * s.fld (Reg.SEQ_CTX_SAVE i) 26 6

/-- PREEMPT_COMPLETE: the save area is written once every issued work has completed (R211, R212). -/
def execPreemptComplete (k : CtxId) (s : State) : Out :=
  let i := ctxIx k
  let c := s.ctx i
  .next (if c.hold == .preempt && s.quiet i then
    let n := c.saved.length
    let s1 := (saveContext i (s.saveAt i) s).onCtx i (fun c => { c with st := .idle, hold := .free })
    s1.raise 0x0C06 0 (i / 4) (i / 4 + 256 * (i % 4) + 2 ^ 32 * ((10 * (s.cnt.gate - c.since).toNat) % 2 ^ 32) + 2 ^ 64 * n)
  else s)

/-- A refused resume (R213). -/
def resumeRefuse (i a : Nat) (s : State) : State :=
  (s.seqErr i 1).raise 0x0C05 2 (i / 4) (i / 4 + 256 * (i % 4) + 2 ^ 32 * a)

/-- Whether a resumed setting is taken: its reserved fields are 0 and, under activation code 0x8, the table is one that OST.CFG would take. A reserved code
is no cause of a refusal (R118, R213; log entry 142). -/
def resumeOstOk (s : State) (core : Nat) (o : OstSt) : Bool :=
  !ostFields o && (o.act != 8 || (o.pwlptr % 16 == 0 && decide (o.pwlptr + 768 ≤ 2 ^ 21) && pwlOk (pwlRead s core o)))

/-- Reads the save area and rebuilds the context; its accumulator records are as many as their headers say (R122, R213). Poisoned bytes set the flag
(R232). -/
def ctxResume (i : Nat) (s : State) : State :=
  let core := i / 4
  let a := s.saveAt i
  let head := s.bytes 0 a 896
  let k := min 65 (nAt head 24 4)
  let len := recLen s.mem.tank k (a + 896)
  if a + 896 + len > 2 ^ 27 then resumeRefuse i a s else
  let s1 := s.readFx 0 a (896 + len) core 0
  match areaParse core head, parseTiles k 0 (s.bytes 0 (a + 896) len) with
  | some c, .ok ts _ =>
    if !tilesFit s i ts || !resumeOstOk s core c.ost then resumeRefuse i a s1
    else
      let bad := s.bad 0 a (896 + len) || (c.ost.act == 8 && s.bad 1 (cb core c.ost.pwlptr) 768)
      let s2 := if c.ost.act = 8 then s1.readFx 1 (cb core c.ost.pwlptr) 768 core 0 else s1
      let s3 := s2.onCtx i (fun o => { c with st := .restoring, ost := ⟨c.ost.rcd, pwlRead s core c.ost⟩, nextId := o.nextId })
      (putTiles i (a + 896) ts s3).poisonIf i bad
  | _, _ => resumeRefuse i a s1

/-- A resume command, allowed in IDLE (Table EXE-7, log entry 130). -/
def ctxResumeCmd (i : Nat) (s : State) : State := if (s.ctx i).st == .idle && !s.mirStandby then ctxResume i s else s.ctxDiscard i 4

/-- RESUME. -/
def execResume (who : Who) (k : CtxId) (s : State) : Out := .next (s.access who (Reg.SEQ_CTX_CMD (ctxIx k)) (ctxResumeCmd (ctxIx k)))

/-- RESUME_COMPLETE: RUN at PC. -/
def execResumeComplete (k : CtxId) (s : State) : Out :=
  let i := ctxIx k
  .next (s.when ((s.ctx i).st == .restoring) (s.onCtx i (fun c => { c with st := .run, hold := .free })))

/-- STOP (Table EXE-7): no more instruction issues; what waits is withdrawn. -/
def ctxStop (i : Nat) (s : State) : State :=
  let c := s.ctx i
  if c.active || c.st == .halt || c.st == .trap then s.setCtx i { c with hold := c.ended .stop, stop := true } else s.ctxDiscard i 8

/-- STOP. -/
def execStop (who : Who) (k : CtxId) (s : State) : Out :=
  .next (s.access who (Reg.SEQ_CTX_CMD (ctxIx k)) (ctxStop (ctxIx k)))

/-- STOP_COMPLETE: issued work has completed; the tiles are freed and the context enters IDLE. -/
def execStopComplete (k : CtxId) (s : State) : Out :=
  let i := ctxIx k
  .next (if (s.ctx i).hold == .stop && s.quiet i then (s.freeTiles i).onCtx i (fun c => { c with st := .idle, hold := .free, stop := false }) else s)

/-- A write of SEQ_CTX_PC, or of SEQ_CTX_SAVE when `save` is true: in IDLE, HALT and TRAP only. Event 0x0C04 carries the low word of a discarded PC (R216;
log entry 143). -/
def ctxAddr (i : Nat) (save : Bool) (v : W64) (s : State) : State :=
  if !(s.ctx i).settable then s.ctxDiscard i v.toNat
  else if save then s.setReg (Reg.SEQ_CTX_SAVE i) (BitVec.ofNat 32 (64 * bits v 26 6))
  else s.onCtx i (fun c => { c with pc := BitVec.ofNat 64 (8 * (v.toNat / 8)) })

/-- SEQ_CTX_ADDR_WRITE: SEQ_CTX_PC, lower word first, or SEQ_CTX_SAVE when `save` is true (R6, R216). -/
def execSeqCtxAddrWrite (who : Who) (k : CtxId) (save : Bool) (v : W64) (s : State) : Out :=
  let i := ctxIx k
  .next (s.access who (if save then Reg.SEQ_CTX_SAVE i else Reg.SEQ_CTX_PC i) (fun s =>
    ctxAddr i save v (if save then s else s.spendHeld who)))

/-- A write of SEQ_CTX_CMD as a word: more than one command bit is a command that is not allowed (Table EXE-7). -/
def ctxCommand (i : Nat) (v : W32) (s : State) : State := match bits v 3 0 with
  | 0 => s
  | 1 => ctxStart i s
  | 2 => ctxPreempt i s
  | 4 => ctxResumeCmd i s
  | 8 => ctxStop i s
  | _ => s.ctxDiscard i v.toNat

/-- A write of one word of SEQ_CTX_PC, SEQ_CTX_CMD or SEQ_CTX_SAVE, at address a of context i's block (R6, R216). -/
def ctxWord (who : Who) (i a : Nat) (v : W32) (s : State) : State :=
  if a = Reg.SEQ_CTX_PC i then s.holdLower who a v
  else if a = Reg.SEQ_CTX_PC i + 4 then ctxAddr i false (v ++ s.heldOr who (a - 4) ((s.ctx i).pc.setWidth 32)) (s.dropHeld who (a - 4))
  else if a = Reg.SEQ_CTX_CMD i then ctxCommand i v s
  else if a = Reg.SEQ_CTX_SAVE i then ctxAddr i true (v.setWidth 64) s
  else s

end Sys2Proof.Machine
end

