-- ==== Sys2Proof/Machine/Press.lean ====
section
/-!
DEFINITION. The press: pulses and verify reads, press records, VPROG, reloads, layer map writes (R155 to R165, R180 to R183, R192).
-/
namespace Sys2Proof.Machine

/-! ## Starting a press -/

/-- Arrays in press (PRS_STAT.ACTIVE). -/
def State.pressing (s : State) : Nat := (s.arrs.filter (fun e => e.2.press.isSome)).length

/-- MAXPAR: 0 acts as 1, above 64 as 64. -/
def State.maxPress (s : State) : Nat := max 1 (min 64 (s.fld Reg.PRS_CFG 6 0))

/-- What wants an array pressed: reason, place, SLOT, EPOCH, ORD and the DRAM offset of its image. -/
structure PressWant where
  why : PressFor
  place : Place
  slot : Nat
  epoch : Nat
  ord : Nat
  img : Nat

/-- What wants an array pressed: the load, the reload, or a repair that takes it as substitute (R171, R180, R296). -/
def pressWant (s : State) (a : Nat) : Option PressWant :=
  let load := s.prs.load.bind (fun l => (l.todo.find? (fun p => p.1.arr == a)).map (fun p => PressWant.mk .load p.1 l.slot l.epoch p.2 l.img.off))
  let rld := s.prs.rld.bind (fun r => (r.todo.find? (fun p => p.arr == a)).bind (fun p => (Tab.find? s.prs.images r.slot).map (fun x =>
    PressWant.mk .reload p r.slot (s.slotEpoch r.slot) 0xFFFF x.off)))
  let rep := if s.freeArr a && s.hasSub (a / 64) then
      (s.prs.reps.find? (fun r => r.sub.isNone && r.place.arr / 64 == a / 64)).bind (fun r => ((Tab.find? s.prs.images r.slot).filter (fun x => columnsOk s x.off r.place a)).map (fun x =>
        PressWant.mk (.repair r.place.arr) { r.place with arr := a } r.slot (s.slotEpoch r.slot) r.ord x.off))
    else none
  match load, rld with
  | some w, _ => some w
  | none, some w => some w
  | none, none => rep

/-- Tells what wanted the array that its press has begun. -/
def pressBegun (a : Nat) (w : PressWant) (s : State) : State := match w.why with
  | .load => match s.prs.load with
    | some l => { s with prs := { s.prs with load := some { l with todo := l.todo.filter (fun p => p.1.arr != a), begun := if l.begun.contains a then l.begun else l.begun ++ [a] } } }
    | none => s
  | .reload => match s.prs.rld with
    | some r => { s with prs := { s.prs with rld := some { r with todo := r.todo.filter (fun p => p.arr != a), begun := r.begun ++ [a] }, hist := Tab.insert s.prs.hist a (s.cnt.aon :: Tab.getD s.prs.hist a []) } }
    | none => s
  | .repair f =>
    let (s1, spare) := s.takeSub (a / 64)
    { s1 with prs := { s1.prs with reps := s1.prs.reps.map (fun r => if r.place.arr == f then { r with sub := some (a, spare) } else r) } }

/-- The target level of device n's column in a row group, and its sign in the group (R155, R156). -/
def groupLevel (s : State) (j : PressJob) (n : Nat) : Int :=
  let m := s.mem.dram
  target m (manAt m j.img j.place.ent).prof (secAt m j.img j.place.ent j.place.ix) (j.grp / 8) (4 * n + j.grp % 8 / 2)

/-- Whether device n of the group has a set target: G+ of a positive level, G− of a negative one (R156). -/
def setTarget (s : State) (j : PressJob) (n : Nat) : Bool :=
  let l := groupLevel s j n
  if j.grp % 2 = 0 then decide (0 < l) else decide (l < 0)

/-- The amplitude steps after the first pulses of a group: every set target has had one (R157). -/
def firstAmps (s : State) (j : PressJob) : Tab Nat :=
  (List.range 132).filterMap (fun n => if setTarget s j n then some (n, 1) else none)

/-- The first write of a record: COUNT + 1 with VALID 0, to a fresh group each time COUNT has reached a multiple of 400,000 (R163, R165). -/
def firstRecord (a : Nat) (w : PressWant) (s0 : State) : State :=
  let s := s0.recRead a
  let m := s.nvsView
  let n := pCOUNT (recAt m a)
  let c := min (n + 1) 0xFFFFFFF
  let r := mkRec c false false w.slot w.epoch w.ord
  let s1 := if n ≠ 0 ∧ n % 400000 = 0 then match relocFree m with
      | some v =>
        let t := (s.pressWrite (0xC000 + 8 * (v - 1)) 8 r a 3).pressWrite (0xD000 + 2 * a) 2 v a 1
        t.setReg Reg.PRS_RELOC (BitVec.ofNat 32 (512 - relocUsed t.nvsView))
      | none => s
    else s.pressWrite (recOff m a) 8 r a 1
  s1.raiseIf (c == 10000000 && n != c) 0x0309 1 0x200 (a + 2 ^ 32 * c)

/-- Whether the first write of an array's record still waits at the store (R163). -/
def recWaits (s : State) (a : Nat) : Bool :=
  (s.nvs.cur.toList ++ s.nvs.queue.filterMap (fun c => match c with | .page j => some j | .read _ _ | .win _ _ => none)).any (fun j => j.src == .press a 1)

/-- Key of the rate event of a request. -/
def keyRate (slot layer : Nat) : Nat := 0x03060000 + slot * 4096 + layer

/-- Event 0x0306 of a request that waits for an array over its rate, once (R181). -/
def rateEvent (slot layer : Nat) (s : State) : State := s.raiseOnce (keyRate slot layer) 0x0306 1 0x200 (layer + 2 ^ 16 * slot)

/-- PRESS_ARRAY_START: an idle array that is wanted enters PRESS, while fewer than MAXPAR are in press and neither VPROG nor the brown-out
warning holds the press (R160, R161, R163); a worn array is refused with event 0x030A (R165), and one that a reload presses waits while it is over its
rate (R181). A load has asked for its first records in step 3 (Table PRS-6). Sums that the array's stage still holds stay there (R63), and so do the
gains and offsets of its last full churn, which a column that fails the next fit keeps (R136). -/
def execPressArrayStart (a : ArrId) (s : State) : Out :=
  let i := a.val
  let x := s.arr i
  .next (s.when (s.up 4 && s.coreUp (i / 64) && !s.rst.bowarn && !s.rbit Reg.PRS_STAT 16 && decide (s.pressing < s.maxPress) && s.idle i
      && x.press.isNone && x.st != .fault && x.st != .retired) (match pressWant s i with
    | none => s
    | some w =>
      let asked := (match w.why with | .load => true | _ => false) && s.prs.load.any (fun l => l.begun.contains i)
      if !asked && s.worn i then wornArr i s
      else if w.why == .reload && overRate s i then rateEvent w.slot (manAt s.mem.dram w.img w.place.ent).layer s
      else
        let forced := s.pertAt 0x9C |>.any (fun p => bits p.val 10 0 == i)
        let s0 := imgRead (secAt s.mem.dram w.img w.place.ent w.place.ix) secLen s
        let s1 := if forced then s0.usePert 0x9C else s0
        let j : PressJob := ⟨w.why, w.place, w.slot, w.epoch, w.ord, w.img, asked && !recWaits s i, 0, 0, [], [], none, forced⟩
        let s2 := (pressBegun i w s1).incWrap Reg.PRS_PRESS_CNT 1
        let s3 := s2.setArr i { Arr.idle with st := .press, press := some { j with amp := firstAmps s2 j }, held := x.held, pool := x.pool, chn := { x.chn with born := none, due := [], cur := none, fit := false } }
        let s4 := stopAsks i 2 { s3 with refs := Tab.erase s3.refs i }
        if asked then s4 else firstRecord i w s4))

/-! ## Pulses -/

/-- The levels that a finished group leaves in its devices (R155, R156). -/
def groupDone (s : State) (j : PressJob) (l : Tab Int) : Tab Int :=
  (List.range 132).foldl (fun t n => if setTarget s j n then Tab.insert t (j.grp / 8 * 1024 + (4 * n + j.grp % 8 / 2)) (groupLevel s j n) else t) l

/-- The failed columns of a group that ran out of iterations: up to 16 are recorded (R158). -/
def addFails (j : PressJob) (outs : List Nat) : PressJob :=
  let cols := (outs.map (fun n => 4 * n + j.grp % 8 / 2)).filter (fun c => !j.fails.contains c)
  { j with fails := (j.fails ++ cols).take 16, first := match j.first with
    | some f => some f
    | none => cols.head?.map (fun c => (c, j.grp / 8)) }

/-- Moves to the next row group. -/
def nextGroup (s : State) (j : PressJob) : PressJob :=
  let k := { j with grp := j.grp + 1, it := 0, amp := [] }
  if k.grp < 4096 then { k with amp := firstAmps s k } else k

/-- One verify read of the group in progress (R157, R158): `outs` are the devices outside their window, with whether each lies below it. -/
def verifyRead (a : Nat) (j : PressJob) (outs : List (Nat × Bool)) (s : State) : State :=
  let x := s.arr a
  let s0 := if j.grp = 0 ∧ j.it = 0 then { s with pcm := Tab.erase s.pcm a } else s
  let put := fun (t : State) (k : PressJob) => t.setArr a { x with press := some k }
  if outs.isEmpty then
    put { s0 with pcm := Tab.insert s0.pcm a (groupDone s0 j (s0.levels a)) } (nextGroup s0 j)
  else if j.it + 1 ≥ 12 then put s0 (nextGroup s0 (addFails j (outs.map (fun e => e.1))))
  else
    let amp := outs.foldl (fun t e => let v := Tab.getD t e.1 0
      Tab.setD t e.1 0 (if e.2 && setTarget s0 j e.1 then v + 1 else v - 2)) j.amp
    put s0 { j with it := j.it + 1, amp := amp }

/-- PRESS_VERIFY_READ: no pulse is applied before the first record is written (R163). -/
def execPressVerifyRead (a : ArrId) (outside : List (Nat × Bool)) (s : State) : Out :=
  .next (s.when (s.up 4) (match (s.arr a.val).press with
    | some j => if j.ready && decide (j.grp < 4096) then verifyRead a.val j (outside.filter (fun e => decide (e.1 < 132))) s else s
    | none => s))

/-- The second write of a record: VALID 1, or FAILED 1 (R163). -/
def secondRecord (a : Nat) (pass : Bool) (s : State) : State :=
  let m := s.nvsView
  s.pressWrite (recOff m a) 8 ((recAt m a).toNat + (if pass then 2 ^ 28 else 2 ^ 29)) a (if pass then 2 else 3)

/-- A press that passes: ARR_CFG, depth and remainder store are written, the probe reference is built, and the array passes to CHURN, its class 1
churn due (R134, R140, R141, R163, R172, R280). -/
def pressPass (a : Nat) (j : PressJob) (s : State) : State :=
  let m := s.mem.dram
  let x := manAt m j.img j.place.ent
  let s1 := s.setReg (Reg.ARR_CFG a) (BitVec.ofNat 32 x.cfg)
  secondRecord a true (makeDue a 1 (buildRef a (secAt m j.img j.place.ent j.place.ix) x.prof (x.depth j.place.ix) (s1.setArr a { s1.arr a with st := .churn, press := none })))

/-- A press that fails: event 0x0302, the array enters FAULT (R158, R294). -/
def pressFail (a : Nat) (j : PressJob) (s : State) : State :=
  let s1 := (s.incReg Reg.PRS_FAIL_CNT 1).setArr a { s.arr a with press := none }
  let f := j.first.getD (0, 0)
  enterFault a 0 (secondRecord a false (s1.raise 0x0302 2 0x200 (a + 2 ^ 16 * j.fails.length + 2 ^ 32 * f.1 + 2 ^ 48 * f.2)))

/-- PRESS_ARRAY_END: after the final verify (R158). -/
def execPressArrayEnd (a : ArrId) (s : State) : Out :=
  .next (s.when (s.up 4) (match (s.arr a.val).press with
    | some j =>
      if !j.ready || decide (j.grp < 4096) then s
      else if j.fails.isEmpty && !j.forced then pressPass a.val j s else pressFail a.val j s
    | none => s))

/-! ## VPROG -/

/-- An array in press stops and ends as failed without entering FAULT; a reload or a repair will press it again (R161). -/
def stopPress (a : Nat) (j : PressJob) (s : State) : State :=
  let s1 := secondRecord a false ((s.incReg Reg.PRS_FAIL_CNT 1).setArr a { s.arr a with st := .off, press := none })
  match j.why with
  | .load => s1
  | .reload => match s1.prs.rld with
    | some r => { s1 with prs := { s1.prs with rld := some { r with todo := r.todo ++ [j.place], begun := r.begun.filter (fun b => b != a) } } }
    | none => s1
  | .repair f =>
    let spare := s1.prs.reps.any (fun r => r.sub == some (a, true))
    let s2 := { s1 with prs := { s1.prs with reps := s1.prs.reps.map (fun r => if r.place.arr == f then { r with sub := none } else r) } }
    if spare then s2.setReserve (a / 64) (s2.reserve (a / 64) + 1) 0 else s2

/-- VPROG_LOW: the level holds in PRS_STAT whether or not the fabric runs; every array in press stops, and a load in progress is refused with code
0xB (R161, R483). -/
def execVprogLow (s : State) : Out :=
  let s0 := s.orReg Reg.PRS_STAT (2 ^ 16)
  let l := s.arrs.filterMap (fun e => e.2.press.map (fun j => (e.1, j)))
  let s1 := l.foldl (fun t e => stopPress e.1 e.2 t) s0
  .next (if s.up 4 then refuseLoad 0xB (s1.raiseIf (!l.isEmpty) 0x0307 2 0x200 l.length) else s0)

/-- VPROG_RECOVER. -/
def execVprogRecover (s : State) : Out := .next (s.clrReg Reg.PRS_STAT (2 ^ 16))

/-! ## Registers -/

/-- Whether any slot is committed. -/
def State.anySlot (s : State) : Bool := (List.range 4).any s.slotUsed

/-- PRS_CFG_WRITE: SPARES keeps its value while a slot is committed or a load is in progress (R182). -/
def execPrsCfgWrite (who : Who) (v : W32) (s : State) : Out :=
  .next (s.access who Reg.PRS_CFG (fun s =>
    let old := s.fld Reg.PRS_CFG 10 8
    let s1 := s.putMasked Reg.PRS_CFG v
    if s.anySlot || s.prs.load.isSome then s1.setFld Reg.PRS_CFG 10 8 old
    else if s1.fld Reg.PRS_CFG 10 8 = old then s1 else s1.reservesSet))

/-- The manifest entry of a reloadable layer of an attached image; a committed slot that is detached has none to press from (log entry 146). -/
def reloadable (s : State) (slot layer : Nat) : Option (Image × Nat) :=
  if !s.slotUsed slot then none else
  ((Tab.find? s.prs.images slot).filter (fun x => x.att)).bind (fun x =>
    let m := s.mem.dram
    ((List.range (imgLayers m x.off)).find? (fun e => let y := manAt m x.off e; y.layer == layer && y.reload)).map (fun e => (x, e)))

/-- PRS_RLD_REQ with GO: requests a layer, or is discarded with event 0x0306; a resident or requested layer needs nothing more (R180). -/
def execPrsRldReq (who : Who) (v : W32) (s : State) : Out :=
  .next (s.access who Reg.PRS_RLD_REQ (fun s =>
    if !bit v 31 then s else
    let layer := bits v 11 0
    let slot := bits v 13 12
    match reloadable s slot layer with
    | none => s.raise 0x0306 1 0x200 (layer + 2 ^ 16 * slot + 2 ^ 25)
    | some (x, e) => if x.res.contains e then s else s.askReload slot layer))

/-! ## Reloads -/

/-- Replaces the pool arrays of a list whose COUNT has reached the cap by free mappable arrays; `none` when a core has none (R181, R297). -/
def replaceWorn (off ent slot : Nat) : List Nat → List Nat → State → Option State
  | [], _, s => some s
  | a :: r, alloc, s =>
    if pCOUNT (recAt s.nvsView a) < rldCap s then replaceWorn off ent slot r alloc s
    else
      let c := a / 64
      match (if s.hasMappable c then chooseArr alloc (poolOk s off ent) c else none) with
      | none => none
      | some b =>
        let s1 := s.onImage slot (fun y => { y with places := swapArr a b y.places })
        replaceWorn off ent slot r alloc (s1.mapEntries (fun k e => k == c && eSLOT e == slot && eARRAY e == a % 64)
          (fun e => (e &&& ~~~0xFC#128) ||| BitVec.ofNat 128 (4 * (b % 64))))

/-- The pool arrays of a layer. -/
def layerArrs (x : Image) (ent : Nat) : List Nat := (x.places.filter (fun p => p.ent == ent)).map (fun p => p.arr)

/-- Serves the first request: its pool arrays within their rate and cap, the layers that hold them idle there and then not resident, and the layer
to be pressed (R180, R181). -/
def reloadStart (alloc : List Nat) (s : State) : State :=
  match s.reqs, s.prs.rld with
  | (slot, layer) :: _, none =>
    match reloadable s slot layer with
    | none => refuseReload slot layer s
    | some (x, e) =>
      if x.res.contains e then { s with reqs := s.reqs.drop 1 }
      else if (layerArrs x e).any (overRate s) then rateEvent slot layer s
      else match replaceWorn x.off e slot (layerArrs x e) alloc s with
        | none => refuseReload slot layer s
        | some s1 =>
          let y := (Tab.find? s1.prs.images slot).getD x
          let arrs := layerArrs y e
          if !arrs.all s1.idle then s else
          let out := y.res.filter (fun k => (layerArrs y k).any (fun b => arrs.contains b))
          let s2 := out.foldl (fun t k => t.setResident slot (manAt t.mem.dram y.off k).layer false) s1
          let s3 := s2.onImage slot (fun z => { z with res := z.res.filter (fun k => !out.contains k) })
          { s3.rearm (keyRate slot layer) with prs := { s3.prs with rld := some ⟨slot, e, y.places.filter (fun p => p.ent == e), [], s3.cnt.aon, alloc⟩ } }
  | _, _ => s

/-- RELOAD_START. -/
def execReloadStart (alloc : List Nat) (s : State) : Out := .next (s.when (s.up 4 && !s.rbit Reg.PRS_STAT 16) (reloadStart alloc s))

/-- RELOAD_RATE_EXPIRY: presses older than 3,600 s count no more, and the waiting reload is tried again, firmware taking any free array that a
worn one needs (R181; log entry 133). -/
def execReloadRateExpiry (s : State) : Out :=
  let s1 := { s with prs := { s.prs with hist := s.prs.hist.filterMap (fun e =>
    let l := e.2.filter (inHour s)
    if l.isEmpty then none else some (e.1, l)) } }
  .next (s.when (s.up 4) (if s.rbit Reg.PRS_STAT 16 then s1 else reloadStart [] s1))

/-! ## The layer map -/

/-- Whether an entry's reserved fields are 0 (Table EXE-2). -/
def entryForm (e : BitVec 128) : Bool := bits e 31 22 == 0 && bits e 63 46 == 0 && bits e 95 81 == 0 && bits e 127 112 == 0

/-- Whether an array is a pool array whose layer is resident. -/
def residentPool (s : State) (a : Nat) : Bool :=
  s.prs.images.any (fun e => e.2.places.any (fun p => p.pool && p.arr == a && e.2.res.contains p.ent))

/-- Whether R192 lets an entry be written on a core. -/
def entryOk (s : State) (core : Nat) (e : BitVec 128) : Bool :=
  let a := core * 64 + eARRAY e
  entryForm e && (!eVALID e || (if eRESIDENT e then s.committed a || residentPool s a else s.inPool (eSLOT e) a))

/-- MAP_WRITE: MAP_CMD with GO replaces an entry by MAP_W0 to MAP_W3, or is refused with event 0x0C03 (R192). -/
def execMapWrite (who : Who) (c : CoreId) (v : W32) (s : State) : Out :=
  .next (s.access who (Reg.MAP_CMD c.val) (fun s =>
    if !bit v 31 then s else
    let i := bits v 9 0
    let w := fun k => (s.reg (Reg.MAP_W c.val k)).toNat
    let e := BitVec.ofNat 128 (w 0 + 2 ^ 32 * w 1 + 2 ^ 64 * w 2 + 2 ^ 96 * w 3)
    if entryOk s c.val e then s.setEntry c.val i e
    else ((s.orReg (Reg.MAP_ERR c.val) 1).setFld (Reg.MAP_ERR c.val) 25 16 i).raise 0x0C03 1 c.val (c.val + 0xFF00 + 2 ^ 16 * i + 2 ^ 32 * w 0)))

end Sys2Proof.Machine
end

