-- ==== Sys2Proof/Machine/Sha.lean ====
section
/-!
DEFINITION. SHAKE256 with a 256-bit output (FIPS 202), the digest of R170 and of the keys and bundles of 18_firmware_trust.md. The spec names the
function; its definition is the standard's (PRESUMED, log entry 7).
-/
namespace Sys2Proof.Machine

/-- Lane i = x + 5 y of a sponge state, of 64 bits, packed from the least significant bit. -/
def shaLane (s i : Nat) : Nat := s >>> (64 * i) % 2 ^ 64

/-- Rotates a lane left. -/
def rotLane (v n : Nat) : Nat := (v * 2 ^ n % 2 ^ 64) + v / 2 ^ (64 - n)

/-- Packs lanes, the first at the least significant end. -/
def packLanes : List Nat → Nat
  | [] => 0
  | v :: r => v + 2 ^ 64 * packLanes r

/-- The exclusive or of a column's lanes. -/
def shaParity (s x : Nat) : Nat := (List.range 5).foldl (fun p y => p ^^^ shaLane s (x + 5 * y)) 0

/-- Step theta. -/
def theta (s : Nat) : Nat :=
  let c := packLanes ((List.range 5).map (shaParity s))
  let row := packLanes ((List.range 5).map (fun x => shaLane c ((x + 4) % 5) ^^^ rotLane (shaLane c ((x + 1) % 5)) 1))
  s ^^^ packLanes ((List.range 25).map (fun i => shaLane row (i % 5)))

/-- The places that step rho visits in its order, from column x of row y on, with the triangular numbers by which it rotates them. -/
def rhoWalk : Nat → Nat → Nat → Nat → Tab Nat
  | 0, _, _, _ => []
  | n + 1, t, x, y => (x + 5 * y, t * (t + 1) / 2 % 64) :: rhoWalk n (t + 1) y ((2 * x + 3 * y) % 5)

/-- Steps rho and pi: lane x + 5 y of the result is the rotated lane of column x + 3 y and row x. -/
def rhoPi (s : Nat) : Nat :=
  packLanes ((List.range 25).map (fun i => let j := (i % 5 + 3 * (i / 5)) % 5 + 5 * (i % 5); rotLane (shaLane s j) (Tab.getD (rhoWalk 24 1 1 0) j 0)))

/-- Step chi. -/
def chi (s : Nat) : Nat :=
  packLanes ((List.range 25).map (fun i =>
    let y := 5 * (i / 5)
    shaLane s i ^^^ ((2 ^ 64 - 1 - shaLane s (y + (i + 1) % 5)) &&& shaLane s (y + (i + 2) % 5))))

/-- The shift register of step iota, with its first bit at the least significant place. -/
def iotaStep (r : Nat) : Nat := if r < 128 then 2 * r else 2 * r ^^^ 0x171

/-- The word that step iota adds, each of seven outputs of the register at a place one below a power of two, and the register after them. -/
def iotaWord (r : Nat) : Nat × Nat :=
  (List.range 7).foldl (fun (w : Nat × Nat) j => (w.1 + w.2 % 2 * 2 ^ (2 ^ j - 1), iotaStep w.2)) (0, r)

/-- Rounds of the permutation, with the register of step iota. -/
def keccakRounds : Nat → Nat → Nat → Nat
  | 0, _, s => s
  | n + 1, r, s => let w := iotaWord r; keccakRounds n w.2 (chi (rhoPi (theta s)) ^^^ w.1)

/-- The permutation, of 24 rounds. -/
def keccak (s : Nat) : Nat := keccakRounds 24 1 s

/-- Absorbs padded input of n blocks of 136 bytes. -/
def absorb : Nat → List Byte → Nat → Nat
  | 0, _, s => s
  | n + 1, bs, s => absorb n (bs.drop 136) (keccak (s ^^^ leNat (bs.take 136)))

/-- The padding of an input of a length: SHAKE's domain bits, zeros, and the last bit of the block. -/
def shakePad (n : Nat) : List Byte := let k := 136 - n % 136; if k = 1 then [0x9F] else 0x1F :: (List.replicate (k - 2) 0 ++ [0x80])

/-- SHAKE256 with 256 bits of output, as a little-endian number. -/
def shake256 (bs : List Byte) : BitVec 256 :=
  BitVec.ofNat 256 (absorb (bs.length / 136 + 1) (bs ++ shakePad bs.length) 0)

end Sys2Proof.Machine
end

