-- ==== Sys2Proof/Machine/Load.lean ====
section
/-!
DEFINITION. Loading, attaching and unloading model images (R166 to R179, R472, R497).
-/
namespace Sys2Proof.Machine

/-! ## The image's form -/

/-- Stored weights of an array row by profile (R74, R167). -/
def perRow (prof : Nat) : Nat := if prof = 0 then 512 else if prof = 1 then 256 else if prof = 2 then 170 else 128

/-- Bytes of an array row in use (R168). -/
def rowUsed (prof : Nat) : Nat := if prof ≤ 1 then 256 else if prof = 2 then 170 else 128

/-- The sections of an image after its header, in order: offset, length (Tables PRS-3 and PRS-4). -/
def imgSections (m : Mem) (o : Nat) : List (Nat × Nat) :=
  let f := fun b n => m.readN (o + b) n
  [(256, 64 * f 12 2), (f 24 8, f 32 8)] ++ (if f 48 8 = 0 then [] else [(f 40 8, f 48 8)]) ++ [(f 56 8, 32)]
    ++ (if f 10 2 % 2 = 1 then [(f 64 8, f 72 2)] else [])

/-- Whether sections start on 64-byte boundaries, in order and without overlap, from a first free offset (R166). -/
def inOrder : Nat → List (Nat × Nat) → Bool
  | _, [] => true
  | p, (a, n) :: r => a % 64 == 0 && decide (p ≤ a) && inOrder (a + n) r

/-- The end of the last section. -/
def imgEnd (l : List (Nat × Nat)) : Nat := match l.getLast? with
  | some (a, n) => a + n
  | none => 0

/-- The header checks of step 1 beside the signature policy (R166, Table PRS-4). -/
def imgHeaderOk (s : State) (o len : Nat) : Bool :=
  let m := s.mem.dram
  let f := fun b n => m.readN (o + b) n
  let signed := f 10 2 % 2 == 1
  let l := imgSections m o
  decide (256 ≤ len) && decide (o + len ≤ s.dramBytes) && f 252 4 == crc32c (m.read o 252) && f 0 4 == 0x4D495843 && f 4 2 == 1
    && f 6 2 == 0x8060 && decide (f 8 1 ≤ s.fld Reg.GLB_ID 23 16) && decide (f 10 2 < 4) && decide (1 ≤ f 12 2) && decide (f 12 2 ≤ 4096)
    && m.zeroIn (o + 9) 1 && m.zeroIn (o + 14) 2 && m.zeroIn (o + 74) 22 && m.zeroIn (o + 128) 124
    && (if signed then decide (1 ≤ f 72 2) && decide (f 72 2 ≤ 1280) else f 64 8 == 0 && f 72 2 == 0)
    && inOrder 256 l && f 16 8 == imgEnd l && decide (f 16 8 ≤ len)

/-- Whether the gaps between sections hold 0 (R166). -/
def gapsZero (m : Mem) (o : Nat) : Nat → List (Nat × Nat) → Bool
  | _, [] => true
  | p, (a, n) :: r => m.zeroIn (o + p) (a - p) && gapsZero m o (a + n) r

/-- Whether the unused bytes of an array section are 0: row ends, and rows beyond K (R168). -/
def paddingZero (m : Mem) (sec prof depth : Nat) : Bool :=
  !(m.cells.any (fun e => decide (sec ≤ e.1) && decide (e.1 < sec + 131072)
    && (decide (depth ≤ (e.1 - sec) / 256) || decide (rowUsed prof ≤ (e.1 - sec) % 256))))

/-- The places of an image before allocation, in allocation order: manifest entry, copy, array (R162, R167). -/
def imgPlaces (m : Mem) (o : Nat) : List Place :=
  (List.range (imgLayers m o)).flatMap (fun e =>
    let x := manAt m o e
    (List.range x.copies).flatMap (fun c => (List.range x.count).map (fun a => Place.mk e c a 0 x.reload)))

/-- The core and layer map entry of a place, as core * 1024 + entry. -/
def placeKey (m : Mem) (o : Nat) (p : Place) : Nat := let x := manAt m o p.ent; x.coreOf p.copy p.ix * 1024 + x.entOf p.copy p.ix

/-- Whether a manifest entry is in form and its sections and destinations in range (R166 to R169). -/
def manOk (s : State) (o e : Nat) : Bool :=
  let m := s.mem.dram
  let x := manAt m o e
  let f := fun b n => m.readN (o + b) n
  let cores := (List.range x.copies).flatMap (fun c => (List.range x.count).map (fun a => x.coreOf c a))
  decide (x.layer < 4096) && decide (x.prof ≤ 3) && decide (x.segen < 16) && decide (x.core < 32) && decide (x.core2 < 32) && x.resv7 == 0
    && m.zeroIn (o + 256 + 64 * e + 56) 8 && (x.twin || x.core2 == 0) && decide (1 ≤ x.kch) && decide (x.kch ≤ 512) && decide (1 ≤ x.nblk)
    && (List.range x.copies).all (fun c => decide ((if c = 1 then x.base2 else x.base) + 16 * (x.nblk - 1) + min 15 (x.kch - 1) ≤ 1023))
    && decide (512 * (x.kch - 1) + 1 ≤ x.k) && decide (x.k ≤ 512 * x.kch) && decide (x.n ≤ x.nblk * perRow x.prof)
    && decide (x.woff + 131072 * x.count + x.epilen ≤ f 32 8)
    && (List.range x.count).all (fun a => paddingZero m (secAt m o e a) x.prof (x.depth a))
    && decide (x.epidst + x.epilen ≤ 2 ^ 21) && (x.epilen == 0 || x.epidst % 32 == 0)
    && (if x.skim then decide (x.ooff + x.olen ≤ f 48 8) && x.odst % 16 == 0 && decide (x.odst + x.olen ≤ 2 ^ 21)
          && decide (skimAt m (o + f 40 8 + x.ooff) x.count ≤ x.olen)
          && cores.all (fun c => decide (16 * s.fld (Reg.SKM_BASE c) 20 4 ≤ x.odst)
            && decide (x.odst + x.olen ≤ min (2 ^ 21) (16 * s.fld (Reg.SKM_LIMIT c) 21 4)))
        else x.olen == 0)

/-- The manifest checks of step 2 (R166 to R169): each entry, layers unique, no layer map entry named twice, gaps 0. -/
def manifestOk (s : State) (o : Nat) : Bool :=
  let m := s.mem.dram
  let n := imgLayers m o
  let keys := (imgPlaces m o).map (placeKey m o)
  let layers := (List.range n).map (fun e => (manAt m o e).layer)
  gapsZero m o 256 (imgSections m o) && (List.range n).all (manOk s o) && keys.eraseDups.length == keys.length
    && layers.eraseDups.length == layers.length

/-- Whether an entry of the image is valid already, for an image other than that of the slot attached (R171). -/
def entryTaken (s : State) (o : Nat) (slot : Option Nat) : Bool :=
  (imgPlaces s.mem.dram o).any (fun p =>
    let k := placeKey s.mem.dram o p
    let e := s.entry (k / 1024) (k % 1024)
    eVALID e && slot != some (eSLOT e))

/-! ## The footprint (R178, R179) -/

/-- Arrays that an image's places put on core c, counting places that satisfy a condition. -/
def onCore (m : Mem) (o c : Nat) (ok : Place → Bool) : Nat :=
  ((imgPlaces m o).filter (fun p => ok p && placeKey m o p / 1024 == c)).length

/-- pool_c. -/
def poolOf (m : Mem) (o c : Nat) : Nat :=
  ((List.range (imgLayers m o)).map (fun e => if (manAt m o e).reload then onCore m o c (fun p => p.ent == e) else 0)).foldl Nat.max 0

/-- Whether an array is free for an image: free, or pressed for the slot that is attached. -/
def freeFor (s : State) (slot : Option Nat) (a : Nat) : Bool :=
  let x := s.arr a
  s.freeArr a || (slot == some (pSLOT (s.prec a)) && s.committed a && x.st != .fault && x.st != .retired)

/-- free_c. -/
def freeOf (s : State) (slot : Option Nat) (c : Nat) : Nat :=
  ((List.range 64).filter (fun l => freeFor s slot (c * 64 + l))).length - s.reserve c

/-- short_c. -/
def shortOf (s : State) (o : Nat) (slot : Option Nat) (c : Nat) : Nat :=
  let m := s.mem.dram
  onCore m o c (fun p => !p.pool) + poolOf m o c - freeOf s slot c

/-- The first core with the largest value. -/
def worstOf (l : List Nat) : Nat := l.findIdx (fun v => v == l.foldl Nat.max 0)

/-- PRS_SHORT after a footprint check. -/
def putShort (l : List Nat) (s : State) : State :=
  s.setReg Reg.PRS_SHORT (BitVec.ofNat 32 (min 0xFFFF (l.foldl (fun a b => a + b) 0) + 2 ^ 16 * worstOf l + 2 ^ 24 * (l.filter (fun v => v != 0)).length))

/-! ## Allocation (R162, R297, R497) -/

/-- The array that serves position `ord` of the allocation order of a committed slot, if it is still committed (R175). -/
def recorded (s : State) (slot : Option Nat) (ord : Nat) : Option Nat :=
  slot.bind (fun n => (List.range 2048).find? (fun a =>
    let x := s.arr a
    s.committed a && pSLOT (s.prec a) == n && pORD (s.prec a) == ord && x.st != .fault && x.st != .retired))

/-- Allocates the arrays that are pressed at load: the places with their arrays in order, the places still to be pressed with their ORD, and the
arrays used; `none` when a core has no array left that may serve. -/
def allocFixed (s : State) (o : Nat) (slot : Option Nat) (alloc : List Nat) : Nat → List Place → List Nat → Option (List Place × List (Place × Nat) × List Nat)
  | _, [], used => some ([], [], used)
  | ord, p :: r, used =>
    if p.pool then (allocFixed s o slot alloc ord r used).map (fun t => (p :: t.1, t.2))
    else match recorded s slot ord with
    | some a => (allocFixed s o slot alloc (ord + 1) r (a :: used)).map (fun t => ({ p with arr := a } :: t.1, t.2))
    | none =>
      match chooseArr alloc (fun a => s.freeArr a && !used.contains a && !s.worn a && columnsOk s o p a) (placeKey s.mem.dram o p / 1024) with
      | none => none
      | some a => (allocFixed s o slot alloc (ord + 1) r (a :: used)).map (fun t => ({ p with arr := a } :: t.1, ({ p with arr := a }, ord) :: t.2.1, t.2.2))

/-- Allocates the reload pool of a core: `n` arrays. -/
def allocPool (s : State) (o : Nat) (alloc : List Nat) (c : Nat) : Nat → List Nat → Option (List Nat)
  | 0, _ => some []
  | n + 1, used =>
    match chooseArr alloc (fun a => s.freeArr a && !used.contains a && !s.worn a && columnsOk s o ⟨0, 0, 0, 0, true⟩ a) c with
    | none => none
    | some a => (allocPool s o alloc c n (a :: used)).map (fun l => a :: l)

/-- The pools of all cores, from core c. -/
def allocPools (s : State) (o : Nat) (alloc : List Nat) : Nat → List Nat → Option (List (List Nat))
  | 0, _ => some []
  | n + 1, used =>
    let c := 31 - n
    match allocPool s o alloc c (poolOf s.mem.dram o c) used with
    | none => none
    | some l => (allocPools s o alloc n (l ++ used)).map (fun t => l :: t)

/-- Gives the places of reloadable layers their pool arrays: the k-th on a core takes the core's k-th pool array. -/
def poolPlaces (m : Mem) (o : Nat) (pools : List (List Nat)) (ps : List Place) : List Place :=
  ps.map (fun p =>
    if p.pool then
      let c := placeKey m o p / 1024
      let before := (imgPlaces m o).filter (fun q => q.ent == p.ent && placeKey m o q / 1024 == c && (decide (q.copy < p.copy) || (q.copy == p.copy && decide (q.ix < p.ix))))
      { p with arr := (((pools[c]?).getD [])[before.length]?).getD (c * 64) }
    else p)

/-! ## Digest and signature -/

/-- The digest of an image (R170). -/
def imgDigest (s : State) (o : Nat) : BitVec 256 := shake256 (s.mem.dram.read o (s.mem.dram.readN (o + 56) 8))

/-- The digest as the compare of a load takes it: TST_DIGC with target 3 inverts bit 0 (R306). -/
def seenDigest (s0 : State) (o : Nat) : BitVec 256 × State :=
  let s := imgRead o (s0.mem.dram.readN (o + 56) 8 + 32) s0
  match s.pertAt 0x98 with
  | some p => if bits p.val 1 0 = 3 then (imgDigest s o ^^^ 1, s.usePert 0x98) else (imgDigest s o, s)
  | none => (imgDigest s o, s)

/-- The stored digest. -/
def storedDigest (s : State) (o : Nat) : BitVec 256 := BitVec.ofNat 256 (s.mem.dram.readN (o + s.mem.dram.readN (o + 56) 8) 32)

/-- Whether an image is signed. -/
def imgSigned (s : State) (o : Nat) : Bool := s.mem.dram.readN (o + 10) 2 % 2 == 1

/-- Whether a signed image passes: the model key slot is programmed and not revoked, the bundle carries the matching key, and the signature
verifies over the digest (Table SEC-3). -/
def signatureOk (s : State) (o : Nat) : Bool :=
  !imgSigned s o || (match s.fus.mkey, s.sec.bundle.bind (fun b => b.mkey) with
    | some h, some k => !s.fus.mkeyRev && shake256 k == h
        && Config.falconVerify k (imgDigest s o) (s.mem.dram.read (o + s.mem.dram.readN (o + 64) 8) (s.mem.dram.readN (o + 72) 2))
    | _, _ => false)

/-! ## Accepting a load -/

/-- The lowest free slot. -/
def freeSlot (s : State) : Option Nat := (List.range 4).find? (fun n => !s.slotUsed n)

/-- The epoch of the next PRESS load: one above the highest of the four slot records, skipping epochs of records with VALID 1 (R174). -/
def nextEpoch (s : State) : Nat :=
  let used := ((List.range 2048).map s.prec).filterMap (fun r => if pVALID r then some (pEPOCH r) else none)
  let top := ((List.range 4).map s.slotEpoch).foldl Nat.max 0
  (((List.range 2049).map (fun k => (top + 1 + k) % 65536)).find? (fun e => !used.contains e)).getD ((top + 1) % 65536)

/-- Refuses a load at its acceptance. -/
def loadNo (src : LoadSrc) (code slot : Nat) (s : State) : State := loadEnd src 1 code slot s

/-- Event 0x0303 (Table PRS-11). -/
def keyEvent (slot kind : Nat) (s : State) : State := s.raise 0x0303 2 0x200 (slot + 256 * kind)

/-- Borrows spares for a load: each core with a shortfall gives that many (R179); byte [1] of an event 0x0305 counts those of this load (log entry
148). -/
def borrow (l : List Nat) (s : State) : State × Tab Nat :=
  (List.range 32).foldl (fun t c =>
    let n := (l[c]?).getD 0
    if n = 0 then t else (t.1.setReserve c (t.1.reserve c - n) n, Tab.insert t.2 c n)) (s, [])

/-- The sum of two counts by core. -/
def addTab (t u : Tab Nat) : Tab Nat := u.foldl (fun v e => Tab.setD v e.1 0 (Tab.getD v e.1 0 + e.2)) t

/-- The spares that an image not attached since the start is taken to have borrowed before it: on each core, as many of those that the start could not
set aside as the image has arrays there (R176, R179; log entry 149). -/
def heldSpares (s : State) (arrs : Nat → Nat) : Tab Nat :=
  (List.range 32).filterMap (fun c =>
    let n := min (Tab.getD s.prs.gap c 0) (arrs c)
    if n = 0 then none else some (c, n))

/-- Those spares count for one image only. -/
def State.takeGap (t : Tab Nat) (s : State) : State :=
  { s with prs := { s.prs with gap := t.foldl (fun g e => Tab.setD g e.1 0 (Tab.getD g e.1 0 - e.2)) s.prs.gap } }

/-- Prepares an array that keeps its contents through an attach: configuration, depth, remainder store and probe reference (R172, R175, R280). -/
def attachArr (o : Nat) (p : Place) (s : State) : State :=
  let m := s.mem.dram
  let x := manAt m o p.ent
  buildRef p.arr (secAt m o p.ent p.ix) x.prof (x.depth p.ix) (s.setReg (Reg.ARR_CFG p.arr) (BitVec.ofNat 32 x.cfg))

/-- Step 3 of a load: the first records of the arrays to be pressed are asked for; one that is worn by then gives way to another (R163, R165). -/
def firstRecords (slot epoch o : Nat) (todo : List (Place × Nat)) (s : State) : State :=
  todo.foldl (fun t p =>
    if t.prs.load.isNone then t else if t.worn p.1.arr then wornArr p.1.arr t else firstRecord p.1.arr ⟨.load, p.1, slot, epoch, p.2, o⟩ t) s

/-- Step 2's allocation and the start of step 3, or a refusal (R172, R175, R178, R179). An attach may take the pool arrays that its detached image
still has, which stay that image's until the attach commits (R497). A shortfall that spares meet raises no event 0x0301 (log entry 147). -/
def beginLoad (src : LoadSrc) (attach : Bool) (o len : Nat) (alloc : List Nat) (slot epoch : Nat) (s0 : State) : State :=
  let s := if attach then { s0 with prs := { s0.prs with images := Tab.erase s0.prs.images slot } } else s0
  let own := if attach then some slot else none
  let short := (List.range 32).map (shortOf s o own)
  let total := short.foldl (fun a b => a + b) 0
  let s1 := putShort short s0
  let may := bit (BitVec.ofNat 16 (s.mem.dram.readN (o + 10) 2)) 1 && (List.range 32).all (fun c => decide ((short[c]?).getD 0 ≤ s.reserve c))
  if total ≠ 0 ∧ !may then
    let w := worstOf short
    loadNo src 4 slot (s1.raise 0x0301 1 0x200 (total + 2 ^ 32 * s.reserves + 2 ^ 48 * (short.filter (fun v => v != 0)).length + 2 ^ 56 * w
      + 2 ^ 64 * (short[w]?).getD 0))
  else
    match allocFixed s o own alloc 0 (imgPlaces s.mem.dram o) [] with
    | none => loadNo src 8 slot s1
    | some (ps, todo, used) =>
      match allocPools s o alloc 32 used with
      | none => loadNo src 8 slot s1
      | some pools =>
        let b := borrow short s1
        let places := poolPlaces s.mem.dram o pools ps
        let l : LoadJob := ⟨src, attach, ⟨o, len, places, b.2, [], true⟩, slot, epoch, todo, todo.map (fun t => t.1.arr), alloc, [], s.cnt.aon⟩
        let s2 := { b.1 with prs := { b.1.prs with load := some l } }
        let s3 := firstRecords slot epoch o todo s2
        if attach && s3.prs.load.isSome then (places.filter (fun p => !p.pool && !todo.any (fun t => t.1.arr == p.arr))).foldl (fun t p => attachArr o p t) s3 else s3

/-- A PRESS load (R171, R172): refusals in the order of its steps; while VPROG is low none begins (R161, log entry 56). -/
def pressLoad (src : LoadSrc) (o len : Nat) (alloc : List Nat) (s : State) : State :=
  if s.prs.load.isSome then loadNo src 0xC 0 s
  else if s.dramBytes = 0 ∨ !s.up 5 then loadNo src 9 0 s
  else match freeSlot s with
  | none => loadNo src 0xA 0 s
  | some slot =>
    let s := imgRead o 256 s
    if !imgHeaderOk s o len then loadNo src 2 slot s
    else if s.fus.sigreq && !imgSigned s o then loadNo src 7 slot (keyEvent slot 2 s)
    else
    let s := imgSections s.mem.dram o |>.foldl (fun t x => imgRead (o + x.1) x.2 t) s
    if !manifestOk s o then loadNo src 3 slot s
    else if entryTaken s o none then loadNo src 5 slot s
    else if s.rbit Reg.PRS_STAT 16 then loadNo src 0xB slot s
    else beginLoad src false o (s.mem.dram.readN (o + 16) 8) alloc slot (nextEpoch s) s

/-- The committed slot whose digest an image has (R175). -/
def slotOfDigest (s : State) (d : BitVec 256) : Option Nat :=
  (List.range 4).find? (fun n => s.slotUsed n && (match s.slotPay n with
    | some p => BitVec.ofNat 256 (leNat ((p.drop 4).take 32)) == d
    | none => false))

/-- An ATTACH load (R175): steps 1 and 2 and the checks of step 5. -/
def attachLoad (src : LoadSrc) (o len : Nat) (alloc : List Nat) (s : State) : State :=
  if s.prs.load.isSome then loadNo src 0xC 0 s
  else if s.dramBytes = 0 ∨ !s.up 5 then loadNo src 9 0 s
  else
  let s := imgRead o 256 s
  if !imgHeaderOk s o len then loadNo src 2 0 s
  else if s.fus.sigreq && !imgSigned s o then loadNo src 7 0 (keyEvent 0 2 s)
  else
  let s := imgSections s.mem.dram o |>.foldl (fun t x => imgRead (o + x.1) x.2 t) s
  if !manifestOk s o then loadNo src 3 0 s
  else
    let (d, s1) := seenDigest s o
    let slot := slotOfDigest s d
    let n := slot.getD 0
    if entryTaken s o slot then loadNo src 5 n s1
    else if slot.isNone || d != storedDigest s o then loadNo src 6 n (keyEvent n 0 s1)
    else if (Tab.find? s.prs.images n).any (fun x => x.att) then loadNo src 0xC n s1
    else if !signatureOk s o then loadNo src 7 n (keyEvent n 1 s1)
    else if s.rbit Reg.PRS_STAT 16 then loadNo src 0xB n s1
    else beginLoad src true o (s.mem.dram.readN (o + 16) 8) alloc n (s.slotEpoch n) s1

/-- Runs a load for its source: a host command brings its own operands and MODE (Table HST-8). -/
def runLoad (attach : Bool) (src : LoadSrc) (off len : Nat) (alloc : List Nat) (s : State) : State :=
  let go := fun (o n : Nat) => if attach then attachLoad src o n alloc s else pressLoad src o n alloc s
  if !s.up 4 then s else
  match src with
  | .fw => go off len
  | .host q tag => match s.findCmd q.val tag 1 with
    | none => s
    | some c => if s.prs.load.any (fun l => l.src == src) then s else if (leNat ((c.raw.drop 24).take 1) == 1) == attach then go (leNat ((c.raw.drop 8).take 8)) (leNat ((c.raw.drop 16).take 8)) else s

/-- LOAD_PRESS. -/
def execLoadPress (src : LoadSrc) (off len : W64) (alloc : List Nat) (s : State) : Out := .next (runLoad false src off.toNat len.toNat alloc s)

/-- LOAD_ATTACH. -/
def execLoadAttach (src : LoadSrc) (off len : W64) (alloc : List Nat) (s : State) : Out := .next (runLoad true src off.toNat len.toNat alloc s)

/-! ## Ending a load -/

/-- Copies the outlier section and the epilogue of a layer copy to the core buffers of the cores that hold its arrays (R169). -/
def copyLists (o e copy : Nat) (s : State) : State :=
  let m := s.mem.dram
  let x := manAt m o e
  let cores := ((List.range x.count).map (x.coreOf copy)).eraseDups
  cores.foldl (fun t c =>
    let t1 := if x.skim then (imgRead (o + m.readN (o + 40) 8 + x.ooff) x.olen t).writeFx 1 (spAddr c 1 x.odst) (m.read (o + m.readN (o + 40) 8 + x.ooff) x.olen) 0 else t
    (imgRead (secAt m o e x.count) x.epilen t1).writeFx 1 (spAddr c 1 x.epidst) (m.read (secAt m o e x.count) x.epilen) 0) s

/-- Copies the lists and epilogues of an image. -/
def copyAllLists (o : Nat) (s : State) : State :=
  (List.range (imgLayers s.mem.dram o)).foldl (fun t e => (List.range (manAt s.mem.dram o e).copies).foldl (fun u c => copyLists o e c u) t) s

/-- The payload of a committed slot record (R404). -/
def slotPayload (s : State) (l : LoadJob) : List Byte :=
  leBytes 2 1 ++ leBytes 2 l.epoch ++ leBytes 32 (imgDigest s l.img.off).toNat ++ s.mem.dram.read (l.img.off + 96) 32
    ++ leBytes 8 l.img.off ++ leBytes 8 l.img.len

/-- The spares that an attached image holds beside those that its attach took: those that it held when it was detached, or that the start did without
(R176, R179). -/
def sparesBefore (l : LoadJob) (s : State) : Tab Nat := match Tab.find? s.prs.images l.slot with
  | some x => x.borrow
  | none => if l.attach then heldSpares s (fun c => onCore s.mem.dram l.img.off c (fun _ => true)) else []

/-- Steps 6 and 7: the slot record for a PRESS load, layer map entries, event 0x0304 and the completion (R172). -/
def commitLoad (l : LoadJob) (s0 : State) : State :=
  let old := sparesBefore l s0
  let img := { l.img with borrow := addTab old l.img.borrow }
  let s := if (Tab.find? s0.prs.images l.slot).isSome then s0 else s0.takeGap old
  let s1 := if l.attach then s else
    let r := s.abRead (abSlot l.slot)
    r.1.abWriteNow (abSlot l.slot) r.2 (slotPayload s l)
  let s2 := l.img.places.foldl (fun t p => putPlace l.img.off l.slot (!p.pool) p t) s1
  let s3 := { s2 with prs := { s2.prs with load := none, images := Tab.insert s2.prs.images l.slot img } }
  let s4 := s3.raise 0x0304 0 0x200 (l.slot + 256 * b2n l.attach + 2 ^ 16 * l.begun.length + 2 ^ 64 * (s.since l.at' % 2 ^ 32))
  loadEnd l.src 1 (b2n l.attach) l.slot s4

/-- Whether a load has pressed and churned all its arrays. -/
def loadReady (s : State) (l : LoadJob) : Bool :=
  l.todo.isEmpty && l.begun.all (fun a => (s.arr a).press.isNone) && (l.img.places.filter (fun p => !p.pool)).all (fun p => s.serving p.arr)

/-- The step of Table PRS-6 that a load has come to: 3 while first records are written, 4 while arrays are pressed and churned, 5 after that. Steps 1
and 2 lie within the load's acceptance, 6 and 7 within LOAD_VERIFY. -/
def loadStep (s : State) : Nat := match s.prs.load with
  | none => 0
  | some l => if loadReady s l then 5 else if l.begun.any (recWaits s) && l.begun.all (fun a => (s.arr a).press.isNone) then 3 else 4

/-- LOAD_VERIFY: step 5 and what follows it, once the store can take the slot record (R397, R399); an attach has had its checks (R172, R175, R472; log
entry 58). -/
def verifyLoad (l : LoadJob) (s : State) : State :=
  if !loadReady s l || s.rst.bowarn || !s.nvs.ready then s else
  let s0 := copyAllLists l.img.off s
  if l.attach then commitLoad l s0 else
  let (d, s1) := seenDigest s0 l.img.off
  if d != storedDigest s1 l.img.off then refuseLoad 6 (keyEvent l.slot 0 s1)
  else if s1.fus.sigreq && !imgSigned s1 l.img.off then refuseLoad 7 (keyEvent l.slot 2 s1)
  else if !signatureOk s1 l.img.off then refuseLoad 7 (keyEvent l.slot 1 s1)
  else commitLoad l s1

/-- LOAD_VERIFY. -/
def execLoadVerify (s : State) : Out :=
  .next (s.when (s.up 4) (match s.prs.load with
    | some l => verifyLoad l s
    | none => s))

/-! ## Unloading -/

/-- Whether a context with a bound stream holds a valid entry of a slot (R176). -/
def slotInUse (s : State) (slot : Nat) : Bool :=
  (List.range 32).any (fun c =>
    let mask := (List.range 4).filter (fun k => s.rbit (Reg.SEQ_CTX_CFG (c * 4 + k)) 0)
    !mask.isEmpty && (List.range 1024).any (fun i =>
      let e := s.entry c i
      eVALID e && eSLOT e == slot && mask.any (fun k => bit e (16 + k))))

/-- Takes an array that a reload or a repair of the slot is pressing out of press. -/
def endPressOf (slot : Nat) (s : State) : State :=
  (s.arrs.filterMap (fun e => match e.2.press with
    | some j => if j.slot = slot then some e.1 else none
    | none => none)).foldl (fun t a => dropArr a t) s

/-- The unloading of a slot (R176): the record is written empty with its EPOCH, the range is unlocked, spares return, and the image's entries are
not valid. Of an image not attached since the start, the spares that return are those that its arrays kept the start from setting aside. -/
def unloadSlot (src : LoadSrc) (slot : Nat) (s : State) : State :=
  if s.prs.load.isSome || slotInUse s slot then loadEnd src 2 0xC slot s
  else if s.rst.bowarn || !s.nvs.ready then s else
  let ep := s.slotEpoch slot
  let r := s.abRead (abSlot slot)
  let s1 := r.1.abWriteNow (abSlot slot) r.2 (leBytes 2 0 ++ leBytes 2 ep ++ leBytes 80 0)
  let s2 := (endPressOf slot s1).mapEntries (fun _ e => eSLOT e == slot) (fun e => e &&& ~~~1#128)
  let known := Tab.find? s2.prs.images slot
  let back := match known with
    | some x => x.borrow
    | none => heldSpares s (fun c => ((List.range 64).filter (fun l => s.committed (c * 64 + l) && pSLOT (s.prec (c * 64 + l)) == slot)).length)
  let p := s2.prs
  let s3 := { s2 with prs := { p with images := Tab.erase p.images slot, rld := (match p.rld with | some q => if q.slot = slot then none else some q | none => none), reps := p.reps.filter (fun q => q.slot != slot) }, reqs := s2.reqs.filter (fun q => q.1 != slot) }
  loadEnd src 2 0 slot (giveBack back (if known.isSome then s3 else s3.takeGap back))

/-- UNLOAD. -/
def execUnload (src : LoadSrc) (slot : Fin 4) (s : State) : Out :=
  .next (s.when (s.up 4) (match src with
    | .fw => unloadSlot src slot.val s
    | .host q tag => match s.findCmd q.val tag 2 with
      | none => s
      | some c => unloadSlot src (leNat ((c.raw.drop 8).take 1) % 4) s))

/-! ## Locked ranges -/

/-- Whether a DRAM range meets the range of an attached image or of a load in progress (R171). -/
def State.imgLocked (s : State) (o n : Nat) : Bool :=
  s.prs.images.any (fun e => e.2.att && overlap o n e.2.off e.2.len) || s.prs.load.any (fun l => overlap o n l.img.off l.img.len)

end Sys2Proof.Machine
end

