-- ==== Sys2Proof/Machine/Engine.lean ====
section
/-!
DEFINITION. The transform, vector and check engines and the DMA channels: issue, ordering, effects (R239 to R242, R247, R253, R268 to R275).
-/
namespace Sys2Proof.Machine

/-! ## Reading and writing -/

/-- Reads several ranges of a space at once: each line and group they meet is corrected or reported once (R253). -/
def State.readMany (s : State) (sp : Nat) (rs : List (Nat × Nat)) (port : Nat) : State :=
  let hit := fun (e : Nat × Bool) => rs.any (fun r => overlap (8 * e.1) 8 r.1 r.2)
  ((s.memOf sp).ecc.filter (fun e => e.2 && hit e)).foldl (fun t e => t.eccUnc sp e.1 port 0) (s.correct sp hit)

/-- The parts of ranges that lie in a space. -/
def inSpace (sp : Nat) (rs : List Rng) : List (Nat × Nat) := (rs.filter (fun r => r.sp == sp)).map (fun r => (r.lo, r.len))

/-- Reads ranges of any space: the state after, and whether a byte met an uncorrectable error or a domain in reset (R253, R421). -/
def State.readRngs (s : State) (core : Nat) (rs : List Rng) (port : Nat) : State × Bool :=
  let bad := rs.any (fun r => s.bad r.sp r.lo r.len || !s.spUp core r.sp)
  ([0, 1, 2].foldl (fun t sp => t.readMany sp (inSpace sp rs) port) s, bad)

/-- Runs of a byte list that a condition on the address lets through. -/
def openRuns (shut : Nat → Bool) : Nat → List Byte → List (Nat × List Byte)
  | _, [] => []
  | a, b :: r =>
    let t := openRuns shut (a + 1) r
    if shut a then t
    else match t with
      | (a', l) :: t' => if a' = a + 1 then (a, b :: l) :: t' else (a, [b]) :: t
      | [] => [(a, [b])]

/-- A host or DMA write to DRAM: bytes in a locked image range are discarded, with event 0x0308 (R171). -/
def State.dramPut (s : State) (a : Nat) (bs : List Byte) (port : Nat) : State :=
  if !s.imgLocked a bs.length then s.writeFx 2 a bs port
  else
    let first := ((List.range bs.length).find? (fun i => s.imgLocked (a + i) 1)).getD 0
    let s1 := (openRuns (fun x => s.imgLocked x 1) a bs).foldl (fun t r => t.writeFx 2 r.1 r.2 port) s
    s1.raise 0x0308 1 0x200 (a + first)

/-- Writes bytes of a space, by DMA or by an engine; and whether an error response or a partly covered uncorrectable group kept its bytes. -/
def State.engPut (s : State) (dma : Bool) (core port sp a : Nat) (bs : List Byte) : State × Bool :=
  if dma && sp == 2 then
    if !s.up 5 then (s, true) else (s.dramPut a bs port, s.partBadAt 2 a bs.length && !s.imgLocked a bs.length)
  else s.putBytes core port sp a bs

/-- A row that an engine writes: descriptor, row, elements from column 0, block-scale entries. -/
structure OutRow where
  d : Desc
  r : Nat × Nat × Nat
  raws : List Nat
  ents : List Nat

/-- Writes a row. -/
def State.engRow (s : State) (dma : Bool) (core port : Nat) (o : OutRow) : State × Bool :=
  let ro := o.d.rowAt o.r.1 o.r.2.1 o.r.2.2
  let r1 := s.engPut dma core port o.d.sp ro (elemBytes s core o.d ro 0 o.raws)
  if o.d.bsp = 0 then r1 else
  let r2 := r1.1.engPut dma core port o.d.sp (o.d.entAt (o.d.rowIx o.r.1 o.r.2.1 o.r.2.2) 0) (o.ents.flatMap (leBytes 2))
  (r2.1, r1.2 || r2.2)

/-- Writes rows in order. -/
def State.engRows (s : State) (dma : Bool) (core port : Nat) (l : List OutRow) : State × Bool :=
  l.foldl (fun p o => let q := p.1.engRow dma core port o; (q.1, p.2 || q.2)) (s, false)

/-- A row of converted values for a descriptor. -/
def outRow (d : Desc) (rtz : Bool) (r : Nat × Nat × Nat) (vs : List Val) : OutRow × Nat :=
  let c := convVals d rtz vs
  (⟨d, r, c.raws, c.ents⟩, c.sat)

/-- A row of 32-bit index words. -/
def ixRow (d : Desc) (r : Nat × Nat × Nat) (l : List Nat) : OutRow := ⟨d, r, l, []⟩

/-! ## Parts of tensors -/

/-- Whether a tensor's space or BSP cannot be used, or elements below n0, n1, n2, n3, or the block-scale entries they use, lie outside the space
(R229). -/
def Desc.partBadRange (d : Desc) (s : State) (n0 n1 n2 n3 : Nat) : Bool :=
  d.spaceBad s || (decide (0 < n0) && (decide (d.rowAt (n1 - 1) (n2 - 1) (n3 - 1) + (n0 * fmtBits d.fmt + 7) / 8 > s.spSize d.sp)
    || (d.bsp != 0 && decide (d.entAt (d.rowIx (n1 - 1) (n2 - 1) (n3 - 1)) ((n0 + 31) / 32) > s.spSize d.sp))))

/-- The ranges of elements below n0, n1, n2, n3 and of their block-scale entries, from the lowest to the highest byte (R269). -/
def Desc.partRngs (d : Desc) (core n0 n1 n2 n3 : Nat) : List Rng :=
  if n0 = 0 then [] else
  ⟨d.sp, spAddr core d.sp d.base, d.rowAt (n1 - 1) (n2 - 1) (n3 - 1) + (n0 * fmtBits d.fmt + 7) / 8 - d.base⟩ ::
    (if d.bsp = 0 then [] else [⟨d.sp, spAddr core d.sp (16 * d.bsp), d.entAt (d.rowIx (n1 - 1) (n2 - 1) (n3 - 1)) ((n0 + 31) / 32) - 16 * d.bsp⟩])

/-- The bytes of one row and of its block-scale entries. -/
def Desc.rowReads (d : Desc) (core : Nat) (r : Nat × Nat × Nat) : List Rng :=
  ⟨d.sp, spAddr core d.sp (d.rowAt r.1 r.2.1 r.2.2), d.rowBytes⟩ ::
    (if d.bsp = 0 then [] else [⟨d.sp, spAddr core d.sp (d.entAt (d.rowIx r.1 r.2.1 r.2.2) 0), 2 * d.blocks⟩])

/-- Whether two tensors have the same rows. -/
def sameRows (a b : Desc) : Bool := a.dim1 == b.dim1 && a.dim2 == b.dim2 && a.dim3 == b.dim3

/-- Whether two tensors have one shape. -/
def sameShape (a b : Desc) : Bool := a.dim0 == b.dim0 && sameRows a b

/-! ## The queues -/

/-- An engine's queue. -/
def State.engq (s : State) (e : Nat) : EngQ := Tab.getD s.eng.q e ⟨[], []⟩

/-- Replaces an engine's queue. -/
def State.setEngq (s : State) (e : Nat) (q : EngQ) : State := { s with eng := { s.eng with q := Tab.setD s.eng.q e ⟨[], []⟩ q } }

/-- Capacity of an engine's queue (R268). -/
def engCap (e : Nat) : Nat := if e = 0 then 32 else 16

/-- Whether an engine's queue has room. -/
def State.engRoom (s : State) (e : Nat) : Bool := decide ((s.engq e).queue.length < engCap e)

/-- Issues an engine instruction: it holds issue while 16 are tracked or its queue is full (R268, R269, R225). -/
def engIssue (i op : Nat) (w : BitVec 56) (e : Option Nat) (ds : List (BitVec 256)) (xs : List W64) (rd wr : List Rng) (hold : Option Nat)
    (s : State) : Res :=
  let c := s.ctx i
  match e with
  | none => .hold
  | some e =>
    if !s.engRoom e || decide (16 ≤ (c.works.filter (fun x => x.eng)).length) then .hold
    else
      let q := s.engq e
      let c1 := c.addWork rd wr (!wr.isEmpty) true
      let c2 := if hold.isSome then { c1 with hold := .dig c.nextId } else c1
      .ok ((s.setCtx i c2).setEngq e { q with queue := q.queue ++ [⟨i, c.nextId, op, w, ds, xs⟩] })

/-! ## MOV, GATH, SCAT, WARP -/

/-- The descriptors of a move: DD, DS, DI. -/
def mDD (w : BitVec 56) : Nat := fw w 50 47
def mDS (w : BitVec 56) : Nat := fw w 46 43
def mDI (w : BitVec 56) : Nat := fw w 42 39

/-- The body of MOV. -/
def movBody (i : Nat) (w : BitVec 56) (s : State) : Res :=
  let c := s.ctx i
  let core := i / 4
  let dd := descOf (c.dreg (mDD w))
  let ds := descOf (c.dreg (mDS w))
  if dd.formatBad || ds.formatBad || !sameShape dd ds then .trap 4
  else if ds.partBadRange s ds.dim0 ds.dim1 ds.dim2 ds.dim3 || dd.partBadRange s dd.dim0 dd.dim1 dd.dim2 dd.dim3 then .trap 3
  else engIssue i 0x45 w (some 0) [c.dreg (mDD w), c.dreg (mDS w)] [] (ds.partRngs core ds.dim0 ds.dim1 ds.dim2 ds.dim3)
    (dd.partRngs core dd.dim0 dd.dim1 dd.dim2 dd.dim3) none s

/-- MOV. -/
def execMov (k : CtxId) (w : BitVec 56) (s : State) : Out :=
  issue k w (fw w 41 0 == 0) (dNeeds [mDD w, mDS w]) (movBody (ctxIx k) w) s

/-- The body of GATH and SCAT: the tensor indexed (S for GATH, D for SCAT) has rows x_i, the other rows 0 to DI.DIM0 − 1. -/
def gatherBody (scat : Bool) (i : Nat) (w : BitVec 56) (s : State) : Res :=
  let c := s.ctx i
  let core := i / 4
  let dd := descOf (c.dreg (mDD w))
  let ds := descOf (c.dreg (mDS w))
  let di := descOf (c.dreg (mDI w))
  let n := di.dim0
  let (ix, sq) := if scat then (dd, ds) else (ds, dd)
  if dd.formatBad || ds.formatBad || di.formatBad || di.fmt != 3 || ds.dim0 != dd.dim0 || decide (sq.dim1 < n) then .trap 4
  else if ix.partBadRange s ix.dim0 ix.dim1 1 1 || sq.partBadRange s sq.dim0 n 1 1 || di.spaceBad s || di.plain.partBadRange s n 1 1 1 then .trap 3
  else
    let ri := ix.partRngs core ix.dim0 ix.dim1 1 1
    let rs := sq.partRngs core sq.dim0 n 1 1
    let rx := di.plain.partRngs core n 1 1 1
    engIssue i (if scat then 0x47 else 0x46) w (some 1) [c.dreg (mDD w), c.dreg (mDS w), c.dreg (mDI w)] []
      (if scat then rs ++ rx else ri ++ rx) (if scat then ri else rs) none s

/-- GATH. -/
def execGath (k : CtxId) (w : BitVec 56) (s : State) : Out :=
  issue k w (fw w 37 0 == 0) (dNeeds [mDD w, mDS w, mDI w]) (gatherBody false (ctxIx k) w) s

/-- SCAT. -/
def execScat (k : CtxId) (w : BitVec 56) (s : State) : Out :=
  issue k w (fw w 37 0 == 0) (dNeeds [mDD w, mDS w, mDI w]) (gatherBody true (ctxIx k) w) s

/-- The body of WARP (R240, Table TNK-5). -/
def warpBody (i : Nat) (w : BitVec 56) (s : State) : Res :=
  let c := s.ctx i
  let core := i / 4
  let dd := descOf (c.dreg (mDD w))
  let ds := descOf (c.dreg (mDS w))
  let h := (c.sreg (fw w 42 38)).toNat
  if dd.formatBad || ds.formatBad || ds.dim2 != dd.dim2 || decide (dd.dim0 > 4096) || decide (dd.dim1 > 4096) || decide (ds.dim2 > 16)
      || ds.dim3 != 1 || dd.dim3 != 1 then .trap 4
  else if ds.partBadRange s ds.dim0 ds.dim1 ds.dim2 1 || dd.partBadRange s dd.dim0 dd.dim1 dd.dim2 1 || h % 4 != 0 || decide (h + 36 > 2 ^ 21) then .trap 3
  else engIssue i 0x48 w (some 1) [c.dreg (mDD w), c.dreg (mDS w)] [BitVec.ofNat 64 h]
    (⟨1, spAddr core 1 h, 36⟩ :: ds.partRngs core ds.dim0 ds.dim1 ds.dim2 1) (dd.partRngs core dd.dim0 dd.dim1 dd.dim2 1) none s

/-- WARP. -/
def execWarp (k : CtxId) (w : BitVec 56) (s : State) : Out :=
  issue k w (fw w 36 0 == 0) (sNeeds [fw w 42 38] ++ dNeeds [mDD w, mDS w]) (warpBody (ctxIx k) w) s

/-! ## Vector instructions -/

/-- The fields of Table INS-13. -/
def vDB (w : BitVec 56) : Nat := fw w 42 39
def vFN (w : BitVec 56) : Nat := fw w 38 35
def vENG (w : BitVec 56) : Nat := fw w 34 33
def vRS (w : BitVec 56) : Nat := fw w 32 28
def vRT (w : BitVec 56) : Nat := fw w 27 23
def vK (w : BitVec 56) : Nat := fw w 15 0

/-- The engine that accepts a vector instruction (R241, R268). -/
def vecEngine (s : State) (w : BitVec 56) : Option Nat :=
  if vENG w = 1 then some 2 else if vENG w = 2 then some 3
  else if s.engRoom 2 then some 2 else if s.engRoom 3 then some 3 else none

/-- Legal: FN below a bound, ENG not reserved, bits [21:16] 0 (R223). -/
def legalV (fns : Nat) (w : BitVec 56) : Bool := decide (vFN w < fns) && vENG w != 3 && fw w 21 16 == 0

/-- How a vector instruction uses its operands: whether DB is read, whether it is written, the format condition beyond R229, and the elements of DD
and DB that it addresses as (n0, n1, n2, n3). -/
structure VecUse where
  rdB : Bool
  wrB : Bool
  bad : Bool
  nd : Nat × Nat × Nat × Nat
  nb : Nat × Nat × Nat × Nat

/-- The whole of a tensor. -/
def Desc.all (d : Desc) : Nat × Nat × Nat × Nat := (d.dim0, d.dim1, d.dim2, d.dim3)

/-- The rows of a tensor, n0 elements of each. -/
def Desc.cols (d : Desc) (n0 : Nat) : Nat × Nat × Nat × Nat := (n0, d.dim1, d.dim2, d.dim3)

/-- The uses of each vector instruction (Table INS-14, Table TNK-5). -/
def vecUse (op : Nat) (w : BitVec 56) (dd da db : Desc) : VecUse :=
  let none' := (0, 1, 1, 1)
  if op = 0x50 then
    let u := vFN w != 5
    ⟨u, false, !sameShape dd da || (u && !(db.dim0 == da.dim0 && (sameRows db da || (db.dim1 == 1 && db.dim2 == 1 && db.dim3 == 1)))), dd.all, if u then db.all else none'⟩
  else if op = 0x51 then
    let u := vFN w == 1 || vFN w == 2
    ⟨false, u, !sameRows dd da || (u && (!sameRows db da || db.fmt != 7)), dd.cols 1, if u then db.cols 1 else none'⟩
  else if op = 0x52 then ⟨false, false, !sameShape dd da || decide (da.dim0 > 16384), dd.all, none'⟩
  else if op = 0x53 then
    let n := if vFN w = 0 then 2 else 1
    ⟨true, false, !sameShape dd da || decide (da.dim0 > 16384) || db.dim0 != da.dim0 || decide (db.dim1 < n), dd.all, (db.dim0, n, 1, 1)⟩
  else if op = 0x54 then ⟨false, false, !sameShape dd da, dd.all, none'⟩
  else if op = 0x55 then
    let k := vK w
    ⟨false, true, !sameRows dd da || !sameRows db da || db.fmt != 7 || k == 0 || decide (k > da.dim0) || decide (k > 1024) || decide (dd.dim0 < k) || decide (db.dim0 < k), dd.cols k, db.cols k⟩
  else if op = 0x56 then ⟨false, true, !sameShape dd da || !sameShape db da || db.fmt != 7 || decide (da.dim0 > 4096), dd.all, db.all⟩
  else ⟨false, false, da.dim0 != 5 || decide (da.dim1 > 8192) || decide (vK w > 1024) || dd.fmt != 7 || decide (dd.dim0 < vK w), (vK w, 1, 1, 1), none'⟩

/-- The body of a vector instruction. -/
def vecBody (op i : Nat) (w : BitVec 56) (s : State) : Res :=
  let c := s.ctx i
  let core := i / 4
  let dd := descOf (c.dreg (mDD w))
  let da := descOf (c.dreg (mDS w))
  let db := descOf (c.dreg (vDB w))
  let u := vecUse op w dd da db
  let usesB := u.rdB || u.wrB
  let bad := fun (d : Desc) (n : Nat × Nat × Nat × Nat) => d.partBadRange s n.1 n.2.1 n.2.2.1 n.2.2.2
  let rng := fun (d : Desc) (n : Nat × Nat × Nat × Nat) => d.partRngs core n.1 n.2.1 n.2.2.1 n.2.2.2
  if dd.formatBad || da.formatBad || (usesB && db.formatBad) || u.bad then .trap 4
  else if bad da da.all || bad dd u.nd || (usesB && bad db u.nb) then .trap 3
  else engIssue i op w (vecEngine s w) [c.dreg (mDD w), c.dreg (mDS w), c.dreg (vDB w)] [c.sreg (vRS w), c.sreg (vRT w)]
    (rng da da.all ++ if u.rdB then rng db u.nb else []) (rng dd u.nd ++ if u.wrB then rng db u.nb else []) none s

/-- The registers a vector instruction reads (Table INS-14). -/
def vecNeeds (op : Nat) (w : BitVec 56) : List LoadDst :=
  let rs := (op == 0x50 && vFN w == 5) || op == 0x53 || op == 0x57
  let db := (op == 0x50 && vFN w != 5) || (op == 0x51 && (vFN w == 1 || vFN w == 2)) || op == 0x53 || op == 0x55 || op == 0x56
  sNeeds ((if rs then [vRS w] else []) ++ (if op == 0x50 && vFN w == 5 then [vRT w] else []))
    ++ dNeeds ([mDD w, mDS w] ++ (if db then [vDB w] else []))

/-- Issues a vector instruction. -/
def vecExec (op fns : Nat) (k : CtxId) (w : BitVec 56) (s : State) : Out :=
  issue k w (legalV fns w) (vecNeeds op w) (vecBody op (ctxIx k) w) s

/-- VEW. -/
def execVew (k : CtxId) (w : BitVec 56) (s : State) : Out := vecExec 0x50 6 k w s
/-- VRED. -/
def execVred (k : CtxId) (w : BitVec 56) (s : State) : Out := vecExec 0x51 4 k w s
/-- VSMAX. -/
def execVsmax (k : CtxId) (w : BitVec 56) (s : State) : Out := vecExec 0x52 1 k w s
/-- VNORM. -/
def execVnorm (k : CtxId) (w : BitVec 56) (s : State) : Out := vecExec 0x53 2 k w s
/-- VFN. -/
def execVfn (k : CtxId) (w : BitVec 56) (s : State) : Out := vecExec 0x54 5 k w s
/-- VTOPK. -/
def execVtopk (k : CtxId) (w : BitVec 56) (s : State) : Out := vecExec 0x55 1 k w s
/-- VSORT. -/
def execVsort (k : CtxId) (w : BitVec 56) (s : State) : Out := vecExec 0x56 2 k w s
/-- VNMS. -/
def execVnms (k : CtxId) (w : BitVec 56) (s : State) : Out := vecExec 0x57 1 k w s

/-! ## What an instruction reads, and its results -/

/-- Descriptor n of a job. -/
def EngJob.d (j : EngJob) (n : Nat) : Desc := descOf ((j.ds[n]?).getD 0)

/-- Scalar n of a job as FP32. -/
def EngJob.f (j : EngJob) (n : Nat) : W32 := BitVec.ofNat 32 ((j.xs[n]?).getD 0).toNat

/-- The core of a job. -/
def EngJob.core (j : EngJob) : Nat := j.ctx / 4

/-- RND of an instruction. -/
def EngJob.rtz (j : EngJob) : Bool :=
  if j.op = 0x45 then bit j.w 42 else if j.op = 0x46 ∨ j.op = 0x47 then bit j.w 38 else if j.op = 0x48 then bit j.w 37 else bit j.w 22

/-- The indices of a GATH or SCAT as unsigned 16-bit values. -/
def EngJob.indices (j : EngJob) (s : State) : List Nat :=
  let di := j.d 2
  (List.range di.dim0).map (fun n => rawAt (s.memOf di.sp) 3 (spAddr j.core di.sp di.base) n)

/-- The homography of a WARP. -/
def EngJob.homog (j : EngJob) (s : State) : List W32 :=
  let h := spAddr j.core 1 ((j.xs[0]?).getD 0).toNat
  (List.range 9).map (fun n => BitVec.ofNat 32 (s.num 1 (h + 4 * n) 4))

/-- The four source pixels of each destination pixel of a WARP that lie inside the source. -/
def EngJob.warpTaps (j : EngJob) (s : State) : List (Nat × Nat) :=
  let dd := j.d 0
  let ds := j.d 1
  (List.range dd.dim1).flatMap (fun y => (List.range dd.dim0).flatMap (fun x =>
    match warpPoint (j.homog s) x y with
    | none => []
    | some (px, py) =>
      if !(f32Fin px && f32Fin py) then [] else
      let tap := fun (a b : Int) => if 0 ≤ a ∧ 0 ≤ b ∧ a < ds.dim0 ∧ b < ds.dim1 then [(a.toNat, b.toNat)] else []
      let fx := floorF px
      let fy := floorF py
      tap fx fy ++ tap (fx + 1) fy ++ tap fx (fy + 1) ++ tap (fx + 1) (fy + 1)))

/-- The rows of DB that a vector instruction reads. -/
def EngJob.rowsB (j : EngJob) : List (Nat × Nat × Nat) :=
  let u := vecUse j.op j.w (j.d 0) (j.d 1) (j.d 2)
  if u.rdB then (if j.op = 0x53 then (List.range u.nb.2.1).map (fun n => (n, 0, 0)) else (j.d 2).rows) else []

/-- The bytes an instruction reads (R232). -/
def EngJob.reads (j : EngJob) (s : State) : List Rng :=
  let core := j.core
  let whole := fun (d : Desc) => d.rows.flatMap (d.rowReads core)
  if j.op = 0x45 then whole (j.d 1)
  else if j.op = 0x46 then
    (j.d 2).plain.partRngs core (j.d 2).dim0 1 1 1 ++ ((j.indices s).filter (fun x => decide (x < (j.d 1).dim1))).flatMap (fun x => (j.d 1).rowReads core (x, 0, 0))
  else if j.op = 0x47 then
    (j.d 2).plain.partRngs core (j.d 2).dim0 1 1 1 ++ (List.range (j.d 2).dim0).flatMap (fun x => (j.d 1).rowReads core (x, 0, 0))
  else if j.op = 0x48 then
    let ds := j.d 1
    ⟨1, spAddr core 1 ((j.xs[0]?).getD 0).toNat, 36⟩ :: ((j.warpTaps s).eraseDups.flatMap (fun p => (List.range ds.dim2).flatMap (fun ch =>
      ⟨ds.sp, spAddr core ds.sp (ds.colLo (ds.rowAt p.2 ch 0) p.1), fmtBytes ds.fmt⟩ ::
        (if ds.bsp = 0 then [] else [⟨ds.sp, spAddr core ds.sp (ds.entAt (ds.rowIx p.2 ch 0) (p.1 / 32)), 2⟩]))))
  else
    whole (j.d 1) ++ j.rowsB.flatMap ((j.d 2).rowReads core)

/-- What an instruction writes: rows, saturations, out-of-range indices. -/
structure EngOut where
  rows : List OutRow
  sat : Nat
  range : Nat

/-- Rows with their saturation counts as an outcome. -/
def engOut (l : List (OutRow × Nat)) (range : Nat) : EngOut := ⟨l.map (fun p => p.1), (l.map (fun p => p.2)).foldl (fun a b => a + b) 0, range⟩

/-- A source pixel of a WARP as FP32, and whether it saturates; outside the source it counts as 0. -/
def EngJob.tap (j : EngJob) (s : State) (ch : Nat) (x y : Int) : W32 × Bool :=
  let ds := j.d 1
  if 0 ≤ x ∧ 0 ≤ y ∧ x < ds.dim0 ∧ y < ds.dim1 then inF32 (elemVal s j.core ds (y.toNat, ch, 0) x.toNat) else (0, false)

/-- A source pixel of a WARP. -/
def EngJob.pixel (j : EngJob) (s : State) (ch : Nat) (x y : Int) : W32 := (j.tap s ch x y).1

/-- How many source pixels of the blends of a WARP saturate on their way to FP32; a pixel is counted for each blend that uses it (R24, log entry
107). -/
def EngJob.tapSat (j : EngJob) (s : State) : Nat :=
  let ds := j.d 1
  (List.range ds.dim2).foldl (fun n ch => n + (j.warpTaps s).countP (fun p => (j.tap s ch p.1 p.2).2)) 0

/-- Adds saturations to an outcome. -/
def EngOut.addSat (o : EngOut) (n : Nat) : EngOut := { o with sat := o.sat + n }

/-- A destination pixel at its sample point: NaN, as all the blend's arithmetic on a NaN is, when a coordinate is NaN (R21); free at an infinite point
(R240). -/
def warpPixel (at' : Int → Int → W32) (px py : W32) : W32 :=
  if f32IsNaN px || f32IsNaN py then f32NaN else if f32Fin px && f32Fin py then sample at' px py else Config.warpOpen px py

/-- Results of MOV, GATH, SCAT and WARP (R239, R240). -/
def EngJob.moved (j : EngJob) (s : State) : EngOut :=
  let dd := j.d 0
  let ds := j.d 1
  let core := j.core
  if j.op = 0x45 then engOut (dd.rows.map (fun r => outRow dd j.rtz r (rowVals s core ds r))) 0
  else if j.op = 0x46 then
    let ix := j.indices s
    let far := fun (x : Nat) => decide (ds.dim1 ≤ x)
    engOut ((List.range ix.length).map (fun n =>
      let x := (ix[n]?).getD 0
      outRow dd j.rtz (n, 0, 0) (if far x then List.replicate dd.dim0 (.fin false 0 1) else rowVals s core ds (x, 0, 0)))) (ix.filter far).length
  else if j.op = 0x47 then
    let ix := j.indices s
    let far := fun (x : Nat) => decide (dd.dim1 ≤ x)
    engOut ((List.range ix.length).filterMap (fun n =>
      let x := (ix[n]?).getD 0
      if far x then none else some (outRow dd j.rtz (x, 0, 0) (rowVals s core ds (n, 0, 0))))) (ix.filter far).length
  else
    let h := j.homog s
    engOut (dd.rows.map (fun r => outRow dd j.rtz r ((List.range dd.dim0).map (fun x =>
      match warpPoint h x r.1 with
      | none => .fin false 0 1
      | some (px, py) => f32 (warpPixel (j.pixel s r.2.1) px py))))) 0 |>.addSat (j.tapSat s)

/-- Results of a vector instruction (R241, R242). -/
def EngJob.vector (j : EngJob) (s : State) : EngOut :=
  let dd := j.d 0
  let da := j.d 1
  let db := j.d 2
  let core := j.core
  let row := rowF32 s core da
  let put := fun (r : Nat × Nat × Nat) (l : List W32) => outRow dd j.rtz r (l.map f32)
  if j.op = 0x50 then
    let b := fun (r : Nat × Nat × Nat) => rowF32 s core db (if sameRows db da then r else (0, 0, 0))
    engOut (dd.rows.map (fun r => put r (if vFN j.w = 5 then (row r).map (fun x => fadd (fmul (j.f 0) x) (j.f 1))
      else ((row r).zip (b r)).map (fun p => ewOp (vFN j.w) p.1 p.2)))) 0
  else if j.op = 0x51 then
    engOut (da.rows.flatMap (fun r =>
      let v := reduce (vFN j.w) (row r)
      put r [v.1] :: (if vFN j.w = 1 ∨ vFN j.w = 2 then [(ixRow db r [v.2], 0)] else []))) 0
  else if j.op = 0x52 then engOut (da.rows.map (fun r => put r (softmax (row r)))) 0
  else if j.op = 0x53 then
    let g := rowF32 s core db (0, 0, 0)
    let b := if vFN j.w = 0 then rowF32 s core db (1, 0, 0) else []
    engOut (da.rows.map (fun r => put r (normRow (vFN j.w == 1) (j.f 0) (row r) g b))) 0
  else if j.op = 0x54 then engOut (da.rows.map (fun r => put r ((row r).map (fnOp (vFN j.w))))) 0
  else if j.op = 0x55 then
    engOut (da.rows.flatMap (fun r =>
      let l := (sortDesc (row r)).take (vK j.w)
      [put r (l.map (fun p => p.1)), (ixRow db r (l.map (fun p => p.2)), 0)])) 0
  else if j.op = 0x56 then
    engOut (da.rows.flatMap (fun r =>
      let l := if vFN j.w = 0 then sortAsc (row r) else sortDesc (row r)
      [put r (l.map (fun p => p.1)), (ixRow db r (l.map (fun p => p.2)), 0)])) 0
  else engOut (if vK j.w = 0 then [] else [(ixRow dd (0, 0, 0) (nms (j.f 0) (vK j.w) (da.rows.map row)), 0)]) 0

/-! ## Starting and completing -/

/-- The index of an engine. -/
def engIx : Eng → Nat
  | .mov => 0 | .xfm => 1 | .vec0 => 2 | .vec1 => 3 | .chk => 4

/-- How many instructions an engine works on at once: MOV channels 0 to 11, scan units 0 and 1 (R270, R273). -/
def engUnits (e : Nat) : Nat := if e = 0 then 12 else if e = 4 then 2 else 1

/-- The lowest free channel or unit. -/
def freeUnit (q : EngQ) (n : Nat) : Option Nat := (List.range n).find? (fun u => (Tab.find? q.run u).isNone)

/-- ENGINE_INSTRUCTION_START: the oldest instruction of a queue starts on the lowest free channel or unit, once every earlier overlapping work of
its context has completed (R268 to R270, R273); an instruction further back waits its turn. -/
def execEngineInstructionStart (e : Eng) (n : Nat) (s : State) : Out :=
  let x := engIx e
  let q := s.engq x
  .next (s.when (s.up 4) (match q.queue, freeUnit q (engUnits x) with
    | j :: r, some u => if n = 0 && (s.ctx j.ctx).writeClear j.id && (s.ctx j.ctx).readClear j.id then s.setEngq x ⟨r, Tab.insert q.run u j⟩ else s
    | _, _ => s))

/-- The tank port of an engine's channel or unit (Table TNK-1). -/
def engPort (e u : Nat) : Nat := if e = 0 then 32 + u else if e = 1 then 52 else if e = 2 then 55 else if e = 3 then 59 else 63 + u

/-- Counts an instruction's saturations and out-of-range indices (R24, R240, R272). -/
def engCount (e : Nat) (o : EngOut) (s : State) : State :=
  if e = 0 then s.incReg Reg.DMA_SAT_CNT o.sat
  else if e = 1 then (s.incReg Reg.XFM_SAT_CNT o.sat).incReg Reg.XFM_RANGE_CNT o.range
  else s.incReg (Reg.VEC_SAT_CNT (e - 2)) o.sat

/-- Ends a job's work: the poison flag of its context while it still tracks the work (R232, R253, R254). -/
def engEnd (j : EngJob) (bad : Bool) (s : State) : State :=
  (s.poisonIf j.ctx (bad && (s.ctx j.ctx).works.any (fun x => x.id == j.id))).endWork j.ctx j.id

/-- The effect of an instruction of a DMA channel, the transform engine or a vector engine. -/
def engRun (e u : Nat) (j : EngJob) (s : State) : State :=
  let port := engPort e u
  let o := if e ≤ 1 then j.moved s else (j.vector s).addSat (rowsSat s j.core (j.d 1) (j.d 1).rows + rowsSat s j.core (j.d 2) j.rowsB)
  let r := s.readRngs j.core (j.reads s) port
  let p := r.1.engRows (e == 0) j.core port o.rows
  engEnd j (r.2 || p.2) (engCount e o p.1)

/-- ENGINE_INSTRUCTION_DONE: the instruction at work on a MOV channel, or on another engine, completes. -/
def execEngineInstructionDone (e : Eng) (ch : Fin 12) (s : State) : Out :=
  let x := engIx e
  let u := if x = 0 then ch.val else 0
  let q := s.engq x
  .next (s.when (s.up 4 && x != 4) (match Tab.find? q.run u with
    | some j => engRun x u j (s.setEngq x { q with run := Tab.erase q.run u })
    | none => s))

/-! ## CRC and DIG (R247, R273 to R275) -/

/-- Legal: SPACE and POLY not reserved; bits [21:0] 0, and PD 0 for CRC. -/
def legalScan (dig : Bool) (w : BitVec 56) : Bool := fw w 40 39 != 3 && decide (fw w 38 37 < 2) && fw w 21 0 == 0 && (dig || fw w 24 22 == 0)

/-- Bytes of a check value. -/
def scanLen (w : BitVec 56) : Nat := if fw w 38 37 = 0 then 4 else 8

/-- The body of CRC and DIG. -/
def scanBody (dig : Bool) (i : Nat) (w : BitVec 56) (s : State) : Res :=
  let c := s.ctx i
  let core := i / 4
  let sp := fw w 40 39
  let a := (c.sreg (fw w 50 46)).toNat
  let n := (c.sreg (fw w 45 41)).toNat % 2 ^ 32
  let o := (c.sreg (fw w 29 25)).toNat
  if decide (a + n > s.spSize sp) || o % 8 != 0 || decide (o + scanLen w > 2 ^ 27) then .trap 3
  else
    let out : Rng := ⟨0, o, scanLen w⟩
    let rd : Rng := ⟨sp, spAddr core sp a, n⟩
    engIssue i (if dig then 0x81 else 0x80) w (some 4) [] [BitVec.ofNat 64 a, BitVec.ofNat 64 n, c.sreg (fw w 34 30), BitVec.ofNat 64 o]
      (if dig then [rd, out] else [rd]) (if dig then [] else [out]) (if dig then some 0 else none) s

/-- CRC. -/
def execCrc (k : CtxId) (w : BitVec 56) (s : State) : Out :=
  issue k w (legalScan false w) (sNeeds [fw w 50 46, fw w 45 41, fw w 34 30, fw w 29 25]) (scanBody false (ctxIx k) w) s

/-- DIG. -/
def execDig (k : CtxId) (w : BitVec 56) (s : State) : Out :=
  issue k w (legalScan true w) (sNeeds [fw w 50 46, fw w 45 41, fw w 34 30, fw w 29 25]) (scanBody true (ctxIx k) w) s

/-- The folded prefix F (R274). -/
def foldBytes (j : EngJob) : List Byte :=
  let x := fun n => ((j.xs[n]?).getD 0).toNat
  let sp := fw j.w 40 39
  (if bit j.w 36 then leBytes 8 (x 0 % 2 ^ 48 + 2 ^ 48 * sp + 2 ^ 50 * (if sp = 1 then j.core else 0)) else [])
    ++ (if bit j.w 35 then leBytes 4 (x 2) else [])

/-- The check value of a byte string; 0 for an empty one (R274). -/
def checkValue (poly : Nat) (bs : List Byte) : Nat := if bs.isEmpty then 0 else if poly = 0 then crc32c bs else crc64 bs

/-- The result of a scan, with bit 0 inverted while TST_DIGC with target 0 is armed (R306). -/
def scanValue (j : EngJob) (s : State) : Nat × State :=
  let sp := fw j.w 40 39
  let d := s.bytes sp (spAddr j.core sp ((j.xs[0]?).getD 0).toNat) ((j.xs[1]?).getD 0).toNat
  let v := checkValue (fw j.w 38 37) (foldBytes j ++ d)
  match s.pertAt 0x98 with
  | some p => if bits p.val 1 0 = 0 then (Nat.xor v 1, s.usePert 0x98) else (v, s)
  | none => (v, s)

/-- A scan finishes: CRC writes its value; DIG compares and sets its predicate (R275). -/
def scanDone (u : Nat) (j : EngJob) (s : State) : State :=
  let x := fun n => ((j.xs[n]?).getD 0).toNat
  let sp := fw j.w 40 39
  let n := scanLen j.w
  let o := x 3
  let (v, s0) := scanValue j s
  let rd : Rng := ⟨sp, spAddr j.core sp (x 0), x 1⟩
  let r := s0.readRngs j.core (if j.op = 0x81 then [rd, ⟨0, o, n⟩] else [rd]) (63 + u)
  let s1 := r.1.incWrap Reg.CHK_SCAN_CNT 1
  if j.op = 0x80 then
    let p := s1.putBytes j.core (63 + u) 0 o (leBytes n v)
    engEnd j (r.2 || p.2) p.1
  else
    let eq := s.num 0 o n == v
    engEnd j r.2 (s1.onCtx j.ctx (fun c => if c.hold = .dig j.id then (c.setP (fw j.w 24 22) eq).freed else c))

/-- SCAN_COMPLETE. -/
def execScanComplete (u : Fin 2) (s : State) : Out :=
  let q := s.engq 4
  .next (s.when (s.up 4) (match Tab.find? q.run u.val with
    | some j => scanDone u.val j (s.setEngq 4 { q with run := Tab.erase q.run u.val })
    | none => s))

/-! ## Firmware channels (R271) -/

/-- Whether a copy's range leaves its space. -/
def dmaBad (s : State) (a : W64) (n : Nat) : Bool :=
  let sp := bits a 49 48
  sp == 3 || decide (bits a 47 0 + n > s.spSize sp)

/-- Starts a copy on channel ch as its registers say: a range error sets ERR and nothing is written. -/
def dmaStart (ch : Nat) (host : Option (Nat × W32)) (s : State) : State :=
  let src := BitVec.ofNat 64 (s.reg64 (Reg.DMA_SRC ch))
  let dst := BitVec.ofNat 64 (s.reg64 (Reg.DMA_DST ch))
  let n := (s.reg (Reg.DMA_LEN ch)).toNat
  if dmaBad s src n || dmaBad s dst n then s.orReg (Reg.DMA_STAT ch) 2
  else
    let sig := if s.rbit (Reg.DMA_CTL ch) 31 then some (s.fld (Reg.DMA_CTL ch) 30 16) else none
    { s.orReg (Reg.DMA_STAT ch) 1 with eng := { s.eng with dma := Tab.insert s.eng.dma ch ⟨src, dst, n, sig, host⟩ } }

/-- DMA_GO: a write of DMA_CTL; GO is discarded while BUSY. -/
def execDmaGo (who : Who) (ch : Fin 3) (v : W32) (s : State) : Out :=
  .next (s.access who (Reg.DMA_CTL ch) (fun s =>
    let s1 := s.putMasked (Reg.DMA_CTL ch) v
    if bit v 0 && (Tab.find? s.eng.dma ch.val).isNone then dmaStart ch none s1 else s1))

/-- A copy of a firmware channel: source bytes as read, then the write, POISON, and the counter under signal-after-write (R271, R206). -/
def dmaCopy (ch : Nat) (j : DmaJob) (s : State) : State × Bool :=
  let ss := bits j.src 49 48
  let ds := bits j.dst 49 48
  let sc := bits j.src 54 50
  let dc := bits j.dst 54 50
  let rng : Rng := ⟨ss, spAddr sc ss (bits j.src 47 0), j.len⟩
  let bs := s.bytes ss rng.lo j.len
  let r := s.readRngs sc [rng] (44 + ch)
  let p := r.1.engPut true dc (44 + ch) ds (bits j.dst 47 0) bs
  let s1 := if r.2 then p.1.orReg (Reg.DMA_STAT ch) 4 else p.1
  (match j.sig with
    | some c => s1.addSync c 1
    | none => s1, r.2)

/-- DMA_COPY_COMPLETE: the copy ends, and with it the host command that asked for it (R271, R453). -/
def execDmaCopyComplete (ch : Fin 3) (s : State) : Out :=
  .next (s.when (s.up 4) (match Tab.find? s.eng.dma ch.val with
    | none => s
    | some j =>
      let c := dmaCopy ch j ({ s with eng := { s.eng with dma := Tab.erase s.eng.dma ch.val } }.clrReg (Reg.DMA_STAT ch) 1)
      match j.host with
      | none => c.1
      | some (q, tag) => match c.1.findCmd q tag 3 with
        | none => c.1
        | some h => c.1.finish q h (if c.2 then 2 else 0) (if c.2 then 2 else 0)))

/-! ## Scrubbing -/

/-- One scrubbed line of a space (R255, R257). -/
def scrubLine (sp a : Nat) (s : State) : State := s.readFx sp a 64 0 2

/-- SCRUB_TICK: the next line of the tank, and the next line of each core buffer; TINT 0 stops it (R255). -/
def execScrubTick (s : State) : Out :=
  let t := s.eng.scrub
  let c := s.eng.scrubC
  .next (s.when (s.up 4 && s.fld Reg.TNK_SCRUB 15 0 != 0)
    (let s1 := { s with eng := { s.eng with scrub := (t + 1) % 2097152, scrubC := (c + 1) % 32768 } }
     (List.range 32).foldl (fun u n => if u.coreUp n then scrubLine 1 (spAddr n 1 (64 * c)) u else u) (scrubLine 0 (64 * t) s1)))

/-- DRAM_PATROL_TICK: the next line of the DRAM; DINT 0 stops it (R257). -/
def execDramPatrolTick (s : State) : Out :=
  let n := s.dramBytes / 64
  let p := s.eng.patrol
  .next (s.when (s.up 4 && s.up 5 && s.fld Reg.TNK_SCRUB 31 16 != 0 && decide (0 < n))
    (scrubLine 2 (64 * p) { s with eng := { s.eng with patrol := (p + 1) % n } }))

/-- TNK_CLR_CNT. -/
def execTnkClrCnt (who : Who) (s : State) : Out :=
  .next (s.access who Reg.TNK_CMD (fun s => (s.setReg Reg.TNK_ECC_CNT 0).rearm 0x0D82))

end Sys2Proof.Machine
end

