-- ==== Sys2Proof/Machine/Milk.lean ====
section
/-!
DEFINITION. The milking round, test requests, health and perturbations (11_checking_release_recovery.md, R297 to R309).
-/
namespace Sys2Proof.Machine

/-- MR_UNIT_START: the next unit of a test in progress, or the first of one that is wanted; a test of the sweep gives way to one that is
wanted on another array of the core (R294, R301). -/
def execMrUnitStart (a : ArrId) (s : State) : Out :=
  let i := a.val
  let c := i / 64
  .next (s.when (s.unitOk i) (match (s.arr i).test with
    | some t => if t.unit < 8 then beginUnit i s else s
    | none =>
      if s.wanted i then beginUnit i s
      else if s.rbit Reg.TST_MR_CFG 0 && s.mr.due == some i && !(List.range 64).any (fun l => s.wanted (c * 64 + l) && s.unitOk (c * 64 + l)) then beginUnit i s
      else s))

/-! ## Vectors -/

/-- The amplitude of an address vector under a shift (R299). -/
def addrAmp (sh : Nat) : Int := (127 / 2 ^ sh : Nat)

/-- The inputs of vector v of a test under a shift: zero, the two address vectors of each bit of the row index, and 29 LFSR vectors; 0 in the rows of
disabled segments (R299). -/
def testInpAt (a sweep seg v sh : Nat) : List Int :=
  (List.range 512).map (fun r =>
    if nbits seg (segOf r) (segOf r) = 0 ∨ v = 0 then 0
    else if v < 19 then (if (nbits r ((v - 1) / 2) ((v - 1) / 2) == 1) == ((v - 1) % 2 == 0) then addrAmp sh else -(addrAmp sh))
    else (Config.testByte a sweep (v - 19) r).toInt / (2 ^ sh : Nat))

/-- The largest shift of a vector (R299). -/
def topShift (v : Nat) : Nat := if v < 19 then 6 else 7

/-- The inputs of vector v: the smallest shift that keeps the limit of R135 on the predicted sums, or else the largest (R299). -/
def testInp (levels : Tab Int) (a sweep k seg v : Nat) : List Int :=
  testInpAt a sweep seg v (((List.range (topShift v)).find? (fun sh => (probePhases (testInpAt a sweep seg v sh)).all (withinLimit levels k seg))).getD (topShift v))

/-- The levels that firmware predicts an array's sums from: its shadow image's. -/
def State.shadow (s : State) (a : Nat) : Tab Int := match Tab.find? s.refs a with
  | some r => shadowLevels s.mem.dram r.prof r.sec
  | none => []

/-- Firmware reads an array's shadow image, and what of it lies in an uncorrectable group cannot be read (R257). -/
def State.readShadow (s : State) (a : Nat) : State := match Tab.find? s.refs a with
  | some r => imgRead r.sec secLen s
  | none => s

/-- Whether an array's shadow image can be read (Table DEP-6, code 0x5). -/
def State.shadowOk (s : State) (a : Nat) : Bool := s.refOk a && (Tab.find? s.refs a).any (fun r => !s.bad 2 r.sec secLen)

/-- A vector of a test as it ran: its sums, clamps and remainders, with the correction, SIGMA and PROFILE in force (R55, R58, R281). -/
def vecRun (s : State) (a : Nat) (inp : List Int) (c : Tab (Int × Bool) × Tab (Int × Bool)) : Run :=
  let one := [1, 1, 1, 1]
  let rho := (s.arr a).rho
  let clamps := (c.1 ++ c.2).foldl (fun (t : Tab Bool) e => if e.2.2 then Tab.insert t (e.1 % 528) true else t) []
  { Run.blank (s.prof a) ⟨0, 0, none, 0, 0, 0, 0, none, 0, 0, 0, 0⟩ with
    phases := 2, inp := inp, segw := one, raw := vecSums (s.rangeK a) c, clamp := clamps,
    rm := addRm 1 one (inp.map (rowCode 2 1)) rho (addRm 16 one (inp.map (rowCode 2 0)) rho []),
    cor := s.cor a, gt := s.gT a, sigma := s.reg (Reg.ARR_CHK_SIGMA a), stored := rho.isSome }

/-- The six vectors of a unit, with their clamps counted; the deviations number the unit's twelve phases (R58, R300). Firmware has read the shadow image
for their shifts. -/
def unitRuns (a unit : Nat) (noise : List (Nat × Int)) (s : State) : List Run × State :=
  (List.range 6).foldl (fun (t : List Run × State) i =>
    let inp := testInp (s.shadow a) a s.mr.sweeps (s.rangeK a) (s.segen a) (6 * unit + i)
    let c := vecCodes (s.levels a) (s.rangeK a) (s.segen a) inp (2 * i) noise
    (t.1 ++ [vecRun s a inp c], countClamps a 1 c.2 (countClamps a 0 c.1 t.2))) ([], s.readShadow a)

/-- MR_UNIT_END: the unit ends and the array is released to the MVXs that wait (R300). -/
def execMrUnitEnd (a : TestUnit) (s : State) : Out :=
  .next (s.when (s.coreUp (a.array.val / 64)) (match (s.arr a.array.val).test with
    | some t =>
      if !t.live then s else
      let (rs, s1) := unitRuns a.array.val t.unit a.noise s
      let t1 := if t.stale then { t with live := false, stale := false } else { t with unit := t.unit + 1, live := false, runs := t.runs ++ rs }
      let last := ((rs.getLast?.map (fun r => r.inp)).getD []).map (rowCode 2 1)
      freeGo (a.array.val / 64) (releaseArr a.array.val last (s1.setArr a.array.val { s1.arr a.array.val with test := some t1 }))
    | none => s))

/-- MR_TEST_EXPIRY: a test whose units have not all completed within 10 s starts again from unit 1; a unit that runs then counts no more (R300). -/
def execMrTestExpiry (a : ArrId) (s : State) : Out :=
  let x := s.arr a.val
  .next (s.when (s.coreUp (a.val / 64)) (match x.test with
    | some t =>
      if t.unit < 8 && decide (10000000 ≤ s.since t.startAt) then
        s.setArr a.val { x with test := some { t with unit := 0, startAt := s.cnt.aon, stale := t.live, runs := [] } }
      else s
    | none => s))

/-! ## The sweep -/

/-- Whether the sweep tests an array (R301). -/
def State.inSweep (s : State) (a : Nat) : Bool := s.programmed a && s.serves a

/-- The first array of the sweep at or above an index. -/
def sweepFrom (s : State) (a : Nat) : Option Nat := (List.range 2048).find? (fun b => decide (a ≤ b) && s.inSweep b)

/-- How many arrays of the sweep stand at or above an index. -/
def sweepLeft (s : State) (a : Nat) : Nat := ((List.range 2048).filter (fun b => decide (a ≤ b) && s.inSweep b)).length

/-- The sweep moves past an array: NEXT and the arrays left, those that came to serve above it since the sweep began among them. -/
def sweepPast (a : Nat) (s : State) : State :=
  match sweepFrom s (a + 1) with
  | some b => (s.setFld Reg.TST_MR_STAT 10 0 b).onMr (fun m => { m with due := none, left := sweepLeft s b })
  | none => (s.setFld Reg.TST_MR_STAT 10 0 0).onMr (fun m => { m with due := none, left := 0 })

/-- A sweep begins: LATE clears, and the arrays to test are counted. -/
def sweepBegin (s : State) : State :=
  (s.setReg Reg.TST_MR_STAT 0).onMr (fun m => { m with left := sweepLeft s 0, since := s.cnt.aon, sweeps := m.sweeps + 1 })

/-- TST_MR_PER in µs: 0 acts as 1. -/
def State.mrPer (s : State) : Nat := 1000000 * max 1 (s.fld Reg.TST_MR_PER 15 0)

/-- Whether a new sweep may begin: the first one, or one a period after the last began (R301). -/
def State.sweepOk (s : State) : Bool := s.mr.sweeps == 0 || decide (s.mrPer ≤ s.since s.mr.since)

/-- MR_SWEEP_DUE: while scheduled tests run, the test of the next array falls due; a due array that has stopped serving is passed over, and after
the last array a new sweep begins (R301). -/
def execMrSweepDue (s : State) : Out :=
  .next (s.when (s.up 4 && s.rbit Reg.TST_MR_CFG 0) (
    let s1 := match s.mr.due with
      | some a => if s.inSweep a then s else sweepPast a s
      | none => s
    if s1.mr.due.isSome then s1 else
    if s1.mr.left = 0 && !s1.sweepOk then s1 else
    let s2 := if s1.mr.left = 0 then sweepBegin s1 else s1
    match sweepFrom s2 (s2.fld Reg.TST_MR_STAT 10 0) with
    | some a => (s2.setFld Reg.TST_MR_STAT 10 0 a).onMr (fun m => { m with due := some a })
    | none => s2.onMr (fun m => { m with left := 0 })))

/-- MR_SWEEP_LATE: the sweep has not finished after 1.5 periods (R301). -/
def execMrSweepLate (s : State) : Out :=
  .next (s.when (s.up 4 && s.rbit Reg.TST_MR_CFG 0 && !s.rbit Reg.TST_MR_STAT 16 && decide (0 < s.mr.left) && decide (3 * s.mrPer ≤ 2 * s.since s.mr.since))
    ((s.orReg Reg.TST_MR_STAT (2 ^ 16)).raise 0x0D07 1 0x100 s.mr.left))

/-! ## The outcome -/

/-- A test of an array has ended: its requests get their code, and a sweep that waited for it moves on. -/
def testOver (a code : Nat) (s : State) : State :=
  let x := s.arr a
  let s1 := endTests a code (fun q => q.started) (s.setArr a { x with test := none })
  if s1.mr.due == some a then sweepPast a s1 else s1

/-- The sums that firmware expects of a vector: from the shadow image, with the clamps that R57 predicts (R299). -/
def expected (s : State) (a : Nat) (r : Run) : Tab Int :=
  vecSums (s.rangeK a) (vecCodes (s.shadow a) (s.rangeK a) (s.segen a) r.inp 0 [])

/-- Whether a corrected column lies within TST_MR_TOL of its expected value; the tolerance is in quarters of the converter LSB of R136 (log entry
125). -/
def colOk (s : State) (a : Nat) (r : Run) (e : Tab Int) (j : Nat) : Bool :=
  decide (16 * (r.y j - 256 * Tab.getD e j 0).natAbs ^ 2 * 16 ≤ (256 * s.fld Reg.TST_MR_TOL 7 0) ^ 2 * lsbSq (s.rangeK a) (s.segen a))

/-- The columns of a vector that lie outside the tolerance. -/
def badCols (s : State) (a : Nat) (r : Run) : List Nat := let e := expected s a r; (List.range 528).filter (fun j => !colOk s a r e j)

/-- What a test's vectors show (R299): the columns that failed in any vector, and the first vector with a failing column or D. -/
structure Verdict where
  cols : List Nat
  vector : Option Nat

/-- Judges the vectors of a test in order: columns against their expected values, and each D against τ, counted where it is not compared (R282,
R299). -/
def judge (a : Nat) (runs : List Run) (s : State) : Verdict × State :=
  ((List.range runs.length).zip runs).foldl (fun (t : Verdict × State) e =>
    let (s1, ds) := checkGroups a e.2 (List.range 8) t.2
    let cols := badCols s a e.2
    (⟨t.1.cols ++ cols.filter (fun j => !t.1.cols.contains j), t.1.vector.or (if cols.isEmpty && ds.isEmpty then none else some e.1)⟩, s1)) (⟨[], none⟩, s)

/-- Whether a test fails (R299). -/
def testFails (v : Verdict) (r : TestOutcome) : Bool := v.vector.isSome || !r.residues.isEmpty

/-- Counts a failed test and raises event 0x0D06; its failing columns are recorded as retired (R297, R302, R309). Whether the list was full. -/
def testFailed (a : Nat) (v : Verdict) (s : State) : State × Bool :=
  let cols := (List.range 528).filter (fun j => v.cols.contains j)
  let s1 := (s.incReg Reg.TST_MR_FAIL 1).raise 0x0D06 1 0x100 (a + 2 ^ 16 * cols.length + 2 ^ 32 * cols.headD 0 + 2 ^ 48 * v.vector.getD 0)
  retireAll a cols s1

/-- The retest starts at once when the array is idle, else at its next unit start (R302). -/
def retest (a : Nat) (s : State) : State :=
  let x := s.arr a
  let s1 := s.setArr a { x with test := some ⟨0, false, true, s.cnt.aon, false, []⟩ }
  if s1.unitOk a then beginUnit a s1 else s1

/-- MR_TEST_COMPLETE: the vectors of a test whose units are done are judged (R299, R302): the test passes, is run once more, or faults the
array; a full list of retired columns faults it too. A shadow image that cannot be read, for an uncorrectable group or as the command says of what
the model does not hold, abandons it (R257, Table DEP-6). -/
def execMrTestComplete (a : ArrId) (r : TestOutcome) (s : State) : Out :=
  let i := a.val
  .next (s.when (s.coreUp (i / 64)) (match (s.arr i).test with
    | some t =>
      if t.unit < 8 then s
      else if !(r.readable && s.shadowOk i) then testOver i 5 (s.readShadow i)
      else
        let (v, s0) := judge i t.runs (s.readShadow i)
        let s1 := r.residues.foldl (fun u k => u.residue i k.val) s0
        let s2 := (s1.incWrap Reg.TST_MR_CNT 1).setReg (Reg.ARR_CHK_SIGMA i) r.sigma
        if !testFails v r then testOver i (if t.retest then 6 else 0) s2
        else
          let (s3, full) := testFailed i v s2
          if t.retest || full then enterFault i 2 (testOver i 4 s3) else retest i s3
    | none => s))

/-! ## Requests -/

/-- Accepts, joins or refuses a test request; one for an array that is not active starts at once when the array is idle (R303). -/
def askTest (a : Nat) (src : AskSrc) (us : Nat) (s : State) : State :=
  let c := a / 64
  let q : Ask := ⟨a, false, src, s.cnt.aon + BitVec.ofNat 64 us, us, false, none⟩
  if s.refuses a then reportTest c q 2 s
  else if (s.core c).tests.length ≥ 16 then reportTest c q 3 s
  else
    testGo c (s.onTests c (fun l => l ++ [{ q with started := (s.arr a).test.isSome }]))

/-- The deadline of a request that names none (R303). -/
def State.testDl (s : State) : Nat := s.fld Reg.TST_TEST_DL 23 0

/-- TST_TREQ: a write with GO (R303). -/
def execTstTreq (who : Who) (v : W32) (s : State) : Out :=
  .next (s.access who Reg.TST_TREQ (fun s => if bit v 31 then askTest (bits v 10 0) .reg s.testDl s else s))

/-- TEST_REQ: the instruction TEST.REQ (R248, R303). -/
def execTestReq (k : CtxId) (w : BitVec 56) (s : State) : Out :=
  issue k w (fw w 19 0 == 0 && fw w 35 35 == 0) (reqNeeds w) (fun s =>
    let i := ctxIx k
    let c := s.ctx i
    match reqEntry i w s with
    | .error n => .trap n
    | .ok (ei, e) =>
      let us := if reqUs c w = 0 then s.testDl else reqUs c w
      let src : AskSrc := .ctx (i % 4) (c.sreg (fw w 29 25)).toNat (c.sreg (fw w 24 20)).toNat ei
      let a := i / 4 * 64 + eARRAY e
      if eRESIDENT e then .ok (askTest a src us s) else .ok (reportTest (i / 4) ⟨a, false, src, 0, us, false, none⟩ 2 s)) s

/-- TEST_REQUEST_DEADLINE: a request whose test has not started is refused BUSY (R303). -/
def execTestRequestDeadline (c : CoreId) (i : Nat) (s : State) : Out :=
  .next (s.when (s.coreUp c.val) (match takeAt (s.core c.val).tests i with
    | some (q, rest) => if q.started || !q.passed s then s else reportTest c.val q 1 (s.onTests c.val (fun _ => rest))
    | none => s))

/-! ## Health and perturbations -/

/-- TST_HEALTH_CLEAR: bits 1 to 5 are W1C, the others follow their conditions (Table DEP-7). -/
def execTstHealthClear (who : Who) (v : W32) (s : State) : Out :=
  .next (s.access who Reg.TST_HEALTH (fun s => s.clrReg Reg.TST_HEALTH ((v &&& 0x3E).toNat)))

/-- Whether TST_LOCK.OPEN is 1 (R305, R476). -/
def State.pertOpen (s : State) : Bool := s.sec.scopes.getLsbD 0

/-- The uses of a perturbation by its register and value: COUNT of TST_FSAT, TST_CINV and TST_DIGC, one for TST_NVSE and TST_PRSF, and none for
the others or a COUNT of 0 (R306). -/
def pertUses (off : Nat) (v : W32) : Option Nat :=
  let n := if off = 0x8C ∨ off = 0x90 then bits v 23 16 else if off = 0x98 then bits v 15 8 else if off = 0x94 ∨ off = 0x9C then 1 else 0
  if n = 0 then none else some n

/-- A write of a perturbation register: discarded unless OPEN, arms with event 0x0D09, or disarms (R305, Table DEP-10). -/
def pertWrite (who : Who) (off : Nat) (v : W32) (s : State) : State :=
  s.access who (Reg.TST_MR_CFG + off) (fun s =>
    if !s.pertOpen then s else
    let s1 := s.putMasked (Reg.TST_MR_CFG + off) v
    if bit v 31 then
      ((s1.setPert (Tab.insert s1.pert off ⟨v, pertUses off v⟩)).raise 0x0D09 1 0x100 (off + 2 ^ 32 * v.toNat)).health 6
    else s1.setPert (Tab.erase s1.pert off))

/-- TST_HOP: delay on a tank port (R306). -/
def execTstHop (who : Who) (v : W32) (s : State) : Out := .next (pertWrite who 0x84 v s)

/-- TST_BP: back-pressure on a tank port (R306). -/
def execTstBp (who : Who) (v : W32) (s : State) : Out := .next (pertWrite who 0x88 v s)

/-- TST_FSAT: forced converter saturation (R306). -/
def execTstFsat (who : Who) (v : W32) (s : State) : Out := .next (pertWrite who 0x8C v s)

/-- TST_CINV: inverted comparisons (R306). -/
def execTstCinv (who : Who) (v : W32) (s : State) : Out := .next (pertWrite who 0x90 v s)

/-- TST_NVSE: an injected NVS read error (R306). -/
def execTstNvse (who : Who) (v : W32) (s : State) : Out := .next (pertWrite who 0x94 v s)

/-- TST_DIGC: corrupted digests or payloads (R306). -/
def execTstDigc (who : Who) (v : W32) (s : State) : Out := .next (pertWrite who 0x98 v s)

/-- TST_PRSF: a forced verify failure (R306). -/
def execTstPrsf (who : Who) (v : W32) (s : State) : Out := .next (pertWrite who 0x9C v s)

/-- DISARM: TST_CLR disarms every perturbation (R308). -/
def execDisarm (who : Who) (s : State) : Out := .next (s.access who Reg.TST_CLR (fun s => s.setPert []))

end Sys2Proof.Machine
end

