-- ==== Sys2Proof/Machine/Domains.lean ====
section
/-!
DEFINITION. What a reset of a domain clears (R411, R422): its registers return to their reset values and its memories are cleared.
PCM levels, the NVS and the fuses are kept.
-/
namespace Sys2Proof.Machine

/-- Drops the registers of domain d: they hold their reset values again (R10, R411). -/
def State.dropRegs (s : State) (d : Nat) : State := { s with regs := Tab.keep s.regs (fun a => domOfAddr a != d) }

/-- Drops the held words and latches of requesters from index `lo` to `hi` (R6). -/
def State.dropReqs (s : State) (lo hi : Nat) : State :=
  { s with req := Tab.keep s.req (fun i => !(decide (lo ≤ i) && decide (i ≤ hi))) }

/-- Error responses to the loads that contexts have outstanding to a space: each load is dropped, and its context traps with the address cause
(R419, R421). -/
def errorLoads (sp : Nat) (s : State) : State :=
  (s.ctxs.map (fun e => e.1)).foldl (fun t i =>
    let c := t.ctx i
    if t.coreUp (i / 4) && c.loads.any (fun l => l.rng.sp == sp) then
      (t.setCtx i { c with loads := c.loads.filter (fun l => l.rng.sp != sp) }).trapLoad i
    else t) s

/-! ## Each domain -/

/-- Whether a page write that waits for the controller is still asked for: its asker, other than a channel or the log, runs (log entry 150). -/
def stillAsked (s : State) : NvsCmd → Bool
  | .page j => (match j.src with
    | .press _ _ | .base => s.up 4
    | .record _ => s.up 3
    | .cal .. => s.up 8
    | .chan _ | .logRec | .logIdx => false)
  | .read _ _ | .win _ _ => false

/-- The NVS controller cleared; the store itself is kept (R411). Page writes that other blocks have asked for and that have not begun are asked for
again once it runs (R163, R397). -/
def clearNvsc (s : State) : State :=
  { s with nvs := ⟨false, false, none, s.nvs.queue.filter (stillAsked s), none, 0, none⟩, ev := { s.ev with tokens := 32, logq := [], logHead := 0, logSeq := 0, logDrop := 0 } }

/-- The host ports cleared. -/
def clearHst (s : State) : State :=
  { s with host := { s.host with q := [], wdropAt := none, mbx := 0, cfg := [] }, ev := { s.ev with eqA := .empty, eqB := .empty, pba := [] } }

/-- The security core cleared: grants, challenge, lockout and lock end, and every perturbation is disarmed (R476, R477, R305). -/
def clearSec (s : State) : State := { s with sec := ⟨none, none, 0, 0, false, false, none⟩ }.setPert []

/-- The engine instructions outstanding: they complete with an error response, which sets the poison flag of their context (R421). -/
def errorEngines (s : State) : State :=
  let jobs := [0, 1, 2, 3, 4].flatMap (fun e => (s.engq e).queue ++ (s.engq e).run.map (fun u => u.2))
  jobs.foldl (fun t j => (engEnd j true t).onCtx j.ctx (fun c => if c.hold = .dig j.id then c.freed else c)) s

/-- The host commands that copy by DMA end with ERR (Table HST-8). -/
def errorCopies (s : State) : State :=
  s.eng.dma.foldl (fun t e => match e.2.host with
    | none => t
    | some (q, tag) => match t.findCmd q tag 3 with
      | none => t
      | some c => t.finish q c 2 1) s

/-- What a press in progress leaves of its array when its core or the press is reset: OFF, unprogrammed since its first record (R164). -/
def Arr.noPress (x : Arr) : Arr := if x.press.isSome then { x with st := .off, press := none } else x

/-- What a test in progress leaves of its array when the TST block is reset. -/
def Arr.noTest (x : Arr) : Arr := if x.test.isSome then { x with test := none, st := if x.st = .test then .ready else x.st } else x

/-- The fabric cleared: tank, sync counters, gate and streams, engines and intake, press, milking round and perturbations (R411, R422). Images stay
attached and their ranges locked (R171), and firmware keeps their pools, the repairs to be made and the times of reloads (R497). -/
def clearFab (s0 : State) : State :=
  let s := errorLoads 0 (errorCopies (errorEngines s0))
  let s1 := s.mapArrs (fun _ => true) (fun x => x.noPress.noTest)
  { s1 with mem := { s1.mem with tank := .empty }, sync := [], cnt := { s1.cnt with gate := 0, pcnt := [] }, strms := [], eng := ⟨[], [], 0, 0, 0, [], []⟩, prs := { s1.prs with load := none, rld := none, reps := s1.prs.reps.map (fun r => { r with sub := none }) }, mr := ⟨[], none, 0, 0, [], 0⟩, reqs := [], saves := [], pert := [] }

/-- An image is detached (R175); its borrowed spares stay with it (R179). -/
def detach (x : Image) (s : State) : State := s.detachArrs (fun a => x.places.any (fun p => p.arr == a))

/-- Every image is detached; a load in progress is refused, and reloads and repairs end (R175, R176). -/
def detachAll (s : State) : State :=
  let s1 := ((s.prs.images.filter (fun e => e.2.att)).map (fun e => e.2)).foldl (fun t x => detach x t) (refuseLoad 9 s)
  let s2 := s1.mapArrs (fun _ => true) Arr.noPress
  { s2 with prs := { s2.prs with images := s2.prs.images.map (fun e => (e.1, { e.2 with att := false, res := [] })), rld := none, reps := [] }, reqs := [] }

/-- The DRAM controller cleared: the external memory's contents are not kept (log entry 9), and every image is detached (R422). -/
def clearDram (s : State) : State :=
  let s2 := errorLoads 2 (detachAll s)
  { s2 with mem := { s2.mem with dram := .empty }, psave := ⟨[], none⟩, refs := [] }

/-- The herd links cleared; the level of PEER_PRIMARY_N stays, being the peer's. -/
def clearHlk (s : State) : State :=
  { s with cnt := { s.cnt with hlk := 0 }, pair := { State.reset.pair with peerPrim := s.pair.peerPrim }, link := { State.reset.link with out := s.link.out } }

/-- The field I/O cleared; the levels of STOP_N and VFIELD stay, being the pins'. -/
def clearFio (s : State) : State :=
  { s with cnt := { s.cnt with can := [], msr := 0 }, act := { ActSt.init with stop := s.act.stop, vflow := s.act.vflow }, msr := ⟨[], [], [], none⟩ }

/-- The place of an array whose press is cut short is to be pressed again (DEDUCED from R162 and R180). -/
def cutPress (a : Nat) (j : PressJob) (s : State) : State :=
  match j.why with
  | .load => match s.prs.load with
    | some l => { s with prs := { s.prs with load := some { l with todo := l.todo ++ [(j.place, j.ord)], begun := l.begun.filter (fun b => b != a) } } }
    | none => s
  | .reload => match s.prs.rld with
    | some r => { s with prs := { s.prs with rld := some { r with todo := r.todo ++ [j.place], begun := r.begun.filter (fun b => b != a) } } }
    | none => s
  | .repair f => { s with prs := { s.prs with reps := s.prs.reps.map (fun r => if r.place.arr == f then { r with sub := none } else r) } }

/-- The requests for a core's arrays end: their arrays serve no longer (R147, R303). -/
def endCoreAsks (c : Nat) (s : State) : State :=
  let k := s.core c
  let host := fun (q : Ask) => match q.src with
    | .host _ _ => true
    | .reg => s.up 4
    | .ctx .. => false
  let s1 := (k.churns.filter (fun q => host q && (match q.src with | .reg => false | _ => true))).foldl (fun t q => reportAsk c q 2 t) s
  (k.tests.filter host).foldl (fun t q => reportTest c q 2 t) s1

/-- Core c cleared: its contexts are IDLE without tiles, its buffer, accumulator, skim engine, corrections and remainder stores are cleared, and its
arrays are in OFF (R422). The numbers of the works that other domains still do for its contexts are not used again (the model's own). -/
def clearCore (c : Nat) (s0 : State) : State :=
  let mine := fun a => a / 64 == c
  let s := s0.arrs.foldl (fun t e => match e.2.press with
    | some j => if mine e.1 then cutPress e.1 j t else t
    | none => t) (endCoreAsks c s0)
  let out := fun a => !(decide (c * 2097152 ≤ a) && decide (a < (c + 1) * 2097152))
  let outG := fun g => !(decide (c * 262144 ≤ g) && decide (g < (c + 1) * 262144))
  let s1 := (List.range 4).foldl (fun t k => t.setCtx (c * 4 + k) { Ctx.idle with nextId := (t.ctx (c * 4 + k)).nextId }) s
  { s1 with mem := { s1.mem with cbuf := ⟨Tab.keep s1.mem.cbuf.cells out, Tab.keep s1.mem.cbuf.ecc outG⟩ }, arrs := Tab.keep s1.arrs (fun a => !mine a), cors := Tab.keep s1.cors (fun a => !mine a), cores := Tab.keep s1.cores (fun n => n != c), mr := { s1.mr with urgent := s1.mr.urgent.filter (fun a => !mine a) } }

/-- What a reset of one domain clears beside its registers. -/
def clearDomBody (d : Nat) (s : State) : State :=
  if d = 1 then (clearSec s).dropReqs 6 6
  else if d = 2 then clearNvsc s
  else if d = 3 then s.dropReqs 2 5
  else if d = 4 then clearFab s
  else if d = 5 then clearDram s
  else if d = 6 then (clearHst s).dropReqs 0 1
  else if d = 7 then clearHlk s
  else if d = 8 then clearFio s
  else if 9 ≤ d then clearCore (d - 9) s
  else s

/-- The domain that holds the count behind an event raised once, by the event's key. -/
def keyDom (k : Nat) : Nat :=
  if k < 0x10000 then (if k = 0x0602 then 2 else 4)
  else if k / 65536 = 0x0101 ∨ k / 65536 = 0x0102 then 9 + k % 65536 / 64
  else if k / 65536 = 0x0306 then 4
  else 9 + k % 65536

/-- Re-arms the once-raised events whose counts a reset of a domain returns to 0 (R411). -/
def State.rearmDom (s : State) (d : Nat) : State := { s with ev := { s.ev with once := Tab.keep s.ev.once (fun k => keyDom k != d) } }

/-- A reset of one domain: its memories, its registers and the events raised once under their counts (R411). VPROG_LOW is the monitor's level and
stays (R483). -/
def clearDom (d : Nat) (s : State) : State :=
  let t := ((clearDomBody d s).dropRegs d).rearmDom d
  if d = 4 ∧ s.rbit Reg.PRS_STAT 16 then t.orReg Reg.PRS_STAT (2 ^ 16) else t

/-- A reset of a list of domains, each left down. -/
def clearDoms (l : List Nat) (s : State) : State := l.foldl (fun s d => (clearDom d s).setDom d .down) (l.foldl (fun s d => s.setDom d .down) s)

/-- The working domains: CTL, FAB, DRAM, HST, HLK, FIO and every core (Table RCP-2). -/
def workingDoms : List Nat := (List.range 38).map (fun i => 3 + i)

/-- A reset of the working domains. -/
def clearWorking (s : State) : State := clearDoms workingDoms s

end Sys2Proof.Machine
end

