-- ==== Sys2Proof/Machine/Reset.lean ====
section
/-!
DEFINITION. Reset sources, the start sequence and recovery mode (chapter RCP, R411 to R433).
-/
namespace Sys2Proof.Machine

/-! ## Taking a reset -/

/-- RST_CAUSE bits that assert FAULT_N at the next start: WDT, STARTTMO, CLKF, LOCKUP, SEPHANG (R418). -/
def faultCauses : Nat := 0xE60

/-- The reset state of a start: firmware and timers stopped, with what firmware and the press hold of images. FAULT_N is not driven while it lasts (R417, R418). -/
def State.hold (s : State) (restart : Nat) : State :=
  { s with rst := { s.rst with stage := .held restart, wdt := false, pwrBusy := false, cores := 0, pwrGoal := 3, waking := false, toAon := false, pwrCmds := [], exit := false, okWait := false }, prs := State.reset.prs, refs := [], bases := [] }

/-- RST_STAT at the start of a start: with `keepTrim` the trim copy stays valid, and recovery mode with it (R425, R426, R431). -/
def State.startStat (s : State) (keepTrim : Bool) : State :=
  s.setReg Reg.RST_STAT (s.reg Reg.RST_STAT &&& (if keepTrim then 0x2F else 0x20))

/-- CLK_STAT and PWR_STAT with the PLLs stopped and no core powered. -/
def stopped (s : State) : State := (s.setReg Reg.CLK_STAT (s.reg Reg.CLK_STAT &&& 6)).setReg Reg.PWR_STAT 0

/-- A reset that clears all but AON: its cause bit is set, a page write in progress is cut, the trim loaded so far is discarded, and the start runs
again from step 2 (R412, R425). -/
def warmReset (cause : Nat) (cut : Fin 8) (s : State) : State :=
  let s1 := clearDoms ([1, 2] ++ workingDoms) (s.nvsCut cut)
  let s2 := { s1 with rst := { s1.rst with split := false } }
  (stopped ((s2.orReg Reg.RST_CAUSE (2 ^ cause)).startStat false)).hold 2

/-- A reset that clears every domain: AON with it, so RST_CAUSE holds this cause alone (R412, R434). -/
def coldReset (cause : Nat) (cut : Fin 8) (s : State) : State :=
  let s1 := clearDoms ([1, 2] ++ workingDoms) (s.nvsCut cut)
  let s2 := { s1.dropRegs 0 with cnt := { s1.cnt with aon := 0, sub := 0 } }
  let s3 := { s2 with rst := { s2.rst with defer := [], fault := false, therm := false, split := false, wakeAt := 0, kickAt := 0, ctlAt := 0, domAt := [] } }
  ((s3.setReg Reg.RST_CAUSE (BitVec.ofNat 32 (2 ^ cause))).setFld Reg.RST_STAT 5 5 (b2n s.rst.bowarn)).hold 1

/-- Keeps an event for the start that follows the reset it reports (R442). -/
def State.deferEvent (s : State) (code sev pay : Nat) : State :=
  { s with rst := { s.rst with defer := s.rst.defer ++ [s.mkEvent code sev 0x500 0 0xFF 0 pay] } }

/-- POWER_ON. -/
def execPowerOn (cut : Fin 8) (s : State) : Out := .next (coldReset 0 cut s)

/-- BROWNOUT_AON. -/
def execBrownoutAon (cut : Fin 8) (s : State) : Out := .next (coldReset 1 cut s)

/-- BROWNOUT_CORE: a brown-out on VCORE or VARR. -/
def execBrownoutCore (varr : Bool) (cut : Fin 8) (s : State) : Out := .next (warmReset (if varr then 3 else 2) cut s)

/-- RESET_N_ASSERT. -/
def execResetNAssert (cut : Fin 8) (s : State) : Out := .next (warmReset 4 cut s)

/-- Whether the watchdog's period has passed since its last kick; a period of 0 acts as 1 ms (R414, Table RCP-11). -/
def wdtOver (s : State) : Bool := s.rst.wdt && decide (1000 * max 1 (s.fld Reg.RST_WDT_CFG 15 0) ≤ s.since s.rst.kickAt)

/-- WATCHDOG_EXPIRY: a missed kick while the watchdog runs (R414). -/
def execWatchdogExpiry (cut : Fin 8) (s : State) : Out := .next (s.when (wdtOver s) (warmReset 5 cut s))

/-- Whether firmware has started: CTL released in this start. -/
def State.running (s : State) : Bool := s.rst.stage == .run

/-- Whether START_OK was accepted (RST_STAT.STARTED). -/
def State.started (s : State) : Bool := s.rbit Reg.RST_STAT 4

/-- Whether the start timer has run out: 2 s since the release of CTL without START_OK (R427). -/
def startOver (s : State) : Bool := s.running && !s.started && decide (2000000 ≤ s.since s.rst.ctlAt)

/-- START_TIMEOUT (R427). -/
def execStartTimeout (cut : Fin 8) (s : State) : Out :=
  let cause := s.reg Reg.RST_CAUSE ||| 0x40
  .next (s.when (startOver s)
    (warmReset 6 cut (s.deferEvent 0x0706 2 (cause.toNat + 2 ^ 32 * (s.cnt.aon - s.rst.ctlAt).toNat % 2 ^ 64))))

/-- ALL: the software request with key 0xA5 (R441). -/
def execAll (who : Who) (key : Byte) (cut : Fin 8) (s : State) : Out :=
  .next (s.access who Reg.RST_SW (fun s => s.when (key == 0xA5) (warmReset 7 cut s)))

/-- The bits of CLK_STAT that fall with the clocks of a mask: bit 0 SYSCLK, bits 1 to 4 the PLLs (Table RCP-11). -/
def clockBits (lost : BitVec 5) : Nat := b2n (bit lost 0) + 4 * (lost.toNat / 2 * 2)

/-- CLOCK_FAILURE: SYSCLK or the lock of a PLL is lost after every PLL has locked; the event reports CLK_STAT at the failure (R415, R442). -/
def execClockFailure (loss : ClockLoss) (s : State) : Out :=
  let stat := (s.reg Reg.CLK_STAT &&& ~~~(BitVec.ofNat 32 (clockBits loss.lost))).toNat
  .next (s.when (nbits (s.reg Reg.CLK_STAT).toNat 6 3 == 15 && loss.lost != 0)
    (warmReset 9 loss.cut (s.deferEvent 0x070A 2 (stat + 2 ^ 32 * (s.reg Reg.RST_CAUSE ||| 0x200).toNat))))

/-- LOCK_UP: a double fault in a control core (R415). -/
def execLockUp (cut : Fin 8) (s : State) : Out := .next (s.when (s.up 3) (warmReset 10 cut s))

/-- DEBUG_RESET: under scope bit 1, clears the working domains and restarts at step 5 with the trim loaded (R412, R426, R476). -/
def execDebugReset (s : State) : Out :=
  let s1 := clearWorking s
  .next (s.when (bit s.sec.scopes 1)
    ((stopped ((s1.orReg Reg.RST_CAUSE 0x100).startStat true)).hold 5))

/-! ## Releasing domains -/

/-- The register and bit that hold a domain in block reset; AON and SEC have none (R419, R441). -/
def blockBit (d : Nat) : Option (Nat × Nat) :=
  if d < 2 then none else if d < 9 then some (Reg.RST_BLK, d - 2) else some (Reg.RST_CORE, d - 9)

/-- A domain is released at its place in a start or a wake, unless its block reset bit holds it (R419). -/
def State.release (s : State) (d : Nat) : State := match blockBit d with
  | some (a, b) => s.setDom d (if s.rbit a b then .inReset else .run)
  | none => s.setDom d .run

/-- BIAS_UP of every array of a core that is released, when PWR_CFG.AUTOBIAS is 1 (R422). -/
def autoBias (c : Nat) (s : State) : State :=
  if !s.rbit Reg.PWR_CFG 0 then s else
  (List.range 64).foldl (fun t l =>
    let x := t.arr (c * 64 + l)
    if x.st = .off then t.setArr (c * 64 + l) { x with st := .bias, settled := false } else t) s

/-- What the release of a domain starts: the watchdog with CTL, the safe state's end with FIO, BIAS_UP with a core (R414, R370, R422). -/
def released (d : Nat) (s : State) : State :=
  if d = 3 then { s with rst := { s.rst with wdt := s.rbit Reg.RST_WDT_CFG 16, kickAt := s.cnt.aon } }
  else if d = 8 then safeSync s
  else if 9 ≤ d then autoBias (d - 9) s
  else s

/-! ## The start sequence -/

/-- FAULT_N at the start of a start (R418). -/
def State.startFault (s : State) : State :=
  { s with rst := { s.rst with fault := s.rst.fault || (((s.reg Reg.RST_CAUSE).toNat &&& faultCauses) != 0) } }

/-- Entry to recovery mode: HST is released beside AON, SEC and NVSC, and FAULT_N is driven (R430, R418). SYSCLK and PLL_PER run by
then, since HST's clock-good needs them (R420; log entry 126). -/
def enterRecovery (s : State) : State :=
  let s1 := ((s.orReg Reg.RST_STAT 8).orReg Reg.CLK_STAT 0x41).release 6
  { s1 with rst := { s1.rst with stage := .recovery, fault := true, wdt := false } }

/-- RESET_RELEASE: the start runs from its restart step; at step 5 a device in recovery mode returns to it (R423, R431). -/
def execResetRelease (s : State) : Out :=
  match s.rst.stage with
  | .held r =>
    let s1 := (s.setDom 0 .run).startFault
    .next (if r = 5 then
      let s2 := if s1.rbit Reg.RST_STAT 3 then enterRecovery s1 else { s1 with rst := { s1.rst with stage := .pll } }
      s2.raise 0x0702 1 0x500 ((s2.reg Reg.RST_CAUSE).toNat + 2 ^ 32 * s2.fld Reg.RST_FAILCNT 7 0)
    else { s1.setDom 1 .run with rst := { (s1.setDom 1 .run).rst with stage := .fuse } })
  | _ => .next s

/-- FUSE_LOAD_COMPLETE: retried rows raise 0x0703; a failed row sets FUSEFAIL and raises 0x0704; NVSC is released (R424, R423). -/
def execFuseLoadComplete (retries : List (BitVec 16 × Fin 4)) (failed : Option (BitVec 16)) (s : State) : Out :=
  if s.rst.stage ≠ .fuse then .next s else
  let s1 := retries.foldl (fun t r => t.raise 0x0703 1 0x500 (r.1.toNat + 2 ^ 16 * r.2.val)) s
  let s2 := match failed with
    | none => s1
    | some row => (s1.orReg Reg.RST_STAT 2).raise 0x0704 3 0x500 row.toNat
  let s3 := s2.release 2
  .next { s3 with rst := { s3.rst with stage := .journal } }

/-- The start record's payload: FAILCNT, RECOVERY, STARTS (R407). -/
def startPayload (fail rec starts : Nat) : List Byte := leBytes 1 fail ++ leBytes 1 rec ++ leBytes 2 0 ++ leBytes 4 starts ++ leBytes 40 0

/-- FAILCNT and STARTS of a start record read; 0 with no valid copy (R428). -/
def startFields (a : AbRead) : Nat × Nat := match a.payload with
  | none => (0, 0)
  | some p => (leNat (p.take 1), leNat ((p.drop 4).take 4))

/-- Writes the start record at once with FAILCNT and RECOVERY 0 (R431). -/
def State.writeStart (s : State) : State :=
  let r := s.abRead abStart
  r.1.abWriteNow abStart r.2 (startPayload 0 0 (startFields r.2).2)

/-- Events kept from before the reset, and 0x0702 for a start that follows a reset other than power-on (R442). -/
def State.startEvents (s : State) (count : Nat) : State :=
  let s1 := s.rst.defer.foldl (fun t e => t.raiseRec e) s
  let s2 := { s1 with rst := { s1.rst with defer := [] } }
  if (s2.reg Reg.RST_CAUSE).toNat / 2 ≠ 0 then s2.raise 0x0702 1 0x500 ((s2.reg Reg.RST_CAUSE).toNat + 2 ^ 32 * count) else s2

/-- Step 4: trim, the port split with it, then the failed-start decision, with the start record written first (R423, R424, R444, Table RCP-6). -/
def step4 (s : State) : State :=
  let t := s.abRead abTrim
  let s1 := match t.2.payload with
    | none => (t.1.orReg Reg.RST_STAT 4).raise 0x0705 1 0x500 0
    | some _ => t.1
  let a := s1.abRead abStart
  let f := startFields a.2
  let count := max (s1.fld Reg.RST_FAILCNT 7 0) f.1
  let s2 := a.1.startEvents count
  let s3 := s2.orReg Reg.RST_STAT 1
  let s4 := { s3 with rst := { s3.rst with split := (t.2.payload.map trimSplit).getD false } }
  if count < 3 then
    let s5 := s4.abWriteNow abStart a.2 (startPayload (f.1 + 1) 0 (f.2 + 1))
    let s6 := s5.setReg Reg.RST_FAILCNT (BitVec.ofNat 32 ((count + 1) % 256))
    { s6 with rst := { s6.rst with stage := .pll } }
  else
    let s5 := s4.abWriteNow abStart a.2 (startPayload f.1 1 (f.2 + 1))
    let s6 := s5.setReg Reg.RST_FAILCNT (BitVec.ofNat 32 (count % 256))
    (enterRecovery s6).raise 0x0707 3 0x500 (f.1 % 256 + 2 ^ 32 * ((f.2 + 1) % 2 ^ 32))

/-- Step 4, or its wait for the brown-out warning (R429). -/
def tryStep4 (s : State) : State :=
  if s.rst.bowarn then { s with rst := { s.rst with stage := .blocked } } else step4 s

/-- PLL_LOCK: the PLLs lock, and FAB, DRAM and HST are released (R423 steps 5 and 6). -/
def execPllLock (s : State) : Out :=
  if s.rst.stage ≠ .pll then .next s else
  let s1 := (((s.orReg Reg.CLK_STAT 0x79).release 4).release 5).release 6
  .next { s1 with rst := { s1.rst with stage := .boot } }

/-- SYSCLK_MISSING_TIMEOUT: SYSCLK missing for 10 ms at step 5 (R415). -/
def execSysclkMissingTimeout (s : State) : Out :=
  let s1 := s.clrReg Reg.CLK_STAT 1
  .next (s.when (s.rst.stage == .pll) (s1.raise 0x0708 1 0x500 (0xFF + 2 ^ 32 * (s1.reg Reg.CLK_STAT).toNat)))

/-- Ends the POWER commands that wait for the change, with a result (Table HST-8). -/
def endPower (result : Nat) (s : State) : State :=
  s.rst.pwrCmds.foldl (fun t e => match t.findCmd e.1 e.2 6 with
    | some c => t.finish e.1 c (if result = 0 then 0 else 2) result
    | none => t) { s with rst := { s.rst with pwrCmds := [] } }

/-- Step 8: cores are to come up towards PWR_TARGET; none is with STATE 0 (R423, R436). -/
def startPower (s : State) : State :=
  let g := s.reg Reg.PWR_TARGET
  let s1 := { s with rst := { s.rst with pwrGoal := g, pwrBusy := bits g 1 0 != 0 } }
  if bits g 1 0 = 0 then endPower 0 s1 else s1.orReg Reg.PWR_STAT 4

/-- Step 7 and 8: the bundle runs, CTL is released with the watchdog and the start timer, then HLK and FIO, whose calibration pairs load; the
power controller begins to bring cores up (R423, R414, R363, R436). -/
def runBundle (b : Bundle) (src : Nat) (s : State) : State :=
  let s1 := (((s.setFld Reg.RST_STAT 7 6 src).release 3).release 7).release 8
  let s2 := if s1.up 8 then loadCal s1 else s1
  startTasks (startPower { s2 with sec := { s2.sec with bundle := some b }, rst := { s2.rst with stage := .run, wdt := s2.rbit Reg.RST_WDT_CFG 16, ctlAt := s2.cnt.aon, kickAt := s2.cnt.aon } })

/-- The start record that an accepted START_OK writes: FAILCNT and RECOVERY 0 (R429). -/
def okRecord (s : State) : State :=
  let a := s.abRead abStart
  { a.1 with rst := { a.1.rst with okWait := false } }.nvsPut
    ((recordJobs abStart a.2 (startPayload 0 0 (startFields a.2).2) (.record false) (.record true)).map .page)

/-- OK: START_OK is accepted once in a start; its record waits while the store is not ready (R397, R427, R429). -/
def startOk (s : State) : State :=
  let s1 := (s.setReg Reg.RST_FAILCNT 0).orReg Reg.RST_STAT 0x10
  let s2 := s1.raise 0x0701 0 0x500 ((s1.reg Reg.RST_CAUSE).toNat + 2 ^ 32 * (startFields (s.abKnown abStart)).2)
  if s.up 2 && s.nvs.ready then okRecord s2 else { s2 with rst := { s2.rst with okWait := true } }

/-- OK. -/
def execOk (who : Who) (s : State) : Out :=
  .next (s.access who Reg.RST_START (fun s => s.when (s.running && !s.started) (startOk s)))

/-- The next rollback fuse is blown; with the last one event 0x0B03 reports the count before the first and the new one (R469, R479). -/
def blowRollback (b : Bundle) (s : State) : State :=
  let old := s.sec.rb.getD s.fus.rollback
  let n := s.fus.rollback + 1
  let s1 := { s with fus := { s.fus with rollback := n } }
  if n < b.rbver then { s1 with sec := { s1.sec with rb := some old } }
  else { s1 with sec := { s1.sec with rb := none } }.raise 0x0B03 0 0x900 (old + 256 * n)

/-- ROLLBACK_ADVANCE: after START_OK the rollback fuses are blown in ascending order up to RBVER of a bundle with ADVANCE, one by each such command; none
under the brown-out warning (R469; log entry 154). -/
def execRollbackAdvance (s : State) : Out :=
  match s.sec.bundle with
  | none => .next s
  | some b => .next (s.when (s.started && b.advance && decide (s.fus.rollback < b.rbver) && !s.rst.bowarn) (blowRollback b s))

/-- WDT_KICK: the key restarts the watchdog; any other value is discarded (R414). -/
def execWdtKick (who : Who) (v : W32) (s : State) : Out :=
  .next (s.access who Reg.RST_WDT_KICK (fun s =>
    s.when (bits v 15 0 == 0x4B1C) { s with rst := { s.rst with kickAt := s.cnt.aon } }))

/-- Leaves recovery mode: the start record and RST_FAILCNT are cleared, then the software reset (R431). -/
def exitRecovery (cut : Fin 8) (s : State) : State :=
  warmReset 7 cut (s.writeStart.setReg Reg.RST_FAILCNT 0)

/-- Whether a record can be written now (R397, R399). -/
def State.nvsOpen (s : State) : Bool := s.up 2 && s.nvs.ready && !s.rst.bowarn

/-- EXIT: leaves recovery mode; its record waits for the end of a brown-out warning and for the store (R397, R399, R431). -/
def execExit (who : Who) (key : Byte) (cut : Fin 8) (s : State) : Out :=
  .next (s.access who Reg.RST_RECOVER (fun s =>
    s.when (key == 0xA5 && s.rst.stage == .recovery)
      (if s.nvsOpen then exitRecovery cut s else { s with rst := { s.rst with exit := true } })))

/-- What waits for the journal's resolution: a start at step 3, which goes on to step 4 or, when a fuse row failed, to recovery mode; and in a later stage
a record that START_OK or EXIT has yet to write (R397, R424, R429, R431). -/
def resolved (s : State) : State := match s.rst.stage with
  | .journal => if s.rbit Reg.RST_STAT 1 then enterRecovery (s.startEvents (s.fld Reg.RST_FAILCNT 7 0)) else tryStep4 s
  | .blocked => tryStep4 s
  | .recovery => if s.rst.exit && s.nvsOpen then exitRecovery 0 s else s
  | _ => if s.rst.okWait then okRecord s else s

/-- JOURNAL_RESOLVE: the journal is resolved, and what waits for it goes on (R397, R424). -/
def execJournalResolve (s : State) : Out :=
  if !(s.up 2) || s.nvs.ready then .next s else .next (resolved s.nvsResolve).nvsGo

/-- SET: asserts FAULT_N (R418). -/
def execSet (who : Who) (s : State) : Out :=
  .next (s.access who Reg.RST_FLT (fun s => { s with rst := { s.rst with fault := true } }))

/-- FAULT_CLEAR: deasserts FAULT_N outside recovery mode (R418). -/
def execFaultClear (who : Who) (s : State) : Out :=
  .next (s.access who Reg.RST_FLT (fun s => s.when (s.rst.stage != .recovery) { s with rst := { s.rst with fault := false } }))

/-! ## Brown-out warning, thermal trip, crystal -/

/-- A calibration SAVE that the warning stops: its pages not yet started are dropped, so that the copy stays invalid, and it ends with code 5 and
event 0x0804 (R399, R403, R364). -/
def stopSave (s : State) : State :=
  let mine := fun (c : NvsCmd) => match c with
    | .page ⟨_, _, .cal m _⟩ => some m.val
    | _ => none
  match s.nvs.queue.findSome? mine with
  | some m =>
    calEnd m 3 5 0 ({ s with nvs := { s.nvs with queue := s.nvs.queue.filter (fun c => (mine c).isNone) } }.clrReg Reg.MSR_STAT 2)
  | none => s

/-- BROWNOUT_WARNING_ASSERT (R413, R399): a record write that now cannot go on is stopped (R403). -/
def execBrownoutWarningAssert (s : State) : Out :=
  .next (stopSave ({ s with rst := { s.rst with bowarn := true } }.orReg Reg.RST_STAT 0x20))

/-- BROWNOUT_WARNING_DEASSERT: waiting writes may start, and a start held at step 4 or an EXIT goes on (R399, R429, R431). -/
def execBrownoutWarningDeassert (s : State) : Out :=
  let s1 := { s with rst := { s.rst with bowarn := false } }.clrReg Reg.RST_STAT 0x20
  .next (if s1.rst.stage = .blocked ∧ s1.nvsOpen then (step4 s1).nvsGo else if s1.rst.exit && s1.nvsOpen then exitRecovery 0 s1 else s1.nvsGo)

/-- THERMTRIP_ASSERT (R487). -/
def execThermtripAssert (s : State) : Out := .next { s with rst := { s.rst with therm := true } }

/-- THERMTRIP_DEASSERT (R487). -/
def execThermtripDeassert (s : State) : Out := .next { s with rst := { s.rst with therm := false } }

/-- XTAL_STOP: the RC oscillator runs free, with event 0x0709 (R433). -/
def execXtalStop (s : State) : Out :=
  .next (s.when (s.rbit Reg.CLK_STAT 1) ((s.clrReg Reg.CLK_STAT 6).raise 0x0709 1 0x500 0))

/-- CRYSTAL_LOCK: with XTAL_EN 1 the RC oscillator locks to the crystal (R433). -/
def execCrystalLock (s : State) : Out := .next (s.when (s.rbit Reg.CLK_CFG 0) (s.orReg Reg.CLK_STAT 6))

/-! ## Block resets -/

/-- BLOCK_RESET: the separator isolates a running domain, NVSC only once no page write is in progress; one that awaits its clock-good is in reset
again (R419, Table RCP-4). -/
def execBlockReset (who : Who) (d : Dom) (s : State) : Out :=
  match blockBit (domIx d) with
  | none => .next s
  | some (a, b) => .next (s.access who a (fun s =>
      let s1 := s.orReg a (2 ^ b)
      if s.domSt (domIx d) = .run ∧ !(domIx d = 2 ∧ s.nvsGo.nvs.cur ≠ none) then authSync s.auth (s1.setDom (domIx d) .isolating)
      else if s.domSt (domIx d) = .releasePending then s1.setDom (domIx d) .inReset else s1))

/-- SEPARATOR_DRAINED: the domain is cleared and held in reset; with its bit written 0 meanwhile it awaits its clock-good (R419). -/
def execSeparatorDrained (d : Dom) (s : State) : Out :=
  match blockBit (domIx d) with
  | none => .next s
  | some (a, b) =>
    .next (s.when (s.domSt (domIx d) == .isolating)
      ((clearDom (domIx d) s).setDom (domIx d) (if s.rbit a b then .inReset else .releasePending)))

/-- Whether a separator has failed to drain within RST_SEP_TMO, where 0 acts as 1 µs (R419, Table RCP-11). -/
def sepOver (s : State) (d : Nat) : Bool := s.domSt d == .isolating && decide (max 1 (s.fld Reg.RST_SEP_TMO 15 0) ≤ s.domSince d)

/-- SEPARATOR_TIMEOUT: the lock-up reset with cause SEPHANG (R419, R415). -/
def execSeparatorTimeout (d : Dom) (cut : Fin 8) (s : State) : Out :=
  .next (s.when (sepOver s (domIx d))
    (warmReset 11 cut (s.deferEvent 0x0709 1 (1 + 256 * domIx d + 2 ^ 32 * (s.reg Reg.RST_CAUSE ||| 0x800).toNat))))

/-- BLOCK_RESET_RELEASE: the bit written 0 (Table RCP-4 step 4). -/
def execBlockResetRelease (who : Who) (d : Dom) (s : State) : Out :=
  match blockBit (domIx d) with
  | none => .next s
  | some (a, b) => .next (s.access who a (fun s =>
      let s1 := s.clrReg a (2 ^ b)
      if s.domSt (domIx d) = .inReset then s1.setDom (domIx d) .releasePending else s1))

/-- CLOCK_GOOD: the domain is released and runs (R420, Table RCP-4 step 5). -/
def execClockGood (d : Dom) (s : State) : Out :=
  .next (s.when (s.domSt (domIx d) == .releasePending) (released (domIx d) (s.setDom (domIx d) .run)))

/-- RELEASE_PENDING_TIMEOUT: 10 ms without clock-good (R420). -/
def execReleasePendingTimeout (d : Dom) (s : State) : Out :=
  .next (s.when (s.domSt (domIx d) == .releasePending && decide (10000 ≤ s.domSince (domIx d)))
    (s.raise 0x0708 1 0x500 (domIx d + 2 ^ 32 * (s.reg Reg.CLK_STAT).toNat)))

/-! ## Snapshots -/

/-- Whether a domain is powered and not in reset; one whose separator isolates it is not yet in reset (R435, Table RCP-4). -/
def State.live (s : State) (d : Nat) : Bool := s.domSt d == .run || s.domSt d == .isolating

/-- Whether the block of count i is out of reset and powered (R435). -/
def countUp (s : State) (i : Nat) : Bool :=
  if i = 0 then true else if i < 8 then s.live 4 else if i < 13 then s.live 8 else s.live 7

/-- A snapshot of every count (R435). -/
def snapshot (s : State) : State :=
  let s1 := (List.range 14).foldl (fun t i => t.setReg64 (Reg.CNT_SNAPV i) (if countUp s i then (s.cnt.at i).toNat else 0)) s
  let valid := (List.range 14).foldl (fun n i => if countUp s i then n + 2 ^ i else n) 0
  (s1.setReg Reg.CNT_SNAP_VALID (BitVec.ofNat 32 valid)).setFld Reg.CNT_SNAP 31 16 (s1.fld Reg.CNT_SNAP 31 16 + 1)

/-- GO. -/
def execGo (who : Who) (s : State) : Out := .next (s.access who Reg.CNT_SNAP snapshot)

end Sys2Proof.Machine
end

