-- ==== Sys2Proof/Machine/Power.lean ====
section
/-!
DEFINITION. Power states: PWR_TARGET, cores powered up and down, entry to AON and the wake from it (R436 to R440).
-/
namespace Sys2Proof.Machine

/-! ## Targets -/

/-- Cores powered in the state that a PWR_TARGET value requests (Tables RCP-9 and RCP-11). -/
def goalCores (v : W32) : Nat :=
  if bits v 1 0 = 0 then 0 else if bits v 1 0 = 1 then 8 else if bits v 1 0 = 2 then max 9 (min 31 (bits v 13 8)) else 32

/-- The state that a number of powered cores is, as PWR_TARGET codes it. -/
def coresState (n : Nat) : Nat := if 32 ≤ n then 3 else if 9 ≤ n then 2 else if n = 8 then 1 else 0

/-- Sets the number of powered cores, with PWR_STAT.CORES and STATE. -/
def State.setCores (s : State) (n : Nat) : State :=
  { (s.setFld Reg.PWR_STAT 13 8 n).setFld Reg.PWR_STAT 1 0 (coresState n) with rst := { s.rst with cores := n } }

/-- A change that has reached its target: BUSY ends, POWER commands complete, and a wake raises event 0x070C (R436, R439, R453). -/
def pwrSettle (s : State) : State :=
  if !s.rst.pwrBusy || s.rst.toAon || s.rst.cores ≠ goalCores s.rst.pwrGoal then s else
  let s1 := endPower 0 ({ s with rst := { s.rst with pwrBusy := false, waking := false } }.clrReg Reg.PWR_STAT 4)
  s1.raiseIf s.rst.waking 0x070C 0 0x500 ((s.reg Reg.PWR_WAKE).toNat + 2 ^ 32 * ((s.cnt.aon - s.rst.wakeAt).toNat % 2 ^ 32))

/-! ## Refusals -/

/-- Whether a core refuses to be powered down (R437). -/
def coreRefuses (s : State) (c : Nat) : Bool :=
  (List.range 4).any (fun k =>
    let x := s.ctx (c * 4 + k)
    !(x.st == .idle || x.st == .halt || x.st == .trap) || s.rbit (Reg.SEQ_CTX_CFG (c * 4 + k)) 0)
    || (List.range 64).any (fun l => (s.arr (c * 64 + l)).press.isSome)

/-- The first core from `hi - 1` down to `lo` that refuses. -/
def firstRefusing (s : State) (lo hi : Nat) : Option Nat :=
  ((List.range (hi - lo)).map (fun i => hi - 1 - i)).find? (fun c => coreRefuses s c)

/-- What refuses a change to a target: a core that would lose its power, or 0xFF for a condition of the device (R437, R438). -/
def pwrRefusal (s : State) (v : W32) : Option Nat :=
  let n := goalCores v
  match firstRefusing s n s.rst.cores with
  | some c => some c
  | none =>
    if (decide (n < s.rst.cores) && s.dramBytes == 0) || (bits v 1 0 == 0 && ((List.range 64).any s.bound || s.prs.load.isSome)) then some 0xFF
    else none

/-- A refused change: PWR_ERR.REFUSED and event 0x070B (R437, R442). -/
def pwrRefuse (b : Nat) (s : State) : State :=
  (s.orReg Reg.PWR_ERR 1).raise 0x070B 1 0x500 ((s.reg Reg.PWR_TARGET).toNat + 2 ^ 32 * b)

/-! ## PWR_TARGET -/

/-- A write of PWR_TARGET while the power controller runs: the change begins, or is refused; the state after, and whether it was refused. Before
step 8 of a start the value is kept for that step (R423, R436). -/
def powerWrite (v : W32) (s : State) : State × Bool :=
  let s1 := s.putMasked Reg.PWR_TARGET v
  if s.rst.stage ≠ .run then (s1, false)
  else
    let g := s1.reg Reg.PWR_TARGET
    match pwrRefusal s1 g with
    | some b => (pwrRefuse b s1, true)
    | none =>
      let aon := bits g 1 0 = 0
      ({ s1 with rst := { s1.rst with pwrBusy := true, toAon := aon, pwrGoal := if aon then s1.rst.pwrGoal else g } }.orReg Reg.PWR_STAT 4, false)

/-- PWR_TARGET_WRITE. -/
def execPwrTargetWrite (who : Who) (v : W32) (s : State) : Out :=
  .next (s.access who Reg.PWR_TARGET (fun s => pwrSettle (powerWrite v s).1))

/-! ## Cores -/

/-- The words of a core's layer map, by offset from its first word. -/
def mapWords (s : State) (c : Nat) : Tab W32 :=
  let b := coreBase c + 0x30000
  (s.regs.filter (fun e => decide (b ≤ e.1) && decide (e.1 < b + 0x4000))).map (fun e => (e.1 - b, e.2))

/-- The entries of a table by global array that belong to a core, by local array. -/
def ofCore {α : Type} (c : Nat) (t : Tab α) : Tab α := (t.filter (fun e => e.1 / 64 == c)).map (fun e => (e.1 % 64, e.2))

/-- DRAM offset of the save area: PWR_SAVE.BASE in 64 KiB units (R441). -/
def State.saveBase (s : State) : Nat := 2 ^ 16 * s.fld Reg.PWR_SAVE 19 0

/-- A part of the save area: offset from its start and size. The 16 MiB hold 512 KiB for each core, and the press's image state in the last 1 KiB
(DESIGN CHOICE, log entry 23). -/
structure SavePart where
  off : Nat
  size : Nat

/-- The part of a core. -/
def corePart (c : Nat) : SavePart := ⟨2 ^ 19 * c, 2 ^ 19 - 2 ^ 10⟩

/-- The part of the press. -/
def imagePart : SavePart := ⟨2 ^ 24 - 2 ^ 10, 2 ^ 10⟩

/-- Writes a part of the save area to DRAM, as far as it is fitted (R258, R437). -/
def State.saveWrite (s : State) (p : SavePart) (bs : List Byte) : State :=
  let o := s.saveBase + p.off
  if s.up 5 then s.dramPut o (bs.take (min p.size (s.dramBytes - o))) 0 else s

/-- Reads a part of the save area back, with the corrections of the read (R253, R257): the state, and whether the bytes are those that were written, as
many as the part holds. -/
def State.saveRead (s : State) (p : SavePart) (bs : List Byte) : State × Bool :=
  let o := s.saveBase + p.off
  let n := min p.size (s.dramBytes - o)
  if !s.up 5 then (s, false) else (s.readFx 2 o n 0 0, s.bytes 2 o (min n bs.length) == bs.take p.size)

/-- The bytes that stand in a part of the save area. -/
def State.saveBytes (s : State) (p : SavePart) : List Byte := if s.up 5 then s.bytes 2 (s.saveBase + p.off) (min p.size (s.dramBytes - (s.saveBase + p.off))) else []

/-- What a core saves: corrections, remainder stores, layer map (R437); and the churn record, which firmware keeps. -/
def coreSave (c : Nat) (s : State) : CoreSave :=
  ⟨ofCore c s.cors, (ofCore c s.arrs).map (fun e => (e.1, ⟨e.2.rho, e.2.depth, { e.2.chn with cur := none }⟩)), mapWords s c⟩

/-- Saves a core to DRAM at PWR_SAVE (R437). -/
def saveCore (c : Nat) (s : State) : State :=
  let x := coreSave c s
  { s.saveWrite (corePart c) (Config.coreBytes x) with psave := { s.psave with cores := Tab.insert s.psave.cores c x } }

/-- What a core's part holds when its bytes are not those written: what they parse to, within the core, beside the churn records that firmware keeps. -/
def parsedCore (known : CoreSave) (bs : List Byte) : CoreSave :=
  let y := (Config.coreParse bs).getD ⟨[], [], []⟩
  ⟨y.cors.filter (fun e => decide (e.1 < 64)), known.arrs.map (fun e => match Tab.find? y.arrs e.1 with
    | some z => (e.1, { z with chn := e.2.chn })
    | none => (e.1, ⟨none, 0, e.2.chn⟩)), y.map.filter (fun e => decide (e.1 < 0x4000) && e.1 % 4 == 0)⟩

/-- Restores a core from its part of the save area, which is then used up (R439, R440). -/
def restoreCore (c : Nat) (s : State) : State := match Tab.find? s.psave.cores c with
  | none => s
  | some known =>
    let r := s.saveRead (corePart c) (Config.coreBytes known)
    let x := if r.2 then known else parsedCore known (s.saveBytes (corePart c))
    let s1 := x.map.foldl (fun t e => t.setReg (coreBase c + 0x30000 + e.1) e.2) r.1
    let s2 := x.arrs.foldl (fun t e => t.setArr (c * 64 + e.1) { t.arr (c * 64 + e.1) with rho := e.2.rho, depth := e.2.depth, chn := e.2.chn }) s1
    { s2 with cors := x.cors.foldl (fun t e => Tab.insert t (c * 64 + e.1) e.2) s2.cors, psave := { s2.psave with cores := Tab.erase s2.psave.cores c } }

/-- Whether no churn unit, test unit or command is at work on a core's arrays, so that they can be parked (R437). -/
def coreQuiet (s : State) (c : Nat) : Bool := (List.range 64).all (fun l => s.idle (c * 64 + l) && (s.arr (c * 64 + l)).held.isEmpty)

/-- CORE_POWER_UP: the next core in ascending order is released, restored when its state was saved, and biased (R436, R439, R422). -/
def execCorePowerUp (c : CoreId) (s : State) : Out :=
  .next (s.when (s.running && s.rst.pwrBusy && !s.rst.toAon && s.rst.cores == c.val && decide (c.val < goalCores s.rst.pwrGoal))
    (let s1 := s.release (9 + c.val)
     let s2 := if s1.coreUp c.val then autoBias c.val (restoreCore c.val s1) else s1
     pwrSettle (s2.setCores (c.val + 1))))

/-- Takes a core's power: its arrays are parked, its state is saved, and its domain is off (R437). -/
def coreOff (c : Nat) (s : State) : State := (clearDom (9 + c) (saveCore c s)).setDom (9 + c) .down

/-- CORE_POWER_DOWN: the last powered core goes off once its arrays are quiet; a condition of R437 that has come to hold ends the change refused. -/
def execCorePowerDown (c : CoreId) (s : State) : Out :=
  .next (s.when (s.running && s.rst.pwrBusy && !s.rst.toAon && s.rst.cores == c.val + 1 && decide (goalCores s.rst.pwrGoal ≤ c.val))
    (if coreRefuses s c.val || s.dramBytes == 0 then
      let s1 := pwrRefuse (if coreRefuses s c.val then c.val else 0xFF) s
      endPower 1 ({ s1 with rst := { s1.rst with pwrBusy := false, pwrGoal := BitVec.ofNat 32 (coresState s.rst.cores + 256 * s.rst.cores) } }.clrReg Reg.PWR_STAT 4)
    else if !coreQuiet s c.val then s
    else pwrSettle ((coreOff c.val s).setCores c.val)))

/-! ## AON -/

/-- The domains that lose their power in AON: all but AON, SEC, NVSC and, in self-refresh, DRAM; SEC, CTL and NVSC resume from retention (Tables
RCP-9 and RCP-10). -/
def aonDoms (keep : Bool) : List Nat := if keep then workingDoms.filter (fun d => d != 5) else workingDoms

/-- The device in AON (R438). -/
def enterAon (s : State) : State :=
  let s1 := (List.range s.rst.cores).foldl (fun t c => saveCore c t) s
  let s2 := { s1.saveWrite imagePart (Config.imageBytes s1.prs.images) with psave := { s1.psave with images := some s1.prs.images } }
  let s3 := ((clearDoms (aonDoms (s2.rbit Reg.PWR_CFG 1)) s2).setDom 5 .down).setDom 1 .down
  stopped { s3.setDom 2 .down with rst := { (s3.setDom 2 .down).rst with stage := .aon, wdt := false, pwrBusy := false, toAon := false, cores := 0, pwrCmds := [] } }

/-- AON_ENTRY: once every NVS page write and every unit on the arrays has ended; or refused (R438). -/
def execAonEntry (s0 : State) : Out :=
  let s := s0.nvsGo
  .next (if !(s.running && s.rst.toAon) then s0 else
    match pwrRefusal s 0 with
    | some b => endPower 1 ({ (pwrRefuse b s) with rst := { s.rst with pwrBusy := false, toAon := false } }.clrReg Reg.PWR_STAT 4)
    | none =>
      if s.nvs.cur.isSome || !s.nvs.queue.isEmpty || !(List.range s.rst.cores).all (fun c => coreQuiet s c) then s
      else enterAon s)

/-- Wake step 1: the cause is recorded, and SEC, CTL and NVSC are powered again (Table RCP-10). -/
def wake (cause : Nat) (s : State) : State :=
  let s1 := ((s.setReg Reg.PWR_WAKE (BitVec.ofNat 32 cause)).setDom 1 .run).release 2
  released 3 { s1.release 3 with rst := { (s1.release 3).rst with stage := .wake, waking := true, wakeAt := s.cnt.aon } }

/-- CAN_WAKE. -/
def execCanWake (n : Fin 4) (s : State) : Out :=
  .next (s.when (s.rst.stage == .aon && s.rbit Reg.PWR_CFG (4 + n.val)) (wake (2 ^ n.val) s))

/-- Whether the AON count has reached PWR_ALARM; 0 disables it (R439). -/
def alarmDue (s : State) : Bool := s.rbit Reg.PWR_CFG 8 && s.reg64 Reg.PWR_ALARM != 0 && decide (s.reg64 Reg.PWR_ALARM ≤ s.cnt.aon.toNat)

/-- ALARM_WAKE (R439). -/
def execAlarmWake (s : State) : Out := .next (s.when (s.rst.stage == .aon && alarmDue s) (wake 16 s))

/-- A slot's image as bytes other than those written restore it (R438, R440). -/
def parsedImage (bs : List Byte) (e : Nat × Image) : Nat × Image := match Config.imageParse bs e.1 with
  | some (o, n, res) => (e.1, { e.2 with att := true, off := o, len := n, res := res })
  | none => (e.1, { e.2 with att := false, res := [] })

/-- The press's image state is restored from the save area; where nothing was saved or kept, every image is detached (R438, R440). -/
def restoreImages (s : State) : State := match s.psave.images with
  | none => { s with prs := { s.prs with images := s.prs.images.map (fun (e : Nat × Image) => (e.1, { e.2 with att := false, res := [] })) } }
  | some known =>
    let r := s.saveRead imagePart (Config.imageBytes known)
    let l := if r.2 then known else s.prs.images.map (parsedImage (s.saveBytes imagePart))
    { r.1 with prs := { r.1.prs with images := l }, psave := { r.1.psave with images := none } }

/-- WAKE_PLL_LOCK: FAB, DRAM, HST, HLK and FIO are released, the images are attached again, and cores begin to power up (Table RCP-10, R440). -/
def execWakePllLock (s : State) : Out :=
  .next (s.when (s.rst.stage == .wake)
    (let s1 := [4, 5, 6, 7, 8].foldl (fun t d => t.release d) (s.orReg Reg.CLK_STAT 0x79)
     let s2 := restoreImages s1
     pwrSettle ({ s2 with rst := { s2.rst with stage := .run, pwrBusy := true } }.orReg Reg.PWR_STAT 4)))

end Sys2Proof.Machine
end

