-- ==== Sys2Proof/Machine/Views.lean ====
section
/-!
DEFINITION. What a register reads: its stored value, or for a read-only field that reports state, that state (R6, R7, R10 and the register tables
of each chapter).
-/
namespace Sys2Proof.Machine

/-- A 32-bit value from a number. -/
def w32 (n : Nat) : W32 := BitVec.ofNat 32 n

/-- Word i of a 64-bit count. -/
def wordOf (v : W64) (upper : Bool) : W32 := w32 (if upper then v.toNat / 2 ^ 32 else v.toNat)

/-- How many of a list satisfy a condition. -/
def countOf {α : Type} (l : List α) (p : α → Bool) : Nat := (l.filter p).length

/-! ## Core blocks -/

/-- The code of an array state (Table ARR-5). -/
def ArrState.code : ArrState → Nat
  | .off => 0 | .bias => 1 | .ready => 2 | .press => 3 | .churn => 4 | .test => 5 | .fault => 6 | .retired => 7

/-- IDLEZ: every row of a biased array holds code 0; a churn or test unit drives codes while it runs (R44, log entry 103). -/
def idleZ (x : Arr) : Bool := x.st != .off && x.codes.all (fun c => c == 0) && !x.chn.cur.any (fun c => c.live) && !x.test.any (fun t => t.live)

/-- ARR_STATE (Table ARR-5); PHASE and RERUN are those of the command at work, which a retry due follows (R283). -/
def arrState (s : State) (a : Nat) : Nat :=
  let x := s.arr a
  let r := match x.cur with
    | some r => some r
    | none => x.retry
  x.st.code + 2 ^ 4 * x.queue.length + 2 ^ 7 * b2n (arrBusy x) + 2 ^ 8 * b2n (idleZ x)
    + (match r with
      | some q => 2 ^ 16 * (q.phase % 4) + 2 ^ 18 * b2n q.rerun
      | none => 0)

/-- ARR_READY_LO or ARR_READY_HI (Table ARR-14). -/
def arrReady (s : State) (c hi : Nat) : Nat :=
  (List.range 32).foldl (fun n i => n + 2 ^ i * b2n ((s.arr (c * 64 + 32 * hi + i)).st == .ready)) 0

/-- CHN_STAT (Table CHN-16). -/
def chnStat (s : State) (c : Nat) : Nat :=
  let due := fun l => (s.arr (c * 64 + l)).chn.due
  s.churning c + 2 ^ 8 * (s.core c).churns.length + 2 ^ 16 * countOf (List.range 64) (fun l => !(due l).isEmpty)
    + 2 ^ 23 * b2n ((List.range 64).any (fun l => (due l).any (fun d => d.late)))

/-- Seconds since the last full churn of an array, held at 0xFFFF; 0 before the first (Table CHN-17). -/
def fullAge (s : State) (a : Nat) : Nat := match (s.arr a).chn.lastFull with
  | some t => min 0xFFFF (s.since t / 1000000)
  | none => 0

/-- CHN_CGAIN to CHN_ASTAT for the array and column that CHN_CSEL selects, by offset from CHN_CGAIN (Table CHN-17). Only an array that holds weights
has an age, and one in OFF reports the reset value (R10; log entry 103). -/
def chnCoef (s : State) (c i : Nat) : Nat :=
  let a := c * 64 + s.fld (Reg.CHN_CSEL c) 5 0
  let j := min 527 (s.fld (Reg.CHN_CSEL c) 25 16)
  let x := (s.arr a).chn
  if i = 4 then fullAge s a + 2 ^ 16 * x.failcol + 2 ^ 28 * b2n (x.born.isNone && s.programmed a && (s.arr a).st != .off) + 2 ^ 29 * b2n (x.cur.any (fun u => u.full && !u.post))
  else match Tab.find? s.cors a with
  | none => 0
  | some r => (if i = 0 then Tab.getD r.gf j f32One else if i = 1 then Tab.getD r.off j 0 else if i = 2 then r.ga else s.gT a).toNat

/-- SEQ_CTX_STAT (Table EXE-7). -/
def ctxStat (s : State) (k : Nat) : Nat :=
  let c := s.ctx k
  c.st.code + 2 ^ 3 * b2n c.cur.isSome + 2 ^ 4 * b2n c.poison + 2 ^ 8 * (match c.cur with
    | some (st, _) => st % 64
    | none => 0) + 2 ^ 16 * c.cause.toNat

/-- A register of a core block, where it reports state; WAITQ gives the low 7 bits of how many wait, also where more than the 64 of Table SLC-7 do
(log entry 111). -/
def coreView (s : State) (c o : Nat) : Option Nat :=
  if 0x10000 ≤ o ∧ o < 0x14000 ∧ o % 0x100 = 0 then some (arrState s (c * 64 + (o - 0x10000) / 0x100))
  else if o = 0x14010 then some (arrReady s c 0)
  else if o = 0x14014 then some (arrReady s c 1)
  else if o = 0x1800C then some ((s.core c).lanes.length + 2 ^ 5 * b2n (!(s.core c).lanes.isEmpty) + 2 ^ 8 * ((s.core c).waitq.length % 128))
  else if o = 0x1C004 then some ((List.range 4).foldl (fun n k => n + 2 ^ (8 * k) * heldIds (s.ctx (c * 4 + k)).tiles) 0)
  else if o = 0x1C008 then some ((List.range 4).foldl (fun n k => n + usedSlots (s.ctx (c * 4 + k)).tiles) 0)
  else if o = 0x20028 then some (chnStat s c)
  else if 0x20034 ≤ o ∧ o ≤ 0x20044 then some (chnCoef s c ((o - 0x20034) / 4))
  else if 0x28000 ≤ o ∧ o < 0x28080 then
    let k := c * 4 + (o - 0x28000) / 0x20
    if o % 0x20 = 4 then some (ctxStat s k)
    else if o % 0x20 = 8 then some ((s.ctx k).pc.toNat % 2 ^ 32)
    else if o % 0x20 = 12 then some ((s.ctx k).pc.toNat / 2 ^ 32)
    else if o % 0x20 = 16 then (s.ctx k).cur.map (fun q => q.2.toNat)
    else none
  else none

/-! ## The fabric -/

/-- Bits of slots 0 to 3. -/
def slotBits (p : Nat → Bool) : Nat := (List.range 4).foldl (fun n k => n + 2 ^ k * b2n (p k)) 0

/-- Whether a slot's image is attached. -/
def State.attached (s : State) (n : Nat) : Bool := (Tab.find? s.prs.images n).any (fun x => x.att)

/-- PRS_STAT (Table PRS-11); VPROG_LOW shows from the first count step of the fabric on (R10; log entry 103). -/
def prsStat (s : State) : Nat :=
  s.pressing + 2 ^ 7 * b2n s.prs.load.isSome + 2 ^ 8 * slotBits s.slotUsed + 2 ^ 12 * slotBits s.attached
    + 2 ^ 16 * b2n (s.rbit Reg.PRS_STAT 16 && s.cnt.gate != 0) + 2 ^ 17 * b2n (s.rbit Reg.TST_HEALTH 0)

/-- GLB_STAT.MODE (R455, R461). -/
def glbMode (s : State) : Nat := if s.rst.stage = .recovery then 2 else if s.rbit Reg.RST_STAT 4 then 1 else 0

/-- Whether SERVICE_REQ_N is asserted: a TST_HEALTH bit that TST_SRQ_EN selects (R304). -/
def State.serviceReq (s : State) : Bool := s.up 4 && (s.reg Reg.TST_HEALTH &&& s.reg Reg.TST_SRQ_EN) != 0

/-- Whether FAULT_N is asserted: not while a reset holds the domains (R418). -/
def State.faultN (s : State) : Bool := s.rst.fault && (match s.rst.stage with | .held _ => false | _ => true)

/-- GLB_STAT (Table HST-13). -/
def glbStat (s : State) : Nat := glbMode s + 4 * b2n s.auth + 8 * b2n s.serviceReq + 16 * b2n s.faultN

/-- A word of the capability list (Table HST-12): entry, word. -/
def capWord (s : State) (i w : Nat) : Nat :=
  let flags := [3, 1, 1, 0x81, 1, 1, 0x41, 0x21, b2n (s.fus.dramSize != 0 && s.trimmed), b2n s.split, 3, 3]
  let bases := [0x1018000, 0, 0xCE0000, 0xA00000, 0xA00400, 0x900000, 0xC10000, 0xC10000, 0xC00000, 0x400800, 0x1010000, 0x1010000]
  let lens := [0x100, 0, 0x100, 0x2000, 0x100, 0x800, 0x3000, 0x3000, 0x100, 0x800, 0x4100, 0x4100]
  if w = 0 then (i + 1) + 2 ^ 16 + 2 ^ 24 * flags.getD i 0
  else if w = 1 then bases.getD i 0
  else if w = 2 then lens.getD i 0
  else if i = 11 then 0 else 0x110 + 16 * i

/-- A register of the GLB block, where it reports state (R455, R461, R460). -/
def glbView (s : State) (o : Nat) : Option Nat :=
  if o = 4 then some (glbStat s)
  else if o = 0xC then some (s.fld Reg.HLK_ID 9 0)
  else if o = 0x18 then some (if s.trimmed then s.fus.uid.toNat % 2 ^ 32 else 0)
  else if o = 0x1C then some (if s.trimmed then s.fus.uid.toNat / 2 ^ 32 else 0)
  else if 0x100 ≤ o ∧ o < 0x1C0 then some (capWord s ((o - 0x100) / 16) (o % 16 / 4))
  else none

/-- A register of the other fabric blocks, where it reports state; both addresses of a sync counter give it (R197). -/
def fabView (s : State) (a : Nat) : Option Nat :=
  let depth := fun e => (s.engq e).queue.length
  let busy := fun e u => b2n (Tab.find? (s.engq e).run u).isSome
  if a < 0x100000 then glbView s a
  else if 0xC80000 ≤ a ∧ a < 0xCC0000 then some (Tab.getD s.sync (a % 0x20000 / 4) 0).toNat
  else if a = Reg.TNK_DRAM_SIZE then some (if s.trimmed then s.fus.dramSize.toNat else 0)
  else if a = Reg.XFM_STAT then some (depth 1 + 2 ^ 5 * busy 1 0)
  else if a = Reg.VEC_STAT then some (depth 2 + 2 ^ 8 * depth 3)
  else if a = Reg.CHK_STAT then some (depth 4 + 2 ^ 5 * busy 4 0 + 2 ^ 6 * busy 4 1)
  else if 0xC10020 ≤ a ∧ a < 0xC10050 then some (wordOf (Tab.getD s.cnt.pcnt ((a - 0xC10020) / 8) 0) (a % 8 == 4)).toNat
  else if 0xCC0000 ≤ a ∧ a < 0xCC0800 ∧ a % 0x20 = 0xC then some (s.head ((a - 0xCC0000) / 0x20)).toNat
  else if a = Reg.PRS_STAT then some (prsStat s)
  else if a = Reg.PRS_LOAD_STAT then some ((s.reg a).toNat / 8 * 8 + loadStep s)
  else if a = Reg.PRS_AREC then some ((s.prec (s.fld Reg.PRS_ASEL 10 0)).toNat % 2 ^ 32)
  else if a = Reg.PRS_AREC + 4 then some ((s.prec (s.fld Reg.PRS_ASEL 10 0)).toNat / 2 ^ 32)
  else if a = Reg.TST_LOCK then some (b2n s.pertOpen)
  else none

/-! ## AON, SEC, NVSC -/

/-- The code of a domain's block reset (R441). -/
def DomSt.code : DomSt → Nat
  | .run => 0 | .down => 0 | .isolating => 1 | .inReset => 2 | .releasePending => 3

/-- Codes of domains from d on, two bits each. -/
def domCodes (s : State) (d n : Nat) : Nat := (List.range n).foldl (fun v i => v + 4 ^ i * (s.domSt (d + i)).code) 0

/-- A register of the RST, CLK and PWR block, where it reports state (Table RCP-11). -/
def rstView (s : State) (a : Nat) : Option Nat :=
  if a = Reg.RST_BSTAT then some (domCodes s 2 7)
  else if a = Reg.RST_CSTAT 0 then some (domCodes s 9 16)
  else if a = Reg.RST_CSTAT 1 then some (domCodes s 25 16)
  else if a = Reg.RST_FLT then some (b2n s.faultN)
  else if a = Reg.CLK_AONCNT then some (s.cnt.aon.toNat % 2 ^ 32)
  else if a = Reg.CLK_AONCNT + 4 then some (s.cnt.aon.toNat / 2 ^ 32)
  else none

/-- Word i of a 256-bit value. -/
def word256 (v : BitVec 256) (i : Nat) : Nat := v.toNat / 2 ^ (32 * i) % 2 ^ 32

/-- A byte of the certificate (R473): GLB_UID, the 1,793 bytes of the identity public key (as R464 gives such a key), then Zarhorn's signature over both
(DEDUCED from the order of R473's words, log entry 156). -/
def certByte (f : Fuses) (i : Nat) : Byte :=
  if i < 8 then BitVec.ofNat 8 (f.uid.toNat / 256 ^ i) else if i < 1801 then Config.idPublic f.idKey (i - 8) else Config.certSign f.uid f.idKey (i - 1801)

/-- A register of the SEC block, where it reports state (Table SEC-5); SEC_STAT, SEC_KEYREV and SEC_CERT read 0 until the trim is loaded (R10,
R425). -/
def secView (s : State) (o : Nat) : Option Nat :=
  let run := fun (f : Bundle → Nat) (d : Nat) => match s.sec.bundle with
    | some b => f b
    | none => d
  if !s.trimmed && (o == 0 || o == 4 || decide (0x2000 ≤ o)) then some 0
  else if o = 0 then some (run (fun b => b.loc) 3 + 4 * run (fun b => b.keySlot) 0 + 2 ^ 4 * s.fus.rollback + 2 ^ 12 * b2n s.fus.mkey.isSome
    + 2 ^ 13 * b2n s.fus.mkeyRev + 2 ^ 14 * b2n s.fus.sigreq + 2 ^ 15 * b2n s.sec.lock + 2 ^ 16 * s.sec.scopes.toNat + 2 ^ 18 * b2n s.sec.lockout)
  else if o = 4 then some s.fus.revoked.toNat
  else if o = 8 then some (b2n s.sec.lock)
  else if 0x20 ≤ o ∧ o < 0x40 then some (word256 (s.sec.chal.getD 0) ((o - 0x20) / 4))
  else if 0x100 ≤ o ∧ o < 0x120 then some (run (fun b => word256 b.digest ((o - 0x100) / 4)) 0)
  else if 0x2000 ≤ o ∧ o < 0x3000 then some (leNat ((List.range 4).map (fun i => certByte s.fus (o - 0x2000 + i))))
  else none

/-- A register of the NVS block, where it reports state (R409). A word of the read window is the stored one, as a read that need not wait gives it;
the read itself, which waits and meets errors, is NvsCmd.win (R396, R400). -/
def nvsRegView (s : State) (a : Nat) : Option Nat :=
  if a = Reg.NVS_STAT then some (b2n s.nvs.ready + 2 * b2n s.nvs.cur.isSome + 4 * b2n s.rst.bowarn + 8 * b2n s.nvs.replayed)
  else if a = Reg.NVS_JSEQ then some s.nvs.jseq.toNat
  else if a = Reg.NVS_LOG_DROP then some s.ev.logDrop.toNat
  else if a = Reg.NVS_LOG_HEAD then some s.ev.logHead
  else if 0x280000 ≤ a ∧ a < 0x2C0000 then some (if s.nvs.ready then s.mem.nvs.readN (a - 0x280000) 4 else 0)
  else none

/-! ## HST, HLK, FIO -/

/-- The offsets of the HST block at which port B has no register: queues, HST_PORTCFG and the mailbox (R462). -/
def portBNone (o : Nat) : Bool := (decide (0x40 ≤ o) && decide (o < 0xC0)) || o == 0x200 || decide (0x300 ≤ o)

/-- A register of the HST block of port p, where it reports state (Table HST-14); SPLIT and OBSERVER of HST_PSTAT are link state and read 0 while the
link is down (log entry 103). -/
def hstView (s : State) (p o : Nat) : Option Nat :=
  if o = 0 then
    let up := s.rbit (Reg.HST_PSTAT p) 0
    some ((s.reg (Reg.HST_PSTAT p)).toNat + 2 ^ 8 * b2n (up && s.split) + 2 ^ 9 * b2n (up && p == 1))
  else if o = 0x1C then some (s.eq p).head
  else if o = 0x20 then some (s.eq p).tail
  else if o = 0x24 then some (s.eq p).lost.toNat
  else if p = 1 ∧ portBNone o = true then some 0
  else if 0x40 ≤ o ∧ o < 0xC0 ∧ o % 0x20 = 0xC then some (s.hq ((o - 0x40) / 0x20)).sqTail
  else if 0x40 ≤ o ∧ o < 0xC0 ∧ o % 0x20 = 0x1C then some (s.hq ((o - 0x40) / 0x20)).cqHead
  else if o = 0x200 then some (b2n s.split)
  else none

/-- The pending bits of a port's MSI-X table, by word (R456). -/
def msixPending (s : State) (p i : Nat) : Nat := (List.range 32).foldl (fun n v => n + 2 ^ v * b2n (Tab.getD s.ev.pba (p * 64 + 32 * i + v) false)) 0

/-- HLK_PAIR_STAT (Table HRD-9). -/
def pairStat (s : State) : Nat :=
  let p := s.pair
  p.st + 8 * b2n p.peerOk + 16 * b2n p.synced + 32 * b2n s.auth + 64 * b2n p.prim + 128 * b2n p.peerPrim + 256 * min 255 p.missed

/-- MSR_m_STAT (R367); WM is a stored bit. -/
def mscStat (s : State) (m : Nat) : Nat :=
  let x := s.msc m
  let c := s.reg (Reg.MSRC_CTL m)
  let n := fun (r : MsrRun) => if r.fresh then entOrder (s.mscEntry m r.entry) - 1 - r.got else 0
  (match x.run with
    | some r => r.entry + 2 ^ 6 * b2n r.urg + 2 ^ 8 * n r
    | none => 0)
    + 2 ^ 4 * b2n x.pass + 2 ^ 5 * b2n x.pend + 2 ^ 7 * b2n x.upend.isSome
    + 2 ^ 10 * b2n (bit c 10 && bits c 16 15 == 2 && decide (max 1000 (s.reg (Reg.MSRC_TUSER m)).toNat < 10000)) + 2 ^ 11 * b2n x.refrdy
    + 2 ^ 12 * s.fld (Reg.MSRC_STAT m) 12 12

/-- Whether the safe state shows in the registers: its causes are read from the first count step of the block on, so that ACT_SAFE.SAFE and
ACT_AO_CODE.HELD leave reset with the value 0 of their Reset column (R10, R370; log entry 103). -/
def State.safeSeen (s : State) : Bool := s.act.safe && Tab.getD s.cnt.can 0 0 != 0

/-- A register of the FIO and HLK blocks, where it reports state. -/
def fioView (s : State) (a : Nat) : Option Nat :=
  if a = Reg.MSR_CNT then some (s.cnt.msr.toNat % 2 ^ 32)
  else if a = Reg.MSR_CNT + 4 then some (s.cnt.msr.toNat / 2 ^ 32)
  else if a = Reg.MSR_CAL_OFS then some (s.calPair (s.fld Reg.MSR_CAL_SEL 8 0)).1.toNat
  else if a = Reg.MSR_CAL_GAIN then some (s.calPair (s.fld Reg.MSR_CAL_SEL 8 0)).2.toNat
  else if 0x800100 ≤ a ∧ a < 0x800500 ∧ a % 0x100 = 0x14 then some (mscStat s ((a - 0x800100) / 0x100))
  else if a = Reg.ACT_SAFE then some (s.actSafe / 2 * 2 + b2n s.safeSeen)
  else if 0x900010 ≤ a ∧ a < 0x900030 then some ((s.reg a).toNat % 2 ^ 16 + 2 ^ 16 * b2n s.safeSeen)
  else if 0x900400 ≤ a ∧ a < 0x900800 then
    let n := (a - 0x900400) / 0x100
    if a % 0x100 = 0xC then some ((s.reg a).toNat % 2 ^ 24 + 2 ^ 24 * (s.can n).tx.length)
    else if a % 0x100 = 0x10 then some (s.can n).rx.length
    else if a % 0x100 = 0x20 then some ((Tab.getD s.cnt.can n 0).toNat % 2 ^ 32)
    else if a % 0x100 = 0x24 then some ((Tab.getD s.cnt.can n 0).toNat / 2 ^ 32)
    else none
  else if a = Reg.HLK_PAIR_STAT then some (pairStat s)
  else none

/-! ## Reads -/

/-- What a register at a BAR0 offset reads: state it reports, or its stored value; 0 where none stands (R7). -/
def State.readReg (s : State) (a : Nat) : W32 :=
  let v := if a < 0x100000 then fabView s a
    else if a < 0x200000 then rstView s a
    else if a < 0x300000 then nvsRegView s a
    else if a < 0x400000 then secView s (a - 0x300000)
    else if a < 0x401000 then hstView s ((a - 0x400000) / 0x800) (a % 0x800)
    else if a < 0x404000 then none
    else if a < 0x406000 then (if a % 0x1000 = 0x800 then some (msixPending s ((a - 0x404000) / 0x1000) 0) else if a % 0x1000 = 0x804 then some (msixPending s ((a - 0x404000) / 0x1000) 1) else none)
    else if a < 0x800000 then none
    else if a < 0xC00000 then fioView s a
    else if a < 0x1000000 then fabView s a
    else if a < 0x1800000 then coreView s ((a - 0x1000000) / 0x40000) (a % 0x40000)
    else if a < 0x1F00000 then none
    else fabView s a
  match v with
  | some n => w32 n
  | none => if (regRow a).isSome || (decide (0x1000000 ≤ a) && decide (a < 0x1800000) && decide (0x30000 ≤ a % 0x40000)) then s.reg a else 0

/-! ## Pins -/

/-- The level of current output n: the last written code while its function is enabled and no safe state holds (R372, R374). -/
def State.aout (s : State) (n : Nat) : BitVec 16 := if s.up 8 && s.rbit Reg.ACT_EN n && !s.act.safe then Tab.getD s.act.level n 0 else 0

/-- Whether PRIMARY_N is asserted (R330). -/
def State.primaryN (s : State) : Bool := s.up 7 && s.pair.prim

end Sys2Proof.Machine
end

