-- ==== Sys2Proof/Machine/HostCmds.lean ====
section
/-!
DEFINITION. Host commands that other blocks carry out, host accesses to BAR2 and BAR4, and register accesses without a row of their own (R6 to R8,
R448, R449, R453, R456, R474).
-/
namespace Sys2Proof.Machine

/-! ## Commands -/

/-- Operand bytes of a command, as a number (Table HST-8). -/
def HCmd.arg (c : HCmd) (i n : Nat) : Nat := leNat ((c.raw.drop i).take n)

/-- Whether the copy of a command runs on a channel. -/
def State.copying (s : State) (q : Nat) (tag : W32) : Bool := s.eng.dma.any (fun e => e.2.host == some (q, tag))

/-- Starts a command's copy on a channel, through the channel's registers; a range error ends it with ERR (R271, Table HST-8). -/
def startCopy (q : Nat) (c : HCmd) (ch : Nat) (s : State) : State :=
  let s1 := (((s.setReg64 (Reg.DMA_SRC ch) (c.arg 8 8)).setReg64 (Reg.DMA_DST ch) (c.arg 16 8)).setReg (Reg.DMA_LEN ch) (w32 (c.arg 24 4))).setReg (Reg.DMA_CTL ch) 0
  let s2 := dmaStart ch (some (q, c.tag)) s1
  if s2.copying q c.tag then s2 else s2.finish q c 2 1

/-- COPY: on the lowest firmware channel that is free; it waits while none is (R453). -/
def execCopy (q : Fin 4) (tag : W32) (s : State) : Out :=
  .next (s.when (s.up 4) (match s.findCmd q.val tag 3 with
    | none => s
    | some c => if s.copying q.val tag then s else match (List.range 3).find? (fun ch => (Tab.find? s.eng.dma ch).isNone) with
      | some ch => startCopy q.val c ch s
      | none => s))

/-- Whether a command's request waits in a list. -/
def asking (l : List Ask) (q : Nat) (tag : W32) : Bool := l.any (fun a => a.src == .host q tag)

/-- CHURN: as CHN_REQ with CHN_DEADLINE (R453). -/
def execChurn (q : Fin 4) (tag : W32) (s : State) : Out :=
  .next (match s.findCmd q.val tag 4 with
    | none => s
    | some c =>
      let a := c.arg 8 10 % 2048
      if asking (s.core (a / 64)).churns q.val tag then s
      else askChurn a (bit (w32 (c.arg 18 1)) 0) (.host q.val tag) (s.fld (Reg.CHN_DEADLINE (a / 64)) 23 0) s)

/-- TEST: as TST_TREQ (R453). -/
def execTest (q : Fin 4) (tag : W32) (s : State) : Out :=
  .next (match s.findCmd q.val tag 5 with
    | none => s
    | some c =>
      let a := c.arg 8 10 % 2048
      if asking (s.core (a / 64)).tests q.val tag then s else askTest a (.host q.val tag) s.testDl s)

/-- POWER: as a write of PWR_TARGET; it completes with the change, or is refused (R453). -/
def execPower (q : Fin 4) (tag : W32) (s : State) : Out :=
  .next (match s.findCmd q.val tag 6 with
    | none => s
    | some c =>
      if s.rst.pwrCmds.contains (q.val, tag) then s else
      let r := powerWrite (w32 (c.arg 8 1 + 256 * c.arg 9 1)) s
      if r.2 then r.1.finish q.val c 2 1
      else pwrSettle { r.1 with rst := { r.1.rst with pwrCmds := r.1.rst.pwrCmds ++ [(q.val, tag)] } })

/-! ## Attestation -/

/-- The digest of a committed image slot; 0 for an empty one (Table SEC-4). -/
def slotDigest (s : State) (n : Nat) : List Byte :=
  if !s.slotUsed n then List.replicate 32 0 else match s.slotPay n with
  | some p => (p.drop 4).take 32
  | none => List.replicate 32 0

/-- A quote's body with a given SIGLEN (Table SEC-4). -/
def quoteBody (s : State) (nonce : List Byte) (siglen : Nat) : List Byte :=
  let b := fun (f : Bundle → Nat) => match s.sec.bundle with
    | some x => f x
    | none => 0
  let lost := countOf s.arrs (fun e => e.2.st == .fault || e.2.st == .retired)
  let spare := ((List.range 32).map s.reserve).foldl min 15
  let late := countOf (List.range 32) (fun c => chnStat s c / 2 ^ 23 % 2 == 1)
  let age := (((List.range 2048).filter s.programmed).map (fullAge s)).foldl max 0
  leBytes 4 0x54515843 ++ leBytes 2 1 ++ leBytes 2 siglen ++ nonce ++ leBytes 8 (if s.trimmed then s.fus.uid.toNat else 0)
    ++ leBytes 2 (s.fld Reg.HLK_ID 9 0) ++ leBytes 1 (glbMode s) ++ leBytes 1 s.fus.rollback ++ leBytes 32 Config.romDigest.toNat
    ++ leBytes 32 (b (fun x => x.digest.toNat)) ++ leBytes 1 (b (fun x => x.keySlot)) ++ leBytes 1 (b (fun x => x.rbver))
    ++ leBytes 1 (slotBits s.slotUsed + 16 * slotBits s.attached) ++ leBytes 1 0 ++ (List.range 4).flatMap (slotDigest s)
    ++ leBytes 4 (s.reg Reg.TST_HEALTH).toNat ++ leBytes 2 lost ++ leBytes 1 spare ++ leBytes 1 late ++ leBytes 4 age ++ leBytes 4 0
    ++ leBytes 8 s.cnt.aon.toNat

/-- The length of a quote's signature: free, at most the 1,280 bytes for which R474 asks room. -/
def quoteSigLen (s : State) (nonce : List Byte) : Nat := min 1280 (Config.sigLen (quoteBody s nonce 0))

/-- QUOTE: the body and its signature go to host memory; event 0x0B06; a buffer below 1,552 bytes is refused, and a failed host
access ends it HOSTERR (R474, R479, Table HST-7). -/
def execQuote (q : Fin 4) (tag : W32) (hostOk : Bool) (s : State) : Out :=
  .next (match s.findCmd q.val tag 7 with
    | none => s
    | some c =>
      if c.arg 48 4 < 1552 then s.finish q.val c 2 1 else
      let nonce := (c.raw.drop 8).take 32
      let n := quoteSigLen s nonce
      let body := quoteBody s nonce n
      let sig := (List.range n).map (Config.falconSign s.fus.idKey (shake256 body))
      let signed := fun (t : State) => t.raise 0x0B06 0 0x900 (leNat (nonce.take 8))
      if hostOk then (signed (s.hostWrite (c.arg 40 8) (body ++ sig))).finish q.val c 0 (272 + n)
      else (signed s).finish q.val c 4 0)

/-! ## BAR2 and BAR4 -/

/-- A part of a host access: space and its key, or none where BAR2 holds nothing, with the count of bytes (Table HST-2). -/
abbrev BarPart := Option (Nat × Nat) × Nat

/-- The parts of an access to BAR2, cut at the 2 MiB ends of the buffers; the first argument bounds the cuts. -/
def bar2Parts : Nat → Nat → Nat → List BarPart
  | 0, _, _ => []
  | f + 1, off, n =>
    if n = 0 then [] else
    let m := min n (2 ^ 21 - off % 2 ^ 21)
    let p : Option (Nat × Nat) := if off < 2 ^ 27 then some (0, off) else if off < 0xC000000 then some (1, off - 2 ^ 27) else none
    (p, m) :: bar2Parts f (off + m) (n - m)

/-- The parts of an access to a BAR. DRAM beyond the fitted size is none (R258). -/
def barParts (s : State) (bar4 : Bool) (off n : Nat) : List BarPart :=
  if bar4 then
    let m := min n (s.dramBytes - off)
    (if m = 0 then [] else [(some (2, off), m)]) ++ (if n ≤ m then [] else [(none, n - m)])
  else bar2Parts (n / 2 ^ 21 + 2) off n

/-- Whether a part's domain answers. -/
def partUp (s : State) (p : BarPart) : Bool := match p.1 with
  | some (sp, a) => s.spUp (a / 2 ^ 21) sp
  | none => true

/-- Whether the domain of every part of an access answers: FAB for the tank, core n for its buffer, DRAM also where nothing is fitted; BAR2 beyond the
buffers reads 0 as R7 states (Tables HST-2, HST-5, R256). -/
def barUp (s : State) (bar4 : Bool) (ps : List BarPart) : Bool := (!bar4 || s.up 5) && ps.all (partUp s)

/-- Bytes of a part as stored. -/
def partBytes (s : State) (p : BarPart) : List Byte := match p.1 with
  | some (sp, a) => s.bytes sp a p.2
  | none => List.replicate p.2 0

/-- Whether a part holds an uncorrectable error. -/
def partPoison (s : State) (p : BarPart) : Bool := match p.1 with
  | some (sp, a) => s.bad sp a p.2
  | none => false

/-- Records what the host received: data with the EP bit, or none for an error completion (the model's own). -/
def State.hostGot (s : State) (r : Option (List Byte × Bool)) : State := { s with host := { s.host with rd := r } }

/-- A host access that met an uncorrectable error: HST_ERR.POISON and event 0x0A04 (Table HST-5). -/
def hostPoison (p : Nat) (bar4 bad : Bool) (off : Nat) (s : State) : State :=
  if bad then (s.hstErr p 2).raise 0x0A04 2 (0x800 + p) (p + 256 * (if bar4 then 4 else 2) + 2 ^ 64 * off) else s

/-- A read that D3hot and the separators let through: correction, poison with HST_ERR.POISON and event 0x0A04 (R253, R448). -/
def hostReadBody (p : Nat) (bar4 : Bool) (off : Nat) (ps : List BarPart) (s : State) : State :=
  let bad := ps.any (partPoison s)
  let s1 := ps.foldl (fun t x => match x.1 with
    | some (sp, a) => t.readFx sp a x.2 (73 + p) 0
    | none => t) s
  (hostPoison p bar4 bad off s1).hostGot (some (ps.flatMap (partBytes s), bad))

/-- HOST_MEMORY_READ (Table HST-5). -/
def execHostMemoryRead (port : Fin 2) (bar4 : Bool) (off : BitVec 36) (len : Nat) (s : State) : Out :=
  let p := port.val
  let ps := barParts s bar4 off.toNat len
  .next (s.when (s.up 6) (
    if s.rbit (Reg.HST_PSTAT p) 10 then s.hostGot none
    else if !barUp s bar4 ps then (s.hstRefuse p 0 (off.toNat % 2 ^ 32)).hostGot none
    else hostReadBody p bar4 off.toNat ps s))

/-- Writes data part by part; beyond the fitted DRAM nothing is written and TNK_ERR.DRANGE is set (R254, R258, R171). -/
def hostPut (p : Nat) : List BarPart → List Byte → State → State
  | [], _, s => s
  | x :: r, bs, s =>
    let d := bs.take x.2
    hostPut p r (bs.drop x.2) (match x.1 with
      | some (sp, a) => if sp = 2 then s.dramPut a d (73 + p) else s.writeFx sp a d (73 + p)
      | none => s)

/-- The part of a write that meets an uncorrectable group which it covers only in part (R254). -/
def partPwunc (s : State) (p : BarPart) : Bool := match p.1 with
  | some (sp, a) => s.partBadAt sp a p.2
  | none => false

/-- HOST_MEMORY_WRITE (Table HST-5, R254, R258). -/
def execHostMemoryWrite (port : Fin 2) (bar4 : Bool) (off : BitVec 36) (data : List Byte) (s : State) : Out :=
  let p := port.val
  let ps := barParts s bar4 off.toNat data.length
  .next (s.when (s.up 6) (
    if s.rbit (Reg.HST_PSTAT p) 10 then s
    else if !barUp s bar4 ps then s.hstRefuse p 0 (off.toNat % 2 ^ 32)
    else if p = 1 then s.wdrop
    else
      let s1 := hostPoison p bar4 (ps.any (partPwunc s)) off.toNat (hostPut p ps data s)
      if bar4 && ps.any (fun x => x.1.isNone) then s1.orReg Reg.TNK_ERR 4 else s1))

/-! ## Register writes -/

/-- Whether a register's write rule lets it take a write now: ring registers and SEQ_STRM_NEXT while their stream is not bound, intake records while
EN is 0, PWM_PER and CAP_CFG while their channel is disabled; queues, HST_PORTCFG and mailbox exist on port A only (R204, R260, R277, R388, R462). -/
def regOpen (s : State) (a : Nat) : Bool :=
  if 0xC12000 ≤ a ∧ a < 0xC12800 then !s.bound ((a - 0xC12000) / 0x20)
  else if 0xCC0000 ≤ a ∧ a < 0xCC0800 ∧ a % 0x20 = 8 then !s.bound ((a - 0xCC0000) / 0x20)
  else if 0xC11000 ≤ a ∧ a < 0xC12000 then !s.rbit (Reg.IREC ((a - 0xC11000) / 0x40) 0) 7
  else if 0x900100 ≤ a ∧ a < 0x900180 ∧ a % 16 = 0 then !s.rbit Reg.ACT_EN (16 + (a - 0x900100) / 16)
  else if 0x900200 ≤ a ∧ a < 0x900280 ∧ a % 16 = 0 then !s.rbit Reg.ACT_EN (24 + (a - 0x900200) / 16)
  else if 0x400800 ≤ a ∧ a < 0x401000 then !portBNone (a % 0x800)
  else true

/-- What a new value of ACT_EN changes: a disabled PWM output is released, a disabled capture input forgets its edges, a disabled controller sends no
more, and an enabled one may report an overflow again (R378, R380, R383, Table ACT-5). -/
def enableChange (old new : W32) (s : State) : State :=
  let off := fun i => bit old i && !bit new i
  let on := fun i => !bit old i && bit new i
  let s1 := s.onAct (fun a => { a with pwmOn := Tab.keep a.pwmOn (fun n => !off (16 + n)), cap := Tab.keep a.cap (fun n => !off (24 + n)) })
  (List.range 4).foldl (fun t n => 
    if on (12 + n) then t.setCan n { t.can n with ovf := false } else if off (12 + n) then t.setCan n { t.can n with bus := none } else t) s1

/-- What a write changes beside its register: outputs, the watchdog (R414), the crystal lock (R433), a pending MSI-X message at its unmasking (R456),
the mirrored configuration of a stream (R334). -/
def afterWrite (a : Nat) (old : State) (s : State) : State :=
  if a = Reg.ACT_EN then enableChange (old.reg a) (s.reg a) s
  else if a = Reg.RST_WDT_CFG then
    let on := s.rbit a 16
    if s.running && on != s.rst.wdt then { s with rst := { s.rst with wdt := on, kickAt := s.cnt.aon } } else s
  else if a = Reg.CLK_CFG then (if s.rbit a 0 then s else s.clrReg Reg.CLK_STAT 4)
  else if 0xCC0000 ≤ a ∧ a < 0xCC0800 then s.mirrorConfig ((a - 0xCC0000) / 0x20)
  else if 0x404000 ≤ a ∧ a < 0x406000 ∧ a % 0x1000 < 0x400 ∧ a % 16 = 12 then
    let p := (a - 0x404000) / 0x1000
    let v := a % 0x1000 / 16
    if (s.portCfg p).msix && !(s.portCfg p).fmask && !s.rbit a 0 then sendPending p v s else s
  else s

/-- The context to whose register block an address belongs (Table HST-4). -/
def ctxOfAddr (a : Nat) : Option Nat :=
  let o := a % 0x40000
  if 0x01000000 ≤ a ∧ 0x28000 ≤ o ∧ o < 0x28080 then some (4 * ((a - 0x01000000) / 0x40000) + (o - 0x28000) / 0x20) else none

/-- A word of a register with a row of its own: SEQ_CTX_PC is written in two words, SEQ_CTX_CMD may hold several command bits and ARR_CHK_CFG.CLR
stands beside fields without a row, so these act here too; of any other the row alone holds the write, and a lower word's hold ends (R6, R216, R307). -/
def ownWrite (who : Who) (a : Nat) (v : W32) (s : State) : State := match ctxOfAddr a with
  | some i => ctxWord who i a v s
  | none => s.endHeld who a

/-- The stream whose SEQ_STRM_CFG stands at an address. -/
def strmOfCfg (a : Nat) : Option Nat := if 0xCC0000 ≤ a ∧ a < 0xCC0800 ∧ a % 0x20 = 0 then some ((a - 0xCC0000) / 0x20) else none

/-- The core whose ARR_CHK_CFG stands at an address. -/
def chkCfgCore (a : Nat) : Option Nat := (List.range 32).find? (fun c => a == Reg.ARR_CHK_CFG c)

/-- ARR_CHK_CFG.CLR written with the fields of its register clears the counters (R307). -/
def chkClr (a : Nat) (v : W32) (s : State) : State := match chkCfgCore a with
  | some c => if bit v 10 then clearCoreChecks c s else s
  | none => s

/-- A write of a register word without a row of its own, under its access masks and its write rule; registers with a row of their own take their
writes there (R5 to R8, Table SCO-2). -/
def registerWrite (who : Who) (a : Nat) (v : W32) (s : State) : State :=
  match regRow a with
  | none => s
  | some r =>
    if r.own then ownWrite who a v s
    else if !regOpen s a then s.endHeld who a
    else match strmOfCfg a with
      | some st => strmCfgWrite st v (s.endHeld who a)
      | none => chkClr a v (afterWrite a s (s.writeWord who a v))

/-- REGISTER_WRITE: a host write that is not an aligned word is refused with HST_ERR.UR (Table HST-5, R5). -/
def execRegisterWrite (who : Who) (addr : BarAddr) (v : W32) (s : State) : Out :=
  let a := addr.off.toNat
  .next (if !barAligned addr then (match whoPort who with
    | some p => s.when (s.up 6 && !s.rbit (Reg.HST_PSTAT p) 10) (s.hstRefuse p 1 a)
    | none => s) else s.access who a (registerWrite who a v))

/-! ## Register reads -/

/-- Whether a read of a register gives port B 0 (R445). -/
def portBHides (a : Nat) : Bool := (decide (0x300020 ≤ a) && decide (a < 0x300040)) || a == 0x300044 || (decide (0x301000 ≤ a) && decide (a < 0x302000))

/-- What a register reads for a requester (R445). -/
def State.readFor (s : State) (who : Who) (a : Nat) : W32 := match who with
  | .portB => if portBHides a then 0 else s.readReg a
  | _ => s.readReg a

/-- A read's effect on its requester's latch: the lower word of a 64-bit register latches its upper word (R6). -/
def latchUpper (who : Who) (a : Nat) (s : State) : State :=
  match regRow a with
  | some r => if r.wide = 1 then s.setReq who { s.reqSt who with latch := some (a, s.readFor who (a + 4)) } else s
  | none => s

/-- What a requester's read of an upper word gives: the latched value of that register, or its current one (R6). -/
def State.readUpper (s : State) (who : Who) (a : Nat) : W32 := match (s.reqSt who).latch with
  | some (b, v) => if b + 4 = a then v else s.readFor who a
  | none => s.readFor who a

/-- A read of a word: one of the NVS read window waits at the store as R396 and R397 state, any other latches its upper word (R6). -/
def readLower (who : Who) (a : Nat) (s : State) : State :=
  if 0x280000 ≤ a ∧ a < 0x2C0000 ∧ a % 4 = 0 then s.nvsPut [.win (whoIx who) (a - 0x280000)] else latchUpper who a s

/-- LOWER_WORD_READ: in D3hot and towards a domain not in RUN the read answers with an error and latches nothing (Table HST-5). -/
def execLowerWordRead (who : Who) (addr : BarAddr) (s : State) : Out :=
  let a := addr.off.toNat
  .next (match whoPort who with
    | none => s.when (s.up (domOfAddr a)) (readLower who a s)
    | some p =>
      if !s.up 6 || s.rbit (Reg.HST_PSTAT p) 10 then s
      else if !barAligned addr then s.hstRefuse p 1 a
      else if !s.readReach a then s.hstRefuse p 0 a
      else readLower who a s)

end Sys2Proof.Machine
end

