-- ==== Sys2Proof/Machine/Links.lean ====
section
/-!
DEFINITION. Herd link ports, routing and collectives (12_herd_links_and_twin_pairs.md, R310 to R328, R339).
-/
namespace Sys2Proof.Machine

/-! ## Ports -/

/-- This device's id (R15, R315). -/
def State.hlkId (s : State) : Nat := s.fld Reg.HLK_ID 9 0

/-- Sets STATE of a port. -/
def State.setPortSt (s : State) (p v : Nat) : State := s.setFld (Reg.HLK_PSTAT p) 2 0 v

/-- PORT_ENABLE: PEN from 0 to 1 starts a bring-up, from 1 to 0 takes the port down (R311, R312, R314). -/
def execPortEnable (who : Who) (v : W32) (s : State) : Out :=
  .next (s.access who Reg.HLK_CTL (fun s =>
    let s1 := s.putMasked Reg.HLK_CTL v
    (List.range 8).foldl (fun t p =>
      if s.rbit Reg.HLK_CTL p = bit v p then t
      else (t.setPort p .idle).setReg (Reg.HLK_PSTAT p) (if bit v p then 1 else 0)) s1))

/-- PORT_TRAIN_TIMEOUT: the port starts over; the first failure since PEN was set raises event 0x0501 (R311). -/
def execPortTrainTimeout (p : Fin 8) (s : State) : Out :=
  .next (s.when (s.up 7 && s.portSt p == 1) (
    let x := s.port p
    let s1 := (s.orReg (Reg.HLK_PERR p) 2).setPort p { x with late := true }
    s1.raiseIf (!x.late) 0x0501 1 0x300 (p.val + 256 + 2 ^ 16 * s.fld (Reg.HLK_PSTAT p) 13 4)))

/-- Whether the far end is refused (R312). -/
def identityBad (s : State) (p farId part : Nat) (pairEn : Bool) : Bool :=
  part != 0x8060 || farId == s.hlkId || (s.rbit (Reg.HLK_PCFG p) 10 && farId != s.fld (Reg.HLK_PCFG p) 9 0)
    || (p == 7 && pairEn != s.rbit Reg.HLK_PAIR_CFG 0)

/-- IDENTITY_EXCHANGE: UP, or REFUSED with event 0x0501 (R312). -/
def execIdentityExchange (p : Fin 8) (farId : BitVec 10) (part : BitVec 16) (pairEn : Bool) (s : State) : Out :=
  .next (s.when (s.up 7 && s.portSt p == 1) (
    let far := BitVec.ofNat 32 (16 * farId.toNat + 2 ^ 14)
    if identityBad s p farId.toNat part.toNat pairEn then
      ((s.setReg (Reg.HLK_PSTAT p) (far ||| 3)).orReg (Reg.HLK_PERR p) 1).raise 0x0501 1 0x300 (p.val + 2 ^ 16 * farId.toNat)
    else s.setReg (Reg.HLK_PSTAT p) (far ||| 2)))

/-- A port enters FAILED: its frames are discarded, with event 0x0502 (R314). -/
def portFail (p : Nat) (lseq : W32) (s : State) : State :=
  ((((s.setPortSt p 4).setPort p { s.port p with buf := [] }).orReg (Reg.HLK_PERR p) 4)).raise 0x0502 2 0x300 (p + 2 ^ 32 * lseq.toNat)

/-- What is left of a run once its frames up to an LSEQ are acknowledged. -/
def TxFrame.acked (lseq : W32) (f : TxFrame) : Option TxFrame :=
  if follows f.lseq lseq then some f
  else
    let k := (lseq - f.lseq).toNat + 1
    if f.cnt ≤ k then none else some { f with lseq := lseq + 1, cnt := f.cnt - k }

/-- LINK_ACK: frames up to an LSEQ leave the replay buffer (R314). -/
def execLinkAck (p : Fin 8) (lseq : W32) (s : State) : Out :=
  .next (s.when (s.portUp p) (let x := s.port p; s.setPort p { x with buf := x.buf.filterMap (TxFrame.acked lseq) }))

/-- Whether a frame may be replayed once more: fewer than 4 replays, within 10 µs of its first transmission (R314). -/
def replayOk (s : State) (f : TxFrame) : Bool := decide (f.n < 4) && decide ((s.cnt.hlk - f.at').toNat ≤ 1000)

/-- A run cut before an LSEQ that lies within it: the frames before, and those from it on. -/
def TxFrame.cut (lseq : W32) (f : TxFrame) : List TxFrame :=
  let k := (lseq - f.lseq).toNat
  if 0 < k ∧ k < f.cnt then [{ f with cnt := k }, { f with lseq := lseq, cnt := f.cnt - k }] else [f]

/-- REPLAY_REQUEST: the frames from an LSEQ on are sent again, or the port enters FAILED (R314). -/
def execReplayRequest (p : Fin 8) (lseq : W32) (s : State) : Out :=
  .next (s.when (s.portUp p) (
    let x := s.port p
    let again := fun (f : TxFrame) => f.lseq == lseq || follows f.lseq lseq
    let runs := x.buf.flatMap (TxFrame.cut lseq)
    let l := runs.filter again
    match l.find? (fun f => !replayOk s f) with
    | some f => portFail p f.lseq s
    | none =>
      let s1 := (s.setPort p { x with buf := runs.map (fun f => if again f then { f with n := f.n + 1 } else f) }).incReg Reg.HLK_REPLAY_CNT
        ((l.map (fun f => f.cnt)).foldl (fun a b => a + b) 0)
      l.foldl (fun t f => t.emit p f.wire) s1))

/-- FRAME_CRC_FAIL: a frame that fails its CRC or comes out of LSEQ order is not taken, and a replay from the first LSEQ not received intact is
requested (R314). -/
def execFrameCrcFail (p : Fin 8) (s : State) : Out := .next (s.when (s.portUp p) (s.emit p (.replay (s.port p).rx)))

/-- REPLAY_EXHAUSTED: the 10 µs of a frame still unacknowledged have passed (R314). -/
def execReplayExhausted (p : Fin 8) (lseq : W32) (s : State) : Out :=
  .next (s.when (s.portUp p && (s.port p).buf.any (fun f => decide ((lseq - f.lseq).toNat < f.cnt))) (portFail p lseq s))

/-- HLK_ID_WRITE: takes effect while every port is DOWN (R315). -/
def execHlkIdWrite (who : Who) (v : W32) (s : State) : Out :=
  .next (s.access who Reg.HLK_ID (fun s => if (List.range 8).all (fun p => s.portSt p == 0) then s.putMasked Reg.HLK_ID v else s))

/-- HLK_CLR_CNT: clears the counters from 0x020 to 0x034 (Table HRD-8). -/
def execHlkClrCnt (who : Who) (s : State) : Out :=
  .next (s.access who Reg.HLK_CMD (fun s => (List.range 6).foldl (fun t i => t.setReg (Reg.HLK_DIG_CV_CNT + 4 * i) 0) s))

/-! ## Routing -/

/-- Whether a port carries herd frames: UP, and not the pair's link (R316). -/
def State.herdPort (s : State) (p : Nat) : Bool := s.portUp p && !(p == 7 && s.rbit Reg.HLK_PAIR_CFG 0)

/-- The port on which a frame for a device leaves (R316). -/
def State.route (s : State) (dst : Nat) : Option Nat :=
  let e := s.reg (Reg.HLK_RT dst)
  if bit e 3 && s.herdPort (bits e 2 0) then some (bits e 2 0) else none

/-- A forwarded frame as it leaves a port: VL 1 on a dateline port (R317). -/
def wireOut (s : State) (p : Nat) (w : Wire) : Wire :=
  let vl := fun (v : Bool) => v || s.rbit (Reg.HLK_PCFG p) 11
  match w with
  | .chunk f => .chunk { f with vl := vl f.vl }
  | .ack r => .ack { r with vl := vl r.vl }
  | .resend r => .resend { r with vl := vl r.vl }
  | w => w

/-- Sends herd frames that originate here to another device, on VL 0, or discards and counts them (R316, R317). -/
def herdSend (dst : Nat) (w : Wire) (s : State) : State := match s.route dst with
  | some p => s.portSend p w
  | none => s.incReg Reg.HLK_ROUTE_DROP w.frames

/-- Forwards herd frames that arrived for another device, or discards and counts them (R316, R317). -/
def herdForward (dst : Nat) (w : Wire) (s : State) : State := match s.route dst with
  | some p => s.portSend p (wireOut s p w)
  | none => s.incReg Reg.HLK_ROUTE_DROP w.frames

/-! ## Descriptors -/

/-- Tank offset of descriptor i (R319). -/
def State.collAt (s : State) (i : Nat) : Nat := 64 * s.fld Reg.HLK_CQ_BASE 20 0 + 64 * i

/-- Chunk bytes: KIB below 4 acts as 4, above 64 as 64 (Table HRD-8). -/
def State.chunkBytes (s : State) : Nat := 1024 * max 4 (min 64 (s.fld Reg.HLK_CHUNK 6 0))

/-- The collective of descriptor i (Table HRD-3). -/
def collOf (s : State) (i : Nat) : Coll :=
  let b := fun o n => s.num 0 (s.collAt i + o) n
  let ms := (List.range (min 1024 (b 4 2))).map (fun j => s.num 0 (b 24 4 + 2 * j) 2)
  ⟨BitVec.ofNat 16 (b 0 2), b 2 1, bit (BitVec.ofNat 8 (b 3 1)) 0, bit (BitVec.ofNat 8 (b 3 1)) 1, b 6 2, BitVec.ofNat 32 (b 8 4), b 12 4, b 16 4, b 20 4, ms, ms.findIdx (fun d => d == s.hlkId), b 28 2, b 30 2, BitVec.ofNat 32 (b 32 4), b 36 4, if b 44 1 % 2 = 1 then some (b 40 4) else none, s.chunkBytes, none, [], false, [], [], 0, [], [], [], none⟩

/-- Members of a collective. -/
def Coll.m (c : Coll) : Nat := c.members.length

/-- The tank port of the link on which a collective sends, HL0's where it has none (Table TNK-1; log entry 129). -/
def Coll.outPort (c : Coll) (s : State) : Nat := 65 + (s.route (c.members.getD ((c.pos + 1) % max 1 c.m) 0)).getD 0

/-- The tank port of the link on which a collective's chunks come, that on which it sends before any came. -/
def Coll.inPort (c : Coll) (s : State) : Nat := match c.via with
  | some p => 65 + p
  | none => c.outPort s

/-- Elements of an all-reduce (R321). -/
def Coll.elems (c : Coll) : Nat := if c.fin then c.len / 8 else c.len / 4

/-- Bytes of an element of the output of an all-reduce. -/
def Coll.outB (c : Coll) : Nat := if c.fout then 8 else 4

/-- Bytes of a collective's output (R321). -/
def Coll.outLen (c : Coll) : Nat := if c.op = 0 then c.elems * c.outB else if c.op = 1 then c.m * c.len else c.len

/-- Whether a region lies in the tank. -/
def inTank (a n : Nat) : Bool := decide (a + n ≤ 2 ^ 27)

/-- Whether the engine accepts a descriptor (R320). -/
def collOk (s : State) (i : Nat) : Bool :=
  let b := fun o n => s.num 0 (s.collAt i + o) n
  let c := collOf s i
  decide (c.op ≤ 2) && decide (b 3 1 < 4) && (c.op == 0 || b 3 1 == 0) && decide (1 ≤ b 4 2) && decide (b 4 2 ≤ 1024)
    && (if c.op = 2 then decide (c.root < c.m) else c.root == 0) && decide (8 ≤ c.len) && c.len % 8 == 0
    && decide (b 44 1 < 2) && s.num 0 (s.collAt i + 45) 19 == 0 && c.stat % 16 == 0 && (match c.pword with | some a => a % 4 == 0 && inTank a 4 | none => true)
    && inTank c.src c.len && inTank c.dst c.outLen && inTank (b 24 4) (2 * b 4 2) && inTank c.stat 16
    && c.members.all (fun d => decide (d < 1024)) && (c.members.filter (fun d => d == s.hlkId)).length == 1
    && !s.link.colls.any (fun e => e.2.cid == c.cid)

/-- Changes what stands of the herd links. -/
def State.onLink (s : State) (f : LinkSt → LinkSt) : State := { s with link := f s.link }

/-- Replaces a collective. -/
def State.setColl (s : State) (i : Nat) (c : Coll) : State := s.onLink (fun l => { l with colls := Tab.insert l.colls i c })

/-- µs since a collective's start (Table HRD-4). -/
def collTime (s : State) (c : Coll) : Nat := match c.start with
  | some t => min 0xFFFFFFFF ((s.cnt.hlk - t).toNat / 100)
  | none => 0

/-- Writes the completion record, then adds 1 to DNCTR; event 0x0504 unless it is done (R320, R324, R325). -/
def collRecord (c : Coll) (status pch : Nat) (s : State) : State :=
  let s1 := s.tankPut c.stat (leBytes 4 status ++ leBytes 4 pch ++ leBytes 4 c.resends ++ leBytes 4 (collTime s c)) (c.outPort s)
  let s2 := if c.dnCtr < 32768 then s1.addSync c.dnCtr 1 else s1
  s2.raiseIf (status != 0) 0x0504 2 0x300 (c.cid.toNat + 2 ^ 16 * status + 2 ^ 32 * pch)

/-- The oldest incomplete entry from h on. -/
def oldest (l : LinkSt) : Nat → Nat → Nat
  | 0, h => h
  | n + 1, h => if h = l.take ∨ (Tab.find? l.colls h).isSome then h else oldest l n ((h + 1) % 64)

/-- HLK_CQ_HEAD follows the collectives: HEAD and ACTIVE (R319). -/
def headSync (s : State) : State :=
  s.setReg Reg.HLK_CQ_HEAD (BitVec.ofNat 32 (oldest s.link 64 (s.fld Reg.HLK_CQ_HEAD 5 0) + 256 * s.link.colls.length))

/-- Takes descriptors in ring order while fewer than 8 are at work (R319, R320). -/
def takeColls : Nat → State → State
  | 0, s => s
  | n + 1, s =>
    let i := s.link.take
    if i = s.fld Reg.HLK_CQ_TAIL 5 0 ∨ 8 ≤ s.link.colls.length then s
    else
      let c := collOf s i
      let ml := s.num 0 (s.collAt i + 24) 4
      let s0 := (s.readFx 0 (s.collAt i) 64 (c.outPort s) 0).readFx 0 ml (2 * c.m) (c.outPort s) 0
      let s1 := s0.onLink (fun l => { l with take := (i + 1) % 64 })
      takeColls n (if collOk s i then s1.setColl i c else collRecord c 3 0 s1)

/-- COLLECTIVE_SUBMIT: a write of HLK_CQ_TAIL (R319). -/
def execCollectiveSubmit (who : Who) (v : W32) (s : State) : Out :=
  .next (s.access who Reg.HLK_CQ_TAIL (fun s =>
    let s1 := s.putMasked Reg.HLK_CQ_TAIL v
    if s.up 4 then headSync (takeColls 64 s1) else s1))

/-! ## Chunks -/

/-- First element of segment k (R322). -/
def Coll.segLo (c : Coll) (k : Nat) : Nat := k * c.elems / c.m

/-- Bytes of unit k: an all-reduce segment in the reduce phase (pairs of FP32C) or in the result phase, a block, or the root's data. -/
def Coll.unitBytes (c : Coll) (result : Bool) (k : Nat) : Nat :=
  if c.op = 0 then (c.segLo (k + 1) - c.segLo k) * (if result then c.outB else 8) else c.len

/-- Chunks of a number of bytes. -/
def Coll.nch (c : Coll) (b : Nat) : Nat := (b + c.chunk - 1) / c.chunk

/-- The chunk number of the first chunk of unit k (R326). -/
def Coll.base (c : Coll) (result : Bool) (k : Nat) : Nat := ((List.range k).map (fun j => c.nch (c.unitBytes result j))).foldl (fun a b => a + b) 0

/-- The unit that this member receives at a ring step, and whether it is a result (R322). -/
def Coll.unitAt (c : Coll) (t : Nat) : Option (Bool × Nat) :=
  let m := c.m
  if c.op = 0 then
    if t + 2 ≤ m then some (false, (c.pos + 2 * m - 2 - t) % m)
    else if t + 3 ≤ 2 * m then some (true, (c.pos + 2 * m - 2 - t) % m) else none
  else if c.op = 1 then (if t + 2 ≤ m then some (true, (c.pos + m - 1 - t) % m) else none)
  else if (c.pos + m - c.root) % m = t + 1 then some (true, 0) else none

/-- The chunk indices that this member receives, in ascending order (R322, R326). -/
def Coll.expected (c : Coll) : List Nat :=
  (List.range (2 * c.m)).flatMap (fun t => match c.unitAt t with
    | some (r, k) => (List.range (c.nch (c.unitBytes r k))).map (fun j => t * 2 ^ 21 + c.base r k + j)
    | none => [])

/-- The length of chunk j of a unit. -/
def Coll.chunkLen (c : Coll) (result : Bool) (k j : Nat) : Nat := min c.chunk (c.unitBytes result k - j * c.chunk)

/-- Where chunk j of unit k of the output lies (R321). -/
def Coll.outAt (c : Coll) (k j : Nat) : Nat :=
  c.dst + (if c.op = 0 then c.segLo k * c.outB else if c.op = 1 then k * c.len else 0) + j * c.chunk

/-- The 16-byte prefix of a digest (R326). -/
def chunkPrefix (src : Nat) (cid : BitVec 16) (index : Nat) (seq : W32) : List Byte :=
  leBytes 2 src ++ leBytes 2 cid.toNat ++ leBytes 4 index ++ leBytes 4 seq.toNat ++ leBytes 4 0

/-- The digest of a chunk (R326). -/
def chunkDigest (src : Nat) (cid : BitVec 16) (index : Nat) (seq : W32) (payload : List Byte) : W64 :=
  BitVec.ofNat 64 (crc64 (chunkPrefix src cid index seq ++ payload))

/-- Bit 0 of the first byte inverted. -/
def flip0 : List Byte → List Byte
  | [] => []
  | b :: r => (b ^^^ 1) :: r

/-- Transmits a chunk; TST_DIGC may invert bit 0 of its digest or payload (R306, R327). -/
def transmit (f : ChunkFrame) (s : State) : State := match s.pertAt 0x98 with
  | some p =>
    if bits p.val 1 0 = 1 then herdSend f.dst.toNat (.chunk { f with digest := f.digest ^^^ 1 }) (s.usePert 0x98)
    else if bits p.val 1 0 = 2 then herdSend f.dst.toNat (.chunk { f with payload := flip0 f.payload }) (s.usePert 0x98)
    else herdSend f.dst.toNat (.chunk f) s
  | none => herdSend f.dst.toNat (.chunk f) s

/-- Sends a chunk to the next member and keeps it until it is acknowledged (R322, R326). -/
def sendChunk (c : Coll) (index : Nat) (payload : List Byte) (poison : Bool) (s : State) : State :=
  let f : ChunkFrame := ⟨BitVec.ofNat 10 (c.members.getD ((c.pos + 1) % c.m) 0), false, BitVec.ofNat 10 s.hlkId, c.cid, BitVec.ofNat 32 index, c.seq, poison, payload, chunkDigest s.hlkId c.cid index c.seq payload⟩
  transmit f (s.onLink (fun l => { l with kept := l.kept ++ [⟨f, false⟩] }))

/-- Sends a unit at a ring step, its chunks in ascending order. -/
def sendUnit (c : Coll) (t : Nat) (result : Bool) (k : Nat) (data : List Byte) (poison : Nat → Bool) (s : State) : State :=
  (List.range (c.nch (c.unitBytes result k))).foldl (fun u j =>
    sendChunk c (t * 2 ^ 21 + c.base result k + j) ((data.drop (j * c.chunk)).take (c.chunkLen result k j)) (poison j) u) s

/-! ## Reduction -/

/-- The pair at place n of a list of pairs. -/
def pairAt (l : List Byte) (n : Nat) : Pair := ⟨BitVec.ofNat 32 (leNat ((l.drop (8 * n)).take 4)), BitVec.ofNat 32 (leNat ((l.drop (8 * n + 4)).take 4)), false⟩

/-- The bytes of a pair. -/
def Pair.bytes (p : Pair) : List Byte := leBytes 4 p.s.toNat ++ leBytes 4 p.c.toNat

/-- This member's contribution to elements lo to hi − 1 as pairs: an FP32 input enters as (x, +0) (R322). -/
def Coll.own (c : Coll) (lo n : Nat) : List Byte :=
  if c.fin then (c.data.drop (8 * lo)).take (8 * n)
  else (List.range n).flatMap (fun i => (c.data.drop (4 * (lo + i))).take 4 ++ leBytes 4 0)

/-- Two lists of pairs merged, the first being the earlier (R108, R322). -/
def mergePairs (a b : List Byte) : List Byte := (List.range (a.length / 8)).flatMap (fun n => (pairAdd (pairAt a n) (pairAt b n)).bytes)

/-- An FP32 word with a NaN in its canonical form (R21). -/
def fcanon (x : W32) : W32 := if f32IsNaN x then f32NaN else x

/-- Pairs in the output format: an FP32 output is fl(s + c); a NaN is canonical, the contribution of an only member too (R21, R322). -/
def Coll.outForm (c : Coll) (l : List Byte) : List Byte :=
  if c.fout then (List.range (l.length / 8)).flatMap (fun n => let p := pairAt l n; leBytes 4 (fcanon p.s).toNat ++ leBytes 4 (fcanon p.c).toNat) else (List.range (l.length / 8)).flatMap (fun n => let p := pairAt l n; leBytes 4 (fadd p.s p.c).toNat)

/-- Puts the chunks of a unit into the output (R325, R328). -/
def putOuts (c : Coll) (k : Nat) (data : List Byte) (poison : Nat → Bool) : Coll :=
  { c with outs := (List.range (c.nch (c.unitBytes true k))).foldl (fun t j =>
      Tab.insert t (c.base true k + j) (c.outAt k j, (data.drop (j * c.chunk)).take (c.chunkLen true k j), poison j)) c.outs }

/-- The poison of result chunk j of a segment whose reduce chunks have flags: any that its elements lie in (R328). -/
def resultPoison (c : Coll) (flags : Tab (List Byte × Bool)) (j : Nat) : Bool :=
  let lo := j * c.chunk / c.outB
  let hi := ((j + 1) * c.chunk + c.outB - 1) / c.outB
  flags.any (fun e => e.2.2 && overlap (e.1 * c.chunk) c.chunk (8 * lo) (8 * (hi - lo)))

/-- This member's own segment is reduced: its result goes into the output and round the ring (R322). -/
def segmentDone (i : Nat) (c : Coll) (s : State) : State :=
  let data := c.outForm (c.red.flatMap (fun e => e.2.1))
  let p := resultPoison c c.red
  let s1 := s.setColl i (putOuts c c.pos data p)
  if c.m = 1 then s1 else sendUnit c (c.m - 1) true c.pos data p s1

/-- A chunk accepted: merged or stored, and passed on (R322, R328). -/
def useChunk (i : Nat) (c0 : Coll) (index : Nat) (payload : List Byte) (poison : Bool) (s : State) : State :=
  let c : Coll := { c0 with got := index :: c0.got, wait := Tab.erase c0.wait index }
  let t := index / 2 ^ 21
  match c.unitAt t with
  | none => s
  | some (result, k) =>
    let j := index % 2 ^ 21 - c.base result k
    let on := index + 2 ^ 21
    if !result then
      let e := c.chunk / 8
      let merged := mergePairs payload (c.own (c.segLo k + j * e) (payload.length / 8))
      let bad := poison || c.pois
      if t + 2 < c.m then sendChunk c on merged bad (s.setColl i c)
      else
        let c1 := { c with red := Tab.insert c.red j (merged, bad) }
        if c1.red.length = c.nch (c.unitBytes false k) then segmentDone i c1 s else s.setColl i c1
    else
      let c1 := { c with outs := Tab.insert c.outs (c.base true k + j) (c.outAt k j, payload, poison) }
      let more := if c.op = 0 then decide (t + 3 < 2 * c.m) else if c.op = 1 then decide (t + 2 < c.m) else decide (t + 2 < c.m)
      if more then sendChunk c on payload poison (s.setColl i c1) else s.setColl i c1

/-! ## Receiving -/

/-- A classified digest mismatch: its counter and event 0x0503 (R327, Table HRD-5). -/
def classify (c : Coll) (cls src index : Nat) (s : State) : State :=
  (s.incReg (Reg.HLK_DIG_CV_CNT + 4 * cls) 1).raise 0x0503 1 0x300 (cls + 2 ^ 16 * src + 2 ^ 32 * c.cid.toNat + 2 ^ 64 * index)

/-- The length of the chunk with an index that this member receives. -/
def Coll.lenAt (c : Coll) (x : Nat) : Nat := match c.unitAt (x / 2 ^ 21) with
  | some (r, k) => c.chunkLen r k (x % 2 ^ 21 - c.base r k)
  | none => 0

/-- Whether a chunk names the source, SEQ and index, and has the length, that this member's descriptor expects. One that does not comes of a descriptor
that differs (R320). -/
def Coll.mine (c : Coll) (prev x : Nat) (f : ChunkFrame) : Bool :=
  f.src.toNat == prev && f.seq == c.seq && f.index.toNat == x && f.payload.length == c.lenAt x

/-- A chunk for a collective that has started (R327). What comes of a descriptor that differs is never used, nor judged as the chunk sent again: the
collective times out (R320, R324; log entry 160). -/
def recvChunk (i p : Nat) (f : ChunkFrame) (s : State) : State := match Tab.find? s.link.colls i with
  | none => s
  | some c0 =>
    let c : Coll := { c0 with via := some p }
    let left := c.expected.filter (fun x => !c.got.contains x)
    match (if left.contains f.index.toNat then some f.index.toNat else left.head?) with
    | none => s
    | some x =>
      let prev := c.members.getD ((c.pos + c.m - 1) % c.m) 0
      let ok := chunkDigest prev c.cid x c.seq f.payload == f.digest
      let ack := fun (u : State) => herdSend prev (.ack ⟨BitVec.ofNat 10 prev, false, c.cid, BitVec.ofNat 32 x⟩) u
      match Tab.find? c.wait x with
      | some old =>
        if !c.mine prev x f then s else
        let cls := if !ok then 2 else if f.payload = old then 0 else 1
        useChunk i c x f.payload (f.poison || !ok) (ack (classify c cls prev x s))
      | none =>
        if ok then (if f.payload.length = c.lenAt x then useChunk i c x f.payload f.poison (ack s) else s)
        else herdSend prev (.resend ⟨BitVec.ofNat 10 prev, false, c.cid, BitVec.ofNat 32 x⟩)
          (s.setColl i { c with wait := Tab.insert c.wait x f.payload, resends := c.resends + 1 })

/-- Herd frames that came on a port: acknowledged, then forwarded to their destination, or delivered here (R314, R316). -/
def herdTake (p : Nat) (dst : Nat) (w : Wire) (f : State → State) (s : State) : State :=
  s.onFrames p w.frames (s.herdPort p) (fun t => if dst ≠ t.hlkId then herdForward dst w t else f t)

/-- CHUNK_DATA: forwarded to its destination, or delivered here: held until the collective starts, discarded and counted after a timeout, or
received (R316, R324, R327). -/
def execChunkData (p : Fin 8) (f : ChunkFrame) (s : State) : Out :=
  .next (herdTake p f.dst.toNat (.chunk f) (fun s =>
      let dead := s.link.dead.contains (f.cid, f.seq)
      match s.link.colls.find? (fun e => e.2.cid == f.cid) with
      | some (i, c) =>
        if c.seq ≠ f.seq ∧ dead then s.incReg Reg.HLK_LATE_DROP 1
        else if c.start.isNone then s.setColl i { c with early := c.early ++ [(p.val, f)] }
        else if s.up 4 then recvChunk i p f s else s
      | none => if dead then s.incReg Reg.HLK_LATE_DROP 1 else s) s)

/-- Releases the kept chunk that an ack names (R326). -/
def releaseKept (r : ChunkReply) (s : State) : State :=
  s.onLink (fun l => { l with kept := l.kept.filter (fun k => !(k.frame.cid == r.cid && k.frame.index == r.index)) })

/-- CHUNK_ACK: forwarded, or the sender releases a chunk (R316, R326). -/
def execChunkAck (p : Fin 8) (r : ChunkReply) (s : State) : Out := .next (herdTake p r.dst.toNat (.ack r) (releaseKept r) s)

/-- Sends a kept chunk again, at most once (R327). -/
def resendKept (r : ChunkReply) (s : State) : State :=
  let mine := fun (k : Kept) => k.frame.cid == r.cid && k.frame.index == r.index && !k.resent
  match s.link.kept.find? mine with
  | some k => transmit k.frame (s.onLink (fun l => { l with kept := l.kept.map (fun x => if mine x then { x with resent := true } else x) }))
  | none => s

/-- RESEND_REQUEST: forwarded, or the sender sends a chunk again (R316, R327). -/
def execResendRequest (p : Fin 8) (r : ChunkReply) (s : State) : Out := .next (herdTake p r.dst.toNat (.resend r) (resendKept r) s)

/-! ## Start and end -/

/-- What this member sends at the start (R321, R322). -/
def firstSend (i : Nat) (c : Coll) (s : State) : State :=
  let m := c.m
  let p := fun (_ : Nat) => c.pois
  if c.op = 0 then
    if m = 1 then
      let own := c.own 0 c.elems
      segmentDone i { c with red := (List.range (c.nch (8 * c.elems))).map (fun j => (j, (own.drop (j * c.chunk)).take c.chunk, c.pois)) } s
    else
      let k := (c.pos + m - 1) % m
      let s1 := sendUnit c 0 false k (c.own (c.segLo k) (c.segLo (k + 1) - c.segLo k)) p (s.setColl i c)
      if c.unitBytes false c.pos = 0 then segmentDone i c s1 else s1
  else if c.op = 1 then
    let s1 := s.setColl i (putOuts c c.pos c.data p)
    if m = 1 then s1 else sendUnit c 0 true c.pos c.data p s1
  else if c.pos = c.root then
    let s1 := s.setColl i (putOuts c 0 c.data p)
    if m = 1 then s1 else sendUnit c 0 true 0 c.data p s1
  else s.setColl i c

/-- COLLECTIVE_START: GOCTR has reached GOTGT; the poison word and the contribution are read and the first unit is sent (R321, R328). -/
def execCollectiveStart (i : Fin 64) (s : State) : Out :=
  .next (s.when (s.up 7 && s.up 4) (match Tab.find? s.link.colls i.val with
    | some c =>
      if c.start.isSome || !reached s c.goCtr c.goTgt then s else
      let pw := match c.pword with | some a => s.num 0 a 4 != 0 | none => false
      let s1 := match c.pword with | some a => s.readFx 0 a 4 (c.outPort s) 0 | none => s
      let c1 : Coll := { c with start := some s.cnt.hlk, data := s.bytes 0 c.src c.len, pois := pw || s.bad 0 c.src c.len, early := [] }
      c.early.foldl (fun t e => recvChunk i.val e.1 e.2 t) (firstSend i.val c1 (s1.readFx 0 c.src c.len (c.outPort s) 0))
    | none => s))

/-- Writes the poison code to the groups of a range of the tank (R325). -/
def poisonRange (a n : Nat) (s : State) : State :=
  let m := s.mem.tank.writeRaw a ((List.range n).map (fun i => Config.poisonByte (a + i) s.cnt.hlk))
  let gs := (List.range (n / 8 + 2)).map (fun i => a / 8 + i)
  s.setMem 0 { m with ecc := gs.foldl (fun t g => if overlap (8 * g) 8 a n then Tab.insert t g true else t) m.ecc }

/-- A collective ends: the engine forgets it, HEAD follows, and more are taken (R319). -/
def collEnd (i : Nat) (s : State) : State := headSync (takeColls 64 (s.onLink (fun l => { l with colls := Tab.erase l.colls i })))

/-- COLLECTIVE_COMPLETE: with every chunk received, the output, the record and DNCTR follow (R325, R328). -/
def execCollectiveComplete (i : Fin 64) (s : State) : Out :=
  .next (s.when (s.up 7 && s.up 4) (match Tab.find? s.link.colls i.val with
    | some c =>
      if c.start.isNone || c.expected.any (fun x => !c.got.contains x) then s else
      let good := c.outs.filter (fun e => !e.2.2.2)
      let bad := c.outs.filter (fun e => e.2.2.2)
      let s1 := good.foldl (fun t e => t.tankPut e.2.1 e.2.2.1 (c.inPort s)) s
      let s2 := bad.foldl (fun t e => poisonRange e.2.1 e.2.2.1.length t) s1
      collEnd i.val (collRecord c (if bad.isEmpty then 0 else 1) bad.length s2)
    | none => s))

/-- Chunks of a whole output. -/
def Coll.outChunks (c : Coll) : Nat :=
  ((List.range (if c.op = 2 then 1 else c.m)).map (fun k => c.nch (c.unitBytes true k))).foldl (fun a b => a + b) 0

/-- COLLECTIVE_TIMEOUT: the whole output is written with the poison code, STATUS 2 (R324). -/
def execCollectiveTimeout (i : Fin 64) (s : State) : Out :=
  .next (s.when (s.up 7 && s.up 4) (match Tab.find? s.link.colls i.val with
    | some c =>
      if c.start.isNone then s else
      let s1 := collRecord c 2 c.outChunks (poisonRange c.dst c.outLen s)
      collEnd i.val (s1.onLink (fun l => { l with dead := (c.cid, c.seq) :: l.dead, kept := l.kept.filter (fun k => !(k.frame.cid == c.cid && k.frame.seq == c.seq)) }))
    | none => s))

end Sys2Proof.Machine
end

