-- ==== Sys2Proof/Machine/Pair.lean ====
section
/-!
DEFINITION. The twin pair: authority interlock, heartbeat, pair states, mirror, lockstep (12_herd_links_and_twin_pairs.md, R329 to R340).
The state codes are those of HLK_PAIR_STAT: 0 DISABLED, 1 JOINING, 2 PRIMARY, 3 STANDBY, 4 TAKEOVER, 5 FENCED.
-/
namespace Sys2Proof.Machine

/-- Changes the pair. -/
def State.onPair (s : State) (f : PairSt → PairSt) : State := { s with pair := f s.pair }

/-- HLK_PAIR_CFG.EN. -/
def State.pairEn (s : State) : Bool := s.rbit Reg.HLK_PAIR_CFG 0

/-- The peer's device id as configured. -/
def State.peerId (s : State) : Nat := s.fld Reg.HLK_PAIR_CFG 11 2

/-! ## The interlock -/

/-- Releases PRIMARY_N and ends any claim (R330). -/
def dropPrim (s : State) : State :=
  authSync s.auth (s.onPair (fun p => { p with prim := false, window := false, claim := false }))

/-- Event 0x0508 with the pair state reached (R341). -/
def event508 (s : State) : State := s.raise 0x0508 2 0x300 (s.pair.st + 2 ^ 16 * s.peerId)

/-- Enters FENCED: PRIMARY_N is released (Table HRD-6); a standby's mirrored checkpoints are spent. -/
def toFenced (s : State) : State :=
  let keep := s.lockMode || (s.pair.st != 3 && s.pair.st != 4)
  (dropPrim s).onPair (fun p => { p with st := 5, peerOk := false, synced := false, resync := none, taking := false, chk := if keep then p.chk else [] })

/-- Enters JOINING. -/
def toJoining (s : State) : State :=
  (dropPrim s).onPair (fun p => { p with st := 1, peerOk := false, synced := false, resync := none, taking := false, missed := 0, kickMiss := 0, heard := false })

/-- The interlock releases PRIMARY_N: FENCED with EN 1, DISABLED otherwise, event 0x0508 (R329). -/
def interlockLost (s : State) : State := event508 (if s.pairEn then toFenced s else dropPrim s)

/-- A standby loses its peer: TAKEOVER with event 0x0505, or FENCED with event 0x0508 (Tables HRD-6 and HRD-7). -/
def standbyLost (s : State) : State :=
  if s.pair.synced then
    let s1 := s.onPair (fun p => { p with st := 4, claim := true, peerOk := false, since := s.cnt.hlk, closedNo := 0 })
    s1.raise 0x0505 2 0x300 (4 + 256 * s.pair.missed + 2 ^ 16 * s.peerId)
  else event508 (toFenced s)

/-- PEER_PRIMARY_CHANGE: an assertion releases held authority, and in the conflict window the higher id or both equal ids; a deassertion tells a
standby that its peer is lost (R329, R332). The pin's level is followed while the links are down too. -/
def execPeerPrimaryChange (asserted : Bool) (s : State) : Out :=
  let s1 := s.onPair (fun p => { p with peerPrim := asserted })
  .next (if !s.up 7 then s1
    else if asserted then
      if s.pair.prim && (!s.pair.window || decide (s.peerId ≤ s.fld Reg.HLK_ID 9 0)) then interlockLost s1 else s1
    else if s.pair.peerPrim && s.pair.st == 3 then standbyLost s1 else s1)

/-- PRIMARY_ASSERT: a claim asserts PRIMARY_N while the peer's pin is deasserted (R329). -/
def execPrimaryAssert (s : State) : Out :=
  .next (s.when (s.up 7 && s.pair.claim && !s.pair.prim && !s.pair.peerPrim)
    (s.onPair (fun p => { p with prim := true, window := true, claim := false })))

/-- CONFLICT_WINDOW_END: authority is held (R329). -/
def execConflictWindowEnd (s : State) : Out :=
  .next (s.when (s.up 7 && s.pair.window) (authSync s.auth (s.onPair (fun p => { p with window := false }))))

/-- CLAIM: in DISABLED (R330). -/
def execClaim (who : Who) (s : State) : Out :=
  .next (s.access who Reg.HLK_PAIR_CMD (fun s => if s.pair.st = 0 ∧ !s.pair.prim then s.onPair (fun p => { p with claim := true }) else s))

/-- RELEASE: releases PRIMARY_N; a PRIMARY enters FENCED (R330, Table HRD-6). -/
def execRelease (who : Who) (s : State) : Out :=
  .next (s.access who Reg.HLK_PAIR_CMD (fun s => if s.pair.st = 2 then toFenced s else dropPrim s))

/-- REJOIN: FENCED to JOINING (Table HRD-6). -/
def execRejoin (who : Who) (s : State) : Out :=
  .next (s.access who Reg.HLK_PAIR_CMD (fun s => if s.pair.st = 5 then toJoining s else s))

/-- The first bound stream whose output entries exceed 65 units (R336). -/
def lockRefused (s : State) : Option Nat := (List.range 64).find? (fun st => s.bound st && decide (65 < s.fld (Reg.INT_OUT_GEOM st) 15 0))

/-- HLK_PAIR_CFG as a write leaves it: MODE and PEER change in DISABLED or FENCED only (R332). -/
def pairCfgNext (s : State) (v : W32) : W32 :=
  if s.pair.st = 0 ∨ s.pair.st = 5 then v &&& 0xFFF else (s.reg Reg.HLK_PAIR_CFG &&& ~~~1) ||| (v &&& 1)

/-- PAIR_CFG_WRITE (R332): EN from 1 to 0 enters DISABLED, from 0 to 1 JOINING; entering LOCKSTEP-COMPARE may be refused with event 0x0507 (R336). -/
def execPairCfgWrite (who : Who) (v : W32) (s : State) : Out :=
  .next (s.access who Reg.HLK_PAIR_CFG (fun s =>
    let n := pairCfgNext s v
    match (if bit n 0 && bit n 1 && !s.lockMode then lockRefused s else none) with
    | some st => s.raiseStream 0x0507 2 0x300 st 0 (st + 256 * 2)
    | none =>
      let s1 := s.setReg Reg.HLK_PAIR_CFG n
      if s.pairEn && !bit n 0 then
        (dropPrim s1).onPair (fun p => { p with st := 0, peerOk := false, synced := false, resync := none, taking := false, chk := [] })
      else if !s.pairEn && bit n 0 then toJoining s1
      else s1))

/-- HLK_AUTHW_WRITE: EN from 0 to 1 writes the word (R330). -/
def execHlkAuthwWrite (who : Who) (v : W32) (s : State) : Out :=
  .next (s.access who Reg.HLK_AUTHW (fun s =>
    let s1 := s.putMasked Reg.HLK_AUTHW v
    if s1.rbit Reg.HLK_AUTHW 31 && !s.rbit Reg.HLK_AUTHW 31 then authWord s1 else s1))

/-! ## The mirror -/

/-- Time left to a deadline, in 10 ns. -/
def timeLeft (s : State) (r : SeqSt) : W64 := if r.deadline.toNat ≤ s.cnt.gate.toNat then 0 else r.deadline - s.cnt.gate

/-- The output entry of a resolved number: its header and data, as written, or as it waits to be written (R266, R267). -/
def resolvedEntry (s : State) (st : Nat) (n : W32) : List Byte :=
  let a := s.outEntry st n
  let h := match (s.strm st).outq.find? (fun r => r.seq == n) with
    | some r => r.header
    | none => s.bytes 0 a 32
  h ++ s.bytes 0 (a + 32) (min (ringEntry (s.fld (Reg.INT_OUT_GEOM st) 15 0) - 32) (nAt h 8 4))

/-- The resolved numbers whose entries the host has not freed: those in the ring from INT_OUT_TAIL up to HEAD, then those that wait. -/
def unfreed (s : State) (st : Nat) : List W32 :=
  let t := s.reg (Reg.INT_OUT_TAIL st)
  let wait := (s.strm st).outq.map (fun r => r.seq)
  let n := if follows (s.head st) t then min (ringEntries (s.fld (Reg.INT_OUT_GEOM st) 19 16)) (s.head st - t).toNat else 0
  ((List.range n).map (fun i => t + BitVec.ofNat 32 i)).filter (fun q => !wait.contains q) ++ wait

/-- The records of a stream in a resynchronisation (R334, R335). -/
def resyncStream (st : Nat) (s : State) : State :=
  if !s.bound st then s else
  let s1 := s.mirrorConfig st
  let s2 := (s.strm st).seqs.foldl (fun t r => t.mirrorSend (.arrival (strmId st) r.seq (timeLeft s r))) s1
  let s3 := (unfreed s st).foldl (fun t n =>
    let e := resolvedEntry t st n
    (t.readFx 0 (t.outEntry st n) e.length pairPort 0).mirrorSend (.resolution (strmId st) n e)) s2
  s3.mirrorSend (.tail (strmId st) (s.reg (Reg.INT_OUT_TAIL st)))

/-- A context's record in a resynchronisation: its checkpoint of its last TAKE or JOIN; of a result taken before EN was 1, one written now (R335; log
entry 163). -/
def resyncCtx (i : Nat) (s : State) : State := match Tab.find? s.pair.chk i with
  | some area => s.mirrorSend (.checkpoint (ctxId i) area)
  | none => if (s.ctx i).cur.isSome then s.mirrorSend (.checkpoint (ctxId i) (areaBytes i (s.ctx i))) else s

/-- Resynchronises the peer: the whole mirrored state in records; in LOCKSTEP-COMPARE nothing is mirrored and the peer is compared from now on
(R332, R335). -/
def resyncPeer (s : State) : State :=
  if s.lockMode then s.onPair (fun p => { p with peerOk := true }) else
  let s1 := (s.onPair (fun p => { p with resync := some 0 })).mirrorSend .resyncBegin
  let s2 := (List.range 64).foldl (fun t st => resyncStream st t) s1
  let s3 := (List.range 128).foldl (fun t i => resyncCtx i t) s2
  let s4 := s3.mirrorSend .resyncEnd
  s4.onPair (fun p => { p with resync := some p.sent })

/-- A stream's mirror. -/
def State.mirOf (s : State) (st : Nat) : MirStrm := Tab.getD s.pair.mir st ⟨0, 0, 0, 0, [], [], []⟩

/-- Changes a stream's mirror. -/
def State.onMir (s : State) (st : Nat) (f : MirStrm → MirStrm) : State :=
  s.onPair (fun p => { p with mir := Tab.insert p.mir st (f (s.mirOf st)) })

/-- The current result in a save area (Table EXE-5). -/
def areaCur (area : List Byte) : Option (Nat × W32) := if bAt area 3 % 2 = 1 then some (bAt area 16, BitVec.ofNat 32 (nAt area 20 4)) else none

/-- A checkpoint of a stream's home context names a number taken (R200, R334, Table DEP-3). -/
def mirTook (k : Nat) (area : List Byte) (s : State) : State := match areaCur area with
  | some (st, n) => s.onPair (fun p => { p with mir := p.mir.map (fun e =>
      if e.1 = st ∧ bits e.2.cfg 5 1 * 4 + bits e.2.cfg 7 6 = k then (e.1, { e.2 with took := n :: e.2.took.filter (fun m => m != n) }) else e) })
  | none => s

/-- Records a mirror record (R334, R335). -/
def recordMirror (b : MirrorBody) (s : State) : State := match b with
  | .resyncBegin => s
  | .config st cfg next head => s.onMir st (fun m => { m with cfg := cfg, next := next, head := head })
  | .arrival st seq left => s.onMir st (fun m => { m with next := seq + 1, arr := m.arr.filter (fun e => e.1 != seq) ++ [(seq, left)] })
  | .checkpoint k area => mirTook (ctxIx k) area (s.onPair (fun p => { p with chk := Tab.insert p.chk (ctxIx k) area }))
  | .resolution st seq entry => s.onMir st (fun m => { m with took := m.took.filter (fun n => n != seq), head := seq + 1, arr := m.arr.filter (fun e => e.1 != seq), res := m.res.filter (fun e => e.1 != seq) ++ [(seq, entry)] })
  | .tail st v => s.onMir st (fun m => { m with tail := v, res := m.res.filter (fun e => e.1 == v || follows e.1 v) })
  | .resyncEnd => s.onPair (fun p => { p with synced := true, peerOk := true, taking := false })

/-- The standby's mirror has a gap: SYNCED 0, and it asks for a resynchronisation (R334). -/
def mirrorGap (s : State) : State := (s.onPair (fun p => { p with synced := false, taking := false })).toPeer .resync

/-- MIRROR_RECORD: recorded and acknowledged in order, or a gap (R334). -/
def execMirrorRecord (r : MirrorRec) (s : State) : Out :=
  let ok := fun (t : State) => (t.onPair (fun p => { p with got := r.number })).toPeer (.mirrorAck r.number)
  .next (s.onFrames 7 (PairMsg.mirror r).frames (s.pairEn && s.pair.st == 3 && !s.lockMode) (fun s => match r.body with
    | .resyncBegin => ok (s.onPair (fun p => { p with mir := [], chk := [], synced := false, taking := true }))
    | b =>
      if !(s.pair.synced || s.pair.taking) then s
      else if r.number = s.pair.got + 1 then ok (recordMirror b s) else mirrorGap s))

/-- Releases the records of every stream that a condition on their mirror number allows (R334). -/
def freeMirrored (p : W32 → Bool) (s : State) : State :=
  (s.strms.map (fun e => e.1)).foldl (fun t st =>
    let x := t.strm st
    let l := x.outq.map (fun (r : OutRec) => match r.mirror with
      | some n => if p n then { r with mirror := none } else r
      | none => r)
    writeOut st l t) s

/-- MIRROR_ACK: the resolutions covered are written, and the last record of a resynchronisation sets PEER_OK; or the standby asks for a
resynchronisation (R334, R335). -/
def execMirrorAck (n : W32) (ask : Bool) (s : State) : Out :=
  .next (s.onFrames 7 1 (s.pairEn && s.pair.st == 2) (fun s =>
    if ask then resyncPeer (s.onPair (fun p => { p with peerOk := false }))
    else
      let s1 := s.onPair (fun p => { p with acked := n })
      let s2 := match s.pair.resync with
        | some e => if n = e ∨ follows n e then s1.onPair (fun p => { p with peerOk := true, resync := none }) else s1
        | none => s1
      freeMirrored (fun m => m == n || follows n m) s2))

/-- MIRROR_ACK_TIMEOUT: the primary resolves without the peer, PEER_OK 0, event 0x0509 (R334). -/
def execMirrorAckTimeout (s : State) : Out :=
  .next (s.when (s.up 7 && s.pairEn && s.pair.st == 2 && (s.pair.resync.isSome || s.strms.any (fun e => e.2.outq.any (fun r => r.mirror.isSome)))) (
    let s1 := freeMirrored (fun _ => true) (s.onPair (fun p => { p with peerOk := false, resync := none }))
    s1.raise 0x0509 1 0x300 (2 ^ 32 * s.pair.sent.toNat)))

/-! ## Heartbeats -/

/-- KICK: allows the next heartbeat (R331). -/
def execKick (who : Who) (s : State) : Out :=
  .next (s.access who Reg.HLK_HB_KICK (fun s => s.onPair (fun p => { p with kicked := true })))

/-- The kick of an interval: a heartbeat is sent, or a missed kick is counted; four in a row release authority (R330, R331, Table HRD-6). -/
def kickPart (s : State) : State :=
  if s.pair.kicked then
    (s.onPair (fun p => { p with kicked := false, kickMiss := 0 })).toPeer (.heartbeat s.pair.st (s.rbit Reg.HLK_PAIR_CFG 1) (s.fld Reg.HLK_ID 9 0) s.pair.sent)
  else
    let s1 := s.onPair (fun p => { p with kickMiss := p.kickMiss + 1 })
    if s1.pair.kickMiss < 4 then s1
    else if s.pair.st = 2 then toFenced s1
    else if s.pair.st = 3 then event508 (toFenced s1)
    else dropPrim s1

/-- The peer's side of an interval: MISSED, and at 5 the peer is lost (R331, Table HRD-6). -/
def missPart (s : State) : State :=
  if s.pair.heard then s.onPair (fun p => { p with heard := false, missed := 0 })
  else
    let n := min 255 (s.pair.missed + 1)
    let s1 := s.onPair (fun p => { p with missed := n })
    if n ≠ 5 ∨ s.pair.missed = 5 then s1
    else if s.pair.st = 2 then
      (s1.onPair (fun p => { p with peerOk := false, resync := none })).raise 0x0505 2 0x300 (2 + 256 * n + 2 ^ 16 * s.peerId)
    else if s.pair.st = 3 then standbyLost s1
    else s1

/-- HEARTBEAT_TICK: 100 µs of the device's own count with EN 1 (R331). -/
def execHeartbeatTick (s : State) : Out := .next (s.when (s.up 7 && s.pairEn) (missPart (kickPart s)))

/-- A context of a device that becomes a MIRROR standby is stopped: one that restores once it has, others as STOP does (R334; log entry 162). -/
def standDown (i : Nat) (s : State) : State := match (s.ctx i).st with
  | .idle => s
  | .saving => s
  | .restoring => ctxStop i (s.onCtx i (fun c => { c with st := .run }))
  | _ => ctxStop i s

/-- Ends what the standby of a MIRROR pair does not do: it binds no stream and runs no context (R334; log entry 162). -/
def standDownAll (s : State) : State :=
  let s1 := (List.range 64).foldl (fun t st => if t.bound st then trapWaiters st (unbind st t) else t) s
  (s1.ctxs.map (fun e => e.1)).foldl (fun t i => standDown i t) s1

/-- Enters STANDBY. -/
def toStandby (s : State) : State :=
  let s1 := s.onPair (fun p => { p with st := 3, synced := s.lockMode, peerOk := s.lockMode, taking := false })
  if s.lockMode then s1 else standDownAll s1

/-- What a peer's heartbeat does to the pair state (Table HRD-6). A device that finds a PRIMARY asks it for the resynchronisation (R332; log entry
161). -/
def beatState (h : PeerBeat) (s : State) : State :=
  let me := s.fld Reg.HLK_ID 9 0
  if s.pair.st = 1 then
    if h.state.val = 2 then (toStandby s).toPeer .resync
    else if h.state.val = 1 then
      if me < h.id.toNat then resyncPeer (s.onPair (fun p => { p with st := 2, claim := true }))
      else if h.id.toNat < me then toStandby s else s
    else s
  else if s.pair.st = 2 then
    if h.state.val = 1 ∧ !s.pair.peerOk ∧ s.pair.resync.isNone then resyncPeer s else s
  else if s.pair.st = 3 then
    if s.lockMode then s
    else if s.pair.synced then (if h.records ≠ s.pair.got then mirrorGap s else s)
    else if h.state.val = 2 ∧ !s.pair.taking then s.toPeer .resync else s
  else s

/-- HEARTBEAT (R331, R332). -/
def execHeartbeat (h : PeerBeat) (s : State) : Out :=
  .next (s.onFrames 7 1 s.pairEn (fun s => beatState h (s.onPair (fun p => { p with heard := true, missed := 0 }))))

/-- PAIR_JOIN_TIMEOUT: no heartbeat in JOINING; PRIMARY, or FENCED while the peer asserts its pin (Table HRD-6). -/
def execPairJoinTimeout (s : State) : Out :=
  .next (s.when (s.up 7 && s.pairEn && s.pair.st == 1) (
    if s.pair.peerPrim then event508 (toFenced s)
    else s.onPair (fun p => { p with st := 2, claim := true, peerOk := false })))

/-! ## Takeover -/

/-- Counts a resolved number as taken. -/
def State.noteTaken (s : State) (st : Nat) (n : W32) : State :=
  s.setStrm st { s.strm st with took := noted (s.strm st).took true n }

/-- Binds a stream from its mirror: the resolved entries stand in the output ring, but for those whose ring entry the host has not freed, which wait for
it (R267), and every number still unresolved closes as a TAKEOVER gap in ascending order (Table HRD-7, R335). -/
def takeStream (st : Nat) (m : MirStrm) (s : State) : State :=
  let s1 := ((s.setReg (Reg.SEQ_STRM_CFG st) m.cfg).setReg (Reg.SEQ_STRM_NEXT st) m.next).setReg (Reg.INT_OUT_TAIL st) m.tail
  let s2 := (m.res.filter (fun e => s1.outFree st e.1)).foldl (fun t e => t.tankPut (t.outEntry st e.1) e.2 0) s1
  let wait := (m.res.filter (fun e => !s1.outFree st e.1)).map (fun e => (⟨e.1, e.2.take 32, bAt e.2 4 % 2 == 1, none⟩ : OutRec))
  let g := s.cnt.gate
  let s3 := (s2.setStrm st ⟨m.arr.map (fun e => ⟨e.1, g + e.2, m.took.contains e.1, false, .closed 4 0 g⟩), none, wait, none, [], []⟩).flush st
  (m.arr.map (fun e => e.1) ++ m.res.map (fun e => e.1)).foldl (fun t n => t.noteTaken st n) s3

/-- Counts a context's current result as taken. -/
def noteCur (i : Nat) (s : State) : State := match (s.ctx i).cur with
  | some (st, n) => s.noteTaken st n
  | none => s

/-- A context with a checkpoint resumes from it (Table HRD-7, R213). -/
def takeCtx (i : Nat) (area : List Byte) (s : State) : State :=
  if (s.ctx i).st = .idle then noteCur i (ctxResume i (s.tankPut (s.saveAt i) area (i / 4))) else s

/-- The numbers whose DONE awaits the peer's copy (Table HRD-7). -/
def awaiting (s : State) : List (Nat × W32) :=
  s.strms.flatMap (fun e => (e.2.seqs.filter (fun r => r.st == .opened && s.ctxs.any (fun c => match c.2.hold with
    | .doneCopy st n _ _ _ => st == e.1 && n == r.seq
    | _ => false))).map (fun r => (e.1, r.seq)))

/-- TAKEOVER_COMPLETE: with authority held, steps 4 to 6 of Table HRD-7 (R333). -/
def execTakeoverComplete (s : State) : Out :=
  .next (s.when (s.auth && s.pair.st == 4) (
    let (s1, n) :=
      if s.lockMode then ((awaiting s).foldl (fun t e => t.closeNum e.1 e.2 4) s, (awaiting s).length)
      else (s.pair.chk.foldl (fun t e => takeCtx e.1 e.2 t) (s.pair.mir.foldl (fun t e => takeStream e.1 e.2 t) s),
        (s.pair.mir.map (fun e => e.2.arr.length)).foldl (fun a b => a + b) 0)
    let s2 := (s1.onPair (fun p => { p with st := 2, peerOk := false, closedNo := n, mir := [] })).incReg Reg.HLK_FAILOVER_CNT 1
    (s2.raise 0x0506 1 0x300 ((s.cnt.hlk - s.pair.since).toNat / 100 % 2 ^ 32 + 2 ^ 32 * n)).health 3))

/-- TAKEOVER_FENCE_TIMEOUT: the peer still asserts its pin 1 ms after TAKEOVER (Table HRD-6). -/
def execTakeoverFenceTimeout (s : State) : Out :=
  .next (s.when (s.up 7 && s.pair.st == 4 && s.pair.peerPrim) (event508 (toFenced s)))

/-! ## Lockstep -/

/-- ARRIVAL_KEY (R336, R337). -/
def execArrivalKey (st : StreamId) (seq : W32) (key : W64) (s : State) : Out :=
  .next (s.onFrames 7 1 (s.lockMode && s.up 4) (peerKey st.val seq key))

/-- The DONEs that wait on a number are tried again. -/
def doneWaiters (st : Nat) (n : W32) (s : State) : State :=
  (s.ctxs.map (fun e => e.1)).foldl (fun t i => match (t.ctx i).hold with
    | .done a b _ _ => if a = st ∧ b = n then doneAgain i t else t
    | .doneCopy a b _ _ _ => if a = st ∧ b = n then doneAgain i t else t
    | _ => t) s

/-- REALIGN_NOTICE: a DONE for the number returns POISONED, now or when it comes (R337, R338). -/
def execRealignNotice (st : StreamId) (seq : W32) (s : State) : Out :=
  .next (s.onFrames 7 1 (s.lockMode && s.up 4) (fun s =>
    let x := s.lockOf st
    doneWaiters st seq (s.setLock st { x with notices := x.notices ++ [seq] })))

/-- LOCKSTEP_COPY: the peer's last copy of a number is kept, and a DONE that waits for it compares (R338). -/
def execLockstepCopy (st : StreamId) (seq : W32) (data : List Byte) (s : State) : Out :=
  .next (s.onFrames 7 (PairMsg.copy st seq data).frames (s.lockMode && s.up 4) (fun s =>
    let x := s.lockOf st
    doneWaiters st seq (s.setLock st { x with copies := (seq, data) :: x.copies.filter (fun e => e.1 != seq) })))

end Sys2Proof.Machine
end

