-- ==== Sys2Proof/Machine/Sec.lean ====
section
/-!
DEFINITION. Firmware trust (chapter SEC): bundles, revocation, the mailbox, debug unlock.
-/
namespace Sys2Proof.Machine

/-! ## Bundles -/

/-- Check 1 of R465: the fixed and reserved fields of Table SEC-1, and the lengths. -/
def bundleForm (m : Mem) (o avail : Nat) : Bool :=
  let len := m.readN (o + 12) 4
  let sig := m.readN (o + 16) 2
  let fl := m.readN (o + 10) 1
  m.readN o 4 == 0x57465843 && m.readN (o + 4) 2 == 1 && m.readN (o + 6) 2 == 0x8060
    && decide (m.readN (o + 8) 1 ≤ 3) && decide (m.readN (o + 9) 1 ≤ 128) && decide (fl < 4) && m.readN (o + 11) 1 == 0
    && decide (3776 ≤ len) && decide (1 ≤ sig) && decide (sig ≤ 1280) && decide (len + sig ≤ avail)
    && m.zeroIn (o + 18) 46 && m.zeroIn (o + 1857) 63 && m.zeroIn (o + 3713) 63 && (fl / 2 == 1 || m.zeroIn (o + 1920) 1793)

/-- The slot's key hash. -/
def Fuses.key (f : Fuses) (k : Nat) : BitVec 256 := (f.keys[k]?).getD 0

/-- The checks of R465 in their order: the number of the first that fails, or 0. -/
def bundleCheck (s : State) (m : Mem) (o avail : Nat) : Nat :=
  let slot := m.readN (o + 8) 1
  let len := m.readN (o + 12) 4
  let key := m.read (o + 64) 1793
  if !bundleForm m o avail then 1
  else if shake256 key ≠ s.fus.key slot ∨ bit s.fus.revoked slot then 2
  else if m.readN (o + 9) 1 < s.fus.rollback then 3
  else if !Config.falconVerify key (shake256 (m.read o len)) (m.read (o + len) (m.readN (o + 16) 2)) then 4
  else 0

/-- The bundle at an offset. -/
def bundleOf (m : Mem) (o loc : Nat) : Bundle :=
  ⟨loc, m.readN (o + 8) 1, m.readN (o + 9) 1, m.readN (o + 10) 1 % 2 == 1,
    if m.readN (o + 10) 1 / 2 % 2 = 1 then some (m.read (o + 1920) 1793) else none, shake256 (m.read o (m.readN (o + 12) 4))⟩

/-- A bundle is refused with event 0x0B01 (R466, R470). -/
def refuseBundle (loc check : Nat) (s : State) : State := s.raise 0x0B01 2 0x900 (loc + 256 * check)

/-- BUNDLE_VERIFY: the boot ROM tries QSPI 0x0000_0000, then 0x0080_0000, then waits for the mailbox (R466, R423). -/
def execBundleVerify (s : State) : Out :=
  if s.rst.stage ≠ .boot then .next s else
  let c0 := bundleCheck s s.mem.qspi 0 0x800000
  if c0 = 0 then .next (runBundle (bundleOf s.mem.qspi 0 0) 1 s) else
  let s1 := refuseBundle 0 c0 s
  let c1 := bundleCheck s s.mem.qspi 0x800000 0x800000
  if c1 = 0 then .next (runBundle (bundleOf s.mem.qspi 0x800000 1) 1 s1) else
  let s2 := refuseBundle 1 c1 s1
  .next { s2 with rst := { s2.rst with stage := .mailbox } }

/-! ## The mailbox -/

/-- Ends a mailbox command with a code (Table SEC-2). -/
def mbxEnd (code : Nat) (s : State) : State :=
  { s.setReg (Reg.HST_MBX_STAT 0) (BitVec.ofNat 32 (16 * code + 2 ^ 31)) with host := { s.host with mbx := 0 } }

/-- A mailbox command: accepted in its stage with none in progress, else it ends with code 0x1 (R458). -/
def mbxCommand (op : Nat) (stage : Stage) (s : State) : State :=
  if s.host.mbx ≠ 0 then s.setFld (Reg.HST_MBX_STAT 0) 31 4 (1 + 2 ^ 27)
  else if s.rst.stage = stage then
    { s.setReg (Reg.HST_MBX_STAT 0) (s.reg (Reg.HST_MBX_STAT 0) ||| 1) with host := { s.host with mbx := op } }
  else mbxEnd 1 s

/-- BOOT. -/
def execBoot (s : State) : Out := .next (s.access .portA (Reg.HST_MBX_CMD 0) (mbxCommand 1 .mailbox))

/-- RELOAD. -/
def execReload (s : State) : Out := .next (s.access .portA (Reg.HST_MBX_CMD 0) (mbxCommand 2 .recovery))

/-- The end of a RELOAD's write: the bundle's first word, MAGIC, is written last, so that until then location 0 is not accepted (R470; log entry 155). -/
def reloadEnd (qspiOk : Bool) (s : State) : State :=
  if qspiOk then mbxEnd 0 { s with mem := { s.mem with qspi := s.mem.qspi.writeRaw 0 (leBytes 4 0x57465843) } } else mbxEnd 5 s

/-- A mailbox bundle read and checked: BOOT runs it, RELOAD begins to write it to QSPI 0x0000_0000 and goes on with the next such command (R458, R470,
Table SEC-2). -/
def mailboxBundle (readOk qspiOk : Bool) (s : State) : State :=
  if s.host.mbx = 3 then reloadEnd qspiOk s else
  if !readOk then mbxEnd 2 s else
  let o := s.reg64 (Reg.HST_MBX_ADDR 0)
  let c := bundleCheck s s.mem.host o (min 0x800000 (s.reg (Reg.HST_MBX_LEN 0)).toNat)
  if c ≠ 0 then mbxEnd (if c = 3 then 4 else 3) (refuseBundle 2 c s)
  else if s.host.mbx = 1 then runBundle (bundleOf s.mem.host o 2) 2 (mbxEnd 0 s)
  else if qspiOk then
    let n := s.mem.host.readN (o + 12) 4 + s.mem.host.readN (o + 16) 2
    { s with mem := { s.mem with qspi := s.mem.qspi.writeRaw 0 (leBytes 4 0 ++ s.mem.host.read (o + 4) (n - 4)) }, host := { s.host with mbx := 3 } }
  else mbxEnd 5 s

/-- MAILBOX_BUNDLE_READ. -/
def execMailboxBundleRead (readOk qspiOk : Bool) (s : State) : Out :=
  .next (s.when (s.host.mbx != 0) (mailboxBundle readOk qspiOk s))

/-! ## Fuses -/

/-- REVOKE: discarded for the running bundle's slot, or when the other three are revoked (R468). -/
def execRevoke (who : Who) (slot : Fin 4) (s : State) : Out :=
  .next (s.access who Reg.SEC_KEYREV (fun s =>
    let own := match s.sec.bundle with
      | none => false
      | some b => b.keySlot == slot.val
    let others := (s.fus.revoked ||| BitVec.ofNat 4 (2 ^ slot.val)) == 15#4
    if own || others then s.raise 0x0B02 1 0x900 slot.val
    else { s with fus := { s.fus with revoked := s.fus.revoked ||| BitVec.ofNat 4 (2 ^ slot.val) } }))

/-- MREVOKE. -/
def execMrevoke (who : Who) (s : State) : Out :=
  .next (s.access who Reg.SEC_KEYREV (fun s => { s with fus := { s.fus with mkeyRev := true } }))

/-- LOCK: LOCK is set until SEC is reset (R477). -/
def execLock (who : Who) (s : State) : Out :=
  .next (s.access who Reg.SEC_LOCK (fun s => { s with sec := { s.sec with lock := true } }))

/-- Bytes of SEC_DBG_BUF. -/
def dbgBuf (s : State) (o n : Nat) : List Byte :=
  ((List.range (n / 4 + 2)).flatMap (fun w => leBytes 4 (s.reg (Reg.SEC_DBG_BUF (o / 4 + w))).toNat)).take n

/-- MKEY_PROG: programs the model key slot once, from SEC_DBG_BUF bytes [31:0] (R471). -/
def execMkeyProg (who : Who) (s : State) : Out :=
  .next (s.access who Reg.SEC_MKEY_PROG (fun s =>
    match s.fus.mkey with
    | some _ => s
    | none => { s with fus := { s.fus with mkey := some (BitVec.ofNat 256 (leNat (dbgBuf s 0 32))) } }))

/-- SETREQ. -/
def execSetreq (who : Who) (s : State) : Out :=
  .next (s.access who Reg.SEC_MKEY_PROG (fun s => { s with fus := { s.fus with sigreq := true } }))

/-! ## Debug unlock -/

/-- DEBUG_CHALLENGE: a read of SEC_DBG_CHAL0 draws a fresh challenge; port B draws none (R475, R445). -/
def execDebugChallenge (who : Who) (chal : BitVec 256) (s : State) : Out :=
  .next (match who with
    | .portB => s
    | _ => s.access who (Reg.SEC_DBG_CHAL 0) (fun s => { s with sec := { s.sec with chal := some chal } }))

/-- The non-revoked slot whose hash a public key has. -/
def keySlotOf (s : State) (key : List Byte) : Option Nat :=
  (List.range 4).find? (fun k => !(bit s.fus.revoked k) && shake256 key == s.fus.key k)

/-- Ends a submission: CODE, FAILS, VALID, and event 0x0B05 for a failure (R475, R476). -/
def submitEnd (code : Nat) (s : State) : State :=
  s.setReg Reg.SEC_DBG_STAT (BitVec.ofNat 32 (code + 16 * s.sec.fails + 2 ^ 31))

/-- A failed submission; the third sets LOCKOUT (R476). -/
def submitFail (code : Nat) (s : State) : State :=
  let n := min 3 (s.sec.fails + 1)
  let s1 := submitEnd code { s with sec := { s.sec with fails := n, lockout := decide (n ≥ 3), chal := none } }
  s1.raise 0x0B05 2 0x900 (code + 256 * n)

/-- A submission (R475): the challenge serves it once, whatever its outcome; the scope is granted when key and signature match. -/
def submitEff (scope : BitVec 2) (s : State) : State :=
  if s.sec.lockout then (submitEnd 3 { s with sec := { s.sec with chal := none } }).raise 0x0B05 2 0x900 (3 + 256 * s.sec.fails)
  else match s.sec.chal with
    | none => submitFail 2 s
    | some c =>
      let key := dbgBuf s 0 1793
      let msg := leBytes 32 c.toNat ++ leBytes 8 s.fus.uid.toNat ++ leBytes 1 scope.toNat
      match keySlotOf s key with
      | none => submitFail 1 s
      | some k =>
        if Config.falconVerify key (shake256 msg) (dbgBuf s 0x800 2048) then
          (submitEnd 0 { s with sec := { s.sec with chal := none, scopes := s.sec.scopes ||| scope } }).raise 0x0B04 1 0x900
            (scope.toNat + 256 * k)
        else submitFail 1 s

/-- SUBMIT. -/
def execSubmit (who : Who) (scope : BitVec 2) (s : State) : Out :=
  .next (s.access who Reg.SEC_DBG_CMD (submitEff scope))

/-- DEBUG_LOCK: every grant ends, and with OPEN every perturbation (R476, R305). -/
def execDebugLock (who : Who) (s : State) : Out :=
  .next (s.access who Reg.SEC_DBG_CMD (fun s => { s with sec := { s.sec with scopes := 0 } }.setPert []))

end Sys2Proof.Machine
end

