-- ==== Sys2Proof/Machine/Dispatch.lean ====
section
/-!
DEFINITION. One arm per command: the meaning of each, called once.
-/
namespace Sys2Proof.Machine

/-- The effect of a command on everything but the queue. -/
def exec (i : Instr) (s : State) : Host.Outcome State Fault Refusal :=
  match i with
  | .add k w => Sys2Proof.Machine.execAdd k w s
  | .sub k w => Sys2Proof.Machine.execSub k w s
  | .mul k w => Sys2Proof.Machine.execMul k w s
  | .mulh k w => Sys2Proof.Machine.execMulh k w s
  | .and k w => Sys2Proof.Machine.execAnd k w s
  | .or k w => Sys2Proof.Machine.execOr k w s
  | .xor k w => Sys2Proof.Machine.execXor k w s
  | .shl k w => Sys2Proof.Machine.execShl k w s
  | .shr k w => Sys2Proof.Machine.execShr k w s
  | .sra k w => Sys2Proof.Machine.execSra k w s
  | .min k w => Sys2Proof.Machine.execMin k w s
  | .max k w => Sys2Proof.Machine.execMax k w s
  | .li k w => Sys2Proof.Machine.execLi k w s
  | .cmp k w => Sys2Proof.Machine.execCmp k w s
  | .plog k w => Sys2Proof.Machine.execPlog k w s
  | .b k w => Sys2Proof.Machine.execB k w s
  | .jr k w => Sys2Proof.Machine.execJr k w s
  | .call k w => Sys2Proof.Machine.execCall k w s
  | .callr k w => Sys2Proof.Machine.execCallr k w s
  | .loop k w => Sys2Proof.Machine.execLoop k w s
  | .mvx k w => Sys2Proof.Machine.execMvx k w s
  | .skm k w => Sys2Proof.Machine.execSkm k w s
  | .accOpen k w => Sys2Proof.Machine.execAccOpen k w s
  | .accClose k w => Sys2Proof.Machine.execAccClose k w s
  | .accDrain k w => Sys2Proof.Machine.execAccDrain k w s
  | .accDrainPartial k w => Sys2Proof.Machine.execAccDrainPartial k w s
  | .accSave k w => Sys2Proof.Machine.execAccSave k w s
  | .accRest k w => Sys2Proof.Machine.execAccRest k w s
  | .accRestMerge k w => Sys2Proof.Machine.execAccRestMerge k w s
  | .ostCfg k w => Sys2Proof.Machine.execOstCfg k w s
  | .ld k w => Sys2Proof.Machine.execLd k w s
  | .st k w => Sys2Proof.Machine.execSt k w s
  | .dld k w => Sys2Proof.Machine.execDld k w s
  | .dst k w => Sys2Proof.Machine.execDst k w s
  | .dbase k w => Sys2Proof.Machine.execDbase k w s
  | .mov k w => Sys2Proof.Machine.execMov k w s
  | .gath k w => Sys2Proof.Machine.execGath k w s
  | .scat k w => Sys2Proof.Machine.execScat k w s
  | .warp k w => Sys2Proof.Machine.execWarp k w s
  | .vew k w => Sys2Proof.Machine.execVew k w s
  | .vred k w => Sys2Proof.Machine.execVred k w s
  | .vsmax k w => Sys2Proof.Machine.execVsmax k w s
  | .vnorm k w => Sys2Proof.Machine.execVnorm k w s
  | .vfn k w => Sys2Proof.Machine.execVfn k w s
  | .vtopk k w => Sys2Proof.Machine.execVtopk k w s
  | .vsort k w => Sys2Proof.Machine.execVsort k w s
  | .vnms k w => Sys2Proof.Machine.execVnms k w s
  | .sig k w => Sys2Proof.Machine.execSig k w s
  | .wait k w => Sys2Proof.Machine.execWait k w s
  | .relTake k w => Sys2Proof.Machine.execRelTake k w s
  | .relJoin k w => Sys2Proof.Machine.execRelJoin k w s
  | .relDone k w => Sys2Proof.Machine.execRelDone k w s
  | .cantx k w => Sys2Proof.Machine.execCantx k w s
  | .canrx k w => Sys2Proof.Machine.execCanrx k w s
  | .aow k w => Sys2Proof.Machine.execAow k w s
  | .pwmw k w => Sys2Proof.Machine.execPwmw k w s
  | .mrd k w => Sys2Proof.Machine.execMrd k w s
  | .crc k w => Sys2Proof.Machine.execCrc k w s
  | .dig k w => Sys2Proof.Machine.execDig k w s
  | .fence k w => Sys2Proof.Machine.execFence k w s
  | .churnReq k w => Sys2Proof.Machine.execChurnReq k w s
  | .testReq k w => Sys2Proof.Machine.execTestReq k w s
  | .yield k w => Sys2Proof.Machine.execYield k w s
  | .halt k w => Sys2Proof.Machine.execHalt k w s
  | .trap k w => Sys2Proof.Machine.execTrap k w s
  | .loadDataReturn k j => Sys2Proof.Machine.execLoadDataReturn k j s
  | .fenceComplete k => Sys2Proof.Machine.execFenceComplete k s
  | .yieldExpiry k => Sys2Proof.Machine.execYieldExpiry k s
  | .stallRelease k => Sys2Proof.Machine.execStallRelease k s
  | .arrayPhaseStart a => Sys2Proof.Machine.execArrayPhaseStart a s
  | .arrayPhaseEnd a noise => Sys2Proof.Machine.execArrayPhaseEnd a noise s
  | .adderTreeSum a => Sys2Proof.Machine.execAdderTreeSum a s
  | .skimLaneGrant c => Sys2Proof.Machine.execSkimLaneGrant c s
  | .skimResultReady c lane => Sys2Proof.Machine.execSkimResultReady c lane s
  | .arrayStageCombine a residue => Sys2Proof.Machine.execArrayStageCombine a residue s
  | .chainReduce k tile vidx coloff => Sys2Proof.Machine.execChainReduce k tile vidx coloff s
  | .accCloseComplete k tile => Sys2Proof.Machine.execAccCloseComplete k tile s
  | .accDrainComplete k tile => Sys2Proof.Machine.execAccDrainComplete k tile s
  | .accSaveComplete k => Sys2Proof.Machine.execAccSaveComplete k s
  | .arrCfgWrite who a v => Sys2Proof.Machine.execArrCfgWrite who a v s
  | .biasUp who a => Sys2Proof.Machine.execBiasUp who a s
  | .biasSettled a => Sys2Proof.Machine.execBiasSettled a s
  | .biasfail a => Sys2Proof.Machine.execBiasfail a s
  | .park who a => Sys2Proof.Machine.execPark who a s
  | .arrClrCnt who a => Sys2Proof.Machine.execArrClrCnt who a s
  | .arrChkClr who c v => Sys2Proof.Machine.execArrChkClr who c v s
  | .skmConfigWrite who c reg v => Sys2Proof.Machine.execSkmConfigWrite who c reg v s
  | .skmClrCnt who c => Sys2Proof.Machine.execSkmClrCnt who c s
  | .accPartWrite who c v => Sys2Proof.Machine.execAccPartWrite who c v s
  | .accClrCnt who c => Sys2Proof.Machine.execAccClrCnt who c s
  | .tempSample c t => Sys2Proof.Machine.execTempSample c t s
  | .churnDue a cls => Sys2Proof.Machine.execChurnDue a cls s
  | .idleWindowOpen a => Sys2Proof.Machine.execIdleWindowOpen a s
  | .class1ChurnStart a => Sys2Proof.Machine.execClass1ChurnStart a s
  | .lightChurnProbesEnd a noise => Sys2Proof.Machine.execLightChurnProbesEnd a noise s
  | .lightChurnUpdate a => Sys2Proof.Machine.execLightChurnUpdate a s
  | .fullChurnUnitEnd a noise => Sys2Proof.Machine.execFullChurnUnitEnd a noise s
  | .fullChurnFit a readable sigma => Sys2Proof.Machine.execFullChurnFit a readable sigma s
  | .fullChurnRestart a => Sys2Proof.Machine.execFullChurnRestart a s
  | .churnLate a cls => Sys2Proof.Machine.execChurnLate a cls s
  | .chnReq who c v => Sys2Proof.Machine.execChnReq who c v s
  | .churnRequestDeadline c j => Sys2Proof.Machine.execChurnRequestDeadline c j s
  | .churnRequestComplete c j => Sys2Proof.Machine.execChurnRequestComplete c j s
  | .chnClrCnt who c => Sys2Proof.Machine.execChnClrCnt who c s
  | .pressArrayStart a => Sys2Proof.Machine.execPressArrayStart a s
  | .pressVerifyRead a outside => Sys2Proof.Machine.execPressVerifyRead a outside s
  | .pressArrayEnd a => Sys2Proof.Machine.execPressArrayEnd a s
  | .vprogLow => Sys2Proof.Machine.execVprogLow s
  | .loadPress src off len alloc => Sys2Proof.Machine.execLoadPress src off len alloc s
  | .loadAttach src off len alloc => Sys2Proof.Machine.execLoadAttach src off len alloc s
  | .loadVerify => Sys2Proof.Machine.execLoadVerify s
  | .unload src slot => Sys2Proof.Machine.execUnload src slot s
  | .prsCfgWrite who v => Sys2Proof.Machine.execPrsCfgWrite who v s
  | .prsRldReq who v => Sys2Proof.Machine.execPrsRldReq who v s
  | .reloadStart alloc => Sys2Proof.Machine.execReloadStart alloc s
  | .reloadRateExpiry => Sys2Proof.Machine.execReloadRateExpiry s
  | .start who k => Sys2Proof.Machine.execStart who k s
  | .preempt who k => Sys2Proof.Machine.execPreempt who k s
  | .preemptComplete k => Sys2Proof.Machine.execPreemptComplete k s
  | .resume who k => Sys2Proof.Machine.execResume who k s
  | .resumeComplete k => Sys2Proof.Machine.execResumeComplete k s
  | .stop who k => Sys2Proof.Machine.execStop who k s
  | .stopComplete k => Sys2Proof.Machine.execStopComplete k s
  | .haltComplete k => Sys2Proof.Machine.execHaltComplete k s
  | .seqCtxAddrWrite who k save v => Sys2Proof.Machine.execSeqCtxAddrWrite who k save v s
  | .mapWrite who c v => Sys2Proof.Machine.execMapWrite who c v s
  | .waitSatisfied k => Sys2Proof.Machine.execWaitSatisfied k s
  | .waitTimeout k => Sys2Proof.Machine.execWaitTimeout k s
  | .syncCounterSet who j v => Sys2Proof.Machine.execSyncCounterSet who j v s
  | .syncCounterAdd who j v => Sys2Proof.Machine.execSyncCounterAdd who j v s
  | .streamArrive who st => Sys2Proof.Machine.execStreamArrive who st s
  | .relWaitComplete k => Sys2Proof.Machine.execRelWaitComplete k s
  | .doneEntryFree k => Sys2Proof.Machine.execDoneEntryFree k s
  | .gateDeadline st => Sys2Proof.Machine.execGateDeadline st s
  | .outputEntryWrite st => Sys2Proof.Machine.execOutputEntryWrite st s
  | .streamUnbind who st v => Sys2Proof.Machine.execStreamUnbind who st v s
  | .intOutTailWrite who st v => Sys2Proof.Machine.execIntOutTailWrite who st v s
  | .engineInstructionStart e j => Sys2Proof.Machine.execEngineInstructionStart e j s
  | .engineInstructionDone e ch => Sys2Proof.Machine.execEngineInstructionDone e ch s
  | .scanComplete u => Sys2Proof.Machine.execScanComplete u s
  | .scrubTick => Sys2Proof.Machine.execScrubTick s
  | .dramPatrolTick => Sys2Proof.Machine.execDramPatrolTick s
  | .tnkClrCnt who => Sys2Proof.Machine.execTnkClrCnt who s
  | .csiFrameStart port vc => Sys2Proof.Machine.execCsiFrameStart port vc s
  | .csiLongPacket port vc dt data hdrOk crcOk => Sys2Proof.Machine.execCsiLongPacket port vc dt data hdrOk crcOk s
  | .csiFrameEnd port vc => Sys2Proof.Machine.execCsiFrameEnd port vc s
  | .ethFrame port f => Sys2Proof.Machine.execEthFrame port f s
  | .intakeTimeout rec => Sys2Proof.Machine.execIntakeTimeout rec s
  | .intakeRecordEnable who rec v => Sys2Proof.Machine.execIntakeRecordEnable who rec v s
  | .dmaGo who ch v => Sys2Proof.Machine.execDmaGo who ch v s
  | .dmaCopyComplete ch => Sys2Proof.Machine.execDmaCopyComplete ch s
  | .mrSweepDue => Sys2Proof.Machine.execMrSweepDue s
  | .mrUnitStart a => Sys2Proof.Machine.execMrUnitStart a s
  | .mrUnitEnd a => Sys2Proof.Machine.execMrUnitEnd a s
  | .mrTestComplete a r => Sys2Proof.Machine.execMrTestComplete a r s
  | .mrTestExpiry a => Sys2Proof.Machine.execMrTestExpiry a s
  | .mrSweepLate => Sys2Proof.Machine.execMrSweepLate s
  | .tstTreq who v => Sys2Proof.Machine.execTstTreq who v s
  | .testRequestDeadline c j => Sys2Proof.Machine.execTestRequestDeadline c j s
  | .tstHealthClear who v => Sys2Proof.Machine.execTstHealthClear who v s
  | .tstHop who v => Sys2Proof.Machine.execTstHop who v s
  | .tstBp who v => Sys2Proof.Machine.execTstBp who v s
  | .tstFsat who v => Sys2Proof.Machine.execTstFsat who v s
  | .tstCinv who v => Sys2Proof.Machine.execTstCinv who v s
  | .tstNvse who v => Sys2Proof.Machine.execTstNvse who v s
  | .tstDigc who v => Sys2Proof.Machine.execTstDigc who v s
  | .tstPrsf who v => Sys2Proof.Machine.execTstPrsf who v s
  | .disarm who => Sys2Proof.Machine.execDisarm who s
  | .portEnable who v => Sys2Proof.Machine.execPortEnable who v s
  | .portTrainTimeout p => Sys2Proof.Machine.execPortTrainTimeout p s
  | .identityExchange p farId part pairEn => Sys2Proof.Machine.execIdentityExchange p farId part pairEn s
  | .linkAck p lseq => Sys2Proof.Machine.execLinkAck p lseq s
  | .replayRequest p lseq => Sys2Proof.Machine.execReplayRequest p lseq s
  | .replayExhausted p lseq => Sys2Proof.Machine.execReplayExhausted p lseq s
  | .hlkIdWrite who v => Sys2Proof.Machine.execHlkIdWrite who v s
  | .collectiveSubmit who v => Sys2Proof.Machine.execCollectiveSubmit who v s
  | .collectiveStart j => Sys2Proof.Machine.execCollectiveStart j s
  | .chunkData p f => Sys2Proof.Machine.execChunkData p f s
  | .chunkAck p r => Sys2Proof.Machine.execChunkAck p r s
  | .resendRequest p r => Sys2Proof.Machine.execResendRequest p r s
  | .collectiveComplete j => Sys2Proof.Machine.execCollectiveComplete j s
  | .collectiveTimeout j => Sys2Proof.Machine.execCollectiveTimeout j s
  | .hlkClrCnt who => Sys2Proof.Machine.execHlkClrCnt who s
  | .peerPrimaryChange asserted => Sys2Proof.Machine.execPeerPrimaryChange asserted s
  | .primaryAssert => Sys2Proof.Machine.execPrimaryAssert s
  | .conflictWindowEnd => Sys2Proof.Machine.execConflictWindowEnd s
  | .claim who => Sys2Proof.Machine.execClaim who s
  | .release who => Sys2Proof.Machine.execRelease who s
  | .rejoin who => Sys2Proof.Machine.execRejoin who s
  | .pairCfgWrite who v => Sys2Proof.Machine.execPairCfgWrite who v s
  | .kick who => Sys2Proof.Machine.execKick who s
  | .heartbeatTick => Sys2Proof.Machine.execHeartbeatTick s
  | .heartbeat h => Sys2Proof.Machine.execHeartbeat h s
  | .pairJoinTimeout => Sys2Proof.Machine.execPairJoinTimeout s
  | .takeoverComplete => Sys2Proof.Machine.execTakeoverComplete s
  | .takeoverFenceTimeout => Sys2Proof.Machine.execTakeoverFenceTimeout s
  | .mirrorRecord r => Sys2Proof.Machine.execMirrorRecord r s
  | .mirrorAck n ask => Sys2Proof.Machine.execMirrorAck n ask s
  | .mirrorAckTimeout => Sys2Proof.Machine.execMirrorAckTimeout s
  | .arrivalKey st seq key => Sys2Proof.Machine.execArrivalKey st seq key s
  | .realignNotice st seq => Sys2Proof.Machine.execRealignNotice st seq s
  | .lockstepCopy st seq data => Sys2Proof.Machine.execLockstepCopy st seq data s
  | .hlkAuthwWrite who v => Sys2Proof.Machine.execHlkAuthwWrite who v s
  | .msrEnable who m v => Sys2Proof.Machine.execMsrEnable who m v s
  | .msrDisable who m => Sys2Proof.Machine.execMsrDisable who m s
  | .msrRefReady m => Sys2Proof.Machine.execMsrRefReady m s
  | .msrTimerTrigger m => Sys2Proof.Machine.execMsrTimerTrigger m s
  | .msrEdgeTrigger m => Sys2Proof.Machine.execMsrEdgeTrigger m s
  | .msrSoftTrigger who m => Sys2Proof.Machine.execMsrSoftTrigger who m s
  | .msrDelayEnd m => Sys2Proof.Machine.execMsrDelayEnd m s
  | .msrResult m v ovl => Sys2Proof.Machine.execMsrResult m v ovl s
  | .msrUrgent who m u => Sys2Proof.Machine.execMsrUrgent who m u s
  | .msrClrCnt who m => Sys2Proof.Machine.execMsrClrCnt who m s
  | .msrRptrWrite who m v => Sys2Proof.Machine.execMsrRptrWrite who m v s
  | .msrCalZero who m => Sys2Proof.Machine.execMsrCalZero who m s
  | .msrCalFull who m => Sys2Proof.Machine.execMsrCalFull who m s
  | .msrCalSave w => Sys2Proof.Machine.execMsrCalSave w s
  | .msrCalStepComplete vs ovl => Sys2Proof.Machine.execMsrCalStepComplete vs ovl s
  | .msrConfigWrite who m off v => Sys2Proof.Machine.execMsrConfigWrite who m off v s
  | .stopNAssertAccept => Sys2Proof.Machine.execStopNAssertAccept s
  | .stopNDeassertAccept => Sys2Proof.Machine.execStopNDeassertAccept s
  | .force who on => Sys2Proof.Machine.execForce who on s
  | .clear who => Sys2Proof.Machine.execClear who s
  | .vfieldLow => Sys2Proof.Machine.execVfieldLow s
  | .vfieldRecover => Sys2Proof.Machine.execVfieldRecover s
  | .aoUpdateTick => Sys2Proof.Machine.execAoUpdateTick s
  | .aoDeglitchTransfer ch => Sys2Proof.Machine.execAoDeglitchTransfer ch s
  | .aoRateWrite who v => Sys2Proof.Machine.execAoRateWrite who v s
  | .aoLimitChange ch limit compl => Sys2Proof.Machine.execAoLimitChange ch limit compl s
  | .excLimit m on => Sys2Proof.Machine.execExcLimit m on s
  | .pwmPeriodStart ch => Sys2Proof.Machine.execPwmPeriodStart ch s
  | .pwmActiveEnd ch => Sys2Proof.Machine.execPwmActiveEnd ch s
  | .captureEdge ch rising ticks => Sys2Proof.Machine.execCaptureEdge ch rising ticks s
  | .captureTimeout ch => Sys2Proof.Machine.execCaptureTimeout ch s
  | .canTxComplete n r => Sys2Proof.Machine.execCanTxComplete n r s
  | .canRxFrame n r => Sys2Proof.Machine.execCanRxFrame n r s
  | .canBusOffRecovery n => Sys2Proof.Machine.execCanBusOffRecovery n s
  | .flush who n => Sys2Proof.Machine.execFlush who n s
  | .recover who n => Sys2Proof.Machine.execRecover who n s
  | .canConfigWrite who n off v => Sys2Proof.Machine.execCanConfigWrite who n off v s
  | .nvsRead who ch => Sys2Proof.Machine.execNvsRead who ch s
  | .nvsWrite who ch => Sys2Proof.Machine.execNvsWrite who ch s
  | .nvsPageWriteComplete => Sys2Proof.Machine.execNvsPageWriteComplete s
  | .nvsClrCnt who => Sys2Proof.Machine.execNvsClrCnt who s
  | .logTokenTick => Sys2Proof.Machine.execLogTokenTick s
  | .brownoutWarningAssert => Sys2Proof.Machine.execBrownoutWarningAssert s
  | .brownoutWarningDeassert => Sys2Proof.Machine.execBrownoutWarningDeassert s
  | .powerOn cut => Sys2Proof.Machine.execPowerOn cut s
  | .brownoutAon cut => Sys2Proof.Machine.execBrownoutAon cut s
  | .brownoutCore varr cut => Sys2Proof.Machine.execBrownoutCore varr cut s
  | .resetNAssert cut => Sys2Proof.Machine.execResetNAssert cut s
  | .watchdogExpiry cut => Sys2Proof.Machine.execWatchdogExpiry cut s
  | .startTimeout cut => Sys2Proof.Machine.execStartTimeout cut s
  | .all who key cut => Sys2Proof.Machine.execAll who key cut s
  | .clockFailure loss => Sys2Proof.Machine.execClockFailure loss s
  | .lockUp cut => Sys2Proof.Machine.execLockUp cut s
  | .debugReset => Sys2Proof.Machine.execDebugReset s
  | .resetRelease => Sys2Proof.Machine.execResetRelease s
  | .fuseLoadComplete retries failed => Sys2Proof.Machine.execFuseLoadComplete retries failed s
  | .journalResolve => Sys2Proof.Machine.execJournalResolve s
  | .pllLock => Sys2Proof.Machine.execPllLock s
  | .sysclkMissingTimeout => Sys2Proof.Machine.execSysclkMissingTimeout s
  | .bundleVerify => Sys2Proof.Machine.execBundleVerify s
  | .corePowerUp c => Sys2Proof.Machine.execCorePowerUp c s
  | .ok who => Sys2Proof.Machine.execOk who s
  | .rollbackAdvance => Sys2Proof.Machine.execRollbackAdvance s
  | .wdtKick who v => Sys2Proof.Machine.execWdtKick who v s
  | .exit who key cut => Sys2Proof.Machine.execExit who key cut s
  | .set who => Sys2Proof.Machine.execSet who s
  | .faultClear who => Sys2Proof.Machine.execFaultClear who s
  | .blockReset who d => Sys2Proof.Machine.execBlockReset who d s
  | .separatorDrained d => Sys2Proof.Machine.execSeparatorDrained d s
  | .separatorTimeout d cut => Sys2Proof.Machine.execSeparatorTimeout d cut s
  | .blockResetRelease who d => Sys2Proof.Machine.execBlockResetRelease who d s
  | .clockGood d => Sys2Proof.Machine.execClockGood d s
  | .releasePendingTimeout d => Sys2Proof.Machine.execReleasePendingTimeout d s
  | .xtalStop => Sys2Proof.Machine.execXtalStop s
  | .go who => Sys2Proof.Machine.execGo who s
  | .pwrTargetWrite who v => Sys2Proof.Machine.execPwrTargetWrite who v s
  | .aonEntry => Sys2Proof.Machine.execAonEntry s
  | .canWake n => Sys2Proof.Machine.execCanWake n s
  | .alarmWake => Sys2Proof.Machine.execAlarmWake s
  | .wakePllLock => Sys2Proof.Machine.execWakePllLock s
  | .thermtripAssert => Sys2Proof.Machine.execThermtripAssert s
  | .thermtripDeassert => Sys2Proof.Machine.execThermtripDeassert s
  | .sqDoorbell q v fails => Sys2Proof.Machine.execSqDoorbell q v fails s
  | .nop q tag => Sys2Proof.Machine.execNop q tag s
  | .copy q tag => Sys2Proof.Machine.execCopy q tag s
  | .churn q tag => Sys2Proof.Machine.execChurn q tag s
  | .test q tag => Sys2Proof.Machine.execTest q tag s
  | .power q tag => Sys2Proof.Machine.execPower q tag s
  | .quote q tag hostOk => Sys2Proof.Machine.execQuote q tag hostOk s
  | .portcfg q tag => Sys2Proof.Machine.execPortcfg q tag s
  | .commandCompletion q => Sys2Proof.Machine.execCommandCompletion q s
  | .cqHeadWrite q v => Sys2Proof.Machine.execCqHeadWrite q v s
  | .eqHeadWrite port v => Sys2Proof.Machine.execEqHeadWrite port v s
  | .queueConfigWrite port off v => Sys2Proof.Machine.execQueueConfigWrite port off v s
  | .hotReset port => Sys2Proof.Machine.execHotReset port s
  | .linkDown port => Sys2Proof.Machine.execLinkDown port s
  | .functionLevelReset port => Sys2Proof.Machine.execFunctionLevelReset port s
  | .hostMemoryRead port bar4 off len => Sys2Proof.Machine.execHostMemoryRead port bar4 off len s
  | .hostMemoryWrite port bar4 off data => Sys2Proof.Machine.execHostMemoryWrite port bar4 off data s
  | .boot => Sys2Proof.Machine.execBoot s
  | .reload => Sys2Proof.Machine.execReload s
  | .mailboxBundleRead readOk qspiOk => Sys2Proof.Machine.execMailboxBundleRead readOk qspiOk s
  | .revoke who slot => Sys2Proof.Machine.execRevoke who slot s
  | .mrevoke who => Sys2Proof.Machine.execMrevoke who s
  | .lock who => Sys2Proof.Machine.execLock who s
  | .mkeyProg who => Sys2Proof.Machine.execMkeyProg who s
  | .setreq who => Sys2Proof.Machine.execSetreq who s
  | .debugChallenge who chal => Sys2Proof.Machine.execDebugChallenge who chal s
  | .submit who scope => Sys2Proof.Machine.execSubmit who scope s
  | .debugLock who => Sys2Proof.Machine.execDebugLock who s
  | .registerWrite who addr v => Sys2Proof.Machine.execRegisterWrite who addr v s
  | .vprogRecover => Sys2Proof.Machine.execVprogRecover s
  | .lowerWordRead who addr => Sys2Proof.Machine.execLowerWordRead who addr s
  | .frameCrcFail p => Sys2Proof.Machine.execFrameCrcFail p s
  | .intakeLockChange port on => Sys2Proof.Machine.execIntakeLockChange port on s
  | .pcieLinkUp port width speed => Sys2Proof.Machine.execPcieLinkUp port width speed s
  | .crystalLock => Sys2Proof.Machine.execCrystalLock s
  | .corePowerDown c => Sys2Proof.Machine.execCorePowerDown c s
  | .d3hotChange port w => Sys2Proof.Machine.execD3hotChange port w s

end Sys2Proof.Machine
end

