-- ==== Sys2Proof/Machine/Tick.lean ====
section
/-!
DEFINITION. What time does on its own: one step of an empty queue is 10 ns of the local counts (log entry 1).
-/
namespace Sys2Proof.Machine

/-- Adds 1 to the listed counts whose index satisfies `on`. -/
def bump (t : Tab W64) (n : Nat) (on : Nat → Bool) : Tab W64 :=
  (List.range n).foldl (fun t i => if on i then Tab.setD t i 0 (Tab.getD t i 0 + 1) else t) t

/-- The counts after 10 ns: the 10 ns counts step by 1, the microsecond counts with every hundredth step; the AON count runs from
the release of AON (R434, R290, R265, Table RCP-8). -/
def tickCounts (s : State) : Counts :=
  let c := s.cnt
  let full := decide (c.sub + 1 ≥ 100)
  let fab := s.up 4
  let fio := s.up 8
  let held := s.rst.stage == .held 1
  { c with sub := if held || full then 0 else c.sub + 1, aon := if full && !held then c.aon + 1 else c.aon, gate := if fab then c.gate + 1 else c.gate, pcnt := bump c.pcnt 6 (fun i => fab && s.rbit Reg.INT_CTL i), can := bump c.can 4 (fun _ => fio), msr := if fio && full then c.msr + 1 else c.msr, hlk := if s.up 7 then c.hlk + 1 else c.hlk }

/-- Whether a context of a core is stalled on a full array queue (R65). -/
def queueStalled (s : State) (c : Nat) : Bool :=
  s.ctxs.any (fun e => e.1 / 4 == c && e.2.st == .stall && (match e.2.hold with
    | .stall op _ => op == 0x120
    | _ => false))

/-- Whether an array stage of a core holds a sum that waits for skim (R84). -/
def skimWaits (s : State) (c : Nat) : Bool :=
  s.arrs.any (fun e => e.1 / 64 == c && e.2.held.any (fun h => match h with
    | .sum r true => r.skim == .waiting || r.skim == .lane
    | _ => false))

/-- The lanes of a core after 12 core cycles of 64 slots each: a lane whose slots are done is free, and its result is still to come (R82). -/
def drainLanes (k : CoreSt) : CoreSt :=
  let t := k.lanes.map (fun e => (e.1, { e.2 with slots := e.2.slots - 768 }))
  { k with lanes := t.filter (fun e => decide (0 < e.2.slots)), outs := k.outs ++ t.filter (fun e => e.2.slots == 0) }

/-- A core over 10 ns, 12 cycles at 1.2 GHz: its cycle counts and its skim lanes (R65, R82, R84, Table RCP-7). -/
def tickCore (s : State) (c : Nat) : State :=
  let s1 := if queueStalled s c then s.incWrap (Reg.ARR_QSTALL_CNT c) 12 else s
  let s2 := if skimWaits s1 c then s1.incWrap (Reg.SKM_WAIT_CNT c) 12 else s1
  let k := Tab.getD s2.cores c .empty
  if k.lanes.isEmpty then s2 else { s2 with cores := Tab.setD s2.cores c .empty (drainLanes k) }

/-- The idle step of an empty queue. -/
def tick (s : State) : State :=
  let s1 := { s with cnt := tickCounts s }
  (List.range 32).foldl tickCore s1

end Sys2Proof.Machine
end

