-- ==== Sys2Proof/Safety.lean ====
section
/-!
DEFINITION. What counts as a safe step, and the terms in which statements are made: the parts of the state, what a command leaves alone, and
when an instruction or an access takes place.
-/
namespace Sys2Proof

/-- A step that neither faults nor is refused. -/
def Safe (s : Machine.State) : Prop := ∃ t, Machine.step s = .next t

namespace Machine

/-- The parts of the state: its fields, with each memory a part of its own. -/
inductive Piece where
  | pending
  | regs
  | req
  | sync
  | ev
  | cnt
  | rst
  | host
  | nvs
  | fus
  | sec
  | arrs
  | cors
  | pcm
  | cores
  | mr
  | reqs
  | saves
  | prs
  | refs
  | bases
  | ctxs
  | strms
  | pert
  | pair
  | eng
  | act
  | msr
  | link
  | psave
  | tank
  | cbuf
  | dram
  | nvsMem
  | hostMem
  | qspi
deriving DecidableEq, Repr

/-- A part is the same in two states. -/
def Piece.same (s t : State) : Piece → Prop
  | .pending => t.pending = s.pending
  | .regs => t.regs = s.regs
  | .req => t.req = s.req
  | .sync => t.sync = s.sync
  | .ev => t.ev = s.ev
  | .cnt => t.cnt = s.cnt
  | .rst => t.rst = s.rst
  | .host => t.host = s.host
  | .nvs => t.nvs = s.nvs
  | .fus => t.fus = s.fus
  | .sec => t.sec = s.sec
  | .arrs => t.arrs = s.arrs
  | .cors => t.cors = s.cors
  | .pcm => t.pcm = s.pcm
  | .cores => t.cores = s.cores
  | .mr => t.mr = s.mr
  | .reqs => t.reqs = s.reqs
  | .saves => t.saves = s.saves
  | .prs => t.prs = s.prs
  | .refs => t.refs = s.refs
  | .bases => t.bases = s.bases
  | .ctxs => t.ctxs = s.ctxs
  | .strms => t.strms = s.strms
  | .pert => t.pert = s.pert
  | .pair => t.pair = s.pair
  | .eng => t.eng = s.eng
  | .act => t.act = s.act
  | .msr => t.msr = s.msr
  | .link => t.link = s.link
  | .psave => t.psave = s.psave
  | .tank => t.mem.tank = s.mem.tank
  | .cbuf => t.mem.cbuf = s.mem.cbuf
  | .dram => t.mem.dram = s.mem.dram
  | .nvsMem => t.mem.nvs = s.mem.nvs
  | .hostMem => t.mem.host = s.mem.host
  | .qspi => t.mem.qspi = s.mem.qspi

/-- Every part but the listed ones is the same. -/
def SameBut (l : List Piece) (s t : State) : Prop := ∀ p, p ∉ l → p.same s t

/-- Every register but the listed ones holds the same. -/
def RegsBut (l : List Nat) (s t : State) : Prop := ∀ a, a ∉ l → t.reg a = s.reg a

/-- Raising an event reaches these parts: the event state, and host memory with its event queues (R454). -/
abbrev evParts : List Piece := [.ev, .hostMem]

/-- An event with a code was raised last; before it come only reports of records lost, where a queue has some and room again (R454). -/
def Raised (code : Nat) (s t : State) : Prop :=
  ∃ e l, t.ev.log = e :: (l ++ s.ev.log) ∧ e.code = BitVec.ofNat 16 code ∧ ∀ x ∈ l, x.code = 0x0A01

/-- An event with a code is among those raised, none raised before being lost. -/
def RaisedAmong (code : Nat) (s t : State) : Prop := ∃ l, t.ev.log = l ++ s.ev.log ∧ ∃ e ∈ l, e.code = BitVec.ofNat 16 code

/-- No event was raised. -/
def Quiet (s t : State) : Prop := t.ev.log = s.ev.log

/-- No request of a core waits for a churn or a test, no array of it has its idle window open, and none may start its class 1 churn: nothing starts on its
own (R141, R142, R146, R303). -/
def NoneWait (s : State) (c : Nat) : Prop :=
  (s.core c).churns = [] ∧ (s.core c).tests = [] ∧ ∀ b, b / 64 = c → (s.arr b).win = false ∧ firstMay s b = false

/-! ## Instructions -/

/-- A context issues a word and executes its body: its core runs, it is in RUN and holds for nothing, the word can be fetched, its guard
holds, and no register it reads awaits a load (R186, R222 to R225). -/
abbrev Runs (s : State) (k : CtxId) (w : BitVec 56) (needs : List LoadDst) : Prop :=
  s.canIssue (ctxIx k) = true ∧ s.fetchBad (ctxIx k) = false ∧ guardOn w (s.ctx (ctxIx k)).p = true
    ∧ ∀ d ∈ needs, (s.ctx (ctxIx k)).awaits d = false

/-- An outcome is a next state in which one context is as given and everything else is as in `s`. -/
def CtxTo (o : Out) (s : State) (i : Nat) (c : Ctx) : Prop :=
  ∃ t, o = .next t ∧ t.ctx i = c ∧ (∀ j, j ≠ i → t.ctx j = s.ctx j) ∧ SameBut [.ctxs] s t

/-- An instruction writes a scalar register and moves on: s[RD] is `v`, PC goes 8 on, and nothing else of the machine changes beside what the
fetch does to its memory's ECC state (R225, R253). -/
def ScalarTo (j : Instr) (s : State) (k : CtxId) (rd : Nat) (v : W64) : Prop :=
  CtxTo (exec j s) (s.fetchFx (ctxIx k)) (ctxIx k) { (s.ctx (ctxIx k)).setS rd v with pc := (s.ctx (ctxIx k)).pc + 8 }

/-- As `ScalarTo`, for a predicate. -/
def PredTo (j : Instr) (s : State) (k : CtxId) (pd : Nat) (v : Bool) : Prop :=
  CtxTo (exec j s) (s.fetchFx (ctxIx k)) (ctxIx k) { (s.ctx (ctxIx k)).setP pd v with pc := (s.ctx (ctxIx k)).pc + 8 }

/-- An instruction leaves its context as `c`, with what the fetch does (R253). -/
def GoesTo (j : Instr) (s : State) (k : CtxId) (c : Ctx) : Prop := CtxTo (exec j s) (s.fetchFx (ctxIx k)) (ctxIx k) c

/-- The first operand of format A (R221). -/
def opA (s : State) (k : CtxId) (w : BitVec 56) : W64 := (s.ctx (ctxIx k)).sreg (fRA w)

/-- The second operand b of format A (R221). -/
def opb (s : State) (k : CtxId) (w : BitVec 56) : W64 := opB (s.ctx (ctxIx k)) w

/-- The context and word of a Benrov instruction (R221); none for the other commands. -/
def benrovWord : Instr → Option (CtxId × BitVec 56)
  | .add k w => some (k, w)
  | .sub k w => some (k, w)
  | .mul k w => some (k, w)
  | .mulh k w => some (k, w)
  | .and k w => some (k, w)
  | .or k w => some (k, w)
  | .xor k w => some (k, w)
  | .shl k w => some (k, w)
  | .shr k w => some (k, w)
  | .sra k w => some (k, w)
  | .min k w => some (k, w)
  | .max k w => some (k, w)
  | .li k w => some (k, w)
  | .cmp k w => some (k, w)
  | .plog k w => some (k, w)
  | .b k w => some (k, w)
  | .jr k w => some (k, w)
  | .call k w => some (k, w)
  | .callr k w => some (k, w)
  | .loop k w => some (k, w)
  | .mvx k w => some (k, w)
  | .skm k w => some (k, w)
  | .accOpen k w => some (k, w)
  | .accClose k w => some (k, w)
  | .accDrain k w => some (k, w)
  | .accDrainPartial k w => some (k, w)
  | .accSave k w => some (k, w)
  | .accRest k w => some (k, w)
  | .accRestMerge k w => some (k, w.arg)
  | .ostCfg k w => some (k, w)
  | .ld k w => some (k, w)
  | .st k w => some (k, w)
  | .dld k w => some (k, w)
  | .dst k w => some (k, w)
  | .dbase k w => some (k, w)
  | .mov k w => some (k, w)
  | .gath k w => some (k, w)
  | .scat k w => some (k, w)
  | .warp k w => some (k, w)
  | .vew k w => some (k, w)
  | .vred k w => some (k, w)
  | .vsmax k w => some (k, w)
  | .vnorm k w => some (k, w)
  | .vfn k w => some (k, w)
  | .vtopk k w => some (k, w)
  | .vsort k w => some (k, w)
  | .vnms k w => some (k, w)
  | .sig k w => some (k, w)
  | .wait k w => some (k, w)
  | .relTake k w => some (k, w)
  | .relJoin k w => some (k, w)
  | .relDone k w => some (k, w)
  | .cantx k w => some (k, w)
  | .canrx k w => some (k, w)
  | .aow k w => some (k, w)
  | .pwmw k w => some (k, w)
  | .mrd k w => some (k, w)
  | .crc k w => some (k, w)
  | .dig k w => some (k, w)
  | .fence k w => some (k, w)
  | .churnReq k w => some (k, w)
  | .testReq k w => some (k, w)
  | .yield k w => some (k, w)
  | .halt k w => some (k, w)
  | .trap k w => some (k, w)
  | _ => none

/-- Whether an instruction's word is legal: no reserved value stands in a field and every reserved bit is 0 (R223, with R233 to R248 and the tables of
their instructions). -/
def legalWord : Instr → Bool
  | .add _ w | .sub _ w | .mul _ w | .and _ w | .or _ w | .xor _ w | .shl _ w | .shr _ w | .sra _ w => legalA0 w
  | .mulh _ w | .min _ w | .max _ w => legalA 2 w
  | .li _ w => decide (fFN w < 3) && fRA w == 0 && fRB w == 0 && !fI w
  | .cmp _ w => decide (fRD w < 8) && (!fI w || fRB w == 0)
  | .plog _ w => decide (fRD w < 8) && decide (fRA w < 8) && decide (fRB w < 8) && !fI w && fIMM w == 0
  | .b _ w => legalBr w && fRD w == 0 && fRA w == 0
  | .call _ w => legalBr w && fRA w == 0
  | .jr _ w | .callr _ w => legalBr w
  | .loop _ w => legalBr w && fRD w == 0
  | .mvx _ w => fw w 1 0 == 0
  | .skm _ w => fw w 16 0 == 0
  | .accOpen _ w => legalOpen w
  | .accClose _ w => fw w 44 0 == 0
  | .accDrain _ w | .accDrainPartial _ w => legalDrain w
  | .accSave _ w => fw w 40 0 == 0
  | .accRest _ w => legalRest w
  | .accRestMerge _ w => legalRest w.arg
  | .ostCfg _ w => fw w 45 32 == 0
  | .ld _ w | .st _ w => legalM w
  | .dld _ w | .dst _ w => legalMd w
  | .dbase _ w => legalA 2 w && decide (fRD w < 16)
  | .mov _ w => fw w 41 0 == 0
  | .gath _ w | .scat _ w => fw w 37 0 == 0
  | .warp _ w => fw w 36 0 == 0
  | .vew _ w => legalV 6 w
  | .vred _ w => legalV 4 w
  | .vsmax _ w | .vtopk _ w | .vnms _ w => legalV 1 w
  | .vnorm _ w | .vsort _ w => legalV 2 w
  | .vfn _ w => legalV 5 w
  | .sig _ w => fw w 15 0 == 0
  | .wait _ w => fw w 17 0 == 0
  | .relTake _ w | .relJoin _ w | .relDone _ w => legalRel w
  | .cantx _ w | .canrx _ w => legalCan w
  | .aow _ w | .pwmw _ w => fw w 42 0 == 0
  | .mrd _ w => fw w 36 0 == 0
  | .crc _ w => legalScan false w
  | .dig _ w => legalScan true w
  | .fence _ w | .halt _ w => fw w 50 0 == 0
  | .churnReq _ w => fw w 19 0 == 0
  | .testReq _ w => fw w 19 0 == 0 && fw w 35 35 == 0
  | .yield _ w => fw w 50 16 == 0
  | .trap _ w => fw w 50 7 == 0
  | _ => false

/-- Whether a word has the bits that choose its row: MODE of REL, of ACC.DRAIN, and the merge bit of ACC.REST (R221). A command whose word spells
another row changes nothing (log entry 2). -/
def ofRow : Instr → Bool
  | .relTake _ w => relRow 0 w
  | .relJoin _ w => relRow 1 w
  | .relDone _ w => relRow 2 w
  | .accDrain _ w => drainMode w != 1
  | .accDrainPartial _ w => drainMode w != 0
  | .accRest _ w => !bit w 44
  | .accRestMerge _ w => bit w.arg 44
  | _ => true

/-- A tensor of one row of a format, in the tank, without block scales (R228). -/
def OneRow (d : Desc) (fmt : Nat) : Prop := d.fmt = fmt ∧ d.sp = 0 ∧ d.bsp = 0 ∧ d.dim1 = 1 ∧ d.dim2 = 1 ∧ d.dim3 = 1

/-! ## Accesses -/

/-- An access of a requester to a BAR0 offset takes effect: the block's domain runs and, for a host port, HST runs, the port is in D0, the
offset is offered, and port B keeps to its own registers (R421, R445, R448, R458). -/
def reaches (s : State) (who : Who) (a : Nat) : Bool := match whoPort who with
  | none => s.up (domOfAddr a)
  | some p => s.up 6 && !s.rbit (Reg.HST_PSTAT p) 10 && s.reach a && (p != 1 || portBOwn a)

/-- A host command in progress has ended: it is no longer in progress and, unless its completion is to be discarded, a completion with a status
and a result waits last (R452, R457). -/
def CmdEnds (s t : State) (q : Nat) (c : HCmd) (status result : Nat) : Prop :=
  (t.hq q).prog = (s.hq q).prog.erase c
    ∧ (c.mute = false → (t.hq q).ended = (s.hq q).ended ++ [⟨c.tag, c.op, BitVec.ofNat 8 status, BitVec.ofNat 64 result, c.head⟩])

/-! ## What every step keeps -/

/-- Fuses that a part with the fuses `f0` can come to have: what was blown stays blown, and what was programmed at manufacture stays (R467 to
R471, R473). -/
def FusesFrom (f0 f : Fuses) : Prop :=
  f.keys = f0.keys ∧ f.uid = f0.uid ∧ f.idKey = f0.idKey ∧ f.dramSize = f0.dramSize ∧ f0.rollback ≤ f.rollback
    ∧ (∀ i : Fin 4, bit f0.revoked i.val = true → bit f.revoked i.val = true) ∧ (∀ k, f0.mkey = some k → f.mkey = some k)
    ∧ (f0.mkeyRev = true → f.mkeyRev = true) ∧ (f0.sigreq = true → f.sigreq = true)

/-- Every memory has its canonical form. -/
def MemsWf (m : Mems) : Prop :=
  m.tank.wf = true ∧ m.cbuf.wf = true ∧ m.dram.wf = true ∧ m.nvs.wf = true ∧ m.host.wf = true ∧ m.qspi.wf = true

/-- What every step keeps: the fuses are those of the part with nothing undone, a firmware key slot is left that is not revoked (R468), and
every memory has its canonical form. -/
def Sound (f0 : Fuses) (s : State) : Prop := FusesFrom f0 s.fus ∧ (∃ i : Fin 4, bit s.fus.revoked i.val = false) ∧ MemsWf s.mem

end Machine

end Sys2Proof
end

