-- ==== Sys2Proof/Certificates/Slice0/Obligations.lean ====
section
/-!
DEFINITION. The statements of this package (OBLIGATIONS.json).
-/
open Sys2Proof Sys2Proof.Machine

/-- A step runs the command at the front of the queue; on an empty queue it is 10 ns of the counts and changes nothing else. For every
command c, queue r and state s: where s waits with c at the front and r behind it, a step answers what exec answers for c on s with r as its
queue. For every state with an empty queue, a step answers a next state in which only the local counts, the core-cycle registers
ARR_QSTALL_CNT and SKM_WAIT_CNT of the 32 cores, and the lanes of their skim engines with the results on their way from them can differ;
while FAB runs the gate count is 1 more and while it does not run it is unchanged; the link count likewise with HLK. That commands are taken
one at a time in their order, and that an idle step is 10 ns, is the model's choice (log entry 1). -/
def Obligations.StepRunsTheFrontCommandOrIdles : Prop :=
  (∀ (s : State) (c : Instr) (r : List Instr), s.pending = c :: r → step s = exec c { s with pending := r })
    ∧ (∀ s : State, s.pending = [] → ∃ t, step s = .next t ∧ SameBut [.cnt, .regs, .cores] s t
      ∧ (∀ c, t.core c = { s.core c with lanes := (t.core c).lanes, outs := (t.core c).outs })
      ∧ RegsBut ((List.range 32).flatMap (fun c => [Reg.ARR_QSTALL_CNT c, Reg.SKM_WAIT_CNT c])) s t
      ∧ t.cnt.gate = (if s.up 4 then s.cnt.gate + 1 else s.cnt.gate) ∧ t.cnt.hlk = (if s.up 7 then s.cnt.hlk + 1 else s.cnt.hlk))

/-- Every command is answered with a next state; that one whose condition fails changes nothing is the model's choice (log entries 2, 8).
For every command and every state, exec answers a next state: it neither faults nor is refused. This rests on the model's own choice (DESIGN
CHOICE, log entries 2 and 8) that a command whose condition does not hold, or whose word spells another row, changes nothing; it says
nothing of any effect, which the other statements give. -/
def Obligations.EveryCommandAnswers : Prop :=
  ∀ (c : Instr) (s : State), ∃ t, exec c s = .next t

/-- The scalar instructions ADD to LI write the results of Table INS-8 and change nothing else. For a context that runs the word w (in RUN,
holding for nothing, its core running, the word readable, its guard true, no register it reads awaiting a load) with reserved fields 0,
s[RD] takes the value of Table INS-8, a write to s0 being discarded, PC goes 8 on, and nothing else changes but what the fetch itself does
to ECC state: ADD a + b, SUB a − b, MUL the low 64 bits of a × b, MULH the high 64 bits of the signed (FN 0) or unsigned (FN 1) product,
AND, OR, XOR, SHL, SHR and SRA by b[5:0], MIN and MAX signed (FN 0) or unsigned (FN 1), LI sext(IMM), zext(IMM), or IMM above the low half
of s[RD]; a is s[RA], b is s[RB] or sext(IMM) by I. -/
def Obligations.ScalarArithmeticResults : Prop :=
  ∀ (s : State) (k : CtxId) (w : BitVec 56),
    (Runs s k w (needsA w) → (fI w = true → fRB w = 0) →
      (fFN w = 0 → ScalarTo (.add k w) s k (fRD w) (opA s k w + opb s k w)
        ∧ ScalarTo (.sub k w) s k (fRD w) (opA s k w - opb s k w)
        ∧ ScalarTo (.mul k w) s k (fRD w) (opA s k w * opb s k w)
        ∧ ScalarTo (.and k w) s k (fRD w) (opA s k w &&& opb s k w)
        ∧ ScalarTo (.or k w) s k (fRD w) (opA s k w ||| opb s k w)
        ∧ ScalarTo (.xor k w) s k (fRD w) (opA s k w ^^^ opb s k w)
        ∧ ScalarTo (.shl k w) s k (fRD w) (opA s k w <<< ((opb s k w).extractLsb 5 0).toNat)
        ∧ ScalarTo (.shr k w) s k (fRD w) (opA s k w >>> ((opb s k w).extractLsb 5 0).toNat)
        ∧ ScalarTo (.sra k w) s k (fRD w) ((opA s k w).sshiftRight ((opb s k w).extractLsb 5 0).toNat)
        ∧ ScalarTo (.mulh k w) s k (fRD w) (((opA s k w).signExtend 128 * (opb s k w).signExtend 128).extractLsb' 64 64)
        ∧ ScalarTo (.min k w) s k (fRD w) (if (opA s k w).toInt ≤ (opb s k w).toInt then opA s k w else opb s k w)
        ∧ ScalarTo (.max k w) s k (fRD w) (if (opA s k w).toInt ≤ (opb s k w).toInt then opb s k w else opA s k w))
      ∧ (fFN w = 1 → ScalarTo (.mulh k w) s k (fRD w) (((opA s k w).zeroExtend 128 * (opb s k w).zeroExtend 128).extractLsb' 64 64)
        ∧ ScalarTo (.min k w) s k (fRD w) (if opA s k w ≤ opb s k w then opA s k w else opb s k w)
        ∧ ScalarTo (.max k w) s k (fRD w) (if opA s k w ≤ opb s k w then opb s k w else opA s k w)))
    ∧ (Runs s k w (if fFN w = 2 then [.scalar (fRD w)] else []) → fRA w = 0 → fRB w = 0 → fI w = false → fFN w < 3 →
      ScalarTo (.li k w) s k (fRD w) (if fFN w = 0 then (BitVec.ofNat 32 (fIMM w)).signExtend 64
        else if fFN w = 1 then (BitVec.ofNat 32 (fIMM w)).zeroExtend 64
        else BitVec.ofNat 32 (fIMM w) ++ ((s.ctx (ctxIx k)).sreg (fRD w)).extractLsb' 0 32))

/-- CMP and PLOG write the outcome of Table INS-8 to their predicate. For a context that runs the word w with reserved fields 0, p[RD] takes
the outcome of Table INS-8, PC goes 8 on, and nothing else changes but what the fetch does to ECC state. CMP by FN: equal, unequal, signed
less, signed not less, unsigned less, unsigned not less, a AND b not 0, a AND b equal 0. PLOG by FN: AND, OR, XOR, p[RA] AND NOT p[RB], NOT
p[RA], 1, 0, p[RA]. -/
def Obligations.PredicateResults : Prop :=
  ∀ (s : State) (k : CtxId) (w : BitVec 56),
    (Runs s k w (needsA w) → (fI w = true → fRB w = 0) → fRD w < 8 →
      (fFN w = 0 → PredTo (.cmp k w) s k (fRD w) (decide (opA s k w = opb s k w)))
      ∧ (fFN w = 1 → PredTo (.cmp k w) s k (fRD w) (decide (opA s k w ≠ opb s k w)))
      ∧ (fFN w = 2 → PredTo (.cmp k w) s k (fRD w) (decide ((opA s k w).toInt < (opb s k w).toInt)))
      ∧ (fFN w = 3 → PredTo (.cmp k w) s k (fRD w) (decide ((opb s k w).toInt ≤ (opA s k w).toInt)))
      ∧ (fFN w = 4 → PredTo (.cmp k w) s k (fRD w) (decide (opA s k w < opb s k w)))
      ∧ (fFN w = 5 → PredTo (.cmp k w) s k (fRD w) (decide (opb s k w ≤ opA s k w)))
      ∧ (fFN w = 6 → PredTo (.cmp k w) s k (fRD w) (decide (opA s k w &&& opb s k w ≠ 0)))
      ∧ (fFN w = 7 → PredTo (.cmp k w) s k (fRD w) (decide (opA s k w &&& opb s k w = 0))))
    ∧ (Runs s k w [] → fRD w < 8 → fRA w < 8 → fRB w < 8 → fI w = false → fIMM w = 0 →
      (fFN w = 0 → PredTo (.plog k w) s k (fRD w) ((s.ctx (ctxIx k)).preg (fRA w) && (s.ctx (ctxIx k)).preg (fRB w)))
      ∧ (fFN w = 1 → PredTo (.plog k w) s k (fRD w) ((s.ctx (ctxIx k)).preg (fRA w) || (s.ctx (ctxIx k)).preg (fRB w)))
      ∧ (fFN w = 2 → PredTo (.plog k w) s k (fRD w) (xor ((s.ctx (ctxIx k)).preg (fRA w)) ((s.ctx (ctxIx k)).preg (fRB w))))
      ∧ (fFN w = 3 → PredTo (.plog k w) s k (fRD w) ((s.ctx (ctxIx k)).preg (fRA w) && !(s.ctx (ctxIx k)).preg (fRB w)))
      ∧ (fFN w = 4 → PredTo (.plog k w) s k (fRD w) (!(s.ctx (ctxIx k)).preg (fRA w)))
      ∧ (fFN w = 5 → PredTo (.plog k w) s k (fRD w) true)
      ∧ (fFN w = 6 → PredTo (.plog k w) s k (fRD w) false)
      ∧ (fFN w = 7 → PredTo (.plog k w) s k (fRD w) ((s.ctx (ctxIx k)).preg (fRA w))))

/-- The branches move PC to their target and write their link or counter register; LOOP on s0 is the model's choice (log entry 20). For a
context that runs the word w with its reserved fields 0, OFF a multiple of 8 and a target that is a multiple of 8 below the end of the tank
(2^27): B and CALL set PC to PC + OFF, JR and CALLR to s[RA] + OFF; CALL and CALLR write PC + 8 to s[RL]; LOOP writes s[RA] − 1 to s[RA] (a
write to s0 being discarded) and sets PC to PC + OFF when the value is not 0, else to PC + 8. PC is the address of the branch itself.
Nothing else changes but what the fetch does to ECC state. That LOOP with RA 0 branches on the value computed, though its write to s0 is
discarded, is the model's choice (log entry 20). -/
def Obligations.BranchResults : Prop :=
  ∀ (s : State) (k : CtxId) (w : BitVec 56), fw w 40 32 = 0 → fIMM w % 8 = 0 →
    (Runs s k w [] → fRD w = 0 → fRA w = 0 → ((s.ctx (ctxIx k)).pc + sext32 (fIMM w)).toNat % 8 = 0 →
      ((s.ctx (ctxIx k)).pc + sext32 (fIMM w)).toNat < 2 ^ 27 →
      GoesTo (.b k w) s k { s.ctx (ctxIx k) with pc := (s.ctx (ctxIx k)).pc + sext32 (fIMM w) })
    ∧ (Runs s k w [.scalar (fRA w)] → (opA s k w + sext32 (fIMM w)).toNat % 8 = 0 → (opA s k w + sext32 (fIMM w)).toNat < 2 ^ 27 →
      GoesTo (.jr k w) s k { s.ctx (ctxIx k) with pc := opA s k w + sext32 (fIMM w) }
      ∧ GoesTo (.callr k w) s k { (s.ctx (ctxIx k)).setS (fRD w) ((s.ctx (ctxIx k)).pc + 8) with pc := opA s k w + sext32 (fIMM w) })
    ∧ (Runs s k w [] → fRA w = 0 → ((s.ctx (ctxIx k)).pc + sext32 (fIMM w)).toNat % 8 = 0 →
      ((s.ctx (ctxIx k)).pc + sext32 (fIMM w)).toNat < 2 ^ 27 →
      GoesTo (.call k w) s k { (s.ctx (ctxIx k)).setS (fRD w) ((s.ctx (ctxIx k)).pc + 8) with pc := (s.ctx (ctxIx k)).pc + sext32 (fIMM w) })
    ∧ (Runs s k w [.scalar (fRA w)] → fRD w = 0 →
      (opA s k w = 1 → GoesTo (.loop k w) s k { (s.ctx (ctxIx k)).setS (fRA w) 0 with pc := (s.ctx (ctxIx k)).pc + 8 })
      ∧ (opA s k w ≠ 1 → ((s.ctx (ctxIx k)).pc + sext32 (fIMM w)).toNat % 8 = 0 → ((s.ctx (ctxIx k)).pc + sext32 (fIMM w)).toNat < 2 ^ 27 →
        GoesTo (.loop k w) s k { (s.ctx (ctxIx k)).setS (fRA w) (opA s k w - 1) with pc := (s.ctx (ctxIx k)).pc + sext32 (fIMM w) }))

/-- LD, DLD and DBASE issue their load or set their BASE and change nothing else. Let u be s after the fetch. For a context that runs w with
reserved fields 0, and an address s[RA] + sext(IMM) that is a multiple of the size, with the whole access inside its space and the space's
domain running: LD (1, 2, 4 or 8 bytes by SIZE) and DLD (32 bytes) add a load to those of the context that await data, with its destination
(none for s0), its byte range, its SIZE, and the earlier works of the context that still write into the range; an older load of the same
register loses its destination; PC goes 8 on. DBASE sets BASE of d[RD] to s[RA] + b (FN 0) or BASE + s[RA] + b (FN 1) modulo 2^48 and keeps
its other bits. Nothing else changes from u. -/
def Obligations.LoadsAreIssued : Prop :=
  ∀ (s : State) (k : CtxId) (w : BitVec 56),
    (Runs s k w [.scalar (fRA w)] → fMSP w ≠ 3 → fw w 35 32 = 0 →
      (fMSZ w ≠ 7 → memOk (s.fetchFx (ctxIx k)) (ctxIx k / 4) (fMSP w) (memAddr (s.ctx (ctxIx k)) w) (szBytes (fMSZ w)) = true →
        GoesTo (.ld k w) s k { (s.ctx (ctxIx k)).dropLoads (.scalar (fRD w)) with loads := ((s.ctx (ctxIx k)).dropLoads (.scalar (fRD w))).loads ++ [⟨if fRD w = 0 then none else some (.scalar (fRD w)), ⟨fMSP w, spAddr (ctxIx k / 4) (fMSP w) (memAddr (s.ctx (ctxIx k)) w), szBytes (fMSZ w)⟩, fMSZ w, (s.ctx (ctxIx k)).writers ⟨fMSP w, spAddr (ctxIx k / 4) (fMSP w) (memAddr (s.ctx (ctxIx k)) w), szBytes (fMSZ w)⟩⟩], pc := (s.ctx (ctxIx k)).pc + 8 })
      ∧ (fMSZ w = 0 → fRD w < 16 → memOk (s.fetchFx (ctxIx k)) (ctxIx k / 4) (fMSP w) (memAddr (s.ctx (ctxIx k)) w) 32 = true →
        GoesTo (.dld k w) s k { (s.ctx (ctxIx k)).dropLoads (.desc (fRD w)) with loads := ((s.ctx (ctxIx k)).dropLoads (.desc (fRD w))).loads ++ [⟨some (.desc (fRD w)), ⟨fMSP w, spAddr (ctxIx k / 4) (fMSP w) (memAddr (s.ctx (ctxIx k)) w), 32⟩, 0, (s.ctx (ctxIx k)).writers ⟨fMSP w, spAddr (ctxIx k / 4) (fMSP w) (memAddr (s.ctx (ctxIx k)) w), 32⟩⟩], pc := (s.ctx (ctxIx k)).pc + 8 }))
    ∧ (Runs s k w (needsA w ++ [.desc (fRD w)]) → (fI w = true → fRB w = 0) → fRD w < 16 → fFN w < 2 →
      ∃ d : BitVec 256, GoesTo (.dbase k w) s k { (s.ctx (ctxIx k)).setD (fRD w) d with pc := (s.ctx (ctxIx k)).pc + 8 }
        ∧ d.extractLsb' 48 208 = ((s.ctx (ctxIx k)).dreg (fRD w)).extractLsb' 48 208
        ∧ d.extractLsb' 0 48 = (opA s k w + opb s k w).truncate 48 + (if fFN w = 1 then ((s.ctx (ctxIx k)).dreg (fRD w)).extractLsb' 0 48 else 0))

/-- LOAD_DATA_RETURN writes the loaded value to the load's register. For load j of a context whose core runs, that waits for no earlier
write, whose space's domain runs and whose bytes hold no ECC error: the load leaves the list and, for n the little-endian number in its
bytes, its scalar register (if it still has one) takes n zero-extended for SIZE 0, 2, 4 and 6 and sign-extended from 8, 16 and 32 bits for
SIZE 1, 3 and 5, its descriptor register takes n. Nothing else changes. -/
def Obligations.LoadDataArrives : Prop :=
  ∀ (s : State) (k : CtxId) (j : Nat) (l : LoadSt), (s.ctx (ctxIx k)).loads[j]? = some l → s.coreUp (ctxIx k / 4) = true → l.after = [] →
    s.spUp (ctxIx k / 4) l.rng.sp = true → (∀ e ∈ (s.memOf l.rng.sp).ecc, overlap (8 * e.1) 8 l.rng.lo l.rng.len = false) →
    CtxTo (exec (.loadDataReturn k j) s) s (ctxIx k)
      (match l.dst with
        | none => { s.ctx (ctxIx k) with loads := (s.ctx (ctxIx k)).loads.eraseIdx j }
        | some (.scalar r) => Ctx.setS { s.ctx (ctxIx k) with loads := (s.ctx (ctxIx k)).loads.eraseIdx j } r
            (if l.size = 1 then (BitVec.ofNat 8 (s.num l.rng.sp l.rng.lo l.rng.len)).signExtend 64
              else if l.size = 3 then (BitVec.ofNat 16 (s.num l.rng.sp l.rng.lo l.rng.len)).signExtend 64
              else if l.size = 5 then (BitVec.ofNat 32 (s.num l.rng.sp l.rng.lo l.rng.len)).signExtend 64
              else BitVec.ofNat 64 (s.num l.rng.sp l.rng.lo l.rng.len))
        | some (.desc r) => Ctx.setD { s.ctx (ctxIx k) with loads := (s.ctx (ctxIx k)).loads.eraseIdx j } r
            (BitVec.ofNat 256 (s.num l.rng.sp l.rng.lo l.rng.len)))

/-- ST and DST write the low bytes of their register at s[RA] + sext(IMM), and no other byte of memory. Let u be s after the fetch. For a
context that runs w with reserved fields 0, an address that is a multiple of the size n (1, 2, 4, 8 for ST, 32 for DST) with the whole
access inside its space and the space's domain running, and no earlier access of the context to the range outstanding: the instruction
completes. Where the write covers no uncorrectable ECC group in part, byte q of the n bytes reads as bits 8q to 8q + 7 of s[RD] or d[RD],
every other byte of the three spaces reads as in u, PC goes 8 on, and nothing else of the machine changes but, where it covers a group with
a correctable error in part, that error, its count and an event of it. Where it does, the context's poison flag is set. That an overlapping
earlier access delays a store is DEDUCED (log entry 21). -/
def Obligations.StoresWriteOnlyTheirBytes : Prop :=
  ∀ (s : State) (k : CtxId) (w : BitVec 56) (n a lo : Nat) (j : Instr) (v : Nat), fMSP w ≠ 3 → fw w 35 32 = 0 →
    ((j = .st k w ∧ fMSZ w ≠ 7 ∧ n = szBytes (fMSZ w) ∧ v = ((s.ctx (ctxIx k)).sreg (fRD w)).toNat ∧ Runs s k w [.scalar (fRA w), .scalar (fRD w)])
      ∨ (j = .dst k w ∧ fMSZ w = 0 ∧ fRD w < 16 ∧ n = 32 ∧ v = ((s.ctx (ctxIx k)).dreg (fRD w)).toNat ∧ Runs s k w [.scalar (fRA w), .desc (fRD w)])) →
    a = memAddr (s.ctx (ctxIx k)) w → lo = spAddr (ctxIx k / 4) (fMSP w) a →
    memOk (s.fetchFx (ctxIx k)) (ctxIx k / 4) (fMSP w) a n = true → (s.ctx (ctxIx k)).touches ⟨fMSP w, lo, n⟩ = false →
    ∃ t, exec j s = .next t
      ∧ ((s.fetchFx (ctxIx k)).partBadAt (fMSP w) lo n = true → (t.ctx (ctxIx k)).poison = true)
      ∧ ((s.fetchFx (ctxIx k)).partBadAt (fMSP w) lo n = false →
        (∀ q < n, (t.memOf (fMSP w)).byte (lo + q) = BitVec.ofNat 8 (v / 256 ^ q))
        ∧ (∀ b, ¬(lo ≤ b ∧ b < lo + n) → (t.memOf (fMSP w)).byte b = ((s.fetchFx (ctxIx k)).memOf (fMSP w)).byte b)
        ∧ (∀ q < 3, q ≠ fMSP w → ∀ b, (t.memOf q).byte b = ((s.fetchFx (ctxIx k)).memOf q).byte b)
        ∧ t.ctx (ctxIx k) = { s.ctx (ctxIx k) with pc := (s.ctx (ctxIx k)).pc + 8 } ∧ (∀ q, q ≠ ctxIx k → t.ctx q = s.ctx q)
        ∧ SameBut (evParts ++ [.regs, .ctxs, .tank, .cbuf, .dram]) (s.fetchFx (ctxIx k)) t
        ∧ ((∀ e ∈ ((s.fetchFx (ctxIx k)).memOf (fMSP w)).ecc, partOf lo n e.1 = false) → SameBut [.ctxs, .tank, .cbuf, .dram] (s.fetchFx (ctxIx k)) t))

/-- ACC.OPEN, ACC.CLOSE and ACC.DRAIN in both modes open, close and drain a tile of their context. Let u be s after the fetch. For a context
that runs w with reserved fields 0: ACC.OPEN whose operand-format conditions hold adds the tile its fields describe, when its context has no
set of that id and the share holds it, or has one shadowed set of the same shape and format, closed and with its drain issued. ACC.CLOSE
closes the oldest set of its id that is not closed. ACC.DRAIN in mode 0 (no trap condition on the destination) and in mode 1 (SPACE tank,
BASE a multiple of 16 with room for the records) takes the oldest closed set of its id without a drain, gives it the drain, and adds a work
that counts as a write. In each case PC goes 8 on and nothing else changes from u. -/
def Obligations.TilesOpenCloseAndDrainIssue : Prop :=
  ∀ (s u : State) (k : CtxId) (w : BitVec 56) (i : Nat) (c : Ctx), u = s.fetchFx i → i = ctxIx k → c = s.ctx i →
    (Runs s k w [.scalar (fw w 21 17), .scalar (fw w 16 12)] → fw w 37 35 < 5 → fw w 11 0 = 0 → openBad u i (openTile c i w) = false →
      ((c.tiles.filter (fun x => x.id == fTILE w) = [] ∧ usedSlots (c.tiles ++ [openTile c i w]) ≤ u.share i)
        ∨ ∃ x, c.tiles.filter (fun x => x.id == fTILE w) = [x] ∧ x.closed = true ∧ x.drain.isSome = true ∧ x.shadow = true
          ∧ (openTile c i w).shadow = true ∧ x.n = (openTile c i w).n ∧ x.v = (openTile c i w).v ∧ x.fmt = (openTile c i w).fmt) →
      GoesTo (.accOpen k w) s k { c with tiles := c.tiles ++ [openTile c i w], nextId := c.nextId + 1, pc := c.pc + 8 })
    ∧ (Runs s k w [] → fw w 44 0 = 0 → ∀ t, c.tiles.find? (fun t => t.id == fTILE w && !t.closed) = some t →
      GoesTo (.accClose k w) s k { c.putTile { t with closed := true } with pc := c.pc + 8 })
    ∧ (Runs s k w (drainNeeds w) → fw w 29 0 = 0 → ∀ t, c.tiles.find? (fun t => t.id == fTILE w && (t.closed && t.drain.isNone)) = some t →
      (drainMode w = 0 → drainTrap u i t (descOf (c.dreg (fw w 42 39))) (descOf (c.dreg (fw w 38 35))) (c.sreg (fw w 34 30)).toNat = none →
        ∃ rd wr, GoesTo (.accDrain k w) s k { (c.addWork rd wr true false).putTile { t with drain := some ⟨c.nextId, false, c.dreg (fw w 42 39), c.dreg (fw w 38 35), (c.sreg (fw w 34 30)).toNat, c.ost⟩ } with pc := c.pc + 8 })
      ∧ (drainMode w = 1 → (descOf (c.dreg (fw w 42 39))).sp = 0 → (descOf (c.dreg (fw w 42 39))).base % 16 = 0 →
        (descOf (c.dreg (fw w 42 39))).base + 16 * t.size ≤ 2 ^ 27 →
        GoesTo (.accDrainPartial k w) s k { (c.addWork [] [⟨0, (descOf (c.dreg (fw w 42 39))).base, 16 * t.size⟩] true false).putTile { t with drain := some ⟨c.nextId, true, c.dreg (fw w 42 39), 0, 0, c.ost⟩ } with pc := c.pc + 8 }))

/-- Chain sums, closes, drains and saves complete: passes leave their tile, closed tiles become ready, drained tiles are written and freed
(model's own: log 22). CHAIN_REDUCE on a running core, whose first set of the tile has a pass for the vector and column offset that can be
added: that set has the pass added slot by slot, the columns listed for a residue mismatch poisoned in FX48, its passes lose this pass, and
no other context changes. ACC_CLOSE_COMPLETE on the oldest closed set without passes left: it becomes ready, with nothing else changed when
every slot's COUNT is E, and otherwise with event 0x0203 raised. ACC_DRAIN_COMPLETE on the oldest ready set with a drain whose reads and
writes the context's earlier accesses allow: its outputs are written by the output stage (mode 0) or as slot records (mode 1), and
afterwards ACC_DRAIN_CNT has been counted, the set is gone and the drain's work has ended. In mode 1, with no ECC condition in the slots or
the tank, the 16 bytes from BASE + 16n on are the record of slot n (Table ACC-9: data, tag, 0, core, n, format) and every other byte of the
tank is as before. In mode 0, for a one-vector FX48 tile without POISON, no ECC condition, no activation and no pooling, and an FP32 row in
the tank without block scales, word q of the row is the slot's value, limited to 48 bits, as Q.8, times the scale plus the bias of its
entry, rounded once to FP32 (R97, R115, R116), and every other byte of the tank is as before. ACC_SAVE_COMPLETE of a context whose work has
ended: it holds no tile, s[RD] is the number of bytes written (unless RD is 0), and it issues again, or goes on with the pre-emption or the
STOP that waited. That firmware's partials of unfinished passes are remembered is the model's own (log entry 22). -/
def Obligations.TileWorkCompletes : Prop :=
  ∀ (s : State) (k : CtxId) (tile : Fin 64) (i : Nat) (res : List Nat), i = ctxIx k →
    (∀ (vidx : Fin 32) (coloff : Fin 512) (t : Tile) (r : List Tile) (x : Pass) (l : List Part), s.coreUp (i / 4) = true →
      (s.ctx i).tiles.filter (fun t => t.id == tile.val) = t :: r → passReady s (i / 4) t vidx.val coloff.val [] t.order = some (x, l) →
      ∃ v, exec (.chainReduce k tile vidx ⟨coloff, res⟩) s = .next v ∧ (∀ q, q ≠ i → v.ctx q = s.ctx q)
      ∧ ∀ y ∈ (v.ctx i).tiles, y.gen = t.gen → y = { (addPass i x l res (passSlots t x) (s.residues (i / 4) 5 (if t.fmt = 0 then (passSlots t x).countP res.contains else 0)) t).2 with order := t.order.erase x })
    ∧ (∀ t, (s.ctx i).tiles.find? (fun t => t.id == tile.val && (t.closed && !t.ready && t.order.isEmpty)) = some t →
      ((∀ n < t.size, tagCount (t.slot n).tag = t.e) → CtxTo (exec (.accCloseComplete k tile) s) s i ((s.ctx i).putTile { t with ready := true }))
      ∧ ((∃ n < t.size, tagCount (t.slot n).tag ≠ t.e) → ∃ v, exec (.accCloseComplete k tile) s = .next v ∧ Raised 0x0203 s v
        ∧ ∀ y ∈ (v.ctx i).tiles, y.gen = t.gen → y.ready = true))
    ∧ (∀ t j, s.coreUp (i / 4) = true → (s.ctx i).tiles.find? (fun t => t.id == tile.val && (t.ready && t.drain.isSome)) = some t → t.drain = some j →
      (s.ctx i).readClear j.id = true → (s.ctx i).writeClear j.id = true →
      ∃ v, exec (.accDrainComplete k ⟨tile, res⟩) s = .next v
        ∧ v = (((if j.partial' then drainPartial i t j s else drainOut i t j res s).incWrap (Reg.ACC_DRAIN_CNT (i / 4)) 1).freeTile i t.gen).endWork i j.id
        ∧ (∀ y ∈ (v.ctx i).tiles, y.gen ≠ t.gen) ∧ (∀ y ∈ (v.ctx i).works, y.id ≠ j.id)
        ∧ (j.partial' = true → s.up 4 = true → s.mem.tank.ecc = [] → (∀ n < t.size, (t.slot n).ecc = none) → ∀ lo, lo = (descOf j.dout).base →
          (∀ n < t.size, v.mem.tank.read (lo + 16 * n) 16 = leBytes 8 (t.slot n).data.toNat ++ leBytes 2 (t.slot n).tag.toNat ++ [0] ++ leBytes 1 (i / 4)
            ++ leBytes 2 n ++ leBytes 2 t.fmt)
          ∧ ∀ b, ¬(lo ≤ b ∧ b < lo + 16 * t.size) → v.mem.tank.byte b = s.mem.tank.byte b)
        ∧ (j.partial' = false → s.up 4 = true → s.mem.tank.ecc = [] → s.mem.cbuf.ecc = [] → t.fmt = 0 → t.v = 1 →
          (∀ n < t.n, (t.slot n).ecc = none ∧ bit (t.slot n).tag 12 = false) → j.ost.act = 0 → j.ost.pool = 0 → res = [] → ∀ d lo, d = descOf j.dout →
          d.fmt = 7 → d.bsp = 0 → d.sp = 0 → lo = d.rowAt j.row 0 0 →
          (∀ q < t.n, v.num 0 (lo + 4 * q) 4 = (toF32 (((q8Val (max (-(2 ^ 47)) (min (2 ^ 47 - 1) (t.slot q).data.toInt))).mul
            (f32 (BitVec.ofNat 32 (s.num 1 (cb (i / 4) (sbAt j.ost t q)) 4)))).add (f32 (BitVec.ofNat 32 (s.num 1 (cb (i / 4) (sbAt j.ost t q + 4)) 4))))).toNat)
          ∧ ∀ b, ¬(lo ≤ b ∧ b < lo + 4 * t.n) → v.mem.tank.byte b = s.mem.tank.byte b))
    ∧ (∀ rd a, (s.ctx i).hold = .save rd a → s.quiet i = true →
      ∃ v, exec (.accSaveComplete k) s = .next v ∧ (v.ctx i).tiles = []
        ∧ (v.ctx i).sreg rd = (if rd = 0 then 0 else BitVec.ofNat 64 (saveLen (s.ctx i)))
        ∧ (v.ctx i).hold = (if (s.ctx i).st = .saving then .preempt else if (s.ctx i).stop then .stop else .free))

/-- ACC.SAVE, ACC.REST in both modes and OST.CFG take their effect; which passes a merge waits for is the model's choice (log entry 120).
Let u be s after the fetch. For a context that runs w with reserved fields 0: ACC.SAVE at an offset that is a multiple of 16 with room for
its records begins to save: its context holds for the save, PC goes 8 on, and nothing else changes. ACC.REST in mode 0 whose records (at
most 64 tiles) parse, fit, lie in the tank and await no earlier write adds the parsed tiles, with all that their records hold, behind those
the context holds (what a tile still waits for is the model's own, log entry 22). ACC.REST in mode 1 on an open tile, whose records match it
and come from cores above the last one merged and the own core, with no pass left that every chain position has issued and no earlier write
outstanding (that a pass which only some positions have issued is not waited for is the model's choice: DESIGN CHOICE, log entry 120), adds
the records to the tile's slots one after the other and sets its last merged core to the highest core of the records. OST.CFG at an offset
that is a multiple of 32 inside the buffer, naming a record (and table) without a format or address condition, and no earlier write
outstanding, makes the record and its table the context's setting. PC goes 8 on, and no other context changes. -/
def Obligations.TilesSaveAndRestoreIssue : Prop :=
  ∀ (s u : State) (k : CtxId) (w : BitVec 56) (i : Nat) (c : Ctx), u = s.fetchFx i → i = ctxIx k → c = s.ctx i →
    (Runs s k w [.scalar (fRA w)] → fw w 40 0 = 0 → (c.sreg (fRA w)).toNat % 16 = 0 → (c.sreg (fRA w)).toNat + saveLen c ≤ 2 ^ 27 →
      GoesTo (.accSave k w) s k { c with hold := .save (fRD w) (c.sreg (fRA w)).toNat, pc := c.pc + 8 })
    ∧ (Runs s k w [.scalar (fw w 43 39), .scalar (fw w 38 34)] → fw w 33 0 = 0 → ∀ a n, a = (c.sreg (fw w 43 39)).toNat → n = (c.sreg (fw w 38 34)).toNat →
      (bit w 44 = false → n ≤ 64 → ∀ ts used len, len = recLen u.mem.tank n a → parseTiles n 0 (u.bytes 0 a len) = .ok ts used → firstMisfit u i n 0 (u.bytes 0 a len) c.tiles = none →
        a + len ≤ 2 ^ 27 → c.writers ⟨0, a, len⟩ = [] →
        ∃ v, exec (.accRest k w) s = .next v ∧ (v.ctx i).pc = c.pc + 8 ∧ (∀ q, q ≠ i → v.ctx q = s.ctx q)
          ∧ (v.ctx i).tiles.map (fun t => { t with gen := 0, issued := [], order := [], ready := false }) = (c.tiles ++ ts).map (fun t => { t with gen := 0, issued := [], order := [], ready := false }))
      ∧ (bit w 44 = true → ∀ t recs, c.tile (fTILE w) = some t → a + 16 * t.size ≤ 2 ^ 27 → recs = runs 16 t.size (u.bytes 0 a (16 * t.size)) →
        recs.all (mergeOk t) = true → t.closed = false → (∀ r ∈ recs, i / 4 < bAt r 11 ∧ (t.lastCore = 0xFF ∨ t.lastCore < bAt r 11)) →
        t.order.any (passIssued t) = false → c.writers ⟨0, a, 16 * t.size⟩ = [] → ∀ res,
        ∃ v, exec (.accRestMerge k ⟨w, res⟩) s = .next v ∧ (v.ctx i).pc = c.pc + 8 ∧ (∀ q, q ≠ i → v.ctx q = s.ctx q)
          ∧ ∀ y ∈ (v.ctx i).tiles, y.gen = t.gen → y.lastCore = (recs.map (fun r => bAt r 11)).foldl max 0
            ∧ y.slots = (mergeAll i (if t.fmt = 0 then res else []) recs ((u.readFx 0 a (16 * t.size) (i / 4) 0).residues (i / 4) 5 ((List.range t.size).countP (if t.fmt = 0 then res else []).contains)) t).2.slots))
    ∧ (Runs s k w [.scalar (fRD w)] → fw w 45 32 = 0 → ∀ a o, a = (c.sreg (fRD w) + sext32 (fIMM w)).toNat →
      o = (⟨BitVec.ofNat 256 (u.num 1 (cb (i / 4) a) 32), []⟩ : OstSt) → a % 32 = 0 → a + 32 ≤ 2 ^ 21 → ostFormatBad o = false → ostAddressBad o = false →
      (o.act = 8 → pwlOk (pwlRead u (i / 4) o) = true ∧ c.writers ⟨1, cb (i / 4) o.pwlptr, 768⟩ = []) → c.writers ⟨1, cb (i / 4) a, 32⟩ = [] →
      ∃ v, exec (.ostCfg k w) s = .next v ∧ (v.ctx i).pc = c.pc + 8 ∧ (v.ctx i).ost = ⟨o.rcd, pwlRead u (i / 4) o⟩ ∧ (∀ q, q ≠ i → v.ctx q = s.ctx q))

/-- MVX sends its command to the array of its layer map entry, SKM to the skim engine. Let u be s after the fetch, and e the layer map entry
that s[RB] + ENTRY names. For a context that runs w with reserved fields 0: MVX with a valid entry open to the context, no format, address
or tile condition, a resident layer, an array of its core in BIAS, READY, PRESS, CHURN or TEST and fewer than 4 commands in its queue: the
array's queue gains one command at its end, with the context, its work number, VIDX, COLOFF, the row index s[RA], the entry's chain
position, skim list and OSTPTR, and the two descriptors; the context tracks one work more and PC goes 8 on; no other array changes. SKM on
an integer input of at most 512 columns with no format or address condition, an open tile that takes it, and no earlier write to its row or
to its list outstanding: the core's skim engine gains one job; where no command waits and a lane is free the job is in that lane, and
otherwise it waits last; the context tracks one work more and PC goes 8 on. -/
def Obligations.MatrixInstructionsAreQueued : Prop :=
  ∀ (s u : State) (k : CtxId) (w : BitVec 56) (i : Nat) (c : Ctx), u = s.fetchFx i → i = ctxIx k → c = s.ctx i →
    (Runs s k w (sNeeds [fw w 21 17, fw w 16 12] ++ dNeeds [fw w 29 26, fw w 25 22]) → fw w 1 0 = 0 → ∀ (ei : Nat) (e : BitVec 128) (a : Nat) (d o : Desc),
      ei = (c.sreg (fw w 16 12) + BitVec.ofNat 64 (fw w 11 2)).toNat → ei ≤ 1023 → e = u.entry (i / 4) ei → eVALID e = true → bit e (16 + i % 4) = true →
      a = i / 4 * 64 + eARRAY e → d = descOf (c.dreg (fw w 29 26)) → o = descOf (c.dreg (fw w 25 22)) →
      mvxFormat d o (bit w 44) (eP e) (fw w 43 35) (c.sreg (fw w 21 17)).toNat (profWidth (u.prof a)) = false →
      mvxAddress u d o (bit w 44) (eCHPOS e) (fw w 43 35) (c.sreg (fw w 21 17)).toNat (profWidth (u.prof a)) = false →
      (bit w 44 = false → tileTrap c (fTILE w) (fw w 34 30) (fw w 43 35) (eP e) d.blockIn = none) → eRESIDENT e = true →
      (u.arr a).st ∉ [.off, .fault, .retired] → (u.arr a).queue.length < 4 →
      ∃ v m, exec (.mvx k w) s = .next v ∧ (v.arr a).queue = (u.arr a).queue ++ [m] ∧ (∀ b, b ≠ a → v.arr b = u.arr b)
        ∧ m.ctx = i ∧ m.id = c.nextId ∧ m.vidx = fw w 34 30 ∧ m.coloff = fw w 43 35 ∧ m.row = (c.sreg (fw w 21 17)).toNat ∧ m.chpos = eCHPOS e
        ∧ m.skim = eSKIM e ∧ m.ost = eOST e ∧ m.di = c.dreg (fw w 29 26) ∧ m.dout = c.dreg (fw w 25 22) ∧ (bit w 44 = true → m.gen = none)
        ∧ (v.ctx i).works.length = c.works.length + 1 ∧ (v.ctx i).pc = c.pc + 8 ∧ SameBut [.ctxs, .arrs] u v)
    ∧ (Runs s k w (sNeeds [fw w 26 22, fw w 21 17] ++ dNeeds [fw w 30 27]) → fw w 16 0 = 0 → ∀ (d : Desc) (row : Nat) (t : Tile),
      d = descOf (c.dreg (fw w 30 27)) → row = (c.sreg (fw w 26 22)).toNat → d.formatBad = false → fmtFloat d.fmt = false → d.bsp = 0 → d.dim0 ≤ 512 →
      row < d.dim1 → d.noDram u = false → d.rowBad u (d.rowAt row 0 0) 0 d.dim0 = false → c.tile (fTILE w) = some t →
      tileTrap c (fTILE w) (fw w 35 31) (fw w 44 36) 1 false = none → c.writers ⟨d.sp, spAddr (i / 4) d.sp (d.rowAt row 0 0), d.rowBytes⟩ = [] →
      (listRngs u i (c.sreg (fw w 21 17)).toNat).any (fun r => !(c.writers r).isEmpty) = false →
      ∃ v j, exec (.skm k w) s = .next v ∧ (v.core (i / 4)).skms = (u.core (i / 4)).skms ++ [j]
        ∧ (laneNow (u.core (i / 4)) = none → (v.core (i / 4)).waitq = (u.core (i / 4)).waitq ++ [(i, c.nextId)] ∧ (v.core (i / 4)).lanes = (u.core (i / 4)).lanes)
        ∧ (∀ lane, laneNow (u.core (i / 4)) = some lane → (v.core (i / 4)).waitq = (u.core (i / 4)).waitq ∧ ∃ l, Tab.find? (v.core (i / 4)).lanes lane = some l ∧ l.ctx = i ∧ l.id = c.nextId)
        ∧ j.ctx = i ∧ j.id = c.nextId ∧ j.vidx = fw w 35 31 ∧ j.coloff = fw w 44 36
        ∧ j.list = (c.sreg (fw w 21 17)).toNat ∧ (v.ctx i).works.length = c.works.length + 1 ∧ (v.ctx i).pc = c.pc + 8)

/-- The phases of a command start and end on its array, and its sum and skim result become ready. On a running core: ARRAY_PHASE_START on an
array in READY with a command at work between phases and fewer than 4 sums held makes its phase live and drives the codes of that phase;
with none at work and no retry it takes the first command of the queue, once its context's earlier writes allow, and makes its first phase
live, the command's skim list taking a free lane where no command waits and waiting last otherwise. ARRAY_PHASE_END on a command at work in
a live phase leaves it at work, not live, with the next phase or the same one to be re-run, while phases are left; after the last the
command has left the queue and its sum is held last, not yet ready. ADDER_TREE_SUM marks the first sum that is not ready. SKIM_LANE_GRANT
with a command waiting whose run is on an array and a lane free: the command leaves the waiting list and the lane is in use.
SKIM_RESULT_READY for an array's command: the oldest result on its way from the lane reaches its command, no lane changing; with none on its
way, the result of the work in the lane does, and that lane alone is free. -/
def Obligations.ArrayPhasesAndSums : Prop :=
  ∀ (s : State) (a : ArrId), s.coreUp (a.val / 64) = true →
    ((s.arr a.val).st = .ready →
      (∀ r, (s.arr a.val).cur = some r → r.live = false → (∀ q, (s.arr a.val).retry = some q → q.live = false) → (s.arr a.val).held.length < 4 →
        exec (.arrayPhaseStart a) s = .next (s.setArr a.val { s.arr a.val with cur := some { r with live := true }, codes := r.inp.map (rowCode r.phases r.phase) }))
      ∧ (∀ m q, (s.arr a.val).cur = none → (s.arr a.val).retry = none → (s.arr a.val).queue = m :: q → (s.arr a.val).held.length < 4 →
        firstClear s a.val m = true →
        ∃ t r, exec (.arrayPhaseStart a) s = .next t ∧ (t.arr a.val).cur = some r ∧ r.cmd = m ∧ r.live = true ∧ r.phase = 0 ∧ r.phases = inPhases (descOf m.di).fmt
          ∧ (t.arr a.val).codes = r.inp.map (rowCode r.phases 0) ∧ (t.arr a.val).queue = m :: q
          ∧ (m.skim = none → r.skim = .none) ∧ (∀ off, m.skim = some off → s.rbit (Reg.SKM_CFG (a.val / 64)) 0 = true →
            (laneNow (s.core (a.val / 64)) = none → r.skim = .waiting ∧ (t.core (a.val / 64)).waitq = (s.core (a.val / 64)).waitq ++ [(m.ctx, m.id)])
            ∧ (∀ lane, laneNow (s.core (a.val / 64)) = some lane → r.skim = .lane ∧ ∃ l, Tab.find? (t.core (a.val / 64)).lanes lane = some l ∧ l.ctx = m.ctx ∧ l.id = m.id ∧ l.arr = a.val))))
    ∧ (∀ r noise, (s.arr a.val).cur = some r → r.live = true →
      ∃ t, exec (.arrayPhaseEnd a noise) s = .next t ∧
        ((phaseEnd a.val r noise s).2.phase < r.phases → ∃ r1, (t.arr a.val).cur = some r1 ∧ r1.live = false ∧ (r1.phase = r.phase + 1 ∨ (r1.phase = r.phase ∧ r1.rerun = true)))
        ∧ (r.phases ≤ (phaseEnd a.val r noise s).2.phase → (t.arr a.val).cur = none ∧ (t.arr a.val).queue = (s.arr a.val).queue.drop 1
          ∧ ∃ r1, (t.arr a.val).held = (s.arr a.val).held ++ [.sum r1 false]))
    ∧ (∀ l r m, (∀ h ∈ l, ∀ q, h ≠ .sum q false) → (s.arr a.val).held = l ++ .sum r false :: m →
      ∃ t, exec (.adderTreeSum a) s = .next t ∧ (t.arr a.val).held = l ++ .sum r true :: m ∧ SameBut [.arrs] s t)
    ∧ (∀ (c : CoreId) (ctx id lane : Nat) (q : List (Nat × Nat)) (x : Nat × Run), (s.core c.val).waitq = (ctx, id) :: q → freeLane (s.core c.val) = some lane →
      (s.core c.val).skms = [] → s.runOf c.val ctx id = some x →
      ∃ t l, exec (.skimLaneGrant c) s = .next t ∧ (t.core c.val).waitq = q ∧ Tab.find? (t.core c.val).lanes lane = some l ∧ l.ctx = ctx ∧ l.id = id ∧ l.arr = x.1)
    ∧ (∀ (c : CoreId) (lane : Fin 16) (l : Lane) (res : Bool) (e : Nat × Lane), l.arr < 2048 →
      ((s.core c.val).outs.find? (fun x => x.1 == lane.val) = some e ∧ l = e.2
        ∨ (s.core c.val).outs.find? (fun x => x.1 == lane.val) = none ∧ Tab.find? (s.core c.val).lanes lane.val = some l) →
      ∃ t, exec (.skimResultReady c ⟨lane, res⟩) s = .next t
        ∧ ((s.core c.val).outs.find? (fun x => x.1 == lane.val) = some e → (t.core c.val).outs = (s.core c.val).outs.erase e ∧ (t.core c.val).lanes = (s.core c.val).lanes)
        ∧ ((s.core c.val).outs.find? (fun x => x.1 == lane.val) = none → (t.core c.val).lanes = Tab.erase (s.core c.val).lanes lane.val ∧ (t.core c.val).outs = (s.core c.val).outs)
        ∧ (t.arr l.arr).held = (s.arr l.arr).held.map (fun h => match h with | .sum r b => .sum (if r.cmd.ctx = l.ctx ∧ r.cmd.id = l.id then { r with skim := .done l.out, smis := res } else r) b | .part p => .part p)
        ∧ (∀ b, b ≠ l.arr → t.arr b = s.arr b) ∧ (res = false → SameBut [.arrs, .cores] s t))

/-- The array stage retries or delivers its oldest sum, and a released stall issues its instruction again. ARRAY_STAGE_COMBINE on a running
core, no retry being due and the oldest sum of the stage being ready, of a command that has phases, with its skim result and free to read
its entries and to write: where a group fails its check, or a residue mismatch of the array's units or its skim result stands, for the first
time and the array is not in FAULT, the command becomes the retry, from its first phase, and the stage keeps what else it holds, nothing
being delivered. Where no group fails, and no such mismatch stands or the command is a retry or the array is in FAULT, an MVX of a tile that
its context still holds is delivered: what the stage holds besides is followed by its partial, with the combined values of its outputs, and
its work has ended; and an MVX without a tile has its work ended. Where the command is a retry, a group fails again and fewer than FAULTN
retries within 1 s have failed with this one, ARR_CHKPOIS_CNT of the array counts one, the work has ended, and an MVX of a tile still held
is delivered with CHECKFAIL and POISON on every output that uses a column of a failed group (R284). A command that the array's failure left
without phases is delivered with POISON on every output of its tile once its context's earlier accesses allow, its work ended (R295).
STALL_RELEASE on a context of a running core that is stalled at an instruction: the outcome is that of issuing the body of that instruction
(MVX for opcode 0x20, else ACC.OPEN) with the context in RUN. -/
def Obligations.ArrayStageAndStallRelease : Prop :=
  ∀ s : State, (∀ (a : ArrId) (r : Run) (rest : List Held) (fails : List Nat) (residue : StageResidues) (mis : Bool), s.coreUp (a.val / 64) = true → (s.arr a.val).retry = none →
      splitSum (s.arr a.val).held = some (r, true, rest) → r.phases ≠ 0 → r.skim ≠ .waiting → r.skim ≠ .lane → (s.ctx r.cmd.ctx).writeClear r.cmd.id = true → entsClear s a.val r = true →
      mis = (r.smis || !residue.units.isEmpty) →
      fails = (checkGroups a.val r (List.range 8) (s.setArr a.val { s.arr a.val with held := rest })).2 →
      ∃ t, exec (.arrayStageCombine a residue) s = .next t
        ∧ ((fails ≠ [] ∨ mis = true) → r.retry = false → (s.arr a.val).st ≠ .fault →
          (t.arr a.val).held = rest ∧ ∃ q, (t.arr a.val).retry = some q ∧ q.cmd = r.cmd ∧ q.inp = r.inp ∧ q.retry = true ∧ q.phase = 0 ∧ q.live = false)
        ∧ (fails = [] → (mis = false ∨ r.retry = true ∨ (s.arr a.val).st = .fault) → (∀ x ∈ (t.ctx r.cmd.ctx).works, x.id ≠ r.cmd.id)
          ∧ ∀ g, r.cmd.gen = some g → ((s.ctx r.cmd.ctx).tiles.any (fun x => x.gen == g) = true) →
            ∃ p : Part, (t.arr a.val).held = rest ++ [.part p] ∧ p.ctx = r.cmd.ctx ∧ p.id = r.cmd.id ∧ p.gen = g ∧ p.pass = r.cmd.pass ∧ p.chpos = r.cmd.chpos
              ∧ p.vals = (List.range (profWidth r.prof)).map (r.value r.prof) ∧ p.slow = r.slow)
        ∧ (fails ≠ [] → r.retry = true → (s.arr a.val).st ≠ .fault →
          (s.cnt.aon :: (s.arr a.val).fails.filter (recent s.cnt.aon)).length < max 1 (s.fld (Reg.ARR_CHK_CFG (a.val / 64)) 19 16) →
          t.reg (Reg.ARR_CHKPOIS_CNT a.val) = satAdd (s.reg (Reg.ARR_CHKPOIS_CNT a.val)) 1 ∧ (∀ x ∈ (t.ctx r.cmd.ctx).works, x.id ≠ r.cmd.id)
          ∧ ∀ g, r.cmd.gen = some g → ((s.ctx r.cmd.ctx).tiles.any (fun x => x.gen == g) = true) →
            ∃ p : Part, (t.arr a.val).held = rest ++ [.part p] ∧ p.ctx = r.cmd.ctx ∧ p.id = r.cmd.id ∧ p.gen = g
              ∧ p.vals = (List.range (profWidth r.prof)).map (r.value r.prof)
              ∧ p.tags = (List.range (profWidth r.prof)).map (fun n => r.tag r.prof n
                  ||| (if ((profCols r.prof n).2 :: (profCols r.prof n).1).any (fun j => fails.contains (j / 64)) then 0x1800 else 0) ||| (if mis then 0x1000 else 0))))
    ∧ (∀ (a : ArrId) (r : Run) (rest : List Held) (residue : StageResidues), s.coreUp (a.val / 64) = true → (s.arr a.val).retry = none →
      splitSum (s.arr a.val).held = some (r, true, rest) → r.phases = 0 → failClear s r = true →
      ∃ t, exec (.arrayStageCombine a residue) s = .next t ∧ (∀ x ∈ (t.ctx r.cmd.ctx).works, x.id ≠ r.cmd.id)
        ∧ ∀ g, r.cmd.gen = some g → ((s.ctx r.cmd.ctx).tiles.any (fun x => x.gen == g) = true) →
          ∃ p : Part, (t.arr a.val).held = rest ++ [.part p] ∧ p.ctx = r.cmd.ctx ∧ p.id = r.cmd.id ∧ p.gen = g
            ∧ p.tags = List.replicate (profWidth r.prof) 0x1000)
    ∧ (∀ (k : CtxId) (op : Nat) (w : BitVec 56), (s.ctx (ctxIx k)).hold = .stall op w → s.coreUp (ctxIx k / 4) = true →
      exec (.stallRelease k) s = .next (settle (ctxIx k) (s.onCtx (ctxIx k) (fun c => { c with st := .run, hold := .free }))
        (if op % 256 = 0x20 then mvxBody (ctxIx k) (op / 256) w (s.onCtx (ctxIx k) (fun c => { c with st := .run, hold := .free }))
          else openBody (ctxIx k) w (s.onCtx (ctxIx k) (fun c => { c with st := .run, hold := .free })))))

/-- MOV, GATH, SCAT, WARP, the vector instructions, CRC and DIG enter their engine's queue. Let u be s after the fetch. For a context that
runs w with reserved fields 0, with no format or address condition (the body gives no trap), fewer than 16 engine instructions tracked and
room in the queue of the engine: the queue (0 for MOV, 1 for GATH, SCAT and WARP, 2 or 3 for a vector instruction as ENG and room say, 4 for
CRC and DIG) gains one job at its end, with the context, its work number, the opcode and the word; the context tracks one engine work more;
PC goes 8 on; and DIG holds the issue of its context. Nothing else changes from u. -/
def Obligations.EngineInstructionsAreQueued : Prop :=
  ∀ (s u : State) (k : CtxId) (w : BitVec 56) (i : Nat) (c : Ctx), u = s.fetchFx i → i = ctxIx k → c = s.ctx i →
    (c.works.filter (fun x => x.eng)).length < 16 → ∀ (j : Instr) (e op : Nat) (body : Res),
    ((j = .mov k w ∧ e = 0 ∧ op = 0x45 ∧ body = movBody i w u ∧ fw w 41 0 = 0 ∧ Runs s k w (dNeeds [mDD w, mDS w]))
      ∨ (j = .gath k w ∧ e = 1 ∧ op = 0x46 ∧ body = gatherBody false i w u ∧ fw w 37 0 = 0 ∧ Runs s k w (dNeeds [mDD w, mDS w, mDI w]))
      ∨ (j = .scat k w ∧ e = 1 ∧ op = 0x47 ∧ body = gatherBody true i w u ∧ fw w 37 0 = 0 ∧ Runs s k w (dNeeds [mDD w, mDS w, mDI w]))
      ∨ (j = .warp k w ∧ e = 1 ∧ op = 0x48 ∧ body = warpBody i w u ∧ fw w 36 0 = 0 ∧ Runs s k w (sNeeds [fw w 42 38] ++ dNeeds [mDD w, mDS w]))
      ∨ (((j = .vew k w ∧ op = 0x50 ∧ vFN w < 6) ∨ (j = .vred k w ∧ op = 0x51 ∧ vFN w < 4) ∨ (j = .vsmax k w ∧ op = 0x52 ∧ vFN w = 0)
          ∨ (j = .vnorm k w ∧ op = 0x53 ∧ vFN w < 2) ∨ (j = .vfn k w ∧ op = 0x54 ∧ vFN w < 5) ∨ (j = .vtopk k w ∧ op = 0x55 ∧ vFN w = 0)
          ∨ (j = .vsort k w ∧ op = 0x56 ∧ vFN w < 2) ∨ (j = .vnms k w ∧ op = 0x57 ∧ vFN w = 0))
        ∧ vecEngine u w = some e ∧ vENG w ≠ 3 ∧ fw w 21 16 = 0 ∧ body = vecBody op i w u ∧ Runs s k w (vecNeeds op w))
      ∨ (((j = .crc k w ∧ op = 0x80 ∧ fw w 24 22 = 0 ∧ body = scanBody false i w u) ∨ (j = .dig k w ∧ op = 0x81 ∧ body = scanBody true i w u))
        ∧ e = 4 ∧ fw w 40 39 ≠ 3 ∧ fw w 38 37 < 2 ∧ fw w 21 0 = 0 ∧ Runs s k w (sNeeds [fw w 50 46, fw w 45 41, fw w 34 30, fw w 29 25]))) →
    (∀ n, body ≠ .trap n) → (u.engq e).queue.length < engCap e →
    ∃ v q, exec j s = .next v ∧ (v.engq e).queue = (u.engq e).queue ++ [q] ∧ q.ctx = i ∧ q.id = c.nextId ∧ q.op = op ∧ q.w = w
      ∧ (v.ctx i).pc = c.pc + 8 ∧ (v.ctx i).works.length = c.works.length + 1 ∧ (v.ctx i).hold = (if op = 0x81 then .dig c.nextId else c.hold)
      ∧ (∀ x, x ≠ i → v.ctx x = s.ctx x) ∧ SameBut [.ctxs, .eng] u v

/-- Engine instructions start in their queue's order, and complete: their work ends; MOV copies its bytes, VEW adds its words. While FAB
runs: ENGINE_INSTRUCTION_START takes the oldest instruction of an engine's queue to the lowest free channel or unit once no earlier access
of its context overlaps, and changes nothing else. ENGINE_INSTRUCTION_DONE on a channel of MOV or on the transform or a vector engine at
work has the instruction's effect with the channel free; afterwards its context no longer tracks the work. SCAN_COMPLETE on a unit at work:
with no TST_DIGC armed: its context no longer tracks the work, and a DIG's context that waits for it issues again, or goes on with the
pre-emption or the STOP that waited, with its predicate set to whether the stored value equals the check value. What is written, for one-row
tensors in a tank without ECC conditions and without block scales: a MOV from INT8 to INT8 makes byte q of its destination the byte q of its
source, and every other byte of the tank, the core buffers and DRAM is as before; a VEW with FN 0 on FP32 makes word q of its destination
the FP32 sum of the words q of its sources (R242), every other byte as before. DMA_COPY_COMPLETE on a firmware channel at work without a
host command: the channel is free. An instruction behind the oldest waits its turn: that this order is per queue is DEDUCED (log entry 72).
-/
def Obligations.EngineInstructionsStartAndEnd : Prop :=
  ∀ s : State, s.up 4 = true →
    (∀ (e : Eng) (j : EngJob) (r : List EngJob) (u : Nat), (s.engq (engIx e)).queue = j :: r → freeUnit (s.engq (engIx e)) (engUnits (engIx e)) = some u →
      (s.ctx j.ctx).writeClear j.id = true → (s.ctx j.ctx).readClear j.id = true →
      ∃ t, exec (.engineInstructionStart e 0) s = .next t ∧ (t.engq (engIx e)).queue = r ∧ Tab.find? (t.engq (engIx e)).run u = some j
        ∧ (∀ x, x ≠ engIx e → t.engq x = s.engq x) ∧ SameBut [.eng] s t)
    ∧ (∀ (e : Eng) (ch : Fin 12) (j : EngJob) (u : Nat), e ≠ .chk → u = (if e = .mov then ch.val else 0) → Tab.find? (s.engq (engIx e)).run u = some j →
      ∃ t, exec (.engineInstructionDone e ch) s = .next t ∧ (∀ x ∈ (t.ctx j.ctx).works, x.id ≠ j.id)
        ∧ t = engRun (engIx e) u j (s.setEngq (engIx e) { s.engq (engIx e) with run := Tab.erase (s.engq (engIx e)).run u }))
    ∧ (∀ (ch : Fin 12) (j : EngJob) (d x : Desc), Tab.find? (s.engq 0).run ch.val = some j → j.op = 0x45 → d = j.d 0 → x = j.d 1 → s.mem.tank.ecc = [] →
      OneRow d 1 → OneRow x 1 → x.dim0 = d.dim0 →
      ∃ t, exec (.engineInstructionDone .mov ch) s = .next t
        ∧ (∀ q < d.dim0, t.mem.tank.byte (d.base + q) = s.mem.tank.byte (x.base + q))
        ∧ (∀ b, ¬(d.base ≤ b ∧ b < d.base + d.dim0) → t.mem.tank.byte b = s.mem.tank.byte b) ∧ t.mem.cbuf = s.mem.cbuf ∧ t.mem.dram = s.mem.dram)
    ∧ (∀ (e : Eng) (ch : Fin 12) (j : EngJob) (d x y : Desc), (e = .vec0 ∨ e = .vec1) → Tab.find? (s.engq (engIx e)).run 0 = some j → j.op = 0x50 →
      vFN j.w = 0 → d = j.d 0 → x = j.d 1 → y = j.d 2 → s.mem.tank.ecc = [] → OneRow d 7 → OneRow x 7 → OneRow y 7 → x.dim0 = d.dim0 → y.dim0 = d.dim0 →
      ∃ t, exec (.engineInstructionDone e ch) s = .next t
        ∧ (∀ q < d.dim0, t.num 0 (d.base + 4 * q) 4
          = (fadd (BitVec.ofNat 32 (s.num 0 (x.base + 4 * q) 4)) (BitVec.ofNat 32 (s.num 0 (y.base + 4 * q) 4))).toNat)
        ∧ (∀ b, ¬(d.base ≤ b ∧ b < d.base + 4 * d.dim0) → t.mem.tank.byte b = s.mem.tank.byte b) ∧ t.mem.cbuf = s.mem.cbuf ∧ t.mem.dram = s.mem.dram)
    ∧ (∀ (u : Fin 2) (j : EngJob), Tab.find? (s.engq 4).run u.val = some j → s.pertAt 0x98 = none →
      ∃ t, exec (.scanComplete u) s = .next t ∧ (∀ x ∈ (t.ctx j.ctx).works, x.id ≠ j.id)
        ∧ (j.op = 0x81 → (s.ctx j.ctx).hold = .dig j.id → (t.ctx j.ctx).hold = (if (s.ctx j.ctx).st = .saving then .preempt else if (s.ctx j.ctx).stop then .stop else .free)
          ∧ (t.ctx j.ctx).p = ((s.ctx j.ctx).setP (fw j.w 24 22) (s.num 0 ((j.xs[3]?).getD 0).toNat (scanLen j.w) == (scanValue j s).1)).p))
    ∧ (∀ (ch : Fin 3) (j : DmaJob), Tab.find? s.eng.dma ch.val = some j → j.host = none →
      ∃ t, exec (.dmaCopyComplete ch) s = .next t ∧ Tab.find? t.eng.dma ch.val = none)

/-- SIG, WAIT, FENCE, YIELD, TRAP and HALT take their effect, and what they wait for completes them (choices: log entries 33, 70). Let u be
s after the fetch; a counter named by SIG or WAIT is s[RC] + CIX and lies from 1,024 to 32,767. SIG with no write of the context outstanding
adds s[RA] + IMM modulo 2^32 to that counter alone, and otherwise keeps the addition for when those writes have landed. WAIT on a counter c
whose (c − t) mod 2^32 is below 2^31 writes 1 to its predicate and goes on; otherwise the context is in WAIT for it. WAIT_SATISFIED on a
waiting context whose counter has reached t: the same end with 1; WAIT_TIMEOUT where the timeout is not 0: the same end with 0. FENCE whose
conditions hold goes on, else it holds issue until FENCE_COMPLETE under them. YIELD holds issue for N cycles (1 for N 0) until YIELD_EXPIRY.
HALT holds the context at its instruction. TRAP enters TRAP at its instruction with cause 0x80 + CODE and event 0x0C01. Where the word goes
on, PC goes 8 on. Nothing else changes, but for TRAP what raising an event changes. That WAIT on a counter that has reached t is satisfied
at its issue, and that HALT holds the context with PC at the HALT, rests on log entries 33 and 70 (DEDUCED). -/
def Obligations.SyncAndSystemInstructions : Prop :=
  ∀ (s u : State) (k : CtxId) (w : BitVec 56) (i : Nat) (c : Ctx), u = s.fetchFx i → i = ctxIx k → c = s.ctx i →
    (∀ n, n = (c.sreg (fw w 50 46) + BitVec.ofNat 64 (fw w 40 26)).toNat → 1024 ≤ n → n < 32768 →
      (Runs s k w [.scalar (fw w 50 46), .scalar (fw w 45 41)] → fw w 15 0 = 0 →
        (c.writes = [] → ∃ v, exec (.sig k w) s = .next v
          ∧ Tab.getD v.sync n 0 = Tab.getD s.sync n 0 + ((c.sreg (fw w 45 41)).truncate 32 + BitVec.ofNat 32 (fw w 25 16))
          ∧ (∀ m, m ≠ n → Tab.getD v.sync m 0 = Tab.getD s.sync m 0) ∧ v.ctx i = { c with pc := c.pc + 8 } ∧ (∀ q, q ≠ i → v.ctx q = s.ctx q) ∧ SameBut [.ctxs, .sync] u v)
        ∧ (c.writes ≠ [] → GoesTo (.sig k w) s k { c with sigs := c.sigs ++ [⟨n, (c.sreg (fw w 45 41)).truncate 32 + BitVec.ofNat 32 (fw w 25 16), c.writes⟩], pc := c.pc + 8 }))
      ∧ (Runs s k w [.scalar (fw w 50 46), .scalar (fw w 45 41), .scalar (fw w 25 21)] → fw w 17 0 = 0 →
        ((Tab.getD s.sync n 0 - (c.sreg (fw w 45 41)).truncate 32).toNat < 2 ^ 31 →
          GoesTo (.wait k w) s k { c.setP (fw w 20 18) true with st := .run, hold := .free, pc := c.pc + 8 })
        ∧ (2 ^ 31 ≤ (Tab.getD s.sync n 0 - (c.sreg (fw w 45 41)).truncate 32).toNat →
          GoesTo (.wait k w) s k { c with st := .wait, hold := .wait n ((c.sreg (fw w 45 41)).truncate 32) ((c.sreg (fw w 25 21)).truncate 32) (fw w 20 18) })))
    ∧ (∀ n t tmo pd, c.hold = .wait n t tmo pd →
      ((Tab.getD s.sync n 0 - t).toNat < 2 ^ 31 → CtxTo (exec (.waitSatisfied k) s) s i { c.setP pd true with st := .run, hold := .free, pc := c.pc + 8 })
      ∧ (tmo ≠ 0 → CtxTo (exec (.waitTimeout k) s) s i { c.setP pd false with st := .run, hold := .free, pc := c.pc + 8 }))
    ∧ (Runs s k w [] → fw w 50 0 = 0 → (fenceDone u i = true → GoesTo (.fence k w) s k { c with pc := c.pc + 8 })
      ∧ (fenceDone u i = false → GoesTo (.fence k w) s k { c with hold := .fence, pc := c.pc + 8 }) ∧ GoesTo (.halt k w) s k { c with hold := .halt })
    ∧ (c.hold = .fence → c.writes = [] → c.sigs = [] → s.aoPend i = false → CtxTo (exec (.fenceComplete k) s) s i { c with hold := .free })
    ∧ (Runs s k w [] → fw w 50 16 = 0 → GoesTo (.yield k w) s k { c with hold := .yield (max 1 (fw w 15 0)), pc := c.pc + 8 })
    ∧ (∀ n, c.hold = .yield n → CtxTo (exec (.yieldExpiry k) s) s i { c with hold := .free })
    ∧ (Runs s k w [] → fw w 50 7 = 0 → ∃ v, exec (.trap k w) s = .next v ∧ v.ctx i = { c with st := .trap, cause := BitVec.ofNat 8 (0x80 + fw w 6 0), hold := .free }
      ∧ (∀ q, q ≠ i → v.ctx q = s.ctx q) ∧ Raised 0x0C01 u v ∧ SameBut [.ctxs, .ev, .hostMem] u v)

/-- A write at a sync counter's first address sets it, and one at its second address adds to it. For a requester that reaches the address of
the counter: SYNC_COUNTER_SET sets counter i to v and SYNC_COUNTER_ADD adds v to it modulo 2^32, unless the requester is a host port and i
is below 1,024, where nothing changes. No other counter and nothing else of the machine changes. -/
def Obligations.HostWritesOfSyncCounters : Prop :=
  ∀ (s : State) (who : Who) (i : Fin 32768) (v : W32),
    (reaches s who (0x00C80000 + 4 * i.val) = true → ∃ t, exec (.syncCounterSet who i v) s = .next t
      ∧ Tab.getD t.sync i.val 0 = (if (whoPort who).isSome ∧ i.val < 1024 then Tab.getD s.sync i.val 0 else v)
      ∧ (∀ j, j ≠ i.val → Tab.getD t.sync j 0 = Tab.getD s.sync j 0) ∧ SameBut [.sync] s t)
    ∧ (reaches s who (0x00CA0000 + 4 * i.val) = true → ∃ t, exec (.syncCounterAdd who i v) s = .next t
      ∧ Tab.getD t.sync i.val 0 = (if (whoPort who).isSome ∧ i.val < 1024 then Tab.getD s.sync i.val 0 else Tab.getD s.sync i.val 0 + v)
      ∧ (∀ j, j ≠ i.val → Tab.getD t.sync j 0 = Tab.getD s.sync j 0) ∧ SameBut [.sync] s t)

/-- TAKE and JOIN make a result current, and DONE offers one and returns its status. Let u be s after the fetch; the stream that a REL names
is bound. TAKE by its home context with an arrival r to take: s[RN] is r's number, the context's current result is r's, its poison flag is
clear and PC goes 8 on; with a clear poison flag before, r is marked taken and no other number of the stream changes. JOIN by a context with
BOUND set of an assigned number: that number is current, s[RR] is 0 while it is unresolved and 1 once resolved, the flag is clear and PC
goes 8 on. REL_WAIT_COMPLETE ends a waiting TAKE or JOIN in the same way. DONE by the home context with BOUND set of a number that was
taken, its source passing the format and address conditions: where the number is resolved already the status is 1 and nothing else changes
but that the current result is cleared when it names it; where nothing decides it, the context's writes have landed, its entry is free, its
source is readable and no lockstep compares it, the number is no longer open, the status in s[RR] is 0, the current result is cleared when
it names it and PC goes 8 on. DONE_ENTRY_FREE ends a held DONE in the same way. -/
def Obligations.ReleaseInstructions : Prop :=
  ∀ (s u : State) (k : CtxId) (w : BitVec 56) (i : Nat) (c : Ctx) (st : Nat), u = s.fetchFx i → i = ctxIx k → c = s.ctx i →
    (fw w 23 0 = 0 → st = (c.sreg (fw w 48 44) + BitVec.ofNat 64 (fw w 43 38)).toNat → st < 64 → u.bound st = true →
      (fw w 50 49 = 0 → Runs s k w [.scalar (fw w 48 44)] → u.home st = i → ∀ r, takeReady u st = some r →
        ∃ v, exec (.relTake k w) s = .next v ∧ (v.ctx i).cur = some (st, r.seq) ∧ (v.ctx i).poison = false ∧ (v.ctx i).st = .run ∧ (v.ctx i).pc = c.pc + 8
          ∧ (v.ctx i).sreg (fw w 37 33) = (if fw w 37 33 = 0 then 0 else r.seq.zeroExtend 64)
          ∧ (c.poison = false → (v.strm st).seqs = (u.strm st).seqs.map (fun x => if x.seq = r.seq then { x with taken := true } else x)))
      ∧ (fw w 50 49 = 1 → Runs s k w [.scalar (fw w 48 44), .scalar (fw w 37 33)] → u.ctxBound i = true → ∀ n, n = (c.sreg (fw w 37 33)).truncate 32 → u.assigned st n = true →
        ∃ v, exec (.relJoin k w) s = .next v ∧ (v.ctx i).cur = some (st, n) ∧ (v.ctx i).poison = false ∧ (v.ctx i).st = .run ∧ (v.ctx i).pc = c.pc + 8
          ∧ (v.ctx i).sreg (fw w 28 24) = (if fw w 28 24 = 0 ∨ (u.seqOf st n).isSome then 0 else 1))
      ∧ (fw w 50 49 = 2 → Runs s k w ([.scalar (fw w 48 44), .scalar (fw w 37 33)] ++ [.desc (fw w 32 29)]) → u.ctxBound i = true → u.home st = i →
        ∀ n d, n = (c.sreg (fw w 37 33)).truncate 32 → d = descOf (c.dreg (fw w 32 29)) → untaken u st n = false → d.formatBad = false →
        d.copyLen ≤ ringEntry (u.fld (Reg.INT_OUT_GEOM st) 15 0) - 32 → d.plain.addressBad u = false → d.spaceBad u = false →
        (u.seqOf st n = none → GoesTo (.relDone k w) s k { c.setS (fw w 28 24) 1 with cur := if c.cur = some (st, n) then none else c.cur, st := .run, hold := .free, pc := c.pc + 8 })
        ∧ (doneEarly i st n (fw w 28 24) u = none → c.writes = [] → u.outFree st n = true → (readRows (i / 4) (i / 4) d d.rows u).2.2 = false → u.lockMode = false →
          (readRows (i / 4) (i / 4) d d.rows u).1.partBadAt 0 (u.outEntry st n + 32) (readRows (i / 4) (i / 4) d d.rows u).2.1.length = false →
          ∃ v, exec (.relDone k w) s = .next v ∧ (v.ctx i).sreg (fw w 28 24) = 0 ∧ (v.ctx i).cur = (if c.cur = some (st, n) then none else c.cur)
            ∧ (v.ctx i).st = .run ∧ (v.ctx i).hold = .free ∧ (v.ctx i).pc = c.pc + 8 ∧ ∀ x ∈ (v.strm st).seqs, x.seq = n → x.st ≠ .opened)))
    ∧ (∀ rn r, c.hold = .take st rn → takeReady s st = some r → ∃ v, exec (.relWaitComplete k) s = .next v ∧ (v.ctx i).cur = some (st, r.seq)
      ∧ (v.ctx i).poison = false ∧ (v.ctx i).st = .run ∧ (v.ctx i).pc = c.pc + 8 ∧ (v.ctx i).sreg rn = (if rn = 0 then 0 else r.seq.zeroExtend 64))
    ∧ (∀ n rr, c.hold = .join st n rr → s.assigned st n = true → ∃ v, exec (.relWaitComplete k) s = .next v ∧ (v.ctx i).cur = some (st, n)
      ∧ (v.ctx i).poison = false ∧ (v.ctx i).st = .run ∧ (v.ctx i).pc = c.pc + 8 ∧ (v.ctx i).sreg rr = (if rr = 0 ∨ (s.seqOf st n).isSome then 0 else 1))
    ∧ (∀ n dw rr, c.hold = .done st n dw rr → doneEarly i st n rr s = none → c.writes = [] → s.outFree st n = true →
      (readRows (i / 4) (i / 4) (descOf dw) (descOf dw).rows s).2.2 = false → s.lockMode = false →
      (readRows (i / 4) (i / 4) (descOf dw) (descOf dw).rows s).1.partBadAt 0 (s.outEntry st n + 32) (readRows (i / 4) (i / 4) (descOf dw) (descOf dw).rows s).2.1.length = false →
      ∃ v, exec (.doneEntryFree k) s = .next v ∧ (v.ctx i).sreg rr = 0 ∧ (v.ctx i).cur = (if c.cur = some (st, n) then none else c.cur)
        ∧ (v.ctx i).st = .run ∧ (v.ctx i).hold = .free ∧ (v.ctx i).pc = c.pc + 8 ∧ ∀ x ∈ (v.strm st).seqs, x.seq = n → x.st ≠ .opened)

/-- AOW and PWMW pass a value to their output, and MRD reads the latest result of an entry. Let u be s after the fetch; the context runs w
with reserved fields 0. AOW with actuation authority, FIO running, its output enabled, no poison flag and no poisoned current result, and no
earlier write of the channel waiting: the write (channel, low 16 bits of s[RS], and whether the safe state holds) joins those that wait for
their update tick. PWMW under the same conditions, with no AOW of the context waiting: outside the safe state the pending duty is the low 16
bits of s[RS], the running duty and every other register are unchanged, and the output counts as driven; in the safe state nothing changes.
MRD on an enabled converter: s[RD] is the word of the entry and the predicate 1 where it is valid, else both are 0. PC goes 8 on; nothing
else changes from u. -/
def Obligations.FieldOutputInstructions : Prop :=
  ∀ (s u : State) (k : CtxId) (w : BitVec 56) (i ch : Nat) (c : Ctx), u = s.fetchFx i → i = ctxIx k → c = s.ctx i → ch = fw w 50 48 →
    (Runs s k w [.scalar (fw w 47 43)] → fw w 42 0 = 0 → u.auth = true → u.up 8 = true → u.poisoned i = false →
      (u.rbit Reg.ACT_EN ch = true → (∀ x ∈ u.act.aoq, x.ch ≠ ch) → ∃ v, exec (.aow k w) s = .next v
        ∧ v.act = { u.act with aoq := u.act.aoq ++ [⟨ch, (c.sreg (fw w 47 43)).truncate 16, i, u.act.safe⟩] }
        ∧ v.ctx i = { c with pc := c.pc + 8 } ∧ (∀ q, q ≠ i → v.ctx q = s.ctx q) ∧ SameBut [.ctxs, .act] u v)
      ∧ (u.rbit Reg.ACT_EN (16 + ch) = true → (∀ x ∈ u.act.aoq, x.ctx ≠ i) →
        (u.act.safe = true → GoesTo (.pwmw k w) s k { c with pc := c.pc + 8 })
        ∧ (u.act.safe = false → ∃ v, exec (.pwmw k w) s = .next v
          ∧ v.fld (Reg.ACT_PWM_DUTY ch) 31 16 = (c.sreg (fw w 47 43)).toNat % 65536 ∧ v.fld (Reg.ACT_PWM_DUTY ch) 15 0 = u.fld (Reg.ACT_PWM_DUTY ch) 15 0
          ∧ RegsBut [Reg.ACT_PWM_DUTY ch] u v ∧ Tab.getD v.act.drv ch false = true ∧ v.act = { u.act with drv := v.act.drv }
          ∧ v.ctx i = { c with pc := c.pc + 8 } ∧ (∀ q, q ≠ i → v.ctx q = s.ctx q) ∧ SameBut [.ctxs, .act, .regs] u v)))
    ∧ (Runs s k w [] → fw w 36 0 = 0 → u.mscOn (fw w 50 49) = true →
      GoesTo (.mrd k w) s k (let ok := u.rbit (Reg.MSRC_LVALID (fw w 50 49)) (fw w 48 45);
        { (c.setS (fw w 44 40) (if ok then (u.reg (Reg.MSRC_LAST (fw w 50 49) (fw w 48 45))).zeroExtend 64 else 0)).setP (fw w 39 37) ok with pc := c.pc + 8 }))

/-- CANTX queues the frame that its record spells, and CANRX removes the oldest received frame and writes its record (model's own: log 84).
Let u be s after the fetch. The context runs w with reserved fields 0, SPACE is the tank or the core buffer, the 80-byte record at s[RA] is
16-byte aligned in a space that answers, and no earlier access of the context touches it. CANTX with authority, its controller enabled, no
poison at the context, its current result or the record, and a legal frame record: with 32 frames queued the predicate is 0 and no queue
changes; with fewer and no AOW of the context waiting, the queue gains the frame at its end and the predicate is 1, the frame in
transmission being as before or, where there was none, the one that the controller offered before. CANRX with its controller enabled: with
nothing received the predicate is 0 and nothing else changes; otherwise the oldest frame leaves the queue and the predicate is 1, and where
the record covers no uncorrectable ECC group in part its 80 bytes are the frame's record with its time and no other register of the context
changes. PC goes 8 on. Which frame counts as in transmission, the one before or else the one the controller offered before, is the model's
choice (log entry 84). -/
def Obligations.CanInstructions : Prop :=
  ∀ (s u : State) (k : CtxId) (w : BitVec 56) (i n a lo sp : Nat) (c : Ctx), u = s.fetchFx i → i = ctxIx k → c = s.ctx i → n = fw w 50 49 →
    a = (c.sreg (fw w 48 44)).toNat → sp = fw w 43 42 → lo = spAddr (i / 4) sp a → Runs s k w [.scalar (fw w 48 44)] → sp ≤ 1 → fw w 38 0 = 0 →
    a % 16 = 0 → a + 80 ≤ u.spSize sp → u.spUp (i / 4) sp = true → c.touches ⟨sp, lo, 80⟩ = false →
    (u.auth = true → u.canOn n = true → u.poisoned i = false → u.bad sp lo 80 = false → frameBad (u.bytes sp lo 80) = false →
      (32 ≤ (u.can n).tx.length → ∃ v, exec (.cantx k w) s = .next v ∧ v.ctx i = { c.setP (fw w 41 39) false with pc := c.pc + 8 }
        ∧ (∀ q, q ≠ i → v.ctx q = s.ctx q) ∧ (∀ q, (v.can q).tx = (u.can q).tx ∧ (v.can q).rx = (u.can q).rx))
      ∧ ((u.can n).tx.length < 32 → (∀ x ∈ u.act.aoq, x.ctx ≠ i) → ∃ v, exec (.cantx k w) s = .next v
        ∧ v.can n = { u.can n with tx := (u.can n).tx ++ [⟨i, frameOf (u.bytes sp lo 80)⟩], bus := (v.can n).bus } ∧ (∀ q, q ≠ n → v.can q = u.can q)
        ∧ ((v.can n).bus = (u.can n).bus ∨ ((u.can n).bus = none ∧ (v.can n).bus = winner (u.can n).tx))
        ∧ v.ctx i = { c.setP (fw w 41 39) true with pc := c.pc + 8 } ∧ (∀ q, q ≠ i → v.ctx q = s.ctx q)))
    ∧ (u.canOn n = true →
      ((u.can n).rx = [] → GoesTo (.canrx k w) s k { c.setP (fw w 41 39) false with pc := c.pc + 8 })
      ∧ (∀ f t r, (u.can n).rx = (f, t) :: r → ∃ v, exec (.canrx k w) s = .next v
        ∧ v.can n = { u.can n with rx := r } ∧ (∀ q, q ≠ n → v.can q = u.can q)
        ∧ (u.partBadAt sp lo 80 = false → (∀ q < 80, (v.memOf sp).byte (lo + q) = (frameRecord f t).getD q 0)
          ∧ (∀ b, ¬(lo ≤ b ∧ b < lo + 80) → (v.memOf sp).byte b = (u.memOf sp).byte b) ∧ SameBut [.ctxs, .act, .tank, .cbuf] u v)
        ∧ v.ctx i = { c.setP (fw w 41 39) true with pc := c.pc + 8 } ∧ (∀ q, q ≠ i → v.ctx q = s.ctx q)))

/-- CHURN.REQ, TEST.REQ, CHN_REQ and TST_TREQ enter a request, and a deadline or an end reports its code. Let u be s after the fetch. For a
context that runs w with reserved fields 0, naming a resident layer map entry of its own, a counter a program may name and an aligned status
address, CHURN.REQ and TEST.REQ for an array in service of a core with fewer than 16 requests waiting add one request at the end of the
core's list, with the array, the kind, and the context as its source; PC goes 8 on. A write of CHN_REQ, and of TST_TREQ with GO, whose
requester reaches the register do the same for the register. CHURN_REQUEST_DEADLINE on a request that has not started and whose deadline has
passed takes it from the list, counts it in CHN_REFUSE_CNT and raises 0x0403. CHURN_REQUEST_COMPLETE on one whose churn has ended takes it
from the list. TEST_REQUEST_DEADLINE on one that has not started and whose deadline has passed takes it from the list. A request by a
register reports its code in CHN_REQ_STAT, or in TST_TREQ_STAT for a test, and these three change nothing more for it. -/
def Obligations.ChurnAndTestRequests : Prop :=
  ∀ (s u : State) (k : CtxId) (w : BitVec 56) (i ei : Nat) (e : BitVec 128) (c : Ctx), u = s.fetchFx i → i = ctxIx k → c = s.ctx i →
    (Runs s k w (reqNeeds w) → fw w 19 0 = 0 → ei = (c.sreg (fw w 40 36) + BitVec.ofNat 64 (fw w 50 41)).toNat → ei ≤ 1023 → e = u.entry (i / 4) ei → eVALID e = true → bit e (16 + i % 4) = true →
      1024 ≤ (c.sreg (fw w 24 20)).toNat → (c.sreg (fw w 24 20)).toNat < 32768 → (c.sreg (fw w 29 25)).toNat % 4 = 0 → (c.sreg (fw w 29 25)).toNat + 4 ≤ 2 ^ 27 → eRESIDENT e = true → u.refuses (i / 4 * 64 + eARRAY e) = false →
      ((u.core (i / 4)).churns.length < 16 → ∃ v q, exec (.churnReq k w) s = .next v ∧ (v.ctx i).pc = c.pc + 8
        ∧ ((v.core (i / 4)).churns.map (fun x => (x.arr, x.full, x.src)) = (u.core (i / 4)).churns.map (fun x => (x.arr, x.full, x.src)) ++ [q])
        ∧ q = (i / 4 * 64 + eARRAY e, fw w 35 35 == 1, .ctx (i % 4) (c.sreg (fw w 29 25)).toNat (c.sreg (fw w 24 20)).toNat ei))
      ∧ (fw w 35 35 = 0 → (u.core (i / 4)).tests.length < 16 → ∃ v q, exec (.testReq k w) s = .next v ∧ (v.ctx i).pc = c.pc + 8
        ∧ ((v.core (i / 4)).tests.map (fun x => (x.arr, x.full, x.src)) = (u.core (i / 4)).tests.map (fun x => (x.arr, x.full, x.src)) ++ [q])
        ∧ q = (i / 4 * 64 + eARRAY e, false, .ctx (i % 4) (c.sreg (fw w 29 25)).toNat (c.sreg (fw w 24 20)).toNat ei)))
    ∧ (∀ (who : Who) (n : CoreId) (v : W32) (a : Nat), reaches s who (Reg.CHN_REQ n.val) = true → a = n.val * 64 + bits v 5 0 →
      s.refuses a = false → (s.core n.val).churns.length < 16 → ∃ t, exec (.chnReq who n v) s = .next t
        ∧ (t.core n.val).churns.map (fun x => (x.arr, x.full, x.src)) = (s.core n.val).churns.map (fun x => (x.arr, x.full, x.src)) ++ [(a, bit v 8, .reg)])
    ∧ (∀ (who : Who) (v : W32) (a : Nat), reaches s who Reg.TST_TREQ = true → bit v 31 = true → a = bits v 10 0 →
      s.refuses a = false → (s.core (a / 64)).tests.length < 16 → ∃ t, exec (.tstTreq who v) s = .next t
        ∧ (t.core (a / 64)).tests.map (fun x => (x.arr, x.full, x.src)) = (s.core (a / 64)).tests.map (fun x => (x.arr, x.full, x.src)) ++ [(a, false, .reg)])
    ∧ (∀ (n : CoreId) (j : Nat) (q : Ask), s.coreUp n.val = true →
      ((s.core n.val).churns[j]? = some q → q.src = .reg → q.arr / 64 = n.val →
        (q.started = false → q.code = none → q.passed s = true → ∃ t, exec (.churnRequestDeadline n j) s = .next t ∧ (t.core n.val).churns = (s.core n.val).churns.eraseIdx j
          ∧ t.reg (Reg.CHN_REFUSE_CNT n.val) = satAdd (s.reg (Reg.CHN_REFUSE_CNT n.val)) 1 ∧ Raised 0x0403 s t
          ∧ t.fld (Reg.CHN_REQ_STAT n.val) 15 12 = 1 ∧ RegsBut [Reg.CHN_REFUSE_CNT n.val, Reg.CHN_REQ_STAT n.val] s t ∧ SameBut (evParts ++ [.regs, .cores]) s t)
        ∧ (∀ r, q.code = some r → r < 16 → ∃ t, exec (.churnRequestComplete n j) s = .next t ∧ (t.core n.val).churns = (s.core n.val).churns.eraseIdx j
          ∧ t.fld (Reg.CHN_REQ_STAT n.val) 15 12 = r ∧ RegsBut [Reg.CHN_REQ_STAT n.val] s t ∧ SameBut [.regs, .cores] s t))
      ∧ ((s.core n.val).tests[j]? = some q → q.src = .reg → q.started = false → q.passed s = true →
        ∃ t, exec (.testRequestDeadline n j) s = .next t ∧ (t.core n.val).tests = (s.core n.val).tests.eraseIdx j
          ∧ RegsBut [Reg.TST_TREQ_STAT] s t ∧ SameBut [.regs, .cores] s t))

/-- STOP_N, FORCE, CLEAR and VFIELD set their causes, and the safe state holds exactly while one of its causes does (model's own: log 86).
While FIO runs. STOP_N_ASSERT_ACCEPT with STOP_N deasserted before: STOP_N and STOPL are set, the safe state holds, the codes of the current
outputs and the duties of the PWM outputs read 0, no output keeps a level or counts as driven, no code that waits for its tick will take
effect, event 0x0901 is raised, no other register changes, and nothing else of the machine changes. STOP_N_DEASSERT_ACCEPT, VFIELD_LOW,
VFIELD_RECOVER, FORCE, and CLEAR with STOP_N deasserted (the last two where the requester reaches ACT_SAFE) set their cause alone;
afterwards the safe state holds exactly while a cause does (STOP_N, STOPL, no actuation authority, FORCE, VFIELD); where it begins the codes
and duties read 0, no code that waits will take effect and event 0x0902 is raised, else no event is raised and no register changes but
FORCE. CLEAR with STOP_N asserted changes nothing. While FIO does not run, VFIELD_LOW and VFIELD_RECOVER set the level of VFIELD alone. That
PWM duties in force and pending both read 0, and that the levels are cleared as the safe state begins, is the model's choice (log entry 86).
-/
def Obligations.SafeStateFollowsItsCauses : Prop :=
  ∀ s : State, (s.up 8 = false → exec .vfieldLow s = .next { s with act := { s.act with vflow := true } }
      ∧ exec .vfieldRecover s = .next { s with act := { s.act with vflow := false } })
    ∧ (s.up 8 = true → ∀ outs : List Nat, outs = (List.range 8).flatMap (fun n => [Reg.ACT_AO_CODE n, Reg.ACT_PWM_DUTY n]) →
    (s.act.stop = false → ∃ t, exec .stopNAssertAccept s = .next t ∧ t.act = { s.act with stop := true, stopL := true, safe := true, level := [], drv := [], pwmOn := [], aoq := s.act.aoq.map (fun w => { w with dead := true }) }
      ∧ (∀ a ∈ outs, t.reg a = 0) ∧ RegsBut outs s t ∧ Raised 0x0901 s t ∧ SameBut (evParts ++ [.regs, .act]) s t)
    ∧ (∀ (j : Instr) (st sl vl f : Bool),
      (j = .stopNDeassertAccept ∧ st = false ∧ sl = s.act.stopL ∧ vl = s.act.vflow ∧ f = s.rbit Reg.ACT_SAFE 5)
        ∨ (j = .vfieldLow ∧ st = s.act.stop ∧ sl = s.act.stopL ∧ vl = true ∧ f = s.rbit Reg.ACT_SAFE 5)
        ∨ (j = .vfieldRecover ∧ st = s.act.stop ∧ sl = s.act.stopL ∧ vl = false ∧ f = s.rbit Reg.ACT_SAFE 5)
        ∨ (∃ who, reaches s who Reg.ACT_SAFE = true ∧ ((∃ on, j = .force who on ∧ st = s.act.stop ∧ sl = s.act.stopL ∧ vl = s.act.vflow ∧ f = on)
          ∨ (j = .clear who ∧ s.act.stop = false ∧ st = false ∧ sl = false ∧ vl = s.act.vflow ∧ f = s.rbit Reg.ACT_SAFE 5))) →
      ∃ t, exec j s = .next t ∧ t.act.stop = st ∧ t.act.stopL = sl ∧ t.act.vflow = vl ∧ t.rbit Reg.ACT_SAFE 5 = f
        ∧ t.act.safe = (st || sl || !s.auth || f || vl)
        ∧ (s.act.safe = false → t.act.safe = true → (∀ a ∈ outs, t.reg a = 0) ∧ t.act.level = [] ∧ t.act.drv = [] ∧ t.act.pwmOn = [] ∧ (∀ w ∈ t.act.aoq, w.dead = true) ∧ Raised 0x0902 s t)
        ∧ ((s.act.safe = true ∨ t.act.safe = false) → Quiet s t ∧ RegsBut [Reg.ACT_SAFE] s t)
        ∧ RegsBut (Reg.ACT_SAFE :: outs) s t ∧ SameBut (evParts ++ [.regs, .act]) s t)
    ∧ (∀ who, s.act.stop = true → exec (.clear who) s = .next (s.access who Reg.ACT_SAFE id)))

/-- Current outputs take their waiting codes at a tick, and the limit conditions set their status bits with an event. While FIO runs.
AO_UPDATE_TICK, with at most one write waiting per channel: none waits afterwards; in the safe state no register and no level changes;
otherwise each channel written outside the safe state, with none since, has the new code in its register, its level is the new code where
CODE[15:10] of the old level and the new code agree and is unchanged where they differ, and no other register or level changes.
AO_DEGLITCH_TRANSFER: the level of the channel is the code applied, and nothing else changes. AO_LIMIT_CHANGE: LIMIT and COMPL of the
channel take the given values, every other register and bit is unchanged, and event 0x0903 is raised when exactly one of the two rises, none
when neither does. EXC_LIMIT: ILIM of the output takes the given value, with event 0x0904 exactly when it rises. Nothing else changes. -/
def Obligations.CurrentAndExcitationOutputs : Prop :=
  ∀ s : State, s.up 8 = true →
    (s.act.aoq.Pairwise (fun x y => x.ch ≠ y.ch) → ∃ t, exec .aoUpdateTick s = .next t ∧ t.act.aoq = []
      ∧ (s.act.safe = true → t = { s with act := { s.act with aoq := [] } })
      ∧ (s.act.safe = false → (∀ x ∈ s.act.aoq, x.dead = false → t.reg (Reg.ACT_AO_CODE x.ch) = x.code.zeroExtend 32
          ∧ Tab.getD t.act.level x.ch 0 = (if x.code.extractLsb' 10 6 = (Tab.getD s.act.level x.ch 0).extractLsb' 10 6 then x.code else Tab.getD s.act.level x.ch 0))
        ∧ RegsBut ((s.act.aoq.filter (fun x => !x.dead)).map (fun x => Reg.ACT_AO_CODE x.ch)) s t ∧ (∀ ch, (∀ x ∈ s.act.aoq, x.dead = false → x.ch ≠ ch) → Tab.getD t.act.level ch 0 = Tab.getD s.act.level ch 0)
        ∧ t.act = { s.act with aoq := [], level := t.act.level }) ∧ SameBut [.regs, .act] s t)
    ∧ (∀ ch : Fin 8, ∃ t, exec (.aoDeglitchTransfer ch) s = .next t ∧ Tab.getD t.act.level ch.val 0 = BitVec.ofNat 16 (s.fld (Reg.ACT_AO_CODE ch.val) 15 0)
      ∧ (∀ q, q ≠ ch.val → Tab.getD t.act.level q 0 = Tab.getD s.act.level q 0) ∧ t.act = { s.act with level := t.act.level } ∧ SameBut [.act] s t)
    ∧ (∀ (ch : Fin 8) (limit compl : Bool), ∃ t, exec (.aoLimitChange ch limit compl) s = .next t
      ∧ (∀ b < 32, t.rbit Reg.ACT_AO_STAT b = (if b = 8 + ch.val then limit else if b = ch.val then compl else s.rbit Reg.ACT_AO_STAT b))
      ∧ ((limit && !s.rbit Reg.ACT_AO_STAT (8 + ch.val)) ≠ (compl && !s.rbit Reg.ACT_AO_STAT ch.val) → Raised 0x0903 s t)
      ∧ ((limit && !s.rbit Reg.ACT_AO_STAT (8 + ch.val)) = false → (compl && !s.rbit Reg.ACT_AO_STAT ch.val) = false → Quiet s t)
      ∧ RegsBut [Reg.ACT_AO_STAT] s t ∧ SameBut (evParts ++ [.regs]) s t)
    ∧ (∀ (m : Fin 4) (on : Bool), ∃ t, exec (.excLimit m on) s = .next t
      ∧ (∀ b < 32, t.rbit Reg.ACT_AO_STAT b = (if b = 16 + m.val then on else s.rbit Reg.ACT_AO_STAT b))
      ∧ (on = true → s.rbit Reg.ACT_AO_STAT (16 + m.val) = false → Raised 0x0904 s t) ∧ ((on = false ∨ s.rbit Reg.ACT_AO_STAT (16 + m.val) = true) → Quiet s t)
      ∧ RegsBut [Reg.ACT_AO_STAT] s t ∧ SameBut (evParts ++ [.regs]) s t)

/-- PWM periods apply the pending duty, and capture inputs count edges and measure period and high time (model's own: log 87, 88). While FIO
runs. PWM_PERIOD_START on an enabled output: DUTY is PEND, PEND and every other register are unchanged, and the output is in its active part
exactly when it counts as driven and its active length PEND × PER / 65536 rounded down, with PER below 100 acting as 100, is above 0;
PWM_ACTIVE_END ends the active part. CAPTURE_EDGE on an enabled input: the edge count goes up by 1 modulo 2^32; once the input has seen a
rising edge, the period register takes the ticks at a rising edge and the high-time register at a falling one; a rising edge is remembered;
no other register changes, and an edge of its direction is a trigger more for each enabled converter in the edge mode that selects the
input. CAPTURE_TIMEOUT on an enabled input: the period reads 0xFFFFFFFF and the input has seen no rising edge. Nothing else changes. The
active length with a PER below 100, the capture's first edge and a capture edge as a trigger are the model's choices (log entries 87 and
88). -/
def Obligations.PwmAndCapture : Prop :=
  ∀ (s : State) (ch : Fin 8) (n : Nat), n = ch.val → s.up 8 = true →
    (s.rbit Reg.ACT_EN (16 + n) = true → ∃ t, exec (.pwmPeriodStart ch) s = .next t
      ∧ t.fld (Reg.ACT_PWM_DUTY n) 15 0 = s.fld (Reg.ACT_PWM_DUTY n) 31 16 ∧ t.fld (Reg.ACT_PWM_DUTY n) 31 16 = s.fld (Reg.ACT_PWM_DUTY n) 31 16
      ∧ Tab.getD t.act.pwmOn n false = (Tab.getD s.act.drv n false && decide (0 < s.fld (Reg.ACT_PWM_DUTY n) 31 16 * max 100 (s.fld (Reg.ACT_PWM_PER n) 23 0) / 65536))
      ∧ (∀ q, q ≠ n → Tab.getD t.act.pwmOn q false = Tab.getD s.act.pwmOn q false) ∧ t.act = { s.act with pwmOn := t.act.pwmOn }
      ∧ RegsBut [Reg.ACT_PWM_DUTY n] s t ∧ SameBut [.regs, .act] s t)
    ∧ (∃ t, exec (.pwmActiveEnd ch) s = .next t ∧ Tab.getD t.act.pwmOn n false = false
      ∧ (∀ q, q ≠ n → Tab.getD t.act.pwmOn q false = Tab.getD s.act.pwmOn q false) ∧ t.act = { s.act with pwmOn := t.act.pwmOn } ∧ SameBut [.act] s t)
    ∧ (s.rbit Reg.ACT_EN (24 + n) = true →
      (∀ (rising : Bool) (ticks : W32), ∃ t, exec (.captureEdge ch rising ticks) s = .next t
        ∧ t.reg (Reg.ACT_CAP_EDGES n) = s.reg (Reg.ACT_CAP_EDGES n) + 1
        ∧ t.reg (Reg.ACT_CAP_PER n) = (if rising && Tab.getD s.act.cap n false then ticks else s.reg (Reg.ACT_CAP_PER n))
        ∧ t.reg (Reg.ACT_CAP_HIGH n) = (if !rising && Tab.getD s.act.cap n false then ticks else s.reg (Reg.ACT_CAP_HIGH n))
        ∧ RegsBut [Reg.ACT_CAP_EDGES n, Reg.ACT_CAP_PER n, Reg.ACT_CAP_HIGH n] s t ∧ Tab.getD t.act.cap n false = (rising || Tab.getD s.act.cap n false)
        ∧ (∀ q, q ≠ n → Tab.getD t.act.cap q false = Tab.getD s.act.cap q false) ∧ t.act = { s.act with cap := t.act.cap } ∧ SameBut [.regs, .act, .msr] s t
        ∧ (∀ m < 4, t.msc m = (if s.mscOn m = true ∧ s.mscTrig m = 2 ∧ s.fld (Reg.MSRC_CTL m) 5 3 = n ∧ (2 ≤ s.fld (Reg.MSRC_CTL m) 7 6 ∨ s.fld (Reg.MSRC_CTL m) 7 6 = b2n (!rising))
          then { s.msc m with edges := (s.msc m).edges + 1 } else s.msc m)))
      ∧ (∃ t, exec (.captureTimeout ch) s = .next t ∧ t.reg (Reg.ACT_CAP_PER n) = 0xFFFFFFFF ∧ RegsBut [Reg.ACT_CAP_PER n] s t
        ∧ Tab.getD t.act.cap n false = false ∧ (∀ q, q ≠ n → Tab.getD t.act.cap q false = Tab.getD s.act.cap q false)
        ∧ t.act = { s.act with cap := t.act.cap } ∧ SameBut [.regs, .act] s t))

/-- CAN controllers send the frame that wins arbitration, keep received frames, and follow their error state (model's own: log 84, 85).
CAN_TX_COMPLETE on a controller that offers frames, x being the one in transmission or else the one that wins arbitration: none is in
transmission afterwards; a frame sent leaves the queue, no other one does, and TEC is the given count, and so is it after an error; an error
with bus-off sets bus-off, with event 0x0905 (the controller offers none while bus-off); a lost arbitration changes nothing else.
CAN_RX_FRAME on an enabled controller not bus-off: REC is the given count, the state error-passive where REC or TEC is above 127, and TEC as
before; an error, and a frame that the filters turn away, changes nothing else but an event; one they keep joins the receive queue at its
end with the local count where 64 are not waiting, and is otherwise lost with CAN_RXOVF_CNT one higher. CAN_BUS_OFF_RECOVERY of a controller
in bus-off with AUTOREC or a recovery asked for: CAN_STAT reads 0 in its stored bits. By a requester that reaches the register: FLUSH keeps
only the frame in transmission (with none, the one offered may have begun: which, is free) and adds the number discarded to CAN_TXDROP_CNT;
RECOVER in bus-off asks for recovery; CAN_CONFIG_WRITE on an enabled controller, but for the lower word of a filter, raises 0x0908 and
changes no register (a lower word its requester held for it is spent), and on a disabled one is a register write. Which frame counts as in
transmission at FLUSH, and that error counters and bus-off are given by the commands, are the model's choices (log entries 84 and 85). -/
def Obligations.CanControllers : Prop :=
  ∀ (s : State) (n : Fin 4) (i : Nat), i = n.val →
    (∀ x, s.canOffers i = true → ((s.can i).bus <|> winner (s.can i).tx) = some x →
      (∀ tec, ∃ t, exec (.canTxComplete n (.sent tec)) s = .next t ∧ (t.can i).tx = (s.can i).tx.erase x ∧ (t.can i).bus = none ∧ t.fld (Reg.CAN_STAT i) 15 8 = tec.toNat)
      ∧ (∀ tec, ∃ t, exec (.canTxComplete n (.error tec true)) s = .next t ∧ (t.can i).tx = (s.can i).tx ∧ (t.can i).bus = none ∧ t.fld (Reg.CAN_STAT i) 15 8 = tec.toNat
        ∧ t.fld (Reg.CAN_STAT i) 1 0 = 2 ∧ Raised 0x0905 s t ∧ RegsBut [Reg.CAN_STAT i] s t ∧ SameBut (evParts ++ [.regs, .act]) s t)
      ∧ (∀ tec, ∃ t, exec (.canTxComplete n (.error tec false)) s = .next t ∧ (t.can i).tx = (s.can i).tx ∧ (t.can i).bus = none ∧ t.fld (Reg.CAN_STAT i) 15 8 = tec.toNat)
      ∧ exec (.canTxComplete n .lostArbitration) s = .next (s.setCan i { s.can i with bus := none }))
    ∧ (∀ (f : CanFrame) (rec : Byte), s.canOn i = true → s.fld (Reg.CAN_STAT i) 1 0 ≠ 2 →
      (∀ r, (r = .error rec ∨ (r = .frame f rec ∧ keeps s i f = false)) → ∃ t, exec (.canRxFrame n r) s = .next t ∧ t.fld (Reg.CAN_STAT i) 23 16 = rec.toNat
        ∧ t.fld (Reg.CAN_STAT i) 15 8 = s.fld (Reg.CAN_STAT i) 15 8 ∧ t.fld (Reg.CAN_STAT i) 1 0 = (if 127 < s.fld (Reg.CAN_STAT i) 15 8 ∨ 127 < rec.toNat then 1 else 0)
        ∧ RegsBut [Reg.CAN_STAT i] s t ∧ SameBut (evParts ++ [.regs]) s t)
      ∧ (keeps s i f = true → ∃ t, exec (.canRxFrame n (.frame f rec)) s = .next t ∧ (t.can i).tx = (s.can i).tx ∧ t.fld (Reg.CAN_STAT i) 23 16 = rec.toNat
        ∧ (t.can i).rx = (if (s.can i).rx.length < 64 then (s.can i).rx ++ [(f, Tab.getD s.cnt.can i 0)] else (s.can i).rx)
        ∧ t.reg (Reg.CAN_RXOVF_CNT i) = (if (s.can i).rx.length < 64 then s.reg (Reg.CAN_RXOVF_CNT i) else satAdd (s.reg (Reg.CAN_RXOVF_CNT i)) 1)
        ∧ (∀ q, q ≠ i → t.can q = s.can q) ∧ RegsBut [Reg.CAN_RXOVF_CNT i, Reg.CAN_STAT i] s t ∧ SameBut (evParts ++ [.regs, .act]) s t))
    ∧ (s.canOn i = true → s.fld (Reg.CAN_STAT i) 1 0 = 2 → (s.rbit (Reg.CAN_CFG i) 3 = true ∨ (s.can i).recov = true) →
      ∃ t, exec (.canBusOffRecovery n) s = .next t ∧ t.reg (Reg.CAN_STAT i) = 0 ∧ t.can i = { s.can i with recov := false } ∧ RegsBut [Reg.CAN_STAT i] s t ∧ SameBut [.regs, .act] s t)
    ∧ (∀ who, reaches s who (Reg.CAN_CMD i) = true →
      (∃ t b, exec (.flush who n) s = .next t ∧ t.can i = { s.can i with tx := b.toList, bus := b } ∧ (b = (s.can i).bus ∨ ((s.can i).bus = none ∧ b = winner (s.can i).tx))
        ∧ t.reg (Reg.CAN_TXDROP_CNT i) = satAdd (s.reg (Reg.CAN_TXDROP_CNT i)) ((s.can i).tx.length - b.toList.length)
        ∧ (∀ q, q ≠ i → t.can q = s.can q) ∧ RegsBut [Reg.CAN_TXDROP_CNT i] s t ∧ SameBut [.regs, .act] s t)
      ∧ (s.fld (Reg.CAN_STAT i) 1 0 = 2 → ∃ t, exec (.recover who n) s = .next t ∧ t.can i = { s.can i with recov := true } ∧ (∀ q, q ≠ i → t.can q = s.can q) ∧ SameBut [.act] s t))
    ∧ (∀ who off v, reaches s who (Reg.CAN_CFG i + off.toNat) = true →
      (s.rbit Reg.ACT_EN (12 + i) = true → ¬(0x40 ≤ off.toNat ∧ off.toNat % 8 = 0) → ∃ t, exec (.canConfigWrite who n off v) s = .next t ∧ Raised 0x0908 s t ∧ SameBut (evParts ++ [.req]) s t)
      ∧ (s.rbit Reg.ACT_EN (12 + i) = false → exec (.canConfigWrite who n off v) s = .next (s.writeWord who (Reg.CAN_CFG i + off.toNat) v)))

/-- BIAS_UP, BIAS_SETTLED, BIASFAIL and PARK move an array between its states. BIAS_UP, by a requester that reaches ARR_CMD, takes an array
in OFF to BIAS, not settled. BIAS_SETTLED on an array in BIAS of a running core: READY where it owes no class 1 full churn; else CHURN where
its probe reference exists and BIAS, settled, where it does not, its class 1 churn being due in both cases. BIASFAIL on an array in BIAS of
a running core: ARR_ERR bit 1 is set, event 0x0103 is raised and the array stays in BIAS. PARK, by a requester that reaches ARR_CMD, on a
READY array: with an empty queue and no command or retry at work it enters OFF with its row codes at 0; otherwise the wish to park is kept.
No other array and nothing else of the machine changes. -/
def Obligations.ArrayBiasAndPark : Prop :=
  ∀ (s : State) (a : ArrId) (x : Arr), x = s.arr a.val →
    (∀ who, reaches s who (Reg.ARR_CMD a.val) = true →
      (x.st = .off → ∃ t, exec (.biasUp who a) s = .next t ∧ t.arr a.val = { x with st := .bias, settled := false } ∧ (∀ b, b ≠ a.val → t.arr b = s.arr b) ∧ SameBut [.arrs] s t)
      ∧ (x.st = .ready → ∃ t, exec (.park who a) s = .next t
        ∧ t.arr a.val = (if x.queue = [] ∧ x.cur = none ∧ x.retry = none then { x with st := .off, park := false, codes := [] } else { x with park := true })
        ∧ (∀ b, b ≠ a.val → t.arr b = s.arr b) ∧ SameBut [.arrs] s t))
    ∧ (s.coreUp (a.val / 64) = true → x.st = .bias →
      (∃ t, exec (.biasSettled a) s = .next t
        ∧ t.arr a.val = { x with st := if s.owes a.val then (if s.refOk a.val then .churn else .bias) else .ready, settled := s.owes a.val, chn := { x.chn with due := if s.owes a.val = true ∧ (∀ d ∈ x.chn.due, d.cls ≠ 1) then x.chn.due ++ [⟨1, s.cnt.aon, false⟩] else x.chn.due } }
        ∧ (∀ b, b ≠ a.val → t.arr b = s.arr b) ∧ SameBut [.arrs] s t)
      ∧ (∃ t, exec (.biasfail a) s = .next t ∧ t.reg (Reg.ARR_ERR a.val) = s.reg (Reg.ARR_ERR a.val) ||| 2 ∧ Raised 0x0103 s t
        ∧ RegsBut [Reg.ARR_ERR a.val] s t ∧ SameBut (evParts ++ [.regs]) s t))

/-- Each CLR command clears its counters and no other register (model's own: log 110). By a requester that reaches the command's register:
ARR_CLR_CNT clears ARR_CLAMP_CNT, ARR_AR_CNT, ARR_CHKSKIP_CNT and bit 15 of ARR_CLAMP_LAST of its array; SKM_CLR_CNT clears SKM_OVF_CNT,
ACC_CLR_CNT clears ACC_ECC_CNT, ACC_POISON_CNT and ACC_SAT_CNT, CHN_CLR_CNT clears CHN_REFUSE_CNT, CHN_RESTART_CNT and CHN_LATE_CNT of its
core; TNK_CLR_CNT clears TNK_ECC_CNT; HLK_CLR_CNT clears the six counters from HLK_DIG_CV_CNT; MSR_CLR_CNT clears the four counters from
MSR_m_OVR_CNT; NVS_CLR_CNT clears NVS_ECC_CNT, NVS_UNC_CNT and the log drop count. ARR_CHK_CLR with bit 10 clears ARR_CHKFAIL_CNT,
ARR_CHKPOIS_CNT and ARR_RES_CNT of every array of its core. No event is raised; no register changes but these and the one written by
ARR_CHK_CLR; and nothing else of the machine changes but what re-arms an event (in the event state, the arrays of ARR_CHK_CLR, and the
converter of MSR_CLR_CNT). That SKM_CLR_CNT clears SKM_OVF_CNT while lanes are in use is the model's choice (log entry 110). -/
def Obligations.CountersAreCleared : Prop :=
  ∀ (s : State) (who : Who) (j : Instr) (addr : Nat) (l : List Nat) (p : List Piece),
    ((∃ a : ArrId, j = .arrClrCnt who a ∧ addr = Reg.ARR_CMD a.val ∧ l = [Reg.ARR_CLAMP_CNT a.val, Reg.ARR_AR_CNT a.val, Reg.ARR_CHKSKIP_CNT a.val] ∧ p = [.regs, .ev])
      ∨ (∃ c : CoreId, (j = .skmClrCnt who c ∧ addr = Reg.SKM_CFG c.val ∧ l = [Reg.SKM_OVF_CNT c.val] ∧ p = [.regs, .ev])
        ∨ (j = .accClrCnt who c ∧ addr = Reg.ACC_CMD c.val ∧ l = [Reg.ACC_ECC_CNT c.val, Reg.ACC_POISON_CNT c.val, Reg.ACC_SAT_CNT c.val] ∧ p = [.regs, .ev])
        ∨ (j = .chnClrCnt who c ∧ addr = Reg.CHN_CMD c.val ∧ l = [Reg.CHN_REFUSE_CNT c.val, Reg.CHN_RESTART_CNT c.val, Reg.CHN_LATE_CNT c.val] ∧ p = [.regs])
        ∨ (∃ v : W32, j = .arrChkClr who c v ∧ bit v 10 = true ∧ addr = Reg.ARR_CHK_CFG c.val ∧ p = [.regs, .arrs]
          ∧ l = (List.range 64).flatMap (fun n => [Reg.ARR_CHKFAIL_CNT (c.val * 64 + n), Reg.ARR_CHKPOIS_CNT (c.val * 64 + n), Reg.ARR_RES_CNT (c.val * 64 + n)])))
      ∨ (j = .tnkClrCnt who ∧ addr = Reg.TNK_CMD ∧ l = [Reg.TNK_ECC_CNT] ∧ p = [.regs, .ev])
      ∨ (j = .hlkClrCnt who ∧ addr = Reg.HLK_CMD ∧ l = (List.range 6).map (fun n => Reg.HLK_DIG_CV_CNT + 4 * n) ∧ p = [.regs])
      ∨ (∃ m : Fin 4, j = .msrClrCnt who m ∧ addr = Reg.MSRC_CMD m ∧ l = (List.range 4).map (fun n => Reg.MSRC_OVR_CNT m + 4 * n) ∧ p = [.regs, .msr])
      ∨ (j = .nvsClrCnt who ∧ addr = Reg.NVS_CMD ∧ l = [Reg.NVS_ECC_CNT, Reg.NVS_UNC_CNT] ∧ p = [.regs, .ev])) →
    reaches s who addr = true →
    ∃ t, exec j s = .next t ∧ (∀ a ∈ l, t.reg a = 0) ∧ Quiet s t ∧ SameBut p s t
      ∧ (∀ a : ArrId, j = .arrClrCnt who a → t.reg (Reg.ARR_CLAMP_LAST a.val) = s.reg (Reg.ARR_CLAMP_LAST a.val) &&& 0xFFFF7FFF ∧ RegsBut (Reg.ARR_CLAMP_LAST a.val :: l) s t)
      ∧ (∀ (c : CoreId) (v : W32), j = .arrChkClr who c v → RegsBut (Reg.ARR_CHK_CFG c.val :: l) s t)
      ∧ ((∀ a, j ≠ .arrClrCnt who a) → (∀ c v, j ≠ .arrChkClr who c v) → RegsBut l s t)
      ∧ (j = .nvsClrCnt who → t.ev.logDrop = 0)

/-- A register write changes the bits that its access lets change, or is refused as its rule says (model's own: log 110). By a requester
that reaches the register. A write of a 32-bit register that takes it (REGISTER_WRITE at an aligned address whose register has no row of its
own, is open to writes and is none of ACT_EN, RST_WDT_CFG, CLK_CFG, the stream registers and MSI-X controls, nor ARR_CHK_CFG with CLR;
ARR_CFG of an array with an empty queue and nothing at work; SKM_CFG without CLR_CNT, SKM_BASE or SKM_LIMIT with no lane in use or waited
for; ACT_AO_RATE; MSR_m_RPTR; HLK_ID with every port DOWN) leaves the register at its value under its access masks (maskWrite), no other
register changed, and nothing else of the machine changed. REGISTER_WRITE of the lower word of a 64-bit register, likewise open, holds it
for its requester and changes nothing else. ARR_CFG at work sets ARR_ERR bit 0 with event 0x0104, the skim registers at work SKM_ERR bit 4
with 0x0107, and change no other register; a 1 in CLR_CNT clears SKM_OVF_CNT in both cases (at work by the model's choice, log entry 110).
ACC_PART: shares whose sum is at most 32, while no context of the core holds a tile or saves, are taken; otherwise ACC_ERR bit 1 or 0 is set
with event 0x0206 and no other register changes. -/
def Obligations.RegisterWritesFollowTheirMasks : Prop :=
  ∀ (s : State) (who : Who) (a : Nat) (v : W32), reaches s who a = true →
    (∀ (j : Instr) (r : RegRow), regRow a = some r →
      ((∃ addr : BarAddr, j = .registerWrite who addr v ∧ a = addr.off.toNat ∧ barAligned addr = true ∧ r.own = false ∧ r.wide = 0 ∧ regOpen s a = true ∧ a ≠ Reg.ACT_EN
          ∧ a ≠ Reg.RST_WDT_CFG ∧ a ≠ Reg.CLK_CFG ∧ ¬(0xCC0000 ≤ a ∧ a < 0xCC0800) ∧ ¬(0x404000 ≤ a ∧ a < 0x406000) ∧ (chkCfgCore a = none ∨ bit v 10 = false))
        ∨ (∃ n : ArrId, j = .arrCfgWrite who n v ∧ a = Reg.ARR_CFG n.val ∧ (s.arr n.val).queue = [] ∧ arrBusy (s.arr n.val) = false)
        ∨ (∃ (c : CoreId) (q : Fin 3), j = .skmConfigWrite who c q v ∧ a = skimReg c.val q.val ∧ (q.val ≠ 0 ∨ bit v 1 = false) ∧ (s.core c.val).lanes = [] ∧ (s.core c.val).waitq = [])
        ∨ (j = .aoRateWrite who v ∧ a = Reg.ACT_AO_RATE) ∨ (∃ m : Fin 4, j = .msrRptrWrite who m v ∧ a = Reg.MSRC_RPTR m)
        ∨ (j = .hlkIdWrite who v ∧ a = Reg.HLK_ID ∧ ∀ p < 8, s.portSt p = 0)) →
      ∃ t, exec j s = .next t ∧ t.reg a = maskWrite r s.sec.lock (s.reg a) v ∧ RegsBut [a] s t ∧ SameBut [.regs] s t)
    ∧ (∀ (addr : BarAddr) (r : RegRow), a = addr.off.toNat → barAligned addr = true → regRow a = some r → r.own = false → r.wide = 1 → regOpen s a = true → a ≠ Reg.ACT_EN → a ≠ Reg.RST_WDT_CFG → a ≠ Reg.CLK_CFG → ¬(0xCC0000 ≤ a ∧ a < 0xCC0800) → ¬(0x404000 ≤ a ∧ a < 0x406000) → chkCfgCore a = none →
      ∃ t, exec (.registerWrite who addr v) s = .next t ∧ (t.reqSt who).held = some (a, v) ∧ (t.reqSt who).latch = (s.reqSt who).latch ∧ SameBut [.req] s t)
    ∧ (∀ n : ArrId, a = Reg.ARR_CFG n.val → ((s.arr n.val).queue ≠ [] ∨ arrBusy (s.arr n.val) = true) → ∃ t, exec (.arrCfgWrite who n v) s = .next t
      ∧ t.reg (Reg.ARR_ERR n.val) = s.reg (Reg.ARR_ERR n.val) ||| 1 ∧ Raised 0x0104 s t ∧ RegsBut [Reg.ARR_ERR n.val] s t ∧ SameBut (evParts ++ [.regs]) s t)
    ∧ (∀ c : CoreId, a = skimReg c.val 0 → bit v 1 = true → ∃ t, exec (.skmConfigWrite who c 0 v) s = .next t ∧ t.reg (Reg.SKM_OVF_CNT c.val) = 0
      ∧ ((s.core c.val).lanes = [] → (s.core c.val).waitq = [] → (∀ r, regRow a = some r → t.reg a = maskWrite r s.sec.lock (s.reg a) v) ∧ RegsBut [a, Reg.SKM_OVF_CNT c.val] s t ∧ SameBut [.regs, .ev] s t)
      ∧ (((s.core c.val).lanes ≠ [] ∨ (s.core c.val).waitq ≠ []) → t.reg (Reg.SKM_ERR c.val) = s.reg (Reg.SKM_ERR c.val) ||| 16 ∧ Raised 0x0107 s t
        ∧ RegsBut [Reg.SKM_ERR c.val, Reg.SKM_OVF_CNT c.val] s t ∧ SameBut (evParts ++ [.regs]) s t))
    ∧ (∀ (c : CoreId) (q : Fin 3), a = skimReg c.val q.val → (q.val ≠ 0 ∨ bit v 1 = false) → ((s.core c.val).lanes ≠ [] ∨ (s.core c.val).waitq ≠ []) → ∃ t, exec (.skmConfigWrite who c q v) s = .next t
      ∧ t.reg (Reg.SKM_ERR c.val) = s.reg (Reg.SKM_ERR c.val) ||| 16 ∧ Raised 0x0107 s t ∧ RegsBut [Reg.SKM_ERR c.val] s t ∧ SameBut (evParts ++ [.regs]) s t)
    ∧ (∀ (c : CoreId) (n : Nat), a = Reg.ACC_PART c.val → n = bits v 7 0 + bits v 15 8 + bits v 23 16 + bits v 31 24 →
      (n ≤ 32 → accBusy s c.val = false → ∃ t, exec (.accPartWrite who c v) s = .next t ∧ t.reg a = v ∧ RegsBut [a] s t ∧ SameBut [.regs] s t)
      ∧ ((32 < n ∨ accBusy s c.val = true) → ∃ t, exec (.accPartWrite who c v) s = .next t ∧ t.reg (Reg.ACC_ERR c.val) = s.reg (Reg.ACC_ERR c.val) ||| (if 32 < n then 2 else 1)
        ∧ Raised 0x0206 s t ∧ RegsBut [Reg.ACC_ERR c.val] s t ∧ SameBut (evParts ++ [.regs]) s t))

/-- START, PREEMPT, RESUME, STOP and the address writes act in their states, and are discarded with event 0x0C04 in the others (model's own:
log 141). By a requester that reaches the register; i is the context. START in IDLE, HALT or TRAP, but on the standby of a MIRROR pair: RUN
at its PC with its registers, predicates, setting, current result, poison flag, cause and holds cleared, its loads without destinations, its
other outstanding work kept, its tiles kept in IDLE and freed in HALT and TRAP but those whose issued drain goes on to complete (log entry
141; a drain that never would ends with its tile). PREEMPT in RUN, STALL or WAIT: saving, a STOP at work ended, what it held withdrawn but
an ACC.SAVE or a DIG. STOP in RUN, STALL, WAIT, HALT or TRAP: it stops, and holds for the stop unless an ACC.SAVE or a DIG that has issued
completes first. SEQ_CTX_PC in IDLE, HALT or TRAP takes the value with bits 2 to 0 clear, SEQ_CTX_SAVE its bits 26 to 6. RESUME in IDLE, but
on the standby of a MIRROR pair, with a save area inside the tank, no ECC error there, a legal header without tiles, the tiles it has within
its share, and a setting that OST.CFG takes without a piecewise-linear table: restoring with what the area holds. In every other state, and
START and RESUME on that standby, each is discarded: SEQ_ERR bit 0 and event 0x0C04, and no context changes. A write of SEQ_CTX_PC leaves
its requester without a lower word held. That START and PREEMPT end a STOP at work, and that the standby discards START and RESUME, is the
model's choice (log entries 32, 130). No other context changes. -/
def Obligations.ContextCommands : Prop :=
  ∀ (s : State) (who : Who) (k : CtxId) (i : Nat) (c : Ctx), i = ctxIx k → c = s.ctx i →
    (∀ j : Instr, ((j = .start who k ∧ (c.settable = false ∨ s.mirStandby = true)) ∨ (j = .preempt who k ∧ c.active = false) ∨ (j = .resume who k ∧ (c.st ≠ .idle ∨ s.mirStandby = true))
        ∨ (j = .stop who k ∧ (c.st = .idle ∨ c.st = .saving ∨ c.st = .restoring))) → reaches s who (Reg.SEQ_CTX_CMD i) = true →
      ∃ t, exec j s = .next t ∧ Raised 0x0C04 s t ∧ t.rbit (Reg.SEQ_ERR (i / 4)) 0 = true ∧ RegsBut [Reg.SEQ_ERR (i / 4)] s t ∧ SameBut (evParts ++ [.regs]) s t)
    ∧ (∀ save v, reaches s who (if save then Reg.SEQ_CTX_SAVE i else Reg.SEQ_CTX_PC i) = true →
      (c.settable = false → ∃ t, exec (.seqCtxAddrWrite who k save v) s = .next t ∧ Raised 0x0C04 s t ∧ RegsBut [Reg.SEQ_ERR (i / 4)] s t ∧ SameBut (evParts ++ [.regs, .req]) s t)
      ∧ (c.settable = true → (save = false → ∃ t, exec (.seqCtxAddrWrite who k save v) s = .next t ∧ t.ctx i = { c with pc := v &&& ~~~7 } ∧ (∀ q, q ≠ i → t.ctx q = s.ctx q)
          ∧ (t.reqSt who).held = none ∧ SameBut [.ctxs, .req] s t)
        ∧ (save = true → ∃ t, exec (.seqCtxAddrWrite who k save v) s = .next t ∧ t.reg (Reg.SEQ_CTX_SAVE i) = (v &&& 0x07FFFFC0).truncate 32
          ∧ RegsBut [Reg.SEQ_CTX_SAVE i] s t ∧ SameBut [.regs] s t)))
    ∧ (reaches s who (Reg.SEQ_CTX_CMD i) = true →
      (c.settable = true → s.mirStandby = false → ∀ l, l = (if c.st = .idle then c.tiles else c.tiles.filter Tile.drains) → ∃ t, exec (.start who k) s = .next t
        ∧ (t.ctx i).st = .run ∧ (t.ctx i).pc = c.pc ∧ (t.ctx i).tiles = l ∧ (∀ q, q ≠ i → t.ctx q = s.ctx q) ∧ SameBut [.ctxs, .arrs, .cores, .sync] s t
        ∧ ((c.st = .idle ∨ ∀ x ∈ c.tiles, x.drain.isSome = true → x.drains = true) →
          t.ctx i = { Ctx.idle with st := .run, pc := c.pc, loads := c.loads.map (fun l => { l with dst := none }), works := c.works, sigs := c.sigs, nextId := c.nextId, tiles := l }
          ∧ SameBut [.ctxs, .arrs, .cores] s t))
      ∧ (c.active = true → CtxTo (exec (.preempt who k) s) s i { c with st := .saving, hold := (match c.hold with | .save rd off => .save rd off | .dig id => .dig id | _ => .preempt), since := s.cnt.gate, stop := false })
      ∧ ((c.active = true ∨ c.st = .halt ∨ c.st = .trap) → CtxTo (exec (.stop who k) s) s i { c with hold := (match c.hold with | .save rd off => .save rd off | .dig id => .dig id | _ => .stop), stop := true })
      ∧ (∀ a r, c.st = .idle → s.mirStandby = false → a = s.saveAt i → a + 896 ≤ 2 ^ 27 → (∀ e ∈ s.mem.tank.ecc, overlap (8 * e.1) 8 a 896 = false) → (s.bytes 0 (a + 24) 4) = [0, 0, 0, 0] →
        areaParse (i / 4) (s.bytes 0 a 896) = some r → tilesFit s i [] = true → resumeOstOk s (i / 4) r.ost = true → r.ost.act ≠ 8 →
        ∃ t, exec (.resume who k) s = .next t ∧ t.ctx i = { r with st := .restoring, nextId := c.nextId } ∧ (∀ q, q ≠ i → t.ctx q = s.ctx q)))

/-- Contexts end their save, restore, stop and halt once their work is done, and MAP_CMD replaces a legal entry. For context i with all its
issued work completed: PREEMPT_COMPLETE while it saves enters IDLE, with its tiles freed; where it holds no tile, its save area lies inside
the tank and the tank holds no ECC error, the 896 bytes of the area hold its registers as Table EXE-5 lays them out, no other byte of the
tank changes, and event 0x0C06 is raised. STOP_COMPLETE after a STOP enters IDLE, and HALT_COMPLETE at a HALT enters HALT with event 0x0C02;
both free its tiles. RESUME_COMPLETE in restoring: RUN. MAP_WRITE with GO by a requester that reaches MAP_CMD: entry bits 9 to 0 becomes
MAP_W0 to MAP_W3 where R192 lets it, and otherwise MAP_ERR bit 0 is set with event 0x0C03 and no entry changes; without GO nothing changes.
No other context changes. -/
def Obligations.ContextCommandsComplete : Prop :=
  ∀ (s : State) (k : CtxId) (i : Nat) (c : Ctx), i = ctxIx k → c = s.ctx i →
    (s.quiet i = true →
      (c.hold = .preempt → ∃ t, exec (.preemptComplete k) s = .next t ∧ t.ctx i = { c with st := .idle, hold := .free, tiles := [] } ∧ (∀ q, q ≠ i → t.ctx q = s.ctx q)
        ∧ (∀ a, a = s.saveAt i → c.tiles = [] → a + 896 ≤ 2 ^ 27 → s.mem.tank.ecc = [] → Raised 0x0C06 s t ∧ (∀ q < 896, t.mem.tank.byte (a + q) = (areaHead i c).getD q 0)
          ∧ (∀ b, ¬(a ≤ b ∧ b < a + 896) → t.mem.tank.byte b = s.mem.tank.byte b) ∧ SameBut (evParts ++ [.ctxs, .tank]) s t))
      ∧ (c.hold = .stop → ∃ t, exec (.stopComplete k) s = .next t ∧ t.ctx i = { c with st := .idle, hold := .free, tiles := [], stop := false } ∧ (∀ q, q ≠ i → t.ctx q = s.ctx q)
        ∧ SameBut [.ctxs, .arrs, .cores] s t)
      ∧ (c.hold = .halt → ∃ t, exec (.haltComplete k) s = .next t ∧ t.ctx i = { c with st := .halt, hold := .free, tiles := [] } ∧ (∀ q, q ≠ i → t.ctx q = s.ctx q)
        ∧ Raised 0x0C02 s t ∧ SameBut (evParts ++ [.ctxs, .arrs, .cores]) s t))
    ∧ (c.st = .restoring → CtxTo (exec (.resumeComplete k) s) s i { c with st := .run, hold := .free })
    ∧ (∀ (who : Who) (n : CoreId) (v : W32) (e : BitVec 128) (x : Nat), reaches s who (Reg.MAP_CMD n.val) = true → x = bits v 9 0 →
      e = s.reg (Reg.MAP_W n.val 3) ++ s.reg (Reg.MAP_W n.val 2) ++ s.reg (Reg.MAP_W n.val 1) ++ s.reg (Reg.MAP_W n.val 0) →
      (bit v 31 = false → exec (.mapWrite who n v) s = .next s)
      ∧ (bit v 31 = true → entryOk s n.val e = true → ∃ t, exec (.mapWrite who n v) s = .next t ∧ t.entry n.val x = e
        ∧ RegsBut ((List.range 4).map (entAddr n.val x)) s t ∧ SameBut [.regs] s t)
      ∧ (bit v 31 = true → entryOk s n.val e = false → ∃ t, exec (.mapWrite who n v) s = .next t ∧ Raised 0x0C03 s t ∧ t.rbit (Reg.MAP_ERR n.val) 0 = true
        ∧ RegsBut [Reg.MAP_ERR n.val] s t ∧ SameBut (evParts ++ [.regs]) s t))

/-- What PREEMPT writes for a context is what RESUME reads back: registers, PC, predicates, current result, poison and setting. For a
context i below 128 whose current result, if any, names a stream below 64: the 896 bytes of a save area head written from it are taken as a
legal head by its core, and give the same scalar registers, descriptor registers, predicates, PC, current result, poison flag and
output-stage record. -/
def Obligations.ASavedContextIsRestored : Prop :=
  ∀ (i : Nat) (c : Ctx), i < 128 → (∀ st n, c.cur = some (st, n) → st < 64) →
    (areaHead i c).length = 896 ∧ ∃ r, areaParse (i / 4) (areaHead i c) = some r ∧ (∀ q < 32, r.sreg q = c.sreg q) ∧ (∀ q < 16, r.dreg q = c.dreg q)
      ∧ r.p = c.p ∧ r.pc = c.pc ∧ r.cur = c.cur ∧ r.poison = c.poison ∧ r.ost.rcd = c.ost.rcd

/-- Temperature samples and triggers make churns due, an idle window starts the lowest class, and lateness raises 0x0402 (model's own: log
37, 38, 164). On a running core. TEMP_SAMPLE with a sample: CHN_TEMP holds it with VALID set, no other register changes and no event is
raised; without one, and no failure standing: bit 17 is set and event 0x0407 raised. CHURN_DUE of a class that may fall due for a programmed
array and is not due yet: the array's due list gains it at its end, and nothing else changes. CHURN_LATE of a class due for more than 1 s,
10 s when it is full, and not late: that class counts as late, CHN_LATE_CNT goes up by 1 and event 0x0402 is raised. IDLE_WINDOW_OPEN on an
idle READY programmed array without a churn at work, no request waiting on the core, no other idle window open there, no class 1 churn of
the core that may start, and fewer than MAXPAR of its arrays churning: a churn of the lowest class due starts, light for classes 4 and 6 and
full otherwise (its probe reference being readable), as class 2 where a full churn meets that class due, and the due classes it serves leave
the list; where a unit of its full churn waits, that unit starts. CLASS1_CHURN_START on an array that owes its class 1 churn, in CHURN, or
settled in BIAS with its reference, starts a full churn of class 1, where MAXPAR leaves a place after the churns of the core that come
before it (R142). A full churn reads the shadow image in DRAM where its reference must be built anew (R134), with what ECC errors there
cause. The class named where a full churn meets a due class 2, and that the next sample clears FAULT, are the model's choices (log entries
37 and 38); when an abandoned class 1 churn starts again is DEDUCED (log entry 164). -/
def Obligations.ChurnsFallDueAndStart : Prop :=
  ∀ (s : State) (a : ArrId) (n c : Nat) (x : Arr), n = a.val → c = n / 64 → x = s.arr n → s.coreUp c = true →
    (∀ cc : CoreId, cc.val = c → (∀ v, ∃ t, exec (.tempSample cc (some v)) s = .next t ∧ t.reg (Reg.CHN_TEMP c) = v.zeroExtend 32 + 0x10000
        ∧ RegsBut [Reg.CHN_TEMP c] s t ∧ Quiet s t ∧ SameBut [.regs, .arrs] s t)
      ∧ (s.rbit (Reg.CHN_TEMP c) 17 = false → ∃ t, exec (.tempSample cc none) s = .next t ∧ t.reg (Reg.CHN_TEMP c) = s.reg (Reg.CHN_TEMP c) ||| 0x20000
        ∧ Raised 0x0407 s t ∧ RegsBut [Reg.CHN_TEMP c] s t ∧ SameBut (evParts ++ [.regs]) s t))
    ∧ (∀ cls : Fin 7, s.programmed n = true → mayDue s n cls.val = true → (∀ d ∈ x.chn.due, d.cls ≠ cls.val) → ∃ t, exec (.churnDue a cls) s = .next t
      ∧ t.arr n = { x with chn := { x.chn with due := x.chn.due ++ [⟨cls.val, s.cnt.aon, false⟩] } } ∧ (∀ b, b ≠ n → t.arr b = s.arr b) ∧ SameBut [.arrs] s t)
    ∧ (∀ cls : Fin 7, (∃ d ∈ x.chn.due, d.cls = cls.val ∧ d.late = false ∧ (if lightClass d.cls then 1000000 else 10000000) < s.since d.at') → ∃ t, exec (.churnLate a cls) s = .next t
      ∧ t.arr n = { x with chn := { x.chn with due := x.chn.due.map (fun d => if d.cls = cls.val then { d with late := true } else d) } } ∧ (∀ b, b ≠ n → t.arr b = s.arr b)
      ∧ t.reg (Reg.CHN_LATE_CNT c) = satAdd (s.reg (Reg.CHN_LATE_CNT c)) 1 ∧ Raised 0x0402 s t ∧ RegsBut [Reg.CHN_LATE_CNT c] s t ∧ SameBut (evParts ++ [.regs, .arrs]) s t)
    ∧ (x.st = .ready → s.idle n = true →
      (∀ cls, x.chn.cur = none → s.programmed n = true → s.churning c < s.maxChurn c → (s.core c).churns = [] → (∀ b, b ≠ n → b / 64 = c → (s.arr b).win = false) → (∀ b, b / 64 = c → firstMay s b = false) → minDue x.chn.due = some cls →
        (lightClass cls = true ∨ s.refOk n = true) → ∃ t u, exec (.idleWindowOpen a) s = .next t ∧ (t.arr n).chn.cur = some u ∧ u.full = !lightClass cls
          ∧ u.cls = (if (!lightClass cls && cls != 1 && x.chn.due.any (fun d => d.cls == 2)) = true then 2 else cls) ∧ u.unit = 0
          ∧ u.live = true ∧ (t.arr n).st = .churn ∧ (t.arr n).chn.due = x.chn.due.filter (fun d => lightClass d.cls != lightClass cls) ∧ (∀ b, b ≠ n → t.arr b = s.arr b) ∧ SameBut (evParts ++ [.arrs, .cores, .refs, .regs, .dram]) s t
          ∧ ((lightClass cls = true ∨ s.mem.dram.ecc = []) → SameBut [.arrs, .cores, .refs] s t))
      ∧ (∀ u, x.chn.cur = some u → u.full = true → u.post = false → ∃ t v, exec (.idleWindowOpen a) s = .next t ∧ (t.arr n).chn.cur = some v
        ∧ v.full = true ∧ v.unit = u.unit ∧ v.raws = u.raws ∧ v.live = true ∧ (t.arr n).st = .churn ∧ (∀ b, b ≠ n → t.arr b = s.arr b) ∧ SameBut [.arrs] s t))
    ∧ (s.owes n = true → x.chn.cur = none → arrBusy x = false → (x.st = .churn ∨ (x.st = .bias ∧ x.settled = true)) → s.refOk n = true →
      s.churning c + ((churnWants s c).filter (fun v => (churnWant s n).any (fun w => v.before w))).length < s.maxChurn c →
      ∃ t u, exec (.class1ChurnStart a) s = .next t ∧ (t.arr n).chn.cur = some u ∧ u.full = true ∧ u.cls = 1 ∧ u.unit = 0 ∧ u.live = true ∧ (t.arr n).st = .churn
        ∧ (∀ b, b ≠ n → t.arr b = s.arr b) ∧ SameBut (evParts ++ [.arrs, .cores, .refs, .regs, .dram]) s t
        ∧ (s.mem.dram.ecc = [] → SameBut [.arrs, .cores, .refs] s t))

/-- A light churn reads its starter columns, releases the array, and then sets ga and the temperature of the correction (model's own: log
41, 121). On a running core. LIGHT_CHURN_PROBES_END of a light churn at work: the churn waits for its update with the responses of the pair;
where nothing waits on the core and the array does not wait to park, the array is released, to READY or, where it owes its class 1 churn, to
CHURN, its rows holding the codes of the last phase while a command waits and else 0, and nothing else changes but what counting clamped
codes changes (ARR_CLAMP_CNT, ARR_CLAMP_LAST, the events). LIGHT_CHURN_UPDATE of a churn that waits for it: the correction's ga is that of
the responses and its temperature the latest sample, its column gains and offsets and every other correction are unchanged, CHN_LIGHT_CNT
goes up by 1 modulo 2^32; where nothing waits on the core and the array does not owe its class 1 churn, no other register changes, the churn
is over, with no starter beyond SEGTOL no event is raised, with one event 0x0404 is raised and a class 3 churn is due, and no other array
changes. Where R131 gives no value, ga is free. A free ga where R131 gives no value and the count of the clamps of probe phases are the
model's choices (log entries 41 and 121). -/
def Obligations.LightChurnSetsGain : Prop :=
  ∀ (s : State) (a : ArrId) (n c : Nat) (x : Arr) (u : Churn), n = a.val → c = n / 64 → x = s.arr n → s.coreUp c = true → x.chn.cur = some u → u.full = false →
    (∀ noise, u.live = true → ∃ t, exec (.lightChurnProbesEnd a noise) s = .next t
      ∧ (t.arr n).chn.cur = some { u with live := false, post := true, resp := (lightPair s n 0 noise).1 }
      ∧ (NoneWait s c → x.park = false → t.arr n = { x with st := if s.owes n then .churn else .ready, codes := if x.queue.isEmpty then [] else lightCodes (s.rangeK n) (s.segen n) (-(lightProbe (s.rangeK n)).2), chn := { x.chn with cur := some { u with live := false, post := true, resp := (lightPair s n 0 noise).1 } } }
        ∧ (∀ b, b ≠ n → t.arr b = s.arr b) ∧ RegsBut [Reg.ARR_CLAMP_CNT n, Reg.ARR_CLAMP_LAST n] s t ∧ SameBut (evParts ++ [.regs, .arrs]) s t))
    ∧ (u.post = true → ∃ t, exec (.lightChurnUpdate a) s = .next t ∧ t.cor n = { s.cor n with ga := (lightResult s n u).1, tl := s.temp c } ∧ (∀ b, b ≠ n → t.cor b = s.cor b)
      ∧ t.reg (Reg.CHN_LIGHT_CNT c) = s.reg (Reg.CHN_LIGHT_CNT c) + 1
      ∧ (NoneWait s c → s.owes n = false → RegsBut [Reg.CHN_LIGHT_CNT c] s t ∧ (t.arr n).chn.cur = none ∧ (t.arr n).chn.last = some s.cnt.aon
        ∧ ((lightResult s n u).2 = none → Quiet s t ∧ (t.arr n).chn.due = x.chn.due) ∧ ((lightResult s n u).2 ≠ none → Raised 0x0404 s t ∧ ∃ d ∈ (t.arr n).chn.due, d.cls = 3)
        ∧ (∀ b, b ≠ n → t.arr b = s.arr b) ∧ SameBut (evParts ++ [.regs, .arrs, .cors, .cores]) s t))

/-- A full churn runs its four units, restarts out of its window, and its fit sets every column's gain and offset (model's own: log 39). On
a running core with a full churn on the array. FULL_CHURN_UNIT_END of a unit at work, within 10 ms and 0.5 K of unit 1: the next unit is due
with the sums of 4 probes more, and after the fourth unit the churn waits for its fit; out of that window it starts again from unit 1 with
no sums, CHN_RESTART_CNT goes up by 1 and event 0x0408 is raised, as FULL_CHURN_RESTART does before the fit; inside it FULL_CHURN_RESTART
changes nothing. FULL_CHURN_FIT where nothing else waits on the core: with a reference that cannot be read the churn is abandoned with event
0x0405, an array in CHURN going to READY, or to BIAS where it owes its class 1 churn and has no reference any more, and any other keeping
its state. With the reference it ran against, while the press loads, reloads and repairs nothing: the churn is over, each column whose fit
against the values that the reference expects passes has gain 1/A and offset B, and each that fails keeps its own (R136), ga is 1.0, the
temperature the latest sample, FAILCOL the number that failed, CHN_FULL_CNT and CHN_LIGHT_CNT go up by 1, and SIGMA is as given; each
failure raises 0x0401; more than 8 failing weight columns raise 0x0405 and put the array in FAULT; with no failure an array that owed its
class 1 churn, and does not wait to park, enters READY and owes none (R141), and any other keeps its state. When the window is looked at is
DEDUCED (log entry 39). -/
def Obligations.FullChurnFitsColumns : Prop :=
  ∀ (s : State) (a : ArrId) (n c : Nat) (x : Arr) (u : Churn), n = a.val → c = n / 64 → x = s.arr n → s.coreUp c = true → x.chn.cur = some u → u.full = true →
    (∀ noise, u.live = true → u.post = false → ∃ t v, exec (.fullChurnUnitEnd a noise) s = .next t ∧ (t.arr n).chn.cur = some v ∧ v.full = true
      ∧ (outOfWindow s n u = false → v.unit = u.unit + 1 ∧ v.raws.length = u.raws.length + 4 ∧ v.raws.take u.raws.length = u.raws ∧ v.post = decide (u.unit = 3))
      ∧ (outOfWindow s n u = true → v.unit = 0 ∧ v.raws = [] ∧ v.post = false ∧ RaisedAmong 0x0408 s t ∧ t.reg (Reg.CHN_RESTART_CNT c) = satAdd (s.reg (Reg.CHN_RESTART_CNT c)) 1))
    ∧ (outOfWindow s n u = false → exec (.fullChurnRestart a) s = .next s)
    ∧ (u.post = false → outOfWindow s n u = true → ∃ t v, exec (.fullChurnRestart a) s = .next t ∧ (t.arr n).chn.cur = some v ∧ v.unit = 0 ∧ v.raws = [] ∧ Raised 0x0408 s t
      ∧ t.reg (Reg.CHN_RESTART_CNT c) = satAdd (s.reg (Reg.CHN_RESTART_CNT c)) 1 ∧ RegsBut [Reg.CHN_RESTART_CNT c] s t ∧ (∀ b, b ≠ n → t.arr b = s.arr b) ∧ SameBut (evParts ++ [.regs, .arrs]) s t)
    ∧ (u.post = true → NoneWait s c → ∀ (readable : Bool) (sigma : W32),
      ((readable = false ∨ s.refOk n = false) → (s.owes n = false ∨ s.refOk n = false) → ∃ t, exec (.fullChurnFit a readable sigma) s = .next t ∧ (t.arr n).chn.cur = none ∧ (t.arr n).st = (if x.st = .churn then (if s.owes n then .bias else .ready) else x.st)
        ∧ Raised 0x0405 s t ∧ (∀ b, b ≠ n → t.arr b = s.arr b) ∧ SameBut (evParts ++ [.arrs, .cores]) s t)
      ∧ (∀ r bad, readable = true → s.refOk n = true → Tab.find? s.refs n = some r → s.prs.load = none → s.prs.rld = none → s.prs.reps = [] →
        (∀ j, bad j = ((fits r u)[j]?).any (fitFails (s.fld (Reg.CHN_TOL c) 7 0) r.k r.seg)) →
        ∃ t, exec (.fullChurnFit a readable sigma) s = .next t ∧ (t.arr n).chn.cur = none ∧ (t.arr n).chn.lastFull = some s.cnt.aon ∧ (t.arr n).chn.fit = true
          ∧ (t.arr n).chn.failcol = ((List.range 528).filter bad).length
          ∧ (∀ j < 528, ∀ f, (fits r u)[j]? = some f →
            Tab.getD (t.cor n).gf j f32One = (if bad j then Tab.getD (s.cor n).gf j f32One else toF32 (Val.ofFr ((Fr.ofInt 1).div f.1)))
            ∧ Tab.getD (t.cor n).off j 0 = (if bad j then Tab.getD (s.cor n).off j 0 else toF32 (Val.ofFr f.2.1)))
          ∧ (t.cor n).ga = f32One ∧ (t.cor n).tl = s.temp c ∧ t.reg (Reg.CHN_FULL_CNT c) = s.reg (Reg.CHN_FULL_CNT c) + 1
          ∧ t.reg (Reg.CHN_LIGHT_CNT c) = s.reg (Reg.CHN_LIGHT_CNT c) + 1 ∧ t.reg (Reg.ARR_CHK_SIGMA n) = sigma
          ∧ ((∃ j < 528, bad j = true) → RaisedAmong 0x0401 s t)
          ∧ (8 < ((List.range 512).filter bad).length → (t.arr n).st = .fault ∧ RaisedAmong 0x0405 s t)
          ∧ ((∀ j < 528, bad j = false) → x.park = false → (t.arr n).st = (if s.owes n then .ready else x.st))))

/-- A wanted array enters PRESS, verify reads step through its row groups, and it passes to CHURN or fails; VPROG low stops every press.
While FAB runs, but for the last sentence. PRESS_ARRAY_START on an idle array of a running core that is wanted, fewer than MAXPAR in press,
neither VPROG low nor a brown-out warning, its record not worn, within its press rate if a reload wants it and no test asked of it: PRESS at
row group 0 with the place, SLOT, EPOCH and ORD wanted, its first record not yet written (unless a load has asked for it in its step 3), the
gains and offsets it had (R136), PRS_PRESS_CNT one higher. PRESS_VERIFY_READ once that record is written: with no device outside its window
the next group starts; with some, the same group goes on, and at the 12th read its columns are recorded as failed and the next group starts.
PRESS_ARRAY_END after the last group: with no failed column and no forced failure the array passes to CHURN with ARR_CFG of its manifest
entry; otherwise it is in FAULT, PRS_FAIL_CNT one higher, with event 0x0302. VPROG_LOW: no array is in press, no load is in progress,
PRS_STAT bit 16 is set, with event 0x0307 if an array was in press. Whether or not FAB runs VPROG_RECOVER clears the bit and changes nothing
else, and VPROG_LOW sets it, and does nothing else while FAB does not run. -/
def Obligations.PressingAnArray : Prop :=
  ∀ s : State, (s.up 4 = true →
    (∀ (a : ArrId) (n : Nat) (x : Arr), n = a.val → x = s.arr n →
      (∀ w : PressWant, s.coreUp (n / 64) = true → s.rst.bowarn = false → s.rbit Reg.PRS_STAT 16 = false → s.pressing < s.maxPress → s.idle n = true → x.press = none →
        x.st ≠ .fault → x.st ≠ .retired → pressWant s n = some w → s.worn n = false → (w.why = .reload → overRate s n = false) →
        ∃ t j, exec (.pressArrayStart a) s = .next t ∧ (t.arr n).st = .press ∧ (t.arr n).press = some j ∧ j.place = w.place ∧ j.slot = w.slot ∧ j.epoch = w.epoch ∧ j.ord = w.ord
          ∧ j.img = w.img ∧ ((∀ l, s.prs.load = some l → n ∉ l.begun) → j.ready = false) ∧ (∀ l, w.why = .load → s.prs.load = some l → n ∈ l.begun → j.ready = !recWaits s n) ∧ j.grp = 0 ∧ j.it = 0 ∧ j.fails = [] ∧ t.cor n = s.cor n ∧ t.reg Reg.PRS_PRESS_CNT = s.reg Reg.PRS_PRESS_CNT + 1)
      ∧ (∀ j, x.press = some j → j.ready = true →
        (∀ outs, j.grp < 4096 → ∃ t k, exec (.pressVerifyRead a outs) s = .next t ∧ (t.arr n).press = some k ∧ (∀ b, b ≠ n → t.arr b = s.arr b) ∧ SameBut [.arrs, .pcm] s t
          ∧ ((∀ e ∈ outs, 132 ≤ e.1) → k.grp = j.grp + 1 ∧ k.it = 0 ∧ k.fails = j.fails)
          ∧ ((∃ e ∈ outs, e.1 < 132) → (j.it < 11 → k.grp = j.grp ∧ k.it = j.it + 1 ∧ k.fails = j.fails) ∧ (11 ≤ j.it → k.grp = j.grp + 1 ∧ k.it = 0 ∧ k.fails ≠ [])))
        ∧ (4096 ≤ j.grp → ∃ t, exec (.pressArrayEnd a) s = .next t ∧ (t.arr n).press = none
          ∧ (j.fails = [] → j.forced = false → (t.arr n).st = .churn ∧ t.reg (Reg.ARR_CFG n) = BitVec.ofNat 32 (manAt s.mem.dram j.img j.place.ent).cfg)
          ∧ ((j.fails ≠ [] ∨ j.forced = true) → (t.arr n).st = .fault ∧ t.reg Reg.PRS_FAIL_CNT = satAdd (s.reg Reg.PRS_FAIL_CNT) 1 ∧ RaisedAmong 0x0302 s t))))
    ∧ (∃ t, exec .vprogLow s = .next t ∧ (∀ b, (t.arr b).press = none) ∧ t.prs.load = none ∧ t.rbit Reg.PRS_STAT 16 = true ∧ ((∃ b, (s.arr b).press ≠ none) → RaisedAmong 0x0307 s t)))
    ∧ (∃ t, exec .vprogRecover s = .next t ∧ t.reg Reg.PRS_STAT = s.reg Reg.PRS_STAT &&& 0xFFFEFFFF ∧ RegsBut [Reg.PRS_STAT] s t ∧ SameBut [.regs] s t)
    ∧ (s.up 4 = false → exec .vprogLow s = .next (s.orReg Reg.PRS_STAT (2 ^ 16)))

/-- An image that passes its checks is accepted, verified and committed or attached, and unloaded again (model's own: log 58). While FAB
runs, for firmware as source and no perturbation of digests armed. LOAD_PRESS with no load in progress, VPROG not low, DRAM running and
fitted, a free slot, a legal header, a signature where one is required, a legal manifest, none of its map entries valid, arrays for every
place with no shortfall, and none of those to be pressed worn when its first record is written: the load is in progress for that slot with
the next epoch, its places to be pressed waiting, in step 3 to 5. LOAD_ATTACH likewise, of an image whose digest is the stored one and that
of a committed slot that is not attached, and whose signature passes (that an attach is checked at its acceptance and no more at step 5 is
the model's choice, log entry 58): the load is in progress for that slot. LOAD_VERIFY once every array is pressed, churned and serving, no
brown-out warning stands and the store is ready: an attach, or a press whose digest and signature pass with the lists copied and which is
signed where a signature is required, is attached to its slot with the spares it took and those the slot's image held before, no load is in
progress, PRS_LOAD_STAT reports code 1 for an attach and 0 for a press with its slot, and event 0x0304 is raised. UNLOAD of a slot that no
context in use names, with no load in progress, no warning and the store ready: the slot is not attached. -/
def Obligations.LoadsAndUnloads : Prop :=
  ∀ s : State, s.up 4 = true → s.pertAt 0x98 = none →
    (∀ (attach : Bool) (off len : W64) (alloc : List Nat) (o n slot ep : Nat) (v : State) (ps : List Place) (todo : List (Place × Nat)) (used : List Nat) (pools : List (List Nat)),
      o = off.toNat → n = len.toNat → s.prs.load = none → s.rbit Reg.PRS_STAT 16 = false → s.dramBytes ≠ 0 → s.up 5 = true → imgHeaderOk s o n = true → (s.fus.sigreq = true → imgSigned s o = true) → manifestOk s o = true →
      (attach = false → freeSlot s = some slot ∧ entryTaken s o none = false) →
      (attach = true → slotOfDigest s (imgDigest s o) = some slot ∧ entryTaken s o (some slot) = false ∧ imgDigest s o = storedDigest s o ∧ (∀ x, Tab.find? s.prs.images slot = some x → x.att = false) ∧ signatureOk s o = true) →
      v = (if attach then { s with prs := { s.prs with images := Tab.erase s.prs.images slot } } else s) →
      (∀ c < 32, shortOf v o (if attach then some slot else none) c = 0) → ep = (if attach then s.slotEpoch slot else nextEpoch s) →
      allocFixed v o (if attach then some slot else none) alloc 0 (imgPlaces s.mem.dram o) [] = some (ps, todo, used) → allocPools v o alloc 32 used = some pools →
      (∀ x p y, todo = x ++ p :: y → (x.foldl (fun z q => firstRecord q.1.arr ⟨.load, q.1, slot, ep, q.2, o⟩ z) s).worn p.1.arr = false) →
      ∃ t l, exec (if attach then .loadAttach .fw off len alloc else .loadPress .fw off len alloc) s = .next t ∧ t.prs.load = some l ∧ l.src = .fw ∧ l.attach = attach ∧ l.slot = slot
        ∧ l.epoch = ep ∧ l.img.off = o ∧ l.todo = todo ∧ l.begun = todo.map (fun p => p.1.arr) ∧ 3 ≤ loadStep t ∧ loadStep t ≤ 5)
    ∧ (∀ (l : LoadJob) (u : State), s.prs.load = some l → loadReady s l = true → s.rst.bowarn = false → s.nvs.ready = true → u = copyAllLists l.img.off s →
      (l.attach = false → imgDigest u l.img.off = storedDigest u l.img.off ∧ signatureOk u l.img.off = true ∧ (u.fus.sigreq = true → imgSigned u l.img.off = true)) → l.src = .fw →
      ∃ t, exec .loadVerify s = .next t ∧ t.prs.load = none ∧ Tab.find? t.prs.images l.slot = some { l.img with borrow := addTab (sparesBefore l s) l.img.borrow } ∧ RaisedAmong 0x0304 s t
        ∧ t.reg Reg.PRS_LOAD_STAT = BitVec.ofNat 32 ((if l.attach then 256 else 0) + 2 ^ 12 * l.slot + 2 ^ 31))
    ∧ (∀ slot : Fin 4, s.prs.load = none → slotInUse s slot.val = false → s.rst.bowarn = false → s.nvs.ready = true →
      ∃ t, exec (.unload .fw slot) s = .next t ∧ Tab.find? t.prs.images slot.val = none)

/-- Reload requests queue, the first one starts on its pool arrays, rates expire, and SPARES changes the reserves while no image stands
(model's own: log 57, 149). By a requester that reaches the register. A write of PRS_CFG: its value under its access masks, but SPARES (bits
10 to 8) as before while a slot is committed or a load in progress. Then, or when SPARES is the same, no other register changes. Otherwise
every core's reserve is the smallest of SPARES, 4 and its free arrays (that a write changes the reserve at once is DEDUCED, log entry 57),
TST_HEALTH.SPARES0 says whether some reserve is 0, and only PRS_CFG, PRS_RESV and TST_HEALTH, the spares that could not be set aside (log
entry 149) and the events change. PRS_RLD_REQ with GO for a reloadable layer of an attached committed image that is not resident: the
request stands last in the queue unless it stands there already; for one that is resident nothing changes; for any other layer event 0x0306
is raised. While FAB runs and VPROG is not low: RELOAD_START with no reload at work and a first request for a layer not resident, whose pool
arrays are within their press rate and cap and idle: that layer's reload is at work with its places to be pressed. RELOAD_RATE_EXPIRY: each
pool array's history keeps only its presses of the last 3,600 s, and the first request is tried again as RELOAD_START does that brings no
array for a worn one; with no request waiting nothing else changes. -/
def Obligations.ReloadsAndPressRegisters : Prop :=
  ∀ s : State,
    (∀ who v r, reaches s who Reg.PRS_CFG = true → regRow Reg.PRS_CFG = some r → ∃ t, exec (.prsCfgWrite who v) s = .next t
      ∧ (∀ b < 32, t.rbit Reg.PRS_CFG b = (if (s.anySlot || s.prs.load.isSome) ∧ 8 ≤ b ∧ b ≤ 10 then s.rbit Reg.PRS_CFG b else bit (maskWrite r s.sec.lock (s.reg Reg.PRS_CFG) v) b))
      ∧ (if (s.anySlot || s.prs.load.isSome) = true ∨ bits v 10 8 = s.fld Reg.PRS_CFG 10 8 then RegsBut [Reg.PRS_CFG] s t ∧ SameBut [.regs] s t
        else (∀ c < 32, t.reserve c = min (min 4 (bits v 10 8)) (s.freeCount c)) ∧ t.rbit Reg.TST_HEALTH 0 = (List.range 32).any (fun c => t.reserve c == 0)
          ∧ RegsBut (Reg.PRS_CFG :: Reg.TST_HEALTH :: (List.range 4).map Reg.PRS_RESV) s t ∧ SameBut (.regs :: .prs :: evParts) s t))
    ∧ (∀ who v, reaches s who Reg.PRS_RLD_REQ = true → bit v 31 = true →
      (reloadable s (bits v 13 12) (bits v 11 0) = none → ∃ t, exec (.prsRldReq who v) s = .next t ∧ Raised 0x0306 s t ∧ SameBut evParts s t)
      ∧ (∀ x e, reloadable s (bits v 13 12) (bits v 11 0) = some (x, e) → (e ∈ x.res → exec (.prsRldReq who v) s = .next s)
        ∧ (e ∉ x.res → exec (.prsRldReq who v) s = .next { s with reqs := if (bits v 13 12, bits v 11 0) ∈ s.reqs then s.reqs else s.reqs ++ [(bits v 13 12, bits v 11 0)] })))
    ∧ (s.up 4 = true → s.rbit Reg.PRS_STAT 16 = false →
      (∀ alloc slot layer rest x e, s.reqs = (slot, layer) :: rest → s.prs.rld = none → reloadable s slot layer = some (x, e) → e ∉ x.res →
        (∀ b ∈ layerArrs x e, overRate s b = false ∧ pCOUNT (recAt s.nvsView b) < rldCap s ∧ s.idle b = true) →
        ∃ t r, exec (.reloadStart alloc) s = .next t ∧ t.prs.rld = some r ∧ r.slot = slot ∧ r.ent = e ∧ r.todo = x.places.filter (fun p => p.ent == e) ∧ r.begun = [] ∧ t.reqs = s.reqs)
      ∧ ((s.prs.hist.map Prod.fst).Nodup → ∃ h, (∀ b, Tab.getD h b [] = (Tab.getD s.prs.hist b []).filter (fun v => decide (s.since v < 3600000000)))
        ∧ exec .reloadRateExpiry s = exec (.reloadStart []) { s with prs := { s.prs with hist := h } }
        ∧ (s.reqs = [] → exec .reloadRateExpiry s = .next { s with prs := { s.prs with hist := h } })))

/-- Arrivals take the next number and a deadline, deadlines close numbers as gaps, and results leave in order through the output ring. With
the twin pair disabled. STREAM_ARRIVE on a bound stream, by a requester that reaches its register: the stream's unresolved numbers gain
NEXT, open, not taken, with a deadline DL (at least 50 µs) from now but not before that of the previous arrival, and NEXT goes up by 1; an
input that the stream has open is discarded, counted in INT_RING_DROP with event 0x0D84. GATE_DEADLINE with the lowest unresolved number
open, its deadline come, and the one above it not resolved: that number leaves the unresolved ones and SEQ_STRM_GAPS goes up by 1; where no
record waits, its entry is free and the tank has no ECC error, the 32 bytes of its output entry are its gap record, and no record waits.
OUTPUT_ENTRY_WRITE with one record waiting, not for the peer, its entry free and inside the tank: no record waits and its header stands in
its entry. INT_OUT_TAIL_WRITE by a requester that reaches it: the register holds the value, and with no record waiting no other register and
no memory changes. STREAM_UNBIND of a bound stream with EN 0: it is not bound, no number is unresolved, every context that waits for it in
TAKE or JOIN traps, and event 0x0C07 is raised. -/
def Obligations.StreamsAndTheGate : Prop :=
  ∀ (s : State) (q : StreamId) (st : Nat) (x : Strm), st = q.val → x = s.strm st → s.rbit Reg.HLK_PAIR_CFG 0 = false →
    (∀ who, reaches s who (Reg.SEQ_STRM_ARRIVE st) = true → s.bound st = true → ∀ d : W64,
      d = (match x.lastDl with
        | none => s.cnt.gate + BitVec.ofNat 64 (100 * max 50 (s.fld (Reg.SEQ_STRM_DL st) 19 0))
        | some e => if e.toNat ≤ (s.cnt.gate + BitVec.ofNat 64 (100 * max 50 (s.fld (Reg.SEQ_STRM_DL st) 19 0))).toNat then s.cnt.gate + BitVec.ofNat 64 (100 * max 50 (s.fld (Reg.SEQ_STRM_DL st) 19 0)) else e) →
      ∃ t, exec (.streamArrive who q) s = .next t ∧ t.strm st = { x with seqs := x.seqs ++ [⟨s.next st, d, false, false, .opened⟩], lastDl := some d, inp := none }
        ∧ t.next st = s.next st + 1 ∧ (∀ p, p ≠ st → t.strm p = s.strm p)
        ∧ (x.inp = none → RegsBut [Reg.SEQ_STRM_NEXT st] s t ∧ SameBut [.regs, .strms] s t)
        ∧ (x.inp ≠ none → t.reg (Reg.INT_RING_DROP st) = satAdd (s.reg (Reg.INT_RING_DROP st)) 1 ∧ Raised 0x0D84 s t
          ∧ RegsBut [Reg.SEQ_STRM_NEXT st, Reg.INT_RING_DROP st] s t ∧ SameBut (evParts ++ [.regs, .strms]) s t))
    ∧ (∀ r rest, x.seqs = r :: rest → r.st = .opened → r.deadline.toNat ≤ s.cnt.gate.toNat → (∀ y ∈ rest, y.seq ≠ r.seq) → (∀ y, rest.head? = some y → y.st = .opened) →
      ∃ t, exec (.gateDeadline q) s = .next t ∧ (t.strm st).seqs = rest ∧ t.reg (Reg.SEQ_STRM_GAPS st) = satAdd (s.reg (Reg.SEQ_STRM_GAPS st)) 1
        ∧ (x.outq = [] → s.outFree st r.seq = true → s.mem.tank.ecc = [] → s.outEntry st r.seq + 32 ≤ 2 ^ 27 → (t.strm st).outq = []
          ∧ (∀ b < 32, t.mem.tank.byte (s.outEntry st r.seq + b) = (gapHeader r 1 (lateUs s.cnt.gate r.deadline) s.cnt.gate).getD b 0)
          ∧ (∀ b, ¬(s.outEntry st r.seq ≤ b ∧ b < s.outEntry st r.seq + 32) → t.mem.tank.byte b = s.mem.tank.byte b)))
    ∧ (∀ o, x.outq = [o] → o.mirror = none → s.outFree st o.seq = true → s.mem.tank.ecc = [] → s.outEntry st o.seq + o.header.length ≤ 2 ^ 27 →
      ∃ t, exec (.outputEntryWrite q) s = .next t ∧ (t.strm st).outq = [] ∧ (∀ b < o.header.length, t.mem.tank.byte (s.outEntry st o.seq + b) = o.header.getD b 0)
        ∧ (∀ b, ¬(s.outEntry st o.seq ≤ b ∧ b < s.outEntry st o.seq + o.header.length) → t.mem.tank.byte b = s.mem.tank.byte b) ∧ SameBut [.strms, .tank, .ev] s t)
    ∧ (∀ who v, reaches s who (Reg.INT_OUT_TAIL st) = true → ∃ t, exec (.intOutTailWrite who q v) s = .next t ∧ t.reg (Reg.INT_OUT_TAIL st) = v
      ∧ (x.outq = [] → RegsBut [Reg.INT_OUT_TAIL st] s t ∧ (∀ p, t.strm p = s.strm p) ∧ SameBut [.regs, .strms] s t))
    ∧ (∀ who v, reaches s who (Reg.SEQ_STRM_CFG st) = true → s.bound st = true → bit v 0 = false →
      ∃ t, exec (.streamUnbind who q v) s = .next t ∧ t.bound st = false ∧ (t.strm st).seqs = [] ∧ RaisedAmong 0x0C07 s t
        ∧ ∀ i, (∃ rn, (s.ctx i).hold = .take st rn) ∨ (∃ n rr, (s.ctx i).hold = .join st n rr) → (t.ctx i).st = .trap ∧ (t.ctx i).cause = 9 ∧ (t.ctx i).hold = .free)

/-- Intake records are checked, CSI-2 frames and Ethernet packets fill an open input, and its close is an arrival. INTAKE_RECORD_ENABLE, by
a requester that reaches the record: on a record that is off, a legal one comes on and an illegal one stays off with INT_ERR bit 0 and event
0x0D85; a record that is on goes off with EN 0. On a running port of FAB with one record for the frame: CSI_FRAME_START without an open
input opens one under NEXT where the stream is bound, has no input open and its entry is free, and otherwise counts it in INT_RING_DROP with
event 0x0D84. CSI_LONG_PACKET with a bad header counts in INT_ERR_CNT and changes nothing else; for the open input of its record it adds a
line. ETH_FRAME for no record counts in INT_ERR_CNT; with an open input and packets still to come it adds the payload from PAYOFF.
CSI_FRAME_END with an open input, the packet that reaches NPKT, and INTAKE_TIMEOUT close it: where the stream is bound, NEXT has not moved
and the pair is off, its unresolved numbers gain one open number and NEXT goes up by 1, and no input is open. INTAKE_LOCK_CHANGE writes the
port's bit of INT_PSTAT. -/
def Obligations.IntakeOpensAndClosesInputs : Prop :=
  ∀ s : State, (∀ (who : Who) (i : Fin 64) (v : W32), reaches s who (Reg.IREC i 0) = true →
      ((s.irecOf i).en = true → bit v 7 = false → ∃ t, exec (.intakeRecordEnable who i v) s = .next t ∧ t.rbit (Reg.IREC i 0) 7 = false ∧ RegsBut [Reg.IREC i 0] s t ∧ SameBut [.regs, .strms] s t)
      ∧ (∀ u, (s.irecOf i).en = false → bit v 7 = true → u = s.setReg (Reg.IREC i 0) (v &&& 0x3FFF0F07) → ∀ ok, ok = (irecOk u i && (v &&& 0xC000F078) == 0) →
        ∃ t, exec (.intakeRecordEnable who i v) s = .next t ∧ t.rbit (Reg.IREC i 0) 7 = ok ∧ (ok = true → RegsBut [Reg.IREC i 0] s t ∧ SameBut [.regs] s t)
          ∧ (ok = false → t.rbit Reg.INT_ERR 0 = true ∧ Raised 0x0D85 s t ∧ RegsBut [Reg.IREC i 0, Reg.INT_ERR] s t)))
    ∧ (∀ (port : Fin 4) (vc : Fin 16) (i : Nat) (r : IRec), s.portOn port = true → s.csiRecs port vc = [i] → r = s.irecOf i →
      (s.inputOf i = none → (openNo s r.st = none → ∃ t, exec (.csiFrameStart port vc) s = .next t ∧ (t.strm r.st).inp = some ⟨i, s.next r.st, [], 0, 0, 0, s.portCount r.port, s.portCount r.port, []⟩ ∧ SameBut [.strms, .eng] s t)
        ∧ (openNo s r.st ≠ none → ∃ t, exec (.csiFrameStart port vc) s = .next t ∧ t.reg (Reg.INT_RING_DROP r.st) = satAdd (s.reg (Reg.INT_RING_DROP r.st)) 1 ∧ Raised 0x0D84 s t
          ∧ RegsBut [Reg.INT_RING_DROP r.st] s t ∧ SameBut (evParts ++ [.regs, .eng]) s t))
      ∧ (∀ dt data crcOk, ∃ t, exec (.csiLongPacket port vc dt data false crcOk) s = .next t ∧ t.reg Reg.INT_ERR_CNT = satAdd (s.reg Reg.INT_ERR_CNT) 1 ∧ RegsBut [Reg.INT_ERR_CNT] s t ∧ SameBut [.regs] s t)
      ∧ (∀ x, s.inputOf i = some x → (∀ dt data crcOk, r.dt = dt.toNat → ∃ t y, exec (.csiLongPacket port vc dt data true crcOk) s = .next t ∧ (t.strm r.st).inp = some y ∧ y.rcd = i ∧ y.seq = x.seq
          ∧ y.units = x.units + 1 ∧ y.raw.length = (if r.inH ≤ x.raw.length then x.raw.length else x.raw.length + 1) ∧ SameBut [.strms] s t)
        ∧ (s.rbit Reg.HLK_PAIR_CFG 0 = false → s.bound r.st = true → s.next r.st = x.seq → ∃ t, exec (.csiFrameEnd port vc) s = .next t ∧ (t.strm r.st).inp = none ∧ t.next r.st = x.seq + 1
          ∧ ∃ y, (t.strm r.st).seqs = (s.strm r.st).seqs ++ [y] ∧ y.seq = x.seq ∧ y.st = .opened)))
    ∧ (∀ (port : Fin 2) (f : EthFrame), s.portOn (4 + port.val) = true →
      ((f.good = false ∨ macTakes s port f.dst = false) → ∃ t, exec (.ethFrame port f) s = .next t ∧ t.reg Reg.INT_ERR_CNT = satAdd (s.reg Reg.INT_ERR_CNT) 1 ∧ RegsBut [Reg.INT_ERR_CNT] s t ∧ SameBut [.regs] s t)
      ∧ (∀ i r x, f.good = true → macTakes s port f.dst = true → (List.range 64).find? (fun i => (s.irecOf i).en && (s.irecOf i).port == 4 + port.val && (s.irecOf i).udp == f.udpPort.toNat) = some i →
        r = s.irecOf i → Tab.getD s.eng.skip i 0 = 0 → s.inputOf i = some x →
        (x.units + 1 < r.npkt → ∃ t y, exec (.ethFrame port f) s = .next t ∧ (t.strm r.st).inp = some y ∧ y.units = x.units + 1 ∧ y.data = x.data ++ f.payload.drop r.payoff ∧ SameBut [.strms] s t)
        ∧ (r.npkt ≤ x.units + 1 → s.rbit Reg.HLK_PAIR_CFG 0 = false → s.bound r.st = true → s.next r.st = x.seq → ∃ t, exec (.ethFrame port f) s = .next t ∧ (t.strm r.st).inp = none
          ∧ t.next r.st = x.seq + 1 ∧ ∃ y, (t.strm r.st).seqs = (s.strm r.st).seqs ++ [y] ∧ y.seq = x.seq ∧ y.st = .opened)))
    ∧ (∀ (i : Fin 64) (r : IRec) (x : OpenIn), s.up 4 = true → r = s.irecOf i → r.en = true → 4 ≤ r.port → r.tmo ≠ 0 → s.inputOf i = some x → s.rbit Reg.HLK_PAIR_CFG 0 = false → s.bound r.st = true →
      s.next r.st = x.seq → ∃ t, exec (.intakeTimeout i) s = .next t ∧ (t.strm r.st).inp = none ∧ t.next r.st = x.seq + 1 ∧ ∃ y, (t.strm r.st).seqs = (s.strm r.st).seqs ++ [y] ∧ y.seq = x.seq ∧ y.st = .opened)
    ∧ (∀ (port : Fin 6) (on : Bool), s.up 4 = true → ∃ t, exec (.intakeLockChange port on) s = .next t ∧ t.rbit Reg.INT_PSTAT port.val = on
      ∧ (∀ b < 32, b ≠ port.val → t.rbit Reg.INT_PSTAT b = s.rbit Reg.INT_PSTAT b) ∧ RegsBut [Reg.INT_PSTAT] s t ∧ SameBut [.regs] s t)

/-- DMA_GO starts a firmware copy or sets ERR, and the scrubbers correct the next line without changing a byte (model's own: log 53). DMA_GO
by a requester that reaches DMA_CTL, with GO, on a channel without a copy: where both ranges lie inside their spaces the channel has a copy
with the source, destination and length of its registers and the counter that SIG names, and BUSY is set; otherwise ERR is set and no copy
starts. With a copy on the channel none is started and the copy is as before. While FAB runs: SCRUB_TICK with TINT not 0 moves the tank's
and the buffers' next line on, and DRAM_PATROL_TICK, with DRAM running and fitted and DINT not 0, the DRAM's; no byte of the tank, a core
buffer or the DRAM changes, and the 64 bytes of the tank line, or of the DRAM line, hold no correctable ECC error afterwards. What GO
captures, and that it sets ERR without a copy, are the model's choices (log entry 53). -/
def Obligations.DmaAndScrubbing : Prop :=
  ∀ s : State, (∀ (who : Who) (ch : Fin 3) (v : W32) (u : State) (sa da : W64) (n : Nat), reaches s who (Reg.DMA_CTL ch) = true → bit v 0 = true → u = s.putMasked (Reg.DMA_CTL ch) v →
      sa = BitVec.ofNat 64 (s.reg64 (Reg.DMA_SRC ch)) → da = BitVec.ofNat 64 (s.reg64 (Reg.DMA_DST ch)) → n = (s.reg (Reg.DMA_LEN ch)).toNat →
      (Tab.find? s.eng.dma ch.val = none → dmaBad s sa n = false → dmaBad s da n = false → ∃ t, exec (.dmaGo who ch v) s = .next t
        ∧ Tab.find? t.eng.dma ch.val = some ⟨sa, da, n, if u.rbit (Reg.DMA_CTL ch) 31 then some (u.fld (Reg.DMA_CTL ch) 30 16) else none, none⟩
        ∧ t.reg (Reg.DMA_STAT ch) = s.reg (Reg.DMA_STAT ch) ||| 1 ∧ RegsBut [Reg.DMA_CTL ch, Reg.DMA_STAT ch] s t ∧ SameBut [.regs, .eng] s t)
      ∧ (Tab.find? s.eng.dma ch.val = none → (dmaBad s sa n = true ∨ dmaBad s da n = true) → ∃ t, exec (.dmaGo who ch v) s = .next t
        ∧ t.reg (Reg.DMA_STAT ch) = s.reg (Reg.DMA_STAT ch) ||| 2 ∧ RegsBut [Reg.DMA_CTL ch, Reg.DMA_STAT ch] s t ∧ SameBut [.regs] s t)
      ∧ (Tab.find? s.eng.dma ch.val ≠ none → exec (.dmaGo who ch v) s = .next u))
    ∧ (s.up 4 = true → s.fld Reg.TNK_SCRUB 15 0 ≠ 0 → ∃ t, exec .scrubTick s = .next t ∧ t.eng = { s.eng with scrub := (s.eng.scrub + 1) % 2097152, scrubC := (s.eng.scrubC + 1) % 32768 }
      ∧ t.mem.tank.cells = s.mem.tank.cells ∧ t.mem.cbuf.cells = s.mem.cbuf.cells ∧ t.mem.dram = s.mem.dram ∧ (∀ e ∈ t.mem.tank.ecc, overlap (8 * e.1) 8 (64 * s.eng.scrub) 64 = true → e.2 = true)
      ∧ SameBut (evParts ++ [.regs, .eng, .tank, .cbuf]) s t)
    ∧ (s.up 4 = true → s.up 5 = true → s.fld Reg.TNK_SCRUB 31 16 ≠ 0 → 64 ≤ s.dramBytes → ∃ t, exec .dramPatrolTick s = .next t
      ∧ t.eng = { s.eng with patrol := (s.eng.patrol + 1) % (s.dramBytes / 64) } ∧ t.mem.dram.cells = s.mem.dram.cells ∧ t.mem.tank = s.mem.tank ∧ t.mem.cbuf = s.mem.cbuf
      ∧ (∀ e ∈ t.mem.dram.ecc, overlap (8 * e.1) 8 (64 * s.eng.patrol) 64 = true → e.2 = true) ∧ SameBut (evParts ++ [.regs, .eng, .dram]) s t)

/-- Tests run in units on idle arrays, are judged, retested and fault; the sweep names its next array; health clears; perturbations arm only
when open (log 54). MR_UNIT_START where a unit may start (idle, READY, programmed, no churn waiting, no other of its core under test): the
next unit of a test in progress, or unit 1 of one that is asked for or that the sweep has due, runs and the array is in TEST. MR_UNIT_END
with a unit running: it counts as done with its six vectors (not where the test began again meanwhile), none runs; where nothing waits on
the core and no PARK is asked the array is READY, or in CHURN where it owes a class 1 churn that cannot start yet, and beyond the read of
the shadow image only counting clamps changes more. MR_TEST_EXPIRY before unit 8, 10 s on: no unit is done. MR_TEST_COMPLETE after unit 8:
with a shadow image that cannot be read, for an uncorrectable group or as the command says, it ends; with a readable one a test that passes
ends, SIGMA is the new one, TST_MR_CNT is one higher and the state stays; one that fails for the first time with room for its columns starts
a retest with event 0x0D06; a retest that fails with nothing queued on the array puts it in FAULT with event 0x0D03. MR_SWEEP_DUE with EN
and none due: the array at or after NEXT (from 0 in a new sweep, a period after the last) that the sweep tests is due and NEXT names it.
MR_SWEEP_LATE with arrays left 1.5 periods on: LATE is 1, event 0x0D07. TST_HEALTH_CLEAR by a requester that reaches it: of the bits written
1, bits 1 to 5 clear and no other bit changes. A perturbation write that reaches its register: without OPEN nothing changes; with it ARM
arms with event 0x0D09, and ARM 0 disarms. DISARM leaves none armed. That a unit running at the expiry counts no more, and the sweep's order
and counts, are the model's choices (log entry 54). -/
def Obligations.TheMilkingRound : Prop :=
  ∀ s : State,
    (∀ (a : ArrId) (n : Nat) (x : Arr), n = a.val → x = s.arr n →
      (∀ m : MrTest, s.unitOk n = true → ((x.test = some m ∧ m.unit < 8) ∨ (x.test = none ∧ m = ⟨0, false, false, 0, false, []⟩ ∧ (s.wanted n = true
          ∨ (s.rbit Reg.TST_MR_CFG 0 = true ∧ s.mr.due = some n ∧ ∀ l < 64, s.wanted (n / 64 * 64 + l) = false)))) →
        ∃ t, exec (.mrUnitStart a) s = .next t ∧ (t.arr n).st = .test ∧ (t.arr n).test = some { m with live := true, startAt := if m.unit = 0 then s.cnt.aon else m.startAt }
          ∧ (∀ b, b ≠ n → t.arr b = s.arr b) ∧ SameBut [.arrs, .mr, .cores] s t)
      ∧ (∀ (m k : MrTest) (noise : List (Nat × Int)) (rs : List Run), s.coreUp (n / 64) = true → x.test = some m → m.live = true → rs = (unitRuns n m.unit noise s).1 →
        k = (if m.stale then { m with live := false, stale := false } else { m with unit := m.unit + 1, live := false, runs := m.runs ++ rs }) →
        ∃ t, exec (.mrUnitEnd ⟨a, noise⟩) s = .next t ∧ (t.arr n).test = some k
          ∧ (NoneWait s (n / 64) → x.park = false → (s.owes n = true → x.chn.cur ≠ none ∨ s.maxChurn (n / 64) ≤ s.churning (n / 64)) → t.arr n = { x with st := if s.owes n then .churn else .ready, codes := if x.queue.isEmpty then [] else ((rs.getLast?.map (fun r => r.inp)).getD []).map (rowCode 2 1), test := some k }
            ∧ (∀ b, b ≠ n → t.arr b = s.arr b) ∧ RegsBut [Reg.ARR_CLAMP_CNT n, Reg.ARR_CLAMP_LAST n] (s.readShadow n) t ∧ SameBut (evParts ++ [.regs, .arrs]) (s.readShadow n) t))
      ∧ (∀ m : MrTest, s.coreUp (n / 64) = true → x.test = some m → m.unit < 8 → 10000000 ≤ s.since m.startAt →
        exec (.mrTestExpiry a) s = .next (s.setArr n { x with test := some { m with unit := 0, startAt := s.cnt.aon, stale := m.live, runs := [] } }))
      ∧ (∀ (m : MrTest) (r : TestOutcome), s.coreUp (n / 64) = true → x.test = some m → 8 ≤ m.unit → (r.readable = false ∨ s.shadowOk n = false) → ∃ t, exec (.mrTestComplete a r) s = .next t ∧ (t.arr n).test = none ∧ (t.arr n).st = x.st)
      ∧ (∀ (m : MrTest) (r : TestOutcome) (v : Verdict) (u : State), s.coreUp (n / 64) = true → x.test = some m → 8 ≤ m.unit → r.readable = true → s.shadowOk n = true → v = (judge n m.runs (s.readShadow n)).1 →
        u = ((r.residues.foldl (fun u k => u.residue n k.val) (judge n m.runs (s.readShadow n)).2).incWrap Reg.TST_MR_CNT 1).setReg (Reg.ARR_CHK_SIGMA n) r.sigma →
        ∃ t, exec (.mrTestComplete a r) s = .next t
          ∧ (testFails v r = false → (t.arr n).test = none ∧ (t.arr n).st = x.st ∧ t.reg (Reg.ARR_CHK_SIGMA n) = r.sigma ∧ t.reg Reg.TST_MR_CNT = s.reg Reg.TST_MR_CNT + 1)
          ∧ (testFails v r = true → RaisedAmong 0x0D06 s t)
          ∧ (testFails v r = true → m.retest = false → (testFailed n v u).2 = false → ∃ k, (t.arr n).test = some k ∧ k.retest = true ∧ k.unit = 0)
          ∧ (testFails v r = true → m.retest = true → x.cur = none → x.retry = none → x.queue = [] → (t.arr n).st = .fault ∧ RaisedAmong 0x0D03 s t)))
    ∧ (s.up 4 = true → s.rbit Reg.TST_MR_CFG 0 = true →
      (s.mr.due = none → (s.mr.left = 0 → s.mr.sweeps = 0 ∨ 1000000 * max 1 (s.fld Reg.TST_MR_PER 15 0) ≤ s.since s.mr.since) → ∀ b, sweepFrom s (if s.mr.left = 0 then 0 else s.fld Reg.TST_MR_STAT 10 0) = some b →
        ∃ t, exec .mrSweepDue s = .next t ∧ t.mr.due = some b ∧ t.fld Reg.TST_MR_STAT 10 0 = b ∧ RegsBut [Reg.TST_MR_STAT] s t ∧ SameBut [.regs, .mr] s t)
      ∧ (s.rbit Reg.TST_MR_STAT 16 = false → 0 < s.mr.left → 3 * (1000000 * max 1 (s.fld Reg.TST_MR_PER 15 0)) ≤ 2 * s.since s.mr.since → ∃ t, exec .mrSweepLate s = .next t ∧ t.rbit Reg.TST_MR_STAT 16 = true ∧ Raised 0x0D07 s t ∧ RegsBut [Reg.TST_MR_STAT] s t))
    ∧ (∀ who v, reaches s who Reg.TST_HEALTH = true → exec (.tstHealthClear who v) s = .next (s.setReg Reg.TST_HEALTH (s.reg Reg.TST_HEALTH &&& ~~~(v &&& 0x3E))))
    ∧ (∀ (who : Who) (v : W32) (j : Instr) (off : Nat), ((j = .tstHop who v ∧ off = 0x84) ∨ (j = .tstBp who v ∧ off = 0x88) ∨ (j = .tstFsat who v ∧ off = 0x8C) ∨ (j = .tstCinv who v ∧ off = 0x90)
        ∨ (j = .tstNvse who v ∧ off = 0x94) ∨ (j = .tstDigc who v ∧ off = 0x98) ∨ (j = .tstPrsf who v ∧ off = 0x9C)) → reaches s who (Reg.TST_MR_CFG + off) = true →
      (s.pertOpen = false → exec j s = .next s)
      ∧ (s.pertOpen = true → ∃ t, exec j s = .next t ∧ (∀ o, o ≠ off → t.pertAt o = s.pertAt o)
        ∧ (bit v 31 = true → t.pertAt off = some ⟨v, pertUses off v⟩ ∧ RaisedAmong 0x0D09 s t) ∧ (bit v 31 = false → t.pertAt off = none)))
    ∧ (∀ who, reaches s who Reg.TST_CLR = true → ∃ t, exec (.disarm who) s = .next t ∧ t.pert = [])

/-- PEN starts and ends a port's bring-up, identities decide UP or REFUSED, and unacknowledged frames are replayed until the port fails
(model's own: log 76). PORT_ENABLE by a requester that reaches HLK_CTL: a port whose PEN changes has an empty replay buffer, the next LSEQ
0, and STATE training (1) when PEN is now 1, down (0) when it is 0, with the rest of its HLK_PSTAT 0; every other port and register is as
before. For HLK running. PORT_TRAIN_TIMEOUT of a training port: HLK_PERR bit 1 is set, with event 0x0501 unless a bring-up failed before
since PEN was set. IDENTITY_EXCHANGE of a training port: STATE is refused (3) with HLK_PERR bit 0 and event 0x0501 where the far end is
refused, else up (2), and the far id is in HLK_PSTAT. On a port that is up: LINK_ACK leaves the frames whose LSEQ follows the acknowledged
one, of a run cut by it those after it, and changes nothing else. REPLAY_REQUEST with every frame from the LSEQ on within its replays and
time: each counts one replay more, HLK_REPLAY_CNT counts them and no frame leaves the buffer; with one beyond them, and at REPLAY_EXHAUSTED
of a frame in the buffer, the port is failed (4) with an empty buffer and event 0x0502. FRAME_CRC_FAIL sends a request to replay from the
next LSEQ to receive and changes nothing else. That frames are held as runs, that an acknowledgement cuts a run, and that replays count per
run, are the model's own (log entry 76, PRESUMED and DEDUCED). -/
def Obligations.LinkPorts : Prop :=
  ∀ s : State,
    (∀ who v, reaches s who Reg.HLK_CTL = true → ∃ t, exec (.portEnable who v) s = .next t ∧ RegsBut (Reg.HLK_CTL :: (List.range 8).map Reg.HLK_PSTAT) s t ∧ SameBut [.regs, .link] s t
      ∧ (∀ p < 8, (s.rbit Reg.HLK_CTL p = bit v p → t.port p = s.port p ∧ t.reg (Reg.HLK_PSTAT p) = s.reg (Reg.HLK_PSTAT p))
        ∧ (s.rbit Reg.HLK_CTL p ≠ bit v p → t.port p = .idle ∧ t.reg (Reg.HLK_PSTAT p) = if bit v p then 1 else 0)))
    ∧ (∀ (q : Fin 8) (p : Nat), p = q.val → s.up 7 = true →
      (s.portSt p = 1 → (∃ t, exec (.portTrainTimeout q) s = .next t ∧ t.reg (Reg.HLK_PERR p) = s.reg (Reg.HLK_PERR p) ||| 2 ∧ RegsBut [Reg.HLK_PERR p] s t ∧ (t.port p).late = true
            ∧ ((s.port p).late = false → Raised 0x0501 s t) ∧ ((s.port p).late = true → Quiet s t))
        ∧ (∀ (far : BitVec 10) (part : BitVec 16) (en : Bool), ∃ t, exec (.identityExchange q far part en) s = .next t ∧ t.fld (Reg.HLK_PSTAT p) 13 4 = far.toNat
          ∧ (identityBad s p far.toNat part.toNat en = true → t.portSt p = 3 ∧ t.rbit (Reg.HLK_PERR p) 0 = true ∧ Raised 0x0501 s t ∧ RegsBut [Reg.HLK_PSTAT p, Reg.HLK_PERR p] s t)
          ∧ (identityBad s p far.toNat part.toNat en = false → t.portSt p = 2 ∧ RegsBut [Reg.HLK_PSTAT p] s t ∧ SameBut [.regs] s t)))
      ∧ (∀ (x : LinkPort) (n : W32), s.portSt p = 2 → x = s.port p →
        (∃ t, exec (.linkAck q n) s = .next t ∧ t.port p = { x with buf := x.buf.filterMap (fun f => if follows f.lseq n then some f else if f.cnt ≤ (n - f.lseq).toNat + 1 then none else some { f with lseq := n + 1, cnt := f.cnt - ((n - f.lseq).toNat + 1) }) }
            ∧ (∀ o, o ≠ p → t.port o = s.port o) ∧ SameBut [.link] s t)
        ∧ ∀ l, l = x.buf.flatMap (TxFrame.cut n) → ((∀ f ∈ l, (f.lseq = n ∨ follows f.lseq n = true) → replayOk s f = true) → ∃ t, exec (.replayRequest q n) s = .next t ∧ (t.port p).tx = x.tx
          ∧ (t.port p).buf = l.map (fun f => if f.lseq == n || follows f.lseq n then { f with n := f.n + 1 } else f)
          ∧ t.reg Reg.HLK_REPLAY_CNT = satAdd (s.reg Reg.HLK_REPLAY_CNT) (((l.filter (fun f => f.lseq == n || follows f.lseq n)).map (fun f => f.cnt)).foldl (fun a b => a + b) 0) ∧ RegsBut [Reg.HLK_REPLAY_CNT] s t ∧ SameBut [.regs, .link] s t)
        ∧ ((∃ f ∈ l, (f.lseq = n ∨ follows f.lseq n = true) ∧ replayOk s f = false) → ∃ t, exec (.replayRequest q n) s = .next t ∧ t.portSt p = 4 ∧ (t.port p).buf = [] ∧ Raised 0x0502 s t)
        ∧ ((∃ f ∈ x.buf, (n - f.lseq).toNat < f.cnt) → ∃ t, exec (.replayExhausted q n) s = .next t ∧ t.portSt p = 4 ∧ (t.port p).buf = [] ∧ Raised 0x0502 s t)
        ∧ exec (.frameCrcFail q) s = .next { s with link := { s.link with out := (p, .replay x.rx) :: s.link.out } }))

/-- Descriptors are taken or refused, a collective reads its contribution at its start, checks each chunk, and ends with its record and
counter (log 76, 83, 160). HLK and FAB run. COLLECTIVE_SUBMIT by a requester that reaches HLK_CQ_TAIL, when the write makes one descriptor
ready and fewer than 8 are at work: a legal one is at work and an illegal one is not, with event 0x0504; the next entry is the one to take.
COLLECTIVE_START with GOCTR at GOTGT: the collective has started now, with the contribution read from its source. CHUNK_DATA, CHUNK_ACK and
RESEND_REQUEST on a herd port are acknowledged to the link. CHUNK_DATA, and in the same way the two replies: for another device it leaves on
the port of its route, or counts in HLK_ROUTE_DROP without one; for a collective not started it is kept for it; for none, after a timeout,
it counts in HLK_LATE_DROP; for one started, a chunk expected and not yet received is received when its digest is right and its length the
expected one; with another length nothing of the collective changes (a descriptor that differs, R320; log entry 160); with a wrong digest
its payload is kept and one more chunk needed a resend. CHUNK_ACK for this device releases the chunk it names. RESEND_REQUEST for it, of a
chunk not yet resent, marks it resent and sends it on its route. COLLECTIVE_COMPLETE with every chunk received and none poisoned, into a
tank without ECC errors, and COLLECTIVE_TIMEOUT, while no descriptor waits: the collective is no longer at work, DNCTR is one higher, and
STATUS of its record is 0; after a timeout event 0x0504 is raised and its id and sequence count as timed out. The acknowledgement of
messages by runs of frames, and chunks kept for a collective not started, are the model's choices (log entries 76 and 83). -/
def Obligations.Collectives : Prop :=
  ∀ s : State, s.up 7 = true → s.up 4 = true →
    (∀ who v u i, reaches s who Reg.HLK_CQ_TAIL = true → i = s.link.take → i < 64 → u = s.putMasked Reg.HLK_CQ_TAIL v → u.fld Reg.HLK_CQ_TAIL 5 0 = (i + 1) % 64 → s.link.colls.length < 8 → Tab.find? s.link.colls i = none →
      ∃ t, exec (.collectiveSubmit who v) s = .next t ∧ t.link.take = (i + 1) % 64 ∧ (collOk u i = true → Tab.find? t.link.colls i = some (collOf u i)) ∧ (collOk u i = false → Tab.find? t.link.colls i = none ∧ RaisedAmong 0x0504 s t))
    ∧ (∀ (i : Fin 64) (c : Coll), Tab.find? s.link.colls i.val = some c → c.start = none → reached s c.goCtr c.goTgt = true →
      ∃ t d, exec (.collectiveStart i) s = .next t ∧ Tab.find? t.link.colls i.val = some d ∧ d.start = some s.cnt.hlk ∧ d.cid = c.cid ∧ d.data = s.bytes 0 c.src c.len)
    ∧ (∀ (p : Fin 8) (j : Instr) (w : Wire) (dst : Nat) (r : ChunkReply) (u : State), s.herdPort p = true → (j = .chunkAck p r ∧ w = .ack r ∧ dst = r.dst.toNat ∨ j = .resendRequest p r ∧ w = .resend r ∧ dst = r.dst.toNat
        ∨ ∃ f : ChunkFrame, j = .chunkData p f ∧ w = .chunk f ∧ dst = f.dst.toNat) → u = s.portTake p w.frames → dst ≠ s.hlkId →
      (∀ q, s.route dst = some q → ∃ t, exec j s = .next t ∧ t.link.out = (q, wireOut s q w) :: (p.val, Wire.linkAck ((s.port p).rx + BitVec.ofNat 32 w.frames - 1)) :: s.link.out ∧ SameBut [.link] s t)
        ∧ (s.route dst = none → exec j s = .next (u.incReg Reg.HLK_ROUTE_DROP w.frames)))
    ∧ (∀ (p : Fin 8) (f : ChunkFrame) (u : State), s.herdPort p = true → u = s.portTake p (chunkRun f.payload.length) →
      (f.dst.toNat = s.hlkId → s.link.colls.find? (fun e => e.2.cid == f.cid) = none → exec (.chunkData p f) s = .next (if (f.cid, f.seq) ∈ s.link.dead then u.incReg Reg.HLK_LATE_DROP 1 else u))
      ∧ (∀ i c, f.dst.toNat = s.hlkId → s.link.colls.find? (fun e => e.2.cid == f.cid) = some (i, c) → Tab.find? s.link.colls i = some c → (f.cid, f.seq) ∉ s.link.dead →
        (c.start = none → ∃ t, exec (.chunkData p f) s = .next t ∧ Tab.find? t.link.colls i = some { c with early := c.early ++ [(p.val, f)] } ∧ SameBut [.link] s t)
        ∧ (∀ x prev, c.start ≠ none → x = f.index.toNat → x ∈ c.expected → x ∉ c.got → c.unitAt (x / 2 ^ 21) ≠ none → Tab.find? c.wait x = none → prev = c.members.getD ((c.pos + c.m - 1) % c.m) 0 →
          ∃ t d, exec (.chunkData p f) s = .next t ∧ Tab.find? t.link.colls i = some d ∧ (chunkDigest prev c.cid x c.seq f.payload = f.digest → f.payload.length = c.lenAt x → d.got = x :: c.got ∧ d.resends = c.resends)
            ∧ (chunkDigest prev c.cid x c.seq f.payload = f.digest → f.payload.length ≠ c.lenAt x → t = u)
            ∧ (chunkDigest prev c.cid x c.seq f.payload ≠ f.digest → d = { c with via := some p.val, wait := Tab.insert c.wait x f.payload, resends := c.resends + 1 }))))
    ∧ (∀ (p : Fin 8) (r : ChunkReply), s.herdPort p = true → r.dst.toNat = s.hlkId →
      exec (.chunkAck p r) s = .next ((s.portTake p 1).onLink (fun l => { l with kept := l.kept.filter (fun k => !(k.frame.cid == r.cid && k.frame.index == r.index)) }))
      ∧ (∀ k q, s.pertAt 0x98 = none → s.link.kept = [k] → k.frame.cid = r.cid → k.frame.index = r.index → k.resent = false → s.route k.frame.dst.toNat = some q →
        ∃ t, exec (.resendRequest p r) s = .next t ∧ t.link.kept = [{ k with resent := true }] ∧ t.link.out = (q, .chunk k.frame) :: (s.portTake p 1).link.out ∧ SameBut [.link] s t))
    ∧ (∀ (i : Fin 64) (c : Coll), Tab.find? s.link.colls i.val = some c → c.start ≠ none → s.link.take = s.fld Reg.HLK_CQ_TAIL 5 0 → c.dnCtr < 32768 →
      ((∀ x ∈ c.expected, x ∈ c.got) → (∀ e ∈ c.outs, e.2.2.2 = false) → s.mem.tank.ecc = [] → c.stat + 16 ≤ 2 ^ 27 → ∃ t, exec (.collectiveComplete i) s = .next t ∧ Tab.find? t.link.colls i.val = none
        ∧ Tab.getD t.sync c.dnCtr 0 = Tab.getD s.sync c.dnCtr 0 + 1 ∧ t.mem.tank.readN c.stat 4 = 0)
      ∧ (∃ t, exec (.collectiveTimeout i) s = .next t ∧ Tab.find? t.link.colls i.val = none ∧ Tab.getD t.sync c.dnCtr 0 = Tab.getD s.sync c.dnCtr 0 + 1 ∧ RaisedAmong 0x0504 s t ∧ (c.cid, c.seq) ∈ t.link.dead))

/-- PRIMARY_N comes only of a claim and is lost on conflict; the pair's states follow the peer's pin and heartbeats, kicks and HLK_PAIR_CFG
(log 78, 79, 161, 162). PEER_PRIMARY_CHANGE records the pin, and no more while HLK does not run. While HLK runs: an assertion while
PRIMARY_N is asserted outside the window, or in it with the own id no lower, releases it with event 0x0508 and FENCED where EN is 1; a
deassertion takes a synchronised STANDBY to TAKEOVER with event 0x0505, another to FENCED with 0x0508. PRIMARY_ASSERT of a claim with the
peer's pin deasserted asserts PRIMARY_N and opens the window; CONFLICT_WINDOW_END makes it authority. CLAIM, by a requester that reaches
HLK_PAIR_CMD, in DISABLED without PRIMARY_N claims; RELEASE releases, a PRIMARY entering FENCED; REJOIN takes FENCED to JOINING.
PAIR_CFG_WRITE that is not refused stores its value: EN to 0 is DISABLED, EN to 1 JOINING, both without PRIMARY_N; a refused one is event
0x0507 and changes no register. KICK allows a heartbeat. With EN: HEARTBEAT_TICK counts a kick and clears it, or from the fourth missed kick
on releases PRIMARY_N, PRIMARY and STANDBY entering FENCED; a kicked PRIMARY that missed its fifth interval has PEER_OK 0, event 0x0505.
HEARTBEAT clears MISSED and takes JOINING to STANDBY or PRIMARY by the peer's state and the ids; one that finds a PRIMARY asks it for the
resynchronisation, as does a STANDBY of a MIRROR pair that has none and takes none, and one that becomes such a STANDBY has no stream bound
and runs no context on (log entries 161 and 162). PAIR_JOIN_TIMEOUT makes it PRIMARY, or FENCED while the peer's pin is asserted.
TAKEOVER_FENCE_TIMEOUT enters FENCED. HLK_AUTHW_WRITE stores its value. The count of missed kicks and the outcomes of claims and joins are
the model's choices (log entries 78 and 79). -/
def Obligations.PairRolesAndAuthority : Prop :=
  ∀ s : State, (s.up 7 = false → ∀ on, exec (.peerPrimaryChange on) s = .next (s.onPair (fun p => { p with peerPrim := on }))) ∧ (s.up 7 = true →
    (∀ on : Bool, ∃ t, exec (.peerPrimaryChange on) s = .next t ∧ t.pair.peerPrim = on
      ∧ (on = true → s.pair.prim = false → t = s.onPair (fun p => { p with peerPrim := true }))
      ∧ (on = true → s.pair.prim = true → (s.pair.window = false ∨ s.peerId ≤ s.hlkId) → t.pair.prim = false ∧ t.pair.st = (if s.pairEn then 5 else s.pair.st) ∧ RaisedAmong 0x0508 s t)
      ∧ (on = false → s.pair.peerPrim = true → s.pair.st = 3 → (s.pair.synced = true → t.pair.st = 4 ∧ t.pair.claim = true ∧ Raised 0x0505 s t) ∧ (s.pair.synced = false → t.pair.st = 5 ∧ RaisedAmong 0x0508 s t)))
    ∧ (s.pair.claim = true → s.pair.prim = false → s.pair.peerPrim = false → exec .primaryAssert s = .next (s.onPair (fun p => { p with prim := true, window := true, claim := false })))
    ∧ (s.pair.window = true → s.pair.prim = true → ∃ t, exec .conflictWindowEnd s = .next t ∧ t.pair = { s.pair with window := false } ∧ t.auth = true)
    ∧ (∀ who, reaches s who Reg.HLK_PAIR_CMD = true →
      (s.pair.st = 0 → s.pair.prim = false → exec (.claim who) s = .next (s.onPair (fun p => { p with claim := true })))
      ∧ (∃ t, exec (.release who) s = .next t ∧ t.pair.prim = false ∧ t.pair.claim = false ∧ t.pair.st = (if s.pair.st = 2 then 5 else s.pair.st))
      ∧ (s.pair.st = 5 → ∃ t, exec (.rejoin who) s = .next t ∧ t.pair.st = 1 ∧ t.pair.prim = false) ∧ (s.pair.st ≠ 5 → exec (.rejoin who) s = .next s))
    ∧ (∀ who v n, reaches s who Reg.HLK_PAIR_CFG = true → n = pairCfgNext s v →
      ((bit n 0 = false ∨ bit n 1 = false ∨ s.lockMode = true ∨ lockRefused s = none) → ∃ t, exec (.pairCfgWrite who v) s = .next t ∧ t.reg Reg.HLK_PAIR_CFG = n
        ∧ (s.pairEn = bit n 0 → t = s.setReg Reg.HLK_PAIR_CFG n) ∧ (s.pairEn ≠ bit n 0 → t.pair.st = (if bit n 0 then 1 else 0) ∧ t.pair.prim = false))
      ∧ (∀ st, bit n 0 = true → bit n 1 = true → s.lockMode = false → lockRefused s = some st → ∃ t, exec (.pairCfgWrite who v) s = .next t ∧ Raised 0x0507 s t ∧ SameBut evParts s t))
    ∧ (∀ who, reaches s who Reg.HLK_HB_KICK = true → exec (.kick who) s = .next (s.onPair (fun p => { p with kicked := true })))
    ∧ (s.pairEn = true → (∃ t, exec .heartbeatTick s = .next t ∧ (s.pair.kicked = true → t.pair.kicked = false ∧ t.pair.kickMiss = 0) ∧ (s.pair.heard = true → t.pair.heard = false)
        ∧ (s.pair.kicked = false → 3 ≤ s.pair.kickMiss → t.pair.prim = false ∧ ((s.pair.st = 2 ∨ s.pair.st = 3) → t.pair.st = 5))
        ∧ (s.pair.kicked = true → s.pair.heard = false → s.pair.missed = 4 → s.pair.st = 2 → t.pair.st = 2 ∧ t.pair.peerOk = false ∧ t.pair.missed = 5 ∧ Raised 0x0505 s t))
      ∧ (∀ h : PeerBeat, s.portUp 7 = true → ∃ t, exec (.heartbeat h) s = .next t ∧ t.pair.missed = 0 ∧ t.pair.heard = true ∧ (s.pair.st = 3 → s.lockMode = false → s.pair.synced = false → s.pair.taking = false → h.state.val = 2 → t.link.out.head? = some (7, .pair .resync)) ∧ (s.pair.st = 1 → (h.state.val = 2 → t.pair.st = 3
            ∧ t.link.out.head? = some (7, .pair .resync) ∧ (s.lockMode = false → (∀ st : StreamId, t.bound st.val = false) ∧ ∀ i, (t.ctx i).st = .idle ∨ (t.ctx i).st = .saving ∨ (t.ctx i).stop = true))
          ∧ (h.state.val = 1 → (s.hlkId < h.id.toNat → t.pair.st = 2 ∧ t.pair.claim = true) ∧ (h.id.toNat < s.hlkId → t.pair.st = 3) ∧ (h.id.toNat = s.hlkId → t.pair.st = 1))))
      ∧ (s.pair.st = 1 → ∃ t, exec .pairJoinTimeout s = .next t ∧ (s.pair.peerPrim = true → t.pair.st = 5 ∧ RaisedAmong 0x0508 s t)
        ∧ (s.pair.peerPrim = false → t = s.onPair (fun p => { p with st := 2, claim := true, peerOk := false }))))
    ∧ (s.pair.st = 4 → s.pair.peerPrim = true → ∃ t, exec .takeoverFenceTimeout s = .next t ∧ t.pair.st = 5 ∧ t.pair.prim = false ∧ RaisedAmong 0x0508 s t)
    ∧ (∀ who v u, reaches s who Reg.HLK_AUTHW = true → u = s.putMasked Reg.HLK_AUTHW v → ∃ t, exec (.hlkAuthwWrite who v) s = .next t ∧ t.reg Reg.HLK_AUTHW = u.reg Reg.HLK_AUTHW
      ∧ (u.rbit Reg.HLK_AUTHW 31 = true → s.rbit Reg.HLK_AUTHW 31 = false → s.up 4 = true → s.mem.tank.ecc = [] → t.mem.tank.readN (4 * u.fld Reg.HLK_AUTHW 24 0) 4 = b2n s.auth)))

/-- The standby records in order, the primary waits for it or goes on alone, a takeover makes it primary, and lockstep compares copies (log
77, 80, 81, 163). With the pair's link up and EN 1; the frames of each message are acknowledged to the link. MIRROR_RECORD on a STANDBY in
MIRROR mode: the start of a resynchronisation empties the mirror and counts from its number; the next number, while synchronised or taking
one, is counted as received and acknowledged, the end of a resynchronisation sets SYNCED and PEER_OK; another number clears SYNCED and asks
for a resynchronisation. MIRROR_ACK on a PRIMARY: no record up to that number still waits, and PEER_OK is set when it covers the
resynchronisation; a request for one in MIRROR mode begins one with PEER_OK 0. MIRROR_ACK_TIMEOUT with a record waiting: none waits, PEER_OK
is 0, event 0x0509. TAKEOVER_COMPLETE in TAKEOVER with authority: PRIMARY with PEER_OK 0, the mirror spent but for the checkpoints,
HLK_FAILOVER_CNT one higher, health bit FAILOVER, event 0x0506. In LOCKSTEP-COMPARE with FAB running: ARRIVAL_KEY keeps the peer's key among
its last 16, and with another key of its own for the number raises event 0x0507; REALIGN_NOTICE and LOCKSTEP_COPY keep the notice or the
copy, and no DONE that held for the copy of that number still holds. Where a resynchronisation starts and ends, the mirror and checkpoints
after a takeover, and how keys and copies are kept are the model's choices (log entries 77, 80, 81 and 163). -/
def Obligations.MirrorTakeoverAndLockstep : Prop :=
  ∀ s : State, s.portUp 7 = true → s.pairEn = true →
    (∀ (r : MirrorRec) (o : List (Nat × Wire)), s.pair.st = 3 → s.lockMode = false → o = (7, Wire.linkAck ((s.port 7).rx + BitVec.ofNat 32 (PairMsg.mirror r).frames - 1)) :: s.link.out →
      (r.body = .resyncBegin → ∃ t, exec (.mirrorRecord r) s = .next t ∧ t.pair = { s.pair with mir := [], chk := [], synced := false, taking := true, got := r.number }
        ∧ t.link.out = (7, .pair (.mirrorAck r.number)) :: o ∧ SameBut [.pair, .link] s t)
      ∧ (r.body ≠ .resyncBegin → (s.pair.synced = true ∨ s.pair.taking = true) →
        (r.number = s.pair.got + 1 → ∃ t, exec (.mirrorRecord r) s = .next t ∧ t.pair.got = r.number ∧ t.link.out = (7, .pair (.mirrorAck r.number)) :: o
          ∧ (r.body = .resyncEnd → t.pair.synced = true ∧ t.pair.peerOk = true) ∧ SameBut [.pair, .link] s t)
        ∧ (r.number ≠ s.pair.got + 1 → ∃ t, exec (.mirrorRecord r) s = .next t ∧ t.pair = { s.pair with synced := false, taking := false } ∧ t.link.out = (7, .pair .resync) :: o ∧ SameBut [.pair, .link] s t)))
    ∧ (s.pair.st = 2 →
      (∀ n : W32, ∃ t, exec (.mirrorAck n false) s = .next t ∧ t.pair.acked = n ∧ (∀ st, ∀ o ∈ (t.strm st).outq, ∀ m, o.mirror = some m → ¬(m = n ∨ follows n m = true))
        ∧ (∀ e, s.pair.resync = some e → (n = e ∨ follows n e = true) → t.pair.peerOk = true ∧ t.pair.resync = none))
      ∧ (∀ n : W32, s.lockMode = false → ∃ t, exec (.mirrorAck n true) s = .next t ∧ t.pair.peerOk = false ∧ t.pair.resync = some t.pair.sent)
      ∧ (∀ st o, o ∈ (s.strm st).outq → o.mirror ≠ none → ∃ t, exec .mirrorAckTimeout s = .next t ∧ t.pair.peerOk = false ∧ t.pair.resync = none ∧ (∀ q, ∀ r ∈ (t.strm q).outq, r.mirror = none) ∧ RaisedAmong 0x0509 s t))
    ∧ (s.pair.st = 4 → s.auth = true → ∃ t, exec .takeoverComplete s = .next t ∧ t.pair.st = 2 ∧ t.pair.peerOk = false ∧ t.pair.mir = [] ∧ t.pair.chk = s.pair.chk
      ∧ t.reg Reg.HLK_FAILOVER_CNT = satAdd (s.reg Reg.HLK_FAILOVER_CNT) 1 ∧ t.rbit Reg.TST_HEALTH 3 = true ∧ RaisedAmong 0x0506 s t)
    ∧ (s.lockMode = true → s.up 4 = true → ∀ (st : StreamId) (n : W32),
      (∀ key, ∃ t, exec (.arrivalKey st n key) s = .next t ∧ (t.lockOf st.val).peer = ((n, key) :: (s.lockOf st.val).peer).take 16
        ∧ ((∃ e ∈ (s.lockOf st.val).own, e.1 = n ∧ e.2 ≠ key) → RaisedAmong 0x0507 s t))
      ∧ (∃ t, exec (.realignNotice st n) s = .next t ∧ (t.lockOf st.val).notices = (s.lockOf st.val).notices ++ [n]
        ∧ (∀ i rr dw data, (s.ctx i).hold = .doneCopy st.val n rr dw data → (t.ctx i).hold = .free ∧ (t.ctx i).st = .run))
      ∧ (∀ bs, ∃ t, exec (.lockstepCopy st n bs) s = .next t ∧ (t.lockOf st.val).copies = (n, bs) :: (s.lockOf st.val).copies.filter (fun e => e.1 != n)
        ∧ (∀ i rr dw data, (s.ctx i).hold = .doneCopy st.val n rr dw data → (t.ctx i).hold = .free ∧ (t.ctx i).st = .run)))

/-- Enabling, triggers, urgent requests and results of a converter, and writes of its configuration (model's own: log 88, 89). MSR_ENABLE by
a requester that reaches MSR_m_CTL: of a disabled converter with EN 1 it stores CTL, clears LVALID and, in mode 0, starts entry 0; of an
enabled one with EN 1 it is event 0x0806 with MSR_m_ERR bit 0 and changes no other register; with EN 0 it stops the converter, an event too
if it would change other fields. MSR_DISABLE stops the converter: EN is 0, no run or pass is in progress. A trigger of an enabled converter
by its own mode (timer with TPER not 0, an accepted edge, soft), an edge being used up: without the reference nothing else changes; with no
pass it starts one, at once when TDLY is 0; in a pass it becomes pending where bit 8 allows one and none is pending, and else counts in
MSR_m_OVR_CNT. MSR_DELAY_END with the delay running and no run starts entry 0; MSR_REF_READY makes the reference ready. MSR_RESULT of the
run in progress: the word of its entry's voltages, valid or not suppressed, stands in MSR_m_LAST with LVALID set. MSR_URGENT: on a disabled
converter MSR_m_ERR bit 1; else the entry runs at once, the interrupted one is remembered, or it waits behind an urgent run, or counts in
MSR_m_UOVR_CNT. MSR_CONFIG_WRITE: of a configuration register it takes effect while EN is 0, and is event 0x0806 while it is 1. That an edge
is used up as a pending trigger, that a trigger without the reference does nothing, and the order of urgent runs are the model's choices
(log entries 88 and 89). -/
def Obligations.MeasurementConverters : Prop :=
  ∀ (s : State) (m : Fin 4) (x : MsrConv), x = s.msc m →
    (∀ who v, reaches s who (Reg.MSRC_CTL m) = true → bit v 0 = true →
      (s.rbit (Reg.MSRC_CTL m) 0 = false → ∃ t, exec (.msrEnable who m v) s = .next t ∧ t.reg (Reg.MSRC_CTL m) = (s.putMasked (Reg.MSRC_CTL m) v).reg (Reg.MSRC_CTL m) ∧ t.reg (Reg.MSRC_LVALID m) = 0
        ∧ (t.msc m).refrdy = false ∧ (t.msc m).run = (if bits v 2 1 = 0 then some ⟨0, 0, true, false, []⟩ else none) ∧ RegsBut [Reg.MSRC_CTL m, Reg.MSRC_LVALID m] s t ∧ SameBut [.regs, .msr] s t)
      ∧ (s.rbit (Reg.MSRC_CTL m) 0 = true → ∃ t, exec (.msrEnable who m v) s = .next t ∧ t.rbit (Reg.MSRC_ERR m) 0 = true ∧ Raised 0x0806 s t ∧ RegsBut [Reg.MSRC_ERR m] s t ∧ SameBut (evParts ++ [.regs]) s t))
    ∧ (∀ who v, reaches s who (Reg.MSRC_CTL m) = true → bit v 0 = false → s.rbit (Reg.MSRC_CTL m) 0 = true → ∃ t, exec (.msrEnable who m v) s = .next t ∧ t.rbit (Reg.MSRC_CTL m) 0 = false ∧ (t.msc m).run = none ∧ (t.msc m).pass = false
      ∧ (bits v 16 1 = s.fld (Reg.MSRC_CTL m) 16 1 → Quiet s t ∧ RegsBut [Reg.MSRC_CTL m] s t) ∧ (bits v 16 1 ≠ s.fld (Reg.MSRC_CTL m) 16 1 → t.rbit (Reg.MSRC_ERR m) 0 = true ∧ Raised 0x0806 s t ∧ RegsBut [Reg.MSRC_CTL m, Reg.MSRC_ERR m] s t))
    ∧ (∀ who, reaches s who (Reg.MSRC_CTL m) = true → (s.rbit (Reg.MSRC_CTL m) 0 = true → ∃ t, exec (.msrDisable who m) s = .next t ∧ t.rbit (Reg.MSRC_CTL m) 0 = false ∧ (t.msc m).run = none ∧ (t.msc m).pass = false
        ∧ RegsBut [Reg.MSRC_CTL m] s t ∧ SameBut [.regs, .msr] s t) ∧ (s.rbit (Reg.MSRC_CTL m) 0 = false → exec (.msrDisable who m) s = .next s))
    ∧ (s.mscOn m = true → x.edges = 0 → exec (.msrEdgeTrigger m) s = .next s)
    ∧ (∀ who j y, s.mscOn m = true → ((j = .msrTimerTrigger m ∧ s.mscTrig m = 1 ∧ s.fld (Reg.MSRC_TPER m) 23 0 ≠ 0 ∧ y = x) ∨ (j = .msrEdgeTrigger m ∧ s.mscTrig m = 2 ∧ x.edges ≠ 0 ∧ y = { x with edges := x.edges - 1 })
        ∨ (j = .msrSoftTrigger who m ∧ s.mscTrig m ≠ 0 ∧ reaches s who (Reg.MSRC_CMD m) = true ∧ y = x)) →
      (∀ z, (x.refrdy = false ∧ z = y ∨ x.refrdy = true ∧ x.pass = false ∧ s.fld (Reg.MSRC_TDLY m) 15 0 ≠ 0 ∧ z = { y with pass := true, delay := true }
          ∨ x.refrdy = true ∧ x.pass = false ∧ s.fld (Reg.MSRC_TDLY m) 15 0 = 0 ∧ x.run = none ∧ z = { y with pass := true, delay := false, ready := false, run := some ⟨0, 0, true, false, []⟩ }
          ∨ x.refrdy = true ∧ x.pass = true ∧ s.rbit (Reg.MSRC_CTL m) 8 = true ∧ x.pend = false ∧ z = { y with pend := true }) →
        ∃ t, exec j s = .next t ∧ t.msc m = z ∧ (∀ o, o ≠ m.val → t.msc o = s.msc o) ∧ SameBut [.msr] s t)
      ∧ (x.refrdy = true → x.pass = true → (s.rbit (Reg.MSRC_CTL m) 8 = false ∨ x.pend = true) → ∃ t, exec j s = .next t ∧ t.reg (Reg.MSRC_OVR_CNT m) = satAdd (s.reg (Reg.MSRC_OVR_CNT m)) 1 ∧ RegsBut [Reg.MSRC_OVR_CNT m] s t))
    ∧ (s.mscOn m = true → x.delay = true → ∃ t, exec (.msrDelayEnd m) s = .next t ∧ (t.msc m).delay = false ∧ SameBut [.msr] s t
      ∧ (x.run = none → (t.msc m).run = some ⟨0, 0, true, false, []⟩) ∧ (x.run ≠ none → (t.msc m).ready = true ∧ (t.msc m).run = x.run))
    ∧ (s.mscOn m = true → exec (.msrRefReady m) s = .next (s.setMsc m { x with refrdy := true }))
    ∧ (∀ (r : MsrRun) (v : Volts) (raw : Int) (ovl : Bool) (e : W32) (overs : List Bool) (settled bad : Bool), s.mscOn m = true → x.run = some r → r.entry < 16 → e = s.mscEntry m r.entry → raw = rawCode e v → overs = ((ovl || (bit e 14 && !s.rbit Reg.ACT_EN (8 + m.val))) :: r.overs).take (entOrder e) →
      settled = !(r.fresh && decide (r.got + 1 < entOrder e)) → bad = ((calValue s (pairIx m e) raw).2 || overs.any (fun b => b)) → (settled = true ∨ s.rbit (Reg.MSRC_CTL m) 9 = false) →
      ∃ t, exec (.msrResult m v ovl) s = .next t ∧ t.rbit (Reg.MSRC_LVALID m) r.entry = true
        ∧ t.reg (Reg.MSRC_LAST m r.entry) = BitVec.ofNat 32 (ofInt 24 (calValue s (pairIx m e) raw).1 + 2 ^ 24 * r.entry + 2 ^ 28 * m.val + 2 ^ 30 * b2n settled + 2 ^ 31 * b2n bad))
    ∧ (∀ (who : Who) (u : Fin 16), reaches s who (Reg.MSRC_CMD m) = true →
      (s.rbit (Reg.MSRC_CTL m) 0 = false → exec (.msrUrgent who m u) s = .next (s.orReg (Reg.MSRC_ERR m) 2))
      ∧ (s.rbit (Reg.MSRC_CTL m) 0 = true → (∀ r, x.run = some r → r.urg = false) → ∃ t, exec (.msrUrgent who m u) s = .next t ∧ (t.msc m).run = some ⟨u.val, 0, true, true, []⟩
        ∧ (∀ r, x.run = some r → (t.msc m).resume = some r.entry) ∧ SameBut [.msr] s t)
      ∧ (∀ r, s.rbit (Reg.MSRC_CTL m) 0 = true → x.run = some r → r.urg = true → (x.upend = none → exec (.msrUrgent who m u) s = .next (s.setMsc m { x with upend := some u.val }))
        ∧ (x.upend ≠ none → ∃ t, exec (.msrUrgent who m u) s = .next t ∧ t.reg (Reg.MSRC_UOVR_CNT m) = satAdd (s.reg (Reg.MSRC_UOVR_CNT m)) 1 ∧ RegsBut [Reg.MSRC_UOVR_CNT m] s t)))
    ∧ (∀ (who : Who) (off : BitVec 8) (v : W32) (a : Nat), a = Reg.MSRC_CTL m + off.toNat → reaches s who a = true → off ≠ 0 →
      (cfgOnly off.toNat = true → s.rbit (Reg.MSRC_CTL m) 0 = true → ∃ t, exec (.msrConfigWrite who m off v) s = .next t ∧ t.rbit (Reg.MSRC_ERR m) 0 = true ∧ Raised 0x0806 s t ∧ RegsBut [Reg.MSRC_ERR m] s t)
      ∧ ((cfgOnly off.toNat = true ∧ s.rbit (Reg.MSRC_CTL m) 0 = false ∨ off = 8 ∨ off = 12) → exec (.msrConfigWrite who m off v) s = .next (s.putMasked a v)))

/-- Calibration steps end with their code and set pairs, channels read and write pages by the journal, and tokens let events be logged (log
90, 101, 132). MSR_CAL_ZERO and MSR_CAL_FULL by a requester that reaches MSR_CAL_CMD: with no calibration in progress and the converter
disabled (and for FULL a ZERO of the pair) the step is in progress; otherwise MSR_CAL_STAT holds code 6, 1 or 4 with event 0x0804.
MSR_CAL_STEP_COMPLETE while FIO runs: no step is in progress; with an overrange, EXCm disabled among its causes, it is code 2; a ZERO
without one keeps the rounded mean as the pair's offset with code 0. MSR_CAL_SAVE: refused with code 6 while one is in progress or 5 under
the brown-out warning; else it is busy and every pair is queued as a record. NVS_READ on a free channel by a requester that reaches it, with
the store resolved and idle: the buffer holds the page's 64 bytes and the code is 0, or 1 when a group was uncorrectable; on a busy channel
code 4. NVS_WRITE: a refused one reports its code with event 0x0604 or 0x0605; another, with the store idle, is the page write in progress.
NVS_PAGE_WRITE_COMPLETE: the target page holds its new bytes, the next slot is the last one used with the next sequence number, NVS_WCNT is
one higher and, with nothing queued, its channel's code is 0. LOG_TOKEN_TICK while NVSC runs adds a token up to 32. The order of calibration
refusals and the rounding, how SAVE's records are queued, and the slots of a page write are the model's choices (log entries 90, 101 and
132). -/
def Obligations.CalibrationStoreAndLog : Prop :=
  ∀ s : State,
    (∀ (who : Who) (m : Fin 4) (full : Bool) (j : Instr) (p : Nat), reaches s who Reg.MSR_CAL_CMD = true → p = pairIx m.val (s.reg Reg.MSR_CAL_ENT) → j = (if full then .msrCalFull who m else .msrCalZero who m) →
      (s.calBusy = false → s.rbit (Reg.MSRC_CTL m) 0 = false → (full = true → Tab.find? s.msr.zero p ≠ none) → ∃ t, exec j s = .next t ∧ t.msr = { s.msr with cal := some (m.val, p, full) }
        ∧ t.reg Reg.MSR_STAT = s.reg Reg.MSR_STAT ||| 2 ∧ RegsBut [Reg.MSR_STAT] s t ∧ SameBut [.regs, .msr] s t)
      ∧ (∀ code, (s.calBusy = true ∧ code = 6 ∨ s.calBusy = false ∧ s.rbit (Reg.MSRC_CTL m) 0 = true ∧ code = 1 ∨ s.calBusy = false ∧ s.rbit (Reg.MSRC_CTL m) 0 = false ∧ full = true ∧ Tab.find? s.msr.zero p = none ∧ code = 4) →
        ∃ t, exec j s = .next t ∧ t.reg Reg.MSR_CAL_STAT = BitVec.ofNat 32 (code + 2 ^ 31) ∧ Raised 0x0804 s t ∧ RegsBut [Reg.MSR_CAL_STAT] s t ∧ SameBut (evParts ++ [.regs]) s t))
    ∧ (∀ m p full vs ovl e codes high, s.up 8 = true → s.msr.cal = some (m, p, full) → e = s.reg Reg.MSR_CAL_ENT → codes = vs.map (rawCode e) →
        high = (ovl || (bit e 14 && !s.rbit Reg.ACT_EN (8 + m)) || codes.any (fun c => decide (c < -8388608) || decide (8388607 < c))) → ∃ t, exec (.msrCalStepComplete vs ovl) s = .next t ∧ t.msr.cal = none ∧ t.calBusy = false
      ∧ (high = true → t.reg Reg.MSR_CAL_STAT = 0x80000002 ∧ Raised 0x0804 s t) ∧ (high = false → full = false → t.reg Reg.MSR_CAL_STAT = 0x80000000 ∧ Tab.find? t.msr.zero p = some (BitVec.ofInt 32 ((codeMean codes).round false))))
    ∧ (∀ who, reaches s who Reg.MSR_CAL_CMD = true → ∀ cv : Fin 4,
      (∀ code, (s.calBusy = true ∧ code = 6 ∨ s.calBusy = false ∧ s.rst.bowarn = true ∧ code = 5) → ∃ t, exec (.msrCalSave ⟨who, cv⟩) s = .next t ∧ t.reg Reg.MSR_CAL_STAT = BitVec.ofNat 32 (code + 2 ^ 31) ∧ Raised 0x0804 s t ∧ RegsBut [Reg.MSR_CAL_STAT] s t)
      ∧ (s.calBusy = false → s.rst.bowarn = false → ∃ t, exec (.msrCalSave ⟨who, cv⟩) s = .next t ∧ t.calBusy = true
        ∧ (s.nvs.cur ≠ none → t.nvs.cur = s.nvs.cur ∧ t.nvs.queue = s.nvs.queue ++ (recordJobs abCal (s.abChoose abCal) (calPayload s) (.cal cv false) (.cal cv true)).map NvsCmd.page)))
    ∧ (∀ (who : Who) (ch : Fin 2) (page : Nat), reaches s who (Reg.NVSC_CMD ch.val) = true → page = s.fld (Reg.NVSC_PAGE ch.val) 11 0 →
      (s.rbit (Reg.NVSC_STAT ch.val) 0 = true → exec (.nvsRead who ch) s = .next (s.setReg (Reg.NVSC_STAT ch.val) (BitVec.ofNat 32 (1 + 16 * 4 + 2 ^ 31))))
      ∧ (s.rbit (Reg.NVSC_STAT ch.val) 0 = false → s.up 2 = true → s.nvs.ready = true → s.nvs.cur = none → s.nvs.queue = [] → ∃ t, exec (.nvsRead who ch) s = .next t ∧ (∀ w < 16, t.reg (Reg.NVSC_BUF ch.val w) = BitVec.ofNat 32 (s.mem.nvs.readN (64 * page + 4 * w) 4))
        ∧ t.reg (Reg.NVSC_STAT ch.val) = BitVec.ofNat 32 (16 * (if s.nvsUnc (64 * page) 64 then 1 else 0) + 2 ^ 31))
      ∧ (∀ code, writeRefusal (who == .sec) s ch.val page = some code → ∃ t, exec (.nvsWrite who ch) s = .next t ∧ t.fld (Reg.NVSC_STAT ch.val) 7 4 = code ∧ Raised (if code = 3 then 0x0604 else 0x0605) s t ∧ RegsBut [Reg.NVSC_STAT ch.val] s t)
      ∧ (writeRefusal (who == .sec) s ch.val page = none → s.up 2 = true → s.nvs.ready = true → s.nvs.cur = none → s.nvs.queue = [] → ∃ t, exec (.nvsWrite who ch) s = .next t ∧ t.nvs.cur = some ⟨64 * page, chanBuf s ch.val, .chan ch⟩
        ∧ t.rbit (Reg.NVSC_STAT ch.val) 0 = true ∧ RegsBut [Reg.NVSC_STAT ch.val] s t ∧ SameBut [.regs, .nvs] s t))
    ∧ (∀ j : PageJob, s.nvs.cur = some j → ∃ t, exec .nvsPageWriteComplete s = .next t ∧ t.mem.nvs.read (64 * (j.off / 64)) 64 = jobPage s.mem.nvs j ∧ t.nvs.slot = some (nextSlot s.nvs) ∧ t.nvs.jseq = s.nvs.jseq + 1
      ∧ t.reg Reg.NVS_WCNT = s.reg Reg.NVS_WCNT + 1 ∧ (∀ c : Fin 2, j.src = .chan c → s.nvs.queue = [] → t.reg (Reg.NVSC_STAT c.val) = 0x80000000))
    ∧ (s.up 2 = true → exec .logTokenTick s = .next { s with ev := { s.ev with tokens := min 32 (s.ev.tokens + 1) } })

/-- Every reset source records its cause and leaves its domains down with the start to run from its step; weights and fuses stay (model's
own: log 66, 106, 158). BROWNOUT_CORE, RESET_N_ASSERT, WATCHDOG_EXPIRY of a running watchdog not kicked for its period, START_TIMEOUT while
firmware runs 2 s without START_OK, ALL with key 0xA5 by a requester that reaches it, CLOCK_FAILURE of some clock with every PLL locked,
LOCK_UP while CTL runs, SEPARATOR_TIMEOUT of a domain isolating for RST_SEP_TMO and EXIT with key 0xA5 in recovery mode with the store ready
and no brown-out warning: every domain but AON is down, the start is to run from step 2, RST_CAUSE gains the bit of its cause (EXIT also
clears RST_FAILCNT). POWER_ON and BROWNOUT_AON: the same, but from step 1, RST_CAUSE holds the cause alone and the AON count is 0. In each
the PCM contents and the fuses are as before, no core is powered and the watchdog stands. ALL and EXIT with another key change nothing, and
EXIT under the warning, or with the store not ready, waits (log entries 106 and 158). DEBUG_RESET with scope bit 1 granted: the working
domains are down, SEC and NVSC are as they were, RST_CAUSE gains bit 8, and the start is to run from step 5. That RST_CAUSE holds the cause
alone after power-on is log entry 66. -/
def Obligations.ResetsHoldTheDomains : Prop :=
  ∀ s : State,
    (∀ (cut : Fin 8) (j : Instr) (cause : Nat),
      (j = .brownoutCore false cut ∧ cause = 2 ∨ j = .brownoutCore true cut ∧ cause = 3 ∨ j = .resetNAssert cut ∧ cause = 4 ∨ (j = .watchdogExpiry cut ∧ s.rst.wdt = true ∧ 1000 * max 1 (s.fld Reg.RST_WDT_CFG 15 0) ≤ s.since s.rst.kickAt ∧ cause = 5)
        ∨ (j = .startTimeout cut ∧ s.rst.stage = .run ∧ s.rbit Reg.RST_STAT 4 = false ∧ 2000000 ≤ s.since s.rst.ctlAt ∧ cause = 6) ∨ (∃ who, j = .all who 0xA5 cut ∧ reaches s who Reg.RST_SW = true ∧ cause = 7)
        ∨ (∃ loss, j = .clockFailure loss ∧ loss.lost ≠ 0 ∧ s.fld Reg.CLK_STAT 6 3 = 15 ∧ cause = 9) ∨ (j = .lockUp cut ∧ s.up 3 = true ∧ cause = 10) ∨ (∃ d, j = .separatorTimeout d cut ∧ s.domSt (domIx d) = .isolating ∧ max 1 (s.fld Reg.RST_SEP_TMO 15 0) ≤ s.domSince (domIx d) ∧ cause = 11)
        ∨ (∃ who, j = .exit who 0xA5 cut ∧ reaches s who Reg.RST_RECOVER = true ∧ s.rst.stage = .recovery ∧ s.nvsOpen = true ∧ cause = 7)) →
      ∃ t, exec j s = .next t ∧ t.rst.stage = .held 2 ∧ (∀ d < 41, 1 ≤ d → t.domSt d = .down) ∧ t.reg Reg.RST_CAUSE = s.reg Reg.RST_CAUSE ||| BitVec.ofNat 32 (2 ^ cause)
        ∧ t.pcm = s.pcm ∧ t.fus = s.fus ∧ t.rst.cores = 0 ∧ t.rst.wdt = false ∧ (∀ who, j = .exit who 0xA5 cut → t.reg Reg.RST_FAILCNT = 0))
    ∧ (∀ (cut : Fin 8) (j : Instr) (cause : Nat), (j = .powerOn cut ∧ cause = 0 ∨ j = .brownoutAon cut ∧ cause = 1) →
      ∃ t, exec j s = .next t ∧ t.rst.stage = .held 1 ∧ (∀ d < 41, 1 ≤ d → t.domSt d = .down) ∧ t.reg Reg.RST_CAUSE = BitVec.ofNat 32 (2 ^ cause) ∧ t.cnt.aon = 0
        ∧ t.pcm = s.pcm ∧ t.fus = s.fus ∧ t.rst.cores = 0 ∧ t.rst.wdt = false)
    ∧ (∀ (who : Who) (key : Byte) (cut : Fin 8), key ≠ 0xA5 → (reaches s who Reg.RST_SW = true → exec (.all who key cut) s = .next s) ∧ (reaches s who Reg.RST_RECOVER = true → exec (.exit who key cut) s = .next s))
    ∧ (∀ (who : Who) (cut : Fin 8), reaches s who Reg.RST_RECOVER = true → s.rst.stage = .recovery → s.nvsOpen = false → exec (.exit who 0xA5 cut) s = .next { s with rst := { s.rst with exit := true } })
    ∧ (bit s.sec.scopes 1 = true → ∃ t, exec .debugReset s = .next t ∧ t.rst.stage = .held 5 ∧ (∀ d < 41, 3 ≤ d → t.domSt d = .down) ∧ t.domSt 1 = s.domSt 1 ∧ t.domSt 2 = s.domSt 2
      ∧ t.reg Reg.RST_CAUSE = s.reg Reg.RST_CAUSE ||| 0x100 ∧ t.pcm = s.pcm ∧ t.fus = s.fus)

/-- A start goes through its steps to a running bundle, waits in recovery mode after three failures, and is confirmed by START_OK (log 93,
106, 154, 158). RESET_RELEASE of a held start: from step 5 it goes to the PLLs, or back to recovery mode, with event 0x0702, else SEC runs
and the fuses load. FUSE_LOAD_COMPLETE then: NVSC runs, or is in reset while its block bit is set, and the journal is resolved next; a
failed row sets FUSEFAIL with event 0x0704. JOURNAL_RESOLVE then: the store is ready; after a failed row it is recovery mode with FAULT_N;
under the brown-out warning the start waits; else with no injected read error fewer than 3 failed starts lead to the PLLs, others to
recovery mode with event 0x0707. PLL_LOCK: FAB, DRAM and HST are released, CLK_STAT gains its PLL bits, the boot ROM runs next.
SYSCLK_MISSING_TIMEOUT while the PLLs start: event 0x0708. BUNDLE_VERIFY at the boot ROM: a QSPI bundle that passes runs, and with none it
waits for the mailbox with event 0x0B01. OK by a requester that reaches it while firmware runs unconfirmed: STARTED is 1, RST_FAILCNT 0,
event 0x0701, its record waiting while the store is not ready (log entry 158); later ones change nothing. ROLLBACK_ADVANCE after it of a
bundle with ADVANCE and a higher version, without a warning: the rollback fuses hold one more, with event 0x0B03 when they have come to that
version (one fuse by each command is log entry 154). WDT_KICK restarts the watchdog by its key only. SET and FAULT_CLEAR drive and end
FAULT_N, not in recovery mode. The brown-out warning's commands set and clear it; its start ends a calibration SAVE whose pages still wait
with code 5, and its end lets a waiting start or EXIT go on where the store is ready. That NVSC stays in reset while its block bit is set,
and that a debug restart returns to recovery mode and lets a waiting EXIT go on, are the model's choices (log entries 93 and 106). -/
def Obligations.TheStartSequence : Prop :=
  ∀ s : State,
    (∀ r, s.rst.stage = .held r → ∃ t, exec .resetRelease s = .next t ∧ t.domSt 0 = .run ∧ (r = 5 → t.rst.stage = (if s.rbit Reg.RST_STAT 3 then .recovery else .pll) ∧ Raised 0x0702 s t) ∧ (r ≠ 5 → t.rst.stage = .fuse ∧ t.domSt 1 = .run ∧ Quiet s t))
    ∧ (s.rst.stage = .fuse → ∀ retries failed, ∃ t, exec (.fuseLoadComplete retries failed) s = .next t ∧ t.rst.stage = .journal ∧ t.domSt 2 = (if s.rbit Reg.RST_BLK 0 then .inReset else .run)
      ∧ (∀ row, failed = some row → t.rbit Reg.RST_STAT 1 = true ∧ RaisedAmong 0x0704 s t))
    ∧ (s.up 2 = true → s.nvs.ready = false → s.rst.stage = .journal → ∃ t, exec .journalResolve s = .next t ∧ t.nvs.ready = true
      ∧ (s.rbit Reg.RST_STAT 1 = true → t.rst.stage = .recovery ∧ t.rst.fault = true) ∧ (s.rbit Reg.RST_STAT 1 = false → s.rst.bowarn = true → t.rst.stage = .blocked)
      ∧ (∀ count, s.rbit Reg.RST_STAT 1 = false → s.rst.bowarn = false → s.pertAt 0x94 = none → count = max (s.fld Reg.RST_FAILCNT 7 0) (startFields (s.nvsResolve.abChoose abStart)).1 →
        (count < 3 → t.rst.stage = .pll) ∧ (3 ≤ count → t.rst.stage = .recovery ∧ RaisedAmong 0x0707 s t)))
    ∧ (s.rst.stage = .pll → (∃ t, exec .pllLock s = .next t ∧ t.rst.stage = .boot ∧ t.reg Reg.CLK_STAT = s.reg Reg.CLK_STAT ||| 0x79 ∧ (∀ d, d = 4 ∨ d = 5 ∨ d = 6 → t.domSt d = (if s.rbit Reg.RST_BLK (d - 2) then .inReset else .run)))
      ∧ (∃ t, exec .sysclkMissingTimeout s = .next t ∧ t.rbit Reg.CLK_STAT 0 = false ∧ Raised 0x0708 s t ∧ RegsBut [Reg.CLK_STAT] s t ∧ SameBut (evParts ++ [.regs]) s t))
    ∧ (s.rst.stage = .boot → ∃ t, exec .bundleVerify s = .next t
      ∧ (∀ o, (o = 0 ∧ bundleCheck s s.mem.qspi 0 0x800000 = 0 ∨ o = 0x800000 ∧ bundleCheck s s.mem.qspi 0 0x800000 ≠ 0 ∧ bundleCheck s s.mem.qspi 0x800000 0x800000 = 0) →
        t.rst.stage = .run ∧ t.sec.bundle = some (bundleOf s.mem.qspi o (o / 0x800000)))
      ∧ (bundleCheck s s.mem.qspi 0 0x800000 ≠ 0 → bundleCheck s s.mem.qspi 0x800000 0x800000 ≠ 0 → t.rst.stage = .mailbox ∧ RaisedAmong 0x0B01 s t))
    ∧ (∀ who, reaches s who Reg.RST_START = true → s.rst.stage = .run → (s.rbit Reg.RST_STAT 4 = true → exec (.ok who) s = .next s)
      ∧ (s.rbit Reg.RST_STAT 4 = false → ∃ t, exec (.ok who) s = .next t ∧ t.reg Reg.RST_FAILCNT = 0 ∧ t.rbit Reg.RST_STAT 4 = true ∧ ((s.up 2 = false ∨ s.nvs.ready = false) → t.rst.okWait = true) ∧ RaisedAmong 0x0701 s t))
    ∧ (∀ b, s.sec.bundle = some b → s.rbit Reg.RST_STAT 4 = true → b.advance = true → s.fus.rollback < b.rbver → s.rst.bowarn = false →
      ∃ t, exec .rollbackAdvance s = .next t ∧ t.fus = { s.fus with rollback := s.fus.rollback + 1 } ∧ (s.fus.rollback + 1 < b.rbver → Quiet s t ∧ SameBut [.fus, .sec] s t)
        ∧ (s.fus.rollback + 1 = b.rbver → Raised 0x0B03 s t ∧ SameBut (.fus :: .sec :: evParts) s t))
    ∧ (∀ who v, reaches s who Reg.RST_WDT_KICK = true → (bits v 15 0 = 0x4B1C → exec (.wdtKick who v) s = .next { s with rst := { s.rst with kickAt := s.cnt.aon } }) ∧ (bits v 15 0 ≠ 0x4B1C → exec (.wdtKick who v) s = .next s))
    ∧ (∀ who, reaches s who Reg.RST_FLT = true → exec (.set who) s = .next { s with rst := { s.rst with fault := true } }
      ∧ exec (.faultClear who) s = .next (if s.rst.stage = .recovery then s else { s with rst := { s.rst with fault := false } }))
    ∧ (∃ t, exec .brownoutWarningAssert s = .next t ∧ t.rst = { s.rst with bowarn := true } ∧ t.reg Reg.RST_STAT = s.reg Reg.RST_STAT ||| 0x20
      ∧ ((∀ j m l, NvsCmd.page j ∈ s.nvs.queue → j.src ≠ .cal m l) → RegsBut [Reg.RST_STAT] s t ∧ SameBut [.rst, .regs] s t)
      ∧ ((∃ j m l, NvsCmd.page j ∈ s.nvs.queue ∧ j.src = .cal m l) → t.reg Reg.MSR_CAL_STAT = 0x80000005 ∧ t.calBusy = false ∧ Raised 0x0804 s t))
    ∧ (∃ t, exec .brownoutWarningDeassert s = .next t ∧ t.rst.bowarn = false ∧ t.rbit Reg.RST_STAT 5 = false ∧ (((s.rst.stage ≠ .blocked ∧ s.rst.exit = false) ∨ s.up 2 = false ∨ s.nvs.ready = false) → t.rst = { s.rst with bowarn := false })
      ∧ (s.up 2 = true → s.nvs.ready = true → (s.rst.stage ≠ .blocked → s.rst.exit = true → t.rst.stage = .held 2 ∧ t.reg Reg.RST_FAILCNT = 0) ∧ (s.rst.stage = .blocked → t.rst.stage = .pll ∨ t.rst.stage = .recovery)))

/-- A block reset isolates, clears and releases its domain, the crystal sets and clears its lock, pins record, and GO snapshots every count.
For a domain with a block reset bit. BLOCK_RESET by a requester that reaches it sets the bit; a running domain isolates, NVSC only with no
page write in progress, and one that awaits its clock is in reset again; no other domain changes. SEPARATOR_DRAINED of an isolating domain:
each of its registers holds its reset value but for the level of VPROG in PRS_STAT (R483), and it is in reset while its bit is set, else
awaiting its clock. BLOCK_RESET_RELEASE clears the bit, and a domain in reset awaits its clock. CLOCK_GOOD of one that awaits it: it runs.
RELEASE_PENDING_TIMEOUT of one that awaits it for 10 ms: event 0x0708 and nothing else. For AON and SEC, BLOCK_RESET and its release change
nothing. CRYSTAL_LOCK sets XTAL_OK and XTAL_LOCK while XTAL_EN is 1, and XTAL_STOP of a running crystal clears both with event 0x0709;
neither changes any other register or resets anything. THERMTRIP_ASSERT and THERMTRIP_DEASSERT record the pin. GO by a requester that
reaches CNT_SNAP: each snapshot register holds its count, or 0 where its block is down, CNT_SNAP_VALID says which, and the snapshot number
is one higher. -/
def Obligations.BlockResetsClocksAndSnapshots : Prop :=
  ∀ s : State,
    (∀ (d : Dom) (n a b : Nat), n = domIx d → blockBit n = some (a, b) →
      (∀ who, reaches s who a = true → (∃ t, exec (.blockReset who d) s = .next t ∧ t.rbit a b = true ∧ (∀ e, e ≠ n → t.domSt e = s.domSt e)
          ∧ t.domSt n = (if s.domSt n = .run ∧ ¬(n = 2 ∧ s.nvsGo.nvs.cur ≠ none) then .isolating else if s.domSt n = .releasePending then .inReset else s.domSt n))
        ∧ (∃ t, exec (.blockResetRelease who d) s = .next t ∧ t.rbit a b = false ∧ RegsBut [a] s t ∧ (∀ e, e ≠ n → t.domSt e = s.domSt e) ∧ t.domSt n = (if s.domSt n = .inReset then .releasePending else s.domSt n)
          ∧ SameBut [.regs, .rst] s t))
      ∧ (s.domSt n = .isolating → ∃ t, exec (.separatorDrained d) s = .next t ∧ t.domSt n = (if s.rbit a b then .inReset else .releasePending) ∧ (∀ r, domOfAddr r = n → r ≠ Reg.PRS_STAT → t.reg r = regReset r)
        ∧ (n = 4 → t.reg Reg.PRS_STAT = regReset Reg.PRS_STAT ||| (s.reg Reg.PRS_STAT &&& 0x10000)))
      ∧ (s.domSt n = .releasePending → (∃ t, exec (.clockGood d) s = .next t ∧ t.domSt n = .run) ∧ (10000 ≤ s.domSince n → ∃ t, exec (.releasePendingTimeout d) s = .next t ∧ Raised 0x0708 s t ∧ SameBut evParts s t)))
    ∧ (∀ who d, blockBit (domIx d) = none → exec (.blockReset who d) s = .next s ∧ exec (.blockResetRelease who d) s = .next s)
    ∧ (s.rbit Reg.CLK_CFG 0 = true → exec .crystalLock s = .next (s.setReg Reg.CLK_STAT (s.reg Reg.CLK_STAT ||| 6)))
    ∧ (s.rbit Reg.CLK_STAT 1 = true → ∃ t, exec .xtalStop s = .next t ∧ t.reg Reg.CLK_STAT = s.reg Reg.CLK_STAT &&& ~~~6 ∧ Raised 0x0709 s t ∧ RegsBut [Reg.CLK_STAT] s t ∧ SameBut (evParts ++ [.regs]) s t)
    ∧ exec .thermtripAssert s = .next { s with rst := { s.rst with therm := true } } ∧ exec .thermtripDeassert s = .next { s with rst := { s.rst with therm := false } }
    ∧ (∀ who, reaches s who Reg.CNT_SNAP = true → ∃ t, exec (.go who) s = .next t ∧ (∀ i < 14, t.reg64 (Reg.CNT_SNAPV i) = (if countUp s i then (s.cnt.at i).toNat else 0) ∧ t.rbit Reg.CNT_SNAP_VALID i = countUp s i)
      ∧ t.fld Reg.CNT_SNAP 31 16 = (s.fld Reg.CNT_SNAP 31 16 + 1) % 65536 ∧ SameBut [.regs] s t)

/-- A power target is taken or refused, cores go up and down one at a time, and AON is entered and left by an enabled wake (model's own: log
73, 92, 23). PWR_TARGET_WRITE by a requester that reaches it: before firmware runs, with no change under way, the register alone takes the
value; while it runs, a refused change sets PWR_ERR.REFUSED with event 0x070B and starts nothing, and another is under way, towards AON or,
unless the cores already stand as it asks, its number of cores. While a change of cores is under way: CORE_POWER_UP of the next core below
the goal, that core runs, or is in reset while its block bit is set, and one more is powered; CORE_POWER_DOWN of the last one at or above it
is refused with event 0x070B where the core or an absent DRAM refuses, waits while its arrays are busy, and else puts the core down with one
fewer powered. AON_ENTRY towards AON, with NVS and the arrays quiet and nothing refusing: every domain but AON is down and the device is in
AON with its count running on. CAN_WAKE, and ALARM_WAKE once the AON count has come to PWR_ALARM, in AON where enabled: SEC runs, PWR_WAKE
holds the cause, and a wake is under way. WAKE_PLL_LOCK then: firmware runs, CLK_STAT gains its PLL bits, and the images attached before AON
are attached where the save area holds what was written to it and DRAM runs, or none where DRAM lost them (the area's layout is log entry
23). That a refusal while cores go down ends the change, and that PWR_TARGET takes a value before firmware runs, are the model's choices
(log entries 73 and 92). -/
def Obligations.PowerStates : Prop :=
  ∀ s : State,
    (∀ who v u, reaches s who Reg.PWR_TARGET = true → u = s.putMasked Reg.PWR_TARGET v → s.rst.pwrBusy = false →
      (s.rst.stage ≠ .run → exec (.pwrTargetWrite who v) s = .next u)
      ∧ (s.rst.stage = .run → ∀ b, pwrRefusal u (u.reg Reg.PWR_TARGET) = some b → ∃ t, exec (.pwrTargetWrite who v) s = .next t ∧ t.rbit Reg.PWR_ERR 0 = true ∧ Raised 0x070B s t ∧ t.rst = s.rst)
      ∧ (s.rst.stage = .run → pwrRefusal u (u.reg Reg.PWR_TARGET) = none → ∃ t, exec (.pwrTargetWrite who v) s = .next t ∧ t.reg Reg.PWR_TARGET = u.reg Reg.PWR_TARGET ∧ t.rst.cores = s.rst.cores
        ∧ (bits (u.reg Reg.PWR_TARGET) 1 0 = 0 → t.rst.toAon = true ∧ t.rst.pwrBusy = true)
        ∧ (bits (u.reg Reg.PWR_TARGET) 1 0 ≠ 0 → t.rst.toAon = false ∧ t.rst.pwrGoal = u.reg Reg.PWR_TARGET ∧ (t.rst.pwrBusy = true ↔ s.rst.cores ≠ goalCores (u.reg Reg.PWR_TARGET)))))
    ∧ (s.rst.stage = .run → s.rst.pwrBusy = true → s.rst.toAon = false →
      (∀ c : CoreId, s.rst.cores = c.val → c.val < goalCores s.rst.pwrGoal → ∃ t, exec (.corePowerUp c) s = .next t ∧ t.rst.cores = c.val + 1 ∧ t.fld Reg.PWR_STAT 13 8 = c.val + 1
        ∧ t.domSt (9 + c.val) = (if s.rbit Reg.RST_CORE c.val then .inReset else .run))
      ∧ (∀ c : CoreId, s.rst.cores = c.val + 1 → goalCores s.rst.pwrGoal ≤ c.val →
        ((coreRefuses s c.val = true ∨ s.dramBytes = 0) → ∃ t, exec (.corePowerDown c) s = .next t ∧ t.rbit Reg.PWR_ERR 0 = true ∧ RaisedAmong 0x070B s t ∧ t.rst.cores = s.rst.cores ∧ t.rst.pwrBusy = false)
        ∧ (coreRefuses s c.val = false → s.dramBytes ≠ 0 → coreQuiet s c.val = false → exec (.corePowerDown c) s = .next s)
        ∧ (coreRefuses s c.val = false → s.dramBytes ≠ 0 → coreQuiet s c.val = true → ∃ t, exec (.corePowerDown c) s = .next t ∧ t.rst.cores = c.val ∧ t.domSt (9 + c.val) = .down)))
    ∧ (∀ u, u = s.nvsGo → s.rst.stage = .run → s.rst.toAon = true →
      (∀ b, pwrRefusal u 0 = some b → ∃ t, exec .aonEntry s = .next t ∧ t.rst.stage = .run ∧ t.rst.toAon = false ∧ RaisedAmong 0x070B s t)
      ∧ (pwrRefusal u 0 = none → u.nvs.cur = none → u.nvs.queue = [] → (∀ c < u.rst.cores, coreQuiet u c = true) →
        ∃ t, exec .aonEntry s = .next t ∧ t.rst.stage = .aon ∧ t.rst.cores = 0 ∧ (∀ d < 41, 1 ≤ d → t.domSt d = .down) ∧ t.cnt.aon = s.cnt.aon))
    ∧ (s.rst.stage = .aon → ∀ j cause, ((∃ n : Fin 4, j = .canWake n ∧ s.rbit Reg.PWR_CFG (4 + n.val) = true ∧ cause = 2 ^ n.val) ∨ (j = .alarmWake ∧ s.rbit Reg.PWR_CFG 8 = true ∧ s.reg64 Reg.PWR_ALARM ≠ 0 ∧ s.reg64 Reg.PWR_ALARM ≤ s.cnt.aon.toNat ∧ cause = 16)) →
      ∃ t, exec j s = .next t ∧ t.rst.stage = .wake ∧ t.domSt 1 = .run ∧ t.reg Reg.PWR_WAKE = BitVec.ofNat 32 cause ∧ t.rst.waking = true)
    ∧ (s.rst.stage = .wake → ∃ t, exec .wakePllLock s = .next t ∧ t.rst.stage = .run ∧ t.reg Reg.CLK_STAT = s.reg Reg.CLK_STAT ||| 0x79
      ∧ (s.psave.images = none → t.prs.images = s.prs.images.map (fun e => (e.1, { e.2 with att := false, res := [] })))
      ∧ (∀ l o bs, s.psave.images = some l → bs = Config.imageBytes l → o = s.saveBase + 0xFFFC00 → s.rbit Reg.RST_BLK 3 = false →
        s.bytes 2 o (min (min 1024 (s.dramBytes - o)) bs.length) = bs.take 1024 → t.prs.images = l))

/-- A doorbell fetches commands or is refused, completions are written in order while there is room, and queue registers take writes while
EN is 0 (log 14, 60). For an access that reaches its register. SQ_DOORBELL: on a disabled queue nothing changes; a tail outside the queue is
HST_ERR bit 4 and event 0x0A03; a fetch that fails with entries still to come clears EN with HST_ERR bit 5 and event 0x0A03, after the
entries fetched before it have started; a tail one past the head fetches one command, which is in progress when its form is legal, it is no
QUOTE and the device is not in recovery mode (that a command is kept as fetched is log entry 60). COMMAND_COMPLETION with the completion
queue enabled and room: the oldest completion stands in host memory at the tail, waits no longer, and the tail moves on; without room, which
is at all but one entry (log entry 14), nothing changes. CQ_HEAD_WRITE and EQ_HEAD_WRITE store the head, and where EQ_HEAD_WRITE makes room
in a queue that has lost records event 0x0A01 reports them. QUEUE_CONFIG_WRITE: of a queue's configuration register while its EN is 0 it
stores the value under its masks; while EN is 1 a write with EN 1 counts in HST_ERR_CNT with HST_ERR bit 3 and one with EN 0 clears EN; of
another register of the queue it takes effect only while EN is 0, and counts otherwise; elsewhere nothing changes. -/
def Obligations.HostQueues : Prop :=
  ∀ s : State,
    (∀ (q : Fin 4) (v : W32) (fails : Option Nat) (h : HQueue) (len : Nat), h = s.hq q.val → len = ringLen (s.fld (Reg.HST_SQ_CFG 0 q.val) 3 0) → reaches s .portA (Reg.HST_SQ_TAIL 0 q.val) = true →
      (s.rbit (Reg.HST_SQ_CFG 0 q.val) 31 = false → exec (.sqDoorbell q v fails) s = .next s)
      ∧ (s.rbit (Reg.HST_SQ_CFG 0 q.val) 31 = true →
        (len ≤ bits v 11 0 → ∃ t, exec (.sqDoorbell q v fails) s = .next t ∧ t.rbit (Reg.HST_ERR 0) 4 = true ∧ Raised 0x0A03 s t ∧ RegsBut [Reg.HST_ERR 0, Reg.HST_ERR_CNT 0] s t ∧ SameBut (evParts ++ [.regs]) s t)
        ∧ (bits v 11 0 < len → fails = some 0 → h.sqHead ≠ bits v 11 0 → ∃ t, exec (.sqDoorbell q v fails) s = .next t ∧ t.rbit (Reg.HST_SQ_CFG 0 q.val) 31 = false ∧ t.rbit (Reg.HST_ERR 0) 5 = true ∧ Raised 0x0A03 s t
          ∧ t.hq q.val = { h with sqTail := bits v 11 0 })
        ∧ (∀ raw : List Byte, bits v 11 0 < len → h.sqHead < len → raw = s.mem.host.read (s.reg64 (Reg.HST_SQ_BASE 0 q.val) + 64 * h.sqHead) 64 →
          cmdForm raw = true → cmdFields raw = true → s.rst.stage ≠ .recovery → leNat (raw.take 1) ≠ 7 →
          ∀ e : HCmd, e = ⟨BitVec.ofNat 32 (leNat ((raw.drop 4).take 4)), BitVec.ofNat 8 (leNat (raw.take 1)), raw, (h.sqHead + 1) % len, false⟩ →
          (bits v 11 0 = (h.sqHead + 1) % len → (fails = none ∨ ∃ k, 1 ≤ k ∧ fails = some k) → ∃ t, exec (.sqDoorbell q v fails) s = .next t ∧ SameBut [.host] s t ∧ t.hq q.val = { h with sqHead := bits v 11 0, sqTail := bits v 11 0, prog := h.prog ++ [e] })
          ∧ (bits v 11 0 = (h.sqHead + 2) % len → fails = some 1 → ∃ t, exec (.sqDoorbell q v fails) s = .next t ∧ t.rbit (Reg.HST_SQ_CFG 0 q.val) 31 = false ∧ t.rbit (Reg.HST_ERR 0) 5 = true ∧ Raised 0x0A03 s t
            ∧ t.hq q.val = { h with sqHead := (h.sqHead + 1) % len, sqTail := bits v 11 0, prog := h.prog ++ [e] }))))
    ∧ (∀ (q : Fin 4) (h : HQueue) (len a : Nat) (d : HDone) (r : List HDone), h = s.hq q.val → len = ringLen (s.fld (Reg.HST_CQ_CFG 0 q.val) 3 0) → a = s.reg64 (Reg.HST_CQ_BASE 0 q.val) + 16 * h.cqTail → h.ended = d :: r →
      (s.rbit (Reg.HST_CQ_CFG 0 q.val) 31 = true → ringFull h.cqHead h.cqTail len = false → ∃ t, exec (.commandCompletion q) s = .next t ∧ (t.hq q.val).ended = r ∧ (t.hq q.val).cqTail = (h.cqTail + 1) % len
        ∧ (∀ i < 16, t.mem.host.byte (a + i) = (doneBytes q.val h.phase d).getD i 0) ∧ (∀ x, ¬(a ≤ x ∧ x < a + 16) → t.mem.host.byte x = s.mem.host.byte x) ∧ SameBut [.host, .hostMem, .ev] s t)
      ∧ ((s.rbit (Reg.HST_CQ_CFG 0 q.val) 31 = false ∨ ringFull h.cqHead h.cqTail len = true) → exec (.commandCompletion q) s = .next s))
    ∧ (∀ (q : Fin 4) (v : W32), reaches s .portA (Reg.HST_CQ_HEAD 0 q.val) = true → ∃ t, exec (.cqHeadWrite q v) s = .next t ∧ t.hq q.val = { s.hq q.val with cqHead := bits v 11 0 } ∧ SameBut [.host] s t)
    ∧ (∀ (p : Fin 2) (v : W32), reaches s (portWho p.val) (Reg.HST_EQ_HEAD p.val) = true → ∃ t, exec (.eqHeadWrite p v) s = .next t ∧ (t.eq p.val).head = bits v 11 0 ∧ SameBut evParts s t
      ∧ ((s.eq p.val).lostNow = 0 → t.eq p.val = { s.eq p.val with head := bits v 11 0 } ∧ Quiet s t ∧ SameBut [.ev] s t)
      ∧ (s.rbit (Reg.HST_EQ_CFG p.val) 31 = true → (s.eq p.val).lostNow ≠ 0 → ringFull (bits v 11 0) (s.eq p.val).tail (ringLen (s.fld (Reg.HST_EQ_CFG p.val) 3 0)) = false → Raised 0x0A01 s t ∧ (t.eq p.val).lostNow = 0))
    ∧ (∀ (p : Fin 2) (off : BitVec 12) (v : W32) (b : Nat), b = baseHst p.val → reaches s (portWho p.val) (b + off.toNat) = true →
      (cfgOff off.toNat = none → exec (.queueConfigWrite p off v) s = .next s)
      ∧ (∀ c, cfgOff off.toNat = some c → off.toNat = c → s.rbit (b + c) 31 = false → ∃ t, exec (.queueConfigWrite p off v) s = .next t ∧ t.reg (b + c) = (s.putMasked (b + c) v).reg (b + c) ∧ RegsBut [b + c] s t ∧ SameBut (evParts ++ [.regs, .host]) s t)
      ∧ (∀ c, cfgOff off.toNat = some c → off.toNat = c → s.rbit (b + c) 31 = true → bit v 31 = false → ∃ t, exec (.queueConfigWrite p off v) s = .next t ∧ t.rbit (b + c) 31 = false ∧ RegsBut [b + c] s t)
      ∧ (∀ c, cfgOff off.toNat = some c → s.rbit (b + c) 31 = true → (off.toNat ≠ c ∨ bit v 31 = true) → ∃ t, exec (.queueConfigWrite p off v) s = .next t ∧ t.rbit (Reg.HST_ERR p.val) 3 = true
        ∧ t.reg (Reg.HST_ERR_CNT p.val) = satAdd (s.reg (Reg.HST_ERR_CNT p.val)) 1 ∧ RegsBut [Reg.HST_ERR p.val, Reg.HST_ERR_CNT p.val] s t ∧ SameBut [.regs, .req] s t)
      ∧ (∀ c, cfgOff off.toNat = some c → off.toNat ≠ c → s.rbit (b + c) 31 = false → exec (.queueConfigWrite p off v) s = .next (s.writeWord (portWho p.val) (b + off.toNat) v)))

/-- Host commands in progress end with their status and result, or start what they ask for (model's own: log 43, 73, 75, 151). For a command
in progress on a queue. NOP ends DONE. PORTCFG ends DONE, the trim written with the port split that its operand names, and waits while the
store is not ready or the brown-out warning stands (log entries 73 and 151). QUOTE with a buffer below 1,552 bytes ends REFUSED 1; with room
it is signed with event 0x0B06, and where host memory fails it ends HOSTERR with event 0x0A05, else DONE with the quote's length, and with
no event queue enabled the quote with its magic stands at its address and every other byte of host memory is as before. COPY with FAB
running, not yet copying, and a firmware channel free: in range the copy is on the lowest one, else it ends REFUSED 1. CHURN and TEST for an
array that refuses end REFUSED 2, with 16 requests queued REFUSED 3, and otherwise stand in the queue of its core, nothing else changing
where the array is busy and nothing else waits. POWER, not waiting, with firmware running: a refused change ends it REFUSED 1 with event
0x070B; one to where the cores already stand, no other waiting, ends it DONE; another number of cores makes it wait for the change. The
order of refusal codes, what a waiting POWER or COPY does and PORTCFG's place in the trim are the model's choices (log entries 43, 73, 75
and 151). -/
def Obligations.HostCommands : Prop :=
  ∀ (s : State) (q : Fin 4) (tag : W32) (op : Nat) (c : HCmd), s.findCmd q.val tag op = some c →
    (op = 0 → ∃ t, exec (.nop q tag) s = .next t ∧ CmdEnds s t q.val c 0 0 ∧ SameBut [.host] s t)
    ∧ (op = 8 → ((s.up 2 = false ∨ s.nvs.ready = false ∨ s.rst.bowarn = true) → exec (.portcfg q tag) s = .next s)
      ∧ (∀ b, b = (c.arg 8 1 == 1) → s.up 2 = true → s.nvs.ready = true → s.rst.bowarn = false → ∃ t, exec (.portcfg q tag) s = .next t ∧ CmdEnds s t q.val c 0 0 ∧ t.mem.nvs = (s.writeSplit b).mem.nvs
        ∧ (∀ p : List Byte, p.length ≤ abTrim.max → trimSplit (setTrimSplit p b) = b)))
    ∧ (op = 7 → (∀ ok : Bool, c.arg 48 4 < 1552 → ∃ t, exec (.quote q tag ok) s = .next t ∧ CmdEnds s t q.val c 2 1 ∧ SameBut [.host] s t)
      ∧ (1552 ≤ c.arg 48 4 → ∃ t, exec (.quote q tag false) s = .next t ∧ CmdEnds s t q.val c 4 0 ∧ Raised 0x0A05 s t ∧ RaisedAmong 0x0B06 s t ∧ SameBut (.host :: evParts) s t)
      ∧ (1552 ≤ c.arg 48 4 → ∃ t n, exec (.quote q tag true) s = .next t ∧ n ≤ 1280 ∧ CmdEnds s t q.val c 0 (272 + n) ∧ Raised 0x0B06 s t ∧ SameBut (.host :: evParts) s t
        ∧ (s.rbit (Reg.HST_EQ_CFG 0) 31 = false → s.rbit (Reg.HST_EQ_CFG 1) 31 = false → t.mem.host.readN (c.arg 40 8) 4 = 0x54515843
          ∧ ∀ x, ¬(c.arg 40 8 ≤ x ∧ x < c.arg 40 8 + 272 + n) → t.mem.host.byte x = s.mem.host.byte x)))
    ∧ (op = 3 → s.up 4 = true → s.copying q.val tag = false → ∀ (ch n : Nat) (sa da : W64), ch < 3 → (∀ b < ch, Tab.find? s.eng.dma b ≠ none) → Tab.find? s.eng.dma ch = none →
      sa = BitVec.ofNat 64 (c.arg 8 8) → da = BitVec.ofNat 64 (c.arg 16 8) → n = c.arg 24 4 →
      (dmaBad s sa n = false → dmaBad s da n = false → ∃ t, exec (.copy q tag) s = .next t ∧ Tab.find? t.eng.dma ch = some ⟨sa, da, n, none, some (q.val, tag)⟩
        ∧ RegsBut [Reg.DMA_SRC ch, Reg.DMA_SRC ch + 4, Reg.DMA_DST ch, Reg.DMA_DST ch + 4, Reg.DMA_LEN ch, Reg.DMA_CTL ch, Reg.DMA_STAT ch] s t ∧ SameBut [.regs, .eng] s t)
      ∧ ((dmaBad s sa n = true ∨ dmaBad s da n = true) → ∃ t, exec (.copy q tag) s = .next t ∧ CmdEnds s t q.val c 2 1 ∧ t.eng = s.eng))
    ∧ (∀ (j : Instr) (a k : Nat), a = c.arg 8 10 % 2048 → k = a / 64 →
      (op = 4 → j = .churn q tag → asking (s.core k).churns q.val tag = false → (s.refuses a = true → ∃ t, exec j s = .next t ∧ CmdEnds s t q.val c 2 2 ∧ SameBut [.host] s t)
        ∧ (s.refuses a = false → 16 ≤ (s.core k).churns.length → ∃ t, exec j s = .next t ∧ CmdEnds s t q.val c 2 3 ∧ SameBut [.host] s t)
        ∧ (s.refuses a = false → (s.core k).churns.length < 16 → ∃ t r, exec j s = .next t ∧ r ∈ (t.core k).churns ∧ r.arr = a ∧ r.src = .host q.val tag
          ∧ (NoneWait s k → s.idle a = false → (t.core k).churns = [r] ∧ SameBut [.cores] s t)))
      ∧ (op = 5 → j = .test q tag → asking (s.core k).tests q.val tag = false → (s.refuses a = true → ∃ t, exec j s = .next t ∧ CmdEnds s t q.val c 2 2 ∧ SameBut [.host] s t)
        ∧ (s.refuses a = false → 16 ≤ (s.core k).tests.length → ∃ t, exec j s = .next t ∧ CmdEnds s t q.val c 2 3 ∧ SameBut [.host] s t)
        ∧ (s.refuses a = false → (s.core k).tests.length < 16 → ∃ t r, exec j s = .next t ∧ r ∈ (t.core k).tests ∧ r.arr = a ∧ r.src = .host q.val tag
          ∧ (NoneWait s k → s.idle a = false → (t.core k).tests = [r] ∧ SameBut [.cores] s t))))
    ∧ (∀ (u : State) (g : W32), op = 6 → (q.val, tag) ∉ s.rst.pwrCmds → s.rst.stage = .run → u = s.putMasked Reg.PWR_TARGET (w32 (c.arg 8 1 + 256 * c.arg 9 1)) → g = u.reg Reg.PWR_TARGET →
      (∀ b, pwrRefusal u g = some b → ∃ t, exec (.power q tag) s = .next t ∧ CmdEnds s t q.val c 2 1 ∧ Raised 0x070B s t)
      ∧ (pwrRefusal u g = none → bits g 1 0 ≠ 0 → s.rst.cores ≠ goalCores g → ∃ t, exec (.power q tag) s = .next t ∧ t.rst.pwrCmds = s.rst.pwrCmds ++ [(q.val, tag)] ∧ t.rst.pwrGoal = g ∧ t.host = s.host)
      ∧ (pwrRefusal u g = none → bits g 1 0 ≠ 0 → s.rst.cores = goalCores g → s.rst.pwrCmds = [] → ∃ t, exec (.power q tag) s = .next t ∧ CmdEnds s t q.val c 0 0 ∧ t.rst.pwrCmds = []))

/-- Port resets clear queues, link and D3hot are recorded, host accesses reach memory or are refused, and a lower word latches its upper one
(log 61, 134, 152, 153). While HST runs. HOT_RESET, LINK_DOWN and FUNCTION_LEVEL_RESET: the port's event queue and command queues are
disabled, its HST_ERR is 0, it is in D0, event 0x0A02; on port A no completion waits and the completion of every command in progress is to
be discarded; its MSI-X is disabled; LINK_DOWN clears the link's bits. PCIE_LINK_UP stores width and speed, of no more lanes than the port
has: 8 of port A alone, 4 each in split mode, else it does nothing; D3HOT_CHANGE stores D3hot or the MSI-X bits, which may send pending
vectors (log entry 152); each changes no other register. HOST_MEMORY_READ: in D3hot the host receives an error; where a domain does not
answer too, with event 0x0A03 and HST_ERR bit 0; else the bytes as stored, poisoned when a group is uncorrectable. HOST_MEMORY_WRITE in D0:
where a domain does not answer it is refused with event 0x0A03; of port B it counts in HST_WDROP (in both ports' registers, log entry 153)
and no byte changes; one that meets an uncorrectable group it covers in part sets HST_ERR bit 2 with event 0x0A04; of port A within a tank
without ECC errors its bytes are there and all others as before; in D3hot nothing changes. LOWER_WORD_READ of a 64-bit register by a
requester that its domain answers: its upper word, for port B 0 where R445 hides it, is latched for that requester, and nothing else
changes; of HST's copy of GLB, while FAB does not run, it is not refused; of the NVS read window, the store ready and idle, the requester
gets the stored word. That a port reset puts the port in D0 is PRESUMED (log entry 61), and the record of the NVS window's read is the
model's own (log entry 134). -/
def Obligations.HostPortsAndMemory : Prop :=
  ∀ s : State, s.up 6 = true →
    (∀ (port : Fin 2) (p : Nat) (j : Instr), p = port.val → (j = .hotReset port ∨ j = .linkDown port ∨ j = .functionLevelReset port) →
      ∃ t, exec j s = .next t ∧ Raised 0x0A02 s t ∧ t.rbit (Reg.HST_EQ_CFG p) 31 = false ∧ t.reg (Reg.HST_ERR p) = 0 ∧ t.rbit (Reg.HST_PSTAT p) 10 = false ∧ (t.portCfg p).msix = false ∧ (j = .linkDown port → t.fld (Reg.HST_PSTAT p) 7 0 = 0)
        ∧ (p = 0 → ∀ q < 4, t.rbit (Reg.HST_SQ_CFG 0 q) 31 = false ∧ t.rbit (Reg.HST_CQ_CFG 0 q) 31 = false ∧ (t.hq q).ended = [] ∧ (∀ c ∈ (t.hq q).prog, c.mute = true) ∧ (t.hq q).prog.length = (s.hq q).prog.length))
    ∧ (∀ (p : Fin 2) (w : Fin 9) (x : Fin 5) (n : Nat), n = (if s.trimmed = true ∧ s.rst.split = true then 4 else if p.val = 0 then 8 else 0) → ((n < w.val ∨ n = 0) → exec (.pcieLinkUp p w x) s = .next s) ∧ (w.val ≤ n → 0 < n → ∃ t, exec (.pcieLinkUp p w x) s = .next t ∧ t.fld (Reg.HST_PSTAT p.val) 7 0 = 1 + 2 * w.val + 32 * x.val
      ∧ (∀ b, 8 ≤ b → b < 32 → t.rbit (Reg.HST_PSTAT p.val) b = s.rbit (Reg.HST_PSTAT p.val) b) ∧ RegsBut [Reg.HST_PSTAT p.val] s t ∧ SameBut [.regs] s t))
    ∧ (∀ (p : Fin 2) (on : Bool), ∃ t, exec (.d3hotChange p (.power on)) s = .next t ∧ t.rbit (Reg.HST_PSTAT p.val) 10 = on ∧ RegsBut [Reg.HST_PSTAT p.val] s t ∧ SameBut [.regs] s t)
    ∧ (∀ (p : Fin 2) (e m : Bool), ∃ t, exec (.d3hotChange p (.msix e m)) s = .next t ∧ t.portCfg p.val = ⟨e, m⟩ ∧ SameBut [.host, .ev] s t
      ∧ (e = true → m = false → ∀ v < 64, s.rbit (Reg.MSIX_CTL p.val v) 0 = false → Tab.getD t.ev.pba (p.val * 64 + v) false = false))
    ∧ (∀ (p : Fin 2) (bar4 : Bool) (off : BitVec 36) (n : Nat) (ps : List BarPart), ps = barParts s bar4 off.toNat n →
      (s.rbit (Reg.HST_PSTAT p.val) 10 = true → exec (.hostMemoryRead p bar4 off n) s = .next (s.hostGot none))
      ∧ (s.rbit (Reg.HST_PSTAT p.val) 10 = false → (barUp s bar4 ps = false → ∃ t, exec (.hostMemoryRead p bar4 off n) s = .next t ∧ t.host.rd = none ∧ t.rbit (Reg.HST_ERR p.val) 0 = true ∧ Raised 0x0A03 s t)
        ∧ (barUp s bar4 ps = true → ∃ t, exec (.hostMemoryRead p bar4 off n) s = .next t ∧ t.host.rd = some (ps.flatMap (partBytes s), ps.any (partPoison s)) ∧ t.mem.tank.cells = s.mem.tank.cells
          ∧ t.mem.cbuf.cells = s.mem.cbuf.cells ∧ t.mem.dram.cells = s.mem.dram.cells ∧ SameBut (evParts ++ [.regs, .host, .tank, .cbuf, .dram]) s t)))
    ∧ (∀ (p : Fin 2) (bar4 : Bool) (off : BitVec 36) (data : List Byte) (ps : List BarPart), ps = barParts s bar4 off.toNat data.length →
      (s.rbit (Reg.HST_PSTAT p.val) 10 = true → exec (.hostMemoryWrite p bar4 off data) s = .next s)
      ∧ (s.rbit (Reg.HST_PSTAT p.val) 10 = false → (barUp s bar4 ps = false → ∃ t, exec (.hostMemoryWrite p bar4 off data) s = .next t ∧ Raised 0x0A03 s t ∧ SameBut (evParts ++ [.regs]) s t)
        ∧ (barUp s bar4 ps = true → p.val = 1 → ∃ t, exec (.hostMemoryWrite p bar4 off data) s = .next t ∧ t.reg (Reg.HST_WDROP 0) = satAdd (s.reg (Reg.HST_WDROP 0)) 1 ∧ t.reg (Reg.HST_WDROP 1) = satAdd (s.reg (Reg.HST_WDROP 1)) 1 ∧ SameBut (evParts ++ [.regs, .host]) s t)
        ∧ (barUp s bar4 ps = true → p.val = 0 → ps.any (partPwunc s) = true → ∃ t, exec (.hostMemoryWrite p bar4 off data) s = .next t ∧ t.rbit (Reg.HST_ERR 0) 2 = true ∧ RaisedAmong 0x0A04 s t)
        ∧ (barUp s bar4 ps = true → p.val = 0 → bar4 = false → off.toNat + data.length ≤ 2 ^ 27 → s.mem.tank.ecc = [] → ∃ t, exec (.hostMemoryWrite p bar4 off data) s = .next t
          ∧ (∀ i < data.length, t.mem.tank.byte (off.toNat + i) = data.getD i 0) ∧ (∀ x, ¬(off.toNat ≤ x ∧ x < off.toNat + data.length) → t.mem.tank.byte x = s.mem.tank.byte x) ∧ SameBut [.tank] s t)))
    ∧ (∀ (p : Nat) (who : Who) (addr : BarAddr), whoPort who = some p → s.rbit (Reg.HST_PSTAT p) 10 = false → barAligned addr = true → s.up 4 = false → glbCopy addr.off.toNat = true → exec (.lowerWordRead who addr) s = .next s)
    ∧ (∀ (who : Who) (addr : BarAddr) (a : Nat) (r : RegRow), a = addr.off.toNat → regRow a = some r → r.wide = 1 → a % 4 = 0 → s.up (domOfAddr a) = true →
      (∀ p, whoPort who = some p → addr.word = true ∧ s.reach a = true ∧ s.rbit (Reg.HST_PSTAT p) 10 = false) →
      ∃ t, exec (.lowerWordRead who addr) s = .next t ∧ (t.reqSt who).latch = some (a, if who = .portB ∧ portBHides (a + 4) = true then 0 else s.readReg (a + 4)) ∧ (t.reqSt who).held = (s.reqSt who).held ∧ (∀ w, whoIx w ≠ whoIx who → t.reqSt w = s.reqSt w) ∧ SameBut [.req] s t)
    ∧ (∀ (who : Who) (addr : BarAddr) (o : Nat), addr.off.toNat = 0x280000 + o → o < 0x40000 → o % 4 = 0 → s.up 2 = true → (∀ p, whoPort who = some p → addr.word = true ∧ s.reach addr.off.toNat = true ∧ s.rbit (Reg.HST_PSTAT p) 10 = false) →
      s.nvs.ready = true → s.nvs.cur = none → s.nvs.queue = [] → ∃ t, exec (.lowerWordRead who addr) s = .next t ∧ t.nvs.got = some (whoIx who, o, BitVec.ofNat 32 (s.mem.nvs.readN o 4)))

/-- Mailbox bundles run or reload only when they pass, keys are programmed once, debug scopes need a challenge, key and signature (log 64,
65, 135, 137, 155). BOOT and RELOAD of port A, reaching the mailbox: with none in progress each is in progress in its own stage (waiting for
a bundle, recovery) and ends with code 1 in another; with one in progress code 1 is reported and that one goes on. MAILBOX_BUNDLE_READ of
one in progress: an unreadable bundle ends with code 2; one that fails a check with code 4 (rollback) or 3 and event 0x0B01; one that passes
runs for BOOT, and for RELOAD stands at QSPI 0 but for its first word, MAGIC, which the next such command writes with code 0 (in two steps,
log entry 155), or ends with code 5 when the flash failed. For a requester that reaches the SEC register: MREVOKE revokes the model key
slot, LOCK sets LOCK, SETREQ sets SIGREQ, MKEY_PROG programs an unprogrammed slot from SEC_DBG_BUF and leaves a programmed one; each changes
nothing else. DEBUG_CHALLENGE draws the challenge, but not for port B. SUBMIT: in lockout code 3, the challenge being spent; without a
challenge a failure with code 2; with a key or signature that does not match one with code 1; a third failure sets LOCKOUT; each with event
0x0B05. With both matching the scope is granted, the challenge is spent, code 0, event 0x0B04. DEBUG_LOCK ends every grant and disarms every
perturbation. Mailbox codes in the wrong stage, how a challenge is spent, and MKEY_PROG's source and failures are the model's choices (log
entries 64, 65, 135 and 137). -/
def Obligations.MailboxKeysAndDebugUnlock : Prop :=
  ∀ s : State,
    (∀ (j : Instr) (op : Nat) (stg : Stage), (j = .boot ∧ op = 1 ∧ stg = .mailbox ∨ j = .reload ∧ op = 2 ∧ stg = .recovery) → reaches s .portA (Reg.HST_MBX_CMD 0) = true →
      (s.host.mbx = 0 → s.rst.stage = stg → ∃ t, exec j s = .next t ∧ t.host = { s.host with mbx := op } ∧ t.reg (Reg.HST_MBX_STAT 0) = s.reg (Reg.HST_MBX_STAT 0) ||| 1 ∧ RegsBut [Reg.HST_MBX_STAT 0] s t ∧ SameBut [.regs, .host] s t)
      ∧ (s.host.mbx = 0 → s.rst.stage ≠ stg → ∃ t, exec j s = .next t ∧ t.host = s.host ∧ t.reg (Reg.HST_MBX_STAT 0) = 0x80000010 ∧ RegsBut [Reg.HST_MBX_STAT 0] s t ∧ SameBut [.regs] s t)
      ∧ (s.host.mbx ≠ 0 → ∃ t, exec j s = .next t ∧ t.fld (Reg.HST_MBX_STAT 0) 7 4 = 1 ∧ RegsBut [Reg.HST_MBX_STAT 0] s t ∧ SameBut [.regs] s t))
    ∧ (∀ (ok qok : Bool) (o c : Nat) (n : Nat), s.host.mbx ≠ 0 → s.host.mbx ≠ 3 → o = s.reg64 (Reg.HST_MBX_ADDR 0) → c = bundleCheck s s.mem.host o (min 0x800000 (s.reg (Reg.HST_MBX_LEN 0)).toNat) →
      n = s.mem.host.readN (o + 12) 4 + s.mem.host.readN (o + 16) 2 → ∃ t, exec (.mailboxBundleRead ok qok) s = .next t ∧ (ok = false ∨ c ≠ 0 → t.host = { s.host with mbx := 0 })
        ∧ (ok = false → t.reg (Reg.HST_MBX_STAT 0) = 0x80000020 ∧ SameBut [.regs, .host] s t)
        ∧ (ok = true → c ≠ 0 → t.reg (Reg.HST_MBX_STAT 0) = (if c = 3 then 0x80000040 else 0x80000030) ∧ Raised 0x0B01 s t)
        ∧ (ok = true → c = 0 → s.host.mbx = 1 → t.host.mbx = 0 ∧ t.reg (Reg.HST_MBX_STAT 0) = 0x80000000 ∧ t.rst.stage = .run ∧ t.sec.bundle = some (bundleOf s.mem.host o 2))
        ∧ (ok = true → c = 0 → s.host.mbx ≠ 1 → qok = true → t.host = { s.host with mbx := 3 } ∧ (∀ i < 4, t.mem.qspi.byte i = 0) ∧ (∀ i < n, 4 ≤ i → t.mem.qspi.byte i = s.mem.host.byte (o + i)) ∧ (∀ i, n ≤ i → t.mem.qspi.byte i = s.mem.qspi.byte i) ∧ SameBut [.host, .qspi] s t)
        ∧ (ok = true → c = 0 → s.host.mbx ≠ 1 → qok = false → t.host.mbx = 0 ∧ t.reg (Reg.HST_MBX_STAT 0) = 0x80000050 ∧ SameBut [.regs, .host] s t))
    ∧ (∀ ok qok, s.host.mbx = 3 → ∃ t, exec (.mailboxBundleRead ok qok) s = .next t ∧ t.host = { s.host with mbx := 0 } ∧ SameBut [.regs, .host, .qspi] s t ∧ RegsBut [Reg.HST_MBX_STAT 0] s t
      ∧ (qok = true → t.reg (Reg.HST_MBX_STAT 0) = 0x80000000 ∧ t.mem.qspi.read 0 4 = [0x43, 0x58, 0x46, 0x57] ∧ (∀ i, 4 ≤ i → t.mem.qspi.byte i = s.mem.qspi.byte i))
      ∧ (qok = false → t.reg (Reg.HST_MBX_STAT 0) = 0x80000050 ∧ t.mem = s.mem))
    ∧ (∀ who, (reaches s who Reg.SEC_KEYREV = true → exec (.mrevoke who) s = .next { s with fus := { s.fus with mkeyRev := true } })
      ∧ (reaches s who Reg.SEC_LOCK = true → exec (.lock who) s = .next { s with sec := { s.sec with lock := true } })
      ∧ (reaches s who Reg.SEC_MKEY_PROG = true → exec (.setreq who) s = .next { s with fus := { s.fus with sigreq := true } }
        ∧ exec (.mkeyProg who) s = .next (if s.fus.mkey.isSome then s else { s with fus := { s.fus with mkey := some (BitVec.ofNat 256 (leNat (dbgBuf s 0 32))) } })))
    ∧ (∀ (who : Who) (chal : BitVec 256), (who = .portB → exec (.debugChallenge who chal) s = .next s)
      ∧ (who ≠ .portB → reaches s who (Reg.SEC_DBG_CHAL 0) = true → exec (.debugChallenge who chal) s = .next { s with sec := { s.sec with chal := some chal } }))
    ∧ (∀ (who : Who) (scope : BitVec 2), reaches s who Reg.SEC_DBG_CMD = true →
      (s.sec.lockout = true → ∃ t, exec (.submit who scope) s = .next t ∧ t.sec = { s.sec with chal := none } ∧ t.fld Reg.SEC_DBG_STAT 3 0 = 3 ∧ Raised 0x0B05 s t)
      ∧ (∀ n, s.sec.lockout = false → n = min 3 (s.sec.fails + 1) →
        (s.sec.chal = none → ∃ t, exec (.submit who scope) s = .next t ∧ t.sec = { s.sec with fails := n, lockout := decide (n ≥ 3) } ∧ t.fld Reg.SEC_DBG_STAT 3 0 = 2 ∧ Raised 0x0B05 s t)
        ∧ (∀ c msg key, s.sec.chal = some c → msg = leBytes 32 c.toNat ++ leBytes 8 s.fus.uid.toNat ++ leBytes 1 scope.toNat → key = dbgBuf s 0 1793 →
          ((keySlotOf s key = none ∨ Config.falconVerify key (shake256 msg) (dbgBuf s 0x800 2048) = false) → ∃ t, exec (.submit who scope) s = .next t ∧ t.sec = { s.sec with fails := n, lockout := decide (n ≥ 3), chal := none }
            ∧ t.fld Reg.SEC_DBG_STAT 3 0 = 1 ∧ Raised 0x0B05 s t)
          ∧ (∀ k, keySlotOf s key = some k → Config.falconVerify key (shake256 msg) (dbgBuf s 0x800 2048) = true → ∃ t, exec (.submit who scope) s = .next t ∧ t.sec = { s.sec with chal := none, scopes := s.sec.scopes ||| scope }
            ∧ t.fld Reg.SEC_DBG_STAT 3 0 = 0 ∧ Raised 0x0B04 s t))))
    ∧ (∀ who, reaches s who Reg.SEC_DBG_CMD = true → ∃ t, exec (.debugLock who) s = .next t ∧ t.sec = { s.sec with scopes := 0 } ∧ t.pert = [])

/-- A firmware key slot is revoked by a write, except the running bundle's slot or the last one left, so one always remains. REVOKE of slot
k by a requester that reaches SEC_KEYREV. When k is the slot of the running bundle, or the other three slots are all revoked: the fuses are
unchanged and event 0x0B02 is raised, with nothing else changed but the event queues. Otherwise slot k is revoked and no other slot or part
of the state changes. In both cases a device that has a slot left that is not revoked has one left afterwards. -/
def Obligations.RevocationKeepsASlot : Prop :=
  ∀ (s : State) (who : Who) (k : Fin 4), reaches s who Reg.SEC_KEYREV = true → ∀ no : Prop,
    (no ↔ (∃ b, s.sec.bundle = some b ∧ b.keySlot = k.val) ∨ ∀ i : Fin 4, i ≠ k → bit s.fus.revoked i.val = true) →
    ∃ t, exec (.revoke who k) s = .next t
      ∧ (no → Raised 0x0B02 s t ∧ SameBut evParts s t)
      ∧ (¬no → (∀ i : Fin 4, bit t.fus.revoked i.val = (bit s.fus.revoked i.val || decide (i = k))) ∧ t = { s with fus := { s.fus with revoked := t.fus.revoked } })
      ∧ ((∃ i : Fin 4, bit s.fus.revoked i.val = false) → ∃ i : Fin 4, bit t.fus.revoked i.val = false)

/-- A Benrov instruction whose guard is off completes at once as a no-operation, and traps with the fetch and illegal causes exactly where
R224 and R223 say. For each of the 65 Benrov instructions with the bits of its row, in a context that may issue (its core runs, it is in RUN
and holds for nothing), whatever its guard: a word that cannot be fetched, and no other, traps the context with the fetch cause (2), and one
that can be fetched and holds a reserved value or a reserved bit that is not 0 (Tables INS-2, INS-8 to INS-19; R223) traps it with the
illegal cause (1). A word that can be fetched and is legal, with a guard and p[GP] XOR GNEG 0, does not trap: the context stays in RUN with
PC 8 on, holding for nothing, every register and everything else of the machine being as the fetch left it; the fetch itself only corrects
or reports ECC errors. -/
def Obligations.GuardedOffInstructionsDoNothing : Prop :=
  ∀ (s : State) (j : Instr) (k : CtxId) (w : BitVec 56), benrovWord j = some (k, w) → ofRow j = true → s.canIssue (ctxIx k) = true →
    (s.fetchBad (ctxIx k) = true → ∃ t, exec j s = .next t ∧ (t.ctx (ctxIx k)).st = .trap ∧ (t.ctx (ctxIx k)).cause = 2)
    ∧ (s.fetchBad (ctxIx k) = false → legalWord j = false → ∃ t, exec j s = .next t ∧ (t.ctx (ctxIx k)).st = .trap ∧ (t.ctx (ctxIx k)).cause = 1)
    ∧ (s.fetchBad (ctxIx k) = false → legalWord j = true → bit w 55 = true → bit (s.ctx (ctxIx k)).p (fw w 53 51) = bit w 54 →
      GoesTo j s k { s.ctx (ctxIx k) with pc := (s.ctx (ctxIx k)).pc + 8 })

/-- Every step keeps what the fuses hold, leaves a firmware key slot unrevoked, and keeps each memory in its canonical form. For fuses f0
and every state s: where the fuses of s are those of a part with f0 (the same keys, id and DRAM size, no rollback version lower, nothing
revoked or required undone, a programmed model key unchanged), at least one firmware key slot is not revoked, and the tank, core buffers,
DRAM, NVS, host memory and QSPI flash each have their canonical form, whatever next state a step answers satisfies the same. The canonical
form of a memory is the model's own (strictly rising addresses, no byte of 0 listed). -/
def Obligations.EveryStepKeepsFusesAndMemories : Prop :=
  ∀ (f0 : Fuses) (s t : State), Sound f0 s → step s = .next t → Sound f0 t

/-- The state after power-on satisfies what every step keeps (model's own: log 9, 10, 11). In the state after reset a firmware key slot is
not revoked, each memory has its canonical form, and the fuses are those of the part. The reset values the spec does not give, and fuses
with nothing revoked, are the model's choices (log entries 9, 10 and 11). -/
def Obligations.TheResetStateIsSound : Prop :=
  Sound State.reset.fus State.reset
end

