-- ==== Sys2Proof/Laws/Tab.lean ====
section
/-!
SUPPORT. Sparse tables: reading after a change, and the canonical form that every change keeps.
-/
namespace Sys2Proof.Machine

variable {α : Type}

theorem Tab.find?_insert (t : Tab α) (k j : Nat) (v : α) : Tab.find? (Tab.insert t k v) j = if j = k then some v else Tab.find? t j := by
  induction t with
  | nil => simp [Tab.insert, Tab.find?]
  | cons e r ih =>
    obtain ⟨k', v'⟩ := e
    rcases Nat.lt_trichotomy k k' with h | h | h
    · simp only [Tab.insert, h, if_true, Tab.find?]
    · subst h
      simp only [Tab.insert, Nat.lt_irrefl, if_true, if_false, Tab.find?]
      split <;> rfl
    · have h1 : ¬ k < k' := by omega
      have h2 : k ≠ k' := by omega
      simp only [Tab.insert, h1, h2, if_false, Tab.find?, ih]
      split
      · next h3 => subst h3; rw [if_neg (Ne.symm h2)]
      · rfl

theorem Tab.find?_erase (t : Tab α) (k j : Nat) : Tab.find? (Tab.erase t k) j = if j = k then none else Tab.find? t j := by
  induction t with
  | nil => simp [Tab.erase, Tab.find?]
  | cons e r ih =>
    obtain ⟨k', v'⟩ := e
    rw [Tab.erase] at ih ⊢
    by_cases h : k' = k
    · subst h
      simp only [List.filter, bne_self_eq_false, Tab.find?, ih]
      split
      · rfl
      · rfl
    · have h1 : (k' != k) = true := by simpa using h
      simp only [List.filter, h1, Tab.find?, ih]
      split
      · next h3 => subst h3; rw [if_neg h]
      · rfl

/-- A changed key reads as written. -/
@[simp] theorem Tab.getD_setD_self [DecidableEq α] (t : Tab α) (k : Nat) (d v : α) : Tab.getD (Tab.setD t k d v) k d = v := by
  by_cases h : v = d
  · simp [Tab.setD, Tab.getD, h, Tab.find?_erase]
  · simp [Tab.setD, Tab.getD, h, Tab.find?_insert]

/-- Every other key reads as before. -/
theorem Tab.getD_setD_ne [DecidableEq α] (t : Tab α) {k j : Nat} (d v e : α) (h : j ≠ k) : Tab.getD (Tab.setD t k d v) j e = Tab.getD t j e := by
  by_cases hv : v = d
  · simp [Tab.setD, Tab.getD, hv, Tab.find?_erase, h]
  · simp [Tab.setD, Tab.getD, hv, Tab.find?_insert, h]

/-- Reading any key after a change. -/
theorem Tab.getD_setD [DecidableEq α] (t : Tab α) (k j : Nat) (d v : α) :
    Tab.getD (Tab.setD t k d v) j d = if j = k then v else Tab.getD t j d := by
  by_cases h : j = k
  · subst h; simp
  · simp [h, Tab.getD_setD_ne]

@[simp] theorem Tab.getD_nil (k : Nat) (d : α) : Tab.getD [] k d = d := rfl

/-! ## The canonical form -/

theorem Tab.risesFrom_iff (t : Tab α) (lo : Option Nat) :
    Tab.risesFrom lo t = true ↔ (∀ b, lo = some b → ∀ e ∈ t, b < e.1) ∧ t.Pairwise (fun x y => x.1 < y.1) := by
  induction t generalizing lo with
  | nil => simp [Tab.risesFrom]
  | cons e r ih =>
    obtain ⟨k, v⟩ := e
    simp only [Tab.risesFrom, Bool.and_eq_true, ih, List.pairwise_cons, Option.some.injEq, forall_eq', List.mem_cons]
    cases lo with
    | none => simp
    | some b =>
      simp only [decide_eq_true_eq, Option.some.injEq, forall_eq']
      constructor
      · rintro ⟨h1, h2, h3⟩
        exact ⟨fun e he => he.elim (fun h => h ▸ h1) (fun h => Nat.lt_trans h1 (h2 e h)), h2, h3⟩
      · rintro ⟨h1, h2, h3⟩
        exact ⟨h1 _ (Or.inl rfl), h2, h3⟩

/-- The canonical form, said with lists. -/
theorem Tab.wf_iff [DecidableEq α] (t : Tab α) (d : Nat → α) :
    Tab.wf t d = true ↔ t.Pairwise (fun x y => x.1 < y.1) ∧ ∀ e ∈ t, e.2 ≠ d e.1 := by
  simp [Tab.wf, Tab.risesFrom_iff]

theorem Tab.mem_insert {t : Tab α} {k : Nat} {v : α} {e : Nat × α} (h : e ∈ Tab.insert t k v) : e = (k, v) ∨ e ∈ t := by
  induction t with
  | nil => simpa [Tab.insert] using h
  | cons a r ih =>
    obtain ⟨k', v'⟩ := a
    simp only [Tab.insert] at h
    split at h
    · simpa using h
    · split at h
      · rcases List.mem_cons.1 h with h | h
        · exact Or.inl h
        · exact Or.inr (List.mem_cons_of_mem _ h)
      · rcases List.mem_cons.1 h with h | h
        · exact Or.inr (h ▸ List.mem_cons_self)
        · rcases ih h with h | h
          · exact Or.inl h
          · exact Or.inr (List.mem_cons_of_mem _ h)

theorem Tab.insert_pairwise {t : Tab α} (k : Nat) (v : α) (h : t.Pairwise (fun x y => x.1 < y.1)) :
    (Tab.insert t k v).Pairwise (fun x y => x.1 < y.1) := by
  induction t with
  | nil => simp [Tab.insert]
  | cons a r ih =>
    obtain ⟨k', v'⟩ := a
    rw [List.pairwise_cons] at h
    simp only [Tab.insert]
    split
    · next hk =>
      rw [List.pairwise_cons]
      refine ⟨fun e he => ?_, List.pairwise_cons.2 h⟩
      rcases List.mem_cons.1 he with he | he
      · exact he ▸ hk
      · exact Nat.lt_trans hk (h.1 e he)
    · split
      · next hk => subst hk; exact List.pairwise_cons.2 h
      · next h1 h2 =>
        rw [List.pairwise_cons]
        refine ⟨fun e he => ?_, ih h.2⟩
        rcases Tab.mem_insert he with he | he
        · rw [he]; show k' < k; omega
        · exact h.1 e he

/-- Setting a value keeps the canonical form. -/
theorem Tab.setD_wf [DecidableEq α] {t : Tab α} {d : Nat → α} (k : Nat) (v : α) (h : Tab.wf t d = true) :
    Tab.wf (Tab.setD t k (d k) v) d = true := by
  rw [Tab.wf_iff] at h ⊢
  by_cases hv : v = d k
  · simp only [Tab.setD, hv, if_true, Tab.erase]
    exact ⟨h.1.filter _, fun e he => h.2 e (List.mem_of_mem_filter he)⟩
  · simp only [Tab.setD, hv, if_false]
    refine ⟨Tab.insert_pairwise k v h.1, fun e he => ?_⟩
    rcases Tab.mem_insert he with he | he
    · rw [he]; exact hv
    · exact h.2 e he

/-- Dropping entries keeps the canonical form. -/
theorem Tab.filter_wf [DecidableEq α] {t : Tab α} {d : Nat → α} (p : Nat × α → Bool) (h : Tab.wf t d = true) :
    Tab.wf (t.filter p) d = true := by
  rw [Tab.wf_iff] at h ⊢
  exact ⟨h.1.filter _, fun e he => h.2 e (List.mem_of_mem_filter he)⟩

theorem Tab.keep_wf [DecidableEq α] {t : Tab α} {d : Nat → α} (p : Nat → Bool) (h : Tab.wf t d = true) :
    Tab.wf (Tab.keep t p) d = true := Tab.filter_wf _ h

/-- Reading what a reset keeps. -/
theorem Tab.find?_keep (t : Tab α) (p : Nat → Bool) (k : Nat) : Tab.find? (Tab.keep t p) k = if p k then Tab.find? t k else none := by
  induction t with
  | nil => simp [Tab.keep, Tab.find?]
  | cons e r ih =>
    obtain ⟨k', v'⟩ := e
    rw [Tab.keep] at ih ⊢
    by_cases hp : p k' = true
    · simp only [List.filter, hp, Tab.find?, ih]
      split
      · next h => subst h; simp [hp]
      · rfl
    · simp only [Bool.not_eq_true] at hp
      simp only [List.filter, hp, Tab.find?, ih]
      by_cases h : k = k'
      · subst h; simp [hp]
      · simp [h]

end Sys2Proof.Machine
end

