-- ==== Sys2Proof/Laws/Mem.lean ====
section
/-!
SUPPORT. Memories: what a read gives after each write, and the canonical form that every memory operation keeps.
-/
namespace Sys2Proof.Machine

/-! ## Bytes -/

@[simp] theorem Mem.byte_setByte_self (m : Mem) (a : Nat) (b : Byte) : (m.setByte a b).byte a = b := by simp [Mem.setByte, Mem.byte]

theorem Mem.byte_setByte (m : Mem) (a k : Nat) (b : Byte) : (m.setByte a b).byte k = if k = a then b else m.byte k := by
  simp [Mem.setByte, Mem.byte, Tab.getD_setD]

/-- Reading any byte after bytes have been written. -/
theorem getD_cellsWrite (bs : List Byte) (t : Tab Byte) (a k : Nat) :
    Tab.getD (cellsWrite t a bs) k 0 = if a ≤ k ∧ k < a + bs.length then bs.getD (k - a) 0 else Tab.getD t k 0 := by
  induction bs generalizing t a with
  | nil => simp [cellsWrite]
  | cons b r ih =>
    rw [cellsWrite, ih, Tab.getD_setD]
    simp only [List.length_cons]
    rcases Nat.lt_trichotomy k a with h | h | h
    · rw [if_neg (by omega), if_neg (by omega), if_neg (by omega)]
    · subst h; rw [if_neg (by omega), if_pos rfl, if_pos (by omega)]; simp
    · rw [if_neg (by omega : ¬ k = a)]
      by_cases h2 : k < a + (r.length + 1)
      · rw [if_pos (by omega), if_pos (by omega), show k - a = (k - (a + 1)) + 1 by omega]; simp
      · rw [if_neg (by omega), if_neg (by omega)]

/-- A byte after a write: the written byte within the range, the old one outside. -/
theorem Mem.byte_writeRaw (m : Mem) (a k : Nat) (bs : List Byte) :
    (m.writeRaw a bs).byte k = if a ≤ k ∧ k < a + bs.length then bs.getD (k - a) 0 else m.byte k := getD_cellsWrite bs m.cells a k

theorem Mem.byte_writeRaw_out (m : Mem) {a k : Nat} {bs : List Byte} (h : k < a ∨ a + bs.length ≤ k) : (m.writeRaw a bs).byte k = m.byte k := by
  rw [Mem.byte_writeRaw, if_neg (by omega)]

/-- Reading back what was written. -/
theorem Mem.read_writeRaw_self (m : Mem) (a : Nat) (bs : List Byte) : (m.writeRaw a bs).read a bs.length = bs := by
  apply List.ext_getElem
  · simp [Mem.read]
  · intro i h1 h2
    simp only [Mem.read, List.getElem_map, List.getElem_range, Mem.byte_writeRaw]
    rw [if_pos (by omega), Nat.add_sub_cancel_left, List.getD_eq_getElem _ _ h2]

@[simp] theorem Mem.byte_heal (m : Mem) (a n k : Nat) : (m.heal a n).byte k = m.byte k := rfl

@[simp] theorem Mem.byte_empty (k : Nat) : Mem.empty.byte k = 0 := rfl

@[simp] theorem Mem.read_length (m : Mem) (a n : Nat) : (m.read a n).length = n := by simp [Mem.read]

/-- Reading any byte after bytes have been written but those of skipped groups. -/
theorem getD_cellsWriteSkip (skip : List Nat) (bs : List Byte) (t : Tab Byte) (a k : Nat) :
    Tab.getD (cellsWriteSkip skip t a bs) k 0
      = if (a ≤ k ∧ k < a + bs.length) ∧ skip.contains (k / 8) = false then bs.getD (k - a) 0 else Tab.getD t k 0 := by
  induction bs generalizing t a with
  | nil => simp [cellsWriteSkip]
  | cons b r ih =>
    rw [cellsWriteSkip, ih]
    simp only [List.length_cons]
    have hd : Tab.getD (if skip.contains (a / 8) then t else Tab.setD t a 0 b) k 0
        = if k = a ∧ skip.contains (k / 8) = false then b else Tab.getD t k 0 := by
      by_cases h : skip.contains (a / 8) = true
      · rw [if_pos h]
        by_cases hk : k = a
        · subst hk; rw [if_neg (by simp only [h]; simp)]
        · rw [if_neg (by tauto)]
      · rw [if_neg h, Tab.getD_setD]
        simp only [Bool.not_eq_true] at h
        by_cases hk : k = a
        · subst hk; rw [if_pos rfl, if_pos ⟨rfl, h⟩]
        · rw [if_neg hk, if_neg (by tauto)]
    rw [hd]
    by_cases hs : skip.contains (k / 8) = false
    · simp only [hs, and_true]
      rcases Nat.lt_trichotomy k a with h | h | h
      · rw [if_neg (by omega), if_neg (by omega), if_neg (by omega)]
      · subst h; rw [if_neg (by omega), if_pos rfl, if_pos (by omega)]; simp
      · rw [if_neg (by omega : ¬ k = a)]
        by_cases h2 : k < a + (r.length + 1)
        · rw [if_pos (by omega), if_pos (by omega), show k - a = (k - (a + 1)) + 1 by omega]; simp
        · rw [if_neg (by omega), if_neg (by omega)]
    · rw [if_neg (fun h => hs h.2), if_neg (fun h => hs h.2), if_neg (fun h => hs h.2)]

/-! ## The canonical form -/

theorem Mem.wf_iff (m : Mem) : m.wf = true ↔ Tab.wf m.cells (fun _ => 0) = true ∧ Tab.risesFrom none m.ecc = true := by
  simp [Mem.wf]

@[simp] theorem Mem.empty_wf : Mem.empty.wf = true := rfl

theorem Tab.filter_rises {α : Type} {t : Tab α} (p : Nat × α → Bool) (h : Tab.risesFrom none t = true) : Tab.risesFrom none (t.filter p) = true := by
  rw [Tab.risesFrom_iff] at h ⊢
  exact ⟨by simp, h.2.filter _⟩

theorem Tab.insert_rises {α : Type} {t : Tab α} (k : Nat) (v : α) (h : Tab.risesFrom none t = true) : Tab.risesFrom none (Tab.insert t k v) = true := by
  rw [Tab.risesFrom_iff] at h ⊢
  exact ⟨by simp, Tab.insert_pairwise k v h.2⟩

theorem cellsWrite_wf (bs : List Byte) {t : Tab Byte} (a : Nat) (h : Tab.wf t (fun _ => 0) = true) : Tab.wf (cellsWrite t a bs) (fun _ => 0) = true := by
  induction bs generalizing t a with
  | nil => exact h
  | cons b r ih => exact ih (a + 1) (Tab.setD_wf (d := fun _ => 0) a b h)

theorem cellsWriteSkip_wf (skip : List Nat) (bs : List Byte) {t : Tab Byte} (a : Nat) (h : Tab.wf t (fun _ => 0) = true) :
    Tab.wf (cellsWriteSkip skip t a bs) (fun _ => 0) = true := by
  induction bs generalizing t a with
  | nil => exact h
  | cons b r ih =>
    refine ih (a + 1) ?_
    split
    · exact h
    · exact Tab.setD_wf (d := fun _ => 0) a b h

/-- A memory with canonical bytes and a filtered ECC table is canonical. -/
theorem Mem.mk_wf {m : Mem} {t : Tab Byte} {e : Tab Bool} (h : m.wf = true) (ht : Tab.wf m.cells (fun _ => 0) = true → Tab.wf t (fun _ => 0) = true)
    (he : Tab.risesFrom none m.ecc = true → Tab.risesFrom none e = true) : (Mem.mk t e).wf = true := by
  rw [Mem.wf_iff] at h ⊢
  exact ⟨ht h.1, he h.2⟩

theorem Mem.setByte_wf {m : Mem} (a : Nat) (b : Byte) (h : m.wf = true) : (m.setByte a b).wf = true :=
  Mem.mk_wf h (Tab.setD_wf (d := fun _ => 0) a b) id

theorem Mem.writeRaw_wf {m : Mem} (a : Nat) (bs : List Byte) (h : m.wf = true) : (m.writeRaw a bs).wf = true :=
  Mem.mk_wf h (cellsWrite_wf bs a) id

theorem Mem.heal_wf {m : Mem} (a n : Nat) (h : m.wf = true) : (m.heal a n).wf = true := Mem.mk_wf h id (Tab.filter_rises _)

/-- Dropping ECC conditions keeps the form. -/
theorem Mem.eccFilter_wf {m : Mem} (p : Nat × Bool → Bool) (h : m.wf = true) : ({ m with ecc := m.ecc.filter p } : Mem).wf = true :=
  Mem.mk_wf h id (Tab.filter_rises _)

/-- Dropping bytes and ECC conditions keeps the form. -/
theorem Mem.keep_wf {m : Mem} (p q : Nat → Bool) (h : m.wf = true) : (Mem.mk (Tab.keep m.cells p) (Tab.keep m.ecc q)).wf = true :=
  Mem.mk_wf h (Tab.keep_wf p) (Tab.filter_rises _)

/-- A write that skips groups keeps the form. -/
theorem Mem.writeSkip_wf {m : Mem} (skip : List Nat) (a : Nat) (bs : List Byte) (p : Nat × Bool → Bool) (h : m.wf = true) :
    (Mem.mk (cellsWriteSkip skip m.cells a bs) (m.ecc.filter p)).wf = true :=
  Mem.mk_wf h (cellsWriteSkip_wf skip bs a) (Tab.filter_rises _)

end Sys2Proof.Machine
end

