-- ==== Sys2Proof/Laws/State.lean ====
section
/-!
SUPPORT. What each update of the state leaves alone: one lemma for each field and update.
-/
namespace Sys2Proof.Machine

/-! ## Registers -/

@[simp] theorem State.setReg_pending (s : State) (a : Nat) (v : W32) : (s.setReg a v).pending = s.pending := rfl
@[simp] theorem State.setReg_req (s : State) (a : Nat) (v : W32) : (s.setReg a v).req = s.req := rfl
@[simp] theorem State.setReg_mem (s : State) (a : Nat) (v : W32) : (s.setReg a v).mem = s.mem := rfl
@[simp] theorem State.setReg_sync (s : State) (a : Nat) (v : W32) : (s.setReg a v).sync = s.sync := rfl
@[simp] theorem State.setReg_ev (s : State) (a : Nat) (v : W32) : (s.setReg a v).ev = s.ev := rfl
@[simp] theorem State.setReg_cnt (s : State) (a : Nat) (v : W32) : (s.setReg a v).cnt = s.cnt := rfl
@[simp] theorem State.setReg_rst (s : State) (a : Nat) (v : W32) : (s.setReg a v).rst = s.rst := rfl
@[simp] theorem State.setReg_host (s : State) (a : Nat) (v : W32) : (s.setReg a v).host = s.host := rfl
@[simp] theorem State.setReg_nvs (s : State) (a : Nat) (v : W32) : (s.setReg a v).nvs = s.nvs := rfl
@[simp] theorem State.setReg_fus (s : State) (a : Nat) (v : W32) : (s.setReg a v).fus = s.fus := rfl
@[simp] theorem State.setReg_sec (s : State) (a : Nat) (v : W32) : (s.setReg a v).sec = s.sec := rfl
@[simp] theorem State.setReg_arrs (s : State) (a : Nat) (v : W32) : (s.setReg a v).arrs = s.arrs := rfl
@[simp] theorem State.setReg_cors (s : State) (a : Nat) (v : W32) : (s.setReg a v).cors = s.cors := rfl
@[simp] theorem State.setReg_pcm (s : State) (a : Nat) (v : W32) : (s.setReg a v).pcm = s.pcm := rfl
@[simp] theorem State.setReg_cores (s : State) (a : Nat) (v : W32) : (s.setReg a v).cores = s.cores := rfl
@[simp] theorem State.setReg_mr (s : State) (a : Nat) (v : W32) : (s.setReg a v).mr = s.mr := rfl
@[simp] theorem State.setReg_reqs (s : State) (a : Nat) (v : W32) : (s.setReg a v).reqs = s.reqs := rfl
@[simp] theorem State.setReg_saves (s : State) (a : Nat) (v : W32) : (s.setReg a v).saves = s.saves := rfl
@[simp] theorem State.setReg_prs (s : State) (a : Nat) (v : W32) : (s.setReg a v).prs = s.prs := rfl
@[simp] theorem State.setReg_refs (s : State) (a : Nat) (v : W32) : (s.setReg a v).refs = s.refs := rfl
@[simp] theorem State.setReg_bases (s : State) (a : Nat) (v : W32) : (s.setReg a v).bases = s.bases := rfl
@[simp] theorem State.setReg_ctxs (s : State) (a : Nat) (v : W32) : (s.setReg a v).ctxs = s.ctxs := rfl
@[simp] theorem State.setReg_strms (s : State) (a : Nat) (v : W32) : (s.setReg a v).strms = s.strms := rfl
@[simp] theorem State.setReg_pert (s : State) (a : Nat) (v : W32) : (s.setReg a v).pert = s.pert := rfl
@[simp] theorem State.setReg_pair (s : State) (a : Nat) (v : W32) : (s.setReg a v).pair = s.pair := rfl
@[simp] theorem State.setReg_eng (s : State) (a : Nat) (v : W32) : (s.setReg a v).eng = s.eng := rfl
@[simp] theorem State.setReg_act (s : State) (a : Nat) (v : W32) : (s.setReg a v).act = s.act := rfl
@[simp] theorem State.setReg_msr (s : State) (a : Nat) (v : W32) : (s.setReg a v).msr = s.msr := rfl
@[simp] theorem State.setReg_link (s : State) (a : Nat) (v : W32) : (s.setReg a v).link = s.link := rfl
@[simp] theorem State.setReg_psave (s : State) (a : Nat) (v : W32) : (s.setReg a v).psave = s.psave := rfl

@[simp] theorem State.setFld_pending (s : State) (a hi lo v : Nat) : (s.setFld a hi lo v).pending = s.pending := rfl
@[simp] theorem State.setFld_req (s : State) (a hi lo v : Nat) : (s.setFld a hi lo v).req = s.req := rfl
@[simp] theorem State.setFld_mem (s : State) (a hi lo v : Nat) : (s.setFld a hi lo v).mem = s.mem := rfl
@[simp] theorem State.setFld_sync (s : State) (a hi lo v : Nat) : (s.setFld a hi lo v).sync = s.sync := rfl
@[simp] theorem State.setFld_ev (s : State) (a hi lo v : Nat) : (s.setFld a hi lo v).ev = s.ev := rfl
@[simp] theorem State.setFld_cnt (s : State) (a hi lo v : Nat) : (s.setFld a hi lo v).cnt = s.cnt := rfl
@[simp] theorem State.setFld_rst (s : State) (a hi lo v : Nat) : (s.setFld a hi lo v).rst = s.rst := rfl
@[simp] theorem State.setFld_host (s : State) (a hi lo v : Nat) : (s.setFld a hi lo v).host = s.host := rfl
@[simp] theorem State.setFld_nvs (s : State) (a hi lo v : Nat) : (s.setFld a hi lo v).nvs = s.nvs := rfl
@[simp] theorem State.setFld_fus (s : State) (a hi lo v : Nat) : (s.setFld a hi lo v).fus = s.fus := rfl
@[simp] theorem State.setFld_sec (s : State) (a hi lo v : Nat) : (s.setFld a hi lo v).sec = s.sec := rfl
@[simp] theorem State.setFld_arrs (s : State) (a hi lo v : Nat) : (s.setFld a hi lo v).arrs = s.arrs := rfl
@[simp] theorem State.setFld_cors (s : State) (a hi lo v : Nat) : (s.setFld a hi lo v).cors = s.cors := rfl
@[simp] theorem State.setFld_pcm (s : State) (a hi lo v : Nat) : (s.setFld a hi lo v).pcm = s.pcm := rfl
@[simp] theorem State.setFld_cores (s : State) (a hi lo v : Nat) : (s.setFld a hi lo v).cores = s.cores := rfl
@[simp] theorem State.setFld_mr (s : State) (a hi lo v : Nat) : (s.setFld a hi lo v).mr = s.mr := rfl
@[simp] theorem State.setFld_reqs (s : State) (a hi lo v : Nat) : (s.setFld a hi lo v).reqs = s.reqs := rfl
@[simp] theorem State.setFld_saves (s : State) (a hi lo v : Nat) : (s.setFld a hi lo v).saves = s.saves := rfl
@[simp] theorem State.setFld_prs (s : State) (a hi lo v : Nat) : (s.setFld a hi lo v).prs = s.prs := rfl
@[simp] theorem State.setFld_refs (s : State) (a hi lo v : Nat) : (s.setFld a hi lo v).refs = s.refs := rfl
@[simp] theorem State.setFld_bases (s : State) (a hi lo v : Nat) : (s.setFld a hi lo v).bases = s.bases := rfl
@[simp] theorem State.setFld_ctxs (s : State) (a hi lo v : Nat) : (s.setFld a hi lo v).ctxs = s.ctxs := rfl
@[simp] theorem State.setFld_strms (s : State) (a hi lo v : Nat) : (s.setFld a hi lo v).strms = s.strms := rfl
@[simp] theorem State.setFld_pert (s : State) (a hi lo v : Nat) : (s.setFld a hi lo v).pert = s.pert := rfl
@[simp] theorem State.setFld_pair (s : State) (a hi lo v : Nat) : (s.setFld a hi lo v).pair = s.pair := rfl
@[simp] theorem State.setFld_eng (s : State) (a hi lo v : Nat) : (s.setFld a hi lo v).eng = s.eng := rfl
@[simp] theorem State.setFld_act (s : State) (a hi lo v : Nat) : (s.setFld a hi lo v).act = s.act := rfl
@[simp] theorem State.setFld_msr (s : State) (a hi lo v : Nat) : (s.setFld a hi lo v).msr = s.msr := rfl
@[simp] theorem State.setFld_link (s : State) (a hi lo v : Nat) : (s.setFld a hi lo v).link = s.link := rfl
@[simp] theorem State.setFld_psave (s : State) (a hi lo v : Nat) : (s.setFld a hi lo v).psave = s.psave := rfl

@[simp] theorem State.orReg_pending (s : State) (a m : Nat) : (s.orReg a m).pending = s.pending := rfl
@[simp] theorem State.orReg_req (s : State) (a m : Nat) : (s.orReg a m).req = s.req := rfl
@[simp] theorem State.orReg_mem (s : State) (a m : Nat) : (s.orReg a m).mem = s.mem := rfl
@[simp] theorem State.orReg_sync (s : State) (a m : Nat) : (s.orReg a m).sync = s.sync := rfl
@[simp] theorem State.orReg_ev (s : State) (a m : Nat) : (s.orReg a m).ev = s.ev := rfl
@[simp] theorem State.orReg_cnt (s : State) (a m : Nat) : (s.orReg a m).cnt = s.cnt := rfl
@[simp] theorem State.orReg_rst (s : State) (a m : Nat) : (s.orReg a m).rst = s.rst := rfl
@[simp] theorem State.orReg_host (s : State) (a m : Nat) : (s.orReg a m).host = s.host := rfl
@[simp] theorem State.orReg_nvs (s : State) (a m : Nat) : (s.orReg a m).nvs = s.nvs := rfl
@[simp] theorem State.orReg_fus (s : State) (a m : Nat) : (s.orReg a m).fus = s.fus := rfl
@[simp] theorem State.orReg_sec (s : State) (a m : Nat) : (s.orReg a m).sec = s.sec := rfl
@[simp] theorem State.orReg_arrs (s : State) (a m : Nat) : (s.orReg a m).arrs = s.arrs := rfl
@[simp] theorem State.orReg_cors (s : State) (a m : Nat) : (s.orReg a m).cors = s.cors := rfl
@[simp] theorem State.orReg_pcm (s : State) (a m : Nat) : (s.orReg a m).pcm = s.pcm := rfl
@[simp] theorem State.orReg_cores (s : State) (a m : Nat) : (s.orReg a m).cores = s.cores := rfl
@[simp] theorem State.orReg_mr (s : State) (a m : Nat) : (s.orReg a m).mr = s.mr := rfl
@[simp] theorem State.orReg_reqs (s : State) (a m : Nat) : (s.orReg a m).reqs = s.reqs := rfl
@[simp] theorem State.orReg_saves (s : State) (a m : Nat) : (s.orReg a m).saves = s.saves := rfl
@[simp] theorem State.orReg_prs (s : State) (a m : Nat) : (s.orReg a m).prs = s.prs := rfl
@[simp] theorem State.orReg_refs (s : State) (a m : Nat) : (s.orReg a m).refs = s.refs := rfl
@[simp] theorem State.orReg_bases (s : State) (a m : Nat) : (s.orReg a m).bases = s.bases := rfl
@[simp] theorem State.orReg_ctxs (s : State) (a m : Nat) : (s.orReg a m).ctxs = s.ctxs := rfl
@[simp] theorem State.orReg_strms (s : State) (a m : Nat) : (s.orReg a m).strms = s.strms := rfl
@[simp] theorem State.orReg_pert (s : State) (a m : Nat) : (s.orReg a m).pert = s.pert := rfl
@[simp] theorem State.orReg_pair (s : State) (a m : Nat) : (s.orReg a m).pair = s.pair := rfl
@[simp] theorem State.orReg_eng (s : State) (a m : Nat) : (s.orReg a m).eng = s.eng := rfl
@[simp] theorem State.orReg_act (s : State) (a m : Nat) : (s.orReg a m).act = s.act := rfl
@[simp] theorem State.orReg_msr (s : State) (a m : Nat) : (s.orReg a m).msr = s.msr := rfl
@[simp] theorem State.orReg_link (s : State) (a m : Nat) : (s.orReg a m).link = s.link := rfl
@[simp] theorem State.orReg_psave (s : State) (a m : Nat) : (s.orReg a m).psave = s.psave := rfl

@[simp] theorem State.clrReg_pending (s : State) (a m : Nat) : (s.clrReg a m).pending = s.pending := rfl
@[simp] theorem State.clrReg_req (s : State) (a m : Nat) : (s.clrReg a m).req = s.req := rfl
@[simp] theorem State.clrReg_mem (s : State) (a m : Nat) : (s.clrReg a m).mem = s.mem := rfl
@[simp] theorem State.clrReg_sync (s : State) (a m : Nat) : (s.clrReg a m).sync = s.sync := rfl
@[simp] theorem State.clrReg_ev (s : State) (a m : Nat) : (s.clrReg a m).ev = s.ev := rfl
@[simp] theorem State.clrReg_cnt (s : State) (a m : Nat) : (s.clrReg a m).cnt = s.cnt := rfl
@[simp] theorem State.clrReg_rst (s : State) (a m : Nat) : (s.clrReg a m).rst = s.rst := rfl
@[simp] theorem State.clrReg_host (s : State) (a m : Nat) : (s.clrReg a m).host = s.host := rfl
@[simp] theorem State.clrReg_nvs (s : State) (a m : Nat) : (s.clrReg a m).nvs = s.nvs := rfl
@[simp] theorem State.clrReg_fus (s : State) (a m : Nat) : (s.clrReg a m).fus = s.fus := rfl
@[simp] theorem State.clrReg_sec (s : State) (a m : Nat) : (s.clrReg a m).sec = s.sec := rfl
@[simp] theorem State.clrReg_arrs (s : State) (a m : Nat) : (s.clrReg a m).arrs = s.arrs := rfl
@[simp] theorem State.clrReg_cors (s : State) (a m : Nat) : (s.clrReg a m).cors = s.cors := rfl
@[simp] theorem State.clrReg_pcm (s : State) (a m : Nat) : (s.clrReg a m).pcm = s.pcm := rfl
@[simp] theorem State.clrReg_cores (s : State) (a m : Nat) : (s.clrReg a m).cores = s.cores := rfl
@[simp] theorem State.clrReg_mr (s : State) (a m : Nat) : (s.clrReg a m).mr = s.mr := rfl
@[simp] theorem State.clrReg_reqs (s : State) (a m : Nat) : (s.clrReg a m).reqs = s.reqs := rfl
@[simp] theorem State.clrReg_saves (s : State) (a m : Nat) : (s.clrReg a m).saves = s.saves := rfl
@[simp] theorem State.clrReg_prs (s : State) (a m : Nat) : (s.clrReg a m).prs = s.prs := rfl
@[simp] theorem State.clrReg_refs (s : State) (a m : Nat) : (s.clrReg a m).refs = s.refs := rfl
@[simp] theorem State.clrReg_bases (s : State) (a m : Nat) : (s.clrReg a m).bases = s.bases := rfl
@[simp] theorem State.clrReg_ctxs (s : State) (a m : Nat) : (s.clrReg a m).ctxs = s.ctxs := rfl
@[simp] theorem State.clrReg_strms (s : State) (a m : Nat) : (s.clrReg a m).strms = s.strms := rfl
@[simp] theorem State.clrReg_pert (s : State) (a m : Nat) : (s.clrReg a m).pert = s.pert := rfl
@[simp] theorem State.clrReg_pair (s : State) (a m : Nat) : (s.clrReg a m).pair = s.pair := rfl
@[simp] theorem State.clrReg_eng (s : State) (a m : Nat) : (s.clrReg a m).eng = s.eng := rfl
@[simp] theorem State.clrReg_act (s : State) (a m : Nat) : (s.clrReg a m).act = s.act := rfl
@[simp] theorem State.clrReg_msr (s : State) (a m : Nat) : (s.clrReg a m).msr = s.msr := rfl
@[simp] theorem State.clrReg_link (s : State) (a m : Nat) : (s.clrReg a m).link = s.link := rfl
@[simp] theorem State.clrReg_psave (s : State) (a m : Nat) : (s.clrReg a m).psave = s.psave := rfl

@[simp] theorem State.incReg_pending (s : State) (a n : Nat) : (s.incReg a n).pending = s.pending := rfl
@[simp] theorem State.incReg_req (s : State) (a n : Nat) : (s.incReg a n).req = s.req := rfl
@[simp] theorem State.incReg_mem (s : State) (a n : Nat) : (s.incReg a n).mem = s.mem := rfl
@[simp] theorem State.incReg_sync (s : State) (a n : Nat) : (s.incReg a n).sync = s.sync := rfl
@[simp] theorem State.incReg_ev (s : State) (a n : Nat) : (s.incReg a n).ev = s.ev := rfl
@[simp] theorem State.incReg_cnt (s : State) (a n : Nat) : (s.incReg a n).cnt = s.cnt := rfl
@[simp] theorem State.incReg_rst (s : State) (a n : Nat) : (s.incReg a n).rst = s.rst := rfl
@[simp] theorem State.incReg_host (s : State) (a n : Nat) : (s.incReg a n).host = s.host := rfl
@[simp] theorem State.incReg_nvs (s : State) (a n : Nat) : (s.incReg a n).nvs = s.nvs := rfl
@[simp] theorem State.incReg_fus (s : State) (a n : Nat) : (s.incReg a n).fus = s.fus := rfl
@[simp] theorem State.incReg_sec (s : State) (a n : Nat) : (s.incReg a n).sec = s.sec := rfl
@[simp] theorem State.incReg_arrs (s : State) (a n : Nat) : (s.incReg a n).arrs = s.arrs := rfl
@[simp] theorem State.incReg_cors (s : State) (a n : Nat) : (s.incReg a n).cors = s.cors := rfl
@[simp] theorem State.incReg_pcm (s : State) (a n : Nat) : (s.incReg a n).pcm = s.pcm := rfl
@[simp] theorem State.incReg_cores (s : State) (a n : Nat) : (s.incReg a n).cores = s.cores := rfl
@[simp] theorem State.incReg_mr (s : State) (a n : Nat) : (s.incReg a n).mr = s.mr := rfl
@[simp] theorem State.incReg_reqs (s : State) (a n : Nat) : (s.incReg a n).reqs = s.reqs := rfl
@[simp] theorem State.incReg_saves (s : State) (a n : Nat) : (s.incReg a n).saves = s.saves := rfl
@[simp] theorem State.incReg_prs (s : State) (a n : Nat) : (s.incReg a n).prs = s.prs := rfl
@[simp] theorem State.incReg_refs (s : State) (a n : Nat) : (s.incReg a n).refs = s.refs := rfl
@[simp] theorem State.incReg_bases (s : State) (a n : Nat) : (s.incReg a n).bases = s.bases := rfl
@[simp] theorem State.incReg_ctxs (s : State) (a n : Nat) : (s.incReg a n).ctxs = s.ctxs := rfl
@[simp] theorem State.incReg_strms (s : State) (a n : Nat) : (s.incReg a n).strms = s.strms := rfl
@[simp] theorem State.incReg_pert (s : State) (a n : Nat) : (s.incReg a n).pert = s.pert := rfl
@[simp] theorem State.incReg_pair (s : State) (a n : Nat) : (s.incReg a n).pair = s.pair := rfl
@[simp] theorem State.incReg_eng (s : State) (a n : Nat) : (s.incReg a n).eng = s.eng := rfl
@[simp] theorem State.incReg_act (s : State) (a n : Nat) : (s.incReg a n).act = s.act := rfl
@[simp] theorem State.incReg_msr (s : State) (a n : Nat) : (s.incReg a n).msr = s.msr := rfl
@[simp] theorem State.incReg_link (s : State) (a n : Nat) : (s.incReg a n).link = s.link := rfl
@[simp] theorem State.incReg_psave (s : State) (a n : Nat) : (s.incReg a n).psave = s.psave := rfl

@[simp] theorem State.incWrap_pending (s : State) (a n : Nat) : (s.incWrap a n).pending = s.pending := rfl
@[simp] theorem State.incWrap_req (s : State) (a n : Nat) : (s.incWrap a n).req = s.req := rfl
@[simp] theorem State.incWrap_mem (s : State) (a n : Nat) : (s.incWrap a n).mem = s.mem := rfl
@[simp] theorem State.incWrap_sync (s : State) (a n : Nat) : (s.incWrap a n).sync = s.sync := rfl
@[simp] theorem State.incWrap_ev (s : State) (a n : Nat) : (s.incWrap a n).ev = s.ev := rfl
@[simp] theorem State.incWrap_cnt (s : State) (a n : Nat) : (s.incWrap a n).cnt = s.cnt := rfl
@[simp] theorem State.incWrap_rst (s : State) (a n : Nat) : (s.incWrap a n).rst = s.rst := rfl
@[simp] theorem State.incWrap_host (s : State) (a n : Nat) : (s.incWrap a n).host = s.host := rfl
@[simp] theorem State.incWrap_nvs (s : State) (a n : Nat) : (s.incWrap a n).nvs = s.nvs := rfl
@[simp] theorem State.incWrap_fus (s : State) (a n : Nat) : (s.incWrap a n).fus = s.fus := rfl
@[simp] theorem State.incWrap_sec (s : State) (a n : Nat) : (s.incWrap a n).sec = s.sec := rfl
@[simp] theorem State.incWrap_arrs (s : State) (a n : Nat) : (s.incWrap a n).arrs = s.arrs := rfl
@[simp] theorem State.incWrap_cors (s : State) (a n : Nat) : (s.incWrap a n).cors = s.cors := rfl
@[simp] theorem State.incWrap_pcm (s : State) (a n : Nat) : (s.incWrap a n).pcm = s.pcm := rfl
@[simp] theorem State.incWrap_cores (s : State) (a n : Nat) : (s.incWrap a n).cores = s.cores := rfl
@[simp] theorem State.incWrap_mr (s : State) (a n : Nat) : (s.incWrap a n).mr = s.mr := rfl
@[simp] theorem State.incWrap_reqs (s : State) (a n : Nat) : (s.incWrap a n).reqs = s.reqs := rfl
@[simp] theorem State.incWrap_saves (s : State) (a n : Nat) : (s.incWrap a n).saves = s.saves := rfl
@[simp] theorem State.incWrap_prs (s : State) (a n : Nat) : (s.incWrap a n).prs = s.prs := rfl
@[simp] theorem State.incWrap_refs (s : State) (a n : Nat) : (s.incWrap a n).refs = s.refs := rfl
@[simp] theorem State.incWrap_bases (s : State) (a n : Nat) : (s.incWrap a n).bases = s.bases := rfl
@[simp] theorem State.incWrap_ctxs (s : State) (a n : Nat) : (s.incWrap a n).ctxs = s.ctxs := rfl
@[simp] theorem State.incWrap_strms (s : State) (a n : Nat) : (s.incWrap a n).strms = s.strms := rfl
@[simp] theorem State.incWrap_pert (s : State) (a n : Nat) : (s.incWrap a n).pert = s.pert := rfl
@[simp] theorem State.incWrap_pair (s : State) (a n : Nat) : (s.incWrap a n).pair = s.pair := rfl
@[simp] theorem State.incWrap_eng (s : State) (a n : Nat) : (s.incWrap a n).eng = s.eng := rfl
@[simp] theorem State.incWrap_act (s : State) (a n : Nat) : (s.incWrap a n).act = s.act := rfl
@[simp] theorem State.incWrap_msr (s : State) (a n : Nat) : (s.incWrap a n).msr = s.msr := rfl
@[simp] theorem State.incWrap_link (s : State) (a n : Nat) : (s.incWrap a n).link = s.link := rfl
@[simp] theorem State.incWrap_psave (s : State) (a n : Nat) : (s.incWrap a n).psave = s.psave := rfl

@[simp] theorem State.setReg64_pending (s : State) (a v : Nat) : (s.setReg64 a v).pending = s.pending := rfl
@[simp] theorem State.setReg64_req (s : State) (a v : Nat) : (s.setReg64 a v).req = s.req := rfl
@[simp] theorem State.setReg64_mem (s : State) (a v : Nat) : (s.setReg64 a v).mem = s.mem := rfl
@[simp] theorem State.setReg64_sync (s : State) (a v : Nat) : (s.setReg64 a v).sync = s.sync := rfl
@[simp] theorem State.setReg64_ev (s : State) (a v : Nat) : (s.setReg64 a v).ev = s.ev := rfl
@[simp] theorem State.setReg64_cnt (s : State) (a v : Nat) : (s.setReg64 a v).cnt = s.cnt := rfl
@[simp] theorem State.setReg64_rst (s : State) (a v : Nat) : (s.setReg64 a v).rst = s.rst := rfl
@[simp] theorem State.setReg64_host (s : State) (a v : Nat) : (s.setReg64 a v).host = s.host := rfl
@[simp] theorem State.setReg64_nvs (s : State) (a v : Nat) : (s.setReg64 a v).nvs = s.nvs := rfl
@[simp] theorem State.setReg64_fus (s : State) (a v : Nat) : (s.setReg64 a v).fus = s.fus := rfl
@[simp] theorem State.setReg64_sec (s : State) (a v : Nat) : (s.setReg64 a v).sec = s.sec := rfl
@[simp] theorem State.setReg64_arrs (s : State) (a v : Nat) : (s.setReg64 a v).arrs = s.arrs := rfl
@[simp] theorem State.setReg64_cors (s : State) (a v : Nat) : (s.setReg64 a v).cors = s.cors := rfl
@[simp] theorem State.setReg64_pcm (s : State) (a v : Nat) : (s.setReg64 a v).pcm = s.pcm := rfl
@[simp] theorem State.setReg64_cores (s : State) (a v : Nat) : (s.setReg64 a v).cores = s.cores := rfl
@[simp] theorem State.setReg64_mr (s : State) (a v : Nat) : (s.setReg64 a v).mr = s.mr := rfl
@[simp] theorem State.setReg64_reqs (s : State) (a v : Nat) : (s.setReg64 a v).reqs = s.reqs := rfl
@[simp] theorem State.setReg64_saves (s : State) (a v : Nat) : (s.setReg64 a v).saves = s.saves := rfl
@[simp] theorem State.setReg64_prs (s : State) (a v : Nat) : (s.setReg64 a v).prs = s.prs := rfl
@[simp] theorem State.setReg64_refs (s : State) (a v : Nat) : (s.setReg64 a v).refs = s.refs := rfl
@[simp] theorem State.setReg64_bases (s : State) (a v : Nat) : (s.setReg64 a v).bases = s.bases := rfl
@[simp] theorem State.setReg64_ctxs (s : State) (a v : Nat) : (s.setReg64 a v).ctxs = s.ctxs := rfl
@[simp] theorem State.setReg64_strms (s : State) (a v : Nat) : (s.setReg64 a v).strms = s.strms := rfl
@[simp] theorem State.setReg64_pert (s : State) (a v : Nat) : (s.setReg64 a v).pert = s.pert := rfl
@[simp] theorem State.setReg64_pair (s : State) (a v : Nat) : (s.setReg64 a v).pair = s.pair := rfl
@[simp] theorem State.setReg64_eng (s : State) (a v : Nat) : (s.setReg64 a v).eng = s.eng := rfl
@[simp] theorem State.setReg64_act (s : State) (a v : Nat) : (s.setReg64 a v).act = s.act := rfl
@[simp] theorem State.setReg64_msr (s : State) (a v : Nat) : (s.setReg64 a v).msr = s.msr := rfl
@[simp] theorem State.setReg64_link (s : State) (a v : Nat) : (s.setReg64 a v).link = s.link := rfl
@[simp] theorem State.setReg64_psave (s : State) (a v : Nat) : (s.setReg64 a v).psave = s.psave := rfl

@[simp] theorem State.reg_setReg_self (s : State) (a : Nat) (v : W32) : (s.setReg a v).reg a = v := by simp [State.setReg, State.reg]

theorem State.reg_setReg_ne (s : State) {a b : Nat} (v : W32) (h : b ≠ a) : (s.setReg a v).reg b = s.reg b := by
  simp [State.setReg, State.reg, Tab.getD_setD_ne _ _ _ _ h]

/-- Reading a register after setting one. -/
theorem State.reg_setReg (s : State) (a b : Nat) (v : W32) : (s.setReg a v).reg b = if b = a then v else s.reg b := by
  by_cases h : b = a
  · subst h; simp
  · simp [h, State.reg_setReg_ne]

@[simp] theorem State.reg_orReg_self (s : State) (a m : Nat) : (s.orReg a m).reg a = s.reg a ||| BitVec.ofNat 32 m := by simp [State.orReg]
@[simp] theorem State.reg_clrReg_self (s : State) (a m : Nat) : (s.clrReg a m).reg a = s.reg a &&& ~~~(BitVec.ofNat 32 m) := by simp [State.clrReg]
@[simp] theorem State.reg_incReg_self (s : State) (a n : Nat) : (s.incReg a n).reg a = satAdd (s.reg a) n := by simp [State.incReg]
@[simp] theorem State.reg_incWrap_self (s : State) (a n : Nat) : (s.incWrap a n).reg a = s.reg a + BitVec.ofNat 32 n := by simp [State.incWrap]

theorem State.reg_orReg_ne (s : State) {a b : Nat} (m : Nat) (h : b ≠ a) : (s.orReg a m).reg b = s.reg b := by simp [State.orReg, State.reg_setReg_ne _ _ h]
theorem State.reg_clrReg_ne (s : State) {a b : Nat} (m : Nat) (h : b ≠ a) : (s.clrReg a m).reg b = s.reg b := by simp [State.clrReg, State.reg_setReg_ne _ _ h]
theorem State.reg_incReg_ne (s : State) {a b : Nat} (n : Nat) (h : b ≠ a) : (s.incReg a n).reg b = s.reg b := by simp [State.incReg, State.reg_setReg_ne _ _ h]
theorem State.reg_incWrap_ne (s : State) {a b : Nat} (n : Nat) (h : b ≠ a) : (s.incWrap a n).reg b = s.reg b := by simp [State.incWrap, State.reg_setReg_ne _ _ h]
theorem State.reg_setFld_ne (s : State) {a b : Nat} (hi lo v : Nat) (h : b ≠ a) : (s.setFld a hi lo v).reg b = s.reg b := by simp [State.setFld, State.reg_setReg_ne _ _ h]

@[simp] theorem State.reg_mk (p : List Instr) (s : State) (a : Nat) : State.reg { s with pending := p } a = s.reg a := rfl

/-! ## Contexts, arrays, cores -/

@[simp] theorem State.setCtx_pending (s : State) (i : Nat) (c : Ctx) : (s.setCtx i c).pending = s.pending := rfl
@[simp] theorem State.setCtx_regs (s : State) (i : Nat) (c : Ctx) : (s.setCtx i c).regs = s.regs := rfl
@[simp] theorem State.setCtx_req (s : State) (i : Nat) (c : Ctx) : (s.setCtx i c).req = s.req := rfl
@[simp] theorem State.setCtx_mem (s : State) (i : Nat) (c : Ctx) : (s.setCtx i c).mem = s.mem := rfl
@[simp] theorem State.setCtx_sync (s : State) (i : Nat) (c : Ctx) : (s.setCtx i c).sync = s.sync := rfl
@[simp] theorem State.setCtx_ev (s : State) (i : Nat) (c : Ctx) : (s.setCtx i c).ev = s.ev := rfl
@[simp] theorem State.setCtx_cnt (s : State) (i : Nat) (c : Ctx) : (s.setCtx i c).cnt = s.cnt := rfl
@[simp] theorem State.setCtx_rst (s : State) (i : Nat) (c : Ctx) : (s.setCtx i c).rst = s.rst := rfl
@[simp] theorem State.setCtx_host (s : State) (i : Nat) (c : Ctx) : (s.setCtx i c).host = s.host := rfl
@[simp] theorem State.setCtx_nvs (s : State) (i : Nat) (c : Ctx) : (s.setCtx i c).nvs = s.nvs := rfl
@[simp] theorem State.setCtx_fus (s : State) (i : Nat) (c : Ctx) : (s.setCtx i c).fus = s.fus := rfl
@[simp] theorem State.setCtx_sec (s : State) (i : Nat) (c : Ctx) : (s.setCtx i c).sec = s.sec := rfl
@[simp] theorem State.setCtx_arrs (s : State) (i : Nat) (c : Ctx) : (s.setCtx i c).arrs = s.arrs := rfl
@[simp] theorem State.setCtx_cors (s : State) (i : Nat) (c : Ctx) : (s.setCtx i c).cors = s.cors := rfl
@[simp] theorem State.setCtx_pcm (s : State) (i : Nat) (c : Ctx) : (s.setCtx i c).pcm = s.pcm := rfl
@[simp] theorem State.setCtx_cores (s : State) (i : Nat) (c : Ctx) : (s.setCtx i c).cores = s.cores := rfl
@[simp] theorem State.setCtx_mr (s : State) (i : Nat) (c : Ctx) : (s.setCtx i c).mr = s.mr := rfl
@[simp] theorem State.setCtx_reqs (s : State) (i : Nat) (c : Ctx) : (s.setCtx i c).reqs = s.reqs := rfl
@[simp] theorem State.setCtx_saves (s : State) (i : Nat) (c : Ctx) : (s.setCtx i c).saves = s.saves := rfl
@[simp] theorem State.setCtx_prs (s : State) (i : Nat) (c : Ctx) : (s.setCtx i c).prs = s.prs := rfl
@[simp] theorem State.setCtx_refs (s : State) (i : Nat) (c : Ctx) : (s.setCtx i c).refs = s.refs := rfl
@[simp] theorem State.setCtx_bases (s : State) (i : Nat) (c : Ctx) : (s.setCtx i c).bases = s.bases := rfl
@[simp] theorem State.setCtx_strms (s : State) (i : Nat) (c : Ctx) : (s.setCtx i c).strms = s.strms := rfl
@[simp] theorem State.setCtx_pert (s : State) (i : Nat) (c : Ctx) : (s.setCtx i c).pert = s.pert := rfl
@[simp] theorem State.setCtx_pair (s : State) (i : Nat) (c : Ctx) : (s.setCtx i c).pair = s.pair := rfl
@[simp] theorem State.setCtx_eng (s : State) (i : Nat) (c : Ctx) : (s.setCtx i c).eng = s.eng := rfl
@[simp] theorem State.setCtx_act (s : State) (i : Nat) (c : Ctx) : (s.setCtx i c).act = s.act := rfl
@[simp] theorem State.setCtx_msr (s : State) (i : Nat) (c : Ctx) : (s.setCtx i c).msr = s.msr := rfl
@[simp] theorem State.setCtx_link (s : State) (i : Nat) (c : Ctx) : (s.setCtx i c).link = s.link := rfl
@[simp] theorem State.setCtx_psave (s : State) (i : Nat) (c : Ctx) : (s.setCtx i c).psave = s.psave := rfl

@[simp] theorem State.onCtx_pending (s : State) (i : Nat) (f : Ctx → Ctx) : (s.onCtx i f).pending = s.pending := rfl
@[simp] theorem State.onCtx_regs (s : State) (i : Nat) (f : Ctx → Ctx) : (s.onCtx i f).regs = s.regs := rfl
@[simp] theorem State.onCtx_req (s : State) (i : Nat) (f : Ctx → Ctx) : (s.onCtx i f).req = s.req := rfl
@[simp] theorem State.onCtx_mem (s : State) (i : Nat) (f : Ctx → Ctx) : (s.onCtx i f).mem = s.mem := rfl
@[simp] theorem State.onCtx_sync (s : State) (i : Nat) (f : Ctx → Ctx) : (s.onCtx i f).sync = s.sync := rfl
@[simp] theorem State.onCtx_ev (s : State) (i : Nat) (f : Ctx → Ctx) : (s.onCtx i f).ev = s.ev := rfl
@[simp] theorem State.onCtx_cnt (s : State) (i : Nat) (f : Ctx → Ctx) : (s.onCtx i f).cnt = s.cnt := rfl
@[simp] theorem State.onCtx_rst (s : State) (i : Nat) (f : Ctx → Ctx) : (s.onCtx i f).rst = s.rst := rfl
@[simp] theorem State.onCtx_host (s : State) (i : Nat) (f : Ctx → Ctx) : (s.onCtx i f).host = s.host := rfl
@[simp] theorem State.onCtx_nvs (s : State) (i : Nat) (f : Ctx → Ctx) : (s.onCtx i f).nvs = s.nvs := rfl
@[simp] theorem State.onCtx_fus (s : State) (i : Nat) (f : Ctx → Ctx) : (s.onCtx i f).fus = s.fus := rfl
@[simp] theorem State.onCtx_sec (s : State) (i : Nat) (f : Ctx → Ctx) : (s.onCtx i f).sec = s.sec := rfl
@[simp] theorem State.onCtx_arrs (s : State) (i : Nat) (f : Ctx → Ctx) : (s.onCtx i f).arrs = s.arrs := rfl
@[simp] theorem State.onCtx_cors (s : State) (i : Nat) (f : Ctx → Ctx) : (s.onCtx i f).cors = s.cors := rfl
@[simp] theorem State.onCtx_pcm (s : State) (i : Nat) (f : Ctx → Ctx) : (s.onCtx i f).pcm = s.pcm := rfl
@[simp] theorem State.onCtx_cores (s : State) (i : Nat) (f : Ctx → Ctx) : (s.onCtx i f).cores = s.cores := rfl
@[simp] theorem State.onCtx_mr (s : State) (i : Nat) (f : Ctx → Ctx) : (s.onCtx i f).mr = s.mr := rfl
@[simp] theorem State.onCtx_reqs (s : State) (i : Nat) (f : Ctx → Ctx) : (s.onCtx i f).reqs = s.reqs := rfl
@[simp] theorem State.onCtx_saves (s : State) (i : Nat) (f : Ctx → Ctx) : (s.onCtx i f).saves = s.saves := rfl
@[simp] theorem State.onCtx_prs (s : State) (i : Nat) (f : Ctx → Ctx) : (s.onCtx i f).prs = s.prs := rfl
@[simp] theorem State.onCtx_refs (s : State) (i : Nat) (f : Ctx → Ctx) : (s.onCtx i f).refs = s.refs := rfl
@[simp] theorem State.onCtx_bases (s : State) (i : Nat) (f : Ctx → Ctx) : (s.onCtx i f).bases = s.bases := rfl
@[simp] theorem State.onCtx_strms (s : State) (i : Nat) (f : Ctx → Ctx) : (s.onCtx i f).strms = s.strms := rfl
@[simp] theorem State.onCtx_pert (s : State) (i : Nat) (f : Ctx → Ctx) : (s.onCtx i f).pert = s.pert := rfl
@[simp] theorem State.onCtx_pair (s : State) (i : Nat) (f : Ctx → Ctx) : (s.onCtx i f).pair = s.pair := rfl
@[simp] theorem State.onCtx_eng (s : State) (i : Nat) (f : Ctx → Ctx) : (s.onCtx i f).eng = s.eng := rfl
@[simp] theorem State.onCtx_act (s : State) (i : Nat) (f : Ctx → Ctx) : (s.onCtx i f).act = s.act := rfl
@[simp] theorem State.onCtx_msr (s : State) (i : Nat) (f : Ctx → Ctx) : (s.onCtx i f).msr = s.msr := rfl
@[simp] theorem State.onCtx_link (s : State) (i : Nat) (f : Ctx → Ctx) : (s.onCtx i f).link = s.link := rfl
@[simp] theorem State.onCtx_psave (s : State) (i : Nat) (f : Ctx → Ctx) : (s.onCtx i f).psave = s.psave := rfl

@[simp] theorem State.setArr_pending (s : State) (a : Nat) (x : Arr) : (s.setArr a x).pending = s.pending := rfl
@[simp] theorem State.setArr_regs (s : State) (a : Nat) (x : Arr) : (s.setArr a x).regs = s.regs := rfl
@[simp] theorem State.setArr_req (s : State) (a : Nat) (x : Arr) : (s.setArr a x).req = s.req := rfl
@[simp] theorem State.setArr_mem (s : State) (a : Nat) (x : Arr) : (s.setArr a x).mem = s.mem := rfl
@[simp] theorem State.setArr_sync (s : State) (a : Nat) (x : Arr) : (s.setArr a x).sync = s.sync := rfl
@[simp] theorem State.setArr_ev (s : State) (a : Nat) (x : Arr) : (s.setArr a x).ev = s.ev := rfl
@[simp] theorem State.setArr_cnt (s : State) (a : Nat) (x : Arr) : (s.setArr a x).cnt = s.cnt := rfl
@[simp] theorem State.setArr_rst (s : State) (a : Nat) (x : Arr) : (s.setArr a x).rst = s.rst := rfl
@[simp] theorem State.setArr_host (s : State) (a : Nat) (x : Arr) : (s.setArr a x).host = s.host := rfl
@[simp] theorem State.setArr_nvs (s : State) (a : Nat) (x : Arr) : (s.setArr a x).nvs = s.nvs := rfl
@[simp] theorem State.setArr_fus (s : State) (a : Nat) (x : Arr) : (s.setArr a x).fus = s.fus := rfl
@[simp] theorem State.setArr_sec (s : State) (a : Nat) (x : Arr) : (s.setArr a x).sec = s.sec := rfl
@[simp] theorem State.setArr_cors (s : State) (a : Nat) (x : Arr) : (s.setArr a x).cors = s.cors := rfl
@[simp] theorem State.setArr_pcm (s : State) (a : Nat) (x : Arr) : (s.setArr a x).pcm = s.pcm := rfl
@[simp] theorem State.setArr_cores (s : State) (a : Nat) (x : Arr) : (s.setArr a x).cores = s.cores := rfl
@[simp] theorem State.setArr_mr (s : State) (a : Nat) (x : Arr) : (s.setArr a x).mr = s.mr := rfl
@[simp] theorem State.setArr_reqs (s : State) (a : Nat) (x : Arr) : (s.setArr a x).reqs = s.reqs := rfl
@[simp] theorem State.setArr_saves (s : State) (a : Nat) (x : Arr) : (s.setArr a x).saves = s.saves := rfl
@[simp] theorem State.setArr_prs (s : State) (a : Nat) (x : Arr) : (s.setArr a x).prs = s.prs := rfl
@[simp] theorem State.setArr_refs (s : State) (a : Nat) (x : Arr) : (s.setArr a x).refs = s.refs := rfl
@[simp] theorem State.setArr_bases (s : State) (a : Nat) (x : Arr) : (s.setArr a x).bases = s.bases := rfl
@[simp] theorem State.setArr_ctxs (s : State) (a : Nat) (x : Arr) : (s.setArr a x).ctxs = s.ctxs := rfl
@[simp] theorem State.setArr_strms (s : State) (a : Nat) (x : Arr) : (s.setArr a x).strms = s.strms := rfl
@[simp] theorem State.setArr_pert (s : State) (a : Nat) (x : Arr) : (s.setArr a x).pert = s.pert := rfl
@[simp] theorem State.setArr_pair (s : State) (a : Nat) (x : Arr) : (s.setArr a x).pair = s.pair := rfl
@[simp] theorem State.setArr_eng (s : State) (a : Nat) (x : Arr) : (s.setArr a x).eng = s.eng := rfl
@[simp] theorem State.setArr_act (s : State) (a : Nat) (x : Arr) : (s.setArr a x).act = s.act := rfl
@[simp] theorem State.setArr_msr (s : State) (a : Nat) (x : Arr) : (s.setArr a x).msr = s.msr := rfl
@[simp] theorem State.setArr_link (s : State) (a : Nat) (x : Arr) : (s.setArr a x).link = s.link := rfl
@[simp] theorem State.setArr_psave (s : State) (a : Nat) (x : Arr) : (s.setArr a x).psave = s.psave := rfl

@[simp] theorem State.setCore_pending (s : State) (c : Nat) (x : CoreSt) : (s.setCore c x).pending = s.pending := rfl
@[simp] theorem State.setCore_regs (s : State) (c : Nat) (x : CoreSt) : (s.setCore c x).regs = s.regs := rfl
@[simp] theorem State.setCore_req (s : State) (c : Nat) (x : CoreSt) : (s.setCore c x).req = s.req := rfl
@[simp] theorem State.setCore_mem (s : State) (c : Nat) (x : CoreSt) : (s.setCore c x).mem = s.mem := rfl
@[simp] theorem State.setCore_sync (s : State) (c : Nat) (x : CoreSt) : (s.setCore c x).sync = s.sync := rfl
@[simp] theorem State.setCore_ev (s : State) (c : Nat) (x : CoreSt) : (s.setCore c x).ev = s.ev := rfl
@[simp] theorem State.setCore_cnt (s : State) (c : Nat) (x : CoreSt) : (s.setCore c x).cnt = s.cnt := rfl
@[simp] theorem State.setCore_rst (s : State) (c : Nat) (x : CoreSt) : (s.setCore c x).rst = s.rst := rfl
@[simp] theorem State.setCore_host (s : State) (c : Nat) (x : CoreSt) : (s.setCore c x).host = s.host := rfl
@[simp] theorem State.setCore_nvs (s : State) (c : Nat) (x : CoreSt) : (s.setCore c x).nvs = s.nvs := rfl
@[simp] theorem State.setCore_fus (s : State) (c : Nat) (x : CoreSt) : (s.setCore c x).fus = s.fus := rfl
@[simp] theorem State.setCore_sec (s : State) (c : Nat) (x : CoreSt) : (s.setCore c x).sec = s.sec := rfl
@[simp] theorem State.setCore_arrs (s : State) (c : Nat) (x : CoreSt) : (s.setCore c x).arrs = s.arrs := rfl
@[simp] theorem State.setCore_cors (s : State) (c : Nat) (x : CoreSt) : (s.setCore c x).cors = s.cors := rfl
@[simp] theorem State.setCore_pcm (s : State) (c : Nat) (x : CoreSt) : (s.setCore c x).pcm = s.pcm := rfl
@[simp] theorem State.setCore_mr (s : State) (c : Nat) (x : CoreSt) : (s.setCore c x).mr = s.mr := rfl
@[simp] theorem State.setCore_reqs (s : State) (c : Nat) (x : CoreSt) : (s.setCore c x).reqs = s.reqs := rfl
@[simp] theorem State.setCore_saves (s : State) (c : Nat) (x : CoreSt) : (s.setCore c x).saves = s.saves := rfl
@[simp] theorem State.setCore_prs (s : State) (c : Nat) (x : CoreSt) : (s.setCore c x).prs = s.prs := rfl
@[simp] theorem State.setCore_refs (s : State) (c : Nat) (x : CoreSt) : (s.setCore c x).refs = s.refs := rfl
@[simp] theorem State.setCore_bases (s : State) (c : Nat) (x : CoreSt) : (s.setCore c x).bases = s.bases := rfl
@[simp] theorem State.setCore_ctxs (s : State) (c : Nat) (x : CoreSt) : (s.setCore c x).ctxs = s.ctxs := rfl
@[simp] theorem State.setCore_strms (s : State) (c : Nat) (x : CoreSt) : (s.setCore c x).strms = s.strms := rfl
@[simp] theorem State.setCore_pert (s : State) (c : Nat) (x : CoreSt) : (s.setCore c x).pert = s.pert := rfl
@[simp] theorem State.setCore_pair (s : State) (c : Nat) (x : CoreSt) : (s.setCore c x).pair = s.pair := rfl
@[simp] theorem State.setCore_eng (s : State) (c : Nat) (x : CoreSt) : (s.setCore c x).eng = s.eng := rfl
@[simp] theorem State.setCore_act (s : State) (c : Nat) (x : CoreSt) : (s.setCore c x).act = s.act := rfl
@[simp] theorem State.setCore_msr (s : State) (c : Nat) (x : CoreSt) : (s.setCore c x).msr = s.msr := rfl
@[simp] theorem State.setCore_link (s : State) (c : Nat) (x : CoreSt) : (s.setCore c x).link = s.link := rfl
@[simp] theorem State.setCore_psave (s : State) (c : Nat) (x : CoreSt) : (s.setCore c x).psave = s.psave := rfl

@[simp] theorem State.addSync_pending (s : State) (i : Nat) (v : W32) : (s.addSync i v).pending = s.pending := rfl
@[simp] theorem State.addSync_regs (s : State) (i : Nat) (v : W32) : (s.addSync i v).regs = s.regs := rfl
@[simp] theorem State.addSync_req (s : State) (i : Nat) (v : W32) : (s.addSync i v).req = s.req := rfl
@[simp] theorem State.addSync_mem (s : State) (i : Nat) (v : W32) : (s.addSync i v).mem = s.mem := rfl
@[simp] theorem State.addSync_ev (s : State) (i : Nat) (v : W32) : (s.addSync i v).ev = s.ev := rfl
@[simp] theorem State.addSync_cnt (s : State) (i : Nat) (v : W32) : (s.addSync i v).cnt = s.cnt := rfl
@[simp] theorem State.addSync_rst (s : State) (i : Nat) (v : W32) : (s.addSync i v).rst = s.rst := rfl
@[simp] theorem State.addSync_host (s : State) (i : Nat) (v : W32) : (s.addSync i v).host = s.host := rfl
@[simp] theorem State.addSync_nvs (s : State) (i : Nat) (v : W32) : (s.addSync i v).nvs = s.nvs := rfl
@[simp] theorem State.addSync_fus (s : State) (i : Nat) (v : W32) : (s.addSync i v).fus = s.fus := rfl
@[simp] theorem State.addSync_sec (s : State) (i : Nat) (v : W32) : (s.addSync i v).sec = s.sec := rfl
@[simp] theorem State.addSync_arrs (s : State) (i : Nat) (v : W32) : (s.addSync i v).arrs = s.arrs := rfl
@[simp] theorem State.addSync_cors (s : State) (i : Nat) (v : W32) : (s.addSync i v).cors = s.cors := rfl
@[simp] theorem State.addSync_pcm (s : State) (i : Nat) (v : W32) : (s.addSync i v).pcm = s.pcm := rfl
@[simp] theorem State.addSync_cores (s : State) (i : Nat) (v : W32) : (s.addSync i v).cores = s.cores := rfl
@[simp] theorem State.addSync_mr (s : State) (i : Nat) (v : W32) : (s.addSync i v).mr = s.mr := rfl
@[simp] theorem State.addSync_reqs (s : State) (i : Nat) (v : W32) : (s.addSync i v).reqs = s.reqs := rfl
@[simp] theorem State.addSync_saves (s : State) (i : Nat) (v : W32) : (s.addSync i v).saves = s.saves := rfl
@[simp] theorem State.addSync_prs (s : State) (i : Nat) (v : W32) : (s.addSync i v).prs = s.prs := rfl
@[simp] theorem State.addSync_refs (s : State) (i : Nat) (v : W32) : (s.addSync i v).refs = s.refs := rfl
@[simp] theorem State.addSync_bases (s : State) (i : Nat) (v : W32) : (s.addSync i v).bases = s.bases := rfl
@[simp] theorem State.addSync_ctxs (s : State) (i : Nat) (v : W32) : (s.addSync i v).ctxs = s.ctxs := rfl
@[simp] theorem State.addSync_strms (s : State) (i : Nat) (v : W32) : (s.addSync i v).strms = s.strms := rfl
@[simp] theorem State.addSync_pert (s : State) (i : Nat) (v : W32) : (s.addSync i v).pert = s.pert := rfl
@[simp] theorem State.addSync_pair (s : State) (i : Nat) (v : W32) : (s.addSync i v).pair = s.pair := rfl
@[simp] theorem State.addSync_eng (s : State) (i : Nat) (v : W32) : (s.addSync i v).eng = s.eng := rfl
@[simp] theorem State.addSync_act (s : State) (i : Nat) (v : W32) : (s.addSync i v).act = s.act := rfl
@[simp] theorem State.addSync_msr (s : State) (i : Nat) (v : W32) : (s.addSync i v).msr = s.msr := rfl
@[simp] theorem State.addSync_link (s : State) (i : Nat) (v : W32) : (s.addSync i v).link = s.link := rfl
@[simp] theorem State.addSync_psave (s : State) (i : Nat) (v : W32) : (s.addSync i v).psave = s.psave := rfl

@[simp] theorem State.advance_pending (s : State) (i : Nat) : (s.advance i).pending = s.pending := rfl
@[simp] theorem State.advance_regs (s : State) (i : Nat) : (s.advance i).regs = s.regs := rfl
@[simp] theorem State.advance_req (s : State) (i : Nat) : (s.advance i).req = s.req := rfl
@[simp] theorem State.advance_mem (s : State) (i : Nat) : (s.advance i).mem = s.mem := rfl
@[simp] theorem State.advance_sync (s : State) (i : Nat) : (s.advance i).sync = s.sync := rfl
@[simp] theorem State.advance_ev (s : State) (i : Nat) : (s.advance i).ev = s.ev := rfl
@[simp] theorem State.advance_cnt (s : State) (i : Nat) : (s.advance i).cnt = s.cnt := rfl
@[simp] theorem State.advance_rst (s : State) (i : Nat) : (s.advance i).rst = s.rst := rfl
@[simp] theorem State.advance_host (s : State) (i : Nat) : (s.advance i).host = s.host := rfl
@[simp] theorem State.advance_nvs (s : State) (i : Nat) : (s.advance i).nvs = s.nvs := rfl
@[simp] theorem State.advance_fus (s : State) (i : Nat) : (s.advance i).fus = s.fus := rfl
@[simp] theorem State.advance_sec (s : State) (i : Nat) : (s.advance i).sec = s.sec := rfl
@[simp] theorem State.advance_arrs (s : State) (i : Nat) : (s.advance i).arrs = s.arrs := rfl
@[simp] theorem State.advance_cors (s : State) (i : Nat) : (s.advance i).cors = s.cors := rfl
@[simp] theorem State.advance_pcm (s : State) (i : Nat) : (s.advance i).pcm = s.pcm := rfl
@[simp] theorem State.advance_cores (s : State) (i : Nat) : (s.advance i).cores = s.cores := rfl
@[simp] theorem State.advance_mr (s : State) (i : Nat) : (s.advance i).mr = s.mr := rfl
@[simp] theorem State.advance_reqs (s : State) (i : Nat) : (s.advance i).reqs = s.reqs := rfl
@[simp] theorem State.advance_saves (s : State) (i : Nat) : (s.advance i).saves = s.saves := rfl
@[simp] theorem State.advance_prs (s : State) (i : Nat) : (s.advance i).prs = s.prs := rfl
@[simp] theorem State.advance_refs (s : State) (i : Nat) : (s.advance i).refs = s.refs := rfl
@[simp] theorem State.advance_bases (s : State) (i : Nat) : (s.advance i).bases = s.bases := rfl
@[simp] theorem State.advance_strms (s : State) (i : Nat) : (s.advance i).strms = s.strms := rfl
@[simp] theorem State.advance_pert (s : State) (i : Nat) : (s.advance i).pert = s.pert := rfl
@[simp] theorem State.advance_pair (s : State) (i : Nat) : (s.advance i).pair = s.pair := rfl
@[simp] theorem State.advance_eng (s : State) (i : Nat) : (s.advance i).eng = s.eng := rfl
@[simp] theorem State.advance_act (s : State) (i : Nat) : (s.advance i).act = s.act := rfl
@[simp] theorem State.advance_msr (s : State) (i : Nat) : (s.advance i).msr = s.msr := rfl
@[simp] theorem State.advance_link (s : State) (i : Nat) : (s.advance i).link = s.link := rfl
@[simp] theorem State.advance_psave (s : State) (i : Nat) : (s.advance i).psave = s.psave := rfl

@[simp] theorem State.ctx_setCtx_self (s : State) (i : Nat) (c : Ctx) : (s.setCtx i c).ctx i = c := by simp [State.setCtx, State.ctx]
theorem State.ctx_setCtx_ne (s : State) {i j : Nat} (c : Ctx) (h : j ≠ i) : (s.setCtx i c).ctx j = s.ctx j := by
  simp [State.setCtx, State.ctx, Tab.getD_setD_ne _ _ _ _ h]
@[simp] theorem State.ctx_onCtx_self (s : State) (i : Nat) (f : Ctx → Ctx) : (s.onCtx i f).ctx i = f (s.ctx i) := by simp [State.onCtx]
theorem State.ctx_onCtx_ne (s : State) {i j : Nat} (f : Ctx → Ctx) (h : j ≠ i) : (s.onCtx i f).ctx j = s.ctx j := by
  simp [State.onCtx, State.ctx_setCtx_ne _ _ h]
@[simp] theorem State.ctx_advance_self (s : State) (i : Nat) : (s.advance i).ctx i = { s.ctx i with pc := (s.ctx i).pc + 8 } := by simp [State.advance]
theorem State.ctx_advance_ne (s : State) {i j : Nat} (h : j ≠ i) : (s.advance i).ctx j = s.ctx j := by simp [State.advance, State.ctx_onCtx_ne _ _ h]
@[simp] theorem State.arr_setArr_self (s : State) (a : Nat) (x : Arr) : (s.setArr a x).arr a = x := by simp [State.setArr, State.arr]
theorem State.arr_setArr_ne (s : State) {a b : Nat} (x : Arr) (h : b ≠ a) : (s.setArr a x).arr b = s.arr b := by
  simp [State.setArr, State.arr, Tab.getD_setD_ne _ _ _ _ h]
@[simp] theorem State.core_setCore_self (s : State) (c : Nat) (x : CoreSt) : (s.setCore c x).core c = x := by simp [State.setCore, State.core]
theorem State.core_setCore_ne (s : State) {a b : Nat} (x : CoreSt) (h : b ≠ a) : (s.setCore a x).core b = s.core b := by
  simp [State.setCore, State.core, Tab.getD_setD_ne _ _ _ _ h]
@[simp] theorem State.sync_addSync_self (s : State) (i : Nat) (v : W32) : Tab.getD (s.addSync i v).sync i 0 = Tab.getD s.sync i 0 + v := by
  simp [State.addSync]
theorem State.sync_addSync_ne (s : State) {i j : Nat} (v : W32) (h : j ≠ i) : Tab.getD (s.addSync i v).sync j 0 = Tab.getD s.sync j 0 := by
  simp [State.addSync, Tab.getD_setD_ne _ _ _ _ h]

/-! Registers do not depend on what other updates change. -/
@[simp] theorem State.reg_setCtx (s : State) (i : Nat) (c : Ctx) (a : Nat) : (s.setCtx i c).reg a = s.reg a := rfl
@[simp] theorem State.reg_onCtx (s : State) (i : Nat) (f : Ctx → Ctx) (a : Nat) : (s.onCtx i f).reg a = s.reg a := rfl
@[simp] theorem State.reg_setArr (s : State) (i : Nat) (x : Arr) (a : Nat) : (s.setArr i x).reg a = s.reg a := rfl
@[simp] theorem State.reg_setCore (s : State) (i : Nat) (x : CoreSt) (a : Nat) : (s.setCore i x).reg a = s.reg a := rfl
@[simp] theorem State.reg_addSync (s : State) (i : Nat) (v : W32) (a : Nat) : (s.addSync i v).reg a = s.reg a := rfl
@[simp] theorem State.ctx_setReg (s : State) (a : Nat) (v : W32) (i : Nat) : (s.setReg a v).ctx i = s.ctx i := rfl
@[simp] theorem State.arr_setReg (s : State) (a : Nat) (v : W32) (i : Nat) : (s.setReg a v).arr i = s.arr i := rfl
@[simp] theorem State.ctx_setArr (s : State) (a : Nat) (x : Arr) (i : Nat) : (s.setArr a x).ctx i = s.ctx i := rfl
@[simp] theorem State.arr_setCtx (s : State) (i : Nat) (c : Ctx) (a : Nat) : (s.setCtx i c).arr a = s.arr a := rfl
@[simp] theorem State.ctx_addSync (s : State) (j : Nat) (v : W32) (i : Nat) : (s.addSync j v).ctx i = s.ctx i := rfl

/-! ## Events -/

@[simp] theorem State.setEq_pending (s : State) (p : Nat) (q : EqSt) : (s.setEq p q).pending = s.pending := rfl
@[simp] theorem State.setEq_regs (s : State) (p : Nat) (q : EqSt) : (s.setEq p q).regs = s.regs := rfl
@[simp] theorem State.setEq_req (s : State) (p : Nat) (q : EqSt) : (s.setEq p q).req = s.req := rfl
@[simp] theorem State.setEq_mem (s : State) (p : Nat) (q : EqSt) : (s.setEq p q).mem = s.mem := rfl
@[simp] theorem State.setEq_sync (s : State) (p : Nat) (q : EqSt) : (s.setEq p q).sync = s.sync := rfl
@[simp] theorem State.setEq_cnt (s : State) (p : Nat) (q : EqSt) : (s.setEq p q).cnt = s.cnt := rfl
@[simp] theorem State.setEq_rst (s : State) (p : Nat) (q : EqSt) : (s.setEq p q).rst = s.rst := rfl
@[simp] theorem State.setEq_host (s : State) (p : Nat) (q : EqSt) : (s.setEq p q).host = s.host := rfl
@[simp] theorem State.setEq_nvs (s : State) (p : Nat) (q : EqSt) : (s.setEq p q).nvs = s.nvs := rfl
@[simp] theorem State.setEq_fus (s : State) (p : Nat) (q : EqSt) : (s.setEq p q).fus = s.fus := rfl
@[simp] theorem State.setEq_sec (s : State) (p : Nat) (q : EqSt) : (s.setEq p q).sec = s.sec := rfl
@[simp] theorem State.setEq_arrs (s : State) (p : Nat) (q : EqSt) : (s.setEq p q).arrs = s.arrs := rfl
@[simp] theorem State.setEq_cors (s : State) (p : Nat) (q : EqSt) : (s.setEq p q).cors = s.cors := rfl
@[simp] theorem State.setEq_pcm (s : State) (p : Nat) (q : EqSt) : (s.setEq p q).pcm = s.pcm := rfl
@[simp] theorem State.setEq_cores (s : State) (p : Nat) (q : EqSt) : (s.setEq p q).cores = s.cores := rfl
@[simp] theorem State.setEq_mr (s : State) (p : Nat) (q : EqSt) : (s.setEq p q).mr = s.mr := rfl
@[simp] theorem State.setEq_reqs (s : State) (p : Nat) (q : EqSt) : (s.setEq p q).reqs = s.reqs := rfl
@[simp] theorem State.setEq_saves (s : State) (p : Nat) (q : EqSt) : (s.setEq p q).saves = s.saves := rfl
@[simp] theorem State.setEq_prs (s : State) (p : Nat) (q : EqSt) : (s.setEq p q).prs = s.prs := rfl
@[simp] theorem State.setEq_refs (s : State) (p : Nat) (q : EqSt) : (s.setEq p q).refs = s.refs := rfl
@[simp] theorem State.setEq_bases (s : State) (p : Nat) (q : EqSt) : (s.setEq p q).bases = s.bases := rfl
@[simp] theorem State.setEq_ctxs (s : State) (p : Nat) (q : EqSt) : (s.setEq p q).ctxs = s.ctxs := rfl
@[simp] theorem State.setEq_strms (s : State) (p : Nat) (q : EqSt) : (s.setEq p q).strms = s.strms := rfl
@[simp] theorem State.setEq_pert (s : State) (p : Nat) (q : EqSt) : (s.setEq p q).pert = s.pert := rfl
@[simp] theorem State.setEq_pair (s : State) (p : Nat) (q : EqSt) : (s.setEq p q).pair = s.pair := rfl
@[simp] theorem State.setEq_eng (s : State) (p : Nat) (q : EqSt) : (s.setEq p q).eng = s.eng := rfl
@[simp] theorem State.setEq_act (s : State) (p : Nat) (q : EqSt) : (s.setEq p q).act = s.act := rfl
@[simp] theorem State.setEq_msr (s : State) (p : Nat) (q : EqSt) : (s.setEq p q).msr = s.msr := rfl
@[simp] theorem State.setEq_link (s : State) (p : Nat) (q : EqSt) : (s.setEq p q).link = s.link := rfl
@[simp] theorem State.setEq_psave (s : State) (p : Nat) (q : EqSt) : (s.setEq p q).psave = s.psave := rfl

@[simp] theorem State.hostWrite_pending (s : State) (a : Nat) (bs : List Byte) : (s.hostWrite a bs).pending = s.pending := rfl
@[simp] theorem State.hostWrite_regs (s : State) (a : Nat) (bs : List Byte) : (s.hostWrite a bs).regs = s.regs := rfl
@[simp] theorem State.hostWrite_req (s : State) (a : Nat) (bs : List Byte) : (s.hostWrite a bs).req = s.req := rfl
@[simp] theorem State.hostWrite_sync (s : State) (a : Nat) (bs : List Byte) : (s.hostWrite a bs).sync = s.sync := rfl
@[simp] theorem State.hostWrite_ev (s : State) (a : Nat) (bs : List Byte) : (s.hostWrite a bs).ev = s.ev := rfl
@[simp] theorem State.hostWrite_cnt (s : State) (a : Nat) (bs : List Byte) : (s.hostWrite a bs).cnt = s.cnt := rfl
@[simp] theorem State.hostWrite_rst (s : State) (a : Nat) (bs : List Byte) : (s.hostWrite a bs).rst = s.rst := rfl
@[simp] theorem State.hostWrite_host (s : State) (a : Nat) (bs : List Byte) : (s.hostWrite a bs).host = s.host := rfl
@[simp] theorem State.hostWrite_nvs (s : State) (a : Nat) (bs : List Byte) : (s.hostWrite a bs).nvs = s.nvs := rfl
@[simp] theorem State.hostWrite_fus (s : State) (a : Nat) (bs : List Byte) : (s.hostWrite a bs).fus = s.fus := rfl
@[simp] theorem State.hostWrite_sec (s : State) (a : Nat) (bs : List Byte) : (s.hostWrite a bs).sec = s.sec := rfl
@[simp] theorem State.hostWrite_arrs (s : State) (a : Nat) (bs : List Byte) : (s.hostWrite a bs).arrs = s.arrs := rfl
@[simp] theorem State.hostWrite_cors (s : State) (a : Nat) (bs : List Byte) : (s.hostWrite a bs).cors = s.cors := rfl
@[simp] theorem State.hostWrite_pcm (s : State) (a : Nat) (bs : List Byte) : (s.hostWrite a bs).pcm = s.pcm := rfl
@[simp] theorem State.hostWrite_cores (s : State) (a : Nat) (bs : List Byte) : (s.hostWrite a bs).cores = s.cores := rfl
@[simp] theorem State.hostWrite_mr (s : State) (a : Nat) (bs : List Byte) : (s.hostWrite a bs).mr = s.mr := rfl
@[simp] theorem State.hostWrite_reqs (s : State) (a : Nat) (bs : List Byte) : (s.hostWrite a bs).reqs = s.reqs := rfl
@[simp] theorem State.hostWrite_saves (s : State) (a : Nat) (bs : List Byte) : (s.hostWrite a bs).saves = s.saves := rfl
@[simp] theorem State.hostWrite_prs (s : State) (a : Nat) (bs : List Byte) : (s.hostWrite a bs).prs = s.prs := rfl
@[simp] theorem State.hostWrite_refs (s : State) (a : Nat) (bs : List Byte) : (s.hostWrite a bs).refs = s.refs := rfl
@[simp] theorem State.hostWrite_bases (s : State) (a : Nat) (bs : List Byte) : (s.hostWrite a bs).bases = s.bases := rfl
@[simp] theorem State.hostWrite_ctxs (s : State) (a : Nat) (bs : List Byte) : (s.hostWrite a bs).ctxs = s.ctxs := rfl
@[simp] theorem State.hostWrite_strms (s : State) (a : Nat) (bs : List Byte) : (s.hostWrite a bs).strms = s.strms := rfl
@[simp] theorem State.hostWrite_pert (s : State) (a : Nat) (bs : List Byte) : (s.hostWrite a bs).pert = s.pert := rfl
@[simp] theorem State.hostWrite_pair (s : State) (a : Nat) (bs : List Byte) : (s.hostWrite a bs).pair = s.pair := rfl
@[simp] theorem State.hostWrite_eng (s : State) (a : Nat) (bs : List Byte) : (s.hostWrite a bs).eng = s.eng := rfl
@[simp] theorem State.hostWrite_act (s : State) (a : Nat) (bs : List Byte) : (s.hostWrite a bs).act = s.act := rfl
@[simp] theorem State.hostWrite_msr (s : State) (a : Nat) (bs : List Byte) : (s.hostWrite a bs).msr = s.msr := rfl
@[simp] theorem State.hostWrite_link (s : State) (a : Nat) (bs : List Byte) : (s.hostWrite a bs).link = s.link := rfl
@[simp] theorem State.hostWrite_psave (s : State) (a : Nat) (bs : List Byte) : (s.hostWrite a bs).psave = s.psave := rfl

@[simp] theorem State.msix_pending (s : State) (p v : Nat) : (s.msix p v).pending = s.pending := by unfold State.msix; dsimp only; repeat (first | rfl | split)
@[simp] theorem State.msix_regs (s : State) (p v : Nat) : (s.msix p v).regs = s.regs := by unfold State.msix; dsimp only; repeat (first | rfl | split)
@[simp] theorem State.msix_req (s : State) (p v : Nat) : (s.msix p v).req = s.req := by unfold State.msix; dsimp only; repeat (first | rfl | split)
@[simp] theorem State.msix_mem (s : State) (p v : Nat) : (s.msix p v).mem = s.mem := by unfold State.msix; dsimp only; repeat (first | rfl | split)
@[simp] theorem State.msix_sync (s : State) (p v : Nat) : (s.msix p v).sync = s.sync := by unfold State.msix; dsimp only; repeat (first | rfl | split)
@[simp] theorem State.msix_cnt (s : State) (p v : Nat) : (s.msix p v).cnt = s.cnt := by unfold State.msix; dsimp only; repeat (first | rfl | split)
@[simp] theorem State.msix_rst (s : State) (p v : Nat) : (s.msix p v).rst = s.rst := by unfold State.msix; dsimp only; repeat (first | rfl | split)
@[simp] theorem State.msix_host (s : State) (p v : Nat) : (s.msix p v).host = s.host := by unfold State.msix; dsimp only; repeat (first | rfl | split)
@[simp] theorem State.msix_nvs (s : State) (p v : Nat) : (s.msix p v).nvs = s.nvs := by unfold State.msix; dsimp only; repeat (first | rfl | split)
@[simp] theorem State.msix_fus (s : State) (p v : Nat) : (s.msix p v).fus = s.fus := by unfold State.msix; dsimp only; repeat (first | rfl | split)
@[simp] theorem State.msix_sec (s : State) (p v : Nat) : (s.msix p v).sec = s.sec := by unfold State.msix; dsimp only; repeat (first | rfl | split)
@[simp] theorem State.msix_arrs (s : State) (p v : Nat) : (s.msix p v).arrs = s.arrs := by unfold State.msix; dsimp only; repeat (first | rfl | split)
@[simp] theorem State.msix_cors (s : State) (p v : Nat) : (s.msix p v).cors = s.cors := by unfold State.msix; dsimp only; repeat (first | rfl | split)
@[simp] theorem State.msix_pcm (s : State) (p v : Nat) : (s.msix p v).pcm = s.pcm := by unfold State.msix; dsimp only; repeat (first | rfl | split)
@[simp] theorem State.msix_cores (s : State) (p v : Nat) : (s.msix p v).cores = s.cores := by unfold State.msix; dsimp only; repeat (first | rfl | split)
@[simp] theorem State.msix_mr (s : State) (p v : Nat) : (s.msix p v).mr = s.mr := by unfold State.msix; dsimp only; repeat (first | rfl | split)
@[simp] theorem State.msix_reqs (s : State) (p v : Nat) : (s.msix p v).reqs = s.reqs := by unfold State.msix; dsimp only; repeat (first | rfl | split)
@[simp] theorem State.msix_saves (s : State) (p v : Nat) : (s.msix p v).saves = s.saves := by unfold State.msix; dsimp only; repeat (first | rfl | split)
@[simp] theorem State.msix_prs (s : State) (p v : Nat) : (s.msix p v).prs = s.prs := by unfold State.msix; dsimp only; repeat (first | rfl | split)
@[simp] theorem State.msix_refs (s : State) (p v : Nat) : (s.msix p v).refs = s.refs := by unfold State.msix; dsimp only; repeat (first | rfl | split)
@[simp] theorem State.msix_bases (s : State) (p v : Nat) : (s.msix p v).bases = s.bases := by unfold State.msix; dsimp only; repeat (first | rfl | split)
@[simp] theorem State.msix_ctxs (s : State) (p v : Nat) : (s.msix p v).ctxs = s.ctxs := by unfold State.msix; dsimp only; repeat (first | rfl | split)
@[simp] theorem State.msix_strms (s : State) (p v : Nat) : (s.msix p v).strms = s.strms := by unfold State.msix; dsimp only; repeat (first | rfl | split)
@[simp] theorem State.msix_pert (s : State) (p v : Nat) : (s.msix p v).pert = s.pert := by unfold State.msix; dsimp only; repeat (first | rfl | split)
@[simp] theorem State.msix_pair (s : State) (p v : Nat) : (s.msix p v).pair = s.pair := by unfold State.msix; dsimp only; repeat (first | rfl | split)
@[simp] theorem State.msix_eng (s : State) (p v : Nat) : (s.msix p v).eng = s.eng := by unfold State.msix; dsimp only; repeat (first | rfl | split)
@[simp] theorem State.msix_act (s : State) (p v : Nat) : (s.msix p v).act = s.act := by unfold State.msix; dsimp only; repeat (first | rfl | split)
@[simp] theorem State.msix_msr (s : State) (p v : Nat) : (s.msix p v).msr = s.msr := by unfold State.msix; dsimp only; repeat (first | rfl | split)
@[simp] theorem State.msix_link (s : State) (p v : Nat) : (s.msix p v).link = s.link := by unfold State.msix; dsimp only; repeat (first | rfl | split)
@[simp] theorem State.msix_psave (s : State) (p v : Nat) : (s.msix p v).psave = s.psave := by unfold State.msix; dsimp only; repeat (first | rfl | split)

@[simp] theorem State.eqPut_pending (s : State) (p : Nat) (e : EvRec) : (s.eqPut p e).pending = s.pending := by simp [State.eqPut]
@[simp] theorem State.eqPut_regs (s : State) (p : Nat) (e : EvRec) : (s.eqPut p e).regs = s.regs := by simp [State.eqPut]
@[simp] theorem State.eqPut_req (s : State) (p : Nat) (e : EvRec) : (s.eqPut p e).req = s.req := by simp [State.eqPut]
@[simp] theorem State.eqPut_sync (s : State) (p : Nat) (e : EvRec) : (s.eqPut p e).sync = s.sync := by simp [State.eqPut]
@[simp] theorem State.eqPut_cnt (s : State) (p : Nat) (e : EvRec) : (s.eqPut p e).cnt = s.cnt := by simp [State.eqPut]
@[simp] theorem State.eqPut_rst (s : State) (p : Nat) (e : EvRec) : (s.eqPut p e).rst = s.rst := by simp [State.eqPut]
@[simp] theorem State.eqPut_host (s : State) (p : Nat) (e : EvRec) : (s.eqPut p e).host = s.host := by simp [State.eqPut]
@[simp] theorem State.eqPut_nvs (s : State) (p : Nat) (e : EvRec) : (s.eqPut p e).nvs = s.nvs := by simp [State.eqPut]
@[simp] theorem State.eqPut_fus (s : State) (p : Nat) (e : EvRec) : (s.eqPut p e).fus = s.fus := by simp [State.eqPut]
@[simp] theorem State.eqPut_sec (s : State) (p : Nat) (e : EvRec) : (s.eqPut p e).sec = s.sec := by simp [State.eqPut]
@[simp] theorem State.eqPut_arrs (s : State) (p : Nat) (e : EvRec) : (s.eqPut p e).arrs = s.arrs := by simp [State.eqPut]
@[simp] theorem State.eqPut_cors (s : State) (p : Nat) (e : EvRec) : (s.eqPut p e).cors = s.cors := by simp [State.eqPut]
@[simp] theorem State.eqPut_pcm (s : State) (p : Nat) (e : EvRec) : (s.eqPut p e).pcm = s.pcm := by simp [State.eqPut]
@[simp] theorem State.eqPut_cores (s : State) (p : Nat) (e : EvRec) : (s.eqPut p e).cores = s.cores := by simp [State.eqPut]
@[simp] theorem State.eqPut_mr (s : State) (p : Nat) (e : EvRec) : (s.eqPut p e).mr = s.mr := by simp [State.eqPut]
@[simp] theorem State.eqPut_reqs (s : State) (p : Nat) (e : EvRec) : (s.eqPut p e).reqs = s.reqs := by simp [State.eqPut]
@[simp] theorem State.eqPut_saves (s : State) (p : Nat) (e : EvRec) : (s.eqPut p e).saves = s.saves := by simp [State.eqPut]
@[simp] theorem State.eqPut_prs (s : State) (p : Nat) (e : EvRec) : (s.eqPut p e).prs = s.prs := by simp [State.eqPut]
@[simp] theorem State.eqPut_refs (s : State) (p : Nat) (e : EvRec) : (s.eqPut p e).refs = s.refs := by simp [State.eqPut]
@[simp] theorem State.eqPut_bases (s : State) (p : Nat) (e : EvRec) : (s.eqPut p e).bases = s.bases := by simp [State.eqPut]
@[simp] theorem State.eqPut_ctxs (s : State) (p : Nat) (e : EvRec) : (s.eqPut p e).ctxs = s.ctxs := by simp [State.eqPut]
@[simp] theorem State.eqPut_strms (s : State) (p : Nat) (e : EvRec) : (s.eqPut p e).strms = s.strms := by simp [State.eqPut]
@[simp] theorem State.eqPut_pert (s : State) (p : Nat) (e : EvRec) : (s.eqPut p e).pert = s.pert := by simp [State.eqPut]
@[simp] theorem State.eqPut_pair (s : State) (p : Nat) (e : EvRec) : (s.eqPut p e).pair = s.pair := by simp [State.eqPut]
@[simp] theorem State.eqPut_eng (s : State) (p : Nat) (e : EvRec) : (s.eqPut p e).eng = s.eng := by simp [State.eqPut]
@[simp] theorem State.eqPut_act (s : State) (p : Nat) (e : EvRec) : (s.eqPut p e).act = s.act := by simp [State.eqPut]
@[simp] theorem State.eqPut_msr (s : State) (p : Nat) (e : EvRec) : (s.eqPut p e).msr = s.msr := by simp [State.eqPut]
@[simp] theorem State.eqPut_link (s : State) (p : Nat) (e : EvRec) : (s.eqPut p e).link = s.link := by simp [State.eqPut]
@[simp] theorem State.eqPut_psave (s : State) (p : Nat) (e : EvRec) : (s.eqPut p e).psave = s.psave := by simp [State.eqPut]

@[simp] theorem State.deliver_pending (s : State) (p : Nat) (e : EvRec) : (s.deliver p e).pending = s.pending := by unfold State.deliver; dsimp only; repeat (first | rfl | split | simp)
@[simp] theorem State.deliver_regs (s : State) (p : Nat) (e : EvRec) : (s.deliver p e).regs = s.regs := by unfold State.deliver; dsimp only; repeat (first | rfl | split | simp)
@[simp] theorem State.deliver_req (s : State) (p : Nat) (e : EvRec) : (s.deliver p e).req = s.req := by unfold State.deliver; dsimp only; repeat (first | rfl | split | simp)
@[simp] theorem State.deliver_sync (s : State) (p : Nat) (e : EvRec) : (s.deliver p e).sync = s.sync := by unfold State.deliver; dsimp only; repeat (first | rfl | split | simp)
@[simp] theorem State.deliver_cnt (s : State) (p : Nat) (e : EvRec) : (s.deliver p e).cnt = s.cnt := by unfold State.deliver; dsimp only; repeat (first | rfl | split | simp)
@[simp] theorem State.deliver_rst (s : State) (p : Nat) (e : EvRec) : (s.deliver p e).rst = s.rst := by unfold State.deliver; dsimp only; repeat (first | rfl | split | simp)
@[simp] theorem State.deliver_host (s : State) (p : Nat) (e : EvRec) : (s.deliver p e).host = s.host := by unfold State.deliver; dsimp only; repeat (first | rfl | split | simp)
@[simp] theorem State.deliver_nvs (s : State) (p : Nat) (e : EvRec) : (s.deliver p e).nvs = s.nvs := by unfold State.deliver; dsimp only; repeat (first | rfl | split | simp)
@[simp] theorem State.deliver_fus (s : State) (p : Nat) (e : EvRec) : (s.deliver p e).fus = s.fus := by unfold State.deliver; dsimp only; repeat (first | rfl | split | simp)
@[simp] theorem State.deliver_sec (s : State) (p : Nat) (e : EvRec) : (s.deliver p e).sec = s.sec := by unfold State.deliver; dsimp only; repeat (first | rfl | split | simp)
@[simp] theorem State.deliver_arrs (s : State) (p : Nat) (e : EvRec) : (s.deliver p e).arrs = s.arrs := by unfold State.deliver; dsimp only; repeat (first | rfl | split | simp)
@[simp] theorem State.deliver_cors (s : State) (p : Nat) (e : EvRec) : (s.deliver p e).cors = s.cors := by unfold State.deliver; dsimp only; repeat (first | rfl | split | simp)
@[simp] theorem State.deliver_pcm (s : State) (p : Nat) (e : EvRec) : (s.deliver p e).pcm = s.pcm := by unfold State.deliver; dsimp only; repeat (first | rfl | split | simp)
@[simp] theorem State.deliver_cores (s : State) (p : Nat) (e : EvRec) : (s.deliver p e).cores = s.cores := by unfold State.deliver; dsimp only; repeat (first | rfl | split | simp)
@[simp] theorem State.deliver_mr (s : State) (p : Nat) (e : EvRec) : (s.deliver p e).mr = s.mr := by unfold State.deliver; dsimp only; repeat (first | rfl | split | simp)
@[simp] theorem State.deliver_reqs (s : State) (p : Nat) (e : EvRec) : (s.deliver p e).reqs = s.reqs := by unfold State.deliver; dsimp only; repeat (first | rfl | split | simp)
@[simp] theorem State.deliver_saves (s : State) (p : Nat) (e : EvRec) : (s.deliver p e).saves = s.saves := by unfold State.deliver; dsimp only; repeat (first | rfl | split | simp)
@[simp] theorem State.deliver_prs (s : State) (p : Nat) (e : EvRec) : (s.deliver p e).prs = s.prs := by unfold State.deliver; dsimp only; repeat (first | rfl | split | simp)
@[simp] theorem State.deliver_refs (s : State) (p : Nat) (e : EvRec) : (s.deliver p e).refs = s.refs := by unfold State.deliver; dsimp only; repeat (first | rfl | split | simp)
@[simp] theorem State.deliver_bases (s : State) (p : Nat) (e : EvRec) : (s.deliver p e).bases = s.bases := by unfold State.deliver; dsimp only; repeat (first | rfl | split | simp)
@[simp] theorem State.deliver_ctxs (s : State) (p : Nat) (e : EvRec) : (s.deliver p e).ctxs = s.ctxs := by unfold State.deliver; dsimp only; repeat (first | rfl | split | simp)
@[simp] theorem State.deliver_strms (s : State) (p : Nat) (e : EvRec) : (s.deliver p e).strms = s.strms := by unfold State.deliver; dsimp only; repeat (first | rfl | split | simp)
@[simp] theorem State.deliver_pert (s : State) (p : Nat) (e : EvRec) : (s.deliver p e).pert = s.pert := by unfold State.deliver; dsimp only; repeat (first | rfl | split | simp)
@[simp] theorem State.deliver_pair (s : State) (p : Nat) (e : EvRec) : (s.deliver p e).pair = s.pair := by unfold State.deliver; dsimp only; repeat (first | rfl | split | simp)
@[simp] theorem State.deliver_eng (s : State) (p : Nat) (e : EvRec) : (s.deliver p e).eng = s.eng := by unfold State.deliver; dsimp only; repeat (first | rfl | split | simp)
@[simp] theorem State.deliver_act (s : State) (p : Nat) (e : EvRec) : (s.deliver p e).act = s.act := by unfold State.deliver; dsimp only; repeat (first | rfl | split | simp)
@[simp] theorem State.deliver_msr (s : State) (p : Nat) (e : EvRec) : (s.deliver p e).msr = s.msr := by unfold State.deliver; dsimp only; repeat (first | rfl | split | simp)
@[simp] theorem State.deliver_link (s : State) (p : Nat) (e : EvRec) : (s.deliver p e).link = s.link := by unfold State.deliver; dsimp only; repeat (first | rfl | split | simp)
@[simp] theorem State.deliver_psave (s : State) (p : Nat) (e : EvRec) : (s.deliver p e).psave = s.psave := by unfold State.deliver; dsimp only; repeat (first | rfl | split | simp)

@[simp] theorem State.logEvent_pending (s : State) (e : EvRec) : (s.logEvent e).pending = s.pending := by unfold State.logEvent; repeat (first | rfl | split)
@[simp] theorem State.logEvent_regs (s : State) (e : EvRec) : (s.logEvent e).regs = s.regs := by unfold State.logEvent; repeat (first | rfl | split)
@[simp] theorem State.logEvent_req (s : State) (e : EvRec) : (s.logEvent e).req = s.req := by unfold State.logEvent; repeat (first | rfl | split)
@[simp] theorem State.logEvent_mem (s : State) (e : EvRec) : (s.logEvent e).mem = s.mem := by unfold State.logEvent; repeat (first | rfl | split)
@[simp] theorem State.logEvent_sync (s : State) (e : EvRec) : (s.logEvent e).sync = s.sync := by unfold State.logEvent; repeat (first | rfl | split)
@[simp] theorem State.logEvent_cnt (s : State) (e : EvRec) : (s.logEvent e).cnt = s.cnt := by unfold State.logEvent; repeat (first | rfl | split)
@[simp] theorem State.logEvent_rst (s : State) (e : EvRec) : (s.logEvent e).rst = s.rst := by unfold State.logEvent; repeat (first | rfl | split)
@[simp] theorem State.logEvent_host (s : State) (e : EvRec) : (s.logEvent e).host = s.host := by unfold State.logEvent; repeat (first | rfl | split)
@[simp] theorem State.logEvent_nvs (s : State) (e : EvRec) : (s.logEvent e).nvs = s.nvs := by unfold State.logEvent; repeat (first | rfl | split)
@[simp] theorem State.logEvent_fus (s : State) (e : EvRec) : (s.logEvent e).fus = s.fus := by unfold State.logEvent; repeat (first | rfl | split)
@[simp] theorem State.logEvent_sec (s : State) (e : EvRec) : (s.logEvent e).sec = s.sec := by unfold State.logEvent; repeat (first | rfl | split)
@[simp] theorem State.logEvent_arrs (s : State) (e : EvRec) : (s.logEvent e).arrs = s.arrs := by unfold State.logEvent; repeat (first | rfl | split)
@[simp] theorem State.logEvent_cors (s : State) (e : EvRec) : (s.logEvent e).cors = s.cors := by unfold State.logEvent; repeat (first | rfl | split)
@[simp] theorem State.logEvent_pcm (s : State) (e : EvRec) : (s.logEvent e).pcm = s.pcm := by unfold State.logEvent; repeat (first | rfl | split)
@[simp] theorem State.logEvent_cores (s : State) (e : EvRec) : (s.logEvent e).cores = s.cores := by unfold State.logEvent; repeat (first | rfl | split)
@[simp] theorem State.logEvent_mr (s : State) (e : EvRec) : (s.logEvent e).mr = s.mr := by unfold State.logEvent; repeat (first | rfl | split)
@[simp] theorem State.logEvent_reqs (s : State) (e : EvRec) : (s.logEvent e).reqs = s.reqs := by unfold State.logEvent; repeat (first | rfl | split)
@[simp] theorem State.logEvent_saves (s : State) (e : EvRec) : (s.logEvent e).saves = s.saves := by unfold State.logEvent; repeat (first | rfl | split)
@[simp] theorem State.logEvent_prs (s : State) (e : EvRec) : (s.logEvent e).prs = s.prs := by unfold State.logEvent; repeat (first | rfl | split)
@[simp] theorem State.logEvent_refs (s : State) (e : EvRec) : (s.logEvent e).refs = s.refs := by unfold State.logEvent; repeat (first | rfl | split)
@[simp] theorem State.logEvent_bases (s : State) (e : EvRec) : (s.logEvent e).bases = s.bases := by unfold State.logEvent; repeat (first | rfl | split)
@[simp] theorem State.logEvent_ctxs (s : State) (e : EvRec) : (s.logEvent e).ctxs = s.ctxs := by unfold State.logEvent; repeat (first | rfl | split)
@[simp] theorem State.logEvent_strms (s : State) (e : EvRec) : (s.logEvent e).strms = s.strms := by unfold State.logEvent; repeat (first | rfl | split)
@[simp] theorem State.logEvent_pert (s : State) (e : EvRec) : (s.logEvent e).pert = s.pert := by unfold State.logEvent; repeat (first | rfl | split)
@[simp] theorem State.logEvent_pair (s : State) (e : EvRec) : (s.logEvent e).pair = s.pair := by unfold State.logEvent; repeat (first | rfl | split)
@[simp] theorem State.logEvent_eng (s : State) (e : EvRec) : (s.logEvent e).eng = s.eng := by unfold State.logEvent; repeat (first | rfl | split)
@[simp] theorem State.logEvent_act (s : State) (e : EvRec) : (s.logEvent e).act = s.act := by unfold State.logEvent; repeat (first | rfl | split)
@[simp] theorem State.logEvent_msr (s : State) (e : EvRec) : (s.logEvent e).msr = s.msr := by unfold State.logEvent; repeat (first | rfl | split)
@[simp] theorem State.logEvent_link (s : State) (e : EvRec) : (s.logEvent e).link = s.link := by unfold State.logEvent; repeat (first | rfl | split)
@[simp] theorem State.logEvent_psave (s : State) (e : EvRec) : (s.logEvent e).psave = s.psave := by unfold State.logEvent; repeat (first | rfl | split)

@[simp] theorem State.raiseRaw_pending (s : State) (e : EvRec) : (s.raiseRaw e).pending = s.pending := by simp [State.raiseRaw]
@[simp] theorem State.raiseRaw_regs (s : State) (e : EvRec) : (s.raiseRaw e).regs = s.regs := by simp [State.raiseRaw]
@[simp] theorem State.raiseRaw_req (s : State) (e : EvRec) : (s.raiseRaw e).req = s.req := by simp [State.raiseRaw]
@[simp] theorem State.raiseRaw_sync (s : State) (e : EvRec) : (s.raiseRaw e).sync = s.sync := by simp [State.raiseRaw]
@[simp] theorem State.raiseRaw_cnt (s : State) (e : EvRec) : (s.raiseRaw e).cnt = s.cnt := by simp [State.raiseRaw]
@[simp] theorem State.raiseRaw_rst (s : State) (e : EvRec) : (s.raiseRaw e).rst = s.rst := by simp [State.raiseRaw]
@[simp] theorem State.raiseRaw_host (s : State) (e : EvRec) : (s.raiseRaw e).host = s.host := by simp [State.raiseRaw]
@[simp] theorem State.raiseRaw_nvs (s : State) (e : EvRec) : (s.raiseRaw e).nvs = s.nvs := by simp [State.raiseRaw]
@[simp] theorem State.raiseRaw_fus (s : State) (e : EvRec) : (s.raiseRaw e).fus = s.fus := by simp [State.raiseRaw]
@[simp] theorem State.raiseRaw_sec (s : State) (e : EvRec) : (s.raiseRaw e).sec = s.sec := by simp [State.raiseRaw]
@[simp] theorem State.raiseRaw_arrs (s : State) (e : EvRec) : (s.raiseRaw e).arrs = s.arrs := by simp [State.raiseRaw]
@[simp] theorem State.raiseRaw_cors (s : State) (e : EvRec) : (s.raiseRaw e).cors = s.cors := by simp [State.raiseRaw]
@[simp] theorem State.raiseRaw_pcm (s : State) (e : EvRec) : (s.raiseRaw e).pcm = s.pcm := by simp [State.raiseRaw]
@[simp] theorem State.raiseRaw_cores (s : State) (e : EvRec) : (s.raiseRaw e).cores = s.cores := by simp [State.raiseRaw]
@[simp] theorem State.raiseRaw_mr (s : State) (e : EvRec) : (s.raiseRaw e).mr = s.mr := by simp [State.raiseRaw]
@[simp] theorem State.raiseRaw_reqs (s : State) (e : EvRec) : (s.raiseRaw e).reqs = s.reqs := by simp [State.raiseRaw]
@[simp] theorem State.raiseRaw_saves (s : State) (e : EvRec) : (s.raiseRaw e).saves = s.saves := by simp [State.raiseRaw]
@[simp] theorem State.raiseRaw_prs (s : State) (e : EvRec) : (s.raiseRaw e).prs = s.prs := by simp [State.raiseRaw]
@[simp] theorem State.raiseRaw_refs (s : State) (e : EvRec) : (s.raiseRaw e).refs = s.refs := by simp [State.raiseRaw]
@[simp] theorem State.raiseRaw_bases (s : State) (e : EvRec) : (s.raiseRaw e).bases = s.bases := by simp [State.raiseRaw]
@[simp] theorem State.raiseRaw_ctxs (s : State) (e : EvRec) : (s.raiseRaw e).ctxs = s.ctxs := by simp [State.raiseRaw]
@[simp] theorem State.raiseRaw_strms (s : State) (e : EvRec) : (s.raiseRaw e).strms = s.strms := by simp [State.raiseRaw]
@[simp] theorem State.raiseRaw_pert (s : State) (e : EvRec) : (s.raiseRaw e).pert = s.pert := by simp [State.raiseRaw]
@[simp] theorem State.raiseRaw_pair (s : State) (e : EvRec) : (s.raiseRaw e).pair = s.pair := by simp [State.raiseRaw]
@[simp] theorem State.raiseRaw_eng (s : State) (e : EvRec) : (s.raiseRaw e).eng = s.eng := by simp [State.raiseRaw]
@[simp] theorem State.raiseRaw_act (s : State) (e : EvRec) : (s.raiseRaw e).act = s.act := by simp [State.raiseRaw]
@[simp] theorem State.raiseRaw_msr (s : State) (e : EvRec) : (s.raiseRaw e).msr = s.msr := by simp [State.raiseRaw]
@[simp] theorem State.raiseRaw_link (s : State) (e : EvRec) : (s.raiseRaw e).link = s.link := by simp [State.raiseRaw]
@[simp] theorem State.raiseRaw_psave (s : State) (e : EvRec) : (s.raiseRaw e).psave = s.psave := by simp [State.raiseRaw]

@[simp] theorem State.lossRec_pending (s : State) (p : Nat) : (s.lossRec p).pending = s.pending := by unfold State.lossRec; split <;> simp
@[simp] theorem State.lossRec_regs (s : State) (p : Nat) : (s.lossRec p).regs = s.regs := by unfold State.lossRec; split <;> simp
@[simp] theorem State.lossRec_req (s : State) (p : Nat) : (s.lossRec p).req = s.req := by unfold State.lossRec; split <;> simp
@[simp] theorem State.lossRec_sync (s : State) (p : Nat) : (s.lossRec p).sync = s.sync := by unfold State.lossRec; split <;> simp
@[simp] theorem State.lossRec_cnt (s : State) (p : Nat) : (s.lossRec p).cnt = s.cnt := by unfold State.lossRec; split <;> simp
@[simp] theorem State.lossRec_rst (s : State) (p : Nat) : (s.lossRec p).rst = s.rst := by unfold State.lossRec; split <;> simp
@[simp] theorem State.lossRec_host (s : State) (p : Nat) : (s.lossRec p).host = s.host := by unfold State.lossRec; split <;> simp
@[simp] theorem State.lossRec_nvs (s : State) (p : Nat) : (s.lossRec p).nvs = s.nvs := by unfold State.lossRec; split <;> simp
@[simp] theorem State.lossRec_fus (s : State) (p : Nat) : (s.lossRec p).fus = s.fus := by unfold State.lossRec; split <;> simp
@[simp] theorem State.lossRec_sec (s : State) (p : Nat) : (s.lossRec p).sec = s.sec := by unfold State.lossRec; split <;> simp
@[simp] theorem State.lossRec_arrs (s : State) (p : Nat) : (s.lossRec p).arrs = s.arrs := by unfold State.lossRec; split <;> simp
@[simp] theorem State.lossRec_cors (s : State) (p : Nat) : (s.lossRec p).cors = s.cors := by unfold State.lossRec; split <;> simp
@[simp] theorem State.lossRec_pcm (s : State) (p : Nat) : (s.lossRec p).pcm = s.pcm := by unfold State.lossRec; split <;> simp
@[simp] theorem State.lossRec_cores (s : State) (p : Nat) : (s.lossRec p).cores = s.cores := by unfold State.lossRec; split <;> simp
@[simp] theorem State.lossRec_mr (s : State) (p : Nat) : (s.lossRec p).mr = s.mr := by unfold State.lossRec; split <;> simp
@[simp] theorem State.lossRec_reqs (s : State) (p : Nat) : (s.lossRec p).reqs = s.reqs := by unfold State.lossRec; split <;> simp
@[simp] theorem State.lossRec_saves (s : State) (p : Nat) : (s.lossRec p).saves = s.saves := by unfold State.lossRec; split <;> simp
@[simp] theorem State.lossRec_prs (s : State) (p : Nat) : (s.lossRec p).prs = s.prs := by unfold State.lossRec; split <;> simp
@[simp] theorem State.lossRec_refs (s : State) (p : Nat) : (s.lossRec p).refs = s.refs := by unfold State.lossRec; split <;> simp
@[simp] theorem State.lossRec_bases (s : State) (p : Nat) : (s.lossRec p).bases = s.bases := by unfold State.lossRec; split <;> simp
@[simp] theorem State.lossRec_ctxs (s : State) (p : Nat) : (s.lossRec p).ctxs = s.ctxs := by unfold State.lossRec; split <;> simp
@[simp] theorem State.lossRec_strms (s : State) (p : Nat) : (s.lossRec p).strms = s.strms := by unfold State.lossRec; split <;> simp
@[simp] theorem State.lossRec_pert (s : State) (p : Nat) : (s.lossRec p).pert = s.pert := by unfold State.lossRec; split <;> simp
@[simp] theorem State.lossRec_pair (s : State) (p : Nat) : (s.lossRec p).pair = s.pair := by unfold State.lossRec; split <;> simp
@[simp] theorem State.lossRec_eng (s : State) (p : Nat) : (s.lossRec p).eng = s.eng := by unfold State.lossRec; split <;> simp
@[simp] theorem State.lossRec_act (s : State) (p : Nat) : (s.lossRec p).act = s.act := by unfold State.lossRec; split <;> simp
@[simp] theorem State.lossRec_msr (s : State) (p : Nat) : (s.lossRec p).msr = s.msr := by unfold State.lossRec; split <;> simp
@[simp] theorem State.lossRec_link (s : State) (p : Nat) : (s.lossRec p).link = s.link := by unfold State.lossRec; split <;> simp
@[simp] theorem State.lossRec_psave (s : State) (p : Nat) : (s.lossRec p).psave = s.psave := by unfold State.lossRec; split <;> simp

@[simp] theorem State.raiseRec_pending (s : State) (e : EvRec) : (s.raiseRec e).pending = s.pending := by simp [State.raiseRec]
@[simp] theorem State.raiseRec_regs (s : State) (e : EvRec) : (s.raiseRec e).regs = s.regs := by simp [State.raiseRec]
@[simp] theorem State.raiseRec_req (s : State) (e : EvRec) : (s.raiseRec e).req = s.req := by simp [State.raiseRec]
@[simp] theorem State.raiseRec_sync (s : State) (e : EvRec) : (s.raiseRec e).sync = s.sync := by simp [State.raiseRec]
@[simp] theorem State.raiseRec_cnt (s : State) (e : EvRec) : (s.raiseRec e).cnt = s.cnt := by simp [State.raiseRec]
@[simp] theorem State.raiseRec_rst (s : State) (e : EvRec) : (s.raiseRec e).rst = s.rst := by simp [State.raiseRec]
@[simp] theorem State.raiseRec_host (s : State) (e : EvRec) : (s.raiseRec e).host = s.host := by simp [State.raiseRec]
@[simp] theorem State.raiseRec_nvs (s : State) (e : EvRec) : (s.raiseRec e).nvs = s.nvs := by simp [State.raiseRec]
@[simp] theorem State.raiseRec_fus (s : State) (e : EvRec) : (s.raiseRec e).fus = s.fus := by simp [State.raiseRec]
@[simp] theorem State.raiseRec_sec (s : State) (e : EvRec) : (s.raiseRec e).sec = s.sec := by simp [State.raiseRec]
@[simp] theorem State.raiseRec_arrs (s : State) (e : EvRec) : (s.raiseRec e).arrs = s.arrs := by simp [State.raiseRec]
@[simp] theorem State.raiseRec_cors (s : State) (e : EvRec) : (s.raiseRec e).cors = s.cors := by simp [State.raiseRec]
@[simp] theorem State.raiseRec_pcm (s : State) (e : EvRec) : (s.raiseRec e).pcm = s.pcm := by simp [State.raiseRec]
@[simp] theorem State.raiseRec_cores (s : State) (e : EvRec) : (s.raiseRec e).cores = s.cores := by simp [State.raiseRec]
@[simp] theorem State.raiseRec_mr (s : State) (e : EvRec) : (s.raiseRec e).mr = s.mr := by simp [State.raiseRec]
@[simp] theorem State.raiseRec_reqs (s : State) (e : EvRec) : (s.raiseRec e).reqs = s.reqs := by simp [State.raiseRec]
@[simp] theorem State.raiseRec_saves (s : State) (e : EvRec) : (s.raiseRec e).saves = s.saves := by simp [State.raiseRec]
@[simp] theorem State.raiseRec_prs (s : State) (e : EvRec) : (s.raiseRec e).prs = s.prs := by simp [State.raiseRec]
@[simp] theorem State.raiseRec_refs (s : State) (e : EvRec) : (s.raiseRec e).refs = s.refs := by simp [State.raiseRec]
@[simp] theorem State.raiseRec_bases (s : State) (e : EvRec) : (s.raiseRec e).bases = s.bases := by simp [State.raiseRec]
@[simp] theorem State.raiseRec_ctxs (s : State) (e : EvRec) : (s.raiseRec e).ctxs = s.ctxs := by simp [State.raiseRec]
@[simp] theorem State.raiseRec_strms (s : State) (e : EvRec) : (s.raiseRec e).strms = s.strms := by simp [State.raiseRec]
@[simp] theorem State.raiseRec_pert (s : State) (e : EvRec) : (s.raiseRec e).pert = s.pert := by simp [State.raiseRec]
@[simp] theorem State.raiseRec_pair (s : State) (e : EvRec) : (s.raiseRec e).pair = s.pair := by simp [State.raiseRec]
@[simp] theorem State.raiseRec_eng (s : State) (e : EvRec) : (s.raiseRec e).eng = s.eng := by simp [State.raiseRec]
@[simp] theorem State.raiseRec_act (s : State) (e : EvRec) : (s.raiseRec e).act = s.act := by simp [State.raiseRec]
@[simp] theorem State.raiseRec_msr (s : State) (e : EvRec) : (s.raiseRec e).msr = s.msr := by simp [State.raiseRec]
@[simp] theorem State.raiseRec_link (s : State) (e : EvRec) : (s.raiseRec e).link = s.link := by simp [State.raiseRec]
@[simp] theorem State.raiseRec_psave (s : State) (e : EvRec) : (s.raiseRec e).psave = s.psave := by simp [State.raiseRec]

@[simp] theorem State.raise_pending (s : State) (code sev src pay : Nat) : (s.raise code sev src pay).pending = s.pending := by simp [State.raise]
@[simp] theorem State.raise_regs (s : State) (code sev src pay : Nat) : (s.raise code sev src pay).regs = s.regs := by simp [State.raise]
@[simp] theorem State.raise_req (s : State) (code sev src pay : Nat) : (s.raise code sev src pay).req = s.req := by simp [State.raise]
@[simp] theorem State.raise_sync (s : State) (code sev src pay : Nat) : (s.raise code sev src pay).sync = s.sync := by simp [State.raise]
@[simp] theorem State.raise_cnt (s : State) (code sev src pay : Nat) : (s.raise code sev src pay).cnt = s.cnt := by simp [State.raise]
@[simp] theorem State.raise_rst (s : State) (code sev src pay : Nat) : (s.raise code sev src pay).rst = s.rst := by simp [State.raise]
@[simp] theorem State.raise_host (s : State) (code sev src pay : Nat) : (s.raise code sev src pay).host = s.host := by simp [State.raise]
@[simp] theorem State.raise_nvs (s : State) (code sev src pay : Nat) : (s.raise code sev src pay).nvs = s.nvs := by simp [State.raise]
@[simp] theorem State.raise_fus (s : State) (code sev src pay : Nat) : (s.raise code sev src pay).fus = s.fus := by simp [State.raise]
@[simp] theorem State.raise_sec (s : State) (code sev src pay : Nat) : (s.raise code sev src pay).sec = s.sec := by simp [State.raise]
@[simp] theorem State.raise_arrs (s : State) (code sev src pay : Nat) : (s.raise code sev src pay).arrs = s.arrs := by simp [State.raise]
@[simp] theorem State.raise_cors (s : State) (code sev src pay : Nat) : (s.raise code sev src pay).cors = s.cors := by simp [State.raise]
@[simp] theorem State.raise_pcm (s : State) (code sev src pay : Nat) : (s.raise code sev src pay).pcm = s.pcm := by simp [State.raise]
@[simp] theorem State.raise_cores (s : State) (code sev src pay : Nat) : (s.raise code sev src pay).cores = s.cores := by simp [State.raise]
@[simp] theorem State.raise_mr (s : State) (code sev src pay : Nat) : (s.raise code sev src pay).mr = s.mr := by simp [State.raise]
@[simp] theorem State.raise_reqs (s : State) (code sev src pay : Nat) : (s.raise code sev src pay).reqs = s.reqs := by simp [State.raise]
@[simp] theorem State.raise_saves (s : State) (code sev src pay : Nat) : (s.raise code sev src pay).saves = s.saves := by simp [State.raise]
@[simp] theorem State.raise_prs (s : State) (code sev src pay : Nat) : (s.raise code sev src pay).prs = s.prs := by simp [State.raise]
@[simp] theorem State.raise_refs (s : State) (code sev src pay : Nat) : (s.raise code sev src pay).refs = s.refs := by simp [State.raise]
@[simp] theorem State.raise_bases (s : State) (code sev src pay : Nat) : (s.raise code sev src pay).bases = s.bases := by simp [State.raise]
@[simp] theorem State.raise_ctxs (s : State) (code sev src pay : Nat) : (s.raise code sev src pay).ctxs = s.ctxs := by simp [State.raise]
@[simp] theorem State.raise_strms (s : State) (code sev src pay : Nat) : (s.raise code sev src pay).strms = s.strms := by simp [State.raise]
@[simp] theorem State.raise_pert (s : State) (code sev src pay : Nat) : (s.raise code sev src pay).pert = s.pert := by simp [State.raise]
@[simp] theorem State.raise_pair (s : State) (code sev src pay : Nat) : (s.raise code sev src pay).pair = s.pair := by simp [State.raise]
@[simp] theorem State.raise_eng (s : State) (code sev src pay : Nat) : (s.raise code sev src pay).eng = s.eng := by simp [State.raise]
@[simp] theorem State.raise_act (s : State) (code sev src pay : Nat) : (s.raise code sev src pay).act = s.act := by simp [State.raise]
@[simp] theorem State.raise_msr (s : State) (code sev src pay : Nat) : (s.raise code sev src pay).msr = s.msr := by simp [State.raise]
@[simp] theorem State.raise_link (s : State) (code sev src pay : Nat) : (s.raise code sev src pay).link = s.link := by simp [State.raise]
@[simp] theorem State.raise_psave (s : State) (code sev src pay : Nat) : (s.raise code sev src pay).psave = s.psave := by simp [State.raise]

@[simp] theorem State.raiseStream_pending (s : State) (code sev src st seq pay : Nat) : (s.raiseStream code sev src st seq pay).pending = s.pending := by simp [State.raiseStream]
@[simp] theorem State.raiseStream_regs (s : State) (code sev src st seq pay : Nat) : (s.raiseStream code sev src st seq pay).regs = s.regs := by simp [State.raiseStream]
@[simp] theorem State.raiseStream_req (s : State) (code sev src st seq pay : Nat) : (s.raiseStream code sev src st seq pay).req = s.req := by simp [State.raiseStream]
@[simp] theorem State.raiseStream_sync (s : State) (code sev src st seq pay : Nat) : (s.raiseStream code sev src st seq pay).sync = s.sync := by simp [State.raiseStream]
@[simp] theorem State.raiseStream_cnt (s : State) (code sev src st seq pay : Nat) : (s.raiseStream code sev src st seq pay).cnt = s.cnt := by simp [State.raiseStream]
@[simp] theorem State.raiseStream_rst (s : State) (code sev src st seq pay : Nat) : (s.raiseStream code sev src st seq pay).rst = s.rst := by simp [State.raiseStream]
@[simp] theorem State.raiseStream_host (s : State) (code sev src st seq pay : Nat) : (s.raiseStream code sev src st seq pay).host = s.host := by simp [State.raiseStream]
@[simp] theorem State.raiseStream_nvs (s : State) (code sev src st seq pay : Nat) : (s.raiseStream code sev src st seq pay).nvs = s.nvs := by simp [State.raiseStream]
@[simp] theorem State.raiseStream_fus (s : State) (code sev src st seq pay : Nat) : (s.raiseStream code sev src st seq pay).fus = s.fus := by simp [State.raiseStream]
@[simp] theorem State.raiseStream_sec (s : State) (code sev src st seq pay : Nat) : (s.raiseStream code sev src st seq pay).sec = s.sec := by simp [State.raiseStream]
@[simp] theorem State.raiseStream_arrs (s : State) (code sev src st seq pay : Nat) : (s.raiseStream code sev src st seq pay).arrs = s.arrs := by simp [State.raiseStream]
@[simp] theorem State.raiseStream_cors (s : State) (code sev src st seq pay : Nat) : (s.raiseStream code sev src st seq pay).cors = s.cors := by simp [State.raiseStream]
@[simp] theorem State.raiseStream_pcm (s : State) (code sev src st seq pay : Nat) : (s.raiseStream code sev src st seq pay).pcm = s.pcm := by simp [State.raiseStream]
@[simp] theorem State.raiseStream_cores (s : State) (code sev src st seq pay : Nat) : (s.raiseStream code sev src st seq pay).cores = s.cores := by simp [State.raiseStream]
@[simp] theorem State.raiseStream_mr (s : State) (code sev src st seq pay : Nat) : (s.raiseStream code sev src st seq pay).mr = s.mr := by simp [State.raiseStream]
@[simp] theorem State.raiseStream_reqs (s : State) (code sev src st seq pay : Nat) : (s.raiseStream code sev src st seq pay).reqs = s.reqs := by simp [State.raiseStream]
@[simp] theorem State.raiseStream_saves (s : State) (code sev src st seq pay : Nat) : (s.raiseStream code sev src st seq pay).saves = s.saves := by simp [State.raiseStream]
@[simp] theorem State.raiseStream_prs (s : State) (code sev src st seq pay : Nat) : (s.raiseStream code sev src st seq pay).prs = s.prs := by simp [State.raiseStream]
@[simp] theorem State.raiseStream_refs (s : State) (code sev src st seq pay : Nat) : (s.raiseStream code sev src st seq pay).refs = s.refs := by simp [State.raiseStream]
@[simp] theorem State.raiseStream_bases (s : State) (code sev src st seq pay : Nat) : (s.raiseStream code sev src st seq pay).bases = s.bases := by simp [State.raiseStream]
@[simp] theorem State.raiseStream_ctxs (s : State) (code sev src st seq pay : Nat) : (s.raiseStream code sev src st seq pay).ctxs = s.ctxs := by simp [State.raiseStream]
@[simp] theorem State.raiseStream_strms (s : State) (code sev src st seq pay : Nat) : (s.raiseStream code sev src st seq pay).strms = s.strms := by simp [State.raiseStream]
@[simp] theorem State.raiseStream_pert (s : State) (code sev src st seq pay : Nat) : (s.raiseStream code sev src st seq pay).pert = s.pert := by simp [State.raiseStream]
@[simp] theorem State.raiseStream_pair (s : State) (code sev src st seq pay : Nat) : (s.raiseStream code sev src st seq pay).pair = s.pair := by simp [State.raiseStream]
@[simp] theorem State.raiseStream_eng (s : State) (code sev src st seq pay : Nat) : (s.raiseStream code sev src st seq pay).eng = s.eng := by simp [State.raiseStream]
@[simp] theorem State.raiseStream_act (s : State) (code sev src st seq pay : Nat) : (s.raiseStream code sev src st seq pay).act = s.act := by simp [State.raiseStream]
@[simp] theorem State.raiseStream_msr (s : State) (code sev src st seq pay : Nat) : (s.raiseStream code sev src st seq pay).msr = s.msr := by simp [State.raiseStream]
@[simp] theorem State.raiseStream_link (s : State) (code sev src st seq pay : Nat) : (s.raiseStream code sev src st seq pay).link = s.link := by simp [State.raiseStream]
@[simp] theorem State.raiseStream_psave (s : State) (code sev src st seq pay : Nat) : (s.raiseStream code sev src st seq pay).psave = s.psave := by simp [State.raiseStream]

@[simp] theorem State.raiseIntake_pending (s : State) (code sev port st pay : Nat) : (s.raiseIntake code sev port st pay).pending = s.pending := by simp [State.raiseIntake]
@[simp] theorem State.raiseIntake_regs (s : State) (code sev port st pay : Nat) : (s.raiseIntake code sev port st pay).regs = s.regs := by simp [State.raiseIntake]
@[simp] theorem State.raiseIntake_req (s : State) (code sev port st pay : Nat) : (s.raiseIntake code sev port st pay).req = s.req := by simp [State.raiseIntake]
@[simp] theorem State.raiseIntake_sync (s : State) (code sev port st pay : Nat) : (s.raiseIntake code sev port st pay).sync = s.sync := by simp [State.raiseIntake]
@[simp] theorem State.raiseIntake_cnt (s : State) (code sev port st pay : Nat) : (s.raiseIntake code sev port st pay).cnt = s.cnt := by simp [State.raiseIntake]
@[simp] theorem State.raiseIntake_rst (s : State) (code sev port st pay : Nat) : (s.raiseIntake code sev port st pay).rst = s.rst := by simp [State.raiseIntake]
@[simp] theorem State.raiseIntake_host (s : State) (code sev port st pay : Nat) : (s.raiseIntake code sev port st pay).host = s.host := by simp [State.raiseIntake]
@[simp] theorem State.raiseIntake_nvs (s : State) (code sev port st pay : Nat) : (s.raiseIntake code sev port st pay).nvs = s.nvs := by simp [State.raiseIntake]
@[simp] theorem State.raiseIntake_fus (s : State) (code sev port st pay : Nat) : (s.raiseIntake code sev port st pay).fus = s.fus := by simp [State.raiseIntake]
@[simp] theorem State.raiseIntake_sec (s : State) (code sev port st pay : Nat) : (s.raiseIntake code sev port st pay).sec = s.sec := by simp [State.raiseIntake]
@[simp] theorem State.raiseIntake_arrs (s : State) (code sev port st pay : Nat) : (s.raiseIntake code sev port st pay).arrs = s.arrs := by simp [State.raiseIntake]
@[simp] theorem State.raiseIntake_cors (s : State) (code sev port st pay : Nat) : (s.raiseIntake code sev port st pay).cors = s.cors := by simp [State.raiseIntake]
@[simp] theorem State.raiseIntake_pcm (s : State) (code sev port st pay : Nat) : (s.raiseIntake code sev port st pay).pcm = s.pcm := by simp [State.raiseIntake]
@[simp] theorem State.raiseIntake_cores (s : State) (code sev port st pay : Nat) : (s.raiseIntake code sev port st pay).cores = s.cores := by simp [State.raiseIntake]
@[simp] theorem State.raiseIntake_mr (s : State) (code sev port st pay : Nat) : (s.raiseIntake code sev port st pay).mr = s.mr := by simp [State.raiseIntake]
@[simp] theorem State.raiseIntake_reqs (s : State) (code sev port st pay : Nat) : (s.raiseIntake code sev port st pay).reqs = s.reqs := by simp [State.raiseIntake]
@[simp] theorem State.raiseIntake_saves (s : State) (code sev port st pay : Nat) : (s.raiseIntake code sev port st pay).saves = s.saves := by simp [State.raiseIntake]
@[simp] theorem State.raiseIntake_prs (s : State) (code sev port st pay : Nat) : (s.raiseIntake code sev port st pay).prs = s.prs := by simp [State.raiseIntake]
@[simp] theorem State.raiseIntake_refs (s : State) (code sev port st pay : Nat) : (s.raiseIntake code sev port st pay).refs = s.refs := by simp [State.raiseIntake]
@[simp] theorem State.raiseIntake_bases (s : State) (code sev port st pay : Nat) : (s.raiseIntake code sev port st pay).bases = s.bases := by simp [State.raiseIntake]
@[simp] theorem State.raiseIntake_ctxs (s : State) (code sev port st pay : Nat) : (s.raiseIntake code sev port st pay).ctxs = s.ctxs := by simp [State.raiseIntake]
@[simp] theorem State.raiseIntake_strms (s : State) (code sev port st pay : Nat) : (s.raiseIntake code sev port st pay).strms = s.strms := by simp [State.raiseIntake]
@[simp] theorem State.raiseIntake_pert (s : State) (code sev port st pay : Nat) : (s.raiseIntake code sev port st pay).pert = s.pert := by simp [State.raiseIntake]
@[simp] theorem State.raiseIntake_pair (s : State) (code sev port st pay : Nat) : (s.raiseIntake code sev port st pay).pair = s.pair := by simp [State.raiseIntake]
@[simp] theorem State.raiseIntake_eng (s : State) (code sev port st pay : Nat) : (s.raiseIntake code sev port st pay).eng = s.eng := by simp [State.raiseIntake]
@[simp] theorem State.raiseIntake_act (s : State) (code sev port st pay : Nat) : (s.raiseIntake code sev port st pay).act = s.act := by simp [State.raiseIntake]
@[simp] theorem State.raiseIntake_msr (s : State) (code sev port st pay : Nat) : (s.raiseIntake code sev port st pay).msr = s.msr := by simp [State.raiseIntake]
@[simp] theorem State.raiseIntake_link (s : State) (code sev port st pay : Nat) : (s.raiseIntake code sev port st pay).link = s.link := by simp [State.raiseIntake]
@[simp] theorem State.raiseIntake_psave (s : State) (code sev port st pay : Nat) : (s.raiseIntake code sev port st pay).psave = s.psave := by simp [State.raiseIntake]

@[simp] theorem State.raiseIf_pending (s : State) (b : Bool) (code sev src pay : Nat) : (s.raiseIf b code sev src pay).pending = s.pending := by unfold State.raiseIf; split <;> simp
@[simp] theorem State.raiseIf_regs (s : State) (b : Bool) (code sev src pay : Nat) : (s.raiseIf b code sev src pay).regs = s.regs := by unfold State.raiseIf; split <;> simp
@[simp] theorem State.raiseIf_req (s : State) (b : Bool) (code sev src pay : Nat) : (s.raiseIf b code sev src pay).req = s.req := by unfold State.raiseIf; split <;> simp
@[simp] theorem State.raiseIf_sync (s : State) (b : Bool) (code sev src pay : Nat) : (s.raiseIf b code sev src pay).sync = s.sync := by unfold State.raiseIf; split <;> simp
@[simp] theorem State.raiseIf_cnt (s : State) (b : Bool) (code sev src pay : Nat) : (s.raiseIf b code sev src pay).cnt = s.cnt := by unfold State.raiseIf; split <;> simp
@[simp] theorem State.raiseIf_rst (s : State) (b : Bool) (code sev src pay : Nat) : (s.raiseIf b code sev src pay).rst = s.rst := by unfold State.raiseIf; split <;> simp
@[simp] theorem State.raiseIf_host (s : State) (b : Bool) (code sev src pay : Nat) : (s.raiseIf b code sev src pay).host = s.host := by unfold State.raiseIf; split <;> simp
@[simp] theorem State.raiseIf_nvs (s : State) (b : Bool) (code sev src pay : Nat) : (s.raiseIf b code sev src pay).nvs = s.nvs := by unfold State.raiseIf; split <;> simp
@[simp] theorem State.raiseIf_fus (s : State) (b : Bool) (code sev src pay : Nat) : (s.raiseIf b code sev src pay).fus = s.fus := by unfold State.raiseIf; split <;> simp
@[simp] theorem State.raiseIf_sec (s : State) (b : Bool) (code sev src pay : Nat) : (s.raiseIf b code sev src pay).sec = s.sec := by unfold State.raiseIf; split <;> simp
@[simp] theorem State.raiseIf_arrs (s : State) (b : Bool) (code sev src pay : Nat) : (s.raiseIf b code sev src pay).arrs = s.arrs := by unfold State.raiseIf; split <;> simp
@[simp] theorem State.raiseIf_cors (s : State) (b : Bool) (code sev src pay : Nat) : (s.raiseIf b code sev src pay).cors = s.cors := by unfold State.raiseIf; split <;> simp
@[simp] theorem State.raiseIf_pcm (s : State) (b : Bool) (code sev src pay : Nat) : (s.raiseIf b code sev src pay).pcm = s.pcm := by unfold State.raiseIf; split <;> simp
@[simp] theorem State.raiseIf_cores (s : State) (b : Bool) (code sev src pay : Nat) : (s.raiseIf b code sev src pay).cores = s.cores := by unfold State.raiseIf; split <;> simp
@[simp] theorem State.raiseIf_mr (s : State) (b : Bool) (code sev src pay : Nat) : (s.raiseIf b code sev src pay).mr = s.mr := by unfold State.raiseIf; split <;> simp
@[simp] theorem State.raiseIf_reqs (s : State) (b : Bool) (code sev src pay : Nat) : (s.raiseIf b code sev src pay).reqs = s.reqs := by unfold State.raiseIf; split <;> simp
@[simp] theorem State.raiseIf_saves (s : State) (b : Bool) (code sev src pay : Nat) : (s.raiseIf b code sev src pay).saves = s.saves := by unfold State.raiseIf; split <;> simp
@[simp] theorem State.raiseIf_prs (s : State) (b : Bool) (code sev src pay : Nat) : (s.raiseIf b code sev src pay).prs = s.prs := by unfold State.raiseIf; split <;> simp
@[simp] theorem State.raiseIf_refs (s : State) (b : Bool) (code sev src pay : Nat) : (s.raiseIf b code sev src pay).refs = s.refs := by unfold State.raiseIf; split <;> simp
@[simp] theorem State.raiseIf_bases (s : State) (b : Bool) (code sev src pay : Nat) : (s.raiseIf b code sev src pay).bases = s.bases := by unfold State.raiseIf; split <;> simp
@[simp] theorem State.raiseIf_ctxs (s : State) (b : Bool) (code sev src pay : Nat) : (s.raiseIf b code sev src pay).ctxs = s.ctxs := by unfold State.raiseIf; split <;> simp
@[simp] theorem State.raiseIf_strms (s : State) (b : Bool) (code sev src pay : Nat) : (s.raiseIf b code sev src pay).strms = s.strms := by unfold State.raiseIf; split <;> simp
@[simp] theorem State.raiseIf_pert (s : State) (b : Bool) (code sev src pay : Nat) : (s.raiseIf b code sev src pay).pert = s.pert := by unfold State.raiseIf; split <;> simp
@[simp] theorem State.raiseIf_pair (s : State) (b : Bool) (code sev src pay : Nat) : (s.raiseIf b code sev src pay).pair = s.pair := by unfold State.raiseIf; split <;> simp
@[simp] theorem State.raiseIf_eng (s : State) (b : Bool) (code sev src pay : Nat) : (s.raiseIf b code sev src pay).eng = s.eng := by unfold State.raiseIf; split <;> simp
@[simp] theorem State.raiseIf_act (s : State) (b : Bool) (code sev src pay : Nat) : (s.raiseIf b code sev src pay).act = s.act := by unfold State.raiseIf; split <;> simp
@[simp] theorem State.raiseIf_msr (s : State) (b : Bool) (code sev src pay : Nat) : (s.raiseIf b code sev src pay).msr = s.msr := by unfold State.raiseIf; split <;> simp
@[simp] theorem State.raiseIf_link (s : State) (b : Bool) (code sev src pay : Nat) : (s.raiseIf b code sev src pay).link = s.link := by unfold State.raiseIf; split <;> simp
@[simp] theorem State.raiseIf_psave (s : State) (b : Bool) (code sev src pay : Nat) : (s.raiseIf b code sev src pay).psave = s.psave := by unfold State.raiseIf; split <;> simp

@[simp] theorem State.raiseOnce_pending (s : State) (key code sev src pay : Nat) : (s.raiseOnce key code sev src pay).pending = s.pending := by unfold State.raiseOnce; split <;> simp
@[simp] theorem State.raiseOnce_regs (s : State) (key code sev src pay : Nat) : (s.raiseOnce key code sev src pay).regs = s.regs := by unfold State.raiseOnce; split <;> simp
@[simp] theorem State.raiseOnce_req (s : State) (key code sev src pay : Nat) : (s.raiseOnce key code sev src pay).req = s.req := by unfold State.raiseOnce; split <;> simp
@[simp] theorem State.raiseOnce_sync (s : State) (key code sev src pay : Nat) : (s.raiseOnce key code sev src pay).sync = s.sync := by unfold State.raiseOnce; split <;> simp
@[simp] theorem State.raiseOnce_cnt (s : State) (key code sev src pay : Nat) : (s.raiseOnce key code sev src pay).cnt = s.cnt := by unfold State.raiseOnce; split <;> simp
@[simp] theorem State.raiseOnce_rst (s : State) (key code sev src pay : Nat) : (s.raiseOnce key code sev src pay).rst = s.rst := by unfold State.raiseOnce; split <;> simp
@[simp] theorem State.raiseOnce_host (s : State) (key code sev src pay : Nat) : (s.raiseOnce key code sev src pay).host = s.host := by unfold State.raiseOnce; split <;> simp
@[simp] theorem State.raiseOnce_nvs (s : State) (key code sev src pay : Nat) : (s.raiseOnce key code sev src pay).nvs = s.nvs := by unfold State.raiseOnce; split <;> simp
@[simp] theorem State.raiseOnce_fus (s : State) (key code sev src pay : Nat) : (s.raiseOnce key code sev src pay).fus = s.fus := by unfold State.raiseOnce; split <;> simp
@[simp] theorem State.raiseOnce_sec (s : State) (key code sev src pay : Nat) : (s.raiseOnce key code sev src pay).sec = s.sec := by unfold State.raiseOnce; split <;> simp
@[simp] theorem State.raiseOnce_arrs (s : State) (key code sev src pay : Nat) : (s.raiseOnce key code sev src pay).arrs = s.arrs := by unfold State.raiseOnce; split <;> simp
@[simp] theorem State.raiseOnce_cors (s : State) (key code sev src pay : Nat) : (s.raiseOnce key code sev src pay).cors = s.cors := by unfold State.raiseOnce; split <;> simp
@[simp] theorem State.raiseOnce_pcm (s : State) (key code sev src pay : Nat) : (s.raiseOnce key code sev src pay).pcm = s.pcm := by unfold State.raiseOnce; split <;> simp
@[simp] theorem State.raiseOnce_cores (s : State) (key code sev src pay : Nat) : (s.raiseOnce key code sev src pay).cores = s.cores := by unfold State.raiseOnce; split <;> simp
@[simp] theorem State.raiseOnce_mr (s : State) (key code sev src pay : Nat) : (s.raiseOnce key code sev src pay).mr = s.mr := by unfold State.raiseOnce; split <;> simp
@[simp] theorem State.raiseOnce_reqs (s : State) (key code sev src pay : Nat) : (s.raiseOnce key code sev src pay).reqs = s.reqs := by unfold State.raiseOnce; split <;> simp
@[simp] theorem State.raiseOnce_saves (s : State) (key code sev src pay : Nat) : (s.raiseOnce key code sev src pay).saves = s.saves := by unfold State.raiseOnce; split <;> simp
@[simp] theorem State.raiseOnce_prs (s : State) (key code sev src pay : Nat) : (s.raiseOnce key code sev src pay).prs = s.prs := by unfold State.raiseOnce; split <;> simp
@[simp] theorem State.raiseOnce_refs (s : State) (key code sev src pay : Nat) : (s.raiseOnce key code sev src pay).refs = s.refs := by unfold State.raiseOnce; split <;> simp
@[simp] theorem State.raiseOnce_bases (s : State) (key code sev src pay : Nat) : (s.raiseOnce key code sev src pay).bases = s.bases := by unfold State.raiseOnce; split <;> simp
@[simp] theorem State.raiseOnce_ctxs (s : State) (key code sev src pay : Nat) : (s.raiseOnce key code sev src pay).ctxs = s.ctxs := by unfold State.raiseOnce; split <;> simp
@[simp] theorem State.raiseOnce_strms (s : State) (key code sev src pay : Nat) : (s.raiseOnce key code sev src pay).strms = s.strms := by unfold State.raiseOnce; split <;> simp
@[simp] theorem State.raiseOnce_pert (s : State) (key code sev src pay : Nat) : (s.raiseOnce key code sev src pay).pert = s.pert := by unfold State.raiseOnce; split <;> simp
@[simp] theorem State.raiseOnce_pair (s : State) (key code sev src pay : Nat) : (s.raiseOnce key code sev src pay).pair = s.pair := by unfold State.raiseOnce; split <;> simp
@[simp] theorem State.raiseOnce_eng (s : State) (key code sev src pay : Nat) : (s.raiseOnce key code sev src pay).eng = s.eng := by unfold State.raiseOnce; split <;> simp
@[simp] theorem State.raiseOnce_act (s : State) (key code sev src pay : Nat) : (s.raiseOnce key code sev src pay).act = s.act := by unfold State.raiseOnce; split <;> simp
@[simp] theorem State.raiseOnce_msr (s : State) (key code sev src pay : Nat) : (s.raiseOnce key code sev src pay).msr = s.msr := by unfold State.raiseOnce; split <;> simp
@[simp] theorem State.raiseOnce_link (s : State) (key code sev src pay : Nat) : (s.raiseOnce key code sev src pay).link = s.link := by unfold State.raiseOnce; split <;> simp
@[simp] theorem State.raiseOnce_psave (s : State) (key code sev src pay : Nat) : (s.raiseOnce key code sev src pay).psave = s.psave := by unfold State.raiseOnce; split <;> simp

@[simp] theorem State.rearm_pending (s : State) (key : Nat) : (s.rearm key).pending = s.pending := rfl
@[simp] theorem State.rearm_regs (s : State) (key : Nat) : (s.rearm key).regs = s.regs := rfl
@[simp] theorem State.rearm_req (s : State) (key : Nat) : (s.rearm key).req = s.req := rfl
@[simp] theorem State.rearm_mem (s : State) (key : Nat) : (s.rearm key).mem = s.mem := rfl
@[simp] theorem State.rearm_sync (s : State) (key : Nat) : (s.rearm key).sync = s.sync := rfl
@[simp] theorem State.rearm_cnt (s : State) (key : Nat) : (s.rearm key).cnt = s.cnt := rfl
@[simp] theorem State.rearm_rst (s : State) (key : Nat) : (s.rearm key).rst = s.rst := rfl
@[simp] theorem State.rearm_host (s : State) (key : Nat) : (s.rearm key).host = s.host := rfl
@[simp] theorem State.rearm_nvs (s : State) (key : Nat) : (s.rearm key).nvs = s.nvs := rfl
@[simp] theorem State.rearm_fus (s : State) (key : Nat) : (s.rearm key).fus = s.fus := rfl
@[simp] theorem State.rearm_sec (s : State) (key : Nat) : (s.rearm key).sec = s.sec := rfl
@[simp] theorem State.rearm_arrs (s : State) (key : Nat) : (s.rearm key).arrs = s.arrs := rfl
@[simp] theorem State.rearm_cors (s : State) (key : Nat) : (s.rearm key).cors = s.cors := rfl
@[simp] theorem State.rearm_pcm (s : State) (key : Nat) : (s.rearm key).pcm = s.pcm := rfl
@[simp] theorem State.rearm_cores (s : State) (key : Nat) : (s.rearm key).cores = s.cores := rfl
@[simp] theorem State.rearm_mr (s : State) (key : Nat) : (s.rearm key).mr = s.mr := rfl
@[simp] theorem State.rearm_reqs (s : State) (key : Nat) : (s.rearm key).reqs = s.reqs := rfl
@[simp] theorem State.rearm_saves (s : State) (key : Nat) : (s.rearm key).saves = s.saves := rfl
@[simp] theorem State.rearm_prs (s : State) (key : Nat) : (s.rearm key).prs = s.prs := rfl
@[simp] theorem State.rearm_refs (s : State) (key : Nat) : (s.rearm key).refs = s.refs := rfl
@[simp] theorem State.rearm_bases (s : State) (key : Nat) : (s.rearm key).bases = s.bases := rfl
@[simp] theorem State.rearm_ctxs (s : State) (key : Nat) : (s.rearm key).ctxs = s.ctxs := rfl
@[simp] theorem State.rearm_strms (s : State) (key : Nat) : (s.rearm key).strms = s.strms := rfl
@[simp] theorem State.rearm_pert (s : State) (key : Nat) : (s.rearm key).pert = s.pert := rfl
@[simp] theorem State.rearm_pair (s : State) (key : Nat) : (s.rearm key).pair = s.pair := rfl
@[simp] theorem State.rearm_eng (s : State) (key : Nat) : (s.rearm key).eng = s.eng := rfl
@[simp] theorem State.rearm_act (s : State) (key : Nat) : (s.rearm key).act = s.act := rfl
@[simp] theorem State.rearm_msr (s : State) (key : Nat) : (s.rearm key).msr = s.msr := rfl
@[simp] theorem State.rearm_link (s : State) (key : Nat) : (s.rearm key).link = s.link := rfl
@[simp] theorem State.rearm_psave (s : State) (key : Nat) : (s.rearm key).psave = s.psave := rfl

@[simp] theorem State.health_pending (s : State) (b : Nat) : (s.health b).pending = s.pending := by unfold State.health; split <;> simp
@[simp] theorem State.health_req (s : State) (b : Nat) : (s.health b).req = s.req := by unfold State.health; split <;> simp
@[simp] theorem State.health_sync (s : State) (b : Nat) : (s.health b).sync = s.sync := by unfold State.health; split <;> simp
@[simp] theorem State.health_cnt (s : State) (b : Nat) : (s.health b).cnt = s.cnt := by unfold State.health; split <;> simp
@[simp] theorem State.health_rst (s : State) (b : Nat) : (s.health b).rst = s.rst := by unfold State.health; split <;> simp
@[simp] theorem State.health_host (s : State) (b : Nat) : (s.health b).host = s.host := by unfold State.health; split <;> simp
@[simp] theorem State.health_nvs (s : State) (b : Nat) : (s.health b).nvs = s.nvs := by unfold State.health; split <;> simp
@[simp] theorem State.health_fus (s : State) (b : Nat) : (s.health b).fus = s.fus := by unfold State.health; split <;> simp
@[simp] theorem State.health_sec (s : State) (b : Nat) : (s.health b).sec = s.sec := by unfold State.health; split <;> simp
@[simp] theorem State.health_arrs (s : State) (b : Nat) : (s.health b).arrs = s.arrs := by unfold State.health; split <;> simp
@[simp] theorem State.health_cors (s : State) (b : Nat) : (s.health b).cors = s.cors := by unfold State.health; split <;> simp
@[simp] theorem State.health_pcm (s : State) (b : Nat) : (s.health b).pcm = s.pcm := by unfold State.health; split <;> simp
@[simp] theorem State.health_cores (s : State) (b : Nat) : (s.health b).cores = s.cores := by unfold State.health; split <;> simp
@[simp] theorem State.health_mr (s : State) (b : Nat) : (s.health b).mr = s.mr := by unfold State.health; split <;> simp
@[simp] theorem State.health_reqs (s : State) (b : Nat) : (s.health b).reqs = s.reqs := by unfold State.health; split <;> simp
@[simp] theorem State.health_saves (s : State) (b : Nat) : (s.health b).saves = s.saves := by unfold State.health; split <;> simp
@[simp] theorem State.health_prs (s : State) (b : Nat) : (s.health b).prs = s.prs := by unfold State.health; split <;> simp
@[simp] theorem State.health_refs (s : State) (b : Nat) : (s.health b).refs = s.refs := by unfold State.health; split <;> simp
@[simp] theorem State.health_bases (s : State) (b : Nat) : (s.health b).bases = s.bases := by unfold State.health; split <;> simp
@[simp] theorem State.health_ctxs (s : State) (b : Nat) : (s.health b).ctxs = s.ctxs := by unfold State.health; split <;> simp
@[simp] theorem State.health_strms (s : State) (b : Nat) : (s.health b).strms = s.strms := by unfold State.health; split <;> simp
@[simp] theorem State.health_pert (s : State) (b : Nat) : (s.health b).pert = s.pert := by unfold State.health; split <;> simp
@[simp] theorem State.health_pair (s : State) (b : Nat) : (s.health b).pair = s.pair := by unfold State.health; split <;> simp
@[simp] theorem State.health_eng (s : State) (b : Nat) : (s.health b).eng = s.eng := by unfold State.health; split <;> simp
@[simp] theorem State.health_act (s : State) (b : Nat) : (s.health b).act = s.act := by unfold State.health; split <;> simp
@[simp] theorem State.health_msr (s : State) (b : Nat) : (s.health b).msr = s.msr := by unfold State.health; split <;> simp
@[simp] theorem State.health_link (s : State) (b : Nat) : (s.health b).link = s.link := by unfold State.health; split <;> simp
@[simp] theorem State.health_psave (s : State) (b : Nat) : (s.health b).psave = s.psave := by unfold State.health; split <;> simp

@[simp] theorem State.msix_log (s : State) (p v : Nat) : (s.msix p v).ev.log = s.ev.log := by unfold State.msix; dsimp only; repeat (first | rfl | split)
@[simp] theorem State.setEq_log (s : State) (p : Nat) (q : EqSt) : (s.setEq p q).ev.log = s.ev.log := by unfold State.setEq; dsimp only; split <;> rfl
@[simp] theorem State.eqPut_log (s : State) (p : Nat) (e : EvRec) : (s.eqPut p e).ev.log = s.ev.log := by simp [State.eqPut]
@[simp] theorem State.deliver_log (s : State) (p : Nat) (e : EvRec) : (s.deliver p e).ev.log = s.ev.log := by
  unfold State.deliver; dsimp only; repeat (first | rfl | split | simp)
@[simp] theorem State.logEvent_log (s : State) (e : EvRec) : (s.logEvent e).ev.log = s.ev.log := by
  unfold State.logEvent; repeat (first | rfl | split)

@[simp] theorem State.raiseRaw_log (s : State) (e : EvRec) : (s.raiseRaw e).ev.log = e :: s.ev.log := by simp [State.raiseRaw]

/-- A queue's report of records lost is event 0x0A01 (R454). -/
theorem State.lossRec_log (s : State) (p : Nat) : ∃ l, (s.lossRec p).ev.log = l ++ s.ev.log ∧ ∀ x ∈ l, x.code = 0x0A01 := by
  unfold State.lossRec
  split
  · exact ⟨[s.mkEvent 0x0A01 1 (0x800 + p) 1 0xFF 0 (p + 2 ^ 32 * (s.eq p).lostNow)], by simp, by simp [State.mkEvent]⟩
  · exact ⟨[], by simp, by simp⟩

/-- Raising an event records it last, after what the queues have to report of records lost (R454). -/
theorem State.raiseRec_log (s : State) (e : EvRec) : ∃ l, (s.raiseRec e).ev.log = e :: (l ++ s.ev.log) ∧ ∀ x ∈ l, x.code = 0x0A01 := by
  obtain ⟨l0, h0, c0⟩ := s.lossRec_log 0
  obtain ⟨l1, h1, c1⟩ := (s.lossRec 0).lossRec_log 1
  refine ⟨l1 ++ l0, by simp [State.raiseRec, h0, h1], ?_⟩
  intro x hx
  rcases List.mem_append.mp hx with h | h
  · exact c1 x h
  · exact c0 x h

theorem State.raise_log (s : State) (code sev src pay : Nat) :
    ∃ l, (s.raise code sev src pay).ev.log = s.mkEvent code sev src (srcCount src) 0xFF 0 pay :: (l ++ s.ev.log) ∧ ∀ x ∈ l, x.code = 0x0A01 :=
  s.raiseRec_log _
theorem State.raiseStream_log (s : State) (code sev src st seq pay : Nat) :
    ∃ l, (s.raiseStream code sev src st seq pay).ev.log = s.mkEvent code sev src (srcCount src) st seq pay :: (l ++ s.ev.log) ∧ ∀ x ∈ l, x.code = 0x0A01 :=
  s.raiseRec_log _
@[simp] theorem State.raise_reg (s : State) (code sev src pay a : Nat) : (s.raise code sev src pay).reg a = s.reg a := by simp [State.reg]
@[simp] theorem State.raiseStream_reg (s : State) (code sev src st seq pay a : Nat) : (s.raiseStream code sev src st seq pay).reg a = s.reg a := by simp [State.reg]
@[simp] theorem State.raise_ctx (s : State) (code sev src pay i : Nat) : (s.raise code sev src pay).ctx i = s.ctx i := by simp [State.ctx]
@[simp] theorem State.raise_arr (s : State) (code sev src pay i : Nat) : (s.raise code sev src pay).arr i = s.arr i := by simp [State.arr]

@[simp] theorem State.hostWrite_mem_tank (s : State) (a : Nat) (bs : List Byte) : (s.hostWrite a bs).mem.tank = s.mem.tank := rfl
@[simp] theorem State.eqPut_mem_tank (s : State) (p : Nat) (e : EvRec) : (s.eqPut p e).mem.tank = s.mem.tank := by simp [State.eqPut]
@[simp] theorem State.deliver_mem_tank (s : State) (p : Nat) (e : EvRec) : (s.deliver p e).mem.tank = s.mem.tank := by
  unfold State.deliver; dsimp only; repeat (first | rfl | split | simp)
@[simp] theorem State.raiseRaw_mem_tank (s : State) (e : EvRec) : (s.raiseRaw e).mem.tank = s.mem.tank := by simp [State.raiseRaw]
@[simp] theorem State.lossRec_mem_tank (s : State) (p : Nat) : (s.lossRec p).mem.tank = s.mem.tank := by unfold State.lossRec; split <;> simp
@[simp] theorem State.raiseRec_mem_tank (s : State) (e : EvRec) : (s.raiseRec e).mem.tank = s.mem.tank := by simp [State.raiseRec]
@[simp] theorem State.raise_mem_tank (s : State) (code sev src pay : Nat) : (s.raise code sev src pay).mem.tank = s.mem.tank := by simp [State.raise]
@[simp] theorem State.raiseStream_mem_tank (s : State) (code sev src st seq pay : Nat) : (s.raiseStream code sev src st seq pay).mem.tank = s.mem.tank := by simp [State.raiseStream]

@[simp] theorem State.hostWrite_mem_cbuf (s : State) (a : Nat) (bs : List Byte) : (s.hostWrite a bs).mem.cbuf = s.mem.cbuf := rfl
@[simp] theorem State.eqPut_mem_cbuf (s : State) (p : Nat) (e : EvRec) : (s.eqPut p e).mem.cbuf = s.mem.cbuf := by simp [State.eqPut]
@[simp] theorem State.deliver_mem_cbuf (s : State) (p : Nat) (e : EvRec) : (s.deliver p e).mem.cbuf = s.mem.cbuf := by
  unfold State.deliver; dsimp only; repeat (first | rfl | split | simp)
@[simp] theorem State.raiseRaw_mem_cbuf (s : State) (e : EvRec) : (s.raiseRaw e).mem.cbuf = s.mem.cbuf := by simp [State.raiseRaw]
@[simp] theorem State.lossRec_mem_cbuf (s : State) (p : Nat) : (s.lossRec p).mem.cbuf = s.mem.cbuf := by unfold State.lossRec; split <;> simp
@[simp] theorem State.raiseRec_mem_cbuf (s : State) (e : EvRec) : (s.raiseRec e).mem.cbuf = s.mem.cbuf := by simp [State.raiseRec]
@[simp] theorem State.raise_mem_cbuf (s : State) (code sev src pay : Nat) : (s.raise code sev src pay).mem.cbuf = s.mem.cbuf := by simp [State.raise]
@[simp] theorem State.raiseStream_mem_cbuf (s : State) (code sev src st seq pay : Nat) : (s.raiseStream code sev src st seq pay).mem.cbuf = s.mem.cbuf := by simp [State.raiseStream]

@[simp] theorem State.hostWrite_mem_dram (s : State) (a : Nat) (bs : List Byte) : (s.hostWrite a bs).mem.dram = s.mem.dram := rfl
@[simp] theorem State.eqPut_mem_dram (s : State) (p : Nat) (e : EvRec) : (s.eqPut p e).mem.dram = s.mem.dram := by simp [State.eqPut]
@[simp] theorem State.deliver_mem_dram (s : State) (p : Nat) (e : EvRec) : (s.deliver p e).mem.dram = s.mem.dram := by
  unfold State.deliver; dsimp only; repeat (first | rfl | split | simp)
@[simp] theorem State.raiseRaw_mem_dram (s : State) (e : EvRec) : (s.raiseRaw e).mem.dram = s.mem.dram := by simp [State.raiseRaw]
@[simp] theorem State.lossRec_mem_dram (s : State) (p : Nat) : (s.lossRec p).mem.dram = s.mem.dram := by unfold State.lossRec; split <;> simp
@[simp] theorem State.raiseRec_mem_dram (s : State) (e : EvRec) : (s.raiseRec e).mem.dram = s.mem.dram := by simp [State.raiseRec]
@[simp] theorem State.raise_mem_dram (s : State) (code sev src pay : Nat) : (s.raise code sev src pay).mem.dram = s.mem.dram := by simp [State.raise]
@[simp] theorem State.raiseStream_mem_dram (s : State) (code sev src st seq pay : Nat) : (s.raiseStream code sev src st seq pay).mem.dram = s.mem.dram := by simp [State.raiseStream]

@[simp] theorem State.hostWrite_mem_nvs (s : State) (a : Nat) (bs : List Byte) : (s.hostWrite a bs).mem.nvs = s.mem.nvs := rfl
@[simp] theorem State.eqPut_mem_nvs (s : State) (p : Nat) (e : EvRec) : (s.eqPut p e).mem.nvs = s.mem.nvs := by simp [State.eqPut]
@[simp] theorem State.deliver_mem_nvs (s : State) (p : Nat) (e : EvRec) : (s.deliver p e).mem.nvs = s.mem.nvs := by
  unfold State.deliver; dsimp only; repeat (first | rfl | split | simp)
@[simp] theorem State.raiseRaw_mem_nvs (s : State) (e : EvRec) : (s.raiseRaw e).mem.nvs = s.mem.nvs := by simp [State.raiseRaw]
@[simp] theorem State.lossRec_mem_nvs (s : State) (p : Nat) : (s.lossRec p).mem.nvs = s.mem.nvs := by unfold State.lossRec; split <;> simp
@[simp] theorem State.raiseRec_mem_nvs (s : State) (e : EvRec) : (s.raiseRec e).mem.nvs = s.mem.nvs := by simp [State.raiseRec]
@[simp] theorem State.raise_mem_nvs (s : State) (code sev src pay : Nat) : (s.raise code sev src pay).mem.nvs = s.mem.nvs := by simp [State.raise]
@[simp] theorem State.raiseStream_mem_nvs (s : State) (code sev src st seq pay : Nat) : (s.raiseStream code sev src st seq pay).mem.nvs = s.mem.nvs := by simp [State.raiseStream]

@[simp] theorem State.hostWrite_mem_qspi (s : State) (a : Nat) (bs : List Byte) : (s.hostWrite a bs).mem.qspi = s.mem.qspi := rfl
@[simp] theorem State.eqPut_mem_qspi (s : State) (p : Nat) (e : EvRec) : (s.eqPut p e).mem.qspi = s.mem.qspi := by simp [State.eqPut]
@[simp] theorem State.deliver_mem_qspi (s : State) (p : Nat) (e : EvRec) : (s.deliver p e).mem.qspi = s.mem.qspi := by
  unfold State.deliver; dsimp only; repeat (first | rfl | split | simp)
@[simp] theorem State.raiseRaw_mem_qspi (s : State) (e : EvRec) : (s.raiseRaw e).mem.qspi = s.mem.qspi := by simp [State.raiseRaw]
@[simp] theorem State.lossRec_mem_qspi (s : State) (p : Nat) : (s.lossRec p).mem.qspi = s.mem.qspi := by unfold State.lossRec; split <;> simp
@[simp] theorem State.raiseRec_mem_qspi (s : State) (e : EvRec) : (s.raiseRec e).mem.qspi = s.mem.qspi := by simp [State.raiseRec]
@[simp] theorem State.raise_mem_qspi (s : State) (code sev src pay : Nat) : (s.raise code sev src pay).mem.qspi = s.mem.qspi := by simp [State.raise]
@[simp] theorem State.raiseStream_mem_qspi (s : State) (code sev src st seq pay : Nat) : (s.raiseStream code sev src st seq pay).mem.qspi = s.mem.qspi := by simp [State.raiseStream]

end Sys2Proof.Machine
end

