-- ==== Sys2Proof/Laws/Seq.lean ====
section
/-!
SUPPORT. Issue, accesses and fetches, said once.
-/
namespace Sys2Proof.Machine

theorem SameBut.refl (l : List Piece) (s : State) : SameBut l s s := by intro p _; cases p <;> rfl

theorem SameBut.trans {l : List Piece} {s t u : State} (h : SameBut l s t) (k : SameBut l t u) : SameBut l s u := by
  intro p hp
  have h1 := h p hp
  have h2 := k p hp
  cases p <;> simp only [Piece.same] at * <;> rw [h2, h1]

theorem SameBut.mono {l m : List Piece} {s t : State} (h : SameBut l s t) (k : ∀ p ∈ l, p ∈ m) : SameBut m s t :=
  fun p hp => h p (fun hl => hp (k p hl))

/-- What the issue of a runnable, legal instruction is: its body on the state after the fetch. -/
theorem issue_runs {s : State} {k : CtxId} {w : BitVec 56} {legal : Bool} {needs : List LoadDst} {body : State → Res} (hl : legal = true)
    (h : s.canIssue (ctxIx k) = true ∧ s.fetchBad (ctxIx k) = false ∧ guardOn w ((s.fetchFx (ctxIx k)).ctx (ctxIx k)).p = true
      ∧ ∀ d ∈ needs, ((s.fetchFx (ctxIx k)).ctx (ctxIx k)).awaits d = false) :
    issue k w legal needs body s = .next (settle (ctxIx k) (s.fetchFx (ctxIx k)) (body (s.fetchFx (ctxIx k)))) := by
  obtain ⟨h1, h2, h3, h4⟩ := h
  have h5 : needs.any (fun d => ((s.fetchFx (ctxIx k)).ctx (ctxIx k)).awaits d) = false := by
    simpa [List.any_eq_false] using h4
  simp [issue, issueAt, h1, h2, hl, h3, h5]

@[simp] theorem State.setMem_ctxs (s : State) (sp : Nat) (m : Mem) : (s.setMem sp m).ctxs = s.ctxs := rfl
@[simp] theorem State.raiseOnceHealth_ctxs (s : State) (key code sev src pay b : Nat) : (s.raiseOnceHealth key code sev src pay b).ctxs = s.ctxs := by
  unfold State.raiseOnceHealth; split <;> simp
@[simp] theorem State.eccCount_ctxs (s : State) (n : Nat) : (s.eccCount n).ctxs = s.ctxs := by
  unfold State.eccCount; dsimp only; repeat (first | rfl | split | simp)
@[simp] theorem State.eccUnc_ctxs (s : State) (sp g port kind : Nat) : (s.eccUnc sp g port kind).ctxs = s.ctxs := by
  unfold State.eccUnc
  extract_lets a core off s1
  have h1 : s1.ctxs = s.ctxs := by rw [State.setReg64_ctxs, State.orReg_ctxs]
  split
  · rw [State.raise_ctxs, h1]
  · split <;> rw [State.raise_ctxs, h1]

/-- A fold of steps that each leave a value alone leaves it alone. -/
theorem foldl_keep {α β γ : Type} (f : β → α → β) (g : β → γ) (h : ∀ b a, g (f b a) = g b) (l : List α) (b : β) : g (l.foldl f b) = g b := by
  induction l generalizing b with
  | nil => rfl
  | cons a r ih => simp [List.foldl, ih, h]

@[simp] theorem State.correct_ctxs (s : State) (sp : Nat) (hit : Nat × Bool → Bool) : (s.correct sp hit).ctxs = s.ctxs := by
  simp [State.correct]

@[simp] theorem State.readFx_ctxs (s : State) (sp a n port kind : Nat) : (s.readFx sp a n port kind).ctxs = s.ctxs := by
  unfold State.readFx; dsimp only
  rw [foldl_keep _ State.ctxs (by intros; simp)]; simp

/-- The fetch leaves the contexts alone. -/
@[simp] theorem State.fetchFx_ctxs (s : State) (i : Nat) : (s.fetchFx i).ctxs = s.ctxs := by
  unfold State.fetchFx; dsimp only; split <;> simp

@[simp] theorem State.fetchFx_ctx (s : State) (i j : Nat) : (s.fetchFx i).ctx j = s.ctx j := by simp [State.ctx]

/-- The issue of an instruction that runs. -/
theorem issue_of_runs {s : State} {k : CtxId} {w : BitVec 56} {legal : Bool} {needs : List LoadDst} {body : State → Res} (hl : legal = true)
    (h : Runs s k w needs) : issue k w legal needs body s = .next (settle (ctxIx k) (s.fetchFx (ctxIx k)) (body (s.fetchFx (ctxIx k)))) :=
  issue_runs hl (by simpa [Runs] using h)

/-- An access that reaches its register takes effect. -/
theorem access_reaches {s : State} {who : Who} {a : Nat} (f : State → State) (h : reaches s who a = true) : s.access who a f = f s := by
  unfold reaches at h
  unfold State.access
  split at h
  · next h1 => simp [h1, h]
  · next p h1 =>
    simp only [Bool.and_eq_true, Bool.not_eq_true', Bool.or_eq_true, bne_iff_ne, ne_eq] at h
    obtain ⟨⟨⟨h2, h3⟩, h4⟩, h5⟩ := h
    simp [h1, h2, h3, h4]
    intro h6 h7
    rcases h5 with h5 | h5
    · exact absurd h6 h5
    · simp [h5] at h7

end Sys2Proof.Machine
end

