-- ==== Sys2Proof/Laws/Access.lean ====
section
/-!
SUPPORT. What events and accesses to the memories change, and the bytes that a read and a write of a space leave.
-/
namespace Sys2Proof.Machine

/-! ## Parts of the state -/

/-- Setting a register changes the registers only. -/
theorem State.setReg_same (s : State) (a : Nat) (v : W32) : SameBut [.regs] s (s.setReg a v) := by
  intro p hp; cases p <;> simp_all [Piece.same]

/-- Raising an event changes the event state and host memory only. -/
theorem State.raise_same (s : State) (code sev src pay : Nat) : SameBut evParts s (s.raise code sev src pay) := by
  intro p hp; cases p <;> simp_all [Piece.same]

theorem State.raiseRec_same (s : State) (e : EvRec) : SameBut evParts s (s.raiseRec e) := by
  intro p hp; cases p <;> simp_all [Piece.same]

theorem State.setCtx_same (s : State) (i : Nat) (c : Ctx) : SameBut [.ctxs] s (s.setCtx i c) := by
  intro p hp; cases p <;> simp_all [Piece.same]

theorem State.setArr_same (s : State) (a : Nat) (x : Arr) : SameBut [.arrs] s (s.setArr a x) := by
  intro p hp; cases p <;> simp_all [Piece.same]

theorem State.setCore_same (s : State) (c : Nat) (x : CoreSt) : SameBut [.cores] s (s.setCore c x) := by
  intro p hp; cases p <;> simp_all [Piece.same]

/-- A fold of steps that each change only some parts changes only those. -/
theorem SameBut.foldl {l : List Piece} {α : Type} {f : State → α → State} (hf : ∀ t a, SameBut l t (f t a)) (as : List α) (s : State) :
    SameBut l s (as.foldl f s) := by
  induction as generalizing s with
  | nil => exact SameBut.refl _ _
  | cons a r ih => exact (hf s a).trans (ih (f s a))

/-- The parts that an ECC report reaches. -/
abbrev eccParts : List Piece := [.regs, .ev, .hostMem]

theorem State.raiseOnceHealth_same (s : State) (key code sev src pay b : Nat) : SameBut eccParts s (s.raiseOnceHealth key code sev src pay b) := by
  have h1 : ∀ t : State, SameBut eccParts t (t.raiseOnce key code sev src pay) := by
    intro t
    unfold State.raiseOnce
    split
    · exact SameBut.refl _ _
    · refine ((State.raise_same t code sev src pay).mono (by simp)).trans ?_
      intro p hp; cases p <;> first | rfl | (exfalso; revert hp; decide)
  have h2 : ∀ t : State, SameBut eccParts t (t.health b) := by
    intro t
    unfold State.health
    split
    · exact SameBut.refl _ _
    · exact ((State.setReg_same t _ _).mono (by simp)).trans ((State.raise_same _ _ _ _ _).mono (by simp))
  unfold State.raiseOnceHealth
  split
  · exact SameBut.refl _ _
  · exact (h1 s).trans (h2 _)

theorem State.eccCount_same (s : State) (n : Nat) : SameBut eccParts s (s.eccCount n) := by
  have h : SameBut eccParts s (s.incReg Reg.TNK_ECC_CNT n) := (State.setReg_same _ _ _).mono (by simp)
  unfold State.eccCount
  dsimp only
  split
  · exact SameBut.refl _ _
  · split
    · exact h.trans (State.raiseOnceHealth_same _ _ _ _ _ _ _)
    · exact h

theorem State.eccUnc_same (s : State) (sp g port kind : Nat) : SameBut eccParts s (s.eccUnc sp g port kind) := by
  unfold State.eccUnc
  extract_lets a core off s1
  have h : SameBut eccParts s s1 :=
    (((State.setReg_same s _ _).trans (State.setReg_same _ _ _)).trans (State.setReg_same _ _ _)).mono (by simp)
  clear_value s1
  split
  · exact h.trans ((State.raise_same _ _ _ _ _).mono (by simp))
  · split
    · exact h.trans ((State.raise_same _ _ _ _ _).mono (by simp))
    · exact h.trans ((State.raise_same _ _ _ _ _).mono (by simp))

/-- The parts that an access to a space can reach. -/
abbrev accessParts : List Piece := [.regs, .ev, .hostMem, .tank, .cbuf, .dram]

theorem State.setMem_same (s : State) (sp : Nat) (m : Mem) : SameBut accessParts s (s.setMem sp m) := by
  intro p hp
  unfold State.setMem
  cases p <;> first | rfl | (exfalso; revert hp; decide) | (simp only [Piece.same]; split <;> first | rfl | (split <;> rfl))

theorem State.correct_same (s : State) (sp : Nat) (hit : Nat × Bool → Bool) : SameBut accessParts s (s.correct sp hit) :=
  (State.setMem_same s sp _).trans ((State.eccCount_same _ _).mono (by simp))

theorem State.readFx_same (s : State) (sp a n port kind : Nat) : SameBut accessParts s (s.readFx sp a n port kind) := by
  unfold State.readFx
  dsimp only
  exact (State.correct_same s sp _).trans (SameBut.foldl (fun t e => (State.eccUnc_same t _ _ _ _).mono (by simp)) _ _)

theorem State.writeFx_same (s : State) (sp a : Nat) (bs : List Byte) (port : Nat) : SameBut accessParts s (s.writeFx sp a bs port) := by
  unfold State.writeFx
  dsimp only
  exact ((State.correct_same s sp _).trans (State.setMem_same _ sp _)).trans (SameBut.foldl (fun t e => (State.eccUnc_same t _ _ _ _).mono (by simp)) _ _)

/-! ## Bytes of a space -/

/-- Parts other than the three spaces do not matter to what a space holds. -/
theorem SameBut.memOf {l : List Piece} {s t : State} (h : SameBut l s t) (h0 : Piece.tank ∉ l) (h1 : Piece.cbuf ∉ l) (h2 : Piece.dram ∉ l) (sp : Nat) :
    t.memOf sp = s.memOf sp := by
  have a := h _ h0
  have b := h _ h1
  have c := h _ h2
  simp only [Piece.same] at a b c
  simp only [State.memOf, a, b, c]

@[simp] theorem State.eccUnc_memOf (s : State) (sp g port kind x : Nat) : (s.eccUnc sp g port kind).memOf x = s.memOf x :=
  (State.eccUnc_same s sp g port kind).memOf (by simp) (by simp) (by simp) x

@[simp] theorem State.eccCount_memOf (s : State) (n x : Nat) : (s.eccCount n).memOf x = s.memOf x :=
  (State.eccCount_same s n).memOf (by simp) (by simp) (by simp) x

@[simp] theorem State.setMem_memOf_self (s : State) (sp : Nat) (m : Mem) : (s.setMem sp m).memOf sp = m := by
  unfold State.memOf State.setMem
  split
  · rfl
  · split <;> rfl

/-- Two numbers name the same space. -/
def sameSpace (x y : Nat) : Bool := x == y || (decide (2 ≤ x) && decide (2 ≤ y))

theorem State.setMem_memOf_ne (s : State) {sp x : Nat} (m : Mem) (h : sameSpace sp x = false) : (s.setMem sp m).memOf x = s.memOf x := by
  simp only [sameSpace, Bool.or_eq_false_iff, beq_eq_false_iff_ne, Bool.and_eq_false_iff, decide_eq_false_iff_not] at h
  unfold State.memOf State.setMem
  by_cases h1 : sp = 0
  · have h2 : x ≠ 0 := by omega
    simp [h1, h2]
  · by_cases h2 : sp = 1
    · have h3 : x ≠ 1 := by omega
      simp [h2, h3]
    · by_cases h4 : x = 0
      · simp [h1, h2, h4]
      · have h5 : x = 1 := by omega
        simp [h1, h2, h5]

theorem foldl_eccUnc_memOf (sp port kind x : Nat) {α : Type} (g : α → Nat) (l : List α) (s : State) :
    (l.foldl (fun t e => t.eccUnc sp (g e) port kind) s).memOf x = s.memOf x := by
  induction l generalizing s with
  | nil => rfl
  | cons e r ih => simp only [List.foldl, ih, State.eccUnc_memOf]

theorem sameSpace_memOf {sp x : Nat} (h : sameSpace sp x = true) (s : State) : s.memOf x = s.memOf sp := by
  simp only [sameSpace, Bool.or_eq_true, beq_iff_eq, Bool.and_eq_true, decide_eq_true_eq] at h
  rcases h with h | h
  · rw [h]
  · unfold State.memOf; rw [if_neg (by omega), if_neg (by omega), if_neg (by omega), if_neg (by omega)]

/-- Correction changes the marks of the space's groups, no byte, and no uncorrectable group. -/
theorem State.correct_memOf_self (s : State) (sp : Nat) (hit : Nat × Bool → Bool) :
    (s.correct sp hit).memOf sp = { s.memOf sp with ecc := (s.memOf sp).ecc.filter (fun e => e.2 || !(corrGroups (s.memOf sp) hit).contains e.1) } := by
  simp [State.correct]

theorem State.correct_memOf_ne (s : State) {sp x : Nat} (hit : Nat × Bool → Bool) (h : sameSpace sp x = false) :
    (s.correct sp hit).memOf x = s.memOf x := by
  simp only [State.correct, State.eccCount_memOf]; exact State.setMem_memOf_ne s _ h

/-- Correction changes no byte of any space. -/
@[simp] theorem State.correct_byte (s : State) (sp : Nat) (hit : Nat × Bool → Bool) (x k : Nat) :
    ((s.correct sp hit).memOf x).byte k = (s.memOf x).byte k := by
  by_cases h : sameSpace sp x = true
  · rw [sameSpace_memOf h, sameSpace_memOf h s, State.correct_memOf_self]; rfl
  · rw [State.correct_memOf_ne s hit (by simpa using h)]

/-- A read changes no byte of any space. -/
@[simp] theorem State.readFx_byte (s : State) (sp a n port kind x k : Nat) : ((s.readFx sp a n port kind).memOf x).byte k = (s.memOf x).byte k := by
  unfold State.readFx
  dsimp only
  rw [foldl_eccUnc_memOf, State.correct_byte]

/-- Correction leaves the uncorrectable groups that a write covers in part. -/
@[simp] theorem State.correct_partBad (s : State) (sp : Nat) (hit : Nat × Bool → Bool) (a n : Nat) :
    partBad ((s.correct sp hit).memOf sp) a n = partBad (s.memOf sp) a n := by
  rw [State.correct_memOf_self]
  unfold partBad
  rw [List.filter_filter]
  congr 2
  funext e
  cases e.2 <;> simp

/-- A byte of the written space after a write: the written byte in the range, unless its group holds an uncorrectable error and is covered in
part; the old byte elsewhere (R253, R254). -/
theorem State.writeFx_byte (s : State) (sp a : Nat) (bs : List Byte) (port k : Nat) :
    ((s.writeFx sp a bs port).memOf sp).byte k
      = if (a ≤ k ∧ k < a + bs.length) ∧ (partBad (s.memOf sp) a bs.length).contains (k / 8) = false then bs.getD (k - a) 0
        else (s.memOf sp).byte k := by
  unfold State.writeFx
  dsimp only
  rw [foldl_eccUnc_memOf sp port 1 sp (fun g => g), State.setMem_memOf_self, State.correct_partBad]
  refine (getD_cellsWriteSkip _ _ _ _ _).trans ?_
  rw [← State.correct_byte s sp (fun e => partOf a bs.length e.1) sp k]; rfl

/-- A write of one space leaves the others alone. -/
theorem State.writeFx_memOf_ne (s : State) {sp x : Nat} (a : Nat) (bs : List Byte) (port : Nat) (h : sameSpace sp x = false) :
    (s.writeFx sp a bs port).memOf x = s.memOf x := by
  unfold State.writeFx
  dsimp only
  rw [foldl_eccUnc_memOf sp port 1 x (fun g => g), State.setMem_memOf_ne _ _ h, State.correct_memOf_ne s _ h]

end Sys2Proof.Machine
end

