-- ==== Sys2Proof/Laws/Sound.lean ====
section
/-!
SUPPORT. What every step keeps (`Sound`), operation by operation: what was sound before is sound after.
-/
namespace Sys2Proof.Machine

theorem Sound.parts {f0 : Fuses} {s : State} (h : Sound f0 s) :
    FusesFrom f0 s.fus ∧ (∃ i : Fin 4, bit s.fus.revoked i.val = false) ∧ MemsWf s.mem := h

/-- Soundness looks at the fuses and the memories only. -/
theorem sound_mk {f0 : Fuses} {pending : List Instr} {regs : Tab W32} {req : Tab ReqSt} {mem : Mems} {sync : Tab W32} {ev : EvSt} {cnt : Counts} {rst : Rst} {host : HostSt} {nvs : NvsSt} {fus : Fuses} {sec : SecSt} {arrs : Tab Arr} {cors : Tab Cor} {pcm : Tab (Tab Int)} {cores : Tab CoreSt} {mr : MrSt} {reqs : List (Nat × Nat)} {saves : Tab Tile} {prs : PressSt} {refs : Tab ProbeRef} {bases : Tab W32} {ctxs : Tab Ctx} {strms : Tab Strm} {pert : Tab Pert} {pair : PairSt} {eng : EngSt} {act : ActSt} {msr : MsrSt} {link : LinkSt} {psave : SaveSt}
    (h : FusesFrom f0 fus ∧ (∃ i : Fin 4, bit fus.revoked i.val = false) ∧ MemsWf mem) : Sound f0 ⟨pending, regs, req, mem, sync, ev, cnt, rst, host, nvs, fus, sec, arrs, cors, pcm, cores, mr, reqs, saves, prs, refs, bases, ctxs, strms, pert, pair, eng, act, msr, link, psave⟩ := h

theorem Sound.of_eq {f0 : Fuses} {s t : State} (h : Sound f0 s) (hf : t.fus = s.fus) (hm : t.mem = s.mem) : Sound f0 t := by
  unfold Sound at h ⊢; rw [hf, hm]; exact h

theorem sound_ite {f0 : Fuses} {c : Prop} [Decidable c] {s t : State} (hs : Sound f0 s) (ht : Sound f0 t) : Sound f0 (if c then s else t) := by
  split
  · exact hs
  · exact ht

theorem sound_foldl {f0 : Fuses} {α : Type} {f : State → α → State} {l : List α} {s : State} (hs : Sound f0 s)
    (hf : ∀ t a, Sound f0 t → Sound f0 (f t a)) : Sound f0 (l.foldl f s) := by
  induction l generalizing s with
  | nil => exact hs
  | cons a r ih => exact ih (hf s a hs)

theorem sound_pair {f0 : Fuses} {α : Type} {x : State × α} {s : State} {a : α} (h : x = (s, a)) (hx : Sound f0 x.1) : Sound f0 s := by
  rw [h] at hx; exact hx

theorem sound_pair2 {f0 : Fuses} {α : Type} {x : α × State} {s : State} {a : α} (h : x = (a, s)) (hx : Sound f0 x.2) : Sound f0 s := by
  rw [h] at hx; exact hx

/-- What an instruction's outcome holds is sound. -/
def Res.sound (f0 : Fuses) : Res → Prop
  | .ok t => Sound f0 t
  | .jump t _ => Sound f0 t
  | .trap _ => True
  | .hold => True
  | .stay t => Sound f0 t

theorem nvsProgram_wf {m : Mem} (off : Nat) (bs : List Byte) (h : m.wf = true) : (nvsProgram m off bs).wf = true :=
  Mem.mk_wf h (cellsWrite_wf bs off) (Tab.filter_rises _)

theorem writeSlot_wf {m : Mem} (k : Nat) (bs : List Byte) (h : m.wf = true) : (writeSlot m k bs).wf = true :=
  Mem.heal_wf _ _ (Mem.writeRaw_wf _ _ h)

theorem cutPage_wf {m : Mem} (k page seq : Nat) (d : List Byte) (cut : Nat) (h : m.wf = true) : (cutPage m k page seq d cut).wf = true := by
  have hn : ∀ x : Mem, x.wf = true → ({ x with ecc := Tab.insert x.ecc ((slotOff k + 80) / 8) true } : Mem).wf = true :=
    fun x hx => Mem.mk_wf hx id (Tab.insert_rises _ _)
  unfold cutPage
  dsimp only
  repeat' split
  · exact h
  · exact Mem.heal_wf _ _ (Mem.writeRaw_wf _ _ h)
  · exact Mem.heal_wf _ _ (Mem.writeRaw_wf _ _ (Mem.heal_wf _ _ (Mem.writeRaw_wf _ _ h)))
  · exact hn _ (writeSlot_wf _ _ h)
  · exact writeSlot_wf _ _ h
  · exact nvsProgram_wf _ _ (writeSlot_wf _ _ h)
  · exact hn _ (nvsProgram_wf _ _ (writeSlot_wf _ _ h))
  · exact nvsProgram_wf _ _ (writeSlot_wf _ _ h)

theorem Sound.memOf {f0 : Fuses} {s : State} (h : Sound f0 s) (sp : Nat) : (s.memOf sp).wf = true := by
  obtain ⟨-, -, h1, h2, h3, -⟩ := h
  unfold State.memOf
  split
  · exact h1
  · split
    · exact h2
    · exact h3

theorem sound_foldl_fst {f0 : Fuses} {α β : Type} {f : State × β → α → State × β} {l : List α} {p : State × β} (hp : Sound f0 p.1)
    (hf : ∀ q a, Sound f0 q.1 → Sound f0 (f q a).1) : Sound f0 (l.foldl f p).1 := by
  induction l generalizing p with
  | nil => exact hp
  | cons a r ih => exact ih (hf p a hp)

theorem sound_foldl_snd {f0 : Fuses} {α β : Type} {f : β × State → α → β × State} {l : List α} {p : β × State} (hp : Sound f0 p.2)
    (hf : ∀ q a, Sound f0 q.2 → Sound f0 (f q a).2) : Sound f0 (l.foldl f p).2 := by
  induction l generalizing p with
  | nil => exact hp
  | cons a r ih => exact ih (hf p a hp)

theorem foldl_insert_rises (c : Nat → Bool) (l : List Nat) {t : Tab Bool} (h : Tab.risesFrom none t = true) :
    Tab.risesFrom none (l.foldl (fun t g => if c g then Tab.insert t g true else t) t) = true := by
  induction l generalizing t with
  | nil => exact h
  | cons g r ih =>
    refine ih ?_
    dsimp only
    split
    · exact Tab.insert_rises _ _ h
    · exact h

/-- Dropping a core's buffer keeps soundness. -/
theorem Sound.keepCbuf {f0 : Fuses} {s t : State} (h : Sound f0 s) (p q : Nat → Bool) (hf : t.fus = s.fus)
    (hm : t.mem = { s.mem with cbuf := ⟨Tab.keep s.mem.cbuf.cells p, Tab.keep s.mem.cbuf.ecc q⟩ }) : Sound f0 t := by
  obtain ⟨h1, h2, h3, h4, h5, h6, h7, h8⟩ := h
  unfold Sound
  rw [hf, hm]
  exact ⟨h1, h2, h3, Mem.keep_wf _ _ h4, h5, h6, h7, h8⟩

theorem Res.sound_ok {f0 : Fuses} {t : State} (h : Sound f0 t) : (Res.ok t).sound f0 := h
theorem Res.sound_jump {f0 : Fuses} {t : State} (pc : W64) (h : Sound f0 t) : (Res.jump t pc).sound f0 := h
theorem Res.sound_stay {f0 : Fuses} {t : State} (h : Sound f0 t) : (Res.stay t).sound f0 := h

theorem Res.sound_ite {f0 : Fuses} {c : Prop} [Decidable c] {x y : Res} (hx : x.sound f0) (hy : y.sound f0) : (if c then x else y).sound f0 := by
  split
  · exact hx
  · exact hy

/-- A next state of an outcome is sound. -/
def OutSound (f0 : Fuses) (o : Out) : Prop := ∀ t, o = .next t → Sound f0 t

theorem next_sound {f0 : Fuses} {s : State} (h : Sound f0 s) : OutSound f0 (.next s) := by
  intro t ht
  cases ht
  exact h

end Sys2Proof.Machine
end

