-- ==== Sys2Proof/Laws/SoundA.lean ====
section
/-!
SUPPORT. What every step keeps (`Sound`), operation by operation, callees first (1 of 5).
-/
set_option linter.unusedTactic false
set_option linter.unreachableTactic false
set_option linter.unusedVariables false

namespace Sys2Proof.Machine

theorem State.setReg_sound {f0 : Fuses} {s : State} (a : Nat) (v : W32) (hs : Sound f0 s) : Sound f0 (State.setReg s a v) := by
  unfold State.setReg
  try dsimp only
  repeat' first | with_reducible assumption | with_reducible apply sound_ite | split | with_reducible apply sound_mk | with_reducible refine Sound.parts ?_

theorem State.setFld_sound {f0 : Fuses} {s : State} (a : Nat) (hi : Nat) (lo : Nat) (v : Nat) (hs : Sound f0 s) : Sound f0 (State.setFld s a hi lo v) := by
  unfold State.setFld
  try dsimp only
  repeat' first | with_reducible assumption | with_reducible apply State.setReg_sound | with_reducible apply sound_ite | split | with_reducible apply sound_mk | with_reducible refine Sound.parts ?_

theorem State.orReg_sound {f0 : Fuses} {s : State} (a : Nat) (m : Nat) (hs : Sound f0 s) : Sound f0 (State.orReg s a m) := by
  unfold State.orReg
  try dsimp only
  repeat' first | with_reducible assumption | with_reducible apply State.setReg_sound | with_reducible apply sound_ite | split | with_reducible apply sound_mk | with_reducible refine Sound.parts ?_

theorem State.clrReg_sound {f0 : Fuses} {s : State} (a : Nat) (m : Nat) (hs : Sound f0 s) : Sound f0 (State.clrReg s a m) := by
  unfold State.clrReg
  try dsimp only
  repeat' first | with_reducible assumption | with_reducible apply State.setReg_sound | with_reducible apply sound_ite | split | with_reducible apply sound_mk | with_reducible refine Sound.parts ?_

theorem State.incReg_sound {f0 : Fuses} {s : State} (a : Nat) (n : Nat) (hs : Sound f0 s) : Sound f0 (State.incReg s a n) := by
  unfold State.incReg
  try dsimp only
  repeat' first | with_reducible assumption | with_reducible apply State.setReg_sound | with_reducible apply sound_ite | split | with_reducible apply sound_mk | with_reducible refine Sound.parts ?_

theorem State.incWrap_sound {f0 : Fuses} {s : State} (a : Nat) (n : Nat) (hs : Sound f0 s) : Sound f0 (State.incWrap s a n) := by
  unfold State.incWrap
  try dsimp only
  repeat' first | with_reducible assumption | with_reducible apply State.setReg_sound | with_reducible apply sound_ite | split | with_reducible apply sound_mk | with_reducible refine Sound.parts ?_

theorem State.setReg64_sound {f0 : Fuses} {s : State} (a : Nat) (v : Nat) (hs : Sound f0 s) : Sound f0 (State.setReg64 s a v) := by
  unfold State.setReg64
  try dsimp only
  repeat' first | with_reducible assumption | with_reducible apply State.setReg_sound | with_reducible apply sound_ite | split | with_reducible apply sound_mk | with_reducible refine Sound.parts ?_

theorem State.msix_sound {f0 : Fuses} {s : State} (p : Nat) (v : Nat) (hs : Sound f0 s) : Sound f0 (State.msix s p v) := by
  unfold State.msix
  try dsimp only
  repeat' first | with_reducible assumption | with_reducible apply sound_ite | split | with_reducible apply sound_mk | with_reducible refine Sound.parts ?_

theorem State.setEq_sound {f0 : Fuses} {s : State} (p : Nat) (q : EqSt) (hs : Sound f0 s) : Sound f0 (State.setEq s p q) := by
  unfold State.setEq
  try dsimp only
  repeat' first | with_reducible assumption | with_reducible apply sound_ite | split | with_reducible apply sound_mk | with_reducible refine Sound.parts ?_

theorem State.hostWrite_sound {f0 : Fuses} {s : State} (a : Nat) (bs : List Byte) (hs : Sound f0 s) : Sound f0 (State.hostWrite s a bs) := by
  obtain ⟨h1, h2, h3, h4, h5, h6, h7, h8⟩ := hs
  exact ⟨h1, h2, h3, h4, h5, h6, Mem.writeRaw_wf _ _ h7, h8⟩

theorem State.eqPut_sound {f0 : Fuses} {s : State} (p : Nat) (e : EvRec) (hs : Sound f0 s) : Sound f0 (State.eqPut s p e) := by
  unfold State.eqPut
  try dsimp only
  repeat' first | with_reducible assumption | with_reducible apply State.msix_sound | with_reducible apply State.setEq_sound | with_reducible apply State.hostWrite_sound | with_reducible apply sound_ite | split | with_reducible apply sound_mk | with_reducible refine Sound.parts ?_

theorem State.deliver_sound {f0 : Fuses} {s : State} (p : Nat) (e : EvRec) (hs : Sound f0 s) : Sound f0 (State.deliver s p e) := by
  unfold State.deliver
  try dsimp only
  repeat' first | with_reducible assumption | with_reducible apply State.setEq_sound | with_reducible apply State.eqPut_sound | with_reducible apply sound_ite | split | with_reducible apply sound_mk | with_reducible refine Sound.parts ?_

theorem State.logEvent_sound {f0 : Fuses} {s : State} (e : EvRec) (hs : Sound f0 s) : Sound f0 (State.logEvent s e) := by
  unfold State.logEvent
  try dsimp only
  repeat' first | with_reducible assumption | with_reducible apply sound_ite | split | with_reducible apply sound_mk | with_reducible refine Sound.parts ?_

theorem State.raiseRaw_sound {f0 : Fuses} {s : State} (e : EvRec) (hs : Sound f0 s) : Sound f0 (State.raiseRaw s e) := by
  unfold State.raiseRaw
  try dsimp only
  repeat' first | with_reducible assumption | with_reducible apply State.deliver_sound | with_reducible apply State.logEvent_sound | with_reducible apply sound_ite | split | with_reducible apply sound_mk | with_reducible refine Sound.parts ?_

theorem State.lossRec_sound {f0 : Fuses} {s : State} (p : Nat) (hs : Sound f0 s) : Sound f0 (State.lossRec s p) := by
  unfold State.lossRec
  try dsimp only
  repeat' first | with_reducible assumption | with_reducible apply State.setEq_sound | with_reducible apply State.raiseRaw_sound | with_reducible apply sound_ite | split | with_reducible apply sound_mk | with_reducible refine Sound.parts ?_

theorem State.raiseRec_sound {f0 : Fuses} {s : State} (e : EvRec) (hs : Sound f0 s) : Sound f0 (State.raiseRec s e) := by
  unfold State.raiseRec
  try dsimp only
  repeat' first | with_reducible assumption | with_reducible apply State.raiseRaw_sound | with_reducible apply State.lossRec_sound | with_reducible apply sound_ite | split | with_reducible apply sound_mk | with_reducible refine Sound.parts ?_

theorem State.raise_sound {f0 : Fuses} {s : State} (code : Nat) (sev : Nat) (src : Nat) (pay : Nat) (hs : Sound f0 s) : Sound f0 (State.raise s code sev src pay) := by
  unfold State.raise
  try dsimp only
  repeat' first | with_reducible assumption | with_reducible apply State.raiseRec_sound | with_reducible apply sound_ite | split | with_reducible apply sound_mk | with_reducible refine Sound.parts ?_

theorem State.raiseStream_sound {f0 : Fuses} {s : State} (code : Nat) (sev : Nat) (src : Nat) (stream : Nat) (seq : Nat) (pay : Nat) (hs : Sound f0 s) : Sound f0 (State.raiseStream s code sev src stream seq pay) := by
  unfold State.raiseStream
  try dsimp only
  repeat' first | with_reducible assumption | with_reducible apply State.raiseRec_sound | with_reducible apply sound_ite | split | with_reducible apply sound_mk | with_reducible refine Sound.parts ?_

theorem State.raiseIntake_sound {f0 : Fuses} {s : State} (code : Nat) (sev : Nat) (port : Nat) (stream : Nat) (pay : Nat) (hs : Sound f0 s) : Sound f0 (State.raiseIntake s code sev port stream pay) := by
  unfold State.raiseIntake
  try dsimp only
  repeat' first | with_reducible assumption | with_reducible apply State.raiseRec_sound | with_reducible apply sound_ite | split | with_reducible apply sound_mk | with_reducible refine Sound.parts ?_

theorem State.raiseIf_sound {f0 : Fuses} {s : State} (b : Bool) (code : Nat) (sev : Nat) (src : Nat) (pay : Nat) (hs : Sound f0 s) : Sound f0 (State.raiseIf s b code sev src pay) := by
  unfold State.raiseIf
  try dsimp only
  repeat' first | with_reducible assumption | with_reducible apply State.raise_sound | with_reducible apply sound_ite | split | with_reducible apply sound_mk | with_reducible refine Sound.parts ?_

theorem State.raiseOnce_sound {f0 : Fuses} {s : State} (key : Nat) (code : Nat) (sev : Nat) (src : Nat) (pay : Nat) (hs : Sound f0 s) : Sound f0 (State.raiseOnce s key code sev src pay) := by
  unfold State.raiseOnce
  try dsimp only
  repeat' first | with_reducible assumption | with_reducible apply State.raise_sound | with_reducible apply sound_ite | split | with_reducible apply sound_mk | with_reducible refine Sound.parts ?_

theorem State.rearm_sound {f0 : Fuses} {s : State} (key : Nat) (hs : Sound f0 s) : Sound f0 (State.rearm s key) := by
  unfold State.rearm
  try dsimp only
  repeat' first | with_reducible assumption | with_reducible apply sound_ite | split | with_reducible apply sound_mk | with_reducible refine Sound.parts ?_

theorem State.health_sound {f0 : Fuses} {s : State} (b : Nat) (hs : Sound f0 s) : Sound f0 (State.health s b) := by
  unfold State.health
  try dsimp only
  repeat' first | with_reducible assumption | with_reducible apply State.orReg_sound | with_reducible apply State.raise_sound | with_reducible apply sound_ite | split | with_reducible apply sound_mk | with_reducible refine Sound.parts ?_

theorem State.raiseOnceHealth_sound {f0 : Fuses} {s : State} (key : Nat) (code : Nat) (sev : Nat) (src : Nat) (pay : Nat) (b : Nat) (hs : Sound f0 s) : Sound f0 (State.raiseOnceHealth s key code sev src pay b) := by
  unfold State.raiseOnceHealth
  try dsimp only
  repeat' first | with_reducible assumption | with_reducible apply State.raiseOnce_sound | with_reducible apply State.health_sound | with_reducible apply sound_ite | split | with_reducible apply sound_mk | with_reducible refine Sound.parts ?_

theorem State.hstErr_sound {f0 : Fuses} {s : State} (p : Nat) (b : Nat) (hs : Sound f0 s) : Sound f0 (State.hstErr s p b) := by
  unfold State.hstErr
  try dsimp only
  repeat' first | with_reducible assumption | with_reducible apply State.orReg_sound | with_reducible apply State.incReg_sound | with_reducible apply sound_ite | split | with_reducible apply sound_mk | with_reducible refine Sound.parts ?_

theorem State.hstRefuse_sound {f0 : Fuses} {s : State} (p : Nat) (b : Nat) (off : Nat) (hs : Sound f0 s) : Sound f0 (State.hstRefuse s p b off) := by
  unfold State.hstRefuse
  try dsimp only
  repeat' first | with_reducible assumption | with_reducible apply State.raise_sound | with_reducible apply State.hstErr_sound | with_reducible apply sound_ite | split | with_reducible apply sound_mk | with_reducible refine Sound.parts ?_

theorem State.wdrop_sound {f0 : Fuses} {s : State} (hs : Sound f0 s) : Sound f0 (State.wdrop s) := by
  unfold State.wdrop
  try dsimp only
  repeat' first | with_reducible assumption | with_reducible apply State.incReg_sound | with_reducible apply State.raise_sound | with_reducible apply sound_ite | split | with_reducible apply sound_mk | with_reducible refine Sound.parts ?_

theorem State.access_sound {f0 : Fuses} {s : State} (who : Who) (a : Nat) (f : State → State) (hs : Sound f0 s) (hf : ∀ t, Sound f0 t → Sound f0 (f t)) : Sound f0 (State.access s who a f) := by
  unfold State.access
  try dsimp only
  repeat' first | with_reducible assumption | with_reducible apply hf | with_reducible apply State.hstRefuse_sound | with_reducible apply State.wdrop_sound | with_reducible apply sound_ite | split | with_reducible apply sound_mk | with_reducible refine Sound.parts ?_

theorem State.setReq_sound {f0 : Fuses} {s : State} (who : Who) (r : ReqSt) (hs : Sound f0 s) : Sound f0 (State.setReq s who r) := by
  unfold State.setReq
  try dsimp only
  repeat' first | with_reducible assumption | with_reducible apply sound_ite | split | with_reducible apply sound_mk | with_reducible refine Sound.parts ?_

theorem State.holdLower_sound {f0 : Fuses} {s : State} (who : Who) (a : Nat) (v : W32) (hs : Sound f0 s) : Sound f0 (State.holdLower s who a v) := by
  unfold State.holdLower
  try dsimp only
  repeat' first | with_reducible assumption | with_reducible apply State.setReq_sound | with_reducible apply sound_ite | split | with_reducible apply sound_mk | with_reducible refine Sound.parts ?_

theorem State.dropHeld_sound {f0 : Fuses} {s : State} (who : Who) (lo : Nat) (hs : Sound f0 s) : Sound f0 (State.dropHeld s who lo) := by
  unfold State.dropHeld
  try dsimp only
  repeat' first | with_reducible assumption | with_reducible apply State.setReq_sound | with_reducible apply sound_ite | split | with_reducible apply sound_mk | with_reducible refine Sound.parts ?_

theorem State.endHeld_sound {f0 : Fuses} {s : State} (who : Who) (a : Nat) (hs : Sound f0 s) : Sound f0 (State.endHeld s who a) := by
  unfold State.endHeld
  try dsimp only
  repeat' first | with_reducible assumption | with_reducible apply State.dropHeld_sound | with_reducible apply sound_ite | split | with_reducible apply sound_mk | with_reducible refine Sound.parts ?_

theorem State.spendHeld_sound {f0 : Fuses} {s : State} (who : Who) (hs : Sound f0 s) : Sound f0 (State.spendHeld s who) := by
  unfold State.spendHeld
  try dsimp only
  repeat' first | with_reducible assumption | with_reducible apply State.setReq_sound | with_reducible apply sound_ite | split | with_reducible apply sound_mk | with_reducible refine Sound.parts ?_

theorem State.putMasked_sound {f0 : Fuses} {s : State} (a : Nat) (v : W32) (hs : Sound f0 s) : Sound f0 (State.putMasked s a v) := by
  unfold State.putMasked
  try dsimp only
  repeat' first | with_reducible assumption | with_reducible apply State.setReg_sound | with_reducible apply sound_ite | split | with_reducible apply sound_mk | with_reducible refine Sound.parts ?_

theorem State.writeWord_sound {f0 : Fuses} {s : State} (who : Who) (a : Nat) (v : W32) (hs : Sound f0 s) : Sound f0 (State.writeWord s who a v) := by
  unfold State.writeWord
  try dsimp only
  repeat' first | with_reducible assumption | with_reducible apply State.holdLower_sound | with_reducible apply State.dropHeld_sound | with_reducible apply State.putMasked_sound | with_reducible apply sound_ite | split | with_reducible apply sound_mk | with_reducible refine Sound.parts ?_

theorem State.setDom_sound {f0 : Fuses} {s : State} (d : Nat) (x : DomSt) (hs : Sound f0 s) : Sound f0 (State.setDom s d x) := by
  unfold State.setDom
  try dsimp only
  repeat' first | with_reducible assumption | with_reducible apply sound_ite | split | with_reducible apply sound_mk | with_reducible refine Sound.parts ?_

theorem State.when_sound {f0 : Fuses} {s : State} (b : Bool) {t : State} (hs : Sound f0 s) (ht : Sound f0 t) : Sound f0 (State.when s b t) := by
  unfold State.when
  try dsimp only
  repeat' first | with_reducible assumption | with_reducible apply sound_ite | split | with_reducible apply sound_mk | with_reducible refine Sound.parts ?_

theorem State.setMem_sound {f0 : Fuses} {s : State} (sp : Nat) (m : Mem) (hs : Sound f0 s) (hm : m.wf = true) : Sound f0 (State.setMem s sp m) := by
  unfold State.setMem
  obtain ⟨h1, h2, h3, h4, h5, h6, h7, h8⟩ := hs
  refine ⟨h1, h2, ?_⟩
  dsimp only
  split
  · exact ⟨hm, h4, h5, h6, h7, h8⟩
  · split
    · exact ⟨h3, hm, h5, h6, h7, h8⟩
    · exact ⟨h3, h4, hm, h6, h7, h8⟩

theorem State.eccCount_sound {f0 : Fuses} {s : State} (n : Nat) (hs : Sound f0 s) : Sound f0 (State.eccCount s n) := by
  unfold State.eccCount
  try dsimp only
  repeat' first | with_reducible assumption | with_reducible apply State.incReg_sound | with_reducible apply State.raiseOnceHealth_sound | with_reducible apply sound_ite | split | with_reducible apply sound_mk | with_reducible refine Sound.parts ?_

theorem State.eccUnc_sound {f0 : Fuses} {s : State} (sp : Nat) (g : Nat) (port : Nat) (kind : Nat) (hs : Sound f0 s) : Sound f0 (State.eccUnc s sp g port kind) := by
  unfold State.eccUnc
  try dsimp only
  repeat' first | with_reducible assumption | with_reducible apply State.orReg_sound | with_reducible apply State.setReg64_sound | with_reducible apply State.raise_sound | with_reducible apply sound_ite | split | with_reducible apply sound_mk | with_reducible refine Sound.parts ?_

theorem State.correct_sound {f0 : Fuses} {s : State} (sp : Nat) (hit : Nat × Bool → Bool) (hs : Sound f0 s) : Sound f0 (State.correct s sp hit) := by
  unfold State.correct
  exact State.eccCount_sound _ (State.setMem_sound _ _ hs (Mem.eccFilter_wf _ (hs.memOf sp)))

theorem State.readFx_sound {f0 : Fuses} {s : State} (sp : Nat) (a : Nat) (n : Nat) (port : Nat) (kind : Nat) (hs : Sound f0 s) : Sound f0 (State.readFx s sp a n port kind) := by
  unfold State.readFx
  exact sound_foldl (State.correct_sound _ _ hs) (fun t a ht => State.eccUnc_sound _ _ _ _ ht)

theorem State.writeFx_sound {f0 : Fuses} {s0 : State} (sp : Nat) (a : Nat) (bs : List Byte) (port : Nat) (hs0 : Sound f0 s0) : Sound f0 (State.writeFx s0 sp a bs port) := by
  have hs : Sound f0 (s0.correct sp (fun e => partOf a bs.length e.1)) := State.correct_sound _ _ hs0
  unfold State.writeFx
  exact sound_foldl (State.setMem_sound _ _ hs (Mem.writeSkip_wf _ _ _ _ (hs.memOf sp))) (fun t a ht => State.eccUnc_sound _ _ _ _ ht)

theorem State.tankPut_sound {f0 : Fuses} {s : State} (a : Nat) (bs : List Byte) (port : Nat) (hs : Sound f0 s) : Sound f0 (State.tankPut s a bs port) := by
  unfold State.tankPut
  try dsimp only
  repeat' first | with_reducible assumption | with_reducible apply State.writeFx_sound | with_reducible apply sound_ite | split | with_reducible apply sound_mk | with_reducible refine Sound.parts ?_

theorem State.setStrm_sound {f0 : Fuses} {s : State} (st : Nat) (x : Strm) (hs : Sound f0 s) : Sound f0 (State.setStrm s st x) := by
  unfold State.setStrm
  try dsimp only
  repeat' first | with_reducible assumption | with_reducible apply sound_ite | split | with_reducible apply sound_mk | with_reducible refine Sound.parts ?_

theorem State.setPort_sound {f0 : Fuses} {s : State} (p : Nat) (x : LinkPort) (hs : Sound f0 s) : Sound f0 (State.setPort s p x) := by
  unfold State.setPort
  try dsimp only
  repeat' first | with_reducible assumption | with_reducible apply sound_ite | split | with_reducible apply sound_mk | with_reducible refine Sound.parts ?_

theorem State.emit_sound {f0 : Fuses} {s : State} (p : Nat) (w : Wire) (hs : Sound f0 s) : Sound f0 (State.emit s p w) := by
  unfold State.emit
  try dsimp only
  repeat' first | with_reducible assumption | with_reducible apply sound_ite | split | with_reducible apply sound_mk | with_reducible refine Sound.parts ?_

theorem State.portSend_sound {f0 : Fuses} {s : State} (p : Nat) (w : Wire) (hs : Sound f0 s) : Sound f0 (State.portSend s p w) := by
  unfold State.portSend
  try dsimp only
  repeat' first | with_reducible assumption | with_reducible apply State.setPort_sound | with_reducible apply State.emit_sound | with_reducible apply sound_ite | split | with_reducible apply sound_mk | with_reducible refine Sound.parts ?_

theorem State.portTake_sound {f0 : Fuses} {s : State} (p : Nat) (n : Nat) (hs : Sound f0 s) : Sound f0 (State.portTake s p n) := by
  unfold State.portTake
  try dsimp only
  repeat' first | with_reducible assumption | with_reducible apply State.setPort_sound | with_reducible apply State.emit_sound | with_reducible apply sound_ite | split | with_reducible apply sound_mk | with_reducible refine Sound.parts ?_

theorem State.onFrames_sound {f0 : Fuses} {s : State} (p : Nat) (n : Nat) (ok : Bool) (f : State → State) (hs : Sound f0 s) (hf : ∀ t, Sound f0 t → Sound f0 (f t)) : Sound f0 (State.onFrames s p n ok f) := by
  unfold State.onFrames
  try dsimp only
  repeat' first | with_reducible assumption | with_reducible apply hf | with_reducible apply State.when_sound | with_reducible apply State.portTake_sound | with_reducible apply sound_ite | split | with_reducible apply sound_mk | with_reducible refine Sound.parts ?_

theorem State.toPeer_sound {f0 : Fuses} {s : State} (m : PairMsg) (hs : Sound f0 s) : Sound f0 (State.toPeer s m) := by
  unfold State.toPeer
  try dsimp only
  repeat' first | with_reducible assumption | with_reducible apply State.portSend_sound | with_reducible apply sound_ite | split | with_reducible apply sound_mk | with_reducible refine Sound.parts ?_

theorem State.mirrorSend_sound {f0 : Fuses} {s : State} (b : MirrorBody) (hs : Sound f0 s) : Sound f0 (State.mirrorSend s b) := by
  unfold State.mirrorSend
  try dsimp only
  repeat' first | with_reducible assumption | with_reducible apply State.toPeer_sound | with_reducible apply sound_ite | split | with_reducible apply sound_mk | with_reducible refine Sound.parts ?_

theorem State.mirrorConfig_sound {f0 : Fuses} {s : State} (st : Nat) (hs : Sound f0 s) : Sound f0 (State.mirrorConfig s st) := by
  unfold State.mirrorConfig
  try dsimp only
  repeat' first | with_reducible assumption | with_reducible apply State.mirrorSend_sound | with_reducible apply sound_ite | split | with_reducible apply sound_mk | with_reducible refine Sound.parts ?_

theorem State.streamVec_sound {f0 : Fuses} {s : State} (st : Nat) (hs : Sound f0 s) : Sound f0 (State.streamVec s st) := by
  unfold State.streamVec
  try dsimp only
  repeat' first | with_reducible assumption | with_reducible apply State.msix_sound | with_reducible apply sound_ite | with_reducible apply sound_foldl_fst | with_reducible apply sound_foldl | intro _ _ _ | intro _ _ | split | with_reducible apply sound_mk | with_reducible refine Sound.parts ?_

theorem writeOut_sound {f0 : Fuses} (st : Nat) (x1 : List OutRec) {x2 : State} (hx2 : Sound f0 x2) : Sound f0 (writeOut st x1 x2) := by
  induction x1 generalizing x2 with
  | nil => unfold writeOut; (try dsimp only); repeat' first | with_reducible assumption | with_reducible apply State.tankPut_sound | with_reducible apply State.setStrm_sound | with_reducible apply State.streamVec_sound | with_reducible apply sound_ite | split | with_reducible apply sound_mk | with_reducible refine Sound.parts ?_
  | cons _ _ ih => unfold writeOut; (try dsimp only); repeat' first | with_reducible assumption | with_reducible apply ih | with_reducible apply State.tankPut_sound | with_reducible apply State.setStrm_sound | with_reducible apply State.streamVec_sound | with_reducible apply sound_ite | split | with_reducible apply sound_mk | with_reducible refine Sound.parts ?_

theorem flushSeqs_sound {f0 : Fuses} (st : Nat) (x1 : List SeqSt) {x2 : State} (hx2 : Sound f0 x2) : Sound f0 (flushSeqs st x1 x2) := by
  induction x1 generalizing x2 with
  | nil => exact State.setStrm_sound _ _ hx2
  | cons r _ ih =>
    unfold flushSeqs
    split
    · exact State.setStrm_sound _ _ hx2
    · have h := State.mirrorSend_sound (.resolution (strmId st) r.seq (‹List Byte› ++ x2.bytes 0 (x2.outEntry st r.seq + 32) ‹Nat›)) (sound_ite (c := x2.mirroring = true) (State.readFx_sound 0 (x2.outEntry st r.seq + 32) ‹Nat› pairPort 0 hx2) hx2)
      exact ih (sound_ite (State.incReg_sound _ _ (State.setStrm_sound _ _ h)) (State.incWrap_sound _ _ (State.setStrm_sound _ _ h)))

theorem State.flush_sound {f0 : Fuses} {s : State} (st : Nat) (hs : Sound f0 s) : Sound f0 (State.flush s st) := by
  unfold State.flush
  try dsimp only
  repeat' first | with_reducible assumption | with_reducible apply writeOut_sound | with_reducible apply flushSeqs_sound | with_reducible apply sound_ite | split | with_reducible apply sound_mk | with_reducible refine Sound.parts ?_

theorem State.mapSeq_sound {f0 : Fuses} {s : State} (st : Nat) (n : W32) (f : SeqSt → SeqSt) (hs : Sound f0 s) : Sound f0 (State.mapSeq s st n f) := by
  unfold State.mapSeq
  try dsimp only
  repeat' first | with_reducible assumption | with_reducible apply State.setStrm_sound | with_reducible apply sound_ite | intro _ _ | split | with_reducible apply sound_mk | with_reducible refine Sound.parts ?_

theorem State.markPoison_sound {f0 : Fuses} {s : State} (st : Nat) (n : W32) (hs : Sound f0 s) : Sound f0 (State.markPoison s st n) := by
  unfold State.markPoison
  try dsimp only
  repeat' first | with_reducible assumption | with_reducible apply State.flush_sound | with_reducible apply State.mapSeq_sound | with_reducible apply sound_ite | intro _ _ | split | with_reducible apply sound_mk | with_reducible refine Sound.parts ?_

theorem State.closeNum_sound {f0 : Fuses} {s : State} (st : Nat) (n : W32) (cause : Nat) (hs : Sound f0 s) : Sound f0 (State.closeNum s st n cause) := by
  unfold State.closeNum
  try dsimp only
  repeat' first | with_reducible assumption | with_reducible apply State.flush_sound | with_reducible apply State.mapSeq_sound | with_reducible apply sound_ite | split | with_reducible apply sound_mk | with_reducible refine Sound.parts ?_

theorem State.setLock_sound {f0 : Fuses} {s : State} (st : Nat) (x : LockStrm) (hs : Sound f0 s) : Sound f0 (State.setLock s st x) := by
  unfold State.setLock
  try dsimp only
  repeat' first | with_reducible assumption | with_reducible apply sound_ite | split | with_reducible apply sound_mk | with_reducible refine Sound.parts ?_

theorem keyDiffers_sound {f0 : Fuses} (st : Nat) (n : W32) {s : State} (hs : Sound f0 s) : Sound f0 (keyDiffers st n s) := by
  unfold keyDiffers
  try dsimp only
  repeat' first | with_reducible assumption | with_reducible apply State.raiseStream_sound | with_reducible apply State.markPoison_sound | with_reducible apply sound_ite | split | with_reducible apply sound_mk | with_reducible refine Sound.parts ?_

theorem realign_sound {f0 : Fuses} (st : Nat) (n : W32) (m : W32) {s : State} (hs : Sound f0 s) : Sound f0 (realign st n m s) := by
  unfold realign
  try dsimp only
  repeat' first | with_reducible assumption | with_reducible apply State.setReg_sound | with_reducible apply State.incReg_sound | with_reducible apply State.raiseStream_sound | with_reducible apply State.setStrm_sound | with_reducible apply State.toPeer_sound | with_reducible apply State.flush_sound | with_reducible apply State.setLock_sound | with_reducible apply sound_ite | with_reducible apply sound_foldl_fst | with_reducible apply sound_foldl | intro _ _ _ | intro _ _ | split | with_reducible apply sound_mk | with_reducible refine Sound.parts ?_

theorem lockArrive_sound {f0 : Fuses} (st : Nat) (n : W32) {s0 : State} (hs0 : Sound f0 s0) : Sound f0 (lockArrive st n s0) := by
  unfold lockArrive
  try dsimp only
  repeat' first | with_reducible assumption | with_reducible apply State.readFx_sound | with_reducible apply State.toPeer_sound | with_reducible apply State.setLock_sound | with_reducible apply keyDiffers_sound | with_reducible apply realign_sound | with_reducible apply sound_ite | intro _ _ | split | with_reducible apply sound_mk | with_reducible refine Sound.parts ?_

theorem peerKey_sound {f0 : Fuses} (st : Nat) (seq : W32) (key : W64) {s : State} (hs : Sound f0 s) : Sound f0 (peerKey st seq key s) := by
  unfold peerKey
  try dsimp only
  repeat' first | with_reducible assumption | with_reducible apply State.setLock_sound | with_reducible apply keyDiffers_sound | with_reducible apply realign_sound | with_reducible apply sound_ite | intro _ _ | split | with_reducible apply sound_mk | with_reducible refine Sound.parts ?_

theorem State.arrive_sound {f0 : Fuses} {s : State} (st : Nat) (hs : Sound f0 s) : Sound f0 (State.arrive s st) := by
  unfold State.arrive
  try dsimp only
  repeat' first | with_reducible assumption | with_reducible apply State.setReg_sound | with_reducible apply State.setStrm_sound | with_reducible apply State.mirrorSend_sound | with_reducible apply lockArrive_sound | with_reducible apply sound_ite | split | with_reducible apply sound_mk | with_reducible refine Sound.parts ?_

theorem deadlineClose_sound {f0 : Fuses} (st : Nat) {s : State} (hs : Sound f0 s) : Sound f0 (deadlineClose st s) := by
  unfold deadlineClose
  try dsimp only
  repeat' first | with_reducible assumption | with_reducible apply State.closeNum_sound | with_reducible apply sound_ite | intro _ _ | split | with_reducible apply sound_mk | with_reducible refine Sound.parts ?_

theorem unbind_sound {f0 : Fuses} (st : Nat) {s : State} (hs : Sound f0 s) : Sound f0 (unbind st s) := by
  unfold unbind
  try dsimp only
  repeat' first | with_reducible assumption | with_reducible apply State.setReg_sound | with_reducible apply State.raise_sound | with_reducible apply State.setStrm_sound | with_reducible apply State.mirrorConfig_sound | with_reducible apply State.flush_sound | with_reducible apply sound_ite | intro _ _ | split | with_reducible apply sound_mk | with_reducible refine Sound.parts ?_

theorem State.setCtx_sound {f0 : Fuses} {s : State} (i : Nat) (c : Ctx) (hs : Sound f0 s) : Sound f0 (State.setCtx s i c) := by
  unfold State.setCtx
  try dsimp only
  repeat' first | with_reducible assumption | with_reducible apply sound_ite | split | with_reducible apply sound_mk | with_reducible refine Sound.parts ?_

theorem State.onCtx_sound {f0 : Fuses} {s : State} (i : Nat) (f : Ctx → Ctx) (hs : Sound f0 s) : Sound f0 (State.onCtx s i f) := by
  unfold State.onCtx
  try dsimp only
  repeat' first | with_reducible assumption | with_reducible apply State.setCtx_sound | with_reducible apply sound_ite | split | with_reducible apply sound_mk | with_reducible refine Sound.parts ?_

theorem State.addSync_sound {f0 : Fuses} {s : State} (i : Nat) (v : W32) (hs : Sound f0 s) : Sound f0 (State.addSync s i v) := by
  unfold State.addSync
  try dsimp only
  repeat' first | with_reducible assumption | with_reducible apply sound_ite | split | with_reducible apply sound_mk | with_reducible refine Sound.parts ?_

theorem fireSigs_sound {f0 : Fuses} (i : Nat) (x1 : List PSig) {x2 : State} (hx2 : Sound f0 x2) : Sound f0 (fireSigs i x1 x2) := by
  induction x1 generalizing x2 with
  | nil => unfold fireSigs; (try dsimp only); repeat' first | with_reducible assumption | with_reducible apply State.addSync_sound | with_reducible apply sound_ite | split | with_reducible apply sound_mk | with_reducible refine Sound.parts ?_
  | cons _ _ ih => unfold fireSigs; (try dsimp only); repeat' first | with_reducible assumption | with_reducible apply ih | with_reducible apply State.addSync_sound | with_reducible apply sound_ite | split | with_reducible apply sound_mk | with_reducible refine Sound.parts ?_

theorem State.endWork_sound {f0 : Fuses} {s : State} (i : Nat) (id : Nat) (hs : Sound f0 s) : Sound f0 (State.endWork s i id) := by
  unfold State.endWork
  try dsimp only
  repeat' first | with_reducible assumption | with_reducible apply State.setCtx_sound | with_reducible apply fireSigs_sound | with_reducible apply sound_ite | intro _ _ | split | with_reducible apply sound_mk | with_reducible refine Sound.parts ?_

theorem State.sigNow_sound {f0 : Fuses} {s : State} (i : Nat) (ctr : Nat) (v : W32) (hs : Sound f0 s) : Sound f0 (State.sigNow s i ctr v) := by
  unfold State.sigNow
  try dsimp only
  repeat' first | with_reducible assumption | with_reducible apply State.setCtx_sound | with_reducible apply State.addSync_sound | with_reducible apply sound_ite | split | with_reducible apply sound_mk | with_reducible refine Sound.parts ?_

theorem State.poison_sound {f0 : Fuses} {s : State} (i : Nat) (hs : Sound f0 s) : Sound f0 (State.poison s i) := by
  unfold State.poison
  try dsimp only
  repeat' first | with_reducible assumption | with_reducible apply State.markPoison_sound | with_reducible apply State.onCtx_sound | with_reducible apply sound_ite | intro _ _ | split | with_reducible apply sound_mk | with_reducible refine Sound.parts ?_

theorem State.poisonIf_sound {f0 : Fuses} {s : State} (i : Nat) (b : Bool) (hs : Sound f0 s) : Sound f0 (State.poisonIf s i b) := by
  unfold State.poisonIf
  try dsimp only
  repeat' first | with_reducible assumption | with_reducible apply State.poison_sound | with_reducible apply sound_ite | split | with_reducible apply sound_mk | with_reducible refine Sound.parts ?_

theorem State.trap_sound {f0 : Fuses} {s : State} (i : Nat) (cause : Nat) (hs : Sound f0 s) : Sound f0 (State.trap s i cause) := by
  unfold State.trap
  try dsimp only
  repeat' first | with_reducible assumption | with_reducible apply State.raise_sound | with_reducible apply State.setCtx_sound | with_reducible apply sound_ite | split | with_reducible apply sound_mk | with_reducible refine Sound.parts ?_

theorem State.fetchFx_sound {f0 : Fuses} {s : State} (i : Nat) (hs : Sound f0 s) : Sound f0 (State.fetchFx s i) := by
  unfold State.fetchFx
  try dsimp only
  repeat' first | with_reducible assumption | with_reducible apply State.readFx_sound | with_reducible apply sound_ite | intro _ _ | split | with_reducible apply sound_mk | with_reducible refine Sound.parts ?_

theorem State.advance_sound {f0 : Fuses} {s : State} (i : Nat) (hs : Sound f0 s) : Sound f0 (State.advance s i) := by
  unfold State.advance
  try dsimp only
  repeat' first | with_reducible assumption | with_reducible apply State.onCtx_sound | with_reducible apply sound_ite | intro _ _ | split | with_reducible apply sound_mk | with_reducible refine Sound.parts ?_

theorem settle_sound {f0 : Fuses} (i : Nat) {s : State} (x2 : Res) (hs : Sound f0 s) (hx2 : x2.sound f0) : Sound f0 (settle i s x2) := by
  cases x2 with
  | ok t => exact State.advance_sound _ hx2
  | jump t pc => exact State.onCtx_sound _ _ hx2
  | trap c => exact State.trap_sound _ _ hs
  | hold => exact hs
  | stay t => exact hx2

theorem issueAt_sound {f0 : Fuses} (i : Nat) (w : BitVec 56) (legal : Bool) (needs : List LoadDst) (body : State → Res) (badFetch : Bool) {s : State} (hbody : ∀ t, Sound f0 t → (body t).sound f0) (hs : Sound f0 s) : Sound f0 (issueAt i w legal needs body badFetch s) := by
  unfold issueAt
  try dsimp only
  repeat' first | with_reducible assumption | with_reducible apply hbody | with_reducible apply State.trap_sound | with_reducible apply State.advance_sound | with_reducible apply settle_sound | with_reducible apply sound_ite | intro _ _ | split | with_reducible apply sound_mk | with_reducible refine Sound.parts ?_

theorem State.setArr_sound {f0 : Fuses} {s : State} (a : Nat) (x : Arr) (hs : Sound f0 s) : Sound f0 (State.setArr s a x) := by
  unfold State.setArr
  try dsimp only
  repeat' first | with_reducible assumption | with_reducible apply sound_ite | split | with_reducible apply sound_mk | with_reducible refine Sound.parts ?_

theorem State.setCore_sound {f0 : Fuses} {s : State} (c : Nat) (x : CoreSt) (hs : Sound f0 s) : Sound f0 (State.setCore s c x) := by
  unfold State.setCore
  try dsimp only
  repeat' first | with_reducible assumption | with_reducible apply sound_ite | split | with_reducible apply sound_mk | with_reducible refine Sound.parts ?_

theorem State.accErr_sound {f0 : Fuses} {s : State} (i : Nat) (b : Nat) (hs : Sound f0 s) : Sound f0 (State.accErr s i b) := by
  unfold State.accErr
  try dsimp only
  repeat' first | with_reducible assumption | with_reducible apply State.setFld_sound | with_reducible apply State.orReg_sound | with_reducible apply sound_ite | split | with_reducible apply sound_mk | with_reducible refine Sound.parts ?_

theorem State.incomplete_sound {f0 : Fuses} {s : State} (i : Nat) (t : Tile) (count : Nat) (slot : Nat) (hs : Sound f0 s) : Sound f0 (State.incomplete s i t count slot) := by
  unfold State.incomplete
  try dsimp only
  repeat' first | with_reducible assumption | with_reducible apply State.raise_sound | with_reducible apply State.accErr_sound | with_reducible apply sound_ite | split | with_reducible apply sound_mk | with_reducible refine Sound.parts ?_

theorem State.residue_sound {f0 : Fuses} {s : State} (a : Nat) (unit : Nat) (hs : Sound f0 s) : Sound f0 (State.residue s a unit) := by
  unfold State.residue
  try dsimp only
  repeat' first | with_reducible assumption | with_reducible apply State.incReg_sound | with_reducible apply State.raise_sound | with_reducible apply sound_ite | split | with_reducible apply sound_mk | with_reducible refine Sound.parts ?_

theorem State.residues_sound {f0 : Fuses} {s : State} (core : Nat) (unit : Nat) (n : Nat) (hs : Sound f0 s) : Sound f0 (State.residues s core unit n) := by
  unfold State.residues
  try dsimp only
  repeat' first | with_reducible assumption | with_reducible apply State.residue_sound | with_reducible apply sound_ite | with_reducible apply sound_foldl_fst | with_reducible apply sound_foldl | intro _ _ _ | intro _ _ | split | with_reducible apply sound_mk | with_reducible refine Sound.parts ?_

theorem State.slotRead_sound {f0 : Fuses} {s : State} (i : Nat) (t : Tile) (n : Nat) (hs : Sound f0 s) : Sound f0 (State.slotRead s i t n).1 := by
  unfold State.slotRead
  try dsimp only
  repeat' first | with_reducible assumption | with_reducible apply State.incReg_sound | with_reducible apply State.raise_sound | with_reducible apply State.raiseOnceHealth_sound | with_reducible apply State.accErr_sound | with_reducible apply sound_ite | split | with_reducible apply sound_mk | with_reducible refine Sound.parts ?_

theorem slotAdd_sound {f0 : Fuses} (i : Nat) (n : Nat) (flags : Nat) (fx : Int) (a : Pair) (b : Pair) {s : State} (t : Tile) (hs : Sound f0 s) : Sound f0 (slotAdd i n flags fx a b s t).1 := by
  unfold slotAdd
  try dsimp only
  repeat' first | with_reducible assumption | with_reducible apply State.incomplete_sound | with_reducible apply State.slotRead_sound | with_reducible apply sound_ite | refine sound_pair (by assumption) ?_ | split | with_reducible apply sound_mk | with_reducible refine Sound.parts ?_

theorem State.dropParts_sound {f0 : Fuses} {s : State} (c : Nat) (p : Part → Bool) (hs : Sound f0 s) : Sound f0 (State.dropParts s c p) := by
  unfold State.dropParts
  try dsimp only
  repeat' first | with_reducible assumption | with_reducible apply State.setArr_sound | with_reducible apply State.setCore_sound | with_reducible apply sound_ite | with_reducible apply sound_foldl_fst | with_reducible apply sound_foldl | intro _ _ _ | intro _ _ | split | with_reducible apply sound_mk | with_reducible refine Sound.parts ?_

theorem State.freeWhere_sound {f0 : Fuses} {s : State} (i : Nat) (out : Tile → Bool) (hs : Sound f0 s) : Sound f0 (State.freeWhere s i out) := by
  unfold State.freeWhere
  try dsimp only
  repeat' first | with_reducible assumption | with_reducible apply State.onCtx_sound | with_reducible apply State.dropParts_sound | with_reducible apply sound_ite | intro _ _ | split | with_reducible apply sound_mk | with_reducible refine Sound.parts ?_

theorem State.freeTiles_sound {f0 : Fuses} {s : State} (i : Nat) (hs : Sound f0 s) : Sound f0 (State.freeTiles s i) := by
  unfold State.freeTiles
  try dsimp only
  repeat' first | with_reducible assumption | with_reducible apply State.freeWhere_sound | with_reducible apply sound_ite | intro _ _ | split | with_reducible apply sound_mk | with_reducible refine Sound.parts ?_

theorem State.startFree_sound {f0 : Fuses} {s : State} (i : Nat) (hs : Sound f0 s) : Sound f0 (State.startFree s i) := by
  unfold State.startFree
  try dsimp only
  repeat' first | with_reducible assumption | with_reducible apply State.endWork_sound | with_reducible apply State.freeWhere_sound | with_reducible apply sound_ite | with_reducible apply sound_foldl_fst | with_reducible apply sound_foldl | intro _ _ _ | intro _ _ | split | with_reducible apply sound_mk | with_reducible refine Sound.parts ?_

theorem State.freeTile_sound {f0 : Fuses} {s : State} (i : Nat) (gen : Nat) (hs : Sound f0 s) : Sound f0 (State.freeTile s i gen) := by
  unfold State.freeTile
  try dsimp only
  repeat' first | with_reducible assumption | with_reducible apply State.onCtx_sound | with_reducible apply State.dropParts_sound | with_reducible apply sound_ite | intro _ _ | split | with_reducible apply sound_mk | with_reducible refine Sound.parts ?_

theorem slotRecords_sound {f0 : Fuses} (i : Nat) (t : Tile) (x2 : List Nat) {x3 : State} (hx3 : Sound f0 x3) : Sound f0 (slotRecords i t x2 x3).1 := by
  induction x2 generalizing x3 with
  | nil => unfold slotRecords; (try dsimp only); repeat' first | with_reducible assumption | with_reducible apply State.slotRead_sound | with_reducible apply sound_ite | refine sound_pair (by assumption) ?_ | split | with_reducible apply sound_mk | with_reducible refine Sound.parts ?_
  | cons _ _ ih => unfold slotRecords; (try dsimp only); repeat' first | with_reducible assumption | with_reducible apply ih | with_reducible apply State.slotRead_sound | with_reducible apply sound_ite | refine sound_pair (by assumption) ?_ | split | with_reducible apply sound_mk | with_reducible refine Sound.parts ?_

theorem tileRecords_sound {f0 : Fuses} (i : Nat) (t : Tile) {s : State} (hs : Sound f0 s) : Sound f0 (tileRecords i t s).1 := by
  unfold tileRecords
  try dsimp only
  repeat' first | with_reducible assumption | with_reducible apply slotRecords_sound | with_reducible apply sound_ite | refine sound_pair (by assumption) ?_ | split | with_reducible apply sound_mk | with_reducible refine Sound.parts ?_

theorem tilesRecords_sound {f0 : Fuses} (i : Nat) (x1 : List Tile) {x2 : State} (hx2 : Sound f0 x2) : Sound f0 (tilesRecords i x1 x2).1 := by
  induction x1 generalizing x2 with
  | nil => unfold tilesRecords; (try dsimp only); repeat' first | with_reducible assumption | with_reducible apply tileRecords_sound | with_reducible apply sound_ite | refine sound_pair (by assumption) ?_ | split | with_reducible apply sound_mk | with_reducible refine Sound.parts ?_
  | cons _ _ ih => unfold tilesRecords; (try dsimp only); repeat' first | with_reducible assumption | with_reducible apply ih | with_reducible apply tileRecords_sound | with_reducible apply sound_ite | refine sound_pair (by assumption) ?_ | split | with_reducible apply sound_mk | with_reducible refine Sound.parts ?_

theorem rememberTiles_sound {f0 : Fuses} (x0 : List Tile) (x1 : Nat) {x2 : State} (hx2 : Sound f0 x2) : Sound f0 (rememberTiles x0 x1 x2) := by
  induction x0 generalizing x1 x2 with
  | nil => unfold rememberTiles; (try dsimp only); repeat' first | with_reducible assumption | with_reducible apply sound_ite | split | with_reducible apply sound_mk | with_reducible refine Sound.parts ?_
  | cons _ _ ih => unfold rememberTiles; (try dsimp only); repeat' first | with_reducible assumption | with_reducible apply ih | with_reducible apply sound_ite | split | with_reducible apply sound_mk | with_reducible refine Sound.parts ?_

theorem recallTiles_sound {f0 : Fuses} (x0 : List Tile) (x1 : Nat) (x2 : Nat) {x3 : State} (hx3 : Sound f0 x3) : Sound f0 (recallTiles x0 x1 x2 x3).1 := by
  induction x0 generalizing x1 x2 x3 with
  | nil => unfold recallTiles; (try dsimp only); repeat' first | with_reducible assumption | with_reducible apply sound_ite | split | with_reducible apply sound_mk | with_reducible refine Sound.parts ?_
  | cons _ _ ih => unfold recallTiles; (try dsimp only); repeat' first | with_reducible assumption | with_reducible apply ih | with_reducible apply sound_ite | split | with_reducible apply sound_mk | with_reducible refine Sound.parts ?_

theorem saveTiles_sound {f0 : Fuses} (i : Nat) (a : Nat) {s : State} (hs : Sound f0 s) : Sound f0 (saveTiles i a s) := by
  unfold saveTiles
  try dsimp only
  repeat' first | with_reducible assumption | with_reducible apply State.tankPut_sound | with_reducible apply State.onCtx_sound | with_reducible apply tilesRecords_sound | with_reducible apply rememberTiles_sound | with_reducible apply sound_ite | intro _ _ | refine sound_pair (by assumption) ?_ | split | with_reducible apply sound_mk | with_reducible refine Sound.parts ?_

theorem restoreBad_sound {f0 : Fuses} (i : Nat) (a : Nat) (id : Nat) {s : State} (hs : Sound f0 s) : Sound f0 (restoreBad i a id s) := by
  unfold restoreBad
  try dsimp only
  repeat' first | with_reducible assumption | with_reducible apply State.raise_sound | with_reducible apply State.accErr_sound | with_reducible apply sound_ite | split | with_reducible apply sound_mk | with_reducible refine Sound.parts ?_

theorem putTiles_sound {f0 : Fuses} (i : Nat) (a : Nat) (ts : List Tile) {s : State} (hs : Sound f0 s) : Sound f0 (putTiles i a ts s) := by
  unfold putTiles
  try dsimp only
  repeat' first | with_reducible assumption | with_reducible apply State.onCtx_sound | with_reducible apply recallTiles_sound | with_reducible apply sound_ite | intro _ _ | refine sound_pair (by assumption) ?_ | split | with_reducible apply sound_mk | with_reducible refine Sound.parts ?_

theorem saveContext_sound {f0 : Fuses} (i : Nat) (a : Nat) {s : State} (hs : Sound f0 s) : Sound f0 (saveContext i a s) := by
  unfold saveContext
  try dsimp only
  repeat' first | with_reducible assumption | with_reducible apply State.tankPut_sound | with_reducible apply saveTiles_sound | with_reducible apply sound_ite | split | with_reducible apply sound_mk | with_reducible refine Sound.parts ?_

theorem State.putBytes_sound {f0 : Fuses} {s : State} (core : Nat) (port : Nat) (sp : Nat) (a : Nat) (bs : List Byte) (hs : Sound f0 s) : Sound f0 (State.putBytes s core port sp a bs).1 := by
  unfold State.putBytes
  try dsimp only
  repeat' first | with_reducible assumption | with_reducible apply State.writeFx_sound | with_reducible apply sound_ite | split | with_reducible apply sound_mk | with_reducible refine Sound.parts ?_

theorem State.putRow_sound {f0 : Fuses} {s : State} (core : Nat) (port : Nat) (d : Desc) (ro : Nat) (rk : Nat) (c0 : Nat) (raws : List Nat) (ents : List Nat) (hs : Sound f0 s) : Sound f0 (State.putRow s core port d ro rk c0 raws ents).1 := by
  unfold State.putRow
  try dsimp only
  repeat' first | with_reducible assumption | with_reducible apply State.putBytes_sound | with_reducible apply sound_ite | refine sound_pair (by assumption) ?_ | split | with_reducible apply sound_mk | with_reducible refine Sound.parts ?_

end Sys2Proof.Machine
end

