-- ==== Sys2Proof/Laws/SoundB.lean ====
section
/-!
SUPPORT. What every step keeps (`Sound`), operation by operation, callees first (2 of 5).
-/
set_option linter.unusedTactic false
set_option linter.unreachableTactic false
set_option linter.unusedVariables false

namespace Sys2Proof.Machine

theorem State.putOut_sound {f0 : Fuses} {s : State} (i : Nat) (d : Desc) (ro : Nat) (rk : Nat) (c0 : Nat) (r : CRow) (hs : Sound f0 s) : Sound f0 (State.putOut s i d ro rk c0 r) := by
  unfold State.putOut
  try dsimp only
  repeat' first | with_reducible assumption | with_reducible apply State.incReg_sound | with_reducible apply State.poisonIf_sound | with_reducible apply State.putRow_sound | with_reducible apply sound_ite | intro _ _ | refine sound_pair (by assumption) ?_ | split | with_reducible apply sound_mk | with_reducible refine Sound.parts ?_

theorem branch_sound {f0 : Fuses} {s : State} (target : W64) (hs : Sound f0 s) : (branch s target).sound f0 := by
  unfold branch
  try dsimp only
  repeat' first | with_reducible assumption | trivial | with_reducible apply State.trap_sound | with_reducible apply Res.sound_ok | with_reducible apply Res.sound_stay | with_reducible apply Res.sound_jump | with_reducible apply Res.sound_ite | with_reducible apply sound_ite | show Sound f0 _ | split | with_reducible apply sound_mk | with_reducible refine Sound.parts ?_

theorem linkTo_sound {f0 : Fuses} (i : Nat) (w : BitVec 56) {s : State} (hs : Sound f0 s) : Sound f0 (linkTo i w s) := by
  unfold linkTo
  try dsimp only
  repeat' first | with_reducible assumption | with_reducible apply State.onCtx_sound | with_reducible apply sound_ite | intro _ _ | split | with_reducible apply sound_mk | with_reducible refine Sound.parts ?_

theorem loadIssue_sound {f0 : Fuses} (i : Nat) (dst : LoadDst) (w : BitVec 56) (n : Nat) {s : State} (hs : Sound f0 s) : (loadIssue i dst w n s).sound f0 := by
  unfold loadIssue
  try dsimp only
  repeat' first | with_reducible assumption | trivial | with_reducible apply State.setCtx_sound | with_reducible apply State.trap_sound | with_reducible apply Res.sound_ok | with_reducible apply Res.sound_stay | with_reducible apply Res.sound_jump | with_reducible apply Res.sound_ite | with_reducible apply sound_ite | show Sound f0 _ | split | with_reducible apply sound_mk | with_reducible refine Sound.parts ?_

theorem State.trapLoad_sound {f0 : Fuses} {s : State} (i : Nat) (hs : Sound f0 s) : Sound f0 (State.trapLoad s i) := by
  unfold State.trapLoad
  try dsimp only
  repeat' first | with_reducible assumption | with_reducible apply State.trap_sound | with_reducible apply sound_ite | split | with_reducible apply sound_mk | with_reducible refine Sound.parts ?_

theorem loadReturn_sound {f0 : Fuses} (i : Nat) (l : LoadSt) (rest : List LoadSt) {s : State} (hs : Sound f0 s) : Sound f0 (loadReturn i l rest s) := by
  unfold loadReturn
  try dsimp only
  repeat' first | with_reducible assumption | with_reducible apply State.readFx_sound | with_reducible apply State.onCtx_sound | with_reducible apply State.poisonIf_sound | with_reducible apply State.trapLoad_sound | with_reducible apply sound_ite | intro _ _ | split | with_reducible apply sound_mk | with_reducible refine Sound.parts ?_

theorem storeIssue_sound {f0 : Fuses} (i : Nat) (w : BitVec 56) (n : Nat) (bs : Ctx → List Byte) {s : State} (hs : Sound f0 s) : (storeIssue i w n bs s).sound f0 := by
  unfold storeIssue
  try dsimp only
  repeat' first | with_reducible assumption | trivial | with_reducible apply State.writeFx_sound | with_reducible apply State.poisonIf_sound | with_reducible apply State.trap_sound | with_reducible apply Res.sound_ok | with_reducible apply Res.sound_stay | with_reducible apply Res.sound_jump | with_reducible apply Res.sound_ite | with_reducible apply sound_ite | show Sound f0 _ | split | with_reducible apply sound_mk | with_reducible refine Sound.parts ?_

theorem stallAt_sound {f0 : Fuses} (i : Nat) (op : Nat) (reason : Nat) (w : BitVec 56) {s : State} (hs : Sound f0 s) : (stallAt i op reason w s).sound f0 := by
  unfold stallAt
  try dsimp only
  repeat' first | with_reducible assumption | trivial | with_reducible apply State.onCtx_sound | with_reducible apply Res.sound_ok | with_reducible apply Res.sound_stay | with_reducible apply Res.sound_jump | with_reducible apply Res.sound_ite | with_reducible apply sound_ite | intro _ _ | show Sound f0 _ | split | with_reducible apply sound_mk | with_reducible refine Sound.parts ?_

theorem openBody_sound {f0 : Fuses} (i : Nat) (w : BitVec 56) {s : State} (hs : Sound f0 s) : (openBody i w s).sound f0 := by
  unfold openBody
  try dsimp only
  repeat' first | with_reducible assumption | trivial | with_reducible apply State.setCtx_sound | with_reducible apply State.trap_sound | with_reducible apply stallAt_sound | with_reducible apply Res.sound_ok | with_reducible apply Res.sound_stay | with_reducible apply Res.sound_jump | with_reducible apply Res.sound_ite | with_reducible apply sound_ite | intro _ _ | show Sound f0 _ | split | with_reducible apply sound_mk | with_reducible refine Sound.parts ?_

theorem addPass_sound {f0 : Fuses} (i : Nat) (x : Pass) (l : List Part) (res : List Nat) (x4 : List Nat) {x5 : State} (x6 : Tile) (hx5 : Sound f0 x5) : Sound f0 (addPass i x l res x4 x5 x6).1 := by
  induction x4 generalizing x5 x6 with
  | nil => unfold addPass; (try dsimp only); repeat' first | with_reducible assumption | with_reducible apply slotAdd_sound | with_reducible apply sound_ite | refine sound_pair (by assumption) ?_ | split | with_reducible apply sound_mk | with_reducible refine Sound.parts ?_
  | cons _ _ ih => unfold addPass; (try dsimp only); repeat' first | with_reducible assumption | with_reducible apply ih | with_reducible apply slotAdd_sound | with_reducible apply sound_ite | refine sound_pair (by assumption) ?_ | split | with_reducible apply sound_mk | with_reducible refine Sound.parts ?_

theorem reduceFirst_sound {f0 : Fuses} (i : Nat) (vidx : Nat) (coloff : Nat) (res : List Nat) (x4 : List Tile) {x5 : State} (hx5 : Sound f0 x5) : Sound f0 (reduceFirst i vidx coloff res x4 x5) := by
  induction x4 generalizing x5 with
  | nil => unfold reduceFirst; (try dsimp only); repeat' first | with_reducible assumption | with_reducible apply State.onCtx_sound | with_reducible apply State.residues_sound | with_reducible apply State.dropParts_sound | with_reducible apply addPass_sound | with_reducible apply sound_ite | intro _ _ | refine sound_pair (by assumption) ?_ | split | with_reducible apply sound_mk | with_reducible refine Sound.parts ?_
  | cons _ _ ih => unfold reduceFirst; (try dsimp only); repeat' first | with_reducible assumption | with_reducible apply ih | with_reducible apply State.onCtx_sound | with_reducible apply State.residues_sound | with_reducible apply State.dropParts_sound | with_reducible apply addPass_sound | with_reducible apply sound_ite | intro _ _ | refine sound_pair (by assumption) ?_ | split | with_reducible apply sound_mk | with_reducible refine Sound.parts ?_

theorem readSlots_sound {f0 : Fuses} (i : Nat) (t : Tile) (x2 : List Nat) {x3 : State} (hx3 : Sound f0 x3) : Sound f0 (readSlots i t x2 x3).1 := by
  induction x2 generalizing x3 with
  | nil => unfold readSlots; (try dsimp only); repeat' first | with_reducible assumption | with_reducible apply State.slotRead_sound | with_reducible apply sound_ite | refine sound_pair (by assumption) ?_ | split | with_reducible apply sound_mk | with_reducible refine Sound.parts ?_
  | cons _ _ ih => unfold readSlots; (try dsimp only); repeat' first | with_reducible assumption | with_reducible apply ih | with_reducible apply State.slotRead_sound | with_reducible apply sound_ite | refine sound_pair (by assumption) ?_ | split | with_reducible apply sound_mk | with_reducible refine Sound.parts ?_

theorem putRows_sound {f0 : Fuses} (i : Nat) (d : Desc) (x2 : Nat) (x3 : List CRow) {x4 : State} (hx4 : Sound f0 x4) : Sound f0 (putRows i d x2 x3 x4) := by
  induction x3 generalizing x2 x4 with
  | nil => unfold putRows; (try dsimp only); repeat' first | with_reducible assumption | with_reducible apply State.putOut_sound | with_reducible apply sound_ite | split | with_reducible apply sound_mk | with_reducible refine Sound.parts ?_
  | cons _ _ ih => unfold putRows; (try dsimp only); repeat' first | with_reducible assumption | with_reducible apply ih | with_reducible apply State.putOut_sound | with_reducible apply sound_ite | split | with_reducible apply sound_mk | with_reducible refine Sound.parts ?_

theorem putIndex_sound {f0 : Fuses} (i : Nat) (d : Desc) (x2 : Nat) (x3 : List (List W32)) {x4 : State} (hx4 : Sound f0 x4) : Sound f0 (putIndex i d x2 x3 x4) := by
  induction x3 generalizing x2 x4 with
  | nil => unfold putIndex; (try dsimp only); repeat' first | with_reducible assumption | with_reducible apply State.poisonIf_sound | with_reducible apply State.putRow_sound | with_reducible apply sound_ite | intro _ _ | refine sound_pair (by assumption) ?_ | split | with_reducible apply sound_mk | with_reducible refine Sound.parts ?_
  | cons _ _ ih => unfold putIndex; (try dsimp only); repeat' first | with_reducible assumption | with_reducible apply ih | with_reducible apply State.poisonIf_sound | with_reducible apply State.putRow_sound | with_reducible apply sound_ite | intro _ _ | refine sound_pair (by assumption) ?_ | split | with_reducible apply sound_mk | with_reducible refine Sound.parts ?_

theorem drainOut_sound {f0 : Fuses} (i : Nat) (t : Tile) (j : DrainJob) (res : List Nat) {s : State} (hs : Sound f0 s) : Sound f0 (drainOut i t j res s) := by
  unfold drainOut
  try dsimp only
  repeat' first | with_reducible assumption | with_reducible apply State.readFx_sound | with_reducible apply State.residues_sound | with_reducible apply readSlots_sound | with_reducible apply putRows_sound | with_reducible apply putIndex_sound | with_reducible apply sound_ite | refine sound_pair (by assumption) ?_ | split | with_reducible apply sound_mk | with_reducible refine Sound.parts ?_

theorem drainPartial_sound {f0 : Fuses} (i : Nat) (t : Tile) (j : DrainJob) {s : State} (hs : Sound f0 s) : Sound f0 (drainPartial i t j s) := by
  unfold drainPartial
  try dsimp only
  repeat' first | with_reducible assumption | with_reducible apply State.poisonIf_sound | with_reducible apply slotRecords_sound | with_reducible apply State.putBytes_sound | with_reducible apply sound_ite | refine sound_pair (by assumption) ?_ | split | with_reducible apply sound_mk | with_reducible refine Sound.parts ?_

theorem drainIssue_sound {f0 : Fuses} (i : Nat) (t : Tile) (part : Bool) (dout : BitVec 256) (dx : BitVec 256) (row : Nat) (rd : List Rng) (wr : List Rng) {s : State} (hs : Sound f0 s) : (drainIssue i t part dout dx row rd wr s).sound f0 := by
  unfold drainIssue
  try dsimp only
  repeat' first | with_reducible assumption | trivial | with_reducible apply State.setCtx_sound | with_reducible apply Res.sound_ok | with_reducible apply Res.sound_stay | with_reducible apply Res.sound_jump | with_reducible apply Res.sound_ite | with_reducible apply sound_ite | show Sound f0 _ | split | with_reducible apply sound_mk | with_reducible refine Sound.parts ?_

theorem drainBody_sound {f0 : Fuses} (i : Nat) (w : BitVec 56) {s : State} (hs : Sound f0 s) : (drainBody i w s).sound f0 := by
  unfold drainBody
  try dsimp only
  repeat' first | with_reducible assumption | trivial | with_reducible apply State.trap_sound | with_reducible apply drainIssue_sound | with_reducible apply Res.sound_ok | with_reducible apply Res.sound_stay | with_reducible apply Res.sound_jump | with_reducible apply Res.sound_ite | with_reducible apply sound_ite | show Sound f0 _ | split | with_reducible apply sound_mk | with_reducible refine Sound.parts ?_

theorem partialBody_sound {f0 : Fuses} (i : Nat) (w : BitVec 56) {s : State} (hs : Sound f0 s) : (partialBody i w s).sound f0 := by
  unfold partialBody
  try dsimp only
  repeat' first | with_reducible assumption | trivial | with_reducible apply State.trap_sound | with_reducible apply drainIssue_sound | with_reducible apply Res.sound_ok | with_reducible apply Res.sound_stay | with_reducible apply Res.sound_jump | with_reducible apply Res.sound_ite | with_reducible apply sound_ite | show Sound f0 _ | split | with_reducible apply sound_mk | with_reducible refine Sound.parts ?_

theorem restRefuse_sound {f0 : Fuses} (i : Nat) (a : Nat) (id : Nat) {s : State} (hs : Sound f0 s) : (restRefuse i a id s).sound f0 := by
  unfold restRefuse
  try dsimp only
  repeat' first | with_reducible assumption | trivial | with_reducible apply State.trap_sound | with_reducible apply restoreBad_sound | with_reducible apply Res.sound_ok | with_reducible apply Res.sound_stay | with_reducible apply Res.sound_jump | with_reducible apply Res.sound_ite | with_reducible apply sound_ite | show Sound f0 _ | split | with_reducible apply sound_mk | with_reducible refine Sound.parts ?_

theorem restBody_sound {f0 : Fuses} (i : Nat) (w : BitVec 56) {s : State} (hs : Sound f0 s) : (restBody i w s).sound f0 := by
  unfold restBody
  try dsimp only
  repeat' first | with_reducible assumption | trivial | with_reducible apply State.readFx_sound | with_reducible apply State.poisonIf_sound | with_reducible apply State.trap_sound | with_reducible apply putTiles_sound | with_reducible apply restRefuse_sound | with_reducible apply Res.sound_ok | with_reducible apply Res.sound_stay | with_reducible apply Res.sound_jump | with_reducible apply Res.sound_ite | with_reducible apply sound_ite | intro _ _ | show Sound f0 _ | split | with_reducible apply sound_mk | with_reducible refine Sound.parts ?_

theorem mergeSlot_sound {f0 : Fuses} (i : Nat) (hit : List Nat) (r : List Byte) {s : State} (t : Tile) (hs : Sound f0 s) : Sound f0 (mergeSlot i hit r s t).1 := by
  unfold mergeSlot
  try dsimp only
  repeat' first | with_reducible assumption | with_reducible apply State.incomplete_sound | with_reducible apply State.slotRead_sound | with_reducible apply sound_ite | refine sound_pair (by assumption) ?_ | split | with_reducible apply sound_mk | with_reducible refine Sound.parts ?_

theorem mergeAll_sound {f0 : Fuses} (i : Nat) (hit : List Nat) (x2 : List (List Byte)) {x3 : State} (x4 : Tile) (hx3 : Sound f0 x3) : Sound f0 (mergeAll i hit x2 x3 x4).1 := by
  induction x2 generalizing x3 x4 with
  | nil => unfold mergeAll; (try dsimp only); repeat' first | with_reducible assumption | with_reducible apply mergeSlot_sound | with_reducible apply sound_ite | refine sound_pair (by assumption) ?_ | split | with_reducible apply sound_mk | with_reducible refine Sound.parts ?_
  | cons _ _ ih => unfold mergeAll; (try dsimp only); repeat' first | with_reducible assumption | with_reducible apply ih | with_reducible apply mergeSlot_sound | with_reducible apply sound_ite | refine sound_pair (by assumption) ?_ | split | with_reducible apply sound_mk | with_reducible refine Sound.parts ?_

theorem mergeBody_sound {f0 : Fuses} (i : Nat) (w : BitVec 56) (res : List Nat) {s : State} (hs : Sound f0 s) : (mergeBody i w res s).sound f0 := by
  unfold mergeBody
  try dsimp only
  repeat' first | with_reducible assumption | trivial | with_reducible apply State.readFx_sound | with_reducible apply State.onCtx_sound | with_reducible apply State.poisonIf_sound | with_reducible apply State.trap_sound | with_reducible apply State.residues_sound | with_reducible apply mergeAll_sound | with_reducible apply Res.sound_ok | with_reducible apply Res.sound_stay | with_reducible apply Res.sound_jump | with_reducible apply Res.sound_ite | with_reducible apply sound_ite | with_reducible apply sound_foldl_fst | with_reducible apply sound_foldl | intro _ _ _ | intro _ _ | show Sound f0 _ | refine sound_pair (by assumption) ?_ | split | with_reducible apply sound_mk | with_reducible refine Sound.parts ?_

theorem ostBody_sound {f0 : Fuses} (i : Nat) (w : BitVec 56) {s : State} (hs : Sound f0 s) : (ostBody i w s).sound f0 := by
  unfold ostBody
  extract_lets c core a o tabBad pwl bad s1 s2
  have h1 : Sound f0 s1 := State.readFx_sound _ _ _ _ _ hs
  have h2 : Sound f0 s2 := sound_ite (State.readFx_sound _ _ _ _ _ h1) h1
  clear_value s2 s1
  clear_value bad pwl tabBad a c
  repeat' with_reducible apply Res.sound_ite
  all_goals first
    | trivial
    | with_reducible exact Res.sound_stay (State.trap_sound _ _ (State.raise_sound _ _ _ _ (State.accErr_sound _ _ hs)))
    | with_reducible exact Res.sound_ok (State.poisonIf_sound _ _ (State.onCtx_sound _ _ h2))

theorem State.onAct_sound {f0 : Fuses} {s : State} (f : ActSt → ActSt) (hs : Sound f0 s) : Sound f0 (State.onAct s f) := by
  unfold State.onAct
  try dsimp only
  repeat' first | with_reducible assumption | with_reducible apply sound_ite | split | with_reducible apply sound_mk | with_reducible refine Sound.parts ?_

theorem outputsOff_sound {f0 : Fuses} {s : State} (hs : Sound f0 s) : Sound f0 (outputsOff s) := by
  unfold outputsOff
  try dsimp only
  repeat' first | with_reducible assumption | with_reducible apply State.setReg_sound | with_reducible apply State.onAct_sound | with_reducible apply sound_ite | with_reducible apply sound_foldl_fst | with_reducible apply sound_foldl | intro _ _ _ | intro _ _ | split | with_reducible apply sound_mk | with_reducible refine Sound.parts ?_

theorem safeSync_sound {f0 : Fuses} {s : State} (hs : Sound f0 s) : Sound f0 (safeSync s) := by
  unfold safeSync
  try dsimp only
  repeat' first | with_reducible assumption | with_reducible apply State.raise_sound | with_reducible apply State.onAct_sound | with_reducible apply outputsOff_sound | with_reducible apply sound_ite | intro _ _ | split | with_reducible apply sound_mk | with_reducible refine Sound.parts ?_

theorem State.setCan_sound {f0 : Fuses} {s : State} (n : Nat) (x : CanSt) (hs : Sound f0 s) : Sound f0 (State.setCan s n x) := by
  unfold State.setCan
  try dsimp only
  repeat' first | with_reducible assumption | with_reducible apply State.onAct_sound | with_reducible apply sound_ite | intro _ _ | split | with_reducible apply sound_mk | with_reducible refine Sound.parts ?_

theorem canBegin_sound {f0 : Fuses} (n : Nat) {s : State} (hs : Sound f0 s) : Sound f0 (canBegin n s) := by
  unfold canBegin
  try dsimp only
  repeat' first | with_reducible assumption | with_reducible apply State.setCan_sound | with_reducible apply sound_ite | split | with_reducible apply sound_mk | with_reducible refine Sound.parts ?_

theorem canDiscard_sound {f0 : Fuses} (n : Nat) {s0 : State} (hs0 : Sound f0 s0) : Sound f0 (canDiscard n s0).1 := by
  unfold canDiscard
  try dsimp only
  repeat' first | with_reducible assumption | with_reducible apply State.incReg_sound | with_reducible apply State.setCan_sound | with_reducible apply canBegin_sound | with_reducible apply sound_ite | split | with_reducible apply sound_mk | with_reducible refine Sound.parts ?_

theorem authWord_sound {f0 : Fuses} {s : State} (hs : Sound f0 s) : Sound f0 (authWord s) := by
  unfold authWord
  try dsimp only
  repeat' first | with_reducible assumption | with_reducible apply State.tankPut_sound | with_reducible apply sound_ite | split | with_reducible apply sound_mk | with_reducible refine Sound.parts ?_

theorem dropFrames_sound {f0 : Fuses} {s : State} (hs : Sound f0 s) : Sound f0 (dropFrames s) := by
  unfold dropFrames
  try dsimp only
  repeat' first | with_reducible assumption | with_reducible apply State.raiseIf_sound | with_reducible apply canDiscard_sound | with_reducible apply sound_ite | with_reducible apply sound_foldl_fst | with_reducible apply sound_foldl | intro _ _ _ | intro _ _ | refine sound_pair (by assumption) ?_ | split | with_reducible apply sound_mk | with_reducible refine Sound.parts ?_

theorem authSync_sound {f0 : Fuses} (was : Bool) {s : State} (hs : Sound f0 s) : Sound f0 (authSync was s) := by
  unfold authSync
  try dsimp only
  repeat' first | with_reducible assumption | with_reducible apply safeSync_sound | with_reducible apply authWord_sound | with_reducible apply dropFrames_sound | with_reducible apply sound_ite | split | with_reducible apply sound_mk | with_reducible refine Sound.parts ?_

theorem State.setPert_sound {f0 : Fuses} {s : State} (t : Tab Pert) (hs : Sound f0 s) : Sound f0 (State.setPert s t) := by
  unfold State.setPert
  try dsimp only
  repeat' first | with_reducible assumption | with_reducible apply State.clrReg_sound | with_reducible apply sound_ite | with_reducible apply sound_foldl_fst | with_reducible apply sound_foldl | intro _ _ _ | intro _ _ | split | with_reducible apply sound_mk | with_reducible refine Sound.parts ?_

theorem State.usePert_sound {f0 : Fuses} {s : State} (off : Nat) (hs : Sound f0 s) : Sound f0 (State.usePert s off) := by
  unfold State.usePert
  try dsimp only
  repeat' first | with_reducible assumption | with_reducible apply State.setPert_sound | with_reducible apply sound_ite | split | with_reducible apply sound_mk | with_reducible refine Sound.parts ?_

theorem State.nvsCorrected_sound {f0 : Fuses} {s : State} (hs : Sound f0 s) : Sound f0 (State.nvsCorrected s) := by
  unfold State.nvsCorrected
  try dsimp only
  repeat' first | with_reducible assumption | with_reducible apply State.incReg_sound | with_reducible apply State.raiseOnce_sound | with_reducible apply sound_ite | split | with_reducible apply sound_mk | with_reducible refine Sound.parts ?_

theorem State.nvsUncorrectable_sound {f0 : Fuses} {s : State} (reader : Nat) (g : Nat) (hs : Sound f0 s) : Sound f0 (State.nvsUncorrectable s reader g) := by
  unfold State.nvsUncorrectable
  try dsimp only
  repeat' first | with_reducible assumption | with_reducible apply State.setReg_sound | with_reducible apply State.incReg_sound | with_reducible apply State.raise_sound | with_reducible apply sound_ite | split | with_reducible apply sound_mk | with_reducible refine Sound.parts ?_

theorem State.nvsRead_sound {f0 : Fuses} {s : State} (reader : Nat) (off : Nat) (len : Nat) (hs : Sound f0 s) : Sound f0 (State.nvsRead s reader off len) := by
  unfold State.nvsRead
  try dsimp only
  repeat' first | with_reducible assumption | with_reducible apply State.setPert_sound | with_reducible apply State.nvsCorrected_sound | with_reducible apply State.nvsUncorrectable_sound | with_reducible apply sound_ite | with_reducible apply sound_foldl_fst | with_reducible apply sound_foldl | intro _ _ _ | intro _ _ | split | with_reducible apply sound_mk | with_reducible refine Sound.parts ?_

theorem State.nvsPage_sound {f0 : Fuses} {s : State} (j : PageJob) (hs : Sound f0 s) : Sound f0 (State.nvsPage s j) := by
  unfold State.nvsPage
  refine State.incWrap_sound _ _ ?_
  obtain ⟨h1, h2, h3, h4, h5, h6, h7, h8⟩ := hs
  exact ⟨h1, h2, h3, h4, h5, nvsProgram_wf _ _ (writeSlot_wf _ _ h6), h7, h8⟩

theorem State.nvsResolve_sound {f0 : Fuses} {s : State} (hs : Sound f0 s) : Sound f0 (State.nvsResolve s) := by
  have h := State.nvsRead_sound 3 98304 98304 hs
  unfold State.nvsResolve
  dsimp only
  with_reducible apply sound_mk
  with_reducible refine Sound.parts ?_
  refine State.nvsRead_sound _ _ _ ?_
  split
  · exact sound_mk h
  · split
    · refine State.raise_sound _ _ _ _ ?_
      obtain ⟨h1, h2, h3, h4, h5, h6, h7, h8⟩ := h
      exact ⟨h1, h2, h3, h4, h5, Mem.heal_wf _ _ (Mem.writeRaw_wf _ _ (nvsProgram_wf _ _ h6)), h7, h8⟩
    · exact sound_mk h

theorem State.abRead_sound {f0 : Fuses} {s : State} (r : AbReg) (hs : Sound f0 s) : Sound f0 (State.abRead s r).1 := by
  unfold State.abRead
  try dsimp only
  repeat' first | with_reducible assumption | with_reducible apply State.raise_sound | with_reducible apply State.nvsRead_sound | with_reducible apply sound_ite | split | with_reducible apply sound_mk | with_reducible refine Sound.parts ?_

theorem State.chanEnd_sound {f0 : Fuses} {s : State} (c : Nat) (code : Nat) (hs : Sound f0 s) : Sound f0 (State.chanEnd s c code) := by
  unfold State.chanEnd
  try dsimp only
  repeat' first | with_reducible assumption | with_reducible apply State.setReg_sound | with_reducible apply sound_ite | split | with_reducible apply sound_mk | with_reducible refine Sound.parts ?_

theorem State.chanRead_sound {f0 : Fuses} {s : State} (c : Nat) (page : Nat) (hs : Sound f0 s) : Sound f0 (State.chanRead s c page) := by
  unfold State.chanRead
  try dsimp only
  repeat' first | with_reducible assumption | with_reducible apply State.setReg_sound | with_reducible apply State.nvsRead_sound | with_reducible apply State.chanEnd_sound | with_reducible apply sound_ite | with_reducible apply sound_foldl_fst | with_reducible apply sound_foldl | intro _ _ _ | intro _ _ | split | with_reducible apply sound_mk | with_reducible refine Sound.parts ?_

theorem State.winRead_sound {f0 : Fuses} {s : State} (who : Nat) (off : Nat) (hs : Sound f0 s) : Sound f0 (State.winRead s who off) := by
  unfold State.winRead
  try dsimp only
  repeat' first | with_reducible assumption | with_reducible apply State.nvsRead_sound | with_reducible apply sound_ite | split | with_reducible apply sound_mk | with_reducible refine Sound.parts ?_

theorem warnPage_sound {f0 : Fuses} (j : PageJob) {s : State} (hs : Sound f0 s) : Sound f0 (warnPage j s).1 := by
  unfold warnPage
  try dsimp only
  repeat' first | with_reducible assumption | with_reducible apply State.raise_sound | with_reducible apply State.chanEnd_sound | with_reducible apply sound_ite | split | with_reducible apply sound_mk | with_reducible refine Sound.parts ?_

theorem nvsServe_sound {f0 : Fuses} (x0 : List NvsCmd) {x1 : State} (hx1 : Sound f0 x1) : Sound f0 (nvsServe x0 x1) := by
  induction x0 generalizing x1 with
  | nil =>
    unfold nvsServe
    split
    · exact hx1.of_eq rfl rfl
    · split
      · exact hx1.of_eq rfl rfl
      · exact hx1.of_eq rfl rfl
  | cons c _ ih =>
    cases c with
    | read c p => exact ih (State.chanRead_sound _ _ hx1)
    | win w o => exact ih (State.winRead_sound _ _ hx1)
    | page j =>
      unfold nvsServe
      split
      · exact (ih (warnPage_sound j hx1)).of_eq rfl rfl
      · exact hx1.of_eq rfl rfl

theorem State.nvsGo_sound {f0 : Fuses} {s : State} (hs : Sound f0 s) : Sound f0 (State.nvsGo s) := by
  unfold State.nvsGo
  try dsimp only
  repeat' first | with_reducible assumption | with_reducible apply nvsServe_sound | with_reducible apply sound_ite | split | with_reducible apply sound_mk | with_reducible refine Sound.parts ?_

theorem State.nvsCut_sound {f0 : Fuses} {s0 : State} (cut : Fin 8) (hs0 : Sound f0 s0) : Sound f0 (State.nvsCut s0 cut) := by
  have h := State.nvsGo_sound hs0
  unfold State.nvsCut
  dsimp only
  split
  · exact h
  · obtain ⟨h1, h2, h3, h4, h5, h6, h7, h8⟩ := h
    exact ⟨h1, h2, h3, h4, h5, cutPage_wf _ _ _ _ _ h6, h7, h8⟩

theorem State.nvsPut_sound {f0 : Fuses} {s : State} (cs : List NvsCmd) (hs : Sound f0 s) : Sound f0 (State.nvsPut s cs) := by
  unfold State.nvsPut
  try dsimp only
  repeat' first | with_reducible assumption | with_reducible apply State.nvsGo_sound | with_reducible apply sound_ite | split | with_reducible apply sound_mk | with_reducible refine Sound.parts ?_

theorem nvsReadEff_sound {f0 : Fuses} (ch : Nat) {s : State} (hs : Sound f0 s) : Sound f0 (nvsReadEff ch s) := by
  unfold nvsReadEff
  try dsimp only
  repeat' first | with_reducible assumption | with_reducible apply State.setReg_sound | with_reducible apply State.nvsPut_sound | with_reducible apply sound_ite | split | with_reducible apply sound_mk | with_reducible refine Sound.parts ?_

theorem nvsWriteEff_sound {f0 : Fuses} (sec : Bool) (ch : Nat) {s : State} (hs : Sound f0 s) : Sound f0 (nvsWriteEff sec ch s) := by
  unfold nvsWriteEff
  try dsimp only
  repeat' first | with_reducible assumption | with_reducible apply State.setReg_sound | with_reducible apply State.raise_sound | with_reducible apply State.nvsPut_sound | with_reducible apply sound_ite | split | with_reducible apply sound_mk | with_reducible refine Sound.parts ?_

theorem jobDone_sound {f0 : Fuses} (j : PageJob) {s : State} (hs : Sound f0 s) : Sound f0 (jobDone j s) := by
  unfold jobDone
  try dsimp only
  repeat' first | with_reducible assumption | with_reducible apply State.setReg_sound | with_reducible apply State.clrReg_sound | with_reducible apply State.chanEnd_sound | with_reducible apply sound_ite | intro _ _ | split | with_reducible apply sound_mk | with_reducible refine Sound.parts ?_

theorem nvscIsolate_sound {f0 : Fuses} {s : State} (hs : Sound f0 s) : Sound f0 (nvscIsolate s) := by
  unfold nvscIsolate
  try dsimp only
  repeat' first | with_reducible assumption | with_reducible apply State.setDom_sound | with_reducible apply sound_ite | split | with_reducible apply sound_mk | with_reducible refine Sound.parts ?_

theorem pageDone_sound {f0 : Fuses} (j : PageJob) {s : State} (hs : Sound f0 s) : Sound f0 (pageDone j s) := by
  unfold pageDone
  try dsimp only
  repeat' first | with_reducible assumption | with_reducible apply State.nvsPage_sound | with_reducible apply jobDone_sound | with_reducible apply sound_ite | split | with_reducible apply sound_mk | with_reducible refine Sound.parts ?_

theorem nvsFlush_sound {f0 : Fuses} (x0 : Nat) {x1 : State} (hx1 : Sound f0 x1) : Sound f0 (nvsFlush x0 x1) := by
  induction x0 generalizing x1 with
  | zero => unfold nvsFlush; (try dsimp only); repeat' first | with_reducible assumption | with_reducible apply State.nvsGo_sound | with_reducible apply pageDone_sound | with_reducible apply sound_ite | split | with_reducible apply sound_mk | with_reducible refine Sound.parts ?_
  | succ _ ih => unfold nvsFlush; (try dsimp only); repeat' first | with_reducible assumption | with_reducible apply ih | with_reducible apply State.nvsGo_sound | with_reducible apply pageDone_sound | with_reducible apply sound_ite | split | with_reducible apply sound_mk | with_reducible refine Sound.parts ?_

theorem State.abWriteNow_sound {f0 : Fuses} {s : State} (r : AbReg) (a : AbRead) (pay : List Byte) (hs : Sound f0 s) : Sound f0 (State.abWriteNow s r a pay) := by
  unfold State.abWriteNow
  try dsimp only
  repeat' first | with_reducible assumption | with_reducible apply State.nvsPage_sound | with_reducible apply nvsFlush_sound | with_reducible apply sound_ite | with_reducible apply sound_foldl_fst | with_reducible apply sound_foldl | intro _ _ _ | intro _ _ | split | with_reducible apply sound_mk | with_reducible refine Sound.parts ?_

theorem State.writeSplit_sound {f0 : Fuses} {s : State} (v : Bool) (hs : Sound f0 s) : Sound f0 (State.writeSplit s v) := by
  unfold State.writeSplit
  try dsimp only
  repeat' first | with_reducible assumption | with_reducible apply State.abRead_sound | with_reducible apply State.abWriteNow_sound | with_reducible apply sound_ite | refine sound_pair (by assumption) ?_ | split | with_reducible apply sound_mk | with_reducible refine Sound.parts ?_

theorem State.setInput_sound {f0 : Fuses} {s : State} (st : Nat) (x : Option OpenIn) (hs : Sound f0 s) : Sound f0 (State.setInput s st x) := by
  unfold State.setInput
  try dsimp only
  repeat' first | with_reducible assumption | with_reducible apply State.setStrm_sound | with_reducible apply sound_ite | split | with_reducible apply sound_mk | with_reducible refine Sound.parts ?_

theorem recordWrite_sound {f0 : Fuses} (i : Nat) (v : W32) {s : State} (hs : Sound f0 s) : Sound f0 (recordWrite i v s) := by
  unfold recordWrite
  try dsimp only
  repeat' first | with_reducible assumption | with_reducible apply State.setReg_sound | with_reducible apply State.setFld_sound | with_reducible apply State.orReg_sound | with_reducible apply State.clrReg_sound | with_reducible apply State.raise_sound | with_reducible apply State.setInput_sound | with_reducible apply sound_ite | split | with_reducible apply sound_mk | with_reducible refine Sound.parts ?_

theorem dropInput_sound {f0 : Fuses} (i : Nat) (st : Nat) (port : Nat) (reason : Nat) {s : State} (hs : Sound f0 s) : Sound f0 (dropInput i st port reason s) := by
  unfold dropInput
  try dsimp only
  repeat' first | with_reducible assumption | with_reducible apply State.incReg_sound | with_reducible apply State.raiseIntake_sound | with_reducible apply sound_ite | split | with_reducible apply sound_mk | with_reducible refine Sound.parts ?_

theorem passInput_sound {f0 : Fuses} (st : Nat) {s : State} (hs : Sound f0 s) : Sound f0 (passInput st s) := by
  unfold passInput
  try dsimp only
  repeat' first | with_reducible assumption | with_reducible apply State.setInput_sound | with_reducible apply dropInput_sound | with_reducible apply sound_ite | split | with_reducible apply sound_mk | with_reducible refine Sound.parts ?_

theorem openInput_sound {f0 : Fuses} (i : Nat) {s : State} (hs : Sound f0 s) : Sound f0 (openInput i s) := by
  unfold openInput
  try dsimp only
  repeat' first | with_reducible assumption | with_reducible apply State.setInput_sound | with_reducible apply dropInput_sound | with_reducible apply sound_ite | split | with_reducible apply sound_mk | with_reducible refine Sound.parts ?_

theorem closeInput_sound {f0 : Fuses} (i : Nat) (x : OpenIn) (data : List Byte) {s0 : State} (hs0 : Sound f0 s0) : Sound f0 (closeInput i x data s0) := by
  unfold closeInput
  try dsimp only
  repeat' first | with_reducible assumption | with_reducible apply State.tankPut_sound | with_reducible apply State.arrive_sound | with_reducible apply State.setInput_sound | with_reducible apply dropInput_sound | with_reducible apply sound_ite | split | with_reducible apply sound_mk | with_reducible refine Sound.parts ?_

theorem closeCsi_sound {f0 : Fuses} (i : Nat) (x : OpenIn) (short : Bool) {s : State} (hs : Sound f0 s) : Sound f0 (closeCsi i x short s) := by
  unfold closeCsi
  try dsimp only
  repeat' first | with_reducible assumption | with_reducible apply State.incReg_sound | with_reducible apply closeInput_sound | with_reducible apply sound_ite | intro _ _ | split | with_reducible apply sound_mk | with_reducible refine Sound.parts ?_

theorem csiLine_sound {f0 : Fuses} (i : Nat) (data : List Byte) (crcOk : Bool) {s : State} (hs : Sound f0 s) : Sound f0 (csiLine i data crcOk s) := by
  unfold csiLine
  try dsimp only
  repeat' first | with_reducible assumption | with_reducible apply State.setInput_sound | with_reducible apply sound_ite | split | with_reducible apply sound_mk | with_reducible refine Sound.parts ?_

theorem ethAppend_sound {f0 : Fuses} (i : Nat) (x : OpenIn) (f : EthFrame) {s : State} (hs : Sound f0 s) : Sound f0 (ethAppend i x f s) := by
  unfold ethAppend
  try dsimp only
  repeat' first | with_reducible assumption | with_reducible apply State.setInput_sound | with_reducible apply closeInput_sound | with_reducible apply sound_ite | split | with_reducible apply sound_mk | with_reducible refine Sound.parts ?_

theorem State.setSkip_sound {f0 : Fuses} {s : State} (i : Nat) (n : Nat) (hs : Sound f0 s) : Sound f0 (State.setSkip s i n) := by
  unfold State.setSkip
  try dsimp only
  repeat' first | with_reducible assumption | with_reducible apply sound_ite | split | with_reducible apply sound_mk | with_reducible refine Sound.parts ?_

theorem waitEnd_sound {f0 : Fuses} (i : Nat) (pd : Nat) (v : Bool) {s : State} (hs : Sound f0 s) : Sound f0 (waitEnd i pd v s) := by
  unfold waitEnd
  try dsimp only
  repeat' first | with_reducible assumption | with_reducible apply State.onCtx_sound | with_reducible apply sound_ite | intro _ _ | split | with_reducible apply sound_mk | with_reducible refine Sound.parts ?_

theorem relCurrent_sound {f0 : Fuses} (i : Nat) (st : Nat) (n : W32) (rd : Nat) (v : W64) {s : State} (hs : Sound f0 s) : Sound f0 (relCurrent i st n rd v s) := by
  unfold relCurrent
  try dsimp only
  repeat' first | with_reducible assumption | with_reducible apply State.when_sound | with_reducible apply State.mirrorSend_sound | with_reducible apply State.markPoison_sound | with_reducible apply State.onCtx_sound | with_reducible apply State.poison_sound | with_reducible apply sound_ite | intro _ _ | split | with_reducible apply sound_mk | with_reducible refine Sound.parts ?_

theorem takeDone_sound {f0 : Fuses} (i : Nat) (st : Nat) (rn : Nat) (r : SeqSt) {s : State} (hs : Sound f0 s) : Sound f0 (takeDone i st rn r s) := by
  unfold takeDone
  try dsimp only
  repeat' first | with_reducible assumption | with_reducible apply State.mapSeq_sound | with_reducible apply relCurrent_sound | with_reducible apply sound_ite | intro _ _ | split | with_reducible apply sound_mk | with_reducible refine Sound.parts ?_

theorem joinDone_sound {f0 : Fuses} (i : Nat) (st : Nat) (n : W32) (rr : Nat) {s : State} (hs : Sound f0 s) : Sound f0 (joinDone i st n rr s) := by
  unfold joinDone
  try dsimp only
  repeat' first | with_reducible assumption | with_reducible apply relCurrent_sound | with_reducible apply sound_ite | split | with_reducible apply sound_mk | with_reducible refine Sound.parts ?_

theorem readRows_sound {f0 : Fuses} (core : Nat) (port : Nat) (d : Desc) (x3 : List (Nat × Nat × Nat)) {x4 : State} (hx4 : Sound f0 x4) : Sound f0 (readRows core port d x3 x4).1 := by
  induction x3 generalizing x4 with
  | nil => unfold readRows; (try dsimp only); repeat' first | with_reducible assumption | with_reducible apply State.readFx_sound | with_reducible apply sound_ite | split | with_reducible apply sound_mk | with_reducible refine Sound.parts ?_
  | cons _ _ ih => unfold readRows; (try dsimp only); repeat' first | with_reducible assumption | with_reducible apply ih | with_reducible apply State.readFx_sound | with_reducible apply sound_ite | split | with_reducible apply sound_mk | with_reducible refine Sound.parts ?_

theorem doneRet_sound {f0 : Fuses} (i : Nat) (st : Nat) (n : W32) (rr : Nat) (status : Nat) {s : State} (hs : Sound f0 s) : Sound f0 (doneRet i st n rr status s) := by
  unfold doneRet
  try dsimp only
  repeat' first | with_reducible assumption | with_reducible apply State.onCtx_sound | with_reducible apply sound_ite | intro _ _ | split | with_reducible apply sound_mk | with_reducible refine Sound.parts ?_

theorem donePoison_sound {f0 : Fuses} (i : Nat) (st : Nat) (n : W32) (rr : Nat) {s : State} (hs : Sound f0 s) : Sound f0 (donePoison i st n rr s) := by
  unfold donePoison
  try dsimp only
  repeat' first | with_reducible assumption | with_reducible apply State.mapSeq_sound | with_reducible apply State.closeNum_sound | with_reducible apply doneRet_sound | with_reducible apply sound_ite | intro _ _ | split | with_reducible apply sound_mk | with_reducible refine Sound.parts ?_

theorem doneAccept_sound {f0 : Fuses} (i : Nat) (st : Nat) (n : W32) (rr : Nat) (data : List Byte) {s : State} (hs : Sound f0 s) : Sound f0 (doneAccept i st n rr data s) := by
  unfold doneAccept
  try dsimp only
  repeat' first | with_reducible assumption | with_reducible apply State.tankPut_sound | with_reducible apply State.flush_sound | with_reducible apply State.mapSeq_sound | with_reducible apply State.poisonIf_sound | with_reducible apply doneRet_sound | with_reducible apply donePoison_sound | with_reducible apply sound_ite | intro _ _ | split | with_reducible apply sound_mk | with_reducible refine Sound.parts ?_

theorem doneCompare_sound {f0 : Fuses} (i : Nat) (st : Nat) (n : W32) (rr : Nat) (d : Desc) (data : List Byte) (peer : List Byte) {s : State} (hs : Sound f0 s) : Sound f0 (doneCompare i st n rr d data peer s) := by
  unfold doneCompare
  try dsimp only
  repeat' first | with_reducible assumption | with_reducible apply State.raiseStream_sound | with_reducible apply donePoison_sound | with_reducible apply doneAccept_sound | with_reducible apply sound_ite | split | with_reducible apply sound_mk | with_reducible refine Sound.parts ?_

theorem doneEarly_sound {f0 : Fuses} (i : Nat) (st : Nat) (n : W32) (rr : Nat) {s : State} (hs : Sound f0 s) : ∀ t, doneEarly i st n rr s = some t → Sound f0 t := by
  intro t ht
  unfold doneEarly at ht
  split at ht
  · cases ht; exact doneRet_sound _ _ _ _ _ hs
  · split at ht
    · cases ht; exact doneRet_sound _ _ _ _ _ hs
    · split at ht
      · cases ht; exact donePoison_sound _ _ _ _ hs
      · split at ht
        · cases ht; exact doneRet_sound _ _ _ _ _ (State.closeNum_sound _ _ _ hs)
        · cases ht

theorem doneTry_sound {f0 : Fuses} (i : Nat) (st : Nat) (n : W32) (dw : BitVec 256) (rr : Nat) {s : State} (hs : Sound f0 s) : Sound f0 (doneTry i st n dw rr s) := by
  unfold doneTry
  try dsimp only
  repeat' first | with_reducible assumption | with_reducible apply State.toPeer_sound | with_reducible apply State.onCtx_sound | with_reducible apply State.poison_sound | with_reducible apply readRows_sound | with_reducible apply donePoison_sound | with_reducible apply doneAccept_sound | with_reducible apply doneCompare_sound | with_reducible refine doneEarly_sound _ _ _ _ ?_ _ (by assumption) | with_reducible apply sound_ite | intro _ _ | refine sound_pair (by assumption) ?_ | split | with_reducible apply sound_mk | with_reducible refine Sound.parts ?_

theorem doneAgain_sound {f0 : Fuses} (i : Nat) {s : State} (hs : Sound f0 s) : Sound f0 (doneAgain i s) := by
  unfold doneAgain
  try dsimp only
  repeat' first | with_reducible assumption | with_reducible apply doneAccept_sound | with_reducible apply doneCompare_sound | with_reducible refine doneEarly_sound _ _ _ _ ?_ _ (by assumption) | with_reducible apply doneTry_sound | with_reducible apply sound_ite | split | with_reducible apply sound_mk | with_reducible refine Sound.parts ?_

theorem trapWaiters_sound {f0 : Fuses} (st : Nat) {s : State} (hs : Sound f0 s) : Sound f0 (trapWaiters st s) := by
  unfold trapWaiters
  try dsimp only
  repeat' first | with_reducible assumption | with_reducible apply State.trap_sound | with_reducible apply sound_ite | with_reducible apply sound_foldl_fst | with_reducible apply sound_foldl | intro _ _ _ | intro _ _ | split | with_reducible apply sound_mk | with_reducible refine Sound.parts ?_

theorem strmCfgWrite_sound {f0 : Fuses} (st : Nat) (v : W32) {s : State} (hs : Sound f0 s) : Sound f0 (strmCfgWrite st v s) := by
  unfold strmCfgWrite
  try dsimp only
  repeat' first | with_reducible assumption | with_reducible apply State.putMasked_sound | with_reducible apply State.mirrorConfig_sound | with_reducible apply unbind_sound | with_reducible apply trapWaiters_sound | with_reducible apply sound_ite | split | with_reducible apply sound_mk | with_reducible refine Sound.parts ?_

theorem State.setMsc_sound {f0 : Fuses} {s : State} (m : Nat) (x : MsrConv) (hs : Sound f0 s) : Sound f0 (State.setMsc s m x) := by
  unfold State.setMsc
  try dsimp only
  repeat' first | with_reducible assumption | with_reducible apply sound_ite | split | with_reducible apply sound_mk | with_reducible refine Sound.parts ?_

theorem runStart_sound {f0 : Fuses} (m : Nat) (e : Nat) (fresh : Bool) (urg : Bool) (overs : List Bool) {s : State} (hs : Sound f0 s) : Sound f0 (runStart m e fresh urg overs s) := by
  unfold runStart
  try dsimp only
  repeat' first | with_reducible assumption | with_reducible apply State.setMsc_sound | with_reducible apply sound_ite | split | with_reducible apply sound_mk | with_reducible refine Sound.parts ?_

theorem passBegin_sound {f0 : Fuses} (m : Nat) {s : State} (hs : Sound f0 s) : Sound f0 (passBegin m s) := by
  unfold passBegin
  try dsimp only
  repeat' first | with_reducible assumption | with_reducible apply State.setMsc_sound | with_reducible apply runStart_sound | with_reducible apply sound_ite | split | with_reducible apply sound_mk | with_reducible refine Sound.parts ?_

theorem passTrigger_sound {f0 : Fuses} (m : Nat) {s : State} (hs : Sound f0 s) : Sound f0 (passTrigger m s) := by
  unfold passTrigger
  try dsimp only
  repeat' first | with_reducible assumption | with_reducible apply State.setMsc_sound | with_reducible apply passBegin_sound | with_reducible apply sound_ite | split | with_reducible apply sound_mk | with_reducible refine Sound.parts ?_

theorem trigDiscard_sound {f0 : Fuses} (m : Nat) {s : State} (hs : Sound f0 s) : Sound f0 (trigDiscard m s) := by
  unfold trigDiscard
  try dsimp only
  repeat' first | with_reducible assumption | with_reducible apply State.incReg_sound | with_reducible apply State.raise_sound | with_reducible apply State.setMsc_sound | with_reducible apply sound_ite | split | with_reducible apply sound_mk | with_reducible refine Sound.parts ?_

theorem trigger_sound {f0 : Fuses} (m : Nat) {s : State} (hs : Sound f0 s) : Sound f0 (trigger m s) := by
  unfold trigger
  try dsimp only
  repeat' first | with_reducible assumption | with_reducible apply State.setMsc_sound | with_reducible apply passTrigger_sound | with_reducible apply trigDiscard_sound | with_reducible apply sound_ite | split | with_reducible apply sound_mk | with_reducible refine Sound.parts ?_

theorem cfgBusy_sound {f0 : Fuses} (m : Nat) (off : Nat) (v : W32) {s : State} (hs : Sound f0 s) : Sound f0 (cfgBusy m off v s) := by
  unfold cfgBusy
  try dsimp only
  repeat' first | with_reducible assumption | with_reducible apply State.orReg_sound | with_reducible apply State.raise_sound | with_reducible apply sound_ite | split | with_reducible apply sound_mk | with_reducible refine Sound.parts ?_

theorem enable_sound {f0 : Fuses} (m : Nat) (v : W32) {s : State} (hs : Sound f0 s) : Sound f0 (enable m v s) := by
  unfold enable
  try dsimp only
  repeat' first | with_reducible assumption | with_reducible apply State.setReg_sound | with_reducible apply State.putMasked_sound | with_reducible apply State.setMsc_sound | with_reducible apply runStart_sound | with_reducible apply sound_ite | split | with_reducible apply sound_mk | with_reducible refine Sound.parts ?_

theorem disable_sound {f0 : Fuses} (m : Nat) {s : State} (hs : Sound f0 s) : Sound f0 (disable m s) := by
  unfold disable
  try dsimp only
  repeat' first | with_reducible assumption | with_reducible apply State.clrReg_sound | with_reducible apply State.setMsc_sound | with_reducible apply sound_ite | split | with_reducible apply sound_mk | with_reducible refine Sound.parts ?_

theorem ctlWrite_sound {f0 : Fuses} (m : Nat) (v : W32) {s : State} (hs : Sound f0 s) : Sound f0 (ctlWrite m v s) := by
  unfold ctlWrite
  try dsimp only
  repeat' first | with_reducible assumption | with_reducible apply State.putMasked_sound | with_reducible apply cfgBusy_sound | with_reducible apply enable_sound | with_reducible apply disable_sound | with_reducible apply sound_ite | split | with_reducible apply sound_mk | with_reducible refine Sound.parts ?_

theorem urgent_sound {f0 : Fuses} (m : Nat) (u : Nat) {s : State} (hs : Sound f0 s) : Sound f0 (urgent m u s) := by
  unfold urgent
  try dsimp only
  repeat' first | with_reducible assumption | with_reducible apply State.orReg_sound | with_reducible apply State.incReg_sound | with_reducible apply State.raise_sound | with_reducible apply State.setMsc_sound | with_reducible apply runStart_sound | with_reducible apply sound_ite | split | with_reducible apply sound_mk | with_reducible refine Sound.parts ?_

theorem bufWrite_sound {f0 : Fuses} (m : Nat) (word : W32) {s : State} (hs : Sound f0 s) : Sound f0 (bufWrite m word s) := by
  unfold bufWrite
  try dsimp only
  repeat' first | with_reducible assumption | with_reducible apply State.setReg_sound | with_reducible apply State.orReg_sound | with_reducible apply State.incReg_sound | with_reducible apply State.raise_sound | with_reducible apply State.tankPut_sound | with_reducible apply State.addSync_sound | with_reducible apply State.setMsc_sound | with_reducible apply sound_ite | split | with_reducible apply sound_mk | with_reducible refine Sound.parts ?_

theorem deliverWord_sound {f0 : Fuses} (m : Nat) (e : Nat) (word : W32) {s : State} (hs : Sound f0 s) : Sound f0 (deliverWord m e word s) := by
  unfold deliverWord
  try dsimp only
  repeat' first | with_reducible assumption | with_reducible apply State.setReg_sound | with_reducible apply State.orReg_sound | with_reducible apply bufWrite_sound | with_reducible apply sound_ite | split | with_reducible apply sound_mk | with_reducible refine Sound.parts ?_

theorem passOver_sound {f0 : Fuses} (m : Nat) (r : MsrRun) {s : State} (hs : Sound f0 s) : Sound f0 (passOver m r s) := by
  unfold passOver
  try dsimp only
  repeat' first | with_reducible assumption | with_reducible apply State.setMsc_sound | with_reducible apply runStart_sound | with_reducible apply passTrigger_sound | with_reducible apply sound_ite | split | with_reducible apply sound_mk | with_reducible refine Sound.parts ?_

theorem runOver_sound {f0 : Fuses} (m : Nat) (r : MsrRun) {s : State} (hs : Sound f0 s) : Sound f0 (runOver m r s) := by
  unfold runOver
  try dsimp only
  repeat' first | with_reducible assumption | with_reducible apply State.setMsc_sound | with_reducible apply runStart_sound | with_reducible apply passBegin_sound | with_reducible apply passOver_sound | with_reducible apply sound_ite | split | with_reducible apply sound_mk | with_reducible refine Sound.parts ?_

theorem result_sound {f0 : Fuses} (m : Nat) (r : MsrRun) (volts : Volts) (ovl : Bool) {s : State} (hs : Sound f0 s) : Sound f0 (result m r volts ovl s) := by
  unfold result
  try dsimp only
  repeat' first | with_reducible assumption | with_reducible apply State.incReg_sound | with_reducible apply State.setMsc_sound | with_reducible apply deliverWord_sound | with_reducible apply runOver_sound | with_reducible apply sound_ite | intro _ _ | split | with_reducible apply sound_mk | with_reducible refine Sound.parts ?_

theorem calEnd_sound {f0 : Fuses} (m : Nat) (step : Nat) (code : Nat) (pair : Nat) {s : State} (hs : Sound f0 s) : Sound f0 (calEnd m step code pair s) := by
  unfold calEnd
  try dsimp only
  repeat' first | with_reducible assumption | with_reducible apply State.setReg_sound | with_reducible apply State.raiseIf_sound | with_reducible apply sound_ite | split | with_reducible apply sound_mk | with_reducible refine Sound.parts ?_

theorem calStep_sound {f0 : Fuses} (m : Nat) (full : Bool) {s : State} (hs : Sound f0 s) : Sound f0 (calStep m full s) := by
  unfold calStep
  try dsimp only
  repeat' first | with_reducible assumption | with_reducible apply State.orReg_sound | with_reducible apply calEnd_sound | with_reducible apply sound_ite | split | with_reducible apply sound_mk | with_reducible refine Sound.parts ?_

theorem calResult_sound {f0 : Fuses} (m : Nat) (p : Nat) (full : Bool) (codes : List Int) {s : State} (hs : Sound f0 s) : Sound f0 (calResult m p full codes s) := by
  unfold calResult
  try dsimp only
  repeat' first | with_reducible assumption | with_reducible apply calEnd_sound | with_reducible apply sound_ite | split | with_reducible apply sound_mk | with_reducible refine Sound.parts ?_

theorem loadCal_sound {f0 : Fuses} {s : State} (hs : Sound f0 s) : Sound f0 (loadCal s) := by
  unfold loadCal
  try dsimp only
  repeat' first | with_reducible assumption | with_reducible apply State.orReg_sound | with_reducible apply State.raise_sound | with_reducible apply State.abRead_sound | with_reducible apply sound_ite | intro _ _ | refine sound_pair (by assumption) ?_ | split | with_reducible apply sound_mk | with_reducible refine Sound.parts ?_

theorem aoApply_sound {f0 : Fuses} {s : State} (w : AoWrite) (hs : Sound f0 s) : Sound f0 (aoApply s w) := by
  unfold aoApply
  try dsimp only
  repeat' first | with_reducible assumption | with_reducible apply State.setReg_sound | with_reducible apply State.onAct_sound | with_reducible apply sound_ite | intro _ _ | split | with_reducible apply sound_mk | with_reducible refine Sound.parts ?_

theorem statBit_sound {f0 : Fuses} (b : Nat) (on : Bool) (code : Nat) (pay : Nat) {s : State} (hs : Sound f0 s) : Sound f0 (statBit b on code pay s) := by
  unfold statBit
  try dsimp only
  repeat' first | with_reducible assumption | with_reducible apply State.setFld_sound | with_reducible apply State.raiseIf_sound | with_reducible apply sound_ite | split | with_reducible apply sound_mk | with_reducible refine Sound.parts ?_

theorem edgeSeen_sound {f0 : Fuses} (m : Nat) (n : Nat) (rising : Bool) {s : State} (hs : Sound f0 s) : Sound f0 (edgeSeen m n rising s) := by
  unfold edgeSeen
  try dsimp only
  repeat' first | with_reducible assumption | with_reducible apply State.setMsc_sound | with_reducible apply sound_ite | split | with_reducible apply sound_mk | with_reducible refine Sound.parts ?_

end Sys2Proof.Machine
end

