-- ==== Sys2Proof/Laws/SoundC.lean ====
section
/-!
SUPPORT. What every step keeps (`Sound`), operation by operation, callees first (3 of 5).
-/
set_option linter.unusedTactic false
set_option linter.unreachableTactic false
set_option linter.unusedVariables false

namespace Sys2Proof.Machine

theorem canReceive_sound {f0 : Fuses} (n : Nat) (f : CanFrame) {s : State} (hs : Sound f0 s) : Sound f0 (canReceive n f s) := by
  unfold canReceive
  try dsimp only
  repeat' first | with_reducible assumption | with_reducible apply State.incReg_sound | with_reducible apply State.raiseIf_sound | with_reducible apply State.setCan_sound | with_reducible apply sound_ite | split | with_reducible apply sound_mk | with_reducible refine Sound.parts ?_

theorem canState_sound {f0 : Fuses} (n : Nat) (tec : Nat) (rec : Nat) (st : Nat) {s : State} (hs : Sound f0 s) : Sound f0 (canState n tec rec st s) := by
  unfold canState
  try dsimp only
  repeat' first | with_reducible assumption | with_reducible apply State.setFld_sound | with_reducible apply State.raiseIf_sound | with_reducible apply State.setCan_sound | with_reducible apply sound_ite | split | with_reducible apply sound_mk | with_reducible refine Sound.parts ?_

theorem skimErrs_sound {f0 : Fuses} (c : Nat) (loc : Nat) (x2 : List Nat) {x3 : State} (hx3 : Sound f0 x3) : Sound f0 (skimErrs c loc x2 x3) := by
  induction x2 generalizing x3 with
  | nil => unfold skimErrs; (try dsimp only); repeat' first | with_reducible assumption | with_reducible apply State.setFld_sound | with_reducible apply State.orReg_sound | with_reducible apply State.raiseIf_sound | with_reducible apply sound_ite | split | with_reducible apply sound_mk | with_reducible refine Sound.parts ?_
  | cons _ _ ih => unfold skimErrs; (try dsimp only); repeat' first | with_reducible assumption | with_reducible apply ih | with_reducible apply State.setFld_sound | with_reducible apply State.orReg_sound | with_reducible apply State.raiseIf_sound | with_reducible apply sound_ite | split | with_reducible apply sound_mk | with_reducible refine Sound.parts ?_

theorem skimOvf_sound {f0 : Fuses} (c : Nat) (n : Nat) {s : State} (hs : Sound f0 s) : Sound f0 (skimOvf c n s) := by
  unfold skimOvf
  try dsimp only
  repeat' first | with_reducible assumption | with_reducible apply State.incReg_sound | with_reducible apply State.raiseOnce_sound | with_reducible apply sound_ite | split | with_reducible apply sound_mk | with_reducible refine Sound.parts ?_

theorem skimServe_sound {f0 : Fuses} (ctx : Nat) (c : Nat) (off : Nat) (loc : Nat) (prof : Option Nat) (inp : List Int) (segw : List Nat) (i16 : Bool) {s : State} (hs : Sound f0 s) : Sound f0 (skimServe ctx c off loc prof inp segw i16 s).1 := by
  unfold skimServe
  try dsimp only
  repeat' first | with_reducible assumption | with_reducible apply State.incWrap_sound | with_reducible apply State.readFx_sound | with_reducible apply State.poisonIf_sound | with_reducible apply skimErrs_sound | with_reducible apply skimOvf_sound | with_reducible apply sound_ite | split | with_reducible apply sound_mk | with_reducible refine Sound.parts ?_

theorem State.mapRun_sound {f0 : Fuses} {s : State} (a : Nat) (ctx : Nat) (id : Nat) (f : Run → Run) (hs : Sound f0 s) : Sound f0 (State.mapRun s a ctx id f) := by
  unfold State.mapRun
  try dsimp only
  repeat' first | with_reducible assumption | with_reducible apply State.setArr_sound | with_reducible apply sound_ite | intro _ _ | split | with_reducible apply sound_mk | with_reducible refine Sound.parts ?_

theorem laneTake_sound {f0 : Fuses} (c : Nat) (lane : Nat) (l : Lane) (off : Nat) (loc : Nat) (prof : Option Nat) (inp : List Int) (segw : List Nat) (i16 : Bool) {s : State} (hs : Sound f0 s) : Sound f0 (laneTake c lane l off loc prof inp segw i16 s) := by
  unfold laneTake
  try dsimp only
  repeat' first | with_reducible assumption | with_reducible apply State.setCore_sound | with_reducible apply skimServe_sound | with_reducible apply sound_ite | refine sound_pair (by assumption) ?_ | split | with_reducible apply sound_mk | with_reducible refine Sound.parts ?_

theorem laneWait_sound {f0 : Fuses} (c : Nat) (x : Nat × Nat) {s : State} (hs : Sound f0 s) : Sound f0 (laneWait c x s) := by
  unfold laneWait
  try dsimp only
  repeat' first | with_reducible assumption | with_reducible apply State.setCore_sound | with_reducible apply sound_ite | split | with_reducible apply sound_mk | with_reducible refine Sound.parts ?_

theorem skmLane_sound {f0 : Fuses} (c : Nat) (lane : Nat) (j : SkmJob) {s : State} (hs : Sound f0 s) : Sound f0 (skmLane c lane j s) := by
  unfold skmLane
  try dsimp only
  repeat' first | with_reducible assumption | with_reducible apply laneTake_sound | with_reducible apply sound_ite | split | with_reducible apply sound_mk | with_reducible refine Sound.parts ?_

theorem skimResult_sound {f0 : Fuses} (c : Nat) (l : Lane) (res : Bool) {s0 : State} (hs0 : Sound f0 s0) : Sound f0 (skimResult c l res s0) := by
  unfold skimResult
  try dsimp only
  repeat' first | with_reducible assumption | with_reducible apply State.endWork_sound | with_reducible apply State.poison_sound | with_reducible apply State.setCore_sound | with_reducible apply State.residue_sound | with_reducible apply State.mapRun_sound | with_reducible apply sound_ite | intro _ _ | split | with_reducible apply sound_mk | with_reducible refine Sound.parts ?_

theorem skmBody_sound {f0 : Fuses} (i : Nat) (w : BitVec 56) {s : State} (hs : Sound f0 s) : (skmBody i w s).sound f0 := by
  unfold skmBody
  extract_lets c core d row off ro tile rng lst prof out bad s0 inp
  refine Res.sound_ite True.intro (Res.sound_ite True.intro ?_)
  split
  · refine Res.sound_ite True.intro ?_
    extract_lets p s1 job k s2
    have h0 : Sound f0 s0 := sound_ite (State.readFx_sound _ _ _ _ _ hs) hs
    have h2 : Sound f0 s2 := State.setCore_sound _ _ (State.onCtx_sound _ _ (State.readFx_sound _ _ _ _ _ h0))
    refine Res.sound_ok (State.poisonIf_sound _ _ ?_)
    split
    · exact skmLane_sound _ _ _ h2
    · exact laneWait_sound _ _ h2
  · exact True.intro

theorem skmClear_sound {f0 : Fuses} (c : Nat) {s : State} (hs : Sound f0 s) : Sound f0 (skmClear c s) := by
  unfold skmClear
  try dsimp only
  repeat' first | with_reducible assumption | with_reducible apply State.setReg_sound | with_reducible apply State.rearm_sound | with_reducible apply sound_ite | split | with_reducible apply sound_mk | with_reducible refine Sound.parts ?_

theorem State.setHq_sound {f0 : Fuses} {s : State} (q : Nat) (h : HQueue) (hs : Sound f0 s) : Sound f0 (State.setHq s q h) := by
  unfold State.setHq
  try dsimp only
  repeat' first | with_reducible assumption | with_reducible apply sound_ite | split | with_reducible apply sound_mk | with_reducible refine Sound.parts ?_

theorem State.endCmd_sound {f0 : Fuses} {s : State} (q : Nat) (c : HCmd) (status : Nat) (result : Nat) (hs : Sound f0 s) : Sound f0 (State.endCmd s q c status result) := by
  unfold State.endCmd
  try dsimp only
  repeat' first | with_reducible assumption | with_reducible apply State.raise_sound | with_reducible apply result_sound | with_reducible apply State.setHq_sound | with_reducible apply sound_ite | split | with_reducible apply sound_mk | with_reducible refine Sound.parts ?_

theorem State.dropCmd_sound {f0 : Fuses} {s : State} (q : Nat) (c : HCmd) (hs : Sound f0 s) : Sound f0 (State.dropCmd s q c) := by
  unfold State.dropCmd
  try dsimp only
  repeat' first | with_reducible assumption | with_reducible apply State.setHq_sound | with_reducible apply sound_ite | split | with_reducible apply sound_mk | with_reducible refine Sound.parts ?_

theorem State.finish_sound {f0 : Fuses} {s : State} (q : Nat) (c : HCmd) (status : Nat) (result : Nat) (hs : Sound f0 s) : Sound f0 (State.finish s q c status result) := by
  unfold State.finish
  try dsimp only
  repeat' first | with_reducible assumption | with_reducible apply result_sound | with_reducible apply State.endCmd_sound | with_reducible apply State.dropCmd_sound | with_reducible apply sound_ite | split | with_reducible apply sound_mk | with_reducible refine Sound.parts ?_

theorem State.startCmd_sound {f0 : Fuses} {s : State} (q : Nat) (raw : List Byte) (head : Nat) (hs : Sound f0 s) : Sound f0 (State.startCmd s q raw head) := by
  unfold State.startCmd
  try dsimp only
  repeat' first | with_reducible assumption | with_reducible apply State.setHq_sound | with_reducible apply State.endCmd_sound | with_reducible apply sound_ite | intro _ _ | split | with_reducible apply sound_mk | with_reducible refine Sound.parts ?_

theorem fetchN_sound {f0 : Fuses} (q : Nat) (len : Nat) (base : Nat) (x3 : Nat) {x4 : State} (hx4 : Sound f0 x4) : Sound f0 (fetchN q len base x3 x4) := by
  induction x3 generalizing x4 with
  | zero => unfold fetchN; (try dsimp only); repeat' first | with_reducible assumption | with_reducible apply State.setHq_sound | with_reducible apply State.startCmd_sound | with_reducible apply sound_ite | split | with_reducible apply sound_mk | with_reducible refine Sound.parts ?_
  | succ _ ih => unfold fetchN; (try dsimp only); repeat' first | with_reducible assumption | with_reducible apply ih | with_reducible apply State.setHq_sound | with_reducible apply State.startCmd_sound | with_reducible apply sound_ite | split | with_reducible apply sound_mk | with_reducible refine Sound.parts ?_

theorem fetchFail_sound {f0 : Fuses} (q : Nat) {s : State} (hs : Sound f0 s) : Sound f0 (fetchFail q s) := by
  unfold fetchFail
  try dsimp only
  repeat' first | with_reducible assumption | with_reducible apply State.clrReg_sound | with_reducible apply State.hstRefuse_sound | with_reducible apply sound_ite | split | with_reducible apply sound_mk | with_reducible refine Sound.parts ?_

theorem doorbell_sound {f0 : Fuses} (q : Nat) (v : W32) (fails : Option Nat) {s : State} (hs : Sound f0 s) : Sound f0 (doorbell q v fails s) := by
  unfold doorbell
  try dsimp only
  repeat' first | with_reducible assumption | with_reducible apply State.hstRefuse_sound | with_reducible apply State.setHq_sound | with_reducible apply fetchN_sound | with_reducible apply fetchFail_sound | with_reducible apply sound_ite | intro _ _ | split | with_reducible apply sound_mk | with_reducible refine Sound.parts ?_

theorem writeCompletion_sound {f0 : Fuses} (q : Nat) {s : State} (hs : Sound f0 s) : Sound f0 (writeCompletion q s) := by
  unfold writeCompletion
  try dsimp only
  repeat' first | with_reducible assumption | with_reducible apply State.msix_sound | with_reducible apply State.hostWrite_sound | with_reducible apply State.setHq_sound | with_reducible apply sound_ite | split | with_reducible apply sound_mk | with_reducible refine Sound.parts ?_

theorem queueEnable_sound {f0 : Fuses} (p : Nat) (off : Nat) (on : Bool) {s : State} (hs : Sound f0 s) : Sound f0 (queueEnable p off on s) := by
  unfold queueEnable
  try dsimp only
  repeat' first | with_reducible assumption | with_reducible apply State.setEq_sound | with_reducible apply State.lossRec_sound | with_reducible apply State.setHq_sound | with_reducible apply sound_ite | split | with_reducible apply sound_mk | with_reducible refine Sound.parts ?_

theorem queueConfig_sound {f0 : Fuses} (p : Nat) (off : Nat) (who : Who) (v : W32) {s : State} (hs : Sound f0 s) : Sound f0 (queueConfig p off who v s) := by
  unfold queueConfig
  try dsimp only
  repeat' first | with_reducible assumption | with_reducible apply State.clrReg_sound | with_reducible apply State.hstErr_sound | with_reducible apply State.endHeld_sound | with_reducible apply State.putMasked_sound | with_reducible apply State.writeWord_sound | with_reducible apply queueEnable_sound | with_reducible apply sound_ite | split | with_reducible apply sound_mk | with_reducible refine Sound.parts ?_

theorem resetPort_sound {f0 : Fuses} (p : Nat) {s : State} (hs : Sound f0 s) : Sound f0 (resetPort p s) := by
  unfold resetPort
  try dsimp only
  repeat' first | with_reducible assumption | with_reducible apply State.clrReg_sound | with_reducible apply State.setHq_sound | with_reducible apply sound_ite | with_reducible apply sound_foldl_fst | with_reducible apply sound_foldl | intro _ _ _ | intro _ _ | split | with_reducible apply sound_mk | with_reducible refine Sound.parts ?_

theorem portReset_sound {f0 : Fuses} (p : Nat) (kind : Nat) {s : State} (hs : Sound f0 s) : Sound f0 (portReset p kind s) := by
  unfold portReset
  try dsimp only
  repeat' first | with_reducible assumption | with_reducible apply State.raise_sound | with_reducible apply State.when_sound | with_reducible apply resetPort_sound | with_reducible apply sound_ite | split | with_reducible apply sound_mk | with_reducible refine Sound.parts ?_

theorem sendPending_sound {f0 : Fuses} (p : Nat) (v : Nat) {s : State} (hs : Sound f0 s) : Sound f0 (sendPending p v s) := by
  unfold sendPending
  try dsimp only
  repeat' first | with_reducible assumption | with_reducible apply State.msix_sound | with_reducible apply sound_ite | split | with_reducible apply sound_mk | with_reducible refine Sound.parts ?_

theorem sendUnmasked_sound {f0 : Fuses} (p : Nat) {s : State} (hs : Sound f0 s) : Sound f0 (sendUnmasked p s) := by
  unfold sendUnmasked
  try dsimp only
  repeat' first | with_reducible assumption | with_reducible apply State.msix_sound | with_reducible apply sendPending_sound | with_reducible apply sound_ite | with_reducible apply sound_foldl_fst | with_reducible apply sound_foldl | intro _ _ _ | intro _ _ | split | with_reducible apply sound_mk | with_reducible refine Sound.parts ?_

theorem State.setEntry_sound {f0 : Fuses} {s : State} (core : Nat) (i : Nat) (e : BitVec 128) (hs : Sound f0 s) : Sound f0 (State.setEntry s core i e) := by
  unfold State.setEntry
  try dsimp only
  repeat' first | with_reducible assumption | with_reducible apply State.setReg_sound | with_reducible apply sound_ite | with_reducible apply sound_foldl_fst | with_reducible apply sound_foldl | intro _ _ _ | intro _ _ | split | with_reducible apply sound_mk | with_reducible refine Sound.parts ?_

theorem State.mapEntries_sound {f0 : Fuses} {s : State} (p : Nat → BitVec 128 → Bool) (f : BitVec 128 → BitVec 128) (hs : Sound f0 s) : Sound f0 (State.mapEntries s p f) := by
  unfold State.mapEntries
  try dsimp only
  repeat' first | with_reducible assumption | with_reducible apply State.setEntry_sound | with_reducible apply sound_ite | with_reducible apply sound_foldl_fst | with_reducible apply sound_foldl | intro _ _ _ | intro _ _ | split | with_reducible apply sound_mk | with_reducible refine Sound.parts ?_

theorem State.askReload_sound {f0 : Fuses} {s : State} (slot : Nat) (layer : Nat) (hs : Sound f0 s) : Sound f0 (State.askReload s slot layer) := by
  unfold State.askReload
  try dsimp only
  repeat' first | with_reducible assumption | with_reducible apply sound_ite | split | with_reducible apply sound_mk | with_reducible refine Sound.parts ?_

theorem State.recRead_sound {f0 : Fuses} {s : State} (a : Nat) (hs : Sound f0 s) : Sound f0 (State.recRead s a) := by
  unfold State.recRead
  try dsimp only
  repeat' first | with_reducible assumption | with_reducible apply State.nvsRead_sound | with_reducible apply sound_ite | split | with_reducible apply sound_mk | with_reducible refine Sound.parts ?_

theorem State.pressWrite_sound {f0 : Fuses} {s : State} (off : Nat) (n : Nat) (v : Nat) (a : Nat) (kind : Nat) (hs : Sound f0 s) : Sound f0 (State.pressWrite s off n v a kind) := by
  unfold State.pressWrite
  try dsimp only
  repeat' first | with_reducible assumption | with_reducible apply State.nvsPut_sound | with_reducible apply sound_ite | split | with_reducible apply sound_mk | with_reducible refine Sound.parts ?_

theorem State.unprogram_sound {f0 : Fuses} {s : State} (a : Nat) (hs : Sound f0 s) : Sound f0 (State.unprogram s a) := by
  unfold State.unprogram
  try dsimp only
  repeat' first | with_reducible assumption | with_reducible apply State.pressWrite_sound | with_reducible apply sound_ite | split | with_reducible apply sound_mk | with_reducible refine Sound.parts ?_

theorem State.sparesHealth_sound {f0 : Fuses} {s : State} (hs : Sound f0 s) : Sound f0 (State.sparesHealth s) := by
  unfold State.sparesHealth
  try dsimp only
  repeat' first | with_reducible assumption | with_reducible apply State.clrReg_sound | with_reducible apply State.health_sound | with_reducible apply sound_ite | intro _ _ | split | with_reducible apply sound_mk | with_reducible refine Sound.parts ?_

theorem State.putReserve_sound {f0 : Fuses} {s : State} (c : Nat) (n : Nat) (hs : Sound f0 s) : Sound f0 (State.putReserve s c n) := by
  unfold State.putReserve
  exact State.setFld_sound _ _ _ _ hs

theorem State.setReserve_sound {f0 : Fuses} {s : State} (c : Nat) (n : Nat) (borrowed : Nat) (hs : Sound f0 s) : Sound f0 (State.setReserve s c n borrowed) := by
  unfold State.setReserve
  try dsimp only
  repeat' first | with_reducible assumption | with_reducible apply State.raiseIf_sound | with_reducible apply State.sparesHealth_sound | with_reducible apply State.putReserve_sound | with_reducible apply sound_ite | split | with_reducible apply sound_mk | with_reducible refine Sound.parts ?_

theorem State.reservesSet_sound {f0 : Fuses} {s : State} (hs : Sound f0 s) : Sound f0 (State.reservesSet s) := by
  unfold State.reservesSet
  try dsimp only
  repeat' first | with_reducible assumption | with_reducible apply State.sparesHealth_sound | with_reducible apply State.putReserve_sound | with_reducible apply sound_ite | with_reducible apply sound_foldl_fst | with_reducible apply sound_foldl | intro _ _ _ | intro _ _ | split | with_reducible apply sound_mk | with_reducible refine Sound.parts ?_

theorem State.takeSub_sound {f0 : Fuses} {s : State} (c : Nat) (hs : Sound f0 s) : Sound f0 (State.takeSub s c).1 := by
  unfold State.takeSub
  try dsimp only
  repeat' first | with_reducible assumption | with_reducible apply State.setReserve_sound | with_reducible apply sound_ite | split | with_reducible apply sound_mk | with_reducible refine Sound.parts ?_

theorem State.retire_sound {f0 : Fuses} {s : State} (a : Nat) (col : Nat) (hs : Sound f0 s) : ∀ t, State.retire s a col = some t → Sound f0 t := by
  intro t ht
  unfold State.retire at ht
  dsimp only at ht
  split at ht
  · cases ht; exact hs
  · split at ht
    · cases ht; exact State.pressWrite_sound _ _ _ _ _ hs
    · cases ht

theorem retireAll_sound {f0 : Fuses} (a : Nat) (x1 : List Nat) {x2 : State} (hx2 : Sound f0 x2) : Sound f0 (retireAll a x1 x2).1 := by
  induction x1 generalizing x2 with
  | nil => exact hx2
  | cons c r ih =>
    unfold retireAll
    refine ih ?_
    cases hq : State.retire x2 a c with
    | some t => exact State.retire_sound _ _ hx2 t hq
    | none => exact State.raise_sound _ _ _ _ hx2

theorem putPlace_sound {f0 : Fuses} (img : Nat) (slot : Nat) (res : Bool) (p : Place) {s : State} (hs : Sound f0 s) : Sound f0 (putPlace img slot res p s) := by
  unfold putPlace
  try dsimp only
  repeat' first | with_reducible assumption | with_reducible apply State.setEntry_sound | with_reducible apply sound_ite | split | with_reducible apply sound_mk | with_reducible refine Sound.parts ?_

theorem State.setResident_sound {f0 : Fuses} {s : State} (slot : Nat) (layer : Nat) (on : Bool) (hs : Sound f0 s) : Sound f0 (State.setResident s slot layer on) := by
  unfold State.setResident
  try dsimp only
  repeat' first | with_reducible assumption | with_reducible apply State.mapEntries_sound | with_reducible apply sound_ite | intro _ _ | split | with_reducible apply sound_mk | with_reducible refine Sound.parts ?_

theorem makeDue_sound {f0 : Fuses} (a : Nat) (cls : Nat) {s : State} (hs : Sound f0 s) : Sound f0 (makeDue a cls s) := by
  unfold makeDue
  try dsimp only
  repeat' first | with_reducible assumption | with_reducible apply State.setArr_sound | with_reducible apply sound_ite | intro _ _ | split | with_reducible apply sound_mk | with_reducible refine Sound.parts ?_

theorem firstDue_sound {f0 : Fuses} (a : Nat) {s : State} (hs : Sound f0 s) : Sound f0 (firstDue a s) := by
  unfold firstDue
  try dsimp only
  repeat' first | with_reducible assumption | with_reducible apply State.when_sound | with_reducible apply makeDue_sound | with_reducible apply sound_ite | split | with_reducible apply sound_mk | with_reducible refine Sound.parts ?_

theorem State.onImage_sound {f0 : Fuses} {s : State} (slot : Nat) (f : Image → Image) (hs : Sound f0 s) : Sound f0 (State.onImage s slot f) := by
  unfold State.onImage
  try dsimp only
  repeat' first | with_reducible assumption | with_reducible apply sound_ite | split | with_reducible apply sound_mk | with_reducible refine Sound.parts ?_

theorem finishRepair_sound {f0 : Fuses} (r : Repair) (sub : Nat) (spare : Bool) {s : State} (hs : Sound f0 s) : Sound f0 (finishRepair r sub spare s) := by
  unfold finishRepair
  try dsimp only
  repeat' first | with_reducible assumption | with_reducible apply State.raise_sound | with_reducible apply State.setArr_sound | with_reducible apply State.mapEntries_sound | with_reducible apply State.unprogram_sound | with_reducible apply State.onImage_sound | with_reducible apply sound_ite | intro _ _ | split | with_reducible apply sound_mk | with_reducible refine Sound.parts ?_

theorem finishReload_sound {f0 : Fuses} (r : Reload) (x : Image) {s : State} (hs : Sound f0 s) : Sound f0 (finishReload r x s) := by
  unfold finishReload
  try dsimp only
  repeat' first | with_reducible assumption | with_reducible apply State.raise_sound | with_reducible apply State.setResident_sound | with_reducible apply State.onImage_sound | with_reducible apply sound_ite | intro _ _ | split | with_reducible apply sound_mk | with_reducible refine Sound.parts ?_

theorem pressedDone_sound {f0 : Fuses} (a : Nat) {s : State} (hs : Sound f0 s) : Sound f0 (pressedDone a s) := by
  unfold pressedDone
  try dsimp only
  repeat' first | with_reducible assumption | with_reducible apply finishRepair_sound | with_reducible apply finishReload_sound | with_reducible apply sound_ite | intro _ _ | split | with_reducible apply sound_mk | with_reducible refine Sound.parts ?_

theorem noRepair_sound {f0 : Fuses} (a : Nat) (slot : Nat) {s : State} (hs : Sound f0 s) : Sound f0 (noRepair a slot s) := by
  unfold noRepair
  try dsimp only
  repeat' first | with_reducible assumption | with_reducible apply State.raise_sound | with_reducible apply State.health_sound | with_reducible apply State.mapEntries_sound | with_reducible apply sound_ite | intro _ _ | split | with_reducible apply sound_mk | with_reducible refine Sound.parts ?_

theorem repairFor_sound {f0 : Fuses} (a : Nat) {s : State} (hs : Sound f0 s) : Sound f0 (repairFor a s) := by
  unfold repairFor
  try dsimp only
  repeat' first | with_reducible assumption | with_reducible apply noRepair_sound | with_reducible apply sound_ite | intro _ _ | split | with_reducible apply sound_mk | with_reducible refine Sound.parts ?_

theorem loadEnd_sound {f0 : Fuses} (src : LoadSrc) (op : Nat) (code : Nat) (slot : Nat) {s : State} (hs : Sound f0 s) : Sound f0 (loadEnd src op code slot s) := by
  unfold loadEnd
  try dsimp only
  repeat' first | with_reducible assumption | with_reducible apply State.setReg_sound | with_reducible apply State.finish_sound | with_reducible apply sound_ite | split | with_reducible apply sound_mk | with_reducible refine Sound.parts ?_

theorem giveBack_sound {f0 : Fuses} (t : Tab Nat) {s : State} (hs : Sound f0 s) : Sound f0 (giveBack t s) := by
  unfold giveBack
  try dsimp only
  repeat' first | with_reducible assumption | with_reducible apply State.setReserve_sound | with_reducible apply sound_ite | with_reducible apply sound_foldl_fst | with_reducible apply sound_foldl | intro _ _ _ | intro _ _ | split | with_reducible apply sound_mk | with_reducible refine Sound.parts ?_

theorem State.mapArrs_sound {f0 : Fuses} {s : State} (p : Nat → Bool) (f : Arr → Arr) (hs : Sound f0 s) : Sound f0 (State.mapArrs s p f) := by
  unfold State.mapArrs
  try dsimp only
  repeat' first | with_reducible assumption | with_reducible apply State.setArr_sound | with_reducible apply sound_ite | with_reducible apply sound_foldl_fst | with_reducible apply sound_foldl | intro _ _ _ | intro _ _ | split | with_reducible apply sound_mk | with_reducible refine Sound.parts ?_

theorem State.detachArrs_sound {f0 : Fuses} (mine : Nat → Bool) {s : State} (hs : Sound f0 s) : Sound f0 (State.detachArrs mine s) := by
  unfold State.detachArrs
  try dsimp only
  repeat' first | with_reducible assumption | with_reducible apply firstDue_sound | with_reducible apply State.mapArrs_sound | with_reducible apply sound_ite | with_reducible apply sound_foldl_fst | with_reducible apply sound_foldl | intro _ _ _ | intro _ _ | split | with_reducible apply sound_mk | with_reducible refine Sound.parts ?_

theorem dropArr_sound {f0 : Fuses} (a : Nat) {s : State} (hs : Sound f0 s) : Sound f0 (dropArr a s) := by
  unfold dropArr
  try dsimp only
  repeat' first | with_reducible assumption | with_reducible apply State.setArr_sound | with_reducible apply State.unprogram_sound | with_reducible apply sound_ite | split | with_reducible apply sound_mk | with_reducible refine Sound.parts ?_

theorem refuseLoad_sound {f0 : Fuses} (code : Nat) {s : State} (hs : Sound f0 s) : Sound f0 (refuseLoad code s) := by
  unfold refuseLoad
  try dsimp only
  repeat' first | with_reducible assumption | with_reducible apply loadEnd_sound | with_reducible apply giveBack_sound | with_reducible apply State.detachArrs_sound | with_reducible apply dropArr_sound | with_reducible apply sound_ite | with_reducible apply sound_foldl_fst | with_reducible apply sound_foldl | intro _ _ _ | intro _ _ | split | with_reducible apply sound_mk | with_reducible refine Sound.parts ?_

theorem loadSub_sound {f0 : Fuses} (a : Nat) {s : State} (hs : Sound f0 s) : Sound f0 (loadSub a s) := by
  unfold loadSub
  try dsimp only
  repeat' first | with_reducible assumption | with_reducible apply State.takeSub_sound | with_reducible apply refuseLoad_sound | with_reducible apply sound_ite | intro _ _ | refine sound_pair (by assumption) ?_ | split | with_reducible apply sound_mk | with_reducible refine Sound.parts ?_

theorem trapStalled_sound {f0 : Fuses} (slot : Nat) (layer : Nat) {s : State} (hs : Sound f0 s) : Sound f0 (trapStalled slot layer s) := by
  unfold trapStalled
  try dsimp only
  repeat' first | with_reducible assumption | with_reducible apply State.trap_sound | with_reducible apply sound_ite | with_reducible apply sound_foldl_fst | with_reducible apply sound_foldl | intro _ _ _ | intro _ _ | split | with_reducible apply sound_mk | with_reducible refine Sound.parts ?_

theorem refuseReload_sound {f0 : Fuses} (slot : Nat) (layer : Nat) {s : State} (hs : Sound f0 s) : Sound f0 (refuseReload slot layer s) := by
  unfold refuseReload
  try dsimp only
  repeat' first | with_reducible assumption | with_reducible apply State.raise_sound | with_reducible apply State.health_sound | with_reducible apply trapStalled_sound | with_reducible apply sound_ite | intro _ _ | split | with_reducible apply sound_mk | with_reducible refine Sound.parts ?_

theorem reloadSub_sound {f0 : Fuses} (a : Nat) (r : Reload) {s : State} (hs : Sound f0 s) : Sound f0 (reloadSub a r s) := by
  unfold reloadSub
  try dsimp only
  repeat' first | with_reducible assumption | with_reducible apply State.mapEntries_sound | with_reducible apply State.onImage_sound | with_reducible apply refuseReload_sound | with_reducible apply sound_ite | intro _ _ | split | with_reducible apply sound_mk | with_reducible refine Sound.parts ?_

theorem failedArr_sound {f0 : Fuses} (a : Nat) {s : State} (hs : Sound f0 s) : Sound f0 (failedArr a s) := by
  unfold failedArr
  try dsimp only
  repeat' first | with_reducible assumption | with_reducible apply noRepair_sound | with_reducible apply repairFor_sound | with_reducible apply loadSub_sound | with_reducible apply reloadSub_sound | with_reducible apply sound_ite | intro _ _ | split | with_reducible apply sound_mk | with_reducible refine Sound.parts ?_

theorem wornArr_sound {f0 : Fuses} (a : Nat) {s : State} (hs : Sound f0 s) : Sound f0 (wornArr a s) := by
  unfold wornArr
  try dsimp only
  repeat' first | with_reducible assumption | with_reducible apply State.raise_sound | with_reducible apply failedArr_sound | with_reducible apply sound_ite | intro _ _ | split | with_reducible apply sound_mk | with_reducible refine Sound.parts ?_

theorem startTasks_sound {f0 : Fuses} {s : State} (hs : Sound f0 s) : Sound f0 (startTasks s) := by
  unfold startTasks
  try dsimp only
  repeat' first | with_reducible assumption | with_reducible apply State.setReg_sound | with_reducible apply State.nvsRead_sound | with_reducible apply State.abRead_sound | with_reducible apply State.unprogram_sound | with_reducible apply State.reservesSet_sound | with_reducible apply sound_ite | with_reducible apply sound_foldl_fst | with_reducible apply sound_foldl | intro _ _ _ | intro _ _ | refine sound_pair (by assumption) ?_ | split | with_reducible apply sound_mk | with_reducible refine Sound.parts ?_

theorem checkGroups_sound {f0 : Fuses} (a : Nat) (r : Run) (x2 : List Nat) {x3 : State} (hx3 : Sound f0 x3) : Sound f0 (checkGroups a r x2 x3).1 := by
  induction x2 generalizing x3 with
  | nil => unfold checkGroups; (try dsimp only); repeat' first | with_reducible assumption | with_reducible apply State.incReg_sound | with_reducible apply State.usePert_sound | with_reducible apply sound_ite | split | with_reducible apply sound_mk | with_reducible refine Sound.parts ?_
  | cons _ _ ih => unfold checkGroups; (try dsimp only); repeat' first | with_reducible assumption | with_reducible apply ih | with_reducible apply State.incReg_sound | with_reducible apply State.usePert_sound | with_reducible apply sound_ite | split | with_reducible apply sound_mk | with_reducible refine Sound.parts ?_

theorem readDirect_sound {f0 : Fuses} (core : Nat) (off : Nat) {s : State} (hs : Sound f0 s) : Sound f0 (readDirect core off s).1 := by
  unfold readDirect
  try dsimp only
  repeat' first | with_reducible assumption | with_reducible apply State.readFx_sound | with_reducible apply sound_ite | split | with_reducible apply sound_mk | with_reducible refine Sound.parts ?_

theorem directOut_sound {f0 : Fuses} (a : Nat) (r : Run) (hit : List Nat) (vals : List Int) (tags : List Nat) {s : State} (hs : Sound f0 s) : Sound f0 (directOut a r hit vals tags s) := by
  unfold directOut
  try dsimp only
  repeat' first | with_reducible assumption | with_reducible apply State.raise_sound | with_reducible apply State.readFx_sound | with_reducible apply State.setArr_sound | with_reducible apply State.accErr_sound | with_reducible apply State.residue_sound | with_reducible apply State.putOut_sound | with_reducible apply readDirect_sound | with_reducible apply sound_ite | with_reducible apply sound_foldl_fst | with_reducible apply sound_foldl | intro _ _ _ | intro _ _ | refine sound_pair (by assumption) ?_ | split | with_reducible apply sound_mk | with_reducible refine Sound.parts ?_

theorem deliver_sound {f0 : Fuses} (a : Nat) (r : Run) (hit : List Nat) (vals : List Int) (tags : List Nat) {s : State} (hs : Sound f0 s) : Sound f0 (deliver a r hit vals tags s) := by
  unfold deliver
  try dsimp only
  repeat' first | with_reducible assumption | with_reducible apply State.incWrap_sound | with_reducible apply State.endWork_sound | with_reducible apply State.setArr_sound | with_reducible apply directOut_sound | with_reducible apply sound_ite | intro _ _ | split | with_reducible apply sound_mk | with_reducible refine Sound.parts ?_

theorem failRun_sound {f0 : Fuses} (a : Nat) (r : Run) {s : State} (hs : Sound f0 s) : Sound f0 (failRun a r s) := by
  unfold failRun
  try dsimp only
  repeat' first | with_reducible assumption | with_reducible apply deliver_sound | with_reducible apply sound_ite | split | with_reducible apply sound_mk | with_reducible refine Sound.parts ?_

theorem failRuns_sound {f0 : Fuses} (a : Nat) (x1 : List Run) {x2 : State} (hx2 : Sound f0 x2) : Sound f0 (failRuns a x1 x2) := by
  induction x1 generalizing x2 with
  | nil => unfold failRuns; (try dsimp only); repeat' first | with_reducible assumption | with_reducible apply State.setArr_sound | with_reducible apply failRun_sound | with_reducible apply sound_ite | intro _ _ | split | with_reducible apply sound_mk | with_reducible refine Sound.parts ?_
  | cons _ _ ih => unfold failRuns; (try dsimp only); repeat' first | with_reducible assumption | with_reducible apply ih | with_reducible apply State.setArr_sound | with_reducible apply failRun_sound | with_reducible apply sound_ite | intro _ _ | split | with_reducible apply sound_mk | with_reducible refine Sound.parts ?_

theorem State.askStatus_sound {f0 : Fuses} {s : State} (core : Nat) (k : Nat) (rst : Nat) (ctr : Nat) (entry : Nat) (kind : Nat) (code : Nat) (hs : Sound f0 s) : Sound f0 (State.askStatus s core k rst ctr entry kind code) := by
  unfold State.askStatus
  try dsimp only
  repeat' first | with_reducible assumption | with_reducible apply State.tankPut_sound | with_reducible apply State.sigNow_sound | with_reducible apply State.poisonIf_sound | with_reducible apply sound_ite | split | with_reducible apply sound_mk | with_reducible refine Sound.parts ?_

theorem State.onAsks_sound {f0 : Fuses} {s : State} (c : Nat) (f : List Ask → List Ask) (hs : Sound f0 s) : Sound f0 (State.onAsks s c f) := by
  unfold State.onAsks
  try dsimp only
  repeat' first | with_reducible assumption | with_reducible apply State.setCore_sound | with_reducible apply sound_ite | split | with_reducible apply sound_mk | with_reducible refine Sound.parts ?_

theorem State.onTests_sound {f0 : Fuses} {s : State} (c : Nat) (f : List Ask → List Ask) (hs : Sound f0 s) : Sound f0 (State.onTests s c f) := by
  unfold State.onTests
  try dsimp only
  repeat' first | with_reducible assumption | with_reducible apply State.setCore_sound | with_reducible apply sound_ite | split | with_reducible apply sound_mk | with_reducible refine Sound.parts ?_

theorem reportTest_sound {f0 : Fuses} (core : Nat) (q : Ask) (code : Nat) {s : State} (hs : Sound f0 s) : Sound f0 (reportTest core q code s) := by
  unfold reportTest
  try dsimp only
  repeat' first | with_reducible assumption | with_reducible apply State.setReg_sound | with_reducible apply State.finish_sound | with_reducible apply State.askStatus_sound | with_reducible apply sound_ite | split | with_reducible apply sound_mk | with_reducible refine Sound.parts ?_

theorem endTests_sound {f0 : Fuses} (a : Nat) (code : Nat) (p : Ask → Bool) {s : State} (hs : Sound f0 s) : Sound f0 (endTests a code p s) := by
  unfold endTests
  try dsimp only
  repeat' first | with_reducible assumption | with_reducible apply State.onTests_sound | with_reducible apply reportTest_sound | with_reducible apply sound_ite | with_reducible apply sound_foldl_fst | with_reducible apply sound_foldl | intro _ _ _ | intro _ _ | split | with_reducible apply sound_mk | with_reducible refine Sound.parts ?_

theorem stopAsks_sound {f0 : Fuses} (a : Nat) (code : Nat) {s : State} (hs : Sound f0 s) : Sound f0 (stopAsks a code s) := by
  unfold stopAsks
  try dsimp only
  repeat' first | with_reducible assumption | with_reducible apply State.onAsks_sound | with_reducible apply endTests_sound | with_reducible apply sound_ite | intro _ _ | split | with_reducible apply sound_mk | with_reducible refine Sound.parts ?_

theorem enterFault_sound {f0 : Fuses} (a : Nat) (cause : Nat) {s : State} (hs : Sound f0 s) : Sound f0 (enterFault a cause s) := by
  unfold enterFault
  try dsimp only
  repeat' first | with_reducible assumption | with_reducible apply State.raise_sound | with_reducible apply State.setArr_sound | with_reducible apply State.setCore_sound | with_reducible apply failedArr_sound | with_reducible apply failRuns_sound | with_reducible apply stopAsks_sound | with_reducible apply sound_ite | intro _ _ | split | with_reducible apply sound_mk | with_reducible refine Sound.parts ?_

theorem retryFailed_sound {f0 : Fuses} (a : Nat) (r : Run) (fails : List Nat) {s : State} (hs : Sound f0 s) : Sound f0 (retryFailed a r fails s) := by
  unfold retryFailed
  try dsimp only
  repeat' first | with_reducible assumption | with_reducible apply State.incReg_sound | with_reducible apply State.raiseIf_sound | with_reducible apply State.health_sound | with_reducible apply State.setArr_sound | with_reducible apply urgent_sound | with_reducible apply enterFault_sound | with_reducible apply sound_ite | with_reducible apply sound_foldl_fst | with_reducible apply sound_foldl | intro _ _ _ | intro _ _ | split | with_reducible apply sound_mk | with_reducible refine Sound.parts ?_

theorem combine_sound {f0 : Fuses} (a : Nat) (r : Run) (rest : List Held) (res : StageResidues) {s : State} (hs : Sound f0 s) : Sound f0 (combine a r rest res s) := by
  unfold combine
  try dsimp only
  repeat' first | with_reducible assumption | with_reducible apply State.incReg_sound | with_reducible apply State.setArr_sound | with_reducible apply State.residue_sound | with_reducible apply checkGroups_sound | with_reducible apply deliver_sound | with_reducible apply retryFailed_sound | with_reducible apply sound_ite | with_reducible apply sound_foldl_fst | with_reducible apply sound_foldl | intro _ _ _ | intro _ _ | refine sound_pair (by assumption) ?_ | split | with_reducible apply sound_mk | with_reducible refine Sound.parts ?_

theorem countClamps_sound {f0 : Fuses} (a : Nat) (phase : Nat) (codes : Tab (Int × Bool)) {s : State} (hs : Sound f0 s) : Sound f0 (countClamps a phase codes s) := by
  unfold countClamps
  try dsimp only
  repeat' first | with_reducible assumption | with_reducible apply State.setReg_sound | with_reducible apply State.incReg_sound | with_reducible apply State.raiseOnce_sound | with_reducible apply sound_ite | with_reducible apply sound_foldl_fst | with_reducible apply sound_foldl | intro _ _ _ | intro _ _ | split | with_reducible apply sound_mk | with_reducible refine Sound.parts ?_

theorem lightPair_sound {f0 : Fuses} {s : State} (a : Nat) (i : Nat) (noise : List (Nat × Int)) (hs : Sound f0 s) : Sound f0 (lightPair s a i noise).2 := by
  unfold lightPair
  try dsimp only
  repeat' first | with_reducible assumption | with_reducible apply countClamps_sound | with_reducible apply sound_ite | split | with_reducible apply sound_mk | with_reducible refine Sound.parts ?_

theorem imgRead_sound {f0 : Fuses} (o : Nat) (n : Nat) {s : State} (hs : Sound f0 s) : Sound f0 (imgRead o n s) := by
  unfold imgRead
  try dsimp only
  repeat' first | with_reducible assumption | with_reducible apply State.readFx_sound | with_reducible apply sound_ite | split | with_reducible apply sound_mk | with_reducible refine Sound.parts ?_

theorem buildRef_sound {f0 : Fuses} (a : Nat) (sec : Nat) (prof : Nat) (depth : Nat) {s0 : State} (hs0 : Sound f0 s0) : Sound f0 (buildRef a sec prof depth s0) := by
  unfold buildRef
  try dsimp only
  repeat' first | with_reducible assumption | with_reducible apply State.setArr_sound | with_reducible apply imgRead_sound | with_reducible apply sound_ite | split | with_reducible apply sound_mk | with_reducible refine Sound.parts ?_

theorem freshRef_sound {f0 : Fuses} (a : Nat) {s : State} (hs : Sound f0 s) : Sound f0 (freshRef a s) := by
  unfold freshRef
  try dsimp only
  repeat' first | with_reducible assumption | with_reducible apply buildRef_sound | with_reducible apply sound_ite | split | with_reducible apply sound_mk | with_reducible refine Sound.parts ?_

theorem parkCheck_sound {f0 : Fuses} (a : Nat) {s : State} (hs : Sound f0 s) : Sound f0 (parkCheck a s) := by
  unfold parkCheck
  try dsimp only
  repeat' first | with_reducible assumption | with_reducible apply State.setArr_sound | with_reducible apply sound_ite | split | with_reducible apply sound_mk | with_reducible refine Sound.parts ?_

theorem askEnd_sound {f0 : Fuses} (a : Nat) (code : Nat) {s : State} (hs : Sound f0 s) : Sound f0 (askEnd a code s) := by
  unfold askEnd
  try dsimp only
  repeat' first | with_reducible assumption | with_reducible apply State.onAsks_sound | with_reducible apply sound_ite | intro _ _ | split | with_reducible apply sound_mk | with_reducible refine Sound.parts ?_

theorem abandon_sound {f0 : Fuses} (a : Nat) {s : State} (hs : Sound f0 s) : Sound f0 (abandon a s) := by
  unfold abandon
  try dsimp only
  repeat' first | with_reducible assumption | with_reducible apply State.raise_sound | with_reducible apply State.setArr_sound | with_reducible apply firstDue_sound | with_reducible apply askEnd_sound | with_reducible apply sound_ite | split | with_reducible apply sound_mk | with_reducible refine Sound.parts ?_

theorem beginChurn_sound {f0 : Fuses} (a : Nat) (full : Bool) (cls : Nat) {s0 : State} (hs0 : Sound f0 s0) : Sound f0 (beginChurn a full cls s0) := by
  unfold beginChurn
  try dsimp only
  repeat' first | with_reducible assumption | with_reducible apply State.setArr_sound | with_reducible apply State.onAsks_sound | with_reducible apply freshRef_sound | with_reducible apply abandon_sound | with_reducible apply sound_ite | intro _ _ | split | with_reducible apply sound_mk | with_reducible refine Sound.parts ?_

theorem beginChurnUnit_sound {f0 : Fuses} (a : Nat) (u : Churn) {s : State} (hs : Sound f0 s) : Sound f0 (beginChurnUnit a u s) := by
  unfold beginChurnUnit
  try dsimp only
  repeat' first | with_reducible assumption | with_reducible apply State.setArr_sound | with_reducible apply sound_ite | split | with_reducible apply sound_mk | with_reducible refine Sound.parts ?_

theorem startChurns_sound {f0 : Fuses} (c : Nat) (x1 : Nat) {x2 : State} (hx2 : Sound f0 x2) : Sound f0 (startChurns c x1 x2) := by
  induction x1 generalizing x2 with
  | zero => unfold startChurns; (try dsimp only); repeat' first | with_reducible assumption | with_reducible apply beginChurn_sound | with_reducible apply sound_ite | split | with_reducible apply sound_mk | with_reducible refine Sound.parts ?_
  | succ _ ih => unfold startChurns; (try dsimp only); repeat' first | with_reducible assumption | with_reducible apply ih | with_reducible apply beginChurn_sound | with_reducible apply sound_ite | split | with_reducible apply sound_mk | with_reducible refine Sound.parts ?_

theorem churnGo_sound {f0 : Fuses} (c : Nat) {s : State} (hs : Sound f0 s) : Sound f0 (churnGo c s) := by
  unfold churnGo
  try dsimp only
  repeat' first | with_reducible assumption | with_reducible apply startChurns_sound | with_reducible apply sound_ite | split | with_reducible apply sound_mk | with_reducible refine Sound.parts ?_

theorem openWindow_sound {f0 : Fuses} (a : Nat) {s : State} (hs : Sound f0 s) : Sound f0 (openWindow a s) := by
  unfold openWindow
  try dsimp only
  repeat' first | with_reducible assumption | with_reducible apply State.setArr_sound | with_reducible apply beginChurnUnit_sound | with_reducible apply churnGo_sound | with_reducible apply sound_ite | split | with_reducible apply sound_mk | with_reducible refine Sound.parts ?_

theorem State.onMr_sound {f0 : Fuses} {s : State} (f : MrSt → MrSt) (hs : Sound f0 s) : Sound f0 (State.onMr s f) := by
  unfold State.onMr
  try dsimp only
  repeat' first | with_reducible assumption | with_reducible apply sound_ite | split | with_reducible apply sound_mk | with_reducible refine Sound.parts ?_

theorem beginUnit_sound {f0 : Fuses} (a : Nat) {s : State} (hs : Sound f0 s) : Sound f0 (beginUnit a s) := by
  unfold beginUnit
  try dsimp only
  repeat' first | with_reducible assumption | with_reducible apply State.setArr_sound | with_reducible apply urgent_sound | with_reducible apply State.onTests_sound | with_reducible apply State.onMr_sound | with_reducible apply sound_ite | intro _ _ | split | with_reducible apply sound_mk | with_reducible refine Sound.parts ?_

theorem testGo_sound {f0 : Fuses} (c : Nat) {s : State} (hs : Sound f0 s) : Sound f0 (testGo c s) := by
  unfold testGo
  try dsimp only
  repeat' first | with_reducible assumption | with_reducible apply beginUnit_sound | with_reducible apply sound_ite | intro _ _ | split | with_reducible apply sound_mk | with_reducible refine Sound.parts ?_

theorem freeGo_sound {f0 : Fuses} (c : Nat) {s : State} (hs : Sound f0 s) : Sound f0 (freeGo c s) := by
  unfold freeGo
  try dsimp only
  repeat' first | with_reducible assumption | with_reducible apply churnGo_sound | with_reducible apply testGo_sound | with_reducible apply sound_ite | split | with_reducible apply sound_mk | with_reducible refine Sound.parts ?_

theorem mvxSend_sound {f0 : Fuses} (i : Nat) (a : Nat) (e : BitVec 128) (w : BitVec 56) {s : State} (hs : Sound f0 s) : Sound f0 (mvxSend i a e w s) := by
  unfold mvxSend
  try dsimp only
  repeat' first | with_reducible assumption | with_reducible apply State.setCtx_sound | with_reducible apply State.setArr_sound | with_reducible apply sound_ite | intro _ _ | split | with_reducible apply sound_mk | with_reducible refine Sound.parts ?_

theorem mvxBody_sound {f0 : Fuses} (i : Nat) (old : Nat) (w : BitVec 56) {s : State} (hs : Sound f0 s) : (mvxBody i old w s).sound f0 := by
  unfold mvxBody
  try dsimp only
  repeat' first | with_reducible assumption | trivial | with_reducible apply State.raiseIf_sound | with_reducible apply State.trap_sound | with_reducible apply stallAt_sound | with_reducible apply State.askReload_sound | with_reducible apply mvxSend_sound | with_reducible apply Res.sound_ok | with_reducible apply Res.sound_stay | with_reducible apply Res.sound_jump | with_reducible apply Res.sound_ite | with_reducible apply sound_ite | show Sound f0 _ | split | with_reducible apply sound_mk | with_reducible refine Sound.parts ?_

theorem firstPhase_sound {f0 : Fuses} (a : Nat) (m : Mvx) {s : State} (hs : Sound f0 s) : Sound f0 (firstPhase a m s).1 := by
  unfold firstPhase
  try dsimp only
  repeat' first | with_reducible assumption | with_reducible apply State.readFx_sound | with_reducible apply State.poisonIf_sound | with_reducible apply State.usePert_sound | with_reducible apply laneTake_sound | with_reducible apply laneWait_sound | with_reducible apply readDirect_sound | with_reducible apply sound_ite | with_reducible apply sound_foldl_fst | with_reducible apply sound_foldl | intro _ _ _ | intro _ _ | refine sound_pair (by assumption) ?_ | split | with_reducible apply sound_mk | with_reducible refine Sound.parts ?_

theorem phaseStart_sound {f0 : Fuses} (a : Nat) {s : State} (hs : Sound f0 s) : Sound f0 (phaseStart a s) := by
  unfold phaseStart
  try dsimp only
  repeat' first | with_reducible assumption | with_reducible apply State.setArr_sound | with_reducible apply firstPhase_sound | with_reducible apply sound_ite | intro _ _ | refine sound_pair (by assumption) ?_ | split | with_reducible apply sound_mk | with_reducible refine Sound.parts ?_

theorem countRerun_sound {f0 : Fuses} (a : Nat) {s : State} (hs : Sound f0 s) : Sound f0 (countRerun a s) := by
  unfold countRerun
  try dsimp only
  repeat' first | with_reducible assumption | with_reducible apply State.incReg_sound | with_reducible apply State.raiseOnce_sound | with_reducible apply sound_ite | split | with_reducible apply sound_mk | with_reducible refine Sound.parts ?_

theorem phaseEnd_sound {f0 : Fuses} (a : Nat) (r : Run) (noise : List (Nat × Int)) {s : State} (hs : Sound f0 s) : Sound f0 (phaseEnd a r noise s).1 := by
  unfold phaseEnd
  try dsimp only
  repeat' first | with_reducible assumption | with_reducible apply countClamps_sound | with_reducible apply countRerun_sound | with_reducible apply sound_ite | with_reducible apply sound_foldl_fst | with_reducible apply sound_foldl | intro _ _ _ | intro _ _ | split | with_reducible apply sound_mk | with_reducible refine Sound.parts ?_

theorem clearChecks_sound {f0 : Fuses} (a : Nat) {s : State} (hs : Sound f0 s) : Sound f0 (clearChecks a s) := by
  unfold clearChecks
  try dsimp only
  repeat' first | with_reducible assumption | with_reducible apply State.setReg_sound | with_reducible apply State.setArr_sound | with_reducible apply sound_ite | split | with_reducible apply sound_mk | with_reducible refine Sound.parts ?_

theorem clearCoreChecks_sound {f0 : Fuses} (c : Nat) {s : State} (hs : Sound f0 s) : Sound f0 (clearCoreChecks c s) := by
  unfold clearCoreChecks
  try dsimp only
  repeat' first | with_reducible assumption | with_reducible apply clearChecks_sound | with_reducible apply sound_ite | with_reducible apply sound_foldl_fst | with_reducible apply sound_foldl | intro _ _ _ | intro _ _ | split | with_reducible apply sound_mk | with_reducible refine Sound.parts ?_

theorem reportAsk_sound {f0 : Fuses} (core : Nat) (q : Ask) (code : Nat) {s : State} (hs : Sound f0 s) : Sound f0 (reportAsk core q code s) := by
  unfold reportAsk
  try dsimp only
  repeat' first | with_reducible assumption | with_reducible apply State.setReg_sound | with_reducible apply State.finish_sound | with_reducible apply State.askStatus_sound | with_reducible apply sound_ite | split | with_reducible apply sound_mk | with_reducible refine Sound.parts ?_

theorem releaseArr_sound {f0 : Fuses} (a : Nat) (last : List Int) {s : State} (hs : Sound f0 s) : Sound f0 (releaseArr a last s) := by
  unfold releaseArr
  try dsimp only
  repeat' first | with_reducible assumption | with_reducible apply State.setArr_sound | with_reducible apply parkCheck_sound | with_reducible apply sound_ite | split | with_reducible apply sound_mk | with_reducible refine Sound.parts ?_

end Sys2Proof.Machine
end

