-- ==== Sys2Proof/Laws/SoundD.lean ====
section
/-!
SUPPORT. What every step keeps (`Sound`), operation by operation, callees first (4 of 5).
-/
set_option linter.unusedTactic false
set_option linter.unreachableTactic false
set_option linter.unusedVariables false

namespace Sys2Proof.Machine

theorem restartChurn_sound {f0 : Fuses} (a : Nat) (u : Churn) (done : Nat) {s : State} (hs : Sound f0 s) : Sound f0 (restartChurn a u done s) := by
  unfold restartChurn
  try dsimp only
  repeat' first | with_reducible assumption | with_reducible apply State.incReg_sound | with_reducible apply State.raise_sound | with_reducible apply State.setArr_sound | with_reducible apply sound_ite | split | with_reducible apply sound_mk | with_reducible refine Sound.parts ?_

theorem nextUnit_sound {f0 : Fuses} (a : Nat) (last : List Int) {s : State} (hs : Sound f0 s) : Sound f0 (nextUnit a last s) := by
  unfold nextUnit
  try dsimp only
  repeat' first | with_reducible assumption | with_reducible apply State.setArr_sound | with_reducible apply releaseArr_sound | with_reducible apply sound_ite | intro _ _ | split | with_reducible apply sound_mk | with_reducible refine Sound.parts ?_

theorem writeBases_sound {f0 : Fuses} (page : Nat) {s : State} (hs : Sound f0 s) : Sound f0 (writeBases page s) := by
  unfold writeBases
  try dsimp only
  repeat' first | with_reducible assumption | with_reducible apply State.nvsPut_sound | with_reducible apply sound_ite | with_reducible apply sound_foldl_fst | with_reducible apply sound_foldl | intro _ _ _ | intro _ _ | split | with_reducible apply sound_mk | with_reducible refine Sound.parts ?_

theorem flushBases_sound {f0 : Fuses} {s : State} (hs : Sound f0 s) : Sound f0 (flushBases s) := by
  unfold flushBases
  try dsimp only
  repeat' first | with_reducible assumption | with_reducible apply writeBases_sound | with_reducible apply sound_ite | with_reducible apply sound_foldl_fst | with_reducible apply sound_foldl | intro _ _ _ | intro _ _ | split | with_reducible apply sound_mk | with_reducible refine Sound.parts ?_

theorem writeBaseline_sound {f0 : Fuses} (a : Nat) (g : W32) {s : State} (hs : Sound f0 s) : Sound f0 (writeBaseline a g s) := by
  unfold writeBaseline
  try dsimp only
  repeat' first | with_reducible assumption | with_reducible apply flushBases_sound | with_reducible apply sound_ite | split | with_reducible apply sound_mk | with_reducible refine Sound.parts ?_

theorem baseline_sound {f0 : Fuses} (a : Nat) (u : Churn) (owed : Bool) {s0 : State} (hs0 : Sound f0 s0) : Sound f0 (baseline a u owed s0) := by
  unfold baseline
  try dsimp only
  repeat' first | with_reducible assumption | with_reducible apply State.raiseIf_sound | with_reducible apply State.nvsRead_sound | with_reducible apply flushBases_sound | with_reducible apply writeBaseline_sound | with_reducible apply sound_ite | split | with_reducible apply sound_mk | with_reducible refine Sound.parts ?_

theorem completeFull_sound {f0 : Fuses} (a : Nat) (u : Churn) (r : ProbeRef) (sigma : W32) {s : State} (hs : Sound f0 s) : Sound f0 (completeFull a u r sigma s) := by
  unfold completeFull
  try dsimp only
  repeat' first | with_reducible assumption | with_reducible apply State.setReg_sound | with_reducible apply State.incWrap_sound | with_reducible apply State.raise_sound | with_reducible apply State.setArr_sound | with_reducible apply retireAll_sound | with_reducible apply pressedDone_sound | with_reducible apply enterFault_sound | with_reducible apply askEnd_sound | with_reducible apply freeGo_sound | with_reducible apply releaseArr_sound | with_reducible apply baseline_sound | with_reducible apply sound_ite | with_reducible apply sound_foldl_fst | with_reducible apply sound_foldl | intro _ _ _ | intro _ _ | refine sound_pair (by assumption) ?_ | split | with_reducible apply sound_mk | with_reducible refine Sound.parts ?_

theorem askChurn_sound {f0 : Fuses} (a : Nat) (full : Bool) (src : AskSrc) (us : Nat) {s : State} (hs : Sound f0 s) : Sound f0 (askChurn a full src us s) := by
  unfold askChurn
  try dsimp only
  repeat' first | with_reducible assumption | with_reducible apply State.onAsks_sound | with_reducible apply freeGo_sound | with_reducible apply reportAsk_sound | with_reducible apply sound_ite | intro _ _ | split | with_reducible apply sound_mk | with_reducible refine Sound.parts ?_

theorem State.seqErr_sound {f0 : Fuses} {s : State} (i : Nat) (b : Nat) (hs : Sound f0 s) : Sound f0 (State.seqErr s i b) := by
  unfold State.seqErr
  try dsimp only
  repeat' first | with_reducible assumption | with_reducible apply State.setFld_sound | with_reducible apply State.orReg_sound | with_reducible apply sound_ite | split | with_reducible apply sound_mk | with_reducible refine Sound.parts ?_

theorem State.ctxDiscard_sound {f0 : Fuses} {s : State} (i : Nat) (v : Nat) (hs : Sound f0 s) : Sound f0 (State.ctxDiscard s i v) := by
  unfold State.ctxDiscard
  try dsimp only
  repeat' first | with_reducible assumption | with_reducible apply State.raise_sound | with_reducible apply State.seqErr_sound | with_reducible apply sound_ite | split | with_reducible apply sound_mk | with_reducible refine Sound.parts ?_

theorem ctxStart_sound {f0 : Fuses} (i : Nat) {s : State} (hs : Sound f0 s) : Sound f0 (ctxStart i s) := by
  unfold ctxStart
  try dsimp only
  repeat' first | with_reducible assumption | with_reducible apply State.onCtx_sound | with_reducible apply State.startFree_sound | with_reducible apply State.ctxDiscard_sound | with_reducible apply sound_ite | intro _ _ | split | with_reducible apply sound_mk | with_reducible refine Sound.parts ?_

theorem ctxPreempt_sound {f0 : Fuses} (i : Nat) {s : State} (hs : Sound f0 s) : Sound f0 (ctxPreempt i s) := by
  unfold ctxPreempt
  try dsimp only
  repeat' first | with_reducible assumption | with_reducible apply State.setCtx_sound | with_reducible apply State.ctxDiscard_sound | with_reducible apply sound_ite | split | with_reducible apply sound_mk | with_reducible refine Sound.parts ?_

theorem resumeRefuse_sound {f0 : Fuses} (i : Nat) (a : Nat) {s : State} (hs : Sound f0 s) : Sound f0 (resumeRefuse i a s) := by
  unfold resumeRefuse
  try dsimp only
  repeat' first | with_reducible assumption | with_reducible apply State.raise_sound | with_reducible apply State.seqErr_sound | with_reducible apply sound_ite | split | with_reducible apply sound_mk | with_reducible refine Sound.parts ?_

theorem ctxResume_sound {f0 : Fuses} (i : Nat) {s : State} (hs : Sound f0 s) : Sound f0 (ctxResume i s) := by
  unfold ctxResume
  try dsimp only
  repeat' first | with_reducible assumption | with_reducible apply State.readFx_sound | with_reducible apply State.onCtx_sound | with_reducible apply State.poisonIf_sound | with_reducible apply putTiles_sound | with_reducible apply resumeRefuse_sound | with_reducible apply sound_ite | intro _ _ | split | with_reducible apply sound_mk | with_reducible refine Sound.parts ?_

theorem ctxResumeCmd_sound {f0 : Fuses} (i : Nat) {s : State} (hs : Sound f0 s) : Sound f0 (ctxResumeCmd i s) := by
  unfold ctxResumeCmd
  try dsimp only
  repeat' first | with_reducible assumption | with_reducible apply State.ctxDiscard_sound | with_reducible apply ctxResume_sound | with_reducible apply sound_ite | split | with_reducible apply sound_mk | with_reducible refine Sound.parts ?_

theorem ctxStop_sound {f0 : Fuses} (i : Nat) {s : State} (hs : Sound f0 s) : Sound f0 (ctxStop i s) := by
  unfold ctxStop
  try dsimp only
  repeat' first | with_reducible assumption | with_reducible apply State.setCtx_sound | with_reducible apply State.trap_sound | with_reducible apply State.ctxDiscard_sound | with_reducible apply sound_ite | split | with_reducible apply sound_mk | with_reducible refine Sound.parts ?_

theorem ctxAddr_sound {f0 : Fuses} (i : Nat) (save : Bool) (v : W64) {s : State} (hs : Sound f0 s) : Sound f0 (ctxAddr i save v s) := by
  unfold ctxAddr
  try dsimp only
  repeat' first | with_reducible assumption | with_reducible apply State.setReg_sound | with_reducible apply State.onCtx_sound | with_reducible apply State.ctxDiscard_sound | with_reducible apply sound_ite | intro _ _ | split | with_reducible apply sound_mk | with_reducible refine Sound.parts ?_

theorem ctxCommand_sound {f0 : Fuses} (i : Nat) (v : W32) {s : State} (hs : Sound f0 s) : Sound f0 (ctxCommand i v s) := by
  unfold ctxCommand
  try dsimp only
  repeat' first | with_reducible assumption | with_reducible apply State.ctxDiscard_sound | with_reducible apply ctxStart_sound | with_reducible apply ctxPreempt_sound | with_reducible apply ctxResumeCmd_sound | with_reducible apply ctxStop_sound | with_reducible apply sound_ite | split | with_reducible apply sound_mk | with_reducible refine Sound.parts ?_

theorem ctxWord_sound {f0 : Fuses} (who : Who) (i : Nat) (a : Nat) (v : W32) {s : State} (hs : Sound f0 s) : Sound f0 (ctxWord who i a v s) := by
  unfold ctxWord
  try dsimp only
  repeat' first | with_reducible assumption | with_reducible apply State.holdLower_sound | with_reducible apply State.dropHeld_sound | with_reducible apply ctxAddr_sound | with_reducible apply ctxCommand_sound | with_reducible apply sound_ite | split | with_reducible apply sound_mk | with_reducible refine Sound.parts ?_

theorem pressBegun_sound {f0 : Fuses} (a : Nat) (w : PressWant) {s : State} (hs : Sound f0 s) : Sound f0 (pressBegun a w s) := by
  unfold pressBegun
  try dsimp only
  repeat' first | with_reducible assumption | with_reducible apply State.takeSub_sound | with_reducible apply sound_ite | intro _ _ | refine sound_pair (by assumption) ?_ | split | with_reducible apply sound_mk | with_reducible refine Sound.parts ?_

theorem firstRecord_sound {f0 : Fuses} (a : Nat) (w : PressWant) {s0 : State} (hs0 : Sound f0 s0) : Sound f0 (firstRecord a w s0) := by
  unfold firstRecord
  try dsimp only
  repeat' first | with_reducible assumption | with_reducible apply State.setReg_sound | with_reducible apply State.raiseIf_sound | with_reducible apply State.recRead_sound | with_reducible apply State.pressWrite_sound | with_reducible apply sound_ite | split | with_reducible apply sound_mk | with_reducible refine Sound.parts ?_

theorem rateEvent_sound {f0 : Fuses} (slot : Nat) (layer : Nat) {s : State} (hs : Sound f0 s) : Sound f0 (rateEvent slot layer s) := by
  unfold rateEvent
  try dsimp only
  repeat' first | with_reducible assumption | with_reducible apply State.raiseOnce_sound | with_reducible apply sound_ite | split | with_reducible apply sound_mk | with_reducible refine Sound.parts ?_

theorem verifyRead_sound {f0 : Fuses} (a : Nat) (j : PressJob) (outs : List (Nat × Bool)) {s : State} (hs : Sound f0 s) : Sound f0 (verifyRead a j outs s) := by
  unfold verifyRead
  try dsimp only
  repeat' first | with_reducible assumption | with_reducible apply State.setArr_sound | with_reducible apply sound_ite | with_reducible apply sound_foldl_fst | with_reducible apply sound_foldl | intro _ _ _ | intro _ _ | split | with_reducible apply sound_mk | with_reducible refine Sound.parts ?_

theorem secondRecord_sound {f0 : Fuses} (a : Nat) (pass : Bool) {s : State} (hs : Sound f0 s) : Sound f0 (secondRecord a pass s) := by
  unfold secondRecord
  try dsimp only
  repeat' first | with_reducible assumption | with_reducible apply State.pressWrite_sound | with_reducible apply sound_ite | split | with_reducible apply sound_mk | with_reducible refine Sound.parts ?_

theorem pressPass_sound {f0 : Fuses} (a : Nat) (j : PressJob) {s : State} (hs : Sound f0 s) : Sound f0 (pressPass a j s) := by
  unfold pressPass
  try dsimp only
  repeat' first | with_reducible assumption | with_reducible apply State.setReg_sound | with_reducible apply State.setArr_sound | with_reducible apply makeDue_sound | with_reducible apply buildRef_sound | with_reducible apply secondRecord_sound | with_reducible apply sound_ite | split | with_reducible apply sound_mk | with_reducible refine Sound.parts ?_

theorem pressFail_sound {f0 : Fuses} (a : Nat) (j : PressJob) {s : State} (hs : Sound f0 s) : Sound f0 (pressFail a j s) := by
  unfold pressFail
  try dsimp only
  repeat' first | with_reducible assumption | with_reducible apply State.incReg_sound | with_reducible apply State.raise_sound | with_reducible apply State.setArr_sound | with_reducible apply enterFault_sound | with_reducible apply secondRecord_sound | with_reducible apply sound_ite | split | with_reducible apply sound_mk | with_reducible refine Sound.parts ?_

theorem stopPress_sound {f0 : Fuses} (a : Nat) (j : PressJob) {s : State} (hs : Sound f0 s) : Sound f0 (stopPress a j s) := by
  unfold stopPress
  try dsimp only
  repeat' first | with_reducible assumption | with_reducible apply State.incReg_sound | with_reducible apply State.setArr_sound | with_reducible apply State.setReserve_sound | with_reducible apply secondRecord_sound | with_reducible apply sound_ite | intro _ _ | split | with_reducible apply sound_mk | with_reducible refine Sound.parts ?_

theorem replaceWorn_sound {f0 : Fuses} (off ent slot : Nat) (x1 x2 : List Nat) {x3 : State} (hx3 : Sound f0 x3) : ∀ t, replaceWorn off ent slot x1 x2 x3 = some t → Sound f0 t := by
  induction x1 generalizing x2 x3 with
  | nil => intro t ht; unfold replaceWorn at ht; cases ht; exact hx3
  | cons a r ih =>
    intro t ht
    unfold replaceWorn at ht
    dsimp only at ht
    split at ht
    · exact ih _ hx3 t ht
    · generalize (if x3.hasMappable (a / 64) then _ else none) = m at ht
      cases m with
      | none => cases ht
      | some b => exact ih _ (State.mapEntries_sound _ _ (State.onImage_sound _ _ hx3)) t ht

theorem reloadStart_sound {f0 : Fuses} (alloc : List Nat) {s : State} (hs : Sound f0 s) : Sound f0 (reloadStart alloc s) := by
  unfold reloadStart
  split
  · split
    · exact refuseReload_sound _ _ hs
    · refine sound_ite (hs.of_eq rfl rfl) (sound_ite (State.raiseOnce_sound _ _ _ _ _ hs) ?_)
      split
      · exact refuseReload_sound _ _ hs
      · next heq =>
        have h1 := replaceWorn_sound _ _ _ _ _ hs _ heq
        refine sound_ite hs ?_
        have key : ∀ (x : State) (p : PressSt), Sound f0 x → Sound f0 { x with prs := p } := fun x p h => h.of_eq rfl rfl
        exact key _ _ (State.rearm_sound _ (State.onImage_sound _ _ (sound_foldl h1 (fun t k ht => State.setResident_sound _ _ _ ht))))
  · exact hs

theorem putShort_sound {f0 : Fuses} (l : List Nat) {s : State} (hs : Sound f0 s) : Sound f0 (putShort l s) := by
  unfold putShort
  try dsimp only
  repeat' first | with_reducible assumption | with_reducible apply State.setReg_sound | with_reducible apply sound_ite | with_reducible apply sound_foldl_fst | with_reducible apply sound_foldl | intro _ _ _ | intro _ _ | split | with_reducible apply sound_mk | with_reducible refine Sound.parts ?_

theorem seenDigest_sound {f0 : Fuses} {s0 : State} (o : Nat) (hs0 : Sound f0 s0) : Sound f0 (seenDigest s0 o).2 := by
  unfold seenDigest
  try dsimp only
  repeat' first | with_reducible assumption | with_reducible apply State.usePert_sound | with_reducible apply imgRead_sound | with_reducible apply sound_ite | split | with_reducible apply sound_mk | with_reducible refine Sound.parts ?_

theorem loadNo_sound {f0 : Fuses} (src : LoadSrc) (code : Nat) (slot : Nat) {s : State} (hs : Sound f0 s) : Sound f0 (loadNo src code slot s) := by
  unfold loadNo
  try dsimp only
  repeat' first | with_reducible assumption | with_reducible apply loadEnd_sound | with_reducible apply sound_ite | split | with_reducible apply sound_mk | with_reducible refine Sound.parts ?_

theorem keyEvent_sound {f0 : Fuses} (slot : Nat) (kind : Nat) {s : State} (hs : Sound f0 s) : Sound f0 (keyEvent slot kind s) := by
  unfold keyEvent
  try dsimp only
  repeat' first | with_reducible assumption | with_reducible apply State.raise_sound | with_reducible apply sound_ite | split | with_reducible apply sound_mk | with_reducible refine Sound.parts ?_

theorem borrow_sound {f0 : Fuses} (l : List Nat) {s : State} (hs : Sound f0 s) : Sound f0 (borrow l s).1 := by
  unfold borrow
  refine sound_foldl_fst (by exact hs) (fun p a hp => ?_)
  dsimp only
  split
  · exact hp
  · exact State.setReserve_sound _ _ _ hp

theorem State.takeGap_sound {f0 : Fuses} (t : Tab Nat) {s : State} (hs : Sound f0 s) : Sound f0 (State.takeGap t s) := by
  unfold State.takeGap
  try dsimp only
  repeat' first | with_reducible assumption | with_reducible apply sound_ite | with_reducible apply sound_foldl_fst | with_reducible apply sound_foldl | intro _ _ _ | intro _ _ | split | with_reducible apply sound_mk | with_reducible refine Sound.parts ?_

theorem attachArr_sound {f0 : Fuses} (o : Nat) (p : Place) {s : State} (hs : Sound f0 s) : Sound f0 (attachArr o p s) := by
  unfold attachArr
  try dsimp only
  repeat' first | with_reducible assumption | with_reducible apply State.setReg_sound | with_reducible apply buildRef_sound | with_reducible apply sound_ite | split | with_reducible apply sound_mk | with_reducible refine Sound.parts ?_

theorem firstRecords_sound {f0 : Fuses} (slot : Nat) (epoch : Nat) (o : Nat) (todo : List (Place × Nat)) {s : State} (hs : Sound f0 s) : Sound f0 (firstRecords slot epoch o todo s) := by
  unfold firstRecords
  try dsimp only
  repeat' first | with_reducible assumption | with_reducible apply wornArr_sound | with_reducible apply firstRecord_sound | with_reducible apply sound_ite | with_reducible apply sound_foldl_fst | with_reducible apply sound_foldl | intro _ _ _ | intro _ _ | split | with_reducible apply sound_mk | with_reducible refine Sound.parts ?_

theorem beginLoad_sound {f0 : Fuses} (src : LoadSrc) (attach : Bool) (o : Nat) (len : Nat) (alloc : List Nat) (slot : Nat) (epoch : Nat) {s0 : State} (hs0 : Sound f0 s0) : Sound f0 (beginLoad src attach o len alloc slot epoch s0) := by
  unfold beginLoad
  try dsimp only
  repeat' first | with_reducible assumption | with_reducible apply State.raise_sound | with_reducible apply putShort_sound | with_reducible apply loadNo_sound | with_reducible apply borrow_sound | with_reducible apply attachArr_sound | with_reducible apply firstRecords_sound | with_reducible apply sound_ite | with_reducible apply sound_foldl_fst | with_reducible apply sound_foldl | intro _ _ _ | intro _ _ | refine sound_pair (by assumption) ?_ | split | with_reducible apply sound_mk | with_reducible refine Sound.parts ?_

theorem pressLoad_sound {f0 : Fuses} (src : LoadSrc) (o : Nat) (len : Nat) (alloc : List Nat) {s : State} (hs : Sound f0 s) : Sound f0 (pressLoad src o len alloc s) := by
  unfold pressLoad
  try dsimp only
  repeat' first | with_reducible assumption | with_reducible apply imgRead_sound | with_reducible apply loadNo_sound | with_reducible apply keyEvent_sound | with_reducible apply beginLoad_sound | with_reducible apply sound_ite | with_reducible apply sound_foldl_fst | with_reducible apply sound_foldl | intro _ _ _ | intro _ _ | split | with_reducible apply sound_mk | with_reducible refine Sound.parts ?_

theorem attachLoad_sound {f0 : Fuses} (src : LoadSrc) (o : Nat) (len : Nat) (alloc : List Nat) {s : State} (hs : Sound f0 s) : Sound f0 (attachLoad src o len alloc s) := by
  unfold attachLoad
  refine sound_ite (loadNo_sound _ _ _ hs) (sound_ite (loadNo_sound _ _ _ hs) ?_)
  extract_lets s1 s2
  have h1 : Sound f0 s1 := imgRead_sound _ _ hs
  have h2 : Sound f0 s2 := sound_foldl h1 (fun t x ht => imgRead_sound _ _ ht)
  clear_value s2 s1
  refine sound_ite (loadNo_sound _ _ _ h1) (sound_ite (loadNo_sound _ _ _ (keyEvent_sound _ _ h1)) (sound_ite (loadNo_sound _ _ _ h2) ?_))
  split
  next d s3 heq =>
    have h3 : Sound f0 s3 := sound_pair2 heq (seenDigest_sound _ h2)
    dsimp only
    repeat' with_reducible apply sound_ite
    all_goals first
      | exact loadNo_sound _ _ _ h3
      | exact loadNo_sound _ _ _ (keyEvent_sound _ _ h3)
      | exact beginLoad_sound _ _ _ _ _ _ _ h3

theorem runLoad_sound {f0 : Fuses} (attach : Bool) (src : LoadSrc) (off : Nat) (len : Nat) (alloc : List Nat) {s : State} (hs : Sound f0 s) : Sound f0 (runLoad attach src off len alloc s) := by
  unfold runLoad
  try dsimp only
  repeat' first | with_reducible assumption | with_reducible apply pressLoad_sound | with_reducible apply attachLoad_sound | with_reducible apply sound_ite | intro _ _ | split | with_reducible apply sound_mk | with_reducible refine Sound.parts ?_

theorem copyLists_sound {f0 : Fuses} (o : Nat) (e : Nat) (copy : Nat) {s : State} (hs : Sound f0 s) : Sound f0 (copyLists o e copy s) := by
  unfold copyLists
  try dsimp only
  repeat' first | with_reducible assumption | with_reducible apply State.writeFx_sound | with_reducible apply imgRead_sound | with_reducible apply sound_ite | with_reducible apply sound_foldl_fst | with_reducible apply sound_foldl | intro _ _ _ | intro _ _ | split | with_reducible apply sound_mk | with_reducible refine Sound.parts ?_

theorem copyAllLists_sound {f0 : Fuses} (o : Nat) {s : State} (hs : Sound f0 s) : Sound f0 (copyAllLists o s) := by
  unfold copyAllLists
  try dsimp only
  repeat' first | with_reducible assumption | with_reducible apply copyLists_sound | with_reducible apply sound_ite | with_reducible apply sound_foldl_fst | with_reducible apply sound_foldl | intro _ _ _ | intro _ _ | split | with_reducible apply sound_mk | with_reducible refine Sound.parts ?_

theorem commitLoad_sound {f0 : Fuses} (l : LoadJob) {s0 : State} (hs0 : Sound f0 s0) : Sound f0 (commitLoad l s0) := by
  unfold commitLoad
  try dsimp only
  repeat' first | with_reducible assumption | with_reducible apply State.raise_sound | with_reducible apply State.abRead_sound | with_reducible apply State.abWriteNow_sound | with_reducible apply putPlace_sound | with_reducible apply loadEnd_sound | with_reducible apply borrow_sound | with_reducible apply State.takeGap_sound | with_reducible apply sound_ite | with_reducible apply sound_foldl_fst | with_reducible apply sound_foldl | intro _ _ _ | intro _ _ | refine sound_pair (by assumption) ?_ | split | with_reducible apply sound_mk | with_reducible refine Sound.parts ?_

theorem verifyLoad_sound {f0 : Fuses} (l : LoadJob) {s : State} (hs : Sound f0 s) : Sound f0 (verifyLoad l s) := by
  unfold verifyLoad
  refine sound_ite hs ?_
  extract_lets s0
  have h0 : Sound f0 s0 := copyAllLists_sound _ hs
  clear_value s0
  refine sound_ite (commitLoad_sound _ h0) ?_
  split
  next d s1 heq =>
    have h1 : Sound f0 s1 := sound_pair2 heq (seenDigest_sound _ h0)
    have hr : ∀ n m, Sound f0 (refuseLoad n (keyEvent l.slot m s1)) := fun n m => refuseLoad_sound _ (keyEvent_sound _ _ h1)
    exact sound_ite (hr _ _) (sound_ite (hr _ _) (sound_ite (hr _ _) (commitLoad_sound _ h1)))

theorem endPressOf_sound {f0 : Fuses} (slot : Nat) {s : State} (hs : Sound f0 s) : Sound f0 (endPressOf slot s) := by
  unfold endPressOf
  try dsimp only
  repeat' first | with_reducible assumption | with_reducible apply dropArr_sound | with_reducible apply sound_ite | with_reducible apply sound_foldl_fst | with_reducible apply sound_foldl | intro _ _ _ | intro _ _ | split | with_reducible apply sound_mk | with_reducible refine Sound.parts ?_

theorem unloadSlot_sound {f0 : Fuses} (src : LoadSrc) (slot : Nat) {s : State} (hs : Sound f0 s) : Sound f0 (unloadSlot src slot s) := by
  unfold unloadSlot
  refine sound_ite (loadEnd_sound _ _ _ _ hs) (sound_ite hs ?_)
  extract_lets ep r s1 s2 known back p s3
  have h2 : Sound f0 s2 := State.mapEntries_sound _ _ (endPressOf_sound _ (State.abWriteNow_sound _ _ _ (State.abRead_sound _ hs)))
  have key : ∀ (x : State) (p : PressSt) (r : List (Nat × Nat)), Sound f0 x → Sound f0 { x with prs := p, reqs := r } := fun x p r h => h.of_eq rfl rfl
  have h3 : Sound f0 s3 := key s2 _ _ h2
  clear_value s3
  exact loadEnd_sound _ _ _ _ (giveBack_sound _ (sound_ite h3 (State.takeGap_sound _ h3)))

theorem State.readMany_sound {f0 : Fuses} {s : State} (sp : Nat) (rs : List (Nat × Nat)) (port : Nat) (hs : Sound f0 s) : Sound f0 (State.readMany s sp rs port) := by
  unfold State.readMany
  exact sound_foldl (State.correct_sound _ _ hs) (fun t a ht => State.eccUnc_sound _ _ _ _ ht)

theorem State.readRngs_sound {f0 : Fuses} {s : State} (core : Nat) (rs : List Rng) (port : Nat) (hs : Sound f0 s) : Sound f0 (State.readRngs s core rs port).1 := by
  unfold State.readRngs
  try dsimp only
  repeat' first | with_reducible assumption | with_reducible apply State.readMany_sound | with_reducible apply sound_ite | with_reducible apply sound_foldl_fst | with_reducible apply sound_foldl | intro _ _ _ | intro _ _ | split | with_reducible apply sound_mk | with_reducible refine Sound.parts ?_

theorem State.dramPut_sound {f0 : Fuses} {s : State} (a : Nat) (bs : List Byte) (port : Nat) (hs : Sound f0 s) : Sound f0 (State.dramPut s a bs port) := by
  unfold State.dramPut
  try dsimp only
  repeat' first | with_reducible assumption | with_reducible apply State.raise_sound | with_reducible apply State.writeFx_sound | with_reducible apply sound_ite | with_reducible apply sound_foldl_fst | with_reducible apply sound_foldl | intro _ _ _ | intro _ _ | split | with_reducible apply sound_mk | with_reducible refine Sound.parts ?_

theorem State.engPut_sound {f0 : Fuses} {s : State} (dma : Bool) (core : Nat) (port : Nat) (sp : Nat) (a : Nat) (bs : List Byte) (hs : Sound f0 s) : Sound f0 (State.engPut s dma core port sp a bs).1 := by
  unfold State.engPut
  try dsimp only
  repeat' first | with_reducible assumption | with_reducible apply State.putBytes_sound | with_reducible apply State.dramPut_sound | with_reducible apply sound_ite | refine sound_pair (by assumption) ?_ | split | with_reducible apply sound_mk | with_reducible refine Sound.parts ?_

theorem State.engRow_sound {f0 : Fuses} {s : State} (dma : Bool) (core : Nat) (port : Nat) (o : OutRow) (hs : Sound f0 s) : Sound f0 (State.engRow s dma core port o).1 := by
  unfold State.engRow
  try dsimp only
  repeat' first | with_reducible assumption | with_reducible apply State.engPut_sound | with_reducible apply sound_ite | refine sound_pair (by assumption) ?_ | split | with_reducible apply sound_mk | with_reducible refine Sound.parts ?_

theorem State.engRows_sound {f0 : Fuses} {s : State} (dma : Bool) (core : Nat) (port : Nat) (l : List OutRow) (hs : Sound f0 s) : Sound f0 (State.engRows s dma core port l).1 := by
  unfold State.engRows
  refine sound_foldl_fst (by exact hs) (fun p a hp => ?_)
  exact State.engRow_sound _ _ _ _ hp

theorem State.setEngq_sound {f0 : Fuses} {s : State} (e : Nat) (q : EngQ) (hs : Sound f0 s) : Sound f0 (State.setEngq s e q) := by
  unfold State.setEngq
  try dsimp only
  repeat' first | with_reducible assumption | with_reducible apply sound_ite | split | with_reducible apply sound_mk | with_reducible refine Sound.parts ?_

theorem engIssue_sound {f0 : Fuses} (i : Nat) (op : Nat) (w : BitVec 56) (e : Option Nat) (ds : List (BitVec 256)) (xs : List W64) (rd : List Rng) (wr : List Rng) (hold : Option Nat) {s : State} (hs : Sound f0 s) : (engIssue i op w e ds xs rd wr hold s).sound f0 := by
  unfold engIssue
  try dsimp only
  repeat' first | with_reducible assumption | trivial | with_reducible apply State.setCtx_sound | with_reducible apply State.setEngq_sound | with_reducible apply Res.sound_ok | with_reducible apply Res.sound_stay | with_reducible apply Res.sound_jump | with_reducible apply Res.sound_ite | with_reducible apply sound_ite | intro _ _ | show Sound f0 _ | split | with_reducible apply sound_mk | with_reducible refine Sound.parts ?_

theorem movBody_sound {f0 : Fuses} (i : Nat) (w : BitVec 56) {s : State} (hs : Sound f0 s) : (movBody i w s).sound f0 := by
  unfold movBody
  try dsimp only
  repeat' first | with_reducible assumption | trivial | with_reducible apply State.trap_sound | with_reducible apply engIssue_sound | with_reducible apply Res.sound_ok | with_reducible apply Res.sound_stay | with_reducible apply Res.sound_jump | with_reducible apply Res.sound_ite | with_reducible apply sound_ite | show Sound f0 _ | split | with_reducible apply sound_mk | with_reducible refine Sound.parts ?_

theorem gatherBody_sound {f0 : Fuses} (scat : Bool) (i : Nat) (w : BitVec 56) {s : State} (hs : Sound f0 s) : (gatherBody scat i w s).sound f0 := by
  unfold gatherBody
  try dsimp only
  repeat' first | with_reducible assumption | trivial | with_reducible apply State.trap_sound | with_reducible apply engIssue_sound | with_reducible apply Res.sound_ok | with_reducible apply Res.sound_stay | with_reducible apply Res.sound_jump | with_reducible apply Res.sound_ite | with_reducible apply sound_ite | show Sound f0 _ | split | with_reducible apply sound_mk | with_reducible refine Sound.parts ?_

theorem warpBody_sound {f0 : Fuses} (i : Nat) (w : BitVec 56) {s : State} (hs : Sound f0 s) : (warpBody i w s).sound f0 := by
  unfold warpBody
  try dsimp only
  repeat' first | with_reducible assumption | trivial | with_reducible apply State.trap_sound | with_reducible apply engIssue_sound | with_reducible apply Res.sound_ok | with_reducible apply Res.sound_stay | with_reducible apply Res.sound_jump | with_reducible apply Res.sound_ite | with_reducible apply sound_ite | show Sound f0 _ | split | with_reducible apply sound_mk | with_reducible refine Sound.parts ?_

theorem vecBody_sound {f0 : Fuses} (op : Nat) (i : Nat) (w : BitVec 56) {s : State} (hs : Sound f0 s) : (vecBody op i w s).sound f0 := by
  unfold vecBody
  try dsimp only
  repeat' first | with_reducible assumption | trivial | with_reducible apply State.trap_sound | with_reducible apply engIssue_sound | with_reducible apply Res.sound_ok | with_reducible apply Res.sound_stay | with_reducible apply Res.sound_jump | with_reducible apply Res.sound_ite | with_reducible apply sound_ite | intro _ _ | show Sound f0 _ | split | with_reducible apply sound_mk | with_reducible refine Sound.parts ?_

theorem engCount_sound {f0 : Fuses} (e : Nat) (o : EngOut) {s : State} (hs : Sound f0 s) : Sound f0 (engCount e o s) := by
  unfold engCount
  try dsimp only
  repeat' first | with_reducible assumption | with_reducible apply State.incReg_sound | with_reducible apply sound_ite | split | with_reducible apply sound_mk | with_reducible refine Sound.parts ?_

theorem engEnd_sound {f0 : Fuses} (j : EngJob) (bad : Bool) {s : State} (hs : Sound f0 s) : Sound f0 (engEnd j bad s) := by
  unfold engEnd
  try dsimp only
  repeat' first | with_reducible assumption | with_reducible apply State.endWork_sound | with_reducible apply State.poisonIf_sound | with_reducible apply sound_ite | intro _ _ | split | with_reducible apply sound_mk | with_reducible refine Sound.parts ?_

theorem engRun_sound {f0 : Fuses} (e : Nat) (u : Nat) (j : EngJob) {s : State} (hs : Sound f0 s) : Sound f0 (engRun e u j s) := by
  unfold engRun
  try dsimp only
  repeat' first | with_reducible assumption | with_reducible apply State.readRngs_sound | with_reducible apply State.engRows_sound | with_reducible apply engCount_sound | with_reducible apply engEnd_sound | with_reducible apply sound_ite | refine sound_pair (by assumption) ?_ | split | with_reducible apply sound_mk | with_reducible refine Sound.parts ?_

theorem scanBody_sound {f0 : Fuses} (dig : Bool) (i : Nat) (w : BitVec 56) {s : State} (hs : Sound f0 s) : (scanBody dig i w s).sound f0 := by
  unfold scanBody
  try dsimp only
  repeat' first | with_reducible assumption | trivial | with_reducible apply State.trap_sound | with_reducible apply engIssue_sound | with_reducible apply Res.sound_ok | with_reducible apply Res.sound_stay | with_reducible apply Res.sound_jump | with_reducible apply Res.sound_ite | with_reducible apply sound_ite | show Sound f0 _ | split | with_reducible apply sound_mk | with_reducible refine Sound.parts ?_

theorem scanValue_sound {f0 : Fuses} (j : EngJob) {s : State} (hs : Sound f0 s) : Sound f0 (scanValue j s).2 := by
  unfold scanValue
  try dsimp only
  repeat' first | with_reducible assumption | with_reducible apply State.usePert_sound | with_reducible apply sound_ite | split | with_reducible apply sound_mk | with_reducible refine Sound.parts ?_

theorem scanDone_sound {f0 : Fuses} (u : Nat) (j : EngJob) {s : State} (hs : Sound f0 s) : Sound f0 (scanDone u j s) := by
  unfold scanDone
  extract_lets x sp n o
  split
  next v s0 heq =>
    have h0 : Sound f0 s0 := sound_pair2 heq (scanValue_sound _ hs)
    have h1 : ∀ rs, Sound f0 ((s0.readRngs j.core rs (63 + u)).1.incWrap Reg.CHK_SCAN_CNT 1) := fun rs => State.incWrap_sound _ _ (State.readRngs_sound _ _ _ h0)
    exact sound_ite (engEnd_sound _ _ (State.putBytes_sound _ _ _ _ _ (h1 _))) (engEnd_sound _ _ (State.onCtx_sound _ _ (h1 _)))

theorem dmaStart_sound {f0 : Fuses} (ch : Nat) (host : Option (Nat × W32)) {s : State} (hs : Sound f0 s) : Sound f0 (dmaStart ch host s) := by
  unfold dmaStart
  try dsimp only
  repeat' first | with_reducible assumption | with_reducible apply State.orReg_sound | with_reducible apply sound_ite | split | with_reducible apply sound_mk | with_reducible refine Sound.parts ?_

theorem dmaCopy_sound {f0 : Fuses} (ch : Nat) (j : DmaJob) {s : State} (hs : Sound f0 s) : Sound f0 (dmaCopy ch j s).1 := by
  unfold dmaCopy
  try dsimp only
  repeat' first | with_reducible assumption | with_reducible apply State.orReg_sound | with_reducible apply State.addSync_sound | with_reducible apply State.readRngs_sound | with_reducible apply State.engPut_sound | with_reducible apply sound_ite | refine sound_pair (by assumption) ?_ | split | with_reducible apply sound_mk | with_reducible refine Sound.parts ?_

theorem scrubLine_sound {f0 : Fuses} (sp : Nat) (a : Nat) {s : State} (hs : Sound f0 s) : Sound f0 (scrubLine sp a s) := by
  unfold scrubLine
  try dsimp only
  repeat' first | with_reducible assumption | with_reducible apply State.readFx_sound | with_reducible apply sound_ite | split | with_reducible apply sound_mk | with_reducible refine Sound.parts ?_

theorem State.readShadow_sound {f0 : Fuses} {s : State} (a : Nat) (hs : Sound f0 s) : Sound f0 (State.readShadow s a) := by
  unfold State.readShadow
  try dsimp only
  repeat' first | with_reducible assumption | with_reducible apply imgRead_sound | with_reducible apply sound_ite | split | with_reducible apply sound_mk | with_reducible refine Sound.parts ?_

theorem unitRuns_sound {f0 : Fuses} (a : Nat) (unit : Nat) (noise : List (Nat × Int)) {s : State} (hs : Sound f0 s) : Sound f0 (unitRuns a unit noise s).2 := by
  unfold unitRuns
  exact sound_foldl_snd (State.readShadow_sound _ hs) (fun q i hq => countClamps_sound _ _ _ (countClamps_sound _ _ _ hq))

theorem sweepPast_sound {f0 : Fuses} (a : Nat) {s : State} (hs : Sound f0 s) : Sound f0 (sweepPast a s) := by
  unfold sweepPast
  try dsimp only
  repeat' first | with_reducible assumption | with_reducible apply State.setFld_sound | with_reducible apply State.onMr_sound | with_reducible apply sound_ite | intro _ _ | split | with_reducible apply sound_mk | with_reducible refine Sound.parts ?_

theorem sweepBegin_sound {f0 : Fuses} {s : State} (hs : Sound f0 s) : Sound f0 (sweepBegin s) := by
  unfold sweepBegin
  try dsimp only
  repeat' first | with_reducible assumption | with_reducible apply State.setReg_sound | with_reducible apply State.onMr_sound | with_reducible apply sound_ite | intro _ _ | split | with_reducible apply sound_mk | with_reducible refine Sound.parts ?_

theorem testOver_sound {f0 : Fuses} (a : Nat) (code : Nat) {s : State} (hs : Sound f0 s) : Sound f0 (testOver a code s) := by
  unfold testOver
  try dsimp only
  repeat' first | with_reducible assumption | with_reducible apply State.setArr_sound | with_reducible apply endTests_sound | with_reducible apply sweepPast_sound | with_reducible apply sound_ite | intro _ _ | split | with_reducible apply sound_mk | with_reducible refine Sound.parts ?_

theorem judge_sound {f0 : Fuses} (a : Nat) (runs : List Run) {s : State} (hs : Sound f0 s) : Sound f0 (judge a runs s).2 := by
  unfold judge
  exact sound_foldl_snd hs (fun q e hq => checkGroups_sound _ _ _ hq)

theorem testFailed_sound {f0 : Fuses} (a : Nat) (v : Verdict) {s : State} (hs : Sound f0 s) : Sound f0 (testFailed a v s).1 := by
  unfold testFailed
  try dsimp only
  repeat' first | with_reducible assumption | with_reducible apply State.incReg_sound | with_reducible apply State.raise_sound | with_reducible apply retireAll_sound | with_reducible apply sound_ite | intro _ _ | refine sound_pair (by assumption) ?_ | split | with_reducible apply sound_mk | with_reducible refine Sound.parts ?_

theorem retest_sound {f0 : Fuses} (a : Nat) {s : State} (hs : Sound f0 s) : Sound f0 (retest a s) := by
  unfold retest
  try dsimp only
  repeat' first | with_reducible assumption | with_reducible apply State.setArr_sound | with_reducible apply beginUnit_sound | with_reducible apply sound_ite | split | with_reducible apply sound_mk | with_reducible refine Sound.parts ?_

theorem askTest_sound {f0 : Fuses} (a : Nat) (src : AskSrc) (us : Nat) {s : State} (hs : Sound f0 s) : Sound f0 (askTest a src us s) := by
  unfold askTest
  try dsimp only
  repeat' first | with_reducible assumption | with_reducible apply State.onTests_sound | with_reducible apply reportTest_sound | with_reducible apply testGo_sound | with_reducible apply sound_ite | intro _ _ | split | with_reducible apply sound_mk | with_reducible refine Sound.parts ?_

theorem pertWrite_sound {f0 : Fuses} (who : Who) (off : Nat) (v : W32) {s : State} (hs : Sound f0 s) : Sound f0 (pertWrite who off v s) := by
  unfold pertWrite
  try dsimp only
  repeat' first | with_reducible assumption | with_reducible apply State.raise_sound | with_reducible apply State.health_sound | with_reducible apply State.access_sound | with_reducible apply State.putMasked_sound | with_reducible apply State.setPert_sound | with_reducible apply sound_ite | intro _ _ | split | with_reducible apply sound_mk | with_reducible refine Sound.parts ?_

theorem State.dropRegs_sound {f0 : Fuses} {s : State} (d : Nat) (hs : Sound f0 s) : Sound f0 (State.dropRegs s d) := by
  unfold State.dropRegs
  try dsimp only
  repeat' first | with_reducible assumption | with_reducible apply sound_ite | intro _ _ | split | with_reducible apply sound_mk | with_reducible refine Sound.parts ?_

theorem State.dropReqs_sound {f0 : Fuses} {s : State} (lo : Nat) (hi : Nat) (hs : Sound f0 s) : Sound f0 (State.dropReqs s lo hi) := by
  unfold State.dropReqs
  try dsimp only
  repeat' first | with_reducible assumption | with_reducible apply sound_ite | intro _ _ | split | with_reducible apply sound_mk | with_reducible refine Sound.parts ?_

theorem errorLoads_sound {f0 : Fuses} (sp : Nat) {s : State} (hs : Sound f0 s) : Sound f0 (errorLoads sp s) := by
  unfold errorLoads
  try dsimp only
  repeat' first | with_reducible assumption | with_reducible apply State.setCtx_sound | with_reducible apply State.trapLoad_sound | with_reducible apply sound_ite | with_reducible apply sound_foldl_fst | with_reducible apply sound_foldl | intro _ _ _ | intro _ _ | split | with_reducible apply sound_mk | with_reducible refine Sound.parts ?_

theorem clearNvsc_sound {f0 : Fuses} {s : State} (hs : Sound f0 s) : Sound f0 (clearNvsc s) := by
  unfold clearNvsc
  try dsimp only
  repeat' first | with_reducible assumption | with_reducible apply sound_ite | split | with_reducible apply sound_mk | with_reducible refine Sound.parts ?_

theorem clearHst_sound {f0 : Fuses} {s : State} (hs : Sound f0 s) : Sound f0 (clearHst s) := by
  unfold clearHst
  try dsimp only
  repeat' first | with_reducible assumption | with_reducible apply sound_ite | split | with_reducible apply sound_mk | with_reducible refine Sound.parts ?_

theorem clearSec_sound {f0 : Fuses} {s : State} (hs : Sound f0 s) : Sound f0 (clearSec s) := by
  unfold clearSec
  try dsimp only
  repeat' first | with_reducible assumption | with_reducible apply State.setPert_sound | with_reducible apply sound_ite | split | with_reducible apply sound_mk | with_reducible refine Sound.parts ?_

theorem errorEngines_sound {f0 : Fuses} {s : State} (hs : Sound f0 s) : Sound f0 (errorEngines s) := by
  unfold errorEngines
  try dsimp only
  repeat' first | with_reducible assumption | with_reducible apply State.onCtx_sound | with_reducible apply engEnd_sound | with_reducible apply sound_ite | with_reducible apply sound_foldl_fst | with_reducible apply sound_foldl | intro _ _ _ | intro _ _ | split | with_reducible apply sound_mk | with_reducible refine Sound.parts ?_

theorem errorCopies_sound {f0 : Fuses} {s : State} (hs : Sound f0 s) : Sound f0 (errorCopies s) := by
  unfold errorCopies
  try dsimp only
  repeat' first | with_reducible assumption | with_reducible apply State.finish_sound | with_reducible apply sound_ite | with_reducible apply sound_foldl_fst | with_reducible apply sound_foldl | intro _ _ _ | intro _ _ | split | with_reducible apply sound_mk | with_reducible refine Sound.parts ?_

theorem clearFab_sound {f0 : Fuses} {s0 : State} (hs0 : Sound f0 s0) : Sound f0 (clearFab s0) := by
  unfold clearFab
  obtain ⟨h1, h2, h3, h4, h5, h6, h7, h8⟩ := State.mapArrs_sound (fun _ => true) (fun x => x.noPress.noTest) (errorLoads_sound 0 (errorCopies_sound (errorEngines_sound hs0)))
  exact ⟨h1, h2, Mem.empty_wf, h4, h5, h6, h7, h8⟩

theorem detach_sound {f0 : Fuses} (x : Image) {s : State} (hs : Sound f0 s) : Sound f0 (detach x s) := by
  unfold detach
  try dsimp only
  repeat' first | with_reducible assumption | with_reducible apply State.detachArrs_sound | with_reducible apply sound_ite | intro _ _ | split | with_reducible apply sound_mk | with_reducible refine Sound.parts ?_

theorem detachAll_sound {f0 : Fuses} {s : State} (hs : Sound f0 s) : Sound f0 (detachAll s) := by
  unfold detachAll
  try dsimp only
  repeat' first | with_reducible assumption | with_reducible apply State.mapArrs_sound | with_reducible apply refuseLoad_sound | with_reducible apply detach_sound | with_reducible apply sound_ite | with_reducible apply sound_foldl_fst | with_reducible apply sound_foldl | intro _ _ _ | intro _ _ | split | with_reducible apply sound_mk | with_reducible refine Sound.parts ?_

theorem clearDram_sound {f0 : Fuses} {s : State} (hs : Sound f0 s) : Sound f0 (clearDram s) := by
  unfold clearDram
  have key : ∀ x : State, Sound f0 x → Sound f0 { x with mem := { x.mem with dram := .empty }, psave := ⟨[], none⟩, refs := [] } := by
    intro x h
    obtain ⟨h1, h2, h3, h4, h5, h6, h7, h8⟩ := h
    exact ⟨h1, h2, h3, h4, Mem.empty_wf, h6, h7, h8⟩
  exact key _ (errorLoads_sound _ (detachAll_sound hs))

theorem clearHlk_sound {f0 : Fuses} {s : State} (hs : Sound f0 s) : Sound f0 (clearHlk s) := by
  unfold clearHlk
  try dsimp only
  repeat' first | with_reducible assumption | with_reducible apply sound_ite | split | with_reducible apply sound_mk | with_reducible refine Sound.parts ?_

theorem clearFio_sound {f0 : Fuses} {s : State} (hs : Sound f0 s) : Sound f0 (clearFio s) := by
  unfold clearFio
  try dsimp only
  repeat' first | with_reducible assumption | with_reducible apply sound_ite | split | with_reducible apply sound_mk | with_reducible refine Sound.parts ?_

theorem cutPress_sound {f0 : Fuses} (a : Nat) (j : PressJob) {s : State} (hs : Sound f0 s) : Sound f0 (cutPress a j s) := by
  unfold cutPress
  try dsimp only
  repeat' first | with_reducible assumption | with_reducible apply sound_ite | intro _ _ | split | with_reducible apply sound_mk | with_reducible refine Sound.parts ?_

theorem endCoreAsks_sound {f0 : Fuses} (c : Nat) {s : State} (hs : Sound f0 s) : Sound f0 (endCoreAsks c s) := by
  unfold endCoreAsks
  try dsimp only
  repeat' first | with_reducible assumption | with_reducible apply reportTest_sound | with_reducible apply reportAsk_sound | with_reducible apply sound_ite | with_reducible apply sound_foldl_fst | with_reducible apply sound_foldl | intro _ _ _ | intro _ _ | split | with_reducible apply sound_mk | with_reducible refine Sound.parts ?_

theorem clearCore_sound {f0 : Fuses} (c : Nat) {s0 : State} (hs0 : Sound f0 s0) : Sound f0 (clearCore c s0) := by
  unfold clearCore
  dsimp only
  refine Sound.keepCbuf (s := List.foldl _ _ _) (sound_foldl (sound_foldl (endCoreAsks_sound _ hs0) (fun t e ht => ?_)) (fun t k ht => State.setCtx_sound _ _ ht)) _ _ rfl rfl
  split
  · split
    · exact cutPress_sound _ _ ht
    · exact ht
  · exact ht

theorem clearDomBody_sound {f0 : Fuses} (d : Nat) {s : State} (hs : Sound f0 s) : Sound f0 (clearDomBody d s) := by
  unfold clearDomBody
  try dsimp only
  repeat' first | with_reducible assumption | with_reducible apply State.dropReqs_sound | with_reducible apply clearNvsc_sound | with_reducible apply clearHst_sound | with_reducible apply clearSec_sound | with_reducible apply clearFab_sound | with_reducible apply clearDram_sound | with_reducible apply clearHlk_sound | with_reducible apply clearFio_sound | with_reducible apply clearCore_sound | with_reducible apply sound_ite | split | with_reducible apply sound_mk | with_reducible refine Sound.parts ?_

theorem State.rearmDom_sound {f0 : Fuses} {s : State} (d : Nat) (hs : Sound f0 s) : Sound f0 (State.rearmDom s d) := by
  unfold State.rearmDom
  try dsimp only
  repeat' first | with_reducible assumption | with_reducible apply sound_ite | intro _ _ | split | with_reducible apply sound_mk | with_reducible refine Sound.parts ?_

theorem clearDom_sound {f0 : Fuses} (d : Nat) {s : State} (hs : Sound f0 s) : Sound f0 (clearDom d s) := by
  unfold clearDom
  try dsimp only
  repeat' first | with_reducible assumption | with_reducible apply State.orReg_sound | with_reducible apply State.dropRegs_sound | with_reducible apply clearDomBody_sound | with_reducible apply State.rearmDom_sound | with_reducible apply sound_ite | split | with_reducible apply sound_mk | with_reducible refine Sound.parts ?_

theorem clearDoms_sound {f0 : Fuses} (l : List Nat) {s : State} (hs : Sound f0 s) : Sound f0 (clearDoms l s) := by
  unfold clearDoms
  try dsimp only
  repeat' first | with_reducible assumption | with_reducible apply State.setDom_sound | with_reducible apply clearDom_sound | with_reducible apply sound_ite | with_reducible apply sound_foldl_fst | with_reducible apply sound_foldl | intro _ _ _ | intro _ _ | split | with_reducible apply sound_mk | with_reducible refine Sound.parts ?_

theorem clearWorking_sound {f0 : Fuses} {s : State} (hs : Sound f0 s) : Sound f0 (clearWorking s) := by
  unfold clearWorking
  try dsimp only
  repeat' first | with_reducible assumption | with_reducible apply clearDoms_sound | with_reducible apply sound_ite | split | with_reducible apply sound_mk | with_reducible refine Sound.parts ?_

theorem State.hold_sound {f0 : Fuses} {s : State} (restart : Nat) (hs : Sound f0 s) : Sound f0 (State.hold s restart) := by
  unfold State.hold
  try dsimp only
  repeat' first | with_reducible assumption | with_reducible apply sound_ite | split | with_reducible apply sound_mk | with_reducible refine Sound.parts ?_

theorem State.startStat_sound {f0 : Fuses} {s : State} (keepTrim : Bool) (hs : Sound f0 s) : Sound f0 (State.startStat s keepTrim) := by
  unfold State.startStat
  try dsimp only
  repeat' first | with_reducible assumption | with_reducible apply State.setReg_sound | with_reducible apply sound_ite | split | with_reducible apply sound_mk | with_reducible refine Sound.parts ?_

theorem stopped_sound {f0 : Fuses} {s : State} (hs : Sound f0 s) : Sound f0 (stopped s) := by
  unfold stopped
  try dsimp only
  repeat' first | with_reducible assumption | with_reducible apply State.setReg_sound | with_reducible apply sound_ite | split | with_reducible apply sound_mk | with_reducible refine Sound.parts ?_

theorem warmReset_sound {f0 : Fuses} (cause : Nat) (cut : Fin 8) {s : State} (hs : Sound f0 s) : Sound f0 (warmReset cause cut s) := by
  unfold warmReset
  try dsimp only
  repeat' first | with_reducible assumption | with_reducible apply State.orReg_sound | with_reducible apply State.nvsCut_sound | with_reducible apply clearDoms_sound | with_reducible apply State.hold_sound | with_reducible apply State.startStat_sound | with_reducible apply stopped_sound | with_reducible apply sound_ite | split | with_reducible apply sound_mk | with_reducible refine Sound.parts ?_

theorem coldReset_sound {f0 : Fuses} (cause : Nat) (cut : Fin 8) {s : State} (hs : Sound f0 s) : Sound f0 (coldReset cause cut s) := by
  unfold coldReset
  try dsimp only
  repeat' first | with_reducible assumption | with_reducible apply State.setReg_sound | with_reducible apply State.setFld_sound | with_reducible apply State.nvsCut_sound | with_reducible apply State.dropRegs_sound | with_reducible apply clearDoms_sound | with_reducible apply State.hold_sound | with_reducible apply sound_ite | split | with_reducible apply sound_mk | with_reducible refine Sound.parts ?_

end Sys2Proof.Machine
end

