-- ==== Sys2Proof/Laws/SoundE.lean ====
section
/-!
SUPPORT. What every step keeps (`Sound`), operation by operation, callees first (5 of 5).
-/
set_option linter.unusedTactic false
set_option linter.unreachableTactic false
set_option linter.unusedVariables false

namespace Sys2Proof.Machine

theorem State.deferEvent_sound {f0 : Fuses} {s : State} (code : Nat) (sev : Nat) (pay : Nat) (hs : Sound f0 s) : Sound f0 (State.deferEvent s code sev pay) := by
  unfold State.deferEvent
  try dsimp only
  repeat' first | with_reducible assumption | with_reducible apply sound_ite | split | with_reducible apply sound_mk | with_reducible refine Sound.parts ?_

theorem State.release_sound {f0 : Fuses} {s : State} (d : Nat) (hs : Sound f0 s) : Sound f0 (State.release s d) := by
  unfold State.release
  try dsimp only
  repeat' first | with_reducible assumption | with_reducible apply State.setDom_sound | with_reducible apply sound_ite | split | with_reducible apply sound_mk | with_reducible refine Sound.parts ?_

theorem autoBias_sound {f0 : Fuses} (c : Nat) {s : State} (hs : Sound f0 s) : Sound f0 (autoBias c s) := by
  unfold autoBias
  try dsimp only
  repeat' first | with_reducible assumption | with_reducible apply State.setArr_sound | with_reducible apply sound_ite | with_reducible apply sound_foldl_fst | with_reducible apply sound_foldl | intro _ _ _ | intro _ _ | split | with_reducible apply sound_mk | with_reducible refine Sound.parts ?_

theorem released_sound {f0 : Fuses} (d : Nat) {s : State} (hs : Sound f0 s) : Sound f0 (released d s) := by
  unfold released
  try dsimp only
  repeat' first | with_reducible assumption | with_reducible apply safeSync_sound | with_reducible apply autoBias_sound | with_reducible apply sound_ite | split | with_reducible apply sound_mk | with_reducible refine Sound.parts ?_

theorem State.startFault_sound {f0 : Fuses} {s : State} (hs : Sound f0 s) : Sound f0 (State.startFault s) := by
  unfold State.startFault
  try dsimp only
  repeat' first | with_reducible assumption | with_reducible apply sound_ite | split | with_reducible apply sound_mk | with_reducible refine Sound.parts ?_

theorem enterRecovery_sound {f0 : Fuses} {s : State} (hs : Sound f0 s) : Sound f0 (enterRecovery s) := by
  unfold enterRecovery
  try dsimp only
  repeat' first | with_reducible assumption | with_reducible apply State.orReg_sound | with_reducible apply State.release_sound | with_reducible apply sound_ite | split | with_reducible apply sound_mk | with_reducible refine Sound.parts ?_

theorem State.writeStart_sound {f0 : Fuses} {s : State} (hs : Sound f0 s) : Sound f0 (State.writeStart s) := by
  unfold State.writeStart
  try dsimp only
  repeat' first | with_reducible assumption | with_reducible apply State.abRead_sound | with_reducible apply State.abWriteNow_sound | with_reducible apply sound_ite | refine sound_pair (by assumption) ?_ | split | with_reducible apply sound_mk | with_reducible refine Sound.parts ?_

theorem State.startEvents_sound {f0 : Fuses} {s : State} (count : Nat) (hs : Sound f0 s) : Sound f0 (State.startEvents s count) := by
  unfold State.startEvents
  try dsimp only
  repeat' first | with_reducible assumption | with_reducible apply State.raiseRec_sound | with_reducible apply State.raise_sound | with_reducible apply sound_ite | with_reducible apply sound_foldl_fst | with_reducible apply sound_foldl | intro _ _ _ | intro _ _ | split | with_reducible apply sound_mk | with_reducible refine Sound.parts ?_

theorem step4_sound {f0 : Fuses} {s : State} (hs : Sound f0 s) : Sound f0 (step4 s) := by
  unfold step4
  try dsimp only
  repeat' first | with_reducible assumption | with_reducible apply State.setReg_sound | with_reducible apply State.orReg_sound | with_reducible apply State.raise_sound | with_reducible apply State.abRead_sound | with_reducible apply State.abWriteNow_sound | with_reducible apply enterRecovery_sound | with_reducible apply State.startEvents_sound | with_reducible apply sound_ite | refine sound_pair (by assumption) ?_ | split | with_reducible apply sound_mk | with_reducible refine Sound.parts ?_

theorem tryStep4_sound {f0 : Fuses} {s : State} (hs : Sound f0 s) : Sound f0 (tryStep4 s) := by
  unfold tryStep4
  try dsimp only
  repeat' first | with_reducible assumption | with_reducible apply step4_sound | with_reducible apply sound_ite | split | with_reducible apply sound_mk | with_reducible refine Sound.parts ?_

theorem endPower_sound {f0 : Fuses} (result : Nat) {s : State} (hs : Sound f0 s) : Sound f0 (endPower result s) := by
  unfold endPower
  try dsimp only
  repeat' first | with_reducible assumption | with_reducible apply result_sound | with_reducible apply State.finish_sound | with_reducible apply sound_ite | with_reducible apply sound_foldl_fst | with_reducible apply sound_foldl | intro _ _ _ | intro _ _ | split | with_reducible apply sound_mk | with_reducible refine Sound.parts ?_

theorem startPower_sound {f0 : Fuses} {s : State} (hs : Sound f0 s) : Sound f0 (startPower s) := by
  unfold startPower
  try dsimp only
  repeat' first | with_reducible assumption | with_reducible apply State.orReg_sound | with_reducible apply endPower_sound | with_reducible apply sound_ite | split | with_reducible apply sound_mk | with_reducible refine Sound.parts ?_

theorem runBundle_sound {f0 : Fuses} (b : Bundle) (src : Nat) {s : State} (hs : Sound f0 s) : Sound f0 (runBundle b src s) := by
  unfold runBundle
  try dsimp only
  repeat' first | with_reducible assumption | with_reducible apply State.setFld_sound | with_reducible apply loadCal_sound | with_reducible apply startTasks_sound | with_reducible apply State.release_sound | with_reducible apply startPower_sound | with_reducible apply sound_ite | split | with_reducible apply sound_mk | with_reducible refine Sound.parts ?_

theorem okRecord_sound {f0 : Fuses} {s : State} (hs : Sound f0 s) : Sound f0 (okRecord s) := by
  unfold okRecord
  try dsimp only
  repeat' first | with_reducible assumption | with_reducible apply State.abRead_sound | with_reducible apply State.nvsPut_sound | with_reducible apply sound_ite | refine sound_pair (by assumption) ?_ | split | with_reducible apply sound_mk | with_reducible refine Sound.parts ?_

theorem startOk_sound {f0 : Fuses} {s : State} (hs : Sound f0 s) : Sound f0 (startOk s) := by
  unfold startOk
  try dsimp only
  repeat' first | with_reducible assumption | with_reducible apply State.setReg_sound | with_reducible apply State.orReg_sound | with_reducible apply State.raise_sound | with_reducible apply okRecord_sound | with_reducible apply sound_ite | split | with_reducible apply sound_mk | with_reducible refine Sound.parts ?_

theorem blowRollback_sound {f0 : Fuses} (b : Bundle) {s : State} (hs : Sound f0 s) : Sound f0 (blowRollback b s) := by
  have h1 : Sound f0 { s with fus := { s.fus with rollback := s.fus.rollback + 1 } } := by
    obtain ⟨⟨k, u, i, d, r, v⟩, h⟩ := hs
    exact ⟨⟨k, u, i, d, Nat.le_succ_of_le r, v⟩, h⟩
  unfold blowRollback
  extract_lets old n s1
  exact sound_ite (sound_mk h1) (State.raise_sound _ _ _ _ (sound_mk h1))

theorem exitRecovery_sound {f0 : Fuses} (cut : Fin 8) {s : State} (hs : Sound f0 s) : Sound f0 (exitRecovery cut s) := by
  unfold exitRecovery
  exact warmReset_sound _ _ (State.setReg_sound _ _ (State.writeStart_sound hs))

theorem resolved_sound {f0 : Fuses} {s : State} (hs : Sound f0 s) : Sound f0 (resolved s) := by
  unfold resolved
  try dsimp only
  repeat' first | with_reducible assumption | with_reducible apply enterRecovery_sound | with_reducible apply State.startEvents_sound | with_reducible apply tryStep4_sound | with_reducible apply okRecord_sound | with_reducible apply exitRecovery_sound | with_reducible apply sound_ite | split | with_reducible apply sound_mk | with_reducible refine Sound.parts ?_

theorem stopSave_sound {f0 : Fuses} {s : State} (hs : Sound f0 s) : Sound f0 (stopSave s) := by
  unfold stopSave
  try dsimp only
  repeat' first | with_reducible assumption | with_reducible apply State.clrReg_sound | with_reducible apply calEnd_sound | with_reducible apply sound_ite | intro _ _ | split | with_reducible apply sound_mk | with_reducible refine Sound.parts ?_

theorem snapshot_sound {f0 : Fuses} {s : State} (hs : Sound f0 s) : Sound f0 (snapshot s) := by
  unfold snapshot
  try dsimp only
  repeat' first | with_reducible assumption | with_reducible apply State.setReg_sound | with_reducible apply State.setFld_sound | with_reducible apply State.setReg64_sound | with_reducible apply sound_ite | with_reducible apply sound_foldl_fst | with_reducible apply sound_foldl | intro _ _ _ | intro _ _ | split | with_reducible apply sound_mk | with_reducible refine Sound.parts ?_

theorem State.setCores_sound {f0 : Fuses} {s : State} (n : Nat) (hs : Sound f0 s) : Sound f0 (State.setCores s n) := by
  unfold State.setCores
  try dsimp only
  repeat' first | with_reducible assumption | with_reducible apply State.setFld_sound | with_reducible apply sound_ite | split | with_reducible apply sound_mk | with_reducible refine Sound.parts ?_

theorem pwrSettle_sound {f0 : Fuses} {s : State} (hs : Sound f0 s) : Sound f0 (pwrSettle s) := by
  unfold pwrSettle
  try dsimp only
  repeat' first | with_reducible assumption | with_reducible apply State.clrReg_sound | with_reducible apply State.raiseIf_sound | with_reducible apply endPower_sound | with_reducible apply sound_ite | split | with_reducible apply sound_mk | with_reducible refine Sound.parts ?_

theorem pwrRefuse_sound {f0 : Fuses} (b : Nat) {s : State} (hs : Sound f0 s) : Sound f0 (pwrRefuse b s) := by
  unfold pwrRefuse
  try dsimp only
  repeat' first | with_reducible assumption | with_reducible apply State.orReg_sound | with_reducible apply State.raise_sound | with_reducible apply sound_ite | split | with_reducible apply sound_mk | with_reducible refine Sound.parts ?_

theorem powerWrite_sound {f0 : Fuses} (v : W32) {s : State} (hs : Sound f0 s) : Sound f0 (powerWrite v s).1 := by
  unfold powerWrite
  try dsimp only
  repeat' first | with_reducible assumption | with_reducible apply State.orReg_sound | with_reducible apply State.putMasked_sound | with_reducible apply pwrRefuse_sound | with_reducible apply sound_ite | split | with_reducible apply sound_mk | with_reducible refine Sound.parts ?_

theorem State.saveWrite_sound {f0 : Fuses} {s : State} (p : SavePart) (bs : List Byte) (hs : Sound f0 s) : Sound f0 (State.saveWrite s p bs) := by
  unfold State.saveWrite
  try dsimp only
  repeat' first | with_reducible assumption | with_reducible apply State.dramPut_sound | with_reducible apply sound_ite | split | with_reducible apply sound_mk | with_reducible refine Sound.parts ?_

theorem State.saveRead_sound {f0 : Fuses} {s : State} (p : SavePart) (bs : List Byte) (hs : Sound f0 s) : Sound f0 (State.saveRead s p bs).1 := by
  unfold State.saveRead
  try dsimp only
  repeat' first | with_reducible assumption | with_reducible apply State.readFx_sound | with_reducible apply sound_ite | split | with_reducible apply sound_mk | with_reducible refine Sound.parts ?_

theorem saveCore_sound {f0 : Fuses} (c : Nat) {s : State} (hs : Sound f0 s) : Sound f0 (saveCore c s) := by
  unfold saveCore
  try dsimp only
  repeat' first | with_reducible assumption | with_reducible apply State.saveWrite_sound | with_reducible apply sound_ite | split | with_reducible apply sound_mk | with_reducible refine Sound.parts ?_

theorem restoreCore_sound {f0 : Fuses} (c : Nat) {s : State} (hs : Sound f0 s) : Sound f0 (restoreCore c s) := by
  unfold restoreCore
  try dsimp only
  repeat' first | with_reducible assumption | with_reducible apply State.setReg_sound | with_reducible apply State.setArr_sound | with_reducible apply State.saveRead_sound | with_reducible apply sound_ite | with_reducible apply sound_foldl_fst | with_reducible apply sound_foldl | intro _ _ _ | intro _ _ | refine sound_pair (by assumption) ?_ | split | with_reducible apply sound_mk | with_reducible refine Sound.parts ?_

theorem coreOff_sound {f0 : Fuses} (c : Nat) {s : State} (hs : Sound f0 s) : Sound f0 (coreOff c s) := by
  unfold coreOff
  try dsimp only
  repeat' first | with_reducible assumption | with_reducible apply State.setDom_sound | with_reducible apply clearDom_sound | with_reducible apply saveCore_sound | with_reducible apply sound_ite | split | with_reducible apply sound_mk | with_reducible refine Sound.parts ?_

theorem enterAon_sound {f0 : Fuses} {s : State} (hs : Sound f0 s) : Sound f0 (enterAon s) := by
  unfold enterAon
  try dsimp only
  repeat' first | with_reducible assumption | with_reducible apply State.setDom_sound | with_reducible apply clearDoms_sound | with_reducible apply stopped_sound | with_reducible apply State.saveWrite_sound | with_reducible apply saveCore_sound | with_reducible apply sound_ite | with_reducible apply sound_foldl_fst | with_reducible apply sound_foldl | intro _ _ _ | intro _ _ | split | with_reducible apply sound_mk | with_reducible refine Sound.parts ?_

theorem wake_sound {f0 : Fuses} (cause : Nat) {s : State} (hs : Sound f0 s) : Sound f0 (wake cause s) := by
  unfold wake
  try dsimp only
  repeat' first | with_reducible assumption | with_reducible apply State.setReg_sound | with_reducible apply State.setDom_sound | with_reducible apply State.release_sound | with_reducible apply released_sound | with_reducible apply sound_ite | split | with_reducible apply sound_mk | with_reducible refine Sound.parts ?_

theorem restoreImages_sound {f0 : Fuses} {s : State} (hs : Sound f0 s) : Sound f0 (restoreImages s) := by
  unfold restoreImages
  try dsimp only
  repeat' first | with_reducible assumption | with_reducible apply State.saveRead_sound | with_reducible apply sound_ite | intro _ _ | refine sound_pair (by assumption) ?_ | split | with_reducible apply sound_mk | with_reducible refine Sound.parts ?_

theorem startCopy_sound {f0 : Fuses} (q : Nat) (c : HCmd) (ch : Nat) {s : State} (hs : Sound f0 s) : Sound f0 (startCopy q c ch s) := by
  unfold startCopy
  try dsimp only
  repeat' first | with_reducible assumption | with_reducible apply State.setReg_sound | with_reducible apply State.setReg64_sound | with_reducible apply State.finish_sound | with_reducible apply dmaStart_sound | with_reducible apply sound_ite | split | with_reducible apply sound_mk | with_reducible refine Sound.parts ?_

theorem State.hostGot_sound {f0 : Fuses} {s : State} (r : Option (List Byte × Bool)) (hs : Sound f0 s) : Sound f0 (State.hostGot s r) := by
  unfold State.hostGot
  try dsimp only
  repeat' first | with_reducible assumption | with_reducible apply sound_ite | split | with_reducible apply sound_mk | with_reducible refine Sound.parts ?_

theorem hostPoison_sound {f0 : Fuses} (p : Nat) (bar4 : Bool) (bad : Bool) (off : Nat) {s : State} (hs : Sound f0 s) : Sound f0 (hostPoison p bar4 bad off s) := by
  unfold hostPoison
  try dsimp only
  repeat' first | with_reducible assumption | with_reducible apply State.raise_sound | with_reducible apply State.hstErr_sound | with_reducible apply sound_ite | split | with_reducible apply sound_mk | with_reducible refine Sound.parts ?_

theorem hostReadBody_sound {f0 : Fuses} (p : Nat) (bar4 : Bool) (off : Nat) (ps : List BarPart) {s : State} (hs : Sound f0 s) : Sound f0 (hostReadBody p bar4 off ps s) := by
  unfold hostReadBody
  try dsimp only
  repeat' first | with_reducible assumption | with_reducible apply State.readFx_sound | with_reducible apply State.hostGot_sound | with_reducible apply hostPoison_sound | with_reducible apply sound_ite | with_reducible apply sound_foldl_fst | with_reducible apply sound_foldl | intro _ _ _ | intro _ _ | split | with_reducible apply sound_mk | with_reducible refine Sound.parts ?_

theorem hostPut_sound {f0 : Fuses} (p : Nat) (x1 : List BarPart) (x2 : List Byte) {x3 : State} (hx3 : Sound f0 x3) : Sound f0 (hostPut p x1 x2 x3) := by
  induction x1 generalizing x2 x3 with
  | nil => unfold hostPut; (try dsimp only); repeat' first | with_reducible assumption | with_reducible apply State.writeFx_sound | with_reducible apply State.dramPut_sound | with_reducible apply sound_ite | split | with_reducible apply sound_mk | with_reducible refine Sound.parts ?_
  | cons _ _ ih => unfold hostPut; (try dsimp only); repeat' first | with_reducible assumption | with_reducible apply ih | with_reducible apply State.writeFx_sound | with_reducible apply State.dramPut_sound | with_reducible apply sound_ite | split | with_reducible apply sound_mk | with_reducible refine Sound.parts ?_

theorem enableChange_sound {f0 : Fuses} (old : W32) (new : W32) {s : State} (hs : Sound f0 s) : Sound f0 (enableChange old new s) := by
  unfold enableChange
  try dsimp only
  repeat' first | with_reducible assumption | with_reducible apply State.onAct_sound | with_reducible apply State.setCan_sound | with_reducible apply sound_ite | with_reducible apply sound_foldl_fst | with_reducible apply sound_foldl | intro _ _ _ | intro _ _ | split | with_reducible apply sound_mk | with_reducible refine Sound.parts ?_

theorem afterWrite_sound {f0 : Fuses} (a : Nat) {old : State} {s : State} (hold : Sound f0 old) (hs : Sound f0 s) : Sound f0 (afterWrite a old s) := by
  unfold afterWrite
  try dsimp only
  repeat' first | with_reducible assumption | with_reducible apply State.clrReg_sound | with_reducible apply State.msix_sound | with_reducible apply State.mirrorConfig_sound | with_reducible apply sendPending_sound | with_reducible apply enableChange_sound | with_reducible apply sound_ite | split | with_reducible apply sound_mk | with_reducible refine Sound.parts ?_

theorem ownWrite_sound {f0 : Fuses} (who : Who) (a : Nat) (v : W32) {s : State} (hs : Sound f0 s) : Sound f0 (ownWrite who a v s) := by
  unfold ownWrite
  try dsimp only
  repeat' first | with_reducible assumption | with_reducible apply State.endHeld_sound | with_reducible apply ctxWord_sound | with_reducible apply sound_ite | split | with_reducible apply sound_mk | with_reducible refine Sound.parts ?_

theorem chkClr_sound {f0 : Fuses} (a : Nat) (v : W32) {s : State} (hs : Sound f0 s) : Sound f0 (chkClr a v s) := by
  unfold chkClr
  try dsimp only
  repeat' first | with_reducible assumption | with_reducible apply clearCoreChecks_sound | with_reducible apply sound_ite | split | with_reducible apply sound_mk | with_reducible refine Sound.parts ?_

theorem registerWrite_sound {f0 : Fuses} (who : Who) (a : Nat) (v : W32) {s : State} (hs : Sound f0 s) : Sound f0 (registerWrite who a v s) := by
  unfold registerWrite
  try dsimp only
  repeat' first | with_reducible assumption | with_reducible apply State.endHeld_sound | with_reducible apply State.writeWord_sound | with_reducible apply strmCfgWrite_sound | with_reducible apply afterWrite_sound | with_reducible apply ownWrite_sound | with_reducible apply chkClr_sound | with_reducible apply sound_ite | split | with_reducible apply sound_mk | with_reducible refine Sound.parts ?_

theorem latchUpper_sound {f0 : Fuses} (who : Who) (a : Nat) {s : State} (hs : Sound f0 s) : Sound f0 (latchUpper who a s) := by
  unfold latchUpper
  try dsimp only
  repeat' first | with_reducible assumption | with_reducible apply State.setReq_sound | with_reducible apply sound_ite | split | with_reducible apply sound_mk | with_reducible refine Sound.parts ?_

theorem readLower_sound {f0 : Fuses} (who : Who) (a : Nat) {s : State} (hs : Sound f0 s) : Sound f0 (readLower who a s) := by
  unfold readLower
  try dsimp only
  repeat' first | with_reducible assumption | with_reducible apply State.nvsPut_sound | with_reducible apply latchUpper_sound | with_reducible apply sound_ite | split | with_reducible apply sound_mk | with_reducible refine Sound.parts ?_

theorem State.setPortSt_sound {f0 : Fuses} {s : State} (p : Nat) (v : Nat) (hs : Sound f0 s) : Sound f0 (State.setPortSt s p v) := by
  unfold State.setPortSt
  try dsimp only
  repeat' first | with_reducible assumption | with_reducible apply State.setFld_sound | with_reducible apply sound_ite | split | with_reducible apply sound_mk | with_reducible refine Sound.parts ?_

theorem portFail_sound {f0 : Fuses} (p : Nat) (lseq : W32) {s : State} (hs : Sound f0 s) : Sound f0 (portFail p lseq s) := by
  unfold portFail
  try dsimp only
  repeat' first | with_reducible assumption | with_reducible apply State.orReg_sound | with_reducible apply State.raise_sound | with_reducible apply State.setPort_sound | with_reducible apply State.setPortSt_sound | with_reducible apply sound_ite | split | with_reducible apply sound_mk | with_reducible refine Sound.parts ?_

theorem herdSend_sound {f0 : Fuses} (dst : Nat) (w : Wire) {s : State} (hs : Sound f0 s) : Sound f0 (herdSend dst w s) := by
  unfold herdSend
  try dsimp only
  repeat' first | with_reducible assumption | with_reducible apply State.incReg_sound | with_reducible apply State.portSend_sound | with_reducible apply sound_ite | split | with_reducible apply sound_mk | with_reducible refine Sound.parts ?_

theorem herdForward_sound {f0 : Fuses} (dst : Nat) (w : Wire) {s : State} (hs : Sound f0 s) : Sound f0 (herdForward dst w s) := by
  unfold herdForward
  try dsimp only
  repeat' first | with_reducible assumption | with_reducible apply State.incReg_sound | with_reducible apply State.portSend_sound | with_reducible apply sound_ite | split | with_reducible apply sound_mk | with_reducible refine Sound.parts ?_

theorem State.onLink_sound {f0 : Fuses} {s : State} (f : LinkSt → LinkSt) (hs : Sound f0 s) : Sound f0 (State.onLink s f) := by
  unfold State.onLink
  try dsimp only
  repeat' first | with_reducible assumption | with_reducible apply sound_ite | split | with_reducible apply sound_mk | with_reducible refine Sound.parts ?_

theorem State.setColl_sound {f0 : Fuses} {s : State} (i : Nat) (c : Coll) (hs : Sound f0 s) : Sound f0 (State.setColl s i c) := by
  unfold State.setColl
  try dsimp only
  repeat' first | with_reducible assumption | with_reducible apply State.onLink_sound | with_reducible apply sound_ite | intro _ _ | split | with_reducible apply sound_mk | with_reducible refine Sound.parts ?_

theorem collRecord_sound {f0 : Fuses} (c : Coll) (status : Nat) (pch : Nat) {s : State} (hs : Sound f0 s) : Sound f0 (collRecord c status pch s) := by
  unfold collRecord
  try dsimp only
  repeat' first | with_reducible assumption | with_reducible apply State.raiseIf_sound | with_reducible apply State.tankPut_sound | with_reducible apply State.addSync_sound | with_reducible apply sound_ite | split | with_reducible apply sound_mk | with_reducible refine Sound.parts ?_

theorem headSync_sound {f0 : Fuses} {s : State} (hs : Sound f0 s) : Sound f0 (headSync s) := by
  unfold headSync
  try dsimp only
  repeat' first | with_reducible assumption | with_reducible apply State.setReg_sound | with_reducible apply sound_ite | split | with_reducible apply sound_mk | with_reducible refine Sound.parts ?_

theorem takeColls_sound {f0 : Fuses} (x0 : Nat) {x1 : State} (hx1 : Sound f0 x1) : Sound f0 (takeColls x0 x1) := by
  induction x0 generalizing x1 with
  | zero => unfold takeColls; (try dsimp only); repeat' first | with_reducible assumption | with_reducible apply State.readFx_sound | with_reducible apply State.onLink_sound | with_reducible apply State.setColl_sound | with_reducible apply collRecord_sound | with_reducible apply sound_ite | intro _ _ | split | with_reducible apply sound_mk | with_reducible refine Sound.parts ?_
  | succ _ ih => unfold takeColls; (try dsimp only); repeat' first | with_reducible assumption | with_reducible apply ih | with_reducible apply State.readFx_sound | with_reducible apply State.onLink_sound | with_reducible apply State.setColl_sound | with_reducible apply collRecord_sound | with_reducible apply sound_ite | intro _ _ | split | with_reducible apply sound_mk | with_reducible refine Sound.parts ?_

theorem transmit_sound {f0 : Fuses} (f : ChunkFrame) {s : State} (hs : Sound f0 s) : Sound f0 (transmit f s) := by
  unfold transmit
  try dsimp only
  repeat' first | with_reducible assumption | with_reducible apply State.usePert_sound | with_reducible apply herdSend_sound | with_reducible apply sound_ite | split | with_reducible apply sound_mk | with_reducible refine Sound.parts ?_

theorem sendChunk_sound {f0 : Fuses} (c : Coll) (index : Nat) (payload : List Byte) (poison : Bool) {s : State} (hs : Sound f0 s) : Sound f0 (sendChunk c index payload poison s) := by
  unfold sendChunk
  try dsimp only
  repeat' first | with_reducible assumption | with_reducible apply State.onLink_sound | with_reducible apply transmit_sound | with_reducible apply sound_ite | intro _ _ | split | with_reducible apply sound_mk | with_reducible refine Sound.parts ?_

theorem sendUnit_sound {f0 : Fuses} (c : Coll) (t : Nat) (result : Bool) (k : Nat) (data : List Byte) (poison : Nat → Bool) {s : State} (hs : Sound f0 s) : Sound f0 (sendUnit c t result k data poison s) := by
  unfold sendUnit
  try dsimp only
  repeat' first | with_reducible assumption | with_reducible apply result_sound | with_reducible apply sendChunk_sound | with_reducible apply sound_ite | with_reducible apply sound_foldl_fst | with_reducible apply sound_foldl | intro _ _ _ | intro _ _ | split | with_reducible apply sound_mk | with_reducible refine Sound.parts ?_

theorem segmentDone_sound {f0 : Fuses} (i : Nat) (c : Coll) {s : State} (hs : Sound f0 s) : Sound f0 (segmentDone i c s) := by
  unfold segmentDone
  try dsimp only
  repeat' first | with_reducible assumption | with_reducible apply State.setColl_sound | with_reducible apply sendUnit_sound | with_reducible apply sound_ite | intro _ _ | split | with_reducible apply sound_mk | with_reducible refine Sound.parts ?_

theorem useChunk_sound {f0 : Fuses} (i : Nat) (c0 : Coll) (index : Nat) (payload : List Byte) (poison : Bool) {s : State} (hs : Sound f0 s) : Sound f0 (useChunk i c0 index payload poison s) := by
  unfold useChunk
  try dsimp only
  repeat' first | with_reducible assumption | with_reducible apply result_sound | with_reducible apply State.setColl_sound | with_reducible apply sendChunk_sound | with_reducible apply segmentDone_sound | with_reducible apply sound_ite | split | with_reducible apply sound_mk | with_reducible refine Sound.parts ?_

theorem classify_sound {f0 : Fuses} (c : Coll) (cls : Nat) (src : Nat) (index : Nat) {s : State} (hs : Sound f0 s) : Sound f0 (classify c cls src index s) := by
  unfold classify
  try dsimp only
  repeat' first | with_reducible assumption | with_reducible apply State.incReg_sound | with_reducible apply State.raise_sound | with_reducible apply sound_ite | split | with_reducible apply sound_mk | with_reducible refine Sound.parts ?_

theorem recvChunk_sound {f0 : Fuses} (i : Nat) (p : Nat) (f : ChunkFrame) {s : State} (hs : Sound f0 s) : Sound f0 (recvChunk i p f s) := by
  unfold recvChunk
  try dsimp only
  repeat' first | with_reducible assumption | with_reducible apply State.poison_sound | with_reducible apply herdSend_sound | with_reducible apply State.setColl_sound | with_reducible apply useChunk_sound | with_reducible apply classify_sound | with_reducible apply sound_ite | intro _ _ | split | with_reducible apply sound_mk | with_reducible refine Sound.parts ?_

theorem herdTake_sound {f0 : Fuses} (p : Nat) (dst : Nat) (w : Wire) (f : State → State) {s : State} (hf : ∀ t, Sound f0 t → Sound f0 (f t)) (hs : Sound f0 s) : Sound f0 (herdTake p dst w f s) := by
  unfold herdTake
  try dsimp only
  repeat' first | with_reducible assumption | with_reducible apply hf | with_reducible apply State.onFrames_sound | with_reducible apply herdForward_sound | with_reducible apply sound_ite | intro _ _ | split | with_reducible apply sound_mk | with_reducible refine Sound.parts ?_

theorem releaseKept_sound {f0 : Fuses} (r : ChunkReply) {s : State} (hs : Sound f0 s) : Sound f0 (releaseKept r s) := by
  unfold releaseKept
  try dsimp only
  repeat' first | with_reducible assumption | with_reducible apply State.onLink_sound | with_reducible apply sound_ite | intro _ _ | split | with_reducible apply sound_mk | with_reducible refine Sound.parts ?_

theorem resendKept_sound {f0 : Fuses} (r : ChunkReply) {s : State} (hs : Sound f0 s) : Sound f0 (resendKept r s) := by
  unfold resendKept
  try dsimp only
  repeat' first | with_reducible assumption | with_reducible apply State.onLink_sound | with_reducible apply transmit_sound | with_reducible apply sound_ite | intro _ _ | split | with_reducible apply sound_mk | with_reducible refine Sound.parts ?_

theorem firstSend_sound {f0 : Fuses} (i : Nat) (c : Coll) {s : State} (hs : Sound f0 s) : Sound f0 (firstSend i c s) := by
  unfold firstSend
  try dsimp only
  repeat' first | with_reducible assumption | with_reducible apply State.setColl_sound | with_reducible apply sendUnit_sound | with_reducible apply segmentDone_sound | with_reducible apply sound_ite | intro _ _ | split | with_reducible apply sound_mk | with_reducible refine Sound.parts ?_

theorem poisonRange_sound {f0 : Fuses} (a : Nat) (n : Nat) {s : State} (hs : Sound f0 s) : Sound f0 (poisonRange a n s) := by
  unfold poisonRange
  dsimp only
  refine State.setMem_sound _ _ hs ?_
  have h : (s.mem.tank.writeRaw a ((List.range n).map (fun i => Config.poisonByte (a + i) s.cnt.hlk))).wf = true := Mem.writeRaw_wf _ _ hs.2.2.1
  exact Mem.mk_wf h id (foldl_insert_rises _ _)

theorem collEnd_sound {f0 : Fuses} (i : Nat) {s : State} (hs : Sound f0 s) : Sound f0 (collEnd i s) := by
  unfold collEnd
  try dsimp only
  repeat' first | with_reducible assumption | with_reducible apply State.onLink_sound | with_reducible apply headSync_sound | with_reducible apply takeColls_sound | with_reducible apply sound_ite | intro _ _ | split | with_reducible apply sound_mk | with_reducible refine Sound.parts ?_

theorem State.onPair_sound {f0 : Fuses} {s : State} (f : PairSt → PairSt) (hs : Sound f0 s) : Sound f0 (State.onPair s f) := by
  unfold State.onPair
  try dsimp only
  repeat' first | with_reducible assumption | with_reducible apply sound_ite | split | with_reducible apply sound_mk | with_reducible refine Sound.parts ?_

theorem dropPrim_sound {f0 : Fuses} {s : State} (hs : Sound f0 s) : Sound f0 (dropPrim s) := by
  unfold dropPrim
  try dsimp only
  repeat' first | with_reducible assumption | with_reducible apply authSync_sound | with_reducible apply State.onPair_sound | with_reducible apply sound_ite | intro _ _ | split | with_reducible apply sound_mk | with_reducible refine Sound.parts ?_

theorem event508_sound {f0 : Fuses} {s : State} (hs : Sound f0 s) : Sound f0 (event508 s) := by
  unfold event508
  try dsimp only
  repeat' first | with_reducible assumption | with_reducible apply State.raise_sound | with_reducible apply sound_ite | split | with_reducible apply sound_mk | with_reducible refine Sound.parts ?_

theorem toFenced_sound {f0 : Fuses} {s : State} (hs : Sound f0 s) : Sound f0 (toFenced s) := by
  unfold toFenced
  try dsimp only
  repeat' first | with_reducible assumption | with_reducible apply State.onPair_sound | with_reducible apply dropPrim_sound | with_reducible apply sound_ite | intro _ _ | split | with_reducible apply sound_mk | with_reducible refine Sound.parts ?_

theorem toJoining_sound {f0 : Fuses} {s : State} (hs : Sound f0 s) : Sound f0 (toJoining s) := by
  unfold toJoining
  try dsimp only
  repeat' first | with_reducible assumption | with_reducible apply State.onPair_sound | with_reducible apply dropPrim_sound | with_reducible apply sound_ite | intro _ _ | split | with_reducible apply sound_mk | with_reducible refine Sound.parts ?_

theorem interlockLost_sound {f0 : Fuses} {s : State} (hs : Sound f0 s) : Sound f0 (interlockLost s) := by
  unfold interlockLost
  try dsimp only
  repeat' first | with_reducible assumption | with_reducible apply dropPrim_sound | with_reducible apply event508_sound | with_reducible apply toFenced_sound | with_reducible apply sound_ite | split | with_reducible apply sound_mk | with_reducible refine Sound.parts ?_

theorem standbyLost_sound {f0 : Fuses} {s : State} (hs : Sound f0 s) : Sound f0 (standbyLost s) := by
  unfold standbyLost
  try dsimp only
  repeat' first | with_reducible assumption | with_reducible apply State.raise_sound | with_reducible apply State.onPair_sound | with_reducible apply event508_sound | with_reducible apply toFenced_sound | with_reducible apply sound_ite | intro _ _ | split | with_reducible apply sound_mk | with_reducible refine Sound.parts ?_

theorem resyncStream_sound {f0 : Fuses} (st : Nat) {s : State} (hs : Sound f0 s) : Sound f0 (resyncStream st s) := by
  unfold resyncStream
  try dsimp only
  repeat' first | with_reducible assumption | with_reducible apply State.readFx_sound | with_reducible apply State.mirrorSend_sound | with_reducible apply State.mirrorConfig_sound | with_reducible apply sound_ite | with_reducible apply sound_foldl_fst | with_reducible apply sound_foldl | intro _ _ _ | intro _ _ | split | with_reducible apply sound_mk | with_reducible refine Sound.parts ?_

theorem resyncCtx_sound {f0 : Fuses} (i : Nat) {s : State} (hs : Sound f0 s) : Sound f0 (resyncCtx i s) := by
  unfold resyncCtx
  try dsimp only
  repeat' first | with_reducible assumption | with_reducible apply State.mirrorSend_sound | with_reducible apply sound_ite | split | with_reducible apply sound_mk | with_reducible refine Sound.parts ?_

theorem resyncPeer_sound {f0 : Fuses} {s : State} (hs : Sound f0 s) : Sound f0 (resyncPeer s) := by
  unfold resyncPeer
  try dsimp only
  repeat' first | with_reducible assumption | with_reducible apply State.mirrorSend_sound | with_reducible apply State.onPair_sound | with_reducible apply resyncStream_sound | with_reducible apply resyncCtx_sound | with_reducible apply sound_ite | with_reducible apply sound_foldl_fst | with_reducible apply sound_foldl | intro _ _ _ | intro _ _ | split | with_reducible apply sound_mk | with_reducible refine Sound.parts ?_

theorem State.onMir_sound {f0 : Fuses} {s : State} (st : Nat) (f : MirStrm → MirStrm) (hs : Sound f0 s) : Sound f0 (State.onMir s st f) := by
  unfold State.onMir
  try dsimp only
  repeat' first | with_reducible assumption | with_reducible apply State.onPair_sound | with_reducible apply sound_ite | intro _ _ | split | with_reducible apply sound_mk | with_reducible refine Sound.parts ?_

theorem mirTook_sound {f0 : Fuses} (k : Nat) (area : List Byte) {s : State} (hs : Sound f0 s) : Sound f0 (mirTook k area s) := by
  unfold mirTook
  try dsimp only
  repeat' first | with_reducible assumption | with_reducible apply State.onPair_sound | with_reducible apply sound_ite | intro _ _ | split | with_reducible apply sound_mk | with_reducible refine Sound.parts ?_

theorem recordMirror_sound {f0 : Fuses} (b : MirrorBody) {s : State} (hs : Sound f0 s) : Sound f0 (recordMirror b s) := by
  unfold recordMirror
  try dsimp only
  repeat' first | with_reducible assumption | with_reducible apply State.onPair_sound | with_reducible apply State.onMir_sound | with_reducible apply mirTook_sound | with_reducible apply sound_ite | intro _ _ | split | with_reducible apply sound_mk | with_reducible refine Sound.parts ?_

theorem mirrorGap_sound {f0 : Fuses} {s : State} (hs : Sound f0 s) : Sound f0 (mirrorGap s) := by
  unfold mirrorGap
  try dsimp only
  repeat' first | with_reducible assumption | with_reducible apply State.toPeer_sound | with_reducible apply State.onPair_sound | with_reducible apply sound_ite | intro _ _ | split | with_reducible apply sound_mk | with_reducible refine Sound.parts ?_

theorem freeMirrored_sound {f0 : Fuses} (p : W32 → Bool) {s : State} (hs : Sound f0 s) : Sound f0 (freeMirrored p s) := by
  unfold freeMirrored
  try dsimp only
  repeat' first | with_reducible assumption | with_reducible apply writeOut_sound | with_reducible apply sound_ite | with_reducible apply sound_foldl_fst | with_reducible apply sound_foldl | intro _ _ _ | intro _ _ | split | with_reducible apply sound_mk | with_reducible refine Sound.parts ?_

theorem kickPart_sound {f0 : Fuses} {s : State} (hs : Sound f0 s) : Sound f0 (kickPart s) := by
  unfold kickPart
  try dsimp only
  repeat' first | with_reducible assumption | with_reducible apply State.toPeer_sound | with_reducible apply State.onPair_sound | with_reducible apply dropPrim_sound | with_reducible apply event508_sound | with_reducible apply toFenced_sound | with_reducible apply sound_ite | intro _ _ | split | with_reducible apply sound_mk | with_reducible refine Sound.parts ?_

theorem missPart_sound {f0 : Fuses} {s : State} (hs : Sound f0 s) : Sound f0 (missPart s) := by
  unfold missPart
  try dsimp only
  repeat' first | with_reducible assumption | with_reducible apply State.raise_sound | with_reducible apply State.onPair_sound | with_reducible apply standbyLost_sound | with_reducible apply sound_ite | intro _ _ | split | with_reducible apply sound_mk | with_reducible refine Sound.parts ?_

theorem standDown_sound {f0 : Fuses} (i : Nat) {s : State} (hs : Sound f0 s) : Sound f0 (standDown i s) := by
  unfold standDown
  try dsimp only
  repeat' first | with_reducible assumption | with_reducible apply State.onCtx_sound | with_reducible apply ctxStop_sound | with_reducible apply sound_ite | intro _ _ | split | with_reducible apply sound_mk | with_reducible refine Sound.parts ?_

theorem standDownAll_sound {f0 : Fuses} {s : State} (hs : Sound f0 s) : Sound f0 (standDownAll s) := by
  unfold standDownAll
  try dsimp only
  repeat' first | with_reducible assumption | with_reducible apply unbind_sound | with_reducible apply trapWaiters_sound | with_reducible apply standDown_sound | with_reducible apply sound_ite | with_reducible apply sound_foldl_fst | with_reducible apply sound_foldl | intro _ _ _ | intro _ _ | split | with_reducible apply sound_mk | with_reducible refine Sound.parts ?_

theorem toStandby_sound {f0 : Fuses} {s : State} (hs : Sound f0 s) : Sound f0 (toStandby s) := by
  unfold toStandby
  try dsimp only
  repeat' first | with_reducible assumption | with_reducible apply State.onPair_sound | with_reducible apply standDownAll_sound | with_reducible apply sound_ite | intro _ _ | split | with_reducible apply sound_mk | with_reducible refine Sound.parts ?_

theorem beatState_sound {f0 : Fuses} (h : PeerBeat) {s : State} (hs : Sound f0 s) : Sound f0 (beatState h s) := by
  unfold beatState
  try dsimp only
  repeat' first | with_reducible assumption | with_reducible apply State.toPeer_sound | with_reducible apply State.onPair_sound | with_reducible apply resyncPeer_sound | with_reducible apply mirrorGap_sound | with_reducible apply toStandby_sound | with_reducible apply sound_ite | intro _ _ | split | with_reducible apply sound_mk | with_reducible refine Sound.parts ?_

theorem State.noteTaken_sound {f0 : Fuses} (st : Nat) (n : W32) {s : State} (hs : Sound f0 s) : Sound f0 (s.noteTaken st n) :=
  State.setStrm_sound _ _ hs

theorem takeStream_sound {f0 : Fuses} (st : Nat) (m : MirStrm) {s : State} (hs : Sound f0 s) : Sound f0 (takeStream st m s) := by
  unfold takeStream
  try dsimp only
  repeat' first | with_reducible assumption | with_reducible apply State.setReg_sound | with_reducible apply State.tankPut_sound | with_reducible apply State.setStrm_sound | with_reducible apply State.flush_sound | with_reducible apply State.noteTaken_sound | with_reducible apply sound_ite | with_reducible apply sound_foldl_fst | with_reducible apply sound_foldl | intro _ _ _ | intro _ _ | split | with_reducible apply sound_mk | with_reducible refine Sound.parts ?_

theorem noteCur_sound {f0 : Fuses} (i : Nat) {s : State} (hs : Sound f0 s) : Sound f0 (noteCur i s) := by
  unfold noteCur
  split
  · exact State.noteTaken_sound _ _ hs
  · exact hs

theorem takeCtx_sound {f0 : Fuses} (i : Nat) (area : List Byte) {s : State} (hs : Sound f0 s) : Sound f0 (takeCtx i area s) := by
  unfold takeCtx
  try dsimp only
  repeat' first | with_reducible assumption | with_reducible apply State.tankPut_sound | with_reducible apply ctxResume_sound | with_reducible apply noteCur_sound | with_reducible apply sound_ite | split | with_reducible apply sound_mk | with_reducible refine Sound.parts ?_

theorem doneWaiters_sound {f0 : Fuses} (st : Nat) (n : W32) {s : State} (hs : Sound f0 s) : Sound f0 (doneWaiters st n s) := by
  unfold doneWaiters
  try dsimp only
  repeat' first | with_reducible assumption | with_reducible apply doneAgain_sound | with_reducible apply State.hold_sound | with_reducible apply sound_ite | with_reducible apply sound_foldl_fst | with_reducible apply sound_foldl | intro _ _ _ | intro _ _ | split | with_reducible apply sound_mk | with_reducible refine Sound.parts ?_

theorem refuseBundle_sound {f0 : Fuses} (loc : Nat) (check : Nat) {s : State} (hs : Sound f0 s) : Sound f0 (refuseBundle loc check s) := by
  unfold refuseBundle
  try dsimp only
  repeat' first | with_reducible assumption | with_reducible apply State.raise_sound | with_reducible apply sound_ite | split | with_reducible apply sound_mk | with_reducible refine Sound.parts ?_

theorem mbxEnd_sound {f0 : Fuses} (code : Nat) {s : State} (hs : Sound f0 s) : Sound f0 (mbxEnd code s) := by
  unfold mbxEnd
  try dsimp only
  repeat' first | with_reducible assumption | with_reducible apply State.setReg_sound | with_reducible apply sound_ite | split | with_reducible apply sound_mk | with_reducible refine Sound.parts ?_

theorem mbxCommand_sound {f0 : Fuses} (op : Nat) (stage : Stage) {s : State} (hs : Sound f0 s) : Sound f0 (mbxCommand op stage s) := by
  unfold mbxCommand
  try dsimp only
  repeat' first | with_reducible assumption | with_reducible apply State.setReg_sound | with_reducible apply State.setFld_sound | with_reducible apply mbxEnd_sound | with_reducible apply sound_ite | split | with_reducible apply sound_mk | with_reducible refine Sound.parts ?_

theorem reloadEnd_sound {f0 : Fuses} (qspiOk : Bool) {s : State} (hs : Sound f0 s) : Sound f0 (reloadEnd qspiOk s) := by
  unfold reloadEnd
  refine sound_ite (mbxEnd_sound _ ?_) (mbxEnd_sound _ hs)
  obtain ⟨h1, h2, h3, h4, h5, h6, h7, h8⟩ := hs
  exact ⟨h1, h2, h3, h4, h5, h6, h7, Mem.writeRaw_wf _ _ h8⟩

theorem mailboxBundle_sound {f0 : Fuses} (readOk : Bool) (qspiOk : Bool) {s : State} (hs : Sound f0 s) : Sound f0 (mailboxBundle readOk qspiOk s) := by
  unfold mailboxBundle
  refine sound_ite (reloadEnd_sound _ hs) (sound_ite (mbxEnd_sound _ hs) ?_)
  extract_lets o c n
  refine sound_ite (mbxEnd_sound _ (refuseBundle_sound _ _ hs)) (sound_ite (runBundle_sound _ _ (mbxEnd_sound _ hs)) (sound_ite ?_ (mbxEnd_sound _ hs)))
  obtain ⟨h1, h2, h3, h4, h5, h6, h7, h8⟩ := hs
  exact ⟨h1, h2, h3, h4, h5, h6, h7, Mem.writeRaw_wf _ _ h8⟩

theorem submitEnd_sound {f0 : Fuses} (code : Nat) {s : State} (hs : Sound f0 s) : Sound f0 (submitEnd code s) := by
  unfold submitEnd
  try dsimp only
  repeat' first | with_reducible assumption | with_reducible apply State.setReg_sound | with_reducible apply sound_ite | split | with_reducible apply sound_mk | with_reducible refine Sound.parts ?_

theorem submitFail_sound {f0 : Fuses} (code : Nat) {s : State} (hs : Sound f0 s) : Sound f0 (submitFail code s) := by
  unfold submitFail
  try dsimp only
  repeat' first | with_reducible assumption | with_reducible apply State.raise_sound | with_reducible apply submitEnd_sound | with_reducible apply sound_ite | split | with_reducible apply sound_mk | with_reducible refine Sound.parts ?_

theorem submitEff_sound {f0 : Fuses} (scope : BitVec 2) {s : State} (hs : Sound f0 s) : Sound f0 (submitEff scope s) := by
  unfold submitEff
  try dsimp only
  repeat' first | with_reducible assumption | with_reducible apply State.raise_sound | with_reducible apply submitEnd_sound | with_reducible apply submitFail_sound | with_reducible apply sound_ite | split | with_reducible apply sound_mk | with_reducible refine Sound.parts ?_

theorem tickCore_sound {f0 : Fuses} {s : State} (c : Nat) (hs : Sound f0 s) : Sound f0 (tickCore s c) := by
  unfold tickCore
  try dsimp only
  repeat' first | with_reducible assumption | with_reducible apply State.incWrap_sound | with_reducible apply sound_ite | split | with_reducible apply sound_mk | with_reducible refine Sound.parts ?_

theorem tick_sound {f0 : Fuses} {s : State} (hs : Sound f0 s) : Sound f0 (tick s) := by
  unfold tick
  try dsimp only
  repeat' first | with_reducible assumption | with_reducible apply tickCore_sound | with_reducible apply sound_ite | with_reducible apply sound_foldl_fst | with_reducible apply sound_foldl | intro _ _ _ | split | with_reducible apply sound_mk | with_reducible refine Sound.parts ?_

theorem State.withFetchWord_sound {f0 : Fuses} {s : State} (nbits : Nat) (w : Nat) (hs : Sound f0 s) : Sound f0 (State.withFetchWord s nbits w) := by
  unfold State.withFetchWord
  try dsimp only
  repeat' first | with_reducible assumption | with_reducible apply sound_ite | split | with_reducible apply sound_mk | with_reducible refine Sound.parts ?_

end Sys2Proof.Machine
end

