-- ==== Sys2Proof/WellFormed.lean ====
section
/-!
DEFINITION. Which commands the outside world can bring: the operands that a packet, a frame, a pin, a sensor or firmware cannot carry are
ill-formed. `exec` is total on ill-formed commands too; no statement rests on well-formedness unless it says so.
-/
namespace Sys2Proof

/-- Numbers without repeats, all below a bound. -/
def distinctBelow (n : Nat) (l : List Nat) : Bool := decide l.Nodup && l.all (fun x => decide (x < n))

/-- Device noise of a number of phases: each phase names a device (column, segment) by segment * 528 + column, once (R40, R43). -/
def noiseOk (phases : Nat) (l : List (Nat × Int)) : Bool := distinctBelow (2112 * phases) (l.map (fun e => e.1))

/-- Devices of a row group found outside their window: 132 to a group, each once (R156, R157). -/
def outsideOk (l : List (Nat × Bool)) : Bool := distinctBelow 132 (l.map (fun e => e.1))

/-- Firmware's choice of arrays: global indices, each once (R13, R172). -/
def allocOk (l : List Nat) : Bool := distinctBelow 2048 l

/-- A CSI-2 long packet carries at most 65,535 bytes, its word count being 16 bits (Table TNK-2). -/
def csiOk (data : List Byte) : Bool := decide (data.length < 65536)

/-- A UDP payload holds at most 65,507 bytes, the IPv4 length being 16 bits (Table TNK-2). -/
def EthFrame.wf (f : EthFrame) : Bool := decide (f.payload.length ≤ 65507)

/-- A test outcome names each unit once (R285, R299). -/
def TestOutcome.wf (r : TestOutcome) : Bool := distinctBelow 8 (r.residues.map (fun k => k.val))

/-- A chunk is 1 byte to 64 KiB (R322, HLK_CHUNK). -/
def ChunkFrame.wf (f : ChunkFrame) : Bool := decide (0 < f.payload.length) && decide (f.payload.length ≤ 65536)

/-- A save area is 896 + 16 × (tiles + slots) bytes; a result copy holds whole bytes of its ring entry, its header first (R212, R266, R334). -/
def MirrorRec.wf (r : MirrorRec) : Bool := match r.body with
  | .checkpoint _ area => decide (896 ≤ area.length) && area.length % 16 == 0
  | .resolution _ _ entry => decide (32 ≤ entry.length)
  | _ => true

/-- The data bytes of a DLC (ISO 11898-1, R245). -/
def canBytes (fdf : Bool) (dlc : Nat) : Nat :=
  if dlc ≤ 8 then dlc else if !fdf then 8 else match dlc with
    | 9 => 12
    | 10 => 16
    | 11 => 20
    | 12 => 24
    | 13 => 32
    | 14 => 48
    | _ => 64

/-- A frame that a CAN bus can carry (R245, Table INS-17). -/
def CanFrame.wf (f : CanFrame) : Bool :=
  (f.ide || decide (f.id.toNat < 2048)) && (f.fdf || !f.brs) && !(f.rtr && f.fdf)
    && f.data.length == (if f.rtr then 0 else canBytes f.fdf f.dlc.toNat)

/-- A failed fuse row was read four times: its retries are attempts 1 to 3, each once (R424). -/
def fuseOk (retries : List (BitVec 16 × Fin 4)) (failed : Option (BitVec 16)) : Bool :=
  decide retries.Nodup && retries.all (fun r => r.2 != 0) && (match failed with
    | none => true
    | some row => [1, 2, 3].all (fun (n : Fin 4) => retries.contains (row, n)))

/-- A converter has 16 inputs (R342). -/
def Volts.wf (v : Volts) : Bool := v.inputs.length == 16

/-- A link width of 1, 2, 4 or 8 lanes and a speed of 1 to 4 (R462). -/
def pcieOk (width : Fin 9) (speed : Fin 5) : Bool := [1, 2, 4, 8].contains width.val && speed != 0

/-- The commands that can come. -/
def Instr.wf : Instr → Bool
  | .arrayPhaseEnd _ noise => noiseOk 1 noise
  | .lightChurnProbesEnd _ noise => noiseOk 2 noise
  | .fullChurnUnitEnd _ noise => noiseOk 10 noise
  | .pressVerifyRead _ outside => outsideOk outside
  | .loadPress _ _ _ alloc => allocOk alloc
  | .loadAttach _ _ _ alloc => allocOk alloc
  | .reloadStart alloc => allocOk alloc
  | .mrUnitEnd a => noiseOk 12 a.noise
  | .csiLongPacket _ _ _ data _ _ => csiOk data
  | .ethFrame _ f => f.wf
  | .mrTestComplete _ r => r.wf
  | .chunkData _ f => f.wf
  | .mirrorRecord r => r.wf
  | .canRxFrame _ (.frame f _) => f.wf
  | .fuseLoadComplete retries failed => fuseOk retries failed
  | .msrResult _ v _ => v.wf
  | .msrCalStepComplete vs ovl => (ovl || vs.length == 16) && vs.all Volts.wf
  | .hostMemoryRead _ _ _ len => decide (0 < len)
  | .hostMemoryWrite _ _ _ data => decide (0 < data.length)
  | .pcieLinkUp _ width speed => pcieOk width speed
  | _ => true

end Sys2Proof
end

