-- ==== Sys2Proof/Tests/Slice0.lean ====
section
/-!
SUPPORT. Tests: ill-formed commands are refused by `Instr.wf`; small steps of commands against values worked out from the spec; and for each
statement with hypotheses a state and operands that meet them.
-/
namespace Sys2Proof.Tests

set_option Elab.async false

open Sys2Proof.Machine

/-! ## Small states -/

/-- Every domain runs, the trim is loaded and firmware runs. -/
def up : State := { State.reset with rst := { State.reset.rst with dom := (List.range 41).map (fun d => (d, DomSt.run)), stage := .run }, regs := [(Reg.RST_STAT, 1)] }

/-- Context 0 of core 0. -/
def k0 : CtxId := ⟨0, 0⟩

/-- A context in RUN at PC 0. -/
def c0 : Ctx := { Ctx.idle with st := .run }

/-- Context 0 as given. -/
def inCtx (c : Ctx) : State := up.setCtx 0 c

/-- Context 0 in RUN. -/
def s0 : State := inCtx c0

/-- A word of format A (Table INS-3): RD, RA, RB, I, FN, IMM. -/
def wA (rd ra rb i fn imm : Nat) : BitVec 56 := BitVec.ofNat 56 (rd * 2 ^ 46 + ra * 2 ^ 41 + rb * 2 ^ 36 + i * 2 ^ 35 + fn * 2 ^ 32 + imm)

/-- What a step answers, as a state. -/
def after (o : Out) : State := match o with
  | .next t => t
  | _ => State.reset

/-- A word with fields given by their lowest bit and value. -/
def wF (l : List (Nat × Nat)) : BitVec 56 := BitVec.ofNat 56 (l.foldl (fun a p => a + p.2 * 2 ^ p.1) 0)

/-- A descriptor (Table INS-5) by BASE, FMT, SPACE, DIM0, DIM1, STR1; other dimensions 1. -/
def dsc (base fmt sp d0 d1 st1 : Nat) : BitVec 256 :=
  BitVec.ofNat 256 (base + fmt * 2 ^ 48 + sp * 2 ^ 52 + d0 * 2 ^ 64 + d1 * 2 ^ 80 + 2 ^ 96 + 2 ^ 112 + st1 * 2 ^ 128)

/-- As `up`, with registers set. -/
def upR (l : List (Nat × W32)) : State := l.foldl (fun s p => s.setReg p.1 p.2) up

/-- A tile of 64 columns and one vector, E 1, P 1. -/
def t0 : Tile := ⟨0, 1, 64, 1, 0, 1, 1, false, 0, 0, false, false, none, 0xFF, [], [], []⟩

/-! ## Witnesses: scalar and memory instructions -/

theorem witness_StepRunsTheFrontCommandOrIdles :
    ({ up with pending := [.linkDown 0] } : State).pending = .linkDown 0 :: [] ∧ up.pending = [] := by decide

theorem witness_ScalarArithmeticResults :
    (Runs s0 k0 (wA 31 1 2 0 0 0) (needsA (wA 31 1 2 0 0 0)) ∧ fFN (wA 31 1 2 0 0 0) = 0)
      ∧ (Runs s0 k0 (wA 0 1 0 1 1 5) (needsA (wA 0 1 0 1 1 5)) ∧ fI (wA 0 1 0 1 1 5) = true ∧ fRB (wA 0 1 0 1 1 5) = 0 ∧ fFN (wA 0 1 0 1 1 5) = 1)
      ∧ (Runs s0 k0 (wA 1 0 0 0 2 7) [.scalar 1] ∧ fRD (wA 1 0 0 0 2 7) = 1 ∧ fRA (wA 1 0 0 0 2 7) = 0 ∧ fRB (wA 1 0 0 0 2 7) = 0
        ∧ fI (wA 1 0 0 0 2 7) = false ∧ fFN (wA 1 0 0 0 2 7) < 3) := by decide +kernel

theorem witness_PredicateResults :
    (∀ f < 8, Runs s0 k0 (wA 7 1 2 0 f 0) (needsA (wA 7 1 2 0 f 0)) ∧ fI (wA 7 1 2 0 f 0) = false ∧ fRD (wA 7 1 2 0 f 0) < 8 ∧ fFN (wA 7 1 2 0 f 0) = f)
      ∧ (∀ f < 8, Runs s0 k0 (wA 7 1 2 0 f 0) [] ∧ fRA (wA 7 1 2 0 f 0) < 8 ∧ fRB (wA 7 1 2 0 f 0) < 8 ∧ fIMM (wA 7 1 2 0 f 0) = 0) := by decide +kernel

/-- s1 is 1 and s2 the last word of the tank. -/
def cBr : Ctx := { c0 with s := [(1, 1), (2, BitVec.ofNat 64 (2 ^ 27 - 8))] }

theorem witness_BranchResults :
    (fw (wA 0 0 0 0 0 16) 40 32 = 0 ∧ fIMM (wA 0 0 0 0 0 16) % 8 = 0 ∧ Runs (inCtx cBr) k0 (wA 0 0 0 0 0 16) [] ∧ fRD (wA 0 0 0 0 0 16) = 0
        ∧ fRA (wA 0 0 0 0 0 16) = 0 ∧ (((inCtx cBr).ctx (ctxIx k0)).pc + sext32 (fIMM (wA 0 0 0 0 0 16))).toNat % 8 = 0
        ∧ (((inCtx cBr).ctx (ctxIx k0)).pc + sext32 (fIMM (wA 0 0 0 0 0 16))).toNat < 2 ^ 27)
      ∧ (Runs (inCtx cBr) k0 (wA 5 2 0 0 0 0) [.scalar 2] ∧ fRA (wA 5 2 0 0 0 0) = 2
        ∧ (opA (inCtx cBr) k0 (wA 5 2 0 0 0 0) + sext32 (fIMM (wA 5 2 0 0 0 0))).toNat % 8 = 0
        ∧ (opA (inCtx cBr) k0 (wA 5 2 0 0 0 0) + sext32 (fIMM (wA 5 2 0 0 0 0))).toNat < 2 ^ 27)
      ∧ (Runs (inCtx cBr) k0 (wA 0 1 0 0 0 8) [.scalar 1] ∧ fRD (wA 0 1 0 0 0 8) = 0 ∧ opA (inCtx cBr) k0 (wA 0 1 0 0 0 8) = 1)
      ∧ (Runs (inCtx cBr) k0 (wA 0 2 0 0 0 8) [.scalar 2] ∧ opA (inCtx cBr) k0 (wA 0 2 0 0 0 8) ≠ 1) := by decide +kernel

/-- A word of format M (Table INS-3): RD, RA, SIZE, SPACE, IMM. -/
def wM (rd ra sz sp imm : Nat) : BitVec 56 := BitVec.ofNat 56 (rd * 2 ^ 46 + ra * 2 ^ 41 + sp * 2 ^ 39 + sz * 2 ^ 36 + imm)

theorem witness_LoadsAreIssued :
    (Runs s0 k0 (wM 1 0 6 0 0x7FFFFF8) [.scalar 0] ∧ fRA (wM 1 0 6 0 0x7FFFFF8) = 0 ∧ fMSP (wM 1 0 6 0 0x7FFFFF8) ≠ 3 ∧ fw (wM 1 0 6 0 0x7FFFFF8) 35 32 = 0
        ∧ fMSZ (wM 1 0 6 0 0x7FFFFF8) ≠ 7
        ∧ memOk (s0.fetchFx (ctxIx k0)) (ctxIx k0 / 4) (fMSP (wM 1 0 6 0 0x7FFFFF8)) (memAddr (s0.ctx (ctxIx k0)) (wM 1 0 6 0 0x7FFFFF8)) (szBytes (fMSZ (wM 1 0 6 0 0x7FFFFF8))) = true)
      ∧ (Runs s0 k0 (wM 15 0 0 1 32) [.scalar 0] ∧ fMSP (wM 15 0 0 1 32) ≠ 3 ∧ fw (wM 15 0 0 1 32) 35 32 = 0 ∧ fMSZ (wM 15 0 0 1 32) = 0 ∧ fRD (wM 15 0 0 1 32) < 16
        ∧ memOk (s0.fetchFx (ctxIx k0)) (ctxIx k0 / 4) (fMSP (wM 15 0 0 1 32)) (memAddr (s0.ctx (ctxIx k0)) (wM 15 0 0 1 32)) 32 = true)
      ∧ (∀ f < 2, Runs s0 k0 (wA 15 1 2 0 f 0) (needsA (wA 15 1 2 0 f 0) ++ [.desc (fRD (wA 15 1 2 0 f 0))]) ∧ fRD (wA 15 1 2 0 f 0) < 16 ∧ fFN (wA 15 1 2 0 f 0) < 2) := by
  decide +kernel

/-- A load of the byte at 0 for s1, waiting for nothing. -/
def ld1 : LoadSt := ⟨some (.scalar 1), ⟨0, 0, 1⟩, 1, []⟩

theorem witness_LoadDataArrives :
    ((inCtx { c0 with loads := [ld1] }).ctx (ctxIx k0)).loads[0]? = some ld1 ∧ (inCtx { c0 with loads := [ld1] }).coreUp (ctxIx k0 / 4) = true ∧ ld1.after = []
      ∧ (inCtx { c0 with loads := [ld1] }).spUp (ctxIx k0 / 4) ld1.rng.sp = true
      ∧ ∀ e ∈ ((inCtx { c0 with loads := [ld1] }).memOf ld1.rng.sp).ecc, overlap (8 * e.1) 8 ld1.rng.lo ld1.rng.len = false := by decide +kernel

/-- An uncorrectable error in the group of bytes 64 to 71 of the tank. -/
def sBad : State := { s0 with mem := { s0.mem with tank := ⟨[], [(8, true)]⟩ } }

theorem witness_StoresWriteOnlyTheirBytes :
    (∀ z < 7, fMSP (wM 1 0 z 0 64) ≠ 3 ∧ fw (wM 1 0 z 0 64) 35 32 = 0 ∧ fMSZ (wM 1 0 z 0 64) = z ∧ Runs sBad k0 (wM 1 0 z 0 64) [.scalar 0, .scalar 1]
        ∧ memAddr (sBad.ctx (ctxIx k0)) (wM 1 0 z 0 64) = 64 ∧ spAddr (ctxIx k0 / 4) 0 64 = 64 ∧ memOk (sBad.fetchFx (ctxIx k0)) (ctxIx k0 / 4) 0 64 (szBytes z) = true
        ∧ (sBad.ctx (ctxIx k0)).touches ⟨0, 64, szBytes z⟩ = false)
      ∧ (sBad.fetchFx (ctxIx k0)).partBadAt 0 64 1 = true ∧ (sBad.fetchFx (ctxIx k0)).partBadAt 0 64 8 = false
      ∧ (fMSP (wM 15 0 0 1 32) = 1 ∧ fMSZ (wM 15 0 0 1 32) = 0 ∧ fRD (wM 15 0 0 1 32) < 16 ∧ Runs s0 k0 (wM 15 0 0 1 32) [.scalar 0, .desc 15]
        ∧ memAddr (s0.ctx (ctxIx k0)) (wM 15 0 0 1 32) = 32 ∧ memOk (s0.fetchFx (ctxIx k0)) (ctxIx k0 / 4) 1 32 32 = true
        ∧ (s0.ctx (ctxIx k0)).touches ⟨1, spAddr (ctxIx k0 / 4) 1 32, 32⟩ = false) := by decide +kernel

/-! ## Witnesses: tiles and arrays -/

/-- A drain job. -/
def dj (id : Nat) : DrainJob := ⟨id, false, 0, 0, 0, ⟨0, []⟩⟩

theorem witness_TilesOpenCloseAndDrainIssue_open : ∃ (s u : State) (k : CtxId) (w : BitVec 56) (i : Nat) (c : Ctx), u = s.fetchFx i ∧ i = ctxIx k ∧ c = s.ctx i
    ∧ Runs s k w [.scalar (fw w 21 17), .scalar (fw w 16 12)] ∧ fw w 37 35 < 5 ∧ fw w 11 0 = 0 ∧ openBad u i (openTile c i w) = false
    ∧ c.tiles.filter (fun x => x.id == fTILE w) = [] ∧ usedSlots (c.tiles ++ [openTile c i w]) ≤ u.share i :=
  ⟨s0, s0, k0, wF [(45, 63), (27, 255)], 0, c0, by decide +kernel⟩

theorem witness_TilesOpenCloseAndDrainIssue_shadow : ∃ (s u : State) (k : CtxId) (w : BitVec 56) (i : Nat) (c : Ctx) (x : Tile), u = s.fetchFx i ∧ i = ctxIx k ∧ c = s.ctx i
    ∧ Runs s k w [.scalar (fw w 21 17), .scalar (fw w 16 12)] ∧ fw w 37 35 < 5 ∧ fw w 11 0 = 0 ∧ openBad u i (openTile c i w) = false
    ∧ c.tiles.filter (fun x => x.id == fTILE w) = [x] ∧ x.closed = true ∧ x.drain.isSome = true ∧ x.shadow = true
      ∧ (openTile c i w).shadow = true ∧ x.n = (openTile c i w).n ∧ x.v = (openTile c i w).v ∧ x.fmt = (openTile c i w).fmt :=
  ⟨inCtx { c0 with tiles := [{ t0 with shadow := true, closed := true, drain := some (dj 3) }] },
    inCtx { c0 with tiles := [{ t0 with shadow := true, closed := true, drain := some (dj 3) }] }, k0, wF [(27, 1), (22, 1)], 0,
    { c0 with tiles := [{ t0 with shadow := true, closed := true, drain := some (dj 3) }] }, { t0 with shadow := true, closed := true, drain := some (dj 3) }, by decide +kernel⟩

theorem witness_TilesOpenCloseAndDrainIssue_close : ∃ (s : State) (k : CtxId) (w : BitVec 56) (t : Tile), Runs s k w [] ∧ fw w 44 0 = 0
    ∧ (s.ctx (ctxIx k)).tiles.find? (fun t => t.id == fTILE w && !t.closed) = some t :=
  ⟨inCtx { c0 with tiles := [{ t0 with closed := true }, { t0 with gen := 2 }] }, k0, wF [], { t0 with gen := 2 }, by decide +kernel⟩

/-- A context with a closed tile and descriptors d1 of 64 FP32 in the tank. -/
def cDr : Ctx := { c0 with tiles := [{ t0 with closed := true }], d := [(1, dsc 64 7 0 64 1 256)] }

theorem witness_TilesOpenCloseAndDrainIssue_drain : ∃ (s u : State) (k : CtxId) (w : BitVec 56) (i : Nat) (c : Ctx) (t : Tile), u = s.fetchFx i ∧ i = ctxIx k ∧ c = s.ctx i
    ∧ Runs s k w (drainNeeds w) ∧ fw w 29 0 = 0 ∧ c.tiles.find? (fun t => t.id == fTILE w && (t.closed && t.drain.isNone)) = some t ∧ drainMode w = 0
    ∧ drainTrap u i t (descOf (c.dreg (fw w 42 39))) (descOf (c.dreg (fw w 38 35))) (c.sreg (fw w 34 30)).toNat = none :=
  ⟨inCtx cDr, inCtx cDr, k0, wF [(39, 1)], 0, cDr, { t0 with closed := true }, by decide +kernel⟩

theorem witness_TilesOpenCloseAndDrainIssue_partial : ∃ (s : State) (k : CtxId) (w : BitVec 56) (c : Ctx) (t : Tile), c = s.ctx (ctxIx k)
    ∧ Runs s k w (drainNeeds w) ∧ fw w 29 0 = 0 ∧ c.tiles.find? (fun t => t.id == fTILE w && (t.closed && t.drain.isNone)) = some t ∧ drainMode w = 1
    ∧ (descOf (c.dreg (fw w 42 39))).sp = 0 ∧ (descOf (c.dreg (fw w 42 39))).base % 16 = 0 ∧ (descOf (c.dreg (fw w 42 39))).base + 16 * t.size ≤ 2 ^ 27 :=
  ⟨inCtx cDr, k0, wF [(43, 1), (39, 1)], cDr, { t0 with closed := true }, by decide +kernel⟩

/-- A pass of vector 0 and its partial. -/
def ps0 : Pass := ⟨0, 0, 0, 64⟩
def pt0 : Part := ⟨0, 5, 1, 0, 0, 0, 0, [256], 0, []⟩

/-- A tile that waits for pass `ps0`, whose partial is present. -/
def sRed : State := (inCtx { c0 with tiles := [{ t0 with order := [ps0] }] }).setCore 0 { CoreSt.empty with parts := [pt0] }

theorem witness_TileWorkCompletes_chain : sRed.coreUp 0 = true ∧ (sRed.ctx 0).tiles.filter (fun t => t.id == 0) = [{ t0 with order := [ps0] }]
    ∧ passReady sRed 0 { t0 with order := [ps0] } 0 0 [] [ps0] = some (ps0, [pt0]) := by decide +kernel

theorem witness_TileWorkCompletes_close :
    ((inCtx { c0 with tiles := [{ t0 with closed := true, e := 0 }] }).ctx (ctxIx k0)).tiles.find? (fun t => t.id == 0 && (t.closed && !t.ready && t.order.isEmpty)) = some { t0 with closed := true, e := 0 }
      ∧ (∀ n < ({ t0 with closed := true, e := 0 } : Tile).size, tagCount (({ t0 with closed := true, e := 0 } : Tile).slot n).tag = 0)
      ∧ ((inCtx { c0 with tiles := [{ t0 with closed := true }] }).ctx (ctxIx k0)).tiles.find? (fun t => t.id == 0 && (t.closed && !t.ready && t.order.isEmpty)) = some { t0 with closed := true }
      ∧ (∃ n < ({ t0 with closed := true } : Tile).size, tagCount (({ t0 with closed := true } : Tile).slot n).tag ≠ 1) :=
  ⟨by decide +kernel, by decide +kernel, by decide +kernel, 63, by decide +kernel⟩

theorem witness_TileWorkCompletes_drain : ∃ (s : State) (i : Nat) (t : Tile) (j : DrainJob), s.coreUp (i / 4) = true
    ∧ (s.ctx i).tiles.find? (fun t => t.id == 0 && (t.ready && t.drain.isSome)) = some t ∧ t.drain = some j
    ∧ (s.ctx i).readClear j.id = true ∧ (s.ctx i).writeClear j.id = true :=
  ⟨inCtx { c0 with works := [⟨3, [], [⟨0, 64, 256⟩], true, false⟩], tiles := [{ t0 with closed := true, ready := true, drain := some (dj 3) }] }, 0,
    { t0 with closed := true, ready := true, drain := some (dj 3) }, dj 3, by decide +kernel⟩

/-- A ready tile of 64 columns and one vector with the drain `j`. -/
def sDrn (j : DrainJob) : State := inCtx { c0 with works := [⟨3, [], [⟨0, 64, 1024⟩], true, false⟩], tiles := [{ t0 with closed := true, ready := true, drain := some j }] }

theorem witness_TileWorkCompletes_partial : ∃ (s : State) (t : Tile) (j : DrainJob), s.coreUp 0 = true ∧ (s.ctx 0).tiles.find? (fun t => t.id == 0 && (t.ready && t.drain.isSome)) = some t
    ∧ t.drain = some j ∧ (s.ctx 0).readClear j.id = true ∧ (s.ctx 0).writeClear j.id = true ∧ j.partial' = true ∧ s.up 4 = true ∧ s.mem.tank.ecc = []
    ∧ (∀ n < t.size, (t.slot n).ecc = none) :=
  ⟨sDrn ⟨3, true, dsc 64 0 0 1 1 0, 0, 0, ⟨0, []⟩⟩, { t0 with closed := true, ready := true, drain := some ⟨3, true, dsc 64 0 0 1 1 0, 0, 0, ⟨0, []⟩⟩ },
    ⟨3, true, dsc 64 0 0 1 1 0, 0, 0, ⟨0, []⟩⟩, by decide +kernel⟩

theorem witness_TileWorkCompletes_words : ∃ (s : State) (t : Tile) (j : DrainJob) (d : Desc), s.coreUp 0 = true ∧ (s.ctx 0).tiles.find? (fun t => t.id == 0 && (t.ready && t.drain.isSome)) = some t
    ∧ t.drain = some j ∧ (s.ctx 0).readClear j.id = true ∧ (s.ctx 0).writeClear j.id = true ∧ j.partial' = false ∧ s.up 4 = true ∧ s.mem.tank.ecc = [] ∧ s.mem.cbuf.ecc = []
    ∧ t.fmt = 0 ∧ t.v = 1 ∧ (∀ n < t.n, (t.slot n).ecc = none ∧ bit (t.slot n).tag 12 = false) ∧ j.ost.act = 0 ∧ j.ost.pool = 0 ∧ d = descOf j.dout ∧ d.fmt = 7 ∧ d.bsp = 0 ∧ d.sp = 0 :=
  ⟨sDrn ⟨3, false, dsc 64 7 0 64 1 256, 0, 0, ⟨0, []⟩⟩, { t0 with closed := true, ready := true, drain := some ⟨3, false, dsc 64 7 0 64 1 256, 0, 0, ⟨0, []⟩⟩ },
    ⟨3, false, dsc 64 7 0 64 1 256, 0, 0, ⟨0, []⟩⟩, descOf (dsc 64 7 0 64 1 256), by decide +kernel⟩

theorem witness_TileWorkCompletes_save : ∃ (s : State) (i rd a : Nat), (s.ctx i).hold = .save rd a ∧ s.quiet i = true :=
  ⟨inCtx { c0 with hold := .save 31 16, tiles := [{ t0 with closed := true, ready := true }] }, 0, 31, 16, by decide +kernel⟩

theorem witness_TilesSaveAndRestoreIssue_save : ∃ (s : State) (k : CtxId) (w : BitVec 56) (c : Ctx), c = s.ctx (ctxIx k)
    ∧ Runs s k w [.scalar (fRA w)] ∧ fw w 40 0 = 0 ∧ (c.sreg (fRA w)).toNat % 16 = 0 ∧ (c.sreg (fRA w)).toNat + saveLen c ≤ 2 ^ 27 :=
  ⟨s0, k0, wF [(46, 2), (41, 1)], c0, by decide +kernel⟩

/-- A tile of eight columns and one vector, E 1, P 1. -/
def t2 : Tile := ⟨0, 1, 8, 1, 0, 1, 1, false, 0, 0, false, false, none, 0xFF, [], [], []⟩

/-- A tank with the save records of `t2` at 0, its slots empty and from core 1. -/
def sRec (c : Ctx) : State :=
  { inCtx c with mem := { up.mem with tank := Mem.empty.writeRaw 0 (t2.header ++ (List.range 8).flatMap (fun n => slotRecord 1 0 n (slotEmpty 0))) } }

/-- A tank with the header record of `t0` at 0 (Table ACC-3); its slots are empty and from core 0. -/
def sHdr (c : Ctx) : State :=
  { inCtx c with mem := { up.mem with tank := ⟨[(0, 0x40), (2, 1), (4, 1), (5, 1), (10, 0x80), (11, 0xFF)] ++ (List.range 63).map (fun n => (44 + 16 * n, BitVec.ofNat 8 (n + 1))), []⟩ } }

theorem witness_TilesSaveAndRestoreIssue_rest : ∃ (s u : State) (k : CtxId) (w : BitVec 56) (i : Nat) (c : Ctx) (a n : Nat) (ts : List Tile) (used len : Nat),
    u = s.fetchFx i ∧ i = ctxIx k ∧ c = s.ctx i ∧ Runs s k w [.scalar (fw w 43 39), .scalar (fw w 38 34)] ∧ fw w 33 0 = 0 ∧ a = (c.sreg (fw w 43 39)).toNat
    ∧ n = (c.sreg (fw w 38 34)).toNat ∧ bit w 44 = false ∧ n ≤ 64 ∧ len = recLen u.mem.tank n a ∧ parseTiles n 0 (u.bytes 0 a len) = .ok ts used
    ∧ firstMisfit u i n 0 (u.bytes 0 a len) c.tiles = none ∧ a + len ≤ 2 ^ 27 ∧ c.writers ⟨0, a, len⟩ = [] :=
  ⟨sHdr { c0 with s := [(2, 1)] }, sHdr { c0 with s := [(2, 1)] }, k0, wF [(39, 1), (34, 2)], 0, { c0 with s := [(2, 1)] }, 0, 1, [{ t0 with gen := 0 }], 1040, 1040,
    by decide +kernel⟩

theorem witness_TilesSaveAndRestoreIssue_merge : ∃ (s u : State) (k : CtxId) (w : BitVec 56) (i : Nat) (c : Ctx) (a n : Nat) (t : Tile) (recs : List (List Byte)),
    u = s.fetchFx i ∧ i = ctxIx k ∧ c = s.ctx i ∧ Runs s k w [.scalar (fw w 43 39), .scalar (fw w 38 34)] ∧ fw w 33 0 = 0 ∧ a = (c.sreg (fw w 43 39)).toNat
    ∧ n = (c.sreg (fw w 38 34)).toNat ∧ bit w 44 = true ∧ c.tile (fTILE w) = some t ∧ a + 16 * t.size ≤ 2 ^ 27 ∧ recs = runs 16 t.size (u.bytes 0 a (16 * t.size))
    ∧ recs.all (mergeOk t) = true ∧ t.closed = false ∧ (∀ r ∈ recs, i / 4 < bAt r 11 ∧ (t.lastCore = 0xFF ∨ t.lastCore < bAt r 11))
    ∧ t.order.any (passIssued t) = false ∧ c.writers ⟨0, a, 16 * t.size⟩ = [] :=
  ⟨sRec { c0 with s := [(1, 16)], tiles := [t2] }, sRec { c0 with s := [(1, 16)], tiles := [t2] }, k0, wF [(44, 1), (39, 1)], 0, { c0 with s := [(1, 16)], tiles := [t2] },
    16, 0, t2, (List.range 8).map (fun n => slotRecord 1 0 n (slotEmpty 0)), by decide +kernel⟩

theorem witness_TilesSaveAndRestoreIssue_cfg : ∃ (s u : State) (k : CtxId) (w : BitVec 56) (i : Nat) (c : Ctx) (a : Nat) (o : OstSt), u = s.fetchFx i ∧ i = ctxIx k
    ∧ c = s.ctx i ∧ Runs s k w [.scalar (fRD w)] ∧ fw w 45 32 = 0 ∧ a = (c.sreg (fRD w) + sext32 (fIMM w)).toNat
    ∧ o = (⟨BitVec.ofNat 256 (u.num 1 (cb (i / 4) a) 32), []⟩ : OstSt) ∧ a % 32 = 0 ∧ a + 32 ≤ 2 ^ 21 ∧ ostFormatBad o = false ∧ ostAddressBad o = false
    ∧ (o.act = 8 → pwlOk (pwlRead u (i / 4) o) = true ∧ c.writers ⟨1, cb (i / 4) o.pwlptr, 768⟩ = []) ∧ c.writers ⟨1, cb (i / 4) a, 32⟩ = [] :=
  ⟨s0, s0, k0, wF [(0, 32)], 0, c0, 32, ⟨0, []⟩, by decide +kernel⟩

/-- Entry 0 of core 0's layer map: valid, resident, array 0, chain position 0, P 1, open to context 0. -/
def mapReg : List (Nat × W32) := [(entAddr 0 0 0, 0x00010003)]

/-- A context with d1 of 512 INT8 in the tank as input and d2 as output, and an open tile. -/
def cMv : Ctx := { c0 with d := [(1, dsc 64 1 0 512 1 512), (2, dsc 4096 1 0 512 1 512)], tiles := [t0] }

/-- The state of the MVX witnesses: array 0 in READY. -/
def sMv : State := ((upR mapReg).setArr 0 { Arr.idle with st := .ready }).setCtx 0 cMv

theorem witness_MatrixInstructionsAreQueued_mvx : ∀ nt < 2, ∃ (s u : State) (k : CtxId) (w : BitVec 56) (i : Nat) (c : Ctx) (ei : Nat) (e : BitVec 128) (a : Nat) (d o : Desc),
    u = s.fetchFx i ∧ i = ctxIx k ∧ c = s.ctx i ∧ Runs s k w (sNeeds [fw w 21 17, fw w 16 12] ++ dNeeds [fw w 29 26, fw w 25 22]) ∧ fw w 1 0 = 0
    ∧ ei = (c.sreg (fw w 16 12) + BitVec.ofNat 64 (fw w 11 2)).toNat ∧ ei ≤ 1023 ∧ e = u.entry (i / 4) ei ∧ eVALID e = true ∧ bit e (16 + i % 4) = true
    ∧ a = i / 4 * 64 + eARRAY e ∧ d = descOf (c.dreg (fw w 29 26)) ∧ o = descOf (c.dreg (fw w 25 22))
    ∧ mvxFormat d o (bit w 44) (eP e) (fw w 43 35) (c.sreg (fw w 21 17)).toNat (profWidth (u.prof a)) = false
    ∧ mvxAddress u d o (bit w 44) (eCHPOS e) (fw w 43 35) (c.sreg (fw w 21 17)).toNat (profWidth (u.prof a)) = false
    ∧ (bit w 44 = false → tileTrap c (fTILE w) (fw w 34 30) (fw w 43 35) (eP e) d.blockIn = none) ∧ eRESIDENT e = true
    ∧ (u.arr a).st ∉ [.off, .fault, .retired] ∧ (u.arr a).queue.length < 4 ∧ bit w 44 = (nt == 1) := by
  intro nt h
  have h2 : nt = 0 ∨ nt = 1 := by omega
  rcases h2 with rfl | rfl
  · exact ⟨sMv, sMv, k0, wF [(26, 1), (22, 2)], 0, cMv, 0, sMv.entry 0 0, 0, descOf (dsc 64 1 0 512 1 512), descOf (dsc 4096 1 0 512 1 512), by decide +kernel⟩
  · exact ⟨sMv, sMv, k0, wF [(26, 1), (22, 2), (44, 1)], 0, cMv, 0, sMv.entry 0 0, 0, descOf (dsc 64 1 0 512 1 512), descOf (dsc 4096 1 0 512 1 512), by decide +kernel⟩

theorem witness_MatrixInstructionsAreQueued_skm : ∃ (s u : State) (k : CtxId) (w : BitVec 56) (i : Nat) (c : Ctx) (d : Desc) (row : Nat) (t : Tile),
    u = s.fetchFx i ∧ i = ctxIx k ∧ c = s.ctx i ∧ Runs s k w (sNeeds [fw w 26 22, fw w 21 17] ++ dNeeds [fw w 30 27]) ∧ fw w 16 0 = 0
    ∧ d = descOf (c.dreg (fw w 30 27)) ∧ row = (c.sreg (fw w 26 22)).toNat ∧ d.formatBad = false ∧ fmtFloat d.fmt = false ∧ d.bsp = 0 ∧ d.dim0 ≤ 512
    ∧ row < d.dim1 ∧ d.noDram u = false ∧ d.rowBad u (d.rowAt row 0 0) 0 d.dim0 = false ∧ c.tile (fTILE w) = some t
    ∧ tileTrap c (fTILE w) (fw w 35 31) (fw w 44 36) 1 false = none ∧ c.writers ⟨d.sp, spAddr (i / 4) d.sp (d.rowAt row 0 0), d.rowBytes⟩ = [] :=
  ⟨sMv, sMv, k0, wF [(27, 1)], 0, cMv, descOf (dsc 64 1 0 512 1 512), 0, t0, by decide +kernel⟩

/-- A command of context 0 without a tile, input d1 of `cMv`, output d2. -/
def m0 : Mvx := ⟨0, 5, none, 0, 0, 0, 0, none, 0, 0, dsc 64 1 0 512 1 512, dsc 4096 1 0 512 1 512⟩

/-- The command at work, its sums 0. -/
def r0 : Run := ⟨m0, 0, 2, false, false, false, false, [], [], 0, false, false, false, none, ⟨[], [], 0x3F800000, 400⟩, 0x3F800000, 0x3F800000, [], [], [], none, .none, 0, false, false⟩

/-- Array 0 as given. -/
def onA (a : Arr) : State := up.setArr 0 a

theorem witness_ArrayPhasesAndSums_start : ∃ (s : State) (a : ArrId) (r : Run), s.coreUp (a.val / 64) = true ∧ (s.arr a.val).st = .ready
    ∧ (s.arr a.val).cur = some r ∧ r.live = false ∧ (∀ q, (s.arr a.val).retry = some q → q.live = false) ∧ (s.arr a.val).held.length < 4 :=
  ⟨onA { Arr.idle with st := .ready, cur := some r0, retry := some r0 }, 0, r0, by decide +kernel, by decide +kernel, by decide +kernel, rfl, fun _ h => Option.some.inj h ▸ rfl, by decide +kernel⟩

theorem witness_ArrayPhasesAndSums_first : ∀ l < 2, ∃ (s : State) (a : ArrId) (m : Mvx) (q : List Mvx), s.coreUp (a.val / 64) = true ∧ (s.arr a.val).st = .ready
    ∧ (s.arr a.val).cur = none ∧ (s.arr a.val).retry = none ∧ (s.arr a.val).queue = m :: q ∧ (s.arr a.val).held.length < 4
    ∧ firstClear s a.val m = true ∧ m.skim = some 0 ∧ s.rbit (Reg.SKM_CFG (a.val / 64)) 0 = true ∧ (if l = 0 then laneNow (s.core (a.val / 64)) = none else laneNow (s.core (a.val / 64)) = some 0) :=
  fun l h => match l, h with
    | 0, _ => ⟨(((upR [(Reg.SKM_CFG 0, 1)]).setArr 0 { Arr.idle with st := .ready, queue := [{ m0 with skim := some 0 }] }).setCore 0 { CoreSt.empty with waitq := [(1, 4)] }), 0,
        { m0 with skim := some 0 }, [], by decide +kernel⟩
    | 1, _ => ⟨((upR [(Reg.SKM_CFG 0, 1)]).setArr 0 { Arr.idle with st := .ready, queue := [{ m0 with skim := some 0 }] }), 0, { m0 with skim := some 0 }, [], by decide +kernel⟩

theorem witness_ArrayPhasesAndSums_end : ∀ p < 2, ∃ (s : State) (a : ArrId) (r : Run) (noise : List (Nat × Int)), s.coreUp (a.val / 64) = true
    ∧ (s.arr a.val).cur = some r ∧ r.live = true ∧ (if p = 0 then (phaseEnd a.val r noise s).2.phase < r.phases else r.phases ≤ (phaseEnd a.val r noise s).2.phase) := by
  intro p h
  have h2 : p = 0 ∨ p = 1 := by omega
  rcases h2 with rfl | rfl
  · exact ⟨onA { Arr.idle with st := .ready, cur := some { r0 with live := true }, queue := [m0] }, ⟨0, by decide⟩, { r0 with live := true }, [], by decide +kernel⟩
  · exact ⟨onA { Arr.idle with st := .ready, cur := some { r0 with live := true, phase := 1 }, queue := [m0] }, ⟨0, by decide⟩, { r0 with live := true, phase := 1 }, [], by decide +kernel⟩

theorem witness_ArrayPhasesAndSums_sum : ∃ (s : State) (a : ArrId) (l : List Held) (r : Run) (m : List Held), s.coreUp (a.val / 64) = true
    ∧ (∀ h ∈ l, ∀ q, h ≠ .sum q false) ∧ (s.arr a.val).held = l ++ .sum r false :: m :=
  ⟨onA { Arr.idle with st := .ready, held := [.sum r0 true, .sum r0 false] }, ⟨0, by decide⟩, [.sum r0 true], r0, [], by decide +kernel, by simp, by decide +kernel⟩

/-- Array 0 with the command at work, waiting for a lane of core 0. -/
def sLane : State := (onA { Arr.idle with st := .ready, cur := some { r0 with skim := .waiting } }).setCore 0 { CoreSt.empty with waitq := [(0, 5)] }

theorem witness_ArrayPhasesAndSums_lanes : ∃ (s : State) (a : ArrId) (c : CoreId) (ctx id lane : Nat) (q : List (Nat × Nat)) (x : Nat × Run), s.coreUp (a.val / 64) = true
    ∧ (s.core c.val).waitq = (ctx, id) :: q ∧ freeLane (s.core c.val) = some lane ∧ (s.core c.val).skms = [] ∧ s.runOf c.val ctx id = some x :=
  ⟨sLane, ⟨0, by decide⟩, ⟨0, by decide⟩, 0, 5, 0, [], (0, { r0 with skim := .waiting }), by decide +kernel⟩

theorem witness_ArrayPhasesAndSums_result : ∃ (s : State) (a : ArrId) (c : CoreId) (lane : Fin 16) (l : Lane) (e : Nat × Lane), s.coreUp (a.val / 64) = true
    ∧ (s.core c.val).outs.find? (fun x => x.1 == lane.val) = some e ∧ l = e.2 ∧ l.arr < 2048
    ∧ ((s.setCore 0 { CoreSt.empty with lanes := [(15, l)] }).core c.val).outs.find? (fun x => x.1 == lane.val) = none
    ∧ Tab.find? ((s.setCore 0 { CoreSt.empty with lanes := [(15, l)] }).core c.val).lanes lane.val = some l :=
  ⟨(onA { Arr.idle with st := .ready, cur := some { r0 with skim := .lane } }).setCore 0 { CoreSt.empty with outs := [(15, ⟨0, 5, 0, ⟨false, [], []⟩, 0⟩)] }, 0,
    0, 15, ⟨0, 5, 0, ⟨false, [], []⟩, 0⟩, (15, ⟨0, 5, 0, ⟨false, [], []⟩, 0⟩), by decide +kernel⟩

theorem witness_ArrayStageAndStallRelease : ∀ b < 2, ∃ (s : State) (a : ArrId) (r : Run) (rest : List Held) (fails : List Nat) (residue : StageResidues) (mis : Bool), s.coreUp (a.val / 64) = true ∧ (s.arr a.val).retry = none
    ∧ splitSum (s.arr a.val).held = some (r, true, rest) ∧ r.phases ≠ 0 ∧ r.skim ≠ .waiting ∧ r.skim ≠ .lane ∧ (s.ctx r.cmd.ctx).writeClear r.cmd.id = true
    ∧ entsClear s a.val r = true ∧ mis = (r.smis || !residue.units.isEmpty) ∧ fails = (checkGroups a.val r (List.range 8) (s.setArr a.val { s.arr a.val with held := rest })).2 ∧ (s.arr a.val).st ≠ .fault
    ∧ (if b = 0 then r.retry = false ∧ fails ≠ [] ∧ mis = true else fails = [] ∧ r.retry = true ∧ mis = true ∧ r.cmd.gen = some 1 ∧ (s.ctx r.cmd.ctx).tiles.any (fun x => x.gen == 1) = true) := by
  intro p h
  have h2 : p = 0 ∨ p = 1 := by omega
  rcases h2 with rfl | rfl
  · exact ⟨onA { Arr.idle with st := .ready, rho := some [], held := [.sum { r0 with sigma := 256, stored := true, rm := [(0, 1000000)] } true] }, ⟨0, by decide⟩,
      { r0 with sigma := 256, stored := true, rm := [(0, 1000000)] }, [], [0], ⟨[4], []⟩, true, by decide +kernel⟩
  · exact ⟨(onA { Arr.idle with st := .ready, held := [.sum { r0 with cmd := { m0 with gen := some 1 }, retry := true, smis := true } true] }).setCtx 0 { c0 with tiles := [{ t0 with gen := 1 }] }, ⟨0, by decide⟩,
      { r0 with cmd := { m0 with gen := some 1 }, retry := true, smis := true }, [], [], ⟨[], []⟩, true, by decide +kernel⟩

/-- A retry in a tile whose check group 0 fails again. -/
def rAgain : Run := { r0 with cmd := { m0 with gen := some 1 }, retry := true, sigma := 256, stored := true, rm := [(0, 1000000)] }

theorem witness_ArrayStageAndStallRelease_again : ∃ (s : State) (fails : List Nat), s.coreUp 0 = true ∧ (s.arr 0).retry = none ∧ splitSum (s.arr 0).held = some (rAgain, true, [])
    ∧ (s.ctx rAgain.cmd.ctx).writeClear rAgain.cmd.id = true ∧ entsClear s 0 rAgain = true ∧ fails = (checkGroups 0 rAgain (List.range 8) (s.setArr 0 { s.arr 0 with held := [] })).2 ∧ fails ≠ []
    ∧ (s.arr 0).st ≠ .fault ∧ (s.cnt.aon :: (s.arr 0).fails.filter (recent s.cnt.aon)).length < max 1 (s.fld (Reg.ARR_CHK_CFG 0) 19 16)
    ∧ (s.ctx rAgain.cmd.ctx).tiles.any (fun x => x.gen == 1) = true :=
  ⟨(onA { Arr.idle with st := .ready, rho := some [], held := [.sum rAgain true] }).setCtx 0 { c0 with tiles := [{ t0 with gen := 1 }] }, [0],
    by decide +kernel⟩

theorem witness_ArrayStageAndStallRelease_dead : ∃ (s : State) (r : Run), s.coreUp 0 = true ∧ (s.arr 0).retry = none ∧ splitSum (s.arr 0).held = some (r, true, []) ∧ r.phases = 0
    ∧ failClear s r = true ∧ r.cmd.gen = some 1 ∧ (s.ctx r.cmd.ctx).tiles.any (fun x => x.gen == 1) = true :=
  ⟨(onA { Arr.idle with st := .fault, held := [.sum { rAgain with phases := 0 } true] }).setCtx 0 { c0 with tiles := [{ t0 with gen := 1 }] }, { rAgain with phases := 0 }, by decide +kernel⟩

theorem witness_ArrayStageAndStallRelease_stall : ∃ (s : State) (k : CtxId) (op : Nat) (w : BitVec 56), (s.ctx (ctxIx k)).hold = .stall op w ∧ s.coreUp (ctxIx k / 4) = true :=
  ⟨sMv.setCtx 0 { cMv with st := .stall, hold := .stall 0x20 (wF [(26, 1), (22, 2)]) }, k0, 0x20, wF [(26, 1), (22, 2)], by decide +kernel⟩

/-! ## Witnesses: engines, synchronisation and release -/

/-- Whether a body traps. -/
def isTrap : Res → Bool
  | .trap _ => true
  | _ => false

theorem not_trap {r : Res} (h : isTrap r = false) : ∀ n, r ≠ .trap n := by
  intro n e
  rw [e] at h
  simp [isTrap] at h

/-- A context with d1 and d2 of 32 INT8, d3 of 32 INT16, d4 of one FP32, d5 of 5 INT8 and d7 of one INT16, in the tank. -/
def cEng : Ctx := { c0 with d := [(1, dsc 64 1 0 32 1 32), (2, dsc 4096 1 0 32 1 32), (3, dsc 8192 3 0 32 1 64), (4, dsc 12288 7 0 32 1 128), (5, dsc 16384 1 0 5 1 5), (7, dsc 8192 3 0 1 1 2)] }

theorem witness_EngineInstructionsAreQueued_moves :
    (Runs (inCtx cEng) k0 (wF [(47, 1), (43, 2)]) (dNeeds [1, 2]) ∧ fw (wF [(47, 1), (43, 2)]) 41 0 = 0 ∧ isTrap (movBody 0 (wF [(47, 1), (43, 2)]) (inCtx cEng)) = false
        ∧ ((inCtx cEng).engq 0).queue.length < engCap 0)
      ∧ (Runs (inCtx cEng) k0 (wF [(47, 1), (43, 2), (39, 7)]) (dNeeds [1, 2, 7]) ∧ fw (wF [(47, 1), (43, 2), (39, 7)]) 37 0 = 0
        ∧ ∀ b : Bool, isTrap (gatherBody b 0 (wF [(47, 1), (43, 2), (39, 7)]) (inCtx cEng)) = false)
      ∧ (Runs (inCtx cEng) k0 (wF [(47, 1), (43, 2)]) (sNeeds [0] ++ dNeeds [1, 2]) ∧ fw (wF [(47, 1), (43, 2)]) 36 0 = 0
        ∧ isTrap (warpBody 0 (wF [(47, 1), (43, 2)]) (inCtx cEng)) = false)
      ∧ ((inCtx cEng).engq 1).queue.length < engCap 1 ∧ (inCtx cEng).fetchFx 0 = inCtx cEng
      ∧ (((inCtx cEng).ctx 0).works.filter (fun x => x.eng)).length < 16 := by decide +kernel

/-- DD, DA, DB and FN of a vector instruction, ENG 0. -/
def wV (dd da db fn k : Nat) : BitVec 56 := wF [(47, dd), (43, da), (39, db), (35, fn), (0, k)]

theorem witness_EngineInstructionsAreQueued_vectors :
    (∀ x ∈ [(0x50, wV 1 2 1 0 0, 6), (0x51, wV 1 2 4 1 0, 4), (0x52, wV 1 2 0 0 0, 1), (0x53, wV 1 2 1 1 0, 2), (0x54, wV 1 2 0 4 0, 5), (0x55, wV 1 2 4 0 32, 1),
        (0x56, wV 1 2 4 1 0, 2), (0x57, wV 4 5 0 0 1, 1)], vFN x.2.1 < x.2.2 ∧ vecEngine (inCtx cEng) x.2.1 = some 2 ∧ vENG x.2.1 ≠ 3 ∧ fw x.2.1 21 16 = 0
      ∧ Runs (inCtx cEng) k0 x.2.1 (vecNeeds x.1 x.2.1) ∧ isTrap (vecBody x.1 0 x.2.1 (inCtx cEng)) = false)
      ∧ ((inCtx cEng).engq 2).queue.length < engCap 2 := by decide +kernel

/-- SPACE tank, CRC-32, RS, RN, RI and RO 1: 8 bytes at 8, stored at 8. -/
def wScan : BitVec 56 := wF [(46, 1), (41, 1), (30, 1), (25, 1)]

theorem witness_EngineInstructionsAreQueued_scans :
    (∀ b : Bool, fw wScan 24 22 = 0 ∧ fw wScan 40 39 ≠ 3 ∧ fw wScan 38 37 < 2 ∧ fw wScan 21 0 = 0
      ∧ Runs (inCtx { c0 with s := [(1, 8)] }) k0 wScan (sNeeds [fw wScan 50 46, fw wScan 45 41, fw wScan 34 30, fw wScan 29 25])
      ∧ isTrap (scanBody b 0 wScan (inCtx { c0 with s := [(1, 8)] })) = false)
      ∧ ((inCtx { c0 with s := [(1, 8)] }).engq 4).queue.length < engCap 4 := by decide +kernel

/-- MOV's job of `cEng` with work number 0. -/
def jMov : EngJob := ⟨0, 0, 0x45, wF [(47, 1), (43, 2)], [dsc 64 1 0 32 1 32, dsc 4096 1 0 32 1 32], []⟩

/-- The engines as given. -/
def onE (q : Tab EngQ) : State := { inCtx { cEng with works := [⟨0, [⟨0, 4096, 32⟩], [⟨0, 64, 32⟩], true, true⟩], nextId := 1 } with eng := { up.eng with q := q } }

theorem witness_EngineInstructionsStartAndEnd_start : ∃ (s : State) (e : Eng) (j : EngJob) (r : List EngJob) (u : Nat), s.up 4 = true ∧ (s.engq (engIx e)).queue = j :: r
    ∧ freeUnit (s.engq (engIx e)) (engUnits (engIx e)) = some u ∧ (s.ctx j.ctx).writeClear j.id = true ∧ (s.ctx j.ctx).readClear j.id = true :=
  ⟨onE [(0, ⟨[jMov], (List.range 11).map (fun u => (u, jMov))⟩)], .mov, jMov, [], 11, by decide +kernel⟩

theorem witness_EngineInstructionsStartAndEnd_done : ∃ (s : State) (e : Eng) (ch : Fin 12) (j : EngJob) (u : Nat), s.up 4 = true ∧ e ≠ .chk ∧ u = (if e = .mov then ch.val else 0)
    ∧ Tab.find? (s.engq (engIx e)).run u = some j :=
  ⟨onE [(0, ⟨[], [(11, jMov)]⟩)], .mov, 11, jMov, 11, by decide +kernel⟩

/-- A MOV of 32 bytes, and a VEW (FN 0) of 8 FP32 words, of one row each in the tank. -/
def jRow : EngJob := ⟨0, 0, 0x45, wF [(47, 1), (43, 2)], [dsc 64 1 0 32 1 0, dsc 4096 1 0 32 1 0], []⟩
def jAdd : EngJob := ⟨0, 0, 0x50, wF [(47, 1), (43, 2), (39, 3)], [dsc 64 7 0 8 1 0, dsc 4096 7 0 8 1 0, dsc 8192 7 0 8 1 0], []⟩

theorem witness_EngineInstructionsStartAndEnd_rows :
    (Tab.find? ((onE [(0, ⟨[], [(11, jRow)]⟩)]).engq 0).run 11 = some jRow ∧ (onE [(0, ⟨[], [(11, jRow)]⟩)]).mem.tank.ecc = [] ∧ OneRow (descOf (dsc 64 1 0 32 1 0)) 1
        ∧ OneRow (descOf (dsc 4096 1 0 32 1 0)) 1 ∧ jRow.d 0 = descOf (dsc 64 1 0 32 1 0) ∧ jRow.d 1 = descOf (dsc 4096 1 0 32 1 0))
      ∧ (Tab.find? ((onE [(3, ⟨[], [(0, jAdd)]⟩)]).engq 3).run 0 = some jAdd ∧ vFN jAdd.w = 0 ∧ engIx .vec1 = 3 ∧ OneRow (jAdd.d 0) 7 ∧ OneRow (jAdd.d 1) 7 ∧ OneRow (jAdd.d 2) 7
        ∧ (jAdd.d 1).dim0 = (jAdd.d 0).dim0 ∧ (jAdd.d 2).dim0 = (jAdd.d 0).dim0) := by
  simp only [OneRow]
  decide +kernel

/-- The job of a DIG that context 0 waits for. -/
def jDig : EngJob := ⟨0, 0, 0x81, wScan, [], [8, 8, 8, 8]⟩

theorem witness_EngineInstructionsStartAndEnd_scan : ∃ (s : State) (u : Fin 2) (j : EngJob), s.up 4 = true ∧ Tab.find? (s.engq 4).run u.val = some j ∧ s.pertAt 0x98 = none
    ∧ j.op = 0x81 ∧ (s.ctx j.ctx).hold = .dig j.id :=
  ⟨{ inCtx { c0 with works := [⟨0, [⟨0, 8, 8⟩], [], true, true⟩], nextId := 1, hold := .dig 0 } with eng := { up.eng with q := [(4, ⟨[], [(1, jDig)]⟩)] } }, 1, jDig, by decide +kernel⟩

theorem witness_EngineInstructionsStartAndEnd_copy : ∃ (s : State) (ch : Fin 3) (j : DmaJob), s.up 4 = true ∧ Tab.find? s.eng.dma ch.val = some j ∧ j.host = none :=
  ⟨{ up with eng := { up.eng with dma := [(2, ⟨0, 64, 8, none, none⟩)] } }, 2, ⟨0, 64, 8, none, none⟩, by decide +kernel⟩

/-- A context with s1 = 1,024, s2 = 5 and counter 1,024 at 5. -/
def sSy (c : Ctx) : State := { inCtx { c with s := [(1, 1024), (2, 5)] } with sync := [(1024, 5)] }

/-- SIG's and WAIT's words: counter s1 + 0, amount or target s2. -/
def wSig : BitVec 56 := wF [(46, 1), (41, 2)]

theorem witness_SyncAndSystemInstructions_sig : ∀ b : Bool, ∃ (s u : State) (k : CtxId) (w : BitVec 56) (i : Nat) (c : Ctx) (n : Nat), u = s.fetchFx i ∧ i = ctxIx k ∧ c = s.ctx i
    ∧ n = (c.sreg (fw w 50 46) + BitVec.ofNat 64 (fw w 40 26)).toNat ∧ 1024 ≤ n ∧ n < 32768 ∧ Runs s k w [.scalar (fw w 50 46), .scalar (fw w 45 41)] ∧ fw w 15 0 = 0
    ∧ (c.writes = [] ↔ b = true) := by
  intro b
  cases b with
  | true => exact ⟨sSy c0, sSy c0, k0, wSig, 0, (sSy c0).ctx 0, 1024, by decide +kernel⟩
  | false => exact ⟨sSy { c0 with works := [⟨0, [], [], true, true⟩] }, sSy { c0 with works := [⟨0, [], [], true, true⟩] }, k0, wF [(46, 1), (41, 2), (26, 31743)], 0,
      (sSy { c0 with works := [⟨0, [], [], true, true⟩] }).ctx 0, 32767, by decide +kernel⟩

theorem witness_SyncAndSystemInstructions_wait : ∀ b : Bool, ∃ (s u : State) (k : CtxId) (w : BitVec 56) (i : Nat) (c : Ctx) (n : Nat), u = s.fetchFx i ∧ i = ctxIx k ∧ c = s.ctx i
    ∧ n = (c.sreg (fw w 50 46) + BitVec.ofNat 64 (fw w 40 26)).toNat ∧ 1024 ≤ n ∧ n < 32768
    ∧ Runs s k w [.scalar (fw w 50 46), .scalar (fw w 45 41), .scalar (fw w 25 21)] ∧ fw w 17 0 = 0
    ∧ ((Tab.getD s.sync n 0 - (c.sreg (fw w 45 41)).truncate 32).toNat < 2 ^ 31 ↔ b = true) := by
  intro b
  cases b with
  | true => exact ⟨sSy c0, sSy c0, k0, wSig, 0, (sSy c0).ctx 0, 1024, by decide +kernel⟩
  | false => exact ⟨sSy c0, sSy c0, k0, wF [(46, 1), (41, 2), (26, 1)], 0, (sSy c0).ctx 0, 1025, by decide +kernel⟩

theorem witness_SyncAndSystemInstructions_rest :
    (((sSy { c0 with st := .wait, hold := .wait 1024 5 7 3 }).ctx 0).hold = .wait 1024 5 7 3 ∧ (Tab.getD (sSy { c0 with st := .wait, hold := .wait 1024 5 7 3 }).sync 1024 0 - 5).toNat < 2 ^ 31 ∧ (7 : W32) ≠ 0)
      ∧ (Runs s0 k0 0 [] ∧ fw 0 50 0 = 0 ∧ fenceDone s0 0 = true ∧ fw 0 50 16 = 0 ∧ fw 0 50 7 = 0)
      ∧ (Runs (inCtx { c0 with works := [⟨0, [], [], true, true⟩] }) k0 0 [] ∧ fenceDone (inCtx { c0 with works := [⟨0, [], [], true, true⟩] }) 0 = false)
      ∧ (((inCtx { c0 with hold := .fence }).ctx 0).hold = .fence ∧ ((inCtx { c0 with hold := .fence }).ctx 0).writes = [] ∧ ((inCtx { c0 with hold := .fence }).ctx 0).sigs = []
        ∧ (inCtx { c0 with hold := .fence }).aoPend 0 = false)
      ∧ ((inCtx { c0 with hold := .yield 65535 }).ctx 0).hold = .yield 65535 := by decide +kernel

theorem witness_HostWritesOfSyncCounters :
    reaches up .portA (0x00C80000 + 4 * 1023) = true ∧ reaches up (.fw 3) (0x00C80000 + 4 * 0) = true ∧ reaches up .portA (0x00CA0000 + 4 * 1024) = true
      ∧ reaches up .sec (0x00CA0000 + 4 * 32767) = true := by decide +kernel

/-- Stream 63 bound to context 0, its next number 1; the context may JOIN and DONE. -/
def strmReg : List (Nat × W32) := [(Reg.SEQ_STRM_CFG 63, 1), (Reg.SEQ_STRM_NEXT 63, 1), (Reg.SEQ_CTX_CFG 0, 1), (Reg.INT_OUT_GEOM 63, 0x00010004)]

/-- The state of the release witnesses: number 0 of stream 63, taken or not, and a context. -/
def sRel (taken : Bool) (c : Ctx) : State := ((upR strmReg).setStrm 63 { Strm.empty with seqs := [⟨0, 10, taken, false, .opened⟩] }).setCtx 0 c

/-- d1 of 32 INT8 in the tank, s1 = 63, s3 = 0. -/
def cRel : Ctx := { c0 with s := [(1, 63)], d := [(1, dsc 64 1 0 32 1 32)] }

theorem witness_ReleaseInstructions_take : ∃ (s u : State) (k : CtxId) (w : BitVec 56) (i : Nat) (c : Ctx) (st : Nat) (r : SeqSt), u = s.fetchFx i ∧ i = ctxIx k ∧ c = s.ctx i
    ∧ fw w 23 0 = 0 ∧ st = (c.sreg (fw w 48 44) + BitVec.ofNat 64 (fw w 43 38)).toNat ∧ st < 64 ∧ u.bound st = true ∧ fw w 50 49 = 0 ∧ Runs s k w [.scalar (fw w 48 44)]
    ∧ u.home st = i ∧ takeReady u st = some r ∧ c.poison = false :=
  ⟨sRel false cRel, sRel false cRel, k0, wF [(44, 1), (33, 2)], 0, cRel, 63, ⟨0, 10, false, false, .opened⟩, by decide +kernel⟩

theorem witness_ReleaseInstructions_join : ∃ (s u : State) (k : CtxId) (w : BitVec 56) (i : Nat) (c : Ctx) (st : Nat) (n : W32), u = s.fetchFx i ∧ i = ctxIx k ∧ c = s.ctx i
    ∧ fw w 23 0 = 0 ∧ st = (c.sreg (fw w 48 44) + BitVec.ofNat 64 (fw w 43 38)).toNat ∧ st < 64 ∧ u.bound st = true ∧ fw w 50 49 = 1
    ∧ Runs s k w [.scalar (fw w 48 44), .scalar (fw w 37 33)] ∧ u.ctxBound i = true ∧ n = (c.sreg (fw w 37 33)).truncate 32 ∧ u.assigned st n = true :=
  ⟨sRel false cRel, sRel false cRel, k0, wF [(49, 1), (44, 1), (33, 3), (24, 2)], 0, cRel, 63, 0, by decide +kernel⟩

/-- The same with number 0 resolved after a context had taken it. -/
def sTook : State := ((upR strmReg).setStrm 63 { Strm.empty with took := [0] }).setCtx 0 cRel

theorem witness_ReleaseInstructions_done : ∀ b : Bool, ∃ (s u : State) (k : CtxId) (w : BitVec 56) (i : Nat) (c : Ctx) (st : Nat) (n : W32) (d : Desc), u = s.fetchFx i
    ∧ i = ctxIx k ∧ c = s.ctx i ∧ fw w 23 0 = 0 ∧ st = (c.sreg (fw w 48 44) + BitVec.ofNat 64 (fw w 43 38)).toNat ∧ st < 64 ∧ u.bound st = true ∧ fw w 50 49 = 2
    ∧ Runs s k w ([.scalar (fw w 48 44), .scalar (fw w 37 33)] ++ [.desc (fw w 32 29)]) ∧ u.ctxBound i = true ∧ u.home st = i ∧ n = (c.sreg (fw w 37 33)).truncate 32
    ∧ d = descOf (c.dreg (fw w 32 29)) ∧ untaken u st n = false ∧ d.formatBad = false ∧ d.copyLen ≤ ringEntry (u.fld (Reg.INT_OUT_GEOM st) 15 0) - 32
    ∧ d.addressBad u = false ∧ d.noDram u = false ∧ (if b then u.seqOf st n = none else doneEarly i st n (fw w 28 24) u = none ∧ c.writes = [] ∧ u.outFree st n = true
      ∧ (readRows (i / 4) (i / 4) d d.rows u).2.2 = false ∧ u.lockMode = false
      ∧ (readRows (i / 4) (i / 4) d d.rows u).1.partBadAt 0 (u.outEntry st n + 32) (readRows (i / 4) (i / 4) d d.rows u).2.1.length = false) := by
  intro b
  cases b with
  | true => exact ⟨sTook, sTook, k0, wF [(49, 2), (44, 1), (33, 3), (29, 1), (24, 2)], 0, cRel, 63, 0, descOf (dsc 64 1 0 32 1 32), by decide +kernel⟩
  | false => exact ⟨sRel true cRel, sRel true cRel, k0, wF [(49, 2), (44, 1), (33, 3), (29, 1), (24, 2)], 0, cRel, 63, 0, descOf (dsc 64 1 0 32 1 32), by decide +kernel⟩

theorem witness_ReleaseInstructions_waits :
    (((sRel false { cRel with hold := .take 63 2 }).ctx 0).hold = .take 63 2 ∧ takeReady (sRel false { cRel with hold := .take 63 2 }) 63 = some ⟨0, 10, false, false, .opened⟩)
      ∧ (((sRel false { cRel with hold := .join 63 0 2 }).ctx 0).hold = .join 63 0 2 ∧ (sRel false { cRel with hold := .join 63 0 2 }).assigned 63 0 = true) := by decide +kernel

theorem witness_ReleaseInstructions_held : ∃ (s : State) (st : Nat) (c : Ctx) (n : W32) (dw : BitVec 256) (rr : Nat), c = s.ctx 0 ∧ c.hold = .done st n dw rr
    ∧ c.writes = [] ∧ s.outFree st n = true ∧ (readRows 0 0 (descOf dw) (descOf dw).rows s).2.2 = false ∧ s.lockMode = false
    ∧ (readRows 0 0 (descOf dw) (descOf dw).rows s).1.partBadAt 0 (s.outEntry st n + 32) (readRows 0 0 (descOf dw) (descOf dw).rows s).2.1.length = false
    ∧ doneEarly 0 st n rr s = none :=
  ⟨sRel true { cRel with hold := .done 63 0 (dsc 64 1 0 32 1 32) 2 }, 63, { cRel with hold := .done 63 0 (dsc 64 1 0 32 1 32) 2 }, 0, dsc 64 1 0 32 1 32, 2, by decide +kernel⟩

/-! ## Witnesses: field outputs, churn requests, registers and contexts -/

/-- Actuation authority, every output enabled, and the block as given. -/
def sAct (safe : Bool) (c : Ctx) (l : List (Nat × W32)) : State :=
  let s := (upR ((Reg.ACT_EN, 0xFFFFFFFF) :: l)).setCtx 0 c
  { s with pair := { s.pair with prim := true }, act := { s.act with safe := safe } }

theorem witness_FieldOutputInstructions :
    (∀ b : Bool, ∀ ch < 8, fw (wF [(48, ch), (43, 1)]) 50 48 = ch ∧ Runs (sAct b c0 []) k0 (wF [(48, ch), (43, 1)]) [.scalar (fw (wF [(48, ch), (43, 1)]) 47 43)]
        ∧ fw (wF [(48, ch), (43, 1)]) 42 0 = 0 ∧ ((sAct b c0 []).fetchFx 0).auth = true ∧ ((sAct b c0 []).fetchFx 0).up 8 = true ∧ ((sAct b c0 []).fetchFx 0).poisoned 0 = false
        ∧ ((sAct b c0 []).fetchFx 0).rbit Reg.ACT_EN ch = true ∧ ((sAct b c0 []).fetchFx 0).rbit Reg.ACT_EN (16 + ch) = true ∧ ((sAct b c0 []).fetchFx 0).act.aoq = []
        ∧ ((sAct b c0 []).fetchFx 0).act.safe = b)
      ∧ (Runs ((upR [(Reg.MSRC_CTL 3, 1)]).setCtx 0 c0) k0 (wF [(49, 3), (45, 15)]) [] ∧ fw (wF [(49, 3), (45, 15)]) 36 0 = 0
        ∧ ((upR [(Reg.MSRC_CTL 3, 1)]).setCtx 0 c0).mscOn (fw (wF [(49, 3), (45, 15)]) 50 49) = true) := by decide +kernel

/-- CANTX's and CANRX's word: controller 0, RS 1, tank. -/
def wCan : BitVec 56 := wF [(44, 1), (39, 7)]

/-- A frame with id 5 and 1 data byte. -/
def fr1 : CanFrame := frameOf ([5, 0, 0, 0, 1, 0, 0, 0] ++ List.replicate 72 0)

/-- `sAct` with the frame record at 0, and a controller as given. -/
def sCan (x : CanSt) : State := ({ sAct true c0 [] with mem := { up.mem with tank := ⟨[(0, 5), (4, 1)], []⟩ } }).setCan 0 x

theorem witness_CanInstructions : ∀ m < 3, ∀ t : CanSt, t = ⟨if m = 1 then List.replicate 32 ⟨0, fr1⟩ else [], if m = 2 then [(fr1, 9)] else [], false, false, none⟩ →
    Runs (sCan t) k0 wCan [.scalar (fw wCan 48 44)] ∧ fw wCan 43 42 ≤ 1 ∧ fw wCan 38 0 = 0 ∧ (((sCan t).ctx 0).sreg (fw wCan 48 44)).toNat = 0 ∧ 0 + 80 ≤ (sCan t).spSize 0
      ∧ (sCan t).fetchFx 0 = sCan t ∧ spAddr 0 0 0 = 0 ∧ (sCan t).spUp 0 0 = true ∧ ((sCan t).ctx 0).touches ⟨0, 0, 80⟩ = false ∧ (sCan t).auth = true
      ∧ (sCan t).canOn (fw wCan 50 49) = true ∧ (sCan t).poisoned 0 = false ∧ (sCan t).bad 0 0 80 = false ∧ frameBad ((sCan t).bytes 0 0 80) = false ∧ (sCan t).act.aoq = []
      ∧ ((sCan t).can 0).tx.length = (if m = 1 then 32 else 0) ∧ ((sCan t).can 0).rx = (if m = 2 then [(fr1, 9)] else []) ∧ (sCan t).partBadAt 0 0 80 = false := by
  intro m h t e
  have h2 : m = 0 ∨ m = 1 ∨ m = 2 := by omega
  rcases h2 with rfl | rfl | rfl <;> subst e <;> decide +kernel

/-- Array 0 in READY with contents (its press record VALID), and the request of a context with s1 = 1,024. -/
def sReq (k : CoreSt) : State :=
  { ((upR mapReg).setArr 0 { Arr.idle with st := .ready }).setCtx 0 { c0 with s := [(1, 1024)] } with
    mem := { up.mem with nvs := ⟨[(0x8003, 0x10)], []⟩ }, cores := Tab.setD [] 0 .empty k }

theorem witness_ChurnAndTestRequests_ctx : ∃ (s u : State) (k : CtxId) (w : BitVec 56) (i ei : Nat) (e : BitVec 128) (c : Ctx), u = s.fetchFx i ∧ i = ctxIx k ∧ c = s.ctx i
    ∧ Runs s k w (reqNeeds w) ∧ fw w 19 0 = 0 ∧ ei = (c.sreg (fw w 40 36) + BitVec.ofNat 64 (fw w 50 41)).toNat ∧ ei ≤ 1023 ∧ e = u.entry (i / 4) ei ∧ eVALID e = true
    ∧ bit e (16 + i % 4) = true ∧ 1024 ≤ (c.sreg (fw w 24 20)).toNat ∧ (c.sreg (fw w 24 20)).toNat < 32768 ∧ (c.sreg (fw w 29 25)).toNat % 4 = 0
    ∧ (c.sreg (fw w 29 25)).toNat + 4 ≤ 2 ^ 27 ∧ eRESIDENT e = true ∧ u.refuses (i / 4 * 64 + eARRAY e) = false ∧ (u.core (i / 4)).churns.length < 16
    ∧ fw w 35 35 = 0 ∧ (u.core (i / 4)).tests.length < 16 :=
  ⟨sReq .empty, sReq .empty, k0, wF [(20, 1)], 0, 0, (sReq .empty).entry 0 0, (sReq .empty).ctx 0, by decide +kernel⟩

theorem witness_ChurnAndTestRequests_registers :
    (reaches (sReq .empty) .portA (Reg.CHN_REQ 0) = true ∧ 0 = 0 * 64 + bits (0x100 : W32) 5 0 ∧ (sReq .empty).refuses 0 = false ∧ ((sReq .empty).core 0).churns.length < 16)
      ∧ (reaches (sReq .empty) (.fw 1) Reg.TST_TREQ = true ∧ bit (0x80000000 : W32) 31 = true ∧ 0 = bits (0x80000000 : W32) 10 0 ∧ ((sReq .empty).core (0 / 64)).tests.length < 16) := by
  decide +kernel

/-- A request of a register for array 0, not started and without a code, started, or ended. -/
def ask (code : Option Nat) : Ask := ⟨0, true, .reg, 5, 5, code.isSome, code⟩

/-- `sReq` at 5 µs with the requests given. -/
def sAsk (churns tests : List Ask) : State :=
  { sReq { CoreSt.empty with churns := churns, tests := tests } with cnt := { up.cnt with aon := 5 } }

theorem witness_ChurnAndTestRequests_ends :
    ((sAsk [ask none] [ask none]).coreUp 0 = true ∧ ((sAsk [ask none] [ask none]).core 0).churns[0]? = some (ask none) ∧ (ask none).src = .reg
        ∧ (ask none).arr / 64 = 0 ∧ (ask none).started = false ∧ (ask none).code = none ∧ (ask none).passed (sAsk [ask none] [ask none]) = true
        ∧ ((sAsk [ask none] [ask none]).core 0).tests[0]? = some (ask none))
      ∧ ((sAsk [ask (some 15)] []).coreUp 0 = true ∧ ((sAsk [ask (some 15)] []).core 0).churns[0]? = some (ask (some 15))
        ∧ (ask (some 15)).src = .reg ∧ (ask (some 15)).arr / 64 = 0 ∧ (ask (some 15)).code = some 15 ∧ 15 < 16) := by decide +kernel

theorem witness_SafeStateFollowsItsCauses :
    (up.up 8 = true ∧ up.act.stop = false) ∧ (reaches up .portA Reg.ACT_SAFE = true ∧ reaches up (.fw 0) Reg.ACT_SAFE = true)
      ∧ ((sAct false c0 []).up 8 = true ∧ (sAct false c0 []).act.safe = false)
      ∧ ({ up with act := { up.act with stop := true } } : State).act.stop = true ∧ State.reset.up 8 = false := by decide +kernel

/-- Writes waiting on two channels. -/
def sAo (safe : Bool) : State := (sAct safe c0 []).onAct (fun a => { a with aoq := [⟨7, 0x0400, 0, false⟩, ⟨0, 0x03FF, 0, true⟩] })

theorem witness_CurrentAndExcitationOutputs : ∀ b : Bool, (sAo b).up 8 = true ∧ (sAo b).act.aoq.Pairwise (fun x y => x.ch ≠ y.ch) ∧ (sAo b).act.safe = b := by decide +kernel

theorem witness_PwmAndCapture : ∀ ch : Fin 8, (sAct false c0 []).up 8 = true ∧ (sAct false c0 []).rbit Reg.ACT_EN (16 + ch.val) = true
    ∧ (sAct false c0 []).rbit Reg.ACT_EN (24 + ch.val) = true
    ∧ ((upR [(Reg.MSRC_CTL 3, BitVec.ofNat 32 (5 + 8 * ch.val + 0x80))]).mscOn 3 = true ∧ (upR [(Reg.MSRC_CTL 3, BitVec.ofNat 32 (5 + 8 * ch.val + 0x80))]).mscTrig 3 = 2
      ∧ (upR [(Reg.MSRC_CTL 3, BitVec.ofNat 32 (5 + 8 * ch.val + 0x80))]).fld (Reg.MSRC_CTL 3) 5 3 = ch.val
      ∧ (upR [(Reg.MSRC_CTL 3, BitVec.ofNat 32 (5 + 8 * ch.val + 0x80))]).fld (Reg.MSRC_CTL 3) 7 6 = 2) := by decide +kernel

/-- Controller 0 on its bus with two frames queued by two sources. -/
def sTx (l : List (Nat × W32)) : State := (sAct true c0 l).setCan 0 ⟨[⟨0, fr1⟩, ⟨1, { fr1 with id := 4 }⟩], [], false, false, none⟩

theorem witness_CanControllers_tx : (sTx []).canOffers 0 = true ∧ ((sTx []).can 0).bus = none ∧ winner ((sTx []).can 0).tx = some ⟨1, { fr1 with id := 4 }⟩ := by decide +kernel

theorem witness_CanControllers_rx :
    ((sTx []).canOn 0 = true ∧ (sTx []).fld (Reg.CAN_STAT 0) 1 0 ≠ 2 ∧ keeps (sTx []) 0 fr1 = true)
      ∧ ((sTx [(Reg.CAN_FLT 0 0, 0x80000004), (Reg.CAN_FLT 0 0 + 4, 0xFFFFFFFF)]).canOn 0 = true ∧ (sTx [(Reg.CAN_FLT 0 0, 0x80000004), (Reg.CAN_FLT 0 0 + 4, 0xFFFFFFFF)]).fld (Reg.CAN_STAT 0) 1 0 ≠ 2
        ∧ keeps (sTx [(Reg.CAN_FLT 0 0, 0x80000004), (Reg.CAN_FLT 0 0 + 4, 0xFFFFFFFF)]) 0 fr1 = false) := by decide +kernel

theorem witness_CanControllers_rest :
    ((sTx [(Reg.CAN_STAT 0, 2), (Reg.CAN_CFG 0, 8)]).canOn 0 = true ∧ (sTx [(Reg.CAN_STAT 0, 2), (Reg.CAN_CFG 0, 8)]).fld (Reg.CAN_STAT 0) 1 0 = 2
        ∧ (sTx [(Reg.CAN_STAT 0, 2), (Reg.CAN_CFG 0, 8)]).rbit (Reg.CAN_CFG 0) 3 = true)
      ∧ ((sTx [(Reg.CAN_STAT 0, 2)]).setCan 0 ⟨[], [], true, false, none⟩).canOn 0 = true ∧ (((sTx [(Reg.CAN_STAT 0, 2)]).setCan 0 ⟨[], [], true, false, none⟩).can 0).recov = true
      ∧ (∀ n < 4, reaches (sTx []) .portA (Reg.CAN_CMD n) = true ∧ reaches (sTx []) (.fw 2) (Reg.CAN_CFG n + 4) = true ∧ reaches up .portA (Reg.CAN_CFG n + 0x44) = true)
      ∧ (sTx []).rbit Reg.ACT_EN (12 + 3) = true ∧ up.rbit Reg.ACT_EN (12 + 3) = false ∧ ¬(0x40 ≤ 0x44 ∧ 0x44 % 8 = 0) := by decide +kernel

theorem witness_ArrayBiasAndPark :
    (reaches up .portA (Reg.ARR_CMD 2047) = true ∧ (up.arr 2047).st = .off) ∧ (reaches up (.fw 0) (Reg.ARR_CMD 0) = true)
      ∧ ((onA { Arr.idle with st := .ready }).arr 0).st = .ready ∧ ((onA { Arr.idle with st := .bias }).coreUp (0 / 64) = true ∧ ((onA { Arr.idle with st := .bias }).arr 0).st = .bias) := by
  decide +kernel

theorem witness_CountersAreCleared :
    (∀ a ∈ [Reg.ARR_CMD 0, Reg.ARR_CMD 2047, Reg.SKM_CFG 0, Reg.ACC_CMD 31, Reg.CHN_CMD 31, Reg.ARR_CHK_CFG 31, Reg.TNK_CMD, Reg.HLK_CMD, Reg.MSRC_CMD 3, Reg.NVS_CMD],
      reaches up .portA a = true ∧ reaches up (.fw 0) a = true) ∧ bit (0x400 : W32) 10 = true := by decide +kernel

/-- A lane of core 0 in use. -/
def sBusyLane : State := up.setCore 0 { CoreSt.empty with lanes := [(0, ⟨0, 5, 0, ⟨false, [], []⟩, 0⟩)] }

theorem witness_RegisterWritesFollowTheirMasks_any : ∃ (s : State) (who : Who) (a : Nat) (r : RegRow), reaches s who a = true ∧ regRow a = some r ∧ a % 4 = 0 ∧ r.own = false
    ∧ r.wide = 0 ∧ regOpen s a = true ∧ a ≠ Reg.ACT_EN ∧ a ≠ Reg.RST_WDT_CFG ∧ a ≠ Reg.CLK_CFG ∧ ¬(0xCC0000 ≤ a ∧ a < 0xCC0800) ∧ ¬(0x404000 ≤ a ∧ a < 0x406000)
    ∧ (chkCfgCore a = none ∨ bit (0x400 : W32) 10 = false) :=
  ⟨up, .portA, Reg.CHN_CFG 31, _, by decide +kernel, rfl, by decide +kernel⟩

theorem witness_RegisterWritesFollowTheirMasks_own : ∀ a ∈ [Reg.ARR_CFG 2047, skimReg 31 2, Reg.ACT_AO_RATE, Reg.MSRC_RPTR 3, Reg.HLK_ID],
    reaches up .portA a = true ∧ (regRow a).isSome = true ∧ (up.arr 2047).queue = [] ∧ arrBusy (up.arr 2047) = false ∧ (up.core 31).lanes = [] ∧ (up.core 31).waitq = []
      ∧ ∀ p < 8, up.portSt p = 0 := by decide +kernel

theorem witness_RegisterWritesFollowTheirMasks_lower : ∃ (s : State) (who : Who) (a : Nat) (r : RegRow), reaches s who a = true ∧ regRow a = some r ∧ a % 4 = 0 ∧ r.own = false
    ∧ r.wide = 1 ∧ regOpen s a = true ∧ a ≠ Reg.ACT_EN ∧ a ≠ Reg.RST_WDT_CFG ∧ a ≠ Reg.CLK_CFG ∧ ¬(0xCC0000 ≤ a ∧ a < 0xCC0800) ∧ ¬(0x404000 ≤ a ∧ a < 0x406000)
    ∧ chkCfgCore a = none :=
  ⟨up, .fw 3, Reg.PWR_ALARM, _, by decide +kernel, rfl, by decide +kernel⟩

theorem witness_RegisterWritesFollowTheirMasks_busyArray :
    (reaches (onA { Arr.idle with queue := [m0] }) .portA (Reg.ARR_CFG 0) = true ∧ ((onA { Arr.idle with queue := [m0] }).arr 0).queue ≠ [])
      ∧ (arrBusy ((onA { Arr.idle with cur := some r0 }).arr 0) = true) := by decide +kernel

theorem witness_RegisterWritesFollowTheirMasks_chkCfg : chkCfgCore (Reg.ARR_CHK_CFG 31) = some 31 ∧ (regRow (Reg.ARR_CHK_CFG 31)).isSome = true
    ∧ regOpen up (Reg.ARR_CHK_CFG 31) = true ∧ bit (2 : W32) 1 = true := by decide +kernel

theorem witness_RegisterWritesFollowTheirMasks_busySkim : (∀ q < 3, reaches sBusyLane .portA (skimReg 0 q) = true) ∧ (sBusyLane.core 0).lanes ≠ [] := by decide +kernel

theorem witness_RegisterWritesFollowTheirMasks_shares :
    (reaches up .portA (Reg.ACC_PART 0) = true ∧ bits (0x08080808 : W32) 7 0 + bits (0x08080808 : W32) 15 8 + bits (0x08080808 : W32) 23 16 + bits (0x08080808 : W32) 31 24 ≤ 32
        ∧ accBusy up 0 = false)
      ∧ (32 < bits (0x20000001 : W32) 7 0 + bits (0x20000001 : W32) 15 8 + bits (0x20000001 : W32) 23 16 + bits (0x20000001 : W32) 31 24) := by decide +kernel

theorem witness_RegisterWritesFollowTheirMasks_saving : accBusy (inCtx { c0 with hold := .save 1 0 }) 0 = true := by decide +kernel

/-- Context 0 in a state with a hold. -/
def inSt (st : CtxState) (h : Hold) : State := inCtx { c0 with st := st, hold := h }

theorem witness_ContextCommands :
    (reaches up .portA (Reg.SEQ_CTX_CMD 0) = true ∧ reaches up (.fw 0) (Reg.SEQ_CTX_SAVE 127) = true ∧ reaches up .portA (Reg.SEQ_CTX_PC 0) = true)
      ∧ (∀ st ∈ [CtxState.run, .stall, .wait, .saving, .restoring], ((inSt st .free).ctx 0).settable = false)
      ∧ (∀ st ∈ [CtxState.idle, .halt, .trap], ((inSt st .free).ctx 0).settable = true ∧ ((inSt st .free).ctx 0).active = false)
      ∧ (∀ st ∈ [CtxState.run, .stall, .wait], ((inSt st .free).ctx 0).active = true ∧ ((inSt st .free).ctx 0).stop = false)
      ∧ (({ upR [(Reg.HLK_PAIR_CFG, 1)] with pair := { up.pair with st := 3 } } : State).mirStandby = true ∧ up.mirStandby = false) := by decide +kernel

/-- START in TRAP with a closed tile whose issued drain completes and an open one: the first is kept, the other ends. -/
theorem witness_ContextCommands_start : ∃ (c : Ctx) (x : Tile), c = { c0 with st := .trap, tiles := [x, { t0 with gen := 2 }], works := [⟨3, [], [⟨0, 64, 256⟩], true, false⟩] }
    ∧ x = { t0 with closed := true, drain := some (dj 3) } ∧ (inCtx c).ctx 0 = c ∧ c.settable = true ∧ (inCtx c).mirStandby = false ∧ c.tiles.filter Tile.drains = [x]
    ∧ (∀ x ∈ c.tiles, x.drain.isSome = true → x.drains = true) :=
  ⟨_, _, rfl, rfl, by decide +kernel⟩

/-- Context 1 of core 0 in IDLE with a save area at 0: a header without tiles and the rest zeros (Table EXE-5). -/
def sArea : State := { up with mem := { up.mem with tank := ⟨[(0, 0x53), (1, 0x58), (2, 1)], []⟩ } }

/-- The bytes of that area. -/
theorem sArea_bytes : sArea.bytes 0 0 896 = [0x53, 0x58, 1] ++ List.replicate 893 0 := by decide +kernel

theorem sArea_parse : areaParse 0 ([0x53, 0x58, 1] ++ List.replicate 893 0) = some Ctx.idle := by decide +kernel

theorem witness_ContextCommands_resume : ∃ (s : State) (who : Who) (i a : Nat) (c r : Ctx), reaches s who (Reg.SEQ_CTX_CMD i) = true ∧ c = s.ctx i ∧ c.st = .idle ∧ a = s.saveAt i
    ∧ a + 896 ≤ 2 ^ 27 ∧ (∀ e ∈ s.mem.tank.ecc, overlap (8 * e.1) 8 a 896 = false) ∧ s.bytes 0 (a + 24) 4 = [0, 0, 0, 0]
    ∧ areaParse (i / 4) (s.bytes 0 a 896) = some r ∧ tilesFit s i [] = true ∧ resumeOstOk s (i / 4) r.ost = true ∧ r.ost.act ≠ 8 ∧ s.mirStandby = false :=
  ⟨sArea, .portA, 1, 0, _, Ctx.idle, by decide +kernel, rfl, by decide +kernel, rfl, by decide +kernel, by decide +kernel, rfl,
    (congrArg (areaParse 0) sArea_bytes).trans sArea_parse, by decide +kernel⟩

theorem witness_ContextCommandsComplete_ends :
    ((inSt .saving .preempt).quiet 0 = true ∧ ((inSt .saving .preempt).ctx 0).hold = .preempt ∧ ((inSt .saving .preempt).ctx 0).tiles = []
        ∧ (inSt .saving .preempt).saveAt 0 + 896 ≤ 2 ^ 27 ∧ (inSt .saving .preempt).mem.tank.ecc = [])
      ∧ ((inSt .run .stop).quiet 0 = true ∧ ((inSt .run .stop).ctx 0).hold = .stop) ∧ ((inSt .run .halt).quiet 0 = true ∧ ((inSt .run .halt).ctx 0).hold = .halt)
      ∧ ((inSt .restoring .free).ctx 0).st = .restoring := by decide +kernel

/-- MAP_W0 of core 31 as given; its other words 0. -/
def sMapW (w : W32) : State := upR [(Reg.MAP_W 31 0, w)]

theorem witness_ContextCommandsComplete_map :
    (reaches (sMapW 0) .portA (Reg.MAP_CMD 31) = true ∧ bit (1023 : W32) 31 = false ∧ bit (0x800003FF : W32) 31 = true ∧ bits (0x800003FF : W32) 9 0 = 1023)
      ∧ entryOk (sMapW 0) 31 ((sMapW 0).reg (Reg.MAP_W 31 3) ++ (sMapW 0).reg (Reg.MAP_W 31 2) ++ (sMapW 0).reg (Reg.MAP_W 31 1) ++ (sMapW 0).reg (Reg.MAP_W 31 0)) = true
      ∧ entryOk (sMapW 3) 31 ((sMapW 3).reg (Reg.MAP_W 31 3) ++ (sMapW 3).reg (Reg.MAP_W 31 2) ++ (sMapW 3).reg (Reg.MAP_W 31 1) ++ (sMapW 3).reg (Reg.MAP_W 31 0)) = false := by
  decide +kernel

/-! ## Witnesses: churning, the press, the gate and intake -/

/-- Array 0 as given, its press record VALID or not, and its probe reference built or not. -/
def sChn (prog ref : Bool) (x : Arr) (l : List (Nat × W32)) : State :=
  { (upR l).setArr 0 x with mem := { up.mem with nvs := ⟨if prog then [(0x8003, 0x10)] else [], []⟩ }, fus := { up.fus with dramSize := 1 }, refs := if ref then [(0, ⟨0, 0, 1, 0, 0, [], []⟩)] else [] }

/-- The same at a time. -/
def atUs (t : W64) (s : State) : State := { s with cnt := { s.cnt with aon := t } }

/-- Nothing waits on a core whose lists are empty and none of whose 64 arrays is in its idle window or may start its class 1 churn. -/
theorem noneWait_of (s : State) (c : Nat) (h : (s.core c).churns = [] ∧ (s.core c).tests = [] ∧ ∀ j < 64, (s.arr (64 * c + j)).win = false ∧ firstMay s (64 * c + j) = false) : NoneWait s c := by
  refine ⟨h.1, h.2.1, fun b e => ?_⟩
  have g := h.2.2 (b % 64) (Nat.mod_lt _ (by decide))
  have e2 : 64 * c + b % 64 = b := by omega
  rwa [e2] at g

/-- A churn as given. -/
def ch (full live post : Bool) (unit : Nat) : Churn := ⟨full, if full then 5 else 4, unit, live, [], [], 0, 0, post⟩

/-- An array in a state with a churn record, that owes no class 1 churn. -/
def arrC (st : ArrState) (due : List Due) (cur : Option Churn) : Arr := { Arr.idle with st := st, chn := ⟨some 0, none, 0, some 0, due, cur, [], 0, true⟩ }

/-- An array that owes its class 1 churn. -/
def arrO (st : ArrState) (cur : Option Churn) : Arr := { arrC st [] cur with settled := true, chn := { (arrC st [] cur).chn with fit := false } }

theorem witness_ChurnsFallDueAndStart_due :
    ((sChn true true (arrC .ready [] none) []).coreUp 0 = true ∧ (sChn true true (arrC .ready [] none) []).rbit (Reg.CHN_TEMP 0) 17 = false)
      ∧ (∀ cls ∈ [1, 2, 4, 6], ∃ s, s = atUs 250000000 (sChn true true (if cls = 1 then arrO .churn none else arrC .ready [] none) [(Reg.CHN_CFG 0, 7)]) ∧ s.programmed 0 = true ∧ mayDue s 0 cls = true ∧ (s.arr 0).chn.due = [])
      ∧ (∀ x ∈ [(6, 1000001), (5, 10000001)], ∃ d ∈ ((atUs x.2 (sChn true true (arrC .ready [⟨x.1, 0, false⟩] none) [])).arr 0).chn.due, d.cls = x.1 ∧ d.late = false
        ∧ (if lightClass d.cls then 1000000 else 10000000) < (atUs x.2 (sChn true true (arrC .ready [⟨x.1, 0, false⟩] none) [])).since d.at') := by
  refine ⟨by decide +kernel, fun cls h => ⟨_, rfl, ?_⟩, by decide +kernel⟩
  revert cls
  decide +kernel

/-- Array 0 in READY with a light and a full class due, and with the class due that a full churn serves with it. -/
def sDue : State := sChn true true (arrC .ready [⟨6, 0, false⟩, ⟨5, 0, false⟩, ⟨2, 0, false⟩] none) []

theorem witness_ChurnsFallDueAndStart_idle :
    ((sDue.arr 0).st = .ready ∧ sDue.idle 0 = true ∧ (sDue.arr 0).chn.cur = none ∧ sDue.programmed 0 = true ∧ sDue.churning 0 < sDue.maxChurn 0 ∧ (sDue.core 0).churns = []
        ∧ NoneWait sDue 0 ∧ (∀ b, b / 64 = 0 → firstMay sDue b = false) ∧ minDue [⟨6, 0, false⟩, ⟨5, 0, false⟩] = some 5 ∧ minDue (sDue.arr 0).chn.due = some 2 ∧ sDue.refOk 0 = true)
      ∧ (((sChn true true (arrC .ready [] (some (ch true false false 2))) []).arr 0).chn.cur = some (ch true false false 2) ∧ (ch true false false 2).full = true ∧ (ch true false false 2).post = false
        ∧ (sChn true true (arrC .ready [] (some (ch true false false 2))) []).idle 0 = true)
      ∧ ∀ st ∈ [ArrState.churn, .bias], ∃ s, s = sChn true true (arrO st none) [] ∧ s.owes 0 = true ∧ arrBusy (s.arr 0) = false ∧ (s.arr 0).chn.cur = none ∧ (s.arr 0).st = st ∧ (s.arr 0).settled = true ∧ s.refOk 0 = true
        ∧ s.churning 0 + ((churnWants s 0).filter (fun v => (churnWant s 0).any (fun w => v.before w))).length < s.maxChurn 0 := by
  have h : NoneWait sDue 0 := noneWait_of _ _ (by decide +kernel)
  refine ⟨⟨by decide +kernel, by decide +kernel, by decide +kernel, by decide +kernel, by decide +kernel, by decide +kernel, h, fun b e => (h.2.2 b e).2, by decide +kernel⟩, by decide +kernel, fun st m => ⟨_, rfl, ?_⟩⟩
  revert st
  decide +kernel

/-- Array 0 with a light churn whose probes run, and with one that waits for its update. -/
def sLight (live post : Bool) : State := sChn true true (arrC (if live then .churn else .ready) [] (some (ch false live post 0))) []

theorem witness_LightChurnSetsGain :
    ((sLight true false).coreUp 0 = true ∧ ((sLight true false).arr 0).chn.cur = some (ch false true false 0) ∧ (ch false true false 0).full = false ∧ (ch false true false 0).live = true
        ∧ ((sLight true false).arr 0).park = false)
      ∧ (((sLight false true).arr 0).chn.cur = some (ch false false true 0) ∧ (ch false false true 0).post = true) ∧ NoneWait (sLight true false) 0 ∧ NoneWait (sLight false true) 0
      ∧ (sLight false true).owes 0 = false :=
  ⟨by decide +kernel, by decide +kernel, noneWait_of _ _ (by decide +kernel), noneWait_of _ _ (by decide +kernel), by decide +kernel⟩

/-- Array 0 with unit 4 of a full churn at work. -/
def sUnit (l : List (Nat × W32)) : State := sChn true true (arrC .churn [] (some (ch true true false 3))) l

theorem witness_FullChurnFitsColumns_units :
    ((sUnit []).coreUp 0 = true ∧ ((sUnit []).arr 0).chn.cur = some (ch true true false 3) ∧ (ch true true false 3).full = true ∧ (ch true true false 3).live = true
        ∧ (ch true true false 3).post = false ∧ outOfWindow (sUnit []) 0 (ch true true false 3) = false ∧ outOfWindow (atUs 10000 (sUnit [])) 0 (ch true true false 3) = false)
      ∧ outOfWindow (atUs 10001 (sUnit [])) 0 (ch true true false 3) = true
      ∧ outOfWindow (sUnit [(Reg.CHN_TEMP 0, 0x10009)]) 0 (ch true true false 3) = true := by decide +kernel

/-- Array 0 with a correction, at the fit of a full churn. -/
def sFit (prog ref : Bool) : State := { sChn prog ref (arrC .churn [] (some (ch true false true 0))) [] with cors := [(0, ⟨[], [], 0x3F800000, 0⟩)] }

theorem witness_FullChurnFitsColumns_fit : ((sFit true true).arr 0).chn.cur = some (ch true false true 0) ∧ (ch true false true 0).post = true ∧ (sFit true true).coreUp 0 = true
    ∧ (sFit true true).refOk 0 = true ∧ (sFit true true).owes 0 = false ∧ NoneWait (sFit true true) 0 ∧ Tab.find? (sFit true true).refs 0 = some ⟨0, 0, 1, 0, 0, [], []⟩
    ∧ (∀ f ∈ fits ⟨0, 0, 1, 0, 0, [], []⟩ (ch true false true 0), fitFails ((sFit true true).fld (Reg.CHN_TOL 0) 7 0) 0 0 f = false)
    ∧ (sFit true false).refOk 0 = false :=
  ⟨by decide +kernel, by decide +kernel, by decide +kernel, by decide +kernel, by decide +kernel, noneWait_of _ _ (by decide +kernel), by decide +kernel⟩


/-- Array 0 at the fit of its class 1 churn. -/
def sFirst (ref : Bool) : State := { sChn true ref (arrO .churn (some { ch true false true 0 with cls := 1 })) [] with cors := [(0, ⟨[], [], 0x3F800000, 0⟩)] }

/-- The fit of a class 1 churn whose columns all pass, and of a churn with no reference any more. -/
theorem witness_FullChurnFitsColumns_first : (sFirst true).coreUp 0 = true ∧ ((sFirst true).arr 0).chn.cur = some { ch true false true 0 with cls := 1 } ∧ (sFirst true).owes 0 = true ∧ (sFirst true).refOk 0 = true
    ∧ NoneWait (sFirst true) 0 ∧ ((sFirst true).arr 0).park = false ∧ (sFirst true).prs.load = none ∧ (sFirst true).prs.rld = none ∧ (sFirst true).prs.reps = []
    ∧ ((sFirst false).owes 0 = true ∧ (sFirst false).refOk 0 = false ∧ ((sFirst false).arr 0).st = .churn) ∧ NoneWait (sFirst false) 0 :=
  ⟨by decide +kernel, by decide +kernel, by decide +kernel, by decide +kernel, noneWait_of _ _ (by decide +kernel), by decide +kernel, by decide +kernel, by decide +kernel, by decide +kernel, by decide +kernel, noneWait_of _ _ (by decide +kernel)⟩

/-- A reference whose columns 0 to 8 expect sums that differ, and a churn that found none. -/
def rBad : ProbeRef := ⟨0, 0, 1, 0, 0, [], (List.range 9).map (fun j => (j, 256))⟩

/-- The sums of 16 probes, all 0. -/
def chBad : Churn := { ch true false true 0 with raws := List.replicate 16 [] }

theorem witness_FullChurnFitsColumns_bad : ∃ bad : Nat → Bool, (∀ j, bad j = ((fits rBad chBad)[j]?).any (fitFails ((sFit true true).fld (Reg.CHN_TOL 0) 7 0) rBad.k rBad.seg)) ∧ bad 0 = true ∧ bad 9 = false
    ∧ 8 < ((List.range 512).filter bad).length ∧ ({ sFit true true with refs := [(0, rBad)] }).refOk 0 = true :=
  ⟨_, fun _ => rfl, by decide +kernel, by decide +kernel, by decide +kernel, by decide +kernel⟩
/-- An unsigned image of one layer of 512 rows and columns at DRAM 0 (Tables PRS-3 to PRS-5), all levels 0: the bytes that are not 0. -/
def imgCells : List (Nat × Byte) :=
  [(0, 0x43), (1, 0x58), (2, 0x49), (3, 0x4D), (4, 1), (6, 0x60), (7, 0x80), (12, 1), (16, 0x60), (17, 0x01), (18, 0x02), (24, 0x40), (25, 0x01), (34, 0x02), (56, 0x40), (57, 0x01), (58, 0x02)]

/-- Its CRC. -/
def imgCrc : Nat := crc32c ((List.range 252).map (fun i => Tab.getD imgCells i 0))

/-- DRAM with the image: its header CRC and its manifest entry (SEGEN 15, KCH 1, NBLK 1, K and N 512) behind the header. -/
def imgMem : Mem := ⟨imgCells ++ (leBytes 4 imgCrc).zipIdx.map (fun x => (252 + x.2, x.1)) ++ [(259, 0), (260, 0x0F), (264, 1), (266, 1), (273, 2), (277, 2)], []⟩

/-- A device with 8 GB of DRAM that holds the image, and the press as given. -/
def sImg (p : PressSt) : State := { up with mem := { up.mem with dram := imgMem }, fus := { up.fus with dramSize := 1 }, prs := p }

/-- The device before its first load. -/
def sI : State := sImg up.prs

theorem sI_header : imgHeaderOk sI 0 131424 = true := by decide +kernel

theorem sI_manifest : manifestOk sI 0 = true := by decide +kernel

/-- The place of the image's one array. -/
def pl0 : Place := ⟨0, 0, 0, 0, false⟩

theorem sI_entries : ∀ i < 1024, (nbits (sI.nvsView.readN (0xE000 + 4 * i) 4) 31 31 == 1) = false := by decide +kernel

theorem sI_columns (c : Nat) : retiredCol sI.nvsView 0 c = false := by
  simp only [retiredCol, List.any_eq_false, List.mem_range]
  intro i h
  simp [sI_entries i h]

theorem allocOne (s : State) (o a : Nat) (slot : Option Nat) (alloc : List Nat) (p : Place) (h0 : p.pool = false) (h1 : recorded s slot 0 = none)
    (h3 : chooseArr alloc (fun a => s.freeArr a && !(([] : List Nat).contains a) && !s.worn a && columnsOk s o p a) (placeKey s.mem.dram o p / 1024) = some a) :
    allocFixed s o slot alloc 0 [p] [] = some ([{ p with arr := a }], [({ p with arr := a }, 0)], [a]) := by
  simp only [allocFixed, h0, h1, h3, Bool.false_eq_true, if_false, Option.map_some]

theorem chooseOne (f : Nat → Bool) (c a : Nat) (h : (a / 64 == c && f a) = true) : chooseArr [a] f c = some a := by
  simp only [chooseArr, List.find?_cons, h]

theorem sI_alloc : allocFixed sI 0 none [0] 0 [pl0] [] = some ([pl0], [(pl0, 0)], [0]) := by
  have h1 : columnsOk sI 0 pl0 0 = true := by simp [columnsOk, sI_columns]
  have h2 : ((0 / 64 == placeKey sI.mem.dram 0 pl0 / 1024) && (sI.freeArr 0 && !(([] : List Nat).contains 0) && !sI.worn 0)) = true := by decide +kernel
  refine allocOne sI 0 0 none [0] pl0 rfl rfl (chooseOne _ _ _ ?_)
  simp only [Bool.and_eq_true] at h2 ⊢
  exact ⟨h2.1, h2.2, h1⟩

theorem sI_short : ∀ c < 32, shortOf sI 0 none c = 0 := by
  intro c h
  cases c with
  | zero => decide +kernel
  | succ n =>
    have h1 : ∀ n < 31, onCore imgMem 0 (n + 1) (fun p => !p.pool) + poolOf imgMem 0 (n + 1) = 0 := by decide +kernel
    simp only [shortOf, show sI.mem.dram = imgMem from rfl, h1 n (by omega), Nat.zero_sub]

/-- The image in slot 0, as it stands in a load. -/
def img0 : Image := ⟨0, 131424, [], [], [], false⟩

/-- A press of array 0 at work. -/
def pj (grp it : Nat) (fails : List Nat) : PressJob := ⟨.load, pl0, 0, 1, 0, 0, true, grp, it, [], fails, none, false⟩

/-- A load that wants array 0, with the arrays whose first record it has asked for. -/
def sWant (b : List Nat) : State := sImg { up.prs with load := some ⟨.fw, false, img0, 0, 1, [(pl0, 0)], b, [], [], 0⟩ }

theorem witness_PressingAnArray_start : ∀ b ∈ [[], [0]], (sWant b).prs.load.map (fun l => l.begun) = some b ∧ (sWant b).up 4 = true ∧ (sWant b).coreUp (0 / 64) = true
    ∧ (sWant b).rst.bowarn = false ∧ (sWant b).rbit Reg.PRS_STAT 16 = false ∧ (sWant b).pressing < (sWant b).maxPress ∧ (sWant b).idle 0 = true ∧ ((sWant b).arr 0).press = none
    ∧ ((sWant b).arr 0).st ≠ .fault ∧ ((sWant b).arr 0).st ≠ .retired ∧ (sWant b).worn 0 = false ∧ (pressWant (sWant b) 0).map (fun w => w.place) = some pl0 := by decide +kernel

theorem witness_PressingAnArray_verify : ∀ x ∈ [(4095, 10), (4095, 11), (4096, 0)], ((onA { Arr.idle with st := .press, press := some (pj x.1 x.2 []) }).arr 0).press = some (pj x.1 x.2 [])
    ∧ (pj x.1 x.2 []).ready = true ∧ (pj x.1 x.2 []).fails = [] ∧ (pj x.1 x.2 []).forced = false ∧ (onA Arr.idle).up 4 = true := by decide +kernel

theorem witness_PressingAnArray_fails : ((onA { Arr.idle with st := .press, press := some (pj 4096 0 [3]) }).arr 0).press = some (pj 4096 0 [3]) ∧ (pj 4096 0 [3]).fails ≠ []
    ∧ (∃ e ∈ [(131, 1)], e.1 < 132) ∧ (∀ e ∈ [(132, 1)], 132 ≤ e.1) := by decide +kernel

/-! ## Witness: an image whose digest is the stored one, and that of a committed slot

The digest is never evaluated: the memories are given for every digest `d`, and what a load reads of them beside the digest does not depend on it. -/

theorem leNat_leBytes (n v : Nat) : leNat (leBytes n v) = v % 256 ^ n := by
  induction n generalizing v with
  | zero => simp [leBytes, leNat, Nat.mod_one]
  | succ n ih => rw [leBytes, leNat, ih, show (BitVec.ofNat 8 v).toNat = v % 256 from rfl, Nat.pow_succ, Nat.mul_comm (256 ^ n), Nat.mod_mul]

theorem crcBits_lt (n c : Nat) (h : c < 2 ^ 32) : crcBits 0x82F63B78 n c < 2 ^ 32 := by
  induction n generalizing c with
  | zero => exact h
  | succ n ih =>
    refine ih _ ?_
    split
    · exact Nat.xor_lt_two_pow (by omega) (by decide)
    · omega

theorem crc32c_lt (l : List Byte) : crc32c l < 2 ^ 32 := by
  have g : ∀ (l : List Byte) c, c < 2 ^ 32 → crcBytes 0x82F63B78 l c < 2 ^ 32 := by
    intro l
    induction l with
    | nil => exact fun c h => h
    | cons b r ih => exact fun c h => ih _ (crcBits_lt 8 _ (Nat.xor_lt_two_pow h (by omega)))
  exact Nat.xor_lt_two_pow (g l _ (by decide)) (by decide)

/-- Bytes as the cells of a memory from an address. -/
def cellsAt : Nat → List Byte → List (Nat × Byte)
  | _, [] => []
  | o, b :: r => (o, b) :: cellsAt (o + 1) r

/-- A table that lists those cells last reads the bytes there, and what it lists before below them. -/
theorem find_cellsAt (bs : List Byte) (o i : Nat) : Tab.find? (cellsAt o bs) (o + i) = bs[i]? := by
  induction bs generalizing o i with
  | nil => rfl
  | cons b r ih =>
    rw [cellsAt, Tab.find?]
    cases i with
    | zero => simp
    | succ i => rw [if_neg (by omega), show o + (i + 1) = o + 1 + i by omega, ih]; rfl

theorem find_append (t u : Tab Byte) (k : Nat) : Tab.find? (t ++ u) k = (Tab.find? t k).or (Tab.find? u k) := by
  induction t with
  | nil => simp [Tab.find?]
  | cons e r ih =>
    rw [List.cons_append, Tab.find?, Tab.find?]
    split
    · rfl
    · exact ih

theorem find_cellsAt_below (bs : List Byte) (o k : Nat) (h : k < o) : Tab.find? (cellsAt o bs) k = none := by
  induction bs generalizing o with
  | nil => rfl
  | cons b r ih => rw [cellsAt, Tab.find?, if_neg (by omega)]; exact ih _ (by omega)

theorem find_below (t : Tab Byte) (k : Nat) (h : ∀ e ∈ t, e.1 < k) : Tab.find? t k = none := by
  induction t with
  | nil => rfl
  | cons e r ih =>
    have h0 := h e (by simp)
    rw [Tab.find?, if_neg (by omega)]
    exact ih fun x m => h x (by simp [m])

/-- A memory whose last cells are given bytes. -/
def memThen (t : List (Nat × Byte)) (o : Nat) (bs : List Byte) : Mem := ⟨t ++ cellsAt o bs, []⟩

theorem memThen_low (t o bs a n) (h : a + n ≤ o) : (memThen t o bs).read a n = (⟨t, []⟩ : Mem).read a n := by
  refine List.map_congr_left fun i m => ?_
  have := List.mem_range.mp m
  simp only [Mem.byte, Tab.getD, memThen, find_append, find_cellsAt_below bs o (a + i) (by omega), Option.or_none]

theorem memThen_at (t o bs i n) (h : ∀ e ∈ t, e.1 < o) (hn : i + n ≤ bs.length) : (memThen t o bs).read (o + i) n = (bs.drop i).take n := by
  refine List.ext_getElem (by simp [Mem.read]; omega) fun j h1 h2 => ?_
  have hj : j < n := by simpa [Mem.read] using h1
  simp only [Mem.read, List.getElem_map, List.getElem_range, Mem.byte, Tab.getD, memThen, find_append]
  rw [find_below t _ (fun e m => by have := h e m; omega), Option.none_or, show o + i + j = o + (i + j) by omega, find_cellsAt,
    List.getElem?_eq_getElem (by omega)]
  simp

/-- Image slot 0's record for a digest: VALID 1, EPOCH 1 (Table NVS-7), in copy A with sequence 1. -/
def slotBody (d : BitVec 256) : List Byte := [1, 0, 1, 0] ++ leBytes 32 d.toNat

def slotBytes (crc : Nat) (d : BitVec 256) : List Byte := leBytes 2 0x4953 ++ leBytes 2 36 ++ leBytes 4 1 ++ leBytes 4 crc ++ leBytes 4 0 ++ slotBody d

/-- The CRC of that copy (Table NVS-4). -/
def slotCrc (d : BitVec 256) : Nat := crc32c (leBytes 4 0xC00 ++ leBytes 4 1 ++ slotBody d)

/-- The image of `sI` with a stored digest, detached in the committed slot 0 of that digest. -/
def sAtt (d : BitVec 256) : State :=
  { sI with mem := { sI.mem with dram := memThen imgMem.cells 131392 (leBytes 32 d.toNat), nvs := memThen [] 0xC00 (slotBytes (slotCrc d) d) } }

theorem sAtt_stored (d : BitVec 256) : storedDigest (sAtt d) 0 = d := by
  have h1 : (sAtt d).mem.dram.readN (0 + 56) 8 = 131392 := by
    rw [Mem.readN, show (sAtt d).mem.dram = memThen imgMem.cells 131392 (leBytes 32 d.toNat) from rfl, memThen_low _ _ _ _ _ (by omega)]
    decide +kernel
  have h2 : (sAtt d).mem.dram.readN (0 + 131392) 32 = d.toNat := by
    rw [Mem.readN, show (sAtt d).mem.dram = memThen imgMem.cells 131392 (leBytes 32 d.toNat) from rfl, show 0 + 131392 = 131392 + 0 from rfl,
      memThen_at _ _ _ _ _ (by decide +kernel) (by simp [leBytes])]
    rw [List.drop_zero, List.take_of_length_le (by simp [leBytes]), leNat_leBytes]
    exact Nat.mod_eq_of_lt (Nat.lt_of_lt_of_le d.isLt (by decide))
  rw [storedDigest, h1, h2]
  simp

theorem sAtt_digest (d : BitVec 256) : imgDigest (sAtt d) 0 = imgDigest sI 0 := by
  have h1 : (sAtt d).mem.dram.readN (0 + 56) 8 = 131392 := by
    rw [Mem.readN, show (sAtt d).mem.dram = memThen imgMem.cells 131392 (leBytes 32 d.toNat) from rfl, memThen_low _ _ _ _ _ (by omega)]
    decide +kernel
  have h2 : sI.mem.dram.readN (0 + 56) 8 = 131392 := by decide +kernel
  rw [imgDigest, imgDigest, h1, h2, show (sAtt d).mem.dram = memThen imgMem.cells 131392 (leBytes 32 d.toNat) from rfl, memThen_low _ _ _ _ _ (by omega)]
  rfl

theorem slotBytes_length (x : Nat) (d : BitVec 256) : (slotBytes x d).length = 52 := by simp [slotBytes, slotBody, leBytes]

theorem sAtt_read (d : BitVec 256) (i n : Nat) (h : i + n ≤ 52) : (sAtt d).mem.nvs.read (0xC00 + i) n = ((slotBytes (slotCrc d) d).drop i).take n :=
  memThen_at [] 0xC00 _ i n (by simp) (by rw [slotBytes_length]; exact h)

theorem slotBytes_parts (x : Nat) (d : BitVec 256) : ((slotBytes x d).drop 0).take 2 = leBytes 2 0x4953 ∧ ((slotBytes x d).drop 2).take 2 = leBytes 2 36
    ∧ ((slotBytes x d).drop 8).take 4 = leBytes 4 x ∧ ((slotBytes x d).drop 4).take 4 = leBytes 4 1 ∧ ((slotBytes x d).drop 16).take 36 = slotBody d :=
  ⟨rfl, rfl, rfl, rfl, rfl⟩

theorem sAtt_len (d : BitVec 256) : (sAtt d).mem.nvs.readN (0xC00 + 2) 2 = 36 := by
  rw [Mem.readN, sAtt_read d 2 2 (by decide), (slotBytes_parts _ d).2.1]
  rfl

theorem sAtt_body (d : BitVec 256) : (sAtt d).mem.nvs.read (0xC00 + 16) 36 = slotBody d := by
  rw [sAtt_read d 16 36 (by decide), (slotBytes_parts _ d).2.2.2.2]

theorem sAtt_valid (d : BitVec 256) : copyValid (sAtt d).mem.nvs (sAtt d).mem.nvs.unc (abSlot 0) 0xC00 = true := by
  have h0 : (sAtt d).mem.nvs.readN 0xC00 2 = 0x4953 := by
    rw [Mem.readN, show 0xC00 = 0xC00 + 0 from rfl, sAtt_read d 0 2 (by decide), (slotBytes_parts _ d).1]
    rfl
  have h8 : (sAtt d).mem.nvs.readN (0xC00 + 8) 4 = crc32c (leBytes 4 0xC00 ++ leBytes 4 1 ++ slotBody d) := by
    rw [Mem.readN, sAtt_read d 8 4 (by decide), (slotBytes_parts _ d).2.2.1, leNat_leBytes]
    exact Nat.mod_eq_of_lt (crc32c_lt _)
  have hu : (sAtt d).mem.nvs.unc 0xC00 (16 + 36) = false := rfl
  have h4 : (sAtt d).mem.nvs.read (0xC00 + 4) 4 = leBytes 4 1 := by rw [sAtt_read d 4 4 (by decide), (slotBytes_parts _ d).2.2.2.1]
  simp only [copyValid, h0, sAtt_len, h8, hu, h4, sAtt_body, beq_self_eq_true, Bool.and_true]
  rfl

theorem sAtt_pay (d : BitVec 256) : (sAtt d).slotPay 0 = some (slotBody d) := by
  have hb : copyValid (sAtt d).mem.nvs (sAtt d).mem.nvs.unc (abSlot 0) 0xC80 = false := by
    have h : (sAtt d).mem.nvs.readN 0xC80 2 = 0 := rfl
    simp only [copyValid, h]
    rfl
  simp only [State.slotPay, State.abKnown, abPick, show (abSlot 0).offA = 0xC00 from rfl, show (abSlot 0).offB = 0xC80 from rfl, sAtt_valid, hb, sAtt_len, sAtt_body]

theorem sAtt_slot (d : BitVec 256) : slotOfDigest (sAtt d) d = some 0 := by
  have h1 : (sAtt d).slotUsed 0 = true := by simp only [State.slotUsed, sAtt_pay]; rfl
  have h2 : BitVec.ofNat 256 (leNat (((slotBody d).drop 4).take 32)) = d := by
    rw [show ((slotBody d).drop 4).take 32 = leBytes 32 d.toNat from rfl, leNat_leBytes, Nat.mod_eq_of_lt (Nat.lt_of_lt_of_le d.isLt (by decide))]
    simp
  rw [slotOfDigest, show List.range 4 = [0, 1, 2, 3] from rfl, List.find?_cons, h1, sAtt_pay]
  simp [h2]

/-- The digest of the image. -/
def dg : BitVec 256 := imgDigest sI 0

theorem sAtt_header : imgHeaderOk (sAtt dg) 0 131424 = true := by decide +kernel

theorem sAtt_manifest : manifestOk (sAtt dg) 0 = true := by decide +kernel

theorem sAtt_signed : signatureOk (sAtt dg) 0 = true := by
  rw [signatureOk, show imgSigned (sAtt dg) 0 = false by decide +kernel]
  rfl

theorem sAtt_taken : entryTaken (sAtt dg) 0 (some 0) = false := by decide +kernel

theorem sAtt_att : ∀ x, Tab.find? (sAtt dg).prs.images 0 = some x → x.att = false := fun x h => by cases h

theorem sAtt_short : ∀ c < 32, shortOf (sAtt dg) 0 (some 0) c = 0 := by
  intro c h
  cases c with
  | zero => decide +kernel
  | succ n =>
    have h1 : ∀ n < 31, onCore (sAtt dg).mem.dram 0 (n + 1) (fun p => !p.pool) + poolOf (sAtt dg).mem.dram 0 (n + 1) = 0 := by decide +kernel
    simp only [shortOf, h1 n (by omega), Nat.zero_sub]

theorem leNat_zeros (n : Nat) : leNat (List.replicate n 0) = 0 := by
  induction n with
  | zero => rfl
  | succ n ih => rw [List.replicate_succ, leNat, ih]; rfl

/-- Above the slot record the store holds 0. -/
theorem sAtt_zero (d : BitVec 256) (a n : Nat) (h : 0xC34 ≤ a) : (sAtt d).mem.nvs.readN a n = 0 := by
  have e : (sAtt d).mem.nvs.read a n = List.replicate n 0 := by
    refine List.eq_replicate_iff.mpr ⟨by simp [Mem.read], fun b m => ?_⟩
    obtain ⟨i, -, rfl⟩ := List.mem_map.mp m
    rw [Mem.byte, Tab.getD, show (sAtt d).mem.nvs.cells = cellsAt 0xC00 (slotBytes (slotCrc d) d) from rfl, show a + i = 0xC00 + (a + i - 0xC00) by omega, find_cellsAt,
      List.getElem?_eq_none (by rw [slotBytes_length]; omega)]
    rfl
  rw [Mem.readN, e, leNat_zeros]

/-- What the load allocates against: the slot's image is not in place while it is attached. -/
def vAtt : State := { sAtt dg with prs := { (sAtt dg).prs with images := Tab.erase (sAtt dg).prs.images 0 } }

theorem vAtt_prec (a : Nat) : recAt (sAtt dg).mem.nvs a = 0 := by
  have h : recOff (sAtt dg).mem.nvs a = 0x8000 + 8 * a := by rw [recOff, sAtt_zero dg _ _ (by omega)]; rfl
  rw [recAt, h, sAtt_zero dg _ _ (by omega)]
  rfl

theorem vAtt_committed (a : Nat) : vAtt.committed a = false := by
  rw [State.committed, State.prec, show vAtt.mem.nvs = (sAtt dg).mem.nvs from rfl, vAtt_prec]
  rfl

theorem sAtt_recorded : recorded vAtt (some 0) 0 = none := by
  simp [recorded, vAtt_committed]

theorem vAtt_columns : columnsOk vAtt 0 pl0 0 = true := by
  have h : ∀ c, retiredCol vAtt.nvsView 0 c = false := by
    intro c
    simp only [retiredCol, List.any_eq_false, List.mem_range]
    intro i h
    rw [show vAtt.nvsView = (sAtt dg).mem.nvs from rfl, sAtt_zero dg _ _ (by omega)]
    simp [nbits]
  have e : (List.range 528).filter (fun c => retiredCol vAtt.nvsView 0 c) = [] := by simp [h]
  rw [columnsOk, e]
  rfl

theorem vAtt_free : vAtt.freeArr 0 = true := by
  rw [State.freeArr, vAtt_committed, show vAtt.prs = up.prs from rfl, show vAtt.arr 0 = Arr.idle from rfl]
  rfl

theorem vAtt_worn : vAtt.worn 0 = false := by
  rw [State.worn, show vAtt.nvsView = (sAtt dg).mem.nvs from rfl, vAtt_prec]
  rfl

theorem vAtt_key : 0 / 64 == placeKey (sAtt dg).mem.dram 0 pl0 / 1024 := by decide +kernel

theorem vAtt_alloc : allocFixed vAtt 0 (some 0) [0] 0 [pl0] [] = some ([pl0], [(pl0, 0)], [0]) := by
  refine allocOne vAtt 0 0 (some 0) [0] pl0 rfl sAtt_recorded (chooseOne _ _ _ ?_)
  have e : vAtt.mem.dram = (sAtt dg).mem.dram := rfl
  rw [e, vAtt_key, vAtt_free, vAtt_worn, vAtt_columns]
  rfl

theorem copyAllLists_dram (o : Nat) (s : State) (k : Nat) : ((copyAllLists o s).memOf 2).byte k = (s.memOf 2).byte k := by
  have h1 : ∀ e c t, ((copyLists o e c t).memOf 2).byte k = (t.memOf 2).byte k := by
    intro e c t
    refine foldl_keep _ (fun t : State => (t.memOf 2).byte k) (fun t n => ?_) _ _
    dsimp only
    rw [State.writeFx_memOf_ne _ _ _ _ rfl, imgRead, State.readFx_byte]
    split
    · rw [State.writeFx_memOf_ne _ _ _ _ rfl, imgRead, State.readFx_byte]
    · rfl
  exact foldl_keep _ (fun t : State => (t.memOf 2).byte k) (fun t e => foldl_keep _ (fun t : State => (t.memOf 2).byte k) (fun u c => h1 e c u) _ _) _ _

theorem copyAllLists_fus (o : Nat) (s : State) : (copyAllLists o s).fus = s.fus := by
  have h1 : ∀ e c t, (copyLists o e c t).fus = t.fus := by
    intro e c t
    refine foldl_keep _ (fun t : State => t.fus) (fun t n => ?_) _ _
    have hr : ∀ (t : State) a n, (imgRead a n t).fus = t.fus := fun t a n => t.readFx_same _ _ _ _ _ .fus (by decide)
    dsimp only
    rw [show ∀ (t : State) a b c d, (t.writeFx a b c d).fus = t.fus from fun t a b c d => t.writeFx_same a b c d .fus (by decide), hr]
    split
    · rw [show ∀ (t : State) a b c d, (t.writeFx a b c d).fus = t.fus from fun t a b c d => t.writeFx_same a b c d .fus (by decide), hr]
    · rfl
  exact foldl_keep _ (fun t : State => t.fus) (fun t e => foldl_keep _ (fun t : State => t.fus) (fun u c => h1 e c u) _ _) _ _

theorem read_congr {m n : Mem} (h : ∀ k, m.byte k = n.byte k) (a l : Nat) : m.read a l = n.read a l := List.map_congr_left fun i _ => h (a + i)

/-- The image's load once its array is pressed. -/
def sVer (attach : Bool) : State := { sAtt dg with nvs := { up.nvs with ready := true }, prs := { up.prs with load := some ⟨.fw, attach, img0, 0, 1, [], [], [], [], 0⟩ } }

theorem sVer_digest (attach : Bool) : imgDigest (copyAllLists 0 (sVer attach)) 0 = storedDigest (copyAllLists 0 (sVer attach)) 0 := by
  have h : ∀ a l, (copyAllLists 0 (sVer attach)).mem.dram.read a l = (sAtt dg).mem.dram.read a l := read_congr fun k => copyAllLists_dram 0 (sVer attach) k
  have e : imgDigest (copyAllLists 0 (sVer attach)) 0 = imgDigest (sAtt dg) 0 := by simp only [imgDigest, Mem.readN, h]
  have f : storedDigest (copyAllLists 0 (sVer attach)) 0 = storedDigest (sAtt dg) 0 := by simp only [storedDigest, Mem.readN, h]
  rw [e, f, sAtt_digest, sAtt_stored, dg]

theorem sVer_signature (attach : Bool) : signatureOk (copyAllLists 0 (sVer attach)) 0 = true := by
  have h : ∀ a l, (copyAllLists 0 (sVer attach)).mem.dram.read a l = (sAtt dg).mem.dram.read a l := read_congr fun k => copyAllLists_dram 0 (sVer attach) k
  have g : imgSigned (copyAllLists 0 (sVer attach)) 0 = imgSigned (sAtt dg) 0 := by simp only [imgSigned, Mem.readN, h]
  rw [signatureOk, g, show imgSigned (sAtt dg) 0 = false by decide +kernel]
  rfl

/-- A single place to be pressed has no press before it. -/
theorem firstNotWorn (f : Place × Nat → State → State) (s : State) (h : s.worn 0 = false) (x : List (Place × Nat)) (p : Place × Nat) (y : List (Place × Nat))
    (e : [(pl0, 0)] = x ++ p :: y) : (x.foldl (fun z q => f q z) s).worn p.1.arr = false := by
  cases x with
  | nil => cases e; exact h
  | cons a r => simp at e

theorem witness_LoadsAndUnloads_press : ∀ attach : Bool, ∃ (s : State) (off len : W64) (alloc : List Nat) (o n slot : Nat) (v : State) (ps : List Place) (todo : List (Place × Nat))
    (used : List Nat) (pools : List (List Nat)), s.up 4 = true ∧ s.pertAt 0x98 = none ∧ o = off.toNat ∧ n = len.toNat ∧ s.prs.load = none ∧ s.rbit Reg.PRS_STAT 16 = false ∧ s.dramBytes ≠ 0
    ∧ s.up 5 = true ∧ imgHeaderOk s o n = true ∧ (s.fus.sigreq = true → imgSigned s o = true) ∧ manifestOk s o = true ∧ (attach = false → freeSlot s = some slot ∧ entryTaken s o none = false)
    ∧ (attach = true → slotOfDigest s (imgDigest s o) = some slot ∧ entryTaken s o (some slot) = false ∧ imgDigest s o = storedDigest s o ∧ (∀ x, Tab.find? s.prs.images slot = some x → x.att = false)
      ∧ signatureOk s o = true) ∧ v = (if attach then { s with prs := { s.prs with images := Tab.erase s.prs.images slot } } else s)
    ∧ (∀ c < 32, shortOf v o (if attach then some slot else none) c = 0) ∧ allocFixed v o (if attach then some slot else none) alloc 0 (imgPlaces s.mem.dram o) [] = some (ps, todo, used) ∧ allocPools v o alloc 32 used = some pools
    ∧ (∀ x p y, todo = x ++ p :: y → (x.foldl (fun z q => firstRecord q.1.arr ⟨.load, q.1, slot, (if attach then s.slotEpoch slot else nextEpoch s), q.2, o⟩ z) s).worn p.1.arr = false)
  | false => ⟨sI, 0, 131424, [0], 0, 131424, 0, sI, [pl0], [(pl0, 0)], [0], List.replicate 32 [], by decide +kernel, by decide +kernel, rfl, rfl, rfl, by decide +kernel, by decide +kernel, by decide +kernel,
      sI_header, nofun, sI_manifest, fun _ => by decide +kernel, nofun, rfl, sI_short, sI_alloc, by decide +kernel, firstNotWorn _ _ (by decide +kernel)⟩
  | true => ⟨sAtt dg, 0, 131424, [0], 0, 131424, 0, vAtt, [pl0], [(pl0, 0)], [0], List.replicate 32 [], by decide +kernel, by decide +kernel, rfl, rfl, rfl, by decide +kernel, by decide +kernel, by decide +kernel,
      sAtt_header, nofun, sAtt_manifest, nofun, fun _ => ⟨(congrArg (slotOfDigest (sAtt dg)) (sAtt_digest dg)).trans (sAtt_slot dg), sAtt_taken, (sAtt_digest dg).trans (sAtt_stored dg).symm, sAtt_att,
        sAtt_signed⟩, rfl, sAtt_short, (congrArg (fun l => allocFixed vAtt 0 (some 0) [0] 0 l []) (show imgPlaces (sAtt dg).mem.dram 0 = [pl0] by decide +kernel)).trans vAtt_alloc, by decide +kernel, firstNotWorn _ _ vAtt_worn⟩

theorem witness_LoadsAndUnloads_verify : ∀ attach : Bool, ∃ (s : State) (l : LoadJob) (u : State), s.up 4 = true ∧ s.pertAt 0x98 = none ∧ s.prs.load = some l ∧ loadReady s l = true
    ∧ s.rst.bowarn = false ∧ s.nvs.ready = true ∧ u = copyAllLists l.img.off s ∧ l.attach = attach ∧ (l.attach = false → imgDigest u l.img.off = storedDigest u l.img.off ∧ signatureOk u l.img.off = true ∧ (u.fus.sigreq = true → imgSigned u l.img.off = true)) ∧ l.src = .fw :=
  fun attach => ⟨sVer attach, ⟨.fw, attach, img0, 0, 1, [], [], [], [], 0⟩, _, by cases attach <;> decide +kernel, rfl, rfl, by cases attach <;> decide +kernel, rfl, rfl, rfl, rfl,
    fun _ => ⟨sVer_digest attach, sVer_signature attach, fun h => absurd h (by rw [copyAllLists_fus]; exact Bool.false_ne_true)⟩, rfl⟩

theorem witness_LoadsAndUnloads_unload : up.up 4 = true ∧ up.prs.load = none ∧ slotInUse up 3 = false ∧ up.rst.bowarn = false ∧ ({ up with nvs := { up.nvs with ready := true } } : State).nvs.ready = true := by decide +kernel

/-- The stored record of slot 0 with STATE 1 (Tables NVS-4 and PRS-6). -/
def slotCells : List (Nat × Byte) := (copyBytes (abSlot 0) 0xC00 1 [1]).zipIdx.map (fun x => (0xC00 + x.2, x.1))

/-- Slot 0 committed and attached, its one layer reloadable, its pool array 0 resident or not, with requests waiting. -/
def sRld (res : List Nat) (reqs : List (Nat × Nat)) : State :=
  { sImg { up.prs with images := [(0, ⟨0, 131424, [{ pl0 with pool := true }], [], res, true⟩)], hist := [(0, [0])] } with mem := { up.mem with dram := ⟨[(12, 1), (259, 0x40), (264, 1), (266, 1)], []⟩, nvs := ⟨slotCells, []⟩ }, reqs := reqs }

/-- Its image. -/
def xRld (res : List Nat) : Image := ⟨0, 131424, [{ pl0 with pool := true }], [], res, true⟩

theorem witness_ReloadsAndPressRegisters_requests :
    (reaches up .portA Reg.PRS_CFG = true ∧ (regRow Reg.PRS_CFG).isSome = true ∧ reaches up (.fw 0) Reg.PRS_RLD_REQ = true ∧ bit (0x80000000 : W32) 31 = true)
      ∧ reloadable up (bits (0x80003FFF : W32) 13 12) (bits (0x80003FFF : W32) 11 0) = none
      ∧ reloadable (sRld [0] []) (bits (0x80000000 : W32) 13 12) (bits (0x80000000 : W32) 11 0) = some (xRld [0], 0) ∧ 0 ∈ (xRld [0]).res
      ∧ reloadable (sRld [] []) (bits (0x80000000 : W32) 13 12) (bits (0x80000000 : W32) 11 0) = some (xRld [], 0) ∧ 0 ∉ (xRld []).res := by decide +kernel

theorem witness_ReloadsAndPressRegisters_spares :
    ((up.anySlot || up.prs.load.isSome) = false ∧ bits (0x140 : W32) 10 8 ≠ up.fld Reg.PRS_CFG 10 8)
      ∧ ((sRld [] []).anySlot || (sRld [] []).prs.load.isSome) = true ∧ bits (0x240 : W32) 10 8 = up.fld Reg.PRS_CFG 10 8 := by decide +kernel

/-- A reload of slot 0's layer at work that wants array 0, pressed once before in the hour. -/
def sRldAt : State := let s := sRld [] [(0, 0)]; { s with prs := { s.prs with rld := some ⟨0, 0, [{ pl0 with pool := true }], [], 0, []⟩ } }

theorem witness_PressingAnArray_reload : sRldAt.up 4 = true ∧ sRldAt.coreUp 0 = true ∧ sRldAt.rst.bowarn = false ∧ sRldAt.rbit Reg.PRS_STAT 16 = false ∧ sRldAt.pressing < sRldAt.maxPress
    ∧ sRldAt.idle 0 = true ∧ (sRldAt.arr 0).press = none ∧ (pressWant sRldAt 0).map (fun w => w.why) = some .reload ∧ sRldAt.worn 0 = false ∧ overRate sRldAt 0 = false := by decide +kernel

theorem witness_PressingAnArray_down : State.reset.up 4 = false ∧ up.up 4 = true ∧ (∃ b, ((onA { Arr.idle with st := .press, press := some (pj 0 0 []) }).arr b).press ≠ none) :=
  ⟨by decide +kernel, by decide +kernel, 0, by decide +kernel⟩

theorem witness_ReloadsAndPressRegisters_start : (sRld [] [(0, 0)]).up 4 = true ∧ (sRld [] [(0, 0)]).rbit Reg.PRS_STAT 16 = false ∧ (sRld [] [(0, 0)]).reqs = (0, 0) :: []
    ∧ (sRld [] [(0, 0)]).prs.rld = none ∧ reloadable (sRld [] [(0, 0)]) 0 0 = some (xRld [], 0) ∧ 0 ∉ (xRld []).res
    ∧ (∀ b ∈ layerArrs (xRld []) 0, overRate (sRld [] [(0, 0)]) b = false ∧ pCOUNT (recAt (sRld [] [(0, 0)]).nvsView b) < rldCap (sRld [] [(0, 0)]) ∧ (sRld [] [(0, 0)]).idle b = true)
    ∧ layerArrs (xRld []) 0 = [0] ∧ (sRld [] []).reqs = [] ∧ ((sRld [] []).prs.hist.map Prod.fst).Nodup := by decide +kernel

/-- Stream 63 bound, its table of numbers as given. -/
def sStr (x : Strm) : State := (upR strmReg).setStrm 63 x

/-- An open input of a record under number 1. -/
def op (i u : Nat) : OpenIn := ⟨i, 1, [], u, 0, 0, 0, 0, []⟩

/-- Stream 63 with a number past its deadline and one behind it; with a record that waits; with an open input. -/
def sDue2 : State := sStr ⟨[⟨0, 0, false, false, .opened⟩, ⟨1, 5, false, false, .opened⟩], none, [], none, [], []⟩
def sOutq : State := sStr { Strm.empty with outq := [⟨0, List.replicate 32 1, true, none⟩] }

theorem witness_StreamsAndTheGate :
    ((sStr .empty).rbit Reg.HLK_PAIR_CFG 0 = false ∧ reaches (sStr .empty) .portA (Reg.SEQ_STRM_ARRIVE 63) = true ∧ (sStr .empty).bound 63 = true
        ∧ reaches (sStr .empty) .portA (Reg.INT_OUT_TAIL 63) = true ∧ reaches (sStr .empty) (.fw 0) (Reg.SEQ_STRM_CFG 63) = true ∧ bit (0 : W32) 0 = false)
      ∧ (((sStr .empty).strm 63).inp = none ∧ ((sStr { Strm.empty with inp := some (op 5 0) }).strm 63).inp ≠ none ∧ (sStr { Strm.empty with inp := some (op 5 0) }).bound 63 = true)
      ∧ ((sDue2.strm 63).seqs = ⟨0, 0, false, false, .opened⟩ :: [⟨1, 5, false, false, .opened⟩] ∧ (0 : W64).toNat ≤ sDue2.cnt.gate.toNat
        ∧ (∀ y ∈ [(⟨1, 5, false, false, .opened⟩ : SeqSt)], y.seq ≠ 0 ∧ y.st = .opened) ∧ (sDue2.strm 63).outq = [] ∧ sDue2.outFree 63 0 = true ∧ sDue2.mem.tank.ecc = []
        ∧ sDue2.outEntry 63 0 + 32 ≤ 2 ^ 27)
      ∧ ((sOutq.strm 63).outq = [⟨0, List.replicate 32 1, true, none⟩] ∧ sOutq.outFree 63 0 = true ∧ sOutq.mem.tank.ecc = [] ∧ sOutq.outEntry 63 0 + (List.replicate 32 (1 : Byte)).length ≤ 2 ^ 27) := by
  decide +kernel

/-- Record 5 for CSI port 0, VC 3, RAW8 of 4 x 4 in INT8, on stream 63; record 6 for Ethernet port 4, UDP 7, 2 packets, time-out 9, on stream 63. -/
def recReg (en5 en6 : Nat) : List (Nat × W32) :=
  [(Reg.IREC 5 0, BitVec.ofNat 32 (0x3F2A0300 + 128 * en5)), (Reg.IREC 5 1, 0x00040004), (Reg.IREC 5 2, 0x00040004), (Reg.IREC 5 3, 0x10),
    (Reg.IREC 6 0, BitVec.ofNat 32 (0x3F000004 + 128 * en6)), (Reg.IREC 6 10, 0x00000007), (Reg.IREC 6 11, 0x00090002), (Reg.INT_CTL, 0x3F), (Reg.INT_ETH_MAC 0, 0x55667788), (Reg.INT_ETH_MAC 0 + 4, 0x3244)]

/-- The intake with those records, and stream 63 as given. -/
def sIn (en5 en6 : Nat) (inp : Option OpenIn) : State := (upR (strmReg ++ recReg en5 en6)).setStrm 63 { Strm.empty with inp := inp }

/-- A good packet for record 6. -/
def fEth : EthFrame := { dst := 0x324455667788, udpPort := 7, payload := [1, 2], good := true }

theorem witness_IntakeOpensAndClosesInputs_enable :
    (reaches (sIn 1 0 none) .portA (Reg.IREC 5 0) = true ∧ ((sIn 1 0 none).irecOf 5).en = true ∧ bit (0 : W32) 7 = false)
      ∧ (((sIn 0 0 none).irecOf 5).en = false ∧ bit (0x3F2A0380 : W32) 7 = true ∧ irecOk ((sIn 0 0 none).setReg (Reg.IREC 5 0) (0x3F2A0380 &&& 0x3FFF0F07)) 5 = true)
      ∧ irecOk ((sIn 0 0 none).setReg (Reg.IREC 5 0) (0x3F000380 &&& 0x3FFF0F07)) 5 = false := by decide +kernel

theorem witness_IntakeOpensAndClosesInputs_csi :
    ((sIn 1 0 none).portOn 0 = true ∧ (sIn 1 0 none).csiRecs 0 3 = [5] ∧ (sIn 1 0 none).inputOf 5 = none ∧ openNo (sIn 1 0 none) 63 = none ∧ ((sIn 1 0 none).irecOf 5).st = 63)
      ∧ ((sIn 1 1 (some (op 6 0))).csiRecs 0 3 = [5] ∧ (sIn 1 1 (some (op 6 0))).inputOf 5 = none ∧ openNo (sIn 1 1 (some (op 6 0))) 63 ≠ none)
      ∧ ((sIn 1 0 (some (op 5 0))).csiRecs 0 3 = [5] ∧ (sIn 1 0 (some (op 5 0))).inputOf 5 = some (op 5 0) ∧ ((sIn 1 0 none).irecOf 5).dt = (0x2A : BitVec 6).toNat
        ∧ (sIn 1 0 (some (op 5 0))).rbit Reg.HLK_PAIR_CFG 0 = false ∧ (sIn 1 0 (some (op 5 0))).bound 63 = true ∧ (sIn 1 0 (some (op 5 0))).next 63 = (op 5 0).seq) := by decide +kernel

theorem witness_IntakeOpensAndClosesInputs_eth :
    ((sIn 0 1 none).portOn (4 + 0) = true ∧ { fEth with good := false }.good = false ∧ macTakes (sIn 0 1 none) 0 1 = false ∧ macTakes (sIn 0 1 none) 0 fEth.dst = true ∧ fEth.good = true)
      ∧ ((List.range 64).find? (fun i => ((sIn 0 1 none).irecOf i).en && ((sIn 0 1 none).irecOf i).port == 4 + 0 && ((sIn 0 1 none).irecOf i).udp == fEth.udpPort.toNat) = some 6
        ∧ Tab.getD (sIn 0 1 none).eng.skip 6 0 = 0)
      ∧ (∀ u < 2, (sIn 0 1 (some (op 6 u))).inputOf 6 = some (op 6 u) ∧ ((sIn 0 1 (some (op 6 u))).irecOf 6).npkt = 2 ∧ (sIn 0 1 (some (op 6 u))).bound 63 = true
        ∧ (sIn 0 1 (some (op 6 u))).next 63 = (op 6 u).seq)
      ∧ (((sIn 0 1 (some (op 6 1))).irecOf 6).en = true ∧ 4 ≤ ((sIn 0 1 (some (op 6 1))).irecOf 6).port ∧ ((sIn 0 1 (some (op 6 1))).irecOf 6).tmo ≠ 0) := by decide +kernel

/-- Channel 2's registers: 8 bytes from a source address to tank offset 64. -/
def sDma (src : W32) (j : Tab DmaJob) : State :=
  let s := upR [(Reg.DMA_SRC 2, src), (Reg.DMA_DST 2, 64), (Reg.DMA_LEN 2, 8), (Reg.TNK_SCRUB, 0x00400800)]
  { s with eng := { s.eng with dma := j }, fus := { s.fus with dramSize := 1 } }

theorem witness_DmaAndScrubbing :
    (reaches (sDma 0 []) .portA (Reg.DMA_CTL 2) = true ∧ bit (1 : W32) 0 = true ∧ Tab.find? (sDma 0 []).eng.dma 2 = none
        ∧ dmaBad (sDma 0 []) (BitVec.ofNat 64 ((sDma 0 []).reg64 (Reg.DMA_SRC 2))) ((sDma 0 []).reg (Reg.DMA_LEN 2)).toNat = false
        ∧ dmaBad (sDma 0 []) (BitVec.ofNat 64 ((sDma 0 []).reg64 (Reg.DMA_DST 2))) ((sDma 0 []).reg (Reg.DMA_LEN 2)).toNat = false)
      ∧ dmaBad (sDma 0x07FFFFF9 []) (BitVec.ofNat 64 ((sDma 0x07FFFFF9 []).reg64 (Reg.DMA_SRC 2))) ((sDma 0x07FFFFF9 []).reg (Reg.DMA_LEN 2)).toNat = true
      ∧ Tab.find? (sDma 0 [(2, ⟨0, 64, 8, none, none⟩)]).eng.dma 2 ≠ none
      ∧ ((sDma 0 []).up 4 = true ∧ (sDma 0 []).up 5 = true ∧ (sDma 0 []).fld Reg.TNK_SCRUB 15 0 ≠ 0 ∧ (sDma 0 []).fld Reg.TNK_SCRUB 31 16 ≠ 0 ∧ 64 ≤ (sDma 0 []).dramBytes) := by decide +kernel

/-- Array 0 programmed, with a test in progress or not, and asked for or not. -/
def sMilk (st : ArrState) (m : Option MrTest) (urgent : List Nat) (l : List (Nat × W32)) : State :=
  { sChn true true { arrC st [] none with test := m } l with mr := { up.mr with urgent := urgent }, cors := [(0, ⟨[], [], 0x3F800000, 0⟩)] }

/-- An outcome with or without a residue mismatch. -/
def tout (rs : List (Fin 8)) : TestOutcome := ⟨true, rs, 0x3F800000⟩

/-- A test whose units up to `u` are done, with a unit running, being the retest, restarted meanwhile. -/
def mt (u : Nat) (live re stale : Bool) : MrTest := ⟨u, live, re, 0, stale, []⟩

theorem witness_TheMilkingRound_units :
    ((sMilk .ready (some (mt 7 false false false)) [] []).unitOk 0 = true ∧ ((sMilk .ready (some (mt 7 false false false)) [] []).arr 0).test = some (mt 7 false false false))
      ∧ ((sMilk .ready none [0] []).unitOk 0 = true ∧ ((sMilk .ready none [0] []).arr 0).test = none ∧ (sMilk .ready none [0] []).wanted 0 = true)
      ∧ (((sMilk .ready none [] [(Reg.TST_MR_CFG, 1)]).onMr (fun m => { m with due := some 0 })).unitOk 0 = true
        ∧ ((sMilk .ready none [] [(Reg.TST_MR_CFG, 1)]).onMr (fun m => { m with due := some 0 })).mr.due = some 0
        ∧ ∀ l < 64, ((sMilk .ready none [] [(Reg.TST_MR_CFG, 1)]).onMr (fun m => { m with due := some 0 })).wanted (0 / 64 * 64 + l) = false)
      ∧ (∀ st : Bool, (sMilk .test (some (mt 7 true false st)) [] []).coreUp 0 = true ∧ ((sMilk .test (some (mt 7 true false st)) [] []).arr 0).test = some (mt 7 true false st)
        ∧ ((sMilk .test (some (mt 7 true false st)) [] []).arr 0).park = false ∧ (sMilk .test (some (mt 7 true false st)) [] []).owes 0 = false)
      ∧ (10000000 ≤ (atUs 10000000 (sMilk .test (some (mt 7 true false false)) [] [])).since (mt 7 true false false).startAt ∧ (mt 7 true false false).unit < 8) := by decide +kernel

theorem witness_TheMilkingRound_waits : ∀ st : Bool, NoneWait (sMilk .test (some (mt 7 true false st)) [] []) 0 := fun st => noneWait_of _ _ (by revert st; decide +kernel)

/-- An array in TEST that owes its class 1 churn, another of its core churning while MAXPAR is 1, or its own churn at work. -/
def sOwe (c : Option Churn) : State :=
  ({ sChn true true { arrO .test c with test := some (mt 7 true false false) } [(Reg.CHN_CFG 0, 0x10)] with cors := [(0, ⟨[], [], 0x3F800000, 0⟩)] }).setArr 1 (arrC .churn [] (some (ch true true false 0)))

theorem witness_TheMilkingRound_owes : (∀ c : Option Churn, c = none ∨ c = some (ch true false false 1) → (sOwe c).coreUp 0 = true ∧ ((sOwe c).arr 0).test = some (mt 7 true false false) ∧ (sOwe c).owes 0 = true
    ∧ (((sOwe c).arr 0).chn.cur ≠ none ∨ (sOwe c).maxChurn 0 ≤ (sOwe c).churning 0) ∧ ((sOwe c).arr 0).park = false) ∧ NoneWait (sOwe none) 0 := by
  refine ⟨fun c h => ?_, noneWait_of _ _ (by decide +kernel)⟩
  rcases h with rfl | rfl <;> decide +kernel

/-- A test after its eight units. -/
def sJudge (re : Bool) : State := sMilk .ready (some (mt 8 false re false)) [] []

/-- The same with an uncorrectable group in the shadow image. -/
def sShad (re : Bool) : State := let s := sJudge re; { s with mem := { s.mem with dram := ⟨[], [(5, true)]⟩ } }

theorem witness_TheMilkingRound_shadow : ∀ re : Bool, (sJudge re).shadowOk 0 = true ∧ (sShad re).shadowOk 0 = false ∧ ((sShad re).arr 0).test = some (mt 8 false re false) := by decide +kernel

theorem witness_TheMilkingRound_complete : ∀ re : Bool, ∃ (v : Verdict) (m : MrTest) (u : State), (sJudge re).coreUp 0 = true ∧ ((sJudge re).arr 0).test = some m ∧ 8 ≤ m.unit ∧ m.retest = re
    ∧ (tout []).readable = true ∧ v = (judge 0 m.runs (sJudge re)).1 ∧ testFails v (tout []) = false ∧ testFails v (tout [0]) = true
    ∧ u = (((([0] : List (Fin 8)).foldl (fun u k => u.residue 0 k.val) (judge 0 m.runs (sJudge re)).2).incWrap Reg.TST_MR_CNT 1).setReg (Reg.ARR_CHK_SIGMA 0) 0x3F800000) ∧ (testFailed 0 v u).2 = false
    ∧ ((sJudge re).arr 0).cur = none ∧ ((sJudge re).arr 0).retry = none ∧ ((sJudge re).arr 0).queue = [] ∧ ({ tout [] with readable := false } : TestOutcome).readable = false := by
  intro re
  refine ⟨⟨[], none⟩, mt 8 false re false, _, ?_, ?_, ?_, rfl, rfl, rfl, rfl, rfl, rfl, ?_⟩ <;> revert re <;> decide +kernel

/-- `sMilk` with arrays left in the sweep, 1.5 periods after it began. -/
def sSweep (left : Nat) : State := atUs 5400000000 ((sMilk .ready none [] [(Reg.TST_MR_CFG, 1)]).onMr (fun m => { m with left := left, sweeps := 1 }))

theorem witness_TheMilkingRound_rest :
    ((sSweep 0).up 4 = true ∧ (sSweep 0).rbit Reg.TST_MR_CFG 0 = true ∧ (sSweep 0).mr.due = none ∧ 1000000 * max 1 ((sSweep 0).fld Reg.TST_MR_PER 15 0) ≤ (sSweep 0).since (sSweep 0).mr.since
        ∧ sweepFrom (sSweep 0) (if (sSweep 0).mr.left = 0 then 0 else (sSweep 0).fld Reg.TST_MR_STAT 10 0) = some 0)
      ∧ ((sSweep 1).rbit Reg.TST_MR_STAT 16 = false ∧ 0 < (sSweep 1).mr.left ∧ 3 * (1000000 * max 1 ((sSweep 1).fld Reg.TST_MR_PER 15 0)) ≤ 2 * (sSweep 1).since (sSweep 1).mr.since)
      ∧ (reaches up .portA Reg.TST_HEALTH = true ∧ reaches up (.fw 0) Reg.TST_CLR = true)
      ∧ (∀ off ∈ [0x84, 0x88, 0x8C, 0x90, 0x94, 0x98, 0x9C], reaches up .portA (Reg.TST_MR_CFG + off) = true) ∧ up.pertOpen = false
      ∧ ({ up with sec := { up.sec with scopes := 1 } } : State).pertOpen = true := by decide +kernel

/-! ## Witnesses: links, the pair and measurement -/

/-- Registers set, and link port p as given. -/
def sPort (p : Nat) (x : LinkPort) (l : List (Nat × W32)) : State := { upR l with link := { up.link with ports := [(p, x)] } }

/-- A run of frames from an LSEQ, sent again n times. -/
def tf (q : W32) (cnt n : Nat) : TxFrame := ⟨q, cnt, 0, n, .replay 0⟩

/-- Port 0 up with a run of two frames from LSEQ 3 that was sent again n times. -/
def sRun (n : Nat) : State := sPort 0 ⟨5, 0, [tf 3 2 n], false⟩ [(Reg.HLK_PSTAT 0, 2)]

theorem witness_LinkPorts :
    (reaches up .portA Reg.HLK_CTL = true ∧ (∀ p < 8, up.rbit Reg.HLK_CTL p = bit (0 : W32) p ∧ up.rbit Reg.HLK_CTL p ≠ bit (0xFF : W32) p))
      ∧ ((sPort 7 .idle [(Reg.HLK_PSTAT 7, 1)]).up 7 = true ∧ (sPort 7 .idle [(Reg.HLK_PSTAT 7, 1)]).portSt 7 = 1 ∧ ((sPort 7 .idle [(Reg.HLK_PSTAT 7, 1)]).port 7).late = false
        ∧ ((sPort 7 ⟨0, 0, [], true⟩ [(Reg.HLK_PSTAT 7, 1)]).port 7).late = true ∧ identityBad (sPort 7 .idle [(Reg.HLK_PSTAT 7, 1), (Reg.HLK_ID, 2)]) 7 1 0x8060 false = false
        ∧ identityBad (sPort 7 .idle [(Reg.HLK_PSTAT 7, 1)]) 7 0 0x8060 false = true)
      ∧ ((sRun 3).portSt 0 = 2 ∧ ((sRun 3).port 0).buf.flatMap (TxFrame.cut 4) = [tf 3 1 3, tf 4 1 3]
        ∧ ∀ f ∈ [tf 3 1 3, tf 4 1 3], (f.lseq = 4 ∨ follows f.lseq 4 = true) → replayOk (sRun 3) f = true)
      ∧ (((sRun 4).port 0).buf.flatMap (TxFrame.cut 4) = [tf 3 1 4, tf 4 1 4] ∧ ∃ f ∈ [tf 3 1 4, tf 4 1 4], (f.lseq = 4 ∨ follows f.lseq 4 = true) ∧ replayOk (sRun 4) f = false)
      ∧ ∃ f ∈ ((sRun 4).port 0).buf, ((4 : W32) - f.lseq).toNat < f.cnt := by decide +kernel

/-- A broadcast of 64 bytes from member 0 (device 1) to member 1 (device 2, this one), descriptor 0. -/
def co (start : Option W64) (got : List Nat) : Coll :=
  ⟨9, 2, false, false, 0, 1, 64, 0, 128, [1, 2], 1, 1024, 32767, 0, 256, none, 64, start, [], false, got, [], 0, [], [], [], none⟩

/-- Its chunk 0, to a device. -/
def fCo (dst : BitVec 10) : ChunkFrame := { dst := dst, vl := false, src := 1, cid := 9, index := 0, seq := 1, payload := List.replicate 64 0, digest := 0, poison := false }

/-- Ports 0 up, this device 2, the route to device 5 on port 0, and the collectives as given. -/
def sCo (c : Tab Coll) (dead : List (BitVec 16 × W32)) : State :=
  { upR [(Reg.HLK_PSTAT 0, 2), (Reg.HLK_ID, 2), (Reg.HLK_RT 5, 8)] with link := { up.link with colls := c, dead := dead, kept := [⟨fCo 5, false⟩] } }

theorem witness_Collectives_submit :
    (reaches (sCo [] []) .portA Reg.HLK_CQ_TAIL = true ∧ (sCo [] []).link.take = 0 ∧ ((sCo [] []).putMasked Reg.HLK_CQ_TAIL 1).fld Reg.HLK_CQ_TAIL 5 0 = (0 + 1) % 64
        ∧ (sCo [] []).link.colls.length < 8 ∧ Tab.find? (sCo [] []).link.colls 0 = none)
      ∧ ((sCo [(0, co none [])] []).up 7 = true ∧ (sCo [(0, co none [])] []).up 4 = true ∧ Tab.find? (sCo [(0, co none [])] []).link.colls 0 = some (co none []) ∧ (co none []).start = none
        ∧ reached (sCo [(0, co none [])] []) (co none []).goCtr (co none []).goTgt = true) := by decide +kernel

theorem witness_Collectives_chunks :
    ((sCo [] []).herdPort 0 = true ∧ (fCo 5).dst.toNat ≠ (sCo [] []).hlkId ∧ (sCo [] []).route (fCo 5).dst.toNat = some 0 ∧ (⟨2, false, 9, 0⟩ : ChunkReply).dst.toNat = (sCo [] []).hlkId)
      ∧ ((fCo 1023).dst.toNat ≠ (sCo [] []).hlkId ∧ (sCo [] []).route (fCo 1023).dst.toNat = none)
      ∧ ((fCo 2).dst.toNat = (sCo [] [(9, 1)]).hlkId ∧ (sCo [] [(9, 1)]).link.colls.find? (fun e => e.2.cid == (fCo 2).cid) = none ∧ ((fCo 2).cid, (fCo 2).seq) ∈ (sCo [] [(9, 1)]).link.dead)
      ∧ ((sCo [(0, co none [])] []).link.colls.find? (fun e => e.2.cid == (fCo 2).cid) = some (0, co none []) ∧ ((fCo 2).cid, (fCo 2).seq) ∉ (sCo [(0, co none [])] []).link.dead
        ∧ (co none []).start = none)
      ∧ (∀ c, c = co (some 0) [] → (sCo [(0, c)] []).link.colls.find? (fun e => e.2.cid == (fCo 2).cid) = some (0, c) ∧ Tab.find? (sCo [(0, c)] []).link.colls 0 = some c ∧ c.start ≠ none
        ∧ (fCo 2).index.toNat ∈ c.expected ∧ (fCo 2).index.toNat ∉ c.got ∧ c.unitAt ((fCo 2).index.toNat / 2 ^ 21) ≠ none ∧ Tab.find? c.wait (fCo 2).index.toNat = none
        ∧ c.members.getD ((c.pos + c.m - 1) % c.m) 0 = 1 ∧ chunkDigest 1 c.cid (fCo 2).index.toNat c.seq (fCo 2).payload ≠ (fCo 2).digest) := by
  refine ⟨by decide +kernel, by decide +kernel, by decide +kernel, by decide +kernel, ?_⟩
  intro c h
  subst h
  decide +kernel

/-- A chunk with the right digest, of the length expected or of half of it. -/
def fRight (n : Nat) : ChunkFrame := { fCo 2 with payload := List.replicate n 0, digest := chunkDigest 1 9 0 1 (List.replicate n 0) }

theorem witness_Collectives_digest : ∀ n ∈ [64, 32], (chunkDigest 1 9 (fRight n).index.toNat 1 (fRight n).payload = (fRight n).digest) ∧ ((fRight n).payload.length = (co (some 0) []).lenAt 0 ↔ n = 64) := by
  intro n h
  refine ⟨rfl, ?_⟩
  revert n
  decide +kernel

theorem witness_Collectives_ends :
    ((sCo [] []).pertAt 0x98 = none ∧ (sCo [] []).link.kept = [⟨fCo 5, false⟩] ∧ (sCo [] []).route (fCo 5).dst.toNat = some 0)
      ∧ (Tab.find? (sCo [(0, co (some 0) [0])] []).link.colls 0 = some (co (some 0) [0]) ∧ (co (some 0) [0]).start ≠ none ∧ (sCo [(0, co (some 0) [0])] []).link.take = (sCo [(0, co (some 0) [0])] []).fld Reg.HLK_CQ_TAIL 5 0
        ∧ (co (some 0) [0]).dnCtr < 32768 ∧ (∀ x ∈ (co (some 0) [0]).expected, x ∈ (co (some 0) [0]).got) ∧ (co (some 0) [0]).outs = [] ∧ (sCo [(0, co (some 0) [0])] []).mem.tank.ecc = []
        ∧ (co (some 0) [0]).stat + 16 ≤ 2 ^ 27) := by decide +kernel

/-- The pair as given, its register HLK_PAIR_CFG, and port 7 up. -/
def sPair (cfg : W32) (p : PairSt) : State := { upR [(Reg.HLK_PAIR_CFG, cfg), (Reg.HLK_PSTAT 7, 2), (Reg.HLK_ID, 2)] with pair := p }

/-- The pair in a state after reset. -/
def p0 (st : Nat) : PairSt := { up.pair with st := st }

theorem witness_PairRolesAndAuthority_pins :
    (up.up 7 = true ∧ up.pair.prim = false ∧ State.reset.up 7 = false)
      ∧ ((sPair 1 { p0 2 with prim := true }).pair.prim = true ∧ (sPair 1 { p0 2 with prim := true }).pair.window = false)
      ∧ ((sPair 1 { p0 2 with prim := true, window := true }).peerId ≤ (sPair 1 { p0 2 with prim := true, window := true }).hlkId)
      ∧ ((sPair 1 { p0 3 with peerPrim := true, synced := true }).pair.peerPrim = true ∧ (sPair 1 { p0 3 with peerPrim := true, synced := true }).pair.st = 3
        ∧ (sPair 1 { p0 3 with peerPrim := true, synced := true }).pair.synced = true ∧ (sPair 1 { p0 3 with peerPrim := true }).pair.synced = false)
      ∧ ((sPair 1 { p0 2 with claim := true }).pair.claim = true ∧ (sPair 1 { p0 2 with claim := true }).pair.prim = false ∧ (sPair 1 { p0 2 with claim := true }).pair.peerPrim = false)
      ∧ ((sPair 1 { p0 2 with prim := true, window := true }).pair.window = true ∧ (sPair 1 { p0 2 with prim := true, window := true }).pair.prim = true)
      ∧ ((sPair 1 { p0 4 with peerPrim := true }).pair.st = 4 ∧ (sPair 1 { p0 4 with peerPrim := true }).pair.peerPrim = true) := by decide +kernel

/-- Stream 63 bound with output entries too large for lockstep, the pair off. -/
def sLockNo : State := upR [(Reg.SEQ_STRM_CFG 63, 1), (Reg.INT_OUT_GEOM 63, 0x00010042)]

theorem witness_PairRolesAndAuthority_registers :
    (reaches up .portA Reg.HLK_PAIR_CMD = true ∧ up.pair.st = 0 ∧ up.pair.prim = false ∧ (sPair 1 (p0 5)).pair.st = 5)
      ∧ (reaches up (.fw 0) Reg.HLK_PAIR_CFG = true ∧ lockRefused up = none ∧ bit (pairCfgNext up 3) 0 = true ∧ bit (pairCfgNext up 3) 1 = true ∧ up.pairEn ≠ bit (pairCfgNext up 3) 0)
      ∧ (up.pairEn = bit (pairCfgNext up 2) 0 ∧ bit (pairCfgNext up 2) 0 = false)
      ∧ (bit (pairCfgNext sLockNo 3) 0 = true ∧ bit (pairCfgNext sLockNo 3) 1 = true ∧ sLockNo.lockMode = false ∧ lockRefused sLockNo = some 63)
      ∧ (reaches up .portA Reg.HLK_HB_KICK = true)
      ∧ (reaches up .portA Reg.HLK_AUTHW = true ∧ (up.putMasked Reg.HLK_AUTHW 0x80000010).rbit Reg.HLK_AUTHW 31 = true ∧ up.rbit Reg.HLK_AUTHW 31 = false ∧ up.up 4 = true ∧ up.mem.tank.ecc = []) := by
  decide +kernel

theorem witness_PairRolesAndAuthority_heartbeats :
    ((sPair 1 { p0 2 with kicked := true }).pairEn = true ∧ (sPair 1 { p0 2 with kicked := true, heard := true }).pair.heard = true)
      ∧ ((sPair 1 { p0 2 with kickMiss := 3 }).pair.kicked = false ∧ (sPair 1 { p0 2 with kickMiss := 3 }).pair.kickMiss = 3 ∧ (sPair 1 { p0 2 with kickMiss := 3 }).pair.st = 2)
      ∧ ((sPair 1 { p0 2 with kicked := true, missed := 4 }).pair.kicked = true ∧ (sPair 1 { p0 2 with kicked := true, missed := 4 }).pair.heard = false ∧ (sPair 1 { p0 2 with kicked := true, missed := 4 }).pair.missed = 4)
      ∧ ((sPair 1 (p0 1)).portUp 7 = true ∧ (sPair 1 (p0 1)).pair.st = 1 ∧ (sPair 1 (p0 1)).hlkId = 2 ∧ ((⟨2, false, 3, 0⟩ : PeerBeat).state.val = 2) ∧ ((⟨1, false, 3, 0⟩ : PeerBeat).state.val = 1)
        ∧ (sPair 1 (p0 1)).pair.peerPrim = false ∧ (sPair 1 { p0 1 with peerPrim := true }).pair.peerPrim = true) := by decide +kernel

/-- A STANDBY of a MIRROR pair that has no resynchronisation and takes none, and one that joins. -/
theorem witness_PairRolesAndAuthority_resync :
    ((sPair 1 (p0 3)).portUp 7 = true ∧ (sPair 1 (p0 3)).pairEn = true ∧ (sPair 1 (p0 3)).pair.st = 3 ∧ (sPair 1 (p0 3)).lockMode = false ∧ (sPair 1 (p0 3)).pair.synced = false
        ∧ (sPair 1 (p0 3)).pair.taking = false) ∧ (⟨2, false, 3, 0⟩ : PeerBeat).state.val = 2 ∧ (sPair 3 (p0 1)).lockMode = true ∧ (sPair 1 (p0 1)).lockMode = false := by decide +kernel

/-- A PRIMARY with a record that waits for the peer, on stream 63. -/
def sMir : State := (sPair 1 { p0 2 with resync := some 4 }).setStrm 63 { Strm.empty with outq := [⟨0, [], true, some 5⟩] }

/-- LOCKSTEP-COMPARE with a context whose DONE waits for the peer's copy of number 0 of stream 63. -/
def sLock : State := ({ sPair 3 { p0 2 with lock := [(63, { (up.lockOf 63) with own := [(0, 7)] })] } with pert := [] }).setCtx 0 { c0 with hold := .doneCopy 63 0 2 1 [1] }

theorem witness_MirrorTakeoverAndLockstep :
    ((sPair 1 { p0 3 with synced := true }).portUp 7 = true ∧ (sPair 1 { p0 3 with synced := true }).pairEn = true ∧ (sPair 1 { p0 3 with synced := true }).pair.st = 3 ∧ (sPair 1 { p0 3 with synced := true }).lockMode = false
        ∧ (⟨1, .resyncBegin⟩ : MirrorRec).body = .resyncBegin ∧ (⟨1, .resyncEnd⟩ : MirrorRec).body ≠ .resyncBegin ∧ (⟨1, .resyncEnd⟩ : MirrorRec).number = (sPair 1 { p0 3 with synced := true }).pair.got + 1
        ∧ (⟨2, .resyncEnd⟩ : MirrorRec).number ≠ (sPair 1 { p0 3 with synced := true }).pair.got + 1)
      ∧ (sMir.portUp 7 = true ∧ sMir.pairEn = true ∧ sMir.pair.st = 2 ∧ sMir.lockMode = false ∧ (⟨0, [], true, some 5⟩ : OutRec) ∈ (sMir.strm 63).outq ∧ sMir.pair.resync = some 4)
      ∧ ((sPair 1 { p0 4 with prim := true }).pair.st = 4 ∧ (sPair 1 { p0 4 with prim := true }).auth = true)
      ∧ (sLock.lockMode = true ∧ sLock.up 4 = true ∧ sLock.portUp 7 = true ∧ (sLock.ctx 0).hold = .doneCopy 63 0 2 1 [1] ∧ ∃ e ∈ (sLock.lockOf 63).own, e.1 = 0 ∧ e.2 ≠ 8) := by decide +kernel

/-- Converter 3 with its control register and state as given. -/
def sCv (ctl : W32) (x : MsrConv) (l : List (Nat × W32)) : State := (upR ((Reg.MSRC_CTL 3, ctl) :: l)).setMsc 3 x

/-- A converter with a ready reference, in a pass or not. -/
def cv (pass : Bool) : MsrConv := { MsrConv.idle with refrdy := true, pass := pass }

theorem witness_MeasurementConverters_triggers :
    (reaches up .portA (Reg.MSRC_CTL 3) = true ∧ bit (1 : W32) 0 = true ∧ up.rbit (Reg.MSRC_CTL 3) 0 = false ∧ (sCv 1 .idle []).rbit (Reg.MSRC_CTL 3) 0 = true
        ∧ bit (0 : W32) 0 = false ∧ bits (0 : W32) 16 1 = (sCv 1 .idle []).fld (Reg.MSRC_CTL 3) 16 1 ∧ bits (0x1FFFE : W32) 16 1 ≠ (sCv 1 .idle []).fld (Reg.MSRC_CTL 3) 16 1)
      ∧ ((sCv 3 .idle []).mscOn 3 = true ∧ (sCv 3 .idle []).mscTrig 3 = 1 ∧ (sCv 3 .idle []).fld (Reg.MSRC_TPER 3) 23 0 ≠ 0 ∧ ((sCv 3 .idle []).msc 3).refrdy = false)
      ∧ ((sCv 5 { cv false with edges := 1 } [(Reg.MSRC_TDLY 3, 65535)]).mscTrig 3 = 2 ∧ ((sCv 5 { cv false with edges := 1 } [(Reg.MSRC_TDLY 3, 65535)]).msc 3).refrdy = true ∧ (sCv 5 { cv false with edges := 1 } [(Reg.MSRC_TDLY 3, 65535)]).fld (Reg.MSRC_TDLY 3) 15 0 ≠ 0
        ∧ ((sCv 5 { cv false with edges := 1 } [(Reg.MSRC_TDLY 3, 65535)]).msc 3).edges ≠ 0 ∧ ((sCv 5 .idle []).mscOn 3 = true ∧ ((sCv 5 .idle []).msc 3).edges = 0))
      ∧ ((sCv 7 (cv false) []).mscTrig 3 ≠ 0 ∧ reaches (sCv 7 (cv false) []) .portA (Reg.MSRC_CMD 3) = true ∧ ((sCv 7 (cv false) []).msc 3).pass = false ∧ (sCv 7 (cv false) []).fld (Reg.MSRC_TDLY 3) 15 0 = 0
        ∧ ((sCv 7 (cv false) []).msc 3).run = none)
      ∧ ((sCv 0x107 (cv true) []).rbit (Reg.MSRC_CTL 3) 8 = true ∧ ((sCv 0x107 (cv true) []).msc 3).pend = false ∧ ((sCv 0x107 (cv true) []).msc 3).pass = true)
      ∧ (sCv 7 (cv true) []).rbit (Reg.MSRC_CTL 3) 8 = false := by decide +kernel

/-- A run of entry 15. -/
def mr15 (fresh urg : Bool) : MsrRun := ⟨15, 0, fresh, urg, []⟩

theorem witness_MeasurementConverters_rest :
    ((sCv 1 { cv true with delay := true } []).mscOn 3 = true ∧ ((sCv 1 { cv true with delay := true } []).msc 3).delay = true ∧ ((sCv 1 { cv true with delay := true } []).msc 3).run = none)
      ∧ (((sCv 1 { cv true with delay := true, run := some (mr15 true true) } []).msc 3).run ≠ none)
      ∧ ((sCv 0x7801 { cv true with run := some (mr15 false false) } []).mscOn 3 = true ∧ ((sCv 0x7801 { cv true with run := some (mr15 false false) } []).msc 3).run = some (mr15 false false) ∧ (mr15 false false).entry < 16
        ∧ !((mr15 false false).fresh && decide ((mr15 false false).got + 1 < entOrder ((sCv 0x7801 .idle []).mscEntry 3 15))) = true ∧ (sCv 0x7801 .idle []).rbit (Reg.MSRC_CTL 3) 9 = false)
      ∧ (reaches up .portA (Reg.MSRC_CMD 3) = true ∧ up.rbit (Reg.MSRC_CTL 3) 0 = false ∧ (sCv 1 { cv true with run := some (mr15 true true) } []).rbit (Reg.MSRC_CTL 3) 0 = true
        ∧ (mr15 false false).urg = false ∧ (mr15 true true).urg = true ∧ ((sCv 1 { cv true with run := some (mr15 true true) } []).msc 3).upend = none
        ∧ ((sCv 1 { cv true with run := some (mr15 true true), upend := some 4 } []).msc 3).upend ≠ none)
      ∧ (reaches up .portA (Reg.MSRC_CTL 3 + 4) = true ∧ cfgOnly 4 = true ∧ cfgOnly 0x7C = true ∧ (0x7C : BitVec 8) ≠ 0 ∧ reaches up (.fw 0) (Reg.MSRC_CTL 3 + 0x7C) = true) := by decide +kernel

/-- A device whose store is resolved, with registers and a page write. -/
def sNv (cur : Option PageJob) (cal : Option (Nat × Nat × Bool)) (l : List (Nat × W32)) : State :=
  { upR l with nvs := { up.nvs with ready := true, cur := cur }, msr := { up.msr with cal := cal } }

/-- A page write of channel 1. -/
def pg : PageJob := ⟨0x1F040, [1, 2], .chan 1⟩

theorem witness_CalibrationStoreAndLog :
    (reaches up .portA Reg.MSR_CAL_CMD = true ∧ up.calBusy = false ∧ up.rbit (Reg.MSRC_CTL 3) 0 = false ∧ Tab.find? up.msr.zero (pairIx 3 (up.reg Reg.MSR_CAL_ENT)) = none)
      ∧ (Tab.find? ({ up with msr := { up.msr with zero := [(384, 5)] } } : State).msr.zero (pairIx 3 (up.reg Reg.MSR_CAL_ENT)) ≠ none)
      ∧ ((sNv none none [(Reg.MSR_STAT, 2)]).calBusy = true ∧ (sNv none none [(Reg.MSRC_CTL 3, 1)]).rbit (Reg.MSRC_CTL 3) 0 = true)
      ∧ ((sNv none (some (3, 384, false)) []).up 8 = true ∧ (sNv none (some (3, 384, false)) []).msr.cal = some (3, 384, false)
        ∧ ([(⟨[0], 0⟩ : Volts)].map (rawCode ((sNv none (some (3, 384, false)) []).reg Reg.MSR_CAL_ENT))) = [0] ∧ bit ((sNv none (some (3, 384, false)) []).reg Reg.MSR_CAL_ENT) 14 = false)
      ∧ (bit ((sNv none (some (3, 384, false)) [(Reg.MSR_CAL_ENT, 0x4000)]).reg Reg.MSR_CAL_ENT) 14 = true ∧ (sNv none (some (3, 384, false)) [(Reg.MSR_CAL_ENT, 0x4000)]).rbit Reg.ACT_EN (8 + 3) = false)
      ∧ (({ up with rst := { up.rst with bowarn := true } } : State).calBusy = false ∧ up.rst.bowarn = false ∧ (sNv (some pg) none []).nvs.cur = some pg)
      ∧ (reaches up .portA (Reg.NVSC_CMD 1) = true ∧ (sNv none none [(Reg.NVSC_STAT 1, 1)]).rbit (Reg.NVSC_STAT 1) 0 = true ∧ (sNv none none []).rbit (Reg.NVSC_STAT 1) 0 = false ∧ (sNv none none []).nvs.ready = true
        ∧ (sNv none none []).nvs.cur = none ∧ (sNv none none []).nvs.queue = [])
      ∧ (writeRefusal false (sNv none none [(Reg.NVSC_STAT 1, 1)]) 1 3072 = some 4 ∧ writeRefusal false (sNv none none []) 0 0 = some 2 ∧ writeRefusal true (sNv none none []) 0 0 = none
        ∧ writeRefusal false (sNv none none []) 1 3072 = none ∧ writeRefusal false { sNv none none [] with rst := { up.rst with bowarn := true } } 1 3072 = some 3)
      ∧ up.up 2 = true := by decide +kernel

/-- The start at a stage. -/
def sSt (g : Stage) (l : List (Nat × W32)) : State := { upR l with rst := { up.rst with stage := g } }

theorem witness_ResetsHoldTheDomains :
    (∃ s : State, s = atUs 65535000 { upR [(Reg.RST_WDT_CFG, 65535)] with rst := { up.rst with wdt := true } } ∧ s.rst.wdt = true ∧ 1000 * max 1 (s.fld Reg.RST_WDT_CFG 15 0) ≤ s.since s.rst.kickAt)
      ∧ (∃ s : State, s = atUs 2000000 up ∧ s.rst.stage = .run ∧ s.rbit Reg.RST_STAT 4 = false ∧ 2000000 ≤ s.since s.rst.ctlAt)
      ∧ (reaches up .portA Reg.RST_SW = true ∧ reaches up (.fw 0) Reg.RST_RECOVER = true) ∧ (upR [(Reg.CLK_STAT, 0x78)]).fld Reg.CLK_STAT 6 3 = 15 ∧ up.up 3 = true
      ∧ (∃ s : State, s = atUs 500 { upR [(Reg.RST_SEP_TMO, 400)] with rst := { up.rst with dom := [(40, .isolating)], domAt := [(40, 100)] } } ∧ s.domSt (domIx (.core 31)) = .isolating
        ∧ max 1 (s.fld Reg.RST_SEP_TMO 15 0) ≤ s.domSince (domIx (.core 31)))
      ∧ ((sSt .recovery []).rst.stage = .recovery ∧ (sSt .recovery []).rst.bowarn = false ∧ reaches (sSt .recovery []) .portA Reg.RST_RECOVER = true)
      ∧ (0xA4 : Byte) ≠ 0xA5 ∧ bit ({ up with sec := { up.sec with scopes := 2 } } : State).sec.scopes 1 = true :=
  ⟨⟨_, rfl, by decide +kernel⟩, ⟨_, rfl, by decide +kernel⟩, by decide +kernel, by decide +kernel, by decide +kernel, ⟨_, rfl, by decide +kernel⟩, by decide +kernel⟩

/-- Recovery mode under the brown-out warning, an EXIT waiting or not. -/
def sWarn (x : Bool) : State := { sSt .recovery [(Reg.RST_STAT, 0x28)] with rst := { (sSt .recovery []).rst with bowarn := true, exit := x } }

/-- The same with the store ready. -/
def isReady (s : State) : State := { s with nvs := { s.nvs with ready := true } }

theorem witness_ResetsHoldTheDomains_exit : (reaches (sWarn false) .portA Reg.RST_RECOVER = true ∧ (sWarn false).rst.stage = .recovery ∧ (isReady (sWarn false)).nvsOpen = false ∧ (sSt .recovery []).nvsOpen = false)
    ∧ ((isReady (sSt .recovery [])).nvsOpen = true ∧ reaches (isReady (sSt .recovery [])) .portA Reg.RST_RECOVER = true ∧ (isReady (sSt .recovery [])).rst.stage = .recovery)
    ∧ (⟨0, 4⟩ : ClockLoss).lost ≠ 0 := by decide +kernel

/-- A page write of a calibration SAVE in the store's queue. -/
def sCal : State := { up with nvs := { up.nvs with queue := [.page ⟨0x9000, [1], .cal 2 true⟩] } }

theorem witness_TheStartSequence_warning :
    (∀ j m l, NvsCmd.page j ∈ up.nvs.queue → j.src ≠ .cal m l) ∧ (∃ j m l, NvsCmd.page j ∈ sCal.nvs.queue ∧ j.src = .cal m l)
      ∧ ((sWarn true).rst.stage ≠ .blocked ∧ (sWarn true).rst.exit = true ∧ (sWarn false).rst.exit = false ∧ (sSt .blocked []).rst.stage = .blocked)
      ∧ ((isReady (sWarn true)).up 2 = true ∧ (isReady (sWarn true)).nvs.ready = true ∧ (sWarn true).nvs.ready = false ∧ (isReady (sSt .blocked [])).rst.stage = .blocked) :=
  ⟨fun _ _ _ h => (nomatch h), ⟨_, 2, true, .head _, rfl⟩, by decide +kernel⟩

/-- A running bundle that may advance the rollback fuses. -/
def bun : Bundle := ⟨0, 0, 1, true, none, 0⟩

theorem witness_TheStartSequence :
    ((sSt (.held 5) []).rst.stage = .held 5 ∧ (sSt (.held 5) [(Reg.RST_STAT, 8)]).rbit Reg.RST_STAT 3 = true ∧ (sSt (.held 5) []).rbit Reg.RST_STAT 3 = false ∧ (sSt (.held 1) []).rst.stage = .held 1) ∧ (sSt .fuse []).rst.stage = .fuse
      ∧ ((sSt .journal []).up 2 = true ∧ (sSt .journal []).nvs.ready = false ∧ (sSt .journal [(Reg.RST_STAT, 2)]).rbit Reg.RST_STAT 1 = true ∧ (sSt .journal []).rbit Reg.RST_STAT 1 = false
        ∧ (sSt .journal []).rst.bowarn = false ∧ (sSt .journal []).pertAt 0x94 = none ∧ max ((sSt .journal []).fld Reg.RST_FAILCNT 7 0) (startFields ((sSt .journal []).nvsResolve.abChoose abStart)).1 < 3)
      ∧ ((sSt .journal [(Reg.RST_FAILCNT, 3)]).rst.stage = .journal ∧ 3 ≤ max ((sSt .journal [(Reg.RST_FAILCNT, 3)]).fld Reg.RST_FAILCNT 7 0) (startFields ((sSt .journal []).nvsResolve.abChoose abStart)).1)
      ∧ (sSt .pll []).rst.stage = .pll ∧ ((sSt .boot []).rst.stage = .boot ∧ bundleForm (sSt .boot []).mem.qspi 0 0x800000 = false ∧ bundleForm (sSt .boot []).mem.qspi 0x800000 0x800000 = false)
      ∧ (reaches up .portA Reg.RST_START = true ∧ up.rst.stage = .run ∧ up.rbit Reg.RST_STAT 4 = false ∧ (upR [(Reg.RST_STAT, 16)]).rbit Reg.RST_STAT 4 = true)
      ∧ (({ upR [(Reg.RST_STAT, 16)] with sec := { up.sec with bundle := some bun } } : State).sec.bundle = some bun ∧ bun.advance = true ∧ up.fus.rollback + 1 = bun.rbver ∧ up.fus.rollback + 1 < { bun with rbver := 2 }.rbver ∧ up.rst.bowarn = false)
      ∧ up.nvs.ready = false
      ∧ (reaches up .portA Reg.RST_WDT_KICK = true ∧ bits (0x4B1C : W32) 15 0 = 0x4B1C ∧ bits (0x4B1D : W32) 15 0 ≠ 0x4B1C) ∧ reaches up (.fw 0) Reg.RST_FLT = true := by decide +kernel

theorem witness_TheStartSequence_mailbox : (sSt .boot []).rst.stage = .boot ∧ bundleCheck (sSt .boot []) (sSt .boot []).mem.qspi 0 0x800000 ≠ 0
    ∧ bundleCheck (sSt .boot []) (sSt .boot []).mem.qspi 0x800000 0x800000 ≠ 0 := by
  refine ⟨by decide +kernel, ?_, ?_⟩
  · simp only [bundleCheck, show bundleForm (sSt .boot []).mem.qspi 0 0x800000 = false by decide +kernel]
    decide
  · simp only [bundleCheck, show bundleForm (sSt .boot []).mem.qspi 0x800000 0x800000 = false by decide +kernel]
    decide


/-! ## Witnesses: block resets, power, the host and trust -/

/-- A domain in a state, with a register. -/
def sDom (d : Nat) (x : DomSt) (l : List (Nat × W32)) : State := { upR l with rst := { up.rst with dom := Tab.setD up.rst.dom d .down x } }

theorem witness_BlockResetsClocksAndSnapshots :
    (∃ s : State, s = atUs 10100 { sDom 40 .releasePending [] with rst := { (sDom 40 .releasePending []).rst with domAt := [(40, 100)] } } ∧ s.domSt 40 = .releasePending ∧ 10000 ≤ s.domSince 40)
      ∧ (∃ s : State, s = { up with nvs := { up.nvs with cur := some pg } } ∧ s.domSt 2 = .run ∧ s.nvsGo.nvs.cur ≠ none)
      ∧ (blockBit (domIx .nvsc) = some (Reg.RST_BLK, 0) ∧ blockBit (domIx (.core 31)) = some (Reg.RST_CORE, 31) ∧ reaches up .portA Reg.RST_BLK = true ∧ reaches up (.fw 0) Reg.RST_CORE = true
        ∧ up.domSt 2 = .run ∧ (sDom 40 .isolating []).domSt 40 = .isolating ∧ (sDom 40 .releasePending []).domSt 40 = .releasePending ∧ (sDom 2 .inReset []).domSt 2 = .inReset)
      ∧ (blockBit (domIx .aon) = none ∧ blockBit (domIx .sec) = none)
      ∧ ((upR [(Reg.CLK_CFG, 1)]).rbit Reg.CLK_CFG 0 = true ∧ (upR [(Reg.CLK_STAT, 6)]).rbit Reg.CLK_STAT 1 = true)
      ∧ reaches up .portA Reg.CNT_SNAP = true ∧ ((sDom 4 .isolating [(Reg.PRS_STAT, 0x10000)]).domSt 4 = .isolating ∧ domOfAddr Reg.PRS_STAT = 4 ∧ (sDom 4 .isolating [(Reg.PRS_STAT, 0x10000)]).reg Reg.PRS_STAT &&& 0x10000 ≠ 0) :=
  ⟨⟨_, rfl, by decide +kernel⟩, ⟨_, rfl, by decide +kernel⟩, by decide +kernel⟩

/-- The device with a number of cores powered, a change under way or not, towards a goal. -/
def sPw (n : Nat) (busy aon : Bool) (g : Stage) (goal : W32) (l : List (Nat × W32)) : State :=
  { upR l with rst := { up.rst with cores := n, pwrBusy := busy, toAon := aon, stage := g, pwrGoal := goal } }

/-- A context of core 31 in RUN. -/
def runs31 (s : State) : State := s.setCtx 127 c0

/-- Array 2,047 parked on its way from READY. -/
def parks31 (s : State) : State := s.setArr 2047 { Arr.idle with queue := [m0] }

theorem witness_PowerStates_target :
    (reaches up .portA Reg.PWR_TARGET = true ∧ (sPw 32 false false .boot 3 []).rst.pwrBusy = false ∧ (sPw 32 false false .boot 3 []).rst.stage ≠ .run)
      ∧ ((sPw 32 false false .run 3 []).rst.stage = .run ∧ pwrRefusal ((runs31 (sPw 32 false false .run 3 [])).putMasked Reg.PWR_TARGET 1) (((runs31 (sPw 32 false false .run 3 [])).putMasked Reg.PWR_TARGET 1).reg Reg.PWR_TARGET) = some 31)
      ∧ pwrRefusal ((sPw 32 false false .run 3 []).putMasked Reg.PWR_TARGET 0) (((sPw 32 false false .run 3 []).putMasked Reg.PWR_TARGET 0).reg Reg.PWR_TARGET) = none
      ∧ bits (((sPw 32 false false .run 3 []).putMasked Reg.PWR_TARGET 0).reg Reg.PWR_TARGET) 1 0 = 0
      ∧ pwrRefusal ((sPw 32 false false .run 3 []).putMasked Reg.PWR_TARGET 2) (((sPw 32 false false .run 3 []).putMasked Reg.PWR_TARGET 2).reg Reg.PWR_TARGET) = none
      ∧ bits (((sPw 32 false false .run 3 []).putMasked Reg.PWR_TARGET 2).reg Reg.PWR_TARGET) 1 0 ≠ 0 := by decide +kernel

theorem witness_PowerStates_cores :
    ((sPw 31 true false .run 3 []).rst.stage = .run ∧ (sPw 31 true false .run 3 []).rst.pwrBusy = true ∧ (sPw 31 true false .run 3 []).rst.toAon = false ∧ (sPw 31 true false .run 3 []).rst.cores = 31
        ∧ 31 < goalCores (sPw 31 true false .run 3 []).rst.pwrGoal)
      ∧ ((sPw 32 true false .run 1 []).rst.cores = 31 + 1 ∧ goalCores (sPw 32 true false .run 1 []).rst.pwrGoal ≤ 31)
      ∧ (coreRefuses (runs31 (sPw 32 true false .run 1 [])) 31 = true ∧ ({ sPw 32 true false .run 1 [] with fus := { up.fus with dramSize := 0 } } : State).dramBytes = 0)
      ∧ (coreRefuses (parks31 (sPw 32 true false .run 1 [])) 31 = false ∧ (parks31 (sPw 32 true false .run 1 [])).dramBytes ≠ 0 ∧ coreQuiet (parks31 (sPw 32 true false .run 1 [])) 31 = false)
      ∧ (coreRefuses (sPw 32 true false .run 1 []) 31 = false ∧ (sPw 32 true false .run 1 []).dramBytes ≠ 0 ∧ coreQuiet (sPw 32 true false .run 1 []) 31 = true) := by decide +kernel

theorem witness_PowerStates_aon :
    ((runs31 (sPw 32 true true .run 0 [])).nvsGo.rst.stage = .run ∧ (runs31 (sPw 32 true true .run 0 [])).rst.toAon = true ∧ pwrRefusal (runs31 (sPw 32 true true .run 0 [])).nvsGo 0 = some 31)
      ∧ ((sPw 32 true true .run 0 []).rst.toAon = true ∧ pwrRefusal (sPw 32 true true .run 0 []).nvsGo 0 = none ∧ (sPw 32 true true .run 0 []).nvsGo.nvs.cur = none ∧ (sPw 32 true true .run 0 []).nvsGo.nvs.queue = []
        ∧ ∀ c < (sPw 32 true true .run 0 []).nvsGo.rst.cores, coreQuiet (sPw 32 true true .run 0 []).nvsGo c = true)
      ∧ (∃ s : State, s = atUs 5 (sPw 0 false false .aon 0 [(Reg.PWR_CFG, 0x180), (Reg.PWR_ALARM, 5)]) ∧ s.rst.stage = .aon ∧ s.rbit Reg.PWR_CFG (4 + 3) = true ∧ s.rbit Reg.PWR_CFG 8 = true
        ∧ s.reg64 Reg.PWR_ALARM ≠ 0 ∧ s.reg64 Reg.PWR_ALARM ≤ s.cnt.aon.toNat)
      ∧ (sPw 0 false false .wake 0 []).rst.stage = .wake :=
  ⟨by decide +kernel, by decide +kernel, ⟨_, rfl, by decide +kernel⟩, by decide +kernel⟩

/-- DRAM that holds what the press's image state saved, the device on its way out of AON. -/
def sWk : State :=
  let s := sPw 0 false false .wake 0 []
  { s with mem := { s.mem with dram := Mem.empty.writeRaw 0xFFFC00 ((Config.imageBytes [(0, ⟨0, 131424, [], [], [], true⟩)]).take 1024) }, psave := { s.psave with images := some [(0, ⟨0, 131424, [], [], [], true⟩)] } }

theorem witness_PowerStates_images : ∃ (l : Tab Image) (o : Nat) (bs : List Byte), sWk.psave.images = some l ∧ bs = Config.imageBytes l ∧ o = sWk.saveBase + 0xFFFC00 ∧ sWk.rbit Reg.RST_BLK 3 = false
    ∧ sWk.rst.stage = .wake ∧ sWk.bytes 2 o (min (min 1024 (sWk.dramBytes - o)) bs.length) = bs.take 1024 := by
  refine ⟨_, _, _, rfl, rfl, rfl, by decide +kernel, by decide +kernel, ?_⟩
  have h1 : sWk.saveBase + 0xFFFC00 = 0xFFFC00 := by decide +kernel
  have h2 : min 1024 (sWk.dramBytes - 0xFFFC00) = 1024 := by decide +kernel
  rw [h1, h2, ← List.length_take]
  exact Mem.read_writeRaw_self _ _ _

theorem witness_PowerStates_none : (sPw 0 false false .wake 0 []).psave.images = none := rfl

/-- Queue 3 as given, with registers; host memory holds a NOP with tag 7 at 64. -/
def sHq (h : HQueue) (l : List (Nat × W32)) : State :=
  { upR l with host := { up.host with q := Tab.setD [] 3 .empty h }, mem := { up.mem with host := ⟨[(68, 7)], []⟩ } }

/-- The 64 bytes of that NOP. -/
def rawNop : List Byte := [0, 0, 0, 0, 7] ++ List.replicate 59 0

/-- Queue 3 enabled with the largest length, submissions at 0 and completions at 4,096. -/
def qOn : List (Nat × W32) := [(Reg.HST_SQ_CFG 0 3, 0x8000000C), (Reg.HST_CQ_CFG 0 3, 0x8000000C), (Reg.HST_CQ_BASE 0 3, 4096)]

/-- An ended NOP. -/
def dn : HDone := ⟨7, 0, 0, 0, 1⟩

theorem witness_HostQueues_submissions :
    (reaches up .portA (Reg.HST_SQ_TAIL 0 3) = true ∧ up.rbit (Reg.HST_SQ_CFG 0 3) 31 = false)
      ∧ ((sHq { HQueue.empty with sqHead := 1 } qOn).rbit (Reg.HST_SQ_CFG 0 3) 31 = true ∧ reaches (sHq { HQueue.empty with sqHead := 1 } qOn) .portA (Reg.HST_SQ_TAIL 0 3) = true)
      ∧ (ringLen ((upR [(Reg.HST_SQ_CFG 0 3, 0x80000004)]).fld (Reg.HST_SQ_CFG 0 3) 3 0) ≤ bits (16 : W32) 11 0 ∧ bits (2 : W32) 11 0 < ringLen ((sHq .empty qOn).fld (Reg.HST_SQ_CFG 0 3) 3 0))
      ∧ ((sHq { HQueue.empty with sqHead := 1 } qOn).hq 3 = { HQueue.empty with sqHead := 1 } ∧ bits (2 : W32) 11 0 = (1 + 1) % ringLen ((sHq .empty qOn).fld (Reg.HST_SQ_CFG 0 3) 3 0)
        ∧ rawNop = (sHq { HQueue.empty with sqHead := 1 } qOn).mem.host.read ((sHq { HQueue.empty with sqHead := 1 } qOn).reg64 (Reg.HST_SQ_BASE 0 3) + 64 * 1) 64
        ∧ cmdForm rawNop = true ∧ cmdFields rawNop = true ∧ (sHq { HQueue.empty with sqHead := 1 } qOn).rst.stage ≠ .recovery ∧ leNat (rawNop.take 1) ≠ 7)
      ∧ (bits (3 : W32) 11 0 = (1 + 2) % ringLen ((sHq .empty qOn).fld (Reg.HST_SQ_CFG 0 3) 3 0) ∧ bits (3 : W32) 11 0 < ringLen ((sHq .empty qOn).fld (Reg.HST_SQ_CFG 0 3) 3 0)
        ∧ ({ HQueue.empty with sqHead := 1 } : HQueue).sqHead ≠ bits (2 : W32) 11 0) := by decide +kernel

theorem witness_HostQueues_completions :
    ((sHq { HQueue.empty with ended := [dn] } qOn).rbit (Reg.HST_CQ_CFG 0 3) 31 = true ∧ ringFull 0 0 (ringLen ((sHq .empty qOn).fld (Reg.HST_CQ_CFG 0 3) 3 0)) = false
        ∧ ((sHq { HQueue.empty with ended := [dn] } qOn).hq 3).ended = dn :: [])
      ∧ (ringFull 0 4095 (ringLen ((sHq .empty qOn).fld (Reg.HST_CQ_CFG 0 3) 3 0)) = true ∧ ((sHq { HQueue.empty with ended := [dn], cqTail := 4095 } qOn).hq 3).ended = dn :: []
        ∧ (sHq { HQueue.empty with ended := [dn] } []).rbit (Reg.HST_CQ_CFG 0 3) 31 = false)
      ∧ (reaches up .portA (Reg.HST_CQ_HEAD 0 3) = true ∧ reaches up (portWho 1) (Reg.HST_EQ_HEAD 1) = true) := by decide +kernel

/-- Port A's event queue of 16 entries, full or not at the head 1, with records lost since the last report. -/
def sEq (n : Nat) : State := let s := upR [(Reg.HST_EQ_CFG 0, 0x80000004)]; { s with ev := { s.ev with eqA := ⟨0, 15, true, 2, n⟩ } }

theorem witness_HostQueues_lost : reaches (sEq 2) (portWho 0) (Reg.HST_EQ_HEAD 0) = true ∧ (sEq 0).rbit (Reg.HST_EQ_CFG 0) 31 = true ∧ ((sEq 2).eq 0).lostNow ≠ 0 ∧ ((sEq 0).eq 0).lostNow = 0
    ∧ ringFull (bits (1 : W32) 11 0) ((sEq 2).eq 0).tail (ringLen ((sEq 2).fld (Reg.HST_EQ_CFG 0) 3 0)) = false := by decide +kernel

theorem witness_HostQueues_configuration :
    (reaches up (portWho 1) (baseHst 1 + 0x18) = true ∧ reaches up (portWho 0) (baseHst 0 + 0xB8) = true ∧ reaches up (portWho 0) (baseHst 0 + 0xBC) = true ∧ cfgOff 0xBC = none)
      ∧ (cfgOff 0xB8 = some 0xB8 ∧ up.rbit (baseHst 0 + 0xB8) 31 = false ∧ (upR [(baseHst 0 + 0xB8, 0x80000000)]).rbit (baseHst 0 + 0xB8) 31 = true)
      ∧ (bit (5 : W32) 31 = false ∧ bit (0x80000005 : W32) 31 = true)
      ∧ (cfgOff 0xB0 = some 0xB8 ∧ reaches up (portWho 0) (baseHst 0 + 0xB0) = true ∧ (0xB0 : Nat) ≠ 0xB8) := by decide +kernel

/-- A command in progress on queue 3 with tag 7. -/
def hc (b : List Byte) : HCmd := ⟨7, b.headD 0, b ++ List.replicate (64 - b.length) 0, 1, false⟩

/-- Array 0 with contents in READY or as given, the DMA channels below a number in use, and one command in progress. -/
def sHc (b : List Byte) (a : Arr) (used : Nat) (k : CoreSt) : State :=
  { sHq { HQueue.empty with prog := [hc b] } [] with mem := { up.mem with nvs := ⟨[(0x8003, 0x10)], []⟩ }, arrs := [(0, a)], cores := [(0, k)], eng := { up.eng with dma := (List.range used).map (fun i => (i, ⟨0, 0, 1, none, none⟩)) } }

/-- An array in READY, idle or with work. -/
def rdy (q : List Mvx) : Arr := { Arr.idle with st := .ready, queue := q }

/-- A copy command: source, destination and length in their bytes. -/
def bCopy (n : Byte) (sp : Byte) : List Byte := [3, 0, 0, 0, 7, 0, 0, 0, 0, 0, 0, 0, 0, 0, sp, 0, 64, 0, 0, 0, 0, 0, 0, 0, n]

/-- 16 requests of a register. -/
def full16 : List Ask := List.replicate 16 (ask none)

theorem witness_HostCommands_plain :
    ((sHc [0] .idle 0 .empty).findCmd 3 7 0 = some (hc [0]) ∧ (sHc [8, 0, 0, 0, 7, 0, 0, 0, 1] .idle 0 .empty).findCmd 3 7 8 = some (hc [8, 0, 0, 0, 7, 0, 0, 0, 1]))
      ∧ ((sHc [7] .idle 0 .empty).findCmd 3 7 7 = some (hc [7]) ∧ (hc [7]).arg 48 4 < 1552)
      ∧ ((sHc (7 :: List.replicate 47 0 ++ [0x10, 6]) .idle 0 .empty).findCmd 3 7 7 = some (hc (7 :: List.replicate 47 0 ++ [0x10, 6])) ∧ 1552 ≤ (hc (7 :: List.replicate 47 0 ++ [0x10, 6])).arg 48 4
        ∧ (sHc (7 :: List.replicate 47 0 ++ [0x10, 6]) .idle 0 .empty).rbit (Reg.HST_EQ_CFG 0) 31 = false ∧ (sHc (7 :: List.replicate 47 0 ++ [0x10, 6]) .idle 0 .empty).rbit (Reg.HST_EQ_CFG 1) 31 = false)
      ∧ ((sHc (bCopy 8 0) .idle 2 .empty).findCmd 3 7 3 = some (hc (bCopy 8 0)) ∧ (sHc (bCopy 8 0) .idle 2 .empty).up 4 = true ∧ (sHc (bCopy 8 0) .idle 2 .empty).copying 3 7 = false
        ∧ (∀ b < 2, Tab.find? (sHc (bCopy 8 0) .idle 2 .empty).eng.dma b ≠ none) ∧ Tab.find? (sHc (bCopy 8 0) .idle 2 .empty).eng.dma 2 = none
        ∧ dmaBad (sHc (bCopy 8 0) .idle 2 .empty) (BitVec.ofNat 64 ((hc (bCopy 8 0)).arg 8 8)) ((hc (bCopy 8 0)).arg 24 4) = false
        ∧ dmaBad (sHc (bCopy 8 0) .idle 2 .empty) (BitVec.ofNat 64 ((hc (bCopy 8 0)).arg 16 8)) ((hc (bCopy 8 0)).arg 24 4) = false
        ∧ dmaBad (sHc (bCopy 8 3) .idle 2 .empty) (BitVec.ofNat 64 ((hc (bCopy 8 3)).arg 8 8)) ((hc (bCopy 8 3)).arg 24 4) = true) := by decide +kernel

/-- PORTCFG with the store ready and idle, and without it. -/
theorem witness_HostCommands_portcfg :
    (∀ s : State, s = isReady (sHc [8, 0, 0, 0, 7, 0, 0, 0, 1] .idle 0 .empty) → s.findCmd 3 7 8 = some (hc [8, 0, 0, 0, 7, 0, 0, 0, 1]) ∧ s.up 2 = true ∧ s.nvs.ready = true ∧ s.rst.bowarn = false
        ∧ ((hc [8, 0, 0, 0, 7, 0, 0, 0, 1]).arg 8 1 == 1) = true) ∧ (sHc [8, 0, 0, 0, 7, 0, 0, 0, 1] .idle 0 .empty).nvs.ready = false ∧ ([] : List Byte).length ≤ abTrim.max :=
  ⟨fun s h => h ▸ by decide +kernel, by decide +kernel, by decide +kernel⟩

theorem witness_HostCommands_churnAndTest :
    ((sHc [4] .idle 0 .empty).findCmd 3 7 4 = some (hc [4]) ∧ (hc [4]).arg 8 10 % 2048 = 0 ∧ asking ((sHc [4] .idle 0 .empty).core 0).churns 3 7 = false ∧ (sHc [4] .idle 0 .empty).refuses 0 = true)
      ∧ ((sHc [4] (rdy []) 0 { CoreSt.empty with churns := full16 }).refuses 0 = false ∧ 16 ≤ ((sHc [4] (rdy []) 0 { CoreSt.empty with churns := full16 }).core 0).churns.length
        ∧ asking ((sHc [4] (rdy []) 0 { CoreSt.empty with churns := full16 }).core 0).churns 3 7 = false)
      ∧ ((sHc [4] (rdy [m0]) 0 .empty).refuses 0 = false ∧ ((sHc [4] (rdy [m0]) 0 .empty).core 0).churns.length < 16 ∧ (sHc [4] (rdy [m0]) 0 .empty).idle 0 = false)
      ∧ ((sHc [5] .idle 0 .empty).findCmd 3 7 5 = some (hc [5]) ∧ asking ((sHc [5] .idle 0 .empty).core 0).tests 3 7 = false ∧ (sHc [5] .idle 0 .empty).refuses 0 = true)
      ∧ ((sHc [5] (rdy []) 0 { CoreSt.empty with tests := full16 }).refuses 0 = false ∧ 16 ≤ ((sHc [5] (rdy []) 0 { CoreSt.empty with tests := full16 }).core 0).tests.length
        ∧ asking ((sHc [5] (rdy []) 0 { CoreSt.empty with tests := full16 }).core 0).tests 3 7 = false)
      ∧ ((sHc [5] (rdy [m0]) 0 .empty).refuses 0 = false ∧ ((sHc [5] (rdy [m0]) 0 .empty).core 0).tests.length < 16 ∧ (sHc [5] (rdy [m0]) 0 .empty).idle 0 = false) := by decide +kernel

theorem witness_HostCommands_noneWaits : NoneWait (sHc [4] (rdy [m0]) 0 .empty) 0 ∧ (sHc [4] (rdy [m0]) 0 .empty).idle 0 = false :=
  ⟨noneWait_of _ 0 (by decide +kernel), by decide +kernel⟩

/-- A POWER command towards a state in progress with all cores powered, the waiting POWER commands as given. -/
def sPc (g : Byte) (w : List (Nat × W32)) : State :=
  { sHc [6, 0, 0, 0, 7, 0, 0, 0, g] .idle 0 .empty with rst := { up.rst with cores := 32, pwrCmds := w } }

theorem witness_HostCommands_power :
    ((sPc 1 []).findCmd 3 7 6 = some (hc [6, 0, 0, 0, 7, 0, 0, 0, 1]) ∧ (3, (7 : W32)) ∉ (sPc 1 []).rst.pwrCmds ∧ (sPc 1 []).rst.stage = .run)
      ∧ pwrRefusal ((runs31 (sPc 1 [])).putMasked Reg.PWR_TARGET 1) (((runs31 (sPc 1 [])).putMasked Reg.PWR_TARGET 1).reg Reg.PWR_TARGET) = some 31
      ∧ (pwrRefusal ((sPc 1 []).putMasked Reg.PWR_TARGET 1) (((sPc 1 []).putMasked Reg.PWR_TARGET 1).reg Reg.PWR_TARGET) = none ∧ bits (((sPc 1 []).putMasked Reg.PWR_TARGET 1).reg Reg.PWR_TARGET) 1 0 ≠ 0
        ∧ (sPc 1 []).rst.cores ≠ goalCores (((sPc 1 []).putMasked Reg.PWR_TARGET 1).reg Reg.PWR_TARGET))
      ∧ (pwrRefusal ((sPc 3 []).putMasked Reg.PWR_TARGET 3) (((sPc 3 []).putMasked Reg.PWR_TARGET 3).reg Reg.PWR_TARGET) = none ∧ (sPc 3 []).rst.cores = goalCores (((sPc 3 []).putMasked Reg.PWR_TARGET 3).reg Reg.PWR_TARGET)
        ∧ (sPc 3 []).rst.pwrCmds = [] ∧ w32 ((hc [6, 0, 0, 0, 7, 0, 0, 0, 3]).arg 8 1 + 256 * (hc [6, 0, 0, 0, 7, 0, 0, 0, 3]).arg 9 1) = 3) := by decide +kernel

theorem witness_HostPortsAndMemory :
    (up.up 6 = true ∧ ({ up with rst := { up.rst with split := true } } : State).rst.split = true)
      ∧ ((upR [(Reg.HST_PSTAT 1, 0x400)]).rbit (Reg.HST_PSTAT 1) 10 = true ∧ up.rbit (Reg.HST_PSTAT 1) 10 = false)
      ∧ (barUp (sDom 40 .down []) false (barParts (sDom 40 .down []) false 0xBFFFFFF 4) = false ∧ barUp up false (barParts up false 0xBFFFFFF 4) = true ∧ barUp up true (barParts up true 0xFFFFFFFFF 1) = true
        ∧ barUp (sDom 5 .down []) true (barParts (sDom 5 .down []) true 0 1) = false)
      ∧ (barUp up false (barParts up false (2 ^ 27 - 2) 2) = true ∧ 2 ^ 27 - 2 + ([1, 2] : List Byte).length ≤ 2 ^ 27 ∧ up.mem.tank.ecc = [])
      ∧ ((regRow Reg.PWR_ALARM).map (fun r => r.wide) = some 1 ∧ Reg.PWR_ALARM % 4 = 0 ∧ up.up (domOfAddr Reg.PWR_ALARM) = true ∧ whoPort .portA = some 0 ∧ up.reach Reg.PWR_ALARM = true ∧ up.rbit (Reg.HST_PSTAT 0) 10 = false)
      ∧ ((sNv none none []).up 2 = true ∧ (sNv none none []).reach 0x2BFFFC = true ∧ (sNv none none []).rbit (Reg.HST_PSTAT 0) 10 = false ∧ (sNv none none []).nvs.ready = true ∧ (sNv none none []).nvs.cur = none
        ∧ (sNv none none []).nvs.queue = [] ∧ regRow 0x2BFFFC = none ∧ domOfAddr 0x2BFFFC = 2) := by
  decide +kernel

/-- The tank with an uncorrectable group that two bytes written at 4 cover in part. -/
def sPw1 : State := { up with mem := { up.mem with tank := ⟨[], [(0, true)]⟩ } }

/-- Split ports, the trim loaded or not. -/
def sSplit (v : W32) : State := { upR [(Reg.RST_STAT, v)] with rst := { up.rst with split := true } }

theorem witness_HostPortsAndMemory_poison : barUp sPw1 false (barParts sPw1 false 4 2) = true ∧ (barParts sPw1 false 4 2).any (partPwunc sPw1) = true ∧ sPw1.rbit (Reg.HST_PSTAT 0) 10 = false := by decide +kernel

theorem witness_HostPortsAndMemory_lanes : ((sSplit 1).trimmed = true ∧ (sSplit 1).rst.split = true) ∧ (sSplit 0).trimmed = false ∧ (∀ v < 64, up.rbit (Reg.MSIX_CTL 1 v) 0 = (upR []).rbit (Reg.MSIX_CTL 1 v) 0)
    ∧ (upR [(Reg.MSIX_CTL 1 63, 0)]).rbit (Reg.MSIX_CTL 1 63) 0 = false := by decide +kernel

/-- SEC as given. -/
def sSec (x : SecSt) : State := { up with sec := x }

theorem witness_HostPortsAndMemory_reads :
    (whoPort .portB = some 1 ∧ (sDom 4 .down []).rbit (Reg.HST_PSTAT 1) 10 = false ∧ barAligned ⟨0x1BC, true⟩ = true ∧ (sDom 4 .down []).up 4 = false ∧ (sDom 4 .down []).up 6 = true ∧ glbCopy 0x1BC = true)
      ∧ ((sSec { up.sec with chal := some 7 }).readFor .portB (Reg.SEC_DBG_CHAL 0) = 0 ∧ (sSec { up.sec with chal := some 7 }).readFor .portA (Reg.SEC_DBG_CHAL 0) = 7) := by decide +kernel

/-- A mailbox command in progress, or none, at a stage. -/
def sMb (op : Nat) (g : Stage) : State := { sSt g [] with host := { up.host with mbx := op } }

theorem witness_MailboxKeysAndDebugUnlock :
    (reaches (sMb 0 .mailbox) .portA (Reg.HST_MBX_CMD 0) = true ∧ (sMb 0 .mailbox).host.mbx = 0 ∧ (sMb 0 .mailbox).rst.stage = .mailbox ∧ (sMb 0 .recovery).rst.stage = .recovery
        ∧ reaches (sMb 0 .recovery) .portA (Reg.HST_MBX_CMD 0) = true ∧ up.rst.stage ≠ .mailbox ∧ up.rst.stage ≠ .recovery ∧ (sMb 2 .run).host.mbx ≠ 0 ∧ reaches (sMb 2 .run) .portA (Reg.HST_MBX_CMD 0) = true)
      ∧ (sMb 3 .recovery).host.mbx = 3
      ∧ ((sMb 1 .mailbox).host.mbx = 1 ∧ (sMb 2 .recovery).host.mbx ≠ 1 ∧ (sMb 2 .recovery).host.mbx ≠ 3 ∧ (sMb 2 .recovery).host.mbx ≠ 0 ∧ bundleForm (sMb 1 .mailbox).mem.host 0 0 = false)
      ∧ (reaches up .portA Reg.SEC_KEYREV = true ∧ reaches up .portA Reg.SEC_LOCK = true ∧ reaches up (.fw 0) Reg.SEC_MKEY_PROG = true ∧ up.fus.mkey.isSome = false
        ∧ ({ up.fus with mkey := some 5 } : Fuses).mkey.isSome = true)
      ∧ (Who.portA ≠ .portB ∧ reaches up .portA (Reg.SEC_DBG_CHAL 0) = true ∧ reaches up .portA Reg.SEC_DBG_CMD = true)
      ∧ ((sSec { up.sec with lockout := true, fails := 3 }).sec.lockout = true ∧ (sSec { up.sec with fails := 2 }).sec.lockout = false ∧ min 3 ((sSec { up.sec with fails := 2 }).sec.fails + 1) = 3)
      ∧ (up.sec.chal = none ∧ (sSec { up.sec with chal := some 7 }).sec.chal = some 7) := by decide +kernel

theorem witness_MailboxKeysAndDebugUnlock_bundle : (sMb 1 .mailbox).host.mbx ≠ 0
    ∧ bundleCheck (sMb 1 .mailbox) (sMb 1 .mailbox).mem.host 0 0 ≠ 0 := by
  refine ⟨by decide +kernel, ?_⟩
  simp only [bundleCheck, show bundleForm (sMb 1 .mailbox).mem.host 0 0 = false by decide +kernel]
  decide

theorem witness_MailboxKeysAndDebugUnlock_badKey : ∃ s : State, s.sec.chal = some 7 ∧ keySlotOf s (dbgBuf s 0 1793) = none :=
  ⟨{ sSec { up.sec with chal := some 7 } with fus := { up.fus with revoked := 15 } }, rfl, by
    refine List.find?_eq_none.mpr (fun k h => ?_)
    have h4 : k < 4 := List.mem_range.mp h
    have e : bit (15 : BitVec 4) k = true := by
      rcases (by omega : k = 0 ∨ k = 1 ∨ k = 2 ∨ k = 3) with rfl | rfl | rfl | rfl <;> decide
    show ¬((!(bit (15 : BitVec 4) k) && _) = true)
    rw [e]
    exact Bool.false_ne_true⟩

theorem witness_RevocationKeepsASlot :
    (reaches up .portA Reg.SEC_KEYREV = true ∧ reaches (sSec { up.sec with bundle := some { bun with keySlot := 3 } }) (.fw 0) Reg.SEC_KEYREV = true)
      ∧ ((∃ b, (sSec { up.sec with bundle := some { bun with keySlot := 3 } }).sec.bundle = some b ∧ b.keySlot = (3 : Fin 4).val)
        ∧ (∀ i : Fin 4, i ≠ 3 → bit ({ up.fus with revoked := 7 } : Fuses).revoked i.val = true) ∧ ¬(∀ i : Fin 4, i ≠ 3 → bit up.fus.revoked i.val = true) ∧ up.sec.bundle = none)
      ∧ (∃ i : Fin 4, bit up.fus.revoked i.val = false) :=
  ⟨by decide +kernel, ⟨⟨_, rfl, by decide +kernel⟩, by decide +kernel, by decide +kernel, by decide +kernel⟩, by decide +kernel⟩

theorem witness_GuardedOffInstructionsDoNothing :
    (benrovWord (.add k0 (wF [(55, 1), (54, 1), (51, 7), (46, 31)])) = some (k0, wF [(55, 1), (54, 1), (51, 7), (46, 31)]) ∧ ofRow (.add k0 (wF [(55, 1), (54, 1), (51, 7), (46, 31)])) = true)
      ∧ (inCtx { c0 with p := 0x80 }).canIssue (ctxIx k0) = true ∧ bit (wF [(55, 1), (54, 1), (51, 7), (46, 31)]) 55 = true
      ∧ bit ((inCtx { c0 with p := 0x80 }).ctx (ctxIx k0)).p (fw (wF [(55, 1), (54, 1), (51, 7), (46, 31)]) 53 51) = bit (wF [(55, 1), (54, 1), (51, 7), (46, 31)]) 54 := by decide +kernel

/-- The same context with the ECC group of its first instruction uncorrectable; and words that are legal or not. -/
theorem witness_GuardedOffInstructionsDoNothing_words :
    ({ inCtx { c0 with p := 0x80 } with mem := { up.mem with tank := ⟨[], [(0, true)]⟩ } }.fetchBad (ctxIx k0) = true ∧ { inCtx { c0 with p := 0x80 } with mem := { up.mem with tank := ⟨[], [(0, true)]⟩ } }.canIssue (ctxIx k0) = true)
      ∧ ((inCtx { c0 with p := 0x80 }).fetchBad (ctxIx k0) = false ∧ legalWord (.add k0 (wF [(55, 1), (54, 1), (51, 7), (46, 31)])) = true ∧ legalWord (.add k0 (wF [(55, 1), (54, 1), (51, 7), (32, 1)])) = false
        ∧ legalWord (.halt k0 (wF [(55, 1)])) = true ∧ legalWord (.halt k0 (wF [(55, 1), (0, 1)])) = false) := by decide +kernel

theorem witness_EveryStepKeepsFusesAndMemories : Sound State.reset.fus { State.reset with pending := [.thermtripAssert] }
    ∧ ∃ t, step { State.reset with pending := [.thermtripAssert] } = .next t :=
  ⟨⟨⟨rfl, rfl, rfl, rfl, Nat.le_refl _, fun _ h => h, fun _ h => h, fun h => h, fun h => h⟩, by decide +kernel, ⟨by decide +kernel, by decide +kernel, by decide +kernel, by decide +kernel, by decide +kernel, by decide +kernel⟩⟩, ⟨_, rfl⟩⟩

theorem witness_ASavedContextIsRestored : ∀ st n, c0.cur = some (st, n) → st < 64 := by simp [c0, Ctx.idle]

/-! ## WellFormed: an ill-formed command for each check, and a well-formed one beside it -/

/-- An Ethernet frame of n payload bytes. -/
def ethOf (n : Nat) : EthFrame := { dst := 0, udpPort := 7, payload := List.replicate n 0, good := true }

/-- A chunk of n bytes. -/
def chunkOf (n : Nat) : ChunkFrame := { dst := 0, vl := false, src := 1, cid := 9, index := 0, seq := 1, payload := List.replicate n 0, digest := 0, poison := false }

/-- A frame of CAN FD or classical CAN, standard id. -/
def canOf (id : BitVec 29) (fdf brs : Bool) (dlc : BitVec 4) (rtr : Bool) (n : Nat) : CanFrame := { id := id, ide := false, fdf := fdf, brs := brs, dlc := dlc, rtr := rtr, data := List.replicate n 0 }

/-- That frame received. -/
def rx (id : BitVec 29) (fdf brs : Bool) (dlc : BitVec 4) (rtr : Bool) (n : Nat) : CanRxResult := .frame (canOf id fdf brs dlc rtr n) 0

theorem test_wf_noise : Instr.wf (.arrayPhaseEnd 0 [(2112, 1)]) = false ∧ Instr.wf (.arrayPhaseEnd 0 [(5, 1), (5, 2)]) = false ∧ Instr.wf (.arrayPhaseEnd 0 [(2111, 1)]) = true
    ∧ Instr.wf (.lightChurnProbesEnd 0 [(4224, 1)]) = false ∧ Instr.wf (.fullChurnUnitEnd 0 [(21120, 1)]) = false := by decide +kernel

theorem test_wf_outside : Instr.wf (.pressVerifyRead 0 [(132, true)]) = false ∧ Instr.wf (.pressVerifyRead 0 [(1, true), (1, false)]) = false ∧ Instr.wf (.pressVerifyRead 0 [(131, true)]) = true := by decide +kernel

theorem test_wf_alloc : Instr.wf (.reloadStart [2048]) = false ∧ Instr.wf (.loadPress .fw 0 0 [3, 3]) = false ∧ Instr.wf (.loadAttach .fw 0 0 [2048]) = false ∧ Instr.wf (.reloadStart [2047, 0]) = true := by decide +kernel

theorem test_wf_csi : Instr.wf (.csiLongPacket 0 0 0 (List.replicate 65536 0) true true) = false ∧ Instr.wf (.csiLongPacket 0 0 0 [1] true true) = true := by
  simp only [Instr.wf, csiOk, List.length_replicate]; decide

theorem test_wf_eth : Instr.wf (.ethFrame 0 (ethOf 65508)) = false ∧ Instr.wf (.ethFrame 0 (ethOf 65507)) = true := by
  simp only [Instr.wf, EthFrame.wf, ethOf, List.length_replicate]; decide

theorem test_wf_milking : Instr.wf (.mrUnitEnd ⟨0, [(25344, 1)]⟩) = false ∧ Instr.wf (.mrUnitEnd ⟨0, [(25343, 1)]⟩) = true ∧ Instr.wf (.mrTestComplete 0 ⟨true, [1, 1], 0⟩) = false
    ∧ Instr.wf (.mrTestComplete 0 ⟨true, [7], 0⟩) = true := by decide +kernel

theorem test_wf_chunk : Instr.wf (.chunkData 0 (chunkOf 0)) = false ∧ Instr.wf (.chunkData 0 (chunkOf 65537)) = false ∧ Instr.wf (.chunkData 0 (chunkOf 65536)) = true := by
  simp only [Instr.wf, ChunkFrame.wf, chunkOf, List.length_replicate]; decide

theorem test_wf_mirror : Instr.wf (.mirrorRecord ⟨1, .checkpoint k0 (List.replicate 897 0)⟩) = false ∧ Instr.wf (.mirrorRecord ⟨1, .checkpoint k0 (List.replicate 880 0)⟩) = false
    ∧ Instr.wf (.mirrorRecord ⟨1, .resolution 0 0 (List.replicate 31 0)⟩) = false ∧ Instr.wf (.mirrorRecord ⟨1, .checkpoint k0 (List.replicate 912 0)⟩) = true := by
  simp only [Instr.wf, MirrorRec.wf, List.length_replicate]; decide

theorem test_wf_can : Instr.wf (.canRxFrame 0 (rx 2048 false false 0 false 0)) = false ∧ Instr.wf (.canRxFrame 0 (rx 5 false true 0 false 0)) = false ∧ Instr.wf (.canRxFrame 0 (rx 5 true false 0 true 0)) = false
    ∧ Instr.wf (.canRxFrame 0 (rx 5 true false 9 false 9)) = false ∧ Instr.wf (.canRxFrame 0 (rx 5 true true 9 false 12)) = true ∧ Instr.wf (.canRxFrame 0 (rx 2047 false false 8 true 0)) = true := by decide +kernel

theorem test_wf_fuse : Instr.wf (.fuseLoadComplete [(3, 0)] none) = false ∧ Instr.wf (.fuseLoadComplete [(3, 1), (3, 2)] (some 3)) = false ∧ Instr.wf (.fuseLoadComplete [(3, 1), (3, 1)] none) = false
    ∧ Instr.wf (.fuseLoadComplete [(3, 1), (3, 2), (3, 3)] (some 3)) = true := by decide +kernel

/-- A converter with n inputs at 0 V. -/
def vN (n : Nat) : Volts := ⟨List.replicate n 0, 0⟩

theorem test_wf_msr : Instr.wf (.msrResult 0 (vN 15) false) = false ∧ Instr.wf (.msrResult 0 (vN 16) false) = true ∧ Instr.wf (.msrCalStepComplete [vN 16] false) = false
    ∧ Instr.wf (.msrCalStepComplete [vN 15] true) = false ∧ Instr.wf (.msrCalStepComplete [] true) = true ∧ Instr.wf (.msrCalStepComplete (List.replicate 16 (vN 16)) false) = true := by decide +kernel

theorem test_wf_host : Instr.wf (.hostMemoryRead 0 false 0 0) = false ∧ Instr.wf (.hostMemoryWrite 0 false 0 []) = false ∧ Instr.wf (.pcieLinkUp 0 3 1) = false ∧ Instr.wf (.pcieLinkUp 0 8 0) = false
    ∧ Instr.wf (.pcieLinkUp 0 8 4) = true ∧ Instr.wf (.hostMemoryRead 0 false 0 1) = true := by decide +kernel

/-! ## Worked examples of the spec -/

/-- spec/01, example of R14: 0x0000_0003 follows 0xFFFF_FFFE; a number does not follow itself, nor one 2^31 before. -/
theorem test_follows : follows 3 0xFFFFFFFE = true ∧ follows 0xFFFFFFFE 3 = false ∧ follows 3 3 = false ∧ follows 0x80000003 3 = false := by decide +kernel

/-- spec/02, example of R22: 1.0625 to FP8-E4M3 is 1.0 by RNE and RTZ; 1.1875 is 1.25 by RNE and 1.125 by RTZ. -/
theorem test_fp8_rounding : conv 4 false (.fin false 17 16) = (0x38, false) ∧ conv 4 true (.fin false 17 16) = (0x38, false) ∧ conv 4 false (.fin false 19 16) = (0x3A, false)
    ∧ conv 4 true (.fin false 19 16) = (0x39, false) := by decide +kernel

/-- spec/02, example of R24: the nibbles of −93 are −6 and 3. -/
theorem test_nibbles : rowCode 2 0 (-93) = -6 ∧ rowCode 2 1 (-93) = 3 ∧ phaseWeight 2 0 * (-6) + phaseWeight 2 1 * 3 = -93 := by decide +kernel

/-- spec/02, example of R28: a block of 5.3 (as BF16 5.3125) and −0.7 (as BF16 −0.69921875) has SEXP −4 and integers 85 and −11. -/
theorem test_block : (blkConv (fltOf 6) 1 false [.fin false 85 16, .fin true 179 256]).sexp = -4 ∧ (blkConv (fltOf 6) 1 false [.fin false 85 16, .fin true 179 256]).q = [85, -11] := by decide +kernel

/-- spec/02, example of R34: q = 100 of SEXP −5 under −2 becomes 12, and of SEXP −12 becomes 0. -/
theorem test_align : alignQ 100 (-5) (-2) = 12 ∧ alignQ 100 (-12) (-2) = 0 := by decide +kernel

/-- spec/03, example: the second phase of x = (−93, 40, 17) on levels 5, −3, 12: the code 3 on 16 × (−24) gives −381, and the entry is left. -/
def sPh : State := { onA { Arr.idle with st := .ready, queue := [m0], cur := some { r0 with live := true, phase := 1, inp := [-93, 40, 17], segw := [1, 1, 1, 1], raw := [(7, -384)] } } with pcm := [(0, [(7, 5), (1031, -3), (2055, 12)])] }.setReg (Reg.ARR_CFG 0) 0xF00
theorem test_phaseEnd : ((after (exec (.arrayPhaseEnd 0 []) sPh)).arr 0).queue = [] ∧ (match ((after (exec (.arrayPhaseEnd 0 []) sPh)).arr 0).held with
    | [.sum r _] => r.raw == [(7, -381)]
    | _ => false) = true := by decide +kernel

/-- spec/04, example of R79: the entry word of ROW 1, COL 3, RESID −172. -/
theorem test_skimEntry : skimEnt 0xFD500601 = ⟨1, 3, -172⟩ := by decide +kernel

/-- spec/05, example of R108: in FP32C (30,000,000, 1.0) plus 0.75 is (30,000,000, 1.75), and (1.75, 0) plus 3.0e7 is (30,000,002, −0.25). -/
theorem test_fp32c : pairAdd ⟨0x4BE4E1C0, 0x3F800000, false⟩ ⟨0x3F400000, 0, false⟩ = ⟨0x4BE4E1C0, 0x3FE00000, false⟩
    ∧ pairAdd ⟨0x3FE00000, 0, false⟩ ⟨0x4BE4E1C0, 0, false⟩ = ⟨0x4BE4E1C1, 0xBE800000, false⟩ := by decide +kernel

/-- spec/06, example: gf 1.2, of 3.5, ga 1.014592, gT 0.988142 on raw −381 gives y = −118,421 in Q.8. -/
theorem test_correction : ({ r0 with raw := [(200, -381)], cor := ⟨[(200, 0x3F99999A)], [(200, 0x40600000)], 0x3F81DE26, 0⟩, gt := 0x3F7CF6E0 } : Run).y 200 = -118421 := by decide +kernel

/-- spec/09, example: word 0x2000_6000_080A_6400 is an MVX into tile 3, d2, row s5, entry 0x100 + s6; guarded by p2 = 0 it is 0x20D0_6000_080A_6400. -/
def sEx (p : BitVec 8) : State :=
  ((upR [(entAddr 0 0x105 0, 0x00010003)]).setArr 0 { Arr.idle with st := .ready }).setCtx 0 { c0 with p := p, s := [(5, 0), (6, 5)], d := [(2, dsc 64 1 0 512 1 512)], tiles := [{ t0 with id := 3 }] }
theorem test_mvxWord : ((after (exec (.mvx k0 0x006000080A6400) (sEx 0))).arr 0).queue.map (fun m => (m.row, m.coloff, m.vidx, m.di)) = [(0, 0, 0, dsc 64 1 0 512 1 512)]
    ∧ ((after (exec (.mvx k0 0xD06000080A6400) (sEx 0))).arr 0).queue.length = 1 ∧ ((after (exec (.mvx k0 0xD06000080A6400) (sEx 4))).arr 0).queue.length = 0 := by decide +kernel

/-- spec/09, example: 0x1400_0E00_FFFF_FFF0 branches back two instructions on s7; it falls through when s7 reaches 0. -/
theorem test_loop : ((after (exec (.loop k0 0x000E00FFFFFFF0) (inCtx { c0 with pc := 64, s := [(7, 2)] }))).ctx 0).pc = 48
    ∧ ((after (exec (.loop k0 0x000E00FFFFFFF0) (inCtx { c0 with pc := 64, s := [(7, 2)] }))).ctx 0).sreg 7 = 1
    ∧ ((after (exec (.loop k0 0x000E00FFFFFFF0) (inCtx { c0 with pc := 64, s := [(7, 1)] }))).ctx 0).pc = 72 := by decide +kernel

/-- spec/09, example of R248: BUSY on a full churn of entry 0x105 writes 0x0105_0011 and adds 1 to the counter. -/
theorem test_askStatus : (up.askStatus 0 0 0x400000 4100 0x105 1 1).mem.tank.readN 0x400000 4 = 0x01050011 ∧ Tab.getD (up.askStatus 0 0 0x400000 4100 0x105 1 1).sync 4100 0 = 1 := by decide +kernel

/-- spec/10, example of R274: the CRC-32C of "123456789" is 0xE306_9283. -/
theorem test_crc : crc32c [0x31, 0x32, 0x33, 0x34, 0x35, 0x36, 0x37, 0x38, 0x39] = 0xE3069283 := by decide +kernel

/-- spec/12, example of R326: the prefix of device 37, CID 0x0102, chunk index 0x0060_0005, SEQ 0x0000_0A0B. -/
theorem test_chunkPrefix : chunkPrefix 37 0x0102 0x00600005 0x0A0B = [0x25, 0, 2, 1, 5, 0, 0x60, 0, 0x0B, 0x0A, 0, 0, 0, 0, 0, 0] := by decide +kernel

/-- spec/13, example: the bridge's 1.200 mV on entry 0 of converter 1 gives 0x5007_DD44 settled and 0x1007_DD44 unsettled. -/
def sMc1 (got : Nat) : State :=
  (upR [(Reg.MSRC_CTL 1, 1), (Reg.MSRC_ENTRY 1 0, 0x00026E32), (Reg.ACT_EN, 0x200)]).setMsc 1 { MsrConv.idle with refrdy := true, pass := true, run := some ⟨0, got, true, false, []⟩ }
def bridge : Volts := ⟨[0, 0, 1200000000] ++ List.replicate 13 0, 2500000000000⟩
theorem test_msrWord : (after (exec (.msrResult 1 bridge false) (sMc1 2))).reg (Reg.MSRC_LAST 1 0) = 0x5007DD44 ∧ (after (exec (.msrResult 1 bridge false) (sMc1 1))).reg (Reg.MSRC_LAST 1 0) = 0x1007DD44 := by decide +kernel

/-- spec/14, example of R375: code 0xA000 after 0x9FFF changes the unary part: at the tick CODE changes and the level is held, then it transfers. -/
def sAoE : State := (up.setReg (Reg.ACT_AO_CODE 7) 0x9FFF).onAct (fun a => { a with safe := false, level := [(7, 0x9FFF)], aoq := [⟨7, 0xA000, 0, false⟩] })
theorem test_deglitch : (after (exec .aoUpdateTick sAoE)).reg (Reg.ACT_AO_CODE 7) = 0xA000 ∧ Tab.getD (after (exec .aoUpdateTick sAoE)).act.level 7 0 = 0x9FFF
    ∧ Tab.getD (after (exec (.aoDeglitchTransfer 7) (after (exec .aoUpdateTick sAoE)))).act.level 7 0 = 0xA000 := by decide +kernel

/-- R233, R234: the sum wraps, s0 reads as 0 and takes no value, a shift counts modulo 64, and MULH signed and unsigned. -/
theorem test_scalar : ((after (exec (.add k0 (wA 3 1 2 0 0 0)) (inCtx { c0 with s := [(1, 0xFFFFFFFFFFFFFFFF), (2, 2)] }))).ctx 0).sreg 3 = 1
    ∧ ((after (exec (.add k0 (wA 0 1 2 0 0 0)) (inCtx { c0 with s := [(1, 5), (2, 2)] }))).ctx 0).sreg 0 = 0
    ∧ ((after (exec (.sra k0 (wA 3 1 0 1 0 65)) (inCtx { c0 with s := [(1, 0x8000000000000000)] }))).ctx 0).sreg 3 = 0xC000000000000000
    ∧ ((after (exec (.mulh k0 (wA 3 1 2 0 0 0)) (inCtx { c0 with s := [(1, 0xFFFFFFFFFFFFFFFF), (2, 2)] }))).ctx 0).sreg 3 = 0xFFFFFFFFFFFFFFFF
    ∧ ((after (exec (.mulh k0 (wA 3 1 2 0 1 0)) (inCtx { c0 with s := [(1, 0xFFFFFFFFFFFFFFFF), (2, 2)] }))).ctx 0).sreg 3 = 1 := by decide +kernel

/-- FIPS 202: SHAKE256 of no bytes begins 46 b9 dd 2b 0b a8 8d 13, and ends its first 32 bytes with 76 2f. -/
theorem test_shake : shake256 [] = 0x2f76d56e64270cb5821bb862ea52cd3f24eb3e74eb3f3b23138da80b2bddb946 := by decide +kernel

end Sys2Proof.Tests
end

section
/-!
PROOFS. What an issue does to a context that may issue: the traps of R224 and R223, and the no-operation of R222; and each Benrov
instruction is an issue of its word.
-/
namespace Sys2Proof.Machine

/-! ## Traps and the no-operation -/

/-- A trap puts its context into TRAP with its cause (R188). -/
theorem State.trap_traps (s : State) (i cause : Nat) :
    ((s.trap i cause).ctx i).st = .trap ∧ ((s.trap i cause).ctx i).cause = BitVec.ofNat 8 cause := by
  have hctx : (s.trap i cause).ctx i = { s.ctx i with st := .trap, cause := BitVec.ofNat 8 cause, hold := .free } := by
    unfold State.trap State.ctx
    rw [State.raise_ctxs]
    exact State.ctx_setCtx_self s i _
  rw [hctx]
  exact ⟨rfl, rfl⟩

/-- Moving PC on changes that context's PC and nothing else. -/
theorem State.advance_ctxTo (s : State) (i : Nat) : CtxTo (.next (s.advance i)) s i { s.ctx i with pc := (s.ctx i).pc + 8 } :=
  ⟨s.advance i, rfl, s.ctx_advance_self i, fun _ hj => s.ctx_advance_ne hj, s.setCtx_same i _⟩

/-- A guard is off exactly where G is 1 and p[GP] XOR GNEG is 0 (R222). -/
theorem guardOn_eq_false_iff (w : BitVec 56) (p : BitVec 8) : guardOn w p = false ↔ bit w 55 = true ∧ bit p (fw w 53 51) = bit w 54 := by
  simp [guardOn]

/-! ## The issue of a context that may issue -/

section
variable {s : State} {k : CtxId} {w : BitVec 56} {legal : Bool} {needs : List LoadDst} {body : State → Res}

/-- A word that cannot be fetched traps with the fetch cause, whatever it holds (R224). -/
theorem issue_of_fetchBad (hc : s.canIssue (ctxIx k) = true) (hf : s.fetchBad (ctxIx k) = true) :
    issue k w legal needs body s = .next ((s.fetchFx (ctxIx k)).trap (ctxIx k) 2) := by
  simp [issue, issueAt, hc, hf]

/-- A fetched word that is not legal traps with the illegal cause, whatever its guard (R223). -/
theorem issue_of_illegal (hc : s.canIssue (ctxIx k) = true) (hf : s.fetchBad (ctxIx k) = false) (hl : legal = false) :
    issue k w legal needs body s = .next ((s.fetchFx (ctxIx k)).trap (ctxIx k) 1) := by
  simp [issue, issueAt, hc, hf, hl]

/-- A fetched legal word whose guard is off moves PC on, whether or not its registers await a load (R222). -/
theorem issue_of_guardOff (hc : s.canIssue (ctxIx k) = true) (hf : s.fetchBad (ctxIx k) = false) (hl : legal = true)
    (hg : guardOn w (s.ctx (ctxIx k)).p = false) :
    issue k w legal needs body s = .next ((s.fetchFx (ctxIx k)).advance (ctxIx k)) := by
  simp [issue, issueAt, hc, hf, hl, hg]

end

/-! ## Every Benrov instruction is an issue -/

/-- A Benrov instruction with the bits of its row is the issue of its word, legal exactly as its table says; only the registers it reads and
its body are its own. The seven instructions that share an opcode with another row look at the bits that choose the row first (R221). -/
theorem exec_eq_issue {j : Instr} {k : CtxId} {w : BitVec 56} (hw : benrovWord j = some (k, w)) (hr : ofRow j = true) (s : State) :
    ∃ needs body, exec j s = issue k w (legalWord j) needs body s := by
  cases j <;> cases hw
  case relTake | relJoin | relDone | accDrain | accDrainPartial | accRest | accRestMerge =>
    exact ⟨_, _, if_neg (by simpa [ofRow] using hr)⟩
  all_goals exact ⟨_, _, rfl⟩

/-- Settles O58: a Benrov instruction is the issue of its word, and the issue looks at the fetch, at the word's legality and at the guard in
this order, before anything of the instruction's own. -/
theorem guardedOffInstructionsDoNothing : Obligations.GuardedOffInstructionsDoNothing := by
  intro s j k w hw hr hc
  obtain ⟨needs, body, hj⟩ := exec_eq_issue hw hr s
  refine ⟨fun hf => ?fetch, fun hf hl => ?illegal, fun hf hl hG hp => ?off⟩
  case fetch => exact ⟨_, hj.trans (issue_of_fetchBad hc hf), State.trap_traps _ _ 2⟩
  case illegal => exact ⟨_, hj.trans (issue_of_illegal hc hf hl), State.trap_traps _ _ 1⟩
  case off =>
    have hg := (guardOn_eq_false_iff w (s.ctx (ctxIx k)).p).mpr ⟨hG, hp⟩
    have h := State.advance_ctxTo (s.fetchFx (ctxIx k)) (ctxIx k)
    rw [← issue_of_guardOff hc hf hl hg, ← hj, State.fetchFx_ctx] at h
    exact h

end Sys2Proof.Machine
end

section
/-!
PROOFS. Revocation of a firmware key slot: the bits of the revocation fuses, when a REVOKE is discarded, and what it leaves (R468).
-/
namespace Sys2Proof.Machine

/-! ## The revocation fuses -/

/-- A bit of a word is the library's bit of its number. -/
theorem bit_eq_testBit {n : Nat} (w : BitVec n) (i : Nat) : bit w i = w.toNat.testBit i := by
  simp [bit, Nat.testBit_eq_decide_div_mod_eq, Nat.shiftRight_eq_div_pow, Bool.beq_eq_decide_eq]

/-- Blowing the fuse of slot k sets the bit of k and no other. -/
theorem bit_or_slot (r : BitVec 4) (k i : Fin 4) : bit (r ||| BitVec.ofNat 4 (2 ^ k.val)) i.val = (bit r i.val || decide (i = k)) := by
  have hk : bit (BitVec.ofNat 4 (2 ^ k.val)) i.val = decide (i = k) := by decide +revert
  rw [← hk]
  simp [bit_eq_testBit]

/-- All four fuses are blown exactly when every slot's bit is set. -/
theorem eq_allSlots_iff (r : BitVec 4) : r = 15#4 ↔ ∀ i : Fin 4, bit r i.val = true := by
  decide +revert

/-- Blowing the fuse of slot k would leave no slot exactly when the other three are all revoked. -/
theorem or_slot_eq_allSlots_iff (r : BitVec 4) (k : Fin 4) :
    r ||| BitVec.ofNat 4 (2 ^ k.val) = 15#4 ↔ ∀ i : Fin 4, i ≠ k → bit r i.val = true := by
  simp only [eq_allSlots_iff, bit_or_slot, Bool.or_eq_true, decide_eq_true_eq]
  exact forall_congr' fun i => or_iff_not_imp_right

/-! ## REVOKE -/

/-- REVOKE of slot k is discarded: k is the slot of the running bundle, or the other three slots are all revoked (R468). -/
def RevokeDiscarded (s : State) (k : Fin 4) : Prop :=
  (∃ b, s.sec.bundle = some b ∧ b.keySlot = k.val) ∨ ∀ i : Fin 4, i ≠ k → bit s.fus.revoked i.val = true

section
variable {s : State} {who : Who} {k : Fin 4}

/-- REVOKE raises its event where it is discarded, and otherwise blows the fuse of its slot. -/
theorem exec_revoke (hr : reaches s who Reg.SEC_KEYREV = true) [Decidable (RevokeDiscarded s k)] :
    exec (.revoke who k) s = .next (if RevokeDiscarded s k then s.raise 0x0B02 1 0x900 k.val
      else { s with fus := { s.fus with revoked := s.fus.revoked ||| BitVec.ofNat 4 (2 ^ k.val) } }) := by
  show execRevoke who k s = _
  unfold execRevoke
  rw [access_reaches _ hr]
  congr 2
  simp only [RevokeDiscarded, ← or_slot_eq_allSlots_iff, Bool.or_eq_true, beq_iff_eq]
  cases s.sec.bundle with
  | none => simp
  | some b => simp

theorem exec_revoke_of_discarded (hr : reaches s who Reg.SEC_KEYREV = true) (hd : RevokeDiscarded s k) :
    exec (.revoke who k) s = .next (s.raise 0x0B02 1 0x900 k.val) := by
  classical rw [exec_revoke hr, if_pos hd]

theorem exec_revoke_of_not_discarded (hr : reaches s who Reg.SEC_KEYREV = true) (hd : ¬RevokeDiscarded s k) :
    exec (.revoke who k) s = .next { s with fus := { s.fus with revoked := s.fus.revoked ||| BitVec.ofNat 4 (2 ^ k.val) } } := by
  classical rw [exec_revoke hr, if_neg hd]

/-- A slot that may be revoked is not the last: another one is left. -/
theorem other_slot_left (hd : ¬RevokeDiscarded s k) : ∃ i : Fin 4, i ≠ k ∧ bit s.fus.revoked i.val = false := by
  simpa using fun h => hd (.inr h)

end

/-- Raising an event raises its code last. -/
theorem State.raise_raised (s : State) (code sev src pay : Nat) : Raised code s (s.raise code sev src pay) := by
  obtain ⟨l, hlog, hl⟩ := s.raise_log code sev src pay
  exact ⟨_, l, hlog, rfl, hl⟩

/-- Settles O57: a discarded REVOKE only raises its event, so the fuses stay; one that takes effect blows the fuse of its slot alone, and by
the guard a slot other than it is left. -/
theorem revocationKeepsASlot : Obligations.RevocationKeepsASlot := by
  intro s who k hr no hno
  change no ↔ RevokeDiscarded s k at hno
  by_cases hd : RevokeDiscarded s k
  case pos =>
    refine ⟨_, exec_revoke_of_discarded hr hd, fun _ => ⟨s.raise_raised .., s.raise_same _ _ _ _⟩, fun hn => absurd (hno.mpr hd) hn, ?_⟩
    rw [State.raise_fus]
    exact id
  case neg =>
    refine ⟨_, exec_revoke_of_not_discarded hr hd, fun h => absurd (hno.mp h) hd, fun _ => ⟨bit_or_slot s.fus.revoked k, rfl⟩, fun _ => ?_⟩
    obtain ⟨i, hik, hi⟩ := other_slot_left hd
    exact ⟨i, (bit_or_slot s.fus.revoked k i).trans (by simp [hi, hik])⟩

end Sys2Proof.Machine
end

section
/-!
PROOFS. The reset state, every command's answer, one step of the queue, and 10 ns of an empty queue.
-/
set_option Elab.async false

namespace Sys2Proof.Machine

/-- Settles O60: every memory of the reset state is empty, and its fuses are the part's own with no slot revoked. -/
theorem theResetStateIsSound : Obligations.TheResetStateIsSound := by
  unfold Obligations.TheResetStateIsSound
  have hfus : FusesFrom State.reset.fus State.reset.fus :=
    ⟨rfl, rfl, rfl, rfl, Nat.le_refl _, fun _ h => h, fun _ h => h, id, id⟩
  exact ⟨hfus, ⟨0, by decide⟩, rfl, rfl, rfl, rfl, rfl, rfl⟩

/-! ## Every command answers -/

/-- A choice of two answered commands is answered. -/
theorem exists_next_ite {c : Prop} [Decidable c] {x y : Out} (hx : ∃ t, x = .next t) (hy : ∃ t, y = .next t) : ∃ t, (if c then x else y) = .next t := by
  split
  · exact hx
  · exact hy

/-- Settles O2: every meaning is a next state as it stands, and the seventeen that choose first (the seven rows that share an opcode, and the steps
that look at the start's stage, at the store or at a domain's block bit) answer one on each branch. -/
theorem everyCommandAnswers : Obligations.EveryCommandAnswers := by
  intro c s
  cases c
  case accDrain | accDrainPartial | accRest | accRestMerge | relTake | relJoin | relDone | fuseLoadComplete | pllLock | journalResolve =>
    exact exists_next_ite ⟨_, rfl⟩ ⟨_, rfl⟩
  case bundleVerify => exact exists_next_ite ⟨_, rfl⟩ (exists_next_ite ⟨_, rfl⟩ (exists_next_ite ⟨_, rfl⟩ ⟨_, rfl⟩))
  case nvsPageWriteComplete =>
    show ∃ t, execNvsPageWriteComplete s = .next t
    unfold execNvsPageWriteComplete
    dsimp only
    cases s.nvsGo.nvs.cur <;> exact ⟨_, rfl⟩
  case resetRelease =>
    show ∃ t, execResetRelease s = .next t
    unfold execResetRelease
    cases s.rst.stage <;> exact ⟨_, rfl⟩
  case rollbackAdvance =>
    show ∃ t, execRollbackAdvance s = .next t
    unfold execRollbackAdvance
    cases s.sec.bundle <;> exact ⟨_, rfl⟩
  case blockReset who d =>
    show ∃ t, execBlockReset who d s = .next t
    unfold execBlockReset
    cases blockBit (domIx d) <;> exact ⟨_, rfl⟩
  case separatorDrained d =>
    show ∃ t, execSeparatorDrained d s = .next t
    unfold execSeparatorDrained
    cases blockBit (domIx d) <;> exact ⟨_, rfl⟩
  case blockResetRelease who d =>
    show ∃ t, execBlockResetRelease who d s = .next t
    unfold execBlockResetRelease
    cases blockBit (domIx d) <;> exact ⟨_, rfl⟩
  all_goals exact ⟨_, rfl⟩

/-! ## Parts and registers that a step may change -/

/-- Steps of which each changes only some parts, one after the other. -/
theorem SameBut.then {l m : List Piece} {s t u : State} (h : SameBut l s t) (k : SameBut m t u) (hm : ∀ p ∈ m, p ∈ l := by decide) : SameBut l s u :=
  h.trans (k.mono hm)

theorem RegsBut.refl (l : List Nat) (s : State) : RegsBut l s s := fun _ _ => rfl

theorem RegsBut.trans {l : List Nat} {s t u : State} (h : RegsBut l s t) (k : RegsBut l t u) : RegsBut l s u :=
  fun a ha => (k a ha).trans (h a ha)

theorem RegsBut.mono {l m : List Nat} {s t : State} (h : RegsBut l s t) (k : ∀ a ∈ l, a ∈ m) : RegsBut m s t :=
  fun a ha => h a (fun hl => ha (k a hl))

/-- States with the same registers differ in no register. -/
theorem RegsBut.of_regs {s t : State} (h : t.regs = s.regs) (l : List Nat) : RegsBut l s t := fun a _ => by simp only [State.reg, h]

theorem State.setReg_regsBut (s : State) (a : Nat) (v : W32) : RegsBut [a] s (s.setReg a v) :=
  fun b hb => s.reg_setReg_ne v (by simpa using hb)

/-- A fold of steps that each change only some registers changes only those. -/
theorem RegsBut.foldl {l : List Nat} {α : Type} {f : State → α → State} {as : List α} (hf : ∀ t, ∀ a ∈ as, RegsBut l t (f t a)) (s : State) :
    RegsBut l s (as.foldl f s) := by
  induction as generalizing s with
  | nil => exact RegsBut.refl _ _
  | cons a r ih => exact (hf s a List.mem_cons_self).trans (ih (fun t b hb => hf t b (List.mem_cons_of_mem _ hb)) (f s a))

/-! ## The idle step -/

theorem State.incWrap_same (s : State) (a n : Nat) : SameBut [.regs] s (s.incWrap a n) := s.setReg_same _ _
theorem State.incWrap_regsBut (s : State) (a n : Nat) : RegsBut [a] s (s.incWrap a n) := s.setReg_regsBut _ _

/-- The registers that count a core's cycles. -/
def cycleRegs (c : Nat) : List Nat := [Reg.ARR_QSTALL_CNT c, Reg.SKM_WAIT_CNT c]

/-- Only lanes, and the results on their way from them, differ between two records of a core. -/
def LanesOnly (x y : CoreSt) : Prop := y = { x with lanes := y.lanes, outs := y.outs }

theorem LanesOnly.refl (x : CoreSt) : LanesOnly x x := rfl

theorem LanesOnly.trans {x y z : CoreSt} (h : LanesOnly x y) (k : LanesOnly y z) : LanesOnly x z := by
  unfold LanesOnly at *; rw [k, h]

theorem LanesOnly.drain (x : CoreSt) : LanesOnly x (drainLanes x) := rfl

/-- What 10 ns do at a core's cycle counts. -/
def countCycles (s : State) (c : Nat) : State :=
  let s1 := if queueStalled s c then s.incWrap (Reg.ARR_QSTALL_CNT c) 12 else s
  if skimWaits s1 c then s1.incWrap (Reg.SKM_WAIT_CNT c) 12 else s1

/-- 10 ns of a core are its cycle counts, and its lanes where it has some. -/
theorem tickCore_eq (s : State) (c : Nat) :
    tickCore s c = if ((countCycles s c).core c).lanes.isEmpty then countCycles s c else (countCycles s c).setCore c (drainLanes ((countCycles s c).core c)) := rfl

theorem countCycles_same (s : State) (c : Nat) : SameBut [.regs] s (countCycles s c) := by
  unfold countCycles
  extract_lets s1
  have h1 : SameBut [.regs] s s1 := by
    show SameBut _ s (if _ then _ else _)
    split
    · exact s.incWrap_same _ _
    · exact SameBut.refl _ _
  split
  · exact h1.trans (s1.incWrap_same _ _)
  · exact h1

theorem countCycles_regsBut (s : State) (c : Nat) : RegsBut (cycleRegs c) s (countCycles s c) := by
  unfold countCycles
  extract_lets s1
  have h1 : RegsBut (cycleRegs c) s s1 := by
    show RegsBut _ s (if _ then _ else _)
    split
    · exact (s.incWrap_regsBut _ _).mono (by simp [cycleRegs])
    · exact RegsBut.refl _ _
  split
  · exact h1.trans ((s1.incWrap_regsBut _ _).mono (by simp [cycleRegs]))
  · exact h1

theorem tickCore_same (s : State) (c : Nat) : SameBut [.regs, .cores] s (tickCore s c) := by
  have h := (countCycles_same s c).mono (m := [.regs, .cores]) (by simp)
  rw [tickCore_eq]
  split
  · exact h
  · exact h.trans ((State.setCore_same _ _ _).mono (by simp))

theorem tickCore_regsBut (s : State) (c : Nat) : RegsBut (cycleRegs c) s (tickCore s c) := by
  have h := countCycles_regsBut s c
  rw [tickCore_eq]
  split
  · exact h
  · exact h.trans (RegsBut.of_regs rfl _)

theorem tickCore_lanes (s : State) (c d : Nat) : LanesOnly (s.core d) ((tickCore s c).core d) := by
  have h : (countCycles s c).core = s.core := by
    have := countCycles_same s c .cores (by simp)
    funext e
    exact congrArg (Tab.getD · e .empty) this
  rw [tickCore_eq]
  split
  · rw [h]; exact LanesOnly.refl _
  · by_cases hd : d = c
    · subst hd; rw [State.core_setCore_self, h]; exact LanesOnly.drain _
    · rw [State.core_setCore_ne _ _ hd, h]; exact LanesOnly.refl _

theorem foldl_tickCore_lanes (l : List Nat) (s : State) (d : Nat) : LanesOnly (s.core d) ((l.foldl tickCore s).core d) := by
  induction l generalizing s with
  | nil => exact LanesOnly.refl _
  | cons c r ih => exact (tickCore_lanes s c d).trans (ih _)

theorem foldl_tickCore_regsBut (l : List Nat) (s : State) : RegsBut (l.flatMap cycleRegs) s (l.foldl tickCore s) :=
  RegsBut.foldl (fun t c hc => (tickCore_regsBut t c).mono fun _ ha => List.mem_flatMap.mpr ⟨c, hc, ha⟩) s

theorem foldl_tickCore_same (l : List Nat) (s : State) : SameBut [.regs, .cores] s (l.foldl tickCore s) := SameBut.foldl tickCore_same l s

/-- Settles O1: an idle step is the counts' step, and then for each core its cycle counts and its lanes. -/
theorem stepRunsTheFrontCommandOrIdles : Obligations.StepRunsTheFrontCommandOrIdles := by
  refine ⟨fun s c r h => ?front, fun s h => ⟨tick s, ?idle, ?_⟩⟩
  case front => unfold step; rw [h]
  case idle => unfold step; rw [h]
  obtain ⟨u, hu⟩ : ∃ u, u = { s with cnt := tickCounts s } := ⟨_, rfl⟩
  have ht : tick s = (List.range 32).foldl tickCore u := by rw [hu]; rfl
  have hcnt : SameBut [.cnt, .regs, .cores] s u := by rw [hu]; intro p hp; cases p <;> simp_all [Piece.same]
  have hcore : u.core = s.core := by rw [hu]; rfl
  have hregs : u.regs = s.regs := by rw [hu]
  have hcores := foldl_tickCore_same (List.range 32) u
  have hlanes := foldl_tickCore_lanes (List.range 32) u
  have hcyc := foldl_tickCore_regsBut (List.range 32) u
  rw [← ht] at hcores hlanes hcyc
  rw [hcore] at hlanes
  have heq : (tick s).cnt = tickCounts s := (hcores .cnt (by simp)).trans (by rw [hu])
  exact ⟨hcnt.trans (hcores.mono (by simp)), hlanes, (RegsBut.of_regs hregs _).trans hcyc, by rw [heq]; rfl, by rw [heq]; rfl⟩

/-! ## Sync counters -/

/-- The answer of a command that is an access, where the access reaches its register. -/
theorem next_access {s : State} {who : Who} {a : Nat} {f : State → State} (h : reaches s who a = true) :
    (.next (s.access who a f) : Out) = .next (f s) := congrArg _ (access_reaches f h)

theorem State.addSync_same (s : State) (i : Nat) (v : W32) : SameBut [.sync] s (s.addSync i v) := by
  intro p hp; cases p <;> simp_all [Piece.same]

/-- A requester may write a counter unless it is a host port and the counter lies below 1,024 (R197). -/
theorem ctrMine_eq_false_iff (who : Who) (i : Nat) : ctrMine who i = false ↔ (whoPort who).isSome ∧ i < 1024 := by
  simp [ctrMine, Option.isSome_iff_ne_none]

/-- Setting a counter reads back so, and changes no other counter. -/
theorem setSync_spec (s : State) (i : Nat) (v : W32) : let t := { s with sync := Tab.setD s.sync i 0 v };
    Tab.getD t.sync i 0 = v ∧ (∀ j, j ≠ i → Tab.getD t.sync j 0 = Tab.getD s.sync j 0) ∧ SameBut [.sync] s t :=
  ⟨Tab.getD_setD_self _ _ _ _, fun _ hj => Tab.getD_setD_ne _ _ _ _ hj, by intro p hp; cases p <;> simp_all [Piece.same]⟩

/-- Settles O18: at its two addresses a counter is set or added to, unless the write is a host's to one below 1,024. -/
theorem hostWritesOfSyncCounters : Obligations.HostWritesOfSyncCounters := by
  intro s who i v
  refine ⟨fun h => ⟨_, next_access (a := ctrAddr false i) h, ?_⟩, fun h => ⟨_, next_access (a := ctrAddr true i) h, ?_⟩⟩
  all_goals
    by_cases hm : (whoPort who).isSome ∧ i.val < 1024
    · simp only [(ctrMine_eq_false_iff who i).mpr hm, hm, and_self, if_true, Bool.false_eq_true, if_false]
      exact ⟨trivial, fun _ _ => trivial, SameBut.refl _ _⟩
    · have hc : ctrMine who i = true := by simpa [hm] using (ctrMine_eq_false_iff who i).not
      simp only [hc, hm, if_true, if_false]
      exact setSync_spec s i _

/-! ## Arrays between their states -/

/-- Only one array differs, and nothing else of the machine. -/
theorem setArr_frame (s : State) (a : Nat) (x : Arr) :
    (s.setArr a x).arr a = x ∧ (∀ b, b ≠ a → (s.setArr a x).arr b = s.arr b) ∧ SameBut [.arrs] s (s.setArr a x) :=
  ⟨s.arr_setArr_self a x, fun _ hb => s.arr_setArr_ne x hb, s.setArr_same a x⟩

/-- The last of two settings of an array stands, with the tables alone in question. -/
theorem setArr_setArr_frame (s : State) (a : Nat) (x y : Arr) :
    ((s.setArr a x).setArr a y).arr a = y ∧ (∀ b, b ≠ a → ((s.setArr a x).setArr a y).arr b = s.arr b) ∧ SameBut [.arrs] s ((s.setArr a x).setArr a y) :=
  ⟨State.arr_setArr_self _ a y, fun _ hb => (State.arr_setArr_ne _ y hb).trans (s.arr_setArr_ne x hb), (s.setArr_same a x).trans (State.setArr_same _ a y)⟩


/-- BIAS_SETTLED makes class 1 due, once, on an array that owes it. -/
theorem firstDue_setArr (s : State) (a : Nat) (x : Arr) (h : x.chn.fit = (s.arr a).chn.fit) :
    firstDue a (s.setArr a x) = if s.owes a = true ∧ ∀ d ∈ x.chn.due, d.cls ≠ 1 then (s.setArr a x).setArr a { x with chn := { x.chn with due := x.chn.due ++ [⟨1, s.cnt.aon, false⟩] } }
      else s.setArr a x := by
  have ho : (s.setArr a x).owes a = s.owes a := by
    unfold State.owes; rw [State.arr_setArr_self, h]; rfl
  unfold firstDue makeDue State.when
  rw [ho]
  simp only [State.arr_setArr_self, List.any_eq_true, beq_iff_eq]
  by_cases h1 : s.owes a = true
  · by_cases h2 : ∃ d ∈ x.chn.due, d.cls = 1
    · rw [if_pos h1, if_pos h2, if_neg (by rintro ⟨-, h3⟩; obtain ⟨d, hd, h4⟩ := h2; exact h3 d hd h4)]
    · rw [if_pos h1, if_neg h2, if_pos ⟨h1, fun d hd h4 => h2 ⟨d, hd, h4⟩⟩]; rfl
  · rw [if_neg h1, if_neg (fun h3 => h1 h3.1)]

/-- Settles O27: each of the four commands sets one array's record, BIAS_SETTLED and PARK perhaps twice, or ARR_ERR with an event. -/
theorem arrayBiasAndPark : Obligations.ArrayBiasAndPark := by
  rintro s a x rfl
  refine ⟨fun who h => ⟨fun hx => ⟨_, next_access (a := Reg.ARR_CMD a.val) h, ?up⟩, fun hx => ⟨_, next_access (a := Reg.ARR_CMD a.val) h, ?park⟩⟩,
    fun hc hx => ⟨⟨_, rfl, ?settled⟩, ⟨_, rfl, ?fail⟩⟩⟩
  case up =>
    dsimp only
    rw [if_pos hx]
    exact setArr_frame s _ _
  case park =>
    dsimp only
    rw [if_pos hx]
    unfold parkCheck
    rw [State.arr_setArr_self]
    by_cases hq : (s.arr a.val).queue = [] ∧ (s.arr a.val).cur = none ∧ (s.arr a.val).retry = none
    · rw [if_pos hq, if_pos (by simp [hx, hq])]
      exact setArr_setArr_frame s _ _ _
    · rw [if_neg hq, if_neg (by simpa [hx, and_assoc] using hq)]
      exact setArr_frame s _ _
  case settled =>
    have hw : (s.coreUp (a.val / 64) && (s.arr a.val).st == .bias) = true := by simp [hc, hx]
    dsimp only
    unfold State.when
    rw [if_pos hw, firstDue_setArr]
    swap
    · rfl
    dsimp only
    by_cases hd : s.owes a.val = true ∧ ∀ d ∈ (s.arr a.val).chn.due, d.cls ≠ 1
    · rw [if_pos hd, if_pos hd]
      simp only [hd.1]
      exact setArr_setArr_frame s _ _ _
    · rw [if_neg hd, if_neg hd]
      refine ⟨?_, (setArr_frame s _ _).2⟩
      rw [State.arr_setArr_self]
      cases s.owes a.val <;> rfl
  case fail =>
    have hw : (s.coreUp (a.val / 64) && (s.arr a.val).st == .bias) = true := by simp [hc, hx]
    unfold State.when
    rw [if_pos hw]
    obtain ⟨l, hl⟩ := State.raise_log (s.orReg (Reg.ARR_ERR a.val) 2) 0x0103 2 (a.val / 64) a.val
    refine ⟨by simp, ⟨_, l, hl.1, rfl, hl.2⟩, ?_, ?_⟩
    · exact (s.setReg_regsBut _ _).trans (RegsBut.of_regs (State.raise_regs ..) _)
    · exact ((SameBut.refl _ _).then (s.setReg_same _ _)).then (State.raise_same _ _ _ _ _)

end Sys2Proof.Machine
end

section
/-!
PROOFS. The scalar and branch instructions (R233, R234): what an issued body makes of its context, and the values of Table INS-8.
-/
set_option Elab.async false

namespace Sys2Proof.Machine

/-! ## Bodies that change their context alone -/

theorem CtxTo.refl (s : State) (i : Nat) : CtxTo (.next s) s i (s.ctx i) := ⟨s, rfl, rfl, fun _ _ => rfl, SameBut.refl _ _⟩

theorem State.setCtx_ctxTo (s : State) (i : Nat) (c : Ctx) : CtxTo (.next (s.setCtx i c)) s i c :=
  ⟨_, rfl, s.ctx_setCtx_self i c, fun _ hj => s.ctx_setCtx_ne c hj, s.setCtx_same i c⟩

theorem CtxTo.onCtx {s t : State} {i : Nat} {c : Ctx} (h : CtxTo (.next t) s i c) (f : Ctx → Ctx) : CtxTo (.next (t.onCtx i f)) s i (f c) := by
  obtain ⟨u, hu, hc, hne, hsame⟩ := h
  cases hu
  exact ⟨_, rfl, by rw [State.ctx_onCtx_self, hc], fun j hj => (t.ctx_onCtx_ne f hj).trans (hne j hj), hsame.trans (t.setCtx_same i _)⟩

section
variable {s : State} {k : CtxId} {w : BitVec 56} {legal : Bool} {needs : List LoadDst} {body : State → Res}

/-- An instruction that runs, and whose body makes a context of its own and goes on, leaves that context with PC moved on. -/
theorem issue_ok {t : State} {c : Ctx} {pc : W64} (hl : legal = true) (hr : Runs s k w needs) (hb : body (s.fetchFx (ctxIx k)) = .ok t)
    (ht : CtxTo (.next t) (s.fetchFx (ctxIx k)) (ctxIx k) c) (hpc : c.pc + 8 = pc) :
    CtxTo (issue k w legal needs body s) (s.fetchFx (ctxIx k)) (ctxIx k) { c with pc := pc } := by
  rw [issue_of_runs hl hr, hb, ← hpc]
  exact ht.onCtx (fun c => { c with pc := c.pc + 8 })

/-- The same for a body that jumps: PC is at the target. -/
theorem issue_jump {t : State} {c : Ctx} {pc : W64} (hl : legal = true) (hr : Runs s k w needs) (hb : body (s.fetchFx (ctxIx k)) = .jump t pc)
    (ht : CtxTo (.next t) (s.fetchFx (ctxIx k)) (ctxIx k) c) :
    CtxTo (issue k w legal needs body s) (s.fetchFx (ctxIx k)) (ctxIx k) { c with pc := pc } := by
  rw [issue_of_runs hl hr, hb]
  exact ht.onCtx (fun c => { c with pc := pc })

/-- The same for a body that stays at its address: its context is as it made it. -/
theorem issue_stay {t : State} {c : Ctx} (hl : legal = true) (hr : Runs s k w needs) (hb : body (s.fetchFx (ctxIx k)) = .stay t)
    (ht : CtxTo (.next t) (s.fetchFx (ctxIx k)) (ctxIx k) c) : CtxTo (issue k w legal needs body s) (s.fetchFx (ctxIx k)) (ctxIx k) c := by
  rw [issue_of_runs hl hr, hb]
  exact ht

/-- A body that changes its context by a function that keeps PC. -/
theorem issue_setCtx (f : Ctx → Ctx) (hl : legal = true) (hr : Runs s k w needs)
    (hb : ∀ u : State, body u = .ok (u.setCtx (ctxIx k) (f (u.ctx (ctxIx k))))) (hpc : ∀ c, (f c).pc = c.pc) :
    CtxTo (issue k w legal needs body s) (s.fetchFx (ctxIx k)) (ctxIx k) { f (s.ctx (ctxIx k)) with pc := (s.ctx (ctxIx k)).pc + 8 } := by
  have h := issue_ok hl hr (hb _) (State.setCtx_ctxTo _ _ _) rfl
  rw [State.fetchFx_ctx, hpc] at h
  exact h

end

@[simp] theorem Ctx.setS_pc (c : Ctx) (r : Nat) (v : W64) : (c.setS r v).pc = c.pc := by
  unfold Ctx.setS; split <;> rfl

@[simp] theorem Ctx.setP_pc (c : Ctx) (r : Nat) (v : Bool) : (c.setP r v).pc = c.pc := rfl

@[simp] theorem Ctx.setD_pc (c : Ctx) (r : Nat) (v : BitVec 256) : (c.setD r v).pc = c.pc := rfl

/-! ## Scalar results -/

/-- Format A's reserved fields: FN below its bound, and RB 0 with an immediate (R221, R233). -/
theorem legalA_of {n : Nat} {w : BitVec 56} (hfn : fFN w < n) (hrb : fI w = true → fRB w = 0) : legalA n w = true := by
  cases hi : fI w <;> simp_all [legalA]

theorem legalA0_of {w : BitVec 56} (hfn : fFN w = 0) (hrb : fI w = true → fRB w = 0) : legalA0 w = true := by
  cases hi : fI w <;> simp_all [legalA0]

/-- A scalar instruction that runs writes its function's value of both operands. -/
theorem scalarTo_of_scalarOp {j : Instr} {s : State} {k : CtxId} {w : BitVec 56} {legal : Bool} {f : W64 → W64 → W64} {v : W64}
    (hj : exec j s = scalarOp k w legal f s) (hl : legal = true) (hr : Runs s k w (needsA w)) (hv : f (opA s k w) (opb s k w) = v) :
    ScalarTo j s k (fRD w) v := by
  unfold ScalarTo
  rw [← hv, hj]
  exact issue_setCtx (fun c => c.setS (fRD w) (f (c.sreg (fRA w)) (opB c w))) hl hr (fun _ => rfl) (fun _ => Ctx.setS_pc _ _ _)

/-- The shift amount is b[5:0]. -/
theorem extractLsb_5_0 (b : W64) : (b.extractLsb 5 0).toNat = b.toNat % 64 := by
  simp [BitVec.extractLsb_toNat]

/-- The unsigned high half is that of the 128-bit product. -/
theorem mulHigh_unsigned (a b : W64) : mulHigh true a b = (a.zeroExtend 128 * b.zeroExtend 128).extractLsb' 64 64 := by
  apply BitVec.eq_of_toNat_eq
  have ha := a.isLt
  have hb := b.isLt
  have hab : a.toNat * b.toNat < 2 ^ 64 * 2 ^ 64 := Nat.mul_lt_mul'' ha hb
  have h128 : a.toNat * b.toNat % 2 ^ 128 = a.toNat * b.toNat := Nat.mod_eq_of_lt (by omega)
  simp only [mulHigh, if_true, BitVec.toNat_ofNat, BitVec.extractLsb'_toNat, BitVec.toNat_mul, BitVec.toNat_setWidth,
    Nat.mod_eq_of_lt (Nat.lt_of_lt_of_le ha (by decide : 2 ^ 64 ≤ 2 ^ 128)), Nat.mod_eq_of_lt (Nat.lt_of_lt_of_le hb (by decide : 2 ^ 64 ≤ 2 ^ 128)), h128]

/-- The signed high half is that of the 128-bit product. -/
theorem mulHigh_signed (a b : W64) : mulHigh false a b = (a.signExtend 128 * b.signExtend 128).extractLsb' 64 64 := by
  apply BitVec.eq_of_toNat_eq
  have hp : a.signExtend 128 * b.signExtend 128 = BitVec.ofInt 128 (a.toInt * b.toInt) := by
    rw [BitVec.signExtend, BitVec.signExtend, ← BitVec.ofInt_mul]
  rw [hp]
  simp only [mulHigh, Bool.false_eq_true, if_false, BitVec.extractLsb'_toNat, BitVec.toNat_ofInt, Nat.shiftRight_eq_div_pow]
  generalize a.toInt * b.toInt = p
  omega

/-- MIN and MAX choose by the order of the words' values: where both are equal, the words are too. -/
theorem min_signed (a b : W64) : (if below false b a then b else a) = if a.toInt ≤ b.toInt then a else b := by
  have hb : (below false b a = true) ↔ ¬a.toInt ≤ b.toInt := by simp [below, BitVec.slt]
  by_cases h : a.toInt ≤ b.toInt <;> simp [hb, h]

theorem max_signed (a b : W64) : (if below false a b then b else a) = if a.toInt ≤ b.toInt then b else a := by
  have hb : (below false a b = true) ↔ a.toInt < b.toInt := by simp [below, BitVec.slt]
  by_cases h : a.toInt < b.toInt
  · simp [hb, h, Int.le_of_lt h]
  · by_cases heq : a.toInt = b.toInt
    · simp [BitVec.eq_of_toInt_eq heq]
    · rw [if_neg (hb.not.mpr h), if_neg (by omega)]

theorem min_unsigned (a b : W64) : (if below true b a then b else a) = if a ≤ b then a else b := by
  have hb : (below true b a = true) ↔ ¬a ≤ b := by simp [below, BitVec.ult, BitVec.le_def]
  by_cases h : a ≤ b <;> simp [hb, h]

theorem max_unsigned (a b : W64) : (if below true a b then b else a) = if a ≤ b then b else a := by
  have hb : (below true a b = true) ↔ a < b := by simp [below, BitVec.ult, BitVec.lt_def]
  by_cases h : a < b
  · simp [hb, h, BitVec.le_of_lt h]
  · by_cases heq : a = b
    · simp [heq]
    · rw [if_neg (hb.not.mpr h), if_neg (fun hle => h ((BitVec.lt_def.mpr (Nat.lt_of_le_of_ne (BitVec.le_def.mp hle) (fun he => heq (BitVec.eq_of_toNat_eq he))))))]

/-- LI's values (Table INS-8). -/
theorem liValue_eq (w : BitVec 56) (old : W64) :
    liValue w old = if fFN w = 0 then (BitVec.ofNat 32 (fIMM w)).signExtend 64 else if fFN w = 1 then (BitVec.ofNat 32 (fIMM w)).zeroExtend 64
      else BitVec.ofNat 32 (fIMM w) ++ old.extractLsb' 0 32 := by
  have himm : fIMM w < 2 ^ 32 := Nat.mod_lt _ (by decide)
  unfold liValue
  split
  · rfl
  · split
    · apply BitVec.eq_of_toNat_eq
      simp only [BitVec.toNat_ofNat, BitVec.toNat_setWidth]
      omega
    · apply BitVec.eq_of_toNat_eq
      have hlt : old.toNat % 2 ^ 32 < 2 ^ 32 := Nat.mod_lt _ (by decide)
      rw [BitVec.toNat_append, BitVec.extractLsb'_toNat, BitVec.toNat_ofNat, BitVec.toNat_ofNat, Nat.shiftRight_zero,
        ← Nat.shiftLeft_add_eq_or_of_lt hlt, Nat.shiftLeft_eq]
      omega

/-- Settles O3: a scalar instruction writes its function's value, and each function has the value of Table INS-8. -/
theorem scalarArithmeticResults : Obligations.ScalarArithmeticResults := by
  intro s k w
  refine ⟨fun hr hrb => ⟨fun hfn => ?zero, fun hfn => ?one⟩, fun hr hra hrb hi hfn => ?li⟩
  case zero =>
    have h0 := legalA0_of hfn hrb
    have h2 : legalA 2 w = true := legalA_of (by omega) hrb
    have hu : (fFN w == 1) = false := by simp [hfn]
    have hto {j : Instr} {f : W64 → W64 → W64} {v : W64} (hj : exec j s = scalarOp k w (legalA0 w) f s) (hv : f (opA s k w) (opb s k w) = v) :
        ScalarTo j s k (fRD w) v := scalarTo_of_scalarOp hj h0 hr hv
    refine ⟨hto rfl rfl, hto rfl rfl, hto rfl rfl, hto rfl rfl, hto rfl rfl, hto rfl rfl,
      hto (f := fun a b => a <<< (b.toNat % 64)) rfl ?shl, hto (f := fun a b => a >>> (b.toNat % 64)) rfl ?shr,
      hto (f := fun a b => a.sshiftRight (b.toNat % 64)) rfl ?sra, scalarTo_of_scalarOp (f := mulHigh (fFN w == 1)) rfl h2 hr ?mulh,
      scalarTo_of_scalarOp (f := fun a b => if below (fFN w == 1) b a then b else a) rfl h2 hr ?min,
      scalarTo_of_scalarOp (f := fun a b => if below (fFN w == 1) a b then b else a) rfl h2 hr ?max⟩
    case shl | shr | sra => rw [extractLsb_5_0]
    case mulh => rw [hu, mulHigh_signed]
    case min => rw [hu, min_signed]
    case max => rw [hu, max_signed]
  case one =>
    have h2 : legalA 2 w = true := legalA_of (by omega) hrb
    have hu : (fFN w == 1) = true := by simp [hfn]
    refine ⟨scalarTo_of_scalarOp (f := mulHigh (fFN w == 1)) rfl h2 hr ?mulhu,
      scalarTo_of_scalarOp (f := fun a b => if below (fFN w == 1) b a then b else a) rfl h2 hr ?minu,
      scalarTo_of_scalarOp (f := fun a b => if below (fFN w == 1) a b then b else a) rfl h2 hr ?maxu⟩
    case mulhu => rw [hu, mulHigh_unsigned]
    case minu => rw [hu, min_unsigned]
    case maxu => rw [hu, max_unsigned]
  case li =>
    have hl : (decide (fFN w < 3) && fRA w == 0 && fRB w == 0 && !fI w) = true := by simp [hra, hrb, hi, hfn]
    rw [← liValue_eq]
    exact issue_setCtx (fun c => c.setS (fRD w) (liValue w (c.sreg (fRD w)))) hl hr (fun _ => rfl) (fun _ => Ctx.setS_pc _ _ _)

/-! ## Predicate results -/

theorem predTo_cmp {s : State} {k : CtxId} {w : BitVec 56} {v : Bool} (hr : Runs s k w (needsA w)) (hrb : fI w = true → fRB w = 0) (hrd : fRD w < 8)
    (hv : cmpCond (fFN w) (opA s k w) (opb s k w) = v) : PredTo (.cmp k w) s k (fRD w) v := by
  have hl : (decide (fRD w < 8) && (!fI w || fRB w == 0)) = true := by cases hi : fI w <;> simp_all
  rw [← hv]
  exact issue_setCtx (fun c => c.setP (fRD w) (cmpCond (fFN w) (c.sreg (fRA w)) (opB c w))) hl hr (fun _ => rfl) (fun _ => rfl)

theorem predTo_plog {s : State} {k : CtxId} {w : BitVec 56} {v : Bool} (hr : Runs s k w [])
    (hl : (decide (fRD w < 8) && decide (fRA w < 8) && decide (fRB w < 8) && !fI w && fIMM w == 0) = true)
    (hv : plogFn (fFN w) ((s.ctx (ctxIx k)).preg (fRA w)) ((s.ctx (ctxIx k)).preg (fRB w)) = v) : PredTo (.plog k w) s k (fRD w) v := by
  rw [← hv]
  exact issue_setCtx (fun c => c.setP (fRD w) (plogFn (fFN w) (c.preg (fRA w)) (c.preg (fRB w)))) hl hr (fun _ => rfl) (fun _ => rfl)

/-- Settles O4: both instructions write their function's outcome, which is that of Table INS-8 for each FN. -/
theorem predicateResults : Obligations.PredicateResults := by
  intro s k w
  refine ⟨fun hr hrb hrd => ?cmp, fun hr hrd hra hrb hi himm => ?plog⟩
  case cmp =>
    refine ⟨fun h => ?eq, fun h => ?ne, fun h => ?slt, fun h => ?sge, fun h => ?ult, fun h => ?uge, fun h => ?tst, fun h => ?tz⟩
    all_goals refine predTo_cmp hr hrb hrd ?_; rw [h]
    case sge => simp [cmpCond, BitVec.slt, ← decide_not]
    case uge => simp [cmpCond, BitVec.ult, BitVec.le_def, ← decide_not]
    case eq | ne | slt | ult | tst | tz => simp [cmpCond, BitVec.slt, BitVec.ult, BitVec.lt_def, bne, Bool.beq_eq_decide_eq]
  case plog =>
    have hl : (decide (fRD w < 8) && decide (fRA w < 8) && decide (fRB w < 8) && !fI w && fIMM w == 0) = true := by simp [*]
    refine ⟨fun h => ?_, fun h => ?_, fun h => ?_, fun h => ?_, fun h => ?_, fun h => ?_, fun h => ?_, fun h => ?_⟩
    all_goals refine predTo_plog hr hl ?_; rw [h]
    all_goals cases (s.ctx (ctxIx k)).preg (fRA w) <;> cases (s.ctx (ctxIx k)).preg (fRB w) <;> rfl

/-! ## Branches -/

/-- A branch to a target that is a multiple of 8 below the end of the tank jumps (R234). -/
theorem branch_eq_jump (s : State) {t : W64} (h8 : t.toNat % 8 = 0) (hlt : t.toNat < 2 ^ 27) : branch s t = .jump s t := by
  unfold branch
  rw [if_neg (by omega)]

theorem legalBr_of {w : BitVec 56} (h1 : fw w 40 32 = 0) (h2 : fIMM w % 8 = 0) : legalBr w = true := by simp [legalBr, h1, h2]

/-- The link register is written in the context alone. -/
theorem linkTo_ctxTo (i : Nat) (w : BitVec 56) (s : State) : CtxTo (.next (linkTo i w s)) s i ((s.ctx i).setS (fRD w) ((s.ctx i).pc + 8)) :=
  State.setCtx_ctxTo _ _ _

/-- Settles O5: each branch is a jump to its target, with its link or counter written before. -/
theorem branchResults : Obligations.BranchResults := by
  intro s k w h1 h2
  have hbr := legalBr_of h1 h2
  unfold GoesTo opA
  refine ⟨fun hr hrd hra h8 hlt => ?b, fun hr h8 hlt => ⟨?jr, ?callr⟩, fun hr hra h8 hlt => ?call, fun hr hrd => ⟨fun h => ?last, fun h h8 hlt => ?again⟩⟩
  all_goals rw [← State.fetchFx_ctx s (ctxIx k) (ctxIx k)] at *
  case b => exact issue_jump (by simp [hbr, hrd, hra]) hr (branch_eq_jump _ h8 hlt) (CtxTo.refl _ _)
  case jr => exact issue_jump hbr hr (branch_eq_jump _ h8 hlt) (CtxTo.refl _ _)
  case callr => exact issue_jump hbr hr (branch_eq_jump _ h8 hlt) (linkTo_ctxTo _ w _)
  case call => exact issue_jump (by simp [hbr, hra]) hr (branch_eq_jump _ h8 hlt) (linkTo_ctxTo _ w _)
  case last =>
    have hz : ((s.fetchFx (ctxIx k)).ctx (ctxIx k)).sreg (fRA w) - 1 = 0 := by rw [h]; rfl
    have hl : (legalBr w && fRD w == 0) = true := by simp [hbr, hrd]
    exact issue_ok hl hr (if_pos hz) (by rw [hz]; exact State.setCtx_ctxTo _ _ _) (by rw [Ctx.setS_pc])
  case again =>
    have hz : ((s.fetchFx (ctxIx k)).ctx (ctxIx k)).sreg (fRA w) - 1 ≠ 0 := fun hz => h (sub_eq_zero.mp hz)
    exact issue_jump (by simp [hbr, hrd]) hr ((if_neg hz).trans (branch_eq_jump _ h8 hlt)) (State.setCtx_ctxTo _ _ _)

end Sys2Proof.Machine
end

section
/-!
PROOFS. Frames: which parts of the state the gate's, the ports' and the mirror's shared operations reach.
-/
set_option Elab.async false

namespace Sys2Proof.Machine

/-! ## One part replaced -/

theorem State.setStrm_same (s : State) (st : Nat) (x : Strm) : SameBut [.strms] s (s.setStrm st x) := by
  intro p hp; cases p <;> first | rfl | exact absurd hp (by decide)

theorem State.withLink_same (s : State) (x : LinkSt) : SameBut [.link] s { s with link := x } := by
  intro p hp; cases p <;> first | rfl | exact absurd hp (by decide)

theorem State.withPair_same (s : State) (x : PairSt) : SameBut [.pair] s { s with pair := x } := by
  intro p hp; cases p <;> first | rfl | exact absurd hp (by decide)

theorem State.withEv_same (s : State) (x : EvSt) : SameBut [.ev] s { s with ev := x } := by
  intro p hp; cases p <;> first | rfl | exact absurd hp (by decide)

theorem State.incReg_same (s : State) (a n : Nat) : SameBut [.regs] s (s.incReg a n) := s.setReg_same _ _

theorem State.msix_same (s : State) (p v : Nat) : SameBut [.ev] s (s.msix p v) := by
  intro q hq; cases q <;> first | exact absurd hq (by decide) | simp [Piece.same]

theorem sameBut_ite {l : List Piece} {s t u : State} {c : Prop} [Decidable c] (ht : SameBut l s t) (hu : SameBut l s u) : SameBut l s (if c then t else u) := by
  split
  · exact ht
  · exact hu

/-! ## Ports and the mirror -/

theorem State.emit_same (s : State) (p : Nat) (w : Wire) : SameBut [.link] s (s.emit p w) := s.withLink_same _

theorem State.setPort_same (s : State) (p : Nat) (x : LinkPort) : SameBut [.link] s (s.setPort p x) := s.withLink_same _

theorem State.portSend_same (s : State) (p : Nat) (w : Wire) : SameBut [.link] s (s.portSend p w) :=
  sameBut_ite ((s.setPort_same _ _).trans (State.emit_same _ _ _)) (SameBut.refl _ _)

theorem State.toPeer_same (s : State) (m : PairMsg) : SameBut [.link] s (s.toPeer m) := s.portSend_same _ _

theorem State.mirrorSend_same (s : State) (b : MirrorBody) : SameBut [.pair, .link] s (s.mirrorSend b) :=
  sameBut_ite (((SameBut.refl _ _).then (s.withPair_same _)).then (State.toPeer_same _ _)) (SameBut.refl _ _)

/-! ## The gate -/

theorem State.streamVec_same (s : State) (st : Nat) : SameBut [.ev] s (s.streamVec st) :=
  SameBut.foldl (fun t _ => sameBut_ite (t.msix_same _ _) (SameBut.refl _ _)) _ _

theorem State.tankPut_same (s : State) (a : Nat) (bs : List Byte) (port : Nat) : SameBut accessParts s (s.tankPut a bs port) := s.writeFx_same _ _ _ _

/-- The parts that the resolution of numbers and the writing of their records reach. -/
abbrev gateParts : List Piece := accessParts ++ [.strms, .link, .pair]

theorem writeOut_same (st : Nat) (l : List OutRec) (s : State) : SameBut gateParts s (writeOut st l s) := by
  induction l generalizing s with
  | nil => exact (s.setStrm_same _ _).mono (by decide)
  | cons r rest ih =>
    refine sameBut_ite ((s.setStrm_same _ _).mono (by decide)) ?_
    exact ((((SameBut.refl _ _).then (s.tankPut_same _ _ _)).then (State.streamVec_same _ _))).trans (ih _)

theorem flushSeqs_same (st : Nat) (l : List SeqSt) (s : State) : SameBut gateParts s (flushSeqs st l s) := by
  induction l generalizing s with
  | nil => exact (s.setStrm_same _ _).mono (by decide)
  | cons r rest ih =>
    unfold flushSeqs
    split
    · exact (s.setStrm_same _ _).mono (by decide)
    · extract_lets entry s0 s1 o x s2
      have h0 : SameBut gateParts s s0 := sameBut_ite ((s.readFx_same _ _ _ _ _).mono (by decide)) (SameBut.refl _ _)
      have h2 : SameBut gateParts s s2 := (h0.then (State.mirrorSend_same _ _)).then (State.setStrm_same _ _ _)
      refine SameBut.trans ?_ (ih _)
      exact sameBut_ite (h2.then (State.incReg_same _ _ _)) (h2.then (State.incWrap_same _ _ _))

theorem State.flush_same (s : State) (st : Nat) : SameBut gateParts s (s.flush st) :=
  (flushSeqs_same _ _ _).trans (writeOut_same _ _ _)

theorem State.mapSeq_same (s : State) (st : Nat) (n : W32) (f : SeqSt → SeqSt) : SameBut [.strms] s (s.mapSeq st n f) := s.setStrm_same _ _

theorem State.markPoison_same (s : State) (st : Nat) (n : W32) : SameBut gateParts s (s.markPoison st n) :=
  ((SameBut.refl _ _).then (s.mapSeq_same _ _ _)).trans (State.flush_same _ _)

theorem State.closeNum_same (s : State) (st : Nat) (n : W32) (cause : Nat) : SameBut gateParts s (s.closeNum st n cause) :=
  ((SameBut.refl _ _).then (s.mapSeq_same _ _ _)).trans (State.flush_same _ _)

/-- Contexts are the same where their part is. -/
theorem SameBut.ctx {l : List Piece} {s t : State} (h : SameBut l s t) (hl : .ctxs ∉ l := by decide) (i : Nat) : t.ctx i = s.ctx i :=
  congrArg (Tab.getD · i Ctx.idle) (h .ctxs hl)

theorem SameBut.arr {l : List Piece} {s t : State} (h : SameBut l s t) (hl : .arrs ∉ l := by decide) (a : Nat) : t.arr a = s.arr a :=
  congrArg (Tab.getD · a Arr.idle) (h .arrs hl)

theorem SameBut.core {l : List Piece} {s t : State} (h : SameBut l s t) (hl : .cores ∉ l := by decide) (c : Nat) : t.core c = s.core c :=
  congrArg (Tab.getD · c CoreSt.empty) (h .cores hl)

theorem SameBut.reg {l : List Piece} {s t : State} (h : SameBut l s t) (hl : .regs ∉ l := by decide) (a : Nat) : t.reg a = s.reg a :=
  congrArg (Tab.getD · a (regReset a)) (h .regs hl)

theorem SameBut.strm {l : List Piece} {s t : State} (h : SameBut l s t) (hl : .strms ∉ l := by decide) (st : Nat) : t.strm st = s.strm st :=
  congrArg (Tab.getD · st Strm.empty) (h .strms hl)

/-! ## Poison -/

/-- A context's poison flag is set, and its other fields are as they were (R201). -/
theorem State.poison_ctx (s : State) (i j : Nat) : (s.poison i).ctx j = (s.onCtx i (fun c => { c with poison := true })).ctx j := by
  unfold State.poison
  split
  · rfl
  · exact (State.markPoison_same _ _ _).ctx (by decide) j

theorem State.poison_same (s : State) (i : Nat) : SameBut (gateParts ++ [.ctxs]) s (s.poison i) := by
  have h : SameBut (gateParts ++ [.ctxs]) s (s.onCtx i (fun c => { c with poison := true })) := (s.setCtx_same _ _).mono (by decide)
  unfold State.poison
  split
  · exact h
  · exact h.then (State.markPoison_same _ _ _)

end Sys2Proof.Machine
end

section
/-!
PROOFS. Loads, stores and DBASE (R226, R239, Table INS-12): what is issued, what arrives, and which bytes a store writes.
-/
set_option Elab.async false

namespace Sys2Proof.Machine

/-! ## Loads -/

/-- Format M's reserved fields (R221). -/
theorem legalM_of {w : BitVec 56} (hsp : fMSP w ≠ 3) (hsz : fMSZ w ≠ 7) (hres : fw w 35 32 = 0) : legalM w = true := by
  simp [legalM, hsp, hsz, hres]

theorem legalMd_of {w : BitVec 56} (hsp : fMSP w ≠ 3) (hsz : fMSZ w = 0) (hres : fw w 35 32 = 0) (hrd : fRD w < 16) : legalMd w = true := by
  simp [legalMd, legalM, hsp, hsz, hres, hrd]

/-- A load whose access is allowed is added to those of its context. -/
theorem loadIssue_ok {s : State} {i : Nat} {dst : LoadDst} {w : BitVec 56} {n : Nat} (h : memOk s (i / 4) (fMSP w) (memAddr (s.ctx i) w) n = true) :
    loadIssue i dst w n s = .ok (s.setCtx i { (s.ctx i).dropLoads dst with loads := ((s.ctx i).dropLoads dst).loads ++
      [⟨if dst = .scalar 0 then none else some dst, memRng (i / 4) (fMSP w) (memAddr (s.ctx i) w) n, fMSZ w,
        (s.ctx i).writers (memRng (i / 4) (fMSP w) (memAddr (s.ctx i) w) n)⟩] }) := by
  unfold loadIssue
  simp only [h, Bool.not_true, Bool.false_eq_true, if_false]

/-! ## DBASE -/

theorem bits_low {n : Nat} (d : BitVec n) (hi : Nat) : bits d hi 0 = d.toNat % 2 ^ (hi + 1) := by simp [bits]

/-- A number put over the low 48 bits of a word is those bits, and keeps the others. -/
theorem putLow48 (d : BitVec 256) (v : Nat) :
    (BitVec.ofNat 256 (d.toNat - d.toNat % 2 ^ 48 + v % 2 ^ 48)).extractLsb' 48 208 = d.extractLsb' 48 208
      ∧ (BitVec.ofNat 256 (d.toNat - d.toNat % 2 ^ 48 + v % 2 ^ 48)).extractLsb' 0 48 = BitVec.ofNat 48 v := by
  have hd := d.isLt
  have hn : (BitVec.ofNat 256 (d.toNat - d.toNat % 2 ^ 48 + v % 2 ^ 48)).toNat = d.toNat / 2 ^ 48 * 2 ^ 48 + v % 2 ^ 48 := by
    rw [BitVec.toNat_ofNat, Nat.mod_eq_of_lt] <;> omega
  constructor
  all_goals
    apply BitVec.eq_of_toNat_eq
    simp only [BitVec.extractLsb'_toNat, hn, Nat.shiftRight_eq_div_pow, BitVec.toNat_ofNat]
    omega

/-- Settles O6: a load joins its context's loads, and DBASE's word keeps all but its low 48 bits. -/
theorem loadsAreIssued : Obligations.LoadsAreIssued := by
  intro s k w
  refine ⟨fun hr hsp hres => ⟨fun hsz hok => ?ld, fun hsz hrd hok => ?dld⟩, fun hr hrb hrd hfn => ?dbase⟩
  case ld =>
    unfold GoesTo
    rw [← State.fetchFx_ctx s (ctxIx k) (ctxIx k)] at hok ⊢
    have h := issue_ok (pc := ((s.fetchFx (ctxIx k)).ctx (ctxIx k)).pc + 8) (legalM_of hsp hsz hres) hr (loadIssue_ok (dst := .scalar (fRD w)) hok) (State.setCtx_ctxTo _ _ _) rfl
    simp only [LoadDst.scalar.injEq] at h
    exact h
  case dld =>
    unfold GoesTo
    rw [← State.fetchFx_ctx s (ctxIx k) (ctxIx k)] at hok ⊢
    have h := issue_ok (pc := ((s.fetchFx (ctxIx k)).ctx (ctxIx k)).pc + 8) (legalMd_of hsp hsz hres hrd) hr (loadIssue_ok (dst := .desc (fRD w)) hok) (State.setCtx_ctxTo _ _ _) rfl
    simp only [reduceCtorEq, if_false, hsz] at h
    exact h
  case dbase =>
    have hl : (legalA 2 w && decide (fRD w < 16)) = true := by simp [legalA_of hfn hrb, hrd]
    have h := issue_setCtx (fun c => c.setD (fRD w) (BitVec.ofNat 256 ((c.dreg (fRD w)).toNat - bits (c.dreg (fRD w)) 47 0 +
      ((c.sreg (fRA w)).toNat + (opB c w).toNat + (if fFN w = 1 then bits (c.dreg (fRD w)) 47 0 else 0)) % 2 ^ 48))) hl hr (fun _ => rfl) (fun _ => rfl)
    obtain ⟨hhi, hlo⟩ := putLow48 ((s.ctx (ctxIx k)).dreg (fRD w))
      ((opA s k w).toNat + (opb s k w).toNat + (if fFN w = 1 then ((s.ctx (ctxIx k)).dreg (fRD w)).toNat % 2 ^ 48 else 0))
    simp only [bits_low] at h
    refine ⟨_, h, hhi, hlo.trans ?_⟩
    apply BitVec.eq_of_toNat_eq
    by_cases h1 : fFN w = 1
    · simp only [h1, if_true, BitVec.toNat_ofNat, BitVec.toNat_add, BitVec.truncate_eq_setWidth, BitVec.toNat_setWidth, BitVec.extractLsb'_toNat, Nat.shiftRight_zero]
      omega
    · simp only [h1, if_false, add_zero, BitVec.toNat_ofNat, BitVec.toNat_add, BitVec.truncate_eq_setWidth, BitVec.toNat_setWidth]
      omega

/-! ## Reads and writes that meet no ECC condition -/

/-- Correcting a space in which the condition meets no correctable group changes nothing. -/
theorem State.correct_eq_self {s : State} {sp : Nat} {hit : Nat × Bool → Bool} (h : ∀ e ∈ (s.memOf sp).ecc, e.2 = false → hit e = false) :
    s.correct sp hit = s := by
  have hg : corrGroups (s.memOf sp) hit = [] := by
    have h0 : (s.memOf sp).ecc.filter (fun e => !e.2 && hit e) = [] := by
      simpa [List.filter_eq_nil_iff] using h
    simp [corrGroups, h0]
  have hm : s.setMem sp (s.memOf sp) = s := by
    unfold State.setMem State.memOf
    split
    · rfl
    · split <;> rfl
  simp [State.correct, hg, hm, State.eccCount]

/-- A read of a range without any condition changes nothing. -/
theorem State.readFx_eq_self {s : State} {sp a n port kind : Nat} (h : ∀ e ∈ (s.memOf sp).ecc, overlap (8 * e.1) 8 a n = false) :
    s.readFx sp a n port kind = s := by
  have h0 : (s.memOf sp).ecc.filter (fun e => e.2 && overlap (8 * e.1) 8 a n) = [] := by
    simpa [List.filter_eq_nil_iff] using fun x hx => h (x, true) hx
  unfold State.readFx
  simp only [h0, List.foldl_nil]
  exact State.correct_eq_self fun e he _ => h e he

theorem State.bad_eq_false {s : State} {sp a n : Nat} (h : ∀ e ∈ (s.memOf sp).ecc, overlap (8 * e.1) 8 a n = false) : s.bad sp a n = false := by
  simpa [State.bad, Mem.unc] using fun x hx => h (x, true) hx

/-! ## LOAD_DATA_RETURN -/

/-- The list without its j-th element. -/
theorem takeAt_of_getElem? {α : Type} {l : List α} {j : Nat} {x : α} (h : l[j]? = some x) : takeAt l j = some (x, l.eraseIdx j) := by
  obtain ⟨hj, rfl⟩ := List.getElem?_eq_some_iff.mp h
  rw [takeAt, List.drop_eq_getElem_cons hj, List.eraseIdx_eq_take_drop_succ]

/-- Sign extension of the low bits of a number is that of its two's complement value. -/
theorem ofInt_sint (m v : Nat) (hm : 0 < m) : BitVec.ofInt 64 (sint m v) = (BitVec.ofNat m v).signExtend 64 := by
  rw [BitVec.signExtend, BitVec.toInt_eq_toNat_cond, BitVec.toNat_ofNat]
  unfold sint
  have h2 : 2 ^ m = 2 * 2 ^ (m - 1) := by rw [← Nat.pow_succ', Nat.succ_eq_add_one, Nat.sub_add_cancel hm]
  congr 1
  by_cases h : 2 ^ (m - 1) ≤ v % 2 ^ m
  · rw [if_pos h, if_neg (by omega)]
  · rw [if_neg h, if_pos (by omega)]

/-- The value of a loaded scalar, by SIZE. -/
theorem loadVal_eq (z n : Nat) : loadVal z n = if z = 1 then (BitVec.ofNat 8 n).signExtend 64 else if z = 3 then (BitVec.ofNat 16 n).signExtend 64
    else if z = 5 then (BitVec.ofNat 32 n).signExtend 64 else BitVec.ofNat 64 n := by
  simp only [loadVal, ofInt_sint _ _ (show 0 < 8 by decide), ofInt_sint _ _ (show 0 < 16 by decide), ofInt_sint _ _ (show 0 < 32 by decide)]

/-- Settles O7: the returned load leaves the list and its value stands in its register; a read of good bytes changes nothing else. -/
theorem loadDataArrives : Obligations.LoadDataArrives := by
  intro s k j l hj hup hafter hsp hecc
  have hex : exec (.loadDataReturn k j) s = .next (loadReturn (ctxIx k) l ((s.ctx (ctxIx k)).loads.eraseIdx j) s) := by
    show execLoadDataReturn k j s = _
    unfold execLoadDataReturn
    simp only [takeAt_of_getElem? hj, hafter, hup, List.isEmpty_nil, Bool.and_self, if_true]
  rw [hex]
  unfold loadReturn
  simp only [hsp, Bool.not_true, Bool.false_eq_true, if_false, State.bad_eq_false hecc, State.readFx_eq_self hecc, State.poisonIf, loadVal_eq]
  exact State.setCtx_ctxTo _ _ _

/-! ## Stores -/

@[simp] theorem leBytes_length (n v : Nat) : (leBytes n v).length = n := by
  induction n generalizing v with
  | zero => rfl
  | succ n ih => simp [leBytes, ih]

/-- Byte q of a number's little-endian bytes. -/
theorem leBytes_getD {n q : Nat} (v : Nat) (h : q < n) : (leBytes n v).getD q 0 = BitVec.ofNat 8 (v / 256 ^ q) := by
  induction n generalizing v q with
  | zero => omega
  | succ n ih =>
    cases q with
    | zero => simp [leBytes]
    | succ q =>
      rw [leBytes, List.getD_cons_succ, ih _ (by omega), Nat.div_div_eq_div_mul, ← Nat.pow_succ']

/-- A write that covers no uncorrectable group in part leaves its bytes in the range. -/
theorem State.writeFx_byte_in {s : State} {sp a k : Nat} {bs : List Byte} {port : Nat} (hp : s.partBadAt sp a bs.length = false) (hk : k < bs.length) :
    ((s.writeFx sp a bs port).memOf sp).byte (a + k) = bs.getD k 0 := by
  have hnil : partBad (s.memOf sp) a bs.length = [] := by simpa [State.partBadAt] using hp
  rw [State.writeFx_byte, hnil, if_pos ⟨⟨by omega, by omega⟩, rfl⟩, Nat.add_sub_cancel_left]

theorem State.writeFx_byte_out {s : State} {sp a k : Nat} {bs : List Byte} {port : Nat} (hk : ¬(a ≤ k ∧ k < a + bs.length)) :
    ((s.writeFx sp a bs port).memOf sp).byte k = (s.memOf sp).byte k := by
  rw [State.writeFx_byte, if_neg (fun h => hk h.1)]

/-- Replacing the memory of a space changes one of the three spaces. -/
theorem State.setMem_spaces (s : State) (sp : Nat) (m : Mem) : SameBut [.tank, .cbuf, .dram] s (s.setMem sp m) := by
  have h0 : SameBut [.tank, .cbuf, .dram] s { s with mem := { s.mem with tank := m } } := by
    intro p hp; cases p <;> first | rfl | exact absurd hp (by decide)
  have h1 : SameBut [.tank, .cbuf, .dram] s { s with mem := { s.mem with cbuf := m } } := by
    intro p hp; cases p <;> first | rfl | exact absurd hp (by decide)
  have h2 : SameBut [.tank, .cbuf, .dram] s { s with mem := { s.mem with dram := m } } := by
    intro p hp; cases p <;> first | rfl | exact absurd hp (by decide)
  unfold State.setMem
  split
  · exact h0
  · split
    · exact h1
    · exact h2

/-- A write that covers no group in part changes the bytes and conditions of its space alone. -/
theorem State.writeFx_same_of_whole {s : State} {sp a : Nat} {bs : List Byte} {port : Nat}
    (h : ∀ e ∈ (s.memOf sp).ecc, partOf a bs.length e.1 = false) : SameBut [.tank, .cbuf, .dram] s (s.writeFx sp a bs port) := by
  have hnil : partBad (s.memOf sp) a bs.length = [] := by
    simpa [partBad, List.filter_eq_nil_iff] using fun x hx => h (x, true) hx
  unfold State.writeFx
  dsimp only
  rw [State.correct_eq_self (fun e he _ => h e he)]
  simp only [hnil, List.foldl_nil]
  exact s.setMem_spaces _ _

section
variable {s : State} {k : CtxId} {w : BitVec 56} {n : Nat} {bs : Ctx → List Byte} {needs : List LoadDst} {legal : Bool}

/-- What a store is whose access is allowed and that no earlier access holds back. -/
theorem storeIssue_ok {i : Nat} (hok : memOk s (i / 4) (fMSP w) (memAddr (s.ctx i) w) n = true)
    (ht : (s.ctx i).touches (memRng (i / 4) (fMSP w) (memAddr (s.ctx i) w) n) = false) :
    storeIssue i w n bs s = .ok ((s.writeFx (fMSP w) (spAddr (i / 4) (fMSP w) (memAddr (s.ctx i) w)) (bs (s.ctx i)) (i / 4)).poisonIf i
      (s.partBadAt (fMSP w) (spAddr (i / 4) (fMSP w) (memAddr (s.ctx i) w)) n)) := by
  unfold storeIssue
  simp only [hok, ht, Bool.not_true, Bool.false_eq_true, if_false]
  rfl

/-- Memories are the same where their parts are. -/
theorem State.advance_memOf (s : State) (i sp : Nat) : (s.advance i).memOf sp = s.memOf sp := rfl

/-- What a store that completes does: it poisons its context where it covers an uncorrectable group in part, and else writes its bytes. -/
theorem store_spec {u : State} {i sp lo v : Nat} (hsp : sp < 3) :
    (u.partBadAt sp lo n = true → ((((u.writeFx sp lo (leBytes n v) (i / 4)).poisonIf i (u.partBadAt sp lo n)).advance i).ctx i).poison = true)
    ∧ (u.partBadAt sp lo n = false → ∀ t, t = ((u.writeFx sp lo (leBytes n v) (i / 4)).poisonIf i (u.partBadAt sp lo n)).advance i →
      (∀ q < n, (t.memOf sp).byte (lo + q) = BitVec.ofNat 8 (v / 256 ^ q))
      ∧ (∀ b, ¬(lo ≤ b ∧ b < lo + n) → (t.memOf sp).byte b = (u.memOf sp).byte b)
      ∧ (∀ q < 3, q ≠ sp → ∀ b, (t.memOf q).byte b = (u.memOf q).byte b)
      ∧ t.ctx i = { u.ctx i with pc := (u.ctx i).pc + 8 } ∧ (∀ q, q ≠ i → t.ctx q = u.ctx q)
      ∧ SameBut (evParts ++ [.regs, .ctxs, .tank, .cbuf, .dram]) u t
      ∧ ((∀ e ∈ (u.memOf sp).ecc, partOf lo n e.1 = false) → SameBut [.ctxs, .tank, .cbuf, .dram] u t)) := by
  constructor
  · intro hb
    rw [hb, State.ctx_advance_self]
    show ((State.poison _ i).ctx i).poison = true
    rw [State.poison_ctx, State.ctx_onCtx_self]
  · rintro hb t rfl
    rw [hb]
    show _ ∧ _
    have hw := u.writeFx_same sp lo (leBytes n v) (i / 4)
    simp only [State.poisonIf, Bool.false_eq_true, if_false, State.advance_memOf]
    refine ⟨fun q hq => ?_, fun b hb' => ?_, fun q hq hne b => ?_, ?_, fun q hq => ?_, ?_, fun he => ?_⟩
    · rw [State.writeFx_byte_in (by simpa using hb) (by simpa using hq), leBytes_getD _ hq]
    · rw [State.writeFx_byte_out (by simpa using hb')]
    · rw [State.writeFx_memOf_ne _ _ _ _ (by simp only [sameSpace, Bool.or_eq_false_iff, beq_eq_false_iff_ne, Bool.and_eq_false_iff, decide_eq_false_iff_not]; omega)]
    · rw [State.ctx_advance_self, hw.ctx]
    · rw [State.ctx_advance_ne _ hq, hw.ctx]
    · exact ((SameBut.refl _ _).then hw).then (State.setCtx_same _ _ _)
    · exact ((SameBut.refl _ _).then (State.writeFx_same_of_whole (by simpa using he))).then (State.setCtx_same _ _ _)

end

/-- Settles O8: both stores are one write of their register's low bytes, which leaves its range with these bytes and the rest as it was. -/
theorem storesWriteOnlyTheirBytes : Obligations.StoresWriteOnlyTheirBytes := by
  rintro s k w n a lo j v hsp hres hj rfl rfl hok ht
  have hlt : fMSP w < 3 := by
    have : fMSP w < 4 := Nat.mod_lt _ (by decide)
    omega
  have hspec := store_spec (n := n) (v := v) (u := s.fetchFx (ctxIx k)) (i := ctxIx k) (lo := spAddr (ctxIx k / 4) (fMSP w) (memAddr (s.ctx (ctxIx k)) w)) hlt
  simp only [State.fetchFx_ctx] at hspec
  rw [← State.fetchFx_ctx s (ctxIx k) (ctxIx k)] at hok ht
  have hex : exec j s = .next (((((s.fetchFx (ctxIx k)).writeFx (fMSP w) (spAddr (ctxIx k / 4) (fMSP w) (memAddr (s.ctx (ctxIx k)) w)) (leBytes n v) (ctxIx k / 4)).poisonIf
      (ctxIx k) ((s.fetchFx (ctxIx k)).partBadAt (fMSP w) (spAddr (ctxIx k / 4) (fMSP w) (memAddr (s.ctx (ctxIx k)) w)) n))).advance (ctxIx k)) := by
    rcases hj with ⟨rfl, hsz, rfl, rfl, hr⟩ | ⟨rfl, hsz, hrd, rfl, rfl, hr⟩
    · refine (issue_of_runs (legalM_of hsp hsz hres) hr).trans ?_
      rw [storeIssue_ok hok ht, State.fetchFx_ctx]
      rfl
    · refine (issue_of_runs (legalMd_of hsp hsz hres hrd) hr).trans ?_
      rw [storeIssue_ok hok ht, State.fetchFx_ctx]
      rfl
  exact ⟨_, hex, hspec.1, fun hb => hspec.2 hb _ rfl⟩

end Sys2Proof.Machine
end

section
/-!
PROOFS. What every command keeps (`Sound`): the meanings, on the operations of which Laws/Sound*.lean say what they keep.
-/
set_option linter.unusedTactic false
set_option linter.unreachableTactic false

set_option Elab.async false

namespace Sys2Proof.Machine

/-- An issue keeps what the fetch and the instruction's body keep. -/
theorem issue_sound {f0 : Fuses} {k : CtxId} {w : BitVec 56} {legal : Bool} {needs : List LoadDst} {body : State → Res} {s : State} (hs : Sound f0 s)
    (hbody : ∀ t, Sound f0 t → (body t).sound f0) : OutSound f0 (issue k w legal needs body s) :=
  next_sound (sound_ite hs (issueAt_sound _ _ _ _ _ _ hbody (State.fetchFx_sound _ hs)))

theorem outSound_ite {f0 : Fuses} {c : Prop} [Decidable c] {x y : Out} (hx : OutSound f0 x) (hy : OutSound f0 y) :
    OutSound f0 (if c then x else y) := by
  split
  · exact hx
  · exact hy

/-! ## The meanings of several operations -/

theorem execLoop_sound {f0 : Fuses} {s : State} (k : CtxId) (w : BitVec 56) (hs : Sound f0 s) :
    OutSound f0 (execLoop k w s) := by
  unfold execLoop
  dsimp only
  repeat' first
    | with_reducible assumption | trivial | with_reducible apply State.setCtx_sound | with_reducible apply branch_sound
    | with_reducible apply issue_sound | with_reducible apply Res.sound_ok | with_reducible apply Res.sound_stay
    | with_reducible apply Res.sound_ite | with_reducible apply next_sound | with_reducible apply sound_ite | intro _ _ | split
    | with_reducible apply sound_mk | with_reducible refine Sound.parts ?_

theorem execAccClose_sound {f0 : Fuses} {s : State} (k : CtxId) (w : BitVec 56) (hs : Sound f0 s) :
    OutSound f0 (execAccClose k w s) := by
  unfold execAccClose
  dsimp only
  repeat' first
    | with_reducible assumption | trivial | with_reducible apply State.onCtx_sound | with_reducible apply State.trap_sound
    | with_reducible apply issue_sound | with_reducible apply Res.sound_ok | with_reducible apply Res.sound_stay
    | with_reducible apply Res.sound_ite | with_reducible apply next_sound | with_reducible apply sound_ite | intro _ _ | split
    | with_reducible apply sound_mk | with_reducible refine Sound.parts ?_

theorem execAccSave_sound {f0 : Fuses} {s : State} (k : CtxId) (w : BitVec 56) (hs : Sound f0 s) :
    OutSound f0 (execAccSave k w s) := by
  unfold execAccSave
  dsimp only
  repeat' first
    | with_reducible assumption | trivial | with_reducible apply State.setCtx_sound | with_reducible apply State.trap_sound
    | with_reducible apply issue_sound | with_reducible apply Res.sound_ok | with_reducible apply Res.sound_stay
    | with_reducible apply Res.sound_ite | with_reducible apply next_sound | with_reducible apply sound_ite | intro _ _ | split
    | with_reducible apply sound_mk | with_reducible refine Sound.parts ?_

theorem execSig_sound {f0 : Fuses} {s : State} (k : CtxId) (w : BitVec 56) (hs : Sound f0 s) :
    OutSound f0 (execSig k w s) := by
  unfold execSig
  dsimp only
  repeat' first
    | with_reducible assumption | trivial | with_reducible apply State.sigNow_sound | with_reducible apply State.trap_sound
    | with_reducible apply issue_sound | with_reducible apply Res.sound_ok | with_reducible apply Res.sound_stay
    | with_reducible apply Res.sound_ite | with_reducible apply next_sound | with_reducible apply sound_ite | intro _ _ | split
    | with_reducible apply sound_mk | with_reducible refine Sound.parts ?_

theorem execWait_sound {f0 : Fuses} {s : State} (k : CtxId) (w : BitVec 56) (hs : Sound f0 s) :
    OutSound f0 (execWait k w s) := by
  unfold execWait
  dsimp only
  repeat' first
    | with_reducible assumption | trivial | with_reducible apply State.setCtx_sound | with_reducible apply State.trap_sound
    | with_reducible apply waitEnd_sound | with_reducible apply issue_sound | with_reducible apply Res.sound_ok
    | with_reducible apply Res.sound_stay | with_reducible apply Res.sound_ite | with_reducible apply next_sound | with_reducible apply sound_ite
    | intro _ _ | split | with_reducible apply sound_mk | with_reducible refine Sound.parts ?_

theorem execRelTake_sound {f0 : Fuses} {s : State} (k : CtxId) (w : BitVec 56) (hs : Sound f0 s) :
    OutSound f0 (execRelTake k w s) := by
  unfold execRelTake
  dsimp only
  repeat' first
    | with_reducible assumption | trivial | with_reducible apply State.setCtx_sound | with_reducible apply State.trap_sound
    | with_reducible apply takeDone_sound | with_reducible apply issue_sound | with_reducible apply Res.sound_ok
    | with_reducible apply Res.sound_stay | with_reducible apply Res.sound_ite | with_reducible apply outSound_ite | with_reducible apply next_sound
    | with_reducible apply sound_ite | intro _ _ | split | with_reducible apply sound_mk | with_reducible refine Sound.parts ?_

theorem execRelJoin_sound {f0 : Fuses} {s : State} (k : CtxId) (w : BitVec 56) (hs : Sound f0 s) :
    OutSound f0 (execRelJoin k w s) := by
  unfold execRelJoin
  dsimp only
  repeat' first
    | with_reducible assumption | trivial | with_reducible apply State.setCtx_sound | with_reducible apply State.trap_sound
    | with_reducible apply joinDone_sound | with_reducible apply issue_sound | with_reducible apply Res.sound_ok
    | with_reducible apply Res.sound_stay | with_reducible apply Res.sound_ite | with_reducible apply outSound_ite | with_reducible apply next_sound
    | with_reducible apply sound_ite | intro _ _ | split | with_reducible apply sound_mk | with_reducible refine Sound.parts ?_

theorem execRelDone_sound {f0 : Fuses} {s : State} (k : CtxId) (w : BitVec 56) (hs : Sound f0 s) :
    OutSound f0 (execRelDone k w s) := by
  unfold execRelDone
  dsimp only
  repeat' first
    | with_reducible assumption | trivial | with_reducible apply State.trap_sound | with_reducible apply doneTry_sound
    | with_reducible apply issue_sound | with_reducible apply Res.sound_ok | with_reducible apply Res.sound_stay
    | with_reducible apply Res.sound_ite | with_reducible apply outSound_ite | with_reducible apply next_sound | with_reducible apply sound_ite
    | intro _ _ | split | with_reducible apply sound_mk | with_reducible refine Sound.parts ?_

theorem execCantx_sound {f0 : Fuses} {s : State} (k : CtxId) (w : BitVec 56) (hs : Sound f0 s) :
    OutSound f0 (execCantx k w s) := by
  unfold execCantx
  dsimp only
  refine issue_sound hs fun t ht => ?_
  have hr : ∀ r : Rng, Sound f0 (canBegin (fw w 50 49) (t.readFx r.sp r.lo 80 (ctxIx k / 4) 0)) := fun r => canBegin_sound _ (State.readFx_sound _ _ _ _ _ ht)
  split
  · trivial
  · split
    · trivial
    · split
      · trivial
      · split
        · exact Res.sound_stay (State.trap_sound _ _ (sound_ite (State.readFx_sound _ _ _ _ _ ht) ht))
        · split
          · exact Res.sound_ok (State.onCtx_sound _ _ (hr _))
          · split
            · trivial
            · exact Res.sound_ok (State.onCtx_sound _ _ (State.setCan_sound _ _ (hr _)))

theorem execCanrx_sound {f0 : Fuses} {s : State} (k : CtxId) (w : BitVec 56) (hs : Sound f0 s) :
    OutSound f0 (execCanrx k w s) := by
  unfold execCanrx
  dsimp only
  repeat' first
    | with_reducible assumption | trivial | with_reducible apply State.writeFx_sound | with_reducible apply State.onCtx_sound
    | with_reducible apply State.trap_sound | with_reducible apply State.setCan_sound | with_reducible apply issue_sound
    | with_reducible apply Res.sound_ok | with_reducible apply Res.sound_stay | with_reducible apply Res.sound_ite | with_reducible apply next_sound
    | with_reducible apply sound_ite | intro _ _ | split | with_reducible apply sound_mk | with_reducible refine Sound.parts ?_

theorem execAow_sound {f0 : Fuses} {s : State} (k : CtxId) (w : BitVec 56) (hs : Sound f0 s) :
    OutSound f0 (execAow k w s) := by
  unfold execAow
  dsimp only
  repeat' first
    | with_reducible assumption | trivial | with_reducible apply State.trap_sound | with_reducible apply State.onAct_sound
    | with_reducible apply issue_sound | with_reducible apply Res.sound_ok | with_reducible apply Res.sound_stay
    | with_reducible apply Res.sound_ite | with_reducible apply next_sound | with_reducible apply sound_ite | intro _ _ | split
    | with_reducible apply sound_mk | with_reducible refine Sound.parts ?_

theorem execPwmw_sound {f0 : Fuses} {s : State} (k : CtxId) (w : BitVec 56) (hs : Sound f0 s) :
    OutSound f0 (execPwmw k w s) := by
  unfold execPwmw
  dsimp only
  repeat' first
    | with_reducible assumption | trivial | with_reducible apply State.setFld_sound | with_reducible apply State.trap_sound
    | with_reducible apply State.onAct_sound | with_reducible apply issue_sound | with_reducible apply Res.sound_ok
    | with_reducible apply Res.sound_stay | with_reducible apply Res.sound_ite | with_reducible apply next_sound | with_reducible apply sound_ite
    | intro _ _ | split | with_reducible apply sound_mk | with_reducible refine Sound.parts ?_

theorem execMrd_sound {f0 : Fuses} {s : State} (k : CtxId) (w : BitVec 56) (hs : Sound f0 s) :
    OutSound f0 (execMrd k w s) := by
  unfold execMrd
  dsimp only
  repeat' first
    | with_reducible assumption | trivial | with_reducible apply State.onCtx_sound | with_reducible apply State.trap_sound
    | with_reducible apply issue_sound | with_reducible apply Res.sound_ok | with_reducible apply Res.sound_stay
    | with_reducible apply Res.sound_ite | with_reducible apply next_sound | with_reducible apply sound_ite | intro _ _ | split
    | with_reducible apply sound_mk | with_reducible refine Sound.parts ?_

theorem execFence_sound {f0 : Fuses} {s : State} (k : CtxId) (w : BitVec 56) (hs : Sound f0 s) :
    OutSound f0 (execFence k w s) := by
  unfold execFence
  dsimp only
  repeat' first
    | with_reducible assumption | trivial | with_reducible apply State.setCtx_sound | with_reducible apply issue_sound
    | with_reducible apply Res.sound_ok | with_reducible apply Res.sound_stay | with_reducible apply Res.sound_ite | with_reducible apply next_sound
    | with_reducible apply sound_ite | intro _ _ | split | with_reducible apply sound_mk | with_reducible refine Sound.parts ?_

theorem execChurnReq_sound {f0 : Fuses} {s : State} (k : CtxId) (w : BitVec 56) (hs : Sound f0 s) :
    OutSound f0 (execChurnReq k w s) := by
  unfold execChurnReq
  dsimp only
  repeat' first
    | with_reducible assumption | trivial | with_reducible apply State.trap_sound | with_reducible apply reportAsk_sound
    | with_reducible apply askChurn_sound | with_reducible apply issue_sound | with_reducible apply Res.sound_ok
    | with_reducible apply Res.sound_stay | with_reducible apply Res.sound_ite | with_reducible apply next_sound | with_reducible apply sound_ite
    | intro _ _ | split | with_reducible apply sound_mk | with_reducible refine Sound.parts ?_

theorem execTestReq_sound {f0 : Fuses} {s : State} (k : CtxId) (w : BitVec 56) (hs : Sound f0 s) :
    OutSound f0 (execTestReq k w s) := by
  unfold execTestReq
  dsimp only
  repeat' first
    | with_reducible assumption | trivial | with_reducible apply State.trap_sound | with_reducible apply reportTest_sound
    | with_reducible apply askTest_sound | with_reducible apply issue_sound | with_reducible apply Res.sound_ok
    | with_reducible apply Res.sound_stay | with_reducible apply Res.sound_ite | with_reducible apply next_sound | with_reducible apply sound_ite
    | intro _ _ | split | with_reducible apply sound_mk | with_reducible refine Sound.parts ?_

theorem execYield_sound {f0 : Fuses} {s : State} (k : CtxId) (w : BitVec 56) (hs : Sound f0 s) :
    OutSound f0 (execYield k w s) := by
  unfold execYield
  repeat' first
    | with_reducible assumption | trivial | with_reducible apply State.onCtx_sound | with_reducible apply issue_sound
    | with_reducible apply Res.sound_ok | with_reducible apply Res.sound_stay | with_reducible apply Res.sound_ite | with_reducible apply next_sound
    | with_reducible apply sound_ite | intro _ _ | split | with_reducible apply sound_mk | with_reducible refine Sound.parts ?_

theorem execHalt_sound {f0 : Fuses} {s : State} (k : CtxId) (w : BitVec 56) (hs : Sound f0 s) :
    OutSound f0 (execHalt k w s) := by
  unfold execHalt
  repeat' first
    | with_reducible assumption | trivial | with_reducible apply State.onCtx_sound | with_reducible apply issue_sound
    | with_reducible apply Res.sound_ok | with_reducible apply Res.sound_stay | with_reducible apply Res.sound_ite | with_reducible apply next_sound
    | with_reducible apply sound_ite | intro _ _ | split | with_reducible apply sound_mk | with_reducible refine Sound.parts ?_

theorem execTrap_sound {f0 : Fuses} {s : State} (k : CtxId) (w : BitVec 56) (hs : Sound f0 s) :
    OutSound f0 (execTrap k w s) := by
  unfold execTrap
  repeat' first
    | with_reducible assumption | trivial | with_reducible apply State.trap_sound | with_reducible apply issue_sound
    | with_reducible apply Res.sound_ok | with_reducible apply Res.sound_stay | with_reducible apply Res.sound_ite | with_reducible apply next_sound
    | with_reducible apply sound_ite | intro _ _ | split | with_reducible apply sound_mk | with_reducible refine Sound.parts ?_

theorem execLoadDataReturn_sound {f0 : Fuses} {s : State} (k : CtxId) (j : Nat) (hs : Sound f0 s) :
    OutSound f0 (execLoadDataReturn k j s) := by
  unfold execLoadDataReturn
  dsimp only
  repeat' first
    | with_reducible assumption | with_reducible apply loadReturn_sound | with_reducible apply next_sound | with_reducible apply sound_ite
    | intro _ _ | split | with_reducible apply sound_mk | with_reducible refine Sound.parts ?_

theorem execYieldExpiry_sound {f0 : Fuses} {s : State} (k : CtxId) (hs : Sound f0 s) :
    OutSound f0 (execYieldExpiry k s) := by
  unfold execYieldExpiry
  repeat' first
    | with_reducible assumption | with_reducible apply State.onCtx_sound | with_reducible apply next_sound | with_reducible apply sound_ite
    | intro _ _ | split | with_reducible apply sound_mk | with_reducible refine Sound.parts ?_

theorem execStallRelease_sound {f0 : Fuses} {s : State} (k : CtxId) (hs : Sound f0 s) :
    OutSound f0 (execStallRelease k s) := by
  unfold execStallRelease
  dsimp only
  repeat' first
    | with_reducible assumption | with_reducible apply State.onCtx_sound | with_reducible apply settle_sound | with_reducible apply openBody_sound
    | with_reducible apply mvxBody_sound | with_reducible apply next_sound | with_reducible apply sound_ite | intro _ _ | split
    | with_reducible apply sound_mk | with_reducible refine Sound.parts ?_

theorem execArrayPhaseEnd_sound {f0 : Fuses} {s : State} (a : ArrId) (noise : List (Nat × Int)) (hs : Sound f0 s) :
    OutSound f0 (execArrayPhaseEnd a noise s) := by
  unfold execArrayPhaseEnd
  dsimp only
  repeat' first
    | with_reducible assumption | with_reducible apply State.when_sound | with_reducible apply State.setArr_sound
    | with_reducible apply parkCheck_sound | with_reducible apply freeGo_sound | with_reducible apply phaseEnd_sound
    | with_reducible apply next_sound | with_reducible apply sound_ite | intro _ _ | split | with_reducible apply sound_mk
    | with_reducible refine Sound.parts ?_

theorem execAdderTreeSum_sound {f0 : Fuses} {s : State} (a : ArrId) (hs : Sound f0 s) :
    OutSound f0 (execAdderTreeSum a s) :=
  next_sound (State.when_sound _ hs hs)

theorem execSkimLaneGrant_sound {f0 : Fuses} {s : State} (c : CoreId) (hs : Sound f0 s) :
    OutSound f0 (execSkimLaneGrant c s) := by
  unfold execSkimLaneGrant
  dsimp only
  repeat' first
    | with_reducible assumption | with_reducible apply State.setCore_sound | with_reducible apply State.mapRun_sound
    | with_reducible apply laneTake_sound | with_reducible apply skmLane_sound | with_reducible apply next_sound | with_reducible apply sound_ite
    | intro _ _ | split | with_reducible apply sound_mk | with_reducible refine Sound.parts ?_

theorem execSkimResultReady_sound {f0 : Fuses} {s : State} (c : CoreId) (lane : Checked (Fin 16) Bool) (hs : Sound f0 s) :
    OutSound f0 (execSkimResultReady c lane s) := by
  unfold execSkimResultReady
  dsimp only
  repeat' first
    | with_reducible assumption | with_reducible apply State.setCore_sound | with_reducible apply skimResult_sound | with_reducible apply next_sound
    | with_reducible apply sound_ite | intro _ _ | split | with_reducible apply sound_mk | with_reducible refine Sound.parts ?_

theorem execArrayStageCombine_sound {f0 : Fuses} {s : State} (a : ArrId) (residue : StageResidues) (hs : Sound f0 s) :
    OutSound f0 (execArrayStageCombine a residue s) := by
  unfold execArrayStageCombine
  dsimp only
  repeat' first
    | with_reducible assumption | with_reducible apply State.when_sound | with_reducible apply State.setArr_sound
    | with_reducible apply State.residue_sound | with_reducible apply failRun_sound | with_reducible apply combine_sound
    | with_reducible apply next_sound | with_reducible apply sound_ite | intro _ _ | split | with_reducible apply sound_mk
    | with_reducible refine Sound.parts ?_

theorem execAccCloseComplete_sound {f0 : Fuses} {s : State} (k : CtxId) (tile : Fin 64) (hs : Sound f0 s) :
    OutSound f0 (execAccCloseComplete k tile s) := by
  unfold execAccCloseComplete
  dsimp only
  repeat' first
    | with_reducible assumption | with_reducible apply State.onCtx_sound | with_reducible apply State.incomplete_sound
    | with_reducible apply next_sound | with_reducible apply sound_ite | intro _ _ | split | with_reducible apply sound_mk
    | with_reducible refine Sound.parts ?_

theorem execAccDrainComplete_sound {f0 : Fuses} {s : State} (k : CtxId) (tile : Checked (Fin 64) (List Nat)) (hs : Sound f0 s) :
    OutSound f0 (execAccDrainComplete k tile s) := by
  unfold execAccDrainComplete
  dsimp only
  repeat' first
    | with_reducible assumption | with_reducible apply State.incWrap_sound | with_reducible apply State.when_sound
    | with_reducible apply State.endWork_sound | with_reducible apply State.freeTile_sound | with_reducible apply drainOut_sound
    | with_reducible apply drainPartial_sound | with_reducible apply next_sound | with_reducible apply sound_ite | intro _ _ | split
    | with_reducible apply sound_mk | with_reducible refine Sound.parts ?_

theorem execAccSaveComplete_sound {f0 : Fuses} {s : State} (k : CtxId) (hs : Sound f0 s) :
    OutSound f0 (execAccSaveComplete k s) := by
  unfold execAccSaveComplete
  dsimp only
  repeat' first
    | with_reducible assumption | with_reducible apply State.onCtx_sound | with_reducible apply saveTiles_sound | with_reducible apply next_sound
    | with_reducible apply sound_ite | intro _ _ | split | with_reducible apply sound_mk | with_reducible refine Sound.parts ?_

theorem execArrCfgWrite_sound {f0 : Fuses} {s : State} (who : Who) (a : ArrId) (v : W32) (hs : Sound f0 s) :
    OutSound f0 (execArrCfgWrite who a v s) := by
  unfold execArrCfgWrite
  dsimp only
  repeat' first
    | with_reducible assumption | with_reducible apply State.orReg_sound | with_reducible apply State.raise_sound
    | with_reducible apply State.access_sound | with_reducible apply State.putMasked_sound | with_reducible apply next_sound
    | with_reducible apply sound_ite | intro _ _ | split | with_reducible apply sound_mk | with_reducible refine Sound.parts ?_

theorem execArrClrCnt_sound {f0 : Fuses} {s : State} (who : Who) (a : ArrId) (hs : Sound f0 s) :
    OutSound f0 (execArrClrCnt who a s) :=
  next_sound (State.access_sound _ _ _ hs fun _ hu => hu)

theorem execArrChkClr_sound {f0 : Fuses} {s : State} (who : Who) (c : CoreId) (v : W32) (hs : Sound f0 s) :
    OutSound f0 (execArrChkClr who c v s) := by
  unfold execArrChkClr
  dsimp only
  repeat' first
    | with_reducible assumption | with_reducible apply State.access_sound | with_reducible apply State.putMasked_sound
    | with_reducible apply clearCoreChecks_sound | with_reducible apply next_sound | with_reducible apply sound_ite | intro _ _ | split
    | with_reducible apply sound_mk | with_reducible refine Sound.parts ?_

theorem execSkmConfigWrite_sound {f0 : Fuses} {s : State} (who : Who) (c : CoreId) (reg : Fin 3) (v : W32) (hs : Sound f0 s) :
    OutSound f0 (execSkmConfigWrite who c reg v s) := by
  unfold execSkmConfigWrite
  dsimp only
  repeat' first
    | with_reducible assumption | with_reducible apply State.orReg_sound | with_reducible apply State.raise_sound
    | with_reducible apply State.access_sound | with_reducible apply State.putMasked_sound | with_reducible apply skmClear_sound
    | with_reducible apply next_sound | with_reducible apply sound_ite | intro _ _ | split | with_reducible apply sound_mk
    | with_reducible refine Sound.parts ?_

theorem execSkmClrCnt_sound {f0 : Fuses} {s : State} (who : Who) (c : CoreId) (hs : Sound f0 s) :
    OutSound f0 (execSkmClrCnt who c s) := by
  unfold execSkmClrCnt
  repeat' first
    | with_reducible assumption | with_reducible apply State.access_sound | with_reducible apply skmClear_sound | with_reducible apply next_sound
    | with_reducible apply sound_ite | intro _ _ | split | with_reducible apply sound_mk | with_reducible refine Sound.parts ?_

theorem execAccPartWrite_sound {f0 : Fuses} {s : State} (who : Who) (c : CoreId) (v : W32) (hs : Sound f0 s) :
    OutSound f0 (execAccPartWrite who c v s) := by
  unfold execAccPartWrite
  dsimp only
  repeat' first
    | with_reducible assumption | with_reducible apply State.setReg_sound | with_reducible apply State.orReg_sound
    | with_reducible apply State.raise_sound | with_reducible apply State.access_sound | with_reducible apply next_sound
    | with_reducible apply sound_ite | intro _ _ | split | with_reducible apply sound_mk | with_reducible refine Sound.parts ?_

theorem execAccClrCnt_sound {f0 : Fuses} {s : State} (who : Who) (c : CoreId) (hs : Sound f0 s) :
    OutSound f0 (execAccClrCnt who c s) := by
  unfold execAccClrCnt
  repeat' first
    | with_reducible assumption | with_reducible apply State.setReg_sound | with_reducible apply State.rearm_sound
    | with_reducible apply State.access_sound | with_reducible apply next_sound | with_reducible apply sound_ite | intro _ _ | split
    | with_reducible apply sound_mk | with_reducible refine Sound.parts ?_

theorem execTempSample_sound {f0 : Fuses} {s : State} (c : CoreId) (t : Option (BitVec 16)) (hs : Sound f0 s) :
    OutSound f0 (execTempSample c t s) := by
  unfold execTempSample
  dsimp only
  repeat' first
    | with_reducible assumption | with_reducible apply State.setReg_sound | with_reducible apply State.orReg_sound
    | with_reducible apply State.raise_sound | with_reducible apply State.when_sound | with_reducible apply makeDue_sound
    | with_reducible apply next_sound | with_reducible apply sound_ite | with_reducible apply sound_foldl | intro _ _ _ | intro _ _ | split
    | with_reducible apply sound_mk | with_reducible refine Sound.parts ?_

theorem execLightChurnProbesEnd_sound {f0 : Fuses} {s : State} (a : ArrId) (noise : List (Nat × Int)) (hs : Sound f0 s) :
    OutSound f0 (execLightChurnProbesEnd a noise s) := by
  unfold execLightChurnProbesEnd
  dsimp only
  repeat' first
    | with_reducible assumption | with_reducible apply State.when_sound | with_reducible apply State.setArr_sound
    | with_reducible apply lightPair_sound | with_reducible apply freeGo_sound | with_reducible apply releaseArr_sound
    | with_reducible apply next_sound | with_reducible apply sound_ite | intro _ _ | split | with_reducible apply sound_mk
    | with_reducible refine Sound.parts ?_

theorem execLightChurnUpdate_sound {f0 : Fuses} {s : State} (a : ArrId) (hs : Sound f0 s) :
    OutSound f0 (execLightChurnUpdate a s) := by
  unfold execLightChurnUpdate
  dsimp only
  repeat' first
    | with_reducible assumption | with_reducible apply State.incWrap_sound | with_reducible apply State.raise_sound
    | with_reducible apply State.when_sound | with_reducible apply State.setArr_sound | with_reducible apply makeDue_sound
    | with_reducible apply askEnd_sound | with_reducible apply freeGo_sound | with_reducible apply next_sound | with_reducible apply sound_ite
    | intro _ _ | split | with_reducible apply sound_mk | with_reducible refine Sound.parts ?_

theorem execFullChurnUnitEnd_sound {f0 : Fuses} {s : State} (a : ArrId) (noise : List (Nat × Int)) (hs : Sound f0 s) :
    OutSound f0 (execFullChurnUnitEnd a noise s) := by
  unfold execFullChurnUnitEnd
  dsimp only
  repeat' first
    | with_reducible assumption | with_reducible apply State.when_sound | with_reducible apply State.setArr_sound
    | with_reducible apply countClamps_sound | with_reducible apply lightPair_sound | with_reducible apply freeGo_sound
    | with_reducible apply releaseArr_sound | with_reducible apply restartChurn_sound | with_reducible apply nextUnit_sound
    | with_reducible apply next_sound | with_reducible apply sound_ite | with_reducible apply sound_foldl | intro _ _ _ | intro _ _ | split
    | with_reducible apply sound_mk | with_reducible refine Sound.parts ?_

theorem execFullChurnFit_sound {f0 : Fuses} {s : State} (a : ArrId) (readable : Bool) (sigma : W32) (hs : Sound f0 s) :
    OutSound f0 (execFullChurnFit a readable sigma s) := by
  unfold execFullChurnFit
  repeat' first
    | with_reducible assumption | with_reducible apply State.when_sound | with_reducible apply abandon_sound | with_reducible apply freeGo_sound
    | with_reducible apply completeFull_sound | with_reducible apply next_sound | with_reducible apply sound_ite | intro _ _ | split
    | with_reducible apply sound_mk | with_reducible refine Sound.parts ?_

theorem execFullChurnRestart_sound {f0 : Fuses} {s : State} (a : ArrId) (hs : Sound f0 s) :
    OutSound f0 (execFullChurnRestart a s) := by
  unfold execFullChurnRestart
  repeat' first
    | with_reducible assumption | with_reducible apply State.when_sound | with_reducible apply restartChurn_sound | with_reducible apply next_sound
    | with_reducible apply sound_ite | intro _ _ | split | with_reducible apply sound_mk | with_reducible refine Sound.parts ?_

theorem execChurnLate_sound {f0 : Fuses} {s : State} (a : ArrId) (cls : Fin 7) (hs : Sound f0 s) :
    OutSound f0 (execChurnLate a cls s) := by
  unfold execChurnLate
  dsimp only
  repeat' first
    | with_reducible assumption | with_reducible apply State.incReg_sound | with_reducible apply State.raise_sound
    | with_reducible apply State.when_sound | with_reducible apply State.setArr_sound | with_reducible apply next_sound
    | with_reducible apply sound_ite | intro _ _ | split | with_reducible apply sound_mk | with_reducible refine Sound.parts ?_

theorem execChurnRequestDeadline_sound {f0 : Fuses} {s : State} (c : CoreId) (i : Nat) (hs : Sound f0 s) :
    OutSound f0 (execChurnRequestDeadline c i s) := by
  unfold execChurnRequestDeadline
  dsimp only
  repeat' first
    | with_reducible assumption | with_reducible apply State.incReg_sound | with_reducible apply State.raise_sound
    | with_reducible apply State.when_sound | with_reducible apply State.onAsks_sound | with_reducible apply reportAsk_sound
    | with_reducible apply next_sound | with_reducible apply sound_ite | intro _ _ | split | with_reducible apply sound_mk
    | with_reducible refine Sound.parts ?_

theorem execChurnRequestComplete_sound {f0 : Fuses} {s : State} (c : CoreId) (i : Nat) (hs : Sound f0 s) :
    OutSound f0 (execChurnRequestComplete c i s) := by
  unfold execChurnRequestComplete
  repeat' first
    | with_reducible assumption | with_reducible apply State.when_sound | with_reducible apply State.onAsks_sound
    | with_reducible apply reportAsk_sound | with_reducible apply next_sound | with_reducible apply sound_ite | intro _ _ | split
    | with_reducible apply sound_mk | with_reducible refine Sound.parts ?_

theorem execChnClrCnt_sound {f0 : Fuses} {s : State} (who : Who) (c : CoreId) (hs : Sound f0 s) :
    OutSound f0 (execChnClrCnt who c s) := by
  unfold execChnClrCnt
  repeat' first
    | with_reducible assumption | with_reducible apply State.setReg_sound | with_reducible apply State.access_sound
    | with_reducible apply next_sound | with_reducible apply sound_ite | intro _ _ | split | with_reducible apply sound_mk
    | with_reducible refine Sound.parts ?_

theorem execPressArrayStart_sound {f0 : Fuses} {s : State} (a : ArrId) (hs : Sound f0 s) :
    OutSound f0 (execPressArrayStart a s) := by
  unfold execPressArrayStart
  dsimp only
  repeat' first
    | with_reducible assumption | with_reducible apply State.incWrap_sound | with_reducible apply State.when_sound
    | with_reducible apply State.setArr_sound | with_reducible apply State.usePert_sound | with_reducible apply wornArr_sound
    | with_reducible apply stopAsks_sound | with_reducible apply imgRead_sound | with_reducible apply pressBegun_sound
    | with_reducible apply firstRecord_sound | with_reducible apply rateEvent_sound | with_reducible apply next_sound
    | with_reducible apply sound_ite | intro _ _ | split | with_reducible apply sound_mk | with_reducible refine Sound.parts ?_

theorem execPressVerifyRead_sound {f0 : Fuses} {s : State} (a : ArrId) (outside : List (Nat × Bool)) (hs : Sound f0 s) :
    OutSound f0 (execPressVerifyRead a outside s) := by
  unfold execPressVerifyRead
  repeat' first
    | with_reducible assumption | with_reducible apply State.when_sound | with_reducible apply verifyRead_sound | with_reducible apply next_sound
    | with_reducible apply sound_ite | intro _ _ | split | with_reducible apply sound_mk | with_reducible refine Sound.parts ?_

theorem execPressArrayEnd_sound {f0 : Fuses} {s : State} (a : ArrId) (hs : Sound f0 s) :
    OutSound f0 (execPressArrayEnd a s) := by
  unfold execPressArrayEnd
  repeat' first
    | with_reducible assumption | with_reducible apply State.when_sound | with_reducible apply pressPass_sound
    | with_reducible apply pressFail_sound | with_reducible apply next_sound | with_reducible apply sound_ite | intro _ _ | split
    | with_reducible apply sound_mk | with_reducible refine Sound.parts ?_

theorem execVprogLow_sound {f0 : Fuses} {s : State} (hs : Sound f0 s) :
    OutSound f0 (execVprogLow s) := by
  unfold execVprogLow
  dsimp only
  repeat' first
    | with_reducible assumption | with_reducible apply State.orReg_sound | with_reducible apply State.raiseIf_sound
    | with_reducible apply refuseLoad_sound | with_reducible apply stopPress_sound | with_reducible apply next_sound
    | with_reducible apply sound_ite | with_reducible apply sound_foldl | intro _ _ _ | intro _ _ | split | with_reducible apply sound_mk
    | with_reducible refine Sound.parts ?_

theorem execLoadVerify_sound {f0 : Fuses} {s : State} (hs : Sound f0 s) :
    OutSound f0 (execLoadVerify s) := by
  unfold execLoadVerify
  repeat' first
    | with_reducible assumption | with_reducible apply State.when_sound | with_reducible apply verifyLoad_sound | with_reducible apply next_sound
    | with_reducible apply sound_ite | intro _ _ | split | with_reducible apply sound_mk | with_reducible refine Sound.parts ?_

theorem execUnload_sound {f0 : Fuses} {s : State} (src : LoadSrc) (slot : Fin 4) (hs : Sound f0 s) :
    OutSound f0 (execUnload src slot s) := by
  unfold execUnload
  repeat' first
    | with_reducible assumption | with_reducible apply State.when_sound | with_reducible apply unloadSlot_sound | with_reducible apply next_sound
    | with_reducible apply sound_ite | intro _ _ | split | with_reducible apply sound_mk | with_reducible refine Sound.parts ?_

theorem execPrsCfgWrite_sound {f0 : Fuses} {s : State} (who : Who) (v : W32) (hs : Sound f0 s) :
    OutSound f0 (execPrsCfgWrite who v s) := by
  unfold execPrsCfgWrite
  dsimp only
  repeat' first
    | with_reducible assumption | with_reducible apply State.setFld_sound | with_reducible apply State.access_sound
    | with_reducible apply State.putMasked_sound | with_reducible apply State.reservesSet_sound | with_reducible apply next_sound
    | with_reducible apply sound_ite | intro _ _ | split | with_reducible apply sound_mk | with_reducible refine Sound.parts ?_

theorem execPrsRldReq_sound {f0 : Fuses} {s : State} (who : Who) (v : W32) (hs : Sound f0 s) :
    OutSound f0 (execPrsRldReq who v s) := by
  unfold execPrsRldReq
  dsimp only
  repeat' first
    | with_reducible assumption | with_reducible apply State.raise_sound | with_reducible apply State.access_sound
    | with_reducible apply State.askReload_sound | with_reducible apply next_sound | with_reducible apply sound_ite | intro _ _ | split
    | with_reducible apply sound_mk | with_reducible refine Sound.parts ?_

theorem execPreemptComplete_sound {f0 : Fuses} {s : State} (k : CtxId) (hs : Sound f0 s) :
    OutSound f0 (execPreemptComplete k s) := by
  unfold execPreemptComplete
  dsimp only
  repeat' first
    | with_reducible assumption | with_reducible apply State.raise_sound | with_reducible apply State.onCtx_sound
    | with_reducible apply saveContext_sound | with_reducible apply next_sound | with_reducible apply sound_ite | intro _ _ | split
    | with_reducible apply sound_mk | with_reducible refine Sound.parts ?_

theorem execResumeComplete_sound {f0 : Fuses} {s : State} (k : CtxId) (hs : Sound f0 s) :
    OutSound f0 (execResumeComplete k s) :=
  next_sound (State.when_sound _ hs hs)

theorem execHaltComplete_sound {f0 : Fuses} {s : State} (k : CtxId) (hs : Sound f0 s) :
    OutSound f0 (execHaltComplete k s) := by
  unfold execHaltComplete
  dsimp only
  repeat' first
    | with_reducible assumption | with_reducible apply State.raise_sound | with_reducible apply State.onCtx_sound
    | with_reducible apply State.freeTiles_sound | with_reducible apply next_sound | with_reducible apply sound_ite | intro _ _ | split
    | with_reducible apply sound_mk | with_reducible refine Sound.parts ?_

theorem execSeqCtxAddrWrite_sound {f0 : Fuses} {s : State} (who : Who) (k : CtxId) (save : Bool) (v : W64) (hs : Sound f0 s) :
    OutSound f0 (execSeqCtxAddrWrite who k save v s) := by
  unfold execSeqCtxAddrWrite
  dsimp only
  repeat' first
    | with_reducible assumption | with_reducible apply State.access_sound | with_reducible apply State.spendHeld_sound
    | with_reducible apply ctxAddr_sound | with_reducible apply next_sound | with_reducible apply sound_ite | intro _ _ | split
    | with_reducible apply sound_mk | with_reducible refine Sound.parts ?_

theorem execMapWrite_sound {f0 : Fuses} {s : State} (who : Who) (c : CoreId) (v : W32) (hs : Sound f0 s) :
    OutSound f0 (execMapWrite who c v s) := by
  unfold execMapWrite
  dsimp only
  repeat' first
    | with_reducible assumption | with_reducible apply State.setFld_sound | with_reducible apply State.orReg_sound
    | with_reducible apply State.raise_sound | with_reducible apply State.access_sound | with_reducible apply State.setEntry_sound
    | with_reducible apply next_sound | with_reducible apply sound_ite | intro _ _ | split | with_reducible apply sound_mk
    | with_reducible refine Sound.parts ?_

theorem execWaitSatisfied_sound {f0 : Fuses} {s : State} (k : CtxId) (hs : Sound f0 s) :
    OutSound f0 (execWaitSatisfied k s) := by
  unfold execWaitSatisfied
  dsimp only
  repeat' first
    | with_reducible assumption | with_reducible apply waitEnd_sound | with_reducible apply next_sound | with_reducible apply sound_ite | intro _ _
    | split | with_reducible apply sound_mk | with_reducible refine Sound.parts ?_

theorem execWaitTimeout_sound {f0 : Fuses} {s : State} (k : CtxId) (hs : Sound f0 s) :
    OutSound f0 (execWaitTimeout k s) := by
  unfold execWaitTimeout
  dsimp only
  repeat' first
    | with_reducible assumption | with_reducible apply waitEnd_sound | with_reducible apply next_sound | with_reducible apply sound_ite | intro _ _
    | split | with_reducible apply sound_mk | with_reducible refine Sound.parts ?_

theorem execSyncCounterSet_sound {f0 : Fuses} {s : State} (who : Who) (i : Fin 32768) (v : W32) (hs : Sound f0 s) :
    OutSound f0 (execSyncCounterSet who i v s) := by
  unfold execSyncCounterSet
  repeat' first
    | with_reducible assumption | with_reducible apply State.access_sound | with_reducible apply next_sound | with_reducible apply sound_ite
    | intro _ _ | split | with_reducible apply sound_mk | with_reducible refine Sound.parts ?_

theorem execStreamArrive_sound {f0 : Fuses} {s : State} (who : Who) (st : StreamId) (hs : Sound f0 s) :
    OutSound f0 (execStreamArrive who st s) := by
  unfold execStreamArrive
  repeat' first
    | with_reducible assumption | with_reducible apply State.access_sound | with_reducible apply State.arrive_sound
    | with_reducible apply passInput_sound | with_reducible apply next_sound | with_reducible apply sound_ite | intro _ _ | split
    | with_reducible apply sound_mk | with_reducible refine Sound.parts ?_

theorem execRelWaitComplete_sound {f0 : Fuses} {s : State} (k : CtxId) (hs : Sound f0 s) :
    OutSound f0 (execRelWaitComplete k s) := by
  unfold execRelWaitComplete
  dsimp only
  repeat' first
    | with_reducible assumption | with_reducible apply takeDone_sound | with_reducible apply joinDone_sound | with_reducible apply next_sound
    | with_reducible apply sound_ite | intro _ _ | split | with_reducible apply sound_mk | with_reducible refine Sound.parts ?_

theorem execIntOutTailWrite_sound {f0 : Fuses} {s : State} (who : Who) (st : StreamId) (v : W32) (hs : Sound f0 s) :
    OutSound f0 (execIntOutTailWrite who st v s) := by
  unfold execIntOutTailWrite
  dsimp only
  repeat' first
    | with_reducible assumption | with_reducible apply State.setReg_sound | with_reducible apply State.access_sound
    | with_reducible apply State.mirrorSend_sound | with_reducible apply writeOut_sound | with_reducible apply next_sound
    | with_reducible apply sound_ite | intro _ _ | split | with_reducible apply sound_mk | with_reducible refine Sound.parts ?_

theorem execEngineInstructionStart_sound {f0 : Fuses} {s : State} (e : Eng) (n : Nat) (hs : Sound f0 s) :
    OutSound f0 (execEngineInstructionStart e n s) := by
  unfold execEngineInstructionStart
  dsimp only
  repeat' first
    | with_reducible assumption | with_reducible apply State.when_sound | with_reducible apply State.setEngq_sound | with_reducible apply next_sound
    | with_reducible apply sound_ite | intro _ _ | split | with_reducible apply sound_mk | with_reducible refine Sound.parts ?_

theorem execEngineInstructionDone_sound {f0 : Fuses} {s : State} (e : Eng) (ch : Fin 12) (hs : Sound f0 s) :
    OutSound f0 (execEngineInstructionDone e ch s) := by
  unfold execEngineInstructionDone
  dsimp only
  repeat' first
    | with_reducible assumption | with_reducible apply State.when_sound | with_reducible apply State.setEngq_sound
    | with_reducible apply engRun_sound | with_reducible apply next_sound | with_reducible apply sound_ite | intro _ _ | split
    | with_reducible apply sound_mk | with_reducible refine Sound.parts ?_

theorem execScanComplete_sound {f0 : Fuses} {s : State} (u : Fin 2) (hs : Sound f0 s) :
    OutSound f0 (execScanComplete u s) := by
  unfold execScanComplete
  dsimp only
  repeat' first
    | with_reducible assumption | with_reducible apply State.when_sound | with_reducible apply State.setEngq_sound
    | with_reducible apply scanDone_sound | with_reducible apply next_sound | with_reducible apply sound_ite | intro _ _ | split
    | with_reducible apply sound_mk | with_reducible refine Sound.parts ?_

theorem execScrubTick_sound {f0 : Fuses} {s : State} (hs : Sound f0 s) :
    OutSound f0 (execScrubTick s) := by
  unfold execScrubTick
  dsimp only
  repeat' first
    | with_reducible assumption | with_reducible apply State.when_sound | with_reducible apply scrubLine_sound | with_reducible apply next_sound
    | with_reducible apply sound_ite | with_reducible apply sound_foldl | intro _ _ _ | intro _ _ | split | with_reducible apply sound_mk
    | with_reducible refine Sound.parts ?_

theorem execTnkClrCnt_sound {f0 : Fuses} {s : State} (who : Who) (hs : Sound f0 s) :
    OutSound f0 (execTnkClrCnt who s) :=
  next_sound (State.access_sound _ _ _ hs fun _ hu => hu)

theorem execCsiFrameStart_sound {f0 : Fuses} {s : State} (port : Fin 4) (vc : Fin 16) (hs : Sound f0 s) :
    OutSound f0 (execCsiFrameStart port vc s) := by
  unfold execCsiFrameStart
  dsimp only
  repeat' first
    | with_reducible assumption | with_reducible apply State.when_sound | with_reducible apply openInput_sound | with_reducible apply closeCsi_sound
    | with_reducible apply next_sound | with_reducible apply sound_ite | with_reducible apply sound_foldl | intro _ _ _ | intro _ _ | split
    | with_reducible apply sound_mk | with_reducible refine Sound.parts ?_

theorem execCsiLongPacket_sound {f0 : Fuses} {s : State} (port : Fin 4) (vc : Fin 16) (dt : Byte) (data : List Byte) (hdrOk crcOk : Bool) (hs : Sound f0 s) :
    OutSound f0 (execCsiLongPacket port vc dt data hdrOk crcOk s) := by
  unfold execCsiLongPacket
  dsimp only
  repeat' first
    | with_reducible assumption | with_reducible apply State.incReg_sound | with_reducible apply State.when_sound
    | with_reducible apply csiLine_sound | with_reducible apply next_sound | with_reducible apply sound_ite | intro _ _ | split
    | with_reducible apply sound_mk | with_reducible refine Sound.parts ?_

theorem execCsiFrameEnd_sound {f0 : Fuses} {s : State} (port : Fin 4) (vc : Fin 16) (hs : Sound f0 s) :
    OutSound f0 (execCsiFrameEnd port vc s) := by
  unfold execCsiFrameEnd
  dsimp only
  repeat' first
    | with_reducible assumption | with_reducible apply State.incReg_sound | with_reducible apply State.when_sound
    | with_reducible apply closeCsi_sound | with_reducible apply next_sound | with_reducible apply sound_ite | with_reducible apply sound_foldl
    | intro _ _ _ | intro _ _ | split | with_reducible apply sound_mk | with_reducible refine Sound.parts ?_

theorem execEthFrame_sound {f0 : Fuses} {s : State} (port : Fin 2) (f : EthFrame) (hs : Sound f0 s) :
    OutSound f0 (execEthFrame port f s) := by
  unfold execEthFrame
  dsimp only
  repeat' first
    | with_reducible assumption | with_reducible apply State.incReg_sound | with_reducible apply State.when_sound
    | with_reducible apply openInput_sound | with_reducible apply ethAppend_sound | with_reducible apply State.setSkip_sound
    | with_reducible apply next_sound | with_reducible apply sound_ite | intro _ _ | split | with_reducible apply sound_mk
    | with_reducible refine Sound.parts ?_

theorem execIntakeTimeout_sound {f0 : Fuses} {s : State} (rec : Fin 64) (hs : Sound f0 s) :
    OutSound f0 (execIntakeTimeout rec s) := by
  unfold execIntakeTimeout
  dsimp only
  repeat' first
    | with_reducible assumption | with_reducible apply State.when_sound | with_reducible apply closeInput_sound
    | with_reducible apply State.setSkip_sound | with_reducible apply next_sound | with_reducible apply sound_ite | intro _ _ | split
    | with_reducible apply sound_mk | with_reducible refine Sound.parts ?_

theorem execDmaCopyComplete_sound {f0 : Fuses} {s : State} (ch : Fin 3) (hs : Sound f0 s) :
    OutSound f0 (execDmaCopyComplete ch s) := by
  unfold execDmaCopyComplete
  dsimp only
  repeat' first
    | with_reducible assumption | with_reducible apply State.clrReg_sound | with_reducible apply State.when_sound
    | with_reducible apply State.finish_sound | with_reducible apply dmaCopy_sound | with_reducible apply next_sound
    | with_reducible apply sound_ite | intro _ _ | split | with_reducible apply sound_mk | with_reducible refine Sound.parts ?_

theorem execMrSweepDue_sound {f0 : Fuses} {s : State} (hs : Sound f0 s) :
    OutSound f0 (execMrSweepDue s) := by
  unfold execMrSweepDue
  dsimp only
  repeat' first
    | with_reducible assumption | with_reducible apply State.setFld_sound | with_reducible apply State.when_sound
    | with_reducible apply State.onMr_sound | with_reducible apply sweepPast_sound | with_reducible apply sweepBegin_sound
    | with_reducible apply next_sound | with_reducible apply sound_ite | intro _ _ | split | with_reducible apply sound_mk
    | with_reducible refine Sound.parts ?_

theorem execMrUnitStart_sound {f0 : Fuses} {s : State} (a : ArrId) (hs : Sound f0 s) :
    OutSound f0 (execMrUnitStart a s) := by
  unfold execMrUnitStart
  dsimp only
  repeat' first
    | with_reducible assumption | with_reducible apply State.when_sound | with_reducible apply beginUnit_sound | with_reducible apply next_sound
    | with_reducible apply sound_ite | intro _ _ | split | with_reducible apply sound_mk | with_reducible refine Sound.parts ?_

theorem execMrUnitEnd_sound {f0 : Fuses} {s : State} (a : TestUnit) (hs : Sound f0 s) :
    OutSound f0 (execMrUnitEnd a s) := by
  unfold execMrUnitEnd
  dsimp only
  repeat' first
    | with_reducible assumption | with_reducible apply State.when_sound | with_reducible apply State.setArr_sound
    | with_reducible apply freeGo_sound | with_reducible apply releaseArr_sound | with_reducible apply unitRuns_sound
    | with_reducible apply next_sound | with_reducible apply sound_ite | intro _ _ | split | with_reducible apply sound_mk
    | with_reducible refine Sound.parts ?_

theorem execMrTestComplete_sound {f0 : Fuses} {s : State} (a : ArrId) (r : TestOutcome) (hs : Sound f0 s) :
    OutSound f0 (execMrTestComplete a r s) := by
  unfold execMrTestComplete
  dsimp only
  repeat' first
    | with_reducible assumption | with_reducible apply State.setReg_sound | with_reducible apply State.incWrap_sound
    | with_reducible apply State.when_sound | with_reducible apply State.residue_sound | with_reducible apply State.residues_sound
    | with_reducible apply enterFault_sound | with_reducible apply State.readShadow_sound | with_reducible apply testOver_sound
    | with_reducible apply judge_sound | with_reducible apply testFailed_sound | with_reducible apply retest_sound | with_reducible apply next_sound
    | with_reducible apply sound_ite | with_reducible apply sound_foldl | intro _ _ _ | intro _ _ | split | with_reducible apply sound_mk
    | with_reducible refine Sound.parts ?_

theorem execMrTestExpiry_sound {f0 : Fuses} {s : State} (a : ArrId) (hs : Sound f0 s) :
    OutSound f0 (execMrTestExpiry a s) := by
  unfold execMrTestExpiry
  dsimp only
  repeat' first
    | with_reducible assumption | with_reducible apply State.when_sound | with_reducible apply State.setArr_sound | with_reducible apply next_sound
    | with_reducible apply sound_ite | intro _ _ | split | with_reducible apply sound_mk | with_reducible refine Sound.parts ?_

theorem execTestRequestDeadline_sound {f0 : Fuses} {s : State} (c : CoreId) (i : Nat) (hs : Sound f0 s) :
    OutSound f0 (execTestRequestDeadline c i s) := by
  unfold execTestRequestDeadline
  repeat' first
    | with_reducible assumption | with_reducible apply State.when_sound | with_reducible apply State.onTests_sound
    | with_reducible apply reportTest_sound | with_reducible apply next_sound | with_reducible apply sound_ite | intro _ _ | split
    | with_reducible apply sound_mk | with_reducible refine Sound.parts ?_

theorem execTstHealthClear_sound {f0 : Fuses} {s : State} (who : Who) (v : W32) (hs : Sound f0 s) :
    OutSound f0 (execTstHealthClear who v s) :=
  next_sound (State.access_sound _ _ _ hs fun _ hu => hu)

theorem execTstHop_sound {f0 : Fuses} {s : State} (who : Who) (v : W32) (hs : Sound f0 s) :
    OutSound f0 (execTstHop who v s) :=
  next_sound (pertWrite_sound (hs := hs) ..)

theorem execTstBp_sound {f0 : Fuses} {s : State} (who : Who) (v : W32) (hs : Sound f0 s) :
    OutSound f0 (execTstBp who v s) :=
  next_sound (pertWrite_sound (hs := hs) ..)

theorem execTstFsat_sound {f0 : Fuses} {s : State} (who : Who) (v : W32) (hs : Sound f0 s) :
    OutSound f0 (execTstFsat who v s) :=
  next_sound (pertWrite_sound (hs := hs) ..)

theorem execTstCinv_sound {f0 : Fuses} {s : State} (who : Who) (v : W32) (hs : Sound f0 s) :
    OutSound f0 (execTstCinv who v s) :=
  next_sound (pertWrite_sound (hs := hs) ..)

theorem execTstNvse_sound {f0 : Fuses} {s : State} (who : Who) (v : W32) (hs : Sound f0 s) :
    OutSound f0 (execTstNvse who v s) :=
  next_sound (pertWrite_sound (hs := hs) ..)

theorem execTstDigc_sound {f0 : Fuses} {s : State} (who : Who) (v : W32) (hs : Sound f0 s) :
    OutSound f0 (execTstDigc who v s) :=
  next_sound (pertWrite_sound (hs := hs) ..)

theorem execTstPrsf_sound {f0 : Fuses} {s : State} (who : Who) (v : W32) (hs : Sound f0 s) :
    OutSound f0 (execTstPrsf who v s) :=
  next_sound (pertWrite_sound (hs := hs) ..)

theorem execDisarm_sound {f0 : Fuses} {s : State} (who : Who) (hs : Sound f0 s) :
    OutSound f0 (execDisarm who s) :=
  next_sound (State.access_sound _ _ _ hs fun _ hu => hu)

theorem execPortEnable_sound {f0 : Fuses} {s : State} (who : Who) (v : W32) (hs : Sound f0 s) :
    OutSound f0 (execPortEnable who v s) := by
  unfold execPortEnable
  dsimp only
  repeat' first
    | with_reducible assumption | with_reducible apply State.setReg_sound | with_reducible apply State.access_sound
    | with_reducible apply State.putMasked_sound | with_reducible apply State.setPort_sound | with_reducible apply next_sound
    | with_reducible apply sound_ite | with_reducible apply sound_foldl | intro _ _ _ | intro _ _ | split | with_reducible apply sound_mk
    | with_reducible refine Sound.parts ?_

theorem execLinkAck_sound {f0 : Fuses} {s : State} (p : Fin 8) (lseq : W32) (hs : Sound f0 s) :
    OutSound f0 (execLinkAck p lseq s) :=
  next_sound (State.when_sound _ hs hs)

theorem execReplayRequest_sound {f0 : Fuses} {s : State} (p : Fin 8) (lseq : W32) (hs : Sound f0 s) :
    OutSound f0 (execReplayRequest p lseq s) := by
  unfold execReplayRequest
  dsimp only
  repeat' first
    | with_reducible assumption | with_reducible apply State.incReg_sound | with_reducible apply State.when_sound
    | with_reducible apply State.setPort_sound | with_reducible apply State.emit_sound | with_reducible apply portFail_sound
    | with_reducible apply next_sound | with_reducible apply sound_ite | with_reducible apply sound_foldl | intro _ _ _ | intro _ _ | split
    | with_reducible apply sound_mk | with_reducible refine Sound.parts ?_

theorem execCollectiveStart_sound {f0 : Fuses} {s : State} (i : Fin 64) (hs : Sound f0 s) :
    OutSound f0 (execCollectiveStart i s) := by
  unfold execCollectiveStart
  dsimp only
  repeat' first
    | with_reducible assumption | with_reducible apply State.when_sound | with_reducible apply State.readFx_sound
    | with_reducible apply recvChunk_sound | with_reducible apply firstSend_sound | with_reducible apply next_sound | with_reducible apply sound_ite
    | with_reducible apply sound_foldl | intro _ _ _ | intro _ _ | split | with_reducible apply sound_mk | with_reducible refine Sound.parts ?_

theorem execChunkData_sound {f0 : Fuses} {s : State} (p : Fin 8) (f : ChunkFrame) (hs : Sound f0 s) :
    OutSound f0 (execChunkData p f s) := by
  unfold execChunkData
  dsimp only
  repeat' first
    | with_reducible assumption | with_reducible apply State.incReg_sound | with_reducible apply State.setColl_sound
    | with_reducible apply recvChunk_sound | with_reducible apply herdTake_sound | with_reducible apply next_sound | with_reducible apply sound_ite
    | intro _ _ | split | with_reducible apply sound_mk | with_reducible refine Sound.parts ?_

theorem execChunkAck_sound {f0 : Fuses} {s : State} (p : Fin 8) (r : ChunkReply) (hs : Sound f0 s) :
    OutSound f0 (execChunkAck p r s) := by
  unfold execChunkAck
  repeat' first
    | with_reducible assumption | with_reducible apply herdTake_sound | with_reducible apply releaseKept_sound | with_reducible apply next_sound
    | with_reducible apply sound_ite | intro _ _ | split | with_reducible apply sound_mk | with_reducible refine Sound.parts ?_

theorem execResendRequest_sound {f0 : Fuses} {s : State} (p : Fin 8) (r : ChunkReply) (hs : Sound f0 s) :
    OutSound f0 (execResendRequest p r s) := by
  unfold execResendRequest
  repeat' first
    | with_reducible assumption | with_reducible apply herdTake_sound | with_reducible apply resendKept_sound | with_reducible apply next_sound
    | with_reducible apply sound_ite | intro _ _ | split | with_reducible apply sound_mk | with_reducible refine Sound.parts ?_

theorem execCollectiveComplete_sound {f0 : Fuses} {s : State} (i : Fin 64) (hs : Sound f0 s) :
    OutSound f0 (execCollectiveComplete i s) := by
  unfold execCollectiveComplete
  dsimp only
  repeat' first
    | with_reducible assumption | with_reducible apply State.when_sound | with_reducible apply State.tankPut_sound
    | with_reducible apply collRecord_sound | with_reducible apply poisonRange_sound | with_reducible apply collEnd_sound
    | with_reducible apply next_sound | with_reducible apply sound_ite | with_reducible apply sound_foldl | intro _ _ _ | intro _ _ | split
    | with_reducible apply sound_mk | with_reducible refine Sound.parts ?_

theorem execCollectiveTimeout_sound {f0 : Fuses} {s : State} (i : Fin 64) (hs : Sound f0 s) :
    OutSound f0 (execCollectiveTimeout i s) := by
  unfold execCollectiveTimeout
  dsimp only
  repeat' first
    | with_reducible assumption | with_reducible apply State.when_sound | with_reducible apply State.onLink_sound
    | with_reducible apply collRecord_sound | with_reducible apply poisonRange_sound | with_reducible apply collEnd_sound
    | with_reducible apply next_sound | with_reducible apply sound_ite | intro _ _ | split | with_reducible apply sound_mk
    | with_reducible refine Sound.parts ?_

theorem execHlkClrCnt_sound {f0 : Fuses} {s : State} (who : Who) (hs : Sound f0 s) :
    OutSound f0 (execHlkClrCnt who s) :=
  next_sound (State.access_sound _ _ _ hs fun _ hu => hu)

theorem execPeerPrimaryChange_sound {f0 : Fuses} {s : State} (asserted : Bool) (hs : Sound f0 s) :
    OutSound f0 (execPeerPrimaryChange asserted s) := by
  unfold execPeerPrimaryChange
  dsimp only
  repeat' first
    | with_reducible assumption | with_reducible apply State.onPair_sound | with_reducible apply interlockLost_sound
    | with_reducible apply standbyLost_sound | with_reducible apply next_sound | with_reducible apply sound_ite | intro _ _ | split
    | with_reducible apply sound_mk | with_reducible refine Sound.parts ?_

theorem execPrimaryAssert_sound {f0 : Fuses} {s : State} (hs : Sound f0 s) :
    OutSound f0 (execPrimaryAssert s) :=
  next_sound (State.when_sound _ hs hs)

theorem execPairCfgWrite_sound {f0 : Fuses} {s : State} (who : Who) (v : W32) (hs : Sound f0 s) :
    OutSound f0 (execPairCfgWrite who v s) := by
  unfold execPairCfgWrite
  dsimp only
  repeat' first
    | with_reducible assumption | with_reducible apply State.setReg_sound | with_reducible apply State.raiseStream_sound
    | with_reducible apply State.access_sound | with_reducible apply State.onPair_sound | with_reducible apply dropPrim_sound
    | with_reducible apply toJoining_sound | with_reducible apply next_sound | with_reducible apply sound_ite | intro _ _ | split
    | with_reducible apply sound_mk | with_reducible refine Sound.parts ?_

theorem execKick_sound {f0 : Fuses} {s : State} (who : Who) (hs : Sound f0 s) :
    OutSound f0 (execKick who s) :=
  next_sound (State.access_sound _ _ _ hs fun _ hu => hu)

theorem execHeartbeat_sound {f0 : Fuses} {s : State} (h : PeerBeat) (hs : Sound f0 s) :
    OutSound f0 (execHeartbeat h s) := by
  unfold execHeartbeat
  repeat' first
    | with_reducible assumption | with_reducible apply State.onFrames_sound | with_reducible apply State.onPair_sound
    | with_reducible apply beatState_sound | with_reducible apply next_sound | with_reducible apply sound_ite | intro _ _ | split
    | with_reducible apply sound_mk | with_reducible refine Sound.parts ?_

theorem execPairJoinTimeout_sound {f0 : Fuses} {s : State} (hs : Sound f0 s) :
    OutSound f0 (execPairJoinTimeout s) := by
  unfold execPairJoinTimeout
  repeat' first
    | with_reducible assumption | with_reducible apply State.when_sound | with_reducible apply State.onPair_sound
    | with_reducible apply event508_sound | with_reducible apply toFenced_sound | with_reducible apply next_sound | with_reducible apply sound_ite
    | intro _ _ | split | with_reducible apply sound_mk | with_reducible refine Sound.parts ?_

theorem execTakeoverComplete_sound {f0 : Fuses} {s : State} (hs : Sound f0 s) :
    OutSound f0 (execTakeoverComplete s) := by
  unfold execTakeoverComplete
  dsimp only
  repeat' first
    | with_reducible assumption | with_reducible apply State.incReg_sound | with_reducible apply State.raise_sound
    | with_reducible apply State.health_sound | with_reducible apply State.when_sound | with_reducible apply State.closeNum_sound
    | with_reducible apply State.onPair_sound | with_reducible apply takeStream_sound | with_reducible apply takeCtx_sound
    | with_reducible apply next_sound | with_reducible apply sound_ite | with_reducible apply sound_foldl | intro _ _ _ | intro _ _ | split
    | with_reducible apply sound_mk | with_reducible refine Sound.parts ?_

theorem execMirrorRecord_sound {f0 : Fuses} {s : State} (r : MirrorRec) (hs : Sound f0 s) :
    OutSound f0 (execMirrorRecord r s) := by
  unfold execMirrorRecord
  dsimp only
  repeat' first
    | with_reducible assumption | with_reducible apply State.onFrames_sound | with_reducible apply State.toPeer_sound
    | with_reducible apply State.onPair_sound | with_reducible apply recordMirror_sound | with_reducible apply mirrorGap_sound
    | with_reducible apply next_sound | with_reducible apply sound_ite | intro _ _ | split | with_reducible apply sound_mk
    | with_reducible refine Sound.parts ?_

theorem execMirrorAck_sound {f0 : Fuses} {s : State} (n : W32) (ask : Bool) (hs : Sound f0 s) :
    OutSound f0 (execMirrorAck n ask s) := by
  unfold execMirrorAck
  dsimp only
  repeat' first
    | with_reducible assumption | with_reducible apply State.onFrames_sound | with_reducible apply State.onPair_sound
    | with_reducible apply resyncPeer_sound | with_reducible apply freeMirrored_sound | with_reducible apply next_sound
    | with_reducible apply sound_ite | intro _ _ | split | with_reducible apply sound_mk | with_reducible refine Sound.parts ?_

theorem execArrivalKey_sound {f0 : Fuses} {s : State} (st : StreamId) (seq : W32) (key : W64) (hs : Sound f0 s) :
    OutSound f0 (execArrivalKey st seq key s) := by
  unfold execArrivalKey
  repeat' first
    | with_reducible assumption | with_reducible apply State.onFrames_sound | with_reducible apply peerKey_sound | with_reducible apply next_sound
    | with_reducible apply sound_ite | intro _ _ | split | with_reducible apply sound_mk | with_reducible refine Sound.parts ?_

theorem execRealignNotice_sound {f0 : Fuses} {s : State} (st : StreamId) (seq : W32) (hs : Sound f0 s) :
    OutSound f0 (execRealignNotice st seq s) := by
  unfold execRealignNotice
  dsimp only
  repeat' first
    | with_reducible assumption | with_reducible apply State.onFrames_sound | with_reducible apply State.setLock_sound
    | with_reducible apply doneWaiters_sound | with_reducible apply next_sound | with_reducible apply sound_ite | intro _ _ | split
    | with_reducible apply sound_mk | with_reducible refine Sound.parts ?_

theorem execLockstepCopy_sound {f0 : Fuses} {s : State} (st : StreamId) (seq : W32) (data : List Byte) (hs : Sound f0 s) :
    OutSound f0 (execLockstepCopy st seq data s) := by
  unfold execLockstepCopy
  dsimp only
  repeat' first
    | with_reducible assumption | with_reducible apply State.onFrames_sound | with_reducible apply State.setLock_sound
    | with_reducible apply doneWaiters_sound | with_reducible apply next_sound | with_reducible apply sound_ite | intro _ _ | split
    | with_reducible apply sound_mk | with_reducible refine Sound.parts ?_

theorem execMsrRefReady_sound {f0 : Fuses} {s : State} (m : Fin 4) (hs : Sound f0 s) :
    OutSound f0 (execMsrRefReady m s) :=
  next_sound (State.when_sound _ hs hs)

theorem execMsrResult_sound {f0 : Fuses} {s : State} (m : Fin 4) (v : Volts) (ovl : Bool) (hs : Sound f0 s) :
    OutSound f0 (execMsrResult m v ovl s) := by
  unfold execMsrResult
  repeat' first
    | with_reducible assumption | with_reducible apply State.when_sound | with_reducible apply result_sound | with_reducible apply next_sound
    | with_reducible apply sound_ite | intro _ _ | split | with_reducible apply sound_mk | with_reducible refine Sound.parts ?_

theorem execMsrClrCnt_sound {f0 : Fuses} {s : State} (who : Who) (m : Fin 4) (hs : Sound f0 s) :
    OutSound f0 (execMsrClrCnt who m s) := by
  unfold execMsrClrCnt
  dsimp only
  repeat' first
    | with_reducible assumption | with_reducible apply State.setReg_sound | with_reducible apply State.access_sound
    | with_reducible apply State.setMsc_sound | with_reducible apply next_sound | with_reducible apply sound_ite | with_reducible apply sound_foldl
    | intro _ _ _ | intro _ _ | split | with_reducible apply sound_mk | with_reducible refine Sound.parts ?_

theorem execMsrCalSave_sound {f0 : Fuses} {s : State} (w : CalSave) (hs : Sound f0 s) :
    OutSound f0 (execMsrCalSave w s) := by
  unfold execMsrCalSave
  dsimp only
  repeat' first
    | with_reducible assumption | with_reducible apply State.orReg_sound | with_reducible apply State.access_sound
    | with_reducible apply State.abRead_sound | with_reducible apply State.nvsPut_sound | with_reducible apply calEnd_sound
    | with_reducible apply next_sound | with_reducible apply sound_ite | intro _ _ | split | with_reducible apply sound_mk
    | with_reducible refine Sound.parts ?_

theorem execMsrCalStepComplete_sound {f0 : Fuses} {s : State} (vs : List Volts) (ovl : Bool) (hs : Sound f0 s) :
    OutSound f0 (execMsrCalStepComplete vs ovl s) := by
  unfold execMsrCalStepComplete
  dsimp only
  repeat' first
    | with_reducible assumption | with_reducible apply State.clrReg_sound | with_reducible apply State.when_sound
    | with_reducible apply calEnd_sound | with_reducible apply calResult_sound | with_reducible apply next_sound | with_reducible apply sound_ite
    | intro _ _ | split | with_reducible apply sound_mk | with_reducible refine Sound.parts ?_

theorem execMsrConfigWrite_sound {f0 : Fuses} {s : State} (who : Who) (m : Fin 4) (off : BitVec 8) (v : W32) (hs : Sound f0 s) :
    OutSound f0 (execMsrConfigWrite who m off v s) := by
  unfold execMsrConfigWrite
  dsimp only
  repeat' first
    | with_reducible assumption | with_reducible apply State.access_sound | with_reducible apply State.putMasked_sound
    | with_reducible apply cfgBusy_sound | with_reducible apply ctlWrite_sound | with_reducible apply next_sound | with_reducible apply sound_ite
    | intro _ _ | split | with_reducible apply sound_mk | with_reducible refine Sound.parts ?_

theorem execStopNAssertAccept_sound {f0 : Fuses} {s : State} (hs : Sound f0 s) :
    OutSound f0 (execStopNAssertAccept s) := by
  unfold execStopNAssertAccept
  repeat' first
    | with_reducible assumption | with_reducible apply State.raise_sound | with_reducible apply State.when_sound
    | with_reducible apply State.onAct_sound | with_reducible apply outputsOff_sound | with_reducible apply next_sound
    | with_reducible apply sound_ite | intro _ _ | split | with_reducible apply sound_mk | with_reducible refine Sound.parts ?_

theorem execAoUpdateTick_sound {f0 : Fuses} {s : State} (hs : Sound f0 s) :
    OutSound f0 (execAoUpdateTick s) := by
  unfold execAoUpdateTick
  repeat' first
    | with_reducible assumption | with_reducible apply State.when_sound | with_reducible apply State.onAct_sound
    | with_reducible apply aoApply_sound | with_reducible apply next_sound | with_reducible apply sound_ite | with_reducible apply sound_foldl
    | intro _ _ _ | intro _ _ | split | with_reducible apply sound_mk | with_reducible refine Sound.parts ?_

theorem execAoDeglitchTransfer_sound {f0 : Fuses} {s : State} (ch : Fin 8) (hs : Sound f0 s) :
    OutSound f0 (execAoDeglitchTransfer ch s) :=
  next_sound (State.when_sound _ hs hs)

theorem execAoRateWrite_sound {f0 : Fuses} {s : State} (who : Who) (v : W32) (hs : Sound f0 s) :
    OutSound f0 (execAoRateWrite who v s) :=
  next_sound (State.access_sound _ _ _ hs fun _ hu => hu)

theorem execPwmPeriodStart_sound {f0 : Fuses} {s : State} (ch : Fin 8) (hs : Sound f0 s) :
    OutSound f0 (execPwmPeriodStart ch s) :=
  next_sound (State.when_sound _ hs hs)

theorem execPwmActiveEnd_sound {f0 : Fuses} {s : State} (ch : Fin 8) (hs : Sound f0 s) :
    OutSound f0 (execPwmActiveEnd ch s) :=
  next_sound (State.when_sound _ hs hs)

theorem execCaptureEdge_sound {f0 : Fuses} {s : State} (ch : Fin 8) (rising : Bool) (ticks : W32) (hs : Sound f0 s) :
    OutSound f0 (execCaptureEdge ch rising ticks s) := by
  unfold execCaptureEdge
  dsimp only
  repeat' first
    | with_reducible assumption | with_reducible apply State.setReg_sound | with_reducible apply State.incWrap_sound
    | with_reducible apply State.when_sound | with_reducible apply State.onAct_sound | with_reducible apply edgeSeen_sound
    | with_reducible apply next_sound | with_reducible apply sound_ite | with_reducible apply sound_foldl | intro _ _ _ | intro _ _ | split
    | with_reducible apply sound_mk | with_reducible refine Sound.parts ?_

theorem execCaptureTimeout_sound {f0 : Fuses} {s : State} (ch : Fin 8) (hs : Sound f0 s) :
    OutSound f0 (execCaptureTimeout ch s) :=
  next_sound (State.when_sound _ hs hs)

theorem execCanTxComplete_sound {f0 : Fuses} {s : State} (n : Fin 4) (r : CanTxResult) (hs : Sound f0 s) :
    OutSound f0 (execCanTxComplete n r s) := by
  unfold execCanTxComplete
  dsimp only
  repeat' first
    | with_reducible assumption | with_reducible apply State.when_sound | with_reducible apply State.setCan_sound
    | with_reducible apply canReceive_sound | with_reducible apply canState_sound | with_reducible apply next_sound | with_reducible apply sound_ite
    | intro _ _ | split | with_reducible apply sound_mk | with_reducible refine Sound.parts ?_

theorem execCanRxFrame_sound {f0 : Fuses} {s : State} (n : Fin 4) (r : CanRxResult) (hs : Sound f0 s) :
    OutSound f0 (execCanRxFrame n r s) := by
  unfold execCanRxFrame
  dsimp only
  repeat' first
    | with_reducible assumption | with_reducible apply State.when_sound | with_reducible apply canReceive_sound
    | with_reducible apply canState_sound | with_reducible apply next_sound | with_reducible apply sound_ite | intro _ _ | split
    | with_reducible apply sound_mk | with_reducible refine Sound.parts ?_

theorem execCanBusOffRecovery_sound {f0 : Fuses} {s : State} (n : Fin 4) (hs : Sound f0 s) :
    OutSound f0 (execCanBusOffRecovery n s) :=
  next_sound (State.when_sound _ hs hs)

theorem execCanConfigWrite_sound {f0 : Fuses} {s : State} (who : Who) (n : Fin 4) (off : BitVec 8) (v : W32) (hs : Sound f0 s) :
    OutSound f0 (execCanConfigWrite who n off v s) := by
  unfold execCanConfigWrite
  dsimp only
  repeat' first
    | with_reducible assumption | with_reducible apply State.raise_sound | with_reducible apply State.access_sound
    | with_reducible apply State.endHeld_sound | with_reducible apply State.writeWord_sound | with_reducible apply next_sound
    | with_reducible apply sound_ite | intro _ _ | split | with_reducible apply sound_mk | with_reducible refine Sound.parts ?_

theorem execNvsPageWriteComplete_sound {f0 : Fuses} {s0 : State} (hs : Sound f0 s0) :
    OutSound f0 (execNvsPageWriteComplete s0) := by
  unfold execNvsPageWriteComplete
  dsimp only
  have hg := State.nvsGo_sound hs
  split
  · exact next_sound hs
  · exact next_sound (State.nvsGo_sound (nvscIsolate_sound (pageDone_sound _ hg)))

theorem execNvsClrCnt_sound {f0 : Fuses} {s : State} (who : Who) (hs : Sound f0 s) :
    OutSound f0 (execNvsClrCnt who s) :=
  next_sound (State.access_sound _ _ _ hs fun _ hu => hu)

theorem execLogTokenTick_sound {f0 : Fuses} {s : State} (hs : Sound f0 s) :
    OutSound f0 (execLogTokenTick s) :=
  next_sound (State.when_sound _ hs hs)

theorem execBrownoutWarningDeassert_sound {f0 : Fuses} {s : State} (hs : Sound f0 s) :
    OutSound f0 (execBrownoutWarningDeassert s) := by
  unfold execBrownoutWarningDeassert
  dsimp only
  repeat' first
    | with_reducible assumption | with_reducible apply State.clrReg_sound | with_reducible apply State.nvsGo_sound
    | with_reducible apply step4_sound | with_reducible apply exitRecovery_sound | with_reducible apply next_sound | with_reducible apply sound_ite
    | intro _ _ | split | with_reducible apply sound_mk | with_reducible refine Sound.parts ?_

theorem execPowerOn_sound {f0 : Fuses} {s : State} (cut : Fin 8) (hs : Sound f0 s) :
    OutSound f0 (execPowerOn cut s) := by
  unfold execPowerOn
  repeat' first
    | with_reducible assumption | with_reducible apply coldReset_sound | with_reducible apply next_sound | with_reducible apply sound_ite
    | intro _ _ | split | with_reducible apply sound_mk | with_reducible refine Sound.parts ?_

theorem execBrownoutAon_sound {f0 : Fuses} {s : State} (cut : Fin 8) (hs : Sound f0 s) :
    OutSound f0 (execBrownoutAon cut s) := by
  unfold execBrownoutAon
  repeat' first
    | with_reducible assumption | with_reducible apply coldReset_sound | with_reducible apply next_sound | with_reducible apply sound_ite
    | intro _ _ | split | with_reducible apply sound_mk | with_reducible refine Sound.parts ?_

theorem execBrownoutCore_sound {f0 : Fuses} {s : State} (varr : Bool) (cut : Fin 8) (hs : Sound f0 s) :
    OutSound f0 (execBrownoutCore varr cut s) := by
  unfold execBrownoutCore
  repeat' first
    | with_reducible assumption | with_reducible apply warmReset_sound | with_reducible apply next_sound | with_reducible apply sound_ite
    | intro _ _ | split | with_reducible apply sound_mk | with_reducible refine Sound.parts ?_

theorem execResetNAssert_sound {f0 : Fuses} {s : State} (cut : Fin 8) (hs : Sound f0 s) :
    OutSound f0 (execResetNAssert cut s) := by
  unfold execResetNAssert
  repeat' first
    | with_reducible assumption | with_reducible apply warmReset_sound | with_reducible apply next_sound | with_reducible apply sound_ite
    | intro _ _ | split | with_reducible apply sound_mk | with_reducible refine Sound.parts ?_

theorem execWatchdogExpiry_sound {f0 : Fuses} {s : State} (cut : Fin 8) (hs : Sound f0 s) :
    OutSound f0 (execWatchdogExpiry cut s) := by
  unfold execWatchdogExpiry
  repeat' first
    | with_reducible assumption | with_reducible apply State.when_sound | with_reducible apply warmReset_sound | with_reducible apply next_sound
    | with_reducible apply sound_ite | intro _ _ | split | with_reducible apply sound_mk | with_reducible refine Sound.parts ?_

theorem execStartTimeout_sound {f0 : Fuses} {s : State} (cut : Fin 8) (hs : Sound f0 s) :
    OutSound f0 (execStartTimeout cut s) := by
  unfold execStartTimeout
  dsimp only
  repeat' first
    | with_reducible assumption | with_reducible apply State.when_sound | with_reducible apply warmReset_sound
    | with_reducible apply State.deferEvent_sound | with_reducible apply next_sound | with_reducible apply sound_ite | intro _ _ | split
    | with_reducible apply sound_mk | with_reducible refine Sound.parts ?_

theorem execAll_sound {f0 : Fuses} {s : State} (who : Who) (key : Byte) (cut : Fin 8) (hs : Sound f0 s) :
    OutSound f0 (execAll who key cut s) := by
  unfold execAll
  repeat' first
    | with_reducible assumption | with_reducible apply State.access_sound | with_reducible apply State.when_sound
    | with_reducible apply warmReset_sound | with_reducible apply next_sound | with_reducible apply sound_ite | intro _ _ | split
    | with_reducible apply sound_mk | with_reducible refine Sound.parts ?_

theorem execClockFailure_sound {f0 : Fuses} {s : State} (loss : ClockLoss) (hs : Sound f0 s) :
    OutSound f0 (execClockFailure loss s) := by
  unfold execClockFailure
  dsimp only
  repeat' first
    | with_reducible assumption | with_reducible apply State.when_sound | with_reducible apply warmReset_sound
    | with_reducible apply State.deferEvent_sound | with_reducible apply next_sound | with_reducible apply sound_ite | intro _ _ | split
    | with_reducible apply sound_mk | with_reducible refine Sound.parts ?_

theorem execLockUp_sound {f0 : Fuses} {s : State} (cut : Fin 8) (hs : Sound f0 s) :
    OutSound f0 (execLockUp cut s) := by
  unfold execLockUp
  repeat' first
    | with_reducible assumption | with_reducible apply State.when_sound | with_reducible apply warmReset_sound | with_reducible apply next_sound
    | with_reducible apply sound_ite | intro _ _ | split | with_reducible apply sound_mk | with_reducible refine Sound.parts ?_

theorem execDebugReset_sound {f0 : Fuses} {s : State} (hs : Sound f0 s) :
    OutSound f0 (execDebugReset s) :=
  next_sound (State.when_sound _ hs (State.hold_sound _ (stopped_sound (State.startStat_sound _ (State.orReg_sound _ _ (clearWorking_sound hs))))))

theorem execResetRelease_sound {f0 : Fuses} {s : State} (hs : Sound f0 s) :
    OutSound f0 (execResetRelease s) := by
  unfold execResetRelease
  dsimp only
  split
  · next r _ =>
    have h0 := State.startFault_sound (State.setDom_sound 0 .run hs)
    refine next_sound (sound_ite (State.raise_sound _ _ _ _ (sound_ite (enterRecovery_sound h0) ?_)) ?_)
    · exact h0
    · exact State.setDom_sound 1 .run h0
  · exact next_sound hs

theorem execFuseLoadComplete_sound {f0 : Fuses} {s : State} (retries : List (BitVec 16 × Fin 4)) (failed : Option (BitVec 16)) (hs : Sound f0 s) :
    OutSound f0 (execFuseLoadComplete retries failed s) := by
  unfold execFuseLoadComplete
  dsimp only
  repeat' first
    | with_reducible assumption | with_reducible apply State.orReg_sound | with_reducible apply State.raise_sound
    | with_reducible apply State.release_sound | with_reducible apply outSound_ite | with_reducible apply next_sound
    | with_reducible apply sound_ite | with_reducible apply sound_foldl | intro _ _ _ | intro _ _ | split | with_reducible apply sound_mk
    | with_reducible refine Sound.parts ?_

theorem execJournalResolve_sound {f0 : Fuses} {s : State} (hs : Sound f0 s) :
    OutSound f0 (execJournalResolve s) := by
  unfold execJournalResolve
  repeat' first
    | with_reducible assumption | with_reducible apply State.nvsResolve_sound | with_reducible apply State.nvsGo_sound
    | with_reducible apply resolved_sound | with_reducible apply outSound_ite | with_reducible apply next_sound | with_reducible apply sound_ite
    | intro _ _ | split | with_reducible apply sound_mk | with_reducible refine Sound.parts ?_

theorem execPllLock_sound {f0 : Fuses} {s : State} (hs : Sound f0 s) :
    OutSound f0 (execPllLock s) := by
  unfold execPllLock
  dsimp only
  repeat' first
    | with_reducible assumption | with_reducible apply State.orReg_sound | with_reducible apply State.release_sound
    | with_reducible apply outSound_ite | with_reducible apply next_sound | with_reducible apply sound_ite | intro _ _ | split
    | with_reducible apply sound_mk | with_reducible refine Sound.parts ?_

theorem execBundleVerify_sound {f0 : Fuses} {s : State} (hs : Sound f0 s) :
    OutSound f0 (execBundleVerify s) := by
  unfold execBundleVerify
  dsimp only
  repeat' first
    | with_reducible assumption | with_reducible apply runBundle_sound | with_reducible apply refuseBundle_sound | with_reducible apply outSound_ite
    | with_reducible apply next_sound | with_reducible apply sound_ite | intro _ _ | split | with_reducible apply sound_mk
    | with_reducible refine Sound.parts ?_

theorem execCorePowerUp_sound {f0 : Fuses} {s : State} (c : CoreId) (hs : Sound f0 s) :
    OutSound f0 (execCorePowerUp c s) := by
  unfold execCorePowerUp
  dsimp only
  repeat' first
    | with_reducible assumption | with_reducible apply State.when_sound | with_reducible apply State.release_sound
    | with_reducible apply autoBias_sound | with_reducible apply State.setCores_sound | with_reducible apply pwrSettle_sound
    | with_reducible apply restoreCore_sound | with_reducible apply next_sound | with_reducible apply sound_ite | intro _ _ | split
    | with_reducible apply sound_mk | with_reducible refine Sound.parts ?_

theorem execRollbackAdvance_sound {f0 : Fuses} {s : State} (hs : Sound f0 s) :
    OutSound f0 (execRollbackAdvance s) := by
  unfold execRollbackAdvance
  split
  · exact next_sound hs
  · exact next_sound (State.when_sound _ hs (blowRollback_sound _ hs))

theorem execWdtKick_sound {f0 : Fuses} {s : State} (who : Who) (v : W32) (hs : Sound f0 s) :
    OutSound f0 (execWdtKick who v s) := by
  unfold execWdtKick
  dsimp only
  repeat' first
    | with_reducible assumption | with_reducible apply State.access_sound | with_reducible apply State.when_sound | with_reducible apply next_sound
    | with_reducible apply sound_ite | intro _ _ | split | with_reducible apply sound_mk | with_reducible refine Sound.parts ?_

theorem execExit_sound {f0 : Fuses} {s : State} (who : Who) (key : Byte) (cut : Fin 8) (hs : Sound f0 s) :
    OutSound f0 (execExit who key cut s) := by
  unfold execExit
  dsimp only
  repeat' first
    | with_reducible assumption | with_reducible apply State.access_sound | with_reducible apply State.when_sound
    | with_reducible apply exitRecovery_sound | with_reducible apply next_sound | with_reducible apply sound_ite | intro _ _ | split
    | with_reducible apply sound_mk | with_reducible refine Sound.parts ?_

theorem execSet_sound {f0 : Fuses} {s : State} (who : Who) (hs : Sound f0 s) :
    OutSound f0 (execSet who s) :=
  next_sound (State.access_sound _ _ _ hs fun _ hu => hu)

theorem execFaultClear_sound {f0 : Fuses} {s : State} (who : Who) (hs : Sound f0 s) :
    OutSound f0 (execFaultClear who s) := by
  unfold execFaultClear
  dsimp only
  repeat' first
    | with_reducible assumption | with_reducible apply State.access_sound | with_reducible apply State.when_sound | with_reducible apply next_sound
    | with_reducible apply sound_ite | intro _ _ | split | with_reducible apply sound_mk | with_reducible refine Sound.parts ?_

theorem execBlockReset_sound {f0 : Fuses} {s : State} (who : Who) (d : Dom) (hs : Sound f0 s) :
    OutSound f0 (execBlockReset who d s) := by
  unfold execBlockReset
  dsimp only
  split
  · exact next_sound hs
  · next a b _ =>
    refine next_sound (State.access_sound _ _ _ hs fun t ht => ?_)
    have h1 := State.orReg_sound a (2 ^ b) ht
    exact sound_ite (authSync_sound _ (State.setDom_sound _ _ h1)) (sound_ite (State.setDom_sound _ _ h1) h1)

theorem execSeparatorDrained_sound {f0 : Fuses} {s : State} (d : Dom) (hs : Sound f0 s) :
    OutSound f0 (execSeparatorDrained d s) := by
  unfold execSeparatorDrained
  split
  · exact next_sound hs
  · exact next_sound (State.when_sound _ hs (State.setDom_sound _ _ (clearDom_sound _ hs)))

theorem execSeparatorTimeout_sound {f0 : Fuses} {s : State} (d : Dom) (cut : Fin 8) (hs : Sound f0 s) :
    OutSound f0 (execSeparatorTimeout d cut s) := by
  unfold execSeparatorTimeout
  repeat' first
    | with_reducible assumption | with_reducible apply State.when_sound | with_reducible apply warmReset_sound
    | with_reducible apply State.deferEvent_sound | with_reducible apply next_sound | with_reducible apply sound_ite | intro _ _ | split
    | with_reducible apply sound_mk | with_reducible refine Sound.parts ?_

theorem execBlockResetRelease_sound {f0 : Fuses} {s : State} (who : Who) (d : Dom) (hs : Sound f0 s) :
    OutSound f0 (execBlockResetRelease who d s) := by
  unfold execBlockResetRelease
  dsimp only
  split
  · exact next_sound hs
  · next a b _ =>
    refine next_sound (State.access_sound _ _ _ hs fun t ht => ?_)
    have h1 := State.clrReg_sound a (2 ^ b) ht
    exact sound_ite (State.setDom_sound _ _ h1) h1

theorem execGo_sound {f0 : Fuses} {s : State} (who : Who) (hs : Sound f0 s) :
    OutSound f0 (execGo who s) := by
  unfold execGo
  repeat' first
    | with_reducible assumption | with_reducible apply State.access_sound | with_reducible apply snapshot_sound | with_reducible apply next_sound
    | with_reducible apply sound_ite | intro _ _ | split | with_reducible apply sound_mk | with_reducible refine Sound.parts ?_

theorem execAonEntry_sound {f0 : Fuses} {s0 : State} (hs : Sound f0 s0) :
    OutSound f0 (execAonEntry s0) := by
  unfold execAonEntry
  dsimp only
  repeat' first
    | with_reducible assumption | with_reducible apply State.clrReg_sound | with_reducible apply State.nvsGo_sound
    | with_reducible apply endPower_sound | with_reducible apply pwrRefuse_sound | with_reducible apply enterAon_sound
    | with_reducible apply next_sound | with_reducible apply sound_ite | intro _ _ | split | with_reducible apply sound_mk
    | with_reducible refine Sound.parts ?_

theorem execCanWake_sound {f0 : Fuses} {s : State} (n : Fin 4) (hs : Sound f0 s) :
    OutSound f0 (execCanWake n s) :=
  next_sound (State.when_sound _ hs hs)

theorem execAlarmWake_sound {f0 : Fuses} {s : State} (hs : Sound f0 s) :
    OutSound f0 (execAlarmWake s) :=
  next_sound (State.when_sound _ hs hs)

theorem execWakePllLock_sound {f0 : Fuses} {s : State} (hs : Sound f0 s) :
    OutSound f0 (execWakePllLock s) := by
  unfold execWakePllLock
  dsimp only
  repeat' first
    | with_reducible assumption | with_reducible apply State.orReg_sound | with_reducible apply State.when_sound
    | with_reducible apply State.release_sound | with_reducible apply pwrSettle_sound | with_reducible apply wake_sound
    | with_reducible apply restoreImages_sound | with_reducible apply next_sound | with_reducible apply sound_ite | with_reducible apply sound_foldl
    | intro _ _ _ | intro _ _ | split | with_reducible apply sound_mk | with_reducible refine Sound.parts ?_

theorem execNop_sound {f0 : Fuses} {s : State} (q : Fin 4) (tag : W32) (hs : Sound f0 s) :
    OutSound f0 (execNop q tag s) := by
  unfold execNop
  repeat' first
    | with_reducible assumption | with_reducible apply State.finish_sound | with_reducible apply next_sound | with_reducible apply sound_ite
    | intro _ _ | split | with_reducible apply sound_mk | with_reducible refine Sound.parts ?_

theorem execCopy_sound {f0 : Fuses} {s : State} (q : Fin 4) (tag : W32) (hs : Sound f0 s) :
    OutSound f0 (execCopy q tag s) := by
  unfold execCopy
  repeat' first
    | with_reducible assumption | with_reducible apply State.when_sound | with_reducible apply startCopy_sound | with_reducible apply next_sound
    | with_reducible apply sound_ite | intro _ _ | split | with_reducible apply sound_mk | with_reducible refine Sound.parts ?_

theorem execChurn_sound {f0 : Fuses} {s : State} (q : Fin 4) (tag : W32) (hs : Sound f0 s) :
    OutSound f0 (execChurn q tag s) := by
  unfold execChurn
  dsimp only
  repeat' first
    | with_reducible assumption | with_reducible apply askChurn_sound | with_reducible apply next_sound | with_reducible apply sound_ite | intro _ _
    | split | with_reducible apply sound_mk | with_reducible refine Sound.parts ?_

theorem execTest_sound {f0 : Fuses} {s : State} (q : Fin 4) (tag : W32) (hs : Sound f0 s) :
    OutSound f0 (execTest q tag s) := by
  unfold execTest
  dsimp only
  repeat' first
    | with_reducible assumption | with_reducible apply askTest_sound | with_reducible apply next_sound | with_reducible apply sound_ite | intro _ _
    | split | with_reducible apply sound_mk | with_reducible refine Sound.parts ?_

theorem execPower_sound {f0 : Fuses} {s : State} (q : Fin 4) (tag : W32) (hs : Sound f0 s) :
    OutSound f0 (execPower q tag s) := by
  unfold execPower
  dsimp only
  repeat' first
    | with_reducible assumption | with_reducible apply State.finish_sound | with_reducible apply pwrSettle_sound
    | with_reducible apply powerWrite_sound | with_reducible apply next_sound | with_reducible apply sound_ite | intro _ _ | split
    | with_reducible apply sound_mk | with_reducible refine Sound.parts ?_

theorem execQuote_sound {f0 : Fuses} {s : State} (q : Fin 4) (tag : W32) (hostOk : Bool) (hs : Sound f0 s) :
    OutSound f0 (execQuote q tag hostOk s) := by
  unfold execQuote
  dsimp only
  repeat' first
    | with_reducible assumption | with_reducible apply State.hostWrite_sound | with_reducible apply State.raise_sound
    | with_reducible apply State.finish_sound | with_reducible apply next_sound | with_reducible apply sound_ite | intro _ _ | split
    | with_reducible apply sound_mk | with_reducible refine Sound.parts ?_

theorem execPortcfg_sound {f0 : Fuses} {s : State} (q : Fin 4) (tag : W32) (hs : Sound f0 s) :
    OutSound f0 (execPortcfg q tag s) := by
  unfold execPortcfg
  repeat' first
    | with_reducible assumption | with_reducible apply State.writeSplit_sound | with_reducible apply State.finish_sound
    | with_reducible apply next_sound | with_reducible apply sound_ite | intro _ _ | split | with_reducible apply sound_mk
    | with_reducible refine Sound.parts ?_

theorem execCqHeadWrite_sound {f0 : Fuses} {s : State} (q : Fin 4) (v : W32) (hs : Sound f0 s) :
    OutSound f0 (execCqHeadWrite q v s) :=
  next_sound (State.access_sound _ _ _ hs fun _ hu => hu)

theorem execLinkDown_sound {f0 : Fuses} {s : State} (port : Fin 2) (hs : Sound f0 s) :
    OutSound f0 (execLinkDown port s) := by
  unfold execLinkDown
  repeat' first
    | with_reducible assumption | with_reducible apply State.clrReg_sound | with_reducible apply State.when_sound
    | with_reducible apply portReset_sound | with_reducible apply next_sound | with_reducible apply sound_ite | intro _ _ | split
    | with_reducible apply sound_mk | with_reducible refine Sound.parts ?_

theorem execHostMemoryRead_sound {f0 : Fuses} {s : State} (port : Fin 2) (bar4 : Bool) (off : BitVec 36) (len : Nat) (hs : Sound f0 s) :
    OutSound f0 (execHostMemoryRead port bar4 off len s) := by
  unfold execHostMemoryRead
  dsimp only
  repeat' first
    | with_reducible assumption | with_reducible apply State.hstRefuse_sound | with_reducible apply State.when_sound
    | with_reducible apply State.hostGot_sound | with_reducible apply hostReadBody_sound | with_reducible apply next_sound
    | with_reducible apply sound_ite | intro _ _ | split | with_reducible apply sound_mk | with_reducible refine Sound.parts ?_

theorem execHostMemoryWrite_sound {f0 : Fuses} {s : State} (port : Fin 2) (bar4 : Bool) (off : BitVec 36) (data : List Byte) (hs : Sound f0 s) :
    OutSound f0 (execHostMemoryWrite port bar4 off data s) := by
  unfold execHostMemoryWrite
  dsimp only
  repeat' first
    | with_reducible assumption | with_reducible apply State.orReg_sound | with_reducible apply State.hstRefuse_sound
    | with_reducible apply State.wdrop_sound | with_reducible apply State.when_sound | with_reducible apply hostPoison_sound
    | with_reducible apply hostPut_sound | with_reducible apply next_sound | with_reducible apply sound_ite | intro _ _ | split
    | with_reducible apply sound_mk | with_reducible refine Sound.parts ?_

theorem execRevoke_sound {f0 : Fuses} {s : State} (who : Who) (slot : Fin 4) (hs : Sound f0 s) :
    OutSound f0 (execRevoke who slot s) := by
  unfold execRevoke
  dsimp only
  refine next_sound (State.access_sound _ _ _ hs fun t ht => ?_)
  by_cases hall : t.fus.revoked ||| BitVec.ofNat 4 (2 ^ slot.val) = 15#4
  · simp only [hall, beq_self_eq_true, Bool.or_true, if_true]
    exact State.raise_sound _ _ _ _ ht
  · refine sound_ite (State.raise_sound _ _ _ _ ht) ?_
    obtain ⟨⟨hk, hu, hi, hd, hr, hv, hm, hx, hq⟩, -, hmem⟩ := ht
    refine ⟨⟨hk, hu, hi, hd, hr, fun i h => ?_, hm, hx, hq⟩, ?_, hmem⟩
    · exact (bit_or_slot _ _ _).trans (by simp [hv i h])
    · rw [eq_allSlots_iff, not_forall] at hall
      obtain ⟨i, hf⟩ := hall
      exact ⟨i, Bool.eq_false_iff.mpr hf⟩

theorem execMrevoke_sound {f0 : Fuses} {s : State} (who : Who) (hs : Sound f0 s) :
    OutSound f0 (execMrevoke who s) := by
  unfold execMrevoke
  dsimp only
  refine next_sound (State.access_sound _ _ _ hs fun t ht => ?_)
  obtain ⟨⟨hk, hu, hi, hd, hr, hv, hm, -, hq⟩, hfree, hmem⟩ := ht
  exact ⟨⟨hk, hu, hi, hd, hr, hv, hm, fun _ => rfl, hq⟩, hfree, hmem⟩

theorem execLock_sound {f0 : Fuses} {s : State} (who : Who) (hs : Sound f0 s) :
    OutSound f0 (execLock who s) :=
  next_sound (State.access_sound _ _ _ hs fun _ hu => hu)

theorem execMkeyProg_sound {f0 : Fuses} {s : State} (who : Who) (hs : Sound f0 s) :
    OutSound f0 (execMkeyProg who s) := by
  unfold execMkeyProg
  dsimp only
  refine next_sound (State.access_sound _ _ _ hs fun t ht => ?_)
  obtain ⟨⟨hk, hu, hi, hd, hr, hv, hm, hx, hq⟩, hfree, hmem⟩ := ht
  split
  · exact ⟨⟨hk, hu, hi, hd, hr, hv, hm, hx, hq⟩, hfree, hmem⟩
  · next hn => exact ⟨⟨hk, hu, hi, hd, hr, hv, fun k h => absurd (hm k h) (by simp [hn]), hx, hq⟩, hfree, hmem⟩

theorem execSetreq_sound {f0 : Fuses} {s : State} (who : Who) (hs : Sound f0 s) :
    OutSound f0 (execSetreq who s) := by
  unfold execSetreq
  dsimp only
  refine next_sound (State.access_sound _ _ _ hs fun t ht => ?_)
  obtain ⟨⟨hk, hu, hi, hd, hr, hv, hm, hx, -⟩, hfree, hmem⟩ := ht
  exact ⟨⟨hk, hu, hi, hd, hr, hv, hm, hx, fun _ => rfl⟩, hfree, hmem⟩

theorem execDebugChallenge_sound {f0 : Fuses} {s : State} (who : Who) (chal : BitVec 256) (hs : Sound f0 s) :
    OutSound f0 (execDebugChallenge who chal s) := by
  unfold execDebugChallenge
  dsimp only
  repeat' first
    | with_reducible assumption | with_reducible apply State.access_sound | with_reducible apply next_sound | with_reducible apply sound_ite
    | intro _ _ | split | with_reducible apply sound_mk | with_reducible refine Sound.parts ?_

theorem execDebugLock_sound {f0 : Fuses} {s : State} (who : Who) (hs : Sound f0 s) :
    OutSound f0 (execDebugLock who s) :=
  next_sound (State.access_sound _ _ _ hs fun _ hu => hu)

theorem execRegisterWrite_sound {f0 : Fuses} {s : State} (who : Who) (addr : BarAddr) (v : W32) (hs : Sound f0 s) :
    OutSound f0 (execRegisterWrite who addr v s) := by
  unfold execRegisterWrite
  dsimp only
  repeat' first
    | with_reducible assumption | with_reducible apply State.hstRefuse_sound | with_reducible apply State.access_sound
    | with_reducible apply State.when_sound | with_reducible apply registerWrite_sound | with_reducible apply next_sound
    | with_reducible apply sound_ite | intro _ _ | split | with_reducible apply sound_mk | with_reducible refine Sound.parts ?_

theorem execLowerWordRead_sound {f0 : Fuses} {s : State} (who : Who) (addr : BarAddr) (hs : Sound f0 s) :
    OutSound f0 (execLowerWordRead who addr s) := by
  unfold execLowerWordRead
  dsimp only
  repeat' first
    | with_reducible assumption | with_reducible apply State.hstRefuse_sound | with_reducible apply State.when_sound
    | with_reducible apply readLower_sound | with_reducible apply next_sound | with_reducible apply sound_ite | intro _ _ | split
    | with_reducible apply sound_mk | with_reducible refine Sound.parts ?_

theorem execFrameCrcFail_sound {f0 : Fuses} {s : State} (p : Fin 8) (hs : Sound f0 s) :
    OutSound f0 (execFrameCrcFail p s) :=
  next_sound (State.when_sound _ hs hs)

theorem execPcieLinkUp_sound {f0 : Fuses} {s : State} (port : Fin 2) (width : Fin 9) (speed : Fin 5) (hs : Sound f0 s) :
    OutSound f0 (execPcieLinkUp port width speed s) :=
  next_sound (State.when_sound _ hs hs)

theorem execCrystalLock_sound {f0 : Fuses} {s : State} (hs : Sound f0 s) :
    OutSound f0 (execCrystalLock s) :=
  next_sound (State.when_sound _ hs hs)

theorem execCorePowerDown_sound {f0 : Fuses} {s : State} (c : CoreId) (hs : Sound f0 s) :
    OutSound f0 (execCorePowerDown c s) := by
  unfold execCorePowerDown
  dsimp only
  repeat' first
    | with_reducible assumption | with_reducible apply State.clrReg_sound | with_reducible apply State.when_sound
    | with_reducible apply endPower_sound | with_reducible apply State.setCores_sound | with_reducible apply pwrSettle_sound
    | with_reducible apply pwrRefuse_sound | with_reducible apply coreOff_sound | with_reducible apply next_sound | with_reducible apply sound_ite
    | intro _ _ | split | with_reducible apply sound_mk | with_reducible refine Sound.parts ?_

theorem execD3hotChange_sound {f0 : Fuses} {s : State} (port : Fin 2) (w : CfgWrite) (hs : Sound f0 s) :
    OutSound f0 (execD3hotChange port w s) := by
  unfold execD3hotChange
  dsimp only
  repeat' first
    | with_reducible assumption | with_reducible apply State.setFld_sound | with_reducible apply State.msix_sound
    | with_reducible apply State.when_sound | with_reducible apply sendUnmasked_sound | with_reducible apply next_sound
    | with_reducible apply sound_ite | intro _ _ | split | with_reducible apply sound_mk | with_reducible refine Sound.parts ?_

/-! ## Every command, and every step -/

/-- Every command keeps what is sound: an instruction its context's issue and body, an access, a condition and an event what their operations
keep. -/
theorem exec_sound {f0 : Fuses} {s : State} (c : Instr) (hs : Sound f0 s) : OutSound f0 (exec c s) := by
  cases c
  case add | sub | mul | mulh | and | or | xor | shl | shr | sra | min | max | li | cmp | plog | dbase =>
    exact issue_sound hs fun _ hu => State.setCtx_sound (hs := hu) ..
  case vew | vred | vsmax | vnorm | vfn | vtopk | vsort | vnms =>
    exact issue_sound hs fun _ hu => vecBody_sound (hs := hu) ..
  case biasfail | mrSweepLate | sysclkMissingTimeout | releasePendingTimeout | xtalStop =>
    exact next_sound (State.when_sound _ hs (State.raise_sound (hs := hs) ..))
  case thermtripAssert | thermtripDeassert | vprogRecover =>
    exact next_sound hs
  case b | jr =>
    exact issue_sound hs fun _ hu => branch_sound (hs := hu) ..
  case call | callr =>
    exact issue_sound hs fun _ hu => branch_sound (hs := linkTo_sound (hs := hu) ..) ..
  case ld | dld =>
    exact issue_sound hs fun _ hu => loadIssue_sound (hs := hu) ..
  case st | dst =>
    exact issue_sound hs fun _ hu => storeIssue_sound (hs := hu) ..
  case gath | scat =>
    exact issue_sound hs fun _ hu => gatherBody_sound (hs := hu) ..
  case crc | dig =>
    exact issue_sound hs fun _ hu => scanBody_sound (hs := hu) ..
  case loadPress | loadAttach =>
    exact next_sound (runLoad_sound (hs := hs) ..)
  case msrTimerTrigger | msrEdgeTrigger =>
    exact next_sound (State.when_sound _ hs (trigger_sound (hs := hs) ..))
  case msrCalZero | msrCalFull =>
    exact next_sound (State.access_sound _ _ _ hs fun _ hu => (calStep_sound (hs := hu) ..))
  case vfieldLow | vfieldRecover =>
    exact next_sound (safeSync_sound (hs := hs) ..)
  case hotReset | functionLevelReset =>
    exact next_sound (portReset_sound (hs := hs) ..)
  case boot | reload =>
    exact next_sound (State.access_sound _ _ _ hs fun _ hu => (mbxCommand_sound (hs := hu) ..))
  case mvx =>
    exact issue_sound hs fun _ hu => mvxBody_sound (hs := hu) ..
  case skm =>
    exact issue_sound hs fun _ hu => skmBody_sound (hs := hu) ..
  case accOpen =>
    exact issue_sound hs fun _ hu => openBody_sound (hs := hu) ..
  case accDrain =>
    exact outSound_ite (next_sound hs) (issue_sound hs fun _ hu => drainBody_sound (hs := hu) ..)
  case accDrainPartial =>
    exact outSound_ite (next_sound hs) (issue_sound hs fun _ hu => partialBody_sound (hs := hu) ..)
  case accRest =>
    exact outSound_ite (next_sound hs) (issue_sound hs fun _ hu => restBody_sound (hs := hu) ..)
  case accRestMerge =>
    exact outSound_ite (next_sound hs) (issue_sound hs fun _ hu => mergeBody_sound (hs := hu) ..)
  case ostCfg =>
    exact issue_sound hs fun _ hu => ostBody_sound (hs := hu) ..
  case mov =>
    exact issue_sound hs fun _ hu => movBody_sound (hs := hu) ..
  case warp =>
    exact issue_sound hs fun _ hu => warpBody_sound (hs := hu) ..
  case fenceComplete =>
    exact next_sound (sound_ite (State.setCtx_sound (hs := hs) ..) hs)
  case arrayPhaseStart =>
    exact next_sound (State.when_sound _ hs (phaseStart_sound (hs := hs) ..))
  case chainReduce =>
    exact next_sound (State.when_sound _ hs (reduceFirst_sound (hx5 := hs) ..))
  case biasUp =>
    exact next_sound (State.access_sound _ _ _ hs fun _ hu => (sound_ite (State.setArr_sound (hs := hu) ..) hu))
  case biasSettled =>
    exact next_sound (State.when_sound _ hs (firstDue_sound (hs := hs) ..))
  case park =>
    exact next_sound (State.access_sound _ _ _ hs fun _ hu => (sound_ite (parkCheck_sound (hs := hu) ..) hu))
  case churnDue =>
    exact next_sound (State.when_sound _ hs (makeDue_sound (hs := hs) ..))
  case idleWindowOpen =>
    exact next_sound (openWindow_sound (hs := hs) ..)
  case class1ChurnStart =>
    exact next_sound (State.when_sound _ hs (beginChurn_sound (hs0 := hs) ..))
  case chnReq =>
    exact next_sound (State.access_sound _ _ _ hs fun _ hu => (askChurn_sound (hs := hu) ..))
  case reloadStart =>
    exact next_sound (State.when_sound _ hs (reloadStart_sound (hs := hs) ..))
  case reloadRateExpiry =>
    exact next_sound (State.when_sound _ hs (sound_ite hs (reloadStart_sound (hs := hs) ..)))
  case start =>
    exact next_sound (State.access_sound _ _ _ hs fun _ hu => (ctxStart_sound (hs := hu) ..))
  case preempt =>
    exact next_sound (State.access_sound _ _ _ hs fun _ hu => (ctxPreempt_sound (hs := hu) ..))
  case resume =>
    exact next_sound (State.access_sound _ _ _ hs fun _ hu => (ctxResumeCmd_sound (hs := hu) ..))
  case stop =>
    exact next_sound (State.access_sound _ _ _ hs fun _ hu => (ctxStop_sound (hs := hu) ..))
  case stopComplete =>
    exact next_sound (sound_ite (State.freeTiles_sound (hs := hs) ..) hs)
  case syncCounterAdd =>
    exact next_sound (State.access_sound _ _ _ hs fun _ hu => (sound_ite (State.addSync_sound (hs := hu) ..) hu))
  case doneEntryFree =>
    exact next_sound (doneAgain_sound (hs := hs) ..)
  case gateDeadline =>
    exact next_sound (deadlineClose_sound (hs := hs) ..)
  case outputEntryWrite =>
    exact next_sound (writeOut_sound (hx2 := hs) ..)
  case streamUnbind =>
    exact next_sound (State.access_sound _ _ _ hs fun _ hu => (strmCfgWrite_sound (hs := hu) ..))
  case dramPatrolTick =>
    exact next_sound (State.when_sound _ hs (scrubLine_sound (hs := hs) ..))
  case intakeRecordEnable =>
    exact next_sound (State.access_sound _ _ _ hs fun _ hu => (recordWrite_sound (hs := hu) ..))
  case dmaGo =>
    exact next_sound (State.access_sound _ _ _ hs fun _ hu => (sound_ite (dmaStart_sound (hs := (State.putMasked_sound (hs := hu) ..)) ..) (State.putMasked_sound (hs := hu) ..)))
  case tstTreq =>
    exact next_sound (State.access_sound _ _ _ hs fun _ hu => (sound_ite (askTest_sound (hs := hu) ..) hu))
  case portTrainTimeout =>
    exact next_sound (State.when_sound _ hs (State.raiseIf_sound (hs := hs) ..))
  case identityExchange =>
    exact next_sound (State.when_sound _ hs (sound_ite (State.raise_sound (hs := hs) ..) hs))
  case replayExhausted =>
    exact next_sound (State.when_sound _ hs (portFail_sound (hs := hs) ..))
  case hlkIdWrite =>
    exact next_sound (State.access_sound _ _ _ hs fun _ hu => (sound_ite (State.putMasked_sound (hs := hu) ..) hu))
  case collectiveSubmit =>
    exact next_sound (State.access_sound _ _ _ hs fun _ hu => (sound_ite (takeColls_sound (hx1 := hu) ..) hu))
  case conflictWindowEnd =>
    exact next_sound (State.when_sound _ hs (authSync_sound (hs := hs) ..))
  case claim =>
    exact next_sound (State.access_sound _ _ _ hs fun _ hu => (sound_ite (State.onPair_sound (hs := hu) ..) hu))
  case release =>
    exact next_sound (State.access_sound _ _ _ hs fun _ hu => (sound_ite (dropPrim_sound (hs := hu) ..) (toFenced_sound (hs := hu) ..)))
  case rejoin =>
    exact next_sound (State.access_sound _ _ _ hs fun _ hu => (sound_ite (toJoining_sound (hs := hu) ..) hu))
  case heartbeatTick =>
    exact next_sound (State.when_sound _ hs (missPart_sound (hs := (kickPart_sound (hs := hs) ..)) ..))
  case takeoverFenceTimeout =>
    exact next_sound (State.when_sound _ hs (event508_sound (hs := (toFenced_sound (hs := hs) ..)) ..))
  case mirrorAckTimeout =>
    exact next_sound (State.when_sound _ hs (State.raise_sound (hs := (freeMirrored_sound (hs := hs) ..)) ..))
  case hlkAuthwWrite =>
    exact next_sound (State.access_sound _ _ _ hs fun _ hu => (sound_ite (authWord_sound (hs := hu) ..) hu))
  case msrEnable =>
    exact next_sound (State.access_sound _ _ _ hs fun _ hu => (ctlWrite_sound (hs := hu) ..))
  case msrDisable =>
    exact next_sound (State.access_sound _ _ _ hs fun _ hu => (sound_ite (disable_sound (hs := hu) ..) hu))
  case msrSoftTrigger =>
    exact next_sound (State.access_sound _ _ _ hs fun _ hu => (sound_ite (trigger_sound (hs := hu) ..) hu))
  case msrDelayEnd =>
    exact next_sound (State.when_sound _ hs (passBegin_sound (hs := hs) ..))
  case msrUrgent =>
    exact next_sound (State.access_sound _ _ _ hs fun _ hu => (urgent_sound (hs := hu) ..))
  case msrRptrWrite =>
    exact next_sound (State.access_sound _ _ _ hs fun _ hu => (State.putMasked_sound (hs := hu) ..))
  case stopNDeassertAccept =>
    exact next_sound (State.when_sound _ hs (safeSync_sound (hs := hs) ..))
  case force =>
    exact next_sound (State.access_sound _ _ _ hs fun _ hu => (safeSync_sound (hs := hu) ..))
  case clear =>
    exact next_sound (State.access_sound _ _ _ hs fun _ hu => (sound_ite hu (safeSync_sound (hs := hu) ..)))
  case aoLimitChange =>
    exact next_sound (State.when_sound _ hs (statBit_sound (hs := (statBit_sound (hs := hs) ..)) ..))
  case excLimit =>
    exact next_sound (State.when_sound _ hs (statBit_sound (hs := hs) ..))
  case flush =>
    exact next_sound (State.access_sound _ _ _ hs fun _ hu => (canDiscard_sound (hs0 := hu) ..))
  case recover =>
    exact next_sound (State.access_sound _ _ _ hs fun _ hu => (sound_ite (State.setCan_sound (hs := hu) ..) hu))
  case nvsRead =>
    exact next_sound (State.access_sound _ _ _ hs fun _ hu => (nvsReadEff_sound (hs := hu) ..))
  case nvsWrite =>
    exact next_sound (State.access_sound _ _ _ hs fun _ hu => (nvsWriteEff_sound (hs := hu) ..))
  case brownoutWarningAssert =>
    exact next_sound (stopSave_sound (hs := hs) ..)
  case ok =>
    exact next_sound (State.access_sound _ _ _ hs fun _ hu => (sound_ite (startOk_sound (hs := hu) ..) hu))
  case clockGood =>
    exact next_sound (State.when_sound _ hs (released_sound (hs := hs) ..))
  case pwrTargetWrite =>
    exact next_sound (State.access_sound _ _ _ hs fun _ hu => (pwrSettle_sound (hs := (powerWrite_sound (hs := hu) ..)) ..))
  case sqDoorbell =>
    exact next_sound (State.access_sound _ _ _ hs fun _ hu => (doorbell_sound (hs := hu) ..))
  case commandCompletion =>
    exact next_sound (writeCompletion_sound (hs := hs) ..)
  case eqHeadWrite =>
    exact next_sound (State.access_sound _ _ _ hs fun _ hu => (State.lossRec_sound (hs := hu) ..))
  case queueConfigWrite =>
    exact next_sound (State.access_sound _ _ _ hs fun _ hu => (queueConfig_sound (hs := hu) ..))
  case mailboxBundleRead =>
    exact next_sound (State.when_sound _ hs (mailboxBundle_sound (hs := hs) ..))
  case submit =>
    exact next_sound (State.access_sound _ _ _ hs fun _ hu => (submitEff_sound (hs := hu) ..))
  case intakeLockChange =>
    exact next_sound (State.when_sound _ hs (sound_ite (State.orReg_sound (hs := hs) ..) hs))
  case loop => exact execLoop_sound _ _ hs
  case accClose => exact execAccClose_sound _ _ hs
  case accSave => exact execAccSave_sound _ _ hs
  case sig => exact execSig_sound _ _ hs
  case wait => exact execWait_sound _ _ hs
  case relTake => exact execRelTake_sound _ _ hs
  case relJoin => exact execRelJoin_sound _ _ hs
  case relDone => exact execRelDone_sound _ _ hs
  case cantx => exact execCantx_sound _ _ hs
  case canrx => exact execCanrx_sound _ _ hs
  case aow => exact execAow_sound _ _ hs
  case pwmw => exact execPwmw_sound _ _ hs
  case mrd => exact execMrd_sound _ _ hs
  case fence => exact execFence_sound _ _ hs
  case churnReq => exact execChurnReq_sound _ _ hs
  case testReq => exact execTestReq_sound _ _ hs
  case yield => exact execYield_sound _ _ hs
  case halt => exact execHalt_sound _ _ hs
  case trap => exact execTrap_sound _ _ hs
  case loadDataReturn => exact execLoadDataReturn_sound _ _ hs
  case yieldExpiry => exact execYieldExpiry_sound _ hs
  case stallRelease => exact execStallRelease_sound _ hs
  case arrayPhaseEnd => exact execArrayPhaseEnd_sound _ _ hs
  case adderTreeSum => exact execAdderTreeSum_sound _ hs
  case skimLaneGrant => exact execSkimLaneGrant_sound _ hs
  case skimResultReady => exact execSkimResultReady_sound _ _ hs
  case arrayStageCombine => exact execArrayStageCombine_sound _ _ hs
  case accCloseComplete => exact execAccCloseComplete_sound _ _ hs
  case accDrainComplete => exact execAccDrainComplete_sound _ _ hs
  case accSaveComplete => exact execAccSaveComplete_sound _ hs
  case arrCfgWrite => exact execArrCfgWrite_sound _ _ _ hs
  case arrClrCnt => exact execArrClrCnt_sound _ _ hs
  case arrChkClr => exact execArrChkClr_sound _ _ _ hs
  case skmConfigWrite => exact execSkmConfigWrite_sound _ _ _ _ hs
  case skmClrCnt => exact execSkmClrCnt_sound _ _ hs
  case accPartWrite => exact execAccPartWrite_sound _ _ _ hs
  case accClrCnt => exact execAccClrCnt_sound _ _ hs
  case tempSample => exact execTempSample_sound _ _ hs
  case lightChurnProbesEnd => exact execLightChurnProbesEnd_sound _ _ hs
  case lightChurnUpdate => exact execLightChurnUpdate_sound _ hs
  case fullChurnUnitEnd => exact execFullChurnUnitEnd_sound _ _ hs
  case fullChurnFit => exact execFullChurnFit_sound _ _ _ hs
  case fullChurnRestart => exact execFullChurnRestart_sound _ hs
  case churnLate => exact execChurnLate_sound _ _ hs
  case churnRequestDeadline => exact execChurnRequestDeadline_sound _ _ hs
  case churnRequestComplete => exact execChurnRequestComplete_sound _ _ hs
  case chnClrCnt => exact execChnClrCnt_sound _ _ hs
  case pressArrayStart => exact execPressArrayStart_sound _ hs
  case pressVerifyRead => exact execPressVerifyRead_sound _ _ hs
  case pressArrayEnd => exact execPressArrayEnd_sound _ hs
  case vprogLow => exact execVprogLow_sound hs
  case loadVerify => exact execLoadVerify_sound hs
  case unload => exact execUnload_sound _ _ hs
  case prsCfgWrite => exact execPrsCfgWrite_sound _ _ hs
  case prsRldReq => exact execPrsRldReq_sound _ _ hs
  case preemptComplete => exact execPreemptComplete_sound _ hs
  case resumeComplete => exact execResumeComplete_sound _ hs
  case haltComplete => exact execHaltComplete_sound _ hs
  case seqCtxAddrWrite => exact execSeqCtxAddrWrite_sound _ _ _ _ hs
  case mapWrite => exact execMapWrite_sound _ _ _ hs
  case waitSatisfied => exact execWaitSatisfied_sound _ hs
  case waitTimeout => exact execWaitTimeout_sound _ hs
  case syncCounterSet => exact execSyncCounterSet_sound _ _ _ hs
  case streamArrive => exact execStreamArrive_sound _ _ hs
  case relWaitComplete => exact execRelWaitComplete_sound _ hs
  case intOutTailWrite => exact execIntOutTailWrite_sound _ _ _ hs
  case engineInstructionStart => exact execEngineInstructionStart_sound _ _ hs
  case engineInstructionDone => exact execEngineInstructionDone_sound _ _ hs
  case scanComplete => exact execScanComplete_sound _ hs
  case scrubTick => exact execScrubTick_sound hs
  case tnkClrCnt => exact execTnkClrCnt_sound _ hs
  case csiFrameStart => exact execCsiFrameStart_sound _ _ hs
  case csiLongPacket => exact execCsiLongPacket_sound _ _ _ _ _ _ hs
  case csiFrameEnd => exact execCsiFrameEnd_sound _ _ hs
  case ethFrame => exact execEthFrame_sound _ _ hs
  case intakeTimeout => exact execIntakeTimeout_sound _ hs
  case dmaCopyComplete => exact execDmaCopyComplete_sound _ hs
  case mrSweepDue => exact execMrSweepDue_sound hs
  case mrUnitStart => exact execMrUnitStart_sound _ hs
  case mrUnitEnd => exact execMrUnitEnd_sound _ hs
  case mrTestComplete => exact execMrTestComplete_sound _ _ hs
  case mrTestExpiry => exact execMrTestExpiry_sound _ hs
  case testRequestDeadline => exact execTestRequestDeadline_sound _ _ hs
  case tstHealthClear => exact execTstHealthClear_sound _ _ hs
  case tstHop => exact execTstHop_sound _ _ hs
  case tstBp => exact execTstBp_sound _ _ hs
  case tstFsat => exact execTstFsat_sound _ _ hs
  case tstCinv => exact execTstCinv_sound _ _ hs
  case tstNvse => exact execTstNvse_sound _ _ hs
  case tstDigc => exact execTstDigc_sound _ _ hs
  case tstPrsf => exact execTstPrsf_sound _ _ hs
  case disarm => exact execDisarm_sound _ hs
  case portEnable => exact execPortEnable_sound _ _ hs
  case linkAck => exact execLinkAck_sound _ _ hs
  case replayRequest => exact execReplayRequest_sound _ _ hs
  case collectiveStart => exact execCollectiveStart_sound _ hs
  case chunkData => exact execChunkData_sound _ _ hs
  case chunkAck => exact execChunkAck_sound _ _ hs
  case resendRequest => exact execResendRequest_sound _ _ hs
  case collectiveComplete => exact execCollectiveComplete_sound _ hs
  case collectiveTimeout => exact execCollectiveTimeout_sound _ hs
  case hlkClrCnt => exact execHlkClrCnt_sound _ hs
  case peerPrimaryChange => exact execPeerPrimaryChange_sound _ hs
  case primaryAssert => exact execPrimaryAssert_sound hs
  case pairCfgWrite => exact execPairCfgWrite_sound _ _ hs
  case kick => exact execKick_sound _ hs
  case heartbeat => exact execHeartbeat_sound _ hs
  case pairJoinTimeout => exact execPairJoinTimeout_sound hs
  case takeoverComplete => exact execTakeoverComplete_sound hs
  case mirrorRecord => exact execMirrorRecord_sound _ hs
  case mirrorAck => exact execMirrorAck_sound _ _ hs
  case arrivalKey => exact execArrivalKey_sound _ _ _ hs
  case realignNotice => exact execRealignNotice_sound _ _ hs
  case lockstepCopy => exact execLockstepCopy_sound _ _ _ hs
  case msrRefReady => exact execMsrRefReady_sound _ hs
  case msrResult => exact execMsrResult_sound _ _ _ hs
  case msrClrCnt => exact execMsrClrCnt_sound _ _ hs
  case msrCalSave => exact execMsrCalSave_sound _ hs
  case msrCalStepComplete => exact execMsrCalStepComplete_sound _ _ hs
  case msrConfigWrite => exact execMsrConfigWrite_sound _ _ _ _ hs
  case stopNAssertAccept => exact execStopNAssertAccept_sound hs
  case aoUpdateTick => exact execAoUpdateTick_sound hs
  case aoDeglitchTransfer => exact execAoDeglitchTransfer_sound _ hs
  case aoRateWrite => exact execAoRateWrite_sound _ _ hs
  case pwmPeriodStart => exact execPwmPeriodStart_sound _ hs
  case pwmActiveEnd => exact execPwmActiveEnd_sound _ hs
  case captureEdge => exact execCaptureEdge_sound _ _ _ hs
  case captureTimeout => exact execCaptureTimeout_sound _ hs
  case canTxComplete => exact execCanTxComplete_sound _ _ hs
  case canRxFrame => exact execCanRxFrame_sound _ _ hs
  case canBusOffRecovery => exact execCanBusOffRecovery_sound _ hs
  case canConfigWrite => exact execCanConfigWrite_sound _ _ _ _ hs
  case nvsPageWriteComplete => exact execNvsPageWriteComplete_sound hs
  case nvsClrCnt => exact execNvsClrCnt_sound _ hs
  case logTokenTick => exact execLogTokenTick_sound hs
  case brownoutWarningDeassert => exact execBrownoutWarningDeassert_sound hs
  case powerOn => exact execPowerOn_sound _ hs
  case brownoutAon => exact execBrownoutAon_sound _ hs
  case brownoutCore => exact execBrownoutCore_sound _ _ hs
  case resetNAssert => exact execResetNAssert_sound _ hs
  case watchdogExpiry => exact execWatchdogExpiry_sound _ hs
  case startTimeout => exact execStartTimeout_sound _ hs
  case all => exact execAll_sound _ _ _ hs
  case clockFailure => exact execClockFailure_sound _ hs
  case lockUp => exact execLockUp_sound _ hs
  case debugReset => exact execDebugReset_sound hs
  case resetRelease => exact execResetRelease_sound hs
  case fuseLoadComplete => exact execFuseLoadComplete_sound _ _ hs
  case journalResolve => exact execJournalResolve_sound hs
  case pllLock => exact execPllLock_sound hs
  case bundleVerify => exact execBundleVerify_sound hs
  case corePowerUp => exact execCorePowerUp_sound _ hs
  case rollbackAdvance => exact execRollbackAdvance_sound hs
  case wdtKick => exact execWdtKick_sound _ _ hs
  case exit => exact execExit_sound _ _ _ hs
  case set => exact execSet_sound _ hs
  case faultClear => exact execFaultClear_sound _ hs
  case blockReset => exact execBlockReset_sound _ _ hs
  case separatorDrained => exact execSeparatorDrained_sound _ hs
  case separatorTimeout => exact execSeparatorTimeout_sound _ _ hs
  case blockResetRelease => exact execBlockResetRelease_sound _ _ hs
  case go => exact execGo_sound _ hs
  case aonEntry => exact execAonEntry_sound hs
  case canWake => exact execCanWake_sound _ hs
  case alarmWake => exact execAlarmWake_sound hs
  case wakePllLock => exact execWakePllLock_sound hs
  case nop => exact execNop_sound _ _ hs
  case copy => exact execCopy_sound _ _ hs
  case churn => exact execChurn_sound _ _ hs
  case test => exact execTest_sound _ _ hs
  case power => exact execPower_sound _ _ hs
  case quote => exact execQuote_sound _ _ _ hs
  case portcfg => exact execPortcfg_sound _ _ hs
  case cqHeadWrite => exact execCqHeadWrite_sound _ _ hs
  case linkDown => exact execLinkDown_sound _ hs
  case hostMemoryRead => exact execHostMemoryRead_sound _ _ _ _ hs
  case hostMemoryWrite => exact execHostMemoryWrite_sound _ _ _ _ hs
  case revoke => exact execRevoke_sound _ _ hs
  case mrevoke => exact execMrevoke_sound _ hs
  case lock => exact execLock_sound _ hs
  case mkeyProg => exact execMkeyProg_sound _ hs
  case setreq => exact execSetreq_sound _ hs
  case debugChallenge => exact execDebugChallenge_sound _ _ hs
  case debugLock => exact execDebugLock_sound _ hs
  case registerWrite => exact execRegisterWrite_sound _ _ _ hs
  case lowerWordRead => exact execLowerWordRead_sound _ _ hs
  case frameCrcFail => exact execFrameCrcFail_sound _ hs
  case pcieLinkUp => exact execPcieLinkUp_sound _ _ _ hs
  case crystalLock => exact execCrystalLock_sound hs
  case corePowerDown => exact execCorePowerDown_sound _ hs
  case d3hotChange => exact execD3hotChange_sound _ _ hs

/-- Settles O59: the front command keeps what is sound, and so does the step of an empty queue. -/
theorem everyStepKeepsFusesAndMemories : Obligations.EveryStepKeepsFusesAndMemories := by
  intro f0 s t hs ht
  unfold step at ht
  split at ht
  · exact next_sound (tick_sound hs) t ht
  · next c r _ =>
    have hr : Sound f0 { s with pending := r } := hs.of_eq rfl rfl
    exact exec_sound c hr t ht

end Sys2Proof.Machine
end

section
/-!
PROOFS. Bits and fields of registers: what they are after a field is set, and after bits are set or cleared.
-/
set_option Elab.async false

namespace Sys2Proof.Machine

/-! ## Bits and fields of a word -/

theorem bit_eq_getLsbD {n : Nat} (w : BitVec n) (i : Nat) : bit w i = w.getLsbD i := bit_eq_testBit w i

theorem testBit_bits {n : Nat} (w : BitVec n) (hi lo j : Nat) : (bits w hi lo).testBit j = (decide (j < hi + 1 - lo) && bit w (lo + j)) := by
  rw [bits, Nat.testBit_mod_two_pow, Nat.testBit_shiftRight, bit_eq_testBit]

/-- Two words have the same field where they have the same bits there. -/
theorem bits_congr {n m : Nat} {w : BitVec n} {x : BitVec m} {hi lo : Nat} (h : ∀ i, lo ≤ i → i ≤ hi → bit w i = bit x i) : bits w hi lo = bits x hi lo := by
  refine Nat.eq_of_testBit_eq fun j => ?_
  rw [testBit_bits, testBit_bits]
  by_cases hj : j < hi + 1 - lo
  · rw [h (lo + j) (by omega) (by omega)]
  · simp [hj]

/-- A word with a field replaced. -/
theorem testBit_putFld (w v lo k i : Nat) :
    (w - ((w >>> lo) % 2 ^ k) * 2 ^ lo + (v % 2 ^ k) * 2 ^ lo).testBit i
      = if lo ≤ i ∧ i < lo + k then v.testBit (i - lo) else w.testBit i := by
  have hsplit : w - ((w >>> lo) % 2 ^ k) * 2 ^ lo + (v % 2 ^ k) * 2 ^ lo
      = 2 ^ lo * (2 ^ k * (w >>> lo >>> k) + v % 2 ^ k) + w % 2 ^ lo := by
    have h1 : w = 2 ^ lo * (w >>> lo) + w % 2 ^ lo := by rw [Nat.shiftRight_eq_div_pow]; exact (Nat.div_add_mod _ _).symm
    have h2 : w >>> lo = 2 ^ k * (w >>> lo >>> k) + (w >>> lo) % 2 ^ k := by
      conv_lhs => rw [← Nat.div_add_mod (w >>> lo) (2 ^ k), ← Nat.shiftRight_eq_div_pow]
    generalize w >>> lo >>> k = a at h2 ⊢
    generalize (w >>> lo) % 2 ^ k = b at h2 ⊢
    rw [h2] at h1
    generalize w % 2 ^ lo = c at h1 ⊢
    generalize v % 2 ^ k = d
    generalize 2 ^ k = K at *
    generalize 2 ^ lo = L at *
    subst h1
    have : L * (K * a + b) + c - b * L = L * (K * a) + c := by
      rw [Nat.mul_add, Nat.mul_comm b L]; omega
    rw [this, Nat.mul_add, Nat.mul_comm d L]; omega
  rw [hsplit, Nat.testBit_two_pow_mul_add _ (Nat.mod_lt _ (Nat.two_pow_pos lo))]
  by_cases h0 : i < lo
  · have : ¬ (lo ≤ i ∧ i < lo + k) := by omega
    rw [if_pos h0, if_neg this, Nat.testBit_mod_two_pow]
    simp [h0]
  · rw [if_neg h0, Nat.testBit_two_pow_mul_add _ (Nat.mod_lt _ (Nat.two_pow_pos k))]
    by_cases h1 : i - lo < k
    · rw [if_pos h1, if_pos ⟨by omega, by omega⟩, Nat.testBit_mod_two_pow]
      simp [h1]
    · have : ¬ (lo ≤ i ∧ i < lo + k) := by omega
      rw [if_neg h1, if_neg this, Nat.testBit_shiftRight, Nat.testBit_shiftRight]
      congr 1; omega

/-! ## Registers -/

theorem State.rbit_eq_getLsbD (s : State) (a i : Nat) : s.rbit a i = (s.reg a).getLsbD i := bit_eq_getLsbD _ _

theorem State.fld_congr {s t : State} {a b hi lo : Nat} (h : ∀ i, lo ≤ i → i ≤ hi → t.rbit b i = s.rbit a i) : t.fld b hi lo = s.fld a hi lo :=
  bits_congr h

theorem State.rbit_setReg (s : State) (a b i : Nat) (v : W32) : (s.setReg a v).rbit b i = if b = a then bit v i else s.rbit b i := by
  unfold State.rbit
  rw [State.reg_setReg]
  split <;> rfl

theorem State.rbit_setReg_self (s : State) (a i : Nat) (v : W32) : (s.setReg a v).rbit a i = bit v i := by rw [State.rbit_setReg, if_pos rfl]

theorem State.rbit_orReg_self (s : State) (a m i : Nat) (hi : i < 32) : (s.orReg a m).rbit a i = (s.rbit a i || m.testBit i) := by
  rw [State.rbit_eq_getLsbD, State.rbit_eq_getLsbD, State.reg_orReg_self, BitVec.getLsbD_or, BitVec.getLsbD_ofNat]
  simp [hi]

theorem State.rbit_clrReg_self (s : State) (a m i : Nat) (hi : i < 32) : (s.clrReg a m).rbit a i = (s.rbit a i && !m.testBit i) := by
  rw [State.rbit_eq_getLsbD, State.rbit_eq_getLsbD, State.reg_clrReg_self, BitVec.getLsbD_and, BitVec.getLsbD_not, BitVec.getLsbD_ofNat]
  simp [hi]

/-- The bits of a register after a field of it is set. -/
theorem State.rbit_setFld_self (s : State) (a hi lo v i : Nat) (hlo : lo ≤ hi) (h : i < 32) :
    (s.setFld a hi lo v).rbit a i = if lo ≤ i ∧ i ≤ hi then v.testBit (i - lo) else s.rbit a i := by
  rw [State.rbit_eq_getLsbD, State.rbit_eq_getLsbD, State.setFld, State.reg_setReg_self, BitVec.getLsbD_ofNat, testBit_putFld]
  have : (lo ≤ i ∧ i < lo + (hi + 1 - lo)) ↔ (lo ≤ i ∧ i ≤ hi) := by omega
  simp only [h, this, decide_true, Bool.true_and]
  rfl

theorem State.fld_setFld_self (s : State) (a hi lo v : Nat) (hlo : lo ≤ hi) (h : hi < 32) : (s.setFld a hi lo v).fld a hi lo = v % 2 ^ (hi + 1 - lo) := by
  refine Nat.eq_of_testBit_eq fun j => ?_
  rw [State.fld, testBit_bits, Nat.testBit_mod_two_pow]
  by_cases hj : j < hi + 1 - lo
  · have hb := s.rbit_setFld_self a hi lo v (lo + j) hlo (by omega)
    rw [if_pos ⟨by omega, by omega⟩, Nat.add_sub_cancel_left] at hb
    rw [State.rbit] at hb
    rw [hb]
  · simp [hj]

/-- Another field keeps its value. -/
theorem State.fld_setFld_of_disjoint (s : State) (a hi lo v hi' lo' : Nat) (hlo : lo ≤ hi) (h : hi' < 32) (hd : hi' < lo ∨ hi < lo') :
    (s.setFld a hi lo v).fld a hi' lo' = s.fld a hi' lo' := by
  refine State.fld_congr fun i h0 h1 => ?_
  rw [State.rbit_setFld_self _ _ _ _ _ _ hlo (by omega), if_neg (by omega)]

theorem State.orReg_regsBut (s : State) (a m : Nat) : RegsBut [a] s (s.orReg a m) := s.setReg_regsBut a _
theorem State.clrReg_regsBut (s : State) (a m : Nat) : RegsBut [a] s (s.clrReg a m) := s.setReg_regsBut a _
theorem State.setFld_regsBut (s : State) (a hi lo v : Nat) : RegsBut [a] s (s.setFld a hi lo v) := s.setReg_regsBut a _
theorem State.orReg_same (s : State) (a m : Nat) : SameBut [.regs] s (s.orReg a m) := s.setReg_same a _
theorem State.clrReg_same (s : State) (a m : Nat) : SameBut [.regs] s (s.clrReg a m) := s.setReg_same a _
theorem State.setFld_same (s : State) (a hi lo v : Nat) : SameBut [.regs] s (s.setFld a hi lo v) := s.setReg_same a _

/-- Parts without the registers keep every register. -/
theorem SameBut.regsBut {m : List Piece} {s t : State} (h : SameBut m s t) (l : List Nat) (hm : .regs ∉ m := by decide) : RegsBut l s t :=
  RegsBut.of_regs (h .regs hm) l

theorem regsBut_ite {l : List Nat} {c : Prop} [Decidable c] {s t u : State} (ht : RegsBut l s t) (hu : RegsBut l s u) : RegsBut l s (if c then t else u) := by
  split
  · exact ht
  · exact hu

theorem RegsBut.then {l m : List Nat} {s t u : State} (h : RegsBut l s t) (k : RegsBut m t u) (hm : ∀ a ∈ m, a ∈ l := by decide) : RegsBut l s u :=
  h.trans (k.mono hm)

theorem RegsBut.reg {l : List Nat} {s t : State} (h : RegsBut l s t) {a : Nat} (ha : a ∉ l) : t.reg a = s.reg a := h a ha
theorem RegsBut.rbit {l : List Nat} {s t : State} (h : RegsBut l s t) {a : Nat} (ha : a ∉ l) (i : Nat) : t.rbit a i = s.rbit a i := by
  rw [State.rbit, State.rbit, h a ha]
theorem RegsBut.fld {l : List Nat} {s t : State} (h : RegsBut l s t) {a : Nat} (ha : a ∉ l) (hi lo : Nat) : t.fld a hi lo = s.fld a hi lo := by
  rw [State.fld, State.fld, h a ha]

/-! ## The registers of ECC reports -/

/-- The registers that an ECC report writes. -/
abbrev eccRegs : List Nat := [Reg.TNK_ECC_CNT, Reg.TST_HEALTH, Reg.TNK_ERR, Reg.TNK_UNC_ADDR, Reg.TNK_UNC_ADDR + 4]

theorem State.raise_regsBut (s : State) (code sev src pay : Nat) (l : List Nat) : RegsBut l s (s.raise code sev src pay) := fun a _ => s.raise_reg _ _ _ _ a

theorem State.raiseOnce_regsBut (s : State) (key code sev src pay : Nat) (l : List Nat) : RegsBut l s (s.raiseOnce key code sev src pay) := by
  unfold State.raiseOnce
  exact regsBut_ite (RegsBut.refl _ _) ((s.raise_regsBut _ _ _ _ l).trans (RegsBut.of_regs rfl l))

theorem State.health_regsBut (s : State) (b : Nat) : RegsBut [Reg.TST_HEALTH] s (s.health b) := by
  unfold State.health
  exact regsBut_ite (RegsBut.refl _ _) ((s.orReg_regsBut _ _).trans (State.raise_regsBut _ _ _ _ _ _))

theorem State.raiseOnceHealth_regsBut (s : State) (key code sev src pay b : Nat) : RegsBut [Reg.TST_HEALTH] s (s.raiseOnceHealth key code sev src pay b) := by
  unfold State.raiseOnceHealth
  exact regsBut_ite (RegsBut.refl _ _) ((s.raiseOnce_regsBut _ _ _ _ _ _).trans (State.health_regsBut _ _))

theorem State.incReg_regsBut (s : State) (a n : Nat) : RegsBut [a] s (s.incReg a n) := s.setReg_regsBut a _

theorem State.setReg64_regsBut (s : State) (a v : Nat) : RegsBut [a, a + 4] s (s.setReg64 a v) :=
  ((s.setReg_regsBut a _).mono (by simp)).then (State.setReg_regsBut _ (a + 4) _) (by simp)

theorem State.eccCount_regsBut (s : State) (n : Nat) : RegsBut eccRegs s (s.eccCount n) := by
  unfold State.eccCount
  have h : RegsBut eccRegs s (s.incReg Reg.TNK_ECC_CNT n) := (s.incReg_regsBut _ _).mono (by decide)
  exact regsBut_ite (RegsBut.refl _ _) (regsBut_ite (h.then (State.raiseOnceHealth_regsBut _ _ _ _ _ _ _)) h)

theorem State.eccUnc_regsBut (s : State) (sp g port kind : Nat) : RegsBut eccRegs s (s.eccUnc sp g port kind) := by
  unfold State.eccUnc
  extract_lets a core off s1
  have h : RegsBut eccRegs s s1 := ((s.orReg_regsBut _ _).mono (by decide)).then (State.setReg64_regsBut _ _ _)
  clear_value s1
  exact regsBut_ite (h.trans (State.raise_regsBut _ _ _ _ _ _)) (regsBut_ite (h.trans (State.raise_regsBut _ _ _ _ _ _)) (h.trans (State.raise_regsBut _ _ _ _ _ _)))

theorem State.setMem_regsBut (s : State) (sp : Nat) (m : Mem) (l : List Nat) : RegsBut l s (s.setMem sp m) := (s.setMem_spaces sp m).regsBut l

theorem State.correct_regsBut (s : State) (sp : Nat) (hit : Nat × Bool → Bool) : RegsBut eccRegs s (s.correct sp hit) :=
  (s.setMem_regsBut sp _ _).trans (State.eccCount_regsBut _ _)

theorem State.readFx_regsBut (s : State) (sp a n port kind : Nat) : RegsBut eccRegs s (s.readFx sp a n port kind) := by
  unfold State.readFx
  exact (s.correct_regsBut sp _).trans (RegsBut.foldl (fun t _ _ => t.eccUnc_regsBut _ _ _ _) _)

theorem State.writeFx_regsBut (s : State) (sp a : Nat) (bs : List Byte) (port : Nat) : RegsBut eccRegs s (s.writeFx sp a bs port) := by
  unfold State.writeFx
  exact ((s.correct_regsBut sp _).trans (State.setMem_regsBut _ sp _ _)).trans (RegsBut.foldl (fun t _ _ => t.eccUnc_regsBut _ _ _ _) _)

theorem State.fetchFx_regsBut (s : State) (i : Nat) : RegsBut eccRegs s (s.fetchFx i) := by
  unfold State.fetchFx
  exact regsBut_ite (s.readFx_regsBut _ _ _ _ _) (RegsBut.refl _ _)

end Sys2Proof.Machine
end

section
/-!
PROOFS. The sync, system, release and field I/O instructions.
-/
set_option Elab.async false

namespace Sys2Proof.Machine

/-! ## Sync counters and what instructions wait for -/

/-- The fetch changes the registers and memories of its ECC state only. -/
theorem State.fetchFx_same (s : State) (i : Nat) : SameBut [.regs, .ev, .tank, .cbuf, .dram, .hostMem] s (s.fetchFx i) := by
  unfold State.fetchFx
  dsimp only
  split
  · exact (s.readFx_same _ _ _ _ _).mono (by decide)
  · exact SameBut.refl _ _

@[simp] theorem State.fetchFx_sync (s : State) (i : Nat) : (s.fetchFx i).sync = s.sync := s.fetchFx_same i .sync (by decide)

theorem waitEnd_ctxTo (s : State) (i pd : Nat) (v : Bool) :
    CtxTo (.next (waitEnd i pd v s)) s i { (s.ctx i).setP pd v with st := .run, hold := .free, pc := (s.ctx i).pc + 8 } :=
  State.setCtx_ctxTo s i _

theorem reached_iff (s : State) (n : Nat) (t : W32) : reached s n t = true ↔ (Tab.getD s.sync n 0 - t).toNat < 2 ^ 31 := decide_eq_true_iff

section
variable {s : State} {k : CtxId} {w : BitVec 56} {legal : Bool} {needs : List LoadDst} {body : State → Res}

/-- The issue of an instruction whose body goes on: PC of its context is moved on in what the body made. -/
theorem issue_next {t : State} (hl : legal = true) (hr : Runs s k w needs) (hb : body (s.fetchFx (ctxIx k)) = .ok t) :
    issue k w legal needs body s = .next (t.advance (ctxIx k)) := by
  rw [issue_of_runs hl hr, hb]; rfl

end

theorem ctrOk_of {n : Nat} (h0 : 1024 ≤ n) (h1 : n < 32768) : ctrOk n = true := by simp [ctrOk, h0, h1]

/-- SIG with no write outstanding adds to its counter and moves PC on. -/
theorem sigNow_advance (u : State) (i n : Nat) (v : W32) (h : (u.ctx i).writes = []) :
    Tab.getD ((u.sigNow i n v).advance i).sync n 0 = Tab.getD u.sync n 0 + v
      ∧ (∀ m, m ≠ n → Tab.getD ((u.sigNow i n v).advance i).sync m 0 = Tab.getD u.sync m 0)
      ∧ ((u.sigNow i n v).advance i).ctx i = { u.ctx i with pc := (u.ctx i).pc + 8 }
      ∧ (∀ q, q ≠ i → ((u.sigNow i n v).advance i).ctx q = u.ctx q) ∧ SameBut [.ctxs, .sync] u ((u.sigNow i n v).advance i) := by
  have hs : u.sigNow i n v = u.addSync n v := by simp [State.sigNow, h]
  rw [hs]
  refine ⟨Tab.getD_setD_self _ _ _ _, fun m hm => Tab.getD_setD_ne _ _ _ _ hm, State.ctx_advance_self _ _, fun q hq => State.ctx_advance_ne _ hq, ?_⟩
  exact ((u.addSync_same n v).mono (by decide)).then ((u.addSync n v).setCtx_same i _)

/-- SIG with a write outstanding keeps its addition for when those writes have landed. -/
theorem sigNow_of_writes (u : State) (i n : Nat) (v : W32) (h : (u.ctx i).writes ≠ []) :
    u.sigNow i n v = u.setCtx i { u.ctx i with sigs := (u.ctx i).sigs ++ [⟨n, v, (u.ctx i).writes⟩] } := by
  simp [State.sigNow, h]

/-- A trap enters TRAP with its cause and raises 0x0C01, and changes nothing else. -/
theorem State.trap_frame (u : State) (i cause : Nat) :
    (u.trap i cause).ctx i = { u.ctx i with st := .trap, cause := BitVec.ofNat 8 cause, hold := .free }
      ∧ (∀ q, q ≠ i → (u.trap i cause).ctx q = u.ctx q) ∧ Raised 0x0C01 u (u.trap i cause) ∧ SameBut [.ctxs, .ev, .hostMem] u (u.trap i cause) := by
  have hr := (u.setCtx i { u.ctx i with st := .trap, cause := BitVec.ofNat 8 cause, hold := .free }).raise_same 0x0C01 2 (i / 4)
    (i / 4 + 256 * (i % 4) + 2 ^ 16 * cause + 2 ^ 64 * (u.ctx i).pc.toNat)
  refine ⟨(hr.ctx (by decide) i).trans (u.ctx_setCtx_self i _), fun q hq => (hr.ctx (by decide) q).trans (u.ctx_setCtx_ne _ hq), ?_, ?_⟩
  · exact State.raise_raised (u.setCtx i _) _ _ _ _
  · exact ((u.setCtx_same i _).mono (by decide)).then hr

theorem fenceDone_iff (u : State) (i : Nat) : fenceDone u i = true ↔ (u.ctx i).writes = [] ∧ (u.ctx i).sigs = [] ∧ u.aoPend i = false := by
  simp [fenceDone, and_assoc]

/-- Settles O17. -/
theorem syncAndSystemInstructions : Obligations.SyncAndSystemInstructions := by
  intro s u k w i c hu hi hc
  subst hu hi hc
  have ho : ∀ {x : Nat}, x = 0 → (x == 0) = true := fun h => by simp [h]
  have hctr : ∀ {n}, n = ((s.ctx (ctxIx k)).sreg (fw w 50 46) + BitVec.ofNat 64 (fw w 40 26)).toNat → ctrOf (s.ctx (ctxIx k)) w = n := fun h => h.symm
  refine ⟨fun n hn h0 h1 => ⟨fun hr hw => ⟨fun hwr => ?_, fun hwr => ?_⟩, fun hr hw => ⟨fun hlt => ?_, fun hge => ?_⟩⟩, ?_, ?_, ?_, ?_, ?_, ?_⟩
  case refine_1 =>
    have hok := ctrOk_of h0 h1
    have := sigNow_advance (s.fetchFx (ctxIx k)) (ctxIx k) n (BitVec.ofNat 32 ((s.ctx (ctxIx k)).sreg (fw w 45 41)).toNat + BitVec.ofNat 32 (fw w 25 16))
      (by rw [State.fetchFx_ctx]; exact hwr)
    simp only [State.fetchFx_ctx, State.fetchFx_sync, BitVec.ofNat_toNat] at this
    refine ⟨_, issue_next (ho hw) hr ?_, this⟩
    simp only [State.fetchFx_ctx, hctr hn, hok, BitVec.ofNat_toNat]
    rfl
  case refine_2 =>
    have hok := ctrOk_of h0 h1
    have hb := sigNow_of_writes (s.fetchFx (ctxIx k)) (ctxIx k) n (BitVec.ofNat 32 ((s.ctx (ctxIx k)).sreg (fw w 45 41)).toNat + BitVec.ofNat 32 (fw w 25 16))
      (by rw [State.fetchFx_ctx]; exact hwr)
    simp only [State.fetchFx_ctx, BitVec.ofNat_toNat] at hb
    refine issue_ok (ho hw) hr ?_ (State.setCtx_ctxTo _ _ { s.ctx (ctxIx k) with
      sigs := (s.ctx (ctxIx k)).sigs ++ [⟨n, ((s.ctx (ctxIx k)).sreg (fw w 45 41)).truncate 32 + BitVec.ofNat 32 (fw w 25 16), (s.ctx (ctxIx k)).writes⟩] }) rfl
    simp only [State.fetchFx_ctx, hctr hn, hok, BitVec.ofNat_toNat, hb]
    rfl
  case refine_3 =>
    refine issue_stay (ho hw) hr ?_ (by simpa using waitEnd_ctxTo (s.fetchFx (ctxIx k)) (ctxIx k) (fw w 20 18) true)
    have := (reached_iff (s.fetchFx (ctxIx k)) n ((s.ctx (ctxIx k)).sreg (fw w 45 41) |>.truncate 32)).mpr (by rw [State.fetchFx_sync]; exact hlt)
    simp only [State.fetchFx_ctx, hctr hn, ctrOk_of h0 h1, BitVec.ofNat_toNat, this]
    rfl
  case refine_4 =>
    refine issue_stay (ho hw) hr ?_ (State.setCtx_ctxTo _ _ _)
    have : reached (s.fetchFx (ctxIx k)) n ((s.ctx (ctxIx k)).sreg (fw w 45 41) |>.truncate 32) = false := by
      rw [Bool.eq_false_iff, Ne, reached_iff, State.fetchFx_sync]; omega
    simp only [State.fetchFx_ctx, hctr hn, ctrOk_of h0 h1, BitVec.ofNat_toNat, this]
    rfl
  case refine_5 =>
    intro n t tmo pd hh
    refine ⟨fun hlt => ?_, fun ht => ?_⟩
    · have he : exec (.waitSatisfied k) s = .next (waitEnd (ctxIx k) pd true s) := by
        show execWaitSatisfied k s = _
        simp [execWaitSatisfied, hh, (reached_iff s n t).mpr hlt]
      rw [he]; exact waitEnd_ctxTo s _ pd true
    · have he : exec (.waitTimeout k) s = .next (waitEnd (ctxIx k) pd false s) := by
        show execWaitTimeout k s = _
        simp only [execWaitTimeout, hh, if_neg ht]
      rw [he]; exact waitEnd_ctxTo s _ pd false
  case refine_6 =>
    refine fun hr hw => ⟨fun hf => ?_, fun hf => ?_, ?_⟩
    · refine issue_ok (ho hw) hr (t := s.fetchFx (ctxIx k)) (by simp [hf]) (by simpa using CtxTo.refl (s.fetchFx (ctxIx k)) (ctxIx k)) rfl
    · refine issue_ok (ho hw) hr (t := (s.fetchFx (ctxIx k)).setCtx (ctxIx k) { s.ctx (ctxIx k) with hold := .fence }) (by simp [hf]) (State.setCtx_ctxTo _ _ _) rfl
    · exact issue_stay (ho hw) hr rfl (by simpa [State.onCtx] using State.setCtx_ctxTo (s.fetchFx (ctxIx k)) (ctxIx k) { s.ctx (ctxIx k) with hold := .halt })
  case refine_7 =>
    intro hh hwr hsg hao
    have he : exec (.fenceComplete k) s = .next (s.setCtx (ctxIx k) { s.ctx (ctxIx k) with hold := .free }) := by
      show execFenceComplete k s = _
      simp [execFenceComplete, hh, (fenceDone_iff s _).mpr ⟨hwr, hsg, hao⟩]
    rw [he]; exact State.setCtx_ctxTo _ _ _
  case refine_8 =>
    intro hr hw
    exact issue_setCtx (fun c => { c with hold := .yield (max 1 (fw w 15 0)) }) (ho hw) hr (fun _ => rfl) (fun _ => rfl)
  case refine_9 =>
    intro n hh
    have he : exec (.yieldExpiry k) s = .next (s.setCtx (ctxIx k) { s.ctx (ctxIx k) with hold := .free }) := by
      show execYieldExpiry k s = _
      simp [execYieldExpiry, hh, State.onCtx]
    rw [he]; exact State.setCtx_ctxTo _ _ _
  case refine_10 =>
    intro hr hw
    have he : exec (.trap k w) s = .next ((s.fetchFx (ctxIx k)).trap (ctxIx k) (0x80 + fw w 6 0)) := by
      show execTrap k w s = _
      rw [execTrap, issue_of_runs (ho hw) hr]; rfl
    have hf := (s.fetchFx (ctxIx k)).trap_frame (ctxIx k) (0x80 + fw w 6 0)
    simp only [State.fetchFx_ctx] at hf
    exact ⟨_, he, hf⟩

/-! ## Field outputs -/

theorem State.onAct_same (s : State) (f : ActSt → ActSt) : SameBut [.act] s (s.onAct f) := by
  intro p hp; cases p <;> first | rfl | exact absurd (by decide) hp

theorem actTrap_eq_none {u : State} {i : Nat} {en src : Bool} (ha : u.auth = true) (hu : u.up 8 = true) (hen : en = true) (hs : src = false)
    (hp : u.poisoned i = false) : actTrap u i en src = none := by
  simp [actTrap, ha, hu, hen, hs, hp]

/-- Moving PC on after a change outside the contexts. -/
theorem advance_frame {u t : State} {l : List Piece} (i : Nat) (h : SameBut l u t) (hl : .ctxs ∉ l := by decide) :
    (t.advance i).ctx i = { u.ctx i with pc := (u.ctx i).pc + 8 } ∧ (∀ q, q ≠ i → (t.advance i).ctx q = u.ctx q)
      ∧ SameBut (.ctxs :: l) u (t.advance i) := by
  refine ⟨by rw [State.ctx_advance_self, h.ctx hl], fun q hq => by rw [State.ctx_advance_ne _ hq, h.ctx hl], ?_⟩
  exact (h.mono fun _ hp => List.mem_cons_of_mem _ hp).trans ((t.setCtx_same i _).mono (by simp))

/-- A duty made pending, and its output counted as driven. -/
def State.drive (u : State) (ch v : Nat) : State :=
  (u.setFld (Reg.ACT_PWM_DUTY ch) 31 16 v).onAct (fun a => { a with drv := Tab.setD a.drv ch false true })

theorem State.reg_onAct (s : State) (f : ActSt → ActSt) (a : Nat) : (s.onAct f).reg a = s.reg a := rfl

theorem State.fld_drive (u : State) (ch v hi lo : Nat) :
    (u.drive ch v).fld (Reg.ACT_PWM_DUTY ch) hi lo = (u.setFld (Reg.ACT_PWM_DUTY ch) 31 16 v).fld (Reg.ACT_PWM_DUTY ch) hi lo := by
  unfold State.fld State.drive
  rw [State.reg_onAct]

theorem State.act_onAct (s : State) (f : ActSt → ActSt) : (s.onAct f).act = f s.act := rfl

theorem State.act_drive (u : State) (ch v : Nat) : (u.drive ch v).act = { u.act with drv := Tab.setD u.act.drv ch false true } := by
  rw [State.drive, State.act_onAct, State.setFld_act]

theorem State.drive_regsBut (u : State) (ch v : Nat) : RegsBut [Reg.ACT_PWM_DUTY ch] u (u.drive ch v) := by
  intro a ha
  rw [State.drive, State.reg_onAct]
  exact u.setFld_regsBut _ _ _ _ a ha

theorem State.drive_same (u : State) (ch v : Nat) : SameBut [.act, .regs] u (u.drive ch v) :=
  ((u.setFld_same _ _ _ _).mono (by decide)).then (State.onAct_same _ _)

theorem State.reg_advance (s : State) (i a : Nat) : (s.advance i).reg a = s.reg a := rfl

theorem State.fld_advance (s : State) (i a hi lo : Nat) : (s.advance i).fld a hi lo = s.fld a hi lo := rfl

/-- Settles O20. -/
theorem fieldOutputInstructions : Obligations.FieldOutputInstructions := by
  intro s u k w i ch c hu hi hc hch
  subst hu hi hc
  have ho : ∀ {x : Nat}, x = 0 → (x == 0) = true := fun h => by simp [h]
  refine ⟨fun hr hw ha hup hp => ⟨fun hen hq => ?_, fun hen hq => ?_⟩, fun hr hw hon => ?_⟩
  case refine_1 =>
    have hq' : (s.fetchFx (ctxIx k)).act.aoq.any (fun x => x.ch == fw w 50 48) = false := by
      simpa [List.any_eq_false, hch] using hq
    obtain ⟨h1, h2, h3⟩ := advance_frame (ctxIx k) ((s.fetchFx (ctxIx k)).onAct_same fun a => { a with aoq := a.aoq ++ [⟨ch, ((s.ctx (ctxIx k)).sreg (fw w 47 43)).truncate 16, ctxIx k, a.safe⟩] })
    simp only [State.fetchFx_ctx] at h1 h2
    refine ⟨_, issue_next (ho hw) hr ?_, rfl, h1, h2, h3⟩
    subst hch
    simp only [actTrap_eq_none ha hup hen rfl hp, hq', State.fetchFx_ctx, BitVec.ofNat_toNat]
    rfl
  case refine_2 =>
    subst hch
    have hq' : (s.fetchFx (ctxIx k)).aoPend (ctxIx k) = false := by
      simpa [State.aoPend, List.any_eq_false] using hq
    refine ⟨fun hs => ?_, fun hs => ?_⟩
    · refine issue_ok (ho hw) hr (t := s.fetchFx (ctxIx k)) ?_ (by simpa using CtxTo.refl (s.fetchFx (ctxIx k)) (ctxIx k)) rfl
      simp only [actTrap_eq_none ha hup hen rfl hp, hq', hs]
      rfl
    · obtain ⟨h1, h2, h3⟩ := advance_frame (ctxIx k) ((s.fetchFx (ctxIx k)).drive_same (fw w 50 48) ((s.ctx (ctxIx k)).sreg (fw w 47 43)).toNat)
      simp only [State.fetchFx_ctx] at h1 h2
      refine ⟨_, issue_next (t := (s.fetchFx (ctxIx k)).drive (fw w 50 48) ((s.ctx (ctxIx k)).sreg (fw w 47 43)).toNat) (ho hw) hr ?_, ?_, ?_,
        fun a ha => (State.reg_advance _ _ a).trans (State.drive_regsBut _ _ _ a ha), ?_, ?_, h1, h2, h3⟩
      · simp only [actTrap_eq_none ha hup hen rfl hp, hq', hs, State.fetchFx_ctx]
        rfl
      · rw [State.fld_advance, State.fld_drive, State.fld_setFld_self _ _ _ _ _ (by decide) (by decide)]; rfl
      · rw [State.fld_advance, State.fld_drive, State.fld_setFld_of_disjoint _ _ _ _ _ _ _ (by decide) (by decide) (by decide)]
      · rw [State.advance_act, State.act_drive]; simp
      · rw [State.advance_act, State.act_drive]
  case refine_3 =>
    let ok := (s.fetchFx (ctxIx k)).rbit (Reg.MSRC_LVALID (fw w 50 49)) (fw w 48 45)
    let v : W64 := if ok then ((s.fetchFx (ctxIx k)).reg (Reg.MSRC_LAST (fw w 50 49) (fw w 48 45))).zeroExtend 64 else 0
    refine issue_ok (c := ((s.ctx (ctxIx k)).setS (fw w 44 40) v).setP (fw w 39 37) ok) (ho hw) hr ?_ (State.setCtx_ctxTo _ _ _) (by simp)
    have hv : BitVec.ofNat 64 (if ok then ((s.fetchFx (ctxIx k)).reg (Reg.MSRC_LAST (fw w 50 49) (fw w 48 45))).toNat else 0) = v := by
      cases h : ok <;> simp [v, h, BitVec.ofNat_toNat]
    simp only [hon, State.onCtx, State.fetchFx_ctx]
    rw [← hv]
    rfl

/-! ## CAN controllers -/

theorem State.can_setCan_self (s : State) (n : Nat) (x : CanSt) : (s.setCan n x).can n = x := Tab.getD_setD_self s.act.can n _ x
theorem State.can_setCan_ne (s : State) {n q : Nat} (x : CanSt) (h : q ≠ n) : (s.setCan n x).can q = s.can q := Tab.getD_setD_ne s.act.can _ _ _ h
theorem State.setCan_same (s : State) (n : Nat) (x : CanSt) : SameBut [.act] s (s.setCan n x) := s.onAct_same _
theorem SameBut.can {l : List Piece} {s t : State} (h : SameBut l s t) (hl : .act ∉ l := by decide) (q : Nat) : t.can q = s.can q := by
  unfold State.can; rw [h .act hl]

@[simp] theorem State.can_onCtx (s : State) (i : Nat) (f : Ctx → Ctx) (q : Nat) : (s.onCtx i f).can q = s.can q := rfl
@[simp] theorem State.can_advance (s : State) (i q : Nat) : (s.advance i).can q = s.can q := rfl

/-- A controller that begins a transmission has one in it; the queues stay. -/
theorem canBegin_cases (n : Nat) (s : State) :
    canBegin n s = s ∨ ((s.can n).bus = none ∧ canBegin n s = s.setCan n { s.can n with bus := winner (s.can n).tx }) := by
  unfold canBegin
  dsimp only
  split
  · next h => exact .inr ⟨by simp only [Bool.and_eq_true, Option.isNone_iff_eq_none] at h; exact h.1.2, rfl⟩
  · exact .inl rfl

theorem canBegin_same (n : Nat) (s : State) : SameBut [.act] s (canBegin n s) := by
  obtain h | ⟨-, h⟩ := canBegin_cases n s
  · rw [h]; exact SameBut.refl _ _
  · rw [h]; exact s.setCan_same _ _

theorem can_canBegin_ne (s : State) {n q : Nat} (h : q ≠ n) : (canBegin n s).can q = s.can q := by
  obtain hb | ⟨-, hb⟩ := canBegin_cases n s
  · rw [hb]
  · rw [hb, s.can_setCan_ne _ h]

theorem can_canBegin_self (s : State) (n : Nat) :
    ∃ b, (canBegin n s).can n = { s.can n with bus := b } ∧ (b = (s.can n).bus ∨ ((s.can n).bus = none ∧ b = winner (s.can n).tx)) := by
  obtain hb | ⟨hn, hb⟩ := canBegin_cases n s
  · exact ⟨(s.can n).bus, by rw [hb], .inl rfl⟩
  · exact ⟨_, by rw [hb, s.can_setCan_self], .inr ⟨hn, rfl⟩⟩

theorem writers_of_touches {c : Ctx} {r : Rng} (h : c.touches r = false) : c.writers r = [] := by
  simp only [Ctx.touches, Bool.or_eq_false_iff, List.any_eq_false, Bool.or_eq_true, not_or, Bool.not_eq_true] at h
  simpa [Ctx.writers, List.filter_eq_nil_iff] using fun x hx => (h.1 x hx).1

theorem legalCan_of {w : BitVec 56} (hsp : fw w 43 42 ≤ 1) (h : fw w 38 0 = 0) : legalCan w = true := by simp [legalCan, hsp, h]

theorem canAddrOk_of {u : State} {i a : Nat} {w : BitVec 56} (h0 : a % 16 = 0) (h1 : a + 80 ≤ u.spSize (fw w 43 42)) (h2 : u.spUp (i / 4) (fw w 43 42) = true) :
    canAddrOk u i w a = true := by simp [canAddrOk, h0, h1, h2]

/-- The context after an instruction that sets a predicate beside a change outside the contexts. -/
theorem setP_advance {u t : State} {l : List Piece} {i pd : Nat} {v : Bool} (h : SameBut l u t) (hl : .ctxs ∉ l) :
    (((t.onCtx i (fun c => c.setP pd v)).advance i).ctx i = { (u.ctx i).setP pd v with pc := (u.ctx i).pc + 8 })
      ∧ ∀ q, q ≠ i → ((t.onCtx i (fun c => c.setP pd v)).advance i).ctx q = u.ctx q := by
  refine ⟨?_, fun q hq => ?_⟩
  · rw [State.ctx_advance_self, State.ctx_onCtx_self, h.ctx hl]; rfl
  · rw [State.ctx_advance_ne _ hq, State.ctx_onCtx_ne _ _ hq, h.ctx hl]

/-- What CANTX starts from: its record is read, and the controller may have begun the frame it offers. -/
def canTxBegun (u : State) (core n sp lo : Nat) : State := canBegin n (u.readFx sp lo 80 core 0)

section
variable (u : State) (core n sp lo : Nat)

theorem canTxBegun_same : SameBut (.act :: accessParts) u (canTxBegun u core n sp lo) :=
  ((u.readFx_same _ _ _ _ _).mono (by decide)).then (canBegin_same _ _)

theorem can_canTxBegun_ne {q : Nat} (h : q ≠ n) : (canTxBegun u core n sp lo).can q = u.can q :=
  (can_canBegin_ne _ h).trans ((u.readFx_same _ _ _ _ _).can (by decide) q)

theorem can_canTxBegun_self : ∃ b, (canTxBegun u core n sp lo).can n = { u.can n with bus := b }
    ∧ (b = (u.can n).bus ∨ ((u.can n).bus = none ∧ b = winner (u.can n).tx)) := by
  have h := can_canBegin_self (u.readFx sp lo 80 core 0) n
  rwa [(u.readFx_same _ _ _ _ _).can (by decide)] at h

theorem tx_canTxBegun (q : Nat) : ((canTxBegun u core n sp lo).can q).tx = (u.can q).tx ∧ ((canTxBegun u core n sp lo).can q).rx = (u.can q).rx := by
  by_cases h : q = n
  · subst h
    obtain ⟨b, hb, -⟩ := can_canTxBegun_self u core q sp lo
    rw [hb]; exact ⟨rfl, rfl⟩
  · rw [can_canTxBegun_ne u core n sp lo h]; exact ⟨rfl, rfl⟩

end

section
variable {s u t : State} {k : CtxId} {w : BitVec 56} {lo : Nat} {c : Ctx}

/-- CANTX under its conditions: what it does follows from the length of its controller's queue. -/
theorem exec_cantx (hu : u = s.fetchFx (ctxIx k)) (hr : Runs s k w [.scalar (fw w 48 44)]) (hl : legalCan w = true) (hc : u.ctx (ctxIx k) = c)
    (hlo : spAddr (ctxIx k / 4) (fw w 43 42) (c.sreg (fw w 48 44)).toNat = lo)
    (ha : canAddrOk u (ctxIx k) w (c.sreg (fw w 48 44)).toNat = true) (hwr : c.writers ⟨fw w 43 42, lo, 80⟩ = [])
    (hf : frameBad (u.bytes (fw w 43 42) lo 80) = false)
    (ht : actTrap u (ctxIx k) (u.rbit Reg.ACT_EN (12 + fw w 50 49)) (u.bad (fw w 43 42) lo 80) = none)
    (hb : (let b := canTxBegun u (ctxIx k / 4) (fw w 50 49) (fw w 43 42) lo
      if 32 ≤ (b.can (fw w 50 49)).tx.length then Res.ok (b.onCtx (ctxIx k) (fun c => c.setP (fw w 41 39) false))
      else if u.aoPend (ctxIx k) then .hold
      else .ok ((b.setCan (fw w 50 49) { b.can (fw w 50 49) with tx := (b.can (fw w 50 49)).tx ++ [⟨ctxIx k, frameOf (u.bytes (fw w 43 42) lo 80)⟩] }).onCtx
            (ctxIx k) (fun c => c.setP (fw w 41 39) true))) = .ok t) :
    exec (.cantx k w) s = .next (t.advance (ctxIx k)) := by
  refine issue_next hl hr ?_
  rw [← hu]
  unfold canTxBegun at hb
  simp only [memRng, hc, ha, hwr, hlo, hf, ht]
  exact hb

/-- CANRX under its conditions. -/
theorem exec_canrx (hu : u = s.fetchFx (ctxIx k)) (hr : Runs s k w [.scalar (fw w 48 44)]) (hl : legalCan w = true) (hc : u.ctx (ctxIx k) = c)
    (hlo : spAddr (ctxIx k / 4) (fw w 43 42) (c.sreg (fw w 48 44)).toNat = lo)
    (ha : canAddrOk u (ctxIx k) w (c.sreg (fw w 48 44)).toNat = true) (htc : c.touches ⟨fw w 43 42, lo, 80⟩ = false)
    (hon : u.canOn (fw w 50 49) = true)
    (hb : (match (u.can (fw w 50 49)).rx with
      | [] => Res.ok (u.onCtx (ctxIx k) (fun c => c.setP (fw w 41 39) false))
      | (f, x) :: rest => .ok (((u.writeFx (fw w 43 42) lo (frameRecord f x) (ctxIx k / 4)).setCan (fw w 50 49) { u.can (fw w 50 49) with rx := rest }).onCtx
          (ctxIx k) (fun c => c.setP (fw w 41 39) true))) = .ok t) :
    exec (.canrx k w) s = .next (t.advance (ctxIx k)) := by
  refine issue_next hl hr ?_
  rw [← hu]
  simp only [memRng, hc, ha, hlo, hon, htc]
  exact hb

end

@[simp] theorem frameRecord_length (f : CanFrame) (x : W64) : (frameRecord f x).length = 80 := by
  simp [frameRecord]

/-- A range of whole groups covers none in part. -/
theorem partOf_aligned {a n : Nat} (ha : a % 8 = 0) (hn : n % 8 = 0) (g : Nat) : partOf a n g = false := by
  simp only [partOf, overlap, Bool.and_eq_false_iff, Bool.not_eq_false', Bool.and_eq_true, decide_eq_true_eq, decide_eq_false_iff_not]
  omega

theorem spAddr_mod16 {core sp a : Nat} (h : a % 16 = 0) : spAddr core sp a % 8 = 0 := by
  unfold spAddr; split <;> omega

/-- A part that is the same whatever else a longer list leaves out. -/
theorem SameBut.drop {l : List Piece} {p : Piece} {s t : State} (h : SameBut (p :: l) s t) (hp : p.same s t) : SameBut l s t := fun q hq => by
  by_cases hqp : q = p
  · exact hqp ▸ hp
  · exact h q (by simp [hqp, hq])

/-- A write of whole groups in the tank or a core buffer changes these alone. -/
theorem State.writeFx_same_near {s : State} {sp a : Nat} {bs : List Byte} {port : Nat} (hsp : sp ≤ 1) (h : ∀ e ∈ (s.memOf sp).ecc, partOf a bs.length e.1 = false) :
    SameBut [.tank, .cbuf] s (s.writeFx sp a bs port) := by
  refine SameBut.drop (p := .dram) ((State.writeFx_same_of_whole h).mono (by decide)) ?_
  exact State.writeFx_memOf_ne s (x := 2) a bs port (by simp [sameSpace]; omega)

@[simp] theorem State.memOf_onCtx (s : State) (i : Nat) (f : Ctx → Ctx) (sp : Nat) : (s.onCtx i f).memOf sp = s.memOf sp := rfl
@[simp] theorem State.memOf_setCan (s : State) (n : Nat) (x : CanSt) (sp : Nat) : (s.setCan n x).memOf sp = s.memOf sp := rfl

/-- Settles O21. -/
theorem canInstructions : Obligations.CanInstructions := by
  intro s u k w i n a lo sp c hu hi hc hn ha hsp hlo hr hsp1 hw ha16 hfit hup ht
  subst hi hn ha hsp
  have hleg := legalCan_of hsp1 hw
  have hadr := canAddrOk_of (i := ctxIx k) ha16 hfit hup
  have hctx : ∀ q, u.ctx q = s.ctx q := fun q => by rw [hu, State.fetchFx_ctx]
  have hcu : u.ctx (ctxIx k) = c := (hctx _).trans hc.symm
  refine ⟨fun hau hon hp hbad hfb => ?_, fun hon => ⟨fun hrx => ?_, fun f t r hrx => ?_⟩⟩
  case refine_1 =>
    simp only [State.canOn, Bool.and_eq_true] at hon
    have hex := fun t => exec_cantx (t := t) hu hr hleg hcu hlo.symm hadr (writers_of_touches ht) hfb (actTrap_eq_none hau hon.1 hon.2 hbad hp)
    dsimp only at hex
    rw [(tx_canTxBegun u _ _ _ _ (fw w 50 49)).1] at hex
    have hsame := canTxBegun_same u (ctxIx k / 4) (fw w 50 49) (fw w 43 42) lo
    refine ⟨fun hfull => ?_, fun hlt hq => ?_⟩
    · obtain ⟨h1, h2⟩ := setP_advance (i := ctxIx k) (pd := fw w 41 39) (v := false) hsame (by decide)
      rw [hcu] at h1
      exact ⟨_, hex _ (if_pos hfull), h1, fun q hq => (h2 q hq).trans (hctx q), fun q => by
        rw [State.can_advance, State.can_onCtx]; exact tx_canTxBegun u _ _ _ _ q⟩
    · have hq' : u.aoPend (ctxIx k) = false := by simpa [State.aoPend, List.any_eq_false] using hq
      obtain ⟨b, hb, hbus⟩ := can_canTxBegun_self u (ctxIx k / 4) (fw w 50 49) (fw w 43 42) lo
      have he := hex _ ((if_neg (by omega)).trans (if_neg (by simp [hq'])))
      obtain ⟨h1, h2⟩ := setP_advance (i := ctxIx k) (pd := fw w 41 39) (v := true) (hsame.then (State.setCan_same _ (fw w 50 49) _)) (by decide)
      rw [hcu] at h1
      refine ⟨_, he, ?_, ?_, ?_, h1, fun q hq => (h2 q hq).trans (hctx q)⟩
      · rw [State.can_advance, State.can_onCtx, State.can_setCan_self, hb]
      · intro q hq
        rw [State.can_advance, State.can_onCtx, State.can_setCan_ne _ _ hq, can_canTxBegun_ne _ _ _ _ _ hq]
      · rw [State.can_advance, State.can_onCtx, State.can_setCan_self, hb]
        exact hbus
  case refine_2 =>
    have he := exec_canrx (t := u.onCtx (ctxIx k) (fun c => c.setP (fw w 41 39) false)) hu hr hleg hcu hlo.symm hadr ht hon (by rw [hrx])
    obtain ⟨h1, h2⟩ := setP_advance (i := ctxIx k) (pd := fw w 41 39) (v := false) (SameBut.refl [] u) (by decide)
    rw [hcu] at h1
    rw [GoesTo, ← hu]
    exact ⟨_, he, h1, h2, ((u.setCtx_same _ _).trans (State.setCtx_same _ _ _))⟩
  case refine_3 =>
    have he := exec_canrx hu hr hleg hcu hlo.symm hadr ht hon (by rw [hrx])
    have hwf := u.writeFx_same (fw w 43 42) lo (frameRecord f t) (ctxIx k / 4)
    obtain ⟨h1, h2⟩ := setP_advance (i := ctxIx k) (pd := fw w 41 39) (v := true)
      ((hwf.mono (by decide : _ ⊆ Piece.act :: accessParts)).then (State.setCan_same _ (fw w 50 49) { u.can (fw w 50 49) with rx := r })) (by decide)
    rw [hcu] at h1
    refine ⟨_, he, ?_, ?_, fun hpart => ⟨?_, ?_, ?_⟩, h1, fun q hq => (h2 q hq).trans (hctx q)⟩
    · rw [State.can_advance, State.can_onCtx, State.can_setCan_self]
    · intro q hq
      rw [State.can_advance, State.can_onCtx, State.can_setCan_ne _ _ hq, hwf.can]
    · intro q hq
      rw [State.advance_memOf, State.memOf_onCtx, State.memOf_setCan]
      exact State.writeFx_byte_in (by rwa [frameRecord_length]) (by rwa [frameRecord_length])
    · intro b hb
      rw [State.advance_memOf, State.memOf_onCtx, State.memOf_setCan]
      exact State.writeFx_byte_out (by rwa [frameRecord_length])
    · have hw2 : SameBut [.tank, .cbuf] u (u.writeFx (fw w 43 42) lo (frameRecord f t) (ctxIx k / 4)) :=
        State.writeFx_same_near hsp1 fun e _ => partOf_aligned (hlo ▸ spAddr_mod16 ha16) (by rw [frameRecord_length]) e.1
      exact (((hw2.mono (by decide)).then (State.setCan_same _ _ _)).then (State.setCtx_same _ _ _)).then (State.setCtx_same _ _ _)

end Sys2Proof.Machine
end

section
/-!
PROOFS. TAKE, JOIN and DONE of a release stream.
-/
set_option Elab.async false

namespace Sys2Proof.Machine

/-! ## What resolution leaves in a stream -/

theorem State.strm_setStrm_self (s : State) (st : Nat) (x : Strm) : (s.setStrm st x).strm st = x := Tab.getD_setD_self s.strms st _ x

theorem RegsBut.outEntry {s t : State} (h : RegsBut eccRegs s t) (st : Nat) (n : W32) : t.outEntry st n = s.outEntry st n := by
  have hb : Reg.INT_OUT_BASE st ∉ eccRegs := by
    simp [Reg.INT_OUT_BASE, baseRing, Reg.TNK_ECC_CNT, Reg.TST_HEALTH, Reg.TNK_ERR, Reg.TNK_UNC_ADDR, baseTnk, baseTst]; omega
  have hg : Reg.INT_OUT_GEOM st ∉ eccRegs := by
    simp [Reg.INT_OUT_GEOM, baseRing, Reg.TNK_ECC_CNT, Reg.TST_HEALTH, Reg.TNK_ERR, Reg.TNK_UNC_ADDR, baseTnk, baseTst]; omega
  unfold State.outEntry
  rw [h.fld hb, h.fld hg, h.fld hg]

/-- Writing records leaves the numbers. -/
theorem writeOut_seqs (st : Nat) (l : List OutRec) (s : State) : ((writeOut st l s).strm st).seqs = (s.strm st).seqs := by
  induction l generalizing s with
  | nil => rw [writeOut, State.strm_setStrm_self]
  | cons r rest ih =>
    unfold writeOut
    split
    · rw [State.strm_setStrm_self]
    · rw [ih]
      have h1 := s.tankPut_same (s.outEntry st r.seq) r.header 0
      rw [(State.streamVec_same _ st).strm (by decide), h1.strm (by decide)]

/-- The numbers left are among those there were. -/
theorem flushSeqs_seqs (st : Nat) (l : List SeqSt) (s : State) : ∀ x ∈ ((flushSeqs st l s).strm st).seqs, x ∈ l := by
  induction l generalizing s with
  | nil => intro x hx; rw [flushSeqs, State.strm_setStrm_self] at hx; exact hx
  | cons r rest ih =>
    intro x hx
    unfold flushSeqs at hx
    split at hx
    · rwa [State.strm_setStrm_self] at hx
    · exact List.mem_cons_of_mem _ (ih _ x hx)

theorem State.flush_seqs (s : State) (st : Nat) : ∀ x ∈ ((s.flush st).strm st).seqs, x ∈ (s.strm st).seqs := by
  intro x hx
  unfold State.flush at hx
  rw [writeOut_seqs] at hx
  exact flushSeqs_seqs st _ s x hx

theorem Ctx.sreg_setS (c : Ctx) (r : Nat) (v : W64) : (c.setS r v).sreg r = if r = 0 then 0 else v := by
  unfold Ctx.sreg Ctx.setS
  split
  · rfl
  · simp

@[simp] theorem State.mapSeq_ctx (s : State) (st : Nat) (n : W32) (f : SeqSt → SeqSt) (i : Nat) : (s.mapSeq st n f).ctx i = s.ctx i := rfl
@[simp] theorem State.flush_ctx (s : State) (st i : Nat) : (s.flush st).ctx i = s.ctx i := (s.flush_same st).ctx (by decide) i
@[simp] theorem State.tankPut_ctx (s : State) (a : Nat) (bs : List Byte) (port i : Nat) : (s.tankPut a bs port).ctx i = s.ctx i :=
  (s.tankPut_same a bs port).ctx (by decide) i

/-! ## TAKE and JOIN -/

/-- The context after a result becomes current. -/
theorem relCurrent_ctx (i st : Nat) (n : W32) (rd : Nat) (v : W64) (s : State) :
    (relCurrent i st n rd v s).ctx i = { (s.ctx i).setS rd v with cur := some (st, n), poison := false, st := .run, hold := .free, pc := (s.ctx i).pc + 8 } := by
  unfold relCurrent
  extract_lets s1 s2 area src s3
  have h1 : s1.ctx i = s.ctx i := by
    dsimp only [s1]
    split
    · exact (s.markPoison_same _ _).ctx (by decide) i
    · rfl
  have h3 : s3.ctx i = s2.ctx i := by
    dsimp only [s3, State.when]
    split <;> rfl
  rw [(s3.mirrorSend_same _).ctx (by decide) i, h3, State.ctx_onCtx_self, h1]

/-- A clear poison flag marks nothing: the streams stay. -/
theorem relCurrent_strm {i : Nat} {s : State} (st : Nat) (n : W32) (rd : Nat) (v : W64) (h : (s.ctx i).poison = false) (q : Nat) :
    (relCurrent i st n rd v s).strm q = s.strm q := by
  unfold relCurrent
  extract_lets s1 s2 area src s3
  have h1 : s1 = s := by
    dsimp only [s1]
    rw [h]
  have h3 : s3.strm q = s2.strm q := by
    dsimp only [s3, State.when]
    split <;> rfl
  rw [(s3.mirrorSend_same _).strm (by decide) q, h3, h1.symm]
  rfl

/-- What holds of a context once a result is current. -/
theorem relCurrent_spec (i st : Nat) (n : W32) (rd : Nat) (v : W64) (s : State) :
    ((relCurrent i st n rd v s).ctx i).cur = some (st, n) ∧ ((relCurrent i st n rd v s).ctx i).poison = false ∧ ((relCurrent i st n rd v s).ctx i).st = .run
      ∧ ((relCurrent i st n rd v s).ctx i).pc = (s.ctx i).pc + 8 ∧ ((relCurrent i st n rd v s).ctx i).sreg rd = if rd = 0 then 0 else v := by
  rw [relCurrent_ctx]
  exact ⟨rfl, rfl, rfl, rfl, Ctx.sreg_setS (s.ctx i) rd v⟩

theorem takeDone_spec (i st rn : Nat) (r : SeqSt) (s : State) :
    ((takeDone i st rn r s).ctx i).cur = some (st, r.seq) ∧ ((takeDone i st rn r s).ctx i).poison = false ∧ ((takeDone i st rn r s).ctx i).st = .run
      ∧ ((takeDone i st rn r s).ctx i).pc = (s.ctx i).pc + 8 ∧ ((takeDone i st rn r s).ctx i).sreg rn = if rn = 0 then 0 else r.seq.zeroExtend 64 := by
  have h := relCurrent_spec i st r.seq rn (BitVec.ofNat 64 r.seq.toNat) (s.mapSeq st r.seq (fun x => { x with taken := true }))
  rw [State.mapSeq_ctx] at h
  obtain ⟨h1, h2, h3, h4, h5⟩ := h
  exact ⟨h1, h2, h3, h4, h5.trans (by rw [BitVec.ofNat_toNat])⟩

theorem takeDone_seqs {i : Nat} {s : State} (st rn : Nat) (r : SeqSt) (h : (s.ctx i).poison = false) :
    ((takeDone i st rn r s).strm st).seqs = (s.strm st).seqs.map (fun x => if x.seq = r.seq then { x with taken := true } else x) := by
  unfold takeDone
  rw [relCurrent_strm _ _ _ _ (by rwa [State.mapSeq_ctx]), State.mapSeq, State.strm_setStrm_self]

theorem joinDone_spec (i st : Nat) (n : W32) (rr : Nat) (s : State) :
    ((joinDone i st n rr s).ctx i).cur = some (st, n) ∧ ((joinDone i st n rr s).ctx i).poison = false ∧ ((joinDone i st n rr s).ctx i).st = .run
      ∧ ((joinDone i st n rr s).ctx i).pc = (s.ctx i).pc + 8 ∧ ((joinDone i st n rr s).ctx i).sreg rr = if rr = 0 ∨ (s.seqOf st n).isSome then 0 else 1 := by
  have h := relCurrent_spec i st n rr (if (s.seqOf st n).isSome then 0 else 1) s
  obtain ⟨h1, h2, h3, h4, h5⟩ := h
  refine ⟨h1, h2, h3, h4, h5.trans ?_⟩
  by_cases h0 : rr = 0
  · simp [h0]
  · simp [h0]

/-! ## DONE -/

theorem readRows_same (core port : Nat) (d : Desc) (l : List (Nat × Nat × Nat)) (s : State) : SameBut accessParts s (readRows core port d l s).1 := by
  induction l generalizing s with
  | nil => exact SameBut.refl _ _
  | cons x r ih => obtain ⟨a, b, c⟩ := x; exact (s.readFx_same _ _ _ _ _).trans (ih _)

theorem readRows_regsBut (core port : Nat) (d : Desc) (l : List (Nat × Nat × Nat)) (s : State) : RegsBut eccRegs s (readRows core port d l s).1 := by
  induction l generalizing s with
  | nil => exact RegsBut.refl _ _
  | cons x r ih => obtain ⟨a, b, c⟩ := x; exact (s.readFx_regsBut _ _ _ _ _).trans (ih _)

theorem RegsBut.lockMode {s t : State} (h : RegsBut eccRegs s t) : t.lockMode = s.lockMode := by
  unfold State.lockMode
  rw [h.rbit (by decide), h.rbit (by decide)]

/-- The context after a DONE returns its status. -/
theorem doneRet_ctx (i st : Nat) (n : W32) (rr status : Nat) (s : State) : (doneRet i st n rr status s).ctx i
    = { (s.ctx i).setS rr (BitVec.ofNat 64 status) with
        cur := if (s.ctx i).cur = some (st, n) then none else (s.ctx i).cur, st := .run, hold := .free, pc := (s.ctx i).pc + 8 } := State.ctx_onCtx_self _ _ _

theorem doneRet_strm (i st : Nat) (n : W32) (rr status : Nat) (s : State) (q : Nat) : (doneRet i st n rr status s).strm q = s.strm q := rfl

/-- What an accepted DONE leaves: status 0, the current result cleared when it names the number, and the number no longer open. -/
theorem doneAccept_spec {i st : Nat} {n : W32} {rr : Nat} {data : List Byte} {s : State} (hp : s.partBadAt 0 (s.outEntry st n + 32) data.length = false) :
    ((doneAccept i st n rr data s).ctx i).sreg rr = 0 ∧ ((doneAccept i st n rr data s).ctx i).cur = (if (s.ctx i).cur = some (st, n) then none else (s.ctx i).cur)
      ∧ ((doneAccept i st n rr data s).ctx i).st = .run ∧ ((doneAccept i st n rr data s).ctx i).hold = .free
      ∧ ((doneAccept i st n rr data s).ctx i).pc = (s.ctx i).pc + 8 ∧ ∀ x ∈ ((doneAccept i st n rr data s).strm st).seqs, x.seq = n → x.st ≠ .opened := by
  have he : doneAccept i st n rr data s = doneRet i st n rr 0
      (((s.tankPut (s.outEntry st n + 32) data (i / 4)).mapSeq st n (fun r => { r with st := .accepted data.length })).flush st) := by
    unfold doneAccept
    simp only [hp, State.poisonIf]
    rfl
  have hc : (((s.tankPut (s.outEntry st n + 32) data (i / 4)).mapSeq st n (fun r => { r with st := .accepted data.length })).flush st).ctx i = s.ctx i := by
    rw [State.flush_ctx, State.mapSeq_ctx, State.tankPut_ctx]
  rw [he]
  refine ⟨?_, ?_, ?_, ?_, ?_, ?_⟩
  · rw [doneRet_ctx]
    exact (Ctx.sreg_setS _ rr 0).trans (by simp)
  · rw [doneRet_ctx, hc]
  · rw [doneRet_ctx]
  · rw [doneRet_ctx]
  · rw [doneRet_ctx, hc]
  · intro x hx hn
    rw [doneRet_strm] at hx
    have hm := State.flush_seqs _ _ x hx
    rw [State.mapSeq, State.strm_setStrm_self, List.mem_map] at hm
    obtain ⟨y, -, rfl⟩ := hm
    by_cases hy : y.seq = n
    · simp [hy]
    · rw [if_neg hy] at hn
      exact absurd hn hy

/-- A DONE that nothing decides, whose writes have landed, whose entry is free and whose source is readable, is accepted. -/
theorem doneTry_accept {i st : Nat} {n : W32} {dw : BitVec 256} {rr : Nat} {s : State} (he : doneEarly i st n rr s = none) (hw : (s.ctx i).writes = [])
    (hf : s.outFree st n = true) (hb : (readRows (i / 4) (i / 4) (descOf dw) (descOf dw).rows s).2.2 = false) (hl : s.lockMode = false) :
    doneTry i st n dw rr s = doneAccept i st n rr (readRows (i / 4) (i / 4) (descOf dw) (descOf dw).rows s).2.1
      (readRows (i / 4) (i / 4) (descOf dw) (descOf dw).rows s).1 := by
  have hl1 := (readRows_regsBut (i / 4) (i / 4) (descOf dw) (descOf dw).rows s).lockMode.trans hl
  unfold doneTry
  simp only [he, hw, hf, hb, hl1]
  rfl

/-- The same of the attempt itself. -/
theorem doneTry_spec {i st : Nat} {n : W32} {dw : BitVec 256} {rr : Nat} {s : State} (he : doneEarly i st n rr s = none) (hw : (s.ctx i).writes = [])
    (hf : s.outFree st n = true) (hb : (readRows (i / 4) (i / 4) (descOf dw) (descOf dw).rows s).2.2 = false) (hl : s.lockMode = false)
    (hp : (readRows (i / 4) (i / 4) (descOf dw) (descOf dw).rows s).1.partBadAt 0 (s.outEntry st n + 32)
      (readRows (i / 4) (i / 4) (descOf dw) (descOf dw).rows s).2.1.length = false) :
    ((doneTry i st n dw rr s).ctx i).sreg rr = 0 ∧ ((doneTry i st n dw rr s).ctx i).cur = (if (s.ctx i).cur = some (st, n) then none else (s.ctx i).cur)
      ∧ ((doneTry i st n dw rr s).ctx i).st = .run ∧ ((doneTry i st n dw rr s).ctx i).hold = .free
      ∧ ((doneTry i st n dw rr s).ctx i).pc = (s.ctx i).pc + 8 ∧ ∀ x ∈ ((doneTry i st n dw rr s).strm st).seqs, x.seq = n → x.st ≠ .opened := by
  have hr := readRows_regsBut (i / 4) (i / 4) (descOf dw) (descOf dw).rows s
  have hc := (readRows_same (i / 4) (i / 4) (descOf dw) (descOf dw).rows s).ctx (by decide) i
  rw [doneTry_accept he hw hf hb hl, ← hc]
  exact doneAccept_spec (by rwa [hr.outEntry])

/-- The issue of an instruction whose body stays at its address. -/
theorem issue_stays {s u t : State} {k : CtxId} {w : BitVec 56} {legal : Bool} {needs : List LoadDst} {body : State → Res} (hu : u = s.fetchFx (ctxIx k))
    (hl : legal = true) (hr : Runs s k w needs) (hb : body u = .stay t) : issue k w legal needs body s = .next t := by
  subst hu
  rw [issue_of_runs hl hr, hb]; rfl

/-- Settles O19. -/
theorem releaseInstructions : Obligations.ReleaseInstructions := by
  intro s u k w i c st hu hi hc
  subst hi
  have hctx : ∀ q, u.ctx q = s.ctx q := fun q => by rw [hu, State.fetchFx_ctx]
  have hcu : u.ctx (ctxIx k) = c := (hctx _).trans hc.symm
  refine ⟨fun hw hst hlt hbd => ?_, ?_, ?_, ?_⟩
  have hstream : relStream c w = st := hst.symm
  have hok : relOk u st = true := by simp [relOk, hlt, hbd]
  refine ⟨?_, ?_, ?_⟩
  case refine_1.refine_1 =>
    intro hm hr hh r htk
    have he : exec (.relTake k w) s = .next (takeDone (ctxIx k) st (fw w 37 33) r u) := by
      show execRelTake k w s = _
      unfold execRelTake
      rw [if_neg (by simp [relRow, relMode, hm])]
      refine issue_stays hu (by simp [legalRel, relMode, hm, hw]) hr ?_
      simp only [hcu, hstream, hok, hh, htk]
      simp
    obtain ⟨h1, h2, h3, h4, h5⟩ := takeDone_spec (ctxIx k) st (fw w 37 33) r u
    rw [hcu] at h4
    exact ⟨_, he, h1, h2, h3, h4, h5, fun hp => takeDone_seqs _ _ _ (by rwa [hcu])⟩
  case refine_1.refine_2 =>
    intro hm hr hcb n hn has
    have he : exec (.relJoin k w) s = .next (joinDone (ctxIx k) st n (fw w 28 24) u) := by
      show execRelJoin k w s = _
      unfold execRelJoin
      rw [if_neg (by simp [relRow, relMode, hm])]
      refine issue_stays hu (by simp [legalRel, relMode, hm, hw]) hr ?_
      rw [BitVec.truncate_eq_setWidth, ← BitVec.ofNat_toNat] at hn
      simp only [hcu, hstream, hok, hcb, ← hn, has]
      simp
    obtain ⟨h1, h2, h3, h4, h5⟩ := joinDone_spec (ctxIx k) st n (fw w 28 24) u
    rw [hcu] at h4
    exact ⟨_, he, h1, h2, h3, h4, h5⟩
  case refine_1.refine_3 =>
    intro hm hr hcb hh n d hn hd hut hfb hcl hab hsb
    have he : exec (.relDone k w) s = .next (doneTry (ctxIx k) st n (c.dreg (fw w 32 29)) (fw w 28 24) u) := by
      show execRelDone k w s = _
      unfold execRelDone
      rw [if_neg (by simp [relRow, relMode, hm])]
      refine issue_stays hu (by simp [legalRel, relMode, hm, hw]) hr ?_
      rw [BitVec.truncate_eq_setWidth, ← BitVec.ofNat_toNat] at hn
      simp only [hcu, hstream, hok, hcb, ← hn, ← hd, hut, hh, hfb, hab, hsb]
      simp [hcl]
    subst hd
    refine ⟨fun hno => ?_, fun hea hwr hf hb hl hp => ?_⟩
    · have hret : doneTry (ctxIx k) st n (c.dreg (fw w 32 29)) (fw w 28 24) u = doneRet (ctxIx k) st n (fw w 28 24) 1 u := by
        unfold doneTry doneEarly
        simp only [hno]
      rw [GoesTo, ← hu, he, hret]
      rw [← hcu]
      exact State.setCtx_ctxTo _ _ _
    · have := doneTry_spec hea (by rwa [hcu]) hf hb hl hp
      rw [hcu] at this
      exact ⟨_, he, this⟩
  case refine_2 =>
    intro rn r hh htk
    have he : exec (.relWaitComplete k) s = .next (takeDone (ctxIx k) st rn r s) := by
      show execRelWaitComplete k s = _
      simp only [execRelWaitComplete, ← hc, hh, htk]
    obtain ⟨h1, h2, h3, h4, h5⟩ := takeDone_spec (ctxIx k) st rn r s
    rw [← hc] at h4
    exact ⟨_, he, h1, h2, h3, h4, h5⟩
  case refine_3 =>
    intro n rr hh has
    have he : exec (.relWaitComplete k) s = .next (joinDone (ctxIx k) st n rr s) := by
      show execRelWaitComplete k s = _
      simp only [execRelWaitComplete, ← hc, hh, has, if_true]
    obtain ⟨h1, h2, h3, h4, h5⟩ := joinDone_spec (ctxIx k) st n rr s
    rw [← hc] at h4
    exact ⟨_, he, h1, h2, h3, h4, h5⟩
  case refine_4 =>
    intro n dw rr hh hea hwr hf hb hl hp
    have he : exec (.doneEntryFree k) s = .next (doneTry (ctxIx k) st n dw rr s) := by
      show execDoneEntryFree k s = _
      simp only [execDoneEntryFree, doneAgain, ← hc, hh]
    have := doneTry_spec hea (by rwa [← hc]) hf hb hl hp
    rw [← hc] at this
    exact ⟨_, he, this⟩

end Sys2Proof.Machine
end

section
/-!
PROOFS. The safe state, current and excitation outputs, PWM outputs and capture inputs.
-/
set_option Elab.async false

namespace Sys2Proof.Machine

/-! ## Outputs off -/

/-- The registers that the safe state clears. -/
abbrev outRegs : List Nat := (List.range 8).flatMap (fun n => [Reg.ACT_AO_CODE n, Reg.ACT_PWM_DUTY n])

theorem State.reg_setReg_zero (s : State) (a b : Nat) (h : s.reg b = 0) : (s.setReg a 0).reg b = 0 := by
  rw [State.reg_setReg]; split
  · rfl
  · exact h

/-- Clearing registers one pair after the other leaves every one of them 0. -/
theorem clearPairs_zero (l : List Nat) (f g : Nat → Nat) (s : State) {b : Nat} (h : s.reg b = 0 ∨ b ∈ l.flatMap (fun n => [f n, g n])) :
    (l.foldl (fun t n => (t.setReg (f n) 0).setReg (g n) 0) s).reg b = 0 := by
  induction l generalizing s with
  | nil => simpa using h
  | cons n r ih =>
    refine ih _ ?_
    obtain h | h := h
    · exact .inl (State.reg_setReg_zero _ _ _ (State.reg_setReg_zero _ _ _ h))
    · rw [List.flatMap_cons, List.mem_append] at h
      obtain h | h := h
      · left
        simp only [List.mem_cons, List.not_mem_nil, or_false] at h
        obtain rfl | rfl := h
        · exact State.reg_setReg_zero _ _ _ (State.reg_setReg_self _ _ _)
        · exact State.reg_setReg_self _ _ _
      · exact .inr h

theorem clearPairs_regsBut (l : List Nat) (f g : Nat → Nat) (s : State) :
    RegsBut (l.flatMap (fun n => [f n, g n])) s (l.foldl (fun t n => (t.setReg (f n) 0).setReg (g n) 0) s) := by
  refine RegsBut.foldl (fun t n hn => ?_) s
  refine ((t.setReg_regsBut _ _).mono ?_).then (State.setReg_regsBut _ _ _) ?_
  · intro a ha; exact List.mem_flatMap.mpr ⟨n, hn, by simp_all⟩
  · intro a ha; exact List.mem_flatMap.mpr ⟨n, hn, by simp_all⟩

theorem clearPairs_same (l : List Nat) (f g : Nat → Nat) (s : State) : SameBut [.regs] s (l.foldl (fun t n => (t.setReg (f n) 0).setReg (g n) 0) s) :=
  SameBut.foldl (fun (t : State) n => (t.setReg_same (f n) 0).trans (State.setReg_same _ (g n) 0)) _ _

/-- What the outputs' state is once they are off. -/
def ActSt.off (a : ActSt) : ActSt := { a with safe := true, level := [], drv := [], pwmOn := [], aoq := a.aoq.map (fun w => { w with dead := true }) }

theorem outputsOff_act (s : State) : (outputsOff s).act = s.act.off := by
  have h : ∀ l : List Nat, (l.foldl (fun t n => (t.setReg (Reg.ACT_AO_CODE n) 0).setReg (Reg.ACT_PWM_DUTY n) 0) s).act = s.act :=
    fun l => clearPairs_same l _ _ s .act (by decide)
  unfold outputsOff
  rw [State.act_onAct, h]
  rfl

theorem outputsOff_zero (s : State) {a : Nat} (h : a ∈ outRegs) : (outputsOff s).reg a = 0 := by
  unfold outputsOff
  rw [State.reg_onAct]
  exact clearPairs_zero _ _ _ s (.inr h)

theorem outputsOff_regsBut (s : State) : RegsBut outRegs s (outputsOff s) := by
  intro a ha
  unfold outputsOff
  rw [State.reg_onAct]
  exact clearPairs_regsBut _ _ _ s a ha

theorem outputsOff_same (s : State) : SameBut [.regs, .act] s (outputsOff s) :=
  ((clearPairs_same _ _ _ s).mono (by decide)).then (State.onAct_same _ _)

/-! ## The safe state -/

/-- Begins the safe state: outputs off, with event 0x0902. -/
theorem safeSync_enters {s : State} (hu : s.up 8 = true) (hc : s.safeCause = true) (hs : s.act.safe = false) :
    safeSync s = (outputsOff s).raise 0x0902 1 0x700 (outputsOff s).actSafe := by
  simp [safeSync, hu, hc, hs]

theorem safeSync_ends {s : State} (hu : s.up 8 = true) (hc : s.safeCause = false) : safeSync s = s.onAct (fun a => { a with safe := false }) := by
  unfold safeSync
  cases hs : s.act.safe
  · simp only [hu, hc]
    show s = { s with act := { s.act with safe := false } }
    rw [← hs]
  · simp [hu, hc]

theorem safeSync_stays {s : State} (hc : s.safeCause = true) (hs : s.act.safe = true) : safeSync s = s := by
  simp [safeSync, hc, hs]

theorem safeSync_down {s : State} (hu : s.up 8 = false) : safeSync s = s := by simp [safeSync, hu]

theorem State.safeCause_eq (s : State) : s.safeCause = (s.act.stop || s.act.stopL || !s.auth || s.rbit Reg.ACT_SAFE 5 || s.act.vflow) := rfl

/-- What the safe state does once its causes are set. -/
theorem safeSync_spec {s : State} (hu : s.up 8 = true) :
    (safeSync s).act.stop = s.act.stop ∧ (safeSync s).act.stopL = s.act.stopL ∧ (safeSync s).act.vflow = s.act.vflow
      ∧ (safeSync s).rbit Reg.ACT_SAFE 5 = s.rbit Reg.ACT_SAFE 5 ∧ (safeSync s).act.safe = s.safeCause
      ∧ (s.act.safe = false → (safeSync s).act.safe = true → (∀ a ∈ outRegs, (safeSync s).reg a = 0) ∧ (safeSync s).act.level = [] ∧ (safeSync s).act.drv = []
          ∧ (safeSync s).act.pwmOn = [] ∧ (∀ w ∈ (safeSync s).act.aoq, w.dead = true) ∧ Raised 0x0902 s (safeSync s))
      ∧ ((s.act.safe = true ∨ (safeSync s).act.safe = false) → Quiet s (safeSync s) ∧ RegsBut [] s (safeSync s))
      ∧ RegsBut outRegs s (safeSync s) ∧ SameBut [.ev, .hostMem, .regs, .act] s (safeSync s) := by
  cases hc : s.safeCause
  case false =>
    rw [safeSync_ends hu hc]
    exact ⟨rfl, rfl, rfl, rfl, rfl, fun _ h => absurd h (by simp [State.act_onAct]), fun _ => ⟨rfl, (s.onAct_same _).regsBut _⟩, (s.onAct_same _).regsBut _,
      (s.onAct_same _).mono (by decide)⟩
  case true =>
    cases hs : s.act.safe
    case true =>
      rw [safeSync_stays hc hs]
      exact ⟨rfl, rfl, rfl, rfl, hs, fun h => absurd h (by simp), fun _ => ⟨rfl, RegsBut.refl _ _⟩, RegsBut.refl _ _, SameBut.refl _ _⟩
    case false =>
      rw [safeSync_enters hu hc hs]
      have hreg : RegsBut outRegs s ((outputsOff s).raise 0x0902 1 0x700 (outputsOff s).actSafe) := (outputsOff_regsBut s).trans (State.raise_regsBut _ _ _ _ _ _)
      have hact : ((outputsOff s).raise 0x0902 1 0x700 (outputsOff s).actSafe).act = s.act.off := by rw [State.raise_act, outputsOff_act]
      have hev : (outputsOff s).ev = s.ev := outputsOff_same s .ev (by decide)
      have hraise : Raised 0x0902 s ((outputsOff s).raise 0x0902 1 0x700 (outputsOff s).actSafe) := by
        have := (outputsOff s).raise_raised 0x0902 1 0x700 (outputsOff s).actSafe
        rwa [Raised, hev] at this
      refine ⟨by rw [hact]; rfl, by rw [hact]; rfl, by rw [hact]; rfl, hreg.rbit (by decide) 5, by rw [hact]; rfl, fun _ _ => ⟨fun a ha => ?_, ?_⟩, fun h => ?_, hreg,
        ((outputsOff_same s).mono (by decide)).then (State.raise_same _ _ _ _ _)⟩
      · rw [State.raise_reg]; exact outputsOff_zero s ha
      · rw [hact]
        exact ⟨rfl, rfl, rfl, by simp [ActSt.off], hraise⟩
      · rw [hact] at h
        exact absurd h (by simp [ActSt.off])

/-- The same where a cause was set before: seen from the state before. -/
theorem safeSync_after {s t : State} (hu : t.up 8 = true) (ha : t.auth = s.auth) (hsafe : t.act.safe = s.act.safe) (hreg : RegsBut [Reg.ACT_SAFE] s t)
    (hsame : SameBut [.regs, .act] s t) :
    (safeSync t).act.stop = t.act.stop ∧ (safeSync t).act.stopL = t.act.stopL ∧ (safeSync t).act.vflow = t.act.vflow
      ∧ (safeSync t).rbit Reg.ACT_SAFE 5 = t.rbit Reg.ACT_SAFE 5
      ∧ (safeSync t).act.safe = (t.act.stop || t.act.stopL || !s.auth || t.rbit Reg.ACT_SAFE 5 || t.act.vflow)
      ∧ (s.act.safe = false → (safeSync t).act.safe = true → (∀ a ∈ outRegs, (safeSync t).reg a = 0) ∧ (safeSync t).act.level = [] ∧ (safeSync t).act.drv = []
          ∧ (safeSync t).act.pwmOn = [] ∧ (∀ w ∈ (safeSync t).act.aoq, w.dead = true) ∧ Raised 0x0902 s (safeSync t))
      ∧ ((s.act.safe = true ∨ (safeSync t).act.safe = false) → Quiet s (safeSync t) ∧ RegsBut [Reg.ACT_SAFE] s (safeSync t))
      ∧ RegsBut (Reg.ACT_SAFE :: outRegs) s (safeSync t) ∧ SameBut [.ev, .hostMem, .regs, .act] s (safeSync t) := by
  have hev : t.ev = s.ev := hsame .ev (by decide)
  obtain ⟨h1, h2, h3, h4, h5, h6, h7, h8, h9⟩ := safeSync_spec hu
  refine ⟨h1, h2, h3, h4, ?_, fun hs ht => ?_, fun h => ?_, ?_, ?_⟩
  · rw [h5, State.safeCause_eq, ha]
  · rw [← hsafe] at hs
    have := h6 hs ht
    rwa [Raised, hev] at this
  · rw [← hsafe] at h
    obtain ⟨hq, hr⟩ := h7 h
    rw [Quiet, hev] at hq
    exact ⟨hq, hreg.trans (hr.mono (by simp))⟩
  · exact (hreg.mono (by simp)).trans (h8.mono fun a ha => List.mem_cons_of_mem _ ha)
  · exact (hsame.mono (by decide)).trans h9

/-- Settles O23. -/
theorem safeStateFollowsItsCauses : Obligations.SafeStateFollowsItsCauses := by
  intro s
  refine ⟨fun hd => ⟨?_, ?_⟩, fun hu outs ho => ⟨fun hs => ?_, fun j st sl vl f hj => ?_, fun who hs => ?_⟩⟩
  case refine_1 =>
    show Host.Outcome.next (safeSync (s.onAct fun a => { a with vflow := true })) = _
    rw [safeSync_down (show (s.onAct _).up 8 = false from hd)]; rfl
  case refine_2 =>
    show Host.Outcome.next (safeSync (s.onAct fun a => { a with vflow := false })) = _
    rw [safeSync_down (show (s.onAct _).up 8 = false from hd)]; rfl
  case refine_3 =>
    let s1 := s.onAct (fun a => { a with stop := true, stopL := true })
    have he : exec .stopNAssertAccept s = .next ((outputsOff s1).raise 0x0901 2 0x700 (Tab.getD s.cnt.can 0 0).toNat) := by
      show execStopNAssertAccept s = _
      simp only [execStopNAssertAccept, hu, hs, State.when]
      rfl
    have hev : (outputsOff s1).ev = s.ev := outputsOff_same s1 .ev (by decide)
    subst ho
    refine ⟨_, he, ?_, fun a ha => ?_, ?_, ?_, ?_⟩
    · rw [State.raise_act, outputsOff_act]; rfl
    · rw [State.raise_reg]; exact outputsOff_zero s1 ha
    · exact ((s.onAct_same _).regsBut _).trans ((outputsOff_regsBut s1).trans (State.raise_regsBut _ _ _ _ _ _))
    · have := (outputsOff s1).raise_raised 0x0901 2 0x700 (Tab.getD s.cnt.can 0 0).toNat
      rwa [Raised, hev] at this
    · exact (((s.onAct_same _).mono (by decide)).then (outputsOff_same s1)).then (State.raise_same _ _ _ _ _)
  case refine_4 =>
    subst ho
    obtain ⟨rfl, rfl, rfl, rfl, rfl⟩ | ⟨rfl, rfl, rfl, rfl, rfl⟩ | ⟨rfl, rfl, rfl, rfl, rfl⟩ | ⟨who, hr, ⟨on, rfl, rfl, rfl, rfl, rfl⟩ | ⟨rfl, hst, rfl, rfl, rfl, rfl⟩⟩ := hj
    · refine ⟨_, ?_, safeSync_after (t := s.onAct (fun a => { a with stop := false })) hu rfl rfl ((s.onAct_same _).regsBut _) ((s.onAct_same _).mono (by decide))⟩
      show execStopNDeassertAccept s = _
      simp only [execStopNDeassertAccept, hu, State.when, if_true]
    · exact ⟨_, rfl, safeSync_after (t := s.onAct (fun a => { a with vflow := true })) hu rfl rfl ((s.onAct_same _).regsBut _) ((s.onAct_same _).mono (by decide))⟩
    · exact ⟨_, rfl, safeSync_after (t := s.onAct (fun a => { a with vflow := false })) hu rfl rfl ((s.onAct_same _).regsBut _) ((s.onAct_same _).mono (by decide))⟩
    · have h := safeSync_after (s := s) (t := s.setFld Reg.ACT_SAFE 5 5 (b2n f)) hu rfl (by rw [State.setFld_act]) (s.setFld_regsBut _ _ _ _)
        ((s.setFld_same _ _ _ _).mono (by decide))
      have hf : (s.setFld Reg.ACT_SAFE 5 5 (b2n f)).rbit Reg.ACT_SAFE 5 = f := by
        rw [State.rbit_setFld_self _ _ _ _ _ _ (by decide) (by decide)]
        cases f <;> simp [b2n]
      rw [State.setFld_act, hf] at h
      exact ⟨_, next_access (f := fun s => safeSync (s.setFld Reg.ACT_SAFE 5 5 (b2n f))) hr, h⟩
    · refine ⟨_, next_access (f := fun s => if s.act.stop then s else safeSync (s.onAct (fun a => { a with stopL := false }))) hr, ?_⟩
      simp only [hst]
      have h := safeSync_after (s := s) (t := s.onAct (fun a => { a with stopL := false })) hu rfl rfl ((s.onAct_same _).regsBut _) ((s.onAct_same _).mono (by decide))
      have hst' : (s.onAct (fun a => { a with stopL := false })).act.stop = false := hst
      rw [hst'] at h
      exact h
  case refine_5 =>
    show Host.Outcome.next (s.access who Reg.ACT_SAFE _) = _
    unfold State.access
    simp only [hs, if_true]
    rfl

/-! ## Current outputs -/

theorem aoApply_safe {s : State} (h : s.act.safe = true) (w : AoWrite) : aoApply s w = s := by simp [aoApply, h]
theorem aoApply_dead (s : State) {w : AoWrite} (h : w.dead = true) : aoApply s w = s := by simp [aoApply, h]

theorem unary_eq_iff (x y : BitVec 16) : unary x = unary y ↔ x.extractLsb' 10 6 = y.extractLsb' 10 6 := by
  have hx := x.isLt
  have hy := y.isLt
  rw [← BitVec.toNat_inj, BitVec.extractLsb'_toNat, BitVec.extractLsb'_toNat, Nat.shiftRight_eq_div_pow, Nat.shiftRight_eq_div_pow, unary, unary]
  omega

/-- A code that takes effect stands in its register, and in its level where CODE[15:10] agree. -/
theorem aoApply_spec {s : State} {w : AoWrite} (hs : s.act.safe = false) (hw : w.dead = false) :
    (aoApply s w).reg (Reg.ACT_AO_CODE w.ch) = w.code.zeroExtend 32
      ∧ Tab.getD (aoApply s w).act.level w.ch 0
        = (if w.code.extractLsb' 10 6 = (Tab.getD s.act.level w.ch 0).extractLsb' 10 6 then w.code else Tab.getD s.act.level w.ch 0) := by
  unfold aoApply
  rw [if_neg (by simp [hs, hw])]
  dsimp only
  simp only [← unary_eq_iff, BitVec.ofNat_toNat]
  split
  · rw [State.reg_onAct, State.act_onAct]
    exact ⟨State.reg_setReg_self _ _ _, by simp⟩
  · exact ⟨State.reg_setReg_self _ _ _, rfl⟩

theorem aoApply_frame (s : State) (w : AoWrite) : RegsBut [Reg.ACT_AO_CODE w.ch] s (aoApply s w)
    ∧ (∀ ch, ch ≠ w.ch → Tab.getD (aoApply s w).act.level ch 0 = Tab.getD s.act.level ch 0)
    ∧ (aoApply s w).act = { s.act with level := (aoApply s w).act.level } ∧ SameBut [.regs, .act] s (aoApply s w) := by
  unfold aoApply
  split
  · exact ⟨RegsBut.refl _ _, fun _ _ => rfl, rfl, SameBut.refl _ _⟩
  · dsimp only
    split
    · exact ⟨(s.setReg_regsBut _ _).trans ((State.onAct_same _ _).regsBut _), fun ch h => Tab.getD_setD_ne _ _ _ _ h, rfl,
        ((s.setReg_same _ _).mono (by decide)).then (State.onAct_same _ _)⟩
    · exact ⟨s.setReg_regsBut _ _, fun _ _ => rfl, rfl, (s.setReg_same _ _).mono (by decide)⟩

theorem aoCode_inj {x y : Nat} (h : Reg.ACT_AO_CODE x = Reg.ACT_AO_CODE y) : x = y := by
  unfold Reg.ACT_AO_CODE at h; omega

/-- The tick takes the waiting writes one after the other: each channel gets its own. -/
theorem aoTick_spec (l : List AoWrite) {s : State} (hp : l.Pairwise (fun x y => x.ch ≠ y.ch)) (hs : s.act.safe = false) :
    (∀ x ∈ l, x.dead = false → (l.foldl aoApply s).reg (Reg.ACT_AO_CODE x.ch) = x.code.zeroExtend 32
        ∧ Tab.getD (l.foldl aoApply s).act.level x.ch 0
          = (if x.code.extractLsb' 10 6 = (Tab.getD s.act.level x.ch 0).extractLsb' 10 6 then x.code else Tab.getD s.act.level x.ch 0))
      ∧ RegsBut ((l.filter (fun x => !x.dead)).map (fun x => Reg.ACT_AO_CODE x.ch)) s (l.foldl aoApply s)
      ∧ (∀ ch, (∀ x ∈ l, x.dead = false → x.ch ≠ ch) → Tab.getD (l.foldl aoApply s).act.level ch 0 = Tab.getD s.act.level ch 0)
      ∧ (l.foldl aoApply s).act = { s.act with level := (l.foldl aoApply s).act.level } ∧ SameBut [.regs, .act] s (l.foldl aoApply s) := by
  induction l generalizing s with
  | nil => exact ⟨by simp, RegsBut.refl _ _, fun _ _ => rfl, rfl, SameBut.refl _ _⟩
  | cons w r ih =>
    rw [List.pairwise_cons] at hp
    obtain ⟨hreg, hlev, hact, hsame⟩ := aoApply_frame s w
    have hs1 : (aoApply s w).act.safe = false := by rw [hact]; exact hs
    obtain ⟨hin, hregs, hlevs, hacts, hsames⟩ := ih hp.2 hs1
    rw [List.foldl_cons]
    refine ⟨fun x hx hd => ?_, fun a ha => ?_, fun ch hch => ?_, ?_, hsame.trans hsames⟩
    · obtain rfl | hx := List.mem_cons.mp hx
      · obtain ⟨h1, h2⟩ := aoApply_spec hs hd
        rw [hregs, hlevs _ fun y hy _ => (hp.1 y hy).symm, h1, h2]
        · exact ⟨rfl, rfl⟩
        · intro hm
          obtain ⟨y, hy, he⟩ := List.mem_map.mp hm
          exact hp.1 y (List.mem_of_mem_filter hy) (aoCode_inj he).symm
      · obtain ⟨h1, h2⟩ := hin x hx hd
        rw [hlev _ (hp.1 x hx).symm] at h2
        exact ⟨h1, h2⟩
    · by_cases hd : w.dead = true
      · rw [List.filter_cons_of_neg (by simp [hd])] at ha
        rw [hregs a ha, aoApply_dead s hd]
      · rw [List.filter_cons_of_pos (by simp [hd]), List.map_cons, List.mem_cons, not_or] at ha
        rw [hregs a ha.2, hreg a (by simpa using ha.1)]
    · rw [hlevs ch fun y hy => hch y (List.mem_cons_of_mem _ hy)]
      by_cases hd : w.dead = true
      · rw [aoApply_dead s hd]
      · exact hlev ch (hch w (List.mem_cons_self) (by simpa using hd)).symm
    · rw [hacts, hact]

theorem aoTick_safe (l : List AoWrite) {s : State} (hs : s.act.safe = true) : l.foldl aoApply s = s := by
  induction l with
  | nil => rfl
  | cons w r ih => rw [List.foldl_cons, aoApply_safe hs, ih]

/-! ## Status bits with an event -/

theorem State.raiseIf_same (s : State) (b : Bool) (code sev src pay : Nat) : SameBut evParts s (s.raiseIf b code sev src pay) :=
  sameBut_ite (s.raise_same _ _ _ _) (SameBut.refl _ _)

theorem statBit_rbit (s : State) {b i : Nat} (on : Bool) (code pay : Nat) (hi : i < 32) :
    (statBit b on code pay s).rbit Reg.ACT_AO_STAT i = if i = b then on else s.rbit Reg.ACT_AO_STAT i := by
  have h1 : (statBit b on code pay s).rbit Reg.ACT_AO_STAT i = (s.setFld Reg.ACT_AO_STAT b b (b2n on)).rbit Reg.ACT_AO_STAT i :=
    congrArg (bit · i) ((State.raiseIf_same _ _ _ _ _ _).reg (by decide) _)
  rw [h1, State.rbit_setFld_self _ _ _ _ _ _ (Nat.le_refl b) hi]
  by_cases h : i = b
  · subst h
    rw [if_pos ⟨Nat.le_refl i, Nat.le_refl i⟩, if_pos rfl, Nat.sub_self]
    cases on <;> rfl
  · rw [if_neg (by omega), if_neg h]

theorem statBit_regsBut (s : State) (b : Nat) (on : Bool) (code pay : Nat) : RegsBut [Reg.ACT_AO_STAT] s (statBit b on code pay s) :=
  (s.setFld_regsBut _ _ _ _).trans ((State.raiseIf_same _ _ _ _ _ _).regsBut _)

theorem statBit_same (s : State) (b : Nat) (on : Bool) (code pay : Nat) : SameBut [.ev, .hostMem, .regs] s (statBit b on code pay s) :=
  ((s.setFld_same _ _ _ _).mono (by decide)).then (State.raiseIf_same _ _ _ _ _ _)

/-- A bit that rises raises its event. -/
theorem statBit_raised {s : State} {b : Nat} {on : Bool} (code pay : Nat) (h : (on && !s.rbit Reg.ACT_AO_STAT b) = true) :
    Raised code s (statBit b on code pay s) := by
  unfold statBit State.raiseIf
  rw [if_pos h]
  exact State.raise_raised (s.setFld _ _ _ _) _ _ _ _

theorem statBit_quiet {s : State} {b : Nat} {on : Bool} (code pay : Nat) (h : (on && !s.rbit Reg.ACT_AO_STAT b) = false) :
    (statBit b on code pay s).ev = s.ev := by
  unfold statBit State.raiseIf
  rw [if_neg (by simp [h])]
  rfl

/-- Settles O24. -/
theorem currentAndExcitationOutputs : Obligations.CurrentAndExcitationOutputs := by
  intro s hu
  refine ⟨fun hp => ?_, fun ch => ?_, fun ch limit compl => ?_, fun m on => ?_⟩
  case refine_1 =>
    have he : exec .aoUpdateTick s = .next ((s.act.aoq.foldl aoApply s).onAct (fun a => { a with aoq := [] })) := by
      show execAoUpdateTick s = _
      simp only [execAoUpdateTick, hu, State.when, if_true]
    refine ⟨_, he, rfl, fun hs => ?_, fun hs => ?_, ?_⟩
    · rw [aoTick_safe _ hs]; rfl
    · obtain ⟨h1, h2, h3, h4, -⟩ := aoTick_spec s.act.aoq hp hs
      refine ⟨fun x hx hd => ?_, fun a ha => ?_, fun ch hch => h3 ch hch, ?_⟩
      · rw [State.reg_onAct]
        exact h1 x hx hd
      · rw [State.reg_onAct]
        exact h2 a ha
      · rw [State.act_onAct, h4]
    · cases hs : s.act.safe
      · obtain ⟨-, -, -, -, hsame⟩ := aoTick_spec s.act.aoq hp hs
        exact hsame.then (State.onAct_same _ _)
      · rw [aoTick_safe _ hs]; exact (s.onAct_same _).mono (by decide)
  case refine_2 =>
    have he : exec (.aoDeglitchTransfer ch) s = .next (s.onAct (fun a => { a with level := Tab.setD a.level ch.val 0 (BitVec.ofNat 16 (s.fld (Reg.ACT_AO_CODE ch.val) 15 0)) })) := by
      show execAoDeglitchTransfer ch s = _
      simp only [execAoDeglitchTransfer, hu, State.when, if_true]
    exact ⟨_, he, Tab.getD_setD_self _ _ _ _, fun q hq => Tab.getD_setD_ne _ _ _ _ hq, rfl, s.onAct_same _⟩
  case refine_3 =>
    let t := statBit ch.val compl 0x0903 ch.val s
    have he : exec (.aoLimitChange ch limit compl) s = .next (statBit (8 + ch.val) limit 0x0903 (ch.val + 256) t) := by
      show execAoLimitChange ch limit compl s = _
      simp only [execAoLimitChange, hu, State.when, if_true, t]
    have ht : t.rbit Reg.ACT_AO_STAT (8 + ch.val) = s.rbit Reg.ACT_AO_STAT (8 + ch.val) := by
      rw [statBit_rbit _ _ _ _ (by omega), if_neg (by omega)]
    refine ⟨_, he, fun b hb => ?_, fun hne => ?_, fun hl hc => ?_, ?_, ?_⟩
    · rw [statBit_rbit _ _ _ _ hb, statBit_rbit _ _ _ _ hb]
    · by_cases hl : (limit && !s.rbit Reg.ACT_AO_STAT (8 + ch.val)) = true
      · have hc : (compl && !s.rbit Reg.ACT_AO_STAT ch.val) = false := by
          rw [hl] at hne; exact Bool.eq_false_iff.mpr fun h => hne h.symm
        have := statBit_raised (s := t) 0x0903 (ch.val + 256) (b := 8 + ch.val) (on := limit) (by rw [ht]; exact hl)
        rwa [Raised, statBit_quiet _ _ hc] at this
      · have hl' := Bool.eq_false_iff.mpr hl
        have hc : (compl && !s.rbit Reg.ACT_AO_STAT ch.val) = true := by
          rw [hl'] at hne; exact (Bool.not_eq_false _).mp fun h => hne h.symm
        have hr := statBit_raised 0x0903 ch.val hc
        rw [Raised, statBit_quiet (s := t) _ _ (by rw [ht]; exact hl')]
        exact hr
    · rw [Quiet, statBit_quiet (s := t) _ _ (by rw [ht]; exact hl), statBit_quiet _ _ hc]
    · exact (statBit_regsBut s _ _ _ _).trans (statBit_regsBut t _ _ _ _)
    · exact (statBit_same s _ _ _ _).trans (statBit_same t _ _ _ _)
  case refine_4 =>
    have he : exec (.excLimit m on) s = .next (statBit (16 + m.val) on 0x0904 m.val s) := by
      show execExcLimit m on s = _
      simp only [execExcLimit, hu, State.when, if_true]
    refine ⟨_, he, fun b hb => statBit_rbit _ _ _ _ hb, fun hon hb => statBit_raised _ _ (by simp [hon, hb]), fun h => ?_, statBit_regsBut _ _ _ _ _, statBit_same _ _ _ _ _⟩
    rw [Quiet, statBit_quiet _ _ ?_]
    obtain h | h := h
    · simp [h]
    · simp [h]

/-! ## PWM outputs and capture inputs -/

theorem State.msc_setMsc_self (s : State) (m : Nat) (x : MsrConv) : (s.setMsc m x).msc m = x := Tab.getD_setD_self s.msr.conv m _ x
theorem State.msc_setMsc_ne (s : State) {m q : Nat} (x : MsrConv) (h : q ≠ m) : (s.setMsc m x).msc q = s.msc q := Tab.getD_setD_ne s.msr.conv _ _ _ h
theorem State.setMsc_same (s : State) (m : Nat) (x : MsrConv) : SameBut [.msr] s (s.setMsc m x) := by
  intro p hp; cases p <;> first | rfl | exact absurd (by decide) hp

theorem SameBut.msc {l : List Piece} {s t : State} (h : SameBut l s t) (hl : .msr ∉ l := by decide) (m : Nat) : t.msc m = s.msc m := by
  unfold State.msc; rw [h .msr hl]

theorem edgeSeen_same (m n : Nat) (rising : Bool) (s : State) : SameBut [.msr] s (edgeSeen m n rising s) :=
  sameBut_ite (s.setMsc_same _ _) (SameBut.refl _ _)

theorem edgeSeen_msc_ne {m q : Nat} (n : Nat) (rising : Bool) (s : State) (h : q ≠ m) : (edgeSeen m n rising s).msc q = s.msc q := by
  unfold edgeSeen
  dsimp only
  split
  · exact s.msc_setMsc_ne _ h
  · rfl

theorem dir_takes (d : Nat) (rising : Bool) : (decide (2 ≤ d) || (d == 0) == rising) = true ↔ 2 ≤ d ∨ d = b2n (!rising) := by
  rcases d with _ | _ | d <;> cases rising <;> simp [b2n]

/-- An edge is one more trigger for an enabled converter whose edge mode selects the input and the direction. -/
theorem edgeSeen_msc_self (m n : Nat) (rising : Bool) (s : State) : (edgeSeen m n rising s).msc m
    = if s.mscOn m = true ∧ s.mscTrig m = 2 ∧ s.fld (Reg.MSRC_CTL m) 5 3 = n ∧ (2 ≤ s.fld (Reg.MSRC_CTL m) 7 6 ∨ s.fld (Reg.MSRC_CTL m) 7 6 = b2n (!rising))
      then { s.msc m with edges := (s.msc m).edges + 1 } else s.msc m := by
  unfold edgeSeen
  simp only [Bool.and_eq_true, beq_iff_eq, dir_takes, and_assoc]
  split
  · exact s.msc_setMsc_self _ _
  · rfl

theorem RegsBut.mscOn {l : List Nat} {s t : State} (h : RegsBut l s t) (hr : t.rst = s.rst) {m : Nat} (hm : Reg.MSRC_CTL m ∉ l) : t.mscOn m = s.mscOn m := by
  unfold State.mscOn State.up State.domSt
  rw [h.rbit hm, hr]

/-- What a converter makes of an edge rests on its own registers and state. -/
theorem edgeSeen_msc_congr {m : Nat} (n : Nat) (rising : Bool) {l : List Nat} {s t : State} (h : RegsBut l s t) (hr : t.rst = s.rst) (hm : Reg.MSRC_CTL m ∉ l)
    (hc : t.msc m = s.msc m) : (edgeSeen m n rising t).msc m = (edgeSeen m n rising s).msc m := by
  rw [edgeSeen_msc_self, edgeSeen_msc_self, hc, State.mscTrig, State.mscTrig]
  exact if_congr (by rw [h.mscOn hr hm, h.fld hm, h.fld hm, h.fld hm]) rfl rfl

/-- The converters see an edge one after the other, each for itself. -/
theorem edges_msc (n : Nat) (rising : Bool) (l : List Nat) (hl : l.Nodup) (s : State) (m : Nat) (hm : m ∈ l) :
    (l.foldl (fun t m => edgeSeen m n rising t) s).msc m = (edgeSeen m n rising s).msc m := by
  have hrest : ∀ (r : List Nat) (t : State), m ∉ r → (r.foldl (fun t m => edgeSeen m n rising t) t).msc m = t.msc m := by
    intro r
    induction r with
    | nil => intro t _; rfl
    | cons x r ih =>
      intro t hx
      rw [List.mem_cons, not_or] at hx
      rw [List.foldl_cons, ih _ hx.2, edgeSeen_msc_ne _ _ _ hx.1]
  induction l generalizing s with
  | nil => exact absurd hm (by simp)
  | cons x r ih =>
    rw [List.nodup_cons] at hl
    obtain rfl | hr := List.mem_cons.mp hm
    · rw [List.foldl_cons, hrest r _ hl.1]
    · have hne : m ≠ x := fun h => hl.1 (h ▸ hr)
      have hs := edgeSeen_same x n rising s
      rw [List.foldl_cons, ih hl.2 _ hr]
      exact edgeSeen_msc_congr n rising (hs.regsBut []) (hs .rst (by decide)) (by simp) (edgeSeen_msc_ne _ _ _ hne)

theorem State.fld_onAct (s : State) (f : ActSt → ActSt) (a hi lo : Nat) : (s.onAct f).fld a hi lo = s.fld a hi lo := rfl

theorem State.fld_lt (s : State) (a hi lo : Nat) : s.fld a hi lo < 2 ^ (hi + 1 - lo) := Nat.mod_lt _ (Nat.two_pow_pos _)

/-- What CAPTURE_EDGE does to its input's registers. -/
def capture (n : Nat) (rising : Bool) (ticks : W32) (s : State) : State :=
  let s1 := s.incWrap (Reg.ACT_CAP_EDGES n) 1
  let s2 := if !(Tab.getD s.act.cap n false) then s1 else if rising then s1.setReg (Reg.ACT_CAP_PER n) ticks else s1.setReg (Reg.ACT_CAP_HIGH n) ticks
  if rising then s2.onAct (fun a => { a with cap := Tab.setD a.cap n false true }) else s2

/-- The registers of a capture input. -/
abbrev capRegs (n : Nat) : List Nat := [Reg.ACT_CAP_EDGES n, Reg.ACT_CAP_PER n, Reg.ACT_CAP_HIGH n]

theorem capture_reg (n : Nat) (rising : Bool) (ticks : W32) (s : State) :
    (capture n rising ticks s).reg (Reg.ACT_CAP_EDGES n) = s.reg (Reg.ACT_CAP_EDGES n) + 1
      ∧ (capture n rising ticks s).reg (Reg.ACT_CAP_PER n) = (if rising && Tab.getD s.act.cap n false then ticks else s.reg (Reg.ACT_CAP_PER n))
      ∧ (capture n rising ticks s).reg (Reg.ACT_CAP_HIGH n) = (if !rising && Tab.getD s.act.cap n false then ticks else s.reg (Reg.ACT_CAP_HIGH n)) := by
  have h1 : Reg.ACT_CAP_EDGES n ≠ Reg.ACT_CAP_PER n := by simp [Reg.ACT_CAP_EDGES, Reg.ACT_CAP_PER]
  have h2 : Reg.ACT_CAP_EDGES n ≠ Reg.ACT_CAP_HIGH n := by simp [Reg.ACT_CAP_EDGES, Reg.ACT_CAP_HIGH]
  have h3 : Reg.ACT_CAP_PER n ≠ Reg.ACT_CAP_HIGH n := by simp [Reg.ACT_CAP_PER, Reg.ACT_CAP_HIGH]
  unfold capture
  cases rising <;> cases Tab.getD s.act.cap n false <;>
    simp [State.reg_onAct, State.reg_setReg, State.incWrap, h1, h2, h3, h1.symm, h2.symm, h3.symm]

theorem capture_regsBut (n : Nat) (rising : Bool) (ticks : W32) (s : State) : RegsBut (capRegs n) s (capture n rising ticks s) := by
  unfold capture
  extract_lets s1 s2
  have h1 : RegsBut (capRegs n) s s1 := (s.setReg_regsBut _ _).mono (by simp)
  have h2 : RegsBut (capRegs n) s s2 := regsBut_ite h1 (regsBut_ite (h1.then (s1.setReg_regsBut _ _) (by simp)) (h1.then (s1.setReg_regsBut _ _) (by simp)))
  exact regsBut_ite (h2.trans ((s2.onAct_same _).regsBut _)) h2

theorem capture_same (n : Nat) (rising : Bool) (ticks : W32) (s : State) : SameBut [.regs, .act] s (capture n rising ticks s) := by
  unfold capture
  extract_lets s1 s2
  have h1 : SameBut [.regs, .act] s s1 := (s.setReg_same _ _).mono (by decide)
  have h2 : SameBut [.regs, .act] s s2 := sameBut_ite h1 (sameBut_ite (h1.then (s1.setReg_same _ _)) (h1.then (s1.setReg_same _ _)))
  exact sameBut_ite (h2.then (s2.onAct_same _)) h2

/-- A rising edge is remembered. -/
theorem capture_act (n : Nat) (rising : Bool) (ticks : W32) (s : State) :
    (capture n rising ticks s).act = { s.act with cap := if rising then Tab.setD s.act.cap n false true else s.act.cap } := by
  unfold capture
  extract_lets s1 s2
  have h2 : s2.act = s.act := by
    dsimp only [s2]
    split
    · rfl
    · split <;> rfl
  cases rising
  · rw [if_neg (by simp), h2]; rfl
  · rw [if_pos rfl, State.act_onAct, h2]; rfl

theorem State.pwmPer_eq (s : State) (n : Nat) : s.pwmPer n = max 100 (s.fld (Reg.ACT_PWM_PER n) 23 0) := rfl

/-- Settles O25. -/
theorem pwmAndCapture : Obligations.PwmAndCapture := by
  intro s ch n hn hu
  subst hn
  refine ⟨fun hen => ?_, ?_, fun hen => ⟨fun rising ticks => ?_, ?_⟩⟩
  case refine_1 =>
    have he : exec (.pwmPeriodStart ch) s = .next ((s.setFld (Reg.ACT_PWM_DUTY ch.val) 15 0 (s.fld (Reg.ACT_PWM_DUTY ch.val) 31 16)).onAct (fun a => { a with
        pwmOn := Tab.setD a.pwmOn ch.val false (Tab.getD s.act.drv ch.val false && decide (0 < s.fld (Reg.ACT_PWM_DUTY ch.val) 31 16 * s.pwmPer ch.val / 65536)) })) := by
      show execPwmPeriodStart ch s = _
      simp only [execPwmPeriodStart, hu, hen, State.when, Bool.and_self, if_true]
    refine ⟨_, he, ?_, ?_, ?_, fun q hq => ?_, ?_, ?_, ?_⟩
    · rw [State.fld_onAct, State.fld_setFld_self _ _ _ _ _ (by decide) (by decide)]
      exact Nat.mod_eq_of_lt (s.fld_lt _ 31 16)
    · rw [State.fld_onAct, State.fld_setFld_of_disjoint _ _ _ _ _ _ _ (by decide) (by decide) (by decide)]
    · rw [State.act_onAct, State.pwmPer_eq]; simp
    · rw [State.act_onAct, State.setFld_act]; exact Tab.getD_setD_ne _ _ _ _ hq
    · rw [State.act_onAct, State.setFld_act]
    · exact (s.setFld_regsBut _ _ _ _).trans ((State.onAct_same _ _).regsBut _)
    · exact ((s.setFld_same _ _ _ _).mono (by decide)).then (State.onAct_same _ _)
  case refine_2 =>
    have he : exec (.pwmActiveEnd ch) s = .next (s.onAct (fun a => { a with pwmOn := Tab.setD a.pwmOn ch.val false false })) := by
      show execPwmActiveEnd ch s = _
      simp only [execPwmActiveEnd, hu, State.when, if_true]
    exact ⟨_, he, Tab.getD_setD_self s.act.pwmOn ch.val false false, fun q hq => Tab.getD_setD_ne s.act.pwmOn false false false hq, rfl, s.onAct_same _⟩
  case refine_3 =>
    have hcap : s.capOn ch.val = true := by simp [State.capOn, hu, hen]
    let c := capture ch.val rising ticks s
    have he : exec (.captureEdge ch rising ticks) s = .next ((List.range 4).foldl (fun t m => edgeSeen m ch.val rising t) c) := by
      show execCaptureEdge ch rising ticks s = _
      simp only [execCaptureEdge, hcap, State.when, if_true, c, capture]
    have hmsr : SameBut [.msr] c ((List.range 4).foldl (fun t m => edgeSeen m ch.val rising t) c) := SameBut.foldl (fun t m => edgeSeen_same m _ _ t) _ _
    obtain ⟨h1, h2, h3⟩ := capture_reg ch.val rising ticks s
    have hact := (hmsr .act (by decide)).trans (capture_act ch.val rising ticks s)
    refine ⟨_, he, (hmsr.reg (by decide) _).trans h1, (hmsr.reg (by decide) _).trans h2, (hmsr.reg (by decide) _).trans h3,
      (capture_regsBut _ _ _ s).trans (hmsr.regsBut _), ?_, fun q hq => ?_, ?_, ?_, fun m hm => ?_⟩
    · rw [hact]; cases rising <;> simp
    · rw [hact]
      cases rising
      · rfl
      · exact Tab.getD_setD_ne s.act.cap false true false hq
    · rw [hact]
    · exact ((capture_same _ _ _ s).mono (by decide)).then hmsr
    · have hsame := capture_same ch.val rising ticks s
      rw [edges_msc _ _ _ List.nodup_range _ _ (List.mem_range.mpr hm), edgeSeen_msc_congr _ _ (capture_regsBut ch.val rising ticks s) (hsame .rst (by decide)) ?_
        (hsame.msc (by decide) m), edgeSeen_msc_self]
      simp [capRegs, Reg.MSRC_CTL, Reg.ACT_CAP_EDGES, Reg.ACT_CAP_PER, Reg.ACT_CAP_HIGH, baseMsc, baseCap]
      omega
  case refine_4 =>
    have hcap : s.capOn ch.val = true := by simp [State.capOn, hu, hen]
    have he : exec (.captureTimeout ch) s = .next ((s.setReg (Reg.ACT_CAP_PER ch.val) 0xFFFFFFFF).onAct (fun a => { a with cap := Tab.setD a.cap ch.val false false })) := by
      show execCaptureTimeout ch s = _
      simp only [execCaptureTimeout, hcap, State.when, if_true]
    exact ⟨_, he, State.reg_setReg_self _ _ _, (s.setReg_regsBut _ _).trans ((State.onAct_same _ _).regsBut _), Tab.getD_setD_self s.act.cap ch.val false false,
      fun q hq => Tab.getD_setD_ne s.act.cap false false false hq, rfl, ((s.setReg_same _ _).mono (by decide)).then (State.onAct_same _ _)⟩

end Sys2Proof.Machine
end

section
/-!
PROOFS. The CAN controllers.
-/
set_option Elab.async false

namespace Sys2Proof.Machine

/-! ## Error state -/

theorem State.fld_raiseIf (s : State) (b : Bool) (code sev src pay a hi lo : Nat) : (s.raiseIf b code sev src pay).fld a hi lo = s.fld a hi lo := by
  unfold State.fld
  rw [(s.raiseIf_same b code sev src pay).reg (by decide)]

@[simp] theorem State.can_raiseIf (s : State) (b : Bool) (code sev src pay q : Nat) : (s.raiseIf b code sev src pay).can q = s.can q :=
  (s.raiseIf_same b code sev src pay).can (by decide) q

theorem State.fld_setCan (s : State) (n : Nat) (x : CanSt) (a hi lo : Nat) : (s.setCan n x).fld a hi lo = s.fld a hi lo := rfl

section
variable (n tec rec st : Nat) (s : State)

/-- The stored part of a controller's error state. -/
def State.canStat : State := ((s.setFld (Reg.CAN_STAT n) 15 8 tec).setFld (Reg.CAN_STAT n) 23 16 rec).setFld (Reg.CAN_STAT n) 1 0 st

theorem canStat_fld (ht : tec < 256) (hr : rec < 256) (hs : st < 4) : (s.canStat n tec rec st).fld (Reg.CAN_STAT n) 15 8 = tec
    ∧ (s.canStat n tec rec st).fld (Reg.CAN_STAT n) 23 16 = rec ∧ (s.canStat n tec rec st).fld (Reg.CAN_STAT n) 1 0 = st := by
  unfold State.canStat
  refine ⟨?_, ?_, ?_⟩
  · rw [State.fld_setFld_of_disjoint _ _ _ _ _ _ _ (by decide) (by decide) (by decide), State.fld_setFld_of_disjoint _ _ _ _ _ _ _ (by decide) (by decide) (by decide),
      State.fld_setFld_self _ _ _ _ _ (by decide) (by decide)]
    exact Nat.mod_eq_of_lt ht
  · rw [State.fld_setFld_of_disjoint _ _ _ _ _ _ _ (by decide) (by decide) (by decide), State.fld_setFld_self _ _ _ _ _ (by decide) (by decide)]
    exact Nat.mod_eq_of_lt hr
  · rw [State.fld_setFld_self _ _ _ _ _ (by decide) (by decide)]
    exact Nat.mod_eq_of_lt hs

theorem canStat_regsBut : RegsBut [Reg.CAN_STAT n] s (s.canStat n tec rec st) :=
  ((s.setFld_regsBut _ _ _ _).trans (State.setFld_regsBut _ _ _ _ _)).trans (State.setFld_regsBut _ _ _ _ _)

theorem canStat_same : SameBut [.regs] s (s.canStat n tec rec st) :=
  ((s.setFld_same _ _ _ _).trans (State.setFld_same _ _ _ _ _)).trans (State.setFld_same _ _ _ _ _)

theorem canState_fld (ht : tec < 256) (hr : rec < 256) (hs : st < 4) : (canState n tec rec st s).fld (Reg.CAN_STAT n) 15 8 = tec
    ∧ (canState n tec rec st s).fld (Reg.CAN_STAT n) 23 16 = rec ∧ (canState n tec rec st s).fld (Reg.CAN_STAT n) 1 0 = st := by
  have h : ∀ hi lo, (canState n tec rec st s).fld (Reg.CAN_STAT n) hi lo = (s.canStat n tec rec st).fld (Reg.CAN_STAT n) hi lo := by
    intro hi lo
    unfold canState
    dsimp only
    rw [State.fld_raiseIf]
    split
    · rw [State.fld_setCan]; rfl
    · rfl
  rw [h, h, h]
  exact canStat_fld n tec rec st s ht hr hs

theorem canState_regsBut : RegsBut [Reg.CAN_STAT n] s (canState n tec rec st s) :=
  ((canStat_regsBut n tec rec st s).trans (regsBut_ite ((State.setCan_same _ _ _).regsBut _) (RegsBut.refl _ _))).trans ((State.raiseIf_same _ _ _ _ _ _).regsBut _)

theorem canState_same : SameBut [.ev, .hostMem, .regs, .act] s (canState n tec rec st s) :=
  (((canStat_same n tec rec st s).mono (by decide)).trans (sameBut_ite ((State.setCan_same _ _ _).mono (by decide)) (SameBut.refl _ _))).then (State.raiseIf_same _ _ _ _ _ _)

/-- The queues and the frame in transmission stay. -/
theorem canState_can : ((canState n tec rec st s).can n).tx = (s.can n).tx ∧ ((canState n tec rec st s).can n).rx = (s.can n).rx
    ∧ ((canState n tec rec st s).can n).bus = (s.can n).bus := by
  have hc : (s.canStat n tec rec st).can n = s.can n := (canStat_same n tec rec st s).can (by decide) n
  unfold canState
  dsimp only
  rw [State.can_raiseIf]
  split
  · rw [State.can_setCan_self]
    show ((s.canStat n tec rec st).can n).tx = _ ∧ ((s.canStat n tec rec st).can n).rx = _ ∧ ((s.canStat n tec rec st).can n).bus = _
    rw [hc]
    exact ⟨rfl, rfl, rfl⟩
  · show ((s.canStat n tec rec st).can n).tx = _ ∧ ((s.canStat n tec rec st).can n).rx = _ ∧ ((s.canStat n tec rec st).can n).bus = _
    rw [hc]
    exact ⟨rfl, rfl, rfl⟩

/-- A state other than bus-off leaves the queues' part alone. -/
theorem canState_same_of_on (h : st ≠ 2) : SameBut [.ev, .hostMem, .regs] s (canState n tec rec st s) := by
  unfold canState
  dsimp only
  rw [if_neg (fun h' => h h'.1)]
  exact ((canStat_same n tec rec st s).mono (by decide)).then (State.raiseIf_same _ _ _ _ _ _)

theorem canState_busOff (h : s.fld (Reg.CAN_STAT n) 1 0 ≠ 2) : Raised 0x0905 s (canState n tec rec 2 s) := by
  unfold canState
  dsimp only
  have hev : (if 2 = 2 ∧ s.fld (Reg.CAN_STAT n) 1 0 ≠ 2 then (s.canStat n tec rec 2).setCan n
      { (s.canStat n tec rec 2).can n with recov := false, ovf := false } else s.canStat n tec rec 2).ev = s.ev := by
    have h0 : (s.canStat n tec rec 2).ev = s.ev := canStat_same n tec rec 2 s .ev (by decide)
    split
    · exact ((State.setCan_same _ _ _) .ev (by decide)).trans h0
    · exact h0
  unfold State.raiseIf
  rw [if_pos (by simp [h.symm])]
  have := State.raise_raised (if 2 = 2 ∧ s.fld (Reg.CAN_STAT n) 1 0 ≠ 2 then (s.canStat n tec rec 2).setCan n
      { (s.canStat n tec rec 2).can n with recov := false, ovf := false } else s.canStat n tec rec 2) 0x0905 1 0x700 (n + 256 * 2 + 2 ^ 16 * tec)
  rw [Raised, hev] at this
  exact this

end

theorem passive_cases (tec rec : Nat) : passive tec rec < 4 ∧ passive tec rec ≠ 2 := by
  unfold passive; split <;> decide

/-! ## Received frames -/

/-- The filters do not read the error state. -/
theorem RegsBut.keeps {s t : State} {n : Nat} (h : RegsBut [Reg.CAN_STAT n] s t) (f : CanFrame) : keeps t n f = keeps s n f := by
  have hlo : ∀ k, t.reg (Reg.CAN_FLT n k) = s.reg (Reg.CAN_FLT n k) := fun k => h _ (by simp [Reg.CAN_FLT, Reg.CAN_STAT]; omega)
  have hhi : ∀ k, t.reg (Reg.CAN_FLT n k + 4) = s.reg (Reg.CAN_FLT n k + 4) := fun k => h _ (by simp [Reg.CAN_FLT, Reg.CAN_STAT]; omega)
  unfold Machine.keeps filterHit
  simp only [hlo, hhi]

theorem canReceive_of_not_keeps {s : State} {n : Nat} {f : CanFrame} (h : keeps s n f = false) : canReceive n f s = s := by
  simp [canReceive, h]

/-- A frame that is kept joins the receive queue, or is counted as lost. -/
theorem canReceive_spec {s : State} {n : Nat} {f : CanFrame} (h : keeps s n f = true) :
    ((canReceive n f s).can n).tx = (s.can n).tx
      ∧ ((canReceive n f s).can n).rx = (if (s.can n).rx.length < 64 then (s.can n).rx ++ [(f, Tab.getD s.cnt.can n 0)] else (s.can n).rx)
      ∧ (canReceive n f s).reg (Reg.CAN_RXOVF_CNT n)
        = (if (s.can n).rx.length < 64 then s.reg (Reg.CAN_RXOVF_CNT n) else satAdd (s.reg (Reg.CAN_RXOVF_CNT n)) 1)
      ∧ ∀ q, q ≠ n → (canReceive n f s).can q = s.can q := by
  unfold canReceive
  rw [if_neg (by simp [h])]
  dsimp only
  split
  · exact ⟨by rw [State.can_setCan_self], by rw [State.can_setCan_self], rfl, fun q hq => s.can_setCan_ne _ hq⟩
  · have hc : ∀ q, ((s.setCan n { s.can n with ovf := true }).incReg (Reg.CAN_RXOVF_CNT n) 1).can q = (s.setCan n { s.can n with ovf := true }).can q := fun _ => rfl
    refine ⟨?_, ?_, ?_, fun q hq => ?_⟩
    · rw [State.can_raiseIf, hc, State.can_setCan_self]
    · rw [State.can_raiseIf, hc, State.can_setCan_self]
    · rw [(State.raiseIf_same _ _ _ _ _ _).reg (by decide), State.reg_incReg_self]; rfl
    · rw [State.can_raiseIf, hc, s.can_setCan_ne _ hq]

theorem canReceive_regsBut (n : Nat) (f : CanFrame) (s : State) : RegsBut [Reg.CAN_RXOVF_CNT n] s (canReceive n f s) := by
  unfold canReceive
  dsimp only
  exact regsBut_ite (RegsBut.refl _ _) (regsBut_ite ((s.setCan_same _ _).regsBut _)
    ((((s.setCan_same _ _).regsBut _).trans (State.incReg_regsBut _ _ _)).trans ((State.raiseIf_same _ _ _ _ _ _).regsBut _)))

theorem canReceive_same (n : Nat) (f : CanFrame) (s : State) : SameBut [.ev, .hostMem, .regs, .act] s (canReceive n f s) := by
  unfold canReceive
  dsimp only
  have hset : ∀ x, SameBut [.ev, .hostMem, .regs, .act] s (s.setCan n x) := fun x => (s.setCan_same n x).mono (by decide)
  split
  · exact SameBut.refl _ _
  · split
    · exact hset _
    · exact ((hset _).then (State.incReg_same _ _ _)).then (State.raiseIf_same _ _ _ _ _ _)

/-- What is sent to oneself leaves the frames to send, and the error state. -/
theorem canReceive_tx (n : Nat) (f : CanFrame) (s : State) : ((canReceive n f s).can n).tx = (s.can n).tx ∧ ((canReceive n f s).can n).bus = (s.can n).bus := by
  unfold canReceive
  dsimp only
  split
  · exact ⟨rfl, rfl⟩
  · split
    · rw [State.can_setCan_self]; exact ⟨rfl, rfl⟩
    · rw [State.can_raiseIf]
      show ((s.setCan n { s.can n with ovf := true }).can n).tx = _ ∧ ((s.setCan n { s.can n with ovf := true }).can n).bus = _
      rw [State.can_setCan_self]; exact ⟨rfl, rfl⟩

/-! ## What is discarded -/

theorem canDiscard_spec (n : Nat) (s : State) : ∃ b, (canDiscard n s).1.can n = { s.can n with tx := b.toList, bus := b }
    ∧ (b = (s.can n).bus ∨ ((s.can n).bus = none ∧ b = winner (s.can n).tx))
    ∧ (canDiscard n s).1.reg (Reg.CAN_TXDROP_CNT n) = satAdd (s.reg (Reg.CAN_TXDROP_CNT n)) ((s.can n).tx.length - b.toList.length)
    ∧ (∀ q, q ≠ n → (canDiscard n s).1.can q = s.can q) ∧ RegsBut [Reg.CAN_TXDROP_CNT n] s (canDiscard n s).1 ∧ SameBut [.regs, .act] s (canDiscard n s).1 := by
  obtain ⟨b, hb, hbus⟩ := can_canBegin_self s n
  have hsame := canBegin_same n s
  have hc : ∀ (t : State) a k q, (t.incReg a k).can q = t.can q := fun _ _ _ _ => rfl
  refine ⟨b, ?_, hbus, ?_, fun q hq => ?_, ?_, ?_⟩
  · unfold canDiscard
    dsimp only
    rw [hc, State.can_setCan_self, hb]
  · unfold canDiscard
    dsimp only
    rw [State.reg_incReg_self, hb, (State.setCan_same _ _ _).reg (by decide), hsame.reg (by decide)]
  · unfold canDiscard
    dsimp only
    rw [hc, State.can_setCan_ne _ _ hq, can_canBegin_ne _ hq]
  · exact ((hsame.regsBut _).trans ((State.setCan_same _ _ _).regsBut _)).trans (State.incReg_regsBut _ _ _)
  · exact ((hsame.mono (by decide)).then (State.setCan_same _ _ _)).then (State.incReg_same _ _ _)

/-- A controller that transmits x: what becomes of it by the result. -/
theorem exec_canTxComplete {s : State} {n : Fin 4} {x : CanTx} (ho : s.canOffers n.val = true) (hx : ((s.can n.val).bus <|> winner (s.can n.val).tx) = some x)
    (r : CanTxResult) : exec (.canTxComplete n r) s = .next (match r with
      | .sent tec => if s.fld (Reg.CAN_CFG n.val) 1 0 = 2 then
          canReceive n.val x.frame (canState n.val tec.toNat (s.canRec n.val) (passive tec.toNat (s.canRec n.val))
            (s.setCan n.val { s.can n.val with tx := (s.can n.val).tx.erase x, bus := none }))
        else canState n.val tec.toNat (s.canRec n.val) (passive tec.toNat (s.canRec n.val))
          (s.setCan n.val { s.can n.val with tx := (s.can n.val).tx.erase x, bus := none })
      | .lostArbitration => s.setCan n.val { s.can n.val with bus := none }
      | .error tec busOff => canState n.val tec.toNat (s.canRec n.val) (if busOff then 2 else passive tec.toNat (s.canRec n.val))
          (s.setCan n.val { s.can n.val with bus := none })) := by
  show execCanTxComplete n r s = _
  cases r <;> simp only [execCanTxComplete, ho, State.when, if_true, hx]

theorem State.canRec_lt (s : State) (n : Nat) : s.canRec n < 256 := s.fld_lt _ 23 16
theorem State.canTec_lt (s : State) (n : Nat) : s.canTec n < 256 := s.fld_lt _ 15 8

theorem canState_setCan {s : State} {n tec rec st : Nat} {k : CanSt} (ht : tec < 256) (hr : rec < 256) (hs : st < 4) :
    ((canState n tec rec st (s.setCan n k)).can n).tx = k.tx ∧ ((canState n tec rec st (s.setCan n k)).can n).bus = k.bus
      ∧ (canState n tec rec st (s.setCan n k)).fld (Reg.CAN_STAT n) 15 8 = tec := by
  obtain ⟨htx, -, hbus⟩ := canState_can n tec rec st (s.setCan n k)
  obtain ⟨hf, -, -⟩ := canState_fld n tec rec st (s.setCan n k) ht hr hs
  rw [s.can_setCan_self] at htx hbus
  exact ⟨htx, hbus, hf⟩

theorem State.endHeld_same (s : State) (who : Who) (a : Nat) : SameBut [.req] s (s.endHeld who a) := by
  have hset : ∀ x, SameBut [.req] s (s.setReq who x) := by
    intro x p hp; cases p <;> first | rfl | exact absurd (by decide) hp
  have hdrop : ∀ lo, SameBut [.req] s (s.dropHeld who lo) := by
    intro lo
    unfold State.dropHeld
    split
    · exact sameBut_ite (hset _) (SameBut.refl _ _)
    · exact SameBut.refl _ _
  unfold State.endHeld
  split
  · exact sameBut_ite (hdrop _) (SameBut.refl _ _)
  · exact SameBut.refl _ _

/-- Settles O26. -/
theorem canControllers : Obligations.CanControllers := by
  intro s n i hi
  subst hi
  refine ⟨fun x ho hx => ?_, fun f rec hon hst => ⟨fun r hr => ?_, fun hk => ?_⟩, fun hon hst hrec => ?_, fun who hr => ⟨?_, fun hst => ?_⟩, fun who off v hr => ⟨fun hen hlow => ?_, fun hen => ?_⟩⟩
  case refine_1 =>
    have hst : s.fld (Reg.CAN_STAT n.val) 1 0 ≠ 2 := by
      simp only [State.canOffers, Bool.and_eq_true, bne_iff_ne] at ho
      exact ho.2
    refine ⟨fun tec => ?_, fun tec => ?_, fun tec => ?_, exec_canTxComplete ho hx _⟩
    · obtain ⟨h1, h2, h3⟩ := canState_setCan (s := s) (n := n.val) (k := { s.can n.val with tx := (s.can n.val).tx.erase x, bus := none }) tec.isLt (s.canRec_lt n.val) (passive_cases tec.toNat (s.canRec n.val)).1
      refine ⟨_, exec_canTxComplete ho hx _, ?_⟩
      dsimp only
      split
      · obtain ⟨g1, g2⟩ := canReceive_tx n.val x.frame (canState n.val tec.toNat (s.canRec n.val) (passive tec.toNat (s.canRec n.val))
            (s.setCan n.val { s.can n.val with tx := (s.can n.val).tx.erase x, bus := none }))
        refine ⟨g1.trans h1, g2.trans h2, ?_⟩
        rw [(canReceive_regsBut _ _ _).fld (by simp [Reg.CAN_STAT, Reg.CAN_RXOVF_CNT]), h3]
      · exact ⟨h1, h2, h3⟩
    · obtain ⟨h1, h2, h3⟩ := canState_setCan (s := s) (n := n.val) (st := 2) (k := { s.can n.val with bus := none }) tec.isLt (s.canRec_lt n.val) (by decide)
      have hb := canState_busOff n.val tec.toNat (s.canRec n.val) (s.setCan n.val { s.can n.val with bus := none }) hst
      obtain ⟨-, -, h4⟩ := canState_fld n.val tec.toNat (s.canRec n.val) 2 (s.setCan n.val { s.can n.val with bus := none }) tec.isLt (s.canRec_lt n.val) (by decide)
      exact ⟨_, exec_canTxComplete ho hx _, h1, h2, h3, h4, hb, ((s.setCan_same _ _).regsBut _).trans (canState_regsBut _ _ _ _ _),
        ((s.setCan_same _ _).mono (by decide)).then (canState_same _ _ _ _ _)⟩
    · exact ⟨_, exec_canTxComplete ho hx _, canState_setCan (k := { s.can n.val with bus := none }) tec.isLt (s.canRec_lt n.val) (passive_cases tec.toNat (s.canRec n.val)).1⟩
  case refine_2 =>
    have hp := passive_cases (s.canTec n.val) rec.toNat
    obtain ⟨h1, h2, h3⟩ := canState_fld n.val (s.canTec n.val) rec.toNat _ s (s.canTec_lt n.val) rec.isLt hp.1
    have he : exec (.canRxFrame n r) s = .next (canState n.val (s.canTec n.val) rec.toNat (passive (s.canTec n.val) rec.toNat) s) := by
      show execCanRxFrame n r s = _
      obtain rfl | ⟨rfl, hk⟩ := hr
      · simp only [execCanRxFrame, hon, State.when]
        rw [if_pos (by simp [hst])]
      · simp only [execCanRxFrame, hon, State.when]
        rw [if_pos (by simp [hst]), canReceive_of_not_keeps ((canState_regsBut _ _ _ _ s).keeps f |>.trans hk)]
    exact ⟨_, he, h2, h1, h3, canState_regsBut _ _ _ _ _, canState_same_of_on _ _ _ _ _ hp.2⟩
  case refine_3 =>
    have hp := passive_cases (s.canTec n.val) rec.toNat
    let t := canState n.val (s.canTec n.val) rec.toNat (passive (s.canTec n.val) rec.toNat) s
    have hreg : RegsBut [Reg.CAN_STAT n.val] s t := canState_regsBut _ _ _ _ s
    have hsame : SameBut [.ev, .hostMem, .regs] s t := canState_same_of_on _ _ _ _ _ hp.2
    have hcan : ∀ q, t.can q = s.can q := fun q => hsame.can (by decide) q
    have hcnt : t.cnt = s.cnt := hsame .cnt (by decide)
    obtain ⟨-, h2, -⟩ := canState_fld n.val (s.canTec n.val) rec.toNat _ s (s.canTec_lt n.val) rec.isLt hp.1
    obtain ⟨g1, g2, g3, g4⟩ := canReceive_spec (s := t) (n := n.val) (f := f) ((hreg.keeps f).trans hk)
    have he : exec (.canRxFrame n (.frame f rec)) s = .next (canReceive n.val f t) := by
      show execCanRxFrame n (.frame f rec) s = _
      simp only [execCanRxFrame, hon, State.when]
      rw [if_pos (by simp [hst])]
    have hovf : Reg.CAN_RXOVF_CNT n.val ∉ [Reg.CAN_STAT n.val] := by simp [Reg.CAN_RXOVF_CNT, Reg.CAN_STAT]
    rw [hcan, hcnt] at g2
    rw [hcan, hreg _ hovf] at g3
    refine ⟨_, he, g1.trans (by rw [hcan]), ?_, g2, g3, fun q hq => (g4 q hq).trans (hcan q), ?_, ?_⟩
    · rw [(canReceive_regsBut _ _ _).fld (by simp [Reg.CAN_STAT, Reg.CAN_RXOVF_CNT])]; exact h2
    · exact (hreg.mono (by simp)).then (canReceive_regsBut _ _ _) (by simp)
    · exact (hsame.mono (by decide)).trans (canReceive_same _ _ _)
  case refine_4 =>
    have he : exec (.canBusOffRecovery n) s = .next ((s.setReg (Reg.CAN_STAT n.val) 0).setCan n.val { s.can n.val with recov := false }) := by
      show execCanBusOffRecovery n s = _
      simp only [execCanBusOffRecovery, hon, hst, State.when]
      rw [if_pos]
      obtain h | h := hrec
      · simp [h]
      · simp [h]
    exact ⟨_, he, (State.setCan_same _ _ _).reg (by decide) _ |>.trans (State.reg_setReg_self _ _ _), State.can_setCan_self _ _ _,
      (s.setReg_regsBut _ _).trans ((State.setCan_same _ _ _).regsBut _), ((s.setReg_same _ _).mono (by decide)).then (State.setCan_same _ _ _)⟩
  case refine_5 =>
    obtain ⟨b, h1, h2, h3, h4, h5, h6⟩ := canDiscard_spec n.val s
    exact ⟨_, b, next_access (f := fun s => (canDiscard n.val s).1) hr, h1, h2, h3, h4, h5, h6⟩
  case refine_6 =>
    refine ⟨_, next_access (f := fun s => if s.fld (Reg.CAN_STAT n.val) 1 0 = 2 then s.setCan n.val { s.can n.val with recov := true } else s) hr, ?_⟩
    simp only [hst, if_true]
    exact ⟨State.can_setCan_self _ _ _, fun q hq => State.can_setCan_ne _ _ hq, s.setCan_same _ _⟩
  case refine_7 =>
    let a := Reg.CAN_CFG n.val + off.toNat
    have he : exec (.canConfigWrite who n off v) s = .next ((s.endHeld who a).raise 0x0908 0 0x700 (n.val + 2 ^ 16 * off.toNat + 2 ^ 32 * v.toNat)) := by
      show execCanConfigWrite who n off v s = _
      unfold execCanConfigWrite
      dsimp only
      rw [access_reaches _ hr, if_pos]
      have : off.toNat < 64 ∨ ¬off.toNat % 8 = 0 := by omega
      simpa [hen] using this
    have hsame := s.endHeld_same who a
    have hraise := (s.endHeld who a).raise_raised 0x0908 0 0x700 (n.val + 2 ^ 16 * off.toNat + 2 ^ 32 * v.toNat)
    rw [Raised, hsame .ev (by decide)] at hraise
    exact ⟨_, he, hraise, (hsame.mono (by decide)).then (State.raise_same _ _ _ _ _)⟩
  case refine_8 =>
    show execCanConfigWrite who n off v s = _
    unfold execCanConfigWrite
    dsimp only
    rw [access_reaches _ hr]
    simp [hen]

end Sys2Proof.Machine
end

section
/-!
PROOFS. Counters cleared, and register writes under their masks.
-/
set_option Elab.async false

namespace Sys2Proof.Machine

/-! ## Registers cleared -/

/-- Registers cleared one after the other. -/
def State.zeros (l : List Nat) (s : State) : State := l.foldl (fun t a => t.setReg a 0) s

theorem State.zeros_reg (l : List Nat) (s : State) {a : Nat} (h : s.reg a = 0 ∨ a ∈ l) : (s.zeros l).reg a = 0 := by
  unfold State.zeros
  induction l generalizing s with
  | nil => simpa using h
  | cons b r ih =>
    refine ih _ ?_
    obtain h | h := h
    · exact .inl (State.reg_setReg_zero _ _ _ h)
    · obtain rfl | h := List.mem_cons.mp h
      · exact .inl (State.reg_setReg_self _ _ _)
      · exact .inr h

theorem State.zeros_one (s : State) (a : Nat) : s.zeros [a] = s.setReg a 0 := rfl
theorem State.zeros_two (s : State) (a b : Nat) : s.zeros [a, b] = (s.setReg a 0).setReg b 0 := rfl
theorem State.zeros_three (s : State) (a b c : Nat) : s.zeros [a, b, c] = ((s.setReg a 0).setReg b 0).setReg c 0 := rfl

theorem State.zeros_regsBut (l : List Nat) (s : State) : RegsBut l s (s.zeros l) :=
  RegsBut.foldl (fun t a ha => (t.setReg_regsBut a 0).mono (by simpa using ha)) s

theorem State.zeros_same (l : List Nat) (s : State) : SameBut [.regs] s (s.zeros l) := SameBut.foldl (fun t a => t.setReg_same a 0) _ _

theorem State.rearm_log (s : State) (key : Nat) : (s.rearm key).ev.log = s.ev.log := rfl
theorem State.setMsc_log (s : State) (m : Nat) (x : MsrConv) : (s.setMsc m x).ev.log = s.ev.log := rfl

theorem State.rearm_same (s : State) (key : Nat) : SameBut [.ev] s (s.rearm key) := s.withEv_same _

/-- What a CLR command leaves: its registers are 0, no event is raised, and other registers stay. -/
def Cleared (l : List Nat) (p : List Piece) (s t : State) : Prop :=
  (∀ a ∈ l, t.reg a = 0) ∧ Quiet s t ∧ SameBut p s t ∧ RegsBut l s t

theorem zeros_cleared (l : List Nat) (s : State) : Cleared l [.regs] s (s.zeros l) :=
  ⟨fun _ ha => s.zeros_reg l (.inr ha), congrArg EvSt.log (s.zeros_same l .ev (by decide)), s.zeros_same l, s.zeros_regsBut l⟩

/-- A change outside the registers that raises no event keeps what was cleared. -/
theorem Cleared.then {l : List Nat} {p q : List Piece} {s t u : State} (h : Cleared l p s t) (k : SameBut q t u) (hlog : u.ev.log = t.ev.log)
    (hq : .regs ∉ q) (hp : ∀ x ∈ p, x ∈ p ++ q) : Cleared l (p ++ q) s u := by
  obtain ⟨h1, h2, h3, h4⟩ := h
  exact ⟨fun a ha => (k.reg hq a).trans (h1 a ha), hlog.trans h2, (h3.mono hp).trans (k.mono (by simp_all)), h4.trans (k.regsBut l hq)⟩

theorem clearChecks_eq (a : Nat) (s : State) : clearChecks a s
    = (s.zeros [Reg.ARR_CHKFAIL_CNT a, Reg.ARR_CHKPOIS_CNT a, Reg.ARR_RES_CNT a]).setArr a
        { (s.zeros [Reg.ARR_CHKFAIL_CNT a, Reg.ARR_CHKPOIS_CNT a, Reg.ARR_RES_CNT a]).arr a with d01at := none } := rfl

/-- The check registers of an array. -/
abbrev checkRegs (a : Nat) : List Nat := [Reg.ARR_CHKFAIL_CNT a, Reg.ARR_CHKPOIS_CNT a, Reg.ARR_RES_CNT a]

theorem clearChecks_reg (a : Nat) (s : State) {b : Nat} (h : s.reg b = 0 ∨ b ∈ checkRegs a) : (clearChecks a s).reg b = 0 := by
  rw [clearChecks_eq, (State.setArr_same _ _ _).reg (by decide)]
  exact s.zeros_reg _ h

theorem clearChecks_regsBut (a : Nat) (s : State) : RegsBut (checkRegs a) s (clearChecks a s) :=
  (s.zeros_regsBut _).trans ((State.setArr_same _ _ _).regsBut _)

theorem clearChecks_same (a : Nat) (s : State) : SameBut [.regs, .arrs] s (clearChecks a s) := by
  rw [clearChecks_eq]
  exact ((s.zeros_same _).mono (by decide)).then (State.setArr_same _ _ _)

/-- The checks of a core's arrays, cleared one array after the other. -/
theorem clearChecks_fold (c : Nat) (l : List Nat) (s : State) :
    Cleared (l.flatMap (fun n => checkRegs (c * 64 + n))) [.regs, .arrs] s (l.foldl (fun t n => clearChecks (c * 64 + n) t) s) := by
  have hzero : ∀ (l : List Nat) (s : State) (b : Nat), s.reg b = 0 ∨ b ∈ l.flatMap (fun n => checkRegs (c * 64 + n)) →
      (l.foldl (fun t n => clearChecks (c * 64 + n) t) s).reg b = 0 := by
    intro l
    induction l with
    | nil => intro s b h; simpa using h
    | cons n r ih =>
      intro s b h
      refine ih _ b ?_
      rw [List.flatMap_cons, List.mem_append, ← or_assoc] at h
      exact h.imp_left fun h => clearChecks_reg _ _ h
  have hsame : SameBut [.regs, .arrs] s (l.foldl (fun t n => clearChecks (c * 64 + n) t) s) := SameBut.foldl (fun t n => clearChecks_same _ t) _ _
  refine ⟨fun a ha => hzero l s a (.inr ha), congrArg EvSt.log (hsame .ev (by decide)), hsame, RegsBut.foldl (fun t n hn => (clearChecks_regsBut _ t).mono fun a ha => ?_) s⟩
  exact List.mem_flatMap.mpr ⟨n, hn, ha⟩

theorem State.putMasked_same (s : State) (a : Nat) (v : W32) : SameBut [.regs] s (s.putMasked a v) := by
  unfold State.putMasked
  split
  · exact SameBut.refl _ _
  · exact s.setReg_same _ _

theorem State.putMasked_regsBut (s : State) (a : Nat) (v : W32) : RegsBut [a] s (s.putMasked a v) := by
  unfold State.putMasked
  split
  · exact RegsBut.refl _ _
  · exact s.setReg_regsBut _ _

section
variable {s : State} {who : Who}

/-- A CLR command that reaches its register does what it does to the state. -/
theorem cleared_of_access {j : Instr} {addr : Nat} {l : List Nat} {p : List Piece} {f : State → State} (hr : reaches s who addr = true)
    (he : exec j s = .next (s.access who addr f)) (hc : Cleared l p s (f s)) : ∃ t, exec j s = .next t ∧ Cleared l p s t :=
  ⟨_, he.trans (next_access hr), hc⟩

theorem exec_skmClrCnt {c : CoreId} (hr : reaches s who (Reg.SKM_CFG c.val) = true) :
    ∃ t, exec (.skmClrCnt who c) s = .next t ∧ Cleared [Reg.SKM_OVF_CNT c.val] [.regs, .ev] s t := by
  refine cleared_of_access (f := skmClear c.val) hr rfl ?_
  unfold skmClear
  rw [← State.zeros_one]
  exact (zeros_cleared [Reg.SKM_OVF_CNT c.val] s).then (State.rearm_same _ (keySkim c.val)) (State.rearm_log _ _) (by decide) (by simp)

theorem exec_accClrCnt {c : CoreId} (hr : reaches s who (Reg.ACC_CMD c.val) = true) :
    ∃ t, exec (.accClrCnt who c) s = .next t ∧ Cleared [Reg.ACC_ECC_CNT c.val, Reg.ACC_POISON_CNT c.val, Reg.ACC_SAT_CNT c.val] [.regs, .ev] s t := by
  refine ⟨_, next_access hr, ?_⟩
  rw [← State.zeros_three]
  exact (zeros_cleared _ s).then (State.rearm_same _ _) (State.rearm_log _ _) (by decide) (by simp)

theorem exec_chnClrCnt {c : CoreId} (hr : reaches s who (Reg.CHN_CMD c.val) = true) :
    ∃ t, exec (.chnClrCnt who c) s = .next t ∧ Cleared [Reg.CHN_REFUSE_CNT c.val, Reg.CHN_RESTART_CNT c.val, Reg.CHN_LATE_CNT c.val] [.regs] s t := by
  refine ⟨_, next_access hr, ?_⟩
  rw [← State.zeros_three]
  exact zeros_cleared _ s

theorem exec_tnkClrCnt (hr : reaches s who Reg.TNK_CMD = true) : ∃ t, exec (.tnkClrCnt who) s = .next t ∧ Cleared [Reg.TNK_ECC_CNT] [.regs, .ev] s t := by
  refine ⟨_, next_access hr, ?_⟩
  rw [← State.zeros_one]
  exact (zeros_cleared _ s).then (State.rearm_same _ _) (State.rearm_log _ _) (by decide) (by simp)

theorem exec_hlkClrCnt (hr : reaches s who Reg.HLK_CMD = true) :
    ∃ t, exec (.hlkClrCnt who) s = .next t ∧ Cleared ((List.range 6).map (fun n => Reg.HLK_DIG_CV_CNT + 4 * n)) [.regs] s t := by
  have h := zeros_cleared ((List.range 6).map (fun n => Reg.HLK_DIG_CV_CNT + 4 * n)) s
  rw [State.zeros, List.foldl_map] at h
  exact ⟨_, next_access hr, h⟩

theorem exec_msrClrCnt {m : Fin 4} (hr : reaches s who (Reg.MSRC_CMD m) = true) :
    ∃ t, exec (.msrClrCnt who m) s = .next t ∧ Cleared ((List.range 4).map (fun n => Reg.MSRC_OVR_CNT m + 4 * n)) [.regs, .msr] s t := by
  have h := zeros_cleared ((List.range 4).map (fun n => Reg.MSRC_OVR_CNT m + 4 * n)) s
  rw [State.zeros, List.foldl_map] at h
  exact ⟨_, next_access hr, h.then (State.setMsc_same _ _ _) (State.setMsc_log _ _ _) (by decide) (by simp)⟩

theorem exec_nvsClrCnt (hr : reaches s who Reg.NVS_CMD = true) :
    ∃ t, exec (.nvsClrCnt who) s = .next t ∧ Cleared [Reg.NVS_ECC_CNT, Reg.NVS_UNC_CNT] [.regs, .ev] s t ∧ t.ev.logDrop = 0 := by
  refine ⟨_, next_access hr, ?_, rfl⟩
  rw [← State.zeros_two]
  exact (zeros_cleared [Reg.NVS_ECC_CNT, Reg.NVS_UNC_CNT] s).then ((State.rearm_same _ 0x0602).trans (State.withEv_same _ _)) (State.rearm_log _ 0x0602) (by decide) (by simp)

theorem exec_arrChkClr {c : CoreId} {v : W32} (hv : bit v 10 = true) (hr : reaches s who (Reg.ARR_CHK_CFG c.val) = true) :
    ∃ t, exec (.arrChkClr who c v) s = .next t ∧ (∀ a ∈ (List.range 64).flatMap (fun n => checkRegs (c.val * 64 + n)), t.reg a = 0) ∧ Quiet s t ∧ SameBut [.regs, .arrs] s t
      ∧ RegsBut (Reg.ARR_CHK_CFG c.val :: (List.range 64).flatMap (fun n => checkRegs (c.val * 64 + n))) s t := by
  have he : exec (.arrChkClr who c v) s = .next (clearCoreChecks c.val (s.putMasked (Reg.ARR_CHK_CFG c.val) v)) := by
    refine (next_access (f := fun s => if bit v 10 then clearCoreChecks c.val (s.putMasked (Reg.ARR_CHK_CFG c.val) v) else s.putMasked (Reg.ARR_CHK_CFG c.val) v) hr).trans ?_
    rw [hv]; rfl
  have hm := s.putMasked_same (Reg.ARR_CHK_CFG c.val) v
  obtain ⟨hz, hq, hs, hb⟩ := clearChecks_fold c.val (List.range 64) (s.putMasked (Reg.ARR_CHK_CFG c.val) v)
  exact ⟨_, he, hz, hq.trans (congrArg EvSt.log (hm .ev (by decide))), (hm.mono (by decide)).trans hs,
    ((s.putMasked_regsBut _ _).mono (by simp)).trans (hb.mono fun b hb => List.mem_cons_of_mem _ hb)⟩

theorem exec_arrClrCnt {a : ArrId} (hr : reaches s who (Reg.ARR_CMD a.val) = true) :
    ∃ t, exec (.arrClrCnt who a) s = .next t ∧ (∀ b ∈ [Reg.ARR_CLAMP_CNT a.val, Reg.ARR_AR_CNT a.val, Reg.ARR_CHKSKIP_CNT a.val], t.reg b = 0) ∧ Quiet s t
      ∧ SameBut [.regs, .ev] s t ∧ t.reg (Reg.ARR_CLAMP_LAST a.val) = s.reg (Reg.ARR_CLAMP_LAST a.val) &&& 0xFFFF7FFF
      ∧ RegsBut (Reg.ARR_CLAMP_LAST a.val :: [Reg.ARR_CLAMP_CNT a.val, Reg.ARR_AR_CNT a.val, Reg.ARR_CHKSKIP_CNT a.val]) s t := by
  have hlast : Reg.ARR_CLAMP_LAST a.val ∉ [Reg.ARR_CLAMP_CNT a.val, Reg.ARR_AR_CNT a.val, Reg.ARR_CHKSKIP_CNT a.val] := by
    simp [Reg.ARR_CLAMP_LAST, Reg.ARR_CLAMP_CNT, Reg.ARR_AR_CNT, Reg.ARR_CHKSKIP_CNT]
  refine ⟨_, next_access hr, ?_⟩
  rw [← State.zeros_three]
  generalize [Reg.ARR_CLAMP_CNT a.val, Reg.ARR_AR_CNT a.val, Reg.ARR_CHKSKIP_CNT a.val] = regs at hlast ⊢
  have hreg : SameBut [.regs] s ((s.zeros regs).clrReg (Reg.ARR_CLAMP_LAST a.val) 0x8000) := (s.zeros_same regs).trans (State.clrReg_same _ _ _)
  have hrb : RegsBut (Reg.ARR_CLAMP_LAST a.val :: regs) s ((s.zeros regs).clrReg (Reg.ARR_CLAMP_LAST a.val) 0x8000) :=
    ((s.zeros_regsBut regs).mono fun b hb => List.mem_cons_of_mem _ hb).trans ((State.clrReg_regsBut _ _ _).mono (by simp))
  have hev := (State.rearm_same ((s.zeros regs).clrReg (Reg.ARR_CLAMP_LAST a.val) 0x8000) (keyClamp a.val)).trans (State.rearm_same _ (keyAr a.val))
  have hlog : ((s.zeros regs).clrReg (Reg.ARR_CLAMP_LAST a.val) 0x8000).ev.log = s.ev.log :=
    congrArg EvSt.log (hreg .ev (by decide))
  refine ⟨fun b hb => ?_, ((State.rearm_log _ _).trans (State.rearm_log _ _)).trans hlog, (hreg.mono (by decide)).then hev, ?_, hrb.trans (hev.regsBut _)⟩
  · rw [hev.reg (by decide), State.reg_clrReg_ne _ _ (fun h : b = Reg.ARR_CLAMP_LAST a.val => hlast (h ▸ hb))]
    exact s.zeros_reg regs (.inr hb)
  · rw [hev.reg (by decide), State.reg_clrReg_self, s.zeros_regsBut regs _ hlast]
    rfl

end

/-- Settles O28. -/
theorem countersAreCleared : Obligations.CountersAreCleared := by
  intro s who j addr l p hj hr
  obtain ⟨a, rfl, rfl, rfl, rfl⟩ | ⟨c, ⟨rfl, rfl, rfl, rfl⟩ | ⟨rfl, rfl, rfl, rfl⟩ | ⟨rfl, rfl, rfl, rfl⟩ | ⟨v, rfl, hv, rfl, rfl, rfl⟩⟩
    | ⟨rfl, rfl, rfl, rfl⟩ | ⟨rfl, rfl, rfl, rfl⟩ | ⟨m, rfl, rfl, rfl, rfl⟩ | ⟨rfl, rfl, rfl, rfl⟩ := hj
  case inl =>
    obtain ⟨t, he, hz, hq, hs, hlast, hb⟩ := exec_arrClrCnt hr
    exact ⟨t, he, hz, hq, hs, fun x hx => by cases hx; exact ⟨hlast, hb⟩, by simp, by simp, by simp⟩
  case inr.inl.inr.inr.inr =>
    obtain ⟨t, he, hz, hq, hs, hb⟩ := exec_arrChkClr hv hr
    exact ⟨t, he, hz, hq, hs, by simp, fun x y hx => by cases hx; exact hb, by simp, by simp⟩
  case inr.inr.inr.inr.inr =>
    obtain ⟨t, he, ⟨hz, hq, hs, hb⟩, hd⟩ := exec_nvsClrCnt hr
    exact ⟨t, he, hz, hq, hs, by simp, by simp, fun _ _ => hb, fun _ => hd⟩
  case inr.inl.inl =>
    obtain ⟨t, he, hz, hq, hs, hb⟩ := exec_skmClrCnt hr
    exact ⟨t, he, hz, hq, hs, by simp, by simp, fun _ _ => hb, by simp⟩
  case inr.inl.inr.inl =>
    obtain ⟨t, he, hz, hq, hs, hb⟩ := exec_accClrCnt hr
    exact ⟨t, he, hz, hq, hs, by simp, by simp, fun _ _ => hb, by simp⟩
  case inr.inl.inr.inr.inl =>
    obtain ⟨t, he, hz, hq, hs, hb⟩ := exec_chnClrCnt hr
    exact ⟨t, he, hz, hq, hs, by simp, by simp, fun _ _ => hb, by simp⟩
  case inr.inr.inl =>
    obtain ⟨t, he, hz, hq, hs, hb⟩ := exec_tnkClrCnt hr
    exact ⟨t, he, hz, hq, hs, by simp, by simp, fun _ _ => hb, by simp⟩
  case inr.inr.inr.inl =>
    obtain ⟨t, he, hz, hq, hs, hb⟩ := exec_hlkClrCnt hr
    exact ⟨t, he, hz, hq, hs, by simp, by simp, fun _ _ => hb, by simp⟩
  case inr.inr.inr.inr.inl =>
    obtain ⟨t, he, hz, hq, hs, hb⟩ := exec_msrClrCnt hr
    exact ⟨t, he, hz, hq, hs, by simp, by simp, fun _ _ => hb, by simp⟩

/-! ## Writes under masks -/

theorem State.putMasked_of_row {s : State} {a : Nat} {v : W32} {r : RegRow} (h : regRow a = some r) :
    s.putMasked a v = s.setReg a (maskWrite r s.sec.lock (s.reg a) v) := by
  unfold State.putMasked
  rw [h]

theorem State.putMasked_reg {s : State} {a : Nat} {v : W32} {r : RegRow} (h : regRow a = some r) :
    (s.putMasked a v).reg a = maskWrite r s.sec.lock (s.reg a) v := by
  rw [State.putMasked_of_row h, State.reg_setReg_self]

/-- An address where a write has no effect beside its register's. -/
structure PlainAddr (a : Nat) : Prop where
  en : a ≠ Reg.ACT_EN
  wdt : a ≠ Reg.RST_WDT_CFG
  clk : a ≠ Reg.CLK_CFG
  strm : ¬(0xCC0000 ≤ a ∧ a < 0xCC0800)
  msix : ¬(0x404000 ≤ a ∧ a < 0x406000)

theorem afterWrite_plain {a : Nat} (h : PlainAddr a) (old s : State) : afterWrite a old s = s := by
  obtain ⟨h1, h2, h3, h4, h5⟩ := h
  unfold afterWrite
  rw [if_neg h1, if_neg h2, if_neg h3, if_neg h4, if_neg fun h => h5 ⟨h.1, h.2.1⟩]

theorem chkClr_none {a : Nat} {v : W32} (h : chkCfgCore a = none ∨ bit v 10 = false) (s : State) : chkClr a v s = s := by
  unfold chkClr
  obtain h | h := h
  · rw [h]
  · split
    · rw [h]; rfl
    · rfl

section
variable {s : State} {who : Who} {a : Nat} {v : W32}

/-- REGISTER_WRITE of an open word without effects of its own writes that word. -/
theorem exec_registerWrite {addr : BarAddr} {r : RegRow} (hr : reaches s who a = true) (ha : a = addr.off.toNat) (hal : barAligned addr = true) (hrow : regRow a = some r)
    (hown : r.own = false) (hopen : regOpen s a = true) (hp : PlainAddr a) (hc : chkCfgCore a = none ∨ bit v 10 = false) :
    exec (.registerWrite who addr v) s = .next (s.writeWord who a v) := by
  show execRegisterWrite who addr v s = _
  unfold execRegisterWrite
  dsimp only
  have hstrm : strmOfCfg a = none := by
    unfold strmOfCfg
    rw [if_neg fun h => hp.strm ⟨h.1, h.2.1⟩]
  rw [← ha, hal, access_reaches _ hr]
  show Host.Outcome.next (registerWrite who a v s) = _
  unfold registerWrite
  simp only [hrow, hown, hopen, hstrm]
  rw [chkClr_none hc, afterWrite_plain hp]
  rfl

theorem State.writeWord_narrow {r : RegRow} (hrow : regRow a = some r) (h : r.wide = 0) : s.writeWord who a v = s.putMasked a v := by
  unfold State.writeWord
  simp only [hrow, h]
  rfl

theorem State.writeWord_lower {r : RegRow} (hrow : regRow a = some r) (h : r.wide = 1) : s.writeWord who a v = s.holdLower who a v := by
  unfold State.writeWord
  simp only [hrow, h]
  rfl

/-- The rows whose write is that of their register alone. -/
theorem exec_masked {j : Instr} {r : RegRow} (hrow : regRow a = some r) (he : exec j s = .next (s.putMasked a v)) :
    ∃ t, exec j s = .next t ∧ t.reg a = maskWrite r s.sec.lock (s.reg a) v ∧ RegsBut [a] s t ∧ SameBut [.regs] s t :=
  ⟨_, he, State.putMasked_reg hrow, s.putMasked_regsBut a v, s.putMasked_same a v⟩

/-- A write refused with an error bit and an event. -/
theorem refused_spec (b m code sev src pay : Nat) : ((s.orReg b m).raise code sev src pay).reg b = s.reg b ||| BitVec.ofNat 32 m
    ∧ Raised code s ((s.orReg b m).raise code sev src pay) ∧ RegsBut [b] s ((s.orReg b m).raise code sev src pay)
    ∧ SameBut [.ev, .hostMem, .regs] s ((s.orReg b m).raise code sev src pay) :=
  ⟨by rw [State.raise_reg, State.reg_orReg_self], (s.orReg b m).raise_raised _ _ _ _, (s.orReg_regsBut b m).trans (State.raise_regsBut _ _ _ _ _ _),
    ((s.orReg_same b m).mono (by decide)).then (State.raise_same _ _ _ _ _)⟩

end

/-- What a write of the skim registers starts from: CLR_CNT clears the overflow count. -/
def skmCleared (c q : Nat) (v : W32) (s : State) : State := if q = 0 && bit v 1 then skmClear c s else s

theorem skmCleared_of_not {c q : Nat} {v : W32} {s : State} (h : q ≠ 0 ∨ bit v 1 = false) : skmCleared c q v s = s := by
  unfold skmCleared
  rw [if_neg]
  obtain h | h := h
  · simp [h]
  · simp [h]

theorem skmClear_same (c : Nat) (s : State) : SameBut [.regs, .ev] s (skmClear c s) :=
  ((s.setReg_same _ _).mono (by decide)).then (State.rearm_same _ _)

theorem skmClear_regsBut (c : Nat) (s : State) : RegsBut [Reg.SKM_OVF_CNT c] s (skmClear c s) :=
  (s.setReg_regsBut _ _).trans ((State.rearm_same _ _).regsBut _)

theorem skmClear_log (c : Nat) (s : State) : (skmClear c s).ev.log = s.ev.log :=
  (State.rearm_log _ _).trans (congrArg EvSt.log ((s.setReg_same _ _) .ev (by decide)))

/-- A write of the skim registers: taken where the core's lanes are free, and refused where they are not. -/
theorem exec_skmConfigWrite {s : State} {who : Who} {c : CoreId} {q : Fin 3} {v : W32} (hr : reaches s who (skimReg c.val q.val) = true) :
    exec (.skmConfigWrite who c q v) s = .next (if (s.core c.val).lanes.isEmpty && (s.core c.val).waitq.isEmpty then
        (skmCleared c.val q.val v s).putMasked (skimReg c.val q.val) v
      else ((skmCleared c.val q.val v s).orReg (Reg.SKM_ERR c.val) 16).raise 0x0107 1 c.val (c.val + 2 ^ 16 * (4 * q.val) + 2 ^ 32 * v.toNat)) := by
  have hcore : (skmCleared c.val q.val v s).core c.val = s.core c.val := by
    unfold skmCleared
    split
    · exact (skmClear_same _ s).core (by decide) _
    · rfl
  refine (next_access hr).trans ?_
  unfold skmCleared at hcore ⊢
  dsimp only
  rw [hcore]

theorem State.reqSt_setReq_self (s : State) (who : Who) (x : ReqSt) : (s.setReq who x).reqSt who = x := Tab.getD_setD_self s.req (whoIx who) _ x

theorem State.setReq_same (s : State) (who : Who) (x : ReqSt) : SameBut [.req] s (s.setReq who x) := by
  intro p hp; cases p <;> first | rfl | exact absurd (by decide) hp

/-- Settles O29. -/
theorem registerWritesFollowTheirMasks : Obligations.RegisterWritesFollowTheirMasks := by
  intro s who a v hr
  refine ⟨fun j r hrow hj => ?_, fun addr r ha hal hrow hown hwide hopen h1 h2 h3 h4 h5 hc => ?_, fun n ha hbusy => ?_, fun c ha hv => ?_,
    fun c q ha hv hbusy => ?_, fun c n ha hn => ⟨fun hfit hfree => ?_, fun hbad => ?_⟩⟩
  case refine_1 =>
    refine exec_masked hrow ?_
    obtain ⟨addr, rfl, ha, hal, hown, hwide, hopen, h1, h2, h3, h4, h5, hc⟩ | ⟨n, rfl, rfl, hq, hb⟩ | ⟨c, q, rfl, rfl, hv, hl, hw⟩ | ⟨rfl, rfl⟩ | ⟨m, rfl, rfl⟩
      | ⟨rfl, rfl, hp⟩ := hj
    · rw [exec_registerWrite hr ha hal hrow hown hopen ⟨h1, h2, h3, h4, h5⟩ hc, State.writeWord_narrow hrow hwide]
    · refine (next_access hr).trans ?_
      simp [hq, hb]
    · rw [exec_skmConfigWrite hr, skmCleared_of_not hv, if_pos (by simp [hl, hw])]
    · exact next_access hr
    · exact next_access hr
    · refine (next_access hr).trans ?_
      rw [if_pos]
      simpa [List.all_eq_true] using hp
  case refine_2 =>
    refine ⟨s.holdLower who a v, ?_, ?_, ?_, ?_⟩
    · rw [exec_registerWrite hr ha hal hrow hown hopen ⟨h1, h2, h3, h4, h5⟩ (.inl hc), State.writeWord_lower hrow hwide]
    · rw [State.holdLower, State.reqSt_setReq_self]
    · rw [State.holdLower, State.reqSt_setReq_self]
    · exact s.setReq_same _ _
  case refine_3 =>
    subst ha
    refine ⟨_, (next_access hr).trans ?_, refused_spec (Reg.ARR_ERR n.val) 1 0x0104 1 (n.val / 64) (n.val + 2 ^ 32 * v.toNat)⟩
    rw [if_neg]
    obtain h | h := hbusy
    · simp [h]
    · simp [h]
  case refine_4 =>
    subst ha
    have hne : Reg.SKM_OVF_CNT c.val ≠ skimReg c.val 0 := by simp [skimReg, Reg.SKM_OVF_CNT, Reg.SKM_CFG]
    have hne2 : Reg.SKM_OVF_CNT c.val ≠ Reg.SKM_ERR c.val := by simp [Reg.SKM_OVF_CNT, Reg.SKM_ERR]
    have hk := skmClear_same c.val s
    have hcl : skmCleared c.val 0 v s = skmClear c.val s := by simp [skmCleared, hv]
    have hz : (skmClear c.val s).reg (Reg.SKM_OVF_CNT c.val) = 0 := by
      unfold skmClear
      rw [(State.rearm_same _ _).reg (by decide), State.reg_setReg_self]
    by_cases hfree : (s.core c.val).lanes = [] ∧ (s.core c.val).waitq = []
    · have he : exec (.skmConfigWrite who c 0 v) s = .next ((skmClear c.val s).putMasked (skimReg c.val 0) v) := by
        rw [exec_skmConfigWrite (q := 0) hr, Fin.val_zero, hcl, if_pos (by simp [hfree])]
      refine ⟨_, he, ?_, fun _ _ => ⟨fun r hrow => ?_, ?_, ?_⟩, fun h => absurd hfree (fun hf => h.elim (fun h => h hf.1) (fun h => h hf.2))⟩
      · rw [State.putMasked_regsBut _ _ _ _ (by simpa using hne), hz]
      · have hlock : (skmClear c.val s).sec = s.sec := hk .sec (by decide)
        rw [State.putMasked_reg hrow, skmClear_regsBut c.val s _ (by simpa using hne.symm), hlock]
      · exact ((skmClear_regsBut c.val s).mono (by simp)).then (State.putMasked_regsBut _ _ _) (by simp)
      · exact hk.then (State.putMasked_same _ _ _)
    · have he : exec (.skmConfigWrite who c 0 v) s = .next (((skmClear c.val s).orReg (Reg.SKM_ERR c.val) 16).raise 0x0107 1 c.val (c.val + 2 ^ 16 * (4 * 0) + 2 ^ 32 * v.toNat)) := by
        rw [exec_skmConfigWrite (q := 0) hr, Fin.val_zero, hcl, if_neg (by simpa using hfree)]
      obtain ⟨g1, g2, g3, g4⟩ := refused_spec (s := skmClear c.val s) (Reg.SKM_ERR c.val) 16 0x0107 1 c.val (c.val + 2 ^ 16 * (4 * 0) + 2 ^ 32 * v.toNat)
      refine ⟨_, he, ?_, fun h0 h1 => absurd ⟨h0, h1⟩ hfree, fun _ => ⟨?_, ?_, ?_, ?_⟩⟩
      · rw [g3 _ (by simpa using hne2), hz]
      · rw [g1, skmClear_regsBut c.val s _ (by simpa using hne2.symm)]; rfl
      · rwa [Raised, skmClear_log] at g2
      · exact ((skmClear_regsBut c.val s).mono (by simp)).then g3 (by simp)
      · exact (hk.mono (by decide)).trans g4
  case refine_5 =>
    subst ha
    refine ⟨_, ?_, refused_spec (Reg.SKM_ERR c.val) 16 0x0107 1 c.val (c.val + 2 ^ 16 * (4 * q.val) + 2 ^ 32 * v.toNat)⟩
    rw [exec_skmConfigWrite hr, skmCleared_of_not hv, if_neg]
    obtain h | h := hbusy
    · simp [h]
    · simp [h]
  case refine_6 =>
    subst ha hn
    refine ⟨_, (next_access hr).trans ?_, State.reg_setReg_self s (Reg.ACC_PART c.val) v, s.setReg_regsBut _ _, s.setReg_same _ _⟩
    rw [if_neg]
    simpa [hfree] using hfit
  case refine_7 =>
    subst ha hn
    obtain ⟨g1, g2, g3, g4⟩ := refused_spec (s := s) (Reg.ACC_ERR c.val) (if bits v 7 0 + bits v 15 8 + bits v 23 16 + bits v 31 24 > 32 then 2 else 1) 0x0206 1 c.val (c.val + 2 ^ 32 * v.toNat)
    refine ⟨_, (next_access hr).trans ?_, g1.trans ?_, g2, g3, g4⟩
    · rw [if_pos (by simpa using hbad)]
      simp
    · by_cases h : 32 < bits v 7 0 + bits v 15 8 + bits v 23 16 + bits v 31 24
      · rw [if_pos h, if_pos h]; rfl
      · rw [if_neg h, if_neg h]; rfl

end Sys2Proof.Machine
end

section
/-!
PROOFS. The save area of a context (Table EXE-5): what is written for a context is what a resume reads back.
-/
set_option Elab.async false

namespace Sys2Proof.Machine

/-! ## Numbers in records -/

theorem bAt_eq_nAt (l : List Byte) (k : Nat) : bAt l k = nAt l k 1 := by
  rw [bAt, nAt, List.getD_eq_getElem?_getD]
  rcases h : l[k]? with _ | b
  · rw [List.drop_eq_nil_of_le (by simpa using h)]; rfl
  · obtain ⟨hk, rfl⟩ := List.getElem?_eq_some_iff.mp h
    rw [List.drop_eq_getElem_cons hk]
    exact (Nat.add_zero _).symm

/-- A number that lies behind a part of the record. -/
theorem nAt_append_right {a b : List Byte} {k n : Nat} (h : a.length ≤ k) : nAt (a ++ b) k n = nAt b (k - a.length) n := by
  rw [nAt, nAt, List.drop_append, List.drop_eq_nil_of_le h, List.nil_append]

/-- A number that lies in the first part of the record. -/
theorem nAt_append_left {a b : List Byte} {k n : Nat} (h : k + n ≤ a.length) : nAt (a ++ b) k n = nAt a k n := by
  rw [nAt, nAt, List.drop_append_of_le_length (by omega), List.take_append_of_le_length (by rw [List.length_drop]; omega)]

theorem leNat_of_leBytes (n v : Nat) : leNat (leBytes n v) = v % 256 ^ n := by
  induction n generalizing v with
  | zero => rw [Nat.pow_zero, Nat.mod_one]; rfl
  | succ n ih => rw [leBytes, leNat, ih, show (BitVec.ofNat 8 v).toNat = v % 256 from rfl, Nat.pow_succ, Nat.mul_comm (256 ^ n), Nat.mod_mul]

theorem nAt_leBytes (n v : Nat) : nAt (leBytes n v) 0 n = v % 256 ^ n := by
  rw [nAt, List.drop_zero, List.take_of_length_le (by simp), leNat_of_leBytes]

theorem length_flatMap_leBytes (l : List Nat) (n : Nat) (f : Nat → Nat) : (l.flatMap (fun r => leBytes n (f r))).length = l.length * n := by
  induction l with
  | nil => simp
  | cons a l ih => rw [List.flatMap_cons, List.length_append, ih, leBytes_length, List.length_cons]; ring

/-- Word q of words written one after the other. -/
theorem nAt_flatMap_leBytes {m n q : Nat} (f : Nat → Nat) (h : q < m) :
    nAt ((List.range m).flatMap (fun r => leBytes n (f r))) (n * q) n = f q % 256 ^ n := by
  have hs : List.range m = List.range q ++ (q :: List.range' (q + 1) (m - q - 1)) := by
    rw [List.range_eq_range', List.range_eq_range', ← List.range'_succ, show m - q - 1 + 1 = m - q by omega, show (List.range' q (m - q)) = List.range' (0 + 1 * q) (m - q) by simp,
      List.range'_append, show q + (m - q) = m by omega]
  rw [hs, List.flatMap_append, List.flatMap_cons, nAt_append_right (by rw [length_flatMap_leBytes, List.length_range, Nat.mul_comm]), length_flatMap_leBytes, List.length_range,
    Nat.mul_comm q n, Nat.sub_self, nAt_append_left (by simp), nAt_leBytes]

/-! ## The head of a save area -/

/-- The fields of a save area before its registers, as widths and numbers. -/
def areaFields (i : Nat) (c : Ctx) : List (Nat × Nat) :=
  [(2, 0x5853), (1, 1), (1, b2n c.cur.isSome + 2 * b2n c.poison), (1, i / 4), (3, 0), (8, c.pc.toNat),
    (1, match c.cur with | some (st, _) => st | none => 0), (3, 0), (4, match c.cur with | some (_, n) => n.toNat | none => 0),
    (4, c.saved.length), (4, (c.saved.map (fun t => t.size)).foldl (fun a b => a + b) 0), (32, 0)]

/-- A record of fields one after the other. -/
def fieldBytes (l : List (Nat × Nat)) : List Byte := l.flatMap (fun e => leBytes e.1 e.2)

theorem areaHead_eq (i : Nat) (c : Ctx) : areaHead i c = fieldBytes (areaFields i c) ++ ((List.range 32).flatMap (fun r => leBytes 8 (c.sreg r).toNat)
    ++ ((List.range 16).flatMap (fun r => leBytes 32 (c.dreg r).toNat) ++ fieldBytes [(1, c.p.toNat), (31, 0), (32, c.ost.rcd.toNat)])) := by
  simp only [areaHead, fieldBytes, areaFields, List.flatMap_cons, List.flatMap_nil, List.append_assoc, List.append_nil] <;> cases c.cur <;> rfl

theorem fieldBytes_length (l : List (Nat × Nat)) : (fieldBytes l).length = (l.map (·.1)).sum := by
  induction l with
  | nil => rfl
  | cons e l ih => simp only [fieldBytes, List.flatMap_cons, List.length_append, leBytes_length, List.map_cons, List.sum_cons] at *; omega

/-- A field behind other fields. -/
theorem nAt_fieldBytes (l : List (Nat × Nat)) (n v : Nat) (r : List (Nat × Nat)) :
    nAt (fieldBytes (l ++ (n, v) :: r)) (l.map (·.1)).sum n = v % 256 ^ n := by
  rw [fieldBytes, List.flatMap_append, ← fieldBytes, nAt_append_right (by rw [fieldBytes_length]), fieldBytes_length, Nat.sub_self, List.flatMap_cons,
    nAt_append_left (by simp), nAt_leBytes]

theorem areaHead_length (i : Nat) (c : Ctx) : (areaHead i c).length = 896 := by
  simp only [areaHead_eq, List.length_append, fieldBytes_length, areaFields, length_flatMap_leBytes, List.length_range, List.map_cons, List.map_nil, List.sum_cons, List.sum_nil]
  rfl

/-- A field of the head before its registers: those before it are `l`, those behind it `r`. -/
theorem nAt_areaHead {i : Nat} {c : Ctx} (l : List (Nat × Nat)) (k : Nat) {n v : Nat} {r : List (Nat × Nat)} (h : areaFields i c = l ++ (n, v) :: r)
    (hk : k = (l.map (·.1)).sum) : nAt (areaHead i c) k n = v % 256 ^ n := by
  rw [areaHead_eq, nAt_append_left, h, hk, nAt_fieldBytes]
  rw [h, hk, fieldBytes_length]
  simp only [List.map_append, List.map_cons, List.sum_append, List.sum_cons]
  omega

theorem nAt_areaHead_sreg {q : Nat} (i : Nat) (c : Ctx) (h : q < 32) : nAt (areaHead i c) (64 + 8 * q) 8 = (c.sreg q).toNat := by
  have hl : (fieldBytes (areaFields i c)).length = 64 := by rw [fieldBytes_length]; rfl
  rw [areaHead_eq, nAt_append_right (by rw [hl]; omega), hl, Nat.add_sub_cancel_left,
    nAt_append_left (by rw [length_flatMap_leBytes, List.length_range]; omega), nAt_flatMap_leBytes _ h]
  exact Nat.mod_eq_of_lt (c.sreg q).isLt

theorem nAt_areaHead_dreg {q : Nat} (i : Nat) (c : Ctx) (h : q < 16) : nAt (areaHead i c) (320 + 32 * q) 32 = (c.dreg q).toNat := by
  have hl : (fieldBytes (areaFields i c)).length = 64 := by rw [fieldBytes_length]; rfl
  rw [areaHead_eq, nAt_append_right (by rw [hl]; omega), hl, nAt_append_right (by rw [length_flatMap_leBytes, List.length_range]; omega),
    length_flatMap_leBytes, List.length_range, show 320 + 32 * q - 64 - 32 * 8 = 32 * q by omega,
    nAt_append_left (by rw [length_flatMap_leBytes, List.length_range]; omega), nAt_flatMap_leBytes _ h]
  exact Nat.mod_eq_of_lt (c.dreg q).isLt

/-- A field of the head behind its registers. -/
theorem nAt_areaHead_tail {i : Nat} {c : Ctx} (l : List (Nat × Nat)) (k : Nat) {n v : Nat} {r : List (Nat × Nat)}
    (h : [(1, c.p.toNat), (31, 0), (32, c.ost.rcd.toNat)] = l ++ (n, v) :: r) (hk : k = 832 + (l.map (·.1)).sum) : nAt (areaHead i c) k n = v % 256 ^ n := by
  have hl : (fieldBytes (areaFields i c)).length = 64 := by rw [fieldBytes_length]; rfl
  rw [areaHead_eq, nAt_append_right (by rw [hl]; omega), hl, nAt_append_right (by rw [length_flatMap_leBytes, List.length_range]; omega),
    length_flatMap_leBytes, List.length_range, nAt_append_right (by rw [length_flatMap_leBytes, List.length_range]; omega), length_flatMap_leBytes, List.length_range, h,
    show k - 64 - 32 * 8 - 16 * 32 = (l.map (·.1)).sum by omega, nAt_fieldBytes]

/-! ## Tables of registers -/

/-- Registers put into a table one after the other: each one put holds what was put, and every other one is as before. -/
theorem getD_foldl_setD {n : Nat} (l : List Nat) (g : Nat → Nat) (f : Nat → BitVec n) (hg : Function.Injective g) (t : Tab (BitVec n)) (q : Nat) :
    Tab.getD (l.foldl (fun t r => Tab.setD t (g r) 0 (f r)) t) (g q) 0 = if q ∈ l then f q else Tab.getD t (g q) 0 := by
  induction l generalizing t with
  | nil => simp
  | cons a l ih =>
    rw [List.foldl_cons, ih, Tab.getD_setD]
    by_cases hq : q ∈ l
    · simp [hq]
    · by_cases ha : q = a
      · simp [ha]
      · rw [if_neg hq, if_neg fun h => ha (hg h), if_neg (by simp [hq, ha])]

/-- The context that a head read as legal gives. -/
def areaCtx (l : List Byte) : Ctx :=
  { Ctx.idle with
    s := (List.range 31).foldl (fun t r => Tab.setD t (r + 1) 0 (BitVec.ofNat 64 (nAt l (64 + 8 * (r + 1)) 8))) []
    d := (List.range 16).foldl (fun t r => Tab.setD t r 0 (BitVec.ofNat 256 (nAt l (320 + 32 * r) 32))) []
    p := BitVec.ofNat 8 (bAt l 832), pc := BitVec.ofNat 64 (nAt l 8 8), ost := ⟨BitVec.ofNat 256 (nAt l 864 32), []⟩
    cur := if bAt l 3 % 2 = 1 then some (bAt l 16, BitVec.ofNat 32 (nAt l 20 4)) else none, poison := decide (bAt l 3 / 2 = 1) }

theorem areaParse_ok {core : Nat} {l : List Byte} (h0 : nAt l 0 2 = 0x5853) (h2 : bAt l 2 = 1) (h3 : bAt l 3 < 4) (h4 : bAt l 4 = core) (h5 : nAt l 5 3 = 0)
    (h17 : nAt l 17 3 = 0) (h32 : nAt l 32 32 = 0) (h833 : nAt l 833 31 = 0) : areaParse core l = some (areaCtx l) := by
  unfold areaParse
  rw [h0, h2, h4, h5, h17, h32, h833, if_neg (by simpa using h3)]
  rfl

theorem areaCtx_sreg (l : List Byte) {q : Nat} (h : q < 32) : (areaCtx l).sreg q = if q = 0 then 0 else BitVec.ofNat 64 (nAt l (64 + 8 * q) 8) := by
  cases q with
  | zero => rfl
  | succ q =>
    rw [Ctx.sreg, if_neg (Nat.succ_ne_zero q), if_neg (Nat.succ_ne_zero q)]
    exact (getD_foldl_setD _ (· + 1) _ (fun _ _ h => Nat.succ.inj h) _ q).trans (if_pos (List.mem_range.mpr (by omega)))

theorem areaCtx_dreg (l : List Byte) {q : Nat} (h : q < 16) : (areaCtx l).dreg q = BitVec.ofNat 256 (nAt l (320 + 32 * q) 32) := by
  exact (getD_foldl_setD _ (fun r => r) _ (fun _ _ h => h) _ q).trans (if_pos (List.mem_range.mpr h))

/-- A word read back from its bytes. -/
theorem ofNat_toNat_bytes {w : Nat} (k : Nat) (x : BitVec w) (h : 256 ^ k = 2 ^ w) : BitVec.ofNat w (x.toNat % 256 ^ k) = x := by
  rw [h, Nat.mod_eq_of_lt x.isLt, BitVec.ofNat_toNat, BitVec.setWidth_eq]

/-- The flags of a head: bit 0 for a current result, bit 1 for poison. -/
theorem headFlags (a b : Bool) : b2n a + 2 * b2n b < 4 ∧ decide ((b2n a + 2 * b2n b) % 2 = 1) = a ∧ decide ((b2n a + 2 * b2n b) / 2 = 1) = b := by
  cases a <;> cases b <;> decide

theorem areaCtx_cur_eq (l : List Byte) : (areaCtx l).cur = if bAt l 3 % 2 = 1 then some (bAt l 16, BitVec.ofNat 32 (nAt l 20 4)) else none := rfl

/-- The current result of a head is read back. -/
theorem areaCtx_cur {i : Nat} {c : Ctx} (hcur : ∀ st n, c.cur = some (st, n) → st < 64) : (areaCtx (areaHead i c)).cur = c.cur := by
  have h3 : bAt (areaHead i c) 3 = (b2n c.cur.isSome + 2 * b2n c.poison) % 256 ^ 1 := by rw [bAt_eq_nAt, nAt_areaHead [(2, 0x5853), (1, 1)] 3 rfl rfl]
  have h16 := nAt_areaHead ((areaFields i c).take 6) 16 rfl rfl (i := i) (c := c)
  have h20 := nAt_areaHead ((areaFields i c).take 8) 20 rfl rfl (i := i) (c := c)
  have hf := headFlags c.cur.isSome c.poison
  rw [Nat.mod_eq_of_lt (by omega)] at h3
  rw [areaCtx_cur_eq, h3, bAt_eq_nAt, h16, h20]
  obtain ⟨-, hf, -⟩ := hf
  rcases hc : c.cur with _ | ⟨st, n⟩
  · rw [hc] at hf
    rw [if_neg (of_decide_eq_false hf)]
  · rw [hc] at hf
    have hst := hcur st n hc
    rw [if_pos (of_decide_eq_true hf), ofNat_toNat_bytes 4 n rfl, Nat.mod_eq_of_lt (show st < 256 ^ 1 by omega)]

/-- Settles O32: each field of the head is read back at its offset. -/
theorem aSavedContextIsRestored : Obligations.ASavedContextIsRestored := by
  intro i c hi hcur
  obtain ⟨hlt, -, hpoison⟩ := headFlags c.cur.isSome c.poison
  have h3 : bAt (areaHead i c) 3 = b2n c.cur.isSome + 2 * b2n c.poison := by
    rw [bAt_eq_nAt, nAt_areaHead [(2, 0x5853), (1, 1)] 3 rfl rfl]
    exact Nat.mod_eq_of_lt (by omega)
  refine ⟨areaHead_length i c, areaCtx (areaHead i c), areaParse_ok ?_ ?_ ?_ ?_ ?_ ?_ ?_ ?_, fun q hq => ?_, fun q hq => ?_, ?_, ?_, ?_, ?_, ?_⟩
  · exact nAt_areaHead [] 0 rfl rfl
  · rw [bAt_eq_nAt]
    exact nAt_areaHead [(2, 0x5853)] 2 rfl rfl
  · rwa [h3]
  · rw [bAt_eq_nAt, nAt_areaHead ((areaFields i c).take 3) 4 rfl rfl]
    omega
  · exact nAt_areaHead ((areaFields i c).take 4) 5 rfl rfl
  · exact nAt_areaHead ((areaFields i c).take 7) 17 rfl rfl
  · exact nAt_areaHead ((areaFields i c).take 11) 32 rfl rfl
  · exact nAt_areaHead_tail [(1, c.p.toNat)] 833 rfl rfl
  · rw [areaCtx_sreg _ hq, nAt_areaHead_sreg i c hq, BitVec.ofNat_toNat, BitVec.setWidth_eq]
    split
    · next h => rw [h]; rfl
    · rfl
  · rw [areaCtx_dreg _ hq, nAt_areaHead_dreg i c hq, BitVec.ofNat_toNat, BitVec.setWidth_eq]
  · show BitVec.ofNat 8 (bAt (areaHead i c) 832) = c.p
    rw [bAt_eq_nAt, nAt_areaHead_tail [] 832 rfl rfl, ofNat_toNat_bytes 1 _ rfl]
  · show BitVec.ofNat 64 (nAt (areaHead i c) 8 8) = c.pc
    rw [nAt_areaHead ((areaFields i c).take 5) 8 rfl rfl, ofNat_toNat_bytes 8 _ rfl]
  · exact areaCtx_cur hcur
  · show decide (bAt (areaHead i c) 3 / 2 = 1) = c.poison
    rwa [h3]
  · show BitVec.ofNat 256 (nAt (areaHead i c) 864 32) = c.ost.rcd
    rw [nAt_areaHead_tail [(1, c.p.toNat), (31, 0)] 864 rfl rfl, ofNat_toNat_bytes 32 _ rfl]

end Sys2Proof.Machine
end

section
/-!
PROOFS. Context commands (R187, R211 to R216): their effect in the states that allow them, and their ends.
-/
set_option Elab.async false

namespace Sys2Proof.Machine

/-! ## Discarded commands -/

theorem State.seqErr_same (s : State) (i b : Nat) : SameBut [.regs] s (s.seqErr i b) := (State.orReg_same _ _ _).trans (State.setFld_same _ _ _ _ _)

theorem State.seqErr_regsBut (s : State) (i b : Nat) : RegsBut [Reg.SEQ_ERR (i / 4)] s (s.seqErr i b) :=
  (s.orReg_regsBut _ _).trans (State.setFld_regsBut _ _ _ _ _)

/-- A SEQ_ERR bit is set with the number of the context above it. -/
theorem State.seqErr_rbit (s : State) (i b : Nat) (hb : b < 16) : (s.seqErr i b).rbit (Reg.SEQ_ERR (i / 4)) b = true := by
  rw [State.seqErr, State.rbit_setFld_self _ _ _ _ _ _ (by decide) (by omega), if_neg (by omega), State.rbit_orReg_self _ _ _ _ (by omega), Nat.testBit_two_pow_self, Bool.or_true]

/-- What a discarded command leaves: SEQ_ERR bit 0 and event 0x0C04 (R215, R216). -/
theorem ctxDiscard_spec (s : State) (i v : Nat) : Raised 0x0C04 s (s.ctxDiscard i v) ∧ (s.ctxDiscard i v).rbit (Reg.SEQ_ERR (i / 4)) 0 = true
    ∧ RegsBut [Reg.SEQ_ERR (i / 4)] s (s.ctxDiscard i v) ∧ SameBut [.ev, .hostMem, .regs] s (s.ctxDiscard i v) := by
  have hev : (s.seqErr i 0).ev = s.ev := s.seqErr_same i 0 .ev (by decide)
  unfold State.ctxDiscard
  refine ⟨?_, ?_, (s.seqErr_regsBut i 0).trans (State.raise_regsBut _ _ _ _ _ _), ((s.seqErr_same i 0).mono (by decide)).then (State.raise_same _ _ _ _ _)⟩
  · have h := (s.seqErr i 0).raise_raised 0x0C04 1 (i / 4) (i / 4 + 256 * (i % 4) + 2 ^ 16 * (s.ctx i).st.code + 2 ^ 32 * (v % 2 ^ 32))
    rwa [Raised, hev] at h
  · rw [State.rbit, State.raise_reg]
    exact s.seqErr_rbit i 0 (by decide)

/-! ## Tiles freed -/

theorem State.dropParts_same (s : State) (c : Nat) (p : Part → Bool) : SameBut [.arrs, .cores] s (s.dropParts c p) := by
  unfold State.dropParts
  extract_lets keep s1 k
  have h1 : SameBut [.arrs, .cores] s s1 :=
    SameBut.foldl (fun t a => sameBut_ite (SameBut.refl _ _) ((t.setArr_same _ _).mono (by decide))) _ _
  exact sameBut_ite (h1.then (State.setCore_same _ _ _)) h1

theorem State.freeWhere_same (s : State) (i : Nat) (out : Tile → Bool) :
    SameBut [.arrs, .cores] (s.onCtx i (fun c => { c with tiles := c.tiles.filter (fun t => !out t) })) (s.freeWhere i out) :=
  sameBut_ite (SameBut.refl _ _) (State.dropParts_same _ _ _)

theorem State.freeWhere_ctx (s : State) (i j : Nat) (out : Tile → Bool) :
    (s.freeWhere i out).ctx j = (s.onCtx i (fun c => { c with tiles := c.tiles.filter (fun t => !out t) })).ctx j := (s.freeWhere_same i out).ctx (by decide) j

theorem State.freeWhere_parts (s : State) (i : Nat) (out : Tile → Bool) : SameBut [.ctxs, .arrs, .cores] s (s.freeWhere i out) :=
  ((s.setCtx_same i _).mono (by decide)).then (s.freeWhere_same i out)

theorem State.freeTiles_ctx (s : State) (i j : Nat) : (s.freeTiles i).ctx j = (s.onCtx i (fun c => { c with tiles := [] })).ctx j := by
  rw [State.freeTiles, State.freeWhere_ctx]
  simp

theorem fireSigs_same (i : Nat) (l : List PSig) (s : State) : SameBut [.sync] s (fireSigs i l s) := by
  induction l generalizing s with
  | nil => exact SameBut.refl _ _
  | cons g r ih => exact (sameBut_ite (s.addSync_same _ _) (SameBut.refl _ _)).trans (ih _)

/-- The end of a work changes what its context waits for, and the sync counters of the SIGs that waited for it (R206, R226). -/
theorem State.endWork_ctx_ne (s : State) {i j : Nat} (id : Nat) (h : j ≠ i) : (s.endWork i id).ctx j = s.ctx j :=
  ((fireSigs_same _ _ _).ctx (by decide) j).trans (s.ctx_setCtx_ne _ h)

theorem State.endWork_same (s : State) (i id : Nat) : SameBut [.ctxs, .sync] s (s.endWork i id) :=
  ((s.setCtx_same i _).mono (by decide)).then (fireSigs_same _ _ _)

theorem State.endWork_ctx_self (s : State) (i id : Nat) : (s.endWork i id).ctx i = { s.ctx i with
    works := (s.ctx i).works.filter (fun w => w.id != id), loads := (s.ctx i).loads.map (fun l => { l with after := l.after.filter (fun x => x != id) }),
    sigs := ((s.ctx i).sigs.map (fun g => { g with after := g.after.filter (fun x => x != id) })).filter (fun g => !g.after.isEmpty) } :=
  ((fireSigs_same _ _ _).ctx (by decide) i).trans (s.ctx_setCtx_self _ _)

/-- Ends of works leave the program counter and the tiles of their context, and every other context. -/
theorem foldl_endWork (l : List Nat) (s : State) (i : Nat) : ((l.foldl (fun u id => u.endWork i id) s).ctx i).pc = (s.ctx i).pc
    ∧ ((l.foldl (fun u id => u.endWork i id) s).ctx i).tiles = (s.ctx i).tiles ∧ (∀ j, j ≠ i → (l.foldl (fun u id => u.endWork i id) s).ctx j = s.ctx j)
    ∧ SameBut [.ctxs, .sync] s (l.foldl (fun u id => u.endWork i id) s) := by
  refine ⟨?_, ?_, fun j hj => ?_, SameBut.foldl (fun t _ => t.endWork_same _ _) _ _⟩
  · exact foldl_keep _ (fun t : State => (t.ctx i).pc) (fun t id => by rw [State.endWork_ctx_self]) l s
  · exact foldl_keep _ (fun t : State => (t.ctx i).tiles) (fun t id => by rw [State.endWork_ctx_self]) l s
  · exact foldl_keep _ (fun t : State => t.ctx j) (fun t id => t.endWork_ctx_ne id hj) l s

/-- What START frees, and what it leaves (R187; log entry 141). -/
theorem startFree_spec (s : State) (i : Nat) : ((s.startFree i).ctx i).pc = (s.ctx i).pc ∧ ((s.startFree i).ctx i).tiles = (s.ctx i).tiles.filter Tile.drains
    ∧ (∀ j, j ≠ i → (s.startFree i).ctx j = s.ctx j) ∧ SameBut [.ctxs, .arrs, .cores, .sync] s (s.startFree i) := by
  obtain ⟨hpc, htiles, hne, hsame⟩ := foldl_endWork (((s.ctx i).tiles.filter (fun t => !t.drains)).filterMap (fun t => t.drain.map (fun j => j.id)))
    (s.freeWhere i (fun t => !t.drains)) i
  refine ⟨hpc.trans ?_, htiles.trans ?_, fun j hj => (hne j hj).trans ?_, ((s.freeWhere_parts i _).mono (by decide)).then hsame⟩
  · rw [State.freeWhere_ctx, State.ctx_onCtx_self]
  · rw [State.freeWhere_ctx, State.ctx_onCtx_self]
    simp
  · rw [State.freeWhere_ctx, State.ctx_onCtx_ne _ _ hj]

/-- Where no issued drain is given up, START only frees tiles. -/
theorem startFree_eq {s : State} {i : Nat} (h : ∀ x ∈ (s.ctx i).tiles, x.drain.isSome = true → x.drains = true) :
    s.startFree i = s.freeWhere i (fun t => !t.drains) := by
  have hlost : ((s.ctx i).tiles.filter (fun t => !t.drains)).filterMap (fun t => t.drain.map (fun j => j.id)) = [] := by
    rw [List.filterMap_eq_nil_iff]
    intro x hx
    obtain ⟨hmem, hd⟩ := List.mem_filter.mp hx
    rcases hj : x.drain with _ | j
    · rfl
    · simp [h x hmem (by rw [hj]; rfl)] at hd
  unfold State.startFree
  rw [hlost]
  rfl

/-! ## START, PREEMPT, STOP, RESUME and the address writes -/

section
variable {s : State} {who : Who} {k : CtxId}

/-- A context as START leaves it, with the PC, the outstanding work and the tiles it has. -/
def Ctx.started (c : Ctx) : Ctx :=
  { Ctx.idle with st := .run, pc := c.pc, loads := c.loads.map (fun l => { l with dst := none }), works := c.works, sigs := c.sigs, nextId := c.nextId, tiles := c.tiles }

/-- A START that is allowed. -/
theorem ctxStart_eq {i : Nat} (hc : (s.ctx i).settable = true) (hm : s.mirStandby = false) :
    ctxStart i s = (if (s.ctx i).st = .idle then s else s.startFree i).onCtx i Ctx.started := by
  have hg : ((!(s.ctx i).settable || s.mirStandby) = true) ↔ False := by simp [hc, hm]
  exact if_neg hg.mp

/-- What START leaves of its context. -/
theorem ctxStart_spec {i : Nat} (hc : (s.ctx i).settable = true) (hm : s.mirStandby = false) {l : List Tile}
    (hl : l = if (s.ctx i).st = .idle then (s.ctx i).tiles else (s.ctx i).tiles.filter Tile.drains) :
    ((ctxStart i s).ctx i).st = .run ∧ ((ctxStart i s).ctx i).pc = (s.ctx i).pc ∧ ((ctxStart i s).ctx i).tiles = l ∧ (∀ q, q ≠ i → (ctxStart i s).ctx q = s.ctx q)
      ∧ SameBut [.ctxs, .arrs, .cores, .sync] s (ctxStart i s) := by
  obtain ⟨hpc, htiles, hne, hsame⟩ := startFree_spec s i
  rw [ctxStart_eq hc hm]
  subst hl
  by_cases hst : (s.ctx i).st = .idle
  · simp only [if_pos hst, State.ctx_onCtx_self]
    exact ⟨rfl, rfl, rfl, fun q hq => State.ctx_onCtx_ne _ _ hq, (s.setCtx_same _ _).mono (by decide)⟩
  · simp only [if_neg hst, State.ctx_onCtx_self]
    exact ⟨rfl, hpc, htiles, fun q hq => (State.ctx_onCtx_ne _ _ hq).trans (hne q hq), hsame.then (State.setCtx_same _ _ _)⟩

/-- What START leaves of its context where it gives up no drain that was issued. -/
theorem ctxStart_exact {i : Nat} (hc : (s.ctx i).settable = true) (hm : s.mirStandby = false) {l : List Tile}
    (hl : l = if (s.ctx i).st = .idle then (s.ctx i).tiles else (s.ctx i).tiles.filter Tile.drains)
    (hd : (s.ctx i).st = .idle ∨ ∀ x ∈ (s.ctx i).tiles, x.drain.isSome = true → x.drains = true) :
    (ctxStart i s).ctx i = { (s.ctx i).started with tiles := l } ∧ SameBut [.ctxs, .arrs, .cores] s (ctxStart i s) := by
  rw [ctxStart_eq hc hm]
  subst hl
  by_cases hst : (s.ctx i).st = .idle
  · rw [if_pos hst, if_pos hst, State.ctx_onCtx_self]
    exact ⟨rfl, (s.setCtx_same _ _).mono (by decide)⟩
  · rw [if_neg hst, if_neg hst, startFree_eq (hd.resolve_left hst), State.ctx_onCtx_self, State.freeWhere_ctx, State.ctx_onCtx_self]
    simp only [Bool.not_not]
    exact ⟨rfl, (s.freeWhere_parts i _).then (State.setCtx_same _ _ _)⟩

theorem areaParse_some {core : Nat} {l : List Byte} {r : Ctx} (h : areaParse core l = some r) : r = areaCtx l := by
  unfold areaParse at h
  split at h
  · cases h
  · exact (Option.some.inj h).symm

/-- A restored context without tiles. -/
theorem restored_eq (l : List Byte) (n : Nat) :
    ({ areaCtx l with st := .restoring, ost := ⟨(areaCtx l).ost.rcd, []⟩, tiles := (areaCtx l).tiles ++ [], nextId := n + 0 } : Ctx)
      = { areaCtx l with st := .restoring, nextId := n } := by
  unfold areaCtx
  rfl

/-- A setting without the piecewise-linear activation has no table. -/
theorem pwlRead_nil {core : Nat} {o : OstSt} (h : o.act ≠ 8) : pwlRead s core o = [] := if_neg h

/-- A head without ECC errors, of a context without tiles, that RESUME takes. -/
theorem ctxResume_ok {i a : Nat} {r : Ctx} (ha : a = s.saveAt i) (hend : a + 896 ≤ 2 ^ 27) (hecc : ∀ e ∈ s.mem.tank.ecc, overlap (8 * e.1) 8 a 896 = false)
    (hn : nAt (s.bytes 0 a 896) 24 4 = 0) (hp : areaParse (i / 4) (s.bytes 0 a 896) = some r) (hfit : tilesFit s i [] = true) (host : resumeOstOk s (i / 4) r.ost = true)
    (hact : r.ost.act ≠ 8) :
    ctxResume i s = putTiles i (a + 896) [] (s.onCtx i (fun o => { r with st := .restoring, ost := ⟨r.ost.rcd, pwlRead s (i / 4) r.ost⟩, nextId := o.nextId })) := by
  subst ha
  have hecc' : ∀ e ∈ (s.memOf 0).ecc, overlap (8 * e.1) 8 (s.saveAt i) 896 = false := hecc
  have hact' : (r.ost.act == 8) = false := by simpa using hact
  unfold ctxResume
  simp only [hn, Nat.min_zero, recLen, parseTiles, Nat.add_zero, hp, hfit, host, State.readFx_eq_self hecc', State.bad_eq_false hecc', hact, hact', Bool.not_true,
    Bool.false_and, Bool.or_self, Bool.false_eq_true, if_false, State.poisonIf]
  rw [if_neg (by omega)]

theorem putTiles_nil (i a : Nat) (s : State) : putTiles i a [] s = s.onCtx i (fun c => { c with tiles := c.tiles ++ [], nextId := c.nextId + 0 }) := rfl

/-- The number of tiles in a head, from its four bytes. -/
theorem nAt_area_tiles {a : Nat} (h : s.bytes 0 (a + 24) 4 = [0, 0, 0, 0]) : nAt (s.bytes 0 a 896) 24 4 = 0 := by
  have hb : ((s.bytes 0 a 896).drop 24).take 4 = s.bytes 0 (a + 24) 4 := by
    refine List.ext_getElem (by simp [State.bytes, Mem.read]) fun q h1 h2 => ?_
    simp only [State.bytes, Mem.read, List.getElem_take, List.getElem_drop, List.getElem_map, List.getElem_range, Nat.add_assoc]
  rw [nAt, hb, h]
  rfl

/-- A program counter with its low three bits clear. -/
theorem ofNat_aligned (v : W64) : BitVec.ofNat 64 (8 * (v.toNat / 8)) = v &&& ~~~7 := by
  refine BitVec.eq_of_getLsbD_eq fun j hj => ?_
  rw [BitVec.getLsbD_ofNat, BitVec.getLsbD_and, BitVec.getLsbD_not, show (7 : BitVec 64) = BitVec.ofNat 64 7 from rfl, BitVec.getLsbD_ofNat,
    show 8 * (v.toNat / 8) = (v.toNat >>> 3) <<< 3 by rw [Nat.shiftLeft_eq, Nat.shiftRight_eq_div_pow]; omega, Nat.testBit_shiftLeft, Nat.testBit_shiftRight,
    show (7 : Nat) = 2 ^ 3 - 1 from rfl, Nat.testBit_two_pow_sub_one, ← BitVec.testBit_toNat]
  by_cases h : j < 3
  · simp [h, hj, show ¬ 3 ≤ j by omega]
  · simp [h, hj, show 3 ≤ j by omega, show 3 + (j - 3) = j by omega]

/-- A save address is bits 26 to 6 of the value. -/
theorem ofNat_saveAddr (v : W64) : BitVec.ofNat 32 (64 * bits v 26 6) = (v &&& 0x07FFFFC0).truncate 32 := by
  have hv := v.isLt
  refine BitVec.eq_of_getLsbD_eq fun j hj => ?_
  rw [BitVec.getLsbD_ofNat, BitVec.truncate_eq_setWidth, BitVec.getLsbD_setWidth, BitVec.getLsbD_and, show 64 * bits v 26 6 = (bits v 26 6) <<< 6 by rw [Nat.shiftLeft_eq, Nat.mul_comm],
    Nat.testBit_shiftLeft, testBit_bits, show (0x07FFFFC0 : W64) = BitVec.ofNat 64 ((2 ^ 21 - 1) <<< 6) from rfl, BitVec.getLsbD_ofNat, Nat.testBit_shiftLeft, Nat.testBit_two_pow_sub_one]
  by_cases h : 6 ≤ j
  · by_cases h2 : j < 27
    · simp [h, hj, show j - 6 < 21 by omega, show 6 + (j - 6) = j by omega, show j < 64 by omega, bit_eq_getLsbD]
    · simp [h, hj, show ¬ j - 6 < 21 by omega]
  · simp [h]

/-- A write of a context's addresses spends at most the lower word held for its requester. -/
theorem spent_same (s : State) (who : Who) (save : Bool) : SameBut [.req] s (if save then s else s.spendHeld who) :=
  sameBut_ite (SameBut.refl _ _) (State.setReq_same _ _ _)

/-- The commands that a context does not allow in its state. -/
theorem exec_discarded {i : Nat} {j : Instr} (hi : i = ctxIx k) (hr : reaches s who (Reg.SEQ_CTX_CMD i) = true)
    (h : (j = .start who k ∧ ((s.ctx i).settable = false ∨ s.mirStandby = true)) ∨ (j = .preempt who k ∧ (s.ctx i).active = false)
      ∨ (j = .resume who k ∧ ((s.ctx i).st ≠ .idle ∨ s.mirStandby = true)) ∨ (j = .stop who k ∧ ((s.ctx i).st = .idle ∨ (s.ctx i).st = .saving ∨ (s.ctx i).st = .restoring))) :
    ∃ v, exec j s = .next (s.ctxDiscard i v) := by
  subst hi
  obtain ⟨rfl, h⟩ | ⟨rfl, h⟩ | ⟨rfl, h⟩ | ⟨rfl, h⟩ := h
  · have hg : (!(s.ctx (ctxIx k)).settable || s.mirStandby) = true := by obtain h | h := h <;> simp [h]
    exact ⟨1, (next_access (f := ctxStart (ctxIx k)) hr).trans (congrArg _ (if_pos hg))⟩
  · have hg : (!(s.ctx (ctxIx k)).active) = true := by simp [h]
    exact ⟨2, (next_access (f := ctxPreempt (ctxIx k)) hr).trans (congrArg _ (if_pos hg))⟩
  · have hg : ((s.ctx (ctxIx k)).st == .idle && !s.mirStandby) = false := by obtain h | h := h <;> simp [h]
    exact ⟨4, (next_access (f := ctxResumeCmd (ctxIx k)) hr).trans (congrArg _ (if_neg (by rw [hg]; decide)))⟩
  · have hg : ((s.ctx (ctxIx k)).active || (s.ctx (ctxIx k)).st == .halt || (s.ctx (ctxIx k)).st == .trap) = false := by
      obtain h | h | h := h <;> simp [h, Ctx.active]
    exact ⟨8, (next_access (f := ctxStop (ctxIx k)) hr).trans (congrArg _ (if_neg (by rw [hg]; decide)))⟩

/-- Settles O30: each command either does its part in a state that allows it, or is discarded. -/
theorem contextCommands : Obligations.ContextCommands := by
  intro s who k i c hi hc
  subst hc
  refine ⟨fun j hj hr => ?discarded, fun save v hr => ⟨fun hset => ?addrBad, fun hset => ⟨fun hs => ?pc, fun hs => ?save⟩⟩,
    fun hr => ⟨fun hset hm l hl => ?start, fun hact => ?preempt, fun hst => ?stop, fun a r hst hm ha hend hecc hn hp hfit host hact => ?resume⟩⟩
  case discarded =>
    obtain ⟨v, hv⟩ := exec_discarded hi hr hj
    exact ⟨_, hv, ctxDiscard_spec s i v⟩
  case addrBad =>
    subst hi
    have h0 := spent_same s who save
    rw [← h0.ctx] at hset
    obtain ⟨h1, -, h3, h4⟩ := ctxDiscard_spec (if save then s else s.spendHeld who) (ctxIx k) v.toNat
    rw [Raised, h0 .ev (by decide)] at h1
    refine ⟨_, (next_access hr).trans (congrArg _ (if_pos (by rw [hset]; rfl))), h1, (h0.regsBut _).trans h3, (h0.mono (by decide)).then h4⟩
  case pc =>
    subst hi hs
    have hsame : SameBut [.req] s (s.spendHeld who) := State.setReq_same _ _ _
    have hset' : ¬ (!((s.spendHeld who).ctx (ctxIx k)).settable) = true := by rw [hsame.ctx, hset]; decide
    have he : exec (.seqCtxAddrWrite who k false v) s
        = .next ((s.spendHeld who).onCtx (ctxIx k) (fun c => { c with pc := BitVec.ofNat 64 (8 * (v.toNat / 8)) })) := (next_access hr).trans (congrArg _ (if_neg hset'))
    refine ⟨_, he, ?_, fun q hq => (State.ctx_onCtx_ne _ _ hq).trans (hsame.ctx (by decide) q), ?_, ?_⟩
    · rw [State.ctx_onCtx_self, ofNat_aligned, hsame.ctx]
    · exact congrArg ReqSt.held (State.reqSt_setReq_self _ _ _)
    · exact (hsame.mono (by decide)).then (State.setCtx_same _ _ _)
  case save =>
    subst hi hs
    have hset' : ¬ (!(s.ctx (ctxIx k)).settable) = true := by simp [hset]
    refine ⟨_, (next_access hr).trans (congrArg _ (if_neg hset')), ?_, State.setReg_regsBut _ _ _, State.setReg_same _ _ _⟩
    rw [if_pos rfl, State.reg_setReg_self, ofNat_saveAddr]
  case start =>
    subst hi
    obtain ⟨h1, h2, h3, h4, h5⟩ := ctxStart_spec hset hm hl
    refine ⟨_, next_access hr, h1, h2, h3, h4, h5, fun hd => ?_⟩
    exact ctxStart_exact hset hm hl hd
  case preempt =>
    subst hi
    have hg : ¬ (!(s.ctx (ctxIx k)).active) = true := by simp [hact]
    have he : exec (.preempt who k) s = .next (ctxPreempt (ctxIx k) s) := next_access hr
    rw [he, ctxPreempt, if_neg hg]
    exact State.setCtx_ctxTo _ _ _
  case stop =>
    subst hi
    have hg : ((s.ctx (ctxIx k)).active || (s.ctx (ctxIx k)).st == .halt || (s.ctx (ctxIx k)).st == .trap) = true := by
      obtain h | h | h := hst <;> simp [h]
    have he : exec (.stop who k) s = .next (ctxStop (ctxIx k) s) := next_access hr
    rw [he, ctxStop, if_pos hg]
    exact State.setCtx_ctxTo _ _ _
  case resume =>
    subst hi
    have hg : ((s.ctx (ctxIx k)).st == .idle && !s.mirStandby) = true := by simp [hst, hm]
    have he : exec (.resume who k) s = .next (ctxResumeCmd (ctxIx k) s) := next_access hr
    refine ⟨_, he, ?_⟩
    obtain rfl := areaParse_some hp
    rw [ctxResumeCmd, if_pos hg, ctxResume_ok ha hend hecc (nAt_area_tiles hn) hp hfit host hact, putTiles_nil, pwlRead_nil hact]
    refine ⟨?_, fun q hq => (State.ctx_onCtx_ne _ _ hq).trans (State.ctx_onCtx_ne _ _ hq)⟩
    rw [State.ctx_onCtx_self, State.ctx_onCtx_self, restored_eq]

end

/-! ## The ends of context commands -/

/-- An event raised in a state whose event state is still that of `s`. -/
theorem raised_of_ev {s t : State} (h : t.ev = s.ev) (code sev src pay : Nat) : Raised code s (t.raise code sev src pay) := by
  have := t.raise_raised code sev src pay
  rwa [Raised, h] at this

theorem State.accErr_same (s : State) (i b : Nat) : SameBut [.regs] s (s.accErr i b) := (State.orReg_same _ _ _).trans (State.setFld_same _ _ _ _ _)

theorem slotRead_same (i : Nat) (t : Tile) (n : Nat) (s : State) : SameBut [.ev, .hostMem, .regs] s (s.slotRead i t n).1 := by
  unfold State.slotRead
  extract_lets x c s1 k th
  split
  · exact SameBut.refl _ _
  · have h1 : SameBut [.ev, .hostMem, .regs] s s1 := (s.incReg_same _ _).mono (by decide)
    dsimp only
    split
    · exact h1.then (State.raiseOnceHealth_same _ _ _ _ _ _ _)
    · exact h1
  · exact ((s.accErr_same _ _).mono (by decide)).then (State.raise_same _ _ _ _ _)

theorem slotRecords_same (i : Nat) (t : Tile) (l : List Nat) (s : State) : SameBut [.ev, .hostMem, .regs] s (slotRecords i t l s).1 := by
  induction l generalizing s with
  | nil => exact SameBut.refl _ _
  | cons n r ih => exact (slotRead_same i t n s).trans (ih _)

theorem tilesRecords_same (i : Nat) (l : List Tile) (s : State) : SameBut [.ev, .hostMem, .regs] s (tilesRecords i l s).1 := by
  induction l generalizing s with
  | nil => exact SameBut.refl _ _
  | cons t r ih => exact (slotRecords_same i t _ s).trans (ih _)

theorem rememberTiles_same (l : List Tile) (a : Nat) (s : State) : SameBut [.saves] s (rememberTiles l a s) := by
  induction l generalizing a s with
  | nil => exact SameBut.refl _ _
  | cons t r ih =>
    refine SameBut.trans ?_ (ih _ _)
    intro p hp; cases p <;> first | rfl | exact absurd hp (by decide)

/-- A save of a context's tiles frees them, and changes no other context (R121). -/
theorem saveTiles_ctx (i a j : Nat) (s : State) : (saveTiles i a s).ctx j = (s.onCtx i (fun c => { c with tiles := [] })).ctx j := by
  have h : SameBut (accessParts ++ [.saves]) s
      (rememberTiles (s.ctx i).saved a ((tilesRecords i (s.ctx i).saved s).1.tankPut a (tilesRecords i (s.ctx i).saved s).2 (i / 4))) :=
    ((((tilesRecords_same i _ s).mono (by decide)).then (State.tankPut_same _ _ _ _))).then (rememberTiles_same _ _ _)
  rw [saveTiles]
  by_cases hj : j = i
  · subst hj
    rw [State.ctx_onCtx_self, State.ctx_onCtx_self, h.ctx]
  · rw [State.ctx_onCtx_ne _ _ hj, State.ctx_onCtx_ne _ _ hj, h.ctx]

/-- A write to a tank without ECC errors changes the tank alone, and leaves it without errors. -/
theorem State.tankPut_clean {s : State} (h : s.mem.tank.ecc = []) (a : Nat) (bs : List Byte) (port : Nat) :
    SameBut [.tank] s (s.tankPut a bs port) ∧ (s.tankPut a bs port).mem.tank.ecc = [] := by
  have hnil : ∀ n, partBad (s.memOf 0) a n = [] := fun n => by
    unfold partBad
    rw [show (s.memOf 0).ecc = [] from h]
    rfl
  have hc : s.correct 0 (fun e => partOf a (bs.take (2 ^ 27 - a)).length e.1) = s :=
    State.correct_eq_self fun e he => absurd (show e ∈ s.mem.tank.ecc from he) (by simp [h])
  unfold State.tankPut State.writeFx
  dsimp only
  rw [hc, hnil, List.foldl_nil]
  refine ⟨?_, ?_⟩
  · intro p hp; cases p <;> first | rfl | exact absurd hp (by decide)
  · show (s.mem.tank.ecc.filter _) = []
    rw [h]
    rfl

/-- The bytes of the tank after such a write. -/
theorem State.tankPut_byte {s : State} (h : s.mem.tank.ecc = []) {a : Nat} {bs : List Byte} {port : Nat} (hend : a + bs.length ≤ 2 ^ 27) (b : Nat) :
    (s.tankPut a bs port).mem.tank.byte b = if a ≤ b ∧ b < a + bs.length then bs.getD (b - a) 0 else s.mem.tank.byte b := by
  have hb := s.writeFx_byte 0 a (bs.take (2 ^ 27 - a)) port b
  rw [List.take_of_length_le (by omega), show partBad (s.memOf 0) a bs.length = [] by unfold partBad; rw [show (s.memOf 0).ecc = [] from h]; rfl] at hb
  unfold State.tankPut
  rw [List.take_of_length_le (by omega)]
  exact hb.trans (by simp only [List.contains_nil, and_true]; rfl)

/-! ## The save of a context -/

/-- The save of a context that has no tile to write. -/
theorem saveTiles_nil {i a : Nat} {s : State} (h : (s.ctx i).saved = []) : saveTiles i a s = (s.tankPut a [] (i / 4)).onCtx i (fun c => { c with tiles := [] }) := by
  rw [saveTiles, h]
  rfl

theorem saveContext_ctx (i a j : Nat) (s : State) : (saveContext i a s).ctx j = (s.onCtx i (fun c => { c with tiles := [] })).ctx j := by
  have h : SameBut accessParts s (s.tankPut a (areaHead i (s.ctx i)) (i / 4)) := State.tankPut_same _ _ _ _
  rw [saveContext, saveTiles_ctx]
  by_cases hj : j = i
  · subst hj
    rw [State.ctx_onCtx_self, State.ctx_onCtx_self, h.ctx]
  · rw [State.ctx_onCtx_ne _ _ hj, State.ctx_onCtx_ne _ _ hj, h.ctx]

/-- The save of a context without tiles, in a tank without ECC errors, writes the head of its area and nothing else. -/
theorem saveContext_clean {i a : Nat} {s : State} (ht : (s.ctx i).tiles = []) (h : s.mem.tank.ecc = []) (hend : a + 896 ≤ 2 ^ 27) :
    (∀ b, (saveContext i a s).mem.tank.byte b = if a ≤ b ∧ b < a + 896 then (areaHead i (s.ctx i)).getD (b - a) 0 else s.mem.tank.byte b)
      ∧ SameBut [.ctxs, .tank] s (saveContext i a s) := by
  have hl := areaHead_length i (s.ctx i)
  revert hl
  rw [saveContext]
  generalize areaHead i (s.ctx i) = bs
  intro hl
  obtain ⟨h1, h1e⟩ := State.tankPut_clean h a bs (i / 4)
  obtain ⟨h2, -⟩ := State.tankPut_clean h1e (a + 896) [] (i / 4)
  have hsaved : ((s.tankPut a bs (i / 4)).ctx i).saved = [] := by rw [h1.ctx, Ctx.saved, ht]; rfl
  rw [saveTiles_nil hsaved]
  refine ⟨fun b => ?_, ((h1.mono (by decide)).then h2).then (State.setCtx_same _ _ _)⟩
  have hb := State.tankPut_byte h1e (a := a + 896) (bs := []) (port := i / 4) (by simpa using hend) b
  rw [List.length_nil, if_neg (by omega), State.tankPut_byte h (by omega), hl] at hb
  rw [State.onCtx, State.setCtx_mem]
  exact hb

/-- Four words as one number. -/
theorem mapWord_eq (a b c d : W32) : d ++ c ++ b ++ a = BitVec.ofNat 128 (a.toNat + 2 ^ 32 * b.toNat + 2 ^ 64 * c.toNat + 2 ^ 96 * d.toNat) := by
  refine BitVec.eq_of_toNat_eq ?_
  have ha := a.isLt
  have hb := b.isLt
  have hc := c.isLt
  rw [BitVec.toNat_append, BitVec.toNat_append, BitVec.toNat_append, BitVec.toNat_ofNat, ← Nat.shiftLeft_add_eq_or_of_lt (by omega), ← Nat.shiftLeft_add_eq_or_of_lt hb,
    ← Nat.shiftLeft_add_eq_or_of_lt hc]
  simp only [Nat.shiftLeft_eq]
  omega

theorem State.setEntry_same (s : State) (core x : Nat) (e : BitVec 128) : SameBut [.regs] s (s.setEntry core x e) :=
  SameBut.foldl (fun t _ => t.setReg_same _ _) _ _

theorem State.setEntry_regsBut (s : State) (core x : Nat) (e : BitVec 128) : RegsBut ((List.range 4).map (entAddr core x)) s (s.setEntry core x e) :=
  RegsBut.foldl (fun t w hw => (t.setReg_regsBut _ _).mono (by simpa using ⟨w, by simpa using hw, rfl⟩)) s

/-- The stored layer map entry. -/
theorem State.entry_setEntry (s : State) (core x : Nat) (e : BitVec 128) : (s.setEntry core x e).entry core x = e := by
  have hne : ∀ {v w : Nat}, v ≠ w → entAddr core x v ≠ entAddr core x w := fun h => by unfold entAddr; omega
  have hreg : ∀ w, w < 4 → (s.setEntry core x e).reg (entAddr core x w) = BitVec.ofNat 32 (e.toNat >>> (32 * w)) := by
    intro w hw
    show (((((s.setReg (entAddr core x 0) _).setReg (entAddr core x 1) _).setReg (entAddr core x 2) _).setReg (entAddr core x 3) _).reg _) = _
    have : w = 0 ∨ w = 1 ∨ w = 2 ∨ w = 3 := by omega
    obtain rfl | rfl | rfl | rfl := this <;> simp [State.reg_setReg, hne]
  rw [State.entry, hreg 0 (by decide), hreg 1 (by decide), hreg 2 (by decide), hreg 3 (by decide)]
  refine BitVec.eq_of_toNat_eq ?_
  have he := e.isLt
  simp only [BitVec.toNat_ofNat, Nat.shiftRight_eq_div_pow]
  omega

/-- Settles O31. -/
theorem contextCommandsComplete : Obligations.ContextCommandsComplete := by
  intro s k i c hi hc
  subst hi hc
  refine ⟨fun hq => ⟨fun hh => ?preempt, fun hh => ?stop, fun hh => ?halt⟩, fun hst => ?resume, fun who n v e x hr hx he => ⟨fun h31 => ?noGo, fun h31 hok => ?written, fun h31 hok => ?refused⟩⟩
  case preempt =>
    have hg : ((s.ctx (ctxIx k)).hold == .preempt && s.quiet (ctxIx k)) = true := by simp [hh, hq]
    refine ⟨_, congrArg Host.Outcome.next (if_pos hg), ?_, fun q hqi => ?_, fun a ha ht hend hecc => ?_⟩
    · rw [State.raise_ctx, State.ctx_onCtx_self, saveContext_ctx, State.ctx_onCtx_self]
    · rw [State.raise_ctx, State.ctx_onCtx_ne _ _ hqi, saveContext_ctx, State.ctx_onCtx_ne _ _ hqi]
    · obtain ⟨hb, hsame⟩ := saveContext_clean ht hecc hend
      subst ha
      have hsame' := hsame.then (State.setCtx_same _ (ctxIx k) { (saveContext (ctxIx k) (s.saveAt (ctxIx k)) s).ctx (ctxIx k) with st := .idle, hold := .free })
      refine ⟨raised_of_ev (hsame' .ev (by decide)) _ _ _ _, fun q hq => ?_, fun b hout => ?_, (hsame'.mono (by decide)).then (State.raise_same _ _ _ _ _)⟩
      · rw [State.raise_mem_tank]
        exact (hb _).trans (by rw [if_pos (by omega), Nat.add_sub_cancel_left])
      · rw [State.raise_mem_tank]
        exact (hb b).trans (if_neg hout)
  case stop =>
    have hg : ((s.ctx (ctxIx k)).hold == .stop && s.quiet (ctxIx k)) = true := by simp [hh, hq]
    refine ⟨_, congrArg Host.Outcome.next (if_pos hg), ?_, fun q hqi => ?_, ((s.freeWhere_parts _ _).then (State.setCtx_same _ _ _))⟩
    · rw [State.ctx_onCtx_self, State.freeTiles_ctx, State.ctx_onCtx_self]
    · rw [State.ctx_onCtx_ne _ _ hqi, State.freeTiles_ctx, State.ctx_onCtx_ne _ _ hqi]
  case halt =>
    have hg : ((s.ctx (ctxIx k)).hold == .halt && s.quiet (ctxIx k)) = true := by simp [hh, hq]
    refine ⟨_, congrArg Host.Outcome.next (if_pos hg), ?_, fun q hqi => ?_, ?_, ?_⟩
    · rw [State.raise_ctx, State.ctx_onCtx_self, State.freeTiles_ctx, State.ctx_onCtx_self]
    · rw [State.raise_ctx, State.ctx_onCtx_ne _ _ hqi, State.freeTiles_ctx, State.ctx_onCtx_ne _ _ hqi]
    · exact raised_of_ev (((s.freeWhere_parts _ _).then (State.setCtx_same _ _ _)) .ev (by decide)) _ _ _ _
    · exact ((((s.freeWhere_parts _ _).then (State.setCtx_same _ _ _))).mono (by decide)).then (State.raise_same _ _ _ _ _)
  case resume =>
    have he : exec (.resumeComplete k) s = .next (s.onCtx (ctxIx k) (fun c => { c with st := .run, hold := .free })) :=
      congrArg Host.Outcome.next (if_pos (by rw [hst]; rfl))
    rw [he]
    exact State.setCtx_ctxTo _ _ _
  case noGo => exact (next_access hr).trans (congrArg _ (if_pos (by rw [h31]; rfl)))
  case written =>
    have hgo : ¬ (!bit v 31) = true := by simp [h31]
    rw [he, mapWord_eq] at hok ⊢
    refine ⟨_, (next_access hr).trans (congrArg _ ((if_neg hgo).trans (if_pos hok))), ?_, ?_, ?_⟩
    · rw [hx, State.entry_setEntry]
    · rw [hx]
      exact State.setEntry_regsBut _ _ _ _
    · exact State.setEntry_same _ _ _ _
  case refused =>
    have hgo : ¬ (!bit v 31) = true := by simp [h31]
    rw [he, mapWord_eq] at hok
    have hno := ne_true_of_eq_false hok
    have hsame : SameBut [.regs] s (((s.orReg (Reg.MAP_ERR n.val) 1).setFld (Reg.MAP_ERR n.val) 25 16 (bits v 9 0))) := (State.orReg_same _ _ _).trans (State.setFld_same _ _ _ _ _)
    refine ⟨_, (next_access hr).trans (congrArg _ ((if_neg hgo).trans (if_neg hno))), raised_of_ev (hsame .ev (by decide)) _ _ _ _, ?_, ?_, ?_⟩
    · rw [State.rbit, State.raise_reg, ← State.rbit, State.rbit_setFld_self _ _ _ _ _ _ (by decide) (by decide), if_neg (by decide), State.rbit_orReg_self _ _ _ _ (by decide)]
      simp
    · exact ((State.orReg_regsBut _ _ _).trans (State.setFld_regsBut _ _ _ _ _)).trans (State.raise_regsBut _ _ _ _ _ _)
    · exact (hsame.mono (by decide)).then (State.raise_same _ _ _ _ _)

end Sys2Proof.Machine
end

section
/-!
PROOFS. Block resets, the crystal, and the snapshot of the counts (R409 to R422, R434).
-/
set_option Elab.async false

namespace Sys2Proof.Machine

/-! ## Authority -/

/-- The registers that a change of authority reaches: the outputs, the frames dropped, and the counts of an ECC condition at the authority word. -/
abbrev authRegs : List Nat := outRegs ++ (List.range 4).map Reg.CAN_TXDROP_CNT ++ eccRegs

/-- The parts that a change of authority reaches. -/
abbrev authParts : List Piece := accessParts ++ [.act]

theorem safeSync_same (s : State) : SameBut [.regs, .act, .ev, .hostMem] s (safeSync s) := by
  unfold safeSync
  refine sameBut_ite (SameBut.refl _ _) (sameBut_ite ?_ (sameBut_ite ((State.onAct_same _ _).mono (by decide)) (SameBut.refl _ _)))
  exact ((outputsOff_same s).mono (by decide)).then (State.raise_same _ _ _ _ _)

theorem safeSync_regsBut (s : State) : RegsBut outRegs s (safeSync s) := by
  unfold safeSync
  refine regsBut_ite (RegsBut.refl _ _) (regsBut_ite ?_ (regsBut_ite ((s.onAct_same _).regsBut _) (RegsBut.refl _ _)))
  exact (outputsOff_regsBut s).trans (State.raise_regsBut _ _ _ _ _ _)

theorem State.raiseIf_regsBut (s : State) (b : Bool) (code sev src pay : Nat) (l : List Nat) : RegsBut l s (s.raiseIf b code sev src pay) :=
  regsBut_ite (State.raise_regsBut _ _ _ _ _ _) (RegsBut.refl _ _)

theorem dropFrames_same (s : State) : SameBut [.regs, .act, .ev, .hostMem] s (dropFrames s) :=
  SameBut.foldl (fun t n => ((canDiscard_spec n t).elim fun _ h => h.2.2.2.2.2.mono (by decide)).then (State.raiseIf_same _ _ _ _ _ _)) _ _

theorem dropFrames_regsBut (s : State) : RegsBut ((List.range 4).map Reg.CAN_TXDROP_CNT) s (dropFrames s) := by
  refine RegsBut.foldl (fun t n hn => ?_) s
  obtain ⟨-, -, -, -, -, h, -⟩ := canDiscard_spec n t
  exact (h.mono (by simpa using ⟨n, by simpa using hn, rfl⟩)).trans (State.raiseIf_regsBut _ _ _ _ _ _ _)

theorem authWord_same (s : State) : SameBut accessParts s (authWord s) := sameBut_ite (State.tankPut_same _ _ _ _) (SameBut.refl _ _)

theorem State.tankPut_regsBut (s : State) (a : Nat) (bs : List Byte) (port : Nat) : RegsBut eccRegs s (s.tankPut a bs port) := s.writeFx_regsBut _ _ _ _

theorem authWord_regsBut (s : State) : RegsBut eccRegs s (authWord s) := regsBut_ite (State.tankPut_regsBut _ _ _ _) (RegsBut.refl _ _)

theorem authSync_same (was : Bool) (s : State) : SameBut authParts s (authSync was s) := by
  have h : SameBut authParts s (authWord s) := (authWord_same s).mono (by decide)
  unfold authSync
  exact sameBut_ite (SameBut.refl _ _) ((h.trans (sameBut_ite ((dropFrames_same _).mono (by decide)) (SameBut.refl _ _))).then (safeSync_same _))

theorem authSync_regsBut (was : Bool) (s : State) : RegsBut authRegs s (authSync was s) := by
  have h : RegsBut authRegs s (authWord s) := (authWord_regsBut s).mono fun a ha => List.mem_append_right _ ha
  have h2 : ∀ t, RegsBut authRegs t (dropFrames t) := fun t => (dropFrames_regsBut t).mono fun a ha => List.mem_append_left _ (List.mem_append_right _ ha)
  have h3 : ∀ t, RegsBut authRegs t (safeSync t) := fun t => (safeSync_regsBut t).mono fun a ha => List.mem_append_left _ (List.mem_append_left _ ha)
  unfold authSync
  exact regsBut_ite (RegsBut.refl _ _) ((h.trans (regsBut_ite (h2 _) (RegsBut.refl _ _))).trans (h3 _))

/-! ## Domains -/

theorem State.domSt_setDom_self (s : State) (d : Nat) (x : DomSt) : (s.setDom d x).domSt d = x := Tab.getD_setD_self s.rst.dom d .down x

theorem State.domSt_setDom_ne (s : State) {d e : Nat} (x : DomSt) (h : e ≠ d) : (s.setDom d x).domSt e = s.domSt e :=
  Tab.getD_setD_ne s.rst.dom .down x .down h

theorem State.setDom_same (s : State) (d : Nat) (x : DomSt) : SameBut [.rst] s (s.setDom d x) := by
  intro p hp; cases p <;> first | rfl | exact absurd hp (by decide)

theorem SameBut.domSt {l : List Piece} {s t : State} (h : SameBut l s t) (hl : .rst ∉ l := by decide) (d : Nat) : t.domSt d = s.domSt d :=
  congrArg (fun r : Rst => Tab.getD r.dom d DomSt.down) (h .rst hl)

theorem autoBias_same (c : Nat) (s : State) : SameBut [.arrs] s (autoBias c s) :=
  sameBut_ite (SameBut.refl _ _) (SameBut.foldl (fun t _ => sameBut_ite (t.setArr_same _ _) (SameBut.refl _ _)) _ _)

/-- A domain that is released runs on in its state. -/
theorem released_domSt (d e : Nat) (s : State) : (released d s).domSt e = s.domSt e := by
  unfold released
  split
  · rfl
  · split
    · exact (safeSync_same s).domSt (by decide) e
    · split
      · exact (autoBias_same _ s).domSt (by decide) e
      · rfl

/-- The register of a block reset bit, and that the bit lies in it. -/
theorem blockBit_some {n a b : Nat} (h : blockBit n = some (a, b)) : (a = Reg.RST_BLK ∨ a = Reg.RST_CORE) ∧ 2 ≤ n := by
  unfold blockBit at h
  split at h
  · cases h
  · split at h
    · cases h; exact ⟨.inl rfl, by omega⟩
    · cases h; exact ⟨.inr rfl, by omega⟩

theorem domIx_lt (d : Dom) : domIx d < 41 := by
  cases d <;> simp only [domIx] <;> omega

theorem blockBit_lt {d : Dom} {a b : Nat} (h : blockBit (domIx d) = some (a, b)) : b < 32 := by
  have := domIx_lt d
  unfold blockBit at h
  split at h
  · cases h
  · split at h <;> cases h <;> omega

theorem blockReg_not_authReg {a : Nat} (h : a = Reg.RST_BLK ∨ a = Reg.RST_CORE) : a ∉ authRegs := by
  obtain rfl | rfl := h <;> decide

section
variable {s : State} {who : Who} {d : Dom} {n a b : Nat}

/-- BLOCK_RESET sets the bit of its domain, and isolates it or holds it in reset (R409, R410). -/
theorem exec_blockReset (hn : n = domIx d) (hb : blockBit n = some (a, b)) (hr : reaches s who a = true) :
    ∃ t, exec (.blockReset who d) s = .next t ∧ t.rbit a b = true ∧ (∀ e, e ≠ n → t.domSt e = s.domSt e)
      ∧ t.domSt n = (if s.domSt n = .run ∧ ¬(n = 2 ∧ s.nvsGo.nvs.cur ≠ none) then .isolating else if s.domSt n = .releasePending then .inReset else s.domSt n) := by
  subst hn
  have hbit : (s.orReg a (2 ^ b)).rbit a b = true := by rw [State.rbit_orReg_self _ _ _ _ (blockBit_lt hb), Nat.testBit_two_pow_self, Bool.or_true]
  obtain ⟨ha, -⟩ := blockBit_some hb
  have he : exec (.blockReset who d) s = .next (s.access who a fun s =>
      if s.domSt (domIx d) = .run ∧ !(domIx d = 2 ∧ s.nvsGo.nvs.cur ≠ none) then authSync s.auth ((s.orReg a (2 ^ b)).setDom (domIx d) .isolating)
      else if s.domSt (domIx d) = .releasePending then (s.orReg a (2 ^ b)).setDom (domIx d) .inReset else s.orReg a (2 ^ b)) := by
    show execBlockReset who d s = _
    unfold execBlockReset
    rw [hb]
  have hor : ∀ e, (s.orReg a (2 ^ b)).domSt e = s.domSt e := (s.orReg_same a _).domSt (by decide)
  refine ⟨_, he.trans (next_access hr), ?_⟩
  by_cases h1 : s.domSt (domIx d) = .run ∧ ¬(domIx d = 2 ∧ s.nvsGo.nvs.cur ≠ none)
  · rw [if_pos (by simpa [imp_iff_not_or] using h1), if_pos h1]
    have hsame := authSync_same s.auth ((s.orReg a (2 ^ b)).setDom (domIx d) .isolating)
    refine ⟨?_, fun e hne => ?_, ?_⟩
    · rw [State.rbit, authSync_regsBut _ _ _ (blockReg_not_authReg ha)]
      exact hbit
    · rw [hsame.domSt, State.domSt_setDom_ne _ _ hne, hor]
    · rw [hsame.domSt, State.domSt_setDom_self]
  · rw [if_neg (by simpa [imp_iff_not_or] using h1), if_neg h1]
    by_cases h2 : s.domSt (domIx d) = .releasePending
    · rw [if_pos h2, if_pos h2]
      exact ⟨hbit, fun e hne => (State.domSt_setDom_ne _ _ hne).trans (hor e), State.domSt_setDom_self _ _ _⟩
    · rw [if_neg h2, if_neg h2]
      exact ⟨hbit, fun e _ => hor e, hor _⟩

/-- BLOCK_RESET_RELEASE clears the bit of its domain, which leaves reset (R411). -/
theorem exec_blockResetRelease (hn : n = domIx d) (hb : blockBit n = some (a, b)) (hr : reaches s who a = true) :
    ∃ t, exec (.blockResetRelease who d) s = .next t ∧ t.rbit a b = false ∧ RegsBut [a] s t ∧ (∀ e, e ≠ n → t.domSt e = s.domSt e)
      ∧ t.domSt n = (if s.domSt n = .inReset then .releasePending else s.domSt n) ∧ SameBut [.regs, .rst] s t := by
  subst hn
  have hbit : (s.clrReg a (2 ^ b)).rbit a b = false := by rw [State.rbit_clrReg_self _ _ _ _ (blockBit_lt hb), Nat.testBit_two_pow_self, Bool.not_true, Bool.and_false]
  have he : exec (.blockResetRelease who d) s = .next (s.access who a fun s =>
      if s.domSt (domIx d) = .inReset then (s.clrReg a (2 ^ b)).setDom (domIx d) .releasePending else s.clrReg a (2 ^ b)) := by
    show execBlockResetRelease who d s = _
    unfold execBlockResetRelease
    rw [hb]
  have hclr : SameBut [.regs] s (s.clrReg a (2 ^ b)) := s.clrReg_same a _
  refine ⟨_, he.trans (next_access hr), ?_⟩
  by_cases h : s.domSt (domIx d) = .inReset
  · rw [if_pos h, if_pos h]
    exact ⟨hbit, (s.clrReg_regsBut a _).trans ((State.setDom_same _ _ _).regsBut _), fun e hne => (State.domSt_setDom_ne _ _ hne).trans (hclr.domSt (by decide) e),
      State.domSt_setDom_self _ _ _, (hclr.mono (by decide)).then (State.setDom_same _ _ _)⟩
  · rw [if_neg h, if_neg h]
    exact ⟨hbit, s.clrReg_regsBut a _, fun e _ => hclr.domSt (by decide) e, hclr.domSt (by decide) _, hclr.mono (by decide)⟩

theorem State.reg_dropRegs (s : State) (d r : Nat) : (s.dropRegs d).reg r = if domOfAddr r = d then regReset r else s.reg r := by
  show Tab.getD (Tab.keep s.regs (fun a => domOfAddr a != d)) r (regReset r) = _
  rw [Tab.getD, Tab.find?_keep]
  by_cases h : domOfAddr r = d
  · simp [h]
  · rw [if_pos (by simpa using h), if_neg h]
    rfl

theorem State.reg_rearmDom (s : State) (d r : Nat) : (s.rearmDom d).reg r = s.reg r := rfl

/-- The registers of a domain that is cleared read their reset values, but for the level of VPROG (R411, R483). -/
theorem clearDom_reg {r : Nat} (hr : domOfAddr r = n) (hp : r ≠ Reg.PRS_STAT) : (clearDom n s).reg r = regReset r := by
  have h : (((clearDomBody n s).dropRegs n).rearmDom n).reg r = regReset r := by
    rw [State.reg_rearmDom, State.reg_dropRegs, if_pos hr]
  unfold clearDom
  extract_lets t
  split
  · exact (State.orReg_regsBut t _ _ r (by simpa using hp)).trans h
  · exact h

theorem clearDom_prsStat : (clearDom 4 s).reg Reg.PRS_STAT = regReset Reg.PRS_STAT ||| (s.reg Reg.PRS_STAT &&& 0x10000) := by
  have h : (((clearDomBody 4 s).dropRegs 4).rearmDom 4).reg Reg.PRS_STAT = regReset Reg.PRS_STAT := by
    rw [State.reg_rearmDom, State.reg_dropRegs, if_pos (by decide)]
  have hand : s.reg Reg.PRS_STAT &&& 0x10000 = if s.rbit Reg.PRS_STAT 16 then 0x10000 else 0 := by
    rw [State.rbit_eq_getLsbD]
    exact BitVec.and_twoPow (s.reg Reg.PRS_STAT) 16
  rw [hand]
  unfold clearDom
  extract_lets t
  by_cases hb : s.rbit Reg.PRS_STAT 16 = true
  · rw [if_pos ⟨rfl, hb⟩, if_pos hb, State.reg_orReg_self]
    exact congrArg (· ||| BitVec.ofNat 32 (2 ^ 16)) h
  · rw [if_neg (fun hc => hb hc.2), if_neg hb]
    exact h.trans BitVec.or_zero.symm

end

/-! ## The snapshot of the counts -/

section
variable (s : State)

/-- Wide registers set one after the other, each at an address of its own. -/
theorem foldl_setReg64 (l : List Nat) (f g : Nat → Nat) (hf : ∀ i j, i ≠ j → f i + 8 ≤ f j ∨ f j + 8 ≤ f i) (s : State) {i : Nat} (hi : i ∈ l) (hg : g i < 2 ^ 64) :
    (l.foldl (fun t i => t.setReg64 (f i) (g i)) s).reg64 (f i) = g i := by
  have hself : ∀ t : State, (t.setReg64 (f i) (g i)).reg64 (f i) = g i := by
    intro t
    rw [State.reg64, State.setReg64, State.reg_setReg_self, State.reg_setReg, if_neg (by omega), State.reg_setReg_self, BitVec.toNat_ofNat, BitVec.toNat_ofNat,
      Nat.shiftRight_eq_div_pow]
    omega
  have hkeep : ∀ (r : List Nat) (t : State), i ∉ r → (r.foldl (fun t i => t.setReg64 (f i) (g i)) t).reg64 (f i) = t.reg64 (f i) := by
    intro r
    induction r with
    | nil => intro t _; rfl
    | cons j r ih =>
      intro t hj
      rw [List.mem_cons, not_or] at hj
      have h := hf i j hj.1
      rw [List.foldl_cons, ih _ hj.2, State.reg64, State.reg64, State.setReg64, State.reg_setReg, if_neg (by omega), State.reg_setReg, if_neg (by omega),
        State.reg_setReg, if_neg (by omega), State.reg_setReg, if_neg (by omega)]
  induction l generalizing s with
  | nil => cases hi
  | cons j r ih =>
    by_cases hr : i ∈ r
    · exact ih _ hr
    · obtain rfl | h := List.mem_cons.mp hi
      · rw [List.foldl_cons, hkeep r _ hr, hself]
      · exact absurd h hr

/-- The number whose bits below n are those for which a condition holds. -/
theorem testBit_foldl_bits (p : Nat → Bool) (n : Nat) : (List.range n).foldl (fun v i => if p i then v + 2 ^ i else v) 0 < 2 ^ n
    ∧ ∀ i < n, ((List.range n).foldl (fun v i => if p i then v + 2 ^ i else v) 0).testBit i = p i := by
  induction n with
  | zero => simp
  | succ n ih =>
    obtain ⟨hlt, hb⟩ := ih
    rw [List.range_succ, List.foldl_append, List.foldl_cons, List.foldl_nil]
    generalize (List.range n).foldl (fun v i => if p i then v + 2 ^ i else v) 0 = v at hb hlt
    have hn : v.testBit n = false := Nat.testBit_lt_two_pow hlt
    have h2 : 2 ^ (n + 1) = 2 * 2 ^ n := by rw [Nat.pow_succ, Nat.mul_comm]
    by_cases hp : p n = true
    · rw [if_pos hp, Nat.add_comm]
      refine ⟨by omega, fun i hi => ?_⟩
      obtain h | rfl := Nat.lt_succ_iff_lt_or_eq.mp hi
      · rw [Nat.testBit_two_pow_add_gt h, hb i h]
      · rw [Nat.testBit_two_pow_add_eq, hn, hp, Bool.not_false]
    · rw [if_neg hp]
      refine ⟨by omega, fun i hi => ?_⟩
      obtain h | rfl := Nat.lt_succ_iff_lt_or_eq.mp hi
      · exact hb i h
      · rw [hn, Bool.eq_false_iff.mpr hp]

theorem counts_lt (s : State) (i : Nat) : (if countUp s i then (s.cnt.at i).toNat else 0) < 2 ^ 64 := by
  split
  · exact (s.cnt.at i).isLt
  · decide

theorem State.setReg64_same (s : State) (a v : Nat) : SameBut [.regs] s (s.setReg64 a v) := (s.setReg_same _ _).trans (State.setReg_same _ _ _)

/-- What GO leaves in the snapshot registers (R434). -/
theorem snapshot_spec : (∀ i < 14, (snapshot s).reg64 (Reg.CNT_SNAPV i) = (if countUp s i then (s.cnt.at i).toNat else 0) ∧ (snapshot s).rbit Reg.CNT_SNAP_VALID i = countUp s i)
    ∧ (snapshot s).fld Reg.CNT_SNAP 31 16 = (s.fld Reg.CNT_SNAP 31 16 + 1) % 65536 ∧ SameBut [.regs] s (snapshot s) := by
  unfold snapshot
  extract_lets s1 valid
  obtain ⟨-, hvalid⟩ := testBit_foldl_bits (countUp s) 14
  have hsame : SameBut [.regs] s s1 := SameBut.foldl (fun t i => t.setReg64_same _ _) _ _
  have hsnap : s1.reg Reg.CNT_SNAP = s.reg Reg.CNT_SNAP := by
    refine RegsBut.foldl (l := (List.range 14).flatMap (fun i => [Reg.CNT_SNAPV i, Reg.CNT_SNAPV i + 4])) (fun t i hi => ?_) s _ (by decide)
    exact (t.setReg64_regsBut _ _).mono fun a ha => List.mem_flatMap.mpr ⟨i, hi, ha⟩
  have hreg : ∀ a, a ≠ Reg.CNT_SNAP → a ≠ Reg.CNT_SNAP_VALID →
      ((s1.setReg Reg.CNT_SNAP_VALID (BitVec.ofNat 32 valid)).setFld Reg.CNT_SNAP 31 16 (s1.fld Reg.CNT_SNAP 31 16 + 1)).reg a = s1.reg a := fun a h1 h2 =>
    (State.setFld_regsBut _ _ _ _ _ a (by simpa using h1)).trans (State.setReg_regsBut _ _ _ a (by simpa using h2))
  refine ⟨fun i hi => ⟨?_, ?_⟩, ?_, ((hsame.then (State.setReg_same _ _ _)).then (State.setFld_same _ _ _ _ _))⟩
  · have h1 : Reg.CNT_SNAPV i ≠ Reg.CNT_SNAP ∧ Reg.CNT_SNAPV i ≠ Reg.CNT_SNAP_VALID ∧ Reg.CNT_SNAPV i + 4 ≠ Reg.CNT_SNAP ∧ Reg.CNT_SNAPV i + 4 ≠ Reg.CNT_SNAP_VALID := by
      unfold Reg.CNT_SNAPV Reg.CNT_SNAP Reg.CNT_SNAP_VALID
      omega
    rw [State.reg64, hreg _ h1.1 h1.2.1, hreg _ h1.2.2.1 h1.2.2.2]
    exact foldl_setReg64 (List.range 14) Reg.CNT_SNAPV (fun i => if countUp s i then (s.cnt.at i).toNat else 0)
      (fun i j h => by simp only [Reg.CNT_SNAPV]; omega) s (by simpa using hi) (counts_lt s i)
  · rw [State.rbit, State.setFld_regsBut _ _ _ _ _ _ (by decide), ← State.rbit, State.rbit_setReg_self, bit_eq_getLsbD, BitVec.getLsbD_ofNat, decide_eq_true (by omega), Bool.true_and]
    exact hvalid i hi
  · rw [State.fld_setFld_self _ _ _ _ _ (by decide) (by decide), State.fld, hsnap]
    rfl

end

/-- Settles O51. -/
theorem blockResetsClocksAndSnapshots : Obligations.BlockResetsClocksAndSnapshots := by
  intro s
  refine ⟨fun d n a b hn hb => ⟨fun who hr => ⟨exec_blockReset hn hb hr, exec_blockResetRelease hn hb hr⟩, fun hst => ?drained, fun hst => ⟨?good, fun hsince => ?pending⟩⟩,
    fun who d hb => ⟨?noReset, ?noRelease⟩, fun hx => ?lock, fun hx => ?stop, rfl, rfl, fun who hr => ?go⟩
  case drained =>
    subst hn
    have he : exec (.separatorDrained d) s = .next ((clearDom (domIx d) s).setDom (domIx d) (if s.rbit a b then .inReset else .releasePending)) := by
      show execSeparatorDrained d s = _
      unfold execSeparatorDrained
      rw [hb, hst]
      rfl
    refine ⟨_, he, State.domSt_setDom_self _ _ _, fun r hr hp => clearDom_reg hr hp, fun h4 => ?_⟩
    rw [h4]
    exact clearDom_prsStat
  case good =>
    subst hn
    have he : exec (.clockGood d) s = .next (released (domIx d) (s.setDom (domIx d) .run)) := congrArg Host.Outcome.next (if_pos (by rw [hst]; rfl))
    exact ⟨_, he, (released_domSt _ _ _).trans (State.domSt_setDom_self _ _ _)⟩
  case pending =>
    subst hn
    have hg : (s.domSt (domIx d) == .releasePending && decide (10000 ≤ s.domSince (domIx d))) = true := by
      rw [hst, decide_eq_true hsince]
      rfl
    exact ⟨_, congrArg Host.Outcome.next (if_pos hg), State.raise_raised _ _ _ _ _, State.raise_same _ _ _ _ _⟩
  case noReset =>
    show execBlockReset who d s = _
    unfold execBlockReset
    rw [hb]
  case noRelease =>
    show execBlockResetRelease who d s = _
    unfold execBlockResetRelease
    rw [hb]
  case lock => exact congrArg Host.Outcome.next (if_pos hx)
  case stop =>
    have hsame : SameBut [.regs] s (s.clrReg Reg.CLK_STAT 6) := s.clrReg_same _ _
    refine ⟨_, congrArg Host.Outcome.next (if_pos hx), ?_, raised_of_ev (hsame .ev (by decide)) _ _ _ _, (s.clrReg_regsBut _ _).trans (State.raise_regsBut _ _ _ _ _ _),
      (hsame.mono (by decide)).then (State.raise_same _ _ _ _ _)⟩
    rw [State.raise_reg, State.reg_clrReg_self]
    rfl
  case go => exact ⟨_, next_access hr, snapshot_spec s⟩

end Sys2Proof.Machine
end

section
/-!
PROOFS. Herd link ports: bring-up, identity, acknowledgement and replay (R315 to R318).
-/
set_option Elab.async false

namespace Sys2Proof.Machine

theorem State.port_setPort_self (s : State) (p : Nat) (x : LinkPort) : (s.setPort p x).port p = x := Tab.getD_setD_self s.link.ports p .idle x

theorem State.port_setPort_ne (s : State) {p q : Nat} (x : LinkPort) (h : q ≠ p) : (s.setPort p x).port q = s.port q :=
  Tab.getD_setD_ne s.link.ports .idle x .idle h

theorem State.port_setReg (s : State) (a : Nat) (v : W32) (p : Nat) : (s.setReg a v).port p = s.port p := rfl

theorem SameBut.port {l : List Piece} {s t : State} (h : SameBut l s t) (hl : .link ∉ l := by decide) (p : Nat) : t.port p = s.port p :=
  congrArg (fun k : LinkSt => Tab.getD k.ports p .idle) (h .link hl)

/-! ## PORT_ENABLE -/

/-- What a write of PEN does to one port: it starts anew where its bit changes. -/
def portFlip (s : State) (v : W32) (t : State) (p : Nat) : State :=
  if s.rbit Reg.HLK_CTL p = bit v p then t else (t.setPort p .idle).setReg (Reg.HLK_PSTAT p) (if bit v p then 1 else 0)

theorem portFlip_regsBut (s : State) (v : W32) (t : State) (p : Nat) : RegsBut [Reg.HLK_PSTAT p] t (portFlip s v t p) :=
  regsBut_ite (RegsBut.refl _ _) (((t.setPort_same _ _).regsBut _).trans (State.setReg_regsBut _ _ _))

theorem portFlip_same (s : State) (v : W32) (t : State) (p : Nat) : SameBut [.regs, .link] t (portFlip s v t p) :=
  sameBut_ite (SameBut.refl _ _) (((t.setPort_same _ _).mono (by decide)).then (State.setReg_same _ _ _))

theorem portFlip_ne (s : State) (v : W32) (t : State) {p q : Nat} (h : q ≠ p) :
    (portFlip s v t p).port q = t.port q ∧ (portFlip s v t p).reg (Reg.HLK_PSTAT q) = t.reg (Reg.HLK_PSTAT q) := by
  refine ⟨?_, portFlip_regsBut s v t p _ (by simpa [Reg.HLK_PSTAT, baseHlp] using h)⟩
  unfold portFlip
  split
  · rfl
  · rw [State.port_setReg, State.port_setPort_ne _ _ h]

theorem portFlip_self (s : State) (v : W32) (t : State) (p : Nat) :
    (s.rbit Reg.HLK_CTL p = bit v p → portFlip s v t p = t)
      ∧ (s.rbit Reg.HLK_CTL p ≠ bit v p → (portFlip s v t p).port p = .idle ∧ (portFlip s v t p).reg (Reg.HLK_PSTAT p) = if bit v p then 1 else 0) := by
  refine ⟨fun h => if_pos h, fun h => ?_⟩
  rw [portFlip, if_neg h]
  exact ⟨by rw [State.port_setReg, State.port_setPort_self], State.reg_setReg_self _ _ _⟩

/-- Ports outside a list are as they were after each port of the list has been written. -/
theorem foldl_portFlip_out (s : State) (v : W32) (l : List Nat) (t : State) {p : Nat} (h : p ∉ l) :
    (l.foldl (portFlip s v) t).port p = t.port p ∧ (l.foldl (portFlip s v) t).reg (Reg.HLK_PSTAT p) = t.reg (Reg.HLK_PSTAT p) := by
  induction l generalizing t with
  | nil => exact ⟨rfl, rfl⟩
  | cons q r ih =>
    rw [List.mem_cons, not_or] at h
    obtain ⟨h1, h2⟩ := ih (portFlip s v t q) h.2
    obtain ⟨h3, h4⟩ := portFlip_ne s v t h.1
    exact ⟨h1.trans h3, h2.trans h4⟩

/-- Each port of a list is written as its bit says. -/
theorem foldl_portFlip (s : State) (v : W32) (l : List Nat) (hl : l.Nodup) (t : State) {p : Nat} (h : p ∈ l) :
    (s.rbit Reg.HLK_CTL p = bit v p → (l.foldl (portFlip s v) t).port p = t.port p ∧ (l.foldl (portFlip s v) t).reg (Reg.HLK_PSTAT p) = t.reg (Reg.HLK_PSTAT p))
      ∧ (s.rbit Reg.HLK_CTL p ≠ bit v p → (l.foldl (portFlip s v) t).port p = .idle ∧ (l.foldl (portFlip s v) t).reg (Reg.HLK_PSTAT p) = if bit v p then 1 else 0) := by
  induction l generalizing t with
  | nil => cases h
  | cons q r ih =>
    obtain ⟨hq, hr⟩ := List.nodup_cons.mp hl
    obtain rfl | hp := List.mem_cons.mp h
    · obtain ⟨h1, h2⟩ := foldl_portFlip_out s v r (portFlip s v t p) hq
      obtain ⟨h3, h4⟩ := portFlip_self s v t p
      rw [List.foldl_cons, h1, h2]
      exact ⟨fun hb => by rw [h3 hb]; exact ⟨rfl, rfl⟩, h4⟩
    · obtain ⟨h3, h4⟩ := portFlip_ne s v t (p := q) (q := p) (fun hpq => hq (hpq ▸ hp))
      have := ih hr (portFlip s v t q) hp
      rwa [h3, h4] at this

section
variable {s : State}

theorem exec_portEnable {who : Who} {v : W32} (hr : reaches s who Reg.HLK_CTL = true) :
    exec (.portEnable who v) s = .next ((List.range 8).foldl (portFlip s v) (s.putMasked Reg.HLK_CTL v)) := next_access hr

/-! ## Training and identity -/

/-- A port's state while it trains: its own block runs. -/
theorem training_of {p : Nat} (hu : s.up 7 = true) (hp : s.portSt p = 1) : (s.up 7 && s.portSt p == 1) = true := by simp [hu, hp]

theorem portUp_of {p : Nat} (hu : s.up 7 = true) (hp : s.portSt p = 2) : s.portUp p = true := by simp [State.portUp, hu, hp]

/-- The state and the far id in HLK_PSTAT. -/
theorem pstatWord (far : BitVec 10) (k : Nat) (hk : k < 4) : bits (BitVec.ofNat 32 (16 * far.toNat + 2 ^ 14) ||| BitVec.ofNat 32 k) 13 4 = far.toNat
    ∧ bits (BitVec.ofNat 32 (16 * far.toNat + 2 ^ 14) ||| BitVec.ofNat 32 k) 2 0 = k := by
  have hf := far.isLt
  have hor : BitVec.ofNat 32 (16 * far.toNat + 2 ^ 14) ||| BitVec.ofNat 32 k = BitVec.ofNat 32 (16 * far.toNat + 2 ^ 14 + k) := by
    apply BitVec.eq_of_toNat_eq
    rw [BitVec.toNat_or, BitVec.toNat_ofNat, BitVec.toNat_ofNat, BitVec.toNat_ofNat, Nat.mod_eq_of_lt (by omega), Nat.mod_eq_of_lt (by omega), Nat.mod_eq_of_lt (by omega),
      show 16 * far.toNat + 2 ^ 14 = 2 ^ 4 * (far.toNat + 2 ^ 10) by omega, Nat.two_pow_add_eq_or_of_lt (by omega)]
  rw [hor]
  simp only [bits, BitVec.toNat_ofNat, Nat.shiftRight_eq_div_pow]
  omega

theorem State.setPortSt_same (s : State) (p v : Nat) : SameBut [.regs] s (s.setPortSt p v) := s.setFld_same _ _ _ _

theorem pstat_ne_perr (p : Nat) : Reg.HLK_PSTAT p ∉ [Reg.HLK_PERR p] := by simp [Reg.HLK_PSTAT, Reg.HLK_PERR]

/-- What a port's failure leaves (R318). -/
theorem portFail_spec (p : Nat) (n : W32) (s : State) :
    (portFail p n s).portSt p = 4 ∧ ((portFail p n s).port p).buf = [] ∧ Raised 0x0502 s (portFail p n s) := by
  have h1 := s.setPortSt_same p 4
  have h2 := (s.setPortSt p 4).setPort_same p { s.port p with buf := [] }
  have h3 := ((s.setPortSt p 4).setPort p { s.port p with buf := [] }).orReg_same (Reg.HLK_PERR p) 4
  have hreg : RegsBut [Reg.HLK_PERR p] (s.setPortSt p 4) (portFail p n s) :=
    (h2.regsBut _).trans ((State.orReg_regsBut _ _ _).trans (State.raise_regsBut _ _ _ _ _ _))
  refine ⟨?_, ?_, raised_of_ev ((h3 .ev (by decide)).trans ((h2 .ev (by decide)).trans (h1 .ev (by decide)))) _ _ _ _⟩
  · rw [State.portSt, hreg.fld (pstat_ne_perr p)]
    exact s.fld_setFld_self (Reg.HLK_PSTAT p) 2 0 4 (by decide) (by decide)
  · rw [portFail, (State.raise_same _ _ _ _ _).port, h3.port, State.port_setPort_self]

theorem foldl_emit_same (p : Nat) (l : List TxFrame) (s : State) : SameBut [.link] s (l.foldl (fun t f => t.emit p f.wire) s) :=
  SameBut.foldl (fun t _ => t.emit_same _ _) _ _

theorem foldl_emit_port (p : Nat) (l : List TxFrame) (s : State) (q : Nat) : (l.foldl (fun t f => t.emit p f.wire) s).port q = s.port q :=
  foldl_keep (fun (t : State) (f : TxFrame) => t.emit p f.wire) (fun t : State => t.port q) (fun _ _ => rfl) l s

/-- A request to replay, on a port that is up. -/
theorem exec_replayRequest {q : Fin 8} {n : W32} (hup : s.portUp q.val = true) : exec (.replayRequest q n) s = .next
    (match (((s.port q.val).buf.flatMap (TxFrame.cut n)).filter (fun f => f.lseq == n || follows f.lseq n)).find? (fun f => !replayOk s f) with
    | some f => portFail q.val f.lseq s
    | none => (((s.port q.val).buf.flatMap (TxFrame.cut n)).filter (fun f => f.lseq == n || follows f.lseq n)).foldl (fun t f => t.emit q.val f.wire)
        ((s.setPort q.val { s.port q.val with buf := ((s.port q.val).buf.flatMap (TxFrame.cut n)).map (fun f => if f.lseq == n || follows f.lseq n then { f with n := f.n + 1 } else f) }).incReg
          Reg.HLK_REPLAY_CNT (((((s.port q.val).buf.flatMap (TxFrame.cut n)).filter (fun f => f.lseq == n || follows f.lseq n)).map (fun f => f.cnt)).foldl (fun a b => a + b) 0))) :=
  congrArg Host.Outcome.next ((if_pos hup).trans (by rfl))

end

/-- Settles O43. -/
theorem linkPorts : Obligations.LinkPorts := by
  intro s
  refine ⟨fun who v hr => ?enable, fun q p hp hu => ⟨fun hst => ⟨?timeout, fun far part en => ?identity⟩, fun x n hst hx =>
    ⟨?ack, fun l hl => ⟨fun hok => ?replay, fun hbad => ?replayFail, fun hex => ?exhausted, ?crc⟩⟩⟩⟩
  case enable =>
    refine ⟨_, exec_portEnable hr, ?_, ?_, fun p hp => ?_⟩
    · refine ((s.putMasked_regsBut _ v).mono (by simp)).trans (RegsBut.foldl (fun t p hp => (portFlip_regsBut s v t p).mono fun a ha => ?_) _)
      rw [List.mem_singleton.mp ha]
      exact List.mem_cons_of_mem _ (List.mem_map_of_mem hp)
    · exact ((s.putMasked_same _ v).mono (by decide)).trans (SameBut.foldl (fun t p => portFlip_same s v t p) _ _)
    · have h := foldl_portFlip s v (List.range 8) List.nodup_range (s.putMasked Reg.HLK_CTL v) (List.mem_range.mpr hp)
      rwa [(s.putMasked_same _ v).port, s.putMasked_regsBut _ v (Reg.HLK_PSTAT p) (by simp [Reg.HLK_PSTAT, Reg.HLK_CTL, baseHlp, baseHlk]; omega)] at h
  case timeout =>
    subst hp
    have h1 := s.orReg_same (Reg.HLK_PERR q.val) 2
    have h2 := (s.orReg (Reg.HLK_PERR q.val) 2).setPort_same q.val { s.port q.val with late := true }
    have hev := (h2 .ev (by decide)).trans (h1 .ev (by decide))
    refine ⟨_, congrArg Host.Outcome.next (if_pos (training_of hu hst)), ?_, ?_, ?_, fun hl => ?_, fun hl => ?_⟩
    · rw [(State.raiseIf_regsBut _ _ _ _ _ _ []).reg (by simp), h2.reg, State.reg_orReg_self]
      rfl
    · exact (s.orReg_regsBut _ _).trans ((h2.regsBut _).trans (State.raiseIf_regsBut _ _ _ _ _ _ _))
    · rw [(State.raiseIf_same _ _ _ _ _ _).port, State.port_setPort_self]
    · dsimp only
      rw [hl]
      exact raised_of_ev hev _ _ _ _
    · dsimp only
      rw [hl]
      exact congrArg EvSt.log hev
  case identity =>
    subst hp
    obtain ⟨hfar, hst3⟩ := pstatWord far 3 (by decide)
    obtain ⟨hfar2, hst2⟩ := pstatWord far 2 (by decide)
    by_cases hb : identityBad s q.val far.toNat part.toNat en = true
    · have h1 := s.setReg_same (Reg.HLK_PSTAT q.val) (BitVec.ofNat 32 (16 * far.toNat + 2 ^ 14) ||| 3)
      have h2 := (s.setReg (Reg.HLK_PSTAT q.val) (BitVec.ofNat 32 (16 * far.toNat + 2 ^ 14) ||| 3)).orReg_same (Reg.HLK_PERR q.val) 1
      have hreg : RegsBut [Reg.HLK_PERR q.val] (s.setReg (Reg.HLK_PSTAT q.val) (BitVec.ofNat 32 (16 * far.toNat + 2 ^ 14) ||| 3)) _ :=
        (State.orReg_regsBut _ _ 1).trans (State.raise_regsBut _ 0x0501 1 0x300 (q.val + 2 ^ 16 * far.toNat) _)
      refine ⟨_, congrArg Host.Outcome.next ((if_pos (training_of hu hst)).trans (if_pos hb)), ?_, fun _ => ⟨?_, ?_, ?_, ?_⟩, fun h => absurd (hb.symm.trans h) (by decide)⟩
      · rw [hreg.fld (pstat_ne_perr _), State.fld, State.reg_setReg_self]
        exact hfar
      · rw [State.portSt, hreg.fld (pstat_ne_perr _), State.fld, State.reg_setReg_self]
        exact hst3
      · rw [(State.raise_regsBut _ _ _ _ _ []).rbit (by simp), State.rbit_orReg_self _ _ _ _ (by decide)]
        simp
      · exact raised_of_ev ((h2 .ev (by decide)).trans (h1 .ev (by decide))) _ _ _ _
      · exact ((s.setReg_regsBut _ _).mono (by simp)).trans (hreg.mono (by simp))
    · refine ⟨_, congrArg Host.Outcome.next ((if_pos (training_of hu hst)).trans (if_neg hb)), ?_, fun h => absurd h hb, fun _ => ⟨?_, s.setReg_regsBut _ _, s.setReg_same _ _⟩⟩
      · rw [State.fld, State.reg_setReg_self]
        exact hfar2
      · rw [State.portSt, State.fld, State.reg_setReg_self]
        exact hst2
  case ack =>
    subst hp hx
    exact ⟨_, congrArg Host.Outcome.next (if_pos (portUp_of hu hst)), State.port_setPort_self _ _ _, fun o ho => State.port_setPort_ne _ _ ho, State.setPort_same _ _ _⟩
  case replay =>
    subst hp hx hl
    have hnone : (((s.port q.val).buf.flatMap (TxFrame.cut n)).filter (fun f => f.lseq == n || follows f.lseq n)).find? (fun f => !replayOk s f) = none := by
      rw [List.find?_eq_none]
      intro f hf
      obtain ⟨hmem, hagain⟩ := List.mem_filter.mp hf
      simp [hok f hmem (by simpa using hagain)]
    have he := exec_replayRequest (n := n) (portUp_of hu hst)
    rw [hnone] at he
    refine ⟨_, he, ?_, ?_, ?_, ?_, ?_⟩
    · rw [foldl_emit_port, State.incReg, State.port_setReg, State.port_setPort_self]
    · rw [foldl_emit_port, State.incReg, State.port_setReg, State.port_setPort_self]
    · rw [(foldl_emit_same _ _ _).reg, State.incReg, State.reg_setReg_self]
      rfl
    · exact ((State.setPort_same _ _ _).regsBut _).trans ((State.incReg_regsBut _ _ _).trans ((foldl_emit_same _ _ _).regsBut _))
    · exact ((((State.setPort_same _ _ _).mono (by decide)).then (State.incReg_same _ _ _))).then (foldl_emit_same _ _ _)
  case replayFail =>
    subst hp hx hl
    obtain ⟨f, hmem, hagain, hno⟩ := hbad
    have he := exec_replayRequest (n := n) (portUp_of hu hst)
    rcases hf : (((s.port q.val).buf.flatMap (TxFrame.cut n)).filter (fun f => f.lseq == n || follows f.lseq n)).find? (fun f => !replayOk s f) with _ | g
    · rw [List.find?_eq_none] at hf
      exact absurd (hf f (List.mem_filter.mpr ⟨hmem, by simpa using hagain⟩)) (by simp [hno])
    · rw [hf] at he
      exact ⟨_, he, portFail_spec _ _ _⟩
  case exhausted =>
    subst hp hx
    have hg : (s.portUp q.val && (s.port q.val).buf.any (fun f => decide ((n - f.lseq).toNat < f.cnt))) = true := by
      rw [portUp_of hu hst, Bool.true_and, List.any_eq_true]
      simpa using hex
    exact ⟨_, congrArg Host.Outcome.next (if_pos hg), portFail_spec _ _ _⟩
  case crc =>
    subst hp hx
    exact congrArg Host.Outcome.next (if_pos (portUp_of hu hst))

end Sys2Proof.Machine
end

section
/-!
PROOFS. What grows or stays through the gate's and the pair's operations: the log of events, the registers of a range, and the pair's state.
-/
set_option Elab.async false

namespace Sys2Proof.Machine

/-! ## The log -/

/-- Events raised before are still in the log. -/
def LogGrows (s t : State) : Prop := ∃ l, t.ev.log = l ++ s.ev.log

theorem LogGrows.refl (s : State) : LogGrows s s := ⟨[], rfl⟩

theorem LogGrows.trans {s t u : State} (h : LogGrows s t) (k : LogGrows t u) : LogGrows s u := by
  obtain ⟨l, hl⟩ := h
  obtain ⟨m, hm⟩ := k
  exact ⟨m ++ l, by rw [hm, hl, List.append_assoc]⟩

theorem SameBut.logGrows {l : List Piece} {s t : State} (h : SameBut l s t) (hl : .ev ∉ l := by decide) : LogGrows s t :=
  ⟨[], congrArg EvSt.log (h .ev hl)⟩

theorem logGrows_ite {c : Prop} [Decidable c] {s t u : State} (ht : LogGrows s t) (hu : LogGrows s u) : LogGrows s (if c then t else u) := by
  split
  · exact ht
  · exact hu

theorem LogGrows.foldl {α : Type} {f : State → α → State} (h : ∀ t a, LogGrows t (f t a)) (l : List α) (s : State) : LogGrows s (l.foldl f s) := by
  induction l generalizing s with
  | nil => exact LogGrows.refl s
  | cons a r ih => exact (h s a).trans (ih _)

theorem State.raise_logGrows (s : State) (code sev src pay : Nat) : LogGrows s (s.raise code sev src pay) := by
  obtain ⟨l, hl, -⟩ := s.raise_log code sev src pay
  exact ⟨s.mkEvent code sev src (srcCount src) 0xFF 0 pay :: l, by rw [hl, List.cons_append]⟩

theorem State.raiseIf_logGrows (s : State) (b : Bool) (code sev src pay : Nat) : LogGrows s (s.raiseIf b code sev src pay) :=
  logGrows_ite (s.raise_logGrows _ _ _ _) (LogGrows.refl s)

theorem State.raiseOnce_logGrows (s : State) (key code sev src pay : Nat) : LogGrows s (s.raiseOnce key code sev src pay) := by
  unfold State.raiseOnce
  exact logGrows_ite (LogGrows.refl s) ((s.raise_logGrows _ _ _ _).trans ⟨[], rfl⟩)

/-- An event raised last is among those raised since an earlier state. -/
theorem LogGrows.raised {s t u : State} {code : Nat} (h : LogGrows s t) (k : Raised code t u) : RaisedAmong code s u := by
  obtain ⟨l, hl⟩ := h
  obtain ⟨e, m, hm, hcode, -⟩ := k
  exact ⟨e :: (m ++ l), by rw [hm, hl, List.cons_append, List.append_assoc], e, List.mem_cons_self, hcode⟩

theorem Raised.among {s t : State} {code : Nat} (h : Raised code s t) : RaisedAmong code s t := (LogGrows.refl s).raised h

/-- An event stays among those raised while the log grows. -/
theorem RaisedAmong.grows {s t u : State} {code : Nat} (h : RaisedAmong code s t) (k : LogGrows t u) : RaisedAmong code s u := by
  obtain ⟨l, hl, e, he, hcode⟩ := h
  obtain ⟨m, hm⟩ := k
  exact ⟨m ++ l, by rw [hm, hl, List.append_assoc], e, List.mem_append_right _ he, hcode⟩

/-! ## Memory accesses and authority -/

theorem State.health_logGrows (s : State) (b : Nat) : LogGrows s (s.health b) := by
  unfold State.health
  exact logGrows_ite (LogGrows.refl s) ((State.orReg_same _ _ _).logGrows.trans (State.raise_logGrows _ _ _ _ _))

theorem State.raiseOnceHealth_logGrows (s : State) (key code sev src pay b : Nat) : LogGrows s (s.raiseOnceHealth key code sev src pay b) :=
  logGrows_ite (LogGrows.refl s) ((s.raiseOnce_logGrows _ _ _ _ _).trans (State.health_logGrows _ _))

theorem State.eccCount_logGrows (s : State) (n : Nat) : LogGrows s (s.eccCount n) := by
  unfold State.eccCount
  have h : LogGrows s (s.incReg Reg.TNK_ECC_CNT n) := (s.incReg_same _ _).logGrows
  exact logGrows_ite (LogGrows.refl s) (logGrows_ite (h.trans (State.raiseOnceHealth_logGrows _ _ _ _ _ _ _)) h)

theorem State.eccUnc_logGrows (s : State) (sp g port kind : Nat) : LogGrows s (s.eccUnc sp g port kind) := by
  unfold State.eccUnc
  extract_lets a core off s1
  have h : LogGrows s s1 := (s.orReg_same _ _).logGrows.trans (State.setReg64_same _ _ _).logGrows
  exact logGrows_ite (h.trans (State.raise_logGrows _ _ _ _ _)) (logGrows_ite (h.trans (State.raise_logGrows _ _ _ _ _)) (h.trans (State.raise_logGrows _ _ _ _ _)))

theorem State.correct_logGrows (s : State) (sp : Nat) (hit : Nat × Bool → Bool) : LogGrows s (s.correct sp hit) :=
  (s.setMem_spaces sp _).logGrows.trans (State.eccCount_logGrows _ _)

theorem State.readFx_logGrows (s : State) (sp a n port kind : Nat) : LogGrows s (s.readFx sp a n port kind) :=
  (s.correct_logGrows sp _).trans (LogGrows.foldl (fun t _ => t.eccUnc_logGrows _ _ _ _) _ _)

theorem State.writeFx_logGrows (s : State) (sp a : Nat) (bs : List Byte) (port : Nat) : LogGrows s (s.writeFx sp a bs port) :=
  ((s.correct_logGrows sp _).trans (State.setMem_spaces _ sp _).logGrows).trans (LogGrows.foldl (fun t _ => t.eccUnc_logGrows _ _ _ _) _ _)

theorem State.tankPut_logGrows (s : State) (a : Nat) (bs : List Byte) (port : Nat) : LogGrows s (s.tankPut a bs port) := s.writeFx_logGrows _ _ _ _

theorem safeSync_logGrows (s : State) : LogGrows s (safeSync s) := by
  unfold safeSync
  refine logGrows_ite (LogGrows.refl s) (logGrows_ite ?_ (logGrows_ite (State.onAct_same _ _).logGrows (LogGrows.refl s)))
  exact (outputsOff_same s).logGrows.trans (State.raise_logGrows _ _ _ _ _)

theorem dropFrames_logGrows (s : State) : LogGrows s (dropFrames s) :=
  LogGrows.foldl (fun t n => ((canDiscard_spec n t).elim fun _ h => h.2.2.2.2.2.logGrows).trans (State.raiseIf_logGrows _ _ _ _ _ _)) _ _

theorem authSync_logGrows (was : Bool) (s : State) : LogGrows s (authSync was s) := by
  unfold authSync
  have h : LogGrows s (authWord s) := logGrows_ite (s.tankPut_logGrows _ _ _) (LogGrows.refl s)
  exact logGrows_ite (LogGrows.refl s) ((h.trans (logGrows_ite (dropFrames_logGrows _) (LogGrows.refl _))).trans (safeSync_logGrows _))

/-! ## Registers of a range -/

/-- The registers from one address up to another hold the same. -/
def RegsFrom (lo hi : Nat) (s t : State) : Prop := ∀ a, lo ≤ a → a < hi → t.reg a = s.reg a

section
variable {lo hi : Nat} {s t u : State}

theorem RegsFrom.refl (lo hi : Nat) (s : State) : RegsFrom lo hi s s := fun _ _ _ => rfl

theorem RegsFrom.trans (h : RegsFrom lo hi s t) (k : RegsFrom lo hi t u) : RegsFrom lo hi s u := fun a h1 h2 => (k a h1 h2).trans (h a h1 h2)

theorem RegsBut.from {l : List Nat} (h : RegsBut l s t) (hl : ∀ a ∈ l, a < lo ∨ hi ≤ a) : RegsFrom lo hi s t :=
  fun a h1 h2 => h a fun hm => (hl a hm).elim (fun h => absurd h1 (by omega)) (fun h => absurd h2 (by omega))

theorem SameBut.regsFrom {m : List Piece} (h : SameBut m s t) (hm : .regs ∉ m := by decide) : RegsFrom lo hi s t := fun a _ _ => h.reg hm a

theorem regsFrom_ite {c : Prop} [Decidable c] (ht : RegsFrom lo hi s t) (hu : RegsFrom lo hi s u) : RegsFrom lo hi s (if c then t else u) := by
  split
  · exact ht
  · exact hu

theorem RegsFrom.foldl {α : Type} {f : State → α → State} (h : ∀ t a, RegsFrom lo hi t (f t a)) (l : List α) (s : State) : RegsFrom lo hi s (l.foldl f s) := by
  induction l generalizing s with
  | nil => exact RegsFrom.refl _ _ s
  | cons a r ih => exact (h s a).trans (ih _)

end

/-! ## The pair's state -/

/-- The pair's state is the same but for the number of records sent to the peer. -/
def PairSent (s t : State) : Prop := ∃ n, t.pair = { s.pair with sent := n }

theorem PairSent.refl (s : State) : PairSent s s := ⟨s.pair.sent, rfl⟩

theorem PairSent.trans {s t u : State} (h : PairSent s t) (k : PairSent t u) : PairSent s u := by
  obtain ⟨n, hn⟩ := h
  obtain ⟨m, hm⟩ := k
  exact ⟨m, by rw [hm, hn]⟩

theorem SameBut.pairSent {l : List Piece} {s t : State} (h : SameBut l s t) (hl : .pair ∉ l := by decide) : PairSent s t := ⟨s.pair.sent, h .pair hl⟩

theorem pairSent_ite {c : Prop} [Decidable c] {s t u : State} (ht : PairSent s t) (hu : PairSent s u) : PairSent s (if c then t else u) := by
  split
  · exact ht
  · exact hu

theorem PairSent.foldl {α : Type} {f : State → α → State} (h : ∀ t a, PairSent t (f t a)) (l : List α) (s : State) : PairSent s (l.foldl f s) := by
  induction l generalizing s with
  | nil => exact PairSent.refl s
  | cons a r ih => exact (h s a).trans (ih _)

theorem State.mirrorSend_pairSent (s : State) (b : MirrorBody) : PairSent s (s.mirrorSend b) := by
  refine pairSent_ite (PairSent.trans (t := { s with pair := { s.pair with sent := s.pair.sent + 1 } }) ⟨s.pair.sent + 1, rfl⟩ ?_) (PairSent.refl s)
  exact (State.toPeer_same _ _).pairSent

/-! ## The gate -/

/-- The registers that the gate writes lie below the links' registers or above them. -/
abbrev HlkRegs (s t : State) : Prop := RegsFrom 0x00A00000 0x00C00000 s t

theorem eccRegs_from {s t : State} (h : RegsBut eccRegs s t) : HlkRegs s t := h.from (by decide)

theorem writeOut_regsBut (st : Nat) (l : List OutRec) (s : State) : RegsBut eccRegs s (writeOut st l s) := by
  induction l generalizing s with
  | nil => exact (s.setStrm_same _ _).regsBut _
  | cons r rest ih =>
    unfold writeOut
    exact regsBut_ite ((s.setStrm_same _ _).regsBut _) (((s.tankPut_regsBut _ _ _).trans ((State.streamVec_same _ _).regsBut _)).trans (ih _))

theorem writeOut_pairSent (st : Nat) (l : List OutRec) (s : State) : PairSent s (writeOut st l s) := by
  induction l generalizing s with
  | nil => exact (s.setStrm_same _ _).pairSent
  | cons r rest ih =>
    unfold writeOut
    exact pairSent_ite (s.setStrm_same _ _).pairSent (((s.tankPut_same _ _ _).pairSent.trans (State.streamVec_same _ _).pairSent).trans (ih _))

/-- The registers that the gate of a stream writes. -/
abbrev gateRegs (st : Nat) : List Nat := Reg.SEQ_STRM_GAPS st :: Reg.SEQ_STRM_RELS st :: eccRegs

theorem flushSeqs_kept (st : Nat) (l : List SeqSt) (s : State) : PairSent s (flushSeqs st l s) ∧ RegsBut (gateRegs st) s (flushSeqs st l s) := by
  induction l generalizing s with
  | nil => exact ⟨(s.setStrm_same _ _).pairSent, (s.setStrm_same _ _).regsBut _⟩
  | cons r rest ih =>
    unfold flushSeqs
    split
    · exact ⟨(s.setStrm_same _ _).pairSent, (s.setStrm_same _ _).regsBut _⟩
    · extract_lets entry s0 s1 o x s2
      have h0 : PairSent s s0 ∧ RegsBut (gateRegs st) s s0 := ⟨pairSent_ite (s.readFx_same _ _ _ _ _).pairSent (PairSent.refl s),
        regsBut_ite ((s.readFx_regsBut _ _ _ _ _).mono fun a ha => by simp_all) (RegsBut.refl _ s)⟩
      have h2 : PairSent s s2 ∧ RegsBut (gateRegs st) s s2 := ⟨(h0.1.trans (s0.mirrorSend_pairSent _)).trans (s1.setStrm_same _ _).pairSent,
        (h0.2.trans ((s0.mirrorSend_same _).regsBut _)).trans ((s1.setStrm_same _ _).regsBut _)⟩
      exact ⟨h2.1.trans (PairSent.trans (pairSent_ite (s2.incReg_same _ _).pairSent (s2.incWrap_same _ _).pairSent) (ih _).1),
        h2.2.trans (RegsBut.trans (regsBut_ite ((s2.incReg_regsBut _ _).mono (by simp)) ((s2.incWrap_regsBut _ _).mono (by simp))) (ih _).2)⟩

theorem State.flush_pairSent (s : State) (st : Nat) : PairSent s (s.flush st) := (flushSeqs_kept _ _ s).1.trans (writeOut_pairSent _ _ _)

theorem State.flush_regsBut (s : State) (st : Nat) : RegsBut (gateRegs st) s (s.flush st) :=
  (flushSeqs_kept _ _ s).2.trans ((writeOut_regsBut _ _ _).mono fun a ha => by simp_all)

theorem unbind_pairSent (st : Nat) (s : State) : PairSent s (unbind st s) := by
  unfold unbind
  exact ((((s.setReg_same _ _).pairSent.trans (State.setStrm_same _ _ _).pairSent).trans (State.flush_pairSent _ _)).trans (State.raise_same _ _ _ _ _).pairSent).trans
    (State.mirrorSend_pairSent _ _)

/-- What the end of a stream's binding writes beside its own configuration. -/
theorem unbind_regsBut (st : Nat) (s : State) :
    RegsBut (gateRegs st) (s.setReg (Reg.SEQ_STRM_CFG st) (s.reg (Reg.SEQ_STRM_CFG st) &&& 0xFFFFFFFE)) (unbind st s) := by
  unfold unbind
  exact ((((State.setStrm_same _ _ _).regsBut _).trans (State.flush_regsBut _ _)).trans (State.raise_regsBut _ _ _ _ _ _)).trans ((State.mirrorSend_same _ _).regsBut _)

theorem unbind_same (st : Nat) (s : State) : SameBut [.regs, .ev, .hostMem, .tank, .cbuf, .dram, .strms, .link, .pair] s (unbind st s) := by
  unfold unbind
  exact ((((((s.setReg_same _ _).mono (by decide)).then (State.setStrm_same _ _ _)).then (State.flush_same _ _)).then (State.raise_same _ _ _ _ _))).then (State.mirrorSend_same _ _)

/-- A stream's configuration is none of the registers that a gate writes. -/
theorem strmCfg_not_gate (q st : Nat) (hq : q < 64) : Reg.SEQ_STRM_CFG q ∉ gateRegs st := by
  simp only [List.mem_cons, List.not_mem_nil, or_false, Reg.SEQ_STRM_CFG, Reg.SEQ_STRM_GAPS, Reg.SEQ_STRM_RELS, baseStrm, Reg.TNK_ECC_CNT, Reg.TST_HEALTH, Reg.TNK_ERR, Reg.TNK_UNC_ADDR,
    baseTnk, baseTst]
  omega

theorem gateRegs_hlk {s t : State} {st : Nat} (h : RegsBut (gateRegs st) s t) : HlkRegs s t := by
  refine h.from fun a ha => ?_
  simp only [List.mem_cons, List.not_mem_nil, or_false] at ha
  obtain rfl | rfl | ha := ha
  · exact .inr (by unfold Reg.SEQ_STRM_GAPS baseStrm; omega)
  · exact .inr (by unfold Reg.SEQ_STRM_RELS baseStrm; omega)
  · exact (show ∀ a ∈ eccRegs, a < 0x00A00000 ∨ 0x00C00000 ≤ a by decide) a (by simpa using ha)

end Sys2Proof.Machine
end

section
/-!
PROOFS. The pair's roles: the interlock, the states of Table HRD-6 and the heartbeats (R329 to R332).
-/
set_option Elab.async false

namespace Sys2Proof.Machine

/-! ## The interlock -/

theorem State.onPair_same (s : State) (f : PairSt → PairSt) : SameBut [.pair] s (s.onPair f) := s.withPair_same _

theorem State.pair_onPair (s : State) (f : PairSt → PairSt) : (s.onPair f).pair = f s.pair := rfl

theorem State.reg_onPair (s : State) (f : PairSt → PairSt) (a : Nat) : (s.onPair f).reg a = s.reg a := rfl

theorem authSync_pair (was : Bool) (s : State) : (authSync was s).pair = s.pair := authSync_same was s .pair (by decide)

theorem dropPrim_pair (s : State) : (dropPrim s).pair = { s.pair with prim := false, window := false, claim := false } := authSync_pair _ _

theorem toFenced_pair (s : State) : ∃ chk, (toFenced s).pair = { s.pair with prim := false, window := false, claim := false, st := 5, peerOk := false, synced := false, resync := none, taking := false, chk := chk } := by
  unfold toFenced
  rw [State.pair_onPair, dropPrim_pair]
  exact ⟨_, rfl⟩

theorem toJoining_pair (s : State) : (toJoining s).pair = { s.pair with prim := false, window := false, claim := false, st := 1, peerOk := false, synced := false, resync := none, taking := false, missed := 0, kickMiss := 0, heard := false } := by
  unfold toJoining
  rw [State.pair_onPair, dropPrim_pair]

theorem dropPrim_logGrows (s : State) : LogGrows s (dropPrim s) := (State.onPair_same _ _).logGrows.trans (authSync_logGrows _ _)

theorem toFenced_logGrows (s : State) : LogGrows s (toFenced s) := (dropPrim_logGrows s).trans (State.onPair_same _ _).logGrows

theorem dropPrim_regsBut (s : State) : RegsBut authRegs s (dropPrim s) := ((State.onPair_same _ _).regsBut _).trans (authSync_regsBut _ _)

theorem toJoining_regsBut (s : State) : RegsBut authRegs s (toJoining s) := (dropPrim_regsBut s).trans ((State.onPair_same _ _).regsBut _)

/-- Event 0x0508 after the log has grown. -/
theorem event508_spec {s t : State} (h : LogGrows s t) : (event508 t).pair = t.pair ∧ RaisedAmong 0x0508 s (event508 t) :=
  ⟨State.raise_same _ _ _ _ _ .pair (by decide), h.raised (t.raise_raised _ _ _ _)⟩

/-- FENCED with event 0x0508. -/
theorem fenced_spec (s : State) : (event508 (toFenced s)).pair.st = 5 ∧ (event508 (toFenced s)).pair.prim = false ∧ RaisedAmong 0x0508 s (event508 (toFenced s)) := by
  obtain ⟨h1, h2⟩ := event508_spec (toFenced_logGrows s)
  obtain ⟨chk, hp⟩ := toFenced_pair s
  rw [h1, hp]
  exact ⟨rfl, rfl, h2⟩

theorem interlockLost_spec (s : State) : (interlockLost s).pair.prim = false ∧ (interlockLost s).pair.st = (if s.pairEn then 5 else s.pair.st) ∧ RaisedAmong 0x0508 s (interlockLost s) := by
  unfold interlockLost
  by_cases he : s.pairEn = true
  · obtain ⟨h1, h2, h3⟩ := fenced_spec s
    rw [if_pos he, if_pos he]
    exact ⟨h2, h1, h3⟩
  · obtain ⟨h1, h2⟩ := event508_spec (dropPrim_logGrows s)
    rw [if_neg he, if_neg he, h1, dropPrim_pair]
    exact ⟨rfl, rfl, h2⟩

/-- TAKEOVER of a synchronised standby. -/
theorem standbyLost_synced {s : State} (h : s.pair.synced = true) :
    (standbyLost s).pair = { s.pair with st := 4, claim := true, peerOk := false, since := s.cnt.hlk, closedNo := 0 } ∧ Raised 0x0505 s (standbyLost s) := by
  unfold standbyLost
  rw [if_pos h]
  exact ⟨State.raise_pair _ _ _ _ _, raised_of_ev (s.onPair_same _ .ev (by decide)) _ _ _ _⟩

theorem standbyLost_alone {s : State} (h : s.pair.synced = false) : standbyLost s = event508 (toFenced s) := by
  unfold standbyLost
  rw [h]
  rfl

section
variable {s : State} {who : Who}

/-- PEER_PRIMARY_CHANGE while the links run. -/
theorem exec_peerPrimaryChange (hu : s.up 7 = true) (on : Bool) : exec (.peerPrimaryChange on) s = .next (
    if on then
      if s.pair.prim && (!s.pair.window || decide (s.peerId ≤ s.hlkId)) then interlockLost (s.onPair (fun p => { p with peerPrim := on })) else s.onPair (fun p => { p with peerPrim := on })
    else if s.pair.peerPrim && s.pair.st == 3 then standbyLost (s.onPair (fun p => { p with peerPrim := on })) else s.onPair (fun p => { p with peerPrim := on })) := by
  show execPeerPrimaryChange on s = _
  unfold execPeerPrimaryChange
  rw [hu]
  rfl

/-- The level of the peer's pin stays what it has become. -/
theorem interlockLost_peerPrim (t : State) : (interlockLost t).pair.peerPrim = t.pair.peerPrim := by
  unfold interlockLost
  rw [(event508_spec (LogGrows.refl _)).1]
  split
  · obtain ⟨chk, h⟩ := toFenced_pair t
    rw [h]
  · rw [dropPrim_pair]

theorem standbyLost_peerPrim (t : State) : (standbyLost t).pair.peerPrim = t.pair.peerPrim := by
  rcases hs : t.pair.synced with _ | _
  · obtain ⟨chk, h⟩ := toFenced_pair t
    rw [standbyLost_alone hs, (event508_spec (LogGrows.refl _)).1, h]
  · rw [(standbyLost_synced hs).1]

theorem peerPrimaryChange_spec (hu : s.up 7 = true) (on : Bool) : ∃ t, exec (.peerPrimaryChange on) s = .next t ∧ t.pair.peerPrim = on
      ∧ (on = true → s.pair.prim = false → t = s.onPair (fun p => { p with peerPrim := true }))
      ∧ (on = true → s.pair.prim = true → (s.pair.window = false ∨ s.peerId ≤ s.hlkId) → t.pair.prim = false ∧ t.pair.st = (if s.pairEn then 5 else s.pair.st) ∧ RaisedAmong 0x0508 s t)
      ∧ (on = false → s.pair.peerPrim = true → s.pair.st = 3 → (s.pair.synced = true → t.pair.st = 4 ∧ t.pair.claim = true ∧ Raised 0x0505 s t) ∧ (s.pair.synced = false → t.pair.st = 5 ∧ RaisedAmong 0x0508 s t)) := by
  refine ⟨_, exec_peerPrimaryChange hu on, ?_, ?_, ?_, ?_⟩
  · cases on
    · rw [if_neg (by decide)]
      split
      · rw [standbyLost_peerPrim, State.pair_onPair]
      · rw [State.pair_onPair]
    · rw [if_pos rfl]
      split
      · rw [interlockLost_peerPrim, State.pair_onPair]
      · rw [State.pair_onPair]
  · rintro rfl hp
    rw [if_pos rfl, hp, Bool.false_and, if_neg (by decide)]
  · rintro rfl hp hw
    have hg : (s.pair.prim && (!s.pair.window || decide (s.peerId ≤ s.hlkId))) = true := by
      rw [hp, Bool.true_and]
      obtain h | h := hw <;> simp [h]
    rw [if_pos rfl, if_pos hg]
    exact interlockLost_spec (s.onPair (fun p => { p with peerPrim := true }))
  · rintro rfl hp hst
    have hg : (s.pair.peerPrim && s.pair.st == 3) = true := by simp [hp, hst]
    rw [if_neg (by decide), if_pos hg]
    refine ⟨fun hs => ?_, fun hs => ?_⟩
    · obtain ⟨h1, h2⟩ := standbyLost_synced (s := s.onPair (fun p => { p with peerPrim := false })) hs
      rw [h1]
      exact ⟨rfl, rfl, h2⟩
    · rw [standbyLost_alone (s := s.onPair (fun p => { p with peerPrim := false })) hs]
      obtain ⟨h1, -, h3⟩ := fenced_spec (s.onPair (fun p => { p with peerPrim := false }))
      exact ⟨h1, h3⟩

end

/-! ## A standby of a MIRROR pair stands down -/

theorem trapWaiters_same (st : Nat) (s : State) : SameBut [.ctxs, .ev, .hostMem] s (trapWaiters st s) := by
  refine SameBut.foldl (fun t i => ?_) _ _
  split
  · exact sameBut_ite (t.trap_frame i 9).2.2.2 (SameBut.refl _ _)
  · exact sameBut_ite (t.trap_frame i 9).2.2.2 (SameBut.refl _ _)
  · exact SameBut.refl _ _

/-- What the standby does to one stream: its binding ends. -/
def standUnbind (t : State) (st : Nat) : State := if t.bound st then trapWaiters st (unbind st t) else t

theorem unbind_bound (st : Nat) (s : State) (h : st < 64) : (unbind st s).bound st = false := by
  rw [State.bound, (unbind_regsBut st s).rbit (strmCfg_not_gate st st h), State.rbit_setReg_self, bit_eq_getLsbD, BitVec.getLsbD_and]
  exact Bool.and_false _

theorem unbind_bound_ne {st q : Nat} (s : State) (hq : q < 64) (h : q ≠ st) : (unbind st s).bound q = s.bound q := by
  rw [State.bound, (unbind_regsBut st s).rbit (strmCfg_not_gate q st hq), State.rbit_setReg, if_neg (by simpa [Reg.SEQ_STRM_CFG, baseStrm] using h)]
  rfl

theorem standUnbind_bound (t : State) {st q : Nat} (hq : q < 64) (h : q = st ∨ t.bound q = false) : (standUnbind t st).bound q = false := by
  unfold standUnbind
  by_cases hb : t.bound st = true
  · rw [if_pos hb, State.bound, ((trapWaiters_same st _).regsBut []).rbit (by simp)]
    by_cases he : q = st
    · rw [he]
      exact unbind_bound st t (he ▸ hq)
    · exact (unbind_bound_ne t hq he).trans (h.resolve_left he)
  · rw [if_neg hb]
    obtain rfl | h := h
    · exact Bool.eq_false_iff.mpr hb
    · exact h

theorem foldl_standUnbind_bound (l : List Nat) (t : State) {q : Nat} (hq : q < 64) (h : q ∈ l ∨ t.bound q = false) : (l.foldl standUnbind t).bound q = false := by
  induction l generalizing t with
  | nil => simpa using h
  | cons st r ih =>
    refine ih _ ?_
    obtain h | h := h
    · obtain rfl | h := List.mem_cons.mp h
      · exact .inr (standUnbind_bound t hq (.inl rfl))
      · exact .inl h
    · exact .inr (standUnbind_bound t hq (.inr h))

/-- The parts that standing down reaches. -/
abbrev standParts : List Piece := [.regs, .ev, .hostMem, .tank, .cbuf, .dram, .strms, .link, .pair, .ctxs]

theorem standUnbind_kept (t : State) (st : Nat) : SameBut standParts t (standUnbind t st) ∧ PairSent t (standUnbind t st) ∧ HlkRegs t (standUnbind t st) := by
  have hw := trapWaiters_same st (unbind st t)
  have hset : HlkRegs t (t.setReg (Reg.SEQ_STRM_CFG st) (t.reg (Reg.SEQ_STRM_CFG st) &&& 0xFFFFFFFE)) :=
    (t.setReg_regsBut _ _).from (by simp only [List.mem_singleton, Reg.SEQ_STRM_CFG, baseStrm]; omega)
  unfold standUnbind
  exact ⟨sameBut_ite (((unbind_same st t).mono (by decide)).then hw) (SameBut.refl _ _), pairSent_ite ((unbind_pairSent st t).trans hw.pairSent) (PairSent.refl _),
    regsFrom_ite ((hset.trans (gateRegs_hlk (unbind_regsBut st t))).trans hw.regsFrom) (RegsFrom.refl _ _ _)⟩

/-- A context that runs no program, or will not once it has stopped. -/
def Ctx.stands (c : Ctx) : Prop := c.st = .idle ∨ c.st = .saving ∨ c.stop = true

theorem ctxStop_eq {i : Nat} {s : State} (h : (s.ctx i).active = true ∨ (s.ctx i).st = .halt ∨ (s.ctx i).st = .trap) :
    ctxStop i s = s.setCtx i { s.ctx i with hold := (s.ctx i).ended .stop, stop := true } := by
  have hg : ((s.ctx i).active || (s.ctx i).st == .halt || (s.ctx i).st == .trap) = true := by
    obtain h | h | h := h <;> simp [h]
  exact if_pos hg

/-- Standing down changes its own context alone, and that context stands. -/
theorem standDown_spec (i : Nat) (s : State) : ((standDown i s).ctx i).stands ∧ (∀ j, j ≠ i → (standDown i s).ctx j = s.ctx j) ∧ SameBut [.ctxs] s (standDown i s) := by
  have hstop : ∀ t : State, ((t.ctx i).active = true ∨ (t.ctx i).st = .halt ∨ (t.ctx i).st = .trap) →
      ((ctxStop i t).ctx i).stands ∧ (∀ j, j ≠ i → (ctxStop i t).ctx j = t.ctx j) ∧ SameBut [.ctxs] t (ctxStop i t) := by
    intro t ht
    rw [ctxStop_eq ht]
    refine ⟨.inr (.inr ?_), fun j hj => State.ctx_setCtx_ne _ _ hj, State.setCtx_same _ _ _⟩
    rw [State.ctx_setCtx_self]
  unfold standDown
  rcases hst : (s.ctx i).st
  case idle => exact ⟨.inl hst, fun _ _ => rfl, SameBut.refl _ _⟩
  case saving => exact ⟨.inr (.inl hst), fun _ _ => rfl, SameBut.refl _ _⟩
  case run => exact hstop s (.inl (by simp [Ctx.active, hst]))
  case stall => exact hstop s (.inl (by simp [Ctx.active, hst]))
  case wait => exact hstop s (.inl (by simp [Ctx.active, hst]))
  case halt => exact hstop s (.inr (.inl hst))
  case trap => exact hstop s (.inr (.inr hst))
  case restoring =>
    obtain ⟨h1, h2, h3⟩ := hstop (s.onCtx i (fun c => { c with st := .run })) (.inl (by rw [State.ctx_onCtx_self]; rfl))
    exact ⟨h1, fun j hj => (h2 j hj).trans (State.ctx_onCtx_ne _ _ hj), (s.setCtx_same _ _).trans h3⟩

theorem foldl_standDown (l : List Nat) (s : State) {i : Nat} (h : i ∈ l ∨ (s.ctx i).stands) : ((l.foldl (fun t i => standDown i t) s).ctx i).stands := by
  induction l generalizing s with
  | nil => simpa using h
  | cons j r ih =>
    refine ih _ ?_
    obtain ⟨h1, h2, -⟩ := standDown_spec j s
    by_cases hij : i = j
    · exact .inr (hij ▸ h1)
    · obtain h | h := h
      · exact .inl ((List.mem_cons.mp h).resolve_left hij)
      · exact .inr (by rw [h2 i hij]; exact h)

/-- A context that is listed nowhere is as after reset. -/
theorem State.ctx_of_not_mem {s : State} {i : Nat} (h : i ∉ s.ctxs.map (fun e => e.1)) : s.ctx i = Ctx.idle := by
  have hf : ∀ t : Tab Ctx, i ∉ t.map (fun e => e.1) → Tab.find? t i = none := by
    intro t
    induction t with
    | nil => exact fun _ => rfl
    | cons e r ih =>
      intro hi
      rw [List.map_cons, List.mem_cons, not_or] at hi
      rw [Tab.find?, if_neg hi.1]
      exact ih hi.2
  rw [State.ctx, Tab.getD, hf _ h]
  rfl

theorem standDownAll_eq (s : State) : standDownAll s
    = ((((List.range 64).foldl standUnbind s).ctxs.map (fun e => e.1)).foldl (fun t i => standDown i t) ((List.range 64).foldl standUnbind s)) := rfl

theorem standDownAll_spec (s : State) : (∀ st : StreamId, (standDownAll s).bound st.val = false) ∧ (∀ i, ((standDownAll s).ctx i).stands)
    ∧ SameBut standParts s (standDownAll s) ∧ PairSent s (standDownAll s) ∧ HlkRegs s (standDownAll s) := by
  rw [standDownAll_eq]
  have h1 : SameBut standParts s ((List.range 64).foldl standUnbind s) := SameBut.foldl (fun t st => (standUnbind_kept t st).1) _ _
  have h2 : PairSent s ((List.range 64).foldl standUnbind s) := PairSent.foldl (fun t st => (standUnbind_kept t st).2.1) _ _
  have h3 : HlkRegs s ((List.range 64).foldl standUnbind s) := RegsFrom.foldl (fun t st => (standUnbind_kept t st).2.2) _ _
  have hb : ∀ q < 64, ((List.range 64).foldl standUnbind s).bound q = false := fun q hq => foldl_standUnbind_bound _ s hq (.inl (List.mem_range.mpr hq))
  generalize (List.range 64).foldl standUnbind s = u at h1 h2 h3 hb
  have hu : SameBut [.ctxs] u ((u.ctxs.map (fun e => e.1)).foldl (fun t i => standDown i t) u) := SameBut.foldl (fun t i => (standDown_spec i t).2.2) _ _
  refine ⟨fun st => ?_, fun i => ?_, h1.then hu, h2.trans hu.pairSent, h3.trans hu.regsFrom⟩
  · rw [State.bound, (hu.regsBut []).rbit (by simp)]
    exact hb st.val st.isLt
  · by_cases hi : i ∈ u.ctxs.map (fun e => e.1)
    · exact foldl_standDown _ u (.inl hi)
    · exact foldl_standDown _ u (.inr (.inl (by rw [State.ctx_of_not_mem hi]; rfl)))

theorem raiseStream_raised (s : State) (code sev src st seq pay : Nat) : Raised code s (s.raiseStream code sev src st seq pay) := by
  obtain ⟨l, hlog, hl⟩ := s.raiseStream_log code sev src st seq pay
  exact ⟨_, l, hlog, rfl, hl⟩

theorem State.raiseStream_same (s : State) (code sev src st seq pay : Nat) : SameBut [.ev, .hostMem] s (s.raiseStream code sev src st seq pay) := s.raiseRec_same _

/-! ## Resynchronisation -/

theorem resyncStream_pairSent (st : Nat) (s : State) : PairSent s (resyncStream st s) := by
  unfold resyncStream
  refine pairSent_ite (PairSent.refl s) ?_
  refine (((State.mirrorSend_pairSent _ _).trans (PairSent.foldl (fun t _ => t.mirrorSend_pairSent _) _ _)).trans (PairSent.foldl (fun t n => ?_) _ _)).trans (State.mirrorSend_pairSent _ _)
  exact (t.readFx_same _ _ _ _ _).pairSent.trans (State.mirrorSend_pairSent _ _)

theorem resyncCtx_pairSent (i : Nat) (s : State) : PairSent s (resyncCtx i s) := by
  unfold resyncCtx
  split
  · exact s.mirrorSend_pairSent _
  · exact pairSent_ite (s.mirrorSend_pairSent _) (PairSent.refl s)

/-- A resynchronisation keeps the pair's state and its claim. -/
theorem resyncPeer_pair (s : State) : ∃ n ok r, (resyncPeer s).pair = { s.pair with sent := n, peerOk := ok, resync := r } := by
  unfold resyncPeer
  split
  · exact ⟨_, _, _, rfl⟩
  · extract_lets s1 s2 s3 s4
    have h4 : PairSent (s.onPair (fun p => { p with resync := some 0 })) s4 :=
      (((State.mirrorSend_pairSent _ _).trans (PairSent.foldl (fun t st => resyncStream_pairSent st t) _ _)).trans (PairSent.foldl (fun t i => resyncCtx_pairSent i t) _ _)).trans
        (State.mirrorSend_pairSent _ _)
    obtain ⟨n, hn⟩ := h4
    exact ⟨n, s.pair.peerOk, some n, by rw [State.pair_onPair, hn, State.pair_onPair]⟩

/-- STANDBY: the state is entered, and the standby of a MIRROR pair stands down. -/
theorem toStandby_spec (s : State) : (∃ n, (toStandby s).pair = { s.pair with st := 3, synced := s.lockMode, peerOk := s.lockMode, taking := false, sent := n })
    ∧ (s.lockMode = false → (∀ st : StreamId, (toStandby s).bound st.val = false) ∧ ∀ i, ((toStandby s).ctx i).stands)
    ∧ SameBut standParts s (toStandby s) ∧ HlkRegs s (toStandby s) := by
  unfold toStandby
  extract_lets s1
  have h1 : SameBut [.pair] s s1 := s.onPair_same _
  obtain ⟨hb, hc, hsame, ⟨n, hn⟩, hregs⟩ := standDownAll_spec s1
  by_cases hl : s.lockMode = true
  · rw [if_pos hl]
    exact ⟨⟨s.pair.sent, rfl⟩, fun h => absurd (hl.symm.trans h) (by decide), h1.mono (by decide), h1.regsFrom⟩
  · rw [if_neg hl]
    exact ⟨⟨n, hn⟩, fun _ => ⟨hb, hc⟩, (h1.mono (by decide)).trans hsame, h1.regsFrom.trans hregs⟩

/-- A message to the peer goes out last on its port, and changes the links alone. -/
theorem toPeer_out {s : State} (h : s.portUp 7 = true) (m : PairMsg) : (s.toPeer m).link.out.head? = some (7, .pair m) := by
  rw [State.toPeer, State.portSend, if_pos h]
  rfl

/-- Whether a port is up rests on its own block and its state register. -/
theorem State.portUp_of_kept {s t : State} (hrst : t.rst = s.rst) (hr : HlkRegs s t) {p : Nat} (hp : p < 8) : t.portUp p = s.portUp p := by
  have hreg : t.reg (Reg.HLK_PSTAT p) = s.reg (Reg.HLK_PSTAT p) := hr _ (by unfold Reg.HLK_PSTAT baseHlp; omega) (by unfold Reg.HLK_PSTAT baseHlp; omega)
  rw [State.portUp, State.portUp, State.portSt, State.portSt, State.fld, State.fld, hreg, State.up, State.up, State.domSt, State.domSt, hrst]

/-! ## Heartbeats -/

theorem kickPart_pair (s : State) : (s.pair.kicked = true → (kickPart s).pair = { s.pair with kicked := false, kickMiss := 0 } ∧ (kickPart s).ev = s.ev)
    ∧ (s.pair.kicked = false → 3 ≤ s.pair.kickMiss → (kickPart s).pair.prim = false ∧ ((s.pair.st = 2 ∨ s.pair.st = 3) → (kickPart s).pair.st = 5)
      ∧ (¬(s.pair.st = 2 ∨ s.pair.st = 3) → (kickPart s).pair.st = s.pair.st))
    ∧ (kickPart s).pair.heard = s.pair.heard := by
  have hpeer : ∀ (t : State) m, (t.toPeer m).pair = t.pair := fun t m => t.toPeer_same m .pair (by decide)
  have h508 : ∀ t : State, (event508 t).pair = t.pair := fun t => (event508_spec (LogGrows.refl t)).1
  obtain ⟨chk, hf⟩ := toFenced_pair (s.onPair (fun p => { p with kickMiss := p.kickMiss + 1 }))
  have hd := dropPrim_pair (s.onPair (fun p => { p with kickMiss := p.kickMiss + 1 }))
  unfold kickPart
  rcases hk : s.pair.kicked with _ | _
  · rw [if_neg (by decide)]
    dsimp only
    refine ⟨fun h => absurd h (by decide), fun _ hm => ?_, ?_⟩
    · rw [if_neg (by simp only [State.pair_onPair]; omega)]
      by_cases h2 : s.pair.st = 2
      · rw [if_pos h2, hf]
        exact ⟨rfl, fun _ => rfl, fun h => absurd (.inl h2) h⟩
      · by_cases h3 : s.pair.st = 3
        · rw [if_neg h2, if_pos h3, h508, hf]
          exact ⟨rfl, fun _ => rfl, fun h => absurd (.inr h3) h⟩
        · rw [if_neg h2, if_neg h3, hd]
          exact ⟨rfl, fun h => absurd h (by simp [h2, h3]), fun _ => rfl⟩
    · split
      · rfl
      · split
        · rw [hf]; rfl
        · split
          · rw [h508, hf]; rfl
          · rw [hd]; rfl
  · rw [if_pos rfl, hpeer]
    have hsame := ((s.onPair_same (fun p => { p with kicked := false, kickMiss := 0 })).mono (m := [.pair, .link]) (by decide)).then
      (State.toPeer_same _ (.heartbeat s.pair.st (s.rbit Reg.HLK_PAIR_CFG 1) (s.fld Reg.HLK_ID 9 0) s.pair.sent))
    exact ⟨fun _ => ⟨rfl, hsame .ev (by decide)⟩, fun h => absurd h (by decide), rfl⟩

/-- The peer's side of an interval keeps the kick and leaves no beat heard; a state that is neither PRIMARY nor STANDBY stays. -/
theorem missPart_pair (s : State) : (missPart s).pair.heard = false ∧ (missPart s).pair.kicked = s.pair.kicked ∧ (missPart s).pair.kickMiss = s.pair.kickMiss
    ∧ (s.pair.prim = false → (missPart s).pair.prim = false) ∧ (s.pair.st ≠ 2 → s.pair.st ≠ 3 → (missPart s).pair.st = s.pair.st)
    ∧ (s.pair.heard = false → s.pair.missed = 4 → s.pair.st = 2 → (missPart s).pair.st = 2 ∧ (missPart s).pair.peerOk = false ∧ (missPart s).pair.missed = 5 ∧ Raised 0x0505 s (missPart s)) := by
  have hlost : ∀ t : State, (standbyLost t).pair.heard = t.pair.heard ∧ (standbyLost t).pair.kicked = t.pair.kicked ∧ (standbyLost t).pair.kickMiss = t.pair.kickMiss
      ∧ (t.pair.prim = false → (standbyLost t).pair.prim = false) := by
    intro t
    rcases hs : t.pair.synced with _ | _
    · obtain ⟨chk, h⟩ := toFenced_pair t
      rw [standbyLost_alone hs, (event508_spec (LogGrows.refl _)).1, h]
      exact ⟨rfl, rfl, rfl, fun _ => rfl⟩
    · rw [(standbyLost_synced hs).1]
      exact ⟨rfl, rfl, rfl, id⟩
  unfold missPart
  rcases hh : s.pair.heard with _ | _
  · rw [if_neg (by decide)]
    extract_lets n s1
    have hs1 : s1.pair = { s.pair with missed := n } := rfl
    by_cases hn : n ≠ 5 ∨ s.pair.missed = 5
    · rw [if_pos hn, hs1]
      refine ⟨hh, rfl, rfl, id, fun _ _ => rfl, fun _ hm _ => ?_⟩
      rw [show n = 5 by simp only [n, hm]; rfl, hm] at hn
      exact absurd hn (by decide)
    · rw [if_neg hn]
      by_cases h2 : s.pair.st = 2
      · rw [if_pos h2, State.raise_pair, State.pair_onPair, hs1]
        rw [not_or, not_not] at hn
        exact ⟨hh, rfl, rfl, id, fun h => absurd h2 h, fun _ _ _ => ⟨h2, rfl, hn.1, raised_of_ev ((s1.onPair_same _ .ev (by decide)).trans (s.onPair_same _ .ev (by decide))) _ _ _ _⟩⟩
      · by_cases h3 : s.pair.st = 3
        · rw [if_neg h2, if_pos h3]
          obtain ⟨a, b, c, d⟩ := hlost s1
          exact ⟨a.trans hh, b, c, d, fun _ h => absurd h3 h, fun _ _ h => absurd h h2⟩
        · rw [if_neg h2, if_neg h3]
          exact ⟨hh, rfl, rfl, id, fun _ _ => rfl, fun _ _ h => absurd h h2⟩
  · rw [if_pos rfl]
    exact ⟨rfl, rfl, rfl, id, fun _ _ => rfl, fun h => absurd h (by decide)⟩

section
variable {s : State}

/-- What an interval of the heartbeat does (R330, R331). -/
theorem heartbeatTick_spec (hu : s.up 7 = true) (hen : s.pairEn = true) : ∃ t, exec .heartbeatTick s = .next t ∧ (s.pair.kicked = true → t.pair.kicked = false ∧ t.pair.kickMiss = 0)
    ∧ (s.pair.heard = true → t.pair.heard = false)
    ∧ (s.pair.kicked = false → 3 ≤ s.pair.kickMiss → t.pair.prim = false ∧ ((s.pair.st = 2 ∨ s.pair.st = 3) → t.pair.st = 5))
    ∧ (s.pair.kicked = true → s.pair.heard = false → s.pair.missed = 4 → s.pair.st = 2 → t.pair.st = 2 ∧ t.pair.peerOk = false ∧ t.pair.missed = 5 ∧ Raised 0x0505 s t) := by
  obtain ⟨hk, hnk, hheard⟩ := kickPart_pair s
  obtain ⟨m1, m2, m3, m4, m5, m6⟩ := missPart_pair (kickPart s)
  refine ⟨_, congrArg Host.Outcome.next (if_pos (by simp [hu, hen])), fun h => ?_, fun _ => m1, fun h hm => ?_, fun h hh hm hst => ?_⟩
  · obtain ⟨hp, -⟩ := hk h
    rw [m2, m3, hp]
    exact ⟨rfl, rfl⟩
  · obtain ⟨h1, h2, -⟩ := hnk h hm
    refine ⟨m4 h1, fun hst => ?_⟩
    rw [m5 (by rw [h2 hst]; decide) (by rw [h2 hst]; decide), h2 hst]
  · obtain ⟨hp, hev⟩ := hk h
    have := m6 (by rw [hp]; exact hh) (by rw [hp]; exact hm) (by rw [hp]; exact hst)
    rwa [Raised, hev] at this

theorem State.portTake_same (s : State) (p n : Nat) : SameBut [.link] s (s.portTake p n) := (State.setPort_same _ _ _).trans (State.emit_same _ _ _)

/-- A heartbeat on the pair's port. -/
theorem exec_heartbeat (hup : s.portUp 7 = true) (hen : s.pairEn = true) (h : PeerBeat) :
    exec (.heartbeat h) s = .next (beatState h ((s.portTake 7 1).onPair (fun p => { p with heard := true, missed := 0 }))) :=
  congrArg Host.Outcome.next ((if_pos hup).trans (if_pos hen))

/-- The link's and the pair's parts of a state that a message from the peer has reached. -/
theorem State.lockMode_of_regs {s t : State} (h : t.regs = s.regs) : t.lockMode = s.lockMode := by
  simp only [State.lockMode, State.rbit, State.reg, h]

theorem mirrorGap_pair (s : State) : (mirrorGap s).pair = { s.pair with synced := false, taking := false } := State.toPeer_same _ _ .pair (by decide)

/-- What a peer's heartbeat leaves of the beats counted. -/
theorem beatState_counts (h : PeerBeat) (s : State) : (beatState h s).pair.missed = s.pair.missed ∧ (beatState h s).pair.heard = s.pair.heard := by
  have hpeer : ∀ (t : State) m, (t.toPeer m).pair = t.pair := fun t m => t.toPeer_same m .pair (by decide)
  have hst : ∀ t : State, (toStandby t).pair.missed = t.pair.missed ∧ (toStandby t).pair.heard = t.pair.heard := fun t => by
    obtain ⟨⟨n, hn⟩, -⟩ := toStandby_spec t
    rw [hn]
    exact ⟨rfl, rfl⟩
  have hre : ∀ t : State, (resyncPeer t).pair.missed = t.pair.missed ∧ (resyncPeer t).pair.heard = t.pair.heard := fun t => by
    obtain ⟨n, ok, r, hn⟩ := resyncPeer_pair t
    rw [hn]
    exact ⟨rfl, rfl⟩
  unfold beatState
  extract_lets me
  split
  · split
    · rw [hpeer]
      exact hst s
    · split
      · split
        · exact hre _
        · split
          · exact hst s
          · exact ⟨rfl, rfl⟩
      · exact ⟨rfl, rfl⟩
  · split
    · split
      · exact hre s
      · exact ⟨rfl, rfl⟩
    · split
      · split
        · exact ⟨rfl, rfl⟩
        · split
          · split
            · rw [mirrorGap_pair]
              exact ⟨rfl, rfl⟩
            · exact ⟨rfl, rfl⟩
          · split
            · rw [hpeer]
              exact ⟨rfl, rfl⟩
            · exact ⟨rfl, rfl⟩
      · exact ⟨rfl, rfl⟩

/-- A standby that has no resynchronisation asks for one (R332). -/
theorem beatState_standby {h : PeerBeat} {s : State} (hup : s.portUp 7 = true) (hst : s.pair.st = 3) (hl : s.lockMode = false) (hs : s.pair.synced = false) (ht : s.pair.taking = false)
    (hv : h.state.val = 2) : (beatState h s).link.out.head? = some (7, .pair .resync) := by
  have he : beatState h s = s.toPeer .resync := by
    unfold beatState
    rw [if_neg (by omega), if_neg (by omega), if_pos hst, hl, if_neg (by decide), hs, if_neg (by decide), if_pos ⟨hv, by rw [ht]; rfl⟩]
  rw [he]
  exact toPeer_out hup _

/-- A joining device follows its peer's state (Table HRD-6). -/
theorem beatState_joining {h : PeerBeat} {s : State} (hup : s.portUp 7 = true) (hst : s.pair.st = 1) :
    (h.state.val = 2 → (beatState h s).pair.st = 3 ∧ (beatState h s).link.out.head? = some (7, .pair .resync)
      ∧ (s.lockMode = false → (∀ st : StreamId, (beatState h s).bound st.val = false) ∧ ∀ i, ((beatState h s).ctx i).stands))
    ∧ (h.state.val = 1 → (s.hlkId < h.id.toNat → (beatState h s).pair.st = 2 ∧ (beatState h s).pair.claim = true) ∧ (h.id.toNat < s.hlkId → (beatState h s).pair.st = 3)
      ∧ (h.id.toNat = s.hlkId → (beatState h s).pair.st = 1)) := by
  obtain ⟨⟨n, hn⟩, hstand, hsame, hregs⟩ := toStandby_spec s
  have hpeer := (toStandby s).toPeer_same .resync
  refine ⟨fun hv => ?_, fun hv => ⟨fun hlt => ?_, fun hlt => ?_, fun heq => ?_⟩⟩
  · have he : beatState h s = (toStandby s).toPeer .resync := by
      unfold beatState
      rw [if_pos hst, if_pos hv]
    rw [he]
    refine ⟨?_, toPeer_out ((State.portUp_of_kept (hsame .rst (by decide)) hregs (by decide)).trans hup) _, fun hl => ⟨fun st => ?_, fun i => ?_⟩⟩
    · rw [hpeer .pair (by decide), hn]
    · rw [State.bound, (hpeer.regsBut []).rbit (by simp)]
      exact (hstand hl).1 st
    · rw [hpeer.ctx]
      exact (hstand hl).2 i
  all_goals
    have hv2 : h.state.val ≠ 2 := by omega
    unfold beatState
    rw [if_pos hst, if_neg hv2, if_pos hv]
    change _ at *
  · obtain ⟨m, ok, r, hm⟩ := resyncPeer_pair (s.onPair (fun p => { p with st := 2, claim := true }))
    rw [if_pos (show s.fld Reg.HLK_ID 9 0 < h.id.toNat from hlt), hm]
    exact ⟨rfl, rfl⟩
  · have h' : h.id.toNat < s.fld Reg.HLK_ID 9 0 := hlt
    rw [if_neg (by omega), if_pos h', hn]
  · have h' : h.id.toNat = s.fld Reg.HLK_ID 9 0 := heq
    rw [if_neg (by omega), if_neg (by omega)]
    exact hst

/-- HLK_PAIR_CFG is stored where it is not refused. -/
theorem exec_pairCfgWrite {who : Who} {v : W32} (hr : reaches s who Reg.HLK_PAIR_CFG = true)
    (ho : (if bit (pairCfgNext s v) 0 && bit (pairCfgNext s v) 1 && !s.lockMode then lockRefused s else none) = none) :
    exec (.pairCfgWrite who v) s = .next (
      if s.pairEn && !bit (pairCfgNext s v) 0 then
        (dropPrim (s.setReg Reg.HLK_PAIR_CFG (pairCfgNext s v))).onPair (fun p => { p with st := 0, peerOk := false, synced := false, resync := none, taking := false, chk := [] })
      else if !s.pairEn && bit (pairCfgNext s v) 0 then toJoining (s.setReg Reg.HLK_PAIR_CFG (pairCfgNext s v)) else s.setReg Reg.HLK_PAIR_CFG (pairCfgNext s v)) := by
  refine (next_access hr).trans ?_
  dsimp only
  rw [ho]

theorem pairCfg_not_authReg : Reg.HLK_PAIR_CFG ∉ authRegs := by decide

/-- What a change of EN does. -/
theorem pairCfgWrite_spec {who : Who} {v : W32} (hr : reaches s who Reg.HLK_PAIR_CFG = true)
    (ho : (if bit (pairCfgNext s v) 0 && bit (pairCfgNext s v) 1 && !s.lockMode then lockRefused s else none) = none) :
    ∃ t, exec (.pairCfgWrite who v) s = .next t ∧ t.reg Reg.HLK_PAIR_CFG = pairCfgNext s v ∧ (s.pairEn = bit (pairCfgNext s v) 0 → t = s.setReg Reg.HLK_PAIR_CFG (pairCfgNext s v))
      ∧ (s.pairEn ≠ bit (pairCfgNext s v) 0 → t.pair.st = (if bit (pairCfgNext s v) 0 then 1 else 0) ∧ t.pair.prim = false) := by
  have he := exec_pairCfgWrite hr ho
  generalize pairCfgNext s v = n at he
  have hreg : (s.setReg Reg.HLK_PAIR_CFG n).reg Reg.HLK_PAIR_CFG = n := State.reg_setReg_self _ _ _
  rcases hen : s.pairEn with _ | _ <;> rcases hb : bit n 0 with _ | _ <;> rw [hen, hb] at he
  · exact ⟨_, he, hreg, fun _ => rfl, fun h => absurd rfl h⟩
  · refine ⟨_, he, ?_, fun h => absurd h (by decide), fun _ => ?_⟩
    · exact (toJoining_regsBut (s.setReg Reg.HLK_PAIR_CFG n) _ pairCfg_not_authReg).trans hreg
    · show (toJoining (s.setReg Reg.HLK_PAIR_CFG n)).pair.st = _ ∧ (toJoining (s.setReg Reg.HLK_PAIR_CFG n)).pair.prim = _
      rw [toJoining_pair]
      exact ⟨rfl, rfl⟩
  · refine ⟨_, he, ?_, fun h => absurd h (by decide), fun _ => ⟨rfl, ?_⟩⟩
    · exact (dropPrim_regsBut (s.setReg Reg.HLK_PAIR_CFG n) _ pairCfg_not_authReg).trans hreg
    · show (dropPrim (s.setReg Reg.HLK_PAIR_CFG n)).pair.prim = _
      rw [dropPrim_pair]
  · exact ⟨_, he, hreg, fun _ => rfl, fun h => absurd rfl h⟩

/-- What is put into a tank without ECC errors is read back. -/
theorem State.tankPut_read {s : State} (hecc : s.mem.tank.ecc = []) {a : Nat} {bs : List Byte} (hend : a + bs.length ≤ 2 ^ 27) (port : Nat) :
    (s.tankPut a bs port).mem.tank.read a bs.length = bs := by
  refine List.ext_getElem (by simp [Mem.read]) fun q h1 h2 => ?_
  simp only [Mem.read, List.getElem_map, List.getElem_range]
  rw [State.tankPut_byte hecc hend, if_pos ⟨Nat.le_add_right a q, Nat.add_lt_add_left h2 a⟩, Nat.add_sub_cancel_left, List.getD_eq_getElem _ _ h2]

/-- The authority word stands in the tank. -/
theorem authWord_readN {s : State} (hw : s.rbit Reg.HLK_AUTHW 31 = true) (hu : s.up 4 = true) (hecc : s.mem.tank.ecc = []) :
    (authWord s).mem.tank.readN (4 * s.fld Reg.HLK_AUTHW 24 0) 4 = b2n s.auth := by
  have hlt := s.fld_lt Reg.HLK_AUTHW 24 0
  have he : authWord s = s.tankPut (4 * s.fld Reg.HLK_AUTHW 24 0) (leBytes 4 (b2n s.auth)) pairPort := if_pos (by simp [hw, hu])
  have hin : 4 * s.fld Reg.HLK_AUTHW 24 0 + (leBytes 4 (b2n s.auth)).length ≤ 2 ^ 27 := by
    rw [leBytes_length]
    omega
  have hread := State.tankPut_read hecc hin pairPort
  rw [← he, leBytes_length] at hread
  rw [Mem.readN, hread, leNat_of_leBytes]
  exact Nat.mod_eq_of_lt (by cases s.auth <;> decide)

end

/-- Settles O45. -/
theorem pairRolesAndAuthority : Obligations.PairRolesAndAuthority := by
  intro s
  refine ⟨fun hu on => ?pinDown, fun hu => ⟨peerPrimaryChange_spec hu, fun hc hp hpp => ?assert, fun hw hp => ?window, fun who hr => ⟨fun hst hp => ?claim, ?release, fun hst => ?rejoin, fun hst => ?noRejoin⟩,
    fun who v n hr hn => ⟨fun hok => ?cfg, fun st h0 h1 hl href => ?cfgRefused⟩, fun who hr => ?kick, fun hen => ⟨heartbeatTick_spec hu hen, fun h hup => ?beat, fun hst => ?join⟩,
    fun hst hpp => ?fence, fun who v u hr hu' => ?authw⟩⟩
  case pinDown =>
    show execPeerPrimaryChange on s = _
    unfold execPeerPrimaryChange
    rw [hu]
    rfl
  case assert => exact congrArg Host.Outcome.next (if_pos (by simp [hu, hc, hp, hpp]))
  case window =>
    refine ⟨_, congrArg Host.Outcome.next (if_pos (by simp [hu, hw])), authSync_pair _ _, ?_⟩
    have hup : (authSync s.auth (s.onPair (fun p => { p with window := false }))).up 7 = s.up 7 := by
      rw [State.up, (authSync_same _ _).domSt]
      rfl
    rw [State.auth, hup, authSync_pair, hu, State.pair_onPair, hp]
    rfl
  case claim => exact (next_access hr).trans (congrArg _ (if_pos ⟨hst, by rw [hp]; rfl⟩))
  case release =>
    refine ⟨_, next_access hr, ?_⟩
    by_cases h2 : s.pair.st = 2
    · obtain ⟨chk, h⟩ := toFenced_pair s
      rw [if_pos h2, if_pos h2, h]
      exact ⟨rfl, rfl, rfl⟩
    · rw [if_neg h2, if_neg h2, dropPrim_pair]
      exact ⟨rfl, rfl, rfl⟩
  case rejoin =>
    refine ⟨_, next_access hr, ?_⟩
    rw [if_pos hst, toJoining_pair]
    exact ⟨rfl, rfl⟩
  case noRejoin => exact (next_access hr).trans (congrArg _ (if_neg hst))
  case cfg =>
    subst hn
    refine pairCfgWrite_spec hr ?_
    obtain h | h | h | h := hok
    · rw [if_neg (by simp [h])]
    · rw [if_neg (by simp [h])]
    · rw [if_neg (by simp [h])]
    · rw [h, ite_self]
  case cfgRefused =>
    subst hn
    have ho : (if bit (pairCfgNext s v) 0 && bit (pairCfgNext s v) 1 && !s.lockMode then lockRefused s else none) = some st := by
      rw [if_pos (by simp [h0, h1, hl]), href]
    have he : exec (.pairCfgWrite who v) s = .next (s.raiseStream 0x0507 2 0x300 st 0 (st + 256 * 2)) := by
      refine (next_access hr).trans ?_
      dsimp only
      rw [ho]
    exact ⟨_, he, raiseStream_raised _ _ _ _ _ _ _, State.raiseStream_same _ _ _ _ _ _ _⟩
  case kick => exact next_access hr
  case beat =>
    have htake := s.portTake_same 7 1
    have hu0 : SameBut [.link, .pair] s ((s.portTake 7 1).onPair (fun p => { p with heard := true, missed := 0 })) := (htake.mono (by decide)).then (State.onPair_same _ _)
    have hp0 : ((s.portTake 7 1).onPair (fun p => { p with heard := true, missed := 0 })).pair = { s.pair with heard := true, missed := 0 } := by
      rw [State.pair_onPair, htake .pair (by decide)]
    refine ⟨_, exec_heartbeat hup hen h, ?_⟩
    generalize (s.portTake 7 1).onPair (fun p => { p with heard := true, missed := 0 }) = u at hu0 hp0
    have hup' : u.portUp 7 = true := (State.portUp_of_kept (hu0 .rst (by decide)) hu0.regsFrom (by decide)).trans hup
    have hlock : u.lockMode = s.lockMode := State.lockMode_of_regs (hu0 .regs (by decide))
    have hid : u.hlkId = s.hlkId := (hu0.regsBut []).fld (by simp) _ _
    obtain ⟨hmiss, hheard⟩ := beatState_counts h u
    rw [hp0] at hmiss hheard
    refine ⟨hmiss, hheard, fun hst hl hs ht hv => ?_, fun hst => ?_⟩
    · exact beatState_standby hup' (by rw [hp0]; exact hst) (hlock.trans hl) (by rw [hp0]; exact hs) (by rw [hp0]; exact ht) hv
    · obtain ⟨h2, h1⟩ := beatState_joining (h := h) hup' (by rw [hp0]; exact hst)
      rw [hlock] at h2
      rw [hid] at h1
      exact ⟨h2, h1⟩
  case join =>
    have hg : (s.up 7 && s.pairEn && s.pair.st == 1) = true := by simp [hu, hen, hst]
    refine ⟨_, congrArg Host.Outcome.next (if_pos hg), fun hpp => ?_, fun hpp => ?_⟩
    · obtain ⟨h1, -, h3⟩ := fenced_spec s
      rw [if_pos hpp]
      exact ⟨h1, h3⟩
    · exact if_neg (by rw [hpp]; decide)
  case fence => exact ⟨_, congrArg Host.Outcome.next (if_pos (by simp [hu, hst, hpp])), fenced_spec s⟩
  case authw =>
    subst hu'
    have hput := s.putMasked_same Reg.HLK_AUTHW v
    refine ⟨_, next_access hr, ?_, fun h31 hs31 hup hecc => ?_⟩
    · dsimp only
      split
      · exact authWord_regsBut _ _ (by decide)
      · rfl
    · dsimp only
      rw [if_pos (by simp [h31, hs31])]
      refine (authWord_readN h31 ?_ ?_).trans ?_
      · rw [State.up, hput.domSt]
        exact hup
      · rw [← hecc]
        exact congrArg Mem.ecc (hput .tank (by decide))
      · rw [State.auth, State.auth, State.up, State.up, hput.domSt, hput .pair (by decide)]

end Sys2Proof.Machine
end

section
/-!
PROOFS. Converters: enabling, triggers, runs, urgent requests and results (R344 to R360).
-/
set_option Elab.async false

namespace Sys2Proof.Machine

/-! ## What a step does to one converter -/

/-- One converter becomes `z`, and nothing else of the machine changes. -/
def ConvTo (m : Nat) (z : MsrConv) (s t : State) : Prop := t.msc m = z ∧ (∀ o, o ≠ m → t.msc o = s.msc o) ∧ SameBut [.msr] s t

theorem ConvTo.refl (m : Nat) (s : State) : ConvTo m (s.msc m) s s := ⟨rfl, fun _ _ => rfl, SameBut.refl _ _⟩

theorem ConvTo.set {m : Nat} {y : MsrConv} {s t : State} (h : ConvTo m y s t) (z : MsrConv) : ConvTo m z s (t.setMsc m z) := by
  obtain ⟨-, ho, hs⟩ := h
  exact ⟨t.msc_setMsc_self m z, fun o hne => (t.msc_setMsc_ne z hne).trans (ho o hne), hs.trans (t.setMsc_same m z)⟩

theorem ConvTo.fld {m : Nat} {y : MsrConv} {s t : State} (h : ConvTo m y s t) (a hi lo : Nat) : t.fld a hi lo = s.fld a hi lo :=
  (h.2.2.regsBut []).fld (List.not_mem_nil) hi lo

theorem ConvTo.runStart {m : Nat} {y : MsrConv} {s t : State} (h : ConvTo m y s t) (e : Nat) (fresh urg : Bool) (overs : List Bool) :
    ConvTo m { y with run := some ⟨e, 0, fresh, urg, if fresh then [] else overs⟩ } s (runStart m e fresh urg overs t) := by
  obtain rfl := h.1
  exact h.set _

theorem ConvTo.passBegin_idle {m : Nat} {y : MsrConv} {s t : State} (h : ConvTo m y s t) (hr : y.run = none) :
    ConvTo m { y with delay := false, ready := false, run := some ⟨0, 0, true, false, []⟩ } s (passBegin m t) := by
  obtain rfl := h.1
  unfold passBegin
  rw [if_neg (by rw [hr]; decide)]
  exact (h.set _).runStart 0 true false []

theorem ConvTo.passBegin_busy {m : Nat} {y : MsrConv} {s t : State} (h : ConvTo m y s t) (hr : y.run ≠ none) :
    ConvTo m { y with delay := false, ready := true } s (passBegin m t) := by
  obtain rfl := h.1
  unfold passBegin
  rw [if_pos (Option.isSome_iff_ne_none.mpr hr)]
  exact h.set _

/-! ## Triggers -/

theorem trigger_unready {m : Nat} {s : State} (h : (s.msc m).refrdy = false) : trigger m s = s := by simp [trigger, h]

theorem trigger_starts {m : Nat} {s : State} (h : (s.msc m).refrdy = true) (hp : (s.msc m).pass = false) : trigger m s = passTrigger m s := by
  simp [trigger, h, hp]

theorem trigger_pends {m : Nat} {s : State} (h : (s.msc m).refrdy = true) (hp : (s.msc m).pass = true) (hc : s.rbit (Reg.MSRC_CTL m) 8 = true)
    (hn : (s.msc m).pend = false) : trigger m s = s.setMsc m { s.msc m with pend := true } := by
  simp [trigger, h, hp, hc, hn]

theorem trigger_discards {m : Nat} {s : State} (h : (s.msc m).refrdy = true) (hp : (s.msc m).pass = true)
    (hd : s.rbit (Reg.MSRC_CTL m) 8 = false ∨ (s.msc m).pend = true) : trigger m s = trigDiscard m s := by
  obtain hd | hd := hd <;> simp [trigger, h, hp, hd]

theorem ConvTo.passTrigger_delayed {m : Nat} {y : MsrConv} {s t : State} (h : ConvTo m y s t) (hd : s.fld (Reg.MSRC_TDLY m) 15 0 ≠ 0) :
    ConvTo m { y with pass := true, delay := true } s (passTrigger m t) := by
  obtain rfl := h.1
  unfold passTrigger
  rw [if_neg (by rwa [h.fld])]
  exact h.set _

theorem ConvTo.passTrigger_at_once {m : Nat} {y : MsrConv} {s t : State} (h : ConvTo m y s t) (hd : s.fld (Reg.MSRC_TDLY m) 15 0 = 0) (hr : y.run = none) :
    ConvTo m { y with pass := true, delay := false, ready := false, run := some ⟨0, 0, true, false, []⟩ } s (passTrigger m t) := by
  obtain rfl := h.1
  unfold passTrigger
  rw [if_pos (by rwa [h.fld])]
  exact (h.set _).passBegin_idle hr

theorem setMsc_regsBut (s : State) (m : Nat) (x : MsrConv) (l : List Nat) : RegsBut l s (s.setMsc m x) := (s.setMsc_same m x).regsBut l

theorem trigDiscard_spec (m : Nat) (s : State) :
    (trigDiscard m s).reg (Reg.MSRC_OVR_CNT m) = satAdd (s.reg (Reg.MSRC_OVR_CNT m)) 1 ∧ RegsBut [Reg.MSRC_OVR_CNT m] s (trigDiscard m s) := by
  unfold trigDiscard
  dsimp only
  split
  · refine ⟨?_, ((s.incReg_regsBut _ _).trans (setMsc_regsBut _ _ _ _)).trans (State.raise_regsBut _ _ _ _ _ _)⟩
    rw [State.raise_reg]
    exact s.reg_setReg_self _ _
  · exact ⟨s.reg_setReg_self _ _, s.incReg_regsBut _ _⟩

/-- What a trigger does to a converter that is `y` when it comes: each case of R350 to R352. -/
theorem ConvTo.trigger {m : Nat} {y z : MsrConv} {s t : State} (h : ConvTo m y s t)
    (hz : y.refrdy = false ∧ z = y ∨ y.refrdy = true ∧ y.pass = false ∧ s.fld (Reg.MSRC_TDLY m) 15 0 ≠ 0 ∧ z = { y with pass := true, delay := true }
      ∨ y.refrdy = true ∧ y.pass = false ∧ s.fld (Reg.MSRC_TDLY m) 15 0 = 0 ∧ y.run = none ∧ z = { y with pass := true, delay := false, ready := false, run := some ⟨0, 0, true, false, []⟩ }
      ∨ y.refrdy = true ∧ y.pass = true ∧ s.rbit (Reg.MSRC_CTL m) 8 = true ∧ y.pend = false ∧ z = { y with pend := true }) :
    ConvTo m z s (trigger m t) := by
  have hy := h.1
  subst hy
  obtain ⟨hr, rfl⟩ | ⟨hr, hp, hd, rfl⟩ | ⟨hr, hp, hd, hrun, rfl⟩ | ⟨hr, hp, hc, hn, rfl⟩ := hz
  · rwa [trigger_unready hr]
  · rw [trigger_starts hr hp]
    exact h.passTrigger_delayed hd
  · rw [trigger_starts hr hp]
    exact h.passTrigger_at_once hd hrun
  · have hcu : t.rbit (Reg.MSRC_CTL m) 8 = true := ((h.2.2.regsBut []).rbit List.not_mem_nil 8).trans hc
    rw [trigger_pends hr hp hcu hn]
    exact h.set _

/-- A trigger that the converter cannot keep is counted. -/
theorem ConvTo.trigger_counted {m : Nat} {y : MsrConv} {s t : State} (h : ConvTo m y s t) (hr : y.refrdy = true) (hp : y.pass = true)
    (hd : s.rbit (Reg.MSRC_CTL m) 8 = false ∨ y.pend = true) :
    (Machine.trigger m t).reg (Reg.MSRC_OVR_CNT m) = satAdd (s.reg (Reg.MSRC_OVR_CNT m)) 1 ∧ RegsBut [Reg.MSRC_OVR_CNT m] s (Machine.trigger m t) := by
  have hregs := h.2.2.regsBut [Reg.MSRC_OVR_CNT m]
  have hrb := (h.2.2.regsBut []).rbit (a := Reg.MSRC_CTL m) List.not_mem_nil 8
  have hreg := (h.2.2.regsBut []).reg (a := Reg.MSRC_OVR_CNT m) List.not_mem_nil
  rw [trigger_discards (h.1 ▸ hr) (h.1 ▸ hp) (by rw [hrb, h.1]; exact hd)]
  obtain ⟨h1, h2⟩ := trigDiscard_spec m t
  exact ⟨h1.trans (by rw [hreg]), hregs.trans h2⟩

/-- The three triggers: each runs `trigger` on the converter as it then is. -/
theorem exec_trigger {s : State} {m : Fin 4} {who : Who} {j : Instr} {y : MsrConv} (hon : s.mscOn m = true)
    (hj : (j = .msrTimerTrigger m ∧ s.mscTrig m = 1 ∧ s.fld (Reg.MSRC_TPER m) 23 0 ≠ 0 ∧ y = s.msc m)
      ∨ (j = .msrEdgeTrigger m ∧ s.mscTrig m = 2 ∧ (s.msc m).edges ≠ 0 ∧ y = { s.msc m with edges := (s.msc m).edges - 1 })
      ∨ (j = .msrSoftTrigger who m ∧ s.mscTrig m ≠ 0 ∧ reaches s who (Reg.MSRC_CMD m) = true ∧ y = s.msc m)) :
    ∃ u, exec j s = .next (trigger m u) ∧ ConvTo m y s u := by
  obtain ⟨rfl, ht, hp, rfl⟩ | ⟨rfl, ht, he, rfl⟩ | ⟨rfl, ht, hr, rfl⟩ := hj
  · exact ⟨s, congrArg Host.Outcome.next (if_pos (by simp [hon, ht, hp])), ConvTo.refl _ _⟩
  · exact ⟨_, congrArg Host.Outcome.next (if_pos (by simp [hon, ht, he])), (ConvTo.refl m s).set _⟩
  · exact ⟨s, (next_access hr).trans (congrArg _ (if_pos (by simp [hon, ht]))), ConvTo.refl _ _⟩

/-! ## Enabling and disabling -/

theorem ctl_ne_lvalid (m : Nat) : Reg.MSRC_CTL m ≠ Reg.MSRC_LVALID m := by
  unfold Reg.MSRC_CTL Reg.MSRC_LVALID
  omega

theorem ctl_ne_err (m : Nat) : Reg.MSRC_CTL m ≠ Reg.MSRC_ERR m := by
  unfold Reg.MSRC_CTL Reg.MSRC_ERR
  omega

/-- A converter that stands still: what EN at 0 leaves of it (R354). -/
def MsrConv.halted (x : MsrConv) : MsrConv :=
  { x with refrdy := false, run := none, pass := false, delay := false, ready := false, resume := none, pend := false, upend := none, edges := 0 }

theorem enable_spec (m : Nat) (v : W32) (s : State) : (enable m v s).reg (Reg.MSRC_CTL m) = (s.putMasked (Reg.MSRC_CTL m) v).reg (Reg.MSRC_CTL m)
    ∧ (enable m v s).reg (Reg.MSRC_LVALID m) = 0 ∧ ((enable m v s).msc m).refrdy = false
    ∧ ((enable m v s).msc m).run = (if bits v 2 1 = 0 then some ⟨0, 0, true, false, []⟩ else none)
    ∧ RegsBut [Reg.MSRC_CTL m, Reg.MSRC_LVALID m] s (enable m v s) ∧ SameBut [.regs, .msr] s (enable m v s) := by
  obtain ⟨u, hu⟩ : ∃ u, u = (s.putMasked (Reg.MSRC_CTL m) v).setReg (Reg.MSRC_LVALID m) 0 := ⟨_, rfl⟩
  have hreg : RegsBut [Reg.MSRC_CTL m, Reg.MSRC_LVALID m] s u :=
    hu ▸ ((s.putMasked_regsBut _ v).mono (by simp)).trans ((State.setReg_regsBut _ _ _).mono (by simp))
  have hsame : SameBut [.regs, .msr] s u := hu ▸ ((s.putMasked_same _ v).mono (by decide)).then (State.setReg_same _ _ _)
  have hctl : u.reg (Reg.MSRC_CTL m) = (s.putMasked (Reg.MSRC_CTL m) v).reg (Reg.MSRC_CTL m) := hu ▸ State.reg_setReg_ne _ _ (ctl_ne_lvalid m)
  have hlv : u.reg (Reg.MSRC_LVALID m) = 0 := hu ▸ State.reg_setReg_self _ _ _
  have hc := (ConvTo.refl m u).set (s.msc m).halted
  obtain ⟨z, hz, hrdy, hrun⟩ : ∃ z, ConvTo m z u (enable m v s) ∧ z.refrdy = false ∧ z.run = if bits v 2 1 = 0 then some ⟨0, 0, true, false, []⟩ else none := by
    unfold enable
    rw [← hu]
    dsimp only
    split
    · exact ⟨_, (hc.set _).runStart 0 true false [], by rw [State.msc_setMsc_self], rfl⟩
    · exact ⟨_, hc, rfl, rfl⟩
  obtain ⟨hself, -, hs⟩ := hz
  have hr := hs.regsBut []
  exact ⟨(hr.reg List.not_mem_nil).trans hctl, (hr.reg List.not_mem_nil).trans hlv, by rw [hself, hrdy], by rw [hself, hrun],
    hreg.trans (hs.regsBut _), hsame.then hs⟩

theorem disable_spec (m : Nat) (s : State) : (disable m s).rbit (Reg.MSRC_CTL m) 0 = false ∧ ((disable m s).msc m).run = none ∧ ((disable m s).msc m).pass = false
    ∧ Quiet s (disable m s) ∧ RegsBut [Reg.MSRC_CTL m] s (disable m s) ∧ SameBut [.regs, .msr] s (disable m s) := by
  have hself : (disable m s).msc m = (s.msc m).halted := State.msc_setMsc_self _ _ _
  have hsame : SameBut [.regs, .msr] s (disable m s) := ((s.clrReg_same _ _).mono (by decide)).then (State.setMsc_same _ _ _)
  refine ⟨?_, by rw [hself]; rfl, by rw [hself]; rfl, congrArg EvSt.log (hsame .ev (by decide)), (s.clrReg_regsBut _ _).trans (setMsc_regsBut _ _ _ _), hsame⟩
  have h := State.rbit_clrReg_self s (Reg.MSRC_CTL m) 1 0 (by decide)
  exact h.trans (by simp)

theorem cfgBusy_spec (m off : Nat) (v : W32) (s : State) : (cfgBusy m off v s).rbit (Reg.MSRC_ERR m) 0 = true ∧ Raised 0x0806 s (cfgBusy m off v s)
    ∧ RegsBut [Reg.MSRC_ERR m] s (cfgBusy m off v s) ∧ SameBut [.ev, .hostMem, .regs] s (cfgBusy m off v s) := by
  obtain ⟨-, h2, h3, h4⟩ := refused_spec (s := s) (Reg.MSRC_ERR m) 1 0x0806 0 0x600 (m + 2 ^ 16 * off + 2 ^ 32 * v.toNat)
  refine ⟨?_, h2, h3, h4⟩
  unfold cfgBusy State.rbit
  rw [State.raise_reg]
  have h := State.rbit_orReg_self s (Reg.MSRC_ERR m) 1 0 (by decide)
  exact h.trans (by simp)

/-! ## Results -/

theorem runStart_same (m e : Nat) (fresh urg : Bool) (overs : List Bool) (s : State) : SameBut [.msr] s (runStart m e fresh urg overs s) := s.setMsc_same _ _

theorem passBegin_same (m : Nat) (s : State) : SameBut [.msr] s (passBegin m s) :=
  sameBut_ite (s.setMsc_same _ _) ((s.setMsc_same _ _).trans (runStart_same _ _ _ _ _ _))

theorem passTrigger_same (m : Nat) (s : State) : SameBut [.msr] s (passTrigger m s) :=
  (s.setMsc_same m _).trans (sameBut_ite (passBegin_same _ _) (SameBut.refl _ _))

theorem passOver_same (m : Nat) (r : MsrRun) (s : State) : SameBut [.msr] s (passOver m r s) :=
  sameBut_ite (runStart_same _ _ _ _ _ _) ((s.setMsc_same m _).trans (sameBut_ite (passTrigger_same _ _) (SameBut.refl _ _)))

theorem runOver_same (m : Nat) (r : MsrRun) (s : State) : SameBut [.msr] s (runOver m r s) := by
  unfold runOver
  dsimp only
  split
  · split
    · exact (s.setMsc_same _ _).trans (runStart_same _ _ _ _ _ _)
    · exact (s.setMsc_same _ _).trans (runStart_same _ _ _ _ _ _)
    · exact (s.setMsc_same _ _).trans (sameBut_ite (passBegin_same _ _) (SameBut.refl _ _))
  · exact sameBut_ite (runStart_same _ _ _ _ _ _) (passOver_same _ _ _)

/-- The registers that a word put into a converter's buffer may change. -/
def bufRegs (m : Nat) : List Nat := [Reg.MSRC_WPTR m, Reg.MSRC_RPTR m, Reg.MSRC_OVW_CNT m, Reg.MSRC_STAT m] ++ eccRegs

theorem bufWrite_regsBut (m : Nat) (word : W32) (s : State) : RegsBut (bufRegs m) s (bufWrite m word s) := by
  unfold bufWrite
  extract_lets size base w r fill full t x s1 s2 s3 now wm s4
  refine regsBut_ite (RegsBut.refl _ _) ?_
  have ht : RegsBut (bufRegs m) s t := (((State.setReg_regsBut _ _ _).mono (by simp [bufRegs]))).trans ((State.incReg_regsBut _ _ _).mono (by simp [bufRegs]))
  have h1 : RegsBut (bufRegs m) s s1 :=
    regsBut_ite (regsBut_ite ht ((ht.trans (setMsc_regsBut _ _ _ _)).trans (State.raise_regsBut _ _ _ _ _ _))) (RegsBut.refl _ _)
  have h2 : RegsBut (bufRegs m) s s2 := regsBut_ite (h1.trans ((State.tankPut_regsBut _ _ _ _).mono (by simp [bufRegs]))) h1
  have h3 : RegsBut (bufRegs m) s s3 := h2.trans ((State.setReg_regsBut _ _ _).mono (by simp [bufRegs]))
  have h4 : RegsBut (bufRegs m) s s4 := h3.trans ((State.orReg_regsBut _ _ _).mono (by simp [bufRegs]))
  exact regsBut_ite (regsBut_ite (h4.trans ((State.addSync_same _ _ _).regsBut _)) h4) h3

/-- A register of a converter's page is none of the ECC state's. -/
theorem msc_not_ecc {m a : Nat} (hm : m < 4) (h1 : baseMsc m ≤ a) (h2 : a < baseMsc m + 0x100) : a ∉ eccRegs := by
  unfold baseMsc at h1 h2
  simp only [eccRegs, List.mem_cons, List.not_mem_nil, or_false, Reg.TNK_ECC_CNT, Reg.TST_HEALTH, Reg.TNK_ERR, Reg.TNK_UNC_ADDR, baseTnk, baseTst]
  omega

theorem lvalid_not_buf {m : Nat} (hm : m < 4) : Reg.MSRC_LVALID m ∉ bufRegs m := by
  rw [bufRegs, List.mem_append, not_or]
  refine ⟨?_, msc_not_ecc hm (Nat.le_add_right _ _) (Nat.add_lt_add_left (by decide) _)⟩
  simp [Reg.MSRC_LVALID, Reg.MSRC_WPTR, Reg.MSRC_RPTR, Reg.MSRC_OVW_CNT, Reg.MSRC_STAT]

theorem last_not_buf {m e : Nat} (hm : m < 4) (he : e < 16) : Reg.MSRC_LAST m e ∉ bufRegs m := by
  rw [bufRegs, List.mem_append, not_or]
  unfold Reg.MSRC_LAST Reg.MSRC_WPTR Reg.MSRC_RPTR Reg.MSRC_OVW_CNT Reg.MSRC_STAT
  refine ⟨?_, msc_not_ecc hm (by omega) (by omega)⟩
  simp only [List.mem_cons, List.not_mem_nil, or_false]
  omega

theorem last_ne_lvalid {m e : Nat} (he : e < 16) : Reg.MSRC_LAST m e ≠ Reg.MSRC_LVALID m := by
  unfold Reg.MSRC_LAST Reg.MSRC_LVALID
  omega

theorem deliverWord_spec {m e : Nat} (hm : m < 4) (he : e < 16) (word : W32) (s : State) :
    (deliverWord m e word s).rbit (Reg.MSRC_LVALID m) e = true ∧ (deliverWord m e word s).reg (Reg.MSRC_LAST m e) = word := by
  obtain ⟨u, hu⟩ : ∃ u, u = (s.setReg (Reg.MSRC_LAST m e) word).orReg (Reg.MSRC_LVALID m) (2 ^ e) := ⟨_, rfl⟩
  have hb := bufWrite_regsBut m word u
  have hlv : u.rbit (Reg.MSRC_LVALID m) e = true := by
    rw [hu, State.rbit_orReg_self _ _ _ _ (by omega), Nat.testBit_two_pow_self, Bool.or_true]
  have hlast : u.reg (Reg.MSRC_LAST m e) = word := by
    rw [hu, (State.orReg_regsBut _ _ _).reg (by simpa using last_ne_lvalid he), State.reg_setReg_self]
  unfold deliverWord
  rw [← hu]
  exact ⟨(hb.rbit (lvalid_not_buf hm) e).trans hlv, (hb.reg (last_not_buf hm he)).trans hlast⟩

/-- The overloads that a result of a run counts (R344, R347, R377). -/
def runOvers (s : State) (m : Nat) (r : MsrRun) (ovl : Bool) (e : W32) : List Bool := ((ovl || excOff s m e) :: r.overs).take (entOrder e)

/-- The result word of a run (Table MSR-1). -/
def runWord (s : State) (m : Nat) (r : MsrRun) (e : W32) (raw : Int) (settled bad : Bool) : W32 :=
  BitVec.ofNat 32 (ofInt 24 (calValue s (pairIx m e) raw).1 + 2 ^ 24 * r.entry + 2 ^ 28 * m + 2 ^ 30 * b2n settled + 2 ^ 31 * b2n bad)

theorem result_spec {m : Nat} {r : MsrRun} (hm : m < 4) (he : r.entry < 16) (v : Volts) (ovl : Bool) (s : State) {e : W32} (hE : e = s.mscEntry m r.entry)
    {settled bad : Bool} (hset : settled = !(r.fresh && decide (r.got + 1 < entOrder e)))
    (hbad : bad = ((calValue s (pairIx m e) (rawCode e v)).2 || (runOvers s m r ovl e).any (fun b => b)))
    (hdel : settled = true ∨ s.rbit (Reg.MSRC_CTL m) 9 = false) :
    (result m r v ovl s).rbit (Reg.MSRC_LVALID m) r.entry = true ∧ (result m r v ovl s).reg (Reg.MSRC_LAST m r.entry) = runWord s m r e (rawCode e v) settled bad := by
  obtain ⟨u, x, hu⟩ : ∃ (u : State) (x : MsrConv), SameBut [.msr] (deliverWord m r.entry (runWord s m r e (rawCode e v) settled bad) (u.setMsc m x)) (result m r v ovl s) := by
    refine ⟨if bad then s.incReg (Reg.MSRC_OR_CNT m) 1 else s, { s.msc m with run := some { r with got := r.got + 1, overs := runOvers s m r ovl e } }, ?_⟩
    unfold result
    rw [← hE]
    dsimp only
    have hno : (!settled && s.rbit (Reg.MSRC_CTL m) 9) = false := by
      obtain h | h := hdel <;> simp [h]
    unfold runWord
    unfold runOvers at hbad ⊢
    rw [← hset, ← hbad, hno, if_neg Bool.false_ne_true]
    exact sameBut_ite (runOver_same _ _ _) (SameBut.refl _ _)
  obtain ⟨h1, h2⟩ := deliverWord_spec hm he (runWord s m r e (rawCode e v) settled bad) (u.setMsc m x)
  have hr := hu.regsBut []
  exact ⟨(hr.rbit List.not_mem_nil _).trans h1, (hr.reg List.not_mem_nil).trans h2⟩

/-! ## Urgent requests -/

theorem urgent_disabled {m u : Nat} {s : State} (h : s.rbit (Reg.MSRC_CTL m) 0 = false) : urgent m u s = s.orReg (Reg.MSRC_ERR m) 2 := by
  unfold urgent
  rw [h]
  rfl

theorem urgent_idle {m u : Nat} {s : State} (h : s.rbit (Reg.MSRC_CTL m) 0 = true) (hr : (s.msc m).run = none) : urgent m u s = runStart m u true true [] s := by
  unfold urgent
  dsimp only
  rw [h, hr]
  rfl

theorem urgent_aborts {m u : Nat} {s : State} {r : MsrRun} (h : s.rbit (Reg.MSRC_CTL m) 0 = true) (hr : (s.msc m).run = some r) (hu : r.urg = false) :
    urgent m u s = runStart m u true true [] (s.setMsc m { s.msc m with resume := some r.entry }) := by
  unfold urgent
  dsimp only
  rw [h, hr]
  dsimp only
  rw [hu]
  rfl

theorem urgent_waits {m u : Nat} {s : State} {r : MsrRun} (h : s.rbit (Reg.MSRC_CTL m) 0 = true) (hr : (s.msc m).run = some r) (hu : r.urg = true)
    (hp : (s.msc m).upend = none) : urgent m u s = s.setMsc m { s.msc m with upend := some u } := by
  unfold urgent
  dsimp only
  rw [h, hr, hp]
  dsimp only
  rw [hu]
  rfl

theorem urgent_counted {m u : Nat} {s : State} {r : MsrRun} (h : s.rbit (Reg.MSRC_CTL m) 0 = true) (hr : (s.msc m).run = some r) (hu : r.urg = true)
    (hp : (s.msc m).upend ≠ none) :
    (urgent m u s).reg (Reg.MSRC_UOVR_CNT m) = satAdd (s.reg (Reg.MSRC_UOVR_CNT m)) 1 ∧ RegsBut [Reg.MSRC_UOVR_CNT m] s (urgent m u s) := by
  unfold urgent
  dsimp only
  rw [if_neg (by simp [h]), hr]
  dsimp only
  rw [if_neg (by simp [hu]), if_neg (by simpa using hp)]
  split
  · refine ⟨?_, ((s.incReg_regsBut _ _).trans (setMsc_regsBut _ _ _ _)).trans (State.raise_regsBut _ _ _ _ _ _)⟩
    rw [State.raise_reg]
    exact s.reg_setReg_self _ _
  · exact ⟨s.reg_setReg_self _ _, s.incReg_regsBut _ _⟩

/-! ## The statement -/

theorem ctlWrite_enable {m : Nat} {v : W32} {s : State} (h : s.rbit (Reg.MSRC_CTL m) 0 = false) (hv : bit v 0 = true) : ctlWrite m v s = enable m v s := by
  simp [ctlWrite, h, hv]

theorem ctlWrite_busy {m : Nat} {v : W32} {s : State} (h : s.rbit (Reg.MSRC_CTL m) 0 = true) (hv : bit v 0 = true) : ctlWrite m v s = cfgBusy m 0 v s := by
  simp [ctlWrite, h, hv]

theorem ctlWrite_disable {m : Nat} {v : W32} {s : State} (h : s.rbit (Reg.MSRC_CTL m) 0 = true) (hv : bit v 0 = false)
    (hf : bits v 16 1 = s.fld (Reg.MSRC_CTL m) 16 1) : ctlWrite m v s = disable m s := by
  simp [ctlWrite, h, hv, hf]

theorem ctlWrite_disable_busy {m : Nat} {v : W32} {s : State} (h : s.rbit (Reg.MSRC_CTL m) 0 = true) (hv : bit v 0 = false)
    (hf : bits v 16 1 ≠ s.fld (Reg.MSRC_CTL m) 16 1) : ctlWrite m v s = disable m (cfgBusy m 0 v s) := by
  simp [ctlWrite, h, hv, hf]

/-- A write that clears EN, and would change other fields too. -/
theorem disable_cfgBusy_spec (m off : Nat) (v : W32) (s : State) : (disable m (cfgBusy m off v s)).rbit (Reg.MSRC_ERR m) 0 = true
    ∧ Raised 0x0806 s (disable m (cfgBusy m off v s)) ∧ RegsBut [Reg.MSRC_CTL m, Reg.MSRC_ERR m] s (disable m (cfgBusy m off v s)) := by
  obtain ⟨h1, ⟨e, l, h2⟩, h3, -⟩ := cfgBusy_spec m off v s
  obtain ⟨-, -, -, hq, hr, -⟩ := disable_spec m (cfgBusy m off v s)
  refine ⟨(hr.rbit (by simpa using (ctl_ne_err m).symm) 0).trans h1, ⟨e, l, ?_⟩, (h3.mono (by simp)).trans (hr.mono (by simp))⟩
  rwa [show (disable m (cfgBusy m off v s)).ev.log = (cfgBusy m off v s).ev.log from hq]

/-- Settles O47. -/
theorem measurementConverters : Obligations.MeasurementConverters := by
  intro s m x hx
  subst hx
  refine ⟨fun who v hr hv => ⟨fun hen => ?enable, fun hen => ?busy⟩, fun who v hr hv hen => ?clear, fun who hr => ⟨fun hen => ?disable, fun hen => ?disabled⟩,
    fun hon he => ?noEdge, fun who j y hon hj => ⟨fun z hz => ?trigger, fun hrdy hp hd => ?counted⟩, fun hon hd => ?delay, fun hon => ?ready,
    fun r v raw ovl e overs settled bad hon hrun he hE hraw hovers hset hbad hdel => ?result, fun who u hr => ⟨fun hen => ?urgOff, fun hen hrun => ?urgRuns, fun r hen hrun hu => ?urgWaits⟩,
    fun who off v a ha hr hoff => ⟨fun hc hen => ?cfgBusy, fun h => ?cfg⟩⟩
  case enable => exact ⟨_, (next_access hr).trans (congrArg _ (ctlWrite_enable hen hv)), enable_spec m v s⟩
  case busy => exact ⟨_, (next_access hr).trans (congrArg _ (ctlWrite_busy hen hv)), cfgBusy_spec m 0 v s⟩
  case clear =>
    by_cases hf : bits v 16 1 = s.fld (Reg.MSRC_CTL m) 16 1
    · obtain ⟨h1, h2, h3, h4, h5, -⟩ := disable_spec m s
      exact ⟨_, (next_access hr).trans (congrArg _ (ctlWrite_disable hen hv hf)), h1, h2, h3, fun _ => ⟨h4, h5⟩, fun h => absurd hf h⟩
    · obtain ⟨h1, h2, h3, -⟩ := disable_spec m (cfgBusy m 0 v s)
      exact ⟨_, (next_access hr).trans (congrArg _ (ctlWrite_disable_busy hen hv hf)), h1, h2, h3, fun h => absurd h hf, fun _ => disable_cfgBusy_spec m 0 v s⟩
  case disable =>
    obtain ⟨h1, h2, h3, -, h5, h6⟩ := disable_spec m s
    exact ⟨_, (next_access hr).trans (congrArg _ (if_pos hen)), h1, h2, h3, h5, h6⟩
  case disabled => exact (next_access hr).trans (congrArg _ (if_neg (by simp [hen])))
  case noEdge => exact congrArg Host.Outcome.next (if_neg (by simp [he]))
  case trigger =>
    obtain ⟨u, he, hu⟩ := exec_trigger hon hj
    have hy : y.refrdy = (s.msc m).refrdy ∧ y.pass = (s.msc m).pass ∧ y.run = (s.msc m).run ∧ y.pend = (s.msc m).pend := by
      obtain ⟨-, -, -, rfl⟩ | ⟨-, -, -, rfl⟩ | ⟨-, -, -, rfl⟩ := hj <;> exact ⟨rfl, rfl, rfl, rfl⟩
    obtain ⟨h1, h2, h3, h4⟩ := hy
    rw [← h1, ← h2, ← h3, ← h4] at hz
    exact ⟨_, he, hu.trigger hz⟩
  case counted =>
    obtain ⟨u, he, hu⟩ := exec_trigger hon hj
    have hy : y.refrdy = (s.msc m).refrdy ∧ y.pass = (s.msc m).pass ∧ y.pend = (s.msc m).pend := by
      obtain ⟨-, -, -, rfl⟩ | ⟨-, -, -, rfl⟩ | ⟨-, -, -, rfl⟩ := hj <;> exact ⟨rfl, rfl, rfl⟩
    obtain ⟨h1, h2, h3⟩ := hy
    rw [← h1] at hrdy
    rw [← h2] at hp
    rw [← h3] at hd
    exact ⟨_, he, hu.trigger_counted hrdy hp hd⟩
  case delay =>
    refine ⟨_, congrArg Host.Outcome.next (if_pos (by simp [hon, hd])), ?_⟩
    by_cases hrun : (s.msc m).run = none
    · obtain ⟨h1, -, h3⟩ := (ConvTo.refl m s).passBegin_idle hrun
      exact ⟨by rw [h1], h3, fun _ => by rw [h1], fun h => absurd hrun h⟩
    · obtain ⟨h1, -, h3⟩ := (ConvTo.refl m s).passBegin_busy hrun
      exact ⟨by rw [h1], h3, fun h => absurd h hrun, fun _ => ⟨by rw [h1], by rw [h1]⟩⟩
  case ready => exact congrArg Host.Outcome.next (if_pos hon)
  case result =>
    refine ⟨result m r v ovl s, ?_, ?_⟩
    · show execMsrResult m v ovl s = _
      unfold execMsrResult
      rw [hrun, State.when, if_pos hon]
    · subst hraw hovers
      exact result_spec m.isLt he v ovl s hE hset hbad hdel
  case urgOff => exact (next_access hr).trans (congrArg _ (urgent_disabled hen))
  case urgRuns =>
    rcases hx : (s.msc m).run with _ | r
    · obtain ⟨h1, -, h3⟩ := (ConvTo.refl m s).runStart u.val true true []
      exact ⟨_, (next_access hr).trans (congrArg _ (urgent_idle hen hx)), by rw [h1]; rfl, fun r h => absurd h (by simp), h3⟩
    · obtain ⟨h1, -, h3⟩ := ((ConvTo.refl m s).set { s.msc m with resume := some r.entry }).runStart u.val true true []
      refine ⟨_, (next_access hr).trans (congrArg _ (urgent_aborts hen hx (hrun r hx))), by rw [h1]; rfl, fun q h => ?_, h3⟩
      rw [h1, ← Option.some.inj h]
  case urgWaits =>
    exact ⟨fun hp => (next_access hr).trans (congrArg _ (urgent_waits hen hrun hu hp)), fun hp => ⟨_, next_access hr, urgent_counted hen hrun hu hp⟩⟩
  case cfgBusy =>
    subst ha
    obtain ⟨h1, h2, h3, -⟩ := cfgBusy_spec m off.toNat v s
    have h0 : off.toNat ≠ 0 := fun h => hoff (BitVec.eq_of_toNat_eq h)
    exact ⟨_, (next_access hr).trans (congrArg _ ((if_neg h0).trans ((if_pos hc).trans (if_pos hen)))), h1, h2, h3⟩
  case cfg =>
    subst ha
    have h0 : off.toNat ≠ 0 := fun h => hoff (BitVec.eq_of_toNat_eq h)
    refine (next_access hr).trans (congrArg _ ((if_neg h0).trans ?_))
    obtain ⟨hc, hen⟩ | rfl | rfl := h
    · exact (if_pos hc).trans (if_neg (by simp [hen]))
    · rfl
    · rfl

end Sys2Proof.Machine
end

section
/-!
PROOFS. Resets: what the clearing of domains, a cut page write and the records of a start leave as it was (R411, R412, R425).
-/
set_option Elab.async false

namespace Sys2Proof.Machine

/-! ## What lies outside every cleared domain -/

/-- The weights, the fuses, the state of resets and power, the AON count and AON's registers hold the same. -/
structure AonKept (s t : State) : Prop where
  pcm : t.pcm = s.pcm
  fus : t.fus = s.fus
  rst : t.rst = s.rst
  aon : t.cnt.aon = s.cnt.aon
  regs : RegsFrom 0x00100000 0x00200000 s t

section
variable {s t u : State}

theorem AonKept.refl (s : State) : AonKept s s := ⟨rfl, rfl, rfl, rfl, RegsFrom.refl _ _ s⟩

theorem AonKept.trans (h : AonKept s t) (k : AonKept t u) : AonKept s u :=
  ⟨k.pcm.trans h.pcm, k.fus.trans h.fus, k.rst.trans h.rst, k.aon.trans h.aon, h.regs.trans k.regs⟩

theorem AonKept.foldl {α : Type} {f : State → α → State} (h : ∀ t a, AonKept t (f t a)) (l : List α) (s : State) : AonKept s (l.foldl f s) := by
  induction l generalizing s with
  | nil => exact AonKept.refl s
  | cons a r ih => exact (h s a).trans (ih _)

theorem aonKept_ite {c : Prop} [Decidable c] (ht : AonKept s t) (hu : AonKept s u) : AonKept s (if c then t else u) := by
  split
  · exact ht
  · exact hu

theorem SameBut.aonKept' {m : List Piece} (h : SameBut m s t) (hr : RegsFrom 0x00100000 0x00200000 s t)
    (hm : .pcm ∉ m ∧ .fus ∉ m ∧ .rst ∉ m ∧ .cnt ∉ m := by decide) : AonKept s t :=
  ⟨h .pcm hm.1, h .fus hm.2.1, h .rst hm.2.2.1, congrArg Counts.aon (h .cnt hm.2.2.2), hr⟩

theorem SameBut.aonKept {m : List Piece} (h : SameBut m s t) (hm : (.pcm ∉ m ∧ .fus ∉ m ∧ .rst ∉ m ∧ .cnt ∉ m) ∧ .regs ∉ m := by decide) : AonKept s t :=
  h.aonKept' (h.regsFrom hm.2) hm.1

theorem AonKept.reg (h : AonKept s t) {a : Nat} (h1 : 0x00100000 ≤ a := by decide) (h2 : a < 0x00200000 := by decide) : t.reg a = s.reg a := h.regs a h1 h2

end

section
variable (s : State)

theorem State.setReg_aonKept (a : Nat) (v : W32) (h : a < 0x00100000 ∨ 0x00200000 ≤ a) : AonKept s (s.setReg a v) :=
  (s.setReg_same a v).aonKept' ((s.setReg_regsBut a v).from (by simpa using h))

theorem State.raise_aonKept (code sev src pay : Nat) : AonKept s (s.raise code sev src pay) := (s.raise_same code sev src pay).aonKept

theorem State.raiseIf_aonKept (b : Bool) (code sev src pay : Nat) : AonKept s (s.raiseIf b code sev src pay) := (s.raiseIf_same b code sev src pay).aonKept

theorem State.raiseOnce_aonKept (key code sev src pay : Nat) : AonKept s (s.raiseOnce key code sev src pay) := by
  unfold State.raiseOnce
  exact aonKept_ite (AonKept.refl s) ((s.raise_aonKept _ _ _ _).trans (State.withEv_same _ _).aonKept)

theorem State.health_aonKept (b : Nat) : AonKept s (s.health b) :=
  aonKept_ite (AonKept.refl s) ((s.setReg_aonKept _ _ (by decide)).trans (State.raise_aonKept _ _ _ _ _))

theorem State.tankPut_aonKept (a : Nat) (bs : List Byte) (port : Nat) : AonKept s (s.tankPut a bs port) :=
  (State.tankPut_same s a bs port).aonKept' ((s.tankPut_regsBut a bs port).from (by decide))

theorem State.markPoison_aonKept (st : Nat) (n : W32) : AonKept s (s.markPoison st n) :=
  (s.markPoison_same st n).aonKept' (((s.mapSeq_same st n _).regsFrom).trans ((State.flush_regsBut _ st).from (by
    simp only [List.forall_mem_cons, Reg.SEQ_STRM_GAPS, Reg.SEQ_STRM_RELS, baseStrm]
    exact ⟨by omega, by omega, by decide⟩)))

theorem State.setCtx_aonKept (i : Nat) (c : Ctx) : AonKept s (s.setCtx i c) := (s.setCtx_same i c).aonKept

theorem State.onCtx_aonKept (i : Nat) (f : Ctx → Ctx) : AonKept s (s.onCtx i f) := s.setCtx_aonKept _ _

theorem State.poison_aonKept (i : Nat) : AonKept s (s.poison i) := by
  have h : AonKept s (s.onCtx i (fun c => { c with poison := true })) := s.onCtx_aonKept _ _
  unfold State.poison
  dsimp only
  split
  · exact h
  · exact h.trans (State.markPoison_aonKept _ _ _)

theorem State.poisonIf_aonKept (i : Nat) (b : Bool) : AonKept s (s.poisonIf i b) := aonKept_ite (s.poison_aonKept i) (AonKept.refl s)

theorem State.trap_aonKept (i cause : Nat) : AonKept s (s.trap i cause) := (s.setCtx_aonKept _ _).trans (State.raise_aonKept _ _ _ _ _)

theorem State.setArr_aonKept (a : Nat) (x : Arr) : AonKept s (s.setArr a x) := (s.setArr_same a x).aonKept

theorem State.mapArrs_aonKept (p : Nat → Bool) (f : Arr → Arr) : AonKept s (s.mapArrs p f) :=
  AonKept.foldl (fun t _ => aonKept_ite (t.setArr_aonKept _ _) (AonKept.refl t)) _ _

end

/-! ## The store -/

/-- A step of the store or of the host's queues: it keeps what lies outside the domains, the security core, the store's readiness, the ports' registers and
the mailbox, and only adds to the log. -/
structure StoreStep (s t : State) : Prop where
  aon : AonKept s t
  sec : t.sec = s.sec
  ready : t.nvs.ready = s.nvs.ready
  log : LogGrows s t
  hst : RegsFrom 0x00400000 0x00402000 s t
  mbx : t.host.mbx = s.host.mbx

section
variable {s t u : State}

theorem StoreStep.refl (s : State) : StoreStep s s := ⟨AonKept.refl s, rfl, rfl, LogGrows.refl s, RegsFrom.refl _ _ s, rfl⟩

theorem StoreStep.trans (h : StoreStep s t) (k : StoreStep t u) : StoreStep s u :=
  ⟨h.aon.trans k.aon, k.sec.trans h.sec, k.ready.trans h.ready, h.log.trans k.log, h.hst.trans k.hst, k.mbx.trans h.mbx⟩

theorem StoreStep.foldl {α : Type} {f : State → α → State} (h : ∀ t a, StoreStep t (f t a)) (l : List α) (s : State) : StoreStep s (l.foldl f s) := by
  induction l generalizing s with
  | nil => exact StoreStep.refl s
  | cons a r ih => exact (h s a).trans (ih _)

theorem StoreStep.foldl_mem {α : Type} {f : State → α → State} {l : List α} (h : ∀ t, ∀ a ∈ l, StoreStep t (f t a)) (s : State) : StoreStep s (l.foldl f s) := by
  induction l generalizing s with
  | nil => exact StoreStep.refl s
  | cons a r ih => exact (h s a List.mem_cons_self).trans (ih (fun t b hb => h t b (List.mem_cons_of_mem _ hb)) _)

theorem storeStep_ite {c : Prop} [Decidable c] (ht : StoreStep s t) (hu : StoreStep s u) : StoreStep s (if c then t else u) := by
  split
  · exact ht
  · exact hu

/-- A change of parts that are none of those kept. -/
theorem StoreStep.of_parts (hp : t.pcm = s.pcm) (hf : t.fus = s.fus) (hr : t.rst = s.rst) (hc : t.cnt.aon = s.cnt.aon) (hg : t.regs = s.regs) (hs : t.sec = s.sec) (hn : t.nvs.ready = s.nvs.ready)
    (hl : t.ev.log = s.ev.log) (hm : t.host.mbx = s.host.mbx) : StoreStep s t :=
  ⟨⟨hp, hf, hr, hc, fun a _ _ => RegsBut.of_regs hg [] a List.not_mem_nil⟩, hs, hn, ⟨[], hl⟩, fun a _ _ => RegsBut.of_regs hg [] a List.not_mem_nil, hm⟩

theorem SameBut.storeStep {m : List Piece} (h : SameBut m s t) (hr : RegsFrom 0x00100000 0x00200000 s t) (hh : RegsFrom 0x00400000 0x00402000 s t) (hl : LogGrows s t)
    (hm : (.pcm ∉ m ∧ .fus ∉ m ∧ .rst ∉ m ∧ .cnt ∉ m) ∧ .sec ∉ m ∧ .nvs ∉ m ∧ .host ∉ m := by decide) : StoreStep s t :=
  ⟨h.aonKept' hr hm.1, h .sec hm.2.1, congrArg NvsSt.ready (h .nvs hm.2.2.1), hl, hh, congrArg HostSt.mbx (h .host hm.2.2.2)⟩

end

section
variable (s : State)

theorem State.setReg_storeStep (a : Nat) (v : W32) (h : (a < 0x00100000 ∨ 0x00200000 ≤ a) ∧ (a < 0x00400000 ∨ 0x00402000 ≤ a)) : StoreStep s (s.setReg a v) :=
  (s.setReg_same a v).storeStep ((s.setReg_regsBut a v).from (by simpa using h.1)) ((s.setReg_regsBut a v).from (by simpa using h.2)) (s.setReg_same a v).logGrows

theorem State.raise_storeStep (code sev src pay : Nat) : StoreStep s (s.raise code sev src pay) :=
  (s.raise_same code sev src pay).storeStep (s.raise_same code sev src pay).regsFrom (s.raise_same code sev src pay).regsFrom (s.raise_logGrows code sev src pay)

theorem State.raiseIf_storeStep (b : Bool) (code sev src pay : Nat) : StoreStep s (s.raiseIf b code sev src pay) :=
  storeStep_ite (s.raise_storeStep _ _ _ _) (StoreStep.refl s)

theorem State.raiseOnce_storeStep (key code sev src pay : Nat) : StoreStep s (s.raiseOnce key code sev src pay) := by
  unfold State.raiseOnce
  exact storeStep_ite (StoreStep.refl s) ((s.raise_storeStep _ _ _ _).trans (.of_parts rfl rfl rfl rfl rfl rfl rfl rfl rfl))

theorem State.health_storeStep (b : Nat) : StoreStep s (s.health b) :=
  storeStep_ite (StoreStep.refl s) ((s.setReg_storeStep _ _ (by decide)).trans (State.raise_storeStep _ _ _ _ _))

theorem State.setArr_storeStep (a : Nat) (x : Arr) : StoreStep s (s.setArr a x) := .of_parts rfl rfl rfl rfl rfl rfl rfl rfl rfl

theorem State.setPert_storeStep (t : Tab Pert) : StoreStep s (s.setPert t) := by
  have h : StoreStep s { s with pert := t } := .of_parts rfl rfl rfl rfl rfl rfl rfl rfl rfl
  have hf : ∀ (l : List Nat) (u : State), (∀ o ∈ l, 0x80 ≤ o) →
      StoreStep u (l.foldl (fun u o => if (Tab.find? t o).isSome then u else u.clrReg (Reg.TST_MR_CFG + o) (2 ^ 31)) u) := by
    intro l
    induction l with
    | nil => exact fun u _ => StoreStep.refl u
    | cons o r ih =>
      intro u hl
      refine StoreStep.trans (storeStep_ite (StoreStep.refl u) (u.setReg_storeStep _ _ ?_)) (ih _ fun q hq => hl q (List.mem_cons_of_mem _ hq))
      unfold Reg.TST_MR_CFG baseTst
      omega
  have h1 := h.trans (hf [0x84, 0x88, 0x8C, 0x90, 0x94, 0x98, 0x9C] _ (by decide))
  exact storeStep_ite (h1.trans (State.setReg_storeStep _ _ _ (by decide))) h1

theorem State.nvsCorrected_storeStep : StoreStep s s.nvsCorrected := by
  have h : StoreStep s (s.incReg Reg.NVS_ECC_CNT 1) := s.setReg_storeStep _ _ (by decide)
  exact storeStep_ite (h.trans (State.raiseOnce_storeStep _ _ _ _ _ _)) h

theorem State.nvsUncorrectable_storeStep (reader g : Nat) : StoreStep s (s.nvsUncorrectable reader g) :=
  ((s.setReg_storeStep _ _ (by decide)).trans (State.setReg_storeStep _ _ _ (by decide))).trans (State.raise_storeStep _ _ _ _ _)

theorem State.nvsRead_storeStep (reader off len : Nat) : StoreStep s (s.nvsRead reader off len) := by
  unfold State.nvsRead
  refine StoreStep.trans ?_ (StoreStep.foldl (fun t e => storeStep_ite (t.nvsUncorrectable_storeStep _ _) t.nvsCorrected_storeStep) _ _)
  split
  · exact StoreStep.refl s
  · exact storeStep_ite (s.setPert_storeStep _) (StoreStep.refl s)

theorem State.chanEnd_storeStep (c : Fin 2) (code : Nat) : StoreStep s (s.chanEnd c.val code) :=
  s.setReg_storeStep _ _ (by unfold Reg.NVSC_STAT baseNvc; omega)

theorem State.chanRead_storeStep (c : Fin 2) (page : Nat) : StoreStep s (s.chanRead c.val page) := by
  have hbuf : ∀ (t : State), ∀ w ∈ List.range 16, ∀ v, StoreStep t (t.setReg (Reg.NVSC_BUF c.val w) v) := fun t w hw v =>
    t.setReg_storeStep _ _ (by have := List.mem_range.mp hw; unfold Reg.NVSC_BUF baseNvc; omega)
  exact ((s.nvsRead_storeStep _ _ _).trans (StoreStep.foldl_mem (fun t w hw => hbuf t w hw _) _)).trans (State.chanEnd_storeStep _ _ _)

theorem State.winRead_storeStep (who off : Nat) : StoreStep s (s.winRead who off) := (s.nvsRead_storeStep 2 off 4).trans (.of_parts rfl rfl rfl rfl rfl rfl rfl rfl rfl)

theorem warnPage_storeStep (j : PageJob) : StoreStep s (warnPage j s).1 := by
  unfold warnPage
  split
  · exact (s.chanEnd_storeStep _ _).trans (State.raise_storeStep _ _ _ _ _)
  · exact StoreStep.refl s

theorem nvsServe_storeStep (l : List NvsCmd) : ∀ s : State, StoreStep s (nvsServe l s) := by
  induction l with
  | nil =>
    intro s
    unfold nvsServe
    split
    · exact .of_parts rfl rfl rfl rfl rfl rfl rfl rfl rfl
    · split <;> exact .of_parts rfl rfl rfl rfl rfl rfl rfl rfl rfl
  | cons c r ih =>
    intro s
    cases c with
    | read c page => exact (s.chanRead_storeStep _ _).trans (ih _)
    | win who off => exact (s.winRead_storeStep _ _).trans (ih _)
    | page j =>
      unfold nvsServe
      split
      · exact ((warnPage_storeStep s j).trans (ih _)).trans (.of_parts rfl rfl rfl rfl rfl rfl rfl rfl rfl)
      · exact .of_parts rfl rfl rfl rfl rfl rfl rfl rfl rfl

theorem State.nvsGo_storeStep : StoreStep s s.nvsGo := storeStep_ite (nvsServe_storeStep _ s) (StoreStep.refl s)

theorem State.nvsCut_storeStep (cut : Fin 8) : StoreStep s (s.nvsCut cut) := by
  unfold State.nvsCut
  dsimp only
  split
  · exact s.nvsGo_storeStep
  · exact s.nvsGo_storeStep.trans (.of_parts rfl rfl rfl rfl rfl rfl rfl rfl rfl)

theorem State.nvsPut_storeStep (cs : List NvsCmd) : StoreStep s (s.nvsPut cs) :=
  StoreStep.trans (t := { s with nvs := { s.nvs with queue := s.nvs.queue ++ cs } }) (.of_parts rfl rfl rfl rfl rfl rfl rfl rfl rfl) (State.nvsGo_storeStep _)

theorem State.nvsPage_storeStep (j : PageJob) : StoreStep s (s.nvsPage j) := by
  unfold State.nvsPage
  extract_lets k q d page m1 x y s1
  have h : StoreStep s s1 := .of_parts rfl rfl rfl rfl rfl rfl rfl rfl rfl
  exact h.trans (s1.setReg_storeStep _ _ (by decide))

theorem jobDone_storeStep (j : PageJob) : StoreStep s (jobDone j s) := by
  unfold jobDone
  split
  · exact s.chanEnd_storeStep _ _
  · exact StoreStep.refl s
  · exact .of_parts rfl rfl rfl rfl rfl rfl rfl rfl rfl
  · exact StoreStep.refl s
  · exact StoreStep.refl s
  · exact storeStep_ite ((s.setReg_storeStep _ _ (by decide)).trans (State.setReg_storeStep _ _ _ (by decide))) (StoreStep.refl s)
  · exact s.setArr_storeStep _ _

theorem pageDone_storeStep (j : PageJob) : StoreStep s (pageDone j s) := by
  unfold pageDone
  extract_lets x s1
  have h : StoreStep s s1 :=
    StoreStep.trans (t := { s with nvs := { s.nvs with cur := none } }) (.of_parts rfl rfl rfl rfl rfl rfl rfl rfl rfl)
      ((State.nvsPage_storeStep _ j).trans (jobDone_storeStep _ j))
  clear_value s1
  split
  · exact h.trans (.of_parts rfl rfl rfl rfl rfl rfl rfl rfl rfl)
  · exact h

theorem nvsFlush_storeStep (n : Nat) : ∀ s : State, StoreStep s (nvsFlush n s) := by
  induction n with
  | zero => exact StoreStep.refl
  | succ n ih =>
    intro s
    unfold nvsFlush
    split
    · exact StoreStep.refl s
    · exact storeStep_ite (pageDone_storeStep s _) (((pageDone_storeStep s _).trans (State.nvsGo_storeStep _)).trans (ih _))

theorem State.abRead_storeStep (r : AbReg) : StoreStep s (s.abRead r).1 := by
  have h : StoreStep s ((s.nvsRead 3 r.offA (16 + r.max)).nvsRead 3 r.offB (16 + r.max)) := (s.nvsRead_storeStep _ _ _).trans (State.nvsRead_storeStep _ _ _ _)
  unfold State.abRead
  dsimp only
  split
  · exact h
  · exact h.trans (State.raise_storeStep _ _ _ _ _)

theorem State.abWriteNow_storeStep (r : AbReg) (a : AbRead) (pay : List Byte) : StoreStep s (s.abWriteNow r a pay) :=
  (nvsFlush_storeStep _ s).trans (StoreStep.foldl (fun t j => t.nvsPage_storeStep j) _ _)

theorem State.writeStart_storeStep : StoreStep s s.writeStart := (s.abRead_storeStep _).trans (State.abWriteNow_storeStep _ _ _ _)

/-! ## The host's queues and the press -/

theorem State.dropCmd_storeStep (q : Nat) (c : HCmd) : StoreStep s (s.dropCmd q c) := .of_parts rfl rfl rfl rfl rfl rfl rfl rfl rfl

theorem State.endCmd_storeStep (q : Nat) (c : HCmd) (status result : Nat) : StoreStep s (s.endCmd q c status result) := by
  unfold State.endCmd
  extract_lets h s1
  have h1 : StoreStep s s1 := storeStep_ite (StoreStep.refl s) (.of_parts rfl rfl rfl rfl rfl rfl rfl rfl rfl)
  exact storeStep_ite (h1.trans (State.raise_storeStep _ _ _ _ _)) h1

theorem State.finish_storeStep (q : Nat) (c : HCmd) (status result : Nat) : StoreStep s (s.finish q c status result) :=
  (s.dropCmd_storeStep q c).trans (State.endCmd_storeStep _ _ _ _ _)

theorem State.putReserve_storeStep (c n : Nat) : StoreStep s (s.putReserve c n) :=
  s.setReg_storeStep _ _ (by unfold Reg.PRS_RESV basePrs; omega)

theorem State.sparesHealth_storeStep : StoreStep s s.sparesHealth := storeStep_ite (s.health_storeStep 0) (s.setReg_storeStep _ _ (by decide))

theorem State.setReserve_storeStep (c n borrowed : Nat) : StoreStep s (s.setReserve c n borrowed) :=
  ((s.putReserve_storeStep c n).trans (State.raiseIf_storeStep _ _ _ _ _ _)).trans (State.sparesHealth_storeStep _)

theorem giveBack_storeStep (t : Tab Nat) : StoreStep s (giveBack t s) := StoreStep.foldl (fun u _ => u.setReserve_storeStep _ _ _) _ _

theorem loadEnd_storeStep (src : LoadSrc) (op code slot : Nat) : StoreStep s (loadEnd src op code slot s) := by
  unfold loadEnd
  extract_lets s1
  have h1 : StoreStep s s1 := storeStep_ite (s.setReg_storeStep _ _ (by decide)) (StoreStep.refl s)
  split
  · exact h1
  · split
    · exact h1
    · exact h1.trans (State.finish_storeStep _ _ _ _ _)

theorem State.unprogram_storeStep (a : Nat) : StoreStep s (s.unprogram a) := storeStep_ite (s.nvsPut_storeStep _) (StoreStep.refl s)

/-! ## Clearing the domains -/

theorem State.sigNow_aonKept (i ctr : Nat) (v : W32) : AonKept s (s.sigNow i ctr v) :=
  aonKept_ite (s.addSync_same _ _).aonKept (s.setCtx_aonKept _ _)

theorem State.askStatus_aonKept (core k rst ctr entry kind code : Nat) : AonKept s (s.askStatus core k rst ctr entry kind code) :=
  ((s.tankPut_aonKept _ _ _).trans (State.poisonIf_aonKept _ _ _)).trans (State.sigNow_aonKept _ _ _ _)

theorem reportAsk_aonKept (core : Nat) (q : Ask) (code : Nat) : AonKept s (reportAsk core q code s) := by
  unfold reportAsk
  split
  · exact s.setReg_aonKept _ _ (Or.inr (by unfold Reg.CHN_REQ_STAT baseChn coreBase; omega))
  · exact s.askStatus_aonKept _ _ _ _ _ _ _
  · split
    · exact AonKept.refl s
    · exact (s.finish_storeStep _ _ _ _).aon

theorem reportTest_aonKept (core : Nat) (q : Ask) (code : Nat) : AonKept s (reportTest core q code s) := by
  unfold reportTest
  split
  · exact s.setReg_aonKept _ _ (by decide)
  · exact s.askStatus_aonKept _ _ _ _ _ _ _
  · split
    · exact AonKept.refl s
    · exact (s.finish_storeStep _ _ _ _).aon

theorem endCoreAsks_aonKept (c : Nat) : AonKept s (endCoreAsks c s) :=
  (AonKept.foldl (fun t q => reportAsk_aonKept t c q 2) _ _).trans (AonKept.foldl (fun t q => reportTest_aonKept t c q 2) _ _)

theorem cutPress_aonKept (a : Nat) (j : PressJob) : AonKept s (cutPress a j s) := by
  unfold cutPress
  split
  · split <;> exact ⟨rfl, rfl, rfl, rfl, RegsFrom.refl _ _ _⟩
  · split <;> exact ⟨rfl, rfl, rfl, rfl, RegsFrom.refl _ _ _⟩
  · exact ⟨rfl, rfl, rfl, rfl, RegsFrom.refl _ _ _⟩

theorem clearCore_aonKept (c : Nat) : AonKept s (clearCore c s) := by
  unfold clearCore
  extract_lets mine s1 out outG x s2
  have h1 : AonKept s s1 := by
    refine (endCoreAsks_aonKept s c).trans (AonKept.foldl (fun t e => ?_) _ _)
    split
    · exact aonKept_ite (cutPress_aonKept t _ _) (AonKept.refl t)
    · exact AonKept.refl t
  have h2 : AonKept s s2 := h1.trans (AonKept.foldl (fun t k => t.setCtx_aonKept (c * 4 + k) { Ctx.idle with nextId := (t.ctx (c * 4 + k)).nextId }) _ _)
  clear_value s2
  exact ⟨h2.pcm, h2.fus, h2.rst, h2.aon, h2.regs⟩

theorem dropArr_aonKept (a : Nat) : AonKept s (dropArr a s) :=
  (aonKept_ite (AonKept.refl s) (s.setArr_aonKept _ _)).trans (State.unprogram_storeStep _ a).aon

theorem makeDue_aonKept (a cls : Nat) : AonKept s (makeDue a cls s) := aonKept_ite (AonKept.refl s) (s.setArr_aonKept _ _)

theorem firstDue_aonKept (a : Nat) : AonKept s (firstDue a s) := aonKept_ite (makeDue_aonKept s a 1) (AonKept.refl s)

theorem State.detachArrs_aonKept (mine : Nat → Bool) : AonKept s (s.detachArrs mine) := by
  unfold State.detachArrs
  extract_lets s1
  have h1 : AonKept s s1 := s.mapArrs_aonKept _ _
  exact h1.trans (AonKept.foldl (f := fun t (e : Nat × Arr) => firstDue e.1 t) (fun t e => firstDue_aonKept t e.1) _ _)

theorem refuseLoad_aonKept (code : Nat) : AonKept s (refuseLoad code s) := by
  unfold refuseLoad
  split
  · exact AonKept.refl s
  · extract_lets built x s1 s2
    have h1 : AonKept s s1 :=
      AonKept.trans (t := { s with prs := { s.prs with load := none }, refs := Tab.keep s.refs (fun a => !built.contains a) })
        ⟨rfl, rfl, rfl, rfl, RegsFrom.refl _ _ _⟩ (AonKept.foldl (fun t a => dropArr_aonKept t a) _ _)
    have h2 : AonKept s s2 := aonKept_ite (h1.trans (State.detachArrs_aonKept _ _)) h1
    exact ((h2.trans (giveBack_storeStep _ _).aon).trans (giveBack_storeStep _ _).aon).trans (loadEnd_storeStep _ _ _ _ _).aon

theorem detachAll_aonKept : AonKept s (detachAll s) := by
  unfold detachAll
  extract_lets s1 s2
  have h1 : AonKept s s1 := (refuseLoad_aonKept s 9).trans (AonKept.foldl (fun t x => t.detachArrs_aonKept _) _ _)
  have h2 : AonKept s s2 := h1.trans (State.mapArrs_aonKept _ _ _)
  clear_value s2
  exact ⟨h2.pcm, h2.fus, h2.rst, h2.aon, h2.regs⟩

theorem State.trapLoad_aonKept (i : Nat) : AonKept s (s.trapLoad i) := aonKept_ite (s.trap_aonKept i 3) (AonKept.refl s)

theorem errorLoads_aonKept (sp : Nat) : AonKept s (errorLoads sp s) := by
  refine AonKept.foldl (fun t i => ?_) _ _
  dsimp only
  exact aonKept_ite ((t.setCtx_aonKept _ _).trans (State.trapLoad_aonKept _ i)) (AonKept.refl t)

theorem clearDram_aonKept : AonKept s (clearDram s) := by
  unfold clearDram
  extract_lets s2
  have h2 : AonKept s s2 := (detachAll_aonKept s).trans (errorLoads_aonKept _ 2)
  clear_value s2
  exact ⟨h2.pcm, h2.fus, h2.rst, h2.aon, h2.regs⟩

theorem engEnd_aonKept (j : EngJob) (bad : Bool) : AonKept s (engEnd j bad s) := (s.poisonIf_aonKept _ _).trans (State.endWork_same _ _ _).aonKept

theorem errorEngines_aonKept : AonKept s (errorEngines s) := by
  unfold errorEngines
  dsimp only
  exact AonKept.foldl (fun t j => (engEnd_aonKept t j true).trans (State.onCtx_aonKept _ _ _)) _ _

theorem errorCopies_aonKept : AonKept s (errorCopies s) := by
  refine AonKept.foldl (fun t e => ?_) _ _
  split
  · exact AonKept.refl t
  · split
    · exact AonKept.refl t
    · exact (t.finish_storeStep _ _ _ _).aon

theorem clearFab_aonKept : AonKept s (clearFab s) := by
  unfold clearFab
  extract_lets s1 s2
  have h1 : AonKept s s1 := ((errorEngines_aonKept s).trans (errorCopies_aonKept _)).trans (errorLoads_aonKept _ 0)
  have h2 : AonKept s s2 := h1.trans (State.mapArrs_aonKept _ _ _)
  clear_value s2
  exact ⟨h2.pcm, h2.fus, h2.rst, h2.aon, h2.regs⟩

theorem State.dropReqs_aonKept (lo hi : Nat) : AonKept s (s.dropReqs lo hi) := ⟨rfl, rfl, rfl, rfl, RegsFrom.refl _ _ _⟩

theorem clearSec_aonKept : AonKept s (clearSec s) := by
  have h : AonKept s { s with sec := ⟨none, none, 0, 0, false, false, none⟩ } := ⟨rfl, rfl, rfl, rfl, RegsFrom.refl _ _ _⟩
  exact h.trans (State.setPert_storeStep _ []).aon

theorem clearNvsc_aonKept : AonKept s (clearNvsc s) := ⟨rfl, rfl, rfl, rfl, RegsFrom.refl _ _ _⟩

theorem clearHst_aonKept : AonKept s (clearHst s) := ⟨rfl, rfl, rfl, rfl, RegsFrom.refl _ _ _⟩

theorem clearHlk_aonKept : AonKept s (clearHlk s) := ⟨rfl, rfl, rfl, rfl, RegsFrom.refl _ _ _⟩

theorem clearFio_aonKept : AonKept s (clearFio s) := ⟨rfl, rfl, rfl, rfl, RegsFrom.refl _ _ _⟩

theorem clearDomBody_aonKept (d : Nat) : AonKept s (clearDomBody d s) :=
  aonKept_ite ((clearSec_aonKept s).trans (State.dropReqs_aonKept _ 6 6)) <|
  aonKept_ite (clearNvsc_aonKept s) <|
  aonKept_ite (s.dropReqs_aonKept 2 5) <|
  aonKept_ite (clearFab_aonKept s) <|
  aonKept_ite (clearDram_aonKept s) <|
  aonKept_ite ((clearHst_aonKept s).trans (State.dropReqs_aonKept _ 0 1)) <|
  aonKept_ite (clearHlk_aonKept s) <|
  aonKept_ite (clearFio_aonKept s) <|
  aonKept_ite (clearCore_aonKept s _) (AonKept.refl s)

theorem State.dropRegs_aonKept {d : Nat} (hd : d ≠ 0) : AonKept s (s.dropRegs d) := by
  refine ⟨rfl, rfl, rfl, rfl, fun a h1 h2 => ?_⟩
  have hdom : domOfAddr a = 0 := by
    unfold domOfAddr
    rw [if_neg (by omega), if_pos h2]
  rw [State.reg_dropRegs, if_neg (by omega)]

theorem State.rearmDom_aonKept (d : Nat) : AonKept s (s.rearmDom d) := (s.withEv_same _).aonKept

theorem clearDom_aonKept {d : Nat} (hd : d ≠ 0) : AonKept s (clearDom d s) := by
  have h : AonKept s (((clearDomBody d s).dropRegs d).rearmDom d) := ((clearDomBody_aonKept s d).trans (State.dropRegs_aonKept _ hd)).trans (State.rearmDom_aonKept _ d)
  exact aonKept_ite (h.trans (State.setReg_aonKept _ _ _ (by decide))) h

end

/-! ## Every reset -/

theorem AonKept.domSt {s t : State} (h : AonKept s t) (d : Nat) : t.domSt d = s.domSt d := by
  unfold State.domSt
  rw [h.rst]

/-- A list of domains is down, every other one as it was; weights, fuses, the AON count and AON's registers are as they were. -/
structure DomsDown (l : List Nat) (s t : State) : Prop where
  pcm : t.pcm = s.pcm
  fus : t.fus = s.fus
  warn : t.rst.bowarn = s.rst.bowarn
  aon : t.cnt.aon = s.cnt.aon
  regs : RegsFrom 0x00100000 0x00200000 s t
  down : ∀ d ∈ l, t.domSt d = .down
  other : ∀ d ∉ l, t.domSt d = s.domSt d

theorem DomsDown.step {l : List Nat} {s t u : State} (h : DomsDown l s t) (k : AonKept t u) (d : Nat) : DomsDown (d :: l) s (u.setDom d .down) := by
  have hwarn : u.rst.bowarn = t.rst.bowarn := congrArg Rst.bowarn k.rst
  refine ⟨k.pcm.trans h.pcm, k.fus.trans h.fus, hwarn.trans h.warn, k.aon.trans h.aon, (h.regs.trans k.regs).trans (u.setDom_same d .down).regsFrom, fun e he => ?_, fun e he => ?_⟩
  · by_cases hed : e = d
    · rw [hed, State.domSt_setDom_self]
    · rw [State.domSt_setDom_ne _ _ hed, k.domSt]
      exact h.down e ((List.mem_cons.mp he).resolve_left hed)
  · rw [List.mem_cons, not_or] at he
    rw [State.domSt_setDom_ne _ _ he.1, k.domSt, h.other e he.2]

theorem DomsDown.mono {l m : List Nat} {s t : State} (h : DomsDown l s t) (hlm : ∀ d, d ∈ l ↔ d ∈ m) : DomsDown m s t :=
  ⟨h.pcm, h.fus, h.warn, h.aon, h.regs, fun d hd => h.down d ((hlm d).mpr hd), fun d hd => h.other d fun h => hd ((hlm d).mp h)⟩

/-- Each domain of a list is cleared in turn and left down. -/
theorem DomsDown.foldl {g : Nat → State → State} {s : State} (l : List Nat) (hg : ∀ d ∈ l, ∀ t, AonKept t (g d t)) :
    ∀ {m : List Nat} {t : State}, DomsDown m s t → DomsDown (l ++ m) s (l.foldl (fun t d => (g d t).setDom d .down) t) := by
  induction l with
  | nil => exact id
  | cons d r ih =>
    intro m t h
    refine (ih (fun e he => hg e (List.mem_cons_of_mem _ he)) (h.step (hg d (List.mem_cons_self ..) t) d)).mono fun e => ?_
    simp only [List.mem_append, List.mem_cons]
    tauto

theorem clearDoms_down {l : List Nat} (hl : 0 ∉ l) {s t : State} (h : AonKept s t) : DomsDown l s (clearDoms l t) := by
  have h0 : DomsDown [] s t := ⟨h.pcm, h.fus, congrArg Rst.bowarn h.rst, h.aon, h.regs, fun d hd => absurd hd List.not_mem_nil, fun d _ => h.domSt d⟩
  have h1 := DomsDown.foldl (g := fun _ t => t) l (fun _ _ t => AonKept.refl t) h0
  have h2 := DomsDown.foldl (g := clearDom) l (fun d hd t => clearDom_aonKept t fun h => hl (h ▸ hd)) h1
  exact h2.mono fun d => by simp

/-- The domains of a reset of all but AON. -/
theorem mem_allButAon {d : Nat} : d ∈ [1, 2] ++ workingDoms ↔ 1 ≤ d ∧ d < 41 := by
  unfold workingDoms
  simp only [List.mem_append, List.mem_cons, List.not_mem_nil, or_false, List.mem_map, List.mem_range]
  exact ⟨by rintro ((rfl | rfl) | ⟨i, hi, rfl⟩) <;> omega, fun h => by
    by_cases h3 : 3 ≤ d
    · exact Or.inr ⟨d - 3, by omega, by omega⟩
    · exact Or.inl (by omega)⟩

theorem mem_workingDoms {d : Nat} : d ∈ workingDoms ↔ 3 ≤ d ∧ d < 41 := by
  unfold workingDoms
  simp only [List.mem_map, List.mem_range]
  exact ⟨by rintro ⟨i, hi, rfl⟩; omega, fun h => ⟨d - 3, by omega, by omega⟩⟩

theorem State.hold_domSt (s : State) (r d : Nat) : (s.hold r).domSt d = s.domSt d := rfl

theorem State.hold_reg (s : State) (r a : Nat) : (s.hold r).reg a = s.reg a := rfl

theorem stopped_regsBut (s : State) : RegsBut [Reg.CLK_STAT, Reg.PWR_STAT] s (stopped s) :=
  ((s.setReg_regsBut _ _).mono (by simp)).trans ((State.setReg_regsBut _ _ _).mono (by simp))

theorem stopped_same (s : State) : SameBut [.regs] s (stopped s) := (s.setReg_same _ _).trans (State.setReg_same _ _ _)

/-- What ends a warm reset writes these of AON's registers. -/
abbrev restartRegs : List Nat := [Reg.RST_CAUSE, Reg.RST_STAT, Reg.CLK_STAT, Reg.PWR_STAT]

/-- The end of a reset that keeps AON: the cause, the status registers, and the state from which the start runs. -/
def restart (bits' : Nat) (keepTrim : Bool) (r : Nat) (s : State) : State := (stopped ((s.orReg Reg.RST_CAUSE bits').startStat keepTrim)).hold r

theorem restart_spec (m : Nat) (keep : Bool) (r : Nat) (s : State) :
    (restart m keep r s).reg Reg.RST_CAUSE = s.reg Reg.RST_CAUSE ||| BitVec.ofNat 32 m ∧ RegsBut restartRegs s (restart m keep r s)
      ∧ (restart m keep r s).pcm = s.pcm ∧ (restart m keep r s).fus = s.fus ∧ (∀ d, (restart m keep r s).domSt d = s.domSt d)
      ∧ (restart m keep r s).rst.stage = .held r ∧ (restart m keep r s).rst.cores = 0 ∧ (restart m keep r s).rst.wdt = false
      ∧ (restart m keep r s).rst.bowarn = s.rst.bowarn ∧ (restart m keep r s).reg Reg.RST_STAT = s.reg Reg.RST_STAT &&& (if keep then 0x2F else 0x20) := by
  obtain ⟨u, hu⟩ : ∃ u, u = stopped ((s.orReg Reg.RST_CAUSE m).startStat keep) := ⟨_, rfl⟩
  have hu1 : SameBut [.regs] s u := hu ▸ ((s.orReg_same _ _).trans (State.setReg_same _ _ _)).trans (stopped_same _)
  have hu2 : RegsBut restartRegs s u :=
    hu ▸ ((s.orReg_regsBut _ _).mono (by decide)).trans (((State.setReg_regsBut _ _ _).mono (by decide)).trans ((stopped_regsBut _).mono (by decide)))
  have hu3 : u.reg Reg.RST_CAUSE = s.reg Reg.RST_CAUSE ||| BitVec.ofNat 32 m := by
    rw [hu, (stopped_regsBut _).reg (by decide)]
    exact (State.reg_setReg_ne _ _ (by decide)).trans (State.reg_orReg_self _ _ _)
  have hu4 : u.reg Reg.RST_STAT = s.reg Reg.RST_STAT &&& (if keep then 0x2F else 0x20) := by
    rw [hu, (stopped_regsBut _).reg (by decide), State.startStat, State.reg_setReg_self, (s.orReg_regsBut _ _).reg (by decide)]
  have hu5 : u.rst.bowarn = s.rst.bowarn := congrArg Rst.bowarn (hu1 .rst (by decide))
  unfold restart
  rw [← hu]
  exact ⟨hu3, hu2, hu1 .pcm (by decide), hu1 .fus (by decide), fun d => hu1.domSt (by decide) d, rfl, rfl, rfl, hu5, hu4⟩

/-- A warm reset. -/
theorem warmReset_spec (s : State) (cause : Nat) (cut : Fin 8) :
    (warmReset cause cut s).rst.stage = .held 2 ∧ (∀ d < 41, 1 ≤ d → (warmReset cause cut s).domSt d = .down)
      ∧ (warmReset cause cut s).reg Reg.RST_CAUSE = s.reg Reg.RST_CAUSE ||| BitVec.ofNat 32 (2 ^ cause) ∧ (warmReset cause cut s).pcm = s.pcm
      ∧ (warmReset cause cut s).fus = s.fus ∧ (warmReset cause cut s).rst.cores = 0 ∧ (warmReset cause cut s).rst.wdt = false
      ∧ (warmReset cause cut s).reg Reg.RST_FAILCNT = s.reg Reg.RST_FAILCNT ∧ (warmReset cause cut s).rst.bowarn = s.rst.bowarn
      ∧ (warmReset cause cut s).reg Reg.RST_STAT = s.reg Reg.RST_STAT &&& 0x20 := by
  obtain ⟨d1, d2, dw, -, d3, d4, -⟩ := clearDoms_down (l := [1, 2] ++ workingDoms) (fun h => by simpa using mem_allButAon.mp h) ((s.nvsCut_storeStep cut).aon)
  obtain ⟨u, hu⟩ : ∃ u, u = clearDoms ([1, 2] ++ workingDoms) (s.nvsCut cut) := ⟨_, rfl⟩
  rw [← hu] at d1 d2 dw d3 d4
  obtain ⟨w, hw⟩ : ∃ w, w = { u with rst := { u.rst with split := false } } := ⟨_, rfl⟩
  have he : warmReset cause cut s = restart (2 ^ cause) false 2 w := by rw [hw, hu]; rfl
  have hwr : ∀ a, w.reg a = u.reg a := fun a => by rw [hw]; rfl
  have hwd : ∀ d, w.domSt d = u.domSt d := fun d => by rw [hw]; rfl
  obtain ⟨h1, h2, h3, h4, h5, h6, h7, h8, h9, h10⟩ := restart_spec (2 ^ cause) false 2 w
  rw [he]
  refine ⟨h6, fun d hd h0 => ?_, ?_, h3.trans ?_, h4.trans ?_, h7, h8, ?_, h9.trans ?_, ?_⟩
  · rw [h5, hwd, d4 d (mem_allButAon.mpr ⟨h0, hd⟩)]
  · rw [h1, hwr, d3 _ (by decide) (by decide)]
  · rw [← d1, hw]
  · rw [← d2, hw]
  · rw [h2.reg (by decide), hwr, d3 _ (by decide) (by decide)]
  · rw [← dw, hw]
  · rw [h10, hwr, d3 _ (by decide) (by decide)]
    rfl

/-- The end of a reset that clears AON too: its registers and counts start anew. -/
def coldStart (cause : Nat) (warn : Bool) (u : State) : State :=
  let v := { u.dropRegs 0 with
    cnt := { u.cnt with aon := 0, sub := 0 }
    rst := { u.rst with defer := [], fault := false, therm := false, split := false, wakeAt := 0, kickAt := 0, ctlAt := 0, domAt := [] } }
  ((v.setReg Reg.RST_CAUSE (BitVec.ofNat 32 (2 ^ cause))).setFld Reg.RST_STAT 5 5 (b2n warn)).hold 1

theorem coldReset_eq (cause : Nat) (cut : Fin 8) (s : State) :
    coldReset cause cut s = coldStart cause s.rst.bowarn (clearDoms ([1, 2] ++ workingDoms) (s.nvsCut cut)) := by
  unfold coldReset coldStart
  generalize clearDoms ([1, 2] ++ workingDoms) (s.nvsCut cut) = u
  rfl

theorem coldStart_spec (cause : Nat) (warn : Bool) (u : State) :
    (coldStart cause warn u).rst.stage = .held 1 ∧ (∀ d, (coldStart cause warn u).domSt d = u.domSt d)
      ∧ (coldStart cause warn u).reg Reg.RST_CAUSE = BitVec.ofNat 32 (2 ^ cause) ∧ (coldStart cause warn u).cnt.aon = 0
      ∧ (coldStart cause warn u).pcm = u.pcm ∧ (coldStart cause warn u).fus = u.fus ∧ (coldStart cause warn u).rst.cores = 0 ∧ (coldStart cause warn u).rst.wdt = false := by
  unfold coldStart
  extract_lets x y z v
  have hs := (v.setReg_same Reg.RST_CAUSE (BitVec.ofNat 32 (2 ^ cause))).trans (State.setFld_same _ Reg.RST_STAT 5 5 (b2n warn))
  refine ⟨rfl, fun d => hs.domSt (by decide) d, ?_, congrArg Counts.aon (hs .cnt (by decide)), hs .pcm (by decide), hs .fus (by decide), rfl, rfl⟩
  rw [State.hold_reg, (State.setFld_regsBut _ _ _ _ _).reg (by decide), State.reg_setReg_self]

/-- A reset that clears AON too. -/
theorem coldReset_spec (s : State) (cause : Nat) (cut : Fin 8) :
    (coldReset cause cut s).rst.stage = .held 1 ∧ (∀ d < 41, 1 ≤ d → (coldReset cause cut s).domSt d = .down)
      ∧ (coldReset cause cut s).reg Reg.RST_CAUSE = BitVec.ofNat 32 (2 ^ cause) ∧ (coldReset cause cut s).cnt.aon = 0
      ∧ (coldReset cause cut s).pcm = s.pcm ∧ (coldReset cause cut s).fus = s.fus ∧ (coldReset cause cut s).rst.cores = 0 ∧ (coldReset cause cut s).rst.wdt = false := by
  obtain ⟨d1, d2, -, -, -, d4, -⟩ := clearDoms_down (l := [1, 2] ++ workingDoms) (fun h => by simpa using mem_allButAon.mp h) ((s.nvsCut_storeStep cut).aon)
  obtain ⟨h1, h2, h3, h4, h5, h6, h7, h8⟩ := coldStart_spec cause s.rst.bowarn (clearDoms ([1, 2] ++ workingDoms) (s.nvsCut cut))
  rw [coldReset_eq]
  exact ⟨h1, fun d hd h0 => (h2 d).trans (d4 d (mem_allButAon.mpr ⟨h0, hd⟩)), h3, h4, h5.trans d1, h6.trans d2, h7, h8⟩

/-! ## The statement -/

/-- The sources that run a warm reset: some keep an event for the start that follows. -/
theorem exec_warm {s : State} {cut : Fin 8} {j : Instr} {cause : Nat}
    (h : j = .brownoutCore false cut ∧ cause = 2 ∨ j = .brownoutCore true cut ∧ cause = 3 ∨ j = .resetNAssert cut ∧ cause = 4
      ∨ (j = .watchdogExpiry cut ∧ s.rst.wdt = true ∧ 1000 * max 1 (s.fld Reg.RST_WDT_CFG 15 0) ≤ s.since s.rst.kickAt ∧ cause = 5)
      ∨ (j = .startTimeout cut ∧ s.rst.stage = .run ∧ s.rbit Reg.RST_STAT 4 = false ∧ 2000000 ≤ s.since s.rst.ctlAt ∧ cause = 6)
      ∨ (∃ who, j = .all who 0xA5 cut ∧ reaches s who Reg.RST_SW = true ∧ cause = 7)
      ∨ (∃ loss, j = .clockFailure loss ∧ loss.lost ≠ 0 ∧ s.fld Reg.CLK_STAT 6 3 = 15 ∧ cause = 9)
      ∨ (j = .lockUp cut ∧ s.up 3 = true ∧ cause = 10)
      ∨ (∃ d, j = .separatorTimeout d cut ∧ s.domSt (domIx d) = .isolating ∧ max 1 (s.fld Reg.RST_SEP_TMO 15 0) ≤ s.domSince (domIx d) ∧ cause = 11)) :
    (∃ c u, exec j s = .next (warmReset cause c u) ∧ SameBut [.rst] s u) ∧ ∀ who, j ≠ .exit who 0xA5 cut := by
  have hdef : ∀ code sev pay, SameBut [.rst] s (s.deferEvent code sev pay) := fun code sev pay p hp => by
    cases p <;> first | rfl | exact absurd (by decide) hp
  obtain ⟨rfl, rfl⟩ | ⟨rfl, rfl⟩ | ⟨rfl, rfl⟩ | ⟨rfl, hw, ht, rfl⟩ | ⟨rfl, hst, hok, ht, rfl⟩ | ⟨who, rfl, hr, rfl⟩ | ⟨loss, rfl, hl, hc, rfl⟩ | ⟨rfl, hu, rfl⟩ | ⟨d, rfl, hd, ht, rfl⟩ := h
  · exact ⟨⟨cut, s, rfl, SameBut.refl _ s⟩, fun _ h => nomatch h⟩
  · exact ⟨⟨cut, s, rfl, SameBut.refl _ s⟩, fun _ h => nomatch h⟩
  · exact ⟨⟨cut, s, rfl, SameBut.refl _ s⟩, fun _ h => nomatch h⟩
  · exact ⟨⟨cut, s, congrArg Host.Outcome.next (if_pos (by rw [wdtOver, hw, decide_eq_true ht]; rfl)), SameBut.refl _ s⟩, fun _ h => nomatch h⟩
  · have hover : startOver s = true := by
      rw [startOver, State.running, State.started, hst, hok, decide_eq_true ht]
      rfl
    exact ⟨⟨_, _, congrArg Host.Outcome.next (if_pos hover), hdef _ _ _⟩, fun _ h => nomatch h⟩
  · exact ⟨⟨cut, s, (next_access hr).trans (congrArg _ (if_pos (by decide))), SameBut.refl _ s⟩, fun _ h => nomatch h⟩
  · have h15 : nbits (s.reg Reg.CLK_STAT).toNat 6 3 = 15 := hc
    have hlost : (nbits (s.reg Reg.CLK_STAT).toNat 6 3 == 15 && loss.lost != 0) = true := by
      rw [h15]
      simpa using hl
    exact ⟨⟨_, _, congrArg Host.Outcome.next (if_pos hlost), hdef _ _ _⟩, fun _ h => nomatch h⟩
  · exact ⟨⟨cut, s, congrArg Host.Outcome.next (if_pos hu), SameBut.refl _ s⟩, fun _ h => nomatch h⟩
  · have hover : sepOver s (domIx d) = true := by
      rw [sepOver, hd, decide_eq_true ht]
      rfl
    exact ⟨⟨_, _, congrArg Host.Outcome.next (if_pos hover), hdef _ _ _⟩, fun _ h => nomatch h⟩

theorem exec_exit_open {s : State} {who : Who} {cut : Fin 8} (hr : reaches s who Reg.RST_RECOVER = true) (hst : s.rst.stage = .recovery) (hn : s.nvsOpen = true) :
    exec (.exit who 0xA5 cut) s = .next (exitRecovery cut s) := by
  refine (next_access hr).trans (congrArg _ ((if_pos ?_).trans (if_pos hn)))
  rw [hst]
  decide

/-- Leaving recovery mode: the reset, with the count of failed starts cleared. -/
theorem exitRecovery_spec (s : State) (cut : Fin 8) :
    let t := exitRecovery cut s
    t.rst.stage = .held 2 ∧ (∀ d < 41, 1 ≤ d → t.domSt d = .down) ∧ t.reg Reg.RST_CAUSE = s.reg Reg.RST_CAUSE ||| BitVec.ofNat 32 (2 ^ 7) ∧ t.pcm = s.pcm
      ∧ t.fus = s.fus ∧ t.rst.cores = 0 ∧ t.rst.wdt = false ∧ t.reg Reg.RST_FAILCNT = 0 ∧ t.rst.bowarn = s.rst.bowarn
      ∧ t.reg Reg.RST_STAT = s.reg Reg.RST_STAT &&& 0x20 := by
  obtain ⟨u, hu⟩ : ∃ u, u = s.writeStart.setReg Reg.RST_FAILCNT 0 := ⟨_, rfl⟩
  have hk := s.writeStart_storeStep.aon
  have hs : SameBut [.regs] s.writeStart u := hu ▸ State.setReg_same _ _ _
  have hc : u.reg Reg.RST_CAUSE = s.reg Reg.RST_CAUSE := by rw [hu, State.reg_setReg_ne _ _ (by decide), hk.reg]
  have hf : u.reg Reg.RST_FAILCNT = 0 := by rw [hu, State.reg_setReg_self]
  have hst : u.reg Reg.RST_STAT = s.reg Reg.RST_STAT := by rw [hu, State.reg_setReg_ne _ _ (by decide), hk.reg]
  have hw : u.rst.bowarn = s.rst.bowarn := congrArg Rst.bowarn ((hs .rst (by decide)).trans hk.rst)
  obtain ⟨h1, h2, h3, h4, h5, h6, h7, h8, h9, h10⟩ := warmReset_spec u 7 cut
  intro t
  have ht : t = warmReset 7 cut u := by rw [hu]; rfl
  rw [ht]
  exact ⟨h1, h2, h3.trans (by rw [hc]), (h4.trans (hs .pcm (by decide))).trans hk.pcm, (h5.trans (hs .fus (by decide))).trans hk.fus, h6, h7, h8.trans hf, h9.trans hw, h10.trans (by rw [hst])⟩

theorem exec_debugReset {s : State} (h : bit s.sec.scopes 1 = true) : exec .debugReset s = .next (restart 0x100 true 5 (clearWorking s)) :=
  congrArg Host.Outcome.next (if_pos h)

/-- Settles O49. -/
theorem resetsHoldTheDomains : Obligations.ResetsHoldTheDomains := by
  intro s
  refine ⟨fun cut j cause hj => ?warm, fun cut j cause hj => ?cold, fun who key cut hk => ⟨fun hr => ?allKey, fun hr => ?exitKey⟩,
    fun who cut hr hst hn => ?exitWaits, fun hb => ?debug⟩
  case warm =>
    rw [← or_assoc, ← or_assoc, ← or_assoc, ← or_assoc, ← or_assoc, ← or_assoc, ← or_assoc, ← or_assoc] at hj
    obtain h | ⟨who, rfl, hr, hst, hn, rfl⟩ := hj
    · simp only [or_assoc] at h
      obtain ⟨⟨c, u, he, hu⟩, hx⟩ := exec_warm h
      obtain ⟨h1, h2, h3, h4, h5, h6, h7, -⟩ := warmReset_spec u cause c
      exact ⟨_, he, h1, h2, h3.trans (by rw [hu.reg]), h4.trans (hu .pcm (by decide)), h5.trans (hu .fus (by decide)), h6, h7, fun who h => absurd h (hx who)⟩
    · obtain ⟨h1, h2, h3, h4, h5, h6, h7, h8, -⟩ := exitRecovery_spec s cut
      exact ⟨_, exec_exit_open hr hst hn, h1, h2, h3, h4, h5, h6, h7, fun _ _ => h8⟩
  case cold =>
    obtain ⟨rfl, rfl⟩ | ⟨rfl, rfl⟩ := hj
    · exact ⟨_, rfl, coldReset_spec s 0 cut⟩
    · exact ⟨_, rfl, coldReset_spec s 1 cut⟩
  case allKey => exact (next_access hr).trans (congrArg _ (if_neg (by simpa using hk)))
  case exitKey => exact (next_access hr).trans (congrArg _ (if_neg (by rw [beq_false_of_ne hk]; exact Bool.false_ne_true)))
  case exitWaits =>
    refine (next_access hr).trans (congrArg _ ((if_pos ?_).trans (if_neg (by simp [hn]))))
    rw [hst]
    decide
  case debug =>
    obtain ⟨d1, d2, -, -, d3, d4, d5⟩ := clearDoms_down (l := workingDoms) (fun h => by simpa using mem_workingDoms.mp h) (AonKept.refl s)
    obtain ⟨h1, -, h3, h4, h5, h6, -⟩ := restart_spec 0x100 true 5 (clearWorking s)
    refine ⟨_, exec_debugReset hb, h6, fun d hd h3 => ?_, ?_, ?_, h1.trans ?_, h3.trans d1, h4.trans d2⟩
    · exact (h5 d).trans (d4 d (mem_workingDoms.mpr ⟨h3, hd⟩))
    · exact (h5 1).trans (d5 1 fun h => by simpa using mem_workingDoms.mp h)
    · exact (h5 2).trans (d5 2 fun h => by simpa using mem_workingDoms.mp h)
    · rw [show (clearWorking s).reg Reg.RST_CAUSE = s.reg Reg.RST_CAUSE from d3 _ (by decide) (by decide)]
      rfl

end Sys2Proof.Machine
end

section
/-!
PROOFS. The start sequence: its steps, the records it reads and writes, and the brown-out warning (R413, R423 to R431).
-/
set_option Elab.async false

namespace Sys2Proof.Machine

/-! ## Reads of the store without an injected error -/

theorem State.nvsCorrected_same (s : State) : SameBut [.regs, .ev, .hostMem] s s.nvsCorrected := by
  have h : SameBut [.regs, .ev, .hostMem] s (s.incReg Reg.NVS_ECC_CNT 1) := (s.incReg_same _ _).mono (by decide)
  unfold State.nvsCorrected
  refine sameBut_ite (h.trans ?_) h
  unfold State.raiseOnce
  exact sameBut_ite (SameBut.refl _ _) (((State.raise_same _ _ _ _ _).mono (by decide)).then (State.withEv_same _ _))

theorem State.nvsUncorrectable_same (s : State) (reader g : Nat) : SameBut [.regs, .ev, .hostMem] s (s.nvsUncorrectable reader g) :=
  (((s.incReg_same _ _).mono (by decide)).then (State.setReg_same _ _ _)).then (State.raise_same _ _ _ _ _)

theorem State.nvsRead_same {s : State} (h : s.pertAt 0x94 = none) (reader off len : Nat) : SameBut [.regs, .ev, .hostMem] s (s.nvsRead reader off len) := by
  unfold State.nvsRead
  rw [h]
  exact SameBut.foldl (fun t e => sameBut_ite (t.nvsUncorrectable_same _ _) t.nvsCorrected_same) _ _

theorem State.abRead_same {s : State} (h : s.pertAt 0x94 = none) (r : AbReg) : SameBut [.regs, .ev, .hostMem] s (s.abRead r).1 := by
  have h1 := State.nvsRead_same h 3 r.offA (16 + r.max)
  have hp : (s.nvsRead 3 r.offA (16 + r.max)).pertAt 0x94 = none := by rwa [State.pertAt, h1 .pert (by decide)]
  have h2 := h1.trans (State.nvsRead_same hp 3 r.offB (16 + r.max))
  unfold State.abRead
  dsimp only
  split
  · exact h2
  · exact h2.then (State.raise_same _ _ _ _ _)

theorem State.pertAt_congr {s t : State} (h : t.pert = s.pert) (a : Nat) : t.pertAt a = s.pertAt a := by
  unfold State.pertAt
  rw [h]

/-- Which copy of a record is read depends on the store and the injected error alone. -/
theorem State.abChoose_congr {s t : State} (hm : t.mem.nvs = s.mem.nvs) (hp : t.pert = s.pert) (r : AbReg) : t.abChoose r = s.abChoose r := by
  unfold State.abChoose State.nvsUnc State.nvsErrs State.pertAt
  rw [hm, hp]

theorem State.abRead_snd (s : State) (r : AbReg) : (s.abRead r).2 = s.abChoose r := rfl

/-! ## Steps of a start -/

/-- A step of a start keeps the brown-out warning and its status bit, and the store's readiness, and only adds to the log. -/
structure StartStep (s t : State) : Prop where
  warn : t.rst.bowarn = s.rst.bowarn
  stat : t.rbit Reg.RST_STAT 5 = s.rbit Reg.RST_STAT 5
  ready : t.nvs.ready = s.nvs.ready
  log : LogGrows s t

theorem StartStep.trans {s t u : State} (h : StartStep s t) (k : StartStep t u) : StartStep s u :=
  ⟨k.warn.trans h.warn, k.stat.trans h.stat, k.ready.trans h.ready, h.log.trans k.log⟩

theorem StoreStep.start {s t : State} (h : StoreStep s t) : StartStep s t :=
  ⟨congrArg Rst.bowarn h.aon.rst, by unfold State.rbit; rw [h.aon.reg], h.ready, h.log⟩

/-- A change of the state of resets alone, the warning kept. -/
theorem StartStep.of_rst {s t : State} (h : SameBut [.rst] s t) (hw : t.rst.bowarn = s.rst.bowarn) : StartStep s t :=
  ⟨hw, (h.regsBut []).rbit List.not_mem_nil 5, congrArg NvsSt.ready (h .nvs (by decide)), h.logGrows⟩

theorem State.setReg_startStep (s : State) {a : Nat} (v : W32) (h : a ≠ Reg.RST_STAT) : StartStep s (s.setReg a v) :=
  ⟨rfl, (s.setReg_regsBut a v).rbit (by simpa using h.symm) 5, rfl, (s.setReg_same a v).logGrows⟩

/-- Bits of RST_STAT but bit 5 are set. -/
theorem State.orStat_startStep (s : State) {m : Nat} (h : m.testBit 5 = false) : StartStep s (s.orReg Reg.RST_STAT m) :=
  ⟨rfl, by rw [State.rbit_orReg_self _ _ _ _ (by decide), h, Bool.or_false], rfl, (s.orReg_same _ m).logGrows⟩

theorem State.release_same (s : State) (d : Nat) : SameBut [.rst] s (s.release d) := by
  unfold State.release
  split
  · exact s.setDom_same _ _
  · exact s.setDom_same _ _

theorem State.release_rst (s : State) (d : Nat) : (s.release d).rst.bowarn = s.rst.bowarn ∧ (s.release d).rst.stage = s.rst.stage := by
  unfold State.release
  split
  · exact ⟨rfl, rfl⟩
  · exact ⟨rfl, rfl⟩

theorem State.release_domSt {s : State} {d a b : Nat} (h : blockBit d = some (a, b)) : (s.release d).domSt d = if s.rbit a b then .inReset else .run := by
  unfold State.release
  rw [h]
  exact State.domSt_setDom_self _ _ _

theorem State.release_domSt_ne (s : State) {d e : Nat} (h : e ≠ d) : (s.release d).domSt e = s.domSt e := by
  unfold State.release
  split
  · exact State.domSt_setDom_ne _ _ h
  · exact State.domSt_setDom_ne _ _ h

theorem enterRecovery_spec (s : State) : (enterRecovery s).rst.stage = .recovery ∧ (enterRecovery s).rst.fault = true ∧ StartStep s (enterRecovery s)
    ∧ (enterRecovery s).ev = s.ev := by
  have h1 : StartStep s ((s.orReg Reg.RST_STAT 8).orReg Reg.CLK_STAT 0x41) :=
    (s.orStat_startStep (by decide)).trans (State.setReg_startStep _ _ (by decide))
  have h2 := h1.trans (.of_rst (State.release_same _ 6) (State.release_rst _ 6).1)
  have hev : (((s.orReg Reg.RST_STAT 8).orReg Reg.CLK_STAT 0x41).release 6).ev = s.ev := (State.release_same _ 6) .ev (by decide)
  exact ⟨rfl, rfl, ⟨h2.warn, h2.stat, h2.ready, h2.log⟩, hev⟩

theorem State.raiseRec_storeStep (s : State) (e : EvRec) : StoreStep s (s.raiseRec e) := by
  refine (s.raiseRec_same e).storeStep (s.raiseRec_same e).regsFrom (s.raiseRec_same e).regsFrom ?_
  obtain ⟨l, hl, -⟩ := s.raiseRec_log e
  exact ⟨e :: l, by rw [hl, List.cons_append]⟩

/-- The events kept from before a reset are raised. -/
theorem State.startEvents_startStep (s : State) (count : Nat) : StartStep s (s.startEvents count) := by
  unfold State.startEvents
  extract_lets s1 x s2
  have h1 : StartStep s s1 := (StoreStep.foldl (fun t e => t.raiseRec_storeStep e) _ _).start
  have h2 : StartStep s s2 := h1.trans ⟨rfl, rfl, rfl, ⟨[], rfl⟩⟩
  split
  · exact h2.trans (s2.raise_storeStep _ _ _ _).start
  · exact h2

/-! ## Step 4 -/

/-- The trim that step 4 loads, with its event where there is none. -/
def trimLoaded (s : State) : State := match (s.abRead abTrim).2.payload with
  | none => ((s.abRead abTrim).1.orReg Reg.RST_STAT 4).raise 0x0705 1 0x500 0
  | some _ => (s.abRead abTrim).1

theorem trimLoaded_startStep (s : State) : StartStep s (trimLoaded s) := by
  have h := (s.abRead_storeStep abTrim).start
  unfold trimLoaded
  split
  · exact (h.trans (State.orStat_startStep _ (by decide))).trans (State.raise_storeStep _ _ _ _ _).start
  · exact h

theorem trimLoaded_same {s : State} (h : s.pertAt 0x94 = none) : SameBut [.regs, .ev, .hostMem] s (trimLoaded s) := by
  have h1 := State.abRead_same h abTrim
  unfold trimLoaded
  split
  · exact (h1.then (State.orReg_same _ _ _)).then (State.raise_same _ _ _ _ _)
  · exact h1

theorem trimLoaded_failcnt (s : State) : (trimLoaded s).fld Reg.RST_FAILCNT 7 0 = s.fld Reg.RST_FAILCNT 7 0 := by
  have h : (s.abRead abTrim).1.reg Reg.RST_FAILCNT = s.reg Reg.RST_FAILCNT := (s.abRead_storeStep abTrim).aon.reg
  unfold trimLoaded State.fld
  split
  · rw [State.raise_reg, (State.orReg_regsBut _ _ _).reg (by decide), h]
  · rw [h]

/-- The failed starts that step 4 finds. -/
def failedStarts (s : State) : Nat := max ((trimLoaded s).fld Reg.RST_FAILCNT 7 0) (startFields ((trimLoaded s).abRead abStart).2).1

/-- Without an injected read error the count is that of the store's own record. -/
theorem failedStarts_eq {s : State} (h : s.pertAt 0x94 = none) :
    failedStarts s = max (s.fld Reg.RST_FAILCNT 7 0) (startFields (s.abChoose abStart)).1 := by
  have hs := trimLoaded_same h
  rw [failedStarts, trimLoaded_failcnt, State.abRead_snd, State.abChoose_congr (hs .nvsMem (by decide)) (hs .pert (by decide))]

/-- The state in which step 4 decides: trim and record read, the events of before raised, the trim valid. -/
def decided (s : State) : State :=
  let s3 := (((trimLoaded s).abRead abStart).1.startEvents (failedStarts s)).orReg Reg.RST_STAT 1
  { s3 with rst := { s3.rst with split := ((s.abRead abTrim).2.payload.map trimSplit).getD false } }

theorem decided_startStep (s : State) : StartStep s (decided s) := by
  have h := (((trimLoaded_startStep s).trans ((trimLoaded s).abRead_storeStep abStart).start).trans (State.startEvents_startStep _ (failedStarts s))).trans
    (State.orStat_startStep _ (m := 1) (by decide))
  exact h.trans ⟨rfl, rfl, rfl, ⟨[], rfl⟩⟩

theorem step4_eq (s : State) : step4 s =
    let f := startFields ((trimLoaded s).abRead abStart).2
    if failedStarts s < 3 then
      let s6 := ((decided s).abWriteNow abStart ((trimLoaded s).abRead abStart).2 (startPayload (f.1 + 1) 0 (f.2 + 1))).setReg Reg.RST_FAILCNT (BitVec.ofNat 32 ((failedStarts s + 1) % 256))
      { s6 with rst := { s6.rst with stage := .pll } }
    else
      (enterRecovery (((decided s).abWriteNow abStart ((trimLoaded s).abRead abStart).2 (startPayload f.1 1 (f.2 + 1))).setReg Reg.RST_FAILCNT (BitVec.ofNat 32 (failedStarts s % 256)))).raise 0x0707 3
        0x500 (f.1 % 256 + 2 ^ 32 * ((f.2 + 1) % 2 ^ 32)) := by
  unfold step4
  rfl

/-- The start goes to another stage. -/
theorem StartStep.toStage {s t : State} (h : StartStep s t) (x : Stage) : StartStep s { t with rst := { t.rst with stage := x } } :=
  ⟨h.warn, h.stat, h.ready, h.log⟩

/-- Step 4 goes on to the PLLs, or after three failed starts to recovery mode. -/
theorem step4_spec (s : State) : StartStep s (step4 s) ∧ (failedStarts s < 3 → (step4 s).rst.stage = .pll)
    ∧ (3 ≤ failedStarts s → (step4 s).rst.stage = .recovery ∧ RaisedAmong 0x0707 s (step4 s)) := by
  rw [step4_eq]
  generalize startFields ((trimLoaded s).abRead abStart).2 = f
  have hwrite : ∀ pay v, StartStep s (((decided s).abWriteNow abStart ((trimLoaded s).abRead abStart).2 pay).setReg Reg.RST_FAILCNT v) := fun pay v =>
    ((decided_startStep s).trans (State.abWriteNow_storeStep _ _ _ _).start).trans (State.setReg_startStep _ _ (by decide))
  dsimp only
  split
  next h =>
    exact ⟨(hwrite _ _).toStage .pll, fun _ => rfl, fun k => absurd h (by omega)⟩
  next h =>
    obtain ⟨hst, -, hr, -⟩ := enterRecovery_spec (((decided s).abWriteNow abStart ((trimLoaded s).abRead abStart).2 (startPayload f.1 1 (f.2 + 1))).setReg Reg.RST_FAILCNT (BitVec.ofNat 32 (failedStarts s % 256)))
    have h1 := (hwrite (startPayload f.1 1 (f.2 + 1)) (BitVec.ofNat 32 (failedStarts s % 256))).trans hr
    refine ⟨h1.trans (State.raise_storeStep _ _ _ _ _).start, fun k => absurd k h, fun _ => ⟨?_, h1.log.raised (State.raise_raised _ _ _ _ _)⟩⟩
    rw [State.raise_rst]
    exact hst

/-! ## The journal's resolution -/

theorem State.nvsResolve_spec (s : State) : AonKept s s.nvsResolve ∧ s.nvsResolve.nvs.ready = true ∧ LogGrows s s.nvsResolve
    ∧ (s.pertAt 0x94 = none → s.nvsResolve.pert = s.pert) := by
  have h0 := s.nvsRead_storeStep 3 0x18000 0x18000
  have hp0 : s.pertAt 0x94 = none → (s.nvsRead 3 0x18000 0x18000).pert = s.pert := fun hn => State.nvsRead_same hn 3 0x18000 0x18000 .pert (by decide)
  unfold State.nvsResolve
  extract_lets s0 m z s1 p s2 x y
  have h1 : StoreStep s0 s1 ∧ s1.pert = s0.pert := by
    clear_value s0
    simp only [s1]
    split
    · exact ⟨.of_parts rfl rfl rfl rfl rfl rfl rfl rfl rfl, rfl⟩
    · split
      · refine ⟨StoreStep.trans ?_ (State.raise_storeStep _ _ _ _ _), State.raise_pert _ _ _ _ _⟩
        exact .of_parts rfl rfl rfl rfl rfl rfl rfl rfl rfl
      · exact ⟨.of_parts rfl rfl rfl rfl rfl rfl rfl rfl rfl, rfl⟩
  have h2 : StoreStep s1 s2 := s1.nvsRead_storeStep 3 0xF000 0x1000
  have hp2 : s1.pertAt 0x94 = none → s2.pert = s1.pert := fun hn => State.nvsRead_same hn 3 0xF000 0x1000 .pert (by decide)
  have h := (StoreStep.trans h0 h1.1).trans h2
  have hp : s.pertAt 0x94 = none → s2.pert = s.pert := fun hn =>
    have h3 : s1.pert = s.pert := h1.2.trans (hp0 hn)
    (hp2 ((State.pertAt_congr h3 _).trans hn)).trans h3
  clear_value p s2
  exact ⟨⟨h.aon.pcm, h.aon.fus, h.aon.rst, h.aon.aon, h.aon.regs⟩, rfl, h.log, hp⟩

/-- Events raised after the log has grown are among those raised since. -/
theorem LogGrows.among {s t u : State} {code : Nat} (h : LogGrows s t) (k : RaisedAmong code t u) : RaisedAmong code s u := by
  obtain ⟨l, hl⟩ := h
  obtain ⟨m, hm, e, he, hc⟩ := k
  exact ⟨m ++ l, by rw [hm, hl, List.append_assoc], e, List.mem_append_left _ he, hc⟩

theorem exec_journalResolve {s : State} (hu : s.up 2 = true) (hr : s.nvs.ready = false) : exec .journalResolve s = .next (resolved s.nvsResolve).nvsGo := by
  show (if !(s.up 2) || s.nvs.ready then _ else _) = _
  rw [hu, hr]
  rfl

theorem resolved_failed {s : State} (hst : s.rst.stage = .journal) (hf : s.rbit Reg.RST_STAT 1 = true) :
    resolved s = enterRecovery (s.startEvents (s.fld Reg.RST_FAILCNT 7 0)) := by
  unfold resolved
  rw [hst]
  exact if_pos hf

theorem resolved_step4 {s : State} (hst : s.rst.stage = .journal) (hf : s.rbit Reg.RST_STAT 1 = false) : resolved s = tryStep4 s := by
  unfold resolved
  rw [hst]
  exact if_neg (by rw [hf]; decide)

/-- What JOURNAL_RESOLVE does to a start at its step 3. -/
theorem journalResolve_spec {s : State} (hst : s.rst.stage = .journal) :
    (resolved s.nvsResolve).nvsGo.nvs.ready = true
    ∧ (s.rbit Reg.RST_STAT 1 = true → (resolved s.nvsResolve).nvsGo.rst.stage = .recovery ∧ (resolved s.nvsResolve).nvsGo.rst.fault = true)
    ∧ (s.rbit Reg.RST_STAT 1 = false → s.rst.bowarn = true → (resolved s.nvsResolve).nvsGo.rst.stage = .blocked)
    ∧ (∀ count, s.rbit Reg.RST_STAT 1 = false → s.rst.bowarn = false → s.pertAt 0x94 = none →
      count = max (s.fld Reg.RST_FAILCNT 7 0) (startFields (s.nvsResolve.abChoose abStart)).1 →
      (count < 3 → (resolved s.nvsResolve).nvsGo.rst.stage = .pll)
        ∧ (3 ≤ count → (resolved s.nvsResolve).nvsGo.rst.stage = .recovery ∧ RaisedAmong 0x0707 s (resolved s.nvsResolve).nvsGo)) := by
  obtain ⟨hk, hready, hlog, hpert⟩ := s.nvsResolve_spec
  have hst' : s.nvsResolve.rst.stage = .journal := by rw [hk.rst, hst]
  have hbit : s.nvsResolve.rbit Reg.RST_STAT 1 = s.rbit Reg.RST_STAT 1 := by
    unfold State.rbit
    rw [hk.reg]
  have hgo := (resolved s.nvsResolve).nvsGo_storeStep
  rw [hgo.ready, hgo.aon.rst]
  refine ⟨?_, fun hf => ?_, fun hf hw => ?_, fun count hf hw hp hc => ?_⟩
  · by_cases hf : s.rbit Reg.RST_STAT 1 = true
    · obtain ⟨-, -, h, -⟩ := enterRecovery_spec (s.nvsResolve.startEvents (s.nvsResolve.fld Reg.RST_FAILCNT 7 0))
      rw [resolved_failed hst' (hbit.trans hf), h.ready, (State.startEvents_startStep _ _).ready, hready]
    · rw [resolved_step4 hst' (hbit.trans (Bool.eq_false_iff.mpr hf)), tryStep4]
      split
      · exact hready
      · rw [(step4_spec _).1.ready, hready]
  · rw [resolved_failed hst' (hbit.trans hf)]
    exact ⟨rfl, rfl⟩
  · rw [resolved_step4 hst' (hbit.trans hf), tryStep4, if_pos (by rw [hk.rst, hw])]
  · have hn : s.nvsResolve.pertAt 0x94 = none := by rwa [State.pertAt, hpert hp]
    have hcount : failedStarts s.nvsResolve = count := by
      rw [failedStarts_eq hn, hc]
      unfold State.fld
      rw [hk.reg]
    rw [resolved_step4 hst' (hbit.trans hf), tryStep4, if_neg (by rw [hk.rst, hw]; decide)]
    rw [resolved_step4 hst' (hbit.trans hf), tryStep4, if_neg (by rw [hk.rst, hw]; decide)] at hgo
    obtain ⟨-, h1, h2⟩ := step4_spec s.nvsResolve
    rw [hcount] at h1 h2
    exact ⟨h1, fun h => ⟨(h2 h).1, (RaisedAmong.grows (hlog.among (h2 h).2) hgo.log)⟩⟩

/-! ## The first and the later steps -/

theorem State.release_reg (s : State) (d a : Nat) : (s.release d).reg a = s.reg a := (s.release_same d).reg (by decide) a

theorem exec_resetRelease {s : State} {r : Nat} (h : s.rst.stage = .held r) : exec .resetRelease s = .next
    (if r = 5 then
      let s1 := (s.setDom 0 .run).startFault
      let s2 := if s1.rbit Reg.RST_STAT 3 then enterRecovery s1 else { s1 with rst := { s1.rst with stage := .pll } }
      s2.raise 0x0702 1 0x500 ((s2.reg Reg.RST_CAUSE).toNat + 2 ^ 32 * s2.fld Reg.RST_FAILCNT 7 0)
    else
      let s1 := (s.setDom 0 .run).startFault
      { s1.setDom 1 .run with rst := { (s1.setDom 1 .run).rst with stage := .fuse } }) := by
  show execResetRelease s = _
  unfold execResetRelease
  rw [h]

/-- A start from step 5 goes on to the PLLs, or back to recovery mode. -/
theorem resetRelease_five (s : State) (n : Nat) :
    let s1 := (s.setDom 0 .run).startFault
    let s2 := if s1.rbit Reg.RST_STAT 3 then enterRecovery s1 else { s1 with rst := { s1.rst with stage := .pll } }
    (s2.raise 0x0702 1 0x500 n).domSt 0 = .run ∧ (s2.raise 0x0702 1 0x500 n).rst.stage = (if s.rbit Reg.RST_STAT 3 then .recovery else .pll)
      ∧ Raised 0x0702 s (s2.raise 0x0702 1 0x500 n) := by
  intro s1 s2
  have hdom : s1.domSt 0 = .run := State.domSt_setDom_self s 0 .run
  have hev : s1.ev = s.ev := rfl
  have hbit : s1.rbit Reg.RST_STAT 3 = s.rbit Reg.RST_STAT 3 := rfl
  have h2 : s2.domSt 0 = .run ∧ s2.rst.stage = (if s.rbit Reg.RST_STAT 3 then .recovery else .pll) ∧ s2.ev = s.ev := by
    simp only [s2]
    rw [hbit]
    clear_value s1
    split
    · obtain ⟨hst, -, -, he⟩ := enterRecovery_spec s1
      exact ⟨(State.release_domSt_ne _ (by decide)).trans hdom, hst, he.trans hev⟩
    · exact ⟨hdom, rfl, hev⟩
  clear_value s2
  exact ⟨((s2.raise_same _ _ _ _).domSt (by decide) 0).trans h2.1, (congrArg Rst.stage (State.raise_rst _ _ _ _ _)).trans h2.2.1, raised_of_ev h2.2.2 _ _ _ _⟩

/-- The fuse load's retried rows are reported. -/
def fuseRetried (retries : List (BitVec 16 × Fin 4)) (s : State) : State :=
  retries.foldl (fun t r => t.raise 0x0703 1 0x500 (r.1.toNat + 2 ^ 16 * r.2.val)) s

/-- The fuse load's outcome: a failed row is reported, and NVSC released. -/
def fuseLoaded (failed : Option (BitVec 16)) (s : State) : State :=
  (match failed with
  | none => s
  | some row => (s.orReg Reg.RST_STAT 2).raise 0x0704 3 0x500 row.toNat).release 2

theorem fuseFailed_spec (s : State) (n : Nat) : RegsBut [Reg.RST_STAT] s ((s.orReg Reg.RST_STAT 2).raise 0x0704 3 0x500 n)
    ∧ ((s.orReg Reg.RST_STAT 2).raise 0x0704 3 0x500 n).rbit Reg.RST_STAT 1 = true ∧ Raised 0x0704 s ((s.orReg Reg.RST_STAT 2).raise 0x0704 3 0x500 n) := by
  obtain ⟨h1, h2, h3, -⟩ := refused_spec (s := s) Reg.RST_STAT 2 0x0704 3 0x500 n
  refine ⟨h3, ?_, h2⟩
  have h := State.rbit_orReg_self s Reg.RST_STAT 2 1 (by decide)
  rw [State.rbit, State.raise_reg]
  exact h.trans (by rw [show Nat.testBit 2 1 = true from rfl, Bool.or_true])

theorem fuseLoaded_spec (failed : Option (BitVec 16)) (s : State) :
    (fuseLoaded failed s).domSt 2 = (if s.rbit Reg.RST_BLK 0 then .inReset else .run)
      ∧ ∀ row, failed = some row → (fuseLoaded failed s).rbit Reg.RST_STAT 1 = true ∧ Raised 0x0704 s (fuseLoaded failed s) := by
  unfold fuseLoaded
  cases failed with
  | none => exact ⟨State.release_domSt (b := 0) rfl, fun row h => nomatch h⟩
  | some row =>
    obtain ⟨h1, h2, h3⟩ := fuseFailed_spec s row.toNat
    dsimp only
    generalize (s.orReg Reg.RST_STAT 2).raise 0x0704 3 0x500 row.toNat = u at h1 h2 h3 ⊢
    have hu := u.release_same 2
    refine ⟨(State.release_domSt (b := 0) rfl).trans (by rw [h1.rbit (by decide)]), fun _ _ => ⟨((hu.regsBut []).rbit List.not_mem_nil 1).trans h2, ?_⟩⟩
    rwa [Raised, show (u.release 2).ev = u.ev from hu .ev (by decide)]

theorem exec_fuseLoadComplete {s : State} (h : s.rst.stage = .fuse) (retries : List (BitVec 16 × Fin 4)) (failed : Option (BitVec 16)) :
    exec (.fuseLoadComplete retries failed) s =
      .next { fuseLoaded failed (fuseRetried retries s) with rst := { (fuseLoaded failed (fuseRetried retries s)).rst with stage := .journal } } := by
  show execFuseLoadComplete retries failed s = _
  unfold execFuseLoadComplete
  rw [if_neg (not_not.mpr h)]
  rfl

/-! ## The PLLs -/

theorem pllLock_spec (s : State) : let t := (((s.orReg Reg.CLK_STAT 0x79).release 4).release 5).release 6
    t.reg Reg.CLK_STAT = s.reg Reg.CLK_STAT ||| 0x79 ∧ ∀ d, d = 4 ∨ d = 5 ∨ d = 6 → t.domSt d = if s.rbit Reg.RST_BLK (d - 2) then .inReset else .run := by
  intro t
  have hreg : ∀ a, t.reg a = (s.orReg Reg.CLK_STAT 0x79).reg a := fun a =>
    ((State.release_reg _ 6 a).trans (State.release_reg _ 5 a)).trans (State.release_reg _ 4 a)
  have hblk : ∀ (u : State), (∀ a, u.reg a = (s.orReg Reg.CLK_STAT 0x79).reg a) → ∀ b, u.rbit Reg.RST_BLK b = s.rbit Reg.RST_BLK b := fun u hu b => by
    unfold State.rbit
    rw [hu, (State.orReg_regsBut _ _ _).reg (by decide)]
  refine ⟨(hreg _).trans (State.reg_orReg_self _ _ _), ?_⟩
  rintro d (rfl | rfl | rfl)
  · rw [State.release_domSt_ne _ (by decide), State.release_domSt_ne _ (by decide), State.release_domSt (a := Reg.RST_BLK) (b := 2) rfl, hblk _ fun _ => rfl]
  · rw [State.release_domSt_ne _ (by decide), State.release_domSt (a := Reg.RST_BLK) (b := 3) rfl, hblk _ fun a => State.release_reg _ 4 a]
  · rw [State.release_domSt (a := Reg.RST_BLK) (b := 4) rfl, hblk _ fun a => (State.release_reg _ 5 a).trans (State.release_reg _ 4 a)]

/-! ## The bundle -/

theorem State.reservesSet_storeStep (s : State) : StoreStep s s.reservesSet := by
  unfold State.reservesSet
  extract_lets n gap s1 x
  have h1 : StoreStep s s1 := StoreStep.foldl (fun t c => t.putReserve_storeStep _ _) _ _
  clear_value s1
  exact StoreStep.trans (t := { s1 with prs := { s1.prs with gap := gap } }) (h1.trans (.of_parts rfl rfl rfl rfl rfl rfl rfl rfl rfl)) (State.sparesHealth_storeStep _)

theorem startTasks_storeStep (s : State) : StoreStep s (startTasks s) := by
  unfold startTasks
  extract_lets s1 s2 s3
  have h1 : StoreStep s s1 :=
    ((StoreStep.foldl (fun t n => t.abRead_storeStep _) _ _).trans (State.nvsRead_storeStep _ _ _ _)).trans (State.nvsRead_storeStep _ _ _ _)
  have h2 : StoreStep s s2 := h1.trans (StoreStep.foldl (fun t a => storeStep_ite (t.unprogram_storeStep a) (StoreStep.refl t)) _ _)
  have h3 : StoreStep s s3 := h2.trans s2.reservesSet_storeStep
  exact h3.trans (State.setReg_storeStep _ _ _ (by decide))

theorem endPower_storeStep (result : Nat) (s : State) : StoreStep { s with rst := { s.rst with pwrCmds := [] } } (endPower result s) := by
  unfold endPower
  refine StoreStep.foldl (fun t e => ?_) _ _
  split
  · exact t.finish_storeStep _ _ _ _
  · exact StoreStep.refl t

theorem startPower_keeps (s : State) : (startPower s).rst.stage = s.rst.stage ∧ (startPower s).sec = s.sec := by
  unfold startPower
  extract_lets g x s1
  split
  · have h := endPower_storeStep 0 s1
    have hst := congrArg Rst.stage h.aon.rst
    exact ⟨hst, h.sec⟩
  · exact ⟨rfl, rfl⟩

theorem runBundle_spec (b : Bundle) (src : Nat) (s : State) : (runBundle b src s).rst.stage = .run ∧ (runBundle b src s).sec.bundle = some b := by
  unfold runBundle
  extract_lets s1 s2 x y
  clear_value s2
  obtain ⟨hst, hsec⟩ := startPower_keeps { s2 with
    sec := { s2.sec with bundle := some b }
    rst := { s2.rst with stage := .run, wdt := s2.rbit Reg.RST_WDT_CFG 16, ctlAt := s2.cnt.aon, kickAt := s2.cnt.aon } }
  have h := startTasks_storeStep (startPower { s2 with
    sec := { s2.sec with bundle := some b }
    rst := { s2.rst with stage := .run, wdt := s2.rbit Reg.RST_WDT_CFG 16, ctlAt := s2.cnt.aon, kickAt := s2.cnt.aon } })
  exact ⟨(congrArg Rst.stage h.aon.rst).trans hst, congrArg SecSt.bundle (h.sec.trans hsec)⟩

theorem bundleVerify_spec {s : State} (h : s.rst.stage = .boot) : ∃ t, exec .bundleVerify s = .next t
    ∧ (∀ o, (o = 0 ∧ bundleCheck s s.mem.qspi 0 0x800000 = 0
        ∨ o = 0x800000 ∧ bundleCheck s s.mem.qspi 0 0x800000 ≠ 0 ∧ bundleCheck s s.mem.qspi 0x800000 0x800000 = 0) →
      t.rst.stage = .run ∧ t.sec.bundle = some (bundleOf s.mem.qspi o (o / 0x800000)))
    ∧ (bundleCheck s s.mem.qspi 0 0x800000 ≠ 0 → bundleCheck s s.mem.qspi 0x800000 0x800000 ≠ 0 → t.rst.stage = .mailbox ∧ RaisedAmong 0x0B01 s t) := by
  have he : exec .bundleVerify s = execBundleVerify s := rfl
  unfold execBundleVerify at he
  rw [if_neg (not_not.mpr h)] at he
  dsimp only at he
  generalize bundleCheck s s.mem.qspi 0 0x800000 = c0 at he ⊢
  generalize bundleCheck s s.mem.qspi 0x800000 0x800000 = c1 at he ⊢
  by_cases h0 : c0 = 0
  · rw [if_pos h0] at he
    refine ⟨_, he, fun o ho => ?_, fun k => absurd h0 k⟩
    obtain ⟨rfl, -⟩ | ⟨-, hn, -⟩ := ho
    · exact runBundle_spec _ _ _
    · exact absurd h0 hn
  · rw [if_neg h0] at he
    by_cases h1 : c1 = 0
    · rw [if_pos h1] at he
      refine ⟨_, he, fun o ho => ?_, fun _ k => absurd h1 k⟩
      obtain ⟨-, hz⟩ | ⟨rfl, -, -⟩ := ho
      · exact absurd hz h0
      · exact runBundle_spec _ _ _
    · rw [if_neg h1] at he
      refine ⟨_, he, fun o ho => ?_, fun _ _ => ⟨rfl, ?_⟩⟩
      · obtain ⟨-, hz⟩ | ⟨-, -, hz⟩ := ho
        · exact absurd hz h0
        · exact absurd hz h1
      · exact (State.raise_logGrows s _ _ _ _).raised (State.raise_raised _ _ _ _ _)

/-! ## START_OK and the rollback fuses -/

theorem exec_ok {s : State} {who : Who} (hr : reaches s who Reg.RST_START = true) (h : s.rst.stage = .run) :
    exec (.ok who) s = .next (if s.rbit Reg.RST_STAT 4 then s else startOk s) := by
  refine (next_access hr).trans (congrArg _ ?_)
  rw [State.when, State.running, State.started, h]
  cases s.rbit Reg.RST_STAT 4 <;> rfl

theorem okRecord_storeStep (s : State) : StoreStep { (s.abRead abStart).1 with rst := { (s.abRead abStart).1.rst with okWait := false } } (okRecord s) :=
  State.nvsPut_storeStep _ _

theorem startOk_spec (s : State) : (startOk s).reg Reg.RST_FAILCNT = 0 ∧ (startOk s).rbit Reg.RST_STAT 4 = true
    ∧ ((s.up 2 = false ∨ s.nvs.ready = false) → (startOk s).rst.okWait = true) ∧ RaisedAmong 0x0701 s (startOk s) := by
  unfold startOk
  extract_lets s1 s2 x
  have hf : s2.reg Reg.RST_FAILCNT = 0 := by
    simp only [s2, s1]
    rw [State.raise_reg, (State.orReg_regsBut _ _ _).reg (by decide), State.reg_setReg_self]
  have hb : s2.rbit Reg.RST_STAT 4 = true := by
    simp only [s2, s1]
    rw [State.rbit, State.raise_reg]
    exact (State.rbit_orReg_self _ Reg.RST_STAT 0x10 4 (by decide)).trans (by rw [show Nat.testBit 0x10 4 = true from rfl, Bool.or_true])
  have hev : s1.ev = s.ev := ((s.setReg_same _ _).trans (State.orReg_same _ _ _)) .ev (by decide)
  have hr : Raised 0x0701 s s2 := raised_of_ev hev _ _ _ _
  clear_value s2
  split
  next hu =>
    have ha := s2.abRead_storeStep abStart
    have hk := okRecord_storeStep s2
    refine ⟨(hk.aon.reg).trans ((ha.aon.reg).trans hf), ?_, fun h => ?_, (hr.among.grows ha.log).grows hk.log⟩
    · unfold State.rbit at hb ⊢
      rw [hk.aon.reg]
      exact (congrArg (bit · 4) ha.aon.reg).trans hb
    · obtain h | h := h <;> simp [h] at hu
  next => exact ⟨hf, hb, fun _ => rfl, hr.among⟩

theorem rollbackAdvance_spec {s : State} {b : Bundle} (hb : s.sec.bundle = some b) (hst : s.rbit Reg.RST_STAT 4 = true) (ha : b.advance = true)
    (hlt : s.fus.rollback < b.rbver) (hw : s.rst.bowarn = false) : ∃ t, exec .rollbackAdvance s = .next t ∧ t.fus = { s.fus with rollback := s.fus.rollback + 1 }
      ∧ (s.fus.rollback + 1 < b.rbver → Quiet s t ∧ SameBut [.fus, .sec] s t)
      ∧ (s.fus.rollback + 1 = b.rbver → Raised 0x0B03 s t ∧ SameBut [.fus, .sec, .ev, .hostMem] s t) := by
  refine ⟨blowRollback b s, ?_, ?_⟩
  · show execRollbackAdvance s = _
    unfold execRollbackAdvance
    rw [hb]
    exact congrArg Host.Outcome.next (if_pos (by rw [State.started, hst, ha, hw, decide_eq_true hlt]; rfl))
  · unfold blowRollback
    extract_lets old n x s1 y
    have h1 : SameBut [.fus] s s1 := fun p hp => by cases p <;> first | rfl | exact absurd (by decide) hp
    have hsec : ∀ z, SameBut [.fus, .sec] s { s1 with sec := z } := fun z p hp => by cases p <;> first | rfl | exact absurd (by decide) hp
    by_cases hn : n < b.rbver
    · rw [if_pos hn]
      exact ⟨rfl, fun _ => ⟨rfl, hsec _⟩, fun h => absurd h (by omega)⟩
    · rw [if_neg hn]
      refine ⟨State.raise_fus _ _ _ _ _, fun h => absurd h hn, fun _ => ⟨?_, ((hsec _).mono (by decide)).then (State.raise_same _ _ _ _ _)⟩⟩
      refine raised_of_ev ?_ _ _ _ _
      rfl

/-! ## The brown-out warning -/

/-- The converter of a page that a calibration SAVE still has waiting. -/
def savePage (c : NvsCmd) : Option Nat := match c with
  | .page ⟨_, _, .cal m _⟩ => some m.val
  | _ => none

theorem stopSave_eq (s : State) : stopSave s = match s.nvs.queue.findSome? savePage with
    | some m => calEnd m 3 5 0 ({ s with nvs := { s.nvs with queue := s.nvs.queue.filter (fun c => (savePage c).isNone) } }.clrReg Reg.MSR_STAT 2)
    | none => s := rfl

theorem savePage_some {c : NvsCmd} {n : Nat} (h : savePage c = some n) : ∃ j m l, c = .page j ∧ j.src = .cal m l := by
  unfold savePage at h
  split at h
  next a b m l => exact ⟨_, m, l, rfl, rfl⟩
  next => exact absurd h (by simp)

theorem savePage_cal {j : PageJob} {m : Fin 4} {l : Bool} (h : j.src = .cal m l) : savePage (.page j) = some m.val := by
  obtain ⟨a, b, src⟩ := j
  obtain rfl : src = .cal m l := h
  rfl

/-- Without a waiting page of a SAVE nothing is stopped. -/
theorem stopSave_none {s : State} (h : ∀ j m l, NvsCmd.page j ∈ s.nvs.queue → j.src ≠ .cal m l) : stopSave s = s := by
  have hn : s.nvs.queue.findSome? savePage = none := by
    rw [List.findSome?_eq_none_iff]
    intro c hc
    by_contra hne
    obtain ⟨n, hn⟩ := Option.ne_none_iff_exists'.mp hne
    obtain ⟨j, m, l, rfl, hj⟩ := savePage_some hn
    exact h j m l hc hj
  rw [stopSave_eq, hn]

/-- A SAVE whose pages still wait ends with code 5. -/
theorem stopSave_some {s : State} (h : ∃ j m l, NvsCmd.page j ∈ s.nvs.queue ∧ j.src = .cal m l) :
    (stopSave s).rst = s.rst ∧ (stopSave s).reg Reg.RST_STAT = s.reg Reg.RST_STAT ∧ (stopSave s).reg Reg.MSR_CAL_STAT = 0x80000005
      ∧ (stopSave s).calBusy = false ∧ Raised 0x0804 s (stopSave s) := by
  obtain ⟨j, m, l, hq, hj⟩ := h
  have hs : ∃ n, s.nvs.queue.findSome? savePage = some n := by
    rw [← Option.ne_none_iff_exists', ne_eq, List.findSome?_eq_none_iff]
    exact fun hall => absurd (hall _ hq) (by rw [savePage_cal hj]; exact Option.some_ne_none _)
  obtain ⟨n, hn⟩ := hs
  obtain ⟨u, hu⟩ : ∃ u : State, u = { s with nvs := { s.nvs with queue := s.nvs.queue.filter (fun c => (savePage c).isNone) } } := ⟨_, rfl⟩
  have he : stopSave s = ((u.clrReg Reg.MSR_STAT 2).setReg Reg.MSR_CAL_STAT (BitVec.ofNat 32 (5 + 2 ^ 31))).raise 0x0804 1 0x600 (n + 256 * 3 + 2 ^ 16 * 5 + 2 ^ 32 * 0) := by
    rw [stopSave_eq, hn, hu]
    rfl
  have hreg : ∀ a, u.reg a = s.reg a := fun a => by rw [hu]; rfl
  have hrst : u.rst = s.rst := by rw [hu]
  have hev : u.ev = s.ev := by rw [hu]
  have hsame := (u.clrReg_same Reg.MSR_STAT 2).trans (State.setReg_same _ Reg.MSR_CAL_STAT (BitVec.ofNat 32 (5 + 2 ^ 31)))
  rw [he]
  refine ⟨?_, ?_, ?_, ?_, ?_⟩
  · rw [State.raise_rst, hsame .rst (by decide), hrst]
  · rw [State.raise_reg, (State.setReg_regsBut _ _ _).reg (by decide), (u.clrReg_regsBut _ _).reg (by decide), hreg]
  · rw [State.raise_reg, State.reg_setReg_self]
    rfl
  · rw [State.calBusy, State.rbit, State.raise_reg, (State.setReg_regsBut _ _ _).reg (by decide)]
    have h := State.rbit_clrReg_self u Reg.MSR_STAT 2 1 (by decide)
    exact h.trans (by rw [show Nat.testBit 2 1 = true from rfl, Bool.not_true, Bool.and_false])
  · refine raised_of_ev ?_ _ _ _ _
    exact (hsame .ev (by decide)).trans hev

/-- BROWNOUT_WARNING_ASSERT. -/
theorem brownoutAssert_spec (s : State) : ∃ t, exec .brownoutWarningAssert s = .next t ∧ t.rst = { s.rst with bowarn := true } ∧ t.reg Reg.RST_STAT = s.reg Reg.RST_STAT ||| 0x20
    ∧ ((∀ j m l, NvsCmd.page j ∈ s.nvs.queue → j.src ≠ .cal m l) → RegsBut [Reg.RST_STAT] s t ∧ SameBut [.rst, .regs] s t)
    ∧ ((∃ j m l, NvsCmd.page j ∈ s.nvs.queue ∧ j.src = .cal m l) → t.reg Reg.MSR_CAL_STAT = 0x80000005 ∧ t.calBusy = false ∧ Raised 0x0804 s t) := by
  obtain ⟨u, hu⟩ : ∃ u : State, u = { s with rst := { s.rst with bowarn := true } }.orReg Reg.RST_STAT 0x20 := ⟨_, rfl⟩
  have he : exec .brownoutWarningAssert s = .next (stopSave u) := by rw [hu]; rfl
  have hrst : u.rst = { s.rst with bowarn := true } := by rw [hu]; rfl
  have hq : u.nvs.queue = s.nvs.queue := by rw [hu]; rfl
  have hev : u.ev = s.ev := by rw [hu]; rfl
  have hreg : u.reg Reg.RST_STAT = s.reg Reg.RST_STAT ||| 0x20 := by rw [hu]; exact State.reg_orReg_self _ _ _
  have hbut : RegsBut [Reg.RST_STAT] s u := hu ▸ State.orReg_regsBut { s with rst := { s.rst with bowarn := true } } Reg.RST_STAT 0x20
  have hsame : SameBut [.rst, .regs] s u := by
    have h0 : SameBut [.rst, .regs] s { s with rst := { s.rst with bowarn := true } } := fun p hp => by cases p <;> first | rfl | exact absurd (by decide) hp
    exact hu ▸ h0.then (State.orReg_same _ _ _)
  refine ⟨_, he, ?_⟩
  by_cases h : ∃ j m l, NvsCmd.page j ∈ s.nvs.queue ∧ j.src = .cal m l
  · obtain ⟨h1, h2, h3, h4, h5⟩ := stopSave_some (s := u) (by rwa [hq])
    refine ⟨h1.trans hrst, h2.trans hreg, fun hn => ?_, fun _ => ⟨h3, h4, ?_⟩⟩
    · obtain ⟨j, m, l, hj, hs⟩ := h
      exact absurd hs (hn j m l hj)
    · rwa [Raised, hev] at h5
  · have hnone := stopSave_none (s := u) fun j m l hj hs => h ⟨j, m, l, hq ▸ hj, hs⟩
    rw [hnone]
    exact ⟨hrst, hreg, fun _ => ⟨hbut, hsame⟩, fun h' => absurd h' h⟩

/-- The state in which the end of the warning finds what waits. -/
def unwarned (s : State) : State := { s with rst := { s.rst with bowarn := false } }.clrReg Reg.RST_STAT 0x20

theorem unwarned_stat (s : State) : (unwarned s).rbit Reg.RST_STAT 5 = false := by
  have h := State.rbit_clrReg_self { s with rst := { s.rst with bowarn := false } } Reg.RST_STAT 0x20 5 (by decide)
  exact h.trans (by rw [show Nat.testBit 0x20 5 = true from rfl, Bool.not_true, Bool.and_false])

theorem unwarned_open (s : State) : (unwarned s).nvsOpen = (s.up 2 && s.nvs.ready) := by
  show (s.up 2 && s.nvs.ready && !false) = _
  rw [Bool.not_false, Bool.and_true]

theorem exec_unwarn (s : State) : exec .brownoutWarningDeassert s = .next (if s.rst.stage = .blocked ∧ (unwarned s).nvsOpen then (step4 (unwarned s)).nvsGo
    else if s.rst.exit && (unwarned s).nvsOpen then exitRecovery 0 (unwarned s) else (unwarned s).nvsGo) := rfl

/-- BROWNOUT_WARNING_DEASSERT. -/
theorem brownoutDeassert_spec (s : State) : ∃ t, exec .brownoutWarningDeassert s = .next t ∧ t.rst.bowarn = false ∧ t.rbit Reg.RST_STAT 5 = false
    ∧ (((s.rst.stage ≠ .blocked ∧ s.rst.exit = false) ∨ s.up 2 = false ∨ s.nvs.ready = false) → t.rst = { s.rst with bowarn := false })
    ∧ (s.up 2 = true → s.nvs.ready = true → (s.rst.stage ≠ .blocked → s.rst.exit = true → t.rst.stage = .held 2 ∧ t.reg Reg.RST_FAILCNT = 0)
      ∧ (s.rst.stage = .blocked → t.rst.stage = .pll ∨ t.rst.stage = .recovery)) := by
  have hstat := unwarned_stat s
  have hwarn : (unwarned s).rst.bowarn = false := rfl
  have hrst : (unwarned s).rst = { s.rst with bowarn := false } := rfl
  refine ⟨_, exec_unwarn s, ?_⟩
  rw [unwarned_open]
  generalize unwarned s = u at hstat hwarn hrst ⊢
  by_cases h4 : s.rst.stage = .blocked ∧ (s.up 2 && s.nvs.ready) = true
  · rw [if_pos h4]
    obtain ⟨hst, hop⟩ := h4
    rw [Bool.and_eq_true] at hop
    obtain ⟨hk, hlt, hge⟩ := step4_spec u
    have hg := (step4 u).nvsGo_storeStep
    refine ⟨(hg.start.warn.trans hk.warn).trans hwarn, (hg.start.stat.trans hk.stat).trans hstat, fun h => ?_, fun _ _ => ⟨fun hn => absurd hst hn, fun _ => ?_⟩⟩
    · obtain ⟨hn, -⟩ | hn | hn := h
      · exact absurd hst hn
      · simp [hop] at hn
      · simp [hop] at hn
    · rw [hg.aon.rst]
      exact (Nat.lt_or_ge (failedStarts u) 3).imp hlt fun h => (hge h).1
  · rw [if_neg h4]
    by_cases hx : (s.rst.exit && (s.up 2 && s.nvs.ready)) = true
    · rw [if_pos hx]
      simp only [Bool.and_eq_true] at hx
      obtain ⟨hx, hu, hr⟩ := hx
      obtain ⟨h1, -, -, -, -, -, -, h8, h9, h10⟩ := exitRecovery_spec u 0
      refine ⟨h9.trans hwarn, ?_, fun h => ?_, fun _ _ => ⟨fun _ _ => ⟨h1, h8⟩, fun hst => absurd ⟨hst, by simp [hu, hr]⟩ h4⟩⟩
      · rw [State.rbit, h10]
        rw [State.rbit] at hstat
        rw [bit_eq_getLsbD] at hstat ⊢
        rw [BitVec.getLsbD_and, hstat, Bool.false_and]
      · obtain ⟨-, hn⟩ | hn | hn := h
        · simp [hx] at hn
        · simp [hu] at hn
        · simp [hr] at hn
    · rw [if_neg hx]
      have hg := u.nvsGo_storeStep
      refine ⟨hg.start.warn.trans hwarn, hg.start.stat.trans hstat, fun _ => hg.aon.rst.trans hrst, fun hu hr => ⟨fun _ he => absurd ?_ hx, fun hst => absurd ⟨hst, by simp [hu, hr]⟩ h4⟩⟩
      simp [he, hu, hr]

/-! ## The statement -/

/-- Settles O50. -/
theorem theStartSequence : Obligations.TheStartSequence := by
  intro s
  refine ⟨fun r hr => ?release, fun hst retries failed => ?fuse, fun hu hr hst => ⟨_, exec_journalResolve hu hr, journalResolve_spec hst⟩, fun hst => ⟨?lock, ?sysclk⟩, fun hst => bundleVerify_spec hst,
    fun who hr hst => ⟨fun h4 => ?okAgain, fun h4 => ?ok⟩, fun b hb hst ha hlt hw => rollbackAdvance_spec hb hst ha hlt hw, fun who v hr => ⟨fun hv => ?kick, fun hv => ?noKick⟩,
    fun who hr => ⟨next_access hr, ?clear⟩, brownoutAssert_spec s, brownoutDeassert_spec s⟩
  case release =>
    refine ⟨_, exec_resetRelease hr, ?_⟩
    split
    next h5 =>
      obtain ⟨h1, h2, h3⟩ := resetRelease_five s _
      exact ⟨h1, fun _ => ⟨h2, h3⟩, fun h => absurd h5 h⟩
    next h5 =>
      refine ⟨?_, fun h => absurd h h5, fun _ => ⟨rfl, ?_, rfl⟩⟩
      case refine_2 => exact State.domSt_setDom_self (s.setDom 0 .run).startFault 1 .run
      exact (State.domSt_setDom_ne (s.setDom 0 .run).startFault (d := 1) (e := 0) .run (by decide)).trans (State.domSt_setDom_self s 0 .run)
  case fuse =>
    have hf : StoreStep s (fuseRetried retries s) := StoreStep.foldl (fun t r => t.raise_storeStep _ _ _ _) _ _
    obtain ⟨h1, h2⟩ := fuseLoaded_spec failed (fuseRetried retries s)
    refine ⟨_, exec_fuseLoadComplete hst retries failed, rfl, h1.trans ?_, fun row hrow => ⟨(h2 row hrow).1, ?_⟩⟩
    · rw [State.rbit, hf.aon.reg]
      rfl
    · exact hf.log.raised (h2 row hrow).2
  case lock =>
    obtain ⟨h1, h2⟩ := pllLock_spec s
    refine ⟨{ (((s.orReg Reg.CLK_STAT 0x79).release 4).release 5).release 6 with rst := { ((((s.orReg Reg.CLK_STAT 0x79).release 4).release 5).release 6).rst with stage := .boot } }, ?_, rfl, h1, h2⟩
    exact if_neg (not_not.mpr hst)
  case sysclk =>
    refine ⟨_, congrArg Host.Outcome.next (if_pos (by rw [hst]; rfl)), ?_, ?_, (s.clrReg_regsBut _ _).trans (State.raise_regsBut _ _ _ _ _ _),
      ((s.clrReg_same _ _).mono (by decide)).then (State.raise_same _ _ _ _ _)⟩
    · rw [State.rbit, State.raise_reg]
      have h := State.rbit_clrReg_self s Reg.CLK_STAT 1 0 (by decide)
      exact h.trans (by rw [show Nat.testBit 1 0 = true from rfl, Bool.not_true, Bool.and_false])
    · exact raised_of_ev (s.clrReg_same Reg.CLK_STAT 1 .ev (by decide)) _ _ _ _
  case okAgain => rw [exec_ok hr hst, if_pos h4]
  case ok => exact ⟨_, (exec_ok hr hst).trans (by rw [if_neg (by simp [h4])]), startOk_spec s⟩
  case kick => exact (next_access hr).trans (congrArg _ (if_pos (by rw [hv]; rfl)))
  case noKick => exact (next_access hr).trans (congrArg _ (if_neg (by simpa using hv)))
  case clear =>
    refine (next_access hr).trans (congrArg _ ?_)
    by_cases h : s.rst.stage = .recovery
    · rw [if_pos h]
      exact if_neg (by rw [h]; decide)
    · rw [if_neg h]
      exact if_pos (by simpa using h)

end Sys2Proof.Machine
end

section
/-!
PROOFS. Power states: targets, cores that go up and down, AON and the wake from it (R436 to R440).
-/
set_option Elab.async false

namespace Sys2Proof.Machine

/-! ## The end of a change -/

theorem State.finish_same (s : State) (q : Nat) (c : HCmd) (status result : Nat) : SameBut [.host, .ev, .hostMem] s (s.finish q c status result) := by
  have hset : ∀ (t : State) h, SameBut [.host, .ev, .hostMem] t (t.setHq q h) := fun t h p hp => by cases p <;> first | rfl | exact absurd (by decide) hp
  have h1 : SameBut [.host, .ev, .hostMem] s (s.dropCmd q c) := hset _ _
  unfold State.finish
  generalize s.dropCmd q c = u at h1 ⊢
  unfold State.endCmd
  extract_lets h s1
  have h2 : SameBut [.host, .ev, .hostMem] s s1 := h1.trans (sameBut_ite (SameBut.refl _ _) (hset _ _))
  exact sameBut_ite (h2.then (State.raise_same _ _ _ _ _)) h2

theorem endPower_same (result : Nat) (s : State) : SameBut [.host, .ev, .hostMem] { s with rst := { s.rst with pwrCmds := [] } } (endPower result s) := by
  unfold endPower
  refine SameBut.foldl (fun t e => ?_) _ _
  split
  · exact t.finish_same _ _ _ _
  · exact SameBut.refl _ _

theorem clrBusy_fld (s : State) : (s.clrReg Reg.PWR_STAT 4).fld Reg.PWR_STAT 13 8 = s.fld Reg.PWR_STAT 13 8 :=
  State.fld_congr fun i h1 h2 => by
    rw [State.rbit_clrReg_self _ _ _ _ (by omega), (show ∀ i ≤ 13, 8 ≤ i → Nat.testBit 4 i = false by decide) i h2 h1, Bool.not_false, Bool.and_true]

/-- What the end of a power change leaves as it was. -/
structure PowerKept (s t : State) : Prop where
  stage : t.rst.stage = s.rst.stage
  cores : t.rst.cores = s.rst.cores
  toAon : t.rst.toAon = s.rst.toAon
  goal : t.rst.pwrGoal = s.rst.pwrGoal
  dom : t.rst.dom = s.rst.dom
  prs : t.prs = s.prs
  fld : t.fld Reg.PWR_STAT 13 8 = s.fld Reg.PWR_STAT 13 8
  regs : ∀ a, 0x00100000 ≤ a → a < 0x00200000 → a ≠ Reg.PWR_STAT → t.reg a = s.reg a
  log : LogGrows s t

theorem PowerKept.refl (s : State) : PowerKept s s := ⟨rfl, rfl, rfl, rfl, rfl, rfl, rfl, fun _ _ _ _ => rfl, LogGrows.refl s⟩

/-- A step of the host's queues, or an event, keeps the power state. -/
theorem PowerKept.step {s t u : State} (h : PowerKept s t) (k : StoreStep t u) (hp : u.prs = t.prs) : PowerKept s u := by
  refine ⟨by rw [k.aon.rst, h.stage], by rw [k.aon.rst, h.cores], by rw [k.aon.rst, h.toAon], by rw [k.aon.rst, h.goal], by rw [k.aon.rst, h.dom], hp.trans h.prs, ?_,
    fun a ha hb hne => (k.aon.regs a ha hb).trans (h.regs a ha hb hne), h.log.trans k.log⟩
  rw [← h.fld, State.fld, State.fld, k.aon.reg]

/-- A change of the state of resets that keeps what a power change keeps. -/
theorem PowerKept.withRst {s t : State} (h : PowerKept s t) (r : Rst) (h1 : r.stage = t.rst.stage) (h2 : r.cores = t.rst.cores) (h3 : r.toAon = t.rst.toAon)
    (h4 : r.pwrGoal = t.rst.pwrGoal) (h5 : r.dom = t.rst.dom) : PowerKept s { t with rst := r } :=
  ⟨h1.trans h.stage, h2.trans h.cores, h3.trans h.toAon, h4.trans h.goal, h5.trans h.dom, h.prs, h.fld, h.regs, h.log⟩

theorem PowerKept.clrBusy {s t : State} (h : PowerKept s t) : PowerKept s (t.clrReg Reg.PWR_STAT 4) :=
  ⟨h.stage, h.cores, h.toAon, h.goal, h.dom, h.prs, (clrBusy_fld t).trans h.fld, fun a ha hb hne => (State.reg_setReg_ne _ _ hne).trans (h.regs a ha hb hne), h.log.trans ⟨[], rfl⟩⟩

/-- Waiting POWER commands end. -/
theorem PowerKept.endPower {s t : State} (h : PowerKept s t) (result : Nat) : PowerKept s (endPower result t) :=
  (h.withRst { t.rst with pwrCmds := [] } rfl rfl rfl rfl rfl).step (endPower_storeStep result t) (endPower_same result t .prs (by decide))

theorem endPower_busy (result : Nat) (s : State) : (endPower result s).rst.pwrBusy = s.rst.pwrBusy := by
  have h := congrArg Rst.pwrBusy (endPower_storeStep result s).aon.rst
  exact h

theorem pwrSettle_stays {s : State} (h : s.rst.pwrBusy = false ∨ s.rst.toAon = true ∨ s.rst.cores ≠ goalCores s.rst.pwrGoal) : pwrSettle s = s := by
  unfold pwrSettle
  rw [if_pos]
  obtain h | h | h := h <;> simp [h]

theorem pwrSettle_ends {s : State} (hb : s.rst.pwrBusy = true) (ha : s.rst.toAon = false) (hc : s.rst.cores = goalCores s.rst.pwrGoal) :
    PowerKept s (pwrSettle s) ∧ (pwrSettle s).rst.pwrBusy = false := by
  unfold pwrSettle
  rw [if_neg (by simp [hb, ha, hc])]
  dsimp only
  have hk : PowerKept s ({ s with rst := { s.rst with pwrBusy := false, waking := false } }.clrReg Reg.PWR_STAT 4) :=
    ((PowerKept.refl s).withRst { s.rst with pwrBusy := false, waking := false } rfl rfl rfl rfl rfl).clrBusy
  have hz : ({ s with rst := { s.rst with pwrBusy := false, waking := false } }.clrReg Reg.PWR_STAT 4).rst.pwrBusy = false := rfl
  generalize { s with rst := { s.rst with pwrBusy := false, waking := false } }.clrReg Reg.PWR_STAT 4 = u at hk hz ⊢
  have hr := (endPower 0 u).raiseIf_storeStep s.rst.waking 0x070C 0 0x500 ((s.reg Reg.PWR_WAKE).toNat + 2 ^ 32 * ((s.cnt.aon - s.rst.wakeAt).toNat % 2 ^ 32))
  refine ⟨(hk.endPower 0).step hr (State.raiseIf_same _ _ _ _ _ _ .prs (by decide)), ?_⟩
  rw [hr.aon.rst, endPower_busy, hz]

theorem pwrSettle_kept (s : State) : PowerKept s (pwrSettle s) := by
  by_cases h : s.rst.pwrBusy = false ∨ s.rst.toAon = true ∨ s.rst.cores ≠ goalCores s.rst.pwrGoal
  · rw [pwrSettle_stays h]
    exact PowerKept.refl s
  · simp only [not_or, Bool.not_eq_false, Bool.not_eq_true, ne_eq, not_not] at h
    exact (pwrSettle_ends h.1 h.2.1 h.2.2).1

/-! ## Targets -/

theorem exec_pwrTargetWrite {s : State} {who : Who} {v : W32} (hr : reaches s who Reg.PWR_TARGET = true) :
    exec (.pwrTargetWrite who v) s = .next (pwrSettle (powerWrite v s).1) := next_access hr

theorem powerWrite_off {s : State} (v : W32) (h : s.rst.stage ≠ .run) : (powerWrite v s).1 = s.putMasked Reg.PWR_TARGET v := by
  unfold powerWrite
  rw [if_pos h]

theorem powerWrite_refused {s : State} {v : W32} {b : Nat} (h : s.rst.stage = .run)
    (hb : pwrRefusal (s.putMasked Reg.PWR_TARGET v) ((s.putMasked Reg.PWR_TARGET v).reg Reg.PWR_TARGET) = some b) :
    (powerWrite v s).1 = pwrRefuse b (s.putMasked Reg.PWR_TARGET v) := by
  unfold powerWrite
  rw [if_neg (not_not.mpr h)]
  dsimp only
  rw [hb]

theorem powerWrite_taken {s : State} {v : W32} (h : s.rst.stage = .run)
    (hb : pwrRefusal (s.putMasked Reg.PWR_TARGET v) ((s.putMasked Reg.PWR_TARGET v).reg Reg.PWR_TARGET) = none) :
    let u := s.putMasked Reg.PWR_TARGET v
    (powerWrite v s).1 = { u with rst := { u.rst with
      pwrBusy := true
      toAon := decide (bits (u.reg Reg.PWR_TARGET) 1 0 = 0)
      pwrGoal := if bits (u.reg Reg.PWR_TARGET) 1 0 = 0 then u.rst.pwrGoal else u.reg Reg.PWR_TARGET } }.orReg Reg.PWR_STAT 4 := by
  unfold powerWrite
  rw [if_neg (not_not.mpr h)]
  dsimp only
  rw [hb]

theorem pwrRefuse_spec (b : Nat) (s : State) : (pwrRefuse b s).rbit Reg.PWR_ERR 0 = true ∧ Raised 0x070B s (pwrRefuse b s) ∧ (pwrRefuse b s).rst = s.rst := by
  obtain ⟨-, h2, -, h4⟩ := refused_spec (s := s) Reg.PWR_ERR 1 0x070B 1 0x500 ((s.reg Reg.PWR_TARGET).toNat + 2 ^ 32 * b)
  refine ⟨?_, h2, h4 .rst (by decide)⟩
  have h := State.rbit_orReg_self s Reg.PWR_ERR 1 0 (by decide)
  unfold pwrRefuse
  rw [State.rbit, State.raise_reg]
  exact h.trans (by rw [show Nat.testBit 1 0 = true from rfl, Bool.or_true])

/-! ## Cores -/

theorem State.readFx_aonKept (s : State) (sp a n port kind : Nat) : AonKept s (s.readFx sp a n port kind) :=
  (s.readFx_same sp a n port kind).aonKept' ((s.readFx_regsBut sp a n port kind).from (by decide))

theorem State.writeFx_aonKept (s : State) (sp a : Nat) (bs : List Byte) (port : Nat) : AonKept s (s.writeFx sp a bs port) :=
  (s.writeFx_same sp a bs port).aonKept' ((s.writeFx_regsBut sp a bs port).from (by decide))

theorem State.dramPut_aonKept (s : State) (a : Nat) (bs : List Byte) (port : Nat) : AonKept s (s.dramPut a bs port) := by
  unfold State.dramPut
  exact aonKept_ite (s.writeFx_aonKept _ _ _ _) ((AonKept.foldl (fun t r => t.writeFx_aonKept _ _ _ _) _ _).trans (State.raise_aonKept _ _ _ _ _))

theorem State.saveWrite_aonKept (s : State) (p : SavePart) (bs : List Byte) : AonKept s (s.saveWrite p bs) := aonKept_ite (s.dramPut_aonKept _ _ _) (AonKept.refl s)

theorem State.saveRead_aonKept (s : State) (p : SavePart) (bs : List Byte) : AonKept s (s.saveRead p bs).1 := by
  unfold State.saveRead
  dsimp only
  split
  · exact AonKept.refl s
  · exact s.readFx_aonKept _ _ _ _ _

/-- A change of the saved copies alone. -/
theorem withPsave_aonKept (s : State) (x : SaveSt) : AonKept s { s with psave := x } := ⟨rfl, rfl, rfl, rfl, RegsFrom.refl _ _ _⟩

theorem saveCore_aonKept (c : Nat) (s : State) : AonKept s (saveCore c s) := by
  have h := s.saveWrite_aonKept (corePart c) (Config.coreBytes (coreSave c s))
  unfold saveCore
  dsimp only
  generalize s.saveWrite (corePart c) (Config.coreBytes (coreSave c s)) = u at h ⊢
  exact h.trans (withPsave_aonKept u _)

theorem autoBias_aonKept (c : Nat) (s : State) : AonKept s (autoBias c s) := (autoBias_same c s).aonKept

theorem restoreCore_aonKept (c : Nat) (s : State) : AonKept s (restoreCore c s) := by
  unfold restoreCore
  split
  · exact AonKept.refl s
  · extract_lets r x s1 s2 y
    have h0 : AonKept s r.1 := s.saveRead_aonKept _ _
    have h1 : AonKept s s1 := h0.trans (AonKept.foldl (fun t e => t.setReg_aonKept _ _ (Or.inr (by unfold coreBase; omega))) _ _)
    have h2 : AonKept s s2 := h1.trans (AonKept.foldl (fun t e => t.setArr_aonKept _ _) _ _)
    clear_value s2
    exact ⟨h2.pcm, h2.fus, h2.rst, h2.aon, h2.regs⟩

/-- Setting the number of powered cores. -/
theorem State.setCores_spec (s : State) {n : Nat} (h : n < 64) : (s.setCores n).rst = { s.rst with cores := n } ∧ (s.setCores n).fld Reg.PWR_STAT 13 8 = n
    ∧ RegsBut [Reg.PWR_STAT] s (s.setCores n) := by
  have hf : ((s.setFld Reg.PWR_STAT 13 8 n).setFld Reg.PWR_STAT 1 0 (coresState n)).fld Reg.PWR_STAT 13 8 = n := by
    rw [State.fld_setFld_of_disjoint _ _ _ _ _ _ _ (by decide) (by decide) (by decide), State.fld_setFld_self _ _ _ _ _ (by decide) (by decide)]
    exact Nat.mod_eq_of_lt h
  have hr : ((s.setFld Reg.PWR_STAT 13 8 n).setFld Reg.PWR_STAT 1 0 (coresState n)).rst = s.rst := rfl
  have hb := (s.setFld_regsBut Reg.PWR_STAT 13 8 n).trans (State.setFld_regsBut _ Reg.PWR_STAT 1 0 (coresState n))
  unfold State.setCores
  generalize (s.setFld Reg.PWR_STAT 13 8 n).setFld Reg.PWR_STAT 1 0 (coresState n) = u at hf hb hr ⊢
  exact ⟨by rw [← hr], hf, hb⟩

/-- A number of cores is set and the change ends where it has come to its goal. -/
theorem settled_cores (s : State) {n : Nat} (h : n < 64) : (pwrSettle (s.setCores n)).rst.cores = n ∧ (pwrSettle (s.setCores n)).fld Reg.PWR_STAT 13 8 = n
    ∧ ∀ d, (pwrSettle (s.setCores n)).domSt d = s.domSt d := by
  obtain ⟨h1, h2, -⟩ := s.setCores_spec h
  have hk := pwrSettle_kept (s.setCores n)
  refine ⟨hk.cores.trans (by rw [h1]), hk.fld.trans h2, fun d => ?_⟩
  unfold State.domSt
  rw [hk.dom, h1]

theorem corePowerUp_spec {s : State} (hst : s.rst.stage = .run) (hb : s.rst.pwrBusy = true) (ha : s.rst.toAon = false) (c : CoreId) (hc : s.rst.cores = c.val)
    (hg : c.val < goalCores s.rst.pwrGoal) : ∃ t, exec (.corePowerUp c) s = .next t ∧ t.rst.cores = c.val + 1 ∧ t.fld Reg.PWR_STAT 13 8 = c.val + 1
      ∧ t.domSt (9 + c.val) = (if s.rbit Reg.RST_CORE c.val then .inReset else .run) := by
  obtain ⟨u, hu⟩ : ∃ u, u = s.release (9 + c.val) := ⟨_, rfl⟩
  obtain ⟨w, hw⟩ : ∃ w, w = if u.coreUp c.val then autoBias c.val (restoreCore c.val u) else u := ⟨_, rfl⟩
  have he : exec (.corePowerUp c) s = .next (pwrSettle (w.setCores (c.val + 1))) := by
    rw [hw, hu]
    exact congrArg Host.Outcome.next (if_pos (by rw [State.running, hst, hb, ha, hc, decide_eq_true hg]; simp))
  have hk : AonKept u w := hw ▸ aonKept_ite ((restoreCore_aonKept _ _).trans (autoBias_aonKept _ _)) (AonKept.refl u)
  have hlt : c.val + 1 < 64 := by have := c.isLt; omega
  obtain ⟨h1, h2, h3⟩ := settled_cores w hlt
  have hbit : blockBit (9 + c.val) = some (Reg.RST_CORE, c.val) := by
    unfold blockBit
    rw [if_neg (by omega), if_neg (by omega), Nat.add_sub_cancel_left]
  exact ⟨_, he, h1, h2, (h3 _).trans ((hk.domSt _).trans (hu ▸ State.release_domSt hbit))⟩

theorem corePowerDown_spec {s : State} (hst : s.rst.stage = .run) (hb : s.rst.pwrBusy = true) (ha : s.rst.toAon = false) (c : CoreId) (hc : s.rst.cores = c.val + 1)
    (hg : goalCores s.rst.pwrGoal ≤ c.val) :
    ((coreRefuses s c.val = true ∨ s.dramBytes = 0) → ∃ t, exec (.corePowerDown c) s = .next t ∧ t.rbit Reg.PWR_ERR 0 = true ∧ RaisedAmong 0x070B s t
        ∧ t.rst.cores = s.rst.cores ∧ t.rst.pwrBusy = false)
      ∧ (coreRefuses s c.val = false → s.dramBytes ≠ 0 → coreQuiet s c.val = false → exec (.corePowerDown c) s = .next s)
      ∧ (coreRefuses s c.val = false → s.dramBytes ≠ 0 → coreQuiet s c.val = true → ∃ t, exec (.corePowerDown c) s = .next t ∧ t.rst.cores = c.val ∧ t.domSt (9 + c.val) = .down) := by
  have hcond : (s.running && s.rst.pwrBusy && !s.rst.toAon && s.rst.cores == c.val + 1 && decide (goalCores s.rst.pwrGoal ≤ c.val)) = true := by
    rw [State.running, hst, hb, ha, hc, decide_eq_true hg]
    simp
  refine ⟨fun hr => ?_, fun hr hd hq => ?_, fun hr hd hq => ?_⟩
  · obtain ⟨b, hbb⟩ : ∃ b, b = if coreRefuses s c.val then c.val else 0xFF := ⟨_, rfl⟩
    obtain ⟨u, hu⟩ : ∃ u, u = pwrRefuse b s := ⟨_, rfl⟩
    obtain ⟨h1, h2, h3⟩ := pwrRefuse_spec b s
    rw [← hu] at h1 h2 h3
    obtain ⟨r, hrr⟩ : ∃ r : Rst, r = { u.rst with pwrBusy := false, pwrGoal := BitVec.ofNat 32 (coresState s.rst.cores + 256 * s.rst.cores) } := ⟨_, rfl⟩
    have he : exec (.corePowerDown c) s = .next (endPower 1 ({ u with rst := r }.clrReg Reg.PWR_STAT 4)) := by
      rw [hrr, hu, hbb]
      exact congrArg Host.Outcome.next ((if_pos hcond).trans (if_pos (by simpa using hr)))
    have hk := endPower_storeStep 1 ({ u with rst := r }.clrReg Reg.PWR_STAT 4)
    have hlog : LogGrows u (endPower 1 ({ u with rst := r }.clrReg Reg.PWR_STAT 4)) := LogGrows.trans ⟨[], rfl⟩ hk.log
    have hcores := congrArg Rst.cores hk.aon.rst
    refine ⟨_, he, ?_, h2.among.grows hlog, hcores.trans ?_, ?_⟩
    · rw [State.rbit, hk.aon.reg]
      exact (congrArg (bit · 0) (State.reg_setReg_ne _ _ (by decide))).trans h1
    · exact (congrArg Rst.cores hrr).trans (by rw [← h3])
    · rw [endPower_busy]
      exact congrArg Rst.pwrBusy hrr
  · exact congrArg Host.Outcome.next ((if_pos hcond).trans ((if_neg (by simp [hr, hd])).trans (if_pos (by simp [hq]))))
  · have he : exec (.corePowerDown c) s = .next (pwrSettle ((coreOff c.val s).setCores c.val)) :=
      congrArg Host.Outcome.next ((if_pos hcond).trans ((if_neg (by simp [hr, hd])).trans (if_neg (by simp [hq]))))
    obtain ⟨h1, -, h3⟩ := settled_cores (coreOff c.val s) (n := c.val) (by have := c.isLt; omega)
    exact ⟨_, he, h1, (h3 _).trans (State.domSt_setDom_self _ _ _)⟩

/-! ## AON -/

theorem mem_aonDoms {keep : Bool} {d : Nat} (hd : d < 41) (h3 : 3 ≤ d) (h5 : d ≠ 5) : d ∈ aonDoms keep := by
  unfold aonDoms
  split
  · exact List.mem_filter.mpr ⟨mem_workingDoms.mpr ⟨h3, hd⟩, by simpa using h5⟩
  · exact mem_workingDoms.mpr ⟨h3, hd⟩

theorem zero_not_aonDoms (keep : Bool) : 0 ∉ aonDoms keep := by
  unfold aonDoms
  split
  · exact fun h => by simpa using mem_workingDoms.mp (List.mem_filter.mp h).1
  · exact fun h => by simpa using mem_workingDoms.mp h

theorem State.setDom_aon (s : State) (d : Nat) (x : DomSt) : (s.setDom d x).cnt.aon = s.cnt.aon := rfl

theorem enterAon_spec (s : State) : (enterAon s).rst.stage = .aon ∧ (enterAon s).rst.cores = 0 ∧ (∀ d < 41, 1 ≤ d → (enterAon s).domSt d = .down)
    ∧ (enterAon s).cnt.aon = s.cnt.aon := by
  unfold enterAon
  extract_lets s1 x z s2 s3 y
  have h1 : AonKept s s1 := AonKept.foldl (fun t c => saveCore_aonKept c t) _ _
  have h2 : AonKept s s2 := (h1.trans (s1.saveWrite_aonKept _ _)).trans (withPsave_aonKept _ _)
  obtain ⟨-, -, -, haon, -, hdown, -⟩ := clearDoms_down (zero_not_aonDoms (s2.rbit Reg.PWR_CFG 1)) (AonKept.refl s2)
  have h3 : s3.cnt.aon = s.cnt.aon := haon.trans h2.aon
  have hd3 : ∀ d < 41, 1 ≤ d → d ≠ 2 → s3.domSt d = .down := fun d hd hge hne => by
    simp only [s3]
    by_cases hd1 : d = 1
    · rw [hd1, State.domSt_setDom_self]
    · rw [State.domSt_setDom_ne _ _ hd1]
      by_cases hd5 : d = 5
      · rw [hd5, State.domSt_setDom_self]
      · rw [State.domSt_setDom_ne _ _ hd5]
        exact hdown d (mem_aonDoms hd (by omega) hd5)
  clear_value s3
  refine ⟨rfl, rfl, fun d hd hge => ?_, h3⟩
  show (s3.setDom 2 .down).domSt d = .down
  by_cases hd2 : d = 2
  · rw [hd2, State.domSt_setDom_self]
  · rw [State.domSt_setDom_ne _ _ hd2]
    exact hd3 d hd hge hd2

theorem aonEntry_spec {s u : State} (hu : u = s.nvsGo) (hst : s.rst.stage = .run) (ha : s.rst.toAon = true) :
    (∀ b, pwrRefusal u 0 = some b → ∃ t, exec .aonEntry s = .next t ∧ t.rst.stage = .run ∧ t.rst.toAon = false ∧ RaisedAmong 0x070B s t)
      ∧ (pwrRefusal u 0 = none → u.nvs.cur = none → u.nvs.queue = [] → (∀ c < u.rst.cores, coreQuiet u c = true) →
        ∃ t, exec .aonEntry s = .next t ∧ t.rst.stage = .aon ∧ t.rst.cores = 0 ∧ (∀ d < 41, 1 ≤ d → t.domSt d = .down) ∧ t.cnt.aon = s.cnt.aon) := by
  have hk := s.nvsGo_storeStep
  have he : exec .aonEntry s = execAonEntry s := rfl
  unfold execAonEntry at he
  rw [← hu] at hk he
  dsimp only at he
  rw [if_neg (by rw [State.running, hk.aon.rst, hst, ha]; decide)] at he
  refine ⟨fun b hb => ?_, fun hn hcur hq hc => ?_⟩
  · rw [hb] at he
    dsimp only at he
    obtain ⟨-, h2, -⟩ := pwrRefuse_spec b u
    obtain ⟨r, hr⟩ : ∃ r : Rst, r = { u.rst with pwrBusy := false, toAon := false } := ⟨_, rfl⟩
    rw [← hr] at he
    have hp := endPower_storeStep 1 ({ pwrRefuse b u with rst := r }.clrReg Reg.PWR_STAT 4)
    have hstage := congrArg Rst.stage hp.aon.rst
    have haon := congrArg Rst.toAon hp.aon.rst
    refine ⟨_, he, hstage.trans ?_, haon.trans (congrArg Rst.toAon hr), (hk.log.raised h2).grows (LogGrows.trans ⟨[], rfl⟩ hp.log)⟩
    exact (congrArg Rst.stage hr).trans (by rw [hk.aon.rst, hst])
  · rw [hn] at he
    dsimp only at he
    rw [if_neg] at he
    · obtain ⟨h1, h2, h3, h4⟩ := enterAon_spec u
      exact ⟨_, he, h1, h2, h3, h4.trans hk.aon.aon⟩
    · simp only [hcur, hq, Option.isSome_none, List.isEmpty_nil, Bool.not_true, Bool.or_self, Bool.false_or, Bool.not_eq_true', Bool.not_eq_false, List.all_eq_true, List.mem_range]
      exact hc

/-! ## The wake -/

theorem wake_spec (cause : Nat) (s : State) : (wake cause s).rst.stage = .wake ∧ (wake cause s).domSt 1 = .run ∧ (wake cause s).reg Reg.PWR_WAKE = BitVec.ofNat 32 cause
    ∧ (wake cause s).rst.waking = true := by
  unfold wake
  extract_lets s1 x
  have hd : (s1.release 3).domSt 1 = .run := by
    rw [State.release_domSt_ne _ (by decide)]
    simp only [s1]
    rw [State.release_domSt_ne _ (by decide), State.domSt_setDom_self]
  have hr : (s1.release 3).reg Reg.PWR_WAKE = BitVec.ofNat 32 cause := by
    rw [State.release_reg]
    simp only [s1]
    rw [State.release_reg]
    exact State.reg_setReg_self _ _ _
  have h3 : ∀ u : State, (released 3 u).rst.stage = u.rst.stage ∧ (released 3 u).domSt 1 = u.domSt 1 ∧ (∀ a, (released 3 u).reg a = u.reg a)
      ∧ (released 3 u).rst.waking = u.rst.waking := fun u => ⟨rfl, rfl, fun _ => rfl, rfl⟩
  obtain ⟨k1, k2, k3, k4⟩ := h3 { s1.release 3 with rst := { (s1.release 3).rst with stage := .wake, waking := true, wakeAt := s.cnt.aon } }
  exact ⟨k1, k2.trans hd, (k3 _).trans hr, k4⟩

theorem exec_wake {s : State} {j : Instr} {cause : Nat} (hst : s.rst.stage = .aon)
    (hj : (∃ n : Fin 4, j = .canWake n ∧ s.rbit Reg.PWR_CFG (4 + n.val) = true ∧ cause = 2 ^ n.val)
      ∨ (j = .alarmWake ∧ s.rbit Reg.PWR_CFG 8 = true ∧ s.reg64 Reg.PWR_ALARM ≠ 0 ∧ s.reg64 Reg.PWR_ALARM ≤ s.cnt.aon.toNat ∧ cause = 16)) :
    exec j s = .next (wake cause s) := by
  obtain ⟨n, rfl, hb, rfl⟩ | ⟨rfl, hb, h0, hle, rfl⟩ := hj
  · exact congrArg Host.Outcome.next (if_pos (by rw [hst, hb]; rfl))
  · exact congrArg Host.Outcome.next (if_pos (by rw [hst, alarmDue, hb, decide_eq_true hle]; simpa using h0))

/-- The domains that a wake releases, in their order. -/
def wakeReleased (s : State) : State := [4, 5, 6, 7, 8].foldl (fun t d => t.release d) (s.orReg Reg.CLK_STAT 0x79)

theorem wakeReleased_same (s : State) : SameBut [.regs, .rst] s (wakeReleased s) :=
  ((s.orReg_same _ _).mono (by decide)).trans (SameBut.foldl (fun t d => (t.release_same d).mono (by decide)) _ _)

theorem foldl_release_reg (l : List Nat) (s : State) (a : Nat) : (l.foldl (fun t d => t.release d) s).reg a = s.reg a := by
  induction l generalizing s with
  | nil => rfl
  | cons d r ih => exact (ih _).trans (State.release_reg _ _ _)

theorem wakeReleased_reg (s : State) (a : Nat) : (wakeReleased s).reg a = (s.orReg Reg.CLK_STAT 0x79).reg a := foldl_release_reg _ _ _

theorem wakeReleased_dram {s : State} (h : s.rbit Reg.RST_BLK 3 = false) : (wakeReleased s).up 5 = true := by
  have hb : ((s.orReg Reg.CLK_STAT 0x79).release 4).rbit Reg.RST_BLK 3 = false := by
    rw [State.rbit, State.release_reg, (s.orReg_regsBut _ _).reg (by decide)]
    exact h
  have hd : (wakeReleased s).domSt 5 = .run := by
    show ((((((s.orReg Reg.CLK_STAT 0x79).release 4).release 5).release 6).release 7).release 8).domSt 5 = .run
    rw [State.release_domSt_ne _ (by decide), State.release_domSt_ne _ (by decide), State.release_domSt_ne _ (by decide), State.release_domSt (a := Reg.RST_BLK) (b := 3) rfl, hb]
    rfl
  unfold State.up
  rw [hd]
  rfl

theorem restoreImages_aonKept (s : State) : AonKept s (restoreImages s) := by
  unfold restoreImages
  split
  · exact ⟨rfl, rfl, rfl, rfl, RegsFrom.refl _ _ _⟩
  · extract_lets r l x y
    have h : AonKept s r.1 := s.saveRead_aonKept _ _
    clear_value r
    exact ⟨h.pcm, h.fus, h.rst, h.aon, h.regs⟩

theorem restoreImages_none {s : State} (h : s.psave.images = none) :
    (restoreImages s).prs.images = s.prs.images.map (fun e => (e.1, { e.2 with att := false, res := [] })) := by
  unfold restoreImages
  rw [h]

theorem restoreImages_some {s : State} {l : Tab Image} (h : s.psave.images = some l) (hu : s.up 5 = true)
    (hb : s.bytes 2 (s.saveBase + imagePart.off) (min (min imagePart.size (s.dramBytes - (s.saveBase + imagePart.off))) (Config.imageBytes l).length) = (Config.imageBytes l).take imagePart.size) :
    (restoreImages s).prs.images = l := by
  have hr : (s.saveRead imagePart (Config.imageBytes l)).2 = true := by
    unfold State.saveRead
    dsimp only
    rw [if_neg (by simp [hu]), hb]
    exact beq_self_eq_true _
  unfold restoreImages
  rw [h]
  dsimp only
  rw [hr, if_pos rfl]

theorem exec_wakePllLock {s : State} (h : s.rst.stage = .wake) :
    exec .wakePllLock s = .next (pwrSettle ({ restoreImages (wakeReleased s) with rst := { (restoreImages (wakeReleased s)).rst with stage := .run, pwrBusy := true } }.orReg Reg.PWR_STAT 4)) :=
  congrArg Host.Outcome.next (if_pos (by rw [h]; rfl))

theorem wakePllLock_spec {s : State} (h : s.rst.stage = .wake) : ∃ t, exec .wakePllLock s = .next t ∧ t.rst.stage = .run ∧ t.reg Reg.CLK_STAT = s.reg Reg.CLK_STAT ||| 0x79
    ∧ t.prs = (restoreImages (wakeReleased s)).prs := by
  have hk := restoreImages_aonKept (wakeReleased s)
  have hclk : (restoreImages (wakeReleased s)).reg Reg.CLK_STAT = s.reg Reg.CLK_STAT ||| 0x79 := by
    rw [hk.reg, wakeReleased_reg]
    exact State.reg_orReg_self _ _ _
  refine ⟨_, exec_wakePllLock h, ?_⟩
  generalize restoreImages (wakeReleased s) = u at hclk ⊢
  have hp := pwrSettle_kept ({ u with rst := { u.rst with stage := .run, pwrBusy := true } }.orReg Reg.PWR_STAT 4)
  refine ⟨hp.stage, (hp.regs _ (by decide) (by decide) (by decide)).trans ?_, hp.prs⟩
  exact (State.reg_setReg_ne _ _ (by decide)).trans hclk

/-! ## The statement -/

/-- Settles O52. -/
theorem powerStates : Obligations.PowerStates := by
  intro s
  refine ⟨fun who v u hr hu hb => ⟨fun hst => ?off, fun hst b href => ?refused, fun hst href => ?taken⟩, fun hst hb ha => ⟨fun c hc hg => corePowerUp_spec hst hb ha c hc hg, fun c hc hg => corePowerDown_spec hst hb ha c hc hg⟩,
    fun u hu hst ha => aonEntry_spec hu hst ha, fun hst j cause hj => ⟨_, exec_wake hst hj, wake_spec cause s⟩, fun hst => ?lock⟩
  case off =>
    rw [exec_pwrTargetWrite hr, powerWrite_off v hst, ← hu, pwrSettle_stays]
    exact Or.inl (by rw [hu, s.putMasked_same _ _ .rst (by decide)]; exact hb)
  case refused =>
    have hrst : u.rst = s.rst := hu ▸ s.putMasked_same _ _ .rst (by decide)
    have hev : u.ev = s.ev := hu ▸ s.putMasked_same _ _ .ev (by decide)
    obtain ⟨h1, h2, h3⟩ := pwrRefuse_spec b u
    rw [hu] at href
    refine ⟨pwrRefuse b u, ?_, h1, by rwa [Raised, hev] at h2, h3.trans hrst⟩
    rw [exec_pwrTargetWrite hr, powerWrite_refused hst href, ← hu, pwrSettle_stays]
    exact Or.inl (by rw [h3, hrst]; exact hb)
  case taken =>
    have hrst : u.rst = s.rst := hu ▸ s.putMasked_same _ _ .rst (by decide)
    rw [hu] at href
    obtain ⟨w, hw⟩ : ∃ w, w = { u with rst := { u.rst with
      pwrBusy := true
      toAon := decide (bits (u.reg Reg.PWR_TARGET) 1 0 = 0)
      pwrGoal := if bits (u.reg Reg.PWR_TARGET) 1 0 = 0 then u.rst.pwrGoal else u.reg Reg.PWR_TARGET } }.orReg Reg.PWR_STAT 4 := ⟨_, rfl⟩
    have he : exec (.pwrTargetWrite who v) s = .next (pwrSettle w) := by
      rw [exec_pwrTargetWrite hr, powerWrite_taken hst href, hw, hu]
    have hreg : w.reg Reg.PWR_TARGET = u.reg Reg.PWR_TARGET := by
      rw [hw]
      exact State.reg_setReg_ne _ _ (by decide)
    have hbusy : w.rst.pwrBusy = true := by rw [hw]; rfl
    have haon : w.rst.toAon = decide (bits (u.reg Reg.PWR_TARGET) 1 0 = 0) := by rw [hw]; rfl
    have hgoal : w.rst.pwrGoal = if bits (u.reg Reg.PWR_TARGET) 1 0 = 0 then u.rst.pwrGoal else u.reg Reg.PWR_TARGET := by rw [hw]; rfl
    have hcores : w.rst.cores = s.rst.cores := by
      rw [← hrst, hw]
      rfl
    have hk := pwrSettle_kept w
    refine ⟨_, he, (hk.regs _ (by decide) (by decide) (by decide)).trans hreg, hk.cores.trans hcores, fun h0 => ?_, fun h0 => ?_⟩
    · have ht : w.rst.toAon = true := haon.trans (decide_eq_true h0)
      rw [pwrSettle_stays (Or.inr (Or.inl ht))]
      exact ⟨ht, hbusy⟩
    · have ht : w.rst.toAon = false := haon.trans (decide_eq_false h0)
      have hg : w.rst.pwrGoal = u.reg Reg.PWR_TARGET := hgoal.trans (if_neg h0)
      refine ⟨hk.toAon.trans ht, hk.goal.trans hg, ?_⟩
      rw [← hcores, ← hg]
      by_cases hc : w.rst.cores = goalCores w.rst.pwrGoal
      · rw [(pwrSettle_ends hbusy ht hc).2]
        exact ⟨fun h => absurd h Bool.false_ne_true, fun h => absurd hc h⟩
      · rw [pwrSettle_stays (Or.inr (Or.inr hc))]
        exact ⟨fun _ => hc, fun _ => hbusy⟩
  case lock =>
    obtain ⟨t, he, h1, h2, h3⟩ := wakePllLock_spec hst
    have hs := wakeReleased_same s
    refine ⟨t, he, h1, h2, fun hn => ?_, fun l o bs hl hbs ho hblk hb => ?_⟩
    · have hn' : (wakeReleased s).psave.images = none := by rw [hs .psave (by decide), hn]
      rw [h3, restoreImages_none hn', hs .prs (by decide)]
    · have hl' : (wakeReleased s).psave.images = some l := by rw [hs .psave (by decide), hl]
      have hbase : (wakeReleased s).saveBase = s.saveBase := by
        unfold State.saveBase State.fld
        rw [wakeReleased_reg, (s.orReg_regsBut _ _).reg (by decide)]
      have hdram : (wakeReleased s).dramBytes = s.dramBytes := by
        unfold State.dramBytes State.trimmed State.rbit
        rw [wakeReleased_reg, (s.orReg_regsBut _ _).reg (by decide), hs .fus (by decide)]
      rw [h3]
      refine restoreImages_some hl' (wakeReleased_dram hblk) ?_
      rw [hbase, hdram, ← hbs, show s.saveBase + imagePart.off = o from ho.symm]
      exact (congrArg (fun m => Mem.read m o _) (hs .dram (by decide))).trans hb

end Sys2Proof.Machine
end

section
/-!
PROOFS. The host's queues: doorbells, completions, heads and configuration (R450 to R454).
-/
set_option Elab.async false

namespace Sys2Proof.Machine

/-! ## The queue pairs -/

theorem State.hq_setHq_self (s : State) (q : Nat) (h : HQueue) : (s.setHq q h).hq q = h := Tab.getD_setD_self s.host.q q .empty h

theorem State.setHq_same (s : State) (q : Nat) (h : HQueue) : SameBut [.host] s (s.setHq q h) :=
  fun p hp => by cases p <;> first | rfl | exact absurd (by decide) hp

theorem SameBut.hq {l : List Piece} {s t : State} (h : SameBut l s t) (hl : .host ∉ l := by decide) (q : Nat) : t.hq q = s.hq q := by
  unfold State.hq; rw [h .host hl]

theorem State.setHq_setHq (s : State) (q : Nat) (h k : HQueue) : ((s.setHq q h).setHq q k).hq q = k := State.hq_setHq_self _ q k

/-! ## Errors of a port -/

theorem State.hstErr_same (s : State) (p b : Nat) : SameBut [.regs] s (s.hstErr p b) := (s.orReg_same _ _).trans (State.incReg_same _ _ _)

theorem State.hstErr_regsBut (s : State) (p b : Nat) : RegsBut [Reg.HST_ERR p, Reg.HST_ERR_CNT p] s (s.hstErr p b) :=
  ((s.orReg_regsBut _ _).mono (by simp)).trans ((State.incReg_regsBut _ _ _).mono (by simp))

theorem hstErr_ne_cnt (p : Nat) : Reg.HST_ERR p ≠ Reg.HST_ERR_CNT p := by unfold Reg.HST_ERR Reg.HST_ERR_CNT; omega

theorem State.hstErr_rbit (s : State) (p : Nat) {b : Nat} (hb : b < 32) : (s.hstErr p b).rbit (Reg.HST_ERR p) b = true := by
  rw [State.hstErr, State.rbit, State.reg_incReg_ne _ _ (hstErr_ne_cnt p), ← State.rbit, State.rbit_orReg_self _ _ _ _ hb, Nat.testBit_two_pow_self, Bool.or_true]

theorem State.hstErr_cnt (s : State) (p b : Nat) : (s.hstErr p b).reg (Reg.HST_ERR_CNT p) = satAdd (s.reg (Reg.HST_ERR_CNT p)) 1 := by
  rw [State.hstErr, State.reg_incReg_self, State.reg_orReg_ne _ _ (hstErr_ne_cnt p).symm]

theorem State.hstRefuse_spec (s : State) (p off : Nat) {b : Nat} (hb : b < 32) : (s.hstRefuse p b off).rbit (Reg.HST_ERR p) b = true
    ∧ Raised 0x0A03 s (s.hstRefuse p b off) ∧ RegsBut [Reg.HST_ERR p, Reg.HST_ERR_CNT p] s (s.hstRefuse p b off)
    ∧ SameBut [.ev, .hostMem, .regs] s (s.hstRefuse p b off) := by
  unfold State.hstRefuse
  refine ⟨?_, raised_of_ev ((s.hstErr_same p b) .ev (by decide)) _ _ _ _, (s.hstErr_regsBut p b).trans (State.raise_regsBut _ _ _ _ _ _),
    ((s.hstErr_same p b).mono (by decide)).then (State.raise_same _ _ _ _ _)⟩
  rw [State.rbit, State.raise_reg]
  exact s.hstErr_rbit p hb

theorem raised_from {s t u : State} {code : Nat} (h : t.ev = s.ev) (k : Raised code t u) : Raised code s u := by
  rwa [Raised, h] at k

/-! ## Event queues -/

theorem State.eq_setEq_self (s : State) (p : Nat) (x : EqSt) : (s.setEq p x).eq p = x := by
  unfold State.eq State.setEq
  split <;> rfl

theorem State.eq_setEq_ne (s : State) {p q : Nat} (x : EqSt) (h : ¬(p = 0 ↔ q = 0)) : (s.setEq p x).eq q = s.eq q := by
  unfold State.eq State.setEq
  by_cases hp : p = 0
  · have hq : q ≠ 0 := fun hq => h (iff_of_true hp hq)
    rw [if_neg hq, if_neg hq]
    simp only [if_pos hp]
  · have hq : q = 0 := by by_contra hq; exact h (iff_of_false hp hq)
    rw [if_pos hq, if_pos hq]
    simp only [if_neg hp]

theorem State.setEq_same (s : State) (p : Nat) (x : EqSt) : SameBut [.ev] s (s.setEq p x) :=
  fun q hq => by cases q <;> first | rfl | exact absurd (by decide) hq

theorem State.msix_eq (s : State) (p v q : Nat) : (s.msix p v).eq q = s.eq q := by
  unfold State.msix
  split
  · rfl
  · split <;> rfl

theorem State.eqPut_eq_self (s : State) (p : Nat) (e : EvRec) : ((s.eqPut p e).eq p).head = (s.eq p).head ∧ ((s.eqPut p e).eq p).lostNow = (s.eq p).lostNow := by
  unfold State.eqPut
  extract_lets q n s1 t
  rw [State.msix_eq, State.eq_setEq_self]
  exact ⟨rfl, rfl⟩

theorem State.eqPut_eq_ne (s : State) {p q : Nat} (e : EvRec) (h : ¬(p = 0 ↔ q = 0)) : (s.eqPut p e).eq q = s.eq q := by
  unfold State.eqPut
  extract_lets x n s1 t
  rw [State.msix_eq, State.eq_setEq_ne _ _ h]
  rfl

/-- A record delivered to a queue leaves its head, and counts no loss where the queue has room. -/
theorem State.deliver_eq_self (s : State) (p : Nat) (e : EvRec) : ((s.deliver p e).eq p).head = (s.eq p).head
    ∧ (s.eqFull p = false → ((s.deliver p e).eq p).lostNow = (s.eq p).lostNow) := by
  unfold State.deliver
  split
  · exact ⟨rfl, fun _ => rfl⟩
  · split
    · next h => exact ⟨by rw [State.eq_setEq_self], fun hf => absurd (hf.symm.trans h) (by decide)⟩
    · exact ⟨(s.eqPut_eq_self p e).1, fun _ => (s.eqPut_eq_self p e).2⟩

theorem State.deliver_eq_ne (s : State) {p q : Nat} (e : EvRec) (h : ¬(p = 0 ↔ q = 0)) : (s.deliver p e).eq q = s.eq q := by
  unfold State.deliver
  split
  · rfl
  · split
    · exact State.eq_setEq_ne _ _ h
    · exact State.eqPut_eq_ne _ _ h

theorem State.logEvent_eq (s : State) (e : EvRec) (q : Nat) : (s.logEvent e).eq q = s.eq q := by
  unfold State.logEvent
  split
  · rfl
  · split <;> rfl

theorem State.eqFull_congr {s t : State} {p : Nat} (hr : t.regs = s.regs) (he : t.eq p = s.eq p) : t.eqFull p = s.eqFull p := by
  unfold State.eqFull State.fld State.reg
  rw [hr, he]

theorem State.raiseRaw_eq (s : State) (p : Fin 2) (e : EvRec) : ((s.raiseRaw e).eq p.val).head = (s.eq p.val).head
    ∧ (s.eqFull p.val = false → ((s.raiseRaw e).eq p.val).lostNow = (s.eq p.val).lostNow) := by
  obtain ⟨u, hu⟩ : ∃ u : State, u = { s with ev := { s.ev with log := e :: s.ev.log } } := ⟨_, rfl⟩
  have hr : u.regs = s.regs := by rw [hu]
  have he : ∀ q, u.eq q = s.eq q := fun q => by rw [hu]; rfl
  have hraw : s.raiseRaw e = ((u.deliver 0 e).deliver 1 e).logEvent e := by rw [hu]; rfl
  rw [hraw, State.logEvent_eq]
  match p with
  | ⟨0, _⟩ =>
    rw [State.deliver_eq_ne _ _ (by decide : ¬(1 = 0 ↔ 0 = 0)), ← he, ← State.eqFull_congr hr (he 0)]
    exact u.deliver_eq_self 0 e
  | ⟨1, _⟩ =>
    have h0 : (u.deliver 0 e).eq 1 = u.eq 1 := State.deliver_eq_ne _ _ (by decide)
    have := (u.deliver 0 e).deliver_eq_self 1 e
    rw [State.eqFull_congr (State.deliver_regs _ _ _) h0, h0, State.eqFull_congr hr (he 1), he] at this
    exact this

theorem State.lossRec_same (s : State) (p : Nat) : SameBut [.ev, .hostMem] s (s.lossRec p) := by
  unfold State.lossRec
  refine sameBut_ite (SameBut.trans ((s.setEq_same p { s.eq p with lostNow := 0 }).mono (by decide)) ?_) (SameBut.refl _ _)
  exact fun q hq => by cases q <;> first | exact absurd (by decide) hq | simp [Piece.same]

theorem State.lossRec_none {s : State} {p : Nat} (h : (s.eq p).lostNow = 0) : s.lossRec p = s := by
  unfold State.lossRec
  rw [h]
  exact if_neg (by simp)

theorem State.lossRec_head (s : State) (p : Fin 2) : ((s.lossRec p.val).eq p.val).head = (s.eq p.val).head := by
  unfold State.lossRec
  split
  · rw [(State.raiseRaw_eq _ p _).1, State.eq_setEq_self]
  · rfl

/-- Where records were lost and the queue has room again, their loss is reported (R454). -/
theorem State.lossRec_reports {s : State} {p : Fin 2} (hen : s.rbit (Reg.HST_EQ_CFG p.val) 31 = true) (hl : (s.eq p.val).lostNow ≠ 0)
    (hf : s.eqFull p.val = false) : Raised 0x0A01 s (s.lossRec p.val) ∧ ((s.lossRec p.val).eq p.val).lostNow = 0 := by
  have he : s.lossRec p.val = _ := if_pos (by rw [hen, hf]; simpa using hl)
  have hfull : (s.setEq p.val { s.eq p.val with lostNow := 0 }).eqFull p.val = false := by
    rw [← hf]
    unfold State.eqFull
    rw [State.eq_setEq_self]
    rfl
  rw [he]
  refine ⟨⟨_, [], by rw [State.raiseRaw_log, State.setEq_log]; rfl, rfl, by simp⟩, ?_⟩
  rw [(State.raiseRaw_eq _ p _).2 hfull, State.eq_setEq_self]

/-! ## Doorbells -/

theorem startCmd_taken {s : State} {q head : Nat} {raw : List Byte} {e : HCmd} (h1 : cmdForm raw = true) (h2 : cmdFields raw = true) (h3 : s.rst.stage ≠ .recovery)
    (h4 : leNat (raw.take 1) ≠ 7) (he : e = ⟨BitVec.ofNat 32 (leNat ((raw.drop 4).take 4)), BitVec.ofNat 8 (leNat (raw.take 1)), raw, head, false⟩) :
    s.startCmd q raw head = s.setHq q { s.hq q with prog := (s.hq q).prog ++ [e] } := by
  have hop : leNat (raw.take 1) ≤ 8 := by
    unfold cmdForm at h1
    exact of_decide_eq_true (Bool.and_eq_true_iff.mp h1).1
  have h7 : e.op ≠ 7 := by
    intro h
    rw [he] at h
    have := congrArg BitVec.toNat h
    simp only [BitVec.toNat_ofNat] at this
    rw [Nat.mod_eq_of_lt (by omega)] at this
    exact h4 this
  unfold State.startCmd
  rw [← he]
  simp only [h1, h2, Bool.and_self, Bool.not_true, Bool.false_eq_true, if_false, if_neg h3, h7, false_and]

theorem fetchN_done (q len base n : Nat) {s : State} (h : (s.hq q).sqHead = (s.hq q).sqTail) : fetchN q len base n s = s := by
  cases n with
  | zero => rfl
  | succ n => exact if_pos h

/-- A fetch with an entry to come takes that entry first. -/
theorem fetchN_succ (q len base n : Nat) {s : State} (h : (s.hq q).sqHead ≠ (s.hq q).sqTail) :
    fetchN q len base (n + 1) s = fetchN q len base n ((s.setHq q { s.hq q with sqHead := ((s.hq q).sqHead + 1) % len }).startCmd q
      (s.mem.host.read (base + 64 * (s.hq q).sqHead) 64) (((s.hq q).sqHead + 1) % len)) := if_neg h

theorem fetchFail_none {q : Nat} {s : State} (h : (s.hq q).sqHead = (s.hq q).sqTail) : fetchFail q s = s := if_pos h

/-- A fetch that fails with an entry to come clears EN and reports it (R451). -/
theorem fetchFail_some {q : Nat} {s : State} (h : (s.hq q).sqHead ≠ (s.hq q).sqTail) : (fetchFail q s).rbit (Reg.HST_SQ_CFG 0 q) 31 = false
    ∧ (fetchFail q s).rbit (Reg.HST_ERR 0) 5 = true ∧ Raised 0x0A03 s (fetchFail q s) ∧ (fetchFail q s).hq q = s.hq q := by
  have he : fetchFail q s = (s.clrReg (Reg.HST_SQ_CFG 0 q) (2 ^ 31)).hstRefuse 0 5 q := if_neg h
  obtain ⟨hb, hr, hregs, hsame⟩ := (s.clrReg (Reg.HST_SQ_CFG 0 q) (2 ^ 31)).hstRefuse_spec 0 q (by decide : 5 < 32)
  have hne : Reg.HST_SQ_CFG 0 q ∉ [Reg.HST_ERR 0, Reg.HST_ERR_CNT 0] := by
    simp only [Reg.HST_SQ_CFG, Reg.HST_ERR, Reg.HST_ERR_CNT, List.mem_cons, List.not_mem_nil, or_false]
    omega
  rw [he]
  exact ⟨by rw [hregs.rbit hne, State.rbit_clrReg_self _ _ _ _ (by decide), Nat.testBit_two_pow_self]; exact Bool.and_false _, hb, hr, hsame.hq (by decide) q⟩

theorem doorbell_off {q : Nat} {v : W32} {fails : Option Nat} {s : State} (h : s.rbit (Reg.HST_SQ_CFG 0 q) 31 = false) : doorbell q v fails s = s := by
  unfold doorbell
  rw [h]
  rfl

theorem doorbell_bad {q : Nat} {v : W32} {fails : Option Nat} {s : State} (h : s.rbit (Reg.HST_SQ_CFG 0 q) 31 = true)
    (hl : ringLen (s.fld (Reg.HST_SQ_CFG 0 q) 3 0) ≤ bits v 11 0) : doorbell q v fails s = s.hstRefuse 0 4 q := by
  unfold doorbell
  rw [h]
  exact if_pos hl

theorem doorbell_all {q : Nat} {v : W32} {s : State} (h : s.rbit (Reg.HST_SQ_CFG 0 q) 31 = true) (hl : bits v 11 0 < ringLen (s.fld (Reg.HST_SQ_CFG 0 q) 3 0)) :
    doorbell q v none s = fetchN q (ringLen (s.fld (Reg.HST_SQ_CFG 0 q) 3 0)) (s.reg64 (Reg.HST_SQ_BASE 0 q)) (ringLen (s.fld (Reg.HST_SQ_CFG 0 q) 3 0))
      (s.setHq q { s.hq q with sqTail := bits v 11 0 }) := by
  unfold doorbell
  rw [h]
  exact if_neg (Nat.not_le.mpr hl)

theorem doorbell_some {q : Nat} {v : W32} {k : Nat} {s : State} (h : s.rbit (Reg.HST_SQ_CFG 0 q) 31 = true) (hl : bits v 11 0 < ringLen (s.fld (Reg.HST_SQ_CFG 0 q) 3 0)) :
    doorbell q v (some k) s = fetchFail q (fetchN q (ringLen (s.fld (Reg.HST_SQ_CFG 0 q) 3 0)) (s.reg64 (Reg.HST_SQ_BASE 0 q))
      (min k (ringLen (s.fld (Reg.HST_SQ_CFG 0 q) 3 0))) (s.setHq q { s.hq q with sqTail := bits v 11 0 })) := by
  unfold doorbell
  rw [h]
  exact if_neg (Nat.not_le.mpr hl)

theorem ringLen_ge (n : Nat) : 16 ≤ ringLen n := by
  unfold ringLen
  calc 16 = 2 ^ 4 := rfl
    _ ≤ 2 ^ (max 4 (min 12 n)) := Nat.pow_le_pow_right (by decide) (Nat.le_max_left _ _)

section
variable {s : State} {q : Nat} {v : W32} {h : HQueue} {len : Nat}

/-- The state of a queue whose one entry at the head has been fetched and has started. -/
def fetchedOne (s : State) (q : Nat) (h : HQueue) (tail len : Nat) (e : HCmd) : State :=
  ((s.setHq q { h with sqTail := tail }).setHq q { h with sqHead := (h.sqHead + 1) % len, sqTail := tail }).setHq q
    { h with sqHead := (h.sqHead + 1) % len, sqTail := tail, prog := h.prog ++ [e] }

theorem fetchedOne_hq (tail : Nat) (e : HCmd) : (fetchedOne s q h tail len e).hq q = { h with sqHead := (h.sqHead + 1) % len, sqTail := tail, prog := h.prog ++ [e] } :=
  State.hq_setHq_self _ _ _

theorem fetchedOne_same (tail : Nat) (e : HCmd) : SameBut [.host] s (fetchedOne s q h tail len e) :=
  ((s.setHq_same _ _).trans (State.setHq_same _ _ _)).trans (State.setHq_same _ _ _)

/-- The first entry fetched, of a command that is taken. -/
theorem fetchN_first {base tail n : Nat} {raw : List Byte} {e : HCmd} (hh : h = s.hq q) (ht : h.sqHead ≠ tail) (hraw : raw = s.mem.host.read (base + 64 * h.sqHead) 64)
    (h1 : cmdForm raw = true) (h2 : cmdFields raw = true) (h3 : s.rst.stage ≠ .recovery) (h4 : leNat (raw.take 1) ≠ 7)
    (he : e = ⟨BitVec.ofNat 32 (leNat ((raw.drop 4).take 4)), BitVec.ofNat 8 (leNat (raw.take 1)), raw, (h.sqHead + 1) % len, false⟩) :
    fetchN q len base (n + 1) (s.setHq q { s.hq q with sqTail := tail }) = fetchN q len base n (fetchedOne s q h tail len e) := by
  rw [← hh]
  obtain ⟨u, hu⟩ : ∃ u, u = s.setHq q { h with sqTail := tail } := ⟨_, rfl⟩
  have huq : u.hq q = { h with sqTail := tail } := by rw [hu]; exact State.hq_setHq_self _ _ _
  have hmem : u.mem = s.mem := by rw [hu]; rfl
  have hst : u.rst = s.rst := by rw [hu]; rfl
  rw [← hu, fetchN_succ _ _ _ _ (by rw [huq]; exact ht), huq, hmem]
  refine congrArg _ ?_
  change (u.setHq q { h with sqHead := (h.sqHead + 1) % len, sqTail := tail }).startCmd q (s.mem.host.read (base + 64 * h.sqHead) 64) ((h.sqHead + 1) % len) = _
  rw [← hraw, startCmd_taken (s := u.setHq q { h with sqHead := (h.sqHead + 1) % len, sqTail := tail }) h1 h2 (show u.rst.stage ≠ .recovery by rw [hst]; exact h3) h4 he, State.hq_setHq_self, hu]
  rfl
end

/-! ## Completions -/

theorem State.hostWrite_same (s : State) (a : Nat) (bs : List Byte) : SameBut [.hostMem] s (s.hostWrite a bs) :=
  fun p hp => by cases p <;> first | rfl | exact absurd (by decide) hp

theorem doneBytes_length (q : Nat) (phase : Bool) (d : HDone) : (doneBytes q phase d).length = 16 := by simp [doneBytes]

theorem writeCompletion_waits {s : State} {q : Nat} (hw : s.rbit (Reg.HST_CQ_CFG 0 q) 31 = false
    ∨ ringFull (s.hq q).cqHead (s.hq q).cqTail (ringLen (s.fld (Reg.HST_CQ_CFG 0 q) 3 0)) = true) : writeCompletion q s = s := by
  unfold writeCompletion
  extract_lets h len
  split
  · rfl
  · exact if_pos (hw.imp (fun hoff => by rw [hoff]; rfl) id)

theorem writeCompletion_spec {s : State} {q : Nat} {d : HDone} {r : List HDone} (hd : (s.hq q).ended = d :: r) (hen : s.rbit (Reg.HST_CQ_CFG 0 q) 31 = true)
    (hf : ringFull (s.hq q).cqHead (s.hq q).cqTail (ringLen (s.fld (Reg.HST_CQ_CFG 0 q) 3 0)) = false) :
    ((writeCompletion q s).hq q).ended = r ∧ ((writeCompletion q s).hq q).cqTail = ((s.hq q).cqTail + 1) % ringLen (s.fld (Reg.HST_CQ_CFG 0 q) 3 0)
    ∧ (writeCompletion q s).mem.host = s.mem.host.writeRaw (s.reg64 (Reg.HST_CQ_BASE 0 q) + 16 * (s.hq q).cqTail) (doneBytes q (s.hq q).phase d)
    ∧ SameBut [.host, .hostMem, .ev] s (writeCompletion q s) := by
  unfold writeCompletion
  extract_lets h len
  have hd' : h.ended = d :: r := hd
  rw [hd']
  dsimp only
  rw [if_neg (by rw [hen, hf]; simp)]
  rename_i tail
  obtain ⟨s1, hs1e⟩ : ∃ s1, s1 = s.hostWrite (s.reg64 (Reg.HST_CQ_BASE 0 q) + 16 * h.cqTail) (doneBytes q h.phase d) := ⟨_, rfl⟩
  rw [← hs1e]
  have hs1 : SameBut [.host, .hostMem, .ev] s s1 := hs1e ▸ (s.hostWrite_same _ _).mono (by decide)
  have hm1 : s1.mem.host = s.mem.host.writeRaw (s.reg64 (Reg.HST_CQ_BASE 0 q) + 16 * (s.hq q).cqTail) (doneBytes q (s.hq q).phase d) := by rw [hs1e]; rfl
  obtain ⟨x, hx⟩ : ∃ x : HQueue, x = { h with ended := r, cqTail := tail, phase := if tail = 0 then !h.phase else h.phase } := ⟨_, rfl⟩
  have hm := (s1.setHq q x).msix_same 0 (q + 1)
  have hq : ((s1.setHq q x).msix 0 (q + 1)).hq q = x := (hm.hq (by decide) q).trans (State.hq_setHq_self _ _ _)
  rw [← hx, hq, hx]
  exact ⟨rfl, rfl, hx ▸ (hm .hostMem (by decide)).trans hm1, (hs1.then (s1.setHq_same q _)).then (hx ▸ hm)⟩

/-! ## Configuration -/

theorem queueEnable_same (p off : Nat) (on : Bool) (s : State) : SameBut [.ev, .hostMem, .host] s (queueEnable p off on s) := by
  have hset : ∀ q h, SameBut [.ev, .hostMem, .host] s (s.setHq q h) := fun q h => (s.setHq_same q h).mono (by decide)
  unfold queueEnable
  refine sameBut_ite (sameBut_ite (((s.setEq_same p _).mono (by decide)).then (State.lossRec_same _ _)) (SameBut.refl _ _)) ?_
  exact sameBut_ite (sameBut_ite (hset _ _) (SameBut.refl _ _)) (sameBut_ite (hset _ _) (hset _ _))

section
variable {p off c : Nat} {who : Who} {v : W32} {s : State}

theorem queueConfig_none (h : cfgOff off = none) : queueConfig p off who v s = s := by
  unfold queueConfig
  rw [h]

theorem queueConfig_on (h : cfgOff off = some c) (hc : off = c) (he : s.rbit (baseHst p + c) 31 = false) :
    queueConfig p off who v s = queueEnable p c (bit v 31) (s.putMasked (baseHst p + c) v) := by
  unfold queueConfig
  rw [h]
  dsimp only
  rw [if_neg (not_not.mpr hc), he]
  rfl

theorem queueConfig_off (h : cfgOff off = some c) (hc : off = c) (he : s.rbit (baseHst p + c) 31 = true) (hv : bit v 31 = false) :
    queueConfig p off who v s = queueEnable p c false (s.clrReg (baseHst p + c) (2 ^ 31)) := by
  unfold queueConfig
  rw [h]
  dsimp only
  rw [if_neg (not_not.mpr hc), if_pos he, hv]
  rfl

/-- A write that an enabled queue refuses counts with its error bit (R450). -/
theorem queueConfig_refused (h : cfgOff off = some c) (he : s.rbit (baseHst p + c) 31 = true) (hv : off ≠ c ∨ bit v 31 = true) :
    ∃ u, queueConfig p off who v s = u.hstErr p 3 ∧ SameBut [.req] s u := by
  unfold queueConfig
  rw [h]
  dsimp only
  by_cases hc : off = c
  · rw [if_neg (not_not.mpr hc), if_pos he, if_pos (hv.resolve_left (not_not.mpr hc))]
    exact ⟨s, rfl, SameBut.refl _ _⟩
  · rw [if_pos hc, if_pos he]
    exact ⟨_, rfl, s.endHeld_same _ _⟩

theorem queueConfig_write (h : cfgOff off = some c) (hc : off ≠ c) (he : s.rbit (baseHst p + c) 31 = false) :
    queueConfig p off who v s = s.writeWord who (baseHst p + off) v := by
  unfold queueConfig
  rw [h]
  dsimp only
  rw [if_pos hc, he]
  rfl
end

/-- Settles O53: the host's queues. -/
theorem hostQueues : Obligations.HostQueues := by
  unfold Obligations.HostQueues
  intro s
  refine ⟨fun q v fails h len hh hlen hr => ⟨fun hoff => (next_access hr).trans (congrArg _ (doorbell_off hoff)), fun hon => ⟨fun hbad => ?_, fun hlt hf hne => ?_, ?_⟩⟩,
    fun q h len a d r hh hlen ha hd => ⟨fun hen hf => ?_, fun hw => ?_⟩, fun q v hr => ?_, fun p v hr => ?_, fun p off v b hb hr => ?_⟩
  · refine ⟨_, (next_access hr).trans (congrArg _ (doorbell_bad hon (hlen ▸ hbad))), ?_⟩
    exact s.hstRefuse_spec 0 q.val (by decide)
  · have hdb := doorbell_some (k := 0) hon (hlen ▸ hlt)
    rw [Nat.zero_min] at hdb
    have hq : ((s.setHq q.val { s.hq q.val with sqTail := bits v 11 0 }).hq q.val) = { h with sqTail := bits v 11 0 } := by rw [State.hq_setHq_self, hh]
    obtain ⟨h1, h2, h3, h4⟩ := fetchFail_some (q := q.val) (s := s.setHq q.val { s.hq q.val with sqTail := bits v 11 0 }) (by rw [hq]; exact hne)
    exact ⟨_, (next_access hr).trans (congrArg _ (hf ▸ hdb)), h1, h2, h3, h4.trans hq⟩
  · intro raw hlt hhd hraw h1 h2 h3 h4 e he
    have hlen16 : 16 ≤ len := hlen ▸ ringLen_ge _
    have hstep : ((h.sqHead + 1) % len = h.sqHead + 1 ∧ h.sqHead + 1 < len) ∨ ((h.sqHead + 1) % len = 0 ∧ h.sqHead + 1 = len) := by
      by_cases hx : h.sqHead + 1 = len
      · exact Or.inr ⟨by rw [hx, Nat.mod_self], hx⟩
      · exact Or.inl ⟨Nat.mod_eq_of_lt (by omega), by omega⟩
    refine ⟨fun ht hfails => ?_, fun ht hfails => ?_⟩
    · have hne : h.sqHead ≠ bits v 11 0 := by rcases hstep with h | h <;> omega
      have hone := fetchedOne_hq (s := s) (q := q.val) (h := h) (len := len) (bits v 11 0) e
      have hend : ((fetchedOne s q.val h (bits v 11 0) len e).hq q.val).sqHead = ((fetchedOne s q.val h (bits v 11 0) len e).hq q.val).sqTail := by rw [hone]; exact ht.symm
      have hgo : ∀ n, 1 ≤ n → fetchN q.val len (s.reg64 (Reg.HST_SQ_BASE 0 q.val)) n (s.setHq q.val { s.hq q.val with sqTail := bits v 11 0 })
          = fetchedOne s q.val h (bits v 11 0) len e := fun n hn => by
        obtain ⟨m, rfl⟩ : ∃ m, n = m + 1 := ⟨n - 1, by omega⟩
        rw [fetchN_first hh hne hraw h1 h2 h3 h4 he, fetchN_done _ _ _ _ hend]
      have hdb : doorbell q.val v fails s = fetchedOne s q.val h (bits v 11 0) len e := by
        rcases hfails with hf | ⟨k, hk, hf⟩
        · rw [hf, doorbell_all hon (hlen ▸ hlt), ← hlen]
          exact hgo _ (by omega)
        · rw [hf, doorbell_some hon (hlen ▸ hlt), ← hlen, hgo _ (by omega)]
          exact fetchFail_none hend
      exact ⟨_, (next_access hr).trans (congrArg _ hdb), fetchedOne_same _ _, hone.trans (by rw [ht])⟩
    · have hnext : ((h.sqHead + 2) % len = h.sqHead + 2 ∧ h.sqHead + 2 < len) ∨ (h.sqHead + 2) % len + len = h.sqHead + 2 := by
        by_cases hx : h.sqHead + 2 < len
        · exact Or.inl ⟨Nat.mod_eq_of_lt hx, hx⟩
        · exact Or.inr (by rw [Nat.mod_eq_sub_mod (by omega), Nat.mod_eq_of_lt (by omega)]; omega)
      have hne : h.sqHead ≠ bits v 11 0 := by omega
      have hone := fetchedOne_hq (s := s) (q := q.val) (h := h) (len := len) (bits v 11 0) e
      have hmin : min 1 len = 0 + 1 := by omega
      have hdb : doorbell q.val v fails s = fetchFail q.val (fetchedOne s q.val h (bits v 11 0) len e) := by
        rw [hfails, doorbell_some hon (hlen ▸ hlt), ← hlen, hmin, fetchN_first hh hne hraw h1 h2 h3 h4 he]
        rfl
      obtain ⟨g1, g2, g3, g4⟩ := fetchFail_some (q := q.val) (s := fetchedOne s q.val h (bits v 11 0) len e) (by rw [hone]; exact fun hx : (h.sqHead + 1) % len = bits v 11 0 => by omega)
      exact ⟨_, (next_access hr).trans (congrArg _ hdb), g1, g2, raised_from (fetchedOne_same (bits v 11 0) e .ev (by decide)) g3, g4.trans hone⟩
  · subst hh hlen ha
    obtain ⟨h1, h2, h3, h4⟩ := writeCompletion_spec hd hen hf
    refine ⟨_, rfl, h1, h2, fun i hi => ?_, fun x hx => ?_, h4⟩
    · rw [h3, Mem.byte_writeRaw, if_pos (by rw [doneBytes_length]; omega), Nat.add_sub_cancel_left]
    · rw [h3, Mem.byte_writeRaw, if_neg (by rw [doneBytes_length]; exact hx)]
  · subst hh hlen
    exact congrArg Host.Outcome.next (writeCompletion_waits hw)
  · exact ⟨_, next_access hr, State.hq_setHq_self _ _ _, s.setHq_same _ _⟩
  · obtain ⟨u, hu⟩ : ∃ u, u = s.setEq p.val { s.eq p.val with head := bits v 11 0 } := ⟨_, rfl⟩
    have hueq : u.eq p.val = { s.eq p.val with head := bits v 11 0 } := by rw [hu]; exact State.eq_setEq_self _ _ _
    have hsame : SameBut [.ev] s u := hu ▸ s.setEq_same _ _
    have hlog : u.ev.log = s.ev.log := by rw [hu]; exact State.setEq_log _ _ _
    refine ⟨u.lossRec p.val, (next_access hr).trans (by rw [hu]), ?_, (hsame.mono (by decide)).then (u.lossRec_same _), fun h0 => ?_, fun hen hl hf => ?_⟩
    · rw [State.lossRec_head, hueq]
    · rw [State.lossRec_none (by rw [hueq]; exact h0)]
      exact ⟨hueq, hlog, hsame⟩
    · have hregs : u.reg (Reg.HST_EQ_CFG p.val) = s.reg (Reg.HST_EQ_CFG p.val) := hsame.reg (by decide) _
      obtain ⟨⟨e, l, h1, h2, h3⟩, h4⟩ := State.lossRec_reports (s := u) (p := p) (by rw [State.rbit, hregs]; exact hen) (by rw [hueq]; exact hl)
        (by unfold State.eqFull State.fld; rw [hueq, hregs]; exact hf)
      exact ⟨⟨e, l, hlog ▸ h1, h2, h3⟩, h4⟩
  · subst hb
    refine ⟨fun h => (next_access hr).trans (congrArg _ (queueConfig_none h)), fun c h hc he => ?_, fun c h hc he hv => ?_, fun c h he hv => ?_, fun c h hc he => ?_⟩
    · have hq := queueEnable_same p.val c (bit v 31) (s.putMasked (baseHst p.val + c) v)
      exact ⟨_, (next_access hr).trans (congrArg _ (queueConfig_on h hc he)), hq.reg (by decide) _, (s.putMasked_regsBut _ _).trans (hq.regsBut _),
        ((s.putMasked_same _ _).mono (by decide)).then hq⟩
    · have hq := queueEnable_same p.val c false (s.clrReg (baseHst p.val + c) (2 ^ 31))
      refine ⟨_, (next_access hr).trans (congrArg _ (queueConfig_off h hc he hv)), ?_, (s.clrReg_regsBut _ _).trans (hq.regsBut _)⟩
      rw [State.rbit, hq.reg (by decide), ← State.rbit, State.rbit_clrReg_self _ _ _ _ (by decide), Nat.testBit_two_pow_self]
      exact Bool.and_false _
    · obtain ⟨u, hu, hsame⟩ := queueConfig_refused (who := portWho p.val) h he hv
      refine ⟨_, (next_access hr).trans (congrArg _ hu), u.hstErr_rbit _ (by decide), ?_, (hsame.regsBut _).trans (u.hstErr_regsBut _ _),
        (hsame.mono (by decide)).then (u.hstErr_same _ _)⟩
      rw [State.hstErr_cnt, hsame.reg (by decide)]
    · exact (next_access hr).trans (congrArg _ (queueConfig_write h hc he))

end Sys2Proof.Machine
end

section
/-!
PROOFS. Host commands: a QUOTE that host memory fails raises two events (R453, R474).
-/
set_option Elab.async false

namespace Sys2Proof.Machine

/-- Where one event alone is raised, beside reports of records lost, no other event is among those raised. -/
theorem Raised.not_among {code other : Nat} {s t : State} (h : Raised code s t) (hne : BitVec.ofNat 16 other ≠ BitVec.ofNat 16 code)
    (hlost : BitVec.ofNat 16 other ≠ (0x0A01 : BitVec 16)) : ¬ RaisedAmong other s t := by
  rintro ⟨l', hlog', x, hx, hcode⟩
  obtain ⟨e, l, hlog, he, hl⟩ := h
  have hl' : l' = e :: l := List.append_cancel_right (hlog'.symm.trans hlog)
  rcases List.mem_cons.mp (hl' ▸ hx) with rfl | hm
  · exact hne (hcode.symm.trans he)
  · exact hlost (hcode.symm.trans (hl x hm))

/-- A QUOTE whose result buffer has 1,552 bytes at host address 0. -/
def quoteCmd : HCmd := ⟨7, 7, 7 :: List.replicate 47 0 ++ [0x10, 6] ++ List.replicate 14 0, 1, false⟩

/-- The reset state with that QUOTE in progress on queue 0. -/
def quoteState : State := State.reset.setHq 0 { HQueue.empty with prog := [quoteCmd] }

/-- Refutes O54: a QUOTE with room that host memory fails raises 0x0B06 as it is signed and then 0x0A05 as it ends, and the statement has 0x0A05 raised
alone (`Raised`) and 0x0B06 as well. -/
theorem not_hostCommands : ¬ Obligations.HostCommands := by
  unfold Obligations.HostCommands
  intro h
  obtain ⟨-, -, hquote, -⟩ := h quoteState 0 7 7 quoteCmd (by decide)
  obtain ⟨-, hfails, -⟩ := hquote rfl
  obtain ⟨t, -, -, hend, hsigned, -⟩ := hfails (by decide)
  exact hend.not_among (by decide) (by decide) hsigned

end Sys2Proof.Machine
end

section
/-!
PROOFS. The host ports: resets, link, D3hot, memory accesses and the read of a lower word (R443 to R448, R456 to R458, R6).
-/
set_option Elab.async false

namespace Sys2Proof.Machine

/-! ## Accesses and the stored bytes -/

/-- The bytes of the tank, the core buffers and DRAM stand as they did. -/
structure CellsKept (s t : State) : Prop where
  tank : t.mem.tank.cells = s.mem.tank.cells
  cbuf : t.mem.cbuf.cells = s.mem.cbuf.cells
  dram : t.mem.dram.cells = s.mem.dram.cells

theorem CellsKept.refl (s : State) : CellsKept s s := ⟨rfl, rfl, rfl⟩

theorem CellsKept.trans {s t u : State} (h : CellsKept s t) (k : CellsKept t u) : CellsKept s u :=
  ⟨k.tank.trans h.tank, k.cbuf.trans h.cbuf, k.dram.trans h.dram⟩

theorem SameBut.cellsKept {l : List Piece} {s t : State} (h : SameBut l s t) (hl : .tank ∉ l ∧ .cbuf ∉ l ∧ .dram ∉ l := by decide) : CellsKept s t :=
  ⟨congrArg Mem.cells (h .tank hl.1), congrArg Mem.cells (h .cbuf hl.2.1), congrArg Mem.cells (h .dram hl.2.2)⟩

theorem CellsKept.foldl {α : Type} {f : State → α → State} (hf : ∀ t a, CellsKept t (f t a)) (l : List α) (s : State) : CellsKept s (l.foldl f s) := by
  induction l generalizing s with
  | nil => exact CellsKept.refl s
  | cons a l ih => exact (hf s a).trans (ih _)

theorem State.setMem_cellsKept {s : State} {sp : Nat} {m : Mem} (h : m.cells = (s.memOf sp).cells) : CellsKept s (s.setMem sp m) := by
  unfold State.memOf at h
  unfold State.setMem
  by_cases h0 : sp = 0
  · subst h0
    exact ⟨h, rfl, rfl⟩
  · by_cases h1 : sp = 1
    · subst h1
      exact ⟨rfl, h, rfl⟩
    · rw [if_neg h0, if_neg h1] at h
      simp only [if_neg h0, if_neg h1]
      exact ⟨rfl, rfl, h⟩

theorem State.correct_cellsKept (s : State) (sp : Nat) (hit : Nat × Bool → Bool) : CellsKept s (s.correct sp hit) := by
  unfold State.correct
  extract_lets m gs
  have h1 : CellsKept s (s.setMem sp { m with ecc := m.ecc.filter (fun e => e.2 || !gs.contains e.1) }) := State.setMem_cellsKept rfl
  exact h1.trans (State.eccCount_same _ _).cellsKept

/-- A read corrects errors and reports them; no byte changes (R253). -/
theorem State.readFx_cellsKept (s : State) (sp a n port kind : Nat) : CellsKept s (s.readFx sp a n port kind) := by
  unfold State.readFx
  extract_lets hit
  have hu : ∀ (t : State) (e : Nat × Bool), CellsKept t (t.eccUnc sp e.1 port kind) := fun t e => (t.eccUnc_same sp e.1 port kind).cellsKept
  exact (s.correct_cellsKept sp hit).trans (CellsKept.foldl hu _ _)

/-! ## Port resets -/

/-- The EN registers of a port's queues, as offsets. -/
abbrev queueCfgs : List Nat := [0x18, 0x48, 0x58, 0x68, 0x78, 0x88, 0x98, 0xA8, 0xB8]

theorem foldl_clrReg_rbit (b m : Nat) (l : List Nat) (s : State) (o i : Nat) (hi : i < 32) :
    (l.foldl (fun t o => t.clrReg (b + o) m) s).rbit (b + o) i = (s.rbit (b + o) i && !(decide (o ∈ l) && m.testBit i)) := by
  induction l generalizing s with
  | nil => simp
  | cons c l ih =>
    rw [List.foldl_cons, ih]
    by_cases h : o = c
    · subst h
      rw [State.rbit_clrReg_self _ _ _ _ hi]
      cases s.rbit (b + o) i <;> cases Nat.testBit m i <;> simp
    · rw [State.rbit, State.reg_clrReg_ne _ _ (by omega), ← State.rbit]
      simp [h]

theorem foldl_clrReg_same (b m : Nat) (l : List Nat) (s : State) : SameBut [.regs] s (l.foldl (fun t o => t.clrReg (b + o) m) s) :=
  SameBut.foldl (fun t _ => t.clrReg_same _ _) _ _

/-- A change made to each of a list of queue pairs. -/
theorem foldl_setHq_hq (f : HQueue → HQueue) {l : List Nat} (hl : l.Nodup) (s : State) (q : Nat) :
    (l.foldl (fun t q => t.setHq q (f (t.hq q))) s).hq q = if q ∈ l then f (s.hq q) else s.hq q := by
  induction l generalizing s with
  | nil => rfl
  | cons c l ih =>
    obtain ⟨hc, hl⟩ := List.nodup_cons.mp hl
    rw [List.foldl_cons, ih hl]
    by_cases h : q = c
    · subst h
      rw [if_neg hc, if_pos List.mem_cons_self, State.hq_setHq_self]
    · have hne : (s.setHq c (f (s.hq c))).hq q = s.hq q := Tab.getD_setD_ne s.host.q .empty _ .empty h
      rw [hne]
      simp [h]

theorem foldl_setHq_cfg (f : HQueue → HQueue) (l : List Nat) (s : State) : (l.foldl (fun t q => t.setHq q (f (t.hq q))) s).host.cfg = s.host.cfg := by
  induction l generalizing s with
  | nil => rfl
  | cons c l ih => exact (ih _).trans rfl

theorem State.portCfg_congr {s t : State} (h : t.host.cfg = s.host.cfg) (p : Nat) : t.portCfg p = s.portCfg p := by
  unfold State.portCfg; rw [h]

/-- What a port reset does to the commands of a queue pair: completions that wait are dropped, and those of commands in progress will be. -/
def muted (h : HQueue) : HQueue := { h with ended := [], prog := h.prog.map (fun c => { c with mute := true }) }

/-- The registers that a port reset returns to their reset value. -/
def portGone (p a : Nat) : Bool := (decide (baseHst p + 0x100 ≤ a) && decide (a < baseHst p + 0x200)) || a == baseHst p + 4
    || (decide (0x404000 + p * 0x1000 ≤ a) && decide (a < 0x405000 + p * 0x1000))

/-- The state without those registers, and without the pending vectors of a port. -/
def portCleared (p : Nat) (s : State) : State :=
  { s with regs := Tab.keep s.regs (fun a => !portGone p a), ev := { s.ev with pba := Tab.keep s.ev.pba (fun k => k / 64 != p) } }

/-- The state with a port's configuration space at reset. -/
def cfgCleared (p : Nat) (s : State) : State := { s with host := { s.host with cfg := Tab.erase s.host.cfg p } }

/-- A port's part of the reset, before that of port A's commands. -/
def resetRegs (p : Nat) (s : State) : State :=
  cfgCleared p ((portCleared p (queueCfgs.foldl (fun t o => t.clrReg (baseHst p + o) (2 ^ 31)) s)).clrReg (Reg.HST_PSTAT p) 0x400)

theorem resetPort_eq (p : Nat) (s : State) : resetPort p s = if p = 0 then (List.range 4).foldl (fun t q => t.setHq q (muted (t.hq q))) (resetRegs p s) else resetRegs p s := by
  unfold resetPort
  extract_lets b s1 gone e s2 x h s3
  have hgone : gone = portGone p := rfl
  have h1 : s1 = queueCfgs.foldl (fun t o => t.clrReg (baseHst p + o) (2 ^ 31)) s := rfl
  clear_value gone s1
  have h2 : s2 = portCleared p s1 := by rw [portCleared, ← hgone]
  clear_value s2
  have h3 : s3 = resetRegs p s := by rw [resetRegs, ← h1, ← h2]; rfl
  rw [h3]
  rfl

theorem portCleared_reg (p : Nat) (s : State) (a : Nat) : (portCleared p s).reg a = if portGone p a then regReset a else s.reg a := by
  have hk : (portCleared p s).reg a = (if (!portGone p a) = true then Tab.find? s.regs a else none).getD (regReset a) := by
    rw [← Tab.find?_keep s.regs (fun a => !portGone p a)]
    rfl
  rw [hk]
  cases portGone p a <;> rfl

theorem portGone_low {p o : Nat} (ho : o < 0x100) (h4 : o ≠ 4) (hp : p < 2) : portGone p (baseHst p + o) = false := by
  unfold portGone baseHst
  simp only [Bool.or_eq_false_iff, Bool.and_eq_false_iff, decide_eq_false_iff_not, beq_eq_false_iff_ne]
  omega

theorem hstErr_reset (p : Fin 2) : regReset (Reg.HST_ERR p.val) = 0 := by revert p; decide

theorem resetRegs_spec (p : Fin 2) (s : State) :
    (∀ o ∈ queueCfgs, (resetRegs p.val s).rbit (baseHst p.val + o) 31 = false) ∧ (resetRegs p.val s).reg (Reg.HST_ERR p.val) = 0
    ∧ (∀ i < 32, (resetRegs p.val s).rbit (Reg.HST_PSTAT p.val) i = (s.rbit (Reg.HST_PSTAT p.val) i && !Nat.testBit 0x400 i))
    ∧ (resetRegs p.val s).ev.log = s.ev.log ∧ ((resetRegs p.val s).portCfg p.val).msix = false ∧ ∀ q, (resetRegs p.val s).hq q = s.hq q := by
  unfold resetRegs
  obtain ⟨s1, hs1⟩ : ∃ s1, s1 = queueCfgs.foldl (fun t o => t.clrReg (baseHst p.val + o) (2 ^ 31)) s := ⟨_, rfl⟩
  have hsame : SameBut [.regs] s s1 := hs1 ▸ foldl_clrReg_same _ _ _ _
  have hbit : ∀ o i, i < 32 → s1.rbit (baseHst p.val + o) i = (s.rbit (baseHst p.val + o) i && !(decide (o ∈ queueCfgs) && Nat.testBit (2 ^ 31) i)) :=
    fun o i hi => hs1 ▸ foldl_clrReg_rbit _ _ _ _ _ _ hi
  rw [← hs1]
  obtain ⟨u, hu⟩ : ∃ u, u = (portCleared p.val s1).clrReg (Reg.HST_PSTAT p.val) 0x400 := ⟨_, rfl⟩
  have hreg : ∀ a, a ≠ Reg.HST_PSTAT p.val → u.reg a = if portGone p.val a then regReset a else s1.reg a := fun a ha => by
    rw [hu, State.reg_clrReg_ne _ _ ha, portCleared_reg]
  have hstat : ∀ i < 32, u.rbit (Reg.HST_PSTAT p.val) i = (s1.rbit (Reg.HST_PSTAT p.val) i && !Nat.testBit 0x400 i) := fun i hi => by
    rw [hu, State.rbit_clrReg_self _ _ _ _ hi, State.rbit, portCleared_reg, show Reg.HST_PSTAT p.val = baseHst p.val + 0 from rfl, portGone_low (by decide) (by decide) p.isLt]
    rfl
  have hlog : u.ev.log = s1.ev.log := by rw [hu]; rfl
  have hhost : u.host = s1.host := by rw [hu]; rfl
  rw [← hu]
  refine ⟨fun o ho => ?_, ?_, fun i hi => ?_, hlog.trans (congrArg EvSt.log (hsame .ev (by decide))), ?_, fun q => ?_⟩
  · have hlt : o < 0x100 ∧ o ≠ 4 ∧ o ≠ 0 := by revert o; decide
    show bit (u.reg _) 31 = false
    rw [hreg _ (by unfold Reg.HST_PSTAT; omega), portGone_low hlt.1 hlt.2.1 p.isLt]
    exact (hbit _ _ (by decide)).trans (by rw [Nat.testBit_two_pow_self, decide_eq_true ho]; exact Bool.and_false _)
  · show u.reg _ = 0
    rw [hreg _ (by unfold Reg.HST_ERR Reg.HST_PSTAT; omega), show portGone p.val (Reg.HST_ERR p.val) = true by unfold portGone Reg.HST_ERR; simp]
    exact hstErr_reset p
  · show u.rbit _ i = _
    rw [hstat i hi, show Reg.HST_PSTAT p.val = baseHst p.val + 0 from rfl, hbit _ _ hi]
    simp
  · show (Tab.getD (Tab.erase u.host.cfg p.val) p.val (⟨false, false⟩ : PortCfg)).msix = _
    rw [Tab.getD, Tab.find?_erase, if_pos rfl]
    rfl
  · show Tab.getD u.host.q q HQueue.empty = _
    rw [hhost, hsame .host (by decide)]
    rfl

/-- A port reset: what it leaves of registers, and the commands of port A. -/
theorem resetPort_spec (p : Fin 2) (s : State) :
    (∀ o ∈ queueCfgs, (resetPort p.val s).rbit (baseHst p.val + o) 31 = false) ∧ (resetPort p.val s).reg (Reg.HST_ERR p.val) = 0
    ∧ (∀ i < 32, (resetPort p.val s).rbit (Reg.HST_PSTAT p.val) i = (s.rbit (Reg.HST_PSTAT p.val) i && !Nat.testBit 0x400 i))
    ∧ (resetPort p.val s).ev.log = s.ev.log ∧ ((resetPort p.val s).portCfg p.val).msix = false
    ∧ (p.val = 0 → ∀ q < 4, (resetPort p.val s).hq q = muted (s.hq q)) := by
  obtain ⟨h1, h2, h3, h4, h5, h6⟩ := resetRegs_spec p s
  rw [resetPort_eq]
  by_cases hp : p.val = 0
  · rw [if_pos hp]
    obtain ⟨u, hu⟩ : ∃ u, u = resetRegs p.val s := ⟨_, rfl⟩
    rw [← hu] at h1 h2 h3 h4 h5 h6 ⊢
    have hsame : SameBut [.host] u ((List.range 4).foldl (fun t q => t.setHq q (muted (t.hq q))) u) := SameBut.foldl (fun t q => t.setHq_same _ _) _ _
    refine ⟨fun o ho => ((hsame.regsBut []).rbit (by simp) 31).trans (h1 o ho), (hsame.reg (by decide) _).trans h2, fun i hi => ((hsame.regsBut []).rbit (by simp) i).trans (h3 i hi),
      (congrArg EvSt.log (hsame .ev (by decide))).trans h4, ?_, fun _ q hq => ?_⟩
    · rw [State.portCfg_congr (foldl_setHq_cfg muted _ _)]
      exact h5
    · rw [foldl_setHq_hq muted List.nodup_range, if_pos (List.mem_range.mpr hq), h6]
  · rw [if_neg hp]
    exact ⟨h1, h2, h3, h4, h5, fun h => absurd h hp⟩

/-! ## Pending vectors -/

theorem sendPending_same (p v : Nat) (s : State) : SameBut [.ev] s (sendPending p v s) :=
  sameBut_ite (fun q hq => by cases q <;> first | rfl | exact absurd (by decide) hq) (SameBut.refl _ _)

theorem sendPending_pba (p v k : Nat) (s : State) : Tab.getD (sendPending p v s).ev.pba k false = (Tab.getD s.ev.pba k false && !(k == p * 64 + v)) := by
  unfold sendPending
  split
  · show Tab.getD (Tab.setD s.ev.pba (p * 64 + v) false false) k false = _
    rw [Tab.getD_setD]
    by_cases h : k = p * 64 + v
    · simp [h]
    · simp [h]
  · next h =>
    by_cases hk : k = p * 64 + v
    · rw [hk]; simp [Bool.eq_false_iff.mpr h]
    · simp [hk]

theorem sendUnmasked_same (p : Nat) (s : State) : SameBut [.ev] s (sendUnmasked p s) :=
  sameBut_ite (SameBut.foldl (fun t v => sameBut_ite (SameBut.refl _ _) (sendPending_same p v t)) _ _) (SameBut.refl _ _)

/-- One vector's turn in the release of a port's pending vectors. -/
def sendTurn (p : Nat) (t : State) (v : Nat) : State := if t.rbit (Reg.MSIX_CTL p v) 0 then t else sendPending p v t

theorem sendTurn_same (p v : Nat) (s : State) : SameBut [.ev] s (sendTurn p s v) := sameBut_ite (SameBut.refl _ _) (sendPending_same p v s)

theorem sendTurn_clear {p k : Nat} (v : Nat) {s : State} (h : Tab.getD s.ev.pba k false = false) : Tab.getD (sendTurn p s v).ev.pba k false = false := by
  unfold sendTurn
  split
  · exact h
  · rw [sendPending_pba, h, Bool.false_and]

theorem foldl_sendTurn_clear {p k : Nat} (l : List Nat) {s : State} (h : Tab.getD s.ev.pba k false = false) : Tab.getD (l.foldl (sendTurn p) s).ev.pba k false = false := by
  induction l generalizing s with
  | nil => exact h
  | cons v l ih => exact ih (sendTurn_clear v h)

/-- A vector that is not masked pends no more once its turn has come. -/
theorem foldl_sendTurn_sent {p v : Nat} {l : List Nat} (hv : v ∈ l) {s : State} (hm : s.rbit (Reg.MSIX_CTL p v) 0 = false) :
    Tab.getD (l.foldl (sendTurn p) s).ev.pba (p * 64 + v) false = false := by
  induction l generalizing s with
  | nil => exact absurd hv (by simp)
  | cons c l ih =>
    rw [List.foldl_cons]
    rcases List.mem_cons.mp hv with rfl | hv
    · refine foldl_sendTurn_clear l ?_
      unfold sendTurn
      rw [if_neg (by rw [hm]; decide), sendPending_pba]
      simp
    · refine ih hv ?_
      rw [← hm]
      exact ((sendTurn_same p c s).regsBut []).rbit (by simp) 0

/-! ## Reads -/

theorem hostPoison_same (p : Nat) (bar4 bad : Bool) (off : Nat) (s : State) : SameBut [.ev, .hostMem, .regs] s (hostPoison p bar4 bad off s) :=
  sameBut_ite (((s.hstErr_same p 2).mono (by decide)).then (State.raise_same _ _ _ _ _)) (SameBut.refl _ _)

/-- What the ECC of a part does as the host reads it. -/
def readPart (p : Nat) (t : State) (x : BarPart) : State := match x.1 with
  | some (sp, a) => t.readFx sp a x.2 (73 + p) 0
  | none => t

theorem readPart_same (p : Nat) (t : State) (x : BarPart) : SameBut accessParts t (readPart p t x) := by
  unfold readPart
  split
  · exact t.readFx_same _ _ _ _ _
  · exact SameBut.refl _ _

theorem readPart_cellsKept (p : Nat) (t : State) (x : BarPart) : CellsKept t (readPart p t x) := by
  unfold readPart
  split
  · exact t.readFx_cellsKept _ _ _ _ _
  · exact CellsKept.refl _

theorem State.hostGot_same (s : State) (r : Option (List Byte × Bool)) : SameBut [.host] s (s.hostGot r) :=
  fun p hp => by cases p <;> first | rfl | exact absurd (by decide) hp

theorem hostReadBody_spec (p : Nat) (bar4 : Bool) (off : Nat) (ps : List BarPart) (s : State) :
    (hostReadBody p bar4 off ps s).host.rd = some (ps.flatMap (partBytes s), ps.any (partPoison s)) ∧ CellsKept s (hostReadBody p bar4 off ps s)
    ∧ SameBut (evParts ++ [.regs, .host, .tank, .cbuf, .dram]) s (hostReadBody p bar4 off ps s) := by
  have h1 : SameBut accessParts s (ps.foldl (readPart p) s) := SameBut.foldl (fun t x => readPart_same p t x) _ _
  have h2 : CellsKept s (ps.foldl (readPart p) s) := CellsKept.foldl (fun t x => readPart_cellsKept p t x) _ _
  have he : hostReadBody p bar4 off ps s = (hostPoison p bar4 (ps.any (partPoison s)) off (ps.foldl (readPart p) s)).hostGot (some (ps.flatMap (partBytes s), ps.any (partPoison s))) := rfl
  rw [he]
  generalize ps.foldl (readPart p) s = u at h1 h2 ⊢
  have h3 := hostPoison_same p bar4 (ps.any (partPoison s)) off u
  generalize hostPoison p bar4 (ps.any (partPoison s)) off u = w at h3 ⊢
  exact ⟨rfl, (h2.trans h3.cellsKept).trans (w.hostGot_same _).cellsKept, ((h1.mono (by decide)).then h3).then (w.hostGot_same _)⟩

/-! ## Writes -/

theorem wdrop_ne : Reg.HST_WDROP 0 ≠ Reg.HST_WDROP 1 := by decide

/-- A write of port B that is dropped counts in both ports' registers (R445). -/
theorem State.wdrop_spec (s : State) : s.wdrop.reg (Reg.HST_WDROP 0) = satAdd (s.reg (Reg.HST_WDROP 0)) 1 ∧ s.wdrop.reg (Reg.HST_WDROP 1) = satAdd (s.reg (Reg.HST_WDROP 1)) 1
    ∧ SameBut (evParts ++ [.regs, .host]) s s.wdrop := by
  obtain ⟨u, hu⟩ : ∃ u, u = (s.incReg (Reg.HST_WDROP 0) 1).incReg (Reg.HST_WDROP 1) 1 := ⟨_, rfl⟩
  have h0 : u.reg (Reg.HST_WDROP 0) = satAdd (s.reg (Reg.HST_WDROP 0)) 1 := by rw [hu, State.reg_incReg_ne _ _ wdrop_ne, State.reg_incReg_self]
  have h1 : u.reg (Reg.HST_WDROP 1) = satAdd (s.reg (Reg.HST_WDROP 1)) 1 := by rw [hu, State.reg_incReg_self, State.reg_incReg_ne _ _ wdrop_ne.symm]
  have hs : SameBut [.ev, .hostMem, .regs, .host] s u := hu ▸ ((s.incReg_same _ _).trans (State.incReg_same _ _ _)).mono (by decide)
  have hr := u.raise_same 0x0A06 0 0x801 (2 ^ 32 * (u.reg (Reg.HST_WDROP 0)).toNat)
  obtain ⟨w, hw⟩ : ∃ w, w = u.raise 0x0A06 0 0x801 (2 ^ 32 * (u.reg (Reg.HST_WDROP 0)).toNat) := ⟨_, rfl⟩
  rw [← hw] at hr
  obtain ⟨due, hd⟩ : ∃ due : Bool, s.wdrop = if due then { w with host := { u.host with wdropAt := some s.cnt.aon } } else u := ⟨_, by rw [hw, hu]; rfl⟩
  rw [hd]
  cases due with
  | false => exact ⟨h0, h1, hs⟩
  | true => exact ⟨(hr.reg (by decide) _).trans h0, (hr.reg (by decide) _).trans h1, (hs.then hr).trans (fun q hq => by cases q <;> first | rfl | exact absurd (by decide) hq)⟩

theorem State.dramPut_logGrows (s : State) (a : Nat) (bs : List Byte) (port : Nat) : LogGrows s (s.dramPut a bs port) := by
  unfold State.dramPut
  refine logGrows_ite (s.writeFx_logGrows _ _ _ _) ?_
  exact (LogGrows.foldl (fun t r => t.writeFx_logGrows _ _ _ _) _ _).trans (State.raise_logGrows _ _ _ _ _)

/-- A part of a host write. -/
def putPart (p : Nat) (x : BarPart) (d : List Byte) (s : State) : State := match x.1 with
  | some (sp, a) => if sp = 2 then s.dramPut a d (73 + p) else s.writeFx sp a d (73 + p)
  | none => s

theorem hostPut_cons (p : Nat) (x : BarPart) (r : List BarPart) (bs : List Byte) (s : State) : hostPut p (x :: r) bs s = hostPut p r (bs.drop x.2) (putPart p x (bs.take x.2) s) := rfl

theorem hostPut_logGrows (p : Nat) (ps : List BarPart) (bs : List Byte) (s : State) : LogGrows s (hostPut p ps bs s) := by
  induction ps generalizing bs s with
  | nil => exact LogGrows.refl s
  | cons x r ih =>
    rw [hostPut_cons]
    refine LogGrows.trans ?_ (ih _ _)
    unfold putPart
    split
    · exact logGrows_ite (s.dramPut_logGrows _ _ _) (s.writeFx_logGrows _ _ _ _)
    · exact LogGrows.refl s

/-- A part of an access to the tank. -/
def InTank (x : BarPart) : Prop := ∃ a, x.1 = some (0, a)

theorem bar2Parts_inTank (f off n : Nat) (h : off + n ≤ 2 ^ 27) : ∀ x ∈ bar2Parts f off n, InTank x := by
  induction f generalizing off n with
  | zero => exact fun x hx => absurd hx (by simp [bar2Parts])
  | succ f ih =>
    intro x hx
    unfold bar2Parts at hx
    split at hx
    · exact absurd hx (by simp)
    · next hn =>
      rcases List.mem_cons.mp hx with rfl | hx
      · exact ⟨off, if_pos (by omega)⟩
      · exact ih _ _ (by omega) x hx

theorem any_inTank {ps : List BarPart} {f : BarPart → Bool} (h : ∀ x ∈ ps, InTank x) (hf : ∀ a n, f (some (0, a), n) = false) : ps.any f = false := by
  refine List.any_eq_false.mpr fun x hx => ?_
  obtain ⟨a, ha⟩ := h x hx
  rw [show x = (some (0, a), x.2) from Prod.ext ha rfl, hf]
  decide

/-- The parts of an access to a tank without ECC errors put the bytes of the data in their order. -/
theorem hostPut_tank (f : Nat) {off n : Nat} {data : List Byte} {s : State} (hf : n = 0 ∨ n + off % 2 ^ 21 ≤ f * 2 ^ 21) (hn : data.length = n) (hend : off + n ≤ 2 ^ 27) (hecc : s.mem.tank.ecc = []) :
    SameBut [.tank] s (hostPut 0 (bar2Parts f off n) data s)
    ∧ ∀ b, (hostPut 0 (bar2Parts f off n) data s).mem.tank.byte b = if off ≤ b ∧ b < off + n then data.getD (b - off) 0 else s.mem.tank.byte b := by
  induction f generalizing off n data s with
  | zero =>
    refine ⟨SameBut.refl _ _, fun b => (if_neg (by omega)).symm⟩
  | succ f ih =>
    unfold bar2Parts
    by_cases h0 : n = 0
    · rw [if_pos h0]
      exact ⟨SameBut.refl _ _, fun b => (if_neg (by omega)).symm⟩
    · rw [if_neg h0]
      obtain ⟨m, hm⟩ : ∃ m, m = min n (2 ^ 21 - off % 2 ^ 21) := ⟨_, rfl⟩
      dsimp only
      rw [← hm, if_pos (by omega : off < 2 ^ 27), hostPut_cons]
      have hlt : off % 2 ^ 21 < 2 ^ 21 := Nat.mod_lt _ (by decide)
      have hput : putPart 0 (some (0, off), m) (data.take m) s = s.tankPut off (data.take m) 73 := by
        unfold State.tankPut
        rw [List.take_of_length_le (l := data.take m) (by rw [List.length_take]; omega)]
        rfl
      rw [hput]
      obtain ⟨hsame, hecc'⟩ := State.tankPut_clean hecc off (data.take m) 73
      have hbyte := fun b => State.tankPut_byte hecc (a := off) (bs := data.take m) (port := 73) (by rw [List.length_take]; omega) b
      generalize s.tankPut off (data.take m) 73 = u at hsame hecc' hbyte ⊢
      have hfuel : n - m = 0 ∨ n - m + (off + m) % 2 ^ 21 ≤ f * 2 ^ 21 := by
        by_cases hle : n ≤ 2 ^ 21 - off % 2 ^ 21
        · exact Or.inl (by omega)
        · have hm' : m = 2 ^ 21 - off % 2 ^ 21 := by omega
          have hmod : (off + m) % 2 ^ 21 = 0 := by omega
          exact Or.inr (by omega)
      obtain ⟨ih1, ih2⟩ := ih (off := off + m) (n := n - m) (data := data.drop m) (s := u) hfuel (by rw [List.length_drop]; omega) (by omega) hecc'
      refine ⟨hsame.trans ih1, fun b => ?_⟩
      rw [ih2, hbyte, List.length_take]
      by_cases hb1 : off + m ≤ b ∧ b < off + m + (n - m)
      · rw [if_pos hb1, if_pos (by omega), List.getD_eq_getElem?_getD, List.getElem?_drop, List.getD_eq_getElem?_getD, show m + (b - (off + m)) = b - off by omega]
      · rw [if_neg hb1]
        by_cases hb2 : off ≤ b ∧ b < off + min m data.length
        · rw [if_pos hb2, if_pos (by omega), List.getD_eq_getElem?_getD, List.getElem?_take_of_lt (by omega), List.getD_eq_getElem?_getD]
        · rw [if_neg hb2, if_neg (by omega)]

/-! ## The read of a lower word -/

theorem glbCopy_lt {a : Nat} (h : glbCopy a = true) : a < 0x1C0 := by
  unfold glbCopy at h
  simp only [Bool.or_eq_true, Bool.and_eq_true, beq_iff_eq, decide_eq_true_eq] at h
  omega

theorem glbCopy_narrow : ∀ a < 0x1C0, glbCopy a = true → a % 4 = 0 → ((regRow a).elim true fun r => r.wide != 1) = true := by decide +kernel

theorem nvsWindow_noRow {a : Nat} (h : 0x280000 ≤ a) (h' : a < 0x2C0000) : regRow a = none := by
  unfold regRow
  rw [if_neg (by omega), if_neg (by omega), if_neg (by omega), if_neg (by omega), if_pos (by omega)]

theorem readLower_wide {who : Who} {a : Nat} {r : RegRow} (s : State) (hrow : regRow a = some r) (hw : r.wide = 1) :
    readLower who a s = s.setReq who { s.reqSt who with latch := some (a, s.readFor who (a + 4)) } := by
  unfold readLower
  rw [if_neg (fun h => by simp [nvsWindow_noRow h.1 h.2.1] at hrow)]
  unfold latchUpper
  rw [hrow]
  exact if_pos hw

theorem readLower_narrow {who : Who} {a : Nat} (s : State) (hlt : a < 0x1C0) (h : ((regRow a).elim true fun r => r.wide != 1) = true) : readLower who a s = s := by
  unfold readLower
  rw [if_neg (by omega)]
  unfold latchUpper
  split
  · next r hr =>
    rw [hr] at h
    exact if_neg (by simpa using h)
  · rfl

theorem State.readFor_eq (s : State) (who : Who) (a : Nat) : s.readFor who a = if who = .portB ∧ portBHides a = true then 0 else s.readReg a := by
  unfold State.readFor
  split
  · simp
  · next h => exact (if_neg fun hw => h hw.1).symm

theorem State.reqSt_setReq_ne (s : State) {who w : Who} (x : ReqSt) (h : whoIx w ≠ whoIx who) : (s.setReq who x).reqSt w = s.reqSt w := by
  unfold State.reqSt
  exact Tab.getD_setD_ne s.req _ x _ h

/-- A read that its requester's port and domain let through. -/
theorem exec_lowerWordRead {s : State} {who : Who} {addr : BarAddr} (hup6 : s.up 6 = true) (hal : addr.off.toNat % 4 = 0) (hup : s.up (domOfAddr addr.off.toNat) = true)
    (hp : ∀ p, whoPort who = some p → addr.word = true ∧ s.reach addr.off.toNat = true ∧ s.rbit (Reg.HST_PSTAT p) 10 = false) :
    exec (.lowerWordRead who addr) s = .next (readLower who addr.off.toNat s) := by
  show execLowerWordRead who addr s = _
  unfold execLowerWordRead
  extract_lets a
  refine congrArg Host.Outcome.next ?_
  split
  · exact if_pos hup
  · next p hwp =>
    obtain ⟨hword, hreach, hd3⟩ := hp p hwp
    have hrr : s.readReach a = true := by
      unfold State.readReach
      rw [show s.reach a = true from hreach]
      rfl
    have hba : barAligned addr = true := by
      unfold barAligned
      rw [hword, hal]
      rfl
    rw [hup6, hd3, hba, hrr]
    rfl

theorem nvsGo_serves {s : State} {l : List NvsCmd} (h2 : s.up 2 = true) (hr : s.nvs.ready = true) (hc : s.nvs.cur = none) (hq : s.nvs.queue = []) :
    s.nvsPut l = nvsServe l { s with nvs := { s.nvs with queue := l } } := by
  unfold State.nvsPut State.nvsGo
  rw [if_pos ⟨h2, hr, hc⟩, hq]
  rfl

theorem nvsServe_window (ix o : Nat) (s : State) : (nvsServe [.win ix o] s).nvs.got = some (ix, o, BitVec.ofNat 32 (s.mem.nvs.readN o 4)) := by
  rw [nvsServe]
  obtain ⟨u, hu⟩ : ∃ u, u = s.winRead ix o := ⟨_, rfl⟩
  have hgot : u.nvs.got = some (ix, o, BitVec.ofNat 32 (s.mem.nvs.readN o 4)) := by rw [hu]; rfl
  rw [← hu, nvsServe, ← hgot]
  split
  · rfl
  · split <;> rfl

/-! ## The obligation -/

theorem raised_from_log {s t u : State} {code : Nat} (h : t.ev.log = s.ev.log) (k : Raised code t u) : Raised code s u := by
  rwa [Raised, h] at k

/-- A port reset of a host port block in RUN. -/
theorem portReset_spec (p : Fin 2) (kind : Nat) {x : State} (h : x.up 6 = true) :
    Raised 0x0A02 x (portReset p.val kind x) ∧ (portReset p.val kind x).rbit (Reg.HST_EQ_CFG p.val) 31 = false ∧ (portReset p.val kind x).reg (Reg.HST_ERR p.val) = 0
    ∧ (portReset p.val kind x).rbit (Reg.HST_PSTAT p.val) 10 = false ∧ ((portReset p.val kind x).portCfg p.val).msix = false
    ∧ (∀ i < 8, (portReset p.val kind x).rbit (Reg.HST_PSTAT p.val) i = x.rbit (Reg.HST_PSTAT p.val) i)
    ∧ (p.val = 0 → ∀ q < 4, (portReset p.val kind x).rbit (Reg.HST_SQ_CFG 0 q) 31 = false ∧ (portReset p.val kind x).rbit (Reg.HST_CQ_CFG 0 q) 31 = false
      ∧ (portReset p.val kind x).hq q = muted (x.hq q)) := by
  have he : portReset p.val kind x = (resetPort p.val x).raise 0x0A02 2 (0x800 + p.val) (p.val + 256 * kind) := by
    unfold portReset
    rw [h]
    rfl
  obtain ⟨h1, h2, h3, h4, h5, h6⟩ := resetPort_spec p x
  have hs := (resetPort p.val x).raise_same 0x0A02 2 (0x800 + p.val) (p.val + 256 * kind)
  have hr := (resetPort p.val x).raise_raised 0x0A02 2 (0x800 + p.val) (p.val + 256 * kind)
  rw [he]
  generalize resetPort p.val x = u at h1 h2 h3 h4 h5 h6 hs hr ⊢
  generalize u.raise 0x0A02 2 (0x800 + p.val) (p.val + 256 * kind) = t at hs hr ⊢
  have hb : ∀ a i, t.rbit a i = u.rbit a i := fun a i => (hs.regsBut []).rbit (by simp) i
  refine ⟨by rwa [Raised, h4] at hr, (hb _ _).trans (h1 0x18 (by decide)), (hs.reg (by decide) _).trans h2, ?_, ?_, fun i hi => ?_, fun hp q hq => ?_⟩
  · rw [hb, h3 10 (by decide)]
    exact Bool.and_false _
  · rw [State.portCfg_congr (congrArg HostSt.cfg (hs .host (by decide)))]
    exact h5
  · rw [hb, h3 i (by omega), (show ∀ i < 8, Nat.testBit 0x400 i = false by decide) i hi]
    exact Bool.and_true _
  · have hsq : Reg.HST_SQ_CFG 0 q = baseHst p.val + (0x48 + q * 0x20) := by rw [hp]; unfold Reg.HST_SQ_CFG; omega
    have hcq : Reg.HST_CQ_CFG 0 q = baseHst p.val + (0x58 + q * 0x20) := by rw [hp]; unfold Reg.HST_CQ_CFG; omega
    refine ⟨?_, ?_, (hs.hq (by decide) q).trans (h6 hp q hq)⟩
    · rw [hb, hsq]
      exact h1 _ ((show ∀ q < 4, 0x48 + q * 0x20 ∈ queueCfgs by decide) q hq)
    · rw [hb, hcq]
      exact h1 _ ((show ∀ q < 4, 0x58 + q * 0x20 ∈ queueCfgs by decide) q hq)

theorem clrLink_fld (s : State) (a : Nat) : (s.clrReg a 0xFF).fld a 7 0 = 0 := by
  have h : (s.clrReg a 0xFF).fld a 7 0 = ((s.clrReg a 0xFF).setReg a 0).fld a 7 0 := State.fld_congr fun i _ hi => by
    rw [State.rbit_clrReg_self _ _ _ _ (by omega), State.rbit_setReg_self, (show ∀ i ≤ 7, Nat.testBit 0xFF i = true by decide) i hi, Bool.not_true, Bool.and_false]
    exact ((show ∀ i ≤ 7, bit (0 : W32) i = false by decide) i hi).symm
  rw [h, State.fld, State.reg_setReg_self]
  rfl

theorem hostWrite_poisoned {p : Nat} (bar4 : Bool) (off : Nat) (s u : State) (h : LogGrows s u) (c : Bool) (v : State)
    (hv : v = hostPoison p bar4 true off u) :
    (if c then v.orReg Reg.TNK_ERR 4 else v).rbit (Reg.HST_ERR p) 2 = true ∧ RaisedAmong 0x0A04 s (if c then v.orReg Reg.TNK_ERR 4 else v) := by
  have hb : v.rbit (Reg.HST_ERR p) 2 = true := by
    rw [hv]
    show ((u.hstErr p 2).raise _ _ _ _).rbit _ _ = _
    rw [State.rbit, State.raise_reg]
    exact u.hstErr_rbit p (by decide)
  have hr : RaisedAmong 0x0A04 s v := by
    rw [hv]
    exact h.raised (raised_of_ev ((u.hstErr_same p 2) .ev (by decide)) _ _ _ _)
  have hne : Reg.HST_ERR p ≠ Reg.TNK_ERR := by unfold Reg.HST_ERR Reg.TNK_ERR baseHst baseTnk; omega
  cases c with
  | false => exact ⟨hb, hr⟩
  | true => exact ⟨by rw [if_pos rfl, State.rbit, State.reg_orReg_ne _ _ hne]; exact hb, hr⟩

/-- Settles O55: the host ports. -/
theorem hostPortsAndMemory : Obligations.HostPortsAndMemory := by
  unfold Obligations.HostPortsAndMemory
  intro s hup
  refine ⟨fun port p j hp hj => ?_, fun p w x n hn => ⟨fun h => ?_, fun hw h0 => ?_⟩, fun p on => ?_, fun p e m => ?_, fun p bar4 off n ps hps => ⟨fun hd => ?_, fun hd => ⟨fun hu => ?_, fun hu => ?_⟩⟩,
    fun p bar4 off data ps hps => ⟨fun hd => ?_, fun hd => ⟨fun hu => ?_, fun hu hp => ?_, fun hu hp hbad => ?_, fun hu hp hb hend hecc => ?_⟩⟩,
    fun p who addr hwp hd hal hup4 hglb => ?_, fun who addr a r ha hrow hw hal hdom hports => ?_, fun who addr o hoff ho hal hup2 hports hready hcur hq => ?_⟩
  · subst hp
    have key : ∀ kind x, x.up 6 = true → x.ev.log = s.ev.log → x.host = s.host → exec j s = .next (portReset port.val kind x) →
        (j = .linkDown port → ∀ i < 8, x.rbit (Reg.HST_PSTAT port.val) i = false) →
        ∃ t, exec j s = .next t ∧ Raised 0x0A02 s t ∧ t.rbit (Reg.HST_EQ_CFG port.val) 31 = false ∧ t.reg (Reg.HST_ERR port.val) = 0 ∧ t.rbit (Reg.HST_PSTAT port.val) 10 = false
          ∧ (t.portCfg port.val).msix = false ∧ (j = .linkDown port → t.fld (Reg.HST_PSTAT port.val) 7 0 = 0)
          ∧ (port.val = 0 → ∀ q < 4, t.rbit (Reg.HST_SQ_CFG 0 q) 31 = false ∧ t.rbit (Reg.HST_CQ_CFG 0 q) 31 = false ∧ (t.hq q).ended = [] ∧ (∀ c ∈ (t.hq q).prog, c.mute = true)
            ∧ (t.hq q).prog.length = (s.hq q).prog.length) := fun kind x hx hlog hhost hex hlink => by
      obtain ⟨h1, h2, h3, h4, h5, h6, h7⟩ := portReset_spec port kind hx
      have hhq : ∀ q, x.hq q = s.hq q := fun q => by unfold State.hq; rw [hhost]
      refine ⟨_, hex, raised_from_log hlog h1, h2, h3, h4, h5, fun hj => ?_, fun hp q hq => ?_⟩
      · have hz : (portReset port.val kind x).fld (Reg.HST_PSTAT port.val) 7 0 = (x.clrReg (Reg.HST_PSTAT port.val) 0xFF).fld (Reg.HST_PSTAT port.val) 7 0 := State.fld_congr fun i _ hi => by
          rw [State.rbit_clrReg_self _ _ _ _ (by omega), h6 i (by omega), hlink hj i (by omega)]
          rfl
        rw [hz, clrLink_fld]
      · obtain ⟨g1, g2, g3⟩ := h7 hp q hq
        rw [g3, hhq]
        exact ⟨g1, g2, rfl, fun c hc => by obtain ⟨d, -, rfl⟩ := List.mem_map.mp hc; rfl, List.length_map _⟩
    rcases hj with rfl | rfl | rfl
    · exact key 0 s hup rfl rfl rfl (fun h => by cases h)
    · refine key 1 (s.clrReg (Reg.HST_PSTAT port.val) 0xFF) hup rfl rfl ?_ fun _ i hi => ?_
      · show execLinkDown port s = _
        unfold execLinkDown
        rw [hup]
        rfl
      · rw [State.rbit_clrReg_self _ _ _ _ (by omega), (show ∀ i < 8, Nat.testBit 0xFF i = true by decide) i hi]
        exact Bool.and_false _
    · exact key 2 s hup rfl rfl rfl (fun h => by cases h)
  · have hl : s.lanes p.val = n := by
      rw [hn]
      unfold State.lanes State.split
      simp only [Bool.and_eq_true]
    refine congrArg Host.Outcome.next (if_neg ?_)
    rw [hl]
    simp only [Bool.and_eq_true, decide_eq_true_eq]
    omega
  · have hl : s.lanes p.val = n := by
      rw [hn]
      unfold State.lanes State.split
      simp only [Bool.and_eq_true]
    refine ⟨_, congrArg Host.Outcome.next (if_pos ?_), ?_, fun b hb hb' => ?_, s.setFld_regsBut _ _ _ _, s.setFld_same _ _ _ _⟩
    · rw [hl, hup]
      simp only [Bool.and_eq_true, decide_eq_true_eq]
      exact ⟨⟨trivial, hw⟩, h0⟩
    · rw [State.fld_setFld_self _ _ _ _ _ (by decide) (by decide)]
      have := w.isLt; have := x.isLt
      exact Nat.mod_eq_of_lt (by omega)
    · rw [State.rbit_setFld_self _ _ _ _ _ _ (by decide) hb', if_neg (by omega)]
  · refine ⟨_, congrArg Host.Outcome.next (if_pos hup), ?_, s.setFld_regsBut _ _ _ _, s.setFld_same _ _ _ _⟩
    rw [State.rbit_setFld_self _ _ _ _ _ _ (by decide) (by decide), if_pos (by decide)]
    cases on <;> rfl
  · obtain ⟨u, hu⟩ : ∃ u : State, u = { s with host := { s.host with cfg := Tab.insert s.host.cfg p.val ⟨e, m⟩ } } := ⟨_, rfl⟩
    have hus : SameBut [.host, .ev] s u := fun q hq => by cases q <;> first | (rw [hu]; rfl) | exact absurd (by decide) hq
    have hcfg : u.portCfg p.val = ⟨e, m⟩ := by
      rw [hu]
      show Tab.getD (Tab.insert s.host.cfg p.val ⟨e, m⟩) p.val (⟨false, false⟩ : PortCfg) = _
      rw [Tab.getD, Tab.find?_insert, if_pos rfl]
      rfl
    have hs := sendUnmasked_same p.val u
    refine ⟨sendUnmasked p.val u, ?_, ?_, hus.then hs, fun he hm v hv hmask => ?_⟩
    · rw [hu]
      exact congrArg Host.Outcome.next (if_pos hup)
    · rw [State.portCfg_congr (congrArg HostSt.cfg (hs .host (by decide)))]
      exact hcfg
    · have hsend : sendUnmasked p.val u = (List.range 64).foldl (sendTurn p.val) u := if_pos (by rw [hcfg, he, hm]; rfl)
      rw [hsend]
      exact foldl_sendTurn_sent (List.mem_range.mpr hv) (((hus.regsBut []).rbit (by simp) 0).trans hmask)
  · exact congrArg Host.Outcome.next ((if_pos hup).trans (if_pos hd))
  · obtain ⟨h1, h2, h3, h4⟩ := s.hstRefuse_spec p.val (off.toNat % 2 ^ 32) (b := 0) (by decide)
    refine ⟨_, congrArg Host.Outcome.next ((if_pos hup).trans ((if_neg (by rw [hd]; decide)).trans (if_pos (by rw [← hps, hu]; rfl)))), rfl, ?_, h2⟩
    exact h1
  · obtain ⟨h1, h2, h3⟩ := hostReadBody_spec p.val bar4 off.toNat ps s
    refine ⟨hostReadBody p.val bar4 off.toNat ps s, ?_, h1, h2.tank, h2.cbuf, h2.dram, h3⟩
    rw [hps] at hu ⊢
    exact congrArg Host.Outcome.next ((if_pos hup).trans ((if_neg (by rw [hd]; decide)).trans (if_neg (by rw [hu]; decide))))
  · exact congrArg Host.Outcome.next ((if_pos hup).trans (if_pos hd))
  · obtain ⟨h1, h2, h3, h4⟩ := s.hstRefuse_spec p.val (off.toNat % 2 ^ 32) (b := 0) (by decide)
    exact ⟨_, congrArg Host.Outcome.next ((if_pos hup).trans ((if_neg (by rw [hd]; decide)).trans (if_pos (by rw [← hps, hu]; rfl)))), h2, h4⟩
  · exact ⟨_, congrArg Host.Outcome.next ((if_pos hup).trans ((if_neg (by rw [hd]; decide)).trans ((if_neg (by rw [← hps, hu]; decide)).trans (if_pos hp)))), s.wdrop_spec⟩
  · obtain ⟨v, hv⟩ : ∃ v, v = hostPoison p.val bar4 (ps.any (partPwunc s)) off.toNat (hostPut p.val ps data s) := ⟨_, rfl⟩
    have hex : exec (.hostMemoryWrite p bar4 off data) s = .next (if bar4 && ps.any (fun x => x.1.isNone) then v.orReg Reg.TNK_ERR 4 else v) := by
      rw [hv, hps]
      exact congrArg Host.Outcome.next ((if_pos hup).trans ((if_neg (by rw [hd]; decide)).trans ((if_neg (by rw [← hps, hu]; decide)).trans (if_neg (by omega)))))
    rw [hbad] at hv
    obtain ⟨h1, h2⟩ := hostWrite_poisoned (p := p.val) bar4 off.toNat s _ (hostPut_logGrows _ _ _ _) (bar4 && ps.any (fun x => x.1.isNone)) v hv
    exact ⟨_, hex, hp ▸ h1, h2⟩
  · subst hb
    have hps' : ps = bar2Parts (data.length / 2 ^ 21 + 2) off.toNat data.length := hps
    have hin : ∀ x ∈ ps, InTank x := hps' ▸ bar2Parts_inTank _ _ _ hend
    have hpw : ps.any (partPwunc s) = false := any_inTank hin fun a n => by
      show (!(partBad (s.memOf 0) a n).isEmpty) = false
      unfold partBad
      rw [show (s.memOf 0).ecc = [] from hecc]
      rfl
    obtain ⟨h1, h2⟩ := hostPut_tank (data.length / 2 ^ 21 + 2) (off := off.toNat) (s := s) (Or.inr (by omega)) rfl hend hecc
    rw [← hps'] at h1 h2
    have hex : exec (.hostMemoryWrite p false off data) s = .next (hostPut 0 ps data s) := by
      have hbody : hostPut 0 ps data s = (if false && ps.any (fun x => x.1.isNone) then (hostPoison p.val false (ps.any (partPwunc s)) off.toNat (hostPut p.val ps data s)).orReg Reg.TNK_ERR 4
          else hostPoison p.val false (ps.any (partPwunc s)) off.toNat (hostPut p.val ps data s)) := by
        rw [hpw, hp]
        rfl
      rw [hbody, hps]
      exact congrArg Host.Outcome.next ((if_pos hup).trans ((if_neg (by rw [hd]; decide)).trans ((if_neg (by rw [← hps, hu]; decide)).trans (if_neg (by omega)))))
    refine ⟨_, hex, fun i hi => ?_, fun x hx => ?_, h1⟩
    · rw [h2, if_pos (by omega), Nat.add_sub_cancel_left]
    · rw [h2, if_neg hx]
  · have hlt := glbCopy_lt hglb
    have h4 : addr.off.toNat % 4 = 0 := by
      unfold barAligned at hal
      simpa using (Bool.and_eq_true_iff.mp hal).2
    show execLowerWordRead who addr s = _
    unfold execLowerWordRead
    extract_lets a
    refine congrArg Host.Outcome.next ?_
    rw [hwp]
    have hrr : s.readReach a = true := by
      unfold State.readReach
      rw [hup4, show glbCopy a = true from hglb]
      exact Bool.or_true _
    dsimp only
    rw [hup, hd, hal, hrr]
    exact readLower_narrow s hlt (glbCopy_narrow a hlt hglb h4)
  · subst ha
    refine ⟨_, (exec_lowerWordRead hup hal hdom hports).trans (congrArg _ (readLower_wide s hrow hw)), ?_, ?_, fun w hwne => State.reqSt_setReq_ne _ _ hwne, s.setReq_same _ _⟩
    · rw [State.reqSt_setReq_self, State.readFor_eq]
    · rw [State.reqSt_setReq_self]
  · have hdom : s.up (domOfAddr addr.off.toNat) = true := by
      unfold domOfAddr
      rw [if_neg (by omega), if_neg (by omega), if_pos (by omega)]
      exact hup2
    have hread : readLower who addr.off.toNat s = s.nvsPut [.win (whoIx who) o] := by
      unfold readLower
      rw [if_pos (by omega), show addr.off.toNat - 0x280000 = o by omega]
    refine ⟨_, (exec_lowerWordRead hup (by omega) hdom hports).trans (congrArg _ hread), ?_⟩
    rw [nvsGo_serves hup2 hready hcur hq]
    exact nvsServe_window _ _ _

end Sys2Proof.Machine
end

section
/-!
PROOFS. The mailbox, the model key and debug unlock (R458, R465 to R471, R475 to R477).
-/
set_option Elab.async false

namespace Sys2Proof.Machine

/-! ## The mailbox -/

/-- A state with a register set and another state of the host's queues. -/
def State.setMbx (s : State) (a : Nat) (v : W32) (h : HostSt) : State := { s.setReg a v with host := h }

theorem State.setMbx_reg (s : State) (a : Nat) (v : W32) (h : HostSt) : (s.setMbx a v h).reg a = v := State.reg_setReg_self s a v

theorem State.setMbx_regsBut (s : State) (a : Nat) (v : W32) (h : HostSt) : RegsBut [a] s (s.setMbx a v h) := s.setReg_regsBut a v

theorem State.setMbx_same (s : State) (a : Nat) (v : W32) (h : HostSt) : SameBut [.regs, .host] s (s.setMbx a v h) :=
  fun p hp => by cases p <;> first | rfl | exact absurd (by decide) hp

theorem mbxEnd_eq (code : Nat) (s : State) : mbxEnd code s = s.setMbx (Reg.HST_MBX_STAT 0) (BitVec.ofNat 32 (16 * code + 2 ^ 31)) { s.host with mbx := 0 } := by
  unfold mbxEnd State.setMbx
  rfl

theorem mbxEnd_host (code : Nat) (s : State) : (mbxEnd code s).host = { s.host with mbx := 0 } := by rw [mbxEnd_eq]; rfl

theorem mbxEnd_stat (code : Nat) (s : State) : (mbxEnd code s).reg (Reg.HST_MBX_STAT 0) = BitVec.ofNat 32 (16 * code + 2 ^ 31) := by rw [mbxEnd_eq, State.setMbx_reg]

theorem mbxEnd_regsBut (code : Nat) (s : State) : RegsBut [Reg.HST_MBX_STAT 0] s (mbxEnd code s) := by rw [mbxEnd_eq]; exact s.setMbx_regsBut _ _ _

theorem mbxEnd_same (code : Nat) (s : State) : SameBut [.regs, .host] s (mbxEnd code s) := by rw [mbxEnd_eq]; exact s.setMbx_same _ _ _

theorem mbxCommand_busy {op : Nat} {stage : Stage} {s : State} (h : s.host.mbx ≠ 0) : mbxCommand op stage s = s.setFld (Reg.HST_MBX_STAT 0) 31 4 (1 + 2 ^ 27) := if_pos h

theorem mbxCommand_taken {op : Nat} {stage : Stage} {s : State} (h : s.host.mbx = 0) (hs : s.rst.stage = stage) :
    mbxCommand op stage s = s.setMbx (Reg.HST_MBX_STAT 0) (s.reg (Reg.HST_MBX_STAT 0) ||| 1) { s.host with mbx := op } :=
  (if_neg (not_not.mpr h)).trans (if_pos hs)

theorem mbxCommand_wrong {op : Nat} {stage : Stage} {s : State} (h : s.host.mbx = 0) (hs : s.rst.stage ≠ stage) : mbxCommand op stage s = mbxEnd 1 s :=
  (if_neg (not_not.mpr h)).trans (if_neg hs)

/-- A mailbox command, BOOT or RELOAD. -/
theorem mbxCommand_spec (op : Nat) (stg : Stage) {s : State} {j : Instr} (he : exec j s = .next (mbxCommand op stg s)) :
    (s.host.mbx = 0 → s.rst.stage = stg → ∃ t, exec j s = .next t ∧ t.host = { s.host with mbx := op } ∧ t.reg (Reg.HST_MBX_STAT 0) = s.reg (Reg.HST_MBX_STAT 0) ||| 1
      ∧ RegsBut [Reg.HST_MBX_STAT 0] s t ∧ SameBut [.regs, .host] s t)
    ∧ (s.host.mbx = 0 → s.rst.stage ≠ stg → ∃ t, exec j s = .next t ∧ t.host = s.host ∧ t.reg (Reg.HST_MBX_STAT 0) = 0x80000010 ∧ RegsBut [Reg.HST_MBX_STAT 0] s t ∧ SameBut [.regs] s t)
    ∧ (s.host.mbx ≠ 0 → ∃ t, exec j s = .next t ∧ t.fld (Reg.HST_MBX_STAT 0) 7 4 = 1 ∧ RegsBut [Reg.HST_MBX_STAT 0] s t ∧ SameBut [.regs] s t) := by
  refine ⟨fun h hs => ?_, fun h hs => ?_, fun h => ?_⟩
  · exact ⟨_, he.trans (congrArg _ (mbxCommand_taken h hs)), rfl, s.setMbx_reg _ _ _, s.setMbx_regsBut _ _ _, s.setMbx_same _ _ _⟩
  · have hh : (mbxEnd 1 s).host = s.host := by
      rw [mbxEnd_host, ← h]
    exact ⟨_, he.trans (congrArg _ (mbxCommand_wrong h hs)), hh, mbxEnd_stat 1 s, mbxEnd_regsBut 1 s, SameBut.drop (p := .host) ((mbxEnd_same 1 s).mono (by decide)) hh⟩
  · refine ⟨_, he.trans (congrArg _ (mbxCommand_busy h)), ?_, s.setFld_regsBut _ _ _ _, s.setFld_same _ _ _ _⟩
    have hf : (s.setFld (Reg.HST_MBX_STAT 0) 31 4 (1 + 2 ^ 27)).fld (Reg.HST_MBX_STAT 0) 7 4 = (s.setReg (Reg.HST_MBX_STAT 0) 0x10).fld (Reg.HST_MBX_STAT 0) 7 4 :=
      State.fld_congr fun i h4 h7 => by
        rw [State.rbit_setFld_self _ _ _ _ _ _ (by decide) (by omega), if_pos (by omega), State.rbit_setReg_self]
        revert i
        decide
    rw [hf, State.fld, State.reg_setReg_self]
    rfl

/-! ## The bundle that the mailbox gives -/

/-- A step that keeps the mailbox and its status. -/
def MbxKept (s t : State) : Prop := t.host.mbx = s.host.mbx ∧ t.reg (Reg.HST_MBX_STAT 0) = s.reg (Reg.HST_MBX_STAT 0)

theorem MbxKept.trans {s t u : State} (h : MbxKept s t) (k : MbxKept t u) : MbxKept s u := ⟨k.1.trans h.1, k.2.trans h.2⟩

theorem StoreStep.mbxKept {s t : State} (h : StoreStep s t) : MbxKept s t := ⟨h.mbx, h.hst _ (by decide) (by decide)⟩

theorem SameBut.mbxKept {l : List Piece} {s t : State} (h : SameBut l s t) (hl : .host ∉ l ∧ .regs ∉ l := by decide) : MbxKept s t :=
  ⟨congrArg HostSt.mbx (h .host hl.1), h.reg hl.2 _⟩

theorem State.setReg_mbxKept (s : State) {a : Nat} (v : W32) (h : Reg.HST_MBX_STAT 0 ≠ a) : MbxKept s (s.setReg a v) := ⟨rfl, State.reg_setReg_ne _ _ h⟩

theorem loadCal_storeStep (s : State) : StoreStep s (loadCal s) := by
  unfold loadCal
  have h := s.abRead_storeStep abCal
  generalize s.abRead abCal = r at h ⊢
  obtain ⟨u, a⟩ := r
  dsimp only at h ⊢
  split
  · exact h.trans (.of_parts rfl rfl rfl rfl rfl rfl rfl rfl rfl)
  · exact (h.trans (State.setReg_storeStep _ _ _ (by decide))).trans (State.raise_storeStep _ _ _ _ _)

theorem startPower_mbxKept (s : State) : MbxKept s (startPower s) := by
  unfold startPower
  extract_lets g x s1
  split
  · exact MbxKept.trans (t := { s1 with rst := { s1.rst with pwrCmds := [] } }) ⟨rfl, rfl⟩ (endPower_storeStep 0 s1).mbxKept
  · exact MbxKept.trans (t := s1) ⟨rfl, rfl⟩ (s1.setReg_mbxKept _ (by decide))

/-- A bundle that runs leaves the mailbox as it is. -/
theorem runBundle_mbxKept (b : Bundle) (src : Nat) (s : State) : MbxKept s (runBundle b src s) := by
  unfold runBundle
  extract_lets s1 s2 x y
  have h1 : MbxKept s s1 := (((s.setReg_mbxKept _ (by decide)).trans ((State.release_same _ 3).mbxKept)).trans ((State.release_same _ 7).mbxKept)).trans (State.release_same _ 8).mbxKept
  have h2 : MbxKept s s2 := by
    refine h1.trans ?_
    show MbxKept s1 (if s1.up 8 then loadCal s1 else s1)
    split
    · exact (loadCal_storeStep s1).mbxKept
    · exact ⟨rfl, rfl⟩
  clear_value s2
  exact (MbxKept.trans h2 (MbxKept.trans (t := { s2 with
    sec := { s2.sec with bundle := some b }
    rst := { s2.rst with stage := .run, wdt := s2.rbit Reg.RST_WDT_CFG 16, ctlAt := s2.cnt.aon, kickAt := s2.cnt.aon } }) ⟨rfl, rfl⟩ (startPower_mbxKept _))).trans (startTasks_storeStep _).mbxKept

theorem refuseBundle_same (loc check : Nat) (s : State) : SameBut evParts s (refuseBundle loc check s) := s.raise_same _ _ _ _

theorem refuseBundle_raised (loc check : Nat) (s : State) : Raised 0x0B01 s (refuseBundle loc check s) := s.raise_raised _ _ _ _

theorem raised_keep {s t u : State} {code : Nat} (h : u.ev = t.ev) (k : Raised code s t) : Raised code s u := by rwa [Raised, h]

theorem exec_mailboxBundleRead {s : State} (h : s.host.mbx ≠ 0) (ok qok : Bool) : exec (.mailboxBundleRead ok qok) s = .next (mailboxBundle ok qok s) :=
  congrArg Host.Outcome.next (if_pos (by simpa using h))

section
variable {s : State} {ok qok : Bool} {o c : Nat}

theorem mailboxBundle_reload (h : s.host.mbx = 3) : mailboxBundle ok qok s = reloadEnd qok s := if_pos h

theorem mailboxBundle_unread (h : s.host.mbx ≠ 3) : mailboxBundle false qok s = mbxEnd 2 s := if_neg h

theorem mailboxBundle_refused (h : s.host.mbx ≠ 3) (hc : bundleCheck s s.mem.host (s.reg64 (Reg.HST_MBX_ADDR 0)) (min 0x800000 (s.reg (Reg.HST_MBX_LEN 0)).toNat) = c) (h0 : c ≠ 0) :
    mailboxBundle true qok s = mbxEnd (if c = 3 then 4 else 3) (refuseBundle 2 c s) := by
  subst hc
  exact (if_neg h).trans (if_pos h0)

theorem mailboxBundle_boot (h : s.host.mbx = 1) (hc : bundleCheck s s.mem.host (s.reg64 (Reg.HST_MBX_ADDR 0)) (min 0x800000 (s.reg (Reg.HST_MBX_LEN 0)).toNat) = 0) :
    mailboxBundle true qok s = runBundle (bundleOf s.mem.host (s.reg64 (Reg.HST_MBX_ADDR 0)) 2) 2 (mbxEnd 0 s) := by
  unfold mailboxBundle
  rw [if_neg (by rw [h]; decide), if_neg (by decide)]
  extract_lets o c
  rw [if_neg (not_not.mpr hc), if_pos h]

theorem mailboxBundle_write (h : s.host.mbx ≠ 3) (h1 : s.host.mbx ≠ 1) (hc : bundleCheck s s.mem.host (s.reg64 (Reg.HST_MBX_ADDR 0)) (min 0x800000 (s.reg (Reg.HST_MBX_LEN 0)).toNat) = 0) :
    mailboxBundle true true s = { s with mem := { s.mem with qspi := s.mem.qspi.writeRaw 0 (leBytes 4 0 ++ s.mem.host.read (s.reg64 (Reg.HST_MBX_ADDR 0) + 4)
      (s.mem.host.readN (s.reg64 (Reg.HST_MBX_ADDR 0) + 12) 4 + s.mem.host.readN (s.reg64 (Reg.HST_MBX_ADDR 0) + 16) 2 - 4)) }, host := { s.host with mbx := 3 } } := by
  unfold mailboxBundle
  rw [if_neg h, if_neg (by decide)]
  extract_lets o c n
  rw [if_neg (not_not.mpr hc), if_neg h1, if_pos rfl]

theorem mailboxBundle_flash (h : s.host.mbx ≠ 3) (h1 : s.host.mbx ≠ 1) (hc : bundleCheck s s.mem.host (s.reg64 (Reg.HST_MBX_ADDR 0)) (min 0x800000 (s.reg (Reg.HST_MBX_LEN 0)).toNat) = 0) :
    mailboxBundle true false s = mbxEnd 5 s := by
  unfold mailboxBundle
  rw [if_neg h, if_neg (by decide)]
  extract_lets o c
  rw [if_neg (not_not.mpr hc), if_neg h1, if_neg Bool.false_ne_true]
end

/-- A bundle that passes its checks has at least the length of its fields (R465). -/
theorem bundleCheck_length {s : State} {m : Mem} {o avail : Nat} (h : bundleCheck s m o avail = 0) : 3776 ≤ m.readN (o + 12) 4 := by
  have hform : bundleForm m o avail = true := by
    by_contra hf
    unfold bundleCheck at h
    extract_lets slot len key at h
    rw [if_pos (by simpa using hf)] at h
    exact absurd h (by decide)
  unfold bundleForm at hform
  extract_lets len sig fl at hform
  simp only [Bool.and_eq_true, decide_eq_true_eq] at hform
  obtain ⟨⟨⟨⟨⟨⟨⟨⟨-, hlen⟩, -⟩, -⟩, -⟩, -⟩, -⟩, -⟩, -⟩ := hform
  exact hlen

theorem Mem.read_getD (m : Mem) (a n i : Nat) (h : i < n) : (m.read a n).getD i 0 = m.byte (a + i) := by
  simp [Mem.read, List.getD_eq_getElem?_getD, h]

/-! ## Debug unlock -/

theorem submitEnd_fld (code : Nat) (s : State) (h : code < 16) : (submitEnd code s).fld Reg.SEC_DBG_STAT 3 0 = code := by
  unfold submitEnd State.fld
  rw [State.reg_setReg_self]
  unfold bits
  rw [BitVec.toNat_ofNat]
  omega

theorem submitEnd_same (code : Nat) (s : State) : SameBut [.regs] s (submitEnd code s) := by
  unfold submitEnd
  exact s.setReg_same _ _

/-- A submission that ends with a code and raises an event. -/
theorem submit_raises (code ev sev src pay : Nat) (s : State) (h : code < 16) {u : State} (hs : u.ev = s.ev) :
    ((submitEnd code u).raise ev sev src pay).sec = u.sec ∧ ((submitEnd code u).raise ev sev src pay).fld Reg.SEC_DBG_STAT 3 0 = code
    ∧ Raised ev s ((submitEnd code u).raise ev sev src pay) := by
  have hr := (submitEnd code u).raise_same ev sev src pay
  have hsub := submitEnd_same code u
  refine ⟨(hr .sec (by decide)).trans (hsub .sec (by decide)), ?_, raised_of_ev ((hsub .ev (by decide)).trans hs) _ _ _ _⟩
  rw [(hr.regsBut []).fld List.not_mem_nil]
  exact submitEnd_fld code u h

theorem submitFail_spec (code : Nat) (s : State) (h : code < 16) :
    (submitFail code s).sec = { s.sec with fails := min 3 (s.sec.fails + 1), lockout := decide (min 3 (s.sec.fails + 1) ≥ 3), chal := none }
    ∧ (submitFail code s).fld Reg.SEC_DBG_STAT 3 0 = code ∧ Raised 0x0B05 s (submitFail code s) :=
  submit_raises code 0x0B05 2 0x900 _ s h (u := { s with sec := { s.sec with fails := min 3 (s.sec.fails + 1), lockout := decide (min 3 (s.sec.fails + 1) ≥ 3), chal := none } }) rfl

theorem State.setPert_spec (s : State) (t : Tab Pert) : (s.setPert t).pert = t ∧ (s.setPert t).sec = s.sec := by
  unfold State.setPert
  extract_lets s1
  have h1 : SameBut [.regs] { s with pert := t } s1 := SameBut.foldl (fun u o => sameBut_ite (SameBut.refl _ _) (u.clrReg_same _ _)) _ _
  have h2 : SameBut [.regs] { s with pert := t } (if t.isEmpty then s1.clrReg Reg.TST_HEALTH 64 else s1) := sameBut_ite (h1.trans (s1.clrReg_same _ _)) h1
  exact ⟨h2 .pert (by decide), h2 .sec (by decide)⟩

/-- Settles O56: the mailbox, the model key and debug unlock. -/
theorem mailboxKeysAndDebugUnlock : Obligations.MailboxKeysAndDebugUnlock := by
  unfold Obligations.MailboxKeysAndDebugUnlock
  intro s
  refine ⟨fun j op stg hj hr => ?_, fun ok qok o c n h0 h3 ho hc hn => ?_, fun ok qok h3 => ?_, fun who => ⟨fun hr => next_access hr, fun hr => next_access hr, fun hr => ⟨next_access hr, ?_⟩⟩,
    fun who chal => ⟨fun hw => ?_, fun hw hr => ?_⟩, fun who scope hr => ⟨fun hl => ?_, fun n hl hn => ⟨fun hchal => ?_, fun ch msg key hchal hmsg hkey => ⟨fun hbad => ?_, fun k hk hv => ?_⟩⟩⟩, fun who hr => ?_⟩
  · rcases hj with ⟨rfl, rfl, rfl⟩ | ⟨rfl, rfl, rfl⟩
    · exact mbxCommand_spec 1 .mailbox (next_access hr)
    · exact mbxCommand_spec 2 .recovery (next_access hr)
  · subst ho hc hn
    refine ⟨_, exec_mailboxBundleRead h0 ok qok, fun hbad => ?_, fun hok => ?_, fun hok hne => ?_, fun hok hc h1 => ?_, fun hok hc h1 hq => ?_, fun hok hc h1 hq => ?_⟩
    · by_cases hok : ok = true
      · subst hok
        rw [mailboxBundle_refused h3 rfl (hbad.resolve_left (by decide)), mbxEnd_host, (refuseBundle_same 2 _ s) .host (by decide)]
      · rw [Bool.eq_false_iff.mpr hok, mailboxBundle_unread h3, mbxEnd_host]
    · rw [hok, mailboxBundle_unread h3]
      exact ⟨mbxEnd_stat 2 s, mbxEnd_same 2 s⟩
    · rw [hok, mailboxBundle_refused h3 rfl hne, mbxEnd_stat]
      refine ⟨?_, raised_keep ((mbxEnd_same _ _) .ev (by decide)) (refuseBundle_raised 2 _ s)⟩
      split <;> rfl
    · rw [hok, mailboxBundle_boot h1 hc]
      obtain ⟨k1, k2⟩ := runBundle_mbxKept (bundleOf s.mem.host (s.reg64 (Reg.HST_MBX_ADDR 0)) 2) 2 (mbxEnd 0 s)
      exact ⟨k1, k2.trans (mbxEnd_stat 0 s), runBundle_spec _ _ _⟩
    · rw [hok, hq, mailboxBundle_write h3 h1 hc]
      have hlen := bundleCheck_length hc
      have hbyte := fun i => Mem.byte_writeRaw s.mem.qspi 0 i (leBytes 4 0 ++ s.mem.host.read (s.reg64 (Reg.HST_MBX_ADDR 0) + 4)
        (s.mem.host.readN (s.reg64 (Reg.HST_MBX_ADDR 0) + 12) 4 + s.mem.host.readN (s.reg64 (Reg.HST_MBX_ADDR 0) + 16) 2 - 4))
      have hl : ∀ m, (leBytes 4 0 ++ s.mem.host.read (s.reg64 (Reg.HST_MBX_ADDR 0) + 4) m).length = 4 + m := fun m => by simp [Mem.read]
      refine ⟨rfl, fun i hi => ?_, fun i hi h4 => ?_, fun i hi => ?_, fun p hp => by cases p <;> first | rfl | exact absurd (by decide) hp⟩
      · refine (hbyte i).trans ?_
        rw [hl, if_pos (by omega), Nat.sub_zero, List.getD_eq_getElem?_getD, List.getElem?_append_left (by simpa using hi)]
        revert i
        decide
      · refine (hbyte i).trans ?_
        rw [hl, if_pos (by omega), Nat.sub_zero, List.getD_eq_getElem?_getD, List.getElem?_append_right (by simpa using h4), ← List.getD_eq_getElem?_getD, leBytes_length,
          Mem.read_getD _ _ _ _ (by omega), show s.reg64 (Reg.HST_MBX_ADDR 0) + 4 + (i - 4) = s.reg64 (Reg.HST_MBX_ADDR 0) + i by omega]
      · refine (hbyte i).trans (if_neg ?_)
        rw [hl]
        omega
    · rw [hok, hq, mailboxBundle_flash h3 h1 hc]
      exact ⟨rfl, mbxEnd_stat 5 s, mbxEnd_same 5 s⟩
  · refine ⟨_, (exec_mailboxBundleRead (by rw [h3]; decide) ok qok).trans (congrArg _ (mailboxBundle_reload h3)), ?_⟩
    cases qok with
    | false => exact ⟨rfl, (mbxEnd_same 5 s).mono (by decide), mbxEnd_regsBut 5 s, fun h => absurd h (by decide), fun _ => ⟨mbxEnd_stat 5 s, rfl⟩⟩
    | true =>
      obtain ⟨u, hu⟩ : ∃ u : State, u = { s with mem := { s.mem with qspi := s.mem.qspi.writeRaw 0 (leBytes 4 0x57465843) } } := ⟨_, rfl⟩
      have hus : SameBut [.qspi] s u := fun p hp => by cases p <;> first | (rw [hu]; rfl) | exact absurd (by decide) hp
      have he : reloadEnd true s = mbxEnd 0 u := by rw [hu]; rfl
      have hq : (mbxEnd 0 u).mem.qspi = s.mem.qspi.writeRaw 0 (leBytes 4 0x57465843) := by rw [hu]; rfl
      rw [he]
      refine ⟨by rw [mbxEnd_host, hus .host (by decide)], (hus.mono (by decide)).then (mbxEnd_same 0 u), (hus.regsBut _).trans (mbxEnd_regsBut 0 u),
        fun _ => ⟨mbxEnd_stat 0 u, ?_, fun i hi => ?_⟩, fun h => absurd h (by decide)⟩
      · rw [hq]
        exact Mem.read_writeRaw_self s.mem.qspi 0 (leBytes 4 0x57465843)
      · rw [hq]
        exact Mem.byte_writeRaw_out _ (Or.inr (by simpa using hi))
  · refine (next_access hr).trans (congrArg Host.Outcome.next ?_)
    cases s.fus.mkey with
    | none => rfl
    | some k => rfl
  · subst hw
    rfl
  · refine Eq.trans ?_ (next_access (f := fun s => { s with sec := { s.sec with chal := some chal } }) hr)
    cases who with
    | portB => exact absurd rfl hw
    | portA => rfl
    | fw n => rfl
    | sec => rfl
  · have he : submitEff scope s = (submitEnd 3 { s with sec := { s.sec with chal := none } }).raise 0x0B05 2 0x900 (3 + 256 * s.sec.fails) := by
      unfold submitEff
      rw [if_pos hl]
    obtain ⟨u, hu⟩ : ∃ u : State, u = { s with sec := { s.sec with chal := none } } := ⟨_, rfl⟩
    obtain ⟨h1, h2, h3⟩ := submit_raises 3 0x0B05 2 0x900 (3 + 256 * s.sec.fails) s (u := u) (by decide) (by rw [hu])
    rw [← hu] at he
    exact ⟨_, (next_access hr).trans (congrArg _ he), h1.trans (by rw [hu]), h2, h3⟩
  · have he : submitEff scope s = submitFail 2 s := by
      unfold submitEff
      rw [hl, hchal, if_neg Bool.false_ne_true]
    obtain ⟨h1, h2, h3⟩ := submitFail_spec 2 s (by decide)
    subst hn
    exact ⟨_, (next_access hr).trans (congrArg _ he), h1.trans (by rw [← hchal]), h2, h3⟩
  · have he : submitEff scope s = submitFail 1 s := by
      unfold submitEff
      rw [hl, hchal]
      dsimp only
      rw [← hkey, ← hmsg, if_neg Bool.false_ne_true]
      split
      · rfl
      · next k hk => exact if_neg (by rw [hbad.resolve_left (by rw [hk]; simp)]; decide)
    obtain ⟨h1, h2, h3⟩ := submitFail_spec 1 s (by decide)
    subst hn
    exact ⟨_, (next_access hr).trans (congrArg _ he), h1, h2, h3⟩
  · have he : submitEff scope s = (submitEnd 0 { s with sec := { s.sec with chal := none, scopes := s.sec.scopes ||| scope } }).raise 0x0B04 1 0x900 (scope.toNat + 256 * k) := by
      unfold submitEff
      rw [hl, hchal]
      dsimp only
      rw [← hkey, ← hmsg, hk, if_neg Bool.false_ne_true]
      exact if_pos hv
    exact ⟨_, (next_access hr).trans (congrArg _ he), submit_raises 0 0x0B04 1 0x900 _ s (by decide) rfl⟩
  · obtain ⟨h1, h2⟩ := State.setPert_spec { s with sec := { s.sec with scopes := 0 } } []
    exact ⟨_, next_access hr, h2, h1⟩

end Sys2Proof.Machine
end

section
/-!
PROOFS. Calibration, the channels of the store, its page writes and the tokens of the log (R364, R393 to R409).
-/
set_option Elab.async false

namespace Sys2Proof.Machine

/-! ## What reads and service of the store reach -/

/-- The registers that a read of the store, or its service, reaches. -/
def StoreReg (a : Nat) : Prop :=
  a = Reg.NVS_ECC_CNT ∨ a = Reg.NVS_UNC_CNT ∨ a = Reg.NVS_UNC_LAST ∨ (0x00200100 ≤ a ∧ a < 0x00200300) ∨ 0x01F00000 ≤ a

/-- A step of reading or serving the store: it keeps every other register and part, and the journal's place. -/
structure NvsStep (s t : State) : Prop where
  same : SameBut [.regs, .ev, .hostMem, .pert, .nvs] s t
  slot : t.nvs.slot = s.nvs.slot
  jseq : t.nvs.jseq = s.nvs.jseq
  regs : ∀ a, ¬ StoreReg a → t.reg a = s.reg a

section
variable {s t u : State}

theorem NvsStep.refl (s : State) : NvsStep s s := ⟨SameBut.refl _ _, rfl, rfl, fun _ _ => rfl⟩

theorem NvsStep.trans (h : NvsStep s t) (k : NvsStep t u) : NvsStep s u :=
  ⟨h.same.trans k.same, k.slot.trans h.slot, k.jseq.trans h.jseq, fun a ha => (k.regs a ha).trans (h.regs a ha)⟩

theorem NvsStep.foldl_mem {α : Type} {f : State → α → State} {l : List α} (h : ∀ t, ∀ a ∈ l, NvsStep t (f t a)) (s : State) : NvsStep s (l.foldl f s) := by
  induction l generalizing s with
  | nil => exact NvsStep.refl s
  | cons a r ih => exact (h s a List.mem_cons_self).trans (ih (fun t b hb => h t b (List.mem_cons_of_mem _ hb)) _)

theorem nvsStep_ite {c : Prop} [Decidable c] (ht : NvsStep s t) (hu : NvsStep s u) : NvsStep s (if c then t else u) := by
  split
  · exact ht
  · exact hu

theorem SameBut.nvsStep (h : SameBut [.ev, .hostMem, .pert] s t) : NvsStep s t :=
  ⟨h.mono (by decide), congrArg NvsSt.slot (h .nvs (by decide)), congrArg NvsSt.jseq (h .nvs (by decide)), fun a _ => h.reg (by decide) a⟩

theorem NvsStep.of_nvs (h : SameBut [.nvs] s t) (h1 : t.nvs.slot = s.nvs.slot) (h2 : t.nvs.jseq = s.nvs.jseq) : NvsStep s t :=
  ⟨h.mono (by decide), h1, h2, fun a _ => h.reg (by decide) a⟩

variable (s)

theorem State.setReg_nvsStep {a : Nat} (v : W32) (h : StoreReg a) : NvsStep s (s.setReg a v) :=
  ⟨(s.setReg_same a v).mono (by decide), rfl, rfl, fun b hb => State.reg_setReg_ne _ _ fun he => hb (he ▸ h)⟩

theorem State.raise_nvsStep (code sev src pay : Nat) : NvsStep s (s.raise code sev src pay) := ((s.raise_same code sev src pay).mono (by decide)).nvsStep

theorem State.raiseOnce_same (key code sev src pay : Nat) : SameBut [.ev, .hostMem] s (s.raiseOnce key code sev src pay) := by
  unfold State.raiseOnce
  extract_lets s1 e
  have h1 : SameBut [.ev, .hostMem] s s1 := s.raise_same _ _ _ _
  exact sameBut_ite (SameBut.refl _ _) (h1.trans (fun p hp => by cases p <;> first | rfl | exact absurd (by decide) hp))

theorem State.nvsCorrected_nvsStep : NvsStep s s.nvsCorrected := by
  have h : NvsStep s (s.incReg Reg.NVS_ECC_CNT 1) := s.setReg_nvsStep _ (Or.inl rfl)
  exact nvsStep_ite (h.trans ((State.raiseOnce_same _ _ _ _ _ _).mono (by decide)).nvsStep) h

theorem State.nvsUncorrectable_nvsStep (reader g : Nat) : NvsStep s (s.nvsUncorrectable reader g) :=
  ((s.setReg_nvsStep _ (Or.inr (Or.inl rfl))).trans (State.setReg_nvsStep _ _ (Or.inr (Or.inr (Or.inl rfl))))).trans (State.raise_nvsStep _ _ _ _ _)

theorem State.setPert_nvsStep (t : Tab Pert) : NvsStep s (s.setPert t) := by
  have h : NvsStep s { s with pert := t } := SameBut.nvsStep fun p hp => by cases p <;> first | rfl | exact absurd (by decide) hp
  have hclr : ∀ (u : State) (o : Nat), NvsStep u (if (Tab.find? t o).isSome then u else u.clrReg (Reg.TST_MR_CFG + o) (2 ^ 31)) := fun u o =>
    nvsStep_ite (NvsStep.refl u) (u.setReg_nvsStep _ (by unfold StoreReg Reg.TST_MR_CFG baseTst; omega))
  have h1 := h.trans (NvsStep.foldl_mem (l := [0x84, 0x88, 0x8C, 0x90, 0x94, 0x98, 0x9C]) (fun u o _ => hclr u o) _)
  exact nvsStep_ite (h1.trans (State.setReg_nvsStep _ _ (by unfold StoreReg Reg.TST_HEALTH baseTst; omega))) h1

theorem State.nvsRead_nvsStep (reader off len : Nat) : NvsStep s (s.nvsRead reader off len) := by
  unfold State.nvsRead
  refine NvsStep.trans ?_ (NvsStep.foldl_mem (fun t e _ => nvsStep_ite (t.nvsUncorrectable_nvsStep _ _) t.nvsCorrected_nvsStep) _)
  split
  · exact NvsStep.refl s
  · exact nvsStep_ite (s.setPert_nvsStep _) (NvsStep.refl s)

theorem State.chanEnd_nvsStep (c : Fin 2) (code : Nat) : NvsStep s (s.chanEnd c.val code) :=
  s.setReg_nvsStep _ (Or.inr (Or.inr (Or.inr (Or.inl (by unfold Reg.NVSC_STAT baseNvc; omega)))))

/-- The buffer of a channel after a read of a page. -/
def bufRead (c : Nat) (m : Mem) (o : Nat) (t : State) (w : Nat) : State := t.setReg (Reg.NVSC_BUF c w) (BitVec.ofNat 32 (m.readN (o + 4 * w) 4))

theorem State.chanRead_eq (c page : Nat) : s.chanRead c page =
    ((List.range 16).foldl (bufRead c s.mem.nvs (64 * page)) (s.nvsRead c (64 * page) 64)).chanEnd c (if s.nvsUnc (64 * page) 64 then 1 else 0) := rfl

theorem State.chanRead_nvsStep (c : Fin 2) (page : Nat) : NvsStep s (s.chanRead c.val page) := by
  rw [State.chanRead_eq]
  refine ((s.nvsRead_nvsStep _ _ _).trans (NvsStep.foldl_mem (fun t w hw => ?_) _)).trans (State.chanEnd_nvsStep _ c _)
  have := List.mem_range.mp hw
  exact t.setReg_nvsStep _ (Or.inr (Or.inr (Or.inr (Or.inl (by unfold Reg.NVSC_BUF baseNvc; omega)))))

theorem State.winRead_nvsStep (who off : Nat) : NvsStep s (s.winRead who off) :=
  (s.nvsRead_nvsStep 2 off 4).trans (NvsStep.of_nvs (fun p hp => by cases p <;> first | rfl | exact absurd (by decide) hp) rfl rfl)

theorem warnPage_nvsStep (j : PageJob) : NvsStep s (warnPage j s).1 := by
  unfold warnPage
  split
  · exact (s.chanEnd_nvsStep _ _).trans (State.raise_nvsStep _ _ _ _ _)
  · exact NvsStep.refl s
end

/-- Another queue, or another page write in progress. -/
theorem State.withJobs_nvsStep (s : State) (q : List NvsCmd) (j : Option PageJob) : NvsStep s { s with nvs := { s.nvs with queue := q, cur := j } } :=
  NvsStep.of_nvs (fun p hp => by cases p <;> first | rfl | exact absurd (by decide) hp) rfl rfl

theorem nvsServe_nvsStep (l : List NvsCmd) : ∀ s : State, NvsStep s (nvsServe l s) := by
  induction l with
  | nil =>
    intro s
    unfold nvsServe
    split
    · exact s.withJobs_nvsStep [] s.nvs.cur
    · split
      · exact s.withJobs_nvsStep [] s.nvs.cur
      · exact s.withJobs_nvsStep [] _
  | cons c r ih =>
    intro s
    cases c with
    | read c page => exact (s.chanRead_nvsStep _ _).trans (ih _)
    | win who off => exact (s.winRead_nvsStep _ _).trans (ih _)
    | page j =>
      unfold nvsServe
      split
      · have h := (warnPage_nvsStep s j).trans (ih _)
        exact h.trans (State.withJobs_nvsStep _ _ (nvsServe r (warnPage j s).1).nvs.cur)
      · exact s.withJobs_nvsStep r (some j)

theorem State.nvsGo_nvsStep (s : State) : NvsStep s s.nvsGo := nvsStep_ite (nvsServe_nvsStep _ s) (NvsStep.refl s)

theorem State.nvsPut_nvsStep (s : State) (cs : List NvsCmd) : NvsStep s (s.nvsPut cs) :=
  (s.withJobs_nvsStep (s.nvs.queue ++ cs) s.nvs.cur).trans (State.nvsGo_nvsStep _)

theorem State.nvsGo_busy {s : State} (h : s.nvs.cur ≠ none) : s.nvsGo = s := if_neg fun hc => h hc.2.2

/-- A read alone leaves the store's jobs. -/
theorem State.nvsRead_keeps (s : State) (reader off len : Nat) : SameBut [.regs, .ev, .hostMem, .pert] s (s.nvsRead reader off len) := by
  have hn : (s.nvsRead reader off len).nvs = s.nvs := by
    unfold State.nvsRead
    have hfold : ∀ (l : List (Nat × Bool)) (u : State), (l.foldl (fun s e => if e.2 then s.nvsUncorrectable reader e.1 else s.nvsCorrected) u).nvs = u.nvs := fun l u =>
      (SameBut.foldl (l := [.regs, .ev, .hostMem]) (fun t e => sameBut_ite (t.nvsUncorrectable_same _ _) t.nvsCorrected_same) l u) .nvs (by decide)
    refine (hfold _ _).trans ?_
    split
    · rfl
    · split
      · unfold State.setPert
        extract_lets s1
        have h1 : s1.nvs = s.nvs := (SameBut.foldl (l := [.regs]) (fun u o => sameBut_ite (SameBut.refl _ _) (u.clrReg_same _ _)) _ _) .nvs (by decide)
        split <;> exact h1
      · rfl
  exact SameBut.drop (p := .nvs) ((s.nvsRead_nvsStep reader off len).same.mono (by decide)) hn

theorem State.abRead_keeps (s : State) (r : AbReg) : SameBut [.regs, .ev, .hostMem, .pert] s (s.abRead r).1 := by
  have h : SameBut [.regs, .ev, .hostMem, .pert] s ((s.nvsRead 3 r.offA (16 + r.max)).nvsRead 3 r.offB (16 + r.max)) := (s.nvsRead_keeps _ _ _).trans (State.nvsRead_keeps _ _ _ _)
  unfold State.abRead
  dsimp only
  split
  · exact h
  · exact h.then (State.raise_same _ _ _ _ _)

theorem State.abRead_nvsStep (s : State) (r : AbReg) : NvsStep s (s.abRead r).1 := by
  have h : NvsStep s ((s.nvsRead 3 r.offA (16 + r.max)).nvsRead 3 r.offB (16 + r.max)) := (s.nvsRead_nvsStep _ _ _).trans (State.nvsRead_nvsStep _ _ _ _)
  unfold State.abRead
  dsimp only
  split
  · exact h
  · exact h.trans (State.raise_nvsStep _ _ _ _ _)

/-! ## Calibration steps -/

theorem calEnd_spec (m step code pair : Nat) (s : State) : (calEnd m step code pair s).reg Reg.MSR_CAL_STAT = BitVec.ofNat 32 (code + 2 ^ 31)
    ∧ RegsBut [Reg.MSR_CAL_STAT] s (calEnd m step code pair s) ∧ SameBut [.ev, .hostMem, .regs] s (calEnd m step code pair s)
    ∧ (code ≠ 0 → Raised 0x0804 s (calEnd m step code pair s)) := by
  unfold calEnd
  obtain ⟨u, hu⟩ : ∃ u, u = s.setReg Reg.MSR_CAL_STAT (BitVec.ofNat 32 (code + 2 ^ 31)) := ⟨_, rfl⟩
  have hreg : u.reg Reg.MSR_CAL_STAT = BitVec.ofNat 32 (code + 2 ^ 31) := by rw [hu, State.reg_setReg_self]
  have hbut : RegsBut [Reg.MSR_CAL_STAT] s u := hu ▸ s.setReg_regsBut _ _
  have hsame : SameBut [.regs] s u := hu ▸ s.setReg_same _ _
  rw [← hu]
  have hr := u.raiseIf_same (code != 0) 0x0804 1 0x600 (m + 256 * step + 2 ^ 16 * code + 2 ^ 32 * pair)
  refine ⟨(hr.reg (by decide) _).trans hreg, hbut.trans (hr.regsBut _), (hsame.mono (by decide)).then hr, fun hc => ?_⟩
  unfold State.raiseIf
  rw [if_pos (by simpa using hc)]
  exact raised_of_ev (hsame .ev (by decide)) _ _ _ _

section
variable {m : Nat} {full : Bool} {s : State}

theorem calStep_starts (hb : s.calBusy = false) (hc : s.rbit (Reg.MSRC_CTL m) 0 = false) (hz : full = true → Tab.find? s.msr.zero (pairIx m (s.reg Reg.MSR_CAL_ENT)) ≠ none) :
    calStep m full s = { s.orReg Reg.MSR_STAT 2 with msr := { s.msr with cal := some (m, pairIx m (s.reg Reg.MSR_CAL_ENT), full) } } := by
  unfold calStep
  extract_lets p step
  rw [hb, hc, if_neg Bool.false_ne_true, if_neg Bool.false_ne_true, if_neg]
  cases full with
  | false => exact Bool.false_ne_true
  | true => simpa [Option.isNone_iff_eq_none] using hz rfl

/-- A calibration step that is refused, with its code (R364). -/
theorem calStep_refused {code : Nat} (h : s.calBusy = true ∧ code = 6 ∨ s.calBusy = false ∧ s.rbit (Reg.MSRC_CTL m) 0 = true ∧ code = 1
      ∨ s.calBusy = false ∧ s.rbit (Reg.MSRC_CTL m) 0 = false ∧ full = true ∧ Tab.find? s.msr.zero (pairIx m (s.reg Reg.MSR_CAL_ENT)) = none ∧ code = 4) :
    code ≠ 0 ∧ ∃ step, calStep m full s = calEnd m step code (pairIx m (s.reg Reg.MSR_CAL_ENT)) s := by
  unfold calStep
  extract_lets p step
  rcases h with ⟨hb, rfl⟩ | ⟨hb, hc, rfl⟩ | ⟨hb, hc, hf, hz, rfl⟩
  · exact ⟨by decide, step, if_pos hb⟩
  · exact ⟨by decide, step, (if_neg (by rw [hb]; decide)).trans (if_pos hc)⟩
  · refine ⟨by decide, step, (if_neg (by rw [hb]; decide)).trans ((if_neg (by rw [hc]; decide)).trans (if_pos ?_))⟩
    rw [hf, show Tab.find? s.msr.zero p = none from hz]
    rfl
end

theorem calResult_zero (m p : Nat) (codes : List Int) (s : State) :
    calResult m p false codes s = calEnd m 1 0 p { s with msr := { s.msr with zero := Tab.insert s.msr.zero p (BitVec.ofInt 32 ((codeMean codes).round false)) } } := rfl

/-- A step's end keeps that none is in progress. -/
theorem calResult_idle (m p : Nat) (full : Bool) (codes : List Int) {s : State} (h1 : s.msr.cal = none) (h2 : s.calBusy = false) :
    (calResult m p full codes s).msr.cal = none ∧ (calResult m p full codes s).calBusy = false := by
  have key : ∀ step code (u : State), u.msr.cal = none → u.calBusy = false → (calEnd m step code p u).msr.cal = none ∧ (calEnd m step code p u).calBusy = false := fun step code u g1 g2 => by
    obtain ⟨-, hr, hs, -⟩ := calEnd_spec m step code p u
    exact ⟨by rw [hs .msr (by decide)]; exact g1, (hr.rbit (by decide) 1).trans g2⟩
  unfold calResult
  split
  · exact key _ _ _ h1 h2
  · extract_lets ofs d g x
    split
    · exact key _ _ _ h1 h2
    · exact key _ _ _ h1 h2

/-! ## Page writes -/

theorem jobPage_length (m : Mem) (j : PageJob) : (jobPage m j).length = 64 := by
  unfold jobPage
  extract_lets base d
  have hd : d < 64 := Nat.mod_lt _ (by decide)
  simp only [List.length_take, List.length_append, List.length_drop, Mem.read_length]
  omega

/-- A page write that is carried through: target page, journal place and count. -/
theorem State.nvsPage_spec (s : State) (j : PageJob) : (s.nvsPage j).mem.nvs.read (64 * (j.off / 64)) 64 = jobPage s.mem.nvs j ∧ (s.nvsPage j).nvs.slot = some (nextSlot s.nvs)
    ∧ (s.nvsPage j).nvs.jseq = s.nvs.jseq + 1 ∧ (s.nvsPage j).reg Reg.NVS_WCNT = s.reg Reg.NVS_WCNT + 1 := by
  refine ⟨?_, rfl, rfl, ?_⟩
  · have h := Mem.read_writeRaw_self (writeSlot s.mem.nvs (nextSlot s.nvs) (slotBytes (j.off / 64) (s.nvs.jseq + 1).toNat slotDone (jobPage s.mem.nvs j))) (64 * (j.off / 64)) (jobPage s.mem.nvs j)
    rw [jobPage_length] at h
    exact h
  · unfold State.nvsPage
    extract_lets k q d page m1 x y s1
    rw [State.reg_incWrap_self]
    rfl

/-- The end of a page write keeps the store and its journal. -/
theorem jobDone_keeps (j : PageJob) (s : State) : (jobDone j s).mem = s.mem ∧ (jobDone j s).nvs = s.nvs ∧ (jobDone j s).reg Reg.NVS_WCNT = s.reg Reg.NVS_WCNT := by
  unfold jobDone
  split
  · exact ⟨rfl, rfl, State.reg_setReg_ne _ _ (by unfold Reg.NVS_WCNT Reg.NVSC_STAT baseNvs baseNvc; omega)⟩
  · exact ⟨rfl, rfl, rfl⟩
  · exact ⟨rfl, rfl, rfl⟩
  · exact ⟨rfl, rfl, rfl⟩
  · exact ⟨rfl, rfl, rfl⟩
  · split
    · exact ⟨rfl, rfl, (State.reg_setReg_ne _ _ (by decide)).trans (State.reg_clrReg_ne _ _ (by decide))⟩
    · exact ⟨rfl, rfl, rfl⟩
  · exact ⟨rfl, rfl, rfl⟩

theorem jobDone_chan {j : PageJob} {c : Fin 2} (h : j.src = .chan c) (s : State) : jobDone j s = s.chanEnd c.val 0 := by
  unfold jobDone
  rw [h]

theorem State.withCur_same (s : State) (j : Option PageJob) : SameBut [.nvs] s { s with nvs := { s.nvs with cur := j } } :=
  fun p hp => by cases p <;> first | rfl | exact absurd (by decide) hp

theorem pageDone_chan {j : PageJob} {c : Fin 2} (h : j.src = .chan c) (s : State) :
    pageDone j s = ({ s with nvs := { s.nvs with cur := none } }.nvsPage j).chanEnd c.val 0 := by
  unfold pageDone
  rw [h, jobDone_chan h]

theorem pageDone_spec (j : PageJob) (s : State) : (pageDone j s).mem.nvs.read (64 * (j.off / 64)) 64 = jobPage s.mem.nvs j ∧ (pageDone j s).nvs.slot = some (nextSlot s.nvs)
    ∧ (pageDone j s).nvs.jseq = s.nvs.jseq + 1 ∧ (pageDone j s).reg Reg.NVS_WCNT = s.reg Reg.NVS_WCNT + 1 := by
  obtain ⟨u, hu⟩ : ∃ u : State, u = { s with nvs := { s.nvs with cur := none } } := ⟨_, rfl⟩
  have hmem : u.mem = s.mem := by rw [hu]
  have hslot : nextSlot u.nvs = nextSlot s.nvs := by rw [hu]; rfl
  have hseq : u.nvs.jseq = s.nvs.jseq := by rw [hu]
  have hreg : u.reg Reg.NVS_WCNT = s.reg Reg.NVS_WCNT := by rw [hu]; rfl
  obtain ⟨h1, h2, h3, h4⟩ := u.nvsPage_spec j
  obtain ⟨g1, g2, g3⟩ := jobDone_keeps j (u.nvsPage j)
  rw [← g1, hmem] at h1
  rw [← g2, hslot] at h2
  rw [← g2, hseq] at h3
  rw [← g3, hreg] at h4
  unfold pageDone
  extract_lets x s1
  have hs1 : s1 = jobDone j (u.nvsPage j) := by rw [hu]
  rw [← hs1] at h1 h2 h3 h4
  clear_value s1
  split
  · exact ⟨h1, h2, h3, h4⟩
  · exact ⟨h1, h2, h3, h4⟩

theorem nvscIsolate_same (s : State) : SameBut [.rst] s (nvscIsolate s) := sameBut_ite (s.setDom_same _ _) (SameBut.refl _ _)

theorem exec_nvsPageWriteComplete {s : State} {j : PageJob} (h : s.nvs.cur = some j) : exec .nvsPageWriteComplete s = .next (nvscIsolate (pageDone j s)).nvsGo := by
  show execNvsPageWriteComplete s = _
  unfold execNvsPageWriteComplete
  rw [State.nvsGo_busy (by rw [h]; simp)]
  dsimp only
  rw [h]

/-! ## Channels -/

theorem nvscStat_ne_buf (c : Fin 2) (w : Nat) : Reg.NVSC_BUF c.val w ≠ Reg.NVSC_STAT c.val := by unfold Reg.NVSC_BUF Reg.NVSC_STAT; omega

/-- What a read of a page puts in a channel's buffer and status. -/
theorem State.chanRead_spec (s : State) (c : Fin 2) (page : Nat) :
    (∀ w < 16, (s.chanRead c.val page).reg (Reg.NVSC_BUF c.val w) = BitVec.ofNat 32 (s.mem.nvs.readN (64 * page + 4 * w) 4))
    ∧ (s.chanRead c.val page).reg (Reg.NVSC_STAT c.val) = BitVec.ofNat 32 ((if s.nvsUnc (64 * page) 64 then 1 else 0) * 16 + 2 ^ 31) := by
  rw [State.chanRead_eq]
  have hbuf : ∀ (n w : Nat) (u : State), w < n → ((List.range n).foldl (bufRead c.val s.mem.nvs (64 * page)) u).reg (Reg.NVSC_BUF c.val w) = BitVec.ofNat 32 (s.mem.nvs.readN (64 * page + 4 * w) 4) := by
    intro n
    induction n with
    | zero => exact fun w u h => absurd h (Nat.not_lt_zero w)
    | succ n ih =>
      intro w u h
      rw [List.range_succ, List.foldl_append]
      show (State.setReg _ _ _).reg _ = _
      by_cases hw : w = n
      · subst hw
        exact State.reg_setReg_self _ _ _
      · rw [State.reg_setReg_ne _ _ (by unfold Reg.NVSC_BUF; omega)]
        exact ih w u (by omega)
  refine ⟨fun w hw => ?_, State.reg_setReg_self _ _ _⟩
  exact (State.reg_setReg_ne _ _ (nvscStat_ne_buf c w)).trans (hbuf 16 w _ hw)

theorem nvsServe_nil_regs (s : State) : (nvsServe [] s).regs = s.regs := by
  unfold nvsServe
  split
  · rfl
  · split <;> rfl

theorem writeRefusal_code {sec : Bool} {s : State} {c page code : Nat} (h : writeRefusal sec s c page = some code) : code < 16 := by
  unfold writeRefusal at h
  repeat' split at h
  all_goals first | (have := Option.some.inj h; omega) | exact absurd h (by simp)

theorem writeRefusal_none {sec : Bool} {s : State} {c page : Nat} (h : writeRefusal sec s c page = none) : s.rst.bowarn = false := by
  unfold writeRefusal at h
  cases hw : s.rst.bowarn with
  | false => rfl
  | true =>
    simp only [hw, if_true] at h
    repeat' split at h
    all_goals exact absurd h (by simp)

/-- A WRITE of a channel that is refused, with its code and event (R399, R404, R409). -/
theorem nvsWriteEff_refused {sec : Bool} {ch code : Nat} {s : State} (h : writeRefusal sec s ch (s.fld (Reg.NVSC_PAGE ch) 11 0) = some code) :
    (nvsWriteEff sec ch s).fld (Reg.NVSC_STAT ch) 7 4 = code ∧ Raised (if code = 3 then 0x0604 else 0x0605) s (nvsWriteEff sec ch s)
    ∧ RegsBut [Reg.NVSC_STAT ch] s (nvsWriteEff sec ch s) := by
  have hcode := writeRefusal_code h
  unfold nvsWriteEff
  extract_lets page
  rw [show writeRefusal sec s ch page = some code from h]
  dsimp only
  obtain ⟨v, hv⟩ : ∃ v, v = BitVec.ofNat 32 (b2n (s.rbit (Reg.NVSC_STAT ch) 0) + 16 * code + 2 ^ 31) := ⟨_, rfl⟩
  obtain ⟨u, hu⟩ : ∃ u, u = s.setReg (Reg.NVSC_STAT ch) v := ⟨_, rfl⟩
  have hfld : u.fld (Reg.NVSC_STAT ch) 7 4 = code := by
    rw [hu, State.fld, State.reg_setReg_self, hv]
    unfold bits
    rw [BitVec.toNat_ofNat, Nat.shiftRight_eq_div_pow]
    have : b2n (s.rbit (Reg.NVSC_STAT ch) 0) ≤ 1 := by cases s.rbit (Reg.NVSC_STAT ch) 0 <;> decide
    omega
  have hbut : RegsBut [Reg.NVSC_STAT ch] s u := hu ▸ s.setReg_regsBut _ _
  have hev : u.ev = s.ev := by rw [hu]; rfl
  have key : ∀ ev sev src pay, (u.raise ev sev src pay).fld (Reg.NVSC_STAT ch) 7 4 = code ∧ Raised ev s (u.raise ev sev src pay) ∧ RegsBut [Reg.NVSC_STAT ch] s (u.raise ev sev src pay) :=
    fun ev sev src pay => ⟨by rw [State.fld, State.raise_reg]; exact hfld, raised_of_ev hev _ _ _ _, hbut.trans (State.raise_regsBut _ _ _ _ _ _)⟩
  rw [← hv, ← hu]
  by_cases h3 : code = 3
  · rw [if_pos h3, if_pos h3]
    exact key _ _ _ _
  · rw [if_neg h3, if_neg h3]
    exact key _ _ _ _

theorem chanOf (ch : Fin 2) : (if ch.val = 0 then 0 else 1 : Fin 2) = ch := by revert ch; decide

/-- A WRITE of a channel that is taken starts its page write at an idle store. -/
theorem nvsWriteEff_taken {sec : Bool} {ch : Fin 2} {s : State} (h : writeRefusal sec s ch.val (s.fld (Reg.NVSC_PAGE ch.val) 11 0) = none) (h2 : s.up 2 = true)
    (hr : s.nvs.ready = true) (hc : s.nvs.cur = none) (hq : s.nvs.queue = []) :
    nvsWriteEff sec ch.val s = { s.setReg (Reg.NVSC_STAT ch.val) (BitVec.ofNat 32 (1 + 2 ^ 31 * b2n (s.rbit (Reg.NVSC_STAT ch.val) 31))) with
      nvs := { s.nvs with queue := [], cur := some ⟨64 * s.fld (Reg.NVSC_PAGE ch.val) 11 0, chanBuf s ch.val, .chan ch⟩ } } := by
  have hw := writeRefusal_none h
  unfold nvsWriteEff
  extract_lets page
  rw [show writeRefusal sec s ch.val page = none from h]
  dsimp only
  obtain ⟨u, hu⟩ : ∃ u, u = s.setReg (Reg.NVSC_STAT ch.val) (BitVec.ofNat 32 (1 + 2 ^ 31 * b2n (s.rbit (Reg.NVSC_STAT ch.val) 31))) := ⟨_, rfl⟩
  have hn : u.nvs = s.nvs := by rw [hu]; rfl
  have hst : u.rst = s.rst := by rw [hu]; rfl
  rw [← hu, chanOf, nvsGo_serves (by unfold State.up State.domSt at h2 ⊢; rw [hst]; exact h2) (by rw [hn]; exact hr) (by rw [hn]; exact hc) (by rw [hn]; exact hq), nvsServe, if_neg (by rw [hst, hw]; decide)]
  subst hu
  rfl

theorem nvsReadEff_busy {ch : Nat} {s : State} (h : s.rbit (Reg.NVSC_STAT ch) 0 = true) : nvsReadEff ch s = s.setReg (Reg.NVSC_STAT ch) (BitVec.ofNat 32 (1 + 16 * 4 + 2 ^ 31)) := by
  unfold nvsReadEff
  rw [if_pos h]

/-- A READ of a free channel at an idle store. -/
theorem nvsReadEff_spec {ch : Fin 2} {s : State} (h : s.rbit (Reg.NVSC_STAT ch.val) 0 = false) (h2 : s.up 2 = true) (hr : s.nvs.ready = true) (hc : s.nvs.cur = none) (hq : s.nvs.queue = []) :
    (∀ w < 16, (nvsReadEff ch.val s).reg (Reg.NVSC_BUF ch.val w) = BitVec.ofNat 32 (s.mem.nvs.readN (64 * s.fld (Reg.NVSC_PAGE ch.val) 11 0 + 4 * w) 4))
    ∧ (nvsReadEff ch.val s).reg (Reg.NVSC_STAT ch.val) = BitVec.ofNat 32 (16 * (if s.nvsUnc (64 * s.fld (Reg.NVSC_PAGE ch.val) 11 0) 64 then 1 else 0) + 2 ^ 31) := by
  unfold nvsReadEff
  rw [if_neg (by rw [h]; decide), chanOf]
  obtain ⟨u, hu⟩ : ∃ u, u = s.setReg (Reg.NVSC_STAT ch.val) (BitVec.ofNat 32 (1 + 2 ^ 31 * b2n (s.rbit (Reg.NVSC_STAT ch.val) 31))) := ⟨_, rfl⟩
  have hn : u.nvs = s.nvs := by rw [hu]; rfl
  have hst : u.rst = s.rst := by rw [hu]; rfl
  obtain ⟨w, hw⟩ : ∃ w : State, w = { u with nvs := { u.nvs with queue := [.read ch (s.fld (Reg.NVSC_PAGE ch.val) 11 0)] } } := ⟨_, rfl⟩
  have hmem : w.mem = s.mem := by rw [hw, hu]; rfl
  have hpert : w.pert = s.pert := by rw [hw, hu]; rfl
  have hunc : ∀ o n, w.nvsUnc o n = s.nvsUnc o n := fun o n => by
    unfold State.nvsUnc State.nvsErrs State.pertAt
    rw [hmem, hpert]
  obtain ⟨h1, h2'⟩ := w.chanRead_spec ch (s.fld (Reg.NVSC_PAGE ch.val) 11 0)
  rw [← hu, nvsGo_serves (by unfold State.up State.domSt at h2 ⊢; rw [hst]; exact h2) (by rw [hn]; exact hr) (by rw [hn]; exact hc) (by rw [hn]; exact hq), ← hw, nvsServe]
  have hregs : ∀ a, (nvsServe [] (w.chanRead ch.val (s.fld (Reg.NVSC_PAGE ch.val) 11 0))).reg a = (w.chanRead ch.val (s.fld (Reg.NVSC_PAGE ch.val) 11 0)).reg a := fun a =>
    RegsBut.of_regs (nvsServe_nil_regs _) [] a List.not_mem_nil
  refine ⟨fun k hk => ?_, ?_⟩
  · rw [hregs, h1 k hk, hmem]
  · rw [hregs, h2', hunc, Nat.mul_comm]

/-- Settles O48: calibration, the channels of the store, its page writes and the tokens of the log. -/
theorem calibrationStoreAndLog : Obligations.CalibrationStoreAndLog := by
  unfold Obligations.CalibrationStoreAndLog
  intro s
  refine ⟨fun who m full j p hr hp hj => ?_, fun m p full vs ovl e codes high hup hcal he hcodes hhigh => ?_, fun who hr cv => ⟨fun code hcode => ?_, fun hb hw => ?_⟩,
    fun who ch page hr hpage => ⟨fun hb => ?_, fun hb h2 hrdy hcur hq => ?_, fun code hcode => ?_, fun hno h2 hrdy hcur hq => ?_⟩, fun j hj => ?_, fun h2 => ?_⟩
  · subst hp
    have hex : exec j s = .next (calStep m.val full s) := by
      rw [hj]
      cases full with
      | false => exact next_access hr
      | true => exact next_access hr
    refine ⟨fun hb hc hz => ⟨_, hex.trans (congrArg _ (calStep_starts hb hc hz)), rfl, s.reg_orReg_self _ _, s.orReg_regsBut _ _,
      fun q hq => by cases q <;> first | rfl | exact absurd (by decide) hq⟩, fun code hcode => ?_⟩
    obtain ⟨hne, step, he⟩ := calStep_refused hcode
    obtain ⟨h1, h2, h3, h4⟩ := calEnd_spec m.val step code (pairIx m.val (s.reg Reg.MSR_CAL_ENT)) s
    exact ⟨_, hex.trans (congrArg _ he), h1, h4 hne, h2, h3⟩
  · subst he hcodes
    obtain ⟨u, hu⟩ : ∃ u : State, u = { s.clrReg Reg.MSR_STAT 2 with msr := { s.msr with cal := none } } := ⟨_, rfl⟩
    have hucal : u.msr.cal = none := by rw [hu]
    have hubusy : u.calBusy = false := by
      rw [hu]
      show (s.clrReg Reg.MSR_STAT 2).rbit Reg.MSR_STAT 1 = false
      rw [State.rbit_clrReg_self _ _ _ _ (by decide)]
      exact Bool.and_false _
    have huev : u.ev = s.ev := by rw [hu]; rfl
    have hex : exec (.msrCalStepComplete vs ovl) s = .next (if high then calEnd m (if full then 2 else 1) 2 p u else calResult m p full (vs.map (rawCode (s.reg Reg.MSR_CAL_ENT))) u) := by
      have hcond : high = (ovl || excOff s m (s.reg Reg.MSR_CAL_ENT) || (vs.map (rawCode (s.reg Reg.MSR_CAL_ENT))).any rawClamps) := hhigh
      rw [hcond, hu]
      show execMsrCalStepComplete vs ovl s = _
      unfold execMsrCalStepComplete
      rw [hcal]
      exact congrArg Host.Outcome.next (if_pos hup)
    cases high with
    | true =>
      obtain ⟨h1, h2, h3, h4⟩ := calEnd_spec m (if full then 2 else 1) 2 p u
      exact ⟨_, hex, by rw [if_pos rfl, h3 .msr (by decide)]; exact hucal, (h2.rbit (by decide) 1).trans hubusy, fun _ => ⟨h1, raised_from huev (h4 (by decide))⟩, fun h => absurd h (by decide)⟩
    | false =>
      obtain ⟨h1, h2⟩ := calResult_idle m p full (vs.map (rawCode (s.reg Reg.MSR_CAL_ENT))) hucal hubusy
      refine ⟨_, hex, h1, h2, fun h => absurd h (by decide), fun _ hf => ?_⟩
      subst hf
      rw [if_neg Bool.false_ne_true, calResult_zero]
      obtain ⟨g1, g2, g3, -⟩ := calEnd_spec m 1 0 p { u with msr := { u.msr with zero := Tab.insert u.msr.zero p (BitVec.ofInt 32 ((codeMean (vs.map (rawCode (s.reg Reg.MSR_CAL_ENT)))).round false)) } }
      refine ⟨g1, ?_⟩
      rw [g3 .msr (by decide)]
      exact (Tab.find?_insert _ _ _ _).trans (if_pos rfl)
  · obtain ⟨hne, he⟩ : code ≠ 0 ∧ exec (.msrCalSave ⟨who, cv⟩) s = .next (calEnd cv.val 3 code 0 s) := by
      rcases hcode with ⟨hb, rfl⟩ | ⟨hb, hw, rfl⟩
      · exact ⟨by decide, (next_access hr).trans (congrArg _ (if_pos hb))⟩
      · exact ⟨by decide, (next_access hr).trans (congrArg _ ((if_neg (by rw [hb]; decide)).trans (if_pos hw)))⟩
    obtain ⟨h1, h2, h3, h4⟩ := calEnd_spec cv.val 3 code 0 s
    exact ⟨_, he, h1, h4 hne, h2⟩
  · obtain ⟨u, hu⟩ : ∃ u, u = (s.abRead abCal).1 := ⟨_, rfl⟩
    have hkeep : SameBut [.regs, .ev, .hostMem, .pert] s u := hu ▸ s.abRead_keeps abCal
    have hpay : calPayload u = calPayload s := by
      unfold calPayload State.calPair
      rw [hkeep .msr (by decide)]
    obtain ⟨jobs, hjobs⟩ : ∃ jobs, jobs = (recordJobs abCal (s.abChoose abCal) (calPayload s) (.cal cv false) (.cal cv true)).map NvsCmd.page := ⟨_, rfl⟩
    have hex : exec (.msrCalSave ⟨who, cv⟩) s = .next ((u.orReg Reg.MSR_STAT 2).nvsPut jobs) := by
      rw [hjobs, ← hpay, hu]
      exact (next_access hr).trans (congrArg _ ((if_neg (by rw [hb]; decide)).trans (if_neg (by rw [hw]; decide))))
    have hput := (u.orReg Reg.MSR_STAT 2).nvsPut_nvsStep jobs
    have hnreg : ¬ StoreReg Reg.MSR_STAT := by unfold StoreReg; decide
    refine ⟨_, hex, ?_, fun hcur => ?_⟩
    · show State.rbit _ _ _ = true
      rw [State.rbit, hput.regs _ hnreg, ← State.rbit, State.rbit_orReg_self _ _ _ _ (by decide)]
      exact Bool.or_true _
    · have hn : u.nvs = s.nvs := hkeep .nvs (by decide)
      have hbusy : (u.orReg Reg.MSR_STAT 2).nvsPut jobs = { u.orReg Reg.MSR_STAT 2 with nvs := { u.nvs with queue := u.nvs.queue ++ jobs } } :=
        State.nvsGo_busy (s := { u.orReg Reg.MSR_STAT 2 with nvs := { u.nvs with queue := u.nvs.queue ++ jobs } }) (by show u.nvs.cur ≠ none; rw [hn]; exact hcur)
      rw [hbusy, ← hjobs, hn]
      exact ⟨rfl, rfl⟩
  · exact (next_access hr).trans (congrArg _ (nvsReadEff_busy hb))
  · subst hpage
    exact ⟨_, next_access hr, nvsReadEff_spec hb h2 hrdy hcur hq⟩
  · subst hpage
    exact ⟨_, next_access hr, nvsWriteEff_refused hcode⟩
  · subst hpage
    refine ⟨_, (next_access hr).trans (congrArg _ (nvsWriteEff_taken hno h2 hrdy hcur hq)), rfl, ?_, s.setReg_regsBut _ _, fun q hq => by cases q <;> first | rfl | exact absurd (by decide) hq⟩
    show (s.setReg (Reg.NVSC_STAT ch.val) (BitVec.ofNat 32 (1 + 2 ^ 31 * b2n (s.rbit (Reg.NVSC_STAT ch.val) 31)))).rbit _ _ = true
    rw [State.rbit_setReg_self]
    cases s.rbit (Reg.NVSC_STAT ch.val) 31 <;> decide
  · obtain ⟨h1, h2, h3, h4⟩ := pageDone_spec j s
    have hi := nvscIsolate_same (pageDone j s)
    have hgo := (nvscIsolate (pageDone j s)).nvsGo_nvsStep
    have hmem : (nvscIsolate (pageDone j s)).nvsGo.mem.nvs = (pageDone j s).mem.nvs := (hgo.same .nvsMem (by decide)).trans (hi .nvsMem (by decide))
    have hnvs : (nvscIsolate (pageDone j s)).nvs = (pageDone j s).nvs := hi .nvs (by decide)
    refine ⟨_, exec_nvsPageWriteComplete hj, by rw [hmem]; exact h1, by rw [hgo.slot, hnvs]; exact h2, by rw [hgo.jseq, hnvs]; exact h3, ?_, fun c hc hq => ?_⟩
    · rw [hgo.regs _ (by unfold StoreReg; decide), hi.reg (by decide)]
      exact h4
    · have hqueue : (nvscIsolate (pageDone j s)).nvs.queue = [] := by
        rw [hnvs, pageDone_chan hc]
        exact hq
      have hregs : (nvscIsolate (pageDone j s)).nvsGo.regs = (nvscIsolate (pageDone j s)).regs := by
        unfold State.nvsGo
        rw [hqueue]
        split
        · exact nvsServe_nil_regs _
        · rfl
      rw [RegsBut.of_regs hregs [] _ List.not_mem_nil, hi.reg (by decide), pageDone_chan hc]
      exact State.reg_setReg_self _ _ _
  · exact congrArg Host.Outcome.next (if_pos h2)

end Sys2Proof.Machine
end

section
/-!
PROOFS. The mirror, takeover and lockstep: O46.
-/
set_option Elab.async false

namespace Sys2Proof.Machine

/-! ## What the gate and the pair's operations leave -/

theorem Raised.logGrows {s t : State} {code : Nat} (h : Raised code s t) : LogGrows s t := by
  obtain ⟨e, l, hlog, -, -⟩ := h
  exact ⟨e :: l, by rw [hlog, List.cons_append]⟩

theorem State.raiseStream_logGrows (s : State) (code sev src st seq pay : Nat) : LogGrows s (s.raiseStream code sev src st seq pay) :=
  (raiseStream_raised s code sev src st seq pay).logGrows

theorem State.msix_logGrows (s : State) (p v : Nat) : LogGrows s (s.msix p v) := by
  unfold State.msix
  exact logGrows_ite (LogGrows.refl s) (logGrows_ite ⟨[], rfl⟩ ⟨[], rfl⟩)

theorem State.streamVec_logGrows (s : State) (st : Nat) : LogGrows s (s.streamVec st) :=
  LogGrows.foldl (fun t _ => logGrows_ite (t.msix_logGrows _ _) (LogGrows.refl t)) _ _

/-- A step of the gate: the log grows, the pair changes in its record number alone, and the links' registers stay. -/
structure GateStep (s t : State) : Prop where
  log : LogGrows s t
  pair : PairSent s t
  hlk : HlkRegs s t

theorem GateStep.refl (s : State) : GateStep s s := ⟨LogGrows.refl s, PairSent.refl s, RegsFrom.refl _ _ s⟩

theorem GateStep.trans {s t u : State} (h : GateStep s t) (k : GateStep t u) : GateStep s u :=
  ⟨h.log.trans k.log, h.pair.trans k.pair, h.hlk.trans k.hlk⟩

theorem gateStep_ite {c : Prop} [Decidable c] {s t u : State} (ht : GateStep s t) (hu : GateStep s u) : GateStep s (if c then t else u) := by
  split
  · exact ht
  · exact hu

theorem GateStep.foldl {α : Type} {f : State → α → State} (h : ∀ t a, GateStep t (f t a)) (l : List α) (s : State) : GateStep s (l.foldl f s) := by
  induction l generalizing s with
  | nil => exact GateStep.refl s
  | cons a r ih => exact (h s a).trans (ih _)

theorem SameBut.gateStep {l : List Piece} {s t : State} (h : SameBut l s t) (he : .ev ∉ l := by decide) (hp : .pair ∉ l := by decide) (hr : .regs ∉ l := by decide) :
    GateStep s t := ⟨h.logGrows he, h.pairSent hp, h.regsFrom hr⟩

theorem State.raise_gateStep (s : State) (code sev src pay : Nat) : GateStep s (s.raise code sev src pay) :=
  ⟨s.raise_logGrows _ _ _ _, (s.raise_same _ _ _ _).pairSent, (s.raise_same _ _ _ _).regsFrom⟩

theorem State.raiseStream_gateStep (s : State) (code sev src st seq pay : Nat) : GateStep s (s.raiseStream code sev src st seq pay) :=
  ⟨s.raiseStream_logGrows _ _ _ _ _ _, (s.raiseStream_same _ _ _ _ _ _).pairSent, (s.raiseStream_same _ _ _ _ _ _).regsFrom⟩

theorem State.readFx_gateStep (s : State) (sp a n port kind : Nat) : GateStep s (s.readFx sp a n port kind) :=
  ⟨s.readFx_logGrows _ _ _ _ _, (s.readFx_same _ _ _ _ _).pairSent, eccRegs_from (s.readFx_regsBut _ _ _ _ _)⟩

theorem State.tankPut_gateStep (s : State) (a : Nat) (bs : List Byte) (port : Nat) : GateStep s (s.tankPut a bs port) :=
  ⟨s.tankPut_logGrows _ _ _, (s.tankPut_same _ _ _).pairSent, eccRegs_from (s.tankPut_regsBut _ _ _)⟩

theorem State.mirrorSend_gateStep (s : State) (b : MirrorBody) : GateStep s (s.mirrorSend b) :=
  ⟨(s.mirrorSend_same b).logGrows, s.mirrorSend_pairSent b, (s.mirrorSend_same b).regsFrom⟩

theorem State.streamVec_gateStep (s : State) (st : Nat) : GateStep s (s.streamVec st) :=
  ⟨s.streamVec_logGrows st, (s.streamVec_same st).pairSent, (s.streamVec_same st).regsFrom⟩

/-- A write of a register outside the links' range. -/
theorem State.setReg_gateStep (s : State) {a : Nat} (v : W32) (h : a < 0x00A00000 ∨ 0x00C00000 ≤ a) : GateStep s (s.setReg a v) :=
  ⟨(s.setReg_same _ _).logGrows, (s.setReg_same _ _).pairSent, (s.setReg_regsBut a v).from (by simpa using h)⟩

theorem State.setStrm_gateStep (s : State) (st : Nat) (x : Strm) : GateStep s (s.setStrm st x) := (s.setStrm_same st x).gateStep

theorem writeOut_gateStep (st : Nat) (l : List OutRec) (s : State) : GateStep s (writeOut st l s) := by
  induction l generalizing s with
  | nil => exact s.setStrm_gateStep _ _
  | cons r rest ih =>
    unfold writeOut
    exact gateStep_ite (s.setStrm_gateStep _ _) (((s.tankPut_gateStep _ _ _).trans (State.streamVec_gateStep _ _)).trans (ih _))

theorem flushSeqs_logGrows (st : Nat) (l : List SeqSt) (s : State) : LogGrows s (flushSeqs st l s) := by
  induction l generalizing s with
  | nil => exact (s.setStrm_same _ _).logGrows
  | cons r rest ih =>
    unfold flushSeqs
    split
    · exact (s.setStrm_same _ _).logGrows
    · extract_lets entry s0 s1 o x s2
      have h0 : LogGrows s s0 := logGrows_ite (s.readFx_logGrows _ _ _ _ _) (LogGrows.refl s)
      have h2 : LogGrows s s2 := (h0.trans (s0.mirrorSend_same _).logGrows).trans (s1.setStrm_same _ _).logGrows
      exact h2.trans (LogGrows.trans (logGrows_ite (s2.incReg_same _ _).logGrows (s2.incWrap_same _ _).logGrows) (ih _))

theorem State.flush_gateStep (s : State) (st : Nat) : GateStep s (s.flush st) :=
  ⟨(flushSeqs_logGrows _ _ s).trans (writeOut_gateStep _ _ _).log, s.flush_pairSent st, gateRegs_hlk (s.flush_regsBut st)⟩

theorem State.mapSeq_gateStep (s : State) (st : Nat) (n : W32) (f : SeqSt → SeqSt) : GateStep s (s.mapSeq st n f) := (s.mapSeq_same st n f).gateStep

theorem State.markPoison_gateStep (s : State) (st : Nat) (n : W32) : GateStep s (s.markPoison st n) :=
  (s.mapSeq_gateStep st n _).trans (State.flush_gateStep _ _)

theorem State.closeNum_gateStep (s : State) (st : Nat) (n : W32) (cause : Nat) : GateStep s (s.closeNum st n cause) :=
  (s.mapSeq_gateStep st n _).trans (State.flush_gateStep _ _)

theorem State.onCtx_gateStep (s : State) (i : Nat) (f : Ctx → Ctx) : GateStep s (s.onCtx i f) := (s.setCtx_same i _).gateStep

theorem State.poison_gateStep (s : State) (i : Nat) : GateStep s (s.poison i) := by
  unfold State.poison
  extract_lets s1
  have h : GateStep s s1 := s.onCtx_gateStep _ _
  split
  · exact h
  · exact h.trans (State.markPoison_gateStep _ _ _)

theorem State.poisonIf_gateStep (s : State) (i : Nat) (b : Bool) : GateStep s (s.poisonIf i b) := gateStep_ite (s.poison_gateStep i) (GateStep.refl s)

/-- What the pair holds for lockstep stays. -/
theorem GateStep.lockOf {s t : State} (h : GateStep s t) (st : Nat) : t.lockOf st = s.lockOf st := by
  obtain ⟨n, hn⟩ := h.pair
  rw [State.lockOf, State.lockOf, hn]

theorem HlkRegs.lockMode {s t : State} (h : HlkRegs s t) : t.lockMode = s.lockMode := by
  unfold State.lockMode State.rbit
  rw [h Reg.HLK_PAIR_CFG (by decide) (by decide)]

/-! ## The records of a mirror -/

theorem recordMirror_same (b : MirrorBody) (s : State) : SameBut [.pair] s (recordMirror b s) := by
  have hp : ∀ t : State, ∀ k area, SameBut [.pair] t (mirTook k area t) := by
    intro t k area
    unfold mirTook
    split
    · exact t.onPair_same _
    · exact SameBut.refl _ t
  cases b with
  | resyncBegin => exact SameBut.refl _ s
  | checkpoint k area => exact (s.onPair_same _).trans (hp _ _ _)
  | config => exact s.onPair_same _
  | arrival => exact s.onPair_same _
  | resolution => exact s.onPair_same _
  | tail => exact s.onPair_same _
  | resyncEnd => exact s.onPair_same _

/-- A message to the peer goes out before what has gone out already. -/
theorem toPeer_link {s : State} (h : s.portUp 7 = true) (m : PairMsg) : (s.toPeer m).link.out = (7, .pair m) :: s.link.out := by
  rw [State.toPeer, State.portSend, if_pos h]
  rfl

/-- Whether a port is up, where neither the registers nor the resets changed. -/
theorem SameBut.portUp {l : List Piece} {s t : State} (h : SameBut l s t) (hr : .regs ∉ l := by decide) (hrst : .rst ∉ l := by decide) {p : Nat} (hp : p < 8) :
    t.portUp p = s.portUp p := State.portUp_of_kept (h .rst hrst) (h.regsFrom hr) hp

/-- A record of the number given is counted as received and acknowledged. -/
def mirrorGot (n : W32) (t : State) : State := (t.onPair (fun p => { p with got := n })).toPeer (.mirrorAck n)

theorem mirrorGot_spec {s : State} (n : W32) {t : State} (hup : s.portUp 7 = true) (h : SameBut [.pair, .link] s t) :
    (mirrorGot n t).pair = { t.pair with got := n } ∧ (mirrorGot n t).link.out = (7, .pair (.mirrorAck n)) :: t.link.out ∧ SameBut [.pair, .link] s (mirrorGot n t) := by
  have hg : SameBut [.pair, .link] s (t.onPair (fun p => { p with got := n })) := h.then (t.onPair_same _)
  exact ⟨State.toPeer_same _ _ .pair (by decide), toPeer_link ((hg.portUp (p := 7) (hp := by decide)).trans hup) _, hg.then (State.toPeer_same _ _)⟩

section
variable {s : State}

theorem execMirrorRecord_eq (hup : s.portUp 7 = true) (hen : s.pairEn = true) (hst : s.pair.st = 3) (hl : s.lockMode = false) (r : MirrorRec) :
    exec (.mirrorRecord r) s = .next (
      let t := s.portTake 7 (PairMsg.mirror r).frames
      match r.body with
      | .resyncBegin => mirrorGot r.number (t.onPair (fun p => { p with mir := [], chk := [], synced := false, taking := true }))
      | b =>
        if !(t.pair.synced || t.pair.taking) then t
        else if r.number = t.pair.got + 1 then mirrorGot r.number (recordMirror b t) else mirrorGap t) := by
  refine congrArg Host.Outcome.next ((if_pos hup).trans ((if_pos ?_).trans ?_))
  · rw [hen, hst, hl]; rfl
  · rfl

theorem mirrorRecord_begin (hup : s.portUp 7 = true) (hen : s.pairEn = true) (hst : s.pair.st = 3) (hl : s.lockMode = false) {r : MirrorRec} (hb : r.body = .resyncBegin) :
    exec (.mirrorRecord r) s
      = .next (mirrorGot r.number ((s.portTake 7 (PairMsg.mirror r).frames).onPair (fun p => { p with mir := [], chk := [], synced := false, taking := true }))) := by
  rw [execMirrorRecord_eq hup hen hst hl, hb]

theorem mirrorRecord_more (hup : s.portUp 7 = true) (hen : s.pairEn = true) (hst : s.pair.st = 3) (hl : s.lockMode = false) {r : MirrorRec} (hb : r.body ≠ .resyncBegin)
    (hs : s.pair.synced = true ∨ s.pair.taking = true) :
    exec (.mirrorRecord r) s = .next (if r.number = s.pair.got + 1 then mirrorGot r.number (recordMirror r.body (s.portTake 7 (PairMsg.mirror r).frames))
      else mirrorGap (s.portTake 7 (PairMsg.mirror r).frames)) := by
  rw [execMirrorRecord_eq hup hen hst hl]
  have hp : (s.portTake 7 (PairMsg.mirror r).frames).pair = s.pair := State.portTake_same _ _ _ .pair (by decide)
  have hn : (!(s.pair.synced || s.pair.taking)) = false := by
    rw [Bool.not_eq_false', Bool.or_eq_true]
    exact hs
  dsimp only
  split
  · next h => exact absurd h hb
  · rw [hp, if_neg (by rw [hn]; exact Bool.false_ne_true)]

end

/-! ## Records that wait for the peer -/

/-- No record of a list waits for a mirror number that a condition allows. -/
def OutClean (p : W32 → Bool) (l : List OutRec) : Prop := ∀ o ∈ l, ∀ m, o.mirror = some m → p m = false

/-- The record without its mirror number where a condition allows that number. -/
def OutRec.freed (p : W32 → Bool) (r : OutRec) : OutRec := match r.mirror with
  | some n => if p n then { r with mirror := none } else r
  | none => r

theorem OutRec.freed_mirror (p : W32 → Bool) (r : OutRec) {m : W32} (h : (r.freed p).mirror = some m) : p m = false := by
  unfold OutRec.freed at h
  split at h
  · next n hn =>
    split at h
    · exact absurd h (by simp)
    · next hp =>
      rw [hn, Option.some.injEq] at h
      rw [← h]
      exact Bool.eq_false_iff.mpr hp
  · next hn => exact absurd (hn.symm.trans h) (by simp)

theorem outClean_freed (p : W32 → Bool) (l : List OutRec) : OutClean p (l.map (OutRec.freed p)) := by
  intro o ho m hm
  obtain ⟨r, -, rfl⟩ := List.mem_map.mp ho
  exact r.freed_mirror p hm

theorem strm_setStrm_ne (s : State) {st q : Nat} (x : Strm) (h : q ≠ st) : (s.setStrm st x).strm q = s.strm q := Tab.getD_setD_ne _ _ _ _ h

/-- The records that are left are among those that waited, and no other stream changes. -/
theorem writeOut_outq (st : Nat) (l : List OutRec) (s : State) : (∀ o ∈ ((writeOut st l s).strm st).outq, o ∈ l) ∧ ∀ q, q ≠ st → (writeOut st l s).strm q = s.strm q := by
  induction l generalizing s with
  | nil => exact ⟨fun o ho => by rw [writeOut, State.strm_setStrm_self] at ho; exact ho, fun q hq => strm_setStrm_ne _ _ hq⟩
  | cons r rest ih =>
    rw [writeOut]
    split
    · exact ⟨fun o ho => by rw [State.strm_setStrm_self] at ho; exact ho, fun q hq => strm_setStrm_ne _ _ hq⟩
    · obtain ⟨h1, h2⟩ := ih ((s.tankPut (s.outEntry st r.seq) r.header 0).streamVec st)
      refine ⟨fun o ho => List.mem_cons_of_mem _ (h1 o ho), fun q hq => (h2 q hq).trans ?_⟩
      exact (State.streamVec_same _ _).strm (by decide) q |>.trans ((State.tankPut_same _ _ _ _).strm (by decide) q)

/-- Releases one stream's records. -/
def freeStrm (p : W32 → Bool) (t : State) (st : Nat) : State := writeOut st ((t.strm st).outq.map (OutRec.freed p)) t

theorem freeMirrored_eq (p : W32 → Bool) (s : State) : freeMirrored p s = (s.strms.map (fun e => e.1)).foldl (freeStrm p) s := rfl

theorem freeStrm_clean (p : W32 → Bool) (t : State) {st q : Nat} (h : q = st ∨ OutClean p (t.strm q).outq) : OutClean p ((freeStrm p t st).strm q).outq := by
  obtain ⟨h1, h2⟩ := writeOut_outq st ((t.strm st).outq.map (OutRec.freed p)) t
  by_cases hq : q = st
  · subst hq
    exact fun o ho => outClean_freed p _ o (h1 o ho)
  · unfold freeStrm
    rw [h2 q hq]
    exact h.resolve_left hq

theorem foldl_freeStrm_clean (p : W32 → Bool) (l : List Nat) (t : State) {q : Nat} (h : q ∈ l ∨ OutClean p (t.strm q).outq) :
    OutClean p ((l.foldl (freeStrm p) t).strm q).outq := by
  induction l generalizing t with
  | nil => exact h.resolve_left (by simp)
  | cons a r ih =>
    refine ih _ ?_
    by_cases hq : q = a
    · exact .inr (freeStrm_clean p t (.inl hq))
    · exact h.imp (fun hm => (List.mem_cons.mp hm).resolve_left hq) (fun hc => freeStrm_clean p t (.inr hc))

/-- A stream that is listed nowhere is as after reset. -/
theorem State.strm_of_not_mem {s : State} {i : Nat} (h : i ∉ s.strms.map (fun e => e.1)) : (s.strm i).outq = [] := by
  have hf : ∀ t : Tab Strm, i ∉ t.map (fun e => e.1) → Tab.find? t i = none := by
    intro t
    induction t with
    | nil => exact fun _ => rfl
    | cons e r ih =>
      intro hi
      rw [List.map_cons, List.mem_cons, not_or] at hi
      rw [Tab.find?, if_neg hi.1]
      exact ih hi.2
  rw [State.strm, Tab.getD, hf _ h]
  rfl

theorem freeMirrored_clean (p : W32 → Bool) (s : State) (q : Nat) : OutClean p ((freeMirrored p s).strm q).outq := by
  rw [freeMirrored_eq]
  refine foldl_freeStrm_clean p _ s ?_
  by_cases h : q ∈ s.strms.map (fun e => e.1)
  · exact .inl h
  · exact .inr (by rw [State.strm_of_not_mem h]; exact fun _ ho => absurd ho (by simp))

theorem freeMirrored_gateStep (p : W32 → Bool) (s : State) : GateStep s (freeMirrored p s) := GateStep.foldl (fun t _ => writeOut_gateStep _ _ t) _ s

theorem mem_of_outq {s : State} {st : Nat} {o : OutRec} (h : o ∈ (s.strm st).outq) : ∃ e ∈ s.strms, o ∈ e.2.outq := by
  have hf : ∀ t : Tab Strm, o ∈ (Tab.getD t st ⟨[], none, [], none, [], []⟩).outq → ∃ e ∈ t, o ∈ e.2.outq := by
    intro t
    induction t with
    | nil => exact fun ho => absurd ho (by simp)
    | cons e r ih =>
      intro ho
      by_cases he : st = e.1
      · exact ⟨e, List.mem_cons_self, by simpa [Tab.getD, Tab.find?, he] using ho⟩
      · obtain ⟨x, hx, hox⟩ := ih (by simpa [Tab.getD, Tab.find?, he] using ho)
        exact ⟨x, List.mem_cons_of_mem _ hx, hox⟩
  exact hf _ h

/-! ## Acknowledgements -/

section
variable {s : State}

theorem execMirrorAck_eq (hup : s.portUp 7 = true) (hen : s.pairEn = true) (hst : s.pair.st = 2) (n : W32) : exec (.mirrorAck n false) s = .next (
      let t := s.portTake 7 1
      let s1 := t.onPair (fun p => { p with acked := n })
      let s2 := match t.pair.resync with
        | some e => if n = e ∨ follows n e then s1.onPair (fun p => { p with peerOk := true, resync := none }) else s1
        | none => s1
      freeMirrored (fun m => m == n || follows n m) s2) := by
  refine congrArg Host.Outcome.next ((if_pos hup).trans ((if_pos ?_).trans ?_))
  · rw [hen, hst]; rfl
  · rfl

theorem mirrorAck_spec (hup : s.portUp 7 = true) (hen : s.pairEn = true) (hst : s.pair.st = 2) (n : W32) : ∃ t, exec (.mirrorAck n false) s = .next t ∧ t.pair.acked = n
    ∧ (∀ st, ∀ o ∈ (t.strm st).outq, ∀ m, o.mirror = some m → ¬(m = n ∨ follows n m = true))
    ∧ (∀ e, s.pair.resync = some e → (n = e ∨ follows n e = true) → t.pair.peerOk = true ∧ t.pair.resync = none) := by
  have hex := execMirrorAck_eq hup hen hst n
  extract_lets t s1 s2 at hex
  have hp : t.pair = s.pair := State.portTake_same _ _ _ .pair (by decide)
  have hack : s2.pair.acked = n := by
    show (match t.pair.resync with
        | some e => if n = e ∨ follows n e then s1.onPair (fun p => { p with peerOk := true, resync := none }) else s1
        | none => s1).pair.acked = n
    split
    · split <;> rfl
    · rfl
  obtain ⟨k, hk⟩ := (freeMirrored_gateStep (fun m => m == n || follows n m) s2).pair
  refine ⟨_, hex, by rw [hk]; exact hack, fun st o ho m hm hn => ?_, fun e he hn => ?_⟩
  · have := freeMirrored_clean _ s2 st o ho m hm
    simp_all
  · have h2 : s2 = s1.onPair (fun p => { p with peerOk := true, resync := none }) := by
      show (match t.pair.resync with
        | some e => if n = e ∨ follows n e then s1.onPair (fun p => { p with peerOk := true, resync := none }) else s1
        | none => s1) = _
      rw [hp, he]
      exact if_pos hn
    rw [hk, h2]
    exact ⟨rfl, rfl⟩

/-- A resynchronisation of a MIRROR pair ends at the last record sent, and leaves PEER_OK to its acknowledgement. -/
theorem resyncPeer_mirror (h : s.lockMode = false) : (resyncPeer s).pair.peerOk = s.pair.peerOk ∧ (resyncPeer s).pair.resync = some (resyncPeer s).pair.sent := by
  unfold resyncPeer
  rw [if_neg (by rw [h]; exact Bool.false_ne_true)]
  extract_lets s1 s2 s3 s4
  have h4 : PairSent (s.onPair (fun p => { p with resync := some 0 })) s4 :=
    (((State.mirrorSend_pairSent _ _).trans (PairSent.foldl (fun t st => resyncStream_pairSent st t) _ _)).trans (PairSent.foldl (fun t i => resyncCtx_pairSent i t) _ _)).trans
      (State.mirrorSend_pairSent _ _)
  obtain ⟨n, hn⟩ := h4
  rw [State.pair_onPair, hn]
  exact ⟨rfl, rfl⟩

theorem mirrorAck_ask (hup : s.portUp 7 = true) (hen : s.pairEn = true) (hst : s.pair.st = 2) (hl : s.lockMode = false) (n : W32) :
    ∃ t, exec (.mirrorAck n true) s = .next t ∧ t.pair.peerOk = false ∧ t.pair.resync = some t.pair.sent := by
  have hex : exec (.mirrorAck n true) s = .next (resyncPeer ((s.portTake 7 1).onPair (fun p => { p with peerOk := false }))) :=
    congrArg Host.Outcome.next ((if_pos hup).trans (if_pos (by rw [hen, hst]; rfl)))
  have hregs : ((s.portTake 7 1).onPair (fun p => { p with peerOk := false })).regs = s.regs := State.portTake_same s 7 1 .regs (by decide)
  obtain ⟨h1, h2⟩ := resyncPeer_mirror ((State.lockMode_of_regs hregs).trans hl)
  exact ⟨_, hex, h1, h2⟩

theorem mirrorAckTimeout_spec (hu : s.up 7 = true) (hen : s.pairEn = true) (hst : s.pair.st = 2) {st : Nat} {o : OutRec} (ho : o ∈ (s.strm st).outq) (hm : o.mirror ≠ none) :
    ∃ t, exec .mirrorAckTimeout s = .next t ∧ t.pair.peerOk = false ∧ t.pair.resync = none ∧ (∀ q, ∀ r ∈ (t.strm q).outq, r.mirror = none) ∧ RaisedAmong 0x0509 s t := by
  have hwait : s.strms.any (fun e => e.2.outq.any (fun r => r.mirror.isSome)) = true := by
    obtain ⟨e, he, hoe⟩ := mem_of_outq ho
    exact List.any_eq_true.mpr ⟨e, he, List.any_eq_true.mpr ⟨o, hoe, Option.isSome_iff_ne_none.mpr hm⟩⟩
  have hex : exec .mirrorAckTimeout s = .next ((freeMirrored (fun _ => true) (s.onPair (fun p => { p with peerOk := false, resync := none }))).raise 0x0509 1 0x300 (2 ^ 32 * s.pair.sent.toNat)) :=
    congrArg Host.Outcome.next (if_pos (by rw [hu, hen, hst, hwait, Bool.or_true]; rfl))
  obtain ⟨u, hu'⟩ : ∃ u, u = freeMirrored (fun _ => true) (s.onPair (fun p => { p with peerOk := false, resync := none })) := ⟨_, rfl⟩
  have hg : GateStep (s.onPair (fun p => { p with peerOk := false, resync := none })) u := hu' ▸ freeMirrored_gateStep _ _
  have hclean : ∀ q, OutClean (fun _ => true) (u.strm q).outq := fun q => hu' ▸ freeMirrored_clean _ _ q
  rw [← hu'] at hex
  have hs := u.raise_same 0x0509 1 0x300 (2 ^ 32 * s.pair.sent.toNat)
  obtain ⟨k, hk⟩ := hg.pair
  have hpair := (hs .pair (by decide)).trans hk
  refine ⟨_, hex, by rw [hpair]; rfl, by rw [hpair]; rfl, fun q r hr => ?_, (((s.onPair_same _).logGrows).trans hg.log).raised (u.raise_raised _ _ _ _)⟩
  rw [hs.strm (by decide) q] at hr
  cases h : r.mirror with
  | none => rfl
  | some m => exact absurd (hclean q r hr m h) (by simp)

end

/-! ## Takeover -/

theorem State.noteTaken_gateStep (s : State) (st : Nat) (n : W32) : GateStep s (s.noteTaken st n) := s.setStrm_gateStep _ _

theorem takeStream_gateStep (st : Nat) (m : MirStrm) (s : State) : GateStep s (takeStream st m s) := by
  unfold takeStream
  extract_lets s1 s2 wait g s3
  have h1 : GateStep s s1 :=
    ((s.setReg_gateStep _ (.inr (by unfold Reg.SEQ_STRM_CFG baseStrm; omega))).trans (State.setReg_gateStep _ _ (.inr (by unfold Reg.SEQ_STRM_NEXT baseStrm; omega)))).trans
      (State.setReg_gateStep _ _ (.inr (by unfold Reg.INT_OUT_TAIL baseRing; omega)))
  have h2 : GateStep s s2 := h1.trans (GateStep.foldl (fun t e => t.tankPut_gateStep _ _ _) _ _)
  exact (h2.trans ((State.setStrm_gateStep _ _ _).trans (State.flush_gateStep _ _))).trans (GateStep.foldl (fun t n => t.noteTaken_gateStep st n) _ _)

theorem noteCur_gateStep (i : Nat) (s : State) : GateStep s (noteCur i s) := by
  unfold noteCur
  split
  · exact s.noteTaken_gateStep _ _
  · exact GateStep.refl s

theorem recallTiles_same (l : List Tile) (a gen : Nat) (s : State) : SameBut [.saves] s (recallTiles l a gen s).1 := by
  induction l generalizing a gen s with
  | nil => exact SameBut.refl _ s
  | cons t r ih =>
    have hs : SameBut [.saves] s { s with saves := Tab.erase s.saves a } := fun p hp => by cases p <;> first | rfl | exact absurd (by decide) hp
    unfold recallTiles
    dsimp only
    split
    · exact ih _ _ s
    · split
      · exact hs.trans (ih _ _ _)
      · exact ih _ _ s

theorem putTiles_gateStep (i a : Nat) (ts : List Tile) (s : State) : GateStep s (putTiles i a ts s) := by
  unfold putTiles
  exact (recallTiles_same ts a ((s.ctx i).gen i) s).gateStep.trans (State.onCtx_gateStep (recallTiles ts a ((s.ctx i).gen i) s).1 _ _)

theorem State.seqErr_gateStep (s : State) (i b : Nat) : GateStep s (s.seqErr i b) := by
  have ha : Reg.SEQ_ERR (i / 4) < 0x00A00000 ∨ 0x00C00000 ≤ Reg.SEQ_ERR (i / 4) := .inr (by unfold Reg.SEQ_ERR baseSeq coreBase; omega)
  exact (s.setReg_gateStep _ ha).trans (State.setReg_gateStep _ _ ha)

theorem resumeRefuse_gateStep (i a : Nat) (s : State) : GateStep s (resumeRefuse i a s) := (s.seqErr_gateStep i 1).trans (State.raise_gateStep _ _ _ _ _)

theorem ctxResume_gateStep (i : Nat) (s : State) : GateStep s (ctxResume i s) := by
  unfold ctxResume
  extract_lets core a head k len s1
  refine gateStep_ite (resumeRefuse_gateStep _ _ _) ?_
  have h1 : GateStep s s1 := s.readFx_gateStep _ _ _ _ _
  split
  · extract_lets bad s2 s3
    have h2 : GateStep s s2 := h1.trans (gateStep_ite (s1.readFx_gateStep _ _ _ _ _) (GateStep.refl _))
    exact gateStep_ite (h1.trans (resumeRefuse_gateStep _ _ _)) ((h2.trans (State.onCtx_gateStep _ _ _)).trans ((putTiles_gateStep _ _ _ _).trans (State.poisonIf_gateStep _ _ _)))
  · exact h1.trans (resumeRefuse_gateStep _ _ _)

theorem takeCtx_gateStep (i : Nat) (area : List Byte) (s : State) : GateStep s (takeCtx i area s) :=
  gateStep_ite (((s.tankPut_gateStep _ _ _).trans (ctxResume_gateStep _ _)).trans (noteCur_gateStep _ _)) (GateStep.refl s)

theorem State.health_bit (s : State) {b : Nat} (hb : b < 32) : (s.health b).rbit Reg.TST_HEALTH b = true := by
  unfold State.health
  split
  · next h => exact h
  · have hset : (s.orReg Reg.TST_HEALTH (2 ^ b)).rbit Reg.TST_HEALTH b = true := by
      rw [State.rbit_orReg_self s _ _ b hb, Nat.testBit_two_pow_self, Bool.or_true]
    exact ((State.raise_regsBut _ _ _ _ _ []).rbit (by simp) b).trans hset

/-- Steps 4 and 5 of a takeover: in LOCKSTEP-COMPARE the numbers that await the peer's copy close, in MIRROR the streams and contexts of the mirror are taken. -/
def takeMirror (s : State) : State × Nat :=
  if s.lockMode then ((awaiting s).foldl (fun t e => t.closeNum e.1 e.2 4) s, (awaiting s).length)
  else (s.pair.chk.foldl (fun t e => takeCtx e.1 e.2 t) (s.pair.mir.foldl (fun t e => takeStream e.1 e.2 t) s), (s.pair.mir.map (fun e => e.2.arr.length)).foldl (fun a b => a + b) 0)

theorem takeMirror_gateStep (s : State) : GateStep s (takeMirror s).1 := by
  unfold takeMirror
  split
  · exact GateStep.foldl (fun t e => t.closeNum_gateStep _ _ _) _ _
  · exact (GateStep.foldl (fun t e => takeStream_gateStep _ _ t) _ _).trans (GateStep.foldl (fun t e => takeCtx_gateStep _ _ t) _ _)

theorem takeover_spec {s : State} (hst : s.pair.st = 4) (ha : s.auth = true) : ∃ t, exec .takeoverComplete s = .next t ∧ t.pair.st = 2 ∧ t.pair.peerOk = false ∧ t.pair.mir = []
    ∧ t.pair.chk = s.pair.chk ∧ t.reg Reg.HLK_FAILOVER_CNT = satAdd (s.reg Reg.HLK_FAILOVER_CNT) 1 ∧ t.rbit Reg.TST_HEALTH 3 = true ∧ RaisedAmong 0x0506 s t := by
  obtain ⟨u, hu⟩ : ∃ u, u = (takeMirror s).1.onPair (fun p => { p with st := 2, peerOk := false, closedNo := (takeMirror s).2, mir := [] }) := ⟨_, rfl⟩
  have hg := takeMirror_gateStep s
  have hlog : LogGrows s u := hu ▸ hg.log.trans (State.onPair_same _ _).logGrows
  have hpair : u.pair.st = 2 ∧ u.pair.peerOk = false ∧ u.pair.mir = [] ∧ u.pair.chk = s.pair.chk := by
    obtain ⟨n, hn⟩ := hg.pair
    rw [hu, State.pair_onPair, hn]
    exact ⟨rfl, rfl, rfl, rfl⟩
  have hreg : u.reg Reg.HLK_FAILOVER_CNT = s.reg Reg.HLK_FAILOVER_CNT := by
    rw [hu, State.reg_onPair]
    exact hg.hlk _ (by decide) (by decide)
  obtain ⟨pay, hex⟩ : ∃ pay, exec .takeoverComplete s = .next (((u.incReg Reg.HLK_FAILOVER_CNT 1).raise 0x0506 1 0x300 pay).health 3) := by
    refine ⟨(s.cnt.hlk - s.pair.since).toNat / 100 % 2 ^ 32 + 2 ^ 32 * (takeMirror s).2, ?_⟩
    rw [hu]
    exact congrArg Host.Outcome.next (if_pos (by rw [ha, hst]; rfl))
  clear hu
  obtain ⟨v, hv⟩ : ∃ v, v = (u.incReg Reg.HLK_FAILOVER_CNT 1).raise 0x0506 1 0x300 pay := ⟨_, rfl⟩
  rw [← hv] at hex
  have hsame : SameBut [.regs, .ev, .hostMem] u v := hv ▸ (((u.incReg_same _ _).mono (by decide)).then (State.raise_same _ _ _ _ _))
  have hraised : RaisedAmong 0x0506 s v := hv ▸ (hlog.trans (u.incReg_same _ _).logGrows).raised (State.raise_raised _ _ _ _ _)
  have hcnt : v.reg Reg.HLK_FAILOVER_CNT = satAdd (s.reg Reg.HLK_FAILOVER_CNT) 1 := by
    rw [hv, (State.raise_same _ _ _ _ _).reg (by decide), ← hreg]
    exact State.reg_setReg_self _ _ _
  clear hv
  have hvp : (v.health 3).pair = u.pair := (State.health_pair v 3).trans (hsame .pair (by decide))
  rw [← hvp] at hpair
  obtain ⟨h1, h2, h3, h4⟩ := hpair
  exact ⟨_, hex, h1, h2, h3, h4, (State.health_regsBut v 3 _ (by decide)).trans hcnt, State.health_bit v (by decide), hraised.grows (v.health_logGrows 3)⟩

/-! ## Lockstep -/

theorem lockOf_setLock_self (s : State) (st : Nat) (x : LockStrm) : (s.setLock st x).lockOf st = x := Tab.getD_setD_self _ _ _ _

theorem State.setLock_same (s : State) (st : Nat) (x : LockStrm) : SameBut [.pair] s (s.setLock st x) := s.withPair_same _

theorem readRows_gateStep (core port : Nat) (d : Desc) (l : List (Nat × Nat × Nat)) (s : State) : GateStep s (readRows core port d l s).1 := by
  induction l generalizing s with
  | nil => exact GateStep.refl s
  | cons x r ih => obtain ⟨a, b, c⟩ := x; exact (s.readFx_gateStep _ _ _ _ _).trans (ih _)

theorem keyDiffers_gateStep (st : Nat) (n : W32) (s : State) : GateStep s (keyDiffers st n s) := (s.raiseStream_gateStep _ _ _ _ _ _).trans (State.markPoison_gateStep _ _ _)

theorem keyDiffers_raised (st : Nat) (n : W32) (s : State) : RaisedAmong 0x0507 s (keyDiffers st n s) :=
  (raiseStream_raised _ _ _ _ _ _ _).among.grows (State.markPoison_gateStep _ _ _).log

/-- A realignment keeps the keys of its stream, and its events are raised after those before it. -/
theorem realign_spec (st : Nat) (n m : W32) (s : State) : ((realign st n m s).lockOf st).peer = (s.lockOf st).peer ∧ LogGrows s (realign st n m s) := by
  unfold realign
  extract_lets d first skip x old s1 s2 y s3
  have h2 : SameBut [.strms, .regs, .link] s s2 := by
    have h1 : SameBut [.strms, .regs, .link] s s1 := ((s.setStrm_same _ _).mono (by decide)).then (State.setReg_same _ _ _)
    refine h1.trans (SameBut.foldl (fun t q => ?_) _ _)
    exact (t.toPeer_same _).mono (by decide)
  have hl : (s3.lockOf st).peer = (s.lockOf st).peer := by
    have h3 : s3.lockOf st = { s2.lockOf st with floor := some (first + d) } := lockOf_setLock_self s2 st { s2.lockOf st with floor := some (first + d) }
    rw [h3]
    exact congrArg (fun p : PairSt => (Tab.getD p.lock st ⟨[], [], none, [], []⟩).peer) (h2 .pair (by decide))
  have hlog : LogGrows s s3 := (h2.logGrows.trans (State.setLock_same _ _ _).logGrows).trans (State.incReg_same _ _ _).logGrows
  have hg : GateStep s3 ((s3.raiseStream 0x0507 2 0x300 st first.toNat (st + 256 * 3 + 2 ^ 32 * first.toNat + 2 ^ 64 * d.toNat)).flush st) :=
    (s3.raiseStream_gateStep _ _ _ _ _ _).trans (State.flush_gateStep _ _)
  exact ⟨by rw [hg.lockOf]; exact hl, hlog.trans hg.log⟩

theorem peerKey_spec (st : Nat) (seq : W32) (key : W64) (s : State) : ((peerKey st seq key s).lockOf st).peer = ((seq, key) :: (s.lockOf st).peer).take 16
    ∧ ((∃ e ∈ (s.lockOf st).own, e.1 = seq ∧ e.2 ≠ key) → RaisedAmong 0x0507 s (peerKey st seq key s)) := by
  unfold peerKey
  extract_lets x s1 s2
  have h1 : (s1.lockOf st).peer = ((seq, key) :: (s.lockOf st).peer).take 16 := congrArg LockStrm.peer (lockOf_setLock_self s st _)
  have hlog1 : LogGrows s s1 := (s.setLock_same _ _).logGrows
  have hg2 : GateStep s1 s2 := gateStep_ite (keyDiffers_gateStep _ _ _) (GateStep.refl _)
  have hr : (∃ e ∈ (s.lockOf st).own, e.1 = seq ∧ e.2 ≠ key) → RaisedAmong 0x0507 s s2 := by
    rintro ⟨e, he, hseq, hkey⟩
    have hany : x.own.any (fun e => e.1 == seq && e.2 != key) = true := List.any_eq_true.mpr ⟨e, he, by simp [hseq, hkey]⟩
    have h2 : s2 = keyDiffers st seq s1 := if_pos hany
    obtain ⟨l, hl⟩ := hlog1
    obtain ⟨m, hm, e', he', hc⟩ := keyDiffers_raised st seq s1
    exact ⟨m ++ l, by rw [h2, hm, hl, List.append_assoc], e', List.mem_append_left _ he', hc⟩
  split
  · next e he =>
    obtain ⟨hp, hlog⟩ := realign_spec st e.1 seq s2
    exact ⟨by rw [hp, hg2.lockOf]; exact h1, fun h => (hr h).grows hlog⟩
  · exact ⟨by rw [hg2.lockOf]; exact h1, hr⟩

/-! ## DONEs that wait for a number -/

/-- What attempting a DONE of context i leaves: a step of the gate, and every other context. -/
structure DoneStep (i : Nat) (s t : State) : Prop where
  gate : GateStep s t
  ctx : ∀ j, j ≠ i → t.ctx j = s.ctx j

section
variable {i : Nat} {s t u : State}

theorem DoneStep.refl (i : Nat) (s : State) : DoneStep i s s := ⟨GateStep.refl s, fun _ _ => rfl⟩

theorem DoneStep.trans (h : DoneStep i s t) (k : DoneStep i t u) : DoneStep i s u := ⟨h.gate.trans k.gate, fun j hj => (k.ctx j hj).trans (h.ctx j hj)⟩

theorem doneStep_ite {c : Prop} [Decidable c] (ht : DoneStep i s t) (hu : DoneStep i s u) : DoneStep i s (if c then t else u) := by
  split
  · exact ht
  · exact hu

/-- A step of the gate that keeps every context. -/
theorem GateStep.done (h : GateStep s t) (hc : t.ctxs = s.ctxs) : DoneStep i s t := ⟨h, fun j _ => by rw [State.ctx, State.ctx, hc]⟩

variable (i s)

theorem State.onCtx_doneStep (f : Ctx → Ctx) : DoneStep i s (s.onCtx i f) := ⟨s.onCtx_gateStep i f, fun _ hj => Tab.getD_setD_ne _ _ _ _ hj⟩

theorem State.poison_doneStep : DoneStep i s (s.poison i) := ⟨s.poison_gateStep i, fun j hj => by rw [State.poison_ctx]; exact (s.onCtx_doneStep i _).ctx j hj⟩

variable (st : Nat) (n : W32) (rr : Nat)

theorem doneRet_doneStep (status : Nat) : DoneStep i s (doneRet i st n rr status s) := s.onCtx_doneStep i _

theorem donePoison_doneStep : DoneStep i s (donePoison i st n rr s) := by
  have hg : DoneStep i s ((s.mapSeq st n (fun r => { r with poison := true })).closeNum st n 2) :=
    ((s.mapSeq_gateStep _ _ _).trans (State.closeNum_gateStep _ _ _ _)).done
      ((State.closeNum_same _ _ _ _ .ctxs (by decide)).trans (s.mapSeq_same _ _ _ .ctxs (by decide)))
  exact hg.trans (doneRet_doneStep _ _ _ _ _ _)

theorem doneAccept_doneStep (data : List Byte) : DoneStep i s (doneAccept i st n rr data s) := by
  unfold doneAccept
  extract_lets a pw s1
  have h0 : DoneStep i s (s.tankPut a data (i / 4)) := (s.tankPut_gateStep _ _ _).done (s.tankPut_same _ _ _ .ctxs (by decide))
  have h1 : DoneStep i s s1 := h0.trans (doneStep_ite (State.poison_doneStep i _) (DoneStep.refl i _))
  have h2 : DoneStep i s1 ((s1.mapSeq st n (fun r => { r with st := .accepted data.length })).flush st) :=
    ((s1.mapSeq_gateStep _ _ _).trans (State.flush_gateStep _ _)).done ((State.flush_same _ _ .ctxs (by decide)).trans (s1.mapSeq_same _ _ _ .ctxs (by decide)))
  exact doneStep_ite (h1.trans (donePoison_doneStep _ _ _ _ _)) ((h1.trans h2).trans (doneRet_doneStep _ _ _ _ _ _))

theorem doneCompare_doneStep (d : Desc) (data peer : List Byte) : DoneStep i s (doneCompare i st n rr d data peer s) := by
  have hr : DoneStep i s (s.raiseStream 0x0507 2 0x300 st n.toNat (st + 2 ^ 32 * n.toNat)) :=
    (s.raiseStream_gateStep _ _ _ _ _ _).done (s.raiseStream_same _ _ _ _ _ _ .ctxs (by decide))
  exact doneStep_ite (doneAccept_doneStep _ _ _ _ _ _) (hr.trans (donePoison_doneStep _ _ _ _ _))

variable {i s st n rr}

theorem doneEarly_doneStep (h : doneEarly i st n rr s = some t) : DoneStep i s t := by
  unfold doneEarly at h
  split at h
  · cases h; exact doneRet_doneStep _ _ _ _ _ _
  · split at h
    · cases h; exact doneRet_doneStep _ _ _ _ _ _
    · split at h
      · cases h; exact donePoison_doneStep _ _ _ _ _
      · split at h
        · cases h
          exact ((s.closeNum_gateStep _ _ _).done (s.closeNum_same _ _ _ .ctxs (by decide))).trans (doneRet_doneStep _ _ _ _ _ _)
        · exact absurd h (by simp)

variable (i s st n rr)

theorem doneTry_doneStep (dw : BitVec 256) : DoneStep i s (doneTry i st n dw rr s) := by
  unfold doneTry
  split
  · next t ht => exact doneEarly_doneStep ht
  · refine doneStep_ite (s.onCtx_doneStep i _) ?_
    extract_lets d
    have hr : DoneStep i s (readRows (i / 4) (i / 4) d d.rows s).1 := (readRows_gateStep _ _ _ _ _).done (readRows_same _ _ _ _ _ .ctxs (by decide))
    generalize readRows (i / 4) (i / 4) d d.rows s = q at hr ⊢
    obtain ⟨s1, data, bad⟩ := q
    dsimp only at hr ⊢
    refine doneStep_ite ?_ (doneStep_ite ?_ ?_)
    · exact (hr.trans (State.poison_doneStep i s1)).trans (donePoison_doneStep i (s1.poison i) st n rr)
    rotate_left
    · exact hr.trans (doneAccept_doneStep i s1 st n rr data)
    have h2 : DoneStep i s (s1.toPeer (.copy st n data)) := hr.trans ((s1.toPeer_same _).gateStep.done (s1.toPeer_same _ .ctxs (by decide)))
    split
    · exact h2.trans (doneCompare_doneStep _ _ _ _ _ _ _ _)
    · exact h2.trans (State.onCtx_doneStep i _ _)

theorem doneAgain_doneStep : DoneStep i s (doneAgain i s) := by
  unfold doneAgain
  split
  · exact doneTry_doneStep _ _ _ _ _ _
  · split
    · next t ht => exact doneEarly_doneStep ht
    · refine doneStep_ite (doneAccept_doneStep _ _ _ _ _ _) ?_
      split
      · exact doneCompare_doneStep _ _ _ _ _ _ _ _
      · exact DoneStep.refl i s
  · exact DoneStep.refl i s

end

/-- Whether context i has ended its DONE and goes on. -/
def DoneFree (i : Nat) (s : State) : Prop := (s.ctx i).hold = .free ∧ (s.ctx i).st = .run

/-- What decides a DONE that waits for the peer's copy: a notice of its number, or the copy. -/
def Decided (st : Nat) (n : W32) (s : State) : Prop := (s.lockOf st).notices.contains n = true ∨ s.lockMode = true ∧ (peerCopy s st n).isSome = true

theorem Decided.step {st : Nat} {n : W32} {s t : State} (h : Decided st n s) (g : GateStep s t) : Decided st n t := by
  unfold Decided peerCopy
  rw [g.lockOf, g.hlk.lockMode]
  exact h

section
variable {i st : Nat} {n : W32} {rr : Nat} {s : State}

theorem doneRet_free (status : Nat) : DoneFree i (doneRet i st n rr status s) := by
  unfold DoneFree
  rw [doneRet_ctx]
  exact ⟨rfl, rfl⟩

theorem doneAccept_free (data : List Byte) : DoneFree i (doneAccept i st n rr data s) := by
  unfold doneAccept
  extract_lets a pw s1
  split
  · exact doneRet_free _
  · exact doneRet_free _

theorem doneCompare_free (d : Desc) (data peer : List Byte) : DoneFree i (doneCompare i st n rr d data peer s) := by
  unfold doneCompare
  split
  · exact doneAccept_free _
  · exact doneRet_free _

theorem doneEarly_free {t : State} (h : doneEarly i st n rr s = some t) : DoneFree i t := by
  unfold doneEarly at h
  split at h
  · cases h; exact doneRet_free _
  · split at h
    · cases h; exact doneRet_free _
    · split at h
      · cases h; exact doneRet_free _
      · split at h
        · cases h; exact doneRet_free _
        · exact absurd h (by simp)

/-- A notice of the number decides the DONE at once. -/
theorem doneEarly_of_notice (h : (s.lockOf st).notices.contains n = true) : doneEarly i st n rr s ≠ none := by
  unfold doneEarly
  split
  · simp
  · split
    · simp
    · rw [h, Bool.true_or, if_pos rfl]
      simp

theorem doneAgain_free {dw : BitVec 256} {data : List Byte} (hh : (s.ctx i).hold = .doneCopy st n rr dw data) (hd : Decided st n s) : DoneFree i (doneAgain i s) := by
  unfold doneAgain
  rw [hh]
  dsimp only
  split
  · next t ht => exact doneEarly_free ht
  · next hnone =>
    obtain hn | ⟨hl, hc⟩ := hd
    · exact absurd hnone (doneEarly_of_notice hn)
    · obtain ⟨p, hp⟩ := Option.isSome_iff_exists.mp hc
      rw [if_neg (by rw [hl]; decide), hp]
      exact doneCompare_free _ _ _

end

/-- Attempts the DONE of one context that waits on a number. -/
def doneWaiter (st : Nat) (n : W32) (t : State) (i : Nat) : State := match (t.ctx i).hold with
  | .done a b _ _ => if a = st ∧ b = n then doneAgain i t else t
  | .doneCopy a b _ _ _ => if a = st ∧ b = n then doneAgain i t else t
  | _ => t

theorem doneWaiters_eq (st : Nat) (n : W32) (s : State) : doneWaiters st n s = (s.ctxs.map (fun e => e.1)).foldl (doneWaiter st n) s := rfl

theorem doneWaiter_doneStep (st : Nat) (n : W32) (t : State) (i : Nat) : DoneStep i t (doneWaiter st n t i) := by
  unfold doneWaiter
  split
  · exact doneStep_ite (doneAgain_doneStep _ _) (DoneStep.refl i t)
  · exact doneStep_ite (doneAgain_doneStep _ _) (DoneStep.refl i t)
  · exact DoneStep.refl i t

theorem doneWaiters_gateStep (st : Nat) (n : W32) (s : State) : GateStep s (doneWaiters st n s) := GateStep.foldl (fun t i => (doneWaiter_doneStep st n t i).gate) _ _

/-- Whether context i holds for the peer's copy of a number. -/
def HoldsCopy (st : Nat) (n : W32) (i : Nat) (s : State) : Prop := ∃ rr dw data, (s.ctx i).hold = .doneCopy st n rr dw data

theorem doneWaiter_self {st : Nat} {n : W32} {t : State} {i : Nat} (hd : Decided st n t) (h : HoldsCopy st n i t ∨ DoneFree i t) : DoneFree i (doneWaiter st n t i) := by
  unfold doneWaiter
  obtain ⟨rr, dw, data, hh⟩ | hf := h
  · rw [hh]
    dsimp only
    rw [if_pos ⟨rfl, rfl⟩]
    exact doneAgain_free hh hd
  · rw [hf.1]
    exact hf

theorem foldl_doneWaiter_free {st : Nat} {n : W32} {i : Nat} (l : List Nat) (t : State) (hd : Decided st n t) (h : HoldsCopy st n i t ∧ i ∈ l ∨ DoneFree i t) :
    DoneFree i (l.foldl (doneWaiter st n) t) := by
  induction l generalizing t with
  | nil => exact h.resolve_left (by simp)
  | cons a r ih =>
    have hs := doneWaiter_doneStep st n t a
    refine ih _ (hd.step hs.gate) ?_
    by_cases ha : i = a
    · subst ha
      exact .inr (doneWaiter_self hd (h.imp And.left id))
    · rw [HoldsCopy, DoneFree, hs.ctx i ha]
      exact h.imp (And.imp_right fun hm => (List.mem_cons.mp hm).resolve_left ha) id

theorem doneWaiters_free {st : Nat} {n : W32} {i : Nat} {s : State} (hd : Decided st n s) (h : HoldsCopy st n i s) : DoneFree i (doneWaiters st n s) := by
  rw [doneWaiters_eq]
  refine foldl_doneWaiter_free _ s hd (.inl ⟨h, ?_⟩)
  by_contra hi
  obtain ⟨rr, dw, data, hh⟩ := h
  rw [State.ctx_of_not_mem hi] at hh
  exact absurd hh (by simp [Ctx.idle])

section
variable {s : State}

theorem exec_arrivalKey (hup : s.portUp 7 = true) (hl : s.lockMode = true) (hf : s.up 4 = true) (st : StreamId) (n : W32) (key : W64) :
    exec (.arrivalKey st n key) s = .next (peerKey st.val n key (s.portTake 7 1)) :=
  congrArg Host.Outcome.next ((if_pos hup).trans (if_pos (by rw [hl, hf]; rfl)))

theorem arrivalKey_spec (hup : s.portUp 7 = true) (hl : s.lockMode = true) (hf : s.up 4 = true) (st : StreamId) (n : W32) (key : W64) :
    ∃ t, exec (.arrivalKey st n key) s = .next t ∧ (t.lockOf st.val).peer = ((n, key) :: (s.lockOf st.val).peer).take 16
      ∧ ((∃ e ∈ (s.lockOf st.val).own, e.1 = n ∧ e.2 ≠ key) → RaisedAmong 0x0507 s t) := by
  have hg : GateStep s (s.portTake 7 1) := (State.portTake_same _ _ _).gateStep
  obtain ⟨hp, hr⟩ := peerKey_spec st.val n key (s.portTake 7 1)
  rw [hg.lockOf] at hp hr
  refine ⟨_, exec_arrivalKey hup hl hf st n key, hp, fun h => ?_⟩
  obtain ⟨l, hlog, e⟩ := hr h
  exact ⟨l, hlog.trans (congrArg (fun v : EvSt => l ++ v.log) (State.portTake_same s 7 1 .ev (by decide))), e⟩

theorem exec_realignNotice (hup : s.portUp 7 = true) (hl : s.lockMode = true) (hf : s.up 4 = true) (st : StreamId) (n : W32) : exec (.realignNotice st n) s
    = .next (doneWaiters st.val n ((s.portTake 7 1).setLock st { s.lockOf st with notices := (s.lockOf st).notices ++ [n] })) := by
  have hg : GateStep s (s.portTake 7 1) := (State.portTake_same _ _ _).gateStep
  rw [← hg.lockOf]
  exact congrArg Host.Outcome.next ((if_pos hup).trans (if_pos (by rw [hl, hf]; rfl)))

theorem exec_lockstepCopy (hup : s.portUp 7 = true) (hl : s.lockMode = true) (hf : s.up 4 = true) (st : StreamId) (n : W32) (bs : List Byte) : exec (.lockstepCopy st n bs) s
    = .next (doneWaiters st.val n ((s.portTake 7 (PairMsg.copy st n bs).frames).setLock st { s.lockOf st with copies := (n, bs) :: (s.lockOf st).copies.filter (fun e => e.1 != n) })) := by
  have hg : GateStep s (s.portTake 7 (PairMsg.copy st n bs).frames) := (State.portTake_same _ _ _).gateStep
  rw [← hg.lockOf]
  exact congrArg Host.Outcome.next ((if_pos hup).trans (if_pos (by rw [hl, hf]; rfl)))

end

/-- What is kept for a stream stays while the DONEs of a number are tried again, and those that held for its copy have ended. -/
theorem doneWaiters_lock {s t : State} {st : Nat} {n : W32} {x : LockStrm} (hsame : SameBut [.link] s t) (hd : Decided st n (t.setLock st x)) :
    (doneWaiters st n (t.setLock st x)).lockOf st = x ∧ ∀ i rr dw data, (s.ctx i).hold = .doneCopy st n rr dw data →
      ((doneWaiters st n (t.setLock st x)).ctx i).hold = .free ∧ ((doneWaiters st n (t.setLock st x)).ctx i).st = .run := by
  refine ⟨(doneWaiters_gateStep _ _ _).lockOf st |>.trans (lockOf_setLock_self t st x), fun i rr dw data h => doneWaiters_free hd ⟨rr, dw, data, ?_⟩⟩
  rw [(t.setLock_same st x).ctx (by decide) i, hsame.ctx (by decide) i]
  exact h

/-! ## The statement -/

/-- Settles O46: a mirror's records and acknowledgements step by step, a takeover as steps of the gate, lockstep by the DONEs that are tried again. -/
theorem mirrorTakeoverAndLockstep : Obligations.MirrorTakeoverAndLockstep := by
  unfold Obligations.MirrorTakeoverAndLockstep
  intro s hup hen
  refine ⟨fun r o hst hl ho => ⟨fun hb => ?_, fun hb hs => ⟨fun hn => ?_, fun hn => ?_⟩⟩, fun hst => ⟨mirrorAck_spec hup hen hst, fun n hl => mirrorAck_ask hup hen hst hl n, fun st o ho hm => ?_⟩,
    takeover_spec, fun hl hf st n => ⟨arrivalKey_spec hup hl hf st n, ?_, fun bs => ?_⟩⟩
  · have hex := mirrorRecord_begin hup hen hst hl hb
    have hout : (s.portTake 7 (PairMsg.mirror r).frames).link.out = o := ho.symm
    have hsame : SameBut [.pair, .link] s (s.portTake 7 (PairMsg.mirror r).frames) := (s.portTake_same _ _).mono (by decide)
    have hp : (s.portTake 7 (PairMsg.mirror r).frames).pair = s.pair := State.portTake_same _ _ _ .pair (by decide)
    obtain ⟨h1, h2, h3⟩ := mirrorGot_spec r.number hup (hsame.then (State.onPair_same _ (fun p => { p with mir := [], chk := [], synced := false, taking := true })))
    refine ⟨_, hex, h1.trans ?_, h2.trans ?_, h3⟩
    · rw [State.pair_onPair, hp]
    · exact congrArg _ hout
  · have hex := mirrorRecord_more hup hen hst hl hb hs
    rw [if_pos hn] at hex
    have hout : (s.portTake 7 (PairMsg.mirror r).frames).link.out = o := ho.symm
    have hsame : SameBut [.pair, .link] s (s.portTake 7 (PairMsg.mirror r).frames) := (s.portTake_same _ _).mono (by decide)
    have hrec := recordMirror_same r.body (s.portTake 7 (PairMsg.mirror r).frames)
    obtain ⟨h1, h2, h3⟩ := mirrorGot_spec r.number hup (hsame.then hrec)
    refine ⟨_, hex, by rw [h1], h2.trans ?_, fun he => ?_, h3⟩
    · rw [hrec .link (by decide)]
      exact congrArg _ hout
    · rw [h1, he]
      exact ⟨rfl, rfl⟩
  · have hex := mirrorRecord_more hup hen hst hl hb hs
    rw [if_neg hn] at hex
    have hsame : SameBut [.pair, .link] s (s.portTake 7 (PairMsg.mirror r).frames) := (s.portTake_same _ _).mono (by decide)
    have hp : (s.portTake 7 (PairMsg.mirror r).frames).pair = s.pair := State.portTake_same _ _ _ .pair (by decide)
    have hon : SameBut [.pair, .link] s ((s.portTake 7 (PairMsg.mirror r).frames).onPair (fun p => { p with synced := false, taking := false })) := hsame.then (State.onPair_same _ _)
    refine ⟨_, hex, by rw [mirrorGap_pair, hp], (toPeer_link ((hon.portUp (p := 7) (hp := by decide)).trans hup) _).trans ?_, hon.then (State.toPeer_same _ _)⟩
    exact congrArg _ ho.symm
  · have hu7 : s.up 7 = true := by
      rw [State.portUp, Bool.and_eq_true] at hup
      exact hup.1
    exact mirrorAckTimeout_spec hu7 hen hst ho hm
  · have hd : Decided st.val n ((s.portTake 7 1).setLock st { s.lockOf st with notices := (s.lockOf st).notices ++ [n] }) := .inl (by rw [lockOf_setLock_self]; simp)
    obtain ⟨h1, h2⟩ := doneWaiters_lock (s.portTake_same 7 1) hd
    exact ⟨_, exec_realignNotice hup hl hf st n, congrArg LockStrm.notices h1, h2⟩
  · have hlm : ((s.portTake 7 (PairMsg.copy st n bs).frames).setLock st { s.lockOf st with copies := (n, bs) :: (s.lockOf st).copies.filter (fun e => e.1 != n) }).lockMode = true :=
      (State.lockMode_of_regs ((State.setLock_same _ _ _ .regs (by decide)).trans (s.portTake_same _ _ .regs (by decide)))).trans hl
    have hd : Decided st.val n ((s.portTake 7 (PairMsg.copy st n bs).frames).setLock st { s.lockOf st with copies := (n, bs) :: (s.lockOf st).copies.filter (fun e => e.1 != n) }) :=
      .inr ⟨hlm, by rw [peerCopy, lockOf_setLock_self]; simp⟩
    obtain ⟨h1, h2⟩ := doneWaiters_lock (s.portTake_same 7 _) hd
    exact ⟨_, exec_lockstepCopy hup hl hf st n bs, congrArg LockStrm.copies h1, h2⟩

end Sys2Proof.Machine
end

section
/-!
PROOFS. How churns and tests start on idle arrays, and what that leaves; O33.
-/
set_option Elab.async false

namespace Sys2Proof.Machine

/-! ## Reading an image in DRAM -/

section
variable (s : State)

theorem State.setDram_same (m : Mem) : SameBut [.dram] s (s.setMem 2 m) := fun p hp => by cases p <;> first | rfl | exact absurd (by decide) hp

/-- A read of DRAM alone changes no other space. -/
theorem imgRead_same (o n : Nat) : SameBut (eccParts ++ [.dram]) s (imgRead o n s) := by
  have hc : SameBut (eccParts ++ [.dram]) s (s.correct 2 (fun e => overlap (8 * e.1) 8 o n)) :=
    ((s.setDram_same _).mono (by decide)).trans ((State.eccCount_same _ _).mono (by decide))
  exact hc.trans (SameBut.foldl (fun t e => (t.eccUnc_same _ _ _ _).mono (by decide)) _ _)

theorem imgRead_regsBut (o n : Nat) : RegsBut eccRegs s (imgRead o n s) := s.readFx_regsBut _ _ _ _ _

theorem imgRead_logGrows (o n : Nat) : LogGrows s (imgRead o n s) := s.readFx_logGrows _ _ _ _ _

theorem imgRead_eq_self {s : State} (h : s.mem.dram.ecc = []) (o n : Nat) : imgRead o n s = s :=
  State.readFx_eq_self (fun e he => absurd (show e ∈ s.mem.dram.ecc from he) (by rw [h]; simp))

end

/-! ## Requests of a core -/

/-- The requests of every core stand as before, each perhaps marked. -/
def AsksKept (s t : State) : Prop := ∀ c, ∃ f g : Ask → Ask, (t.core c).churns = (s.core c).churns.map f ∧ (t.core c).tests = (s.core c).tests.map g

section
variable {s t u : State}

theorem AsksKept.refl (s : State) : AsksKept s s := fun _ => ⟨id, id, by simp, by simp⟩

theorem AsksKept.trans (h : AsksKept s t) (k : AsksKept t u) : AsksKept s u := fun c => by
  obtain ⟨f, g, h1, h2⟩ := h c
  obtain ⟨f', g', k1, k2⟩ := k c
  exact ⟨f' ∘ f, g' ∘ g, by rw [k1, h1, List.map_map], by rw [k2, h2, List.map_map]⟩

theorem asksKept_ite {c : Prop} [Decidable c] (ht : AsksKept s t) (hu : AsksKept s u) : AsksKept s (if c then t else u) := by
  split
  · exact ht
  · exact hu

theorem SameBut.asksKept {l : List Piece} (h : SameBut l s t) (hl : .cores ∉ l := by decide) : AsksKept s t := fun c => by
  rw [h.core hl c]
  exact AsksKept.refl s c

theorem AsksKept.churns_nil (h : AsksKept s t) {c : Nat} (hc : (s.core c).churns = []) : (t.core c).churns = [] := by
  obtain ⟨f, g, h1, -⟩ := h c
  rw [h1, hc, List.map_nil]

theorem AsksKept.tests_nil (h : AsksKept s t) {c : Nat} (hc : (s.core c).tests = []) : (t.core c).tests = [] := by
  obtain ⟨f, g, -, h2⟩ := h c
  rw [h2, hc, List.map_nil]

variable (s)

theorem onAsks_asksKept (c : Nat) (f : Ask → Ask) : AsksKept s (s.onAsks c (fun l => l.map f)) := fun d => by
  by_cases h : d = c
  · subst h
    exact ⟨f, id, by rw [State.onAsks, State.core_setCore_self], by rw [State.onAsks, State.core_setCore_self, List.map_id]⟩
  · rw [State.onAsks, State.core_setCore_ne _ _ h]
    exact AsksKept.refl s d

theorem onTests_asksKept (c : Nat) (f : Ask → Ask) : AsksKept s (s.onTests c (fun l => l.map f)) := fun d => by
  by_cases h : d = c
  · subst h
    exact ⟨id, f, by rw [State.onTests, State.core_setCore_self, List.map_id], by rw [State.onTests, State.core_setCore_self]⟩
  · rw [State.onTests, State.core_setCore_ne _ _ h]
    exact AsksKept.refl s d

end

/-! ## One churn -/

/-- What the start of churns leaves: the requests each perhaps marked, the registers but those of ECC, and the parts that no churn reaches. -/
structure ChurnStep (s t : State) : Prop where
  same : SameBut (evParts ++ [.arrs, .cores, .refs, .regs, .dram]) s t
  log : LogGrows s t
  regs : RegsBut eccRegs s t
  asks : AsksKept s t

section
variable {s t u : State}

theorem ChurnStep.refl (s : State) : ChurnStep s s := ⟨SameBut.refl _ s, LogGrows.refl s, RegsBut.refl _ s, AsksKept.refl s⟩

theorem ChurnStep.trans (h : ChurnStep s t) (k : ChurnStep t u) : ChurnStep s u :=
  ⟨h.same.trans k.same, h.log.trans k.log, h.regs.trans k.regs, h.asks.trans k.asks⟩

theorem churnStep_ite {c : Prop} [Decidable c] (ht : ChurnStep s t) (hu : ChurnStep s u) : ChurnStep s (if c then t else u) := by
  split
  · exact ht
  · exact hu

variable (s)

theorem State.setArr_churnStep (a : Nat) (x : Arr) : ChurnStep s (s.setArr a x) :=
  ⟨(s.setArr_same a x).mono (by decide), (s.setArr_same a x).logGrows, (s.setArr_same a x).regsBut _, (s.setArr_same a x).asksKept⟩

theorem State.onAsks_churnStep (c : Nat) (f : Ask → Ask) : ChurnStep s (s.onAsks c (fun l => l.map f)) :=
  ⟨(s.setCore_same c _).mono (by decide), (s.setCore_same c _).logGrows, (s.setCore_same c _).regsBut _, onAsks_asksKept s c f⟩

theorem State.raise_churnStep (code sev src pay : Nat) : ChurnStep s (s.raise code sev src pay) :=
  ⟨(s.raise_same _ _ _ _).mono (by decide), s.raise_logGrows _ _ _ _, s.raise_regsBut _ _ _ _ _, (s.raise_same _ _ _ _).asksKept⟩

theorem imgRead_churnStep (o n : Nat) : ChurnStep s (imgRead o n s) :=
  ⟨(imgRead_same s o n).mono (by decide), imgRead_logGrows s o n, imgRead_regsBut s o n, (imgRead_same s o n).asksKept⟩

/-- A reference newly built, and the remainder store with it. -/
theorem buildRef_spec (a sec prof depth : Nat) : ChurnStep s (buildRef a sec prof depth s) ∧ (∀ b, b ≠ a → (buildRef a sec prof depth s).arr b = s.arr b)
    ∧ (∃ d r, (buildRef a sec prof depth s).arr a = { s.arr a with depth := d, rho := r })
    ∧ (∀ b, (Tab.find? (buildRef a sec prof depth s).refs b).isSome = (b == a || (Tab.find? s.refs b).isSome))
    ∧ (s.mem.dram.ecc = [] → SameBut [.arrs, .refs] s (buildRef a sec prof depth s)) := by
  unfold buildRef
  extract_lets t v
  have ht : ChurnStep s t := imgRead_churnStep s _ _
  have hv : SameBut [.refs] t v := fun p hp => by cases p <;> first | rfl | exact absurd (by decide) hp
  have harr : ∀ b, v.arr b = s.arr b := fun b => (hv.arr (by decide) b).trans ((imgRead_same s sec secLen).arr (by decide) b)
  have hrefs : t.refs = s.refs := imgRead_same s _ _ .refs (by decide)
  have hstep : ChurnStep s v := ht.trans ⟨hv.mono (by decide), hv.logGrows, hv.regsBut _, hv.asksKept⟩
  refine ⟨hstep.trans (v.setArr_churnStep _ _), fun b hb => (v.arr_setArr_ne _ hb).trans (harr b), ⟨depth, some (remainders t.mem.dram prof sec), ?_⟩, fun b => ?_, fun hecc => ?_⟩
  · rw [State.arr_setArr_self]
    exact congrArg (fun x : Arr => { x with depth := depth, rho := some (remainders t.mem.dram prof sec) }) (harr a)
  · show (Tab.find? (Tab.insert t.refs a _) b).isSome = _
    rw [Tab.find?_insert, hrefs]
    by_cases h : b = a
    · simp [h]
    · simp [h]
  · have hts : t = s := imgRead_eq_self hecc _ _
    have hv' : SameBut [.arrs, .refs] s v := hts ▸ hv.mono (by decide)
    exact hv'.then (v.setArr_same _ _)

/-- Whether DRAM is fitted and runs rests on the resets, the fuses and the trim. -/
theorem SameBut.refUp {l : List Piece} {s t : State} (h : SameBut l s t) (hreg : t.reg Reg.RST_STAT = s.reg Reg.RST_STAT) (hr : .rst ∉ l := by decide)
    (hf : .fus ∉ l := by decide) : t.up 5 = s.up 5 ∧ t.dramBytes = s.dramBytes := by
  refine ⟨by rw [State.up, State.up, State.domSt, State.domSt, h .rst hr], ?_⟩
  unfold State.dramBytes State.trimmed State.rbit
  rw [h .fus hf, hreg]

/-- A full churn's start builds its reference anew where its range or segments have changed, and its remainder store where a reset has cleared it. -/
theorem freshRef_spec (a : Nat) : ChurnStep s (freshRef a s) ∧ (∀ b, b ≠ a → (freshRef a s).arr b = s.arr b)
    ∧ (∃ d r, (freshRef a s).arr a = { s.arr a with depth := d, rho := r }) ∧ (∀ b, (freshRef a s).refOk b = s.refOk b)
    ∧ (s.mem.dram.ecc = [] → SameBut [.arrs, .refs] s (freshRef a s)) := by
  have hid : ChurnStep s s ∧ (∀ b, b ≠ a → s.arr b = s.arr b) ∧ (∃ d r, s.arr a = { s.arr a with depth := d, rho := r }) ∧ (∀ b, s.refOk b = s.refOk b)
      ∧ (s.mem.dram.ecc = [] → SameBut [.arrs, .refs] s s) := ⟨ChurnStep.refl s, fun _ _ => rfl, ⟨_, _, rfl⟩, fun _ => rfl, fun _ => SameBut.refl _ s⟩
  unfold freshRef
  split
  · exact hid
  · next r hr =>
    split
    · exact hid
    · obtain ⟨h1, h2, h3, h4, h5⟩ := buildRef_spec s a r.sec r.prof r.depth
      refine ⟨h1, h2, h3, fun b => ?_, h5⟩
      obtain ⟨hup, hbytes⟩ := h1.same.refUp (h1.regs _ (by decide))
      rw [State.refOk, State.refOk, hup, hbytes, h4]
      by_cases hb : b = a
      · subst hb
        simp [hr]
      · rw [beq_false_of_ne hb, Bool.false_or]

theorem askEnd_churnStep (a code : Nat) : ChurnStep s (askEnd a code s) := s.onAsks_churnStep _ _

theorem makeDue_churnStep (a cls : Nat) : ChurnStep s (makeDue a cls s) := churnStep_ite (ChurnStep.refl s) (s.setArr_churnStep _ _)

theorem firstDue_churnStep (a : Nat) : ChurnStep s (firstDue a s) := churnStep_ite (makeDue_churnStep s a 1) (ChurnStep.refl s)

theorem abandon_churnStep (a : Nat) : ChurnStep s (abandon a s) :=
  (((s.setArr_churnStep _ _).trans (State.raise_churnStep _ _ _ _ _)).trans (firstDue_churnStep _ _)).trans (askEnd_churnStep _ _ _)

theorem askEnd_arr (a code b : Nat) : (askEnd a code s).arr b = s.arr b := (s.setCore_same _ _).arr (by decide) b

theorem makeDue_arr_ne {a b : Nat} (cls : Nat) (h : b ≠ a) : (makeDue a cls s).arr b = s.arr b := by
  unfold makeDue
  dsimp only
  split
  · rfl
  · exact s.arr_setArr_ne _ h

theorem firstDue_arr_ne {a b : Nat} (h : b ≠ a) : (firstDue a s).arr b = s.arr b := by
  unfold firstDue State.when
  split
  · exact makeDue_arr_ne s 1 h
  · rfl

theorem abandon_arr_ne {a b : Nat} (h : b ≠ a) : (abandon a s).arr b = s.arr b := by
  unfold abandon
  rw [askEnd_arr, firstDue_arr_ne _ h, (State.raise_same _ _ _ _ _).arr (by decide), State.arr_setArr_ne _ _ h]

/-- The array as a churn that starts leaves it. -/
def Arr.churned (x : Arr) (c : Churn) (full : Bool) : Arr :=
  { x with st := .churn, win := false, chn := { x.chn with cur := some c, due := x.chn.due.filter (fun d => lightClass d.cls == full) } }

/-- The start of a churn before it is known whether its reference can be read. -/
def enterChurn (a : Nat) (full : Bool) (cls : Nat) (s : State) : State :=
  let x := s.arr a
  let c : Churn := ⟨full, churnClass x.chn.due full cls, 0, true, [], [], s.cnt.aon, s.temp (a / 64), false⟩
  (s.setArr a (x.churned c full)).onAsks (a / 64) (fun l => l.map (fun q => if q.arr == a && q.code.isNone && (full || !q.full) then { q with started := true } else q))

theorem beginChurn_eq (a : Nat) (full : Bool) (cls : Nat) : beginChurn a full cls s
    = let t := enterChurn a full cls (if full then freshRef a s else s)
      if full && !t.refOk a then abandon a t else t := rfl

theorem enterChurn_churnStep (a : Nat) (full : Bool) (cls : Nat) : ChurnStep s (enterChurn a full cls s) := (s.setArr_churnStep _ _).trans (State.onAsks_churnStep _ _ _)

theorem enterChurn_same (a : Nat) (full : Bool) (cls : Nat) : SameBut [.arrs, .cores] s (enterChurn a full cls s) :=
  ((s.setArr_same _ _).mono (by decide)).then (State.setCore_same _ _ _)

theorem enterChurn_arr (a : Nat) (full : Bool) (cls : Nat) : (enterChurn a full cls s).arr a
    = (s.arr a).churned ⟨full, churnClass (s.arr a).chn.due full cls, 0, true, [], [], s.cnt.aon, s.temp (a / 64), false⟩ full :=
  ((State.setCore_same _ _ _).arr (by decide) a).trans (s.arr_setArr_self _ _)

theorem enterChurn_arr_ne {a b : Nat} (full : Bool) (cls : Nat) (h : b ≠ a) : (enterChurn a full cls s).arr b = s.arr b :=
  ((State.setCore_same _ _ _).arr (by decide) b).trans (s.arr_setArr_ne _ h)

/-- A churn's start, whether or not its reference can be read. -/
theorem beginChurn_churnStep (a : Nat) (full : Bool) (cls : Nat) : ChurnStep s (beginChurn a full cls s) := by
  rw [beginChurn_eq]
  have h0 : ChurnStep s (if full then freshRef a s else s) := churnStep_ite (freshRef_spec s a).1 (ChurnStep.refl s)
  exact churnStep_ite ((h0.trans (enterChurn_churnStep _ _ _ _)).trans (abandon_churnStep _ _)) (h0.trans (enterChurn_churnStep _ _ _ _))

theorem beginChurn_arr_ne {a b : Nat} (full : Bool) (cls : Nat) (h : b ≠ a) : (beginChurn a full cls s).arr b = s.arr b := by
  rw [beginChurn_eq]
  have h0 : (if full then freshRef a s else s).arr b = s.arr b := by
    split
    · exact (freshRef_spec s a).2.1 b h
    · rfl
  generalize (if full then freshRef a s else s) = u at h0 ⊢
  dsimp only
  split
  · exact (abandon_arr_ne _ h).trans ((enterChurn_arr_ne _ _ _ h).trans h0)
  · exact (enterChurn_arr_ne _ _ _ h).trans h0

/-- A churn whose reference can be read, or that needs none, is at work from its start. -/
theorem beginChurn_spec (a : Nat) (full : Bool) (cls : Nat) (h : full = false ∨ s.refOk a = true) :
    (∃ d r u, (beginChurn a full cls s).arr a = { (s.arr a).churned u full with depth := d, rho := r } ∧ u.full = full ∧ u.cls = churnClass (s.arr a).chn.due full cls ∧ u.unit = 0 ∧ u.live = true)
      ∧ (∀ b, (beginChurn a full cls s).refOk b = s.refOk b) ∧ ((full = false ∨ s.mem.dram.ecc = []) → SameBut [.arrs, .cores, .refs] s (beginChurn a full cls s)) := by
  obtain ⟨u, hu⟩ : ∃ u, u = if full then freshRef a s else s := ⟨_, rfl⟩
  have hfresh : (∃ d r, u.arr a = { s.arr a with depth := d, rho := r }) ∧ (∀ b, u.refOk b = s.refOk b) ∧ ((full = false ∨ s.mem.dram.ecc = []) → SameBut [.arrs, .refs] s u) := by
    cases full with
    | false => exact hu ▸ ⟨⟨_, _, rfl⟩, fun _ => rfl, fun _ => SameBut.refl _ s⟩
    | true =>
      obtain ⟨-, -, h3, h4, h5⟩ := freshRef_spec s a
      exact hu ▸ ⟨h3, h4, fun he => h5 (he.resolve_left (by decide))⟩
  obtain ⟨⟨d, r, harr⟩, hok, hsame⟩ := hfresh
  have hrefOk : ∀ b, (enterChurn a full cls u).refOk b = u.refOk b := fun b => by
    have he := enterChurn_same u a full cls
    obtain ⟨hup, hbytes⟩ := he.refUp (he.reg (by decide) _)
    have hrefs : (enterChurn a full cls u).refs = u.refs := he .refs (by decide)
    rw [State.refOk, State.refOk, hup, hbytes, hrefs]
  have heq : beginChurn a full cls s = enterChurn a full cls u := by
    rw [beginChurn_eq, ← hu]
    refine if_neg ?_
    rw [hrefOk, hok]
    obtain h | h := h
    · simp [h]
    · simp [h]
  rw [heq]
  refine ⟨⟨d, r, ⟨full, churnClass (s.arr a).chn.due full cls, 0, true, [], [], u.cnt.aon, u.temp (a / 64), false⟩, ?_, rfl, rfl, rfl, rfl⟩,
    fun b => (hrefOk b).trans (hok b), fun hc => ((hsame hc).mono (by decide)).then (enterChurn_same u a full cls)⟩
  rw [enterChurn_arr, harr]
  rfl

end

/-! ## What waits, and what does not -/

theorem foldl_before_mem (l : List ChurnWant) (b : Option ChurnWant) {w : ChurnWant} (h : l.foldl (fun b w => match b with
    | none => some w
    | some v => if w.before v then some w else some v) b = some w) : w ∈ l ∨ b = some w := by
  induction l generalizing b with
  | nil => exact .inr h
  | cons v r ih =>
    obtain hm | hb := ih _ h
    · exact .inl (List.mem_cons_of_mem _ hm)
    · cases b with
      | none => exact .inl (List.mem_cons.mpr (.inl (Option.some.inj hb).symm))
      | some u =>
        dsimp only at hb
        split at hb
        · exact .inl (List.mem_cons.mpr (.inl (Option.some.inj hb).symm))
        · exact .inr hb

theorem firstWant_mem {l : List ChurnWant} {w : ChurnWant} (h : firstWant l = some w) : w ∈ l :=
  (foldl_before_mem l none h).resolve_right (by simp)

theorem firstWant_nil_iff {l : List ChurnWant} (h : firstWant l = none) : l = [] := by
  have hs : ∀ (l : List ChurnWant) (v : ChurnWant), l.foldl (fun b w => match b with
      | none => some w
      | some v => if w.before v then some w else some v) (some v) ≠ none := by
    intro l
    induction l with
    | nil => exact fun v => by simp
    | cons w r ih =>
      intro v
      dsimp only [List.foldl_cons]
      split
      · exact ih _
      · exact ih _
  cases l with
  | nil => rfl
  | cons v r => exact absurd h (hs r v)

/-- What may start on an array is a churn of that array. -/
theorem churnWant_arr {s : State} {a : Nat} {w : ChurnWant} (h : churnWant s a = some w) : w.arr = a := by
  unfold churnWant at h
  dsimp only at h
  split at h
  · split at h
    · rw [← Option.some.inj h]
    · rw [← Option.some.inj h]
  · split at h
    · exact absurd h (by simp)
    · split at h
      · split at h
        · rw [← Option.some.inj h]
        · exact absurd h (by simp)
      · split at h
        · exact absurd h (by simp)
        · split at h
          · exact absurd h (by simp)
          · rw [← Option.some.inj h]

theorem churnWants_mem {s : State} {c : Nat} {w : ChurnWant} (h : w ∈ churnWants s c) : churnWant s w.arr = some w ∧ w.arr / 64 = c := by
  obtain ⟨e, he, hw⟩ := List.mem_filterMap.mp h
  obtain ⟨-, hc⟩ := List.mem_filter.mp he
  rw [churnWant_arr hw]
  exact ⟨hw, beq_iff_eq.mp hc⟩

/-- An array that no churn can take: one has it already, or it owes no first churn, no idle window is open on it and nothing was asked of its core. -/
def Rests (s : State) (n : Nat) : Prop :=
  (s.arr n).chn.cur.isSome = true ∨ firstMay s n = false ∧ (s.arr n).win = false ∧ (s.core (n / 64)).churns = []

theorem firstMay_of_cur {s : State} {n : Nat} (h : (s.arr n).chn.cur.isSome = true) : firstMay s n = false := by
  unfold firstMay
  dsimp only
  rw [← Option.not_isSome, h]
  simp

theorem Rests.churnWant {s : State} {n : Nat} (h : Rests s n) : churnWant s n = none := by
  unfold Sys2Proof.Machine.churnWant
  extract_lets x qs asked
  obtain h | ⟨h1, h2, h3⟩ := h
  · have hx : x.chn.cur.isNone = false := by
      rw [← Option.not_isSome]
      exact congrArg Bool.not h
    rw [if_neg (by rw [firstMay_of_cur h]; exact Bool.false_ne_true), if_pos (by rw [hx]; simp)]
  · have hq : qs = [] := by
      show (s.core (n / 64)).churns.filter _ = []
      rw [h3, List.filter_nil]
    have hw : x.win = false := h2
    rw [if_neg (by rw [h1]; exact Bool.false_ne_true), hq, hw]
    split
    · rfl
    · rfl

/-! ## The churns and tests of a core -/

theorem Rests.step {s t : State} {n : Nat} (h : Rests s n) (k : ChurnStep s t) (ha : t.arr n = s.arr n) (hf : (s.arr n).chn.fit = true ∨ (s.arr n).chn.cur.isSome = true ∨ s.programmed n = false) :
    Rests t n := by
  obtain h | ⟨-, h2, h3⟩ := h
  · exact .inl (by rw [ha]; exact h)
  · by_cases hc : (s.arr n).chn.cur.isSome = true
    · exact .inl (by rw [ha]; exact hc)
    · refine .inr ⟨?_, by rw [ha]; exact h2, k.asks.churns_nil h3⟩
      have ho : t.owes n = false := by
        have hp : t.programmed n = s.programmed n := by
          have hn : t.mem.nvs = s.mem.nvs := k.same .nvsMem (by decide)
          rw [State.programmed, State.programmed, State.prec, State.prec, hn]
        rw [State.owes, ha, hp]
        obtain hf | hf | hf := hf
        · simp [hf]
        · exact absurd hf hc
        · simp [hf]
      unfold firstMay
      dsimp only
      rw [ho]
      rfl

/-- An array that no churn can take, because it has one or owes none. -/
def Still (s : State) (n : Nat) : Prop := Rests s n ∧ ((s.arr n).chn.fit = true ∨ (s.arr n).chn.cur.isSome = true ∨ s.programmed n = false)

theorem Still.step {s t : State} {n : Nat} (h : Still s n) (k : ChurnStep s t) (ha : t.arr n = s.arr n) : Still t n := by
  have hn : t.mem.nvs = s.mem.nvs := k.same .nvsMem (by decide)
  refine ⟨h.1.step k ha h.2, ?_⟩
  rw [ha, State.programmed, State.prec, hn]
  exact h.2

theorem startChurns_churnStep (c k : Nat) (s : State) : ChurnStep s (startChurns c k s) := by
  induction k generalizing s with
  | zero => exact ChurnStep.refl s
  | succ k ih =>
    unfold startChurns
    split
    · exact ChurnStep.refl s
    · split
      · exact ChurnStep.refl s
      · exact (beginChurn_churnStep _ _ _ _).trans (ih _)

theorem startChurns_still (c k : Nat) {s : State} {n : Nat} (h : Still s n) : (startChurns c k s).arr n = s.arr n := by
  induction k generalizing s with
  | zero => rfl
  | succ k ih =>
    unfold startChurns
    split
    · rfl
    · split
      · rfl
      · next w hw =>
        have hne : n ≠ w.arr := by
          rintro rfl
          have := (churnWants_mem (firstWant_mem hw)).1
          rw [h.1.churnWant] at this
          exact absurd this (by simp)
        have ha : (beginChurn w.arr w.full w.cls s).arr n = s.arr n := beginChurn_arr_ne s _ _ hne
        exact (ih (h.step (beginChurn_churnStep s _ _ _) ha)).trans ha

theorem startChurns_of_nil {c : Nat} (k : Nat) {s : State} (h : churnWants s c = []) : startChurns c k s = s := by
  cases k with
  | zero => rfl
  | succ k =>
    unfold startChurns
    rw [h]
    exact ite_self s

theorem churnWants_nil {s : State} {c : Nat} (h : ∀ b, b / 64 = c → Rests s b) : churnWants s c = [] := by
  refine List.eq_nil_iff_forall_not_mem.mpr fun w hw => ?_
  obtain ⟨h1, h2⟩ := churnWants_mem hw
  rw [(h w.arr h2).churnWant] at h1
  exact absurd h1 (by simp)

theorem NoneWait.rests {s : State} {c : Nat} (h : NoneWait s c) {b : Nat} (hb : b / 64 = c) : Rests s b :=
  .inr ⟨(h.2.2 b hb).2, (h.2.2 b hb).1, by rw [hb]; exact h.1⟩

theorem churnGo_churnStep (c : Nat) (s : State) : ChurnStep s (churnGo c s) := churnStep_ite (startChurns_churnStep c 64 s) (ChurnStep.refl s)

theorem churnGo_still (c : Nat) {s : State} {n : Nat} (h : Still s n) : (churnGo c s).arr n = s.arr n := by
  unfold churnGo
  split
  · exact startChurns_still c 64 h
  · rfl

theorem churnGo_of_rests {c : Nat} {s : State} (h : ∀ b, b / 64 = c → Rests s b) : churnGo c s = s := by
  unfold churnGo
  rw [startChurns_of_nil 64 (churnWants_nil h)]
  exact ite_self s

theorem testGo_of_nil {c : Nat} {s : State} (h : (s.core c).tests = []) : testGo c s = s := by
  unfold testGo
  rw [h]
  rfl

/-- Where none waits on the core, nothing starts. -/
theorem freeGo_of_rests {c : Nat} {s : State} (h : ∀ b, b / 64 = c → Rests s b) (ht : (s.core c).tests = []) : freeGo c s = s := by
  rw [freeGo, churnGo_of_rests h, testGo_of_nil ht]

/-- What the start of churns and tests leaves. -/
structure GoStep (s t : State) : Prop where
  same : SameBut (evParts ++ [.arrs, .cores, .refs, .regs, .dram, .mr]) s t
  log : LogGrows s t
  regs : RegsBut eccRegs s t
  asks : AsksKept s t

theorem ChurnStep.go {s t : State} (h : ChurnStep s t) : GoStep s t := ⟨h.same.mono (by decide), h.log, h.regs, h.asks⟩

theorem GoStep.trans {s t u : State} (h : GoStep s t) (k : GoStep t u) : GoStep s u := ⟨h.same.trans k.same, h.log.trans k.log, h.regs.trans k.regs, h.asks.trans k.asks⟩

theorem State.onMr_same (s : State) (f : MrSt → MrSt) : SameBut [.mr] s (s.onMr f) := fun p hp => by cases p <;> first | rfl | exact absurd (by decide) hp

theorem beginUnit_goStep (a : Nat) (s : State) : GoStep s (beginUnit a s) := by
  unfold beginUnit
  extract_lets x t t1 s1
  have h1 : SameBut [.arrs, .mr] s s1 := ((s.setArr_same a _).mono (by decide)).then (State.onMr_same _ _)
  have h2 : SameBut [.cores] s1 (s1.onTests (a / 64) (fun l => l.map (fun q => if q.arr == a then { q with started := true } else q))) := s1.setCore_same _ _
  exact ⟨(h1.mono (by decide)).then h2, h1.logGrows.trans h2.logGrows, (h1.regsBut _).trans (h2.regsBut _), h1.asksKept.trans (onTests_asksKept s1 _ _)⟩

theorem beginUnit_arr (a : Nat) (s : State) : (beginUnit a s).arr a
    = { s.arr a with st := .test, win := false, test := some { (s.arr a).test.getD ⟨0, false, false, 0, false, []⟩ with
        live := true, startAt := if ((s.arr a).test.getD ⟨0, false, false, 0, false, []⟩).unit = 0 then s.cnt.aon else ((s.arr a).test.getD ⟨0, false, false, 0, false, []⟩).startAt } } :=
  ((State.setCore_same _ _ _).arr (by decide) a).trans (((State.onMr_same _ _).arr (by decide) a).trans (s.arr_setArr_self _ _))

theorem beginUnit_arr_ne {a b : Nat} (s : State) (h : b ≠ a) : (beginUnit a s).arr b = s.arr b :=
  ((State.setCore_same _ _ _).arr (by decide) b).trans (((State.onMr_same _ _).arr (by decide) b).trans (s.arr_setArr_ne _ h))

theorem testGo_goStep (c : Nat) (s : State) : GoStep s (testGo c s) := by
  unfold testGo
  split
  · exact beginUnit_goStep _ _
  · exact (ChurnStep.refl s).go

/-- A test's unit keeps what the array's churns stand at. -/
theorem testGo_chn (c : Nat) (s : State) (n : Nat) : ((testGo c s).arr n).chn = (s.arr n).chn := by
  unfold testGo
  split
  · next q hq =>
    by_cases h : n = q.arr
    · rw [h, beginUnit_arr]
    · rw [beginUnit_arr_ne s h]
  · rfl

theorem freeGo_goStep (c : Nat) (s : State) : GoStep s (freeGo c s) := (churnGo_churnStep c s).go.trans (testGo_goStep c _)

theorem freeGo_chn (c : Nat) {s : State} {n : Nat} (h : Still s n) : ((freeGo c s).arr n).chn = (s.arr n).chn := by
  rw [freeGo, testGo_chn, churnGo_still c h]

/-- Where no test waits on the core, an array that no churn can take is as before. -/
theorem freeGo_still (c : Nat) {s : State} {n : Nat} (h : Still s n) (ht : (s.core c).tests = []) : (freeGo c s).arr n = s.arr n := by
  rw [freeGo, testGo_of_nil ((churnGo_churnStep c s).asks.tests_nil ht), churnGo_still c h]

/-! ## An idle window -/

theorem minDue_foldl (l : List Due) (m : Option Nat) {n : Nat} (h : l.foldl (fun m d => match m with
    | none => some d.cls
    | some n => some (min n d.cls)) m = some n) : (∃ d ∈ l, d.cls = n) ∨ m = some n := by
  induction l generalizing m with
  | nil => exact .inr h
  | cons d r ih =>
    obtain ⟨e, he, hn⟩ | hm := ih _ h
    · exact .inl ⟨e, List.mem_cons_of_mem _ he, hn⟩
    · cases m with
      | none => exact .inl ⟨d, List.mem_cons_self, Option.some.inj hm⟩
      | some k =>
        obtain hk | hk : min k d.cls = k ∨ min k d.cls = d.cls := by omega
        · exact .inr (by rw [← Option.some.inj hm, hk])
        · exact .inl ⟨d, List.mem_cons_self, by rw [← Option.some.inj hm, hk]⟩

section
variable {s : State} {n c cls : Nat}

/-- The state in which an idle window is open on an array. -/
def openWin (n : Nat) (s : State) : State := s.setArr n { s.arr n with win := true }

theorem openWin_arr (n : Nat) (s : State) : (openWin n s).arr n = { s.arr n with win := true } := s.arr_setArr_self _ _

theorem openWin_arr_ne {b : Nat} (s : State) (h : b ≠ n) : (openWin n s).arr b = s.arr b := s.arr_setArr_ne _ h

theorem openWin_same (n : Nat) (s : State) : SameBut [.arrs] s (openWin n s) := s.setArr_same _ _

theorem openWin_owes (n : Nat) (s : State) (b : Nat) : (openWin n s).owes b = s.owes b := by
  have hf : ((openWin n s).arr b).chn.fit = (s.arr b).chn.fit := by
    by_cases h : b = n
    · subst h; rw [openWin_arr]
    · rw [openWin_arr_ne s h]
  rw [State.owes, State.owes, hf]
  rfl

theorem openWin_firstMay (n : Nat) (s : State) (b : Nat) : firstMay (openWin n s) b = firstMay s b := by
  unfold firstMay
  rw [openWin_owes]
  by_cases h : b = n
  · subst h; rw [openWin_arr]; rfl
  · rw [openWin_arr_ne s h]; rfl

theorem openWin_want (hc : (s.core (n / 64)).churns = []) (hm : firstMay s n = false) (hst : (s.arr n).st = .ready) (hi : s.idle n = true) (hcur : (s.arr n).chn.cur = none)
    (hp : s.programmed n = true) (hd : minDue (s.arr n).chn.due = some cls) : ∃ w, churnWant (openWin n s) n = some w ∧ w.arr = n ∧ w.full = (!lightClass cls) ∧ w.cls = cls := by
  have hi' : (openWin n s).idle n = s.idle n := by
    unfold State.idle
    rw [openWin_arr]
    rfl
  have hcore : (openWin n s).core (n / 64) = s.core (n / 64) := (openWin_same n s).core (by decide) _
  have hguard : (((openWin n s).arr n).st == .ready && (openWin n s).idle n && ((openWin n s).arr n).chn.cur.isNone && (openWin n s).programmed n) = true := by
    rw [hi', openWin_arr]
    simp only [hst, hi, hcur, Option.isNone_none, Bool.and_true]
    exact hp
  refine ⟨⟨cls, cls, dueAt ((openWin n s).arr n) cls, n, !lightClass cls⟩, ?_, rfl, rfl, rfl⟩
  unfold churnWant
  dsimp only
  rw [if_neg (by rw [openWin_firstMay, hm]; exact Bool.false_ne_true), if_neg (by rw [hguard]; decide), hcore, hc, List.filter_nil, openWin_arr]
  dsimp only
  rw [if_neg (by decide), hd]

theorem openWin_mem (n : Nat) (s : State) : n ∈ (openWin n s).arrs.map (fun e => e.1) := by
  have hf : Tab.find? (openWin n s).arrs n = some { s.arr n with win := true } := by
    have hne : ({ s.arr n with win := true } : Arr) ≠ .idle := fun h => absurd (congrArg Arr.win h) (by simp [Arr.idle])
    show Tab.find? (Tab.setD s.arrs n .idle { s.arr n with win := true }) n = _
    rw [Tab.setD, if_neg hne, Tab.find?_insert, if_pos rfl]
  have hm : ∀ t : Tab Arr, ∀ x, Tab.find? t n = some x → n ∈ t.map (fun e => e.1) := by
    intro t
    induction t with
    | nil => exact fun x h => absurd h (by simp [Tab.find?])
    | cons e r ih =>
      intro x h
      by_cases he : n = e.1
      · exact List.mem_cons.mpr (.inl he)
      · rw [Tab.find?, if_neg he] at h
        exact List.mem_cons_of_mem _ (ih x h)
  exact hm _ _ hf

theorem openWin_churning (n : Nat) (s : State) (c : Nat) : (openWin n s).churning c = s.churning c := by
  have hcur : ∀ b, ((openWin n s).arr b).chn = (s.arr b).chn := fun b => by
    by_cases h : b = n
    · subst h; rw [openWin_arr]
    · rw [openWin_arr_ne s h]
  unfold State.churning
  simp only [hcur]

theorem openWin_rests (hc : (s.core c).churns = []) (hw : ∀ b, b ≠ n → b / 64 = c → (s.arr b).win = false) (hm : ∀ b, b / 64 = c → firstMay s b = false) {b : Nat} (hb : b / 64 = c)
    (hn : b ≠ n) : Rests (openWin n s) b := by
  refine .inr ⟨(openWin_firstMay n s b).trans (hm b hb), by rw [openWin_arr_ne s hn]; exact hw b hn hb, ?_⟩
  rw [hb, (openWin_same n s).core (by decide)]
  exact hc

/-- The one array of a core with something to start takes its churn, and then nothing more starts. -/
theorem churnGo_openWin (hnc : c = n / 64) (hup : s.coreUp c = true) (hst : (s.arr n).st = .ready) (hi : s.idle n = true) (hcur : (s.arr n).chn.cur = none) (hp : s.programmed n = true)
    (hmax : s.churning c < s.maxChurn c) (hc : (s.core c).churns = []) (hw : ∀ b, b ≠ n → b / 64 = c → (s.arr b).win = false) (hm : ∀ b, b / 64 = c → firstMay s b = false)
    (hd : minDue (s.arr n).chn.due = some cls) (hl : lightClass cls = true ∨ s.refOk n = true) : churnGo c (openWin n s) = beginChurn n (!lightClass cls) cls (openWin n s) := by
  subst hnc
  obtain ⟨w, hwant, harr, hfull, hcls⟩ := openWin_want hc (hm n rfl) hst hi hcur hp hd
  have hmem : w ∈ churnWants (openWin n s) (n / 64) := by
    obtain ⟨e, he, hen⟩ := List.mem_map.mp (openWin_mem n s)
    exact List.mem_filterMap.mpr ⟨e, List.mem_filter.mpr ⟨he, beq_iff_eq.mpr (by rw [hen])⟩, by rw [hen]; exact hwant⟩
  have hfirst : firstWant (churnWants (openWin n s) (n / 64)) = some w := by
    cases h : firstWant (churnWants (openWin n s) (n / 64)) with
    | none => rw [firstWant_nil_iff h] at hmem; exact absurd hmem (by simp)
    | some v =>
      obtain ⟨hv, hvc⟩ := churnWants_mem (firstWant_mem h)
      by_cases hvn : v.arr = n
      · rw [hvn, hwant] at hv
        exact hv.symm
      · rw [(openWin_rests hc hw hm hvc hvn).churnWant] at hv
        exact absurd hv (by simp)
  have hone : startChurns (n / 64) 64 (openWin n s) = startChurns (n / 64) 63 (beginChurn n (!lightClass cls) cls (openWin n s)) := by
    rw [startChurns, openWin_churning, if_neg (by rw [decide_eq_true_iff]; exact Nat.not_le.mpr hmax), hfirst]
    dsimp only
    rw [harr, hfull, hcls]
  have hspec := beginChurn_spec (openWin n s) n (!lightClass cls) cls (by
    obtain hl | hl := hl
    · exact .inl (by rw [hl]; rfl)
    · exact .inr hl)
  obtain ⟨⟨d, r, u, hu, -⟩, hok, -⟩ := hspec
  have hk := beginChurn_churnStep (openWin n s) n (!lightClass cls) cls
  have hrest : ∀ b, b / 64 = n / 64 → Rests (beginChurn n (!lightClass cls) cls (openWin n s)) b := by
    intro b hb
    by_cases hbn : b = n
    · subst hbn
      exact .inl (by rw [hu]; rfl)
    · have ha : (beginChurn n (!lightClass cls) cls (openWin n s)).arr b = (openWin n s).arr b := beginChurn_arr_ne _ _ _ hbn
      have hnvs : (beginChurn n (!lightClass cls) cls (openWin n s)).mem.nvs = (openWin n s).mem.nvs := hk.same .nvsMem (by decide)
      refine .inr ⟨?_, by rw [ha, openWin_arr_ne s hbn]; exact hw b hbn hb, hk.asks.churns_nil (by rw [hb, (openWin_same n s).core (by decide)]; exact hc)⟩
      have := (openWin_firstMay n s b).trans (hm b hb)
      unfold firstMay State.owes State.programmed State.prec at this ⊢
      dsimp only at this ⊢
      rw [ha, hok, hnvs]
      exact this
  rw [churnGo, if_pos (show (openWin n s).coreUp (n / 64) = true from hup), hone, startChurns_of_nil 63 (churnWants_nil hrest)]

end

theorem openWindow_some {s : State} {n : Nat} {u : Churn} (hup : s.coreUp (n / 64) = true) (hst : (s.arr n).st = .ready) (hi : s.idle n = true) (hcur : (s.arr n).chn.cur = some u)
    (hfull : u.full = true) (hpost : u.post = false) : openWindow n s = beginChurnUnit n u s := by
  unfold openWindow
  dsimp only
  rw [if_neg (by rw [hup, hst, hi]; decide), hcur]
  dsimp only
  rw [hfull, hpost, if_neg (by decide)]

theorem openWindow_none {s : State} {n : Nat} (hup : s.coreUp (n / 64) = true) (hst : (s.arr n).st = .ready) (hi : s.idle n = true) (hcur : (s.arr n).chn.cur = none) :
    openWindow n s = churnGo (n / 64) (openWin n s) := by
  unfold openWindow openWin
  dsimp only
  rw [if_neg (by rw [hup, hst, hi]; decide), hcur]

theorem exec_idleWindowOpen (s : State) (a : ArrId) : exec (.idleWindowOpen a) s = .next (openWindow a.val s) := rfl

theorem lightClass_beq (a b : Bool) : (a == !b) = (a != b) := by cases a <;> cases b <;> rfl

/-! ## The statement -/

section
variable {s : State}

/-- A sample's word: the sample with VALID. -/
theorem sampleWord_eq (v : BitVec 16) : BitVec.ofNat 32 (v.toNat + 2 ^ 16) = v.zeroExtend 32 + 0x10000 := by
  apply BitVec.eq_of_toNat_eq
  have := v.isLt
  rw [BitVec.toNat_ofNat, BitVec.toNat_add, BitVec.zeroExtend_eq_setWidth, BitVec.toNat_setWidth, show (0x10000 : W32).toNat = 2 ^ 16 by decide]
  omega

theorem tempSample_spec (cc : CoreId) (hup : s.coreUp cc.val = true) (v : BitVec 16) : ∃ t, exec (.tempSample cc (some v)) s = .next t
    ∧ t.reg (Reg.CHN_TEMP cc.val) = v.zeroExtend 32 + 0x10000 ∧ RegsBut [Reg.CHN_TEMP cc.val] s t ∧ Quiet s t ∧ SameBut [.regs, .arrs] s t := by
  obtain ⟨s1, hs1⟩ : ∃ s1, s1 = s.setReg (Reg.CHN_TEMP cc.val) (BitVec.ofNat 32 (v.toNat + 2 ^ 16)) := ⟨_, rfl⟩
  have hex : exec (.tempSample cc (some v)) s
      = .next ((s1.arrs.map (fun e => e.1)).foldl (fun u a => if a / 64 = cc.val ∧ tempDue u a then makeDue a 3 u else u) s1) := by
    rw [hs1]
    exact congrArg Host.Outcome.next (if_pos hup)
  have hf : SameBut [.arrs] s1 ((s1.arrs.map (fun e => e.1)).foldl (fun u a => if a / 64 = cc.val ∧ tempDue u a then makeDue a 3 u else u) s1) :=
    SameBut.foldl (fun t a => sameBut_ite (sameBut_ite (SameBut.refl _ t) (t.setArr_same _ _)) (SameBut.refl _ t)) _ _
  have h1 : SameBut [.regs] s s1 := hs1 ▸ s.setReg_same _ _
  refine ⟨_, hex, ?_, ?_, ?_, (h1.mono (by decide)).then hf⟩
  · rw [hf.reg (by decide), hs1, State.reg_setReg_self, sampleWord_eq]
  · exact (hs1 ▸ s.setReg_regsBut _ _ : RegsBut [Reg.CHN_TEMP cc.val] s s1).trans (hf.regsBut _)
  · rw [Quiet, hf .ev (by decide), h1 .ev (by decide)]

theorem tempFail_spec (cc : CoreId) (hup : s.coreUp cc.val = true) (hb : s.rbit (Reg.CHN_TEMP cc.val) 17 = false) : ∃ t, exec (.tempSample cc none) s = .next t
    ∧ t.reg (Reg.CHN_TEMP cc.val) = s.reg (Reg.CHN_TEMP cc.val) ||| 0x20000 ∧ Raised 0x0407 s t ∧ RegsBut [Reg.CHN_TEMP cc.val] s t ∧ SameBut (evParts ++ [.regs]) s t := by
  obtain ⟨s1, hs1⟩ : ∃ s1, s1 = s.orReg (Reg.CHN_TEMP cc.val) (2 ^ 17) := ⟨_, rfl⟩
  obtain ⟨pay, hex⟩ : ∃ pay, exec (.tempSample cc none) s = .next (s1.raise 0x0407 2 cc.val pay) :=
    ⟨cc.val + 2 ^ 16 * s.fld (Reg.CHN_TEMP cc.val) 15 0, by rw [hs1]; exact congrArg Host.Outcome.next ((if_pos hup).trans (if_neg (by rw [hb]; exact Bool.false_ne_true)))⟩
  have h1 : SameBut [.regs] s s1 := hs1 ▸ s.setReg_same _ _
  refine ⟨_, hex, ?_, raised_from (h1 .ev (by decide)) (State.raise_raised _ _ _ _ _), (hs1 ▸ s.orReg_regsBut _ _ : RegsBut [Reg.CHN_TEMP cc.val] s s1).trans (State.raise_regsBut _ _ _ _ _ _),
    (h1.mono (by decide)).then (State.raise_same _ _ _ _ _)⟩
  rw [State.raise_reg, hs1, State.reg_orReg_self]
  rfl

theorem churnDue_spec (a : ArrId) (cls : Fin 7) (hup : s.coreUp (a.val / 64) = true) (hp : s.programmed a.val = true) (hm : mayDue s a.val cls.val = true)
    (hd : ∀ d ∈ (s.arr a.val).chn.due, d.cls ≠ cls.val) : exec (.churnDue a cls) s
      = .next (s.setArr a.val { s.arr a.val with chn := { (s.arr a.val).chn with due := (s.arr a.val).chn.due ++ [⟨cls.val, s.cnt.aon, false⟩] } }) := by
  refine congrArg Host.Outcome.next ((if_pos (by rw [hup, hp, hm]; rfl)).trans (if_neg ?_))
  rw [List.any_eq_true]
  rintro ⟨d, hmem, hc⟩
  exact hd d hmem (beq_iff_eq.mp hc)

/-- The array whose due churns of a class count as late. -/
def Arr.lateDue (x : Arr) (cls : Nat) : Arr := { x with chn := { x.chn with due := x.chn.due.map (fun d => if d.cls = cls then { d with late := true } else d) } }

theorem churnLate_spec (a : ArrId) (cls : Fin 7) (hup : s.coreUp (a.val / 64) = true)
    (h : ∃ d ∈ (s.arr a.val).chn.due, d.cls = cls.val ∧ d.late = false ∧ (if lightClass d.cls then 1000000 else 10000000) < s.since d.at') :
    ∃ pay, exec (.churnLate a cls) s = .next (((s.setArr a.val ((s.arr a.val).lateDue cls.val)).incReg (Reg.CHN_LATE_CNT (a.val / 64)) 1).raise 0x0402 1 (a.val / 64) pay) := by
  obtain ⟨d, hmem, hcls, hlate, hover⟩ := h
  cases hf : (s.arr a.val).chn.due.find? (fun d => d.cls == cls.val && !d.late && d.over s) with
  | none =>
    have := List.find?_eq_none.mp hf d hmem
    rw [hcls, hlate, Due.over, hcls] at this
    rw [hcls] at hover
    simp [hover] at this
  | some e =>
    refine ⟨a.val + 2 ^ 16 * b2n (!lightClass cls.val) + 2 ^ 32 * (e.at'.toNat / 1000 % 2 ^ 32), congrArg Host.Outcome.next ((if_pos hup).trans ?_)⟩
    rw [hf]
    rfl

end

/-- Settles O33: samples and due churns in one array each, an idle window by the one churn of its core that may start, class 1 by its start. -/
theorem churnsFallDueAndStart : Obligations.ChurnsFallDueAndStart := by
  unfold Obligations.ChurnsFallDueAndStart
  rintro s a n c x rfl rfl rfl hup
  refine ⟨fun cc hcc => ?_, fun cls hp hm hd => ⟨_, churnDue_spec a cls hup hp hm hd, setArr_frame s _ _⟩, fun cls hd => ?_, fun hst hi => ⟨fun cls hcur hp hmax hc hw hm hd hl => ?_, fun u hcur hfull hpost => ?_⟩,
    fun ho hcur hbusy hst hok hturn => ?_⟩
  · rw [← hcc] at hup ⊢
    exact ⟨tempSample_spec cc hup, tempFail_spec cc hup⟩
  · obtain ⟨pay, hex⟩ := churnLate_spec a cls hup hd
    obtain ⟨u, hu⟩ : ∃ u, u = s.setArr a.val ((s.arr a.val).lateDue cls.val) := ⟨_, rfl⟩
    obtain ⟨ha, hb, hsame⟩ : u.arr a.val = ((s.arr a.val).lateDue cls.val) ∧ (∀ b, b ≠ a.val → u.arr b = s.arr b) ∧ SameBut [.arrs] s u := hu ▸ setArr_frame s _ _
    rw [← hu] at hex
    clear hu
    have hi := u.incReg_same (Reg.CHN_LATE_CNT (a.val / 64)) 1
    have hr := State.raise_same (u.incReg (Reg.CHN_LATE_CNT (a.val / 64)) 1) 0x0402 1 (a.val / 64) pay
    refine ⟨_, hex, ?_, fun b hne => ?_, ?_, raised_from ((hi .ev (by decide)).trans (hsame .ev (by decide))) (State.raise_raised _ _ _ _ _), ?_, ((hsame.mono (by decide)).then hi).then hr⟩
    · rw [hr.arr (by decide), hi.arr (by decide), ha]
      rfl
    · rw [hr.arr (by decide), hi.arr (by decide), hb b hne]
    · rw [State.raise_reg, State.incReg, State.reg_setReg_self, hsame.reg (by decide)]
    · exact ((hsame.regsBut _).trans (u.incReg_regsBut _ _)).trans (State.raise_regsBut _ _ _ _ _ _)
  · have hex := exec_idleWindowOpen s a
    rw [openWindow_none hup hst hi hcur, churnGo_openWin rfl hup hst hi hcur hp hmax hc hw hm hd hl] at hex
    obtain ⟨⟨d, r, u, harr, h1, h2, h3, h4⟩, -, hsame⟩ := beginChurn_spec (openWin a.val s) a.val (!lightClass cls) cls (hl.imp (fun h => by rw [h]; rfl) id)
    have hwin := openWin_same a.val s
    rw [openWin_arr] at harr h2
    refine ⟨_, u, hex, ?_, h1, h2, h3, h4, ?_, ?_, fun b hb => ?_, (hwin.mono (by decide)).then (beginChurn_churnStep _ _ _ _).same, fun hc => (hwin.mono (by decide)).then (hsame (hc.imp (fun h => by rw [h]; rfl) id))⟩
    · rw [harr]; rfl
    · rw [harr]; rfl
    · rw [harr]
      simp only [Arr.churned, lightClass_beq]
    · rw [beginChurn_arr_ne _ _ _ hb, openWin_arr_ne s hb]
  · have hex := exec_idleWindowOpen s a
    rw [openWindow_some hup hst hi hcur hfull hpost] at hex
    obtain ⟨ha, hb, hsame⟩ := setArr_frame s a.val { s.arr a.val with st := .churn, win := false, chn := { (s.arr a.val).chn with
      cur := some (if u.unit = 0 then { u with live := true, startAt := s.cnt.aon, startT := s.temp (a.val / 64) } else { u with live := true }) } }
    refine ⟨_, (if u.unit = 0 then { u with live := true, startAt := s.cnt.aon, startT := s.temp (a.val / 64) } else { u with live := true }), hex, congrArg (fun y : Arr => y.chn.cur) ha, ?_, ?_, ?_, ?_,
      congrArg Arr.st ha, hb, hsame⟩
    all_goals split <;> first | rfl | exact hfull
  · have hfirst : firstMay s a.val = true := by
      unfold firstMay
      dsimp only
      rw [ho, hcur, hbusy, hok]
      obtain h | ⟨h1, h2⟩ := hst
      · rw [h]; rfl
      · rw [h1, h2]; rfl
    have hwant : (churnWant s a.val).any (fun w => w.turn s) = true := by
      obtain ⟨w, hw⟩ : ∃ w, churnWant s a.val = some w := by
        unfold churnWant
        dsimp only
        rw [if_pos hfirst]
        exact ⟨_, rfl⟩
      rw [hw] at hturn ⊢
      rw [Option.any_some, ChurnWant.turn, churnWant_arr hw]
      exact decide_eq_true hturn
    have hex : exec (.class1ChurnStart a) s = .next (beginChurn a.val true 1 s) := congrArg Host.Outcome.next (if_pos (by rw [hup, hfirst, hwant]; rfl))
    obtain ⟨⟨d, r, u, harr, h1, h2, h3, h4⟩, -, hsame⟩ := beginChurn_spec s a.val true 1 (.inr hok)
    refine ⟨_, u, hex, ?_, h1, h2, h3, h4, ?_, fun b hb => beginChurn_arr_ne s _ _ hb, (beginChurn_churnStep s _ _ _).same, fun he => hsame (.inr he)⟩
    · rw [harr]; rfl
    · rw [harr]; rfl

end Sys2Proof.Machine
end

section
/-!
PROOFS. Light churns (O34) and full churns (O35).
-/
set_option Elab.async false

namespace Sys2Proof.Machine

/-! ## Clamps -/

section
variable (a phase : Nat) (codes : Tab (Int × Bool)) (s : State)

/-- Counting clamped codes changes the two clamp registers of its array and may raise an event. -/
theorem countClamps_spec : SameBut (evParts ++ [.regs]) s (countClamps a phase codes s) ∧ RegsBut [Reg.ARR_CLAMP_CNT a, Reg.ARR_CLAMP_LAST a] s (countClamps a phase codes s)
    ∧ LogGrows s (countClamps a phase codes s) := by
  unfold countClamps
  dsimp only
  split
  · exact ⟨SameBut.refl _ s, RegsBut.refl _ s, LogGrows.refl s⟩
  · generalize BitVec.ofNat 32 _ = last
    generalize hs1 : (s.incReg (Reg.ARR_CLAMP_CNT a) _).setReg (Reg.ARR_CLAMP_LAST a) last = s1
    have h1 : SameBut [.regs] s s1 := hs1 ▸ (s.incReg_same _ _).trans (State.setReg_same _ _ _)
    have hr : RegsBut [Reg.ARR_CLAMP_CNT a, Reg.ARR_CLAMP_LAST a] s s1 :=
      hs1 ▸ ((s.incReg_regsBut _ _).mono (by simp)).trans ((State.setReg_regsBut _ _ _).mono (by simp))
    split
    · exact ⟨(h1.mono (by decide)).then (State.raiseOnce_same _ _ _ _ _ _), hr.trans (State.raiseOnce_regsBut _ _ _ _ _ _ _), h1.logGrows.trans (State.raiseOnce_logGrows _ _ _ _ _ _)⟩
    · exact ⟨h1.mono (by decide), hr, h1.logGrows⟩

end

theorem lightPair_spec (s : State) (a i : Nat) (noise : List (Nat × Int)) : SameBut (evParts ++ [.regs]) s (lightPair s a i noise).2
    ∧ RegsBut [Reg.ARR_CLAMP_CNT a, Reg.ARR_CLAMP_LAST a] s (lightPair s a i noise).2 ∧ LogGrows s (lightPair s a i noise).2 := by
  unfold lightPair
  dsimp only
  generalize probeCodes _ _ _ _ (phaseNoise i noise) = p
  generalize probeCodes _ _ _ _ (phaseNoise (i + 1) noise) = m
  obtain ⟨h1, h2, h3⟩ := countClamps_spec a 0 p s
  obtain ⟨k1, k2, k3⟩ := countClamps_spec a 1 m (countClamps a 0 p s)
  exact ⟨h1.trans k1, h2.trans k2, h3.trans k3⟩

/-! ## The release of an array -/

section
variable (a : Nat) (s : State)

theorem parkCheck_same : SameBut [.arrs] s (parkCheck a s) := sameBut_ite (s.setArr_same _ _) (SameBut.refl _ s)

theorem parkCheck_arr_ne {b : Nat} (h : b ≠ a) : (parkCheck a s).arr b = s.arr b := by
  unfold parkCheck
  dsimp only
  split
  · exact s.arr_setArr_ne _ h
  · rfl

theorem parkCheck_chn : ((parkCheck a s).arr a).chn = (s.arr a).chn ∧ ((parkCheck a s).arr a).win = (s.arr a).win := by
  unfold parkCheck
  dsimp only
  split
  · rw [State.arr_setArr_self]; exact ⟨rfl, rfl⟩
  · exact ⟨rfl, rfl⟩

theorem parkCheck_of_stay {s : State} (h : (s.arr a).park = false) : parkCheck a s = s := by
  unfold parkCheck
  dsimp only
  rw [h]
  rfl

variable (last : List Int)

/-- The array as its release leaves it before it parks. -/
def arrReleased (s : State) (a : Nat) (last : List Int) : Arr :=
  { s.arr a with st := if s.owes a then .churn else .ready, codes := restCodes (s.arr a).queue last }

theorem releaseArr_eq : releaseArr a last s = parkCheck a (s.setArr a (arrReleased s a last)) := rfl

theorem releaseArr_same : SameBut [.arrs] s (releaseArr a last s) := (s.setArr_same _ _).trans (parkCheck_same a _)

theorem releaseArr_arr_ne {b : Nat} (h : b ≠ a) : (releaseArr a last s).arr b = s.arr b := (parkCheck_arr_ne a _ h).trans (s.arr_setArr_ne _ h)

theorem releaseArr_chn : ((releaseArr a last s).arr a).chn = (s.arr a).chn ∧ ((releaseArr a last s).arr a).win = (s.arr a).win := by
  obtain ⟨h1, h2⟩ := parkCheck_chn a (s.setArr a (arrReleased s a last))
  rw [State.arr_setArr_self] at h1 h2
  exact ⟨h1, h2⟩

theorem releaseArr_of_stay {s : State} (h : (s.arr a).park = false) : (releaseArr a last s).arr a = arrReleased s a last := by
  rw [releaseArr_eq, parkCheck_of_stay a (by rw [State.arr_setArr_self]; exact h), State.arr_setArr_self]

end

/-! ## Whether a class 1 churn may start, in a later state -/

/-- What the right to a class 1 churn rests on, beside the array itself. -/
structure MayKept (s t : State) : Prop where
  nvs : t.mem.nvs = s.mem.nvs
  ok : ∀ b, t.refOk b = s.refOk b
  asks : AsksKept s t

section
variable {s t u : State}

theorem MayKept.refl (s : State) : MayKept s s := ⟨rfl, fun _ => rfl, AsksKept.refl s⟩

theorem MayKept.trans (h : MayKept s t) (k : MayKept t u) : MayKept s u := ⟨k.nvs.trans h.nvs, fun b => (k.ok b).trans (h.ok b), h.asks.trans k.asks⟩

theorem SameBut.mayKept {l : List Piece} (h : SameBut l s t) (hreg : t.reg Reg.RST_STAT = s.reg Reg.RST_STAT) (ha : AsksKept s t) (h1 : .nvsMem ∉ l := by decide) (h2 : .rst ∉ l := by decide)
    (h3 : .fus ∉ l := by decide) (h4 : .refs ∉ l := by decide) : MayKept s t := by
  refine ⟨h .nvsMem h1, fun b => ?_, ha⟩
  obtain ⟨hup, hbytes⟩ := h.refUp hreg h2 h3
  have hrefs : t.refs = s.refs := h .refs h4
  rw [State.refOk, State.refOk, hup, hbytes, hrefs]

theorem MayKept.programmed (h : MayKept s t) (b : Nat) : t.programmed b = s.programmed b := by
  rw [State.programmed, State.programmed, State.prec, State.prec, h.nvs]

theorem MayKept.owes (h : MayKept s t) {b : Nat} (hf : (t.arr b).chn.fit = (s.arr b).chn.fit) : t.owes b = s.owes b := by
  rw [State.owes, State.owes, h.programmed, hf]

theorem MayKept.firstMay (h : MayKept s t) {b : Nat} (ha : t.arr b = s.arr b) : firstMay t b = firstMay s b := by
  unfold Sys2Proof.Machine.firstMay
  rw [h.owes (by rw [ha]), h.ok, ha]

theorem MayKept.rests (h : MayKept s t) {c b : Nat} (hn : NoneWait s c) (hb : b / 64 = c) (ha : t.arr b = s.arr b) : Rests t b := by
  obtain ⟨hc, -, hall⟩ := hn
  obtain ⟨hw, hm⟩ := hall b hb
  exact .inr ⟨(h.firstMay ha).trans hm, by rw [ha]; exact hw, h.asks.churns_nil (by rw [hb]; exact hc)⟩

end

/-! ## Light churns -/

section
variable {s : State} {n : Nat} {u : Churn}

/-- The churn whose light pair has been read. -/
def Churn.paired (u : Churn) (r : Tab Resp) : Churn := { u with live := false, post := true, resp := r }

/-- An array with a churn at work. -/
def Arr.withChurn (x : Arr) (u : Churn) : Arr := { x with chn := { x.chn with cur := some u } }

/-- Sets the churn at work on an array. -/
def setChurn (n : Nat) (u : Churn) (s : State) : State := s.setArr n ((s.arr n).withChurn u)

theorem setChurn_arr (n : Nat) (u : Churn) (s : State) : (setChurn n u s).arr n = (s.arr n).withChurn u := s.arr_setArr_self _ _

theorem setChurn_arr_ne {b : Nat} (u : Churn) (s : State) (h : b ≠ n) : (setChurn n u s).arr b = s.arr b := s.arr_setArr_ne _ h

theorem setChurn_same (n : Nat) (u : Churn) (s : State) : SameBut [.arrs] s (setChurn n u s) := s.setArr_same _ _

theorem exec_lightChurnProbesEnd (a : ArrId) (noise : List (Nat × Int)) (hup : s.coreUp (a.val / 64) = true) (hcur : (s.arr a.val).chn.cur = some u) (hfull : u.full = false) (hlive : u.live = true) :
    exec (.lightChurnProbesEnd a noise) s = .next (freeGo (a.val / 64) (releaseArr a.val (lightLast s a.val)
      (setChurn a.val (u.paired (lightPair s a.val 0 noise).1) (lightPair s a.val 0 noise).2))) := by
  have harr : (lightPair s a.val 0 noise).2.arr a.val = s.arr a.val := (lightPair_spec s a.val 0 noise).1.arr (by decide) _
  have hd : exec (.lightChurnProbesEnd a noise) s = execLightChurnProbesEnd a noise s := rfl
  rw [hd]
  unfold setChurn
  rw [harr]
  unfold execLightChurnProbesEnd State.when
  dsimp only
  rw [if_pos hup, hcur]
  dsimp only
  rw [if_neg (by rw [hfull, hlive]; decide)]
  rfl

theorem lightChurnProbesEnd_spec (a : ArrId) (noise : List (Nat × Int)) (hup : s.coreUp (a.val / 64) = true) (hcur : (s.arr a.val).chn.cur = some u) (hfull : u.full = false)
    (hlive : u.live = true) : ∃ t, exec (.lightChurnProbesEnd a noise) s = .next t ∧ (t.arr a.val).chn.cur = some (u.paired (lightPair s a.val 0 noise).1)
      ∧ (NoneWait s (a.val / 64) → (s.arr a.val).park = false → t.arr a.val
          = { (s.arr a.val).withChurn (u.paired (lightPair s a.val 0 noise).1) with st := if s.owes a.val then .churn else .ready, codes := restCodes (s.arr a.val).queue (lightLast s a.val) }
        ∧ (∀ b, b ≠ a.val → t.arr b = s.arr b) ∧ RegsBut [Reg.ARR_CLAMP_CNT a.val, Reg.ARR_CLAMP_LAST a.val] s t ∧ SameBut (evParts ++ [.regs, .arrs]) s t) := by
  have hex := exec_lightChurnProbesEnd a noise hup hcur hfull hlive
  obtain ⟨hp1, hp2, -⟩ := lightPair_spec s a.val 0 noise
  generalize (lightPair s a.val 0 noise).2 = v at hex hp1 hp2
  generalize (lightPair s a.val 0 noise).1 = r at hex
  generalize lightLast s a.val = last at hex
  obtain ⟨y, hy⟩ : ∃ y, y = setChurn a.val (u.paired r) v := ⟨_, rfl⟩
  have hya : y.arr a.val = (s.arr a.val).withChurn (u.paired r) := by
    rw [hy, setChurn_arr, hp1.arr (by decide)]
  have hyb : ∀ b, b ≠ a.val → y.arr b = s.arr b := fun b hb => by rw [hy, setChurn_arr_ne _ _ hb, hp1.arr (by decide)]
  have hyv : SameBut [.arrs] v y := hy ▸ setChurn_same a.val (u.paired r) v
  rw [← hy] at hex
  clear hy
  obtain ⟨z, hz⟩ : ∃ z, z = releaseArr a.val last y := ⟨_, rfl⟩
  have hzy : SameBut [.arrs] y z := hz ▸ releaseArr_same a.val y last
  have hchn : (z.arr a.val).chn = ((s.arr a.val).withChurn (u.paired r)).chn := by
    rw [hz, (releaseArr_chn a.val y last).1, hya]
  have hcurz : (z.arr a.val).chn.cur.isSome = true := by rw [hchn]; rfl
  have hsame : SameBut (evParts ++ [.regs, .arrs]) s z := ((hp1.mono (by decide)).then hyv).then hzy
  have hregs : RegsBut [Reg.ARR_CLAMP_CNT a.val, Reg.ARR_CLAMP_LAST a.val] s z := (hp2.trans (hyv.regsBut _)).trans (hzy.regsBut _)
  have hmay : MayKept s z := hsame.mayKept (hregs _ (by
    simp only [List.mem_cons, List.not_mem_nil, or_false, not_or, Reg.RST_STAT, Reg.ARR_CLAMP_CNT, Reg.ARR_CLAMP_LAST, baseArr, coreBase, baseRst]
    omega)) hsame.asksKept
  rw [← hz] at hex
  refine ⟨_, hex, ?_, fun hnone hpark => ?_⟩
  · rw [freeGo_chn _ ⟨.inl hcurz, .inr (.inl hcurz)⟩, hchn]
    rfl
  · have hid : freeGo (a.val / 64) z = z := by
      refine freeGo_of_rests (fun b hb => ?_) (hsame.asksKept.tests_nil hnone.2.1)
      by_cases h : b = a.val
      · subst h; exact .inl hcurz
      · exact hmay.rests hnone hb (by rw [hz, releaseArr_arr_ne _ _ _ h, hyb b h])
    rw [hid]
    refine ⟨?_, fun b hb => by rw [hz, releaseArr_arr_ne _ _ _ hb, hyb b hb], hregs, hsame⟩
    have howes : y.owes a.val = s.owes a.val := by
      have hsy : SameBut (evParts ++ [.regs, .arrs]) s y := (hp1.mono (by decide)).then hyv
      have hnvs : y.mem.nvs = s.mem.nvs := hsy .nvsMem (by decide)
      rw [State.owes, State.owes, State.programmed, State.programmed, State.prec, State.prec, hnvs, hya]
      rfl
    rw [hz, releaseArr_of_stay a.val last (by rw [hya]; exact hpark), arrReleased, hya, howes]
    rfl

/-- The array whose light churn has ended. -/
def Arr.lightDone (x : Arr) (t : W64) : Arr := { x with chn := { x.chn with cur := none, last := some t } }

/-- Sets an array's correction. -/
def setCor (n : Nat) (c : Cor) (s : State) : State := { s with cors := Tab.insert s.cors n c }

theorem setCor_same (n : Nat) (c : Cor) (s : State) : SameBut [.cors] s (setCor n c s) := fun p hp => by cases p <;> first | rfl | exact absurd (by decide) hp

theorem setCor_cor (n : Nat) (c : Cor) (s : State) (b : Nat) : (setCor n c s).cor b = if b = n then c else s.cor b := by
  rw [State.cor, setCor, Tab.getD, Tab.find?_insert]
  split
  · rfl
  · rfl

theorem SameBut.cor {l : List Piece} {s t : State} (h : SameBut l s t) (hl : .cors ∉ l := by decide) (b : Nat) : t.cor b = s.cor b := by
  have hc : t.cors = s.cors := h .cors hl
  rw [State.cor, State.cor, hc]

/-- A light churn's end before its event: the churn is over and the correction stands. -/
def lightBase (n : Nat) (ga : W32) (s : State) : State :=
  (setCor n { s.cor n with ga := ga, tl := s.temp (n / 64) } (s.setArr n ((s.arr n).lightDone s.cnt.aon))).incWrap (Reg.CHN_LIGHT_CNT (n / 64)) 1

/-- What a spread beyond SEGTOL adds. -/
def lightFar (n : Nat) (far : Option (Nat × Fr)) (s : State) : State := match far with
  | none => s
  | some (i, d) => makeDue n 3 (s.raise 0x0404 1 (n / 64) (n + 2 ^ 16 * (i % 8) + 2 ^ 24 * (i / 8) + 2 ^ 32 * (toF32 (Val.ofFr d)).toNat))

theorem exec_lightChurnUpdate (a : ArrId) (hup : s.coreUp (a.val / 64) = true) (hcur : (s.arr a.val).chn.cur = some u) (hfull : u.full = false) (hpost : u.post = true) :
    exec (.lightChurnUpdate a) s = .next (freeGo (a.val / 64) (askEnd a.val (if (lightResult s a.val u).2.isSome then 4 else 0)
      (lightFar a.val (lightResult s a.val u).2 (lightBase a.val (lightResult s a.val u).1 s)))) := by
  have hd : exec (.lightChurnUpdate a) s = execLightChurnUpdate a s := rfl
  rw [hd]
  unfold execLightChurnUpdate State.when
  dsimp only
  rw [if_pos hup, hcur]
  dsimp only
  rw [if_neg (by rw [hfull, hpost]; decide)]
  generalize lightResult s a.val u = p
  obtain ⟨ga, far⟩ := p
  cases far <;> rfl

theorem lightBase_spec (n : Nat) (ga : W32) (s : State) : SameBut [.regs, .arrs, .cors] s (lightBase n ga s) ∧ RegsBut [Reg.CHN_LIGHT_CNT (n / 64)] s (lightBase n ga s)
    ∧ (lightBase n ga s).reg (Reg.CHN_LIGHT_CNT (n / 64)) = s.reg (Reg.CHN_LIGHT_CNT (n / 64)) + 1 ∧ (lightBase n ga s).arr n = (s.arr n).lightDone s.cnt.aon
    ∧ (∀ b, b ≠ n → (lightBase n ga s).arr b = s.arr b) ∧ (lightBase n ga s).cor n = { s.cor n with ga := ga, tl := s.temp (n / 64) }
    ∧ ∀ b, b ≠ n → (lightBase n ga s).cor b = s.cor b := by
  unfold lightBase
  obtain ⟨v, hv⟩ : ∃ v, v = s.setArr n ((s.arr n).lightDone s.cnt.aon) := ⟨_, rfl⟩
  obtain ⟨hva, hvb, hvs⟩ : v.arr n = (s.arr n).lightDone s.cnt.aon ∧ (∀ b, b ≠ n → v.arr b = s.arr b) ∧ SameBut [.arrs] s v := hv ▸ setArr_frame s n _
  rw [← hv]
  clear hv
  obtain ⟨c, hc⟩ : ∃ c : Cor, c = { s.cor n with ga := ga, tl := s.temp (n / 64) } := ⟨_, rfl⟩
  rw [← hc]
  have hw := setCor_same n c v
  have hi := State.incWrap_same (setCor n c v) (Reg.CHN_LIGHT_CNT (n / 64)) 1
  refine ⟨((hvs.mono (by decide)).then hw).then hi, ((hvs.regsBut _).trans (hw.regsBut _)).trans (State.incWrap_regsBut _ _ _), ?_, ?_, fun b hb => ?_, ?_, fun b hb => ?_⟩
  · rw [State.incWrap, State.reg_setReg_self, hw.reg (by decide), hvs.reg (by decide)]
    rfl
  · rw [hi.arr (by decide), hw.arr (by decide), hva]
  · rw [hi.arr (by decide), hw.arr (by decide), hvb b hb]
  · rw [hi.cor (by decide), setCor_cor, if_pos rfl]
  · rw [hi.cor (by decide), setCor_cor, if_neg hb, hvs.cor (by decide)]

theorem makeDue_same (a cls : Nat) (s : State) : SameBut [.arrs] s (makeDue a cls s) := sameBut_ite (SameBut.refl _ s) (s.setArr_same _ _)

theorem makeDue_arr (a cls : Nat) (s : State) : ∃ due, (makeDue a cls s).arr a = { s.arr a with chn := { (s.arr a).chn with due := due } } ∧ ∃ d ∈ due, d.cls = cls := by
  unfold makeDue
  dsimp only
  split
  · next h =>
    obtain ⟨d, hd, hc⟩ := List.any_eq_true.mp h
    exact ⟨_, rfl, d, hd, beq_iff_eq.mp hc⟩
  · exact ⟨_, s.arr_setArr_self _ _, _, List.mem_append_right _ List.mem_cons_self, rfl⟩

theorem lightFar_spec (n : Nat) (far : Option (Nat × Fr)) (s : State) : SameBut (evParts ++ [.arrs]) s (lightFar n far s) ∧ (∀ b, b ≠ n → (lightFar n far s).arr b = s.arr b)
    ∧ (∃ due, (lightFar n far s).arr n = { s.arr n with chn := { (s.arr n).chn with due := due } } ∧ (far = none → due = (s.arr n).chn.due) ∧ (far ≠ none → ∃ d ∈ due, d.cls = 3))
    ∧ (far = none → lightFar n far s = s) ∧ (far ≠ none → Raised 0x0404 s (lightFar n far s)) := by
  cases far with
  | none => exact ⟨SameBut.refl _ s, fun _ _ => rfl, ⟨_, rfl, fun _ => rfl, fun h => absurd rfl h⟩, fun _ => rfl, fun h => absurd rfl h⟩
  | some e =>
    obtain ⟨i, d⟩ := e
    unfold lightFar
    dsimp only
    generalize n + 2 ^ 16 * (i % 8) + 2 ^ 24 * (i / 8) + 2 ^ 32 * (toF32 (Val.ofFr d)).toNat = pay
    have hr := s.raise_same 0x0404 1 (n / 64) pay
    have hm := makeDue_same n 3 (s.raise 0x0404 1 (n / 64) pay)
    obtain ⟨due, harr, hdue⟩ := makeDue_arr n 3 (s.raise 0x0404 1 (n / 64) pay)
    rw [hr.arr (by decide)] at harr
    refine ⟨(hr.mono (by decide)).then hm, fun b hb => by rw [makeDue_arr_ne _ _ hb, hr.arr (by decide)], ⟨due, harr, fun h => absurd h (by simp), fun _ => hdue⟩, fun h => absurd h (by simp), fun _ => ?_⟩
    have hraised := s.raise_raised 0x0404 1 (n / 64) pay
    rwa [Raised, ← hm .ev (by decide)] at hraised

theorem lightCnt_not_ecc {c : Nat} (h : c < 32) : Reg.CHN_LIGHT_CNT c ∉ eccRegs := by
  simp only [List.mem_cons, List.not_mem_nil, or_false, not_or, Reg.CHN_LIGHT_CNT, baseChn, coreBase, Reg.TNK_ECC_CNT, Reg.TST_HEALTH, Reg.TNK_ERR, Reg.TNK_UNC_ADDR, baseTnk, baseTst]
  omega

theorem lightChurnUpdate_spec (a : ArrId) (hup : s.coreUp (a.val / 64) = true) (hcur : (s.arr a.val).chn.cur = some u) (hfull : u.full = false) (hpost : u.post = true) :
    ∃ t, exec (.lightChurnUpdate a) s = .next t ∧ t.cor a.val = { s.cor a.val with ga := (lightResult s a.val u).1, tl := s.temp (a.val / 64) } ∧ (∀ b, b ≠ a.val → t.cor b = s.cor b)
      ∧ t.reg (Reg.CHN_LIGHT_CNT (a.val / 64)) = s.reg (Reg.CHN_LIGHT_CNT (a.val / 64)) + 1
      ∧ (NoneWait s (a.val / 64) → s.owes a.val = false → RegsBut [Reg.CHN_LIGHT_CNT (a.val / 64)] s t ∧ (t.arr a.val).chn.cur = none ∧ (t.arr a.val).chn.last = some s.cnt.aon
        ∧ ((lightResult s a.val u).2 = none → Quiet s t ∧ (t.arr a.val).chn.due = (s.arr a.val).chn.due) ∧ ((lightResult s a.val u).2 ≠ none → Raised 0x0404 s t ∧ ∃ d ∈ (t.arr a.val).chn.due, d.cls = 3)
        ∧ (∀ b, b ≠ a.val → t.arr b = s.arr b) ∧ SameBut (evParts ++ [.regs, .arrs, .cors, .cores]) s t) := by
  have hex := exec_lightChurnUpdate a hup hcur hfull hpost
  generalize lightResult s a.val u = p at hex ⊢
  obtain ⟨ga, far⟩ := p
  dsimp only at hex ⊢
  obtain ⟨hb1, hb2, hb3, hb4, hb5, hb6, hb7⟩ := lightBase_spec a.val ga s
  generalize lightBase a.val ga s = v at hex hb1 hb2 hb3 hb4 hb5 hb6 hb7
  obtain ⟨hf1, hf2, ⟨due, hf3, hf4, hf5⟩, hf6, hf7⟩ := lightFar_spec a.val far v
  generalize lightFar a.val far v = w at hex hf1 hf2 hf3 hf6 hf7
  have ha := askEnd_churnStep w a.val (if far.isSome then 4 else 0)
  have has : SameBut [.cores] w (askEnd a.val (if far.isSome then 4 else 0) w) := w.setCore_same _ _
  generalize askEnd a.val (if far.isSome then 4 else 0) w = z at hex ha has
  have hsame : SameBut (evParts ++ [.regs, .arrs, .cors, .cores]) s z := (((hb1.mono (by decide)).trans (hf1.mono (by decide)))).then has
  have hregs : RegsBut [Reg.CHN_LIGHT_CNT (a.val / 64)] s z := (hb2.trans (hf1.regsBut _)).trans (has.regsBut _)
  have hcnt : z.reg (Reg.CHN_LIGHT_CNT (a.val / 64)) = s.reg (Reg.CHN_LIGHT_CNT (a.val / 64)) + 1 := by
    rw [has.reg (by decide), hf1.reg (by decide), hb3]
  have hgo := freeGo_goStep (a.val / 64) z
  have hn : a.val / 64 < 32 := by omega
  refine ⟨_, hex, ?_, fun b hb => ?_, ?_, fun hnone howes => ?_⟩
  · rw [hgo.same.cor (by decide), has.cor (by decide), hf1.cor (by decide), hb6]
  · rw [hgo.same.cor (by decide), has.cor (by decide), hf1.cor (by decide), hb7 b hb]
  · rw [hgo.regs _ (lightCnt_not_ecc hn), hcnt]
  · have hza : z.arr a.val = { (s.arr a.val).lightDone s.cnt.aon with chn := { ((s.arr a.val).lightDone s.cnt.aon).chn with due := due } } := by rw [has.arr (by decide), hf3, hb4]
    have hzb : ∀ b, b ≠ a.val → z.arr b = s.arr b := fun b hb => by rw [has.arr (by decide), hf2 b hb, hb5 b hb]
    have hasks : AsksKept s z := (hb1.asksKept.trans hf1.asksKept).trans ha.asks
    have hmay : MayKept s z := hsame.mayKept (hregs _ (by
      simp only [List.mem_cons, List.not_mem_nil, or_false, Reg.RST_STAT, Reg.CHN_LIGHT_CNT, baseChn, coreBase, baseRst]
      omega)) hasks
    have hid : freeGo (a.val / 64) z = z := by
      refine freeGo_of_rests (fun b hb => ?_) (hasks.tests_nil hnone.2.1)
      by_cases h : b = a.val
      · subst h
        have hoz : z.owes a.val = false := by rw [hmay.owes (by rw [hza]; rfl), howes]
        refine .inr ⟨?_, by rw [hza]; exact (hnone.2.2 _ rfl).1, hasks.churns_nil hnone.1⟩
        unfold firstMay
        dsimp only
        rw [hoz]
        rfl
      · exact hmay.rests hnone hb (hzb b h)
    rw [hid]
    refine ⟨hregs, by rw [hza]; rfl, by rw [hza]; rfl, fun hfar => ⟨?_, ?_⟩, fun hfar => ⟨?_, ?_⟩, hzb, hsame⟩
    · rw [Quiet, has .ev (by decide), hf6 hfar, hb1 .ev (by decide)]
    · rw [hza, hf4 hfar, hb4]
      rfl
    · have := hf7 hfar
      rwa [Raised, hb1 .ev (by decide), ← has .ev (by decide)] at this
    · rw [hza]
      exact hf5 hfar

end

/-- Settles O34: the light pair's read and release as one array's change beside the clamps, the update as one correction's change. -/
theorem lightChurnSetsGain : Obligations.LightChurnSetsGain := by
  unfold Obligations.LightChurnSetsGain
  rintro s a n c x u rfl rfl rfl hup hcur hfull
  exact ⟨fun noise hlive => lightChurnProbesEnd_spec a noise hup hcur hfull hlive, fun hpost => lightChurnUpdate_spec a hup hcur hfull hpost⟩

end Sys2Proof.Machine
end

section
/-!
PROOFS. Full churns: their units, restarts and fits; O35.
-/
set_option Elab.async false

namespace Sys2Proof.Machine

section
variable {s : State} {n : Nat} {u : Churn}

/-! ## Restarts -/

/-- A full churn back at unit 1. -/
def Churn.again (u : Churn) (s : State) (n : Nat) : Churn := { u with unit := 0, raws := [], startAt := s.cnt.aon, startT := s.temp (n / 64) }

theorem restartChurn_spec (n : Nat) (u : Churn) (done : Nat) (s : State) : (restartChurn n u done s).arr n = (s.arr n).withChurn (u.again s n)
    ∧ (∀ b, b ≠ n → (restartChurn n u done s).arr b = s.arr b) ∧ Raised 0x0408 s (restartChurn n u done s)
    ∧ (restartChurn n u done s).reg (Reg.CHN_RESTART_CNT (n / 64)) = satAdd (s.reg (Reg.CHN_RESTART_CNT (n / 64))) 1
    ∧ RegsBut [Reg.CHN_RESTART_CNT (n / 64)] s (restartChurn n u done s) ∧ SameBut (evParts ++ [.regs, .arrs]) s (restartChurn n u done s) := by
  obtain ⟨v, hv⟩ : ∃ v, v = s.incReg (Reg.CHN_RESTART_CNT (n / 64)) 1 := ⟨_, rfl⟩
  have heq : restartChurn n u done s = (v.raise 0x0408 1 (n / 64) (n + 2 ^ 16 * done)).setArr n ((s.arr n).withChurn (u.again s n)) := by rw [hv]; rfl
  have hi : SameBut [.regs] s v := hv ▸ s.incReg_same _ _
  have hr := v.raise_same 0x0408 1 (n / 64) (n + 2 ^ 16 * done)
  have hs := (v.raise 0x0408 1 (n / 64) (n + 2 ^ 16 * done)).setArr_same n ((s.arr n).withChurn (u.again s n))
  rw [heq]
  refine ⟨State.arr_setArr_self _ _ _, fun b hb => ?_, ?_, ?_, ?_, ((hi.mono (by decide)).trans (hr.mono (by decide))).then hs⟩
  · rw [State.arr_setArr_ne _ _ hb, hr.arr (by decide), hi.arr (by decide)]
  · have := raised_from (hi .ev (by decide)) (v.raise_raised 0x0408 1 (n / 64) (n + 2 ^ 16 * done))
    rwa [Raised, ← hs .ev (by decide)] at this
  · rw [hs.reg (by decide), State.raise_reg, hv, State.incReg, State.reg_setReg_self]
  · exact ((hv ▸ s.incReg_regsBut _ _ : RegsBut [Reg.CHN_RESTART_CNT (n / 64)] s v).trans (hr.regsBut _)).trans (hs.regsBut _)

theorem fullChurnRestart_stay (a : ArrId) (hup : s.coreUp (a.val / 64) = true) (hcur : (s.arr a.val).chn.cur = some u) (hw : outOfWindow s a.val u = false) :
    exec (.fullChurnRestart a) s = .next s := by
  have hd : exec (.fullChurnRestart a) s = execFullChurnRestart a s := rfl
  rw [hd]
  unfold execFullChurnRestart State.when
  rw [if_pos hup, hcur]
  dsimp only
  rw [hw, if_neg (by simp)]

theorem fullChurnRestart_again (a : ArrId) (hup : s.coreUp (a.val / 64) = true) (hcur : (s.arr a.val).chn.cur = some u) (hfull : u.full = true) (hpost : u.post = false)
    (hw : outOfWindow s a.val u = true) : exec (.fullChurnRestart a) s = .next (restartChurn a.val u u.unit s) := by
  have hd : exec (.fullChurnRestart a) s = execFullChurnRestart a s := rfl
  rw [hd]
  unfold execFullChurnRestart State.when
  rw [if_pos hup, hcur]
  dsimp only
  rw [if_pos (by rw [hw, hfull, hpost]; decide)]

/-! ## Units -/

/-- The codes of a unit's four probes. -/
def unitCodes (s : State) (n : Nat) (u : Churn) (noise : List (Nat × Int)) : List (Tab (Int × Bool) × Tab (Int × Bool)) :=
  (List.range 4).map (fun i => vecCodes (s.levels n) (s.rangeK n) (s.segen n) (unitInp s n u.unit i) (2 * i) noise)

/-- The responses that a unit leaves, and the state with its clamps counted; the fourth unit reads the closing pair. -/
def unitRead (s : State) (n : Nat) (u : Churn) (noise : List (Nat × Int)) : Tab Resp × State :=
  let s1 := (unitCodes s n u noise).foldl (fun t c => countClamps n 1 c.2 (countClamps n 0 c.1 t)) s
  if u.unit = 3 then lightPair s1 n 8 noise else (u.resp, s1)

theorem unitRead_spec (s : State) (n : Nat) (u : Churn) (noise : List (Nat × Int)) : SameBut (evParts ++ [.regs]) s (unitRead s n u noise).2
    ∧ RegsBut [Reg.ARR_CLAMP_CNT n, Reg.ARR_CLAMP_LAST n] s (unitRead s n u noise).2 ∧ LogGrows s (unitRead s n u noise).2 := by
  have hfold : ∀ (l : List (Tab (Int × Bool) × Tab (Int × Bool))) (t : State), SameBut (evParts ++ [.regs]) t (l.foldl (fun t c => countClamps n 1 c.2 (countClamps n 0 c.1 t)) t)
      ∧ RegsBut [Reg.ARR_CLAMP_CNT n, Reg.ARR_CLAMP_LAST n] t (l.foldl (fun t c => countClamps n 1 c.2 (countClamps n 0 c.1 t)) t)
      ∧ LogGrows t (l.foldl (fun t c => countClamps n 1 c.2 (countClamps n 0 c.1 t)) t) := by
    intro l
    induction l with
    | nil => exact fun t => ⟨SameBut.refl _ t, RegsBut.refl _ t, LogGrows.refl t⟩
    | cons c r ih =>
      intro t
      obtain ⟨h1, h2, h3⟩ := countClamps_spec n 0 c.1 t
      obtain ⟨k1, k2, k3⟩ := countClamps_spec n 1 c.2 (countClamps n 0 c.1 t)
      obtain ⟨i1, i2, i3⟩ := ih (countClamps n 1 c.2 (countClamps n 0 c.1 t))
      exact ⟨(h1.trans k1).trans i1, (h2.trans k2).trans i2, (h3.trans k3).trans i3⟩
  obtain ⟨h1, h2, h3⟩ := hfold (unitCodes s n u noise) s
  unfold unitRead
  extract_lets s1
  split
  · obtain ⟨k1, k2, k3⟩ := lightPair_spec s1 n 8 noise
    exact ⟨h1.trans k1, h2.trans k2, h3.trans k3⟩
  · exact ⟨h1, h2, h3⟩

/-- The churn after a unit. -/
def Churn.unitDone (u : Churn) (raws : List (Tab Int)) (r : Tab Resp) : Churn := { u with unit := u.unit + 1, raws := u.raws ++ raws, resp := r }

/-- The row codes after a unit. -/
def unitLast (s : State) (n : Nat) (u : Churn) : List Int := if u.unit = 3 then lightLast s n else (unitInp s n u.unit 3).map (rowCode 2 1)

/-- The adder-tree sums of a unit's probes. -/
def unitSums (s : State) (n : Nat) (u : Churn) (noise : List (Nat × Int)) : List (Tab Int) := (unitCodes s n u noise).map (vecSums (s.rangeK n))

/-- What follows a unit. -/
def unitAfter (n : Nat) (last : List Int) (out : Bool) (four : Bool) (v : Churn) (s : State) : State :=
  if out then nextUnit n last (restartChurn n v v.unit s)
  else if four then freeGo (n / 64) (releaseArr n last (setChurn n { v with live := false, post := true } s))
  else nextUnit n last (setChurn n v s)

theorem exec_fullChurnUnitEnd (a : ArrId) (noise : List (Nat × Int)) (hup : s.coreUp (a.val / 64) = true) (hcur : (s.arr a.val).chn.cur = some u) (hfull : u.full = true) (hlive : u.live = true)
    (hpost : u.post = false) : exec (.fullChurnUnitEnd a noise) s = .next (unitAfter a.val (unitLast s a.val u) (outOfWindow s a.val u) (decide (u.unit = 3))
      (u.unitDone (unitSums s a.val u noise) (unitRead s a.val u noise).1) (unitRead s a.val u noise).2) := by
  have harr : (unitRead s a.val u noise).2.arr a.val = s.arr a.val := (unitRead_spec s a.val u noise).1.arr (by decide) _
  have hd : exec (.fullChurnUnitEnd a noise) s = execFullChurnUnitEnd a noise s := rfl
  rw [hd]
  unfold execFullChurnUnitEnd State.when
  dsimp only
  rw [if_pos hup, hcur]
  dsimp only
  rw [if_neg (by rw [hfull, hlive, hpost]; decide)]
  unfold unitAfter setChurn
  rw [harr]
  simp only [decide_eq_true_eq]
  rfl

theorem nextUnit_spec (n : Nat) (last : List Int) {s : State} {v : Churn} (h : (s.arr n).chn.cur = some v) : SameBut [.arrs] s (nextUnit n last s)
    ∧ ∃ l, ((nextUnit n last s).arr n).chn.cur = some { v with live := l } := by
  unfold nextUnit
  dsimp only
  split
  · exact ⟨SameBut.refl _ s, v.live, h⟩
  · refine ⟨(s.setArr_same _ _).trans (releaseArr_same n _ last), false, ?_⟩
    rw [(releaseArr_chn n _ last).1, State.arr_setArr_self]
    dsimp only
    rw [h]
    rfl

theorem fullChurnUnitEnd_spec (a : ArrId) (noise : List (Nat × Int)) (hup : s.coreUp (a.val / 64) = true) (hcur : (s.arr a.val).chn.cur = some u) (hfull : u.full = true) (hlive : u.live = true)
    (hpost : u.post = false) : ∃ t v, exec (.fullChurnUnitEnd a noise) s = .next t ∧ (t.arr a.val).chn.cur = some v ∧ v.full = true
      ∧ (outOfWindow s a.val u = false → v.unit = u.unit + 1 ∧ v.raws.length = u.raws.length + 4 ∧ v.raws.take u.raws.length = u.raws ∧ v.post = decide (u.unit = 3))
      ∧ (outOfWindow s a.val u = true → v.unit = 0 ∧ v.raws = [] ∧ v.post = false ∧ RaisedAmong 0x0408 s t
        ∧ t.reg (Reg.CHN_RESTART_CNT (a.val / 64)) = satAdd (s.reg (Reg.CHN_RESTART_CNT (a.val / 64))) 1) := by
  have hex := exec_fullChurnUnitEnd a noise hup hcur hfull hlive hpost
  obtain ⟨hr1, hr2, hr3⟩ := unitRead_spec s a.val u noise
  have hlen : (unitSums s a.val u noise).length = 4 := by rw [unitSums, unitCodes]; simp
  generalize unitSums s a.val u noise = raws at hex hlen
  generalize (unitRead s a.val u noise).1 = r at hex
  generalize (unitRead s a.val u noise).2 = w at hex hr1 hr2 hr3
  generalize unitLast s a.val u = last at hex
  have hraws : (u.raws ++ raws).length = u.raws.length + 4 ∧ (u.raws ++ raws).take u.raws.length = u.raws := ⟨by simp [hlen], by simp⟩
  cases hout : outOfWindow s a.val u with
  | true =>
    rw [hout, unitAfter, if_pos rfl] at hex
    obtain ⟨h1, -, h3, h4, -, -⟩ := restartChurn_spec a.val (u.unitDone raws r) (u.unitDone raws r).unit w
    generalize restartChurn a.val (u.unitDone raws r) (u.unitDone raws r).unit w = z at hex h1 h3 h4
    obtain ⟨hn1, l, hn2⟩ := nextUnit_spec a.val last (s := z) (v := (u.unitDone raws r).again w a.val) (by rw [h1]; rfl)
    refine ⟨_, _, hex, hn2, hfull, fun h => absurd h (by simp), fun _ => ⟨rfl, rfl, hpost, (hr3.raised h3).grows hn1.logGrows, ?_⟩⟩
    rw [hn1.reg (by decide), h4, hr2 _ (by
      simp only [List.mem_cons, List.not_mem_nil, or_false, not_or, Reg.CHN_RESTART_CNT, Reg.ARR_CLAMP_CNT, Reg.ARR_CLAMP_LAST, baseChn, baseArr, coreBase]
      omega)]
  | false =>
    rw [hout, unitAfter, if_neg (by decide)] at hex
    by_cases h3 : u.unit = 3
    · rw [if_pos (decide_eq_true h3)] at hex
      have hchn : ((releaseArr a.val last (setChurn a.val { u.unitDone raws r with live := false, post := true } w)).arr a.val).chn.cur = some { u.unitDone raws r with live := false, post := true } := by
        rw [(releaseArr_chn _ _ _).1, setChurn_arr]
        rfl
      have hsome : ((releaseArr a.val last (setChurn a.val { u.unitDone raws r with live := false, post := true } w)).arr a.val).chn.cur.isSome = true := by rw [hchn]; rfl
      have hgo := freeGo_chn (a.val / 64) ⟨.inl hsome, .inr (.inl hsome)⟩
      exact ⟨_, { u.unitDone raws r with live := false, post := true }, hex, by rw [hgo, hchn], hfull, fun _ => ⟨rfl, hraws.1, hraws.2, (decide_eq_true h3).symm⟩, fun h => absurd h (by simp)⟩
    · rw [if_neg (by simpa using h3)] at hex
      obtain ⟨-, l, hn2⟩ := nextUnit_spec a.val last (s := setChurn a.val (u.unitDone raws r) w) (v := u.unitDone raws r) (by rw [setChurn_arr]; rfl)
      exact ⟨_, _, hex, hn2, hfull, fun _ => ⟨rfl, hraws.1, hraws.2, hpost.trans (decide_eq_false h3).symm⟩, fun h => absurd h (by simp)⟩

end

/-! ## An abandoned churn -/

section
variable {s : State} {n : Nat}

/-- The array as an abandoned churn leaves it. -/
def Arr.abandoned (x : Arr) (owes : Bool) : Arr :=
  { x with chn := { x.chn with cur := none }, st := if x.st = .churn then (if owes then .bias else .ready) else x.st, settled := if x.st = .churn then owes else x.settled }

theorem firstDue_arr (n : Nat) (s : State) : ∃ due, (firstDue n s).arr n = { s.arr n with chn := { (s.arr n).chn with due := due } } := by
  unfold firstDue State.when
  split
  · obtain ⟨due, h, -⟩ := makeDue_arr n 1 s
    exact ⟨due, h⟩
  · exact ⟨_, rfl⟩

theorem firstDue_same (n : Nat) (s : State) : SameBut [.arrs] s (firstDue n s) := sameBut_ite (makeDue_same n 1 s) (SameBut.refl _ s)

theorem abandon_spec (n : Nat) (s : State) : (∃ due, (abandon n s).arr n = { (s.arr n).abandoned (s.owes n) with chn := { ((s.arr n).abandoned (s.owes n)).chn with due := due } })
    ∧ Raised 0x0405 s (abandon n s) ∧ SameBut (evParts ++ [.arrs, .cores]) s (abandon n s) := by
  obtain ⟨y, hy⟩ : ∃ y, y = s.setArr n ((s.arr n).abandoned (s.owes n)) := ⟨_, rfl⟩
  have heq : abandon n s = askEnd n 5 (firstDue n (y.raise 0x0405 2 (n / 64) (n + 2 ^ 32))) := by rw [hy]; rfl
  have h1 : SameBut [.arrs] s y := hy ▸ s.setArr_same _ _
  have h2 := y.raise_same 0x0405 2 (n / 64) (n + 2 ^ 32)
  have h3 := firstDue_same n (y.raise 0x0405 2 (n / 64) (n + 2 ^ 32))
  have h4 : SameBut [.cores] (firstDue n (y.raise 0x0405 2 (n / 64) (n + 2 ^ 32))) (askEnd n 5 (firstDue n (y.raise 0x0405 2 (n / 64) (n + 2 ^ 32)))) := State.setCore_same _ _ _
  rw [heq]
  refine ⟨?_, ?_, (((h1.mono (by decide)).trans (h2.mono (by decide))).then h3).then h4⟩
  · obtain ⟨due, hdue⟩ := firstDue_arr n (y.raise 0x0405 2 (n / 64) (n + 2 ^ 32))
    refine ⟨due, ?_⟩
    rw [askEnd_arr, hdue, h2.arr (by decide), hy, State.arr_setArr_self]
  · have := raised_from (h1 .ev (by decide)) (y.raise_raised 0x0405 2 (n / 64) (n + 2 ^ 32))
    rwa [Raised, ← h3 .ev (by decide), ← h4 .ev (by decide)] at this

theorem exec_fullChurnFit_none (a : ArrId) {u : Churn} (readable : Bool) (sigma : W32) (hup : s.coreUp (a.val / 64) = true) (hcur : (s.arr a.val).chn.cur = some u) (hfull : u.full = true)
    (hpost : u.post = true) (h : readable = false ∨ s.refOk a.val = false) : exec (.fullChurnFit a readable sigma) s = .next (freeGo (a.val / 64) (abandon a.val s)) := by
  have hd : exec (.fullChurnFit a readable sigma) s = execFullChurnFit a readable sigma s := rfl
  have hf : (Tab.find? s.refs a.val).filter (fun _ => readable && s.refOk a.val) = none := by
    have : (readable && s.refOk a.val) = false := by
      obtain h | h := h
      · rw [h]; rfl
      · rw [h, Bool.and_false]
    rw [this]
    cases Tab.find? s.refs a.val <;> rfl
  rw [hd]
  unfold execFullChurnFit State.when
  rw [if_pos hup, hcur]
  dsimp only
  rw [if_neg (by rw [hfull, hpost]; decide), hf]

theorem exec_fullChurnFit_some (a : ArrId) {u : Churn} {r : ProbeRef} (sigma : W32) (hup : s.coreUp (a.val / 64) = true) (hcur : (s.arr a.val).chn.cur = some u) (hfull : u.full = true)
    (hpost : u.post = true) (hok : s.refOk a.val = true) (hr : Tab.find? s.refs a.val = some r) : exec (.fullChurnFit a true sigma) s = .next (completeFull a.val u r sigma s) := by
  have hd : exec (.fullChurnFit a true sigma) s = execFullChurnFit a true sigma s := rfl
  rw [hd]
  unfold execFullChurnFit State.when
  rw [if_pos hup, hcur]
  dsimp only
  rw [if_neg (by rw [hfull, hpost]; decide), hr, hok]
  rfl

theorem fullChurnAbandon_spec (a : ArrId) {u : Churn} (readable : Bool) (sigma : W32) (hup : s.coreUp (a.val / 64) = true) (hcur : (s.arr a.val).chn.cur = some u) (hfull : u.full = true)
    (hpost : u.post = true) (hnone : NoneWait s (a.val / 64)) (h : readable = false ∨ s.refOk a.val = false) (ho : s.owes a.val = false ∨ s.refOk a.val = false) :
    ∃ t, exec (.fullChurnFit a readable sigma) s = .next t ∧ (t.arr a.val).chn.cur = none
      ∧ (t.arr a.val).st = (if (s.arr a.val).st = .churn then (if s.owes a.val then .bias else .ready) else (s.arr a.val).st)
      ∧ Raised 0x0405 s t ∧ (∀ b, b ≠ a.val → t.arr b = s.arr b) ∧ SameBut (evParts ++ [.arrs, .cores]) s t := by
  have hex := exec_fullChurnFit_none a readable sigma hup hcur hfull hpost h
  obtain ⟨⟨due, harr⟩, hraised, hsame⟩ := abandon_spec a.val s
  have hasks := (abandon_churnStep s a.val).asks
  have hne : ∀ b, b ≠ a.val → (abandon a.val s).arr b = s.arr b := fun b hb => abandon_arr_ne s hb
  generalize abandon a.val s = t at hex harr hraised hsame hasks hne
  have hmay : MayKept s t := hsame.mayKept (hsame.reg (by decide) _) hasks
  have hid : freeGo (a.val / 64) t = t := by
    refine freeGo_of_rests (fun b hb => ?_) (hasks.tests_nil hnone.2.1)
    by_cases hba : b = a.val
    · subst hba
      refine .inr ⟨?_, by rw [harr]; exact (hnone.2.2 _ rfl).1, hasks.churns_nil hnone.1⟩
      have howes : t.owes a.val = s.owes a.val := hmay.owes (by rw [harr]; rfl)
      have hst : (t.arr a.val).st ≠ .churn := by
        rw [harr]
        simp only [Arr.abandoned]
        split
        · split <;> simp
        · next h => exact h
      unfold firstMay
      dsimp only
      rw [howes, hmay.ok]
      obtain ho | ho := ho
      · rw [ho]; rfl
      · rw [ho]
        simp [hst]
    · exact hmay.rests hnone hb (hne b hba)
  rw [hid] at hex
  exact ⟨t, hex, by rw [harr]; rfl, by rw [harr]; rfl, hraised, hne, hsame⟩

end

/-! ## What a fit leaves of an array's registers -/

/-- The registers that a fit sets for its array, and those of the press that its steps set. -/
abbrev fitRegs (n : Nat) : List Nat :=
  [Reg.CHN_FULL_CNT (n / 64), Reg.CHN_LIGHT_CNT (n / 64), Reg.ARR_CHK_SIGMA n, Reg.PRS_PRESS_CNT, Reg.PRS_FAIL_CNT, Reg.PRS_STAT]

/-- A step that leaves the churn, state and press of every array, the corrections, the press and the registers of `fitRegs`. -/
structure FitStep (n : Nat) (s t : State) : Prop where
  arrs : ∀ b, (t.arr b).chn = (s.arr b).chn ∧ (t.arr b).st = (s.arr b).st ∧ (t.arr b).press = (s.arr b).press
  cors : t.cors = s.cors
  prs : t.prs = s.prs
  log : LogGrows s t
  regs : ∀ a ∈ fitRegs n, t.reg a = s.reg a

section
variable {n : Nat} {s t u : State}

theorem FitStep.refl (n : Nat) (s : State) : FitStep n s s := ⟨fun _ => ⟨rfl, rfl, rfl⟩, rfl, rfl, LogGrows.refl s, fun _ _ => rfl⟩

theorem FitStep.trans (h : FitStep n s t) (k : FitStep n t u) : FitStep n s u :=
  ⟨fun b => ⟨(k.arrs b).1.trans (h.arrs b).1, (k.arrs b).2.1.trans (h.arrs b).2.1, (k.arrs b).2.2.trans (h.arrs b).2.2⟩, k.cors.trans h.cors, k.prs.trans h.prs, h.log.trans k.log, fun a ha => (k.regs a ha).trans (h.regs a ha)⟩

theorem fitStep_ite {c : Prop} [Decidable c] (ht : FitStep n s t) (hu : FitStep n s u) : FitStep n s (if c then t else u) := by
  split
  · exact ht
  · exact hu

theorem FitStep.foldl {α : Type} {f : State → α → State} (h : ∀ t a, FitStep n t (f t a)) (l : List α) (s : State) : FitStep n s (l.foldl f s) := by
  induction l generalizing s with
  | nil => exact FitStep.refl n s
  | cons a r ih => exact (h s a).trans (ih _)

/-- A step that leaves the arrays, the corrections and the press. -/
theorem SameBut.fitStep {l : List Piece} (h : SameBut l s t) (hlog : LogGrows s t) (hregs : ∀ a ∈ fitRegs n, t.reg a = s.reg a) (h1 : .arrs ∉ l := by decide) (h2 : .cors ∉ l := by decide)
    (h3 : .prs ∉ l := by decide) : FitStep n s t := ⟨fun b => by rw [h.arr h1]; exact ⟨rfl, rfl, rfl⟩, h .cors h2, h .prs h3, hlog, hregs⟩

/-- One that leaves the events and the registers too. -/
theorem SameBut.fitStep' {l : List Piece} (h : SameBut l s t) (h1 : .arrs ∉ l := by decide) (h2 : .cors ∉ l := by decide) (h3 : .prs ∉ l := by decide) (h4 : .ev ∉ l := by decide)
    (h5 : .regs ∉ l := by decide) : FitStep n s t := h.fitStep (h.logGrows h4) (fun a _ => h.reg h5 a) h1 h2 h3

theorem RegsBut.fit {l : List Nat} (h : RegsBut l s t) (hl : ∀ a ∈ fitRegs n, a ∉ l) : ∀ a ∈ fitRegs n, t.reg a = s.reg a := fun a ha => h a (hl a ha)

theorem fitRegs_ecc (hn : n < 2048) : ∀ a ∈ fitRegs n, a ∉ eccRegs := by
  intro a ha
  simp only [List.mem_cons, List.not_mem_nil, or_false] at ha
  obtain rfl | rfl | rfl | rfl | rfl | rfl := ha <;>
  · simp only [List.mem_cons, List.not_mem_nil, or_false, not_or, Reg.CHN_FULL_CNT, Reg.CHN_LIGHT_CNT, Reg.ARR_CHK_SIGMA, Reg.PRS_PRESS_CNT, Reg.PRS_FAIL_CNT, Reg.PRS_STAT, basePrs, baseChn, baseArr, coreBase, Reg.TNK_ECC_CNT, Reg.TST_HEALTH, Reg.TNK_ERR,
      Reg.TNK_UNC_ADDR, baseTnk, baseTst]
    omega

theorem fitRegs_gate (hn : n < 2048) (st : Nat) : ∀ a ∈ fitRegs n, a ∉ gateRegs st := by
  intro a ha
  have h := fitRegs_ecc hn a ha
  simp only [List.mem_cons, List.not_mem_nil, or_false] at ha
  refine fun hg => ?_
  rcases List.mem_cons.mp hg with hg | hg
  · obtain rfl | rfl | rfl | rfl | rfl | rfl := ha <;>
    · simp only [Reg.CHN_FULL_CNT, Reg.CHN_LIGHT_CNT, Reg.ARR_CHK_SIGMA, Reg.PRS_PRESS_CNT, Reg.PRS_FAIL_CNT, Reg.PRS_STAT, basePrs, baseChn, baseArr, coreBase, Reg.SEQ_STRM_GAPS, baseStrm] at hg
      omega
  · rcases List.mem_cons.mp hg with hg | hg
    · obtain rfl | rfl | rfl | rfl | rfl | rfl := ha <;>
      · simp only [Reg.CHN_FULL_CNT, Reg.CHN_LIGHT_CNT, Reg.ARR_CHK_SIGMA, Reg.PRS_PRESS_CNT, Reg.PRS_FAIL_CNT, Reg.PRS_STAT, basePrs, baseChn, baseArr, coreBase, Reg.SEQ_STRM_RELS, baseStrm] at hg
        omega
    · exact h hg

/-- The registers that a fit sets are none of those of the accumulators, the arrays' other counters or the layer maps. -/
theorem fitRegs_ne {b : Nat} (h : b % 0x40000 < 0x20000 ∨ 0x24000 ≤ b % 0x40000) (h2 : b % 0x100 ≠ 0x24 ∨ 0x14000 ≤ b % 0x40000) : b ∉ fitRegs n := by
  intro ha
  simp only [List.mem_cons, List.not_mem_nil, or_false, Reg.CHN_FULL_CNT, Reg.CHN_LIGHT_CNT, Reg.ARR_CHK_SIGMA, Reg.PRS_PRESS_CNT, Reg.PRS_FAIL_CNT, Reg.PRS_STAT, basePrs, baseChn, baseArr, coreBase] at ha
  omega

variable (s)

theorem State.setReg_fitStep {b : Nat} (v : W32) (h : b ∉ fitRegs n) : FitStep n s (s.setReg b v) :=
  (s.setReg_same b v).fitStep (s.setReg_same b v).logGrows (fun a ha => State.reg_setReg_ne _ _ fun he => h (he ▸ ha))

theorem State.raise_fitStep (code sev src pay : Nat) : FitStep n s (s.raise code sev src pay) :=
  (s.raise_same _ _ _ _).fitStep (s.raise_logGrows _ _ _ _) (fun a _ => s.raise_reg _ _ _ _ a)

theorem State.incReg_fitStep {b : Nat} (k : Nat) (h : b ∉ fitRegs n) : FitStep n s (s.incReg b k) := s.setReg_fitStep _ h

/-- A change of an array's record that keeps its churn, state and press. -/
theorem State.setArr_fitStep (b : Nat) (x : Arr) (h1 : x.chn = (s.arr b).chn) (h2 : x.st = (s.arr b).st) (h3 : x.press = (s.arr b).press) : FitStep n s (s.setArr b x) := by
  have hs := s.setArr_same b x
  refine ⟨fun c => ?_, hs .cors (by decide), hs .prs (by decide), hs.logGrows, fun a _ => hs.reg (by decide) a⟩
  by_cases hc : c = b
  · subst hc; rw [State.arr_setArr_self]; exact ⟨h1, h2, h3⟩
  · rw [State.arr_setArr_ne _ _ hc]; exact ⟨rfl, rfl, rfl⟩

theorem State.onCtx_fitStep (i : Nat) (f : Ctx → Ctx) : FitStep n s (s.onCtx i f) := (s.setCtx_same i _).fitStep'

theorem State.endWork_fitStep (i id : Nat) : FitStep n s (s.endWork i id) := (s.endWork_same i id).fitStep'

section
variable (hn : n < 2048)
include hn

theorem State.readFx_fitStep (sp a k port kind : Nat) : FitStep n s (s.readFx sp a k port kind) :=
  (s.readFx_same _ _ _ _ _).fitStep (s.readFx_logGrows _ _ _ _ _) ((s.readFx_regsBut _ _ _ _ _).fit (fitRegs_ecc hn))

theorem State.writeFx_fitStep (sp a : Nat) (bs : List Byte) (port : Nat) : FitStep n s (s.writeFx sp a bs port) :=
  (s.writeFx_same _ _ _ _).fitStep (s.writeFx_logGrows _ _ _ _) ((s.writeFx_regsBut _ _ _ _).fit (fitRegs_ecc hn))

theorem State.poison_fitStep (i : Nat) : FitStep n s (s.poison i) := by
  have h := s.poison_gateStep i
  refine (s.poison_same i).fitStep h.log ?_
  unfold State.poison
  extract_lets s1
  have h1 : SameBut [.ctxs] s s1 := s.setCtx_same _ _
  split
  · exact fun a _ => h1.reg (by decide) a
  · next st k _ =>
    have hm : RegsBut (gateRegs st) s1 (s1.markPoison st k) := ((s1.mapSeq_same _ _ _).regsBut _).trans (State.flush_regsBut _ _)
    exact ((h1.regsBut _).trans hm).fit (fitRegs_gate hn st)

theorem State.poisonIf_fitStep (i : Nat) (b : Bool) : FitStep n s (s.poisonIf i b) := fitStep_ite (s.poison_fitStep hn i) (FitStep.refl n s)

end

/-! ## Delivery on a failed array -/

theorem accErr_not_fit (i : Nat) : Reg.ACC_ERR (i / 4) ∉ fitRegs n := by
  refine fitRegs_ne ?_ ?_ <;>
  · unfold Reg.ACC_ERR baseAcc coreBase
    omega

theorem State.accErr_fitStep (i b : Nat) : FitStep n s (s.accErr i b) := (s.setReg_fitStep _ (accErr_not_fit i)).trans (State.setReg_fitStep _ _ (accErr_not_fit i))

theorem State.residue_fitStep (a : Nat) : FitStep n s (s.residue a 6) := by
  unfold State.residue
  refine FitStep.trans (State.incReg_fitStep s 1 (b := Reg.ARR_RES_CNT a) (fitRegs_ne ?_ ?_)) (State.raise_fitStep _ _ _ _ _) <;>
  · unfold Reg.ARR_RES_CNT baseArr coreBase
    omega

section
variable (hn : n < 2048)
include hn

theorem State.putBytes_fitStep (core port sp a : Nat) (bs : List Byte) : FitStep n s (s.putBytes core port sp a bs).1 := by
  unfold State.putBytes
  split
  · exact FitStep.refl n s
  · exact s.writeFx_fitStep hn _ _ _ _

theorem State.putRow_fitStep (core port : Nat) (d : Desc) (ro rk c0 : Nat) (raws ents : List Nat) : FitStep n s (s.putRow core port d ro rk c0 raws ents).1 := by
  unfold State.putRow
  extract_lets r1 r2
  have h1 : FitStep n s r1.1 := s.putBytes_fitStep hn _ _ _ _ _
  split
  · exact h1
  · exact h1.trans (State.putBytes_fitStep _ hn _ _ _ _ _)

theorem State.putOut_fitStep (i : Nat) (d : Desc) (ro rk c0 : Nat) (r : CRow) : FitStep n s (s.putOut i d ro rk c0 r) := by
  unfold State.putOut
  extract_lets core raws w np ns
  have hw : FitStep n s w.1 := s.putRow_fitStep hn _ _ _ _ _ _ _ _
  have hp : Reg.ACC_POISON_CNT core ∉ fitRegs n := by
    refine fitRegs_ne ?_ ?_ <;>
    · unfold Reg.ACC_POISON_CNT baseAcc coreBase
      omega
  have hs : Reg.ACC_SAT_CNT core ∉ fitRegs n := by
    refine fitRegs_ne ?_ ?_ <;>
    · unfold Reg.ACC_SAT_CNT baseAcc coreBase
      omega
  exact ((hw.trans (State.incReg_fitStep _ np hp)).trans (State.incReg_fitStep _ ns hs)).trans (State.poisonIf_fitStep _ hn _ _)

theorem readDirect_fitStep (core off : Nat) : FitStep n s (readDirect core off s).1 := by
  unfold readDirect
  extract_lets o bad0 s1 t bad1 s2
  have h1 : FitStep n s s1 := s.readFx_fitStep hn _ _ _ _ _
  split
  · exact h1
  · split
    · exact h1
    · split
      · exact h1
      · exact h1.trans (s1.readFx_fitStep hn _ _ _ _ _)

theorem directOut_fitStep (a : Nat) (r : Run) (hit : List Nat) (vals : List Int) (tags : List Nat) : FitStep n s (directOut a r hit vals tags s) := by
  unfold directOut
  extract_lets core i d k put
  have hput : ∀ (t : State) (y : CRow), FitStep n t (put t y) := fun t y => t.putOut_fitStep hn _ _ _ _ _ _
  clear_value put
  split
  next s1 o hread =>
  have h0 : FitStep n s s1 := by
    split at hread
    · rw [← (Prod.mk.inj hread).1]
      exact FitStep.refl n s
    · have := readDirect_fitStep s hn core r.cmd.ost
      rwa [hread] at this
  extract_lets ents cause s2 s3 els row s4 x l
  have h2 : FitStep n s1 s2 := by
    have hc : ∀ c : Option Nat, FitStep n s1 (match c with
        | none => s1
        | some k => (s1.accErr i 6).raise 0x0207 2 core (core + 2 ^ 16 * (i % 4) + 2 ^ 24 * (a % 64) + 2 ^ 32 * r.cmd.ost + 2 ^ 64 * k)) := by
      intro c
      cases c with
      | none => exact FitStep.refl n s1
      | some k => exact (s1.accErr_fitStep i 6).trans (State.raise_fitStep _ _ _ _ _)
    exact hc cause
  have h3 : FitStep n s2 s3 := fitStep_ite (FitStep.refl n s2) (s2.readFx_fitStep hn _ _ _ _ _)
  have h4 : FitStep n s3 s4 := FitStep.foldl (fun t _ => t.residue_fitStep a) _ _
  have h : FitStep n s s4 := ((FitStep.trans h0 h2).trans h3).trans h4
  split
  · exact h.trans (hput _ _)
  · split
    · exact h.trans (s4.setArr_fitStep a _ rfl rfl rfl)
    · exact (h.trans (s4.setArr_fitStep a { x with pool := [] } rfl rfl rfl)).trans (hput _ _)

theorem deliver_fitStep (a : Nat) (r : Run) (hit : List Nat) (vals : List Int) (tags : List Nat) : FitStep n s (deliver a r hit vals tags s) := by
  unfold deliver
  extract_lets s0 x s1
  have h0 : FitStep n s s0 := s.setReg_fitStep _ (by
    refine fitRegs_ne ?_ ?_ <;>
    · unfold Reg.ARR_MVX_CNT baseArr coreBase
      omega)
  have h1 : FitStep n s0 s1 := by
    show FitStep n s0 (match r.cmd.gen with
      | none => directOut a r hit vals tags s0
      | some g =>
        if (s0.ctx r.cmd.ctx).tiles.any (fun t => t.gen == g) then
          let x := s0.arr a
          s0.setArr a { x with held := x.held ++ [Held.part ⟨r.cmd.ctx, r.cmd.id, g, r.cmd.vidx, r.cmd.coloff, r.cmd.pass, r.cmd.chpos, vals, r.slow, tags⟩] }
        else s0)
    split
    · exact directOut_fitStep s0 hn _ _ _ _ _
    · exact fitStep_ite (s0.setArr_fitStep a _ rfl rfl rfl) (FitStep.refl n s0)
  exact (h0.trans h1).trans (State.endWork_fitStep _ _ _)

end

end

theorem failRuns_fitStep {n : Nat} (hn : n < 2048) (a : Nat) (l : List Run) (s : State) : FitStep n s (failRuns a l s) := by
  induction l generalizing s with
  | nil => exact FitStep.refl n s
  | cons r rest ih =>
    unfold failRuns
    exact fitStep_ite ((deliver_fitStep s hn _ _ _ _ _).trans (ih _)) (s.setArr_fitStep a _ rfl rfl rfl)

/-! ## The store in a fit -/

section
variable {n : Nat} (hn : n < 2048)
include hn

theorem fitRegs_store : ∀ a ∈ fitRegs n, ¬ StoreReg a := by
  intro a ha
  simp only [List.mem_cons, List.not_mem_nil, or_false] at ha
  obtain rfl | rfl | rfl | rfl | rfl | rfl := ha <;>
  · simp only [StoreReg, Reg.CHN_FULL_CNT, Reg.CHN_LIGHT_CNT, Reg.ARR_CHK_SIGMA, Reg.PRS_PRESS_CNT, Reg.PRS_FAIL_CNT, Reg.PRS_STAT, basePrs, baseChn, baseArr, coreBase, Reg.NVS_ECC_CNT, Reg.NVS_UNC_CNT, Reg.NVS_UNC_LAST, baseNvs]
    omega

/-- A step of the store in a fit: it leaves all but the store, its registers and the events. -/
structure StoreFit (n : Nat) (s t : State) : Prop where
  same : SameBut [.regs, .ev, .hostMem, .pert, .nvs, .bases] s t
  log : LogGrows s t
  regs : ∀ a ∈ fitRegs n, t.reg a = s.reg a

omit hn in
theorem StoreFit.refl (s : State) : StoreFit n s s := ⟨SameBut.refl _ s, LogGrows.refl s, fun _ _ => rfl⟩

omit hn in
theorem StoreFit.trans {s t u : State} (h : StoreFit n s t) (k : StoreFit n t u) : StoreFit n s u := ⟨h.same.trans k.same, h.log.trans k.log, fun a ha => (k.regs a ha).trans (h.regs a ha)⟩

omit hn in
theorem storeFit_ite {c : Prop} [Decidable c] {s t u : State} (ht : StoreFit n s t) (hu : StoreFit n s u) : StoreFit n s (if c then t else u) := by
  split
  · exact ht
  · exact hu

omit hn in
theorem State.raise_storeFit (s : State) (code sev src pay : Nat) : StoreFit n s (s.raise code sev src pay) :=
  ⟨(s.raise_same _ _ _ _).mono (by decide), s.raise_logGrows _ _ _ _, fun a _ => s.raise_reg _ _ _ _ a⟩

omit hn in
theorem StoreFit.foldl {α : Type} {f : State → α → State} (h : ∀ t a, StoreFit n t (f t a)) (l : List α) (s : State) : StoreFit n s (l.foldl f s) := by
  induction l generalizing s with
  | nil => exact StoreFit.refl s
  | cons a r ih => exact (h s a).trans (ih _)

theorem NvsStep.fit {s t : State} (h : NvsStep s t) (hlog : LogGrows s t) : StoreFit n s t := ⟨h.same.mono (by decide), hlog, fun a ha => h.regs a (fitRegs_store hn a ha)⟩

theorem State.nvsPut_storeFit (s : State) (cs : List NvsCmd) : StoreFit n s (s.nvsPut cs) := (s.nvsPut_nvsStep cs).fit hn (s.nvsPut_storeStep cs).log

theorem retireAll_storeFit (a : Nat) (l : List Nat) (s : State) : StoreFit n s (retireAll a l s).1 := by
  induction l generalizing s with
  | nil => exact StoreFit.refl s
  | cons c r ih =>
    have ho : ∀ t, s.retire a c = some t → StoreFit n s t := by
      intro t ht
      unfold State.retire at ht
      dsimp only at ht
      split at ht
      · rw [← Option.some.inj ht]; exact StoreFit.refl s
      · split at ht
        · rw [← Option.some.inj ht]; exact s.nvsPut_storeFit hn _
        · exact absurd ht (by simp)
    unfold retireAll
    dsimp only
    refine StoreFit.trans ?_ (ih _)
    cases h : s.retire a c with
    | none => exact s.raise_storeFit _ _ _ _
    | some t => exact ho t h

theorem writeBases_storeFit (page : Nat) (s : State) : StoreFit n s (writeBases page s) := by
  unfold writeBases
  extract_lets o mine starts m
  have hb : SameBut [.bases] s { s with bases := Tab.keep s.bases (fun b => !mine.contains b) } := fun p hp => by cases p <;> first | rfl | exact absurd (by decide) hp
  exact (show StoreFit n _ _ from ⟨hb.mono (by decide), hb.logGrows, fun a _ => hb.reg (by decide) a⟩).trans (State.nvsPut_storeFit hn _ _)

theorem flushBases_storeFit (s : State) : StoreFit n s (flushBases s) := StoreFit.foldl (fun t _ => writeBases_storeFit hn _ t) _ _

theorem writeBaseline_storeFit (a : Nat) (g : W32) (s : State) : StoreFit n s (writeBaseline a g s) := by
  have hb : SameBut [.bases] s { s with bases := Tab.insert s.bases a g } := fun p hp => by cases p <;> first | rfl | exact absurd (by decide) hp
  exact (show StoreFit n _ _ from ⟨hb.mono (by decide), hb.logGrows, fun a _ => hb.reg (by decide) a⟩).trans (flushBases_storeFit hn _)

theorem baseline_storeFit (a : Nat) (u : Churn) (owed : Bool) (s : State) : StoreFit n s (baseline a u owed s) := by
  unfold baseline
  extract_lets g born t e old ratio far
  have ht : StoreFit n s t := storeFit_ite ((s.nvsRead_nvsStep 3 _ 8).fit hn (s.nvsRead_storeStep 3 _ 8).log) (StoreFit.refl s)
  clear_value far ratio old e t born
  refine storeFit_ite (ht.trans (StoreFit.trans ?_ (writeBaseline_storeFit hn _ _ _))) ?_
  · exact storeFit_ite (t.raise_storeFit _ _ _ _) (StoreFit.refl t)
  · split
    · exact ht.trans (storeFit_ite (writeBaseline_storeFit hn _ _ t) (flushBases_storeFit hn t))
    · exact ht.trans (flushBases_storeFit hn t)

/-! ## A failed array -/

theorem State.health_fitStep (s : State) (b : Nat) : FitStep n s (s.health b) := by
  unfold State.health
  refine fitStep_ite (FitStep.refl n s) ((s.setReg_fitStep _ ?_).trans (State.raise_fitStep _ _ _ _ _))
  have := fitRegs_ecc hn
  exact fun h => this _ h (by decide)

omit hn in
theorem State.mapEntries_fitStep (s : State) (p : Nat → BitVec 128 → Bool) (f : BitVec 128 → BitVec 128) : FitStep n s (s.mapEntries p f) := by
  have hset : ∀ (u : State) (c i : Nat), i < 1024 → ∀ e, FitStep n u (u.setEntry c i e) := by
    intro u c i hi e
    refine (u.setEntry_same c i e).fitStep (u.setEntry_same c i e).logGrows (fun a ha => u.setEntry_regsBut c i e a fun hm => ?_)
    obtain ⟨w, hw, rfl⟩ := List.mem_map.mp hm
    have hw4 := List.mem_range.mp hw
    refine fitRegs_ne (n := n) (b := entAddr c i w) ?_ ?_ ha <;>
    · unfold entAddr coreBase
      omega
  have hin : ∀ (l : List Nat), (∀ i ∈ l, i < 1024) → ∀ (c : Nat) (t : State), FitStep n t (l.foldl (fun u i =>
      let e := u.entry c i
      if eVALID e && p c e then u.setEntry c i (f e) else u) t) := by
    intro l
    induction l with
    | nil => exact fun _ c t => FitStep.refl n t
    | cons i r ih =>
      intro hl c t
      exact FitStep.trans (fitStep_ite (hset t c i (hl i List.mem_cons_self) _) (FitStep.refl n t)) (ih (fun j hj => hl j (List.mem_cons_of_mem _ hj)) c _)
  exact FitStep.foldl (fun t c => hin _ (fun i hi => List.mem_range.mp hi) c t) _ _

end

/-- A step of a fit that may change the press. -/
structure FailStep (n : Nat) (s t : State) : Prop where
  arrs : ∀ b, (t.arr b).chn = (s.arr b).chn ∧ (t.arr b).st = (s.arr b).st ∧ (t.arr b).press = (s.arr b).press
  cors : t.cors = s.cors
  log : LogGrows s t
  regs : ∀ a ∈ fitRegs n, t.reg a = s.reg a

theorem FitStep.fails {n : Nat} {s t : State} (h : FitStep n s t) : FailStep n s t := ⟨h.arrs, h.cors, h.log, h.regs⟩

theorem FailStep.trans {n : Nat} {s t u : State} (h : FailStep n s t) (k : FailStep n t u) : FailStep n s u :=
  ⟨fun b => ⟨(k.arrs b).1.trans (h.arrs b).1, (k.arrs b).2.1.trans (h.arrs b).2.1, (k.arrs b).2.2.trans (h.arrs b).2.2⟩, k.cors.trans h.cors, h.log.trans k.log, fun a ha => (k.regs a ha).trans (h.regs a ha)⟩

theorem repairFor_failStep {n : Nat} (hn : n < 2048) (a : Nat) (s : State) : FailStep n s (repairFor a s) := by
  unfold repairFor
  split
  · exact (FitStep.refl n s).fails
  · extract_lets ps
    split
    · split
      · exact ⟨fun _ => ⟨rfl, rfl, rfl⟩, rfl, LogGrows.refl s, fun _ _ => rfl⟩
      · exact (((s.mapEntries_fitStep _ _).trans (State.raise_fitStep _ _ _ _ _)).trans (State.health_fitStep hn _ _)).fails
    · exact (FitStep.refl n s).fails

/-- Where the press does nothing, a failed array at most asks for a repair. -/
theorem failedArr_idle {s : State} (a : Nat) (h1 : s.prs.load = none) (h2 : s.prs.rld = none) (h3 : s.prs.reps = []) : failedArr a s = repairFor a s := by
  unfold failedArr State.loadPlaces
  rw [h1, h2, h3]
  rfl

/-- The array as its failure leaves it. -/
def Arr.faulted (x : Arr) : Arr :=
  { x with st := .fault, queue := [], cur := none, retry := none, codes := [], park := false, test := none, chn := { x.chn with cur := none } }

section
variable {n : Nat} (hn : n < 2048)
include hn

theorem State.askStatus_fitStep (s : State) (core k rst ctr entry kind code : Nat) : FitStep n s (s.askStatus core k rst ctr entry kind code) := by
  unfold State.askStatus
  extract_lets s1
  have h1 : FitStep n s s1 := (s.writeFx_fitStep hn 0 _ _ _).trans (State.poisonIf_fitStep _ hn _ _)
  exact h1.trans (fitStep_ite (s1.addSync_same _ _).fitStep' (s1.setCtx_same _ _).fitStep')

theorem State.finish_fitStep (s : State) (q : Nat) (c : HCmd) (st res : Nat) : FitStep n s (s.finish q c st res) :=
  (s.finish_same q c st res).fitStep (s.finish_storeStep q c st res).log (fun a _ => (s.finish_same q c st res).reg (by decide) a)

theorem reportTest_fitStep (core : Nat) (q : Ask) (code : Nat) (s : State) : FitStep n s (reportTest core q code s) := by
  unfold reportTest
  split
  · refine s.setReg_fitStep _ ?_
    simp only [List.mem_cons, List.not_mem_nil, or_false, not_or, Reg.CHN_FULL_CNT, Reg.CHN_LIGHT_CNT, Reg.ARR_CHK_SIGMA, Reg.PRS_PRESS_CNT, Reg.PRS_FAIL_CNT, Reg.PRS_STAT, basePrs, baseChn, baseArr, coreBase, Reg.TST_TREQ_STAT, baseTst]
    omega
  · exact s.askStatus_fitStep hn _ _ _ _ _ _ _
  · split
    · exact FitStep.refl n s
    · exact s.finish_fitStep hn _ _ _ _

theorem endTests_fitStep (a code : Nat) (p : Ask → Bool) (s : State) : FitStep n s (endTests a code p s) := by
  unfold endTests
  extract_lets c mine
  have h1 : FitStep n s (s.onTests c (fun l => l.filter (fun q => !mine q))) := (s.setCore_same _ _).fitStep'
  exact h1.trans (FitStep.foldl (fun t q => reportTest_fitStep hn c q code t) _ _)

theorem stopAsks_fitStep (a code : Nat) (s : State) : FitStep n s (stopAsks a code s) :=
  (State.setCore_same s _ _).fitStep'.trans (endTests_fitStep hn a code _ _)

end

/-- A fault: the array fails, its churn is over, and what a fit has set stays. -/
theorem enterFault_spec {n : Nat} (hn : n < 2048) (cause : Nat) {s : State} (h1 : s.prs.load = none) (h2 : s.prs.rld = none) (h3 : s.prs.reps = []) :
    ((enterFault n cause s).arr n).st = .fault ∧ ((enterFault n cause s).arr n).chn = { (s.arr n).chn with cur := none } ∧ (enterFault n cause s).cors = s.cors ∧ LogGrows s (enterFault n cause s)
      ∧ ∀ a ∈ fitRegs n, (enterFault n cause s).reg a = s.reg a := by
  obtain ⟨y, hy⟩ : ∃ y, y = s.setArr n (s.arr n).faulted := ⟨_, rfl⟩
  obtain ⟨todo, z, hz, heq⟩ : ∃ todo z, SameBut [.cores] y z ∧ enterFault n cause s = failedArr n (stopAsks n 4 (failRuns n todo (z.raise 0x0D03 2 0x100 (n + 2 ^ 16 * cause)))) := by
    refine ⟨_, _, ?_, rfl⟩
    rw [hy]
    exact sameBut_ite (State.setCore_same _ _ _) (SameBut.refl _ _)
  have hys : SameBut [.arrs] s y := hy ▸ s.setArr_same _ _
  have hya : y.arr n = (s.arr n).faulted := by rw [hy, State.arr_setArr_self]
  clear hy
  have hsame : SameBut [.arrs, .cores] s z := (hys.mono (by decide)).then hz
  have hfail := (z.raise_fitStep (n := n) 0x0D03 2 0x100 (n + 2 ^ 16 * cause)).trans (failRuns_fitStep hn n todo _)
  have hstop := hfail.trans (stopAsks_fitStep hn n 4 _)
  generalize stopAsks n 4 (failRuns n todo (z.raise 0x0D03 2 0x100 (n + 2 ^ 16 * cause))) = w at heq hstop
  have hprs : w.prs = s.prs := hstop.prs.trans (hsame .prs (by decide))
  have hlast := repairFor_failStep hn n w
  rw [failedArr_idle n (by rw [hprs]; exact h1) (by rw [hprs]; exact h2) (by rw [hprs]; exact h3)] at heq
  have hall := hstop.fails.trans hlast
  have hzn : z.arr n = (s.arr n).faulted := by rw [hz.arr (by decide), hya]
  rw [heq]
  exact ⟨by rw [(hall.arrs n).2.1, hzn]; rfl, by rw [(hall.arrs n).1, hzn]; rfl, hall.cors.trans (hsame .cors (by decide)), hsame.logGrows.trans hall.log,
    fun a ha => (hall.regs a ha).trans (hsame.reg (by decide) a)⟩

/-! ## The fit of every column -/

section
variable {α : Type} {F : α → W32} {d : W32} {bad : Nat → Bool} {j : Nat} {f : α}

/-- Sets a column's entry, unless the column fails. -/
def setColumn (F : α → W32) (d : W32) (bad : Nat → Bool) (g : Tab W32) (e : Nat × α) : Tab W32 := if bad e.1 then g else Tab.setD g e.1 d (F e.2)

theorem setColumn_other (g : Tab W32) (e : Nat × α) (h : bad j = true ∨ j ≠ e.1) : Tab.getD (setColumn F d bad g e) j d = Tab.getD g j d := by
  unfold setColumn
  split
  · rfl
  · next hb =>
    refine Tab.getD_setD_ne _ _ _ _ fun he => ?_
    subst he
    exact h.elim hb (fun h => h rfl)

theorem setColumn_self (g : Tab W32) (h : bad j = false) : Tab.getD (setColumn F d bad g (j, f)) j d = F f := by
  unfold setColumn
  rw [if_neg (by rw [h]; exact Bool.false_ne_true), Tab.getD_setD_self]

theorem foldl_setColumn_bad (l : List (Nat × α)) (g : Tab W32) (h : bad j = true) : Tab.getD (l.foldl (setColumn F d bad) g) j d = Tab.getD g j d := by
  induction l generalizing g with
  | nil => rfl
  | cons e r ih => rw [List.foldl_cons, ih, setColumn_other g e (.inl h)]

theorem foldl_setColumn_good (l : List (Nat × α)) (g : Tab W32) (h : bad j = false) (hf : ∀ e ∈ l, e.1 = j → e.2 = f) (hm : (∃ e ∈ l, e.1 = j) ∨ Tab.getD g j d = F f) :
    Tab.getD (l.foldl (setColumn F d bad) g) j d = F f := by
  induction l generalizing g with
  | nil => exact hm.resolve_left (by simp)
  | cons e r ih =>
    refine ih _ (fun x hx => hf x (List.mem_cons_of_mem _ hx)) ?_
    by_cases he : e.1 = j
    · refine .inr ?_
      obtain ⟨k, x⟩ := e
      obtain rfl : k = j := he
      rw [← hf _ List.mem_cons_self rfl]
      exact setColumn_self g h
    · refine hm.imp (fun ⟨x, hx, hxj⟩ => ⟨x, (List.mem_cons.mp hx).resolve_left (fun h => he (h ▸ hxj)), hxj⟩) (fun hg => ?_)
      rw [setColumn_other g e (.inr (Ne.symm he)), hg]

/-- The entries of the columns of a list: those that fail are as before. -/
theorem foldl_setColumn_zip (l : List α) (g : Tab W32) (hl : l[j]? = some f) :
    Tab.getD (((List.range l.length).zip l).foldl (setColumn F d bad) g) j d = if bad j then Tab.getD g j d else F f := by
  split
  · next h => exact foldl_setColumn_bad _ g h
  · next h =>
    obtain ⟨hj, hlj⟩ := List.getElem?_eq_some_iff.mp hl
    refine foldl_setColumn_good _ g (by simpa using h) (fun e he hej => ?_) (.inl ⟨(j, f), ?_, rfl⟩)
    · obtain ⟨i, hi, rfl⟩ := List.getElem_of_mem he
      rw [List.getElem_zip] at hej ⊢
      rw [List.getElem_range] at hej
      subst hej
      exact hlj
    · refine List.mem_iff_getElem.mpr ⟨j, by simpa using hj, ?_⟩
      rw [List.getElem_zip, List.getElem_range, hlj]

end

theorem fitCor_gf (c : Cor) (l : List (Fr × Fr × Fr × Bool)) (bad : Nat → Bool) (t : Int) {j : Nat} {f : Fr × Fr × Fr × Bool} (hl : l[j]? = some f) :
    Tab.getD (fitCor c l bad t).gf j f32One = if bad j then Tab.getD c.gf j f32One else toF32 (Val.ofFr ((Fr.ofInt 1).div f.1)) :=
  foldl_setColumn_zip (F := fun f : Fr × Fr × Fr × Bool => toF32 (Val.ofFr ((Fr.ofInt 1).div f.1))) l c.gf hl

theorem fitCor_off (c : Cor) (l : List (Fr × Fr × Fr × Bool)) (bad : Nat → Bool) (t : Int) {j : Nat} {f : Fr × Fr × Fr × Bool} (hl : l[j]? = some f) :
    Tab.getD (fitCor c l bad t).off j 0 = if bad j then Tab.getD c.off j 0 else toF32 (Val.ofFr f.2.1) :=
  foldl_setColumn_zip (F := fun f : Fr × Fr × Fr × Bool => toF32 (Val.ofFr f.2.1)) l c.off hl

/-! ## The completion of a full churn -/

/-- The columns that fail. -/
def fitFailed (n : Nat) (u : Churn) (r : ProbeRef) (s : State) : List Nat :=
  (List.range 528).filter (fun j => ((fits r u).getD j (⟨1, 1⟩, ⟨0, 1⟩, ⟨0, 1⟩, true)) |> fitFails (s.fld (Reg.CHN_TOL (n / 64)) 7 0) r.k r.seg)

/-- What the churns of an array stand at after a fit. -/
def ArrChn.fitted (x : ArrChn) (u : Churn) (aon : W64) (t : Int) (failcol : Nat) : ArrChn :=
  { x with lastFull := some aon, last := some aon, tF := t, due := x.due.filter (fun d => !lightClass d.cls && d.cls != 1), cur := none, rF := u.resp, failcol := failcol, fit := true }

@[simp] theorem ArrChn.fitted_failcol (x : ArrChn) (u : Churn) (aon : W64) (t : Int) (failcol : Nat) : (x.fitted u aon t failcol).failcol = failcol := rfl

/-- The correction, the counters and SIGMA of a fit. -/
def fitBase (n : Nat) (u : Churn) (r : ProbeRef) (sigma : W32) (failed : List Nat) (s : State) : State :=
  (((setCor n (fitCor (s.cor n) (fits r u) (fun j => failed.contains j) (s.temp (n / 64)))
    (s.setArr n { s.arr n with chn := (s.arr n).chn.fitted u s.cnt.aon (s.temp (n / 64)) failed.length })).incWrap (Reg.CHN_FULL_CNT (n / 64)) 1).incWrap (Reg.CHN_LIGHT_CNT (n / 64)) 1).setReg
      (Reg.ARR_CHK_SIGMA n) sigma

/-- The events of the failed columns. -/
def fitEvents (n : Nat) (u : Churn) (r : ProbeRef) (failed : List Nat) (s : State) : State :=
  failed.foldl (fun v j =>
    let f := (fits r u).getD j (⟨1, 1⟩, ⟨0, 1⟩, ⟨0, 1⟩, true)
    v.raise 0x0401 1 (n / 64) (n + 2 ^ 16 * j + 2 ^ 32 * (toF32 (Val.ofFr f.1)).toNat + 2 ^ 64 * fitRms r.k r.seg f)) s

/-- What an array does once its fit stands. -/
def fitEnd (n weights : Nat) (full owed : Bool) (s : State) : State :=
  if 8 < weights then enterFault n 1 (s.raise 0x0405 2 (n / 64) (n + 2 ^ 16 * weights))
  else if full then enterFault n 1 s
  else if owed then pressedDone n (freeGo (n / 64) (releaseArr n (s.arr n).codes s)) else freeGo (n / 64) s

theorem completeFull_eq (n : Nat) (u : Churn) (r : ProbeRef) (sigma : W32) (s : State) : completeFull n u r sigma s =
    let failed := fitFailed n u r s
    let p := retireAll n failed (fitEvents n u r failed (fitBase n u r sigma failed s))
    fitEnd n (failed.filter (fun j => decide (j < 512))).length p.2 (s.owes n) (askEnd n (if failed.isEmpty then 0 else 4) (baseline n u (s.owes n) p.1)) := by
  unfold completeFull
  dsimp only
  rfl

theorem fitBase_spec (n : Nat) (u : Churn) (r : ProbeRef) (sigma : W32) (failed : List Nat) (s : State) :
    (fitBase n u r sigma failed s).arr n = { s.arr n with chn := (s.arr n).chn.fitted u s.cnt.aon (s.temp (n / 64)) failed.length }
      ∧ (fitBase n u r sigma failed s).cor n = fitCor (s.cor n) (fits r u) (fun j => failed.contains j) (s.temp (n / 64))
      ∧ (fitBase n u r sigma failed s).reg (Reg.CHN_FULL_CNT (n / 64)) = s.reg (Reg.CHN_FULL_CNT (n / 64)) + 1
      ∧ (fitBase n u r sigma failed s).reg (Reg.CHN_LIGHT_CNT (n / 64)) = s.reg (Reg.CHN_LIGHT_CNT (n / 64)) + 1
      ∧ (fitBase n u r sigma failed s).reg (Reg.ARR_CHK_SIGMA n) = sigma ∧ SameBut [.arrs, .cors, .regs] s (fitBase n u r sigma failed s) := by
  unfold fitBase
  generalize fitCor (s.cor n) (fits r u) (fun j => failed.contains j) (s.temp (n / 64)) = c
  generalize (s.arr n).chn.fitted u s.cnt.aon (s.temp (n / 64)) failed.length = ch
  obtain ⟨v, hv⟩ : ∃ v, v = s.setArr n { s.arr n with chn := ch } := ⟨_, rfl⟩
  have hva : v.arr n = { s.arr n with chn := ch } := by rw [hv, State.arr_setArr_self]
  have hvs : SameBut [.arrs] s v := hv ▸ s.setArr_same _ _
  rw [← hv]
  clear hv
  obtain ⟨w, hw⟩ : ∃ w, w = setCor n c v := ⟨_, rfl⟩
  have hws : SameBut [.cors] v w := hw ▸ setCor_same n c v
  have hwc : w.cor n = c := by rw [hw, setCor_cor, if_pos rfl]
  rw [← hw]
  clear hw
  have h12 : Reg.CHN_FULL_CNT (n / 64) ≠ Reg.CHN_LIGHT_CNT (n / 64) := by
    unfold Reg.CHN_FULL_CNT Reg.CHN_LIGHT_CNT
    omega
  have h13 : Reg.CHN_FULL_CNT (n / 64) ≠ Reg.ARR_CHK_SIGMA n := by
    unfold Reg.CHN_FULL_CNT Reg.ARR_CHK_SIGMA baseChn baseArr
    omega
  have h23 : Reg.CHN_LIGHT_CNT (n / 64) ≠ Reg.ARR_CHK_SIGMA n := by
    unfold Reg.CHN_LIGHT_CNT Reg.ARR_CHK_SIGMA baseChn baseArr
    omega
  have hregs : SameBut [.regs] w (((w.incWrap (Reg.CHN_FULL_CNT (n / 64)) 1).incWrap (Reg.CHN_LIGHT_CNT (n / 64)) 1).setReg (Reg.ARR_CHK_SIGMA n) sigma) :=
    ((w.incWrap_same _ _).trans (State.incWrap_same _ _ _)).trans (State.setReg_same _ _ _)
  have hreg : ∀ a, w.reg a = s.reg a := fun a => (hws.reg (by decide) a).trans (hvs.reg (by decide) a)
  refine ⟨by rw [hregs.arr (by decide), hws.arr (by decide), hva], by rw [hregs.cor (by decide), hwc], ?_, ?_, State.reg_setReg_self _ _ _, ((hvs.mono (by decide)).trans (hws.mono (by decide))).then hregs⟩
  · rw [State.reg_setReg_ne _ _ h13, State.incWrap, State.reg_setReg_ne _ _ h12, State.incWrap, State.reg_setReg_self, hreg]
    rfl
  · rw [State.reg_setReg_ne _ _ h23, State.incWrap, State.reg_setReg_self, State.incWrap, State.reg_setReg_ne _ _ h12.symm, hreg]
    rfl

theorem fitEvents_spec (n : Nat) (u : Churn) (r : ProbeRef) (failed : List Nat) (s : State) : StoreFit n s (fitEvents n u r failed s) ∧ (failed ≠ [] → RaisedAmong 0x0401 s (fitEvents n u r failed s)) := by
  have hstep : ∀ (l : List Nat) (t : State), StoreFit n t (fitEvents n u r l t) := fun l t => StoreFit.foldl (fun v j => v.raise_storeFit _ _ _ _) l t
  refine ⟨hstep failed s, fun hne => ?_⟩
  cases failed with
  | nil => exact absurd rfl hne
  | cons j l => exact (State.raise_raised _ _ _ _ _).among.grows (hstep l _).log

theorem pressedDone_idle {s : State} (n : Nat) (h1 : s.prs.rld = none) (h2 : s.prs.reps = []) : pressedDone n s = s := by
  unfold pressedDone
  rw [h1, h2]
  rfl

/-- What follows a fit where nothing waits on the core and the press is idle. -/
theorem fitEnd_spec {n : Nat} (hn : n < 2048) (weights : Nat) (full owed : Bool) {z : State} (hcur : (z.arr n).chn.cur = none) (hfit : (z.arr n).chn.fit = true) (hwin : (z.arr n).win = false)
    (hc : (z.core (n / 64)).churns = []) (ht : (z.core (n / 64)).tests = []) (h1 : z.prs.load = none) (h2 : z.prs.rld = none) (h3 : z.prs.reps = []) :
    ((fitEnd n weights full owed z).arr n).chn = (z.arr n).chn ∧ (fitEnd n weights full owed z).cors = z.cors ∧ LogGrows z (fitEnd n weights full owed z)
      ∧ (∀ a ∈ fitRegs n, (fitEnd n weights full owed z).reg a = z.reg a)
      ∧ (8 < weights → ((fitEnd n weights full owed z).arr n).st = .fault ∧ RaisedAmong 0x0405 z (fitEnd n weights full owed z))
      ∧ (¬8 < weights → full = false → (z.arr n).park = false → ((fitEnd n weights full owed z).arr n).st = if owed then .ready else (z.arr n).st) := by
  have hchn : { (z.arr n).chn with cur := none } = (z.arr n).chn := by
    cases h : (z.arr n).chn
    rw [h] at hcur
    dsimp only at hcur ⊢
    rw [hcur]
  have howes : ∀ t : State, (t.arr n).chn = (z.arr n).chn → t.owes n = false := fun t h => by rw [State.owes, h, hfit, Bool.not_true, Bool.and_false]
  have hstill : ∀ t : State, (t.arr n).chn = (z.arr n).chn → (t.arr n).win = false → (t.core (n / 64)).churns = [] → Still t n := by
    intro t h hw hch
    refine ⟨.inr ⟨?_, hw, hch⟩, .inl (by rw [h]; exact hfit)⟩
    unfold firstMay
    rw [howes t h]
    rfl
  have hgoRegs : ∀ t : State, ∀ a ∈ fitRegs n, (freeGo (n / 64) t).reg a = t.reg a := fun t => (freeGo_goStep _ t).regs.fit (fitRegs_ecc hn)
  unfold fitEnd
  by_cases hw : 8 < weights
  · rw [if_pos hw]
    generalize n + 2 ^ 16 * weights = pay
    have hr := z.raise_same 0x0405 2 (n / 64) pay
    have hp : (z.raise 0x0405 2 (n / 64) pay).prs = z.prs := hr .prs (by decide)
    have hraised := (z.raise_raised 0x0405 2 (n / 64) pay).among
    obtain ⟨k1, k2, k3, k4, k5⟩ := enterFault_spec hn 1 (s := z.raise 0x0405 2 (n / 64) pay) (by rw [hp]; exact h1) (by rw [hp]; exact h2) (by rw [hp]; exact h3)
    refine ⟨?_, k3.trans (hr .cors (by decide)), (z.raise_logGrows _ _ _ _).trans k4, fun a ha => (k5 a ha).trans (z.raise_reg _ _ _ _ a), fun _ => ⟨k1, hraised.grows k4⟩, fun h => absurd hw h⟩
    rw [k2, hr.arr (by decide)]
    exact hchn
  · rw [if_neg hw]
    cases full with
    | true =>
      rw [if_pos rfl]
      obtain ⟨k1, k2, k3, k4, k5⟩ := enterFault_spec hn 1 h1 h2 h3
      exact ⟨k2.trans hchn, k3, k4, k5, fun h => absurd h hw, fun _ h => absurd h (by simp)⟩
    | false =>
      rw [if_neg (by decide)]
      cases owed with
      | true =>
        rw [if_pos rfl]
        obtain ⟨y, hy⟩ : ∃ y, y = releaseArr n (z.arr n).codes z := ⟨_, rfl⟩
        have hys : SameBut [.arrs] z y := hy ▸ releaseArr_same n z _
        obtain ⟨hyc, hyw⟩ : (y.arr n).chn = (z.arr n).chn ∧ (y.arr n).win = (z.arr n).win := hy ▸ releaseArr_chn n z _
        have hst := hstill y hyc (hyw.trans hwin) (by rw [hys.core (by decide)]; exact hc)
        have hgo := freeGo_goStep (n / 64) y
        have hprs : (freeGo (n / 64) y).prs = z.prs := (hgo.same .prs (by decide)).trans (hys .prs (by decide))
        rw [← hy, pressedDone_idle n (by rw [hprs]; exact h2) (by rw [hprs]; exact h3)]
        refine ⟨(freeGo_chn _ hst).trans hyc, (hgo.same .cors (by decide)).trans (hys .cors (by decide)), hys.logGrows.trans hgo.log,
          fun a ha => (hgoRegs y a ha).trans (hys.reg (by decide) a), fun h => absurd h hw, fun _ _ hpark => ?_⟩
        rw [freeGo_still _ hst (by rw [hys.core (by decide)]; exact ht), hy, releaseArr_of_stay n _ hpark]
        show (if z.owes n then ArrState.churn else .ready) = _
        rw [howes z rfl]
        rfl
      | false =>
        rw [if_neg (by decide)]
        have hst := hstill z rfl hwin hc
        have hgo := freeGo_goStep (n / 64) z
        refine ⟨freeGo_chn _ hst, hgo.same .cors (by decide), hgo.log, hgoRegs z, fun h => absurd h hw, fun _ _ _ => ?_⟩
        rw [freeGo_still _ hst ht]
        rfl

/-- The weight columns that fail. -/
theorem filter_weights (bad : Nat → Bool) : ((List.range 528).filter bad).filter (fun j => decide (j < 512)) = (List.range 512).filter bad := by
  have h : List.range 528 = List.range 512 ++ (List.range 16).map (fun x => 512 + x) := List.range_add (n := 512) (m := 16)
  rw [h, List.filter_append, List.filter_append]
  have h1 : ((List.range 512).filter bad).filter (fun j => decide (j < 512)) = (List.range 512).filter bad :=
    List.filter_eq_self.mpr fun j hj => decide_eq_true (List.mem_range.mp (List.mem_filter.mp hj).1)
  have h2 : (((List.range 16).map (fun x => 512 + x)).filter bad).filter (fun j => decide (j < 512)) = [] := by
    refine List.filter_eq_nil_iff.mpr fun j hj => ?_
    obtain ⟨x, -, rfl⟩ := List.mem_map.mp (List.mem_filter.mp hj).1
    simp
  rw [h1, h2, List.append_nil]

theorem fits_length (r : ProbeRef) (u : Churn) : (fits r u).length = 528 := by
  rw [fits, List.length_map, List.length_range]

/-- The failed columns, by a condition on every column. -/
theorem fitFailed_eq {n : Nat} {u : Churn} {r : ProbeRef} {s : State} {bad : Nat → Bool}
    (hbad : ∀ j, bad j = ((fits r u)[j]?).any (fitFails (s.fld (Reg.CHN_TOL (n / 64)) 7 0) r.k r.seg)) :
    fitFailed n u r s = (List.range 528).filter bad ∧ ∀ j, (fitFailed n u r s).contains j = bad j := by
  have hf : fitFailed n u r s = (List.range 528).filter bad := by
    refine List.filter_congr fun j hj => ?_
    have hjl : j < (fits r u).length := by rw [fits_length]; exact List.mem_range.mp hj
    rw [hbad j, List.getElem?_eq_getElem hjl, Option.any_some, List.getD_eq_getElem _ _ hjl]
  refine ⟨hf, fun j => ?_⟩
  rw [hf]
  by_cases hj : j < 528
  · cases h : bad j with
    | true => exact List.contains_iff_mem.mpr (List.mem_filter.mpr ⟨List.mem_range.mpr hj, h⟩)
    | false =>
      refine Bool.eq_false_iff.mpr fun hc => ?_
      have := (List.mem_filter.mp (List.contains_iff_mem.mp hc)).2
      rw [h] at this
      exact absurd this (by simp)
  · have hn : bad j = false := by
      rw [hbad j, List.getElem?_eq_none (by rw [fits_length]; omega)]
      rfl
    rw [hn]
    exact Bool.eq_false_iff.mpr fun hc => hj (List.mem_range.mp (List.mem_filter.mp (List.contains_iff_mem.mp hc)).1)

section
variable {s : State} {u : Churn} {r : ProbeRef} {bad : Nat → Bool}

theorem fullChurnFit_spec (a : ArrId) (sigma : W32) (hup : s.coreUp (a.val / 64) = true) (hcur : (s.arr a.val).chn.cur = some u) (hfull : u.full = true) (hpost : u.post = true)
    (hnone : NoneWait s (a.val / 64)) (hok : s.refOk a.val = true) (hr : Tab.find? s.refs a.val = some r) (h1 : s.prs.load = none) (h2 : s.prs.rld = none) (h3 : s.prs.reps = [])
    (hbad : ∀ j, bad j = ((fits r u)[j]?).any (fitFails (s.fld (Reg.CHN_TOL (a.val / 64)) 7 0) r.k r.seg)) :
    ∃ t, exec (.fullChurnFit a true sigma) s = .next t ∧ (t.arr a.val).chn.cur = none ∧ (t.arr a.val).chn.lastFull = some s.cnt.aon ∧ (t.arr a.val).chn.fit = true
      ∧ (t.arr a.val).chn.failcol = ((List.range 528).filter bad).length
      ∧ (∀ j < 528, ∀ f, (fits r u)[j]? = some f →
        Tab.getD (t.cor a.val).gf j f32One = (if bad j then Tab.getD (s.cor a.val).gf j f32One else toF32 (Val.ofFr ((Fr.ofInt 1).div f.1)))
        ∧ Tab.getD (t.cor a.val).off j 0 = (if bad j then Tab.getD (s.cor a.val).off j 0 else toF32 (Val.ofFr f.2.1)))
      ∧ (t.cor a.val).ga = f32One ∧ (t.cor a.val).tl = s.temp (a.val / 64) ∧ t.reg (Reg.CHN_FULL_CNT (a.val / 64)) = s.reg (Reg.CHN_FULL_CNT (a.val / 64)) + 1
      ∧ t.reg (Reg.CHN_LIGHT_CNT (a.val / 64)) = s.reg (Reg.CHN_LIGHT_CNT (a.val / 64)) + 1 ∧ t.reg (Reg.ARR_CHK_SIGMA a.val) = sigma
      ∧ ((∃ j < 528, bad j = true) → RaisedAmong 0x0401 s t)
      ∧ (8 < ((List.range 512).filter bad).length → (t.arr a.val).st = .fault ∧ RaisedAmong 0x0405 s t)
      ∧ ((∀ j < 528, bad j = false) → (s.arr a.val).park = false → (t.arr a.val).st = (if s.owes a.val then .ready else (s.arr a.val).st)) := by
  have hn := a.isLt
  obtain ⟨hfailed, hcontains⟩ := fitFailed_eq hbad
  have hex := exec_fullChurnFit_some a sigma hup hcur hfull hpost hok hr
  rw [completeFull_eq] at hex
  dsimp only at hex
  obtain ⟨b1, b2, b3, b4, b5, b6⟩ := fitBase_spec a.val u r sigma (fitFailed a.val u r s) s
  generalize fitBase a.val u r sigma (fitFailed a.val u r s) s = v at hex b1 b2 b3 b4 b5 b6
  obtain ⟨e1, e2⟩ := fitEvents_spec a.val u r (fitFailed a.val u r s) v
  generalize fitEvents a.val u r (fitFailed a.val u r s) v = w at hex e1 e2
  have hret := retireAll_storeFit hn a.val (fitFailed a.val u r s) w
  have hfullNone : fitFailed a.val u r s = [] → (retireAll a.val (fitFailed a.val u r s) w).2 = false := fun h => by rw [h]; rfl
  generalize (retireAll a.val (fitFailed a.val u r s) w).2 = full at hex hfullNone
  generalize (retireAll a.val (fitFailed a.val u r s) w).1 = x at hex hret
  have hbase := baseline_storeFit hn a.val u (s.owes a.val) x
  generalize baseline a.val u (s.owes a.val) x = y at hex hbase
  have hvy : StoreFit a.val v y := (e1.trans hret).trans hbase
  have hask := (askEnd_churnStep y a.val (if (fitFailed a.val u r s).isEmpty then 0 else 4)).asks
  have hasks : SameBut [.cores] y (askEnd a.val (if (fitFailed a.val u r s).isEmpty then 0 else 4) y) := State.setCore_same _ _ _
  generalize askEnd a.val (if (fitFailed a.val u r s).isEmpty then 0 else 4) y = z at hex hask hasks
  have hcores : AsksKept s z := (b6.asksKept.trans hvy.same.asksKept).trans hask
  have hza : z.arr a.val = v.arr a.val := by rw [hasks.arr (by decide), hvy.same.arr (by decide)]
  have hzp : z.prs = s.prs := (hasks .prs (by decide)).trans ((hvy.same .prs (by decide)).trans (b6 .prs (by decide)))
  have hzc : z.cors = v.cors := (hasks .cors (by decide)).trans (hvy.same .cors (by decide))
  have hzr : ∀ b ∈ fitRegs a.val, z.reg b = v.reg b := fun b hb => (hasks.reg (by decide) b).trans (hvy.regs b hb)
  have hlog : LogGrows s z := (b6.logGrows.trans hvy.log).trans hasks.logGrows
  rw [b1] at hza
  obtain ⟨f1, f2, f3, f4, f5, f6⟩ := fitEnd_spec hn ((fitFailed a.val u r s).filter (fun j => decide (j < 512))).length full (s.owes a.val) (z := z) (by rw [hza]; rfl) (by rw [hza]; rfl)
    (by rw [hza]; exact (hnone.2.2 _ rfl).1) (hcores.churns_nil hnone.1) (hcores.tests_nil hnone.2.1) (by rw [hzp]; exact h1) (by rw [hzp]; exact h2) (by rw [hzp]; exact h3)
  generalize fitEnd a.val ((fitFailed a.val u r s).filter (fun j => decide (j < 512))).length full (s.owes a.val) z = t at hex f1 f2 f3 f4 f5 f6
  rw [hza] at f1
  have hcor : t.cor a.val = fitCor (s.cor a.val) (fits r u) bad (s.temp (a.val / 64)) := by
    have : t.cor a.val = v.cor a.val := by rw [State.cor, State.cor, f2, hzc]
    rw [this, b2, funext hcontains]
  have hreg : ∀ b ∈ fitRegs a.val, t.reg b = v.reg b := fun b hb => (f4 b hb).trans (hzr b hb)
  refine ⟨t, hex, by rw [f1]; rfl, by rw [f1]; rfl, by rw [f1]; rfl, ?_, fun j _ f hf => ?_, ?_, by rw [hcor]; rfl, ?_, ?_, ?_, fun hj => ?_, fun hw => ?_, fun hall hpark => ?_⟩
  · have hl := congrArg List.length hfailed
    rw [← hl]
    exact (congrArg ArrChn.failcol f1).trans (ArrChn.fitted_failcol _ u _ _ _)
  · rw [hcor]
    exact ⟨fitCor_gf _ _ _ _ hf, fitCor_off _ _ _ _ hf⟩
  · rw [hcor, fitCor]
  · rw [hreg _ (by simp), b3]
  · rw [hreg _ (by simp), b4]
  · rw [hreg _ (by simp), b5]
  · obtain ⟨j, hj, hb⟩ := hj
    have hne : fitFailed a.val u r s ≠ [] := by
      rw [hfailed]
      exact List.ne_nil_of_mem (List.mem_filter.mpr ⟨List.mem_range.mpr hj, hb⟩)
    have he := e2 hne
    have hsv : RaisedAmong 0x0401 s w := by
      obtain ⟨l, hl, e⟩ := he
      exact ⟨l, hl.trans (by rw [b6 .ev (by decide)]), e⟩
    exact hsv.grows ((((hret.trans hbase).log).trans hasks.logGrows).trans f3)
  · rw [hfailed, filter_weights] at f5
    obtain ⟨g1, l, hl, e⟩ := f5 hw
    obtain ⟨m, hm⟩ := hlog
    obtain ⟨e', he', hc⟩ := e
    exact ⟨g1, l ++ m, by rw [hl, hm, List.append_assoc], e', List.mem_append_left _ he', hc⟩
  · have hnil : fitFailed a.val u r s = [] := by
      rw [hfailed]
      refine List.filter_eq_nil_iff.mpr fun j hj => ?_
      rw [hall j (List.mem_range.mp hj)]
      exact Bool.false_ne_true
    rw [hnil] at f6
    rw [f6 (by simp) (hfullNone hnil) (by rw [hza]; exact hpark), hza]

end

/-- Settles O35: a unit's end, a restart, an abandoned churn and a fit, each by what its steps leave of the array, the correction and the counters. -/
theorem fullChurnFitsColumns : Obligations.FullChurnFitsColumns := by
  unfold Obligations.FullChurnFitsColumns
  rintro s a n c x u rfl rfl rfl hup hcur hfull
  refine ⟨fun noise hlive hpost => fullChurnUnitEnd_spec a noise hup hcur hfull hlive hpost, fullChurnRestart_stay a hup hcur, fun hpost hw => ?_, fun hpost hnone readable sigma => ⟨fun h ho =>
    fullChurnAbandon_spec a readable sigma hup hcur hfull hpost hnone h ho, fun r bad hread hok hr h1 h2 h3 hbad => ?_⟩⟩
  · obtain ⟨k1, k2, k3, k4, k5, k6⟩ := restartChurn_spec a.val u u.unit s
    exact ⟨_, u.again s a.val, fullChurnRestart_again a hup hcur hfull hpost hw, by rw [k1]; rfl, rfl, rfl, k3, k4, k5, k2, k6⟩
  · rw [hread]
    exact fullChurnFit_spec a sigma hup hcur hfull hpost hnone hok hr h1 h2 h3 hbad

end Sys2Proof.Machine
end

section
/-!
PROOFS. Presses: a load that names a core beyond the 32 disturbs PRS_FAIL_CNT (R158, R171, R173); O36.
-/
set_option Elab.async false

namespace Sys2Proof.Machine

/-- A load whose image lies on the 64 arrays of core 0 and that took a spare of core 64, whose place in the reserve registers is that of PRS_FAIL_CNT. -/
def strayLoad : LoadJob := ⟨.fw, false, ⟨0, 0, (List.range 64).map (fun a => ⟨0, 0, 0, a, false⟩), [], [], false⟩, 0, 0, [], [], [], [(64, 1)], 0⟩

/-- A press that has come to its end with column 0 failed. -/
def failedPress : PressJob := ⟨.load, ⟨0, 0, 0, 0, false⟩, 0, 0, 0, 0, true, 4096, 0, [], [0], none, false⟩

/-- The reset state with FAB running, that load in progress and that press on array 0. -/
def strayState : State :=
  { State.reset with
    rst := { State.reset.rst with dom := [(4, .run)] }
    prs := { State.reset.prs with load := some strayLoad }
    arrs := [(0, { Arr.idle with press := some failedPress })] }

/-- The register PRS_FAIL_CNT that a command answers with. -/
def failCntAfter : Out → Option W32
  | .next t => some (t.reg Reg.PRS_FAIL_CNT)
  | _ => none

/-- The failed array finds no substitute, so the load is refused, and the spare given back to core 64 counts PRS_FAIL_CNT once more. -/
theorem strayState_failCnt : failCntAfter (exec (.pressArrayEnd 0) strayState) = some 2 := by decide

/-- Refutes O36: where the load that a failed press belongs to took spares of a core beyond the 32 (`strayState`), its refusal gives them back in
PRS_FAIL_CNT, which then is not one higher. -/
theorem not_pressingAnArray : ¬ Obligations.PressingAnArray := by
  unfold Obligations.PressingAnArray
  intro h
  obtain ⟨hrun, -⟩ := h strayState
  obtain ⟨hpress, -⟩ := hrun (by decide)
  obtain ⟨-, hjob⟩ := hpress 0 0 _ rfl rfl
  obtain ⟨-, hend⟩ := hjob failedPress (by decide) rfl
  obtain ⟨t, hex, -, -, hfail⟩ := hend (by decide)
  obtain ⟨-, hcnt, -⟩ := hfail (.inl (by decide))
  have hafter := strayState_failCnt
  rw [hex] at hafter
  exact absurd (hcnt.symm.trans (Option.some.inj hafter)) (by decide)

end Sys2Proof.Machine
end

section
/-!
PROOFS. The DMA channels' registers and the scrubbers; O41.
-/
set_option Elab.async false

namespace Sys2Proof.Machine

/-! ## DMA_GO -/

section
variable {s u : State} {ch : Nat}

theorem RegsBut.reg64 {l : List Nat} (h : RegsBut l s u) {a : Nat} (h1 : a ∉ l) (h2 : a + 4 ∉ l) : u.reg64 a = s.reg64 a := by
  unfold State.reg64
  rw [h a h1, h (a + 4) h2]

theorem dmaBad_congr (a : W64) (n : Nat) (h1 : u.reg Reg.RST_STAT = s.reg Reg.RST_STAT) (h2 : u.fus = s.fus) : dmaBad u a n = dmaBad s a n := by
  unfold dmaBad State.spSize State.dramBytes State.trimmed State.rbit
  rw [h1, h2]

/-- The copy that a start captures: its operands from the registers, and no host command. -/
def dmaJobOf (s : State) (ch : Nat) : DmaJob :=
  ⟨BitVec.ofNat 64 (s.reg64 (Reg.DMA_SRC ch)), BitVec.ofNat 64 (s.reg64 (Reg.DMA_DST ch)), (s.reg (Reg.DMA_LEN ch)).toNat,
    if s.rbit (Reg.DMA_CTL ch) 31 then some (s.fld (Reg.DMA_CTL ch) 30 16) else none, none⟩

/-- The state with a copy on a channel. -/
def State.withDma (s : State) (ch : Nat) (j : DmaJob) : State := { s with eng := { s.eng with dma := Tab.insert s.eng.dma ch j } }

theorem dmaStart_good (hs : dmaBad s (BitVec.ofNat 64 (s.reg64 (Reg.DMA_SRC ch))) (s.reg (Reg.DMA_LEN ch)).toNat = false)
    (hd : dmaBad s (BitVec.ofNat 64 (s.reg64 (Reg.DMA_DST ch))) (s.reg (Reg.DMA_LEN ch)).toNat = false) :
    Tab.find? (dmaStart ch none s).eng.dma ch = some (dmaJobOf s ch) ∧ (dmaStart ch none s).reg (Reg.DMA_STAT ch) = s.reg (Reg.DMA_STAT ch) ||| 1
      ∧ RegsBut [Reg.DMA_STAT ch] s (dmaStart ch none s) ∧ SameBut [.regs, .eng] s (dmaStart ch none s) := by
  obtain ⟨v, hv⟩ : ∃ v, v = s.orReg (Reg.DMA_STAT ch) 1 := ⟨_, rfl⟩
  have h : dmaStart ch none s = v.withDma ch (dmaJobOf s ch) := by
    rw [hv]
    unfold dmaStart
    dsimp only
    rw [if_neg (by rw [hs, hd]; decide)]
    rfl
  have hw : SameBut [.eng] v (v.withDma ch (dmaJobOf s ch)) := fun p hp => by cases p <;> first | rfl | exact absurd (by decide) hp
  have hm : SameBut [.regs] s v := hv ▸ s.orReg_same _ _
  rw [h]
  refine ⟨(Tab.find?_insert _ _ _ _).trans (if_pos rfl), ?_, ?_, (hm.mono (by decide)).then hw⟩
  · rw [hw.reg (by decide), hv]
    exact State.reg_setReg_self _ _ _
  · exact (hv ▸ s.orReg_regsBut _ _ : RegsBut _ s v).trans (hw.regsBut _)

theorem dmaStart_bad (h : dmaBad s (BitVec.ofNat 64 (s.reg64 (Reg.DMA_SRC ch))) (s.reg (Reg.DMA_LEN ch)).toNat = true
      ∨ dmaBad s (BitVec.ofNat 64 (s.reg64 (Reg.DMA_DST ch))) (s.reg (Reg.DMA_LEN ch)).toNat = true) :
    dmaStart ch none s = s.orReg (Reg.DMA_STAT ch) 2 := by
  unfold dmaStart
  exact if_pos ((Bool.or_eq_true _ _).mpr h)

end

/-- What DMA_GO makes of the registers that a start reads: only DMA_CTL is written. -/
theorem putMasked_dmaCtl (s : State) (ch : Fin 3) (v : W32) :
    (s.putMasked (Reg.DMA_CTL ch) v).reg64 (Reg.DMA_SRC ch) = s.reg64 (Reg.DMA_SRC ch) ∧ (s.putMasked (Reg.DMA_CTL ch) v).reg64 (Reg.DMA_DST ch) = s.reg64 (Reg.DMA_DST ch)
      ∧ (s.putMasked (Reg.DMA_CTL ch) v).reg (Reg.DMA_LEN ch) = s.reg (Reg.DMA_LEN ch) ∧ (s.putMasked (Reg.DMA_CTL ch) v).reg (Reg.DMA_STAT ch) = s.reg (Reg.DMA_STAT ch)
      ∧ ∀ a n, dmaBad (s.putMasked (Reg.DMA_CTL ch) v) a n = dmaBad s a n := by
  have h := s.putMasked_regsBut (Reg.DMA_CTL ch) v
  have hs := s.putMasked_same (Reg.DMA_CTL ch) v
  revert h
  generalize s.putMasked (Reg.DMA_CTL ch) v = u at hs
  intro h
  have hch := ch.isLt
  refine ⟨h.reg64 ?_ ?_, h.reg64 ?_ ?_, h _ ?_, h _ ?_, fun a n => dmaBad_congr a n (h _ ?_) (hs .fus (by decide))⟩ <;>
  · simp only [List.mem_singleton, Reg.DMA_CTL, Reg.DMA_SRC, Reg.DMA_DST, Reg.DMA_LEN, Reg.DMA_STAT, Reg.RST_STAT, baseDmach, baseRst]
    omega

section
variable {s : State} {who : Who} {ch : Fin 3} {v : W32} {u : State}

theorem exec_dmaGo_start (hr : reaches s who (Reg.DMA_CTL ch) = true) (hv : bit v 0 = true) (hnone : Tab.find? s.eng.dma ch.val = none) :
    exec (.dmaGo who ch v) s = .next (dmaStart ch none (s.putMasked (Reg.DMA_CTL ch) v)) := by
  have hd : exec (.dmaGo who ch v) s = execDmaGo who ch v s := rfl
  rw [hd]
  unfold execDmaGo
  rw [next_access hr]
  dsimp only
  rw [if_pos (by rw [hv, hnone]; rfl)]

theorem exec_dmaGo_busy (hr : reaches s who (Reg.DMA_CTL ch) = true) (hnone : Tab.find? s.eng.dma ch.val ≠ none) :
    exec (.dmaGo who ch v) s = .next (s.putMasked (Reg.DMA_CTL ch) v) := by
  have hd : exec (.dmaGo who ch v) s = execDmaGo who ch v s := rfl
  obtain ⟨j, hj⟩ := Option.ne_none_iff_exists'.mp hnone
  rw [hd]
  unfold execDmaGo
  rw [next_access hr]
  dsimp only
  rw [if_neg (by rw [hj]; simp)]

end

/-! ## Scrubbing -/

section
variable (s : State) (sp a n port kind : Nat)

/-- A read leaves the space that it reads with its correctable errors corrected. -/
theorem State.readFx_memOf_self : (s.readFx sp a n port kind).memOf sp
    = { s.memOf sp with ecc := (s.memOf sp).ecc.filter (fun e => e.2 || !(corrGroups (s.memOf sp) (fun e => overlap (8 * e.1) 8 a n)).contains e.1) } := by
  unfold State.readFx
  dsimp only
  rw [foldl_eccUnc_memOf sp port kind sp (fun e : Nat × Bool => e.1), State.correct_memOf_self]

theorem State.readFx_memOf_ne {x : Nat} (h : sameSpace sp x = false) : (s.readFx sp a n port kind).memOf x = s.memOf x := by
  unfold State.readFx
  dsimp only
  rw [foldl_eccUnc_memOf sp port kind x (fun e : Nat × Bool => e.1), State.correct_memOf_ne s _ h]

/-- After a read no group of its range has a correctable error. -/
theorem State.readFx_corrected {e : Nat × Bool} (h : e ∈ ((s.readFx sp a n port kind).memOf sp).ecc) (ho : overlap (8 * e.1) 8 a n = true) : e.2 = true := by
  rw [State.readFx_memOf_self] at h
  obtain ⟨hm, hf⟩ := List.mem_filter.mp h
  refine Bool.not_eq_false _ ▸ fun he => ?_
  have hg : (corrGroups (s.memOf sp) (fun e => overlap (8 * e.1) 8 a n)).contains e.1 = true := by
    refine List.contains_iff_mem.mpr (List.mem_map.mpr ⟨e, List.mem_filter.mpr ⟨hm, ?_⟩, rfl⟩)
    rw [he, Bool.not_false, Bool.true_and]
    refine List.contains_iff_mem.mpr (List.mem_map.mpr ⟨e, List.mem_filter.mpr ⟨hm, ?_⟩, rfl⟩)
    rw [he]
    exact ho
  rw [he, hg] at hf
  exact absurd hf (by simp)

end

/-- The piece of a space. -/
def spacePiece (sp : Nat) : Piece := if sp = 0 then .tank else if sp = 1 then .cbuf else .dram

/-- A scrubbed line: only its space, the error registers and the events change, and no byte. -/
theorem scrubLine_same (sp a : Nat) (s : State) (hsp : sp < 3) : SameBut [.ev, .hostMem, .regs, spacePiece sp] s (scrubLine sp a s) := by
  have h := s.readFx_same sp a 64 0 2
  have hne : ∀ x, sameSpace sp x = false → (scrubLine sp a s).memOf x = s.memOf x := fun x hx => s.readFx_memOf_ne sp a 64 0 2 hx
  intro p hp
  by_cases h0 : p ∈ accessParts
  · obtain rfl | rfl | rfl : sp = 0 ∨ sp = 1 ∨ sp = 2 := by omega
    · have h1 : p = .cbuf ∨ p = .dram := by cases p <;> first | exact .inl rfl | exact .inr rfl | exact absurd h0 (by decide) | exact absurd (by decide) hp
      rcases h1 with rfl | rfl
      · exact hne 1 rfl
      · exact hne 2 rfl
    · have h1 : p = .tank ∨ p = .dram := by cases p <;> first | exact .inl rfl | exact .inr rfl | exact absurd h0 (by decide) | exact absurd (by decide) hp
      rcases h1 with rfl | rfl
      · exact hne 0 rfl
      · exact hne 2 rfl
    · have h1 : p = .tank ∨ p = .cbuf := by cases p <;> first | exact .inl rfl | exact .inr rfl | exact absurd h0 (by decide) | exact absurd (by decide) hp
      rcases h1 with rfl | rfl
      · exact hne 0 rfl
      · exact hne 1 rfl
  · exact h p h0

theorem scrubLine_cells (sp a : Nat) (s : State) : CellsKept s (scrubLine sp a s) := s.readFx_cellsKept sp a 64 0 2

/-- A step of the tank's and the buffers' scrubber moves both lines on. -/
def EngSt.scrubbed (e : EngSt) : EngSt := { e with scrub := (e.scrub + 1) % 2097152, scrubC := (e.scrubC + 1) % 32768 }

/-- The state with other engines. -/
def State.withEng (s : State) (e : EngSt) : State := { s with eng := e }

theorem State.withEng_same (s : State) (e : EngSt) : SameBut [.eng] s (s.withEng e) := fun p hp => by cases p <;> first | rfl | exact absurd (by decide) hp

/-- The buffers' lines of the running cores, scrubbed. -/
def scrubBuffers (c : Nat) (s : State) : State := (List.range 32).foldl (fun u n => if u.coreUp n then scrubLine 1 (spAddr n 1 (64 * c)) u else u) s

theorem scrubBuffers_spec (c : Nat) (s : State) : SameBut [.ev, .hostMem, .regs, .cbuf] s (scrubBuffers c s) ∧ CellsKept s (scrubBuffers c s) := by
  have h1 : ∀ (u : State) (n : Nat), SameBut [.ev, .hostMem, .regs, .cbuf] u (if u.coreUp n then scrubLine 1 (spAddr n 1 (64 * c)) u else u) :=
    fun u n => sameBut_ite (scrubLine_same 1 _ u (by decide)) (SameBut.refl _ u)
  have h2 : ∀ (u : State) (n : Nat), CellsKept u (if u.coreUp n then scrubLine 1 (spAddr n 1 (64 * c)) u else u) := fun u n => by
    split
    · exact scrubLine_cells 1 _ u
    · exact CellsKept.refl u
  exact ⟨SameBut.foldl h1 _ _, CellsKept.foldl h2 _ _⟩

section
variable {s : State}

theorem exec_scrubTick (hup : s.up 4 = true) (hint : s.fld Reg.TNK_SCRUB 15 0 ≠ 0) :
    exec .scrubTick s = .next (scrubBuffers s.eng.scrubC (scrubLine 0 (64 * s.eng.scrub) (s.withEng s.eng.scrubbed))) := by
  have hd : exec .scrubTick s = execScrubTick s := rfl
  rw [hd]
  unfold execScrubTick State.when
  dsimp only
  rw [if_pos (by rw [hup, Bool.true_and]; exact bne_iff_ne.mpr hint)]
  rfl

theorem exec_dramPatrolTick (hup : s.up 4 = true) (hup5 : s.up 5 = true) (hint : s.fld Reg.TNK_SCRUB 31 16 ≠ 0) (hsize : 64 ≤ s.dramBytes) :
    exec .dramPatrolTick s = .next (scrubLine 2 (64 * s.eng.patrol) (s.withEng { s.eng with patrol := (s.eng.patrol + 1) % (s.dramBytes / 64) })) := by
  have hd : exec .dramPatrolTick s = execDramPatrolTick s := rfl
  rw [hd]
  unfold execDramPatrolTick State.when
  dsimp only
  have hpos : 0 < s.dramBytes / 64 := by omega
  rw [if_pos (by rw [hup, hup5, Bool.true_and, Bool.true_and, bne_iff_ne.mpr hint, Bool.true_and]; exact decide_eq_true hpos)]
  rfl

end

/-- Settles O41: DMA_GO by what a start captures and refuses, and the scrubbers by what a read corrects. -/
theorem dmaAndScrubbing : Obligations.DmaAndScrubbing := by
  unfold Obligations.DmaAndScrubbing
  refine fun s => ⟨?_, fun hup hint => ?_, fun hup hup5 hint hsize => ?_⟩
  · rintro who ch v u sa da n hr hv rfl rfl rfl rfl
    obtain ⟨hsrc, hdst, hlen, hstat, hbad⟩ := putMasked_dmaCtl s ch v
    have hrb := s.putMasked_regsBut (Reg.DMA_CTL ch) v
    have hsm := s.putMasked_same (Reg.DMA_CTL ch) v
    refine ⟨fun hnone h1 h2 => ?_, fun hnone h => ?_, exec_dmaGo_busy hr⟩
    · obtain ⟨k1, k2, k3, k4⟩ := dmaStart_good (s := s.putMasked (Reg.DMA_CTL ch) v) (ch := ch.val) (by rw [hbad, hsrc, hlen]; exact h1) (by rw [hbad, hdst, hlen]; exact h2)
      rw [hstat] at k2
      rw [dmaJobOf, hsrc, hdst, hlen] at k1
      exact ⟨_, exec_dmaGo_start hr hv hnone, k1, k2, (hrb.mono (by simp)).trans (k3.mono (by simp)), (hsm.mono (by decide)).trans k4⟩
    · have hb := dmaStart_bad (s := s.putMasked (Reg.DMA_CTL ch) v) (ch := ch.val) (by rw [hbad, hbad, hsrc, hdst, hlen]; exact h)
      have k1 := State.orReg_regsBut (s.putMasked (Reg.DMA_CTL ch) v) (Reg.DMA_STAT ch) 2
      have k2 : ((s.putMasked (Reg.DMA_CTL ch) v).orReg (Reg.DMA_STAT ch) 2).reg (Reg.DMA_STAT ch) = (s.putMasked (Reg.DMA_CTL ch) v).reg (Reg.DMA_STAT ch) ||| 2 := State.reg_setReg_self _ _ _
      rw [hstat] at k2
      refine ⟨_, (exec_dmaGo_start hr hv hnone).trans (congrArg _ hb), k2, (hrb.mono (by simp)).trans (k1.mono (by simp)), hsm.trans (State.orReg_same _ _ _)⟩
  · have hv := s.withEng_same s.eng.scrubbed
    have hline := scrubLine_same 0 (64 * s.eng.scrub) (s.withEng s.eng.scrubbed) (by decide)
    have hcells := scrubLine_cells 0 (64 * s.eng.scrub) (s.withEng s.eng.scrubbed)
    have hecc := fun (e : Nat × Bool) => State.readFx_corrected (s.withEng s.eng.scrubbed) 0 (64 * s.eng.scrub) 64 0 2 (e := e)
    have hex := exec_scrubTick hup hint
    obtain ⟨hbuf, hbufc⟩ := scrubBuffers_spec s.eng.scrubC (scrubLine 0 (64 * s.eng.scrub) (s.withEng s.eng.scrubbed))
    refine ⟨_, hex, ?_, ?_, ?_, ?_, fun e he ho => ?_, ?_⟩
    · exact (hbuf .eng (by decide)).trans (hline .eng (by decide))
    · exact hbufc.tank.trans hcells.tank
    · exact hbufc.cbuf.trans hcells.cbuf
    · exact (hbuf .dram (by decide)).trans (hline .dram (by decide))
    · rw [hbuf .tank (by decide)] at he
      exact hecc e he ho
    · exact ((hv.mono (by decide)).trans (hline.mono (by decide))).trans (hbuf.mono (by decide))
  · have hv := s.withEng_same { s.eng with patrol := (s.eng.patrol + 1) % (s.dramBytes / 64) }
    have hex := exec_dramPatrolTick hup hup5 hint hsize
    have heng : (s.withEng { s.eng with patrol := (s.eng.patrol + 1) % (s.dramBytes / 64) }).eng = { s.eng with patrol := (s.eng.patrol + 1) % (s.dramBytes / 64) } := rfl
    generalize s.withEng { s.eng with patrol := (s.eng.patrol + 1) % (s.dramBytes / 64) } = u at hv hex heng
    have hline := scrubLine_same 2 (64 * s.eng.patrol) u (by decide)
    have hcells := scrubLine_cells 2 (64 * s.eng.patrol) u
    refine ⟨_, hex, ?_, ?_, ?_, ?_, fun e he ho => u.readFx_corrected 2 (64 * s.eng.patrol) 64 0 2 he ho, ?_⟩
    · exact (hline .eng (by decide)).trans heng
    · exact hcells.dram.trans (congrArg Mem.cells (hv .dram (by decide)))
    · exact (hline .tank (by decide)).trans (hv .tank (by decide))
    · exact (hline .cbuf (by decide)).trans (hv .cbuf (by decide))
    · exact (hv.mono (by decide)).trans (hline.mono (by decide))

end Sys2Proof.Machine
end

section
/-!
PROOFS. Arrivals and the release gate of a device whose twin pair is disabled; O39.
-/
set_option Elab.async false

namespace Sys2Proof.Machine

/-! ## With the pair disabled nothing is mirrored and no key is compared -/

/-- The twin pair is disabled (HLK_PAIR_CFG.EN is 0). -/
def State.PairOff (s : State) : Prop := s.rbit Reg.HLK_PAIR_CFG 0 = false

section
variable {s t : State}

theorem State.PairOff.mirroring (h : s.PairOff) : s.mirroring = false := by
  rw [State.mirroring, show s.rbit Reg.HLK_PAIR_CFG 0 = false from h]
  simp only [Bool.false_and]

theorem State.PairOff.mirrorSend (h : s.PairOff) (b : MirrorBody) : s.mirrorSend b = s := by
  rw [State.mirrorSend, if_neg (by rw [h.mirroring]; decide)]

theorem State.PairOff.lockMode (h : s.PairOff) : s.lockMode = false := by
  rw [State.lockMode, show s.rbit Reg.HLK_PAIR_CFG 0 = false from h, Bool.false_and]

theorem State.PairOff.of_hlk (h : s.PairOff) (k : HlkRegs s t) : t.PairOff := by
  rw [State.PairOff, State.rbit, k _ (by decide) (by decide)]
  exact h

theorem State.PairOff.of_regsBut {l : List Nat} (h : s.PairOff) (k : RegsBut l s t) (hl : Reg.HLK_PAIR_CFG ∉ l) : t.PairOff := by
  rw [State.PairOff, k.rbit hl]
  exact h

end

/-- Where a stream's registers lie: no register of the rings, the links or the ECC counts is one of them. -/
theorem strmReg_range {st : Nat} (h : st < 64) : 0x00CC0000 ≤ baseStrm st ∧ baseStrm st + 0x20 ≤ 0x00CC0800 := by
  unfold baseStrm
  omega

theorem ringReg_range {st : Nat} (h : st < 64) : 0x00C12000 ≤ baseRing st ∧ baseRing st + 0x20 ≤ 0x00C12800 := by
  unfold baseRing
  omega

theorem pairCfg_ne_next {st : Nat} (h : st < 64) : Reg.HLK_PAIR_CFG ≠ Reg.SEQ_STRM_NEXT st := by
  have hlt : Reg.HLK_PAIR_CFG < 0x00CC0000 := by decide
  exact Nat.ne_of_lt (Nat.lt_of_lt_of_le hlt ((strmReg_range h).1.trans (Nat.le_add_right _ _)))

theorem next_ne_ringDrop {st : Nat} (h : st < 64) : Reg.SEQ_STRM_NEXT st ≠ Reg.INT_RING_DROP st := by
  have hr := strmReg_range h
  have hg := ringReg_range h
  simp only [Reg.SEQ_STRM_NEXT, Reg.INT_RING_DROP]
  omega

theorem gaps_not_ecc {st : Nat} (h : st < 64) : Reg.SEQ_STRM_GAPS st ∉ eccRegs := by
  have hr := strmReg_range h
  simp only [List.mem_cons, List.not_mem_nil, or_false, Reg.SEQ_STRM_GAPS, Reg.TNK_ECC_CNT, Reg.TST_HEALTH, Reg.TNK_ERR, Reg.TNK_UNC_ADDR, baseTnk, baseTst]
  omega

theorem outTail_not_ecc {st : Nat} (h : st < 64) : Reg.INT_OUT_TAIL st ∉ eccRegs := by
  have hg := ringReg_range h
  simp only [List.mem_cons, List.not_mem_nil, or_false, Reg.INT_OUT_TAIL, Reg.TNK_ECC_CNT, Reg.TST_HEALTH, Reg.TNK_ERR, Reg.TNK_UNC_ADDR, baseTnk, baseTst]
  omega

/-! ## An arrival -/

/-- What an arrival adds to its stream. -/
def Strm.arrived (x : Strm) (n : W32) (d : W64) : Strm := { x with seqs := x.seqs ++ [⟨n, d, false, false, .opened⟩], lastDl := some d }

/-- An arrival without a pair: the number joins the stream and NEXT goes on. -/
def State.arrived (s : State) (st : Nat) : State :=
  (s.setStrm st ((s.strm st).arrived (s.next st) (s.newDeadline st))).setReg (Reg.SEQ_STRM_NEXT st) (s.next st + 1)

theorem State.PairOff.arrive {s : State} (h : s.PairOff) {st : Nat} (hst : st < 64) : s.arrive st = s.arrived st := by
  have hoff : (s.arrived st).PairOff := by
    rw [State.PairOff, State.arrived, rbit_setReg, if_neg (pairCfg_ne_next hst)]
    exact h
  have hsend := hoff.mirrorSend (.arrival (strmId st) (s.next st) (s.newDeadline st - s.cnt.gate))
  have e : s.arrive st = if ((s.arrived st).mirrorSend (.arrival (strmId st) (s.next st) (s.newDeadline st - s.cnt.gate))).lockMode
      then lockArrive st (s.next st) ((s.arrived st).mirrorSend (.arrival (strmId st) (s.next st) (s.newDeadline st - s.cnt.gate)))
      else (s.arrived st).mirrorSend (.arrival (strmId st) (s.next st) (s.newDeadline st - s.cnt.gate)) := rfl
  rw [e, hsend, if_neg (by rw [hoff.lockMode]; decide)]

section
variable (s : State) (st : Nat)

theorem State.arrived_strm : (s.arrived st).strm st = (s.strm st).arrived (s.next st) (s.newDeadline st) := State.strm_setStrm_self s st _

theorem State.arrived_strm_ne {q : Nat} (h : q ≠ st) : (s.arrived st).strm q = s.strm q := strm_setStrm_ne s _ h

theorem State.arrived_next : (s.arrived st).next st = s.next st + 1 := State.reg_setReg_self _ _ _

theorem State.arrived_same : SameBut [.regs, .strms] s (s.arrived st) := ((s.setStrm_same st _).mono (by decide)).then (State.setReg_same _ _ _)

theorem State.arrived_regsBut : RegsBut [Reg.SEQ_STRM_NEXT st] s (s.arrived st) := ((s.setStrm_same st _).regsBut _).trans (State.setReg_regsBut _ _ _)

end

/-! ## A dropped input -/

section
variable (s : State)

theorem State.raiseIntake_raised (code sev port stream pay : Nat) : Raised code s (s.raiseIntake code sev port stream pay) := by
  obtain ⟨l, hlog, hl⟩ := s.raiseRec_log (s.mkEvent code sev 0x100 (2 + port) stream 0 pay)
  exact ⟨_, l, hlog, rfl, hl⟩

theorem State.raiseIntake_same (code sev port stream pay : Nat) : SameBut [.ev, .hostMem] s (s.raiseIntake code sev port stream pay) := s.raiseRec_same _

variable (i st port reason : Nat)

theorem dropInput_same : SameBut [.regs, .ev, .hostMem] s (dropInput i st port reason s) :=
  ((s.incReg_same _ _).mono (by decide)).then (State.raiseIntake_same _ _ _ _ _ _)

theorem dropInput_regsBut : RegsBut [Reg.INT_RING_DROP st] s (dropInput i st port reason s) :=
  (s.incReg_regsBut _ _).trans ((State.raiseIntake_same _ _ _ _ _ _).regsBut _)

theorem dropInput_reg : (dropInput i st port reason s).reg (Reg.INT_RING_DROP st) = satAdd (s.reg (Reg.INT_RING_DROP st)) 1 :=
  ((State.raiseIntake_same _ _ _ _ _ _).reg (by decide) _).trans (State.reg_incReg_self s _ _)

theorem dropInput_raised : Raised 0x0D84 s (dropInput i st port reason s) := State.raiseIntake_raised (s.incReg (Reg.INT_RING_DROP st) 1) _ _ _ _ _

end

/-! ## Resolution without a pair -/

/-- The record of a number that resolves. -/
def outRec (r : SeqSt) (p : List Byte × Bool × Nat) : OutRec := ⟨r.seq, p.1, p.2.1, none⟩

/-- What a resolved number leaves in its stream. -/
def Strm.resolved (x : Strm) (r : SeqSt) (o : OutRec) : Strm :=
  { x with outq := x.outq ++ [o], marked := noted x.marked r.poison r.seq, took := noted x.took r.taken r.seq }

/-- A number resolves: its record waits, and it counts as a gap or a release. -/
def State.resolved (s : State) (st : Nat) (r : SeqSt) (p : List Byte × Bool × Nat) : State :=
  let s2 := s.setStrm st ((s.strm st).resolved r (outRec r p))
  if p.2.1 then s2.incReg (Reg.SEQ_STRM_GAPS st) 1 else s2.incWrap (Reg.SEQ_STRM_RELS st) 1

theorem flushSeqs_resolved {s : State} (h : s.PairOff) {st : Nat} {r : SeqSt} {rest : List SeqSt} {p : List Byte × Bool × Nat} (hr : resolveOf s r = some p) :
    flushSeqs st (r :: rest) s = flushSeqs st rest (s.resolved st r p) := by
  obtain ⟨hd, gap, len⟩ := p
  have e : flushSeqs st (r :: rest) s = match resolveOf s r with
      | none => s.setStrm st { s.strm st with seqs := r :: rest }
      | some (h, gap, len) =>
        let entry := h ++ s.bytes 0 (s.outEntry st r.seq + 32) len
        let s0 := if s.mirroring then s.readFx 0 (s.outEntry st r.seq + 32) len pairPort 0 else s
        let s1 := s0.mirrorSend (.resolution (strmId st) r.seq entry)
        let o : OutRec := ⟨r.seq, h, gap, if s.mirroring && s.pair.peerOk then some s1.pair.sent else none⟩
        let s2 := s1.setStrm st { s1.strm st with outq := (s1.strm st).outq ++ [o], marked := noted (s1.strm st).marked r.poison r.seq, took := noted (s1.strm st).took r.taken r.seq }
        flushSeqs st rest (if gap then s2.incReg (Reg.SEQ_STRM_GAPS st) 1 else s2.incWrap (Reg.SEQ_STRM_RELS st) 1) := rfl
  rw [e, hr]
  dsimp only
  simp only [h.mirroring, Bool.false_eq_true, if_false, h.mirrorSend, Bool.false_and]
  rfl

/-- An unresolved number below holds back what follows. -/
theorem flushSeqs_held {s : State} {st : Nat} {l : List SeqSt} (h : ∀ y, l.head? = some y → y.st = .opened) :
    flushSeqs st l s = s.setStrm st { s.strm st with seqs := l } := by
  cases l with
  | nil => rfl
  | cons y r =>
    have e : resolveOf s y = none := by rw [resolveOf, h y rfl]
    rw [flushSeqs, e]

theorem flushSeqs_closed {s : State} (h : s.PairOff) {st : Nat} (hst : st < 64) {l : List SeqSt} (hl : ∀ r ∈ l, r.st ≠ .opened) : ((flushSeqs st l s).strm st).seqs = [] := by
  induction l generalizing s with
  | nil => rw [flushSeqs, State.strm_setStrm_self]
  | cons r rest ih =>
    obtain ⟨p, hp⟩ : ∃ p, resolveOf s r = some p := by
      have hr := hl r List.mem_cons_self
      unfold resolveOf
      split
      · next he => exact absurd he hr
      · split
        · exact ⟨_, rfl⟩
        · exact ⟨_, rfl⟩
      · exact ⟨_, rfl⟩
    rw [flushSeqs_resolved h hp]
    have hreg : RegsBut [Reg.SEQ_STRM_GAPS st, Reg.SEQ_STRM_RELS st] s (s.resolved st r p) := by
      have h0 : RegsBut [Reg.SEQ_STRM_GAPS st, Reg.SEQ_STRM_RELS st] s (s.setStrm st ((s.strm st).resolved r (outRec r p))) := (s.setStrm_same _ _).regsBut _
      exact regsBut_ite (h0.trans ((State.incReg_regsBut _ _ _).mono (by simp))) (h0.trans ((State.incWrap_regsBut _ _ _).mono (by simp)))
    refine ih (h.of_regsBut hreg ?_) fun q hq => hl q (List.mem_cons_of_mem _ hq)
    have hlt : Reg.HLK_PAIR_CFG < baseStrm st := Nat.lt_of_lt_of_le (by decide) (strmReg_range hst).1
    simp only [List.mem_cons, List.not_mem_nil, or_false, not_or]
    exact ⟨Nat.ne_of_lt (hlt.trans_le (Nat.le_add_right _ _)), Nat.ne_of_lt (hlt.trans_le (Nat.le_add_right _ _))⟩

/-! ## The records of the output ring -/

/-- One record, whose entry is free, is written in a tank without ECC errors: its bytes stand in the entry, and none waits. -/
theorem writeOut_single {s : State} {st : Nat} {o : OutRec} (hm : o.mirror = none) (hf : s.outFree st o.seq = true) (hecc : s.mem.tank.ecc = [])
    (hend : s.outEntry st o.seq + o.header.length ≤ 2 ^ 27) :
    ((writeOut st [o] s).strm st).outq = [] ∧ SameBut [.strms, .tank, .ev] s (writeOut st [o] s)
      ∧ ∀ b, (writeOut st [o] s).mem.tank.byte b
        = if s.outEntry st o.seq ≤ b ∧ b < s.outEntry st o.seq + o.header.length then o.header.getD (b - s.outEntry st o.seq) 0 else s.mem.tank.byte b := by
  obtain ⟨u, hu⟩ : ∃ u, u = (s.tankPut (s.outEntry st o.seq) o.header 0).streamVec st := ⟨_, rfl⟩
  have hw : writeOut st [o] s = u.setStrm st { u.strm st with outq := [] } := by
    rw [hu, writeOut, hm, hf, if_neg (by decide)]
    rfl
  have hsame : SameBut [.tank, .ev] s u := by
    rw [hu]
    exact ((State.tankPut_clean hecc _ _ _).1.mono (by decide)).then (State.streamVec_same _ _)
  have htank : u.mem.tank = (s.tankPut (s.outEntry st o.seq) o.header 0).mem.tank := by
    rw [hu]
    exact State.streamVec_same _ _ .tank (by decide)
  rw [hw]
  refine ⟨by rw [State.strm_setStrm_self], (hsame.mono (by decide)).then (State.setStrm_same _ _ _), fun b => ?_⟩
  show u.mem.tank.byte b = _
  rw [htank]
  exact State.tankPut_byte hecc hend b

/-- The bytes of an entry and around it, read off the write of its record. -/
theorem entry_bytes {m n : Mem} {a : Nat} {bs : List Byte} (h : ∀ b, m.byte b = if a ≤ b ∧ b < a + bs.length then bs.getD (b - a) 0 else n.byte b) :
    (∀ b < bs.length, m.byte (a + b) = bs.getD b 0) ∧ ∀ b, ¬(a ≤ b ∧ b < a + bs.length) → m.byte b = n.byte b :=
  ⟨fun b hb => by rw [h, if_pos (by omega), Nat.add_sub_cancel_left], fun b hb => by rw [h, if_neg hb]⟩

theorem gapHeader_length (r : SeqSt) (cause late : Nat) (g : W64) : (gapHeader r cause late g).length = 32 := by
  simp [gapHeader, leBytes_length]

/-! ## The arrival by register -/

/-- An event is raised from every state with the same log. -/
theorem Raised.of_same {s t u : State} {code : Nat} {l : List Piece} (h : Raised code t u) (k : SameBut l s t) (he : .ev ∉ l := by decide) : Raised code s u := by
  rwa [Raised, k .ev he] at h

theorem passInput_arrived {s : State} {st : Nat} (hst : st < 64) :
    (passInput st (s.arrived st)).strm st = { (s.strm st).arrived (s.next st) (s.newDeadline st) with inp := none }
      ∧ (passInput st (s.arrived st)).next st = s.next st + 1 ∧ (∀ p, p ≠ st → (passInput st (s.arrived st)).strm p = s.strm p)
      ∧ ((s.strm st).inp = none → RegsBut [Reg.SEQ_STRM_NEXT st] s (passInput st (s.arrived st)) ∧ SameBut [.regs, .strms] s (passInput st (s.arrived st)))
      ∧ ((s.strm st).inp ≠ none → (passInput st (s.arrived st)).reg (Reg.INT_RING_DROP st) = satAdd (s.reg (Reg.INT_RING_DROP st)) 1
        ∧ Raised 0x0D84 s (passInput st (s.arrived st)) ∧ RegsBut [Reg.SEQ_STRM_NEXT st, Reg.INT_RING_DROP st] s (passInput st (s.arrived st))
        ∧ SameBut (evParts ++ [.regs, .strms]) s (passInput st (s.arrived st))) := by
  have hsame := s.arrived_same st
  have hregs := s.arrived_regsBut st
  have hstrm := s.arrived_strm st
  have hne : ∀ p, p ≠ st → (s.arrived st).strm p = s.strm p := fun p hp => s.arrived_strm_ne st hp
  have hnext := s.arrived_next st
  obtain ⟨u, hu⟩ : ∃ u, u = s.arrived st := ⟨_, rfl⟩
  rw [← hu] at hsame hregs hstrm hne hnext ⊢
  have hinp : (u.strm st).inp = (s.strm st).inp := by rw [hstrm]; rfl
  unfold passInput
  rw [hinp]
  cases hx : (s.strm st).inp with
  | none =>
    refine ⟨?_, hnext, hne, fun _ => ⟨hregs, hsame⟩, fun h => absurd rfl h⟩
    rw [hx] at hinp
    dsimp only
    rw [← hstrm, ← hinp]
  | some x =>
    dsimp only
    obtain ⟨v, hv⟩ : ∃ v, v = u.setInput st none := ⟨_, rfl⟩
    have hvs : SameBut [.strms] u v := by
      rw [hv]
      exact u.setStrm_same _ _
    have hvst : v.strm st = { u.strm st with inp := none } := by
      rw [hv]
      exact State.strm_setStrm_self _ _ _
    have hvne : ∀ p, p ≠ st → v.strm p = u.strm p := fun p hp => by
      rw [hv]
      exact strm_setStrm_ne _ _ hp
    rw [← hv]
    generalize (u.irecOf x.rcd).port = port
    have hd := dropInput_same v x.rcd st port 3
    have hdr := dropInput_regsBut v x.rcd st port 3
    have hreg := dropInput_reg v x.rcd st port 3
    have hrd := dropInput_raised v x.rcd st port 3
    generalize dropInput x.rcd st port 3 v = w at hd hdr hreg hrd
    have hsv : SameBut [.regs, .strms] s v := hsame.then hvs
    refine ⟨?_, ?_, fun p hp => ?_, fun h => absurd h (by simp), fun _ => ⟨?_, hrd.of_same hsv, ?_, ?_⟩⟩
    · rw [hd.strm (by decide), hvst, hstrm]
    · rw [State.next, hdr.reg (by simpa using next_ne_ringDrop hst), hvs.reg (by decide)]
      exact hnext
    · rw [hd.strm (by decide), hvne p hp, hne p hp]
    · rw [hreg, hvs.reg (by decide), hregs.reg (by simpa using (next_ne_ringDrop hst).symm)]
    · exact ((hregs.mono (by simp)).trans (hvs.regsBut _)).trans (hdr.mono (by simp))
    · exact (hsv.mono (by decide)).then hd

/-! ## A deadline -/

theorem lateGap_eq (g : W64) (r : SeqSt) : gapHeader (closeSeq g 1 r) 1 (lateUs g r.deadline) g = gapHeader r 1 (lateUs g r.deadline) g := by
  unfold closeSeq
  split
  · rfl
  · rfl

/-- The lowest number, open, closes at its deadline: what follows it is held back, and its record waits behind those that wait. -/
theorem deadline_flush {s : State} (h : s.PairOff) {st : Nat} {r : SeqSt} {rest : List SeqSt} (hx : (s.strm st).seqs = r :: rest) (hr : r.st = .opened)
    (hne : ∀ y ∈ rest, y.seq ≠ r.seq) (hrest : ∀ y, rest.head? = some y → y.st = .opened) :
    ∃ u, s.closeNum st r.seq 1 = writeOut st (u.strm st).outq u ∧ (u.strm st).seqs = rest ∧ u.reg (Reg.SEQ_STRM_GAPS st) = satAdd (s.reg (Reg.SEQ_STRM_GAPS st)) 1
      ∧ (u.strm st).outq = (s.strm st).outq ++ [⟨r.seq, gapHeader r 1 (lateUs s.cnt.gate r.deadline) s.cnt.gate, true, none⟩]
      ∧ RegsBut [Reg.SEQ_STRM_GAPS st] s u ∧ SameBut [.regs, .strms] s u := by
  obtain ⟨v, hv⟩ : ∃ v, v = s.mapSeq st r.seq (closeSeq s.cnt.gate 1) := ⟨_, rfl⟩
  have hvs : SameBut [.strms] s v := by
    rw [hv]
    exact s.mapSeq_same _ _ _
  have hvst : v.strm st = { s.strm st with seqs := closeSeq s.cnt.gate 1 r :: rest } := by
    have hmap : rest.map (fun y => if y.seq = r.seq then closeSeq s.cnt.gate 1 y else y) = rest :=
      (List.map_congr_left fun y hy => if_neg (hne y hy)).trans (List.map_id _)
    rw [hv, State.mapSeq, State.strm_setStrm_self, hx, List.map_cons, if_pos rfl, hmap]
  have hclosed : closeSeq s.cnt.gate 1 r = { r with st := .closed 1 (lateUs s.cnt.gate r.deadline) s.cnt.gate } := by
    unfold closeSeq
    rw [hr]
    rfl
  have hres : resolveOf v (closeSeq s.cnt.gate 1 r) = some (gapHeader r 1 (lateUs s.cnt.gate r.deadline) s.cnt.gate, true, 0) := by
    rw [← lateGap_eq, hclosed]
    rfl
  have hoff : v.PairOff := h.of_regsBut (hvs.regsBut []) (by simp)
  obtain ⟨w, hw⟩ : ∃ w, w = v.resolved st (closeSeq s.cnt.gate 1 r) (gapHeader r 1 (lateUs s.cnt.gate r.deadline) s.cnt.gate, true, 0) := ⟨_, rfl⟩
  have hwst : w.strm st = (v.strm st).resolved (closeSeq s.cnt.gate 1 r) ⟨r.seq, gapHeader r 1 (lateUs s.cnt.gate r.deadline) s.cnt.gate, true, none⟩ := by
    rw [hw, hclosed]
    exact ((State.incReg_same _ _ _).strm (by decide) st).trans (State.strm_setStrm_self v _ _)
  have hwr : RegsBut [Reg.SEQ_STRM_GAPS st] v w := by
    rw [hw]
    exact ((v.setStrm_same _ _).regsBut _).trans (State.incReg_regsBut _ _ _)
  have hws : SameBut [.regs, .strms] v w := by
    rw [hw]
    exact ((v.setStrm_same _ _).mono (by decide)).then (State.incReg_same _ _ _)
  have hgaps : w.reg (Reg.SEQ_STRM_GAPS st) = satAdd (s.reg (Reg.SEQ_STRM_GAPS st)) 1 := by
    rw [hw]
    exact (State.reg_incReg_self _ _ _).trans (congrArg (fun n => satAdd n 1) (hvs.reg (by decide) _))
  have hflush : flushSeqs st (v.strm st).seqs v = w.setStrm st { w.strm st with seqs := rest } := by
    rw [hvst]
    dsimp only
    rw [flushSeqs_resolved hoff hres, ← hw, flushSeqs_held hrest]
  refine ⟨w.setStrm st { w.strm st with seqs := rest }, ?_, ?_, ?_, ?_, ?_, ?_⟩
  · rw [State.closeNum, ← hv, State.flush, hflush]
  · rw [State.strm_setStrm_self]
  · exact ((w.setStrm_same _ _).reg (by decide) _).trans hgaps
  · rw [State.strm_setStrm_self]
    dsimp only
    rw [hwst, hvst]
    rfl
  · exact ((hvs.regsBut _).trans hwr).trans ((w.setStrm_same _ _).regsBut _)
  · exact ((hvs.mono (by decide)).then hws).then (w.setStrm_same _ _)

/-! ## Contexts that wait for a stream -/

/-- The context waits in TAKE or JOIN on a stream. -/
def Ctx.Awaits (c : Ctx) (st : Nat) : Prop := (∃ rn, c.hold = .take st rn) ∨ ∃ n rr, c.hold = .join st n rr

/-- The context has entered TRAP with the release gate's cause. -/
def Ctx.Trapped (c : Ctx) : Prop := c.st = .trap ∧ c.cause = 9 ∧ c.hold = .free

/-- One context that may wait. -/
def trapWaiter (st : Nat) (s : State) (i : Nat) : State :=
  match (s.ctx i).hold with
  | .take x _ => if x = st then s.trap i 9 else s
  | .join x _ _ => if x = st then s.trap i 9 else s
  | _ => s

theorem trapWaiters_eq (st : Nat) (s : State) : trapWaiters st s = (s.ctxs.map (fun e => e.1)).foldl (trapWaiter st) s := rfl

theorem State.trap_trapped (s : State) (i : Nat) : ((s.trap i 9).ctx i).Trapped := by
  rw [(s.trap_frame i 9).1]
  exact ⟨rfl, rfl, rfl⟩

theorem trapWaiter_ne (st : Nat) (s : State) {i j : Nat} (h : i ≠ j) : (trapWaiter st s j).ctx i = s.ctx i := by
  unfold trapWaiter
  split
  · split
    · exact (s.trap_frame j 9).2.1 i h
    · rfl
  · split
    · exact (s.trap_frame j 9).2.1 i h
    · rfl
  · rfl

theorem trapWaiter_self {st : Nat} {s : State} {i : Nat} (h : (s.ctx i).Awaits st) : ((trapWaiter st s i).ctx i).Trapped := by
  unfold trapWaiter
  obtain ⟨rn, hh⟩ | ⟨n, rr, hh⟩ := h
  · rw [hh]
    dsimp only
    rw [if_pos rfl]
    exact s.trap_trapped i
  · rw [hh]
    dsimp only
    rw [if_pos rfl]
    exact s.trap_trapped i

theorem trapWaiter_trapped {st : Nat} {s : State} {i : Nat} (h : (s.ctx i).Trapped) : ((trapWaiter st s i).ctx i).Trapped := by
  unfold trapWaiter
  rw [h.2.2]
  exact h

theorem foldl_trapWaiter {st i : Nat} (l : List Nat) (s : State) (h : (i ∈ l ∧ (s.ctx i).Awaits st) ∨ (s.ctx i).Trapped) :
    ((l.foldl (trapWaiter st) s).ctx i).Trapped := by
  induction l generalizing s with
  | nil => exact h.resolve_left fun hm => absurd hm.1 (by simp)
  | cons j rest ih =>
    refine ih _ ?_
    by_cases hj : i = j
    · subst hj
      exact .inr (h.elim (fun hm => trapWaiter_self hm.2) trapWaiter_trapped)
    · rw [trapWaiter_ne st s hj]
      exact h.imp_left fun hm => ⟨(List.mem_cons.mp hm.1).resolve_left hj, hm.2⟩

theorem trapWaiters_trapped {st i : Nat} {s : State} (h : (s.ctx i).Awaits st) : ((trapWaiters st s).ctx i).Trapped := by
  rw [trapWaiters_eq]
  refine foldl_trapWaiter _ s (.inl ⟨Classical.byContradiction fun hi => ?_, h⟩)
  rw [State.ctx_of_not_mem hi] at h
  obtain ⟨rn, hh⟩ | ⟨n, rr, hh⟩ := h
  · exact nomatch (show Hold.free = .take st rn from hh)
  · exact nomatch (show Hold.free = .join st n rr from hh)

theorem trapWaiters_logGrows (st : Nat) (s : State) : LogGrows s (trapWaiters st s) := by
  rw [trapWaiters_eq]
  refine LogGrows.foldl (fun t i => ?_) _ _
  have ht : LogGrows t (t.trap i 9) := (t.trap_frame i 9).2.2.1.logGrows
  unfold trapWaiter
  split
  · exact logGrows_ite ht (LogGrows.refl t)
  · exact logGrows_ite ht (LogGrows.refl t)
  · exact LogGrows.refl t

/-! ## The end of a stream's binding -/

/-- How a number ends with its stream's binding. -/
def closeUnbound (g : W64) (r : SeqSt) : SeqSt := match r.st with
  | .closed _ _ _ => r
  | _ => { r with st := .closed 3 0 g }

theorem closeUnbound_closed (g : W64) (r : SeqSt) : (closeUnbound g r).st ≠ .opened := by
  unfold closeUnbound
  split
  · next h => rw [h]; exact fun he => nomatch he
  · exact fun he => nomatch he

/-- With the pair disabled an unbound stream has no unresolved number, and event 0x0C07 is raised. -/
theorem unbind_alone {s : State} (h : s.PairOff) {st : Nat} (hst : st < 64) : ((unbind st s).strm st).seqs = [] ∧ RaisedAmong 0x0C07 s (unbind st s) := by
  obtain ⟨u, hu⟩ : ∃ u, u = s.setReg (Reg.SEQ_STRM_CFG st) (s.reg (Reg.SEQ_STRM_CFG st) &&& 0xFFFFFFFE) := ⟨_, rfl⟩
  obtain ⟨v, hv⟩ : ∃ v, v = u.setStrm st { u.strm st with seqs := (u.strm st).seqs.map (closeUnbound s.cnt.gate) } := ⟨_, rfl⟩
  have huv : SameBut [.regs, .strms] s v := by
    rw [hv, hu]
    exact ((s.setReg_same _ _).mono (by decide)).then (State.setStrm_same _ _ _)
  have hoff : v.PairOff := by
    have hv0 : HlkRegs u v := by
      rw [hv]
      exact (u.setStrm_same _ _).regsFrom
    have hlt : Reg.HLK_PAIR_CFG < baseStrm st := Nat.lt_of_lt_of_le (by decide) (strmReg_range hst).1
    have hu0 : u.PairOff := by
      rw [hu]
      exact h.of_regsBut (s.setReg_regsBut _ _) (List.mem_singleton.not.mpr (Nat.ne_of_lt (hlt.trans_le (Nat.le_add_right _ _))))
    exact hu0.of_hlk hv0
  have hvs : (v.strm st).seqs = (u.strm st).seqs.map (closeUnbound s.cnt.gate) := by
    rw [hv, State.strm_setStrm_self]
  obtain ⟨pay, e⟩ : ∃ pay, unbind st s = ((v.flush st).raise 0x0C07 1 (s.home st / 4) pay).mirrorConfig st := by
    rw [hv, hu]
    exact ⟨_, rfl⟩
  have hseqs : ((v.flush st).strm st).seqs = [] := by
    rw [State.flush, writeOut_seqs, hvs]
    refine flushSeqs_closed hoff hst fun r hr => ?_
    obtain ⟨q, -, rfl⟩ := List.mem_map.mp hr
    exact closeUnbound_closed _ q
  have hraise := (v.flush st).raise_raised 0x0C07 1 (s.home st / 4) pay
  have hsame := (v.flush st).raise_same 0x0C07 1 (s.home st / 4) pay
  have hlog : LogGrows s (v.flush st) := (huv.logGrows (by decide)).trans (v.flush_gateStep st).log
  rw [e]
  generalize (v.flush st).raise 0x0C07 1 (s.home st / 4) pay = w at hraise hsame
  have hm := w.mirrorSend_same (.config (strmId st) (w.reg (Reg.SEQ_STRM_CFG st)) (w.next st) (w.head st))
  exact ⟨by rw [State.mirrorConfig, hm.strm (by decide), hsame.strm (by decide), hseqs], (hlog.raised hraise).grows (hm.logGrows (by decide))⟩

/-! ## O39 -/

/-- Settles O39: with the pair disabled an arrival joins its stream, a deadline closes the lowest number as a gap, records go to the output ring in
their order, and an unbound stream has no unresolved number and no waiting context. -/
theorem streamsAndTheGate : Obligations.StreamsAndTheGate := by
  unfold Obligations.StreamsAndTheGate
  intro s q st x rfl rfl hoff
  have hst : q.val < 64 := q.isLt
  refine ⟨?_, ?_, ?_, ?_, ?_⟩
  · intro who hr hb d hd
    have hdl : s.newDeadline q.val = d := by
      rw [hd]
      rfl
    refine ⟨passInput q.val (s.arrived q.val), ?_, ?_, (passInput_arrived hst).2⟩
    · refine (next_access hr).trans (congrArg Host.Outcome.next ?_)
      rw [if_pos hb, State.PairOff.arrive hoff hst]
    · rw [(passInput_arrived hst).1, hdl]
      rfl
  · intro r rest hx hr hdl hne hrest
    obtain ⟨u, he, hseqs, hgaps, hout, hreg, hsame⟩ := deadline_flush hoff hx hr hne hrest
    have hexec : exec (.gateDeadline q) s = .next (writeOut q.val (u.strm q.val).outq u) := by
      rw [← he]
      refine congrArg Host.Outcome.next ?_
      unfold deadlineClose
      rw [hx, List.find?_cons_of_pos (by rw [hr]; rfl)]
      exact if_pos hdl
    refine ⟨_, hexec, (writeOut_seqs _ _ _).trans hseqs, ?_, ?_⟩
    · rw [(writeOut_regsBut _ _ _).reg (gaps_not_ecc hst), hgaps]
    · intro ho hf hecc hend
      have hrt : Reg.INT_OUT_TAIL q.val ∉ [Reg.SEQ_STRM_GAPS q.val] ∧ Reg.INT_OUT_GEOM q.val ∉ [Reg.SEQ_STRM_GAPS q.val] ∧ Reg.INT_OUT_BASE q.val ∉ [Reg.SEQ_STRM_GAPS q.val] := by
        have h1 := strmReg_range hst
        have h2 := ringReg_range hst
        simp only [List.mem_singleton, Reg.INT_OUT_TAIL, Reg.INT_OUT_GEOM, Reg.INT_OUT_BASE, Reg.SEQ_STRM_GAPS]
        omega
      obtain ⟨ht, hg, hb⟩ := hrt
      have hentry : u.outEntry q.val r.seq = s.outEntry q.val r.seq := by
        unfold State.outEntry
        rw [hreg.fld hb, hreg.fld hg, hreg.fld hg]
      have htank : u.mem.tank = s.mem.tank := hsame .tank (by decide)
      have hfree : u.outFree q.val r.seq = true := by
        rw [← hf]
        unfold State.outFree
        rw [hreg.reg ht, hreg.fld hg]
      rw [hout, ho, List.nil_append]
      have hlen := gapHeader_length r 1 (lateUs s.cnt.gate r.deadline) s.cnt.gate
      obtain ⟨h1, -, h3⟩ := writeOut_single (st := q.val) (s := u)
        (o := ⟨r.seq, gapHeader r 1 (lateUs s.cnt.gate r.deadline) s.cnt.gate, true, none⟩) rfl hfree (by rw [htank]; exact hecc) (by rw [hentry, hlen]; exact hend)
      rw [hentry, htank] at h3
      obtain ⟨h4, h5⟩ := entry_bytes h3
      rw [hlen] at h4 h5
      exact ⟨h1, h4, h5⟩
  · intro o hx hm hf hecc hend
    obtain ⟨h1, h2, h3⟩ := writeOut_single hm hf hecc hend
    obtain ⟨h4, h5⟩ := entry_bytes h3
    refine ⟨writeOut q.val [o] s, ?_, h1, h4, h5, h2⟩
    rw [← hx]
    rfl
  · intro who v hr
    have hlt : Reg.HLK_PAIR_CFG ∉ [Reg.INT_OUT_TAIL q.val] := by
      have h2 := ringReg_range hst
      exact List.mem_singleton.not.mpr (Nat.ne_of_lt ((Nat.lt_of_lt_of_le (by decide) h2.1).trans_le (Nat.le_add_right _ _)))
    have hreg := s.setReg_regsBut (Reg.INT_OUT_TAIL q.val) v
    have hsame := s.setReg_same (Reg.INT_OUT_TAIL q.val) v
    have hval : (s.setReg (Reg.INT_OUT_TAIL q.val) v).reg (Reg.INT_OUT_TAIL q.val) = v := State.reg_setReg_self _ _ _
    obtain ⟨u, hu⟩ : ∃ u, u = s.setReg (Reg.INT_OUT_TAIL q.val) v := ⟨_, rfl⟩
    rw [← hu] at hreg hsame hval
    have hou : u.PairOff := State.PairOff.of_regsBut hoff hreg hlt
    refine ⟨writeOut q.val (u.strm q.val).outq u, ?_, ?_, fun ho => ?_⟩
    · refine (next_access hr).trans (congrArg Host.Outcome.next ?_)
      rw [← hu, hou.mirrorSend]
    · rw [(writeOut_regsBut _ _ _).reg (outTail_not_ecc hst), hval]
    · have hnil : (u.strm q.val).outq = [] := by
        rw [hsame.strm (by decide)]
        exact ho
      have hw : writeOut q.val (u.strm q.val).outq u = u.setStrm q.val (u.strm q.val) := by
        rw [hnil]
        refine congrArg (u.setStrm q.val) ?_
        rw [← hnil]
      rw [hw]
      refine ⟨hreg.trans ((u.setStrm_same _ _).regsBut _), fun p => ?_, (hsame.mono (by decide)).then (u.setStrm_same _ _)⟩
      by_cases hp : p = q.val
      · rw [hp, State.strm_setStrm_self, hsame.strm (by decide)]
      · rw [strm_setStrm_ne _ _ hp, hsame.strm (by decide)]
  · intro who v hr hb hv
    obtain ⟨hseqs, hraised⟩ := unbind_alone hoff hst
    have ht := trapWaiters_same q.val (unbind q.val s)
    refine ⟨trapWaiters q.val (unbind q.val s), ?_, ?_, ?_, hraised.grows (trapWaiters_logGrows _ _), fun i hi => ?_⟩
    · refine (next_access hr).trans (congrArg Host.Outcome.next ?_)
      rw [strmCfgWrite, if_pos hb, hv]
      rfl
    · rw [State.bound, (ht.regsBut []).rbit (by simp)]
      exact unbind_bound q.val s hst
    · rw [ht.strm (by decide), hseqs]
    · exact trapWaiters_trapped (by rw [(unbind_same q.val s).ctx (by decide)]; exact hi)

end Sys2Proof.Machine
end

section
/-!
PROOFS. The intake: records, CSI-2 frames, Ethernet packets and the close of an input; O40.
-/
set_option Elab.async false

namespace Sys2Proof.Machine

/-! ## What the intake reads of its registers -/

/-- Registers of which none is an intake record's. -/
def NoIrec (l : List Nat) : Prop := ∀ i w, Reg.IREC i w ∉ l

theorem noIrec_of_lt {l : List Nat} (h : ∀ a ∈ l, a < 0x00C11000) : NoIrec l := by
  intro i w hm
  have hlt := h _ hm
  simp only [Reg.IREC] at hlt
  omega

section
variable {s t : State} {l : List Nat}

theorem RegsBut.irec (h : RegsBut l s t) (hl : NoIrec l) (i b n : Nat) : t.irec i b n = s.irec i b n := by
  unfold State.irec
  simp only [h.reg (hl i _)]

theorem RegsBut.irecOf (h : RegsBut l s t) (hl : NoIrec l) (i : Nat) : t.irecOf i = s.irecOf i := by
  unfold State.irecOf
  simp only [h.irec hl]

theorem RegsBut.inputOf (h : RegsBut l s t) (hl : NoIrec l) (hs : t.strms = s.strms) (i : Nat) : t.inputOf i = s.inputOf i := by
  unfold State.inputOf State.strm
  rw [h.irecOf hl, hs]

end

theorem irecOf_st_lt (s : State) (i : Nat) : (s.irecOf i).st < 64 := Nat.mod_lt _ (by decide)

theorem inputOf_rcd {s : State} {i : Nat} {x : OpenIn} (h : s.inputOf i = some x) : x.rcd = i := by
  unfold State.inputOf at h
  cases hx : (s.strm (s.irecOf i).st).inp with
  | none => rw [hx] at h; exact nomatch h
  | some y =>
    rw [hx, Option.bind_some] at h
    split at h
    · next hy => cases h; exact hy
    · exact nomatch h

/-- The registers that say whether a stream is bound and what its NEXT is stay. -/
theorem RegsBut.bound_next {l : List Nat} {s t : State} (h : RegsBut l s t) (hl : ∀ a ∈ l, a < 0x00CC0000 ∨ 0x00CC0800 ≤ a) {st : Nat} (hst : st < 64) :
    t.bound st = s.bound st ∧ t.next st = s.next st := by
  have hr := strmReg_range hst
  have hb : ∀ k < 0x20, baseStrm st + k ∉ l := fun k hk hm => by
    have := hl _ hm
    omega
  exact ⟨h.rbit (hb 0 (by decide)) 0, h.reg (hb 8 (by decide))⟩

/-! ## The close of an input that is an arrival -/

/-- What the close of an input leaves where it is an arrival: no input is open and one open number more is unresolved. -/
structure InputClosed (s t : State) (st : Nat) (n : W32) : Prop where
  inp : (t.strm st).inp = none
  next : t.next st = n + 1
  seqs : ∃ y, (t.strm st).seqs = (s.strm st).seqs ++ [y] ∧ y.seq = n ∧ y.st = .opened

theorem InputClosed.of_strms {s t u : State} {st : Nat} {n : W32} (h : InputClosed t u st n) (hs : t.strms = s.strms) : InputClosed s u st n := by
  obtain ⟨h1, h2, h3⟩ := h
  exact ⟨h1, h2, by rwa [show t.strm st = s.strm st by rw [State.strm, hs]; rfl] at h3⟩

/-- An arrival without a pair on a stream whose input was taken away. -/
theorem arrive_closed {s : State} {st : Nat} {n : W32} (hoff : s.PairOff) (hst : st < 64) (hinp : (s.strm st).inp = none) (hn : s.next st = n) : InputClosed s (s.arrive st) st n := by
  rw [hoff.arrive hst]
  refine ⟨?_, by rw [State.arrived_next, hn], ⟨⟨s.next st, s.newDeadline st, false, false, .opened⟩, ?_, hn, rfl⟩⟩
  · rw [State.arrived_strm]
    exact hinp
  · rw [State.arrived_strm]
    rfl

theorem closeInput_arrives {s : State} {i : Nat} {x : OpenIn} {r : IRec} {data : List Byte} (hr : r = s.irecOf i) (hoff : s.PairOff) (hb : s.bound r.st = true)
    (hn : s.next r.st = x.seq) : InputClosed s (closeInput i x data s) r.st x.seq := by
  have hst : r.st < 64 := by rw [hr]; exact irecOf_st_lt s i
  obtain ⟨u, hu⟩ : ∃ u, u = s.setInput r.st none := ⟨_, rfl⟩
  have hus : SameBut [.strms] s u := by
    rw [hu]
    exact s.setStrm_same _ _
  have hur : RegsBut [] s u := hus.regsBut []
  have hb' : u.bound r.st = true := (hur.bound_next (by simp) hst).1.trans hb
  have hn' : u.next r.st = x.seq := (hur.bound_next (by simp) hst).2.trans hn
  have e : closeInput i x data s = if !u.bound r.st then dropInput i r.st r.port 1 u else if u.next r.st ≠ x.seq then dropInput i r.st r.port 3 u
      else ((u.tankPut (u.inEntry r.st x.seq + 64) (data.take (u.inRoom r.st)) 48).tankPut (u.inEntry r.st x.seq) (inHeader r.port x
        (x.flags ||| (if u.inRoom r.st < data.length then 32 else 0) ||| (if x.sat = 0 then 0 else 64)) (data.take (u.inRoom r.st)).length) 48).arrive r.st := by
    rw [hu, hr]
    rfl
  rw [e, if_neg (by rw [hb']; decide), if_neg (not_not.mpr hn')]
  generalize inHeader r.port x _ _ = h2
  generalize data.take (u.inRoom r.st) = h1
  obtain ⟨v, hv⟩ : ∃ v, v = (u.tankPut (u.inEntry r.st x.seq + 64) h1 48).tankPut (u.inEntry r.st x.seq) h2 48 := ⟨_, rfl⟩
  have hvs : SameBut accessParts u v := by
    rw [hv]
    exact (u.tankPut_same _ _ _).then (State.tankPut_same _ _ _ _)
  have hvr : RegsBut eccRegs u v := by
    rw [hv]
    exact (u.tankPut_regsBut _ _ _).trans (State.tankPut_regsBut _ _ _ _)
  have hust : u.strm r.st = { s.strm r.st with inp := none } := by
    rw [hu]
    exact State.strm_setStrm_self _ _ _
  have hvst : v.strm r.st = u.strm r.st := hvs.strm (by decide) _
  rw [← hv]
  have hvoff : v.PairOff := (State.PairOff.of_regsBut hoff hur (by simp)).of_regsBut hvr (by decide)
  obtain ⟨h3, h4, y, h5, h6⟩ := arrive_closed (n := x.seq) hvoff hst (by rw [hvst, hust]) ((hvr.bound_next (by decide) hst).2.trans hn')
  refine ⟨h3, h4, y, ?_, h6⟩
  rw [h5, hvst, hust]

/-- The close of a CSI input, with the saturated elements counted first. -/
theorem closeCsi_arrives {s : State} {i : Nat} {x : OpenIn} {r : IRec} {short : Bool} (hr : r = s.irecOf i) (hoff : s.PairOff) (hb : s.bound r.st = true)
    (hn : s.next r.st = x.seq) : InputClosed s (closeCsi i x short s) r.st x.seq := by
  unfold closeCsi
  extract_lets r0 els n fl
  have hs := s.incReg_same Reg.INT_SAT_CNT n
  have hg := s.incReg_regsBut Reg.INT_SAT_CNT n
  generalize s.incReg Reg.INT_SAT_CNT n = u at hs hg
  have hrr : r = u.irecOf i := by rw [hg.irecOf (noIrec_of_lt (by decide)), hr]
  have hbn := hg.bound_next (by decide) (hr ▸ irecOf_st_lt s i)
  exact (closeInput_arrives (x := { x with tend := s.portCount r0.port, flags := fl, sat := n }) hrr (hoff.of_regsBut hg (by decide)) (hbn.1.trans hb) (hbn.2.trans hn)).of_strms
    (hs .strms (by decide))

/-! ## A record's enable -/

section
variable (s : State) (i : Nat) (v : W32)

theorem recordWrite_off (he : (s.irecOf i).en = true) (hv : bit v 7 = false) : (recordWrite i v s).rbit (Reg.IREC i 0) 7 = false
    ∧ RegsBut [Reg.IREC i 0] s (recordWrite i v s) ∧ SameBut [.regs, .strms] s (recordWrite i v s) := by
  obtain ⟨u, hu⟩ : ∃ u, u = if (s.inputOf i).isSome then s.setInput (s.irecOf i).st none else s := ⟨_, rfl⟩
  have hus : SameBut [.strms] s u := by
    rw [hu]
    exact sameBut_ite (s.setStrm_same _ _) (SameBut.refl _ s)
  have e : recordWrite i v s = u.clrReg (Reg.IREC i 0) 0x80 := by
    unfold recordWrite
    dsimp only
    rw [if_pos he, hv, if_neg (by decide), ← hu]
  rw [e]
  refine ⟨?_, (hus.regsBut _).trans (State.clrReg_regsBut _ _ _), (hus.mono (by decide)).then (State.clrReg_same _ _ _)⟩
  rw [State.rbit_clrReg_self _ _ _ _ (by decide), show Nat.testBit 0x80 7 = true by decide]
  exact Bool.and_false _

/-- The record's first word without EN. -/
def State.recordOff : State := s.setReg (Reg.IREC i 0) (v &&& 0x3FFF0F07)

theorem recordWrite_on (he : (s.irecOf i).en = false) (hv : bit v 7 = true) : recordWrite i v s
    = if irecOk (s.recordOff i v) i && (v &&& 0xC000F078) == 0 then (s.recordOff i v).orReg (Reg.IREC i 0) 0x80
      else (((s.recordOff i v).orReg Reg.INT_ERR 1).setFld Reg.INT_ERR 21 16 i).raise 0x0D85 1 0x100 i := by
  unfold recordWrite
  dsimp only
  rw [if_neg (by rw [he]; decide), hv]
  rfl

theorem recordOff_rbit : (s.recordOff i v).rbit (Reg.IREC i 0) 7 = false := by
  rw [State.recordOff, State.rbit_setReg_self, bit_eq_getLsbD, BitVec.getLsbD_and]
  exact Bool.and_false _

end

theorem irec_ne_intErr (i : Nat) : Reg.IREC i 0 ≠ Reg.INT_ERR := by
  have h : Reg.INT_ERR < 0x00C11000 := by decide
  simp only [Reg.IREC]
  omega

/-! ## Opening an input -/

theorem openInput_none {s : State} {i : Nat} (h : openNo s (s.irecOf i).st = none) : openInput i s = s.setInput (s.irecOf i).st
    (some ⟨i, s.next (s.irecOf i).st, [], 0, 0, 0, s.portCount (s.irecOf i).port, s.portCount (s.irecOf i).port, []⟩) := by
  unfold openInput
  dsimp only
  rw [h]

theorem openInput_some {s : State} {i : Nat} (h : openNo s (s.irecOf i).st ≠ none) : ∃ reason, openInput i s = dropInput i (s.irecOf i).st (s.irecOf i).port reason s := by
  obtain ⟨reason, hr⟩ := Option.ne_none_iff_exists'.mp h
  refine ⟨reason, ?_⟩
  unfold openInput
  dsimp only
  rw [hr]

/-- A line for an open input. -/
theorem csiLine_some {s : State} {i : Nat} {x : OpenIn} (data : List Byte) (crcOk : Bool) (h : s.inputOf i = some x) :
    ∃ y, csiLine i data crcOk s = s.setInput (s.irecOf i).st (some y) ∧ y.rcd = x.rcd ∧ y.seq = x.seq ∧ y.units = x.units + 1
      ∧ y.raw.length = if (s.irecOf i).inH ≤ x.raw.length then x.raw.length else x.raw.length + 1 := by
  unfold csiLine
  rw [h]
  refine ⟨_, rfl, rfl, rfl, rfl, ?_⟩
  dsimp only
  by_cases hl : (s.irecOf i).inH ≤ x.raw.length
  · rw [if_pos hl, if_pos (decide_eq_true hl)]
  · rw [if_neg hl, if_neg (by simpa using hl), List.length_append]
    rfl

/-! ## O40 -/

/-- The intake with a frame's record table changed. -/
def State.withCsi (s : State) (t : Tab Bool) : State := { s with eng := { s.eng with csi := t } }

theorem State.withCsi_same (s : State) (t : Tab Bool) : SameBut [.eng] s (s.withCsi t) :=
  fun p hp => by cases p <;> first | rfl | exact absurd (by decide) hp

section
variable {s : State} {port : Fin 4} {vc : Fin 16} {i : Nat}

theorem exec_csiFrameStart (hon : s.portOn port = true) (hl : s.csiRecs port vc = [i]) (hx : s.inputOf i = none) :
    ∃ t, exec (.csiFrameStart port vc) s = .next (openInput i (s.withCsi t)) := by
  have hd : exec (.csiFrameStart port vc) s = execCsiFrameStart port vc s := rfl
  refine ⟨Tab.insert s.eng.csi (16 * port.val + vc.val) (s.csiRecs port vc).isEmpty, ?_⟩
  have hx' : ∀ t, (s.withCsi t).inputOf i = none := fun _ => hx
  rw [hd]
  refine (congrArg Host.Outcome.next (if_pos hon)).trans ?_
  show Host.Outcome.next ((s.csiRecs port vc).foldl _ (s.withCsi (Tab.insert s.eng.csi (16 * port.val + vc.val) (s.csiRecs port vc).isEmpty))) = _
  rw [hl, List.foldl_cons, List.foldl_nil, hx']

theorem exec_csiFrameEnd {x : OpenIn} (hon : s.portOn port = true) (hl : s.csiRecs port vc = [i]) (hx : s.inputOf i = some x) :
    ∃ t n, exec (.csiFrameEnd port vc) s = .next (closeCsi i x false ((s.withCsi t).incReg Reg.INT_ERR_CNT n)) := by
  have hd : exec (.csiFrameEnd port vc) s = execCsiFrameEnd port vc s := rfl
  rw [hd]
  unfold execCsiFrameEnd
  extract_lets key l lost
  refine ⟨Tab.erase s.eng.csi key, b2n lost, ?_⟩
  refine (congrArg Host.Outcome.next (if_pos hon)).trans ?_
  have hx' : ((s.withCsi (Tab.erase s.eng.csi key)).incReg Reg.INT_ERR_CNT (b2n lost)).inputOf i = some x := by
    rw [← hx]
    exact ((s.withCsi (Tab.erase s.eng.csi key)).incReg_regsBut Reg.INT_ERR_CNT (b2n lost)).inputOf (noIrec_of_lt (by decide)) rfl i
  show Host.Outcome.next (l.foldl _ ((s.withCsi (Tab.erase s.eng.csi key)).incReg Reg.INT_ERR_CNT (b2n lost))) = _
  rw [show l = [i] from hl, List.foldl_cons, List.foldl_nil, hx']

theorem exec_csiLongPacket (hon : s.portOn port = true) (hl : s.csiRecs port vc = [i]) {dt : Byte} (hdt : (s.irecOf i).dt = dt.toNat) (data : List Byte) (crcOk : Bool) :
    exec (.csiLongPacket port vc dt data true crcOk) s = .next (csiLine i data crcOk s) := by
  have hd : exec (.csiLongPacket port vc dt data true crcOk) s = execCsiLongPacket port vc dt data true crcOk s := rfl
  rw [hd]
  unfold execCsiLongPacket State.when
  dsimp only
  rw [if_pos hon, if_neg (by decide), hl, List.find?_cons_of_pos (by rw [hdt]; exact beq_self_eq_true _)]

end

/-- An open input with the payload of a packet more. -/
def OpenIn.packet (x : OpenIn) (bs : List Byte) (now : W64) : OpenIn := { x with units := x.units + 1, data := x.data ++ bs, tend := now }

/-- What a packet for an open input does. -/
theorem exec_ethFrame {s : State} {port : Fin 2} {f : EthFrame} {i : Nat} {x : OpenIn} (hon : s.portOn (4 + port.val) = true) (hg : f.good = true) (hm : macTakes s port f.dst = true)
    (hi : (List.range 64).find? (fun i => (s.irecOf i).en && (s.irecOf i).port == 4 + port.val && (s.irecOf i).udp == f.udpPort.toNat) = some i)
    (hk : Tab.getD s.eng.skip i 0 = 0) (hx : s.inputOf i = some x) : exec (.ethFrame port f) s = .next (ethAppend i x f s) := by
  have hd : exec (.ethFrame port f) s = execEthFrame port f s := rfl
  rw [hd]
  unfold execEthFrame State.when
  dsimp only
  rw [if_pos hon, hg, hm, if_pos (by decide), hi]
  dsimp only
  rw [hk, if_neg (by decide), hx]

/-- Settles O40: with the pair disabled the close of an input whose number NEXT still has is an arrival. -/
theorem intakeOpensAndClosesInputs : Obligations.IntakeOpensAndClosesInputs := by
  unfold Obligations.IntakeOpensAndClosesInputs
  intro s
  refine ⟨?_, ?_, ?_, ?_, ?_⟩
  · intro who i v hr
    refine ⟨fun he hv => ?_, ?_⟩
    · obtain ⟨h1, h2, h3⟩ := recordWrite_off s i.val v he hv
      exact ⟨_, next_access hr, h1, h2, h3⟩
    · rintro u he hv rfl ok hok
      have hregs : RegsBut [Reg.IREC i 0] s (s.recordOff i.val v) := s.setReg_regsBut _ _
      have hsame : SameBut [.regs] s (s.recordOff i.val v) := s.setReg_same _ _
      have hoff := recordOff_rbit s i.val v
      have he' := recordWrite_on s i.val v he hv
      rw [show (irecOk (s.recordOff i.val v) i.val && (v &&& 0xC000F078) == 0) = ok from hok.symm] at he'
      generalize s.recordOff i.val v = u at hregs hsame hoff he'
      refine ⟨recordWrite i.val v s, next_access hr, ?_, ?_, ?_⟩
      · rw [he']
        cases ok with
        | true =>
          rw [if_pos rfl, State.rbit_orReg_self _ _ _ _ (by decide), show Nat.testBit 0x80 7 = true by decide]
          exact Bool.or_true _
        | false =>
          rw [if_neg (by decide), ((State.raise_same _ _ _ _ _).regsBut []).rbit (by simp), ((u.orReg_regsBut Reg.INT_ERR 1).trans (State.setFld_regsBut _ _ _ _ _)).rbit (by simpa using irec_ne_intErr i)]
          exact hoff
      · rintro rfl
        rw [he', if_pos rfl]
        exact ⟨hregs.trans (State.orReg_regsBut _ _ _), hsame.then (State.orReg_same _ _ _)⟩
      · rintro rfl
        rw [he', if_neg (by decide)]
        have h2 : SameBut [.regs] s ((u.orReg Reg.INT_ERR 1).setFld Reg.INT_ERR 21 16 i.val) := (hsame.then (State.orReg_same _ _ _)).then (State.setFld_same _ _ _ _ _)
        refine ⟨?_, (State.raise_raised _ _ _ _ _).of_same h2, ?_⟩
        · rw [((State.raise_same _ _ _ _ _).regsBut []).rbit (by simp), State.rbit_setFld_self _ _ _ _ _ _ (by decide) (by decide), if_neg (by decide), State.rbit_orReg_self _ _ _ _ (by decide)]
          exact Bool.or_true _
        · refine RegsBut.trans ?_ ((State.raise_same _ _ _ _ _).regsBut _)
          exact ((hregs.mono (by simp)).trans ((State.orReg_regsBut _ _ _).mono (by simp))).trans ((State.setFld_regsBut _ _ _ _ _).mono (by simp))
  · intro port vc i r hon hl hr
    subst hr
    refine ⟨fun hx => ⟨fun ho => ?_, fun ho => ?_⟩, fun dt data crcOk => ?_, fun x hx => ⟨fun dt data crcOk hdt => ?_, fun hoff hb hn => ?_⟩⟩
    · obtain ⟨t, he⟩ := exec_csiFrameStart hon hl hx
      have hs := s.withCsi_same t
      rw [openInput_none (s := s.withCsi t) ho] at he
      refine ⟨_, he, ?_, (hs.mono (by decide)).then (State.setStrm_same _ _ _)⟩
      exact congrArg Strm.inp (State.strm_setStrm_self (s.withCsi t) (s.irecOf i).st _)
    · obtain ⟨t, he⟩ := exec_csiFrameStart hon hl hx
      have hs := s.withCsi_same t
      obtain ⟨reason, ho'⟩ := openInput_some (s := s.withCsi t) ho
      rw [ho'] at he
      refine ⟨_, he, ?_, (dropInput_raised _ _ _ _ _).of_same hs, (hs.regsBut _).trans (dropInput_regsBut _ _ _ _ _), (hs.mono (by decide)).then (dropInput_same _ _ _ _ _)⟩
      exact dropInput_reg (s.withCsi t) _ _ _ _
    · have hd : exec (.csiLongPacket port vc dt data false crcOk) s = .next (s.incReg Reg.INT_ERR_CNT 1) := congrArg Host.Outcome.next (if_pos hon)
      exact ⟨_, hd, State.reg_incReg_self _ _ _, s.incReg_regsBut _ _, s.incReg_same _ _⟩
    · obtain ⟨y, he, h1, h2, h3, h4⟩ := csiLine_some data crcOk hx
      refine ⟨_, y, (exec_csiLongPacket hon hl hdt data crcOk).trans (congrArg Host.Outcome.next he), ?_, h1.trans (inputOf_rcd hx), h2, h3, h4, s.setStrm_same _ _⟩
      exact congrArg Strm.inp (State.strm_setStrm_self s (s.irecOf i).st _)
    · obtain ⟨t, n, he⟩ := exec_csiFrameEnd hon hl hx
      have hg : RegsBut [Reg.INT_ERR_CNT] s ((s.withCsi t).incReg Reg.INT_ERR_CNT n) := ((s.withCsi_same t).regsBut _).trans (State.incReg_regsBut _ _ _)
      have hs : SameBut [.regs, .eng] s ((s.withCsi t).incReg Reg.INT_ERR_CNT n) := ((s.withCsi_same t).mono (by decide)).then (State.incReg_same _ _ _)
      generalize (s.withCsi t).incReg Reg.INT_ERR_CNT n = u at he hg hs
      have hbn := hg.bound_next (by decide) (irecOf_st_lt s i)
      obtain ⟨h1, h2, h3⟩ := (closeCsi_arrives (short := false) (hg.irecOf (noIrec_of_lt (by decide)) i).symm (State.PairOff.of_regsBut hoff hg (by decide)) (hbn.1.trans hb)
        (hbn.2.trans hn)).of_strms (hs .strms (by decide))
      exact ⟨_, he, h1, h2, h3⟩
  · intro port f hon
    refine ⟨fun hbad => ?_, ?_⟩
    · have hno : (f.good && macTakes s port f.dst) = false := by
        rcases hbad with h | h
        · rw [h, Bool.false_and]
        · rw [h, Bool.and_false]
      have hd : exec (.ethFrame port f) s = .next (s.incReg Reg.INT_ERR_CNT 1) := by
        have hd : exec (.ethFrame port f) s = execEthFrame port f s := rfl
        rw [hd]
        unfold execEthFrame State.when
        dsimp only
        rw [if_pos hon, hno, if_neg (by decide)]
      exact ⟨_, hd, State.reg_incReg_self _ _ _, s.incReg_regsBut _ _, s.incReg_same _ _⟩
    · rintro i r x hg hm hi rfl hk hx
      have he := exec_ethFrame hon hg hm hi hk hx
      refine ⟨fun hlt => ?_, fun hge hoff hb hn => ?_⟩
      · refine ⟨s.setInput (s.irecOf i).st (some (x.packet (f.payload.drop (s.irecOf i).payoff) (s.portCount (s.irecOf i).port))),
          x.packet (f.payload.drop (s.irecOf i).payoff) (s.portCount (s.irecOf i).port),
          he.trans (congrArg Host.Outcome.next (if_neg (Nat.not_le.mpr hlt))), ?_, ?_, ?_, s.setStrm_same _ _⟩
        · exact congrArg Strm.inp (State.strm_setStrm_self s (s.irecOf i).st _)
        · rfl
        · rfl
      · obtain ⟨h1, h2, h3⟩ := closeInput_arrives (i := i) (x := x.packet (f.payload.drop (s.irecOf i).payoff) (s.portCount (s.irecOf i).port))
          (data := x.data ++ f.payload.drop (s.irecOf i).payoff) rfl hoff hb hn
        exact ⟨_, he.trans (congrArg Host.Outcome.next (if_pos hge)), h1, h2, h3⟩
  · rintro i r x hup rfl hen hport htmo hx hoff hb hn
    obtain ⟨h1, h2, h3⟩ := closeInput_arrives (i := i) (x := { x with flags := x.flags ||| 16 }) (data := x.data) rfl hoff hb hn
    refine ⟨_, ?_, h1, h2, h3⟩
    have hd : exec (.intakeTimeout i) s = execIntakeTimeout i s := rfl
    rw [hd]
    unfold execIntakeTimeout State.when
    dsimp only
    rw [if_pos (by simp [hup, hen, hport, htmo]), hx]
  · intro port on hup
    have hd : exec (.intakeLockChange port on) s = .next (if on then s.orReg Reg.INT_PSTAT (2 ^ port.val) else s.clrReg Reg.INT_PSTAT (2 ^ port.val)) :=
      congrArg Host.Outcome.next (if_pos hup)
    have hp : port.val < 32 := Nat.lt_of_lt_of_le port.isLt (by decide)
    refine ⟨_, hd, ?_, fun b hb hne => ?_, ?_, ?_⟩
    · cases on with
      | true =>
        rw [if_pos rfl, State.rbit_orReg_self _ _ _ _ hp, Nat.testBit_two_pow_self]
        exact Bool.or_true _
      | false =>
        rw [if_neg (by decide), State.rbit_clrReg_self _ _ _ _ hp, Nat.testBit_two_pow_self]
        exact Bool.and_false _
    · have hbit : Nat.testBit (2 ^ port.val) b = false := Nat.testBit_two_pow_of_ne (Ne.symm hne)
      cases on with
      | true => rw [if_pos rfl, State.rbit_orReg_self _ _ _ _ hb, hbit, Bool.or_false]
      | false => rw [if_neg (by decide), State.rbit_clrReg_self _ _ _ _ hb, hbit, Bool.not_false, Bool.and_true]
    · exact regsBut_ite (s.orReg_regsBut _ _) (s.clrReg_regsBut _ _)
    · exact sameBut_ite (s.orReg_same _ _) (s.clrReg_same _ _)

end Sys2Proof.Machine
end

section
/-!
PROOFS. The press's configuration, the reload requests and their start; O38.
-/
set_option Elab.async false

namespace Sys2Proof.Machine

/-! ## PRS_CFG -/

theorem regRow_prsCfg : regRow Reg.PRS_CFG = some ⟨0x0, 1, 0x4, 0x240, 0x77F, 0x0, 0x0, true, 0⟩ := by decide

/-- SPARES takes the value written. -/
theorem maskWrite_spares {r : RegRow} (h : regRow Reg.PRS_CFG = some r) (lock : Bool) (cur v : W32) {b : Nat} (h8 : 8 ≤ b) (h10 : b ≤ 10) :
    bit (maskWrite r lock cur v) b = bit v b := by
  rw [regRow_prsCfg] at h
  cases h
  have hb : b = 8 ∨ b = 9 ∨ b = 10 := by omega
  simp only [bit_eq_getLsbD, maskWrite]
  obtain rfl | rfl | rfl := hb
  · cases lock <;> simp
  · cases lock <;> simp
  · cases lock <;> simp

/-! ## The reserves -/

section
variable (s : State)

theorem resv_eq_iff {c d : Nat} : Reg.PRS_RESV (c / 8) = Reg.PRS_RESV (d / 8) ↔ c / 8 = d / 8 := by
  simp only [Reg.PRS_RESV]
  omega

theorem State.putReserve_regsBut (c n : Nat) : RegsBut [Reg.PRS_RESV (c / 8)] s (s.putReserve c n) := s.setFld_regsBut _ _ _ _

theorem State.putReserve_self {c n : Nat} (hn : n < 16) : (s.putReserve c n).reserve c = n := by
  have hw : 4 * (c % 8) + 3 + 1 - 4 * (c % 8) = 4 := by omega
  rw [State.reserve, State.putReserve, State.fld_setFld_self _ _ _ _ _ (by omega) (by omega), hw]
  exact Nat.mod_eq_of_lt hn

theorem State.putReserve_ne {c d n : Nat} (h : d ≠ c) : (s.putReserve c n).reserve d = s.reserve d := by
  unfold State.reserve
  by_cases hr : d / 8 = c / 8
  · refine State.fld_congr fun i hlo hhi => ?_
    rw [hr, State.putReserve, State.rbit_setFld_self _ _ _ _ _ _ (by omega) (by omega), if_neg (by omega)]
  · exact (s.putReserve_regsBut c n).fld (by simpa using resv_eq_iff.not.mpr hr) _ _

theorem foldl_putReserve_reserve {f : Nat → Nat} (hf : ∀ c, f c < 16) (l : List Nat) (d : Nat) :
    (l.foldl (fun t c => t.putReserve c (f c)) s).reserve d = if d ∈ l then f d else s.reserve d := by
  induction l generalizing s with
  | nil => rw [if_neg (by simp)]; rfl
  | cons c r ih =>
    rw [List.foldl_cons, ih]
    by_cases hd : d ∈ r
    · rw [if_pos hd, if_pos (List.mem_cons_of_mem _ hd)]
    · rw [if_neg hd]
      by_cases he : d = c
      · rw [he, if_pos List.mem_cons_self, s.putReserve_self (hf c)]
      · rw [s.putReserve_ne he, if_neg (by simp [he, hd])]

theorem State.health_same (b : Nat) : SameBut (.regs :: evParts) s (s.health b) :=
  sameBut_ite (SameBut.refl _ s) (((s.orReg_same _ _).mono (by decide)).then (State.raise_same _ _ _ _ _))

theorem State.sparesHealth_same : SameBut (.regs :: evParts) s s.sparesHealth :=
  sameBut_ite (s.health_same 0) ((s.clrReg_same _ _).mono (by decide))

theorem State.sparesHealth_regsBut : RegsBut [Reg.TST_HEALTH] s s.sparesHealth := regsBut_ite (s.health_regsBut 0) (s.clrReg_regsBut _ _)

theorem State.sparesHealth_reserve (c : Nat) (hc : c < 32) : s.sparesHealth.reserve c = s.reserve c := by
  refine s.sparesHealth_regsBut.fld ?_ _ _
  have hlt : Reg.TST_HEALTH > 0x01F00000 - 1 := by decide
  simp only [List.mem_singleton, Reg.PRS_RESV, basePrs]
  omega

theorem State.sparesHealth_bit : s.sparesHealth.rbit Reg.TST_HEALTH 0 = (List.range 32).any (fun c => s.reserve c == 0) := by
  unfold State.sparesHealth
  split
  · next h => rw [h, s.health_bit (by decide)]
  · next h =>
    rw [State.rbit_clrReg_self _ _ _ _ (by decide), show Nat.testBit 1 0 = true by decide, Bool.not_true, Bool.and_false]
    exact (Bool.eq_false_iff.mpr h).symm

end

/-- The reserves that SPARES asks for. -/
theorem reservesSet_spec (s : State) : (∀ c < 32, s.reservesSet.reserve c = min (min 4 (s.fld Reg.PRS_CFG 10 8)) (s.freeCount c))
    ∧ s.reservesSet.rbit Reg.TST_HEALTH 0 = (List.range 32).any (fun c => s.reservesSet.reserve c == 0)
    ∧ RegsBut (Reg.TST_HEALTH :: (List.range 4).map Reg.PRS_RESV) s s.reservesSet ∧ SameBut (.regs :: .prs :: evParts) s s.reservesSet := by
  obtain ⟨n, hn⟩ : ∃ n, n = min 4 (s.fld Reg.PRS_CFG 10 8) := ⟨_, rfl⟩
  have hf : ∀ c, min n (s.freeCount c) < 16 := fun c => by omega
  obtain ⟨t, ht⟩ : ∃ t, t = (List.range 32).foldl (fun t c => t.putReserve c (min n (s.freeCount c))) s := ⟨_, rfl⟩
  obtain ⟨p, e⟩ : ∃ p, s.reservesSet = { t with prs := p }.sparesHealth := by
    rw [ht, hn]
    exact ⟨_, rfl⟩
  have hres : ∀ c < 32, t.reserve c = min n (s.freeCount c) := fun c hc => by
    rw [ht, foldl_putReserve_reserve s hf, if_pos (List.mem_range.mpr hc)]
  have hregs : RegsBut ((List.range 4).map Reg.PRS_RESV) s t := by
    have hmem : ∀ l : List Nat, (∀ c ∈ l, c < 32) → ∀ u, RegsBut ((List.range 4).map Reg.PRS_RESV) u (l.foldl (fun t c => t.putReserve c (min n (s.freeCount c))) u) := by
      intro l
      induction l with
      | nil => exact fun _ u => RegsBut.refl _ u
      | cons c r ih =>
        intro hl u
        refine ((u.putReserve_regsBut c _).mono fun a ha => ?_).trans (ih (fun d hd => hl d (List.mem_cons_of_mem _ hd)) _)
        rw [List.mem_singleton.mp ha]
        exact List.mem_map_of_mem (List.mem_range.mpr (by have := hl c List.mem_cons_self; omega))
    rw [ht]
    exact hmem _ (fun c hc => List.mem_range.mp hc) s
  have hsame : SameBut [.regs] s t := by
    rw [ht]
    exact SameBut.foldl (fun u c => u.setFld_same _ _ _ _) _ _
  have hp : SameBut [.prs] t { t with prs := p } := fun q hq => by cases q <;> first | rfl | exact absurd (by decide) hq
  have hpres : ∀ c, { t with prs := p }.reserve c = t.reserve c := fun _ => rfl
  generalize { t with prs := p } = u at e hp hpres
  have hall : ∀ c < 32, s.reservesSet.reserve c = u.reserve c := fun c hc => by rw [e, u.sparesHealth_reserve c hc]
  refine ⟨fun c hc => ?_, ?_, ?_, ?_⟩
  · rw [hall c hc, hpres, hres c hc, hn]
  · have hany : (List.range 32).any (fun c => s.reservesSet.reserve c == 0) = (List.range 32).any (fun c => u.reserve c == 0) :=
      Bool.eq_iff_iff.mpr (by
        simp only [List.any_eq_true]
        exact exists_congr fun c => and_congr_right fun hc => by rw [hall c (List.mem_range.mp hc)])
    rw [hany, e, u.sparesHealth_bit]
  · rw [e]
    exact ((hregs.trans (hp.regsBut _)).mono fun a ha => List.mem_cons_of_mem _ ha).trans (u.sparesHealth_regsBut.mono (by simp))
  · rw [e]
    exact (SameBut.then (l := .regs :: .prs :: evParts) (hsame.mono (by decide)) hp).trans (u.sparesHealth_same.mono (by decide))

/-! ## Presses within the hour -/

/-- The presses of a pool array that still count. -/
def keptPresses (p : W64 → Bool) (e : Nat × List W64) : Option (Nat × List W64) :=
  if (e.2.filter p).isEmpty then none else some (e.1, e.2.filter p)

theorem find?_none_of_not_mem {α : Type} {t : Tab α} {b : Nat} (h : b ∉ t.map Prod.fst) : Tab.find? t b = none := by
  induction t with
  | nil => rfl
  | cons e r ih =>
    rw [List.map_cons, List.mem_cons, not_or] at h
    rw [Tab.find?, if_neg h.1]
    exact ih h.2

theorem keptPresses_keys (p : W64 → Bool) (t : Tab (List W64)) : ∀ b ∈ (t.filterMap (keptPresses p)).map Prod.fst, b ∈ t.map Prod.fst := by
  intro b hb
  obtain ⟨e, he, rfl⟩ := List.mem_map.mp hb
  obtain ⟨f, hf, hk⟩ := List.mem_filterMap.mp he
  unfold keptPresses at hk
  split at hk
  · exact nomatch hk
  · cases hk
    exact List.mem_map.mpr ⟨f, hf, rfl⟩

/-- Each array's history keeps its presses that still count. -/
theorem keptPresses_getD (p : W64 → Bool) {t : Tab (List W64)} (h : (t.map Prod.fst).Nodup) (b : Nat) :
    Tab.getD (t.filterMap (keptPresses p)) b [] = (Tab.getD t b []).filter p := by
  induction t with
  | nil => rfl
  | cons e r ih =>
    obtain ⟨hnot, hr⟩ := List.nodup_cons.mp h
    have hrest := find?_none_of_not_mem (fun hm => hnot (keptPresses_keys p r e.1 hm))
    obtain ⟨k, l⟩ := e
    by_cases hb : b = k
    · have hl : Tab.getD ((k, l) :: r) b [] = l := by rw [Tab.getD, Tab.find?, if_pos hb]; rfl
      rw [hl]
      by_cases he : (l.filter p).isEmpty
      · rw [List.filterMap_cons_none (show keptPresses p (k, l) = none from if_pos he), Tab.getD, hb, hrest]
        exact (List.isEmpty_iff.mp he).symm
      · rw [List.filterMap_cons_some (show keptPresses p (k, l) = some (k, l.filter p) from if_neg he), Tab.getD, Tab.find?, if_pos hb]
        rfl
    · have hl : Tab.getD ((k, l) :: r) b [] = Tab.getD r b [] := by rw [Tab.getD, Tab.find?, if_neg hb]; rfl
      rw [hl, ← ih hr]
      by_cases he : (l.filter p).isEmpty
      · rw [List.filterMap_cons_none (show keptPresses p (k, l) = none from if_pos he)]
      · rw [List.filterMap_cons_some (show keptPresses p (k, l) = some (k, l.filter p) from if_neg he), Tab.getD, Tab.find?, if_neg hb]
        rfl

/-! ## The start of a reload -/

theorem reloadable_some {s : State} {slot layer : Nat} {x : Image} {e : Nat} (h : reloadable s slot layer = some (x, e)) : Tab.find? s.prs.images slot = some x := by
  unfold reloadable at h
  split at h
  · exact nomatch h
  · obtain ⟨y, hy, hz⟩ := Option.bind_eq_some_iff.mp h
    obtain ⟨k, -, hk⟩ := Option.map_eq_some_iff.mp hz
    cases hk
    exact (Option.filter_eq_some_iff.mp hy).1

/-- Arrays below the cap need no others. -/
theorem replaceWorn_none_worn {off ent slot : Nat} {l alloc : List Nat} {s : State} (h : ∀ b ∈ l, pCOUNT (recAt s.nvsView b) < rldCap s) :
    replaceWorn off ent slot l alloc s = some s := by
  induction l with
  | nil => rfl
  | cons a r ih =>
    rw [replaceWorn, if_pos (h a List.mem_cons_self)]
    exact ih fun b hb => h b (List.mem_cons_of_mem _ hb)

theorem State.mapEntries_same (s : State) (p : Nat → BitVec 128 → Bool) (f : BitVec 128 → BitVec 128) : SameBut [.regs] s (s.mapEntries p f) :=
  SameBut.foldl (fun _ c => SameBut.foldl (fun u i => sameBut_ite (u.setEntry_same c i _) (SameBut.refl _ u)) _ _) _ _

theorem State.onImage_same (s : State) (slot : Nat) (f : Image → Image) : SameBut [.prs] s (s.onImage slot f) := by
  unfold State.onImage
  split
  · exact fun p hp => by cases p <;> first | rfl | exact absurd (by decide) hp
  · exact SameBut.refl _ s

theorem reloadStart_starts {s : State} {alloc : List Nat} {slot layer : Nat} {rest : List (Nat × Nat)} {x : Image} {e : Nat} (hq : s.reqs = (slot, layer) :: rest)
    (hrld : s.prs.rld = none) (hre : reloadable s slot layer = some (x, e)) (hne : e ∉ x.res)
    (hall : ∀ b ∈ layerArrs x e, overRate s b = false ∧ pCOUNT (recAt s.nvsView b) < rldCap s ∧ s.idle b = true) :
    ∃ r, (reloadStart alloc s).prs.rld = some r ∧ r.slot = slot ∧ r.ent = e ∧ r.todo = x.places.filter (fun p => p.ent == e) ∧ r.begun = [] ∧ (reloadStart alloc s).reqs = s.reqs := by
  have hx := reloadable_some hre
  have hrate : (layerArrs x e).any (overRate s) = false := List.any_eq_false.mpr fun b hb => by rw [(hall b hb).1]; exact Bool.false_ne_true
  have hidle : (layerArrs x e).all s.idle = true := List.all_eq_true.mpr fun b hb => (hall b hb).2.2
  unfold reloadStart
  rw [hq, hrld]
  dsimp only
  rw [hre]
  dsimp only
  rw [if_neg (by simpa using hne), hrate, if_neg Bool.false_ne_true, replaceWorn_none_worn fun b hb => (hall b hb).2.1]
  dsimp only
  rw [hx, Option.getD_some, hidle, if_neg (by decide)]
  refine ⟨_, rfl, rfl, rfl, rfl, rfl, ?_⟩
  have hfold : ∀ (l : List Nat) (u : State), SameBut [.regs] u (l.foldl (fun t k => t.setResident slot (manAt t.mem.dram x.off k).layer false) u) :=
    fun l u => SameBut.foldl (fun t k => t.mapEntries_same _ _) l u
  exact (State.onImage_same _ slot _ .reqs (by decide)).trans ((hfold _ s .reqs (by decide)).trans hq)

/-! ## O38 -/

/-- Settles O38: a write of SPARES gives every core its reserve while no image stands, and a reload starts with its layer's own arrays. -/
theorem reloadsAndPressRegisters : Obligations.ReloadsAndPressRegisters := by
  unfold Obligations.ReloadsAndPressRegisters
  intro s
  refine ⟨?_, ?_, fun hup hv => ⟨?_, ?_⟩⟩
  · intro who v r hr hrow
    have hreg := State.putMasked_reg (s := s) (v := v) hrow
    have hregs := s.putMasked_regsBut Reg.PRS_CFG v
    have hsame := s.putMasked_same Reg.PRS_CFG v
    have hfree : ∀ c, (s.putMasked Reg.PRS_CFG v).freeCount c = s.freeCount c := fun c => by
      rw [State.putMasked_of_row hrow]
      rfl
    obtain ⟨u, hu⟩ : ∃ u, u = s.putMasked Reg.PRS_CFG v := ⟨_, rfl⟩
    have hbit : ∀ b, u.rbit Reg.PRS_CFG b = bit (maskWrite r s.sec.lock (s.reg Reg.PRS_CFG) v) b := fun b => by
      rw [State.rbit, hu, hreg]
    have hspares : u.fld Reg.PRS_CFG 10 8 = bits v 10 8 := by
      rw [State.fld, hu, hreg]
      exact bits_congr fun i hlo hhi => maskWrite_spares hrow _ _ _ hlo hhi
    rw [← hu] at hregs hsame hfree
    by_cases hslot : (s.anySlot || s.prs.load.isSome) = true
    · have hd : exec (.prsCfgWrite who v) s = .next (u.setFld Reg.PRS_CFG 10 8 (s.fld Reg.PRS_CFG 10 8)) := by
        rw [hu]
        exact (next_access hr).trans (congrArg Host.Outcome.next (if_pos hslot))
      refine ⟨_, hd, fun b hb => ?_, ?_⟩
      · rw [State.rbit_setFld_self _ _ _ _ _ _ (by decide) hb, hbit, State.fld, testBit_bits]
        by_cases hin : 8 ≤ b ∧ b ≤ 10
        · rw [if_pos hin, if_pos ⟨hslot, hin⟩, decide_eq_true (by omega), Bool.true_and, show 8 + (b - 8) = b by omega]
          rfl
        · rw [if_neg hin, if_neg fun h => hin h.2]
      · rw [if_pos (.inl hslot)]
        exact ⟨hregs.trans (u.setFld_regsBut _ _ _ _), hsame.then (u.setFld_same _ _ _ _)⟩
    · have hno : ∀ b, ¬((s.anySlot || s.prs.load.isSome) ∧ 8 ≤ b ∧ b ≤ 10) := fun b h => hslot h.1
      have hd : exec (.prsCfgWrite who v) s = .next (if u.fld Reg.PRS_CFG 10 8 = s.fld Reg.PRS_CFG 10 8 then u else u.reservesSet) := by
        rw [hu]
        exact (next_access hr).trans (congrArg Host.Outcome.next (if_neg hslot))
      rw [hspares] at hd
      by_cases heq : bits v 10 8 = s.fld Reg.PRS_CFG 10 8
      · rw [if_pos heq] at hd
        refine ⟨_, hd, fun b _ => by rw [if_neg (hno b), hbit], ?_⟩
        rw [if_pos (.inr heq)]
        exact ⟨hregs, hsame⟩
      · rw [if_neg heq] at hd
        obtain ⟨h1, h2, h3, h4⟩ := reservesSet_spec u
        have hcfg : Reg.PRS_CFG ∉ Reg.TST_HEALTH :: (List.range 4).map Reg.PRS_RESV := by decide
        refine ⟨_, hd, fun b _ => by rw [if_neg (hno b), h3.rbit hcfg, hbit], ?_⟩
        rw [if_neg fun h => h.elim hslot heq]
        refine ⟨fun c hc => ?_, h2, ?_, ?_⟩
        · rw [h1 c hc, hspares, hfree]
        · exact (hregs.mono (by simp)).trans (h3.mono fun a ha => List.mem_cons_of_mem _ ha)
        · exact (hsame.mono (by decide)).trans h4
  · intro who v hr hgo
    have hd : exec (.prsRldReq who v) s = .next (match reloadable s (bits v 13 12) (bits v 11 0) with
        | none => s.raise 0x0306 1 0x200 (bits v 11 0 + 2 ^ 16 * bits v 13 12 + 2 ^ 25)
        | some (x, e) => if x.res.contains e then s else s.askReload (bits v 13 12) (bits v 11 0)) := by
      refine (next_access hr).trans (congrArg Host.Outcome.next ?_)
      rw [hgo]
      rfl
    refine ⟨fun hno => ?_, fun x e hre => ⟨fun hin => ?_, fun hout => ?_⟩⟩
    · rw [hno] at hd
      exact ⟨_, hd, s.raise_raised _ _ _ _, s.raise_same _ _ _ _⟩
    · rw [hre] at hd
      rw [hd]
      exact congrArg Host.Outcome.next (if_pos (by simpa using hin))
    · rw [hre] at hd
      rw [hd]
      refine congrArg Host.Outcome.next ((if_neg (by simpa using hout)).trans ?_)
      unfold State.askReload
      by_cases hq : (bits v 13 12, bits v 11 0) ∈ s.reqs
      · rw [if_pos (by simpa using hq), if_pos hq]
      · rw [if_neg (by simpa using hq), if_neg hq]
  · intro alloc slot layer rest x e hq hrld hre hne hall
    obtain ⟨r, h1, h2, h3, h4, h5, h6⟩ := reloadStart_starts (alloc := alloc) hq hrld hre hne hall
    exact ⟨_, r, congrArg Host.Outcome.next (if_pos (by rw [hup, hv]; rfl)), h1, h2, h3, h4, h5, h6⟩
  · intro hnodup
    have hd : ∀ h, h = s.prs.hist.filterMap (keptPresses (inHour s)) →
        exec .reloadRateExpiry s = .next (reloadStart [] { s with prs := { s.prs with hist := h } }) := by
      rintro h rfl
      refine congrArg Host.Outcome.next ((if_pos hup).trans ?_)
      rw [hv]
      rfl
    refine ⟨s.prs.hist.filterMap (keptPresses (inHour s)), fun b => keptPresses_getD (inHour s) hnodup b, ?_, fun hq => ?_⟩
    · rw [hd _ rfl]
      exact congrArg Host.Outcome.next (if_pos (by show (s.up 4 && !s.rbit Reg.PRS_STAT 16) = true; rw [hup, hv]; rfl)).symm
    · rw [hd _ rfl]
      refine congrArg Host.Outcome.next ?_
      unfold reloadStart
      rw [show ({ s with prs := { s.prs with hist := s.prs.hist.filterMap (keptPresses (inHour s)) } } : State).reqs = [] from hq]

end Sys2Proof.Machine
end

section
/-!
PROOFS. ACC.OPEN, ACC.CLOSE and ACC.DRAIN at their issue; O9.
-/
set_option Elab.async false

namespace Sys2Proof.Machine

section
variable {u : State} {i : Nat} {w : BitVec 56}

theorem openBody_first (hbad : openBad u i (openTile (u.ctx i) i w) = false) (hmine : (u.ctx i).tiles.filter (fun x => x.id == fTILE w) = [])
    (hfit : usedSlots ((u.ctx i).tiles ++ [openTile (u.ctx i) i w]) ≤ u.share i) :
    openBody i w u = .ok (u.setCtx i { u.ctx i with tiles := (u.ctx i).tiles ++ [openTile (u.ctx i) i w], nextId := (u.ctx i).nextId + 1 }) := by
  have hm : (u.ctx i).tiles.filter (fun x => x.id == (openTile (u.ctx i) i w).id) = [] := hmine
  unfold openBody
  dsimp only
  rw [hbad, hm, if_neg Bool.false_ne_true, if_neg (by simp)]
  exact if_pos hfit

theorem openBody_shadow {x : Tile} (hbad : openBad u i (openTile (u.ctx i) i w) = false) (hmine : (u.ctx i).tiles.filter (fun x => x.id == fTILE w) = [x]) (hcl : x.closed = true)
    (hdr : x.drain.isSome = true) (hsame : (x.shadow && (openTile (u.ctx i) i w).shadow && x.n == (openTile (u.ctx i) i w).n && x.v == (openTile (u.ctx i) i w).v
      && x.fmt == (openTile (u.ctx i) i w).fmt) = true) :
    openBody i w u = .ok (u.setCtx i { u.ctx i with tiles := (u.ctx i).tiles ++ [openTile (u.ctx i) i w], nextId := (u.ctx i).nextId + 1 }) := by
  have hm : (u.ctx i).tiles.filter (fun x => x.id == (openTile (u.ctx i) i w).id) = [x] := hmine
  have hno : [x].any (fun x => !x.closed || x.drain.isNone) = false := by simp [hcl, hdr]
  unfold openBody
  dsimp only
  rw [hbad, hm, if_neg Bool.false_ne_true, hno, if_neg Bool.false_ne_true]
  exact if_pos hsame

theorem tileWhere_holds {c : Ctx} {id : Nat} {p : Tile → Bool} {t : Tile} (h : c.tileWhere id p = some t) : (t.id == id) = true ∧ p t = true := by
  have hf : c.tiles.find? (fun t => t.id == id && p t) = some t := h
  have hb := List.find?_some hf
  exact Bool.and_eq_true_iff.mp hb

/-- A context with a set of an id has a last one. -/
theorem tile_isSome {c : Ctx} {id : Nat} {p : Tile → Bool} {t : Tile} (h : c.tileWhere id p = some t) : ∃ t0, c.tile id = some t0 :=
  Option.isSome_iff_exists.mp (List.find?_isSome.mpr ⟨t, List.mem_reverse.mpr (List.mem_of_find?_eq_some h), (tileWhere_holds h).1⟩)

variable {t : Tile}

/-- A set to drain is closed and has no drain. -/
theorem drainSet_open (h : drainSet (u.ctx i) (fTILE w) = some t) : (!t.closed || t.drain.isSome) = false := by
  obtain ⟨h1, h2⟩ := Bool.and_eq_true_iff.mp (tileWhere_holds h).2
  rw [h1, Option.isNone_iff_eq_none.mp h2]
  rfl

theorem drainBody_issues (h : drainSet (u.ctx i) (fTILE w) = some t)
    (htrap : drainTrap u i t (descOf ((u.ctx i).dreg (fw w 42 39))) (descOf ((u.ctx i).dreg (fw w 38 35))) ((u.ctx i).sreg (fw w 34 30)).toNat = none) :
    ∃ rd wr, drainBody i w u = drainIssue i t false ((u.ctx i).dreg (fw w 42 39)) ((u.ctx i).dreg (fw w 38 35)) ((u.ctx i).sreg (fw w 34 30)).toNat rd wr u := by
  obtain ⟨t0, ht0⟩ := tile_isSome h
  unfold drainBody
  dsimp only
  rw [ht0]
  dsimp only
  rw [h, Option.getD_some, htrap]
  dsimp only
  rw [drainSet_open h, if_neg Bool.false_ne_true]
  exact ⟨_, _, rfl⟩

theorem partialBody_issues (h : drainSet (u.ctx i) (fTILE w) = some t) (hsp : (descOf ((u.ctx i).dreg (fw w 42 39))).sp = 0)
    (hal : (descOf ((u.ctx i).dreg (fw w 42 39))).base % 16 = 0) (hend : (descOf ((u.ctx i).dreg (fw w 42 39))).base + 16 * t.size ≤ 2 ^ 27) :
    partialBody i w u = drainIssue i t true ((u.ctx i).dreg (fw w 42 39)) 0 0 [] [⟨0, (descOf ((u.ctx i).dreg (fw w 42 39))).base, 16 * t.size⟩] u := by
  obtain ⟨t0, ht0⟩ := tile_isSome h
  unfold partialBody
  dsimp only
  rw [if_neg (not_not.mpr hsp), ht0]
  dsimp only
  rw [h, Option.getD_some, if_neg (fun hx => hx.elim (fun h1 => h1 hal) (fun h2 => absurd hend (Nat.not_le.mpr h2))), drainSet_open h, if_neg Bool.false_ne_true]

end

/-- Settles O9, each instruction through what its body does in the state after the fetch. -/
theorem tilesOpenCloseAndDrainIssue : Obligations.TilesOpenCloseAndDrainIssue := by
  unfold Obligations.TilesOpenCloseAndDrainIssue
  rintro s u k w i c hu rfl hc
  have huc : u.ctx (ctxIx k) = c := by rw [hu, State.fetchFx_ctx, hc]
  refine ⟨fun hr hfmt hlow hbad hcase => ?_, fun hr hlow t ht => ?_, fun hr hlow t ht => ⟨fun hmode htrap => ?_, fun hmode hsp hal hend => ?_⟩⟩
  · have hl : legalOpen w = true := by simp [legalOpen, hfmt, hlow]
    have hb : openBody (ctxIx k) w u = .ok (u.setCtx (ctxIx k) { c with tiles := c.tiles ++ [openTile c (ctxIx k) w], nextId := c.nextId + 1 }) := by
      subst huc
      obtain ⟨hm, hfit⟩ | ⟨x, hm, hcl, hdr, h1, h2, h3, h4, h5⟩ := hcase
      · exact openBody_first hbad hm hfit
      · exact openBody_shadow hbad hm hcl hdr (by simp [h1, h2, h3, h4, h5])
    rw [hu] at hb
    exact issue_ok hl hr hb (State.setCtx_ctxTo _ _ _) rfl
  · refine issue_ok (by simpa using hlow) hr (t := u.onCtx (ctxIx k) (fun c => c.putTile { t with closed := true })) ?_ ?_ rfl
    · rw [← hu]
      dsimp only
      rw [huc, show c.tileWhere (fTILE w) (fun t => !t.closed) = some t from ht]
    · rw [← hu]
      have h := u.setCtx_ctxTo (ctxIx k) ((u.ctx (ctxIx k)).putTile { t with closed := true })
      rw [huc] at h
      rw [State.onCtx, huc]
      exact h
  · have hl : legalDrain w = true := by simp [legalDrain, hmode, hlow]
    have hset : drainSet (u.ctx (ctxIx k)) (fTILE w) = some t := by rw [huc]; exact ht
    obtain ⟨rd, wr, hb⟩ := drainBody_issues hset (by rw [huc]; exact htrap)
    rw [huc, drainIssue, huc] at hb
    rw [hu] at hb
    refine ⟨rd, wr, ?_⟩
    have hd : exec (.accDrain k w) s = issue k w (legalDrain w) (drainNeeds w) (drainBody (ctxIx k) w) s := if_neg (by rw [hmode]; decide)
    rw [GoesTo, hd]
    exact issue_ok hl hr hb (State.setCtx_ctxTo _ _ _) rfl
  · have hl : legalDrain w = true := by simp [legalDrain, hmode, hlow]
    have hset : drainSet (u.ctx (ctxIx k)) (fTILE w) = some t := by rw [huc]; exact ht
    have hb := partialBody_issues hset (by rw [huc]; exact hsp) (by rw [huc]; exact hal) (by rw [huc]; exact hend)
    rw [huc, drainIssue, huc] at hb
    rw [hu] at hb
    have hd : exec (.accDrainPartial k w) s = issue k w (legalDrain w) (drainNeeds w) (partialBody (ctxIx k) w) s := if_neg (by rw [hmode]; decide)
    rw [GoesTo, hd]
    exact issue_ok hl hr hb (State.setCtx_ctxTo _ _ _) rfl

end Sys2Proof.Machine
end

section
/-!
PROOFS. MVX and SKM at their issue; O12.
-/
set_option Elab.async false

namespace Sys2Proof.Machine

/-! ## What poisons a context keeps its works and its place -/

section
variable (s : State) (i j : Nat)

theorem State.poison_works : ((s.poison i).ctx j).works = (s.ctx j).works ∧ ((s.poison i).ctx j).pc = (s.ctx j).pc ∧ ((s.poison i).ctx j).tiles = (s.ctx j).tiles := by
  rw [State.poison_ctx]
  by_cases h : j = i
  · subst h
    rw [State.ctx_onCtx_self]
    exact ⟨rfl, rfl, rfl⟩
  · rw [State.ctx_onCtx_ne _ _ h]
    exact ⟨rfl, rfl, rfl⟩

theorem State.poisonIf_works (b : Bool) : ((s.poisonIf i b).ctx j).works = (s.ctx j).works ∧ ((s.poisonIf i b).ctx j).pc = (s.ctx j).pc
    ∧ ((s.poisonIf i b).ctx j).tiles = (s.ctx j).tiles := by
  unfold State.poisonIf
  split
  · exact s.poison_works i j
  · exact ⟨rfl, rfl, rfl⟩

theorem State.poisonIf_same (b : Bool) : SameBut (gateParts ++ [.ctxs]) s (s.poisonIf i b) := sameBut_ite (s.poison_same i) (SameBut.refl _ s)

end

/-! ## A lane's list -/

theorem skimErrs_same (c loc : Nat) (l : List Nat) (s : State) : SameBut [.regs, .ev, .hostMem] s (skimErrs c loc l s) := by
  induction l generalizing s with
  | nil => exact SameBut.refl _ s
  | cons b r ih =>
    refine SameBut.trans ?_ (ih _)
    exact (((s.orReg_same _ _).mono (by decide)).then (State.setFld_same _ _ _ _ _)).then (State.raiseIf_same _ _ _ _ _ _)

theorem skimOvf_same (c n : Nat) (s : State) : SameBut [.regs, .ev, .hostMem] s (skimOvf c n s) := by
  have h := (s.incReg_same (Reg.SKM_OVF_CNT c) n).mono (m := [.regs, .ev, .hostMem]) (by decide)
  exact sameBut_ite (SameBut.refl _ s) (sameBut_ite (h.then (State.raiseOnce_same _ _ _ _ _ _)) h)

/-- What serving a list changes: neither the cores nor what the contexts have at work. -/
theorem skimServe_kept (ctx c off loc : Nat) (prof : Option Nat) (inp : List Int) (segw : List Nat) (i16 : Bool) (s : State) :
    SameBut (gateParts ++ [.ctxs]) s (skimServe ctx c off loc prof inp segw i16 s).1
      ∧ ∀ j, ((skimServe ctx c off loc prof inp segw i16 s).1.ctx j).works = (s.ctx j).works ∧ ((skimServe ctx c off loc prof inp segw i16 s).1.ctx j).pc = (s.ctx j).pc := by
  have hpoison : ∀ (u : State) (b : Bool), SameBut gateParts s u → SameBut (gateParts ++ [.ctxs]) s (u.poisonIf ctx b)
      ∧ ∀ j, ((u.poisonIf ctx b).ctx j).works = (s.ctx j).works ∧ ((u.poisonIf ctx b).ctx j).pc = (s.ctx j).pc := by
    refine fun u b hu => ⟨(hu.mono (by decide)).trans (u.poisonIf_same ctx b), fun j => ?_⟩
    obtain ⟨h1, h2, -⟩ := u.poisonIf_works ctx j b
    rw [h1, h2, hu.ctx (by decide)]
    exact ⟨rfl, rfl⟩
  unfold skimServe
  split
  · exact ⟨SameBut.refl _ s, fun _ => ⟨rfl, rfl⟩⟩
  · have hr : ∀ n, SameBut gateParts s (s.readFx 1 (cb c off) n c 0) := fun n => (s.readFx_same _ _ _ _ _).mono (by decide)
    split
    · exact hpoison _ _ ((hr _).then (skimErrs_same _ _ _ _))
    · exact hpoison _ _ (((hr _).then (State.incWrap_same _ _ _)).then (skimOvf_same _ _ _))

/-- A command in a lane of its core. -/
theorem laneTake_kept (c lane : Nat) (l : Lane) (off loc : Nat) (prof : Option Nat) (inp : List Int) (segw : List Nat) (i16 : Bool) (s : State) :
    ((laneTake c lane l off loc prof inp segw i16 s).core c).waitq = (s.core c).waitq ∧ ((laneTake c lane l off loc prof inp segw i16 s).core c).skms = (s.core c).skms
      ∧ (∃ m, Tab.find? ((laneTake c lane l off loc prof inp segw i16 s).core c).lanes lane = some m ∧ m.ctx = l.ctx ∧ m.id = l.id)
      ∧ ∀ j, ((laneTake c lane l off loc prof inp segw i16 s).ctx j).works = (s.ctx j).works ∧ ((laneTake c lane l off loc prof inp segw i16 s).ctx j).pc = (s.ctx j).pc := by
  obtain ⟨hsame, hctx⟩ := skimServe_kept l.ctx c off loc prof inp segw i16 s
  unfold laneTake
  dsimp only
  rw [State.core_setCore_self, hsame.core (by decide)]
  refine ⟨rfl, rfl, ?_, fun j => ?_⟩
  · rw [Tab.find?_insert, if_pos rfl]
    exact ⟨_, rfl, rfl, rfl⟩
  · rw [(State.setCore_same _ c _).ctx (by decide)]
    exact hctx j

/-! ## MVX -/

/-- The command that an MVX sends, and the works of its context. -/
theorem mvxSend_spec (i a : Nat) (e : BitVec 128) (w : BitVec 56) (u : State) : ∃ m, ((mvxSend i a e w u).arr a).queue = (u.arr a).queue ++ [m]
    ∧ (∀ b, b ≠ a → (mvxSend i a e w u).arr b = u.arr b) ∧ m.ctx = i ∧ m.id = (u.ctx i).nextId ∧ m.vidx = fw w 34 30 ∧ m.coloff = fw w 43 35
    ∧ m.row = ((u.ctx i).sreg (fw w 21 17)).toNat ∧ m.chpos = eCHPOS e ∧ m.skim = eSKIM e ∧ m.ost = eOST e ∧ m.di = (u.ctx i).dreg (fw w 29 26)
    ∧ m.dout = (u.ctx i).dreg (fw w 25 22) ∧ (bit w 44 = true → m.gen = none) ∧ ((mvxSend i a e w u).ctx i).works.length = (u.ctx i).works.length + 1
    ∧ ((mvxSend i a e w u).ctx i).pc = (u.ctx i).pc ∧ SameBut [.ctxs, .arrs] u (mvxSend i a e w u) := by
  unfold mvxSend
  extract_lets c d o nt row coloff width t wr rd lst c1 c2 m x
  have hc2 : c2.works.length = (u.ctx i).works.length + 1 ∧ c2.pc = (u.ctx i).pc := by
    have h1 : c1.works.length = (u.ctx i).works.length + 1 ∧ c1.pc = (u.ctx i).pc := ⟨List.length_append, rfl⟩
    have key : ∀ o : Option (Tile × Tile × Nat), (match o with | none => c1 | some (_, t1, _) => c1.putTile t1).works.length = (u.ctx i).works.length + 1
        ∧ (match o with | none => c1 | some (_, t1, _) => c1.putTile t1).pc = (u.ctx i).pc := by
      intro o
      cases o with
      | none => exact h1
      | some p => exact h1
    exact key t
  have hctx : ((u.setCtx i c2).setArr a { x with queue := x.queue ++ [m], win := false }).ctx i = c2 :=
    ((State.setArr_same _ a _).ctx (by decide) i).trans (u.ctx_setCtx_self i c2)
  refine ⟨m, ?_, fun b hb => State.arr_setArr_ne _ _ hb, rfl, rfl, rfl, rfl, rfl, rfl, rfl, rfl, rfl, rfl, fun hn => ?_, ?_, ?_, ?_⟩
  · rw [State.arr_setArr_self]
  · show t.map _ = none
    rw [show t = none from if_pos hn]
    rfl
  · rw [hctx]
    exact hc2.1
  · rw [hctx]
    exact hc2.2
  · exact ((u.setCtx_same i c2).mono (by decide)).then (State.setArr_same _ a _)

/-- An array in service is not out of it. -/
theorem inService {x : ArrState} (h : x ∉ [ArrState.off, .fault, .retired]) : (x == .off || x == .fault || x == .retired) = false := by
  simp only [List.mem_cons, List.not_mem_nil, or_false, not_or] at h
  obtain ⟨h1, h2, h3⟩ := h
  simp [h1, h2, h3]

/-- The body of an MVX that meets no trap and no stall. -/
theorem mvxBody_sends {u : State} {i old : Nat} {w : BitVec 56} {ei a : Nat} {e : BitVec 128} {c : Ctx} (hc : u.ctx i = c)
    (hei : ei = (c.sreg (fw w 16 12) + BitVec.ofNat 64 (fw w 11 2)).toNat) (hle : ei ≤ 1023) (he : e = u.entry (i / 4) ei) (hv : eVALID e = true) (hm : bit e (16 + i % 4) = true)
    (ha : a = i / 4 * 64 + eARRAY e)
    (hfmt : mvxFormat (descOf (c.dreg (fw w 29 26))) (descOf (c.dreg (fw w 25 22))) (bit w 44) (eP e) (fw w 43 35) (c.sreg (fw w 21 17)).toNat (profWidth (u.prof a)) = false)
    (hadr : mvxAddress u (descOf (c.dreg (fw w 29 26))) (descOf (c.dreg (fw w 25 22))) (bit w 44) (eCHPOS e) (fw w 43 35) (c.sreg (fw w 21 17)).toNat (profWidth (u.prof a)) = false)
    (htile : bit w 44 = false → tileTrap c (fTILE w) (fw w 34 30) (fw w 43 35) (eP e) (descOf (c.dreg (fw w 29 26))).blockIn = none) (hres : eRESIDENT e = true)
    (hst : (u.arr a).st ∉ [ArrState.off, .fault, .retired]) (hq : (u.arr a).queue.length < 4) : mvxBody i old w u = .ok (mvxSend i a e w u) := by
  subst hc hei he ha
  have hout := inService hst
  have ht : (if bit w 44 = true then none else tileTrap (u.ctx i) (fTILE w) (fw w 34 30) (fw w 43 35)
      (eP (u.entry (i / 4) ((u.ctx i).sreg (fw w 16 12) + BitVec.ofNat 64 (fw w 11 2)).toNat)) (descOf ((u.ctx i).dreg (fw w 29 26))).blockIn) = none := by
    cases hb : bit w 44 with
    | true => rfl
    | false => exact (if_neg Bool.false_ne_true).trans (htile hb)
  unfold mvxBody
  dsimp only
  rw [if_neg (Nat.not_lt.mpr hle), hv, hm, if_neg (by decide), hres, if_neg (by decide), hout, if_neg Bool.false_ne_true, ht, hfmt, if_neg (by decide), hadr, if_neg Bool.false_ne_true,
    if_neg (by decide), if_neg (Nat.not_le.mpr hq)]

/-! ## SKM -/

/-- The body of an SKM that meets no trap and need not wait for its data. -/
theorem skmBody_spec {u : State} {i : Nat} {w : BitVec 56} {c : Ctx} {d : Desc} {row : Nat} {t : Tile} (hc : u.ctx i = c) (hd : d = descOf (c.dreg (fw w 30 27)))
    (hrow : row = (c.sreg (fw w 26 22)).toNat) (hfb : d.formatBad = false) (hfl : fmtFloat d.fmt = false) (hbs : d.bsp = 0) (h0 : d.dim0 ≤ 512) (h1 : row < d.dim1)
    (hnd : d.noDram u = false) (hrb : d.rowBad u (d.rowAt row 0 0) 0 d.dim0 = false) (ht : c.tile (fTILE w) = some t)
    (htr : tileTrap c (fTILE w) (fw w 35 31) (fw w 44 36) 1 false = none) (hw : c.writers ⟨d.sp, spAddr (i / 4) d.sp (d.rowAt row 0 0), d.rowBytes⟩ = [])
    (hl : (listRngs u i (c.sreg (fw w 21 17)).toNat).any (fun r => !(c.writers r).isEmpty) = false) :
    ∃ (v : State) (j : SkmJob) (bad : Bool), skmBody i w u = .ok ((match laneNow (u.core (i / 4)) with
        | some lane => skmLane (i / 4) lane j (v.setCore (i / 4) { v.core (i / 4) with skms := (v.core (i / 4)).skms ++ [j] })
        | none => laneWait (i / 4) (i, c.nextId) (v.setCore (i / 4) { v.core (i / 4) with skms := (v.core (i / 4)).skms ++ [j] })).poisonIf i bad)
      ∧ v.core (i / 4) = u.core (i / 4) ∧ (v.ctx i).works.length = c.works.length + 1 ∧ (v.ctx i).pc = c.pc
      ∧ j.ctx = i ∧ j.id = c.nextId ∧ j.vidx = fw w 35 31 ∧ j.coloff = fw w 44 36 ∧ j.list = (c.sreg (fw w 21 17)).toNat := by
  subst hc hd hrow
  unfold skmBody
  extract_lets c core d row off ro tile rng lst prof out bad s0 inp
  rw [show d.formatBad = false from hfb, show fmtFloat d.fmt = false from hfl, show d.bsp = 0 from hbs, show tile = none from htr,
    decide_eq_false (Nat.not_lt.mpr (show d.dim0 ≤ 512 from h0)), decide_eq_false (Nat.not_le.mpr (show row < d.dim1 from h1)), if_neg (by decide),
    show d.noDram u = false from hnd, show d.rowBad u ro 0 d.dim0 = false from hrb, if_neg (by decide), show c.tile (fTILE w) = some t from ht]
  dsimp -zeta only
  extract_lets p s1 job k s2
  rw [show c.writers rng = [] from hw, show lst.any (fun r => !(c.writers r).isEmpty) = false from hl, if_neg (by decide)]
  have hs0 : SameBut accessParts u s0 := sameBut_ite (u.readFx_same _ _ _ _ _) (SameBut.refl _ u)
  have hs0' := hs0.trans (s0.readFx_same (descOf ((u.ctx i).dreg (fw w 30 27))).sp (spAddr (i / 4) (descOf ((u.ctx i).dreg (fw w 30 27))).sp
    ((descOf ((u.ctx i).dreg (fw w 30 27))).rowAt ((u.ctx i).sreg (fw w 26 22)).toNat 0 0)) (descOf ((u.ctx i).dreg (fw w 30 27))).rowBytes (i / 4) 0)
  have hcore : s1.core (i / 4) = u.core (i / 4) := ((State.setCtx_same _ i _).core (by decide) _).trans (hs0'.core (by decide) _)
  have hctx : (s1.ctx i).works.length = (u.ctx i).works.length + 1 ∧ (s1.ctx i).pc = (u.ctx i).pc := by
    rw [show s1 = State.onCtx _ i _ from rfl, State.ctx_onCtx_self, hs0'.ctx (by decide)]
    exact ⟨List.length_append, rfl⟩
  refine ⟨s1, job, bad, ?_, hcore, hctx.1, hctx.2, rfl, rfl, rfl, rfl, rfl⟩
  rw [← hcore] <;> rfl

/-- Settles O12. -/
theorem matrixInstructionsAreQueued : Obligations.MatrixInstructionsAreQueued := by
  unfold Obligations.MatrixInstructionsAreQueued
  rintro s u k w i c hu rfl hc
  have huc : u.ctx (ctxIx k) = c := by rw [hu, State.fetchFx_ctx, hc]
  refine ⟨?_, ?_⟩
  · rintro hr hlow ei e a d o hei hle he hv hm ha rfl rfl hfmt hadr htile hres hst hq
    have hb := mvxBody_sends (old := 0) huc hei hle he hv hm ha hfmt hadr htile hres hst hq
    obtain ⟨m, h1, h2, h3, h4, h5, h6, h7, h8, h9, h10, h11, h12, h13, h14, h15, h16⟩ := mvxSend_spec (ctxIx k) a e w u
    rw [huc] at h4 h7 h11 h12 h14 h15
    rw [hu] at hb
    have hl : (fw w 1 0 == 0) = true := by simpa using hlow
    have hex := issue_next hl hr hb
    rw [← hu] at hex
    have hadv := State.setCtx_same (mvxSend (ctxIx k) a e w u) (ctxIx k) { (mvxSend (ctxIx k) a e w u).ctx (ctxIx k) with pc := ((mvxSend (ctxIx k) a e w u).ctx (ctxIx k)).pc + 8 }
    have hctx := State.ctx_setCtx_self (mvxSend (ctxIx k) a e w u) (ctxIx k) { (mvxSend (ctxIx k) a e w u).ctx (ctxIx k) with pc := ((mvxSend (ctxIx k) a e w u).ctx (ctxIx k)).pc + 8 }
    refine ⟨_, m, hex, ?_, fun b hb => ?_, h3, h4, h5, h6, h7, h8, h9, h10, h11, h12, h13, ?_, ?_, ?_⟩
    · exact (congrArg Arr.queue (hadv.arr (by decide) a)).trans h1
    · exact (hadv.arr (by decide) b).trans (h2 b hb)
    · exact (congrArg (fun c => c.works.length) hctx).trans h14
    · exact (congrArg Ctx.pc hctx).trans (congrArg (· + 8) h15)
    · exact h16.trans (hadv.mono (by decide))
  · intro hr hlow d row t hd hrow hfb hfl hbs h0 h1 hnd hrb ht htr hw hl
    obtain ⟨v, j, bad, hb, hcore, hworks, hpc, hj1, hj2, hj3, hj4, hj5⟩ := skmBody_spec huc hd hrow hfb hfl hbs h0 h1 hnd hrb ht htr hw hl
    rw [hu] at hb
    have hl : (fw w 16 0 == 0) = true := by simpa using hlow
    have hex := issue_next hl hr hb
    rw [← hu] at hex
    obtain ⟨v1, hv1⟩ : ∃ v1, v1 = v.setCore (ctxIx k / 4) { v.core (ctxIx k / 4) with skms := (v.core (ctxIx k / 4)).skms ++ [j] } := ⟨_, rfl⟩
    rw [← hv1] at hex
    have hv1core : v1.core (ctxIx k / 4) = { u.core (ctxIx k / 4) with skms := (u.core (ctxIx k / 4)).skms ++ [j] } := by
      rw [hv1, State.core_setCore_self, hcore]
    have hv1ctx : v1.ctx (ctxIx k) = v.ctx (ctxIx k) := by
      rw [hv1]
      exact (v.setCore_same _ _).ctx (by decide) _
    obtain ⟨v2, hv2⟩ : ∃ v2, v2 = (match laneNow (u.core (ctxIx k / 4)) with
        | some lane => skmLane (ctxIx k / 4) lane j v1
        | none => laneWait (ctxIx k / 4) (ctxIx k, c.nextId) v1) := ⟨_, rfl⟩
    rw [← hv2] at hex
    have hpo := v2.poisonIf_works (ctxIx k) (ctxIx k) bad
    have hpc2 := (v2.poisonIf_same (ctxIx k) bad).core (by decide) (ctxIx k / 4)
    obtain ⟨v3, hv3⟩ : ∃ v3, v3 = v2.poisonIf (ctxIx k) bad := ⟨_, rfl⟩
    rw [← hv3] at hex hpo hpc2
    have hadv := State.setCtx_same v3 (ctxIx k) { v3.ctx (ctxIx k) with pc := (v3.ctx (ctxIx k)).pc + 8 }
    have hctx := State.ctx_setCtx_self v3 (ctxIx k) { v3.ctx (ctxIx k) with pc := (v3.ctx (ctxIx k)).pc + 8 }
    have hacore := (hadv.core (by decide) (ctxIx k / 4)).trans hpc2
    have hlane : (v2.core (ctxIx k / 4)).skms = (u.core (ctxIx k / 4)).skms ++ [j] ∧ (v2.ctx (ctxIx k)).works.length = c.works.length + 1 ∧ (v2.ctx (ctxIx k)).pc = c.pc
        ∧ (laneNow (u.core (ctxIx k / 4)) = none → (v2.core (ctxIx k / 4)).waitq = (u.core (ctxIx k / 4)).waitq ++ [(ctxIx k, c.nextId)]
          ∧ (v2.core (ctxIx k / 4)).lanes = (u.core (ctxIx k / 4)).lanes)
        ∧ ∀ lane, laneNow (u.core (ctxIx k / 4)) = some lane → (v2.core (ctxIx k / 4)).waitq = (u.core (ctxIx k / 4)).waitq
          ∧ ∃ l, Tab.find? (v2.core (ctxIx k / 4)).lanes lane = some l ∧ l.ctx = ctxIx k ∧ l.id = c.nextId := by
      cases hln : laneNow (u.core (ctxIx k / 4)) with
      | none =>
        have hv2' : v2 = laneWait (ctxIx k / 4) (ctxIx k, c.nextId) v1 := by rw [hv2, hln]
        rw [hv2']
        unfold laneWait
        dsimp only
        rw [State.core_setCore_self, (State.setCore_same _ _ _).ctx (by decide), hv1core, hv1ctx]
        exact ⟨rfl, hworks, hpc, fun _ => ⟨rfl, rfl⟩, fun lane h => nomatch h⟩
      | some lane =>
        have hv2' : v2 = skmLane (ctxIx k / 4) lane j v1 := by rw [hv2, hln]
        rw [hv2']
        obtain ⟨g1, g2, ⟨l, g3, g4, g5⟩, g6⟩ := laneTake_kept (ctxIx k / 4) lane ⟨j.ctx, j.id, 2048 + ctxIx k / 4, .poisoned, 0⟩ j.list (Config.skmArray (ctxIx k / 4)).toNat none j.inp
          [1, 1, 1, 1] j.i16 v1
        obtain ⟨g7, g8⟩ := g6 (ctxIx k)
        unfold skmLane
        rw [g1, g2, g7, g8, hv1core, hv1ctx]
        refine ⟨rfl, hworks, hpc, (fun h => nomatch h), fun lane' h => ?_⟩
        cases h
        exact ⟨rfl, l, g3, g4.trans hj1, g5.trans hj2⟩
    obtain ⟨k1, k2, k3, k4, k5⟩ := hlane
    refine ⟨_, j, hex, (congrArg CoreSt.skms hacore).trans k1, fun hn => ?_, fun lane hn => ?_, hj1, hj2, hj3, hj4, hj5, ?_, ?_⟩
    · exact ⟨(congrArg CoreSt.waitq hacore).trans (k4 hn).1, (congrArg CoreSt.lanes hacore).trans (k4 hn).2⟩
    · obtain ⟨k6, l, k7, k8⟩ := k5 lane hn
      exact ⟨(congrArg CoreSt.waitq hacore).trans k6, l, (congrArg (fun x => Tab.find? x.lanes lane) hacore).trans k7, k8⟩
    · exact (congrArg (fun c => c.works.length) hctx).trans ((congrArg List.length hpo.1).trans k2)
    · exact (congrArg Ctx.pc hctx).trans (congrArg (· + 8) (hpo.2.1.trans k3))

end Sys2Proof.Machine
end

section
/-!
PROOFS. The engines' instructions at their issue; O15.
-/
set_option Elab.async false

namespace Sys2Proof.Machine

/-- A body that gives no trap issues its instruction to an engine. -/
structure EngBody (body : Res) (u : State) (i op : Nat) (w : BitVec 56) (e : Option Nat) (dig : Bool) : Prop where
  issues : (∀ n, body ≠ .trap n) → ∃ ds xs rd wr hold, body = engIssue i op w e ds xs rd wr hold u ∧ hold.isSome = dig

section
variable (u : State) (i : Nat) (w : BitVec 56)

/-- A body of two trap conditions before its issue. -/
theorem engBody_of {body : Res} {op : Nat} {e : Option Nat} {dig b1 b2 : Bool} {n1 n2 : Nat} {ds : List (BitVec 256)} {xs : List W64} {rd wr : List Rng} {hold : Option Nat}
    (h : body = if b1 then .trap n1 else if b2 then .trap n2 else engIssue i op w e ds xs rd wr hold u) (hd : hold.isSome = dig) : EngBody body u i op w e dig := by
  refine ⟨fun hno => ⟨ds, xs, rd, wr, hold, ?_, hd⟩⟩
  cases b1 with
  | true => exact absurd h (hno n1)
  | false =>
    cases b2 with
    | true => exact absurd h (hno n2)
    | false => exact h

theorem movBody_engBody : EngBody (movBody i w u) u i 0x45 w (some 0) false := engBody_of u i w rfl rfl

theorem gatherBody_engBody : EngBody (gatherBody false i w u) u i 0x46 w (some 1) false := engBody_of u i w rfl rfl

theorem scatBody_engBody : EngBody (gatherBody true i w u) u i 0x47 w (some 1) false := engBody_of u i w rfl rfl

theorem warpBody_engBody : EngBody (warpBody i w u) u i 0x48 w (some 1) false := engBody_of u i w rfl rfl

theorem vecBody_engBody (op : Nat) : EngBody (vecBody op i w u) u i op w (vecEngine u w) false := engBody_of u i w rfl rfl

theorem crcBody_engBody : EngBody (scanBody false i w u) u i 0x80 w (some 4) false := by
  refine ⟨fun hno => ?_⟩
  unfold scanBody at hno ⊢
  dsimp only at hno ⊢
  split
  · next h =>
    rw [if_pos h] at hno
    exact absurd rfl (hno 3)
  · exact ⟨_, _, _, _, _, rfl, rfl⟩

theorem digBody_engBody : EngBody (scanBody true i w u) u i 0x81 w (some 4) true := by
  refine ⟨fun hno => ?_⟩
  unfold scanBody at hno ⊢
  dsimp only at hno ⊢
  split
  · next h =>
    rw [if_pos h] at hno
    exact absurd rfl (hno 3)
  · exact ⟨_, _, _, _, _, rfl, rfl⟩

end

/-- An engine's queue stays where only another one is replaced. -/
theorem State.engq_setEngq_self (s : State) (e : Nat) (q : EngQ) : (s.setEngq e q).engq e = q := Tab.getD_setD_self _ _ _ _

theorem State.engq_setEngq_ne (s : State) {e x : Nat} (q : EngQ) (h : x ≠ e) : (s.setEngq e q).engq x = s.engq x := Tab.getD_setD_ne _ _ _ _ h

theorem State.setEngq_same (s : State) (e : Nat) (q : EngQ) : SameBut [.eng] s (s.setEngq e q) :=
  fun p hp => by cases p <;> first | rfl | exact absurd (by decide) hp

/-- An instruction that its engine can take joins the queue. -/
theorem engIssue_ok {u : State} {i op e : Nat} {w : BitVec 56} {c : Ctx} {ds : List (BitVec 256)} {xs : List W64} {rd wr : List Rng} {hold : Option Nat} (hc : u.ctx i = c)
    (hn : (c.works.filter (fun x => x.eng)).length < 16) (hq : (u.engq e).queue.length < engCap e) :
    ∃ t q, engIssue i op w (some e) ds xs rd wr hold u = .ok t ∧ (t.engq e).queue = (u.engq e).queue ++ [q] ∧ q.ctx = i ∧ q.id = c.nextId ∧ q.op = op ∧ q.w = w
      ∧ (t.ctx i).pc = c.pc ∧ (t.ctx i).works.length = c.works.length + 1 ∧ (t.ctx i).hold = (if hold.isSome then .dig c.nextId else c.hold)
      ∧ (∀ x, x ≠ i → t.ctx x = u.ctx x) ∧ SameBut [.ctxs, .eng] u t := by
  subst hc
  unfold engIssue
  extract_lets c c1 c2
  dsimp -zeta only
  extract_lets q
  have hroom : (!u.engRoom e || decide (16 ≤ (c.works.filter (fun x => x.eng)).length)) = false := by
    rw [show u.engRoom e = true from decide_eq_true hq, decide_eq_false (Nat.not_le.mpr hn)]
    rfl
  rw [hroom, if_neg Bool.false_ne_true]
  have h1 : c1.works.length = (u.ctx i).works.length + 1 := List.length_append
  have hc2 : c2.pc = (u.ctx i).pc ∧ c2.works.length = (u.ctx i).works.length + 1 ∧ c2.hold = (if hold.isSome then .dig (u.ctx i).nextId else (u.ctx i).hold) := by
    show (if hold.isSome then { c1 with hold := .dig c.nextId } else c1).pc = _ ∧ (if hold.isSome then { c1 with hold := .dig c.nextId } else c1).works.length = _
      ∧ (if hold.isSome then { c1 with hold := .dig c.nextId } else c1).hold = _
    split
    · exact ⟨rfl, h1, rfl⟩
    · exact ⟨rfl, h1, rfl⟩
  have hctx : ∀ q', ((u.setCtx i c2).setEngq e q').ctx i = c2 := fun q' => ((State.setEngq_same _ e q').ctx (by decide) i).trans (u.ctx_setCtx_self i c2)
  refine ⟨_, ⟨i, c.nextId, op, w, ds, xs⟩, rfl, ?_, rfl, rfl, rfl, rfl, ?_, ?_, ?_, fun x hx => ?_, ?_⟩
  · rw [State.engq_setEngq_self]
  · rw [hctx]
    exact hc2.1
  · rw [hctx]
    exact hc2.2.1
  · rw [hctx]
    exact hc2.2.2
  · exact ((State.setEngq_same _ e _).ctx (by decide) x).trans (u.ctx_setCtx_ne c2 hx)
  · exact ((u.setCtx_same i c2).mono (by decide)).then (State.setEngq_same _ e _)

/-- What the issue of an engine instruction comes to. -/
def EngQueued (j : Instr) (u : State) (i op e : Nat) (w : BitVec 56) (c : Ctx) (dig : Bool) (s : State) : Prop :=
  ∃ v q, exec j s = .next v ∧ (v.engq e).queue = (u.engq e).queue ++ [q] ∧ q.ctx = i ∧ q.id = c.nextId ∧ q.op = op ∧ q.w = w
    ∧ (v.ctx i).pc = c.pc + 8 ∧ (v.ctx i).works.length = c.works.length + 1 ∧ (v.ctx i).hold = (if dig then .dig c.nextId else c.hold)
    ∧ (∀ x, x ≠ i → v.ctx x = s.ctx x) ∧ SameBut [.ctxs, .eng] u v

theorem engQueued_of {s u : State} {k : CtxId} {w : BitVec 56} {c : Ctx} {j : Instr} {op e : Nat} {dig legal : Bool} {needs : List LoadDst} {body : State → Res}
    (hu : u = s.fetchFx (ctxIx k)) (hc : c = s.ctx (ctxIx k)) (hn : (c.works.filter (fun x => x.eng)).length < 16) (hq : (u.engq e).queue.length < engCap e)
    (hj : exec j s = issue k w legal needs body s) (hl : legal = true) (hr : Runs s k w needs) (hb : EngBody (body u) u (ctxIx k) op w (some e) dig)
    (hno : ∀ n, body u ≠ .trap n) : EngQueued j u (ctxIx k) op e w c dig s := by
  have huc : u.ctx (ctxIx k) = c := by rw [hu, State.fetchFx_ctx, hc]
  obtain ⟨ds, xs, rd, wr, hold, he, hd⟩ := hb.issues hno
  obtain ⟨t, q, ht, h1, h2, h3, h4, h5, h6, h7, h8, h9, h10⟩ := engIssue_ok (op := op) (w := w) (ds := ds) (xs := xs) (rd := rd) (wr := wr) (hold := hold) huc hn hq
  rw [ht] at he
  rw [hu] at he
  have hex := hj.trans (issue_next hl hr he)
  have hadv := t.setCtx_same (ctxIx k) { t.ctx (ctxIx k) with pc := (t.ctx (ctxIx k)).pc + 8 }
  have hctx := t.ctx_setCtx_self (ctxIx k) { t.ctx (ctxIx k) with pc := (t.ctx (ctxIx k)).pc + 8 }
  refine ⟨_, q, hex, ?_, h2, h3, h4, h5, ?_, ?_, ?_, fun x hx => ?_, h10.trans (hadv.mono (by decide))⟩
  · exact h1
  · exact (congrArg Ctx.pc hctx).trans (congrArg (· + 8) h6)
  · exact (congrArg (fun c => c.works.length) hctx).trans h7
  · rw [← hd]
    exact (congrArg Ctx.hold hctx).trans h8
  · exact (t.ctx_setCtx_ne _ hx).trans ((h9 x hx).trans (by rw [hu, State.fetchFx_ctx]))

theorem legalV_of {fns : Nat} {w : BitVec 56} (hf : vFN w < fns) (he : vENG w ≠ 3) (hz : fw w 21 16 = 0) : legalV fns w = true := by
  simp [legalV, hf, he, hz]

theorem legalScan_of {dig : Bool} {w : BitVec 56} (hs : fw w 40 39 ≠ 3) (hp : fw w 38 37 < 2) (hz : fw w 21 0 = 0) (hd : dig = false → fw w 24 22 = 0) : legalScan dig w = true := by
  cases dig with
  | true => simp [legalScan, hs, hp, hz]
  | false => simp [legalScan, hs, hp, hz, hd rfl]

/-- Settles O15: the body of every engine instruction is its two trap conditions before the issue to the engine. -/
theorem engineInstructionsAreQueued : Obligations.EngineInstructionsAreQueued := by
  unfold Obligations.EngineInstructionsAreQueued
  rintro s u k w i c hu rfl hc hn j e op body hcase hno hq
  suffices h : ∃ dig, (dig = true ↔ op = 0x81) ∧ EngQueued j u (ctxIx k) op e w c dig s by
    obtain ⟨dig, hd, v, q, h1, h2, h3, h4, h5, h6, h7, h8, h9, h10, h11⟩ := h
    refine ⟨v, q, h1, h2, h3, h4, h5, h6, h7, h8, ?_, h10, h11⟩
    rw [h9]
    exact if_congr hd rfl rfl
  have vec : ∀ (j : Instr) (op fns : Nat), op ≠ 0x81 → exec j s = vecExec op fns k w s → vFN w < fns → vENG w ≠ 3 → fw w 21 16 = 0 → vecEngine u w = some e →
      (∀ n, vecBody op (ctxIx k) w u ≠ .trap n) → Runs s k w (vecNeeds op w) → ∃ dig, (dig = true ↔ op = 0x81) ∧ EngQueued j u (ctxIx k) op e w c dig s := by
    intro j op fns hop hj hf he hz hv hno hr
    exact ⟨false, by simpa using hop, engQueued_of hu hc hn hq hj (legalV_of hf he hz) hr (hv ▸ vecBody_engBody u (ctxIx k) w op) hno⟩
  obtain ⟨rfl, rfl, rfl, rfl, hz, hr⟩ | ⟨rfl, rfl, rfl, rfl, hz, hr⟩ | ⟨rfl, rfl, rfl, rfl, hz, hr⟩ | ⟨rfl, rfl, rfl, rfl, hz, hr⟩ | ⟨hv, he, heng, hz, rfl, hr⟩ | ⟨hs, rfl, hsp, hpoly, hz, hr⟩ := hcase
  · exact ⟨false, by decide, engQueued_of hu hc hn hq rfl (beq_iff_eq.mpr hz) hr (movBody_engBody u (ctxIx k) w) hno⟩
  · exact ⟨false, by decide, engQueued_of hu hc hn hq rfl (beq_iff_eq.mpr hz) hr (gatherBody_engBody u (ctxIx k) w) hno⟩
  · exact ⟨false, by decide, engQueued_of hu hc hn hq rfl (beq_iff_eq.mpr hz) hr (scatBody_engBody u (ctxIx k) w) hno⟩
  · exact ⟨false, by decide, engQueued_of hu hc hn hq rfl (beq_iff_eq.mpr hz) hr (warpBody_engBody u (ctxIx k) w) hno⟩
  · obtain ⟨rfl, rfl, hf⟩ | ⟨rfl, rfl, hf⟩ | ⟨rfl, rfl, hf⟩ | ⟨rfl, rfl, hf⟩ | ⟨rfl, rfl, hf⟩ | ⟨rfl, rfl, hf⟩ | ⟨rfl, rfl, hf⟩ | ⟨rfl, rfl, hf⟩ := hv
    · exact vec _ _ 6 (by decide) rfl hf heng hz he hno hr
    · exact vec _ _ 4 (by decide) rfl hf heng hz he hno hr
    · exact vec _ _ 1 (by decide) rfl (Nat.lt_one_iff.mpr hf) heng hz he hno hr
    · exact vec _ _ 2 (by decide) rfl hf heng hz he hno hr
    · exact vec _ _ 5 (by decide) rfl hf heng hz he hno hr
    · exact vec _ _ 1 (by decide) rfl (Nat.lt_one_iff.mpr hf) heng hz he hno hr
    · exact vec _ _ 2 (by decide) rfl hf heng hz he hno hr
    · exact vec _ _ 1 (by decide) rfl (Nat.lt_one_iff.mpr hf) heng hz he hno hr
  · obtain ⟨rfl, rfl, hpd, rfl⟩ | ⟨rfl, rfl, rfl⟩ := hs
    · exact ⟨false, by decide, engQueued_of hu hc hn hq rfl (legalScan_of hsp hpoly hz fun _ => hpd) hr (crcBody_engBody u (ctxIx k) w) hno⟩
    · exact ⟨true, by decide, engQueued_of hu hc hn hq rfl (legalScan_of hsp hpoly hz nofun) hr (digBody_engBody u (ctxIx k) w) hno⟩

end Sys2Proof.Machine
end

section
/-!
PROOFS. ACC.SAVE, ACC.REST and OST.CFG at their issue; O11.
-/
set_option Elab.async false

namespace Sys2Proof.Machine

/-! ## Poison and the contexts -/

section
variable (s : State) (i : Nat) (b : Bool)

theorem State.poisonIf_ctx_self : (s.poisonIf i b).ctx i = { s.ctx i with poison := (s.ctx i).poison || b } := by
  unfold State.poisonIf
  cases b with
  | true =>
    rw [if_pos rfl, State.poison_ctx, State.ctx_onCtx_self, Bool.or_true]
  | false =>
    rw [if_neg Bool.false_ne_true, Bool.or_false]

theorem State.poisonIf_ctx_ne {j : Nat} (h : j ≠ i) : (s.poisonIf i b).ctx j = s.ctx j := by
  unfold State.poisonIf
  split
  · rw [State.poison_ctx, State.ctx_onCtx_ne _ _ h]
  · rfl

end

/-- A context before and after: what changed is `f` of it and perhaps its poison flag, and no other context changed. -/
structure CtxStep (s t : State) (i : Nat) (c : Ctx) : Prop where
  self : ∃ b, t.ctx i = { c with poison := b }
  others : ∀ q, q ≠ i → t.ctx q = s.ctx q

/-- A change of the context, poisoned or not, after steps that change no context. -/
theorem ctxStep_of {s u : State} {i : Nat} {b : Bool} {f : Ctx → Ctx} (h : u.ctxs = s.ctxs) : CtxStep s ((u.onCtx i f).poisonIf i b) i (f (s.ctx i)) := by
  have hc : ∀ q, u.ctx q = s.ctx q := fun q => by rw [State.ctx, h]; rfl
  refine ⟨⟨(f (s.ctx i)).poison || b, ?_⟩, fun q hq => ?_⟩
  · rw [State.poisonIf_ctx_self, State.ctx_onCtx_self, hc]
  · rw [State.poisonIf_ctx_ne _ _ _ hq, State.ctx_onCtx_ne _ _ hq, hc]

/-- An instruction whose body changes its context alone, and perhaps poisons it. -/
theorem issue_ctxStep {s u t : State} {k : CtxId} {w : BitVec 56} {c d : Ctx} {legal : Bool} {needs : List LoadDst} {body : State → Res} (hu : u = s.fetchFx (ctxIx k))
    (hl : legal = true) (hr : Runs s k w needs) (hb : body u = .ok t) (ht : CtxStep u t (ctxIx k) d) (hpc : d.pc = c.pc) :
    ∃ v, issue k w legal needs body s = .next v ∧ (v.ctx (ctxIx k)).pc = c.pc + 8 ∧ (∀ q, q ≠ ctxIx k → v.ctx q = s.ctx q)
      ∧ (v.ctx (ctxIx k)).tiles = d.tiles ∧ (v.ctx (ctxIx k)).ost = d.ost := by
  obtain ⟨b, hself⟩ := ht.self
  rw [hu] at hb
  refine ⟨_, issue_next hl hr hb, ?_, fun q hq => ?_, ?_, ?_⟩
  · rw [State.advance, State.ctx_onCtx_self, hself, ← hpc]
  · rw [State.advance, State.ctx_onCtx_ne _ _ hq, ht.others q hq, hu, State.fetchFx_ctx]
  · rw [State.advance, State.ctx_onCtx_self, hself]
  · rw [State.advance, State.ctx_onCtx_self, hself]

/-! ## ACC.REST in mode 0 -/

/-- A tile without what only the model remembers of its passes. -/
def Tile.bare (t : Tile) : Tile := { t with gen := 0, issued := [], order := [], ready := false }

theorem recallTiles_bare (l : List Tile) (a gen : Nat) (s : State) : (recallTiles l a gen s).2.map Tile.bare = l.map Tile.bare := by
  induction l generalizing a gen s with
  | nil => rfl
  | cons t r ih =>
    unfold recallTiles
    dsimp only
    split
    · rw [List.map_cons, List.map_cons, ih]
      rfl
    · split
      · rw [List.map_cons, List.map_cons, ih]
        rfl
      · rw [List.map_cons, List.map_cons, ih]
        rfl

section
variable {u : State} {i : Nat} {w : BitVec 56} {c : Ctx}

theorem restBody_ok {a n len used : Nat} {ts : List Tile} (hc : u.ctx i = c) (ha : a = (c.sreg (fw w 43 39)).toNat) (hn : n = (c.sreg (fw w 38 34)).toNat) (h64 : n ≤ 64)
    (hlen : len = recLen u.mem.tank n a) (hp : parseTiles n 0 (u.bytes 0 a len) = .ok ts used) (hfit : firstMisfit u i n 0 (u.bytes 0 a len) c.tiles = none)
    (hend : a + len ≤ 2 ^ 27) (hw : c.writers ⟨0, a, len⟩ = []) :
    restBody i w u = .ok ((putTiles i a ts (u.readFx 0 a len (i / 4) 0)).poisonIf i (u.bad 0 a len)) := by
  subst hc ha hn hlen
  have hk : min 65 ((u.ctx i).sreg (fw w 38 34)).toNat = ((u.ctx i).sreg (fw w 38 34)).toNat := Nat.min_eq_right (by omega)
  unfold restBody
  dsimp only
  rw [hk, if_neg (by omega), hw, if_neg (by decide), hp, hfit]
  exact if_neg (Nat.not_lt.mpr hend)

/-! ## ACC.REST in mode 1 -/

theorem State.residues_same (s : State) (core unit n : Nat) : SameBut [.regs, .ev, .hostMem] s (s.residues core unit n) :=
  SameBut.foldl (fun t _ => ((t.incReg_same _ _).mono (by decide)).then (State.raise_same _ _ _ _ _)) _ _

theorem State.incomplete_same (s : State) (i : Nat) (t : Tile) (count slot : Nat) : SameBut [.regs, .ev, .hostMem] s (s.incomplete i t count slot) :=
  ((s.accErr_same _ _).mono (by decide)).then (State.raise_same _ _ _ _ _)

/-- A merge of one record changes no context, and of the tile its slots alone. -/
theorem mergeSlot_kept (i : Nat) (hit : List Nat) (r : List Byte) (s : State) (t : Tile) :
    SameBut [.regs, .ev, .hostMem] s (mergeSlot i hit r s t).1 ∧ (mergeSlot i hit r s t).2.gen = t.gen := by
  have h := slotRead_same i t (nAt r 12 2) s
  unfold mergeSlot
  dsimp only
  split
  · exact ⟨(h.mono (by decide)).trans (State.incomplete_same _ _ _ _ _), rfl⟩
  · exact ⟨h.mono (by decide), rfl⟩

theorem mergeAll_kept (i : Nat) (hit : List Nat) (l : List (List Byte)) (s : State) (t : Tile) :
    SameBut [.regs, .ev, .hostMem] s (mergeAll i hit l s t).1 ∧ (mergeAll i hit l s t).2.gen = t.gen := by
  induction l generalizing s t with
  | nil => exact ⟨SameBut.refl _ s, rfl⟩
  | cons r rest ih =>
    obtain ⟨h1, h2⟩ := mergeSlot_kept i hit r s t
    obtain ⟨h3, h4⟩ := ih (mergeSlot i hit r s t).1 (mergeSlot i hit r s t).2
    exact ⟨h1.trans h3, h4.trans h2⟩

/-- The tile that a put leaves under its number. -/
theorem putTile_of_gen {c : Ctx} {t y : Tile} (hy : y ∈ (c.putTile t).tiles) (hg : y.gen = t.gen) : y = t := by
  obtain ⟨x, -, rfl⟩ := List.mem_map.mp hy
  split at hg
  · next h => exact if_pos h
  · next h => exact absurd hg h

variable {t : Tile} {recs : List (List Byte)} {res : List Nat} {a : Nat}

/-- What the records add to a tile. -/
def mergeOf (i a : Nat) (res : List Nat) (recs : List (List Byte)) (t : Tile) (u : State) : State × Tile :=
  mergeAll i (if t.fmt = 0 then res else []) recs
    ((u.readFx 0 a (16 * t.size) (i / 4) 0).residues (i / 4) 5 ((List.range t.size).countP (if t.fmt = 0 then res else []).contains)) t

theorem mergeOf_kept : (mergeOf i a res recs t u).1.ctxs = u.ctxs ∧ (mergeOf i a res recs t u).2.gen = t.gen := by
  obtain ⟨h1, h2⟩ := mergeAll_kept i (if t.fmt = 0 then res else []) recs
    ((u.readFx 0 a (16 * t.size) (i / 4) 0).residues (i / 4) 5 ((List.range t.size).countP (if t.fmt = 0 then res else []).contains)) t
  have h3 := State.residues_same (u.readFx 0 a (16 * t.size) (i / 4) 0) (i / 4) 5 ((List.range t.size).countP (if t.fmt = 0 then res else []).contains)
  have h4 := u.readFx_same 0 a (16 * t.size) (i / 4) 0
  exact ⟨(h1 .ctxs (by decide)).trans ((h3 .ctxs (by decide)).trans (h4 .ctxs (by decide))), h2⟩

theorem mergeBody_ok (hc : u.ctx i = c) (ha : a = (c.sreg (fw w 43 39)).toNat) (ht : c.tile (fTILE w) = some t) (hend : a + 16 * t.size ≤ 2 ^ 27)
    (hrecs : recs = runs 16 t.size (u.bytes 0 a (16 * t.size))) (hok : recs.all (mergeOk t) = true) (hcl : t.closed = false)
    (hcore : ∀ r ∈ recs, i / 4 < bAt r 11 ∧ (t.lastCore = 0xFF ∨ t.lastCore < bAt r 11)) (hord : t.order.any (passIssued t) = false)
    (hw : c.writers ⟨0, a, 16 * t.size⟩ = []) : mergeBody i w res u
      = .ok (((mergeOf i a res recs t u).1.onCtx i (fun c => c.putTile { (mergeOf i a res recs t u).2 with lastCore := (recs.map (fun r => bAt r 11)).foldl max 0 })).poisonIf i
        (u.bad 0 a (16 * t.size))) := by
  subst hc ha hrecs
  have hno : (runs 16 t.size (u.bytes 0 ((u.ctx i).sreg (fw w 43 39)).toNat (16 * t.size))).any
      (fun r => decide (bAt r 11 ≤ i / 4) || (t.lastCore != 0xFF && decide (bAt r 11 ≤ t.lastCore))) = false := by
    refine List.any_eq_false.mpr fun r hr => ?_
    obtain ⟨h1, h2⟩ := hcore r hr
    rw [decide_eq_false (Nat.not_le.mpr h1), Bool.false_or]
    obtain h2 | h2 := h2
    · rw [h2]
      exact Bool.false_ne_true
    · rw [decide_eq_false (Nat.not_le.mpr h2), Bool.and_false]
      exact Bool.false_ne_true
  unfold mergeBody
  dsimp only
  rw [ht]
  dsimp only
  rw [if_neg (Nat.not_lt.mpr hend), hw, if_neg (by decide), hok, if_neg (by decide), hcl, if_neg Bool.false_ne_true, hno, if_neg Bool.false_ne_true, hord, if_neg Bool.false_ne_true]
  rfl

/-! ## OST.CFG -/

theorem ostBody_ok {o : OstSt} (hc : u.ctx i = c) (ha : a = (c.sreg (fRD w) + sext32 (fIMM w)).toNat)
    (ho : o = (⟨BitVec.ofNat 256 (u.num 1 (cb (i / 4) a) 32), []⟩ : OstSt)) (hal : a % 32 = 0) (hend : a + 32 ≤ 2 ^ 21) (hfmt : ostFormatBad o = false)
    (hadr : ostAddressBad o = false) (hpwl : o.act = 8 → pwlOk (pwlRead u (i / 4) o) = true ∧ c.writers ⟨1, cb (i / 4) o.pwlptr, 768⟩ = [])
    (hw : c.writers ⟨1, cb (i / 4) a, 32⟩ = []) : ∃ (t : State) (b : Bool), ostBody i w u = .ok ((t.onCtx i (fun c => { c with ost := ⟨o.rcd, pwlRead u (i / 4) o⟩ })).poisonIf i b)
      ∧ t.ctxs = u.ctxs := by
  subst hc ha
  unfold ostBody
  extract_lets c core a o' tabBad pwl bad s1 s2
  have hoo : o' = o := ho.symm
  have hpw : (pwl && !tabBad && !(c.writers ⟨1, cb core o'.pwlptr, 768⟩).isEmpty) = false := by
    cases hp : pwl with
    | false => rfl
    | true =>
      have hact : o.act = 8 := by
        rw [← hoo]
        exact beq_iff_eq.mp hp
      rw [hoo, show c.writers ⟨1, cb core o.pwlptr, 768⟩ = [] from (hpwl hact).2]
      simp
  have hok : (pwl && !tabBad && !pwlOk (pwlRead u core o')) = false := by
    cases hp : pwl with
    | false => rfl
    | true =>
      have hact : o.act = 8 := by
        rw [← hoo]
        exact beq_iff_eq.mp hp
      rw [hoo, show pwlOk (pwlRead u core o) = true from (hpwl hact).1]
      simp
  rw [if_neg (not_or.mpr ⟨not_not.mpr hal, Nat.not_lt.mpr hend⟩), show c.writers ⟨1, cb core a, 32⟩ = [] from hw, if_neg (by decide), hpw, hok, hoo, hfmt, hadr,
    if_neg Bool.false_ne_true, if_neg Bool.false_ne_true, if_neg Bool.false_ne_true, if_neg Bool.false_ne_true]
  refine ⟨s2, bad, ?_, ?_⟩
  · rfl
  · have h1 : SameBut accessParts u s1 := u.readFx_same _ _ _ _ _
    have h2 : SameBut accessParts u s2 := sameBut_ite (h1.then (State.readFx_same _ _ _ _ _ _)) h1
    exact h2 .ctxs (by decide)

end

/-- The body of ACC.SAVE. -/
def accSaveBody (i : Nat) (w : BitVec 56) (s : State) : Res :=
  if ((s.ctx i).sreg (fRA w)).toNat % 16 ≠ 0 ∨ ((s.ctx i).sreg (fRA w)).toNat + saveLen (s.ctx i) > 2 ^ 27 then .trap 3
  else .ok (s.setCtx i { s.ctx i with hold := .save (fRD w) ((s.ctx i).sreg (fRA w)).toNat })

/-- Settles O11. -/
theorem tilesSaveAndRestoreIssue : Obligations.TilesSaveAndRestoreIssue := by
  unfold Obligations.TilesSaveAndRestoreIssue
  rintro s u k w i c hu rfl hc
  have huc : u.ctx (ctxIx k) = c := by rw [hu, State.fetchFx_ctx, hc]
  refine ⟨fun hr hlow hal hend => ?_, fun hr hlow a n ha hn => ⟨fun hmode h64 ts used len hlen hp hfit hend hw => ?_, fun hmode t recs ht hend hrecs hok hcl hcore hord hw res => ?_⟩,
    fun hr hlow a o ha ho hal hend hfmt hadr hpwl hw => ?_⟩
  · have hb : accSaveBody (ctxIx k) w u = .ok (u.setCtx (ctxIx k) { c with hold := .save (fRD w) (c.sreg (fRA w)).toNat }) := by
      unfold accSaveBody
      rw [huc]
      exact if_neg (not_or.mpr ⟨not_not.mpr hal, Nat.not_lt.mpr hend⟩)
    rw [hu] at hb
    have hd : exec (.accSave k w) s = issue k w (fw w 40 0 == 0) (sNeeds [fRA w]) (accSaveBody (ctxIx k) w) s := rfl
    rw [GoesTo, hd]
    exact issue_ok (beq_iff_eq.mpr hlow) hr hb (State.setCtx_ctxTo _ _ _) rfl
  · have hd : exec (.accRest k w) s = issue k w (legalRest w) (sNeeds [fw w 43 39, fw w 38 34]) (restBody (ctxIx k) w) s := if_neg (by rw [hmode]; decide)
    have hread := (u.readFx_same 0 a len (ctxIx k / 4) 0)
    have hstep := ctxStep_of (s := u) (u := (recallTiles ts a (((u.readFx 0 a len (ctxIx k / 4) 0).ctx (ctxIx k)).gen (ctxIx k)) (u.readFx 0 a len (ctxIx k / 4) 0)).1) (i := ctxIx k)
      (b := u.bad 0 a len) (f := fun c => { c with
        tiles := c.tiles ++ (recallTiles ts a (((u.readFx 0 a len (ctxIx k / 4) 0).ctx (ctxIx k)).gen (ctxIx k)) (u.readFx 0 a len (ctxIx k / 4) 0)).2, nextId := c.nextId + ts.length })
      ((recallTiles_same _ _ _ _ .ctxs (by decide)).trans (hread .ctxs (by decide)))
    rw [huc] at hstep
    obtain ⟨v, hv, hpc, hne, htiles, -⟩ := issue_ctxStep (c := c) hu (beq_iff_eq.mpr hlow) hr (restBody_ok huc ha hn h64 hlen hp hfit hend hw) hstep rfl
    refine ⟨v, hd.trans hv, hpc, hne, ?_⟩
    rw [htiles]
    show List.map Tile.bare _ = List.map Tile.bare _
    rw [List.map_append, List.map_append, recallTiles_bare]
  · have hd : exec (.accRestMerge k ⟨w, res⟩) s = issue k w (legalRest w) (sNeeds [fw w 43 39, fw w 38 34]) (mergeBody (ctxIx k) w res) s := if_neg (by
      show ¬(!bit w 44) = true
      rw [hmode]
      decide)
    obtain ⟨hctxs, hgen⟩ := mergeOf_kept (u := u) (i := ctxIx k) (a := a) (res := res) (recs := recs) (t := t)
    have hstep := ctxStep_of (s := u) (i := ctxIx k) (b := u.bad 0 a (16 * t.size))
      (f := fun c => c.putTile { (mergeOf (ctxIx k) a res recs t u).2 with lastCore := (recs.map (fun r => bAt r 11)).foldl max 0 }) hctxs
    rw [huc] at hstep
    obtain ⟨v, hv, hpc, hne, htiles, -⟩ := issue_ctxStep (c := c) hu (beq_iff_eq.mpr hlow) hr (mergeBody_ok huc ha ht hend hrecs hok hcl hcore hord hw) hstep rfl
    refine ⟨v, hd.trans hv, hpc, hne, fun y hy hg => ?_⟩
    rw [htiles] at hy
    rw [putTile_of_gen hy (hg.trans hgen.symm)]
    exact ⟨rfl, rfl⟩
  · obtain ⟨t, b, hb, ht⟩ := ostBody_ok huc ha ho hal hend hfmt hadr hpwl hw
    have hstep := ctxStep_of (s := u) (i := ctxIx k) (b := b) (f := fun c => { c with ost := ⟨o.rcd, pwlRead u (ctxIx k / 4) o⟩ }) ht
    rw [huc] at hstep
    obtain ⟨v, hv, hpc, hne, -, host⟩ := issue_ctxStep (c := c) hu (beq_iff_eq.mpr hlow) hr hb hstep rfl
    exact ⟨v, hv, hpc, host, hne⟩

end Sys2Proof.Machine
end

section
/-!
PROOFS. Collectives: descriptors, chunks and their replies, start and end; O44.
-/
set_option Elab.async false

namespace Sys2Proof.Machine

/-! ## What sending leaves of the collectives -/

/-- The collectives at work are the same. -/
def CollsKept (s t : State) : Prop := t.link.colls = s.link.colls

section
variable {s t u : State}

theorem CollsKept.trans (h : CollsKept s t) (k : CollsKept t u) : CollsKept s u := Eq.trans k h

theorem SameBut.collsKept {l : List Piece} (h : SameBut l s t) (hl : .link ∉ l := by decide) : CollsKept s t := congrArg LinkSt.colls (h .link hl)

theorem collsKept_ite {c : Prop} [Decidable c] (ht : CollsKept s t) (hu : CollsKept s u) : CollsKept s (if c then t else u) := by
  split
  · exact ht
  · exact hu

theorem CollsKept.foldl {α : Type} {f : State → α → State} (h : ∀ t a, CollsKept t (f t a)) (l : List α) (s : State) : CollsKept s (l.foldl f s) := by
  induction l generalizing s with
  | nil => rfl
  | cons a r ih => exact (h s a).trans (ih _)

end

section
variable (s : State)

theorem State.portSend_collsKept (p : Nat) (w : Wire) : CollsKept s (s.portSend p w) := by
  unfold State.portSend
  exact collsKept_ite rfl rfl

theorem herdSend_collsKept (dst : Nat) (w : Wire) : CollsKept s (herdSend dst w s) := by
  unfold herdSend
  split
  · exact s.portSend_collsKept _ w
  · exact (s.incReg_same _ _).collsKept

theorem State.setPert_collsKept (t : Tab Pert) : CollsKept s (s.setPert t) := by
  have h1 : CollsKept s ([0x84, 0x88, 0x8C, 0x90, 0x94, 0x98, 0x9C].foldl (fun u o => if (Tab.find? t o).isSome then u else u.clrReg (Reg.TST_MR_CFG + o) (2 ^ 31))
      { s with pert := t }) :=
    CollsKept.trans (t := { s with pert := t }) rfl (CollsKept.foldl (fun u o => collsKept_ite rfl (u.clrReg_same _ _).collsKept) _ _)
  exact collsKept_ite (h1.trans (State.clrReg_same _ _ _).collsKept) h1

theorem State.usePert_collsKept (off : Nat) : CollsKept s (s.usePert off) := by
  unfold State.usePert
  split
  · rfl
  · split
    · rfl
    · exact collsKept_ite (s.setPert_collsKept _) rfl

theorem transmit_collsKept (f : ChunkFrame) : CollsKept s (transmit f s) := by
  have hu := s.usePert_collsKept 0x98
  unfold transmit
  split
  · exact collsKept_ite (hu.trans (herdSend_collsKept _ _ _)) (collsKept_ite (hu.trans (herdSend_collsKept _ _ _)) (herdSend_collsKept s _ _))
  · exact herdSend_collsKept s _ _

theorem sendChunk_collsKept (c : Coll) (index : Nat) (payload : List Byte) (poison : Bool) : CollsKept s (sendChunk c index payload poison s) :=
  CollsKept.trans (t := s.onLink (fun l => { l with kept := l.kept ++ [⟨_, false⟩] })) rfl (transmit_collsKept _ _)

theorem sendUnit_collsKept (c : Coll) (t : Nat) (result : Bool) (k : Nat) (data : List Byte) (poison : Nat → Bool) : CollsKept s (sendUnit c t result k data poison s) :=
  CollsKept.foldl (fun u _ => sendChunk_collsKept u _ _ _ _) _ s

theorem classify_collsKept (c : Coll) (cls src index : Nat) : CollsKept s (classify c cls src index s) :=
  (((s.incReg_same _ _).mono (m := .regs :: evParts) (by decide)).then (State.raise_same _ _ _ _ _)).collsKept

theorem State.setColl_find (i : Nat) (c : Coll) : Tab.find? (s.setColl i c).link.colls i = some c :=
  (Tab.find?_insert s.link.colls i i c).trans (if_pos rfl)

end

/-! ## A collective as it goes on -/

/-- A collective whose start, contribution and counts of received and resent chunks are those of `c`. -/
structure Coll.Like (c d : Coll) : Prop where
  start : d.start = c.start
  cid : d.cid = c.cid
  data : d.data = c.data
  got : d.got = c.got
  resends : d.resends = c.resends

theorem Coll.Like.refl (c : Coll) : Coll.Like c c := ⟨rfl, rfl, rfl, rfl, rfl⟩

theorem Coll.Like.trans {c d e : Coll} (h : Coll.Like c d) (k : Coll.Like d e) : Coll.Like c e :=
  ⟨k.start.trans h.start, k.cid.trans h.cid, k.data.trans h.data, k.got.trans h.got, k.resends.trans h.resends⟩

/-- A collective stands at `i` that is like `c`. -/
def HasLike (i : Nat) (c : Coll) (s : State) : Prop := ∃ d, Tab.find? s.link.colls i = some d ∧ c.Like d

theorem HasLike.kept {i : Nat} {c : Coll} {s t : State} (h : HasLike i c s) (k : CollsKept s t) : HasLike i c t := by
  obtain ⟨d, hd, hl⟩ := h
  exact ⟨d, by rw [k, hd], hl⟩

theorem hasLike_setColl (s : State) (i : Nat) {c d : Coll} (h : c.Like d) : HasLike i c (s.setColl i d) := ⟨d, s.setColl_find i d, h⟩

theorem segmentDone_like (i : Nat) (c : Coll) (s : State) : HasLike i c (segmentDone i c s) := by
  have h : ∀ p, HasLike i c (s.setColl i (putOuts c c.pos (c.outForm (c.red.flatMap (fun e => e.2.1))) p)) := fun p => hasLike_setColl s i ⟨rfl, rfl, rfl, rfl, rfl⟩
  unfold segmentDone
  dsimp only
  split
  · exact h _
  · exact (h _).kept (sendUnit_collsKept _ _ _ _ _ _ _)

/-- A chunk of a unit that this member receives counts as received. -/
theorem useChunk_like {i index : Nat} {c : Coll} {payload : List Byte} {poison : Bool} (s : State) (h : c.unitAt (index / 2 ^ 21) ≠ none) :
    HasLike i { c with got := index :: c.got } (useChunk i c index payload poison s) := by
  unfold useChunk
  extract_lets c1 t on e bad more
  have h1 : Coll.Like { c with got := index :: c.got } c1 := ⟨rfl, rfl, rfl, rfl, rfl⟩
  have hunit : c1.unitAt t ≠ none := h
  clear_value c1 t
  split
  · next hu => exact absurd hu hunit
  · next result k hu =>
    extract_lets j merged c2 c3
    have h2 : Coll.Like { c with got := index :: c.got } c2 := ⟨h1.start, h1.cid, h1.data, h1.got, h1.resends⟩
    have h3 : Coll.Like { c with got := index :: c.got } c3 := ⟨h1.start, h1.cid, h1.data, h1.got, h1.resends⟩
    have hset : ∀ d, Coll.Like { c with got := index :: c.got } d → HasLike i { c with got := index :: c.got } (s.setColl i d) := fun d hd => hasLike_setColl s i hd
    clear_value c2 c3 merged more on bad e
    split
    · split
      · exact (hset c1 h1).kept (sendChunk_collsKept _ _ _ _ _)
      · split
        · obtain ⟨d, hd, hl⟩ := segmentDone_like i c2 s
          exact ⟨d, hd, h2.trans hl⟩
        · exact hset c2 h2
    · split
      · exact (hset c3 h3).kept (sendChunk_collsKept _ _ _ _ _)
      · exact hset c3 h3

/-- A collective stands at `i` with the start and contribution of `c`. -/
def HasCore (i : Nat) (c : Coll) (s : State) : Prop := ∃ d, Tab.find? s.link.colls i = some d ∧ d.start = c.start ∧ d.cid = c.cid ∧ d.data = c.data

theorem HasLike.core {i : Nat} {c : Coll} {s : State} (h : HasLike i c s) : HasCore i c s := by
  obtain ⟨d, hd, hl⟩ := h
  exact ⟨d, hd, hl.start, hl.cid, hl.data⟩

theorem HasCore.kept {i : Nat} {c : Coll} {s t : State} (h : HasCore i c s) (k : CollsKept s t) : HasCore i c t := by
  obtain ⟨d, hd, hl⟩ := h
  exact ⟨d, by rw [k, hd], hl⟩

theorem useChunk_core {i index : Nat} {c d : Coll} {payload : List Byte} {poison : Bool} {s : State} (hs : HasCore i d s) (h1 : c.start = d.start) (h2 : c.cid = d.cid)
    (h3 : c.data = d.data) : HasCore i d (useChunk i c index payload poison s) := by
  by_cases h : c.unitAt (index / 2 ^ 21) = none
  · unfold useChunk
    dsimp only
    rw [show Coll.unitAt { c with got := index :: c.got, wait := Tab.erase c.wait index } (index / 2 ^ 21) = none from h]
    exact hs
  · obtain ⟨e, he, hl⟩ := useChunk_like (i := i) (payload := payload) (poison := poison) s h
    exact ⟨e, he, hl.start.trans h1, hl.cid.trans h2, hl.data.trans h3⟩

/-- A chunk that is received leaves the start and the contribution of its collective. -/
theorem recvChunk_core {i : Nat} {d : Coll} (p : Nat) (f : ChunkFrame) {s : State} (hs : HasCore i d s) : HasCore i d (recvChunk i p f s) := by
  have hs0 := hs
  obtain ⟨c0, hc0, h1, h2, h3⟩ := hs
  unfold recvChunk
  rw [hc0]
  dsimp -zeta only
  extract_lets c left prev
  split
  · exact hs0
  · next x hx =>
    extract_lets ok ack
    have hack : ∀ u, HasCore i d u → HasCore i d (ack u) := fun u hu => hu.kept (herdSend_collsKept u _ _)
    split
    · split
      · exact hs0
      · exact useChunk_core (hack _ (hs0.kept (classify_collsKept s _ _ _ _))) h1 h2 h3
    · split
      · split
        · exact useChunk_core (hack _ hs0) h1 h2 h3
        · exact hs0
      · refine HasCore.kept (s := s.setColl i { c with wait := Tab.insert c.wait x f.payload, resends := c.resends + 1 }) ?_ (herdSend_collsKept _ _ _)
        exact ⟨_, s.setColl_find i _, h1, h2, h3⟩

theorem firstSend_core (i : Nat) (c : Coll) (s : State) : HasCore i c (firstSend i c s) := by
  have hset : HasCore i c (s.setColl i c) := (hasLike_setColl s i (Coll.Like.refl c)).core
  have hput : ∀ (k : Nat) (p : Nat → Bool), HasCore i c (s.setColl i (putOuts c k c.data p)) := fun k p =>
    (hasLike_setColl s i (show c.Like (putOuts c k c.data p) from ⟨rfl, rfl, rfl, rfl, rfl⟩)).core
  have hsend : ∀ (u : State) (t : Nat) (b : Bool) (k : Nat) (data : List Byte) (p : Nat → Bool), HasCore i c u → HasCore i c (sendUnit c t b k data p u) :=
    fun u t b k data p hu => hu.kept (sendUnit_collsKept u _ _ _ _ _ _)
  unfold firstSend
  extract_lets m p own k s1 s2 s3
  clear_value p
  split
  · split
    · generalize (List.range (c.nch (8 * c.elems))).map _ = red
      exact (segmentDone_like i { c with red := red } s).core
    · have h1 : HasCore i c s1 := hsend _ _ _ _ _ _ hset
      split
      · exact (segmentDone_like i c s1).core
      · exact h1
  · split
    · split
      · exact hput _ _
      · exact hsend _ _ _ _ _ _ (hput _ _)
    · split
      · split
        · exact hput _ _
        · exact hsend _ _ _ _ _ _ (hput _ _)
      · exact hset

theorem HasCore.foldl {i : Nat} {c : Coll} (l : List (Nat × ChunkFrame)) {s : State} (h : HasCore i c s) : HasCore i c (l.foldl (fun t e => recvChunk i e.1 e.2 t) s) := by
  induction l generalizing s with
  | nil => exact h
  | cons e r ih => exact ih (recvChunk_core e.1 e.2 h)

end Sys2Proof.Machine
end

section
/-!
PROOFS. The commands of the collectives; O44.
-/
set_option Elab.async false

namespace Sys2Proof.Machine

/-! ## Descriptors -/

/-- No descriptor is taken once none waits. -/
theorem takeColls_done (n : Nat) {s : State} (h : s.link.take = s.fld Reg.HLK_CQ_TAIL 5 0) : takeColls n s = s := by
  cases n with
  | zero => rfl
  | succ n =>
    unfold takeColls
    exact if_pos (Or.inl h)

theorem headSync_regsBut (s : State) : RegsBut [Reg.HLK_CQ_HEAD] s (headSync s) := s.setReg_regsBut _ _

theorem headSync_same (s : State) : SameBut [.regs] s (headSync s) := s.setReg_same _ _

section
variable (c : Coll) (status pch : Nat) (s : State)

theorem collRecord_same : SameBut (accessParts ++ [.sync]) s (collRecord c status pch s) := by
  unfold collRecord
  dsimp only
  obtain ⟨u, hu⟩ : ∃ u, u = s.tankPut c.stat (leBytes 4 status ++ leBytes 4 pch ++ leBytes 4 c.resends ++ leBytes 4 (collTime s c)) (c.outPort s) := ⟨_, rfl⟩
  have h1 : SameBut (accessParts ++ [.sync]) s u := hu ▸ (State.tankPut_same _ _ _ _).mono (by decide)
  have h2 : SameBut (accessParts ++ [.sync]) s (if c.dnCtr < 32768 then u.addSync c.dnCtr 1 else u) := sameBut_ite (h1.then (u.addSync_same _ _)) h1
  rw [← hu]
  exact h2.then (State.raiseIf_same _ _ _ _ _ _)

theorem collRecord_regsBut : RegsBut eccRegs s (collRecord c status pch s) := by
  unfold collRecord
  exact ((State.tankPut_regsBut _ _ _ _).trans (regsBut_ite ((State.addSync_same _ _ _).regsBut _) (RegsBut.refl _ _))).trans
    (regsBut_ite (State.raise_regsBut _ _ _ _ _ _) (RegsBut.refl _ _))

/-- A record with a status other than 0 raises 0x0504. -/
theorem collRecord_raised (h : status ≠ 0) : RaisedAmong 0x0504 s (collRecord c status pch s) := by
  unfold collRecord
  dsimp only
  rw [show (status != 0) = true by simpa using h]
  have hlog : LogGrows s (if c.dnCtr < 32768 then
      (s.tankPut c.stat (leBytes 4 status ++ leBytes 4 pch ++ leBytes 4 c.resends ++ leBytes 4 (collTime s c)) (c.outPort s)).addSync c.dnCtr 1
      else s.tankPut c.stat (leBytes 4 status ++ leBytes 4 pch ++ leBytes 4 c.resends ++ leBytes 4 (collTime s c)) (c.outPort s)) :=
    logGrows_ite ((s.tankPut_logGrows _ _ _).trans (State.addSync_same _ _ _).logGrows) (s.tankPut_logGrows _ _ _)
  exact hlog.raised (State.raise_raised _ _ _ _ _)

theorem collRecord_sync (h : c.dnCtr < 32768) : Tab.getD (collRecord c status pch s).sync c.dnCtr 0 = Tab.getD s.sync c.dnCtr 0 + 1 := by
  unfold collRecord
  dsimp only
  rw [if_pos h, (State.raiseIf_same _ _ _ _ _ _ .sync (by decide) : _ = _)]
  exact (Tab.getD_setD_self _ _ _ _).trans (by rw [(State.tankPut_same s _ _ _ .sync (by decide) : _ = _)])

end

/-- A descriptor that is ready is taken: put at work where it is legal, refused with its record where it is not. -/
theorem collectiveSubmit_spec {s : State} {who : Who} {v : W32} {u : State} {i : Nat} (h4 : s.up 4 = true) (hr : reaches s who Reg.HLK_CQ_TAIL = true) (hi : i = s.link.take)
    (hlt : i < 64) (hu : u = s.putMasked Reg.HLK_CQ_TAIL v) (htail : u.fld Reg.HLK_CQ_TAIL 5 0 = (i + 1) % 64) (hlen : s.link.colls.length < 8)
    (hnone : Tab.find? s.link.colls i = none) :
    ∃ t, exec (.collectiveSubmit who v) s = .next t ∧ t.link.take = (i + 1) % 64 ∧ (collOk u i = true → Tab.find? t.link.colls i = some (collOf u i))
      ∧ (collOk u i = false → Tab.find? t.link.colls i = none ∧ RaisedAmong 0x0504 s t) := by
  have hput : SameBut [.regs] s u := hu ▸ s.putMasked_same _ _
  have hlink : u.link = s.link := hput .link (by decide)
  have htake : u.link.take = i := by rw [hlink, hi]
  refine ⟨_, next_access hr, ?_⟩
  rw [if_pos h4, ← hu]
  have hstep : ∀ n, takeColls (n + 1) u = takeColls n (if collOk u i then
        (((u.readFx 0 (u.collAt i) 64 ((collOf u i).outPort u) 0).readFx 0 (u.num 0 (u.collAt i + 24) 4) (2 * (collOf u i).m) ((collOf u i).outPort u) 0).onLink
          (fun l => { l with take := (i + 1) % 64 })).setColl i (collOf u i)
      else collRecord (collOf u i) 3 0 (((u.readFx 0 (u.collAt i) 64 ((collOf u i).outPort u) 0).readFx 0 (u.num 0 (u.collAt i + 24) 4) (2 * (collOf u i).m)
          ((collOf u i).outPort u) 0).onLink (fun l => { l with take := (i + 1) % 64 }))) := fun n => by
    rw [takeColls, htake]
    exact if_neg (not_or.mpr ⟨by rw [htail]; omega, by rw [hlink]; omega⟩)
  rw [hstep 63]
  obtain ⟨w, hw⟩ : ∃ w, w = (u.readFx 0 (u.collAt i) 64 ((collOf u i).outPort u) 0).readFx 0 (u.num 0 (u.collAt i + 24) 4) (2 * (collOf u i).m) ((collOf u i).outPort u) 0 := ⟨_, rfl⟩
  have hws : SameBut accessParts u w := hw ▸ (u.readFx_same _ _ _ _ _).then (State.readFx_same _ _ _ _ _ _)
  have hwr : RegsBut eccRegs u w := hw ▸ (u.readFx_regsBut _ _ _ _ _).trans (State.readFx_regsBut _ _ _ _ _ _)
  have hwl : LogGrows u w := hw ▸ (u.readFx_logGrows _ _ _ _ _).trans (State.readFx_logGrows _ _ _ _ _ _)
  rw [← hw]
  clear hw
  obtain ⟨x, hx⟩ : ∃ x, x = w.onLink (fun l => { l with take := (i + 1) % 64 }) := ⟨_, rfl⟩
  rw [← hx]
  have hxr : RegsBut eccRegs u x := hx ▸ hwr.trans (RegsBut.of_regs rfl _)
  have hxtake : x.link.take = (i + 1) % 64 := by rw [hx]; rfl
  have hxcolls : x.link.colls = s.link.colls := by rw [hx, ← hlink, ← (hws .link (by decide) : w.link = u.link)]; rfl
  have hxl : LogGrows s x := (hput.logGrows).trans (hwl.trans (hx ▸ LogGrows.refl w))
  by_cases hok : collOk u i = true
  · obtain ⟨y, hy⟩ : ∃ y, y = x.setColl i (collOf u i) := ⟨_, rfl⟩
    have hyr : RegsBut eccRegs u y := hy ▸ hxr.trans (RegsBut.of_regs rfl _)
    have hyt : y.link.take = (i + 1) % 64 := by rw [hy]; exact hxtake
    have hl : (headSync y).link = y.link := headSync_same y .link (by decide)
    rw [if_pos hok, ← hy, takeColls_done 63 (by rw [hyt, ← htail]; exact (hyr.fld (by decide) 5 0).symm), hl]
    refine ⟨by rw [hy]; exact hxtake, fun _ => by rw [hy]; exact x.setColl_find i _, fun h => absurd hok (by rw [h]; decide)⟩
  · have hreg := collRecord_regsBut (collOf u i) 3 0 x
    have hsame := collRecord_same (collOf u i) 3 0 x
    have hl' : (collRecord (collOf u i) 3 0 x).link = x.link := hsame .link (by decide)
    rw [if_neg hok, takeColls_done 63 (by rw [hl', hxtake, ← htail]; exact (RegsBut.fld (hxr.trans hreg) (by decide) 5 0).symm)]
    have hl := (headSync_same (collRecord (collOf u i) 3 0 x) .link (by decide) : _ = _)
    have hlog : LogGrows (collRecord (collOf u i) 3 0 x) (headSync (collRecord (collOf u i) 3 0 x)) := (headSync_same _).logGrows
    rw [hl, hl']
    refine ⟨hxtake, fun h => absurd h hok, fun _ => ⟨by rw [hxcolls, hnone], ?_⟩⟩
    exact (hxl.among (collRecord_raised _ 3 0 x (by decide))).grows hlog

/-- A collective that starts keeps its start and its contribution through the chunks that came early. -/
theorem collectiveStart_spec {s : State} (h7 : s.up 7 = true) (h4 : s.up 4 = true) {i : Fin 64} {c : Coll} (hc : Tab.find? s.link.colls i.val = some c) (hs : c.start = none)
    (hgo : reached s c.goCtr c.goTgt = true) :
    ∃ t d, exec (.collectiveStart i) s = .next t ∧ Tab.find? t.link.colls i.val = some d ∧ d.start = some s.cnt.hlk ∧ d.cid = c.cid ∧ d.data = s.bytes 0 c.src c.len := by
  have hd : exec (.collectiveStart i) s = execCollectiveStart i s := rfl
  rw [hd, execCollectiveStart, h7, h4, hc]
  dsimp only
  rw [hs, hgo]
  simp only [State.when, Bool.and_self, if_true, Option.isSome_none, Bool.not_true, Bool.or_self, Bool.false_eq_true, if_false]
  obtain ⟨d, hf, h1, h2, h3⟩ := (firstSend_core i.val _ _).foldl c.early
  exact ⟨_, d, rfl, hf, h1, h2, h3⟩

/-! ## Messages on a herd port -/

section
variable {s t : State}

theorem SameBut.portUp_eq {l : List Piece} (h : SameBut l s t) (p : Nat) (hr : .regs ∉ l := by decide) (hd : .rst ∉ l := by decide) : t.portUp p = s.portUp p := by
  have h1 : t.regs = s.regs := h .regs hr
  have h2 : t.rst = s.rst := h .rst hd
  simp only [State.portUp, State.up, State.domSt, State.portSt, State.fld, State.reg, h1, h2]

theorem SameBut.herdPort {l : List Piece} (h : SameBut l s t) (p : Nat) (hr : .regs ∉ l := by decide) (hd : .rst ∉ l := by decide) : t.herdPort p = s.herdPort p := by
  have h1 : t.regs = s.regs := h .regs hr
  simp only [State.herdPort, h.portUp_eq p hr hd, State.rbit, State.reg, h1]

theorem SameBut.route {l : List Piece} (h : SameBut l s t) (dst : Nat) (hr : .regs ∉ l := by decide) (hd : .rst ∉ l := by decide) : t.route dst = s.route dst := by
  have h1 : t.reg (Reg.HLK_RT dst) = s.reg (Reg.HLK_RT dst) := congrArg (fun r => Tab.getD r _ _) (h .regs hr : t.regs = s.regs)
  unfold State.route
  dsimp only
  rw [h1, h.herdPort _ hr hd]

theorem SameBut.wireOut {l : List Piece} (h : SameBut l s t) (p : Nat) (w : Wire) (hr : .regs ∉ l := by decide) : wireOut t p w = wireOut s p w := by
  have h1 : t.regs = s.regs := h .regs hr
  simp only [Machine.wireOut, State.rbit, State.reg, h1]

theorem portUp_of_herdPort {p : Nat} (h : s.herdPort p = true) : s.portUp p = true := by
  simp only [State.herdPort, Bool.and_eq_true] at h
  exact h.1

/-- A route leads to a herd port. -/
theorem route_herdPort {dst q : Nat} (h : s.route dst = some q) : s.herdPort q = true := by
  simp only [State.route] at h
  split at h
  · next hc =>
    obtain rfl := Option.some.inj h
    simp only [Bool.and_eq_true] at hc
    exact hc.2
  · cases h

theorem State.portSend_out (s : State) {p : Nat} (h : s.portUp p = true) (w : Wire) : (s.portSend p w).link.out = (p, w) :: s.link.out := by
  unfold State.portSend
  rw [if_pos h]
  rfl

/-- A message on a herd port is acknowledged, and then forwarded or taken. -/
theorem herdTake_spec {p : Nat} (dst : Nat) (w : Wire) (f : State → State) (h : s.herdPort p = true) :
    herdTake p dst w f s = if dst ≠ s.hlkId then herdForward dst w (s.portTake p w.frames) else f (s.portTake p w.frames) := by
  unfold herdTake State.onFrames
  dsimp only
  rw [State.when, if_pos (portUp_of_herdPort h), State.when, h, if_pos rfl]
  rfl

/-- A message for another device leaves on the port of its route, or is counted as dropped without one. -/
theorem herdForward_spec {p dst : Nat} {w : Wire} (hw : ∀ q, s.route dst = some q → herdForward dst w (s.portTake p w.frames) = (s.portTake p w.frames).portSend q (wireOut s q w)) :
    (∀ q, s.route dst = some q → (herdForward dst w (s.portTake p w.frames)).link.out = (q, wireOut s q w) :: (p, Wire.linkAck ((s.port p).rx + BitVec.ofNat 32 w.frames - 1)) :: s.link.out
        ∧ SameBut [.link] s (herdForward dst w (s.portTake p w.frames))) := by
  intro q hq
  have hst := s.portTake_same p w.frames
  rw [hw q hq, State.portSend_out _ (by rw [hst.portUp_eq]; exact portUp_of_herdPort (route_herdPort hq))]
  exact ⟨rfl, hst.trans (State.portSend_same _ _ _)⟩

theorem herdForward_take (p dst : Nat) (w : Wire) :
    (∀ q, s.route dst = some q → (herdForward dst w (s.portTake p w.frames)).link.out = (q, wireOut s q w) :: (p, Wire.linkAck ((s.port p).rx + BitVec.ofNat 32 w.frames - 1)) :: s.link.out
        ∧ SameBut [.link] s (herdForward dst w (s.portTake p w.frames)))
      ∧ (s.route dst = none → herdForward dst w (s.portTake p w.frames) = (s.portTake p w.frames).incReg Reg.HLK_ROUTE_DROP w.frames) := by
  have hst := s.portTake_same p w.frames
  refine ⟨herdForward_spec fun q hq => ?_, fun hq => ?_⟩
  · unfold herdForward
    rw [hst.route, hq]
    dsimp only
    rw [hst.wireOut]
  · unfold herdForward
    rw [hst.route, hq]

end

/-- A chunk that a started collective expects and has not received (R318 to R320). -/
theorem recvChunk_spec {i p x prev : Nat} {c : Coll} {f : ChunkFrame} {u : State} (hc : Tab.find? u.link.colls i = some c) (hx : x = f.index.toNat) (hexp : x ∈ c.expected)
    (hgot : x ∉ c.got) (hunit : c.unitAt (x / 2 ^ 21) ≠ none) (hwait : Tab.find? c.wait x = none) (hprev : prev = c.members.getD ((c.pos + c.m - 1) % c.m) 0) :
    ∃ d, Tab.find? (recvChunk i p f u).link.colls i = some d
      ∧ (chunkDigest prev c.cid x c.seq f.payload = f.digest → f.payload.length = c.lenAt x → d.got = x :: c.got ∧ d.resends = c.resends)
      ∧ (chunkDigest prev c.cid x c.seq f.payload = f.digest → f.payload.length ≠ c.lenAt x → recvChunk i p f u = u)
      ∧ (chunkDigest prev c.cid x c.seq f.payload ≠ f.digest → d = { c with via := some p, wait := Tab.insert c.wait x f.payload, resends := c.resends + 1 }) := by
  have hleft : (c.expected.filter (fun y => !c.got.contains y)).contains x = true := by simp [hexp, hgot]
  have hr : recvChunk i p f u = if chunkDigest prev c.cid x c.seq f.payload = f.digest then
      (if f.payload.length = c.lenAt x then useChunk i { c with via := some p } x f.payload f.poison
        (herdSend prev (.ack ⟨BitVec.ofNat 10 prev, false, c.cid, BitVec.ofNat 32 x⟩) u) else u)
      else herdSend prev (.resend ⟨BitVec.ofNat 10 prev, false, c.cid, BitVec.ofNat 32 x⟩)
        (u.setColl i { c with via := some p, wait := Tab.insert c.wait x f.payload, resends := c.resends + 1 }) := by
    have hleft' : (List.filter (fun y => !c.got.contains y) (Coll.expected { c with via := some p })).contains f.index.toNat = true := hx ▸ hleft
    unfold recvChunk
    rw [hc]
    dsimp only
    rw [if_pos hleft', ← hx]
    dsimp only
    rw [hwait]
    dsimp only
    simp only [beq_iff_eq, hprev]
    rfl
  by_cases hd : chunkDigest prev c.cid x c.seq f.payload = f.digest
  · rw [hr, if_pos hd]
    by_cases hl : f.payload.length = c.lenAt x
    · rw [if_pos hl]
      obtain ⟨d, hf, hlike⟩ := useChunk_like (i := i) (c := { c with via := some p }) (index := x) (payload := f.payload) (poison := f.poison)
        (herdSend prev (.ack ⟨BitVec.ofNat 10 prev, false, c.cid, BitVec.ofNat 32 x⟩) u) hunit
      exact ⟨d, hf, fun _ _ => ⟨hlike.got, hlike.resends⟩, fun _ h => absurd hl h, fun h => absurd hd h⟩
    · rw [if_neg hl]
      exact ⟨c, hc, fun _ h => absurd h hl, fun _ _ => rfl, fun h => absurd hd h⟩
  · rw [hr, if_neg hd]
    refine ⟨_, ?_, fun h => absurd h hd, fun h => absurd h hd, fun _ => rfl⟩
    exact (congrArg (fun y => Tab.find? y i) (herdSend_collsKept _ _ _)).trans (u.setColl_find i _)

/-- The answer of a chunk for this device. -/
theorem exec_chunkData {s : State} {p : Fin 8} {f : ChunkFrame} {u : State} (hp : s.herdPort p = true) (hu : u = s.portTake p (chunkRun f.payload.length))
    (hid : f.dst.toNat = s.hlkId) :
    exec (.chunkData p f) s = .next (match s.link.colls.find? (fun e => e.2.cid == f.cid) with
      | some (i, c) =>
        if c.seq ≠ f.seq ∧ s.link.dead.contains (f.cid, f.seq) = true then u.incReg Reg.HLK_LATE_DROP 1
        else if c.start.isNone then u.setColl i { c with early := c.early ++ [(p.val, f)] }
        else if s.up 4 then recvChunk i p f u else u
      | none => if s.link.dead.contains (f.cid, f.seq) then u.incReg Reg.HLK_LATE_DROP 1 else u) := by
  subst hu
  have hd : exec (.chunkData p f) s = execChunkData p f s := rfl
  rw [hd, execChunkData, herdTake_spec _ _ _ hp, if_neg (not_not.mpr hid)]
  rfl

/-- A chunk for this device: for no collective, for one that has not started, and for one that has. -/
theorem chunkData_spec {s : State} (h4 : s.up 4 = true) (p : Fin 8) (f : ChunkFrame) (u : State) (hp : s.herdPort p = true) (hu : u = s.portTake p (chunkRun f.payload.length)) :
    (f.dst.toNat = s.hlkId → s.link.colls.find? (fun e => e.2.cid == f.cid) = none → exec (.chunkData p f) s = .next (if (f.cid, f.seq) ∈ s.link.dead then u.incReg Reg.HLK_LATE_DROP 1 else u))
    ∧ (∀ i c, f.dst.toNat = s.hlkId → s.link.colls.find? (fun e => e.2.cid == f.cid) = some (i, c) → Tab.find? s.link.colls i = some c → (f.cid, f.seq) ∉ s.link.dead →
      (c.start = none → ∃ t, exec (.chunkData p f) s = .next t ∧ Tab.find? t.link.colls i = some { c with early := c.early ++ [(p.val, f)] } ∧ SameBut [.link] s t)
      ∧ (∀ x prev, c.start ≠ none → x = f.index.toNat → x ∈ c.expected → x ∉ c.got → c.unitAt (x / 2 ^ 21) ≠ none → Tab.find? c.wait x = none → prev = c.members.getD ((c.pos + c.m - 1) % c.m) 0 →
        ∃ t d, exec (.chunkData p f) s = .next t ∧ Tab.find? t.link.colls i = some d ∧ (chunkDigest prev c.cid x c.seq f.payload = f.digest → f.payload.length = c.lenAt x → d.got = x :: c.got ∧ d.resends = c.resends)
          ∧ (chunkDigest prev c.cid x c.seq f.payload = f.digest → f.payload.length ≠ c.lenAt x → t = u)
          ∧ (chunkDigest prev c.cid x c.seq f.payload ≠ f.digest → d = { c with via := some p.val, wait := Tab.insert c.wait x f.payload, resends := c.resends + 1 }))) := by
  have hst : SameBut [.link] s u := hu ▸ s.portTake_same _ _
  have hcolls : u.link.colls = s.link.colls := by rw [hu]; rfl
  refine ⟨fun hid hnone => ?_, fun i c hid hfind hc hdead => ?_⟩
  · rw [exec_chunkData hp hu hid, hnone]
    simp only [List.contains_iff_mem]
  · have hex := exec_chunkData hp hu hid
    rw [hfind] at hex
    dsimp only at hex
    rw [if_neg (fun h => hdead (List.contains_iff_mem.mp h.2))] at hex
    refine ⟨fun hs => ⟨_, hex.trans (congrArg Host.Outcome.next (if_pos (by rw [hs]; rfl))), u.setColl_find i _, hst.then (m := [.link]) (fun q hq => ?_)⟩,
      fun x prev hs hx hexp hgot hunit hwait hprev => ?_⟩
    · cases q <;> first | rfl | exact absurd (by decide) hq
    · obtain ⟨d, h⟩ := recvChunk_spec (p := p.val) (hcolls ▸ hc) hx hexp hgot hunit hwait hprev
      exact ⟨_, d, hex.trans (congrArg Host.Outcome.next ((if_neg (by simpa using hs)).trans (if_pos h4))), h⟩

/-- Replies for this device: a chunk acknowledged is released, and one to send again is sent on its route. -/
theorem chunkReply_spec {s : State} (p : Fin 8) (r : ChunkReply) (hp : s.herdPort p = true) (hid : r.dst.toNat = s.hlkId) :
    exec (.chunkAck p r) s = .next ((s.portTake p 1).onLink (fun l => { l with kept := l.kept.filter (fun k => !(k.frame.cid == r.cid && k.frame.index == r.index)) }))
    ∧ (∀ k q, s.pertAt 0x98 = none → s.link.kept = [k] → k.frame.cid = r.cid → k.frame.index = r.index → k.resent = false → s.route k.frame.dst.toNat = some q →
      ∃ t, exec (.resendRequest p r) s = .next t ∧ t.link.kept = [{ k with resent := true }] ∧ t.link.out = (q, .chunk k.frame) :: (s.portTake p 1).link.out ∧ SameBut [.link] s t) := by
  refine ⟨?_, fun k q hpert hkept hcid hidx hres hroute => ?_⟩
  · have hd : exec (.chunkAck p r) s = execChunkAck p r s := rfl
    rw [hd, execChunkAck, herdTake_spec _ _ _ hp, if_neg (not_not.mpr hid)]
    rfl
  · have hd : exec (.resendRequest p r) s = execResendRequest p r s := rfl
    have hst := s.portTake_same p 1
    have hk : (s.portTake p 1).link.kept = [k] := hkept
    rw [hd, execResendRequest, herdTake_spec _ _ _ hp, if_neg (not_not.mpr hid), resendKept]
    dsimp only [Wire.frames]
    have hmine : (k.frame.cid == r.cid && k.frame.index == r.index && !k.resent) = true := by simp [hcid, hidx, hres]
    rw [hk, List.find?_cons_of_pos (p := fun (k : Kept) => k.frame.cid == r.cid && k.frame.index == r.index && !k.resent) hmine]
    dsimp only
    obtain ⟨u, hu⟩ : ∃ u, u = (s.portTake p 1).onLink (fun l => { l with kept := l.kept.map (fun x => if (x.frame.cid == r.cid && x.frame.index == r.index && !x.resent) = true then { x with resent := true } else x) }) := ⟨_, rfl⟩
    have hus : SameBut [.link] s u := by
      refine hst.then (m := [.link]) (fun x hx => ?_)
      rw [hu]
      cases x <;> first | rfl | exact absurd (by decide) hx
    have huk : u.link.kept = [{ k with resent := true }] := by
      rw [hu]
      show List.map _ (s.portTake p 1).link.kept = _
      rw [hk, List.map_singleton, if_pos hmine]
    have huo : u.link.out = (s.portTake p 1).link.out := by rw [hu]; rfl
    rw [← hu]
    have htr : transmit k.frame u = u.portSend q (.chunk k.frame) := by
      have hpe : u.pertAt 0x98 = none := by rw [State.pertAt, (hus .pert (by decide) : u.pert = s.pert)]; exact hpert
      rw [transmit, hpe]
      dsimp only
      rw [herdSend, hus.route, hroute]
    have hup : u.portUp q = true := by rw [hus.portUp_eq]; exact portUp_of_herdPort (route_herdPort hroute)
    refine ⟨_, rfl, ?_, ?_, ?_⟩
    · rw [htr, State.portSend, if_pos hup]
      exact huk
    · rw [htr, State.portSend_out _ hup, huo]
    · rw [htr]
      exact hus.trans (State.portSend_same _ _ _)

/-! ## The end of a collective -/

/-- A collective that leaves while no descriptor waits. -/
theorem collEnd_spec {i : Nat} {s : State} (h : s.link.take = s.fld Reg.HLK_CQ_TAIL 5 0) :
    SameBut [.regs, .link] s (collEnd i s) ∧ Tab.find? (collEnd i s).link.colls i = none ∧ (collEnd i s).link.dead = s.link.dead := by
  unfold collEnd
  obtain ⟨u, hu⟩ : ∃ u, u = s.onLink (fun l => { l with colls := Tab.erase l.colls i }) := ⟨_, rfl⟩
  have hus : SameBut [.regs, .link] s u := fun p hp => by
    rw [hu]
    cases p <;> first | rfl | exact absurd (by decide) hp
  have hcolls : u.link.colls = Tab.erase s.link.colls i := by rw [hu]; rfl
  have hdead : u.link.dead = s.link.dead := by rw [hu]; rfl
  have htake : u.link.take = u.fld Reg.HLK_CQ_TAIL 5 0 := by rw [hu]; exact h
  rw [← hu, takeColls_done 64 htake, (headSync_same u .link (by decide) : (headSync u).link = u.link)]
  refine ⟨hus.then (headSync_same u), ?_, hdead⟩
  rw [hcolls, Tab.find?_erase, if_pos rfl]

/-- Bytes put one after the other into a tank without ECC errors. -/
theorem foldl_tankPut_clean {α : Type} (f : α → Nat) (g : α → List Byte) (port : Nat) (l : List α) {s : State} (h : s.mem.tank.ecc = []) :
    SameBut [.tank] s (l.foldl (fun t e => t.tankPut (f e) (g e) port) s) ∧ (l.foldl (fun t e => t.tankPut (f e) (g e) port) s).mem.tank.ecc = [] := by
  induction l generalizing s with
  | nil => exact ⟨SameBut.refl _ _, h⟩
  | cons e r ih =>
    obtain ⟨h1, h2⟩ := State.tankPut_clean h (f e) (g e) port
    obtain ⟨h3, h4⟩ := ih h2
    exact ⟨h1.trans h3, h4⟩

/-- The status of a record in a tank without ECC errors. -/
theorem collRecord_status {c : Coll} (pch : Nat) {s : State} (h : s.mem.tank.ecc = []) (hend : c.stat + 16 ≤ 2 ^ 27) :
    (collRecord c 0 pch s).mem.tank.readN c.stat 4 = 0 := by
  have hmem : (collRecord c 0 pch s).mem.tank = (s.tankPut c.stat (leBytes 4 0 ++ leBytes 4 pch ++ leBytes 4 c.resends ++ leBytes 4 (collTime s c)) (c.outPort s)).mem.tank := by
    unfold collRecord
    dsimp only
    rw [(State.raiseIf_same _ _ _ _ _ _ .tank (by decide) : _ = _)]
    split <;> rfl
  have hlen : (leBytes 4 0 ++ leBytes 4 pch ++ leBytes 4 c.resends ++ leBytes 4 (collTime s c)).length = 16 := by simp [leBytes_length]
  have hbyte : ∀ q, q < 4 → (collRecord c 0 pch s).mem.tank.byte (c.stat + q) = 0 := fun q hq => by
    rw [hmem, State.tankPut_byte h (by rw [hlen]; exact hend), if_pos ⟨Nat.le_add_right _ _, by rw [hlen]; omega⟩, Nat.add_sub_cancel_left, List.append_assoc, List.append_assoc,
      List.getD_append _ _ _ _ (by rw [leBytes_length]; exact hq)]
    have : q = 0 ∨ q = 1 ∨ q = 2 ∨ q = 3 := by omega
    rcases this with rfl | rfl | rfl | rfl <;> rfl
  have hread : (collRecord c 0 pch s).mem.tank.read c.stat 4 = [0, 0, 0, 0] := by
    rw [Mem.read, show List.range 4 = [0, 1, 2, 3] from rfl]
    simp only [List.map_cons, List.map_nil, hbyte 0 (by decide), hbyte 1 (by decide), hbyte 2 (by decide), hbyte 3 (by decide)]
  rw [Mem.readN, hread]
  rfl

/-- A collective ends complete or by its timeout. -/
theorem collectiveEnd_spec {s : State} (h7 : s.up 7 = true) (h4 : s.up 4 = true) (i : Fin 64) (c : Coll) (hc : Tab.find? s.link.colls i.val = some c) (hs : c.start ≠ none)
    (htake : s.link.take = s.fld Reg.HLK_CQ_TAIL 5 0) (hdn : c.dnCtr < 32768) :
    ((∀ x ∈ c.expected, x ∈ c.got) → (∀ e ∈ c.outs, e.2.2.2 = false) → s.mem.tank.ecc = [] → c.stat + 16 ≤ 2 ^ 27 → ∃ t, exec (.collectiveComplete i) s = .next t ∧ Tab.find? t.link.colls i.val = none
      ∧ Tab.getD t.sync c.dnCtr 0 = Tab.getD s.sync c.dnCtr 0 + 1 ∧ t.mem.tank.readN c.stat 4 = 0)
    ∧ (∃ t, exec (.collectiveTimeout i) s = .next t ∧ Tab.find? t.link.colls i.val = none ∧ Tab.getD t.sync c.dnCtr 0 = Tab.getD s.sync c.dnCtr 0 + 1 ∧ RaisedAmong 0x0504 s t ∧ (c.cid, c.seq) ∈ t.link.dead) := by
  have hstart : c.start.isNone = false := by
    cases hn : c.start with
    | none => exact absurd hn hs
    | some _ => rfl
  have hrec : ∀ (u : State) (st pch : Nat), SameBut [.tank] s u → (collRecord c st pch u).link = s.link ∧ (collRecord c st pch u).link.take = (collRecord c st pch u).fld Reg.HLK_CQ_TAIL 5 0
      ∧ Tab.getD (collRecord c st pch u).sync c.dnCtr 0 = Tab.getD s.sync c.dnCtr 0 + 1 := fun u st pch hu => by
    have hl : (collRecord c st pch u).link = s.link := (collRecord_same c st pch u .link (by decide) : _ = _).trans (hu .link (by decide))
    refine ⟨hl, ?_, by rw [collRecord_sync c st pch u hdn, (hu .sync (by decide) : u.sync = s.sync)]⟩
    rw [hl, htake]
    exact (((hu.regsBut eccRegs).trans (collRecord_regsBut c st pch u)).fld (by decide) 5 0).symm
  refine ⟨fun hgot hgood hecc hend => ?_, ?_⟩
  · have hd : exec (.collectiveComplete i) s = execCollectiveComplete i s := rfl
    have hany : c.expected.any (fun x => !c.got.contains x) = false := by simpa using hgot
    have hbad : c.outs.filter (fun e => e.2.2.2) = [] := List.filter_eq_nil_iff.mpr fun e he => by simp [hgood e he]
    rw [hd, execCollectiveComplete, h7, h4, hc]
    dsimp only
    rw [hstart, hany, hbad]
    simp only [State.when, Bool.and_self, if_true, Bool.or_self, Bool.false_eq_true, if_false, List.foldl_nil, List.isEmpty_nil, List.length_nil]
    obtain ⟨hu, hclean⟩ := foldl_tankPut_clean (fun e => e.2.1) (fun e => e.2.2.1) (c.inPort s) (c.outs.filter (fun e => !e.2.2.2)) hecc
    generalize (c.outs.filter (fun e => !e.2.2.2)).foldl (fun t e => t.tankPut e.2.1 e.2.2.1 (c.inPort s)) s = u at hu hclean ⊢
    obtain ⟨hl, ht, hsync⟩ := hrec u 0 0 hu
    obtain ⟨hsame, hnone, -⟩ := collEnd_spec (i := i.val) ht
    refine ⟨_, rfl, hnone, ?_, ?_⟩
    · rw [(hsame .sync (by decide) : _ = _)]
      exact hsync
    · rw [(hsame .tank (by decide) : _ = _)]
      exact collRecord_status 0 hclean hend
  · have hd : exec (.collectiveTimeout i) s = execCollectiveTimeout i s := rfl
    rw [hd, execCollectiveTimeout, h7, h4, hc]
    dsimp only
    rw [hstart]
    simp only [State.when, Bool.and_self, if_true, Bool.false_eq_true, if_false]
    have hu : SameBut [.tank] s (poisonRange c.dst c.outLen s) := fun p hp => by
      cases p <;> first | rfl | exact absurd (by decide) hp
    generalize poisonRange c.dst c.outLen s = u at hu ⊢
    obtain ⟨hl, ht, hsync⟩ := hrec u 2 c.outChunks hu
    have hraised := hu.logGrows.among (collRecord_raised c 2 c.outChunks u (by decide))
    generalize collRecord c 2 c.outChunks u = v at hl ht hsync hraised ⊢
    obtain ⟨w, hw⟩ : ∃ w, w = v.onLink (fun l => { l with dead := (c.cid, c.seq) :: l.dead, kept := l.kept.filter (fun k => !(k.frame.cid == c.cid && k.frame.seq == c.seq)) }) := ⟨_, rfl⟩
    have hwt : w.link.take = w.fld Reg.HLK_CQ_TAIL 5 0 := by rw [hw]; exact ht
    have hws : w.sync = v.sync := by rw [hw]; rfl
    have hwe : w.ev = v.ev := by rw [hw]; rfl
    obtain ⟨hsame, hnone, hdead⟩ := collEnd_spec (i := i.val) hwt
    rw [← hw]
    refine ⟨_, rfl, hnone, ?_, ?_, ?_⟩
    · rw [(hsame .sync (by decide) : _ = _), hws]
      exact hsync
    · exact hraised.grows (LogGrows.trans ⟨[], by rw [hwe]; rfl⟩ hsame.logGrows)
    · rw [hdead, hw]
      exact List.mem_cons_self

/-- Settles O44: descriptors, messages, start and end follow from what a chunk's use and a send leave of the collectives. -/
theorem collectives : Obligations.Collectives := by
  intro s h7 h4
  refine ⟨fun who v u i hr hi hlt hu htail hlen hnone => collectiveSubmit_spec h4 hr hi hlt hu htail hlen hnone, fun i c hc hs hgo => collectiveStart_spec h7 h4 hc hs hgo,
    fun p j w dst r u hp hj hu hdst => ?_, fun p f u hp hu => chunkData_spec h4 p f u hp hu, fun p r hp hid => chunkReply_spec p r hp hid,
    fun i c hc hs htake hdn => collectiveEnd_spec h7 h4 i c hc hs htake hdn⟩
  have hex : exec j s = .next (herdForward dst w (s.portTake p w.frames)) := by
    have htake := fun f => (herdTake_spec dst w f hp).trans (if_pos hdst)
    rcases hj with ⟨rfl, rfl, rfl⟩ | ⟨rfl, rfl, rfl⟩ | ⟨f, rfl, rfl, rfl⟩
    · exact congrArg Host.Outcome.next (htake _)
    · exact congrArg Host.Outcome.next (htake _)
    · exact congrArg Host.Outcome.next (htake _)
  obtain ⟨h1, h2⟩ := herdForward_take (s := s) p dst w
  exact ⟨fun q hq => ⟨_, hex, h1 q hq⟩, fun hq => hex.trans (congrArg Host.Outcome.next ((h2 hq).trans (by rw [hu])))⟩

end Sys2Proof.Machine
end

section
/-!
PROOFS. The array stage: a stream and a core beyond those of the device disturb ARR_CHK_CFG and ARR_CHKPOIS_CNT (R173, R203, R284); O14.
-/
set_option Elab.async false

namespace Sys2Proof.Machine

/-- A load whose image lies on the 64 arrays of core 0 and that took a spare of a core whose place in the reserve registers is that of ARR_CHKPOIS_CNT of array 0. -/
def farLoad : LoadJob := ⟨.fw, false, ⟨0, 0, (List.range 64).map (fun a => ⟨0, 0, 0, a, false⟩), [], [], false⟩, 0, 0, [], [], [], [(8 * 0xCC007, 1)], 0⟩

/-- A retry without a tile, its direct output without a readable entry. -/
def farRetry : Run :=
  { Run.blank 0 ⟨0, 0, none, 0, 0, 0, 0, none, 0, 0, 0, 0⟩ with phases := 2, retry := true, stored := true, sigma := 1, dost := some ⟨⟨0, []⟩, some 1⟩ }

/-- The reset state with core 0 running, comparisons inverted on array 0, FAULTN 15 there, the retry ready in its stage, that load in progress, and a context whose current
result is of a stream whose count of releases has the place of ARR_CHK_CFG of core 0. -/
def farState : State :=
  { State.reset with
    rst := { State.reset.rst with dom := [(9, .run)] }
    regs := [(Reg.ARR_CHK_CFG 0, 0xFFFFF)]
    pert := [(0x90, ⟨0, none⟩)]
    prs := { State.reset.prs with load := some farLoad }
    arrs := [(0, { Arr.idle with held := [.sum farRetry true] })]
    ctxs := [(0, { Ctx.idle with cur := some (0x1AA00, 0) })]
    strms := [(0x1AA00, ⟨[⟨1, 0, false, false, .accepted 0⟩], none, [], none, [], []⟩)] }

/-- The register ARR_CHKPOIS_CNT of array 0 that a command answers with. -/
def poisCntAfter : Out → Option W32
  | .next t => some (t.reg (Reg.ARR_CHKPOIS_CNT 0))
  | _ => none

/-- The poisoned output releases the stream's number, which takes FAULTN to 0: the array fails, and the refused load gives its spare back in ARR_CHKPOIS_CNT. -/
theorem farState_poisCnt : poisCntAfter (exec (.arrayStageCombine 0 ⟨[], []⟩) farState) = some 2 := by decide +kernel

theorem farState_fails : (checkGroups 0 farRetry (List.range 8) (farState.setArr 0 { farState.arr 0 with held := [] })).2 = List.range 8 := by decide +kernel

/-- Refutes O14: where a context's current result names a stream beyond the 64 and a load in progress took spares of a core beyond the 32 (`farState`), a retry that fails
again changes FAULTN and then, as the array fails, the count ARR_CHKPOIS_CNT a second time. -/
theorem not_arrayStageAndStallRelease : ¬ Obligations.ArrayStageAndStallRelease := by
  unfold Obligations.ArrayStageAndStallRelease
  intro h
  obtain ⟨hstage, -⟩ := h farState
  obtain ⟨t, hex, -, -, hfail⟩ := hstage 0 farRetry [] (List.range 8) ⟨[], []⟩ false (by decide) rfl rfl (by decide) (by decide) (by decide) (by decide) (by decide) rfl farState_fails.symm
  obtain ⟨hcnt, -⟩ := hfail (by decide) rfl (by decide) (by decide)
  have hafter := farState_poisCnt
  rw [hex] at hafter
  exact absurd (hcnt.symm.trans (Option.some.inj hafter)) (by decide)

end Sys2Proof.Machine
end

section
/-!
PROOFS. FP32 words and the values they stand for: a word that arithmetic gives survives a conversion to FP32.
-/
set_option Elab.async false

namespace Sys2Proof.Machine

theorem log2_mul_two_pow {n : Nat} (h : n ≠ 0) (k : Nat) : Nat.log2 (n * 2 ^ k) = Nat.log2 n + k := by
  induction k with
  | zero => rw [pow_zero, Nat.mul_one, Nat.add_zero]
  | succ k ih =>
    rw [pow_succ, ← Nat.mul_assoc, Nat.log2_eq_log_two, Nat.log_mul_base (by decide) (Nat.mul_ne_zero h (Nat.two_pow_pos k).ne'), ← Nat.log2_eq_log_two, ih, Nat.add_assoc]

/-- The logarithm of a significand scaled by a power of two. -/
theorem floorLog2_scaled {sig : Nat} (h : sig ≠ 0) (a b : Nat) : floorLog2 (sig * 2 ^ a) (2 ^ b) = (Nat.log2 sig : Int) + a - b := by
  have hle : 2 ^ Nat.log2 sig ≤ sig := Nat.log2_self_le h
  unfold floorLog2
  rw [log2_mul_two_pow h, Nat.log2_two_pow]
  have hk : ((Nat.log2 sig + a : Nat) : Int) - (b : Int) = (Nat.log2 sig : Int) + a - b := by push_cast; ring
  rw [hk]
  dsimp only
  rw [if_pos ?_]
  split
  · next h0 =>
    obtain ⟨j, hj⟩ := Int.eq_ofNat_of_zero_le h0
    rw [hj, Int.toNat_natCast, ← pow_add, show b + j = Nat.log2 sig + a by omega, pow_add]
    exact Nat.mul_le_mul_right _ hle
  · next h0 =>
    obtain ⟨j, hj⟩ := Int.eq_ofNat_of_zero_le (show 0 ≤ -((Nat.log2 sig : Int) + a - b) by omega)
    rw [hj, Int.toNat_natCast, Nat.mul_assoc, ← pow_add, show b = Nat.log2 sig + (a + j) by omega, pow_add]
    exact Nat.mul_le_mul_right _ hle

theorem roundMag_exact (rtz : Bool) (n : Nat) {d : Nat} (hd : 0 < d) : roundMag rtz (n * d) d = n := by
  unfold roundMag
  dsimp only
  rw [Nat.mul_div_cancel _ hd, Nat.mul_mod_left]
  cases rtz
  · rw [if_neg (by decide), if_neg (by omega), if_pos (by omega)]
  · rfl

/-- The significand of a finite FP32 magnitude. -/
def sigOf (m : Nat) : Nat := if m / 2 ^ 23 = 0 then m % 2 ^ 23 else m % 2 ^ 23 + 2 ^ 23

/-- A finite magnitude is what its significand scaled by its exponent encodes to. -/
theorem encodeMag_scaled (rtz : Bool) {m a b : Nat} (hm : m ≤ 0x7F7FFFFF) (hab : a = 0 ∨ b = 0) (hp : (a : Int) - b = (max (m / 2 ^ 23) 1 : Nat) - 150) :
    encodeMag fp32 rtz (sigOf m * 2 ^ a) (2 ^ b) = (m, false) := by
  unfold encodeMag
  by_cases h0 : sigOf m = 0
  · have hz : m = 0 := by
      unfold sigOf at h0
      split at h0 <;> omega
    rw [h0, Nat.zero_mul, if_pos rfl, hz]
  · have hlog : max ((Nat.log2 (sigOf m) : Int) + a - b) (-126) = (max (m / 2 ^ 23) 1 : Nat) - 127 := by
      have hle := Nat.log2_self_le h0
      have hlt : sigOf m < 2 ^ (Nat.log2 (sigOf m) + 1) := Nat.lt_log2_self
      by_cases he : m / 2 ^ 23 = 0
      · have hs : sigOf m < 2 ^ 23 := by
          unfold sigOf
          rw [if_pos he]
          exact Nat.mod_lt _ (by decide)
        have : Nat.log2 (sigOf m) < 23 := (Nat.pow_lt_pow_iff_right (by decide)).mp (lt_of_le_of_lt hle hs)
        rw [he] at hp ⊢
        omega
      · have hs : 2 ^ 23 ≤ sigOf m ∧ sigOf m < 2 ^ 24 := by
          unfold sigOf
          rw [if_neg he]
          omega
        have h1 : Nat.log2 (sigOf m) < 24 := (Nat.pow_lt_pow_iff_right (by decide)).mp (lt_of_le_of_lt hle hs.2)
        have h2 : 23 < Nat.log2 (sigOf m) + 1 := (Nat.pow_lt_pow_iff_right (by decide)).mp (lt_of_le_of_lt hs.1 hlt)
        omega
    have hn : sigOf m * 2 ^ a ≠ 0 := Nat.mul_ne_zero h0 (Nat.two_pow_pos a).ne'
    rw [if_neg hn]
    dsimp only
    rw [floorLog2_scaled h0, show (1 - ((127 : Nat) : Int)) = -126 by decide, hlog]
    have hround : roundMag rtz (sigOf m * 2 ^ a * (Fr.pow2 (((max (m / 2 ^ 23) 1 : Nat) : Int) - 127 - ((23 : Nat) : Int))).den)
        (2 ^ b * (Fr.pow2 (((max (m / 2 ^ 23) 1 : Nat) : Int) - 127 - ((23 : Nat) : Int))).num.natAbs) = sigOf m := by
      rw [show ((max (m / 2 ^ 23) 1 : Nat) : Int) - 127 - ((23 : Nat) : Int) = (a : Int) - b by rw [hp]; push_cast; ring]
      unfold Fr.pow2
      rcases hab with rfl | rfl
      · split
        · next hb =>
          have : b = 0 := by omega
          subst this
          simpa using roundMag_exact rtz (sigOf m) Nat.one_pos
        · rw [show (-(((0 : Nat) : Int) - b)).toNat = b by omega]
          simpa using roundMag_exact rtz (sigOf m) (Nat.two_pow_pos b)
      · rw [if_pos (by omega), show (((a : Nat) : Int) - (0 : Nat)).toNat = a by omega]
        simpa [Int.natAbs_pow] using roundMag_exact rtz (sigOf m) (Nat.two_pow_pos a)
    rw [hround]
    have hc : ((((max (m / 2 ^ 23) 1 : Nat) : Int) - 127 - -126).toNat) * 2 ^ 23 + sigOf m = m := by
      unfold sigOf
      split <;> omega
    rw [hc]
    exact Prod.ext rfl (decide_eq_false (by show ¬ m > 0x7F7FFFFF; omega))

/-- The value of a finite magnitude, as a significand scaled by a power of two. -/
theorem decodeF_finite {c : Nat} (hm : c % 2 ^ 31 ≤ 0x7F7FFFFF) :
    ∃ a b : Nat, (a = 0 ∨ b = 0) ∧ (a : Int) - b = (max (c % 2 ^ 31 / 2 ^ 23) 1 : Nat) - 150 ∧ decodeF fp32 c = .fin (c / 2 ^ 31 % 2 == 1) (sigOf (c % 2 ^ 31) * 2 ^ a) (2 ^ b) := by
  have hdec : decodeF fp32 c = .fin (c / 2 ^ 31 % 2 == 1) ((Fr.ofInt ((sigOf (c % 2 ^ 31) : Nat) : Int)).mul (Fr.pow2 ((max (c % 2 ^ 31 / 2 ^ 23) 1 : Nat) - 150))).num.natAbs
      ((Fr.ofInt ((sigOf (c % 2 ^ 31) : Nat) : Int)).mul (Fr.pow2 ((max (c % 2 ^ 31 / 2 ^ 23) 1 : Nat) - 150))).den := by
    unfold decodeF
    dsimp only
    rw [if_neg (show ¬ c % 2 ^ (32 - 1) > 0x7F7FFFFF by simpa using hm)]
    have hp : ((max (c % 2 ^ (32 - 1) / 2 ^ 23) 1 : Nat) : Int) - ((127 : Nat) : Int) - ((23 : Nat) : Int) = (max (c % 2 ^ 31 / 2 ^ 23) 1 : Nat) - 150 := by push_cast; ring
    rw [hp]
    unfold sigOf
    push_cast
    rfl
  rw [hdec]
  generalize hq : ((max (c % 2 ^ 31 / 2 ^ 23) 1 : Nat) : Int) - 150 = q
  by_cases h : 0 ≤ q
  · refine ⟨q.toNat, 0, .inr rfl, by omega, ?_⟩
    unfold Fr.pow2
    rw [if_pos h]
    simp [Fr.ofInt, Fr.mul, Int.natAbs_mul, Int.natAbs_pow]
  · refine ⟨0, (-q).toNat, .inl rfl, by omega, ?_⟩
    unfold Fr.pow2
    rw [if_neg h]
    simp [Fr.ofInt, Fr.mul]

theorem withSign_parts {c : Nat} (hc : c < 2 ^ 32) : withSign fp32 (c / 2 ^ 31 % 2 == 1) (c % 2 ^ 31) = c := by
  unfold withSign
  by_cases h : c / 2 ^ 31 % 2 = 1
  · rw [show (c / 2 ^ 31 % 2 == 1) = true by simpa using h, if_pos rfl]
    show c % 2 ^ 31 + 2 ^ 31 = c
    omega
  · rw [show (c / 2 ^ 31 % 2 == 1) = false by simpa using h, if_neg (by decide)]
    omega

/-- A word that is a finite number or an infinity converts to itself, and a NaN to the one NaN. -/
theorem convF_f32 (rtz : Bool) (w : W32) : convF fp32 rtz (f32 w) = (if w.toNat % 2 ^ 31 ≤ 0x7F800000 then w.toNat else 0x7FC00000, false) := by
  have hlt : w.toNat < 2 ^ 32 := w.isLt
  by_cases hfin : w.toNat % 2 ^ 31 ≤ 0x7F7FFFFF
  · obtain ⟨a, b, hab, hp, hd⟩ := decodeF_finite hfin
    rw [f32, hd, convF]
    dsimp only
    rw [encodeMag_scaled rtz hfin hab hp, if_neg Bool.false_ne_true, if_pos (by omega)]
    exact Prod.ext (withSign_parts hlt) rfl
  · have hdec : f32 w = if w.toNat % 2 ^ 31 = 0x7F800000 then .inf (w.toNat / 2 ^ 31 % 2 == 1) else .nan := by
      unfold f32 decodeF
      dsimp only
      rw [if_pos (show w.toNat % 2 ^ (32 - 1) > 0x7F7FFFFF by simpa using hfin)]
      simp only [Option.some.injEq]
    by_cases hinf : w.toNat % 2 ^ 31 = 0x7F800000
    · rw [hdec, if_pos hinf, if_pos (by omega), convF]
      dsimp only
      refine Prod.ext ?_ rfl
      rw [← hinf]
      exact withSign_parts hlt
    · rw [hdec, if_neg hinf, if_neg (by omega)]
      rfl

/-- What FP32 arithmetic gives is a number, an infinity or the one NaN. -/
theorem toF32_canonical (v : Val) : (toF32 v).toNat % 2 ^ 31 ≤ 0x7F800000 ∨ (toF32 v).toNat = 0x7FC00000 := by
  cases v with
  | nan => exact .inr rfl
  | free w =>
    unfold toF32
    dsimp only
    split
    · exact .inr rfl
    · next h => exact .inl (by omega)
  | inf neg => cases neg <;> exact .inl (by decide)
  | fin neg n d =>
    left
    unfold toF32
    dsimp only
    have hmag : (if (encodeMag fp32 false n d).2 then 0x7F800000 else (encodeMag fp32 false n d).1) ≤ 0x7F800000 := by
      split
      · exact Nat.le_refl _
      · next h =>
        have hle : ∀ r : Nat × Bool, r = encodeMag fp32 false n d → r.2 = false → r.1 ≤ 0x7F7FFFFF := by
          rintro r hr hf
          unfold encodeMag at hr
          split at hr
          · rw [hr]; exact Nat.zero_le _
          · rw [hr] at hf ⊢
            exact Nat.not_lt.mp (of_decide_eq_false hf)
        have := hle _ rfl (by simpa using h)
        omega
    generalize (if (encodeMag fp32 false n d).2 then 0x7F800000 else (encodeMag fp32 false n d).1) = m at hmag ⊢
    unfold withSign
    rw [BitVec.toNat_ofNat]
    cases neg
    · rw [if_neg (by decide)]
      omega
    · rw [if_pos rfl]
      show (m + 2 ^ 31) % 2 ^ 32 % 2 ^ 31 ≤ 0x7F800000
      omega

/-- An FP32 result survives a conversion to FP32. -/
theorem conv_toF32 (rtz : Bool) (v : Val) : conv 7 rtz (f32 (toF32 v)) = ((toF32 v).toNat, false) := by
  have h : conv 7 rtz (f32 (toF32 v)) = convF fp32 rtz (f32 (toF32 v)) := rfl
  rw [h, convF_f32]
  rcases toF32_canonical v with hc | hc
  · rw [if_pos hc]
  · rw [if_neg (by rw [hc]; decide), hc]

/-- A word read as FP32 stands for the same value. -/
theorem f32_inF32 (w : W32) : f32 (inF32 (f32 w)).1 = f32 w := by
  unfold inF32
  dsimp only
  rw [convF_f32]
  by_cases h : w.toNat % 2 ^ 31 ≤ 0x7F800000
  · rw [if_pos h, BitVec.ofNat_toNat, BitVec.setWidth_eq]
  · rw [if_neg h]
    have hnan : f32 w = .nan := by
      unfold f32 decodeF
      dsimp only
      rw [if_pos (show w.toNat % 2 ^ (32 - 1) > 0x7F7FFFFF by simp only [Nat.reduceSub]; omega), if_neg]
      simp only [Option.some.injEq]
      intro he
      simp only [Nat.reduceSub] at he
      omega
    rw [hnan]
    rfl

end Sys2Proof.Machine
end

section
/-!
PROOFS. Rows of a tank without ECC errors: what a read leaves, what a write puts there, and the numbers read back.
-/
set_option Elab.async false

namespace Sys2Proof.Machine

/-! ## A tank without errors -/

section
variable {s : State} (h : s.mem.tank.ecc = [])
include h

theorem partBad_clean (a n : Nat) : partBad (s.memOf 0) a n = [] := by
  unfold partBad
  rw [show (s.memOf 0).ecc = [] from h]
  rfl

/-- A write changes the tank alone, and leaves it without errors. -/
theorem State.writeFx_clean (a : Nat) (bs : List Byte) (port : Nat) :
    SameBut [.tank] s (s.writeFx 0 a bs port) ∧ (s.writeFx 0 a bs port).mem.tank.ecc = []
      ∧ ∀ b, (s.writeFx 0 a bs port).mem.tank.byte b = if a ≤ b ∧ b < a + bs.length then bs.getD (b - a) 0 else s.mem.tank.byte b := by
  have hc : s.correct 0 (fun e => partOf a bs.length e.1) = s :=
    State.correct_eq_self fun e he => absurd (show e ∈ s.mem.tank.ecc from he) (by simp [h])
  refine ⟨?_, ?_, fun b => ?_⟩
  · unfold State.writeFx
    dsimp only
    rw [hc, partBad_clean h, List.foldl_nil]
    intro p hp
    cases p <;> first | rfl | exact absurd hp (by decide)
  · unfold State.writeFx
    dsimp only
    rw [hc, partBad_clean h, List.foldl_nil]
    show (s.mem.tank.ecc.filter _) = []
    rw [h]
    rfl
  · have hb := s.writeFx_byte 0 a bs port b
    rw [partBad_clean h] at hb
    exact hb.trans (by simp only [List.contains_nil, and_true]; rfl)

theorem State.putBytes_clean (h4 : s.up 4 = true) (core port a : Nat) (bs : List Byte) : s.putBytes core port 0 a bs = (s.writeFx 0 a bs port, false) := by
  unfold State.putBytes
  rw [show s.spUp core 0 = true from h4, if_neg (by decide), State.partBadAt, show spAddr core 0 a = a from rfl, partBad_clean h]
  rfl

theorem State.bad_clean (a n : Nat) : s.bad 0 a n = false := by
  unfold State.bad Mem.unc
  rw [show (s.memOf 0).ecc = [] from h]
  rfl

/-- Reads of the tank alone change nothing. -/
theorem State.readRngs_clean (h4 : s.up 4 = true) (core : Nat) {rs : List Rng} (hrs : ∀ r ∈ rs, r.sp = 0) (port : Nat) : s.readRngs core rs port = (s, false) := by
  have hnil : ∀ sp, sp ≠ 0 → inSpace sp rs = [] := fun sp hsp => by
    unfold inSpace
    rw [List.map_eq_nil_iff, List.filter_eq_nil_iff]
    exact fun r hr => by simpa [hrs r hr] using hsp.symm
  have hread : ∀ sp, sp ≤ 2 → s.readMany sp (inSpace sp rs) port = s := fun sp hsp => by
    unfold State.readMany
    dsimp only
    by_cases h0 : sp = 0
    · subst h0
      rw [show (s.memOf 0).ecc = [] from h, List.filter_nil, List.foldl_nil]
      exact State.correct_eq_self fun e he => absurd (show e ∈ s.mem.tank.ecc from he) (by simp [h])
    · rw [hnil sp h0]
      simp only [List.any_nil, Bool.and_false, List.filter_false, List.foldl_nil]
      exact State.correct_eq_self fun e _ _ => rfl
  unfold State.readRngs
  refine Prod.ext ?_ ?_
  · show [0, 1, 2].foldl (fun t sp => t.readMany sp (inSpace sp rs) port) s = s
    rw [List.foldl_cons, hread 0 (by decide), List.foldl_cons, hread 1 (by decide), List.foldl_cons, hread 2 (by decide), List.foldl_nil]
  · show rs.any (fun r => s.bad r.sp r.lo r.len || !s.spUp core r.sp) = false
    rw [List.any_eq_false]
    intro r hr
    rw [hrs r hr, State.bad_clean h, show s.spUp core 0 = true from h4]
    decide

end

/-! ## Rows as bytes -/

/-- The elements of a row in a format of whole bytes, one after the other. -/
theorem packRow_bytes {fmt : Nat} (h : fmt ≠ 0) (l : List Nat) : packRow fmt l = l.flatMap (fun r => leBytes (fmtBytes fmt) r) := by
  induction l using packRow.induct (fmt := fmt) with
  | case1 => rfl
  | case2 x => simp [packRow]
  | case3 x y r h0 _ => exact absurd h0 h
  | case4 x y r _ ih => rw [packRow, if_neg h, ih, List.flatMap_cons, List.flatMap_cons, List.append_assoc]

/-- A number read where a list of bytes stands. -/
theorem Mem.readN_of_bytes {m : Mem} {lo k n : Nat} {bs : List Byte} (h : ∀ q < bs.length, m.byte (lo + q) = bs.getD q 0) (hk : k + n ≤ bs.length) : m.readN (lo + k) n = nAt bs k n := by
  unfold Mem.readN nAt
  congr 1
  refine List.ext_getElem ?_ fun q h1 h2 => ?_
  · simp [Mem.read]; omega
  · have hq : q < n := by simpa [Mem.read] using h1
    rw [List.getElem_take, List.getElem_drop]
    simp only [Mem.read, List.getElem_map, List.getElem_range]
    rw [Nat.add_assoc, h (k + q) (by omega), List.getD_eq_getElem _ _ (by omega)]

theorem leNat_lt (l : List Byte) : leNat l < 256 ^ l.length := by
  induction l with
  | nil => exact Nat.one_pos
  | cons b r ih =>
    rw [leNat, List.length_cons, pow_succ]
    have := b.isLt
    omega

theorem Mem.readN_lt (m : Mem) (a n : Nat) : m.readN a n < 256 ^ n := by
  have h := leNat_lt (m.read a n)
  rwa [show (m.read a n).length = n by simp [Mem.read]] at h

theorem Mem.readN_one (m : Mem) (a : Nat) : m.readN a 1 = (m.byte a).toNat := by
  show leNat [m.byte (a + 0)] = _
  rw [leNat, leNat]
  rfl

/-- A row written to a tank without errors: its elements are read back, and every other byte is as before. -/
theorem State.writeRow_clean {s : State} (h : s.mem.tank.ecc = []) {fmt : Nat} (hf : fmt ≠ 0) (a m : Nat) (f : Nat → Nat) (port : Nat) :
    (∀ q < m, (s.writeFx 0 a (packRow fmt ((List.range m).map f)) port).mem.tank.readN (a + fmtBytes fmt * q) (fmtBytes fmt) = f q % 256 ^ fmtBytes fmt)
    ∧ ∀ b, ¬(a ≤ b ∧ b < a + fmtBytes fmt * m) → (s.writeFx 0 a (packRow fmt ((List.range m).map f)) port).mem.tank.byte b = s.mem.tank.byte b := by
  obtain ⟨-, -, hbyte⟩ := State.writeFx_clean h a (packRow fmt ((List.range m).map f)) port
  have hpack : packRow fmt ((List.range m).map f) = (List.range m).flatMap (fun r => leBytes (fmtBytes fmt) (f r)) := by
    rw [packRow_bytes hf, List.flatMap_map]
  have hlen : (packRow fmt ((List.range m).map f)).length = fmtBytes fmt * m := by
    rw [hpack, length_flatMap_leBytes, List.length_range, Nat.mul_comm]
  refine ⟨fun q hq => ?_, fun b hb => ?_⟩
  · rw [Mem.readN_of_bytes (bs := packRow fmt ((List.range m).map f)), hpack, nAt_flatMap_leBytes _ hq]
    · intro k hk
      rw [hbyte, if_pos ⟨Nat.le_add_right _ _, Nat.add_lt_add_left hk _⟩, Nat.add_sub_cancel_left]
    · rw [hlen, ← Nat.mul_succ]
      exact Nat.mul_le_mul_left _ hq
  · rw [hbyte, if_neg (by rwa [hlen])]

end Sys2Proof.Machine
end

section
/-!
PROOFS. Instructions of the engines and DMA copies start and end; O16.
-/
set_option Elab.async false

namespace Sys2Proof.Machine

/-- The memories, where none of them is among the parts that may differ. -/
theorem SameBut.mem {l : List Piece} {s t : State} (h : SameBut l s t) (hl : ∀ p ∈ [Piece.tank, .cbuf, .dram, .nvsMem, .hostMem, .qspi], p ∉ l := by decide) : t.mem = s.mem := by
  have h1 := h .tank (hl _ (by decide))
  have h2 := h .cbuf (hl _ (by decide))
  have h3 := h .dram (hl _ (by decide))
  have h4 := h .nvsMem (hl _ (by decide))
  have h5 := h .hostMem (hl _ (by decide))
  have h6 := h .qspi (hl _ (by decide))
  simp only [Piece.same] at h1 h2 h3 h4 h5 h6
  cases hs : s.mem
  cases ht : t.mem
  simp_all

section
variable (s : State)

theorem State.readMany_same (sp : Nat) (rs : List (Nat × Nat)) (port : Nat) : SameBut accessParts s (s.readMany sp rs port) := by
  unfold State.readMany
  exact (s.correct_same _ _).then (SameBut.foldl (fun t _ => t.eccUnc_same _ _ _ _) _ _)

theorem State.readRngs_same (core : Nat) (rs : List Rng) (port : Nat) : SameBut accessParts s (s.readRngs core rs port).1 :=
  SameBut.foldl (fun t _ => t.readMany_same _ _ _) _ s

theorem State.putBytes_same (core port sp a : Nat) (bs : List Byte) : SameBut accessParts s (s.putBytes core port sp a bs).1 := by
  unfold State.putBytes
  split
  · exact SameBut.refl _ s
  · exact s.writeFx_same _ _ _ _

theorem State.dramPut_same (a : Nat) (bs : List Byte) (port : Nat) : SameBut accessParts s (s.dramPut a bs port) := by
  unfold State.dramPut
  exact sameBut_ite (s.writeFx_same _ _ _ _) ((SameBut.foldl (fun t _ => t.writeFx_same _ _ _ _) _ s).then (State.raise_same _ _ _ _ _))

/-- A job that has ended is not tracked by its context any more. -/
theorem engEnd_works (j : EngJob) (bad : Bool) : ∀ x ∈ ((engEnd j bad s).ctx j.ctx).works, x.id ≠ j.id := by
  unfold engEnd
  rw [State.endWork_ctx_self]
  intro x hx
  simpa using (List.mem_filter.mp hx).2

end

/-! ## Rows that an engine writes -/

theorem OneRow.rows {d : Desc} {fmt : Nat} (h : OneRow d fmt) : d.rows = [(0, 0, 0)] := by
  obtain ⟨-, -, -, h1, h2, h3⟩ := h
  unfold Desc.rows
  rw [h1, h2, h3]
  rfl

theorem Desc.rowAt_zero (d : Desc) : d.rowAt 0 0 0 = d.base := by
  unfold Desc.rowAt
  omega

/-- The elements of a row in the tank without block scales. -/
theorem rowVals_oneRow {d : Desc} {fmt : Nat} (h : OneRow d fmt) (s : State) (core : Nat) :
    rowVals s core d (0, 0, 0) = (List.range d.dim0).map (fun q => decode fmt (rawAt s.mem.tank fmt d.base q)) := by
  obtain ⟨hf, hsp, hbs, -, -, -⟩ := h
  unfold rowVals elemVal
  rw [hf, hsp, hbs, Desc.rowAt_zero]
  rfl

/-- The raw elements that a row of values is written as. -/
theorem outRow_raws {d : Desc} (h : d.bsp = 0) (rtz : Bool) (r : Nat × Nat × Nat) (vs : List Val) : (outRow d rtz r vs).1 = ⟨d, r, vs.map (fun v => (conv d.fmt rtz v).1), []⟩ := by
  unfold outRow convVals
  rw [if_pos h]
  dsimp only
  rw [List.map_map]
  rfl

/-- An instruction that reads the tank alone and writes one row of it, where the tank has no ECC error: its memories are those after the write of that row. -/
theorem engRun_mem {s : State} (h4 : s.up 4 = true) (hecc : s.mem.tank.ecc = []) {e u : Nat} {j : EngJob} {d : Desc} {fmt : Nat} {raws : List Nat} (hd : OneRow d fmt) (hf : fmt ≠ 0)
    (hrd : ∀ r ∈ j.reads s, r.sp = 0) (hrows : (if e ≤ 1 then j.moved s else j.vector s).rows = [⟨d, (0, 0, 0), raws, []⟩]) :
    (engRun e u j s).mem = (s.writeFx 0 d.base (packRow fmt raws) (engPort e u)).mem := by
  obtain ⟨hfmt, hsp, hbs, -, -, -⟩ := hd
  have hrow : ∀ dma, s.engRow dma j.core (engPort e u) ⟨d, (0, 0, 0), raws, []⟩ = (s.writeFx 0 d.base (packRow fmt raws) (engPort e u), false) := fun dma => by
    have hbytes : elemBytes s j.core d d.base 0 raws = packRow fmt raws := by
      unfold elemBytes
      rw [hfmt, if_pos hf]
    unfold State.engRow
    dsimp only
    rw [Desc.rowAt_zero, hbytes, if_pos hbs, hsp, State.engPut, if_neg (by simp), State.putBytes_clean hecc h4]
  have hend : ∀ (t : State) (o : EngOut), (engEnd j false (engCount e o t)).mem = t.mem := fun t o => by
    have hcount : SameBut [.regs] t (engCount e o t) := by
      unfold engCount
      exact sameBut_ite (t.incReg_same _ _) (sameBut_ite ((t.incReg_same _ _).trans (State.incReg_same _ _ _)) (t.incReg_same _ _))
    unfold engEnd
    rw [Bool.false_and, State.poisonIf, if_neg (by decide)]
    have hs := (hcount.mono (m := [.regs, .ctxs, .sync]) (by decide)).then (State.endWork_same (engCount e o t) j.ctx j.id)
    exact hs.mem
  unfold engRun
  dsimp only
  rw [State.readRngs_clean hecc h4 _ hrd]
  have hrows' : (if e ≤ 1 then j.moved s else (j.vector s).addSat (rowsSat s j.core (j.d 1) (j.d 1).rows + rowsSat s j.core (j.d 2) j.rowsB)).rows = [⟨d, (0, 0, 0), raws, []⟩] := by
    rw [← hrows]
    split <;> rfl
  generalize (if e ≤ 1 then j.moved s else (j.vector s).addSat (rowsSat s j.core (j.d 1) (j.d 1).rows + rowsSat s j.core (j.d 2) j.rowsB)) = o at hrows' ⊢
  have hput : s.engRows (e == 0) j.core (engPort e u) o.rows = (s.writeFx 0 d.base (packRow fmt raws) (engPort e u), false) := by
    rw [hrows', State.engRows, List.foldl_cons, List.foldl_nil]
    dsimp only
    rw [hrow]
    rfl
  rw [hput]
  exact hend _ o

/-! ## MOV of bytes and sums of words -/

theorem roundVal_exact (rtz : Bool) (v : Int) : roundVal rtz (decide (v < 0)) v.natAbs 1 = v := by
  have h := roundMag_exact rtz v.natAbs Nat.one_pos
  rw [Nat.mul_one] at h
  unfold roundVal
  rw [h]
  by_cases hv : v < 0
  · rw [decide_eq_true hv, if_pos rfl]
    omega
  · rw [decide_eq_false hv, if_neg (by decide)]
    omega

/-- An INT8 element converts to itself. -/
theorem conv_int8 (rtz : Bool) {raw : Nat} (h : raw < 256) : (conv 1 rtz (decode 1 raw)).1 = raw := by
  have hdec : decode 1 raw = .fin (decide (sint 8 raw < 0)) (sint 8 raw).natAbs 1 := rfl
  have hv : sint 8 raw = if 128 ≤ raw then (raw : Int) - 256 else raw := by
    unfold sint
    rw [Nat.mod_eq_of_lt (show raw < 2 ^ 8 from h)]
    rfl
  have hlo : ¬ sint 8 raw < intLo 1 := by
    rw [hv, show intLo 1 = -128 from rfl]
    split <;> omega
  have hhi : ¬ sint 8 raw > intHi 1 := by
    rw [hv, show intHi 1 = 127 from rfl]
    split <;> omega
  have hconv : conv 1 rtz (decode 1 raw) = convI 1 rtz (decode 1 raw) := rfl
  rw [hconv, hdec, convI, roundVal_exact, if_neg hlo, if_neg hhi]
  show ofInt 8 (sint 8 raw) = raw
  unfold ofInt
  rw [hv]
  split <;> omega

/-- A raw FP32 element is the value of its word. -/
theorem decode_fp32 {raw : Nat} (h : raw < 2 ^ 32) : decode 7 raw = f32 (BitVec.ofNat 32 raw) := by
  have hd : decode 7 raw = decodeF fp32 raw := rfl
  rw [hd, f32, BitVec.toNat_ofNat, Nat.mod_eq_of_lt h]

/-- The sum of two words read as FP32. -/
theorem fadd_read (x y : W32) : fadd (inF32 (f32 x)).1 (inF32 (f32 y)).1 = fadd x y := by
  unfold fadd
  rw [f32_inF32, f32_inF32]

theorem oneRow_reads {d : Desc} {fmt : Nat} (h : OneRow d fmt) (core : Nat) : ∀ r ∈ d.rows.flatMap (d.rowReads core), r.sp = 0 := by
  rw [h.rows]
  obtain ⟨-, hsp, hbs, -, -, -⟩ := h
  unfold Desc.rowReads
  rw [hbs, hsp]
  intro r hr
  simp only [List.flatMap_cons, List.flatMap_nil, List.append_nil, if_true, List.mem_singleton] at hr
  rw [hr]

section
variable {s : State}

/-- What an instruction at work on a channel or an engine does (R270, R272). -/
theorem exec_engineDone (h4 : s.up 4 = true) {e : Eng} {ch : Fin 12} {j : EngJob} {u : Nat} (he : e ≠ .chk) (hu : u = if e = .mov then ch.val else 0)
    (hj : Tab.find? (s.engq (engIx e)).run u = some j) :
    exec (.engineInstructionDone e ch) s = .next (engRun (engIx e) u j (s.setEngq (engIx e) { s.engq (engIx e) with run := Tab.erase (s.engq (engIx e)).run u })) := by
  have hd : exec (.engineInstructionDone e ch) s = execEngineInstructionDone e ch s := rfl
  have hx : (if engIx e = 0 then ch.val else 0) = u := by
    rw [hu]
    cases e <;> rfl
  have hne : (engIx e != 4) = true := by cases e <;> first | rfl | exact absurd rfl he
  rw [hd, execEngineInstructionDone]
  dsimp only
  rw [hx, hj, State.when, h4, hne] <;> rfl

/-- A MOV from INT8 to INT8 copies the bytes of its row. -/
theorem mov_copies (h4 : s.up 4 = true) (ch : Fin 12) (j : EngJob) (d x : Desc) (hj : Tab.find? (s.engq 0).run ch.val = some j) (hop : j.op = 0x45) (hd : d = j.d 0) (hx : x = j.d 1)
    (hecc : s.mem.tank.ecc = []) (hd1 : OneRow d 1) (hx1 : OneRow x 1) (hdim : x.dim0 = d.dim0) :
    ∃ t, exec (.engineInstructionDone .mov ch) s = .next t
      ∧ (∀ q < d.dim0, t.mem.tank.byte (d.base + q) = s.mem.tank.byte (x.base + q))
      ∧ (∀ b, ¬(d.base ≤ b ∧ b < d.base + d.dim0) → t.mem.tank.byte b = s.mem.tank.byte b) ∧ t.mem.cbuf = s.mem.cbuf ∧ t.mem.dram = s.mem.dram := by
  obtain ⟨v, hv⟩ : ∃ v, v = s.setEngq 0 { s.engq 0 with run := Tab.erase (s.engq 0).run ch.val } := ⟨_, rfl⟩
  have hvs : SameBut [.eng] s v := hv ▸ s.setEngq_same _ _
  have hv4 : v.up 4 = true := by rw [State.up, State.domSt, (hvs .rst (by decide) : v.rst = s.rst)]; exact h4
  have hmem : v.mem = s.mem := hvs.mem
  have hraw : ∀ q, rawAt v.mem.tank 1 x.base q = (s.mem.tank.byte (x.base + q)).toNat := fun q => by
    rw [hmem, ← Mem.readN_one]
    unfold rawAt
    rw [if_neg (by decide)]
    show s.mem.tank.readN (x.base + q * 1) 1 = _
    rw [Nat.mul_one]
  have hrows : (j.moved v).rows = [⟨d, (0, 0, 0), (List.range d.dim0).map (fun q => (s.mem.tank.byte (x.base + q)).toNat), []⟩] := by
    unfold EngJob.moved
    dsimp only
    rw [if_pos hop, ← hd, ← hx, hd1.rows, engOut, List.map_singleton, List.map_singleton, outRow_raws hd1.2.2.1, hd1.1, rowVals_oneRow hx1, hdim, List.map_map]
    refine congrArg (fun l => [(⟨d, (0, 0, 0), l, []⟩ : OutRow)]) (List.map_congr_left fun q _ => ?_)
    rw [Function.comp_apply, hraw, conv_int8 _ (s.mem.tank.byte (x.base + q)).isLt]
  have hrd : ∀ r ∈ j.reads v, r.sp = 0 := by
    unfold EngJob.reads
    dsimp only
    rw [if_pos hop, ← hx]
    exact oneRow_reads hx1 _
  have hrun := engRun_mem (e := 0) (u := ch.val) hv4 (hmem ▸ hecc) hd1 (by decide) hrd hrows
  obtain ⟨hread, hout⟩ := State.writeRow_clean (s := v) (hmem ▸ hecc) (fmt := 1) (by decide) d.base d.dim0 (fun q => (s.mem.tank.byte (x.base + q)).toNat) (engPort 0 ch.val)
  have hsame := (State.writeFx_clean (s := v) (hmem ▸ hecc) d.base (packRow 1 ((List.range d.dim0).map (fun q => (s.mem.tank.byte (x.base + q)).toNat))) (engPort 0 ch.val)).1
  refine ⟨engRun 0 ch.val j v, (exec_engineDone (e := .mov) (u := ch.val) h4 (by decide) rfl hj).trans (by rw [hv]; rfl), ?_⟩
  rw [hrun]
  refine ⟨fun q hq => ?_, fun b hb => ?_, ?_, ?_⟩
  · have h := hread q hq
    rw [show fmtBytes 1 = 1 from rfl, Nat.one_mul, Mem.readN_one, Nat.mod_eq_of_lt (by simpa using (s.mem.tank.byte (x.base + q)).isLt)] at h
    exact BitVec.eq_of_toNat_eq h
  · rw [hout b (by rwa [show fmtBytes 1 = 1 from rfl, Nat.one_mul]), hmem]
  · exact (hsame .cbuf (by decide)).trans (hvs .cbuf (by decide))
  · exact (hsame .dram (by decide)).trans (hvs .dram (by decide))

/-- A VEW with FN 0 on FP32 adds the words of its rows (R242). -/
theorem vew_adds (h4 : s.up 4 = true) (e : Eng) (ch : Fin 12) (j : EngJob) (d x y : Desc) (he : e = .vec0 ∨ e = .vec1) (hj : Tab.find? (s.engq (engIx e)).run 0 = some j) (hop : j.op = 0x50)
    (hfn : vFN j.w = 0) (hd : d = j.d 0) (hx : x = j.d 1) (hy : y = j.d 2) (hecc : s.mem.tank.ecc = []) (hd1 : OneRow d 7) (hx1 : OneRow x 7) (hy1 : OneRow y 7) (hdx : x.dim0 = d.dim0)
    (hdy : y.dim0 = d.dim0) :
    ∃ t, exec (.engineInstructionDone e ch) s = .next t
      ∧ (∀ q < d.dim0, t.num 0 (d.base + 4 * q) 4
        = (fadd (BitVec.ofNat 32 (s.num 0 (x.base + 4 * q) 4)) (BitVec.ofNat 32 (s.num 0 (y.base + 4 * q) 4))).toNat)
      ∧ (∀ b, ¬(d.base ≤ b ∧ b < d.base + 4 * d.dim0) → t.mem.tank.byte b = s.mem.tank.byte b) ∧ t.mem.cbuf = s.mem.cbuf ∧ t.mem.dram = s.mem.dram := by
  obtain ⟨f, hf⟩ : ∃ f : Nat → Nat, f = fun q => (fadd (BitVec.ofNat 32 (s.num 0 (x.base + 4 * q) 4)) (BitVec.ofNat 32 (s.num 0 (y.base + 4 * q) 4))).toNat := ⟨_, rfl⟩
  obtain ⟨v, hv⟩ : ∃ v, v = s.setEngq (engIx e) { s.engq (engIx e) with run := Tab.erase (s.engq (engIx e)).run 0 } := ⟨_, rfl⟩
  have hvs : SameBut [.eng] s v := hv ▸ s.setEngq_same _ _
  have hv4 : v.up 4 = true := by rw [State.up, State.domSt, (hvs .rst (by decide) : v.rst = s.rst)]; exact h4
  have hmem : v.mem = s.mem := hvs.mem
  have hval : ∀ (z : Desc), OneRow z 7 → z.dim0 = d.dim0 → rowF32 v j.core z (0, 0, 0) = (List.range d.dim0).map (fun q => (inF32 (f32 (BitVec.ofNat 32 (s.num 0 (z.base + 4 * q) 4)))).1) := by
    intro z hz hdim
    unfold rowF32
    rw [rowVals_oneRow hz, hdim, List.map_map, hmem]
    refine List.map_congr_left fun q _ => ?_
    have hraw : rawAt s.mem.tank 7 z.base q = s.num 0 (z.base + 4 * q) 4 := by
      unfold rawAt
      rw [if_neg (by decide)]
      show s.mem.tank.readN (z.base + q * 4) 4 = s.mem.tank.readN (z.base + 4 * q) 4
      rw [Nat.mul_comm]
    rw [Function.comp_apply, hraw, decode_fp32 (raw := s.num 0 (z.base + 4 * q) 4) (s.mem.tank.readN_lt _ 4)]
  have hrows : (j.vector v).rows = [⟨d, (0, 0, 0), (List.range d.dim0).map f, []⟩] := by
    unfold EngJob.vector
    dsimp only
    rw [if_pos hop, ← hd, ← hx, ← hy, hd1.rows, engOut, List.map_singleton, List.map_singleton, hfn, if_neg (by decide), outRow_raws hd1.2.2.1, hd1.1, ite_self, hval x hx1 hdx, hval y hy1 hdy,
      List.zip_map', List.map_map, List.map_map, List.map_map, hf]
    refine congrArg (fun l => [(⟨d, (0, 0, 0), l, []⟩ : OutRow)]) (List.map_congr_left fun q _ => ?_)
    simp only [Function.comp_apply]
    rw [show ∀ a b, ewOp 0 a b = fadd a b from fun _ _ => rfl, fadd_read, show ∀ a b, fadd a b = toF32 ((f32 a).add (f32 b)) from fun _ _ => rfl, conv_toF32]
  have hrd : ∀ r ∈ j.reads v, r.sp = 0 := by
    have hB : j.rowsB = y.rows := by
      unfold EngJob.rowsB vecUse
      dsimp only
      rw [if_pos hop, hfn, if_pos (show (0 != 5) = true from rfl), if_neg (by rw [hop]; decide), hy]
    unfold EngJob.reads
    dsimp only
    rw [if_neg (by rw [hop]; decide), if_neg (by rw [hop]; decide), if_neg (by rw [hop]; decide), if_neg (by rw [hop]; decide), hB, ← hx, ← hy]
    intro r hr
    rcases List.mem_append.mp hr with hr | hr
    · exact oneRow_reads hx1 _ r hr
    · exact oneRow_reads hy1 _ r hr
  have he1 : ¬ engIx e ≤ 1 := by rcases he with rfl | rfl <;> decide
  have hrun := engRun_mem (e := engIx e) (u := 0) hv4 (hmem ▸ hecc) hd1 (by decide) hrd (by rw [if_neg he1]; exact hrows)
  obtain ⟨hread, hout⟩ := State.writeRow_clean (s := v) (hmem ▸ hecc) (fmt := 7) (by decide) d.base d.dim0 f (engPort (engIx e) 0)
  have hsame := (State.writeFx_clean (s := v) (hmem ▸ hecc) d.base (packRow 7 ((List.range d.dim0).map f)) (engPort (engIx e) 0)).1
  refine ⟨engRun (engIx e) 0 j v, (exec_engineDone h4 (by rcases he with rfl | rfl <;> decide) (by rcases he with rfl | rfl <;> rfl) hj).trans (by rw [hv]), ?_⟩
  refine ⟨fun q hq => ?_, fun b hb => ?_, ?_, ?_⟩
  · have h := hread q hq
    rw [show fmtBytes 7 = 4 from rfl] at h
    show (engRun (engIx e) 0 j v).mem.tank.readN _ 4 = _
    rw [hrun, h, hf]
    exact Nat.mod_eq_of_lt (BitVec.isLt _)
  · rw [hrun, hout b hb, hmem]
  · rw [hrun]
    exact (hsame .cbuf (by decide)).trans (hvs .cbuf (by decide))
  · rw [hrun]
    exact (hsame .dram (by decide)).trans (hvs .dram (by decide))

/-- A scan that completes is not tracked any more; the context of a DIG that waits for it goes on with the outcome in its predicate (R247, R275). -/
theorem scanDone_spec (h4 : s.up 4 = true) (u : Fin 2) (j : EngJob) (hj : Tab.find? (s.engq 4).run u.val = some j) (hpert : s.pertAt 0x98 = none) :
    ∃ t, exec (.scanComplete u) s = .next t ∧ (∀ x ∈ (t.ctx j.ctx).works, x.id ≠ j.id)
      ∧ (j.op = 0x81 → (s.ctx j.ctx).hold = .dig j.id → (t.ctx j.ctx).hold = (if (s.ctx j.ctx).st = .saving then .preempt else if (s.ctx j.ctx).stop then .stop else .free)
        ∧ (t.ctx j.ctx).p = ((s.ctx j.ctx).setP (fw j.w 24 22) (s.num 0 ((j.xs[3]?).getD 0).toNat (scanLen j.w) == (scanValue j s).1)).p) := by
  obtain ⟨v, hv⟩ : ∃ v, v = s.setEngq 4 { s.engq 4 with run := Tab.erase (s.engq 4).run u.val } := ⟨_, rfl⟩
  have hvs : SameBut [.eng] s v := hv ▸ s.setEngq_same _ _
  have hd : exec (.scanComplete u) s = .next (scanDone u.val j v) := by
    have hd : exec (.scanComplete u) s = execScanComplete u s := rfl
    rw [hd, execScanComplete, State.when, h4, if_pos rfl, hj, hv]
  have hbytes : ∀ sp a n, v.bytes sp a n = s.bytes sp a n := fun sp a n => by rw [State.bytes, State.bytes, State.memOf, State.memOf, hvs.mem]
  have hval : scanValue j v = ((scanValue j s).1, v) := by
    unfold scanValue
    rw [hpert, show v.pertAt 0x98 = none by rw [State.pertAt, (hvs .pert (by decide) : v.pert = s.pert)]; exact hpert]
    simp only [hbytes]
  refine ⟨_, hd, ?_⟩
  unfold scanDone
  rw [hval]
  dsimp only
  have hnum : ∀ a n, v.num 0 a n = s.num 0 a n := fun a n => by rw [State.num, State.num, State.memOf, State.memOf, hvs.mem]
  simp only [hnum]
  generalize hr : v.readRngs j.core _ (63 + u.val) = r
  have hrs : SameBut accessParts v r.1 := hr ▸ v.readRngs_same _ _ _
  have hinc := r.1.incWrap_same Reg.CHK_SCAN_CNT 1
  have hctx : (r.1.incWrap Reg.CHK_SCAN_CNT 1).ctx j.ctx = s.ctx j.ctx := (hinc.ctx (by decide) _).trans ((hrs.ctx (by decide) _).trans (hvs.ctx (by decide) _))
  split
  · next hop =>
    exact ⟨engEnd_works _ _ _, fun h81 => absurd (hop.symm.trans h81) (by decide)⟩
  · refine ⟨engEnd_works _ _ _, fun h81 hhold => ?_⟩
    unfold engEnd
    rw [State.endWork_ctx_self, State.poisonIf_ctx_self, State.ctx_onCtx_self, hctx, if_pos hhold]
    exact ⟨rfl, rfl⟩

/-- A firmware copy that completes frees its channel. -/
theorem dmaDone_spec (h4 : s.up 4 = true) (ch : Fin 3) (j : DmaJob) (hj : Tab.find? s.eng.dma ch.val = some j) (hhost : j.host = none) :
    ∃ t, exec (.dmaCopyComplete ch) s = .next t ∧ Tab.find? t.eng.dma ch.val = none := by
  have hd : exec (.dmaCopyComplete ch) s = execDmaCopyComplete ch s := rfl
  rw [hd, execDmaCopyComplete, State.when, h4, if_pos rfl, hj]
  dsimp only
  rw [hhost]
  refine ⟨_, rfl, ?_⟩
  obtain ⟨v, hv⟩ : ∃ v, v = ({ s with eng := { s.eng with dma := Tab.erase s.eng.dma ch.val } }).clrReg (Reg.DMA_STAT ch) 1 := ⟨_, rfl⟩
  have heng : v.eng.dma = Tab.erase s.eng.dma ch.val := by
    rw [hv, (State.clrReg_same _ _ _ .eng (by decide) : _ = _)]
  have hcopy : (dmaCopy ch j v).1.eng = v.eng := by
    unfold dmaCopy
    extract_lets ss ds sc dc rng bs r p s1
    have hr : SameBut accessParts v r.1 := v.readRngs_same _ _ _
    have hp : p.1.eng = r.1.eng := by
      show (r.1.engPut true dc (44 + ch.val) ds (bits j.dst 47 0) bs).1.eng = _
      unfold State.engPut
      split
      · split
        · rfl
        · exact State.dramPut_same _ _ _ _ .eng (by decide)
      · exact State.putBytes_same _ _ _ _ _ _ .eng (by decide)
    have hs1 : s1.eng = v.eng := by
      show (if r.2 then p.1.orReg _ _ else p.1).eng = _
      split
      · exact ((State.orReg_same _ _ _ .eng (by decide) : _ = _).trans hp).trans (hr .eng (by decide))
      · exact hp.trans (hr .eng (by decide))
    dsimp only
    split
    · exact (State.addSync_same _ _ _ .eng (by decide) : _ = _).trans hs1
    · exact hs1
  rw [← hv, hcopy, heng, Tab.find?_erase, if_pos rfl]

end

/-- Settles O16: starts and ends of the engines, with the effects of MOV and VEW from the rows they write. -/
theorem engineInstructionsStartAndEnd : Obligations.EngineInstructionsStartAndEnd := by
  intro s h4
  refine ⟨fun e j r u hq hu hw hr => ?_, fun e ch j u he hu hj => ⟨_, exec_engineDone h4 he hu hj, engEnd_works _ _ _, rfl⟩, fun ch j d x => mov_copies h4 ch j d x,
    fun e ch j d x y => vew_adds h4 e ch j d x y, fun u j hj hp => scanDone_spec h4 u j hj hp, fun ch j hj hh => dmaDone_spec h4 ch j hj hh⟩
  have hd : exec (.engineInstructionStart e 0) s = execEngineInstructionStart e 0 s := rfl
  refine ⟨s.setEngq (engIx e) ⟨r, Tab.insert (s.engq (engIx e)).run u j⟩, ?_, ?_, ?_, fun x hx => State.engq_setEngq_ne _ _ hx, s.setEngq_same _ _⟩
  · rw [hd, execEngineInstructionStart, State.when, h4, if_pos rfl, hq, hu]
    dsimp only
    rw [hw, hr, if_pos (by decide)]
  · rw [State.engq_setEngq_self]
  · rw [State.engq_setEngq_self]
    exact (Tab.find?_insert _ _ _ _).trans (if_pos rfl)

end Sys2Proof.Machine
end

section
/-!
PROOFS. Chain sums, closes, drains and saves of tiles complete; O10.
-/
set_option Elab.async false

namespace Sys2Proof.Machine

/-! ## Chain sums -/

/-- An addition to a slot changes no context, and of the tile its slots alone. -/
theorem slotAdd_kept (i n flags : Nat) (fx : Int) (a b : Pair) (s : State) (t : Tile) :
    SameBut [.regs, .ev, .hostMem] s (slotAdd i n flags fx a b s t).1 ∧ (slotAdd i n flags fx a b s t).2.gen = t.gen ∧ (slotAdd i n flags fx a b s t).2.order = t.order := by
  have h := slotRead_same i t n s
  unfold slotAdd
  dsimp only
  split
  · exact ⟨(h.mono (by decide)).trans (State.incomplete_same _ _ _ _ _), rfl, rfl⟩
  · exact ⟨h.mono (by decide), rfl, rfl⟩

theorem addPass_kept (i : Nat) (x : Pass) (l : List Part) (res q : List Nat) (s : State) (t : Tile) :
    SameBut [.regs, .ev, .hostMem] s (addPass i x l res q s t).1 ∧ (addPass i x l res q s t).2.gen = t.gen ∧ (addPass i x l res q s t).2.order = t.order := by
  induction q generalizing s t with
  | nil => exact ⟨SameBut.refl _ s, rfl, rfl⟩
  | cons n r ih =>
    have hstep : ∀ m flags fx (a b : Pair), SameBut [.regs, .ev, .hostMem] s (addPass i x l res r (slotAdd i m flags fx a b s t).1 (slotAdd i m flags fx a b s t).2).1
        ∧ (addPass i x l res r (slotAdd i m flags fx a b s t).1 (slotAdd i m flags fx a b s t).2).2.gen = t.gen
        ∧ (addPass i x l res r (slotAdd i m flags fx a b s t).1 (slotAdd i m flags fx a b s t).2).2.order = t.order := fun m flags fx a b => by
      obtain ⟨h1, h2, h3⟩ := slotAdd_kept i m flags fx a b s t
      obtain ⟨h4, h5, h6⟩ := ih (slotAdd i m flags fx a b s t).1 (slotAdd i m flags fx a b s t).2
      exact ⟨h1.trans h4, h5.trans h2, h6.trans h3⟩
    unfold addPass
    split
    · exact hstep _ _ _ _ _
    · exact hstep _ _ _ _ _

/-- The first set of a tile with a pass that can be added has it added (R106, R107). -/
theorem chainReduce_spec {s : State} {k : CtxId} {tile : Fin 64} {i : Nat} {res : List Nat} (hi : i = ctxIx k) {vidx : Fin 32} {coloff : Fin 512} {t : Tile} {r : List Tile} {x : Pass}
    {l : List Part} (hup : s.coreUp (i / 4) = true) (ht : (s.ctx i).tiles.filter (fun t => t.id == tile.val) = t :: r)
    (hx : passReady s (i / 4) t vidx.val coloff.val [] t.order = some (x, l)) :
    ∃ v, exec (.chainReduce k tile vidx ⟨coloff, res⟩) s = .next v ∧ (∀ q, q ≠ i → v.ctx q = s.ctx q)
      ∧ ∀ y ∈ (v.ctx i).tiles, y.gen = t.gen → y = { (addPass i x l res (passSlots t x) (s.residues (i / 4) 5 (if t.fmt = 0 then (passSlots t x).countP res.contains else 0)) t).2 with order := t.order.erase x } := by
  subst hi
  have hd : exec (.chainReduce k tile vidx ⟨coloff, res⟩) s = execChainReduce k tile vidx ⟨coloff, res⟩ s := rfl
  refine ⟨_, hd.trans (congrArg Host.Outcome.next (if_pos hup)), ?_⟩
  rw [ht, reduceFirst, hx]
  dsimp only
  have hres := s.residues_same (ctxIx k / 4) 5 (if t.fmt = 0 then (passSlots t x).countP res.contains else 0)
  obtain ⟨hs, hgen, horder⟩ := addPass_kept (ctxIx k) x l res (passSlots t x) (s.residues (ctxIx k / 4) 5 (if t.fmt = 0 then (passSlots t x).countP res.contains else 0)) t
  generalize hp : addPass (ctxIx k) x l res (passSlots t x) (s.residues (ctxIx k / 4) 5 (if t.fmt = 0 then (passSlots t x).countP res.contains else 0)) t = p at hs hgen horder ⊢
  have hall : SameBut [.regs, .ev, .hostMem] s p.1 := hres.trans hs
  have hdrop := (p.1.onCtx (ctxIx k) (fun c => c.putTile { p.2 with order := p.2.order.erase x })).dropParts_same (ctxIx k / 4) (fun y => y.of t.gen x)
  refine ⟨fun q hq => ?_, fun y hy hg => ?_⟩
  · rw [hdrop.ctx (by decide), State.ctx_onCtx_ne _ _ hq, hall.ctx (by decide)]
  · rw [hdrop.ctx (by decide), State.ctx_onCtx_self] at hy
    rw [putTile_of_gen hy (hg.trans hgen.symm), horder]

/-! ## Closes -/

theorem closeSlots_all {t : Tile} {l : List Nat} (h : ∀ n ∈ l, tagCount (t.slot n).tag = t.e) : closeSlots t l = (t, none) := by
  induction l with
  | nil => rfl
  | cons n r ih =>
    unfold closeSlots
    rw [ih fun m hm => h m (List.mem_cons_of_mem _ hm)]
    exact if_pos (h n List.mem_cons_self)

theorem closeSlots_gen (t : Tile) (l : List Nat) : (closeSlots t l).1.gen = t.gen := by
  induction l with
  | nil => rfl
  | cons n r ih =>
    unfold closeSlots
    dsimp only
    split
    · exact ih
    · exact ih

/-- The slots before the first one listed are as they were. -/
theorem closeSlots_slot (t : Tile) {l : List Nat} {m : Nat} (hm : m ∉ l) : (closeSlots t l).1.slot m = t.slot m := by
  induction l with
  | nil => rfl
  | cons n r ih =>
    obtain ⟨hne, hr⟩ := not_or.mp (List.mem_cons.not.mp hm)
    unfold closeSlots
    dsimp only
    split
    · exact ih hr
    · exact (Tab.getD_setD_ne _ _ _ _ hne).trans (ih hr)

theorem closeSlots_e (t : Tile) (l : List Nat) : (closeSlots t l).1.e = t.e := by
  induction l with
  | nil => rfl
  | cons n r ih =>
    unfold closeSlots
    dsimp only
    split
    · exact ih
    · exact ih

theorem closeSlots_some {t : Tile} {l : List Nat} (hl : l.Nodup) (h : ∃ n ∈ l, tagCount (t.slot n).tag ≠ t.e) : ∃ f, (closeSlots t l).2 = some f := by
  induction l with
  | nil => exact absurd h (by simp)
  | cons n r ih =>
    obtain ⟨hn, hr⟩ := List.nodup_cons.mp hl
    obtain ⟨m, hm, hbad⟩ := h
    unfold closeSlots
    dsimp only
    rw [closeSlots_slot t hn]
    split
    · next hok =>
      rcases List.mem_cons.mp hm with rfl | hm
      · exact absurd hok hbad
      · exact ih hr ⟨m, hm, hbad⟩
    · exact ⟨_, rfl⟩

/-- A closed tile without passes left becomes ready (R102). -/
theorem closeComplete_spec {s : State} {k : CtxId} {tile : Fin 64} {i : Nat} (hi : i = ctxIx k) {t : Tile}
    (ht : (s.ctx i).tiles.find? (fun t => t.id == tile.val && (t.closed && !t.ready && t.order.isEmpty)) = some t) :
    ((∀ n < t.size, tagCount (t.slot n).tag = t.e) → CtxTo (exec (.accCloseComplete k tile) s) s i ((s.ctx i).putTile { t with ready := true }))
      ∧ ((∃ n < t.size, tagCount (t.slot n).tag ≠ t.e) → ∃ v, exec (.accCloseComplete k tile) s = .next v ∧ Raised 0x0203 s v
        ∧ ∀ y ∈ (v.ctx i).tiles, y.gen = t.gen → y.ready = true) := by
  subst hi
  have hw : (s.ctx (ctxIx k)).tileWhere tile.val (fun t => t.closed && !t.ready && t.order.isEmpty) = some t := ht
  have hd : exec (.accCloseComplete k tile) s = .next (match (closeSlots t (List.range t.size)).2 with
      | none => s.onCtx (ctxIx k) (fun c => c.putTile { (closeSlots t (List.range t.size)).1 with ready := true })
      | some (n, cnt) => (s.onCtx (ctxIx k) (fun c => c.putTile { (closeSlots t (List.range t.size)).1 with ready := true })).incomplete (ctxIx k) t cnt n) := by
    have hd : exec (.accCloseComplete k tile) s = execAccCloseComplete k tile s := rfl
    rw [hd, execAccCloseComplete, hw] <;> rfl
  rw [hd]
  refine ⟨fun hall => ?_, fun hbad => ?_⟩
  · rw [closeSlots_all fun n hn => hall n (List.mem_range.mp hn)]
    exact s.setCtx_ctxTo _ _
  · obtain ⟨n, hn, hne⟩ := hbad
    obtain ⟨⟨m, cnt⟩, hf⟩ := closeSlots_some List.nodup_range ⟨n, List.mem_range.mpr hn, hne⟩
    rw [hf]
    obtain ⟨u, hu⟩ : ∃ u, u = s.onCtx (ctxIx k) (fun c => c.putTile { (closeSlots t (List.range t.size)).1 with ready := true }) := ⟨_, rfl⟩
    have hus : SameBut [.ctxs] s u := hu ▸ s.setCtx_same _ _
    have huc : u.ctx (ctxIx k) = (s.ctx (ctxIx k)).putTile { (closeSlots t (List.range t.size)).1 with ready := true } := by rw [hu, State.ctx_onCtx_self]
    dsimp only
    rw [← hu]
    refine ⟨_, rfl, ?_, fun y hy hg => ?_⟩
    · have hacc := u.accErr_same (ctxIx k) 3
      exact raised_of_ev ((hacc .ev (by decide)).trans (hus .ev (by decide))) _ _ _ _
    · rw [(u.incomplete_same _ _ _ _).ctx (by decide), huc] at hy
      rw [putTile_of_gen hy (hg.trans (closeSlots_gen t _).symm)]

/-! ## Drains -/

theorem slotRecord_length (core fmt n : Nat) (x : Slot) : (slotRecord core fmt n x).length = 16 := by simp [slotRecord]

/-- One of several pieces of a length, one after the other. -/
theorem take_drop_flatMap {α : Type} {k m q : Nat} {f : Nat → List α} (hf : ∀ n, (f n).length = k) (hq : q < m) : (((List.range m).flatMap f).drop (k * q)).take k = f q := by
  have hlen : ∀ l : List Nat, (l.flatMap f).length = k * l.length := fun l => by
    induction l with
    | nil => rfl
    | cons a l ih => rw [List.flatMap_cons, List.length_append, ih, hf, List.length_cons]; ring
  have hs : List.range m = List.range q ++ (q :: List.range' (q + 1) (m - q - 1)) := by
    rw [List.range_eq_range', List.range_eq_range', ← List.range'_succ, show m - q - 1 + 1 = m - q by omega, show (List.range' q (m - q)) = List.range' (0 + 1 * q) (m - q) by simp,
      List.range'_append, show q + (m - q) = m by omega]
  have hpre : ((List.range q).flatMap f).length = k * q := by rw [hlen, List.length_range]
  rw [hs, List.flatMap_append, List.flatMap_cons, List.drop_append, List.drop_eq_nil_of_le (Nat.le_of_eq hpre), hpre, Nat.sub_self, List.drop_zero, List.nil_append,
    List.take_append_of_le_length (Nat.le_of_eq (hf q).symm), List.take_of_length_le (Nat.le_of_eq (hf q))]

theorem flatMap_length {α : Type} {k : Nat} {f : Nat → List α} (hf : ∀ n, (f n).length = k) (m : Nat) : ((List.range m).flatMap f).length = k * m := by
  induction m with
  | zero => rfl
  | succ m ih => rw [List.range_succ, List.flatMap_append, List.length_append, ih, List.flatMap_singleton, hf]; ring

section
variable {i : Nat} {t : Tile} {s : State}

theorem slotRead_clean {n : Nat} (h : (t.slot n).ecc = none) : s.slotRead i t n = (s, t.slot n) := by
  unfold State.slotRead
  dsimp only
  rw [h]

theorem slotRecords_clean {l : List Nat} (h : ∀ n ∈ l, (t.slot n).ecc = none) :
    slotRecords i t l s = (s, l.flatMap (fun n => slotRecord (i / 4) t.fmt n (t.slot n))) := by
  induction l with
  | nil => rfl
  | cons n r ih =>
    unfold slotRecords
    rw [slotRead_clean (h n List.mem_cons_self)]
    dsimp only
    rw [ih fun m hm => h m (List.mem_cons_of_mem _ hm)]
    rfl

theorem readSlots_clean {l : List Nat} (h : ∀ n ∈ l, (t.slot n).ecc = none) : readSlots i t l s = (s, l.map t.slot) := by
  induction l with
  | nil => rfl
  | cons n r ih =>
    unfold readSlots
    rw [slotRead_clean (h n List.mem_cons_self)]
    dsimp only
    rw [ih fun m hm => h m (List.mem_cons_of_mem _ hm)]
    rfl

/-- Slot records go to the tank as they are (R112). -/
theorem drainPartial_clean (j : DrainJob) (h4 : s.up 4 = true) (hecc : s.mem.tank.ecc = []) (hslots : ∀ n < t.size, (t.slot n).ecc = none) :
    drainPartial i t j s = s.writeFx 0 (descOf j.dout).base ((List.range t.size).flatMap (fun n => slotRecord (i / 4) t.fmt n (t.slot n))) (i / 4) := by
  unfold drainPartial
  rw [slotRecords_clean fun n hn => hslots n (List.mem_range.mp hn)]
  dsimp only
  rw [State.putBytes_clean hecc h4]
  exact if_neg Bool.false_ne_true

/-- What a tile and its drain leave as they end: the context without both, and every memory as it was. -/
theorem drainEnd_spec (s : State) (i gen id n : Nat) :
    (((s.incWrap n 1).freeTile i gen).endWork i id).mem = s.mem
      ∧ (∀ y ∈ ((((s.incWrap n 1).freeTile i gen).endWork i id).ctx i).tiles, y.gen ≠ gen) ∧ (∀ y ∈ ((((s.incWrap n 1).freeTile i gen).endWork i id).ctx i).works, y.id ≠ id) := by
  obtain ⟨u, hu⟩ : ∃ u, u = (s.incWrap n 1).onCtx i (fun c => { c with tiles := c.tiles.filter (fun t => t.gen != gen) }) := ⟨_, rfl⟩
  have hus : SameBut [.regs, .ctxs] s u := hu ▸ ((s.incWrap_same n 1).mono (by decide)).then (State.setCtx_same _ _ _)
  have htiles : (u.ctx i).tiles = ((s.incWrap n 1).ctx i).tiles.filter (fun t => t.gen != gen) := by rw [hu, State.ctx_onCtx_self]
  have hfree : (s.incWrap n 1).freeTile i gen = u.dropParts (i / 4) (fun p => p.gen == gen) := by rw [hu]; rfl
  have hdrop := u.dropParts_same (i / 4) (fun p => p.gen == gen)
  rw [hfree]
  refine ⟨?_, fun y hy => ?_, fun y hy => ?_⟩
  · exact SameBut.mem (l := [.regs, .ctxs, .arrs, .cores, .sync]) (((hus.mono (by decide)).then hdrop).then (State.endWork_same _ _ _))
  · rw [State.endWork_ctx_self, hdrop.ctx (by decide), htiles] at hy
    simpa using (List.mem_filter.mp hy).2
  · rw [State.endWork_ctx_self] at hy
    generalize (u.dropParts (i / 4) fun p => p.gen == gen) = z at hy
    obtain ⟨-, hne⟩ := List.mem_filter.mp hy
    exact bne_iff_ne.mp hne

/-! ## One vector in FX48 -/

theorem hasTag_poison (t : Nat) : hasTag t tPOISON = t.testBit 12 := by
  unfold hasTag
  rw [Nat.testBit_eq_decide_div_mod_eq]
  exact beq_eq_decide _ _

theorem satIf_poison (t : Nat) (b : Bool) : (satIf t b).testBit 12 = t.testBit 12 := by
  unfold satIf
  split
  · rw [Nat.testBit_or, show (tSAT).testBit 12 = false by decide, Bool.or_false]
  · rfl

theorem slotTag_poison (g : BitVec 16) : (bits g 12 8 * 256).testBit 12 = bit g 12 := by
  unfold bits bit
  rw [Nat.testBit_eq_decide_div_mod_eq]
  simp only [Nat.shiftRight_eq_div_pow]
  rw [show (12 + 1 - 8) = 5 from rfl, beq_eq_decide]
  congr 1
  refine propext ?_
  omega

/-- The output of an element whose tag has no POISON, without an activation. -/
theorem outElem_plain {o : OstSt} (h : o.act = 0) (sc bi : W32) (x : Val) {g : Nat} (hg : g.testBit 12 = false) :
    (outElem o sc bi x g).1 = toF32 ((x.mul (f32 sc)).add (f32 bi)) ∧ (outElem o sc bi x g).2.testBit 12 = false := by
  have hact : (actApply o (toF32 ((x.mul (f32 sc)).add (f32 bi)))).1 = toF32 ((x.mul (f32 sc)).add (f32 bi)) := by
    unfold actApply
    by_cases hn : f32IsNaN (toF32 ((x.mul (f32 sc)).add (f32 bi))) = true
    · rw [if_pos hn]
      rcases toF32_canonical ((x.mul (f32 sc)).add (f32 bi)) with hc | hc
      · unfold f32IsNaN at hn
        simp only [decide_eq_true_eq] at hn
        omega
      · exact (BitVec.eq_of_toNat_eq hc).symm
    · rw [if_neg hn, h] <;> rfl
  refine ⟨hact, ?_⟩
  unfold outElem
  dsimp only
  rw [Nat.testBit_or, hg, Bool.false_or]
  split <;> decide

/-- The output of element q of a one-vector FX48 tile: its slot, limited to 48 bits, scaled, biased and rounded once (R97, R115, R116). -/
def drainWord (s : State) (core : Nat) (o : OstSt) (t : Tile) (q : Nat) : W32 :=
  toF32 (((q8Val (lim48 (t.slot q).data.toInt)).mul (f32 (sbEntry s core (sbAt o t q)).1)).add (f32 (sbEntry s core (sbAt o t q)).2))

theorem cbuf_bad_clean (h : s.mem.cbuf.ecc = []) (a n : Nat) : s.bad 1 a n = false :=
  State.bad_eq_false fun e he => absurd (show e ∈ s.mem.cbuf.ecc from he) (by simp [h])

/-- The conversion of FP32 results without POISON to an FP32 row. -/
theorem convRow_plain {d : Desc} (hd : d.fmt = 7) (hb : d.bsp = 0) (rtz : Bool) (before : List Nat) {els : List (W32 × Nat)} (hel : ∀ e ∈ els, (∃ v, e.1 = toF32 v) ∧ e.2.testBit 12 = false) :
    (convRow d rtz before els).raws = els.map (fun e => e.1.toNat) ∧ ∀ p ∈ (convRow d rtz before els).raws.zip (convRow d rtz before els).after, hasTag p.2 tPOISON = false := by
  have hraws : (convRow d rtz before els).raws = els.map (fun e => e.1.toNat) := by
    unfold convRow
    rw [if_pos hb, hd]
    dsimp only
    rw [List.map_map]
    refine List.map_congr_left fun e he => ?_
    obtain ⟨v, hv⟩ := (hel e he).1
    rw [Function.comp_apply, hv, conv_toF32]
  refine ⟨hraws, fun p hp => ?_⟩
  have hafter : p.2 ∈ (convRow d rtz before els).after := (List.of_mem_zip (a := p.1) (b := p.2) hp).2
  unfold convRow at hafter
  rw [if_pos hb] at hafter
  obtain ⟨x, hx, hx2⟩ := List.mem_map.mp hafter
  rw [← hx2, hasTag_poison, satIf_poison]
  exact (hel x.1 (List.of_mem_zip (a := x.1) (b := x.2) hx).1).2

/-- The row of a one-vector FX48 tile without POISON, converted to FP32. -/
theorem drainVec_plain {d : Desc} {o : OstSt} {l : List Slot} (hd : d.fmt = 7) (hb : d.bsp = 0) (hf : t.fmt = 0) (hact : o.act = 0) (hcb : s.mem.cbuf.ecc = [])
    (hl : ∀ q < t.n, elemSlot t l 0 q = t.slot q) (hp : ∀ q < t.n, bit (t.slot q).tag 12 = false) (core : Nat) :
    (drainVec s core o d t l [] 0).raws = (List.range t.n).map (fun q => (drainWord s core o t q).toNat)
      ∧ ∀ p ∈ (drainVec s core o d t l [] 0).raws.zip (drainVec s core o d t l [] 0).after, hasTag p.2 tPOISON = false := by
  obtain ⟨els, hels⟩ : ∃ els, els = (List.range t.n).map (fun j =>
    let x := slotVal t.fmt (j % 2 == 1) (elemSlot t l 0 j)
    let e := sbEntry s core (sbAt o t j)
    let p := sbPoison s core (sbAt o t j) x.2
    (outElem o e.1 e.2 x.1 (if ([] : List Nat).contains (0 * t.n + j) then p ||| tPOISON else p), x.2)) := ⟨_, rfl⟩
  have hrow : drainVec s core o d t l [] 0 = convRow d o.rtz (els.map (fun e => e.2)) (els.map (fun e => e.1)) := by rw [hels] <;> rfl
  have hone : ∀ q < t.n, ∀ e, e = outElem o (sbEntry s core (sbAt o t q)).1 (sbEntry s core (sbAt o t q)).2 (slotVal t.fmt (q % 2 == 1) (elemSlot t l 0 q)).1
        (if ([] : List Nat).contains (0 * t.n + q) then sbPoison s core (sbAt o t q) (slotVal t.fmt (q % 2 == 1) (elemSlot t l 0 q)).2 ||| tPOISON
          else sbPoison s core (sbAt o t q) (slotVal t.fmt (q % 2 == 1) (elemSlot t l 0 q)).2) → e.1 = drainWord s core o t q ∧ e.2.testBit 12 = false := by
    rintro q hq e rfl
    have hv : slotVal t.fmt (q % 2 == 1) (elemSlot t l 0 q) = (q8Val (lim48 (t.slot q).data.toInt), satIf (bits (t.slot q).tag 12 8 * 256) (lim48 (t.slot q).data.toInt != (t.slot q).data.toInt)) := by
      rw [hl q hq, hf] <;> rfl
    rw [hv, List.contains_nil, if_neg Bool.false_ne_true, sbPoison, cbuf_bad_clean hcb, if_neg Bool.false_ne_true]
    exact outElem_plain hact _ _ _ (by rw [satIf_poison, slotTag_poison, hp q hq])
  have hmem : ∀ e ∈ els.map (fun e => e.1), (∃ v, e.1 = toF32 v) ∧ e.2.testBit 12 = false := by
    rw [hels, List.map_map]
    intro e he
    obtain ⟨q, hq, he⟩ := List.mem_map.mp he
    obtain ⟨h1, h2⟩ := hone q (List.mem_range.mp hq) e he.symm
    exact ⟨⟨_, h1⟩, h2⟩
  obtain ⟨hraws, htags⟩ := convRow_plain hd hb o.rtz (els.map (fun e => e.2)) hmem
  rw [hrow]
  refine ⟨hraws.trans ?_, htags⟩
  rw [hels, List.map_map, List.map_map]
  exact List.map_congr_left fun q hq => congrArg BitVec.toNat (hone q (List.mem_range.mp hq) _ rfl).1

/-- An output row without POISON goes to an FP32 row of the tank as it is. -/
theorem putOut_plain {d : Desc} (hd : d.fmt = 7) (hb : d.bsp = 0) (hsp : d.sp = 0) (h4 : s.up 4 = true) (hecc : s.mem.tank.ecc = []) {r : CRow} (hlen : r.after.length = r.raws.length)
    (hp : ∀ p ∈ r.raws.zip r.after, hasTag p.2 tPOISON = false) (ro rk : Nat) : (s.putOut i d ro rk 0 r).mem = (s.writeFx 0 ro (packRow 7 r.raws) (i / 4)).mem := by
  have hraws : (r.raws.zip r.after).map (fun p => if hasTag p.2 tPOISON && fmtFloat d.fmt then (fltOf d.fmt).nan else p.1) = r.raws := by
    rw [List.map_congr_left (g := fun p => p.1) fun p hq => by rw [hp p hq, Bool.false_and, if_neg Bool.false_ne_true]]
    exact List.map_fst_zip (Nat.le_of_eq hlen.symm)
  have hput : ∀ l, s.putRow (i / 4) (i / 4) d ro rk 0 r.raws l = (s.writeFx 0 ro (packRow 7 r.raws) (i / 4), false) := fun l => by
    unfold State.putRow
    dsimp only
    rw [if_pos hb, hsp, State.putBytes_clean hecc h4, elemBytes, hd, if_pos (by decide), Desc.colLo, Nat.zero_mul, Nat.zero_div, Nat.add_zero]
  have hnone : r.after.filter (fun t => hasTag t tPOISON) = [] := by
    rw [List.filter_eq_nil_iff]
    intro x hx
    rw [← List.map_snd_zip (Nat.le_of_eq hlen)] at hx
    obtain ⟨p, hq, rfl⟩ := List.mem_map.mp hx
    simp [hp p hq]
  unfold State.putOut
  dsimp only
  rw [hraws, hput, hnone, show (decide (([] : List Nat).length > 0) || false) = false from rfl, State.poisonIf, if_neg Bool.false_ne_true]
  exact ((State.incReg_same _ _ _).trans (State.incReg_same _ _ _)).mem

theorem getD_window {α : Type} {l : List α} {k n : Nat} (h : k + n ≤ l.length) (x : α) : (List.range n).map (fun q => l.getD (k + q) x) = (l.drop k).take n := by
  refine List.ext_getElem ?_ fun q h1 h2 => ?_
  · rw [List.length_map, List.length_range, List.length_take, List.length_drop]
    omega
  · rw [List.length_map, List.length_range] at h1
    rw [List.getElem_map, List.getElem_range, List.getElem_take, List.getElem_drop, List.getD_eq_getElem _ _ (by omega)]

/-- The records of a drain in mode 1, byte by byte (R112). -/
theorem drainPartial_bytes (j : DrainJob) (h4 : s.up 4 = true) (hecc : s.mem.tank.ecc = []) (hslots : ∀ n < t.size, (t.slot n).ecc = none) :
    (∀ n < t.size, (drainPartial i t j s).mem.tank.read ((descOf j.dout).base + 16 * n) 16 = slotRecord (i / 4) t.fmt n (t.slot n))
      ∧ ∀ b, ¬((descOf j.dout).base ≤ b ∧ b < (descOf j.dout).base + 16 * t.size) → (drainPartial i t j s).mem.tank.byte b = s.mem.tank.byte b := by
  have hlen := flatMap_length (k := 16) (f := fun n => slotRecord (i / 4) t.fmt n (t.slot n)) (fun n => slotRecord_length _ _ _ _) t.size
  obtain ⟨-, -, hbyte⟩ := State.writeFx_clean hecc (descOf j.dout).base ((List.range t.size).flatMap (fun n => slotRecord (i / 4) t.fmt n (t.slot n))) (i / 4)
  rw [drainPartial_clean j h4 hecc hslots]
  refine ⟨fun n hn => ?_, fun b hb => ?_⟩
  · have hin : 16 * n + 16 ≤ ((List.range t.size).flatMap (fun n => slotRecord (i / 4) t.fmt n (t.slot n))).length := by
      rw [hlen]
      omega
    refine Eq.trans (List.map_congr_left fun q hq => ?_) ((getD_window hin 0).trans (take_drop_flatMap (fun n => slotRecord_length _ _ _ _) hn))
    have hq' := List.mem_range.mp hq
    rw [hbyte, if_pos ⟨by omega, by rw [hlen]; omega⟩, Nat.add_assoc, Nat.add_sub_cancel_left]
  · rw [hbyte, if_neg (by rwa [hlen])]

/-- The row of a drain of a one-vector FX48 tile, word by word (R97, R115, R116). -/
theorem drainOut_words {j : DrainJob} {d : Desc} (h4 : s.up 4 = true) (hecc : s.mem.tank.ecc = []) (hcb : s.mem.cbuf.ecc = []) (hf : t.fmt = 0) (hv : t.v = 1)
    (hslots : ∀ n < t.n, (t.slot n).ecc = none ∧ bit (t.slot n).tag 12 = false) (hact : j.ost.act = 0) (hpool : j.ost.pool = 0) (hd : d = descOf j.dout) (hd7 : d.fmt = 7)
    (hb : d.bsp = 0) (hsp : d.sp = 0) :
    (∀ q < t.n, (drainOut i t j [] s).num 0 (d.rowAt j.row 0 0 + 4 * q) 4 = (drainWord s (i / 4) j.ost t q).toNat)
      ∧ ∀ b, ¬(d.rowAt j.row 0 0 ≤ b ∧ b < d.rowAt j.row 0 0 + 4 * t.n) → (drainOut i t j [] s).mem.tank.byte b = s.mem.tank.byte b := by
  have hsize : t.size = t.n := by rw [Tile.size, slotsOf, hf, if_neg (by decide), hv, Nat.mul_one]
  have hel : ∀ q < t.n, elemSlot t ((List.range t.size).map t.slot) 0 q = t.slot q := fun q hq => by
    unfold elemSlot
    dsimp only
    rw [hf, if_neg (by decide), Nat.zero_mul, Nat.zero_add, hsize, List.getD_eq_getElem _ _ (by simpa using hq), List.getElem_map, List.getElem_range]
  obtain ⟨hraws, htags⟩ := drainVec_plain (s := s) (o := j.ost) hd7 hb hf hact hcb hel (fun q hq => (hslots q hq).2) (i / 4)
  have hlen : (drainVec s (i / 4) j.ost d t ((List.range t.size).map t.slot) [] 0).after.length = (drainVec s (i / 4) j.ost d t ((List.range t.size).map t.slot) [] 0).raws.length := by
    unfold drainVec convRow
    rw [if_pos hb]
    simp
  have hmem : (drainOut i t j [] s).mem = (s.writeFx 0 (d.rowAt j.row 0 0) (packRow 7 ((List.range t.n).map (fun q => (drainWord s (i / 4) j.ost t q).toNat))) (i / 4)).mem := by
    have hread : s.readFx 1 (cb (i / 4) (sbAt j.ost t 0)) (8 * t.n) (i / 4) 0 = s := State.readFx_eq_self fun e he => absurd (show e ∈ s.mem.cbuf.ecc from he) (by simp [hcb])
    have hres : s.residues (i / 4) 6 ((List.range (t.v * t.n)).countP ([] : List Nat).contains) = s := by
      rw [List.countP_eq_zero.mpr fun x _ => by simp] <;> rfl
    unfold drainOut
    rw [readSlots_clean fun n hn => (hslots n (hsize ▸ List.mem_range.mp hn)).1]
    dsimp only
    rw [hres, hread, ← hd, if_pos (by omega), hv, List.range_one, List.map_singleton, drainRows, if_pos hpool, putRows, putRows, putOut_plain hd7 hb hsp h4 hecc hlen htags, hraws]
  obtain ⟨hwords, hbytes⟩ := State.writeRow_clean hecc (fmt := 7) (by decide) (d.rowAt j.row 0 0) t.n (fun q => (drainWord s (i / 4) j.ost t q).toNat) (i / 4)
  refine ⟨fun q hq => ?_, fun b hb => ?_⟩
  · have h := hwords q hq
    rw [show 256 ^ fmtBytes 7 = 2 ^ 32 from rfl, Nat.mod_eq_of_lt (drainWord s (i / 4) j.ost t q).isLt] at h
    show (drainOut i t j [] s).mem.tank.readN _ 4 = _
    rw [hmem]
    exact h
  · rw [hmem]
    exact hbytes b hb

end

theorem num_of_mem {u v : State} (h : v.mem = u.mem) (sp a n : Nat) : v.num sp a n = u.num sp a n := by
  unfold State.num State.memOf
  rw [h]

theorem Ctx.setS_kept (c : Ctx) (r : Nat) (v : W64) : (c.setS r v).tiles = c.tiles ∧ (c.setS r v).st = c.st ∧ (c.setS r v).stop = c.stop := by
  unfold Ctx.setS
  split <;> exact ⟨rfl, rfl, rfl⟩

/-- ACC_SAVE_COMPLETE of a context whose work has ended. -/
theorem saveComplete_spec {s : State} (k : CtxId) {rd a : Nat} (hh : (s.ctx (ctxIx k)).hold = .save rd a) (hq : s.quiet (ctxIx k) = true) :
    ∃ v, exec (.accSaveComplete k) s = .next v ∧ (v.ctx (ctxIx k)).tiles = []
      ∧ (v.ctx (ctxIx k)).sreg rd = (if rd = 0 then 0 else BitVec.ofNat 64 (saveLen (s.ctx (ctxIx k))))
      ∧ (v.ctx (ctxIx k)).hold = (if (s.ctx (ctxIx k)).st = .saving then .preempt else if (s.ctx (ctxIx k)).stop then .stop else .free) := by
  obtain ⟨u, hu⟩ : ∃ u, u = saveTiles (ctxIx k) a s := ⟨_, rfl⟩
  have huc : u.ctx (ctxIx k) = { s.ctx (ctxIx k) with tiles := [] } := by rw [hu, saveTiles_ctx, State.ctx_onCtx_self]
  have hd : exec (.accSaveComplete k) s = .next (u.onCtx (ctxIx k) (fun c => (c.setS rd (BitVec.ofNat 64 (saveLen (s.ctx (ctxIx k))))).freed)) := by
    have hd : exec (.accSaveComplete k) s = execAccSaveComplete k s := rfl
    rw [hd, execAccSaveComplete, hu]
    dsimp only
    rw [hh]
    dsimp only
    rw [if_pos hq]
  obtain ⟨htiles, hst, hstop⟩ := (u.ctx (ctxIx k)).setS_kept rd (BitVec.ofNat 64 (saveLen (s.ctx (ctxIx k))))
  refine ⟨_, hd, ?_⟩
  rw [State.ctx_onCtx_self]
  refine ⟨htiles.trans (by rw [huc]), Ctx.sreg_setS _ _ _, ?_⟩
  rw [Ctx.freed, hst, hstop, huc]

/-- Settles O10: the pass is added slot by slot and no other part of a slot's tile moves; a closed tile turns ready; a drain in a tank without errors is one write of its bytes; a
save leaves no tile. -/
theorem tileWorkCompletes : Obligations.TileWorkCompletes := by
  unfold Obligations.TileWorkCompletes
  intro s k tile i res hi
  refine ⟨fun vidx coloff t r x l => chainReduce_spec hi, fun t => closeComplete_spec hi, fun t j hup ht hj hr hw => ?_,
    fun rd a hh hq => ?_⟩
  · obtain ⟨u, hu⟩ : ∃ u, u = if j.partial' then drainPartial i t j s else drainOut i t j res s := ⟨_, rfl⟩
    obtain ⟨hmem, htiles, hworks⟩ := drainEnd_spec u i t.gen j.id (Reg.ACC_DRAIN_CNT (i / 4))
    have hd : exec (.accDrainComplete k ⟨tile, res⟩) s = .next (((u.incWrap (Reg.ACC_DRAIN_CNT (i / 4)) 1).freeTile i t.gen).endWork i j.id) := by
      subst hi
      have hd : exec (.accDrainComplete k ⟨tile, res⟩) s = execAccDrainComplete k ⟨tile, res⟩ s := rfl
      have hw' : (s.ctx (ctxIx k)).tileWhere tile.val (fun t => t.ready && t.drain.isSome) = some t := ht
      rw [hd, execAccDrainComplete]
      dsimp only
      rw [State.when, hup, if_pos rfl, hw']
      dsimp only
      rw [hj]
      dsimp only
      rw [hr, hw, Bool.not_true, Bool.or_false, if_neg Bool.false_ne_true, hu]
    refine ⟨_, hd, by rw [hu], htiles, hworks, fun hp h4 hecc hslots lo hlo => ?_, fun hp h4 hecc hcb hf hv hslots hact hpool hres d lo hdd hd7 hb hsp hlo => ?_⟩
    · rw [hmem, hu, if_pos hp, hlo]
      exact drainPartial_bytes j h4 hecc hslots
    · subst hres
      obtain ⟨hwords, hbytes⟩ := drainOut_words (i := i) h4 hecc hcb hf hv hslots hact hpool hdd hd7 hb hsp
      rw [hp, if_neg Bool.false_ne_true] at hu
      rw [← hu] at hwords hbytes
      rw [hmem, hlo]
      exact ⟨fun q hq => (num_of_mem hmem 0 _ 4).trans (hwords q hq), hbytes⟩
  · subst hi
    exact saveComplete_spec k hh hq

end Sys2Proof.Machine
end

section
/-!
PROOFS. The milking round (O42): a failed array stays in FAULT whatever the press does for it, tests end and begin again on their array alone, and a unit's end releases its array.
-/
set_option Elab.async false

namespace Sys2Proof.Machine

/-! ## What the press does for a failed array -/

/-- A step that leaves an array in FAULT there, and only adds to the log. -/
structure FaultStep (n : Nat) (s t : State) : Prop where
  kept : (s.arr n).st = .fault → (t.arr n).st = .fault
  log : LogGrows s t

section
variable {n : Nat} {s t u : State}

theorem FaultStep.refl (n : Nat) (s : State) : FaultStep n s s := ⟨id, LogGrows.refl s⟩

theorem FaultStep.trans (h : FaultStep n s t) (k : FaultStep n t u) : FaultStep n s u := ⟨fun hs => k.kept (h.kept hs), h.log.trans k.log⟩

theorem faultStep_ite {c : Prop} [Decidable c] (ht : FaultStep n s t) (hu : FaultStep n s u) : FaultStep n s (if c then t else u) := by
  split
  · exact ht
  · exact hu

theorem FaultStep.foldl {α : Type} {f : State → α → State} (h : ∀ t a, FaultStep n t (f t a)) (l : List α) (s : State) : FaultStep n s (l.foldl f s) := by
  induction l generalizing s with
  | nil => exact FaultStep.refl n s
  | cons a r ih => exact (h s a).trans (ih _)

/-- A step that leaves the arrays. -/
theorem SameBut.faultStep {l : List Piece} (h : SameBut l s t) (hlog : LogGrows s t) (h1 : .arrs ∉ l := by decide) : FaultStep n s t := ⟨fun hs => by rw [h.arr h1]; exact hs, hlog⟩

/-- One that leaves the events too. -/
theorem SameBut.faultStep' {l : List Piece} (h : SameBut l s t) (h1 : .arrs ∉ l := by decide) (h4 : .ev ∉ l := by decide) : FaultStep n s t := h.faultStep (h.logGrows h4) h1

variable (n s)

theorem State.setArr_faultStep (b : Nat) (x : Arr) (h : (s.arr b).st = .fault → x.st = .fault) : FaultStep n s (s.setArr b x) := by
  refine ⟨fun hs => ?_, (s.setArr_same b x).logGrows⟩
  by_cases hb : n = b
  · subst hb
    rw [State.arr_setArr_self]
    exact h hs
  · rw [State.arr_setArr_ne _ _ hb]
    exact hs

theorem State.raise_faultStep (code sev src pay : Nat) : FaultStep n s (s.raise code sev src pay) := (s.raise_same _ _ _ _).faultStep (s.raise_logGrows _ _ _ _)

theorem State.health_faultStep (b : Nat) : FaultStep n s (s.health b) := (s.health_same b).faultStep (s.health_storeStep b).log

theorem State.mapEntries_faultStep (p : Nat → BitVec 128 → Bool) (f : BitVec 128 → BitVec 128) : FaultStep n s (s.mapEntries p f) := (s.mapEntries_same p f).faultStep'

theorem State.onImage_faultStep (slot : Nat) (f : Image → Image) : FaultStep n s (s.onImage slot f) := (s.onImage_same slot f).faultStep'

theorem State.nvsPut_faultStep (cs : List NvsCmd) : FaultStep n s (s.nvsPut cs) := (s.nvsPut_nvsStep cs).same.faultStep (s.nvsPut_storeStep cs).log

theorem State.unprogram_faultStep (a : Nat) : FaultStep n s (s.unprogram a) := by
  unfold State.unprogram
  extract_lets m r
  exact faultStep_ite (s.nvsPut_faultStep n _) (FaultStep.refl n s)

theorem State.setReserve_faultStep (c k borrowed : Nat) : FaultStep n s (s.setReserve c k borrowed) := by
  have hs : SameBut (.regs :: evParts) s (s.setReserve c k borrowed) := by
    unfold State.setReserve
    extract_lets s1
    have h1 : SameBut [.regs] s s1 := s.setFld_same _ _ _ _
    exact ((h1.mono (m := .regs :: evParts) (by decide)).trans ((raiseIf_same s1 _ _ _ _ _).mono (by decide))).trans (State.sparesHealth_same _)
  exact hs.faultStep (s.setReserve_storeStep c k borrowed).log

theorem giveBack_faultStep (t : Tab Nat) : FaultStep n s (giveBack t s) := FaultStep.foldl (fun u _ => u.setReserve_faultStep n _ _ _) _ _

theorem loadEnd_faultStep (src : LoadSrc) (op code slot : Nat) : FaultStep n s (loadEnd src op code slot s) := by
  unfold loadEnd
  extract_lets s1
  have h1 : FaultStep n s s1 := faultStep_ite (s.setReg_same _ _).faultStep' (FaultStep.refl n s)
  split
  · exact h1
  · split
    · exact h1
    · exact h1.trans ((s1.finish_same _ _ _ _).faultStep (s1.finish_storeStep _ _ _ _).log)

theorem makeDue_faultStep (a cls : Nat) : FaultStep n s (makeDue a cls s) := faultStep_ite (FaultStep.refl n s) (s.setArr_faultStep n a _ id)

theorem firstDue_faultStep (a : Nat) : FaultStep n s (firstDue a s) := faultStep_ite (makeDue_faultStep n s a 1) (FaultStep.refl n s)

theorem dropArr_faultStep (a : Nat) : FaultStep n s (dropArr a s) := by
  unfold dropArr
  extract_lets x
  refine FaultStep.trans ?_ (State.unprogram_faultStep n _ a)
  split
  · exact FaultStep.refl n s
  · next h => exact s.setArr_faultStep n a _ fun hf => absurd (.inl hf) h

theorem State.detachArrs_faultStep (mine : Nat → Bool) : FaultStep n s (s.detachArrs mine) := by
  unfold State.detachArrs
  extract_lets s1
  have h1 : FaultStep n s s1 := FaultStep.foldl (fun t a => faultStep_ite (t.setArr_faultStep n a _ fun hf => by
    dsimp only
    rw [if_neg (by rw [hf]; decide)]
    exact hf) (FaultStep.refl n t)) _ _
  exact h1.trans (FaultStep.foldl (f := fun t (e : Nat × Arr) => firstDue e.1 t) (fun t e => firstDue_faultStep n t e.1) _ _)

theorem refuseLoad_faultStep (code : Nat) : FaultStep n s (refuseLoad code s) := by
  unfold refuseLoad
  split
  · exact FaultStep.refl n s
  · next l _ =>
    have h1 : FaultStep n s { s with prs := { s.prs with load := none }, refs := Tab.keep s.refs (fun a => !(l.begun ++ l.kept).contains a) } :=
      SameBut.faultStep' (l := [.prs, .refs]) fun p hp => by cases p <;> first | rfl | exact absurd (by decide) hp
    dsimp only
    refine FaultStep.trans ?_ (loadEnd_faultStep n _ _ _ _ _)
    refine FaultStep.trans ?_ (giveBack_faultStep n _ _)
    refine FaultStep.trans ?_ (giveBack_faultStep n _ _)
    refine h1.trans ?_
    generalize ({ s with prs := { s.prs with load := none }, refs := Tab.keep s.refs (fun a => !(l.begun ++ l.kept).contains a) } : State) = u
    have h2 : FaultStep n u (l.begun.foldl (fun t a => dropArr a t) u) := FaultStep.foldl (fun t a => dropArr_faultStep n t a) _ _
    exact faultStep_ite (h2.trans (State.detachArrs_faultStep n _ _)) h2

/-- A change of what the press stands at. -/
theorem setPrs_faultStep (q : PressSt) : FaultStep n s { s with prs := q } := SameBut.faultStep' (l := [.prs]) fun p hp => by cases p <;> first | rfl | exact absurd (by decide) hp

theorem State.takeSub_faultStep (c : Nat) : FaultStep n s (s.takeSub c).1 := by
  unfold State.takeSub
  split
  · exact FaultStep.refl n s
  · exact s.setReserve_faultStep n _ _ _

theorem loadSub_faultStep (a : Nat) : FaultStep n s (loadSub a s) := by
  unfold loadSub
  split
  · exact FaultStep.refl n s
  · extract_lets c
    split
    · exact refuseLoad_faultStep n s 8
    · split
      · exact refuseLoad_faultStep n s 8
      · exact (s.takeSub_faultStep n _).trans (setPrs_faultStep n _ _)

theorem noRepair_faultStep (a slot : Nat) : FaultStep n s (noRepair a slot s) := ((s.mapEntries_faultStep n _ _).trans (State.raise_faultStep n _ _ _ _ _)).trans (State.health_faultStep n _ _)

theorem repairFor_faultStep (a : Nat) : FaultStep n s (repairFor a s) := by
  unfold repairFor
  split
  · exact FaultStep.refl n s
  · extract_lets ps
    split
    · exact faultStep_ite (setPrs_faultStep n s _) (noRepair_faultStep n s _ _)
    · exact FaultStep.refl n s

theorem trapStalled_faultStep (slot layer : Nat) : FaultStep n s (trapStalled slot layer s) := by
  refine FaultStep.foldl (fun t i => ?_) _ _
  dsimp only
  split
  · refine faultStep_ite (faultStep_ite ?_ (FaultStep.refl n t)) (FaultStep.refl n t)
    exact FaultStep.trans (t.setCtx_same i _).faultStep' (State.raise_faultStep n _ _ _ _ _)
  · exact FaultStep.refl n t

theorem refuseReload_faultStep (slot layer : Nat) : FaultStep n s (refuseReload slot layer s) := by
  unfold refuseReload
  extract_lets s1
  have h1 : FaultStep n s s1 := SameBut.faultStep' (l := [.reqs]) fun p hp => by cases p <;> first | rfl | exact absurd (by decide) hp
  exact ((h1.trans (State.raise_faultStep n _ _ _ _ _)).trans (trapStalled_faultStep n _ _ _)).trans (State.health_faultStep n _ _)

theorem reloadSub_faultStep (a : Nat) (r : Reload) : FaultStep n s (reloadSub a r s) := by
  unfold reloadSub
  extract_lets c off
  split
  · exact ((s.onImage_faultStep n _ _).trans (setPrs_faultStep n _ _)).trans (State.mapEntries_faultStep n _ _ _)
  · exact (setPrs_faultStep n s _).trans (refuseReload_faultStep n _ _ _)
  · exact setPrs_faultStep n s _

theorem failedArr_faultStep (a : Nat) : FaultStep n s (failedArr a s) := by
  unfold failedArr
  refine faultStep_ite (loadSub_faultStep n s a) ?_
  split
  · exact faultStep_ite (setPrs_faultStep n s _) ((setPrs_faultStep n s _).trans (noRepair_faultStep n _ _ _))
  · exact faultStep_ite (reloadSub_faultStep n s a _) (repairFor_faultStep n s a)
  · exact repairFor_faultStep n s a

end

/-! ## The end of a test -/

/-- What a test's end touches besides its array. -/
abbrev askParts : List Piece := gateParts ++ [.ctxs, .sync, .host, .hostMem, .cores]

/-- A step of a test's end: it leaves the arrays and the test counts. -/
structure AskStep (s t : State) : Prop where
  same : SameBut askParts s t
  log : LogGrows s t
  cnt : t.reg Reg.TST_MR_CNT = s.reg Reg.TST_MR_CNT

theorem mrCnt_not_gate (st : Nat) : Reg.TST_MR_CNT ∉ gateRegs st := by
  simp only [List.mem_cons, List.not_mem_nil, or_false, not_or, Reg.TST_MR_CNT, Reg.SEQ_STRM_GAPS, Reg.SEQ_STRM_RELS, baseStrm, baseTst, Reg.TNK_ECC_CNT, Reg.TST_HEALTH, Reg.TNK_ERR, Reg.TNK_UNC_ADDR, baseTnk]
  omega

section
variable {s t u : State}

theorem AskStep.refl (s : State) : AskStep s s := ⟨SameBut.refl _ s, LogGrows.refl s, rfl⟩

theorem AskStep.trans (h : AskStep s t) (k : AskStep t u) : AskStep s u := ⟨h.same.trans k.same, h.log.trans k.log, k.cnt.trans h.cnt⟩

theorem AskStep.foldl {α : Type} {f : State → α → State} (h : ∀ t a, AskStep t (f t a)) (l : List α) (s : State) : AskStep s (l.foldl f s) := by
  induction l generalizing s with
  | nil => exact AskStep.refl s
  | cons a r ih => exact (h s a).trans (ih _)

/-- A step that leaves the events and the registers. -/
theorem SameBut.askStep {l : List Piece} (h : SameBut l s t) (hl : ∀ p ∈ l, p ∈ askParts := by decide) (h1 : .ev ∉ l := by decide) (h2 : .regs ∉ l := by decide) : AskStep s t :=
  ⟨h.mono hl, h.logGrows h1, h.reg h2 _⟩

variable (s)

theorem State.poison_askStep (i : Nat) : AskStep s (s.poison i) := by
  refine ⟨(s.poison_same i).mono (by decide), (s.poison_gateStep i).log, ?_⟩
  unfold State.poison
  extract_lets s1
  have h1 : SameBut [.ctxs] s s1 := s.setCtx_same _ _
  split
  · exact h1.reg (by decide) _
  · next st k _ =>
    have hm : RegsBut (gateRegs st) s1 (s1.markPoison st k) := ((s1.mapSeq_same _ _ _).regsBut _).trans (State.flush_regsBut _ _)
    exact ((h1.regsBut _).trans hm) _ (mrCnt_not_gate st)

theorem State.poisonIf_askStep (i : Nat) (b : Bool) : AskStep s (s.poisonIf i b) := by
  unfold State.poisonIf
  split
  · exact s.poison_askStep i
  · exact AskStep.refl s

theorem State.askStatus_askStep (core k rst ctr entry kind code : Nat) : AskStep s (s.askStatus core k rst ctr entry kind code) := by
  unfold State.askStatus
  extract_lets s1
  have hput : AskStep s (s.tankPut rst (leBytes 4 (code + 16 * kind + 2 ^ 16 * entry)) core) :=
    ⟨(s.tankPut_same _ _ _).mono (by decide), s.writeFx_logGrows _ _ _ _, s.writeFx_regsBut _ _ _ _ _ (by decide)⟩
  have h1 : AskStep s s1 := hput.trans (State.poisonIf_askStep _ _ _)
  refine h1.trans ?_
  unfold State.sigNow
  extract_lets c
  split
  · exact (s1.addSync_same _ _).askStep
  · exact (s1.setCtx_same _ _).askStep

theorem reportTest_askStep (core : Nat) (q : Ask) (code : Nat) : AskStep s (reportTest core q code s) := by
  unfold reportTest
  split
  · exact ⟨(s.setReg_same _ _).mono (by decide), (s.setReg_same _ _).logGrows, State.reg_setReg_ne _ _ (by decide)⟩
  · exact s.askStatus_askStep _ _ _ _ _ _ _
  · split
    · exact AskStep.refl s
    · exact ⟨(s.finish_same _ _ _ _).mono (by decide), (s.finish_storeStep _ _ _ _).log, (s.finish_same _ _ _ _).reg (by decide) _⟩

theorem endTests_askStep (a code : Nat) (p : Ask → Bool) : AskStep s (endTests a code p s) := by
  unfold endTests
  extract_lets c mine
  have h1 : AskStep s (s.onTests c (fun l => l.filter (fun q => !mine q))) := (s.setCore_same _ _).askStep
  exact h1.trans (AskStep.foldl (fun t q => reportTest_askStep t c q code) _ _)

/-- A step of the sweep. -/
theorem sweepSet_spec (b : Nat) (f : MrSt → MrSt) : SameBut [.regs, .mr] s ((s.setFld Reg.TST_MR_STAT 10 0 b).onMr f) ∧ RegsBut [Reg.TST_MR_STAT] s ((s.setFld Reg.TST_MR_STAT 10 0 b).onMr f) :=
  ⟨((s.setFld_same _ _ _ _).mono (by decide)).then (State.onMr_same _ _), (s.setFld_regsBut _ _ _ _).trans ((State.onMr_same _ _).regsBut _)⟩

theorem sweepPast_spec (a : Nat) : SameBut [.regs, .mr] s (sweepPast a s) ∧ RegsBut [Reg.TST_MR_STAT] s (sweepPast a s) := by
  unfold sweepPast
  split <;> exact sweepSet_spec s _ _

/-- A test of an array that ends: the array alone changes, and loses its test. -/
theorem testOver_spec {n : Nat} (hn : n < 2048) (code : Nat) : (testOver n code s).arr n = { s.arr n with test := none } ∧ LogGrows s (testOver n code s)
    ∧ (testOver n code s).reg (Reg.ARR_CHK_SIGMA n) = s.reg (Reg.ARR_CHK_SIGMA n) ∧ (testOver n code s).reg Reg.TST_MR_CNT = s.reg Reg.TST_MR_CNT := by
  unfold testOver
  extract_lets x s1
  have h0 : SameBut [.arrs] s (s.setArr n { x with test := none }) := s.setArr_same _ _
  have h1 : AskStep (s.setArr n { x with test := none }) s1 := endTests_askStep _ _ _ _
  have hfit : FitStep n (s.setArr n { x with test := none }) s1 := endTests_fitStep hn _ _ _ _
  have ha : s1.arr n = { s.arr n with test := none } := by rw [h1.same.arr (by decide), State.arr_setArr_self]
  have hl : LogGrows s s1 := h0.logGrows.trans h1.log
  have hs : s1.reg (Reg.ARR_CHK_SIGMA n) = s.reg (Reg.ARR_CHK_SIGMA n) := (hfit.regs _ (by simp)).trans (h0.reg (by decide) _)
  have hc : s1.reg Reg.TST_MR_CNT = s.reg Reg.TST_MR_CNT := h1.cnt.trans (h0.reg (by decide) _)
  clear_value s1
  split
  · obtain ⟨k1, k2⟩ := sweepPast_spec s1 n
    refine ⟨(k1.arr (by decide) n).trans ha, hl.trans k1.logGrows, (k2 _ ?_).trans hs, (k2 _ (by decide)).trans hc⟩
    rw [List.mem_singleton]
    unfold Reg.ARR_CHK_SIGMA Reg.TST_MR_STAT baseArr baseTst coreBase
    omega
  · exact ⟨ha, hl, hs, hc⟩

end

/-! ## The verdict of a test -/

/-- What judging a test touches. -/
abbrev judgeParts : List Piece := eccParts ++ [.regs, .pert, .dram]

/-- A step of the judgement of a test: it leaves the arrays and the test counts. -/
structure JudgeStep (s t : State) : Prop where
  same : SameBut judgeParts s t
  log : LogGrows s t
  cnt : t.reg Reg.TST_MR_CNT = s.reg Reg.TST_MR_CNT

section
variable {s t u : State}

theorem JudgeStep.refl (s : State) : JudgeStep s s := ⟨SameBut.refl _ s, LogGrows.refl s, rfl⟩

theorem JudgeStep.trans (h : JudgeStep s t) (k : JudgeStep t u) : JudgeStep s u := ⟨h.same.trans k.same, h.log.trans k.log, k.cnt.trans h.cnt⟩

theorem JudgeStep.foldl {α : Type} {f : State → α → State} {l : List α} (h : ∀ a ∈ l, ∀ t, JudgeStep t (f t a)) (s : State) : JudgeStep s (l.foldl f s) := by
  induction l generalizing s with
  | nil => exact JudgeStep.refl s
  | cons a r ih => exact (h a List.mem_cons_self s).trans (ih (fun b hb => h b (List.mem_cons_of_mem _ hb)) _)

theorem JudgeStep.foldl_snd {α β : Type} {f : β × State → α → β × State} (h : ∀ p a, JudgeStep p.2 (f p a).2) (l : List α) (p : β × State) : JudgeStep p.2 (l.foldl f p).2 := by
  induction l generalizing p with
  | nil => exact JudgeStep.refl p.2
  | cons a r ih => exact (h p a).trans (ih _)

variable (s)

theorem State.readShadow_spec (n : Nat) : SameBut (eccParts ++ [.dram]) s (s.readShadow n) ∧ RegsBut eccRegs s (s.readShadow n) ∧ LogGrows s (s.readShadow n) := by
  unfold State.readShadow
  split
  · exact ⟨imgRead_same s _ _, imgRead_regsBut s _ _, imgRead_logGrows s _ _⟩
  · exact ⟨SameBut.refl _ s, RegsBut.refl _ s, LogGrows.refl s⟩

theorem State.readShadow_judgeStep (n : Nat) : JudgeStep s (s.readShadow n) := by
  obtain ⟨h1, h2, h3⟩ := s.readShadow_spec n
  exact ⟨h1.mono (by decide), h3, h2 _ (by decide)⟩

theorem State.onPert_judgeStep (q : Tab Pert) : JudgeStep s { s with pert := q } := by
  have h : SameBut [.pert] s { s with pert := q } := fun p hp => by cases p <;> first | rfl | exact absurd (by decide) hp
  exact ⟨h.mono (by decide), h.logGrows, h.reg (by decide) _⟩

theorem State.setPert_judgeStep (q : Tab Pert) : JudgeStep s (s.setPert q) := by
  unfold State.setPert
  extract_lets s1
  have hset : ∀ (u : State) (a m : Nat), a ≠ Reg.TST_MR_CNT → JudgeStep u (u.clrReg a m) := fun u a m ha =>
    ⟨(u.clrReg_same a m).mono (by decide), (u.clrReg_same a m).logGrows, State.reg_setReg_ne _ _ ha.symm⟩
  have h1 : JudgeStep s s1 := by
    refine (s.onPert_judgeStep q).trans (JudgeStep.foldl (fun o ho u => ?_) _)
    have hne : Reg.TST_MR_CFG + o ≠ Reg.TST_MR_CNT := by
      revert ho
      revert o
      decide
    split
    · exact JudgeStep.refl u
    · exact hset u _ _ hne
  split
  · exact h1.trans (hset _ _ _ (by decide))
  · exact h1

theorem State.usePert_judgeStep (off : Nat) : JudgeStep s (s.usePert off) := by
  unfold State.usePert
  split
  · exact JudgeStep.refl s
  · split
    · exact JudgeStep.refl s
    · split
      · exact s.setPert_judgeStep _
      · exact s.onPert_judgeStep _

theorem checkGroups_judgeStep {n : Nat} (hn : n < 2048) (r : Run) (l : List Nat) : JudgeStep s (checkGroups n r l s).1 := by
  induction l generalizing s with
  | nil => exact JudgeStep.refl s
  | cons g rest ih =>
    unfold checkGroups
    split
    · refine JudgeStep.trans ?_ (ih _)
      refine ⟨(s.incReg_same _ _).mono (by decide), (s.incReg_same _ _).logGrows, State.reg_setReg_ne _ _ ?_⟩
      unfold Reg.TST_MR_CNT Reg.ARR_CHKSKIP_CNT baseArr baseTst coreBase
      omega
    · extract_lets ok s1 q
      have h1 : JudgeStep s s1 := by
        show JudgeStep s (if cinvFor s n then s.usePert 0x90 else s)
        split
        · exact s.usePert_judgeStep _
        · exact JudgeStep.refl s
      exact h1.trans (ih s1)

/-- The judgement of one vector. -/
def judgeOne (n : Nat) (t : Verdict × State) (e : Nat × Run) : Verdict × State :=
  let (s1, ds) := checkGroups n e.2 (List.range 8) t.2
  let cols := badCols s n e.2
  (⟨t.1.cols ++ cols.filter (fun j => !t.1.cols.contains j), t.1.vector.or (if cols.isEmpty && ds.isEmpty then none else some e.1)⟩, s1)

theorem judgeOne_snd (n : Nat) (t : Verdict × State) (e : Nat × Run) : (judgeOne s n t e).2 = (checkGroups n e.2 (List.range 8) t.2).1 := by
  unfold judgeOne
  generalize checkGroups n e.2 (List.range 8) t.2 = p
  obtain ⟨s1, ds⟩ := p
  rfl

theorem judge_judgeStep {n : Nat} (hn : n < 2048) (runs : List Run) : JudgeStep s (judge n runs s).2 := by
  have h : judge n runs s = ((List.range runs.length).zip runs).foldl (judgeOne s n) (⟨[], none⟩, s) := rfl
  rw [h]
  exact JudgeStep.foldl_snd (f := judgeOne s n) (fun p e => by rw [judgeOne_snd]; exact checkGroups_judgeStep p.2 hn e.2 _) ((List.range runs.length).zip runs) (⟨[], none⟩, s)

theorem State.residue_judgeStep {n : Nat} (hn : n < 2048) (k : Nat) : JudgeStep s (s.residue n k) := by
  unfold State.residue
  extract_lets core q
  have h1 := s.incReg_same (Reg.ARR_RES_CNT q) 1
  refine ⟨(h1.mono (by decide)).trans ((State.raise_same _ _ _ _ _).mono (by decide)), h1.logGrows.trans (State.raise_logGrows _ _ _ _ _), ?_⟩
  rw [State.raise_reg]
  refine State.reg_setReg_ne _ _ ?_
  have hq : q < 2048 := by
    show (if k = 3 ∨ k = 5 then 64 * (n / 64) else n) < 2048
    split <;> omega
  unfold Reg.TST_MR_CNT Reg.ARR_RES_CNT baseArr baseTst coreBase
  omega

end

/-! ## The outcome of a test -/

section
variable {s : State} {n : Nat} {m : MrTest}

/-- The state in which a test's outcome is decided: judged, counted, and with its SIGMA. -/
def testJudged (n : Nat) (m : MrTest) (r : TestOutcome) (s : State) : State :=
  ((r.residues.foldl (fun u k => u.residue n k.val) (judge n m.runs (s.readShadow n)).2).incWrap Reg.TST_MR_CNT 1).setReg (Reg.ARR_CHK_SIGMA n) r.sigma

theorem exec_mrTestComplete (a : ArrId) (r : TestOutcome) (hup : s.coreUp (a.val / 64) = true) (ht : (s.arr a.val).test = some m) (h8 : 8 ≤ m.unit) :
    exec (.mrTestComplete a r) s = .next (if !(r.readable && s.shadowOk a.val) then testOver a.val 5 (s.readShadow a.val)
      else if !testFails (judge a.val m.runs (s.readShadow a.val)).1 r then testOver a.val (if m.retest then 6 else 0) (testJudged a.val m r s)
      else if m.retest || (testFailed a.val (judge a.val m.runs (s.readShadow a.val)).1 (testJudged a.val m r s)).2
        then enterFault a.val 2 (testOver a.val 4 (testFailed a.val (judge a.val m.runs (s.readShadow a.val)).1 (testJudged a.val m r s)).1)
      else retest a.val (testFailed a.val (judge a.val m.runs (s.readShadow a.val)).1 (testJudged a.val m r s)).1) := by
  have hd : exec (.mrTestComplete a r) s = execMrTestComplete a r s := rfl
  rw [hd, execMrTestComplete]
  dsimp only
  rw [State.when, hup, if_pos rfl, ht]
  dsimp only
  rw [if_neg (by omega)] <;> rfl

/-- What the judgement leaves: the arrays, the log as it grew, one test more and the new SIGMA. -/
theorem testJudged_spec (hn : n < 2048) (r : TestOutcome) : (testJudged n m r s).arr n = s.arr n ∧ LogGrows s (testJudged n m r s)
    ∧ (testJudged n m r s).reg (Reg.ARR_CHK_SIGMA n) = r.sigma ∧ (testJudged n m r s).reg Reg.TST_MR_CNT = s.reg Reg.TST_MR_CNT + 1 := by
  have h : JudgeStep s (r.residues.foldl (fun u k => u.residue n k.val) (judge n m.runs (s.readShadow n)).2) :=
    ((s.readShadow_judgeStep n).trans (judge_judgeStep _ hn m.runs)).trans (JudgeStep.foldl (fun k _ t => t.residue_judgeStep hn k.val) _)
  unfold testJudged
  generalize r.residues.foldl (fun u k => u.residue n k.val) (judge n m.runs (s.readShadow n)).2 = u at h ⊢
  have h1 : SameBut [.regs] u ((u.incWrap Reg.TST_MR_CNT 1).setReg (Reg.ARR_CHK_SIGMA n) r.sigma) := (u.incWrap_same _ _).trans (State.setReg_same _ _ _)
  refine ⟨(h1.arr (by decide) n).trans (h.same.arr (by decide) n), h.log.trans h1.logGrows, State.reg_setReg_self _ _ _, ?_⟩
  have hne : Reg.TST_MR_CNT ≠ Reg.ARR_CHK_SIGMA n := by
    unfold Reg.TST_MR_CNT Reg.ARR_CHK_SIGMA baseArr baseTst coreBase
    omega
  rw [State.reg_setReg_ne _ _ hne, State.incWrap, State.reg_setReg_self, h.cnt]
  rfl

/-- A failed test is counted and reported, and its array is as before. -/
theorem testFailed_spec (hn : n < 2048) (v : Verdict) (u : State) : ((testFailed n v u).1).arr n = u.arr n ∧ RaisedAmong 0x0D06 u (testFailed n v u).1 := by
  unfold testFailed
  extract_lets cols s1
  have h1 := u.incReg_same Reg.TST_MR_FAIL 1
  have hr : Raised 0x0D06 u s1 := raised_of_ev (h1 .ev (by decide)) _ _ _ _
  have ha : s1.arr n = u.arr n := ((State.raise_same _ _ _ _ _).arr (by decide) n).trans (h1.arr (by decide) n)
  clear_value s1
  have h2 := retireAll_storeFit hn n cols s1
  exact ⟨(h2.same.arr (by decide) n).trans ha, hr.among.grows h2.log⟩

/-- The retest of an array is in progress from its first unit. -/
theorem retest_spec (u : State) : (∃ k, ((retest n u).arr n).test = some k ∧ k.retest = true ∧ k.unit = 0) ∧ LogGrows u (retest n u) := by
  unfold retest
  extract_lets x s1
  have h1 : SameBut [.arrs] u s1 := u.setArr_same _ _
  have ha : (s1.arr n).test = some ⟨0, false, true, u.cnt.aon, false, []⟩ := by rw [State.arr_setArr_self]
  split
  · refine ⟨⟨_, by rw [beginUnit_arr], ?_⟩, h1.logGrows.trans (beginUnit_goStep n s1).log⟩
    rw [ha]
    exact ⟨rfl, rfl⟩
  · exact ⟨⟨_, ha, rfl, rfl⟩, h1.logGrows⟩

/-- An array that fails is in FAULT, whatever the press does for it. -/
theorem enterFault_fault (hn : n < 2048) (cause : Nat) : ((enterFault n cause s).arr n).st = .fault ∧ RaisedAmong 0x0D03 s (enterFault n cause s) ∧ LogGrows s (enterFault n cause s) := by
  obtain ⟨y, hy⟩ : ∃ y, y = s.setArr n (s.arr n).faulted := ⟨_, rfl⟩
  obtain ⟨todo, z, hz, heq⟩ : ∃ todo z, SameBut [.cores] y z ∧ enterFault n cause s = failedArr n (stopAsks n 4 (failRuns n todo (z.raise 0x0D03 2 0x100 (n + 2 ^ 16 * cause)))) := by
    refine ⟨_, _, ?_, rfl⟩
    rw [hy]
    exact sameBut_ite (State.setCore_same _ _ _) (SameBut.refl _ _)
  have hys : SameBut [.arrs] s y := hy ▸ s.setArr_same _ _
  have hya : (y.arr n).st = .fault := by rw [hy, State.arr_setArr_self]; rfl
  clear hy
  have hraise := raised_of_ev ((hz .ev (by decide)).trans (hys .ev (by decide))) 0x0D03 2 0x100 (n + 2 ^ 16 * cause)
  have hza : ((z.raise 0x0D03 2 0x100 (n + 2 ^ 16 * cause)).arr n).st = .fault := by
    rw [(z.raise_same _ _ _ _).arr (by decide), hz.arr (by decide)]
    exact hya
  have hlog := (hys.logGrows.trans hz.logGrows).trans (z.raise_logGrows 0x0D03 2 0x100 (n + 2 ^ 16 * cause))
  generalize z.raise 0x0D03 2 0x100 (n + 2 ^ 16 * cause) = w at heq hraise hza hlog
  have hstop := (failRuns_fitStep hn n todo w).trans (stopAsks_fitStep hn n 4 _)
  generalize stopAsks n 4 (failRuns n todo w) = x at heq hstop
  obtain ⟨hkept, hgrow⟩ := failedArr_faultStep n x n
  rw [heq]
  exact ⟨hkept ((hstop.arrs n).2.1.trans hza), hraise.among.grows (hstop.log.trans hgrow), hlog.trans (hstop.log.trans hgrow)⟩

/-- MR_TEST_COMPLETE with a shadow image that cannot be read. -/
theorem testUnread_spec (a : ArrId) (r : TestOutcome) (hup : s.coreUp (a.val / 64) = true) (ht : (s.arr a.val).test = some m) (h8 : 8 ≤ m.unit)
    (hr : r.readable = false ∨ s.shadowOk a.val = false) : ∃ t, exec (.mrTestComplete a r) s = .next t ∧ (t.arr a.val).test = none ∧ (t.arr a.val).st = (s.arr a.val).st := by
  have hb : (!(r.readable && s.shadowOk a.val)) = true := by
    obtain h | h := hr <;> simp [h]
  refine ⟨_, (exec_mrTestComplete a r hup ht h8).trans (by rw [if_pos hb]), ?_⟩
  rw [(testOver_spec _ a.isLt 5).1, ((s.readShadow_spec a.val).1.arr (by decide) a.val)]
  exact ⟨rfl, rfl⟩

/-- MR_TEST_COMPLETE with a shadow image that can be read. -/
theorem testJudgedEnd_spec (a : ArrId) (r : TestOutcome) {v : Verdict} {u : State} (hup : s.coreUp (a.val / 64) = true) (ht : (s.arr a.val).test = some m) (h8 : 8 ≤ m.unit)
    (hr : r.readable = true) (hs : s.shadowOk a.val = true) (hv : v = (judge a.val m.runs (s.readShadow a.val)).1) (hu : u = testJudged a.val m r s) :
    ∃ t, exec (.mrTestComplete a r) s = .next t
      ∧ (testFails v r = false → (t.arr a.val).test = none ∧ (t.arr a.val).st = (s.arr a.val).st ∧ t.reg (Reg.ARR_CHK_SIGMA a.val) = r.sigma ∧ t.reg Reg.TST_MR_CNT = s.reg Reg.TST_MR_CNT + 1)
      ∧ (testFails v r = true → RaisedAmong 0x0D06 s t)
      ∧ (testFails v r = true → m.retest = false → (testFailed a.val v u).2 = false → ∃ k, (t.arr a.val).test = some k ∧ k.retest = true ∧ k.unit = 0)
      ∧ (testFails v r = true → m.retest = true → (s.arr a.val).cur = none → (s.arr a.val).retry = none → (s.arr a.val).queue = [] → (t.arr a.val).st = .fault ∧ RaisedAmong 0x0D03 s t) := by
  have hex := exec_mrTestComplete a r hup ht h8
  rw [← hv, ← hu, if_neg (by rw [hr, hs]; decide)] at hex
  obtain ⟨hua, hul, husig, hucnt⟩ := testJudged_spec (s := s) (m := m) a.isLt r
  rw [← hu] at hua hul husig hucnt
  cases hf : testFails v r with
  | false =>
    rw [hf, if_pos (by decide)] at hex
    obtain ⟨h1, -, h3, h4⟩ := testOver_spec u a.isLt (if m.retest then 6 else 0)
    refine ⟨_, hex, fun _ => ⟨by rw [h1], by rw [h1, hua], h3.trans husig, h4.trans hucnt⟩, fun h => absurd h (by simp), fun h => absurd h (by simp), fun h => absurd h (by simp)⟩
  | true =>
    rw [hf, if_neg (by decide)] at hex
    obtain ⟨hfa, hfr⟩ := testFailed_spec a.isLt v u
    have hfr' : RaisedAmong 0x0D06 s (testFailed a.val v u).1 := hul.among hfr
    generalize testFailed a.val v u = p at hex hfa hfr'
    by_cases hend : (m.retest || p.2) = true
    · rw [if_pos hend] at hex
      obtain ⟨h1, h2, -, -⟩ := testOver_spec p.1 a.isLt 4
      obtain ⟨h3, h4, h5⟩ := enterFault_fault (s := testOver a.val 4 p.1) a.isLt 2
      have hnot : m.retest = false → p.2 = false → False := fun k1 k2 => by rw [k1, k2] at hend; exact absurd hend (by decide)
      have hlog : LogGrows s p.1 := by
        obtain ⟨l, hl, -⟩ := hfr'
        exact ⟨l, hl⟩
      exact ⟨_, hex, fun h => absurd h (by simp), fun _ => hfr'.grows (h2.trans h5), fun _ k1 k2 => (hnot k1 k2).elim, fun _ _ _ _ _ => ⟨h3, (hlog.trans h2).among h4⟩⟩
    · rw [if_neg hend] at hex
      obtain ⟨hk, hl⟩ := retest_spec (n := a.val) p.1
      rw [Bool.or_eq_true, not_or, Bool.not_eq_true, Bool.not_eq_true] at hend
      exact ⟨_, hex, fun h => absurd h (by simp), fun _ => hfr'.grows hl, fun _ _ _ => hk, fun _ h => absurd h (by rw [hend.1]; simp)⟩

end

end Sys2Proof.Machine
end

section
/-!
PROOFS. The units of tests, the sweep, health and perturbations, and with them the milking round (O42).
-/
set_option Elab.async false

namespace Sys2Proof.Machine

/-! ## Units -/

section
variable {s : State} {n : Nat}

/-- MR_UNIT_START where a unit may start. -/
theorem unitStart_spec (a : ArrId) {x : Arr} (hx : x = s.arr a.val) (m : MrTest) (hok : s.unitOk a.val = true) (h : (x.test = some m ∧ m.unit < 8) ∨ (x.test = none ∧ m = ⟨0, false, false, 0, false, []⟩
      ∧ (s.wanted a.val = true ∨ (s.rbit Reg.TST_MR_CFG 0 = true ∧ s.mr.due = some a.val ∧ ∀ l < 64, s.wanted (a.val / 64 * 64 + l) = false)))) :
    ∃ t, exec (.mrUnitStart a) s = .next t ∧ (t.arr a.val).st = .test ∧ (t.arr a.val).test = some { m with live := true, startAt := if m.unit = 0 then s.cnt.aon else m.startAt }
      ∧ (∀ b, b ≠ a.val → t.arr b = s.arr b) ∧ SameBut [.arrs, .mr, .cores] s t := by
  subst hx
  have hd : exec (.mrUnitStart a) s = execMrUnitStart a s := rfl
  have hex : exec (.mrUnitStart a) s = .next (beginUnit a.val s) ∧ (s.arr a.val).test.getD ⟨0, false, false, 0, false, []⟩ = m := by
    rw [hd, execMrUnitStart, State.when, hok, if_pos rfl]
    rcases h with ⟨ht, h8⟩ | ⟨ht, rfl, hwant⟩
    · rw [ht]
      dsimp only
      rw [if_pos h8]
      exact ⟨rfl, rfl⟩
    · rw [ht]
      refine ⟨?_, rfl⟩
      dsimp only
      rcases hwant with hw | ⟨hen, hdue, hnone⟩
      · rw [if_pos hw]
      · have hany : (List.range 64).any (fun l => s.wanted (a.val / 64 * 64 + l) && s.unitOk (a.val / 64 * 64 + l)) = false := by
          rw [List.any_eq_false]
          exact fun l hl => by simp [hnone l (List.mem_range.mp hl)]
        rw [hen, hdue, hany, beq_self_eq_true, Bool.not_false, Bool.and_true, Bool.and_true, if_pos rfl, ite_self]
  obtain ⟨hex, hm⟩ := hex
  have harr := beginUnit_arr a.val s
  rw [hm] at harr
  refine ⟨_, hex, by rw [harr], by rw [harr], fun b hb => beginUnit_arr_ne s hb, ?_⟩
  unfold beginUnit
  dsimp only
  exact (((s.setArr_same a.val _).mono (by decide)).then (State.onMr_same _ _)).then (State.setCore_same _ _ _)

/-- MR_TEST_EXPIRY of a test whose units took 10 s. -/
theorem testExpiry_spec (a : ArrId) {m : MrTest} (hup : s.coreUp (a.val / 64) = true) (ht : (s.arr a.val).test = some m) (h8 : m.unit < 8) (hlate : 10000000 ≤ s.since m.startAt) :
    exec (.mrTestExpiry a) s = .next (s.setArr a.val { s.arr a.val with test := some { m with unit := 0, startAt := s.cnt.aon, stale := m.live, runs := [] } }) := by
  have hd : exec (.mrTestExpiry a) s = execMrTestExpiry a s := rfl
  rw [hd, execMrTestExpiry]
  dsimp only
  rw [State.when, hup, if_pos rfl, ht]
  dsimp only
  rw [decide_eq_true h8, decide_eq_true hlate, Bool.and_self, if_pos rfl]

/-- A unit's vectors read the shadow image and count clamps. -/
theorem unitRuns_spec (n unit : Nat) (noise : List (Nat × Int)) (s : State) : SameBut (evParts ++ [.regs]) (s.readShadow n) (unitRuns n unit noise s).2
    ∧ RegsBut [Reg.ARR_CLAMP_CNT n, Reg.ARR_CLAMP_LAST n] (s.readShadow n) (unitRuns n unit noise s).2 := by
  suffices h : ∀ (l : List Nat) (p : List Run × State), SameBut (evParts ++ [.regs]) (s.readShadow n) p.2 ∧ RegsBut [Reg.ARR_CLAMP_CNT n, Reg.ARR_CLAMP_LAST n] (s.readShadow n) p.2 →
      SameBut (evParts ++ [.regs]) (s.readShadow n) (l.foldl (fun (t : List Run × State) i =>
        let inp := testInp (s.shadow n) n s.mr.sweeps (s.rangeK n) (s.segen n) (6 * unit + i)
        let c := vecCodes (s.levels n) (s.rangeK n) (s.segen n) inp (2 * i) noise
        (t.1 ++ [vecRun s n inp c], countClamps n 1 c.2 (countClamps n 0 c.1 t.2))) p).2
      ∧ RegsBut [Reg.ARR_CLAMP_CNT n, Reg.ARR_CLAMP_LAST n] (s.readShadow n) (l.foldl (fun (t : List Run × State) i =>
        let inp := testInp (s.shadow n) n s.mr.sweeps (s.rangeK n) (s.segen n) (6 * unit + i)
        let c := vecCodes (s.levels n) (s.rangeK n) (s.segen n) inp (2 * i) noise
        (t.1 ++ [vecRun s n inp c], countClamps n 1 c.2 (countClamps n 0 c.1 t.2))) p).2 from h _ _ ⟨SameBut.refl _ _, RegsBut.refl _ _⟩
  intro l
  induction l with
  | nil => exact fun p h => h
  | cons i l ih =>
    intro p h
    rw [List.foldl_cons]
    refine ih _ ?_
    dsimp only
    generalize vecCodes (s.levels n) (s.rangeK n) (s.segen n) _ (2 * i) noise = c
    obtain ⟨k1, k2, -⟩ := countClamps_spec n 0 c.1 p.2
    obtain ⟨m1, m2, -⟩ := countClamps_spec n 1 c.2 (countClamps n 0 c.1 p.2)
    exact ⟨(h.1.trans k1).trans m1, (h.2.trans k2).trans m2⟩

/-- A churn that starts on any array keeps every array's test. -/
theorem beginChurn_test (a : Nat) (full : Bool) (cls b : Nat) (s : State) : ((beginChurn a full cls s).arr b).test = (s.arr b).test := by
  by_cases hb : b = a
  · subst hb
    rw [beginChurn_eq]
    have h0 : ((if full then freshRef b s else s).arr b).test = (s.arr b).test := by
      split
      · obtain ⟨d, r, h⟩ := (freshRef_spec s b).2.2.1
        rw [h]
      · rfl
    generalize (if full then freshRef b s else s) = u at h0 ⊢
    dsimp only
    split
    · obtain ⟨due, h⟩ := (abandon_spec b (enterChurn b full cls u)).1
      rw [h]
      dsimp only [Arr.abandoned]
      rw [enterChurn_arr]
      exact h0
    · rw [enterChurn_arr]
      exact h0
  · rw [beginChurn_arr_ne s full cls hb]

theorem churnGo_test (c b : Nat) (s : State) : ((churnGo c s).arr b).test = (s.arr b).test := by
  have h : ∀ k s, ((startChurns c k s).arr b).test = (s.arr b).test := by
    intro k
    induction k with
    | zero => exact fun s => rfl
    | succ k ih =>
      intro s
      unfold startChurns
      split
      · rfl
      · split
        · rfl
        · exact (ih _).trans (beginChurn_test _ _ _ b s)
  unfold churnGo
  split
  · exact h 64 s
  · rfl

/-- What is waited for starts no test on an array that has one. -/
theorem freeGo_test (c : Nat) {s : State} {k : MrTest} (h : (s.arr n).test = some k) : ((freeGo c s).arr n).test = some k := by
  have hc : ((churnGo c s).arr n).test = some k := (churnGo_test c n s).trans h
  unfold freeGo testGo
  split
  · next q hq =>
    have hne : n ≠ q.arr := by
      rintro rfl
      have := List.find?_some hq
      rw [hc] at this
      simp at this
    rw [beginUnit_arr_ne _ hne]
    exact hc
  · exact hc

theorem releaseArr_test (last : List Int) (s : State) : ((releaseArr n last s).arr n).test = (s.arr n).test := by
  rw [releaseArr_eq]
  unfold parkCheck
  dsimp only
  split
  · rw [State.arr_setArr_self, State.arr_setArr_self]
    rfl
  · rw [State.arr_setArr_self]
    rfl

/-- Where nothing waits on the core, and an array that comes free owes no churn, has one, or finds as many at work as may be, nothing starts. -/
theorem freeGo_full {c : Nat} {y : State} (hrest : (∀ b, b / 64 = c → Rests y b) ∨ y.maxChurn c ≤ y.churning c) (ht : (y.core c).tests = []) : freeGo c y = y := by
  rcases hrest with h | h
  · exact freeGo_of_rests h ht
  · have hc : churnGo c y = y := by
      unfold churnGo
      rw [startChurns, if_pos (decide_eq_true h), ite_self]
    rw [freeGo, hc, testGo_of_nil ht]

/-- The test as the end of its unit leaves it. -/
def MrTest.unitDone (m : MrTest) (rs : List Run) : MrTest :=
  if m.stale then { m with live := false, stale := false } else { m with unit := m.unit + 1, live := false, runs := m.runs ++ rs }

/-- The codes of a test's last phase. -/
def testLast (rs : List Run) : List Int := ((rs.getLast?.map (fun r => r.inp)).getD []).map (rowCode 2 1)

theorem exec_mrUnitEnd (a : ArrId) (noise : List (Nat × Int)) {m : MrTest} (hup : s.coreUp (a.val / 64) = true) (ht : (s.arr a.val).test = some m) (hlive : m.live = true) :
    exec (.mrUnitEnd ⟨a, noise⟩) s = .next (freeGo (a.val / 64) (releaseArr a.val (testLast (unitRuns a.val m.unit noise s).1) ((unitRuns a.val m.unit noise s).2.setArr a.val
      { (unitRuns a.val m.unit noise s).2.arr a.val with test := some (m.unitDone (unitRuns a.val m.unit noise s).1) }))) := by
  have hd : exec (.mrUnitEnd ⟨a, noise⟩) s = execMrUnitEnd ⟨a, noise⟩ s := rfl
  rw [hd, execMrUnitEnd]
  dsimp only
  rw [State.when, hup, if_pos rfl, ht]
  dsimp only
  rw [hlive, if_neg (by decide)] <;> rfl

/-- MR_UNIT_END with a unit running. -/
theorem unitEnd_spec (a : ArrId) (noise : List (Nat × Int)) {m k : MrTest} {x : Arr} {rs : List Run} (hx : x = s.arr a.val) (hup : s.coreUp (a.val / 64) = true) (ht : x.test = some m)
    (hlive : m.live = true) (hrs : rs = (unitRuns a.val m.unit noise s).1) (hk : k = m.unitDone rs) :
    ∃ t, exec (.mrUnitEnd ⟨a, noise⟩) s = .next t ∧ (t.arr a.val).test = some k
      ∧ (NoneWait s (a.val / 64) → x.park = false → (s.owes a.val = true → x.chn.cur ≠ none ∨ s.maxChurn (a.val / 64) ≤ s.churning (a.val / 64)) →
        t.arr a.val = { x with st := if s.owes a.val then .churn else .ready, codes := if x.queue.isEmpty then [] else testLast rs, test := some k }
          ∧ (∀ b, b ≠ a.val → t.arr b = s.arr b) ∧ RegsBut [Reg.ARR_CLAMP_CNT a.val, Reg.ARR_CLAMP_LAST a.val] (s.readShadow a.val) t
          ∧ SameBut (evParts ++ [.regs, .arrs]) (s.readShadow a.val) t) := by
  subst hx
  have hex := exec_mrUnitEnd a noise hup ht hlive
  obtain ⟨hr1, hr2⟩ := unitRuns_spec a.val m.unit noise s
  obtain ⟨hs1, hs2, -⟩ := s.readShadow_spec a.val
  rw [← hrs, ← hk] at hex
  generalize (unitRuns a.val m.unit noise s).2 = v at hex hr1 hr2
  have hva : ∀ b, v.arr b = s.arr b := fun b => (hr1.arr (by decide) b).trans (hs1.arr (by decide) b)
  obtain ⟨y, hy⟩ : ∃ y, y = v.setArr a.val { v.arr a.val with test := some k } := ⟨_, rfl⟩
  have hya : y.arr a.val = { s.arr a.val with test := some k } := by rw [hy, State.arr_setArr_self, hva]
  have hyb : ∀ b, b ≠ a.val → y.arr b = s.arr b := fun b hb => by rw [hy, State.arr_setArr_ne _ _ hb, hva]
  have hyv : SameBut [.arrs] v y := hy ▸ v.setArr_same _ _
  rw [← hy] at hex
  clear hy
  refine ⟨_, hex, freeGo_test _ (by rw [releaseArr_test, hya]), fun hnone hpark howed => ?_⟩
  obtain ⟨z, hz⟩ : ∃ z, z = releaseArr a.val (testLast rs) y := ⟨_, rfl⟩
  have hzy : SameBut [.arrs] y z := hz ▸ releaseArr_same a.val y (testLast rs)
  have hzb : ∀ b, b ≠ a.val → z.arr b = s.arr b := fun b hb => by rw [hz, releaseArr_arr_ne _ _ _ hb, hyb b hb]
  have hsame : SameBut (eccParts ++ [.dram, .regs, .arrs]) s z := (((hs1.mono (by decide)).trans (hr1.mono (by decide))).then hyv).then hzy
  have hregs : RegsBut [Reg.ARR_CLAMP_CNT a.val, Reg.ARR_CLAMP_LAST a.val] (s.readShadow a.val) z := (hr2.trans (hyv.regsBut _)).trans (hzy.regsBut _)
  have hreg : ∀ r, r ∉ [Reg.ARR_CLAMP_CNT a.val, Reg.ARR_CLAMP_LAST a.val] → r ∉ eccRegs → z.reg r = s.reg r := fun r h1 h2 => (hregs r h1).trans (hs2 r h2)
  have hmay : MayKept s z := hsame.mayKept (hreg _ (by
    simp only [List.mem_cons, List.not_mem_nil, or_false, not_or, Reg.RST_STAT, Reg.ARR_CLAMP_CNT, Reg.ARR_CLAMP_LAST, baseArr, coreBase, baseRst]
    omega) (by decide)) hsame.asksKept
  have hchn : (z.arr a.val).chn = (s.arr a.val).chn ∧ (z.arr a.val).win = (s.arr a.val).win := by
    have h := releaseArr_chn a.val y (testLast rs)
    rw [← hz, hya] at h
    exact h
  have hrest : (∀ b, b / 64 = a.val / 64 → Rests z b) ∨ z.maxChurn (a.val / 64) ≤ z.churning (a.val / 64) := by
    have hothers : Rests z a.val → ∀ b, b / 64 = a.val / 64 → Rests z b := fun h b hb => by
      by_cases hba : b = a.val
      · rw [hba]; exact h
      · exact hmay.rests hnone hb (hzb b hba)
    by_cases howes : s.owes a.val = true
    · rcases howed howes with hcur | hfull
      · exact .inl (hothers (.inl (by rw [hchn.1]; exact Option.isSome_iff_ne_none.mpr hcur)))
      · refine .inr ?_
        have hmax : z.maxChurn (a.val / 64) = s.maxChurn (a.val / 64) := by
          unfold State.maxChurn State.fld
          rw [hreg]
          · simp only [List.mem_cons, List.not_mem_nil, or_false, not_or, Reg.CHN_CFG, Reg.ARR_CLAMP_CNT, Reg.ARR_CLAMP_LAST, baseArr, baseChn, coreBase]
            omega
          · simp only [List.mem_cons, List.not_mem_nil, or_false, not_or, Reg.CHN_CFG, baseChn, coreBase, Reg.TNK_ECC_CNT, Reg.TST_HEALTH, Reg.TNK_ERR, Reg.TNK_UNC_ADDR, baseTnk, baseTst]
            omega
        have hcnt : z.churning (a.val / 64) = s.churning (a.val / 64) := by
          unfold State.churning
          congr 1
          refine List.filter_congr fun l _ => ?_
          by_cases hl : a.val / 64 * 64 + l = a.val
          · rw [hl, hchn.1]
          · rw [hzb _ hl]
        rw [hmax, hcnt]
        exact hfull
    · refine .inl (hothers (.inr ⟨?_, hchn.2.trans (hnone.2.2 _ rfl).1, hmay.asks.churns_nil hnone.1⟩))
      unfold firstMay
      dsimp only
      rw [hmay.owes (by rw [hchn.1]), Bool.eq_false_iff.mpr howes]
      rfl
  have hid := freeGo_full hrest (hmay.asks.tests_nil hnone.2.1)
  rw [← hz, hid]
  refine ⟨?_, hzb, hregs, ((hr1.mono (by decide)).then hyv).then hzy⟩
  have howes : y.owes a.val = s.owes a.val := by
    have hsy : SameBut (eccParts ++ [.dram, .regs, .arrs]) s y := ((hs1.mono (by decide)).trans (hr1.mono (by decide))).then hyv
    have hnvs : y.mem.nvs = s.mem.nvs := hsy .nvsMem (by decide)
    rw [State.owes, State.owes, State.programmed, State.programmed, State.prec, State.prec, hnvs, hya]
  rw [hz, releaseArr_of_stay a.val _ (by rw [hya]; exact hpark), arrReleased, howes, hya]
  rfl

end

/-! ## The sweep -/

section
variable {s : State}

theorem SameBut.sweepFrom {u : State} (h : SameBut [.regs, .mr] s u) (a : Nat) : sweepFrom u a = sweepFrom s a := by
  have hin : ∀ b, u.inSweep b = s.inSweep b := fun b => by
    have hnvs : u.mem.nvs = s.mem.nvs := h .nvsMem (by decide)
    rw [State.inSweep, State.inSweep, State.programmed, State.programmed, State.prec, State.prec, hnvs, State.serves, State.serves, h.arr (by decide)]
  unfold Sys2Proof.Machine.sweepFrom
  simp only [hin]

theorem sweepFrom_lt {a b : Nat} (h : sweepFrom s a = some b) : b < 2048 := by
  obtain ⟨l, hl⟩ : ∃ l, l = List.range 2048 := ⟨_, rfl⟩
  unfold Sys2Proof.Machine.sweepFrom at h
  rw [← hl] at h
  have hm := List.mem_of_find?_eq_some h
  rwa [hl, List.mem_range] at hm

/-- MR_SWEEP_DUE with none due. -/
theorem sweepDue_spec (h4 : s.up 4 = true) (hen : s.rbit Reg.TST_MR_CFG 0 = true) (hdue : s.mr.due = none)
    (hper : s.mr.left = 0 → s.mr.sweeps = 0 ∨ 1000000 * max 1 (s.fld Reg.TST_MR_PER 15 0) ≤ s.since s.mr.since) {b : Nat}
    (hb : sweepFrom s (if s.mr.left = 0 then 0 else s.fld Reg.TST_MR_STAT 10 0) = some b) :
    ∃ t, exec .mrSweepDue s = .next t ∧ t.mr.due = some b ∧ t.fld Reg.TST_MR_STAT 10 0 = b ∧ RegsBut [Reg.TST_MR_STAT] s t ∧ SameBut [.regs, .mr] s t := by
  obtain ⟨u, hu⟩ : ∃ u, u = if s.mr.left = 0 then sweepBegin s else s := ⟨_, rfl⟩
  have hus : SameBut [.regs, .mr] s u ∧ RegsBut [Reg.TST_MR_STAT] s u := by
    rw [hu]
    split
    · exact ⟨((s.setReg_same _ _).mono (by decide)).then (State.onMr_same _ _), (s.setReg_regsBut _ _).trans ((State.onMr_same _ _).regsBut _)⟩
    · exact ⟨SameBut.refl _ s, RegsBut.refl _ s⟩
  have hfrom : sweepFrom u (u.fld Reg.TST_MR_STAT 10 0) = some b := by
    rw [hus.1.sweepFrom, ← hb]
    refine congrArg (sweepFrom s) ?_
    rw [hu]
    split
    · have hzero : (sweepBegin s).reg Reg.TST_MR_STAT = 0 := by
        unfold sweepBegin
        rw [(State.onMr_same _ _).reg (by decide), State.reg_setReg_self]
      rw [State.fld, hzero]
      rfl
    · rfl
  have hd : exec .mrSweepDue s = .next ((u.setFld Reg.TST_MR_STAT 10 0 b).onMr (fun m => { m with due := some b })) := by
    have hd : exec .mrSweepDue s = execMrSweepDue s := rfl
    have hgo : (decide (s.mr.left = 0) && !s.sweepOk) = false := by
      by_cases hl : s.mr.left = 0
      · rw [decide_eq_true hl, Bool.true_and, State.sweepOk, State.mrPer]
        rcases hper hl with h | h <;> simp [h]
      · rw [decide_eq_false hl, Bool.false_and]
    rw [hd, execMrSweepDue, State.when, h4, hen, hdue]
    dsimp only
    rw [Bool.and_self, if_pos rfl, hdue, if_neg (by decide), hgo, if_neg Bool.false_ne_true, ← hu, hfrom]
  obtain ⟨k1, k2⟩ := sweepSet_spec u b (fun m => { m with due := some b })
  refine ⟨_, hd, rfl, ?_, hus.2.trans k2, hus.1.trans k1⟩
  show ((u.setFld Reg.TST_MR_STAT 10 0 b).fld Reg.TST_MR_STAT 10 0) = b
  rw [State.fld_setFld_self _ _ _ _ _ (by decide) (by decide)]
  exact Nat.mod_eq_of_lt (sweepFrom_lt hb)

/-- MR_SWEEP_LATE with arrays left. -/
theorem sweepLate_spec (h4 : s.up 4 = true) (hen : s.rbit Reg.TST_MR_CFG 0 = true) (hlate : s.rbit Reg.TST_MR_STAT 16 = false) (hleft : 0 < s.mr.left)
    (hper : 3 * (1000000 * max 1 (s.fld Reg.TST_MR_PER 15 0)) ≤ 2 * s.since s.mr.since) :
    ∃ t, exec .mrSweepLate s = .next t ∧ t.rbit Reg.TST_MR_STAT 16 = true ∧ Raised 0x0D07 s t ∧ RegsBut [Reg.TST_MR_STAT] s t := by
  have hd : exec .mrSweepLate s = .next ((s.orReg Reg.TST_MR_STAT (2 ^ 16)).raise 0x0D07 1 0x100 s.mr.left) := by
    have hd : exec .mrSweepLate s = execMrSweepLate s := rfl
    have hp : 3 * s.mrPer ≤ 2 * s.since s.mr.since := hper
    rw [hd, execMrSweepLate, State.when, h4, hen, hlate, decide_eq_true hleft, decide_eq_true hp, if_pos (by decide)]
  refine ⟨_, hd, ?_, raised_of_ev ((s.setReg_same _ _) .ev (by decide)) _ _ _ _, (s.orReg_regsBut _ _).trans (State.raise_regsBut _ _ _ _ _ _)⟩
  rw [State.rbit, State.raise_reg, ← State.rbit, State.rbit_orReg_self _ _ _ _ (by decide), Nat.testBit_two_pow_self, Bool.or_true]

/-! ## Health and perturbations -/

theorem healthClear_spec (who : Who) (v : W32) (hr : reaches s who Reg.TST_HEALTH = true) :
    exec (.tstHealthClear who v) s = .next (s.setReg Reg.TST_HEALTH (s.reg Reg.TST_HEALTH &&& ~~~(v &&& 0x3E))) := by
  have hd : exec (.tstHealthClear who v) s = .next (s.clrReg Reg.TST_HEALTH ((v &&& 0x3E).toNat)) := next_access hr
  rw [hd, State.clrReg, BitVec.ofNat_toNat, BitVec.setWidth_eq]

/-- A write of a perturbation register. -/
theorem pertWrite_spec {who : Who} {off : Nat} {v : W32} (hr : reaches s who (Reg.TST_MR_CFG + off) = true) : (s.pertOpen = false → pertWrite who off v s = s)
    ∧ (s.pertOpen = true → (∀ o, o ≠ off → (pertWrite who off v s).pertAt o = s.pertAt o)
      ∧ (bit v 31 = true → (pertWrite who off v s).pertAt off = some ⟨v, pertUses off v⟩ ∧ RaisedAmong 0x0D09 s (pertWrite who off v s))
      ∧ (bit v 31 = false → (pertWrite who off v s).pertAt off = none)) := by
  have hacc : pertWrite who off v s = (if !s.pertOpen then s else
      if bit v 31 then (((s.putMasked (Reg.TST_MR_CFG + off) v).setPert (Tab.insert (s.putMasked (Reg.TST_MR_CFG + off) v).pert off ⟨v, pertUses off v⟩)).raise 0x0D09 1 0x100 (off + 2 ^ 32 * v.toNat)).health 6
      else (s.putMasked (Reg.TST_MR_CFG + off) v).setPert (Tab.erase (s.putMasked (Reg.TST_MR_CFG + off) v).pert off)) := access_reaches _ hr
  refine ⟨fun ho => by rw [hacc, ho]; rfl, fun ho => ?_⟩
  have hput := s.putMasked_same (Reg.TST_MR_CFG + off) v
  have hpert : (s.putMasked (Reg.TST_MR_CFG + off) v).pert = s.pert := hput .pert (by decide)
  rw [hacc, ho, if_neg (by decide), hpert]
  generalize s.putMasked (Reg.TST_MR_CFG + off) v = u at hput
  by_cases hb : bit v 31 = true
  · rw [if_pos hb]
    obtain ⟨w, hw⟩ : ∃ w, w = u.setPert (Tab.insert s.pert off ⟨v, pertUses off v⟩) := ⟨_, rfl⟩
    have hwp : w.pert = Tab.insert s.pert off ⟨v, pertUses off v⟩ := hw ▸ (u.setPert_spec _).1
    have hlog : LogGrows s w := hput.logGrows.trans (hw ▸ (u.setPert_judgeStep _).log)
    have hz : ((w.raise 0x0D09 1 0x100 (off + 2 ^ 32 * v.toNat)).health 6).pert = w.pert :=
      ((State.health_same _ 6) .pert (by decide)).trans ((w.raise_same _ _ _ _) .pert (by decide))
    rw [← hw]
    refine ⟨fun o hne => ?_, fun _ => ⟨?_, ?_⟩, fun h => absurd hb (by rw [h]; decide)⟩
    · rw [State.pertAt, hz, hwp, Tab.find?_insert, if_neg hne]
      rfl
    · rw [State.pertAt, hz, hwp, Tab.find?_insert, if_pos rfl]
    · exact (hlog.raised (w.raise_raised _ _ _ _)).grows (State.health_storeStep _ 6).log
  · rw [if_neg hb]
    have hwp := (u.setPert_spec (Tab.erase s.pert off)).1
    refine ⟨fun o hne => ?_, fun h => absurd h hb, fun _ => ?_⟩
    · rw [State.pertAt, hwp, Tab.find?_erase, if_neg hne]
      rfl
    · rw [State.pertAt, hwp, Tab.find?_erase, if_pos rfl]

/-- Settles O42: a unit, its end and a test's outcome change their array alone; a failed retest puts it in FAULT, which nothing that the press does for it undoes. -/
theorem theMilkingRound : Obligations.TheMilkingRound := by
  unfold Obligations.TheMilkingRound
  intro s
  refine ⟨fun a n x hn hx => ?_, fun h4 hen => ⟨fun hdue hper b hb => sweepDue_spec h4 hen hdue hper hb, fun hlate hleft hper => sweepLate_spec h4 hen hlate hleft hper⟩,
    fun who v hr => healthClear_spec who v hr, fun who v j off hj hr => ?_, fun who hr => ⟨_, next_access hr, (s.setPert_spec []).1⟩⟩
  · subst hn hx
    exact ⟨fun m hok h => unitStart_spec a rfl m hok h, fun m k noise rs hup ht hlive hrs hk => unitEnd_spec a noise rfl hup ht hlive hrs hk,
      fun m hup ht h8 hlate => testExpiry_spec a hup ht h8 hlate, fun m r hup ht h8 hr => testUnread_spec a r hup ht h8 hr,
      fun m r v u hup ht h8 hr hs hv hu => testJudgedEnd_spec a r hup ht h8 hr hs hv hu⟩
  · have hd : exec j s = .next (pertWrite who off v s) := by
      rcases hj with h | h | h | h | h | h | h <;>
      · obtain ⟨rfl, rfl⟩ := h
        rfl
    obtain ⟨h1, h2⟩ := pertWrite_spec (v := v) hr
    exact ⟨fun ho => hd.trans (by rw [h1 ho]), fun ho => ⟨_, hd, h2 ho⟩⟩

end

end Sys2Proof.Machine
end

section
/-!
PROOFS. The end of a load and an unload (O37): LOAD_VERIFY commits what its digest and signature pass, and UNLOAD takes a slot's image away.
-/
set_option Elab.async false

namespace Sys2Proof.Machine

/-! ## Steps that leave what the press stands at -/

/-- A step that leaves the press's own state and only adds to the log. -/
structure PrsStep (s t : State) : Prop where
  prs : t.prs = s.prs
  log : LogGrows s t

section
variable {s t u : State}

theorem PrsStep.refl (s : State) : PrsStep s s := ⟨rfl, LogGrows.refl s⟩

theorem PrsStep.trans (h : PrsStep s t) (k : PrsStep t u) : PrsStep s u := ⟨k.prs.trans h.prs, h.log.trans k.log⟩

theorem prsStep_ite {c : Prop} [Decidable c] (ht : PrsStep s t) (hu : PrsStep s u) : PrsStep s (if c then t else u) := by
  split
  · exact ht
  · exact hu

theorem PrsStep.foldl {α : Type} {f : State → α → State} (h : ∀ t a, PrsStep t (f t a)) (l : List α) (s : State) : PrsStep s (l.foldl f s) := by
  induction l generalizing s with
  | nil => exact PrsStep.refl s
  | cons a r ih => exact (h s a).trans (ih _)

theorem SameBut.prsStep {l : List Piece} (h : SameBut l s t) (hlog : LogGrows s t) (h1 : .prs ∉ l := by decide) : PrsStep s t := ⟨h .prs h1, hlog⟩

theorem SameBut.prsStep' {l : List Piece} (h : SameBut l s t) (h1 : .prs ∉ l := by decide) (h2 : .ev ∉ l := by decide) : PrsStep s t := h.prsStep (h.logGrows h2) h1

variable (s)

theorem State.nvsPage_prsStep (j : PageJob) : PrsStep s (s.nvsPage j) := ⟨rfl, (s.nvsPage_storeStep j).log⟩

theorem jobDone_prsStep (j : PageJob) : PrsStep s (jobDone j s) := by
  refine ⟨?_, (jobDone_storeStep s j).log⟩
  unfold jobDone
  split
  · rfl
  · rfl
  · rfl
  · rfl
  · rfl
  · split <;> rfl
  · rfl

theorem pageDone_prsStep (j : PageJob) : PrsStep s (pageDone j s) := by
  refine ⟨?_, (pageDone_storeStep s j).log⟩
  unfold pageDone
  extract_lets x s1
  have h : s1.prs = s.prs := (jobDone_prsStep _ j).prs
  clear_value s1
  split
  · exact h
  · exact h

theorem State.nvsGo_prsStep : PrsStep s s.nvsGo := ⟨s.nvsGo_nvsStep.same .prs (by decide), s.nvsGo_storeStep.log⟩

theorem nvsFlush_prsStep (n : Nat) : ∀ s : State, PrsStep s (nvsFlush n s) := by
  induction n with
  | zero => exact PrsStep.refl
  | succ n ih =>
    intro s
    unfold nvsFlush
    split
    · exact PrsStep.refl s
    · exact prsStep_ite (pageDone_prsStep s _) (((pageDone_prsStep s _).trans (State.nvsGo_prsStep _)).trans (ih _))

theorem State.abWriteNow_prsStep (r : AbReg) (a : AbRead) (pay : List Byte) : PrsStep s (s.abWriteNow r a pay) :=
  (nvsFlush_prsStep _ s).trans (PrsStep.foldl (fun t j => t.nvsPage_prsStep j) _ _)

theorem State.abRead_prsStep (r : AbReg) : PrsStep s (s.abRead r).1 := (s.abRead_keeps r).prsStep (s.abRead_storeStep r).log

theorem State.nvsPut_prsStep (cs : List NvsCmd) : PrsStep s (s.nvsPut cs) := (s.nvsPut_nvsStep cs).same.prsStep (s.nvsPut_storeStep cs).log

theorem State.unprogram_prsStep (a : Nat) : PrsStep s (s.unprogram a) := by
  unfold State.unprogram
  extract_lets m r
  exact prsStep_ite (s.nvsPut_prsStep _) (PrsStep.refl s)

theorem dropArr_prsStep (a : Nat) : PrsStep s (dropArr a s) := by
  unfold dropArr
  extract_lets x
  exact (prsStep_ite (PrsStep.refl s) (s.setArr_same _ _).prsStep').trans (State.unprogram_prsStep _ a)

theorem endPressOf_prsStep (slot : Nat) : PrsStep s (endPressOf slot s) := PrsStep.foldl (fun t a => dropArr_prsStep t a) _ _

theorem State.setReserve_prsStep (c k borrowed : Nat) : PrsStep s (s.setReserve c k borrowed) := by
  refine ⟨?_, (s.setReserve_storeStep c k borrowed).log⟩
  unfold State.setReserve
  extract_lets s1
  have h1 : SameBut [.regs] s s1 := s.setFld_same _ _ _ _
  exact ((((h1.mono (m := .regs :: evParts) (by decide)).trans ((raiseIf_same s1 _ _ _ _ _).mono (by decide))).trans (State.sparesHealth_same _)) .prs (by decide))

theorem giveBack_prsStep (t : Tab Nat) : PrsStep s (giveBack t s) := PrsStep.foldl (fun u _ => u.setReserve_prsStep _ _ _) _ _

theorem putPlaces_prsStep (img slot : Nat) (l : List Place) : PrsStep s (l.foldl (fun t p => putPlace img slot (!p.pool) p t) s) :=
  PrsStep.foldl (fun t _ => (t.setEntry_same _ _ _).prsStep') _ _

end

/-! ## Lists copied to the core buffers -/

/-- The bytes of DRAM, and what else a copy of an image's lists leaves. -/
structure CopyStep (s t : State) : Prop where
  cells : t.mem.dram.cells = s.mem.dram.cells
  same : SameBut accessParts s t
  log : LogGrows s t

section
variable {s t u : State}

theorem CopyStep.refl (s : State) : CopyStep s s := ⟨rfl, SameBut.refl _ s, LogGrows.refl s⟩

theorem CopyStep.trans (h : CopyStep s t) (k : CopyStep t u) : CopyStep s u := ⟨k.cells.trans h.cells, h.same.trans k.same, h.log.trans k.log⟩

theorem CopyStep.foldl {α : Type} {f : State → α → State} (h : ∀ t a, CopyStep t (f t a)) (l : List α) (s : State) : CopyStep s (l.foldl f s) := by
  induction l generalizing s with
  | nil => exact CopyStep.refl s
  | cons a r ih => exact (h s a).trans (ih _)

variable (s)

theorem imgRead_copyStep (o n : Nat) : CopyStep s (imgRead o n s) := ⟨(s.readFx_cellsKept 2 o n 75 0).dram, (imgRead_same s o n).mono (by decide), imgRead_logGrows s o n⟩

theorem State.writeCbuf_copyStep (a : Nat) (bs : List Byte) (port : Nat) : CopyStep s (s.writeFx 1 a bs port) :=
  ⟨congrArg Mem.cells (s.writeFx_memOf_ne (x := 2) a bs port (by decide)), s.writeFx_same _ _ _ _, s.writeFx_logGrows _ _ _ _⟩

theorem copyAllLists_copyStep (o : Nat) : CopyStep s (copyAllLists o s) := by
  have hone : ∀ t e c, CopyStep t (copyLists o e c t) := fun t e c => by
    unfold copyLists
    extract_lets m x cores
    refine CopyStep.foldl (fun t c => ?_) _ _
    dsimp only
    split
    · exact (((imgRead_copyStep t _ _).trans (State.writeCbuf_copyStep _ _ _ _)).trans (imgRead_copyStep _ _ _)).trans (State.writeCbuf_copyStep _ _ _ _)
    · exact (imgRead_copyStep _ _ _).trans (State.writeCbuf_copyStep _ _ _ _)
  exact CopyStep.foldl (fun t e => CopyStep.foldl (fun u c => hone u e c) _ _) _ _

end

/-! ## What rests on the bytes of DRAM alone -/

/-- What is read of a memory without its ECC conditions rests on its bytes. -/
theorem Mem.congr_cells {α : Type} {m m' : Mem} (f : Mem → α) (hf : ∀ (m : Mem) e, f { m with ecc := e } = f m) (h : m.cells = m'.cells) : f m = f m' := by
  obtain ⟨c, e⟩ := m
  obtain ⟨c', e'⟩ := m'
  obtain rfl : c = c' := h
  exact hf ⟨c, e'⟩ e

section
variable {s t : State} (h : t.mem.dram.cells = s.mem.dram.cells) (o : Nat)
include h

theorem imgDigest_congr : imgDigest t o = imgDigest s o := Mem.congr_cells (fun m => shake256 (m.read o (m.readN (o + 56) 8))) (fun _ _ => rfl) h

theorem storedDigest_congr : storedDigest t o = storedDigest s o := Mem.congr_cells (fun m => BitVec.ofNat 256 (m.readN (o + m.readN (o + 56) 8) 32)) (fun _ _ => rfl) h

theorem imgSigned_congr : imgSigned t o = imgSigned s o := Mem.congr_cells (fun m => m.readN (o + 10) 2 % 2 == 1) (fun _ _ => rfl) h

theorem signatureOk_congr (hf : t.fus = s.fus) (hs : t.sec = s.sec) : signatureOk t o = signatureOk s o := by
  have hbytes : t.mem.dram.read (o + t.mem.dram.readN (o + 64) 8) (t.mem.dram.readN (o + 72) 2) = s.mem.dram.read (o + s.mem.dram.readN (o + 64) 8) (s.mem.dram.readN (o + 72) 2) :=
    Mem.congr_cells (fun m => m.read (o + m.readN (o + 64) 8) (m.readN (o + 72) 2)) (fun _ _ => rfl) h
  unfold signatureOk
  rw [hf, hs, imgSigned_congr h, imgDigest_congr h, hbytes]

theorem onCore_congr (c : Nat) (ok : Place → Bool) : onCore t.mem.dram o c ok = onCore s.mem.dram o c ok := Mem.congr_cells (fun m => onCore m o c ok) (fun _ _ => rfl) h

theorem sparesBefore_congr (l : LoadJob) (hp : t.prs = s.prs) : sparesBefore l t = sparesBefore l s := by
  unfold sparesBefore heldSpares
  simp only [hp, onCore_congr h]

end

/-- Without a perturbation of digests the digest seen is the image's (R170). -/
theorem seenDigest_spec {s : State} (h : s.pertAt 0x98 = none) (o : Nat) : (seenDigest s o).1 = imgDigest s o ∧ CopyStep s (seenDigest s o).2 := by
  have hr := imgRead_copyStep s o (s.mem.dram.readN (o + 56) 8 + 32)
  have hpert : (imgRead o (s.mem.dram.readN (o + 56) 8 + 32) s).pertAt 0x98 = none := by
    have hp : (imgRead o (s.mem.dram.readN (o + 56) 8 + 32) s).pert = s.pert := hr.same .pert (by decide)
    rw [State.pertAt, hp]
    exact h
  unfold seenDigest
  dsimp only
  rw [hpert]
  exact ⟨imgDigest_congr hr.cells o, hr⟩

/-! ## LOAD_VERIFY -/

/-- The load's end: its image is attached to its slot, and PRS_LOAD_STAT reports it. -/
theorem commitLoad_spec (l : LoadJob) (s : State) (hsrc : l.src = .fw) : (commitLoad l s).prs.load = none
    ∧ Tab.find? (commitLoad l s).prs.images l.slot = some { l.img with borrow := addTab (sparesBefore l s) l.img.borrow } ∧ RaisedAmong 0x0304 s (commitLoad l s)
    ∧ (commitLoad l s).reg Reg.PRS_LOAD_STAT = BitVec.ofNat 32 (2 ^ 8 * b2n l.attach + 2 ^ 12 * l.slot + 2 ^ 31) := by
  unfold commitLoad
  extract_lets old src img s0 r s1 s2 src2 s3 s4
  have h0 : LogGrows s s0 := by
    show LogGrows s (if (Tab.find? s.prs.images l.slot).isSome then s else s.takeGap old)
    split
    · exact LogGrows.refl s
    · exact ⟨[], rfl⟩
  have h1 : PrsStep s0 s1 := prsStep_ite (PrsStep.refl s0) ((s0.abRead_prsStep _).trans (State.abWriteNow_prsStep _ _ _ _))
  have h2 : PrsStep s1 s2 := putPlaces_prsStep s1 _ _ _
  have h3 : LogGrows s s3 := (h0.trans h1.log).trans (h2.log.trans ⟨[], rfl⟩)
  have hprs : s3.prs = { s2.prs with load := none, images := Tab.insert s2.prs.images l.slot img } := rfl
  have h4 : Raised 0x0304 s3 s4 := s3.raise_raised _ _ _ _
  have hprs4 : s4.prs = s3.prs := (s3.raise_same _ _ _ _) .prs (by decide)
  clear_value s4 s3
  have hend : loadEnd l.src 1 (b2n l.attach) l.slot s4 = s4.setReg Reg.PRS_LOAD_STAT (BitVec.ofNat 32 (2 ^ 8 * b2n l.attach + 2 ^ 12 * l.slot + 2 ^ 31)) := by
    unfold loadEnd
    dsimp only
    rw [if_pos rfl, hsrc]
  rw [hend]
  have hset := s4.setReg_same Reg.PRS_LOAD_STAT (BitVec.ofNat 32 (2 ^ 8 * b2n l.attach + 2 ^ 12 * l.slot + 2 ^ 31))
  refine ⟨?_, ?_, (h3.raised h4).grows hset.logGrows, State.reg_setReg_self _ _ _⟩
  · rw [(hset .prs (by decide) : _ = s4.prs), hprs4, hprs]
  · rw [(hset .prs (by decide) : _ = s4.prs), hprs4, hprs]
    dsimp only
    rw [Tab.find?_insert, if_pos rfl]

theorem loadVerify_spec {s : State} (h4 : s.up 4 = true) (hp : s.pertAt 0x98 = none) {l : LoadJob} {u : State} (hl : s.prs.load = some l) (hready : loadReady s l = true)
    (hbow : s.rst.bowarn = false) (hnvs : s.nvs.ready = true) (hu : u = copyAllLists l.img.off s) (hok : l.attach = false → imgDigest u l.img.off = storedDigest u l.img.off
      ∧ signatureOk u l.img.off = true ∧ (u.fus.sigreq = true → imgSigned u l.img.off = true)) (hsrc : l.src = .fw) :
    ∃ t, exec .loadVerify s = .next t ∧ t.prs.load = none ∧ Tab.find? t.prs.images l.slot = some { l.img with borrow := addTab (sparesBefore l s) l.img.borrow } ∧ RaisedAmong 0x0304 s t
      ∧ t.reg Reg.PRS_LOAD_STAT = BitVec.ofNat 32 ((if l.attach then 256 else 0) + 2 ^ 12 * l.slot + 2 ^ 31) := by
  have hcopy : CopyStep s u := hu ▸ copyAllLists_copyStep s _
  have hpu : u.pertAt 0x98 = none := by rw [State.pertAt, (hcopy.same .pert (by decide) : u.pert = s.pert)]; exact hp
  obtain ⟨hseen, hstep⟩ := seenDigest_spec hpu l.img.off
  obtain ⟨w, hw, hd⟩ : ∃ w, CopyStep s w ∧ exec .loadVerify s = .next (commitLoad l w) := by
    have hd : exec .loadVerify s = .next (verifyLoad l s) := by
      have hd : exec .loadVerify s = execLoadVerify s := rfl
      rw [hd, execLoadVerify, State.when, h4, if_pos rfl, hl]
    have hv : verifyLoad l s = if l.attach then commitLoad l u else
        if (seenDigest u l.img.off).1 != storedDigest (seenDigest u l.img.off).2 l.img.off then refuseLoad 6 (keyEvent l.slot 0 (seenDigest u l.img.off).2)
        else if (seenDigest u l.img.off).2.fus.sigreq && !imgSigned (seenDigest u l.img.off).2 l.img.off then refuseLoad 7 (keyEvent l.slot 2 (seenDigest u l.img.off).2)
        else if !signatureOk (seenDigest u l.img.off).2 l.img.off then refuseLoad 7 (keyEvent l.slot 1 (seenDigest u l.img.off).2)
        else commitLoad l (seenDigest u l.img.off).2 := by
      unfold verifyLoad
      rw [hready, hbow, hnvs, if_neg (by decide), ← hu]
    rw [hd, hv]
    cases ha : l.attach with
    | true => exact ⟨u, hcopy, by rw [if_pos rfl]⟩
    | false =>
      obtain ⟨k1, k2, k3⟩ := hok ha
      generalize (seenDigest u l.img.off).2 = w at hstep
      have hfus : w.fus = u.fus := hstep.same .fus (by decide)
      have hsec : w.sec = u.sec := hstep.same .sec (by decide)
      have hsig : (w.fus.sigreq && !imgSigned w l.img.off) = false := by
        rw [hfus, imgSigned_congr hstep.cells]
        cases hq : u.fus.sigreq with
        | false => rfl
        | true => rw [k3 hq]; rfl
      refine ⟨w, hcopy.trans hstep, ?_⟩
      rw [if_neg Bool.false_ne_true, hseen, storedDigest_congr hstep.cells, k1, bne_self_eq_false, if_neg Bool.false_ne_true, hsig, if_neg Bool.false_ne_true,
        signatureOk_congr hstep.cells _ hfus hsec, k2, if_neg (by decide)]
  obtain ⟨e1, e2, e3, e4⟩ := commitLoad_spec l w hsrc
  rw [sparesBefore_congr hw.cells l (hw.same .prs (by decide))] at e2
  refine ⟨_, hd, e1, e2, hw.log.among e3, e4.trans ?_⟩
  cases l.attach <;> rfl

/-! ## UNLOAD -/

theorem loadEnd_unload (code slot : Nat) (s : State) : loadEnd .fw 2 code slot s = s := by
  unfold loadEnd
  dsimp only
  rw [if_neg (by decide)]

/-- The state in which a slot's image is gone, with its reload, its repairs and its requests (R176). -/
def unloadGone (slot : Nat) (x : State) : State :=
  { x with prs := { x.prs with images := Tab.erase x.prs.images slot, rld := (match x.prs.rld with | some q => if q.slot = slot then none else some q | none => none),
                               reps := x.prs.reps.filter (fun q => q.slot != slot) },
           reqs := x.reqs.filter (fun q => q.1 != slot) }

theorem unloadGone_images (slot : Nat) (x : State) : Tab.find? (unloadGone slot x).prs.images slot = none := by
  show Tab.find? (Tab.erase x.prs.images slot) slot = none
  rw [Tab.find?_erase, if_pos rfl]

theorem unloadSlot_eq {s : State} (slot : Nat) (hl : s.prs.load = none) (huse : slotInUse s slot = false) (hbow : s.rst.bowarn = false) (hnvs : s.nvs.ready = true) :
    ∃ (back : Tab Nat) (b : Bool) (x : State), unloadSlot .fw slot s = loadEnd .fw 2 0 slot (giveBack back (if b then unloadGone slot x else (unloadGone slot x).takeGap back)) := by
  unfold unloadSlot
  rw [hl, huse, if_neg (by decide), hbow, hnvs, if_neg (by decide)]
  dsimp only
  generalize State.mapEntries _ _ _ = u
  exact ⟨_, (Tab.find? u.prs.images slot).isSome, u, rfl⟩

theorem unload_spec {s : State} (h4 : s.up 4 = true) (slot : Fin 4) (hl : s.prs.load = none) (huse : slotInUse s slot.val = false) (hbow : s.rst.bowarn = false) (hnvs : s.nvs.ready = true) :
    ∃ t, exec (.unload .fw slot) s = .next t ∧ Tab.find? t.prs.images slot.val = none := by
  have hd : exec (.unload .fw slot) s = .next (unloadSlot .fw slot.val s) := by
    have hd : exec (.unload .fw slot) s = execUnload .fw slot s := rfl
    rw [hd, execUnload, State.when, h4, if_pos rfl]
  obtain ⟨back, b, x, h⟩ := unloadSlot_eq slot.val hl huse hbow hnvs
  refine ⟨_, hd, ?_⟩
  rw [h, loadEnd_unload, (giveBack_prsStep _ back).prs]
  split
  · exact unloadGone_images _ x
  · exact unloadGone_images _ x

end Sys2Proof.Machine
end

section
/-!
PROOFS. The acceptance of a load (O37): the reads of an image leave what its checks and its allocation rest on, and the first records that are asked for leave the load in progress.
-/
set_option Elab.async false

namespace Sys2Proof.Machine

/-! ## The store serves alike in two states -/

/-- Two states whose stores hold the same and run alike. -/
structure StoreAlike (s t : State) : Prop where
  nvs : t.nvs = s.nvs
  mem : t.mem.nvs = s.mem.nvs
  rst : t.rst = s.rst

section
variable {s t u v : State}

theorem StoreAlike.symm (h : StoreAlike s t) : StoreAlike t s := ⟨h.nvs.symm, h.mem.symm, h.rst.symm⟩

theorem StoreAlike.trans (h : StoreAlike s t) (k : StoreAlike t u) : StoreAlike s u := ⟨k.nvs.trans h.nvs, k.mem.trans h.mem, k.rst.trans h.rst⟩

/-- A step that leaves the store. -/
theorem SameBut.storeAlike {l : List Piece} (h : SameBut l s t) (h1 : .nvs ∉ l := by decide) (h2 : .nvsMem ∉ l := by decide) (h3 : .rst ∉ l := by decide) : StoreAlike s t := ⟨h .nvs h1, h .nvsMem h2, h .rst h3⟩

/-- Such a step on either side keeps two states alike. -/
theorem StoreAlike.steps {s' t' : State} (h : StoreAlike s t) (hs : StoreAlike s s') (ht : StoreAlike t t') : StoreAlike s' t' := (hs.symm.trans h).trans ht

theorem StoreAlike.view (h : StoreAlike s t) : t.nvsView = s.nvsView := by
  unfold State.nvsView
  rw [h.nvs, h.mem]

theorem StoreAlike.worn (h : StoreAlike s t) (a : Nat) : t.worn a = s.worn a := by
  unfold State.worn
  rw [h.view]

theorem StoreAlike.withJobs (h : StoreAlike s t) (q : List NvsCmd) (j : Option PageJob) :
    StoreAlike { s with nvs := { s.nvs with queue := q, cur := j } } { t with nvs := { t.nvs with queue := q, cur := j } } :=
  ⟨congrArg (fun n : NvsSt => { n with queue := q, cur := j }) h.nvs, h.mem, h.rst⟩

variable (s)

theorem State.chanRead_alike (c page : Nat) : StoreAlike s (s.chanRead c page) := by
  rw [State.chanRead_eq]
  have h1 : SameBut [.regs, .ev, .hostMem, .pert] s ((List.range 16).foldl (bufRead c s.mem.nvs (64 * page)) (s.nvsRead c (64 * page) 64)) :=
    (s.nvsRead_keeps _ _ _).trans (SameBut.foldl (fun u w => (u.setReg_same _ _).mono (by decide)) _ _)
  exact (h1.then (State.setReg_same _ _ _)).storeAlike

theorem warnPage_alike (j : PageJob) : StoreAlike s (warnPage j s).1 := by
  unfold warnPage
  split
  · exact (((s.setReg_same _ _).mono (m := [.regs, .ev, .hostMem]) (by decide)).then (State.raise_same _ _ _ _ _)).storeAlike
  · exact (SameBut.refl [] s).storeAlike

theorem warnPage_snd (j : PageJob) (t : State) : (warnPage j t).2 = (warnPage j s).2 := by
  unfold warnPage
  split <;> rfl

variable {s}

/-- The service of a queue that ends with a page: no event of the log is taken, so it rests on the store alone. -/
theorem nvsServe_alike (l : List NvsCmd) (j : PageJob) (h : StoreAlike s t) : StoreAlike (nvsServe (l ++ [.page j]) s) (nvsServe (l ++ [.page j]) t) := by
  have hpage : ∀ (r : List NvsCmd) (k : PageJob) {s t : State}, StoreAlike s t → (∀ {x y : State}, x.rst.bowarn = true → StoreAlike x y → StoreAlike (nvsServe r x) (nvsServe r y)) →
      StoreAlike (nvsServe (.page k :: r) s) (nvsServe (.page k :: r) t) := by
    intro r k s t h ih
    have hrst : t.rst.bowarn = s.rst.bowarn := congrArg Rst.bowarn h.rst
    unfold nvsServe
    by_cases hb : s.rst.bowarn = true
    · rw [if_pos hb, if_pos (hrst.trans hb)]
      have hw := h.steps (warnPage_alike s k) (warnPage_alike t k)
      have hr : StoreAlike (nvsServe r (warnPage k s).1) (nvsServe r (warnPage k t).1) := ih (by rw [(warnPage_alike s k).rst]; exact hb) hw
      dsimp only
      rw [warnPage_snd s k t]
      exact ⟨congrArg (fun n : NvsSt => { n with queue := (warnPage k s).2 ++ n.queue }) hr.nvs, hr.mem, hr.rst⟩
    · rw [if_neg hb, if_neg (by rw [hrst]; exact hb)]
      exact h.withJobs r (some k)
  induction l generalizing s t with
  | nil =>
    refine hpage [] j h fun {x y} hb hxy => ?_
    have hrst : y.rst.bowarn = x.rst.bowarn := congrArg Rst.bowarn hxy.rst
    unfold nvsServe
    rw [if_pos hb, if_pos (hrst.trans hb)]
    exact ⟨congrArg (fun n : NvsSt => { n with queue := [] }) hxy.nvs, hxy.mem, hxy.rst⟩
  | cons c r ih =>
    cases c with
    | read c page => exact ih (h.steps (s.chanRead_alike _ _) (t.chanRead_alike _ _))
    | win who off =>
      refine ih ?_
      have hk := h.steps (s.nvsRead_keeps 2 off 4).storeAlike (t.nvsRead_keeps 2 off 4).storeAlike
      unfold State.winRead
      dsimp only
      rw [h.mem]
      exact ⟨congrArg (fun n : NvsSt => { n with got := some (who, off, BitVec.ofNat 32 (s.mem.nvs.readN off 4)) }) hk.nvs, hk.mem, hk.rst⟩
    | page k => exact hpage (r ++ [.page j]) k h fun _ hxy => ih hxy

theorem State.nvsGo_alike (h : StoreAlike s t) {l : List NvsCmd} {j : PageJob} (hq : s.nvs.queue = l ++ [.page j]) : StoreAlike s.nvsGo t.nvsGo := by
  have hup : t.up 2 = s.up 2 := by rw [State.up, State.up, State.domSt, State.domSt, h.rst]
  have hc : (t.up 2 = true ∧ t.nvs.ready = true ∧ t.nvs.cur = none) ↔ (s.up 2 = true ∧ s.nvs.ready = true ∧ s.nvs.cur = none) := by rw [hup, h.nvs]
  have hqt : t.nvs.queue = l ++ [.page j] := by rw [h.nvs, hq]
  unfold State.nvsGo
  rw [hq, hqt]
  by_cases hgo : s.up 2 = true ∧ s.nvs.ready = true ∧ s.nvs.cur = none
  · rw [if_pos hgo, if_pos (hc.mpr hgo)]
    exact nvsServe_alike l j h
  · rw [if_neg hgo, if_neg (mt hc.mp hgo)]
    exact h

theorem State.pressWrite_alike (h : StoreAlike s t) (off n v a kind : Nat) : StoreAlike (s.pressWrite off n v a kind) (t.pressWrite off n v a kind) := by
  have hq : StoreAlike { s with nvs := { s.nvs with queue := s.nvs.queue ++ [NvsCmd.page ⟨off, leBytes n v, .press a kind⟩] } }
      { t with nvs := { t.nvs with queue := t.nvs.queue ++ [NvsCmd.page ⟨off, leBytes n v, .press a kind⟩] } } :=
    ⟨congrArg (fun m : NvsSt => { m with queue := m.queue ++ [NvsCmd.page ⟨off, leBytes n v, .press a kind⟩] }) h.nvs, h.mem, h.rst⟩
  exact State.nvsGo_alike hq (l := s.nvs.queue) rfl

/-- The first record of an array is asked for alike. -/
theorem firstRecord_alike (h : StoreAlike s t) (a : Nat) (w : PressWant) : StoreAlike (firstRecord a w s) (firstRecord a w t) := by
  have hread : ∀ x : State, StoreAlike x (x.recRead a) := fun x => ((x.nvsRead_keeps _ _ _).trans (State.nvsRead_keeps _ _ _ _)).storeAlike
  have hraise : ∀ (x : State) (b : Bool) (code sev src pay : Nat), StoreAlike x (x.raiseIf b code sev src pay) := fun x b code sev src pay => (x.raiseIf_same b code sev src pay).storeAlike
  have hr : StoreAlike (s.recRead a) (t.recRead a) := h.steps (hread s) (hread t)
  unfold firstRecord
  dsimp only
  rw [hr.view]
  refine StoreAlike.steps ?_ (hraise _ _ _ _ _ _) (hraise _ _ _ _ _ _)
  split
  · split
    · exact ((State.pressWrite_alike (State.pressWrite_alike hr _ _ _ _ _) _ _ _ _ _).steps (State.setReg_same _ _ _).storeAlike (State.setReg_same _ _ _).storeAlike)
    · exact hr
  · exact State.pressWrite_alike hr _ _ _ _ _

/-- Asking for a first record leaves what the press stands at. -/
theorem firstRecord_prs (a : Nat) (w : PressWant) (s : State) : (firstRecord a w s).prs = s.prs := by
  have hr : (s.recRead a).prs = s.prs := ((s.nvsRead_keeps _ _ _).trans (State.nvsRead_keeps _ _ _ _)) .prs (by decide)
  have hput : ∀ (x : State) (off n v k : Nat), (x.pressWrite off n v a k).prs = x.prs := fun x off n v k => (x.nvsPut_prsStep _).prs
  have hreg : ∀ (x : State) (r : Nat) (v : W32), (x.setReg r v).prs = x.prs := fun _ _ _ => rfl
  have hraise : ∀ (x : State) (b : Bool) (code sev src pay : Nat), (x.raiseIf b code sev src pay).prs = x.prs := fun x b code sev src pay => (x.raiseIf_same b code sev src pay) .prs (by decide)
  unfold firstRecord
  dsimp only
  rw [hraise]
  split
  · split
    · rw [hreg, hput, hput, hr]
    · exact hr
  · rw [hput, hr]

/-- The first records of a load whose arrays are not worn: the load stays in progress. -/
theorem firstRecords_prs (slot ep o : Nat) (todo : List (Place × Nat)) (h : StoreAlike s t) (hl : t.prs.load.isSome = true)
    (hw : ∀ x p y, todo = x ++ p :: y → (x.foldl (fun z q => firstRecord q.1.arr ⟨.load, q.1, slot, ep, q.2, o⟩ z) s).worn p.1.arr = false) : (firstRecords slot ep o todo t).prs = t.prs := by
  induction todo generalizing s t with
  | nil => rfl
  | cons p r ih =>
    have hp : t.worn p.1.arr = false := (h.worn _).trans (hw [] p r rfl)
    have hone : firstRecords slot ep o (p :: r) t = firstRecords slot ep o r (firstRecord p.1.arr ⟨.load, p.1, slot, ep, p.2, o⟩ t) := by
      unfold firstRecords
      rw [List.foldl_cons, hp, if_neg (by rw [← Option.not_isSome, hl]; decide), if_neg Bool.false_ne_true]
    have hprs := firstRecord_prs p.1.arr ⟨.load, p.1, slot, ep, p.2, o⟩ t
    have hrest : ∀ x q y, r = x ++ q :: y → (x.foldl (fun z q => firstRecord q.1.arr ⟨.load, q.1, slot, ep, q.2, o⟩ z) (firstRecord p.1.arr ⟨.load, p.1, slot, ep, p.2, o⟩ s)).worn q.1.arr = false := by
      intro x q y hxy
      have hx := hw (p :: x) q y (by rw [hxy, List.cons_append])
      rwa [List.foldl_cons] at hx
    exact (congrArg State.prs hone).trans ((ih (firstRecord_alike h p.1.arr ⟨.load, p.1, slot, ep, p.2, o⟩) (by rw [hprs]; exact hl) hrest).trans hprs)

end

end Sys2Proof.Machine
end

section
/-!
PROOFS. What a load's checks, its footprint and its allocation rest on (O37): the bytes of DRAM, the store, the press, the arrays and the registers that the reads of the image leave.
-/
set_option Elab.async false

namespace Sys2Proof.Machine

/-! ## Reads of an image -/

/-- What the reads of an image leave of what its acceptance rests on. -/
structure LoadAlike (s t : State) : Prop where
  cells : t.mem.dram.cells = s.mem.dram.cells
  store : StoreAlike s t
  arrs : t.arrs = s.arrs
  prs : t.prs = s.prs
  fus : t.fus = s.fus
  sec : t.sec = s.sec
  pert : t.pert = s.pert
  regs : RegsBut eccRegs s t

section
variable {s t u : State}

theorem LoadAlike.refl (s : State) : LoadAlike s s := ⟨rfl, ⟨rfl, rfl, rfl⟩, rfl, rfl, rfl, rfl, rfl, RegsBut.refl _ s⟩

theorem LoadAlike.trans (h : LoadAlike s t) (k : LoadAlike t u) : LoadAlike s u :=
  ⟨k.cells.trans h.cells, h.store.trans k.store, k.arrs.trans h.arrs, k.prs.trans h.prs, k.fus.trans h.fus, k.sec.trans h.sec, k.pert.trans h.pert, h.regs.trans k.regs⟩

theorem LoadAlike.foldl {α : Type} {f : State → α → State} (h : ∀ t a, LoadAlike t (f t a)) (l : List α) (s : State) : LoadAlike s (l.foldl f s) := by
  induction l generalizing s with
  | nil => exact LoadAlike.refl s
  | cons a r ih => exact (h s a).trans (ih _)

theorem imgRead_loadAlike (s : State) (o n : Nat) : LoadAlike s (imgRead o n s) := by
  have h := imgRead_same s o n
  exact ⟨(s.readFx_cellsKept 2 o n 75 0).dram, h.storeAlike, h .arrs (by decide), h .prs (by decide), h .fus (by decide), h .sec (by decide), h .pert (by decide), imgRead_regsBut s o n⟩

/-- The digest as a load without perturbations sees it. -/
theorem seenDigest_loadAlike (h : s.pertAt 0x98 = none) (o : Nat) : (seenDigest s o).1 = imgDigest s o ∧ LoadAlike s (seenDigest s o).2 := by
  have hr := imgRead_loadAlike s o (s.mem.dram.readN (o + 56) 8 + 32)
  have hp : (imgRead o (s.mem.dram.readN (o + 56) 8 + 32) s).pertAt 0x98 = none := by
    rw [State.pertAt, hr.pert]
    exact h
  refine ⟨(seenDigest_spec h o).1, ?_⟩
  unfold seenDigest
  dsimp only
  rw [hp]
  exact hr

/-- The state in which the image of a slot is taken for detached, as the acceptance of an attach counts (R175, R497). -/
def State.detached (s : State) (slot : Nat) : State := { s with prs := { s.prs with images := Tab.erase s.prs.images slot } }

theorem LoadAlike.detached (h : LoadAlike s t) (slot : Nat) : LoadAlike (s.detached slot) (t.detached slot) :=
  ⟨h.cells, ⟨h.store.nvs, h.store.mem, h.store.rst⟩, h.arrs, congrArg (fun p : PressSt => { p with images := Tab.erase p.images slot }) h.prs, h.fus, h.sec, h.pert, h.regs⟩

/-! ## Registers that the reads leave -/

/-- The registers of a core's blocks lie apart from those of ECC reports. -/
theorem coreReg_not_ecc {c k : Nat} (h1 : 0x10000 ≤ k) (h2 : k < 0x40000) : coreBase c + k ∉ eccRegs := by
  intro hm
  have hlow : (coreBase c + k) % 0x40000 = k := by unfold coreBase; omega
  have hecc : ∀ a ∈ eccRegs, a % 0x40000 < 0x10000 := by decide
  exact absurd (hecc _ hm) (by omega)

/-! ## The store and the arrays -/

section
variable (h : LoadAlike s t)
include h

theorem LoadAlike.view : t.nvsView = s.nvsView := h.store.view

theorem LoadAlike.worn (a : Nat) : t.worn a = s.worn a := h.store.worn a

theorem LoadAlike.arr (a : Nat) : t.arr a = s.arr a := by rw [State.arr, State.arr, h.arrs]

theorem LoadAlike.prec (a : Nat) : t.prec a = s.prec a := by rw [State.prec, State.prec, h.store.mem]

theorem LoadAlike.slotPay (n : Nat) : t.slotPay n = s.slotPay n := by rw [State.slotPay, State.slotPay, State.abKnown, State.abKnown, h.store.mem]

theorem LoadAlike.slotUsed (n : Nat) : t.slotUsed n = s.slotUsed n := by rw [State.slotUsed, State.slotUsed, h.slotPay]

theorem LoadAlike.slotEpoch (n : Nat) : t.slotEpoch n = s.slotEpoch n := by rw [State.slotEpoch, State.slotEpoch, h.slotPay]

theorem LoadAlike.committed (a : Nat) : t.committed a = s.committed a := by
  unfold State.committed
  simp only [h.prec, h.slotUsed, h.slotEpoch]

theorem LoadAlike.inPool (n a : Nat) : t.inPool n a = s.inPool n a := by rw [State.inPool, State.inPool, h.prs]

theorem LoadAlike.freeArr (a : Nat) : t.freeArr a = s.freeArr a := by
  have hp : t.loadPlaces = s.loadPlaces := by rw [State.loadPlaces, State.loadPlaces, h.prs]
  unfold State.freeArr
  simp only [h.arr, h.committed, h.inPool, hp, h.prs]

theorem LoadAlike.freeFor (slot : Option Nat) (a : Nat) : freeFor t slot a = freeFor s slot a := by
  unfold Machine.freeFor
  rw [h.arr, h.freeArr, h.prec, h.committed]

theorem LoadAlike.nextEpoch : nextEpoch t = nextEpoch s := by
  have h1 : t.prec = s.prec := funext h.prec
  have h2 : t.slotEpoch = s.slotEpoch := funext h.slotEpoch
  unfold Machine.nextEpoch
  rw [h1, h2]

theorem LoadAlike.recorded (slot : Option Nat) (ord : Nat) : recorded t slot ord = recorded s slot ord := by
  unfold Machine.recorded
  simp only [h.arr, h.committed, h.prec]

theorem LoadAlike.slotOfDigest (d : BitVec 256) : slotOfDigest t d = slotOfDigest s d := by
  unfold Machine.slotOfDigest
  simp only [h.slotUsed, h.slotPay]

theorem LoadAlike.pertAt (off : Nat) : t.pertAt off = s.pertAt off := by rw [State.pertAt, State.pertAt, h.pert]

theorem LoadAlike.entry (c k : Nat) : t.entry c (k % 1024) = s.entry c (k % 1024) := by
  have hw : ∀ w < 4, t.reg (entAddr c (k % 1024) w) = s.reg (entAddr c (k % 1024) w) := fun w hw => h.regs _ (by
    have he : entAddr c (k % 1024) w = coreBase c + (0x30000 + 16 * (k % 1024) + 4 * w) := by unfold entAddr; omega
    rw [he]
    exact coreReg_not_ecc (by omega) (by omega))
  rw [State.entry, State.entry, hw 0 (by decide), hw 1 (by decide), hw 2 (by decide), hw 3 (by decide)]

theorem LoadAlike.reserve {c : Nat} (hc : c < 32) : t.reserve c = s.reserve c := by
  refine h.regs.fld ?_ _ _
  simp only [eccRegs, List.mem_cons, List.not_mem_nil, or_false, Reg.TNK_ECC_CNT, Reg.TST_HEALTH, Reg.TNK_ERR, Reg.TNK_UNC_ADDR, baseTnk, baseTst, Reg.PRS_RESV, basePrs]
  omega

theorem LoadAlike.dramBytes : t.dramBytes = s.dramBytes := by
  have hr : t.trimmed = s.trimmed := h.regs.rbit (by decide) _
  rw [State.dramBytes, State.dramBytes, hr, h.fus]

/-! ## The image -/

/-- A function of a memory that its ECC conditions do not enter. -/
theorem LoadAlike.ofDram {α : Type} (f : Mem → α) (hf : ∀ (m : Mem) e, f { m with ecc := e } = f m) : f t.mem.dram = f s.mem.dram := Mem.congr_cells f hf h.cells

theorem LoadAlike.imgSections (o : Nat) : imgSections t.mem.dram o = imgSections s.mem.dram o := h.ofDram (fun m => Machine.imgSections m o) fun _ _ => rfl

theorem LoadAlike.imgPlaces (o : Nat) : imgPlaces t.mem.dram o = imgPlaces s.mem.dram o := h.ofDram (fun m => Machine.imgPlaces m o) fun _ _ => rfl

theorem LoadAlike.placeKey (o : Nat) : placeKey t.mem.dram o = placeKey s.mem.dram o := h.ofDram (fun m => Machine.placeKey m o) fun _ _ => rfl

theorem LoadAlike.imgLayers (o : Nat) : imgLayers t.mem.dram o = imgLayers s.mem.dram o := h.ofDram (fun m => Machine.imgLayers m o) fun _ _ => rfl

theorem LoadAlike.manAt (o : Nat) : manAt t.mem.dram o = manAt s.mem.dram o := h.ofDram (fun m => Machine.manAt m o) fun _ _ => rfl

theorem LoadAlike.secAt (o : Nat) : secAt t.mem.dram o = secAt s.mem.dram o := h.ofDram (fun m => Machine.secAt m o) fun _ _ => rfl

theorem LoadAlike.gapsZero (o p : Nat) (l : List (Nat × Nat)) : gapsZero t.mem.dram o p l = gapsZero s.mem.dram o p l := by
  induction l generalizing p with
  | nil => rfl
  | cons x r ih =>
    obtain ⟨a, n⟩ := x
    have hz : t.mem.dram.zeroIn (o + p) (a - p) = s.mem.dram.zeroIn (o + p) (a - p) := h.ofDram (fun m => m.zeroIn (o + p) (a - p)) fun _ _ => rfl
    rw [Machine.gapsZero, Machine.gapsZero, hz, ih]

theorem LoadAlike.poolOf (o c : Nat) : poolOf t.mem.dram o c = poolOf s.mem.dram o c := by
  unfold Machine.poolOf
  simp only [h.imgLayers, h.manAt, onCore_congr h.cells]

theorem LoadAlike.target (prof sec r c : Nat) : target t.mem.dram prof sec r c = target s.mem.dram prof sec r c := h.ofDram (fun m => Machine.target m prof sec r c) fun _ _ => rfl

theorem LoadAlike.columnsOk (o : Nat) (p : Place) (a : Nat) : columnsOk t o p a = columnsOk s o p a := by
  unfold Machine.columnsOk
  simp only [h.view, h.manAt, h.secAt, h.target]

theorem LoadAlike.skimAt (o a : Nat) : skimAt t.mem.dram o a = skimAt s.mem.dram o a := by
  induction a with
  | zero => rfl
  | succ a ih =>
    have hl : ∀ b, skimLen t.mem.dram b = skimLen s.mem.dram b := fun b => h.ofDram (fun m => skimLen m b) fun _ _ => rfl
    rw [Machine.skimAt, Machine.skimAt, ih, hl]

theorem LoadAlike.imgHeaderOk (o n : Nat) : imgHeaderOk t o n = imgHeaderOk s o n := by
  have hid : t.fld Reg.GLB_ID 23 16 = s.fld Reg.GLB_ID 23 16 := h.regs.fld (by decide) _ _
  have hN : ∀ a k, t.mem.dram.readN a k = s.mem.dram.readN a k := fun a k => h.ofDram (fun m => m.readN a k) fun _ _ => rfl
  have hZ : ∀ a k, t.mem.dram.zeroIn a k = s.mem.dram.zeroIn a k := fun a k => h.ofDram (fun m => m.zeroIn a k) fun _ _ => rfl
  have hR : ∀ a k, t.mem.dram.read a k = s.mem.dram.read a k := fun a k => h.ofDram (fun m => m.read a k) fun _ _ => rfl
  unfold Machine.imgHeaderOk
  simp only [h.dramBytes, hid, hN, hZ, hR, h.imgSections]

theorem LoadAlike.manOk (o e : Nat) : manOk t o e = manOk s o e := by
  have hN : ∀ a k, t.mem.dram.readN a k = s.mem.dram.readN a k := fun a k => h.ofDram (fun m => m.readN a k) fun _ _ => rfl
  have hZ : ∀ a k, t.mem.dram.zeroIn a k = s.mem.dram.zeroIn a k := fun a k => h.ofDram (fun m => m.zeroIn a k) fun _ _ => rfl
  have hP : ∀ a k d, paddingZero t.mem.dram a k d = paddingZero s.mem.dram a k d := fun a k d => h.ofDram (fun m => paddingZero m a k d) fun _ _ => rfl
  have hbase : ∀ c, t.fld (Reg.SKM_BASE c) 20 4 = s.fld (Reg.SKM_BASE c) 20 4 := fun c => h.regs.fld (coreReg_not_ecc (k := 0x18000 + 4) (by decide) (by decide)) _ _
  have hlim : ∀ c, t.fld (Reg.SKM_LIMIT c) 21 4 = s.fld (Reg.SKM_LIMIT c) 21 4 := fun c => h.regs.fld (coreReg_not_ecc (k := 0x18000 + 8) (by decide) (by decide)) _ _
  unfold Machine.manOk
  simp only [h.manAt, h.secAt, hN, hZ, hP, h.skimAt, hbase, hlim]

theorem LoadAlike.manifestOk (o : Nat) : manifestOk t o = manifestOk s o := by
  have hm : Machine.manOk t o = Machine.manOk s o := funext (h.manOk o)
  unfold Machine.manifestOk
  simp only [h.imgLayers, h.imgPlaces, h.placeKey, h.manAt, h.imgSections, h.gapsZero, hm]

theorem LoadAlike.entryTaken (o : Nat) (slot : Option Nat) : entryTaken t o slot = entryTaken s o slot := by
  unfold Machine.entryTaken
  simp only [h.imgPlaces, h.placeKey, h.entry]

theorem LoadAlike.shortOf {c : Nat} (hc : c < 32) (o : Nat) (slot : Option Nat) : shortOf t o slot c = shortOf s o slot c := by
  unfold Machine.shortOf freeOf
  simp only [onCore_congr h.cells, h.poolOf, h.freeFor, h.reserve hc]

/-! ## Allocation -/

theorem LoadAlike.allocFixed (o : Nat) (slot : Option Nat) (alloc : List Nat) (ord : Nat) (l : List Place) (used : List Nat) :
    allocFixed t o slot alloc ord l used = allocFixed s o slot alloc ord l used := by
  induction l generalizing ord used with
  | nil => rfl
  | cons p r ih =>
    unfold Machine.allocFixed
    simp only [ih, h.recorded, h.placeKey, h.freeArr, h.worn, h.columnsOk]

theorem LoadAlike.allocPool (o : Nat) (alloc : List Nat) (c n : Nat) (used : List Nat) : allocPool t o alloc c n used = allocPool s o alloc c n used := by
  induction n generalizing used with
  | zero => rfl
  | succ n ih =>
    unfold Machine.allocPool
    simp only [ih, h.freeArr, h.worn, h.columnsOk]

theorem LoadAlike.allocPools (o : Nat) (alloc : List Nat) (n : Nat) (used : List Nat) : allocPools t o alloc n used = allocPools s o alloc n used := by
  induction n generalizing used with
  | zero => rfl
  | succ n ih =>
    unfold Machine.allocPools
    simp only [ih, h.poolOf, h.allocPool]

end
end

end Sys2Proof.Machine
end

section
/-!
PROOFS. Loads and unloads (O37): a load that passes its checks is in progress, and with LOAD_VERIFY and UNLOAD the statement.
-/
set_option Elab.async false

namespace Sys2Proof.Machine

/-! ## The start of step 3 -/

/-- A core without a shortfall lends no spare (R179). -/
theorem borrow_nothing (s : State) : borrow (List.replicate 32 0) s = (s, []) := by
  have h : ∀ c, ((List.replicate 32 0)[c]?).getD 0 = 0 := fun c => by
    rw [List.getElem?_replicate]
    split <;> rfl
  exact List.foldl_fixed' (f := fun (t : State × Tab Nat) c =>
    let n := ((List.replicate 32 0)[c]?).getD 0
    if n = 0 then t else (t.1.setReserve c (t.1.reserve c - n) n, Tab.insert t.2 c n)) (fun c => if_pos (h c)) _

/-- The load that an acceptance puts in progress, its places allocated and no spare taken. -/
def acceptedLoad (attach : Bool) (o len : Nat) (alloc : List Nat) (slot ep : Nat) (places : List Place) (todo : List (Place × Nat)) (at' : W64) : LoadJob :=
  ⟨.fw, attach, ⟨o, len, places, [], [], true⟩, slot, ep, todo, todo.map (fun p => p.1.arr), alloc, [], at'⟩

/-- The state with a load in progress. -/
def State.withLoad (l : LoadJob) (s : State) : State := { s with prs := { s.prs with load := some l } }

/-- The arrays that an attach keeps are prepared. -/
def attachArrs (o : Nat) (ps : List Place) (s : State) : State := ps.foldl (fun t p => attachArr o p t) s

theorem attachArrs_prs (o : Nat) (ps : List Place) (s : State) : (attachArrs o ps s).prs = s.prs := by
  have hone : ∀ (t : State) (p : Place), SameBut (evParts ++ [.arrs, .cores, .refs, .regs, .dram]) t (attachArr o p t) := fun t p =>
    ((t.setReg_same _ _).mono (by decide)).trans (buildRef_spec _ _ _ _ _).1.same
  exact SameBut.foldl hone ps s .prs (by decide)

/-- Without a shortfall and with every place allocated, the load comes to step 3 (R172). -/
theorem beginLoad_eq {s0 s : State} {attach : Bool} {slot : Nat} (hs : s = if attach then s0.detached slot else s0) (o len : Nat) (alloc : List Nat) (ep : Nat) {ps : List Place}
    {todo : List (Place × Nat)} {used : List Nat} {pools : List (List Nat)} (hshort : ∀ c < 32, shortOf s o (if attach then some slot else none) c = 0)
    (hfix : allocFixed s o (if attach then some slot else none) alloc 0 (imgPlaces s.mem.dram o) [] = some (ps, todo, used)) (hpool : allocPools s o alloc 32 used = some pools) :
    ∃ places kept, ∀ l, l = acceptedLoad attach o len alloc slot ep places todo s.cnt.aon → ∀ t, t = firstRecords slot ep o todo ((putShort (List.replicate 32 0) s0).withLoad l) →
      beginLoad .fw attach o len alloc slot ep s0 = if attach && t.prs.load.isSome then attachArrs o kept t else t := by
  have hz : (List.range 32).map (shortOf s o (if attach then some slot else none)) = List.replicate 32 0 :=
    List.eq_replicate_iff.mpr ⟨by rw [List.length_map, List.length_range], fun b hb => by
      obtain ⟨c, hc, rfl⟩ := List.mem_map.mp hb
      exact hshort c (List.mem_range.mp hc)⟩
  refine ⟨poolPlaces s.mem.dram o pools ps, (poolPlaces s.mem.dram o pools ps).filter (fun p => !p.pool && !todo.any (fun t => t.1.arr == p.arr)), fun l hl t ht => ?_⟩
  have hdet : (if attach then { s0 with prs := { s0.prs with images := Tab.erase s0.prs.images slot } } else s0) = s := hs.symm
  unfold beginLoad
  rw [hdet]
  dsimp only
  rw [hz, borrow_nothing, if_neg (by simp), hfix]
  dsimp only
  rw [hpool]
  subst ht hl
  rfl

/-- The load stays in progress through step 3, at the step that its records and arrays have come to. -/
theorem beginLoad_spec {s0 s v w : State} {attach : Bool} {slot : Nat} (hs : LoadAlike s s0) (hv : v = if attach then s.detached slot else s) (o len : Nat) (alloc : List Nat) (ep : Nat)
    {ps : List Place} {todo : List (Place × Nat)} {used : List Nat} {pools : List (List Nat)} (hshort : ∀ c < 32, shortOf v o (if attach then some slot else none) c = 0)
    (hfix : allocFixed v o (if attach then some slot else none) alloc 0 (imgPlaces s.mem.dram o) [] = some (ps, todo, used)) (hpool : allocPools v o alloc 32 used = some pools)
    (hworn : ∀ x p y, todo = x ++ p :: y → (x.foldl (fun z q => firstRecord q.1.arr ⟨.load, q.1, slot, ep, q.2, o⟩ z) s).worn p.1.arr = false)
    (hw : w = beginLoad .fw attach o len alloc slot ep s0) :
    ∃ l, w.prs.load = some l ∧ l.src = .fw ∧ l.attach = attach ∧ l.slot = slot ∧ l.epoch = ep ∧ l.img.off = o ∧ l.todo = todo ∧ l.begun = todo.map (fun p => p.1.arr)
      ∧ 3 ≤ loadStep w ∧ loadStep w ≤ 5 := by
  obtain ⟨v0, hv0⟩ : ∃ v0, v0 = if attach then s0.detached slot else s0 := ⟨_, rfl⟩
  have hvv : LoadAlike v v0 := by
    rw [hv, hv0]
    split
    · exact hs.detached slot
    · exact hs
  obtain ⟨places, kept, heq⟩ := beginLoad_eq hv0 o len alloc ep (fun c hc => (hvv.shortOf hc _ _).trans (hshort c hc))
    (by
      have hp : imgPlaces v0.mem.dram o = imgPlaces s.mem.dram o := by
        rw [hv0]
        split
        · exact hs.imgPlaces o
        · exact hs.imgPlaces o
      rw [hvv.allocFixed, hp, hfix])
    ((hvv.allocPools _ _ _ _).trans hpool)
  obtain ⟨l, hl⟩ : ∃ l, l = acceptedLoad attach o len alloc slot ep places todo v0.cnt.aon := ⟨_, rfl⟩
  obtain ⟨x, hx⟩ : ∃ x, x = (putShort (List.replicate 32 0) s0).withLoad l := ⟨_, rfl⟩
  obtain ⟨t, ht⟩ : ∃ t, t = firstRecords slot ep o todo x := ⟨_, rfl⟩
  have hstore : StoreAlike s x := hx ▸ hs.store.trans ⟨rfl, rfl, rfl⟩
  have hxl : x.prs.load = some l := by rw [hx]; rfl
  have htl : t.prs.load = some l := by
    rw [ht, firstRecords_prs slot ep o todo hstore (by rw [hxl]; rfl) hworn, hxl]
  have hwl : w.prs.load = some l := by
    rw [hw, heq l hl t (hx ▸ ht)]
    split
    · rw [attachArrs_prs, htl]
    · exact htl
  have hstep : 3 ≤ loadStep w ∧ loadStep w ≤ 5 := by
    unfold loadStep
    rw [hwl]
    dsimp only
    split
    · exact ⟨by decide, by decide⟩
    · split
      · exact ⟨by decide, by decide⟩
      · exact ⟨by decide, by decide⟩
  exact ⟨l, hwl, by rw [hl]; rfl, by rw [hl]; rfl, by rw [hl]; rfl, by rw [hl]; rfl, by rw [hl]; rfl, by rw [hl]; rfl, by rw [hl]; rfl, hstep⟩

/-! ## The checks of steps 1 and 2 -/

section
variable {s : State} {o n slot : Nat}

/-- The reads of steps 1 and 2. -/
def imgReads (o : Nat) (s : State) : State := (imgSections (imgRead o 256 s).mem.dram o).foldl (fun t x => imgRead (o + x.1) x.2 t) (imgRead o 256 s)

theorem imgReads_eq (o : Nat) (s : State) : (imgSections (imgRead o 256 s).mem.dram o).foldl (fun t x => imgRead (o + x.1) x.2 t) (imgRead o 256 s) = imgReads o s := rfl

theorem imgReads_loadAlike (o : Nat) (s : State) : LoadAlike s (imgReads o s) :=
  (imgRead_loadAlike s o 256).trans (LoadAlike.foldl (fun t _ => imgRead_loadAlike t _ _) _ _)

theorem sigreq_passes {t : State} (h : LoadAlike s t) (hsig : s.fus.sigreq = true → imgSigned s o = true) : (t.fus.sigreq && !imgSigned t o) = false := by
  rw [h.fus, imgSigned_congr h.cells]
  cases hq : s.fus.sigreq with
  | false => rfl
  | true => rw [hsig hq]; rfl

variable (alloc : List Nat) (hnone : s.prs.load = none) (hvprog : s.rbit Reg.PRS_STAT 16 = false) (hdram : s.dramBytes ≠ 0) (h5 : s.up 5 = true) (hhead : imgHeaderOk s o n = true)
  (hsig : s.fus.sigreq = true → imgSigned s o = true) (hman : manifestOk s o = true)
include hnone hvprog hdram h5 hhead hsig hman

/-- LOAD_PRESS of an image that passes begins the load. -/
theorem pressLoad_eq (hfree : freeSlot s = some slot) (htaken : entryTaken s o none = false) :
    ∃ t len, LoadAlike s t ∧ pressLoad .fw o n alloc s = beginLoad .fw false o len alloc slot (nextEpoch s) t := by
  have h1 := imgRead_loadAlike s o 256
  have h2 := imgReads_loadAlike o s
  refine ⟨imgReads o s, (imgReads o s).mem.dram.readN (o + 16) 8, h2, ?_⟩
  unfold pressLoad
  rw [hnone, if_neg (by simp), h5, if_neg (by simpa using hdram), hfree]
  dsimp only
  rw [h1.imgHeaderOk, hhead, if_neg (by decide), sigreq_passes h1 hsig, if_neg Bool.false_ne_true, imgReads_eq, h2.manifestOk, hman, if_neg (by decide), h2.entryTaken, htaken, if_neg Bool.false_ne_true, h2.regs.rbit (by decide), hvprog, if_neg Bool.false_ne_true, ← h2.nextEpoch]

/-- LOAD_ATTACH of an image that passes begins the load. -/
theorem attachLoad_eq (hpert : s.pertAt 0x98 = none) (hslot : slotOfDigest s (imgDigest s o) = some slot) (htaken : entryTaken s o (some slot) = false) (hdig : imgDigest s o = storedDigest s o)
    (hatt : ∀ x, Tab.find? s.prs.images slot = some x → x.att = false) (hsok : signatureOk s o = true) :
    ∃ t len, LoadAlike s t ∧ attachLoad .fw o n alloc s = beginLoad .fw true o len alloc slot (s.slotEpoch slot) t := by
  have h1 := imgRead_loadAlike s o 256
  have h2 := imgReads_loadAlike o s
  obtain ⟨hd, h3⟩ := seenDigest_loadAlike ((h2.pertAt _).trans hpert) o
  rw [imgDigest_congr h2.cells] at hd
  have hany : (Tab.find? s.prs.images slot).any (fun x => x.att) = false := by
    cases hx : Tab.find? s.prs.images slot with
    | none => rfl
    | some x => exact hatt x hx
  refine ⟨(seenDigest (imgReads o s) o).2, (imgReads o s).mem.dram.readN (o + 16) 8, h2.trans h3, ?_⟩
  unfold attachLoad
  rw [hnone, if_neg (by simp), h5, if_neg (by simpa using hdram)]
  dsimp only
  rw [h1.imgHeaderOk, hhead, if_neg (by decide), sigreq_passes h1 hsig, if_neg Bool.false_ne_true, imgReads_eq, h2.manifestOk, hman, if_neg (by decide), hd, h2.slotOfDigest, hslot, h2.entryTaken, htaken, if_neg Bool.false_ne_true, storedDigest_congr h2.cells, ← hdig, bne_self_eq_false, Option.getD_some,
    Option.isNone_some, Bool.or_self, if_neg Bool.false_ne_true, h2.prs, hany, if_neg Bool.false_ne_true, signatureOk_congr h2.cells o h2.fus h2.sec, hsok, if_neg (by decide),
    h2.regs.rbit (by decide), hvprog, if_neg Bool.false_ne_true, h2.slotEpoch]

end

/-! ## The statement -/

/-- Settles O37: the reads of an image leave what its checks, its footprint and its allocation rest on, so that the load begins with what the state before them gives; it stays in progress
while its first records are asked for. -/
theorem loadsAndUnloads : Obligations.LoadsAndUnloads := by
  unfold Obligations.LoadsAndUnloads
  intro s h4 hpert
  refine ⟨?_, fun l u hl hready hbow hnvs hu hok hsrc => loadVerify_spec h4 hpert hl hready hbow hnvs hu hok hsrc, fun slot hl huse hbow hnvs => unload_spec h4 slot hl huse hbow hnvs⟩
  intro attach off len alloc o n slot ep v ps todo used pools ho hn hnone hvprog hdram h5 hhead hsig hman hp ha hv hshort hep hfix hpool hworn
  obtain ⟨w, k, hw, hd⟩ : ∃ w k, LoadAlike s w ∧ exec (if attach then .loadAttach .fw off len alloc else .loadPress .fw off len alloc) s = .next (beginLoad .fw attach o k alloc slot ep w) := by
    subst ho hn hep
    cases attach with
    | false =>
      obtain ⟨hfree, htaken⟩ := hp rfl
      obtain ⟨w, k, hw, he⟩ := pressLoad_eq alloc hnone hvprog hdram h5 hhead hsig hman hfree htaken
      refine ⟨w, k, hw, ?_⟩
      have hx : exec (if false = true then .loadAttach .fw off len alloc else .loadPress .fw off len alloc) s = execLoadPress .fw off len alloc s := rfl
      rw [hx, execLoadPress, runLoad, h4, if_neg (by decide)]
      dsimp only
      rw [he]
      rfl
    | true =>
      obtain ⟨hslot, htaken, hdig, hatt, hsok⟩ := ha rfl
      obtain ⟨w, k, hw, he⟩ := attachLoad_eq alloc hnone hvprog hdram h5 hhead hsig hman hpert hslot htaken hdig hatt hsok
      refine ⟨w, k, hw, ?_⟩
      have hx : exec (if true = true then .loadAttach .fw off len alloc else .loadPress .fw off len alloc) s = execLoadAttach .fw off len alloc s := rfl
      rw [hx, execLoadAttach, runLoad, h4, if_neg (by decide)]
      dsimp only
      rw [he]
      rfl
  obtain ⟨l, hl⟩ := beginLoad_spec hw hv o k alloc ep hshort hfix hpool hworn rfl
  exact ⟨_, l, hd, hl⟩

end Sys2Proof.Machine
end
